-- ==== Sys2Proof/Word.lean ====
section
/-! DEFINITION. The machine's plainest word types: bytes, and the index types of the objects the
coordinate table of R18 and R19 names (fields, plots, ports, wavelength lanes, tines). -/

namespace Sys2Proof

/-- One byte of memory, of a register or of a packet. -/
abbrev Byte := BitVec 8

/-- Field F0 to F3 of the package. -/
abbrev FieldId := Fin 4

/-- Logical plot index y × 16 + x of a field. -/
abbrev PlotId := Fin 256

/-- Optical port of a field, 0 to 15. -/
abbrev PortId := Fin 16

/-- Wavelength lane of a port, 0 to 15. -/
abbrev Lambda := Fin 16

/-- Tine of a plot, 0 to 3. -/
abbrev TineId := Fin 4

end Sys2Proof
end

