-- ==== Sys2Proof/Syntax.lean ====
section
/-! DEFINITION. The commands of the block: one constructor of `Instr` for every row of
spec/opcode_table.json, with the row's operands, and the packet and message types they carry. -/

namespace Sys2Proof

/-- Who makes a register access (R581, R604, R689). `host pf` is physical function PF0 to PF4; `jtag` the tester. -/
inductive Agent where
  | host (pf : Fin 5)
  | yarzin
  | drill (f : FieldId) (p : PlotId)
  | jtag
  deriving DecidableEq, Repr

/-- The register spaces of R687. -/
inductive Space where
  | hub
  | field (f : FieldId)
  deriving DecidableEq, Repr

/-- Mailbox endpoints (R614). -/
inductive MbxEp where
  | host
  | yzh
  | yzr (f : FieldId)
  | fld (f : FieldId)
  | rimp (f : FieldId)
  | plot (f : FieldId) (p : PlotId)
  deriving DecidableEq, Repr

/-- RV32I loads. -/
inductive LoadKind where
  | lb | lh | lw | lbu | lhu
  deriving DecidableEq, Repr

/-- RV32I stores. -/
inductive StoreKind where
  | sb | sh | sw
  deriving DecidableEq, Repr

/-- What a mesh multicast carries (R253): doorbell bits (R185) or a block of an image (R575). -/
inductive McastLoad where
  | doorbell (v : Nat)
  | sowing (image block : Nat)
  deriving DecidableEq, Repr

/-- The boot flash as its SFDP tables describe it (R554, R560): whether it supports 1-4-4 fast read at 100 MHz, its density in
bytes, and the areas that have been programmed, by offset; every other byte reads 0xFF. -/
structure Flash where
  fast144 : Bool
  density : Nat
  areas : List (Nat × List (BitVec 8))
  deriving DecidableEq, Repr

/-- What power-up finds of the VBAT domain (R533, R671): VBAT in range and the oscillator running since; VBAT in range, but the
oscillator stopped; VBAT out of range. -/
inductive Vbat where
  | kept
  | stopped
  | lost
  deriving DecidableEq, Repr

/-- What the light sequence meets outside the package (R291, R600, R631): the level of LASER_EN,
whether PGOOD_OPT rises, the role byte each module answers IDENT with (none: no answer), the inlet
readings of the probe of each module's outputs (by inlet: 2 × engine + module, engine 16 the host
engine), in steps of 0.125 dBm, and whether a module reports a fault. -/
structure LightEnv where
  laserEn : Bool
  pgoodOpt : Bool
  ident : List (Option Nat)
  readings : List (List (List Int))
  faults : List Nat
  deriving DecidableEq, Repr

/-- MSI-X of a function as the host has configured it (R610): the enable and the function mask of its capability, and the mask
bits of its vectors. -/
structure MsixConfig where
  enable : Bool
  fnMask : Bool
  vecMask : Nat
  deriving DecidableEq, Repr

/-- A write that arms a boundary mark (R527): of TLY_MARK_NEXT, or of TLY_MARK_CTL. -/
inductive MarkWrite where
  | next (v : Nat)
  | ctl (armed : Bool) (period : Nat)
  deriving DecidableEq, Repr

/-- What a pin channel's measurement finds (R650, R651): open or shorted, a thermistor's resistance in ohms, a remote
diode's absolute temperature in 2^-4 K, as its two currents give it at ideality 1. -/
inductive PinReading where
  | fault
  | ohms (r : Nat)
  | diode (k : Nat)
  deriving DecidableEq, Repr

/-- A packet (R366): the fields of its route header, and the bytes that follow the header. -/
structure Packet where
  dst : Nat
  src : Nat
  allot : Nat
  cls : Nat
  stage : Nat
  exit : Nat
  exitV : Bool
  mcast : Bool
  maxis : Nat
  key : Nat
  body : List Byte
  deriving DecidableEq, Repr

/-- A flit (R324, R325), less its TYPE: the fields of its link-control word, its payload of 240
bytes, and its CRC. -/
structure Flit where
  seq : Nat
  ack : Nat
  vc : Nat
  pool : Bool
  crVc : Nat
  crPool : Bool
  crCount : Nat
  start : Nat
  len : Nat
  payload : List Byte
  crc : Nat
  deriving DecidableEq, Repr

/-- The commands of the block, one constructor per row of the operation table. -/
inductive Instr where
  /-- REGISTER_WRITE (R13). A write to a register that has no row of its own takes effect under
    the access code of each of its fields. -/
  | registerWrite (a : Agent) (sp : Space) (off bytes value : Nat)
  /-- HEARTBEAT (R35). Yarzin sends the 1 ms heartbeat to every rim over its hub link. -/
  | heartbeat
  /-- HUB_LOST_ENTRY (R35). A rim that has missed eight consecutive heartbeats enters hub-lost
    operation. -/
  | hubLostEntry (f : FieldId)
  /-- D2D_MODULE_LOSS (R32). A die-to-die module that cannot be repaired, or a link whose end
    field goes DARK, is taken out of service and traffic re-paths around the ring. -/
  | d2dModuleLoss (k : Fin 4)
  /-- RIM_FATAL_ERROR (R27). A VDD_RIM fault or rim fatal error makes the field DARK, with its
    ports dark and its die-to-die links down. -/
  | rimFatalError (f : FieldId)
  /-- TINE_PASS_START (R104). A tile pass enters the tines once its operands, claims and the bin
    scoreboard allow; its rows flow, the bottom units convert and write the bins, and the witness
    compares each row. -/
  | tinePassStart (f : FieldId) (p : PlotId)
  /-- WEIGHT_LOAD (R103). A FRESH pass writes its weight rows by broadcast, each row no earlier
    than the cycle in which the preceding shadow content is consumed. -/
  | weightLoad (f : FieldId) (p : PlotId)
  /-- TINE_PASS_RETIRE (R104). A pass retires, sets the poison bits of its mismatched rows and
    completes its instruction. -/
  | tinePassRetire (f : FieldId) (p : PlotId)
  /-- DEGENERATE_RETIRE (R107). A degenerate operation retires after every earlier operation,
    writing +0 rows only for K = 0 in OVERWRITE mode. -/
  | degenerateRetire (f : FieldId) (p : PlotId)
  /-- BALLAST_ROW (R111). A ballast row enters a tine in a cycle in which no operation row is
    ready, and its results are discarded. -/
  | ballastRow (f : FieldId) (p : PlotId) (t : TineId)
  /-- SAMPLE_PROCESS (R130). In an idle vector-unit cycle, a queued sample is recomputed in FP32
    and counted into its bucket. -/
  | sampleProcess (f : FieldId) (p : PlotId)
  /-- INJ_WITNESS_LANE (R144). INJ_ARITH is armed with point WITNESS_LANE, or clears ARM with
    NOFIRE when the point cannot fire. -/
  | injWitnessLane (f : FieldId) (plot : PlotId) (tine : TineId) (column : Fin 32) (b : Fin 64) (lane : Bool)
  /-- INJ_WITNESS_WEIGHT (R144). INJ_ARITH is armed with point WITNESS_WEIGHT. -/
  | injWitnessWeight (f : FieldId) (plot : PlotId) (tine : TineId) (column : Fin 32) (b : Fin 64) (lane : Bool)
  /-- INJ_SCARECROW_BIAS (R144). INJ_ARITH is armed with point SCARECROW_BIAS. -/
  | injScarecrowBias (f : FieldId) (plot : PlotId) (tine : TineId) (column : Fin 32) (b : Fin 64) (lane : Bool)
  /-- INJ_BIN_SINGLE (R144). INJ_ARITH is armed with point BIN_SINGLE. -/
  | injBinSingle (f : FieldId) (plot : PlotId) (tine : TineId) (column : Fin 32) (b : Fin 64) (lane : Bool)
  /-- INJ_BIN_DOUBLE (R144). INJ_ARITH is armed with point BIN_DOUBLE. -/
  | injBinDouble (f : FieldId) (plot : PlotId) (tine : TineId) (column : Fin 32) (b : Fin 64) (lane : Bool)
  /-- INJ_CLASS_REPORT (R144). INJ_ARITH is armed with point CLASS_REPORT. -/
  | injClassReport (f : FieldId) (plot : PlotId) (tine : TineId) (column : Fin 32) (b : Fin 64) (lane : Bool)
  /-- DRILL_INSTRUCTION (R148). The drill executes one RV32IMC or CSR instruction. -/
  | drillInstruction (f : FieldId) (p : PlotId)
  /-- DRILL_LOAD (R153). A drill scalar load claims its line and starts once no overlapping write
    claim is held. -/
  | drillLoad (f : FieldId) (p : PlotId) (k : LoadKind) (rd rs1 : Fin 32) (imm : Int) (compressed : Bool)
  /-- DRILL_STORE (R153). A drill scalar store claims its line and is written once no overlapping
    claim is held. -/
  | drillStore (f : FieldId) (p : PlotId) (k : StoreKind) (rs2 rs1 : Fin 32) (imm : Int) (compressed : Bool)
  /-- EBREAK (R150). EBREAK sends the drill to HALTED. -/
  | ebreak (f : FieldId) (p : PlotId) (compressed : Bool)
  /-- ECALL (R150). ECALL traps with cause 11. -/
  | ecall (f : FieldId) (p : PlotId)
  /-- MRET (R150). MRET returns from a trap and clears IN_TRAP. -/
  | mret (f : FieldId) (p : PlotId)
  /-- WFI (R151). WFI puts the drill into WAITING. -/
  | wfi (f : FieldId) (p : PlotId)
  /-- WFI_WAKE (R151). WFI ends when any bit is set in both mip and mie. -/
  | wfiWake (f : FieldId) (p : PlotId)
  /-- FENCE (R149). FENCE completes at once. -/
  | fence (f : FieldId) (p : PlotId)
  /-- FENCE_I (R149). FENCE.I empties the fetch buffer. -/
  | fenceI (f : FieldId) (p : PlotId)
  /-- DRILL_INTERRUPT (R151). An enabled local interrupt (doorbell, mailbox, tile done or transfer
    done) is taken by the drill. -/
  | drillInterrupt (f : FieldId) (p : PlotId)
  /-- DRILL_HOLD_SET (R177). Setting HOLD returns the drill to HELD at once and clears any pending
    HALT_REQ. -/
  | drillHoldSet (f : FieldId) (p : PlotId)
  /-- DRILL_HOLD_CLEAR (R149). Clearing HOLD from HELD starts the drill at the boot ROM. -/
  | drillHoldClear (f : FieldId) (p : PlotId)
  /-- HALT_REQ (R177). A write of HALT_REQ requests a halt at the next instruction boundary. -/
  | haltReq (f : FieldId) (p : PlotId)
  /-- HALT_REQ_HONOUR (R720). The drill halts at an instruction boundary, or abandons a TWAIT, and
    records the halt pc and the resume pc. -/
  | haltReqHonour (f : FieldId) (p : PlotId)
  /-- RESUME (R720). RESUME continues a HALTED drill at its resume pc. -/
  | resume (f : FieldId) (p : PlotId)
  /-- PLOT_STORE_SCRUB (R159). Scrub reads one plot-store line per 1,024 plot cycles and corrects
    it. -/
  | plotStoreScrub (f : FieldId) (p : PlotId)
  /-- PLOT_STORE_MESH_WRITE (R156). A write arriving from the mesh is applied to the plot store
    without claim checks. -/
  | plotStoreMeshWrite (f : FieldId) (p : PlotId) (addr : Nat) (data : List Byte) (poisoned : Bool)
  /-- XFER_NOP (R167). A NOP descriptor completes with OK. -/
  | xferNop (f : FieldId) (p : PlotId)
  /-- XFER_GET (R169). A GET descriptor starts in the transfer engine and issues its lines. -/
  | xferGet (f : FieldId) (p : PlotId)
  /-- XFER_PUT (R169). A PUT descriptor starts and issues its lines. -/
  | xferPut (f : FieldId) (p : PlotId)
  /-- XFER_PUT_PARTIAL (R169). A PUT_PARTIAL descriptor starts and issues its masked lines. -/
  | xferPutPartial (f : FieldId) (p : PlotId)
  /-- XFER_PUT_REDUCE (R169). A PUT_REDUCE descriptor starts and issues its lines of terms. -/
  | xferPutReduce (f : FieldId) (p : PlotId)
  /-- XFER_MCAST_PUT (R169). An MCAST_PUT descriptor starts and issues its line multicasts. -/
  | xferMcastPut (f : FieldId) (p : PlotId)
  /-- XFER_FETCH_ADD (R169). A FETCH_ADD descriptor starts and issues its one atomic. -/
  | xferFetchAdd (f : FieldId) (p : PlotId)
  /-- XFER_COMPARE_SWAP (R169). A COMPARE_SWAP descriptor starts and issues its one atomic. -/
  | xferCompareSwap (f : FieldId) (p : PlotId)
  /-- XFER_LINE_ISSUE (R169). The engine issues a line request, in round robin, while fewer than
    512 are outstanding. -/
  | xferLineIssue (f : FieldId) (p : PlotId)
  /-- XFER_LINE_DONE (R170). A line is no longer outstanding once its data is written locally or
    its acknowledgement arrives. -/
  | xferLineDone (f : FieldId) (p : PlotId) (qsn line : Nat)
  /-- XFER_DESCRIPTOR_COMPLETE (R170). A descriptor completes with the status of its first failed
    line, or with OK. -/
  | xferDescriptorComplete (f : FieldId) (p : PlotId) (qsn : Nat)
  /-- PLT_DOORBELL_SET (R172). A write to PLT_DOORBELL_SET sets pending doorbell bits. -/
  | pltDoorbellSet (f : FieldId) (p : PlotId) (v : Nat)
  /-- PLT_DOORBELL_CLEAR (R172). A drill write to PLT_DOORBELL clears pending bits. -/
  | pltDoorbellClear (f : FieldId) (p : PlotId) (v : Nat)
  /-- FLD_DOORBELL_RING (R185). A write to FLD_DOORBELL_RING rings one plot, a logical row, a
    logical column or every plot of the field. -/
  | fldDoorbellRing (f : FieldId) (v : Nat) (target : PlotId) (scope : Fin 4)
  /-- PLT_NOTIFY (R183). A drill write to PLT_NOTIFY raises EV_PLT_NOTIFY, or replaces an unsent
    value and counts it in LOST. -/
  | pltNotify (f : FieldId) (p : PlotId) (v : Nat) (leaves : Bool)
  /-- MAILBOX_SEND (R615). SEND sends a notice, which claims the receiver's slot or is refused
    with BUSY. -/
  | mailboxSend (ep : MbxEp)
  /-- MAILBOX_DELIVER (R616). A claimed notice is delivered when its receiver can take it, after
    the role epoch is checked. -/
  | mailboxDeliver (ep : MbxEp)
  /-- MAILBOX_IN_ACK (R618). A write of IN_ACK returns the code to the sender, sets DONE, clears
    PENDING and frees the slot. -/
  | mailboxInAck (ep : MbxEp) (code : Nat)
  /-- TDLD (R191). TDLD loads a descriptor register from the plot store. -/
  | tdld (f : FieldId) (p : PlotId) (dr : Fin 8) (rs1 : Fin 32)
  /-- TDSET (R191). TDSET writes one word of a descriptor register. -/
  | tdset (f : FieldId) (p : PlotId) (dr : Fin 8) (rs1 : Fin 32) (w : Fin 16)
  /-- TDGET (R191). TDGET reads one word of a descriptor register into rd. -/
  | tdget (f : FieldId) (p : PlotId) (rd : Fin 32) (dr : Fin 8) (w : Fin 16)
  /-- TMM (R194). TMM issues a tile operation: it takes a QSN, samples the seed and step, captures
    its descriptor, passes the refusal checks and declares its claims. -/
  | tmm (f : FieldId) (p : PlotId) (rd : Fin 32) (dr : Fin 8) (rs2 : Fin 32) (int : Bool)
  /-- TVEC (R194). TVEC issues a vector operation with its descriptor and modifier. -/
  | tvec (f : FieldId) (p : PlotId) (rd : Fin 32) (dr : Fin 8) (rs2 : Fin 32) (int : Bool)
  /-- TXFER (R219). TXFER reads a transfer descriptor, checks it under R168 and issues it to the
    transfer engine. -/
  | txfer (f : FieldId) (p : PlotId) (rd rs1 : Fin 32)
  /-- TFENCE (R221). TFENCE is issued into the queue. -/
  | tfence (f : FieldId) (p : PlotId) (rd : Fin 32) (int : Bool)
  /-- TFENCE_START (R221). TFENCE starts, and completes in the same cycle, once every earlier
    instruction has completed. -/
  | tfenceStart (f : FieldId) (p : PlotId)
  /-- TSCDRAIN (R222). TSCDRAIN is issued into the queue. -/
  | tscdrain (f : FieldId) (p : PlotId) (rd : Fin 32) (int : Bool)
  /-- TSCDRAIN_START (R222). TSCDRAIN starts once every earlier tile operation has retired. -/
  | tscdrainStart (f : FieldId) (p : PlotId)
  /-- TSCDRAIN_COMPLETE (R222). TSCDRAIN completes when the sample queue is empty. -/
  | tscdrainComplete (f : FieldId) (p : PlotId)
  /-- TRFENCE (R223). TRFENCE is issued into the queue. -/
  | trfence (f : FieldId) (p : PlotId) (rd rs1 : Fin 32) (int : Bool)
  /-- TRFENCE_START (R223). TRFENCE starts once earlier descriptors have issued their lines, and
    asks the gateway for a fence. -/
  | trfenceStart (f : FieldId) (p : PlotId)
  /-- TRFENCE_COMPLETE (R418). The fence completes with the status that the gateway returns. -/
  | trfenceComplete (f : FieldId) (p : PlotId)
  /-- TWAIT (R202). TWAIT stalls the drill in WAITING until the named QSN and every earlier one
    has completed. -/
  | twait (f : FieldId) (p : PlotId) (rd rs1 : Fin 32)
  /-- TWAIT_END (R202). The wait ends and rd receives the queued count. -/
  | twaitEnd (f : FieldId) (p : PlotId)
  /-- TVEC_NOP (R213). Vector NOP runs and writes nothing. -/
  | tvecNop (f : FieldId) (p : PlotId)
  /-- TVEC_ADD (R213). The vector unit runs ADD. -/
  | tvecAdd (f : FieldId) (p : PlotId)
  /-- TVEC_SUB (R213). The vector unit runs SUB. -/
  | tvecSub (f : FieldId) (p : PlotId)
  /-- TVEC_MUL (R213). The vector unit runs MUL. -/
  | tvecMul (f : FieldId) (p : PlotId)
  /-- TVEC_FMA (R213). The vector unit runs FMA with one rounding. -/
  | tvecFma (f : FieldId) (p : PlotId)
  /-- TVEC_MIN (R213). The vector unit runs MIN. -/
  | tvecMin (f : FieldId) (p : PlotId)
  /-- TVEC_MAX (R213). The vector unit runs MAX. -/
  | tvecMax (f : FieldId) (p : PlotId)
  /-- TVEC_ABS (R213). The vector unit runs ABS. -/
  | tvecAbs (f : FieldId) (p : PlotId)
  /-- TVEC_NEG (R213). The vector unit runs NEG. -/
  | tvecNeg (f : FieldId) (p : PlotId)
  /-- TVEC_CMP (R213). The vector unit runs the floating-point compare CMP. -/
  | tvecCmp (f : FieldId) (p : PlotId)
  /-- TVEC_SELECT (R213). The vector unit runs SELECT. -/
  | tvecSelect (f : FieldId) (p : PlotId)
  /-- TVEC_EXP2 (R213). The vector unit runs EXP2. -/
  | tvecExp2 (f : FieldId) (p : PlotId)
  /-- TVEC_LOG2 (R213). The vector unit runs LOG2. -/
  | tvecLog2 (f : FieldId) (p : PlotId)
  /-- TVEC_RECIP (R213). The vector unit runs RECIP. -/
  | tvecRecip (f : FieldId) (p : PlotId)
  /-- TVEC_RSQRT (R213). The vector unit runs RSQRT. -/
  | tvecRsqrt (f : FieldId) (p : PlotId)
  /-- TVEC_IADD (R213). The vector unit runs IADD. -/
  | tvecIadd (f : FieldId) (p : PlotId)
  /-- TVEC_ISUB (R213). The vector unit runs ISUB. -/
  | tvecIsub (f : FieldId) (p : PlotId)
  /-- TVEC_IMIN (R213). The vector unit runs IMIN. -/
  | tvecImin (f : FieldId) (p : PlotId)
  /-- TVEC_IMAX (R213). The vector unit runs IMAX. -/
  | tvecImax (f : FieldId) (p : PlotId)
  /-- TVEC_AND (R213). The vector unit runs AND. -/
  | tvecAnd (f : FieldId) (p : PlotId)
  /-- TVEC_OR (R213). The vector unit runs OR. -/
  | tvecOr (f : FieldId) (p : PlotId)
  /-- TVEC_XOR (R213). The vector unit runs XOR. -/
  | tvecXor (f : FieldId) (p : PlotId)
  /-- TVEC_SLL (R213). The vector unit runs SLL. -/
  | tvecSll (f : FieldId) (p : PlotId)
  /-- TVEC_SRA (R213). The vector unit runs SRA. -/
  | tvecSra (f : FieldId) (p : PlotId)
  /-- TVEC_SRL (R213). The vector unit runs SRL. -/
  | tvecSrl (f : FieldId) (p : PlotId)
  /-- TVEC_ICMP (R213). The vector unit runs the signed compare ICMP. -/
  | tvecIcmp (f : FieldId) (p : PlotId)
  /-- TVEC_CVT (R163). The vector unit runs the conversion CVT. -/
  | tvecCvt (f : FieldId) (p : PlotId)
  /-- TVEC_BENC (R163). The vector unit runs the block encode BENC. -/
  | tvecBenc (f : FieldId) (p : PlotId)
  /-- TVEC_BSCALE (R163). The vector unit runs BSCALE, writing scales and sub-shifts only. -/
  | tvecBscale (f : FieldId) (p : PlotId)
  /-- TVEC_BDEC (R213). The vector unit runs the block decode BDEC. -/
  | tvecBdec (f : FieldId) (p : PlotId)
  /-- TVEC_AMAX (R164). The vector unit runs AMAX. -/
  | tvecAmax (f : FieldId) (p : PlotId)
  /-- TVEC_SUM (R164). The vector unit runs SUM through one long accumulator. -/
  | tvecSum (f : FieldId) (p : PlotId)
  /-- TVEC_COMPLETE (R196). A vector operation completes when its last result byte is written. -/
  | tvecComplete (f : FieldId) (p : PlotId)
  /-- CQ_POP (R200). A drill load of the high word of PLT_CQ_POP removes the head completion
    record. -/
  | cqPop (f : FieldId) (p : PlotId) (rd rs1 : Fin 32) (imm : Int) (compressed : Bool)
  /-- HBM_READ (R238). A half-line read at the HBM controller corrects, poisons or returns the
    data. -/
  | hbmRead (f : FieldId) (half : Nat) (src : Fin 6)
  /-- HBM_WRITE (R240). A half-line write stores fresh check bits, or a partial write performs a
    read-modify-write; the write sets CUR for its mirror granule. -/
  | hbmWrite (f : FieldId) (addr : Nat) (data : List Byte) (poisoned : Bool) (src : Fin 6)
  /-- HBM_STACK_LOST (R235). A stack that stops responding at run time is lost, and the field
    becomes UNFIT. -/
  | hbmStackLost (f : FieldId) (stack : Fin 2)
  /-- ECS_READ (R236). Once per second the controller reads the stacks' error-check-and-scrub
    counts. -/
  | ecsRead (f : FieldId) (count0 count1 : Nat)
  /-- HBM_PATROL_SCRUB (R241). Each pseudo-channel patrol-reads one line slot per INTERVAL. -/
  | hbmPatrolScrub (f : FieldId) (pc : Fin 128)
  /-- MIRROR_WRITE_RELEASE (R246). A write held on a RES granule takes effect once that granule's
    take has read its last line. -/
  | mirrorWriteRelease (f : FieldId)
  /-- PLOT_FALLOW_SET (R249). Setting a bit of FLD_FALLOW_RUN makes the plot fallow and vacates
    its slot. -/
  | plotFallowSet (f : FieldId) (phys : Fin 272)
  /-- MESH_MULTICAST (R253). A row or column multicast delivers copies to selected in-service
    plots and skips vacant slots. -/
  | meshMulticast (f : FieldId) (isRow : Bool) (index : Fin 16) (mask : Nat) (load : McastLoad)
  /-- MESH_MULTICAST_COMPLETE (R253). The source learns that the last copy was delivered, with the
    count of copies. -/
  | meshMulticastComplete (f : FieldId)
  /-- CAL_SLOT_START (R271). Once per PERIOD a calibration slot moves the oldest wavelength's slot
    onto the fallow lane, or out of the stripe when no fallow lane exists. -/
  | calSlotStart (port : Option (FieldId × PortId))
  /-- CAL_SLOT_END (R272). Lock is confirmed and the calibrated wavelength becomes the fallow
    lane. -/
  | calSlotEnd (port : Option (FieldId × PortId)) (rx : Bool)
  /-- CAL_LOCK_TIMEOUT (R273). No lock within 1,000 µs fails the wavelength being calibrated. -/
  | calLockTimeout (port : Option (FieldId × PortId)) (rx : Bool)
  /-- WAVELENGTH_FAIL (R275). A wavelength is declared failed by ring lock, power, calibration or
    an Ebcen error rule. -/
  | wavelengthFail (port : Option (FieldId × PortId)) (rx : Bool) (w : Lambda) (reason : Fin 16)
  /-- LANE_RETRY (R278). A failed wavelength is retried in place of a calibration slot. -/
  | laneRetry (port : Option (FieldId × PortId)) (w : Lambda)
  /-- LANE_RETRY_END (R278). After the 1 ms check the wavelength is restored as the fallow lane,
    or stays failed. -/
  | laneRetryEnd (port : Option (FieldId × PortId)) (rx : Bool) (w : Lambda) (pass : Bool)
  /-- RX_POWER_MEASURE (R279). Each receiver measures its lanes' power every 100 µs and updates
    RX_PWR. -/
  | rxPowerMeasure (f : FieldId) (n : PortId) (powers : List Nat)
  /-- MARGIN_EVAL (R280). Every 10 ms Yarzin computes the lane, engine and module margins and the
    fade states. -/
  | marginEval (inletA inletB : List Int)
  /-- SWITCHOVER_RUN_START (R283). A queued switchover run starts at its mark or at once, and
    suspends calibration on the engines of the run. -/
  | switchoverRunStart (atMark : Bool)
  /-- ENGINE_SWITCHOVER (R283). An engine announces a light pause, switches inlet and relocks its
    rings. -/
  | engineSwitchover
  /-- ENGINE_SWITCHOVER_END (R283). The engine ends its pause, and the next engine may start 10 µs
    later. -/
  | engineSwitchoverEnd (micros : Nat) (lost : List (Nat × Nat))
  /-- ENGINE_SWITCH_REQ (R286). REQ queues a firmware switchover at the next boundary mark. -/
  | engineSwitchReq (f : FieldId) (e : Fin 4) (target : Fin 2)
  /-- ENGINE_SWITCH_NOW (R286). NOW queues a firmware switchover at once. -/
  | engineSwitchNow (f : FieldId) (e : Fin 4) (target : Fin 2)
  /-- MODULE_POLL (R289). Every 10 ms the hub reads STATUS and BIAS_READ from each Freshathen
    module. `answer` is what STATUS and what BIAS_READ answer,
    none where a read goes unanswered. -/
  | modulePoll (m : Fin 2) (answer : Option Nat × Option Nat)
  /-- MODULE_IBI (R289). The hub accepts an in-band interrupt from a module. -/
  | moduleIbi (m : Fin 2) (faults : Nat)
  /-- LASER_EN_DEASSERT (R292). LASER_EN deasserted in operation turns the modules OFF, shutters
    to PROBE and enters INTERLOCK. -/
  | laserEnDeassert
  /-- RELIGHT (R292). A write of RELIGHT reruns the light sequence from step 2. -/
  | relight (env : LightEnv)
  /-- INLET_LOST (R293). An inlet power fall of more than 10 dB removes the output and switches or
    darkens the engine. -/
  | inletLost (engine : Fin 17) (m : Fin 2)
  /-- APR_ENTER (R294). A receive fibre below −20 dBm for 1 ms sets the port's shutter to PROBE.
    -/
  | aprEnter (port : Option (FieldId × PortId))
  /-- APR_EXIT (R294). Light restored for 10 ms reopens the shutter. -/
  | aprExit (port : Option (FieldId × PortId))
  /-- TX_MODE_REQ (R269). A firmware write of TX_MODE_REQ requests a transmit lane-mode change. -/
  | txModeReq (f : FieldId) (n : PortId) (mode : Fin 4)
  /-- WAVELENGTH_LOCK (R314). A receiver locks a wavelength after 8 valid headers, advancing link
    training. -/
  | wavelengthLock (f : FieldId) (n : PortId) (w : Lambda)
  /-- WAVELENGTH_LOCK_LOSS (R314). 8 invalid headers lose lock on a wavelength. -/
  | wavelengthLockLoss (f : FieldId) (n : PortId) (w : Lambda)
  /-- MAP_CHANGE (R318). A received MAP_CHANGE is held pending until the SWITCH group. -/
  | mapChange (f : FieldId) (n : PortId) (slot wave : Fin 16)
  /-- MODE_CHANGE (R319). A received MODE_CHANGE is held pending until the SWITCH group. -/
  | modeChange (f : FieldId) (n : PortId) (mode : Fin 4)
  /-- CAL (R320). A received CAL start makes the receiver scan its drop ring; CAL end finishes the
    slot. -/
  | cal (f : FieldId) (n : PortId) (w : Lambda) (ends : Bool)
  /-- CAL_DONE (R320). A received CAL_DONE ends a slot, or fails the wavelength when lock was not
    confirmed. -/
  | calDone (f : FieldId) (n : PortId) (w : Lambda) (confirmed : Bool)
  /-- LANE_FAILED (R316). A received LANE_FAILED marks the transmit wavelength failed and queues a
    map change. -/
  | laneFailed (f : FieldId) (n : PortId) (w : Lambda) (reason : Fin 16)
  /-- LIGHT_PAUSE (R321). A received LIGHT_PAUSE begin suspends the loss rules, and end resumes
    them. -/
  | lightPause (f : FieldId) (n : PortId) (begins : Bool)
  /-- POWER_REPORT (R279). A received POWER_REPORT updates FAR_PWR. -/
  | powerReport (f : FieldId) (n : PortId) (part : Fin 4) (powers : List Nat)
  /-- BEACON (R338). A received beacon part is assembled, and a twice-equal beacon is handed to
    discovery. -/
  | beacon (f : FieldId) (n : PortId) (part : Fin 4) (arg : Nat)
  /-- TRAIN (R337). A received TRAIN with READY moves a READY port into ACTIVE at the next group,
    or resumes replay after a retrain. -/
  | train (f : FieldId) (n : PortId) (farState : Fin 16) (ready : Bool) (lastSeq : Nat)
  /-- QUAL_RESULT (R341). A received QUAL_RESULT gives the transmit pass mask that builds the lane
    map. -/
  | qualResult (f : FieldId) (n : PortId) (mask : Nat)
  /-- RETRAIN (R342). A received RETRAIN message puts an ACTIVE link into RETRAIN. -/
  | retrain (f : FieldId) (n : PortId)
  /-- SWITCH_GROUP (R318). A SWITCH group applies the pending map or mode change, or
    desynchronises the link when none is pending. `rx` is the receiving port and the codewords
    that the group brought, by wavelength. -/
  | switchGroup (f : FieldId) (rx : PortId × List (Nat × List Nat))
  /-- SWITCH_TIMEOUT (R318). A pending change not followed by a SWITCH group within 8 groups
    desynchronises the link. -/
  | switchTimeout (f : FieldId) (n : PortId)
  /-- MODE_CHANGE_RESUME (R319). The transmitter sends IDLE groups 10 µs after a mode switch and
    resumes flits at 20 µs. -/
  | modeChangeResume (f : FieldId) (n : PortId) (flits : Bool)
  /-- LIGHT_PAUSE_TIMEOUT (R321). The suspended rules resume 200 µs after a pause begins when no
    end has arrived. -/
  | lightPauseTimeout (f : FieldId) (n : PortId)
  /-- DATA_FLIT (R328). A received DATA flit is accepted in sequence, discarded as a duplicate, or
    NAKed; its ACK and credit report are applied. -/
  | dataFlit (f : FieldId) (n : PortId) (ty : Fin 8) (flit : Flit)
  /-- IDLE_FLIT (R326). A received IDLE flit delivers its ACK and credit report. -/
  | idleFlit (f : FieldId) (n : PortId) (flit : Flit)
  /-- NAK_FLIT (R329). A received NAK starts a replay from the NAKed sequence number. -/
  | nakFlit (f : FieldId) (n : PortId) (flit : Flit)
  /-- FLIT_SLOT (R334). Each flit slot sends a replay, or a flit of the channel that pick chooses,
    or an idle flit. -/
  | flitSlot (f : FieldId) (link : Fin 18)
  /-- REPLAY_TIMEOUT (R329). A held flit unacknowledged for REPLAY_TIMEOUT triggers a replay from
    the oldest held flit. -/
  | replayTimeout (f : FieldId) (n : PortId) (seq : Nat)
  /-- LOCK_TIMEOUT (R336). 100 ms in LOCK without lock sets LINK_LOCK_TIMEOUT once. -/
  | lockTimeout (f : FieldId) (n : PortId)
  /-- QUALIFY_END (R339). Qualification of a wavelength ends by count, early failure or 6 s, and
    the lane map is built from the results. -/
  | qualifyEnd (f : FieldId) (n : PortId) (w : Lambda) (lineBits corrected uncorrectable : Nat)
  /-- RX_SILENT_TIMEOUT (R342). No locked receive wavelength for 10 µs puts the link into RETRAIN.
    -/
  | rxSilentTimeout (f : FieldId) (n : PortId)
  /-- RETRAIN_TIMEOUT (R343). A retrain lasting more than 1 ms takes the link down and discards
    its replay buffer. -/
  | retrainTimeout (f : FieldId) (n : PortId)
  /-- LINK_ENABLE_CLEAR (R336). Clearing ENABLE moves the link to DISABLED at the next group. -/
  | linkEnableClear (f : FieldId) (n : PortId)
  /-- LINK_RETRY (R349). RETRY moves a FAILED link to LOCK, or retrains an ACTIVE one. -/
  | linkRetry (f : FieldId) (n : PortId)
  /-- BEACON_SEND (R338). A port sends its beacon at the rate of its state. -/
  | beaconSend (f : FieldId) (n : PortId)
  /-- LANE_CONTROL_REPEAT (R317). LANE_FAILED, TRAIN, QUAL_RESULT and POWER_REPORT messages are
    repeated on their timers. -/
  | laneControlRepeat (f : FieldId) (n : PortId)
  /-- MISSING_TIMEOUT (R362). A planned port 100 ms in LOCK or BEACON without a beacon gets
    outcome MISSING. -/
  | missingTimeout (f : FieldId) (n : PortId)
  /-- DISC_APPROVE (R365). An RTE_DISC_APPROVE write approves a held port, or sets REFUSED. -/
  | discApprove (f : FieldId) (mask : Nat)
  /-- DISC_APPROVAL_WITHDRAW (R389). A write of 0 to APPROVED withdraws an approval. -/
  | discApprovalWithdraw (f : FieldId) (n : PortId)
  /-- ROUTE_PACKET (R370). A router routes a received or issued packet to delivery, a port or a
    die-to-die link, or drops it. -/
  | routePacket (f : FieldId) (link : Fin 19) (vc : Fin 8) (stage : Fin 9)
  /-- MCAST_COPY (R377). The source router makes the next multicast copy as output buffers allow.
    -/
  | mcastCopy (f : FieldId)
  /-- SEAL (R382). SEAL checks the staging bank and activates it at once or at the next mark,
    sealing the SL fields on the first success. -/
  | sealTables (f : FieldId)
  /-- CONG_SAMPLE (R384). Every 64 rim cycles the router samples buffer occupancy into buckets. -/
  | congSample (f : FieldId)
  /-- CONG_WINDOW_END (R384). At each window end the counts are copied to RTE_CONG_SNAP and
    restarted. -/
  | congWindowEnd (f : FieldId)
  /-- FLD_ALLOT_WRITE (R378). A write of FLD_ALLOT changes the field's allotment at once and ends
    any halt. -/
  | fldAllotWrite (f : FieldId) (id : Nat)
  /-- GATEWAY_LINE_ACCEPT (R403). The issuing gateway checks a line, refuses it or accepts it with
    a sequence number. -/
  | gatewayLineAccept (f : FieldId) (p : PlotId)
  /-- ORDERED_LINE_SEND (R408). An ordered line is sent once it lies within WINDOW and has a
    retransmit store slot. -/
  | orderedLineSend (f : FieldId) (req : Nat)
  /-- GET (R419). A received GET is checked and answered with the line. -/
  | get (f : FieldId) (pkt : Packet)
  /-- PUT (R409). A received ordered PUT is applied, held, deferred or discarded as a duplicate.
    -/
  | put (f : FieldId) (pkt : Packet)
  /-- PUT_PARTIAL (R409). A received PUT_PARTIAL is applied in order with its byte mask. -/
  | putPartial (f : FieldId) (pkt : Packet)
  /-- PUT_REDUCE (R423). A received PUT_REDUCE adds its terms into reduction-table entries,
    creating them or deferring. -/
  | putReduce (f : FieldId) (pkt : Packet)
  /-- PUT_REDUCE_COMB (R428). A combined put-reduce is applied whole, or not at all, and each
    contributor is answered. -/
  | putReduceComb (f : FieldId) (pkt : Packet)
  /-- MCAST_PUT (R422). A received multicast copy writes its line and is acknowledged. -/
  | mcastPut (f : FieldId) (pkt : Packet)
  /-- FETCH_ADD (R421). A received FETCH_ADD is performed atomically, or answered from the cache.
    -/
  | fetchAdd (f : FieldId) (pkt : Packet)
  /-- COMPARE_SWAP (R421). A received COMPARE_SWAP is performed atomically, or answered from the
    cache. -/
  | compareSwap (f : FieldId) (pkt : Packet)
  /-- FLUSH_REQ (R425). A received FLUSH_REQ flushes the allotment's changed entries and answers
    FLUSH_ACK. -/
  | flushReq (f : FieldId) (pkt : Packet)
  /-- GET_RESP (R419). A received GET_RESP writes the line locally. -/
  | getResp (f : FieldId) (pkt : Packet)
  /-- ACK (R412). A received ACK advances ACKED and completes the covered lines. -/
  | ack (f : FieldId) (pkt : Packet)
  /-- DEFER (R411). A received DEFER resets the line's timer and schedules a resend. -/
  | defer (f : FieldId) (pkt : Packet)
  /-- ATOMIC_RESP (R421). A received ATOMIC_RESP writes the old value at LOCAL. -/
  | atomicResp (f : FieldId) (pkt : Packet)
  /-- MC_ACK (R413). A received MC_ACK records one member's acknowledgement of a multicast line.
    -/
  | mcAck (f : FieldId) (pkt : Packet)
  /-- FLUSH_ACK (R417). A received FLUSH_ACK lets a fence that awaits it complete. -/
  | flushAck (f : FieldId) (pkt : Packet)
  /-- ACK_SEND (R412). The receiving side sends a cumulative ACK within 256 ns of EXP advancing.
    -/
  | ackSend (f : FieldId) (src : Nat)
  /-- DEFER_RESEND (R411). A deferred line is sent again after its delay. -/
  | deferResend (f : FieldId) (req : Nat)
  /-- AGE_TOKEN_TIMEOUT (R410). A token holder that sends no line within 100 µs loses its place.
    -/
  | ageTokenTimeout (f : FieldId) (src : Nat)
  /-- RETX_TIMEOUT (R413). A request's timer expires; the request is resent, or fails after LIMIT
    resends. -/
  | retxTimeout (f : FieldId) (req : Nat) (member : Nat)
  /-- ALLOT_HALT (R416). A GWY_ALLOT_HALT write naming the field's allotment halts its plots,
    requests and entries. -/
  | allotHalt (f : FieldId) (id : Nat)
  /-- ABSORBER_WRITEBACK (R422). An absorber line idle for 256 rim cycles, or evicted, is written
    to HBM. -/
  | absorberWriteback (f : FieldId) (line : Nat)
  /-- ATOMIC_CACHE_EXPIRY (R421). A cached atomic response is dropped after 100 µs. -/
  | atomicCacheExpiry (f : FieldId) (src txn : Nat)
  /-- GWY_RED_RELEASE (R425). A write flushes and releases the named allotment's reduction
    entries. -/
  | gwyRedRelease (f : FieldId) (id : Nat)
  /-- COMB_SLOT_SEND (R427). A combining slot leaves as PUT_REDUCE_COMB on credit, at 8
    contributors, or after 2 µs. -/
  | combSlotSend (f : FieldId) (slot : Nat) (aged : Bool)
  /-- PUT_REDUCE_RESUME (R529). A put-reduce waiting on a mark's flush write creates new entries
    from the flushed value. -/
  | putReduceResume (f : FieldId)
  /-- REGISTER (R447). SHF_GROUP_CMD REGISTER starts registration of a group in a slot. -/
  | register (f : FieldId) (slot : Fin 64) (addr : Nat)
  /-- REGISTRATION_COMPLETE (R447). Registration finishes its checks and reports its result. -/
  | registrationComplete (f : FieldId) (slot : Fin 64)
  /-- REFORM (R465). REFORM re-registers a group under a new epoch and aborts the old collective.
    -/
  | reform (f : FieldId) (slot : Fin 64) (addr : Nat)
  /-- RELEASE (R448). RELEASE frees a slot and aborts its collective. -/
  | release (f : FieldId) (slot : Fin 64)
  /-- TAIL_WRITE (R450). A write to a tail line signals the sheaf engine to read TAIL and the new
    descriptors. -/
  | tailWrite (f : FieldId) (slot : Fin 64)
  /-- COLLECTIVE_START (R455). The next collective of a group is read, checked and starts its
    digest handshake. -/
  | collectiveStart (f : FieldId) (slot : Fin 64)
  /-- READY_LINE_WRITE (R452). A write to a ready line lets input chunks that have become ready be
    read. -/
  | readyLineWrite (f : FieldId) (slot : Fin 64)
  /-- DIGEST (R455). A received DIGEST is compared, leading to MATCH or DESCRIPTOR_MISMATCH. -/
  | digest (f : FieldId) (pkt : Packet)
  /-- PIECE (R457). A received piece is written to scratch and receipted. -/
  | piece (f : FieldId) (pkt : Packet)
  /-- PIECE_SEND (R461). A sender sends its next piece while it holds a credit. -/
  | pieceSend (f : FieldId) (slot : Fin 64) (stage : Fin 4) (dst : Nat)
  /-- CHUNK_FOLD (R457). A carrier folds a complete chunk-stage in long accumulators; at the owner
    it is rounded and gathered. -/
  | chunkFold (f : FieldId) (slot : Fin 64) (stage : Fin 4) (chunk : Nat)
  /-- GATHER (R459). A received gather part is written to DST, forwarded and receipted. -/
  | gather (f : FieldId) (pkt : Packet)
  /-- RECEIPT (R461). A received RECEIPT settles a sent part. -/
  | receipt (f : FieldId) (pkt : Packet)
  /-- CREDIT (R461). A received CREDIT returns a piece credit to the sender. -/
  | credit (f : FieldId) (pkt : Packet)
  /-- ABORT (R462). A received ABORT completes the collective with its status and is forwarded
    once. -/
  | abort (f : FieldId) (pkt : Packet)
  /-- PART_RESEND (R461). A part without a RECEIPT after 20 µs is sent again, up to 3 times. -/
  | partResend (f : FieldId) (slot : Fin 64) (k : Nat)
  /-- STAGE_TIMEOUT (R462). A silent peer for STAGE_TIMEOUT completes the collective MEMBER_SILENT
    and floods ABORT. -/
  | stageTimeout (f : FieldId) (slot : Fin 64)
  /-- HEALTH_WINDOW_CLOSE (R475). At each 1 s tally window Yarzin computes every field's score and
    run. -/
  | healthWindowClose
  /-- HARD_EVENT (R479). Within 1 ms of a hard event Yarzin updates the score and sets HARD and
    EXPEL. -/
  | hardEvent (f : FieldId)
  /-- EXPEL_CLEAR (R480). The fabric manager clears EXPEL, which resets RUN and HARD. -/
  | expelClear (f : FieldId)
  /-- GRANULE_TAKE (R245). The gateway takes a RES or CUR granule, clearing its bit, and streams
    it to the partners. -/
  | granuleTake (f : FieldId) (granule : Nat)
  /-- MIR_MARK_SEND (R492). With RES empty, the source sends MIR_MARK and lowers commit_due. -/
  | mirMarkSend (f : FieldId)
  /-- MIR_MARK (R493). A partner commits the epoch, applies the staged granules and frees their
    slots. -/
  | mirMark (f : FieldId) (pkt : Packet)
  /-- MIR_LAYOUT (R497). A partner takes the source's region layout, discarding uncommitted
    staging on RESTART. -/
  | mirLayout (f : FieldId) (pkt : Packet)
  /-- MIR_PULL (R507). A partner answers a pull with a refusal, or enters PUSHING. -/
  | mirPull (f : FieldId) (pkt : Packet)
  /-- MIR_PUSH (R507). A partner pushes every copy granule to the spare and then sends MIR_DONE.
    -/
  | mirPush (f : FieldId) (n : Fin 2)
  /-- MIR_DONE (R508). The spare compares count and digest and enters LOADED, or fails over. -/
  | mirDone (f : FieldId) (pkt : Packet)
  /-- MIR_PARTNER_TIMEOUT (R497). A partner silent for 1 s leaves the source in NO_PARTNER. -/
  | mirPartnerTimeout (f : FieldId) (n : Fin 2)
  /-- MIR_LAYOUT_RETRY (R497). In NO_PARTNER the source retries MIR_LAYOUT every 100 ms. -/
  | mirLayoutRetry (f : FieldId) (n : Fin 2)
  /-- MIR_LOAD_START (R510). START begins loading the spare by sending MIR_PULL. -/
  | mirLoadStart (f : FieldId)
  /-- MIR_LOAD_ABORT (R509). ABORT fails the load with MIRROR_SOURCE_LOST. -/
  | mirLoadAbort (f : FieldId)
  /-- MIR_LOAD_TIMEOUT (R509). No push line for 100 ms fails over to SRC1, or fails the load. -/
  | mirLoadTimeout (f : FieldId)
  /-- INJ_REQ (R512). REQ starts the 1 s unlock request window, or is refused. -/
  | injReq
  /-- INJ_VALUE (R512). A presented value opens the lock if valid, or refuses it. -/
  | injValue (value : Nat)
  /-- INJ_LOCK (R512). LOCK closes the lock and clears ARM in every injection register. -/
  | injLock
  /-- INJ_WINDOW_EXPIRY (R512). The 1 s request window ends. -/
  | injWindowExpiry
  /-- INJ_HOLDOFF_END (R512). The 10 s period after a refusal ends, and REQ is accepted again. -/
  | injHoldoffEnd
  /-- TALLY_BEACON_SEND (R519). Every 10 µs a field sends a stamped tally beacon on each admitted
    link. -/
  | tallyBeaconSend (f : FieldId) (link : Fin 18)
  /-- TALLY_BEACON (R521). A received tally beacon updates the candidate parents and, from the
    parent, runs the servo. -/
  | tallyBeacon (f : FieldId) (link : Fin 18) (pkt : Packet)
  /-- HUB_TALLY_BEACON (R518). The hub's tally follows its field through beacons every 10 µs. -/
  | hubTallyBeacon
  /-- ROOT_LOST (R524). A ROOT_BEAT that has not advanced for 1 ms puts the field into HOLDOVER.
    -/
  | rootLost (f : FieldId)
  /-- ROOT_INITIAL (R524). At stage FABRIC, the rank-0 root acts unless it hears an alive root
    within 10 ms. -/
  | rootInitial (f : FieldId)
  /-- ROOT_TAKEOVER (R524). A rank-k root field acts as root after k ms without an alive lower-
    ranked root. -/
  | rootTakeover (f : FieldId)
  /-- TALLY_LOCK_TIMEOUT (R524). A tally not LOCKED or ROOT 1 s after stage FABRIC reports
    TALLY_UNLOCKED. -/
  | tallyLockTimeout (f : FieldId)
  /-- MARK_ARM (R527). A write arming TLY_MARK_NEXT is accepted, or is refused with MARK_PAST. -/
  | markArm (f : FieldId) (w : MarkWrite)
  /-- BOUNDARY_MARK (R528). At the mark cycle, the mark's actions 1 to 9 take effect. -/
  | boundaryMark (f : FieldId)
  /-- HOUSE_MARK (R527). While unarmed, the tally crossing a multiple of 2^30 performs a mark. -/
  | houseMark (f : FieldId)
  /-- DRIFT_REPORT_WRITE (R132). The drift report is written and the drift table cleared. -/
  | driftReportWrite (f : FieldId)
  /-- STEP_TIMING_REPORT_WRITE (R486). The step timing report is written and the lateness records
    cleared. -/
  | stepTimingReportWrite (f : FieldId)
  /-- RED_ENTRY_RELEASE (R425). Flushed lines are written and their reduction entries released. -/
  | redEntryRelease (f : FieldId)
  /-- MARK_DONE (R528). The mark's actions are complete; DONE and DONE_NS are set and EV_TLY_MARK
    is raised. -/
  | markDone (f : FieldId)
  /-- TALLY_MARK_PULSE (R530). The TALLY_MARK land pulses at each period crossing or mark. -/
  | tallyMarkPulse
  /-- CALENDAR_COMP (R534). Once per second the calendar corrects its rate by skipping or adding a
    crystal count. -/
  | calendarComp (temp : Option Int)
  /-- CAL_APPLY (R535). APPLY loads the calendar time at the next crystal edge and sets VALID. -/
  | calApply
  /-- VBAT_LOW (R533). VBAT below 2.2 V under main power sets VBAT_LOW and raises the event. -/
  | vbatLow
  /-- COLD_RESET (R578). PWRON_RST_N or loss of VDD_HUB resets the package and restarts at stage
    POWER. -/
  | coldReset (powerOn : Bool) (straps : Fin 16) (vbat : Vbat)
  /-- WARM_RESET (R578). A WARM write or an I3C target reset restarts bring-up at stage SEED. -/
  | warmReset (i3c : Bool)
  /-- PARTITION_RESET (R579). A PART write resets one READY field's compute partition, or is
    refused. -/
  | partitionReset (f : FieldId)
  /-- PARTITION_RESET_DONE (R579). The field returns to READY, or becomes UNFIT, after remap and
    fetch. -/
  | partitionResetDone (f : FieldId) (march : Nat)
  /-- STAGE_POWER (R551). Stage POWER brings up the hub and lights and trains the host link. -/
  | stagePower (env : LightEnv)
  /-- STAGE_SEED (R554). Stage SEED discovers the flash, checks images and measures boot. -/
  | stageSeed (env : LightEnv) (flash : Option Flash)
  /-- STAGE_FIELD_POWER (R555). Stage FIELD POWER enables the field rails and self-tests the rims.
    -/
  | stageFieldPower (pgood rimOk : Fin 16) (modules : List Nat)
  /-- STAGE_MEMORY (R556). Stage MEMORY trains HBM, repairs, runs the march test and remaps. -/
  | stageMemory (trained : Fin 256) (march : List Nat) (carry : Option Flash) (repairs : List Nat)
  /-- STAGE_LIGHT (R291). Stage LIGHT runs the probe and light sequence. -/
  | stageLight (env : LightEnv)
  /-- STAGE_LINKS (R557). Stage LINKS writes plan and arbitration and lets the links train. -/
  | stageLinks
  /-- STAGE_KNOWN_ANSWER (R571). Stage KNOWN-ANSWER tests every plot and rim and remaps. -/
  | stageKnownAnswer (plots : List Nat) (rims : Fin 16)
  /-- STAGE_FIRMWARE (R573). Stage FIRMWARE writes the drill images and starts delivery. -/
  | stageFirmware
  /-- STAGE_FABRIC (R558). Stage FABRIC writes the fabric registers and seals. -/
  | stageFabric
  /-- STAGE_READY (R559). STARTING fields become READY. -/
  | stageReady
  /-- STAGE_END (R552). A stage's work ends and it enters GATED, opening at once under auto-
    advance, or fails. -/
  | stageEnd
  /-- STAGE_GO (R552). A SEED_STAGE_GO write opens a gate or starts a host-stepped stage. -/
  | stageGo (stage : Fin 16)
  /-- STAGE_SKIP (R550). SKIP skips a permitted stage in host-stepped mode. -/
  | stageSkip (stage : Fin 16)
  /-- HOST_IMAGE (R554). HOST_IMAGE makes the hub check the host-written image. -/
  | hostImage
  /-- IMAGES_READY (R573). IMAGES_READY lets stage FIRMWARE continue with host images. -/
  | imagesReady
  /-- HOST_LIGHT_RETRY (R554). While SEED waits with the host engine dark, the host-light step
    repeats once per second. -/
  | hostLightRetry (env : LightEnv)
  /-- PGOOD_TIMEOUT (R555). PGOOD_Ff low 20 ms after PWREN_Ff makes the field DARK. -/
  | pgoodTimeout (f : FieldId)
  /-- LINKS_STAGE_TIMEOUT (R557). Stage LINKS ends 7.0 s after it started. -/
  | linksStageTimeout
  /-- FABRIC_STAGE_TIMEOUT (R558). Stage FABRIC ends after 1 s with TALLY_UNLOCKED. -/
  | fabricStageTimeout
  /-- BOOT_FETCH (R574). The boot ROM fetches and checks image blocks, then jumps to ENTRY. -/
  | bootFetch (f : FieldId) (p : PlotId)
  /-- SOWING_ROW (R575). The sowing engine multicasts a logical row's blocks once its plots are in
    RECEIVE or 100 µs pass. -/
  | sowingRow (f : FieldId) (timeout : Bool)
  /-- JTAG_RESPONSE (R581). Writing the top of HUB_JTAG_RESP checks the signature and unlocks or
    refuses. -/
  | jtagResponse (sigR sigS : Nat)
  /-- JTAG_HOLDOFF_END (R581). The 10 s refusal period ends. -/
  | jtagHoldoffEnd
  /-- MEMORY_READ (R606). A host Memory Read TLP reads through BAR0 or BAR2. -/
  | memoryRead (fn : Fin 5) (bar2 : Bool) (addr len : Nat)
  /-- MEMORY_WRITE (R606). A host Memory Write TLP writes through BAR0 or BAR2. -/
  | memoryWrite (fn : Fin 5) (bar2 : Bool) (addr : Nat) (data : List Byte) (be : Nat) (ep : Bool)
  /-- FUNCTION_LEVEL_RESET (R602). FLR resets a function's PCIe state, rings, mailboxes and
    aperture. -/
  | functionLevelReset (fn : Fin 5)
  /-- POWER_STATE_CHANGE (R602). A function moves between D0 and D3hot. -/
  | powerStateChange (fn : Fin 5) (d3 : Bool)
  /-- HOST_LINK_RECOVERY (R597). A host lane-map change passes the link through Recovery. -/
  | hostLinkRecovery
  /-- HOST_RETRAIN (R620). RETRAIN sends the host link through Recovery once. -/
  | hostRetrain
  /-- MSIX_MESSAGE (R610). An MSI-X message of a class is sent when a record or notice calls for
    it and the link allows. -/
  | msixMessage (fn : Fin 5) (cls : Fin 12) (cfg : Option MsixConfig)
  /-- EVT_CONS_WRITE (R624). A write of CONS frees ring space and re-arms MSI-X. -/
  | evtConsWrite (sp : Space) (v : Nat)
  /-- EVT_RING_CONFIG (R623). A write changing BASE or SIZE_LOG resets PROD and CONS. -/
  | evtRingConfig (sp : Space) (enable : Bool) (sizeLog base : Nat)
  /-- MGMT_READ (R612). GO sends a VC0 management read to a node, or completes refused or BUSY. -/
  | mgmtRead (node off words : Nat)
  /-- MGMT_READ_SERVE (R678). A rim management endpoint serves its next queued read, or discards
    one when the queue is full. -/
  | mgmtReadServe (f : FieldId) (arrive : Option Packet)
  /-- MGMT_REPLY (R612). The reply fills HUB_MGMT_DATA and sets RESULT. -/
  | mgmtReply (pkt : Packet)
  /-- MGMT_TIMEOUT_EXPIRY (R612). No reply within 100 µs completes the read with MGMT_TIMEOUT. -/
  | mgmtTimeoutExpiry
  /-- EVENT_FORWARD (R613). An event of a forwarded class is sent on VC0 to the collector. -/
  | eventForward (f : FieldId)
  /-- FORWARDED_EVENT (R613). The collector's hub writes a received record into its ring with
    FORWARDED set. -/
  | forwardedEvent (f : FieldId) (pkt : Packet)
  /-- FWD_DISCARD_TIMEOUT (R679). A forwarded record waiting 1 ms is discarded and counted in
    DROPPED. -/
  | fwdDiscardTimeout (f : FieldId)
  /-- POWER_MODE_REQUEST (R637). A write of MODE requests an operating mode, at once or at a mark.
    -/
  | powerModeRequest (mode : Fin 4) (atMark : Bool) (limit : Nat)
  /-- POWER_MODE_CHANGE (R637). A mode change starts, ordering the VSEL and clock changes. -/
  | powerModeChange
  /-- POWER_MODE_CHANGE_COMPLETE (R637). The mode change completes and raises EV_HUB_POWER_MODE.
    -/
  | powerModeChangeComplete
  /-- GOVERNOR_PERIOD (R641). Every 10 µs the governor estimates power and adjusts g, duty and
    ballast. -/
  | governorPeriod (p pb : Nat) (wantUp : Bool)
  /-- RAMP_RELEASE (R643). RELEASED is set after the package's stagger delay. -/
  | rampRelease
  /-- START_TOKEN_GRANT (R634). Every 8 rim cycles the field grants the oldest start or stop
    token. -/
  | startTokenGrant (f : FieldId)
  /-- PWR_WARN_ASSERT (R645). PWR_WARN_N asserted drops clocks to 0.9 GHz, caps duty and stops
    ballast. -/
  | pwrWarnAssert
  /-- HOLD_END (R646). PWR_WARN_N deasserted for HOLD_OFF_US ends the hold. -/
  | holdEnd
  /-- PGOOD_FALL (R633). PGOOD_Ff or PGOOD_OPT falling makes the field or the engines DARK. -/
  | pgoodFall (rail : Option FieldId)
  /-- PGOOD_OPT_TIMEOUT (R631). PGOOD_OPT not risen 20 ms after PWREN_OPT deasserts it and darkens
    the optics. -/
  | pgoodOptTimeout
  /-- SENSOR_SAMPLE (R649). Every 10 µs the on-die sensors are sampled and the thresholds applied.
    -/
  | sensorSample (f : Option FieldId) (readings : List (Option Int))
  /-- PIN_SAMPLE (R650). Every 1 ms the pin channels are read and WARN and CRIT applied. -/
  | pinSample (readings : List PinReading)
  /-- PIN_CRIT_CLEAR (R650). A reading below WARN for 1 s ends the CRIT hold. -/
  | pinCritClear (n : Fin 12)
  /-- DROP_RECOVER (R653). After 10 ms cool and slow, DROPS decrements and the clock returns one
    step. -/
  | dropRecover (f : FieldId)
  /-- TDUTY_STEP (R654). Every 100 µs TDUTY falls or rises, and throttle ends at 64. -/
  | tdutyStep (f : FieldId)
  /-- INJ_HBM_SYMBOL (R697). INJ_MEM is armed with point HBM_SYMBOL. -/
  | injHbmSymbol (f : FieldId) (target : Fin 256) (arg : Nat)
  /-- INJ_HBM_DOUBLE (R697). INJ_MEM is armed with point HBM_DOUBLE. -/
  | injHbmDouble (f : FieldId) (target : Fin 256) (arg : Nat)
  /-- INJ_STACK_LOST (R697). Arming STACK_LOST stops the stack at once. -/
  | injStackLost (f : FieldId) (target : Fin 256) (arg : Nat)
  /-- INJ_STORE_SINGLE (R697). INJ_MEM is armed with point STORE_SINGLE. -/
  | injStoreSingle (f : FieldId) (target : Fin 256) (arg : Nat)
  /-- INJ_STORE_DOUBLE (R697). INJ_MEM is armed with point STORE_DOUBLE. -/
  | injStoreDouble (f : FieldId) (target : Fin 256) (arg : Nat)
  /-- INJ_FEC_SYMBOLS (R697). INJ_LINK is armed with point FEC_SYMBOLS. -/
  | injFecSymbols (f : FieldId) (target : Fin 256) (arg : Nat)
  /-- INJ_FLIT_CRC (R697). INJ_LINK is armed with point FLIT_CRC. -/
  | injFlitCrc (f : FieldId) (target : Fin 256) (arg : Nat)
  /-- INJ_LANE_FAIL (R697). INJ_LINK is armed with point LANE_FAIL. -/
  | injLaneFail (f : FieldId) (target : Fin 256) (arg : Nat)
  /-- INJ_RING_UNLOCK (R697). INJ_LINK is armed with point RING_UNLOCK. -/
  | injRingUnlock (f : FieldId) (target : Fin 256) (arg : Nat)
  /-- INJ_RX_POWER (R697). INJ_LINK is armed with point RX_POWER. -/
  | injRxPower (f : FieldId) (target : Fin 256) (arg : Nat)
  /-- INJ_BEACON_ID (R697). INJ_LINK is armed with point BEACON_ID. -/
  | injBeaconId (f : FieldId) (target : Fin 256) (arg : Nat)
  /-- INJ_RETRAIN (R697). INJ_LINK is armed with point RETRAIN. -/
  | injRetrain (f : FieldId) (target : Fin 256) (arg : Nat)
  /-- INJ_NO_ACK (R697). INJ_LINK is armed with point NO_ACK. -/
  | injNoAck (f : FieldId) (target : Fin 256) (arg : Nat)
  /-- INJ_REQ_DROP (R697). INJ_GWY is armed with point REQ_DROP. -/
  | injReqDrop (f : FieldId) (target : Fin 256) (arg : Nat)
  /-- INJ_DEFER (R697). INJ_GWY is armed with point DEFER. -/
  | injDefer (f : FieldId) (target : Fin 256) (arg : Nat)
  /-- INJ_RED_FULL (R697). INJ_GWY is armed with point RED_FULL. -/
  | injRedFull (f : FieldId) (target : Fin 256) (arg : Nat)
  /-- INJ_COMB_REFUSE (R697). INJ_GWY is armed with point COMB_REFUSE. -/
  | injCombRefuse (f : FieldId) (target : Fin 256) (arg : Nat)
  /-- INJ_DIGEST (R697). INJ_SHF is armed with point DIGEST. -/
  | injDigest (f : FieldId) (target : Fin 256) (arg : Nat)
  /-- INJ_SILENT (R697). INJ_SHF is armed with point SILENT. -/
  | injSilent (f : FieldId) (target : Fin 256) (arg : Nat)
  /-- INJ_PIECE_DROP (R697). INJ_SHF is armed with point PIECE_DROP. -/
  | injPieceDrop (f : FieldId) (target : Fin 256) (arg : Nat)
  /-- INJ_DONE_DIGEST (R697). INJ_MIR is armed with point DONE_DIGEST. -/
  | injDoneDigest (f : FieldId) (target : Fin 256) (arg : Nat)
  /-- INJ_PUSH_STALL (R697). INJ_MIR is armed with point PUSH_STALL. -/
  | injPushStall (f : FieldId) (target : Fin 256) (arg : Nat)
  /-- INJ_BUF_FULL (R697). INJ_MIR is armed with point BUF_FULL. -/
  | injBufFull (f : FieldId) (target : Fin 256) (arg : Nat)
  /-- INJ_SKIP (R697). INJ_MIR is armed with point SKIP. -/
  | injSkip (f : FieldId) (target : Fin 256) (arg : Nat)
  /-- INJ_OFFSET (R697). INJ_TLY is armed with point OFFSET. -/
  | injOffset (f : FieldId) (target : Fin 256) (arg : Nat)
  /-- INJ_BEAT_STOP (R697). INJ_TLY is armed with point BEAT_STOP. -/
  | injBeatStop (f : FieldId) (target : Fin 256) (arg : Nat)
  /-- INJ_BEACON_MUTE (R697). INJ_TLY is armed with point BEACON_MUTE. -/
  | injBeaconMute (f : FieldId) (target : Fin 256) (arg : Nat)
  /-- INJ_SENSOR_OFFSET (R697). INJ_THM is armed with point SENSOR_OFFSET. -/
  | injSensorOffset (f : FieldId) (target : Fin 256) (arg : Nat)
  /-- INJ_SENSOR_RAMP (R697). INJ_THM is armed with point SENSOR_RAMP. -/
  | injSensorRamp (f : FieldId) (target : Fin 256) (arg : Nat)
  /-- INJ_SENSOR_BROKEN (R697). INJ_THM is armed with point SENSOR_BROKEN. -/
  | injSensorBroken (f : FieldId) (target : Fin 256) (arg : Nat)
  /-- INJ_PWR_WARN (R697). INJ_HUB is armed with point PWR_WARN. -/
  | injPwrWarn (target : Fin 256) (arg : Nat)
  /-- INJ_PIN_READING (R697). INJ_HUB is armed with point PIN_READING. -/
  | injPinReading (target : Fin 256) (arg : Nat)
  /-- INJ_PIN_BROKEN (R697). INJ_HUB is armed with point PIN_BROKEN. -/
  | injPinBroken (target : Fin 256) (arg : Nat)
  /-- INJ_HEARTBEAT_STOP (R697). INJ_HUB is armed with point HEARTBEAT_STOP. -/
  | injHeartbeatStop (target : Fin 256) (arg : Nat)
  /-- INJ_HOST_LANE_FAIL (R697). INJ_HUB is armed with point HOST_LANE_FAIL. -/
  | injHostLaneFail (target : Fin 256) (arg : Nat)
  /-- INJ_MODULE_FAULT (R697). INJ_LIGHT is armed with point MODULE_FAULT. -/
  | injModuleFault (target : Fin 256) (arg : Nat)
  /-- INJ_MARGIN (R697). INJ_LIGHT is armed with point MARGIN. -/
  | injMargin (target : Fin 256) (arg : Nat)
  /-- INJ_INLET_DROP (R697). INJ_LIGHT is armed with point INLET_DROP. -/
  | injInletDrop (target : Fin 256) (arg : Nat)
  /-- INJ_EFFECT_END (R696). A timed injection effect ends and sets DONE. -/
  | injEffectEnd (f : Option FieldId) (r : Fin 7)
  /-- DROOP_DETECTOR_TRIP (R43). A plot's droop detector trips, and its clock generator stretches
    cycles for as long as the droop persists, counting STRETCHED and DROOP_TRIPS. -/
  | droopDetectorTrip (f : FieldId) (p : PlotId) (cycles : Nat)
  /-- PWR_WARN_DEASSERT (R646). PWR_WARN_N is deasserted and the HOLD_OFF_US wait before the hold
    ends begins. -/
  | pwrWarnDeassert
  /-- PARENT_LOSS (R522). The parent's last beacon becomes older than 100 µs, so the parent stops
    being a candidate and a LOCKED field enters HOLDOVER or changes parent. -/
  | parentLoss (f : FieldId)
  /-- HEADER_MAP_DESYNC (R314). 8 consecutive valid headers on a wavelength disagree with the
    receiver's lane map, which desynchronises the link and sends it to RETRAIN. -/
  | headerMapDesync (f : FieldId) (n : PortId)
  /-- ASPM_L1_ENTRY (R599). The host link enters ASPM L1, which changes HUB_HOST_PHY_STATUS.STATE
    and raises EV_HUB_HOST_LINK. -/
  | aspmL1Entry
  /-- HOST_LINK_TRAINED (R600). Host link training ends with the link in L0 (or failed), and the
    state change raises EV_HUB_HOST_LINK. -/
  | hostLinkTrained (ok : Bool)
  /-- PLOT_DORMANT (R634). A plot with no row entered for 256 plot cycles becomes dormant, after
    its stop token, so that its next row must wait for a start token. -/
  | plotDormant (f : FieldId) (p : PlotId)
  deriving DecidableEq, Repr

end Sys2Proof
end

