-- ==== Sys2Proof/Config.lean ====
section
/-! DEFINITION. What an implementation fixes and the spec does not: free values, opaque so that
no proof can rest on one. Each is named in the assumption log. -/

namespace Sys2Proof.Config

/-- Bytes of a plot's boot ROM by offset (R147, R574: the spec gives what the boot ROM does, not
its code). -/
opaque bootRom : Nat → Byte

/-- The bank of a line slot of a pseudo-channel (R234: the controller places slots as it chooses). -/
opaque hbmBank : Nat → Nat → Nat

/-- The row of a line slot of a pseudo-channel (R234). -/
opaque hbmRow : Nat → Nat → Nat

/-- The 48-bit package serial number held in the fuses (R338). -/
opaque packageSerial : Nat

/-- Nariquin Lightworks' PCI-SIG vendor identifier (R601: named, not given). -/
opaque vendorId : Nat

/-- The SHA-384 value of the signing key held in the fuses, zero where none is provisioned (R566). -/
opaque keyHash : Nat

/-- The lowest security version number the fuses accept (R566). -/
opaque minSvn : Nat

/-- The injection fuse (R512). -/
opaque injFuse : Bool

/-- The yield remap table of each field: the 272 fuse bits of its fallow plots (R248). -/
opaque remapFuse : Nat → Nat

/-- Flit buffers of a die-to-die class beyond its 8 (R373: at least 8). -/
opaque d2dMoreBuffers : Nat

/-- A fresh unconstrained word for each value of the state's free-value counter. -/
opaque freeValue : Nat → Nat

end Sys2Proof.Config
end

