-- ==== Sys2Proof/Machine/Codes.lean ====
section
/-! DEFINITION. The master tables of status codes (R693) and of events (R694), with the vector
classes of R609. Generated from the two tables. -/

namespace Sys2Proof.Machine

/-! ### Status codes (R693) -/

def St.OK : Nat := 0x0000
def St.DEFERRED : Nat := 0x0001
def St.BUSY : Nat := 0x0002
def St.UNCORRECTED : Nat := 0x0003
def St.MARK_PAST : Nat := 0x0004
def St.TALLY_UNLOCKED : Nat := 0x0005
def St.MGMT_REFUSED : Nat := 0x0006
def St.MGMT_TIMEOUT : Nat := 0x0007
def St.DESCRIPTOR_MISMATCH : Nat := 0x0101
def St.MEMBER_SILENT : Nat := 0x0102
def St.MEMBER_RESET : Nat := 0x0103
def St.ABORTED_EPOCH : Nat := 0x0104
def St.GROUP_HALTED : Nat := 0x0105
def St.NO_SLOT : Nat := 0x0106
def St.GROUP_INVALID : Nat := 0x0107
def St.COLLECTIVE_INVALID : Nat := 0x0108
def St.POISONED : Nat := 0x0201
def St.UNREACHABLE : Nat := 0x0202
def St.RESETTING : Nat := 0x0203
def St.DESCRIPTOR_INVALID : Nat := 0x0204
def St.PLOT_FALLOW : Nat := 0x0205
def St.ADDRESS_UNMAPPED : Nat := 0x0206
def St.MCAST_OFF_LINE : Nat := 0x0207
def St.CLASS_REFUSED : Nat := 0x0208
def St.REDUCE_TYPE_MISMATCH : Nat := 0x0209
def St.ALLOT_HALTED : Nat := 0x020A
def St.STALE_ROLE : Nat := 0x0301
def St.RECEIVER_RESET : Nat := 0x0302
def St.ACK_CODE_RESERVED : Nat := 0x0303
def St.MIRROR_SOURCE_LOST : Nat := 0x0401
def St.MIRROR_PARTNER_INVALID : Nat := 0x0402
def St.MIRROR_EPOCH : Nat := 0x0403
def St.MIRROR_NO_COPY : Nat := 0x0404
def St.MIRROR_DIGEST : Nat := 0x0405
def St.MIRROR_PUSHING : Nat := 0x0406
def St.INJ_REFUSED : Nat := 0x0407
def St.LASER_INTERLOCK : Nat := 0x0501
def St.MODULE_ABSENT : Nat := 0x0502
def St.MODULE_ROLE : Nat := 0x0503
def St.PROBE_FAILED : Nat := 0x0504
def St.MODULE_FAULT : Nat := 0x0505
def St.LIGHT_DARK : Nat := 0x0506
def St.LINK_QUALIFY_FAILED : Nat := 0x0507
def St.LINK_LOCK_TIMEOUT : Nat := 0x0508
def St.LINK_RETRAIN_LIMIT : Nat := 0x0509
def St.LINK_HELD : Nat := 0x050A
def St.LINK_DISABLED : Nat := 0x050B
def St.PLAN_INVALID : Nat := 0x050C
def St.COORD_INVALID : Nat := 0x050D
def St.ROUTE_RANGE : Nat := 0x050E
def St.ROUTE_PORT_AXIS : Nat := 0x050F
def St.ROUTE_DETOUR : Nat := 0x0510
def St.ROUTE_D2D : Nat := 0x0511
def St.SEAL_CONFLICT : Nat := 0x0512
def St.OPT_POWER : Nat := 0x0513
def St.SEED_ABSENT : Nat := 0x0601
def St.SEED_FORMAT : Nat := 0x0602
def St.SEED_SIGNATURE : Nat := 0x0603
def St.SEED_VERSION : Nat := 0x0604
def St.NO_FIELD : Nat := 0x0605
def St.FIRMWARE_CRC : Nat := 0x0606
def St.JTAG_REFUSED : Nat := 0x0607
def St.FORMAT_RESERVED : Nat := 0x0701
def St.MODE_NOT_APPLICABLE : Nat := 0x0702
def St.ROUND_RESERVED : Nat := 0x0703
def St.SHAPE_RANGE : Nat := 0x0704
def St.BIN_POISONED : Nat := 0x0705
def St.OPERAND_RANGE : Nat := 0x0706
def St.DESCRIPTOR_RESERVED : Nat := 0x0707

/-! ### Events (R694) -/

/-- An event: its number, and the vector class it takes as a hub event and as a field event
(R609); an event of one side only carries the same class twice. -/
structure EvKind where
  num : Nat
  hubCls : Nat
  fldCls : Nat
  deriving DecidableEq, Repr

def Ev.HUB_SEALED_WRITE : EvKind := ⟨0x0101, 0, 0⟩
def Ev.HUB_FIELD_STATE : EvKind := ⟨0x0102, 0, 0⟩
def Ev.HUB_D2D_DEGRADED : EvKind := ⟨0x0103, 0, 0⟩
def Ev.HUB_D2D_DOWN : EvKind := ⟨0x0104, 0, 0⟩
def Ev.HUB_INJ_UNLOCKED : EvKind := ⟨0x0105, 0, 0⟩
def Ev.HUB_INJ_REFUSED : EvKind := ⟨0x0106, 0, 0⟩
def Ev.HUB_RESET : EvKind := ⟨0x0107, 0, 0⟩
def Ev.HUB_JTAG : EvKind := ⟨0x0108, 0, 0⟩
def Ev.HUB_POWER_MODE : EvKind := ⟨0x0109, 0, 0⟩
def Ev.HUB_POWER_HOLD : EvKind := ⟨0x010A, 0, 0⟩
def Ev.HUB_POWER_LIMIT : EvKind := ⟨0x010B, 0, 0⟩
def Ev.HUB_RAIL_FAULT : EvKind := ⟨0x010C, 0, 0⟩
def Ev.HUB_PIN_THERMAL : EvKind := ⟨0x010D, 0, 0⟩
def Ev.HUB_THERMTRIP : EvKind := ⟨0x010E, 0, 0⟩
def Ev.HUB_HOST_LINK : EvKind := ⟨0x010F, 6, 6⟩
def Ev.SEED_STAGE : EvKind := ⟨0x0201, 1, 1⟩
def Ev.SEED_IMAGE : EvKind := ⟨0x0202, 1, 1⟩
def Ev.SEED_CARRY : EvKind := ⟨0x0203, 1, 1⟩
def Ev.SEED_FIRMWARE : EvKind := ⟨0x0204, 1, 1⟩
def Ev.CAL_VBAT_LOW : EvKind := ⟨0x0301, 3, 3⟩
def Ev.CAL_OSC_STOPPED : EvKind := ⟨0x0302, 3, 3⟩
def Ev.HDL_LIGHT_STATE : EvKind := ⟨0x0401, 2, 2⟩
def Ev.HDL_PROBE_FAILED : EvKind := ⟨0x0402, 2, 2⟩
def Ev.HDL_INLET_LOST : EvKind := ⟨0x0403, 2, 2⟩
def Ev.HDL_MODULE_FAULT : EvKind := ⟨0x0404, 2, 2⟩
def Ev.HDL_FADE : EvKind := ⟨0x0405, 2, 2⟩
def Ev.HDL_SWITCHOVER : EvKind := ⟨0x0406, 2, 3⟩
def Ev.HDL_LANE_FAILED : EvKind := ⟨0x0407, 2, 3⟩
def Ev.HDL_LANE_RESTORED : EvKind := ⟨0x0408, 2, 3⟩
def Ev.HDL_PORT_DEGRADED : EvKind := ⟨0x0409, 2, 3⟩
def Ev.HDL_CAL_DEGRADED : EvKind := ⟨0x040A, 2, 3⟩
def Ev.HDL_MODE_FALLBACK : EvKind := ⟨0x040B, 2, 3⟩
def Ev.HDL_APR : EvKind := ⟨0x040C, 2, 3⟩
def Ev.PLT_DRILL_FAULT : EvKind := ⟨0x0501, 0, 0⟩
def Ev.PLT_DRILL_HALT : EvKind := ⟨0x0502, 0, 0⟩
def Ev.PLT_STORE_UNCORRECTED : EvKind := ⟨0x0503, 0, 0⟩
def Ev.PLT_BIN_UNCORRECTED : EvKind := ⟨0x0504, 0, 0⟩
def Ev.PLT_WITNESS_MISMATCH : EvKind := ⟨0x0505, 0, 0⟩
def Ev.PLT_NOTIFY : EvKind := ⟨0x0506, 0, 0⟩
def Ev.MEM_UNCORRECTED : EvKind := ⟨0x0601, 1, 1⟩
def Ev.MEM_STACK_LOST : EvKind := ⟨0x0602, 1, 1⟩
def Ev.MEM_REPAIR_LOGGED : EvKind := ⟨0x0603, 1, 1⟩
def Ev.MEM_MIRROR_CONFIG_REFUSED : EvKind := ⟨0x0604, 1, 1⟩
def Ev.MEM_RESIDUE_LATE : EvKind := ⟨0x0605, 1, 1⟩
def Ev.FLD_PLOT_FALLOW : EvKind := ⟨0x0701, 1, 1⟩
def Ev.FLD_LONG_OVERFLOW : EvKind := ⟨0x0702, 1, 1⟩
def Ev.FLD_PRECISION_DRIFT : EvKind := ⟨0x0703, 2, 2⟩
def Ev.FLD_DRIFT_TABLE_FULL : EvKind := ⟨0x0704, 2, 2⟩
def Ev.FLD_DRIFT_REPORT_LOST : EvKind := ⟨0x0705, 2, 2⟩
def Ev.RTE_LINK_STATE : EvKind := ⟨0x0801, 3, 3⟩
def Ev.RTE_LINK_DOWN : EvKind := ⟨0x0802, 3, 3⟩
def Ev.RTE_PROTOCOL : EvKind := ⟨0x0803, 3, 3⟩
def Ev.RTE_DISCOVERY : EvKind := ⟨0x0804, 3, 3⟩
def Ev.RTE_SEAL : EvKind := ⟨0x0805, 3, 3⟩
def Ev.RTE_NOROUTE : EvKind := ⟨0x0806, 3, 3⟩
def Ev.RTE_TRANSIT_REFUSED : EvKind := ⟨0x0807, 3, 3⟩
def Ev.RTE_FOREIGN_DROP : EvKind := ⟨0x0808, 3, 3⟩
def Ev.GWY_FABRIC_FATAL : EvKind := ⟨0x0901, 4, 4⟩
def Ev.GWY_UNREACHABLE : EvKind := ⟨0x0902, 4, 4⟩
def Ev.GWY_RED_FULL : EvKind := ⟨0x0903, 4, 4⟩
def Ev.GWY_ALLOT_HALTED : EvKind := ⟨0x0904, 4, 4⟩
def Ev.SHF_GROUP_STATE : EvKind := ⟨0x0A01, 5, 5⟩
def Ev.SHF_COLLECTIVE_FAILED : EvKind := ⟨0x0A02, 5, 5⟩
def Ev.MIR_SKIPPED : EvKind := ⟨0x0B01, 6, 6⟩
def Ev.MIR_SPILL : EvKind := ⟨0x0B02, 6, 6⟩
def Ev.MIR_PARTNER_LOST : EvKind := ⟨0x0B03, 6, 6⟩
def Ev.MIR_POISON_MIRRORED : EvKind := ⟨0x0B04, 6, 6⟩
def Ev.MIR_LOAD : EvKind := ⟨0x0B05, 6, 6⟩
def Ev.HLT_HARD : EvKind := ⟨0x0C01, 7, 7⟩
def Ev.HLT_EXPEL : EvKind := ⟨0x0C02, 7, 7⟩
def Ev.HLT_REPORT_LOST : EvKind := ⟨0x0C03, 7, 7⟩
def Ev.HLT_THERM_RISE : EvKind := ⟨0x0C04, 7, 7⟩
def Ev.HLT_THERM_DROP : EvKind := ⟨0x0C05, 7, 7⟩
def Ev.HLT_THERM_THROTTLE : EvKind := ⟨0x0C06, 7, 7⟩
def Ev.HLT_THERM_SENSOR : EvKind := ⟨0x0C07, 7, 7⟩
def Ev.TLY_STATE : EvKind := ⟨0x0D01, 8, 8⟩
def Ev.TLY_ROOT : EvKind := ⟨0x0D02, 8, 8⟩
def Ev.TLY_MARK : EvKind := ⟨0x0D03, 8, 8⟩

end Sys2Proof.Machine
end

