-- ==== Sys2Proof/Machine/Bits.lean ====
section
/-! DEFINITION. Bit fields of natural numbers, two's complement readings, and the little-endian
byte order of R11, each said once for the whole model. -/

namespace Sys2Proof.Machine

/-- Bits [lo + w - 1 : lo] of x (R11). -/
def bits (x lo w : Nat) : Nat := (x >>> lo) % 2 ^ w

/-- Bit i of x, as a Bool. -/
def bit (x i : Nat) : Bool := Nat.testBit x i

/-- 1 for true. -/
def b2n (b : Bool) : Nat := if b then 1 else 0

/-- x with bits [lo + w - 1 : lo] replaced by v. -/
def setBits (x lo w v : Nat) : Nat :=
  x - (bits x lo w) <<< lo + (v % 2 ^ w) <<< lo

/-- x with bit i set to b. -/
def setBit (x i : Nat) (b : Bool) : Nat := setBits x i 1 (b2n b)

/-- Reduction modulo 2^w. -/
def trunc (w x : Nat) : Nat := x % 2 ^ w

/-- The w-bit pattern x read as a two's complement integer. -/
def toSigned (w x : Nat) : Int :=
  if x % 2 ^ w < 2 ^ (w - 1) then (x % 2 ^ w : Nat) else ((x % 2 ^ w : Nat) : Int) - (2 ^ w : Nat)

/-- The w-bit two's complement pattern of an integer. -/
def ofSigned (w : Nat) (i : Int) : Nat := (i % (2 ^ w : Nat)).toNat

/-- An addition that stops at the largest w-bit value: the saturating counters of the tables. -/
def satAdd (w x d : Nat) : Nat := min (x + d) (2 ^ w - 1)

/-- Position of the highest set bit plus one; 0 for 0 (R69). -/
def bitlen (m : Nat) : Nat := if m = 0 then 0 else Nat.log2 m + 1

/-- Rotation of a 32-bit word left by n (R20). -/
def rotl32 (x n : Nat) : Nat := trunc 32 ((x <<< n) ||| (x >>> (32 - n)))

/-- Number of set bits among the low w bits. -/
def popcount (w x : Nat) : Nat := ((List.range w).filter (bit x)).length

/-- The value of bytes in little-endian order (R11). -/
def leNat : List Byte → Nat
  | [] => 0
  | b :: bs => b.toNat + 256 * leNat bs

/-- n bytes of x in little-endian order (R11). -/
def leBytes : Nat → Nat → List Byte
  | 0, _ => []
  | n + 1, x => BitVec.ofNat 8 x :: leBytes n (x / 256)

/-- Clamp of an integer into a range. -/
def clampInt (x lo hi : Int) : Int := max lo (min x hi)

/-- The i-th element of a list of naturals, 0 past its end. -/
def nth (l : List Nat) (i : Nat) : Nat := l.getD i 0

end Sys2Proof.Machine
end

