-- ==== Sys2Proof/Machine/Formats.lean ====
section
/-! DEFINITION. Number formats, scaling and rounding: the formats of R48 to R62, the conversion
procedure of R69 to R71, the element classes of R72, block encoding (R63 to R65) and the
stochastic rounding generator (R73 to R75). Every unit of the device narrows a value through
these functions and no other (R82). -/

namespace Sys2Proof.Machine

/-! ### Format selectors (R48) -/

/-- Kinds of element format. -/
inductive ElemKind where
  | float | int | tern | mxint
  deriving DecidableEq, Repr

/-- Parameters of an element format: the layout of R49 and R55 and the rounding parameters of R50. -/
structure ElemFmt where
  kind : ElemKind
  width : Nat
  ebits : Nat
  mbits : Nat
  bias : Int
  emin : Int
  maxk : Nat
  maxlsb : Int
  emax : Int
  hasInf : Bool
  /-- smallest and largest integer of an integer format (R55) -/
  lo : Int
  hi : Int
  deriving DecidableEq, Repr

def fmtFP32 : ElemFmt := ⟨.float, 32, 8, 23, 127, -126, 16777215, 104, 127, true, 0, 0⟩
def fmtBF16 : ElemFmt := ⟨.float, 16, 8, 7, 127, -126, 255, 120, 127, true, 0, 0⟩
def fmtFP16 : ElemFmt := ⟨.float, 16, 5, 10, 15, -14, 2047, 5, 15, true, 0, 0⟩
def fmtE4M3 : ElemFmt := ⟨.float, 8, 4, 3, 7, -6, 14, 5, 8, false, 0, 0⟩
def fmtE5M2 : ElemFmt := ⟨.float, 8, 5, 2, 15, -14, 7, 13, 15, true, 0, 0⟩
def fmtE2M3 : ElemFmt := ⟨.float, 6, 2, 3, 1, 0, 15, -1, 2, false, 0, 0⟩
def fmtE3M2 : ElemFmt := ⟨.float, 6, 3, 2, 3, -2, 7, 2, 4, false, 0, 0⟩
def fmtE2M1 : ElemFmt := ⟨.float, 4, 2, 1, 1, 0, 3, 1, 2, false, 0, 0⟩
def fmtINT8 : ElemFmt := ⟨.int, 8, 0, 0, 0, 0, 0, 0, 0, false, -128, 127⟩
def fmtINT4 : ElemFmt := ⟨.int, 4, 0, 0, 0, 0, 0, 0, 0, false, -8, 7⟩
def fmtINT2 : ElemFmt := ⟨.int, 2, 0, 0, 0, 0, 0, 0, 0, false, -2, 1⟩
def fmtTERN : ElemFmt := ⟨.tern, 2, 0, 0, 0, 0, 0, 0, 0, false, -1, 1⟩
def fmtINT32 : ElemFmt := ⟨.int, 32, 0, 0, 0, 0, 0, 0, 0, false, -(2 ^ 31 : Nat), (2 ^ 31 - 1 : Nat)⟩
def fmtMXINT8 : ElemFmt := ⟨.mxint, 8, 0, 0, 0, 0, 0, 0, 0, false, -128, 127⟩

/-- A format selector: its element format, whether it is a block format with an E8M0 scale, and
whether it is the glebe format GFP4 with sub-shifts. -/
structure Fmt where
  elem : ElemFmt
  block : Bool
  gfp : Bool
  deriving DecidableEq, Repr

/-- The format a 5-bit selector names; none for a reserved selector (R48). -/
def fmtOf (sel : Nat) : Option Fmt :=
  match sel with
  | 0x00 => some ⟨fmtFP32, false, false⟩
  | 0x01 => some ⟨fmtBF16, false, false⟩
  | 0x02 => some ⟨fmtFP16, false, false⟩
  | 0x03 => some ⟨fmtE4M3, false, false⟩
  | 0x04 => some ⟨fmtE5M2, false, false⟩
  | 0x05 => some ⟨fmtE2M3, false, false⟩
  | 0x06 => some ⟨fmtE3M2, false, false⟩
  | 0x07 => some ⟨fmtE2M1, false, false⟩
  | 0x08 => some ⟨fmtINT8, false, false⟩
  | 0x09 => some ⟨fmtINT4, false, false⟩
  | 0x0A => some ⟨fmtINT2, false, false⟩
  | 0x0B => some ⟨fmtTERN, false, false⟩
  | 0x0C => some ⟨fmtINT32, false, false⟩
  | 0x10 => some ⟨fmtE4M3, true, false⟩
  | 0x11 => some ⟨fmtE5M2, true, false⟩
  | 0x12 => some ⟨fmtE2M3, true, false⟩
  | 0x13 => some ⟨fmtE3M2, true, false⟩
  | 0x14 => some ⟨fmtE2M1, true, false⟩
  | 0x15 => some ⟨fmtMXINT8, true, false⟩
  | 0x16 => some ⟨fmtE2M1, true, true⟩
  | _ => none

/-- Bytes of one block in the side array: a scale, and for GFP4 the sub-shift byte (R58, R59). -/
def Fmt.sideBytes (f : Fmt) : Nat := if f.gfp then 2 else if f.block then 1 else 0

/-- Bytes of n elements in the element array (R57). -/
def Fmt.bytes (f : Fmt) (n : Nat) : Nat := (f.elem.width * n + 7) / 8

/-! ### Exact values -/

/-- An exact value: NaN, a signed infinity, or (-1)^s × m × 2^e; a zero keeps its sign (R53). -/
inductive Val where
  | nan
  | inf (s : Bool)
  | fin (s : Bool) (m : Nat) (e : Int)
  deriving DecidableEq, Repr

/-- Element classes of R72 by code. -/
abbrev Cls := Nat
def clsNone : Cls := 0
def clsNaNIn : Cls := 1
def clsInfIn : Cls := 2
def clsSatBlock : Cls := 3
def clsSatRange : Cls := 4
def clsUnderflow : Cls := 5
def clsTernReserved : Cls := 6

/-- Of two class reports on one element, the one with the lowest code (R72); 0 is no report. -/
def clsJoin (a b : Cls) : Cls := if a = 0 then b else if b = 0 then a else min a b

/-- The NaN codes of a float format (R49): E4M3 has only the all-ones magnitude, the formats
with infinity those above it, the six- and four-bit formats none. -/
def ElemFmt.isNaNCode (f : ElemFmt) (c : Nat) : Bool :=
  let mag := c % 2 ^ (f.ebits + f.mbits)
  if f.hasInf then decide ((2 ^ f.ebits - 1) * 2 ^ f.mbits < mag)
  else if f.width = 8 then decide (mag = 0x7F) else false

/-- The infinity code of a float format, without its sign. -/
def ElemFmt.infMag (f : ElemFmt) : Nat := (2 ^ f.ebits - 1) * 2 ^ f.mbits

/-- The integer a TERN code stands for; the reserved code reads as 0 (R56). -/
def ternVal (c : Nat) : Int := if c % 4 = 1 then 1 else if c % 4 = 2 then -1 else 0

/-- An integer as an exact value with last place 2^e. -/
def Val.ofInt (i : Int) (e : Int) : Val := .fin (decide (i < 0)) i.natAbs e

/-- The exact value of an element code and the class its reading reports (R49, R55, R56). -/
def decodeElem (f : ElemFmt) (c : Nat) : Val × Cls :=
  match f.kind with
  | .float =>
    let s := bit c (f.ebits + f.mbits)
    let ex := bits c f.mbits f.ebits
    let mt := bits c 0 f.mbits
    if f.isNaNCode c then (.nan, clsNaNIn)
    else if f.hasInf && c % 2 ^ (f.ebits + f.mbits) = f.infMag then (.inf s, clsInfIn)
    else if ex = 0 then (.fin s mt (1 - f.bias - f.mbits), clsNone)
    else (.fin s (2 ^ f.mbits + mt) (ex - f.bias - f.mbits), clsNone)
  | .int => (Val.ofInt (toSigned f.width c) 0, clsNone)
  | .tern => (Val.ofInt (ternVal c) 0, if c % 4 = 3 then clsTernReserved else clsNone)
  | .mxint => (Val.ofInt (toSigned 8 c) (-6), clsNone)

/-- The exact value of an FP32 pattern. -/
def fp32Val (c : Nat) : Val := (decodeElem fmtFP32 c).1

/-! ### Rounding (R66, R69 to R71, R73) -/

/-- Rounding modes (R66): 0 RNE, 1 RTZ, 2 SR. -/
def rmRNE : Nat := 0
def rmRTZ : Nat := 1
def rmSR : Nat := 2

/-- The magnitude m × 2^e in units of 2^lsb, rounded as R69 lays down. -/
def roundMag (m : Nat) (e lsb : Int) (mode r : Nat) : Nat :=
  if lsb ≤ e then m <<< (e - lsb).toNat
  else
    let n := (lsb - e).toNat
    let k := m >>> n
    let rem := m - k <<< n
    let inc : Bool :=
      if mode = rmRNE then
        let g := bit m (n - 1)
        let t := decide (rem - (if g then 2 ^ (n - 1) else 0) ≠ 0)
        g && (t || bit k 0)
      else if mode = rmSR then
        decide (2 ^ 32 ≤ trunc 32 ((rem <<< 32) >>> n) + r)
      else false
    k + b2n inc

/-- A code from a sign, a significand and its last place (R69, encode). -/
def encodeFloat (f : ElemFmt) (s : Bool) (k : Nat) (lsb : Int) : Nat :=
  let (ex, mt) : Nat × Nat :=
    if k < 2 ^ f.mbits then (0, k) else ((lsb + f.mbits + f.bias).toNat, k - 2 ^ f.mbits)
  b2n s * 2 ^ (f.ebits + f.mbits) + ex * 2 ^ f.mbits + mt

/-- The largest finite code of a sign. -/
def largestFinite (f : ElemFmt) (s : Bool) : Nat := encodeFloat f s f.maxk f.maxlsb

/-- The infinity code of a sign. -/
def infinityCode (f : ElemFmt) (s : Bool) : Nat :=
  b2n s * 2 ^ (f.ebits + f.mbits) + f.infMag

/-- The canonical NaN of a float format; +0 where the format has none (R52, R70). -/
def canonicalNaN (f : ElemFmt) : Nat :=
  if f.hasInf then f.infMag + 2 ^ (f.mbits - 1) else if f.width = 8 then 0x7F else 0

/-- round_to of R69: the code and class of (-1)^s × m × 2^e in float format f.
`nonsat` is the overflow mode (R66). -/
def roundTo (s : Bool) (m : Nat) (e : Int) (f : ElemFmt) (mode : Nat) (nonsat : Bool) (r : Nat) :
    Nat × Cls :=
  if m = 0 then (encodeFloat f s 0 0, clsNone)
  else
    let q : Int := bitlen m - 1 + e
    let lsb0 : Int := max q f.emin - f.mbits
    let k0 := roundMag m e lsb0 mode r
    let carry : Bool := decide (e < lsb0) && decide (k0 = 2 ^ (f.mbits + 1))
    let k := if carry then 2 ^ f.mbits else k0
    let lsb := if carry then lsb0 + 1 else lsb0
    if f.maxlsb < lsb ∨ (lsb = f.maxlsb ∧ f.maxk < k) then
      if nonsat && f.hasInf && mode ≠ rmRTZ then (infinityCode f s, clsSatRange)
      else (largestFinite f s, clsSatRange)
    else if k = 0 then (encodeFloat f s 0 0, clsUnderflow)
    else (encodeFloat f s k lsb, clsNone)

/-- The last place of the integer formats: 2^-6 for an MXINT8 element, 1 otherwise (R71). -/
def ElemFmt.intLsb (f : ElemFmt) : Int := match f.kind with | .mxint => -6 | _ => 0

/-- The code of an integer already in range. TERN codes are those of R55. -/
def encodeInt (f : ElemFmt) (i : Int) : Nat :=
  match f.kind with
  | .tern => if i = 0 then 0 else if 0 < i then 1 else 2
  | _ => ofSigned f.width i

/-- Conversion of a finite value into an integer format (R71). -/
def intRound (s : Bool) (m : Nat) (e : Int) (f : ElemFmt) (mode r : Nat) : Nat × Cls :=
  let k := roundMag m e f.intLsb mode r
  let i : Int := if s then -(k : Int) else k
  let j := clampInt i f.lo f.hi
  (encodeInt f j, if j ≠ i then clsSatRange else if k = 0 ∧ m ≠ 0 then clsUnderflow else clsNone)

/-- A conversion into a scalar element format, special inputs included (R69 to R71). -/
def convert (v : Val) (f : ElemFmt) (mode : Nat) (nonsat : Bool) (r : Nat) : Nat × Cls :=
  match v with
  | .nan => ((match f.kind with | .float => canonicalNaN f | _ => 0), clsNaNIn)
  | .inf s =>
    (match f.kind with
     | .float =>
       if nonsat && f.hasInf && mode ≠ rmRTZ then infinityCode f s else largestFinite f s
     | _ => encodeInt f (if s then f.lo else f.hi), clsInfIn)
  | .fin s m e =>
    match f.kind with
    | .float => roundTo s m e f mode nonsat r
    | _ => intRound s m e f mode r

/-- The FP32 pattern of an exact value, rounded to nearest even with the given overflow mode. -/
def toFP32 (v : Val) (nonsat : Bool) : Nat × Cls := convert v fmtFP32 rmRNE nonsat 0

/-! ### Exact arithmetic on values -/

/-- The signed integer of a finite value at last place 2^e0, for e0 at most its own. -/
def alignTo (s : Bool) (m : Nat) (e e0 : Int) : Int :=
  let k : Nat := m <<< (e - e0).toNat
  if s then -(k : Int) else k

/-- Exact sum of two values. An exact zero result is −0 only when both are −0 (R93, the rule of
binary32 in round to nearest). Opposite infinities give NaN. -/
def Val.add (a b : Val) : Val :=
  match a, b with
  | .nan, _ => .nan
  | _, .nan => .nan
  | .inf s, .inf t => if s = t then .inf s else .nan
  | .inf s, _ => .inf s
  | _, .inf t => .inf t
  | .fin s m e, .fin t n d =>
    let e0 := min e d
    let i := alignTo s m e e0 + alignTo t n d e0
    if i = 0 then .fin (decide (m = 0) && decide (n = 0) && s && t) 0 e0 else Val.ofInt i e0

/-- The negated value. -/
def Val.neg : Val → Val
  | .nan => .nan
  | .inf s => .inf (!s)
  | .fin s m e => .fin (!s) m e

/-- The magnitude. -/
def Val.abs : Val → Val
  | .nan => .nan
  | .inf _ => .inf false
  | .fin _ m e => .fin false m e

/-- Exact product of two values; infinity times zero is NaN. -/
def Val.mul (a b : Val) : Val :=
  match a, b with
  | .nan, _ => .nan
  | _, .nan => .nan
  | .inf s, .inf t => .inf (s != t)
  | .inf s, .fin t n _ => if n = 0 then .nan else .inf (s != t)
  | .fin s m _, .inf t => if m = 0 then .nan else .inf (s != t)
  | .fin s m e, .fin t n d => .fin (s != t) (m * n) (e + d)

/-- Whether a value is a NaN. -/
def Val.isNaN : Val → Bool | .nan => true | _ => false

/-- Whether a value is an infinity. -/
def Val.isInf : Val → Bool | .inf _ => true | _ => false

/-- Whether a value is a zero of either sign. -/
def Val.isZero : Val → Bool | .fin _ m _ => decide (m = 0) | _ => false

/-- The sign bit; false for NaN. -/
def Val.sign : Val → Bool | .nan => false | .inf s => s | .fin s _ _ => s

/-- a < b on values that are not NaN; zeros are equal. -/
def Val.lt (a b : Val) : Bool :=
  match a, b with
  | .nan, _ => false
  | _, .nan => false
  | .inf s, .inf t => s && !t
  | .inf s, _ => s
  | _, .inf t => !t
  | .fin s m e, .fin t n d =>
    let e0 := min e d
    decide (alignTo s m e e0 < alignTo t n d e0)

/-- a = b on values that are not NaN; zeros are equal. -/
def Val.eqv (a b : Val) : Bool := !a.isNaN && !b.isNaN && !a.lt b && !b.lt a

/-- The value scaled by 2^k. -/
def Val.scale (v : Val) (k : Int) : Val :=
  match v with
  | .fin s m e => .fin s m (e + k)
  | v => v

/-- floor(log2 |v|) of a nonzero finite value (R63). -/
def Val.ilog2 : Val → Int
  | .fin _ m e => bitlen m - 1 + e
  | _ => 0

/-! ### Block formats (R58 to R65) -/

/-- A block of 32 elements as stored: the scale code, the sub-shift byte and the element codes. -/
structure Block where
  scale : Nat
  shifts : Nat
  codes : List Nat
  deriving DecidableEq, Repr

/-- The exact value of element i of a block and the class its reading reports (R60, R61). -/
def decodeBlockElem (f : Fmt) (scale shifts i code : Nat) : Val × Cls :=
  if scale = 0xFF then (.nan, clsNaNIn)
  else
    let sg : Nat := if f.gfp then bits shifts (2 * (i / 8)) 2 else 0
    let (v, c) := decodeElem f.elem code
    (v.scale ((scale : Int) - 127 - sg), c)

/-- Comparison a × 2^k ≤ b of two magnitudes, exactly. -/
def magLeScaled (a : Nat × Int) (k : Nat) (b : Nat × Int) : Bool :=
  let e0 := min (a.2 + k) b.2
  decide (a.1 <<< (a.2 + k - e0).toNat ≤ b.1 <<< (b.2 - e0).toNat)

/-- Magnitude of a source element for scale selection; an infinity counts as the FP32 maximum
(R63, R64). -/
def srcMag : Val → Nat × Int
  | .fin _ m e => (m, e)
  | _ => (0xFFFFFF, 104)

/-- The larger of two magnitudes. -/
def magMax (a b : Nat × Int) : Nat × Int := if magLeScaled a 0 b then b else a

/-- The sub-shift of a subgroup from the block's and its own largest magnitude (R64). -/
def subshift (aBlk aSub : Nat × Int) : Nat :=
  if aSub.1 = 0 then 0
  else if !magLeScaled aSub 1 aBlk then 0
  else if !magLeScaled aSub 2 aBlk then 1
  else if !magLeScaled aSub 3 aBlk then 2
  else 3

/-- The shared exponent of a block: floor(log2(amax)) − emax, clamped (R63). -/
def blockExp (f : Fmt) (v : List Val) : Int :=
  let logs := v.filterMap (fun x =>
    match x with
    | .inf _ => some (127 : Int)
    | .fin _ m _ => if m = 0 then none else some x.ilog2
    | .nan => none)
  match logs with
  | [] => -127
  | h :: t => clampInt (t.foldl max h - f.elem.emax) (-127) 127

/-- The sub-shifts of a block, one byte (R59, R64); 0 for a format without them. -/
def blockShifts (f : Fmt) (v : List Val) : Nat :=
  if !f.gfp then 0
  else
    let mags := v.map srcMag
    let aBlk := mags.foldl magMax (0, 0)
    (List.range 4).foldl (fun acc g =>
      acc + subshift aBlk (((mags.drop (8 * g)).take 8).foldl magMax (0, 0)) <<< (2 * g)) 0

/-- The code and class of one source element of a block with exponent x (R63, R65, R71). DESIGN CHOICE (log entry 39): for −∞
in an MXINT8 block under RTZ or SR, R65's words (the largest finite element of its sign, −128) and R63's pseudocode (−127)
differ; the pseudocode is followed. -/
def blockElem (f : Fmt) (x : Int) (sg : Nat) (mode : Nat) (v : Val) (r : Nat) : Nat × Cls :=
  let enc := fun (s : Bool) (m : Nat) (e : Int) =>
    match f.elem.kind with
    | .float => roundTo s m (e - x + sg) f.elem mode false r
    | _ => intRound s m (e - x + sg) f.elem mode r
  match v with
  | .nan => (0, clsNaNIn)
  | .inf s => ((enc s 0xFFFFFF 104).1, clsInfIn)
  | .fin s m e =>
    let (c, k) := enc s m e
    (c, if k = clsSatRange then clsSatBlock else k)

/-- block_encode of R63: the block and the class of each of its 32 positions. Positions past the
given elements count as +0 (R62). -/
def blockEncode (f : Fmt) (src : List Val) (mode : Nat) (r : Nat → Nat) : Block × List Cls :=
  let v := (src ++ List.replicate 32 (Val.fin false 0 0)).take 32
  if v.any Val.isNaN then (⟨0xFF, 0, List.replicate 32 0⟩, List.replicate 32 clsNaNIn)
  else
    let x := blockExp f v
    let sh := blockShifts f v
    let res := (v.zipIdx).map (fun (a, i) => blockElem f x (bits sh (2 * (i / 8)) 2) mode a (r i))
    (⟨(x + 127).toNat, sh, res.map Prod.fst⟩, res.map Prod.snd)

/-! ### Stochastic rounding generator (R74, R75) -/

/-- One round of sr_bits with key k. -/
def srRound (k : Nat) (xy : Nat × Nat) : Nat × Nat :=
  let x := rotl32 (trunc 32 (xy.1 + (xy.2 ^^^ k))) 11
  let y := rotl32 (trunc 32 (xy.2 + x)) 7 ^^^ x
  (x, y)

/-- sr_bits of R74. -/
def srBits (seed step stream index : Nat) : Nat :=
  let x0 := trunc 32 index ^^^ 0x243F6A88
  let y0 := bits index 32 16 ^^^ 0xB7E15162
  (srRound (trunc 32 stream) (srRound (trunc 32 step)
    (srRound (bits seed 32 32) (srRound (trunc 32 seed) (x0, y0))))).2

/-- The random word of element i of an operation with base index `base` (R75). -/
def srWord (seed step stream base i : Nat) : Nat := srBits seed step stream (trunc 48 (base + i))

/-! ### Status codes of conversions (R66, R67, R81) -/

def stFormatReserved : Nat := 0x0701
def stModeNotApplicable : Nat := 0x0702
def stRoundReserved : Nat := 0x0703

/-- Whether NONSAT acts on a target (R67): only a scalar format that encodes infinity. -/
def nonsatApplies (f : Fmt) : Bool := f.elem.hasInf && !f.block

end Sys2Proof.Machine
end

