-- ==== Sys2Proof/Machine/LongAcc.lean ====
section
/-! DEFINITION. The long accumulator (R138 to R141): the exact 320-bit sum that the sheaf engine,
the gateway's reduction table and the router's combining buffers share. -/

namespace Sys2Proof.Machine

/-- A long accumulator (R138). `a` is the 320-bit two's complement value read as an integer of
weight 2^-149; `count` is the term count C, saturating at 2^32 + 1. -/
structure LongAcc where
  a : Int
  posInf : Bool
  negInf : Bool
  nan : Bool
  count : Nat
  deriving DecidableEq, Repr

/-- A freshly cleared accumulator (R138). -/
def LongAcc.zero : LongAcc := ⟨0, false, false, false, 0⟩

/-- Wrap modulo 2^320 into two's complement (R139). -/
def wrap320 (i : Int) : Int := toSigned 320 (ofSigned 320 i)

/-- Adding one term; the flag says that EV_FLD_LONG_OVERFLOW is raised (R139). -/
def LongAcc.addTerm (x : LongAcc) (v : Val) : LongAcc × Bool :=
  let ev := decide (x.count = 2 ^ 32)
  let c := min (x.count + 1) (2 ^ 32 + 1)
  let y : LongAcc :=
    match v with
    | .nan => { x with nan := true }
    | .inf false => { x with posInf := true }
    | .inf true => { x with negInf := true }
    | .fin s m e =>
      let t : Int := ((m <<< (e + 149).toNat : Nat) : Int)
      { x with a := wrap320 (if s then x.a - t else x.a + t) }
  ({ y with count := c, nan := y.nan || decide (2 ^ 32 < c) }, ev)

/-- Merging accumulator b into a; the flag says that the overflow event is raised (R139). -/
def LongAcc.merge (x b : LongAcc) : LongAcc × Bool :=
  let ovf := decide (2 ^ 32 < x.count + b.count)
  ({ a := wrap320 (x.a + b.a), posInf := x.posInf || b.posInf, negInf := x.negInf || b.negInf,
     nan := x.nan || b.nan || ovf,
     count := if ovf then 2 ^ 32 + 1 else x.count + b.count },
   ovf && decide (x.count ≤ 2 ^ 32) && decide (b.count ≤ 2 ^ 32))

/-- Rounding a long accumulator into a float format (R140). -/
def LongAcc.round (x : LongAcc) (f : ElemFmt) (mode : Nat) (nonsat : Bool) (r : Nat) : Nat × Cls :=
  if x.nan then (canonicalNaN f, clsNaNIn)
  else if x.posInf && x.negInf then (canonicalNaN f, clsInfIn)
  else if x.posInf || x.negInf then
    (if nonsat && f.hasInf && mode ≠ rmRTZ then infinityCode f x.negInf
     else largestFinite f x.negInf, clsInfIn)
  else if x.a = 0 then (0, clsNone)
  else roundTo (decide (x.a < 0)) x.a.natAbs (-149) f mode nonsat r

/-- The 48-byte image of an accumulator (R141). -/
def LongAcc.image (x : LongAcc) : List Byte :=
  leBytes 40 (ofSigned 320 x.a) ++
  leBytes 1 (b2n x.posInf + 2 * b2n x.negInf + 4 * b2n x.nan + 8 * (x.count / 2 ^ 32)) ++
  leBytes 3 0 ++ leBytes 4 (x.count % 2 ^ 32)

/-- The accumulator a 48-byte image stands for (R141). -/
def LongAcc.ofImage (b : List Byte) : LongAcc :=
  let flags := leNat ((b.drop 40).take 1)
  let pad := leNat ((b.drop 41).take 3)
  let terms := leNat ((b.drop 44).take 4)
  let sat := bit flags 3 && decide (0 < terms)
  { a := toSigned 320 (leNat (b.take 40)), posInf := bit flags 0, negInf := bit flags 1,
    nan := bit flags 2 || decide (flags / 16 ≠ 0) || decide (pad ≠ 0) || sat,
    count := if sat then 2 ^ 32 + 1 else b2n (bit flags 3) * 2 ^ 32 + terms }

/-- Whether an accumulator has taken nothing and holds nothing. -/
def LongAcc.isZero (x : LongAcc) : Bool := decide (x = LongAcc.zero)

end Sys2Proof.Machine
end

