-- ==== Sys2Proof/Machine/Regs.lean ====
section
/-! DEFINITION. The register map: one `RegField` per named bit field of every register of the
hub, of a field's rim and of a plot window, with the place the register index gives it
(R687 to R692) and the access code and reset values of its own table (R13 to R16).
The constants are generated from the register tables of spec/; the rule beside each is the
rule whose table it comes from. -/

namespace Sys2Proof.Machine

/-- Access codes of register fields (R13). -/
inductive Access where
  | ro | rw | w1c | w1s | wo | rws | sl
  deriving DecidableEq, Repr

/-- One named bit field of a register, or a family of equal ones. `off` is the register's offset
in its space (R687), `stride` and `count` describe a numbered register family, `bitStride` and
`bitCount` a field repeated inside the register. `warm = none` is the tables' "Kept" (R16). -/
structure RegField where
  off : Nat
  stride : Nat
  count : Nat
  lo : Nat
  width : Nat
  bitStride : Nat
  bitCount : Nat
  access : Access
  cold : Nat
  warm : Option Nat
  deriving DecidableEq, Repr


/-! HUB_FIELD_STATE (R30) -/
def Reg.HUB_FIELD_STATE.STATE : RegField := ⟨0, 0, 1, 0, 4, 16, 4, .ro, 0, (some 1)⟩
def Reg.HUB_FIELD_STATE.FALLOW : RegField := ⟨0, 0, 1, 4, 5, 16, 4, .ro, 0, none⟩
def Reg.HUB_FIELD_STATE.HBM0_OK : RegField := ⟨0, 0, 1, 9, 1, 16, 4, .ro, 0, none⟩
def Reg.HUB_FIELD_STATE.HBM1_OK : RegField := ⟨0, 0, 1, 10, 1, 16, 4, .ro, 0, none⟩

/-! HUB_D2D_STATUS (R34) -/
def Reg.HUB_D2D_STATUS.MODULES : RegField := ⟨8, 0, 1, 0, 5, 8, 4, .ro, 0, (some 0)⟩
def Reg.HUB_D2D_STATUS.UP : RegField := ⟨8, 0, 1, 5, 1, 8, 4, .ro, 0, (some 0)⟩

/-! HUB_PKG_COORD (R36) -/
def Reg.HUB_PKG_COORD.U : RegField := ⟨0x10, 0, 1, 2, 2, 0, 1, .sl, 0, none⟩
def Reg.HUB_PKG_COORD.V : RegField := ⟨0x10, 0, 1, 4, 4, 0, 1, .sl, 0, none⟩
def Reg.HUB_PKG_COORD.W : RegField := ⟨0x10, 0, 1, 8, 5, 0, 1, .sl, 0, none⟩
def Reg.HUB_PKG_COORD.VALID : RegField := ⟨0x10, 0, 1, 31, 1, 0, 1, .sl, 0, none⟩

/-! MBX_HUB_IN_PTR (R186) -/
def Reg.MBX_HUB_IN_PTR.PTR : RegField := ⟨0x20000, 0x40, 6, 0, 64, 0, 1, .ro, 0, (some 0)⟩

/-! MBX_HUB_IN_META (R186) -/
def Reg.MBX_HUB_IN_META.TAG : RegField := ⟨0x20008, 0x40, 6, 0, 16, 0, 1, .ro, 0, (some 0)⟩
def Reg.MBX_HUB_IN_META.EPOCH : RegField := ⟨0x20008, 0x40, 6, 16, 16, 0, 1, .ro, 0, (some 0)⟩
def Reg.MBX_HUB_IN_META.FULL : RegField := ⟨0x20008, 0x40, 6, 32, 1, 0, 1, .ro, 0, (some 0)⟩

/-! MBX_HUB_IN_ACK (R186) -/
def Reg.MBX_HUB_IN_ACK.CODE : RegField := ⟨0x20010, 0x40, 6, 0, 16, 0, 1, .wo, 0, (some 0)⟩

/-! MBX_HUB_ROLE (R186) -/
def Reg.MBX_HUB_ROLE.EPOCH : RegField := ⟨0x20018, 0x40, 6, 0, 16, 0, 1, .rw, 0, (some 0)⟩

/-! MBX_HUB_OUT_PTR (R186) -/
def Reg.MBX_HUB_OUT_PTR.PTR : RegField := ⟨0x20020, 0x40, 6, 0, 64, 0, 1, .rw, 0, (some 0)⟩

/-! MBX_HUB_OUT_META (R186) -/
def Reg.MBX_HUB_OUT_META.TAG : RegField := ⟨0x20028, 0x40, 6, 0, 16, 0, 1, .rw, 0, (some 0)⟩
def Reg.MBX_HUB_OUT_META.EPOCH : RegField := ⟨0x20028, 0x40, 6, 16, 16, 0, 1, .rw, 0, (some 0)⟩
def Reg.MBX_HUB_OUT_META.SEND : RegField := ⟨0x20028, 0x40, 6, 32, 1, 0, 1, .w1s, 0, (some 0)⟩
def Reg.MBX_HUB_OUT_META.PENDING : RegField := ⟨0x20028, 0x40, 6, 33, 1, 0, 1, .ro, 0, (some 0)⟩
def Reg.MBX_HUB_OUT_META.REFUSED : RegField := ⟨0x20028, 0x40, 6, 34, 1, 0, 1, .w1c, 0, (some 0)⟩

/-! MBX_HUB_OUT_ACK (R186) -/
def Reg.MBX_HUB_OUT_ACK.CODE : RegField := ⟨0x20030, 0x40, 6, 0, 16, 0, 1, .ro, 0, (some 0)⟩
def Reg.MBX_HUB_OUT_ACK.DONE : RegField := ⟨0x20030, 0x40, 6, 16, 1, 0, 1, .w1c, 0, (some 0)⟩

/-! HDL_LIGHT_CTL (R298) -/
def Reg.HDL_LIGHT_CTL.RELIGHT : RegField := ⟨0x70000, 0, 1, 0, 1, 0, 1, .w1s, 0, (some 0)⟩
def Reg.HDL_LIGHT_CTL.MARGIN_TARGET : RegField := ⟨0x70000, 0, 1, 1, 8, 0, 1, .rw, 0x18, none⟩
def Reg.HDL_LIGHT_CTL.BIAS_AUTO : RegField := ⟨0x70000, 0, 1, 9, 1, 0, 1, .rw, 1, none⟩
def Reg.HDL_LIGHT_CTL.SWITCH_AUTO : RegField := ⟨0x70000, 0, 1, 10, 1, 0, 1, .rw, 1, none⟩
def Reg.HDL_LIGHT_CTL.FALLBACK_AUTO : RegField := ⟨0x70000, 0, 1, 11, 1, 0, 1, .rw, 1, none⟩

/-! HDL_LIGHT_STATUS (R299) -/
def Reg.HDL_LIGHT_STATUS.STATE : RegField := ⟨0x70008, 0, 1, 0, 3, 0, 1, .ro, 0, (some 0)⟩
def Reg.HDL_LIGHT_STATUS.LASER_EN : RegField := ⟨0x70008, 0, 1, 3, 1, 0, 1, .ro, 0, (some 0)⟩ -- cold: Pin; warm: Pin
def Reg.HDL_LIGHT_STATUS.RESULT : RegField := ⟨0x70008, 0, 1, 16, 16, 0, 1, .ro, 0, (some 0)⟩

/-! HDL_MODULE (R300) -/
def Reg.HDL_MODULE.PRESENT : RegField := ⟨0x70010, 8, 2, 0, 1, 0, 1, .ro, 0, (some 0)⟩
def Reg.HDL_MODULE.OUTPUT_ON : RegField := ⟨0x70010, 8, 2, 1, 17, 0, 1, .ro, 0, (some 0)⟩
def Reg.HDL_MODULE.BIAS : RegField := ⟨0x70010, 8, 2, 18, 10, 0, 1, .ro, 0, (some 0)⟩
def Reg.HDL_MODULE.FADE : RegField := ⟨0x70010, 8, 2, 28, 2, 0, 1, .ro, 0, (some 0)⟩
def Reg.HDL_MODULE.MARGIN : RegField := ⟨0x70010, 8, 2, 30, 8, 0, 1, .ro, 0x80, (some 0x80)⟩
def Reg.HDL_MODULE.PROBE_FAIL : RegField := ⟨0x70010, 8, 2, 38, 17, 0, 1, .ro, 0, (some 0)⟩
def Reg.HDL_MODULE.FAULT : RegField := ⟨0x70010, 8, 2, 55, 1, 0, 1, .ro, 0, (some 0)⟩

/-! HDL_HOST_ENGINE (R301) -/
def Reg.HDL_HOST_ENGINE.SRC : RegField := ⟨0x70020, 0, 1, 0, 1, 8, 1, .ro, 0, none⟩
def Reg.HDL_HOST_ENGINE.SWITCHING : RegField := ⟨0x70020, 0, 1, 1, 1, 8, 1, .ro, 0, (some 0)⟩
def Reg.HDL_HOST_ENGINE.INLET_A_OK : RegField := ⟨0x70020, 0, 1, 2, 1, 8, 1, .ro, 0, (some 0)⟩
def Reg.HDL_HOST_ENGINE.INLET_B_OK : RegField := ⟨0x70020, 0, 1, 3, 1, 8, 1, .ro, 0, (some 0)⟩
def Reg.HDL_HOST_ENGINE.DARK : RegField := ⟨0x70020, 0, 1, 4, 1, 8, 1, .ro, 1, (some 1)⟩

/-! HLT_PKG (R485) -/
def Reg.HLT_PKG.SCORE : RegField := ⟨0x80008, 0, 1, 0, 10, 0, 1, .ro, 0x3e8, (some 0x3e8)⟩
def Reg.HLT_PKG.OUT : RegField := ⟨0x80008, 0, 1, 10, 3, 0, 1, .ro, 0, (some 0)⟩
def Reg.HLT_PKG.EXPEL : RegField := ⟨0x80008, 0, 1, 13, 4, 0, 1, .ro, 0, none⟩

/-! HUB_INJ_UNLOCK (R513) -/
def Reg.HUB_INJ_UNLOCK.VALUE : RegField := ⟨0x28, 0, 1, 0, 16, 0, 1, .wo, 0, (some 0)⟩
def Reg.HUB_INJ_UNLOCK.REQ : RegField := ⟨0x28, 0, 1, 16, 1, 0, 1, .w1s, 0, (some 0)⟩
def Reg.HUB_INJ_UNLOCK.LOCK : RegField := ⟨0x28, 0, 1, 17, 1, 0, 1, .w1s, 0, (some 0)⟩

/-! HUB_INJ_STATUS (R514) -/
def Reg.HUB_INJ_STATUS.OPEN : RegField := ⟨0x30, 0, 1, 0, 1, 0, 1, .ro, 0, (some 0)⟩
def Reg.HUB_INJ_STATUS.PROVING : RegField := ⟨0x30, 0, 1, 1, 1, 0, 1, .ro, 0, (some 0)⟩ -- cold: Seed; warm: Seed
def Reg.HUB_INJ_STATUS.FUSE : RegField := ⟨0x30, 0, 1, 2, 1, 0, 1, .ro, 0, (some 0)⟩ -- cold: Fuse; warm: Fuse
def Reg.HUB_INJ_STATUS.PENDING : RegField := ⟨0x30, 0, 1, 3, 1, 0, 1, .ro, 0, (some 0)⟩
def Reg.HUB_INJ_STATUS.RESULT : RegField := ⟨0x30, 0, 1, 16, 16, 0, 1, .ro, 0, (some 0)⟩

/-! TLY_PIN_CTL (R547) -/
def Reg.TLY_PIN_CTL.ENABLE : RegField := ⟨0x50000, 0, 1, 0, 1, 0, 1, .sl, 0, none⟩
def Reg.TLY_PIN_CTL.MODE : RegField := ⟨0x50000, 0, 1, 1, 1, 0, 1, .rw, 0, none⟩
def Reg.TLY_PIN_CTL.PERIOD_LOG : RegField := ⟨0x50000, 0, 1, 2, 6, 0, 1, .rw, 0x14, none⟩
def Reg.TLY_PIN_CTL.WIDTH : RegField := ⟨0x50000, 0, 1, 8, 8, 0, 1, .rw, 0x10, none⟩
def Reg.TLY_PIN_CTL.FIELD : RegField := ⟨0x50000, 0, 1, 16, 2, 0, 1, .rw, 0, none⟩

/-! CAL_TIME (R548) -/
def Reg.CAL_TIME.SEC : RegField := ⟨0x60000, 0, 1, 0, 64, 0, 1, .ro, 0, none⟩ -- cold: Kept
def Reg.CAL_TIME.FRAC : RegField := ⟨0x60000, 0, 1, 64, 15, 0, 1, .ro, 0, none⟩ -- cold: Kept
def Reg.CAL_TIME.VALID : RegField := ⟨0x60000, 0, 1, 79, 1, 0, 1, .ro, 0, none⟩ -- cold: Kept

/-! CAL_SET (R548) -/
def Reg.CAL_SET.SEC : RegField := ⟨0x60010, 0, 1, 0, 64, 0, 1, .wo, 0, (some 0)⟩
def Reg.CAL_SET.FRAC : RegField := ⟨0x60010, 0, 1, 64, 15, 0, 1, .wo, 0, (some 0)⟩
def Reg.CAL_SET.APPLY : RegField := ⟨0x60010, 0, 1, 79, 1, 0, 1, .w1s, 0, (some 0)⟩

/-! CAL_COMP (R548) -/
def Reg.CAL_COMP.T0 : RegField := ⟨0x60020, 0, 1, 0, 8, 0, 1, .rw, 0, none⟩ -- cold: Seed
def Reg.CAL_COMP.C0 : RegField := ⟨0x60020, 0, 1, 8, 16, 0, 1, .rw, 0, none⟩ -- cold: Seed
def Reg.CAL_COMP.C1 : RegField := ⟨0x60020, 0, 1, 24, 16, 0, 1, .rw, 0, none⟩ -- cold: Seed
def Reg.CAL_COMP.C2 : RegField := ⟨0x60020, 0, 1, 40, 16, 0, 1, .rw, 0, none⟩ -- cold: Seed
def Reg.CAL_COMP.ENABLE : RegField := ⟨0x60020, 0, 1, 56, 1, 0, 1, .rw, 0, none⟩ -- cold: Seed

/-! CAL_STATUS (R548) -/
def Reg.CAL_STATUS.OSC_STOP : RegField := ⟨0x60028, 0, 1, 0, 1, 0, 1, .w1c, 0, none⟩ -- cold: Kept
def Reg.CAL_STATUS.VBAT_LOW : RegField := ⟨0x60028, 0, 1, 1, 1, 0, 1, .ro, 0, (some 0)⟩
def Reg.CAL_STATUS.TEMP : RegField := ⟨0x60028, 0, 1, 2, 8, 0, 1, .ro, 0, none⟩

/-! SEED_STAGE (R584) -/
def Reg.SEED_STAGE.STAGE : RegField := ⟨0x10000, 0, 1, 0, 4, 0, 1, .ro, 0, (some 1)⟩
def Reg.SEED_STAGE.PHASE : RegField := ⟨0x10000, 0, 1, 4, 3, 0, 1, .ro, 0, (some 0)⟩
def Reg.SEED_STAGE.HOST_STEPPED : RegField := ⟨0x10000, 0, 1, 7, 1, 0, 1, .ro, 0, (some 0)⟩ -- cold: Strap; warm: Strap
def Reg.SEED_STAGE.FAST_PATH : RegField := ⟨0x10000, 0, 1, 8, 1, 0, 1, .ro, 0, (some 0)⟩ -- warm: R568
def Reg.SEED_STAGE.GO_IGNORED : RegField := ⟨0x10000, 0, 1, 9, 1, 0, 1, .w1c, 0, (some 0)⟩
def Reg.SEED_STAGE.AUTO : RegField := ⟨0x10000, 0, 1, 10, 8, 0, 1, .ro, 0, (some 0)⟩
def Reg.SEED_STAGE.RESULT : RegField := ⟨0x10000, 0, 1, 32, 16, 0, 1, .ro, 0, (some 0)⟩

/-! SEED_STAGE_GO (R585) -/
def Reg.SEED_STAGE_GO.STAGE : RegField := ⟨0x10008, 0, 1, 0, 4, 0, 1, .wo, 0, (some 0)⟩
def Reg.SEED_STAGE_GO.SKIP : RegField := ⟨0x10008, 0, 1, 4, 1, 0, 1, .w1s, 0, (some 0)⟩

/-! SEED_CTL (R586) -/
def Reg.SEED_CTL.HOST_IMAGE : RegField := ⟨0x10010, 0, 1, 0, 1, 0, 1, .w1s, 0, (some 0)⟩
def Reg.SEED_CTL.IMAGES_READY : RegField := ⟨0x10010, 0, 1, 1, 1, 0, 1, .w1s, 0, (some 0)⟩
def Reg.SEED_CTL.FORCE_FULL : RegField := ⟨0x10010, 0, 1, 2, 1, 0, 1, .rw, 0, none⟩

/-! SEED_STRAPS (R587) -/
def Reg.SEED_STRAPS.STEP : RegField := ⟨0x10018, 0, 1, 0, 1, 0, 1, .ro, 0, none⟩ -- cold: Strap
def Reg.SEED_STRAPS.BOOT_SRC : RegField := ⟨0x10018, 0, 1, 1, 2, 0, 1, .ro, 0, none⟩ -- cold: Strap
def Reg.SEED_STRAPS.FLASH_IO : RegField := ⟨0x10018, 0, 1, 3, 1, 0, 1, .ro, 0, none⟩ -- cold: Strap

/-! SEED_IMAGE_STATUS (R588) -/
def Reg.SEED_IMAGE_STATUS.SLOT : RegField := ⟨0x10020, 0, 1, 0, 2, 0, 1, .ro, 3, (some 3)⟩
def Reg.SEED_IMAGE_STATUS.UNPROVISIONED : RegField := ⟨0x10020, 0, 1, 2, 1, 0, 1, .ro, 0, (some 0)⟩
def Reg.SEED_IMAGE_STATUS.CARRY_APPLIED : RegField := ⟨0x10020, 0, 1, 3, 1, 0, 1, .ro, 0, none⟩
def Reg.SEED_IMAGE_STATUS.RESULT_A : RegField := ⟨0x10020, 0, 1, 16, 16, 0, 1, .ro, 0, (some 0)⟩
def Reg.SEED_IMAGE_STATUS.RESULT_B : RegField := ⟨0x10020, 0, 1, 32, 16, 0, 1, .ro, 0, (some 0)⟩
def Reg.SEED_IMAGE_STATUS.RESULT_HOST : RegField := ⟨0x10020, 0, 1, 48, 16, 0, 1, .ro, 0, (some 0)⟩
def Reg.SEED_IMAGE_STATUS.SVN : RegField := ⟨0x10020, 0, 1, 64, 16, 0, 1, .ro, 0, (some 0)⟩
def Reg.SEED_IMAGE_STATUS.LENGTH : RegField := ⟨0x10020, 0, 1, 80, 24, 0, 1, .ro, 0, (some 0)⟩
def Reg.SEED_IMAGE_STATUS.BUILD : RegField := ⟨0x10020, 0, 1, 128, 64, 0, 1, .ro, 0, (some 0)⟩

/-! SEED_MEASURE (R589) -/
def Reg.SEED_MEASURE.M : RegField := ⟨0x10080, 0, 1, 0, 384, 0, 1, .ro, 0, (some 0)⟩ -- warm: R567

/-! SEED_DIGEST (R589) -/
def Reg.SEED_DIGEST.D : RegField := ⟨0x100c0, 0, 1, 0, 384, 0, 1, .ro, 0, none⟩ -- warm: New D

/-! SEED_STAGE_TIME (R590) -/
def Reg.SEED_STAGE_TIME.TIME : RegField := ⟨0x10040, 0, 1, 0, 32, 32, 10, .ro, 0, (some 0)⟩

/-! HUB_RESET_CTL (R593) -/
def Reg.HUB_RESET_CTL.WARM : RegField := ⟨0x18, 0, 1, 0, 1, 0, 1, .w1s, 0, (some 0)⟩
def Reg.HUB_RESET_CTL.PART : RegField := ⟨0x18, 0, 1, 1, 4, 0, 1, .w1s, 0, (some 0)⟩

/-! HUB_RESET_STATUS (R593) -/
def Reg.HUB_RESET_STATUS.CAUSE : RegField := ⟨0x20, 0, 1, 0, 2, 0, 1, .ro, 0, (some 0)⟩ -- warm: Cause
def Reg.HUB_RESET_STATUS.PART_BUSY : RegField := ⟨0x20, 0, 1, 2, 4, 0, 1, .ro, 0, (some 0)⟩
def Reg.HUB_RESET_STATUS.PART_REFUSED : RegField := ⟨0x20, 0, 1, 6, 1, 0, 1, .w1c, 0, (some 0)⟩
def Reg.HUB_RESET_STATUS.WARM_COUNT : RegField := ⟨0x20, 0, 1, 8, 16, 0, 1, .rws, 0, none⟩

/-! HUB_JTAG_CHAL (R594) -/
def Reg.HUB_JTAG_CHAL.NONCE : RegField := ⟨0x140, 0, 1, 0, 384, 0, 1, .ro, 0, (some 0)⟩ -- cold: New; warm: New

/-! HUB_JTAG_RESP (R594) -/
def Reg.HUB_JTAG_RESP.SIG_R : RegField := ⟨0x180, 0, 1, 0, 384, 0, 1, .wo, 0, (some 0)⟩
def Reg.HUB_JTAG_RESP.SIG_S : RegField := ⟨0x180, 0, 1, 384, 384, 0, 1, .wo, 0, (some 0)⟩

/-! HUB_JTAG_STATUS (R594) -/
def Reg.HUB_JTAG_STATUS.UNLOCKED : RegField := ⟨0x100, 0, 1, 0, 1, 0, 1, .ro, 0, (some 0)⟩
def Reg.HUB_JTAG_STATUS.RESULT : RegField := ⟨0x100, 0, 1, 16, 16, 0, 1, .ro, 0, (some 0)⟩

/-! HUB_HOST_PHY_CTL (R620) -/
def Reg.HUB_HOST_PHY_CTL.CAL_EN : RegField := ⟨0x48, 0, 1, 0, 1, 0, 1, .rw, 1, none⟩
def Reg.HUB_HOST_PHY_CTL.PERIOD : RegField := ⟨0x48, 0, 1, 1, 16, 0, 1, .rw, 0x3e8, none⟩
def Reg.HUB_HOST_PHY_CTL.RETRAIN : RegField := ⟨0x48, 0, 1, 17, 1, 0, 1, .w1s, 0, (some 0)⟩

/-! HUB_HOST_PHY_STATUS (R621) -/
def Reg.HUB_HOST_PHY_STATUS.STATE : RegField := ⟨0x50, 0, 1, 0, 3, 0, 1, .ro, 0, (some 0)⟩
def Reg.HUB_HOST_PHY_STATUS.WIDTH : RegField := ⟨0x50, 0, 1, 3, 2, 0, 1, .ro, 0, (some 0)⟩
def Reg.HUB_HOST_PHY_STATUS.FALLOW : RegField := ⟨0x50, 0, 1, 5, 4, 0, 1, .ro, 8, none⟩
def Reg.HUB_HOST_PHY_STATUS.PAUSE : RegField := ⟨0x50, 0, 1, 9, 1, 0, 1, .ro, 0, (some 0)⟩
def Reg.HUB_HOST_PHY_STATUS.FAILED : RegField := ⟨0x50, 0, 1, 16, 9, 0, 1, .ro, 0, none⟩
def Reg.HUB_HOST_PHY_STATUS.RECOVERIES : RegField := ⟨0x50, 0, 1, 32, 16, 0, 1, .ro, 0, (some 0)⟩

/-! HUB_EVT_RING (R623) -/
def Reg.HUB_EVT_RING.ENABLE : RegField := ⟨0x58, 0, 1, 0, 1, 0, 1, .rw, 0, (some 0)⟩
def Reg.HUB_EVT_RING.SIZE_LOG : RegField := ⟨0x58, 0, 1, 1, 4, 0, 1, .rw, 6, (some 6)⟩
def Reg.HUB_EVT_RING.BASE : RegField := ⟨0x58, 0, 1, 12, 36, 0, 1, .rw, 0, (some 0)⟩

/-! HUB_EVT_IDX (R624) -/
def Reg.HUB_EVT_IDX.PROD : RegField := ⟨0x60, 0, 1, 0, 16, 0, 1, .ro, 0, (some 0)⟩
def Reg.HUB_EVT_IDX.CONS : RegField := ⟨0x60, 0, 1, 16, 16, 0, 1, .rw, 0, (some 0)⟩
def Reg.HUB_EVT_IDX.LOST : RegField := ⟨0x60, 0, 1, 32, 16, 0, 1, .ro, 0, (some 0)⟩

/-! HUB_MGMT_REQ (R626) -/
def Reg.HUB_MGMT_REQ.NODE : RegField := ⟨0x70, 0, 1, 0, 16, 0, 1, .wo, 0, (some 0)⟩
def Reg.HUB_MGMT_REQ.OFFSET : RegField := ⟨0x70, 0, 1, 16, 28, 0, 1, .wo, 0, (some 0)⟩
def Reg.HUB_MGMT_REQ.WORDS : RegField := ⟨0x70, 0, 1, 44, 5, 0, 1, .wo, 0, (some 0)⟩
def Reg.HUB_MGMT_REQ.GO : RegField := ⟨0x70, 0, 1, 63, 1, 0, 1, .w1s, 0, (some 0)⟩

/-! HUB_MGMT_STATUS (R626) -/
def Reg.HUB_MGMT_STATUS.BUSY : RegField := ⟨0x78, 0, 1, 0, 1, 0, 1, .ro, 0, (some 0)⟩
def Reg.HUB_MGMT_STATUS.RESULT : RegField := ⟨0x78, 0, 1, 16, 16, 0, 1, .ro, 0, (some 0)⟩

/-! PWR_MODE_CTL (R661) -/
def Reg.PWR_MODE_CTL.MODE : RegField := ⟨0x30000, 0, 1, 0, 2, 0, 1, .rw, 1, none⟩
def Reg.PWR_MODE_CTL.AT_MARK : RegField := ⟨0x30000, 0, 1, 2, 1, 0, 1, .rw, 1, none⟩
def Reg.PWR_MODE_CTL.LIMIT_W : RegField := ⟨0x30000, 0, 1, 16, 16, 0, 1, .rw, 0, none⟩

/-! PWR_MODE_STATUS (R662) -/
def Reg.PWR_MODE_STATUS.MODE : RegField := ⟨0x30008, 0, 1, 0, 2, 0, 1, .ro, 1, none⟩
def Reg.PWR_MODE_STATUS.REQ : RegField := ⟨0x30008, 0, 1, 2, 2, 0, 1, .ro, 1, none⟩
def Reg.PWR_MODE_STATUS.PENDING : RegField := ⟨0x30008, 0, 1, 4, 1, 0, 1, .ro, 0, (some 0)⟩
def Reg.PWR_MODE_STATUS.HOLD : RegField := ⟨0x30008, 0, 1, 5, 1, 0, 1, .ro, 0, (some 0)⟩
def Reg.PWR_MODE_STATUS.WARN_PIN : RegField := ⟨0x30008, 0, 1, 6, 1, 0, 1, .ro, 0, (some 0)⟩ -- cold: Pin; warm: Pin
def Reg.PWR_MODE_STATUS.CHANGING : RegField := ⟨0x30008, 0, 1, 7, 1, 0, 1, .ro, 0, (some 0)⟩
def Reg.PWR_MODE_STATUS.POINT_0 : RegField := ⟨0x30008, 0, 1, 8, 2, 0, 1, .ro, 1, none⟩
def Reg.PWR_MODE_STATUS.POINT_1 : RegField := ⟨0x30008, 0, 1, 10, 2, 0, 1, .ro, 1, none⟩
def Reg.PWR_MODE_STATUS.POINT_2 : RegField := ⟨0x30008, 0, 1, 12, 2, 0, 1, .ro, 1, none⟩
def Reg.PWR_MODE_STATUS.POINT_3 : RegField := ⟨0x30008, 0, 1, 14, 2, 0, 1, .ro, 1, none⟩
def Reg.PWR_MODE_STATUS.VSEL : RegField := ⟨0x30008, 0, 1, 16, 2, 0, 1, .ro, 1, none⟩
def Reg.PWR_MODE_STATUS.HOLD_COUNT : RegField := ⟨0x30008, 0, 1, 32, 16, 0, 1, .ro, 0, none⟩

/-! PWR_GOV_CTL (R663) -/
def Reg.PWR_GOV_CTL.GOV_EN : RegField := ⟨0x30010, 0, 1, 0, 1, 0, 1, .rw, 1, none⟩
def Reg.PWR_GOV_CTL.BALLAST_EN : RegField := ⟨0x30010, 0, 1, 1, 1, 0, 1, .rw, 1, none⟩
def Reg.PWR_GOV_CTL.RATE : RegField := ⟨0x30010, 0, 1, 2, 11, 0, 1, .rw, 0x32, none⟩
def Reg.PWR_GOV_CTL.FLOOR_PCT : RegField := ⟨0x30010, 0, 1, 13, 7, 0, 1, .rw, 0x46, none⟩
def Reg.PWR_GOV_CTL.STAGGER_US : RegField := ⟨0x30010, 0, 1, 20, 12, 0, 1, .rw, 0x3e8, none⟩
def Reg.PWR_GOV_CTL.HOLD_DUTY : RegField := ⟨0x30010, 0, 1, 32, 7, 0, 1, .rw, 0x20, none⟩
def Reg.PWR_GOV_CTL.HOLD_OFF_US : RegField := ⟨0x30010, 0, 1, 39, 16, 0, 1, .rw, 0x7d0, none⟩

/-! PWR_RAMP_STAT (R664) -/
def Reg.PWR_RAMP_STAT.POWER : RegField := ⟨0x30020, 0, 1, 0, 16, 0, 1, .ro, 0, (some 0)⟩
def Reg.PWR_RAMP_STAT.GOVERNED : RegField := ⟨0x30020, 0, 1, 16, 16, 0, 1, .ro, 0, (some 0)⟩
def Reg.PWR_RAMP_STAT.BALLAST_W : RegField := ⟨0x30020, 0, 1, 32, 16, 0, 1, .ro, 0, (some 0)⟩
def Reg.PWR_RAMP_STAT.DUTY : RegField := ⟨0x30020, 0, 1, 48, 7, 0, 1, .ro, 0x40, (some 0x40)⟩
def Reg.PWR_RAMP_STAT.BALLAST : RegField := ⟨0x30020, 0, 1, 55, 7, 0, 1, .ro, 0, (some 0)⟩
def Reg.PWR_RAMP_STAT.RELEASED : RegField := ⟨0x30020, 0, 1, 62, 1, 0, 1, .ro, 0, (some 0)⟩
def Reg.PWR_RAMP_STAT.RATE_MAX : RegField := ⟨0x30020, 0, 1, 64, 16, 0, 1, .ro, 0, (some 0)⟩
def Reg.PWR_RAMP_STAT.LIMIT : RegField := ⟨0x30020, 0, 1, 80, 16, 0, 1, .ro, 0, (some 0)⟩
def Reg.PWR_RAMP_STAT.EXCEED : RegField := ⟨0x30020, 0, 1, 96, 32, 0, 1, .ro, 0, (some 0)⟩

/-! PWR_RAIL_STATUS (R665) -/
def Reg.PWR_RAIL_STATUS.PWREN : RegField := ⟨0x30018, 0, 1, 0, 4, 0, 1, .ro, 0, (some 0)⟩
def Reg.PWR_RAIL_STATUS.PGOOD : RegField := ⟨0x30018, 0, 1, 4, 4, 0, 1, .ro, 0, (some 0)⟩
def Reg.PWR_RAIL_STATUS.PWREN_OPT : RegField := ⟨0x30018, 0, 1, 8, 1, 0, 1, .ro, 0, (some 0)⟩
def Reg.PWR_RAIL_STATUS.PGOOD_OPT : RegField := ⟨0x30018, 0, 1, 9, 1, 0, 1, .ro, 0, (some 0)⟩
def Reg.PWR_RAIL_STATUS.FAULTS : RegField := ⟨0x30018, 0, 1, 16, 16, 0, 1, .ro, 0, none⟩

/-! THM_PIN_CFG (R667) -/
def Reg.THM_PIN_CFG.ROLE : RegField := ⟨0x40040, 8, 12, 0, 3, 0, 1, .rw, 0, none⟩
def Reg.THM_PIN_CFG.WARN : RegField := ⟨0x40040, 8, 12, 8, 8, 0, 1, .rw, 0x46, none⟩
def Reg.THM_PIN_CFG.CRIT : RegField := ⟨0x40040, 8, 12, 16, 8, 0, 1, .rw, 0x55, none⟩
def Reg.THM_PIN_CFG.NOM_OHMS : RegField := ⟨0x40040, 8, 8, 24, 20, 0, 1, .rw, 0x2710, none⟩
def Reg.THM_PIN_CFG.IDEAL : RegField := ⟨0x40080, 8, 4, 24, 16, 0, 1, .rw, 0x2710, none⟩
def Reg.THM_PIN_CFG.BETA : RegField := ⟨0x40040, 8, 8, 44, 16, 0, 1, .rw, 0xd6b, none⟩

/-! THM_PIN_STATUS (R668) -/
def Reg.THM_PIN_STATUS.WARN : RegField := ⟨0x40008, 0, 1, 0, 12, 0, 1, .ro, 0, (some 0)⟩
def Reg.THM_PIN_STATUS.CRIT : RegField := ⟨0x40008, 0, 1, 16, 12, 0, 1, .ro, 0, (some 0)⟩
def Reg.THM_PIN_STATUS.BROKEN : RegField := ⟨0x40008, 0, 1, 32, 12, 0, 1, .ro, 0, (some 0)⟩

/-! THM_TRIP_STATUS (R671) -/
def Reg.THM_TRIP_STATUS.TRIPPED : RegField := ⟨0x40010, 0, 1, 0, 1, 0, 1, .w1c, 0, none⟩ -- cold: Kept
def Reg.THM_TRIP_STATUS.SOURCE : RegField := ⟨0x40010, 0, 1, 1, 1, 0, 1, .ro, 0, none⟩ -- cold: Kept
def Reg.THM_TRIP_STATUS.FIELD : RegField := ⟨0x40010, 0, 1, 2, 2, 0, 1, .ro, 0, none⟩ -- cold: Kept
def Reg.THM_TRIP_STATUS.SENSOR : RegField := ⟨0x40010, 0, 1, 4, 6, 0, 1, .ro, 0, none⟩ -- cold: Kept
def Reg.THM_TRIP_STATUS.TEMP : RegField := ⟨0x40010, 0, 1, 10, 8, 0, 1, .ro, 0, none⟩ -- cold: Kept

/-! HUB_GPIO_CLAIM (R684) -/
def Reg.HUB_GPIO_CLAIM.CLAIM : RegField := ⟨0x38, 0, 1, 0, 8, 0, 1, .sl, 0, none⟩

/-! HUB_GPIO_CTL (R685) -/
def Reg.HUB_GPIO_CTL.OE : RegField := ⟨0x40, 0, 1, 0, 8, 0, 1, .rw, 0, none⟩
def Reg.HUB_GPIO_CTL.OUT : RegField := ⟨0x40, 0, 1, 8, 8, 0, 1, .rw, 0, none⟩
def Reg.HUB_GPIO_CTL.IN : RegField := ⟨0x40, 0, 1, 16, 8, 0, 1, .ro, 0, (some 0)⟩ -- cold: Pin; warm: Pin

/-! INJ_HPT (R696) -/
def Reg.INJ_HPT.POINT : RegField := ⟨0x90000, 8, 2, 0, 5, 0, 1, .rw, 0, (some 0)⟩
def Reg.INJ_HPT.TARGET : RegField := ⟨0x90000, 8, 2, 8, 8, 0, 1, .rw, 0, (some 0)⟩
def Reg.INJ_HPT.ARG : RegField := ⟨0x90000, 8, 2, 16, 32, 0, 1, .rw, 0, (some 0)⟩
def Reg.INJ_HPT.ARM : RegField := ⟨0x90000, 8, 2, 48, 1, 0, 1, .w1s, 0, (some 0)⟩
def Reg.INJ_HPT.DONE : RegField := ⟨0x90000, 8, 2, 49, 1, 0, 1, .w1c, 0, (some 0)⟩
def Reg.INJ_HPT.NOFIRE : RegField := ⟨0x90000, 8, 2, 50, 1, 0, 1, .w1c, 0, (some 0)⟩

/-! HLT_FLEET (R484) -/
def Reg.HLT_FLEET.PRESSURE : RegField := ⟨0x80000, 0, 1, 0, 3, 0, 1, .rw, 0, none⟩

/-! THM_CTL (R666) -/
def Reg.THM_CTL.ALERT_MASK : RegField := ⟨0x40000, 0, 1, 0, 5, 0, 1, .rw, 0x1f, none⟩

/-! THM_PIN_TEMP (R668) -/
def Reg.THM_PIN_TEMP.TEMP : RegField := ⟨0x40020, 0, 1, 0, 16, 16, 12, .ro, 0, (some 0)⟩

/-! HUB_MGMT_CTL (R625) -/
def Reg.HUB_MGMT_CTL.ENABLE : RegField := ⟨0x68, 0, 1, 0, 1, 0, 1, .sl, 0, none⟩

/-! HUB_MGMT_DATA (R625) -/
def Reg.HUB_MGMT_DATA.WORD : RegField := ⟨0x80, 0, 1, 0, 32, 32, 32, .ro, 0, (some 0)⟩

/-! FLD_SR_SEED (R77) -/
def Reg.FLD_SR_SEED.SEED : RegField := ⟨8, 0, 1, 0, 64, 0, 1, .rw, 0, (some 0)⟩

/-! FLD_SR_STEP (R78) -/
def Reg.FLD_SR_STEP.STEP : RegField := ⟨0x10, 0, 1, 0, 32, 0, 1, .rw, 0, (some 0)⟩
def Reg.FLD_SR_STEP.AUTO_STEP : RegField := ⟨0x10, 0, 1, 32, 1, 0, 1, .rw, 0, (some 0)⟩

/-! FLD_WITNESS_CTL (R125) -/
def Reg.FLD_WITNESS_CTL.ENABLE : RegField := ⟨0x18, 0, 1, 0, 1, 0, 1, .rw, 1, (some 1)⟩
def Reg.FLD_WITNESS_CTL.POISON : RegField := ⟨0x18, 0, 1, 1, 1, 0, 1, .rw, 1, (some 1)⟩
def Reg.FLD_WITNESS_CTL.ACTIVE : RegField := ⟨0x18, 0, 1, 2, 1, 0, 1, .ro, 1, (some 1)⟩
def Reg.FLD_WITNESS_CTL.POISON_ACTIVE : RegField := ⟨0x18, 0, 1, 3, 1, 0, 1, .ro, 1, (some 1)⟩

/-! FLD_DRIFT_CTL (R133) -/
def Reg.FLD_DRIFT_CTL.SAMPLE_K : RegField := ⟨0x20, 0, 1, 0, 5, 0, 1, .rw, 0xa, (some 0xa)⟩
def Reg.FLD_DRIFT_CTL.TH_BUCKET : RegField := ⟨0x20, 0, 1, 5, 4, 0, 1, .rw, 0xc, (some 0xc)⟩
def Reg.FLD_DRIFT_CTL.TH_COUNT : RegField := ⟨0x20, 0, 1, 9, 16, 0, 1, .rw, 0x40, (some 0x40)⟩

/-! FLD_DRIFT_BASE (R134) -/
def Reg.FLD_DRIFT_BASE.WRITE : RegField := ⟨0x28, 0, 1, 0, 1, 0, 1, .rw, 0, (some 0)⟩
def Reg.FLD_DRIFT_BASE.ADDR : RegField := ⟨0x28, 0, 1, 7, 41, 0, 1, .rw, 0, (some 0)⟩

/-! FLD_DRIFT_STATUS (R135) -/
def Reg.FLD_DRIFT_STATUS.ENTRIES : RegField := ⟨0x30, 0, 1, 0, 11, 0, 1, .ro, 0, (some 0)⟩
def Reg.FLD_DRIFT_STATUS.FULL : RegField := ⟨0x30, 0, 1, 11, 1, 0, 1, .ro, 0, (some 0)⟩
def Reg.FLD_DRIFT_STATUS.SEQ : RegField := ⟨0x30, 0, 1, 12, 32, 0, 1, .ro, 0, (some 0)⟩

/-! INJ_ARITH (R144) -/
def Reg.INJ_ARITH.POINT : RegField := ⟨0xc0000, 0, 1, 0, 3, 0, 1, .rw, 0, (some 0)⟩
def Reg.INJ_ARITH.PLOT : RegField := ⟨0xc0000, 0, 1, 3, 8, 0, 1, .rw, 0, (some 0)⟩
def Reg.INJ_ARITH.TINE : RegField := ⟨0xc0000, 0, 1, 11, 2, 0, 1, .rw, 0, (some 0)⟩
def Reg.INJ_ARITH.COLUMN : RegField := ⟨0xc0000, 0, 1, 13, 5, 0, 1, .rw, 0, (some 0)⟩
def Reg.INJ_ARITH.BIT : RegField := ⟨0xc0000, 0, 1, 18, 6, 0, 1, .rw, 0, (some 0)⟩
def Reg.INJ_ARITH.LANE : RegField := ⟨0xc0000, 0, 1, 24, 1, 0, 1, .rw, 0, (some 0)⟩
def Reg.INJ_ARITH.ARM : RegField := ⟨0xc0000, 0, 1, 25, 1, 0, 1, .w1s, 0, (some 0)⟩
def Reg.INJ_ARITH.DONE : RegField := ⟨0xc0000, 0, 1, 26, 1, 0, 1, .w1c, 0, (some 0)⟩
def Reg.INJ_ARITH.NOFIRE : RegField := ⟨0xc0000, 0, 1, 27, 1, 0, 1, .w1c, 0, (some 0)⟩

/-! FLD_DOORBELL_RING (R185) -/
def Reg.FLD_DOORBELL_RING.BITS : RegField := ⟨0x38, 0, 1, 0, 32, 0, 1, .wo, 0, (some 0)⟩
def Reg.FLD_DOORBELL_RING.TARGET : RegField := ⟨0x38, 0, 1, 32, 8, 0, 1, .wo, 0, (some 0)⟩
def Reg.FLD_DOORBELL_RING.SCOPE : RegField := ⟨0x38, 0, 1, 40, 2, 0, 1, .wo, 0, (some 0)⟩

/-! MBX_RIM_IN_PTR (R186) -/
def Reg.MBX_RIM_IN_PTR.PTR : RegField := ⟨0xb0000, 0x40, 2, 0, 64, 0, 1, .ro, 0, (some 0)⟩

/-! MBX_RIM_IN_META (R186) -/
def Reg.MBX_RIM_IN_META.TAG : RegField := ⟨0xb0008, 0x40, 2, 0, 16, 0, 1, .ro, 0, (some 0)⟩
def Reg.MBX_RIM_IN_META.EPOCH : RegField := ⟨0xb0008, 0x40, 2, 16, 16, 0, 1, .ro, 0, (some 0)⟩
def Reg.MBX_RIM_IN_META.FULL : RegField := ⟨0xb0008, 0x40, 2, 32, 1, 0, 1, .ro, 0, (some 0)⟩

/-! MBX_RIM_IN_ACK (R186) -/
def Reg.MBX_RIM_IN_ACK.CODE : RegField := ⟨0xb0010, 0x40, 2, 0, 16, 0, 1, .wo, 0, (some 0)⟩

/-! MBX_RIM_ROLE (R186) -/
def Reg.MBX_RIM_ROLE.EPOCH : RegField := ⟨0xb0018, 0x40, 2, 0, 16, 0, 1, .rw, 0, (some 0)⟩

/-! MBX_RIM_OUT_PTR (R186) -/
def Reg.MBX_RIM_OUT_PTR.PTR : RegField := ⟨0xb0020, 0x40, 2, 0, 64, 0, 1, .rw, 0, (some 0)⟩

/-! MBX_RIM_OUT_META (R186) -/
def Reg.MBX_RIM_OUT_META.TAG : RegField := ⟨0xb0028, 0x40, 2, 0, 16, 0, 1, .rw, 0, (some 0)⟩
def Reg.MBX_RIM_OUT_META.EPOCH : RegField := ⟨0xb0028, 0x40, 2, 16, 16, 0, 1, .rw, 0, (some 0)⟩
def Reg.MBX_RIM_OUT_META.SEND : RegField := ⟨0xb0028, 0x40, 2, 32, 1, 0, 1, .w1s, 0, (some 0)⟩
def Reg.MBX_RIM_OUT_META.PENDING : RegField := ⟨0xb0028, 0x40, 2, 33, 1, 0, 1, .ro, 0, (some 0)⟩
def Reg.MBX_RIM_OUT_META.REFUSED : RegField := ⟨0xb0028, 0x40, 2, 34, 1, 0, 1, .w1c, 0, (some 0)⟩

/-! MBX_RIM_OUT_ACK (R186) -/
def Reg.MBX_RIM_OUT_ACK.CODE : RegField := ⟨0xb0030, 0x40, 2, 0, 16, 0, 1, .ro, 0, (some 0)⟩
def Reg.MBX_RIM_OUT_ACK.DONE : RegField := ⟨0xb0030, 0x40, 2, 16, 1, 0, 1, .w1c, 0, (some 0)⟩

/-! MEM_ECC_STAT (R255) -/
def Reg.MEM_ECC_STAT.CORRECTED : RegField := ⟨0x10000, 0, 1, 0, 32, 0, 1, .ro, 0, none⟩
def Reg.MEM_ECC_STAT.UNCORRECTED : RegField := ⟨0x10000, 0, 1, 32, 16, 0, 1, .ro, 0, none⟩
def Reg.MEM_ECC_STAT.POISON_WRITES : RegField := ⟨0x10000, 0, 1, 48, 16, 0, 1, .ro, 0, none⟩
def Reg.MEM_ECC_STAT.LAST_ADDR : RegField := ⟨0x10000, 0, 1, 64, 38, 0, 1, .ro, 0, none⟩
def Reg.MEM_ECC_STAT.ECS_0 : RegField := ⟨0x10000, 0, 1, 102, 8, 0, 1, .ro, 0, none⟩
def Reg.MEM_ECC_STAT.ECS_1 : RegField := ⟨0x10000, 0, 1, 110, 8, 0, 1, .ro, 0, none⟩

/-! MEM_SCRUB_CTL (R256) -/
def Reg.MEM_SCRUB_CTL.ENABLE : RegField := ⟨0x10010, 0, 1, 0, 1, 0, 1, .rw, 1, none⟩
def Reg.MEM_SCRUB_CTL.INTERVAL : RegField := ⟨0x10010, 0, 1, 1, 16, 0, 1, .rw, 0x3e8, none⟩
def Reg.MEM_SCRUB_CTL.PASSES : RegField := ⟨0x10010, 0, 1, 32, 16, 0, 1, .ro, 0, none⟩

/-! MEM_REPAIR_STATUS (R257) -/
def Reg.MEM_REPAIR_STATUS.COUNT : RegField := ⟨0x10018, 0, 1, 0, 7, 0, 1, .ro, 0, none⟩
def Reg.MEM_REPAIR_STATUS.FULL : RegField := ⟨0x10018, 0, 1, 7, 1, 0, 1, .ro, 0, none⟩

/-! MEM_REPAIR_ENTRY (R257) -/
def Reg.MEM_REPAIR_ENTRY.VALID : RegField := ⟨0x10200, 8, 64, 0, 1, 0, 1, .rws, 0, none⟩
def Reg.MEM_REPAIR_ENTRY.STACK : RegField := ⟨0x10200, 8, 64, 1, 1, 0, 1, .rws, 0, none⟩
def Reg.MEM_REPAIR_ENTRY.CHANNEL : RegField := ⟨0x10200, 8, 64, 2, 5, 0, 1, .rws, 0, none⟩
def Reg.MEM_REPAIR_ENTRY.PCH : RegField := ⟨0x10200, 8, 64, 7, 1, 0, 1, .rws, 0, none⟩
def Reg.MEM_REPAIR_ENTRY.BANK : RegField := ⟨0x10200, 8, 64, 8, 6, 0, 1, .rws, 0, none⟩
def Reg.MEM_REPAIR_ENTRY.ROW : RegField := ⟨0x10200, 8, 64, 14, 18, 0, 1, .rws, 0, none⟩
def Reg.MEM_REPAIR_ENTRY.REASON : RegField := ⟨0x10200, 8, 64, 32, 2, 0, 1, .rws, 0, none⟩
def Reg.MEM_REPAIR_ENTRY.RESULT : RegField := ⟨0x10200, 8, 64, 34, 2, 0, 1, .rws, 0, none⟩

/-! MEM_MIR_REGION (R258) -/
def Reg.MEM_MIR_REGION.ENABLE : RegField := ⟨0x10080, 8, 16, 0, 1, 0, 1, .rw, 0, (some 0)⟩
def Reg.MEM_MIR_REGION.BASE : RegField := ⟨0x10080, 8, 16, 16, 22, 0, 1, .rw, 0, (some 0)⟩
def Reg.MEM_MIR_REGION.SIZE : RegField := ⟨0x10080, 8, 16, 38, 20, 0, 1, .rw, 0, (some 0)⟩

/-! MEM_MIR_STATUS (R259) -/
def Reg.MEM_MIR_STATUS.CUR_COUNT : RegField := ⟨0x10020, 0, 1, 0, 20, 0, 1, .ro, 0, (some 0)⟩
def Reg.MEM_MIR_STATUS.RES_COUNT : RegField := ⟨0x10020, 0, 1, 20, 20, 0, 1, .ro, 0, (some 0)⟩
def Reg.MEM_MIR_STATUS.RES_EMPTY : RegField := ⟨0x10020, 0, 1, 40, 1, 0, 1, .ro, 1, (some 1)⟩
def Reg.MEM_MIR_STATUS.LATE : RegField := ⟨0x10020, 0, 1, 41, 1, 0, 1, .w1c, 0, (some 0)⟩
def Reg.MEM_MIR_STATUS.HOLD_CYCLES : RegField := ⟨0x10020, 0, 1, 64, 32, 0, 1, .ro, 0, (some 0)⟩

/-! FLD_FALLOW_MAP (R260) -/
def Reg.FLD_FALLOW_MAP.MAP : RegField := ⟨0x80, 0, 1, 0, 272, 0, 1, .ro, 0, (some 0)⟩ -- cold: Per remap; warm: Per remap

/-! FLD_FALLOW_RUN (R260) -/
def Reg.FLD_FALLOW_RUN.RUN : RegField := ⟨0xc0, 0, 1, 0, 272, 0, 1, .w1s, 0, none⟩

/-! FLD_MESH_STAT (R261) -/
def Reg.FLD_MESH_STAT.STALL : RegField := ⟨0x40, 0, 1, 0, 32, 0, 1, .ro, 0, (some 0)⟩
def Reg.FLD_MESH_STAT.MCAST_SKIPPED : RegField := ⟨0x40, 0, 1, 32, 16, 0, 1, .ro, 0, (some 0)⟩

/-! HDL_ENGINE_STATUS (R301) -/
def Reg.HDL_ENGINE_STATUS.SRC : RegField := ⟨0x20000, 0, 1, 0, 1, 8, 4, .ro, 0, none⟩
def Reg.HDL_ENGINE_STATUS.SWITCHING : RegField := ⟨0x20000, 0, 1, 1, 1, 8, 4, .ro, 0, (some 0)⟩
def Reg.HDL_ENGINE_STATUS.INLET_A_OK : RegField := ⟨0x20000, 0, 1, 2, 1, 8, 4, .ro, 0, (some 0)⟩
def Reg.HDL_ENGINE_STATUS.INLET_B_OK : RegField := ⟨0x20000, 0, 1, 3, 1, 8, 4, .ro, 0, (some 0)⟩
def Reg.HDL_ENGINE_STATUS.DARK : RegField := ⟨0x20000, 0, 1, 4, 1, 8, 4, .ro, 1, (some 1)⟩

/-! HDL_ENGINE_CTL (R302) -/
def Reg.HDL_ENGINE_CTL.TARGET : RegField := ⟨0x20008, 0, 1, 0, 1, 8, 4, .rw, 0, none⟩
def Reg.HDL_ENGINE_CTL.REQ : RegField := ⟨0x20008, 0, 1, 1, 1, 8, 4, .w1s, 0, (some 0)⟩
def Reg.HDL_ENGINE_CTL.NOW : RegField := ⟨0x20008, 0, 1, 2, 1, 8, 4, .w1s, 0, (some 0)⟩

/-! HDL_PORT_CTL (R303) -/
def Reg.HDL_PORT_CTL.TX_MODE_REQ : RegField := ⟨0x20100, 8, 16, 0, 2, 0, 1, .rw, 0, none⟩
def Reg.HDL_PORT_CTL.CAL_EN : RegField := ⟨0x20100, 8, 16, 2, 1, 0, 1, .rw, 1, none⟩

/-! HDL_PORT_STATUS (R304) -/
def Reg.HDL_PORT_STATUS.TX_MODE : RegField := ⟨0x20200, 8, 16, 0, 2, 0, 1, .ro, 0, (some 0)⟩
def Reg.HDL_PORT_STATUS.RX_MODE : RegField := ⟨0x20200, 8, 16, 2, 2, 0, 1, .ro, 0, (some 0)⟩
def Reg.HDL_PORT_STATUS.TX_FALLOW : RegField := ⟨0x20200, 8, 16, 4, 4, 0, 1, .ro, 0xf, none⟩
def Reg.HDL_PORT_STATUS.RX_FALLOW : RegField := ⟨0x20200, 8, 16, 8, 4, 0, 1, .ro, 0xf, none⟩
def Reg.HDL_PORT_STATUS.TX_LANES : RegField := ⟨0x20200, 8, 16, 12, 4, 0, 1, .ro, 0, (some 0)⟩
def Reg.HDL_PORT_STATUS.RX_LANES : RegField := ⟨0x20200, 8, 16, 16, 4, 0, 1, .ro, 0, (some 0)⟩
def Reg.HDL_PORT_STATUS.TX_CAL : RegField := ⟨0x20200, 8, 16, 20, 1, 0, 1, .ro, 0, (some 0)⟩
def Reg.HDL_PORT_STATUS.APR : RegField := ⟨0x20200, 8, 16, 21, 1, 0, 1, .ro, 0, (some 0)⟩
def Reg.HDL_PORT_STATUS.LIGHT_PAUSE : RegField := ⟨0x20200, 8, 16, 22, 1, 0, 1, .ro, 0, (some 0)⟩
def Reg.HDL_PORT_STATUS.TX_FAILED : RegField := ⟨0x20200, 8, 16, 32, 16, 0, 1, .ro, 0, none⟩
def Reg.HDL_PORT_STATUS.RX_FAILED : RegField := ⟨0x20200, 8, 16, 48, 16, 0, 1, .ro, 0, none⟩

/-! HDL_PORT_MAP (R305) -/
def Reg.HDL_PORT_MAP.TX_SLOT : RegField := ⟨0x20400, 0x10, 16, 0, 4, 4, 15, .ro, 0, none⟩ -- cold: s
def Reg.HDL_PORT_MAP.RX_SLOT : RegField := ⟨0x20400, 0x10, 16, 64, 4, 4, 15, .ro, 0, none⟩ -- cold: s

/-! HDL_LANE_POWER (R306) -/
def Reg.HDL_LANE_POWER.RX_PWR : RegField := ⟨0x20800, 0x20, 16, 0, 8, 8, 16, .ro, 0x80, (some 0x80)⟩
def Reg.HDL_LANE_POWER.FAR_PWR : RegField := ⟨0x20800, 0x20, 16, 128, 8, 8, 16, .ro, 0x80, (some 0x80)⟩

/-! HDL_CAL_CTL (R307) -/
def Reg.HDL_CAL_CTL.ENABLE : RegField := ⟨0x20010, 0, 1, 0, 1, 0, 1, .rw, 1, none⟩
def Reg.HDL_CAL_CTL.PERIOD : RegField := ⟨0x20010, 0, 1, 1, 16, 0, 1, .rw, 0x3e8, none⟩

/-! HDL_CAL_STAT (R308) -/
def Reg.HDL_CAL_STAT.SLOTS : RegField := ⟨0x20018, 0, 1, 0, 32, 0, 1, .ro, 0, none⟩
def Reg.HDL_CAL_STAT.DEGRADED : RegField := ⟨0x20018, 0, 1, 32, 16, 0, 1, .ro, 0, none⟩
def Reg.HDL_CAL_STAT.ABORTED : RegField := ⟨0x20018, 0, 1, 48, 16, 0, 1, .ro, 0, none⟩

/-! RTE_LINK_CTL (R349) -/
def Reg.RTE_LINK_CTL.ENABLE : RegField := ⟨0x30100, 8, 16, 0, 1, 0, 1, .rw, 1, none⟩
def Reg.RTE_LINK_CTL.RETRY : RegField := ⟨0x30100, 8, 16, 1, 1, 0, 1, .w1s, 0, (some 0)⟩
def Reg.RTE_LINK_CTL.QUAL_SKIP : RegField := ⟨0x30100, 8, 16, 2, 1, 0, 1, .rw, 0, none⟩
def Reg.RTE_LINK_CTL.REPLAY_TIMEOUT : RegField := ⟨0x30100, 8, 16, 16, 16, 0, 1, .rw, 0x1f40, none⟩

/-! RTE_LINK_STATUS (R350) -/
def Reg.RTE_LINK_STATUS.STATE : RegField := ⟨0x30200, 8, 16, 0, 4, 0, 1, .ro, 0, (some 0)⟩
def Reg.RTE_LINK_STATUS.FAR_READY : RegField := ⟨0x30200, 8, 16, 4, 1, 0, 1, .ro, 0, (some 0)⟩
def Reg.RTE_LINK_STATUS.PRESERVED : RegField := ⟨0x30200, 8, 16, 5, 1, 0, 1, .ro, 0, (some 0)⟩
def Reg.RTE_LINK_STATUS.RESULT : RegField := ⟨0x30200, 8, 16, 16, 16, 0, 1, .ro, 0, (some 0)⟩
def Reg.RTE_LINK_STATUS.TX_SEQ : RegField := ⟨0x30200, 8, 16, 32, 14, 0, 1, .ro, 0, (some 0)⟩
def Reg.RTE_LINK_STATUS.RX_ACK : RegField := ⟨0x30200, 8, 16, 46, 14, 0, 1, .ro, 0x3fff, (some 0x3fff)⟩

/-! RTE_LINK_CNT (R351) -/
def Reg.RTE_LINK_CNT.TX_FLITS : RegField := ⟨0x30400, 0x20, 16, 0, 48, 0, 1, .ro, 0, (some 0)⟩
def Reg.RTE_LINK_CNT.RX_FLITS : RegField := ⟨0x30400, 0x20, 16, 48, 48, 0, 1, .ro, 0, (some 0)⟩
def Reg.RTE_LINK_CNT.REPLAYED : RegField := ⟨0x30400, 0x20, 16, 96, 32, 0, 1, .ro, 0, (some 0)⟩
def Reg.RTE_LINK_CNT.CRC_ERR : RegField := ⟨0x30400, 0x20, 16, 128, 32, 0, 1, .ro, 0, (some 0)⟩
def Reg.RTE_LINK_CNT.NAKS : RegField := ⟨0x30400, 0x20, 16, 160, 16, 0, 1, .ro, 0, (some 0)⟩
def Reg.RTE_LINK_CNT.PROTO_ERR : RegField := ⟨0x30400, 0x20, 16, 176, 16, 0, 1, .ro, 0, (some 0)⟩
def Reg.RTE_LINK_CNT.RETRAINS : RegField := ⟨0x30400, 0x20, 16, 192, 16, 0, 1, .ro, 0, (some 0)⟩
def Reg.RTE_LINK_CNT.LOST : RegField := ⟨0x30400, 0x20, 16, 208, 32, 0, 1, .ro, 0, (some 0)⟩

/-! RTE_LANE_FEC (R352) -/
def Reg.RTE_LANE_FEC.CORR : RegField := ⟨0x30800, 0x40, 16, 0, 24, 32, 16, .ro, 0, (some 0)⟩
def Reg.RTE_LANE_FEC.UNCORR : RegField := ⟨0x30800, 0x40, 16, 24, 8, 32, 16, .ro, 0, (some 0)⟩

/-! RTE_QUAL_RESULT (R353) -/
def Reg.RTE_QUAL_RESULT.RX_PASS : RegField := ⟨0x30c00, 8, 16, 0, 16, 0, 1, .ro, 0, none⟩
def Reg.RTE_QUAL_RESULT.TX_PASS : RegField := ⟨0x30c00, 8, 16, 16, 16, 0, 1, .ro, 0, none⟩
def Reg.RTE_QUAL_RESULT.WORST : RegField := ⟨0x30c00, 8, 16, 32, 4, 0, 1, .ro, 0, none⟩
def Reg.RTE_QUAL_RESULT.WORST_E : RegField := ⟨0x30c00, 8, 16, 36, 28, 0, 1, .ro, 0, none⟩

/-! RTE_LINK_CREDIT (R354) -/
def Reg.RTE_LINK_CREDIT.RES : RegField := ⟨0x30d00, 0x10, 16, 0, 9, 9, 8, .ro, 0, (some 0)⟩
def Reg.RTE_LINK_CREDIT.SHARED : RegField := ⟨0x30d00, 0x10, 16, 72, 13, 0, 1, .ro, 0, (some 0)⟩

/-! RTE_VC_WEIGHT (R355) -/
def Reg.RTE_VC_WEIGHT.VC0_DIV : RegField := ⟨0x30000, 0, 1, 0, 8, 0, 1, .rw, 0x32, none⟩
def Reg.RTE_VC_WEIGHT.W1 : RegField := ⟨0x30000, 0, 1, 8, 8, 0, 1, .rw, 0x60, none⟩
def Reg.RTE_VC_WEIGHT.W2 : RegField := ⟨0x30000, 0, 1, 16, 8, 0, 1, .rw, 0x30, none⟩
def Reg.RTE_VC_WEIGHT.W3 : RegField := ⟨0x30000, 0, 1, 24, 8, 0, 1, .rw, 0x30, none⟩
def Reg.RTE_VC_WEIGHT.W4 : RegField := ⟨0x30000, 0, 1, 32, 8, 0, 1, .rw, 0x18, none⟩
def Reg.RTE_VC_WEIGHT.W5 : RegField := ⟨0x30000, 0, 1, 40, 8, 0, 1, .rw, 0x18, none⟩
def Reg.RTE_VC_WEIGHT.W6 : RegField := ⟨0x30000, 0, 1, 48, 8, 0, 1, .rw, 0x10, none⟩
def Reg.RTE_VC_WEIGHT.W7 : RegField := ⟨0x30000, 0, 1, 56, 8, 0, 1, .rw, 0, (some 0)⟩

/-! RTE_VC_CTL (R356) -/
def Reg.RTE_VC_CTL.VC5_FLOOR_DIV : RegField := ⟨0x30008, 0, 1, 0, 8, 0, 1, .rw, 0x19, none⟩
def Reg.RTE_VC_CTL.FLOOR_EN : RegField := ⟨0x30008, 0, 1, 8, 1, 0, 1, .rw, 1, none⟩
def Reg.RTE_VC_CTL.COMMIT_DUE : RegField := ⟨0x30008, 0, 1, 9, 1, 0, 1, .ro, 0, (some 0)⟩

/-! RTE_PLAN_HDR (R387) -/
def Reg.RTE_PLAN_HDR.DIGEST : RegField := ⟨0x40000, 0, 1, 0, 64, 0, 1, .sl, 0, none⟩
def Reg.RTE_PLAN_HDR.SIZE_U : RegField := ⟨0x40000, 0, 1, 64, 3, 0, 1, .sl, 0, none⟩
def Reg.RTE_PLAN_HDR.SIZE_V : RegField := ⟨0x40000, 0, 1, 67, 5, 0, 1, .sl, 0, none⟩
def Reg.RTE_PLAN_HDR.SIZE_W : RegField := ⟨0x40000, 0, 1, 72, 6, 0, 1, .sl, 0, none⟩

/-! RTE_PLAN_PORT (R388) -/
def Reg.RTE_PLAN_PORT.AXIS : RegField := ⟨0x40100, 8, 16, 0, 2, 0, 1, .sl, 0, none⟩
def Reg.RTE_PLAN_PORT.COORD : RegField := ⟨0x40100, 8, 16, 2, 5, 0, 1, .sl, 0, none⟩
def Reg.RTE_PLAN_PORT.FAR_PORT : RegField := ⟨0x40100, 8, 16, 7, 6, 0, 1, .sl, 0, none⟩
def Reg.RTE_PLAN_PORT.RESERVE : RegField := ⟨0x40100, 8, 16, 13, 1, 0, 1, .sl, 0, none⟩

/-! RTE_DISC_STATUS (R389) -/
def Reg.RTE_DISC_STATUS.OUTCOME : RegField := ⟨0x40200, 0x10, 16, 0, 3, 0, 1, .ro, 0, (some 0)⟩
def Reg.RTE_DISC_STATUS.APPROVED : RegField := ⟨0x40200, 0x10, 16, 3, 1, 0, 1, .rws, 0, none⟩
def Reg.RTE_DISC_STATUS.REFUSED : RegField := ⟨0x40200, 0x10, 16, 4, 1, 0, 1, .w1c, 0, (some 0)⟩
def Reg.RTE_DISC_STATUS.EFF_AXIS : RegField := ⟨0x40200, 0x10, 16, 5, 2, 0, 1, .ro, 0, none⟩
def Reg.RTE_DISC_STATUS.EFF_COORD : RegField := ⟨0x40200, 0x10, 16, 7, 5, 0, 1, .ro, 0, none⟩
def Reg.RTE_DISC_STATUS.EFF_FAR_PORT : RegField := ⟨0x40200, 0x10, 16, 12, 6, 0, 1, .ro, 0, none⟩
def Reg.RTE_DISC_STATUS.SEEN_NODE : RegField := ⟨0x40200, 0x10, 16, 32, 16, 0, 1, .ro, 0, (some 0)⟩
def Reg.RTE_DISC_STATUS.SEEN_PORT : RegField := ⟨0x40200, 0x10, 16, 48, 6, 0, 1, .ro, 0, (some 0)⟩
def Reg.RTE_DISC_STATUS.SEEN_SERIAL : RegField := ⟨0x40200, 0x10, 16, 64, 48, 0, 1, .ro, 0, (some 0)⟩

/-! RTE_TBL_W (R391) -/
def Reg.RTE_TBL_W.PORT0 : RegField := ⟨0x40400, 8, 32, 0, 6, 0, 1, .rw, 0, none⟩
def Reg.RTE_TBL_W.PORT1 : RegField := ⟨0x40400, 8, 32, 6, 6, 0, 1, .rw, 0, none⟩
def Reg.RTE_TBL_W.PORT2 : RegField := ⟨0x40400, 8, 32, 12, 6, 0, 1, .rw, 0, none⟩
def Reg.RTE_TBL_W.PORT3 : RegField := ⟨0x40400, 8, 32, 18, 6, 0, 1, .rw, 0, none⟩
def Reg.RTE_TBL_W.COUNT : RegField := ⟨0x40400, 8, 32, 24, 3, 0, 1, .rw, 0, none⟩
def Reg.RTE_TBL_W.LEAVES : RegField := ⟨0x40400, 8, 32, 27, 1, 0, 1, .rw, 0, none⟩
def Reg.RTE_TBL_W.DETOUR_EN : RegField := ⟨0x40400, 8, 32, 28, 1, 0, 1, .rw, 0, none⟩
def Reg.RTE_TBL_W.DETOUR : RegField := ⟨0x40400, 8, 32, 29, 5, 0, 1, .rw, 0, none⟩

/-! RTE_TBL_V (R391) -/
def Reg.RTE_TBL_V.PORT0 : RegField := ⟨0x40500, 8, 16, 0, 6, 0, 1, .rw, 0, none⟩
def Reg.RTE_TBL_V.PORT1 : RegField := ⟨0x40500, 8, 16, 6, 6, 0, 1, .rw, 0, none⟩
def Reg.RTE_TBL_V.PORT2 : RegField := ⟨0x40500, 8, 16, 12, 6, 0, 1, .rw, 0, none⟩
def Reg.RTE_TBL_V.PORT3 : RegField := ⟨0x40500, 8, 16, 18, 6, 0, 1, .rw, 0, none⟩
def Reg.RTE_TBL_V.COUNT : RegField := ⟨0x40500, 8, 16, 24, 3, 0, 1, .rw, 0, none⟩
def Reg.RTE_TBL_V.LEAVES : RegField := ⟨0x40500, 8, 16, 27, 1, 0, 1, .rw, 0, none⟩
def Reg.RTE_TBL_V.DETOUR_EN : RegField := ⟨0x40500, 8, 16, 28, 1, 0, 1, .rw, 0, none⟩
def Reg.RTE_TBL_V.DETOUR : RegField := ⟨0x40500, 8, 16, 29, 5, 0, 1, .rw, 0, none⟩

/-! RTE_TBL_U (R391) -/
def Reg.RTE_TBL_U.PORT0 : RegField := ⟨0x40580, 8, 4, 0, 6, 0, 1, .rw, 0, none⟩
def Reg.RTE_TBL_U.PORT1 : RegField := ⟨0x40580, 8, 4, 6, 6, 0, 1, .rw, 0, none⟩
def Reg.RTE_TBL_U.PORT2 : RegField := ⟨0x40580, 8, 4, 12, 6, 0, 1, .rw, 0, none⟩
def Reg.RTE_TBL_U.PORT3 : RegField := ⟨0x40580, 8, 4, 18, 6, 0, 1, .rw, 0, none⟩
def Reg.RTE_TBL_U.COUNT : RegField := ⟨0x40580, 8, 4, 24, 3, 0, 1, .rw, 0, none⟩
def Reg.RTE_TBL_U.LEAVES : RegField := ⟨0x40580, 8, 4, 27, 1, 0, 1, .rw, 0, none⟩
def Reg.RTE_TBL_U.DETOUR_EN : RegField := ⟨0x40580, 8, 4, 28, 1, 0, 1, .rw, 0, none⟩
def Reg.RTE_TBL_U.DETOUR : RegField := ⟨0x40580, 8, 4, 29, 5, 0, 1, .rw, 0, none⟩

/-! RTE_TBL_F (R392) -/
def Reg.RTE_TBL_F.NEXT : RegField := ⟨0x405a0, 8, 4, 0, 2, 0, 1, .rw, 0, none⟩
def Reg.RTE_TBL_F.ALT : RegField := ⟨0x405a0, 8, 4, 2, 2, 0, 1, .rw, 0, none⟩
def Reg.RTE_TBL_F.VALID : RegField := ⟨0x405a0, 8, 4, 4, 1, 0, 1, .rw, 0, none⟩
def Reg.RTE_TBL_F.LEAVES : RegField := ⟨0x405a0, 8, 4, 5, 1, 0, 1, .rw, 0, none⟩
def Reg.RTE_TBL_F.ESC_EN : RegField := ⟨0x405a0, 8, 4, 6, 1, 0, 1, .rw, 0, none⟩
def Reg.RTE_TBL_F.ESC_U : RegField := ⟨0x405a0, 8, 4, 7, 2, 0, 1, .rw, 0, none⟩

/-! RTE_TABLE_CTL (R393) -/
def Reg.RTE_TABLE_CTL.SEAL : RegField := ⟨0x40010, 0, 1, 0, 1, 0, 1, .w1s, 0, (some 0)⟩
def Reg.RTE_TABLE_CTL.AT_MARK : RegField := ⟨0x40010, 0, 1, 1, 1, 0, 1, .rw, 0, none⟩
def Reg.RTE_TABLE_CTL.VIEW : RegField := ⟨0x40010, 0, 1, 2, 1, 0, 1, .rw, 0, (some 0)⟩

/-! RTE_TABLE_STATUS (R394) -/
def Reg.RTE_TABLE_STATUS.RESULT : RegField := ⟨0x40018, 0, 1, 0, 16, 0, 1, .ro, 0, (some 0)⟩
def Reg.RTE_TABLE_STATUS.TABLE : RegField := ⟨0x40018, 0, 1, 16, 3, 0, 1, .ro, 0, (some 0)⟩
def Reg.RTE_TABLE_STATUS.INDEX : RegField := ⟨0x40018, 0, 1, 19, 5, 0, 1, .ro, 0, (some 0)⟩
def Reg.RTE_TABLE_STATUS.SEALED : RegField := ⟨0x40018, 0, 1, 24, 1, 0, 1, .ro, 0, (some 0)⟩
def Reg.RTE_TABLE_STATUS.PENDING : RegField := ⟨0x40018, 0, 1, 25, 1, 0, 1, .ro, 0, (some 0)⟩
def Reg.RTE_TABLE_STATUS.GEN : RegField := ⟨0x40018, 0, 1, 32, 32, 0, 1, .ro, 0, (some 0)⟩

/-! RTE_TRANSIT_CTL (R396) -/
def Reg.RTE_TRANSIT_CTL.ANY : RegField := ⟨0x40028, 0, 1, 0, 1, 0, 1, .rw, 1, none⟩
def Reg.RTE_TRANSIT_CTL.PORTS : RegField := ⟨0x40028, 0, 1, 1, 18, 0, 1, .rw, 0x3ffff, none⟩

/-! RTE_TRANSIT_IDS (R396) -/
def Reg.RTE_TRANSIT_IDS.ID : RegField := ⟨0x40030, 0, 1, 0, 12, 13, 8, .rw, 0, none⟩
def Reg.RTE_TRANSIT_IDS.VALID : RegField := ⟨0x40030, 0, 1, 12, 1, 13, 8, .rw, 0, none⟩

/-! RTE_DROP_CNT (R397) -/
def Reg.RTE_DROP_CNT.NOROUTE : RegField := ⟨0x40040, 0, 1, 0, 16, 0, 1, .ro, 0, (some 0)⟩
def Reg.RTE_DROP_CNT.TRANSIT : RegField := ⟨0x40040, 0, 1, 16, 16, 0, 1, .ro, 0, (some 0)⟩
def Reg.RTE_DROP_CNT.FOREIGN : RegField := ⟨0x40040, 0, 1, 32, 16, 0, 1, .ro, 0, (some 0)⟩
def Reg.RTE_DROP_CNT.MCAST_DROP : RegField := ⟨0x40040, 0, 1, 48, 16, 0, 1, .ro, 0, (some 0)⟩

/-! RTE_CONG_CTL (R398) -/
def Reg.RTE_CONG_CTL.ENABLE : RegField := ⟨0x40048, 0, 1, 0, 1, 0, 1, .rw, 1, none⟩
def Reg.RTE_CONG_CTL.WINDOW_LOG : RegField := ⟨0x40048, 0, 1, 1, 5, 0, 1, .rw, 0x14, none⟩

/-! GWY_CLASS_CTL (R434) -/
def Reg.GWY_CLASS_CTL.NEAR_SCOPE : RegField := ⟨0x50000, 0, 1, 0, 2, 0, 1, .sl, 2, none⟩

/-! GWY_RETX_CTL (R435) -/
def Reg.GWY_RETX_CTL.TIMEOUT : RegField := ⟨0x50008, 0, 1, 0, 16, 0, 1, .rw, 0x4e20, none⟩
def Reg.GWY_RETX_CTL.LIMIT : RegField := ⟨0x50008, 0, 1, 16, 2, 0, 1, .rw, 3, none⟩

/-! GWY_SOU_CTL (R436) -/
def Reg.GWY_SOU_CTL.WINDOW : RegField := ⟨0x50010, 0, 1, 0, 14, 0, 1, .rw, 0x800, none⟩
def Reg.GWY_SOU_CTL.GRANT_MAX : RegField := ⟨0x50010, 0, 1, 14, 14, 0, 1, .rw, 0x800, none⟩

/-! GWY_SOU_STATUS (R437) -/
def Reg.GWY_SOU_STATUS.FREE : RegField := ⟨0x50018, 0, 1, 0, 15, 0, 1, .ro, 0x4000, (some 0x4000)⟩
def Reg.GWY_SOU_STATUS.FLOWS : RegField := ⟨0x50018, 0, 1, 15, 14, 0, 1, .ro, 0, (some 0)⟩
def Reg.GWY_SOU_STATUS.TOKEN_HELD : RegField := ⟨0x50018, 0, 1, 29, 1, 0, 1, .ro, 0, (some 0)⟩
def Reg.GWY_SOU_STATUS.TOKEN_SRC : RegField := ⟨0x50018, 0, 1, 30, 13, 0, 1, .ro, 0, (some 0)⟩
def Reg.GWY_SOU_STATUS.QUEUED : RegField := ⟨0x50018, 0, 1, 43, 11, 0, 1, .ro, 0, (some 0)⟩

/-! GWY_RED_CTL (R438) -/
def Reg.GWY_RED_CTL.RMODE : RegField := ⟨0x50020, 0, 1, 0, 2, 0, 1, .rw, 0, none⟩
def Reg.GWY_RED_CTL.OVF : RegField := ⟨0x50020, 0, 1, 2, 1, 0, 1, .rw, 0, none⟩
def Reg.GWY_RED_CTL.STREAM : RegField := ⟨0x50020, 0, 1, 32, 32, 0, 1, .rw, 0, none⟩

/-! GWY_RED_RELEASE (R439) -/
def Reg.GWY_RED_RELEASE.ALLOT : RegField := ⟨0x50028, 0, 1, 0, 12, 0, 1, .wo, 0, (some 0)⟩

/-! GWY_RED_STATUS (R440) -/
def Reg.GWY_RED_STATUS.ENTRIES : RegField := ⟨0x50030, 0, 1, 0, 13, 0, 1, .ro, 0, (some 0)⟩
def Reg.GWY_RED_STATUS.FULL : RegField := ⟨0x50030, 0, 1, 13, 1, 0, 1, .ro, 0, (some 0)⟩
def Reg.GWY_RED_STATUS.DEFERS : RegField := ⟨0x50030, 0, 1, 32, 32, 0, 1, .ro, 0, (some 0)⟩

/-! GWY_ALLOT_HALT (R441) -/
def Reg.GWY_ALLOT_HALT.ID : RegField := ⟨0x50038, 0, 1, 0, 12, 0, 1, .wo, 0, (some 0)⟩
def Reg.GWY_ALLOT_HALT.HALTED : RegField := ⟨0x50038, 0, 1, 12, 1, 0, 1, .ro, 0, (some 0)⟩

/-! GWY_FATAL_LOG (R442) -/
def Reg.GWY_FATAL_LOG.DST : RegField := ⟨0x50040, 0, 1, 0, 16, 0, 1, .ro, 0, (some 0)⟩
def Reg.GWY_FATAL_LOG.ALLOT : RegField := ⟨0x50040, 0, 1, 16, 12, 0, 1, .ro, 0, (some 0)⟩
def Reg.GWY_FATAL_LOG.VALID : RegField := ⟨0x50040, 0, 1, 28, 1, 0, 1, .w1c, 0, (some 0)⟩
def Reg.GWY_FATAL_LOG.OP : RegField := ⟨0x50040, 0, 1, 29, 3, 0, 1, .ro, 0, (some 0)⟩
def Reg.GWY_FATAL_LOG.ADDR : RegField := ⟨0x50040, 0, 1, 32, 48, 0, 1, .ro, 0, (some 0)⟩
def Reg.GWY_FATAL_LOG.PLOT : RegField := ⟨0x50040, 0, 1, 80, 8, 0, 1, .ro, 0, (some 0)⟩

/-! GWY_STAT (R443) -/
def Reg.GWY_STAT.RETX : RegField := ⟨0x50060, 0, 1, 0, 32, 0, 1, .ro, 0, (some 0)⟩
def Reg.GWY_STAT.UNREACHABLE : RegField := ⟨0x50060, 0, 1, 32, 16, 0, 1, .ro, 0, (some 0)⟩
def Reg.GWY_STAT.POISONED : RegField := ⟨0x50060, 0, 1, 48, 16, 0, 1, .ro, 0, (some 0)⟩
def Reg.GWY_STAT.DEFERS_SENT : RegField := ⟨0x50060, 0, 1, 64, 32, 0, 1, .ro, 0, (some 0)⟩
def Reg.GWY_STAT.DEFERS_RECV : RegField := ⟨0x50060, 0, 1, 96, 32, 0, 1, .ro, 0, (some 0)⟩
def Reg.GWY_STAT.ABSORBED : RegField := ⟨0x50060, 0, 1, 128, 32, 0, 1, .ro, 0, (some 0)⟩
def Reg.GWY_STAT.COMB_APPLIED : RegField := ⟨0x50060, 0, 1, 160, 32, 0, 1, .ro, 0, (some 0)⟩
def Reg.GWY_STAT.COMB_DISCARD : RegField := ⟨0x50060, 0, 1, 192, 16, 0, 1, .ro, 0, (some 0)⟩
def Reg.GWY_STAT.FLUSHES : RegField := ⟨0x50060, 0, 1, 208, 32, 0, 1, .ro, 0, (some 0)⟩

/-! RTE_COMB_STAT (R444) -/
def Reg.RTE_COMB_STAT.MERGED : RegField := ⟨0x40050, 0, 1, 0, 32, 0, 1, .ro, 0, (some 0)⟩
def Reg.RTE_COMB_STAT.PEAK : RegField := ⟨0x40050, 0, 1, 32, 9, 0, 1, .ro, 0, (some 0)⟩
def Reg.RTE_COMB_STAT.AGED : RegField := ⟨0x40050, 0, 1, 48, 16, 0, 1, .ro, 0, (some 0)⟩

/-! SHF_GROUP_CMD (R470) -/
def Reg.SHF_GROUP_CMD.OP : RegField := ⟨0x60000, 0, 1, 0, 2, 0, 1, .wo, 0, (some 0)⟩
def Reg.SHF_GROUP_CMD.SLOT : RegField := ⟨0x60000, 0, 1, 2, 6, 0, 1, .wo, 0, (some 0)⟩
def Reg.SHF_GROUP_CMD.ADDR : RegField := ⟨0x60000, 0, 1, 8, 47, 0, 1, .wo, 0, (some 0)⟩

/-! SHF_GROUP_STATUS (R471) -/
def Reg.SHF_GROUP_STATUS.STATE : RegField := ⟨0x60800, 0x20, 64, 0, 4, 0, 1, .ro, 0, (some 0)⟩
def Reg.SHF_GROUP_STATUS.RESULT : RegField := ⟨0x60800, 0x20, 64, 16, 16, 0, 1, .ro, 0, (some 0)⟩
def Reg.SHF_GROUP_STATUS.GROUP_ID : RegField := ⟨0x60800, 0x20, 64, 32, 16, 0, 1, .ro, 0, (some 0)⟩
def Reg.SHF_GROUP_STATUS.EPOCH : RegField := ⟨0x60800, 0x20, 64, 48, 16, 0, 1, .ro, 0, (some 0)⟩
def Reg.SHF_GROUP_STATUS.NEXT_SEQ : RegField := ⟨0x60800, 0x20, 64, 64, 32, 0, 1, .ro, 0, (some 0)⟩
def Reg.SHF_GROUP_STATUS.DONE_SEQ : RegField := ⟨0x60800, 0x20, 64, 96, 32, 0, 1, .ro, 0xffffffff, (some 0xffffffff)⟩
def Reg.SHF_GROUP_STATUS.MEMBERS : RegField := ⟨0x60800, 0x20, 64, 128, 14, 0, 1, .ro, 0, (some 0)⟩
def Reg.SHF_GROUP_STATUS.HSET : RegField := ⟨0x60800, 0x20, 64, 142, 14, 0, 1, .ro, 0, (some 0)⟩
def Reg.SHF_GROUP_STATUS.SCRATCH_REQ : RegField := ⟨0x60800, 0x20, 64, 192, 64, 0, 1, .ro, 0, (some 0)⟩

/-! SHF_LATE_HIST (R473) -/
def Reg.SHF_LATE_HIST.BUCKET : RegField := ⟨0x60040, 0, 1, 0, 32, 32, 16, .ro, 0, (some 0)⟩

/-! SHF_STAT (R474) -/
def Reg.SHF_STAT.DONE : RegField := ⟨0x60020, 0, 1, 0, 32, 0, 1, .ro, 0, (some 0)⟩
def Reg.SHF_STAT.FAILED : RegField := ⟨0x60020, 0, 1, 32, 16, 0, 1, .ro, 0, (some 0)⟩
def Reg.SHF_STAT.FOLDED : RegField := ⟨0x60020, 0, 1, 48, 64, 0, 1, .ro, 0, (some 0)⟩
def Reg.SHF_STAT.SCRATCH_BYTES : RegField := ⟨0x60020, 0, 1, 112, 64, 0, 1, .ro, 0, (some 0)⟩
def Reg.SHF_STAT.RETX : RegField := ⟨0x60020, 0, 1, 176, 32, 0, 1, .ro, 0, (some 0)⟩
def Reg.SHF_STAT.STALE : RegField := ⟨0x60020, 0, 1, 208, 16, 0, 1, .ro, 0, (some 0)⟩
def Reg.SHF_STAT.PROTO_ERR : RegField := ⟨0x60020, 0, 1, 224, 16, 0, 1, .ro, 0, (some 0)⟩

/-! HLT_SCORE (R481) -/
def Reg.HLT_SCORE.SCORE : RegField := ⟨0x70000, 0, 1, 0, 10, 0, 1, .ro, 0x3e8, (some 0x3e8)⟩
def Reg.HLT_SCORE.EXPEL : RegField := ⟨0x70000, 0, 1, 10, 1, 0, 1, .w1c, 0, none⟩
def Reg.HLT_SCORE.HARD : RegField := ⟨0x70000, 0, 1, 11, 1, 0, 1, .ro, 0, none⟩
def Reg.HLT_SCORE.INJECTED : RegField := ⟨0x70000, 0, 1, 12, 1, 0, 1, .ro, 0, none⟩
def Reg.HLT_SCORE.RUN : RegField := ⟨0x70000, 0, 1, 13, 5, 0, 1, .ro, 0, (some 0)⟩
def Reg.HLT_SCORE.SELF_PEN : RegField := ⟨0x70000, 0, 1, 20, 10, 0, 1, .ro, 0, (some 0)⟩
def Reg.HLT_SCORE.WINDOW : RegField := ⟨0x70000, 0, 1, 32, 32, 0, 1, .ro, 0, (some 0)⟩

/-! HLT_PEN (R482) -/
def Reg.HLT_PEN.PEN : RegField := ⟨0x70010, 0, 1, 0, 10, 12, 8, .ro, 0, (some 0)⟩
def Reg.HLT_PEN.ATTR : RegField := ⟨0x70010, 0, 1, 10, 2, 12, 8, .ro, 0, (some 0)⟩

/-! HLT_REPORT_BASE (R488) -/
def Reg.HLT_REPORT_BASE.WRITE : RegField := ⟨0x70020, 0, 1, 0, 1, 0, 1, .rw, 0, (some 0)⟩
def Reg.HLT_REPORT_BASE.ADDR : RegField := ⟨0x70020, 0, 1, 7, 41, 0, 1, .rw, 0, (some 0)⟩

/-! MIR_SRC_CTL (R501) -/
def Reg.MIR_SRC_CTL.ENABLE : RegField := ⟨0x80000, 0, 1, 0, 1, 0, 1, .rw, 0, (some 0)⟩
def Reg.MIR_SRC_CTL.DUAL : RegField := ⟨0x80000, 0, 1, 1, 1, 0, 1, .rw, 0, (some 0)⟩
def Reg.MIR_SRC_CTL.PARTNER0 : RegField := ⟨0x80000, 0, 1, 16, 16, 0, 1, .rw, 0, (some 0)⟩
def Reg.MIR_SRC_CTL.PARTNER1 : RegField := ⟨0x80000, 0, 1, 32, 16, 0, 1, .rw, 0, (some 0)⟩

/-! MIR_SRC_STATUS (R503) -/
def Reg.MIR_SRC_STATUS.STATE : RegField := ⟨0x80020, 0, 1, 0, 3, 0, 1, .ro, 0, (some 0)⟩
def Reg.MIR_SRC_STATUS.RESULT : RegField := ⟨0x80020, 0, 1, 16, 16, 0, 1, .ro, 0, (some 0)⟩
def Reg.MIR_SRC_STATUS.EPOCH : RegField := ⟨0x80020, 0, 1, 32, 32, 0, 1, .ro, 0, (some 0)⟩
def Reg.MIR_SRC_STATUS.ACKED0 : RegField := ⟨0x80020, 0, 1, 64, 32, 0, 1, .ro, 0, (some 0)⟩
def Reg.MIR_SRC_STATUS.ACKED1 : RegField := ⟨0x80020, 0, 1, 96, 32, 0, 1, .ro, 0, (some 0)⟩
def Reg.MIR_SRC_STATUS.SKIPPED : RegField := ⟨0x80020, 0, 1, 128, 16, 0, 1, .ro, 0, (some 0)⟩
def Reg.MIR_SRC_STATUS.BREAKS : RegField := ⟨0x80020, 0, 1, 144, 16, 0, 1, .ro, 0, (some 0)⟩

/-! MIR_PART (R504) -/
def Reg.MIR_PART.ENABLE : RegField := ⟨0x80040, 0x20, 2, 0, 1, 0, 1, .rw, 0, (some 0)⟩
def Reg.MIR_PART.SOURCE : RegField := ⟨0x80040, 0x20, 2, 16, 16, 0, 1, .rw, 0, (some 0)⟩
def Reg.MIR_PART.COPY_BASE : RegField := ⟨0x80040, 0x20, 2, 64, 32, 0, 1, .rw, 0, (some 0)⟩
def Reg.MIR_PART.COPY_GRANULES : RegField := ⟨0x80040, 0x20, 2, 96, 20, 0, 1, .rw, 0, (some 0)⟩
def Reg.MIR_PART.BUF_BASE : RegField := ⟨0x80040, 0x20, 2, 128, 32, 0, 1, .rw, 0, (some 0)⟩
def Reg.MIR_PART.BUF_GRANULES : RegField := ⟨0x80040, 0x20, 2, 160, 20, 0, 1, .rw, 0, (some 0)⟩
def Reg.MIR_PART.JOURNAL_BASE : RegField := ⟨0x80040, 0x20, 2, 192, 32, 0, 1, .rw, 0, (some 0)⟩

/-! MIR_PART_STATUS (R505) -/
def Reg.MIR_PART_STATUS.STATE : RegField := ⟨0x80080, 0x20, 2, 0, 3, 0, 1, .ro, 0, (some 0)⟩
def Reg.MIR_PART_STATUS.VALID : RegField := ⟨0x80080, 0x20, 2, 3, 1, 0, 1, .ro, 0, (some 0)⟩
def Reg.MIR_PART_STATUS.APPLYING : RegField := ⟨0x80080, 0x20, 2, 4, 1, 0, 1, .ro, 0, (some 0)⟩
def Reg.MIR_PART_STATUS.RESULT : RegField := ⟨0x80080, 0x20, 2, 16, 16, 0, 1, .ro, 0, (some 0)⟩
def Reg.MIR_PART_STATUS.COMMITTED : RegField := ⟨0x80080, 0x20, 2, 32, 32, 0, 1, .ro, 0, (some 0)⟩
def Reg.MIR_PART_STATUS.BUF_USED : RegField := ⟨0x80080, 0x20, 2, 64, 20, 0, 1, .ro, 0, (some 0)⟩
def Reg.MIR_PART_STATUS.DIGEST : RegField := ⟨0x80080, 0x20, 2, 128, 64, 0, 1, .ro, 0, (some 0)⟩

/-! MIR_LOAD_CTL (R510) -/
def Reg.MIR_LOAD_CTL.START : RegField := ⟨0x800c0, 0, 1, 0, 1, 0, 1, .w1s, 0, (some 0)⟩
def Reg.MIR_LOAD_CTL.ABORT : RegField := ⟨0x800c0, 0, 1, 1, 1, 0, 1, .w1s, 0, (some 0)⟩
def Reg.MIR_LOAD_CTL.ORIG : RegField := ⟨0x800c0, 0, 1, 16, 16, 0, 1, .rw, 0, (some 0)⟩
def Reg.MIR_LOAD_CTL.SRC0 : RegField := ⟨0x800c0, 0, 1, 32, 16, 0, 1, .rw, 0, (some 0)⟩
def Reg.MIR_LOAD_CTL.SRC1 : RegField := ⟨0x800c0, 0, 1, 48, 16, 0, 1, .rw, 0xffff, (some 0xffff)⟩
def Reg.MIR_LOAD_CTL.EPOCH : RegField := ⟨0x800c0, 0, 1, 64, 32, 0, 1, .rw, 0, (some 0)⟩

/-! MIR_LOAD_STATUS (R511) -/
def Reg.MIR_LOAD_STATUS.STATE : RegField := ⟨0x800e0, 0, 1, 0, 3, 0, 1, .ro, 0, (some 0)⟩
def Reg.MIR_LOAD_STATUS.USING_SRC1 : RegField := ⟨0x800e0, 0, 1, 3, 1, 0, 1, .ro, 0, (some 0)⟩
def Reg.MIR_LOAD_STATUS.RESULT : RegField := ⟨0x800e0, 0, 1, 16, 16, 0, 1, .ro, 0, (some 0)⟩
def Reg.MIR_LOAD_STATUS.GRANULES : RegField := ⟨0x800e0, 0, 1, 32, 20, 0, 1, .ro, 0, (some 0)⟩
def Reg.MIR_LOAD_STATUS.DIGEST : RegField := ⟨0x800e0, 0, 1, 64, 64, 0, 1, .ro, 0, (some 0)⟩
def Reg.MIR_LOAD_STATUS.EPOCH : RegField := ⟨0x800e0, 0, 1, 128, 32, 0, 1, .ro, 0, (some 0)⟩

/-! TLY_STATUS (R539) -/
def Reg.TLY_STATUS.STATE : RegField := ⟨0x90008, 0, 1, 0, 3, 0, 1, .ro, 0, (some 0)⟩ -- warm: R522
def Reg.TLY_STATUS.HOLD : RegField := ⟨0x90008, 0, 1, 3, 1, 0, 1, .ro, 0, (some 0)⟩
def Reg.TLY_STATUS.PARENT_LINK : RegField := ⟨0x90008, 0, 1, 4, 5, 0, 1, .ro, 0x1f, (some 0x1f)⟩
def Reg.TLY_STATUS.DIST : RegField := ⟨0x90008, 0, 1, 9, 5, 0, 1, .ro, 0x1f, (some 0x1f)⟩
def Reg.TLY_STATUS.ROOT_RANK : RegField := ⟨0x90008, 0, 1, 14, 2, 0, 1, .ro, 3, none⟩
def Reg.TLY_STATUS.ROOT : RegField := ⟨0x90008, 0, 1, 16, 16, 0, 1, .ro, 0xffff, none⟩
def Reg.TLY_STATUS.PARENT : RegField := ⟨0x90008, 0, 1, 32, 16, 0, 1, .ro, 0xffff, (some 0xffff)⟩
def Reg.TLY_STATUS.RESULT : RegField := ⟨0x90008, 0, 1, 48, 16, 0, 1, .ro, 0, (some 0)⟩

/-! TLY_SERVO_CTL (R540) -/
def Reg.TLY_SERVO_CTL.KP_LOG : RegField := ⟨0x90010, 0, 1, 0, 4, 0, 1, .rw, 4, none⟩
def Reg.TLY_SERVO_CTL.KI_LOG : RegField := ⟨0x90010, 0, 1, 4, 4, 0, 1, .rw, 8, none⟩

/-! TLY_SERVO_STAT (R541) -/
def Reg.TLY_SERVO_STAT.OFFSET : RegField := ⟨0x90020, 0, 1, 0, 32, 0, 1, .ro, 0, (some 0)⟩
def Reg.TLY_SERVO_STAT.DELAY : RegField := ⟨0x90020, 0, 1, 32, 32, 0, 1, .ro, 0, (some 0)⟩
def Reg.TLY_SERVO_STAT.F_TRIM : RegField := ⟨0x90020, 0, 1, 64, 32, 0, 1, .ro, 0, none⟩
def Reg.TLY_SERVO_STAT.OUTLIERS : RegField := ⟨0x90020, 0, 1, 96, 16, 0, 1, .ro, 0, (some 0)⟩
def Reg.TLY_SERVO_STAT.PARENT_CHANGES : RegField := ⟨0x90020, 0, 1, 112, 16, 0, 1, .ro, 0, (some 0)⟩

/-! TLY_ROOTS (R542) -/
def Reg.TLY_ROOTS.ROOT0 : RegField := ⟨0x90018, 0, 1, 0, 16, 0, 1, .sl, 0, none⟩
def Reg.TLY_ROOTS.ROOT1 : RegField := ⟨0x90018, 0, 1, 16, 16, 0, 1, .sl, 0, none⟩
def Reg.TLY_ROOTS.ROOT2 : RegField := ⟨0x90018, 0, 1, 32, 16, 0, 1, .sl, 0, none⟩
def Reg.TLY_ROOTS.VALID : RegField := ⟨0x90018, 0, 1, 48, 3, 0, 1, .sl, 0, none⟩

/-! TLY_MARK_CTL (R544) -/
def Reg.TLY_MARK_CTL.ARMED : RegField := ⟨0x90038, 0, 1, 0, 1, 0, 1, .rw, 0, (some 0)⟩
def Reg.TLY_MARK_CTL.PERIOD : RegField := ⟨0x90038, 0, 1, 1, 40, 0, 1, .rw, 0, (some 0)⟩

/-! TLY_MARK_STAT (R545) -/
def Reg.TLY_MARK_STAT.LAST : RegField := ⟨0x90040, 0, 1, 0, 64, 0, 1, .ro, 0, (some 0)⟩
def Reg.TLY_MARK_STAT.MISSED : RegField := ⟨0x90040, 0, 1, 64, 16, 0, 1, .ro, 0, (some 0)⟩
def Reg.TLY_MARK_STAT.RESULT : RegField := ⟨0x90040, 0, 1, 80, 16, 0, 1, .ro, 0, (some 0)⟩
def Reg.TLY_MARK_STAT.DONE_NS : RegField := ⟨0x90040, 0, 1, 96, 16, 0, 1, .ro, 0, (some 0)⟩
def Reg.TLY_MARK_STAT.DONE : RegField := ⟨0x90040, 0, 1, 112, 1, 0, 1, .ro, 0, (some 0)⟩

/-! TLY_EPOCH (R546) -/
def Reg.TLY_EPOCH.SEC : RegField := ⟨0x90050, 0, 1, 0, 64, 0, 1, .rw, 0, none⟩
def Reg.TLY_EPOCH.FRAC : RegField := ⟨0x90050, 0, 1, 64, 15, 0, 1, .rw, 0, none⟩
def Reg.TLY_EPOCH.VALID : RegField := ⟨0x90050, 0, 1, 79, 1, 0, 1, .rw, 0, none⟩

/-! FLD_BOOT_STATUS (R591) -/
def Reg.FLD_BOOT_STATUS.KAT_FAILED : RegField := ⟨0x48, 0, 1, 0, 9, 0, 1, .ro, 0, (some 0)⟩ -- warm: R580
def Reg.FLD_BOOT_STATUS.RIM_KAT_FAIL : RegField := ⟨0x48, 0, 1, 9, 1, 0, 1, .ro, 0, (some 0)⟩
def Reg.FLD_BOOT_STATUS.FETCHED : RegField := ⟨0x48, 0, 1, 16, 9, 0, 1, .ro, 0, (some 0)⟩
def Reg.FLD_BOOT_STATUS.SOWN : RegField := ⟨0x48, 0, 1, 25, 9, 0, 1, .ro, 0, (some 0)⟩
def Reg.FLD_BOOT_STATUS.REPAIRS : RegField := ⟨0x48, 0, 1, 34, 16, 0, 1, .ro, 0, (some 0)⟩
def Reg.FLD_BOOT_STATUS.FW_FALLOW : RegField := ⟨0x48, 0, 1, 50, 9, 0, 1, .ro, 0, (some 0)⟩

/-! FLD_EVT_RING (R623) -/
def Reg.FLD_EVT_RING.ENABLE : RegField := ⟨0x58, 0, 1, 0, 1, 0, 1, .rw, 0, (some 0)⟩
def Reg.FLD_EVT_RING.SIZE_LOG : RegField := ⟨0x58, 0, 1, 1, 4, 0, 1, .rw, 6, (some 6)⟩
def Reg.FLD_EVT_RING.BASE : RegField := ⟨0x58, 0, 1, 12, 36, 0, 1, .rw, 0, (some 0)⟩

/-! FLD_EVT_IDX (R624) -/
def Reg.FLD_EVT_IDX.PROD : RegField := ⟨0x60, 0, 1, 0, 16, 0, 1, .ro, 0, (some 0)⟩
def Reg.FLD_EVT_IDX.CONS : RegField := ⟨0x60, 0, 1, 16, 16, 0, 1, .rw, 0, (some 0)⟩
def Reg.FLD_EVT_IDX.LOST : RegField := ⟨0x60, 0, 1, 32, 16, 0, 1, .ro, 0, (some 0)⟩

/-! FLD_EVT_FWD (R627) -/
def Reg.FLD_EVT_FWD.COLLECTOR : RegField := ⟨0x68, 0, 1, 0, 16, 0, 1, .rw, 0xffff, none⟩
def Reg.FLD_EVT_FWD.CLASSES : RegField := ⟨0x68, 0, 1, 16, 12, 0, 1, .rw, 0, none⟩
def Reg.FLD_EVT_FWD.DROPPED : RegField := ⟨0x68, 0, 1, 32, 16, 0, 1, .ro, 0, (some 0)⟩

/-! THM_FIELD_STATUS (R669) -/
def Reg.THM_FIELD_STATUS.TMAX : RegField := ⟨0xa0000, 0, 1, 0, 10, 0, 1, .ro, 0, (some 0)⟩
def Reg.THM_FIELD_STATUS.HOT_SENSOR : RegField := ⟨0xa0000, 0, 1, 10, 6, 0, 1, .ro, 0, (some 0)⟩
def Reg.THM_FIELD_STATUS.RATE : RegField := ⟨0xa0000, 0, 1, 16, 12, 0, 1, .ro, 0, (some 0)⟩
def Reg.THM_FIELD_STATUS.POINT : RegField := ⟨0xa0000, 0, 1, 28, 2, 0, 1, .ro, 1, (some 1)⟩
def Reg.THM_FIELD_STATUS.DROPS : RegField := ⟨0xa0000, 0, 1, 30, 2, 0, 1, .ro, 0, (some 0)⟩
def Reg.THM_FIELD_STATUS.THROTTLE : RegField := ⟨0xa0000, 0, 1, 32, 1, 0, 1, .ro, 0, (some 0)⟩
def Reg.THM_FIELD_STATUS.WARN : RegField := ⟨0xa0000, 0, 1, 33, 1, 0, 1, .ro, 0, (some 0)⟩
def Reg.THM_FIELD_STATUS.TDUTY : RegField := ⟨0xa0000, 0, 1, 34, 7, 0, 1, .ro, 0x40, (some 0x40)⟩
def Reg.THM_FIELD_STATUS.BROKEN : RegField := ⟨0xa0000, 0, 1, 41, 7, 0, 1, .ro, 0, none⟩

/-! THM_EVT_CNT (R670) -/
def Reg.THM_EVT_CNT.WARNINGS : RegField := ⟨0xa0008, 0, 1, 0, 16, 0, 1, .ro, 0, (some 0)⟩
def Reg.THM_EVT_CNT.DROPS : RegField := ⟨0xa0008, 0, 1, 16, 16, 0, 1, .ro, 0, (some 0)⟩
def Reg.THM_EVT_CNT.THROTTLES : RegField := ⟨0xa0008, 0, 1, 32, 16, 0, 1, .ro, 0, (some 0)⟩
def Reg.THM_EVT_CNT.SENSORS : RegField := ⟨0xa0008, 0, 1, 48, 16, 0, 1, .ro, 0, (some 0)⟩

/-! INJ_PT (R696) -/
def Reg.INJ_PT.POINT : RegField := ⟨0xc0008, 8, 7, 0, 5, 0, 1, .rw, 0, (some 0)⟩
def Reg.INJ_PT.TARGET : RegField := ⟨0xc0008, 8, 7, 8, 8, 0, 1, .rw, 0, (some 0)⟩
def Reg.INJ_PT.ARG : RegField := ⟨0xc0008, 8, 7, 16, 32, 0, 1, .rw, 0, (some 0)⟩
def Reg.INJ_PT.ARM : RegField := ⟨0xc0008, 8, 7, 48, 1, 0, 1, .w1s, 0, (some 0)⟩
def Reg.INJ_PT.DONE : RegField := ⟨0xc0008, 8, 7, 49, 1, 0, 1, .w1c, 0, (some 0)⟩
def Reg.INJ_PT.NOFIRE : RegField := ⟨0xc0008, 8, 7, 50, 1, 0, 1, .w1c, 0, (some 0)⟩

/-! FLD_ALLOT (R395) -/
def Reg.FLD_ALLOT.ID : RegField := ⟨0, 0, 1, 0, 12, 0, 1, .rw, 0, (some 0)⟩

/-! RTE_DISC_APPROVE (R390) -/
def Reg.RTE_DISC_APPROVE.APPROVE : RegField := ⟨0x40020, 0, 1, 0, 16, 0, 1, .w1s, 0, (some 0)⟩

/-! HLT_ENV_HINT (R483) -/
def Reg.HLT_ENV_HINT.ENV : RegField := ⟨0x70008, 0, 1, 0, 8, 0, 1, .rw, 0, (some 0)⟩

/-! MIR_SRC_DEST (R502) -/
def Reg.MIR_SRC_DEST.COPY_BASE : RegField := ⟨0x80008, 8, 2, 16, 32, 0, 1, .rw, 0, (some 0)⟩

/-! TLY_NOW (R538) -/
def Reg.TLY_NOW.TALLY : RegField := ⟨0x90000, 0, 1, 0, 64, 0, 1, .ro, 0, none⟩

/-! TLY_MARK_NEXT (R543) -/
def Reg.TLY_MARK_NEXT.NEXT : RegField := ⟨0x90030, 0, 1, 0, 64, 0, 1, .rw, 0, (some 0)⟩

/-! FLD_APERTURE (R622) -/
def Reg.FLD_APERTURE.BASE : RegField := ⟨0x50, 0, 1, 0, 8, 0, 1, .rw, 0, (some 0)⟩

/-! PLT_TINE_STATUS (R112) -/
def Reg.PLT_TINE_STATUS.BUSY : RegField := ⟨0x18, 0, 1, 0, 4, 0, 1, .ro, 0, (some 0)⟩
def Reg.PLT_TINE_STATUS.SHADOW_FULL : RegField := ⟨0x18, 0, 1, 4, 1, 0, 1, .ro, 0, (some 0)⟩
def Reg.PLT_TINE_STATUS.LOAD_WAIT : RegField := ⟨0x18, 0, 1, 5, 1, 0, 1, .ro, 0, (some 0)⟩
def Reg.PLT_TINE_STATUS.ROW_WAIT : RegField := ⟨0x18, 0, 1, 6, 1, 0, 1, .ro, 0, (some 0)⟩

/-! PLT_TINE_COUNT (R113) -/
def Reg.PLT_TINE_COUNT.PASSES : RegField := ⟨0x20, 0, 1, 0, 32, 0, 1, .ro, 0, (some 0)⟩
def Reg.PLT_TINE_COUNT.ROWS : RegField := ⟨0x20, 0, 1, 32, 32, 0, 1, .ro, 0, (some 0)⟩

/-! PLT_TINE_STALL (R114) -/
def Reg.PLT_TINE_STALL.LOAD_STALL : RegField := ⟨0x28, 0, 1, 0, 32, 0, 1, .ro, 0, (some 0)⟩
def Reg.PLT_TINE_STALL.BIN_WAIT : RegField := ⟨0x28, 0, 1, 32, 32, 0, 1, .ro, 0, (some 0)⟩

/-! PLT_WITNESS_LOG (R126) -/
def Reg.PLT_WITNESS_LOG.COUNT : RegField := ⟨0x50, 0, 1, 0, 16, 0, 1, .ro, 0, (some 0)⟩
def Reg.PLT_WITNESS_LOG.SKIPPED : RegField := ⟨0x50, 0, 1, 16, 16, 0, 1, .ro, 0, (some 0)⟩
def Reg.PLT_WITNESS_LOG.VALID : RegField := ⟨0x50, 0, 1, 32, 1, 0, 1, .w1c, 0, (some 0)⟩
def Reg.PLT_WITNESS_LOG.TINE : RegField := ⟨0x50, 0, 1, 33, 2, 0, 1, .ro, 0, (some 0)⟩
def Reg.PLT_WITNESS_LOG.BIN_ROW : RegField := ⟨0x50, 0, 1, 35, 9, 0, 1, .ro, 0, (some 0)⟩
def Reg.PLT_WITNESS_LOG.LAYER_TAG : RegField := ⟨0x50, 0, 1, 44, 16, 0, 1, .ro, 0, (some 0)⟩
def Reg.PLT_WITNESS_LOG.INJECTED : RegField := ⟨0x50, 0, 1, 60, 1, 0, 1, .ro, 0, (some 0)⟩
def Reg.PLT_WITNESS_LOG.BOUNDED : RegField := ⟨0x50, 0, 1, 61, 1, 0, 1, .ro, 0, (some 0)⟩

/-! PLT_CLASS_LO (R137) -/
def Reg.PLT_CLASS_LO.NAN_IN : RegField := ⟨0x60, 0, 1, 0, 16, 0, 1, .rw, 0, (some 0)⟩
def Reg.PLT_CLASS_LO.INF_IN : RegField := ⟨0x60, 0, 1, 16, 16, 0, 1, .rw, 0, (some 0)⟩
def Reg.PLT_CLASS_LO.SAT_BLOCK : RegField := ⟨0x60, 0, 1, 32, 16, 0, 1, .rw, 0, (some 0)⟩
def Reg.PLT_CLASS_LO.SAT_RANGE : RegField := ⟨0x60, 0, 1, 48, 16, 0, 1, .rw, 0, (some 0)⟩

/-! PLT_CLASS_HI (R137) -/
def Reg.PLT_CLASS_HI.UNDERFLOW : RegField := ⟨0x68, 0, 1, 0, 16, 0, 1, .rw, 0, (some 0)⟩
def Reg.PLT_CLASS_HI.TERN_RESERVED : RegField := ⟨0x68, 0, 1, 16, 16, 0, 1, .rw, 0, (some 0)⟩

/-! PLT_ID (R176) -/
def Reg.PLT_ID.INDEX : RegField := ⟨0, 0, 1, 0, 8, 0, 1, .ro, 0, (some 0)⟩ -- cold: Per plot; warm: Per plot
def Reg.PLT_ID.PHYS_X : RegField := ⟨0, 0, 1, 8, 4, 0, 1, .ro, 0, (some 0)⟩ -- cold: Per plot; warm: Per plot
def Reg.PLT_ID.PHYS_Y : RegField := ⟨0, 0, 1, 12, 5, 0, 1, .ro, 0, (some 0)⟩ -- cold: Per plot; warm: Per plot

/-! PLT_DRILL_CTL (R177) -/
def Reg.PLT_DRILL_CTL.HOLD : RegField := ⟨8, 0, 1, 0, 1, 0, 1, .rw, 1, (some 1)⟩
def Reg.PLT_DRILL_CTL.HALT_REQ : RegField := ⟨8, 0, 1, 1, 1, 0, 1, .w1s, 0, (some 0)⟩
def Reg.PLT_DRILL_CTL.RESUME : RegField := ⟨8, 0, 1, 2, 1, 0, 1, .w1s, 0, (some 0)⟩

/-! PLT_DRILL_STATUS (R178) -/
def Reg.PLT_DRILL_STATUS.STATE : RegField := ⟨0x10, 0, 1, 0, 3, 0, 1, .ro, 0, (some 0)⟩
def Reg.PLT_DRILL_STATUS.IN_TRAP : RegField := ⟨0x10, 0, 1, 3, 1, 0, 1, .ro, 0, (some 0)⟩
def Reg.PLT_DRILL_STATUS.CAUSE : RegField := ⟨0x10, 0, 1, 4, 4, 0, 1, .ro, 0, (some 0)⟩
def Reg.PLT_DRILL_STATUS.PC : RegField := ⟨0x10, 0, 1, 32, 32, 0, 1, .ro, 0, (some 0)⟩

/-! PLT_QUEUE_STALL (R179) -/
def Reg.PLT_QUEUE_STALL.FULL : RegField := ⟨0x30, 0, 1, 0, 32, 0, 1, .ro, 0, (some 0)⟩
def Reg.PLT_QUEUE_STALL.CLAIM : RegField := ⟨0x30, 0, 1, 32, 32, 0, 1, .ro, 0, (some 0)⟩

/-! PLT_STORE_ECC (R180) -/
def Reg.PLT_STORE_ECC.CORRECTED : RegField := ⟨0x40, 0, 1, 0, 32, 0, 1, .ro, 0, (some 0)⟩
def Reg.PLT_STORE_ECC.UNCORRECTED : RegField := ⟨0x40, 0, 1, 32, 16, 0, 1, .ro, 0, (some 0)⟩
def Reg.PLT_STORE_ECC.LAST_ADDR : RegField := ⟨0x40, 0, 1, 64, 22, 0, 1, .ro, 0, (some 0)⟩
def Reg.PLT_STORE_ECC.BANK_WAIT : RegField := ⟨0x40, 0, 1, 96, 32, 0, 1, .ro, 0, (some 0)⟩

/-! PLT_CLOCK_STAT (R181) -/
def Reg.PLT_CLOCK_STAT.STRETCHED : RegField := ⟨0x38, 0, 1, 0, 32, 0, 1, .ro, 0, (some 0)⟩
def Reg.PLT_CLOCK_STAT.DROOP_TRIPS : RegField := ⟨0x38, 0, 1, 32, 16, 0, 1, .ro, 0, (some 0)⟩

/-! PLT_NOTIFY (R183) -/
def Reg.PLT_NOTIFY.VALUE : RegField := ⟨0x78, 0, 1, 0, 32, 0, 1, .wo, 0, (some 0)⟩
def Reg.PLT_NOTIFY.LOST : RegField := ⟨0x78, 0, 1, 32, 16, 0, 1, .ro, 0, (some 0)⟩

/-! PLT_DOORBELL (R184) -/
def Reg.PLT_DOORBELL.PENDING : RegField := ⟨0x80, 0, 1, 0, 32, 0, 1, .w1c, 0, (some 0)⟩

/-! PLT_DOORBELL_SET (R184) -/
def Reg.PLT_DOORBELL_SET.PENDING : RegField := ⟨0x88, 0, 1, 0, 32, 0, 1, .w1s, 0, (some 0)⟩

/-! MBX_PLOT_IN_PTR (R186) -/
def Reg.MBX_PLOT_IN_PTR.PTR : RegField := ⟨0x100, 0, 1, 0, 64, 0, 1, .ro, 0, (some 0)⟩

/-! MBX_PLOT_IN_META (R186) -/
def Reg.MBX_PLOT_IN_META.TAG : RegField := ⟨0x108, 0, 1, 0, 16, 0, 1, .ro, 0, (some 0)⟩
def Reg.MBX_PLOT_IN_META.EPOCH : RegField := ⟨0x108, 0, 1, 16, 16, 0, 1, .ro, 0, (some 0)⟩
def Reg.MBX_PLOT_IN_META.FULL : RegField := ⟨0x108, 0, 1, 32, 1, 0, 1, .ro, 0, (some 0)⟩

/-! MBX_PLOT_IN_ACK (R186) -/
def Reg.MBX_PLOT_IN_ACK.CODE : RegField := ⟨0x110, 0, 1, 0, 16, 0, 1, .wo, 0, (some 0)⟩

/-! MBX_PLOT_ROLE (R186) -/
def Reg.MBX_PLOT_ROLE.EPOCH : RegField := ⟨0x118, 0, 1, 0, 16, 0, 1, .rw, 0, (some 0)⟩

/-! MBX_PLOT_OUT_PTR (R186) -/
def Reg.MBX_PLOT_OUT_PTR.PTR : RegField := ⟨0x120, 0, 1, 0, 64, 0, 1, .rw, 0, (some 0)⟩

/-! MBX_PLOT_OUT_META (R186) -/
def Reg.MBX_PLOT_OUT_META.TAG : RegField := ⟨0x128, 0, 1, 0, 16, 0, 1, .rw, 0, (some 0)⟩
def Reg.MBX_PLOT_OUT_META.EPOCH : RegField := ⟨0x128, 0, 1, 16, 16, 0, 1, .rw, 0, (some 0)⟩
def Reg.MBX_PLOT_OUT_META.SEND : RegField := ⟨0x128, 0, 1, 32, 1, 0, 1, .w1s, 0, (some 0)⟩
def Reg.MBX_PLOT_OUT_META.PENDING : RegField := ⟨0x128, 0, 1, 33, 1, 0, 1, .ro, 0, (some 0)⟩
def Reg.MBX_PLOT_OUT_META.REFUSED : RegField := ⟨0x128, 0, 1, 34, 1, 0, 1, .w1c, 0, (some 0)⟩

/-! MBX_PLOT_OUT_ACK (R186) -/
def Reg.MBX_PLOT_OUT_ACK.CODE : RegField := ⟨0x130, 0, 1, 0, 16, 0, 1, .ro, 0, (some 0)⟩
def Reg.MBX_PLOT_OUT_ACK.DONE : RegField := ⟨0x130, 0, 1, 16, 1, 0, 1, .w1c, 0, (some 0)⟩

/-! PLT_CQ_POP (R226) -/
def Reg.PLT_CQ_POP.RECORD : RegField := ⟨0xa8, 0, 1, 0, 64, 0, 1, .ro, 0, (some 0)⟩

/-! PLT_CQ_STATUS (R227) -/
def Reg.PLT_CQ_STATUS.COUNT : RegField := ⟨0x98, 0, 1, 0, 7, 0, 1, .ro, 0, (some 0)⟩
def Reg.PLT_CQ_STATUS.OVERFLOW : RegField := ⟨0x98, 0, 1, 7, 1, 0, 1, .w1c, 0, (some 0)⟩
def Reg.PLT_CQ_STATUS.LOST : RegField := ⟨0x98, 0, 1, 16, 16, 0, 1, .ro, 0, (some 0)⟩
def Reg.PLT_CQ_STATUS.NEXT_QSN : RegField := ⟨0x98, 0, 1, 32, 16, 0, 1, .ro, 0, (some 0)⟩
def Reg.PLT_CQ_STATUS.QUEUED : RegField := ⟨0x98, 0, 1, 48, 6, 0, 1, .ro, 0, (some 0)⟩

/-! PLT_CQ_SUMMARY (R228) -/
def Reg.PLT_CQ_SUMMARY.CLASS_SEEN : RegField := ⟨0xa0, 0, 1, 0, 6, 0, 1, .w1c, 0, (some 0)⟩
def Reg.PLT_CQ_SUMMARY.ERR : RegField := ⟨0xa0, 0, 1, 6, 1, 0, 1, .w1c, 0, (some 0)⟩
def Reg.PLT_CQ_SUMMARY.ERR_QSN : RegField := ⟨0xa0, 0, 1, 16, 16, 0, 1, .ro, 0, (some 0)⟩
def Reg.PLT_CQ_SUMMARY.ERR_STATUS : RegField := ⟨0xa0, 0, 1, 32, 16, 0, 1, .ro, 0, (some 0)⟩

/-! PLT_TDR (R229) -/
def Reg.PLT_TDR.BYTES : RegField := ⟨0x200, 0x40, 8, 0, 512, 0, 1, .ro, 0, (some 0)⟩

/-! PLT_BOOT (R592) -/
def Reg.PLT_BOOT.IMAGE : RegField := ⟨0x90, 0, 1, 0, 2, 0, 1, .ro, 0, (some 0)⟩
def Reg.PLT_BOOT.SOW : RegField := ⟨0x90, 0, 1, 2, 1, 0, 1, .ro, 0, (some 0)⟩
def Reg.PLT_BOOT.NONE : RegField := ⟨0x90, 0, 1, 3, 1, 0, 1, .ro, 0, (some 0)⟩
def Reg.PLT_BOOT.STATUS : RegField := ⟨0x90, 0, 1, 4, 3, 0, 1, .ro, 0, (some 0)⟩
def Reg.PLT_BOOT.REPAIRS : RegField := ⟨0x90, 0, 1, 16, 16, 0, 1, .ro, 0, (some 0)⟩
def Reg.PLT_BOOT.FAIL_BLOCK : RegField := ⟨0x90, 0, 1, 32, 16, 0, 1, .ro, 0, (some 0)⟩

/-! PLT_WITNESS_PASS (R127) -/
def Reg.PLT_WITNESS_PASS.PASS : RegField := ⟨0x58, 0, 1, 0, 32, 0, 1, .ro, 0, (some 0)⟩

/-! PLT_TALLY (R182) -/
def Reg.PLT_TALLY.TALLY : RegField := ⟨0x70, 0, 1, 0, 64, 0, 1, .ro, 0, (some 0)⟩

/-- Part of the list of register fields of hub. -/
def Reg.hubFields0 : List RegField :=
  [Reg.HUB_FIELD_STATE.STATE, Reg.HUB_FIELD_STATE.FALLOW, Reg.HUB_FIELD_STATE.HBM0_OK, Reg.HUB_FIELD_STATE.HBM1_OK,
   Reg.HUB_D2D_STATUS.MODULES, Reg.HUB_D2D_STATUS.UP, Reg.HUB_PKG_COORD.U, Reg.HUB_PKG_COORD.V,
   Reg.HUB_PKG_COORD.W, Reg.HUB_PKG_COORD.VALID, Reg.MBX_HUB_IN_PTR.PTR, Reg.MBX_HUB_IN_META.TAG,
   Reg.MBX_HUB_IN_META.EPOCH, Reg.MBX_HUB_IN_META.FULL, Reg.MBX_HUB_IN_ACK.CODE, Reg.MBX_HUB_ROLE.EPOCH,
   Reg.MBX_HUB_OUT_PTR.PTR, Reg.MBX_HUB_OUT_META.TAG, Reg.MBX_HUB_OUT_META.EPOCH, Reg.MBX_HUB_OUT_META.SEND,
   Reg.MBX_HUB_OUT_META.PENDING, Reg.MBX_HUB_OUT_META.REFUSED, Reg.MBX_HUB_OUT_ACK.CODE, Reg.MBX_HUB_OUT_ACK.DONE,
   Reg.HDL_LIGHT_CTL.RELIGHT, Reg.HDL_LIGHT_CTL.MARGIN_TARGET, Reg.HDL_LIGHT_CTL.BIAS_AUTO, Reg.HDL_LIGHT_CTL.SWITCH_AUTO,
   Reg.HDL_LIGHT_CTL.FALLBACK_AUTO, Reg.HDL_LIGHT_STATUS.STATE, Reg.HDL_LIGHT_STATUS.LASER_EN, Reg.HDL_LIGHT_STATUS.RESULT,
   Reg.HDL_MODULE.PRESENT, Reg.HDL_MODULE.OUTPUT_ON, Reg.HDL_MODULE.BIAS, Reg.HDL_MODULE.FADE,
   Reg.HDL_MODULE.MARGIN, Reg.HDL_MODULE.PROBE_FAIL, Reg.HDL_MODULE.FAULT, Reg.HDL_HOST_ENGINE.SRC]

/-- Part of the list of register fields of hub. -/
def Reg.hubFields1 : List RegField :=
  [Reg.HDL_HOST_ENGINE.SWITCHING, Reg.HDL_HOST_ENGINE.INLET_A_OK, Reg.HDL_HOST_ENGINE.INLET_B_OK, Reg.HDL_HOST_ENGINE.DARK,
   Reg.HLT_PKG.SCORE, Reg.HLT_PKG.OUT, Reg.HLT_PKG.EXPEL, Reg.HUB_INJ_UNLOCK.VALUE,
   Reg.HUB_INJ_UNLOCK.REQ, Reg.HUB_INJ_UNLOCK.LOCK, Reg.HUB_INJ_STATUS.OPEN, Reg.HUB_INJ_STATUS.PROVING,
   Reg.HUB_INJ_STATUS.FUSE, Reg.HUB_INJ_STATUS.PENDING, Reg.HUB_INJ_STATUS.RESULT, Reg.TLY_PIN_CTL.ENABLE,
   Reg.TLY_PIN_CTL.MODE, Reg.TLY_PIN_CTL.PERIOD_LOG, Reg.TLY_PIN_CTL.WIDTH, Reg.TLY_PIN_CTL.FIELD,
   Reg.CAL_TIME.SEC, Reg.CAL_TIME.FRAC, Reg.CAL_TIME.VALID, Reg.CAL_SET.SEC,
   Reg.CAL_SET.FRAC, Reg.CAL_SET.APPLY, Reg.CAL_COMP.T0, Reg.CAL_COMP.C0,
   Reg.CAL_COMP.C1, Reg.CAL_COMP.C2, Reg.CAL_COMP.ENABLE, Reg.CAL_STATUS.OSC_STOP,
   Reg.CAL_STATUS.VBAT_LOW, Reg.CAL_STATUS.TEMP, Reg.SEED_STAGE.STAGE, Reg.SEED_STAGE.PHASE,
   Reg.SEED_STAGE.HOST_STEPPED, Reg.SEED_STAGE.FAST_PATH, Reg.SEED_STAGE.GO_IGNORED, Reg.SEED_STAGE.AUTO]

/-- Part of the list of register fields of hub. -/
def Reg.hubFields2 : List RegField :=
  [Reg.SEED_STAGE.RESULT, Reg.SEED_STAGE_GO.STAGE, Reg.SEED_STAGE_GO.SKIP, Reg.SEED_CTL.HOST_IMAGE,
   Reg.SEED_CTL.IMAGES_READY, Reg.SEED_CTL.FORCE_FULL, Reg.SEED_STRAPS.STEP, Reg.SEED_STRAPS.BOOT_SRC,
   Reg.SEED_STRAPS.FLASH_IO, Reg.SEED_IMAGE_STATUS.SLOT, Reg.SEED_IMAGE_STATUS.UNPROVISIONED, Reg.SEED_IMAGE_STATUS.CARRY_APPLIED,
   Reg.SEED_IMAGE_STATUS.RESULT_A, Reg.SEED_IMAGE_STATUS.RESULT_B, Reg.SEED_IMAGE_STATUS.RESULT_HOST, Reg.SEED_IMAGE_STATUS.SVN,
   Reg.SEED_IMAGE_STATUS.LENGTH, Reg.SEED_IMAGE_STATUS.BUILD, Reg.SEED_MEASURE.M, Reg.SEED_DIGEST.D,
   Reg.SEED_STAGE_TIME.TIME, Reg.HUB_RESET_CTL.WARM, Reg.HUB_RESET_CTL.PART, Reg.HUB_RESET_STATUS.CAUSE,
   Reg.HUB_RESET_STATUS.PART_BUSY, Reg.HUB_RESET_STATUS.PART_REFUSED, Reg.HUB_RESET_STATUS.WARM_COUNT, Reg.HUB_JTAG_CHAL.NONCE,
   Reg.HUB_JTAG_RESP.SIG_R, Reg.HUB_JTAG_RESP.SIG_S, Reg.HUB_JTAG_STATUS.UNLOCKED, Reg.HUB_JTAG_STATUS.RESULT,
   Reg.HUB_HOST_PHY_CTL.CAL_EN, Reg.HUB_HOST_PHY_CTL.PERIOD, Reg.HUB_HOST_PHY_CTL.RETRAIN, Reg.HUB_HOST_PHY_STATUS.STATE,
   Reg.HUB_HOST_PHY_STATUS.WIDTH, Reg.HUB_HOST_PHY_STATUS.FALLOW, Reg.HUB_HOST_PHY_STATUS.PAUSE, Reg.HUB_HOST_PHY_STATUS.FAILED]

/-- Part of the list of register fields of hub. -/
def Reg.hubFields3 : List RegField :=
  [Reg.HUB_HOST_PHY_STATUS.RECOVERIES, Reg.HUB_EVT_RING.ENABLE, Reg.HUB_EVT_RING.SIZE_LOG, Reg.HUB_EVT_RING.BASE,
   Reg.HUB_EVT_IDX.PROD, Reg.HUB_EVT_IDX.CONS, Reg.HUB_EVT_IDX.LOST, Reg.HUB_MGMT_REQ.NODE,
   Reg.HUB_MGMT_REQ.OFFSET, Reg.HUB_MGMT_REQ.WORDS, Reg.HUB_MGMT_REQ.GO, Reg.HUB_MGMT_STATUS.BUSY,
   Reg.HUB_MGMT_STATUS.RESULT, Reg.PWR_MODE_CTL.MODE, Reg.PWR_MODE_CTL.AT_MARK, Reg.PWR_MODE_CTL.LIMIT_W,
   Reg.PWR_MODE_STATUS.MODE, Reg.PWR_MODE_STATUS.REQ, Reg.PWR_MODE_STATUS.PENDING, Reg.PWR_MODE_STATUS.HOLD,
   Reg.PWR_MODE_STATUS.WARN_PIN, Reg.PWR_MODE_STATUS.CHANGING, Reg.PWR_MODE_STATUS.POINT_0, Reg.PWR_MODE_STATUS.POINT_1,
   Reg.PWR_MODE_STATUS.POINT_2, Reg.PWR_MODE_STATUS.POINT_3, Reg.PWR_MODE_STATUS.VSEL, Reg.PWR_MODE_STATUS.HOLD_COUNT,
   Reg.PWR_GOV_CTL.GOV_EN, Reg.PWR_GOV_CTL.BALLAST_EN, Reg.PWR_GOV_CTL.RATE, Reg.PWR_GOV_CTL.FLOOR_PCT,
   Reg.PWR_GOV_CTL.STAGGER_US, Reg.PWR_GOV_CTL.HOLD_DUTY, Reg.PWR_GOV_CTL.HOLD_OFF_US, Reg.PWR_RAMP_STAT.POWER,
   Reg.PWR_RAMP_STAT.GOVERNED, Reg.PWR_RAMP_STAT.BALLAST_W, Reg.PWR_RAMP_STAT.DUTY, Reg.PWR_RAMP_STAT.BALLAST]

/-- Part of the list of register fields of hub. -/
def Reg.hubFields4 : List RegField :=
  [Reg.PWR_RAMP_STAT.RELEASED, Reg.PWR_RAMP_STAT.RATE_MAX, Reg.PWR_RAMP_STAT.LIMIT, Reg.PWR_RAMP_STAT.EXCEED,
   Reg.PWR_RAIL_STATUS.PWREN, Reg.PWR_RAIL_STATUS.PGOOD, Reg.PWR_RAIL_STATUS.PWREN_OPT, Reg.PWR_RAIL_STATUS.PGOOD_OPT,
   Reg.PWR_RAIL_STATUS.FAULTS, Reg.THM_PIN_CFG.ROLE, Reg.THM_PIN_CFG.WARN, Reg.THM_PIN_CFG.CRIT,
   Reg.THM_PIN_CFG.NOM_OHMS, Reg.THM_PIN_CFG.IDEAL, Reg.THM_PIN_CFG.BETA, Reg.THM_PIN_STATUS.WARN, Reg.THM_PIN_STATUS.CRIT,
   Reg.THM_PIN_STATUS.BROKEN, Reg.THM_TRIP_STATUS.TRIPPED, Reg.THM_TRIP_STATUS.SOURCE, Reg.THM_TRIP_STATUS.FIELD,
   Reg.THM_TRIP_STATUS.SENSOR, Reg.THM_TRIP_STATUS.TEMP, Reg.HUB_GPIO_CLAIM.CLAIM, Reg.HUB_GPIO_CTL.OE,
   Reg.HUB_GPIO_CTL.OUT, Reg.HUB_GPIO_CTL.IN, Reg.INJ_HPT.POINT, Reg.INJ_HPT.TARGET,
   Reg.INJ_HPT.ARG, Reg.INJ_HPT.ARM, Reg.INJ_HPT.DONE, Reg.INJ_HPT.NOFIRE,
   Reg.HLT_FLEET.PRESSURE, Reg.THM_CTL.ALERT_MASK, Reg.THM_PIN_TEMP.TEMP, Reg.HUB_MGMT_CTL.ENABLE,
   Reg.HUB_MGMT_DATA.WORD]

/-- Every register field of hub. -/
def Reg.hubFields : List RegField :=
  Reg.hubFields0 ++ Reg.hubFields1 ++ Reg.hubFields2 ++ Reg.hubFields3 ++ Reg.hubFields4

/-- Part of the list of register fields of a field's rim (register offsets below the plot windows). -/
def Reg.rimFields0 : List RegField :=
  [Reg.FLD_SR_SEED.SEED, Reg.FLD_SR_STEP.STEP, Reg.FLD_SR_STEP.AUTO_STEP, Reg.FLD_WITNESS_CTL.ENABLE,
   Reg.FLD_WITNESS_CTL.POISON, Reg.FLD_WITNESS_CTL.ACTIVE, Reg.FLD_WITNESS_CTL.POISON_ACTIVE, Reg.FLD_DRIFT_CTL.SAMPLE_K,
   Reg.FLD_DRIFT_CTL.TH_BUCKET, Reg.FLD_DRIFT_CTL.TH_COUNT, Reg.FLD_DRIFT_BASE.WRITE, Reg.FLD_DRIFT_BASE.ADDR,
   Reg.FLD_DRIFT_STATUS.ENTRIES, Reg.FLD_DRIFT_STATUS.FULL, Reg.FLD_DRIFT_STATUS.SEQ, Reg.INJ_ARITH.POINT,
   Reg.INJ_ARITH.PLOT, Reg.INJ_ARITH.TINE, Reg.INJ_ARITH.COLUMN, Reg.INJ_ARITH.BIT,
   Reg.INJ_ARITH.LANE, Reg.INJ_ARITH.ARM, Reg.INJ_ARITH.DONE, Reg.INJ_ARITH.NOFIRE,
   Reg.FLD_DOORBELL_RING.BITS, Reg.FLD_DOORBELL_RING.TARGET, Reg.FLD_DOORBELL_RING.SCOPE, Reg.MBX_RIM_IN_PTR.PTR,
   Reg.MBX_RIM_IN_META.TAG, Reg.MBX_RIM_IN_META.EPOCH, Reg.MBX_RIM_IN_META.FULL, Reg.MBX_RIM_IN_ACK.CODE,
   Reg.MBX_RIM_ROLE.EPOCH, Reg.MBX_RIM_OUT_PTR.PTR, Reg.MBX_RIM_OUT_META.TAG, Reg.MBX_RIM_OUT_META.EPOCH,
   Reg.MBX_RIM_OUT_META.SEND, Reg.MBX_RIM_OUT_META.PENDING, Reg.MBX_RIM_OUT_META.REFUSED, Reg.MBX_RIM_OUT_ACK.CODE]

/-- Part of the list of register fields of a field's rim (register offsets below the plot windows). -/
def Reg.rimFields1 : List RegField :=
  [Reg.MBX_RIM_OUT_ACK.DONE, Reg.MEM_ECC_STAT.CORRECTED, Reg.MEM_ECC_STAT.UNCORRECTED, Reg.MEM_ECC_STAT.POISON_WRITES,
   Reg.MEM_ECC_STAT.LAST_ADDR, Reg.MEM_ECC_STAT.ECS_0, Reg.MEM_ECC_STAT.ECS_1, Reg.MEM_SCRUB_CTL.ENABLE,
   Reg.MEM_SCRUB_CTL.INTERVAL, Reg.MEM_SCRUB_CTL.PASSES, Reg.MEM_REPAIR_STATUS.COUNT, Reg.MEM_REPAIR_STATUS.FULL,
   Reg.MEM_REPAIR_ENTRY.VALID, Reg.MEM_REPAIR_ENTRY.STACK, Reg.MEM_REPAIR_ENTRY.CHANNEL, Reg.MEM_REPAIR_ENTRY.PCH,
   Reg.MEM_REPAIR_ENTRY.BANK, Reg.MEM_REPAIR_ENTRY.ROW, Reg.MEM_REPAIR_ENTRY.REASON, Reg.MEM_REPAIR_ENTRY.RESULT,
   Reg.MEM_MIR_REGION.ENABLE, Reg.MEM_MIR_REGION.BASE, Reg.MEM_MIR_REGION.SIZE, Reg.MEM_MIR_STATUS.CUR_COUNT,
   Reg.MEM_MIR_STATUS.RES_COUNT, Reg.MEM_MIR_STATUS.RES_EMPTY, Reg.MEM_MIR_STATUS.LATE, Reg.MEM_MIR_STATUS.HOLD_CYCLES,
   Reg.FLD_FALLOW_MAP.MAP, Reg.FLD_FALLOW_RUN.RUN, Reg.FLD_MESH_STAT.STALL, Reg.FLD_MESH_STAT.MCAST_SKIPPED,
   Reg.HDL_ENGINE_STATUS.SRC, Reg.HDL_ENGINE_STATUS.SWITCHING, Reg.HDL_ENGINE_STATUS.INLET_A_OK, Reg.HDL_ENGINE_STATUS.INLET_B_OK,
   Reg.HDL_ENGINE_STATUS.DARK, Reg.HDL_ENGINE_CTL.TARGET, Reg.HDL_ENGINE_CTL.REQ, Reg.HDL_ENGINE_CTL.NOW]

/-- Part of the list of register fields of a field's rim (register offsets below the plot windows). -/
def Reg.rimFields2 : List RegField :=
  [Reg.HDL_PORT_CTL.TX_MODE_REQ, Reg.HDL_PORT_CTL.CAL_EN, Reg.HDL_PORT_STATUS.TX_MODE, Reg.HDL_PORT_STATUS.RX_MODE,
   Reg.HDL_PORT_STATUS.TX_FALLOW, Reg.HDL_PORT_STATUS.RX_FALLOW, Reg.HDL_PORT_STATUS.TX_LANES, Reg.HDL_PORT_STATUS.RX_LANES,
   Reg.HDL_PORT_STATUS.TX_CAL, Reg.HDL_PORT_STATUS.APR, Reg.HDL_PORT_STATUS.LIGHT_PAUSE, Reg.HDL_PORT_STATUS.TX_FAILED,
   Reg.HDL_PORT_STATUS.RX_FAILED, Reg.HDL_PORT_MAP.TX_SLOT, Reg.HDL_PORT_MAP.RX_SLOT, Reg.HDL_LANE_POWER.RX_PWR,
   Reg.HDL_LANE_POWER.FAR_PWR, Reg.HDL_CAL_CTL.ENABLE, Reg.HDL_CAL_CTL.PERIOD, Reg.HDL_CAL_STAT.SLOTS,
   Reg.HDL_CAL_STAT.DEGRADED, Reg.HDL_CAL_STAT.ABORTED, Reg.RTE_LINK_CTL.ENABLE, Reg.RTE_LINK_CTL.RETRY,
   Reg.RTE_LINK_CTL.QUAL_SKIP, Reg.RTE_LINK_CTL.REPLAY_TIMEOUT, Reg.RTE_LINK_STATUS.STATE, Reg.RTE_LINK_STATUS.FAR_READY,
   Reg.RTE_LINK_STATUS.PRESERVED, Reg.RTE_LINK_STATUS.RESULT, Reg.RTE_LINK_STATUS.TX_SEQ, Reg.RTE_LINK_STATUS.RX_ACK,
   Reg.RTE_LINK_CNT.TX_FLITS, Reg.RTE_LINK_CNT.RX_FLITS, Reg.RTE_LINK_CNT.REPLAYED, Reg.RTE_LINK_CNT.CRC_ERR,
   Reg.RTE_LINK_CNT.NAKS, Reg.RTE_LINK_CNT.PROTO_ERR, Reg.RTE_LINK_CNT.RETRAINS, Reg.RTE_LINK_CNT.LOST]

/-- Part of the list of register fields of a field's rim (register offsets below the plot windows). -/
def Reg.rimFields3 : List RegField :=
  [Reg.RTE_LANE_FEC.CORR, Reg.RTE_LANE_FEC.UNCORR, Reg.RTE_QUAL_RESULT.RX_PASS, Reg.RTE_QUAL_RESULT.TX_PASS,
   Reg.RTE_QUAL_RESULT.WORST, Reg.RTE_QUAL_RESULT.WORST_E, Reg.RTE_LINK_CREDIT.RES, Reg.RTE_LINK_CREDIT.SHARED,
   Reg.RTE_VC_WEIGHT.VC0_DIV, Reg.RTE_VC_WEIGHT.W1, Reg.RTE_VC_WEIGHT.W2, Reg.RTE_VC_WEIGHT.W3,
   Reg.RTE_VC_WEIGHT.W4, Reg.RTE_VC_WEIGHT.W5, Reg.RTE_VC_WEIGHT.W6, Reg.RTE_VC_WEIGHT.W7,
   Reg.RTE_VC_CTL.VC5_FLOOR_DIV, Reg.RTE_VC_CTL.FLOOR_EN, Reg.RTE_VC_CTL.COMMIT_DUE, Reg.RTE_PLAN_HDR.DIGEST,
   Reg.RTE_PLAN_HDR.SIZE_U, Reg.RTE_PLAN_HDR.SIZE_V, Reg.RTE_PLAN_HDR.SIZE_W, Reg.RTE_PLAN_PORT.AXIS,
   Reg.RTE_PLAN_PORT.COORD, Reg.RTE_PLAN_PORT.FAR_PORT, Reg.RTE_PLAN_PORT.RESERVE, Reg.RTE_DISC_STATUS.OUTCOME,
   Reg.RTE_DISC_STATUS.APPROVED, Reg.RTE_DISC_STATUS.REFUSED, Reg.RTE_DISC_STATUS.EFF_AXIS, Reg.RTE_DISC_STATUS.EFF_COORD,
   Reg.RTE_DISC_STATUS.EFF_FAR_PORT, Reg.RTE_DISC_STATUS.SEEN_NODE, Reg.RTE_DISC_STATUS.SEEN_PORT, Reg.RTE_DISC_STATUS.SEEN_SERIAL,
   Reg.RTE_TBL_W.PORT0, Reg.RTE_TBL_W.PORT1, Reg.RTE_TBL_W.PORT2, Reg.RTE_TBL_W.PORT3]

/-- Part of the list of register fields of a field's rim (register offsets below the plot windows). -/
def Reg.rimFields4 : List RegField :=
  [Reg.RTE_TBL_W.COUNT, Reg.RTE_TBL_W.LEAVES, Reg.RTE_TBL_W.DETOUR_EN, Reg.RTE_TBL_W.DETOUR,
   Reg.RTE_TBL_V.PORT0, Reg.RTE_TBL_V.PORT1, Reg.RTE_TBL_V.PORT2, Reg.RTE_TBL_V.PORT3,
   Reg.RTE_TBL_V.COUNT, Reg.RTE_TBL_V.LEAVES, Reg.RTE_TBL_V.DETOUR_EN, Reg.RTE_TBL_V.DETOUR,
   Reg.RTE_TBL_U.PORT0, Reg.RTE_TBL_U.PORT1, Reg.RTE_TBL_U.PORT2, Reg.RTE_TBL_U.PORT3,
   Reg.RTE_TBL_U.COUNT, Reg.RTE_TBL_U.LEAVES, Reg.RTE_TBL_U.DETOUR_EN, Reg.RTE_TBL_U.DETOUR,
   Reg.RTE_TBL_F.NEXT, Reg.RTE_TBL_F.ALT, Reg.RTE_TBL_F.VALID, Reg.RTE_TBL_F.LEAVES,
   Reg.RTE_TBL_F.ESC_EN, Reg.RTE_TBL_F.ESC_U, Reg.RTE_TABLE_CTL.SEAL, Reg.RTE_TABLE_CTL.AT_MARK,
   Reg.RTE_TABLE_CTL.VIEW, Reg.RTE_TABLE_STATUS.RESULT, Reg.RTE_TABLE_STATUS.TABLE, Reg.RTE_TABLE_STATUS.INDEX,
   Reg.RTE_TABLE_STATUS.SEALED, Reg.RTE_TABLE_STATUS.PENDING, Reg.RTE_TABLE_STATUS.GEN, Reg.RTE_TRANSIT_CTL.ANY,
   Reg.RTE_TRANSIT_CTL.PORTS, Reg.RTE_TRANSIT_IDS.ID, Reg.RTE_TRANSIT_IDS.VALID, Reg.RTE_DROP_CNT.NOROUTE]

/-- Part of the list of register fields of a field's rim (register offsets below the plot windows). -/
def Reg.rimFields5 : List RegField :=
  [Reg.RTE_DROP_CNT.TRANSIT, Reg.RTE_DROP_CNT.FOREIGN, Reg.RTE_DROP_CNT.MCAST_DROP, Reg.RTE_CONG_CTL.ENABLE,
   Reg.RTE_CONG_CTL.WINDOW_LOG, Reg.GWY_CLASS_CTL.NEAR_SCOPE, Reg.GWY_RETX_CTL.TIMEOUT, Reg.GWY_RETX_CTL.LIMIT,
   Reg.GWY_SOU_CTL.WINDOW, Reg.GWY_SOU_CTL.GRANT_MAX, Reg.GWY_SOU_STATUS.FREE, Reg.GWY_SOU_STATUS.FLOWS,
   Reg.GWY_SOU_STATUS.TOKEN_HELD, Reg.GWY_SOU_STATUS.TOKEN_SRC, Reg.GWY_SOU_STATUS.QUEUED, Reg.GWY_RED_CTL.RMODE,
   Reg.GWY_RED_CTL.OVF, Reg.GWY_RED_CTL.STREAM, Reg.GWY_RED_RELEASE.ALLOT, Reg.GWY_RED_STATUS.ENTRIES,
   Reg.GWY_RED_STATUS.FULL, Reg.GWY_RED_STATUS.DEFERS, Reg.GWY_ALLOT_HALT.ID, Reg.GWY_ALLOT_HALT.HALTED,
   Reg.GWY_FATAL_LOG.DST, Reg.GWY_FATAL_LOG.ALLOT, Reg.GWY_FATAL_LOG.VALID, Reg.GWY_FATAL_LOG.OP,
   Reg.GWY_FATAL_LOG.ADDR, Reg.GWY_FATAL_LOG.PLOT, Reg.GWY_STAT.RETX, Reg.GWY_STAT.UNREACHABLE,
   Reg.GWY_STAT.POISONED, Reg.GWY_STAT.DEFERS_SENT, Reg.GWY_STAT.DEFERS_RECV, Reg.GWY_STAT.ABSORBED,
   Reg.GWY_STAT.COMB_APPLIED, Reg.GWY_STAT.COMB_DISCARD, Reg.GWY_STAT.FLUSHES, Reg.RTE_COMB_STAT.MERGED]

/-- Part of the list of register fields of a field's rim (register offsets below the plot windows). -/
def Reg.rimFields6 : List RegField :=
  [Reg.RTE_COMB_STAT.PEAK, Reg.RTE_COMB_STAT.AGED, Reg.SHF_GROUP_CMD.OP, Reg.SHF_GROUP_CMD.SLOT,
   Reg.SHF_GROUP_CMD.ADDR, Reg.SHF_GROUP_STATUS.STATE, Reg.SHF_GROUP_STATUS.RESULT, Reg.SHF_GROUP_STATUS.GROUP_ID,
   Reg.SHF_GROUP_STATUS.EPOCH, Reg.SHF_GROUP_STATUS.NEXT_SEQ, Reg.SHF_GROUP_STATUS.DONE_SEQ, Reg.SHF_GROUP_STATUS.MEMBERS,
   Reg.SHF_GROUP_STATUS.HSET, Reg.SHF_GROUP_STATUS.SCRATCH_REQ, Reg.SHF_LATE_HIST.BUCKET, Reg.SHF_STAT.DONE,
   Reg.SHF_STAT.FAILED, Reg.SHF_STAT.FOLDED, Reg.SHF_STAT.SCRATCH_BYTES, Reg.SHF_STAT.RETX,
   Reg.SHF_STAT.STALE, Reg.SHF_STAT.PROTO_ERR, Reg.HLT_SCORE.SCORE, Reg.HLT_SCORE.EXPEL,
   Reg.HLT_SCORE.HARD, Reg.HLT_SCORE.INJECTED, Reg.HLT_SCORE.RUN, Reg.HLT_SCORE.SELF_PEN,
   Reg.HLT_SCORE.WINDOW, Reg.HLT_PEN.PEN, Reg.HLT_PEN.ATTR, Reg.HLT_REPORT_BASE.WRITE,
   Reg.HLT_REPORT_BASE.ADDR, Reg.MIR_SRC_CTL.ENABLE, Reg.MIR_SRC_CTL.DUAL, Reg.MIR_SRC_CTL.PARTNER0,
   Reg.MIR_SRC_CTL.PARTNER1, Reg.MIR_SRC_STATUS.STATE, Reg.MIR_SRC_STATUS.RESULT, Reg.MIR_SRC_STATUS.EPOCH]

/-- Part of the list of register fields of a field's rim (register offsets below the plot windows). -/
def Reg.rimFields7 : List RegField :=
  [Reg.MIR_SRC_STATUS.ACKED0, Reg.MIR_SRC_STATUS.ACKED1, Reg.MIR_SRC_STATUS.SKIPPED, Reg.MIR_SRC_STATUS.BREAKS,
   Reg.MIR_PART.ENABLE, Reg.MIR_PART.SOURCE, Reg.MIR_PART.COPY_BASE, Reg.MIR_PART.COPY_GRANULES,
   Reg.MIR_PART.BUF_BASE, Reg.MIR_PART.BUF_GRANULES, Reg.MIR_PART.JOURNAL_BASE, Reg.MIR_PART_STATUS.STATE,
   Reg.MIR_PART_STATUS.VALID, Reg.MIR_PART_STATUS.APPLYING, Reg.MIR_PART_STATUS.RESULT, Reg.MIR_PART_STATUS.COMMITTED,
   Reg.MIR_PART_STATUS.BUF_USED, Reg.MIR_PART_STATUS.DIGEST, Reg.MIR_LOAD_CTL.START, Reg.MIR_LOAD_CTL.ABORT,
   Reg.MIR_LOAD_CTL.ORIG, Reg.MIR_LOAD_CTL.SRC0, Reg.MIR_LOAD_CTL.SRC1, Reg.MIR_LOAD_CTL.EPOCH,
   Reg.MIR_LOAD_STATUS.STATE, Reg.MIR_LOAD_STATUS.USING_SRC1, Reg.MIR_LOAD_STATUS.RESULT, Reg.MIR_LOAD_STATUS.GRANULES,
   Reg.MIR_LOAD_STATUS.DIGEST, Reg.MIR_LOAD_STATUS.EPOCH, Reg.TLY_STATUS.STATE, Reg.TLY_STATUS.HOLD,
   Reg.TLY_STATUS.PARENT_LINK, Reg.TLY_STATUS.DIST, Reg.TLY_STATUS.ROOT_RANK, Reg.TLY_STATUS.ROOT,
   Reg.TLY_STATUS.PARENT, Reg.TLY_STATUS.RESULT, Reg.TLY_SERVO_CTL.KP_LOG, Reg.TLY_SERVO_CTL.KI_LOG]

/-- Part of the list of register fields of a field's rim (register offsets below the plot windows). -/
def Reg.rimFields8 : List RegField :=
  [Reg.TLY_SERVO_STAT.OFFSET, Reg.TLY_SERVO_STAT.DELAY, Reg.TLY_SERVO_STAT.F_TRIM, Reg.TLY_SERVO_STAT.OUTLIERS,
   Reg.TLY_SERVO_STAT.PARENT_CHANGES, Reg.TLY_ROOTS.ROOT0, Reg.TLY_ROOTS.ROOT1, Reg.TLY_ROOTS.ROOT2,
   Reg.TLY_ROOTS.VALID, Reg.TLY_MARK_CTL.ARMED, Reg.TLY_MARK_CTL.PERIOD, Reg.TLY_MARK_STAT.LAST,
   Reg.TLY_MARK_STAT.MISSED, Reg.TLY_MARK_STAT.RESULT, Reg.TLY_MARK_STAT.DONE_NS, Reg.TLY_MARK_STAT.DONE,
   Reg.TLY_EPOCH.SEC, Reg.TLY_EPOCH.FRAC, Reg.TLY_EPOCH.VALID, Reg.FLD_BOOT_STATUS.KAT_FAILED,
   Reg.FLD_BOOT_STATUS.RIM_KAT_FAIL, Reg.FLD_BOOT_STATUS.FETCHED, Reg.FLD_BOOT_STATUS.SOWN, Reg.FLD_BOOT_STATUS.REPAIRS,
   Reg.FLD_BOOT_STATUS.FW_FALLOW, Reg.FLD_EVT_RING.ENABLE, Reg.FLD_EVT_RING.SIZE_LOG, Reg.FLD_EVT_RING.BASE,
   Reg.FLD_EVT_IDX.PROD, Reg.FLD_EVT_IDX.CONS, Reg.FLD_EVT_IDX.LOST, Reg.FLD_EVT_FWD.COLLECTOR,
   Reg.FLD_EVT_FWD.CLASSES, Reg.FLD_EVT_FWD.DROPPED, Reg.THM_FIELD_STATUS.TMAX, Reg.THM_FIELD_STATUS.HOT_SENSOR,
   Reg.THM_FIELD_STATUS.RATE, Reg.THM_FIELD_STATUS.POINT, Reg.THM_FIELD_STATUS.DROPS, Reg.THM_FIELD_STATUS.THROTTLE]

/-- Part of the list of register fields of a field's rim (register offsets below the plot windows). -/
def Reg.rimFields9 : List RegField :=
  [Reg.THM_FIELD_STATUS.WARN, Reg.THM_FIELD_STATUS.TDUTY, Reg.THM_FIELD_STATUS.BROKEN, Reg.THM_EVT_CNT.WARNINGS,
   Reg.THM_EVT_CNT.DROPS, Reg.THM_EVT_CNT.THROTTLES, Reg.THM_EVT_CNT.SENSORS, Reg.INJ_PT.POINT,
   Reg.INJ_PT.TARGET, Reg.INJ_PT.ARG, Reg.INJ_PT.ARM, Reg.INJ_PT.DONE,
   Reg.INJ_PT.NOFIRE, Reg.FLD_ALLOT.ID, Reg.RTE_DISC_APPROVE.APPROVE, Reg.HLT_ENV_HINT.ENV,
   Reg.MIR_SRC_DEST.COPY_BASE, Reg.TLY_NOW.TALLY, Reg.TLY_MARK_NEXT.NEXT, Reg.FLD_APERTURE.BASE]

/-- Every register field of a field's rim (register offsets below the plot windows). -/
def Reg.rimFields : List RegField :=
  Reg.rimFields0 ++ Reg.rimFields1 ++ Reg.rimFields2 ++ Reg.rimFields3 ++ Reg.rimFields4 ++ Reg.rimFields5 ++ Reg.rimFields6 ++ Reg.rimFields7 ++ Reg.rimFields8 ++ Reg.rimFields9

/-- Part of the list of register fields of a plot window. -/
def Reg.plotFields0 : List RegField :=
  [Reg.PLT_TINE_STATUS.BUSY, Reg.PLT_TINE_STATUS.SHADOW_FULL, Reg.PLT_TINE_STATUS.LOAD_WAIT, Reg.PLT_TINE_STATUS.ROW_WAIT,
   Reg.PLT_TINE_COUNT.PASSES, Reg.PLT_TINE_COUNT.ROWS, Reg.PLT_TINE_STALL.LOAD_STALL, Reg.PLT_TINE_STALL.BIN_WAIT,
   Reg.PLT_WITNESS_LOG.COUNT, Reg.PLT_WITNESS_LOG.SKIPPED, Reg.PLT_WITNESS_LOG.VALID, Reg.PLT_WITNESS_LOG.TINE,
   Reg.PLT_WITNESS_LOG.BIN_ROW, Reg.PLT_WITNESS_LOG.LAYER_TAG, Reg.PLT_WITNESS_LOG.INJECTED, Reg.PLT_WITNESS_LOG.BOUNDED,
   Reg.PLT_CLASS_LO.NAN_IN, Reg.PLT_CLASS_LO.INF_IN, Reg.PLT_CLASS_LO.SAT_BLOCK, Reg.PLT_CLASS_LO.SAT_RANGE,
   Reg.PLT_CLASS_HI.UNDERFLOW, Reg.PLT_CLASS_HI.TERN_RESERVED, Reg.PLT_ID.INDEX, Reg.PLT_ID.PHYS_X,
   Reg.PLT_ID.PHYS_Y, Reg.PLT_DRILL_CTL.HOLD, Reg.PLT_DRILL_CTL.HALT_REQ, Reg.PLT_DRILL_CTL.RESUME,
   Reg.PLT_DRILL_STATUS.STATE, Reg.PLT_DRILL_STATUS.IN_TRAP, Reg.PLT_DRILL_STATUS.CAUSE, Reg.PLT_DRILL_STATUS.PC,
   Reg.PLT_QUEUE_STALL.FULL, Reg.PLT_QUEUE_STALL.CLAIM, Reg.PLT_STORE_ECC.CORRECTED, Reg.PLT_STORE_ECC.UNCORRECTED,
   Reg.PLT_STORE_ECC.LAST_ADDR, Reg.PLT_STORE_ECC.BANK_WAIT, Reg.PLT_CLOCK_STAT.STRETCHED, Reg.PLT_CLOCK_STAT.DROOP_TRIPS]

/-- Part of the list of register fields of a plot window. -/
def Reg.plotFields1 : List RegField :=
  [Reg.PLT_NOTIFY.VALUE, Reg.PLT_NOTIFY.LOST, Reg.PLT_DOORBELL.PENDING, Reg.PLT_DOORBELL_SET.PENDING,
   Reg.MBX_PLOT_IN_PTR.PTR, Reg.MBX_PLOT_IN_META.TAG, Reg.MBX_PLOT_IN_META.EPOCH, Reg.MBX_PLOT_IN_META.FULL,
   Reg.MBX_PLOT_IN_ACK.CODE, Reg.MBX_PLOT_ROLE.EPOCH, Reg.MBX_PLOT_OUT_PTR.PTR, Reg.MBX_PLOT_OUT_META.TAG,
   Reg.MBX_PLOT_OUT_META.EPOCH, Reg.MBX_PLOT_OUT_META.SEND, Reg.MBX_PLOT_OUT_META.PENDING, Reg.MBX_PLOT_OUT_META.REFUSED,
   Reg.MBX_PLOT_OUT_ACK.CODE, Reg.MBX_PLOT_OUT_ACK.DONE, Reg.PLT_CQ_POP.RECORD, Reg.PLT_CQ_STATUS.COUNT,
   Reg.PLT_CQ_STATUS.OVERFLOW, Reg.PLT_CQ_STATUS.LOST, Reg.PLT_CQ_STATUS.NEXT_QSN, Reg.PLT_CQ_STATUS.QUEUED,
   Reg.PLT_CQ_SUMMARY.CLASS_SEEN, Reg.PLT_CQ_SUMMARY.ERR, Reg.PLT_CQ_SUMMARY.ERR_QSN, Reg.PLT_CQ_SUMMARY.ERR_STATUS,
   Reg.PLT_TDR.BYTES, Reg.PLT_BOOT.IMAGE, Reg.PLT_BOOT.SOW, Reg.PLT_BOOT.NONE,
   Reg.PLT_BOOT.STATUS, Reg.PLT_BOOT.REPAIRS, Reg.PLT_BOOT.FAIL_BLOCK, Reg.PLT_WITNESS_PASS.PASS,
   Reg.PLT_TALLY.TALLY]

/-- Every register field of a plot window. -/
def Reg.plotFields : List RegField :=
  Reg.plotFields0 ++ Reg.plotFields1

end Sys2Proof.Machine
end

