-- ==== Sys2Proof/Machine/Sparse.lean ====
section
/-! DEFINITION. Sparse maps: lists of keyed entries with keys strictly rising, used for every
table of the machine whose objects are keyed by number (memories, register files, plots, link
and gateway tables). A key that is not listed reads as the map's default; a write of the default
removes the entry, so equal maps are equal lists. -/

namespace Sys2Proof.Machine

/-- A sparse map from natural keys. -/
abbrev SMap (α : Type) := List (Nat × α)

/-- The entry listed at a key. -/
def SMap.find {α : Type} : SMap α → Nat → Option α
  | [], _ => none
  | (k, v) :: t, j => if k = j then some v else SMap.find t j

/-- The value at a key: the entry, or the default d. -/
def SMap.get {α : Type} (m : SMap α) (d : α) (j : Nat) : α := (SMap.find m j).getD d

/-- The map with entry (j, v), in key order. -/
def SMap.insert {α : Type} : SMap α → Nat → α → SMap α
  | [], j, v => [(j, v)]
  | (k, x) :: t, j, v =>
    if j = k then (j, v) :: t
    else if j < k then (j, v) :: (k, x) :: t
    else (k, x) :: SMap.insert t j v

/-- The map without an entry at j. -/
def SMap.erase {α : Type} (m : SMap α) (j : Nat) : SMap α := m.filter (fun e => e.1 ≠ j)

/-- The map whose value at j is v, in canonical form for the default d. -/
def SMap.set {α : Type} [DecidableEq α] (m : SMap α) (d : α) (j : Nat) (v : α) : SMap α :=
  if v = d then SMap.erase m j else SMap.insert m j v

/-- Strictly rising keys. -/
def SMap.sorted {α : Type} : SMap α → Bool
  | [] => true
  | [_] => true
  | (k, _) :: (k', v') :: t => decide (k < k') && SMap.sorted ((k', v') :: t)

/-- Canonical form for the default d: keys strictly rising, no entry equal to the default. -/
def SMap.wf {α : Type} [DecidableEq α] (m : SMap α) (d : α) : Bool :=
  SMap.sorted m && m.all (fun e => decide (e.2 ≠ d))

/-- The keys listed. -/
def SMap.keys {α : Type} (m : SMap α) : List Nat := m.map Prod.fst

end Sys2Proof.Machine
end

