-- ==== Sys2Proof/Machine/TineMath.lean ====
section
/-! DEFINITION. What a tine computes, to the bit: pass classes (R85), element counts (R88), the
exact column sums and their lanes (R89 to R91), the pass conversion (R92), the bin add (R93),
class W16 (R94), the witness column (R115 to R120) and the scarecrow's reference (R128, R130). -/

namespace Sys2Proof.Machine

/-- The class of a pass (R85). -/
inductive PassClass where
  | w8 | w4 | w2 | w16
  deriving DecidableEq, Repr

/-- Largest K of a class (R85). -/
def PassClass.kMax : PassClass → Nat | .w8 => 32 | .w4 => 64 | .w2 => 128 | .w16 => 16

/-- Largest N of a class (R85). -/
def PassClass.nMax : PassClass → Nat | .w16 => 16 | _ => 32

/-- Multiply-accumulates per cell per cycle of the exact classes (R86). -/
def PassClass.macs : PassClass → Nat | .w4 => 2 | .w2 => 4 | _ => 1

/-- The class of an operand pair; none when the pair is not accepted (R85). -/
def passClass (a w : Fmt) : Option PassClass :=
  let fl := fun (f : Fmt) => f.elem.kind = ElemKind.float && decide (f.elem.width ≤ 8)
  let it := fun (f : Fmt) => (f.elem.kind != ElemKind.float) && decide (f.elem.width ≤ 8)
  if fl a && fl w then
    if a.elem.width = 4 ∧ w.elem.width = 4 then some .w4 else some .w8
  else if it a && it w then
    if a.elem.width = 8 ∨ w.elem.width = 8 then some .w8
    else if a.elem.width = 2 ∧ w.elem.width = 2 then some .w2 else some .w4
  else if (a.elem = fmtBF16 ∧ w.elem = fmtBF16) ∨ (a.elem = fmtFP16 ∧ w.elem = fmtFP16) then some .w16
  else none

/-- Whether the lanes of a W8 pair are joined (R90). -/
def passJoined (cls : PassClass) (a w : Fmt) : Bool :=
  let e8 := fun (f : Fmt) => f.elem = fmtE4M3 || f.elem = fmtE5M2
  cls = .w8 && e8 a && e8 w && (a.elem = fmtE5M2 || w.elem = fmtE5M2)

/-- Weight exponent u of one count of an element (R88). -/
def Fmt.u (f : Fmt) : Int :=
  if f.gfp then -4
  else match f.elem.kind with
    | .float => 1 - f.elem.bias - f.elem.mbits
    | .mxint => -6
    | _ => 0

/-- What an operand element brings to a product: its integer count, or a non-finite kind
(R88, R91). -/
structure PElem where
  n : Int
  isNaN : Bool
  isInf : Bool
  neg : Bool
  deriving DecidableEq, Repr

/-- The zero the tine inserts itself (R86). -/
def PElem.zero : PElem := ⟨0, false, false, false⟩

/-- Whether an element is an infinity or NaN code or belongs to a block of scale 0xFF. -/
def PElem.nonFinite (x : PElem) : Bool := x.isNaN || x.isInf

/-- One element as stored, with the scale and sub-shift bytes of its block (127 and 0 for a scalar
format) and its position in the block. -/
def pElem (f : Fmt) (scale shifts i code : Nat) : PElem :=
  if f.block && scale = 0xFF then ⟨0, true, false, false⟩
  else
    match (decodeElem f.elem code).1 with
    | .nan => ⟨0, true, false, false⟩
    | .inf s => ⟨0, false, true, s⟩
    | .fin s m e =>
      let sg : Nat := if f.gfp then bits shifts (2 * (i / 8)) 2 else 0
      let k : Nat := m <<< (e - f.u - sg).toNat
      ⟨if s then -(k : Int) else k, false, false, s⟩

/-- A vector of operand elements along the contraction: codes, and the scale and sub-shift bytes
of its blocks of 32. -/
structure OpVec where
  codes : List Nat
  scales : List Nat
  shifts : List Nat
  deriving DecidableEq, Repr

/-- The scale code of the half that holds index k; 127 for a scalar format (R90). -/
def OpVec.scaleAt (v : OpVec) (f : Fmt) (k : Nat) : Nat :=
  if f.block then v.scales.getD (k / 32) 127 else 127

/-- The elements of a vector, the first `len` of them (indices at or above K are zero, R86). -/
def OpVec.elems (v : OpVec) (f : Fmt) (len : Nat) : List PElem :=
  ((v.codes.take len).zipIdx).map (fun (c, k) =>
    pElem f (v.scaleAt f k) (v.shifts.getD (k / 32) 0) (k % 32) c)

/-- The exact values of a vector, scales included (R60, R128). -/
def OpVec.vals (v : OpVec) (f : Fmt) (len : Nat) : List Val :=
  ((v.codes.take len).zipIdx).map (fun (c, k) =>
    if f.block then (decodeBlockElem f (v.scaleAt f k) (v.shifts.getD (k / 32) 0) (k % 32) c).1
    else (decodeElem f.elem c).1)

/-- TERN_RESERVED reports of a vector (R56, R136). -/
def OpVec.ternReserved (v : OpVec) (f : Fmt) (len : Nat) : Nat :=
  if f.elem.kind = .tern then ((v.codes.take len).filter (fun c => c % 4 = 3)).length else 0

/-- The load of a tine (R719): the weight tile with its format, class, K and N, one vector per
column, the witness weights, and whether a weight byte read was uncorrected. -/
structure WLoad where
  sel : Nat
  cls : PassClass
  k : Nat
  n : Nat
  cols : List OpVec
  /-- ww[r][j] of R116 for the exact classes -/
  ww : List (List Int)
  /-- W[q] of R119 for class W16, FP32 patterns -/
  w16 : List Nat
  /-- a rounding of some W[q] reported a class other than NONE and UNDERFLOW (R120) -/
  w16Skip : Bool
  uncorrected : Bool
  /-- BF16 masters of each column as FP32 patterns, for weights quantised at the load (R128) -/
  masters : List (List Nat)
  /-- a bit flipped in one tine's witness weights (tine, cell row, bit) by WITNESS_WEIGHT (R144) -/
  flip : Option (Nat × Nat × Nat)
  deriving DecidableEq, Repr

/-- A list filled up to n entries with z. -/
def padTo {α : Type} (n : Nat) (z : α) (l : List α) : List α := l ++ List.replicate (n - l.length) z

/-! ### Sums (R90, R91) -/

/-- The exact sum of products of two element lists. -/
def dotN (a w : List PElem) : Int := ((a.zip w).map (fun (x, y) => x.n * y.n)).foldl (· + ·) 0

/-- Non-finite flags of one column and row (R91). -/
structure NfFlags where
  pos : Bool
  neg : Bool
  nan : Bool
  deriving DecidableEq, Repr

/-- The flags one product sets (R91): an infinity times zero is NaN, times a finite value other than zero an infinity;
infinity times infinity, which the rule's list does not name, sets no flag. -/
def prodFlags (x y : PElem) : NfFlags :=
  if x.isNaN || y.isNaN then ⟨false, false, true⟩
  else if x.isInf != y.isInf then
    if (if x.isInf then y.n else x.n) = 0 then ⟨false, false, true⟩
    else if x.neg != y.neg then ⟨false, true, false⟩ else ⟨true, false, false⟩
  else ⟨false, false, false⟩

/-- The flags of a column: the OR down the pass (R91). -/
def colFlags (a w : List PElem) : NfFlags :=
  (a.zip w).foldl (fun f (x, y) =>
    let g := prodFlags x y
    ⟨f.pos || g.pos, f.neg || g.neg, f.nan || g.nan⟩) ⟨false, false, false⟩

/-- A product that sets a flag adds 0: elements that are not finite count as 0 (R91). -/
def lanesOf (cls : PassClass) (joined : Bool) (a w : List PElem) : Nat × Nat :=
  let (sa, sb) : Int × Int :=
    if cls = .w4 then (dotN (a.take 32) (w.take 32), dotN (a.drop 32) (w.drop 32)) else (dotN a w, 0)
  if joined then (ofSigned 48 sa, ofSigned 48 (sa / (2 ^ 48 : Nat)))
  else (ofSigned 48 sa, ofSigned 48 sb)

/-- pass_to_fp32 of R92. The lanes are 48-bit patterns. -/
def passToFP32 (la lb : Nat) (ea eb : Int) (joined : Bool) (fl : NfFlags) (nonsat : Bool) :
    Nat × Cls :=
  if fl.nan || (fl.pos && fl.neg) then (0x7FC00000, clsNaNIn)
  else if fl.pos || fl.neg then
    (if nonsat then infinityCode fmtFP32 fl.neg else largestFinite fmtFP32 fl.neg, clsInfIn)
  else
    let a := toSigned 48 la
    let b := toSigned 48 lb
    let v : Int × Int :=
      if joined then (b * (2 ^ 48 : Nat) + (la % 2 ^ 48 : Nat), ea)
      else if b = 0 then (a, ea)
      else if a = 0 then (b, eb)
      else
        let (hi, ehi, lo, elo) : Int × Int × Int × Int :=
          if ea < eb then (b, eb, a, ea) else (a, ea, b, eb)
        let (lo, elo) : Int × Int := if 104 < ehi - elo then (lo.sign, ehi - 57) else (lo, elo)
        (hi * (2 ^ (ehi - elo).toNat : Nat) + lo, elo)
    if v.1 = 0 then (0, clsNone)
    else roundTo (decide (v.1 < 0)) v.1.natAbs v.2 fmtFP32 rmRNE nonsat 0

/-- An FP32 add of exact values rounded once, with the special values of R93. -/
def addRound (a b : Val) (nonsat : Bool) : Nat × Cls :=
  if a.isNaN || b.isNaN then (0x7FC00000, clsNaNIn)
  else
    match Val.add a b with
    | .nan => (0x7FC00000, clsInfIn)
    | .inf s => (if nonsat then infinityCode fmtFP32 s else largestFinite fmtFP32 s, clsInfIn)
    | .fin s m e => roundTo s m e fmtFP32 rmRNE nonsat 0

/-- One multiply-add rounded once: ps + a × w (R94, R130). A NaN product of an infinity and a zero
reports NAN_IN. -/
def macRound (ps : Nat) (a w : Val) (nonsat : Bool) : Nat × Cls :=
  addRound (fp32Val ps) (Val.mul a w) nonsat

/-! ### Witness weights (R116, R119) -/

/-- ww[r][j] for cell row r: the sum over the 32 columns of the weights at index 32 j + r (R116). -/
def witnessWeights (cls : PassClass) (f : Fmt) (k : Nat) (cols : List OpVec) : List (List Int) :=
  let es := cols.map (fun c => c.elems f k)
  (List.range 32).map (fun r => (List.range cls.macs).map (fun j =>
    (es.map (fun e => ((e.getD (32 * j + r) PElem.zero).n))).foldl (· + ·) 0))

/-- W[q] of R119 and the class its rounding reports. -/
def witnessW16 (ws : List Val) : Nat × Cls :=
  if ws.any Val.isNaN then (0x7FC00000, clsNaNIn)
  else
    match ws.foldl Val.add (Val.fin true 0 0) with
    | .nan => (0x7FC00000, clsInfIn)
    | .inf s => (largestFinite fmtFP32 s, clsInfIn)
    | .fin s m e => roundTo s m e fmtFP32 rmRNE false 0

/-- The load formed from a weight tile (R100, R116, R119). -/
def WLoad.make (sel : Nat) (f : Fmt) (cls : PassClass) (k n : Nat) (cols : List OpVec)
    (uncorr : Bool) (masters : List (List Nat)) : WLoad :=
  let w16 : List (Nat × Cls) :=
    if cls = .w16 then
      (List.range 16).map (fun q => witnessW16 (((List.range 16).map (fun c =>
        (((cols.getD c ⟨[], [], []⟩).vals f k).getD q (Val.fin false 0 0))))))
    else []
  { sel := sel, cls := cls, k := k, n := n, cols := cols,
    ww := if cls = .w16 then [] else witnessWeights cls f k cols,
    w16 := w16.map Prod.fst,
    w16Skip := w16.any (fun x => x.2 ≠ clsNone && x.2 ≠ clsUnderflow),
    uncorrected := uncorr, masters := masters, flip := none }

/-- The load before the first FRESH pass after a reset: every weight zero (R99, R719). -/
def WLoad.empty (sel : Nat) (cls : PassClass) : WLoad :=
  { sel := sel, cls := cls, k := 0, n := 0, cols := [],
    ww := (List.range 32).map (fun _ => List.replicate cls.macs 0),
    w16 := List.replicate 16 0, w16Skip := false, uncorrected := false,
    masters := [], flip := none }

/-- The load as tine t holds it: its witness weights with the flipped bit, if that is its tine
(R144, point 2). -/
def WLoad.forTine (w : WLoad) (t : Nat) : WLoad :=
  match w.flip with
  | some (ft, r, b) =>
    if ft ≠ t then w
    else if w.cls = .w16 then { w with w16 := w.w16.set (r / 2) ((w.w16.getD (r / 2) 0) ^^^ 2 ^ b) }
    else
      let row := w.ww.getD r []
      { w with ww := w.ww.set r (row.set 0 (toSigned 40 (ofSigned 40 (row.getD 0 0) ^^^ 2 ^ b))) }
  | none => w

/-! ### One activation row -/

/-- Witness outcome of a row (R117, R120). -/
inductive WitOutcome where
  | match | skipped | mismatch | notCompared
  deriving DecidableEq, Repr

/-- What one activation row of a pass yields: the pass result and class of each column, and the
witness outcome. -/
structure RowOut where
  res : List (Nat × Cls)
  wit : WitOutcome
  deriving DecidableEq, Repr

/-- A bit flip of a column's lane (column, lane B?, bit), the injection point WITNESS_LANE (R144). -/
abbrev LaneFlip := Option (Nat × Bool × Nat)

/-- The weight columns 0 to 31 of a load as elements; columns at or above N are zero (R86). -/
def WLoad.colElems (w : WLoad) (f : Fmt) : List (List PElem) :=
  (List.range 32).map (fun c =>
    padTo w.cls.kMax PElem.zero ((w.cols.getD c ⟨[], [], []⟩).elems f w.k))

/-- wnf[r] for some row r that holds an index k < K of the pass (R116, R117). -/
def WLoad.wnfRow (w : WLoad) (cols : List (List PElem)) (kPass : Nat) : Bool :=
  (List.range 32).any (fun r =>
    decide (r < kPass) &&
    cols.any (fun e => (List.range w.cls.macs).any (fun j =>
      (e.getD (32 * j + r) PElem.zero).nonFinite)))

/-- One row of an exact-class pass: R90 to R92 for every column and R117 for the witness. -/
def exactRow (fa fw : Fmt) (w : WLoad) (act : OpVec) (kPass : Nat) (nonsat active : Bool)
    (flip : LaneFlip) : RowOut :=
  let joined := passJoined w.cls fa fw
  let a := padTo w.cls.kMax PElem.zero (act.elems fa kPass)
  let cols := w.colElems fw
  let ea := fun (c h : Nat) => fa.u + fw.u + ((act.scaleAt fa (32 * h) : Int) - 127) +
    ((((w.cols.getD c ⟨[], [], []⟩).scaleAt fw (32 * h)) : Int) - 127)
  let laneCols := (cols.zipIdx).map (fun (e, c) =>
    let l := lanesOf w.cls joined a e
    let l := match flip with
      | some (fc, laneB, b) =>
        if fc = c then (if laneB then (l.1, l.2 ^^^ 2 ^ b) else (l.1 ^^^ 2 ^ b, l.2)) else l
      | none => l
    (l, colFlags a e))
  let res := (laneCols.zipIdx).map (fun ((l, fl), c) =>
    passToFP32 l.1 l.2 (ea c 0) (ea c 1) joined fl nonsat)
  let wsum := fun (lo hi : Nat) => ((List.range kPass).map (fun k =>
    if lo ≤ k ∧ k < hi then (a.getD k PElem.zero).n * ((w.ww.getD (k % 32) []).getD (k / 32) 0)
    else 0)).foldl (· + ·) 0
  let (wa, wb) : Int × Int := if w.cls = .w4 then (wsum 0 32, wsum 32 64) else (wsum 0 128, 0)
  let ca := (laneCols.map (fun (l, _) =>
    if joined then toSigned 48 l.2 * (2 ^ 48 : Nat) + (l.1 : Int) else toSigned 48 l.1)).foldl (· + ·) 0
  let cb := if w.cls = .w4 then (laneCols.map (fun (l, _) => toSigned 48 l.2)).foldl (· + ·) 0 else 0
  let wnf := w.wnfRow cols kPass || a.any PElem.nonFinite
  let cnf := laneCols.any (fun (_, fl) => fl.pos || fl.neg || fl.nan)
  let wit : WitOutcome :=
    if !active then .notCompared
    else if wnf then .skipped
    else if !cnf && decide (ca = wa) && decide (cb = wb) then .match
    else .mismatch
  ⟨res, wit⟩

/-- The chain of roundings of one W16 column: the partial sums after each quad row, the last one,
and the class of each rounding (R94). -/
def w16Chain (a w : List Val) (nonsat : Bool) : Nat × List Nat × List Cls :=
  (a.zip w).foldl (fun (ps, hist, cs) (x, y) =>
    let (p, c) := macRound ps x y nonsat
    (p, p :: hist, c :: cs)) (0, [], [])

/-- The largest floor(log2|x|) over nonzero finite values, at least -126 (R119). -/
def w16E (xs : List Val) : Int :=
  xs.foldl (fun e x => if x.isNaN || x.isInf || x.isZero then e else max e x.ilog2) (-126)

/-- |a − b| ≤ 2^k for finite values, exactly (R120). -/
def withinPow (a b : Val) (k : Int) : Bool :=
  match Val.add a b.neg with
  | .fin _ m e =>
    let e0 := min e k
    decide (m <<< (e - e0).toNat ≤ 1 <<< (k - e0).toNat)
  | _ => false

/-- One row of a W16 pass: R94 for the columns and R119, R120 for the witness. -/
def w16Row (fa fw : Fmt) (w : WLoad) (act : OpVec) (kPass : Nat) (nonsat active : Bool)
    (flip : LaneFlip) : RowOut :=
  let av := act.vals fa kPass
  let cols := (List.range 16).map (fun c =>
    padTo 16 (Val.fin false 0 0) ((w.cols.getD c ⟨[], [], []⟩).vals fw w.k))
  let chains := cols.map (fun c => w16Chain av c nonsat)
  let finals := (chains.zipIdx).map (fun (ch, c) =>
    match flip with
    | some (fc, _, b) => if fc / 2 = c then ch.1 ^^^ 2 ^ b else ch.1
    | none => ch.1)
  let ww := w.w16.map fp32Val
  let wch := w16Chain av ww false
  let res := (chains.zip finals).map (fun (ch, p) => (p, (ch.2.2).foldl clsJoin clsNone))
  let skip := w.w16Skip || (wch :: chains).any (fun ch =>
    ch.2.2.any (fun k => k ≠ clsNone && k ≠ clsUnderflow))
  let fin := fun (p : Nat) => !(fp32Val p).isNaN && !(fp32Val p).isInf
  let prods := (cols.flatMap (fun c => (av.zip c).map (fun (x, y) => Val.mul x y))) ++
    (av.zip ww).map (fun (x, y) => Val.mul x y)
  let parts := ((wch :: chains).flatMap (fun ch => ch.2.1)).map fp32Val
  let e := w16E (prods ++ parts)
  let s := (finals.map fp32Val).foldl Val.add (Val.fin false 0 0)
  let wit : WitOutcome :=
    if !active then .notCompared
    else if skip then .skipped
    else if (wch.1 :: finals).all fin && withinPow (fp32Val wch.1) s (e - 14) then .match
    else .mismatch
  ⟨res ++ List.replicate 16 (0, clsNone), wit⟩

/-- One activation row of a pass of any class. -/
def passRow (fa fw : Fmt) (w : WLoad) (act : OpVec) (kPass : Nat) (nonsat active : Bool)
    (flip : LaneFlip) : RowOut :=
  match w.cls with
  | .w16 => w16Row fa fw w act kPass nonsat active flip
  | _ => exactRow fa fw w act kPass nonsat active flip

/-- The value written to a bin word in ACCUMULATE mode (R93). -/
def binAdd (old res : Nat) (nonsat : Bool) : Nat × Cls := addRound (fp32Val old) (fp32Val res) nonsat

/-! ### The scarecrow's reference and bucket (R130) -/

/-- The bucket of a sample and its e, none where the sample has no e (R130). -/
def sampleBucket (p : Nat) (am wm : List Nat) : Nat × Option Int :=
  let ref := (am.zip wm).foldl (fun r (x, y) => (macRound r (fp32Val x) (fp32Val y) true).1) 0
  let diff := (addRound (fp32Val p) (fp32Val ref).neg true).1
  let d := fp32Val diff
  let rv := fp32Val ref
  let bad := fun (v : Val) => v.isNaN || v.isInf
  if d.isZero then (0, none)
  else if rv.isZero || bad (fp32Val p) || bad rv || bad d then (15, some (-2))
  else
    let e := d.ilog2 - rv.ilog2
    let b := clampInt (e + 17) 1 15
    (b.toNat, some (if b = 15 then -2 else e))

end Sys2Proof.Machine
end

