-- ==== Sys2Proof/Machine/State.lean ====
section
/-! DEFINITION. The state of the block as plain data: the hub, four fields with their rims, plots
and memories, the queue of waiting commands, and what has been sent out of the block. -/

namespace Sys2Proof.Machine

open Sys2Proof

/-- Faults of a step. The spec gives every command of the block an effect, so no meaning faults. -/
inductive Fault where
  /-- Raised by nothing; it stands so that the type of faults has a name. Safe. -/
  | none
  deriving DecidableEq, Repr

/-- Refusals of a step. -/
inductive Refusal where
  /-- Raised by the arms of exec whose command has no meaning yet, with its mnemonic. Safe. -/
  | notModelled (mnemonic : String)
  deriving DecidableEq, Repr

/-! ### Plots -/

/-- Drill states (R178). -/
inductive DrillState where
  | held | running | waiting | halted | faulted
  deriving DecidableEq, Repr

/-- What a drill in WAITING waits for (R151, R202): nothing, an interrupt, or queue entries up to
a QSN, with the register that receives the count. -/
inductive DrillWait where
  | none
  | wfi
  | twait (rd : Nat) (qsn : Nat)
  deriving DecidableEq, Repr

/-- A drill (R148 to R151): integer registers, pc, CSRs, execution state. -/
structure Drill where
  xr : SMap Nat
  pc : Nat
  st : DrillState
  wait : DrillWait
  inTrap : Bool
  faultCause : Nat
  haltPc : Nat
  resumePc : Nat
  haltReq : Bool
  mie : Bool
  mpie : Bool
  mtvec : Nat
  mepc : Nat
  mcause : Nat
  mtval : Nat
  mscratch : Nat
  mieReg : Nat
  mcycle : Nat
  minstret : Nat
  /-- the 64-byte fetch buffer: its block's address, and the halfwords fetched into it (R149) -/
  fetchBase : Nat
  fetchBuf : SMap Nat
  deriving DecidableEq, Repr

/-- A claim (R153): a read or write over plot-local lines lo to hi. -/
structure Claim where
  write : Bool
  lo : Nat
  hi : Nat
  deriving DecidableEq, Repr

/-- A queued instruction with what it captured at issue (R192, R194). Descriptors are their
512-bit values, byte 0 lowest. -/
inductive QOp where
  | tmm (desc mod : Nat)
  | tvec (desc mod : Nat)
  | txfer (desc : Nat)
  | tfence
  | tscdrain
  | trfence (operand : Nat)
  deriving DecidableEq, Repr

/-- Progress of a queued instruction. -/
inductive QPhase where
  /-- issued, not started -/
  | waiting
  /-- FRESH pass whose weights stand in the shadow registers (R100) -/
  | loaded
  /-- started: a pass in flight, a transfer in progress, a started sync -/
  | running
  /-- a vector instruction whose result bytes are all written, or a fence whose answer has come -/
  | done
  deriving DecidableEq, Repr

/-- One entry of the tile-operation queue (R155, R194). -/
structure QEntry where
  qsn : Nat
  tag : Nat
  int : Bool
  op : QOp
  seed : Nat
  step : Nat
  /-- FLD_DRIFT_CTL as sampled at issue (R133) -/
  drift : Nat
  claims : List Claim
  phase : QPhase
  /-- CLASS_SEEN mask so far (R136) -/
  classSeen : Nat
  uncorrected : Bool
  binPoisoned : Bool
  modeNA : Bool
  /-- class reports an injection adds at completion (R144, point 6): class code, 0 none -/
  injClass : Nat
  /-- pass in flight: mismatched rows as (tine, bin row), and rows this pass poisons anyway -/
  mism : List (Nat × Nat)
  /-- pass in flight: rows that ran without MISMATCH, as (tine, bin row) -/
  clean : List (Nat × Nat)
  /-- pass in flight: rows poisoned for uncorrected operand bytes (R158) -/
  badRows : List (Nat × Nat)
  /-- the first mismatch of the pass was caused by an injection point -/
  mismInjected : Bool
  /-- PLT_TINE_COUNT.PASSES number the pass will have at retirement, used by the event (R121) -/
  passNo : Nat
  /-- transfer: lines issued, lines outstanding, failed lines with their status, lines whose local
  read made a substitution -/
  issued : Nat
  outstanding : List Nat
  fails : List (Nat × Nat)
  /-- fence: the status the gateway returned (R418) -/
  fenceStatus : Nat
  deriving DecidableEq, Repr

/-- A scarecrow sample (R129): the pass result, the masters of its row and column as FP32
patterns, its layer tag, and whether an injection changed it. -/
structure Sample where
  p : Nat
  am : List Nat
  wm : List Nat
  tag : Nat
  th : Nat
  injected : Bool
  deriving DecidableEq, Repr

/-- The tines of a plot (R83, R719): the load in the active registers, the load waiting in the
shadow registers, and whether the plot is dormant or holds a start token (R634). -/
structure TineUnit where
  active : Option WLoad
  shadow : Option WLoad
  /-- QSN of the pass whose load stands in the shadow -/
  shadowFor : Nat
  dormant : Bool
  /-- a stop token has been granted (R634) -/
  stopTok : Bool
  ballast : Nat
  /-- plot cycles in which a row of a tile operation entered a tine (R487) -/
  busy : Nat
  deriving DecidableEq, Repr

/-- The boot ROM's working state (R574): whether it runs, the blocks still to fetch, the attempts made on the first of
them, and whether the blocks it fetches repair a sown image. -/
structure BootUnit where
  active : Bool
  todo : List Nat
  tries : Nat
  repair : Bool
  deriving DecidableEq, Repr

def BootUnit.reset : BootUnit where
  active := false
  todo := []
  tries := 0
  repair := false

/-- A mailbox endpoint's inbound slot (R615, R616): free, claimed by a sender's notice not yet
delivered, or delivered and not yet acknowledged. `live` is false once the sender's domain has been
reset, so that the acknowledgement is discarded on arrival (R619). -/
inductive MbxSlot where
  | free
  | claimed (sender : MbxEp) (live : Bool) (ptr tag epoch : Nat)
  | delivered (sender : MbxEp) (live : Bool)
  deriving DecidableEq, Repr

/-- A line request of a transfer in progress (R169) that is on its way over the mesh: to its own field's
memory, or to the gateway. `op` is the descriptor's OP, `axis` the axis of a multicast. `gone`: a partition reset has taken
the plot that awaited it (R187). -/
structure XLine where
  qsn : Nat
  line : Nat
  op : Nat
  dst : Nat
  addr : Nat
  loc : Nat
  typ : Nat
  operand : Nat
  mask : Nat
  axis : Nat
  data : List Byte
  poisoned : Bool
  gone : Bool
  deriving DecidableEq, Repr

/-- A plot, less its memories. -/
structure Plot where
  regs : SMap Nat
  drill : Drill
  dr : SMap Nat
  nextQsn : Nat
  queue : List QEntry
  cq : List Nat
  tine : TineUnit
  scnt : Nat
  samples : List Sample
  scrub : Nat
  notify : Option Nat
  /-- line requests under way, oldest first, and the QSN whose line was issued last -/
  xlines : List XLine
  xlast : Nat
  boot : BootUnit
  slot : MbxSlot
  deriving DecidableEq, Repr

/-! ### Memories -/

/-- Every addressed RAM of the package, each as a sparse map whose unlisted addresses read 0:
HBM bytes and half-line error codes per field, plot stores (key: plot × 4 MiB + local address)
with error codes per 64-bit word, bins (key ((plot × 4 + tine) × 512 + row) × 32 + column) with
error codes per word and poison bits per row, and the hub SRAM.

Error codes: 0 none, 1 correctable, 2 uncorrectable, 3 poison syndrome; plus 4 when an injection
point made the error (R145). -/
structure Memories where
  hbm : Vector (SMap Byte) 4
  hbmErr : Vector (SMap Nat) 4
  store : Vector (SMap Byte) 4
  storeErr : Vector (SMap Nat) 4
  bin : Vector (SMap Nat) 4
  binErr : Vector (SMap Nat) 4
  binPoison : Vector (SMap Bool) 4
  sram : SMap Byte
  deriving DecidableEq, Repr

/-! ### Field memory and mesh -/

/-- A resident line of the hot-line absorber (R422): its 128 bytes and the poison of each half. -/
structure AbsLine where
  line : Nat
  data : List Byte
  poisonLo : Bool
  poisonHi : Bool
  deriving DecidableEq, Repr

/-- A write waiting on a RES granule (R246): its line, the runs of bytes it writes (offset, bytes), whether it came marked
poisoned, its source (R238). -/
structure HeldWrite where
  line : Nat
  runs : List (Nat × List Byte)
  poisoned : Bool
  src : Nat
  deriving DecidableEq, Repr

/-- A row of HBM (R242): stack, channel, pseudo-channel, bank, row. -/
structure HbmRow where
  stack : Nat
  channel : Nat
  pch : Nat
  bank : Nat
  row : Nat
  deriving DecidableEq, Repr

/-- A mirror region in force (R247, R258): first granule and granule count. -/
structure MirRegion where
  enable : Bool
  base : Nat
  size : Nat
  deriving DecidableEq, Repr

/-- A mesh multicast under way (R253): whether it names a row or a column, which one, the mask,
the bytes carried, and the count of copies delivered. -/
structure Multicast where
  isRow : Bool
  index : Nat
  mask : Nat
  copies : Nat
  deriving DecidableEq, Repr

/-- The HBM controllers, absorber, mirror planes, scrub and remap of a field. -/
structure FieldMem where
  lost0 : Bool
  lost1 : Bool
  absorber : List AbsLine
  /-- rows with their corrected-error counts, least recent first (R242) -/
  rowTab : List (HbmRow × Nat)
  cur : SMap Bool
  res : SMap Bool
  regions : List MirRegion
  held : List HeldWrite
  scrub : SMap Nat
  /-- yield remap fuse table and seed overlay, one bit per physical plot (R248) -/
  fuse : Nat
  overlay : Nat
  /-- fallow mask of the remap in effect -/
  remap : Nat
  mcasts : List Multicast
  deriving DecidableEq, Repr

/-! ### Arithmetic safeguards of the rim -/

/-- A layer record of the drift table (R131, R132). `maxE` is none when no sample has an e. -/
structure DriftRec where
  samples : Nat
  dropped : Nat
  maxE : Option Int
  buckets : List Nat
  classes : List Nat
  mismatch : Nat
  skipped : Nat
  event : Bool
  deriving DecidableEq, Repr

/-- The drift table of a field (R131). -/
structure DriftTable where
  recs : SMap DriftRec
  unrecorded : Nat
  fullEvent : Bool
  deriving DecidableEq, Repr

/-! ### Lanes and light -/

/-- A calibration slot in progress (R271, R278): the wavelength, the slot it carried, the fallow
lane that carries that slot meanwhile, and whether the slot is the retry of a failed wavelength. -/
structure CalSlot where
  wave : Nat
  slot : Option Nat
  spare : Option Nat
  retry : Bool
  deriving DecidableEq, Repr

/-- The transmit direction of a port (R270 to R278): the wavelength of each slot, the slots out of
the stripe, failed wavelengths, the fallow lane, the slot in progress, wavelengths by age of their
last calibration, slots started in the rotation and whether one ran degraded, slots since the last
retry, and failed retries per wavelength. -/
structure LaneTx where
  map : List Nat
  out : Nat
  failed : Nat
  fallow : Nat
  cal : Option CalSlot
  order : List Nat
  run : Nat
  degr : Bool
  sinceRetry : Nat
  retries : SMap Nat
  deriving DecidableEq, Repr

/-- A change of the lane map or mode under way at a receiver (R318). -/
inductive LaneChange where
  | map (slot wave : Nat)
  | mode (m : Nat)
  deriving DecidableEq, Repr

/-- The receive direction of a port: the map it stripes by, slots out, failed wavelengths with the
reason of each, the fallow lane, the wavelength whose drop ring is being scanned, the pending change,
and the last ten power measurements, newest first. -/
structure LaneRx where
  map : List Nat
  out : Nat
  failed : Nat
  reasons : SMap Nat
  fallow : Nat
  cal : Option Nat
  pending : Option LaneChange
  power : List (List Nat)
  deriving DecidableEq, Repr

/-- Lanes after a cold reset (R270): slot s on wavelength s, the last wavelength fallow. -/
def LaneTx.init (slots waves : Nat) : LaneTx where
  map := List.range slots
  out := 0
  failed := 0
  fallow := waves - 1
  cal := none
  order := List.range waves
  run := 0
  degr := false
  sinceRetry := 16
  retries := []

def LaneRx.init (slots waves : Nat) : LaneRx where
  map := List.range slots
  out := 0
  failed := 0
  reasons := []
  fallow := waves - 1
  cal := none
  pending := none
  power := []

/-- A queued switchover (R282, R286): engine 0 to 16 (16 the host engine), target source, whether it
waits for a boundary mark, and whether the margin conditions of R282 apply, with CRITICAL. -/
structure SwReq where
  engine : Nat
  target : Nat
  atMark : Bool
  auto : Bool
  critical : Bool
  /-- an injection point called for it (R698) -/
  injected : Bool
  /-- the boundary mark it waits for has come (R283, R528) -/
  due : Bool
  deriving DecidableEq, Repr

/-- What Yarzin keeps of the light (R281 to R289): queued switchovers, the run under way and its
engine in pause, the time of the last BIAS_SET of each module plus one, since when each module is
NORMAL and when engines were last switched away from it, unanswered reads in a row, whether LASER_EN
is asserted, and the host engine's shutter. `runEngines`: the engines of the run under way, until its last has ended
its pause (R284); `oldSrc`: the source the engine in pause ran on; `injMargin`, `injDark`: modules whose margin, and engines
whose darkness, an injection point caused (R698), one bit each. -/
structure LightUnit where
  queue : List SwReq
  run : List SwReq
  runEngines : List Nat
  active : Option SwReq
  oldSrc : Nat
  biasAt : SMap Nat
  normalSince : SMap Nat
  leftAt : SMap Nat
  missed : SMap Nat
  laserEn : Bool
  hostOpen : Bool
  hostApr : Bool
  injMargin : Nat
  injDark : Nat
  /-- the host-light step has begun since the last cold reset: the hub may send to the modules (R290) -/
  awake : Bool
  deriving DecidableEq, Repr

def LightUnit.reset : LightUnit where
  queue := []
  run := []
  runEngines := []
  active := none
  oldSrc := 0
  biasAt := []
  normalSince := []
  leftAt := []
  missed := []
  laserEn := true
  hostOpen := false
  hostApr := false
  injMargin := 0
  injDark := 0
  awake := false

/-! ### Ebcen links -/

/-- Whether and why a port's transmitter sends no flits (R319, R321): a mode change before and after
its IDLE groups begin, a light pause. -/
inductive TxStop where
  | none
  | relock
  | idle
  | pause
  deriving DecidableEq, Repr

/-- A group as it is sent (R310 to R313): its GROUP, the lane mode, the slot each of the sixteen wavelengths carries (0xF:
none), the marks and CTL field of its headers, and its flit stream: the bytes it begins in, less `skip` bits. -/
structure Group where
  number : Nat
  mode : Nat
  slots : List Nat
  switch : Bool
  start : Bool
  ctl : Nat
  idle : Bool
  skip : Nat
  data : List Byte
  deriving DecidableEq, Repr

/-- The codewords of a transmit direction: the GROUP sent next, the CTL fields left of the message under way, the messages
that wait for CTL in their order (R315, R317), the flit bytes in no group yet, the first byte's bits already sent, and the
map the groups stripe by, which follows the lane map at each SWITCH group (R312, R318). -/
structure CodeTx where
  group : Nat
  quarters : List Nat
  queue : List (Nat × Nat)
  stream : List Byte
  skip : Nat
  map : List Nat
  out : Nat
  deriving DecidableEq, Repr

/-- The codewords of a receive direction: the GROUP expected next, the CTL fields of the message each wavelength is
assembling (R315), and the stream bits of a flit not yet whole, first bit lowest (R312). -/
structure CodeRx where
  group : Nat
  parts : SMap (List Nat)
  bits : Nat
  length : Nat
  deriving DecidableEq, Repr

/-- Codewords after a reset: the first group has GROUP 0. -/
def CodeTx.init (map : List Nat) (out : Nat) : CodeTx where
  group := 0
  quarters := []
  queue := []
  stream := []
  skip := 0
  map := map
  out := out

def CodeRx.init : CodeRx where
  group := 0
  parts := []
  bits := 0
  length := 0

/-- A DATA flit in the replay buffer (R329), with the count of times it has been sent. -/
structure HeldFlit where
  seq : Nat
  vc : Nat
  pool : Bool
  start : Nat
  payload : List Byte
  sends : Nat
  deriving DecidableEq, Repr

/-- A flit buffer in use at a receiver (R331): its pool, the payload bytes the router has not taken, and the stamp of the flit's
arrival (R519). -/
structure BufFlit where
  pool : Bool
  data : List Byte
  at_ : Nat
  deriving DecidableEq, Repr

/-- A packet, or what is left of one, waiting at a port's transmitter; `combined`: it has left a combining slot, and enters
none again (R427). -/
structure TxPacket where
  fresh : Bool
  combined : Bool
  data : List Byte
  deriving DecidableEq, Repr

/-- Arbitration of a transmitter among its channels (R334): tokens of VC0 and VC5 with the slots counted towards the next,
deficits, and cur. -/
structure Arb where
  tok0 : Nat
  tok5 : Nat
  div0 : Nat
  div5 : Nat
  deficit : SMap Nat
  cur : Nat
  deriving DecidableEq, Repr

def Arb.reset : Arb where
  tok0 := 0
  tok5 := 0
  div0 := 0
  div5 := 0
  deficit := []
  cur := 1

/-- What a beacon says (R338). -/
structure BeaconId where
  port : Nat
  serial : Nat
  node : Nat
  digest : Nat
  deriving DecidableEq, Repr

/-- A port of a field (R264, R268 to R356). -/
structure Port where
  /-- shutter OPEN rather than PROBE -/
  shutter : Bool
  tx : LaneTx
  rx : LaneRx
  /-- the fallback of R285 is in force -/
  fallback : Bool
  stop : TxStop
  /-- messages that wait for the transmitter to resume, by TYPE and argument -/
  waiting : List (Nat × Nat)
  /-- locked receive wavelengths (R314), and whether they re-lock for a new mode (R319) -/
  lock : Nat
  relock : Bool
  /-- READY set in the port's TRAIN messages -/
  ready : Bool
  /-- LINK_LOCK_TIMEOUT has been reported since LOCK was entered -/
  lockLate : Bool
  /-- beacon parts received, the last beacon assembled whole, and the last one accepted -/
  parts : SMap Nat
  whole : List Nat
  accepted : List Nat
  /-- a beacon has been accepted since LOCK was last entered (R362) -/
  heard : Bool
  /-- READY received from the far end since the port began to train (R337) -/
  farReady : Bool
  seen : Option BeaconId
  admitted : Option BeaconId
  /-- the approved identity (R365), and the far port remapped under R364 -/
  approved : Option BeaconId
  farPort : Option Nat
  /-- tally of the entries to RETRAIN, as clock values, newest last (R344) -/
  retrains : List Nat
  /-- wavelengths whose qualification has ended, those that passed, of each wavelength the line bits received, the bits
  corrected and the uncorrectable codewords; the far end's mask (R339 to R341) -/
  qualDone : Nat
  qualPass : Nat
  qualN : SMap Nat
  qualE : SMap Nat
  qualU : SMap Nat
  farPass : Option Nat
  /-- the replay layer (R328, R329) -/
  exp : Nat
  seq : Nat
  held : List HeldFlit
  resend : Option Nat
  nakDue : Bool
  nakFor : Option Nat
  nakAt : Nat
  /-- last SEQ of ours the far end's TRAIN says it has accepted -/
  farAck : Nat
  /-- credits (R331, R332): buffers waiting to be counted as freed, counts of freed buffers, counts as
  last reported, and counts last seen from the far end, by channel × 2 + pool -/
  freeing : List Nat
  freed : SMap Nat
  reported : SMap Nat
  seenCr : SMap Nat
  /-- flit slots for which a pair with unreported buffers has waited (R332) -/
  waited : SMap Nat
  /-- when the last light pause the far end announced ended, plus one (R330) -/
  pauseOver : Nat
  code : CodeTx
  heardCode : CodeRx
  /-- input buffers and waiting packets by virtual channel -/
  rxq : SMap (List BufFlit)
  txq : SMap (List TxPacket)
  arb : Arb
  /-- the ACK value frozen while the injection point NO_ACK withholds ACKs and NAKs -/
  withheld : Option Nat
  deriving DecidableEq, Repr

/-- A port after a cold reset. -/
def Port.reset : Port where
  shutter := false
  tx := LaneTx.init 15 16
  rx := LaneRx.init 15 16
  fallback := false
  stop := .none
  waiting := []
  lock := 0
  relock := false
  ready := false
  lockLate := false
  parts := []
  whole := []
  accepted := []
  heard := false
  farReady := false
  seen := none
  admitted := none
  approved := none
  farPort := none
  retrains := []
  qualDone := 0
  qualPass := 0
  qualN := []
  qualE := []
  qualU := []
  farPass := none
  exp := 0
  seq := 0
  held := []
  resend := none
  nakDue := false
  nakFor := none
  nakAt := 0
  farAck := 0x3FFF
  freeing := []
  freed := []
  reported := []
  seenCr := []
  waited := []
  pauseOver := 0
  code := CodeTx.init (List.range 15) 0
  heardCode := CodeRx.init
  rxq := []
  txq := []
  arb := Arb.reset
  withheld := none

/-! ### Router -/

/-- A combining slot (R427): its egress port, the first packet, the contributors (source, flow epoch,
sequence number), and the accumulators. -/
structure CombSlot where
  /-- the slots of 32 accumulators it uses, lowest first -/
  slots : List Nat
  egress : Nat
  vc : Nat
  pkt : Packet
  contribs : List (Nat × Nat × Nat)
  accs : List LongAcc
  deriving DecidableEq, Repr

/-- The router of a field (R366 to R385, R427): the active bank of its tables by register field, a bank
waiting for a mark, flits that came over the die-to-die links and packets waiting to leave on them, both by
(link × 8 + channel) × 16 + stage (R373), the arbitration of each die-to-die link direction and the class its channels
served last, by link × 8 + channel (R674), packets issued here by channel, multicasts being copied with the coordinates left, packets delivered
and not yet processed, combining slots, counts of the present window by (link × 8 + channel) × 16 +
item, its start, the tally from which a crossing ends it, and the last copied window. Items 0 to 7 are the buckets, 8 CREDIT_STALL, 9 TX_DATA,
10 PEAK. -/
structure RouterUnit where
  active : SMap Nat
  pendingBank : Option (SMap Nat)
  d2dq : SMap (List BufFlit)
  d2dtx : SMap (List TxPacket)
  d2darb : SMap Arb
  d2dlast : SMap Nat
  issued : SMap (List Packet)
  mcasts : List (Packet × List Nat)
  inbox : List Packet
  comb : SMap CombSlot
  cong : SMap Nat
  congStart : Nat
  congSeen : Nat
  snap : SMap Nat
  snapStart : Nat
  snapEnd : Nat
  snapSeq : Nat
  deriving DecidableEq, Repr

def RouterUnit.reset : RouterUnit where
  active := []
  pendingBank := none
  d2dq := []
  d2dtx := []
  d2darb := []
  d2dlast := []
  issued := []
  mcasts := []
  inbox := []
  comb := []
  cong := []
  congStart := 0
  congSeen := 0
  snap := []
  snapStart := 0
  snapEnd := 0
  snapSeq := 0

/-! ### Remote memory (R399 to R444) -/

/-- Who awaits the completion of a line the gateway issues: a line of a plot's transfer, with its
local address; mirroring to partner n (R492); a push to a spare from slot n (R507); the load of this
field (R507); a fence (R417); nobody. -/
inductive GwOwner where
  | plot (p : PlotId) (qsn line loc : Nat)
  | mirror (n : Nat)
  | push (n : Nat)
  | load
  | fence (p : PlotId) (qsn : Nat)
  /-- a line whose plot has been reset (R429) -/
  | gone (p : PlotId)
  | none
  deriving DecidableEq, Repr

/-- A line the issuing gateway has accepted (R403, R408, R413). `id` numbers the gateway's requests and
is the TXN of an unordered one. `due`: members of a multicast still to acknowledge, by coordinate, with
their resends; `fails`: members that failed, with their status. `lost`: an injection point discards
its sends. -/
structure GwLine where
  id : Nat
  kind : Nat
  cls : Nat
  dst : Nat
  addr : Nat
  typ : Nat
  operand : Nat
  data : List Byte
  poisoned : Bool
  maxis : Nat
  mask : Nat
  owner : GwOwner
  seq : Nat
  fepoch : Nat
  opens : Bool
  sent : Bool
  resends : Nat
  defers : Nat
  deferred : Bool
  /-- nanoseconds the last DEFER delays it by (R411) -/
  delay : Nat
  lost : Bool
  due : List (Nat × Nat)
  fails : List (Nat × Nat)
  deriving DecidableEq, Repr

/-- The issuing record of a flow (R407); `opens`: its next line carries OPEN. -/
structure FlowTx where
  next : Nat
  acked : Nat
  fepoch : Nat
  opens : Bool
  deriving DecidableEq, Repr

/-- A held line (R409): its packet, or none where a combined put-reduce has done it (R428). -/
structure HeldLine where
  seq : Nat
  pkt : Option Packet
  deriving DecidableEq, Repr

/-- The receiving record of a flow (R407, R410); `key` and `typ` are those of the line applied last, which
its ACK echoes. -/
structure FlowRx where
  valid : Bool
  exp : Nat
  fepoch : Nat
  held : List HeldLine
  key : Nat
  typ : Nat
  deriving DecidableEq, Repr

/-- A place in the deferred queue (R410, R424): the source; the put-reduce refused for want of reduction entries and how many it
needs (0: none waits); the line first refused for want of slots, where one was; and whether the source has been told that it
holds the age token. -/
structure QPlace where
  src : Nat
  seq : Nat
  need : Nat
  slot : Option Nat
  told : Bool
  deriving DecidableEq, Repr

/-- The reduction-table entries of a line (R423): one accumulator per element, changed since the last
flush; `flushed`: the rounded line a boundary mark is still to write (R528). -/
structure RedLine where
  line : Nat
  /-- the entries the line uses, in element order -/
  entries : List Nat
  typ : Nat
  allot : Nat
  accs : List LongAcc
  changed : Bool
  flushed : Option (List Byte)
  deriving DecidableEq, Repr

/-- A cached response of the atomic unit (R421). -/
structure AtomicResp where
  src : Nat
  txn : Nat
  status : Nat
  old : Nat
  poisoned : Bool
  deriving DecidableEq, Repr

/-- A fence in progress (R417): snapshots of covered flows (flow, sequence number, epoch), multicast
acknowledgements waited for (request, coordinate), whether its flush requests have been sent, those not yet
answered, and its status so far. -/
structure Fence where
  p : PlotId
  qsn : Nat
  all : Bool
  node : Nat
  flows : List (Nat × Nat × Nat)
  mcasts : List (Nat × Nat)
  flushing : Bool
  flushes : List Nat
  status : Nat
  deriving DecidableEq, Repr

/-- The gateway of a field. `epoch` starts the flow epochs, `ackDue` names flows whose EXP has advanced
since their last ACK, `redWait` holds put-reduces that wait for a mark's flush write (R529), `redSent`
the nodes sent a put-reduce since the last FLUSH_REQ there. `slotRes`, `entRes`: line slots and reduction entries freed since
the age token was given, and reserved for its holder (R410, R424). `broken`: flows that have broken, for the mirror protocol to
act on (R497, R509). -/
structure GatewayUnit where
  nextReq : Nat
  epoch : Nat
  lines : List GwLine
  tx : SMap FlowTx
  rx : SMap FlowRx
  ackDue : List Nat
  queue : List QPlace
  slotRes : Nat
  entRes : Nat
  red : SMap RedLine
  redFull : Bool
  redWait : List Packet
  atomics : List AtomicResp
  fences : List Fence
  redSent : SMap Bool
  /-- mirror lines that have completed, with their status, for the mirror protocol to act on -/
  mirDone : List (GwLine × Nat)
  broken : List Nat
  deriving DecidableEq, Repr

def FlowTx.init : FlowTx := { next := 0, acked := 0xFFFFFFFF, fepoch := 0, opens := true }
def FlowRx.init : FlowRx := { valid := false, exp := 0, fepoch := 0, held := [], key := 0, typ := 0 }

def GatewayUnit.reset : GatewayUnit where
  nextReq := 1
  epoch := 0
  lines := []
  tx := []
  rx := []
  ackDue := []
  queue := []
  slotRes := 0
  entRes := 0
  red := []
  redFull := false
  redWait := []
  atomics := []
  fences := []
  redSent := []
  mirDone := []
  broken := []

/-! ### All-reduce (R445 to R474) -/

/-- A part sent and not yet receipted (R461): destination, KIND, STAGE, CHUNK, PART, CLASS and block count, payload,
times sent again. -/
structure ShfOut where
  dst : Nat
  kind : Nat
  stage : Nat
  chunk : Nat
  part : Nat
  cls : Nat
  blocks : Nat
  payload : List Byte
  tries : Nat
  deriving DecidableEq, Repr

/-- A piece in scratch (R461): its sender, stage, chunk, and the parts received (first block, blocks, whether in compact
form, bytes). -/
structure ShfPiece where
  src : Nat
  stage : Nat
  chunk : Nat
  parts : List (Nat × Nat × Bool × List Byte)
  deriving DecidableEq, Repr

/-- A carrier's own result of a stage, in scratch (R461). -/
structure ShfResult where
  stage : Nat
  chunk : Nat
  accs : List LongAcc
  deriving DecidableEq, Repr

/-- The collective in progress of a slot. `desc`: the descriptor's 64 bytes; `seed`, `step`: as sampled at issue;
`ready`: the ready line's count; `silent`: the point SILENT holds; `last`: tally of the last arrival from a member;
`arrs`: arrivals by stage (4: the handshake) × 8192 + node; `ptr`: chunks below it are sent, by stage;
`spent`: credits spent by node; `folded`: chunk × 4 + stage; `got`: gather parts held, chunk × 64 + part;
`written`: output elements written. -/
structure ShfColl where
  seq : Nat
  desc : List Byte
  seed : Nat
  step : Nat
  digest : Nat
  tIssue : Nat
  ready : Nat
  matched : Bool
  silent : Bool
  digests : List (Nat × Nat)
  last : SMap Nat
  arrs : SMap Nat
  ptr : SMap Nat
  spent : SMap Nat
  pieces : List ShfPiece
  results : List ShfResult
  folded : SMap Bool
  out : List ShfOut
  got : SMap Bool
  written : Nat
  cls : Nat
  deriving DecidableEq, Repr

/-- A registered group slot (R445, R446). `tail` and `next` count descriptors; `early`: digests of a collective not
yet started (SEQ, node, digest, arrival); `aborts`: ABORTs kept for a SEQ not yet reached (SEQ, status, named). -/
structure ShfSlot where
  group : Nat
  epoch : Nat
  credits : Nat
  ringLog : Nat
  ring : Nat
  tailAddr : Nat
  scratch : Nat
  scratchReq : Nat
  timeout : Nat
  members : List Nat
  hset : List Nat
  mapDigest : Nat
  halted : Bool
  tail : Nat
  next : Nat
  early : List (Nat × Nat × Nat × Nat)
  aborts : List (Nat × Nat × List Nat)
  coll : Option ShfColl
  deriving DecidableEq, Repr

/-- The sheaf engine of a field. `regs`: registrations under way (slot, descriptor address); `named`: SHF_NAMED (slot,
status, SEQ, count, nodes); `late`: SHF_LATE_TABLE; `own`: the private histogram of this field's own lateness (R477);
`stopped`: stopped in hub-lost operation (R464). -/
structure SheafUnit where
  slots : SMap ShfSlot
  regs : List (Nat × Nat)
  named : Nat × Nat × Nat × Nat × List Nat
  late : SMap Nat
  own : SMap Nat
  stopped : Bool
  deriving DecidableEq, Repr

def SheafUnit.reset : SheafUnit where
  slots := []
  regs := []
  named := (0, 0, 0, 0, [])
  late := []
  own := []
  stopped := false

/-! ### Health and the step timing report (R475 to R488, R656, R657) -/

/-- What Yarzin's health logic and the step timing report keep of a field. `prev`: counters as read at the
previous window close; `carryCe`, `carryUe`: increases read at a partition reset; `thrSens`: throttle entries of a broken sensor (R656); `thrEnv`: throttle entries of
this window that count as environment; `thermAt`: clock + 1 of the last THERM_RISE or THERM_DROP; `ringAt`: clock
+ 1 of a wavelength's last RING_LOCK failure near one, by 16 × port + λ, and `ringEnv` those whose failure
counts as environment; `thrLast`: throttle entries of the last window that had any, and how many of them counted as
environment; `injected`: an input of this window came from an injection point; `injLanes`: wavelengths whose last failure
did, by 16 × port + λ, plus 256 for a receive wavelength; `closedAt`: the hub tally's multiple of 10^9 at which the last
window closed. For the report: `stepReset`,
`stepWitOff`, `stepInj`, `stepSkip` flags of the step, `stallPrev` the stall counters at the previous mark, `lastMark`
its tally, `seq` the report's sequence number, and `stall` the deltas of the mark in progress. -/
structure HealthUnit where
  prev : SMap Nat
  carryCe : Nat
  carryUe : Nat
  thrEnv : Nat
  thrSens : Nat
  thrLast : Nat × Nat
  thermAt : Nat
  ringAt : SMap Nat
  ringEnv : SMap Bool
  injected : Bool
  injLanes : SMap Bool
  closedAt : Nat
  stepReset : Bool
  stepWitOff : Bool
  stepInj : Bool
  stepSkip : Bool
  stallPrev : SMap Nat
  stall : List Nat
  lastMark : Nat
  seq : Nat
  deriving DecidableEq, Repr

def HealthUnit.reset : HealthUnit where
  prev := []
  carryCe := 0
  carryUe := 0
  thrEnv := 0
  thrSens := 0
  thrLast := (0, 0)
  thermAt := 0
  ringAt := []
  ringEnv := []
  injected := false
  injLanes := []
  closedAt := 0
  stepReset := false
  stepWitOff := false
  stepInj := false
  stepSkip := false
  stallPrev := []
  stall := []
  lastMark := 0
  seq := 0

/-! ### Mirroring and spare admission (R489 to R511) -/

/-- The source side of mirroring in force (R489, R492, R497): the partners' nodes, a mask of partners that do
not answer, and whether the epoch closed last still needs its MIR_MARK. -/
structure MirSource where
  on : Bool
  dual : Bool
  partners : List Nat
  lost : Nat
  commit : Bool
  deriving DecidableEq, Repr

/-- A push to a spare (R507): the spare's node, the epoch, the next copy granule, and granules left before the
point PUSH_STALL stops it. -/
structure MirPush where
  dst : Nat
  epoch : Nat
  next : Nat
  stall : Option Nat
  deriving DecidableEq, Repr

/-- A partner slot in force (R490, R493, R504): the register's values at the mark that brought it into force,
the source's layout, staged copy granules with their buffer slots, granule hashes, a push under way. -/
structure MirSlot where
  on : Bool
  source : Nat
  copyBase : Nat
  copyGran : Nat
  bufBase : Nat
  bufGran : Nat
  journal : Nat
  layout : List MirRegion
  staged : List (Nat × Nat)
  hash : SMap Nat
  push : Option MirPush
  deriving DecidableEq, Repr

/-- Loading a spare (R507 to R509): the partner pulled from, the running CRC of the granule arriving. -/
structure MirLoad where
  src : Nat
  crc : Nat
  deriving DecidableEq, Repr

/-- The mirror logic of a rim. `regionsDue`, `srcDue` and `partDue` (a mask of slots): written values of the
region, MIR_SRC_CTL and MIR_PARTn registers that the next boundary mark takes up (R247, R501, R504). -/
structure MirUnit where
  regionsDue : Bool
  srcDue : Bool
  partDue : Nat
  src : MirSource
  slots : SMap MirSlot
  load : MirLoad
  deriving DecidableEq, Repr

def MirSlot.idle : MirSlot where
  on := false
  source := 0
  copyBase := 0
  copyGran := 0
  bufBase := 0
  bufGran := 0
  journal := 0
  layout := []
  staged := []
  hash := []
  push := none

def MirUnit.reset : MirUnit where
  regionsDue := false
  srcDue := false
  partDue := 0
  src := { on := false, dual := false, partners := [], lost := 0, commit := false }
  slots := []
  load := { src := 0, crc := 0 }

/-! ### Tally (R517 to R531) -/

/-- What a field knows of a neighbour by its last beacon over a link (R520, R523): who it is, LOCKED or ROOT, its
distance, root rank, root and parent; the clock at the arrival; T_TX and the local arrival stamp of the beacon, in
2^-16 ns; and the departure stamps of this field's own beacons of the last 100 µs, with the clock at each. -/
structure TallyLink where
  known : Bool
  node : Nat
  good : Bool
  dist : Nat
  rank : Nat
  root : Nat
  parent : Nat
  arrAt : Nat
  tTx : Nat
  arr : Nat
  sent : List (Nat × Nat)
  /-- arrival stamps of beacons that wait at the tally endpoint, oldest first (R519) -/
  due : List Nat
  deriving DecidableEq, Repr

def TallyLink.none : TallyLink where
  known := false
  node := 0
  good := false
  dist := 0xFF
  rank := 0xFF
  root := 0xFFFF
  parent := 0xFFFF
  arrAt := 0
  tTx := 0
  arr := 0
  sent := []
  due := []

/-- A root heard of (R524): its highest ROOT_BEAT, the clock when that last advanced, and whether it is alive. -/
structure TallyRoot where
  beat : Nat
  at_ : Nat
  alive : Bool
  rank : Nat
  deriving DecidableEq, Repr

/-- The tally logic of a field. `lastUsed`: the clock at the last used sample plus one; `beat`: the ROOT_BEAT it
sends; `bins`: nanoseconds of LOCKED time by temperature bin (R531), `tempBin` the bin of the present temperature;
`muted` links and `beatStop`: injection effects in progress; `everRoot`: it has been acting root since the cold
reset; `reached`: it has been LOCKED or ROOT since the last cold or warm reset (R524); `houseDue`: the tally has crossed a
multiple of 2^30; `todo`: actions 10 to 14 of the last mark still to do, in their order (R528);
`binAvg`: the averages of f_trim by temperature bin, in 2^-32 of its unit (R531);
`markAt`: t_int at the mark cycle; `lateTab`, `lateHist`: lateness records as the mark took them. -/
structure TallyUnit where
  tInt : Nat
  tFrac : Nat
  fTrim : Int
  pTrim : Int
  good : Nat
  runOut : Nat
  lastUsed : Nat
  links : SMap TallyLink
  roots : SMap TallyRoot
  beat : Nat
  bins : SMap Nat
  binAvg : SMap Int
  tempBin : Nat
  muted : Nat
  beatStop : Bool
  everRoot : Bool
  reached : Bool
  houseDue : Bool
  todo : List Nat
  markAt : Nat
  lateTab : SMap Nat
  lateHist : List Nat
  /-- FLAGS and the tally of the previous mark, for the step timing report (R487) -/
  repFlags : Nat
  repPrev : Nat
  deriving DecidableEq, Repr

def TallyUnit.reset : TallyUnit where
  tInt := 0
  tFrac := 0
  fTrim := 0
  pTrim := 0
  good := 0
  runOut := 0
  lastUsed := 0
  links := []
  roots := []
  beat := 0
  bins := []
  binAvg := []
  tempBin := 0
  muted := 0
  beatStop := false
  everRoot := false
  reached := false
  houseDue := false
  todo := []
  markAt := 0
  lateTab := []
  lateHist := []
  repFlags := 0
  repPrev := 0

/-- The hub tally's fraction, trims and servo (R517, R518, R521): `locked` or acquiring; `lastUsed`: the clock at the last beacon
plus one. -/
structure HubServo where
  tFrac : Nat
  fTrim : Int
  pTrim : Int
  hold : Bool
  locked : Bool
  good : Nat
  runOut : Nat
  lastUsed : Nat
  deriving DecidableEq, Repr

def HubServo.reset : HubServo where
  tFrac := 0
  fTrim := 0
  pTrim := 0
  hold := false
  locked := false
  good := 0
  runOut := 0
  lastUsed := 0

/-- The calendar's registers that are no register field (R533, R534): crystal counts not yet whole, in 10^-9; the
rate accumulator; crystal counts still to be skipped. -/
structure CalUnit where
  rest : Nat
  acc : Int
  skip : Nat
  deriving DecidableEq, Repr

/-! ### Bring-up and the host port (R550 to R629) -/

/-- What a register write asks of the sequencer, done once the write is. -/
inductive BootReq where
  | go (stage : Nat)
  | skip (stage : Nat)
  | hostImage
  | imagesReady
  | warm
  | part (mask : Nat)
  | jtag
  deriving DecidableEq, Repr

/-- The sequencer's registers that are no register field (R551 to R582). `warm`: the last reset was a warm one;
`begun`: the present stage's own work has been done; `ahead`: its gate has been opened in advance; `since`: the clock at
the stage's start; `lightDone`: the host-light step has ended; `imagesGot`: host firmware images are in place;
`image`: the accepted seed image, kept where the host cannot reach it; `waits`: fields that wait for PGOOD, as a mask;
`digest`: D of the last accepted image before this reset; `jtagHold`: the 10 s after a refusal run; `req`: requests of a
register write in progress; `mates`: modules of each link that passed their training in stage FIELD POWER; `resets`: the model's own
count of cold and warm resets so far, which no rule reads (DESIGN CHOICE, log entry 44). -/
structure SeedUnit where
  warm : Bool
  begun : Bool
  ahead : Bool
  since : Nat
  lightDone : Bool
  imagesGot : Bool
  image : List Byte
  waits : Nat
  digest : Nat
  jtagHold : Bool
  req : List BootReq
  mates : List Nat
  resets : Nat
  deriving DecidableEq, Repr

def SeedUnit.reset : SeedUnit where
  warm := false
  begun := false
  ahead := false
  since := 0
  lightDone := false
  imagesGot := false
  image := []
  waits := 0
  digest := 0
  jtagHold := false
  req := []
  mates := []
  resets := 0

/-- A request to the register and memory windows: a Memory Read or Write TLP of a function (R606), or a register write of
Yarzin's. -/
inductive HostReq where
  | read (fn : Nat) (bar2 : Bool) (addr len : Nat)
  | write (fn : Nat) (bar2 : Bool) (addr : Nat) (data : List Byte) (be : Nat) (ep : Bool)
  | reg (sp : Space) (off bytes value : Nat)
  deriving DecidableEq, Repr

/-- A request that waits on the bin scoreboard (R692), or behind one of its own source: functions 0 to 4, Yarzin 5; with
the QSN the plot it addresses would have given its next operation when it arrived. -/
structure HostAcc where
  src : Nat
  req : HostReq
  qsn : Nat
  deriving DecidableEq, Repr

/-- The host port's registers that are no register field: functions in D3hot, and the AER status of each function —
posted writes discarded, poisoned TLPs — as masks; the management read in progress (node, words); accesses that wait on
the bin scoreboard, oldest first; ordinary accesses of a source that queue behind one of its own. -/
structure HostUnit where
  d3 : Nat
  aerDrop : Nat
  aerPoison : Nat
  mgmt : Option (Nat × Nat)
  wait : List HostAcc
  /-- TLPs held while the link passes through Recovery, oldest first, each with its source (R597) -/
  held : List (Nat × HostReq)
  /-- MSI-X as the host has configured it, by function (R610) -/
  msix : SMap MsixConfig
  deriving DecidableEq, Repr

def HostUnit.reset : HostUnit where
  d3 := 0
  aerDrop := 0
  aerPoison := 0
  mgmt := none
  wait := []
  held := []
  msix := []

/-! ### Events -/

/-- An event raised inside a command (R607): by a field or by the hub, with its number, class,
payload and INJECTED flag. -/
structure RaisedEvent where
  src : Option FieldId
  num : Nat
  cls : Nat
  payload : List Byte
  injected : Bool
  deriving DecidableEq, Repr

/-! ### Power and temperature (R630 to R671) -/

/-- A sensor injection in progress (R697): sensor, step of 0.25 °C, whether it adds up from sample to sample, what it
adds now, samples left. -/
structure SensorInj where
  sensor : Nat
  step : Nat
  ramp : Bool
  now : Nat
  left : Nat
  deriving DecidableEq, Repr

/-- What a field's rim does by itself for power and temperature. `hist`: readings of each on-die sensor in 0.25 °C,
newest first, at most 21; `broken`: a mask, and `brokenInj` those of it an injection broke; `riseAt`, `dropAt`, `thrAt`: clock + 1 of the last EV_HLT_THERM_RISE,
drop and throttle entry; `duty`, `ballast`: the governor's, as last received (R658); `hold`: PWR_WARN_N seen (R645);
`tokens`: requests for start (true) and stop tokens by plot, oldest first (R634). -/
structure ThermUnit where
  hist : SMap (List Int)
  broken : Nat
  brokenInj : Nat
  riseAt : Nat
  dropAt : Nat
  thrAt : Nat
  duty : Nat
  ballast : Nat
  hold : Bool
  inj : Option SensorInj
  tokens : List (Nat × Bool)
  deriving DecidableEq, Repr

def ThermUnit.reset : ThermUnit where
  hist := []
  broken := 0
  brokenInj := 0
  riseAt := 0
  dropAt := 0
  thrAt := 0
  duty := 64
  ballast := 0
  hold := false
  inj := none
  tokens := []

/-- What the hub does for power and temperature. `warnPin`, `warnInj`: PWR_WARN_N asserted at the land, or by the
injection point; `holdOff`: the wait of R646 runs; `from_`, `target`: the modes a change in progress goes from and to, and `clocks`:
its clocks are still to change; `markDue`: a pending request waits for a mark; `crit`: pin channels that keep the
package in Hold (R650); `powers`: p of the last hundred periods, newest first; `overRun`: periods in a row above the
limit by more than 5 %; `limitAt`: clock + 1 of the last EV_HUB_POWER_LIMIT;
`releaseAt`: clock + 1 at which the stagger delay of R643 ends, 0 while none runs; `trip`: THERMTRIP_N is low;
`hist`, `broken`: the hub's junction sensors; `pinLast`: the last reading of each pin channel, `pinInj`: channels that
report broken by injection; `rails`: levels of PGOOD_F0 to PGOOD_F3 and, bit 4, of PGOOD_OPT; `vsel`: VSEL_Ff of each field
(R632); `holdInj`: the injection point alone called for the hold. -/
structure PowerUnit where
  warnPin : Bool
  warnInj : Bool
  holdOff : Bool
  from_ : Nat
  target : Nat
  clocks : Bool
  markDue : Bool
  crit : Nat
  powers : List Nat
  overRun : Nat
  limitAt : Nat
  releaseAt : Nat
  trip : Bool
  hist : SMap (List Int)
  broken : Nat
  pinLast : SMap (Option Int)
  pinInj : Nat
  rails : Nat
  vsel : SMap Nat
  holdInj : Bool
  deriving DecidableEq, Repr

def PowerUnit.reset : PowerUnit where
  warnPin := false
  warnInj := false
  holdOff := false
  from_ := 1
  target := 1
  clocks := false
  markDue := false
  crit := 0
  powers := []
  overRun := 0
  limitAt := 0
  releaseAt := 0
  trip := false
  hist := []
  broken := 0
  pinLast := []
  pinInj := 0
  rails := 0
  vsel := []
  holdInj := false

/-! ### What the block sends out -/

/-- Messages, packets and replies that leave the block, and pins it drives. -/
inductive Output where
  /-- a mesh multicast's source learns the count of copies delivered (R253) -/
  | mcastDone (f : FieldId) (copies : Nat)
  /-- a lane-control message sent on a port (R316) -/
  | lane (f : FieldId) (n : PortId) (type arg : Nat)
  /-- a SWITCH group sent on a port (R318) -/
  | switchGroup (f : FieldId) (n : PortId)
  /-- a group of codewords sent on a port (R309 to R313), and a count of IDLE groups from a GROUP on -/
  | group (f : FieldId) (n : PortId) (g : Group)
  | idleGroups (f : FieldId) (n : PortId) (first count : Nat)
  /-- flits of a port stop at a group boundary, or resume (R319, R321) -/
  | flitStop (f : FieldId) (n : PortId)
  | flitResume (f : FieldId) (n : PortId)
  /-- a command on the light port's I3C bus: module, command code, payload value (R288) -/
  | i3c (module code value : Nat)
  /-- a flit sent on a port, with its TYPE (R324 to R326) -/
  | flit (f : FieldId) (n : PortId) (type : Nat) (flit : Flit)
  /-- the TALLY_MARK land driven high for a number of nanoseconds (R530) -/
  | tallyMark (width : Nat)
  /-- the completion of a host read (R606): function, status (0 successful, 1 Unsupported Request, 2 Completer Abort), EP,
  data -/
  | completion (fn status : Nat) (ep : Bool) (data : List Byte)
  /-- the NQ-HB6 is told the host port's map: the wavelength of each slot, 0xF for a slot out of the stripe (R597) -/
  | hostMap (waves : List Nat)
  /-- an MSI-X message of a function's vector (R610) -/
  | msix (fn vector : Nat)
  /-- the interrupt that wakes Yarzin for a delivered notice (R617) -/
  | yarzinWake (ep : MbxEp)
  deriving DecidableEq, Repr

/-! ### A field, the hub, the package -/

/-- A management read at a rim's endpoint (R678), and of each 8-byte word it asks for the offset and the QSN that the plot it
addresses would have given its next operation when the read arrived (R692). -/
structure MgmtWait where
  pkt : Packet
  words : List (Nat × Nat)
  deriving DecidableEq, Repr

/-- A field's rim and plots, less the memories. -/
structure Field where
  /-- the rim's registers, by register field -/
  regs : SMap Nat
  plots : SMap Plot
  memu : FieldMem
  drift : DriftTable
  /-- corrected bin words, counted as corrected memory errors of the field (R98) -/
  binCorrected : Nat
  ports : SMap Port
  /-- when each rate-limited event was last raised, as a clock value plus one -/
  lastRaise : SMap Nat
  router : RouterUnit
  gw : GatewayUnit
  shf : SheafUnit
  /-- EV_PLT_WITNESS_MISMATCH events and uncorrected bin words of the field (R476) -/
  witEvents : Nat
  binUncorrected : Nat
  /-- hard events not yet acted on by Yarzin (R479): kind, INJECTED. Kind 0 witness mismatch,
  1 stack lost, 2 UNFIT or DARK -/
  hardDue : List (Nat × Bool)
  hlt : HealthUnit
  mir : MirUnit
  tally : TallyUnit
  /-- management reads waiting at the rim's endpoint, oldest first (R678) -/
  mgmtq : List MgmtWait
  /-- rows still to sow, as (image, row), in order (R575) -/
  sow : List (Nat × Nat)
  /-- event records waiting to be forwarded to the collector (R613) -/
  fwdQueue : List (List Byte)
  /-- hub-lost operation (R35) and missed heartbeats -/
  hubLost : Bool
  missed : Nat
  /-- heartbeats stopped by the injection point HEARTBEAT_STOP, until a reset (R697) -/
  hbStopped : Bool
  /-- compute partition held under R35 -/
  held : Bool
  /-- inbound slots of MBX_FLD and MBX_RIMP -/
  slotFld : MbxSlot
  slotRimp : MbxSlot
  thm : ThermUnit
  /-- effects in progress of injection points that last for a time (R696), by register: point, target, argument -/
  fx : SMap (Nat × Nat × Nat)
  deriving DecidableEq, Repr

/-- The hub. -/
structure Hub where
  regs : SMap Nat
  /-- MSI-X: classes of each function with a message due, and with one sent since CONS was last
  written (R610), as bit masks -/
  msixDue : SMap Nat
  msixSent : SMap Nat
  light : LightUnit
  /-- lanes of the host port, whose map the device gives both ends (R595, R597) -/
  hostTx : LaneTx
  /-- stage LINKS has begun (R336); the warm fast path is in use (R568) -/
  linksBegun : Bool
  /-- the hub's tally (R518), and whether it has crossed a multiple of 2^PERIOD_LOG (R530) -/
  tally : Nat
  pulseDue : Bool
  /-- the clock until which TALLY_MARK drives its land high -/
  pulseEnd : Nat
  servo : HubServo
  cal : CalUnit
  seed : SeedUnit
  host : HostUnit
  /-- records delivered to Yarzin, oldest first (R611) -/
  yarzinEvents : List (List Byte)
  /-- inbound slots of the hub's mailbox endpoints: 0 HOST, 1 YZH, 2 + f YZRf -/
  slots : SMap MbxSlot
  pwr : PowerUnit
  /-- the same of the hub's registers; the 10 s after a refusal run (R512) -/
  fx : SMap (Nat × Nat × Nat)
  injHold : Bool
  deriving DecidableEq, Repr

/-- The machine: waiting commands first in, first out; the counter the free values are drawn
with; the clock; the hub; the fields; the memories; and what the block has sent out, oldest first. -/
structure State where
  pending : List Instr
  free : Nat
  /-- nanoseconds of idle time since the cold reset: the clock the rules' intervals are told by -/
  now : Nat
  hub : Hub
  fields : Vector Field 4
  mem : Memories
  /-- events raised and not yet recorded; empty between commands -/
  events : List RaisedEvent
  out : List Output
  deriving DecidableEq, Repr

/-! ### Reset -/

/-- The drill after any reset of the compute partition (R149, R178). -/
def Drill.reset : Drill where
  xr := []
  pc := 0x800000
  st := .held
  wait := .none
  inTrap := false
  faultCause := 0
  haltPc := 0
  resumePc := 0
  haltReq := false
  mie := false
  mpie := false
  mtvec := 0
  mepc := 0
  mcause := 0
  mtval := 0
  mscratch := 0
  mieReg := 0
  mcycle := 0
  minstret := 0
  fetchBase := 0
  fetchBuf := []

/-- A plot after any reset of the compute partition (R99, R149, R193, R230, R578). -/
def Plot.reset : Plot where
  regs := []
  drill := Drill.reset
  dr := []
  nextQsn := 0
  queue := []
  cq := []
  tine := { active := none, shadow := none, shadowFor := 0, dormant := true, stopTok := false, ballast := 0, busy := 0 }
  scnt := 0
  samples := []
  scrub := 0
  notify := none
  xlines := []
  xlast := 0
  boot := BootUnit.reset
  slot := .free

/-- Memories after a cold reset (R160, R99, R556). -/
def Memories.reset : Memories where
  hbm := #v[[], [], [], []]
  hbmErr := #v[[], [], [], []]
  store := #v[[], [], [], []]
  storeErr := #v[[], [], [], []]
  bin := #v[[], [], [], []]
  binErr := #v[[], [], [], []]
  binPoison := #v[[], [], [], []]
  sram := []

/-- The field memory system after a cold reset. -/
def FieldMem.reset : FieldMem where
  lost0 := false
  lost1 := false
  absorber := []
  rowTab := []
  cur := []
  res := []
  regions := []
  held := []
  scrub := []
  fuse := 0
  overlay := 0
  remap := 0
  mcasts := []

/-- A field after a cold reset. -/
def Field.reset (f : FieldId) : Field where
  regs := []
  plots := []
  memu := FieldMem.reset
  drift := { recs := [], unrecorded := 0, fullEvent := false }
  binCorrected := 0
  ports := []
  lastRaise := []
  router := RouterUnit.reset
  gw := GatewayUnit.reset
  shf := SheafUnit.reset
  witEvents := 0
  binUncorrected := 0
  hardDue := []
  hlt := HealthUnit.reset
  mir := MirUnit.reset
  tally := TallyUnit.reset
  mgmtq := []
  sow := []
  slotFld := .free
  slotRimp := .free
  fwdQueue := []
  hubLost := false
  missed := 0
  hbStopped := false
  held := false
  thm := ThermUnit.reset
  fx := []

/-- The hub after a cold reset. -/
def Hub.reset : Hub where
  regs := []
  msixDue := []
  msixSent := []
  light := LightUnit.reset
  hostTx := LaneTx.init 8 9
  linksBegun := false
  tally := 0
  pulseDue := false
  pulseEnd := 0
  servo := HubServo.reset
  cal := { rest := 0, acc := 0, skip := 0 }
  seed := SeedUnit.reset
  host := HostUnit.reset
  yarzinEvents := []
  slots := []
  pwr := PowerUnit.reset
  fx := []
  injHold := false

/-- The machine right after a cold reset. -/
def State.reset : State where
  pending := []
  free := 0
  now := 0
  hub := Hub.reset
  fields := #v[Field.reset 0, Field.reset 1, Field.reset 2, Field.reset 3]
  mem := Memories.reset
  events := []
  out := []

end Sys2Proof.Machine
end

