-- ==== Sys2Proof/Machine/Ops.lean ====
section
/-! DEFINITION. The named operations over the state that every meaning is built from: the parts of
the state, register fields, event records, the HBM of a field with its error correction, poison,
hot-line absorber and mirror planes, plot stores and bins with theirs. -/

namespace Sys2Proof.Machine

open Sys2Proof

/-- What a meaning answers when it runs to a next state. -/
abbrev Result := Host.Outcome State Fault Refusal

/-! ### Parts of the state -/

/-- Field f. -/
def State.field (s : State) (f : FieldId) : Field := s.fields[f]

/-- The state with field f changed by g. -/
def State.updField (s : State) (f : FieldId) (g : Field → Field) : State :=
  { s with fields := s.fields.set f (g (s.field f)) }

/-- The state with the hub changed by g. -/
def State.updHub (s : State) (g : Hub → Hub) : State := { s with hub := g s.hub }

/-- The state with the memories changed by g. -/
def State.updMem (s : State) (g : Memories → Memories) : State := { s with mem := g s.mem }

/-- Logical plot p of a field. -/
def Field.plot (F : Field) (p : Nat) : Plot := SMap.get F.plots Plot.reset p

/-- A field with plot p changed by g. -/
def Field.updPlot (F : Field) (p : Nat) (g : Plot → Plot) : Field :=
  { F with plots := SMap.set F.plots Plot.reset p (g (F.plot p)) }

/-- Logical plot p of field f. -/
def State.plot (s : State) (f : FieldId) (p : PlotId) : Plot := (s.field f).plot p

/-- The state with plot p of field f changed by g. -/
def State.updPlot (s : State) (f : FieldId) (p : PlotId) (g : Plot → Plot) : State :=
  s.updField f (fun F => F.updPlot p g)

/-- The state with a message sent out of the block. -/
def State.emit (s : State) (o : Output) : State := { s with out := s.out ++ [o] }

/-- The next value of the free-value counter, and the state with the counter advanced. -/
def State.draw (s : State) : Nat × State := (Config.freeValue s.free, { s with free := s.free + 1 })

/-- The other three fields and this one, for operations over all fields. -/
def allFields : List FieldId := [0, 1, 2, 3]

/-- One of the later actions of a field's mark has been done (R528). -/
def State.markDid (s : State) (f : FieldId) (n : Nat) : State :=
  s.updField f (fun F => { F with tally := { F.tally with todo := F.tally.todo.filter (fun x => x ≠ n) } })

/-! ### Register fields (R13 to R16) -/

/-- The place of a register field: its first register's offset times 4096, plus its first bit. -/
def RegField.place (k : RegField) : Nat := k.off * 4096 + k.lo

/-- The key of a register field, register n of its family, repeat i inside the register: the field's place in the low 40
bits, so that no index leads to another field, and above them how far the register and the repeat lie behind it. -/
def RegField.key (k : RegField) (n i : Nat) : Nat :=
  (n * k.stride * 4096 + i * k.bitStride) * 0x10000000000 + k.place

/-- The offset in its space of the register a key belongs to. -/
def keyOffset (j : Nat) : Nat := (j % 0x10000000000 + j / 0x10000000000) / 4096

/-- The stored value of a register field. -/
def RegField.get (rf : SMap Nat) (k : RegField) (n i : Nat) : Nat := SMap.get rf k.cold (k.key n i)

/-- A register file with a field set to v, kept to the field's width. -/
def RegField.set (rf : SMap Nat) (k : RegField) (n i v : Nat) : SMap Nat :=
  SMap.set rf k.cold (k.key n i) (v % 2 ^ k.width)

/-- A register field of a field's rim. -/
def Field.reg (F : Field) (k : RegField) (n : Nat := 0) (i : Nat := 0) : Nat := k.get F.regs n i

/-- A rim with a register field set. -/
def Field.setReg (F : Field) (k : RegField) (v : Nat) (n : Nat := 0) (i : Nat := 0) : Field :=
  { F with regs := k.set F.regs n i v }

/-- A register field of a plot. -/
def Plot.reg (P : Plot) (k : RegField) (n : Nat := 0) (i : Nat := 0) : Nat := k.get P.regs n i

/-- A plot with a register field set. -/
def Plot.setReg (P : Plot) (k : RegField) (v : Nat) (n : Nat := 0) (i : Nat := 0) : Plot :=
  { P with regs := k.set P.regs n i v }

/-- A register field of the hub. -/
def Hub.reg (H : Hub) (k : RegField) (n : Nat := 0) (i : Nat := 0) : Nat := k.get H.regs n i

/-- The hub with a register field set. -/
def Hub.setReg (H : Hub) (k : RegField) (v : Nat) (n : Nat := 0) (i : Nat := 0) : Hub :=
  { H with regs := k.set H.regs n i v }

def State.hreg (s : State) (k : RegField) (n : Nat := 0) (i : Nat := 0) : Nat := s.hub.reg k n i
def State.freg (s : State) (f : FieldId) (k : RegField) (n : Nat := 0) (i : Nat := 0) : Nat :=
  (s.field f).reg k n i
def State.preg (s : State) (f : FieldId) (p : PlotId) (k : RegField) : Nat := (s.plot f p).reg k
def State.hset (s : State) (k : RegField) (v : Nat) (n : Nat := 0) (i : Nat := 0) : State :=
  s.updHub (fun H => H.setReg k v n i)
def State.fset (s : State) (f : FieldId) (k : RegField) (v : Nat) (n : Nat := 0) (i : Nat := 0) :
    State := s.updField f (fun F => F.setReg k v n i)
def State.pset (s : State) (f : FieldId) (p : PlotId) (k : RegField) (v : Nat) : State :=
  s.updPlot f p (fun P => P.setReg k v)

/-- A saturating count of a rim register. -/
def State.fcount (s : State) (f : FieldId) (k : RegField) (d : Nat := 1) (n : Nat := 0)
    (i : Nat := 0) : State := s.fset f k (satAdd k.width (s.freg f k n i) d) n i

/-- A saturating count of a hub register. -/
def State.hcount (s : State) (k : RegField) (d : Nat := 1) (n : Nat := 0) (i : Nat := 0) : State :=
  s.hset k (satAdd k.width (s.hreg k n i) d) n i

/-- A saturating count of a plot register. -/
def State.pcount (s : State) (f : FieldId) (p : PlotId) (k : RegField) (d : Nat := 1) : State :=
  s.pset f p k (satAdd k.width (s.preg f p k) d)

/-- A wrapping count of a rim register. -/
def State.fwrap (s : State) (f : FieldId) (k : RegField) (d : Nat := 1) (n : Nat := 0)
    (i : Nat := 0) : State := s.fset f k (s.freg f k n i + d) n i

/-- A wrapping count of a plot register. -/
def State.pwrap (s : State) (f : FieldId) (p : PlotId) (k : RegField) (d : Nat := 1) : State :=
  s.pset f p k (s.preg f p k + d)

/-! ### Service states and identity (R19, R27, R37) -/

def svcOff : Nat := 0
def svcStarting : Nat := 1
def svcReady : Nat := 2
def svcPartitionReset : Nat := 3
def svcUnfit : Nat := 4
def svcDark : Nat := 5

/-- Service state of a field (R30). -/
def State.svc (s : State) (f : FieldId) : Nat := s.hreg Reg.HUB_FIELD_STATE.STATE 0 f

/-- What a unit of a field's rim does, where the rim is not DARK (R27): a DARK field's rim is not in service, and its HBM is
unreachable. -/
def State.inRim (s : State) (f : FieldId) (r : Result) : Result := if s.svc f = svcDark then .next s else r

/-- What a unit on the plot clocks does: nothing once THERMTRIP has stopped them (R644, R655). -/
def State.clocked (s : State) (r : Result) : Result := if s.hub.pwr.trip then .next s else r

/-- Bits [12:0] of HUB_PKG_COORD with f 0 (R36). -/
def State.pkgNode (s : State) : Nat :=
  s.hreg Reg.HUB_PKG_COORD.U * 4 + s.hreg Reg.HUB_PKG_COORD.V * 16 +
    s.hreg Reg.HUB_PKG_COORD.W * 256

/-- Node ID of field f (R37). -/
def State.node (s : State) (f : FieldId) : Nat := s.pkgNode + f

/-- Whether a node ID names a node (R19). -/
def nodeNamed (n : Nat) : Bool := decide (n < 0x2000)

/-! ### Sparse byte memories -/

/-- The byte at an address; 0 where nothing is listed. -/
def Mem.byte (m : SMap Byte) (a : Nat) : Byte := SMap.get m 0 a

/-- Memory with a byte written. -/
def Mem.setByte (m : SMap Byte) (a : Nat) (b : Byte) : SMap Byte := SMap.set m 0 a b

/-- n bytes from address a. -/
def Mem.read (m : SMap Byte) (a : Nat) : Nat → List Byte
  | 0 => []
  | n + 1 => Mem.byte m a :: Mem.read m (a + 1) n

/-- Memory with bytes written from address a. -/
def Mem.write (m : SMap Byte) (a : Nat) : List Byte → SMap Byte
  | [] => m
  | b :: bs => Mem.write (Mem.setByte m a b) (a + 1) bs

/-- Canonical form of a byte memory: addresses strictly rising and no listed byte equal to what an
unlisted address reads as. -/
abbrev Memory.wf (m : SMap Byte) : Prop := SMap.wf m 0 = true

/-- Canonical form of every memory of the package. -/
def Memories.wf (m : Memories) : Bool :=
  (m.hbm.toList.all (fun x => SMap.wf x 0)) && (m.hbmErr.toList.all (fun x => SMap.wf x 0)) &&
  (m.store.toList.all (fun x => SMap.wf x 0)) && (m.storeErr.toList.all (fun x => SMap.wf x 0)) &&
  (m.bin.toList.all (fun x => SMap.wf x 0)) && (m.binErr.toList.all (fun x => SMap.wf x 0)) &&
  (m.binPoison.toList.all (fun x => SMap.wf x false)) && SMap.wf m.sram 0

def Memories.setHbm (m : Memories) (f : FieldId) (x : SMap Byte) : Memories :=
  { m with hbm := m.hbm.set f x }
def Memories.setHbmErr (m : Memories) (f : FieldId) (h v : Nat) : Memories :=
  { m with hbmErr := m.hbmErr.set f (SMap.set m.hbmErr[f] 0 h v) }
def Memories.setStore (m : Memories) (f : FieldId) (x : SMap Byte) : Memories :=
  { m with store := m.store.set f x }
def Memories.setStoreErr (m : Memories) (f : FieldId) (w v : Nat) : Memories :=
  { m with storeErr := m.storeErr.set f (SMap.set m.storeErr[f] 0 w v) }
def Memories.setBin (m : Memories) (f : FieldId) (k v : Nat) : Memories :=
  { m with bin := m.bin.set f (SMap.set m.bin[f] 0 k v) }
def Memories.setBinErr (m : Memories) (f : FieldId) (k v : Nat) : Memories :=
  { m with binErr := m.binErr.set f (SMap.set m.binErr[f] 0 k v) }
def Memories.setBinPoison (m : Memories) (f : FieldId) (k : Nat) (v : Bool) : Memories :=
  { m with binPoison := m.binPoison.set f (SMap.set m.binPoison[f] false k v) }

/-! ### Hub SRAM (R603) -/

/-- Bytes of the hub SRAM's 16 MiB. -/
def sramSize : Nat := 0x1000000

/-- Write into hub SRAM; bytes past its end are discarded. -/
def State.sramWrite (s : State) (a : Nat) (bs : List Byte) : State :=
  s.updMem (fun m => { m with sram := Mem.write m.sram a (bs.take (sramSize - a)) })

def State.sramRead (s : State) (a n : Nat) : List Byte := Mem.read s.mem.sram a n

/-! ### Raising events (R607, R694, R695)

An event raised inside a command waits in `events` until the command's own effects are done;
`finish` then writes the records (Machine/Events.lean). -/

/-- A payload: items of a width in bytes and a value, packed little-endian (R695). -/
def pay (items : List (Nat × Nat)) : List Byte := items.flatMap (fun (w, v) => leBytes w v)

/-- An event of field f. -/
def State.raise (s : State) (f : FieldId) (e : EvKind) (items : List (Nat × Nat))
    (injected : Bool := false) : State :=
  { s with events := s.events ++ [⟨some f, e.num, e.fldCls, pay items, injected⟩] }

/-- An event of the hub. -/
def State.raiseHub (s : State) (e : EvKind) (items : List (Nat × Nat)) (injected : Bool := false) :
    State :=
  { s with events := s.events ++ [⟨none, e.num, e.hubCls, pay items, injected⟩] }

/-- An input of the health window: whether an injection point caused it (R145, R481). -/
def State.healthInput (s : State) (f : FieldId) (injected : Bool) : State :=
  if injected then s.updField f (fun F => { F with hlt := { F.hlt with injected := true } }) else s

/-- A hard event waits for Yarzin (R479): kind 0 witness mismatch, 1 stack lost, 2 UNFIT or DARK. -/
def State.hardEvent (s : State) (f : FieldId) (kind : Nat) (injected : Bool) : State :=
  s.updField f (fun F => { F with hardDue := F.hardDue ++ [(kind, injected)] })

/-! ### Injection points of the rim (R696) -/

def injMem : Nat := 0
def injLink : Nat := 1
def injGwy : Nat := 2
def injShf : Nat := 3
def injMir : Nat := 4
def injTly : Nat := 5
def injThm : Nat := 6

/-- Whether injection register r of field f is armed with a point. -/
def State.injArmed (s : State) (f : FieldId) (r point : Nat) : Bool :=
  decide (s.freg f Reg.INJ_PT.ARM r = 1) && decide (s.freg f Reg.INJ_PT.POINT r = point)

/-- Whether it is armed with a point for an object. -/
def State.injArmedAt (s : State) (f : FieldId) (r point target : Nat) : Bool :=
  s.injArmed f r point && decide (s.freg f Reg.INJ_PT.TARGET r = target)

/-- The argument of injection register r. -/
def State.injArg (s : State) (f : FieldId) (r : Nat) : Nat := s.freg f Reg.INJ_PT.ARG r

/-- An armed point has fired: ARM clears and DONE sets (R696). -/
def State.injFire (s : State) (f : FieldId) (r : Nat) : State :=
  (s.fset f Reg.INJ_PT.ARM 0 r).fset f Reg.INJ_PT.DONE 1 r

/-! ### HBM placement (R231, R234) -/

/-- First address beyond HBM. -/
def hbmTop : Nat := 0x3000000000

/-- Pseudo-channel index of a line number (R234). -/
def linePc (l : Nat) : Nat :=
  (l % 128) ^^^ ((l >>> 7) % 128 ^^^ (l >>> 14) % 128 ^^^ (l >>> 21) % 128 ^^^ (l >>> 28) % 128)

/-- Stack, channel, pseudo-channel and line slot of a line (R234). -/
def lineStack (l : Nat) : Nat := linePc l / 64
def lineChannel (l : Nat) : Nat := linePc l / 2 % 32
def linePch (l : Nat) : Nat := linePc l % 2
def lineOff (l : Nat) : Nat := l >>> 7

/-- The line of a pseudo-channel's slot: the inverse of the hash (R234). -/
def lineAt (pc off : Nat) : Nat :=
  off * 128 + (pc ^^^ (off % 128 ^^^ (off >>> 7) % 128 ^^^ (off >>> 14) % 128 ^^^ (off >>> 21) % 128))

/-- The bank and row of a line, placed as the controller chooses (R234). -/
def lineRow (l : Nat) : HbmRow :=
  { stack := lineStack l, channel := lineChannel l, pch := linePch l,
    bank := Config.hbmBank (linePc l) (lineOff l) % 64,
    row := Config.hbmRow (linePc l) (lineOff l) % 2 ^ 18 }

/-- Whether a stack of a field has been lost (R235). -/
def FieldMem.lost (m : FieldMem) (stack : Nat) : Bool := if stack = 0 then m.lost0 else m.lost1

/-- The memory unit of field f. -/
def State.memu (s : State) (f : FieldId) : FieldMem := (s.field f).memu
def State.updMemu (s : State) (f : FieldId) (g : FieldMem → FieldMem) : State :=
  s.updField f (fun F => { F with memu := g F.memu })

/-- Error kind and injected flag of an error code. -/
def errKind (e : Nat) : Nat := e % 4
def errInjected (e : Nat) : Bool := decide (4 ≤ e)

/-! ### Repair log (R242, R257) -/

/-- Whether entry n of the repair log names a row. -/
def Field.repairHas (F : Field) (r : HbmRow) (n : Nat) : Bool :=
  decide (F.reg Reg.MEM_REPAIR_ENTRY.VALID n = 1) && decide (F.reg Reg.MEM_REPAIR_ENTRY.STACK n = r.stack) &&
  decide (F.reg Reg.MEM_REPAIR_ENTRY.CHANNEL n = r.channel) && decide (F.reg Reg.MEM_REPAIR_ENTRY.PCH n = r.pch) &&
  decide (F.reg Reg.MEM_REPAIR_ENTRY.BANK n = r.bank) && decide (F.reg Reg.MEM_REPAIR_ENTRY.ROW n = r.row)

/-- Valid entries of the repair log (R257). -/
def Field.repairCount (F : Field) : Nat :=
  ((List.range 64).filter (fun n => F.reg Reg.MEM_REPAIR_ENTRY.VALID n = 1)).length

/-- A repair-log entry written. -/
def Field.repairWrite (F : Field) (n : Nat) (r : HbmRow) (reason : Nat) : Field :=
  (((((((F.setReg Reg.MEM_REPAIR_ENTRY.VALID 1 n).setReg Reg.MEM_REPAIR_ENTRY.STACK r.stack n).setReg
    Reg.MEM_REPAIR_ENTRY.CHANNEL r.channel n).setReg Reg.MEM_REPAIR_ENTRY.PCH r.pch n).setReg
    Reg.MEM_REPAIR_ENTRY.BANK r.bank n).setReg Reg.MEM_REPAIR_ENTRY.ROW r.row n).setReg
    Reg.MEM_REPAIR_ENTRY.REASON reason n).setReg Reg.MEM_REPAIR_ENTRY.RESULT 0 n

/-- A row is to be logged (R242): not twice; dropped with its event when the log is full. -/
def State.repairLog (s : State) (f : FieldId) (r : HbmRow) (reason : Nat) (inj : Bool) : State :=
  let F := s.field f
  let ev := fun (t : State) (dropped : Nat) => t.raise f Ev.MEM_REPAIR_LOGGED
    [(1, r.stack), (1, r.channel), (1, r.pch), (1, r.bank), (4, r.row), (1, reason), (1, dropped)] inj
  if (List.range 64).any (F.repairHas r) then s
  else
    match (List.range 64).find? (fun n => F.reg Reg.MEM_REPAIR_ENTRY.VALID n = 0) with
    | none => ev s 1
    | some n => ev (s.updField f (fun F => F.repairWrite n r reason)) 0

/-- A corrected error counts in the row-error table of 256 rows; the eighth logs the row (R242). -/
def State.rowCorrected (s : State) (f : FieldId) (r : HbmRow) (inj : Bool) : State :=
  let tab := (s.memu f).rowTab
  let c := ((tab.find? (fun x => x.1 = r)).map Prod.snd).getD 0 + 1
  let rest := tab.filter (fun x => x.1 ≠ r)
  let tab' := (rest ++ [(r, c)])
  let tab'' := tab'.drop (tab'.length - 256)
  let s1 := s.updMemu f (fun m => { m with rowTab := tab'' })
  if c = 8 then s1.repairLog f r 1 inj else s1

/-! ### Mirror planes (R244) -/

/-- Granule of an address. -/
def granuleOf (a : Nat) : Nat := a / 0x10000

/-- Whether an enabled region in force holds a granule. -/
def FieldMem.inRegion (m : FieldMem) (g : Nat) : Bool :=
  m.regions.any (fun r => r.enable && decide (r.base ≤ g) && decide (g < r.base + r.size))

/-- A write to an address sets CUR for its granule (R244). -/
def State.markCur (s : State) (f : FieldId) (a : Nat) : State :=
  s.updMemu f (fun m =>
    if m.inRegion (granuleOf a) then { m with cur := SMap.set m.cur false (granuleOf a) true } else m)

/-! ### HBM controller (R237 to R240) -/

/-- Sources of HBM accesses (R238). -/
def srcXfer : Nat := 0
def srcGateway : Nat := 1
def srcHost : Nat := 2
def srcSheaf : Nat := 3
def srcScrub : Nat := 4
def srcRim : Nat := 5

/-- A read of half-line h by the controller (R238): the state, the 64 bytes and whether the half-line is returned marked
poisoned. DESIGN CHOICE (log entry 44): the poison write-back of an uncorrectable half-line takes effect and sets CUR at once,
also where its granule's RES bit is set (R246) and also where patrol scrub made the read (R244). -/
def State.ctrlReadHalf (s : State) (f : FieldId) (h src : Nat) : State × List Byte × Bool :=
  let l := h / 2
  let st := lineStack l
  if (s.memu f).lost st then (s, List.replicate 64 0, true)
  else
    let s0 :=
      if s.injArmedAt f injMem 1 st then
        (s.injFire f injMem).updMem (fun m => m.setHbmErr f h (max (m.hbmErr[f].get 0 h % 4) 1 + 4))
      else if s.injArmedAt f injMem 2 st then
        (s.injFire f injMem).updMem (fun m => m.setHbmErr f h (max (m.hbmErr[f].get 0 h % 4) 2 + 4))
      else s
    let e := SMap.get s0.mem.hbmErr[f] 0 h
    let data := Mem.read s0.mem.hbm[f] (h * 64) 64
    match errKind e with
    | 0 => (s0, data, false)
    | 1 =>
      let s1 := ((s0.updMem (fun m => m.setHbmErr f h 0)).fcount f Reg.MEM_ECC_STAT.CORRECTED).healthInput f (errInjected e)
      (s1.rowCorrected f (lineRow l) (errInjected e), data, false)
    | 2 =>
      let s1 := ((s0.updMem (fun m => m.setHbmErr f h 3)).fcount f Reg.MEM_ECC_STAT.UNCORRECTED).healthInput f (errInjected e)
      let s2 := s1.fset f Reg.MEM_ECC_STAT.LAST_ADDR (h * 64)
      let s3 := s2.raise f Ev.MEM_UNCORRECTED
        [(8, h * 64), (1, st), (1, lineChannel l), (1, src)] (errInjected e)
      let s4 := (s3.repairLog f (lineRow l) 0 (errInjected e)).markCur f (h * 64)
      (s4, List.replicate 64 0, true)
    | _ => (s0, List.replicate 64 0, true)

/-- Nothing stays resident or held back for a stack that does not respond (R235). -/
def FieldMem.dropLost (m : FieldMem) : FieldMem := { m with
  absorber := m.absorber.filter (fun x => !m.lost (lineStack x.line))
  held := m.held.filter (fun w => !m.lost (lineStack w.line)) }

/-- A stack is lost: its resident lines and the writes held back for it are discarded (R235). -/
def FieldMem.loseStack (m : FieldMem) (stack : Nat) : FieldMem :=
  FieldMem.dropLost { m with lost0 := m.lost0 || decide (stack = 0), lost1 := m.lost1 || decide (stack ≠ 0) }

/-- A whole half-line stored by the controller, poisoned or with fresh check bits (R240). A write
to a lost stack is discarded (R235). -/
def State.ctrlWriteHalf (s : State) (f : FieldId) (h : Nat) (data : List Byte) (poisoned : Bool) :
    State :=
  if (s.memu f).lost (lineStack (h / 2)) then s
  else s.updMem (fun m =>
    (m.setHbm f (Mem.write m.hbm[f] (h * 64) (data.take 64))).setHbmErr f h (if poisoned then 3 else 0))

/-! ### The hot-line absorber (R422) -/

/-- Lines the absorber holds. -/
def absorberLines : Nat := 2048

/-- The resident copy of a line. -/
def FieldMem.resident (m : FieldMem) (l : Nat) : Option AbsLine := m.absorber.find? (fun x => x.line = l)

/-- A resident line is written to HBM and leaves the absorber. -/
def State.absorberFlush (s : State) (f : FieldId) (l : Nat) : State :=
  match (s.memu f).resident l with
  | none => s
  | some x =>
    let s1 := s.updMemu f (fun m => { m with absorber := m.absorber.filter (fun y => y.line ≠ l) })
    (s1.ctrlWriteHalf f (2 * l) (x.data.take 64) x.poisonLo).ctrlWriteHalf f (2 * l + 1)
      (x.data.drop 64) x.poisonHi

/-- A line becomes, or stays, resident as the most recently used; the least recently used line is
evicted when all are in use (R422). -/
def State.absorberPut (s : State) (f : FieldId) (x : AbsLine) : State :=
  let m := s.memu f
  let s1 :=
    if (m.resident x.line).isNone && decide (absorberLines ≤ m.absorber.length) then
      match m.absorber with
      | [] => s
      | y :: _ => s.absorberFlush f y.line
    else s
  s1.updMemu f (fun m => { m with absorber := m.absorber.filter (fun y => y.line ≠ x.line) ++ [x] })

/-- A line becomes the most recently used one, where it is resident. -/
def State.absorberTouch (s : State) (f : FieldId) (x : AbsLine) : State :=
  s.updMemu f (fun m => { m with absorber := m.absorber.filter (fun y => y.line ≠ x.line) ++ [x] })

/-- A read of a whole line past the absorber: the resident copy, which is used by it, or both half-lines (R422). -/
def State.rawLineRead (s : State) (f : FieldId) (l src : Nat) : State × AbsLine :=
  match (s.memu f).resident l with
  | some x => (s.absorberTouch f x, x)
  | none =>
    let (s1, d0, p0) := s.ctrlReadHalf f (2 * l) src
    let (s2, d1, p1) := s1.ctrlReadHalf f (2 * l + 1) src
    (s2, ⟨l, d0 ++ d1, p0, p1⟩)

/-- Bytes of a line with a run of bytes replaced from an offset. -/
def spliceBytes (old : List Byte) (off : Nat) (new : List Byte) : List Byte :=
  old.take off ++ new ++ old.drop (off + new.length)

/-- A write merged into a line (R240): a half written whole loses its poison; a half written in
part keeps it, and its new bytes are lost. A write marked poisoned poisons both halves. The line keeps its 128 bytes. -/
def AbsLine.merge (x : AbsLine) (off : Nat) (new : List Byte) (poisoned : Bool) : AbsLine :=
  if poisoned then { x with poisonLo := true, poisonHi := true }
  else
    let e := off + new.length
    let wholeLo := decide (off = 0) && decide (64 ≤ e)
    let wholeHi := decide (off ≤ 64) && decide (128 ≤ e)
    let pLo := x.poisonLo && !wholeLo
    let pHi := x.poisonHi && !wholeHi
    let d := spliceBytes x.data off new
    { x with
      data := ((if pLo then x.data.take 64 else d.take 64) ++ (if pHi then x.data.drop 64 else d.drop 64)).take 128,
      poisonLo := pLo, poisonHi := pHi }

/-- The runs of a write merged into a line. -/
def AbsLine.mergeRuns (x : AbsLine) (runs : List (Nat × List Byte)) (poisoned : Bool) : AbsLine :=
  if poisoned then x.merge 0 [] true else runs.foldl (fun y r => y.merge r.1 r.2 false) x

/-- A write within one line takes effect: it lands in the absorber, counted where the line is resident, and marks its granule
(R240, R244, R422). A line of which it replaces only a part is read first. -/
def State.lineApply (s : State) (f : FieldId) (l : Nat) (runs : List (Nat × List Byte)) (poisoned : Bool)
    (src : Nat) : State :=
  let whole := poisoned || runs.any (fun r => decide (r.1 = 0) && decide (128 ≤ r.2.length))
  let (s1, x) : State × AbsLine :=
    match (s.memu f).resident l with
    | some x => (s.fwrap f Reg.GWY_STAT.ABSORBED, x)
    | none => if whole then (s, ⟨l, List.replicate 128 0, false, false⟩) else s.rawLineRead f l src
  let s2 := if poisoned then s1.fcount f Reg.MEM_ECC_STAT.POISON_WRITES else s1
  (s2.absorberPut f (x.mergeRuns runs poisoned)).markCur f (l * 128)

/-- Whether a write to a line waits: its granule is in RES (R246), or an earlier write to the line waits (R233). -/
def FieldMem.holdsLine (m : FieldMem) (l : Nat) : Bool :=
  SMap.get m.res false (granuleOf (l * 128)) || m.held.any (fun w => w.line = l)

/-- A write of runs of bytes within one line of HBM: discarded on a lost stack (R235), held back on a RES granule (R246),
applied otherwise; with the status its requester receives. DESIGN CHOICE (log entry 44): a write held back is answered OK at
once, before it takes effect. -/
def State.lineRuns (s : State) (f : FieldId) (l : Nat) (runs : List (Nat × List Byte)) (poisoned : Bool)
    (src : Nat) : State × Nat :=
  let m := s.memu f
  if m.lost (lineStack l) then (s, St.UNCORRECTED)
  else if m.holdsLine l then
    (s.updMemu f (fun m => { m with held := m.held ++ [⟨l, runs, poisoned, src⟩] }), St.OK)
  else (s.lineApply f l runs poisoned src, St.OK)

/-- A write of bytes within one line of HBM, from address a. -/
def State.lineWrite (s : State) (f : FieldId) (a : Nat) (new : List Byte) (poisoned : Bool)
    (src : Nat) : State × Nat := s.lineRuns f (a / 128) [(a % 128, new)] poisoned src

/-- A line read as its requesters see it: held writes of the line included, since a read issued
after a write sees it (R233). -/
def State.lineRead (s : State) (f : FieldId) (l src : Nat) : State × AbsLine :=
  let (s1, x) := s.rawLineRead f l src
  (s1, ((s1.memu f).held.filter (fun w => w.line = l)).foldl (fun y w => y.mergeRuns w.runs w.poisoned) x)

/-- Bytes [a, a + n) of HBM by lines: bytes, and whether any half-line touched is poisoned. -/
def State.hbmReadLoop (s : State) (f : FieldId) (a n src : Nat) : Nat → State × List Byte × Bool
  | 0 => (s, [], false)
  | fuel + 1 =>
    if n = 0 then (s, [], false)
    else
      let off := a % 128
      let k := min n (128 - off)
      let (s1, x) := s.lineRead f (a / 128) src
      let p := (x.poisonLo && decide (off < 64)) || (x.poisonHi && decide (64 < off + k))
      let (s2, rest, q) := State.hbmReadLoop s1 f (a + k) (n - k) src fuel
      (s2, (x.data.drop off).take k ++ rest, p || q)

/-- Bytes [a, a + n) of HBM. -/
def State.hbmRead (s : State) (f : FieldId) (a n src : Nat) : State × List Byte × Bool :=
  s.hbmReadLoop f a n src (n / 128 + 2)

/-- Bytes written to HBM from address a, line by line; the first status that is not OK. -/
def State.hbmWriteLoop (s : State) (f : FieldId) (a : Nat) (new : List Byte) (poisoned : Bool)
    (src : Nat) : Nat → State × Nat
  | 0 => (s, St.OK)
  | fuel + 1 =>
    if new = [] then (s, St.OK)
    else
      let k := 128 - a % 128
      let (s1, st) := s.lineWrite f a (new.take k) poisoned src
      let (s2, st') := State.hbmWriteLoop s1 f (a + k) (new.drop k) poisoned src fuel
      (s2, if st = St.OK then st' else st)

/-- Bytes written to HBM from address a. -/
def State.hbmWrite (s : State) (f : FieldId) (a : Nat) (new : List Byte) (poisoned : Bool)
    (src : Nat) : State × Nat := s.hbmWriteLoop f a new poisoned src (new.length / 128 + 2)

/-! ### Plot stores (R147, R156 to R160) -/

/-- Bytes of a plot store. -/
def storeSize : Nat := 0x400000

/-- Requester codes of plot-store accesses (R158). -/
def rqTine : Nat := 0
def rqVector : Nat := 1
def rqXfer : Nat := 2
def rqMesh : Nat := 3
def rqDrill : Nat := 4
def rqFetch : Nat := 5
def rqScrub : Nat := 6

/-- Key of a plot-store address. -/
def storeKey (p : PlotId) (a : Nat) : Nat := p * storeSize + a

/-- A read of 64-bit word w of a plot store (R158): the state, its 8 bytes (zero where
uncorrected) and whether it is uncorrected. -/
def State.storeReadWord (s : State) (f : FieldId) (p : PlotId) (w rq : Nat) :
    State × List Byte × Bool :=
  let k := storeKey p (w * 8)
  let e := SMap.get s.mem.storeErr[f] 0 (k / 8)
  let data := Mem.read s.mem.store[f] k 8
  match errKind e with
  | 0 => (s, data, false)
  | 1 => (((s.updMem (fun m => m.setStoreErr f (k / 8) 0)).pcount f p Reg.PLT_STORE_ECC.CORRECTED).healthInput f
      (errInjected e), data, false)
  | _ =>
    let s1 := (s.pcount f p Reg.PLT_STORE_ECC.UNCORRECTED).healthInput f (errInjected e)
    let s2 := s1.pset f p Reg.PLT_STORE_ECC.LAST_ADDR (w * 8)
    (s2.raise f Ev.PLT_STORE_UNCORRECTED [(1, p), (4, w * 8), (1, rq)] (errInjected e),
      List.replicate 8 0, true)

/-- Words w to w + n − 1 of a plot store, with the uncorrected flag of each. -/
def State.storeReadWords (s : State) (f : FieldId) (p : PlotId) (w rq : Nat) :
    Nat → State × List Byte × List Bool
  | 0 => (s, [], [])
  | n + 1 =>
    let (s1, b, bad) := s.storeReadWord f p w rq
    let (s2, bs, bads) := State.storeReadWords s1 f p (w + 1) rq n
    (s2, b ++ bs, bad :: bads)

/-- The armed points STORE_SINGLE and STORE_DOUBLE fire at a plot's next read, in the
lowest-addressed word it reads (R697). -/
def State.storeInject (s : State) (f : FieldId) (p : PlotId) (a : Nat) : State :=
  let hit := fun (e : Nat) (t : State) => (t.injFire f injMem).updMem (fun m =>
    m.setStoreErr f (storeKey p a / 8) (max (SMap.get m.storeErr[f] 0 (storeKey p a / 8) % 4) e + 4))
  if s.injArmedAt f injMem 4 p then hit 1 s
  else if s.injArmedAt f injMem 5 p then hit 2 s
  else s

/-- A read of n bytes of a plot store: the bytes, uncorrected words as zero, and the flag of each
64-bit word touched (the first one is word a / 8). -/
def State.storeRead (s : State) (f : FieldId) (p : PlotId) (a n rq : Nat) :
    State × List Byte × List Bool :=
  if n = 0 then (s, [], [])
  else
    let s0 := s.storeInject f p a
    let w := a / 8
    let cnt := (a + n - 1) / 8 - w + 1
    let (s1, b, bad) := s0.storeReadWords f p w rq cnt
    (s1, (b.drop (a % 8)).take n, bad)

/-- A write into one 64-bit word: whole words take fresh check bits; a partial write of an
uncorrected word keeps the poison syndrome on it (R158). `part`: of the last byte only some bits are written, the others being
what they were. -/
def State.storeWriteWord (s : State) (f : FieldId) (p : PlotId) (a : Nat) (new : List Byte) (rq : Nat) (part : Bool := false) :
    State :=
  let k := storeKey p a
  let put := fun (t : State) (e : Nat) => t.updMem (fun m =>
    (m.setStore f (Mem.write m.store[f] k new)).setStoreErr f (k / 8) e)
  if new.length = 8 ∧ part = false then put s 0
  else
    let (s1, _, bad) := s.storeReadWord f p (a / 8) rq
    if bad then s1.updMem (fun m => m.setStoreErr f (k / 8) 3) else put s1 0

/-- A write of bytes into a plot store from address a, word by word. -/
def State.storeWriteLoop (s : State) (f : FieldId) (p : PlotId) (a : Nat) (new : List Byte) (rq : Nat) (part : Bool) :
    Nat → State
  | 0 => s
  | fuel + 1 =>
    if new = [] then s
    else
      let k := 8 - a % 8
      State.storeWriteLoop (s.storeWriteWord f p a (new.take k) rq (part && decide (new.length ≤ k))) f p (a + k)
        (new.drop k) rq part fuel

/-- A write of bytes into a plot store from address a; `part`: its last byte is written in part. -/
def State.storeWrite (s : State) (f : FieldId) (p : PlotId) (a : Nat) (new : List Byte) (rq : Nat) (part : Bool := false) :
    State := s.storeWriteLoop f p a new rq part (new.length / 8 + 2)

/-- Whether a write of n bytes from address a writes an uncorrected word in part, so that the word stays poisoned and the
instruction completes with UNCORRECTED (R158). -/
def State.storePartBad (s : State) (f : FieldId) (p : PlotId) (a n : Nat) (part : Bool) : Bool :=
  let bad := fun (w : Nat) => decide (2 ≤ errKind (SMap.get s.mem.storeErr[f] 0 (storeKey p (w * 8) / 8)))
  decide (n ≠ 0) && decide (a < storeSize) &&
    ((decide (a % 8 ≠ 0) && bad (a / 8)) ||
      ((part || decide ((a + n) % 8 ≠ 0)) && bad ((a + n - 1) / 8)))

/-- The poison syndrome written into words w to w + n − 1 of a plot store (R239, R240). -/
def State.storePoison (s : State) (f : FieldId) (p : PlotId) (w : Nat) : Nat → State
  | 0 => s
  | n + 1 => State.storePoison (s.updMem (fun m => m.setStoreErr f (storeKey p (w * 8) / 8) 3)) f p (w + 1) n

/-! ### Bins (R95 to R98, R123) -/

/-- Key of a bin row and of a bin word. -/
def binRowKey (p : PlotId) (t row : Nat) : Nat := (p * 4 + t) * 512 + row
def binKey (p : PlotId) (t row col : Nat) : Nat := binRowKey p t row * 32 + col

/-- Whether a bin row is poisoned. -/
def State.binPoisoned (s : State) (f : FieldId) (p : PlotId) (t row : Nat) : Bool :=
  SMap.get s.mem.binPoison[f] false (binRowKey p t row)

/-- The stored word of a bin, as read through its check bits (R98). -/
def State.binReadRaw (s : State) (f : FieldId) (p : PlotId) (t row col : Nat) : State × Nat :=
  let k := binKey p t row col
  let e := SMap.get s.mem.binErr[f] 0 k
  let v := SMap.get s.mem.bin[f] 0 k
  match errKind e with
  | 0 => (s, v)
  | 1 => (((s.updMem (fun m => m.setBinErr f k 0)).updField f
      (fun F => { F with binCorrected := F.binCorrected + 1 })).healthInput f (errInjected e), v)
  | _ => (((s.updField f (fun F => { F with binUncorrected := F.binUncorrected + 1 })).healthInput f (errInjected e)).raise f
      Ev.PLT_BIN_UNCORRECTED [(1, p), (1, t), (2, row), (1, col)] (errInjected e), 0x7FC00000)

/-- A bin word written, with the injection points BIN_SINGLE and BIN_DOUBLE (R98, R144). -/
def State.binWrite (s : State) (f : FieldId) (p : PlotId) (t row col v : Nat) : State :=
  let k := binKey p t row col
  let armed := fun (pt : Nat) => decide (s.freg f Reg.INJ_ARITH.ARM = 1) &&
    decide (s.freg f Reg.INJ_ARITH.POINT = pt) && decide (s.freg f Reg.INJ_ARITH.PLOT = p) &&
    decide (s.freg f Reg.INJ_ARITH.TINE = t) && decide (s.freg f Reg.INJ_ARITH.COLUMN = col)
  let e := if armed 4 then 5 else if armed 5 then 6 else 0
  let s1 := s.updMem (fun m => (m.setBin f k v).setBinErr f k e)
  if e = 0 then s1 else (s1.fset f Reg.INJ_ARITH.ARM 0).fset f Reg.INJ_ARITH.DONE 1

/-- A bin row's poison bit set or cleared (R123). -/
def State.setBinPoison (s : State) (f : FieldId) (p : PlotId) (t row : Nat) (b : Bool) : State :=
  s.updMem (fun m => m.setBinPoison f (binRowKey p t row) b)

/-! ### Remap (R248, R249) -/

/-- The i-th physical plot not in the fallow mask (R248); none when there is no such plot. -/
def physOf (mask i : Nat) : Option Nat := ((List.range 272).filter (fun q => !bit mask q))[i]?

/-- The logical index of a physical plot that is in service: not fallow and among the first 256. -/
def logicalOf (mask q : Nat) : Option Nat :=
  if bit mask q then none
  else
    let i := ((List.range q).filter (fun r => !bit mask r)).length
    if i < 256 then some i else none

/-- FLD_FALLOW_RUN as one mask (R260). -/
def Field.fallowRun (F : Field) : Nat := F.reg Reg.FLD_FALLOW_RUN.RUN

/-- Whether the slot of logical plot i is vacant: its plot was made fallow since the remap (R249). -/
def Field.vacant (F : Field) (i : Nat) : Bool :=
  match physOf F.memu.remap i with
  | none => true
  | some q => bit F.fallowRun q

def State.vacant (s : State) (f : FieldId) (p : PlotId) : Bool := (s.field f).vacant p

/-- Whether a field's plot windows and partition are in service (R692), and its plot clocks run (R655). DESIGN CHOICE (log entry
39): a doorbell ring while THERMTRIP has stopped the plot clocks sets nothing. -/
def State.partitionUp (s : State) (f : FieldId) : Bool :=
  !s.hub.pwr.trip && !(s.svc f = svcPartitionReset || s.svc f = svcUnfit || s.svc f = svcDark)

end Sys2Proof.Machine
end

