-- ==== Sys2Proof/Machine/Events.lean ====
section
/-! DEFINITION. Event records, rings, forwarding and MSI-X (R607 to R613): what becomes of the
events a command raised, and how a meaning ends. -/

namespace Sys2Proof.Machine

open Sys2Proof

/-- MSI-X function number of an event's raiser (R601, R609). -/
def evFn (src : Option FieldId) : Nat := match src with | none => 0 | some f => f + 1

/-- The tally a record carries (R607): the raiser's, the hub's for hub events. -/
def State.evTally (s : State) (src : Option FieldId) : Nat :=
  match src with
  | none => s.hub.tally
  | some f => (s.field f).tally.tInt

/-- The 32-byte record of an event (R607). -/
def State.evRecord (s : State) (e : RaisedEvent) (flags seq : Nat) : List Byte :=
  let node := match e.src with | none => s.pkgNode | some f => s.node f
  leBytes 2 e.num ++ leBytes 1 e.cls ++ leBytes 1 flags ++ leBytes 2 node ++ leBytes 2 seq ++
    leBytes 8 (s.evTally e.src) ++ (e.payload ++ List.replicate 16 0).take 16

/-- FLAGS of a record (R607): INJECTED, FORWARDED, HUB. -/
def evFlags (e : RaisedEvent) : Nat := b2n e.injected + 4 * b2n e.src.isNone

/-- A record of class c has been written for function fn: its message is due unless one has been
sent since CONS was last written (R610). -/
def State.msixCall (s : State) (fn c : Nat) : State :=
  if bit (SMap.get s.hub.msixSent 0 fn) c then s
  else s.updHub (fun H => { H with msixDue := SMap.set H.msixDue 0 fn (setBit (SMap.get H.msixDue 0 fn) c true) })

/-- The index fields of a ring: PROD − CONS equals the ring's size (R608). -/
def ringFull (prod cons sizeLog : Nat) : Bool :=
  decide ((prod + 0x10000 - cons) % 0x10000 = 2 ^ sizeLog)

/-- A 32-byte record offered to the hub ring (R608); `c` is its class. -/
def State.hubRing (s : State) (rcd : List Byte) (c : Nat) : State :=
  if s.hreg Reg.HUB_EVT_RING.ENABLE = 0 then s
  else
    let prod := s.hreg Reg.HUB_EVT_IDX.PROD
    let sz := s.hreg Reg.HUB_EVT_RING.SIZE_LOG
    if ringFull prod (s.hreg Reg.HUB_EVT_IDX.CONS) sz then s.hcount Reg.HUB_EVT_IDX.LOST
    else
      let a := s.hreg Reg.HUB_EVT_RING.BASE * 4096 + prod % 2 ^ sz * 32
      ((s.sramWrite a rcd).hset Reg.HUB_EVT_IDX.PROD (prod + 1)).msixCall 0 c

/-- A record offered to field f's ring (R608). A ring outside HBM takes no bytes. A DARK field's rim writes none: its HBM is
unreachable (R27). -/
def State.fieldRing (s : State) (f : FieldId) (rcd : List Byte) (c : Nat) : State :=
  if s.freg f Reg.FLD_EVT_RING.ENABLE = 0 ∨ s.svc f = svcDark then s
  else
    let prod := s.freg f Reg.FLD_EVT_IDX.PROD
    let sz := s.freg f Reg.FLD_EVT_RING.SIZE_LOG
    if ringFull prod (s.freg f Reg.FLD_EVT_IDX.CONS) sz then s.fcount f Reg.FLD_EVT_IDX.LOST
    else
      let a := s.freg f Reg.FLD_EVT_RING.BASE * 4096 + prod % 2 ^ sz * 32
      let s1 := if a + 32 ≤ hbmTop then (s.hbmWrite f a rcd false srcRim).1 else s
      (s1.fset f Reg.FLD_EVT_IDX.PROD (prod + 1)).msixCall (f + 1) c

/-- A record is queued for the collector when its class is forwarded (R613); not by a DARK rim (R27). -/
def State.forward (s : State) (f : FieldId) (rcd : List Byte) (c : Nat) : State :=
  if s.svc f ≠ svcDark && nodeNamed (s.freg f Reg.FLD_EVT_FWD.COLLECTOR) && bit (s.freg f Reg.FLD_EVT_FWD.CLASSES) c then
    s.updField f (fun F => { F with fwdQueue := F.fwdQueue ++ [rcd] })
  else s

/-- One raised event is recorded: Yarzin's copy (R611), the ring (R608), forwarding (R613). -/
def State.record (s : State) (e : RaisedEvent) : State :=
  match e.src with
  | none =>
    let rcd := s.evRecord e (evFlags e) (s.hreg Reg.HUB_EVT_IDX.PROD)
    let s1 := s.updHub (fun H => { H with yarzinEvents := H.yarzinEvents ++ [rcd] })
    s1.hubRing rcd e.cls
  | some f =>
    let rcd := s.evRecord e (evFlags e) (s.freg f Reg.FLD_EVT_IDX.PROD)
    let s1 := s.updHub (fun H => { H with yarzinEvents := H.yarzinEvents ++ [rcd] })
    (s1.fieldRing f rcd e.cls).forward f rcd e.cls

/-- The raised events are recorded in order; writing a record can raise further events. -/
def State.drainLoop (s : State) : Nat → State
  | 0 => s
  | fuel + 1 =>
    match s.events with
    | [] => s
    | e :: es => State.drainLoop (({ s with events := es } : State).record e) fuel

/-- Every raised event is recorded. -/
def State.drain (s : State) : State := s.drainLoop (64 + 8 * s.events.length)

/-- How a meaning ends: its events are recorded, and the next state is reached. -/
def finish (s : State) : Result := .next s.drain

end Sys2Proof.Machine
end

