-- ==== Sys2Proof/Machine/Mailbox.lean ====
section
/-! DEFINITION. Mailbox pairs (R172 to R174, R186, R614 to R619, R682): sending a notice, its
delivery, its acknowledgement, and what resets and function-level resets do to it. -/

namespace Sys2Proof.Machine

open Sys2Proof

/-- OUT_META [47:40] TARGET of MBX_RIMP: the logical plot addressed (R614). -/
def Reg.MBX_RIMP_OUT_META.TARGET : RegField := ⟨0xB0068, 0, 1, 40, 8, 0, 1, .rw, 0, some 0⟩

/-- IN_META [47:40] SENDER of MBX_RIMP: the logical plot of the delivered notice (R614). -/
def Reg.MBX_RIMP_IN_META.SENDER : RegField := ⟨0xB0048, 0, 1, 40, 8, 0, 1, .ro, 0, some 0⟩

/-- The register fields every mailbox endpoint has (R186). -/
inductive MbxFld where
  | inPtr | inTag | inEpoch | inFull | role | outPtr | outTag | outEpoch | pending | refused
  | ackCode | done
  deriving DecidableEq, Repr

/-- A field of the hub's endpoints. -/
def MbxFld.hub : MbxFld → RegField
  | .inPtr => Reg.MBX_HUB_IN_PTR.PTR
  | .inTag => Reg.MBX_HUB_IN_META.TAG
  | .inEpoch => Reg.MBX_HUB_IN_META.EPOCH
  | .inFull => Reg.MBX_HUB_IN_META.FULL
  | .role => Reg.MBX_HUB_ROLE.EPOCH
  | .outPtr => Reg.MBX_HUB_OUT_PTR.PTR
  | .outTag => Reg.MBX_HUB_OUT_META.TAG
  | .outEpoch => Reg.MBX_HUB_OUT_META.EPOCH
  | .pending => Reg.MBX_HUB_OUT_META.PENDING
  | .refused => Reg.MBX_HUB_OUT_META.REFUSED
  | .ackCode => Reg.MBX_HUB_OUT_ACK.CODE
  | .done => Reg.MBX_HUB_OUT_ACK.DONE

/-- A field of a rim's endpoints. -/
def MbxFld.rim : MbxFld → RegField
  | .inPtr => Reg.MBX_RIM_IN_PTR.PTR
  | .inTag => Reg.MBX_RIM_IN_META.TAG
  | .inEpoch => Reg.MBX_RIM_IN_META.EPOCH
  | .inFull => Reg.MBX_RIM_IN_META.FULL
  | .role => Reg.MBX_RIM_ROLE.EPOCH
  | .outPtr => Reg.MBX_RIM_OUT_PTR.PTR
  | .outTag => Reg.MBX_RIM_OUT_META.TAG
  | .outEpoch => Reg.MBX_RIM_OUT_META.EPOCH
  | .pending => Reg.MBX_RIM_OUT_META.PENDING
  | .refused => Reg.MBX_RIM_OUT_META.REFUSED
  | .ackCode => Reg.MBX_RIM_OUT_ACK.CODE
  | .done => Reg.MBX_RIM_OUT_ACK.DONE

/-- A field of a plot's endpoint. -/
def MbxFld.plot : MbxFld → RegField
  | .inPtr => Reg.MBX_PLOT_IN_PTR.PTR
  | .inTag => Reg.MBX_PLOT_IN_META.TAG
  | .inEpoch => Reg.MBX_PLOT_IN_META.EPOCH
  | .inFull => Reg.MBX_PLOT_IN_META.FULL
  | .role => Reg.MBX_PLOT_ROLE.EPOCH
  | .outPtr => Reg.MBX_PLOT_OUT_PTR.PTR
  | .outTag => Reg.MBX_PLOT_OUT_META.TAG
  | .outEpoch => Reg.MBX_PLOT_OUT_META.EPOCH
  | .pending => Reg.MBX_PLOT_OUT_META.PENDING
  | .refused => Reg.MBX_PLOT_OUT_META.REFUSED
  | .ackCode => Reg.MBX_PLOT_OUT_ACK.CODE
  | .done => Reg.MBX_PLOT_OUT_ACK.DONE

/-- Number of a hub endpoint (R688). -/
def hubMbx : MbxEp → Nat
  | .host => 0
  | .yzh => 1
  | .yzr f => 2 + f
  | _ => 0

/-- A field of an endpoint. -/
def State.mbx (s : State) (ep : MbxEp) (k : MbxFld) : Nat :=
  match ep with
  | .fld f => s.freg f k.rim 0
  | .rimp f => s.freg f k.rim 1
  | .plot f p => s.preg f p k.plot
  | e => s.hreg k.hub (hubMbx e)

/-- An endpoint's field set. -/
def State.mbxSet (s : State) (ep : MbxEp) (k : MbxFld) (v : Nat) : State :=
  match ep with
  | .fld f => s.fset f k.rim v 0
  | .rimp f => s.fset f k.rim v 1
  | .plot f p => s.pset f p k.plot v
  | e => s.hset k.hub v (hubMbx e)

/-- An endpoint's inbound slot. -/
def State.slot (s : State) (ep : MbxEp) : MbxSlot :=
  match ep with
  | .fld f => (s.field f).slotFld
  | .rimp f => (s.field f).slotRimp
  | .plot f p => (s.plot f p).slot
  | e => SMap.get s.hub.slots .free (hubMbx e)

/-- An endpoint's inbound slot set. -/
def State.setSlot (s : State) (ep : MbxEp) (x : MbxSlot) : State :=
  match ep with
  | .fld f => s.updField f (fun F => { F with slotFld := x })
  | .rimp f => s.updField f (fun F => { F with slotRimp := x })
  | .plot f p => s.updPlot f p (fun P => { P with slot := x })
  | e => s.updHub (fun H => { H with slots := SMap.set H.slots .free (hubMbx e) x })

/-- The endpoint a sender's notice goes to (R614). -/
def State.mbxPeer (s : State) (ep : MbxEp) : MbxEp :=
  match ep with
  | .host => .yzh
  | .yzh => .host
  | .yzr f => .fld f
  | .fld f => .yzr f
  | .rimp f => .plot f (BitVec.ofNat 8 (s.freg f Reg.MBX_RIMP_OUT_META.TARGET)).toFin
  | .plot f _ => .rimp f

/-- An acknowledgement reaches a sender (R174, R618); it is discarded where the sender's domain
was reset since (R619). -/
def State.mbxAck (s : State) (sender : MbxEp) (live : Bool) (code : Nat) : State :=
  if live then
    ((s.mbxSet sender .ackCode code).mbxSet sender .done 1).mbxSet sender .pending 0
  else s

/-- A write of SEND at an endpoint (R174, R615). -/
def State.mbxSend (s : State) (ep : MbxEp) : State :=
  if s.mbx ep .pending = 1 then s.mbxSet ep .refused 1
  else
    let s1 := s.mbxSet ep .pending 1
    let rcv := s1.mbxPeer ep
    match s1.slot rcv with
    | .free => s1.setSlot rcv (.claimed ep true (s1.mbx ep .outPtr) (s1.mbx ep .outTag) (s1.mbx ep .outEpoch))
    | _ => s1.mbxAck ep true St.BUSY

/-- Whether a receiver can take a notice now (R173, R616). -/
def State.mbxCanTake (s : State) (ep : MbxEp) : Bool :=
  match ep with
  | .plot f p => decide ((s.plot f p).drill.st ≠ .held) && decide (s.svc f ≠ svcPartitionReset)
  | .fld f => decide (s.svc f ≠ svcDark)
  | .rimp f => decide (s.svc f ≠ svcDark)
  | _ => true

/-- The wake event of a delivery (R617): Yarzin's interrupt, the host's MAILBOX message (R610); a
drill's MBX_IN is read off FULL. -/
def State.mbxWake (s : State) (ep : MbxEp) : State :=
  match ep with
  | .host => s.msixCall 0 4
  | .fld f => s.msixCall (f + 1) 9
  | .rimp f => s.msixCall (f + 1) 9
  | .plot _ _ => s
  | e => s.emit (.yarzinWake e)

/-- A claimed notice is delivered when its receiver can take it (R173, R616). -/
def State.mbxDeliver (s : State) (ep : MbxEp) : State :=
  match s.slot ep with
  | .claimed sender live ptr tag epoch =>
    if !s.mbxCanTake ep then s
    else if epoch ≠ s.mbx ep .role then (s.mbxAck sender live St.STALE_ROLE).setSlot ep .free
    else
      let s1 := (((s.mbxSet ep .inPtr ptr).mbxSet ep .inTag tag).mbxSet ep .inEpoch epoch).mbxSet ep .inFull 1
      let s2 := match ep, sender with
        | .rimp f, .plot _ p => s1.fset f Reg.MBX_RIMP_IN_META.SENDER p
        | _, _ => s1
      (s2.setSlot ep (.delivered sender live)).mbxWake ep
  | _ => s

/-- The code a sender receives for a receiver's code (R618). -/
def ackCodeOf (code : Nat) : Nat :=
  if code = St.OK then St.OK
  else if code ≤ 0xFF ∨ (0x300 ≤ code ∧ code ≤ 0x3FF) then St.ACK_CODE_RESERVED
  else code

/-- A write of IN_ACK (R173, R618): discarded while FULL is 0. -/
def State.mbxInAck (s : State) (ep : MbxEp) (code : Nat) : State :=
  if s.mbx ep .inFull = 0 then s
  else
    let s1 := s.mbxSet ep .inFull 0
    match s1.slot ep with
    | .delivered sender live => (s1.mbxAck sender live (ackCodeOf (code % 0x10000))).setSlot ep .free
    | _ => s1

/-- A reset of a receiver's domain, or a function-level reset (R618): a delivered notice is
acknowledged with RECEIVER_RESET, a claim keeps waiting. -/
def State.mbxReceiverReset (s : State) (ep : MbxEp) : State :=
  match s.slot ep with
  | .delivered sender live => ((s.mbxAck sender live St.RECEIVER_RESET).setSlot ep .free).mbxSet ep .inFull 0
  | _ => s

/-- A slot whose notice came from a sender whose domain has been reset (R619). -/
def MbxSlot.orphan (x : MbxSlot) (sender : MbxEp) : MbxSlot :=
  match x with
  | .claimed a live ptr tag epoch => .claimed a (live && decide (a ≠ sender)) ptr tag epoch
  | .delivered a live => .delivered a (live && decide (a ≠ sender))
  | .free => .free

/-- A sender's notice under way loses its acknowledgement (R619). -/
def State.mbxSenderReset (s : State) (ep : MbxEp) : State :=
  match ep with
  | .rimp f => s.updField f (fun F => { F with
      plots := F.plots.map (fun (k, P) => (k, { P with slot := P.slot.orphan ep })) })
  | e => s.setSlot (s.mbxPeer e) ((s.slot (s.mbxPeer e)).orphan e)

/-! ### Meanings -/

/-- MAILBOX_SEND (R174, R615). -/
def execMailboxSend (ep : MbxEp) (s : State) : Result := .next (s.mbxSend ep)

/-- MAILBOX_DELIVER (R173, R616). -/
def execMailboxDeliver (ep : MbxEp) (s : State) : Result := .next (s.mbxDeliver ep)

/-- MAILBOX_IN_ACK (R618). -/
def execMailboxInAck (ep : MbxEp) (code : Nat) (s : State) : Result := .next (s.mbxInAck ep code)

end Sys2Proof.Machine
end

