-- ==== Sys2Proof/Machine/PlotOps.lean ====
section
/-! DEFINITION. Operations of a plot that its units share: claims and the bin scoreboard
(R97, R153), class reports and drift records (R131, R136), the completion log (R198 to R201), local
interrupts (R151), and the plot's register window (R176 to R186, R226 to R229). -/

namespace Sys2Proof.Machine

open Sys2Proof

/-! ### Tile descriptors (R203, R204) -/

/-- A little-endian field of a descriptor: n bytes from byte a. -/
def dfield (d a n : Nat) : Nat := bits d (8 * a) (8 * n)

def tmmM (d : Nat) : Nat := dfield d 24 2
def tmmN (d : Nat) : Nat := dfield d 26 1
def tmmK (d : Nat) : Nat := dfield d 27 1
def tmmOverwrite (d : Nat) : Bool := bit (dfield d 32 2) 0
def tmmFresh (d : Nat) : Bool := bit (dfield d 32 2) 1
def tmmNonsat (d : Nat) : Bool := bit (dfield d 32 2) 2
def tmmTag (d : Nat) : Nat := dfield d 34 2

/-- Rows of tine t: ceil((M − t) / 4) (R87). -/
def tineRows (m t : Nat) : Nat := (m + 3 - t) / 4

/-- First bin row of an operation (R205). -/
def tmmBinRow (d md : Nat) : Nat := (bits (dfield d 30 2) 0 9 + bits md 12 9) % 512

/-- A degenerate shape (R107). -/
def tmmDegenerate (d : Nat) : Bool := decide (tmmM d = 0) || decide (tmmN d = 0) || decide (tmmK d = 0)

/-- The degenerate shape that still writes +0 rows (R107). -/
def tmmZeroRows (d : Nat) : Bool :=
  decide (tmmM d ≠ 0) && decide (tmmN d ≠ 0) && decide (tmmK d = 0) && tmmOverwrite d

/-- Whether a tile operation writes a row of segment `seg` of tine t (R87, R97). -/
def tmmWritesSeg (d md t seg : Nat) : Bool :=
  (!tmmDegenerate d || tmmZeroRows d) &&
  (List.range (tineRows (tmmM d) t)).any (fun j => (tmmBinRow d md + j) % 512 / 32 = seg)

/-! ### Claims (R153, R154) -/

/-- Bytes per claim line. -/
def claimLine (a : Nat) : Nat := a / 128

/-- Whether two claims conflict: they overlap and at least one is a write. -/
def Claim.conflicts (a b : Claim) : Bool :=
  decide (a.lo ≤ b.hi) && decide (b.lo ≤ a.hi) && (a.write || b.write)

/-- Whether a claim is free of every claim still held by the given entries. -/
def claimFree (q : List QEntry) (c : Claim) : Bool := q.all (fun e => e.claims.all (fun x => !x.conflicts c))

/-- The bin segment (tine, segment) of a local address, when it lies in a bin window (R95, R147). -/
def binSegOf (a : Nat) : Option (Nat × Nat) :=
  if 0x400000 ≤ a ∧ a < 0x440000 then some ((a - 0x400000) / 0x10000, (a - 0x400000) % 0x10000 / 4096)
  else none

/-- Whether an unretired tile operation among the entries keeps a segment busy (R97). -/
def segBusy (q : List QEntry) (t seg : Nat) : Bool :=
  q.any (fun e => match e.op with | .tmm d md => tmmWritesSeg d md t seg | _ => false)

/-- Whether QSN x was given before QSN y: QSNs count modulo 2^16, and fewer than 2^15 lie between two in the queue. -/
def qsnBefore (x y : Nat) : Bool := decide (x ≠ y) && decide ((y + 0x10000 - x) % 0x10000 < 0x8000)

/-- The entries issued before the operation that QSN would name. -/
def issuedBefore (q : List QEntry) (qsn : Nat) : List QEntry := q.filter (fun e => qsnBefore e.qsn qsn)

/-- Whether a claim's lines reach into a bin segment. -/
def Claim.inSeg (c : Claim) (t seg : Nat) : Bool :=
  let lo := (0x400000 + t * 0x10000 + seg * 4096) / 128
  decide (c.lo ≤ lo + 31) && decide (lo ≤ c.hi)

/-- Whether a claim reaches a segment that some tile operation among the entries keeps busy. -/
def claimBusySeg (q : List QEntry) (c : Claim) : Bool :=
  (List.range 4).any (fun t => (List.range 16).any (fun g => c.inSeg t g && segBusy q t g))

/-- The entries that stand before the one with a QSN, oldest first. -/
def entriesBefore (q : List QEntry) (qsn : Nat) : List QEntry := q.takeWhile (fun e => e.qsn ≠ qsn)

/-! ### Class reports and the drift table (R131, R136) -/

/-- A fresh layer record. -/
def DriftRec.zero : DriftRec :=
  { samples := 0, dropped := 0, maxE := none, buckets := List.replicate 16 0,
    classes := List.replicate 6 0, mismatch := 0, skipped := 0, event := false }

/-- Layer records the drift table holds (R131). -/
def driftSize : Nat := 1024

/-- A report for a tag: the tag's record changed by g; or, with the table full and the tag new, n
added to UNRECORDED and the event raised once per period (R131), marked where an injection made the report (R145). -/
def State.driftReport (s : State) (f : FieldId) (tag n : Nat) (g : DriftRec → DriftRec) (inj : Bool := false) : State :=
  let d := (s.field f).drift
  match SMap.find d.recs tag with
  | some r => s.updField f (fun F => { F with drift := { d with recs := SMap.insert d.recs tag (g r) } })
  | none =>
    if d.recs.length < driftSize then
      s.updField f (fun F => { F with drift := { d with recs := SMap.insert d.recs tag (g DriftRec.zero) } })
    else
      let s1 := s.updField f (fun F => { F with
        drift := { d with unrecorded := satAdd 32 d.unrecorded n, fullEvent := true } })
      if d.fullEvent then s1 else s1.raise f Ev.FLD_DRIFT_TABLE_FULL [] inj

/-- The plot's counter of a class (R137). -/
def classReg (c : Nat) : RegField :=
  match c with
  | 1 => Reg.PLT_CLASS_LO.NAN_IN
  | 2 => Reg.PLT_CLASS_LO.INF_IN
  | 3 => Reg.PLT_CLASS_LO.SAT_BLOCK
  | 4 => Reg.PLT_CLASS_LO.SAT_RANGE
  | 5 => Reg.PLT_CLASS_HI.UNDERFLOW
  | _ => Reg.PLT_CLASS_HI.TERN_RESERVED

/-- n reports of class c by an operation of a plot; under a layer tag where it has one (R136). -/
def State.classReport (s : State) (f : FieldId) (p : PlotId) (tag : Option Nat) (c n : Nat) (inj : Bool := false) : State :=
  if n = 0 ∨ c = 0 then s
  else
    let s1 := s.pcount f p (classReg c) n
    match tag with
    | none => s1
    | some g => s1.driftReport f g n (fun r =>
        { r with classes := r.classes.set (c - 1) (satAdd 32 (r.classes.getD (c - 1) 0) n) }) inj

/-- Reports counted by class: index c holds the count of class c. -/
abbrev ClsCounts := List Nat

def clsZero : ClsCounts := [0, 0, 0, 0, 0, 0, 0]

/-- n more reports of class c. -/
def clsBump (cc : ClsCounts) (c n : Nat) : ClsCounts := cc.set c (cc.getD c 0 + n)

/-- The counts of a list of classes. -/
def clsOf (cs : List Cls) : ClsCounts := cs.foldl (fun cc c => clsBump cc c 1) clsZero

def clsAdd (a b : ClsCounts) : ClsCounts := List.zipWith (· + ·) a b

/-- CLASS_SEEN of the counts: bit c − 1 for class c (R136). -/
def clsSeen (cc : ClsCounts) : Nat :=
  (List.range 6).foldl (fun m i => if cc.getD (i + 1) 0 = 0 then m else m ||| 2 ^ i) 0

/-- Reports of every class. -/
def State.classReports (s : State) (f : FieldId) (p : PlotId) (tag : Option Nat) (cc : ClsCounts) (inj : Bool := false) :
    State :=
  (List.range 6).foldl (fun t i => t.classReport f p tag (i + 1) (cc.getD (i + 1) 0) inj) s

/-! ### The queue and the completion log (R194 to R201) -/

/-- The tile-operation queue's size (R155) and the completion log's (R199). -/
def queueSize : Nat := 32
def cqSize : Nat := 64

/-- UNIT codes of R198. -/
def QOp.unit : QOp → Nat
  | .tmm _ _ => 0
  | .tvec _ _ => 1
  | .txfer _ => 2
  | _ => 3

/-- TAG of the completion record (R198). -/
def QOp.tag : QOp → Nat
  | .tmm d _ => tmmTag d
  | .tvec d _ => dfield d 42 2
  | .txfer d => dfield d 32 2
  | _ => 0

/-- The completion record of R198. -/
def cqRecord (qsn tag status seen unit : Nat) (int : Bool) : Nat :=
  qsn + tag * 2 ^ 16 + status * 2 ^ 32 + seen * 2 ^ 48 + unit * 2 ^ 54 + b2n int * 2 ^ 56 + 2 ^ 63

/-- A completion is logged and summarised (R199). -/
def State.logCompletion (s : State) (f : FieldId) (p : PlotId) (qsn tag status seen unit : Nat)
    (int : Bool) : State :=
  let s1 := s.pset f p Reg.PLT_CQ_SUMMARY.CLASS_SEEN (s.preg f p Reg.PLT_CQ_SUMMARY.CLASS_SEEN ||| seen)
  let s2 :=
    if status = St.OK ∨ s1.preg f p Reg.PLT_CQ_SUMMARY.ERR = 1 then s1
    else ((s1.pset f p Reg.PLT_CQ_SUMMARY.ERR 1).pset f p Reg.PLT_CQ_SUMMARY.ERR_QSN qsn).pset f p
      Reg.PLT_CQ_SUMMARY.ERR_STATUS status
  if status = St.OK ∧ int = false then s2
  else if (s2.plot f p).cq.length < cqSize then
    s2.updPlot f p (fun P => { P with cq := P.cq ++ [cqRecord qsn tag status seen unit int] })
  else (s2.pcount f p Reg.PLT_CQ_STATUS.LOST).pset f p Reg.PLT_CQ_STATUS.OVERFLOW 1

/-- An instruction completes with a status and CLASS_SEEN mask; its entry is freed (R196). -/
def State.complete (s : State) (f : FieldId) (p : PlotId) (e : QEntry) (status seen : Nat) : State :=
  (s.updPlot f p (fun P => { P with queue := P.queue.filter (fun x => x.qsn ≠ e.qsn) })).logCompletion
    f p e.qsn e.op.tag status seen e.op.unit e.int

/-- The entry with the QSN of `e` changed by g. -/
def State.updEntry (s : State) (f : FieldId) (p : PlotId) (qsn : Nat) (g : QEntry → QEntry) : State :=
  s.updPlot f p (fun P => { P with queue := P.queue.map (fun x => if x.qsn = qsn then g x else x) })

/-- The status of a completed TMM or TVEC that was not refused (R197). -/
def opStatus (uncorrected binPoisoned modeNA : Bool) : Nat :=
  if uncorrected then St.UNCORRECTED
  else if binPoisoned then St.BIN_POISONED
  else if modeNA then St.MODE_NOT_APPLICABLE
  else St.OK

/-! ### Local interrupts (R151, R201) -/

/-- Whether the log holds a record that asked for an interrupt, of the transfer unit or another. -/
def cqInt (P : Plot) (xfer : Bool) : Bool :=
  P.cq.any (fun r => bit r 56 && (decide (bits r 54 2 = 2) == xfer)) ||
    decide (P.reg Reg.PLT_CQ_STATUS.OVERFLOW = 1)

/-- mip (R151). -/
def Plot.mip (P : Plot) : Nat :=
  b2n (P.reg Reg.PLT_DOORBELL.PENDING != 0) * 2 ^ 16 + b2n (P.reg Reg.MBX_PLOT_IN_META.FULL = 1) * 2 ^ 17 +
  b2n (P.reg Reg.MBX_PLOT_OUT_ACK.DONE = 1) * 2 ^ 18 + b2n (cqInt P false) * 2 ^ 19 +
  b2n (cqInt P true) * 2 ^ 20

/-- Interrupt bits set in both mip and mie. -/
def Plot.pendingInts (P : Plot) : List Nat :=
  [16, 17, 18, 19, 20].filter (fun i => bit P.mip i && bit P.drill.mieReg i)

/-! ### Drill state changes (R149, R150, R177, R720) -/

def State.updDrill (s : State) (f : FieldId) (p : PlotId) (g : Drill → Drill) : State :=
  s.updPlot f p (fun P => { P with drill := g P.drill })

/-- HOLD set in any state: HELD at once, a pending HALT_REQ cleared, a wait abandoned. -/
def Drill.hold (d : Drill) : Drill := { d with st := .held, wait := .none, haltReq := false }

/-- HOLD cleared from HELD: the boot ROM starts (R149). Cycle counting starts with it (R148). DESIGN CHOICE (log entry 39):
where the plot was held and has not been reset, IN_TRAP and mstatus.MIE are cleared, and the other CSRs, the integer registers
and minstret stand as they were; the spec does not say. -/
def Drill.start (d : Drill) : Drill :=
  { d with st := .running, wait := .none, pc := 0x800000, inTrap := false, mie := false, haltReq := false,
           mcycle := 0, fetchBase := 0, fetchBuf := [] }

/-- HALTED with its two pcs (R720). -/
def Drill.halt (d : Drill) (a b : Nat) : Drill :=
  { d with st := .halted, wait := .none, haltReq := false, haltPc := a, resumePc := b }

/-- A halt (R150, R720), with its event. -/
def State.drillHalt (s : State) (f : FieldId) (p : PlotId) (haltPc resumePc : Nat) : State :=
  (s.updDrill f p (fun d => d.halt haltPc resumePc)).raise f Ev.PLT_DRILL_HALT [(1, p), (4, haltPc)]

/-- HOLD cleared in a held plot (R149, R574): the drill starts in the boot ROM, which delivers the plot's image unless
PLT_BOOT gives it none. -/
def Plot.bootStart (P : Plot) : Plot :=
  if P.reg Reg.PLT_BOOT.NONE = 1 then { P with drill := P.drill.start, boot := BootUnit.reset }
  else { P.setReg Reg.PLT_BOOT.STATUS 0 with drill := P.drill.start, boot := { BootUnit.reset with active := true } }

/-- A write of PLT_DRILL_CTL by an agent other than the drill (R177). -/
def State.drillCtl (s : State) (f : FieldId) (p : PlotId) (hold haltReq resume : Bool) : State :=
  s.updPlot f p (fun P =>
    let d := P.drill
    if hold then { P with drill := d.hold, boot := BootUnit.reset }
    else if d.st = .held then P.bootStart
    else
      let d1 := if haltReq && (d.st = .running || d.st = .waiting) then { d with haltReq := true } else d
      { P with drill := if resume && (d.st = .halted) then { d1 with st := .running, pc := d.resumePc } else d1 })

/-- State code of PLT_DRILL_STATUS (R178). -/
def DrillState.code : DrillState → Nat
  | .held => 0 | .running => 1 | .waiting => 2 | .halted => 3 | .faulted => 4

/-! ### Register access (R13, R15) -/

/-- Where an access of `bytes` bytes at offset `off` meets a register field: position inside the
field, length and the bits written there. -/
def RegField.part (k : RegField) (n i off bytes value : Nat) : Option (Nat × Nat × Nat) :=
  let lo := (k.off + n * k.stride) * 8 + k.lo + i * k.bitStride
  let a := max lo (off * 8)
  let b := min (lo + k.width) ((off + bytes) * 8)
  if a < b then some (a - lo, b - a, bits value (a - off * 8) (b - a)) else none

/-- The value a field takes when software writes some of its bits (R13). -/
def Access.write (acc : Access) (old pos len v : Nat) : Nat :=
  match acc with
  | .ro => old
  | .rw => setBits old pos len v
  | .rws => setBits old pos len v
  | .sl => setBits old pos len v
  | .w1c => old ^^^ (old &&& (v <<< pos))
  | .w1s => old ||| (v <<< pos)
  | .wo => old

/-- Every instance (register n, repeat i) of a field. -/
def RegField.instances (k : RegField) : List (Nat × Nat) :=
  (List.range k.count).flatMap (fun n => (List.range k.bitCount).map (fun i => (n, i)))

/-- The instances of a field that an access can meet, found from the access's offset. -/
def RegField.near (k : RegField) (off bytes : Nat) : List (Nat × Nat) :=
  if k.stride = 0 then k.instances
  else
    let n0 := (off - k.off) / k.stride
    let n1 := (off + bytes - k.off) / k.stride
    ((List.range (n1 - n0 + 2)).map (fun j => n0 - 1 + j)).filter (fun n => n < k.count) |>.flatMap
      (fun n => (List.range k.bitCount).map (fun i => (n, i)))

/-- The bits an access reads: each field's view placed at its position; WO fields and bits that
belong to no field read 0 (R13, R15). -/
def readFields (ks : List RegField) (view : RegField → Nat → Nat → Nat) (off bytes : Nat) : Nat :=
  ks.foldl (fun acc k =>
    if k.access = .wo then acc
    else (k.near off bytes).foldl (fun acc (n, i) =>
      let lo := (k.off + n * k.stride) * 8 + k.lo + i * k.bitStride
      match k.part n i off bytes 0 with
      | some (pos, len, _) => acc + bits (view k n i) pos len * 2 ^ (lo + pos - off * 8)
      | none => acc) acc) 0

/-! ### The plot window (R176 to R186, R226 to R229, R691) -/

/-! ### Starting in order (R153, R165, R196, R221 to R223) -/

/-- Whether an entry waits behind an earlier TFENCE, an earlier TSCDRAIN (vector instructions) or
an earlier TRFENCE (transfers) that has not completed. -/
def syncHeld (before : List QEntry) (op : QOp) : Bool :=
  before.any (fun e => match e.op with
    | .tfence => true
    | .tscdrain => op.unit = 1
    | .trfence _ => op.unit = 2
    | _ => false)

/-- Whether every claim of an entry is free of those of the entries before it, and no segment it
claims is kept busy by an earlier tile operation (R97, R153). -/
def claimsFree (before : List QEntry) (e : QEntry) : Bool :=
  e.claims.all (fun c => claimFree before c && !claimBusySeg before c)

/-- The oldest unstarted entry of a unit, with the entries before it. -/
def Plot.nextOf (P : Plot) (unit : Nat) (phases : List QPhase) : Option (QEntry × List QEntry) :=
  match P.queue.find? (fun e => decide (e.op.unit = unit) && decide (e.phase ∈ phases)) with
  | some e => some (e, entriesBefore P.queue e.qsn)
  | none => none

/-- The oldest tile operation that has not started. -/
def Plot.nextTmm (P : Plot) : Option (QEntry × List QEntry) := P.nextOf 0 [.waiting, .loaded]

/-- ROW_WAIT (R112): the next pass is FRESH, its first row is ready and it is held for its load (R103). -/
def Plot.rowWait (P : Plot) : Bool :=
  match P.nextTmm with
  | some (e, before) =>
    match e.op with
    | .tmm d _ =>
      tmmFresh d && !tmmDegenerate d && decide (e.phase = .waiting) && !syncHeld before e.op && claimsFree before e
    | _ => false
  | none => false

/-! ### The plot window, read -/

/-- The value a plot register field shows. BUSY (R112) shows the tines with a row of their own in a pass in flight. DESIGN
CHOICE (log entry 39): a tine that only carries the token of a pass, in an empty row, reads 0. -/
def State.plotView (s : State) (f : FieldId) (p : PlotId) (k : RegField) (n _i : Nat) : Nat :=
  let P := s.plot f p
  let d := P.drill
  let busy := fun (t : Nat) => P.queue.any (fun e =>
    match e.op with | .tmm ds _ => decide (e.phase = .running) && decide (tineRows (tmmM ds) t ≠ 0) | _ => false)
  let loadWait := P.tine.shadow.isSome && P.queue.any (fun e =>
    match e.op with | .tmm ds _ => tmmFresh ds && !tmmDegenerate ds && (e.phase = .waiting) | _ => false)
  match k.off, k.lo with
  | 0x000, 0 => p
  | 0x000, 8 => ((physOf (s.memu f).remap p).getD 0) % 16
  | 0x000, 12 => ((physOf (s.memu f).remap p).getD 0) / 16
  | 0x008, 0 => b2n (d.st = .held)
  | 0x008, 1 => b2n d.haltReq
  | 0x008, _ => 0
  | 0x010, 0 => d.st.code
  | 0x010, 3 => b2n d.inTrap
  | 0x010, 4 => d.faultCause % 16
  | 0x010, _ => d.haltPc
  | 0x018, 0 => (List.range 4).foldl (fun (m : Nat) (t : Nat) => m + b2n (busy t) * 2 ^ t) 0
  | 0x018, 4 => b2n P.tine.shadow.isSome
  | 0x018, 5 => b2n loadWait
  | 0x018, _ => b2n (P.rowWait && !(s.field f).held)
  | 0x070, _ => (s.field f).tally.tInt
  | 0x088, _ => P.reg Reg.PLT_DOORBELL.PENDING
  | 0x098, 0 => P.cq.length
  | 0x098, 32 => P.nextQsn
  | 0x098, 48 => P.queue.length
  | 0x0a8, _ => P.cq.headD 0
  | 0x200, _ => SMap.get P.dr 0 n
  | _, _ => P.reg k n

/-- A read of the plot window. -/
def State.plotRead (s : State) (f : FieldId) (p : PlotId) (off bytes : Nat) : Nat :=
  readFields (Reg.plotFields.filter (fun k => decide (k.off < off + bytes))) (s.plotView f p) off bytes

/-- The value written to PLT_NOTIFY leaves the plot, or replaces one that has not (R175, R183). -/
def State.plotNotify (s : State) (f : FieldId) (p : PlotId) (v : Nat) : State :=
  let s1 := if (s.plot f p).notify.isSome then s.pcount f p Reg.PLT_NOTIFY.LOST else s
  s1.updPlot f p (fun P => { P with notify := some v })

/-- The waiting value of PLT_NOTIFY leaves as its event. -/
def State.notifyLeave (s : State) (f : FieldId) (p : PlotId) : State :=
  match (s.plot f p).notify with
  | none => s
  | some v => (s.updPlot f p (fun P => { P with notify := none })).raise f Ev.PLT_NOTIFY [(1, p), (4, v)]

/-- The fields of the plot window that hold nothing but what is written to them. DESIGN CHOICE (log entry 44):
MBX_PLOT_OUT_META.SEND is not among them: a 1 written to it asks for the notice and is not stored, so it reads 0. -/
def plotPlain (k : RegField) : Bool :=
  match k.off with
  | 0x008 => false
  | 0x078 => false
  | 0x088 => false
  | 0x110 => false
  | 0x128 => decide (k.lo ≠ 32)
  | _ => true

/-- A write to the plot window (R13, R177, R183, R184, R186). -/
def State.plotWrite (s : State) (f : FieldId) (p : PlotId) (byDrill : Bool) (off bytes value : Nat) :
    State :=
  let s1 := (Reg.plotFields.filter plotPlain).foldl (fun t k =>
    match k.part 0 0 off bytes value with
    | some (pos, len, v) => if k.access = .ro then t else t.pset f p k (k.access.write (t.preg f p k) pos len v)
    | none => t) s
  let wrote := fun (k : RegField) => (k.part 0 0 off bytes value).map (fun (pos, _, v) => v <<< pos)
  let s2 := match wrote Reg.PLT_DRILL_CTL.HOLD with
    | some h => if byDrill then s1 else s1.drillCtl f p (h = 1)
        (wrote Reg.PLT_DRILL_CTL.HALT_REQ = some 1) (wrote Reg.PLT_DRILL_CTL.RESUME = some 1)
    | none => s1
  let s3 := match wrote Reg.PLT_NOTIFY.VALUE with
    | some v => s2.plotNotify f p v
    | none => s2
  let s4 := match wrote Reg.PLT_DOORBELL_SET.PENDING with
    | some v => s3.pset f p Reg.PLT_DOORBELL.PENDING (s3.preg f p Reg.PLT_DOORBELL.PENDING ||| v)
    | none => s3
  let s5 := match wrote Reg.MBX_PLOT_IN_ACK.CODE with
    | some v => s4.mbxInAck (.plot f p) v
    | none => s4
  match wrote Reg.MBX_PLOT_OUT_META.SEND with
  | some 1 => s5.mbxSend (.plot f p)
  | _ => s5

/-- The head record of the completion log is removed (R200). -/
def State.cqPop (s : State) (f : FieldId) (p : PlotId) : State :=
  s.updPlot f p (fun P => { P with cq := P.cq.drop 1 })

end Sys2Proof.Machine
end

