-- ==== Sys2Proof/Machine/Package.lean ====
section
/-! DEFINITION. The package and its fields as units of service (R26 to R36): service states, the
die-to-die ring, heartbeats, and what a reset of a compute partition does (R99, R160, R187, R193,
R230, R618, R619). -/

namespace Sys2Proof.Machine

open Sys2Proof

/-! ### Service states (R27, R30, R479) -/

/-- STATE_f takes a new code: its event, and a hard event on entering UNFIT or DARK; both carry INJECTED where an injection
point caused the change (R698). -/
def State.setSvc (s : State) (f : FieldId) (new : Nat) (injected : Bool := false) : State :=
  let old := s.svc f
  if old = new then s
  else
    let s1 := (s.hset Reg.HUB_FIELD_STATE.STATE new 0 f).raiseHub Ev.HUB_FIELD_STATE [(1, f), (1, old), (1, new)] injected
    if new = svcUnfit ∨ new = svcDark then s1.hardEvent f 2 injected else s1

/-! ### Compute-partition reset -/

/-- The plot index of a key of the plot map. -/
def plotIx (k : Nat) : PlotId := (BitVec.ofNat 8 k).toFin

/-- Whether an OP of a transfer reads its local lines: a put (R167). -/
def xfReadsLocal (op : Nat) : Bool := decide (op ∈ [2, 3, 4, 5])

/-- A plot after a reset of its partition: every register and unit at its reset value; a notice claimed and not delivered
keeps its slot (R618), and puts whose lines have left the plot go on to their destinations (R187). -/
def Plot.afterReset (P : Plot) : Plot :=
  { Plot.reset with
    xlines := (P.xlines.filter (fun x => xfReadsLocal x.op)).map (fun x => { x with gone := true })
    slot := match P.slot with
      | .claimed a l ptr tag ep => .claimed a l ptr tag ep
      | _ => .free }

/-- Every plot of a field loses what its partition held: delivered notices are acknowledged with
RECEIVER_RESET, notices the plots sent lose their acknowledgement (R618, R619). -/
def State.resetPlots (s : State) (f : FieldId) : State :=
  let keys := SMap.keys (s.field f).plots
  let s1 := keys.foldl (fun t k => t.mbxReceiverReset (.plot f (plotIx k))) s
  let s2 := keys.foldl (fun t k => t.mbxSenderReset (.plot f (plotIx k))) s1
  s2.updField f (fun F => { F with
    plots := (F.plots.map (fun (k, P) => (k, P.afterReset))).filter (fun x => decide (x.2 ≠ Plot.reset)) })

/-- Plot stores and bins of a field set to zero with valid check bits (R99, R160). -/
def Memories.clearPlots (m : Memories) (f : FieldId) : Memories :=
  { m with
    store := m.store.set f [], storeErr := m.storeErr.set f [], bin := m.bin.set f [],
    binErr := m.binErr.set f [], binPoison := m.binPoison.set f [] }

/-- A line of a plot's transfer is awaited by nobody any more (R187, R429). -/
def GwLine.abandon (l : GwLine) : GwLine :=
  match l.owner with
  | .plot p _ _ _ => { l with owner := .gone p }
  | .fence p _ => { l with owner := .gone p }
  | _ => l

/-- The reset of a field's compute partition (R16, R99, R160, R187, R193, R230, R429). -/
def State.resetPartition (s : State) (f : FieldId) : State :=
  let s1 := s.updField f (fun F => { F with
    gw := { F.gw with lines := F.gw.lines.map GwLine.abandon, fences := [] } })
  (s1.resetPlots f).updMem (fun m => m.clearPlots f)

/-! ### The die-to-die ring (R32, R34) -/

/-- The two fields link k joins. -/
def d2dEnds (k : Nat) : FieldId × FieldId :=
  match k with
  | 0 => (0, 1)
  | 1 => (1, 3)
  | 2 => (3, 2)
  | _ => (2, 0)

/-- MODULES_k falls to n, with its events. -/
def State.d2dModules (s : State) (k n : Nat) : State :=
  let old := s.hreg Reg.HUB_D2D_STATUS.MODULES 0 k
  if old ≤ n then s
  else
    let s1 := (s.hset Reg.HUB_D2D_STATUS.MODULES n 0 k).raiseHub Ev.HUB_D2D_DEGRADED [(1, k), (1, n)]
    if n = 0 ∧ s1.hreg Reg.HUB_D2D_STATUS.UP 0 k = 1 then
      (s1.hset Reg.HUB_D2D_STATUS.UP 0 0 k).raiseHub Ev.HUB_D2D_DOWN [(1, k), (1, n)]
    else s1

/-- Whether link k carries traffic. -/
def State.d2dUp (s : State) (k : Nat) : Bool := decide (s.hreg Reg.HUB_D2D_STATUS.UP 0 k = 1)

/-- Every die-to-die link of a field goes down (R27, R32). -/
def State.d2dFieldDown (s : State) (f : FieldId) : State :=
  (List.range 4).foldl (fun t k =>
    if (d2dEnds k).1 = f ∨ (d2dEnds k).2 = f then t.d2dModules k 0 else t) s

/-! ### Meanings -/

/-- D2D_MODULE_LOSS (R32, R34): link k loses one of its healthy modules. -/
def execD2dModuleLoss (k : Fin 4) (s : State) : Result :=
  finish (s.d2dModules k (s.hreg Reg.HUB_D2D_STATUS.MODULES 0 k - 1))

end Sys2Proof.Machine
end

