-- ==== Sys2Proof/Machine/LaneCode.lean ====
section
/-! DEFINITION. What Ebcen puts on a fibre (R309 to R316, R324 to R327): RS(544,514) codewords, lane headers and their
check byte, the place of a stream bit in a group, the scrambler, flits and their CRC-64. -/

namespace Sys2Proof.Machine

open Sys2Proof

/-! ### RS(544,514) (R309)

R309 names the KP4 code of IEEE 802.3. That standard's field and generator are taken from it (PRESUMED, log entry 40): the
field of 1,024 elements modulo x^10 + x^3 + 1, the generator with roots 1, a, ..., a^29, and the first symbol sent as the
highest coefficient. -/

/-- One symbol times the primitive element a. -/
def rsTimesA (x : Nat) : Nat := let y := x * 2; if y < 1024 then y else (y - 1024) ^^^ 9

/-- The product of two symbols. -/
def rsMul (x y : Nat) : Nat :=
  ((List.range 10).foldl (fun (acc, t) i => (if bit y i then acc ^^^ t else acc, rsTimesA t)) (0, x)).1

/-- The inverse of a symbol that is not 0: its power 1,022. -/
def rsInv (x : Nat) : Nat :=
  ((List.range 9).foldl (fun (acc, t) _ => let u := rsMul t t; (rsMul acc u, u)) (1, x)).1

/-- a^j. -/
def rsRoot (j : Nat) : Nat := (List.range j).foldl (fun x _ => rsTimesA x) 1

/-- Sum of two polynomials, lowest coefficient first, and a polynomial times a symbol. -/
def rsAdd : List Nat → List Nat → List Nat
  | [], q => q
  | p, [] => p
  | x :: p, y :: q => (x ^^^ y) :: rsAdd p q
def rsScale (k : Nat) (p : List Nat) : List Nat := p.map (rsMul k)

/-- The generator's coefficients below x^30, highest first. -/
def rsGen : List Nat :=
  ((List.range 30).foldl (fun g j => rsAdd (0 :: g) (rsScale (rsRoot j) g)) [1]).dropLast.reverse

/-- The 30 parity symbols of 514 message symbols. -/
def rsParity (msg : List Nat) : List Nat :=
  let g := rsGen
  msg.foldl (fun r x =>
    let fb := x ^^^ r.headD 0
    (r.tail ++ [0]).zipWith (fun a b => a ^^^ rsMul fb b) g) (List.replicate 30 0)

/-- The value of a polynomial, lowest coefficient first. -/
def rsEval (p : List Nat) (x : Nat) : Nat := p.foldr (fun c acc => c ^^^ rsMul x acc) 0

/-- The 30 syndromes of a received word, first symbol highest. -/
def rsSyndromes (word : List Nat) : List Nat :=
  (List.range 30).map (fun j => let r := rsRoot j; word.foldl (fun acc c => c ^^^ rsMul r acc) 0)

/-- The error locator of some syndromes and its degree (the shortest register that yields them). -/
def rsLocator (syn : List Nat) : List Nat × Nat :=
  let step := fun (st : List Nat × List Nat × Nat × Nat × Nat) (n : Nat) =>
    let (c, b, l, m, last) := st
    let d := (List.range (l + 1)).foldl (fun acc i => acc ^^^ rsMul (nth c i) (nth syn (n - i))) 0
    if d = 0 then (c, b, l, m + 1, last)
    else
      let c' := rsAdd c (List.replicate m 0 ++ rsScale (rsMul d (rsInv last)) b)
      if 2 * l ≤ n then (c', c, n + 1 - l, 1, d) else (c', b, l, m + 1, last)
  let (c, _, l, _, _) := (List.range 30).foldl step ([1], [1], 0, 1, 1)
  (c, l)

/-- A received codeword corrected, with the bits that were wrong; none where no codeword lies within 15 symbols (R309). -/
def rsDecode (word : List Nat) : Option (List Nat × Nat) :=
  let syn := rsSyndromes word
  if syn.all (fun x => x = 0) then some (word, 0)
  else
    let (c, l) := rsLocator syn
    let omega := (List.range 30).map (fun k =>
      (List.range (k + 1)).foldl (fun acc i => acc ^^^ rsMul (nth c i) (nth syn (k - i))) 0)
    let odd := (List.range 16).map (fun i => if i % 2 = 0 then nth c (i + 1) else 0)
    let errs := (List.range 544).map (fun p =>
      let x := rsRoot (543 - p)
      let y := rsInv x
      if rsEval c y = 0 then
        let dv := rsEval odd y
        if dv = 0 then none else some (rsMul x (rsMul (rsEval omega y) (rsInv dv)))
      else some 0)
    let fixed := word.zipWith (fun a e => a ^^^ e.getD 0) errs
    if 15 < l ∨ (errs.filter (fun e => e ≠ some 0)).length ≠ l ∨ errs.contains none = true ∨
        (rsSyndromes fixed).any (fun x => x ≠ 0) = true then none
    else some (fixed, (errs.map (fun e => popcount 10 (e.getD 0))).foldl (· + ·) 0)

/-! ### Lane headers (R310) -/

/-- The check byte over bits [31:0] of a lane header (R310). -/
def hcrc (h : Nat) : Nat :=
  (List.range 32).foldl (fun c i =>
    let fb := xor (bit c 7) (bit h i)
    let c' := trunc 8 (c <<< 1)
    if fb then c' ^^^ 7 else c') 0xFF

/-- A 40-bit lane header (R310). `slot` 0xF: the wavelength carries no slot. -/
def laneHeader (slot group : Nat) (switch ctlStart idle : Bool) (ctl : Nat) : Nat :=
  let h := trunc 4 slot + trunc 8 group * 2 ^ 4 + b2n switch * 2 ^ 12 + b2n ctlStart * 2 ^ 13 +
    b2n idle * 2 ^ 14 + trunc 16 ctl * 2 ^ 16
  h + hcrc h * 2 ^ 32

/-- Whether a received header is taken (R310). -/
def laneHeaderOk (h : Nat) : Bool := decide (bits h 32 8 = hcrc (bits h 0 32))

/-- Symbols 0 to 3 of a codeword: header bit i in bit (i mod 10) of symbol i / 10; and back. -/
def headerSymbols (h : Nat) : List Nat := (List.range 4).map (fun k => bits h (10 * k) 10)
def symbolsHeader (word : List Nat) : Nat := ((word.take 4).reverse).foldl (fun acc x => acc * 1024 + trunc 10 x) 0

/-- The four CTL fields of a lane-control message, first sent first (R315, R316). -/
def laneMessage (type arg : Nat) : List Nat :=
  let m := trunc 8 type + trunc 56 arg * 2 ^ 8
  (List.range 4).map (fun q => bits m (16 * q) 16)

/-! ### Groups and striping (R312) -/

/-- Slots in service in ascending order, from the mask of slots out of the stripe. -/
def slotsIn (slots out : Nat) : List Nat := (List.range slots).filter (fun s => !bit out s)

/-- Where bit i of a group's flit stream goes: the slot, the codeword symbol, and the symbol's bit
(R312). None when no slot is in service. -/
def stripePlace (slots out i : Nat) : Option (Nat × Nat × Nat) :=
  let ss := slotsIn slots out
  let j := i / 10
  ss[j % ss.length]?.map (fun s => (s, 4 + j / ss.length, i % 10))

/-- Stream bits a group carries with L slots in service (R312). -/
def groupBits (l : Nat) : Nat := 5100 * l

/-- One step of the payload scrambler's register, x^31 + x^28 + 1 (R311): the bit put out and the next
register. -/
def prbs31 (r : Nat) : Bool × Nat :=
  let o := xor (bit r 30) (bit r 27)
  (o, trunc 31 (r <<< 1) + b2n o)

/-- The next ten bits of the sequence as a symbol, bit 0 first. -/
def prbsSymbol (r : Nat) : Nat × Nat :=
  (List.range 10).foldl (fun (acc, r) i => let (o, r') := prbs31 r; (acc + b2n o * 2 ^ i, r')) (0, r)

/-- The register at the first payload bit of a group: all ones at GROUP 0, 5,100 steps on for each group after it. The
wavelengths of a group have the same GROUP, so one register serves them all. -/
def prbsAt (group : Nat) : Nat := (List.range (5100 * (group % 256))).foldl (fun r _ => (prbs31 r).2) (2 ^ 31 - 1)

/-- The 510 payload symbols of a codeword scrambled, which also descrambles them (R311). -/
def scramble (group : Nat) (payload : List Nat) : List Nat :=
  ((payload.foldl (fun (acc, r) x => let (k, r') := prbsSymbol r; ((x ^^^ k) :: acc, r')) (([] : List Nat), prbsAt group)).1).reverse

/-- The PAM4 level of a bit pair, earlier bit first (R311). -/
def pam4 (b0 b1 : Bool) : Nat :=
  match b1, b0 with
  | false, false => 0
  | false, true => 1
  | true, true => 2
  | true, false => 3

/-- The levels on the line of a codeword: symbols 0 to 543, bit 0 of each first; bit pairs in L256 and L192, single bits in
L64, mode 2 (R311). -/
def lineLevels (mode : Nat) (word : List Nat) : List Nat :=
  let bs := word.flatMap (fun x => (List.range 10).map (bit x))
  if mode = 2 then bs.map b2n
  else (List.range (bs.length / 2)).map (fun k => pam4 (bs.getD (2 * k) false) (bs.getD (2 * k + 1) false))

/-- Slots in service in a group, in ascending order. -/
def Group.inService (g : Group) : List Nat := (List.range 15).filter g.slots.contains

/-- The codeword a wavelength of a group carries (R309 to R312); past its data the stream runs zero (R313). -/
def Group.codeword (g : Group) (w : Nat) : List Nat :=
  let slot := nth g.slots w
  let ss := g.inService
  let stream := leNat g.data
  let payload := (List.range 510).map (fun i =>
    if g.idle || !ss.contains slot then 0 else bits stream (g.skip + 10 * (i * ss.length + ss.idxOf slot)) 10)
  let msg := headerSymbols (laneHeader slot g.number g.switch g.start g.idle g.ctl) ++ scramble g.number payload
  msg ++ rsParity msg

/-- What most wavelengths carry, the lowest wavelength's value on a tie (R315); the list is in ascending wavelength. -/
def laneVote (l : List Nat) : Option Nat :=
  l.foldl (fun best v => match best with
    | none => some v
    | some b => if l.count b < l.count v then some v else some b) none

/-! ### Flits (R324 to R327) -/

/-- One byte into the reflected CRC-64 register of ECMA-182. -/
def crc64Byte (c : Nat) (b : Byte) : Nat :=
  (List.range 8).foldl (fun c _ => if bit c 0 then (c >>> 1) ^^^ 0xC96C5795D7870F42 else c >>> 1)
    (c ^^^ b.toNat)

/-- The CRC-64 of R327. -/
def crc64 (bs : List Byte) : Nat := (bs.foldl crc64Byte 0xFFFFFFFFFFFFFFFF) ^^^ 0xFFFFFFFFFFFFFFFF

def flitData : Nat := 0
def flitIdle : Nat := 1
def flitNak : Nat := 2

/-- The link-control word of a flit of a TYPE (R325). -/
def flitWord (ty : Nat) (x : Flit) : Nat :=
  trunc 14 x.seq + trunc 14 x.ack * 2 ^ 14 + trunc 3 ty * 2 ^ 28 + trunc 3 x.vc * 2 ^ 31 +
    b2n x.pool * 2 ^ 34 + trunc 3 x.crVc * 2 ^ 35 + b2n x.crPool * 2 ^ 38 +
    trunc 9 x.crCount * 2 ^ 39 + trunc 8 x.start * 2 ^ 48 + trunc 8 x.len * 2 ^ 56

/-- Bytes 0 to 247 of a flit. -/
def flitBody (ty : Nat) (x : Flit) : List Byte :=
  leBytes 8 (flitWord ty x) ++ (x.payload ++ List.replicate 240 0).take 240

/-- The CRC a flit should carry. -/
def flitCrc (ty : Nat) (x : Flit) : Nat := crc64 (flitBody ty x)

/-- The 256 bytes of a flit (R324). -/
def flitBytes (ty : Nat) (x : Flit) : List Byte := flitBody ty x ++ leBytes 8 x.crc

/-- The TYPE and fields of the flit in 256 bytes (R324, R325). -/
def flitParse (bs : List Byte) : Nat × Flit :=
  let h := leNat (bs.take 8)
  (bits h 28 3, { seq := bits h 0 14, ack := bits h 14 14, vc := bits h 31 3, pool := bit h 34, crVc := bits h 35 3,
                  crPool := bit h 38, crCount := bits h 39 9, start := bits h 48 8, len := bits h 56 8,
                  payload := (bs.drop 8).take 240, crc := leNat ((bs.drop 248).take 8) })

/-! ### Packets (R366) -/

/-- LENGTH of a packet. -/
def pktLength (p : Packet) : Nat := 16 + p.body.length

/-- The 16 bytes of a route header (R366). -/
def pktHeader (p : Packet) : List Byte :=
  leBytes 16 (trunc 16 p.dst + trunc 16 p.src * 2 ^ 16 + trunc 12 p.allot * 2 ^ 32 +
    trunc 3 p.cls * 2 ^ 44 + trunc 4 p.stage * 2 ^ 47 + trunc 6 p.exit * 2 ^ 51 +
    b2n p.exitV * 2 ^ 57 + b2n p.mcast * 2 ^ 58 + trunc 2 p.maxis * 2 ^ 59 +
    trunc 48 p.key * 2 ^ 64 + trunc 16 (pktLength p) * 2 ^ 112)

/-- A packet's bytes. -/
def pktBytes (p : Packet) : List Byte := pktHeader p ++ p.body

/-- The packet at the front of a byte stream and the bytes used, when it stands there whole. -/
def pktParse (bs : List Byte) : Option (Packet × Nat) :=
  if bs.length < 16 then none
  else
    let h := leNat (bs.take 16)
    let n := max 16 (bits h 112 16)
    if bs.length < n then none
    else some ({ dst := bits h 0 16, src := bits h 16 16, allot := bits h 32 12, cls := bits h 44 3,
                 stage := bits h 47 4, exit := bits h 51 6, exitV := bit h 57, mcast := bit h 58,
                 maxis := bits h 59 2, key := bits h 64 48, body := (bs.take n).drop 16 }, n)

end Sys2Proof.Machine
end

