-- ==== Sys2Proof/Machine/Packets.lean ====
section
/-! DEFINITION. The remote header and the kinds of remote packets (R404 to R406, R491). -/

namespace Sys2Proof.Machine

open Sys2Proof

/-! ### Kinds (R405, R491) -/

def kGet : Nat := 0x01
def kPut : Nat := 0x02
def kPutPartial : Nat := 0x03
def kPutReduce : Nat := 0x04
def kPutReduceComb : Nat := 0x05
def kMcastPut : Nat := 0x06
def kFetchAdd : Nat := 0x07
def kCompareSwap : Nat := 0x08
def kFlushReq : Nat := 0x09
def kMirMark : Nat := 0x0A
def kMirLayout : Nat := 0x0B
def kMirDone : Nat := 0x0C
def kMirPull : Nat := 0x0D
def kGetResp : Nat := 0x41
def kAck : Nat := 0x42
def kDefer : Nat := 0x43
def kAtomicResp : Nat := 0x44
def kMcAck : Nat := 0x45
def kFlushAck : Nat := 0x46

/-- Elements of a TYPE in a 128-byte line (R405, R423). -/
def lineElems (typ : Nat) : Nat := if typ = 0 then 32 else if typ ≤ 2 then 64 else 128

/-- LENGTH of a kind; none for a reserved kind (R405). -/
def kindLength (kind typ : Nat) : Option Nat :=
  match kind with
  | 0x01 => some 64
  | 0x02 => some 192
  | 0x03 => some 192
  | 0x04 => some 192
  | 0x05 => if typ ≤ 2 then some (128 + 48 * lineElems typ) else none
  | 0x06 => some 192
  | 0x07 => some 64
  | 0x08 => some 64
  | 0x09 => some 64
  | 0x0A => some 64
  | 0x0B => some 192
  | 0x0C => some 64
  | 0x0D => some 64
  | 0x41 => some 192
  | 0x42 => some 64
  | 0x43 => some 64
  | 0x44 => some 64
  | 0x45 => some 64
  | 0x46 => some 64
  | _ => none

/-- Whether a kind is an ordered line (R399, R491). -/
def kindOrdered (kind : Nat) : Bool :=
  decide (kind ∈ [kPut, kPutPartial, kPutReduce, kMirMark, kMirLayout, kMirDone, kMirPull])

/-! ### The remote header (R404) -/

/-- The remote header. FLAGS: bit 0 OPEN, 1 RETX, 2 POISON, 3 ERROR. -/
structure RHdr where
  mask : Nat
  kind : Nat
  flags : Nat
  typ : Nat
  fepoch : Nat
  seq : Nat
  txn : Nat
  status : Nat
  contrib : Nat
  age : Nat
  operand : Nat
  deriving DecidableEq, Repr

def fOpen : Nat := 1
def fRetx : Nat := 2
def fPoison : Nat := 4
def fError : Nat := 8

/-- A header of a kind, every other field 0. -/
def rhKind (kind : Nat) : RHdr :=
  { mask := 0, kind := kind, flags := 0, typ := 0, fepoch := 0, seq := 0, txn := 0, status := 0, contrib := 0,
    age := 0, operand := 0 }

/-- The 48 bytes of a remote header. -/
def rhBytes (h : RHdr) : List Byte :=
  leBytes 4 h.mask ++ leBytes 1 h.kind ++ leBytes 1 h.flags ++ leBytes 1 h.typ ++ leBytes 1 h.fepoch ++
    leBytes 4 h.seq ++ leBytes 4 h.txn ++ leBytes 2 h.status ++ leBytes 2 h.contrib ++ leBytes 4 h.age ++
    leBytes 16 h.operand ++ leBytes 8 0

/-- n bytes at a packet offset past the route header, as a number. -/
def pktField (p : Packet) (off n : Nat) : Nat := leNat ((p.body.drop (off - 16)).take n)

/-- Whether a sheaf packet's KIND is not reserved (R467). -/
def shfKnown (p : Packet) : Bool := decide (1 ≤ pktField p 24 1) && decide (pktField p 24 1 ≤ 6)

/-- The remote header of a packet. -/
def rhOf (p : Packet) : RHdr :=
  { mask := pktField p 16 4, kind := pktField p 20 1, flags := pktField p 21 1, typ := pktField p 22 1,
    fepoch := pktField p 23 1, seq := pktField p 24 4, txn := pktField p 28 4, status := pktField p 32 2,
    contrib := pktField p 34 2, age := pktField p 36 4, operand := pktField p 40 16 }

/-- The bytes after the remote header. -/
def rhPayload (p : Packet) : List Byte := p.body.drop 48

/-- Whether a packet's kind, length and reserved bytes are those of R404 and R405. -/
def rhWellFormed (p : Packet) : Bool :=
  let h := rhOf p
  decide (kindLength h.kind h.typ = some (pktLength p)) && decide (h.flags < 16) && decide (pktField p 56 8 = 0)

/-- Whether a packet travels on behalf of the remote operations or of mirroring: neither management nor
tally nor collective (R333). -/
def pktRemote (p : Packet) : Bool := decide (2 ≤ p.cls)

/-! ### Combined put-reduces (R406) -/

/-- The contributor records of a combined put-reduce: source, flow epoch, sequence number. -/
def combRecords (p : Packet) : List (Nat × Nat × Nat) :=
  (List.range (min 8 (rhOf p).contrib)).map (fun i =>
    (pktField p (64 + 8 * i) 2, pktField p (66 + 8 * i) 1, pktField p (68 + 8 * i) 4))

/-- The 64 bytes of contributor records. -/
def combRecordBytes (cs : List (Nat × Nat × Nat)) : List Byte :=
  (cs.flatMap (fun (src, ep, seq) => leBytes 2 src ++ leBytes 1 ep ++ leBytes 1 0 ++ leBytes 4 seq) ++
    List.replicate 64 0).take 64

/-- The accumulator images of a combined put-reduce. -/
def combImages (p : Packet) : List LongAcc :=
  let b := p.body.drop 112
  (List.range (lineElems (rhOf p).typ)).map (fun i => LongAcc.ofImage ((b.drop (48 * i)).take 48))

/-- The element format of a put-reduce TYPE (R401). -/
def redFmt (typ : Nat) : ElemFmt :=
  match typ with
  | 0 => fmtFP32
  | 1 => fmtBF16
  | 2 => fmtFP16
  | 3 => fmtE4M3
  | _ => fmtE5M2

/-- The terms of a line of a TYPE; a poisoned line is NaN in every element (R423). -/
def lineTerms (typ : Nat) (poisoned : Bool) (data : List Byte) : List Val :=
  let f := redFmt typ
  let w := f.width / 8
  (List.range (lineElems typ)).map (fun i =>
    if poisoned then .nan else (decodeElem f (leNat ((data.drop (w * i)).take w))).1)

/-- Positions of the set flags of a list. -/
def flagged (l : List Bool) : List Nat := (l.zipIdx).filterMap (fun (b, i) => if b then some i else none)

/-- Terms added into accumulators, and the positions at which the overflow event is raised (R139). -/
def accsAdd (accs : List LongAcc) (ts : List Val) : List LongAcc × List Nat :=
  let r := List.zipWith (fun a t => a.addTerm t) accs ts
  (r.map Prod.fst, flagged (r.map Prod.snd))

/-- Accumulators merged position by position, and where the overflow event is raised (R139). -/
def accsMerge (accs bs : List LongAcc) : List LongAcc × List Nat :=
  let r := List.zipWith (fun a b => a.merge b) accs bs
  (r.map Prod.fst, flagged (r.map Prod.snd))

end Sys2Proof.Machine
end

