-- ==== Sys2Proof/Machine/Flits.lean ====
section
/-! DEFINITION. What a port's transmitter sends (R309 to R315, R324 to R334, R427): flit slots with their credits, arbitration,
replay and combining, and groups of codewords. -/

namespace Sys2Proof.Machine

open Sys2Proof

/-! ### Ports -/

def Field.port (F : Field) (n : Nat) : Port := SMap.get F.ports Port.reset n
def State.port (s : State) (f : FieldId) (n : PortId) : Port := (s.field f).port n
def State.updPort (s : State) (f : FieldId) (n : PortId) (g : Port → Port) : State :=
  s.updField f (fun F => { F with ports := SMap.set F.ports Port.reset n (g (F.port n)) })

/-- Port number P00 to P63 (R18). -/
def portNo (f : FieldId) (n : PortId) : Nat := 16 * f + n

/-- The port of a package with number p. -/
def portAt (p : Nat) : FieldId × PortId := ((BitVec.ofNat 2 (p / 16)).toFin, (BitVec.ofNat 4 p).toFin)

/-- Nanoseconds of a millisecond. -/
def oneMs : Nat := 1000000

/-- An event raised at most once per millisecond for a key of the field. -/
def State.raiseLimited (s : State) (f : FieldId) (key : Nat) (e : EvKind) (items : List (Nat × Nat))
    (injected : Bool := false) : State :=
  let last := SMap.get (s.field f).lastRaise 0 key
  if last ≠ 0 ∧ s.now < last - 1 + oneMs then s
  else (s.updField f (fun F => { F with lastRaise := SMap.insert F.lastRaise key (s.now + 1) })).raise f e
    items injected

/-! ### Engines (R301) -/

/-- Whether the engine of a port is DARK. -/
def State.engineDark (s : State) (f : FieldId) (n : PortId) : Bool :=
  decide (s.freg f Reg.HDL_ENGINE_STATUS.DARK 0 (n / 4) = 1)

/-- Whether a port has light to send with. -/
def State.portLit (s : State) (f : FieldId) (n : PortId) : Bool :=
  (s.port f n).shutter && !s.engineDark f n

/-! ### Link states (R336) -/

def lsDisabled : Nat := 0
def lsLock : Nat := 1
def lsBeacon : Nat := 2
def lsHeld : Nat := 3
def lsQualify : Nat := 4
def lsActive : Nat := 5
def lsRetrain : Nat := 6
def lsFailed : Nat := 7

/-- The state of a port's link. -/
def State.link (s : State) (f : FieldId) (n : PortId) : Nat := s.freg f Reg.RTE_LINK_STATUS.STATE n

/-! ### A field's router -/

def State.updRouter (s : State) (f : FieldId) (g : RouterUnit → RouterUnit) : State :=
  s.updField f (fun F => { F with router := g F.router })

/-- The management tag (R378). -/
def mgmtAllot : Nat := 0xFFF

/-! ### Flits without payload (R325) -/

/-- The last SEQ accepted in order (R325). -/
def Port.ack (P : Port) : Nat := (P.exp + 0x3FFF) % 0x4000

/-- A flit that carries no payload. -/
def Port.control (P : Port) : Flit :=
  { seq := P.seq, ack := 0, vc := 0, pool := false, crVc := 0, crPool := false, crCount := 0, start := 0xFF,
    len := 0, payload := [], crc := 0 }

/-! ### Credits reported (R332) -/

/-- Up to four buffers are counted as freed (R332). -/
def Port.free4 (P : Port) : Port :=
  { P with
    freed := (P.freeing.take 4).foldl (fun m k => SMap.set m 0 k ((SMap.get m 0 k + 1) % 512)) P.freed,
    freeing := P.freeing.drop 4 }

/-- Buffers of a pair freed since it was last reported. -/
def Port.crDue (P : Port) (k : Nat) : Nat := (SMap.get P.freed 0 k + 512 - SMap.get P.reported 0 k) % 512

/-- The pair a flit reports (R332): most freed since its last report, lower channel and reserved pool first. A pair that has
waited 16 slots goes before it, the longest wait first: with sixteen pairs each is then reported within 32 slots (DESIGN
CHOICE, log entry 40: the rule states the bound and not how it is kept). -/
def Port.reportPair (P : Port) : Nat :=
  let late := (List.range 16).filter (fun k => 16 ≤ SMap.get P.waited 0 k)
  match late with
  | k :: ks => ks.foldl (fun b k => if SMap.get P.waited 0 b < SMap.get P.waited 0 k then k else b) k
  | [] => (List.range 16).foldl (fun b k => if P.crDue b < P.crDue k then k else b) 0

/-- A pair's count is reported, and the other pairs with unreported buffers wait a slot more. -/
def Port.crReport (P : Port) (k : Nat) : Port :=
  { P with
    reported := SMap.set P.reported 0 k (SMap.get P.freed 0 k)
    waited := (List.range 16).foldl (fun m j =>
      SMap.set m 0 j (if j = k ∨ P.crDue j = 0 then 0 else SMap.get P.waited 0 j + 1)) P.waited }

/-! ### Arbitration (R334, R355, R356) -/

/-- Whether a channel has payload waiting, and whether it may be sent (R334). -/
def State.vcWaits (s : State) (f : FieldId) (n : PortId) (v : Nat) : Bool :=
  decide (SMap.get (s.port f n).txq [] v ≠ [])
def State.vcCredit (s : State) (f : FieldId) (n : PortId) (v : Nat) : Bool :=
  decide (0 < s.freg f Reg.RTE_LINK_CREDIT.RES n v) || decide (0 < s.freg f Reg.RTE_LINK_CREDIT.SHARED n)
def State.elig (s : State) (f : FieldId) (n : PortId) (v : Nat) : Bool := s.vcWaits f n v && s.vcCredit f n v

/-- Weight of a channel (R355). -/
def State.vcWeight (s : State) (f : FieldId) (v : Nat) : Nat :=
  match v with
  | 1 => s.freg f Reg.RTE_VC_WEIGHT.W1
  | 2 => s.freg f Reg.RTE_VC_WEIGHT.W2
  | 3 => s.freg f Reg.RTE_VC_WEIGHT.W3
  | 4 => s.freg f Reg.RTE_VC_WEIGHT.W4
  | 5 => s.freg f Reg.RTE_VC_WEIGHT.W5
  | 6 => s.freg f Reg.RTE_VC_WEIGHT.W6
  | _ => 0

/-- The weighted round of pick (R334), from the deficits and cur: the channel chosen and the deficits and
cur after. -/
def pickLoop (elig : Nat → Bool) (w : Nat → Nat) (deficit : SMap Nat) (cur : Nat) : Nat → Option (Nat × SMap Nat × Nat)
  | 0 => none
  | fuel + 1 =>
    let d := SMap.get deficit 0 cur
    if elig cur && decide (0 < w cur) && decide (1 ≤ d) then some (cur, SMap.set deficit 0 cur (d - 1), cur)
    else
      let deficit1 := if elig cur then deficit else SMap.set deficit 0 cur 0
      let cur1 := 1 + cur % 6
      pickLoop elig w (SMap.set deficit1 0 cur1 (SMap.get deficit1 0 cur1 + w cur1)) cur1 fuel

/-- The register values arbitration uses (R334, R355, R356). -/
structure ArbCtl where
  weight : Nat → Nat
  floor : Bool
  div0 : Nat
  div5 : Nat

def State.arbCtl (s : State) (f : FieldId) : ArbCtl :=
  { weight := s.vcWeight f
    floor := decide (s.freg f Reg.RTE_VC_CTL.FLOOR_EN = 1) && decide (s.freg f Reg.RTE_VC_CTL.COMMIT_DUE = 1)
    div0 := max 1 (s.freg f Reg.RTE_VC_WEIGHT.VC0_DIV)
    div5 := max 1 (s.freg f Reg.RTE_VC_CTL.VC5_FLOOR_DIV) }

/-- pick of R334: the arbitration after, and the channel. -/
def Arb.pick (A : Arb) (c : ArbCtl) (e : Nat → Bool) : Arb × Option Nat :=
  if e 0 && decide (1 ≤ A.tok0) then ({ A with tok0 := A.tok0 - 1 }, some 0)
  else if c.floor && e 5 && decide (1 ≤ A.tok5) then ({ A with tok5 := A.tok5 - 1 }, some 5)
  else if !([1, 2, 3, 4, 5, 6].any (fun v => e v && decide (0 < c.weight v))) then (A, [1, 2, 3, 4, 5, 6].find? e)
  else
    match pickLoop e c.weight A.deficit A.cur 24 with
    | some (v, d, k) => ({ A with deficit := d, cur := k }, some v)
    | none => (A, none)

/-- Tokens gained in a flit slot, capped at 16 (R334). -/
def Arb.tokens (A : Arb) (c : ArbCtl) : Arb :=
  let a := A.div0 + 1
  let b := A.div5 + 1
  { A with
    tok0 := if c.div0 ≤ a then min 16 (A.tok0 + 1) else A.tok0, div0 := if c.div0 ≤ a then 0 else a,
    tok5 := if c.div5 ≤ b then min 16 (A.tok5 + 1) else A.tok5, div5 := if c.div5 ≤ b then 0 else b }

/-- Payload of the next DATA flit of a channel: its bytes, the offset of the first packet that begins in
it, and what stays. -/
def fillFlit : Nat → List TxPacket → List Byte → Option Nat → List Byte × Option Nat × List TxPacket
  | 0, q, acc, st => (acc, st, q)
  | _ + 1, [], acc, st => (acc, st, [])
  | fuel + 1, x :: q, acc, st =>
    let room := 240 - acc.length
    if room = 0 then (acc, st, x :: q)
    else
      let st' := if x.fresh && st.isNone then some acc.length else st
      if x.data.length ≤ room then fillFlit fuel q (acc ++ x.data) st'
      else (acc ++ x.data.take room, st', { x with fresh := false, data := x.data.drop room } :: q)

/-! ### Stamps of beacons (R519, R520) -/

/-- A stamp of the local tally, in 2^-16 ns. -/
def State.stamp (s : State) (f : FieldId) : Nat := (s.field f).tally.tInt * 2 ^ 16 + (s.field f).tally.tFrac / 2 ^ 16

/-- Whether a packet is a tally beacon (R520). -/
def pktBeacon (p : Packet) : Bool :=
  decide (p.allot = mgmtAllot) && decide (p.cls = 0) && decide (pktField p 16 1 = 0x20) && decide (p.body.length = 64)

/-- Whether a packet that has not begun to leave is a beacon of a node. -/
def TxPacket.beacon (x : TxPacket) (node : Nat) : Bool :=
  x.fresh && (pktParse x.data).any (fun e => pktBeacon e.1 && decide (e.1.src = node))

/-- A beacon with its departure stamp. -/
def TxPacket.stamped (x : TxPacket) (t : Nat) : TxPacket :=
  { x with data := x.data.take 24 ++ leBytes 8 (t / 2 ^ 16) ++ leBytes 2 (t % 2 ^ 16) ++ x.data.drop 34 }

/-- Beacons that would leave now, stamped: one whose first byte this flit does not take is stamped anew at the next. -/
def State.beaconsStamp (s : State) (f : FieldId) (q : List TxPacket) : List TxPacket :=
  q.map (fun x => if x.beacon (s.node f) then x.stamped (s.stamp f) else x)

/-- The flit that leaves holds the first byte of a beacon: its stamp is kept for the echo (R521). -/
def State.beaconsSent (s : State) (f : FieldId) (link : Nat) (q rest : List TxPacket) : State :=
  let n := fun (l : List TxPacket) => (l.filter (fun x => x.beacon (s.node f))).length
  if n q = n rest then s
  else s.updField f (fun F =>
    let x := SMap.get F.tally.links TallyLink.none link
    { F with tally := { F.tally with links := SMap.set F.tally.links TallyLink.none link { x with
        sent := x.sent.filter (fun e => decide (s.now ≤ e.1 + 100000)) ++ [(s.now, s.stamp f)] } } })

/-- A beacon for this field has come by a link: its arrival stamp is that of the flit with its first byte. -/
def State.beaconCame (s : State) (f : FieldId) (link : Nat) (p : Packet) (at_ : Nat) : State :=
  if link < 18 ∧ pktBeacon p = true ∧ p.dst = s.node f then
    s.updField f (fun F =>
      let x := SMap.get F.tally.links TallyLink.none link
      { F with tally := { F.tally with links := SMap.set F.tally.links TallyLink.none link { x with due := x.due ++ [at_] } } })
  else s

/-- Counts of the congestion map (R384). -/
def State.congCount (s : State) (f : FieldId) (link vc item d : Nat) : State :=
  s.updField f (fun F =>
    let k := (link * 8 + vc) * 16 + item
    { F with router := { F.router with cong := SMap.set F.router.cong 0 k (satAdd 32 (SMap.get F.router.cong 0 k) d) } })

/-! ### Combining (R427, R444) -/

/-- Combining slots of a router. -/
def combSlots : Nat := 256

/-- Whether a packet may combine: a put-reduce of TYPE FP32, BF16 or FP16 without RETX. -/
def combinable (p : Packet) : Bool :=
  let h := rhOf p
  pktRemote p && decide (p.allot ≠ mgmtAllot) && (decide (h.kind = kPutReduce) || decide (h.kind = kPutReduceComb)) &&
    decide (h.typ ≤ 2) && decide (h.flags &&& fRetx = 0) && rhWellFormed p

/-- What a packet brings to a slot: its contributors and its accumulators. -/
def combParts (p : Packet) : List (Nat × Nat × Nat) × List LongAcc :=
  let h := rhOf p
  if h.kind = kPutReduceComb then (combRecords p, combImages p)
  else
    ([(p.src, h.fepoch, h.seq)],
      (accsAdd (List.replicate (lineElems h.typ) LongAcc.zero)
        (lineTerms h.typ (decide (h.flags &&& fPoison ≠ 0)) (rhPayload p))).1)

/-- The key of a slot: destination, line address, allotment, TYPE. -/
def combKey (p : Packet) : Nat × Nat × Nat × Nat := (p.dst, p.key / 128, p.allot, (rhOf p).typ)

/-- Slots in use. -/
def RouterUnit.combUsed (R : RouterUnit) : List Nat := R.comb.flatMap (fun e => e.2.slots)

/-- A packet that waits at an egress for credit joins a slot with its key and room for its contributors, else enters free
slots; none when it passes through. Where one of the packets merged is on VC6 the slot leaves there, since a packet never
leaves VC6 (R372). Egress 16 and 17 are the die-to-die links. -/
def State.combEnter (s : State) (f : FieldId) (egress vc : Nat) (p : Packet) : Option State :=
  let R := (s.field f).router
  let (cs, accs) := combParts p
  match R.comb.find? (fun e => decide (e.2.egress = egress) && decide (combKey e.2.pkt = combKey p) &&
      decide (e.2.contribs.length + cs.length ≤ 8)) with
  | some (k, x) =>
    let (merged, ovf) := accsMerge x.accs accs
    let y := if vc = 6 ∧ x.vc ≠ 6 then { x with vc := 6, pkt := p } else x
    let s1 := (s.updRouter f (fun R => { R with
      comb := SMap.insert R.comb k { y with contribs := x.contribs ++ cs, accs := merged } })).fwrap f Reg.RTE_COMB_STAT.MERGED
    some (ovf.foldl (fun t i => t.raise f Ev.FLD_LONG_OVERFLOW [(1, 2), (4, nth x.slots (i / 32) * 32 + i % 32)]) s1)
  | none =>
    let need := lineElems (rhOf p).typ / 32
    let free := ((List.range combSlots).filter (fun k => !R.combUsed.contains k)).take need
    if free.length < need then none
    else
      let x : CombSlot := { slots := free, egress := egress, vc := vc, pkt := p, contribs := cs, accs := accs }
      let used := R.combUsed.length + need
      let s1 := s.updRouter f (fun R => { R with comb := SMap.insert R.comb (free.headD 0) x })
      some (s1.fset f Reg.RTE_COMB_STAT.PEAK (max (s1.freg f Reg.RTE_COMB_STAT.PEAK) used))

/-- Packets that wait at an egress for credit enter combining slots; the others stay. -/
def State.combWaiting (s : State) (f : FieldId) (egress vc : Nat) : List TxPacket → State × List TxPacket
  | [] => (s, [])
  | x :: xs =>
    let entered := if !x.fresh || x.combined then none
      else (pktParse x.data).bind (fun (p, _) => if combinable p then s.combEnter f egress vc p else none)
    match entered with
    | some t => State.combWaiting t f egress vc xs
    | none => let (t, ys) := s.combWaiting f egress vc xs; (t, x :: ys)

/-- A channel of a port has packets and no credit: those that may combine enter slots, and the stall counts (R384, R427). -/
def State.portStall (s : State) (f : FieldId) (n : PortId) (vc : Nat) : State :=
  if s.vcWaits f n vc && !s.vcCredit f n vc then
    let (t, q) := s.combWaiting f n vc (SMap.get (s.port f n).txq [] vc)
    (t.updPort f n (fun P => { P with txq := SMap.set P.txq [] vc q })).congCount f n vc 8 1
  else s

/-! ### The flit of a flit slot (R326, R328, R329, R331, R332, R334) -/

/-- A flit leaves with current ACK, credit report and CRC: its 256 bytes. -/
def State.flitMake (s : State) (f : FieldId) (n : PortId) (ty : Nat) (x : Flit) (invert : Bool) : State × List Byte :=
  let P := s.port f n
  let k := P.reportPair
  let y := { x with ack := P.withheld.getD P.ack, crVc := k / 2, crPool := decide (k % 2 = 1), crCount := SMap.get P.freed 0 k }
  let c := flitCrc ty y
  let z := { y with crc := if invert then c ^^^ (2 ^ 64 - 1) else c }
  ((s.updPort f n (fun P => P.crReport k)).emit (.flit f n ty z), flitBytes ty z)

/-- A held flit as it is sent (R329). -/
def HeldFlit.flit (h : HeldFlit) : Flit :=
  { seq := h.seq, ack := 0, vc := h.vc, pool := h.pool, crVc := 0, crPool := false, crCount := 0, start := h.start,
    len := h.payload.length, payload := h.payload, crc := 0 }

/-- The point FLIT_CRC inverts the CRC of the next DATA flit (R697). -/
def State.crcPoint (s : State) (f : FieldId) (n : PortId) : State × Bool :=
  if s.injArmedAt f injLink 2 n then (s.injFire f injLink, true) else (s, false)

/-- The held flit whose turn it is in a replay (R329). -/
def Port.replayNext (P : Port) : Option HeldFlit := P.resend.bind (fun r => P.held.find? (fun h => h.seq = r))

/-- A replayed flit is sent (R329). -/
def State.flitReplay (s : State) (f : FieldId) (n : PortId) (h : HeldFlit) : State × List Byte :=
  let later := (((s.port f n).held.dropWhile (fun x => x.seq ≠ h.seq)).drop 1).head?.map (fun x => x.seq)
  let s1 := s.updPort f n (fun P => { P with
    held := P.held.map (fun x => if x.seq = h.seq then { x with sends := x.sends + 1 } else x), resend := later })
  let (s2, inv) := s1.crcPoint f n
  (s2.fwrap f Reg.RTE_LINK_CNT.REPLAYED 1 n).flitMake f n flitData h.flit inv

/-- A new DATA flit of a channel is sent (R325, R331). -/
def State.flitNew (s : State) (f : FieldId) (n : PortId) (v : Nat) : State × List Byte :=
  let P := s.port f n
  let q := s.beaconsStamp f (SMap.get P.txq [] v)
  let (data, start, rest) := fillFlit 64 q [] none
  let res := s.freg f Reg.RTE_LINK_CREDIT.RES n v
  let pool := decide (res = 0)
  let s1 := if pool then s.fset f Reg.RTE_LINK_CREDIT.SHARED (s.freg f Reg.RTE_LINK_CREDIT.SHARED n - 1) n
    else s.fset f Reg.RTE_LINK_CREDIT.RES (res - 1) n v
  let h : HeldFlit := { seq := P.seq, vc := v, pool := pool, start := start.getD 0xFF, payload := data, sends := 1 }
  let s2 := s1.updPort f n (fun P => { P with
    txq := SMap.set P.txq [] v rest, seq := (P.seq + 1) % 0x4000, held := P.held ++ [h] })
  let s3 := ((s2.fwrap f Reg.RTE_LINK_CNT.TX_FLITS 1 n).congCount f n v 9 1).beaconsSent f n q rest
  let (s4, inv) := s3.crcPoint f n
  s4.flitMake f n flitData h.flit inv

/-- A slot that no DATA flit takes (R326). -/
def State.idleFlit (s : State) (f : FieldId) (n : PortId) : State × List Byte :=
  s.flitMake f n flitIdle (s.port f n).control false

/-- Whether the flit a replay comes to has been sent eight times without an answer: the link retrains at its slot (R329,
R342). -/
def Port.spent (P : Port) : Bool := P.replayNext.any (fun h => decide (8 ≤ h.sends))

/-- The flit of a flit slot: a NAK, a replay, a flit of the channel pick chooses, or an IDLE flit. In a group that ends with the
stream, the slot of a flit that is spent carries an IDLE flit, and the link retrains at the next FLIT_SLOT. -/
def State.flitOf (s : State) (f : FieldId) (n : PortId) : State × List Byte :=
  let P := s.port f n
  if P.nakDue && P.withheld.isNone then
    let s1 := s.updPort f n (fun P => { P with nakDue := false })
    (s1.fcount f Reg.RTE_LINK_CNT.NAKS 1 n).flitMake f n flitNak P.control false
  else
    match P.replayNext with
    | some h => if 8 ≤ h.sends then s.idleFlit f n else s.flitReplay f n h
    | none =>
      let s0 := s.updPort f n (fun P => { P with resend := none })
      if 8192 ≤ P.held.length then s0.idleFlit f n
      else
        let (A, v) := P.arb.pick (s.arbCtl f) (s.elig f n)
        let s1 := s0.updPort f n (fun P => { P with arb := A })
        match v with
        | some v => s1.flitNew f n v
        | none => s1.idleFlit f n

/-- What a flit slot brings before its flit is chosen: buffers counted as freed (R332), tokens (R334), and packets without credit
that combine (R427). -/
def State.slotGain (s : State) (f : FieldId) (n : PortId) : State :=
  let c := s.arbCtl f
  let s1 := s.updPort f n (fun P => { P.free4 with arb := P.arb.tokens c })
  (List.range 8).foldl (fun t v => t.portStall f n v) s1

/-- Some flit slots in a row, and the bytes of their flits. -/
def State.slots (s : State) (f : FieldId) (n : PortId) : Nat → State × List Byte
  | 0 => (s, [])
  | k + 1 =>
    let (s1, bs) := (s.slotGain f n).flitOf f n
    let (s2, rest) := State.slots s1 f n k
    (s2, bs ++ rest)

/-! ### Groups (R312, R313) -/

/-- The CTL field of the next group: of the message under way, else of the first that waits, else of NONE; and whether a
message begins with it (R315). -/
def CodeTx.ctl (T : CodeTx) : Nat × Bool × CodeTx :=
  match T.quarters with
  | q :: qs => (q, false, { T with quarters := qs })
  | [] =>
    match T.queue with
    | m :: ms => let q := laneMessage m.1 m.2; (q.headD 0, true, { T with quarters := q.tail, queue := ms })
    | [] => (0, true, { T with quarters := [0, 0, 0] })

/-- Whether groups carry flits: the link is ACTIVE and its transmitter has not stopped (R319, R321). -/
def State.flitsFlow (s : State) (f : FieldId) (n : PortId) : Bool :=
  decide (s.link f n = lsActive) && decide ((s.port f n).stop = .none) && s.portLit f n

/-- A group leaves (R312, R313). With flits, those of its slots that no FLIT_SLOT command has filled are flit slots like any
other; `last`: it ends after the last flit that ends within it, and its remaining bits are 0. Every wavelength of a lit port
sends. -/
def State.groupOut (s0 : State) (f : FieldId) (n : PortId) (last switch : Bool) : State :=
  if !s0.portLit f n then s0
  else
    let flits := s0.flitsFlow f n
    let T0 := (s0.port f n).code
    let room := groupBits (slotsIn 15 T0.out).length
    let held := 8 * T0.stream.length - T0.skip
    let (s, more) := s0.slots f n
      (if !flits then 0 else if last then (room - held) / 2048 else (room - held + 2047) / 2048)
    let (ctl, start, T) := (s.port f n).code.ctl
    let data := T.stream ++ more
    let used := if last then 8 * data.length else T.skip + room
    let slots := (List.range 16).map (fun w =>
      if s.link f n = lsQualify then 15 else ((slotsIn 15 T.out).find? (fun k => nth T.map k = w)).getD 15)
    let g : Group := { number := T.group, mode := s.freg f Reg.HDL_PORT_STATUS.TX_MODE n, slots := slots, switch := switch,
                       start := start, ctl := ctl, idle := !flits, skip := T.skip,
                       data := if flits then data.take ((used + 7) / 8) else [] }
    (s.updPort f n (fun P => { P with code := { T with
      group := (T.group + 1) % 256
      stream := if flits then data.drop (used / 8) else []
      skip := if flits then used % 8 else 0 } })).emit (.group f n g)

/-- Flits of a port end with a group (R313). -/
def State.flitsCut (s : State) (f : FieldId) (n : PortId) : State :=
  let s1 := if s.flitsFlow f n then s.groupOut f n true false else s
  s1.updPort f n (fun P => { P with code := { P.code with stream := [], skip := 0 } })

/-- The same before a change of state: where the stream stands at the beginning of a group, the group before was the last. -/
def State.flitsEnd (s : State) (f : FieldId) (n : PortId) : State :=
  let T := (s.port f n).code
  if T.stream = [] ∧ T.skip = 0 then s else s.flitsCut f n

/-- The bytes of a flit join the stream, and a group that they fill leaves. -/
def State.streamFlit (s : State) (f : FieldId) (n : PortId) (bs : List Byte) : State :=
  let s1 := s.updPort f n (fun P => { P with code := { P.code with stream := P.code.stream ++ bs } })
  let T := (s1.port f n).code
  if groupBits (slotsIn 15 T.out).length ≤ 8 * T.stream.length - T.skip then s1.groupOut f n false false else s1

end Sys2Proof.Machine
end

