-- ==== Sys2Proof/Machine/LinkOps.lean ====
section
/-! DEFINITION. Operations of a port that its rows share: lane sparing and calibration (R270 to
R278), lane control (R315 to R318), link states, replay and retrain (R336 to R344), and discovery
(R361 to R365). -/

namespace Sys2Proof.Machine

open Sys2Proof

/-! ### Lanes of a transmit direction (R270 to R278) -/

/-- What a decision about lanes makes the transmitter send. -/
inductive LaneAct where
  | change (slot wave : Nat)
  /-- the slot leaves the stripe -/
  | drop (slot : Nat)
  | msg (type arg : Nat)
  deriving DecidableEq, Repr

/-- The code for "no wavelength" in a lane map (R316). -/
def noWave : Nat := 15

def lmMap : Nat := 0x01
def lmMode : Nat := 0x02
def lmCal : Nat := 0x03
def lmCalDone : Nat := 0x04
def lmLaneFailed : Nat := 0x05
def lmLightPause : Nat := 0x06
def lmPower : Nat := 0x07
def lmBeacon : Nat := 0x10
def lmTrain : Nat := 0x11
def lmQual : Nat := 0x12
def lmRetrain : Nat := 0x13
/-- Stands in a list of messages for the SWITCH group that follows a change (R318). -/
def lmSwitch : Nat := 0x100
/-- Stands in a list of messages for a MAP_CHANGE that a failed wavelength causes (R318). -/
def lmMapFail : Nat := 0x101

/-- The slot a wavelength carries. -/
def LaneTx.slotOf (d : LaneTx) (w : Nat) : Option Nat :=
  (List.range d.map.length).find? (fun k => !bit d.out k && decide (nth d.map k = w))

/-- The wavelength under calibration. -/
def LaneTx.calWave (d : LaneTx) : Option Nat := d.cal.map (fun c => c.wave)

/-- The idle fallow lane, when there is one. -/
def LaneTx.spare (d : LaneTx) : Option Nat :=
  if bit d.failed d.fallow || (d.slotOf d.fallow).isSome || d.calWave = some d.fallow then none
  else some d.fallow

/-- Slot k moved onto a wavelength, or out of the stripe. -/
def LaneTx.put (d : LaneTx) (k : Nat) (w : Option Nat) : LaneTx :=
  match w with
  | some w => { d with map := d.map.set k w, out := setBit d.out k false }
  | none => { d with map := d.map.set k noWave, out := setBit d.out k true }

/-- A wavelength becomes the one calibrated last. -/
def LaneTx.calibrated (d : LaneTx) (w : Nat) : LaneTx :=
  { d with order := d.order.filter (fun x => x ≠ w) ++ [w] }

/-- A wavelength that carries no slot becomes available: a slot out of the stripe moves onto it, else
it is the fallow lane (R276). -/
def LaneTx.free (d : LaneTx) (w : Nat) : LaneTx × List LaneAct :=
  match (List.range d.map.length).find? (bit d.out) with
  | some k => (d.put k (some w), [.change k w])
  | none => ({ d with fallow := w }, [])

/-- The CAL end message of a wavelength. -/
def calEnd (w : Nat) : LaneAct := .msg lmCal (w + 2 ^ 8)

/-- A slot in progress ends without calibrating its wavelength (R276, R284). -/
def LaneTx.abort (d : LaneTx) : LaneTx × List LaneAct :=
  match d.cal with
  | none => (d, [])
  | some c =>
    let d1 := { d with cal := none }
    if c.retry then (d1, [calEnd c.wave])
    else
      match c.spare, c.slot with
      | none, some k => (d1.put k (some c.wave), [calEnd c.wave, .change k c.wave])
      | _, _ =>
        let (d2, acts) := d1.free c.wave
        (d2, calEnd c.wave :: acts)

/-- A wavelength fails (R276): the lanes after it, what is sent, and whether a slot in progress was
aborted for it. -/
def LaneTx.fail (d : LaneTx) (w : Nat) : LaneTx × List LaneAct × Bool :=
  let d0 := { d with failed := setBit d.failed w true }
  match d0.slotOf w with
  | some k =>
    match d0.spare with
    | some x => (d0.put k (some x), [.change k x], false)
    | none =>
      let out := d0.put k none
      match d0.cal with
      | some c =>
        if c.spare.isSome && !c.retry then
          let (d1, acts) := out.abort
          (d1, .drop k :: acts, true)
        else (out, [.drop k], false)
      | none => (out, [.drop k], false)
  | none =>
    if d0.calWave = some w then ({ d0 with cal := none }, [calEnd w], false) else (d0, [], false)

/-- A slot in service and one out of the stripe change places. -/
def LaneTx.swap (d : LaneTx) (k j : Nat) : LaneTx :=
  let d1 := (d.put j none).put k (some (nth d.map j))
  { d1 with cal := d.cal.map (fun c => if c.slot = some k then { c with slot := some j } else c) }

/-- Slots 0 to 3 carried by wavelengths in service, taken from slots 4 to 7 where need be: what a width of x8 uses (R597). -/
def LaneTx.pack (d : LaneTx) : LaneTx :=
  (List.range 4).foldl (fun (d : LaneTx) k =>
    if bit d.out k then
      match [4, 5, 6, 7].find? (fun j => !bit d.out j) with
      | some j => d.swap k j
      | none => d
    else d) d

/-- Wavelengths in the order of the slots they carry, those that carry none last (R675). -/
def LaneTx.bySlot (d : LaneTx) (ws : List Nat) : List Nat :=
  ((slotsIn d.map.length d.out).map (fun k => nth d.map k)).filter (fun w => ws.contains w) ++
    ws.filter (fun w => (d.slotOf w).isNone)

/-- A calibration slot starts on the in-service wavelength calibrated longest ago (R271, R274): the
lanes, what is sent, the wavelength, whether the slot runs without a fallow lane, and whether it is
the first such of its rotation. -/
def LaneTx.calStart (d : LaneTx) : Option (LaneTx × List LaneAct × Nat × Bool × Bool) :=
  match d.order.find? (fun w => (d.slotOf w).isSome && !bit d.failed w) with
  | none => none
  | some w =>
    let degr := if d.run = 0 then false else d.degr
    let d0 := { d with run := (d.run + 1) % 16, degr := degr, sinceRetry := d.sinceRetry + 1 }
    match d.slotOf w, d.spare with
    | some k, some x =>
      some ({ d0.put k (some x) with cal := some ⟨w, some k, some x, false⟩ },
        [.change k x, .msg lmCal w], w, false, false)
    | slot, _ =>
      let k := slot.getD 0
      some ({ d0.put k none with cal := some ⟨w, some k, none, false⟩, degr := true },
        [.drop k, .msg lmCal w], w, true, !degr)

/-- The slot in progress ends with lock confirmed (R271, R274). -/
def LaneTx.calFinish (d : LaneTx) : LaneTx × List LaneAct :=
  match d.cal with
  | none => (d, [])
  | some c =>
    let (d1, acts) := (d.calibrated c.wave).abort
    (d1, acts)

/-- The retry of a failed wavelength starts (R278). -/
def LaneTx.retryStart (d : LaneTx) (w : Nat) : LaneTx × List LaneAct :=
  ({ d with cal := some ⟨w, none, none, true⟩, sinceRetry := 0, run := (d.run + 1) % 16,
            degr := if d.run = 0 then false else d.degr }, [.msg lmCal w])

/-- The retry ends: the wavelength is restored, or has failed one retry more (R278). DESIGN CHOICE (log entry 44): a retry that
passes leaves the count of failed retries as it was. -/
def LaneTx.retryFinish (d : LaneTx) (w : Nat) (pass : Bool) : LaneTx × List LaneAct :=
  let d1 := { d with cal := none }
  if pass then
    let (d2, acts) := (({ d1 with failed := setBit d1.failed w false } : LaneTx).calibrated w).free w
    (d2, calEnd w :: acts)
  else ({ d1 with retries := SMap.set d1.retries 0 w (SMap.get d1.retries 0 w + 1) }, [calEnd w])

/-! ### Lanes of a receive direction -/

/-- The slot a wavelength carries. -/
def LaneRx.slotOf (d : LaneRx) (w : Nat) : Option Nat :=
  (List.range d.map.length).find? (fun k => !bit d.out k && decide (nth d.map k = w))

/-- A change of the map takes effect at the receiver. The code 0xF names λ15 when λ15 is free to carry
a slot, and otherwise takes the slot out of the stripe. -/
def LaneRx.put (d : LaneRx) (k w : Nat) : LaneRx :=
  let free := !bit d.failed w && (d.slotOf w).isNone && d.cal ≠ some w
  if w = noWave && !free then { d with map := d.map.set k noWave, out := setBit d.out k true }
  else { d with map := d.map.set k w, out := setBit d.out k false }

/-- Line rate of a lane in bits per second (R268). -/
def lineRate (mode : Nat) : Nat := (match mode with | 0 => 256 | 1 => 192 | _ => 64) * 10 ^ 9

/-- IDLE groups for some nanoseconds (R309, R312): the groups that begin in that time. The messages under way and waiting leave
in the first of them; the others carry NONE (R315). -/
def State.idleFor (s : State) (f : FieldId) (n : PortId) (ns : Nat) : State :=
  let k := (ns * (lineRate (s.freg f Reg.HDL_PORT_STATUS.TX_MODE n) / 10 ^ 9) + 5439) / 5440
  let T := (s.port f n).code
  let told := min k (T.quarters.length + 4 * T.queue.length)
  let s1 := (List.range told).foldl (fun t _ => t.groupOut f n false false) s
  let m := k - told
  (s1.updPort f n (fun P => { P with code := { P.code with
    group := (P.code.group + m) % 256
    quarters := if m = 0 then P.code.quarters else List.replicate ((4 - m % 4) % 4) 0 } })).emit
    (.idleGroups f n (s1.port f n).code.group m)

/-! ### Sending lane control (R315 to R318) -/

/-- Precedence of a waiting message (R317). -/
def lmRank (ty : Nat) : Nat :=
  if ty = lmMap ∨ ty = lmMode ∨ ty = lmSwitch ∨ ty = lmMapFail then 1
  else if ty = lmLightPause then 2
  else if ty = lmLaneFailed then 3
  else if ty = lmCal ∨ ty = lmCalDone then 4
  else if ty = lmTrain ∨ ty = lmRetrain then 5
  else if ty = lmQual then 6
  else if ty = lmBeacon then 7
  else 8

/-- A message takes its place among those that wait for CTL; the second value is how many groups it takes until its last
quarter has left. -/
def CodeTx.enter (T : CodeTx) (m : Nat × Nat) : CodeTx × Nat :=
  let front := T.queue.takeWhile (fun x => lmRank x.1 ≤ lmRank m.1)
  ({ T with queue := front ++ m :: T.queue.drop front.length }, T.quarters.length + 4 * (front.length + 1))

/-- The argument in a list of messages of the SWITCH group that follows a change: 0 for a mode, else one more than the
MAP_CHANGE's argument, in which bit 8 stands for a slot that leaves the stripe. -/
def switchArg (ty arg : Nat) : Nat := if ty = lmMode then 0 else arg + 1

/-- The map that groups are striped by after a SWITCH group: with the change that this group is for, and no later one (R318). -/
def CodeTx.switched (T : CodeTx) (arg : Nat) : CodeTx :=
  let k := (arg - 1) % 16
  if arg = 0 then { T with stream := [], skip := 0 }
  else if bit (arg - 1) 8 then { T with stream := [], skip := 0, map := T.map.set k noWave, out := setBit T.out k true }
  else { T with stream := [], skip := 0, map := T.map.set k (bits (arg - 1) 4 4), out := setBit T.out k false }

/-- A message leaves on every locked wavelength of the direction. While flits flow, messages leave in the groups that the
flits fill; a change of the map or mode and a light pause do not wait for flits, nor does any message without flits. -/
def State.laneOut (s : State) (f : FieldId) (n : PortId) (m : Nat × Nat) : State :=
  if m.1 = lmSwitch then
    ((s.emit (.switchGroup f n)).groupOut f n true true).updPort f n (fun P => { P with code := P.code.switched m.2 })
  else
    let ty := m.1 % 0x100
    let arg := if ty = lmMap then m.2 % 0x100 else m.2
    let s1 := s.emit (.lane f n ty arg)
    if !s.portLit f n then s1
    else
      let (T, k) := (s.port f n).code.enter (ty, arg)
      let s2 := s1.updPort f n (fun P => { P with code := T })
      if s.flitsFlow f n && decide (2 < lmRank ty) then s2
      else (List.range k).foldl (fun t _ => t.groupOut f n false false) s2

/-- Whether the transmitter can send codewords. -/
def TxStop.silent : TxStop → Bool
  | .relock => true
  | .pause => true
  | _ => false

/-- Changes of a slot that wait are superseded by a later one. -/
def dropSlot (k : Nat) : List (Nat × Nat) → List (Nat × Nat)
  | (a, x) :: (b, y) :: ws =>
    if (a = lmMap ∨ a = lmMapFail) ∧ x % 16 = k ∧ b = lmSwitch then dropSlot k ws
    else (a, x) :: dropSlot k ((b, y) :: ws)
  | ws => ws

/-- A message joins those that wait. A change that a failed wavelength causes goes ahead of the calibration changes, with its
SWITCH group (R318). -/
def waitPut (ws : List (Nat × Nat)) (m : Nat × Nat) : List (Nat × Nat) :=
  if m.1 = lmMapFail then
    let rest := dropSlot (m.2 % 16) ws
    let front := rest.takeWhile (fun x => x.1 ≠ lmMap)
    front ++ m :: (lmSwitch, switchArg m.1 m.2) :: rest.drop front.length
  else ws ++ [m]

/-- A message is sent, or waits for a stopped transmitter. -/
def State.laneSend (s : State) (f : FieldId) (n : PortId) (ty arg : Nat) : State :=
  if (s.port f n).stop.silent then s.updPort f n (fun P => { P with waiting := waitPut P.waiting (ty, arg) })
  else s.laneOut f n (ty, arg)

/-- A change of the map is sent with the SWITCH group after it (R318). -/
def State.changeSend (s : State) (f : FieldId) (n : PortId) (ty arg : Nat) : State :=
  let s1 := s.laneSend f n ty arg
  if (s.port f n).stop.silent && decide (ty = lmMapFail) then s1
  else s1.laneSend f n lmSwitch (switchArg ty arg)

/-- Waiting messages leave in their order of precedence (R317), changes in the order queued. -/
def State.laneFlush (s : State) (f : FieldId) (n : PortId) : State :=
  let ws := (s.port f n).waiting
  let sorted := (List.range 9).flatMap (fun r => ws.filter (fun m => lmRank m.1 = r))
  sorted.foldl (fun t m => t.laneOut f n m) (s.updPort f n (fun P => { P with waiting := [] }))

/-- What a decision about lanes sends; `failed`: a failed wavelength causes it. -/
def State.laneActs (s : State) (f : FieldId) (n : PortId) (acts : List LaneAct) (failed : Bool := false) : State :=
  acts.foldl (fun t a =>
    match a with
    | .change k w => t.changeSend f n (if failed then lmMapFail else lmMap) (k + w * 2 ^ 4)
    | .drop k => t.changeSend f n (if failed then lmMapFail else lmMap) (k + noWave * 2 ^ 4 + 2 ^ 8)
    | .msg ty arg => t.laneSend f n ty arg) s

def State.setTx (s : State) (f : FieldId) (n : PortId) (d : LaneTx) : State :=
  s.updPort f n (fun P => { P with tx := d })
def State.setRx (s : State) (f : FieldId) (n : PortId) (d : LaneRx) : State :=
  s.updPort f n (fun P => { P with rx := d })

/-- Transmit and receive lanes in service (R304). -/
def State.txLanes (s : State) (f : FieldId) (n : PortId) : Nat :=
  if s.portLit f n then 15 - popcount 15 (s.port f n).tx.out else 0
def State.rxLanes (s : State) (f : FieldId) (n : PortId) : Nat :=
  let P := s.port f n
  ((slotsIn 15 P.rx.out).filter (fun k => bit P.lock (nth P.rx.map k) && !bit P.rx.failed (nth P.rx.map k))).length

/-! ### Changes of the link state (R336, R347, R348) -/

/-- The link enters a state with a RESULT; the flits of an ACTIVE link end with a group before it (R313). The event carries
INJECTED where a point caused the change (R698). -/
def State.linkSet (s : State) (f : FieldId) (n : PortId) (new result : Nat) (injected : Bool := false) : State :=
  let old := s.link f n
  let s0 := if old = lsActive ∧ new ≠ lsActive then s.flitsEnd f n else s
  let s1 := s0.fset f Reg.RTE_LINK_STATUS.RESULT result n
  if old = new then s1
  else (s1.fset f Reg.RTE_LINK_STATUS.STATE new n).raise f Ev.RTE_LINK_STATE
    [(1, portNo f n), (1, old), (1, new), (2, result)] injected

/-- A count of PROTO_ERR with its event (R348). Kinds: 0 reserved TYPE, 1 VC7, 2 LEN, 3 no buffer,
4 reserved message, 5 desynchronisation. -/
def State.protoErr (s : State) (f : FieldId) (n : PortId) (kind : Nat) : State :=
  (s.fcount f Reg.RTE_LINK_CNT.PROTO_ERR 1 n).raiseLimited f (0x100 + n) Ev.RTE_PROTOCOL
    [(1, portNo f n), (1, kind)]

/-- Bytes of the whole packets at the front of a channel's stream. -/
def wholeBytes : Nat → List Byte → Nat
  | 0, _ => 0
  | fuel + 1, bs =>
    match pktParse bs with
    | none => 0
    | some (_, n) => n + wholeBytes fuel (bs.drop n)

/-- The first n bytes held in a channel's flit buffers. -/
def bufTake : Nat → List BufFlit → List BufFlit
  | _, [] => []
  | n, b :: bs => if n = 0 then [] else { b with data := b.data.take n } :: bufTake (n - b.data.length) bs

/-- The packets a channel's buffers hold whole, the rest of its stream dropped. -/
def bufWhole (q : List BufFlit) : List BufFlit :=
  let bs := q.flatMap (fun b => b.data)
  bufTake (wholeBytes bs.length bs) q

/-- Credits full, sequence numbers at their start (R337, R343). -/
def State.linkZero (s : State) (f : FieldId) (n : PortId) : State :=
  let s1 := (List.range 8).foldl (fun t v => t.fset f Reg.RTE_LINK_CREDIT.RES 256 n v) s
  (s1.fset f Reg.RTE_LINK_CREDIT.SHARED 6144 n).updPort f n (fun P =>
    { P with
      exp := 0, seq := 0, held := [], resend := none, nakDue := false, nakFor := none,
      farAck := 0x3FFF, freeing := [], freed := [], reported := [], seenCr := [], waited := [],
      rxq := P.rxq.map (fun (v, q) => (v, bufWhole q)),
      txq := P.txq.map (fun (v, q) => (v, q.filter (fun x => x.fresh))) })

/-- A link goes down (R343): its replay buffer is discarded and counted. A retrain that ends so was not preserved (R350). -/
def State.linkDown (s : State) (f : FieldId) (n : PortId) (injected : Bool := false) : State :=
  let lost := (s.port f n).held.length
  let s0 := if s.link f n = lsActive then s.flitsEnd f n else s
  let s1 := (s0.fcount f Reg.RTE_LINK_CNT.LOST lost n).linkZero f n
  let s2 := if s.link f n = lsRetrain then s1.fset f Reg.RTE_LINK_STATUS.PRESERVED 0 n else s1
  (s2.updPort f n (fun P => { P with ready := false, farReady := false, admitted := none })).raise f Ev.RTE_LINK_DOWN
    [(1, portNo f n), (4, lost)] injected

/-- What a port forgets when it locks anew. -/
def Port.unlock (P : Port) : Port :=
  { P with lock := 0, relock := false, ready := false, farReady := false, lockLate := false, parts := [], whole := [],
           accepted := [], qualDone := 0, qualPass := 0, qualN := [], qualE := [], qualU := [], farPass := none,
           heardCode := CodeRx.init }

/-- The link enters LOCK. -/
def State.linkLock (s : State) (f : FieldId) (n : PortId) (result : Nat) (injected : Bool := false) : State :=
  (s.updPort f n (fun P => { P.unlock with heard := false })).linkSet f n lsLock result injected

/-- A port in LOCK whose wavelengths are locked leaves it, unless its engine is DARK or its shutter is held at PROBE
(R336). -/
def State.linkLocked (s : State) (f : FieldId) (n : PortId) : State :=
  if s.link f n = lsLock ∧ 8 ≤ popcount 16 (s.port f n).lock ∧ s.portLit f n = true then s.linkSet f n lsBeacon St.OK else s

/-- A DISABLED link that may train enters LOCK (R336). -/
def State.linkStart (s : State) (f : FieldId) (n : PortId) : State :=
  if s.link f n = lsDisabled ∧ s.freg f Reg.RTE_LINK_CTL.ENABLE n = 1 ∧ s.engineDark f n = false ∧
      s.hub.linksBegun = true then s.linkLock f n St.OK
  else s

/-- A port whose engine goes DARK, or whose shutter is held at PROBE, is held in LOCK (R336). -/
def State.linkDarken (s : State) (f : FieldId) (n : PortId) (injected : Bool := false) : State :=
  let st := s.link f n
  if st = lsActive ∨ st = lsRetrain then (s.linkDown f n injected).linkLock f n St.OK injected
  else if st = lsBeacon ∨ st = lsHeld ∨ st = lsQualify then s.linkLock f n St.OK injected
  else s.updPort f n (fun P => { P with lock := 0 })

/-- An ACTIVE link enters RETRAIN (R342), or FAILED at the ninth entry within 10 s (R344). -/
def State.linkRetrain (s : State) (f : FieldId) (n : PortId) (injected : Bool := false) : State :=
  if s.link f n ≠ lsActive then s
  else
    let recent := (s.port f n).retrains.filter (fun t => s.now < t + 10000 * oneMs) ++ [s.now]
    let s1 := (s.fcount f Reg.RTE_LINK_CNT.RETRAINS 1 n).updPort f n (fun P => { P with retrains := recent })
    if 9 ≤ recent.length then
      let s2 := (s1.laneSend f n lmRetrain 0).fset f Reg.RTE_LINK_STATUS.PRESERVED 0 n
      (s2.linkDown f n injected).linkSet f n lsFailed St.LINK_RETRAIN_LIMIT injected
    else ((s1.linkSet f n lsRetrain St.OK injected).updPort f n Port.unlock).laneSend f n lmRetrain 0

/-- A desynchronised link (R314, R318). -/
def State.linkDesync (s : State) (f : FieldId) (n : PortId) : State :=
  ((s.updPort f n (fun P => { P with rx := { P.rx with pending := none } })).protoErr f n 5).linkRetrain f n

/-! ### Modes (R269, R285, R319) -/

/-- The mode a transmit direction should run in: the slower of the request and the fallback. -/
def State.txModeWanted (s : State) (f : FieldId) (n : PortId) : Nat :=
  max (s.freg f Reg.HDL_PORT_CTL.TX_MODE_REQ n) (b2n (s.port f n).fallback)

/-- A mode change starts when the mode in effect is not the one wanted, no stop is under way and no calibration slot is in
progress (R676); a link in QUALIFY is tested in L256 (R339) and changes its mode afterwards. -/
def State.txModeUpdate (s : State) (f : FieldId) (n : PortId) : State :=
  let m := s.txModeWanted f n
  if m = s.freg f Reg.HDL_PORT_STATUS.TX_MODE n ∨ (s.port f n).stop ≠ .none ∨ s.link f n = lsQualify ∨
      (s.port f n).tx.cal.isSome = true then s
  else
    let s1 := (s.changeSend f n lmMode m).emit (.flitStop f n)
    (s1.fset f Reg.HDL_PORT_STATUS.TX_MODE m n).updPort f n (fun P => { P with stop := .relock })

/-! ### Replay and activation (R329, R337, R343) -/

/-- Whether SEQ a is covered by an acknowledgement of x: a is x or one of the 8,191 before it. -/
def seqCovered (a x : Nat) : Bool := decide ((x + 0x4000 - a) % 0x4000 < 0x2000)

/-- Held flits an acknowledgement covers leave the replay buffer (R329). -/
def Port.acked (P : Port) (x : Nat) : Port :=
  let held := P.held.filter (fun h => !seqCovered h.seq x)
  { P with held := held, resend := P.resend.bind (fun r =>
      if held.any (fun h => h.seq = r) then some r
      else if seqCovered r x then (held.head?).map (fun h => h.seq) else none) }

/-- What the transmit side of a port begins anew with in ACTIVE: its first flit at stream bit 0 (R337), its groups striped by
the lane map, and its held flits not yet sent again (R329, R343). -/
def Port.begin (P : Port) : Port :=
  { P with ready := false, farReady := false, admitted := P.seen, held := P.held.map (fun h => { h with sends := 0 }),
           code := { P.code with stream := [], skip := 0, map := P.tx.map, out := P.tx.out }, heardCode := CodeRx.init }

/-- Lanes in service too few: what it leads to, in one direction or both (R277). -/
def State.laneFew (s : State) (f : FieldId) (n : PortId) (rx : Bool) (after : Nat) (injected : Bool := false) : State :=
  if after < 12 then s.raise f Ev.HDL_PORT_DEGRADED [(1, portNo f n), (1, b2n rx), (1, after)] injected else s

/-- What a fall of lanes in service leads to (R277). `rx`: the receive direction. -/
def State.laneCheck (s : State) (f : FieldId) (n : PortId) (rx : Bool) (before : Nat) (injected : Bool := false) : State :=
  let after := if rx then s.rxLanes f n else s.txLanes f n
  let s1 := if 12 ≤ before then s.laneFew f n rx after injected else s
  if after < 8 then s1.linkRetrain f n injected else s1

/-- Both directions are looked at as a link comes back with the lanes it kept (R277). -/
def State.laneKept (s : State) (f : FieldId) (n : PortId) : State :=
  let tx := s.txLanes f n
  let rx := s.rxLanes f n
  let s1 := (s.laneFew f n false tx).laneFew f n true rx
  if tx < 8 ∨ rx < 8 then s1.linkRetrain f n else s1

/-- The port enters ACTIVE (R337, R343): afresh, or preserving what a retrain within 1 ms kept. After QUALIFY its lanes have been
looked at; else they are now (R277, R341). -/
def State.linkActivate (s : State) (f : FieldId) (n : PortId) : State :=
  let s1 :=
    if s.link f n = lsRetrain then
      (s.fset f Reg.RTE_LINK_STATUS.PRESERVED 1 n).updPort f n (fun P =>
        let Q := P.acked P.farAck
        { Q with resend := (Q.held.head?).map (fun h => h.seq) })
    else s.linkZero f n
  let s2 := (s1.updPort f n Port.begin).linkSet f n lsActive St.OK
  (if s.link f n = lsQualify then s2 else s2.laneKept f n).txModeUpdate f n

/-- A port enters ACTIVE once it has sent READY, which a silent transmitter has not, and received it (R337). -/
def State.linkGo (s : State) (f : FieldId) (n : PortId) : State :=
  let P := s.port f n
  if P.ready && P.farReady && !P.stop.silent then s.linkActivate f n else s

/-- The transmitter resumes (R319, R321): waiting messages leave, flits follow, a mode change that waited starts. -/
def State.txResume (s : State) (f : FieldId) (n : PortId) : State :=
  let s1 := (s.updPort f n (fun P => { P with stop := .idle })).laneFlush f n
  (((s1.updPort f n (fun P => { P with stop := .none })).emit (.flitResume f n)).txModeUpdate f n).linkGo f n

/-- The TRAIN message of a port (R316). -/
def State.trainArg (s : State) (f : FieldId) (n : PortId) : Nat :=
  s.link f n + b2n (s.port f n).ready * 2 ^ 4 + (s.port f n).ack * 2 ^ 5

/-- A port that would enter ACTIVE sets READY; it enters when both ends have (R337). -/
def State.linkReady (s : State) (f : FieldId) (n : PortId) : State :=
  let s1 := s.updPort f n (fun P => { P with ready := true })
  (s1.laneSend f n lmTrain (s1.trainArg f n)).linkGo f n

/-! ### Lanes that fail (R275 to R278) -/

/-- A ring has left its lock point: near a thermal event of the field the failure counts as environment, unless the same
wavelength failed so within 60 s (R657). `w`: the wavelength, 256 more for a receive ring. -/
def State.ringLost (s : State) (f : FieldId) (n : PortId) (w : Nat) : State :=
  let k := 16 * n.val + w
  s.updField f (fun F =>
    let H := F.hlt
    let near := decide (H.thermAt ≠ 0) && decide (s.now + 1 ≤ H.thermAt + 5 * oneMs)
    let last := SMap.get H.ringAt 0 k
    let again := decide (last ≠ 0) && decide (s.now + 1 ≤ last + 60000 * oneMs)
    { F with hlt := { H with
      ringAt := if near then SMap.insert H.ringAt k (s.now + 1) else H.ringAt,
      ringEnv := if near && !again then SMap.insert H.ringEnv k true else SMap.erase H.ringEnv k } })

/-- Whether a wavelength's failure came from an injection point is noted (R698). -/
def State.laneInjected (s : State) (f : FieldId) (n : PortId) (rx : Bool) (w : Nat) (inj : Bool) : State :=
  let k := 16 * n.val + w + 256 * b2n rx
  s.updField f (fun F => { F with hlt := { F.hlt with
    injLanes := if inj then SMap.insert F.hlt.injLanes k true else SMap.erase F.hlt.injLanes k } })

/-- A transmit wavelength fails (R275, R276). -/
def State.txFail (s : State) (f : FieldId) (n : PortId) (w reason : Nat) (inj : Bool := false) : State :=
  let P := s.port f n
  if bit P.tx.failed w then s
  else
    let before := s.txLanes f n
    let (d, acts, aborted) := P.tx.fail w
    let s1 := ((s.setTx f n d).raise f Ev.HDL_LANE_FAILED [(1, portNo f n), (1, 0), (1, w), (1, reason)] inj).laneInjected
      f n false w inj
    let s2 := if aborted then s1.fcount f Reg.HDL_CAL_STAT.ABORTED else s1
    let s3 := if reason = 0 then s2.ringLost f n w
      else s2.updField f (fun F => { F with hlt := { F.hlt with ringEnv := SMap.erase F.hlt.ringEnv (16 * n.val + w) } })
    ((s3.laneActs f n acts true).laneCheck f n false before inj).txModeUpdate f n

/-- A receive wavelength fails (R275): the far end learns of it through link control. -/
def State.rxFail (s : State) (f : FieldId) (n : PortId) (w reason : Nat) (inj : Bool := false) : State :=
  let P := s.port f n
  if bit P.rx.failed w then s
  else
    let before := s.rxLanes f n
    let s1 := s.setRx f n { P.rx with failed := setBit P.rx.failed w true, reasons := SMap.set P.rx.reasons 0 w reason }
    let s2 := (s1.raise f Ev.HDL_LANE_FAILED [(1, portNo f n), (1, 1), (1, w), (1, reason)] inj).laneInjected f n true w inj
    let s3 := if reason = 0 then s2.ringLost f n (w + 256)
      else s2.updField f (fun F => { F with hlt := { F.hlt with ringEnv := SMap.erase F.hlt.ringEnv (16 * n.val + w + 256) } })
    (s3.laneSend f n lmLaneFailed (w + reason * 2 ^ 8)).laneCheck f n true before inj

/-- Whether the receive rules for lost light and lanes are suspended (R321, R323). -/
def State.rxSuspended (s : State) (f : FieldId) (n : PortId) : Bool :=
  decide (s.freg f Reg.HDL_PORT_STATUS.LIGHT_PAUSE n = 1) || (s.port f n).relock

/-! ### Coordinates (R19, R36, R357) -/

/-- Coordinate of a node on an axis: 1 U, 2 V, 3 W. -/
def nodeCoord (node axis : Nat) : Nat :=
  match axis with
  | 1 => bits node 2 2
  | 2 => bits node 4 4
  | 3 => bits node 8 5
  | _ => 0

/-- A node with its coordinate on an axis replaced. -/
def nodeWith (node axis c : Nat) : Nat :=
  match axis with
  | 1 => setBits node 2 2 c
  | 2 => setBits node 4 4 c
  | 3 => setBits node 8 5 c
  | _ => node

/-- Package of a node. -/
def nodePkg (node : Nat) : Nat := node &&& 0x1FFC

/-- Axes on which two nodes differ. -/
def axesDiffer (a b : Nat) : List Nat := [1, 2, 3].filter (fun x => nodeCoord a x ≠ nodeCoord b x)

/-- Size of an axis in the port plan (R357, R359). -/
def State.axisSize (s : State) (f : FieldId) (axis : Nat) : Nat :=
  match axis with
  | 1 => s.freg f Reg.RTE_PLAN_HDR.SIZE_U
  | 2 => s.freg f Reg.RTE_PLAN_HDR.SIZE_V
  | 3 => s.freg f Reg.RTE_PLAN_HDR.SIZE_W
  | _ => 0

/-! ### Discovery (R361 to R365) -/

def dNone : Nat := 0
def dMatch : Nat := 1
def dSwapSame : Nat := 2
def dSwapOther : Nat := 3
def dUnplanned : Nat := 4
def dForeign : Nat := 5
def dMissing : Nat := 6

/-- The effective neighbour of a port (R361, R364): axis, coordinate, far port. -/
def State.effective (s : State) (f : FieldId) (n : PortId) : Nat × Nat × Nat :=
  match (s.port f n).approved with
  | some b =>
    let a := (axesDiffer (nodePkg b.node) s.pkgNode).headD 0
    (a, nodeCoord b.node a, b.port)
  | none =>
    (s.freg f Reg.RTE_PLAN_PORT.AXIS n, s.freg f Reg.RTE_PLAN_PORT.COORD n,
      (s.port f n).farPort.getD (s.freg f Reg.RTE_PLAN_PORT.FAR_PORT n))

/-- The package a port's effective neighbour is; none where the plan does not use the port. -/
def State.effPkg (s : State) (f : FieldId) (n : PortId) : Option Nat :=
  let (a, c, _) := s.effective f n
  if a = 0 then none else some (nodeWith s.pkgNode a c)

/-- Whether a package is a planned neighbour (R362). -/
def State.planned (s : State) (pkg : Nat) : Bool :=
  (List.range 64).any (fun p => s.effPkg (portAt p).1 (portAt p).2 = some pkg)

/-- The outcome discovery decides for a beacon (R362). -/
def State.discover (s : State) (f : FieldId) (n : PortId) (b : BeaconId) : Nat :=
  let pkg := nodePkg b.node
  let far := match (s.port f n).approved with
    | some a => a.port
    | none => s.freg f Reg.RTE_PLAN_PORT.FAR_PORT n
  if s.freg f Reg.RTE_PLAN_PORT.AXIS n = 0 then dUnplanned
  else if b.digest ≠ s.freg f Reg.RTE_PLAN_HDR.DIGEST ∨ pkg = s.pkgNode ∨
      1 < (axesDiffer pkg s.pkgNode).length ∨ s.planned pkg = false then dForeign
  else if s.effPkg f n = some pkg then (if b.port = far then dMatch else dSwapSame)
  else dSwapOther

/-- A port's outcome changes, with its event (R362). -/
def State.setOutcome (s : State) (f : FieldId) (n : PortId) (o node port : Nat) : State :=
  if s.freg f Reg.RTE_DISC_STATUS.OUTCOME n = o then s
  else (s.fset f Reg.RTE_DISC_STATUS.OUTCOME o n).raise f Ev.RTE_DISCOVERY
    [(1, portNo f n), (1, o), (2, node), (1, port)]

/-- Whether a port's link may carry traffic (R363). -/
def State.portAdmitted (s : State) (f : FieldId) (n : PortId) : Bool :=
  let o := s.freg f Reg.RTE_DISC_STATUS.OUTCOME n
  decide (o = dMatch) || decide (o = dSwapSame) || (s.port f n).approved.isSome

/-- Whether the package boots host-stepped (R549). -/
def State.hostStepped (s : State) : Bool := decide (s.hreg Reg.SEED_STRAPS.STEP = 1)

/-- Whether the warm fast path is in use (R568). -/
def State.fastPath (s : State) : Bool := decide (s.hreg Reg.SEED_STAGE.FAST_PATH = 1)

/-- Lane maps are built from pass masks (R341): slots on the passing wavelengths in ascending order. -/
def passMap (mask : Nat) : List Nat × Nat :=
  let ws := ((List.range 16).filter (bit mask)).take 15
  (ws ++ List.replicate (15 - ws.length) noWave, (2 ^ 15 - 1) - (2 ^ ws.length - 1))

/-- The results of QUALIFY are recorded (R353). -/
def State.qualRecord (s : State) (f : FieldId) (n : PortId) (far : Nat) : State :=
  let P := s.port f n
  let worst := (List.range 16).foldl (fun b w => if SMap.get P.qualE 0 b < SMap.get P.qualE 0 w then w else b) 0
  let s1 := (s.fset f Reg.RTE_QUAL_RESULT.RX_PASS P.qualPass n).fset f Reg.RTE_QUAL_RESULT.TX_PASS far n
  (s1.fset f Reg.RTE_QUAL_RESULT.WORST worst n).fset f Reg.RTE_QUAL_RESULT.WORST_E
    (min (SMap.get P.qualE 0 worst) (2 ^ 28 - 1)) n

/-- QUALIFY ends once both ends have their results (R341). -/
def State.qualDecide (s : State) (f : FieldId) (n : PortId) : State :=
  let P := s.port f n
  match P.farPass with
  | none => s
  | some far =>
    if P.qualDone ≠ 0xFFFF ∨ s.link f n ≠ lsQualify then s
    else
      let s0 := s.qualRecord f n far
      if popcount 16 P.qualPass < 8 ∨ popcount 16 far < 8 then s0.linkSet f n lsFailed St.LINK_QUALIFY_FAILED
      else
        let (tm, tout) := passMap far
        let (rm, rout) := passMap P.qualPass
        let s1 := (s0.setTx f n { P.tx with map := tm, out := tout, fallow := 15, cal := none }).setRx f n
          { P.rx with map := rm, out := rout, fallow := 15, cal := none }
        let s2 := s1.updPort f n (fun P => { P with code := { P.code with map := tm, out := tout } })
        ((s2.laneCheck f n false 15).laneCheck f n true 15).linkReady f n

/-- The end of qualification of every receive wavelength is reported (R340). -/
def State.qualReport (s : State) (f : FieldId) (n : PortId) : State :=
  (s.laneSend f n lmQual (s.port f n).qualPass).qualDecide f n

/-- The link enters QUALIFY (R339): both directions run in L256 on all sixteen wavelengths. It is passed through where
QUAL_SKIP is honoured (R341). -/
def State.linkQualify (s : State) (f : FieldId) (n : PortId) : State :=
  let s0 := (s.fset f Reg.HDL_PORT_STATUS.TX_MODE 0 n).fset f Reg.HDL_PORT_STATUS.RX_MODE 0 n
  let s1 := (s0.updPort f n (fun P => { P with
    qualDone := 0, qualPass := 0, qualN := [], qualE := [], qualU := [], farPass := none })).linkSet f n lsQualify St.OK
  if s1.hostStepped ∧ s1.freg f Reg.RTE_LINK_CTL.QUAL_SKIP n = 1 then
    (s1.updPort f n (fun P => { P with qualDone := 0xFFFF, qualPass := P.lock })).qualReport f n
  else s1

/-- A link that discovery admits, or the fabric manager approves, goes on (R336, R338, R345). -/
def State.linkAdmit (s : State) (f : FieldId) (n : PortId) : State :=
  if s.link f n = lsRetrain ∨ s.fastPath then s.linkReady f n else s.linkQualify f n

/-- An accepted beacon is handed to discovery (R338, R362, R364, R365). -/
def State.beaconAccept (s : State) (f : FieldId) (n : PortId) (b : BeaconId) : State :=
  let P := s.port f n
  let s0 := s.updPort f n (fun Q => { Q with
    seen := some b,
    approved := if P.approved = some b then P.approved else none,
    farPort := if P.seen = some b then P.farPort else none })
  let s1 := ((s0.fset f Reg.RTE_DISC_STATUS.SEEN_NODE b.node n).fset f Reg.RTE_DISC_STATUS.SEEN_PORT b.port n).fset f
    Reg.RTE_DISC_STATUS.SEEN_SERIAL b.serial n
  let o := s1.discover f n b
  let s2 := s1.setOutcome f n o b.node b.port
  let s3 := if o = dSwapSame then s2.updPort f n (fun Q => { Q with farPort := some b.port }) else s2
  let ok := s3.portAdmitted f n
  let st := s3.link f n
  if st = lsBeacon ∨ (st = lsHeld ∧ (s.field f).hubLost = false) then
    if ok then s3.linkAdmit f n else s3.linkSet f n lsHeld St.LINK_HELD
  else if st = lsRetrain then
    if P.admitted = some b then s3.linkReady f n
    else ((s3.linkDown f n).updPort f n (fun Q => { Q with accepted := [] })).linkSet f n lsBeacon St.OK
  else if st = lsActive ∧ P.admitted ≠ some b then
    ((s3.linkDown f n).updPort f n (fun Q => { Q with accepted := [], parts := [], whole := [] })).linkSet f n lsBeacon St.OK
  else s3

end Sys2Proof.Machine
end

