-- ==== Sys2Proof/Machine/LightOps.lean ====
section
/-! DEFINITION. Operations of the light that its rows share (R263 to R295): engines and modules,
switchovers, the light sequence, and the host port's lanes (R595 to R599). -/

namespace Sys2Proof.Machine

open Sys2Proof

def State.updLight (s : State) (g : LightUnit → LightUnit) : State :=
  s.updHub (fun H => { H with light := g H.light })

/-- A command to a module on the light port's bus; none before the host-light step that follows a cold reset (R290). -/
def State.i3cSend (s : State) (m code value : Nat) : State := if s.hub.light.awake then s.emit (.i3c m code value) else s

/-! ### The host port (R595 to R599) -/

def hpDark : Nat := 0
def hpTraining : Nat := 1
def hpL0 : Nat := 2
def hpL1 : Nat := 3
def hpRecovery : Nat := 4
def hpDown : Nat := 5

/-- Port number events give the host port: the first past the optical ports. -/
def hostPortNo : Nat := 64

def State.hostLink (s : State) : Nat := s.hreg Reg.HUB_HOST_PHY_STATUS.STATE

/-- In-service wavelengths of the host port (R597). -/
def State.hostLanes (s : State) : Nat := 8 - popcount 8 s.hub.hostTx.out

/-- WIDTH for the wavelengths in service (R597, R621). -/
def hostWidth (lanes : Nat) : Nat := if 8 ≤ lanes then 2 else if 4 ≤ lanes then 1 else 0

/-- The host link's STATE changes, with its event (R599, R629). TLPs held for a pass through Recovery are gone with the link. -/
def State.hostSet (s : State) (new : Nat) (injected : Bool := false) : State :=
  let old := s.hostLink
  let w := if new = hpL0 ∨ new = hpL1 ∨ new = hpRecovery then hostWidth s.hostLanes else 0
  let s0 := if new = hpDown ∨ new = hpDark then s.updHub (fun H => { H with host := { H.host with held := [] } }) else s
  let s1 := s0.hset Reg.HUB_HOST_PHY_STATUS.WIDTH w
  if old = new then s1
  else (s1.hset Reg.HUB_HOST_PHY_STATUS.STATE new).raiseHub Ev.HUB_HOST_LINK
    [(1, old), (1, new), (1, w), (2, s.hub.hostTx.failed)] injected

/-- A pass through Recovery begins, or the link goes down for want of wavelengths (R597). -/
def State.hostRecover (s : State) (injected : Bool := false) : State :=
  if s.hostLink = hpL0 ∨ s.hostLink = hpL1 then
    if s.hostLanes < 4 then s.hostSet hpDown injected
    else (s.hcount Reg.HUB_HOST_PHY_STATUS.RECOVERIES).hostSet hpRecovery injected
  else if s.hostLink = hpRecovery ∧ s.hostLanes < 4 then s.hostSet hpDown injected
  else s

def State.setHostTx (s : State) (d : LaneTx) : State := s.updHub (fun H => { H with hostTx := d })

/-- The host port's map as the NQ-HB6 is told it. -/
def LaneTx.told (d : LaneTx) : List Nat := (List.range d.map.length).map (fun k => if bit d.out k then 0xF else nth d.map k)

/-- A link that went down for want of wavelengths trains again once enough are back (R596, R597). DESIGN CHOICE (log entry 44):
the spec gives no time for it; it is as the wavelength returns. -/
def State.hostReturn (s : State) : State :=
  if s.hostLink = hpDown ∧ 4 ≤ s.hostLanes ∧ s.hub.light.hostOpen = true then s.hostSet hpTraining else s

/-- What a decision about the host's lanes leads to: each change of the map makes a pass, in which the NQ-HB6 is told the new
map; with 4 to 7 wavelengths slots 0 to 3 are those carried (R597). DESIGN CHOICE (log entry 44): a change during a pass is told
in that pass. -/
def State.hostActs (s : State) (acts : List LaneAct) (injected : Bool := false) : State :=
  if acts.any (fun a => match a with | .msg _ _ => false | _ => true) then
    let s1 := ((s.setHostTx s.hub.hostTx.pack).hostRecover injected).hostReturn
    if s1.hostLink = hpRecovery then s1.emit (.hostMap s1.hub.hostTx.told) else s1
  else s

/-- A wavelength of the host port fails (R275, R276, R597). -/
def State.hostFail (s : State) (rx : Bool) (w reason : Nat) (inj : Bool := false) : State :=
  let d := s.hub.hostTx
  if bit d.failed w ∨ 9 ≤ w then s
  else
    let (d1, acts, _) := d.fail w
    ((s.setHostTx d1).raiseHub Ev.HDL_LANE_FAILED [(1, hostPortNo), (1, b2n rx), (1, w), (1, reason)] inj).hostActs acts inj

/-- The host link is without light. -/
def State.hostDarken (s : State) (injected : Bool := false) : State :=
  if s.hostLink = hpDark then s else s.hostSet hpDark injected

/-! ### Engines (R264, R301): 0 to 15 of the headland, 16 of the host -/

/-- Field and place in the field of a headland engine. -/
def engField (e : Nat) : FieldId := (BitVec.ofNat 2 (e / 4)).toFin

/-- A field of an engine's status byte. -/
def State.engGet (s : State) (e : Nat) (kf kh : RegField) : Nat :=
  if e < 16 then s.freg (engField e) kf 0 (e % 4) else s.hreg kh
def State.engSet (s : State) (e : Nat) (kf kh : RegField) (v : Nat) : State :=
  if e < 16 then s.fset (engField e) kf v 0 (e % 4) else s.hset kh v

def State.engSrc (s : State) (e : Nat) : Nat := s.engGet e Reg.HDL_ENGINE_STATUS.SRC Reg.HDL_HOST_ENGINE.SRC
def State.engSetSrc (s : State) (e v : Nat) : State := s.engSet e Reg.HDL_ENGINE_STATUS.SRC Reg.HDL_HOST_ENGINE.SRC v
def State.engIsDark (s : State) (e : Nat) : Bool :=
  decide (s.engGet e Reg.HDL_ENGINE_STATUS.DARK Reg.HDL_HOST_ENGINE.DARK = 1)

/-- Whether the inlet of module m passed its probe and is lit. -/
def State.inletOk (s : State) (e m : Nat) : Bool :=
  decide ((if m = 0 then s.engGet e Reg.HDL_ENGINE_STATUS.INLET_A_OK Reg.HDL_HOST_ENGINE.INLET_A_OK
    else s.engGet e Reg.HDL_ENGINE_STATUS.INLET_B_OK Reg.HDL_HOST_ENGINE.INLET_B_OK) = 1)
def State.setInlet (s : State) (e m : Nat) (ok : Bool) : State :=
  if m = 0 then s.engSet e Reg.HDL_ENGINE_STATUS.INLET_A_OK Reg.HDL_HOST_ENGINE.INLET_A_OK (b2n ok)
  else s.engSet e Reg.HDL_ENGINE_STATUS.INLET_B_OK Reg.HDL_HOST_ENGINE.INLET_B_OK (b2n ok)

/-- The ports of a headland engine (R23). -/
def engPorts (e : Nat) : List (FieldId × PortId) :=
  if e < 16 then (List.range 4).map (fun k => portAt (4 * e + k)) else []

/-- All headland engines and the host engine. -/
def allEngines : List Nat := List.range 17

/-- An engine goes DARK (R291 to R293): its shutters are at PROBE and its links are held or down. -/
def State.engDarken (s : State) (e : Nat) (injected : Bool := false) : State :=
  let s1 := s.engSet e Reg.HDL_ENGINE_STATUS.DARK Reg.HDL_HOST_ENGINE.DARK 1
  let s2 := s1.engSet e Reg.HDL_ENGINE_STATUS.SWITCHING Reg.HDL_HOST_ENGINE.SWITCHING 0
  if e < 16 then
    (engPorts e).foldl (fun t (f, n) =>
      (t.updPort f n (fun P => { P with shutter := false, stop := .none, waiting := [] })).linkDarken f n injected) s2
  else (s2.updLight (fun L => { L with hostOpen := false })).hostDarken injected

/-- A port's shutter opens: it is no longer held at PROBE (R291, R294, R304). -/
def State.shutterOpen (s : State) (f : FieldId) (n : PortId) : State :=
  let s1 := s.updPort f n (fun P => { P with shutter := true })
  if s.freg f Reg.HDL_PORT_STATUS.APR n = 0 then s1
  else (s1.fset f Reg.HDL_PORT_STATUS.APR 0 n).raise f Ev.HDL_APR [(1, portNo f n), (1, 1)]

/-- An engine has light: its shutters open and its links may train (R291, R336). Its ports are of a field's rim, and dark
where that rim is out of service (R27). -/
def State.engLight (s : State) (e src : Nat) : State :=
  let s1 := ((s.engSetSrc e src).engSet e Reg.HDL_ENGINE_STATUS.DARK Reg.HDL_HOST_ENGINE.DARK 0).updLight (fun L =>
    { L with injDark := setBit L.injDark e false })
  if e < 16 then
    if s.svc (engField e) = svcDark then s
    else (engPorts e).foldl (fun t (f, n) => ((t.shutterOpen f n).linkStart f n).linkLocked f n) s1
  else
    let s2 := s1.updLight (fun L => { L with hostOpen := true, hostApr := false })
    (if s.hub.light.hostApr then s2.raiseHub Ev.HDL_APR [(1, hostPortNo), (1, 1)] else s2).hostSet hpTraining

/-- Every wavelength of an engine's transmit directions is calibrated, in ascending order (R271, R291, R600). -/
def State.engCalibrate (s : State) (e : Nat) : State :=
  if e < 16 then
    (engPorts e).foldl (fun t (f, n) => t.updPort f n (fun P => { P with tx := { P.tx with order := List.range 16 } })) s
  else s.setHostTx { s.hub.hostTx with order := List.range 9 }

/-- Whether no rim in service hears the hub: bias control, module polling and the hub's answers to lost light have stopped
(R295). -/
def State.hubGone (s : State) : Bool :=
  allFields.all (fun f => decide (s.svc f = svcDark) || (s.field f).hubLost) &&
    allFields.any (fun f => decide (s.svc f ≠ svcDark))

/-- Whether an engine's field is in hub-lost operation; the host engine follows the hub (R295). -/
def State.engHubLost (s : State) (e : Nat) : Bool := if e < 16 then (s.field (engField e)).hubLost else s.hubGone

/-! ### Modules (R288) -/

def i3cOutputMask : Nat := 0x10
def i3cProbe : Nat := 0x11
def i3cFullOn : Nat := 0x12
def i3cOff : Nat := 0x13
def i3cBiasSet : Nat := 0x20
def i3cIdent : Nat := 0x01
def i3cStatus : Nat := 0x02
def i3cBiasRead : Nat := 0x21

/-- STATE of the light (R299). -/
def ltOff : Nat := 0
def ltProbing : Nat := 1
def ltRamping : Nat := 2
def ltOn : Nat := 3
def ltInterlock : Nat := 4
def ltFault : Nat := 5

/-- The light's STATE changes, with its event (R297). -/
def State.lightSet (s : State) (new : Nat) : State :=
  let old := s.hreg Reg.HDL_LIGHT_STATUS.STATE
  if old = new then s
  else (s.hset Reg.HDL_LIGHT_STATUS.STATE new).raiseHub Ev.HDL_LIGHT_STATE
    [(1, old), (1, new), (2, s.hreg Reg.HDL_LIGHT_STATUS.RESULT)]

/-- The light sequence ends with a result and a STATE. -/
def State.lightEnd (s : State) (result state : Nat) : State :=
  (s.hset Reg.HDL_LIGHT_STATUS.RESULT result).lightSet state

/-- Whether module m's output n is on at full power. -/
def State.outputOn (s : State) (m n : Nat) : Bool := bit (s.hreg Reg.HDL_MODULE.OUTPUT_ON m) n

/-- A module reports a fault, or does not answer three times (R289). -/
def State.moduleFault (s : State) (m faults : Nat) (inj : Bool) : State :=
  if s.hreg Reg.HDL_MODULE.FAULT m = 1 then s
  else
    let s1 := (s.raiseHub Ev.HDL_MODULE_FAULT [(1, m), (1, faults)] inj).hset Reg.HDL_MODULE.FAULT 1 m
    if s1.hreg Reg.HDL_LIGHT_CTL.SWITCH_AUTO = 0 then s1
    else s1.updLight (fun L => { L with
      queue := L.queue.filter (fun r => !(r.auto && decide (s1.engSrc r.engine = m))) ++
        (allEngines.filter (fun e => !s1.engIsDark e && decide (s1.engSrc e = m))).map
          (fun e => ⟨e, 1 - m, false, true, true, inj, false⟩) })

/-! ### Margins (R280) -/

/-- Receiver sensitivity of a mode, in steps of 0.125 dBm (R265). -/
def sensitivity (mode : Nat) : Int :=
  match mode with
  | 0 => -72
  | 1 => -84
  | _ => -120

/-- The smallest of some margins. -/
def minMargin (l : List Int) : Option Int := l.foldl (fun a x => match a with | none => some x | some y => some (min x y)) none

/-- Lane margins of a port whose link is up. -/
def State.laneMargins (s : State) (f : FieldId) (n : PortId) : List Int :=
  if s.link f n ≠ lsActive then []
  else
    let d := (s.port f n).tx
    ((slotsIn 15 d.out).map (fun k => s.freg f Reg.HDL_LANE_POWER.FAR_PWR n (nth d.map k))).filterMap (fun c =>
      if c = 0x80 then none else some (toSigned 8 c - sensitivity (s.freg f Reg.HDL_PORT_STATUS.TX_MODE n)))

/-- An engine's margin. -/
def State.engineMargin (s : State) (e : Nat) : Option Int :=
  minMargin ((engPorts e).flatMap (fun (f, n) => s.laneMargins f n))

/-- A module's margin, from the inlet readings of the engines. -/
def State.moduleMargin (s : State) (m : Nat) (pa pb : List Int) : Option Int :=
  minMargin ((List.range 16).filterMap (fun e =>
    if s.inletOk e m then
      (s.engineMargin e).map (fun g =>
        if s.engSrc e = m then g
        else
          let a := pa.getD e 0
          let b := pb.getD e 0
          if m = 0 then g + a - b else g + b - a)
    else none))

/-- MARGIN as a register shows it: kept within its 8 bits, 0x80 unknown. -/
def marginCode : Option Int → Nat
  | none => 0x80
  | some g => ofSigned 8 (clampInt g (-127) 127)

/-! ### Switchovers (R282 to R286) -/

/-- Whether the conditions under which a queued switchover is carried out hold (R282, R286). -/
def State.switchOk (s : State) (r : SwReq) : Bool :=
  let y := r.target
  let x := 1 - y
  let fade := s.hreg Reg.HDL_MODULE.FADE y
  let mx := s.hreg Reg.HDL_MODULE.MARGIN x
  let my := s.hreg Reg.HDL_MODULE.MARGIN y
  let better := mx ≠ 0x80 && my ≠ 0x80 && decide (toSigned 8 mx + 8 ≤ toSigned 8 my)
  let L := s.hub.light
  let left := SMap.get L.leftAt 0 y
  let settled := left = 0 || decide (left - 1 + 60000 * oneMs < s.now) ||
    (fade = 0 && decide (SMap.get L.normalSince 0 y + 60000 * oneMs ≤ s.now))
  s.inletOk r.engine y &&
    (!r.auto || (s.outputOn y r.engine && (fade = 0 || (r.critical && better)) && settled))

/-- The REQ and NOW bits of an engine clear when its switchover runs or is refused (R302). -/
def State.switchTaken (s : State) (r : SwReq) : State :=
  if r.engine < 16 && !r.auto then
    s.fset (engField r.engine) (if r.atMark then Reg.HDL_ENGINE_CTL.REQ else Reg.HDL_ENGINE_CTL.NOW) 0 0 (r.engine % 4)
  else s

/-- EV_HDL_SWITCHOVER: of the engine's field, or of the hub for the host engine (R694). -/
def State.switchEvent (s : State) (r : SwReq) (old micros outcome : Nat) : State :=
  let items := [(1, r.engine), (1, old), (1, r.target), (2, micros), (1, outcome)]
  if r.engine < 16 then s.raise (engField r.engine) Ev.HDL_SWITCHOVER items r.injected
  else s.raiseHub Ev.HDL_SWITCHOVER items r.injected

/-- A port's slot in progress is aborted and counted (R276, R284). -/
def State.calAbort (s : State) (f : FieldId) (n : PortId) : State :=
  let d := (s.port f n).tx
  if d.cal.isNone then s
  else
    let (d1, acts) := d.abort
    ((s.setTx f n d1).fcount f Reg.HDL_CAL_STAT.ABORTED).laneActs f n acts

/-- The host port's slot in progress is aborted (R276, R284, R597). -/
def State.hostCalAbort (s : State) : State :=
  let (d, acts) := s.hub.hostTx.abort
  if s.hub.hostTx.cal.isNone then s else (s.setHostTx d).hostActs acts

/-- The light pause of a port begins (R283, R321). -/
def State.pauseBegin (s : State) (f : FieldId) (n : PortId) : State :=
  let s1 := (((s.calAbort f n).laneSend f n lmLightPause 1).flitsCut f n).emit (.flitStop f n)
  s1.updPort f n (fun P => { P with stop := .pause })

/-- The light pause of a port ends: IDLE groups for 2 µs, then LIGHT_PAUSE end in its turn among the messages that waited
(R317, R321). -/
def State.pauseEnd (s : State) (f : FieldId) (n : PortId) : State :=
  if (s.port f n).stop ≠ .pause then s
  else ((s.idleFor f n 2000).updPort f n (fun P => { P with waiting := P.waiting ++ [(lmLightPause, 0)] })).txResume f n

/-- Once the last engine of a run has ended its pause, or its switchover was refused, the run is over (R284). -/
def LightUnit.runOver (L : LightUnit) : LightUnit :=
  if L.run = [] ∧ L.active = none then { L with runEngines := [] } else L

/-- Whether the transmitters of an engine can announce a pause: none is silent while its rings re-lock for a mode (R319,
R321). -/
def State.canAnnounce (s : State) (e : Nat) : Bool := (engPorts e).all (fun (f, n) => decide ((s.port f n).stop ≠ .relock))

/-- The switch of an engine selects the other inlet (R264, R283). -/
def State.switchBegin (s : State) (r : SwReq) : State :=
  let old := s.engSrc r.engine
  let s1 := (engPorts r.engine).foldl (fun t (f, n) => t.pauseBegin f n) s
  let s2 := s1.engSet r.engine Reg.HDL_ENGINE_STATUS.SWITCHING Reg.HDL_HOST_ENGINE.SWITCHING 1
  let s3 := (s2.engSetSrc r.engine r.target).updLight (fun L => { L with
    active := some r, oldSrc := old,
    leftAt := if old = r.target then L.leftAt else SMap.insert L.leftAt old (s.now + 1) })
  if r.engine < 16 then s3 else (s3.hostCalAbort.hset Reg.HUB_HOST_PHY_STATUS.PAUSE 1).hostRecover

/-- The engine in pause has re-locked (R283). Of wavelengths that did not, those of a port fail in the order of their slots: they
are learned of at one group (R675). -/
def State.switchEnd (s : State) (r : SwReq) (micros : Nat) (lost : List (Nat × Nat)) : State :=
  let s1 := s.engSet r.engine Reg.HDL_ENGINE_STATUS.SWITCHING Reg.HDL_HOST_ENGINE.SWITCHING 0
  let s2 := (engPorts r.engine).foldl (fun t (f, n) => t.pauseEnd f n) (s1.updLight (fun L => { L with active := none }.runOver))
  let s3 := s2.switchEvent r s.hub.light.oldSrc micros 0
  if r.engine < 16 then
    (List.range 4).foldl (fun (t : State) k =>
      let (f, n) := portAt (4 * r.engine + k)
      let ws := (lost.filter (fun x => decide (x.1 % 4 = k))).map (fun x => x.2 % 16)
      ((t.port f n).tx.bySlot ws).foldl (fun (u : State) w => u.txFail f n w 3) t) s3
  else
    let s4 := (s.hub.hostTx.bySlot (lost.map (fun x => x.2 % 9))).foldl (fun (t : State) w => t.hostFail false w 3)
      (s3.hset Reg.HUB_HOST_PHY_STATUS.PAUSE 0)
    if s4.hostLink = hpRecovery then s4.hostSet hpL0 else s4

/-! ### The light sequence (R291) -/

/-- Whether a module answered IDENT with role m (R288): light A is role 0, light B role 1. -/
def hasRole (ident : List (Option Nat)) (m : Nat) : Bool := ident.contains (some m)

/-- Why the answers to IDENT end the sequence (R291). -/
def identResult (ident : List (Option Nat)) : Option Nat :=
  if ident.length < 2 || ident.contains none then some St.MODULE_ABSENT
  else if hasRole ident 0 && hasRole ident 1 then none
  else some St.MODULE_ROLE

/-- IDENT is read from both modules, at their places on the bus; PRESENT shows the roles that answered (R288, R300). -/
def State.identRead (s : State) (ident : List (Option Nat)) : State :=
  [0, 1].foldl (fun t m => (t.emit (.i3c m i3cIdent 0)).hset Reg.HDL_MODULE.PRESENT (b2n (hasRole ident m)) m) s

/-- Whether an output passes its probe: its own inlet at −6.0 dBm or more, every other inlet that the
host-light step has not lit below −20.0 dBm. `lit`: inlets already lit. -/
def probePass (readings : List (List (List Int))) (lit : List Nat) (m n : Nat) : Bool :=
  let r := (readings.getD m []).getD n []
  let dark : Int := -1000
  decide (-48 ≤ r.getD (2 * n + m) dark) &&
    (List.range 34).all (fun i => i = 2 * n + m || lit.contains i || decide (r.getD i dark < -160))

/-- Outputs a module's probe covers, and the mask of those that pass. -/
def State.probeMask (s : State) (env : LightEnv) (m : Nat) : Nat :=
  let lit := ([0, 1].filter (fun m => s.outputOn m 16)).map (fun m => 32 + m)
  (List.range 17).foldl (fun acc n =>
    if n = 16 && s.outputOn m 16 then acc + 2 ^ 16
    else if probePass env.readings lit m n then acc + 2 ^ n else acc) 0

/-- Step 3: the probe of a module's outputs in turn. -/
def State.probeSend (s : State) (m : Nat) : State :=
  (List.range 17).foldl (fun t n => if n = 16 && s.outputOn m 16 then t else t.emit (.i3c m i3cProbe (2 ^ n))) s

/-- Step 4: a module's passing outputs at full power. -/
def State.fullOn (s : State) (m mask : Nat) : State :=
  (((s.emit (.i3c m i3cOutputMask mask)).emit (.i3c m i3cFullOn 0)).hset Reg.HDL_MODULE.OUTPUT_ON mask m).hset
    Reg.HDL_MODULE.PROBE_FAIL (0x1FFFF - mask) m

/-- Steps 5 and 6, an engine's light after the probe: the lower-lettered module that passed; a host engine that was lit
keeps its source. On the warm fast path the rings lock from kept heater values and nothing is calibrated anew. -/
def State.engProbed (s : State) (e : Nat) (wasLit : Bool) (maskA maskB : Nat) : State :=
  let a := bit maskA e
  let b := bit maskB e
  let s1 := (s.setInlet e 0 a).setInlet e 1 b
  let s2 := if (a || b) && !wasLit && decide (s.hreg Reg.SEED_STAGE.FAST_PATH = 0) then s1.engCalibrate e else s1
  if wasLit then s2
  else if a then s2.engLight e 0
  else if b then s2.engLight e 1
  else s2.engDarken e

/-- Steps 2 to 6 of R291. DESIGN CHOICE (log entry 44): FAULT of R289 clears at each run of the sequence. -/
def State.lightSteps (s : State) (env : LightEnv) : State :=
  let s1 := ((s.lightSet ltProbing).identRead env.ident)
  match identResult env.ident with
  | some code => s1.lightEnd code ltFault
  | none =>
    let s2 := [0, 1].foldl (fun t m => t.hset Reg.HDL_MODULE.FAULT 0 m) s1
    if env.faults.any (fun b => b % 256 ≠ 0) then
      ([0, 1].foldl (fun t m => if nth env.faults m % 256 = 0 then t else t.moduleFault m (nth env.faults m % 256) false) s2).lightEnd
        St.MODULE_FAULT ltFault
    else
      let ma := s2.probeMask env 0
      let mb := s2.probeMask env 1
      let hostLit := !s2.engIsDark 16
      let s3 := ((((s2.probeSend 0).probeSend 1).fullOn 0 ma).fullOn 1 mb).lightSet ltRamping
      let s4 := allEngines.foldl (fun t e => t.engProbed e (hostLit && e = 16) ma mb) s3
      if allEngines.all (fun e => s4.engIsDark e) then s4.lightEnd St.LIGHT_DARK ltFault
      else if ma = 0x1FFFF ∧ mb = 0x1FFFF then s4.lightEnd St.OK ltOn
      else (s4.raiseHub Ev.HDL_PROBE_FAILED [(4, 0x1FFFF - ma), (4, 0x1FFFF - mb)]).lightEnd St.PROBE_FAILED ltOn

/-- Engines go DARK, and the modules' outputs are off. A queued switchover stays queued, to be refused in its turn: no inlet
is lit (R282, R302). -/
def State.darkAll (s : State) (es : List Nat) : State :=
  let s1 := es.foldl (fun t e => ((t.setInlet e 0 false).setInlet e 1 false).engDarken e) s
  ((s1.hset Reg.HDL_MODULE.OUTPUT_ON 0 0).hset Reg.HDL_MODULE.OUTPUT_ON 0 1).updLight (fun L =>
    { L with active := none }.runOver)
def State.allDark (s : State) : State := s.darkAll allEngines

/-- The light sequence (R291, R631). -/
def State.lightSequence (s : State) (env : LightEnv) : State :=
  let s0 := s.updLight (fun L => { L with laserEn := env.laserEn })
  if !env.pgoodOpt then s0.allDark.lightEnd St.OPT_POWER ltFault
  else if !env.laserEn then s0.lightEnd St.LASER_INTERLOCK ltInterlock
  else s0.lightSteps env

end Sys2Proof.Machine
end

