-- ==== Sys2Proof/Machine/Optics.lean ====
section
/-! DEFINITION. Headland optics (R262 to R308): calibration slots, failed lanes and retries, power and
margins, switchovers, modules, eye safety. A port operand `none` is the host port (R597). -/

namespace Sys2Proof.Machine

open Sys2Proof

/-! ### Calibration (R271 to R274, R284) -/

/-- Whether an engine takes part in a switchover run under way (R284). Switchovers of a field in hub-lost operation have stopped,
and its calibration continues (R295). -/
def State.inRun (s : State) (e : Nat) : Bool := s.hub.light.runEngines.contains e && !s.engHubLost e

/-- What a port does, where the rim it belongs to is not DARK (R27); `none` is the host port. -/
def State.inPort (s : State) (port : Option (FieldId × PortId)) (r : Result) : Result :=
  match port with
  | some (f, _) => s.inRim f r
  | none => r

/-- Whether a calibration slot may start on a port; none starts while a mode change waits (R676). -/
def State.calAllowed (s : State) (f : FieldId) (n : PortId) : Bool :=
  decide (s.txModeWanted f n = s.freg f Reg.HDL_PORT_STATUS.TX_MODE n) &&
  decide (s.freg f Reg.HDL_CAL_CTL.ENABLE = 1) && decide (s.freg f Reg.HDL_PORT_CTL.CAL_EN n = 1) &&
    s.portLit f n && (s.port f n).tx.cal.isNone && decide (s.link f n ≠ lsQualify) &&
    decide ((s.port f n).stop = .none) && !s.inRun (portNo f n / 4)

/-- Whether a calibration slot may start on the host port. -/
def State.hostCalAllowed (s : State) : Bool :=
  decide (s.hreg Reg.HUB_HOST_PHY_CTL.CAL_EN = 1) && s.hub.light.hostOpen && s.hub.hostTx.cal.isNone && !s.inRun 16

/-- A calibration slot starts on a port. -/
def State.calSlotStart (s : State) (f : FieldId) (n : PortId) : Result :=
  if s.calAllowed f n then
    match (s.port f n).tx.calStart with
    | none => .next s
    | some (d, acts, w, degraded, first) =>
      let before := s.txLanes f n
      let s1 := (s.setTx f n d).laneActs f n acts
      let s2 := if degraded then s1.fcount f Reg.HDL_CAL_STAT.DEGRADED else s1
      let s3 := if first then s2.raise f Ev.HDL_CAL_DEGRADED [(1, portNo f n), (1, w)] else s2
      finish (s3.laneCheck f n false before)
  else .next s

/-- A calibration slot starts on the host port. -/
def State.hostCalSlotStart (s : State) : Result :=
  if s.hostCalAllowed then
    match s.hub.hostTx.calStart with
    | none => .next s
    | some (d, acts, _, _, _) => finish ((s.setHostTx d).hostActs acts)
  else .next s

/-- CAL_SLOT_START (R271, R274). -/
def execCalSlotStart (port : Option (FieldId × PortId)) (s : State) : Result := s.inPort port <|
  match port with
  | some (f, n) => s.calSlotStart f n
  | none => s.hostCalSlotStart

/-- A port's slot ends with lock confirmed (R271): not a retry. -/
def State.calDone (s : State) (f : FieldId) (n : PortId) : State :=
  match (s.port f n).tx.cal with
  | none => s
  | some c =>
    if c.retry then s
    else
      let (d, acts) := (s.port f n).tx.calFinish
      (((s.setTx f n d).fwrap f Reg.HDL_CAL_STAT.SLOTS).laneActs f n acts).txModeUpdate f n

/-- A slot of a port ends with lock. -/
def State.calSlotEnd (s : State) (f : FieldId) (n : PortId) (rx : Bool) : Result :=
  if rx then
    match (s.port f n).rx.cal with
    | none => .next s
    | some w => finish (s.laneSend f n lmCalDone (w + 2 ^ 8))
  else finish (s.calDone f n)

/-- A slot of the host port ends with lock. -/
def State.hostCalSlotEnd (s : State) : Result :=
  match s.hub.hostTx.cal with
  | some c =>
    if c.retry then .next s
    else
      let (d, acts) := s.hub.hostTx.calFinish
      finish ((s.setHostTx d).hostActs acts)
  | none => .next s

/-- CAL_SLOT_END (R272): at the receiver lock is confirmed and reported; at the transmitter the slot
ends. -/
def execCalSlotEnd (port : Option (FieldId × PortId)) (rx : Bool) (s : State) : Result := s.inPort port <|
  match port with
  | some (f, n) => s.calSlotEnd f n rx
  | none => s.hostCalSlotEnd

/-- The retry of a wavelength ends at the transmitter (R278). -/
def State.retryDone (s : State) (f : FieldId) (n : PortId) (w : Nat) (pass : Bool) : State :=
  let (d, acts) := (s.port f n).tx.retryFinish w pass
  let s1 := s.setTx f n d
  let s2 :=
    if pass then (s1.fwrap f Reg.HDL_CAL_STAT.SLOTS).raise f Ev.HDL_LANE_RESTORED [(1, portNo f n), (1, 0), (1, w)]
    else s1
  (s2.laneActs f n acts).txModeUpdate f n

/-- A slot ends without lock (R273, R278). -/
def State.calFailed (s : State) (f : FieldId) (n : PortId) : State :=
  match (s.port f n).tx.cal with
  | none => s
  | some c => if c.retry then s.retryDone f n c.wave false else s.txFail f n c.wave 2

/-- A slot of a port ends without lock. -/
def State.calLockTimeout (s : State) (f : FieldId) (n : PortId) (rx : Bool) : Result :=
  if rx then
    match (s.port f n).rx.cal with
    | none => .next s
    | some w => finish (s.laneSend f n lmCalDone w)
  else finish (s.calFailed f n)

/-- A slot of the host port ends without lock. -/
def State.hostCalLockTimeout (s : State) : Result :=
  match s.hub.hostTx.cal with
  | none => .next s
  | some c =>
    if c.retry then finish ((s.setHostTx (s.hub.hostTx.retryFinish c.wave false).1).hostActs [])
    else finish (s.hostFail false c.wave 2)

/-- CAL_LOCK_TIMEOUT (R273). -/
def execCalLockTimeout (port : Option (FieldId × PortId)) (rx : Bool) (s : State) : Result := s.inPort port <|
  match port with
  | some (f, n) => s.calLockTimeout f n rx
  | none => s.hostCalLockTimeout

/-! ### Failed lanes (R275 to R278, R323) -/

/-- A wavelength of a port fails. -/
def State.wavelengthFail (s : State) (f : FieldId) (n : PortId) (rx : Bool) (w : Lambda) (reason : Fin 16) : Result :=
  if rx then
    let rule := decide (4 ≤ reason.val ∧ reason.val ≤ 6)
    if s.rxSuspended f n || (rule && ((s.port f n).rx.cal = some w.val || decide (s.link f n = lsQualify))) then .next s
    else finish (s.rxFail f n w reason)
  else finish (s.txFail f n w reason)

/-- A wavelength of the host port fails. -/
def State.hostWavelengthFail (s : State) (rx : Bool) (w : Lambda) (reason : Fin 16) : Result :=
  finish (s.hostFail rx w reason)

/-- WAVELENGTH_FAIL (R275, R276, R323): at the receiver not during a pause or a re-lock, nor by an error
rule on the wavelength under calibration or in QUALIFY. -/
def execWavelengthFail (port : Option (FieldId × PortId)) (rx : Bool) (w : Lambda) (reason : Fin 16) (s : State) : Result := s.inPort port <|
  match port with
  | some (f, n) => s.wavelengthFail f n rx w reason
  | none => s.hostWavelengthFail rx w reason

/-- Whether a failed wavelength may be retried (R278). -/
def LaneTx.mayRetry (d : LaneTx) (w : Nat) : Bool :=
  bit d.failed w && decide (SMap.get d.retries 0 w < 3) && decide (16 ≤ d.sinceRetry)

/-- A failed wavelength of a port is retried. -/
def State.laneRetry (s : State) (f : FieldId) (n : PortId) (w : Lambda) : Result :=
  if s.calAllowed f n && (s.port f n).tx.mayRetry w then
    let (d, acts) := (s.port f n).tx.retryStart w
    finish ((s.setTx f n d).laneActs f n acts)
  else .next s

/-- A failed wavelength of the host port is retried. -/
def State.hostLaneRetry (s : State) (w : Lambda) : Result :=
  if s.hostCalAllowed && s.hub.hostTx.mayRetry w then .next (s.setHostTx (s.hub.hostTx.retryStart w).1) else .next s

/-- LANE_RETRY (R278). -/
def execLaneRetry (port : Option (FieldId × PortId)) (w : Lambda) (s : State) : Result := s.inPort port <|
  match port with
  | some (f, n) => s.laneRetry f n w
  | none => s.hostLaneRetry w

/-- A retry of a port ends. -/
def State.laneRetryEnd (s : State) (f : FieldId) (n : PortId) (rx : Bool) (w : Lambda) (pass : Bool) : Result :=
  let isRetry := fun (d : LaneTx) => match d.cal with | some c => c.retry && decide (c.wave = w.val) | none => false
  if rx then
    let d := (s.port f n).rx
    if d.cal ≠ some w.val then .next s
    else if pass && bit d.failed w then
      let s1 := s.setRx f n { d with failed := setBit d.failed w false, reasons := SMap.erase d.reasons w }
      finish ((s1.raise f Ev.HDL_LANE_RESTORED [(1, portNo f n), (1, 1), (1, w.val)]).laneSend f n lmCalDone (w + 2 ^ 8))
    else finish (s.laneSend f n lmCalDone (w + b2n pass * 2 ^ 8))
  else if isRetry (s.port f n).tx then finish (s.retryDone f n w pass)
  else .next s

/-- A retry of the host port ends. -/
def State.hostLaneRetryEnd (s : State) (rx : Bool) (w : Lambda) (pass : Bool) : Result :=
  let isRetry := fun (d : LaneTx) => match d.cal with | some c => c.retry && decide (c.wave = w.val) | none => false
  if isRetry s.hub.hostTx then
    let (d, acts) := s.hub.hostTx.retryFinish w pass
    let s1 := s.setHostTx d
    let s2 := if pass then s1.raiseHub Ev.HDL_LANE_RESTORED [(1, hostPortNo), (1, b2n rx), (1, w.val)] else s1
    finish (s2.hostActs acts)
  else .next s

/-- LANE_RETRY_END (R278). -/
def execLaneRetryEnd (port : Option (FieldId × PortId)) (rx : Bool) (w : Lambda) (pass : Bool) (s : State) : Result := s.inPort port <|
  match port with
  | some (f, n) => s.laneRetryEnd f n rx w pass
  | none => s.hostLaneRetryEnd rx w pass

/-! ### Received power and margins (R279 to R282, R285) -/

/-- The mean of the measurements of a wavelength, in steps of 0.125 dBm; where it falls between two steps, one of them. The second
value says whether a free value chose. DESIGN CHOICE (log entry 44): a measurement coded 0x80, none, is left out of the mean. -/
def powerMean (ms : List Nat) (pick : Nat) : Nat × Bool :=
  let vs := (ms.filter (fun c => c ≠ 0x80)).map (toSigned 8)
  if vs = [] then (0x80, false)
  else
    let sum := vs.foldl (· + ·) 0
    let q := sum / (vs.length : Int)
    if sum % (vs.length : Int) = 0 then (ofSigned 8 q, false) else (ofSigned 8 (q + (pick % 2 : Nat)), true)

/-- RX_POWER_MEASURE (R279): sixteen measurements in the coding of the register. -/
def execRxPowerMeasure (f : FieldId) (n : PortId) (powers : List Nat) (s : State) : Result := s.inRim f <|
  let fires := s.injArmedAt f injLink 5 n
  let arg := s.injArg f injLink
  let read := (List.range 16).map (fun w =>
    if fires && decide (bits arg 0 4 = w) then bits arg 4 8 else powers.getD w 0x80 % 256)
  let s0 := if fires then (s.injFire f injLink).healthInput f true else s
  let hist := (read :: (s0.port f n).rx.power).take 10
  let s1 := s0.updPort f n (fun P => { P with rx := { P.rx with power := hist } })
  finish ((List.range 16).foldl (fun t w =>
    let (v, used) := powerMean (hist.map (fun r => nth r w)) (Config.freeValue t.free)
    (if used then t.draw.2 else t).fset f Reg.HDL_LANE_POWER.RX_PWR v n w) s1)

/-- POWER_REPORT (R279, R316). -/
def execPowerReport (f : FieldId) (n : PortId) (part : Fin 4) (powers : List Nat) (s : State) : Result := s.inRim f <|
  .next ((List.range 6).foldl (fun t i =>
    let w := 6 * part.val + i
    if w < 16 then t.fset f Reg.HDL_LANE_POWER.FAR_PWR (powers.getD i 0x80) n w else t) s)

/-- Fade state of a module with a margin and a bias (R282, R289). DESIGN CHOICE (log entry 44): a module with FAULT set is CRITICAL
itself, where R289 says so of the engines it feeds. -/
def fadeOf (margin : Option Int) (bias fault : Nat) : Nat :=
  if fault = 1 then 2
  else match margin with
    | some g => if g < 8 then 2 else if g < 16 ∨ 850 ≤ bias then 1 else 0
    | none => if 850 ≤ bias then 1 else 0

/-- One module's part of the evaluation. DESIGN CHOICE (log entry 44): EV_HDL_FADE and the queueing of engines follow a change to
WARNING or CRITICAL; they do not repeat at each evaluation while the state lasts. -/
def State.moduleEval (s : State) (m : Nat) (margin : Option Int) (inj : Bool) : State :=
  let bias := s.hreg Reg.HDL_MODULE.BIAS m
  let old := s.hreg Reg.HDL_MODULE.FADE m
  let new := fadeOf margin bias (s.hreg Reg.HDL_MODULE.FAULT m)
  let s1 := (s.hset Reg.HDL_MODULE.MARGIN (marginCode margin) m).hset Reg.HDL_MODULE.FADE new m
  let s2 := if new = 0 ∧ old ≠ 0 then s1.updLight (fun L => { L with normalSince := SMap.insert L.normalSince m s.now }) else s1
  let s3 :=
    if new = old ∨ new = 0 then s2
    else
      let t := s2.raiseHub Ev.HDL_FADE [(1, m), (1, new), (1, marginCode margin), (2, bias)] inj
      if t.hreg Reg.HDL_LIGHT_CTL.SWITCH_AUTO = 0 then t
      else t.updLight (fun L => { L with
        queue := L.queue.filter (fun r => !(r.auto && decide (t.engSrc r.engine = m))) ++
          (allEngines.filter (fun e => !t.engIsDark e && decide (t.engSrc e = m))).map
            (fun e => ⟨e, 1 - m, decide (new = 1), true, decide (new = 2), inj, false⟩) })
  match margin with
  | none => s3
  | some g =>
    let target : Int := s.hreg Reg.HDL_LIGHT_CTL.MARGIN_TARGET
    let last := SMap.get s3.hub.light.biasAt 0 m
    if s3.hubGone = false ∧ s3.hreg Reg.HDL_LIGHT_CTL.BIAS_AUTO = 1 ∧ g < target - 4 ∧ (last = 0 ∨ last - 1 + 1000 * oneMs ≤ s3.now) then
      (s3.updLight (fun L => { L with biasAt := SMap.insert L.biasAt m (s.now + 1) })).i3cSend m i3cBiasSet (min 1000 (bias + 10))
    else s3

/-- The fallback of every port still in L256 (R285); it aborts a calibration slot in progress (R676). -/
def State.fallbackAll (s : State) : State :=
  allFields.foldl (fun t f => (List.range 16).foldl (fun t k =>
    let n : PortId := (BitVec.ofNat 4 k).toFin
    if t.freg f Reg.HDL_PORT_STATUS.TX_MODE n = 0 ∧ (t.port f n).fallback = false then
      (((t.calAbort f n).updPort f n (fun P => { P with fallback := true })).txModeUpdate f n).raise f Ev.HDL_MODE_FALLBACK
        [(1, portNo f n), (1, 1)]
    else t) t) s

/-- MARGIN_EVAL (R280 to R282, R285), with the inlet monitor readings of the sixteen engines in steps of
0.125 dBm. -/
def execMarginEval (inletA inletB : List Int) (s : State) : Result :=
  let armed := decide (s.hreg Reg.INJ_HPT.ARM 1 = 1) && decide (s.hreg Reg.INJ_HPT.POINT 1 = 2)
  let drop : Int := bits (s.hreg Reg.INJ_HPT.ARG 1) 0 8
  let hit := fun (m : Nat) => armed && decide (s.hreg Reg.INJ_HPT.TARGET 1 = m)
  let s0 := if armed then (s.hset Reg.INJ_HPT.ARM 0 1).hset Reg.INJ_HPT.DONE 1 1 else s
  let lower := fun (m : Nat) (g : Option Int) => if hit m then g.map (fun x => x - drop) else g
  let ma := lower 0 (s0.moduleMargin 0 inletA inletB)
  let mb := lower 1 (s0.moduleMargin 1 inletA inletB)
  let s1 := ((s0.moduleEval 0 ma (hit 0)).moduleEval 1 mb (hit 1)).updLight (fun L => { L with
    injMargin := b2n (hit 0) + 2 * b2n (hit 1) })
  match ma, mb with
  | some a, some b =>
    if a < 4 ∧ b < 4 ∧ s1.hreg Reg.HDL_LIGHT_CTL.FALLBACK_AUTO = 1 then finish s1.fallbackAll else finish s1
  | _, _ => finish s1

/-- TX_MODE_REQ (R269, R285, R303): a write of 0b11 is ignored. -/
def execTxModeReq (f : FieldId) (n : PortId) (mode : Fin 4) (s : State) : Result := s.inRim f <|
  if mode.val = 3 then .next s
  else finish (((s.fset f Reg.HDL_PORT_CTL.TX_MODE_REQ mode n).updPort f n (fun P => { P with fallback := false })).txModeUpdate f n)

/-! ### Switchovers (R282 to R286) -/

/-- Queued switchovers begin: they run after those under way, in ascending engine index. -/
def State.switchRun (s : State) (mine : SwReq → Bool) : State :=
  let run := allEngines.flatMap (fun e => (s.hub.light.queue.filter mine).filter (fun r => r.engine = e))
  s.updLight (fun L => { L with
    run := L.run ++ run, runEngines := L.runEngines ++ run.map (fun r => r.engine), queue := L.queue.filter (fun r => !mine r) })

/-- Action 13 of a field's mark is next. -/
def State.switchTurn (s : State) (f : FieldId) : Bool := decide ((s.field f).tally.todo.head? = some 13)

/-- The field whose mark an engine's switchover waits for. -/
def SwReq.field (r : SwReq) : FieldId := engField r.engine

/-- SWITCHOVER_RUN_START (R283, R528): the switchovers whose mark has come, at action 13 of that mark, or those queued at once. -/
def execSwitchoverRunStart (atMark : Bool) (s : State) : Result :=
  if atMark then
    let fs := allFields.filter (fun (f : FieldId) => s.switchTurn f)
    .next (fs.foldl (fun (t : State) f => t.markDid f 13) (s.switchRun (fun r => r.due && fs.contains r.field)))
  else if s.hub.light.run ≠ [] || s.hub.light.active.isSome then .next s
  else .next (s.switchRun (fun r => !r.atMark))

/-- ENGINE_SWITCHOVER (R282, R283): the next engine of the run switches, or its switchover is dropped. It waits for a
transmitter of the engine that is silent while its rings re-lock for a mode: the pause is announced first (R321). In
hub-lost operation switchovers stop (R295). DESIGN CHOICE (log entry 44): an engine that has lost the hub leaves the run, with
no event. -/
def execEngineSwitchover (s : State) : Result :=
  let L := s.hub.light
  match L.active, L.run with
  | none, r :: rs =>
    if s.engHubLost r.engine then .next (s.updLight (fun L => { L with run := rs }.runOver))
    else if !s.canAnnounce r.engine then .next s
    else
      let s1 := (s.updLight (fun L => { L with run := rs })).switchTaken r
      if s.switchOk r then finish (s1.switchBegin r)
      else finish ((s1.switchEvent r (s.engSrc r.engine) 0 1).updLight LightUnit.runOver)
  | _, _ => .next s

/-- ENGINE_SWITCHOVER_END (R283): the pause took `micros`; the rings listed by port of the engine and
wavelength did not re-lock. -/
def execEngineSwitchoverEnd (micros : Nat) (lost : List (Nat × Nat)) (s : State) : Result :=
  match s.hub.light.active with
  | none => .next s
  | some r => finish (s.switchEnd r micros lost)

/-- A firmware switchover is queued (R286, R302). -/
def State.switchQueue (s : State) (f : FieldId) (e : Fin 4) (target : Nat) (atMark : Bool) : State :=
  let s1 := (s.fset f Reg.HDL_ENGINE_CTL.TARGET target 0 e).fset f
    (if atMark then Reg.HDL_ENGINE_CTL.REQ else Reg.HDL_ENGINE_CTL.NOW) 1 0 e
  s1.updLight (fun L => { L with queue := L.queue ++ [⟨4 * f.val + e.val, target, atMark, false, false, false, false⟩] })

/-- ENGINE_SWITCH_REQ (R286). -/
def execEngineSwitchReq (f : FieldId) (e : Fin 4) (target : Fin 2) (s : State) : Result := s.inRim f <|
  .next (s.switchQueue f e target true)

/-- ENGINE_SWITCH_NOW (R286). -/
def execEngineSwitchNow (f : FieldId) (e : Fin 4) (target : Fin 2) (s : State) : Result := s.inRim f <|
  .next (s.switchQueue f e target false)

/-! ### Modules (R289) -/

/-- A read of a module goes unanswered, the third in a row being a fault, or is answered (R289). -/
def State.moduleRead (s : State) (m : Nat) (answered : Bool) : State :=
  let k := if answered then 0 else SMap.get s.hub.light.missed 0 m + 1
  let s1 := s.updLight (fun L => { L with missed := SMap.set L.missed 0 m k })
  if 3 ≤ k then s1.moduleFault m 0 false else s1

/-- The answer to STATUS: fault bits, in whose place the point MODULE_FAULT of INJ_HPT puts its own (R289, R698). -/
def State.moduleStatus (s : State) (m faults : Nat) : State :=
  let armed := decide (s.hreg Reg.INJ_HPT.ARM 1 = 1) && decide (s.hreg Reg.INJ_HPT.POINT 1 = 1) &&
    decide (s.hreg Reg.INJ_HPT.TARGET 1 = m)
  let s1 := if armed then (s.hset Reg.INJ_HPT.ARM 0 1).hset Reg.INJ_HPT.DONE 1 1 else s
  let fb := if armed then bits (s.hreg Reg.INJ_HPT.ARG 1) 0 8 else faults % 256
  if fb = 0 then s1 else s1.moduleFault m fb armed

/-- MODULE_POLL (R289): STATUS, then BIAS_READ, each answered or not. In hub-lost operation polling stops (R295); it has not begun
before the host-light step (R290). -/
def execModulePoll (m : Fin 2) (answer : Option Nat × Option Nat) (s : State) : Result :=
  if s.hubGone || !s.hub.light.awake then .next s
  else
    let s1 := (s.emit (.i3c m i3cStatus 0)).moduleRead m answer.1.isSome
    let s2 := match answer.1 with | some b => s1.moduleStatus m b | none => s1
    let s3 := (s2.emit (.i3c m i3cBiasRead 0)).moduleRead m answer.2.isSome
    finish (match answer.2 with | some b => s3.hset Reg.HDL_MODULE.BIAS b m | none => s3)

/-- MODULE_IBI (R289). -/
def execModuleIbi (m : Fin 2) (faults : Nat) (s : State) : Result :=
  if faults % 256 = 0 ∨ s.hubGone = true then .next s else finish (s.moduleFault m (faults % 256) false)

/-! ### Eye safety (R292 to R294) -/

/-- LASER_EN_DEASSERT (R292): of the engines whose rims hear the hub (R295). -/
def execLaserEnDeassert (s : State) : Result :=
  let s0 := s.updLight (fun L => { L with laserEn := false })
  if s.hubGone then .next s0
  else
    let s1 := (s0.i3cSend 0 i3cOff 0).i3cSend 1 i3cOff 0
    finish ((s1.darkAll (allEngines.filter (fun e => !s.engHubLost e))).lightSet ltInterlock)

/-- An inlet's light is lost (R293); in hub-lost operation nothing answers it (R295). -/
def State.inletLost (s : State) (e m : Nat) (inj : Bool) : State :=
  if !s.outputOn m e || s.engHubLost e then s
  else
    let on := setBit (s.hreg Reg.HDL_MODULE.OUTPUT_ON m) e false
    let s1 := s.raiseHub Ev.HDL_INLET_LOST [(1, e), (1, m)] inj
    let s2 := (s1.hset Reg.HDL_MODULE.OUTPUT_ON on m).hset Reg.HDL_MODULE.PROBE_FAIL
      (setBit (s1.hreg Reg.HDL_MODULE.PROBE_FAIL m) e true) m
    let s3 := (s2.emit (.i3c m i3cOutputMask on)).setInlet e m false
    if s3.engSrc e = m ∧ s3.engIsDark e = false then
      if s3.inletOk e (1 - m) then
        (s3.engSetSrc e (1 - m)).updLight (fun L => { L with leftAt := SMap.insert L.leftAt m (s.now + 1) })
      else (s3.engDarken e inj).updLight (fun L => { L with injDark := setBit L.injDark e inj })
    else s3

/-- INLET_LOST (R293). -/
def execInletLost (engine : Fin 17) (m : Fin 2) (s : State) : Result := finish (s.inletLost engine m false)

/-- Light at a port is lost. -/
def State.aprEnter (s : State) (f : FieldId) (n : PortId) : Result :=
  if (s.port f n).shutter && decide (s.freg f Reg.HDL_PORT_STATUS.LIGHT_PAUSE n = 0) then
    let s1 := (s.updPort f n (fun P => { P with shutter := false })).fset f Reg.HDL_PORT_STATUS.APR 1 n
    finish ((s1.raise f Ev.HDL_APR [(1, portNo f n), (1, 0)]).linkDarken f n)
  else .next s

/-- Light at the host port is lost. -/
def State.hostAprEnter (s : State) : Result :=
  if s.hub.light.hostOpen then
    let s1 := s.updLight (fun L => { L with hostOpen := false, hostApr := true })
    finish ((s1.raiseHub Ev.HDL_APR [(1, hostPortNo), (1, 0)]).hostSet hpDown)
  else .next s

/-- APR_ENTER (R294, R598): not during a light pause the far end announced. -/
def execAprEnter (port : Option (FieldId × PortId)) (s : State) : Result := s.inPort port <|
  match port with
  | some (f, n) => s.aprEnter f n
  | none => s.hostAprEnter

/-- Light at a port has come back. -/
def State.aprExit (s : State) (f : FieldId) (n : PortId) : Result :=
  if s.freg f Reg.HDL_PORT_STATUS.APR n = 1 then
    let s1 := s.fset f Reg.HDL_PORT_STATUS.APR 0 n
    let s2 := if s1.engineDark f n then s1 else s1.updPort f n (fun P => { P with shutter := true })
    finish (((s2.raise f Ev.HDL_APR [(1, portNo f n), (1, 1)]).linkStart f n).linkLocked f n)
  else .next s

/-- Light at the host port has come back. -/
def State.hostAprExit (s : State) : Result :=
  if s.hub.light.hostApr then
    let lit := !s.engIsDark 16
    let s1 := (s.updLight (fun L => { L with hostOpen := lit, hostApr := false })).raiseHub Ev.HDL_APR [(1, hostPortNo), (1, 1)]
    finish (if lit then s1.hostSet hpTraining else s1)
  else .next s

/-- APR_EXIT (R294, R598): the shutter of a DARK engine's port stays at PROBE (R291). -/
def execAprExit (port : Option (FieldId × PortId)) (s : State) : Result := s.inPort port <|
  match port with
  | some (f, n) => s.aprExit f n
  | none => s.hostAprExit

end Sys2Proof.Machine
end

