-- ==== Sys2Proof/Machine/Links.lean ====
section
/-! DEFINITION. Ebcen links (R309 to R356): lane control received, training, qualification, retrain,
flits, replay, credits and arbitration. -/

namespace Sys2Proof.Machine

open Sys2Proof

/-! ### Locking (R314, R336) -/

/-- WAVELENGTH_LOCK (R314, R336). -/
def execWavelengthLock (f : FieldId) (n : PortId) (w : Lambda) (s : State) : Result := s.inRim f <|
  let s1 := s.updPort f n (fun P =>
    let lock := setBit P.lock w true
    { P with lock := lock, relock := P.relock && decide (popcount 16 lock < 8) })
  finish (s1.linkLocked f n)

/-- WAVELENGTH_LOCK_LOSS (R314, R323): a wavelength that carries a slot fails, outside a pause, a re-lock, its own
calibration slot and QUALIFY. -/
def execWavelengthLockLoss (f : FieldId) (n : PortId) (w : Lambda) (s : State) : Result := s.inRim f <|
  let fails := ((s.port f n).rx.slotOf w).isSome && bit (s.port f n).lock w && decide (s.link f n ≠ lsQualify) &&
    !s.rxSuspended f n && (s.port f n).rx.cal ≠ some w.val
  let s1 := s.updPort f n (fun P => { P with lock := setBit P.lock w false })
  if fails then finish ((s1.rxFail f n w 6).laneCheck f n true (s.rxLanes f n)) else .next s1

/-- LOCK_TIMEOUT (R336). -/
def execLockTimeout (f : FieldId) (n : PortId) (s : State) : Result := s.inRim f <|
  if s.link f n = lsLock ∧ (s.port f n).lockLate = false then
    let s1 := (s.updPort f n (fun P => { P with lockLate := true })).fset f Reg.RTE_LINK_STATUS.RESULT St.LINK_LOCK_TIMEOUT n
    finish (s1.raise f Ev.RTE_LINK_STATE [(1, portNo f n), (1, lsLock), (1, lsLock), (2, St.LINK_LOCK_TIMEOUT)])
  else .next s

/-- RX_SILENT_TIMEOUT (R342): outside a pause. -/
def execRxSilentTimeout (f : FieldId) (n : PortId) (s : State) : Result := s.inRim f <|
  if (s.port f n).lock = 0 ∧ s.rxSuspended f n = false then finish (s.linkRetrain f n) else .next s

/-- HEADER_MAP_DESYNC (R314). -/
def execHeaderMapDesync (f : FieldId) (n : PortId) (s : State) : Result := s.inRim f <|
  finish (s.linkDesync f n)

/-! ### Lane control received (R316, R318 to R322) -/

/-- MAP_CHANGE (R318): held until the SWITCH group. A slot beyond 14 names none. -/
def execMapChange (f : FieldId) (n : PortId) (slot wave : Fin 16) (s : State) : Result := s.inRim f <|
  if slot.val = 15 then .next s
  else .next (s.updPort f n (fun P => { P with rx := { P.rx with pending := some (.map slot wave) } }))

/-- MODE_CHANGE (R318, R319). -/
def execModeChange (f : FieldId) (n : PortId) (mode : Fin 4) (s : State) : Result := s.inRim f <|
  .next (s.updPort f n (fun P => { P with rx := { P.rx with pending := some (.mode mode) } }))

/-- SWITCH_TIMEOUT (R318). -/
def execSwitchTimeout (f : FieldId) (n : PortId) (s : State) : Result := s.inRim f <|
  if (s.port f n).rx.pending.isSome then finish (s.linkDesync f n) else .next s

/-- MODE_CHANGE_RESUME (R319): IDLE groups 10 µs after the SWITCH group, flits at 20 µs. -/
def execModeChangeResume (f : FieldId) (n : PortId) (flits : Bool) (s : State) : Result := s.inRim f <|
  match (s.port f n).stop with
  | .relock =>
    if flits then finish (s.txResume f n)
    else finish ((((s.updPort f n (fun P => { P with stop := .idle })).laneFlush f n).idleFor f n 10000).linkGo f n)
  | .idle => if flits then finish (s.txResume f n) else .next s
  | _ => .next s

/-- CAL (R320): the receiver scans its drop ring, or the slot is over and the wavelength is fallow. -/
def execCal (f : FieldId) (n : PortId) (w : Lambda) (ends : Bool) (s : State) : Result := s.inRim f <|
  let d := (s.port f n).rx
  if ends then
    let idle := (d.slotOf w).isNone && !bit d.failed w
    .next (s.setRx f n { d with cal := none, fallow := if idle then w.val else d.fallow })
  else .next (s.setRx f n { d with cal := some w })

/-- CAL_DONE (R320, R278). -/
def execCalDone (f : FieldId) (n : PortId) (w : Lambda) (confirmed : Bool) (s : State) : Result := s.inRim f <|
  match (s.port f n).tx.cal with
  | none => .next s
  | some c =>
    if c.wave ≠ w.val then .next s
    else if c.retry then finish (s.retryDone f n w confirmed)
    else if confirmed then finish (s.calDone f n)
    else finish (s.calFailed f n)

/-- LANE_FAILED (R275, R276). -/
def execLaneFailed (f : FieldId) (n : PortId) (w : Lambda) (reason : Fin 16) (s : State) : Result := s.inRim f <|
  finish (s.txFail f n w reason)

/-- The light pause that the far end announced begins, or ends: the replay timer stays stopped for 10 µs more (R330). -/
def State.lightPause (s : State) (f : FieldId) (n : PortId) (begins : Bool) : State :=
  let ended := decide (s.freg f Reg.HDL_PORT_STATUS.LIGHT_PAUSE n = 1) && !begins
  (s.fset f Reg.HDL_PORT_STATUS.LIGHT_PAUSE (b2n begins) n).updPort f n (fun P =>
    { P with pauseOver := if ended then s.now + 1 else P.pauseOver })

/-- LIGHT_PAUSE (R321). -/
def execLightPause (f : FieldId) (n : PortId) (begins : Bool) (s : State) : Result := s.inRim f <|
  .next (s.lightPause f n begins)

/-- LIGHT_PAUSE_TIMEOUT (R321). -/
def execLightPauseTimeout (f : FieldId) (n : PortId) (s : State) : Result := s.inRim f <|
  .next (s.lightPause f n false)

/-- The power report of a port: three parts (R316, R317). -/
def State.powerReport (s : State) (f : FieldId) (n : PortId) : State :=
  (List.range 3).foldl (fun t p =>
    let vs := (List.range 6).map (fun i =>
      if 6 * p + i < 16 then t.freg f Reg.HDL_LANE_POWER.RX_PWR n (6 * p + i) else 0x80)
    t.laneSend f n lmPower (p + leNat (vs.map (BitVec.ofNat 8)) * 2 ^ 8)) s

/-- LANE_CONTROL_REPEAT (R317). -/
def execLaneControlRepeat (f : FieldId) (n : PortId) (s : State) : Result := s.inRim f <|
  if !s.portLit f n then .next s
  else
    let P := s.port f n
    let st := s.link f n
    let failed := (List.range 16).filter (fun w => bit P.rx.failed w && (P.rx.slotOf w).isSome)
    let s1 := failed.foldl (fun t w => t.laneSend f n lmLaneFailed (w + SMap.get P.rx.reasons 0 w * 2 ^ 8)) s
    let s2 := if st = lsHeld ∨ st = lsActive ∨ (st = lsQualify ∧ P.ready = false) then s1
      else s1.laneSend f n lmTrain (s1.trainArg f n)
    let s3 := if st = lsQualify ∧ P.qualDone = 0xFFFF then s2.laneSend f n lmQual P.qualPass else s2
    .next (s3.powerReport f n)

/-! ### Beacons, training, qualification (R336 to R341) -/

/-- BEACON (R338): part `part` with its argument bits; a beacon is accepted when assembled twice in a row
with equal content. -/
def execBeacon (f : FieldId) (n : PortId) (part : Fin 4) (arg : Nat) (s : State) : Result := s.inRim f <|
  let s1 := s.updPort f n (fun P => { P with parts := SMap.insert P.parts part (setBits (trunc 56 arg) 0 2 part) })
  let parts := (s1.port f n).parts
  if parts.length < 4 then .next s1
  else
    let whole := parts.map (fun x => x.2)
    let P := s1.port f n
    let s2 := s1.updPort f n (fun P => { P with parts := [], whole := whole })
    if P.whole ≠ whole ∨ P.accepted = whole ∨ s.link f n = lsDisabled ∨ s.link f n = lsLock then .next s2
    else
      let b : BeaconId := { port := bits (nth whole 0) 2 6, serial := bits (nth whole 0) 8 48,
                            node := bits (nth whole 1) 8 16,
                            digest := bits (nth whole 2) 8 48 + bits (nth whole 3) 8 16 * 2 ^ 48 }
      finish ((s2.updPort f n (fun P => { P with accepted := whole, heard := true })).beaconAccept f n b)

/-- BEACON_SEND (R338), with the point BEACON_ID (R697). -/
def execBeaconSend (f : FieldId) (n : PortId) (s : State) : Result := s.inRim f <|
  let st := s.link f n
  let sends := st = lsBeacon ∨ st = lsHeld ∨ st = lsActive ∨ (st = lsRetrain ∧ 8 ≤ popcount 16 (s.port f n).lock)
  if sends ∧ s.portLit f n = true then
    let fires := s.injArmedAt f injLink 6 n
    let node := if fires then s.node f ^^^ bits (s.injArg f injLink) 0 16 else s.node f
    let s0 := if fires then s.injFire f injLink else s
    let d := s.freg f Reg.RTE_PLAN_HDR.DIGEST
    let s1 := s0.laneSend f n lmBeacon (portNo f n * 2 ^ 2 + trunc 48 Config.packageSerial * 2 ^ 8)
    let s2 := s1.laneSend f n lmBeacon (1 + node * 2 ^ 8 + st * 2 ^ 24)
    .next ((s2.laneSend f n lmBeacon (2 + bits d 0 48 * 2 ^ 8)).laneSend f n lmBeacon (3 + bits d 48 16 * 2 ^ 8))
  else .next s

/-- TRAIN (R337, R343): a READY port enters ACTIVE with the far end. In RETRAIN, a far end that is past its
own retrain has nothing preserved, and the link goes down. -/
def execTrain (f : FieldId) (n : PortId) (farState : Fin 16) (ready : Bool) (lastSeq : Nat) (s : State) : Result := s.inRim f <|
  let s1 := (s.fset f Reg.RTE_LINK_STATUS.FAR_READY (b2n ready) n).updPort f n (fun P =>
    { P with farReady := ready, farAck := trunc 14 lastSeq })
  if s.link f n = lsRetrain ∧ ready = true ∧ farState.val ≠ lsRetrain ∧ farState.val ≠ lsActive then
    finish (((s1.linkDown f n).updPort f n (fun P => { P with accepted := [] })).linkSet f n lsBeacon St.OK)
  else finish (s1.linkGo f n)

/-- A wavelength is marked failed in qualification (R340). -/
def State.qualFail (s : State) (f : FieldId) (n : PortId) (rx : Bool) (w : Nat) : State :=
  let P := s.port f n
  if bit (if rx then P.rx.failed else P.tx.failed) w then s
  else
    let s1 :=
      if rx then s.setRx f n { P.rx with failed := setBit P.rx.failed w true, reasons := SMap.set P.rx.reasons 0 w 7 }
      else s.setTx f n { P.tx with failed := setBit P.tx.failed w true }
    (s1.raise f Ev.HDL_LANE_FAILED [(1, portNo f n), (1, b2n rx), (1, w), (1, 7)]).laneInjected f n rx w false

/-- Whether a wavelength passes: N line bits, E corrected, U uncorrectable (R340). -/
def qualPasses (bitsN e u : Nat) : Bool :=
  decide (u = 0) && decide (e < 20000000) && (decide (e = 0 ∧ 10 ^ 12 ≤ bitsN) || decide (e * 50000 < bitsN))

/-- Bits corrected on a receive wavelength, and uncorrectable codewords, are counted (R352). -/
def State.fecCount (s : State) (f : FieldId) (n : PortId) (w corrected uncorrectable : Nat) : State :=
  (s.fwrap f Reg.RTE_LANE_FEC.CORR corrected n w).fcount f Reg.RTE_LANE_FEC.UNCORR uncorrectable n w

/-- What qualification counts of a wavelength: N line bits, E corrected, U uncorrectable (R339). -/
def State.qualCount (s : State) (f : FieldId) (n : PortId) (w lineBits e u : Nat) : State :=
  s.updPort f n (fun P => { P with
    qualN := SMap.set P.qualN 0 w (SMap.get P.qualN 0 w + lineBits)
    qualE := SMap.set P.qualE 0 w (SMap.get P.qualE 0 w + e)
    qualU := SMap.set P.qualU 0 w (SMap.get P.qualU 0 w + u) })

/-- The test of a wavelength ends, and with the last the test of the direction (R339 to R341). -/
def State.qualWave (s : State) (f : FieldId) (n : PortId) (w : Nat) : State :=
  let P := s.port f n
  let ok := qualPasses (SMap.get P.qualN 0 w) (SMap.get P.qualE 0 w) (SMap.get P.qualU 0 w)
  let s1 := s.updPort f n (fun P => { P with qualDone := setBit P.qualDone w true, qualPass := setBit P.qualPass w ok })
  let s2 := if ok then s1 else s1.qualFail f n true w
  if (s2.port f n).qualDone = 0xFFFF then s2.qualReport f n else s2

/-- QUALIFY_END (R339 to R341, R352): with the codewords of the wavelength that no group command brought. -/
def execQualifyEnd (f : FieldId) (n : PortId) (w : Lambda) (lineBits corrected uncorrectable : Nat) (s : State) :
    Result := s.inRim f <|
  if s.link f n ≠ lsQualify ∨ bit (s.port f n).qualDone w then .next s
  else finish (((s.fecCount f n w corrected uncorrectable).qualCount f n w lineBits corrected uncorrectable).qualWave f n w)

/-- QUAL_RESULT (R340, R341). -/
def execQualResult (f : FieldId) (n : PortId) (mask : Nat) (s : State) : Result := s.inRim f <|
  if s.link f n ≠ lsQualify then .next s
  else
    let m := trunc 16 mask
    let s1 := s.updPort f n (fun P => { P with farPass := some m })
    let s2 := (List.range 16).foldl (fun t w => if bit m w then t else t.qualFail f n false w) s1
    finish (s2.qualDecide f n)

/-! ### Retrain and loss of link (R342 to R344, R349) -/

/-- RETRAIN (R342). -/
def execRetrain (f : FieldId) (n : PortId) (s : State) : Result := s.inRim f <| finish (s.linkRetrain f n)

/-- RETRAIN_TIMEOUT (R343). -/
def execRetrainTimeout (f : FieldId) (n : PortId) (s : State) : Result := s.inRim f <|
  if s.link f n = lsRetrain then
    finish (((s.linkDown f n).updPort f n (fun P => { P with accepted := [] })).linkSet f n lsBeacon St.OK)
  else .next s

/-- LINK_ENABLE_CLEAR (R336). -/
def State.linkDisable (s : State) (f : FieldId) (n : PortId) : State :=
  let st := s.link f n
  let s1 := s.fset f Reg.RTE_LINK_CTL.ENABLE 0 n
  let s2 := if st = lsActive ∨ st = lsRetrain then s1.linkDown f n else s1
  (s2.updPort f n (fun P => { P with ready := false, farReady := false, accepted := [], parts := [], whole := [] })).linkSet f n
    lsDisabled St.LINK_DISABLED

/-- LINK_ENABLE_CLEAR (R336). -/
def execLinkEnableClear (f : FieldId) (n : PortId) (s : State) : Result := s.inRim f <| finish (s.linkDisable f n)

/-- RETRY (R349). -/
def State.linkRetry (s : State) (f : FieldId) (n : PortId) : State :=
  if s.link f n = lsFailed then s.linkLock f n St.OK else s.linkRetrain f n

/-- LINK_RETRY (R349). -/
def execLinkRetry (f : FieldId) (n : PortId) (s : State) : Result := s.inRim f <| finish (s.linkRetry f n)

/-! ### Credits (R331, R332) -/

/-- Buffers in use of a channel's pool at a receiver. -/
def Port.used (P : Port) (vc : Nat) (pool : Bool) : Nat :=
  ((SMap.get P.rxq [] vc).filter (fun b => b.pool == pool)).length

/-- Whether a DATA flit finds a buffer (R331). -/
def Port.hasBuffer (P : Port) (vc : Nat) (pool : Bool) : Bool :=
  if pool then decide (((List.range 8).map (fun v => P.used v true)).foldl (· + ·) 0 < 6144)
  else decide (P.used vc false < 256)

/-- A credit report is applied (R332). -/
def State.creditIn (s : State) (f : FieldId) (n : PortId) (x : Flit) : State :=
  let key := x.crVc * 2 + b2n x.crPool
  let d := (trunc 9 x.crCount + 512 - SMap.get (s.port f n).seenCr 0 key) % 512
  let s1 := s.updPort f n (fun P => { P with seenCr := SMap.set P.seenCr 0 key (trunc 9 x.crCount) })
  if x.crPool then
    s1.fset f Reg.RTE_LINK_CREDIT.SHARED (min 6144 (s1.freg f Reg.RTE_LINK_CREDIT.SHARED n + d)) n
  else s1.fset f Reg.RTE_LINK_CREDIT.RES (min 256 (s1.freg f Reg.RTE_LINK_CREDIT.RES n x.crVc + d)) n x.crVc

/-! ### Flits received (R326 to R329) -/

/-- A discard calls for a NAK (R328). -/
def State.nakCall (s : State) (f : FieldId) (n : PortId) : State :=
  let P := s.port f n
  let half := s.freg f Reg.RTE_LINK_CTL.REPLAY_TIMEOUT n / 2
  if P.nakFor = some P.exp ∧ s.now < P.nakAt + half then s
  else s.updPort f n (fun P => { P with nakDue := true, nakFor := some P.exp, nakAt := s.now })

/-- The ACK and credit report of a flit with good CRC. -/
def State.flitControl (s : State) (f : FieldId) (n : PortId) (x : Flit) : State :=
  (s.updPort f n (fun P => P.acked (trunc 14 x.ack))).creditIn f n x

/-- Whether flits arriving on a port are taken: ACTIVE, and locked in the mode in effect (R319). -/
def State.flitsTaken (s : State) (f : FieldId) (n : PortId) : Bool :=
  decide (s.link f n = lsActive) && !(s.port f n).relock

/-- A flit with a wrong CRC (R327, R328). -/
def State.flitBad (s : State) (f : FieldId) (n : PortId) : State :=
  (s.fwrap f Reg.RTE_LINK_CNT.CRC_ERR 1 n).nakCall f n

/-- Payload bytes of a DATA flit that its channel's stream takes: with no packet under way, the bytes
before START complete nothing. -/
def flitStream (q : List BufFlit) (x : Flit) : List Byte :=
  let bs := q.flatMap (fun b => b.data)
  let whole := decide (wholeBytes bs.length bs = bs.length)
  let data := x.payload.take x.len
  if whole then data.drop (if trunc 8 x.start = 0xFF then x.len else trunc 8 x.start) else data

/-- A DATA flit in sequence is accepted. -/
def State.flitAccept (s : State) (f : FieldId) (n : PortId) (x : Flit) : State :=
  let s1 := s.updPort f n (fun P =>
    let q := SMap.get P.rxq [] x.vc
    { P with exp := (P.exp + 1) % 0x4000, nakFor := none,
             rxq := SMap.set P.rxq [] x.vc (q ++ [⟨x.pool, flitStream q x, s.stamp f⟩]) })
  s1.fwrap f Reg.RTE_LINK_CNT.RX_FLITS 1 n

/-- DATA_FLIT (R326 to R328, R331): a flit whose TYPE is DATA or reserved. -/
def execDataFlit (f : FieldId) (n : PortId) (ty : Fin 8) (flit : Flit) (s : State) : Result := s.inRim f <|
  let P := s.port f n
  if !s.flitsTaken f n then .next s
  else if flit.crc ≠ flitCrc ty flit then finish (s.flitBad f n)
  else if ty.val ≠ flitData then finish ((s.protoErr f n 0).nakCall f n)
  else if trunc 3 flit.vc = 7 then finish ((s.protoErr f n 1).nakCall f n)
  else if flit.len = 0 ∨ 240 < flit.len then finish ((s.protoErr f n 2).nakCall f n)
  else if trunc 14 flit.seq = P.exp then
    if P.hasBuffer flit.vc flit.pool then finish ((s.flitControl f n flit).flitAccept f n flit)
    else finish ((s.protoErr f n 3).nakCall f n)
  else if decide ((P.exp + 0x4000 - trunc 14 flit.seq) % 0x4000 ≤ 8192) then finish (s.flitControl f n flit)
  else finish ((s.flitControl f n flit).nakCall f n)

/-- IDLE_FLIT (R326, R332). -/
def execIdleFlit (f : FieldId) (n : PortId) (flit : Flit) (s : State) : Result := s.inRim f <|
  if !s.flitsTaken f n then .next s
  else if flit.crc ≠ flitCrc flitIdle flit then finish (s.flitBad f n)
  else if trunc 3 flit.vc = 7 then finish ((s.protoErr f n 1).nakCall f n)
  else .next (s.flitControl f n flit)

/-- A NAK for x starts a replay from x, unless x is still to be resent (R329). -/
def Port.nak (P : Port) (x : Nat) : Port :=
  if !P.held.any (fun h => h.seq = x) then P
  else
    match P.resend with
    | some r => if seqCovered r x then P else { P with resend := some x }
    | none => { P with resend := some x }

/-- NAK_FLIT (R326, R329). -/
def execNakFlit (f : FieldId) (n : PortId) (flit : Flit) (s : State) : Result := s.inRim f <|
  if !s.flitsTaken f n then .next s
  else if flit.crc ≠ flitCrc flitNak flit then finish (s.flitBad f n)
  else if trunc 3 flit.vc = 7 then finish ((s.protoErr f n 1).nakCall f n)
  else .next ((s.flitControl f n flit).updPort f n (fun P => P.nak ((trunc 14 flit.ack + 1) % 0x4000)))

/-- REPLAY_TIMEOUT (R329, R330): the replay timer of a held flit, stopped during stops and light pauses and for 10 µs after
a pause the far end announced. -/
def execReplayTimeout (f : FieldId) (n : PortId) (seq : Nat) (s : State) : Result := s.inRim f <|
  let P := s.port f n
  if P.stop ≠ .none ∨ s.freg f Reg.HDL_PORT_STATUS.LIGHT_PAUSE n = 1 ∨
      (P.pauseOver ≠ 0 ∧ s.now < P.pauseOver - 1 + 10000) ∨ s.link f n ≠ lsActive ∨
      P.held.any (fun h => h.seq = seq) = false then .next s
  else .next (s.updPort f n (fun P => { P with resend := (P.held.head?).map (fun h => h.seq) }))

/-! ### Flits sent (R329, R334, R342) -/

/-- The flit of a FLIT_SLOT; where it is one sent eight times unanswered, the link retrains instead. -/
def State.portFlit (s : State) (f : FieldId) (n : PortId) : State :=
  let P := s.port f n
  if P.spent && !(P.nakDue && P.withheld.isNone) then s.linkRetrain f n
  else
    let (s1, bs) := s.flitOf f n
    s1.streamFlit f n bs

/-! ### Discovery (R362, R365, R389, R390) -/

/-- MISSING_TIMEOUT (R362). -/
def execMissingTimeout (f : FieldId) (n : PortId) (s : State) : Result := s.inRim f <|
  if s.freg f Reg.RTE_PLAN_PORT.AXIS n ≠ 0 ∧ (s.link f n = lsLock ∨ s.link f n = lsBeacon) ∧ (s.port f n).heard = false then
    finish (s.setOutcome f n dMissing (s.freg f Reg.RTE_DISC_STATUS.SEEN_NODE n) (s.freg f Reg.RTE_DISC_STATUS.SEEN_PORT n))
  else .next s

/-- An approval of one port (R365); none reaches a field in hub-lost operation (R345). -/
def State.discApprove (s : State) (f : FieldId) (n : PortId) : State :=
  if (s.field f).hubLost then s else
  let o := s.freg f Reg.RTE_DISC_STATUS.OUTCOME n
  let may := decide (s.link f n = lsHeld) && (o = dSwapOther || o = dUnplanned || o = dForeign)
  match (s.port f n).seen with
  | some b =>
    let axes := axesDiffer (nodePkg b.node) s.pkgNode
    if may && decide (b.digest = s.freg f Reg.RTE_PLAN_HDR.DIGEST) && decide (axes.length = 1) &&
        decide (s.axisSize f (axes.headD 0) ≠ 1) then
      (s.updPort f n (fun P => { P with approved := some b })).linkAdmit f n
    else s.fset f Reg.RTE_DISC_STATUS.REFUSED 1 n
  | none => s.fset f Reg.RTE_DISC_STATUS.REFUSED 1 n

/-- DISC_APPROVE (R365, R390). In hub-lost operation a HELD port stays HELD (R345). -/
def execDiscApprove (f : FieldId) (mask : Nat) (s : State) : Result := s.inRim f <|
  if (s.field f).hubLost then .next s else
  finish ((List.range 16).foldl (fun t k => if bit mask k then t.discApprove f (BitVec.ofNat 4 k).toFin else t) s)

/-- DISC_APPROVAL_WITHDRAW (R389). Routing no longer uses the port unless its outcome admits it (R363). -/
def execDiscApprovalWithdraw (f : FieldId) (n : PortId) (s : State) : Result := s.inRim f <|
  .next (s.updPort f n (fun P => { P with approved := none }))

end Sys2Proof.Machine
end

