-- ==== Sys2Proof/Machine/Groups.lean ====
section
/-! DEFINITION. Groups of codewords received (R309 to R318, R339, R352): decoding, lane headers, the lane-control messages and
the flits a group brings, and SWITCH_GROUP. -/

namespace Sys2Proof.Machine

open Sys2Proof

/-- A next state goes on; a fault or a refusal ends. -/
def andThen (r : Result) (g : State → Result) : Result :=
  match r with
  | .next t => g t
  | .fault x => .fault x
  | .refused x => .refused x

/-- Some steps in turn. -/
def inTurn {α : Type} (g : State → α → Result) : List α → State → Result
  | [], s => .next s
  | x :: xs, s => andThen (g s x) (inTurn g xs)

/-! ### Lane control (R315, R316) -/

/-- A lane-control message that arrived: TYPE and argument. One of reserved TYPE is ignored and counted. -/
def State.laneIn (s : State) (f : FieldId) (n : PortId) (ty arg : Nat) : Result :=
  let b4 := fun (k : Nat) => (BitVec.ofNat 4 (bits arg k 4)).toFin
  let b2 := (BitVec.ofNat 2 (bits arg 0 2)).toFin
  match ty with
  | 0 => .next s
  | 0x01 => execMapChange f n (b4 0) (b4 4) s
  | 0x02 => execModeChange f n b2 s
  | 0x03 => execCal f n (b4 0) (bit arg 8) s
  | 0x04 => execCalDone f n (b4 0) (bit arg 8) s
  | 0x05 => execLaneFailed f n (b4 0) (b4 8) s
  | 0x06 => execLightPause f n (bit arg 0) s
  | 0x07 => execPowerReport f n b2 ((List.range 6).map (fun i => bits arg (8 + 8 * i) 8)) s
  | 0x10 => execBeacon f n b2 arg s
  | 0x11 => execTrain f n (b4 0) (bit arg 4) (bits arg 5 14) s
  | 0x12 => execQualResult f n (bits arg 0 16) s
  | 0x13 => execRetrain f n s
  | _ => finish (s.protoErr f n 4)

/-- The CTL fields of a wavelength's message after a header: the message begins at CTL_START and needs four headers in a row
that are valid. -/
def ctlNext (parts : List Nat) (header : Option Nat) : List Nat :=
  match header with
  | none => []
  | some h =>
    if bit h 13 then [bits h 16 16]
    else if parts = [] ∨ parts.length = 4 then [] else parts ++ [bits h 16 16]

/-- The 64 bits of four CTL fields, first sent lowest. -/
def ctlValue (parts : List Nat) : Nat := parts.foldr (fun q acc => acc * 2 ^ 16 + q) 0

/-! ### A group (R309 to R313) -/

/-- A codeword received on a wavelength: corrected symbols, or those received where the decoder fails; the count of bits
corrected; whether it was correctable; and its header where that is valid. -/
structure Heard where
  wave : Nat
  word : List Nat
  corrected : Nat
  good : Bool
  header : Option Nat

/-- The codeword decoded (R309, R310). -/
def hear (wave : Nat) (symbols : List Nat) : Heard :=
  let word := (symbols ++ List.replicate 544 0).take 544
  let (fixed, corrected, good) := match rsDecode word with
    | some (x, k) => (x, k, true)
    | none => (word, 0, false)
  let h := symbolsHeader fixed
  { wave := wave, word := fixed, corrected := corrected, good := good, header := if laneHeaderOk h then some h else none }

/-! ### The point FEC_SYMBOLS (R697) -/

/-- Some of the places listed, as a number chooses. -/
def pickPlaces (v : Nat) : Nat → List Nat → List Nat
  | 0, _ => []
  | k + 1, ps => nth ps (v % ps.length) :: pickPlaces (v / ps.length) k (ps.eraseIdx (v % ps.length))

/-- A codeword with errors in some symbols: each of them another symbol than it was, as a number chooses. -/
def spoil (places : List Nat) (v : Nat) (word : List Nat) : List Nat :=
  (places.zipIdx).foldl (fun w (p, i) => w.set p (nth w p ^^^ (v / 1023 ^ i % 1023 + 1))) ((word ++ List.replicate 544 0).take 544)

/-- The next codeword received on the point's wavelength gains n symbol errors. Which symbols, and what they become, is free. -/
def State.fecPoint (s : State) (f : FieldId) (n : PortId) (codewords : List (Nat × List Nat)) : State × List (Nat × List Nat) :=
  let arg := s.injArg f injLink
  let w := arg % 16
  if s.injArmedAt f injLink 1 n && bit (s.port f n).lock w && codewords.any (fun x => x.1 = w) then
    let (a, s1) := s.draw
    let (b, s2) := s1.draw
    let places := pickPlaces a (bits arg 4 5) (List.range 544)
    ((s2.injFire f injLink).healthInput f true,
      codewords.map (fun x => if x.1 = w then (x.1, spoil places b x.2) else x))
  else (s, codewords)

/-- What the receiver counts of a codeword: its corrections (R352), and in QUALIFY, outside a light pause, its line bits; a
wavelength with an uncorrectable codeword or too many corrected bits fails at once (R339, R340). -/
def State.heardCount (s : State) (f : FieldId) (n : PortId) (x : Heard) : State :=
  let u := b2n (!x.good)
  let s1 := s.fecCount f n x.wave x.corrected u
  if s1.link f n = lsQualify ∧ s1.freg f Reg.HDL_PORT_STATUS.LIGHT_PAUSE n = 0 ∧ bit (s1.port f n).qualDone x.wave = false then
    let s2 := s1.qualCount f n x.wave 5440 x.corrected u
    if u = 1 ∨ 20000000 ≤ SMap.get (s2.port f n).qualE 0 x.wave then s2.qualWave f n x.wave else s2
  else s1

/-- The stream bits of a group as a number, first bit lowest (R312): symbol j from the wavelength of rank j mod L. -/
def streamBits (P : Port) (group : Nat) (hs : List Heard) : Nat :=
  let ss := slotsIn 15 P.rx.out
  let words := ss.map (fun k => match hs.find? (fun x => x.wave = nth P.rx.map k) with
    | some x => scramble group ((x.word.drop 4).take 510)
    | none => List.replicate 510 0)
  ((List.range 510).map (fun i => (words.map (fun w => nth w i)).foldr (fun v acc => acc * 1024 + v) 0)).foldr
    (fun row acc => acc * 1024 ^ ss.length + row) 0

/-- The whole flits at the front of some stream bits. -/
def flitsOf (value : Nat) : Nat → List (List Byte)
  | 0 => []
  | k + 1 => leBytes 256 value :: flitsOf (value / 2 ^ 2048) k

/-- A flit taken from the stream. -/
def State.flitIn (f : FieldId) (n : PortId) (s : State) (bs : List Byte) : Result :=
  let (ty, x) := flitParse bs
  if ty = flitIdle then execIdleFlit f n x s
  else if ty = flitNak then execNakFlit f n x s
  else execDataFlit f n (BitVec.ofNat 3 ty).toFin x s

/-- A SWITCH group has arrived (R318, R319): the pending change applies. -/
def State.switchIn (s : State) (f : FieldId) (n : PortId) : Result :=
  let P := s.port f n
  match P.rx.pending with
  | none => finish (s.linkDesync f n)
  | some (.map k w) =>
    finish ((s.setRx f n { P.rx.put k w with pending := none }).laneCheck f n true (s.rxLanes f n))
  | some (.mode m) =>
    .next ((s.fset f Reg.HDL_PORT_STATUS.RX_MODE m n).updPort f n (fun Q =>
      { Q with rx := { Q.rx with pending := none }, lock := 0, relock := true }))

/-- A group is received: codewords on the locked wavelengths count, the message they complete acts, the flits they complete
are taken, and a SWITCH group applies the pending change. An IDLE group and a SWITCH group leave no part of a flit behind
(R313). -/
def State.groupIn (s0 : State) (f : FieldId) (n : PortId) (received : List (Nat × List Nat)) : Result :=
  let (s, codewords) := s0.fecPoint f n received
  let P := s.port f n
  let hs := ((List.range 16).filter (bit P.lock)).filterMap (fun w =>
    (codewords.find? (fun x => x.1 = w)).map (fun x => hear w x.2))
  let hd := hs.filterMap (fun x => x.header)
  let group := (laneVote (hd.map (fun h => bits h 4 8))).getD P.heardCode.group
  let marked := fun (k : Nat) => laneVote (hd.map (fun h => bits h k 1)) = some 1
  let ctl := (List.range 16).map (fun w => (w, ctlNext (SMap.get P.heardCode.parts [] w)
    ((hs.find? (fun x => x.wave = w)).bind (fun x => x.header))))
  let message := laneVote ((ctl.filter (fun x => x.2.length = 4)).map (fun x => ctlValue x.2))
  let L := (slotsIn 15 P.rx.out).length
  let value := P.heardCode.bits + streamBits P group hs * 2 ^ P.heardCode.length
  let total := P.heardCode.length + groupBits L
  let k := if marked 14 then 0 else total / 2048
  let cut := marked 14 || marked 12
  let s1 := s.updPort f n (fun P => { P with heardCode :=
    { group := (group + 1) % 256, parts := ctl.foldl (fun m x => SMap.set m [] x.1 x.2) P.heardCode.parts,
      bits := if cut then 0 else value / 2 ^ (2048 * k), length := if cut then 0 else total - 2048 * k } })
  let s2 := hs.foldl (fun t x => t.heardCount f n x) s1
  andThen (inTurn (State.flitIn f n) (flitsOf value k) s2) fun s3 =>
    andThen (match message with | some m => s3.laneIn f n (bits m 0 8) (bits m 8 56) | none => .next s3) fun s4 =>
      if marked 12 then s4.switchIn f n else finish s4

/-- SWITCH_GROUP (R309 to R319): a group arrives with the codewords listed by wavelength. With none listed it is a SWITCH
group of which only the mark is told. -/
def execSwitchGroup (f : FieldId) (rx : PortId × List (Nat × List Nat)) (s : State) : Result := s.inRim f <|
  if rx.2 = [] then s.switchIn f rx.1 else s.groupIn f rx.1 rx.2

end Sys2Proof.Machine
end

