-- ==== Sys2Proof/Machine/Router.lean ====
section
/-! DEFINITION. The router of a field (R357 to R398, R427, R674): die-to-die paths, routing tables, route
computation, transit and delivery checks, line multicast, combining, flit slots, sealing, congestion maps. -/

namespace Sys2Proof.Machine

open Sys2Proof

/-! ### Die-to-die paths (R374, R380) -/

/-- The field with number n. -/
def fieldAt (n : Nat) : FieldId := (BitVec.ofNat 2 n).toFin

/-- The link of the ring that joins two adjacent fields. -/
def d2dLink (a b : FieldId) : Option Nat :=
  (List.range 4).find? (fun k => decide (d2dEnds k = (a, b)) || decide (d2dEnds k = (b, a)))

/-- Whether two fields are joined by a link that is up. -/
def State.d2dJoined (s : State) (a b : FieldId) : Bool :=
  match d2dLink a b with
  | some k => s.d2dUp k
  | none => false

/-- Whether every link of a walk round the ring is up. -/
def State.d2dWalk (s : State) : List FieldId → Bool
  | a :: b :: rest => s.d2dJoined a b && State.d2dWalk s (b :: rest)
  | _ => true

/-- The two walks from a field to another, the preferred one first (R374). -/
def d2dWalks (f g : FieldId) : List (List FieldId) :=
  let x := fieldAt (f.val ^^^ 1)
  let y := fieldAt (f.val ^^^ 2)
  let o := fieldAt (f.val ^^^ 3)
  if f = g then []
  else if g = x then [[f, x], [f, y, o, x]]
  else if g = y then [[f, y], [f, x, o, y]]
  else [[f, x, o], [f, y, o]]

/-- The first hop of the path to a field, when a path exists. -/
def State.d2dHop (s : State) (f g : FieldId) : Option FieldId :=
  ((d2dWalks f g).find? s.d2dWalk).bind (fun w => w[1]?)

/-! ### Tables (R367, R391, R392) -/

/-- An axis entry, as its register fields read in a bank. -/
structure AxisEntry where
  ports : List Nat
  count : Nat
  leaves : Bool
  detourEn : Bool
  detour : Nat
  deriving DecidableEq, Repr

/-- The axis entry of axis 1 U, 2 V, 3 W for a coordinate. -/
def axisEntry (bank : SMap Nat) (axis c : Nat) : AxisEntry :=
  match axis with
  | 3 =>
    { ports := [Reg.RTE_TBL_W.PORT0.get bank c 0, Reg.RTE_TBL_W.PORT1.get bank c 0, Reg.RTE_TBL_W.PORT2.get bank c 0,
        Reg.RTE_TBL_W.PORT3.get bank c 0].take (Reg.RTE_TBL_W.COUNT.get bank c 0),
      count := Reg.RTE_TBL_W.COUNT.get bank c 0, leaves := decide (Reg.RTE_TBL_W.LEAVES.get bank c 0 = 1),
      detourEn := decide (Reg.RTE_TBL_W.DETOUR_EN.get bank c 0 = 1), detour := Reg.RTE_TBL_W.DETOUR.get bank c 0 }
  | 2 =>
    { ports := [Reg.RTE_TBL_V.PORT0.get bank c 0, Reg.RTE_TBL_V.PORT1.get bank c 0, Reg.RTE_TBL_V.PORT2.get bank c 0,
        Reg.RTE_TBL_V.PORT3.get bank c 0].take (Reg.RTE_TBL_V.COUNT.get bank c 0),
      count := Reg.RTE_TBL_V.COUNT.get bank c 0, leaves := decide (Reg.RTE_TBL_V.LEAVES.get bank c 0 = 1),
      detourEn := decide (Reg.RTE_TBL_V.DETOUR_EN.get bank c 0 = 1), detour := Reg.RTE_TBL_V.DETOUR.get bank c 0 }
  | _ =>
    { ports := [Reg.RTE_TBL_U.PORT0.get bank c 0, Reg.RTE_TBL_U.PORT1.get bank c 0, Reg.RTE_TBL_U.PORT2.get bank c 0,
        Reg.RTE_TBL_U.PORT3.get bank c 0].take (Reg.RTE_TBL_U.COUNT.get bank c 0),
      count := Reg.RTE_TBL_U.COUNT.get bank c 0, leaves := decide (Reg.RTE_TBL_U.LEAVES.get bank c 0 = 1),
      detourEn := decide (Reg.RTE_TBL_U.DETOUR_EN.get bank c 0 = 1), detour := Reg.RTE_TBL_U.DETOUR.get bank c 0 }

/-- Entries of an axis table. -/
def axisEntries (axis : Nat) : Nat :=
  match axis with
  | 3 => 32
  | 2 => 16
  | _ => 4

/-- Whether every bit of an axis entry is 0. -/
def axisEntryEmpty (bank : SMap Nat) (axis c : Nat) : Bool :=
  let base := match axis with
    | 3 => Reg.RTE_TBL_W.PORT0.off + 8 * c
    | 2 => Reg.RTE_TBL_V.PORT0.off + 8 * c
    | _ => Reg.RTE_TBL_U.PORT0.off + 8 * c
  bank.all (fun e => decide (keyOffset e.1 ≠ base))

/-- The staging bank (R391): the table registers as written. -/
def Field.staging (F : Field) : SMap Nat :=
  F.regs.filter (fun e => decide (0x40400 ≤ keyOffset e.1) && decide (keyOffset e.1 < 0x405C0))

def State.bank (s : State) (f : FieldId) : SMap Nat := (s.field f).router.active

/-! ### Usable ports and the pick (R363, R368, R369) -/

/-- Whether a listed port is usable at a router for an entry (R368). -/
def State.portUsable (s : State) (f : FieldId) (axis c p : Nat) : Bool :=
  let (g, n) := portAt p
  let (a, d, _) := s.effective g n
  decide (s.link g n = lsActive) && s.portAdmitted g n && decide (a = axis) && decide (d = c) &&
    (decide (g = f) || (s.d2dHop f g).isSome)

/-- The usable ports of an axis entry, in slot order. -/
def State.usablePorts (s : State) (f : FieldId) (axis c : Nat) : List Nat :=
  (axisEntry (s.bank f) axis c).ports.filter (s.portUsable f axis c)

/-- pick of R369, among usable ports. -/
def pickPort (f : FieldId) (p : Packet) (ports : List Nat) : Nat :=
  let own := ports.filter (fun q => decide ((portAt q).1 = f))
  let l := if own = [] then ports else own
  let x0 := trunc 32 (p.key >>> 7) ^^^ trunc 32 (p.dst <<< 16) ^^^ trunc 32 (p.key >>> 39)
  let x1 := trunc 32 (x0 * 0x9E3779B1)
  let x2 := x1 ^^^ (x1 >>> 16)
  nth l (x2 % l.length)

/-! ### Route computation (R370) -/

/-- What a router does with a packet: drops it for want of a route on an axis, delivers it, sends it on a
port of its own, or over the ring. -/
inductive Hop where
  | drop (axis : Nat)
  | deliver
  | port (n : PortId)
  | d2d (g : FieldId)
  deriving DecidableEq, Repr

/-- A packet on its channel, as a router holds it. -/
structure Routed where
  pkt : Packet
  vc : Nat
  deriving DecidableEq, Repr

/-- The VC6 stage of a first hop on an axis; the stage after a minimal hop. -/
def firstStage (axis : Nat) : Nat := match axis with | 3 => 1 | 2 => 3 | _ => 5
def afterStage (vc axis : Nat) : Nat :=
  if vc = 6 then firstStage axis else match axis with | 3 => 1 | 2 => 2 | _ => 3

/-- to_vc6 of R370. -/
def Routed.toVc6 (r : Routed) : Routed :=
  if r.vc = 6 then r else { pkt := { r.pkt with stage := 2 * r.pkt.stage }, vc := 6 }

/-- via of R370. -/
def State.routeVia (s : State) (f : FieldId) (r : Routed) (p st : Nat) : Routed × Hop :=
  let (g, n) := portAt p
  if g = f then ({ r with pkt := { r.pkt with stage := st, exitV := false } }, .port n)
  else
    match s.d2dHop f g with
    | some h => ({ r with pkt := { r.pkt with exit := p, exitV := true } }, .d2d h)
    | none => (r, .drop 0)

/-- to_field of R370. -/
def State.routeToField (s : State) (f g : FieldId) (r : Routed) : Routed × Hop :=
  let bank := s.bank f
  match s.d2dHop f g with
  | some h =>
    (if Reg.RTE_TBL_F.LEAVES.get bank g 0 = 1 then r.toVc6 else r, .d2d h)
  | none =>
    if Reg.RTE_TBL_F.ESC_EN.get bank g 0 = 1 ∧ r.pkt.stage ≤ 6 then
      let r1 := r.toVc6
      let ps := s.usablePorts f 1 (Reg.RTE_TBL_F.ESC_U.get bank g 0)
      if ps = [] then (r1, .drop 0) else s.routeVia f r1 (pickPort f r1.pkt ps) 7
    else (r, .drop 0)

/-- The far field of a port's effective neighbour. -/
def State.farField (s : State) (p : Nat) : Nat := (s.effective (portAt p).1 (portAt p).2).2.2 / 16

/-- next_hop of R370. -/
def State.nextHop (s : State) (f : FieldId) (r : Routed) : Routed × Hop :=
  let p := r.pkt
  let me := s.node f
  if p.dst ≥ 0x2000 then (r, .drop 0)
  else if p.dst = me then (r, .deliver)
  else
    match [3, 2, 1].find? (fun a => nodeCoord p.dst a ≠ nodeCoord me a) with
    | none => s.routeToField f (fieldAt p.dst) r
    | some a =>
      let c := nodeCoord p.dst a
      let e := axisEntry (s.bank f) a c
      let us := s.usablePorts f a c
      if r.vc = 6 ∧ p.stage = 7 then
        let back := us.filter (fun q => decide (s.farField q = p.dst % 4))
        if back = [] then (r, .drop a) else s.routeVia f r (pickPort f p back) 8
      else if r.vc = 6 ∧ p.stage = firstStage a then
        if us = [] then (r, .drop a) else s.routeVia f r (pickPort f p us) (firstStage a + 1)
      else if p.exitV ∧ p.exit ∈ us then s.routeVia f r p.exit (afterStage r.vc a)
      else if us ≠ [] then
        let r1 := if e.leaves then r.toVc6 else r
        s.routeVia f r1 (pickPort f r1.pkt us) (afterStage r1.vc a)
      else
        let ds := s.usablePorts f a e.detour
        if e.detourEn && decide (ds ≠ []) then
          let r1 := r.toVc6
          s.routeVia f r1 (pickPort f r1.pkt ds) (firstStage a)
        else (r, .drop a)

/-- The hop of a packet before the first seal (R382): nothing but VC0 management packets, and those to an adjacent node only,
over the die-to-die link or port that leads there. -/
def State.unsealedHop (s : State) (f : FieldId) (r : Routed) : Routed × Hop :=
  let p := r.pkt
  if p.dst ≥ 0x2000 then (r, .drop 0)
  else if p.dst = s.node f then (r, .deliver)
  else if r.vc ≠ 0 ∨ p.allot ≠ mgmtAllot then (r, .drop 0)
  else if nodePkg p.dst = s.pkgNode then
    let g := fieldAt p.dst
    if s.d2dJoined f g then (r, .d2d g) else (r, .drop 0)
  else
    match (List.range 16).find? (fun k =>
      let n : PortId := (BitVec.ofNat 4 k).toFin
      decide (s.link f n = lsActive) && s.portAdmitted f n && decide (s.effPkg f n = some (nodePkg p.dst)) &&
        decide (s.farField (16 * f + k) = p.dst % 4)) with
    | some k => s.routeVia f r (16 * f + k) (afterStage 0 ((axesDiffer (nodePkg p.dst) s.pkgNode).headD 0))
    | none => (r, .drop 0)

/-! ### Drops, transit, delivery (R371, R379, R381) -/

/-- Keys of the once-per-millisecond limit of a field's routing events. -/
def limNoroute : Nat := 1
def limTransit : Nat := 2
def limForeign : Nat := 3

/-- A multicast copy dropped here counts in MCAST_DROP too (R377). -/
def State.mcastDrop (s : State) (f : FieldId) (p : Packet) : State :=
  if pktRemote p && decide ((rhOf p).kind = kMcastPut) then s.fcount f Reg.RTE_DROP_CNT.MCAST_DROP else s

def State.dropNoroute (s : State) (f : FieldId) (p : Packet) (axis : Nat) : State :=
  ((s.fcount f Reg.RTE_DROP_CNT.NOROUTE).mcastDrop f p).raiseLimited f limNoroute Ev.RTE_NOROUTE
    [(2, p.dst), (1, axis)]
def State.dropTransit (s : State) (f : FieldId) (p : Packet) (egress : Nat) : State :=
  ((s.fcount f Reg.RTE_DROP_CNT.TRANSIT).mcastDrop f p).raiseLimited f limTransit Ev.RTE_TRANSIT_REFUSED
    [(2, p.allot), (1, egress)]
def State.dropForeign (s : State) (f : FieldId) (p : Packet) : State :=
  ((s.fcount f Reg.RTE_DROP_CNT.FOREIGN).mcastDrop f p).raiseLimited f limForeign Ev.RTE_FOREIGN_DROP
    [(2, p.allot), (2, p.src)]

def State.allot (s : State) (f : FieldId) : Nat := s.freg f Reg.FLD_ALLOT.ID

/-- Whether a router may forward a packet on link l (R381). -/
def State.transitOk (s : State) (f : FieldId) (r : Routed) (l : Nat) : Bool :=
  let p := r.pkt
  if p.allot = mgmtAllot ∨ p.allot = s.allot f then true
  else
    decide (r.vc = 6) && bit (s.freg f Reg.RTE_TRANSIT_CTL.PORTS) l &&
      (decide (s.freg f Reg.RTE_TRANSIT_CTL.ANY = 1) ||
        (List.range 8).any (fun i => decide (s.freg f Reg.RTE_TRANSIT_IDS.VALID 0 i = 1) &&
          decide (s.freg f Reg.RTE_TRANSIT_IDS.ID 0 i = p.allot)))

/-- Whether a packet may be delivered into a field (R379): one with the management tag goes to the management and tally
endpoints only, whose packets are those of VC0 (R378). -/
def State.deliverOk (s : State) (f : FieldId) (p : Packet) : Bool :=
  (decide (p.allot = mgmtAllot) && decide (p.cls = 0)) || (decide (p.allot ≠ mgmtAllot) && decide (p.allot = s.allot f) && decide (p.allot ≠ 0))

/-- A packet is delivered: it waits for its endpoint, or is dropped as foreign. A remote packet that breaks
R404 is discarded, and counted on the port it came in by; so is a sheaf packet of reserved KIND (R467). -/
def State.deliver (s : State) (f : FieldId) (p : Packet) (ingress : Option PortId) : State :=
  if !s.deliverOk f p then s.dropForeign f p
  else if pktRemote p && decide (p.allot ≠ mgmtAllot) && !rhWellFormed p then
    match ingress with
    | some n => s.protoErr f n 0
    | none => s
  else if p.cls = 1 ∧ shfKnown p = false then s.fcount f Reg.SHF_STAT.PROTO_ERR
  else s.updRouter f (fun R => { R with inbox := R.inbox ++ [p] })

/-- The packet a slot leaves as: the one it holds, or the combined one (R406, R427). -/
def CombSlot.leave (x : CombSlot) : Packet :=
  if x.contribs.length < 2 then x.pkt
  else
    let h := rhOf x.pkt
    let g : RHdr := { rhKind kPutReduceComb with typ := h.typ, contrib := x.contribs.length }
    { x.pkt with body := rhBytes g ++ combRecordBytes x.contribs ++ x.accs.flatMap LongAcc.image }

/-! ### Sending (R370, R374) -/

/-- The number a field's receiver gives the link from a neighbour (R385). -/
def d2dSide (f g : FieldId) : Nat := if g.val = f.val ^^^ 1 then 16 else 17

/-- The neighbour a die-to-die link leads to. -/
def d2dNext (f : FieldId) (side : Nat) : FieldId := fieldAt (f.val ^^^ (if side = 16 then 1 else 2))

/-- Key of a die-to-die queue: link, channel, stage (R373). -/
def d2dKey (link vc stage : Nat) : Nat := (link * 8 + vc) * 16 + stage

/-- A packet's bytes wait at a port's transmitter. -/
def State.portQueue (s : State) (f : FieldId) (n : PortId) (vc : Nat) (p : Packet) (combined : Bool := false) : State :=
  s.updPort f n (fun P => { P with
    txq := SMap.set P.txq [] vc (SMap.get P.txq [] vc ++ [⟨true, combined, pktBytes p⟩]) })

/-- A packet's bytes wait at a die-to-die transmitter, in the class of its channel and stage (R373). -/
def State.d2dQueue (s : State) (f : FieldId) (side vc : Nat) (p : Packet) (combined : Bool := false) : State :=
  let k := d2dKey side vc p.stage
  s.updRouter f (fun R => { R with d2dtx := SMap.set R.d2dtx [] k (SMap.get R.d2dtx [] k ++ [⟨true, combined, pktBytes p⟩]) })

/-- A packet leaves on a port. -/
def State.portSend (s : State) (f : FieldId) (n : PortId) (r : Routed) : State :=
  if !s.transitOk f r n then s.dropTransit f r.pkt n else s.portQueue f n r.vc r.pkt

/-- A packet leaves for an adjacent field. -/
def State.d2dSend (s : State) (f g : FieldId) (r : Routed) : State :=
  let l := d2dSide f g
  if !s.transitOk f r l then s.dropTransit f r.pkt l else s.d2dQueue f l r.vc r.pkt

/-- The way of a packet: by the tables in force, or before a seal to adjacent packages only (R366 to R372, R378). -/
def State.hop (s : State) (f : FieldId) (r : Routed) : Routed × Hop :=
  if s.freg f Reg.RTE_TABLE_STATUS.SEALED = 1 then s.nextHop f r else s.unsealedHop f r

/-- A router routes one packet. -/
def State.route (s : State) (f : FieldId) (r : Routed) (ingress : Option PortId) : State :=
  let (r1, hop) := s.hop f r
  match hop with
  | .drop a => s.dropNoroute f r.pkt a
  | .deliver => s.deliver f r1.pkt ingress
  | .port n => s.portSend f n r1
  | .d2d g => s.d2dSend f g r1

/-- The members of a line multicast, in ascending coordinate order (R377). -/
def State.mcastMembers (s : State) (f : FieldId) (axis mask : Nat) : List Nat :=
  (List.range (s.axisSize f axis)).filter (bit mask)

/-! ### Flit slots (R334, R427, R674) -/

/-- A flit slot of a port. -/
def State.portSlot (s : State) (f : FieldId) (n : PortId) : State :=
  if s.link f n ≠ lsActive ∨ (s.port f n).stop ≠ .none ∨ s.portLit f n = false then s
  else (s.slotGain f n).portFlit f n

/-- The stages a channel has classes for (R373). -/
def stagesOf (vc : Nat) : Nat := if vc = 6 then 9 else 4

/-- Whether the receiving field holds a free buffer for a class (R373, R674): a class has at least 8, how many more the
implementation says. The router takes the flits of a packet as they come, so those of a packet that is still arriving with
none whole before it occupy none. -/
def d2dRoom (q : List BufFlit) : Bool :=
  decide (q.length < 8) || decide (q.length < 8 + Config.d2dMoreBuffers) ||
    decide (pktParse (q.flatMap (fun b => b.data)) = none)

/-- Whether a class has payload waiting and the receiving field a buffer for it. -/
def State.d2dElig (s : State) (f : FieldId) (side vc stage : Nat) : Bool :=
  let g := d2dNext f side
  decide (SMap.get (s.field f).router.d2dtx [] (d2dKey side vc stage) ≠ []) &&
    d2dRoom (SMap.get (s.field g).router.d2dq [] (d2dKey (d2dSide g f) vc stage))

/-- A class with packets and no buffer for them: those that may combine enter slots (R427). -/
def State.d2dStall (s : State) (f : FieldId) (side vc stage : Nat) : State :=
  let k := d2dKey side vc stage
  if decide (SMap.get (s.field f).router.d2dtx [] k ≠ []) && !s.d2dElig f side vc stage then
    let (t, q) := s.combWaiting f side vc (SMap.get (s.field f).router.d2dtx [] k)
    t.updRouter f (fun R => { R with d2dtx := SMap.set R.d2dtx [] k q })
  else s

/-- The class of a channel that takes the slot: round robin from the class after the one served last (R674). -/
def State.d2dClass (s : State) (f : FieldId) (side vc : Nat) : Option Nat :=
  let n := stagesOf vc
  let last := SMap.get (s.field f).router.d2dlast (n - 1) (side * 8 + vc)
  ((List.range n).map (fun i => (last + 1 + i) % n)).find? (s.d2dElig f side vc)

/-- A flit of a class crosses the link. -/
def State.d2dFlit (s : State) (f : FieldId) (side vc stage : Nat) : State :=
  let g := d2dNext f side
  let k := d2dKey side vc stage
  let k' := d2dKey (d2dSide g f) vc stage
  let q := s.beaconsStamp f (SMap.get (s.field f).router.d2dtx [] k)
  let (data, _, rest) := fillFlit 64 q [] none
  let s1 := (s.beaconsSent f side q rest).updRouter f (fun R => { R with
    d2dtx := SMap.set R.d2dtx [] k rest, d2dlast := SMap.insert R.d2dlast (side * 8 + vc) stage })
  s1.updRouter g (fun R => { R with d2dq := SMap.set R.d2dq [] k' (SMap.get R.d2dq [] k' ++ [⟨false, data, s.stamp g⟩]) })

/-- Bytes of a stream taken from flit buffers: the buffers left, and those drained. -/
def bufDrop : Nat → List BufFlit → List BufFlit × List BufFlit
  | _, [] => ([], [])
  | n, b :: bs =>
    if b.data.length ≤ n then
      let (l, d) := bufDrop (n - b.data.length) bs
      (l, b :: d)
    else ({ b with data := b.data.drop n } :: bs, [])

/-- The arrival stamp of the head packet of an input. -/
def State.headStamp (s : State) (f : FieldId) (link vc stage : Nat) : Nat :=
  let q := if link < 16 then SMap.get (s.port f (BitVec.ofNat 4 link).toFin).rxq [] vc
    else SMap.get (s.field f).router.d2dq [] (d2dKey link vc stage)
  (q.head?.map (fun b => b.at_)).getD 0

/-- The head packet of an input, taken from it: ports 0 to 15, 16 and 17 the die-to-die links, 18 what
this field issues. -/
def State.takeHead (s : State) (f : FieldId) (link vc stage : Nat) : Option (State × Packet) :=
  if link < 16 then
    let n : PortId := (BitVec.ofNat 4 link).toFin
    let q := SMap.get (s.port f n).rxq [] vc
    match pktParse (q.flatMap (fun b => b.data)) with
    | none => none
    | some (p, len) =>
      let (left, drained) := bufDrop len q
      some (s.updPort f n (fun P => { P with
        rxq := SMap.set P.rxq [] vc left, freeing := P.freeing ++ drained.map (fun b => vc * 2 + b2n b.pool) }), p)
  else if link < 18 then
    let k := d2dKey link vc stage
    let q := SMap.get (s.field f).router.d2dq [] k
    match pktParse (q.flatMap (fun b => b.data)) with
    | none => none
    | some (p, len) => some (s.updRouter f (fun R => { R with d2dq := SMap.set R.d2dq [] k (bufDrop len q).1 }), p)
  else
    match SMap.get (s.field f).router.issued [] vc with
    | [] => none
    | p :: ps => some (s.updRouter f (fun R => { R with issued := SMap.set R.issued [] vc ps }), p)

/-- ROUTE_PACKET (R370, R377): the router of field f routes the head packet of one input. -/
def execRoutePacket (f : FieldId) (link : Fin 19) (vc : Fin 8) (stage : Fin 9) (s : State) : Result := s.inRim f <|
  match s.takeHead f link vc stage with
  | none => .next s
  | some (s0, p) =>
    let s1 := s0.beaconCame f link p (s.headStamp f link vc stage)
    if link.val = 18 ∧ p.mcast = true then
      .next (s1.updRouter f (fun R => { R with mcasts := R.mcasts ++ [(p, s1.mcastMembers f p.maxis (rhOf p).mask)] }))
    else
      finish (s1.route f { pkt := p, vc := vc } (if link.val < 16 then some (BitVec.ofNat 4 link).toFin else none))

/-- The copy a line multicast makes for a member (R377). -/
def mcastCopyOf (p : Packet) (c : Nat) : Packet :=
  { p with dst := nodeWith p.dst p.maxis c, mcast := false, maxis := 0,
           body := leBytes 4 0 ++ p.body.drop 4 }

/-- MCAST_COPY (R377): the next copy of the oldest multicast, on VC4. -/
def execMcastCopy (f : FieldId) (s : State) : Result := s.inRim f <|
  match (s.field f).router.mcasts with
  | [] => .next s
  | (_, []) :: rest => .next (s.updRouter f (fun R => { R with mcasts := rest }))
  | (p, c :: cs) :: rest =>
    let s1 := s.updRouter f (fun R => { R with mcasts := if cs = [] then rest else (p, cs) :: rest })
    finish (s1.route f { pkt := mcastCopyOf p c, vc := 4 } none)

/-- COMB_SLOT_SEND (R427): a slot leaves on credit, at 8 contributors, or when it has waited 2 µs. -/
def execCombSlotSend (f : FieldId) (slot : Nat) (aged : Bool) (s : State) : Result := s.inRim f <|
  match SMap.find (s.field f).router.comb slot with
  | none => .next s
  | some x =>
    let n : PortId := (BitVec.ofNat 4 x.egress).toFin
    let credit := if x.egress < 16 then s.vcCredit f n x.vc
      else
        let g := d2dNext f x.egress
        d2dRoom (SMap.get (s.field g).router.d2dq [] (d2dKey (d2dSide g f) x.vc x.pkt.stage))
    if credit || decide (x.contribs.length = 8) || aged then
      let s1 := s.updRouter f (fun R => { R with comb := SMap.erase R.comb slot })
      let s2 := if aged && decide (2 ≤ x.contribs.length) then s1.fcount f Reg.RTE_COMB_STAT.AGED else s1
      .next (if x.egress < 16 then s2.portQueue f n x.vc x.leave true else s2.d2dQueue f x.egress x.vc x.leave true)
    else .next s

/-- Packets waiting for a die-to-die link that is down are routed anew at the router that holds them, and what had left of a
packet is lost with the link (R371, R374). -/
def State.d2dRepath (s : State) (f : FieldId) (side : Nat) : State :=
  let g := d2dNext f side
  let mine := fun (e : Nat × List TxPacket) => decide (e.1 / 128 = side)
  let held := (s.field f).router.d2dtx.filter mine
  let s1 := s.updRouter f (fun R => { R with d2dtx := R.d2dtx.filter (fun e => !mine e) })
  let s2 := s1.updRouter g (fun R => { R with
    d2dq := R.d2dq.map (fun (k, q) => (k, if k / 128 = d2dSide g f then bufWhole q else q)) })
  held.foldl (fun t e => (e.2.filter (fun x => x.fresh)).foldl (fun t x =>
    match pktParse x.data with
    | some (p, _) => t.route f { pkt := p, vc := e.1 / 16 % 8 } none
    | none => t) t) s2

/-- A flit slot of a die-to-die link direction (R674). -/
def State.d2dSlot (s : State) (f : FieldId) (side : Nat) : State :=
  if !s.d2dJoined f (d2dNext f side) then s.d2dRepath f side
  else
    let c := s.arbCtl f
    let A := (SMap.get (s.field f).router.d2darb Arb.reset side).tokens c
    let s1 := (List.range 7).foldl (fun t v => (List.range (stagesOf v)).foldl (fun t st => t.d2dStall f side v st) t) s
    let (B, v) := A.pick c (fun v => (s1.d2dClass f side v).isSome)
    let s2 := s1.updRouter f (fun R => { R with d2darb := SMap.insert R.d2darb side B })
    match v.bind (fun v => (s1.d2dClass f side v).map (fun st => (v, st))) with
    | some (v, st) => s2.d2dFlit f side v st
    | none => s2

/-- FLIT_SLOT (R326, R328, R329, R334, R384, R674): of a port, 0 to 15, or of the die-to-die links to F(f xor 1), 16, and
F(f xor 2), 17. -/
def execFlitSlot (f : FieldId) (link : Fin 18) (s : State) : Result := s.inRim f <|
  finish (if link.val < 16 then s.portSlot f (BitVec.ofNat 4 link).toFin else s.d2dSlot f link)

/-! ### Sealing (R360, R382, R383, R686) -/

/-- A failure of the checker: code, table, index. -/
abbrev SealFail := Nat × Nat × Nat

/-- The first failure among candidates. -/
def firstFail (l : List (Bool × SealFail)) : Option SealFail := (l.find? (fun x => x.1)).map Prod.snd

/-- PLAN_INVALID (R360). -/
def State.sealPlan (s : State) (f : FieldId) : Option SealFail :=
  let size := s.axisSize f
  let hdr := decide (size 1 = 0) || decide (4 < size 1) || decide (size 2 = 0) || decide (16 < size 2) ||
    decide (size 3 = 0) || decide (32 < size 3)
  firstFail ((hdr, St.PLAN_INVALID, 4, 0) :: (List.range 16).map (fun n =>
    let a := s.freg f Reg.RTE_PLAN_PORT.AXIS n
    let c := s.freg f Reg.RTE_PLAN_PORT.COORD n
    let bad :=
      if a = 0 then decide (c ≠ 0) || decide (s.freg f Reg.RTE_PLAN_PORT.FAR_PORT n ≠ 0) ||
        decide (s.freg f Reg.RTE_PLAN_PORT.RESERVE n ≠ 0)
      else decide (size a ≤ c) || decide (c = nodeCoord s.pkgNode a)
    (bad, St.PLAN_INVALID, 4, n)))

/-- COORD_INVALID. -/
def State.sealCoord (s : State) (f : FieldId) : Option SealFail :=
  firstFail [(decide (s.hreg Reg.HUB_PKG_COORD.VALID = 0) ||
    [1, 2, 3].any (fun a => decide (s.axisSize f a ≤ nodeCoord s.pkgNode a)), St.COORD_INVALID, 5, 0)]

/-- The axis entries in table order: axis, table code, index. -/
def sealEntries : List (Nat × Nat × Nat) :=
  [(3, 0), (2, 1), (1, 2)].flatMap (fun (a, t) => (List.range (axisEntries a)).map (fun c => (a, t, c)))

/-- Whether a list holds a value twice. -/
def hasDup (l : List Nat) : Bool := decide (l.eraseDups.length ≠ l.length)

/-- ROUTE_RANGE, ROUTE_PORT_AXIS and ROUTE_DETOUR of a bank. -/
def State.sealAxes (s : State) (f : FieldId) (bank : SMap Nat) : List (Bool × SealFail) :=
  let own := nodeCoord s.pkgNode
  sealEntries.map (fun (a, t, c) =>
      let e := axisEntry bank a c
      let out := decide (s.axisSize f a ≤ c) || decide (c = own a)
      ((!axisEntryEmpty bank a c && out) || decide (4 < e.count) || hasDup e.ports, St.ROUTE_RANGE, t, c)) ++
  sealEntries.map (fun (a, t, c) =>
      ((axisEntry bank a c).ports.any (fun p =>
        let (x, d, _) := s.effective (portAt p).1 (portAt p).2
        decide (x ≠ a) || decide (d ≠ c)), St.ROUTE_PORT_AXIS, t, c)) ++
  sealEntries.map (fun (a, t, c) =>
      let e := axisEntry bank a c
      (e.detourEn && (decide (s.axisSize f a ≤ e.detour) || decide (e.detour = own a) || decide (e.detour = c) ||
        decide ((axisEntry bank a e.detour).count = 0)), St.ROUTE_DETOUR, t, c))

/-- ROUTE_D2D of a bank. -/
def State.sealD2d (s : State) (f : FieldId) (bank : SMap Nat) : List (Bool × SealFail) :=
  allFields.map (fun (g : FieldId) =>
    let next := Reg.RTE_TBL_F.NEXT.get bank g 0
    let alt := Reg.RTE_TBL_F.ALT.get bank g 0
    let hops := (d2dWalks f g).map (fun w => ((w[1]?).getD f).val)
    let bad :=
      if g = f then !bank.all (fun e => decide (keyOffset e.1 ≠ Reg.RTE_TBL_F.NEXT.off + 8 * g))
      else decide (Reg.RTE_TBL_F.VALID.get bank g 0 = 0) || decide ([next, alt] ≠ hops) ||
        (decide (Reg.RTE_TBL_F.ESC_EN.get bank g 0 = 1) &&
          (decide (s.axisSize f 1 ≤ Reg.RTE_TBL_F.ESC_U.get bank g 0) ||
            decide (Reg.RTE_TBL_F.ESC_U.get bank g 0 = nodeCoord s.pkgNode 1)))
    (bad, St.ROUTE_D2D, 3, g.val))

/-- SEAL_CONFLICT (R686). -/
def State.sealConflict (s : State) (f : FieldId) : List (Bool × SealFail) :=
  let a := s.freg f Reg.RTE_VC_WEIGHT.VC0_DIV
  let b := s.freg f Reg.RTE_VC_CTL.VC5_FLOOR_DIV
  [(decide (s.hreg Reg.TLY_PIN_CTL.ENABLE = 1) && bit (s.hreg Reg.HUB_GPIO_CLAIM.CLAIM) 7, St.SEAL_CONFLICT, 6, 0),
   (if s.freg f Reg.RTE_VC_CTL.FLOOR_EN = 1 then decide (a * b < 2 * (a + b)) else decide (a < 2),
     St.SEAL_CONFLICT, 6, 1)]

/-- The checker of R383. -/
def State.sealCheck (s : State) (f : FieldId) (bank : SMap Nat) : Option SealFail :=
  (s.sealPlan f).or ((s.sealCoord f).or
    (firstFail (s.sealAxes f bank ++ s.sealD2d f bank ++ s.sealConflict f)))

/-- EV_RTE_SEAL. -/
def State.sealEvent (s : State) (f : FieldId) (result table index : Nat) : State :=
  s.raise f Ev.RTE_SEAL [(2, result), (1, table), (1, index), (4, s.freg f Reg.RTE_TABLE_STATUS.GEN)]

/-- A checked bank becomes active. -/
def State.bankActivate (s : State) (f : FieldId) (bank : SMap Nat) : State :=
  let s1 := s.updRouter f (fun R => { R with active := bank, pendingBank := none })
  ((s1.fset f Reg.RTE_TABLE_STATUS.PENDING 0).fwrap f Reg.RTE_TABLE_STATUS.GEN).sealEvent f St.OK 0 0

/-- RESULT, TABLE and INDEX of a seal. -/
def State.sealStatus (s : State) (f : FieldId) (result table index : Nat) : State :=
  ((s.fset f Reg.RTE_TABLE_STATUS.RESULT result).fset f Reg.RTE_TABLE_STATUS.TABLE table).fset f
    Reg.RTE_TABLE_STATUS.INDEX index

/-- The seal command (R382). -/
def State.seal (s : State) (f : FieldId) : State :=
  if (s.field f).hubLost then s
  else if s.freg f Reg.RTE_TABLE_STATUS.PENDING = 1 then s.fset f Reg.RTE_TABLE_STATUS.RESULT St.BUSY
  else
    let bank := (s.field f).staging
    match s.sealCheck f bank with
    | some (code, t, i) => (s.sealStatus f code t i).sealEvent f code t i
    | none =>
      let s1 := (s.sealStatus f St.OK 0 0).fset f Reg.RTE_TABLE_STATUS.SEALED 1
      if s1.freg f Reg.RTE_TABLE_CTL.AT_MARK = 1 then
        (s1.updRouter f (fun R => { R with pendingBank := some bank })).fset f Reg.RTE_TABLE_STATUS.PENDING 1
      else s1.bankActivate f bank

/-- SEAL (R382, R383). -/
def execSeal (f : FieldId) (s : State) : Result := s.inRim f <| finish (s.seal f)

/-! ### Congestion maps (R384) -/

/-- The bucket of an occupancy. -/
def congBucket (n : Nat) : Nat :=
  if n = 0 then 0 else if n < 8 then 1 else if n < 32 then 2 else if n < 128 then 3 else if n < 256 then 4
  else if n < 1024 then 5 else if n < 4096 then 6 else 7

/-- Flit buffers a channel of a link holds. -/
def State.occupancy (s : State) (f : FieldId) (link vc : Nat) : Nat :=
  if link < 16 then (SMap.get (s.port f (BitVec.ofNat 4 link).toFin).rxq [] vc).length
  else
    ((List.range 9).map (fun st => (SMap.get (s.field f).router.d2dq [] (d2dKey link vc st)).length)).foldl (· + ·) 0

/-- One sample of one channel. -/
def State.congOne (s : State) (f : FieldId) (link vc : Nat) : State :=
  let n := s.occupancy f link vc
  let k := (link * 8 + vc) * 16 + 10
  (s.congCount f link vc (congBucket n) 1).updRouter f (fun R => { R with
    cong := SMap.set R.cong 0 k (max (SMap.get R.cong 0 k) (min n 65535)) })

/-- CONG_SAMPLE (R384). -/
def execCongSample (f : FieldId) (s : State) : Result := s.inRim f <|
  if s.freg f Reg.RTE_CONG_CTL.ENABLE = 0 then .next s
  else .next ((List.range 18).foldl (fun t l => (List.range 8).foldl (fun u v => u.congOne f l v) t) s)

/-- CONG_WINDOW_END (R384, R385): the window ends where the tally has crossed a multiple of its length, since it began or since the length or ENABLE was last set. -/
def execCongWindowEnd (f : FieldId) (s : State) : Result := s.inRim f <|
  let t := (s.field f).tally.tInt
  let w := 2 ^ s.freg f Reg.RTE_CONG_CTL.WINDOW_LOG
  if s.freg f Reg.RTE_CONG_CTL.ENABLE = 0 ∨ t / w = (s.field f).router.congSeen / w then .next s
  else
    .next (s.updRouter f (fun R => { R with
      snap := R.cong, snapStart := R.congStart, snapEnd := t, snapSeq := (R.snapSeq + 1) % 2 ^ 32, cong := [],
      congStart := t, congSeen := t }))

end Sys2Proof.Machine
end

