-- ==== Sys2Proof/Machine/Tile.lean ====
section
/-! DEFINITION. Issue of tile-extension instructions (R188 to R225): the refusal checks and claims
of TMM (R210, R211), TVEC (R212 to R218) and TXFER (R166 to R168, R220), the queue entry each
leaves, and the waits of TSYNC and TWAIT. -/

namespace Sys2Proof.Machine

open Sys2Proof

/-! ### TMM (R203 to R211) -/

/-- Last address of the plot store plus one. -/
def storeEnd : Nat := 0x400000

/-- Element bytes one row or column reads (R207): e of K elements. -/
def operandBytes (f : Fmt) (quant : Bool) (k : Nat) : Nat := if quant then 2 * k else f.bytes k

/-- Side bytes one row or column reads (R207). -/
def operandSide (f : Fmt) (quant : Bool) (k : Nat) : Nat :=
  if f.block && !quant then f.sideBytes * ((k + 31) / 32) else 0

/-- The selector and class of the load a KEEP pass issued now would use (R719): that of the last
FRESH pass in the queue, or of the tines; none before the first load after a reset. -/
def Plot.loadAtIssue (P : Plot) : Option (Nat × Option PassClass) :=
  let fresh := P.queue.filter (fun e => match e.op with
    | .tmm d _ => tmmFresh d && !tmmDegenerate d
    | _ => false)
  match fresh.getLast? with
  | some e => match e.op with
    | .tmm d _ =>
      let sel := dfield d 29 1 % 32
      some (sel, match fmtOf (dfield d 28 1 % 32), fmtOf sel with
        | some a, some w => passClass a w
        | _, _ => none)
    | _ => none
  | none =>
    match P.tine.shadow, P.tine.active with
    | some w, _ => some (w.sel, some w.cls)
    | none, some w => some (w.sel, some w.cls)
    | none, none => none

/-- The formats and class of a tile operation (R85, R719): activation format, weight selector,
weight format and class; none where the pair is refused. -/
def tmmPair (load : Option (Nat × Option PassClass)) (d : Nat) : Option (Fmt × Nat × Fmt × PassClass) :=
  let own := dfield d 29 1 % 32
  let sel := if tmmFresh d then own else (load.map Prod.fst).getD own
  match fmtOf (dfield d 28 1 % 32), fmtOf sel with
  | some a, some w =>
    match passClass a w with
    | none => none
    | some c =>
      match tmmFresh d, load with
      | false, some (_, lc) => if lc = some c then some (a, sel, w, c) else none
      | _, _ => some (a, sel, w, c)
  | _, _ => none

def tmmActQuant (d : Nat) : Bool := bit (dfield d 28 1) 5
def tmmWtQuant (d : Nat) : Bool := tmmFresh d && bit (dfield d 29 1) 5

/-- The spans a non-degenerate TMM reads (R207, R211), as (first byte, last byte): activation
elements, activation side, weight elements, weight side. -/
def tmmSpans (d md : Nat) (a w : Fmt) : List (Nat × Nat) :=
  let k := tmmK d
  let off := bits md 0 12
  let span := fun (base stride first rows len : Nat) =>
    if len = 0 then [] else [(base + first * stride, base + (first + rows - 1) * stride + len - 1)]
  let qa := tmmActQuant d
  let qw := tmmWtQuant d
  span (dfield d 0 4) (dfield d 16 2) off (tmmM d) (operandBytes a qa k) ++
  span (dfield d 8 4) (dfield d 20 2) off (tmmM d) (operandSide a qa k) ++
  (if tmmFresh d then
    span (dfield d 4 4) (dfield d 18 2) 0 (tmmN d) (operandBytes w qw k) ++
    span (dfield d 12 4) (dfield d 22 2) 0 (tmmN d) (operandSide w qw k)
   else [])

/-- Bits that R203 to R205 require to be 0 in the fields a TMM uses. -/
def tmmReservedBits (d md : Nat) : Bool :=
  decide (bits (dfield d 24 2) 12 4 ≠ 0) || decide (bits (dfield d 28 1) 6 2 ≠ 0) ||
  (tmmFresh d && decide (bits (dfield d 29 1) 6 2 ≠ 0)) || decide (bits (dfield d 30 2) 9 7 ≠ 0) ||
  bit (dfield d 32 2) 3 || decide (bits (dfield d 32 2) 6 10 ≠ 0) || decide (dfield d 60 4 ≠ 0) ||
  decide (bits md 21 11 ≠ 0)

/-- The refusal of a TMM, in the order of R195 (R210); none when it is accepted. DESIGN CHOICE (log entry 39): R210's "for a
non-degenerate operation" is read over the whole of case 5, so an odd QUANT base or stride refuses no degenerate operation. -/
def tmmRefusal (load : Option (Nat × Option PassClass)) (d md : Nat) : Option Nat :=
  if tmmReservedBits d md then some St.DESCRIPTOR_RESERVED
  else
    match tmmPair load d with
    | none => some St.FORMAT_RESERVED
    | some (a, _, w, c) =>
      if (tmmActQuant d && (decide (8 < a.elem.width) || c = .w16)) ||
          (tmmWtQuant d && (decide (8 < w.elem.width) || c = .w16)) then some St.FORMAT_RESERVED
      else if bits (dfield d 32 2) 4 2 = 3 && (tmmActQuant d || tmmWtQuant d) then some St.ROUND_RESERVED
      else if 2048 < tmmM d ∨ c.nMax < tmmN d ∨ c.kMax < tmmK d then some St.SHAPE_RANGE
      else if tmmDegenerate d then none
      else if (tmmSpans d md a w).any (fun s => decide (storeEnd ≤ s.2)) then some St.OPERAND_RANGE
      else if (tmmActQuant d && (bit (dfield d 0 4) 0 || bit (dfield d 16 2) 0)) ||
          (tmmWtQuant d && (bit (dfield d 4 4) 0 || bit (dfield d 18 2) 0)) then some St.OPERAND_RANGE
      else none

/-- A claim over bytes lo to hi, rounded outward to lines. -/
def claimOf (write : Bool) (lo hi : Nat) : Claim := ⟨write, claimLine lo, claimLine hi⟩

/-- The claims of a TMM (R211). -/
def tmmClaims (load : Option (Nat × Option PassClass)) (d md : Nat) : List Claim :=
  if tmmDegenerate d then []
  else match tmmPair load d with
    | none => []
    | some (a, _, w, _) => (tmmSpans d md a w).map (fun s => claimOf false s.1 s.2)

/-! ### TVEC (R212 to R218) -/

def tvVop (d : Nat) : Nat := dfield d 0 1
def tvIn (d : Nat) : Nat := dfield d 1 1 % 32
def tvOut (d : Nat) : Nat := dfield d 2 1 % 32
def tvCtrl (d : Nat) : Nat := dfield d 3 1
def tvMode (d : Nat) : Nat := bits (tvCtrl d) 0 2
def tvNonsat (d : Nat) : Bool := bit (tvCtrl d) 2
def tvBScalar (d : Nat) : Bool := bit (tvCtrl d) 3
def tvPred (d : Nat) : Nat := bits (tvCtrl d) 4 3
def tvCount (d : Nat) : Nat := dfield d 20 4
def tvJ0 (md : Nat) : Nat := bits md 0 23

/-- The VOP codes of R213. -/
def vopCodes : List Nat :=
  [0, 1, 2, 3, 4, 5, 6, 7, 8, 9, 0xA, 0x10, 0x11, 0x12, 0x13, 0x20, 0x21, 0x22, 0x23, 0x24, 0x25, 0x26,
   0x27, 0x28, 0x29, 0x2A, 0x30, 0x31, 0x32, 0x33, 0x38, 0x39]

def vopReadsA (v : Nat) : Bool := decide (v ≠ 0)
def vopReadsB (v : Nat) : Bool :=
  decide (v ∈ [1, 2, 3, 4, 5, 6, 9, 0xA]) || (decide (0x20 ≤ v) && decide (v ≤ 0x2A))
def vopReadsC (v : Nat) : Bool := decide (v = 4) || decide (v = 0xA)
def vopUsesMode (v : Nat) : Bool := decide (v ∈ [0x30, 0x31, 0x33, 0x39])
def vopUsesOvf (v : Nat) : Bool :=
  decide (v ∈ [1, 2, 3, 4, 5, 6, 7, 8, 0x10, 0x11, 0x12, 0x13]) || vopUsesMode v
def vopUsesPred (v : Nat) : Bool := decide (v = 9) || decide (v = 0x2A)
/-- One result for the whole operation (R214). -/
def vopReduces (v : Nat) : Bool := decide (v = 0x38) || decide (v = 0x39)
def vopWritesDst (v : Nat) : Bool := decide (v ≠ 0) && decide (v ≠ 0x32)
def vopWritesSide (v : Nat) : Bool := decide (v = 0x31) || decide (v = 0x32)

def fmtScalar (f : Fmt) (e : ElemFmt) : Bool := !f.block && decide (f.elem = e)
def fmtIsFloat32or16 (f : Fmt) : Bool := fmtScalar f fmtFP32 || fmtScalar f fmtBF16
def fmtIsInt32 (f : Fmt) : Bool := fmtScalar f fmtINT32
def fmtIsSumTerm (f : Fmt) : Bool :=
  fmtScalar f fmtFP32 || fmtScalar f fmtBF16 || fmtScalar f fmtFP16 || fmtScalar f fmtE4M3 || fmtScalar f fmtE5M2

/-- Whether FMT_IN and FMT_OUT lie in their columns of R213. -/
def vopFormats (v : Nat) (selIn selOut : Nat) : Bool :=
  if v = 0 then decide (selIn = 0) && decide (selOut = 0)
  else match fmtOf selIn, fmtOf selOut with
    | some a, some o =>
      if v ≤ 8 then fmtIsFloat32or16 a && fmtIsFloat32or16 o
      else if v = 9 then fmtIsFloat32or16 a && fmtIsInt32 o
      else if v = 0xA then (fmtIsFloat32or16 a || fmtIsInt32 a) && decide (selOut = selIn)
      else if v ≤ 0x13 then fmtIsFloat32or16 a && fmtScalar o fmtFP32
      else if v ≤ 0x2A then fmtIsInt32 a && fmtIsInt32 o
      else if v = 0x30 then !a.block && !o.block
      else if v = 0x31 ∨ v = 0x32 then fmtIsFloat32or16 a && o.block
      else if v = 0x33 then a.block && fmtScalar o fmtFP32
      else if v = 0x38 then !a.block && decide (a.elem.kind = .float) && fmtScalar o fmtFP32
      else fmtIsSumTerm a && fmtIsSumTerm o
    | _, _ => false

/-- A span of an operand: the operand's address, first byte, last byte plus one, element width, whether it is written. -/
structure VSpan where
  base : Nat
  lo : Nat
  hi : Nat
  width : Nat
  write : Bool
  side : Bool
  deriving DecidableEq, Repr

/-- The address of element j of an operand (R215). -/
def elemAddr (base width j : Nat) : Nat := base + j * width / 8

/-- The span of elements j0 to j0 + n − 1. -/
def elemSpan (base width j0 n : Nat) (write : Bool) : VSpan :=
  ⟨base, elemAddr base width j0, base + ((j0 + n) * width + 7) / 8, width, write, false⟩

/-- The span of the side bytes of the blocks that hold the elements (R215). -/
def sideSpan (base s j0 n : Nat) (write : Bool) : VSpan :=
  ⟨base, base + s * (j0 / 32), base + s * ((j0 + n + 31) / 32), 8, write, true⟩

/-- The operands of a vector operation as (base, format, first element, count, write). -/
def tvOperands (d md : Nat) : List (Nat × Fmt × Nat × Nat × Bool) :=
  let v := tvVop d
  let j0 := tvJ0 md
  let n := tvCount d
  match fmtOf (tvIn d), fmtOf (tvOut d) with
  | some a, some o =>
    (if vopReadsA v then [(dfield d 8 4, a, j0, n, false)] else []) ++
    (if vopReadsB v && !tvBScalar d then [(dfield d 12 4, a, j0, n, false)] else []) ++
    (if vopReadsC v then [(dfield d 16 4, if v = 0xA then (⟨fmtINT32, false, false⟩ : Fmt) else a, j0, n, false)] else []) ++
    (if vopWritesDst v then
      [if vopReduces v then (dfield d 4 4, o, 0, 1, true)
       else if v = 0x31 then (dfield d 4 4, o, j0, (n + 31) / 32 * 32, true)
       else (dfield d 4 4, o, j0, n, true)]
     else [])
  | _, _ => []

/-- The side arrays of a vector operation as (base, bytes per block, write). -/
def tvSides (d : Nat) : List (Nat × Nat × Bool) :=
  let v := tvVop d
  (if v = 0x33 then [(dfield d 28 4, ((fmtOf (tvIn d)).map Fmt.sideBytes).getD 0, false)] else []) ++
  (if vopWritesSide v then [(dfield d 24 4, ((fmtOf (tvOut d)).map Fmt.sideBytes).getD 0, true)] else [])

/-- Every span of a vector operation. -/
def tvSpans (d md : Nat) : List VSpan :=
  (tvOperands d md).map (fun (b, f, j, n, w) => elemSpan b f.elem.width j n w) ++
  (tvSides d).map (fun (b, s, w) => sideSpan b s (tvJ0 md) (tvCount d) w)

/-- The region of a local address: 0 the plot store, 1 + t the bin window of tine t (R147). -/
def localRegion (a : Nat) : Option Nat :=
  if a < storeEnd then some 0
  else if a < 0x440000 then some (1 + (a - 0x400000) / 0x10000)
  else none

/-- The placement rules of R215 for an element operand. -/
def operandPlaced (base : Nat) (f : Fmt) (j0 n : Nat) : Bool :=
  let w := f.elem.width
  let align := if w = 32 then 4 else if w = 16 then 2 else 1
  let sp := elemSpan base w j0 n false
  decide (j0 * w % 8 = 0) && (!f.block || decide (j0 % 32 = 0)) && decide (base % align = 0) &&
  (decide (n = 0) ||
    (match localRegion sp.lo, localRegion (sp.hi - 1) with
     | some r, some r' => decide (r = r') && (decide (r = 0) || (!f.block && decide (w = 32)))
     | _, _ => false))

/-- The placement rules of R215 for a side array. -/
def sidePlaced (sp : VSpan) (j0 n : Nat) : Bool :=
  decide (j0 % 32 = 0) && (decide (n = 0) || decide (sp.hi ≤ storeEnd))

/-- A destination that overlaps a source, and has another address than that source or another element width (R216). -/
def spansClash (sps : List VSpan) : Bool :=
  sps.any (fun x => x.write && decide (x.lo < x.hi) && sps.any (fun y => !y.write && decide (y.lo < y.hi) &&
    decide (x.lo < y.hi) && decide (y.lo < x.hi) && !(decide (x.base = y.base) && decide (x.width = y.width))))

/-- Bits that R212 and R214 require to be 0, and CTRL fields the operation does not use (R217). -/
def tvReservedBits (d md : Nat) : Bool :=
  let v := tvVop d
  decide (v ∉ vopCodes) || decide (dfield d 1 1 ≥ 32) || decide (dfield d 2 1 ≥ 32) || bit (tvCtrl d) 7 ||
  decide (dfield d 48 16 ≠ 0) || decide (bits md 23 9 ≠ 0) || decide (8388608 < tvCount d) ||
  (if vopUsesPred v then decide (5 < tvPred d) else decide (tvPred d ≠ 0)) ||
  (!vopUsesMode v && decide (tvMode d ≠ 0)) || (!vopUsesOvf v && tvNonsat d) ||
  (!vopReadsB v && tvBScalar d) ||
  (vopReadsB v && tvBScalar d && (((fmtOf (tvIn d)).map (fun f => fmtScalar f fmtBF16)).getD false) &&
    decide (dfield d 46 2 ≠ 0))

/-- The refusal of a TVEC (R217). -/
def tvecRefusal (d md : Nat) : Option Nat :=
  if tvReservedBits d md then some St.DESCRIPTOR_RESERVED
  else if !vopFormats (tvVop d) (tvIn d) (tvOut d) then some St.FORMAT_RESERVED
  else if vopUsesMode (tvVop d) && decide (tvMode d = 3) then some St.ROUND_RESERVED
  else if tvVop d = 0 then none
  else if !((tvOperands d md).all (fun (b, f, j, n, _) => operandPlaced b f j n)) ||
      !((tvSides d).all (fun (b, s, w) => sidePlaced (sideSpan b s (tvJ0 md) (tvCount d) w) (tvJ0 md) (tvCount d))) ||
      spansClash (tvSpans d md) then some St.OPERAND_RANGE
  else none

/-- The claims of a TVEC (R218): whole blocks for operands of a block format. -/
def tvecClaims (d md : Nat) : List Claim :=
  if tvVop d = 0 then []
  else
    ((tvOperands d md).map (fun ((b, f, j, n, w) : Nat × Fmt × Nat × Nat × Bool) =>
      elemSpan b f.elem.width j (if f.block then (n + 31) / 32 * 32 else n) w) ++
     (tvSides d).map (fun ((b, s, w) : Nat × Nat × Bool) => sideSpan b s (tvJ0 md) (tvCount d) w)).filterMap (fun (sp : VSpan) =>
      if sp.lo < sp.hi then some (claimOf sp.write sp.lo (sp.hi - 1)) else none)

/-! ### TXFER (R166 to R168, R219, R220) -/

def xfOp (d : Nat) : Nat := dfield d 0 1
def xfFlags (d : Nat) : Nat := dfield d 1 1
def xfNode (d : Nat) : Nat := dfield d 2 2
def xfLocal (d : Nat) : Nat := dfield d 4 4
def xfRemote (d : Nat) : Nat := dfield d 8 8
def xfRowBytes (d : Nat) : Nat := dfield d 16 4
def xfRows (d : Nat) : Nat := dfield d 20 4
def xfLocalStride (d : Nat) : Int := toSigned 32 (dfield d 24 4)
def xfRemoteStride (d : Nat) : Int := toSigned 32 (dfield d 28 4)
def xfType (d : Nat) : Nat := dfield d 34 1
def xfStream (d : Nat) : Nat := dfield d 36 4
def xfIndex (d : Nat) : Nat := dfield d 40 6
def xfOperand (d : Nat) : Nat := dfield d 48 16
def xfAtomic (d : Nat) : Bool := decide (xfOp d = 6) || decide (xfOp d = 7)

/-- Operand size of an atomic's TYPE: 8 bytes for INT64, 4 otherwise (R401). -/
def atomicBytes (ty : Nat) : Nat := if ty = 0x2C then 8 else 4

/-- The TYPE selectors an operation accepts (R166, R401). -/
def xfTypeOk (op ty : Nat) : Bool :=
  match op with
  | 4 => decide (ty ∈ [0x00, 0x01, 0x02, 0x03, 0x04])
  | 6 => decide (ty ∈ [0x00, 0x0C, 0x2C])
  | 7 => decide (ty = 0x2C)
  | _ => decide (ty = 0)

/-- OPERAND bytes an operation does not use must be 0 (R166). -/
def xfOperandOk (op operand : Nat) : Bool :=
  match op with
  | 3 => true
  | 6 => decide (operand < 2 ^ 64)
  | 7 => true
  | _ => decide (operand = 0)

/-- Whether a run of local bytes lies in the plot store, or in the bin windows (R168). -/
def localRun (a : Int) (n : Nat) : Bool :=
  decide (0 ≤ a) && (decide (a + n ≤ storeEnd) || (decide ((storeEnd : Int) ≤ a) && decide (a + n ≤ 0x440000)))

/-- Local and field address of byte 0 of row i, exactly. -/
def xfRowLocal (d i : Nat) : Int := (xfLocal d : Int) + i * xfLocalStride d
def xfRowRemote (d i : Nat) : Int := (xfRemote d : Int) + i * xfRemoteStride d

/-- Lines of a descriptor: one for an atomic with a row. -/
def xfLines (d : Nat) : Nat := if xfAtomic d then xfRows d else xfRows d * (xfRowBytes d / 128)

/-- Local and field address of line k, in issue order: row by row, ascending within a row (R169). -/
def xfLineLocal (d k : Nat) : Nat :=
  if xfAtomic d then xfLocal d
  else
    let n := xfRowBytes d / 128
    (xfRowLocal d (k / n)).toNat + 128 * (k % n)
def xfLineRemote (d k : Nat) : Nat :=
  if xfAtomic d then xfRemote d
  else
    let n := xfRowBytes d / 128
    (xfRowRemote d (k / n)).toNat + 128 * (k % n)

/-- The refusal of a TXFER: every case is DESCRIPTOR_INVALID (R168). -/
def txferRefusal (d : Nat) : Option Nat :=
  let op := xfOp d
  let rows := xfRows d
  let rb := xfRowBytes d
  let last := rows - 1
  let bad :=
    decide (7 < op) || decide (xfFlags d ≥ 4) || decide (xfRemote d ≥ 2 ^ 48) || decide (dfield d 35 1 ≠ 0) ||
    decide (dfield d 46 2 ≠ 0) || !xfOperandOk op (xfOperand d) || decide (65536 < rows) ||
    decide (rb % 128 ≠ 0) || !xfTypeOk op (xfType d) ||
    (if xfAtomic d then
      decide (rb ≠ 0) || decide (1 < rows) || decide (xfRemote d % atomicBytes (xfType d) ≠ 0) ||
      decide (xfLocal d % 8 ≠ 0) ||
      (decide (rows = 1) && (!localRun (xfLocal d) (atomicBytes (xfType d)) ||
        decide (2 ^ 48 < xfRemote d + atomicBytes (xfType d))))
     else
      decide (xfLocalStride d % 128 ≠ 0) || decide (xfRemoteStride d % 128 ≠ 0) ||
      decide (xfRemote d % 128 ≠ 0) ||
      (decide (op = 5) && (decide (xfIndex d % 4 = 0) || decide (xfIndex d ≥ 4))) ||
      (decide (0 < rows) && decide (0 < rb) &&
        (!(List.range rows).all (fun i => localRun (xfRowLocal d i) rb) ||
         decide (min (xfRowRemote d 0) (xfRowRemote d last) < 0) ||
         decide ((2 ^ 48 : Nat) < max (xfRowRemote d 0) (xfRowRemote d last) + rb))))
  if bad then some St.DESCRIPTOR_INVALID else none

/-- The claims of a TXFER (R220). -/
def txferClaims (d : Nat) : List Claim :=
  if xfRows d = 0 ∨ xfOp d = 0 then []
  else if xfAtomic d then [claimOf true (xfLocal d) (xfLocal d)]
  else if xfRowBytes d = 0 then []
  else
    let a := xfRowLocal d 0
    let b := xfRowLocal d (xfRows d - 1)
    [claimOf (decide (xfOp d = 1)) (min a b).toNat ((max a b).toNat + xfRowBytes d - 1)]

/-! ### Issue (R194, R195) -/

/-- FLD_DRIFT_CTL as an operation samples it at issue (R133). -/
def State.driftCtl (s : State) (f : FieldId) : Nat :=
  s.freg f Reg.FLD_DRIFT_CTL.SAMPLE_K + s.freg f Reg.FLD_DRIFT_CTL.TH_BUCKET * 32 +
    s.freg f Reg.FLD_DRIFT_CTL.TH_COUNT * 512

/-- A queue entry as it stands at issue (R194). -/
def State.newEntry (s : State) (f : FieldId) (p : PlotId) (op : QOp) (int : Bool) (claims : List Claim) :
    QEntry where
  qsn := (s.plot f p).nextQsn
  tag := op.tag
  int := int
  op := op
  seed := s.freg f Reg.FLD_SR_SEED.SEED
  step := s.freg f Reg.FLD_SR_STEP.STEP
  drift := s.driftCtl f
  claims := claims
  phase := .waiting
  classSeen := 0
  uncorrected := false
  binPoisoned := false
  modeNA := false
  injClass := 0
  mism := []
  clean := []
  badRows := []
  mismInjected := false
  passNo := 0
  issued := 0
  outstanding := []
  fails := []
  fenceStatus := 0

/-- The injection point CLASS_REPORT fires at the next TMM or TVEC of the plot that is not refused
(R144): the class it adds, 0 where it does not fire. -/
def State.injClassAt (s : State) (f : FieldId) (p : PlotId) (op : QOp) : Nat :=
  if op.unit < 2 && decide (s.freg f Reg.INJ_ARITH.ARM = 1) && decide (s.freg f Reg.INJ_ARITH.POINT = 6) &&
      decide (s.freg f Reg.INJ_ARITH.PLOT = p) then s.freg f Reg.INJ_ARITH.BIT
  else 0

/-- INJ_ARITH has fired (R144). -/
def State.injArithFire (s : State) (f : FieldId) : State :=
  (s.fset f Reg.INJ_ARITH.ARM 0).fset f Reg.INJ_ARITH.DONE 1

/-- An instruction issues: it takes the next QSN and enters the queue, or is refused and completes
at once (R194, R195). -/
def State.issue (s : State) (f : FieldId) (p : PlotId) (op : QOp) (int : Bool) (claims : List Claim)
    (refusal : Option Nat) : State :=
  let e := s.newEntry f p op int claims
  let s1 := s.updPlot f p (fun P => { P with nextQsn := (P.nextQsn + 1) % 0x10000 })
  match refusal with
  | some code => s1.logCompletion f p e.qsn e.op.tag code 0 e.op.unit e.int
  | none =>
    let c := s.injClassAt f p op
    let s2 := s1.updPlot f p (fun P => { P with queue := P.queue ++ [{ e with injClass := c }] })
    if c = 0 then s2 else s2.injArithFire f

/-- A TMM issues (R194, R210). -/
def State.issueTmm (s : State) (f : FieldId) (p : PlotId) (d md : Nat) (int : Bool) : State :=
  let load := (s.plot f p).loadAtIssue
  s.issue f p (.tmm d md) int (tmmClaims load d md) (tmmRefusal load d md)

/-- A TVEC issues (R194, R217). -/
def State.issueTvec (s : State) (f : FieldId) (p : PlotId) (d md : Nat) (int : Bool) : State :=
  s.issue f p (.tvec d md) int (tvecClaims d md) (tvecRefusal d md)

/-- A TXFER issues with its descriptor (R194, R219). -/
def State.issueTxfer (s : State) (f : FieldId) (p : PlotId) (d : Nat) : State :=
  s.issue f p (.txfer d) (bit (xfFlags d) 0) (txferClaims d) (txferRefusal d)

/-! ### Bin segments and the sync unit (R97, R196, R221 to R223) -/

/-- Whether the segments a tile operation writes are free of claims held by earlier entries
(R97: a segment being written; program order for earlier readers). -/
def passSegsFree (before : List QEntry) (d md : Nat) : Bool :=
  (List.range 4).all (fun t => (List.range 16).all (fun g =>
    !tmmWritesSeg d md t g || before.all (fun e => e.claims.all (fun c => !c.inSeg t g))))

/-- Whether an earlier synchronisation of the queue has not started: a unit starts its instructions in order (R196). -/
def syncTurn (before : List QEntry) : Bool := before.all (fun e => decide (e.op.unit ≠ 3) || decide (e.phase ≠ .waiting))

/-! ### TSYNC and TWAIT (R202, R221 to R223) -/

/-- d(q) of R202, for the next QSN n. -/
def qsnAge (n q : Nat) : Nat := (n + 0xFFFF - q % 0x10000) % 0x10000

/-- Whether the wait of a TWAIT has ended (R202). -/
def Plot.waitOver (P : Plot) (x : Nat) : Bool :=
  let d := qsnAge P.nextQsn x
  decide (32 ≤ d) || P.queue.all (fun e => decide (qsnAge P.nextQsn e.qsn < d))

/-- TFENCE starts and completes once every earlier instruction has completed (R221). -/
def execTfenceStart (f : FieldId) (p : PlotId) (s : State) : Result := s.clocked <|
  match (s.plot f p).queue with
  | e :: _ => if e.op = .tfence then finish (s.complete f p e St.OK 0) else .next s
  | [] => .next s

/-- TSCDRAIN starts once every earlier tile operation has retired (R222). -/
def execTscdrainStart (f : FieldId) (p : PlotId) (s : State) : Result := s.clocked <|
  let P := s.plot f p
  match P.queue.find? (fun e => decide (e.op = .tscdrain) && decide (e.phase = .waiting)) with
  | some e =>
    let before := entriesBefore P.queue e.qsn
    if before.all (fun x => decide (x.op.unit ≠ 0)) && syncTurn before && !syncHeld before (.tfence) then
      .next (s.updEntry f p e.qsn (fun x => { x with phase := .running }))
    else .next s
  | none => .next s

/-- TSCDRAIN completes when the sample queue is empty (R222). -/
def execTscdrainComplete (f : FieldId) (p : PlotId) (s : State) : Result := s.clocked <|
  let P := s.plot f p
  match P.queue.find? (fun e => decide (e.op = .tscdrain) && decide (e.phase = .running)) with
  | some e => if P.samples = [] then finish (s.complete f p e St.OK 0) else .next s
  | none => .next s

/-- TWAIT's wait ends and rd receives the queued count (R202). -/
def execTwaitEnd (f : FieldId) (p : PlotId) (s : State) : Result := s.clocked <|
  let P := s.plot f p
  match P.drill.st, P.drill.wait with
  | .waiting, .twait rd x =>
    if P.waitOver x then
      .next (s.updDrill f p (fun d => { d with
        st := .running, wait := .none, pc := (d.pc + 4) % 2 ^ 32, minstret := (d.minstret + 1) % 2 ^ 64,
        xr := if rd = 0 then d.xr else SMap.set d.xr 0 rd P.queue.length }))
    else .next s
  | _, _ => .next s

end Sys2Proof.Machine
end

