-- ==== Sys2Proof/Machine/Pass.lean ====
section
/-! DEFINITION. Tine passes (R83 to R111, R719), the witness's consequences (R121 to R124), scarecrow
samples (R128 to R131) and the arithmetic injection points (R144). -/

namespace Sys2Proof.Machine

open Sys2Proof

/-! ### Operands (R206 to R209) -/

/-- Element codes of a packed stream (R57). -/
def unpackCodes (bs : List Byte) (w n : Nat) : List Nat :=
  let v := leNat bs
  (List.range n).map (fun i => bits v (i * w) w)

/-- An operand row or column: its vector, its masters where it is quantised on the fly (FP32
patterns), and its class reports. -/
structure OperandRow where
  vec : OpVec
  masters : List Nat
  cls : ClsCounts

/-- A quantised row or column (R208, R209): K BF16 masters encoded into the operand format. Every position of a block
reports, those past K too: they count as +0 (R62), and so report nothing but in a block with a NaN, where all 32 positions
report NAN_IN (R63). -/
def quantise (f : Fmt) (bs : List Byte) (k mode seed step stream base : Nat) : OperandRow :=
  let codes := unpackCodes bs 16 k
  let ms := codes.map (fun c => c * 65536)
  let vals := ms.map fp32Val
  if f.block then
    let blocks := (List.range ((k + 31) / 32)).map (fun b =>
      blockEncode f ((vals.drop (32 * b)).take 32) mode (fun i => srWord seed step stream base (32 * b + i)))
    { vec := ⟨(blocks.flatMap (fun b => b.1.codes)).take k, blocks.map (fun b => b.1.scale),
              blocks.map (fun b => b.1.shifts)⟩,
      masters := ms, cls := clsOf (blocks.flatMap Prod.snd) }
  else
    let res := (vals.zipIdx).map (fun (v, i) => convert v f.elem mode false (srWord seed step stream base i))
    { vec := ⟨res.map Prod.fst, [], []⟩, masters := ms, cls := clsOf (res.map Prod.snd) }

/-- A stored row or column (R206). -/
def storedRow (f : Fmt) (el side : List Byte) (k : Nat) : OperandRow :=
  let nb := (k + 31) / 32
  let byte := fun (i : Nat) => ((side.getD i 0 : Byte)).toNat
  let vec : OpVec := ⟨unpackCodes el f.elem.width k,
    if f.block then (List.range nb).map (fun b => byte (b * f.sideBytes)) else [],
    if f.gfp then (List.range nb).map (fun b => byte (b * 2 + 1)) else []⟩
  { vec := vec, masters := [], cls := clsBump clsZero clsTernReserved (vec.ternReserved f k) }

/-- One row or column read from the plot store (R206, R207): the state, the operand, and whether a
word read was uncorrected. -/
def State.readOperand (s : State) (f : FieldId) (p : PlotId) (fmt : Fmt) (quant : Bool)
    (elAddr sideAddr k mode seed step stream base : Nat) : State × OperandRow × Bool :=
  let (s1, el, bad) := s.storeRead f p elAddr (operandBytes fmt quant k) rqTine
  let (s2, side, bad') := s1.storeRead f p sideAddr (operandSide fmt quant k) rqTine
  (s2, if quant then quantise fmt el k mode seed step stream base else storedRow fmt el side k,
    bad.any id || bad'.any id)

/-- The masters of a row or column of K elements as FP32 patterns (R128). -/
def mastersOf (fmt : Fmt) (o : OpVec) (masters : List Nat) (k : Nat) (nonsat : Bool) : List Nat :=
  if masters = [] then (o.vals fmt k).map (fun v => (toFP32 v nonsat).1) else masters.take k

/-! ### Weight load (R100 to R103, R719) -/

/-- Weight columns 0 to n − 1. -/
def State.readColumns (s : State) (f : FieldId) (p : PlotId) (d seed step : Nat) (w : Fmt) (c : Nat) :
    Nat → State × List OperandRow × Bool
  | 0 => (s, [], false)
  | n + 1 =>
    let (s1, o, bad) := s.readOperand f p w (tmmWtQuant d) (dfield d 4 4 + c * dfield d 18 2)
      (dfield d 12 4 + c * dfield d 22 2) (tmmK d) (bits (dfield d 32 2) 4 2) seed step (dfield d 36 4)
      (dfield d 46 6 + c * dfield d 56 4)
    let (s2, os, bads) := State.readColumns s1 f p d seed step w (c + 1) n
    (s2, o :: os, bad || bads)

/-- Whether INJ_ARITH is armed with a point for a plot. -/
def State.injArithAt (s : State) (f : FieldId) (p : PlotId) (point : Nat) : Bool :=
  decide (s.freg f Reg.INJ_ARITH.ARM = 1) && decide (s.freg f Reg.INJ_ARITH.POINT = point) &&
    decide (s.freg f Reg.INJ_ARITH.PLOT = p)

/-- The oldest FRESH pass whose weights have not been written. -/
def Plot.nextLoad (P : Plot) : Option QEntry :=
  P.queue.find? (fun e => match e.op with
    | .tmm d _ => tmmFresh d && !tmmDegenerate d && decide (e.phase = .waiting)
    | _ => false)

/-- The oldest tile operation. -/
def Plot.oldestTmm (P : Plot) : Option QEntry := P.queue.find? (fun e => e.op.unit = 0)

/-- WEIGHT_LOAD (R100, R103): the next FRESH pass writes its weights into the shadow registers once
they are free and its operands may be read. -/
def execWeightLoad (f : FieldId) (p : PlotId) (s : State) : Result := s.clocked <|
  let P := s.plot f p
  match P.nextLoad with
  | none => .next s
  | some e =>
    match e.op with
    | .tmm d md =>
      let before := entriesBefore P.queue e.qsn
      if P.tine.shadow.isSome || syncHeld before e.op || (s.field f).held then .next s
      else if !claimsFree before e then .next (s.pwrap f p Reg.PLT_QUEUE_STALL.CLAIM)
      else match tmmPair none d with
        | none => .next s
        | some (a, sel, w, c) =>
          let (s1, os, bad) := s.readColumns f p d e.seed e.step w 0 (tmmN d)
          let load := WLoad.make sel w c (tmmK d) (tmmN d) (os.map (fun o => o.vec)) bad
            (if tmmWtQuant d then os.map (fun o => o.masters) else [])
          let inj := s1.injArithAt f p 2 && (decide (c ≠ .w16) || decide (s1.freg f Reg.INJ_ARITH.BIT < 32))
          let load1 := if inj then { load with flip := some (s1.freg f Reg.INJ_ARITH.TINE,
            s1.freg f Reg.INJ_ARITH.COLUMN, s1.freg f Reg.INJ_ARITH.BIT) } else load
          let s2 := if inj then s1.injArithFire f else s1
          let cc := os.foldl (fun x o => clsAdd x o.cls) clsZero
          let s3 := s2.classReports f p (some (tmmTag d)) cc
          let actClaims := 1 + b2n (decide (operandSide a (tmmActQuant d) (tmmK d) ≠ 0))
          let s4 := s3.updEntry f p e.qsn (fun x => { x with
            phase := .loaded, classSeen := x.classSeen ||| clsSeen cc, uncorrected := x.uncorrected || bad,
            claims := x.claims.take actClaims })
          finish (s4.updPlot f p (fun P => { P with
            tine := { P.tine with shadow := some load1, shadowFor := e.qsn } }))
    | _ => .next s

/-! ### A pass's rows (R86 to R94, R117 to R122, R129) -/

/-- What the rows of a pass have brought about so far; `clsInj`: the class reports of elements that an injection point
changed (R145). -/
structure PassAcc where
  s : State
  cls : ClsCounts
  clsInj : ClsCounts
  mism : List (Nat × Nat)
  clean : List (Nat × Nat)
  bad : List (Nat × Nat)
  mismInjected : Bool
  uncorrected : Bool

/-- A sample offered to the sample queue (R129): dropped and counted when 16 wait. -/
def State.sampleOffer (s : State) (f : FieldId) (p : PlotId) (x : Sample) : State :=
  if 16 ≤ (s.plot f p).samples.length then
    s.driftReport f x.tag 1 (fun r => { r with dropped := satAdd 32 r.dropped 1 })
  else
    let inj := s.injArithAt f p 3
    let y := if inj then { x with p := x.p ^^^ 2 ^ s.freg f Reg.INJ_ARITH.BIT, injected := true } else x
    let s1 := if inj then s.injArithFire f else s
    s1.updPlot f p (fun P => { P with samples := P.samples ++ [y] })

/-- SCNT's choice for one output element, and its count (R129). -/
def State.sampleVisit (s : State) (f : FieldId) (p : PlotId) (k : Nat) (x : Sample) : State :=
  let c := (s.plot f p).scnt
  let s1 := s.updPlot f p (fun P => { P with scnt := (c + 1) % 2 ^ 32 })
  if (c + p) % 2 ^ k = 0 then s1.sampleOffer f p x else s1

/-- The bin word of one output element (R93, R95), its sample, and the class of the add. -/
def State.passColumn (s : State) (f : FieldId) (p : PlotId) (t row c : Nat) (ow nonsat : Bool)
    (res : Nat) : State × Cls :=
  if ow then (s.binWrite f p t row c res, clsNone)
  else
    let (s1, old) := s.binReadRaw f p t row c
    let (v, k) := binAdd old res nonsat
    (s1.binWrite f p t row c v, k)

/-- The first mismatch of the log's capture fields (R121, R126, R127). -/
def State.captureMismatch (s : State) (f : FieldId) (p : PlotId) (t row tag passNo : Nat)
    (injected bounded : Bool) : State :=
  let s1 := s.pcount f p Reg.PLT_WITNESS_LOG.COUNT
  if s1.preg f p Reg.PLT_WITNESS_LOG.VALID = 1 then s1
  else
    ((((((s1.pset f p Reg.PLT_WITNESS_LOG.VALID 1).pset f p Reg.PLT_WITNESS_LOG.TINE t).pset f p
      Reg.PLT_WITNESS_LOG.BIN_ROW row).pset f p Reg.PLT_WITNESS_LOG.LAYER_TAG tag).pset f p
      Reg.PLT_WITNESS_LOG.INJECTED (b2n injected)).pset f p
      Reg.PLT_WITNESS_LOG.BOUNDED (b2n bounded)).pset f p Reg.PLT_WITNESS_PASS.PASS passNo

/-- What a row's comparison brings about in the step (R121, R122). -/
def State.rowOutcome (s : State) (f : FieldId) (p : PlotId) (t row tag passNo : Nat) (w : WitOutcome)
    (injected bounded : Bool) : State :=
  match w with
  | .mismatch =>
    (s.captureMismatch f p t row tag passNo injected bounded).driftReport f tag 1
      (fun r => { r with mismatch := satAdd 32 r.mismatch 1 }) injected
  | .skipped =>
    (s.pcount f p Reg.PLT_WITNESS_LOG.SKIPPED).driftReport f tag 1
      (fun r => { r with skipped := satAdd 32 r.skipped 1 }) injected
  | _ => s

/-- What stays fixed while the rows of a pass flow. -/
structure PassCtx where
  f : FieldId
  p : PlotId
  d : Nat
  md : Nat
  seed : Nat
  step : Nat
  drift : Nat
  passNo : Nat
  fa : Fmt
  fw : Fmt
  load : WLoad
  wm : List (List Nat)
  /-- WITNESS_LANE fires in this pass: its tine, and the flip -/
  lane : Option (Nat × Nat × Bool × Nat)
  active : Bool
  eligible : Bool

/-- Columns c to N − 1 of a row: bins, class reports and samples. `hit` is the column whose sums an injection point changes
in this row. -/
def passColumns (x : PassCtx) (t row : Nat) (am : List Nat) (hit : Option Nat) (a : PassAcc) (c : Nat) :
    List (Nat × Cls) → PassAcc
  | [] => a
  | (res, k) :: rest =>
    let inj := decide (hit = some c)
    let (s1, kb) := a.s.passColumn x.f x.p t row c (tmmOverwrite x.d) (tmmNonsat x.d) res
    let s2 := if x.eligible then s1.sampleVisit x.f x.p (x.drift % 32)
      { p := res, am := am, wm := x.wm.getD c [], tag := tmmTag x.d, th := x.drift, injected := inj } else s1
    let a1 := if inj then { a with s := s2, clsInj := clsBump (clsBump a.clsInj k 1) kb 1 }
      else { a with s := s2, cls := clsBump (clsBump a.cls k 1) kb 1 }
    passColumns x t row am hit a1 (c + 1) rest

/-- Activation row i of a pass. -/
def passRowStep (x : PassCtx) (a : PassAcc) (i : Nat) : PassAcc :=
  let d := x.d
  let t := i % 4
  let row := (tmmBinRow d x.md + i / 4) % 512
  let j := bits x.md 0 12 + i
  let (s1, o, bad) := a.s.readOperand x.f x.p x.fa (tmmActQuant d) (dfield d 0 4 + j * dfield d 16 2)
    (dfield d 8 4 + j * dfield d 20 2) (tmmK d) (bits (dfield d 32 2) 4 2) x.seed x.step (dfield d 36 4)
    (dfield d 40 6 + j * dfield d 52 4)
  let flip : LaneFlip := match x.lane with | some (ft, f) => if ft = i then some f else none | none => none
  let r := passRow x.fa x.fw (x.load.forTine t) o.vec (tmmK d) (tmmNonsat d) x.active flip
  let am := if x.eligible then mastersOf x.fa o.vec o.masters (tmmK d) (tmmNonsat d) else []
  let inj := flip.isSome || (match x.load.flip with | some (ft, _) => decide (ft = t) | none => false)
  let hit : Option Nat := flip.map (fun (c, _, _) => if x.load.cls = .w16 then c / 2 else c)
  let a1 := passColumns x t row am hit { a with s := s1, cls := clsAdd a.cls o.cls } 0 (r.res.take (tmmN d))
  let mm := decide (r.wit = .mismatch)
  let rb := bad || x.load.uncorrected
  { a1 with
    s := a1.s.rowOutcome x.f x.p t row (tmmTag d) x.passNo r.wit inj (x.load.cls = .w16),
    mism := if mm then a1.mism ++ [(t, row)] else a1.mism,
    clean := if mm then a1.clean else a1.clean ++ [(t, row)],
    bad := if rb then a1.bad ++ [(t, row)] else a1.bad,
    mismInjected := if mm && decide (a1.mism = []) then inj else a1.mismInjected,
    uncorrected := a1.uncorrected || rb }

/-! ### Start, retirement (R96, R97, R104, R107) -/

/-- The load a starting pass uses: for a FRESH pass the shadow, which the token copies into the
active registers (R101); for a KEEP pass the active registers, all zero before any load (R719). -/
def Plot.passLoad (P : Plot) (fresh : Bool) (sel : Nat) (c : PassClass) : WLoad :=
  let w := if fresh then P.tine.shadow else P.tine.active
  w.getD (WLoad.empty sel c)

/-- The rows of a pass run (R86 to R94), and its entry is in flight until it retires. A FRESH pass's load becomes the load of
the tines; a KEEP pass leaves the load as it is, so before the first load each takes the format of its own WT_FMT (R719). -/
def State.passRun (s : State) (f : FieldId) (p : PlotId) (e : QEntry) (d md : Nat) : State :=
  let P := s.plot f p
  let fresh := tmmFresh d
  match tmmPair (if fresh then none else P.tine.active.map (fun w => (w.sel, some w.cls))) d with
  | none => s
  | some (fa, sel, fw, c) =>
    let load := P.passLoad fresh sel c
    let eligible := (tmmActQuant d || tmmWtQuant d) && decide (e.drift % 32 ≠ 0) && decide (c ≠ .w16)
    let passNo := (P.reg Reg.PLT_TINE_COUNT.PASSES +
      ((entriesBefore P.queue e.qsn).filter (fun x => x.op.unit = 0)).length + 1) % 2 ^ 32
    let laneOn := s.injArithAt f p 1 && decide (s.freg f Reg.INJ_ARITH.TINE < tmmM d) &&
      (decide (c ≠ .w16) || decide (s.freg f Reg.INJ_ARITH.BIT < 32))
    let lane := if laneOn then some (s.freg f Reg.INJ_ARITH.TINE, s.freg f Reg.INJ_ARITH.COLUMN,
      decide (s.freg f Reg.INJ_ARITH.LANE = 1), s.freg f Reg.INJ_ARITH.BIT) else none
    let s0 := if laneOn then s.injArithFire f else s
    let wm := if eligible then (List.range (tmmN d)).map (fun n => padTo (tmmK d) 0
      (mastersOf fw (load.cols.getD n ⟨[], [], []⟩) (if tmmWtQuant d then load.masters.getD n [] else [])
        (min (tmmK d) load.k) (tmmNonsat d)))
      else []
    let x : PassCtx := {
      f := f, p := p, d := d, md := md, seed := e.seed, step := e.step, drift := e.drift,
      passNo := passNo, fa := fa, fw := fw, load := load, wm := wm, lane := lane,
      active := decide (s.freg f Reg.FLD_WITNESS_CTL.ACTIVE = 1), eligible := eligible }
    let s1 := if fresh then s0.updPlot f p (fun P => { P with tine := { P.tine with active := some load, shadow := none } })
      else s0
    let a := (List.range (tmmM d)).foldl (passRowStep x)
      { s := s1, cls := clsZero, clsInj := clsZero, mism := [], clean := [], bad := [], mismInjected := false,
        uncorrected := false }
    let reported := (a.s.classReports f p (some (tmmTag d)) a.cls).classReports f p (some (tmmTag d)) a.clsInj true
    let s2 := reported.pwrap f p Reg.PLT_TINE_COUNT.ROWS (tmmM d)
    let s3 := s2.updPlot f p (fun P => { P with tine := { P.tine with busy := P.tine.busy + (tmmM d + 3) / 4 } })
    s3.updEntry f p e.qsn (fun y => { y with
      phase := .running, claims := [], classSeen := y.classSeen ||| clsSeen (clsAdd a.cls a.clsInj),
      uncorrected := y.uncorrected || a.uncorrected, mism := a.mism, clean := a.clean, badRows := a.bad,
      mismInjected := a.mismInjected, passNo := passNo })

/-- A plot asks for a start token, or a stop token, once (R634). -/
def State.tokenAsk (s : State) (f : FieldId) (p : PlotId) (start : Bool) : State :=
  if (s.field f).thm.tokens.contains (p.val, start) then s
  else s.updField f (fun F => { F with thm := { F.thm with tokens := F.thm.tokens ++ [(p.val, start)] } })

/-- Whether a plot waits for a stop token, with stop rows entering (R634). -/
def State.stopWaits (s : State) (f : FieldId) (p : PlotId) : Bool := (s.field f).thm.tokens.contains (p.val, false)

/-- A row enters the tines of a plot: a stop token it held, or asked for, is void (R634). -/
def State.rowEntered (s : State) (f : FieldId) (p : PlotId) : State :=
  (s.updPlot f p (fun P => { P with tine := { P.tine with stopTok := false } })).updField f (fun F =>
    { F with thm := { F.thm with tokens := F.thm.tokens.filter (fun x => x ≠ (p.val, false)) } })

/-- The plot, tine and row of a bin window a field offset lies in (R687). -/
def binPlace (off : Nat) : Option (Nat × Nat × Nat) :=
  if 0x2000000 ≤ off ∧ off < 0x6000000 then
    let x := off - 0x2000000
    some (x / 0x40000, x / 0x10000 % 4, x % 0x10000 / 128)
  else none

/-- The bin window a request of another agent reaches in field f (R692). -/
def HostReq.binPlace (r : HostReq) (f : FieldId) : Option (Nat × Nat × Nat) :=
  match r with
  | .read fn false a _ => if fn = f.val + 1 then Machine.binPlace a else none
  | .write fn false a _ _ _ => if fn = f.val + 1 then Machine.binPlace a else none
  | .reg (.field g) off _ _ => if g = f then Machine.binPlace off else none
  | _ => none

/-- Whether a place in a bin, reached when the plot's next QSN was q, holds back a tile operation: one that writes its
segment and was issued no earlier (R692). -/
def placeHolds (place : Option (Nat × Nat × Nat)) (q p qsn d md : Nat) : Bool :=
  match place with
  | some (x, t, row) => decide (x = p) && tmmWritesSeg d md t (row / 32) && !qsnBefore qsn q
  | none => false

/-- Whether a tile operation waits for an access from outside that reached a segment it writes before it was issued: of the
host, of Yarzin, or a management read (R612, R692). -/
def State.hostHolds (s : State) (f : FieldId) (p : PlotId) (qsn d md : Nat) : Bool :=
  s.hub.host.wait.any (fun a => placeHolds (a.req.binPlace f) a.qsn p qsn d md) ||
    (s.field f).mgmtq.any (fun m => m.words.any (fun w => placeHolds (binPlace w.1) w.2 p qsn d md))

/-- What the oldest tile operation that has not started waits for before its first row enters. -/
inductive PassGate where
  /-- there is none, or it is degenerate, behind a TFENCE, or in a held partition (R35) -/
  | idle
  /-- claims of earlier instructions (R153) -/
  | claim
  /-- its load: its first row is ready (R103, R112); and the bin scoreboard besides -/
  | load (bin : Bool)
  /-- the bin scoreboard (R97) -/
  | bin
  /-- nothing: the entry, its descriptor and its modifier -/
  | ready (e : QEntry) (d md : Nat)
  deriving DecidableEq, Repr

/-- What the next pass of a plot waits for. -/
def State.passGate (s : State) (f : FieldId) (p : PlotId) : PassGate :=
  match (s.plot f p).nextTmm with
  | none => .idle
  | some (e, before) =>
    match e.op with
    | .tmm d md =>
      if tmmDegenerate d || syncHeld before e.op || (s.field f).held then .idle
      else if !claimsFree before e then .claim
      else
        let bin := !passSegsFree before d md || s.hostHolds f p e.qsn d md
        if tmmFresh d && decide (e.phase = .waiting) then .load bin
        else if bin then .bin
        else .ready e d md
    | _ => .idle

/-- TINE_PASS_START (R104): the oldest unstarted pass enters once its claims are free (R153), its load stands (R103) and its
bin segments are free (R97); in a dormant plot it waits for a start token (R634), and behind the stop rows of a plot that waits
for a stop token (R673). Each wait counts one cycle (R105, R114,
R155). -/
def execTinePassStart (f : FieldId) (p : PlotId) (s : State) : Result := s.clocked <|
  match s.passGate f p with
  | .idle => .next s
  | .claim => .next (s.pwrap f p Reg.PLT_QUEUE_STALL.CLAIM)
  | .load bin =>
    let s1 := s.pwrap f p Reg.PLT_TINE_STALL.LOAD_STALL
    .next (if bin then s1.pwrap f p Reg.PLT_TINE_STALL.BIN_WAIT else s1)
  | .bin => .next (s.pwrap f p Reg.PLT_TINE_STALL.BIN_WAIT)
  | .ready e d md =>
    if (s.plot f p).tine.dormant then .next ((s.pwrap f p Reg.PLT_TINE_STALL.LOAD_STALL).tokenAsk f p true)
    else if s.stopWaits f p then .next s
    else finish ((s.rowEntered f p).passRun f p e d md)

/-- Poison bits at retirement (R123, R158): cleared by a whole-row overwrite that did not mismatch,
set for mismatched rows while POISON_ACTIVE is 1, set for rows of uncorrected operand bytes. -/
def State.retirePoison (s : State) (f : FieldId) (p : PlotId) (e : QEntry) (clears : Bool) : State :=
  let s1 := if clears then e.clean.foldl (fun t (x : Nat × Nat) => t.setBinPoison f p x.1 x.2 false) s else s
  let s2 := if s1.freg f Reg.FLD_WITNESS_CTL.POISON_ACTIVE = 1 then
    e.mism.foldl (fun t (x : Nat × Nat) => t.setBinPoison f p x.1 x.2 true) s1 else s1
  e.badRows.foldl (fun t (x : Nat × Nat) => t.setBinPoison f p x.1 x.2 true) s2

/-- The class report an injection adds counts as the instruction completes (R144, point 6). -/
def State.injClassReport (s : State) (f : FieldId) (p : PlotId) (e : QEntry) : State × Nat :=
  if e.injClass = 0 then (s, e.classSeen)
  else (s.classReport f p (some e.op.tag) e.injClass 1 true, e.classSeen ||| 2 ^ (e.injClass - 1))

/-- The mismatch event of a pass and its report to health (R121). -/
def State.mismatchEvent (s : State) (f : FieldId) (p : PlotId) (e : QEntry) (d : Nat) (bounded : Bool) :
    State :=
  match e.mism with
  | [] => s
  | (t, row) :: _ =>
    let s1 := s.raise f Ev.PLT_WITNESS_MISMATCH
      [(1, p), (1, t), (2, row), (2, tmmTag d), (4, e.passNo), (1, b2n bounded)] e.mismInjected
    (s1.updField f (fun F => { F with witEvents := F.witEvents + 1 })).hardEvent f 0 e.mismInjected

/-- Whether a pass was of class W16, from its own formats. -/
def tmmIsW16 (d : Nat) : Bool :=
  match fmtOf (dfield d 28 1 % 32) with
  | some a => decide (a.elem = fmtBF16) || decide (a.elem = fmtFP16)
  | none => false

/-- TINE_PASS_RETIRE (R96, R104): the oldest pass in flight retires, in issue order. -/
def execTinePassRetire (f : FieldId) (p : PlotId) (s : State) : Result := s.clocked <|
  let P := s.plot f p
  match P.oldestTmm with
  | none => .next s
  | some e =>
    match e.op with
    | .tmm d _ =>
      if e.phase ≠ .running then .next s
      else
        let w16 := tmmIsW16 d
        let s1 := s.retirePoison f p e (tmmOverwrite d && decide (tmmN d = 32) && !w16)
        let s2 := s1.pwrap f p Reg.PLT_TINE_COUNT.PASSES
        let s3 := s2.mismatchEvent f p e d w16
        let (s4, seen) := s3.injClassReport f p e
        finish (s4.complete f p e (opStatus e.uncorrected false false) seen)
    | _ => .next s

/-- The +0 rows of a degenerate operation with K = 0 in OVERWRITE mode (R107). -/
def State.zeroRows (s : State) (f : FieldId) (p : PlotId) (d md : Nat) : State :=
  (List.range (tmmM d)).foldl (fun t i =>
    let row := (tmmBinRow d md + i / 4) % 512
    let t1 := (List.range (tmmN d)).foldl (fun u c => u.binWrite f p (i % 4) row c 0) t
    if tmmN d = 32 then t1.setBinPoison f p (i % 4) row false else t1) s

/-- DEGENERATE_RETIRE (R107): after every earlier operation of the tines has retired. -/
def execDegenerateRetire (f : FieldId) (p : PlotId) (s : State) : Result := s.clocked <|
  let P := s.plot f p
  match P.oldestTmm with
  | none => .next s
  | some e =>
    match e.op with
    | .tmm d md =>
      let before := entriesBefore P.queue e.qsn
      if !tmmDegenerate d || syncHeld before e.op || (s.field f).held then .next s
      else if tmmZeroRows d && (!passSegsFree before d md || s.hostHolds f p e.qsn d md) then .next (s.pwrap f p Reg.PLT_TINE_STALL.BIN_WAIT)
      else
        let s1 := if tmmZeroRows d then s.zeroRows f p d md else s
        let (s2, seen) := (s1.pwrap f p Reg.PLT_TINE_COUNT.PASSES).injClassReport f p e
        finish (s2.complete f p e St.OK seen)
    | _ => .next s

/-! ### The scarecrow (R130, R131) -/

/-- Samples at or above TH_BUCKET of a record. -/
def driftHigh (r : DriftRec) (tb : Nat) : Nat := (r.buckets.drop tb).foldl (· + ·) 0

/-- MAX_E as its byte: −128 when no sample has an e (R132). -/
def maxEByte (m : Option Int) : Nat := ofSigned 8 (m.getD (-128))

/-- One sample counted into its record, and the drift event at its threshold (R130, R131). -/
def State.sampleCount (s : State) (f : FieldId) (x : Sample) : State :=
  let (b, e) := sampleBucket x.p x.am x.wm
  let s1 := s.driftReport f x.tag 1 (fun r => { r with
    samples := satAdd 32 r.samples 1, buckets := r.buckets.set b (satAdd 32 (r.buckets.getD b 0) 1),
    maxE := match e, r.maxE with
      | some i, some j => some (max i j)
      | some i, none => some i
      | none, m => m })
  let tb := bits x.th 5 4
  let tc := bits x.th 9 16
  match SMap.find (s1.field f).drift.recs x.tag with
  | none => s1
  | some r =>
    if tc ≠ 0 ∧ r.event = false ∧ tc ≤ driftHigh r tb then
      (s1.driftReport f x.tag 0 (fun r => { r with event := true })).raise f Ev.FLD_PRECISION_DRIFT
        [(2, x.tag), (1, tb), (1, maxEByte r.maxE)] x.injected
    else s1

/-- SAMPLE_PROCESS (R130): in a cycle in which no vector instruction has started but not completed,
the oldest sample is recomputed and counted. -/
def execSampleProcess (f : FieldId) (p : PlotId) (s : State) : Result := s.clocked <|
  let P := s.plot f p
  if P.queue.any (fun e => decide (e.op.unit = 1) && decide (e.phase ≠ .waiting)) then .next s
  else match P.samples with
    | [] => .next s
    | x :: xs => finish ((s.updPlot f p (fun P => { P with samples := xs })).sampleCount f x)

/-! ### Arming INJ_ARITH (R144, R249) -/

/-- Whether the BIT and COLUMN of a point lie in the ranges of the point table. -/
def injArithRange (point bit : Nat) : Bool :=
  match point with
  | 1 => decide (bit ≤ 47)
  | 2 => decide (bit ≤ 39)
  | 3 => decide (bit ≤ 31)
  | 4 => decide (bit ≤ 31)
  | 5 => decide (bit ≤ 31)
  | 6 => decide (1 ≤ bit) && decide (bit ≤ 6)
  | _ => false

/-- INJ_ARITH is armed with the fields it holds: it waits for its opportunity, or clears with NOFIRE
when it cannot fire. -/
def State.injArithArm (s : State) (f : FieldId) : State :=
  let plot := s.freg f Reg.INJ_ARITH.PLOT
  if injArithRange (s.freg f Reg.INJ_ARITH.POINT) (s.freg f Reg.INJ_ARITH.BIT) && !(s.field f).vacant plot then
    s.fset f Reg.INJ_ARITH.ARM 1
  else (s.fset f Reg.INJ_ARITH.ARM 0).fset f Reg.INJ_ARITH.NOFIRE 1

/-- Whether the fault-injection lock is open (R512). -/
def State.injOpen (s : State) : Bool := decide (s.hreg Reg.HUB_INJ_STATUS.OPEN = 1)

/-- Whether it is open for field f's injection registers, which hub-lost operation locks until a reset. -/
def State.injOpenAt (s : State) (f : FieldId) : Bool := s.injOpen && !(s.field f).hubLost

/-- A write of INJ_ARITH that fills its fields and arms it: discarded while the lock is closed, and
while ARM is 1 its fields stand (R144). -/
def State.injArithWrite (s : State) (f : FieldId) (point plot tine column b lane : Nat) : State :=
  if !s.injOpenAt f || decide (s.freg f Reg.INJ_ARITH.ARM = 1) then s
  else
    let s1 := (((((s.fset f Reg.INJ_ARITH.POINT point).fset f Reg.INJ_ARITH.PLOT plot).fset f
      Reg.INJ_ARITH.TINE tine).fset f Reg.INJ_ARITH.COLUMN column).fset f Reg.INJ_ARITH.BIT b).fset f
      Reg.INJ_ARITH.LANE lane
    s1.injArithArm f

/-- INJ_WITNESS_LANE (R144). -/
def execInjWitnessLane (f : FieldId) (plot : PlotId) (tine : TineId) (column : Fin 32) (b : Fin 64)
    (lane : Bool) (s : State) : Result := .next (s.injArithWrite f 1 plot tine column b (b2n lane))

/-- INJ_WITNESS_WEIGHT (R144). -/
def execInjWitnessWeight (f : FieldId) (plot : PlotId) (tine : TineId) (column : Fin 32) (b : Fin 64)
    (lane : Bool) (s : State) : Result := .next (s.injArithWrite f 2 plot tine column b (b2n lane))

/-- INJ_SCARECROW_BIAS (R144). -/
def execInjScarecrowBias (f : FieldId) (plot : PlotId) (tine : TineId) (column : Fin 32) (b : Fin 64)
    (lane : Bool) (s : State) : Result := .next (s.injArithWrite f 3 plot tine column b (b2n lane))

/-- INJ_BIN_SINGLE (R144). -/
def execInjBinSingle (f : FieldId) (plot : PlotId) (tine : TineId) (column : Fin 32) (b : Fin 64)
    (lane : Bool) (s : State) : Result := .next (s.injArithWrite f 4 plot tine column b (b2n lane))

/-- INJ_BIN_DOUBLE (R144). -/
def execInjBinDouble (f : FieldId) (plot : PlotId) (tine : TineId) (column : Fin 32) (b : Fin 64)
    (lane : Bool) (s : State) : Result := .next (s.injArithWrite f 5 plot tine column b (b2n lane))

/-- INJ_CLASS_REPORT (R144). -/
def execInjClassReport (f : FieldId) (plot : PlotId) (tine : TineId) (column : Fin 32) (b : Fin 64)
    (lane : Bool) (s : State) : Result := .next (s.injArithWrite f 6 plot tine column b (b2n lane))

end Sys2Proof.Machine
end

