-- ==== Sys2Proof/Machine/VectorMath.lean ====
section
/-! DEFINITION. The arithmetic of the vector unit (R161 to R164, R213): each element's result and
class, computed exactly and rounded once. The special functions are enclosed in an interval of
integers at growing precision until both ends round alike. -/

namespace Sys2Proof.Machine

/-- The result of an arithmetic operation: a NaN made from inputs that are not NaN reports `made`
(R162, R72); anything else converts once (R70). -/
def vecRound (v : Val) (anyNaN : Bool) (made : Cls) (out : ElemFmt) (nonsat : Bool) : Nat × Cls :=
  match v with
  | .nan => (canonicalNaN out, if anyNaN then clsNaNIn else made)
  | v => convert v out rmRNE nonsat 0

def vecAdd (a b : Val) (out : ElemFmt) (nonsat : Bool) : Nat × Cls :=
  vecRound (Val.add a b) (a.isNaN || b.isNaN) clsInfIn out nonsat

def vecSub (a b : Val) (out : ElemFmt) (nonsat : Bool) : Nat × Cls := vecAdd a b.neg out nonsat

def vecMul (a b : Val) (out : ElemFmt) (nonsat : Bool) : Nat × Cls :=
  vecRound (Val.mul a b) (a.isNaN || b.isNaN) clsNaNIn out nonsat

/-- a × b + c with one rounding (R162). -/
def vecFma (a b c : Val) (out : ElemFmt) (nonsat : Bool) : Nat × Cls :=
  let p := Val.mul a b
  vecRound (Val.add p c) (a.isNaN || b.isNaN || c.isNaN) (if p.isNaN then clsNaNIn else clsInfIn)
    out nonsat

/-- a before b in the order of min and max, where −0 is the smaller zero (R162). -/
def vecBefore (a b : Val) : Bool :=
  if a.lt b then true
  else if b.lt a then false
  else a.sign || !b.sign

def vecMin (a b : Val) (out : ElemFmt) (nonsat : Bool) : Nat × Cls :=
  if a.isNaN || b.isNaN then (canonicalNaN out, clsNaNIn)
  else convert (if vecBefore a b then a else b) out rmRNE nonsat 0

def vecMax (a b : Val) (out : ElemFmt) (nonsat : Bool) : Nat × Cls :=
  if a.isNaN || b.isNaN then (canonicalNaN out, clsNaNIn)
  else convert (if vecBefore a b then b else a) out rmRNE nonsat 0

def vecAbs (a : Val) (out : ElemFmt) (nonsat : Bool) : Nat × Cls := convert a.abs out rmRNE nonsat 0
def vecNeg (a : Val) (out : ElemFmt) (nonsat : Bool) : Nat × Cls := convert a.neg out rmRNE nonsat 0

/-- A predicate over an ordering (R213 PRED). -/
def predHolds (pred : Nat) (lt eq : Bool) : Bool :=
  match pred with
  | 0 => eq
  | 1 => !eq
  | 2 => lt
  | 3 => lt || eq
  | 4 => !lt && !eq
  | _ => !lt

/-- The floating-point compare (R162, R213). -/
def vecCmp (a b : Val) (pred : Nat) : Nat :=
  if a.isNaN || b.isNaN then b2n (decide (pred = 1))
  else b2n (predHolds pred (a.lt b) (!(a.lt b) && !(b.lt a)))

/-- SELECT's chosen element as stored (R162). -/
def vecSelect (f : ElemFmt) (code : Nat) : Nat × Cls :=
  match f.kind with
  | .float =>
    match (decodeElem f code).1 with
    | .nan => (canonicalNaN f, clsNaNIn)
    | .inf _ => (code, clsInfIn)
    | .fin _ _ _ => (code, clsNone)
  | _ => (code, clsNone)

/-- INT32 operations on 32-bit patterns, by VOP code (R213). -/
def vecInt (vop pred a b : Nat) : Nat :=
  let sa := toSigned 32 a
  let sb := toSigned 32 b
  match vop with
  | 0x20 => trunc 32 (a + b)
  | 0x21 => trunc 32 (a + (2 ^ 32 - b % 2 ^ 32))
  | 0x22 => if sa ≤ sb then a else b
  | 0x23 => if sb ≤ sa then a else b
  | 0x24 => a &&& b
  | 0x25 => a ||| b
  | 0x26 => a ^^^ b
  | 0x27 => trunc 32 (a <<< (b % 32))
  | 0x28 => ofSigned 32 (sa / ((2 ^ (b % 32) : Nat) : Int))
  | 0x29 => trunc 32 a >>> (b % 32)
  | _ => b2n (predHolds pred (decide (sa < sb)) (decide (sa = sb)))

/-! ### Special functions (R162) -/

/-- Integer square root by bits, from bit k down. -/
def isqrtLoop (n : Nat) : Nat → Nat → Nat
  | 0, r => r
  | k + 1, r =>
    let r' := r + 2 ^ k
    isqrtLoop n k (if r' * r' ≤ n then r' else r)

/-- floor(sqrt n). -/
def isqrt (n : Nat) : Nat := isqrtLoop n (bitlen n / 2 + 1) 0

/-- A positive or negative value known to lie strictly between k and k + 1 units of 2^e, rounded
by way of a sticky bit; exact when `exact` says so. -/
def roundSticky (s : Bool) (k : Nat) (e : Int) (exact : Bool) (nonsat : Bool) : Nat × Cls :=
  roundTo s (2 * k + (if exact then 0 else 1)) (e - 1) fmtFP32 rmRNE nonsat 0

/-- 1 / a for a finite nonzero a. -/
def recipFin (s : Bool) (m : Nat) (e : Int) (nonsat : Bool) : Nat × Cls :=
  let k := bitlen m + 80
  roundSticky s (2 ^ k / m) (-(k : Int) - e) (decide (2 ^ k % m = 0)) nonsat

/-- 1 / sqrt(a) for a finite positive a. -/
def rsqrtFin (m : Nat) (e : Int) (nonsat : Bool) : Nat × Cls :=
  let m' := if e % 2 = 0 then m else 2 * m
  let e' := if e % 2 = 0 then e else e - 1
  let p := bitlen m' / 2 + 80
  let q := 2 ^ (2 * p) / m'
  let r := isqrt q
  roundSticky false r (-(p : Int) - e' / 2) (decide (2 ^ (2 * p) % m' = 0) && decide (r * r = q)) nonsat

/-- 2^p × 2 × atanh(num / den), within `terms` units, for num / den at most 1/3: the series in
fixed point. -/
def atanh2Fix (p num den : Nat) : Nat :=
  let z := num * 2 ^ p / den
  ((List.range (p + 8)).foldl (fun (acc : Nat × Nat) k =>
    (acc.1 + 2 * (acc.2 / (2 * k + 1)), acc.2 * num / den * num / den)) (0, z)).1

/-- 2^p × ln 2, from below. -/
def ln2Fix (p : Nat) : Nat := atanh2Fix p 1 3

/-- 2^p × exp(t / 2^p), from below, for 0 ≤ t < 2^p. -/
def expFix (p t : Nat) : Nat :=
  ((List.range (p + 8)).foldl (fun (acc : Nat × Nat) k =>
    (acc.1 + acc.2, acc.2 * t / (2 ^ p * (k + 1)))) (0, 2 ^ p)).1

/-- Bound in units of the last place on what the series lose at precision p. -/
def seriesErr (p : Nat) : Nat := 8 * p + 64

/-- Rounding of a value enclosed by [k − err, k + err] units of 2^e, when both ends agree. -/
def roundEnclosed (s : Bool) (k err : Nat) (e : Int) (nonsat : Bool) : Option (Nat × Cls) :=
  let lo := roundSticky s (k - err) e false nonsat
  let hi := roundSticky s (k + err) e false nonsat
  if lo = hi then some lo else none

/-- The first precision at which the enclosure decides. -/
def roundSearch (enc : Nat → Option (Nat × Cls)) (last : Nat × Cls) : List Nat → Nat × Cls
  | [] => last
  | p :: ps => match enc p with
    | some r => r
    | none => roundSearch enc last ps

/-- 2^a for a finite a (R162). -/
def exp2Fin (s : Bool) (m : Nat) (e : Int) (nonsat : Bool) : Nat × Cls :=
  let big := decide (200 * 2 ^ (-e).toNat ≤ m * 2 ^ e.toNat)
  if big then roundTo false 1 (if s then -200 else 200) fmtFP32 rmRNE nonsat 0
  else
    let d := (-e).toNat
    let x : Int := (if s then -1 else 1) * ((m * 2 ^ e.toNat : Nat) : Int)
    let n := x / ((2 ^ d : Nat) : Int)
    let fr := (x % ((2 ^ d : Nat) : Int)).toNat
    if fr = 0 then roundTo false 1 n fmtFP32 rmRNE nonsat 0
    else
      let enc := fun (p : Nat) =>
        let y := expFix p (fr * ln2Fix p / 2 ^ d)
        roundEnclosed false y (seriesErr p) (n - p) nonsat
      roundSearch enc (roundTo false 1 n fmtFP32 rmRNE nonsat 0) [128, 256, 512]

/-- log2(a) for a finite positive a (R162). -/
def log2Fin (m : Nat) (e : Int) (nonsat : Bool) : Nat × Cls :=
  let b := bitlen m - 1
  let q : Int := (b : Int) + e
  if m = 2 ^ b then roundTo (decide (q < 0)) q.natAbs 0 fmtFP32 rmRNE nonsat 0
  else
    -- y = m / 2^b in (1, 2); ln y = 2 atanh((m − 2^b) / (m + 2^b))
    let enc := fun (p : Nat) =>
      let l : Nat := atanh2Fix p (m - 2 ^ b) (m + 2 ^ b) * 2 ^ p / ln2Fix p
      let v : Int := q * ((2 ^ p : Nat) : Int) + l
      roundEnclosed (decide (v < 0)) v.natAbs (4 * seriesErr p) (-(p : Int)) nonsat
    roundSearch enc (roundTo (decide (q < 0)) q.natAbs 0 fmtFP32 rmRNE nonsat 0) [128, 256, 512]

/-- An infinity of a sign, or the largest finite value under SAT. -/
def bigFP32 (s nonsat : Bool) : Nat := if nonsat then infinityCode fmtFP32 s else largestFinite fmtFP32 s

/-- EXP2, LOG2, RECIP and RSQRT by VOP code, special cases of R162 included. -/
def vecSpecial (vop : Nat) (a : Val) (nonsat : Bool) : Nat × Cls :=
  match vop, a with
  | _, .nan => (canonicalNaN fmtFP32, clsNaNIn)
  | 0x10, .inf s => (if s then 0 else bigFP32 false nonsat, clsInfIn)
  | 0x10, .fin s m e => exp2Fin s m e nonsat
  | 0x11, .inf s => if s then (canonicalNaN fmtFP32, clsNaNIn) else (bigFP32 false nonsat, clsInfIn)
  | 0x11, .fin s m e =>
    if m = 0 then (bigFP32 true nonsat, clsInfIn)
    else if s then (canonicalNaN fmtFP32, clsNaNIn) else log2Fin m e nonsat
  | 0x12, .inf s => (b2n s * 2 ^ 31, clsInfIn)
  | 0x12, .fin s m e => if m = 0 then (bigFP32 s nonsat, clsInfIn) else recipFin s m e nonsat
  | _, .inf s => if s then (canonicalNaN fmtFP32, clsNaNIn) else (0, clsInfIn)
  | _, .fin s m e =>
    if m = 0 then (bigFP32 s nonsat, clsInfIn)
    else if s then (canonicalNaN fmtFP32, clsNaNIn) else rsqrtFin m e nonsat

/-- AMAX over values (R164). -/
def vecAmax (vs : List Val) : Nat × Cls :=
  if vs.any Val.isNaN then (canonicalNaN fmtFP32, clsNaNIn)
  else if vs.any Val.isInf then (infinityCode fmtFP32 false, clsInfIn)
  else
    let m := vs.foldl (fun a v => if a.lt v.abs then v.abs else a) (Val.fin false 0 0)
    convert m fmtFP32 rmRNE true 0

/-- SUM over values: one long accumulator, rounded once (R164). -/
def vecSum (vs : List Val) (out : ElemFmt) (mode : Nat) (nonsat : Bool) (r : Nat) : Nat × Cls :=
  (vs.foldl (fun a v => (a.addTerm v).1) LongAcc.zero).round out mode nonsat r

end Sys2Proof.Machine
end

