-- ==== Sys2Proof/Machine/Vector.lean ====
section
/-! DEFINITION. Runs of the vector unit (R161 to R165, R212 to R218): reading operands from the plot
store or the bins, the result of each operation, writing it back, and completion. -/

namespace Sys2Proof.Machine

open Sys2Proof

/-! ### Operands -/

/-- Elements read: their codes, for each whether it came from an uncorrected word, how many were
substituted for words of poisoned bin rows. -/
structure VecSrc where
  codes : List Nat
  bad : List Bool
  poisoned : Nat
  deriving DecidableEq, Repr

/-- FP32 or INT32 words of a bin window (R95, R123). -/
def State.binReadRun (s : State) (f : FieldId) (p : PlotId) (a : Nat) : Nat → State × List Nat × Nat
  | 0 => (s, [], 0)
  | n + 1 =>
    let t := (a - 0x400000) / 0x10000
    let row := (a - 0x400000) % 0x10000 / 128
    let col := a % 128 / 4
    if s.binPoisoned f p t row then
      let (s1, vs, k) := State.binReadRun s f p (a + 4) n
      (s1, 0x7FC00000 :: vs, k + 1)
    else
      let (s1, v) := s.binReadRaw f p t row col
      let (s2, vs, k) := State.binReadRun s1 f p (a + 4) n
      (s2, v :: vs, k)

/-- Byte addresses of the first and the last bit of element i of a stream of w-bit elements at byte address a. -/
def elemBytes (a w i : Nat) : List Nat := [a + i * w / 8, a + (i * w + w - 1) / 8]

/-- Elements j0 to j0 + n − 1 of an operand (R215), each marked where a 64-bit word it lies in is uncorrected (R158). -/
def State.vecRead (s : State) (f : FieldId) (p : PlotId) (base w j0 n : Nat) : State × VecSrc :=
  let a := elemAddr base w j0
  if n = 0 then (s, ⟨[], [], 0⟩)
  else if a < storeEnd then
    let (s1, bs, bad) := s.storeRead f p a ((n * w + 7) / 8) rqVector
    let codes := unpackCodes bs w n
    (s1, ⟨codes, (List.range n).map (fun i => (elemBytes a w i).any (fun b => bad.getD (b / 8 - a / 8) false)), 0⟩)
  else
    let (s1, vs, k) := s.binReadRun f p a n
    (s1, ⟨vs, List.replicate n false, k⟩)

/-! ### Results -/

/-- A byte list packed from codes of w bits, over the old value of its last byte. -/
def packCodes (codes : List Nat) (w : Nat) (oldLast : Nat) : List Byte :=
  let v := (codes.zipIdx).foldl (fun acc (c, i) => acc + (c % 2 ^ w) * 2 ^ (i * w)) 0
  let nb := (codes.length * w + 7) / 8
  let used := codes.length * w - (nb - 1) * 8
  leBytes nb (if codes = [] then 0 else setBits v ((nb - 1) * 8 + used) (8 - used)
    (oldLast / 2 ^ used))

/-- Words of bin rows written from an address. -/
def State.binWriteRun (s : State) (f : FieldId) (p : PlotId) (a : Nat) : List Nat → State
  | [] => s
  | v :: vs => State.binWriteRun
      (s.binWrite f p ((a - 0x400000) / 0x10000) ((a - 0x400000) % 0x10000 / 128) (a % 128 / 4) v) f p (a + 4) vs

/-- Bin rows (window offset / 128) that a run of words from address a covers whole. -/
def wholeRows (a n : Nat) : List Nat :=
  let first := (a + 127) / 128
  let last := (a + 4 * n) / 128
  (List.range (last - first)).map (fun i => first + i)

/-- Tine and row of a bin line number (address / 128). -/
def rowOfLine (l : Nat) : Nat × Nat := ((l * 128 - 0x400000) / 0x10000, (l * 128 - 0x400000) % 0x10000 / 128)

/-- Whether the last byte of a run of n elements of w bits is written in part. -/
def partByte (n w : Nat) : Bool := decide (n * w % 8 ≠ 0)

/-- Elements j0 on of a destination written, with the elements that depend on uncorrected words:
their 64-bit words take the poison syndrome, or their bin rows the poison bit (R123, R158). -/
def State.vecWrite (s : State) (f : FieldId) (p : PlotId) (base w j0 : Nat) (codes : List Nat)
    (dep : List Bool) : State :=
  if codes = [] then s
  else
    let a := elemAddr base w j0
    let bads := (dep.zipIdx).flatMap (fun (b, i) => if b then elemBytes a w i else [])
    if a < storeEnd then
      let nb := (codes.length * w + 7) / 8
      let old := (Mem.byte s.mem.store[f] (storeKey p (a + nb - 1))).toNat
      let s1 := s.storeWrite f p a (packCodes codes w old) rqVector (partByte codes.length w)
      bads.foldl (fun t b => t.storePoison f p (b / 8) 1) s1
    else
      let s1 := s.binWriteRun f p a codes
      let s2 := (wholeRows a codes.length).foldl (fun t l =>
        t.setBinPoison f p (rowOfLine l).1 (rowOfLine l).2 false) s1
      bads.foldl (fun t b => t.setBinPoison f p (rowOfLine (b / 128)).1 (rowOfLine (b / 128)).2 true) s2

/-- The result and class of one element of the operations that work element by element (R162, R213). -/
def vecElem (vop : Nat) (fin fout : ElemFmt) (nonsat : Bool) (mode pred r : Nat) (a b c : Nat) : Nat × Cls :=
  let va := decodeElem fin a
  let vb := (decodeElem fin b).1
  let vc := (decodeElem fin c).1
  match vop with
  | 0x01 => vecAdd va.1 vb fout nonsat
  | 0x02 => vecSub va.1 vb fout nonsat
  | 0x03 => vecMul va.1 vb fout nonsat
  | 0x04 => vecFma va.1 vb vc fout nonsat
  | 0x05 => vecMin va.1 vb fout nonsat
  | 0x06 => vecMax va.1 vb fout nonsat
  | 0x07 => vecAbs va.1 fout nonsat
  | 0x08 => vecNeg va.1 fout nonsat
  | 0x09 => (vecCmp va.1 vb pred, clsNone)
  | 0x0A => vecSelect fin (if c = 0 then b else a)
  | 0x30 => let x := convert va.1 fout mode nonsat r; (x.1, clsJoin va.2 x.2)
  | _ => if 0x20 ≤ vop then (vecInt vop pred a b, clsNone) else vecSpecial vop va.1 nonsat

/-- What an operation writes: element codes with their dependence on uncorrected words, side bytes
with theirs, and its class reports. -/
structure VecOut where
  codes : List Nat
  dep : List Bool
  side : List Byte
  sideDep : List Bool
  cls : ClsCounts

/-- The captured parameters of a vector operation. -/
structure VecCtx where
  vop : Nat
  fin : Fmt
  fout : Fmt
  nonsat : Bool
  mode : Nat
  pred : Nat
  /-- the random word of element position i of the operation (R163) -/
  r : Nat → Nat

/-- BENC and BSCALE (R163, R215): blocks of 32 from the first element on. -/
def vecEncode (x : VecCtx) (src : VecSrc) : VecOut :=
  let vals := src.codes.map (fun c => (decodeElem x.fin.elem c).1)
  let nb := (vals.length + 31) / 32
  let blocks := (List.range nb).map (fun b =>
    (blockEncode x.fout ((vals.drop (32 * b)).take 32) x.mode (fun i => x.r (32 * b + i)),
     ((src.bad.drop (32 * b)).take 32).any id))
  let sb := x.fout.sideBytes
  let only := decide (x.vop = 0x32)
  { codes := if only then [] else blocks.flatMap (fun b => b.1.1.codes),
    dep := if only then [] else blocks.flatMap (fun b => List.replicate 32 b.2),
    side := blocks.flatMap (fun b => leBytes sb (b.1.1.scale + b.1.1.shifts * 256)),
    sideDep := blocks.flatMap (fun b => List.replicate sb b.2),
    cls := if only then
        let nanBlocks := (blocks.filter (fun b => b.1.1.scale = 0xFF)).length
        let infs := ((List.range nb).zip blocks).foldl (fun n (i, b) =>
          if b.1.1.scale = 0xFF then n
          else n + (((vals.drop (32 * i)).take 32).filter Val.isInf).length) 0
        clsBump (clsBump clsZero clsNaNIn (32 * nanBlocks)) clsInfIn infs
      else clsOf (blocks.flatMap (fun b => b.1.2)) }

/-- BDEC (R60, R213): each element with its block's scale, rounded. -/
def vecDecode (x : VecCtx) (src : VecSrc) (side : List Byte) (sideBad : List Bool) : VecOut :=
  let sb := x.fin.sideBytes
  let at' := fun (i : Nat) => ((side.getD i 0 : Byte)).toNat
  let res := (src.codes.zipIdx).map (fun (c, i) =>
    let b := i / 32
    let v := decodeBlockElem x.fin (at' (sb * b)) (if x.fin.gfp then at' (sb * b + 1) else 0) (i % 32) c
    let y := convert v.1 x.fout.elem x.mode x.nonsat (x.r i)
    (y.1, clsJoin v.2 y.2))
  { codes := res.map Prod.fst,
    dep := (src.bad.zipIdx).map (fun (d, i) => d || sideBad.getD (i / 32) false),
    side := [], sideDep := [], cls := clsOf (res.map Prod.snd) }

/-- AMAX and SUM (R164). -/
def vecReduce (x : VecCtx) (src : VecSrc) : VecOut :=
  let vals := src.codes.map (fun c => (decodeElem x.fin.elem c).1)
  let y := if x.vop = 0x38 then vecAmax vals else vecSum vals x.fout.elem x.mode x.nonsat (x.r 0)
  { codes := [y.1], dep := [src.bad.any id], side := [], sideDep := [], cls := clsOf [y.2] }

/-- Element-by-element operations. -/
def vecMap (x : VecCtx) (a b c : VecSrc) : VecOut :=
  let res := (a.codes.zipIdx).map (fun (u, i) =>
    vecElem x.vop x.fin.elem x.fout.elem x.nonsat x.mode x.pred (x.r i) u (b.codes.getD i 0) (c.codes.getD i 0))
  { codes := res.map Prod.fst,
    dep := (a.bad.zipIdx).map (fun (d, i) => d || b.bad.getD i false || c.bad.getD i false),
    side := [], sideDep := [], cls := clsOf (res.map Prod.snd) }

/-! ### A run -/

/-- Bytes written to a side array, words that depend on uncorrected ones poisoned. -/
def State.sideWrite (s : State) (f : FieldId) (p : PlotId) (a : Nat) (bs : List Byte) (dep : List Bool) :
    State :=
  let s1 := s.storeWrite f p a bs rqVector
  ((dep.zipIdx).filterMap (fun (b, i) => if b then some ((a + i) / 8) else none)).foldl
    (fun t w => t.storePoison f p w 1) s1

/-- What the run of a vector instruction leaves, less its entry in the queue (R162 to R164, R213 to R216): every source is
read before any destination byte is written. With the state, the counts of its classes, and whether operand bytes, or words
written in part, were uncorrected, bin rows poisoned, or the mode asked for not applied (R67; with COUNT 0 only a reduction has a result, R214). -/
def State.tvecWork (s : State) (f : FieldId) (p : PlotId) (e : QEntry) (d md : Nat) :
    State × ClsCounts × Bool × Bool × Bool :=
  let vop := tvVop d
  match fmtOf (tvIn d), fmtOf (tvOut d) with
  | some fin, some fout =>
    if vop = 0 then (s, clsZero, false, false, false)
    else
      let j0 := tvJ0 md
      let n := tvCount d
      let base := (dfield d 36 6 + j0) % 2 ^ 48
      let x : VecCtx := {
        vop := vop, fin := fin, fout := fout, nonsat := tvNonsat d, mode := tvMode d, pred := tvPred d,
        r := fun i => srWord e.seed e.step (dfield d 32 4) base i }
      let w := fin.elem.width
      let (s1, a) := s.vecRead f p (dfield d 8 4) w j0 n
      let (s2, b) : State × VecSrc :=
        if vopReadsB vop then
          if tvBScalar d then (s1, ⟨List.replicate n (dfield d 44 4 % 2 ^ w), List.replicate n false, 0⟩)
          else s1.vecRead f p (dfield d 12 4) w j0 n
        else (s1, ⟨[], [], 0⟩)
      let (s3, c) : State × VecSrc :=
        if vopReadsC vop then s2.vecRead f p (dfield d 16 4) (if vop = 0xA then 32 else w) j0 n
        else (s2, ⟨[], [], 0⟩)
      let sb := fin.sideBytes
      let sideA := dfield d 28 4 + sb * (j0 / 32)
      let (s4, side, sideWords) : State × List Byte × List Bool :=
        if vop = 0x33 then s3.storeRead f p sideA (sb * ((n + 31) / 32)) rqVector else (s3, [], [])
      let sideBad := (List.range ((n + 31) / 32)).map (fun k =>
        sideWords.getD ((sideA + sb * k) / 8 - sideA / 8) false ||
          sideWords.getD ((sideA + sb * k + sb - 1) / 8 - sideA / 8) false)
      let o : VecOut :=
        if vop = 0x31 ∨ vop = 0x32 then vecEncode x a
        else if vop = 0x33 then vecDecode x a side sideBad
        else if vopReduces vop then vecReduce x a
        else vecMap x a b c
      let dj := if vopReduces vop then 0 else j0
      let s5 := s4.vecWrite f p (dfield d 4 4) fout.elem.width dj o.codes o.dep
      let s6 := if vopWritesSide vop then
        s5.sideWrite f p (dfield d 24 4 + fout.sideBytes * (j0 / 32)) o.side o.sideDep else s5
      let hit := s4.storePartBad f p (elemAddr (dfield d 4 4) fout.elem.width dj)
          ((o.codes.length * fout.elem.width + 7) / 8) (partByte o.codes.length fout.elem.width) ||
        (vopWritesSide vop && s5.storePartBad f p (dfield d 24 4 + fout.sideBytes * (j0 / 32)) o.side.length false)
      let poisoned := a.poisoned + b.poisoned + c.poisoned
      let cc := clsBump o.cls clsNaNIn poisoned
      let cc := cc.set 0 0
      let na := tvNonsat d && vopUsesOvf vop && !nonsatApplies fout && (decide (n ≠ 0) || vopReduces vop)
      let uncorr := a.bad.any id || b.bad.any id || c.bad.any id || sideBad.any id || hit
      (s6.classReports f p (some (dfield d 42 2)) cc, cc, uncorr, decide (poisoned ≠ 0), na)
  | _, _ => (s, clsZero, false, false, false)

/-- The run of a vector instruction: its results are written and its claims released (R153, R196). -/
def State.tvecRun (s : State) (f : FieldId) (p : PlotId) (e : QEntry) (d md : Nat) : State :=
  let (t, cc, uncorr, poisoned, na) := s.tvecWork f p e d md
  t.updEntry f p e.qsn (fun x => { x with
    phase := .done, claims := [], classSeen := x.classSeen ||| clsSeen cc, uncorrected := uncorr,
    binPoisoned := poisoned, modeNA := na })

/-- A vector instruction starts: the oldest that has not, when its VOP is the one named, its claims
are free, no earlier fence holds it and the partition is not held (R35, R153, R165, R221, R222). -/
def State.tvecStart (s : State) (f : FieldId) (p : PlotId) (vop : Nat) : Result := s.clocked <|
  match (s.plot f p).nextOf 1 [.waiting] with
  | none => .next s
  | some (e, before) =>
    match e.op with
    | .tvec d md =>
      if tvVop d ≠ vop || syncHeld before e.op || (s.field f).held then .next s
      else if !(e.claims.all (fun c => claimFree before c)) then .next (s.pwrap f p Reg.PLT_QUEUE_STALL.CLAIM)
      else if e.claims.any (fun c => claimBusySeg before c) then .next (s.pwrap f p Reg.PLT_TINE_STALL.BIN_WAIT)
      else finish (s.tvecRun f p e d md)
    | _ => .next s

/-! ### Meanings -/

/-- TVEC_NOP (R213): VOP 0x00. -/
def execTvecNop (f : FieldId) (p : PlotId) (s : State) : Result := s.tvecStart f p 0x00

/-- TVEC_ADD (R213): VOP 0x01. -/
def execTvecAdd (f : FieldId) (p : PlotId) (s : State) : Result := s.tvecStart f p 0x01

/-- TVEC_SUB (R213): VOP 0x02. -/
def execTvecSub (f : FieldId) (p : PlotId) (s : State) : Result := s.tvecStart f p 0x02

/-- TVEC_MUL (R213): VOP 0x03. -/
def execTvecMul (f : FieldId) (p : PlotId) (s : State) : Result := s.tvecStart f p 0x03

/-- TVEC_FMA (R213): VOP 0x04. -/
def execTvecFma (f : FieldId) (p : PlotId) (s : State) : Result := s.tvecStart f p 0x04

/-- TVEC_MIN (R213): VOP 0x05. -/
def execTvecMin (f : FieldId) (p : PlotId) (s : State) : Result := s.tvecStart f p 0x05

/-- TVEC_MAX (R213): VOP 0x06. -/
def execTvecMax (f : FieldId) (p : PlotId) (s : State) : Result := s.tvecStart f p 0x06

/-- TVEC_ABS (R213): VOP 0x07. -/
def execTvecAbs (f : FieldId) (p : PlotId) (s : State) : Result := s.tvecStart f p 0x07

/-- TVEC_NEG (R213): VOP 0x08. -/
def execTvecNeg (f : FieldId) (p : PlotId) (s : State) : Result := s.tvecStart f p 0x08

/-- TVEC_CMP (R213): VOP 0x09. -/
def execTvecCmp (f : FieldId) (p : PlotId) (s : State) : Result := s.tvecStart f p 0x09

/-- TVEC_SELECT (R213): VOP 0x0a. -/
def execTvecSelect (f : FieldId) (p : PlotId) (s : State) : Result := s.tvecStart f p 0x0a

/-- TVEC_EXP2 (R213): VOP 0x10. -/
def execTvecExp2 (f : FieldId) (p : PlotId) (s : State) : Result := s.tvecStart f p 0x10

/-- TVEC_LOG2 (R213): VOP 0x11. -/
def execTvecLog2 (f : FieldId) (p : PlotId) (s : State) : Result := s.tvecStart f p 0x11

/-- TVEC_RECIP (R213): VOP 0x12. -/
def execTvecRecip (f : FieldId) (p : PlotId) (s : State) : Result := s.tvecStart f p 0x12

/-- TVEC_RSQRT (R213): VOP 0x13. -/
def execTvecRsqrt (f : FieldId) (p : PlotId) (s : State) : Result := s.tvecStart f p 0x13

/-- TVEC_IADD (R213): VOP 0x20. -/
def execTvecIadd (f : FieldId) (p : PlotId) (s : State) : Result := s.tvecStart f p 0x20

/-- TVEC_ISUB (R213): VOP 0x21. -/
def execTvecIsub (f : FieldId) (p : PlotId) (s : State) : Result := s.tvecStart f p 0x21

/-- TVEC_IMIN (R213): VOP 0x22. -/
def execTvecImin (f : FieldId) (p : PlotId) (s : State) : Result := s.tvecStart f p 0x22

/-- TVEC_IMAX (R213): VOP 0x23. -/
def execTvecImax (f : FieldId) (p : PlotId) (s : State) : Result := s.tvecStart f p 0x23

/-- TVEC_AND (R213): VOP 0x24. -/
def execTvecAnd (f : FieldId) (p : PlotId) (s : State) : Result := s.tvecStart f p 0x24

/-- TVEC_OR (R213): VOP 0x25. -/
def execTvecOr (f : FieldId) (p : PlotId) (s : State) : Result := s.tvecStart f p 0x25

/-- TVEC_XOR (R213): VOP 0x26. -/
def execTvecXor (f : FieldId) (p : PlotId) (s : State) : Result := s.tvecStart f p 0x26

/-- TVEC_SLL (R213): VOP 0x27. -/
def execTvecSll (f : FieldId) (p : PlotId) (s : State) : Result := s.tvecStart f p 0x27

/-- TVEC_SRA (R213): VOP 0x28. -/
def execTvecSra (f : FieldId) (p : PlotId) (s : State) : Result := s.tvecStart f p 0x28

/-- TVEC_SRL (R213): VOP 0x29. -/
def execTvecSrl (f : FieldId) (p : PlotId) (s : State) : Result := s.tvecStart f p 0x29

/-- TVEC_ICMP (R213): VOP 0x2a. -/
def execTvecIcmp (f : FieldId) (p : PlotId) (s : State) : Result := s.tvecStart f p 0x2a

/-- TVEC_CVT (R213): VOP 0x30. -/
def execTvecCvt (f : FieldId) (p : PlotId) (s : State) : Result := s.tvecStart f p 0x30

/-- TVEC_BENC (R213): VOP 0x31. -/
def execTvecBenc (f : FieldId) (p : PlotId) (s : State) : Result := s.tvecStart f p 0x31

/-- TVEC_BSCALE (R213): VOP 0x32. -/
def execTvecBscale (f : FieldId) (p : PlotId) (s : State) : Result := s.tvecStart f p 0x32

/-- TVEC_BDEC (R213): VOP 0x33. -/
def execTvecBdec (f : FieldId) (p : PlotId) (s : State) : Result := s.tvecStart f p 0x33

/-- TVEC_AMAX (R213): VOP 0x38. -/
def execTvecAmax (f : FieldId) (p : PlotId) (s : State) : Result := s.tvecStart f p 0x38

/-- TVEC_SUM (R213): VOP 0x39. -/
def execTvecSum (f : FieldId) (p : PlotId) (s : State) : Result := s.tvecStart f p 0x39

/-- TVEC_COMPLETE (R196, R197): the oldest vector instruction whose results are written completes. -/
def execTvecComplete (f : FieldId) (p : PlotId) (s : State) : Result := s.clocked <|
  match (s.plot f p).queue.find? (fun e => decide (e.op.unit = 1) && decide (e.phase = .done)) with
  | none => .next s
  | some e =>
    let (s1, seen) := s.injClassReport f p e
    finish (s1.complete f p e (opStatus e.uncorrected e.binPoisoned e.modeNA) seen)

end Sys2Proof.Machine
end

