-- ==== Sys2Proof/Machine/GatewayOps.lean ====
section
/-! DEFINITION. Operations the gateway and the transfer engines share (R231 to R240, R399 to R418): field
address regions, lines written and read at a target, packets issued, flows, completion of a line at its
requester, fences. -/

namespace Sys2Proof.Machine

open Sys2Proof

/-! ### Field addresses (R231, R232) -/

/-- What a line request finds at a field address. -/
inductive Target where
  | hbm
  | store (p : PlotId) (a : Nat)
  | unmapped
  deriving DecidableEq, Repr

/-- First address of the plot stores. -/
def storesBase : Nat := 0x100000000000

/-- The region of a field address (R231). -/
def targetOf (a : Nat) : Target :=
  if a < hbmTop then .hbm
  else if storesBase ≤ a ∧ a < storesBase + 256 * storeSize then
    .store (plotIx ((a - storesBase) / storeSize)) ((a - storesBase) % storeSize)
  else .unmapped

/-- Runs of set bits of a byte mask, as offset and length. -/
def maskRuns (mask : Nat) : List (Nat × Nat) :=
  (List.range 128).foldl (fun rs i =>
    if bit mask i then
      match rs.getLast? with
      | some (a, n) => if a + n = i then rs.dropLast ++ [(a, n + 1)] else rs ++ [(i, 1)]
      | none => [(i, 1)]
    else rs) []

/-- Every byte of a line. -/
def wholeMask : Nat := 2 ^ 128 - 1

/-- A write of selected bytes of a line of HBM (R240, R422): one write, whatever its mask. -/
def State.lineWriteMask (s : State) (f : FieldId) (l mask : Nat) (data : List Byte) (poisoned : Bool) (src : Nat) :
    State × Nat :=
  s.lineRuns f l ((maskRuns mask).map (fun (a, n) => (a, (data.drop a).take n))) poisoned src

/-- A write of selected bytes of the line at a field address, with the status its requester receives
(R232, R419). -/
def State.targetWrite (s : State) (f : FieldId) (a mask : Nat) (data : List Byte) (poisoned : Bool) (src : Nat) :
    State × Nat :=
  match targetOf a with
  | .unmapped => (s, St.ADDRESS_UNMAPPED)
  | .hbm => s.lineWriteMask f (a / 128) mask data poisoned src
  | .store p o =>
    if s.vacant f p then (s, St.PLOT_FALLOW)
    else if !s.partitionUp f then (s, St.RESETTING)
    else if poisoned then (s.storePoison f p (o / 8) 16, St.OK)
    else ((maskRuns mask).foldl (fun t (b, n) => t.storeWrite f p (o + b) ((data.drop b).take n) rqMesh) s, St.OK)

/-- A read of the line at a field address: the status, the bytes, whether they are poisoned. DESIGN CHOICE (log entry 39): a read
of a plot store carries requester code 3, that of the mesh; R158 codes only the mesh write's read. -/
def State.targetRead (s : State) (f : FieldId) (a src : Nat) : State × Nat × List Byte × Bool :=
  match targetOf a with
  | .unmapped => (s, St.ADDRESS_UNMAPPED, [], false)
  | .hbm =>
    let (s1, x) := s.lineRead f (a / 128) src
    (s1, St.OK, x.data, x.poisonLo || x.poisonHi)
  | .store p o =>
    if s.vacant f p then (s, St.PLOT_FALLOW, [], false)
    else if !s.partitionUp f then (s, St.RESETTING, [], false)
    else
      let (s1, b, bad) := s.storeRead f p o 128 rqMesh
      (s1, St.OK, b, bad.any id)

/-! ### Local lines of a plot (R123, R158, R171, R239) -/

/-- The 32-bit words of bytes. -/
def wordsOf (bs : List Byte) (n : Nat) : List Nat := (List.range n).map (fun i => leNat ((bs.drop (4 * i)).take 4))

/-- The bin rows (address / 128) that a line at a local address touches: one, or two where the address lies inside a row. -/
def lineRows (a : Nat) : List Nat := if a % 128 = 0 then [a / 128] else [a / 128, a / 128 + 1]

/-- The poison bits of bin rows, by their line number, set or cleared. -/
def State.setRowsPoison (s : State) (f : FieldId) (p : PlotId) (rows : List Nat) (b : Bool) : State :=
  rows.foldl (fun t l => t.setBinPoison f p (rowOfLine l).1 (rowOfLine l).2 b) s

/-- A line written at a local address by the transfer engine: a bin row it covers whole loses its poison bit (R171); a line
marked poisoned poisons every row, and every 64-bit word of the plot store, that it touches (R239). DESIGN CHOICE (log entry
44): LOCAL has no alignment in the spec, and in a bin window its two lowest bits are dropped. -/
def State.localWriteLine (s : State) (f : FieldId) (p : PlotId) (a : Nat) (data : List Byte) (poisoned : Bool) : State :=
  if a < storeEnd then
    if poisoned then s.storePoison f p (a / 8) ((a + 127) / 8 - a / 8 + 1) else s.storeWrite f p a data rqXfer
  else if poisoned then s.setRowsPoison f p (lineRows a) true
  else (s.binWriteRun f p a (wordsOf data 32)).setRowsPoison f p (wholeRows a 32) false

/-- The old value of an atomic written at LOCAL, or its words poisoned (R415, R421). -/
def State.localWriteOld (s : State) (f : FieldId) (p : PlotId) (a n v : Nat) (poisoned : Bool) : State :=
  if a < storeEnd then
    if poisoned then s.storePoison f p (a / 8) 1 else s.storeWrite f p a (leBytes n v) rqXfer
  else
    let (t, row) := rowOfLine (a / 128)
    if poisoned then s.setBinPoison f p t row true else s.binWriteRun f p a (wordsOf (leBytes n v) (n / 4))

/-- A local line read for a put: its bytes, whether words were uncorrected, words of poisoned bin rows. -/
def State.localReadLine (s : State) (f : FieldId) (p : PlotId) (a : Nat) : State × List Byte × Bool × Nat :=
  if a < storeEnd then
    let (s1, b, bad) := s.storeRead f p a 128 rqXfer
    (s1, b, bad.any id, 0)
  else
    let (s1, vs, k) := s.binReadRun f p a 32
    (s1, vs.flatMap (leBytes 4), false, k)

/-! ### The gateway's records (R407, R408) -/

def State.gw (s : State) (f : FieldId) : GatewayUnit := (s.field f).gw
def State.updGw (s : State) (f : FieldId) (g : GatewayUnit → GatewayUnit) : State :=
  s.updField f (fun F => { F with gw := g F.gw })

/-- The flow record of a node. -/
def flowKey (node : Nat) : Nat := node % 8192

def State.flowTx (s : State) (f : FieldId) (node : Nat) : FlowTx := SMap.get (s.gw f).tx FlowTx.init (flowKey node)
def State.setFlowTx (s : State) (f : FieldId) (node : Nat) (r : FlowTx) : State :=
  s.updGw f (fun G => { G with tx := SMap.set G.tx FlowTx.init (flowKey node) r })
def State.flowRx (s : State) (f : FieldId) (node : Nat) : FlowRx := SMap.get (s.gw f).rx FlowRx.init (flowKey node)
def State.setFlowRx (s : State) (f : FieldId) (node : Nat) (r : FlowRx) : State :=
  s.updGw f (fun G => { G with rx := SMap.set G.rx FlowRx.init (flowKey node) r })

/-- The flow epoch the next line of a flow carries. -/
def State.flowEpoch (s : State) (f : FieldId) (node : Nat) : Nat := ((s.gw f).epoch + (s.flowTx f node).fepoch) % 256

/-- s is before t (R407). -/
def seqBefore (s t : Nat) : Bool :=
  let d := (t + 2 ^ 32 - s) % 2 ^ 32
  decide (1 ≤ d) && decide (d < 2 ^ 31)

/-- s is covered by an acknowledgement of t. -/
def seqReached (s t : Nat) : Bool := decide (s = t) || seqBefore s t

def GwLine.ordered (l : GwLine) : Bool := kindOrdered l.kind
def GwLine.multicast (l : GwLine) : Bool := decide (l.kind = kMcastPut)

/-- Lines that hold a copy in the retransmit store, and its size (R408). -/
def GatewayUnit.stored (G : GatewayUnit) : Nat := (G.lines.filter (fun l => l.sent && (l.ordered || l.multicast))).length
def retransmitStore : Nat := 65536

/-- Whether the field's allotment is halted (R416). -/
def State.halted (s : State) (f : FieldId) : Bool := decide (s.freg f Reg.GWY_ALLOT_HALT.HALTED = 1)

/-! ### Sending (R366, R404, R413) -/

/-- A packet is issued to the router on a channel. -/
def State.issuePacket (s : State) (f : FieldId) (vc : Nat) (p : Packet) : State :=
  s.updRouter f (fun R => { R with issued := SMap.set R.issued [] vc (SMap.get R.issued [] vc ++ [p]) })

/-- A packet of this field: the route header filled in as at issue (R366, R378). -/
def State.newPacket (s : State) (f : FieldId) (dst cls key : Nat) (body : List Byte) : Packet :=
  { dst := dst, src := s.node f, allot := if cls = 0 then mgmtAllot else s.allot f, cls := cls, stage := 0, exit := 0,
    exitV := false, mcast := false, maxis := 0, key := key, body := body }

/-- The packet of a line. -/
def State.linePacket (s : State) (f : FieldId) (l : GwLine) (retx : Bool) : Packet :=
  let h : RHdr :=
    { rhKind l.kind with
      mask := l.mask, typ := l.typ, fepoch := l.fepoch, seq := l.seq, operand := l.operand,
      txn := if l.ordered then 0 else l.id % 2 ^ 32,
      flags := (if l.opens then fOpen else 0) + (if retx then fRetx else 0) + (if l.poisoned then fPoison else 0) }
  { s.newPacket f l.dst l.cls l.addr (rhBytes h ++ l.data) with mcast := l.multicast, maxis := l.maxis }

/-- The copy of a multicast line for one member. -/
def State.memberPacket (s : State) (f : FieldId) (l : GwLine) (c : Nat) : Packet := mcastCopyOf (s.linePacket f l true) c

/-- A request is sent, unless the point REQ_DROP discards it (R697). -/
def State.gwSend (s : State) (f : FieldId) (l : GwLine) (p : Packet) : State :=
  let arg := s.injArg f injGwy
  let hit := s.injArmed f injGwy 1 && decide (bits arg 0 16 = l.dst)
  let s1 := if hit then s.injFire f injGwy else s
  let lost := l.lost || (hit && bit arg 16)
  let s2 := s1.updGw f (fun G => { G with
    lines := G.lines.map (fun x => if x.id = l.id then { x with sent := true, deferred := false, lost := lost } else x),
    redSent := if l.kind = kPutReduce then SMap.set G.redSent false l.dst true else G.redSent })
  if hit || l.lost then s2 else s2.issuePacket f l.cls p

/-- A line joins the gateway's lines: an ordered one takes its sequence number (R407), any other one its
transaction number, and is sent unless it needs a place in the retransmit store. -/
def State.gwEnqueue (s : State) (f : FieldId) (l : GwLine) : State :=
  let id := (s.gw f).nextReq
  let r := s.flowTx f l.dst
  let x : GwLine :=
    if l.ordered then { l with id := id, seq := r.next, fepoch := s.flowEpoch f l.dst, opens := r.opens }
    else if l.multicast then { l with id := id, due := (s.mcastMembers f l.maxis l.mask).map (fun c => (c, 0)) }
    else { l with id := id }
  let s1 := s.updGw f (fun G => { G with nextReq := id + 1, lines := G.lines ++ [x] })
  if l.ordered then s1.setFlowTx f l.dst { r with next := (r.next + 1) % 2 ^ 32, opens := false }
  else if l.multicast then s1
  else s1.gwSend f x (s1.linePacket f x false)

/-- A line of the rim's own — mirroring, a push, a load — is accepted by the gateway, or refused while the allotment is halted,
and then completes with ALLOT_HALTED (R403, R416). -/
def State.gwAccept (s : State) (f : FieldId) (l : GwLine) : State :=
  if s.halted f then s.updGw f (fun G => { G with mirDone := G.mirDone ++ [(l, St.ALLOT_HALTED)] }) else s.gwEnqueue f l

/-- A line of a kind, before it is numbered. -/
def gwLine (kind cls dst addr : Nat) (owner : GwOwner) : GwLine :=
  { id := 0, kind := kind, cls := cls, dst := dst, addr := addr, typ := 0, operand := 0, data := [], poisoned := false,
    maxis := 0, mask := 0, owner := owner, seq := 0, fepoch := 0, opens := false, sent := false, resends := 0,
    defers := 0, deferred := false, delay := 0, lost := false, due := [], fails := [] }

/-! ### Completion (R170, R412, R415) -/

/-- Whether the last line of a transfer is behind it, with the lines still outstanding: every line has been issued, and none
is outstanding. -/
def QEntry.xferOver (e : QEntry) (left : List Nat) : Bool :=
  match e.op with
  | .txfer d => decide (e.issued = xfLines d) && left.isEmpty
  | _ => false

/-- A line of a plot's transfer is no longer outstanding; a status other than OK is kept for the descriptor. With the last
line of a GET or an atomic the last byte of the range has been written, and the write claim goes (R154). -/
def State.xferDone (s : State) (f : FieldId) (p : PlotId) (qsn line status : Nat) : State :=
  s.updEntry f p qsn (fun e => { e with
    outstanding := e.outstanding.filter (fun x => x ≠ line),
    claims := if e.xferOver (e.outstanding.filter (fun x => x ≠ line)) then [] else e.claims,
    fails := if status = St.OK then e.fails else (e.fails.filter (fun x => x.1 ≠ line)) ++ [(line, status)] })

/-- A line leaves the gateway with a status. -/
def State.lineFinish (s : State) (f : FieldId) (l : GwLine) (status : Nat) : State :=
  let s1 := s.updGw f (fun G => { G with lines := G.lines.filter (fun x => x.id ≠ l.id) })
  match l.owner with
  | .plot p qsn line _ => s1.xferDone f p qsn line status
  | .fence p qsn =>
    s1.updGw f (fun G => { G with fences := G.fences.map (fun x =>
      if x.p = p ∧ x.qsn = qsn then
        { x with flushes := x.flushes.filter (fun i => i ≠ l.id), status := if status = St.OK then x.status else status }
      else x) })
  | .gone _ => s1
  | .none => s1
  | _ => s1.updGw f (fun G => { G with mirDone := G.mirDone ++ [(l, status)] })

/-- The bytes a failed or answered get or atomic leaves at its plot (R239, R415, R421). -/
def State.lineLocal (s : State) (f : FieldId) (l : GwLine) (data : List Byte) (old : Nat) (poisoned : Bool) : State :=
  match l.owner with
  | .plot p _ _ loc =>
    if l.kind = kGet then s.localWriteLine f p loc data poisoned
    else s.localWriteOld f p loc (atomicBytes l.typ) old poisoned
  | _ => s

/-! ### Fences (R417, R418) -/

/-- Whether a covered flow has reached its snapshot, or has broken since. -/
def State.flowReached (s : State) (f : FieldId) (x : Nat × Nat × Nat) : Bool :=
  let r := SMap.get (s.gw f).tx FlowTx.init x.1
  decide (r.fepoch ≠ x.2.2) || seqReached x.2.1 r.acked

/-- A fence whose waits are over answers the plot. -/
def State.fenceAnswer (s : State) (f : FieldId) (x : Fence) : State :=
  (s.updGw f (fun G => { G with fences := G.fences.filter (fun y => decide (y.p ≠ x.p) || decide (y.qsn ≠ x.qsn)) })).updEntry
    f x.p x.qsn (fun e => { e with phase := .done, fenceStatus := x.status })

/-- Flush requests of a fence are sent to its destinations that hold put-reduces of this field. -/
def State.fenceFlush (s : State) (f : FieldId) (x : Fence) : State :=
  let dsts := ((s.gw f).redSent.filter (fun e => e.2 && (x.all || decide (e.1 = x.node)))).map Prod.fst
  let (s1, ids) := dsts.foldl (fun (acc : State × List Nat) d =>
    let (t, ids) := acc
    let id := (t.gw f).nextReq
    ((t.gwEnqueue f (gwLine kFlushReq 2 d 0 (.fence x.p x.qsn))).updGw f
      (fun G => { G with redSent := SMap.set G.redSent false d false }), ids ++ [id])) (s, [])
  s1.updGw f (fun G => { G with fences := G.fences.map (fun y =>
    if y.p = x.p ∧ y.qsn = x.qsn then { y with flushing := true, flushes := ids } else y) })

/-- One fence moves on as far as it can. -/
def State.fenceStep (s : State) (f : FieldId) (p : PlotId) (qsn : Nat) : State :=
  match (s.gw f).fences.find? (fun y => decide (y.p = p) && decide (y.qsn = qsn)) with
  | none => s
  | some x =>
    if !x.flushing then
      if x.flows.all (s.flowReached f) && x.mcasts.all (fun (id, c) =>
          !(s.gw f).lines.any (fun l => decide (l.id = id) && l.due.any (fun d => decide (d.1 = c)))) then
        let s1 := s.fenceFlush f x
        match (s1.gw f).fences.find? (fun y => decide (y.p = p) && decide (y.qsn = qsn)) with
        | some y => if y.flushes = [] then s1.fenceAnswer f y else s1
        | none => s1
      else s
    else if x.flushes = [] then s.fenceAnswer f x
    else s

/-- Every fence of a field moves on. -/
def State.fencesStep (s : State) (f : FieldId) : State :=
  (s.gw f).fences.foldl (fun t x => t.fenceStep f x.p x.qsn) s

/-! ### Broken flows (R414) -/

/-- The flow to a node breaks: its lines complete with UNREACHABLE, a fence that covers it will (R418), and the mirror protocol
learns of it. -/
def State.flowBreak (s : State) (f : FieldId) (node firstSeq : Nat) : State :=
  let ls := (s.gw f).lines.filter (fun l => l.ordered && decide (flowKey l.dst = flowKey node))
  let r := s.flowTx f node
  let s1 := s.setFlowTx f node { next := 0, acked := 0xFFFFFFFF, fepoch := (r.fepoch + 1) % 256, opens := true }
  let s2 := ls.foldl (fun t l => t.lineFinish f l St.UNREACHABLE) s1
  let s3 := (s2.fcount f Reg.GWY_STAT.UNREACHABLE).updGw f (fun G => { G with
    fences := G.fences.map (fun x =>
      if x.flows.any (fun y => decide (y.1 = flowKey node) && decide (y.2.2 = r.fepoch)) then
        { x with status := St.UNREACHABLE } else x),
    broken := G.broken ++ [flowKey node] })
  s3.raiseLimited f (0x10000 + node) Ev.GWY_UNREACHABLE [(2, node), (4, firstSeq), (4, ls.length)]

end Sys2Proof.Machine
end

