-- ==== Sys2Proof/Machine/MirrorOps.lean ====
section
/-! DEFINITION. Operations of mirroring and spare admission (R244 to R247, R489 to R511) that the gateway
calls: at the source, region sets, layouts, broken flows; at a partner, staging, commit, pushes; at a spare,
loading. -/

namespace Sys2Proof.Machine

open Sys2Proof

def State.mir (s : State) (f : FieldId) : MirUnit := (s.field f).mir
def State.updMir (s : State) (f : FieldId) (g : MirUnit → MirUnit) : State :=
  s.updField f (fun F => { F with mir := g F.mir })

/-- Bytes of a granule, and its lines. -/
def granBytes : Nat := 0x10000
def granLines : Nat := 512

/-! ### Source (R245, R247, R490, R492, R497) -/

def msOff : Nat := 0
def msFilling : Nat := 1
def msMirroring : Nat := 2
def msNoPartner : Nat := 3
def msRefused : Nat := 4

/-- The granules of a region. -/
def MirRegion.granules (r : MirRegion) : List Nat := if r.enable then (List.range r.size).map (fun i => r.base + i) else []

/-- Two lists of granules in rising order, joined. -/
def granMerge : Nat → List Nat → List Nat → List Nat
  | 0, _, _ => []
  | _, [], bs => bs
  | _, as, [] => as
  | n + 1, a :: as, b :: bs =>
    if a < b then a :: granMerge n as (b :: bs)
    else if b < a then b :: granMerge n (a :: as) bs
    else a :: granMerge n as bs

/-- Granules added to a plane. -/
def planeAdd (m : SMap Bool) (gs : List Nat) : SMap Bool :=
  (granMerge (m.length + gs.length) (SMap.keys m) gs).map (fun g => (g, true))

/-- Every granule of every region in force, in rising order: a region newly enabled starts with every granule
in CUR (R247). -/
def State.curAll (s : State) (f : FieldId) : State :=
  s.updMemu f (fun m => { m with cur := m.regions.foldl (fun c r => planeAdd c r.granules) m.cur })

/-- Copy offset of a granule in granules: its place among the enabled regions (R490). -/
def copyIndex : List MirRegion → Nat → Option Nat
  | [], _ => none
  | r :: rs, g =>
    if r.enable then
      if r.base ≤ g ∧ g < r.base + r.size then some (g - r.base) else (copyIndex rs g).map (fun x => x + r.size)
    else copyIndex rs g

/-- The granule at a copy index: the inverse. -/
def copyGranule : List MirRegion → Nat → Option Nat
  | [], _ => none
  | r :: rs, x =>
    if r.enable then (if x < r.size then some (r.base + x) else copyGranule rs (x - r.size)) else copyGranule rs x

/-- Granules of a layout. -/
def layoutSize (l : List MirRegion) : Nat := (l.map (fun r => if r.enable then r.size else 0)).foldl (· + ·) 0

/-- The 8 bytes of a region, as MEM_MIR_REGIONn (R258, R491). -/
def regionBytes (r : MirRegion) : List Byte :=
  leBytes 8 (b2n r.enable + r.base * 2 ^ 16 + r.size * 2 ^ 38)

/-- The region 8 bytes stand for. -/
def regionOf (b : List Byte) : MirRegion :=
  let v := leNat (b.take 8)
  { enable := bit v 0, base := bits v 16 22, size := bits v 38 20 }

/-- The bit of OPERAND that carries RESTART (R491). -/
def mirRestart : Nat := 2 ^ 32

/-- MIR_LAYOUT to partner n. -/
def State.mirLayoutSend (s : State) (f : FieldId) (n : Nat) (restart : Bool) : State :=
  let rs := (s.memu f).regions
  let bytes := ((rs.take 16).flatMap regionBytes ++ List.replicate 128 0).take 128
  s.gwAccept f { gwLine kMirLayout 5 (nth (s.mir f).src.partners n) 0 (.mirror n) with
    operand := if restart then mirRestart else 0, data := bytes }

/-- MIR_MARK E to partner n. DESIGN CHOICE (log entry 39): RESTART is 0; the spec gives it no occasion in a MIR_MARK. -/
def State.mirMarkSend (s : State) (f : FieldId) (n epoch : Nat) : State :=
  s.gwAccept f { gwLine kMirMark 5 (nth (s.mir f).src.partners n) 0 (.mirror n) with operand := epoch }

def State.updMirSrc (s : State) (f : FieldId) (g : MirSource → MirSource) : State :=
  s.updMir f (fun M => { M with src := g M.src })

/-- The indices of the partners of the pairing in force. -/
def MirSource.indices (m : MirSource) : List Nat := List.range m.partners.length

/-- A partner answers again after NO_PARTNER. -/
def State.mirFound (s : State) (f : FieldId) (n : Nat) : State :=
  if bit (s.mir f).src.lost n then
    let s1 := s.updMirSrc f (fun m => { m with lost := setBit m.lost n false })
    let s2 := if (s1.mir f).src.lost = 0 then s1.fset f Reg.MIR_SRC_STATUS.STATE msFilling else s1
    s2.curAll f
  else s

/-- The flow to partner n broke (R497). -/
def State.mirBreak (s : State) (f : FieldId) (n : Nat) : State :=
  let node := nth (s.mir f).src.partners n
  let s1 := (s.raise f Ev.MIR_PARTNER_LOST [(2, s.node f), (2, node)]).fcount f Reg.MIR_SRC_STATUS.BREAKS
  let s2 := s1.curAll f
  if bit (s.mir f).src.lost n then s2 else s2.mirLayoutSend f n true

/-! ### Copy and digest at a partner (R490, R494) -/

/-- The CRC-64 register after bytes. -/
def crcFeed (c : Nat) (bs : List Byte) : Nat := bs.foldl crc64Byte c
/-- The register at the start of a granule hash: the granule's source address has been fed. -/
def crcStart (granule : Nat) : Nat := crcFeed (2 ^ 64 - 1) (leBytes 8 (granule * granBytes))
def crcEnd (c : Nat) : Nat := c ^^^ (2 ^ 64 - 1)

/-- The bytes of a line as the granule hash takes them. -/
def hashBytes (data : List Byte) (poisoned : Bool) : List Byte :=
  if poisoned then List.replicate 128 0xFF else data

/-- The granule hash of 64 KiB of HBM from an address (R494). -/
def State.granHash (s : State) (f : FieldId) (granule addr : Nat) : State × Nat :=
  let (s1, c) := (List.range granLines).foldl (fun (acc : State × Nat) i =>
    let (t, c) := acc
    let (t1, x) := t.lineRead f (addr / 128 + i) srcGateway
    (t1, crcFeed c (hashBytes x.data (x.poisonLo || x.poisonHi)))) (s, crcStart granule)
  (s1, crcEnd c)

def State.mirSlot (s : State) (f : FieldId) (n : Nat) : MirSlot := SMap.get (s.mir f).slots MirSlot.idle n
def State.updSlot (s : State) (f : FieldId) (n : Nat) (g : MirSlot → MirSlot) : State :=
  s.updMir f (fun M => { M with slots := SMap.set M.slots MirSlot.idle n (g (SMap.get M.slots MirSlot.idle n)) })

/-- Bytes written into HBM for the mirror, past its end discarded, with the status of the write: UNCORRECTED on a lost stack
(R235). -/
def State.mirStore (s : State) (f : FieldId) (a : Nat) (bs : List Byte) (poisoned : Bool) : State × Nat :=
  if a + bs.length ≤ hbmTop then s.hbmWrite f a bs poisoned srcGateway else (s, St.OK)

/-- The same, where nobody awaits the status. -/
def State.mirWrite (s : State) (f : FieldId) (a : Nat) (bs : List Byte) (poisoned : Bool) : State :=
  (s.mirStore f a bs poisoned).1

/-- Places in the journal (R490). -/
def MirSlot.hashAddr (x : MirSlot) (c : Nat) : Nat := x.journal * granBytes + 4096 + 8 * c
def MirSlot.mapAddr (x : MirSlot) (b : Nat) : Nat := x.journal * granBytes + 4096 + 8 * x.copyGran + 4 * b

/-- The journal's 4 KiB header is rewritten; the spec gives its contents, not their places. -/
def State.journalHeader (s : State) (f : FieldId) (n : Nat) : State :=
  let (v, s1) := s.draw
  s1.mirWrite f ((s1.mirSlot f n).journal * granBytes) (leBytes 4096 v) false

/-- A copy granule has been written: DIGEST takes its new hash in place of the old one, in the journal's header too (R490). -/
def State.copyHash (s : State) (f : FieldId) (n c : Nat) : State :=
  let x := s.mirSlot f n
  match copyGranule x.layout c with
  | none => s
  | some g =>
    let (s1, h) := s.granHash f g ((x.copyBase + c) * granBytes)
    let d := s1.freg f Reg.MIR_PART_STATUS.DIGEST n
    let s2 := s1.fset f Reg.MIR_PART_STATUS.DIGEST (d ^^^ SMap.get x.hash 0 c ^^^ h) n
    ((s2.updSlot f n (fun y => { y with hash := SMap.set y.hash 0 c h })).mirWrite f (x.hashAddr c) (leBytes 8 h) false).journalHeader
      f n

def mpIdle : Nat := 0
def mpFilling : Nat := 1
def mpMirroring : Nat := 2
def mpSpill : Nat := 3
def mpPushing : Nat := 4
def mpRefused : Nat := 5

def State.partState (s : State) (f : FieldId) (n : Nat) : Nat := s.freg f Reg.MIR_PART_STATUS.STATE n

/-- BUF_USED follows the staged granules. -/
def State.bufUsed (s : State) (f : FieldId) (n : Nat) : State :=
  s.fset f Reg.MIR_PART_STATUS.BUF_USED (s.mirSlot f n).staged.length n

/-- The slot of this partner whose source is a node. -/
def State.slotOf (s : State) (f : FieldId) (src : Nat) : Option Nat :=
  [0, 1].find? (fun n => (s.mirSlot f n).on && decide ((s.mirSlot f n).source = src))

/-- A line written straight into the copy, with its status; a staged copy of its granule is discarded (R493, R496). -/
def State.copyLine (s : State) (f : FieldId) (n c off : Nat) (data : List Byte) (poisoned : Bool) : State × Nat :=
  let x := s.mirSlot f n
  let s1 := (s.updSlot f n (fun y => { y with staged := y.staged.filter (fun e => e.1 ≠ c) })).bufUsed f n
  let (s2, st) := s1.mirStore f ((x.copyBase + c) * granBytes + off) data poisoned
  (s2.copyHash f n c, st)

/-- The lowest free buffer slot of a partner slot. -/
def MirSlot.bufFree (x : MirSlot) : Option Nat :=
  (List.range x.bufGran).find? (fun b => !x.staged.any (fun e => decide (e.2 = b)))

/-- A buffer slot for a line's granule; the point BUF_FULL hides it once. The flag says that the point fired. -/
def State.bufSlot (s : State) (f : FieldId) (n : Nat) : State × Bool × Option Nat :=
  if s.injArmedAt f injMir 3 n then (s.injFire f injMir, true, none) else (s, false, (s.mirSlot f n).bufFree)

/-- MIRROR_STAGE (R493, R496): a line of copy granule c, with its status; the event a point caused carries INJECTED (R698). -/
def State.stageLine (s : State) (f : FieldId) (n c off : Nat) (data : List Byte) (poisoned : Bool) : State × Nat :=
  let x := s.mirSlot f n
  let put := fun (t : State) (b : Nat) => t.mirStore f ((x.bufBase + b) * granBytes + off) data poisoned
  match x.staged.find? (fun e => decide (e.1 = c)) with
  | some (_, b) => put s b
  | none =>
    match s.bufSlot f n with
    | (s1, _, some b) =>
      let s2 := (s1.updSlot f n (fun y => { y with staged := y.staged ++ [(c, b)] })).bufUsed f n
      let (s3, st) := put s2 b
      (s3.mirWrite f (x.mapAddr b) (leBytes 4 c) false, st)
    | (s1, inj, none) =>
      let s2 := (s1.fset f Reg.MIR_PART_STATUS.STATE mpSpill n).fset f Reg.MIR_PART_STATUS.VALID 0 n
      let s3 := s2.raise f Ev.MIR_SPILL [(1, n), (2, x.source), (4, s2.freg f Reg.MIR_PART_STATUS.COMMITTED n + 1)] inj
      s3.copyLine f n c off data poisoned

/-- A mirror line from a node arrives at a partner: the status of its application (R235, R493, R498). -/
def State.mirPut (s : State) (f : FieldId) (src addr : Nat) (data : List Byte) (poisoned : Bool) : State × Nat :=
  match s.slotOf f src with
  | none => (s, St.MIRROR_PARTNER_INVALID)
  | some n =>
    let x := s.mirSlot f n
    let c := addr / granBytes - x.copyBase
    let st := s.partState f n
    if addr / granBytes < x.copyBase ∨ x.copyGran ≤ c then (s, St.MIRROR_PARTNER_INVALID)
    else if st = mpPushing then (s, St.MIRROR_PUSHING)
    else if st = mpFilling ∨ st = mpSpill then s.copyLine f n c (addr % granBytes) data poisoned
    else if st = mpMirroring then s.stageLine f n c (addr % granBytes) data poisoned
    else (s, St.MIRROR_PARTNER_INVALID)

/-- The granule hashes that stay in DIGEST once another layout is in force (R494): those of granules at the same place of the
copy in both. After a layout without RESTART, which fills the copy afresh, none. -/
def MirSlot.hashKept (x : MirSlot) (layout : List MirRegion) (restart : Bool) : SMap Nat :=
  if layout = x.layout then x.hash
  else if restart then
    x.hash.filter (fun e => decide (copyGranule layout e.1 = copyGranule x.layout e.1))
  else []

/-- MIR_LAYOUT applied at a partner (R494, R497, R504). -/
def State.mirLayoutApply (s : State) (f : FieldId) (src operand : Nat) (payload : List Byte) : State × Nat :=
  match s.slotOf f src with
  | none => (s, St.MIRROR_PARTNER_INVALID)
  | some n =>
    let x := s.mirSlot f n
    let st := s.partState f n
    let layout := (List.range 16).map (fun i => regionOf (payload.drop (8 * i)))
    if st = mpPushing then (s, St.MIRROR_PUSHING)
    else if x.copyGran < layoutSize layout then
      ((s.fset f Reg.MIR_PART_STATUS.RESULT St.MIRROR_PARTNER_INVALID n).fset f Reg.MIR_PART_STATUS.STATE mpRefused n,
        St.MIRROR_PARTNER_INVALID)
    else
      let restart := bit operand 32
      let hash := x.hashKept layout restart
      let s1 := (s.updSlot f n (fun y => { y with layout := layout, staged := [], hash := hash })).bufUsed f n
      let s2 := if restart ∨ layout = x.layout then s1
        else (s1.fset f Reg.MIR_PART_STATUS.STATE mpFilling n).fset f Reg.MIR_PART_STATUS.VALID 0 n
      let s3 := if layout = x.layout then s2
        else s2.fset f Reg.MIR_PART_STATUS.DIGEST (hash.foldl (fun d e => d ^^^ e.2) 0) n
      (s3.journalHeader f n, St.OK)

/-- A staged granule is applied to the copy (R493). -/
def State.applyStaged (s : State) (f : FieldId) (n c b : Nat) : State :=
  let x := s.mirSlot f n
  let s1 := (List.range granLines).foldl (fun t i =>
    let (t1, y) := t.lineRead f ((x.bufBase + b) * granLines + i) srcGateway
    t1.mirWrite f ((x.copyBase + c) * granBytes + 128 * i) y.data (y.poisonLo || y.poisonHi)) s
  s1.copyHash f n c

/-- MIR_MARK applied at a partner (R493, R496). One with RESTART commits an epoch of which nothing is staged: uncommitted staged
granules are discarded first (R497). -/
def State.mirMarkApply (s : State) (f : FieldId) (src operand : Nat) : State × Nat :=
  let epoch := bits operand 0 32
  match s.slotOf f src with
  | none => (s, St.MIRROR_PARTNER_INVALID)
  | some n =>
    let x := s.mirSlot f n
    let staged := if bit operand 32 then [] else x.staged
    let st := s.partState f n
    if st = mpPushing then (s, St.MIRROR_PUSHING)
    else if st = mpIdle ∨ st = mpRefused then (s, St.MIRROR_PARTNER_INVALID)
    else
      let s1 := (s.fset f Reg.MIR_PART_STATUS.COMMITTED epoch n).journalHeader f n
      let s2 := staged.foldl (fun t e => t.applyStaged f n e.1 e.2) s1
      let s3 := (s2.updSlot f n (fun y => { y with staged := [] })).bufUsed f n
      ((s3.fset f Reg.MIR_PART_STATUS.VALID 1 n).fset f Reg.MIR_PART_STATUS.STATE mpMirroring n, St.OK)

/-- MIR_PULL applied at a partner (R507): refused, or a push begins. -/
def State.mirPullApply (s : State) (f : FieldId) (src operand : Nat) : State × Nat :=
  let epoch := bits operand 0 32
  let orig := bits operand 32 16
  match s.slotOf f orig with
  | none => (s, St.MIRROR_NO_COPY)
  | some n =>
    if s.freg f Reg.MIR_PART_STATUS.VALID n = 0 ∨ s.freg f Reg.MIR_PART_STATUS.COMMITTED n ≠ epoch then
      (s.fset f Reg.MIR_PART_STATUS.RESULT St.MIRROR_EPOCH n, St.MIRROR_EPOCH)
    else
      let s1 := (s.updSlot f n (fun y => { y with staged := [], push := some ⟨src, epoch, 0, none⟩ })).bufUsed f n
      (s1.fset f Reg.MIR_PART_STATUS.STATE mpPushing n, St.OK)

/-- A push ends: the slot returns to IDLE with ENABLE cleared; its copy stays in HBM. -/
def State.pushEnd (s : State) (f : FieldId) (n result : Nat) : State :=
  let s1 := s.updSlot f n (fun y => { y with on := false, push := none })
  ((s1.fset f Reg.MIR_PART.ENABLE 0 n).fset f Reg.MIR_PART_STATUS.STATE mpIdle n).fset f Reg.MIR_PART_STATUS.RESULT result n

/-! ### Loading a spare (R507 to R511) -/

def mlIdle : Nat := 0
def mlLoading : Nat := 1
def mlLoaded : Nat := 2
def mlFailed : Nat := 3

def State.loading (s : State) (f : FieldId) : Bool := decide (s.freg f Reg.MIR_LOAD_STATUS.STATE = mlLoading)

/-- The load ends, with its event. -/
def State.loadEnd (s : State) (f : FieldId) (state result : Nat) : State :=
  let s1 := (s.fset f Reg.MIR_LOAD_STATUS.STATE state).fset f Reg.MIR_LOAD_STATUS.RESULT result
  s1.raise f Ev.MIR_LOAD [(2, s1.freg f Reg.MIR_LOAD_CTL.ORIG), (2, (s1.mir f).load.src), (1, state), (2, result)]

/-- MIR_PULL to a partner; digest and count start afresh. -/
def State.loadPull (s : State) (f : FieldId) (src : Nat) : State :=
  let s1 := (s.fset f Reg.MIR_LOAD_STATUS.GRANULES 0).fset f Reg.MIR_LOAD_STATUS.DIGEST 0
  let s2 := s1.updMir f (fun M => { M with load := { src := src, crc := 0 } })
  s2.gwAccept f { gwLine kMirPull 5 src 0 .load with
    operand := s.freg f Reg.MIR_LOAD_STATUS.EPOCH + s.freg f Reg.MIR_LOAD_CTL.ORIG * 2 ^ 32 }

/-- The partner in use has failed (R509): the second one, or FAILED with a code. -/
def State.loadFail (s : State) (f : FieldId) (code : Nat) : State :=
  if !s.loading f then s
  else if s.freg f Reg.MIR_LOAD_STATUS.USING_SRC1 = 0 ∧ s.freg f Reg.MIR_LOAD_CTL.SRC1 ≠ 0xFFFF then
    (s.fset f Reg.MIR_LOAD_STATUS.USING_SRC1 1).loadPull f (s.freg f Reg.MIR_LOAD_CTL.SRC1)
  else s.loadEnd f mlFailed code

/-- A push line at the spare (R508): written at its field address and hashed. -/
def State.loadPut (s : State) (f : FieldId) (addr : Nat) (data : List Byte) (poisoned : Bool) : State × Nat :=
  let (s1, st) := s.targetWrite f addr wholeMask data poisoned srcGateway
  if st ≠ St.OK then (s1, st)
  else
    let c0 := if addr % granBytes = 0 then crcStart (addr / granBytes) else (s1.mir f).load.crc
    let c := crcFeed c0 (hashBytes data poisoned)
    let s2 := s1.updMir f (fun M => { M with load := { M.load with crc := c } })
    if addr % granBytes = granBytes - 128 then
      let d := s2.freg f Reg.MIR_LOAD_STATUS.DIGEST
      ((s2.fset f Reg.MIR_LOAD_STATUS.DIGEST (d ^^^ crcEnd c)).fset f Reg.MIR_LOAD_STATUS.GRANULES
        (s2.freg f Reg.MIR_LOAD_STATUS.GRANULES + 1), St.OK)
    else (s2, St.OK)

/-- MIR_DONE applied at the spare (R508). -/
def State.mirDoneApply (s : State) (f : FieldId) (src operand : Nat) : State × Nat :=
  if !s.loading f ∨ (s.mir f).load.src ≠ src then (s, St.MIRROR_PARTNER_INVALID)
  else if bits operand 32 32 = s.freg f Reg.MIR_LOAD_STATUS.GRANULES ∧ bits operand 64 64 = s.freg f Reg.MIR_LOAD_STATUS.DIGEST then
    (s.loadEnd f mlLoaded St.OK, St.OK)
  else (s.loadFail f St.MIRROR_DIGEST, St.OK)

/-- A PUT on VC5 at its destination: a push line of the load under way, or a mirror line (R490, R498). -/
def State.bulkPut (s : State) (f : FieldId) (src addr : Nat) (data : List Byte) (poisoned : Bool) : State × Nat :=
  if s.loading f ∧ (s.mir f).load.src = src then s.loadPut f addr data poisoned else s.mirPut f src addr data poisoned

/-! ### Completed mirror lines -/

/-- One completed line of the mirror protocol is acted on (R492, R497, R507, R509). -/
def State.mirSettleOne (s : State) (f : FieldId) (x : GwLine × Nat) : State :=
  let (l, st) := x
  match l.owner with
  | .mirror n =>
    let s1 := if st = St.UNREACHABLE ∨ st = St.ALLOT_HALTED then s else s.mirFound f n
    if l.kind = kMirMark ∧ st = St.OK then
      let s2 := s1.fset f (if n = 0 then Reg.MIR_SRC_STATUS.ACKED0 else Reg.MIR_SRC_STATUS.ACKED1) (bits l.operand 0 32)
      if s2.freg f Reg.MIR_SRC_STATUS.STATE = msFilling then s2.fset f Reg.MIR_SRC_STATUS.STATE msMirroring else s2
    else s1
  | .push n => if st = St.OK then s else if (s.mirSlot f n).push.isSome then s.pushEnd f n st else s
  | .load =>
    if st = St.OK ∨ l.dst ≠ (s.mir f).load.src then s
    else s.loadFail f (if st = St.MIRROR_NO_COPY ∨ st = St.MIRROR_EPOCH then st else St.MIRROR_SOURCE_LOST)
  | _ => s

/-- A flow of this field has broken: each partner of its own it led to (R497), each spare it pushed to, and the partner it
loads from (R509), whether or not a line to them was outstanding. -/
def State.mirBroken (s : State) (f : FieldId) (key : Nat) : State :=
  let s1 := (s.mir f).src.indices.foldl (fun t n =>
    if (t.mir f).src.on && decide (flowKey (nth (t.mir f).src.partners n) = key) then t.mirBreak f n else t) s
  let s2 := [0, 1].foldl (fun (t : State) n =>
    if (t.mirSlot f n).push.any (fun x => decide (flowKey x.dst = key)) then t.pushEnd f n St.UNREACHABLE else t) s1
  if flowKey (s2.mir f).load.src = key then s2.loadFail f St.MIRROR_SOURCE_LOST else s2

/-- Every completed mirror line and every broken flow is acted on (R492, R497, R507, R509). -/
def State.mirSettle (s : State) (f : FieldId) : State :=
  let G := s.gw f
  let s1 := s.updGw f (fun G => { G with mirDone := [], broken := [] })
  let lines := G.mirDone.filter (fun x => x.2 ≠ St.UNREACHABLE)
  G.broken.foldl (fun t k => t.mirBroken f k) (lines.foldl (fun t x => t.mirSettleOne f x) s1)

end Sys2Proof.Machine
end

