-- ==== Sys2Proof/Machine/Xfer.lean ====
section
/-! DEFINITION. The transfer engine (R166 to R171, R187), fences asked of the gateway (R223, R417, R418), and
the issuing gateway's acceptance of lines (R399 to R403, R407, R408). -/

namespace Sys2Proof.Machine

open Sys2Proof

/-- Transfer descriptors in progress at once, and outstanding lines at which issue pauses (R169). -/
def xferSlots : Nat := 8
def xferLimit : Nat := 512

/-! ### Starting (R166, R167, R169) -/

/-- The oldest transfer not started, where it is ready but for its claims: AFTER honoured, no earlier fence open, a place in
the engine free. With its descriptor and the entries before it. -/
def Plot.xferNext (P : Plot) : Option (QEntry × Nat × List QEntry) :=
  match P.nextOf 2 [.waiting] with
  | none => none
  | some (e, before) =>
    match e.op with
    | .txfer d =>
      let earlier := before.filter (fun x => decide (x.op.unit = 2))
      if (bit (xfFlags d) 1 && decide (earlier ≠ [])) || syncHeld before e.op || decide (xferSlots ≤ earlier.length) then none
      else some (e, d, before)
    | _ => none

/-- A transfer of an operation starts, once its claims are free (R153) and the bin segments it claims are (R97); each wait
counts one cycle (R114, R155). A held partition starts none (R35). -/
def State.xferStart (s : State) (f : FieldId) (p : PlotId) (op : Nat) : Result := s.clocked <|
  match (s.plot f p).xferNext with
  | none => .next s
  | some (e, d, before) =>
    if xfOp d ≠ op ∨ (s.field f).held = true then .next s
    else if !(e.claims.all (claimFree before)) then .next (s.pwrap f p Reg.PLT_QUEUE_STALL.CLAIM)
    else if e.claims.any (claimBusySeg before) then .next (s.pwrap f p Reg.PLT_TINE_STALL.BIN_WAIT)
    else if op = 0 then finish (s.complete f p e St.OK 0)
    else .next (s.updEntry f p e.qsn (fun x => { x with phase := .running }))

/-- XFER_NOP (R167). -/
def execXferNop (f : FieldId) (p : PlotId) (s : State) : Result := s.xferStart f p 0
/-- XFER_GET (R169). -/
def execXferGet (f : FieldId) (p : PlotId) (s : State) : Result := s.xferStart f p 1
/-- XFER_PUT (R169). -/
def execXferPut (f : FieldId) (p : PlotId) (s : State) : Result := s.xferStart f p 2
/-- XFER_PUT_PARTIAL (R169). -/
def execXferPutPartial (f : FieldId) (p : PlotId) (s : State) : Result := s.xferStart f p 3
/-- XFER_PUT_REDUCE (R169). -/
def execXferPutReduce (f : FieldId) (p : PlotId) (s : State) : Result := s.xferStart f p 4
/-- XFER_MCAST_PUT (R169). -/
def execXferMcastPut (f : FieldId) (p : PlotId) (s : State) : Result := s.xferStart f p 5
/-- XFER_FETCH_ADD (R169). -/
def execXferFetchAdd (f : FieldId) (p : PlotId) (s : State) : Result := s.xferStart f p 6
/-- XFER_COMPARE_SWAP (R169). -/
def execXferCompareSwap (f : FieldId) (p : PlotId) (s : State) : Result := s.xferStart f p 7

/-! ### Issue of lines (R158, R169, R171) -/

/-- Transfers in progress that still have lines to issue. -/
def Plot.xferIssuing (P : Plot) : List (QEntry × Nat) :=
  P.queue.filterMap (fun e =>
    match e.op with
    | .txfer d => if e.phase = .running ∧ e.issued < xfLines d then some (e, d) else none
    | _ => none)

/-- The descriptor whose turn it is: the next after the one issued last, round the ones in progress. -/
def Plot.xferTurn (P : Plot) : Option (QEntry × Nat) :=
  let l := P.xferIssuing
  let ahead := fun (x : QEntry × Nat) => (x.1.qsn + 0x10000 - P.xlast - 1) % 0x10000
  l.foldl (fun best x =>
    match best with
    | none => some x
    | some y => if ahead x < ahead y then some x else best) none

/-- Lines outstanding. -/
def Plot.xferOutstanding (P : Plot) : Nat := (P.queue.map (fun e => e.outstanding.length)).foldl (· + ·) 0

/-- Line k of a descriptor is issued: a put reads its local line. -/
def State.xferIssue (s : State) (f : FieldId) (p : PlotId) (e : QEntry) (d : Nat) : State :=
  let k := e.issued
  let op := xfOp d
  let loc := xfLineLocal d k
  let (s1, data, bad, nans) :=
    if xfReadsLocal op then s.localReadLine f p loc else (s, [], false, 0)
  let fail := if bad then [(k, St.UNCORRECTED)] else if 0 < nans then [(k, St.BIN_POISONED)] else []
  let x : XLine :=
    { qsn := e.qsn, line := k, op := op, dst := xfNode d, addr := xfLineRemote d k, loc := loc, typ := xfType d,
      operand := if op = 3 ∨ xfAtomic d then xfOperand d else 0, mask := if op = 5 then xfStream d else 0,
      axis := if op = 5 then xfIndex d % 4 else 0, data := data, poisoned := bad,
      gone := false }
  let s2 := s1.updPlot f p (fun P => { P with xlines := P.xlines ++ [x], xlast := e.qsn })
  let s3 := s2.updEntry f p e.qsn (fun y => { y with
    issued := k + 1, outstanding := y.outstanding ++ [k], fails := y.fails ++ fail,
    classSeen := if 0 < nans then setBit y.classSeen 0 true else y.classSeen,
    claims := if xfReadsLocal op ∧ k + 1 = xfLines d then [] else y.claims })
  s3.classReport f p none clsNaNIn nans

/-- XFER_LINE_ISSUE (R169). -/
def execXferLineIssue (f : FieldId) (p : PlotId) (s : State) : Result := s.inRim f <| s.clocked <|
  let P := s.plot f p
  if xferLimit ≤ P.xferOutstanding then .next s
  else
    match P.xferTurn with
    | none => .next s
    | some (e, d) => finish (s.xferIssue f p e d)

/-! ### Lines over the mesh (R232, R233, R239, R402) -/

/-- Whether a line goes over the mesh straight to the memory of its own field. -/
def State.xlineOwn (s : State) (f : FieldId) (x : XLine) : Bool :=
  decide (x.dst = s.node f) && decide (x.op ≤ 3)

/-- A line is behind its transfer, with a status, unless its plot has been reset (R187). -/
def State.xlineEnd (s : State) (f : FieldId) (p : PlotId) (x : XLine) (status : Nat) : State :=
  if x.gone then s else s.xferDone f p x.qsn x.line status

/-- A line of a plot's own field is performed: no earlier one of the same engine to the same line may still be
under way (R233). -/
def State.xlineOwnDone (s : State) (f : FieldId) (p : PlotId) (x : XLine) : State :=
  let s0 := s.updPlot f p (fun P => { P with xlines := P.xlines.erase x })
  if x.op = 1 then
    let (s1, st, data, poisoned) := s0.targetRead f x.addr srcXfer
    if st = St.OK then
      (s1.localWriteLine f p x.loc data poisoned).xlineEnd f p x (if poisoned then St.UNCORRECTED else St.OK)
    else s1.xlineEnd f p x st
  else
    let (s1, st) := s0.targetWrite f x.addr (if x.op = 3 then x.operand else wholeMask) x.data x.poisoned srcXfer
    s1.xlineEnd f p x st

/-- XFER_LINE_DONE (R170): a line that goes over the mesh; the data of a GET needs the plot's clock (R655). Lines at the
gateway end with the packets that answer them. -/
def execXferLineDone (f : FieldId) (p : PlotId) (qsn line : Nat) (s : State) : Result := s.inRim f <|
  let P := s.plot f p
  match P.xlines.find? (fun x => decide (x.qsn = qsn) && decide (x.line = line)) with
  | none => .next s
  | some x =>
    let earlier := P.xlines.takeWhile (fun y => decide (y ≠ x))
    if s.hub.pwr.trip && decide (x.op = 1) then .next s
    else if s.xlineOwn f x && !earlier.any (fun y => s.xlineOwn f y && decide (y.addr / 128 = x.addr / 128)) then
      finish (s.xlineOwnDone f p x)
    else .next s

/-- The status of a descriptor: that of its first failed line in issue order (R170). -/
def xferStatus (fails : List (Nat × Nat)) : Nat :=
  (fails.foldl (fun (best : Option (Nat × Nat)) x =>
    match best with
    | none => some x
    | some y => if x.1 < y.1 then some x else best) none).elim St.OK Prod.snd

/-- XFER_DESCRIPTOR_COMPLETE (R170). -/
def execXferDescriptorComplete (f : FieldId) (p : PlotId) (qsn : Nat) (s : State) : Result := s.clocked <|
  match (s.plot f p).queue.find? (fun e => decide (e.qsn = qsn) && decide (e.phase = .running)) with
  | some e =>
    match e.op with
    | .txfer d =>
      if e.issued = xfLines d ∧ e.outstanding = [] then finish (s.complete f p e (xferStatus e.fails) e.classSeen)
      else .next s
    | _ => .next s
  | none => .next s

/-! ### The issuing gateway (R400, R403) -/

/-- Whether a node is near (R400). -/
def State.isNear (s : State) (f : FieldId) (dst : Nat) : Bool :=
  let same := fun (a : Nat) => decide (nodeCoord dst a = nodeCoord s.pkgNode a)
  decide (nodePkg dst = s.pkgNode) ||
    (match s.freg f Reg.GWY_CLASS_CTL.NEAR_SCOPE with
     | 0 => false
     | 1 => same 2 && same 3
     | 2 => same 3
     | _ => true)

/-- Whether the source package lies on a multicast's line (R377). -/
def State.onLine (s : State) (dst axis : Nat) : Bool :=
  [1, 2, 3].all (fun a => decide (a = axis) || decide (nodeCoord dst a = nodeCoord s.pkgNode a))

/-- The kind of packet an OP travels as; its channel (R399, R405). -/
def opKind (op : Nat) : Nat :=
  match op with
  | 1 => kGet
  | 2 => kPut
  | 3 => kPutPartial
  | 4 => kPutReduce
  | 5 => kMcastPut
  | 6 => kFetchAdd
  | _ => kCompareSwap
def opChannel (op : Nat) : Nat := if op = 5 then 4 else 2

/-- The gateway's refusal of a line (R403). -/
def State.lineRefusal (s : State) (f : FieldId) (x : XLine) : Option Nat :=
  if s.halted f then some St.ALLOT_HALTED
  else if decide (x.op ∈ [1, 3, 6, 7]) && !s.isNear f x.dst then some St.CLASS_REFUSED
  else if decide (x.op = 5) && !s.onLine x.dst x.axis then some St.MCAST_OFF_LINE
  else none

/-- The line the gateway makes of a transfer's line. -/
def xlineGw (p : PlotId) (x : XLine) : GwLine :=
  { gwLine (opKind x.op) (opChannel x.op) x.dst x.addr
      (if x.gone then .gone p else .plot p x.qsn x.line x.loc) with
    typ := x.typ, operand := x.operand, data := x.data, poisoned := x.poisoned, maxis := x.axis, mask := x.mask }

/-- GATEWAY_LINE_ACCEPT (R402, R403, R407): the oldest line of a plot that waits for the gateway. -/
def execGatewayLineAccept (f : FieldId) (p : PlotId) (s : State) : Result := s.inRim f <|
  match (s.plot f p).xlines.find? (fun x => !s.xlineOwn f x) with
  | none => .next s
  | some x =>
    let s1 := s.updPlot f p (fun P => { P with xlines := P.xlines.erase x })
    match s.lineRefusal f x with
    | some st => finish (s1.xlineEnd f p x st)
    | none => finish (s1.gwEnqueue f (xlineGw p x))

/-- ORDERED_LINE_SEND (R408): a line within WINDOW that finds room in the retransmit store. -/
def execOrderedLineSend (f : FieldId) (req : Nat) (s : State) : Result := s.inRim f <|
  match (s.gw f).lines.find? (fun l => decide (l.id = req) && !l.sent) with
  | none => .next s
  | some l =>
    let ahead := (l.seq + 2 ^ 32 - (s.flowTx f l.dst).acked - 1) % 2 ^ 32
    if retransmitStore ≤ (s.gw f).stored ∨ (l.ordered = true ∧ s.freg f Reg.GWY_SOU_CTL.WINDOW ≤ ahead) then .next s
    else
      let s1 := s.gwSend f l (s.linePacket f l false)
      if l.multicast && decide (l.due = []) then finish (s1.lineFinish f l St.OK) else .next s1

/-- DEFER_RESEND (R411): a deferred request is sent again, as a retransmission that may not be combined. -/
def execDeferResend (f : FieldId) (req : Nat) (s : State) : Result := s.inRim f <|
  match (s.gw f).lines.find? (fun l => decide (l.id = req) && l.deferred) with
  | none => .next s
  | some l => .next (s.gwSend f l (s.linePacket f l true))

/-! ### Fences of a plot (R223, R417, R418) -/

/-- The fence a TRFENCE asks for (R417): snapshots of every flow with lines not yet covered, and of every
multicast acknowledgement still due. -/
def State.fenceMake (s : State) (f : FieldId) (p : PlotId) (qsn operand : Nat) : Fence :=
  let all := bit operand 16
  let node := bits operand 0 16
  let G := s.gw f
  let keys := ((G.lines.filter (fun l => l.ordered && (all || decide (l.dst = node)))).map (fun l => flowKey l.dst)).eraseDups
  { p := p, qsn := qsn, all := all, node := node,
    flows := keys.map (fun k =>
      let r := SMap.get G.tx FlowTx.init k
      (k, (r.next + 2 ^ 32 - 1) % 2 ^ 32, r.fepoch)),
    mcasts := (G.lines.filter GwLine.multicast).flatMap (fun l =>
      (l.due.filter (fun d => all || decide (nodeWith l.dst l.maxis d.1 = node))).map (fun d => (l.id, d.1))),
    flushing := false, flushes := [], status := St.OK }

/-- The oldest TRFENCE that has not started. -/
def Plot.nextFence (P : Plot) : Option QEntry :=
  P.queue.find? (fun e => match e.op with | .trfence _ => decide (e.phase = .waiting) | _ => false)

/-- The oldest TRFENCE that has its answer. -/
def Plot.answeredFence (P : Plot) : Option QEntry :=
  P.queue.find? (fun e => match e.op with | .trfence _ => decide (e.phase = .done) | _ => false)

/-- TRFENCE_START (R223, R417). -/
def execTrfenceStart (f : FieldId) (p : PlotId) (s : State) : Result := s.clocked <|
  let P := s.plot f p
  match P.nextFence with
  | none => .next s
  | some e =>
    match e.op with
    | .trfence operand =>
      let before := entriesBefore P.queue e.qsn
      let issued := before.all (fun x => match x.op with
        | .txfer d => decide (x.phase = .running) && decide (x.issued = xfLines d)
        | _ => true)
      let accepted := P.xlines.all (fun x => s.xlineOwn f x || !before.any (fun y => decide (y.qsn = x.qsn)))
      if !issued || !accepted || !syncTurn before || syncHeld (before.filter (fun x => decide (x.op = .tfence))) e.op then .next s
      else if bit operand 16 = false ∧ nodeNamed (bits operand 0 16) = false then finish (s.complete f p e St.OK 0)
      else if s.halted f then
        .next (s.updEntry f p e.qsn (fun x => { x with phase := .done, fenceStatus := St.ALLOT_HALTED }))
      else
        let x := s.fenceMake f p e.qsn operand
        let s1 := (s.updEntry f p e.qsn (fun y => { y with phase := .running })).updGw f (fun G => { G with
          fences := G.fences ++ [x] })
        finish (s1.fenceStep f p e.qsn)
    | _ => .next s

/-- TRFENCE_COMPLETE (R418). -/
def execTrfenceComplete (f : FieldId) (p : PlotId) (s : State) : Result := s.clocked <|
  match (s.plot f p).answeredFence with
  | some e => finish (s.complete f p e e.fenceStatus 0)
  | none => .next s

end Sys2Proof.Machine
end

