-- ==== Sys2Proof/Machine/Gateway.lean ====
section
/-! DEFINITION. The gateway as destination, and what answers do at the source (R407 to R429, R441): the
store-ordering unit, the reduction table, the atomic unit, acknowledgements, retransmission, the allotment
halt. -/

namespace Sys2Proof.Machine

open Sys2Proof

/-! ### Arrival -/

/-- A packet of a kind reaches field f's gateway: the state without it, and whether it is to be acted on. A
packet not waiting at the router arrives now. A request of a halted allotment is discarded (R416). -/
def State.arrival (s : State) (f : FieldId) (kind : Nat) (p : Packet) : State × Bool :=
  if (rhOf p).kind ≠ kind ∨ pktRemote p = false ∨ rhWellFormed p = false ∨ p.dst ≠ s.node f then (s, false)
  else
    let waiting := (s.field f).router.inbox.contains p
    let s1 := if waiting then s.updRouter f (fun R => { R with inbox := R.inbox.erase p }) else s
    if !waiting && !s.deliverOk f p then (s.dropForeign f p, false)
    else (s1, decide (0x40 ≤ kind) || !(s.halted f && decide (p.allot = s.allot f)))

/-- A response to a packet (R404, R405). -/
def State.respond (s : State) (f : FieldId) (dst key : Nat) (h : RHdr) (payload : List Byte) : State :=
  s.issuePacket f 3 (s.newPacket f dst 3 key (rhBytes h ++ payload))

/-- ACK of a flow: SEQ = EXP − 1 (R412). -/
def State.sendAck (s : State) (f : FieldId) (src : Nat) : State :=
  let r := s.flowRx f src
  let s1 := s.updGw f (fun G => { G with ackDue := G.ackDue.filter (fun x => x ≠ src) })
  s1.respond f src r.key { rhKind kAck with
    typ := r.typ, fepoch := r.fepoch, seq := (r.exp + 2 ^ 32 - 1) % 2 ^ 32 } []

/-- ACK with ERROR of one line (R412). -/
def State.sendErrorAck (s : State) (f : FieldId) (p : Packet) (status : Nat) : State :=
  let h := rhOf p
  s.respond f p.src p.key { rhKind kAck with
    flags := fError, typ := h.typ, fepoch := h.fepoch, seq := h.seq, status := status } []

/-- A DEFER (R410). -/
def State.sendDeferTo (s : State) (f : FieldId) (src key typ fepoch seq txn age : Nat) : State :=
  (s.fwrap f Reg.GWY_STAT.DEFERS_SENT).respond f src key { rhKind kDefer with
    typ := typ, fepoch := fepoch, seq := seq, txn := txn, status := St.DEFERRED, age := age } []

/-- A DEFER of a packet. -/
def State.sendDefer (s : State) (f : FieldId) (p : Packet) (age : Nat) : State :=
  let h := rhOf p
  s.sendDeferTo f p.src p.key h.typ h.fepoch h.seq h.txn age

/-- AGE of a flow without a place in the queue. -/
def noPlace : Nat := 0xFFFFFFFF

/-! ### Line slots and the deferred queue (R410, R424, R437) -/

/-- Line slots of the store-ordering unit, slots that let a flow in, and places of the deferred queue. -/
def lineSlots : Nat := 16384
def grantSlots : Nat := 64
def queuePlaces : Nat := 1024

/-- Slots held. -/
def GatewayUnit.heldCount (G : GatewayUnit) : Nat := (G.rx.map (fun e => e.2.held.length)).foldl (· + ·) 0
def GatewayUnit.freeSlots (G : GatewayUnit) : Nat := lineSlots - G.heldCount

/-- Entries of the reduction table, and those in use (R423). -/
def redEntries : Nat := 4096
def GatewayUnit.redUsed (G : GatewayUnit) : List Nat := G.red.flatMap (fun e => e.2.entries)

/-- What is reserved for the holder of the age token: no more than the slots that let it in and the entries its line needs
(R410, R424). -/
def GatewayUnit.reserve (G : GatewayUnit) : GatewayUnit :=
  match G.queue.head? with
  | none => { G with slotRes := 0, entRes := 0 }
  | some q => { G with slotRes := if q.slot.isSome then min grantSlots G.slotRes else 0, entRes := min q.need G.entRes }

/-- Slots and entries that become free are reserved for the holder of the age token until it has what it needs. -/
def GatewayUnit.freed (G : GatewayUnit) (slots entries : Nat) : GatewayUnit :=
  GatewayUnit.reserve { G with slotRes := G.slotRes + slots, entRes := G.entRes + entries }

/-- A flow leaves the queue. Where it held the age token the token passes on: DESIGN CHOICE (log entry 44): what is then free, but
for `taken` slots granted to the flow that leaves, is reserved for the new holder. -/
def GatewayUnit.leave (G : GatewayUnit) (src taken : Nat) : GatewayUnit :=
  let q := G.queue.filter (fun x => x.src ≠ src)
  if (G.queue.head?).any (fun x => decide (x.src = src)) then
    GatewayUnit.reserve { G with queue := q, slotRes := G.freeSlots - taken, entRes := redEntries - G.redUsed.length }
  else { G with queue := q }

/-- The record of a flow changes; the slots its held lines gave up are free. -/
def State.putFlowRx (s : State) (f : FieldId) (src : Nat) (r : FlowRx) : State :=
  let n := (s.flowRx f src).held.length - r.held.length
  (s.setFlowRx f src r).updGw f (fun G => G.freed n 0)

/-- The entries of a line are released. -/
def State.redErase (s : State) (f : FieldId) (R : RedLine) : State :=
  s.updGw f (fun G => GatewayUnit.freed { G with red := SMap.erase G.red R.line } 0 R.entries.length)

/-- The place of a flow in the queue, as its DEFER carries it, or the AGE of a flow without one; the holder of the age token is
told of it. -/
def State.placeAge (s : State) (f : FieldId) (src : Nat) : State × Nat :=
  let q := (s.gw f).queue
  match q.findIdx? (fun x => decide (x.src = src)) with
  | none => (s, noPlace)
  | some k => (s.updGw f (fun G => { G with queue := q.map (fun x =>
      if x.src = src then { x with told := x.told || decide (k = 0) } else x) }), k)

/-- The place of a flow whose line was refused: for slots where `need` is 0, else for `need` entries. -/
def QPlace.refused (x : QPlace) (seq need : Nat) : QPlace :=
  if need = 0 then { x with slot := some (x.slot.getD seq) } else { x with seq := seq, need := need }

/-- A refused flow keeps or takes its place; the AGE its DEFER carries. -/
def State.queueEnter (s : State) (f : FieldId) (src seq need : Nat) : State × Nat :=
  let q := (s.gw f).queue
  let s1 :=
    if q.any (fun x => decide (x.src = src)) then
      s.updGw f (fun G => { G with queue := q.map (fun x => if x.src = src then x.refused seq need else x) })
    else if queuePlaces ≤ q.length then s
    else s.updGw f (fun G => { G with queue := q ++ [QPlace.refused ⟨src, seq, 0, none, false⟩ seq need] })
  s1.placeAge f src

/-- A flow leaves the queue; the token, where it held it, passes on. -/
def State.queueLeave (s : State) (f : FieldId) (src : Nat) : State := s.updGw f (fun G => G.leave src 0)

/-- The place of a flow once its line `seq` waits for nothing more. -/
def QPlace.served (x : QPlace) (seq : Nat) : QPlace :=
  { x with need := if x.seq = seq then 0 else x.need, slot := x.slot.filter (fun n => decide (n ≠ seq)) }

def QPlace.over (x : QPlace) : Bool := decide (x.need = 0) && x.slot.isNone

/-- A line of a flow has been applied, or marked as done: where its flow has its place for it alone, it leaves the queue. -/
def State.queueServed (s : State) (f : FieldId) (src seq : Nat) : State :=
  let s1 := s.updGw f (fun G => GatewayUnit.reserve { G with
    queue := G.queue.map (fun x => if x.src = src then x.served seq else x) })
  if (s1.gw f).queue.any (fun x => decide (x.src = src) && x.over) then s1.queueLeave f src else s1

/-- The holder of the age token is admitted to the line slots; it leaves the queue unless it waits for entries too. -/
def GatewayUnit.takeIn (G : GatewayUnit) (src : Nat) : GatewayUnit :=
  let q := G.queue.map (fun x => if x.src = src then { x with slot := none } else x)
  if q.any (fun x => decide (x.src = src) && x.over) then G.leave src grantSlots
  else GatewayUnit.reserve { G with queue := q }

/-- A line of a flow asks for a slot: none when it may be held, else the AGE of its DEFER. -/
def State.slotTake (s : State) (f : FieldId) (src seq : Nat) : State × Option Nat :=
  let G := s.gw f
  let r := s.flowRx f src
  let refuse := let x := s.queueEnter f src seq 0; (x.1, some x.2)
  if r.held ≠ [] then
    if r.held.length < s.freg f Reg.GWY_SOU_CTL.GRANT_MAX ∧ G.slotRes < G.freeSlots then (s, none)
    else (s, some noPlace)
  else
    match G.queue.head? with
    | none => if grantSlots ≤ G.freeSlots then (s, none) else refuse
    | some q =>
      if q.src ≠ src then refuse
      else if q.slot.isSome then
        if grantSlots ≤ G.slotRes then (s.updGw f (fun G => G.takeIn src), none) else refuse
      else if grantSlots ≤ G.freeSlots then (s, none)
      else refuse

/-! ### The reduction table (R423 to R426) -/

/-- Entries reserved for the holder of the age token, when the holder is none of the sources. -/
def GatewayUnit.reservedEntries (G : GatewayUnit) (srcs : List Nat) : Nat :=
  match G.queue.head? with
  | some q => if srcs.contains q.src then 0 else G.entRes
  | none => 0

/-- Whether a line of the sources may create `need` entries: they are free, and no flow that waits for entries is before them
(R424, R681). DESIGN CHOICE (log entry 44): an age token held for line slots does not hold entries back. -/
def GatewayUnit.redMay (G : GatewayUnit) (srcs : List Nat) (need : Nat) : Bool :=
  decide (need + G.reservedEntries srcs ≤ redEntries - G.redUsed.length) &&
    (G.queue.find? (fun x => decide (x.need ≠ 0))).all (fun x => srcs.contains x.src)

/-- Positions at which an accumulator of a line overflowed raise their event (R139). -/
def State.redOverflow (s : State) (f : FieldId) (R : RedLine) (ovf : List Nat) : State :=
  ovf.foldl (fun t i => t.raise f Ev.FLD_LONG_OVERFLOW [(1, 1), (4, nth R.entries (i / 32) * 32 + i % 32)]) s

def State.setRed (s : State) (f : FieldId) (R : RedLine) : State :=
  s.updGw f (fun G => { G with red := SMap.insert G.red R.line R })

/-- The entries of a line are created from its value in memory (R423), where they may be. -/
def State.redCreate (s : State) (f : FieldId) (may : Bool) (line typ allot : Nat) : State × Option RedLine :=
  let need := lineElems typ / 32
  let used := (s.gw f).redUsed
  if s.injArmed f injGwy 3 then (s.injFire f injGwy, none)
  else if !may then (s, none)
  else
    let (s1, x) := s.lineRead f line srcGateway
    let (accs, ovf) := accsAdd (List.replicate (lineElems typ) LongAcc.zero) (lineTerms typ (x.poisonLo || x.poisonHi) x.data)
    let R : RedLine :=
      { line := line, entries := ((List.range redEntries).filter (fun k => !used.contains k)).take need, typ := typ,
        allot := allot, accs := accs, changed := false, flushed := none }
    ((s1.setRed f R).redOverflow f R ovf, some R)

/-- A put-reduce that found too few entries is deferred (R424). -/
def State.redDefer (s : State) (f : FieldId) (src seq need allot : Nat) : State × Nat :=
  let s1 := s.fwrap f Reg.GWY_RED_STATUS.DEFERS
  let s2 := if (s1.gw f).redFull then s1 else
    (s1.updGw f (fun G => { G with redFull := true })).raise f Ev.GWY_RED_FULL
      [(2, (s1.gw f).redUsed.length), (2, allot)]
  s2.queueEnter f src seq need

/-- The rounded line of an entry group (R425). -/
def State.redRound (s : State) (f : FieldId) (R : RedLine) : List Byte :=
  let fmt := redFmt R.typ
  let size := fmt.width / 8
  let rm := s.freg f Reg.GWY_RED_CTL.RMODE
  let ovf := decide (s.freg f Reg.GWY_RED_CTL.OVF = 1)
  let rnd := srBits (s.freg f Reg.FLD_SR_SEED.SEED) (s.freg f Reg.FLD_SR_STEP.STEP) (s.freg f Reg.GWY_RED_CTL.STREAM)
  (R.accs.zipIdx).flatMap (fun (a, j) => leBytes size (a.round fmt rm ovf (rnd ((R.line * 128) / size + j))).1)

/-- An entry group is flushed into memory (R425). -/
def State.redFlush (s : State) (f : FieldId) (R : RedLine) : State :=
  let s1 := (s.lineWrite f (R.line * 128) (s.redRound f R) false srcGateway).1
  (s1.fwrap f Reg.GWY_STAT.FLUSHES R.entries.length).setRed f { R with changed := false }

/-- The line groups of an allotment. -/
def State.redOf (s : State) (f : FieldId) (allot : Nat) : List RedLine :=
  ((s.gw f).red.map Prod.snd).filter (fun R => decide (R.allot = allot) && R.flushed.isNone)

/-! ### Applying a line (R409, R419, R424) -/

/-- How applying an ordered line ends: with a status; deferred for want of entries; waiting for a mark's flush
write (R529). -/
inductive Applied where
  | done (status : Nat)
  | defer (need : Nat)
  | wait
  deriving DecidableEq, Repr

/-- A put-reduce is applied (R423, R424, R529). -/
def State.applyReduce (s : State) (f : FieldId) (p : Packet) : State × Applied :=
  let h := rhOf p
  let line := p.key / 128
  if targetOf p.key ≠ .hbm then (s, .done St.ADDRESS_UNMAPPED)
  else
    let add := fun (t : State) (R : RedLine) =>
      let (accs, ovf) := accsAdd R.accs (lineTerms h.typ (decide (h.flags &&& fPoison ≠ 0)) (rhPayload p))
      ((t.setRed f { R with accs := accs, changed := true }).redOverflow f R ovf, Applied.done St.OK)
    match SMap.find (s.gw f).red line with
    | some R =>
      if R.flushed.isSome then (s, .wait)
      else if R.typ ≠ h.typ ∨ R.allot ≠ p.allot then (s, .done St.REDUCE_TYPE_MISMATCH)
      else add s R
    | none =>
      match s.redCreate f ((s.gw f).redMay [p.src] (lineElems h.typ / 32)) line h.typ p.allot with
      | (s1, some R) => add s1 R
      | (s1, none) => (s1, .defer (lineElems h.typ / 32))

/-- An ordered line is applied. -/
def State.applyLine (s : State) (f : FieldId) (p : Packet) : State × Applied :=
  let h := rhOf p
  let poisoned := decide (h.flags &&& fPoison ≠ 0)
  let ofStatus := fun (x : State × Nat) => (x.1, Applied.done x.2)
  if h.kind = kPut then
    ofStatus (if p.cls = 5 then s.bulkPut f p.src p.key (rhPayload p) poisoned
      else s.targetWrite f p.key wholeMask (rhPayload p) poisoned srcGateway)
  else if h.kind = kPutPartial then ofStatus (s.targetWrite f p.key h.operand (rhPayload p) poisoned srcGateway)
  else if h.kind = kPutReduce then s.applyReduce f p
  else if h.kind = kMirMark then ofStatus (s.mirMarkApply f p.src h.operand)
  else if h.kind = kMirLayout then ofStatus (s.mirLayoutApply f p.src h.operand (rhPayload p))
  else if h.kind = kMirPull then ofStatus (s.mirPullApply f p.src h.operand)
  else ofStatus (s.mirDoneApply f p.src h.operand)

/-- EXP passes a line that has been applied with a status (R409, R412). -/
def State.lineApplied (s : State) (f : FieldId) (src : Nat) (p : Packet) (status : Nat) : State :=
  let r := s.flowRx f src
  let s1 := s.putFlowRx f src { r with
    exp := (r.exp + 1) % 2 ^ 32, held := r.held.filter (fun x => x.seq ≠ r.exp), key := p.key, typ := (rhOf p).typ }
  if status ≠ St.OK then s1.sendErrorAck f p status
  else s1.updGw f (fun G => { G with ackDue := if G.ackDue.contains src then G.ackDue else G.ackDue ++ [src] })

/-- EXP passes a line that a combined put-reduce has done. -/
def State.lineDone (s : State) (f : FieldId) (src : Nat) : State :=
  let r := s.flowRx f src
  let s1 := s.putFlowRx f src { r with exp := (r.exp + 1) % 2 ^ 32, held := r.held.filter (fun x => x.seq ≠ r.exp) }
  s1.updGw f (fun G => { G with ackDue := if G.ackDue.contains src then G.ackDue else G.ackDue ++ [src] })

/-- Held lines that have become next are applied in order (R409). -/
def State.drainHeld (s : State) (f : FieldId) (src : Nat) : Nat → State
  | 0 => s
  | n + 1 =>
    let r := s.flowRx f src
    match r.held.find? (fun x => decide (x.seq = r.exp)) with
    | none => s
    | some x =>
      match x.pkt with
      | none => (s.lineDone f src).drainHeld f src n
      | some p =>
        match s.applyLine f p with
        | (s1, .done st) => (s1.lineApplied f src p st).drainHeld f src n
        | (s1, .wait) => s1
        | (s1, .defer need) =>
          let r1 := s1.flowRx f src
          let s2 := s1.putFlowRx f src { r1 with held := r1.held.filter (fun y => y.seq ≠ x.seq) }
          let (s3, age) := s2.redDefer f src x.seq need p.allot
          s3.sendDefer f p age

/-- Every held line of a flow that is next. -/
def State.drainFlow (s : State) (f : FieldId) (src : Nat) : State :=
  s.drainHeld f src ((s.flowRx f src).held.length + 1)

/-- A line at its turn, or ahead of it, or behind it (R409). -/
def State.takeOrdered (s : State) (f : FieldId) (p : Packet) : State :=
  let h := rhOf p
  let r := s.flowRx f p.src
  if seqBefore h.seq r.exp || r.held.any (fun x => decide (x.seq = h.seq)) ||
      (s.gw f).redWait.any (fun q => decide (q.src = p.src) && decide ((rhOf q).seq = h.seq)) then s.sendAck f p.src
  else if h.seq = r.exp then
    match s.applyLine f p with
    | (s1, .done st) => ((s1.queueServed f p.src h.seq).lineApplied f p.src p st).drainFlow f p.src
    | (s1, .wait) => (s1.queueServed f p.src h.seq).updGw f (fun G => { G with redWait := G.redWait ++ [p] })
    | (s1, .defer need) =>
      let (s2, age) := s1.redDefer f p.src h.seq need p.allot
      s2.sendDefer f p age
  else
    match s.slotTake f p.src h.seq with
    | (s1, none) =>
      let r1 := s1.flowRx f p.src
      s1.setFlowRx f p.src { r1 with held := r1.held ++ [⟨h.seq, some p⟩] }
    | (s1, some age) => s1.sendDefer f p age

/-- A line of a source has come: the time of R410 step 4 stops. -/
def State.lineSeen (s : State) (f : FieldId) (src : Nat) : State :=
  s.updGw f (fun G => { G with queue := G.queue.map (fun x => if x.src = src then { x with told := false } else x) })

/-- An ordered line arrives (R409). -/
def State.orderedArrive (s : State) (f : FieldId) (p : Packet) : State :=
  let h := rhOf p
  let r := s.flowRx f p.src
  let opens := decide (h.flags &&& fOpen ≠ 0)
  if s.injArmed f injGwy 2 then
    (s.injFire f injGwy).sendDefer f p (if bit (s.injArg f injGwy) 0 then noPlace else 0)
  else if !opens && (!r.valid || decide (r.fepoch ≠ h.fepoch)) then s
  else
    let s1 := s.lineSeen f p.src
    let s2 := if opens && !(r.valid && decide (r.fepoch = h.fepoch)) then
      ((s1.putFlowRx f p.src { FlowRx.init with valid := true, exp := h.seq, fepoch := h.fepoch }).queueLeave f p.src).updGw f
        (fun G => { G with redWait := G.redWait.filter (fun q => q.src ≠ p.src) }) else s1
    s2.takeOrdered f p

/-- An ordered line of a kind as a command. -/
def State.orderedRow (s : State) (f : FieldId) (kind : Nat) (p : Packet) : Result :=
  let (s1, here) := s.arrival f kind p
  if here then finish ((s1.orderedArrive f p).mirSettle f) else finish s1

/-- PUT (R409, R419). -/
def execPut (f : FieldId) (pkt : Packet) (s : State) : Result := s.inRim f <| s.orderedRow f kPut pkt
/-- PUT_PARTIAL (R409, R419). -/
def execPutPartial (f : FieldId) (pkt : Packet) (s : State) : Result := s.inRim f <| s.orderedRow f kPutPartial pkt
/-- PUT_REDUCE (R409, R423, R424). -/
def execPutReduce (f : FieldId) (pkt : Packet) (s : State) : Result := s.inRim f <| s.orderedRow f kPutReduce pkt

/-! ### Combined put-reduces (R428) -/

/-- Whether a contributor's line is a duplicate. -/
def State.combDup (s : State) (f : FieldId) (c : Nat × Nat × Nat) : Bool :=
  let r := s.flowRx f c.1
  r.valid && decide (r.fepoch = c.2.1) &&
    (seqBefore c.2.2 r.exp || r.held.any (fun x => decide (x.seq = c.2.2)) ||
      (s.gw f).redWait.any (fun q => decide (q.src = c.1) && decide ((rhOf q).seq = c.2.2)))

/-- A contributor's line is marked as done, where it would be applied or held; else the AGE of its DEFER. -/
def State.combMark (s : State) (f : FieldId) (c : Nat × Nat × Nat) : State × Option Nat :=
  let r := s.flowRx f c.1
  if !r.valid || decide (r.fepoch ≠ c.2.1) || s.combDup f c then (s, some noPlace)
  else
    let mark := fun (was : State) =>
      let t := was.queueServed f c.1 c.2.2
      let r1 := t.flowRx f c.1
      t.setFlowRx f c.1 { r1 with held := r1.held ++ [⟨c.2.2, none⟩] }
    if c.2.2 = r.exp then (mark s, none)
    else
      match s.slotTake f c.1 c.2.2 with
      | (s1, none) => (mark s1, none)
      | (s1, some age) => (s1, some age)

/-- The line's entries, existing or created. -/
def State.combEntry (s : State) (f : FieldId) (may : Bool) (p : Packet) : State × Option RedLine :=
  let h := rhOf p
  if targetOf p.key ≠ .hbm then (s, none)
  else
    match SMap.find (s.gw f).red (p.key / 128) with
    | some R => if R.flushed.isSome ∨ R.typ ≠ h.typ ∨ R.allot ≠ p.allot then (s, none) else (s, some R)
    | none => s.redCreate f may (p.key / 128) h.typ p.allot

/-- The answer to a contributor of a refused packet. -/
def State.combRefuse (s : State) (f : FieldId) (p : Packet) (noEntry : Bool) (c : Nat × Nat × Nat) : State :=
  let h := rhOf p
  if s.combDup f c then s.sendAck f c.1
  else
    let r := s.flowRx f c.1
    let (s1, age) :=
      if !r.valid || decide (r.fepoch ≠ c.2.1) then (s, noPlace)
      else if c.2.2 = r.exp then
        if noEntry then s.redDefer f c.1 c.2.2 (lineElems h.typ / 32) p.allot else s.placeAge f c.1
      else
        match s.slotTake f c.1 c.2.2 with
        | (t, some a) => (t, a)
        | (_, none) => s.placeAge f c.1
    s1.sendDeferTo f c.1 p.key h.typ c.2.1 c.2.2 0 age

/-- A combined put-reduce arrives. -/
def State.combArrive (s0 : State) (f : FieldId) (p : Packet) : State :=
  let cs := combRecords p
  let s := cs.foldl (fun t c => t.lineSeen f c.1) s0
  if s.injArmed f injGwy 4 then
    cs.foldl (fun t c => if t.combDup f c then t.sendAck f c.1
      else t.sendDeferTo f c.1 p.key (rhOf p).typ c.2.1 c.2.2 0 noPlace)
      ((s.injFire f injGwy).fcount f Reg.GWY_STAT.COMB_DISCARD)
  else
    let (s1, ok) := cs.foldl (fun (acc : State × Bool) c =>
      if acc.2 then
        let (t, x) := acc.1.combMark f c
        (t, x.isNone)
      else acc) (s, true)
    let may := (s.gw f).redMay (cs.map Prod.fst) (lineElems (rhOf p).typ / 32)
    let (s2, e) := if ok then s1.combEntry f may p else (s, none)
    match e with
    | some R =>
      let (accs, ovf) := accsMerge R.accs (combImages p)
      let s3 := ((s2.setRed f { R with accs := accs, changed := true }).redOverflow f R ovf).fwrap f Reg.GWY_STAT.COMB_APPLIED
      cs.foldl (fun t c => t.drainFlow f c.1) s3
    | none =>
      let noEntry := ok && decide (targetOf p.key = .hbm) && (SMap.find (s.gw f).red (p.key / 128)).isNone
      let s3 := if noEntry && s.injArmed f injGwy 3 then s.injFire f injGwy else s
      cs.foldl (fun t c => t.combRefuse f p noEntry c) (s3.fcount f Reg.GWY_STAT.COMB_DISCARD)

/-- PUT_REDUCE_COMB (R428). -/
def execPutReduceComb (f : FieldId) (pkt : Packet) (s : State) : Result := s.inRim f <|
  let (s1, here) := s.arrival f kPutReduceComb pkt
  if here then finish (s1.combArrive f pkt) else finish s1

/-- PUT_REDUCE_RESUME (R529): put-reduces that waited for a mark's flush write are applied. -/
def execPutReduceResume (f : FieldId) (s : State) : Result := s.inRim f <|
  let G := s.gw f
  let ws := G.redWait
  let s1 := ws.foldl (fun t p => t.takeOrdered f p) (s.updGw f (fun G => { G with redWait := [] }))
  finish ((G.rx.filter (fun e => e.2.held.any (fun x => decide (x.seq = e.2.exp)))).foldl (fun t e =>
    match e.2.held.find? (fun x => decide (x.seq = e.2.exp)) with
    | some ⟨_, some p⟩ => t.drainFlow f p.src
    | _ => t) s1)

/-! ### Unordered requests (R377, R419 to R421) -/

/-- GET (R419). -/
def execGet (f : FieldId) (pkt : Packet) (s : State) : Result := s.inRim f <|
  let (s1, here) := s.arrival f kGet pkt
  if !here then finish s1
  else
    let h := rhOf pkt
    let (s2, st, data, poisoned) := s1.targetRead f pkt.key srcGateway
    finish (s2.respond f pkt.src pkt.key { rhKind kGetResp with
      typ := h.typ, txn := h.txn, status := st, flags := if poisoned then fPoison else 0 }
      ((data ++ List.replicate 128 0).take 128))

/-- MCAST_PUT (R377, R422): a copy for this field. -/
def execMcastPut (f : FieldId) (pkt : Packet) (s : State) : Result := s.inRim f <|
  let (s1, here) := s.arrival f kMcastPut pkt
  if !here then finish s1
  else
    let h := rhOf pkt
    let (s2, st) := s1.targetWrite f pkt.key wholeMask (rhPayload pkt) (decide (h.flags &&& fPoison ≠ 0)) srcGateway
    finish (s2.respond f pkt.src pkt.key { rhKind kMcAck with typ := h.typ, txn := h.txn, status := st } [])

/-- The new value of an atomic (R421). -/
def atomicNew (kind typ old operand : Nat) : Nat :=
  let w := 8 * atomicBytes typ
  if kind = kCompareSwap then (if old = bits operand 64 64 then bits operand 0 64 else old)
  else if typ = 0 then (addRound (fp32Val old) (fp32Val (bits operand 0 32)) false).1
  else trunc w (old + trunc w operand)

/-- Responses the atomic unit keeps. -/
def atomicCache : Nat := 4096

/-- ATOMIC_RESP. -/
def State.atomicAnswer (s : State) (f : FieldId) (p : Packet) (a : AtomicResp) : State :=
  let h := rhOf p
  s.respond f p.src p.key { rhKind kAtomicResp with
    typ := h.typ, txn := h.txn, status := a.status, operand := a.old, flags := if a.poisoned then fPoison else 0 } []

/-- The atomic unit performs a request (R421); bytes of a poisoned line are returned as poison and stay. -/
def State.atomicPerform (s : State) (f : FieldId) (p : Packet) : State × AtomicResp :=
  let h := rhOf p
  let n := atomicBytes h.typ
  if targetOf p.key ≠ .hbm then (s, ⟨p.src, h.txn, St.ADDRESS_UNMAPPED, 0, false⟩)
  else
    let (s1, bs, bad) := s.hbmRead f p.key n srcGateway
    if bad then (s1, ⟨p.src, h.txn, St.OK, 0, true⟩)
    else
      let old := leNat bs
      ((s1.hbmWrite f p.key (leBytes n (atomicNew h.kind h.typ old h.operand)) false srcGateway).1, ⟨p.src, h.txn, St.OK, old, false⟩)

/-- An atomic arrives. -/
def State.atomicArrive (s : State) (f : FieldId) (p : Packet) : State :=
  let h := rhOf p
  let G := s.gw f
  match G.atomics.find? (fun a => decide (h.flags &&& fRetx ≠ 0) && decide (a.src = p.src) && decide (a.txn = h.txn)) with
  | some a => s.atomicAnswer f p a
  | none =>
    if atomicCache ≤ G.atomics.length then s.sendDefer f p noPlace
    else
      let (s1, a) := s.atomicPerform f p
      let s2 := s1.updGw f (fun G => { G with
        atomics := G.atomics.filter (fun b => decide (b.src ≠ a.src) || decide (b.txn ≠ a.txn)) ++ [a] })
      s2.atomicAnswer f p a

/-- FETCH_ADD (R421). -/
def execFetchAdd (f : FieldId) (pkt : Packet) (s : State) : Result := s.inRim f <|
  let (s1, here) := s.arrival f kFetchAdd pkt
  if here then finish (s1.atomicArrive f pkt) else finish s1

/-- COMPARE_SWAP (R421). -/
def execCompareSwap (f : FieldId) (pkt : Packet) (s : State) : Result := s.inRim f <|
  let (s1, here) := s.arrival f kCompareSwap pkt
  if here then finish (s1.atomicArrive f pkt) else finish s1

/-- ATOMIC_CACHE_EXPIRY (R421). -/
def execAtomicCacheExpiry (f : FieldId) (src txn : Nat) (s : State) : Result := s.inRim f <|
  .next (s.updGw f (fun G => { G with atomics := G.atomics.filter (fun b => decide (b.src ≠ src) || decide (b.txn ≠ txn)) }))

/-- FLUSH_REQ (R417, R425). -/
def execFlushReq (f : FieldId) (pkt : Packet) (s : State) : Result := s.inRim f <|
  let (s1, here) := s.arrival f kFlushReq pkt
  if !here then finish s1
  else
    let h := rhOf pkt
    let s2 := ((s1.redOf f pkt.allot).filter RedLine.changed).foldl (fun t R => t.redFlush f R) s1
    finish (s2.respond f pkt.src pkt.key { rhKind kFlushAck with typ := h.typ, txn := h.txn } [])

/-- GWY_RED_RELEASE (R425, R439). -/
def State.redRelease (s : State) (f : FieldId) (id : Nat) : State :=
  (s.redOf f id).foldl (fun t R => (t.redFlush f R).redErase f R) s

/-- GWY_RED_RELEASE (R425). -/
def execGwyRedRelease (f : FieldId) (id : Nat) (s : State) : Result := s.inRim f <| finish (s.redRelease f (trunc 12 id))

/-- ACK_SEND (R412): the ACK due within 256 ns of EXP advancing. -/
def execAckSend (f : FieldId) (src : Nat) (s : State) : Result := s.inRim f <|
  if (s.gw f).ackDue.contains src then .next (s.sendAck f src) else .next s

/-- AGE_TOKEN_TIMEOUT (R410). -/
def execAgeTokenTimeout (f : FieldId) (src : Nat) (s : State) : Result := s.inRim f <|
  match (s.gw f).queue.head? with
  | some q => if q.src = src ∧ q.told = true then .next (s.queueLeave f src) else .next s
  | none => .next s

/-- ABSORBER_WRITEBACK (R422). -/
def execAbsorberWriteback (f : FieldId) (line : Nat) (s : State) : Result := s.inRim f <|
  if ((s.memu f).resident line).isSome then finish (s.absorberFlush f line) else .next s

/-! ### Answers at the source (R411, R412, R415) -/

/-- What follows every answer: fences and mirroring move on. -/
def State.gwSettle (s : State) (f : FieldId) : State := (s.fencesStep f).mirSettle f

/-- The lines an acknowledgement up to SEQ covers complete (R412). -/
def State.ackApply (s : State) (f : FieldId) (p : Packet) : State :=
  let h := rhOf p
  let r := s.flowTx f p.src
  if h.fepoch ≠ s.flowEpoch f p.src then s
  else
    let acked := if seqBefore r.acked h.seq then h.seq else r.acked
    let err := decide (h.flags &&& fError ≠ 0)
    let s1 := s.setFlowTx f p.src { r with acked := acked }
    let covered := (s.gw f).lines.filter (fun l =>
      l.ordered && decide (flowKey l.dst = flowKey p.src) && seqReached l.seq acked)
    covered.foldl (fun t l => t.lineFinish f l (if err && decide (l.seq = h.seq) then h.status else St.OK)) s1

/-- ACK (R412). -/
def execAck (f : FieldId) (pkt : Packet) (s : State) : Result := s.inRim f <|
  let (s1, here) := s.arrival f kAck pkt
  if here then finish ((s1.ackApply f pkt).gwSettle f) else finish s1

/-- The delay of R411 in nanoseconds. -/
def backoff (src dst n t : Nat) : Nat :=
  let x := trunc 32 (src <<< 16) ^^^ dst ^^^ trunc 32 (n <<< 27) ^^^ trunc 32 (t >>> 10)
  let y := trunc 32 (x * 0x9E3779B1)
  let z := y ^^^ (y >>> 15)
  1000 <<< min (n - 1) 5 + z % 1000

/-- DEFER (R411). -/
def execDefer (f : FieldId) (pkt : Packet) (s : State) : Result := s.inRim f <|
  let (s1, here) := s.arrival f kDefer pkt
  if !here then finish s1
  else
    let h := rhOf pkt
    let hit := fun (l : GwLine) => l.sent && decide (l.dst = pkt.src) &&
      (if h.txn ≠ 0 then !l.ordered && decide (l.id % 2 ^ 32 = h.txn)
       else l.ordered && decide (l.seq = h.seq) && decide (l.fepoch = h.fepoch))
    let t := (s.field f).tally.tInt
    .next ((s1.fwrap f Reg.GWY_STAT.DEFERS_RECV).updGw f (fun G => { G with lines := G.lines.map (fun l =>
      if hit l then
        let n := min (l.defers + 1) 255
        { l with deferred := true, resends := 0, defers := n, delay := if h.age = 0 then 500 else backoff (s.node f) l.dst n t }
      else l) }))

/-- The outstanding unordered request a response answers. -/
def State.answered (s : State) (f : FieldId) (p : Packet) (kinds : List Nat) : Option GwLine :=
  (s.gw f).lines.find? (fun l => l.sent && decide (l.kind ∈ kinds) && decide (l.id % 2 ^ 32 = (rhOf p).txn) &&
    (l.multicast || decide (l.dst = p.src)))

/-- GET_RESP (R239, R420). -/
def execGetResp (f : FieldId) (pkt : Packet) (s : State) : Result := s.inRim f <|
  let (s1, here) := s.arrival f kGetResp pkt
  match s1.answered f pkt [kGet] with
  | some l =>
    if !here then finish s1
    else
      let h := rhOf pkt
      let bad := decide (h.flags &&& fPoison ≠ 0)
      if h.status = St.OK then
        finish (((s1.lineLocal f l (rhPayload pkt) 0 bad).lineFinish f l (if bad then St.UNCORRECTED else St.OK)).gwSettle f)
      else finish ((s1.lineFinish f l h.status).gwSettle f)
  | none => finish s1

/-- ATOMIC_RESP (R421): the old value is written at LOCAL. -/
def execAtomicResp (f : FieldId) (pkt : Packet) (s : State) : Result := s.inRim f <|
  let (s1, here) := s.arrival f kAtomicResp pkt
  match s1.answered f pkt [kFetchAdd, kCompareSwap] with
  | some l =>
    if !here then finish s1
    else
      let h := rhOf pkt
      let bad := decide (h.flags &&& fPoison ≠ 0)
      if h.status = St.OK then
        finish (((s1.lineLocal f l [] (trunc (8 * atomicBytes l.typ) h.operand) bad).lineFinish f l
          (if bad then St.UNCORRECTED else St.OK)).gwSettle f)
      else finish ((s1.lineFinish f l h.status).gwSettle f)
  | none => finish s1

/-- FLUSH_ACK (R417). -/
def execFlushAck (f : FieldId) (pkt : Packet) (s : State) : Result := s.inRim f <|
  let (s1, here) := s.arrival f kFlushAck pkt
  match s1.answered f pkt [kFlushReq] with
  | some l => if here then finish ((s1.lineFinish f l St.OK).gwSettle f) else finish s1
  | none => finish s1

/-- A member of a multicast has answered or failed; the line ends with its last member, with the status of the
first failing one. -/
def State.memberDone (s : State) (f : FieldId) (l : GwLine) (c status : Nat) : State :=
  let x : GwLine := { l with
    due := l.due.filter (fun d => d.1 ≠ c), fails := if status = St.OK then l.fails else l.fails ++ [(c, status)] }
  let s1 := s.updGw f (fun G => { G with lines := G.lines.map (fun y => if y.id = l.id then x else y) })
  if x.due = [] then s1.lineFinish f x (xferStatus x.fails) else s1

/-- MC_ACK (R377). -/
def execMcAck (f : FieldId) (pkt : Packet) (s : State) : Result := s.inRim f <|
  let (s1, here) := s.arrival f kMcAck pkt
  match s1.answered f pkt [kMcastPut] with
  | some l =>
    let c := nodeCoord pkt.src l.maxis
    if here && decide (pkt.src = nodeWith l.dst l.maxis c) && l.due.any (fun d => decide (d.1 = c)) then
      finish ((s1.memberDone f l c (rhOf pkt).status).gwSettle f)
    else finish s1
  | none => finish s1

/-! ### Retransmission (R413 to R415) -/

/-- The OP of a kind of unordered request in GWY_FATAL_LOG (R442). -/
def fatalOp (kind : Nat) : Nat := if kind = kGet then 1 else if kind = kFetchAdd then 6 else 7

/-- A get or an atomic fails (R415). -/
def State.fatalFail (s : State) (f : FieldId) (l : GwLine) : State :=
  let p : Nat := match l.owner with | .plot p _ _ _ => p.val | .gone p => p.val | _ => 0
  let op := fatalOp l.kind
  let allot := s.allot f
  let s1 := (s.lineLocal f l [] 0 true).fcount f Reg.GWY_STAT.POISONED
  let s2 := s1.raise f Ev.GWY_FABRIC_FATAL [(2, l.dst), (2, allot), (8, l.addr), (1, p), (1, op)]
  let s3 := if s2.freg f Reg.GWY_FATAL_LOG.VALID = 1 then s2 else
    (((((s2.fset f Reg.GWY_FATAL_LOG.DST l.dst).fset f Reg.GWY_FATAL_LOG.ALLOT allot).fset f Reg.GWY_FATAL_LOG.VALID 1).fset
      f Reg.GWY_FATAL_LOG.OP op).fset f Reg.GWY_FATAL_LOG.ADDR l.addr).fset f Reg.GWY_FATAL_LOG.PLOT p
  s3.lineFinish f l St.POISONED

/-- A request has failed (R413). -/
def State.requestFail (s : State) (f : FieldId) (l : GwLine) (member : Nat) : State :=
  if l.ordered then s.flowBreak f l.dst l.seq
  else if l.multicast then s.memberDone f l member St.UNREACHABLE
  else if l.kind = kFlushReq then s.lineFinish f l St.UNREACHABLE
  else s.fatalFail f l

/-- RETX_TIMEOUT (R413): the timer of a request expires; `member` names a multicast's member. -/
def execRetxTimeout (f : FieldId) (req : Nat) (member : Nat) (s : State) : Result := s.inRim f <|
  match (s.gw f).lines.find? (fun l => decide (l.id = req) && l.sent && !l.deferred &&
      (!l.multicast || l.due.any (fun d => decide (d.1 = member)))) with
  | none => .next s
  | some l =>
    let n := if l.multicast then ((l.due.find? (fun d => decide (d.1 = member))).map Prod.snd).getD 0 else l.resends
    if s.freg f Reg.GWY_RETX_CTL.LIMIT ≤ n then finish ((s.requestFail f l member).gwSettle f)
    else
      let s1 := (s.fwrap f Reg.GWY_STAT.RETX).updGw f (fun G => { G with lines := G.lines.map (fun x =>
        if x.id ≠ l.id then x
        else if l.multicast then { x with due := x.due.map (fun d => if d.1 = member then (d.1, d.2 + 1) else d) }
        else { x with resends := x.resends + 1 }) })
      .next (s1.gwSend f l (if l.multicast then s1.memberPacket f l member else s1.linePacket f l true))

/-! ### The allotment halt (R416, R441) -/

/-- The gateway's part of an allotment halt. -/
def State.gwHalt (s : State) (f : FieldId) (id : Nat) : State :=
  let s1 := (List.finRange 256).foldl (fun (t : State) (p : PlotId) => t.drillCtl f p true false false)
    (s.fset f Reg.GWY_ALLOT_HALT.HALTED 1)
  let s2 := (s1.gw f).lines.foldl (fun t l => t.lineFinish f l St.ALLOT_HALTED) s1
  let keys := ((s1.gw f).lines.filter GwLine.ordered).map (fun l => flowKey l.dst)
  let s3 := keys.eraseDups.foldl (fun t k => t.setFlowTx f k
    { next := 0, acked := 0xFFFFFFFF, fepoch := ((t.flowTx f k).fepoch + 1) % 256, opens := true }) s2
  let s4 := (s3.gw f).fences.foldl (fun t x => t.fenceAnswer f { x with status := St.ALLOT_HALTED }) s3
  let mine := fun (p : Packet) => decide (p.allot = id)
  let s5 := s4.updGw f (fun G => { G with
    rx := G.rx.map (fun e => (e.1, { e.2 with held := e.2.held.filter (fun x => !(x.pkt.elim true mine)) })),
    red := G.red.filter (fun e => e.2.allot ≠ id),
    redWait := G.redWait.filter (fun p => !mine p),
    queue := [], slotRes := 0, entRes := 0 })
  (s5.mirSettle f).raise f Ev.GWY_ALLOT_HALTED [(2, id)]

end Sys2Proof.Machine
end

