-- ==== Sys2Proof/Machine/Mirror.lean ====
section
/-! DEFINITION. Mirroring and spare admission (R244 to R247, R489 to R511): takes, epochs, control packets,
pushes, loads, and what a boundary mark does to the planes, the regions and the pairings. -/

namespace Sys2Proof.Machine

open Sys2Proof

/-! ### Takes (R245, R492, R498, R499) -/

/-- Partners that answer. -/
def State.mirLive (s : State) (f : FieldId) : List Nat :=
  let m := (s.mir f).src
  m.indices.filter (fun n => !bit m.lost n)

/-- One line of a granule is read, without the writes that wait for the take (R246), and sent to every partner that answers. -/
def State.takeLine (s : State) (f : FieldId) (granule c i : Nat) : State :=
  let a := granule * granBytes + 128 * i
  let (s1, x) := s.rawLineRead f (a / 128) srcGateway
  let bad := x.poisonLo || x.poisonHi
  let s2 := (s1.mirLive f).foldl (fun t n =>
    t.gwEnqueue f { gwLine kPut 5 (nth (t.mir f).src.partners n)
      ((t.freg f Reg.MIR_SRC_DEST.COPY_BASE n + c) * granBytes + 128 * i) (.mirror n) with data := x.data, poisoned := bad }) s1
  if bad then s2.raise f Ev.MIR_POISON_MIRRORED [(8, a)] else s2

/-- A granule leaves a plane. -/
def State.planeClear (s : State) (f : FieldId) (res : Bool) (granule : Nat) : State :=
  s.updMemu f (fun m => if res then { m with res := SMap.erase m.res granule } else { m with cur := SMap.erase m.cur granule })

/-- GRANULE_TAKE (R245, R492): a RES granule, or a CUR granule when RES is empty and the MIR_MARK of the epoch that closed has
been sent. None is taken while the allotment is halted (R416). DESIGN CHOICE (log entry 44): a RES granule of a region since
disabled has no copy offset in the layout in force (R490), so its take clears the bit and sends nothing. -/
def execGranuleTake (f : FieldId) (granule : Nat) (s : State) : Result := s.inRim f <|
  let m := s.memu f
  let inRes := SMap.get m.res false granule
  if !(s.mir f).src.on || s.halted f || decide (s.mirLive f = []) ||
      !(inRes || (m.res.isEmpty && !(s.mir f).src.commit && SMap.get m.cur false granule)) then .next s
  else
    let s1 := s.planeClear f inRes granule
    match copyIndex m.regions granule with
    | none => finish s1
    | some c => finish ((List.range granLines).foldl (fun t i => t.takeLine f granule c i) s1)

/-- Where RES is empty and the epoch closed at the last mark awaits its MIR_MARK, each partner is sent it (R492); not while the
allotment is halted (R416). -/
def State.mirCommit (s : State) (f : FieldId) : State :=
  let m := (s.mir f).src
  if m.on && m.commit && (s.memu f).res.isEmpty && !s.halted f then
    let e := s.freg f Reg.MIR_SRC_STATUS.EPOCH
    let s1 := (s.mirLive f).foldl (fun t n => t.mirMarkSend f n e) s
    (s1.updMirSrc f (fun m => { m with commit := false })).fset f Reg.RTE_VC_CTL.COMMIT_DUE 0
  else s

/-- MIR_MARK_SEND (R492). -/
def execMirMarkSend (f : FieldId) (s : State) : Result := s.inRim f <| finish (s.mirCommit f)

/-! ### Control packets (R491) -/

/-- MIR_MARK (R493). -/
def execMirMark (f : FieldId) (pkt : Packet) (s : State) : Result := s.inRim f <| s.orderedRow f kMirMark pkt
/-- MIR_LAYOUT (R497). -/
def execMirLayout (f : FieldId) (pkt : Packet) (s : State) : Result := s.inRim f <| s.orderedRow f kMirLayout pkt
/-- MIR_PULL (R507). -/
def execMirPull (f : FieldId) (pkt : Packet) (s : State) : Result := s.inRim f <| s.orderedRow f kMirPull pkt
/-- MIR_DONE (R508). -/
def execMirDone (f : FieldId) (pkt : Packet) (s : State) : Result := s.inRim f <| s.orderedRow f kMirDone pkt

/-! ### Loss of a partner (R497) -/

/-- MIR_PARTNER_TIMEOUT (R497): a partner has left a line unanswered for 1 s. -/
def execMirPartnerTimeout (f : FieldId) (n : Fin 2) (s : State) : Result := s.inRim f <|
  if (s.mir f).src.on && (s.mirLive f).contains n.val && (s.gw f).lines.any (fun l => decide (l.owner = .mirror n)) then
    finish ((s.updMirSrc f (fun m => { m with lost := setBit m.lost n true })).fset f Reg.MIR_SRC_STATUS.STATE msNoPartner)
  else .next s

/-- MIR_LAYOUT_RETRY (R497). -/
def execMirLayoutRetry (f : FieldId) (n : Fin 2) (s : State) : Result := s.inRim f <|
  let m := (s.mir f).src
  if m.on && decide (n.val < m.partners.length) && bit m.lost n then finish ((s.mirLayoutSend f n true).mirSettle f) else .next s

/-! ### Pushing to a spare (R507) -/

/-- One line of a copy granule goes to the spare at its source's field address. -/
def State.pushLine (s : State) (f : FieldId) (n c granule dst i : Nat) : State :=
  let (s1, x) := s.lineRead f (((s.mirSlot f n).copyBase + c) * granLines + i) srcGateway
  s1.gwAccept f { gwLine kPut 5 dst (granule * granBytes + 128 * i) (.push n) with
    data := x.data, poisoned := x.poisonLo || x.poisonHi }

/-- MIR_DONE to the spare, with the epoch, COPY_GRANULES and DIGEST (R507); the push is over. -/
def State.pushDone (s : State) (f : FieldId) (n : Nat) (x : MirPush) : State :=
  let hit := s.injArmedAt f injMir 1 n
  let d := s.freg f Reg.MIR_PART_STATUS.DIGEST n ^^^ (if hit then s.injArg f injMir else 0)
  let s1 := (if hit then s.injFire f injMir else s).gwAccept f { gwLine kMirDone 5 x.dst 0 (.push n) with
    operand := x.epoch + (s.mirSlot f n).copyGran * 2 ^ 32 + d * 2 ^ 64 }
  s1.pushEnd f n (if s.halted f then St.ALLOT_HALTED else St.OK)

/-- MIR_PUSH (R507): the next copy granule is pushed, or, after the last, MIR_DONE is sent. While the allotment is halted its
lines are refused, which ends the push (R403). -/
def execMirPush (f : FieldId) (n : Fin 2) (s : State) : Result := s.inRim f <|
  let y := s.mirSlot f n
  match y.push with
  | none => .next s
  | some x0 =>
    let hit := s.injArmedAt f injMir 2 n
    let x : MirPush := if hit then { x0 with stall := some (s.injArg f injMir) } else x0
    let s1 := (if hit then s.injFire f injMir else s).updSlot f n (fun z => { z with push := some x })
    if x.stall.any (fun k => decide (k ≤ x.next)) then finish s1
    else
      match copyGranule y.layout x.next with
      | none => finish ((s1.pushDone f n x).mirSettle f)
      | some g =>
        let s2 := (List.range granLines).foldl (fun t i => t.pushLine f n x.next g x.dst i) s1
        finish ((s2.updSlot f n (fun z => { z with push := some { x with next := x.next + 1 } })).mirSettle f)

/-! ### Loading a spare (R509, R510) -/

/-- START of MIR_LOAD_CTL. -/
def State.loadStart (s : State) (f : FieldId) : State :=
  if s.loading f then s
  else
    let s1 := ((s.fset f Reg.MIR_LOAD_STATUS.STATE mlLoading).fset f Reg.MIR_LOAD_STATUS.USING_SRC1 0).fset f
      Reg.MIR_LOAD_STATUS.RESULT St.OK
    (s1.fset f Reg.MIR_LOAD_STATUS.EPOCH (s.freg f Reg.MIR_LOAD_CTL.EPOCH)).loadPull f (s.freg f Reg.MIR_LOAD_CTL.SRC0)

/-- ABORT of MIR_LOAD_CTL. -/
def State.loadAbort (s : State) (f : FieldId) : State :=
  if s.loading f then s.loadEnd f mlFailed St.MIRROR_SOURCE_LOST else s

/-- MIR_LOAD_START (R510). -/
def execMirLoadStart (f : FieldId) (s : State) : Result := s.inRim f <| finish ((s.loadStart f).mirSettle f)
/-- MIR_LOAD_ABORT (R509). -/
def execMirLoadAbort (f : FieldId) (s : State) : Result := s.inRim f <| finish (s.loadAbort f)
/-- MIR_LOAD_TIMEOUT (R509): no push line for 100 ms. -/
def execMirLoadTimeout (f : FieldId) (s : State) : Result := s.inRim f <|
  finish ((s.loadFail f St.MIRROR_SOURCE_LOST).mirSettle f)

/-! ### At a boundary mark (R246, R247, R489, R492, R495) -/

/-- The planes, the epoch and commit_due; the flag says that an epoch was skipped. -/
def State.markPlanes (was : State) (f : FieldId) : State × Bool :=
  let s := was.mirCommit f
  let on := (s.mir f).src.on
  let inj := on && s.injArmed f injMir 4
  let full := !(s.memu f).res.isEmpty
  let s0 := if inj then s.injFire f injMir else s
  let s1 := if full || inj then
      (s0.raise f Ev.MEM_RESIDUE_LATE [(4, (s.memu f).res.length)] inj).fset f Reg.MEM_MIR_STATUS.LATE 1 else s0
  let s2 := s1.updMemu f (fun m => { m with res := planeAdd m.res (SMap.keys m.cur), cur := [] })
  if !on then (s2, false)
  else
    let e := s2.freg f Reg.MIR_SRC_STATUS.EPOCH
    let skip := full || inj
    let s3 := if skip then (s2.fcount f Reg.MIR_SRC_STATUS.SKIPPED).raise f Ev.MIR_SKIPPED [(2, s2.node f), (4, e)] inj else s2
    let s4 := (s3.fset f Reg.MIR_SRC_STATUS.EPOCH ((e + 1) % 2 ^ 32)).fset f Reg.RTE_VC_CTL.COMMIT_DUE 1
    (s4.updMirSrc f (fun m => { m with commit := true }), skip)

/-- The regions the registers hold. -/
def State.regionRegs (s : State) (f : FieldId) : List MirRegion :=
  (List.range 16).map (fun n =>
    { enable := decide (s.freg f Reg.MEM_MIR_REGION.ENABLE n = 1), base := s.freg f Reg.MEM_MIR_REGION.BASE n,
      size := s.freg f Reg.MEM_MIR_REGION.SIZE n })

/-- Granules of HBM, and the most the planes cover. -/
def hbmGranules : Nat := hbmTop / granBytes
def planeGranules : Nat := 524288

/-- The first region that breaks R247 or R258: empty, past HBM, overlapping a lower one, or taking the total past the planes. -/
def regionFault (rs : List MirRegion) : Option Nat :=
  (List.range rs.length).find? (fun i =>
    match rs[i]? with
    | none => false
    | some r =>
      let before := rs.take i
      r.enable && (decide (r.size = 0) || decide (hbmGranules < r.base + r.size) || decide (planeGranules < layoutSize (before ++ [r])) ||
        before.any (fun q => q.enable && decide (q.base < r.base + r.size) &&
          decide (r.base < q.base + q.size))))

/-- A written region set takes effect, or is refused (R247). -/
def State.markRegions (s : State) (f : FieldId) : State :=
  if !(s.mir f).regionsDue then s
  else
    let s0 := s.updMir f (fun M => { M with regionsDue := false })
    let rs := s.regionRegs f
    match regionFault rs with
    | some i => s0.raise f Ev.MEM_MIRROR_CONFIG_REFUSED [(1, i)]
    | none =>
      let old := (s.memu f).regions
      let fresh := (rs.zipIdx).filterMap (fun (r, i) => if r.enable ∧ old[i]? ≠ some r then some r else none)
      let kept := rs.filter (fun r => r.enable)
      let s1 := s0.updMemu f (fun m => { m with
        regions := rs,
        cur := fresh.foldl (fun c r => planeAdd c r.granules)
          (m.cur.filter (fun e => kept.any (fun r => decide (r.base ≤ e.1) && decide (e.1 < r.base + r.size)))) })
      if (s1.mir f).src.on ∧ rs ≠ old then (s1.mirLive f).foldl (fun t n => t.mirLayoutSend f n false) s1 else s1

/-- Whether two nodes share a package's (w, v). -/
def sameWV (a b : Nat) : Bool := decide (nodeCoord a 2 = nodeCoord b 2) && decide (nodeCoord a 3 = nodeCoord b 3)

/-- Whether the FLD_ALLOT of the other end of a pairing differs from this field's: a free value, since that end lies in another
package (R47, R489) and the spec names no message that carries it. -/
def State.allotDiffers (s : State) : State × Bool :=
  let (v, t) := s.draw
  (t, decide (v % 2 = 1))

/-- A written MIR_SRC_CTL takes effect (R489, R492, R501). -/
def State.markSource (s : State) (f : FieldId) : State :=
  if !(s.mir f).srcDue then s
  else
    let (sa, differs) := s.allotDiffers
    let s0 := sa.updMir f (fun M => { M with srcDue := false })
    let dual := decide (s.freg f Reg.MIR_SRC_CTL.DUAL = 1)
    let ps := s.freg f Reg.MIR_SRC_CTL.PARTNER0 :: (if dual then [s.freg f Reg.MIR_SRC_CTL.PARTNER1] else [])
    let off := fun (t : State) (st : Nat) =>
      ((t.updMirSrc f (fun m => { m with on := false, commit := false })).fset f Reg.RTE_VC_CTL.COMMIT_DUE 0).fset f
        Reg.MIR_SRC_STATUS.STATE st
    if s.freg f Reg.MIR_SRC_CTL.ENABLE = 0 then off s0 msOff
    else if ps.any (sameWV (s.node f)) || (dual && sameWV (nth ps 0) (nth ps 1)) || differs then
      (off s0 msRefused).fset f Reg.MIR_SRC_STATUS.RESULT St.MIRROR_PARTNER_INVALID
    else
      let s1 := (off s0 msFilling).updMirSrc f (fun _ => { on := true, dual := dual, partners := ps, lost := 0, commit := false })
      let s2 := ((s1.fset f Reg.MIR_SRC_STATUS.RESULT St.OK).fset f Reg.MIR_SRC_STATUS.EPOCH 0).curAll f
      (List.range ps.length).foldl (fun t n => t.mirLayoutSend f n false) s2

/-- A written MIR_PARTn takes effect (R489, R504). -/
def State.markPart (s : State) (f : FieldId) (n : Nat) : State :=
  if !bit (s.mir f).partDue n then s
  else
    let (sa, differs) := s.allotDiffers
    let s0 := sa.updMir f (fun M => { M with partDue := setBit M.partDue n false })
    let r := fun (k : RegField) => s.freg f k n
    let src := r Reg.MIR_PART.SOURCE
    let cg := r Reg.MIR_PART.COPY_GRANULES
    let bg := r Reg.MIR_PART.BUF_GRANULES
    let clear := fun (t : State) (st : Nat) =>
      (((t.updSlot f n (fun _ => MirSlot.idle)).bufUsed f n).fset f Reg.MIR_PART_STATUS.STATE st n).fset f
        Reg.MIR_PART_STATUS.VALID 0 n
    if r Reg.MIR_PART.ENABLE = 0 then clear s0 mpIdle
    else if sameWV (s.node f) src || differs then
      (clear s0 mpRefused).fset f Reg.MIR_PART_STATUS.RESULT St.MIRROR_PARTNER_INVALID n
    else
      let s1 := (clear s0 mpFilling).updSlot f n (fun _ => { MirSlot.idle with
        on := true, source := src, copyBase := r Reg.MIR_PART.COPY_BASE, copyGran := cg, bufBase := r Reg.MIR_PART.BUF_BASE,
        bufGran := if bg = 0 then (cg + 3) / 4 else bg, journal := r Reg.MIR_PART.JOURNAL_BASE })
      (s1.fset f Reg.MIR_PART_STATUS.RESULT St.OK n).fset f Reg.MIR_PART_STATUS.DIGEST 0 n

/-- Pending region sets and pairings take effect (R528 action 4). -/
def State.markPairings (s : State) (f : FieldId) : State :=
  (((s.markRegions f).markSource f).markPart f 0).markPart f 1

end Sys2Proof.Machine
end

