-- ==== Sys2Proof/Machine/Memory.lean ====
section
/-! DEFINITION. Field memory and mesh (R231 to R261): HBM accesses at the controller, a lost stack,
scrub, held writes, fallow plots, writes from the mesh into plot stores, doorbell rings. -/

namespace Sys2Proof.Machine

open Sys2Proof

/-! ### Controller accesses (R238, R240, R244, R246, R422) -/

/-- Half-lines of HBM. -/
def hbmHalves : Nat := 0xC0000000

/-- HBM_READ (R238): one half-line. A resident line answers with the absorber's copy and no read of HBM (R422). -/
def execHbmRead (f : FieldId) (half : Nat) (src : Fin 6) (s : State) : Result := s.inRim f <|
  if half < hbmHalves then
    match (s.memu f).resident (half / 2) with
    | some x => .next (s.absorberTouch f x)
    | none => finish (s.ctrlReadHalf f half src).1
  else .next s

/-- HBM_WRITE (R240, R244, R422): bytes within one half-line, or a whole line marked poisoned. -/
def execHbmWrite (f : FieldId) (addr : Nat) (data : List Byte) (poisoned : Bool) (src : Fin 6) (s : State) :
    Result := s.inRim f <|
  if hbmTop ≤ addr then .next s
  else finish (s.lineWrite f addr (if poisoned then [] else data.take (64 - addr % 64)) poisoned src).1

/-! ### Lost stacks (R235) -/

/-- A stack stops responding: its resident lines are discarded, writes held back for it too, the field becomes UNFIT and its
compute partition is held in reset. DESIGN CHOICE (log entry 44): a write held back under R246 was answered OK when it was held;
discarded here, its requester learns no UNCORRECTED. -/
def State.stackLost (s : State) (f : FieldId) (stack : Nat) (injected : Bool) : State :=
  if (s.memu f).lost stack then s
  else
    let s1 := s.updMemu f (fun m => m.loseStack stack)
    let s2 := (s1.raise f Ev.MEM_STACK_LOST [(1, stack)] injected).hardEvent f 1 injected
    let s3 := s2.hset (if stack = 0 then Reg.HUB_FIELD_STATE.HBM0_OK else Reg.HUB_FIELD_STATE.HBM1_OK) 0 0 f
    if s3.svc f = svcDark then s3 else (s3.setSvc f svcUnfit injected).resetPartition f

/-- HBM_STACK_LOST (R235). -/
def execHbmStackLost (f : FieldId) (stack : Fin 2) (s : State) : Result := s.inRim f <| finish (s.stackLost f stack false)

/-- ECS_READ (R236): the counts the stacks report, kept saturating. -/
def execEcsRead (f : FieldId) (count0 count1 : Nat) (s : State) : Result := s.inRim f <|
  .next ((s.fset f Reg.MEM_ECC_STAT.ECS_0 (min count0 255)).fset f Reg.MEM_ECC_STAT.ECS_1 (min count1 255))

/-! ### Patrol scrub (R241, R242, R256) -/

/-- Line slots of a pseudo-channel. -/
def pcSlots : Nat := 0xC00000

/-- Full passes completed by every pseudo-channel, from their counts of lines read. -/
def scrubPasses (m : SMap Nat) : Nat :=
  (List.range 128).foldl (fun n pc => min n (SMap.get m 0 pc / pcSlots)) (2 ^ 64)

/-- One patrol read of a pseudo-channel; the pass that ends with it is counted and clears the
row-error table. -/
def State.patrol (s : State) (f : FieldId) (pc : Nat) : State :=
  let k := SMap.get (s.memu f).scrub 0 pc
  let l := lineAt pc (k % pcSlots)
  let s1 := (s.ctrlReadHalf f (2 * l) srcScrub).1
  let s2 := (s1.ctrlReadHalf f (2 * l + 1) srcScrub).1
  let scrub := SMap.set (s2.memu f).scrub 0 pc (k + 1)
  let s3 := s2.updMemu f (fun m => { m with scrub := scrub })
  if scrubPasses (s2.memu f).scrub < scrubPasses scrub then
    (s3.updMemu f (fun m => { m with rowTab := [] })).fcount f Reg.MEM_SCRUB_CTL.PASSES
  else s3

/-- HBM_PATROL_SCRUB (R241). -/
def execHbmPatrolScrub (f : FieldId) (pc : Fin 128) (s : State) : Result := s.inRim f <|
  if s.freg f Reg.MEM_SCRUB_CTL.ENABLE = 1 then finish (s.patrol f pc) else .next s

/-! ### Held writes (R246) -/

/-- The oldest held write whose granule has been taken takes effect. -/
def State.releaseHeld (s : State) (f : FieldId) : State :=
  let m := s.memu f
  match m.held.find? (fun w => !SMap.get m.res false (granuleOf (w.line * 128))) with
  | none => s
  | some w => (s.updMemu f (fun m => { m with held := m.held.erase w })).lineApply f w.line w.runs w.poisoned w.src

/-- MIRROR_WRITE_RELEASE (R246). -/
def execMirrorWriteRelease (f : FieldId) (s : State) : Result := s.inRim f <| finish (s.releaseHeld f)

/-! ### Fallow plots (R249) -/

/-- A point of INJ_ARITH armed for a plot whose slot becomes vacant cannot fire (R144). -/
def State.injArithVacate (s : State) (f : FieldId) (i : Nat) : State :=
  if s.freg f Reg.INJ_ARITH.ARM = 1 ∧ s.freg f Reg.INJ_ARITH.PLOT = i then
    (s.fset f Reg.INJ_ARITH.ARM 0).fset f Reg.INJ_ARITH.NOFIRE 1
  else s

/-- A plot is made fallow between remaps: its bit, its drill in HELD, its event. No effect on a plot
already fallow or in reserve. -/
def State.makeFallow (s : State) (f : FieldId) (q : Nat) : State :=
  let F := s.field f
  match logicalOf F.memu.remap q with
  | none => s
  | some i =>
    if bit F.fallowRun q then s
    else
      let s1 := s.updField f (fun F => F.setReg Reg.FLD_FALLOW_RUN.RUN (setBit F.fallowRun q true))
      ((s1.drillCtl f (plotIx i) true false false).injArithVacate f i).raise f Ev.FLD_PLOT_FALLOW [(1, i), (2, q)]

/-- PLOT_FALLOW_SET (R249). -/
def execPlotFallowSet (f : FieldId) (phys : Fin 272) (s : State) : Result := s.inRim f <| finish (s.makeFallow f phys)

/-! ### Plot stores from outside (R157 to R159, R232, R240) -/

/-- A line write from the mesh into a plot store: the status its requester receives. -/
def State.meshStoreWrite (s : State) (f : FieldId) (p : PlotId) (a : Nat) (data : List Byte)
    (poisoned : Bool) : State × Nat :=
  if s.vacant f p then (s, St.PLOT_FALLOW)
  else if poisoned then (s.storePoison f p (a / 128 * 16) 16, St.OK)
  else (s.storeWrite f p a (data.take (storeSize - a)) rqMesh, St.OK)

/-- PLOT_STORE_MESH_WRITE (R156, R158, R240). -/
def execPlotStoreMeshWrite (f : FieldId) (p : PlotId) (addr : Nat) (data : List Byte) (poisoned : Bool)
    (s : State) : Result :=
  if storeSize ≤ addr || !s.partitionUp f then .next s
  else finish (s.meshStoreWrite f p addr (data.take (128 - addr % 128)) poisoned).1

/-- PLOT_STORE_SCRUB (R159): the next line of the plot store is read and corrected. -/
def execPlotStoreScrub (f : FieldId) (p : PlotId) (s : State) : Result :=
  if s.vacant f p || !s.partitionUp f then .next s
  else
    let n := (s.plot f p).scrub
    let s1 := (s.storeRead f p (n % 32768 * 128) 128 rqScrub).1
    finish (s1.updPlot f p (fun P => { P with scrub := (n + 1) % 32768 }))

/-! ### Rings and multicasts (R172, R185, R253) -/

/-- Doorbell bits set in one plot that is in service. -/
def State.ringPlot (s : State) (f : FieldId) (p : PlotId) (v : Nat) : State :=
  if s.vacant f p then s
  else s.pset f p Reg.PLT_DOORBELL.PENDING (s.preg f p Reg.PLT_DOORBELL.PENDING ||| v % 2 ^ 32)

/-- The plots a row or column multicast selects (R253): position k along it is bit k of the mask. -/
def mcastPlots (isRow : Bool) (index mask : Nat) : List PlotId :=
  ((List.range 16).filter (bit mask)).map (fun k => plotIx (if isRow then index * 16 + k else k * 16 + index))

/-- A row or column multicast: what each copy does, MCAST_SKIPPED for vacant slots, and the count
of copies its source will learn. -/
def State.mcast (s : State) (f : FieldId) (isRow : Bool) (index mask : Nat)
    (copy : State → PlotId → State) : State :=
  let ps := mcastPlots isRow index mask
  let live := ps.filter (fun p => !s.vacant f p)
  let s1 := live.foldl copy s
  let s2 := s1.fcount f Reg.FLD_MESH_STAT.MCAST_SKIPPED (ps.length - live.length)
  s2.updMemu f (fun m => { m with mcasts := m.mcasts ++ [⟨isRow, index, mask % 65536, live.length⟩] })

/-- FLD_DOORBELL_RING's plots rung (R172, R185, R692). -/
def State.doorbellRing (s : State) (f : FieldId) (v target scope : Nat) : State :=
  if !s.partitionUp f then s
  else
    let row := fun (t : State) (y : Nat) => t.mcast f true y 0xFFFF (fun u p => u.ringPlot f p v)
    match scope with
    | 0 => s.ringPlot f (plotIx target) v
    | 1 => row s (target / 16)
    | 2 => s.mcast f false (target % 16) 0xFFFF (fun u p => u.ringPlot f p v)
    | _ => (List.range 16).foldl row s

/-- FLD_DOORBELL_RING (R185). -/
def execFldDoorbellRing (f : FieldId) (v : Nat) (target : PlotId) (scope : Fin 4) (s : State) : Result :=
  .next (s.doorbellRing f v target scope)

/-- MESH_MULTICAST_COMPLETE (R253): the source of the oldest multicast learns its count of copies. -/
def execMeshMulticastComplete (f : FieldId) (s : State) : Result := s.inRim f <|
  match (s.memu f).mcasts with
  | [] => .next s
  | x :: xs => .next ((s.updMemu f (fun m => { m with mcasts := xs })).emit (.mcastDone f x.copies))

end Sys2Proof.Machine
end

