-- ==== Sys2Proof/Machine/SheafOps.lean ====
section
/-! DEFINITION. Shared operations of the sheaf engine (R445 to R474): carriers and handshake sets, compact blocks,
packets, completion and failure of a collective. -/

namespace Sys2Proof.Machine

open Sys2Proof

/-! ### Carriers (R456, R457) -/

/-- The next coordinate present from a wanted one on. -/
def nextPresent (want : Nat) (present : List Nat) (size : Nat) : Nat :=
  (((List.range size).map (fun i => (want + i) % size)).find? (fun c => present.contains c)).getD 0

/-- The f coordinate of a node (R19). -/
def coordF (x : Nat) : Nat := x % 4

/-- The owner of chunk k among members in rising order. -/
def shfOwner (g : List Nat) (k : Nat) : Nat := nth g (k % g.length)

def shfC0 (g : List Nat) (k pk : Nat) : Nat :=
  pk ||| nextPresent (coordF (shfOwner g k)) ((g.filter (fun x => nodePkg x = pk)).map coordF) 4

def shfC1 (g : List Nat) (k v w : Nat) : Nat :=
  let us := (g.filter (fun x => nodeCoord x 2 = v ∧ nodeCoord x 3 = w)).map (fun x => nodeCoord x 1)
  let u := nextPresent (nodeCoord (shfOwner g k) 1) us 4
  shfC0 g k (nodeWith (nodeWith (nodeWith 0 1 u) 2 v) 3 w)

def shfC2 (g : List Nat) (k w : Nat) : Nat :=
  let vs := (g.filter (fun x => nodeCoord x 3 = w)).map (fun x => nodeCoord x 2)
  shfC1 g k (nextPresent (nodeCoord (shfOwner g k) 2) vs 16) w

/-- The carrier of chunk k at a stage, seen from member m. -/
def shfCarrier (g : List Nat) (stage k m : Nat) : Nat :=
  match stage with
  | 0 => shfC0 g k (nodePkg m)
  | 1 => shfC1 g k (nodeCoord m 2) (nodeCoord m 3)
  | 2 => shfC2 g k (nodeCoord m 3)
  | _ => shfOwner g k

/-- Whether members a and b meet at a stage: of one package, one U line, one rack, one group. -/
def shfTogether (stage a b : Nat) : Bool :=
  match stage with
  | 0 => decide (nodePkg a = nodePkg b)
  | 1 => decide (nodeCoord a 2 = nodeCoord b 2) && decide (nodeCoord a 3 = nodeCoord b 3)
  | 2 => decide (nodeCoord a 3 = nodeCoord b 3)
  | _ => true

/-- The other participants of chunk k at a stage of which m is the carrier. -/
def shfSenders (g : List Nat) (stage k m : Nat) : List Nat :=
  if shfCarrier g stage k m ≠ m then []
  else
    let near := g.filter (fun x => shfTogether stage x m)
    let ps := if stage = 0 then near else (near.map (fun x => shfCarrier g (stage - 1) k x)).eraseDups
    ps.filter (fun x => x ≠ m)

/-- The member to which m sends its piece of chunk k at a stage. -/
def shfTarget (g : List Nat) (stage k m : Nat) : Option Nat :=
  let c := shfCarrier g stage k m
  if c ≠ m ∧ (stage = 0 ∨ shfCarrier g (stage - 1) k m = m) then some c else none

/-- The handshake set H(m), in rising order (R456). -/
def handshakeSet (g : List Nat) (m : Nat) : List Nat :=
  let peers := (List.range g.length).flatMap (fun k => (List.range 4).flatMap (fun st =>
    (shfTarget g st k m).toList ++ shfSenders g st k m))
  g.filter (fun x => peers.contains x)

/-! ### Descriptors (R446, R451) -/

def byteField (b : List Byte) (off n : Nat) : Nat := leNat ((b.drop off).take n)

/-- Bytes of an element of a type of R451. -/
def shfSize (typ : Nat) : Nat := if typ = 0 ∨ typ = 0x0C then 4 else if typ ≤ 2 then 2 else 1

/-- Elements of a chunk, and of chunk k of a count. -/
def chunkElems : Nat := 1024
def chunkSize (count k : Nat) : Nat := min chunkElems (count - chunkElems * k)
def chunkCount (count : Nat) : Nat := (count + chunkElems - 1) / chunkElems
/-- Blocks of 32 elements. -/
def chunkBlocks (count k : Nat) : Nat := (chunkSize count k + 31) / 32

def ShfColl.fld (c : ShfColl) (off n : Nat) : Nat := byteField c.desc off n
def ShfColl.inType (c : ShfColl) : Nat := c.fld 1 1
def ShfColl.outType (c : ShfColl) : Nat := c.fld 2 1
def ShfColl.count (c : ShfColl) : Nat := c.fld 8 8
def ShfColl.src (c : ShfColl) : Nat := c.fld 16 8
def ShfColl.dst (c : ShfColl) : Nat := c.fld 24 8

/-! ### Compact blocks (R458) -/

/-- Lowest set bit of a nonzero number. -/
def lowBit (n : Nat) : Nat := ((List.range 320).find? (fun i => bit n i)).getD 0

/-- Whether a value fits in n bits as two's complement. -/
def fitsSigned (v : Int) (n : Nat) : Bool := decide (-(2 ^ (n - 1) : Nat) ≤ v) && decide (v < (2 ^ (n - 1) : Nat))

/-- The compact form of 32 accumulators. -/
def compactBlock (as : List LongAcc) : List Byte :=
  let nz := as.filter (fun x => x.a ≠ 0)
  let lsb := ((nz.map (fun x => lowBit x.a.natAbs)).min?).getD 0
  let vals : List Int := as.map (fun x => x.a / ((2 ^ lsb : Nat) : Int))
  let width := if nz = [] then 0 else ((List.range 21).find? (fun w => decide (0 < w) && vals.all (fun v => fitsSigned v (16 * w)))).getD 20
  let special := as.any (fun x => x.posInf || x.negInf || x.nan)
  let spec := (as.zipIdx).foldl (fun n (x, i) =>
    n + (b2n x.posInf + 2 * b2n x.negInf + 4 * b2n x.nan) * 2 ^ (3 * i)) 0
  leBytes 2 lsb ++ leBytes 1 width ++ leBytes 1 (b2n special) ++ (if special then leBytes 12 spec else []) ++
    (if width = 0 then [] else vals.flatMap (fun v => leBytes (2 * width) (ofSigned (16 * width) v)))

/-- A block at the front of bytes, and the bytes after it; none where it is malformed. -/
def readCompact (b : List Byte) : Option (List LongAcc × List Byte) :=
  let lsb := byteField b 0 2
  let width := byteField b 2 1
  let flags := byteField b 3 1
  let special := bit flags 0
  let off := if special then 16 else 4
  let len := off + 64 * width
  if 319 < lsb ∨ 20 < width ∨ 1 < flags ∨ b.length < len then none
  else
    let spec := if special then byteField b 4 12 else 0
    let accs := (List.range 32).map (fun i =>
      let v := toSigned (16 * width) (byteField b (off + 2 * width * i) (2 * width))
      let s3 := bits spec (3 * i) 3
      ({ a := if width = 0 then 0 else v * (2 ^ lsb : Nat), posInf := bit s3 0, negInf := bit s3 1, nan := bit s3 2, count := 0 } : LongAcc))
    if accs.all (fun x => fitsSigned x.a 320) then some (accs, b.drop len) else none

/-- n blocks that fill bytes exactly. -/
def readBlocks : Nat → List Byte → Option (List LongAcc)
  | 0, b => if b = [] then some [] else none
  | n + 1, b =>
    match readCompact b with
    | none => none
    | some (accs, rest) => (readBlocks n rest).map (fun l => accs ++ l)

/-! ### Elements (R457, R459) -/

/-- The terms of input elements. -/
def shfTerms (typ : Nat) (b : List Byte) : List Val :=
  let n := shfSize typ
  (List.range (b.length / n)).map (fun i =>
    let c := byteField b (n * i) n
    if typ = 0x0C then Val.ofInt (toSigned 32 c) 0 else (decodeElem (redFmt typ) c).1)

/-- Accumulators with elements' terms added; positions past the elements keep their value. -/
def addElems (accs : List LongAcc) (ts : List Val) : List LongAcc :=
  (List.zipWith (fun a t => (a.addTerm t).1) accs ts) ++ accs.drop ts.length

def mergeElems (accs bs : List LongAcc) : List LongAcc :=
  (List.zipWith (fun a b => (a.merge b).1) accs bs) ++ accs.drop bs.length

/-- An INT32 output element (R459). -/
def roundInt32 (x : LongAcc) : Nat × Cls :=
  if x.nan || (x.posInf && x.negInf) then (0, clsNaNIn)
  else if x.posInf || x.negInf then (0, clsInfIn)
  else
    let v : Int := x.a / ((2 ^ 149 : Nat) : Int)
    if v < -(2 ^ 31 : Nat) then (0x80000000, clsSatRange)
    else if (2 ^ 31 : Nat) ≤ v then (0x7FFFFFFF, clsSatRange)
    else (ofSigned 32 v, clsNone)

/-- The mask bit of a class in CLASS_SEEN (R136). -/
def clsBit (c : Cls) : Nat := if c = 0 then 0 else 2 ^ (c - 1)

/-- Element j of the output (R459). -/
def ShfColl.roundElem (c : ShfColl) (j : Nat) (x : LongAcc) : Nat × Cls :=
  if c.outType = 0x0C then roundInt32 x
  else
    let ctrl := c.fld 3 1
    x.round (redFmt c.outType) (bits ctrl 0 2) (bit ctrl 2) (srBits c.seed c.step (c.fld 4 4) (trunc 48 (c.fld 32 6 + j)))

/-! ### The engine's state -/

def State.shf (s : State) (f : FieldId) : SheafUnit := (s.field f).shf
def State.updShf (s : State) (f : FieldId) (g : SheafUnit → SheafUnit) : State :=
  s.updField f (fun F => { F with shf := g F.shf })
def State.shfSlot (s : State) (f : FieldId) (k : Nat) : Option ShfSlot := SMap.find (s.shf f).slots k
def State.updSlotShf (s : State) (f : FieldId) (k : Nat) (g : ShfSlot → ShfSlot) : State :=
  s.updShf f (fun U => { U with slots := U.slots.map (fun e => if e.1 = k then (k, g e.2) else e) })
def State.updColl (s : State) (f : FieldId) (k : Nat) (g : ShfColl → ShfColl) : State :=
  s.updSlotShf f k (fun x => { x with coll := x.coll.map g })

/-- The tally of a field. -/
def State.tallyOf (s : State) (f : FieldId) : Nat := (s.field f).tally.tInt

/-! ### Packets (R467) -/

def skDigest : Nat := 1
def skPiece : Nat := 2
def skGather : Nat := 3
def skReceipt : Nat := 4
def skCredit : Nat := 5
def skAbort : Nat := 6

/-- A sheaf packet of a slot. -/
def State.shfSend (s : State) (f : FieldId) (x : ShfSlot) (seq dst kind stage part chunk arg : Nat) (payload : List Byte) : State :=
  let body := leBytes 2 x.group ++ leBytes 2 x.epoch ++ leBytes 4 seq ++ leBytes 1 kind ++ leBytes 1 stage ++
    leBytes 2 part ++ leBytes 4 chunk ++ leBytes 8 arg ++ leBytes 8 0 ++ payload
  s.issuePacket f 1 (s.newPacket f dst 1 (x.group * 2 ^ 32 + chunk) body)

/-- A sent part, or its resend. -/
def State.sendPart (s : State) (f : FieldId) (x : ShfSlot) (seq : Nat) (o : ShfOut) : State :=
  s.shfSend f x seq o.dst o.kind o.stage o.part o.chunk (o.cls * 2 ^ 48 + o.blocks * 2 ^ 56) o.payload

/-- Bytes of payload a part may hold. -/
def partBytes : Nat := 4096 - 48

/-- Blocks packed into parts, as many as fit (R467): first block, blocks, bytes. -/
def packParts : List (List Byte) → List (Nat × Nat × List Byte)
  | bs => (bs.zipIdx).foldl (fun ps (b, i) =>
    match ps.getLast? with
    | some (a, n, d) => if d.length + b.length ≤ partBytes then ps.dropLast ++ [(a, n + 1, d ++ b)] else ps ++ [(i, 1, b)]
    | none => [(i, 1, b)]) []

/-- Bytes cut into blocks of n bytes. -/
def cutBlocks (n : Nat) (b : List Byte) : List (List Byte) :=
  (List.range ((b.length + n - 1) / n)).map (fun i => (b.drop (n * i)).take n)

/-- Bytes written to a group's scratch area, at a place the spec leaves open. -/
def State.scratchWrite (s : State) (f : FieldId) (x : ShfSlot) (b : List Byte) : State :=
  let (v, s1) := s.draw
  let off := v % (x.scratchReq / 41472) * 41472
  ((s1.hbmWrite f (x.scratch + off) b false srcSheaf).1).fwrap f Reg.SHF_STAT.SCRATCH_BYTES b.length

/-! ### Lateness (R466, R477) -/

/-- Bucket of a lateness. -/
def lateBucket (l : Nat) : Nat := min 15 (Nat.log2 (l / 64 + 1))

/-- The arrivals of one stage are recorded. -/
def State.lateStage (s : State) (f : FieldId) (c : ShfColl) (stage : Nat) : State :=
  let as := c.arrs.filter (fun e => decide (e.1 / 8192 = stage))
  if as = [] then s
  else
    let first := as.foldl (fun m e => min m e.2) c.tIssue
    let s1 := as.foldl (fun (t : State) e =>
      let l := e.2 - first
      let n := e.1 % 8192
      let t1 := t.updShf f (fun U => { U with late := SMap.set U.late 0 n (max (SMap.get U.late 0 n) (min l 0xFFFFFFFF)) })
      t1.fcount f Reg.SHF_LATE_HIST.BUCKET 1 0 (lateBucket l)) s
    let b := lateBucket (c.tIssue - first)
    s1.updShf f (fun U => { U with own := SMap.set U.own 0 b (SMap.get U.own 0 b + 1) })

/-- The arrivals of a collective that ends are recorded. -/
def State.lateRecord (s : State) (f : FieldId) (c : ShfColl) : State :=
  (List.range 5).foldl (fun t st => t.lateStage f c st) s

/-! ### Completion (R454, R462) -/

/-- The state event of a slot (R469). -/
def State.shfEvent (s : State) (f : FieldId) (k group epoch st result : Nat) : State :=
  s.raise f Ev.SHF_GROUP_STATE [(1, k), (2, group), (2, epoch), (1, st), (2, result)]

/-- The completion record, the doorbell and the event of a collective (R454). -/
def State.shfRecord (s : State) (f : FieldId) (k : Nat) (desc : List Byte) (seq status tIssue cls : Nat) (named : List Nat) : State :=
  let first := named.headD 0xFFFF
  let n := min named.length 0xFFFF
  let rcd := leBytes 4 seq ++ leBytes 2 status ++ (desc.drop 38).take 2 ++ leBytes 8 tIssue ++ leBytes 8 (s.tallyOf f) ++
    leBytes 2 n ++ leBytes 2 first ++ leBytes 1 (cls % 64) ++ leBytes 3 0
  let a := byteField desc 48 8
  let s1 := if a + 32 ≤ hbmTop then (s.hbmWrite f a rcd false srcSheaf).1 else s
  let fl := byteField desc 57 1
  let s2 := if bit fl 0 then s1.doorbellRing f (byteField desc 60 4) (byteField desc 56 1) (bits fl 1 2) else s1
  let s3 := s2.fset f Reg.SHF_GROUP_STATUS.DONE_SEQ seq k
  if status = St.OK then s3.fwrap f Reg.SHF_STAT.DONE
  else (s3.fcount f Reg.SHF_STAT.FAILED).raise f Ev.SHF_COLLECTIVE_FAILED [(1, k), (4, seq), (2, status), (2, n), (2, first)]

/-- ABORT to every member of the handshake set. -/
def State.shfFlood (s : State) (f : FieldId) (x : ShfSlot) (seq status : Nat) (named : List Nat) : State :=
  let names := named.take 64
  x.hset.foldl (fun t d => t.shfSend f x seq d skAbort 0 0 0 (status + names.length * 2 ^ 16) (names.flatMap (leBytes 2))) s

/-- The slot becomes HALTED. -/
def State.shfHaltSlot (s : State) (f : FieldId) (k : Nat) (result : Nat) : State :=
  match s.shfSlot f k with
  | none => s
  | some x =>
    if x.halted then s
    else ((s.updSlotShf f k (fun y => { y with halted := true })).fset f Reg.SHF_GROUP_STATUS.STATE 2 k).shfEvent f k
      x.group x.epoch 2 result

/-- The collective in progress of a slot fails (R462, R463). -/
def State.shfFail (s : State) (f : FieldId) (k status : Nat) (named : List Nat) (flood : Bool) : State :=
  match s.shfSlot f k with
  | none => s
  | some x =>
    match x.coll with
    | none => s
    | some c =>
      let ns := (List.range 8192).filter (fun n => named.contains n)
      let s1 := (s.updSlotShf f k (fun y => { y with coll := none })).lateRecord f c
      let s2 := s1.shfRecord f k c.desc c.seq status c.tIssue c.cls ns
      let s3 := s2.updShf f (fun U => { U with named := (k, status, c.seq, ns.length, ns.take 64) })
      let s4 := if flood && !c.silent then s3.shfFlood f x c.seq status ns else s3
      if status = St.ABORTED_EPOCH then s4 else s4.shfHaltSlot f k (s4.freg f Reg.SHF_GROUP_STATUS.RESULT k)

/-- The collective completes with OK once its output is written and its parts are receipted (R459). DESIGN CHOICE (log entry
39): with NONSAT and an OUT_TYPE that has no infinity, where R67 names MODE_NOT_APPLICABLE for an operation and R459 names OK,
the status is OK. -/
def State.shfFinish (s : State) (f : FieldId) (k : Nat) : State :=
  match (s.shfSlot f k).bind ShfSlot.coll with
  | none => s
  | some c =>
    if c.matched = true ∧ c.written = c.count ∧ c.out = [] then
      ((s.updSlotShf f k (fun y => { y with coll := none })).lateRecord f c).shfRecord f k c.desc c.seq St.OK c.tIssue c.cls []
    else s

end Sys2Proof.Machine
end

