-- ==== Sys2Proof/Machine/Sheaf.lean ====
section
/-! DEFINITION. The sheaf engine's commands (R445 to R474) and the allotment halt (R378, R416). -/

namespace Sys2Proof.Machine

open Sys2Proof

/-! ### Groups (R446 to R448, R465) -/

/-- The nodes of a member map's 1,024 bytes, in rising order. -/
def mapMembers (b : List Byte) : List Nat :=
  let v := leNat (b.take 1024)
  (List.range 8192).filter (bit v)

/-- Whether n bytes at an address lie in HBM. -/
def inHbm (a n : Nat) : Bool := decide (a + n ≤ hbmTop)

/-- The slot a registration descriptor describes, or none where it breaks R447 beyond NO_SLOT. -/
def State.shfCheck (s : State) (f : FieldId) (k addr : Nat) : State × Option ShfSlot :=
  if !inHbm addr 64 then (s, none)
  else
    let (s1, d, _) := s.hbmRead f addr 64 srcSheaf
    let map := byteField d 8 8
    if !inHbm map 1024 then (s1, none)
    else
      let (s2, m, _) := s1.hbmRead f map 1024 srcSheaf
      let g := mapMembers m
      let me := s.node f
      let h := handshakeSet g me
      let group := byteField d 0 2
      let credits := byteField d 4 2
      let rl := byteField d 6 1
      let ring := byteField d 16 8
      let tail := byteField d 24 8
      let scr := byteField d 32 8
      let scrN := byteField d 40 8
      let need := 41472 * credits * (h.length + 3)
      let ok := decide (group ≠ 0) && decide (group ≠ 0xFFFF) && decide (4 ≤ credits) && decide (credits ≤ 256) &&
        decide (4 ≤ rl) && decide (rl ≤ 12) && decide (byteField d 7 1 = 0) && decide (byteField d 52 12 = 0) &&
        decide (map % 128 = 0) && decide (ring % 64 = 0) && decide (tail % 128 = 0) && decide (scr % 4096 = 0) &&
        decide (byteField d 48 4 ≠ 0) && inHbm ring (2 ^ rl * 64) && inHbm tail 128 && inHbm scr scrN &&
        !(s.shf f).slots.any (fun e => decide (e.1 ≠ k) && decide (e.2.group = group)) && g.contains me &&
        g.all (fun x => decide (nodeCoord x 1 < s.axisSize f 1) && decide (nodeCoord x 2 < s.axisSize f 2) &&
          decide (nodeCoord x 3 < s.axisSize f 3)) && decide (need ≤ scrN)
      let x : ShfSlot :=
        { group := group, epoch := byteField d 2 2, credits := credits, ringLog := rl, ring := ring, tailAddr := tail,
          scratch := scr, scratchReq := need, timeout := byteField d 48 4, members := g, hset := h, mapDigest := crc64 m,
          halted := false, tail := 0, next := 0, early := [], aborts := [], coll := none }
      if ok then (s2, some x)
      else (s2, none)

/-- TAIL is read (R450). -/
def State.shfReadTail (s : State) (f : FieldId) (k : Nat) : State :=
  match s.shfSlot f k with
  | none => s
  | some x =>
    let (s1, b, _) := s.hbmRead f x.tailAddr 8 srcSheaf
    s1.updSlotShf f k (fun y => { y with tail := leNat b })

/-- A slot's status registers. -/
def State.shfStatus (s : State) (f : FieldId) (k st group epoch next done members hset req : Nat) : State :=
  (((((((s.fset f Reg.SHF_GROUP_STATUS.STATE st k).fset f Reg.SHF_GROUP_STATUS.GROUP_ID group k).fset f
    Reg.SHF_GROUP_STATUS.EPOCH epoch k).fset f Reg.SHF_GROUP_STATUS.NEXT_SEQ next k).fset f
    Reg.SHF_GROUP_STATUS.DONE_SEQ done k).fset f Reg.SHF_GROUP_STATUS.MEMBERS members k).fset f
    Reg.SHF_GROUP_STATUS.HSET hset k).fset f Reg.SHF_GROUP_STATUS.SCRATCH_REQ req k

/-- A slot is registered and ACTIVE. -/
def State.shfInstall (s : State) (f : FieldId) (k : Nat) (x : ShfSlot) : State :=
  let s1 := s.updShf f (fun U => { U with slots := SMap.insert U.slots k x })
  let s2 := s1.shfStatus f k 1 x.group x.epoch 0 0xFFFFFFFF x.members.length x.hset.length x.scratchReq
  ((s2.fset f Reg.SHF_GROUP_STATUS.RESULT St.OK k).shfReadTail f k).shfEvent f k x.group x.epoch 1 St.OK

/-- A command on a slot is refused. -/
def State.shfRefuse (s : State) (f : FieldId) (k status : Nat) : State :=
  (s.fset f Reg.SHF_GROUP_STATUS.RESULT status k).shfEvent f k (s.freg f Reg.SHF_GROUP_STATUS.GROUP_ID k)
    (s.freg f Reg.SHF_GROUP_STATUS.EPOCH k) (s.freg f Reg.SHF_GROUP_STATUS.STATE k) status

/-- REGISTER written: the registration is under way. -/
def State.shfRegister (s : State) (f : FieldId) (k addr : Nat) : State :=
  s.updShf f (fun U => { U with regs := U.regs ++ [(k, addr)] })

/-- REGISTER (R447). -/
def execRegister (f : FieldId) (slot : Fin 64) (addr : Nat) (s : State) : Result := s.inRim f <| .next (s.shfRegister f slot addr)

/-- REGISTRATION_COMPLETE (R447): the oldest registration under way of a slot. -/
def execRegistrationComplete (f : FieldId) (slot : Fin 64) (s : State) : Result := s.inRim f <|
  match (s.shf f).regs.find? (fun e => decide (e.1 = slot.val)) with
  | none => .next s
  | some e =>
    let s1 := s.updShf f (fun U => { U with regs := U.regs.erase e })
    if (s.shfSlot f slot).isSome then finish (s1.shfRefuse f slot St.NO_SLOT)
    else
      match s1.shfCheck f slot e.2 with
      | (s2, none) => finish (s2.shfRefuse f slot St.GROUP_INVALID)
      | (s2, some x) => finish (s2.shfInstall f slot x)

/-- REFORM (R465). -/
def State.shfReform (s : State) (f : FieldId) (k addr : Nat) : State :=
  match s.shfSlot f k with
  | none => s.shfRefuse f k St.GROUP_INVALID
  | some y =>
    match s.shfCheck f k addr with
    | (s1, none) => s1.shfRefuse f k St.GROUP_INVALID
    | (s1, some x) =>
      if x.group ≠ y.group ∨ x.epoch = y.epoch then s1.shfRefuse f k St.GROUP_INVALID
      else (s1.shfFail f k St.ABORTED_EPOCH [] true).shfInstall f k x

/-- REFORM (R465). -/
def execReform (f : FieldId) (slot : Fin 64) (addr : Nat) (s : State) : Result := s.inRim f <| finish (s.shfReform f slot addr)

/-- RELEASE (R448). -/
def State.shfRelease (s : State) (f : FieldId) (k : Nat) : State :=
  let group := s.freg f Reg.SHF_GROUP_STATUS.GROUP_ID k
  let epoch := s.freg f Reg.SHF_GROUP_STATUS.EPOCH k
  let s1 := (s.shfFail f k St.ABORTED_EPOCH [] true).updShf f (fun U => { U with slots := SMap.erase U.slots k })
  ((s1.shfStatus f k 0 0 0 0 0xFFFFFFFF 0 0 0).fset f Reg.SHF_GROUP_STATUS.RESULT St.OK k).shfEvent f k group epoch 0 St.OK

/-- RELEASE (R448). -/
def execRelease (f : FieldId) (slot : Fin 64) (s : State) : Result := s.inRim f <| finish (s.shfRelease f slot)

/-- TAIL_WRITE (R450). -/
def execTailWrite (f : FieldId) (slot : Fin 64) (s : State) : Result := s.inRim f <| finish (s.shfReadTail f slot)

/-! ### Start and handshake (R450 to R455) -/

/-- Whether a descriptor breaks R451 or R453. -/
def collectiveInvalid (d : List Byte) : Bool :=
  let b := fun (o n : Nat) => byteField d o n
  let inT := b 1 1
  let outT := b 2 1
  let n := b 8 8
  let src := b 16 8
  let dst := b 24 8
  let isz := shfSize inT
  let osz := shfSize outT
  !(decide (b 0 1 = 1) && decide (inT ∈ [0, 1, 2, 3, 4, 0x0C]) && (decide (outT = inT) || decide (outT = 0)) &&
    decide (b 3 1 < 8) && (decide (outT = 0x0C) || decide (bits (b 3 1) 0 2 ≠ 3)) && decide (b 57 1 < 8) &&
    decide (b 58 2 = 0) && decide (n ≤ 2 ^ 36) && (decide (n = 0) || (inHbm src (n * isz) && inHbm dst (n * osz))) &&
    decide (src % isz = 0) && decide (dst % osz = 0) &&
    (decide (n = 0) || decide (src + n * isz ≤ dst) || decide (dst + n * osz ≤ src) || (decide (dst = src) && decide (outT = inT))))

/-- The refusal of a collective, or OK (R453). -/
def State.shfRefusal (s : State) (f : FieldId) (x : ShfSlot) (d : List Byte) : Nat :=
  if x.halted then St.GROUP_HALTED
  else if collectiveInvalid d then St.COLLECTIVE_INVALID
  else if s.halted f then St.ALLOT_HALTED
  else if s.svc f = svcPartitionReset then St.MEMBER_RESET
  else St.OK

/-- The descriptor digest (R455). -/
def shfDigest (x : ShfSlot) (d : List Byte) (seq seed step : Nat) : Nat :=
  crc64 (leBytes 2 x.group ++ leBytes 2 x.epoch ++ leBytes 4 seq ++ (d.drop 8).take 8 ++ d.take 4 ++ (d.drop 4).take 4 ++
    (d.drop 32).take 6 ++ leBytes 2 x.credits ++ leBytes 8 x.mapDigest ++ leBytes 8 seed ++ leBytes 4 step ++ leBytes 4 0)

/-- The majority digest: the commonest, the smaller on a tie (R455). -/
def majority (ds : List Nat) : Nat :=
  let n := fun (d : Nat) => ds.count d
  (ds.foldl (fun (b : Option Nat) d =>
    match b with
    | none => some d
    | some y => if n y < n d ∨ (n y = n d ∧ d < y) then some d else b) none).getD 0

/-- Digests differed: the odd members are named (R455). -/
def State.shfMismatch (s : State) (f : FieldId) (k : Nat) (c : ShfColl) : State :=
  let all := (s.node f, c.digest) :: c.digests
  let m := majority (all.map Prod.snd)
  s.shfFail f k St.DESCRIPTOR_MISMATCH ((all.filter (fun e => e.2 ≠ m)).map Prod.fst) true

/-- Once every member of H(m) has answered the handshake is decided. -/
def State.shfDecide (s : State) (f : FieldId) (k : Nat) : State :=
  match s.shfSlot f k with
  | none => s
  | some x =>
    match x.coll with
    | none => s
    | some c =>
      if c.matched || !x.hset.all (fun n => c.digests.any (fun e => decide (e.1 = n))) then s
      else if c.digests.all (fun e => decide (e.2 = c.digest)) then
        (s.updColl f k (fun c => { c with matched := true })).shfFinish f k
      else s.shfMismatch f k c

/-- A digest of the collective in progress is taken in. -/
def ShfColl.takeDigest (c : ShfColl) (node digest t : Nat) : ShfColl :=
  if c.digests.any (fun e => decide (e.1 = node)) then c
  else { c with
    digests := c.digests ++ [(node, digest)], last := SMap.insert c.last (node % 8192) t,
    arrs := SMap.insert c.arrs (4 * 8192 + node % 8192) t }

/-- The ready line is read (R452). -/
def State.shfReadReady (s : State) (f : FieldId) (k : Nat) : State :=
  match (s.shfSlot f k).bind ShfSlot.coll with
  | none => s
  | some c =>
    let a := c.fld 40 8
    if a = 0 ∨ inHbm a 8 = false then s
    else
      let (s1, b, _) := s.hbmRead f a 8 srcSheaf
      s1.updColl f k (fun c => { c with ready := leNat b })

/-- A collective that is not refused starts: digests that came early are taken in; kept ABORTs are applied, the first one's
status with the merged named lists (R462); else DIGESTs go out. -/
def State.shfStart (s : State) (f : FieldId) (k : Nat) (x : ShfSlot) (d : List Byte) (seq : Nat) : State :=
  let sr := decide (bits (byteField d 3 1) 0 2 = rmSR)
  let seed := if sr then s.freg f Reg.FLD_SR_SEED.SEED else 0
  let step := if sr then s.freg f Reg.FLD_SR_STEP.STEP else 0
  let hitS := s.injArmedAt f injShf 2 k
  let s0 := if hitS then s.injFire f injShf else s
  let hitD := s0.injArmedAt f injShf 1 k && !hitS
  let mask := if hitD then s0.injArg f injShf else 0
  let s1 := if hitD then s0.injFire f injShf else s0
  let c0 : ShfColl :=
    { seq := seq, desc := d, seed := seed, step := step, digest := shfDigest x d seq seed step, tIssue := s.tallyOf f,
      ready := 0, matched := false, silent := hitS, digests := [], last := [], arrs := [], ptr := [], spent := [], pieces := [],
      results := [], folded := [], out := [], got := [], written := 0, cls := 0 }
  let c := (x.early.filter (fun e => decide (e.1 = seq))).foldl (fun c e => c.takeDigest e.2.1 e.2.2.1 e.2.2.2) c0
  let s2 := s1.updSlotShf f k (fun y => { y with
    coll := some c, early := y.early.filter (fun e => decide (e.1 ≠ seq)), aborts := y.aborts.filter (fun e => decide (e.1 ≠ seq)) })
  let kept := x.aborts.filter (fun e => decide (e.1 = seq))
  match kept with
  | (_, status, _) :: _ => s2.shfFail f k status (kept.flatMap (fun e => e.2.2)) true
  | [] =>
    let s3 := if hitS then s2 else
      x.hset.foldl (fun t n => t.shfSend f x seq n skDigest 0 0 0 (c.digest ^^^ mask) []) s2
    (s3.shfReadReady f k).shfDecide f k

/-- COLLECTIVE_START (R450, R453, R455): the next descriptor of a slot is read. -/
def execCollectiveStart (f : FieldId) (slot : Fin 64) (s : State) : Result := s.inRim f <|
  match s.shfSlot f slot with
  | none => .next s
  | some x =>
    if x.coll.isSome ∨ x.tail ≤ x.next ∨ (s.shf f).stopped = true then .next s
    else
      let (s1, d, _) := s.hbmRead f (x.ring + x.next % 2 ^ x.ringLog * 64) 64 srcSheaf
      let seq := x.next % 2 ^ 32
      let s2 := (s1.updSlotShf f slot (fun y => { y with next := y.next + 1 })).fset f Reg.SHF_GROUP_STATUS.NEXT_SEQ
        ((x.next + 1) % 2 ^ 32) slot
      let st := s.shfRefusal f x d
      if st ≠ St.OK then finish (s2.shfRecord f slot d seq st (s.tallyOf f) 0 [])
      else finish (s2.shfStart f slot x d seq)

/-- READY_LINE_WRITE (R452). -/
def execReadyLineWrite (f : FieldId) (slot : Fin 64) (s : State) : Result := s.inRim f <| finish (s.shfReadReady f slot)

/-! ### Arrival of sheaf packets (R467) -/

/-- Whether a sheaf packet's reserved bytes are 0. -/
def shfWellFormed (p : Packet) : Bool :=
  let kind := pktField p 24 1
  decide (pktField p 40 8 = 0) && decide (pktField p 25 1 < 4) && decide (32 ≤ p.body.length) &&
    (match kind with
     | 1 => true
     | 2 => decide (pktField p 32 6 = 0) &&
         (decide (pktField p 38 1 = 0) || (decide (pktField p 25 1 = 0) && decide (pktField p 38 1 = clsBit clsNaNIn)))
     | 3 => decide (pktField p 32 6 = 0)
     | 6 => decide (pktField p 36 4 = 0)
     | _ => decide (pktField p 32 8 = 0))

/-- A sheaf packet of a kind reaches the engine: the state without it, and the slot it is for. One of reserved KIND is
discarded and counted, whichever kind was looked for. -/
def State.shfArrival (s : State) (f : FieldId) (kind : Nat) (p : Packet) : State × Option (Nat × ShfSlot) :=
  if p.cls ≠ 1 ∨ (pktField p 24 1 ≠ kind ∧ shfKnown p = true) ∨ p.dst ≠ s.node f ∨ (s.shf f).stopped = true then (s, none)
  else
    let waiting := (s.field f).router.inbox.contains p
    let s1 := if waiting then s.updRouter f (fun R => { R with inbox := R.inbox.erase p }) else s
    if !waiting && !s.deliverOk f p then (s.dropForeign f p, none)
    else if s.halted f && decide (p.allot = s.allot f) then (s1, none)
    else if !shfKnown p || !shfWellFormed p then (s1.fcount f Reg.SHF_STAT.PROTO_ERR, none)
    else
      match (s.shf f).slots.find? (fun e => decide (e.2.group = pktField p 16 2)) with
      | none => (s1.fcount f Reg.SHF_STAT.PROTO_ERR, none)
      | some e => (s1, some e)

/-- A packet of another epoch or SEQ is discarded. -/
def State.shfStale (s : State) (f : FieldId) : State := s.fcount f Reg.SHF_STAT.STALE
def State.shfProto (s : State) (f : FieldId) : State := s.fcount f Reg.SHF_STAT.PROTO_ERR

/-- The collective in progress that a packet belongs to. -/
def ShfSlot.collOf (x : ShfSlot) (p : Packet) : Option ShfColl :=
  if pktField p 18 2 = x.epoch then x.coll.filter (fun c => decide (c.seq = pktField p 20 4)) else none

/-- Whether a packet's SEQ is one this member has not yet reached. -/
def ShfSlot.ahead (x : ShfSlot) (p : Packet) : Bool :=
  decide (pktField p 18 2 = x.epoch) && !seqBefore (pktField p 20 4) (x.next % 2 ^ 32)

/-- An arrival from a member. -/
def State.shfTouch (s : State) (f : FieldId) (k src : Nat) : State :=
  let t := s.tallyOf f
  s.updColl f k (fun c => { c with last := SMap.insert c.last (src % 8192) t })

/-- DIGEST (R455, R465). One of a collective not yet started is kept until it is. -/
def execDigest (f : FieldId) (pkt : Packet) (s : State) : Result := s.inRim f <|
  match s.shfArrival f skDigest pkt with
  | (s1, none) => finish s1
  | (s1, some (k, x)) =>
    let ep := pktField pkt 18 2
    let d := (ep + 0x10000 - x.epoch) % 0x10000
    if ep ≠ x.epoch then
      if d < 0x8000 ∧ x.coll.isSome = true then finish ((s1.shfFail f k St.ABORTED_EPOCH [] true).shfStale f)
      else finish (s1.shfStale f)
    else
      match x.collOf pkt with
      | some _ =>
        if x.hset.contains pkt.src then
          finish ((s1.updColl f k (fun c => c.takeDigest pkt.src (pktField pkt 32 8) (s.tallyOf f))).shfDecide f k)
        else finish (s1.shfStale f)
      | none =>
        if x.ahead pkt && x.hset.contains pkt.src then
          finish (s1.updSlotShf f k (fun y => { y with
            early := y.early ++ [(pktField pkt 20 4, pkt.src, pktField pkt 32 8, s.tallyOf f)] }))
        else finish (s1.shfStale f)

/-! ### Pieces (R457, R458, R461) -/

/-- Whether input chunk k may be read (R452). -/
def ShfColl.chunkReady (c : ShfColl) (k : Nat) : Bool :=
  decide (c.fld 40 8 = 0) || decide (min (chunkElems * (k + 1)) c.count ≤ c.ready)

/-- The bytes of input chunk k, an element of a poisoned line as NaN, and which elements those are. An INT32 element has no
NaN: its bytes are 0 and the second list tells of it (R239, R459). -/
def State.shfInput (s : State) (f : FieldId) (c : ShfColl) (k : Nat) : State × List Byte × List Bool :=
  let sz := shfSize c.inType
  let lo := c.src + chunkElems * k * sz
  let hi := lo + chunkSize c.count k * sz
  (List.range ((hi + 127) / 128 - lo / 128)).foldl (fun (acc : State × List Byte × List Bool) i =>
    let (t, b, bad) := acc
    let l := lo / 128 + i
    let (t1, x) := t.lineRead f l srcSheaf
    let a := max lo (l * 128)
    let n := (min hi (l * 128 + 128) - a) / sz
    if x.poisonLo || x.poisonHi then
      let nan := if c.inType = 0x0C then leBytes 4 0 else leBytes sz (canonicalNaN (redFmt c.inType))
      (t1, b ++ (List.replicate n nan).flatten, bad ++ List.replicate n true)
    else (t1, b ++ (x.data.drop (a - l * 128)).take (n * sz), bad ++ List.replicate n false)) (s, [], [])

/-- Accumulators of input chunk k: its elements as terms, those of a poisoned line as NaN (R239, R457). -/
def ShfColl.inputAccs (c : ShfColl) (b : List Byte) (bad : List Bool) : List LongAcc :=
  addElems (List.replicate chunkElems LongAcc.zero)
    (List.zipWith (fun v (q : Bool) => if q then Val.nan else v) (shfTerms c.inType b) bad)

/-- A new part goes out and awaits its receipt; the point PIECE_DROP loses it once. -/
def State.shfOut (s : State) (f : FieldId) (k : Nat) (x : ShfSlot) (seq : Nat) (o : ShfOut) : State :=
  let hit := s.injArmedAt f injShf 3 k
  let s1 := (if hit then s.injFire f injShf else s).updColl f k (fun c => { c with out := c.out ++ [o] })
  if hit then s1 else s1.sendPart f x seq o

/-- The next chunk of a stage that m sends, from a chunk on, whichever member it goes to: a stage's pieces go in ascending chunk
order (R461). -/
def nextToSend (g : List Nat) (me stage start chunks : Nat) : Option Nat :=
  ((List.range g.length).map (fun i => start + i)).find? (fun k => decide (k < chunks) && (shfTarget g stage k me).isSome)

/-- The compact blocks of a chunk's accumulators (R458). -/
def compactChunk (accs : List LongAcc) (blocks : Nat) : List (List Byte) :=
  (List.range blocks).map (fun b => compactBlock ((accs.drop (32 * b)).take 32))

/-- A piece is sent (R461). DESIGN CHOICE (log entry 41): a stage-0 piece carries input elements as stored (R458), and no
INT32 says NaN, as a poisoned element is (R239, R459). A piece of INT32 with poisoned elements therefore goes in compact
blocks, which can, and its CLASS byte holds NAN_IN to say so. -/
def State.pieceSend (s : State) (f : FieldId) (k stage dst : Nat) (x : ShfSlot) (c : ShfColl) (chunk : Nat) : State :=
  let blocks := chunkBlocks c.count chunk
  let data : Option (State × List (List Byte) × Nat) :=
    if stage = 0 then
      if c.chunkReady chunk then
        let (s1, b, bad) := s.shfInput f c chunk
        if c.inType = 0x0C ∧ bad.contains true then some (s1, compactChunk (c.inputAccs b bad) blocks, clsBit clsNaNIn)
        else some (s1, cutBlocks (32 * shfSize c.inType) b, 0)
      else none
    else
      (c.results.find? (fun r => decide (r.stage + 1 = stage) && decide (r.chunk = chunk))).map (fun r =>
        (s, compactChunk r.accs blocks, 0))
  match data with
  | none => s
  | some (s1, bs, cls) =>
    let s2 := s1.updColl f k (fun c => { c with
      ptr := SMap.insert c.ptr stage (chunk + 1), spent := SMap.insert c.spent (dst % 8192) (SMap.get c.spent 0 (dst % 8192) + 1),
      results := c.results.filter (fun r => stage = 0 || decide (r.stage + 1 ≠ stage) || decide (r.chunk ≠ chunk)) })
    (packParts bs).foldl (fun t (a, n, b) => t.shfOut f k x c.seq
      { dst := dst, kind := skPiece, stage := stage, chunk := chunk, part := a, cls := cls, blocks := n, payload := b, tries := 0 }) s2

/-- PIECE_SEND (R461): the next piece of a stage, where it goes to the member named. -/
def execPieceSend (f : FieldId) (slot : Fin 64) (stage : Fin 4) (dst : Nat) (s : State) : Result := s.inRim f <|
  match s.shfSlot f slot with
  | none => .next s
  | some x =>
    match x.coll with
    | none => .next s
    | some c =>
      if !c.matched || c.silent || (s.shf f).stopped || decide (x.credits ≤ SMap.get c.spent 0 (dst % 8192)) then .next s
      else
        match nextToSend x.members (s.node f) stage (SMap.get c.ptr 0 stage) (chunkCount c.count) with
        | none => .next s
        | some chunk =>
          if shfTarget x.members stage chunk (s.node f) = some dst then finish (s.pieceSend f slot stage dst x c chunk) else .next s

/-- RECEIPT of a part. -/
def State.shfReceipt (s : State) (f : FieldId) (x : ShfSlot) (p : Packet) : State :=
  s.shfSend f x (pktField p 20 4) p.src skReceipt (pktField p 25 1) (pktField p 26 2) (pktField p 28 4) 0 []

/-- The receipt of a part of a collective in progress, which the point SILENT suppresses. -/
def State.collReceipt (s : State) (f : FieldId) (x : ShfSlot) (c : ShfColl) (p : Packet) : State :=
  if c.silent then s else s.shfReceipt f x p

/-- A part that belongs to no collective in progress is counted in STALE (R467); one of a completed SEQ is receipted again
(R461). -/
def State.partAstray (s : State) (f : FieldId) (x : ShfSlot) (p : Packet) : State :=
  let s1 := s.shfStale f
  if pktField p 18 2 = x.epoch ∧ seqBefore (pktField p 20 4) (x.next % 2 ^ 32) = true then s1.shfReceipt f x p else s1

/-- Whether a piece part's payload is well formed; only one of an INT32 input may carry a CLASS (log entry 41). -/
def pieceOk (c : ShfColl) (p : Packet) : Bool :=
  let stage := pktField p 25 1
  let part := pktField p 26 2
  let chunk := pktField p 28 4
  let n := pktField p 39 1
  let b := p.body.drop 32
  decide (0 < n) && decide (part + n ≤ chunkBlocks c.count chunk) &&
    (decide (c.inType = 0x0C) || decide (pktField p 38 1 = 0)) &&
    (if stage = 0 ∧ pktField p 38 1 = 0 then decide (b.length = min (32 * n) (chunkSize c.count chunk - 32 * part) * shfSize c.inType)
     else (readBlocks n b).isSome)

/-- PIECE (R457, R461). -/
def execPiece (f : FieldId) (pkt : Packet) (s : State) : Result := s.inRim f <|
  match s.shfArrival f skPiece pkt with
  | (s1, none) => finish s1
  | (s1, some (k, x)) =>
    match x.collOf pkt with
    | none => finish (s1.partAstray f x pkt)
    | some c =>
      let stage := pktField pkt 25 1
      let part := pktField pkt 26 2
      let chunk := pktField pkt 28 4
      let b := pkt.body.drop 32
      if !(shfSenders x.members stage chunk (s.node f)).contains pkt.src || !pieceOk c pkt then finish (s1.shfProto f)
      else
        let s2 := s1.shfTouch f k pkt.src
        let mine := fun (q : ShfPiece) => decide (q.src = pkt.src) && decide (q.stage = stage) && decide (q.chunk = chunk)
        let held := SMap.get c.folded false (chunk * 4 + stage) ||
          c.pieces.any (fun q => mine q && q.parts.any (fun e => decide (e.1 = part)))
        if held then finish (s2.collReceipt f x c pkt)
        else
          let e := (part, pktField pkt 39 1, decide (stage ≠ 0) || decide (pktField pkt 38 1 ≠ 0), b)
          let t := s.tallyOf f
          let s3 := s2.updColl f k (fun c => { c with
            arrs := SMap.insert c.arrs (stage * 8192 + pkt.src % 8192) t,
            pieces := if c.pieces.any mine then c.pieces.map (fun q => if mine q then { q with parts := q.parts ++ [e] } else q)
              else c.pieces ++ [⟨pkt.src, stage, chunk, [e]⟩] })
          finish ((s3.scratchWrite f x b).collReceipt f x c pkt)

/-! ### Folding and gathering (R457, R459) -/

/-- Whether all the blocks of a piece are in scratch. -/
def ShfColl.pieceFull (c : ShfColl) (stage chunk src : Nat) : Bool :=
  match c.pieces.find? (fun q => decide (q.src = src) && decide (q.stage = stage) && decide (q.chunk = chunk)) with
  | none => false
  | some q => decide ((q.parts.map (fun e => e.2.1)).foldl (· + ·) 0 = chunkBlocks c.count chunk)

/-- A piece folded into accumulators. -/
def foldPiece (typ : Nat) (accs : List LongAcc) (q : ShfPiece) : List LongAcc :=
  q.parts.foldl (fun as (a, n, compact, b) =>
    let lo := as.take (32 * a)
    let mid := as.drop (32 * a)
    lo ++ (if compact then mergeElems mid ((readBlocks n b).getD []) else addElems mid (shfTerms typ b))) accs

/-- Gather parts go to the other participants of the stages below a stage of which this member is the carrier. -/
def State.gatherDown (s : State) (f : FieldId) (k : Nat) (x : ShfSlot) (seq below chunk part n cls : Nat) (b : List Byte) : State :=
  let me := s.node f
  ((List.range below).reverse.filter (fun t => decide (shfCarrier x.members t chunk me = me))).foldl (fun u t =>
    (shfSenders x.members t chunk me).foldl (fun v d => v.shfOut f k x seq
      { dst := d, kind := skGather, stage := t, chunk := chunk, part := part, cls := cls, blocks := n, payload := b, tries := 0 }) u) s

/-- Output bytes of a chunk are written at DST. -/
def State.shfWrite (s : State) (f : FieldId) (k : Nat) (c : ShfColl) (chunk part : Nat) (b : List Byte) (cls : Nat) : State :=
  let sz := shfSize c.outType
  let s1 := (s.hbmWrite f (c.dst + (chunkElems * chunk + 32 * part) * sz) b false srcSheaf).1
  s1.updColl f k (fun c => { c with written := c.written + b.length / sz, cls := c.cls ||| cls })

/-- The owner rounds a chunk and sends its gather parts (R459). -/
def State.ownerRound (s : State) (f : FieldId) (k : Nat) (x : ShfSlot) (c : ShfColl) (chunk : Nat) (accs : List LongAcc) : State :=
  let n := chunkSize c.count chunk
  let sz := shfSize c.outType
  let r := ((accs.take n).zipIdx).map (fun (a, i) => c.roundElem (chunkElems * chunk + i) a)
  let bytes := r.flatMap (fun e => leBytes sz e.1)
  let cls := fun (lo m : Nat) => ((r.drop lo).take m).foldl (fun b e => b ||| clsBit e.2) 0
  let s1 := s.shfWrite f k c chunk 0 bytes (cls 0 n)
  (packParts (cutBlocks (32 * sz) bytes)).foldl (fun t (a, m, b) =>
    t.gatherDown f k x c.seq 4 chunk a m (cls (32 * a) (32 * m)) b) s1

/-- A chunk-stage is folded. -/
def State.chunkFold (s : State) (f : FieldId) (k stage chunk : Nat) (x : ShfSlot) (c : ShfColl) (senders : List Nat)
    (own : Option ShfResult) : State :=
  let zero := List.replicate chunkElems LongAcc.zero
  let (s1, base) :=
    match own with
    | some r => (s, mergeElems zero r.accs)
    | none =>
      let (t, b, bad) := s.shfInput f c chunk
      (t, c.inputAccs b bad)
  let qs := c.pieces.filter (fun (q : ShfPiece) => decide (q.stage = stage) && decide (q.chunk = chunk))
  let accs := qs.foldl (foldPiece c.inType) base
  let s2 := s1.updColl f k (fun c => { c with
    folded := SMap.insert c.folded (chunk * 4 + stage) true,
    pieces := c.pieces.filter (fun q => decide (q.stage ≠ stage) || decide (q.chunk ≠ chunk)),
    results := c.results.filter (fun r => decide (r.stage + 1 ≠ stage) || decide (r.chunk ≠ chunk)) })
  let s3 := s2.fwrap f Reg.SHF_STAT.FOLDED (chunkSize c.count chunk * (senders.length + 1))
  let s4 := if c.silent then s3 else senders.foldl (fun t d => t.shfSend f x c.seq d skCredit stage 0 chunk 0 []) s3
  if stage = 3 then (s4.ownerRound f k x c chunk accs).shfFinish f k
  else
    let blocks := (compactChunk accs (chunkBlocks c.count chunk)).flatten
    (s4.updColl f k (fun c => { c with results := c.results ++ [ShfResult.mk stage chunk accs] })).scratchWrite f x blocks

/-- CHUNK_FOLD (R457, R459, R461). -/
def execChunkFold (f : FieldId) (slot : Fin 64) (stage : Fin 4) (chunk : Nat) (s : State) : Result := s.inRim f <|
  match s.shfSlot f slot with
  | none => .next s
  | some x =>
    match x.coll with
    | none => .next s
    | some c =>
      let me := s.node f
      let senders := shfSenders x.members stage chunk me
      let own := c.results.find? (fun r => decide (r.stage + 1 = stage.val) && decide (r.chunk = chunk))
      if c.matched && !(s.shf f).stopped && decide (chunk < chunkCount c.count) &&
          decide (shfCarrier x.members stage chunk me = me) && !SMap.get c.folded false (chunk * 4 + stage) &&
          senders.all (c.pieceFull stage chunk) && (if stage.val = 0 then c.chunkReady chunk else own.isSome) then
        finish (s.chunkFold f slot stage chunk x c senders own)
      else .next s

/-- GATHER (R457, R459). -/
def execGather (f : FieldId) (pkt : Packet) (s : State) : Result := s.inRim f <|
  match s.shfArrival f skGather pkt with
  | (s1, none) => finish s1
  | (s1, some (k, x)) =>
    match x.collOf pkt with
    | none => finish (s1.partAstray f x pkt)
    | some c =>
      let stage := pktField pkt 25 1
      let part := pktField pkt 26 2
      let chunk := pktField pkt 28 4
      let n := pktField pkt 39 1
      let b := pkt.body.drop 32
      let size := min (32 * n) (chunkSize c.count chunk - 32 * part) * shfSize c.outType
      if shfTarget x.members stage chunk (s.node f) ≠ some pkt.src ∨ n = 0 ∨ chunkBlocks c.count chunk < part + n ∨ b.length ≠ size then
        finish (s1.shfProto f)
      else
        let s2 := s1.shfTouch f k pkt.src
        if SMap.get c.got false (chunk * 64 + part) then finish (s2.collReceipt f x c pkt)
        else
          let cls := pktField pkt 38 1
          let s3 := (s2.shfWrite f k c chunk part b cls).updColl f k (fun c => { c with
            got := SMap.insert c.got (chunk * 64 + part) true })
          let s4 := s3.collReceipt f x c pkt
          let s5 := if c.silent then s4 else s4.gatherDown f k x c.seq stage chunk part n cls b
          finish (s5.shfFinish f k)

/-- RECEIPT (R461). -/
def execReceipt (f : FieldId) (pkt : Packet) (s : State) : Result := s.inRim f <|
  match s.shfArrival f skReceipt pkt with
  | (s1, none) => finish s1
  | (s1, some (k, x)) =>
    match x.collOf pkt with
    | none => finish (s1.shfStale f)
    | some _ =>
      let hit := fun (o : ShfOut) => decide (o.dst = pkt.src) && decide (o.stage = pktField pkt 25 1) &&
        decide (o.chunk = pktField pkt 28 4) && decide (o.part = pktField pkt 26 2)
      finish (((s1.shfTouch f k pkt.src).updColl f k (fun c => { c with out := c.out.filter (fun o => !hit o) })).shfFinish f k)

/-- CREDIT (R461). -/
def execCredit (f : FieldId) (pkt : Packet) (s : State) : Result := s.inRim f <|
  match s.shfArrival f skCredit pkt with
  | (s1, none) => finish s1
  | (s1, some (k, x)) =>
    match x.collOf pkt with
    | none => finish (s1.shfStale f)
    | some _ =>
      let n := pkt.src % 8192
      finish ((s1.shfTouch f k pkt.src).updColl f k (fun c => { c with spent := SMap.insert c.spent n (SMap.get c.spent 0 n - 1) }))

/-- PART_RESEND (R461): the k-th part without a receipt. -/
def execPartResend (f : FieldId) (slot : Fin 64) (k : Nat) (s : State) : Result := s.inRim f <|
  match s.shfSlot f slot with
  | none => .next s
  | some x =>
    match x.coll.bind (fun c => (c.out[k]?).map (fun o => (c, o))) with
    | none => .next s
    | some (c, o) =>
      if 3 ≤ o.tries ∨ (s.shf f).stopped = true then .next s
      else
        let s1 := s.updColl f slot (fun c => { c with out := c.out.set k { o with tries := o.tries + 1 } })
        .next ((s1.fwrap f Reg.SHF_STAT.RETX).sendPart f x c.seq o)

/-! ### Failure (R462, R464) -/

/-- The names an ABORT carries. -/
def abortNames (p : Packet) : List Nat :=
  (List.range (min 64 (pktField p 34 2))).map (fun i => pktField p (48 + 2 * i) 2)

/-- ABORT (R462). -/
def execAbort (f : FieldId) (pkt : Packet) (s : State) : Result := s.inRim f <|
  match s.shfArrival f skAbort pkt with
  | (s1, none) => finish s1
  | (s1, some (k, x)) =>
    let status := pktField pkt 32 2
    match x.collOf pkt with
    | some _ => finish (s1.shfFail f k status (abortNames pkt) true)
    | none =>
      if x.ahead pkt then
        finish (s1.updSlotShf f k (fun y => { y with aborts := y.aborts ++ [(pktField pkt 20 4, status, abortNames pkt)] }))
      else finish (s1.shfStale f)

/-- The first blocks of a chunk's gather parts. -/
def gatherFirsts (c : ShfColl) (chunk : Nat) : List Nat :=
  let per := partBytes / (32 * shfSize c.outType)
  (List.range (chunkBlocks c.count chunk)).filter (fun b => b % per = 0)

/-- Whether something is still awaited from a member (R462). -/
def ShfColl.awaits (c : ShfColl) (g : List Nat) (me n : Nat) : Bool :=
  !c.digests.any (fun e => decide (e.1 = n)) ||
    (List.range (chunkCount c.count)).any (fun k =>
      (List.range 4).any (fun st =>
        ((shfSenders g st k me).contains n && !SMap.get c.folded false (k * 4 + st) && !c.pieceFull st k n) ||
        (decide (shfTarget g st k me = some n) && (gatherFirsts c k).any (fun b => !SMap.get c.got false (k * 64 + b)))))

/-- STAGE_TIMEOUT (R462): members of H(m) from which something is awaited and nothing has come for STAGE_TIMEOUT. -/
def execStageTimeout (f : FieldId) (slot : Fin 64) (s : State) : Result := s.inRim f <|
  match s.shfSlot f slot with
  | none => .next s
  | some x =>
    match x.coll with
    | none => .next s
    | some c =>
      let t := s.tallyOf f
      let mute := x.hset.filter (fun n => decide (max c.tIssue (SMap.get c.last 0 (n % 8192)) + x.timeout ≤ t) &&
        c.awaits x.members (s.node f) n)
      if mute = [] ∨ (s.shf f).stopped = true ∨ c.silent = true then .next s
      else if c.digests.any (fun e => decide (e.2 ≠ c.digest)) then finish (s.shfMismatch f slot c)
      else finish (s.shfFail f slot St.MEMBER_SILENT mute true)

/-- A partition reset of the field: every collective in progress fails and every slot becomes HALTED (R464). -/
def State.shfReset (s : State) (f : FieldId) : State :=
  (s.shf f).slots.foldl (fun t e =>
    (t.shfFail f e.1 St.MEMBER_RESET [t.node f] true).shfHaltSlot f e.1 (t.freg f Reg.SHF_GROUP_STATUS.RESULT e.1)) s

/-- The field is halted: collectives end without an ABORT (R462). -/
def State.shfAllotHalt (s : State) (f : FieldId) : State :=
  (s.shf f).slots.foldl (fun t e => t.shfFail f e.1 St.ALLOT_HALTED [] false) s

/-! ### The allotment (R378, R416, R441) -/

/-- A write of GWY_ALLOT_HALT. -/
def State.allotHalt (s : State) (f : FieldId) (id : Nat) : State :=
  let a := trunc 12 id
  if a = s.allot f ∧ a ≠ 0 then (s.gwHalt f a).shfAllotHalt f else s

/-- ALLOT_HALT (R416). -/
def execAllotHalt (f : FieldId) (id : Nat) (s : State) : Result := s.inRim f <| finish (s.allotHalt f id)

/-- A field that belongs to no allotment runs with the witness on and poison on (R124). -/
def State.witnessForce (s : State) (f : FieldId) : State :=
  if s.allot f = 0 then (s.fset f Reg.FLD_WITNESS_CTL.ACTIVE 1).fset f Reg.FLD_WITNESS_CTL.POISON_ACTIVE 1 else s

/-- A write of FLD_ALLOT: 0xFFF stores 0; a halt ends; without an allotment the witness is on at once (R124). -/
def State.allotWrite (s : State) (f : FieldId) (id : Nat) : State :=
  let a := trunc 12 id
  ((s.fset f Reg.FLD_ALLOT.ID (if a = mgmtAllot then 0 else a)).fset f Reg.GWY_ALLOT_HALT.HALTED 0).witnessForce f

/-- FLD_ALLOT_WRITE (R378, R416). -/
def execFldAllotWrite (f : FieldId) (id : Nat) (s : State) : Result := s.inRim f <| .next (s.allotWrite f id)

end Sys2Proof.Machine
end

