-- ==== Sys2Proof/Machine/Health.lean ====
section
/-! DEFINITION. The health score (R475 to R485, R656, R657). -/

namespace Sys2Proof.Machine

open Sys2Proof

/-! ### Counters over a window (R475) -/

/-- Bits of a number. -/
def bitLen (n : Nat) : Nat := if n = 0 then 0 else Nat.log2 n + 1

/-- Counters the health window compares, by key: the controller's, the bins', each plot's, each port's. -/
def hkMemCe : Nat := 0
def hkMemUe : Nat := 1
def hkBinCe : Nat := 2
def hkBinUe : Nat := 3
def hkWit : Nat := 4
def hkWarn : Nat := 5
def hkDrop : Nat := 6
def hkThr : Nat := 7
def hkSens : Nat := 8
def hkPlotCe (p : Nat) : Nat := 0x1000 + p
def hkPlotUe (p : Nat) : Nat := 0x2000 + p
def hkCrc (n : Nat) : Nat := 0x3000 + n
def hkCorr (n w : Nat) : Nat := 0x4000 + 16 * n + w

/-- Every counter with its present value and its width; saturating ones are marked. -/
def State.healthCounters (s : State) (f : FieldId) : List (Nat × Nat × Nat × Bool) :=
  let F := s.field f
  [(hkMemCe, s.freg f Reg.MEM_ECC_STAT.CORRECTED, 32, true), (hkMemUe, s.freg f Reg.MEM_ECC_STAT.UNCORRECTED, 16, true),
    (hkBinCe, F.binCorrected, 64, false), (hkBinUe, F.binUncorrected, 64, false), (hkWit, F.witEvents, 64, false),
    (hkWarn, s.freg f Reg.THM_EVT_CNT.WARNINGS, 16, true), (hkDrop, s.freg f Reg.THM_EVT_CNT.DROPS, 16, true),
    (hkThr, s.freg f Reg.THM_EVT_CNT.THROTTLES, 16, true), (hkSens, s.freg f Reg.THM_EVT_CNT.SENSORS, 16, true)] ++
  (List.finRange 256).map (fun (p : PlotId) => (hkPlotCe p, s.preg f p Reg.PLT_STORE_ECC.CORRECTED, 32, true)) ++
  (List.finRange 256).map (fun (p : PlotId) => (hkPlotUe p, s.preg f p Reg.PLT_STORE_ECC.UNCORRECTED, 16, true)) ++
  (List.range 16).map (fun n => (hkCrc n, s.freg f Reg.RTE_LINK_CNT.CRC_ERR n, 32, false)) ++
  (List.range 16).flatMap (fun n => (List.range 16).map (fun w => (hkCorr n w, s.freg f Reg.RTE_LANE_FEC.CORR n w, 24, false)))

/-- The increase of counter values since the previous close, and whether a saturating one is saturated. -/
def healthDelta (prev : SMap Nat) (cs : List (Nat × Nat × Nat × Bool)) (keys : Nat → Bool) : Nat × Bool :=
  (cs.filter (fun c => keys c.1)).foldl (fun (acc : Nat × Bool) c =>
    let (k, v, w, sat) := c
    let b := SMap.get prev 0 k
    if sat then (acc.1 + (v - b), acc.2 || decide (v = 2 ^ w - 1)) else (acc.1 + (v + 2 ^ w - b) % 2 ^ w, acc.2)) (0, false)

/-- Keys of corrected and of uncorrected memory errors. -/
def isCe (k : Nat) : Bool := decide (k = hkMemCe) || decide (k = hkBinCe) || decide (k / 0x1000 = 1)
def isUe (k : Nat) : Bool := decide (k = hkMemUe) || decide (k = hkBinUe) || decide (k / 0x1000 = 2)
def isPlotKey (k : Nat) : Bool := decide (k / 0x1000 = 1) || decide (k / 0x1000 = 2)

/-- A partition reset is requested: the plots' counters are read before they return to zero (R475). -/
def State.healthReset (s : State) (f : FieldId) : State :=
  let cs := s.healthCounters f
  let H := (s.field f).hlt
  let d := fun (g : Nat → Bool) => (healthDelta H.prev cs (fun k => isPlotKey k && g k)).1
  s.updField f (fun F => { F with hlt := { F.hlt with
    carryCe := F.hlt.carryCe + d isCe, carryUe := F.hlt.carryUe + d isUe,
    prev := F.hlt.prev.filter (fun e => !isPlotKey e.1),
    stallPrev := F.hlt.stallPrev.filter (fun e => decide (7 * 256 ≤ e.1)), stepReset := true } })

/-! ### Components (R476, R477) -/

/-- A component: its penalty, and the shares of self, neighbour and environment. -/
structure Component where
  pen : Nat
  self : Nat
  near : Nat
  env : Nat
  deriving DecidableEq, Repr

/-- Shares brought under a component's cap in proportion. -/
def Component.make (cap self near env : Nat) : Component :=
  let t := self + near + env
  if t ≤ cap then ⟨t, self, near, env⟩ else ⟨cap, cap * self / t, cap * near / t, cap * env / t⟩

/-- A hinted component is the environment's wholly. -/
def Component.hint (c : Component) (on : Bool) : Component := if on then ⟨c.pen, 0, 0, c.pen⟩ else c

/-- ATTR: the largest share, ties going to self. -/
def Component.attr (c : Component) : Nat :=
  if c.pen = 0 then 0
  else if c.self < c.near ∧ c.env < c.near then 2
  else if c.self < c.env ∧ c.near < c.env then 3
  else 1

/-- Wavelengths in service in a port's receive direction. -/
def State.rxWaves (s : State) (f : FieldId) (n : PortId) : List Nat :=
  let P := s.port f n
  ((slotsIn 15 P.rx.out).map (fun k => nth P.rx.map k)).filter (fun w => !bit P.rx.failed w)

/-- MEM. -/
def State.compMem (s : State) (f : FieldId) (cs : List (Nat × Nat × Nat × Bool)) : Component :=
  let H := (s.field f).hlt
  let (ce, a) := healthDelta H.prev cs isCe
  let (ue, b) := healthDelta H.prev cs isUe
  Component.make 300 (if a || b then 300 else 8 * bitLen (ce + H.carryCe) + 100 * (ue + H.carryUe)) 0 0

/-- LINK. -/
def State.compLink (s : State) (f : FieldId) (cs : List (Nat × Nat × Nat × Bool)) : Component :=
  let prev := (s.field f).hlt.prev
  let (a, b) := (List.finRange 16).foldl (fun (acc : Nat × Nat) (n : PortId) =>
    let crc := (healthDelta prev cs (fun k => decide (k = hkCrc n))).1
    let ws := s.rxWaves f n
    let corr := (healthDelta prev cs (fun k => decide (hkCorr n 0 ≤ k) && decide (k ≤ hkCorr n 15))).1
    let mode := s.freg f Reg.HDL_PORT_STATUS.RX_MODE n
    let bad := decide (ws ≠ []) && decide (2 * ws.length * lineRate mode < corr * 100000)
    let pen := 2 * bitLen crc + (if bad then 10 else 0)
    let healthy := ws.all (fun w =>
      let c := s.freg f Reg.HDL_LANE_POWER.RX_PWR n w
      decide (c ≠ 0x80) && decide (sensitivity mode + 16 ≤ toSigned 8 c))
    if healthy then (acc.1 + pen, acc.2) else (acc.1, acc.2 + pen)) (0, 0)
  Component.make 300 a b 0

/-- LANES (R477, R657). -/
def State.compLanes (s : State) (f : FieldId) : Component :=
  let (a, b, e) := (List.finRange 16).foldl (fun (acc : Nat × Nat × Nat) (n : PortId) =>
    let P := s.port f n
    let tx := (List.range 16).filter (bit P.tx.failed)
    let rx := (List.range 16).filter (bit P.rx.failed)
    let near := (rx.filter (fun w => decide (SMap.get P.rx.reasons 0 w = 1))).length
    let ring := fun (k : Nat) => SMap.get (s.field f).hlt.ringEnv false (16 * n.val + k)
    let env := (tx.filter ring).length + (rx.filter (fun w => ring (w + 256))).length
    (acc.1 + (tx.length + rx.length - near - env), acc.2.1 + near, acc.2.2 + env)) (0, 0, 0)
  Component.make 150 (15 * a) (15 * b) (15 * e)

/-- LIGHT. -/
def State.compLight (s : State) (f : FieldId) : Component :=
  let es := (List.range 4).map (fun k => 4 * f.val + k)
  let ms := ((es.map s.engSrc).eraseDups).map (fun m => s.hreg Reg.HDL_MODULE.MARGIN m)
  let worst := ms.foldl (fun a c => min a (if c = 0x80 then 0 else toSigned 8 c)) 24
  let pen := if es.any s.engIsDark ∨ worst < 8 then 200 else if worst < 16 then 100 else if worst < 24 then 50 else 0
  Component.make 200 0 0 pen

/-- THROTTLES since the last window's close, but for entries of a broken sensor, which SENSORS counts (R656); whether the counter
stands at its saturation value. -/
def HealthUnit.throttles (H : HealthUnit) (cs : List (Nat × Nat × Nat × Bool)) : Nat × Bool :=
  let (d, full) := healthDelta H.prev cs (fun j => decide (j = hkThr))
  (d - min d H.thrSens, full)

/-- THERMAL (R656). A counter that stands at its saturation value contributes the component's cap, laid to what its events
are laid to; THROTTLES, as the entries of the last window that had any were (R475). -/
def State.compThermal (s : State) (f : FieldId) (cs : List (Nat × Nat × Nat × Bool)) : Component :=
  let H := (s.field f).hlt
  let part := fun (k weight : Nat) =>
    let (d, full) := healthDelta H.prev cs (fun j => decide (j = k))
    if full then 200 else weight * d
  let (thr, full) := H.throttles cs
  let (all, env) := if thr = 0 then H.thrLast else (thr, min thr H.thrEnv)
  let throttle := if full then 200 else 100 * thr
  let envThr := if all = 0 then 0 else throttle * env / all
  Component.make 200 (throttle - envThr + part hkSens 100) 0 (part hkWarn 20 + part hkDrop 50 + envThr)

/-- WITNESS, KAT. -/
def State.compWitness (s : State) (f : FieldId) (cs : List (Nat × Nat × Nat × Bool)) : Component :=
  Component.make 1000 (400 * (healthDelta (s.field f).hlt.prev cs (fun k => decide (k = hkWit))).1) 0 0
def State.compKat (s : State) (f : FieldId) : Component := Component.make 200 (25 * s.freg f Reg.FLD_BOOT_STATUS.KAT_FAILED) 0 0

/-- The bucket by which 90 % of a histogram's values are reached. -/
def bucket90 (h : SMap Nat) : Nat :=
  let n := fun (b : Nat) => SMap.get h 0 b
  let total := ((List.range 16).map n).foldl (· + ·) 0
  ((List.range 16).find? (fun b => decide (9 * total ≤ 10 * ((List.range (b + 1)).map n).foldl (· + ·) 0))).getD 0

/-- LATE. -/
def State.compLate (s : State) (f : FieldId) : Component := Component.make 150 (15 * (bucket90 (s.shf f).own - 6)) 0 0

/-! ### The window (R475, R478) -/

/-- EXPEL is set, with its event, which carries INJECTED where a point caused it (R698). -/
def State.expel (s : State) (f : FieldId) (injected : Bool) : State :=
  if s.freg f Reg.HLT_SCORE.EXPEL = 1 then s
  else
    (s.fset f Reg.HLT_SCORE.EXPEL 1).raise f Ev.HLT_EXPEL
      [(1, f), (2, s.freg f Reg.HLT_SCORE.SCORE), (2, s.freg f Reg.HLT_SCORE.SELF_PEN), (1, s.freg f Reg.HLT_SCORE.RUN),
        (1, s.freg f Reg.HLT_SCORE.HARD)] injected

/-- Whether a field is in READY or PARTITION_RESET. -/
def State.inService (s : State) (f : FieldId) : Bool := decide (s.svc f = svcReady) || decide (s.svc f = svcPartitionReset)

/-- The package score and the count of fields out of service (R478, R485). -/
def State.packageScore (s : State) : State :=
  let l := allFields.filter (fun (f : FieldId) => s.inService f)
  (s.hset Reg.HLT_PKG.SCORE (if l = [] then 0 else l.foldl (fun m f => min m (s.freg f Reg.HLT_SCORE.SCORE)) 1000)).hset
    Reg.HLT_PKG.OUT (4 - l.length)

/-- Whether an input that lasts came from an injection point: a failed wavelength, a margin, a dark engine (R481, R698). -/
def State.injectedInput (s : State) (f : FieldId) : Bool :=
  let es := (List.range 4).map (fun k => 4 * f.val + k)
  (List.finRange 16).any (fun (n : PortId) => (List.range 16).any (fun w =>
    let k := 16 * n.val + w
    (bit (s.port f n).tx.failed w && SMap.get (s.field f).hlt.injLanes false k) ||
      (bit (s.port f n).rx.failed w && SMap.get (s.field f).hlt.injLanes false (k + 256)))) ||
    es.any (fun e => bit s.hub.light.injMargin (s.engSrc e) || (s.engIsDark e && bit s.hub.light.injDark e))

/-- A field's window closes. -/
def State.healthWindow (s : State) (f : FieldId) : State :=
  let cs := s.healthCounters f
  let hint := s.freg f Reg.HLT_ENV_HINT.ENV
  let comps := (([s.compMem f cs, s.compLink f cs, s.compLanes f, s.compLight f, s.compThermal f cs, s.compWitness f cs, s.compKat f,
    s.compLate f]).zipIdx).map (fun (c, i) => c.hint (bit hint i))
  let total := (comps.map Component.pen).foldl (· + ·) 0
  let selfPen := (comps.map Component.self).foldl (· + ·) 0
  let p := s.hreg Reg.HLT_FLEET.PRESSURE
  let run := if 150 + 50 * p ≤ selfPen then min 24 (s.freg f Reg.HLT_SCORE.RUN + 1) else 0
  let inj := (s.field f).hlt.injected || s.injectedInput f ||
    (decide (s.freg f Reg.HLT_SCORE.HARD = 1) && decide (s.freg f Reg.HLT_SCORE.INJECTED = 1))
  let s1 := (comps.zipIdx).foldl (fun (t : State) (c, i) =>
    (t.fset f Reg.HLT_PEN.PEN c.pen 0 i).fset f Reg.HLT_PEN.ATTR c.attr 0 i) s
  let s2 := ((((s1.fset f Reg.HLT_SCORE.SCORE (1000 - min 1000 total)).fset f Reg.HLT_SCORE.SELF_PEN selfPen).fset f
    Reg.HLT_SCORE.RUN run).fset f Reg.HLT_SCORE.INJECTED (b2n inj)).fwrap f Reg.HLT_SCORE.WINDOW
  let thr := ((s.field f).hlt.throttles cs).1
  let s3 := s2.updField f (fun F => { F with
    hlt := { F.hlt with
      thrLast := if thr = 0 then F.hlt.thrLast else (thr, min thr F.hlt.thrEnv)
      prev := cs.foldl (fun m c => SMap.set m 0 c.1 c.2.1) F.hlt.prev
      carryCe := 0, carryUe := 0, thrEnv := 0, thrSens := 0, injected := false },
    shf := { F.shf with own := [] } })
  if 3 + 3 * p ≤ run then s3.expel f inj else s3

/-- Ticks of a health window (R475). -/
def windowTicks : Nat := 1000000000

/-- Whether the hub's tally has crossed the end of a field's window (R475, R518). -/
def State.windowOver (s : State) (f : FieldId) : Bool := decide ((s.field f).hlt.closedAt < s.hub.tally / windowTicks)

/-- A field's window ends with the tally's crossing; it is computed for a field in service that hears the hub (R475). -/
def State.windowEnd (s : State) (f : FieldId) : State :=
  if !s.windowOver f then s
  else
    let s1 := if s.inService f && !(s.field f).hubLost then s.healthWindow f else s
    s1.updField f (fun F => { F with hlt := { F.hlt with closedAt := s.hub.tally / windowTicks } })

/-- HEALTH_WINDOW_CLOSE (R475): where the tally has crossed a multiple of 10^9 since the last close. -/
def execHealthWindowClose (s : State) : Result :=
  if allFields.any s.windowOver then finish ((allFields.foldl State.windowEnd s).packageScore) else .next s

/-- HARD_EVENT (R479): the oldest hard event of a field. -/
def execHardEvent (f : FieldId) (s : State) : Result :=
  match (s.field f).hardDue with
  | [] => .next s
  | (kind, inj) :: rest =>
    let s1 := s.updField f (fun F => { F with hardDue := rest, hlt := { F.hlt with injected := F.hlt.injected || inj } })
    let score := s.freg f Reg.HLT_SCORE.SCORE
    let s2 := s1.fset f Reg.HLT_SCORE.SCORE (if kind = 0 then score - 400 else score)
    let s3 := if inj then s2.fset f Reg.HLT_SCORE.INJECTED 1 else s2
    let s4 := (s3.fset f Reg.HLT_SCORE.HARD 1).raise f Ev.HLT_HARD [(1, f), (1, kind)] inj
    finish ((s4.expel f inj).packageScore)

/-- The fabric manager clears EXPEL (R480). -/
def State.expelClear (s : State) (f : FieldId) : State :=
  ((s.fset f Reg.HLT_SCORE.EXPEL 0).fset f Reg.HLT_SCORE.RUN 0).fset f Reg.HLT_SCORE.HARD 0

/-- EXPEL_CLEAR (R480). -/
def execExpelClear (f : FieldId) (s : State) : Result := s.inRim f <| .next (s.expelClear f)

end Sys2Proof.Machine
end

