-- ==== Sys2Proof/Machine/Tally.lean ====
section
/-! DEFINITION. The tally of a field, its beacons, servo and tree, the hub's tally and the calendar clock
(R517 to R525, R530 to R535), and the tick: what passes when no command waits. -/

namespace Sys2Proof.Machine

open Sys2Proof

def State.tly (s : State) (f : FieldId) : TallyUnit := (s.field f).tally
def State.updTly (s : State) (f : FieldId) (g : TallyUnit → TallyUnit) : State :=
  s.updField f (fun F => { F with tally := g F.tally })

/-- Whether a field's rim is in service (R18, R27). -/
def State.rimUp (s : State) (f : FieldId) : Bool := decide (s.svc f ≠ svcOff) && decide (s.svc f ≠ svcDark)

/-- The lowest-numbered field whose rim is in service. -/
def State.lowRim (s : State) : Option FieldId := allFields.find? (fun (f : FieldId) => s.rimUp f)

/-- The lowest-numbered field in READY. -/
def State.lowReady (s : State) : Option FieldId := allFields.find? (fun (f : FieldId) => decide (s.svc f = svcReady))

/-- Whether any field's tables have been sealed since the last cold or warm reset (R382). -/
def State.hubSealed (s : State) : Bool :=
  allFields.any (fun (f : FieldId) => decide (s.freg f Reg.RTE_TABLE_STATUS.SEALED = 1))

/-! ### Counting (R517) -/

/-- 500 ppm of the nominal increment, and the nominal increment, in 2^-32 ns for each rim cycle. -/
def incMax : Int := 0x15D867
def incNominal : Int := 0xAAAAAAAB

/-- The increment of one rim cycle. -/
def tallyInc (hold : Bool) (fTrim pTrim : Int) : Nat :=
  if hold then 0 else (incNominal + clampInt (fTrim + pTrim) (-incMax) incMax).toNat

/-- Whether the tally crossed a multiple of 2^n. -/
def crosses (n old new : Nat) : Bool := decide (old / 2 ^ n < new / 2 ^ n)

/-- One rim cycle of the tally; a house mark falls due at a multiple of 2^30 while no mark is armed (R527). -/
def TallyUnit.cycle (hold armed : Bool) (U : TallyUnit) : TallyUnit :=
  let x := U.tFrac + tallyInc hold U.fTrim U.pTrim
  let t := trunc 64 (U.tInt + x / 2 ^ 32)
  { U with tFrac := x % 2 ^ 32, tInt := t, houseDue := U.houseDue || (!armed && crosses 30 U.tInt t) }

def tsFree : Nat := 0
def tsAcquire : Nat := 1
def tsLocked : Nat := 2
def tsHoldover : Nat := 3
def tsRoot : Nat := 4

def State.tlyState (s : State) (f : FieldId) : Nat := s.freg f Reg.TLY_STATUS.STATE
def State.tlyHeld (s : State) (f : FieldId) : Bool := decide (s.freg f Reg.TLY_STATUS.HOLD = 1)
def State.markArmed (s : State) (f : FieldId) : Bool := decide (s.freg f Reg.TLY_MARK_CTL.ARMED = 1)

/-- What the averages of f_trim hold in a unit of 2^-32. -/
def avgUnit : Int := 4294967296

/-- 2 ns in the bin of the present temperature: f_trim is averaged with a time constant of 1 s (R531). DESIGN CHOICE (log entry
44): the average is taken at each tick, from the bin's first f_trim on. -/
def TallyUnit.binTick (U : TallyUnit) : TallyUnit :=
  let k := U.tempBin
  let n := SMap.get U.bins 0 k
  let a := SMap.get U.binAvg 0 k
  let x := U.fTrim * avgUnit
  { U with
    bins := SMap.set U.bins 0 k (n + 2)
    binAvg := SMap.set U.binAvg 0 k (if n = 0 then x else a + (x - a) / 500000000) }

/-- A tick of a field: three rim cycles of its tally (2 ns nominal), the rim cycles held writes wait (R246), and
LOCKED time in the bin of the present temperature (R531). -/
def State.tickField (s : State) (f : FieldId) : State :=
  if !s.rimUp f then s
  else
    let c := TallyUnit.cycle (s.tlyHeld f) (s.markArmed f)
    let locked := decide (s.tlyState f = tsLocked)
    let s1 := s.updTly f (fun U =>
      let V := c (c (c U))
      if locked then V.binTick else V)
    if (s.memu f).held.isEmpty then s1 else s1.fwrap f Reg.MEM_MIR_STATUS.HOLD_CYCLES 3

/-- The hub's tally moves to t; its crossing of a period is a pulse to come (R530). -/
def State.hubTallyTo (s : State) (t : Nat) : State :=
  let due := decide (s.hreg Reg.TLY_PIN_CTL.MODE = 0) && crosses (s.hreg Reg.TLY_PIN_CTL.PERIOD_LOG) s.hub.tally t
  s.updHub (fun H => { H with tally := t, pulseDue := H.pulseDue || due })

/-- A tick of the hub's tally: three rim cycles, as a field's (R517, R518). -/
def State.tickHub (s : State) : State :=
  let U := s.hub.servo
  let x := U.tFrac + 3 * tallyInc U.hold U.fTrim U.pTrim
  (s.updHub (fun H => { H with servo := { H.servo with tFrac := x % 2 ^ 32 } })).hubTallyTo (trunc 64 (s.hub.tally + x / 2 ^ 32))

/-- The calendar time in 2^-15 s. -/
def State.calTime (s : State) : Nat := s.hreg Reg.CAL_TIME.SEC * 2 ^ 15 + s.hreg Reg.CAL_TIME.FRAC

/-- The calendar set to a time in 2^-15 s. -/
def State.calSet (s : State) (t : Nat) : State :=
  (s.hset Reg.CAL_TIME.SEC (t / 2 ^ 15)).hset Reg.CAL_TIME.FRAC (t % 2 ^ 15)

/-- The crystal counts of a time in ns, but for those to be skipped (R533, R534). -/
def State.calCount (s : State) (ns : Nat) : State :=
  let x := s.hub.cal.rest + ns * 32768
  let n := x / 10 ^ 9
  let k := min n s.hub.cal.skip
  let s1 := s.updHub (fun H => { H with cal := { H.cal with rest := x % 10 ^ 9, skip := H.cal.skip - k } })
  if n = k then s1 else s1.calSet (s1.calTime + (n - k))

/-- A tick: 2 ns pass (DESIGN CHOICE: the operation table has no row for the passing of time). -/
def State.tick (s : State) : State :=
  let s1 := allFields.foldl (fun t f => t.tickField f) { s with now := s.now + 2 }
  s1.tickHub.calCount 2

/-! ### States and roots (R522 to R524) -/

/-- The tally enters a state (R522). -/
def State.tlySet (s : State) (f : FieldId) (new : Nat) : State :=
  let old := s.tlyState f
  if old = new then s
  else
    let s1 := if new = tsLocked ∨ new = tsRoot then s.updTly f (fun U => { U with reached := true }) else s
    (s1.fset f Reg.TLY_STATUS.STATE new).raise f Ev.TLY_STATE [(1, f), (1, old), (1, new)]

/-- The acting root a field knows of changes (R524). -/
def State.rootSet (s : State) (f : FieldId) (root rank : Nat) : State :=
  if s.freg f Reg.TLY_STATUS.ROOT = root then s
  else ((s.fset f Reg.TLY_STATUS.ROOT root).fset f Reg.TLY_STATUS.ROOT_RANK rank).raise f Ev.TLY_ROOT
    [(1, f), (2, root), (1, rank)]

/-- Entry into HOLDOVER (R521, R522, R531): p_trim 0, the tally not held, f_trim the average of the bin of the present
temperature where that bin is present. How the average is rounded to f_trim's unit the spec does not say: that is free, within
one unit. -/
def State.holdoverTrim (s : State) (f : FieldId) : State :=
  let U := s.tly f
  let s1 := (s.updTly f (fun U => { U with pTrim := 0 })).fset f Reg.TLY_STATUS.HOLD 0
  if SMap.get U.bins 0 U.tempBin < 10 ^ 9 then s1
  else
    let (v, s2) := s1.draw
    s2.updTly f (fun U => { U with
      fTrim := clampInt (SMap.get U.binAvg 0 U.tempBin / avgUnit + ((v % 2 : Nat) : Int)) (-incMax) incMax })

def State.enterHoldover (s : State) (f : FieldId) : State := (s.tlySet f tsHoldover).holdoverTrim f

/-- The rank of field f as a root field: it stands in a root package as the lowest field in service (R524). -/
def State.rootRank (s : State) (f : FieldId) : Option Nat :=
  let root := fun (k : Nat) => s.freg f (if k = 0 then Reg.TLY_ROOTS.ROOT0 else if k = 1 then Reg.TLY_ROOTS.ROOT1 else Reg.TLY_ROOTS.ROOT2)
  if s.lowRim ≠ some f then none
  else [0, 1, 2].find? (fun (k : Nat) => bit (s.freg f Reg.TLY_ROOTS.VALID) k && decide (nodePkg (root k) = s.pkgNode))

/-- Whether a root is alive at a field (R524). -/
def State.rootAlive (s : State) (f : FieldId) (root : Nat) : Bool :=
  match SMap.find (s.tly f).roots root with
  | none => false
  | some r => r.alive && decide (s.now ≤ r.at_ + 1000000)

/-- Whether some root of rank below k is alive at a field. -/
def State.lowerAlive (s : State) (f : FieldId) (k : Nat) : Bool :=
  (s.tly f).roots.any (fun e => decide (e.2.rank < k) && s.rootAlive f e.1)

/-- Whether any root is alive at a field. -/
def State.anyAlive (s : State) (f : FieldId) : Bool := (s.tly f).roots.any (fun e => s.rootAlive f e.1)

/-- The epoch a first acting root takes: the calendar time less the hub's tally (R518, R535), in 2^-15 s. -/
def State.epochSet (s : State) (f : FieldId) : State :=
  let e := ((s.calTime * 10 ^ 9 : Nat) : Int) - ((s.hub.tally * 2 ^ 15 : Nat) : Int)
  let v := ofSigned 79 (e / ((10 ^ 9 : Nat) : Int))
  ((s.fset f Reg.TLY_EPOCH.SEC (v / 2 ^ 15)).fset f Reg.TLY_EPOCH.FRAC (v % 2 ^ 15)).fset f Reg.TLY_EPOCH.VALID
    (s.hreg Reg.CAL_TIME.VALID)

/-- The field has no parent. -/
def State.noParent (s : State) (f : FieldId) : State :=
  ((s.fset f Reg.TLY_STATUS.PARENT_LINK 0x1F).fset f Reg.TLY_STATUS.PARENT 0xFFFF).fset f Reg.TLY_STATUS.DIST 0x1F

/-- Field f becomes the acting root (R521, R524, R535). -/
def State.becomeRoot (s : State) (f : FieldId) (rank : Nat) : State :=
  let first := !(s.tly f).everRoot
  let s1 := (s.updTly f (fun U => { U with fTrim := 0, pTrim := 0, everRoot := true })).fset f Reg.TLY_STATUS.HOLD 0
  let s2 := ((s1.noParent f).fset f Reg.TLY_STATUS.DIST 0).tlySet f tsRoot
  let s3 := s2.rootSet f (s2.node f) rank
  if first then s3.epochSet f else s3

/-- The bin of a rim temperature in 0.25 °C (R531): below 35 °C, then 10 °C each, 95 °C and above. -/
def tempBinOf (t : Int) : Nat := if t < 140 then 0 else min 7 (((t - 140) / 40).toNat + 1)

/-- The rim temperature has been sampled. Which of the die's sensors, if any, stands for the rim the spec does not
say: the present temperature, in 0.25 °C, is free. A field in HOLDOVER takes f_trim of its present bin. -/
def State.tlyTemp (s : State) (f : FieldId) : State :=
  let (v, s1) := s.draw
  let b := tempBinOf ((v % 512 : Nat) : Int)
  if (s.tly f).tempBin = b then s1
  else
    let s2 := s1.updTly f (fun U => { U with tempBin := b })
    if s2.tlyState f = tsHoldover then s2.holdoverTrim f else s2

/-! ### Choosing a parent (R523) -/

/-- The candidate parents, by link. -/
def State.candidates (s : State) (f : FieldId) : List (Nat × TallyLink) :=
  (s.tly f).links.filter (fun e =>
    let x := e.2
    x.known && decide (s.now ≤ x.arrAt + 100000) && x.good && s.rootAlive f x.root && decide (x.parent ≠ s.node f) &&
      decide (x.dist < 31))

/-- Whether candidate a is better than b: rank, then distance, then node ID. -/
def TallyLink.better (a b : TallyLink) : Bool :=
  decide (a.rank < b.rank) || (decide (a.rank = b.rank) &&
    (decide (a.dist < b.dist) || (decide (a.dist = b.dist) && decide (a.node < b.node))))

/-- The best candidate. -/
def bestOf : List (Nat × TallyLink) → Option (Nat × TallyLink)
  | [] => none
  | x :: xs =>
    match bestOf xs with
    | none => some x
    | some y => if y.2.better x.2 then some y else some x

/-- What a field takes from its parent: who it is, the distance, the root and the epoch. -/
def State.followParent (s : State) (f : FieldId) (link : Nat) (x : TallyLink) : State :=
  let s1 := (s.fset f Reg.TLY_STATUS.PARENT_LINK link).fset f Reg.TLY_STATUS.PARENT x.node
  (s1.fset f Reg.TLY_STATUS.DIST (x.dist + 1)).rootSet f x.root x.rank

/-- PARENT_SELECT (R523): the parent is kept, changed or lost. A field whose TLY_ROOTS has no valid entry stays FREE (R524). -/
def State.parentSelect (s : State) (f : FieldId) : State :=
  if s.freg f Reg.TLY_ROOTS.VALID = 0 ∧ s.tlyState f = tsFree then s else
  let cands := s.candidates f
  let link := s.freg f Reg.TLY_STATUS.PARENT_LINK
  let st := s.tlyState f
  match bestOf cands with
  | none =>
    if link = 0x1F then s
    else
      let s1 := s.noParent f
      if st = tsLocked ∨ st = tsAcquire then s1.enterHoldover f else s1
  | some (l, x) =>
    let kept := match SMap.find cands link with
      | none => none
      | some y => if cands.any (fun e => decide (e.2.rank < y.rank) || decide (e.2.dist + 2 ≤ y.dist)) then none else some y
    match kept with
    | some y => s.followParent f link y
    | none =>
      let s1 := s.followParent f l x
      let s2 := if l = link ∧ s.freg f Reg.TLY_STATUS.PARENT = x.node then s1 else s1.fcount f Reg.TLY_SERVO_STAT.PARENT_CHANGES
      if st = tsFree ∨ st = tsHoldover then (s2.updTly f (fun U => { U with good := 0, runOut := 0 })).tlySet f tsAcquire else s2

/-! ### The servo (R521) -/

/-- One nanosecond in units of 2^-32 ns. -/
def nsUnit : Int := 4294967296

/-- The largest positive and negative values of an i32 a register saturates at. -/
def satSigned32 (i : Int) : Nat := ofSigned 32 (clampInt i (-2147483648) 2147483647)

/-- A forward step of the tally; it can make a house mark due. -/
def State.tallyForward (s : State) (f : FieldId) (n : Nat) : State :=
  let armed := s.markArmed f
  s.updTly f (fun U =>
    let t := trunc 64 (U.tInt + n)
    { U with tInt := t, pTrim := 0, houseDue := U.houseDue || (!armed && crosses 30 U.tInt t) })

/-- The servo's trims at a sample within the outlier limit. -/
def State.servoTrim (s : State) (f : FieldId) (e : Int) (c : Nat) : State :=
  let kp := s.freg f Reg.TLY_SERVO_CTL.KP_LOG
  let ki := s.freg f Reg.TLY_SERVO_CTL.KI_LOG
  let s1 := s.updTly f (fun U =>
    { U with
      runOut := 0
      pTrim := clampInt (e / ((c * 2 ^ kp : Nat) : Int)) (-incMax) incMax
      fTrim := clampInt (U.fTrim + e / ((c * 2 ^ ki : Nat) : Int)) (-incMax) incMax
      good := if e.natAbs ≤ 8 * 2 ^ 32 then U.good + 1 else 0 })
  if s1.tlyState f = tsAcquire ∧ 16 ≤ (s1.tly f).good then s1.tlySet f tsLocked else s1

/-- The servo. -/
def State.servo (s : State) (f : FieldId) (e : Int) (c : Nat) : State :=
  if s.tlyState f = tsAcquire then
    if 1000 * nsUnit < e then s.tallyForward f (e / nsUnit).toNat
    else if e < -1000 * nsUnit then s.fset f Reg.TLY_STATUS.HOLD 1
    else (s.fset f Reg.TLY_STATUS.HOLD 0).servoTrim f e c
  else if 64 * 2 ^ 32 < e.natAbs then
    let s1 := (s.fcount f Reg.TLY_SERVO_STAT.OUTLIERS).updTly f (fun U => { U with runOut := U.runOut + 1 })
    if (s1.tly f).runOut = 16 then (s1.updTly f (fun U => { U with good := 0 })).tlySet f tsAcquire else s1
  else s.servoTrim f e c

/-- Rim cycles since the last used sample, at clock `last` − 1: free, and positive, where there is none yet or no time has
passed. -/
def State.cyclesSince (s : State) (last : Nat) : Nat × State :=
  let c := (s.now + 1 - last) * 3 / 2
  if last = 0 ∨ c = 0 then
    let (v, s1) := s.draw
    (v % (2 ^ 32 - 1) + 1, s1)
  else (min c (2 ^ 32 - 1), s)

/-- A sample from the parent: t1 and t2 echoed, t3 and t4 of this beacon, in 2^-16 ns. The point OFFSET adds to the
offset of the next used sample (R697). -/
def State.sample (s : State) (f : FieldId) (t1 t2 t3 t4 : Nat) : State :=
  let u := fun (t : Nat) => ((t * 2 ^ 16 : Nat) : Int)
  let d := ((u t4 - u t1) - (u t3 - u t2)) / 2
  let inj := s.injArmed f injTly 1
  let e := (u t3 + d) - u t4 + (if inj then toSigned 32 (s.injArg f injTly) * nsUnit else 0)
  let s0 := if inj then s.injFire f injTly else s
  let s1 := (s0.fset f Reg.TLY_SERVO_STAT.OFFSET (satSigned32 (e / 16777216))).fset f Reg.TLY_SERVO_STAT.DELAY
    (clampInt (d / 16777216) 0 4294967295).toNat
  let (c, s2) := s1.cyclesSince (s1.tly f).lastUsed
  (s2.updTly f (fun U => { U with lastUsed := s2.now + 1 })).servo f e c

/-! ### Beacons (R519, R520) -/

/-- The node a link's beacons address; none where no beacon goes out (R519). -/
def State.beaconTo (s : State) (f : FieldId) (link : Nat) : Option Nat :=
  if link < 16 then
    let n : PortId := (BitVec.ofNat 4 link).toFin
    if s.link f n = lsActive ∧ s.portAdmitted f n then
      let (_, _, far) := s.effective f n
      (s.effPkg f n).map (fun p => p + far / 16)
    else none
  else if s.d2dJoined f (d2dNext f link) then some (s.node (d2dNext f link)) else none

/-- The body of a beacon (R520); its departure stamp is put in as it leaves. The distance of the acting root is 0. -/
def State.beaconBody (s : State) (f : FieldId) (x : TallyLink) : List Byte :=
  let st := s.tlyState f
  let dist := if st = tsRoot then 0 else s.freg f Reg.TLY_STATUS.DIST
  let rank := s.freg f Reg.TLY_STATUS.ROOT_RANK
  leBytes 1 0x20 ++ leBytes 1 (b2n (decide (st = tsLocked)) + 2 * b2n (decide (st = tsRoot)) + 4 * b2n (decide (st = tsHoldover))) ++
    leBytes 1 (if s.freg f Reg.TLY_STATUS.PARENT_LINK = 0x1F ∧ st ≠ tsRoot then 0xFF else dist) ++
    leBytes 1 (if rank = 3 then 0xFF else rank) ++ leBytes 2 (s.freg f Reg.TLY_STATUS.ROOT) ++
    leBytes 2 (s.freg f Reg.TLY_STATUS.PARENT) ++ leBytes 8 0 ++ leBytes 2 0 ++
    leBytes 2 (x.tTx % 2 ^ 16) ++ leBytes 2 (x.arr % 2 ^ 16) ++ leBytes 2 0 ++ leBytes 8 (x.tTx / 2 ^ 16) ++
    leBytes 8 (x.arr / 2 ^ 16) ++ leBytes 4 (s.tly f).beat ++ leBytes 4 0 ++
    leBytes 8 (s.freg f Reg.TLY_EPOCH.SEC) ++
    leBytes 2 (s.freg f Reg.TLY_EPOCH.FRAC + s.freg f Reg.TLY_EPOCH.VALID * 2 ^ 15) ++ leBytes 6 0

/-- TALLY_BEACON_SEND (R519, R520, R524): a beacon goes out on a link, to be stamped as it leaves. -/
def execTallyBeaconSend (f : FieldId) (link : Fin 18) (s : State) : Result :=
  if !s.rimUp f || bit (s.tly f).muted link then .next s
  else
    match s.beaconTo f link with
    | none => .next s
    | some dst =>
      let s1 := if s.tlyState f = tsRoot ∧ (s.tly f).beatStop = false then
        s.updTly f (fun U => { U with beat := trunc 32 (U.beat + 1) }) else s
      let x := SMap.get (s1.tly f).links TallyLink.none link
      let pkt : Packet :=
        { dst := dst, src := s1.node f, allot := mgmtAllot, cls := 0, stage := 0, exit := 0, exitV := false,
          mcast := false, maxis := 0, key := 0, body := s1.beaconBody f x }
      if link.val < 16 then .next (s1.portQueue f (BitVec.ofNat 4 link).toFin 0 pkt)
      else .next (s1.d2dQueue f link 0 pkt)

/-- Whether a packet is a tally beacon for field f (R520). -/
def State.beaconOk (s : State) (f : FieldId) (p : Packet) : Bool :=
  decide (p.dst = s.node f) && pktBeacon p && decide (p.key = 0) && decide (pktField p 17 1 < 8) &&
    decide (pktField p 38 2 = 0) && decide (pktField p 60 4 = 0) && decide (pktField p 74 6 = 0)

/-- Whether a heartbeat is ahead of another, modulo 2^32. -/
def beatAhead (new old : Nat) : Bool := decide (new ≠ old) && decide ((new + 2 ^ 32 - old) % 2 ^ 32 < 2 ^ 31)

/-- A root's heartbeat is heard (R524). -/
def State.heardBeat (s : State) (f : FieldId) (root rank beat : Nat) : State :=
  if 2 < rank then s
  else
    let put := fun (b : Nat) => s.updTly f (fun U => { U with
      roots := SMap.insert U.roots root { beat := b, at_ := s.now, alive := true, rank := rank } })
    match SMap.find (s.tly f).roots root with
    | none => put beat
    | some r => if beatAhead beat r.beat then put beat else s

/-- An acting root that hears an alive root of lower rank stops acting (R524). -/
def State.rootYield (s : State) (f : FieldId) : State :=
  let rank := s.freg f Reg.TLY_STATUS.ROOT_RANK
  if s.tlyState f = tsRoot ∧ s.lowerAlive f rank = true then
    ((s.noParent f).updTly f (fun U => { U with good := 0, runOut := 0 })).tlySet f tsAcquire
  else s

/-- What an accepted beacon from the parent does: its epoch is taken over, and its heartbeat where it is the highest of that
parent and root (`same`: they were the field's before), and its sample is used when its echo names a beacon sent within the
last 100 µs (R521, R524, R535). -/
def State.fromParent (s : State) (f : FieldId) (p : Packet) (x : TallyLink) (same : Bool) (t4 : Nat) : State :=
  let frac := pktField p 72 2
  let beat := pktField p 56 4
  let s1 := ((s.updTly f (fun U => { U with beat := if same && !beatAhead beat U.beat then U.beat else beat })).fset f Reg.TLY_EPOCH.SEC (pktField p 64 8)).fset f
    Reg.TLY_EPOCH.FRAC (frac % 2 ^ 15)
  let s2 := s1.fset f Reg.TLY_EPOCH.VALID (frac / 2 ^ 15)
  let t1 := pktField p 40 8 * 2 ^ 16 + pktField p 34 2
  if x.sent.any (fun e => decide (e.2 = t1) && decide (s.now ≤ e.1 + 100000)) then
    s2.sample f t1 (pktField p 48 8 * 2 ^ 16 + pktField p 36 2) (pktField p 24 8 * 2 ^ 16 + pktField p 32 2) t4
  else s2

/-- A beacon leaves the inbox for the tally endpoint: its arrival stamp, of the flit that brought it. One that did not wait
there arrives now. -/
def State.beaconTake (s : State) (f : FieldId) (link : Nat) (p : Packet) : State × Nat :=
  let x := SMap.get (s.tly f).links TallyLink.none link
  if (s.field f).router.inbox.contains p then
    ((s.updRouter f (fun R => { R with inbox := R.inbox.erase p })).updTly f (fun U => { U with
      links := SMap.set U.links TallyLink.none link { x with due := x.due.tail } }), x.due.headD (s.stamp f))
  else (s, s.stamp f)

/-- TALLY_BEACON (R520 to R524): a beacon reaches the rim's tally endpoint by a link. -/
def execTallyBeacon (f : FieldId) (link : Fin 18) (pkt : Packet) (s : State) : Result :=
  let (s0, t4) := s.beaconTake f link pkt
  if !s.rimUp f || !s.beaconOk f pkt then .next s0
  else
    let x := SMap.get (s0.tly f).links TallyLink.none link
    let root := pktField pkt 20 2
    let y : TallyLink :=
      { x with
        known := true, node := pkt.src, good := decide (pktField pkt 17 1 % 4 ≠ 0), dist := pktField pkt 18 1,
        rank := pktField pkt 19 1, root := root, parent := pktField pkt 22 2, arrAt := s0.now,
        tTx := pktField pkt 24 8 * 2 ^ 16 + pktField pkt 32 2, arr := t4 }
    let s1 := (s0.updTly f (fun U => { U with links := SMap.set U.links TallyLink.none link y })).heardBeat f root y.rank
      (pktField pkt 56 4)
    let s2 := s1.rootYield f
    if s2.tlyState f = tsRoot then finish s2
    else
      let s3 := s2.parentSelect f
      let same := decide (s2.freg f Reg.TLY_STATUS.PARENT_LINK = link.val) && decide (s2.freg f Reg.TLY_STATUS.PARENT = pkt.src) &&
        decide (s2.freg f Reg.TLY_STATUS.ROOT = root)
      if s3.freg f Reg.TLY_STATUS.PARENT_LINK = link.val then finish (s3.fromParent f pkt y same t4) else finish s3

/-- PARENT_LOSS (R523): the parent's last beacon is older than 100 µs. -/
def execParentLoss (f : FieldId) (s : State) : Result := s.inRim f <|
  let link := s.freg f Reg.TLY_STATUS.PARENT_LINK
  if link = 0x1F ∨ s.tlyState f = tsRoot then .next s
  else
    let x := SMap.get (s.tly f).links TallyLink.none link
    finish ((s.updTly f (fun U => { U with links := SMap.set U.links TallyLink.none link { x with known := false } })).parentSelect f)

/-- ROOT_LOST (R524): the heartbeat of the field's root has not advanced for 1 ms. -/
def execRootLost (f : FieldId) (s : State) : Result := s.inRim f <|
  let st := s.tlyState f
  let root := s.freg f Reg.TLY_STATUS.ROOT
  match SMap.find (s.tly f).roots root with
  | none => .next s
  | some r =>
    if st = tsRoot then .next s
    else
      let s1 := s.updTly f (fun U => { U with roots := SMap.insert U.roots root { r with alive := false } })
      finish (if st = tsLocked ∨ st = tsAcquire then ((s1.noParent f).enterHoldover f).parentSelect f else s1)

/-- ROOT_INITIAL (R524): from stage FABRIC on, the rank-0 root field acts as root, unless it hears an alive root. -/
def execRootInitial (f : FieldId) (s : State) : Result := s.inRim f <|
  if s.tlyState f = tsRoot ∨ s.anyAlive f = true ∨ s.rootRank f ≠ some 0 ∨ s.hreg Reg.SEED_STAGE.STAGE < 8 then .next s
  else finish (s.becomeRoot f 0)

/-- Whether a root the field knew was lost, 1 ms after its heartbeat last advanced, and `ms` more have passed since (R524). -/
def State.rootGone (s : State) (f : FieldId) (ms : Nat) : Bool :=
  let R := (s.tly f).roots
  !R.isEmpty && R.all (fun e => decide (e.2.at_ + (1 + ms) * 1000000 ≤ s.now))

/-- ROOT_TAKEOVER (R524): the root field of rank k, 1 or 2, has heard no alive root for k ms after the last one was
lost. -/
def execRootTakeover (f : FieldId) (s : State) : Result := s.inRim f <|
  match s.rootRank f with
  | none => .next s
  | some k =>
    if s.tlyState f = tsRoot ∨ s.anyAlive f = true ∨ k = 0 ∨ s.rootGone f k = false then .next s
    else finish (s.becomeRoot f k)

/-- TALLY_LOCK_TIMEOUT (R524): 1 s after stage FABRIC began, a field that has not been LOCKED or ROOT says so. DEDUCED (log entry
44): what counts is the time since the last reset. -/
def execTallyLockTimeout (f : FieldId) (s : State) : Result := s.inRim f <|
  if s.tlyState f = tsLocked ∨ s.tlyState f = tsRoot ∨ (s.tly f).reached = true then .next s
  else .next (s.fset f Reg.TLY_STATUS.RESULT St.TALLY_UNLOCKED)

/-- The hub's trims at a sample within the outlier limit (R521). -/
def HubServo.trim (U : HubServo) (kp ki : Nat) (e : Int) (c : Nat) : HubServo :=
  let good := if e.natAbs ≤ 8 * 2 ^ 32 then U.good + 1 else 0
  { U with
    runOut := 0
    pTrim := clampInt (e / ((c * 2 ^ kp : Nat) : Int)) (-incMax) incMax
    fTrim := clampInt (U.fTrim + e / ((c * 2 ^ ki : Nat) : Int)) (-incMax) incMax
    good := good
    locked := U.locked || decide (16 ≤ good) }

/-- The servo of R521 in the hub: the servo after a sample, and the forward step in ns. -/
def HubServo.sample (U : HubServo) (kp ki : Nat) (e : Int) (c : Nat) : HubServo × Nat :=
  if !U.locked then
    if 1000 * nsUnit < e then ({ U with pTrim := 0 }, (e / nsUnit).toNat)
    else if e < -1000 * nsUnit then ({ U with hold := true }, 0)
    else (HubServo.trim { U with hold := false } kp ki e c, 0)
  else if 64 * 2 ^ 32 < e.natAbs then
    let n := U.runOut + 1
    ({ U with runOut := n, locked := decide (n ≠ 16), good := if n = 16 then 0 else U.good }, 0)
  else (U.trim kp ki e c, 0)

/-- HUB_TALLY_BEACON (R518): the hub's servo takes a sample from the lowest field in service. DESIGN CHOICE (log entry 44): the
offset is exact, and the gains are those of the field followed. -/
def execHubTallyBeacon (s : State) : Result :=
  match s.lowRim with
  | none => .next s
  | some f =>
    let U := s.hub.servo
    let e : Int := ((s.stamp f * 2 ^ 16 : Nat) : Int) - ((s.hub.tally * 2 ^ 32 + U.tFrac : Nat) : Int)
    let (c, s1) := s.cyclesSince U.lastUsed
    let (V, step) := U.sample (s.freg f Reg.TLY_SERVO_CTL.KP_LOG) (s.freg f Reg.TLY_SERVO_CTL.KI_LOG) e c
    .next ((s1.updHub (fun H => { H with servo := { V with lastUsed := s1.now + 1 } })).hubTallyTo (trunc 64 (s1.hub.tally + step)))

/-- TALLY_MARK_PULSE (R530): the land drives high at a period crossing of the hub's tally, or at a mark of FIELD; nothing
drives it before the first seal (R683). -/
def execTallyMarkPulse (s : State) : Result :=
  let s1 := s.updHub (fun H => { H with pulseDue := false })
  if s.hub.pulseDue ∧ s.hreg Reg.TLY_PIN_CTL.ENABLE = 1 ∧ s.hubSealed then
    let n := s.hreg Reg.TLY_PIN_CTL.WIDTH * 8
    .next ((s1.updHub (fun H => { H with pulseEnd := s.now + n })).emit (.tallyMark n))
  else .next s1

/-! ### The calendar clock (R533 to R535) -/

/-- CALENDAR_COMP (R534): once per second the rate is corrected, by the thermistor's reading or, on VBAT alone, by the
last one. -/
def execCalendarComp (temp : Option Int) (s : State) : Result :=
  if s.hreg Reg.CAL_COMP.ENABLE = 0 then .next s
  else
    let s0 := match temp with
      | none => s
      | some t => s.hset Reg.CAL_STATUS.TEMP (ofSigned 8 t)
    let c := fun (k : RegField) => toSigned k.width (s.hreg k)
    let dt := toSigned 8 (s0.hreg Reg.CAL_STATUS.TEMP) - c Reg.CAL_COMP.T0
    let a := s.hub.cal.acc + c Reg.CAL_COMP.C0 + c Reg.CAL_COMP.C1 * dt + c Reg.CAL_COMP.C2 * dt * dt
    let set := fun (t : State) (v : Int) => t.updHub (fun H => { H with cal := { H.cal with acc := v } })
    let a1 := if 125000 ≤ a then a - 125000 else a
    let s1 := if 125000 ≤ a then s0.updHub (fun H => { H with cal := { H.cal with skip := H.cal.skip + 1 } }) else s0
    if a1 ≤ -125000 then .next ((set s1 (a1 + 125000)).calSet (s1.calTime + 1)) else .next (set s1 a1)

/-- CAL_APPLY (R535): at the next crystal edge after a write of APPLY. -/
def execCalApply (s : State) : Result :=
  if s.hreg Reg.CAL_SET.APPLY = 0 then .next s
  else
    let s1 := (s.hset Reg.CAL_TIME.SEC (s.hreg Reg.CAL_SET.SEC)).hset Reg.CAL_TIME.FRAC (s.hreg Reg.CAL_SET.FRAC)
    .next ((s1.hset Reg.CAL_TIME.VALID 1).hset Reg.CAL_SET.APPLY 0)

/-- VBAT_LOW (R533): VBAT falls below 2.2 V while main power is present. -/
def execVbatLow (s : State) : Result :=
  if s.hreg Reg.CAL_STATUS.VBAT_LOW = 1 then .next s
  else finish ((s.hset Reg.CAL_STATUS.VBAT_LOW 1).raiseHub Ev.CAL_VBAT_LOW [])

/-- The next power-up finds that the oscillator stopped or VBAT fell below 2.0 V (R533). -/
def State.calLost (s : State) : State :=
  let s1 := ((s.hset Reg.CAL_STATUS.OSC_STOP 1).hset Reg.CAL_TIME.VALID 0).calSet 0
  s1.raiseHub Ev.CAL_OSC_STOPPED []

end Sys2Proof.Machine
end

