-- ==== Sys2Proof/Machine/Power.lean ====
section
/-! DEFINITION. Power and temperature (R630 to R671): operating modes, the ramp governor, the PWR_WARN_N hold, rails,
start tokens, sensors, drops, throttle, THERMTRIP, pin channels and the alert pin. -/

namespace Sys2Proof.Machine

open Sys2Proof

/-- The level of a rail's PGOOD: of a field, or of VDD_OPT (4). -/
def railOpt : Nat := 4
def State.railUp (s : State) (k : Nat) : Bool := bit s.hub.pwr.rails k

def State.updPwr (s : State) (g : PowerUnit → PowerUnit) : State := s.updHub (fun H => { H with pwr := g H.pwr })
def State.thm (s : State) (f : FieldId) : ThermUnit := (s.field f).thm
def State.updThm (s : State) (f : FieldId) (g : ThermUnit → ThermUnit) : State :=
  s.updField f (fun F => { F with thm := g F.thm })

/-! ### Operating modes (R636 to R638) -/

def modePeak : Nat := 0
def modeThroughput : Nat := 1
def modeEfficiency : Nat := 2
def modeHold : Nat := 3

/-- Package power limit of a mode, W. -/
def modeLimit (m : Nat) : Nat := match m with | 0 => 2800 | 1 => 2400 | 2 => 1750 | _ => 1100

/-- VSEL of a mode, when requested. -/
def modeVsel (m : Nat) : Nat := match m with | 0 => 2 | 1 => 1 | _ => 0

def State.mode (s : State) : Nat := s.hreg Reg.PWR_MODE_STATUS.MODE
def State.inHold (s : State) : Bool := decide (s.hreg Reg.PWR_MODE_STATUS.HOLD = 1)
def State.govOn (s : State) : Bool := decide (s.hreg Reg.PWR_GOV_CTL.GOV_EN = 1)

/-- The limit in effect (R641, R661). -/
def State.powerLimit (s : State) : Nat :=
  if s.inHold then 1100
  else
    let l := s.hreg Reg.PWR_MODE_CTL.LIMIT_W
    if l = 0 then modeLimit s.mode else min (modeLimit s.mode) l

/-- The limit has changed: g drops to a lower one at once (R642). -/
def State.limitChange (s : State) : State :=
  let s1 := s.hset Reg.PWR_RAMP_STAT.LIMIT s.powerLimit
  if s.govOn then s1.hset Reg.PWR_RAMP_STAT.GOVERNED (min (s.hreg Reg.PWR_RAMP_STAT.GOVERNED) s.powerLimit) else s1

/-- The operating point of a field: the package mode lowered by its drops (R638). -/
def State.pointOf (s : State) (f : FieldId) : Nat := min modeHold (s.mode + s.freg f Reg.THM_FIELD_STATUS.DROPS)

/-- POINT of a field in the package's register (R662). -/
def pointReg (f : FieldId) : RegField :=
  match f.val with
  | 0 => Reg.PWR_MODE_STATUS.POINT_0
  | 1 => Reg.PWR_MODE_STATUS.POINT_1
  | 2 => Reg.PWR_MODE_STATUS.POINT_2
  | _ => Reg.PWR_MODE_STATUS.POINT_3

/-- A field's operating point follows the mode and its drops. -/
def State.setPoint (s : State) (f : FieldId) : State :=
  (s.hset (pointReg f) (s.pointOf f)).fset f Reg.THM_FIELD_STATUS.POINT (s.pointOf f)

/-- The plot clocks change to a mode. -/
def State.clocksTo (s : State) (m : Nat) : State :=
  (allFields.foldl (fun (t : State) f => t.setPoint f) (s.hset Reg.PWR_MODE_STATUS.MODE m)).limitChange

/-- VSEL_Ff of every field not DARK (R632, R637); the package's register shows the code of the mode. -/
def State.setVsel (s : State) (v : Nat) : State :=
  let fs := allFields.filter (fun (f : FieldId) => decide (s.svc f ≠ svcDark))
  (s.hset Reg.PWR_MODE_STATUS.VSEL v).updPwr (fun P => { P with vsel := fs.foldl (fun m (f : FieldId) => SMap.set m 1 f.val v) P.vsel })

/-- The code the hub drives on VSEL_Ff. -/
def State.vselOf (s : State) (f : FieldId) : Nat := SMap.get s.hub.pwr.vsel 1 f.val

/-- A change of mode starts (R637): voltage first when it rises, clocks first when it does not. -/
def State.modeStart (s : State) : State :=
  let m := s.hreg Reg.PWR_MODE_STATUS.REQ
  let up := decide (s.hreg Reg.PWR_MODE_STATUS.VSEL < modeVsel m)
  let s1 := (s.hset Reg.PWR_MODE_STATUS.PENDING 0).hset Reg.PWR_MODE_STATUS.CHANGING 1
  let s2 := s1.updPwr (fun P => { P with from_ := s.mode, target := m, clocks := up, markDue := false })
  if up then s2.setVsel (modeVsel m) else s2.clocksTo m

/-- A pending request takes effect when no mark is awaited, no hold is in force and no change is in progress; with no rim
in service there is no mark to await. -/
def State.modeTry (s : State) : State :=
  if s.hreg Reg.PWR_MODE_STATUS.PENDING = 1 ∧ (s.hub.pwr.markDue = false ∨ s.lowRim = none) ∧ s.inHold = false ∧
      s.hreg Reg.PWR_MODE_STATUS.CHANGING = 0 then s.modeStart
  else s

/-- A request of a mode, under AT_MARK. -/
def State.modeRequest (s : State) (m : Nat) (atMark : Bool) : State :=
  let s1 := (s.hset Reg.PWR_MODE_STATUS.REQ m).hset Reg.PWR_MODE_STATUS.PENDING 1
  (s1.updPwr (fun P => { P with markDue := atMark && s.lowRim.isSome })).modeTry

/-- The request the register holds applies, unless a pin channel keeps the package in Hold (R650). -/
def State.modeFromReg (s : State) : State :=
  if s.hub.pwr.crit ≠ 0 then s
  else s.modeRequest (s.hreg Reg.PWR_MODE_CTL.MODE) (decide (s.hreg Reg.PWR_MODE_CTL.AT_MARK = 1))

/-- POWER_MODE_REQUEST (R637, R661): a write of PWR_MODE_CTL. -/
def execPowerModeRequest (mode : Fin 4) (atMark : Bool) (limit : Nat) (s : State) : Result :=
  let s1 := (s.hset Reg.PWR_MODE_CTL.MODE mode).hset Reg.PWR_MODE_CTL.AT_MARK (b2n atMark)
  finish (((s1.hset Reg.PWR_MODE_CTL.LIMIT_W limit).limitChange).modeFromReg)

/-- POWER_MODE_CHANGE (R637): a pending request whose conditions now hold takes effect. -/
def execPowerModeChange (s : State) : Result := finish s.modeTry

/-- POWER_MODE_CHANGE_COMPLETE (R637). -/
def execPowerModeChangeComplete (s : State) : Result :=
  if s.hreg Reg.PWR_MODE_STATUS.CHANGING = 0 then .next s
  else
    let P := s.hub.pwr
    let s1 := if P.clocks then s.clocksTo P.target else s
    let s2 := (s1.setVsel (modeVsel P.target)).hset Reg.PWR_MODE_STATUS.CHANGING 0
    finish ((s2.raiseHub Ev.HUB_POWER_MODE [(1, P.from_), (1, P.target), (1, modeVsel P.target)]).modeTry)

/-- The field whose marks a mode request waits for (R637). -/
def State.modeField (s : State) : Option FieldId := match s.lowReady with | some f => some f | none => s.lowRim

/-- The package's stagger delay in microseconds (R643). -/
def State.staggerDelay (s : State) : Nat :=
  s.pkgNode % 0x2000 * 0x9E3779B1 % 2 ^ 32 / 2 ^ 16 % (s.hreg Reg.PWR_GOV_CTL.STAGGER_US + 1)

/-- The governor at a mark of the lowest-numbered field in READY: RELEASED is cleared until the stagger delay is over, and
RATE_MAX starts again (R643, R664). -/
def State.governMark (s : State) : State :=
  ((s.hset Reg.PWR_RAMP_STAT.RELEASED 0).hset Reg.PWR_RAMP_STAT.RATE_MAX 0).updPwr
    (fun P => { P with releaseAt := s.now + s.staggerDelay * 1000 + 1 })

/-- What the hub does at a field's mark (R637, R643, R664). DEDUCED (log entry 39): a request kept pending by a hold or by a
change in progress waits, "under its own AT_MARK", for the first mark after it. -/
def State.hubMark (s : State) (f : FieldId) : State :=
  let s1 := if s.lowReady = some f then s.governMark else s
  if s1.hub.pwr.markDue ∧ s1.modeField = some f ∧ s1.inHold = false ∧ s1.hreg Reg.PWR_MODE_STATUS.CHANGING = 0 then
    (s1.updPwr (fun P => { P with markDue := false })).modeTry
  else s1

/-! ### The ramp governor (R639 to R644) -/

/-- The governor's duty and ballast reach the fields; a throttled field, or one below the package mode, receives no
ballast (R641); a field in hub-lost operation keeps what it had (R658). -/
def State.governFields (s : State) : State :=
  let d := s.hreg Reg.PWR_RAMP_STAT.DUTY
  let b := s.hreg Reg.PWR_RAMP_STAT.BALLAST
  allFields.foldl (fun (t : State) f =>
    if (t.field f).hubLost then t
    else
      let none := decide (t.freg f Reg.THM_FIELD_STATUS.THROTTLE = 1) || decide (t.mode < t.pointOf f)
      t.updThm f (fun T => { T with duty := d, ballast := if none then 0 else b })) s

/-- Largest change of p over 1 ms (R664). -/
def State.rateMax (s : State) (p : Nat) : State :=
  let l := s.hub.pwr.powers
  let s1 := match l[99]? with
    | none => s
    | some q => s.hset Reg.PWR_RAMP_STAT.RATE_MAX (max (s.hreg Reg.PWR_RAMP_STAT.RATE_MAX) (min 0xFFFF (max (p - q) (q - p))))
  s1.updPwr (fun P => { P with powers := (p :: P.powers).take 100 })

/-- Whether p is above the limit by more than 5 %; for 1 ms of it the event, at most once per second (R659, R664). -/
def State.powerExceed (s : State) (p : Nat) : State :=
  let limit := s.powerLimit
  if 105 * limit < 100 * p then
    let n := s.hub.pwr.overRun + 1
    let s1 := (s.hset Reg.PWR_RAMP_STAT.EXCEED (s.hreg Reg.PWR_RAMP_STAT.EXCEED + 1)).updPwr (fun P => { P with overRun := n })
    let last := s.hub.pwr.limitAt
    if 100 ≤ n ∧ (last = 0 ∨ last + 1000000000 ≤ s.now + 1) then
      (s1.updPwr (fun P => { P with limitAt := s.now + 1 })).raiseHub Ev.HUB_POWER_LIMIT [(2, min p 0xFFFF), (2, limit)]
    else s1
  else s.updPwr (fun P => { P with overRun := 0 })

/-- The procedure of R641 for one period. -/
def State.govern (s : State) (p pb : Nat) (wantUp : Bool) : State :=
  let step := s.hreg Reg.PWR_GOV_CTL.RATE / 100
  let limit := s.powerLimit
  let hold := s.inHold
  let bEn := decide (s.hreg Reg.PWR_GOV_CTL.BALLAST_EN = 1) && !hold
  let inJob := allFields.any (fun (f : FieldId) => decide (s.svc f = svcReady) && decide (s.allot f ≠ 0))
  let fl := if bEn && inJob then min limit (modeLimit s.mode * s.hreg Reg.PWR_GOV_CTL.FLOOR_PCT / 100) else 0
  let t := if s.hreg Reg.PWR_RAMP_STAT.RELEASED = 1 ∧ wantUp = true then limit else max fl (p - pb)
  let g0 := s.hreg Reg.PWR_RAMP_STAT.GOVERNED
  let g := min limit (if g0 < t then min t (g0 + step) else max t (g0 - step))
  let duty := s.hreg Reg.PWR_RAMP_STAT.DUTY
  let bal := s.hreg Reg.PWR_RAMP_STAT.BALLAST
  let (duty', bal') :=
    if g + 25 < p then (if 0 < bal then (duty, bal - 1) else (max (duty - 1) 1, bal))
    else if p + 25 < g then
      (if duty < 64 then (duty + 1, bal) else if bEn then (duty, min (bal + 1) 64) else (duty, bal))
    else (duty, bal)
  ((s.hset Reg.PWR_RAMP_STAT.GOVERNED g).hset Reg.PWR_RAMP_STAT.DUTY duty').hset Reg.PWR_RAMP_STAT.BALLAST bal'

/-- With the governor off, duty is 64 and ballast 0 (R641). -/
def State.governOff (s : State) : State :=
  ((s.hset Reg.PWR_RAMP_STAT.DUTY 64).hset Reg.PWR_RAMP_STAT.BALLAST 0).governFields

/-- GOVERNOR_PERIOD (R639, R641): p and pb as the hub estimates them, and whether a ready row was held. -/
def execGovernorPeriod (p pb : Nat) (wantUp : Bool) (s : State) : Result :=
  let s1 := ((s.hset Reg.PWR_RAMP_STAT.POWER (min p 0xFFFF)).hset Reg.PWR_RAMP_STAT.BALLAST_W (min pb 0xFFFF)).hset
    Reg.PWR_RAMP_STAT.LIMIT s.powerLimit
  let s2 := (s1.rateMax p).powerExceed p
  finish (if s.govOn then (s2.govern p pb wantUp).governFields else s2.governOff)

/-- RAMP_RELEASE (R643): RELEASED is set once the stagger delay after the mark is over. -/
def execRampRelease (s : State) : Result :=
  let P := s.hub.pwr
  if P.releaseAt = 0 ∨ s.now + 1 < P.releaseAt then .next s
  else .next ((s.hset Reg.PWR_RAMP_STAT.RELEASED 1).updPwr (fun P => { P with releaseAt := 0 }))

/-! ### Start and stop tokens, ballast (R111, R634) -/

/-- START_TOKEN_GRANT (R634): the oldest request of the field is granted. -/
def execStartTokenGrant (f : FieldId) (s : State) : Result := s.inRim f <|
  match (s.thm f).tokens with
  | [] => .next s
  | (p, start) :: rest =>
    let s1 := s.updThm f (fun T => { T with tokens := rest })
    .next (s1.updPlot f (plotIx p) (fun P => { P with tine := if start then { P.tine with dormant := false } else { P.tine with stopTok := true } }))

/-- PLOT_DORMANT (R634): no row has entered for 256 plot cycles. The plot asks for a stop token, and becomes dormant
once it holds one. -/
def execPlotDormant (f : FieldId) (p : PlotId) (s : State) : Result :=
  let t := (s.plot f p).tine
  if t.dormant then .next s
  else if t.stopTok then .next (s.updPlot f p (fun P => { P with tine := { P.tine with dormant := true, stopTok := false } }))
  else .next (s.tokenAsk f p false)

/-- Whether ballast rows may enter a plot (R634, R641, R645): by the governor's level, or while it waits for a stop
token. -/
def State.ballastOk (s : State) (f : FieldId) (p : PlotId) : Bool :=
  s.stopWaits f p ||
    (decide (0 < (s.thm f).ballast) && !(s.thm f).hold && decide (s.freg f Reg.THM_FIELD_STATUS.THROTTLE = 0) &&
      decide (s.pointOf f = s.mode))

/-- BALLAST_ROW (R111, R634, R673): while no row of a tile operation is ready to enter, a dummy row enters; its results are
discarded and no register of the tines changes. A stop row, of a plot that waits for a stop token, enters before a row of a tile
operation. In a dormant plot a row waits for a start token. -/
def execBallastRow (f : FieldId) (p : PlotId) (_t : TineId) (s : State) : Result :=
  let P := s.plot f p
  let ready := match s.passGate f p with
    | .ready _ _ _ => true
    | _ => false
  if (ready && !s.stopWaits f p) || !s.ballastOk f p || !s.partitionUp f then .next s
  else if P.tine.dormant then .next (s.tokenAsk f p true)
  else .next (s.updPlot f p (fun P => { P with tine := { P.tine with ballast := P.tine.ballast + 1 } }))

/-- DROOP_DETECTOR_TRIP (R43, R181): the clock generator stretches a number of cycles. -/
def execDroopDetectorTrip (f : FieldId) (p : PlotId) (cycles : Nat) (s : State) : Result :=
  .next ((s.pcount f p Reg.PLT_CLOCK_STAT.DROOP_TRIPS).pwrap f p Reg.PLT_CLOCK_STAT.STRETCHED cycles)

/-! ### The PWR_WARN_N hold (R645, R646) -/

/-- Whether the hub and the rims see PWR_WARN_N asserted. -/
def PowerUnit.warn (P : PowerUnit) : Bool := P.warnPin || P.warnInj

/-- PWR_WARN_N becomes asserted: a hold is entered. -/
def State.holdEnter (s : State) (inj : Bool) : State :=
  let s1 := allFields.foldl (fun (t : State) f =>
    if t.svc f = svcDark then t else t.updThm f (fun T => { T with hold := true })) s
  let s2 := ((s1.hset Reg.PWR_MODE_STATUS.HOLD 1).hcount Reg.PWR_MODE_STATUS.HOLD_COUNT).updPwr (fun P => { P with holdOff := false })
  let s3 := (s2.limitChange).hset Reg.PWR_RAMP_STAT.BALLAST 0
  (s3.updPwr (fun P => { P with holdInj := inj })).raiseHub Ev.HUB_POWER_HOLD [(1, 0), (2, s3.hreg Reg.PWR_MODE_STATUS.HOLD_COUNT)] inj

/-- The level of PWR_WARN_N, as seen, becomes what the land and the injection point make it. -/
def State.warnSet (s : State) (pin inj : Bool) : State :=
  let was := s.hub.pwr.warn
  let s1 := s.updPwr (fun P => { P with warnPin := pin, warnInj := inj, holdInj := P.holdInj && !pin })
  if !was && (pin || inj) then s1.holdEnter (inj && !pin)
  else if was && !(pin || inj) then s1.updPwr (fun P => { P with holdOff := true })
  else s1

/-- PWR_WARN_ASSERT (R645). -/
def execPwrWarnAssert (s : State) : Result := finish (s.warnSet true s.hub.pwr.warnInj)
/-- PWR_WARN_DEASSERT (R646): the wait of HOLD_OFF_US begins. -/
def execPwrWarnDeassert (s : State) : Result := finish (s.warnSet false s.hub.pwr.warnInj)

/-- HOLD_END (R646): PWR_WARN_N has been deasserted for HOLD_OFF_US. -/
def execHoldEnd (s : State) : Result :=
  if !s.inHold || !s.hub.pwr.holdOff then .next s
  else
    let s1 := allFields.foldl (fun (t : State) f => t.updThm f (fun T => { T with hold := false })) s
    let s2 := (s1.hset Reg.PWR_MODE_STATUS.HOLD 0).updPwr (fun P => { P with holdOff := false })
    let s3 := (s2.hset Reg.PWR_RAMP_STAT.GOVERNED (min (s.hreg Reg.PWR_RAMP_STAT.POWER) s2.powerLimit)).limitChange
    finish ((s3.raiseHub Ev.HUB_POWER_HOLD [(1, 1), (2, s3.hreg Reg.PWR_MODE_STATUS.HOLD_COUNT)] s.hub.pwr.holdInj).modeTry)

/-! ### Rails (R27, R631, R633) -/

/-- A field becomes DARK: its ports are dark, its die-to-die links down, its HBM unreachable and so in service no more
(R27, R30, R32), and the packets in its rim's buffers are lost (R371). -/
def State.fieldDark (s : State) (f : FieldId) : State :=
  if s.svc f = svcDark then s
  else
    let s0 := (((s.setSvc f svcDark).hset Reg.HUB_FIELD_STATE.HBM0_OK 0 0 f).hset Reg.HUB_FIELD_STATE.HBM1_OK 0 0 f).updField f
      (fun F => { F with router := { F.router with d2dq := [], d2dtx := [], issued := [], mcasts := [], inbox := [], comb := [] } })
    let s1 := s0.resetPartition f
    let s2 := (List.range 16).foldl (fun (t : State) k =>
      let n : PortId := (BitVec.ofNat 4 k).toFin
      (t.linkDarken f n).updPort f n (fun P => { P with shutter := false })) s1
    s2.d2dFieldDown f

/-- RIM_FATAL_ERROR (R27). -/
def execRimFatalError (f : FieldId) (s : State) : Result := finish (s.fieldDark f)

/-- A rail's PGOOD rises or falls. -/
def State.setRail (s : State) (k : Nat) (up : Bool) : State := s.updPwr (fun P => { P with rails := setBit P.rails k up })

/-- VDD_OPT is up, and its register shows it. -/
def State.optUp (s : State) : State := (s.hset Reg.PWR_RAIL_STATUS.PGOOD_OPT 1).setRail railOpt true

/-- A rail enable of a field is deasserted. -/
def State.pwrenDrop (s : State) (f : FieldId) : State :=
  ((s.setRail f false).hset Reg.PWR_RAIL_STATUS.PWREN (setBit (s.hreg Reg.PWR_RAIL_STATUS.PWREN) f false)).hset Reg.PWR_RAIL_STATUS.PGOOD
    (setBit (s.hreg Reg.PWR_RAIL_STATUS.PGOOD) f false)

/-- A field's rails have failed. -/
def State.pgoodFall (s : State) (f : FieldId) : Result :=
  if s.railUp f then
    finish ((((s.pwrenDrop f).hcount Reg.PWR_RAIL_STATUS.FAULTS).raiseHub Ev.HUB_RAIL_FAULT [(1, f)]).fieldDark f)
  else .next s

/-- VDD_OPT has failed. -/
def State.optFall (s : State) : Result :=
  if s.railUp railOpt then
    finish (((((s.hset Reg.PWR_RAIL_STATUS.PGOOD_OPT 0).setRail railOpt false).hcount Reg.PWR_RAIL_STATUS.FAULTS).raiseHub Ev.HUB_RAIL_FAULT [(1, 4)]).allDark)
  else .next s

/-- PGOOD_FALL (R633): of a field's rails, or of VDD_OPT. -/
def execPgoodFall (rail : Option FieldId) (s : State) : Result :=
  match rail with
  | some f => s.pgoodFall f
  | none => s.optFall

/-- PGOOD_OPT has not risen 20 ms after PWREN_OPT (R631). -/
def State.optTimeout (s : State) : State :=
  ((s.hset Reg.PWR_RAIL_STATUS.PWREN_OPT 0).raiseHub Ev.HUB_RAIL_FAULT [(1, 4)]).allDark

/-- PGOOD_OPT_TIMEOUT (R631). -/
def execPgoodOptTimeout (s : State) : Result :=
  if s.hreg Reg.PWR_RAIL_STATUS.PWREN_OPT = 1 ∧ s.railUp railOpt = false then finish s.optTimeout else .next s

/-! ### THERMTRIP (R655) -/

/-- THERMTRIP by a sensor of a field, or of the hub. -/
def State.thermtrip (s : State) (src : Option FieldId) (sensor temp : Nat) (inj : Bool) : State :=
  if s.hub.pwr.trip then s
  else
    let f := match src with | none => 0 | some f => f.val
    let s1 := ((((s.updPwr (fun P => { P with trip := true })).hset Reg.THM_TRIP_STATUS.TRIPPED 1).hset Reg.THM_TRIP_STATUS.SOURCE
      (b2n src.isNone)).hset Reg.THM_TRIP_STATUS.FIELD f).hset Reg.THM_TRIP_STATUS.SENSOR sensor
    let s2 := ((s1.hset Reg.THM_TRIP_STATUS.TEMP temp).i3cSend 0 i3cOff 0).i3cSend 1 i3cOff 0
    s2.raiseHub Ev.HUB_THERMTRIP [(1, b2n src.isNone), (1, f), (1, sensor)] inj

/-! ### On-die sensors (R649, R651 to R654) -/

/-- Why a reading shows a sensor broken (R651): 0 open or shorted, 1 out of range, 2 too far from the last one. -/
def sensorBroken (t : Option Int) (last : Option Int) (lo hi jump : Int) : Option Nat :=
  match t with
  | none => some 0
  | some t =>
    if t < lo ∨ hi < t then some 1
    else match last with
      | none => none
      | some u => if jump < (t - u).natAbs then some 2 else none

/-- A field's sensor is broken: its event, once. -/
def State.sensorBreak (s : State) (f : FieldId) (i reason : Nat) (inj : Bool) : State :=
  if bit (s.thm f).broken i then s
  else
    let s1 := s.updThm f (fun T => { T with
      broken := setBit T.broken i true, brokenInj := setBit T.brokenInj i inj, hist := SMap.erase T.hist i })
    let s2 := (s1.fset f Reg.THM_FIELD_STATUS.BROKEN (popcount 64 (s1.thm f).broken)).fcount f Reg.THM_EVT_CNT.SENSORS
    let s3 := s2.raise f Ev.HLT_THERM_SENSOR [(1, f), (1, i), (1, reason)] inj
    s3.healthInput f inj

/-- One sensor of a field is sampled. -/
def State.sensorRead (s : State) (f : FieldId) (i : Nat) (t : Option Int) (inj : Bool) : State :=
  let T := s.thm f
  if bit T.broken i then s
  else
    let h := SMap.get T.hist [] i
    match sensorBroken t h.head? (-160) 600 60 with
    | some r => s.sensorBreak f i r inj
    | none => s.updThm f (fun T => { T with hist := SMap.insert T.hist i ((t.getD 0 :: h).take 21) })

/-- The largest of pairs of index and value, the lowest index among equals. -/
def maxAt (l : List (Nat × Int)) : Option (Nat × Int) :=
  l.foldl (fun a x => match a with
    | none => some x
    | some y => if y.2 < x.2 then some x else some y) none

/-- TMAX with its sensor, in 0.25 °C. -/
def ThermUnit.tmax (T : ThermUnit) : Option (Nat × Int) :=
  maxAt (T.hist.filterMap (fun e => (e.2.head?).map (fun t => (e.1, t))))

/-- RMAX with its sensor, in 0.125 °C/ms, over sensors with a whole window. -/
def ThermUnit.rmax (T : ThermUnit) : Option (Nat × Int) :=
  maxAt (T.hist.filterMap (fun e => match e.2.head?, e.2[20]? with
    | some t, some u => some (e.1, 10 * (t - u))
    | _, _ => none))

/-- A thermal rise or drop has been reported; the headland's failures near it are laid to it (R657). -/
def State.thermSeen (s : State) (f : FieldId) : State :=
  s.updField f (fun F => { F with hlt := { F.hlt with thermAt := s.now + 1 } })

/-- WARN and its event (R652). -/
def State.thermRise (s : State) (f : FieldId) (sensor : Nat) (r : Int) (inj : Bool) : State :=
  let s1 := s.fset f Reg.THM_FIELD_STATUS.WARN (b2n (decide (40 ≤ r)))
  let last := (s.thm f).riseAt
  if 40 ≤ r ∧ (last = 0 ∨ last + 10000000 ≤ s.now + 1) then
    (((((s1.updThm f (fun T => { T with riseAt := s.now + 1 })).fcount f Reg.THM_EVT_CNT.WARNINGS).raise f Ev.HLT_THERM_RISE
      [(1, f), (1, sensor), (2, ofSigned 12 (clampInt r (-2048) 2047))] inj).thermSeen f).healthInput f inj)
  else s1

/-- A drop of the operating point (R653). -/
def State.thermDrop (s : State) (f : FieldId) (r : Int) (inj : Bool) : State :=
  let d := s.freg f Reg.THM_FIELD_STATUS.DROPS
  let last := (s.thm f).dropAt
  if r < 80 ∨ 3 ≤ d ∨ (last ≠ 0 ∧ s.now + 1 < last + 200000) then s
  else
    let s1 := ((s.fset f Reg.THM_FIELD_STATUS.DROPS (d + 1)).setPoint f).updThm f (fun T => { T with dropAt := s.now + 1 })
    (((s1.fcount f Reg.THM_EVT_CNT.DROPS).raise f Ev.HLT_THERM_DROP
      [(1, f), (1, s1.pointOf f), (1, d + 1), (2, ofSigned 12 (clampInt r (-2048) 2047))] inj).thermSeen f).healthInput f inj

/-- Whether a throttle entry counts as environment (R656): a channel of role INLET at or above WARN, or another field
that entered throttle within 10 ms. -/
def State.throttleEnv (s : State) (f : FieldId) : Bool :=
  (List.range 12).any (fun n => decide (s.hreg Reg.THM_PIN_CFG.ROLE n = 1) && bit (s.hreg Reg.THM_PIN_STATUS.WARN) n) ||
    allFields.any (fun (g : FieldId) => decide (g ≠ f) && decide ((s.thm g).thrAt ≠ 0) && decide (s.now + 1 ≤ (s.thm g).thrAt + 10000000))

/-- THROTTLE_ENTRY (R654): cause 0 TMAX, 1 a broken sensor. -/
def State.throttleEnter (s : State) (f : FieldId) (tmax : Nat) (cause : Nat) (inj : Bool) : State :=
  let s1 := ((s.fset f Reg.THM_FIELD_STATUS.THROTTLE 1).fset f Reg.THM_FIELD_STATUS.TDUTY (s.thm f).duty).fcount f Reg.THM_EVT_CNT.THROTTLES
  let s2 := s1.updThm f (fun T => { T with thrAt := s.now + 1 })
  let s3 :=
    if cause ≠ 0 then s2.updField f (fun F => { F with hlt := { F.hlt with thrSens := F.hlt.thrSens + 1 } })
    else if s.throttleEnv f then s2.updField f (fun F => { F with hlt := { F.hlt with thrEnv := F.hlt.thrEnv + 1 } })
    else s2
  (s3.raise f Ev.HLT_THERM_THROTTLE [(1, f), (2, tmax), (1, cause)] inj).healthInput f inj

/-- TMAX as its register shows it (R669). -/
def tmaxCode (t : Int) : Nat := (clampInt t 0 1023).toNat

/-- The thresholds of a sample (R651 to R655). `truth`: TMAX of the readings as they are without an injection, which
the THERMTRIP test alone uses (R698). -/
def State.thermAct (s : State) (f : FieldId) (injAt : Option Nat) (truth : Option (Nat × Int)) : State :=
  let T := s.thm f
  let by_ := fun (i : Nat) => decide (injAt = some i)
  let nBroken := popcount 64 T.broken
  let s0 := if 4 < nBroken ∧ s.svc f ≠ svcUnfit then (s.setSvc f svcUnfit).resetPartition f else s
  let (hot, tm) := (T.tmax).getD (0, 508)
  let s1 := (s0.fset f Reg.THM_FIELD_STATUS.TMAX (tmaxCode tm)).fset f Reg.THM_FIELD_STATUS.HOT_SENSOR hot
  let s2 := match truth with
    | some (i, t) => if 420 ≤ t then s1.thermtrip (some f) i (t / 4).toNat false else s1
    | none => s1
  let s3 := match T.rmax with
    | none => s2
    | some (i, r) =>
      let u := s2.fset f Reg.THM_FIELD_STATUS.RATE (ofSigned 12 (clampInt r (-2048) 2047))
      (u.thermRise f i r (by_ i)).thermDrop f r (by_ i)
  let hotNow := T.tmax.isSome && decide (380 ≤ tm)
  if s3.freg f Reg.THM_FIELD_STATUS.THROTTLE = 1 then s3
  else if hotNow then s3.throttleEnter f (tmaxCode tm) 0 (by_ hot)
  else if T.broken ≠ 0 then s3.throttleEnter f (tmaxCode tm) 1 (decide (T.broken = T.brokenInj))
  else s3

/-- A sensor injection goes on to its next sample; after the last one it ends and its point is done (R697). -/
def State.sensorInjStep (s : State) (f : FieldId) : State :=
  match (s.thm f).inj with
  | none => s
  | some x =>
    if x.left ≤ 1 then (s.updThm f (fun T => { T with inj := none })).fset f Reg.INJ_PT.DONE 1 injThm
    else s.updThm f (fun T => { T with inj := some { x with left := x.left - 1, now := if x.ramp then x.now + x.step else x.now } })

/-- SENSOR_SAMPLE of a field. -/
def State.sensorSample (s : State) (f : FieldId) (readings : List (Option Int)) : State :=
  let injAt := ((s.thm f).inj).map SensorInj.sensor
  let add : Int := match (s.thm f).inj with | none => 0 | some x => (x.now : Nat)
  let s1 := (List.range 64).foldl (fun (t : State) i =>
    let hit := decide (injAt = some i)
    let r := (readings.getD i none).map (fun (v : Int) => if hit then v + add else v)
    t.sensorRead f i r hit) s
  let truth := maxAt (((s1.thm f).hist).filterMap (fun e => (e.2.head?).map (fun (t : Int) =>
    (e.1, if decide (injAt = some e.1) then t - add else t))))
  (s1.thermAct f injAt truth).sensorInjStep f

/-- One of the hub's eight junction sensors is sampled (R649, R651). -/
def State.hubSensor (s : State) (i : Nat) (t : Option Int) : State :=
  let P := s.hub.pwr
  if bit P.broken i then s
  else
    match sensorBroken t (SMap.get P.hist [] i).head? (-160) 600 60 with
    | some _ => s.updPwr (fun P => { P with broken := setBit P.broken i true })
    | none =>
      let v := t.getD 0
      let s1 := s.updPwr (fun P => { P with hist := SMap.insert P.hist i [v] })
      if 420 ≤ v then s1.thermtrip none i (v / 4).toNat false else s1

/-- The sensors of a field are sampled, where its rim is up. -/
def State.fieldSensors (s : State) (f : FieldId) (readings : List (Option Int)) : Result :=
  if s.rimUp f then finish ((s.sensorSample f readings).tlyTemp f) else .next s

/-- The hub's sensors are sampled. -/
def State.hubSensors (s : State) (readings : List (Option Int)) : Result :=
  finish ((List.range 8).foldl (fun (t : State) i => t.hubSensor i (readings.getD i none)) s)

/-- SENSOR_SAMPLE (R649): the on-die sensors of a field, or of the hub, with what each reads in 0.25 °C; none where its
self-check fails. -/
def execSensorSample (f : Option FieldId) (readings : List (Option Int)) (s : State) : Result :=
  match f with
  | some f => s.fieldSensors f readings
  | none => s.hubSensors readings

/-- DROP_RECOVER (R653): TMAX and RMAX have been low for 10 ms. -/
def execDropRecover (f : FieldId) (s : State) : Result := s.inRim f <|
  let d := s.freg f Reg.THM_FIELD_STATUS.DROPS
  let hot := match (s.thm f).tmax with | some (_, t) => decide (360 ≤ t) | none => true
  let fast := match (s.thm f).rmax with | some (_, r) => decide (20 ≤ r) | none => false
  if d = 0 ∨ hot = true ∨ fast = true then .next s
  else .next ((s.fset f Reg.THM_FIELD_STATUS.DROPS (d - 1)).setPoint f)

/-- TDUTY_STEP (R654): every 100 µs while the field throttles. -/
def execTdutyStep (f : FieldId) (s : State) : Result := s.inRim f <|
  if s.freg f Reg.THM_FIELD_STATUS.THROTTLE = 0 then .next s
  else
    let d := s.freg f Reg.THM_FIELD_STATUS.TDUTY
    let broken := decide ((s.thm f).broken ≠ 0)
    let tm := match (s.thm f).tmax with | some (_, t) => t | none => 508
    if 380 ≤ tm ∨ broken = true then .next (s.fset f Reg.THM_FIELD_STATUS.TDUTY (max 1 (d - 4)))
    else if tm < 372 then
      let d' := min 64 (d + 1)
      let s1 := s.fset f Reg.THM_FIELD_STATUS.TDUTY d'
      .next (if d' = 64 then s1.fset f Reg.THM_FIELD_STATUS.THROTTLE 0 else s1)
    else .next s

/-- The duty that applies in a field (R640, R645). -/
def State.dutyOf (s : State) (f : FieldId) : Nat :=
  let d := min (s.thm f).duty (s.freg f Reg.THM_FIELD_STATUS.TDUTY)
  if (s.thm f).hold then min d (s.hreg Reg.PWR_GOV_CTL.HOLD_DUTY) else d

/-! ### Pin channels (R650, R651) -/

/-- 2^64 ln(a / b) for positive a and b, within 2^16 (R650). -/
def lnFix (a b : Nat) : Int :=
  let up := fun (a b : Nat) =>
    let k := Nat.log2 (a / b)
    let c := b * 2 ^ k
    k * ln2Fix 64 + atanh2Fix 64 (a - c) (a + c)
  if b ≤ a then (up a b : Int) else -(up b a : Int)

/-- A thermistor's temperature by the β model (R650), in 2^-4 °C, rounded down, for 2^64 times the logarithm. -/
def betaTemp (beta : Nat) (l : Int) : Int :=
  let num : Int := ((29815 * beta * 2 ^ 64 * 16 * 100 : Nat) : Int)
  let den : Int := ((100 * beta * 2 ^ 64 : Nat) : Int) + 29815 * l
  if den ≤ 0 then 2 ^ 31 else (num / den - 27315 * 16) / 100

/-- A channel's measurement that its kind does not make is none. -/
def pinKind (n : Nat) (r : PinReading) : PinReading :=
  match r with
  | .ohms _ => if n < 8 then r else .fault
  | .diode _ => if 8 ≤ n then r else .fault
  | .fault => .fault

/-- What a channel's measurement reads: none where broken. Channels 0 to 7 read thermistors, 8 to 11 diodes (R650): a diode's
two currents give its temperature in kelvin at ideality 1, which IDEAL divides (PRESUMED: the spec names the measurement only,
log entry 44). Which of the two neighbouring codes an inexact temperature takes the spec does not state, nor what a channel of
NOM_OHMS, BETA or IDEAL 0 reads: these are free. -/
def State.pinTemp (s : State) (n : Nat) (r : PinReading) : State × Option Int :=
  match pinKind n r with
  | .fault => (s, none)
  | .diode k =>
    let ideal := s.hreg Reg.THM_PIN_CFG.IDEAL (n - 8)
    let (v, s1) := s.draw
    if ideal = 0 then (s1, some (toSigned 16 v))
    else (s1, some (((k * 2 ^ 14 / ideal : Nat) : Int) - 4370 - (v % 2 : Nat)))
  | .ohms r =>
    let nom := s.hreg Reg.THM_PIN_CFG.NOM_OHMS n
    let beta := s.hreg Reg.THM_PIN_CFG.BETA n
    if r < 100 ∨ 1000000 < r then (s, none)
    else if r = nom ∧ beta ≠ 0 then (s, some 400)
    else
      let (v, s1) := s.draw
      if nom = 0 ∨ beta = 0 then (s1, some (toSigned 16 v))
      else (s1, some (betaTemp beta (lnFix r nom) + (v % 2 : Nat)))

/-- A crossing of a channel (R650): kind 0 WARN, 1 CRIT, 2 BROKEN. -/
def State.pinEvent (s : State) (n kind : Nat) (set : Bool) (t : Int) (inj : Bool) : State :=
  s.raiseHub Ev.HUB_PIN_THERMAL [(1, n), (1, s.hreg Reg.THM_PIN_CFG.ROLE n), (1, kind), (1, b2n (!set)), (2, ofSigned 16 t)] inj

/-- A status bit of a channel changes, with its event. -/
def State.pinBit (s : State) (k : RegField) (n kind : Nat) (on : Bool) (t : Int) (inj : Bool) : State :=
  if bit (s.hreg k) n = on then s else (s.hset k (setBit (s.hreg k) n on)).pinEvent n kind on t inj

/-- The package is put into Hold by a channel at CRIT (R650). -/
def State.critHold (s : State) (n : Nat) : State :=
  if bit s.hub.pwr.crit n then s
  else
    let first := decide (s.hub.pwr.crit = 0)
    let s1 := s.updPwr (fun P => { P with crit := setBit P.crit n true })
    if first then s1.modeRequest modeHold false else s1

/-- A channel's thresholds act on a reading. -/
def State.pinAct (s : State) (n : Nat) (t : Int) (broken inj : Bool) : State :=
  let warn := toSigned 8 (s.hreg Reg.THM_PIN_CFG.WARN n) * 16
  let crit := toSigned 8 (s.hreg Reg.THM_PIN_CFG.CRIT n) * 16
  let u := if broken then crit else t
  let shown : Int := if broken then 0x7F0 else t
  let s1 := if warn ≤ u then s.pinBit Reg.THM_PIN_STATUS.WARN n 0 true shown inj
    else if u < warn - 32 then s.pinBit Reg.THM_PIN_STATUS.WARN n 0 false shown inj else s
  let s2 := s1.pinBit Reg.THM_PIN_STATUS.CRIT n 1 (decide (crit ≤ u)) shown inj
  let s3 := if broken then s2.pinBit Reg.THM_PIN_STATUS.BROKEN n 2 true shown inj else s2
  let s4 := s3.hset Reg.THM_PIN_TEMP.TEMP (ofSigned 16 shown) 0 n
  if crit ≤ u then s4.critHold n else s4

/-- A channel keeps the package in Hold no more: after the last one the previous request applies again (R650). -/
def State.critFree (s : State) (n : Nat) : State :=
  if !bit s.hub.pwr.crit n then s
  else
    let s1 := s.updPwr (fun P => { P with crit := setBit P.crit n false })
    if s1.hub.pwr.crit = 0 then s1.modeFromReg else s1

/-- A channel of ROLE NONE is not read and acts on nothing: its WARN and CRIT bits are 0 and it holds nothing. -/
def State.pinNone (s : State) (n : Nat) : State :=
  let s1 := (s.hset Reg.THM_PIN_STATUS.WARN (setBit (s.hreg Reg.THM_PIN_STATUS.WARN) n false)).hset Reg.THM_PIN_STATUS.CRIT
    (setBit (s.hreg Reg.THM_PIN_STATUS.CRIT) n false)
  (s1.updPwr (fun P => { P with pinLast := SMap.set P.pinLast none n none })).critFree n

/-- A channel is sampled. -/
def State.pinSample (s : State) (n : Nat) (r : PinReading) : State :=
  if s.hreg Reg.THM_PIN_CFG.ROLE n = 0 then s.pinNone n
  else if bit (s.hreg Reg.THM_PIN_STATUS.BROKEN) n then s.pinAct n 0 true false
  else
    let armed := decide (s.hreg Reg.INJ_HPT.ARM 0 = 1) && decide (s.hreg Reg.INJ_HPT.POINT 0 = 2) && decide (s.hreg Reg.INJ_HPT.TARGET 0 = n)
    let s0 := if armed then (s.hset Reg.INJ_HPT.ARM 0 0).hset Reg.INJ_HPT.DONE 1 0 else s
    let (s1, t0) := s0.pinTemp n r
    let t := if armed then some (toSigned 16 (s.hreg Reg.INJ_HPT.ARG 0)) else t0
    let forced := bit s.hub.pwr.pinInj n
    let last := SMap.get s.hub.pwr.pinLast none n
    let bad := forced || (sensorBroken t last (-640) 2400 160).isSome
    let s2 := s1.updPwr (fun P => { P with pinLast := SMap.set P.pinLast none n (if bad then none else t) })
    s2.pinAct n (t.getD 0) bad (armed || forced)

/-- PIN_SAMPLE (R650): every 1 ms. -/
def execPinSample (readings : List PinReading) (s : State) : Result :=
  finish ((List.range 12).foldl (fun (t : State) n => t.pinSample n (readings.getD n .fault)) s)

/-- PIN_CRIT_CLEAR (R650): a channel has read below WARN for 1 s. -/
def execPinCritClear (n : Fin 12) (s : State) : Result :=
  let warn := toSigned 8 (s.hreg Reg.THM_PIN_CFG.WARN n) * 16
  if !bit s.hub.pwr.crit n || bit (s.hreg Reg.THM_PIN_STATUS.BROKEN) n ||
      decide (warn ≤ toSigned 16 (s.hreg Reg.THM_PIN_TEMP.TEMP 0 n)) then .next s
  else finish (s.critFree n)

/-! ### Pins (R655, R659) -/

/-- Whether stage POWER drives ALERT_N, which is high-impedance until then (R551, R655). -/
def State.pinsDriven (s : State) : Bool := decide (s.hreg Reg.SEED_STAGE.STAGE ≠ 0) || s.hub.seed.begun

/-- THERMTRIP_N is driven low: once pulled low, through every reset until VDD_HUB is removed (R655, R706). -/
def State.thermtripLow (s : State) : Bool := s.hub.pwr.trip

/-- ALERT_N is driven low (R659). -/
def State.alertLow (s : State) : Bool :=
  let m := s.hreg Reg.THM_CTL.ALERT_MASK
  s.thermtripLow || s.pinsDriven && ((bit m 0 && decide (s.hreg Reg.THM_PIN_STATUS.WARN ≠ 0)) ||
    (bit m 1 && decide (s.hreg Reg.THM_PIN_STATUS.CRIT ≠ 0)) || (bit m 2 && s.inHold) ||
    (bit m 3 && allFields.any (fun (f : FieldId) => decide (s.freg f Reg.THM_FIELD_STATUS.THROTTLE = 1) || decide (s.mode < s.pointOf f))) ||
    (bit m 4 && decide (100 ≤ s.hub.pwr.overRun)))

end Sys2Proof.Machine
end

