-- ==== Sys2Proof/Machine/Inject.lean ====
section
/-! DEFINITION. Fault injection (R512 to R514, R696, R697): the lock, arming of a point, effects that last for a time,
and entry into hub-lost operation, which closes the lock for a field (R35). -/

namespace Sys2Proof.Machine

open Sys2Proof

/-! ### Effects in progress -/

/-- A point of field f's register r has fired and its effect is over: DONE sets. -/
def State.injDone (s : State) (f : FieldId) (r : Nat) : State := s.fset f Reg.INJ_PT.DONE 1 r

/-- The effect in progress of a rim's injection register ends (R696). -/
def State.fxEnd (s : State) (f : FieldId) (r : Nat) : State :=
  match SMap.find (s.field f).fx r with
  | none => s
  | some (point, target, _) =>
    let s1 := (s.updField f (fun F => { F with fx := SMap.erase F.fx r })).injDone f r
    if r = injLink ∧ point = 8 then s1.updPort f (BitVec.ofNat 4 target).toFin (fun P => { P with withheld := none })
    else if r = injTly ∧ point = 2 then s1.updTly f (fun U => { U with beatStop := false })
    else if r = injTly ∧ point = 3 then s1.updTly f (fun U => { U with muted := setBit U.muted target false })
    else s1

/-- An effect that lasts begins. -/
def State.fxStart (s : State) (f : FieldId) (r point target arg : Nat) : State :=
  let s1 := s.fxEnd f r
  (s1.updField f (fun F => { F with fx := SMap.insert F.fx r (point, target, arg) })).fset f Reg.INJ_PT.ARM 0 r

/-- The effect in progress of a hub injection register ends. -/
def State.fxHubEnd (s : State) (r : Nat) : State :=
  match SMap.find s.hub.fx r with
  | none => s
  | some _ =>
    ((s.updHub (fun H => { H with fx := SMap.erase H.fx r })).hset Reg.INJ_HPT.DONE 1 r).warnSet s.hub.pwr.warnPin false

/-! ### Arming (R696, R697) -/

/-- Whether an armed point of a rim's register can fire: its object exists and is in the state the point needs. -/
def State.injValid (s : State) (f : FieldId) (r point target arg : Nat) : Bool :=
  let port : PortId := (BitVec.ofNat 4 target).toFin
  let P := s.port f port
  let lam := arg % 16
  let lit := decide (target < 16) && !s.engineDark f port
  s.rimUp f &&
  match r, point with
  | 0, 1 => decide (target < 2) && !(s.memu f).lost target
  | 0, 2 => decide (target < 2) && !(s.memu f).lost target
  | 0, 3 => decide (target < 2) && !(s.memu f).lost target
  | 0, 4 => s.partitionUp f && !(s.field f).vacant target
  | 0, 5 => s.partitionUp f && !(s.field f).vacant target
  | 1, 1 => lit && bit P.lock lam && decide (bits arg 4 5 ≠ 0)
  | 1, 2 => lit
  | 1, 3 => lit && !bit P.rx.failed lam && decide (bits arg 8 4 < 8)
  | 1, 4 => lit && !bit P.tx.failed lam
  | 1, 5 => lit
  | 1, 6 => lit
  | 1, 7 => lit && decide (s.link f port = lsActive)
  | 1, 8 => lit && decide (s.link f port = lsActive)
  | 2, 1 => nodeNamed (bits arg 0 16)
  | 2, 2 => true
  | 2, 3 => true
  | 2, 4 => true
  | 3, 1 => decide (target < 64) && (s.shfSlot f target).isSome
  | 3, 2 => decide (target < 64) && (s.shfSlot f target).isSome
  | 3, 3 => decide (target < 64) && (s.shfSlot f target).isSome
  | 4, 1 => decide (target < 2) && (s.mirSlot f target).on
  | 4, 2 => decide (target < 2) && (s.mirSlot f target).on
  | 4, 3 => decide (target < 2) && (s.mirSlot f target).on
  | 4, 4 => (s.mir f).src.on
  | 5, 1 => true
  | 5, 2 => decide (s.tlyState f = tsRoot)
  | 5, 3 => lit || (decide (16 ≤ target) && decide (target < 18))
  | 6, 1 => decide (target < 64) && !bit (s.thm f).broken target
  | 6, 2 => decide (target < 64) && !bit (s.thm f).broken target
  | 6, 3 => decide (target < 64) && !bit (s.thm f).broken target
  | _, _ => false

/-! What a valid point begins with as it is armed: one whose opportunity is the arming itself fires, one that lasts begins. Of
the points with no line here nothing happens before their opportunity comes. -/

def State.beginStackLost (s : State) (f : FieldId) (target : Nat) : State := (s.injFire f injMem).stackLost f target true

def portOf (target : Nat) : PortId := (BitVec.ofNat 4 target).toFin

def State.beginLaneFail (s : State) (f : FieldId) (target arg : Nat) : State :=
  (s.injFire f injLink).rxFail f (portOf target) (arg % 16) (bits arg 8 4) true

def State.beginRingUnlock (s : State) (f : FieldId) (target arg : Nat) : State :=
  let s1 := s.fxStart f injLink 4 target arg
  if 2 ≤ bits arg 4 16 then s1.txFail f (portOf target) (arg % 16) 0 true else s1

def State.beginRetrain (s : State) (f : FieldId) (target : Nat) : State := (s.injFire f injLink).linkRetrain f (portOf target) true

def State.beginNoAck (s : State) (f : FieldId) (target arg : Nat) : State :=
  (s.fxStart f injLink 8 target arg).updPort f (portOf target) (fun P => { P with withheld := some P.ack })

def State.beginBeatStop (s : State) (f : FieldId) (target arg : Nat) : State :=
  (s.fxStart f injTly 2 target arg).updTly f (fun U => { U with beatStop := true })

def State.beginBeaconMute (s : State) (f : FieldId) (target arg : Nat) : State :=
  (s.fxStart f injTly 3 target arg).updTly f (fun U => { U with muted := setBit U.muted target true })

def State.beginSensorBroken (s : State) (f : FieldId) (target : Nat) : State := (s.injFire f injThm).sensorBreak f target 0 true

def State.beginSensor (s : State) (f : FieldId) (ramp : Bool) (target arg : Nat) : State :=
  let n := bits arg 16 16
  let step := bits arg 0 10
  if n = 0 then s.injFire f injThm
  else (s.fset f Reg.INJ_PT.ARM 0 injThm).updThm f (fun T => { T with
    inj := some { sensor := target, step := step, ramp := ramp, now := step, left := n } })

/-- A valid point of a register is armed. -/
def State.injBegin (s : State) (f : FieldId) (r point target arg : Nat) : State :=
  match r, point with
  | 0, 3 => s.beginStackLost f target
  | 1, 3 => s.beginLaneFail f target arg
  | 1, 4 => s.beginRingUnlock f target arg
  | 1, 7 => s.beginRetrain f target
  | 1, 8 => s.beginNoAck f target arg
  | 5, 2 => s.beginBeatStop f target arg
  | 5, 3 => s.beginBeaconMute f target arg
  | 6, 1 => s.beginSensor f false target arg
  | 6, 2 => s.beginSensor f true target arg
  | 6, 3 => s.beginSensorBroken f target
  | _, _ => s

/-- ARM is set in a rim's injection register: a point that can fire begins, else ARM clears and NOFIRE sets. -/
def State.injTry (s : State) (f : FieldId) (r : Nat) (valid : Bool) (begin_ : State → State) : State :=
  let s1 := s.fset f Reg.INJ_PT.ARM 1 r
  if valid then begin_ s1 else (s1.fset f Reg.INJ_PT.ARM 0 r).fset f Reg.INJ_PT.NOFIRE 1 r

/-- ARM has been set in a rim's injection register, whatever point it holds. -/
def State.injArm (s : State) (f : FieldId) (r : Nat) : State :=
  let point := s.freg f Reg.INJ_PT.POINT r
  let target := s.freg f Reg.INJ_PT.TARGET r
  let arg := s.freg f Reg.INJ_PT.ARG r
  s.injTry f r (s.injValid f r point target arg) (fun t => t.injBegin f r point target arg)

/-- Whether an armed point of a hub register can fire. -/
def State.injHubValid (s : State) (r point target arg : Nat) : Bool :=
  match r, point with
  | 0, 1 => true
  | 0, 2 => decide (target < 12) && decide (s.hreg Reg.THM_PIN_CFG.ROLE target ≠ 0)
  | 0, 3 => decide (target < 12) && decide (s.hreg Reg.THM_PIN_CFG.ROLE target ≠ 0)
  | 0, 4 => decide (target < 4) && s.rimUp (fieldAt target)
  | 0, 5 => decide (target < 9) && !s.engIsDark 16 && !bit s.hub.hostTx.failed target
  | 1, 1 => decide (target < 2) && decide (s.hreg Reg.HDL_MODULE.PRESENT target = 1)
  | 1, 2 => decide (target < 2) && decide (s.hreg Reg.HDL_MODULE.PRESENT target = 1)
  | 1, 3 => decide (target < 17) && s.outputOn (arg % 2) target && !s.engHubLost target
  | _, _ => false

/-- A point of a hub register has fired. -/
def State.injHubFire (s : State) (r : Nat) : State := (s.hset Reg.INJ_HPT.ARM 0 r).hset Reg.INJ_HPT.DONE 1 r

def State.beginPwrWarn (s : State) (target arg : Nat) : State :=
  let s1 := (s.fxHubEnd 0).hset Reg.INJ_HPT.ARM 0 0
  (s1.updHub (fun H => { H with fx := SMap.insert H.fx 0 (1, target, arg) })).warnSet s1.hub.pwr.warnPin true

def State.beginPinBroken (s : State) (target : Nat) : State :=
  (s.injHubFire 0).updPwr (fun P => { P with pinInj := setBit P.pinInj target true })

def State.beginHeartbeatStop (s : State) (target : Nat) : State :=
  (s.injHubFire 0).updField (fieldAt target) (fun F => { F with hbStopped := true })

/-- The reason of an injected failure of a host wavelength is free. -/
def State.beginHostLaneFail (s : State) (target : Nat) : State :=
  let (v, s1) := s.draw
  (s1.injHubFire 0).hostFail true target (v % 8) true

def State.beginInletDrop (s : State) (target arg : Nat) : State := (s.injHubFire 1).inletLost target (arg % 2) true

/-- A valid point of a hub register is armed. -/
def State.injHubBegin (s : State) (r point target arg : Nat) : State :=
  match r, point with
  | 0, 1 => s.beginPwrWarn target arg
  | 0, 3 => s.beginPinBroken target
  | 0, 4 => s.beginHeartbeatStop target
  | 0, 5 => s.beginHostLaneFail target
  | 1, 3 => s.beginInletDrop target arg
  | _, _ => s

/-- ARM is set in a hub injection register: a point that can fire begins, else ARM clears and NOFIRE sets. -/
def State.injHubTry (s : State) (r : Nat) (valid : Bool) (begin_ : State → State) : State :=
  let s1 := s.hset Reg.INJ_HPT.ARM 1 r
  if valid then begin_ s1 else (s1.hset Reg.INJ_HPT.ARM 0 r).hset Reg.INJ_HPT.NOFIRE 1 r

/-- ARM has been set in a hub injection register. -/
def State.injHubArm (s : State) (r : Nat) : State :=
  let point := s.hreg Reg.INJ_HPT.POINT r
  let target := s.hreg Reg.INJ_HPT.TARGET r
  let arg := s.hreg Reg.INJ_HPT.ARG r
  s.injHubTry r (s.injHubValid r point target arg) (fun t => t.injHubBegin r point target arg)

/-- A write that arms a point of a rim's register: discarded while the lock is closed; while ARM is 1 the fields
stand (R696). `begin_`: what the point begins with, of its argument. -/
def State.injRow (s : State) (f : FieldId) (r point target arg : Nat) (begin_ : State → Nat → State) : Result :=
  if !s.injOpenAt f || decide (s.freg f Reg.INJ_PT.ARM r = 1) then .next s
  else
    let s1 := ((s.fset f Reg.INJ_PT.POINT point r).fset f Reg.INJ_PT.TARGET target r).fset f Reg.INJ_PT.ARG arg r
    let a := trunc 32 arg
    finish (s1.injTry f r (s1.injValid f r point target a) (fun t => begin_ t a))

/-- A write that arms a point of a hub register. -/
def State.injHubRow (s : State) (r point target arg : Nat) (begin_ : State → Nat → State) : Result :=
  if !s.injOpen || decide (s.hreg Reg.INJ_HPT.ARM r = 1) then .next s
  else
    let s1 := ((s.hset Reg.INJ_HPT.POINT point r).hset Reg.INJ_HPT.TARGET target r).hset Reg.INJ_HPT.ARG arg r
    let a := trunc 32 arg
    finish (s1.injHubTry r (s1.injHubValid r point target a) (fun t => begin_ t a))

/-! ### The lock (R512) -/

/-- ARM clears in every injection register of a field, and every effect in progress ends. -/
def State.injClear (s : State) (f : FieldId) : State :=
  let s1 := (List.range 7).foldl (fun (t : State) r => (t.fxEnd f r).fset f Reg.INJ_PT.ARM 0 r) (s.fset f Reg.INJ_ARITH.ARM 0)
  let s2 := if (s1.thm f).inj.isSome then (s1.updThm f (fun T => { T with inj := none })).injDone f injThm else s1
  s2.updField f (fun F => { F with
    gw := { F.gw with lines := F.gw.lines.map (fun l => { l with lost := false }) }
    shf := { F.shf with slots := F.shf.slots.map (fun (k, x) => (k, { x with coll := x.coll.map (fun c => { c with silent := false }) })) }
    mir := { F.mir with slots := F.mir.slots.map (fun (k, x) => (k, { x with push := x.push.map (fun p => { p with stall := none }) })) } })

/-- The lock closes. -/
def State.injLock (s : State) : State :=
  let s1 := allFields.foldl (fun (t : State) f => t.injClear f) s
  let s2 := [0, 1].foldl (fun (t : State) r => (t.fxHubEnd r).hset Reg.INJ_HPT.ARM 0 r) s1
  ((s2.updPwr (fun P => { P with pinInj := 0 })).hset Reg.HUB_INJ_STATUS.OPEN 0).hset Reg.HUB_INJ_STATUS.PENDING 0

/-- A refusal: reason 0 value, 1 timing, 2 conditions (R512). -/
def State.injRefuse (s : State) (reason : Nat) : State :=
  ((s.hset Reg.HUB_INJ_STATUS.RESULT St.INJ_REFUSED).updHub (fun H => { H with injHold := true })).raiseHub
    Ev.HUB_INJ_REFUSED [(1, reason)]

/-- The conditions on the part and its seed image. -/
def State.injConditions (s : State) : Bool :=
  decide (s.hreg Reg.HUB_INJ_STATUS.PROVING = 1) && decide (s.hreg Reg.HUB_INJ_STATUS.FUSE = 1)

/-- A request. -/
def State.injReq (s : State) : State :=
  if s.injOpen || s.hub.injHold then s
  else if s.injConditions then s.hset Reg.HUB_INJ_STATUS.PENDING 1
  else s.injRefuse 2

/-- A value is presented. -/
def State.injValue (s : State) (v : Nat) : State :=
  if s.injOpen then s
  else if s.hreg Reg.HUB_INJ_STATUS.PENDING = 0 then s.injRefuse 1
  else if trunc 16 v ≠ 0x5EED then s.injRefuse 0
  else
    let s1 := ((s.hset Reg.HUB_INJ_STATUS.OPEN 1).hset Reg.HUB_INJ_STATUS.PENDING 0).hset Reg.HUB_INJ_STATUS.RESULT St.OK
    let s2 := allFields.foldl (fun (t : State) f =>
      t.updField f (fun F => { F with hlt := { F.hlt with stepInj := true } })) s1
    s2.raiseHub Ev.HUB_INJ_UNLOCKED []

/-- A write of HUB_INJ_UNLOCK through PF0 (R512, R513). -/
def State.injUnlockWrite (s : State) (value : Nat) (req lock : Bool) : State :=
  if lock then s.injLock else if req then s.injReq else s.injValue value

/-- INJ_REQ (R512). -/
def execInjReq (s : State) : Result := finish s.injReq
/-- INJ_VALUE (R512). -/
def execInjValue (value : Nat) (s : State) : Result := finish (s.injValue value)
/-- INJ_LOCK (R512). -/
def execInjLock (s : State) : Result := finish s.injLock
/-- INJ_WINDOW_EXPIRY (R512): 1 s after the request. -/
def execInjWindowExpiry (s : State) : Result := .next (s.hset Reg.HUB_INJ_STATUS.PENDING 0)
/-- INJ_HOLDOFF_END (R512): 10 s after the refusal. -/
def execInjHoldoffEnd (s : State) : Result := .next (s.updHub (fun H => { H with injHold := false }))

/-- INJ_EFFECT_END (R696): the time of an effect in progress ends. -/
def execInjEffectEnd (f : Option FieldId) (r : Fin 7) (s : State) : Result :=
  match f with
  | some f => finish (s.fxEnd f r)
  | none => finish (s.fxHubEnd r)

/-- Heartbeats a rim misses in a row before it enters hub-lost operation (R35). -/
def hbLimit : Nat := 8

/-- A rim has missed n heartbeats in a row. With the eighth it enters hub-lost operation, which only a reset ends; the lock
closes for its injection registers (R35, R512). -/
def State.hbMissed (s : State) (f : FieldId) (n : Nat) : State :=
  let s1 := s.updField f (fun F => { F with missed := n })
  if hbLimit ≤ n ∧ (s.field f).hubLost = false then
    (s1.injClear f).updField f (fun F => { F with hubLost := true })
  else s1

/-- A heartbeat is sent to a rim: it arrives, or is one more missed where an injection point stops them. -/
def State.hbSend (s : State) (f : FieldId) : State :=
  if (s.field f).hbStopped then s.hbMissed f ((s.field f).missed + 1) else s.updField f (fun F => { F with missed := 0 })

/-- HEARTBEAT (R35): it goes to every rim. -/
def execHeartbeat (s : State) : Result := finish (allFields.foldl State.hbSend s)

/-- HUB_LOST_ENTRY (R35, R512): a rim's eighth missed heartbeat, where Yarzin has sent none: the count reaches eight, and the
rim enters hub-lost operation. DESIGN CHOICE (log entry 2): the time a rim has waited for a heartbeat that was never sent is
the sender's, who sends this command when eight of them are due. -/
def execHubLostEntry (f : FieldId) (s : State) : Result := s.inRim f <| finish (s.hbMissed f (max (s.field f).missed hbLimit))

/-! ### Points -/

/-- INJ_HBM_SYMBOL (R697). -/
def execInjHbmSymbol (f : FieldId) (target : Fin 256) (arg : Nat) (s : State) : Result := s.injRow f 0 1 target arg (fun t _ => t)

/-- INJ_HBM_DOUBLE (R697). -/
def execInjHbmDouble (f : FieldId) (target : Fin 256) (arg : Nat) (s : State) : Result := s.injRow f 0 2 target arg (fun t _ => t)

/-- INJ_STACK_LOST (R697). -/
def execInjStackLost (f : FieldId) (target : Fin 256) (arg : Nat) (s : State) : Result := s.injRow f 0 3 target arg (fun t _ => t.beginStackLost f target)

/-- INJ_STORE_SINGLE (R697). -/
def execInjStoreSingle (f : FieldId) (target : Fin 256) (arg : Nat) (s : State) : Result := s.injRow f 0 4 target arg (fun t _ => t)

/-- INJ_STORE_DOUBLE (R697). -/
def execInjStoreDouble (f : FieldId) (target : Fin 256) (arg : Nat) (s : State) : Result := s.injRow f 0 5 target arg (fun t _ => t)

/-- INJ_FEC_SYMBOLS (R697). -/
def execInjFecSymbols (f : FieldId) (target : Fin 256) (arg : Nat) (s : State) : Result := s.injRow f 1 1 target arg (fun t _ => t)

/-- INJ_FLIT_CRC (R697). -/
def execInjFlitCrc (f : FieldId) (target : Fin 256) (arg : Nat) (s : State) : Result := s.injRow f 1 2 target arg (fun t _ => t)

/-- INJ_LANE_FAIL (R697). -/
def execInjLaneFail (f : FieldId) (target : Fin 256) (arg : Nat) (s : State) : Result := s.injRow f 1 3 target arg (fun t a => t.beginLaneFail f target a)

/-- INJ_RING_UNLOCK (R697). -/
def execInjRingUnlock (f : FieldId) (target : Fin 256) (arg : Nat) (s : State) : Result := s.injRow f 1 4 target arg (fun t a => t.beginRingUnlock f target a)

/-- INJ_RX_POWER (R697). -/
def execInjRxPower (f : FieldId) (target : Fin 256) (arg : Nat) (s : State) : Result := s.injRow f 1 5 target arg (fun t _ => t)

/-- INJ_BEACON_ID (R697). -/
def execInjBeaconId (f : FieldId) (target : Fin 256) (arg : Nat) (s : State) : Result := s.injRow f 1 6 target arg (fun t _ => t)

/-- INJ_RETRAIN (R697). -/
def execInjRetrain (f : FieldId) (target : Fin 256) (arg : Nat) (s : State) : Result := s.injRow f 1 7 target arg (fun t _ => t.beginRetrain f target)

/-- INJ_NO_ACK (R697). -/
def execInjNoAck (f : FieldId) (target : Fin 256) (arg : Nat) (s : State) : Result := s.injRow f 1 8 target arg (fun t a => t.beginNoAck f target a)

/-- INJ_REQ_DROP (R697). -/
def execInjReqDrop (f : FieldId) (target : Fin 256) (arg : Nat) (s : State) : Result := s.injRow f 2 1 target arg (fun t _ => t)

/-- INJ_DEFER (R697). -/
def execInjDefer (f : FieldId) (target : Fin 256) (arg : Nat) (s : State) : Result := s.injRow f 2 2 target arg (fun t _ => t)

/-- INJ_RED_FULL (R697). -/
def execInjRedFull (f : FieldId) (target : Fin 256) (arg : Nat) (s : State) : Result := s.injRow f 2 3 target arg (fun t _ => t)

/-- INJ_COMB_REFUSE (R697). -/
def execInjCombRefuse (f : FieldId) (target : Fin 256) (arg : Nat) (s : State) : Result := s.injRow f 2 4 target arg (fun t _ => t)

/-- INJ_DIGEST (R697). -/
def execInjDigest (f : FieldId) (target : Fin 256) (arg : Nat) (s : State) : Result := s.injRow f 3 1 target arg (fun t _ => t)

/-- INJ_SILENT (R697). -/
def execInjSilent (f : FieldId) (target : Fin 256) (arg : Nat) (s : State) : Result := s.injRow f 3 2 target arg (fun t _ => t)

/-- INJ_PIECE_DROP (R697). -/
def execInjPieceDrop (f : FieldId) (target : Fin 256) (arg : Nat) (s : State) : Result := s.injRow f 3 3 target arg (fun t _ => t)

/-- INJ_DONE_DIGEST (R697). -/
def execInjDoneDigest (f : FieldId) (target : Fin 256) (arg : Nat) (s : State) : Result := s.injRow f 4 1 target arg (fun t _ => t)

/-- INJ_PUSH_STALL (R697). -/
def execInjPushStall (f : FieldId) (target : Fin 256) (arg : Nat) (s : State) : Result := s.injRow f 4 2 target arg (fun t _ => t)

/-- INJ_BUF_FULL (R697). -/
def execInjBufFull (f : FieldId) (target : Fin 256) (arg : Nat) (s : State) : Result := s.injRow f 4 3 target arg (fun t _ => t)

/-- INJ_SKIP (R697). -/
def execInjSkip (f : FieldId) (target : Fin 256) (arg : Nat) (s : State) : Result := s.injRow f 4 4 target arg (fun t _ => t)

/-- INJ_OFFSET (R697). -/
def execInjOffset (f : FieldId) (target : Fin 256) (arg : Nat) (s : State) : Result := s.injRow f 5 1 target arg (fun t _ => t)

/-- INJ_BEAT_STOP (R697). -/
def execInjBeatStop (f : FieldId) (target : Fin 256) (arg : Nat) (s : State) : Result := s.injRow f 5 2 target arg (fun t a => t.beginBeatStop f target a)

/-- INJ_BEACON_MUTE (R697). -/
def execInjBeaconMute (f : FieldId) (target : Fin 256) (arg : Nat) (s : State) : Result := s.injRow f 5 3 target arg (fun t a => t.beginBeaconMute f target a)

/-- INJ_SENSOR_OFFSET (R697). -/
def execInjSensorOffset (f : FieldId) (target : Fin 256) (arg : Nat) (s : State) : Result := s.injRow f 6 1 target arg (fun t a => t.beginSensor f false target a)

/-- INJ_SENSOR_RAMP (R697). -/
def execInjSensorRamp (f : FieldId) (target : Fin 256) (arg : Nat) (s : State) : Result := s.injRow f 6 2 target arg (fun t a => t.beginSensor f true target a)

/-- INJ_SENSOR_BROKEN (R697). -/
def execInjSensorBroken (f : FieldId) (target : Fin 256) (arg : Nat) (s : State) : Result := s.injRow f 6 3 target arg (fun t _ => t.beginSensorBroken f target)

/-- INJ_PWR_WARN (R697). -/
def execInjPwrWarn (target : Fin 256) (arg : Nat) (s : State) : Result := s.injHubRow 0 1 target arg (fun t a => t.beginPwrWarn target a)

/-- INJ_PIN_READING (R697). -/
def execInjPinReading (target : Fin 256) (arg : Nat) (s : State) : Result := s.injHubRow 0 2 target arg (fun t _ => t)

/-- INJ_PIN_BROKEN (R697). -/
def execInjPinBroken (target : Fin 256) (arg : Nat) (s : State) : Result := s.injHubRow 0 3 target arg (fun t _ => t.beginPinBroken target)

/-- INJ_HEARTBEAT_STOP (R697). -/
def execInjHeartbeatStop (target : Fin 256) (arg : Nat) (s : State) : Result := s.injHubRow 0 4 target arg (fun t _ => t.beginHeartbeatStop target)

/-- INJ_HOST_LANE_FAIL (R697). -/
def execInjHostLaneFail (target : Fin 256) (arg : Nat) (s : State) : Result := s.injHubRow 0 5 target arg (fun t _ => t.beginHostLaneFail target)

/-- INJ_MODULE_FAULT (R697). -/
def execInjModuleFault (target : Fin 256) (arg : Nat) (s : State) : Result := s.injHubRow 1 1 target arg (fun t _ => t)

/-- INJ_MARGIN (R697). -/
def execInjMargin (target : Fin 256) (arg : Nat) (s : State) : Result := s.injHubRow 1 2 target arg (fun t _ => t)

/-- INJ_INLET_DROP (R697). -/
def execInjInletDrop (target : Fin 256) (arg : Nat) (s : State) : Result := s.injHubRow 1 3 target arg (fun t a => t.beginInletDrop target a)

end Sys2Proof.Machine
end

