-- ==== Sys2Proof/Machine/Marks.lean ====
section
/-! DEFINITION. Boundary marks (R526 to R529): arming, the actions of the mark cycle, the two reports, the release of
flushed lines, and the end of the mark. -/

namespace Sys2Proof.Machine

open Sys2Proof

/-! ### Arming (R527) -/

/-- A write of NEXT. -/
def State.markNext (s : State) (f : FieldId) (v : Nat) : State :=
  if s.markArmed f ∧ trunc 64 v < (s.tly f).tInt + 100000 then s.fset f Reg.TLY_MARK_STAT.RESULT St.MARK_PAST
  else (s.fset f Reg.TLY_MARK_NEXT.NEXT v).fset f Reg.TLY_MARK_STAT.RESULT St.OK

/-- What a write of PERIOD stores (R544). -/
def markPeriod (p : Nat) : Nat :=
  let q := trunc 40 p
  if q = 0 then 0 else max q 100000

/-- A write of ARMED and PERIOD. -/
def State.markCtl (s : State) (f : FieldId) (armed : Bool) (period : Nat) : State :=
  if armed && !s.markArmed f && decide (s.freg f Reg.TLY_MARK_NEXT.NEXT < (s.tly f).tInt + 100000) then
    s.fset f Reg.TLY_MARK_STAT.RESULT St.MARK_PAST
  else
    ((s.fset f Reg.TLY_MARK_CTL.ARMED (b2n armed)).fset f Reg.TLY_MARK_CTL.PERIOD (markPeriod period)).fset f
      Reg.TLY_MARK_STAT.RESULT St.OK

/-- MARK_ARM (R527). -/
def execMarkArm (f : FieldId) (w : MarkWrite) (s : State) : Result := s.inRim f <|
  match w with
  | .next v => .next (s.markNext f v)
  | .ctl a p => .next (s.markCtl f a p)

/-! ### The mark cycle: actions 1 to 9 (R528) -/

/-- Action 1: every entry of the reduction table is rounded, for its line to be written (R425). -/
def State.markFlush (s : State) (f : FieldId) : State :=
  let R := (s.gw f).red
  let n := ((R.map (fun e => e.2.entries.length)).foldl (· + ·) 0)
  (s.updGw f (fun G => { G with
    redFull := false
    red := R.map (fun (k, x) => (k, if x.flushed.isSome then x else
      { x with flushed := some (s.redRound f x), changed := false })) })).fwrap f Reg.GWY_STAT.FLUSHES n

/-- Action 2: STEP increments (R79). -/
def State.markStep (s : State) (f : FieldId) : State :=
  if s.freg f Reg.FLD_SR_STEP.AUTO_STEP = 1 then s.fwrap f Reg.FLD_SR_STEP.STEP else s

/-- Action 5: scarecrow counters reset, queued samples counted in DROPPED and discarded (R129, R132). -/
def State.markSamples (s : State) (f : FieldId) : State :=
  let tags := (s.field f).plots.flatMap (fun e => e.2.samples.map Sample.tag)
  let s1 := tags.foldl (fun (t : State) g =>
    t.driftReport f g 1 (fun r => { r with dropped := satAdd 32 r.dropped 1 })) s
  (SMap.keys (s.field f).plots).foldl (fun (t : State) k =>
    t.updField f (fun F => F.updPlot k (fun P => { P with scnt := 0, samples := [] }))) s1

/-- The counters whose deltas the report carries (R487), by kind × 256 + plot. -/
def State.stallNow (s : State) (f : FieldId) : List (Nat × Nat) :=
  let F := s.field f
  let plots := F.plots.filter (fun e => !F.vacant e.1)
  let of := fun (i : Nat) (g : Plot → Nat) => plots.map (fun e => (i * 256 + e.1, g e.2))
  of 0 (fun P => P.tine.busy) ++ of 1 (fun P => P.reg Reg.PLT_TINE_STALL.LOAD_STALL) ++
    of 2 (fun P => P.reg Reg.PLT_TINE_STALL.BIN_WAIT) ++ of 3 (fun P => P.reg Reg.PLT_QUEUE_STALL.FULL) ++
    of 4 (fun P => P.reg Reg.PLT_QUEUE_STALL.CLAIM) ++ of 5 (fun P => P.reg Reg.PLT_STORE_ECC.BANK_WAIT) ++
    of 6 (fun P => P.reg Reg.PLT_CLOCK_STAT.STRETCHED) ++ [(7 * 256, F.reg Reg.FLD_MESH_STAT.STALL)]

/-- Action 6: lateness records and stall counters as the report will carry them (R466, R486). -/
def State.markSnapshot (s : State) (f : FieldId) (tMark : Nat) (skipped : Bool) : State :=
  let now := s.stallNow f
  let H := (s.field f).hlt
  let sum := fun (i : Nat) => ((now.filter (fun e => decide (e.1 / 256 = i))).map (fun e =>
    if i = 0 then e.2 - SMap.get H.stallPrev 0 e.1 else trunc 32 (e.2 + 2 ^ 32 - SMap.get H.stallPrev 0 e.1))).foldl (· + ·) 0
  let witOff := H.stepWitOff || decide (s.freg f Reg.FLD_WITNESS_CTL.ACTIVE = 0)
  let flags := b2n H.stepReset + 2 * b2n witOff + 4 * b2n (H.stepInj || decide (s.hreg Reg.HUB_INJ_STATUS.OPEN = 1)) +
    8 * b2n skipped
  let hist := (List.range 16).map (fun i => s.freg f Reg.SHF_LATE_HIST.BUCKET 0 i)
  let s1 := s.updField f (fun F => { F with
    hlt := { F.hlt with
      stall := (List.range 8).map sum
      stallPrev := now.foldl (fun m e => SMap.set m 0 e.1 e.2) []
      lastMark := tMark
      stepReset := false
      stepWitOff := false
      stepInj := decide (s.hreg Reg.HUB_INJ_STATUS.OPEN = 1)
      stepSkip := skipped } })
  s1.updTly f (fun U => { U with
    lateTab := (s.shf f).late, lateHist := hist, repFlags := flags, repPrev := H.lastMark })

/-- Action 7: witness requests become active (R124); a field of no allotment runs with the witness and poison on. -/
def State.markWitness (s : State) (f : FieldId) : State :=
  ((s.fset f Reg.FLD_WITNESS_CTL.ACTIVE (s.freg f Reg.FLD_WITNESS_CTL.ENABLE)).fset f Reg.FLD_WITNESS_CTL.POISON_ACTIVE
    (s.freg f Reg.FLD_WITNESS_CTL.POISON)).witnessForce f

/-- Action 8: a checked bank that waits for the mark becomes active; in hub-lost operation the tables in force stay (R382). -/
def State.markBank (s : State) (f : FieldId) : State :=
  if (s.field f).hubLost then s
  else match (s.field f).router.pendingBank with
  | none => s
  | some b => s.bankActivate f b

/-- Action 9: in hub-lost operation the compute partition is held and the sheaf engine stops (R35, R464). -/
def State.markHold (s : State) (f : FieldId) : State :=
  if (s.field f).hubLost then
    (s.updField f (fun F => { F with held := true })).updShf f (fun U => { U with stopped := true })
  else s

/-- The switchovers that wait for this field's mark are due at its action 13 (R283, R528). DESIGN CHOICE (log entry 44): an engine
waits for the mark of its own field, the host engine for F0's. In hub-lost operation switchovers stop (R295). -/
def State.markSwitch (s : State) (f : FieldId) : State :=
  if (s.field f).hubLost then s
  else s.updLight (fun L => { L with queue := L.queue.map (fun r => if r.atMark && decide (r.field = f) then { r with due := true } else r) })

/-- Whether action 13 has something to begin. -/
def State.switchDue (s : State) (f : FieldId) : Bool := s.hub.light.queue.any (fun r => r.due && decide (r.field = f))

/-- The actions of a mark cycle in their order (R528). -/
def State.markActions (s : State) (f : FieldId) (tMark : Nat) : State :=
  let s2 := (s.markFlush f).markStep f
  let (s3, skipped) := s2.markPlanes f
  let s4 := (s3.markPairings f).markSamples f
  let s9 := (((s4.markSnapshot f tMark skipped).markWitness f).markBank f).markHold f
  let s10 := (s9.fset f Reg.TLY_MARK_STAT.LAST tMark).fset f Reg.TLY_MARK_STAT.DONE 0
  let s11 := s10.markSwitch f
  (s11.updTly f (fun U => { U with todo := [10, 11, 12] ++ (if s11.switchDue f then [13] else []) ++ [14], markAt := U.tInt, houseDue := false })).hubMark f

/-- After the mark fires (R527): one-shot marks disarm; others advance to the first future value. -/
def State.markAdvance (s : State) (f : FieldId) : State :=
  let p := s.freg f Reg.TLY_MARK_CTL.PERIOD
  let n := s.freg f Reg.TLY_MARK_NEXT.NEXT
  if p = 0 then s.fset f Reg.TLY_MARK_CTL.ARMED 0
  else
    let skip := if n + p ≤ (s.tly f).tInt then ((s.tly f).tInt - (n + p)) / p + 1 else 0
    (s.fset f Reg.TLY_MARK_NEXT.NEXT (n + p + skip * p)).fcount f Reg.TLY_MARK_STAT.MISSED skip

/-- The TALLY_MARK land shows the marks of one field (R530). -/
def State.markPulse (s : State) (f : FieldId) : State :=
  if s.hreg Reg.TLY_PIN_CTL.MODE = 1 ∧ s.hreg Reg.TLY_PIN_CTL.FIELD = f.val then
    s.updHub (fun H => { H with pulseDue := true })
  else s

/-- BOUNDARY_MARK (R526, R528): the mark cycle, once t_int has reached NEXT and the last mark's actions are done. -/
def execBoundaryMark (f : FieldId) (s : State) : Result :=
  let n := s.freg f Reg.TLY_MARK_NEXT.NEXT
  if !s.rimUp f || !s.markArmed f || decide ((s.tly f).tInt < n) || !(s.tly f).todo.isEmpty then .next s
  else finish (((s.markActions f n).markAdvance f).markPulse f)

/-- HOUSE_MARK (R527): with no mark armed, the tally has crossed a multiple of 2^30. -/
def execHouseMark (f : FieldId) (s : State) : Result :=
  if !s.rimUp f || s.markArmed f || !(s.tly f).houseDue || !(s.tly f).todo.isEmpty then .next s
  else finish (s.markActions f ((s.tly f).tInt / 2 ^ 30 * 2 ^ 30))

/-- Whether a later action of a mark is the next to do (R528). -/
def State.markTurn (s : State) (f : FieldId) (n : Nat) : Bool := decide ((s.tly f).todo.head? = some n)

/-! ### Reports: actions 10 and 11 (R132, R486, R487) -/

/-- A layer record of the drift report (R132). -/
def driftBytes (tag : Nat) (r : DriftRec) : List Byte :=
  leBytes 2 tag ++ leBytes 2 (b2n r.event + 2 * b2n (decide (r.dropped ≠ 0)) + 4 * b2n (decide (r.mismatch ≠ 0))) ++
    leBytes 4 r.samples ++ leBytes 4 r.dropped ++ leBytes 1 (ofSigned 8 (r.maxE.getD (-128))) ++ leBytes 3 0 ++
    (List.range 16).flatMap (fun i => leBytes 4 (nth r.buckets i)) ++
    (List.range 6).flatMap (fun i => leBytes 4 (nth r.classes i)) ++ leBytes 4 r.mismatch ++ leBytes 4 r.skipped ++
    leBytes 16 0

/-- The drift report's bytes (R132). -/
def State.driftReportBytes (s : State) (f : FieldId) : List Byte :=
  let d := (s.field f).drift
  leBytes 8 (s.freg f Reg.TLY_MARK_STAT.LAST) ++ leBytes 4 (s.freg f Reg.FLD_DRIFT_STATUS.SEQ) ++
    leBytes 2 d.recs.length ++ leBytes 2 (b2n (decide (driftSize ≤ d.recs.length))) ++ leBytes 4 d.unrecorded ++ leBytes 44 0 ++
    d.recs.flatMap (fun e => driftBytes e.1 e.2)

/-- DRIFT_REPORT_WRITE (R132): action 10. DESIGN CHOICE (log entry 39): R131 and R526 begin the new period at the mark, R132
and R528 clear the table here; a report that arrives between the two counts in the closing report and is cleared with it. -/
def execDriftReportWrite (f : FieldId) (s : State) : Result := s.inRim f <|
  if !s.markTurn f 10 then .next s
  else
    let a := s.freg f Reg.FLD_DRIFT_BASE.ADDR * 128
    let n := s.freg f Reg.FLD_DRIFT_STATUS.SEQ
    let s1 :=
      if s.freg f Reg.FLD_DRIFT_BASE.WRITE = 0 then s
      else if hbmTop < a + 0x42000 then s.raise f Ev.FLD_DRIFT_REPORT_LOST []
      else (s.hbmWrite f (a + n % 2 * 0x21000) (s.driftReportBytes f) false srcRim).1
    let s2 := s1.updField f (fun F => { F with drift := { recs := [], unrecorded := 0, fullEvent := false } })
    finish ((s2.fwrap f Reg.FLD_DRIFT_STATUS.SEQ).markDid f 10)

/-- The step timing report's 0x8100 bytes (R487), at the table's offsets and sizes. -/
def State.stepReportBytes (s : State) (f : FieldId) : List Byte :=
  let U := s.tly f
  let H := (s.field f).hlt
  let attr := (List.range 8).foldl (fun (a : Nat) i => a + s.freg f Reg.HLT_PEN.ATTR 0 i * 4 ^ i) 0
  leBytes 8 (s.freg f Reg.TLY_MARK_STAT.LAST) ++ leBytes 8 U.repPrev ++ leBytes 4 H.seq ++ leBytes 2 (s.node f) ++
    leBytes 2 U.repFlags ++ leBytes 4 (s.freg f Reg.MIR_SRC_STATUS.ACKED0) ++ leBytes 36 0 ++
    (List.range 8).flatMap (fun i => leBytes 8 (nth H.stall i)) ++
    (List.range 16).flatMap (fun i => leBytes 4 (nth U.lateHist i)) ++
    leBytes 2 (s.freg f Reg.HLT_SCORE.SCORE) ++ leBytes 2 (s.hreg Reg.HLT_PKG.SCORE) ++
    leBytes 2 (s.freg f Reg.HLT_SCORE.EXPEL + 2 * s.freg f Reg.HLT_SCORE.HARD + 4 * s.freg f Reg.HLT_SCORE.INJECTED) ++
    leBytes 1 (s.freg f Reg.HLT_SCORE.RUN) ++ leBytes 1 (s.hreg Reg.HLT_FLEET.PRESSURE) ++
    (List.range 8).flatMap (fun i => leBytes 2 (s.freg f Reg.HLT_PEN.PEN 0 i)) ++ leBytes 2 attr ++
    leBytes 2 (s.freg f Reg.HLT_SCORE.SELF_PEN) ++ leBytes 4 (s.freg f Reg.HLT_SCORE.WINDOW) ++ leBytes 32 0 ++
    (List.range 8192).flatMap (fun i => leBytes 4 (SMap.get U.lateTab 0 i))

/-- The lateness records are cleared (R466). -/
def State.lateClear (s : State) (f : FieldId) : State :=
  let s1 := s.updShf f (fun U => { U with late := [] })
  (List.range 16).foldl (fun (t : State) i => t.fset f Reg.SHF_LATE_HIST.BUCKET 0 0 i) s1

/-- STEP_TIMING_REPORT_WRITE (R486): action 11. In hub-lost operation the reports stop (R35). -/
def execStepTimingReportWrite (f : FieldId) (s : State) : Result := s.inRim f <|
  if !s.markTurn f 11 then .next s
  else
    let a := s.freg f Reg.HLT_REPORT_BASE.ADDR * 128
    let n := (s.field f).hlt.seq
    let on := decide (s.freg f Reg.HLT_REPORT_BASE.WRITE = 1) && !(s.field f).hubLost
    let s1 :=
      if !on then s
      else if hbmTop < a + 0x10200 then s.raise f Ev.HLT_REPORT_LOST [(1, f), (4, n)]
      else (s.hbmWrite f (a + n % 2 * 0x8100) (s.stepReportBytes f) false srcRim).1
    let s2 := if on then s1.updField f (fun F => { F with hlt := { F.hlt with seq := trunc 32 (F.hlt.seq + 1) } }) else s1
    finish ((s2.lateClear f).markDid f 11)

/-! ### Action 12, and the end (R425, R528) -/

/-- RED_ENTRY_RELEASE (R425): flushed lines are written and their entries released. -/
def execRedEntryRelease (f : FieldId) (s : State) : Result := s.inRim f <|
  if !s.markTurn f 12 then .next s
  else
    let s1 := (s.gw f).red.foldl (fun (t : State) e =>
      match e.2.flushed with
      | none => t
      | some b => ((t.lineWrite f (e.2.line * 128) b false srcGateway).1).redErase f e.2) s
    finish (s1.markDid f 12)

/-- MARK_DONE (R528): the mark's actions are complete. -/
def execMarkDone (f : FieldId) (s : State) : Result := s.inRim f <|
  if (s.tly f).todo ≠ [14] then .next s
  else
    let ns := min 0xFFFF ((s.tly f).tInt - (s.tly f).markAt)
    let s1 := ((s.fset f Reg.TLY_MARK_STAT.DONE 1).fset f Reg.TLY_MARK_STAT.DONE_NS ns).markDid f 14
    finish (s1.raise f Ev.TLY_MARK [(1, f), (8, s.freg f Reg.TLY_MARK_STAT.LAST), (2, s.freg f Reg.TLY_MARK_STAT.MISSED), (2, ns)])

end Sys2Proof.Machine
end

