-- ==== Sys2Proof/Machine/RegRead.lean ====
section
/-! DEFINITION. Reads of the register spaces (R13 to R15, R687 to R692): what each register of the hub and of a field's
rim shows, the read-only windows, and the plot and bin windows. -/

namespace Sys2Proof.Machine

open Sys2Proof

/-! ### The hub (R688) -/

/-- A mask of the fields in a service state. -/
def State.svcMask (s : State) (code : Nat) : Nat :=
  allFields.foldl (fun (m : Nat) (f : FieldId) => m + b2n (decide (s.svc f = code)) * 2 ^ f.val) 0

/-- The levels HUB_GPIO_CTL.IN shows (R683, R685): OUT where the GPIO block drives the land, the pulse where TALLY_MARK drives
GPIO7's, otherwise what the outside puts there, which is free. -/
def State.gpioIn (s : State) : Nat :=
  let mark := decide (s.hreg Reg.TLY_PIN_CTL.ENABLE = 1) && s.hubSealed
  let claim := s.hreg Reg.HUB_GPIO_CLAIM.CLAIM
  let drives := claim &&& s.hreg Reg.HUB_GPIO_CTL.OE &&& (if s.hubSealed then 0xFF else 0x7F)
  let v := (s.hreg Reg.HUB_GPIO_CTL.OUT &&& drives) ||| (Config.freeValue s.free % 256 &&& (0xFF ^^^ drives))
  if mark then setBit v 7 (decide (s.now < s.hub.pulseEnd)) else v

/-- FALLOW of HUB_HOST_PHY_STATUS (R621): 0xF where there is no fallow wavelength, because it carries a slot or has failed. -/
def LaneTx.fallowShown (d : LaneTx) : Nat :=
  if bit d.failed d.fallow || (d.slotOf d.fallow).isSome then 0xF else d.fallow

/-- What a hub register field shows. -/
def State.hubView (s : State) (k : RegField) (n i : Nat) : Nat :=
  match k.off, k.lo with
  | 0x20, 2 => s.svcMask svcPartitionReset
  | 0x40, 16 => s.gpioIn
  | 0x50, 5 => s.hub.hostTx.fallowShown
  | 0x50, 16 => s.hub.hostTx.failed
  | 0x10000, 7 => b2n s.hostStepped
  | 0x30008, 6 => b2n (!s.hub.pwr.warn)
  | 0x70008, 3 => b2n s.hub.light.laserEn
  | 0x80008, 13 => allFields.foldl (fun (m : Nat) (f : FieldId) => m + s.freg f Reg.HLT_SCORE.EXPEL * 2 ^ f.val) 0
  | _, _ => s.hreg k n i

/-- A read of hub register space. -/
def State.hubRead (s : State) (off bytes : Nat) : Nat := readFields Reg.hubFields s.hubView off bytes

/-! ### A rim (R690) -/

/-- The wavelength HDL_PORT_MAP shows for a slot: 0xF for one out of the stripe. -/
def slotShown (map : List Nat) (out k : Nat) : Nat := if bit out k then 0xF else nth map k

/-- The granules set in a mirror plane. -/
def planeCount (m : SMap Bool) : Nat := m.length

/-- What a rim register field shows. -/
def State.rimView (s : State) (f : FieldId) (k : RegField) (n i : Nat) : Nat :=
  let F := s.field f
  let p : PortId := (BitVec.ofNat 4 n).toFin
  let P := s.port f p
  let G := F.gw
  match k.off, k.lo with
  | 0x30, 0 => F.drift.recs.length
  | 0x30, 11 => b2n (decide (driftSize ≤ F.drift.recs.length))
  | 0x80, _ => F.memu.remap ||| F.fallowRun
  | 0x10018, 0 => F.repairCount
  | 0x10018, 7 => b2n (decide (F.repairCount = 64))
  | 0x10020, 0 => planeCount F.memu.cur
  | 0x10020, 20 => planeCount F.memu.res
  | 0x10020, 40 => b2n F.memu.res.isEmpty
  | 0x20200, 4 => P.tx.fallow
  | 0x20200, 8 => P.rx.fallow
  | 0x20200, 12 => s.txLanes f p
  | 0x20200, 16 => s.rxLanes f p
  | 0x20200, 20 => b2n P.tx.cal.isSome
  | 0x20200, 32 => P.tx.failed
  | 0x20200, 48 => P.rx.failed
  | 0x20400, 0 => slotShown P.tx.map P.tx.out i
  | 0x20400, 64 => slotShown P.rx.map P.rx.out i
  | 0x30100, 2 => if s.hostStepped then F.reg k n else 0
  | 0x30200, 32 => P.seq
  | 0x30200, 46 => P.ack
  | 0x40200, 3 => b2n P.approved.isSome
  | 0x40200, 5 => (s.effective f p).1
  | 0x40200, 7 => (s.effective f p).2.1
  | 0x40200, 12 => (s.effective f p).2.2
  | 0x50018, 0 => G.freeSlots
  | 0x50018, 15 => (G.rx.filter (fun e => !e.2.held.isEmpty)).length
  | 0x50018, 29 => b2n (!G.queue.isEmpty)
  | 0x50018, 30 => (G.queue.head?.map (fun q => q.src % 0x2000)).getD 0
  | 0x50018, 43 => G.queue.length
  | 0x50030, 0 => G.redUsed.length
  | 0x50030, 13 => b2n (decide (redEntries ≤ G.redUsed.length))
  | 0x90000, _ => F.tally.tInt
  | 0x90020, 64 => ofSigned 32 F.tally.fTrim
  | off, _ =>
    if 0x40400 ≤ off ∧ off < 0x405C0 ∧ F.reg Reg.RTE_TABLE_CTL.VIEW = 0 then k.get F.router.active n i
    else F.reg k n i

/-- The fields MBX_RIMP has beyond those of every endpoint (R614). -/
def rimpFields : List RegField := [Reg.MBX_RIMP_OUT_META.TARGET, Reg.MBX_RIMP_IN_META.SENDER]

/-- A byte of RTE_CONG_SNAP (R385). -/
def State.congByte (s : State) (f : FieldId) (x : Nat) : Nat :=
  let R := (s.field f).router
  if x < 64 then bits (R.snapStart % 2 ^ 64 + R.snapEnd % 2 ^ 64 * 2 ^ 64 + R.snapSeq * 2 ^ 128) (8 * x) 8
  else
    let l := (x - 64) / 512
    let v := (x - 64) % 512 / 64
    let o := (x - 64) % 64
    let it := fun (i : Nat) => SMap.get R.snap 0 ((l * 8 + v) * 16 + i)
    if 18 ≤ l ∨ 42 ≤ o then 0
    else if 40 ≤ o then bits (it 10) (8 * (o - 40)) 8
    else bits (it (o / 4)) (8 * (o % 4)) 8

/-- The bytes of SHF_NAMED (R472). -/
def State.namedBytes (s : State) (f : FieldId) : List Byte :=
  let (slot, status, seq, count, nodes) := (s.shf f).named
  leBytes 1 slot ++ leBytes 1 0 ++ leBytes 2 status ++ leBytes 4 seq ++ leBytes 2 count ++ leBytes 6 0 ++
    nodes.flatMap (leBytes 2)

/-- A byte of a rim's read-only windows; 0 outside them. -/
def State.rimWindowByte (s : State) (f : FieldId) (a : Nat) : Nat :=
  if 0x48000 ≤ a ∧ a < 0x48000 + 9280 then s.congByte f (a - 0x48000)
  else if 0x60100 ≤ a ∧ a < 0x60190 then (((s.namedBytes f)[a - 0x60100]?).getD 0).toNat
  else if 0x68000 ≤ a ∧ a < 0x70000 then bits (SMap.get (s.shf f).late 0 ((a - 0x68000) / 4)) (8 * (a % 4)) 8
  else 0

/-- Whether an offset lies in a read-only window of a rim. -/
def rimWindow (off : Nat) : Bool :=
  (decide (0x48000 ≤ off) && decide (off < 0x48000 + 9280)) || (decide (0x60100 ≤ off) && decide (off < 0x60190)) ||
    (decide (0x68000 ≤ off) && decide (off < 0x70000))

/-! ### Windows of the plots (R691, R692) -/

/-- What a field offset reaches. -/
inductive FieldPlace where
  | rim
  | plot (p : PlotId) (off : Nat)
  /-- tine, row, column of the first word -/
  | bin (p : PlotId) (t row col : Nat)
  | none
  deriving DecidableEq, Repr

/-- What a byte offset of field register space reaches (R687). -/
def fieldPlace (off : Nat) : FieldPlace :=
  if off < 0x100000 then .rim
  else if 0x1000000 ≤ off ∧ off < 0x1100000 then .plot (plotIx ((off - 0x1000000) / 0x1000)) (off % 0x1000)
  else if 0x2000000 ≤ off ∧ off < 0x6000000 then
    let x := off - 0x2000000
    .bin (plotIx (x / 0x40000)) (x / 0x10000 % 4) (x % 0x10000 / 128) (x % 128 / 4)
  else .none

/-- Whether a plot's windows hold registers (R692). -/
def State.windowUp (s : State) (f : FieldId) (p : PlotId) : Bool :=
  !s.vacant f p && !(decide (s.svc f = svcPartitionReset) || decide (s.svc f = svcUnfit) || decide (s.svc f = svcDark))

/-- One word of a bin window as another agent reads it (R692): 0x7FC00000 in a poisoned row. -/
def State.binWindowWord (s : State) (f : FieldId) (p : PlotId) (t row col : Nat) : State × Nat :=
  if s.binPoisoned f p t row then (s, 0x7FC00000) else s.binReadRaw f p t row col

/-- A read of a bin window: words in ascending order. -/
def State.binWindowRead (s : State) (f : FieldId) (p : PlotId) (t row col : Nat) : Nat → State × Nat
  | 0 => (s, 0)
  | n + 1 =>
    let (s1, w) := s.binWindowWord f p t row col
    let (s2, rest) := State.binWindowRead s1 f p t row (col + 1) n
    (s2, w + rest * 2 ^ 32)

/-- A write of words to a bin window: stored, poison bits left alone. -/
def State.binWindowWrite (s : State) (f : FieldId) (p : PlotId) (t row col v : Nat) : Nat → State
  | 0 => s
  | n + 1 => State.binWindowWrite (s.binWrite f p t row col (v % 2 ^ 32)) f p t row (col + 1) (v / 2 ^ 32) n

/-- A read of field register space (R687): a bin word read can meet its check bits, so the state may change. -/
def State.fieldRead (s : State) (f : FieldId) (off bytes : Nat) : State × Nat :=
  match fieldPlace off with
  | .rim =>
    if rimWindow off then
      (s, (List.range bytes).foldl (fun (v : Nat) (i : Nat) => v + s.rimWindowByte f (off + i) * 2 ^ (8 * i)) 0)
    else (s, readFields (Reg.rimFields ++ rimpFields) (s.rimView f) off bytes)
  | .plot p o => if s.windowUp f p then (s, s.plotRead f p o bytes) else (s, 0)
  | .bin p t row col => if s.windowUp f p then s.binWindowRead f p t row col (bytes / 4) else (s, 0)
  | .none => (s, 0)

/-- A read of a register space. -/
def State.spaceRead (s : State) (sp : Space) (off bytes : Nat) : State × Nat :=
  match sp with
  | .hub => (s, s.hubRead off bytes)
  | .field f => s.fieldRead f off bytes

end Sys2Proof.Machine
end

