-- ==== Sys2Proof/Machine/HostPort.lean ====
section
/-! DEFINITION. The host port (R595 to R613, R678, R679): the link's states, event rings and MSI-X, function-level reset
and power states, management reads, and forwarded events. -/

namespace Sys2Proof.Machine

open Sys2Proof

def State.updHost (s : State) (g : HostUnit → HostUnit) : State := s.updHub (fun H => { H with host := g H.host })
def State.updSeed (s : State) (g : SeedUnit → SeedUnit) : State := s.updHub (fun H => { H with seed := g H.seed })

/-- The field of a function PF1 to PF4 (R601). -/
def fnField (fn : Nat) : FieldId := (BitVec.ofNat 2 (fn - 1)).toFin

/-! ### What a function says of itself (R601, R602)

Configuration space is hard-wired, but for what PCI Express lets the host write. No row of the table reads it; these are the
values such a read gives. -/

/-- The capabilities a function implements (R602). -/
inductive Capability where
  | pciExpress
  | powerManagement
  | msix
  | advancedErrorReporting
  | deviceSerialNumber
  | dataLinkFeature
  | physicalLayer64
  deriving DecidableEq, Repr

/-- What configuration space says of a function. -/
structure FnIdentity where
  vendor : Nat
  subsystemVendor : Nat
  device : Nat
  classCode : Nat
  revision : Nat
  /-- bytes of BAR0, 64-bit and not prefetchable, and of BAR2, 64-bit and prefetchable -/
  bar0 : Nat
  bar2 : Nat
  vectors : Nat
  capabilities : List Capability
  /-- the Device Serial Number -/
  serial : Nat
  deriving DecidableEq, Repr

/-- The identity of PF0 and of PF1 to PF4. The spec gives the vendor's identifier by name only. -/
def fnIdentity (fn : Nat) : FnIdentity where
  vendor := Config.vendorId
  subsystemVendor := Config.vendorId
  device := if fn = 0 then 0x9640 else 0x9641
  classCode := if fn = 0 then 0x088000 else 0x120000
  revision := 0xB1
  bar0 := if fn = 0 then 0x4000000 else 0x10000000
  bar2 := if fn = 0 then 0x1000000 else 0x1000000000
  vectors := if fn = 0 then 8 else 12
  capabilities := [.pciExpress, .powerManagement, .msix, .advancedErrorReporting, .deviceSerialNumber, .dataLinkFeature,
    .physicalLayer64]
  serial := Config.packageSerial % 2 ^ 48

/-! ### The link (R597, R599, R600, R620) -/

/-- A pending RETRAIN is acted on when the link can pass through Recovery (R620). -/
def State.retrainDo (s : State) : State :=
  if s.hreg Reg.HUB_HOST_PHY_CTL.RETRAIN = 1 ∧ (s.hostLink = hpL0 ∨ s.hostLink = hpL1) then
    (s.hset Reg.HUB_HOST_PHY_CTL.RETRAIN 0).hostRecover
  else s

/-- HOST_RETRAIN (R620). -/
def execHostRetrain (s : State) : Result := finish ((s.hset Reg.HUB_HOST_PHY_CTL.RETRAIN 1).retrainDo)

/-- HOST_LINK_RECOVERY (R597, R598): the pass through Recovery ends; a switchover holds the link in it. -/
def execHostLinkRecovery (s : State) : Result :=
  if s.hostLink ≠ hpRecovery ∨ s.hreg Reg.HUB_HOST_PHY_STATUS.PAUSE = 1 then .next s
  else if s.hostLanes < 4 then finish (s.hostSet hpDown)
  else finish (s.hostSet hpL0).retrainDo

/-- HOST_LINK_TRAINED (R596, R600): training ends. The host-light step of stage POWER ends with it. -/
def execHostLinkTrained (ok : Bool) (s : State) : Result :=
  if s.hostLink ≠ hpTraining then .next s
  else
    let s1 := s.hostSet (if ok && decide (4 ≤ s.hostLanes) then hpL0 else hpDown)
    finish (s1.updSeed (fun U => { U with lightDone := true })).retrainDo

/-- ASPM_L1_ENTRY (R599). -/
def execAspmL1Entry (s : State) : Result :=
  if s.hostLink = hpL0 then finish (s.hostSet hpL1) else .next s

/-- Traffic brings the link back from L1. -/
def State.hostWake (s : State) : State := if s.hostLink = hpL1 then s.hostSet hpL0 else s

/-- Whether the link can carry a TLP, waking from L1 where it must. -/
def State.hostUp (s : State) : Bool := decide (s.hostLink = hpL0) || decide (s.hostLink = hpL1)

/-! ### Event rings and MSI-X (R608, R610, R623, R624) -/

/-- The function an event ring belongs to. -/
def spaceFn (sp : Space) : Nat := match sp with | .hub => 0 | .field f => f + 1

/-- A write of CONS: messages of the function may be sent again. -/
def State.evtCons (s : State) (sp : Space) (v : Nat) : State :=
  let s1 := match sp with
    | .hub => s.hset Reg.HUB_EVT_IDX.CONS v
    | .field f => s.fset f Reg.FLD_EVT_IDX.CONS v
  s1.updHub (fun H => { H with msixSent := SMap.set H.msixSent 0 (spaceFn sp) 0 })

/-- EVT_CONS_WRITE (R624). -/
def execEvtConsWrite (sp : Space) (v : Nat) (s : State) : Result := .next (s.evtCons sp v)

/-- A write of an event ring's register: SIZE_LOG kept to 6 to 15; a change of BASE or SIZE_LOG sets PROD and CONS to 0. -/
def State.evtRing (s : State) (sp : Space) (enable : Bool) (sizeLog base : Nat) : State :=
  let z := max 6 (min 15 (sizeLog % 16))
  let b := base % 2 ^ 36
  match sp with
  | .hub =>
    let same := decide (s.hreg Reg.HUB_EVT_RING.SIZE_LOG = z) && decide (s.hreg Reg.HUB_EVT_RING.BASE = b)
    let s1 := ((s.hset Reg.HUB_EVT_RING.ENABLE (b2n enable)).hset Reg.HUB_EVT_RING.SIZE_LOG z).hset Reg.HUB_EVT_RING.BASE b
    if same then s1 else (s1.hset Reg.HUB_EVT_IDX.PROD 0).hset Reg.HUB_EVT_IDX.CONS 0
  | .field f =>
    let same := decide (s.freg f Reg.FLD_EVT_RING.SIZE_LOG = z) && decide (s.freg f Reg.FLD_EVT_RING.BASE = b)
    let s1 := ((s.fset f Reg.FLD_EVT_RING.ENABLE (b2n enable)).fset f Reg.FLD_EVT_RING.SIZE_LOG z).fset f
      Reg.FLD_EVT_RING.BASE b
    if same then s1 else (s1.fset f Reg.FLD_EVT_IDX.PROD 0).fset f Reg.FLD_EVT_IDX.CONS 0

/-- EVT_RING_CONFIG (R623). -/
def execEvtRingConfig (sp : Space) (enable : Bool) (sizeLog base : Nat) (s : State) : Result :=
  .next (s.evtRing sp enable sizeLog base)

/-- Whether a class is a function's MAILBOX, which no write of CONS re-arms (R609, R610). -/
def mailboxClass (fn cls : Nat) : Bool := if fn = 0 then decide (cls = 4) else decide (cls = 9)

/-- Whether a function's messages can leave: a field in hub-lost operation has no link to the hub (R35). -/
def State.fnReaches (s : State) (fn : Nat) : Bool := decide (fn = 0) || !(s.field (fnField fn)).hubLost

/-- MSI-X of a function which the host has not configured since its reset: not enabled, every vector masked. PRESUMED (log entry
13): the values of PCI Express. -/
def msixInit : MsixConfig := ⟨false, false, 0xFFF⟩

/-- MSI-X of a function as the host has configured it. -/
def State.msixOf (s : State) (fn : Nat) : MsixConfig := SMap.get s.hub.host.msix msixInit fn

/-- Whether a message of class c may go: MSI-X enabled, neither the function nor the vector masked (R610). -/
def msixLets (c : MsixConfig) (cls : Nat) : Bool := c.enable && !c.fnMask && !bit c.vecMask cls

/-- What the host has written to a function's MSI-X capability and table. -/
def State.msixWrite (s : State) (fn : Nat) (cfg : Option MsixConfig) : State :=
  match cfg with
  | none => s
  | some c => s.updHost (fun U => { U with msix := SMap.set U.msix msixInit fn c })

/-- MSIX_MESSAGE (R610): a message that is due goes where the function's MSI-X and the link let it. `cfg`: what the host has
written to the function's MSI-X capability and table since the last such command, which no row of its own carries (log entry
13). -/
def execMsixMessage (fn : Fin 5) (cls : Fin 12) (cfg : Option MsixConfig) (s0 : State) : Result :=
  let s := s0.msixWrite fn cfg
  if bit (SMap.get s.hub.msixDue 0 fn) cls && msixLets (s.msixOf fn) cls && s.hostUp && s.fnReaches fn then
    let s1 := s.updHub (fun H => { H with
      msixDue := SMap.set H.msixDue 0 fn (setBit (SMap.get H.msixDue 0 fn) cls false),
      msixSent := if mailboxClass fn cls then H.msixSent
        else SMap.set H.msixSent 0 fn (setBit (SMap.get H.msixSent 0 fn) cls true) })
    finish (s1.hostWake.emit (.msix fn cls))
  else .next s

/-! ### Resets and power states of a function (R602, R618, R619) -/

/-- Every register of a mailbox endpoint. -/
def allMbxFlds : List MbxFld :=
  [.inPtr, .inTag, .inEpoch, .inFull, .role, .outPtr, .outTag, .outEpoch, .pending, .refused, .ackCode, .done]

/-- A reset of an endpoint's domain: its delivered notice is acknowledged, its own notice loses its acknowledgement, its
registers are cleared. -/
def State.mbxReset (s : State) (ep : MbxEp) : State :=
  let s1 := (s.mbxReceiverReset ep).mbxSenderReset ep
  let s2 := allMbxFlds.foldl (fun (t : State) (k : MbxFld) => t.mbxSet ep k 0) s1
  match ep with
  | .rimp f => (s2.fset f Reg.MBX_RIMP_OUT_META.TARGET 0).fset f Reg.MBX_RIMP_IN_META.SENDER 0
  | _ => s2

/-- An event ring's registers at their reset values, and no message of its function due. -/
def State.evtReset (s : State) (sp : Space) : State :=
  let s1 := match sp with
    | .hub => ((((s.hset Reg.HUB_EVT_RING.ENABLE 0).hset Reg.HUB_EVT_RING.SIZE_LOG 6).hset Reg.HUB_EVT_RING.BASE 0).hset
        Reg.HUB_EVT_IDX.PROD 0).hset Reg.HUB_EVT_IDX.CONS 0 |>.hset Reg.HUB_EVT_IDX.LOST 0
    | .field f => ((((s.fset f Reg.FLD_EVT_RING.ENABLE 0).fset f Reg.FLD_EVT_RING.SIZE_LOG 6).fset f
        Reg.FLD_EVT_RING.BASE 0).fset f Reg.FLD_EVT_IDX.PROD 0).fset f Reg.FLD_EVT_IDX.CONS 0 |>.fset f Reg.FLD_EVT_IDX.LOST 0
  s1.updHub (fun H => { H with
    msixDue := SMap.set H.msixDue 0 (spaceFn sp) 0, msixSent := SMap.set H.msixSent 0 (spaceFn sp) 0 })

/-- The management registers at their reset values; a read in progress is forgotten. -/
def State.mgmtReset (s : State) : State :=
  let s0 := ((s.hset Reg.HUB_MGMT_REQ.NODE 0).hset Reg.HUB_MGMT_REQ.OFFSET 0).hset Reg.HUB_MGMT_REQ.WORDS 0
  let s1 := (s0.hset Reg.HUB_MGMT_STATUS.BUSY 0).hset Reg.HUB_MGMT_STATUS.RESULT 0
  ((List.range 32).foldl (fun (t : State) (i : Nat) => t.hset Reg.HUB_MGMT_DATA.WORD 0 0 i) s1).updHost
    (fun U => { U with mgmt := none })

/-- FUNCTION_LEVEL_RESET (R602). -/
def execFunctionLevelReset (fn : Fin 5) (s : State) : Result :=
  let s1 := s.updHost (fun U => { U with
    d3 := setBit U.d3 fn false, aerDrop := setBit U.aerDrop fn false, aerPoison := setBit U.aerPoison fn false,
    wait := U.wait.filter (fun a => a.src ≠ fn.val), held := U.held.filter (fun a => a.1 ≠ fn.val)
    msix := SMap.erase U.msix fn })
  if fn.val = 0 then finish (((s1.evtReset .hub).mbxReset .host).mgmtReset)
  else
    let f := fnField fn
    finish ((((s1.evtReset (.field f)).mbxReset (.fld f)).mbxReset (.rimp f)).fset f Reg.FLD_APERTURE.BASE 0)

/-- POWER_STATE_CHANGE (R602). -/
def execPowerStateChange (fn : Fin 5) (d3 : Bool) (s : State) : Result :=
  .next (s.updHost (fun U => { U with d3 := setBit U.d3 fn d3 }))

/-! ### Management reads (R612, R678)

The spec gives a beacon's bytes and no other management packet's: the KIND bytes 0x21 to 0x23 and the layouts below are
the model's own (DESIGN CHOICE). -/

def kMgmtRead : Nat := 0x21
def kMgmtReply : Nat := 0x22
def kMgmtRecord : Nat := 0x23

/-- The body of a management read, reply or record: KIND, WORDS, 0, 0, OFFSET, then its data. -/
def mgmtBody (kind words off : Nat) (data : List Byte) : List Byte :=
  leBytes 1 kind ++ leBytes 1 words ++ leBytes 2 0 ++ leBytes 4 off ++ data

/-- Whether a packet is a management packet of a kind for field f. -/
def State.mgmtOk (s : State) (f : FieldId) (kind : Nat) (p : Packet) : Bool :=
  decide (p.dst = s.node f) && decide (p.allot = mgmtAllot) && decide (p.cls = 0) && decide (pktField p 16 1 = kind)

/-- A management packet leaves the router's inbox. -/
def State.takeInbox (s : State) (f : FieldId) (p : Packet) : State :=
  s.updRouter f (fun R => { R with inbox := R.inbox.erase p })

/-- A read requested through HUB_MGMT_REQ. -/
def State.mgmtRead (s : State) (node off words : Nat) : State :=
  if s.hreg Reg.HUB_MGMT_STATUS.BUSY = 1 then s.hset Reg.HUB_MGMT_STATUS.RESULT St.BUSY
  else if s.hreg Reg.HUB_MGMT_CTL.ENABLE = 0 ∨ words = 0 ∨ 16 < words ∨ off % 8 ≠ 0 then
    s.hset Reg.HUB_MGMT_STATUS.RESULT St.MGMT_REFUSED
  else
    let s1 := (s.hset Reg.HUB_MGMT_STATUS.BUSY 1).updHost (fun U => { U with mgmt := some (node, words) })
    match s1.lowRim with
    | none => s1
    | some g => s1.issuePacket g 0 (s1.newPacket g node 0 0 (mgmtBody kMgmtRead words off []))

/-- MGMT_READ (R612): a write of GO. -/
def execMgmtRead (node off words : Nat) (s : State) : Result :=
  .next (s.mgmtRead (node % 2 ^ 16) (off % 2 ^ 28) (words % 2 ^ 5))

/-- Reads a rim's management endpoint queues. -/
def mgmtQueue : Nat := 16

/-- Whether a read of a word of field f's registers, which arrived when the plot's next QSN was q, waits on the bin scoreboard
(R692). -/
def State.readWaits (s : State) (f : FieldId) (off q : Nat) : Bool :=
  match fieldPlace off with
  | .bin p t row _ => s.windowUp f p && segBusy (issuedBefore (s.plot f p).queue q) t (row / 32)
  | _ => false

/-- A read that waits on the bin scoreboard counts a cycle of BIN_WAIT of the plot it addresses (R114). -/
def State.readWaited (s : State) (f : FieldId) (off : Nat) : State :=
  match fieldPlace off with
  | .bin p _ _ _ => s.pwrap f p Reg.PLT_TINE_STALL.BIN_WAIT
  | _ => s

/-- The QSN the plot that a word of field f's registers addresses would give next. -/
def State.readQsn (s : State) (f : FieldId) (off : Nat) : Nat :=
  match fieldPlace off with
  | .bin p _ _ _ => (s.plot f p).nextQsn
  | _ => 0

/-- A management read as it arrives. -/
def State.mgmtArrive (s : State) (f : FieldId) (p : Packet) : MgmtWait :=
  ⟨p, (List.range (pktField p 17 1)).map (fun i => (pktField p 20 4 + 8 * i, s.readQsn f (pktField p 20 4 + 8 * i)))⟩

/-- 8-byte words of field register space, each read as the host reads it. -/
def State.fieldReads (s : State) (f : FieldId) (off : Nat) : Nat → State × List Byte
  | 0 => (s, [])
  | n + 1 =>
    let (s1, v) := s.fieldRead f off 8
    let (s2, bs) := State.fieldReads s1 f (off + 8) n
    (s2, leBytes 8 v ++ bs)

/-- The oldest management read of a rim is served: its words are read as the host reads them, and returned; or it waits, until
none of its words waits on a bin scoreboard. -/
def State.mgmtServe (s : State) (f : FieldId) : State :=
  match (s.field f).mgmtq with
  | [] => s
  | m :: rest =>
    match m.words.find? (fun w => s.readWaits f w.1 w.2) with
    | some w => s.readWaited f w.1
    | none =>
      let off := pktField m.pkt 20 4
      let words := pktField m.pkt 17 1
      let s1 := s.updField f (fun F => { F with mgmtq := rest })
      let (s2, bs) := s1.fieldReads f off words
      s2.issuePacket f 0 (s2.newPacket f m.pkt.src 0 0 (mgmtBody kMgmtReply words off bs))

/-- MGMT_READ_SERVE (R678): a read arrives and is queued, or discarded where 16 wait; or the oldest one is served. -/
def execMgmtReadServe (f : FieldId) (arrive : Option Packet) (s : State) : Result :=
  if !s.rimUp f then .next s
  else
    match arrive with
    | none => finish (s.mgmtServe f)
    | some p =>
      if !s.mgmtOk f kMgmtRead p then .next s
      else
        let s1 := s.takeInbox f p
        if (s1.field f).mgmtq.length < mgmtQueue then
          .next (s1.updField f (fun F => { F with mgmtq := F.mgmtq ++ [s1.mgmtArrive f p] }))
        else .next s1

/-- The data window after a read: the words returned, and past them nothing the spec gives (free values). -/
def State.mgmtData (s : State) (p : Packet) (words : Nat) : State :=
  (List.range 32).foldl (fun (t : State) (i : Nat) =>
    if i < 2 * words then t.hset Reg.HUB_MGMT_DATA.WORD (pktField p (24 + 4 * i) 4) 0 i
    else
      let (v, u) := t.draw
      u.hset Reg.HUB_MGMT_DATA.WORD v 0 i) s

/-- MGMT_REPLY (R612): the reply to the read in progress reaches the hub. -/
def execMgmtReply (pkt : Packet) (s : State) : Result :=
  let s0 := allFields.foldl (fun (t : State) (f : FieldId) => t.takeInbox f pkt) s
  match s.hub.host.mgmt with
  | none => .next s0
  | some (node, words) =>
    if allFields.any (fun (f : FieldId) => s.mgmtOk f kMgmtReply pkt) && decide (pkt.src = node) &&
        decide (pktField pkt 17 1 = words) then
      .next ((((s0.mgmtData pkt words).hset Reg.HUB_MGMT_STATUS.BUSY 0).hset Reg.HUB_MGMT_STATUS.RESULT St.OK).updHost
        (fun U => { U with mgmt := none }))
    else .next s0

/-- MGMT_TIMEOUT_EXPIRY (R612): 100 µs have passed without a reply. -/
def execMgmtTimeoutExpiry (s : State) : Result :=
  match s.hub.host.mgmt with
  | none => .next s
  | some _ => .next (((s.hset Reg.HUB_MGMT_STATUS.BUSY 0).hset Reg.HUB_MGMT_STATUS.RESULT St.MGMT_TIMEOUT).updHost
      (fun U => { U with mgmt := none }))

/-! ### Forwarded events (R613, R679) -/

/-- Whether the router finds a way for a packet issued here. -/
def State.routable (s : State) (f : FieldId) (p : Packet) : Bool :=
  match (s.hop f ⟨p, 0⟩).2 with
  | .drop _ => false
  | _ => true

/-- EVENT_FORWARD (R613): the oldest waiting record is sent to the collector, or dropped. -/
def execEventForward (f : FieldId) (s : State) : Result := s.inRim f <|
  match (s.field f).fwdQueue with
  | [] => .next s
  | r :: rest =>
    let s1 := s.updField f (fun F => { F with fwdQueue := rest })
    let p := s1.newPacket f (s1.freg f Reg.FLD_EVT_FWD.COLLECTOR) 0 0 (mgmtBody kMgmtRecord 4 0 r)
    if s1.routable f p then .next (s1.issuePacket f 0 p) else .next (s1.fcount f Reg.FLD_EVT_FWD.DROPPED)

/-- FWD_DISCARD_TIMEOUT (R679): the oldest waiting record has waited 1 ms. -/
def execFwdDiscardTimeout (f : FieldId) (s : State) : Result := s.inRim f <|
  match (s.field f).fwdQueue with
  | [] => .next s
  | _ :: rest => .next ((s.updField f (fun F => { F with fwdQueue := rest })).fcount f Reg.FLD_EVT_FWD.DROPPED)

/-- Class FORWARDED of the hub ring (R609). -/
def clsForwarded : Nat := 5

/-- A record as its collector writes it (R607, R613): class FORWARDED, FORWARDED set, the index of this ring. -/
def forwardedRecord (r : List Byte) (seq : Nat) : List Byte :=
  r.take 2 ++ leBytes 1 clsForwarded ++ [((r[3]?).getD 0) ||| 2] ++ (r.drop 4).take 2 ++ leBytes 2 seq ++ r.drop 8

/-- FORWARDED_EVENT (R613): a record reaches its collector's hub. -/
def execForwardedEvent (f : FieldId) (pkt : Packet) (s : State) : Result := s.inRim f <|
  if !s.rimUp f || !s.mgmtOk f kMgmtRecord pkt then .next s
  else .next ((s.takeInbox f pkt).hubRing
    (forwardedRecord ((pkt.body.drop 8).take 32) (s.hreg Reg.HUB_EVT_IDX.PROD)) clsForwarded)

end Sys2Proof.Machine
end

