-- ==== Sys2Proof/Machine/RegWrite.lean ====
section
/-! DEFINITION. Writes to the register spaces (R13 to R15, R382, R604, R687 to R692): who may write what, what each field
keeps of a write, sealed fields, and what a write sets going. Requests to the bring-up sequencer are noted in
`SeedUnit.req` and done by Machine/Boot.lean once the write is. -/

namespace Sys2Proof.Machine

open Sys2Proof

/-! ### What a field keeps (R13, R14) -/

/-- The value a field holds once some of its bits are written: a WO field holds what its command will read. -/
def RegField.taken (k : RegField) (old pos len v : Nat) : Nat :=
  match k.access with
  | .wo => setBits old pos len v
  | a => a.write old pos len v

/-- The bits an access writes in an instance of a field, in place; none where it does not reach the field. -/
def RegField.wrote (k : RegField) (n i off bytes value : Nat) : Option Nat :=
  (k.part n i off bytes value).map (fun (pos, _, v) => v <<< pos)

/-- Whether an access reaches an instance of a field. -/
def RegField.hit (k : RegField) (n i off bytes : Nat) : Bool := (k.part n i off bytes 0).isSome

/-- Whether an access writes 1 to a one-bit field. -/
def RegField.one (k : RegField) (n i off bytes value : Nat) : Bool := decide (k.wrote n i off bytes value = some 1)

/-- The address of the register at an offset of a register space, as EV_HUB_SEALED_WRITE carries it (R14): a hub offset, or
a field address (R231, R687). -/
def spaceAddr (sp : Space) (off : Nat) : Nat := match sp with | .hub => off | .field _ => 0x200000000000 + off

/-! ### Who may write (R257, R260, R513, R604, R689 and the owning chapters) -/

/-- Hub registers only Yarzin writes. -/
def hubYarzin (off : Nat) : Bool :=
  (decide (0x68 ≤ off) && decide (off < 0x6C)) || (decide (0x20040 ≤ off) && decide (off < 0x20180)) ||
    (decide (0x70000 ≤ off) && decide (off < 0x80000)) || (decide (0x50000 ≤ off) && decide (off < 0x60000)) ||
    (decide (0x60020 ≤ off) && decide (off < 0x60030))

/-- Rim registers only Yarzin writes. -/
def rimYarzin (off : Nat) : Bool :=
  decide (off < 8) || (decide (0x18 ≤ off) && decide (off < 0x20)) || (decide (0x68 ≤ off) && decide (off < 0x70)) ||
    (decide (0xC0 ≤ off) && decide (off < 0xE8)) || (decide (0x10200 ≤ off) && decide (off < 0x10400)) ||
    (decide (0x20000 ≤ off) && decide (off < 0x50028)) || (decide (0x50030 ≤ off) && decide (off < 0x60000)) ||
    (decide (0x70000 ≤ off) && decide (off < 0x70020)) || (decide (0x80000 ≤ off) && decide (off < 0x800C0)) ||
    (decide (0x800E0 ≤ off) && decide (off < 0x90030)) ||
    (decide (0x90040 ≤ off) && decide (off < 0xA0000))

/-- Whether an agent may write an instance of a hub field. -/
def hubMay (host : Bool) (k : RegField) (n : Nat) : Bool :=
  let off := k.off + n * k.stride
  if k.off = 0x28 then host else !(host && hubYarzin off)

/-- Whether an agent may write an instance of a rim field. -/
def rimMay (host : Bool) (k : RegField) (n : Nat) : Bool := !(host && rimYarzin (k.off + n * k.stride))

/-! ### The hub -/

/-- Hub fields whose write is only an effect, or is stored by the effect. -/
def hubActs (k : RegField) : Bool :=
  match k.off, k.lo with
  | 0x18, _ => true
  | 0x28, _ => true
  | 0x58, _ => true
  | 0x60, 16 => true
  | 0x70, 63 => true
  | 0x10008, _ => true
  | 0x10010, 0 => true
  | 0x10010, 1 => true
  | 0x20010, _ => true
  | 0x20028, 32 => true
  | 0x90000, lo => decide (lo < 49)
  | _, _ => false

/-- What a hub register keeps of a written value (R547, R620, R663). -/
def hubClamp (k : RegField) (v : Nat) : Nat :=
  match k.off, k.lo with
  | 0x48, 1 => max v 0x64
  | 0x30010, 2 => max v 1
  | 0x30010, 13 => min v 100
  | 0x30010, 32 => max 1 (min v 64)
  | 0x50000, 2 => max 10 (min v 34)
  | 0x50000, 8 => max v 1
  | _, _ => v

/-- Whether the hub's injection registers take writes (R512). -/
def State.injWritable (s : State) : Bool := decide (s.hreg Reg.HUB_INJ_STATUS.OPEN = 1)

/-- One hub field takes its part of a write. -/
def State.hubTake (s : State) (host : Bool) (k : RegField) (n i pos len v : Nat) : State :=
  let old := s.hreg k n i
  let shut := (decide (k.access = .sl) && s.hubSealed) || (decide (k.off = 0x90000) && !s.injWritable)
  if hubActs k || shut || !hubMay host k n then s else s.hset k (hubClamp k (k.taken old pos len v)) n i

/-- The register of an SL field that a write would give another value, by its own offset, wherever the access begins (R14);
none where there is no such field. `may`: whether the agent may write register n of a field's family; `old`: what a field
holds. An access that would change sealed fields of two registers names the one the table lists first. DESIGN CHOICE (log
entry 39): a write the agent may not make (R604) counts as no write, so it raises nothing. -/
def sealedRegister (ks : List RegField) (may : RegField → Nat → Bool) (old : RegField → Nat → Nat → Nat)
    (off bytes value : Nat) : Option Nat :=
  ks.findSome? (fun k => if k.access = .sl then (k.near off bytes).findSome? (fun (n, i) =>
    match k.part n i off bytes value with
    | some (pos, len, v) =>
      if may k n ∧ setBits (old k n i) pos len v ≠ old k n i then some (k.off + n * k.stride) else none
    | none => none) else none)

/-- The sealed hub register a write would change. -/
def State.hubSealHit (s : State) (host : Bool) (off bytes value : Nat) : Option Nat :=
  if s.hubSealed then sealedRegister Reg.hubFields (hubMay host) (fun k n i => s.hreg k n i) off bytes value else none

/-- A write of a hub mailbox endpoint's IN_ACK and SEND (R174, R618). -/
def State.hubMbxWrite (s : State) (host : Bool) (ep : MbxEp) (off bytes value : Nat) : State :=
  let n := hubMbx ep
  if !hubMay host Reg.MBX_HUB_IN_ACK.CODE n then s
  else
    let s1 := match Reg.MBX_HUB_IN_ACK.CODE.wrote n 0 off bytes value with
      | some c => s.mbxInAck ep c
      | none => s
    if Reg.MBX_HUB_OUT_META.SEND.one n 0 off bytes value then s1.mbxSend ep else s1

/-- The hub's endpoints. -/
def hubEps : List MbxEp := [.host, .yzh, .yzr 0, .yzr 1, .yzr 2, .yzr 3]

/-- A request for the bring-up sequencer. -/
def State.bootAsk (s : State) (r : BootReq) : State := s.updSeed (fun U => { U with req := U.req ++ [r] })

/-- What a write asks of the sequencer: resets, gates, images, the debug lock (R552, R554, R573, R578, R581). -/
def State.hubBootWrite (s : State) (off bytes value : Nat) : State :=
  let s1 := match Reg.SEED_STAGE_GO.STAGE.wrote 0 0 off bytes value with
    | some st => if Reg.SEED_STAGE_GO.SKIP.one 0 0 off bytes value then s.bootAsk (.skip st) else s.bootAsk (.go st)
    | none => s
  let s2 := if Reg.SEED_CTL.HOST_IMAGE.one 0 0 off bytes value then s1.bootAsk .hostImage else s1
  let s3 := if Reg.SEED_CTL.IMAGES_READY.one 0 0 off bytes value then s2.bootAsk .imagesReady else s2
  let s4 := if Reg.HUB_JTAG_RESP.SIG_S.hit 0 0 off bytes && decide (0x180 + 92 ≤ off + bytes - 1) then s3.bootAsk .jtag else s3
  let s5 := match Reg.HUB_RESET_CTL.PART.wrote 0 0 off bytes value with
    | some m => if m = 0 then s4 else s4.bootAsk (.part m)
    | none => s4
  if Reg.HUB_RESET_CTL.WARM.one 0 0 off bytes value then s5.bootAsk .warm else s5

/-- A write of HUB_EVT_RING, HUB_EVT_IDX and HUB_MGMT_REQ. -/
def State.hubHostWrite (s : State) (off bytes value : Nat) : State :=
  let nw := fun (t : State) (k : RegField) => match k.part 0 0 off bytes value with
    | some (pos, len, v) => setBits (t.hreg k) pos len v
    | none => t.hreg k
  let s1 := if Reg.HUB_EVT_RING.ENABLE.hit 0 0 off bytes || Reg.HUB_EVT_RING.BASE.hit 0 0 off bytes then
      s.evtRing .hub (decide (nw s Reg.HUB_EVT_RING.ENABLE = 1)) (nw s Reg.HUB_EVT_RING.SIZE_LOG) (nw s Reg.HUB_EVT_RING.BASE)
    else s
  let s2 := if Reg.HUB_EVT_IDX.CONS.hit 0 0 off bytes then s1.evtCons .hub (nw s1 Reg.HUB_EVT_IDX.CONS) else s1
  if Reg.HUB_MGMT_REQ.GO.one 0 0 off bytes value then
    s2.mgmtRead (s2.hreg Reg.HUB_MGMT_REQ.NODE) (s2.hreg Reg.HUB_MGMT_REQ.OFFSET) (s2.hreg Reg.HUB_MGMT_REQ.WORDS)
  else s2

/-- ARM of a hub injection register, where the lock is open (R696). -/
def State.hubInjWrite (s : State) (r off bytes value : Nat) : State :=
  if !s.injWritable then s
  else
    let keep := decide (s.hreg Reg.INJ_HPT.ARM r = 1)
    let put := fun (t : State) (k : RegField) => match k.part r 0 off bytes value with
      | some (pos, len, v) => if keep then t else t.hset k (setBits (t.hreg k r) pos len v) r
      | none => t
    let s1 := put (put (put s Reg.INJ_HPT.POINT) Reg.INJ_HPT.TARGET) Reg.INJ_HPT.ARG
    if Reg.INJ_HPT.ARM.one r 0 off bytes value && !keep then s1.injHubArm r else s1

/-- What the rest of a hub write sets going (R285, R512, R637, R641, R661). -/
def State.hubEffects (s : State) (host : Bool) (govWas off bytes value : Nat) : State :=
  let s1 := hubEps.foldl (fun (t : State) ep => t.hubMbxWrite host ep off bytes value) s
  let s2 := (s1.hubHostWrite off bytes value).hubBootWrite off bytes value
  let s3 := (s2.hubInjWrite 0 off bytes value).hubInjWrite 1 off bytes value
  let s4 := if host && Reg.HUB_INJ_UNLOCK.VALUE.hit 0 0 off bytes then
      s3.injUnlockWrite ((Reg.HUB_INJ_UNLOCK.VALUE.wrote 0 0 off bytes value).getD 0)
        (Reg.HUB_INJ_UNLOCK.REQ.one 0 0 off bytes value) (Reg.HUB_INJ_UNLOCK.LOCK.one 0 0 off bytes value)
    else s3
  let s5 := if Reg.PWR_MODE_CTL.MODE.hit 0 0 off bytes then (s4.limitChange).modeFromReg else s4
  let s6 := if govWas = 1 ∧ s5.hreg Reg.PWR_GOV_CTL.GOV_EN = 0 then s5.governOff else s5
  s6.retrainDo

/-- A write to hub register space. -/
def State.hubWrite (s : State) (host : Bool) (off bytes value : Nat) : State :=
  let s0 := match s.hubSealHit host off bytes value with
    | some r => s.raiseHub Ev.HUB_SEALED_WRITE [(8, spaceAddr .hub r)]
    | none => s
  let s1 := Reg.hubFields.foldl (fun (t : State) k => (k.near off bytes).foldl (fun (u : State) (n, i) =>
    match k.part n i off bytes value with
    | some (pos, len, v) => u.hubTake host k n i pos len v
    | none => u) t) s0
  s1.hubEffects host (s.hreg Reg.PWR_GOV_CTL.GOV_EN) off bytes value

/-! ### A rim -/

/-- Rim fields whose write is only an effect, or is stored by the effect. -/
def rimActs (k : RegField) : Bool :=
  match k.off, k.lo with
  | 0x0, _ => true
  | 0x58, _ => true
  | 0x60, 16 => true
  | 0xC0, _ => true
  | 0x20008, _ => true
  | 0x20100, 0 => true
  | 0x30100, 0 => true
  | 0x30100, 1 => true
  | 0x40010, 0 => true
  | 0x40020, _ => true
  | 0x40200, 3 => true
  | 0x70000, 10 => true
  | 0x800c0, 0 => true
  | 0x800c0, 1 => true
  | 0x90030, _ => true
  | 0x90038, _ => true
  | 0xb0010, _ => true
  | 0xb0028, 32 => true
  | 0xc0000, lo => decide (lo < 26)
  | 0xc0008, lo => decide (lo < 49)
  | _, _ => false

/-- What a rim register keeps of a written value (the tables of the owning chapters). -/
def State.rimClamp (s : State) (k : RegField) (old v : Nat) : Nat :=
  match k.off, k.lo with
  | 0x20, 0 => if 1 ≤ v ∧ v < 6 then 6 else min v 16
  | 0x50, 0 => min v 0x80
  | 0x10010, 1 => max v 1
  | 0x20010, 1 => max v 0x64
  | 0x30000, 0 => max v 1
  | 0x30000, 56 => 0
  | 0x30008, 0 => max v 1
  | 0x30100, 2 => if s.hostStepped then v else old
  | 0x30100, 16 => max v 0x3E8
  | 0x40048, 1 => max 0x10 (min v 0x1E)
  | 0x50008, 0 => max v 0x7D0
  | 0x50010, _ => max 0x40 (min v 0x2000)
  | 0x50020, 0 => if v = 3 then old else v
  | 0x90010, 0 => max 2 (min v 8)
  | 0x90010, 4 => max 4 (min v 14)
  | _, _ => v

/-- Whether the SL fields of a rim are sealed (R382). -/
def State.rimSealed (s : State) (f : FieldId) : Bool := decide (s.freg f Reg.RTE_TABLE_STATUS.SEALED = 1)

/-- Whether a rim field takes no write just now: sealed, behind the injection lock, or TLY_EPOCH away from the acting root
(R14, R512, R546). -/
def State.rimShut (s : State) (f : FieldId) (k : RegField) : Bool :=
  (decide (k.access = .sl) && s.rimSealed f) || (decide (0xc0000 ≤ k.off) && !s.injOpenAt f) ||
    (decide (k.off = 0x90050) && decide (s.tlyState f ≠ tsRoot))

/-- One rim field takes its part of a write. -/
def State.rimTake (s : State) (f : FieldId) (host : Bool) (k : RegField) (n i pos len v : Nat) : State :=
  let old := s.freg f k n i
  if rimActs k || s.rimShut f k || !rimMay host k n then s
  else s.fset f k (s.rimClamp k old (k.taken old pos len v)) n i

/-- The sealed rim register a write would change. -/
def State.rimSealHit (s : State) (f : FieldId) (host : Bool) (off bytes value : Nat) : Option Nat :=
  if s.rimSealed f then sealedRegister Reg.rimFields (rimMay host) (fun k n i => s.freg f k n i) off bytes value else none

/-- The value a rim field would hold after a write. -/
def State.rimNew (s : State) (f : FieldId) (k : RegField) (n i off bytes value : Nat) : Nat :=
  match k.part n i off bytes value with
  | some (pos, len, v) => setBits (s.freg f k n i) pos len v
  | none => s.freg f k n i

/-- Writes of FLD_ registers with effects (R185, R249, R395, R623, R624). -/
def State.fldEffects (s : State) (f : FieldId) (host : Bool) (off bytes value : Nat) : State :=
  let s1 := match Reg.FLD_ALLOT.ID.wrote 0 0 off bytes value with
    | some v => if host then s else s.allotWrite f (v % 2 ^ 12)
    | none => s
  let s2 := if Reg.FLD_EVT_RING.ENABLE.hit 0 0 off bytes || Reg.FLD_EVT_RING.BASE.hit 0 0 off bytes then
      s1.evtRing (.field f) (decide (s1.rimNew f Reg.FLD_EVT_RING.ENABLE 0 0 off bytes value = 1))
        (s1.rimNew f Reg.FLD_EVT_RING.SIZE_LOG 0 0 off bytes value) (s1.rimNew f Reg.FLD_EVT_RING.BASE 0 0 off bytes value)
    else s1
  let s3 := if Reg.FLD_EVT_IDX.CONS.hit 0 0 off bytes then
      s2.evtCons (.field f) (s2.rimNew f Reg.FLD_EVT_IDX.CONS 0 0 off bytes value) else s2
  let s4 := match Reg.FLD_DOORBELL_RING.BITS.wrote 0 0 off bytes value with
    | some v => s3.doorbellRing f v (s3.freg f Reg.FLD_DOORBELL_RING.TARGET) (s3.freg f Reg.FLD_DOORBELL_RING.SCOPE)
    | none => s3
  match Reg.FLD_FALLOW_RUN.RUN.wrote 0 0 off bytes value with
  | some m => if host then s4 else ((List.range 272).filter (bit m)).foldl (fun (t : State) q => t.makeFallow f q) s4
  | none => s4

/-- Writes of HDL_ and RTE_ link registers with effects (R286, R303, R349). -/
def State.linkEffects (s : State) (f : FieldId) (off bytes value : Nat) : State :=
  let s1 := (List.range 4).foldl (fun (t : State) (e : Nat) =>
    let t1 := match Reg.HDL_ENGINE_CTL.TARGET.wrote 0 e off bytes value with
      | some v => t.fset f Reg.HDL_ENGINE_CTL.TARGET v 0 e
      | none => t
    let tgt := t1.freg f Reg.HDL_ENGINE_CTL.TARGET 0 e
    let t2 := if Reg.HDL_ENGINE_CTL.REQ.one 0 e off bytes value then t1.switchQueue f (BitVec.ofNat 2 e).toFin tgt true else t1
    if Reg.HDL_ENGINE_CTL.NOW.one 0 e off bytes value then t2.switchQueue f (BitVec.ofNat 2 e).toFin tgt false else t2) s
  (List.range 16).foldl (fun (t : State) (k : Nat) =>
    let n : PortId := (BitVec.ofNat 4 k).toFin
    let t1 := match Reg.HDL_PORT_CTL.TX_MODE_REQ.wrote k 0 off bytes value with
      | some m => if m = 3 then t
        else ((t.fset f Reg.HDL_PORT_CTL.TX_MODE_REQ m k).updPort f n (fun P => { P with fallback := false })).txModeUpdate f n
      | none => t
    let t2 := match Reg.RTE_LINK_CTL.ENABLE.wrote k 0 off bytes value with
      | some 0 => if t1.freg f Reg.RTE_LINK_CTL.ENABLE k = 1 then t1.linkDisable f n else t1
      | some _ => if t1.freg f Reg.RTE_LINK_CTL.ENABLE k = 1 then t1 else (t1.fset f Reg.RTE_LINK_CTL.ENABLE 1 k).linkStart f n
      | none => t1
    let t3 := if Reg.RTE_LINK_CTL.RETRY.one k 0 off bytes value then t2.linkRetry f n else t2
    match Reg.RTE_DISC_STATUS.APPROVED.wrote k 0 off bytes value with
    | some 0 => t3.updPort f n (fun P => { P with approved := none })
    | _ => t3) s1

/-- Writes of RTE_ fabric, GWY_ and SHF_ registers with effects (R365, R382, R426, R416, R445). -/
def State.fabricEffects (s : State) (f : FieldId) (host : Bool) (off bytes value : Nat) : State :=
  let s1 := if host then s
    else
      let a := match Reg.RTE_DISC_APPROVE.APPROVE.wrote 0 0 off bytes value with
        | some m => (List.range 16).foldl (fun (t : State) k => if bit m k then t.discApprove f (BitVec.ofNat 4 k).toFin else t) s
        | none => s
      let b := if Reg.RTE_TABLE_CTL.SEAL.one 0 0 off bytes value then a.seal f else a
      match Reg.GWY_ALLOT_HALT.ID.wrote 0 0 off bytes value with
      | some v => b.allotHalt f v
      | none => b
  let s2 := match Reg.GWY_RED_RELEASE.ALLOT.wrote 0 0 off bytes value with
    | some v => s1.redRelease f v
    | none => s1
  if Reg.SHF_GROUP_CMD.OP.hit 0 0 off bytes then
    let slot := s2.freg f Reg.SHF_GROUP_CMD.SLOT
    let addr := s2.freg f Reg.SHF_GROUP_CMD.ADDR * 256
    match s2.freg f Reg.SHF_GROUP_CMD.OP with
    | 1 => s2.shfRegister f slot addr
    | 2 => s2.shfReform f slot addr
    | 3 => s2.shfRelease f slot
    | _ => s2
  else s2

/-- A write has changed RTE_CONG_CTL: a window of the new length ends at the next multiple from now on (R384, R398). -/
def State.congTake (s old : State) (f : FieldId) : State :=
  if s.freg f Reg.RTE_CONG_CTL.WINDOW_LOG = old.freg f Reg.RTE_CONG_CTL.WINDOW_LOG ∧
      s.freg f Reg.RTE_CONG_CTL.ENABLE = old.freg f Reg.RTE_CONG_CTL.ENABLE then s
  else s.updRouter f (fun R => { R with congSeen := (s.field f).tally.tInt })

/-- Writes of MIR_ and mirror-region registers with effects (R247, R501, R504, R510). -/
def State.mirEffects (s : State) (f : FieldId) (host : Bool) (off bytes value : Nat) : State :=
  let regions := decide (off < 0x10100) && decide (0x10080 < off + bytes)
  let s1 := if regions then s.updMir f (fun U => { U with regionsDue := true }) else s
  let s3 := if host then s1
    else
      let s2 := if off < 0x80008 ∧ 0x80000 < off + bytes then s1.updMir f (fun U => { U with srcDue := true }) else s1
      [0, 1].foldl (fun (t : State) n =>
        if off < 0x80060 + 0x20 * n ∧ 0x80040 + 0x20 * n < off + bytes then
          t.updMir f (fun U => { U with partDue := setBit U.partDue n true }) else t) s2
  let s4 := if Reg.MIR_LOAD_CTL.START.one 0 0 off bytes value then s3.loadStart f else s3
  if Reg.MIR_LOAD_CTL.ABORT.one 0 0 off bytes value then s4.loadAbort f else s4

/-- Writes of HLT_, TLY_ and MBX_ registers with effects (R174, R480, R527, R618). -/
def State.rimOtherEffects (s : State) (f : FieldId) (host : Bool) (off bytes value : Nat) : State :=
  let s1 := if !host && Reg.HLT_SCORE.EXPEL.one 0 0 off bytes value then s.expelClear f else s
  let s2 := if Reg.TLY_MARK_NEXT.NEXT.hit 0 0 off bytes then s1.markNext f (s1.rimNew f Reg.TLY_MARK_NEXT.NEXT 0 0 off bytes value)
    else s1
  let s3 := if Reg.TLY_MARK_CTL.ARMED.hit 0 0 off bytes || Reg.TLY_MARK_CTL.PERIOD.hit 0 0 off bytes then
      s2.markCtl f (decide (s2.rimNew f Reg.TLY_MARK_CTL.ARMED 0 0 off bytes value = 1))
        (s2.rimNew f Reg.TLY_MARK_CTL.PERIOD 0 0 off bytes value) else s2
  [(0, MbxEp.fld f), (1, MbxEp.rimp f)].foldl (fun (t : State) (n, ep) =>
    let t1 := match Reg.MBX_RIM_IN_ACK.CODE.wrote n 0 off bytes value with
      | some c => t.mbxInAck ep c
      | none => t
    if Reg.MBX_RIM_OUT_META.SEND.one n 0 off bytes value then t1.mbxSend ep else t1) s3

/-- ARM of a rim's injection registers, where the lock is open for the field (R144, R512, R696). -/
def State.rimInjWrite (s : State) (f : FieldId) (off bytes value : Nat) : State :=
  if !s.injOpenAt f then s
  else
    let keepA := decide (s.freg f Reg.INJ_ARITH.ARM = 1)
    let putA := fun (t : State) (k : RegField) => if keepA then t else t.fset f k (t.rimNew f k 0 0 off bytes value)
    let s1 := [Reg.INJ_ARITH.POINT, Reg.INJ_ARITH.PLOT, Reg.INJ_ARITH.TINE, Reg.INJ_ARITH.COLUMN, Reg.INJ_ARITH.BIT,
      Reg.INJ_ARITH.LANE].foldl putA s
    let s2 := if Reg.INJ_ARITH.ARM.one 0 0 off bytes value && !keepA then s1.injArithArm f else s1
    (List.range 7).foldl (fun (t : State) r =>
      let keep := decide (t.freg f Reg.INJ_PT.ARM r = 1)
      let put := fun (u : State) (k : RegField) => if keep then u else u.fset f k (u.rimNew f k r 0 off bytes value) r
      let t1 := [Reg.INJ_PT.POINT, Reg.INJ_PT.TARGET, Reg.INJ_PT.ARG].foldl put t
      if Reg.INJ_PT.ARM.one r 0 off bytes value && !keep then t1.injArm f r else t1) s2

/-- A write to a rim's registers. -/
def State.rimWrite (s : State) (f : FieldId) (host : Bool) (off bytes value : Nat) : State :=
  let s0 := match s.rimSealHit f host off bytes value with
    | some r => s.raiseHub Ev.HUB_SEALED_WRITE [(8, spaceAddr (.field f) r)]
    | none => s
  let s1 := (Reg.rimFields ++ rimpFields).foldl (fun (t : State) k => (k.near off bytes).foldl (fun (u : State) (n, i) =>
    match k.part n i off bytes value with
    | some (pos, len, v) => u.rimTake f host k n i pos len v
    | none => u) t) s0
  let s2 := (s1.congTake s0 f).fldEffects f host off bytes value
  let s3 := if host then s2 else s2.linkEffects f off bytes value
  (((s3.fabricEffects f host off bytes value).mirEffects f host off bytes value).rimOtherEffects f host off bytes
    value).rimInjWrite f off bytes value

/-! ### Every space -/

/-- A write to field register space (R687, R691, R692). A rim that is not powered, or is DARK, holds no register. DESIGN CHOICE
(log entry 39): a write of MBX_PLOT_ROLE by the host or Yarzin takes effect; R186 says only that the drill writes it. -/
def State.fieldWrite (s : State) (f : FieldId) (host : Bool) (off bytes value : Nat) : State :=
  match fieldPlace off with
  | .rim => if s.rimUp f then s.rimWrite f host off bytes value else s
  | .plot p o => -- DESIGN CHOICE (log entry 44): a host's write of PLT_DOORBELL is discarded, Yarzin's clears bits
    if !s.windowUp f p || (host && decide (o / 8 = 0x10)) then s else s.plotWrite f p false o bytes value
  | .bin p t row col => if s.windowUp f p then s.binWindowWrite f p t row col value (bytes / 4) else s
  | .none => s

/-- A write by the host or by Yarzin, before what it asks of the sequencer. -/
def State.spaceWrite (s : State) (host : Bool) (sp : Space) (off bytes value : Nat) : State :=
  match sp with
  | .hub => s.hubWrite host off bytes value
  | .field f => s.fieldWrite f host off bytes value

/-- A register write of an agent (R604, R689): a host function reaches its own space only, a drill its own window. -/
def State.agentWrite (s : State) (a : Agent) (sp : Space) (off bytes value : Nat) : State :=
  match a, sp with
  | .yarzin, _ => s.spaceWrite false sp off bytes value
  | .host pf, .hub => if pf.val = 0 then s.spaceWrite true .hub off bytes value else s
  | .host pf, .field f => if pf.val = f.val + 1 then s.spaceWrite true (.field f) off bytes value else s
  | .drill f p, .field g =>
    if f = g ∧ fieldPlace off = .plot p (off % 0x1000) ∧ s.windowUp f p = true then
      s.plotWrite f p true (off % 0x1000) bytes value
    else s
  | .drill _ _, .hub => s
  | .jtag, .hub => -- DESIGN CHOICE (log entry 44): unlocked access is that of PF0; until then the tester reaches HUB_JTAG_RESP only
    if s.hreg Reg.HUB_JTAG_STATUS.UNLOCKED = 1 || (decide (0x180 ≤ off) && decide (off + bytes ≤ 0x1E0)) then
      s.spaceWrite true .hub off bytes value
    else s
  | .jtag, .field _ => s

end Sys2Proof.Machine
end

