-- ==== Sys2Proof/Machine/Crypto.lean ====
section
/-! DEFINITION. The algorithms stage SEED and the JTAG lock use (R565, R567, R570, R581): SHA-384, ECDSA over P-384,
and CRC-32C. The first two are those of FIPS 180-4 and FIPS 186-5, which R565 names. -/

namespace Sys2Proof.Machine

open Sys2Proof

/-! ### CRC-32C (R570) -/

/-- One bit of the reflected Castagnoli division. -/
def crc32cBits (c : Nat) : Nat → Nat
  | 0 => c
  | n + 1 => crc32cBits (if c % 2 = 1 then (c / 2) ^^^ 0x82F63B78 else c / 2) n

/-- CRC-32C of bytes (R570). -/
def crc32c (bs : List Byte) : Nat :=
  (bs.foldl (fun (c : Nat) (b : Byte) => crc32cBits (c ^^^ b.toNat) 8) 0xFFFFFFFF) ^^^ 0xFFFFFFFF

/-! ### SHA-384 -/

/-- The largest r below 2^bits with r^k ≤ x, a bit at a time from the top: r so far is the last argument. -/
def rootBits (k x : Nat) : Nat → Nat → Nat
  | 0, r => r
  | bits + 1, r => rootBits k x bits (if (r + 2 ^ bits) ^ k ≤ x then r + 2 ^ bits else r)

/-- The first 64 bits of the fraction of the k-th root of p, which FIPS 180-4 builds its constants from. -/
def rootFraction (k p : Nat) : Nat := rootBits k (p * 2 ^ (64 * k)) 70 0 % 2 ^ 64

/-- The first eighty primes. -/
def shaPrimes : List Nat :=
  (List.range 410).filter (fun n =>
    decide (2 ≤ n) && (List.range 19).all (fun d => decide (n ≤ d + 2) || decide (n % (d + 2) ≠ 0)))

/-- Round constants of SHA-384: the fractions of the cube roots of the first eighty primes. -/
def sha512K : List Nat := shaPrimes.map (rootFraction 3)

/-- Initial hash value of SHA-384: the fractions of the square roots of the ninth to the sixteenth prime. -/
def sha384Init : List Nat := ((shaPrimes.drop 8).take 8).map (rootFraction 2)

/-- A 64-bit word rotated right. -/
def rotr64 (x n : Nat) : Nat := (x >>> n) ||| ((x <<< (64 - n)) % 2 ^ 64)

/-- The next n words of the message schedule, from the last sixteen, newest first. -/
def sha512Sched : Nat → List Nat → List Nat
  | 0, _ => []
  | n + 1, w =>
    let w15 := nth w 14
    let w2 := nth w 1
    let s0 := rotr64 w15 1 ^^^ rotr64 w15 8 ^^^ (w15 >>> 7)
    let s1 := rotr64 w2 19 ^^^ rotr64 w2 61 ^^^ (w2 >>> 6)
    let x := (s1 + nth w 6 + s0 + nth w 15) % 2 ^ 64
    x :: sha512Sched n (x :: w.take 15)

/-- The eight working variables. -/
structure ShaVars where
  a : Nat
  b : Nat
  c : Nat
  d : Nat
  e : Nat
  f : Nat
  g : Nat
  h : Nat
  deriving DecidableEq, Repr

/-- One round, with the constant and the schedule's word. -/
def ShaVars.round (v : ShaVars) (kw : Nat × Nat) : ShaVars :=
  let s1 := rotr64 v.e 14 ^^^ rotr64 v.e 18 ^^^ rotr64 v.e 41
  let ch := (v.e &&& v.f) ^^^ ((2 ^ 64 - 1 - v.e) &&& v.g)
  let t1 := v.h + s1 + ch + kw.1 + kw.2
  let s0 := rotr64 v.a 28 ^^^ rotr64 v.a 34 ^^^ rotr64 v.a 39
  let maj := (v.a &&& v.b) ^^^ (v.a &&& v.c) ^^^ (v.b &&& v.c)
  ⟨(t1 + s0 + maj) % 2 ^ 64, v.a, v.b, v.c, (v.d + t1) % 2 ^ 64, v.e, v.f, v.g⟩

/-- The value of bytes in big-endian order. -/
def beNat (bs : List Byte) : Nat := bs.foldl (fun (x : Nat) (b : Byte) => x * 256 + b.toNat) 0

/-- n bytes of x in big-endian order. -/
def beBytes (n x : Nat) : List Byte := (leBytes n x).reverse

/-- One block of 128 bytes folded into the hash value. -/
def sha512Block (hv : List Nat) (blk : List Byte) : List Nat :=
  let ws := (List.range 16).map (fun i => beNat ((blk.drop (8 * i)).take 8))
  let sched := ws ++ sha512Sched 64 ws.reverse
  let v0 : ShaVars := ⟨nth hv 0, nth hv 1, nth hv 2, nth hv 3, nth hv 4, nth hv 5, nth hv 6, nth hv 7⟩
  let v := (sha512K.zip sched).foldl ShaVars.round v0
  List.zipWith (fun x y => (x + y) % 2 ^ 64) hv [v.a, v.b, v.c, v.d, v.e, v.f, v.g, v.h]

/-- Blocks of 128 bytes folded in turn. -/
def sha512Blocks (hv : List Nat) (bs : List Byte) : Nat → List Nat
  | 0 => hv
  | n + 1 => sha512Blocks (sha512Block hv (bs.take 128)) (bs.drop 128) n

/-- SHA-384 of bytes, as 48 bytes. -/
def sha384 (bs : List Byte) : List Byte :=
  let l := bs.length
  let zeros := (128 - (l + 17) % 128) % 128
  let padded := bs ++ 0x80 :: List.replicate zeros 0 ++ beBytes 16 (8 * l)
  ((sha512Blocks sha384Init padded (padded.length / 128)).take 6).flatMap (beBytes 8)

/-! ### ECDSA over P-384 -/

/-- The prime, the order, b and the base point of P-384. -/
def p384P : Nat := 2 ^ 384 - 2 ^ 128 - 2 ^ 96 + 2 ^ 32 - 1
def p384N : Nat :=
  0xffffffffffffffffffffffffffffffffffffffffffffffffc7634d81f4372ddf581a0db248b0a77aecec196accc52973
def p384B : Nat :=
  0xb3312fa7e23ee7e4988e056be3f82d19181d9c6efe8141120314088f5013875ac656398d8a2ed19d2a85c8edd3ec2aef
def p384G : Nat × Nat :=
  (0xaa87ca22be8b05378eb1c71ef320ad746e1d3b628ba79b9859f741e082542a385502f25dbf55296c3a545e3872760ab7,
   0x3617de4a96262c6f5d9e98bf9292dc29f8f41dbd289a147ce9da3113b5f0b8c00a60b1ce1d7e819d7a431d7c90ea0e5f)

/-- Euclid's algorithm with one coefficient: the inverse of a modulo m. -/
def invLoop (r0 r1 t0 t1 : Int) : Nat → Int
  | 0 => t0
  | n + 1 => if r1 = 0 then t0 else invLoop r1 (r0 % r1) t1 (t0 - r0 / r1 * t1) n

def modInv (m a : Nat) : Nat := (invLoop m (a % m : Nat) 0 1 600 % (m : Int)).toNat

/-- A point of the curve, none at infinity. -/
abbrev EcPoint := Option (Nat × Nat)

def subMod (m a b : Nat) : Nat := (a + m - b % m) % m

/-- Whether (x, y) lies on P-384. -/
def p384On (q : Nat × Nat) : Bool :=
  decide (q.1 < p384P) && decide (q.2 < p384P) &&
    decide (q.2 * q.2 % p384P = (subMod p384P (q.1 * q.1 % p384P * q.1 % p384P) (3 * q.1) + p384B) % p384P)

/-- Addition on P-384. -/
def p384Add (a b : EcPoint) : EcPoint :=
  match a, b with
  | none, _ => b
  | _, none => a
  | some (x1, y1), some (x2, y2) =>
    if x1 = x2 ∧ (y1 + y2) % p384P = 0 then none
    else
      let l :=
        if x1 = x2 then subMod p384P (3 * x1 * x1) 3 * modInv p384P (2 * y1) % p384P
        else subMod p384P y2 y1 * modInv p384P (subMod p384P x2 x1) % p384P
      let x3 := subMod p384P (subMod p384P (l * l) x1) x2
      some (x3, subMod p384P (l * subMod p384P x1 x3) y1)

/-- k times a point, by the low n bits of k. -/
def p384Mul (k : Nat) (a : EcPoint) : Nat → EcPoint
  | 0 => none
  | n + 1 => if k = 0 then none else
    let r := p384Mul (k / 2) (p384Add a a) n
    if k % 2 = 1 then p384Add a r else r

/-- Whether (r, s) is a signature by Q of a message whose SHA-384 value is e (FIPS 186-5). -/
def ecdsaOk (q : Nat × Nat) (e r s : Nat) : Bool :=
  if !p384On q || decide (r = 0) || decide (p384N ≤ r) || decide (s = 0) || decide (p384N ≤ s) then false
  else
    let w := modInv p384N s
    match p384Add (p384Mul (e * w % p384N) (some p384G) 384) (p384Mul (r * w % p384N) (some q) 384) with
    | none => false
    | some (x, _) => decide (x % p384N = r)

end Sys2Proof.Machine
end

