-- ==== Sys2Proof/Machine/SeedImage.lean ====
section
/-! DEFINITION. Seed images and the carry area (R561 to R570): their layout, their checks, and the records of an accepted
image as the stages read them. -/

namespace Sys2Proof.Machine

open Sys2Proof

/-- A little-endian field of n bytes at an offset. -/
def leAt (b : List Byte) (off n : Nat) : Nat := leNat ((b.drop off).take n)

/-! ### Records (R561 to R563) -/

/-- A record: TYPE, FLAGS, its value, and the bytes that fill it up to a multiple of 8. -/
structure ImgRec where
  type : Nat
  flags : Nat
  value : List Byte
  pad : List Byte
  deriving DecidableEq, Repr

def recStageAuto : Nat := 0x0001
def recPkgCoord : Nat := 0x0002
def recPortPlan : Nat := 0x0003
def recVcArb : Nat := 0x0004
def recTallyRoots : Nat := 0x0005
def recPinAssign : Nat := 0x0006
def recCalCoeff : Nat := 0x0007
def recFallow : Nat := 0x0008
def recNearClass : Nat := 0x0009
def recProving : Nat := 0x000A
def recDrillImage : Nat := 0x000B
def recDrillMap : Nat := 0x000C
def recRegWrite : Nat := 0x000D
def recRepairCarry : Nat := 0x0010
def recSignature : Nat := 0xFFFF

/-- The records that walk exactly to the end of the bytes; none where they do not. -/
def imgRecords : Nat → List Byte → Option (List ImgRec)
  | 0, _ => none
  | fuel + 1, b =>
    if b = [] then some []
    else if b.length < 8 then none
    else
      let n := leAt b 4 4
      let m := (n + 7) / 8 * 8
      if b.length < 8 + m then none
      else
        let r : ImgRec := ⟨leAt b 0 2, leAt b 2 2, (b.drop 8).take n, (b.drop (8 + n)).take (m - n)⟩
        (imgRecords fuel (b.drop (8 + m))).map (fun rs => r :: rs)

/-- Bytes of an image's header, of its longest length, and of its SIGNATURE record. -/
def imgHeader : Nat := 64
def imgMax : Nat := 0x800000
def imgSig : Nat := 200

/-- LENGTH of an image. -/
def imgLength (b : List Byte) : Nat := leAt b 8 4

/-- The image's records where its form is right (check 1 of R565). -/
def imgForm (b : List Byte) : Option (List ImgRec) :=
  let n := imgLength b
  if b.length < imgHeader ∨ leAt b 0 4 ≠ 0x36395447 ∨ leAt b 4 2 ≠ 1 ∨ n < 0x100 ∨ imgMax < n ∨ n % 8 ≠ 0 ∨ b.length < n then none
  else
    match imgRecords n ((b.take n).drop imgHeader) with
    | none => none
    | some rs =>
      match rs.getLast? with
      | none => none
      | some r => if r.type = recSignature ∧ r.value.length = 192 ∧ leAt b 12 4 = rs.length then some rs else none

/-- D of an image: the SHA-384 of the bytes before its SIGNATURE record (R565). -/
def imgDigest (b : List Byte) : List Byte := sha384 (b.take (imgLength b - imgSig))

/-- The key Q of an image's SIGNATURE record. -/
def imgKey (b : List Byte) : Nat × Nat :=
  let v := (b.take (imgLength b)).drop (imgLength b - 192)
  (leAt v 96 48, leAt v 144 48)

/-- The SHA-384 of a key, as a register would hold it. -/
def keyDigest (q : Nat × Nat) : Nat := leNat (sha384 (beBytes 48 q.1 ++ beBytes 48 q.2))

/-- The fused key hash (R566). -/
def fusedHash : Nat := Config.keyHash % 2 ^ 384

/-- Check 2 of R565, with R566: the signature, under the fused key or, where none is fused and the package is host-stepped,
under the image's own. -/
def imgSigned (b : List Byte) (stepped : Bool) : Bool :=
  let v := (b.take (imgLength b)).drop (imgLength b - 192)
  let q := imgKey b
  (if fusedHash = 0 then stepped else decide (keyDigest q = fusedHash)) &&
    ecdsaOk q (beNat (imgDigest b)) (leAt v 0 48) (leAt v 48 48)

/-! ### The records' own rules (R562 to R564, R570) -/

/-- Whether bytes are all 0. -/
def allZero (b : List Byte) : Bool := b.all (fun x => decide (x = 0))

/-- Bytes of hub and of field register space (R687). -/
def hubSpace : Nat := 0xA0000
def fieldSpace : Nat := 0x6000000

/-- A REG_WRITE entry's layout (R564); its OFFSET lies in each register space its target names. -/
def regEntryOk (e : List Byte) : Bool :=
  let stage := leAt e 0 1
  let target := leAt e 1 1
  decide (1 ≤ stage) && decide (stage ≤ 8) && decide (target < 32) && (decide (stage ≠ 1) || decide (target = 16)) &&
    allZero ((e.drop 2).take 6) && decide (leAt e 8 8 % 8 = 0) && (!bit target 4 || decide (leAt e 8 8 < hubSpace)) &&
    (decide (target % 16 = 0) || decide (leAt e 8 8 < fieldSpace))

/-- Bytes cut into pieces of n. -/
def pieces (n : Nat) : Nat → List Byte → List (List Byte)
  | 0, _ => []
  | k + 1, b => b.take n :: pieces n k (b.drop n)

/-- A DRILL_IMAGE value's layout (R570). -/
def drillImageOk (v : List Byte) : Bool :=
  let blocks := leAt v 2 2
  let load := leAt v 4 4
  let entry := leAt v 8 4
  decide (16 ≤ v.length) && decide (leAt v 0 1 < 4) && decide (leAt v 1 1 < 2) && decide (1 ≤ blocks) && decide (blocks ≤ 256) &&
    decide (load % 4096 = 0) && decide (load + 4096 * blocks ≤ 0x3FFC00) && decide (load ≤ entry) &&
    decide (entry < load + 4096 * blocks) && allZero ((v.drop 12).take 4) &&
    decide (v.length = 16 + 4 * blocks + (if leAt v 1 1 = 1 then 0 else 4096 * blocks))

/-- A PORT_PLAN value's layout (R359); what it plans is checked at the seal (R360). -/
def portPlanOk (v : List Byte) : Bool :=
  decide (v.length = 272) && allZero ((v.drop 11).take 5) &&
    (List.range 64).all (fun p => decide (leAt v (16 + 4 * p) 4 < 2 ^ 14))

/-- Whether a record follows its row of R563. -/
def recOk (r : ImgRec) : Bool :=
  let v := r.value
  decide (r.flags < 2) && allZero r.pad &&
  match r.type with
  | 0x0001 => decide (v.length = 4) && decide (leNat v &&& 0x1FE = leNat v)
  | 0x0002 => decide (v.length = 4) && decide (leAt v 0 1 < 4) && decide (leAt v 1 1 < 16) && decide (leAt v 2 1 < 32) &&
      decide (leAt v 3 1 = 0)
  | 0x0003 => portPlanOk v
  | 0x0004 => decide (v.length = 12)
  | 0x0005 => decide (v.length = 8)
  | 0x0006 => decide (v.length = 8)
  | 0x0007 => decide (v.length = 8)
  | 0x0008 => decide (v.length = 160) && (List.range 4).all (fun f => allZero ((v.drop (40 * f + 34)).take 6))
  | 0x0009 => decide (v.length = 4)
  | 0x000A => decide (v.length = 4)
  | 0x000B => drillImageOk v
  | 0x000C => decide (v.length = 1024) && v.all (fun x => decide (x.toNat < 16))
  | 0x000D => decide (v.length % 24 = 0) && (pieces 24 (v.length / 24) v).all regEntryOk
  | 0x0010 => false
  | 0xFFFF => decide (v.length = 192)
  | _ => decide (r.flags = 0)

/-- Records of a type. -/
def recsOf (rs : List ImgRec) (t : Nat) : List (List Byte) := (rs.filter (fun r => r.type = t)).map (fun r => r.value)

/-- Check 4 of R565. -/
def imgRecordsOk (b : List Byte) (rs : List ImgRec) : Bool :=
  let count := fun (t : Nat) => (recsOf rs t).length
  let images := (recsOf rs recDrillImage).map (fun v => leAt v 0 1)
  allZero ((b.take imgHeader).drop 24) && rs.all recOk && decide (count recPkgCoord = 1) && decide (count recPortPlan = 1) &&
    decide (count recSignature = 1) &&
    [recStageAuto, recVcArb, recTallyRoots, recPinAssign, recCalCoeff, recFallow, recNearClass, recProving, recDrillMap].all
      (fun t => decide (count t ≤ 1)) &&
    decide (images.eraseDups.length = images.length)

/-- The code of an image's check (R565): OK, or the first that applies. -/
def imgCheck (b : List Byte) (stepped : Bool) : Nat :=
  match imgForm b with
  | none => St.SEED_FORMAT
  | some rs =>
    if !imgSigned b stepped then St.SEED_SIGNATURE
    else if leAt b 6 2 < Config.minSvn then St.SEED_VERSION
    else if imgRecordsOk b rs then St.OK
    else St.SEED_FORMAT

/-! ### What the stages read of an accepted image -/

/-- The records of an accepted image. -/
def imgParts (b : List Byte) : List ImgRec := (imgForm b).getD []

/-- The value of the record of a type, as a number; none where the image has no such record. -/
def imgVal (b : List Byte) (t : Nat) : Option (List Byte) := (recsOf (imgParts b) t).head?

/-- The DRILL_IMAGE value with an INDEX. -/
def imgDrill (b : List Byte) (i : Nat) : Option (List Byte) := (recsOf (imgParts b) recDrillImage).find? (fun v => leAt v 0 1 = i)

def diBlocks (v : List Byte) : Nat := leAt v 2 2
def diLoad (v : List Byte) : Nat := leAt v 4 4
def diEntry (v : List Byte) : Nat := leAt v 8 4
def diHost (v : List Byte) : Bool := decide (leAt v 1 1 = 1)
def diCrcs (v : List Byte) : List Byte := (v.drop 16).take (4 * diBlocks v)
def diCrc (v : List Byte) (k : Nat) : Nat := leAt v (16 + 4 * k) 4
def diBytes (v : List Byte) : List Byte := v.drop (16 + 4 * diBlocks v)

/-- The byte of DRILL_MAP for a plot (R563): image 0 by fetch without one. -/
def imgMap (b : List Byte) (f p : Nat) : Nat :=
  match imgVal b recDrillMap with
  | some v => leAt v (256 * f + p) 1
  | none => 0

/-- The REG_WRITE entries of a stage, in record order (R564): target, offset, value. -/
def imgRegWrites (b : List Byte) (stage : Nat) : List (Nat × Nat × Nat) :=
  ((recsOf (imgParts b) recRegWrite).flatMap (fun v => pieces 24 (v.length / 24) v)).filterMap (fun e =>
    if leAt e 0 1 = stage then some (leAt e 1 1, leAt e 8 8, leAt e 16 8) else none)

/-! ### The flash (R554, R560) -/

/-- Whether a flash may boot: 1-4-4 fast read, and 32 to 256 MiB. -/
def flashOk (x : Flash) : Bool := x.fast144 && decide (2 ^ 25 ≤ x.density) && decide (x.density ≤ 2 ^ 28)

/-- A byte of the flash: 0xFF where nothing was programmed (R560 leaves it open, PRESUMED: log entry 44). -/
def flashByte (x : Flash) (a : Nat) : Byte :=
  match x.areas.find? (fun e => decide (e.1 ≤ a) && decide (a < e.1 + e.2.length)) with
  | some e => e.2.getD (a - e.1) 0xFF
  | none => 0xFF

/-- n bytes of the flash. -/
def flashRead (x : Flash) (a n : Nat) : List Byte := (List.range n).map (fun i => flashByte x (a + i))

/-- Where slot A (0) or B (1) begins. -/
def flashSlotAt (x : Flash) (slot : Nat) : Nat := if slot = 0 then 0 else x.density / 2

/-- What the hub reads of a slot: its header, and LENGTH bytes, 8 MiB at most. -/
def flashSlot (x : Flash) (slot : Nat) : List Byte :=
  flashRead x (flashSlotAt x slot) (max imgHeader (min imgMax (imgLength (flashRead x (flashSlotAt x slot) imgHeader))))

/-- The carry area: the last 64 KiB. -/
def flashCarry (x : Flash) : List Byte := flashRead x (x.density - 0x10000) 0x10000

/-! ### The carry area (R569) -/

/-- The entries of a carry area; none where the hub ignores it whole. -/
def carryEntries (b : List Byte) : Option (List Nat) :=
  let n := leAt b 4 2
  let e := (b.drop 16).take (8 * n)
  if leAt b 0 4 = 0x59525243 ∧ n ≤ 256 ∧ e.length = 8 * n ∧ leAt b 8 4 = crc32c e then
    some ((List.range n).map (fun i => leAt e (8 * i) 8))
  else none

end Sys2Proof.Machine
end

