-- ==== Sys2Proof/Machine/Firmware.lean ====
section
/-! DEFINITION. Drill firmware (R253, R573 to R577): the boot ROM's delivery by fetch, sowing along the rows of a field,
and row and column multicasts. -/

namespace Sys2Proof.Machine

open Sys2Proof

/-- The accepted seed image. -/
def State.image (s : State) : List Byte := s.hub.seed.image

/-- Where image i of a field stands in its HBM (R573), and a plot's CRC table in its store (R574). -/
def imageAt (i : Nat) : Nat := 0x2FFF000000 + i * 0x400000
def crcTableAt : Nat := 0x3FFC00

/-- STATUS of PLT_BOOT (R592). -/
def pbWait : Nat := 0
def pbReceive : Nat := 1
def pbFetching : Nat := 2
def pbLoaded : Nat := 3
def pbFailed : Nat := 4
def pbNone : Nat := 5

/-- The logical plots of a field that are not vacant. -/
def State.livePlots (s : State) (f : FieldId) : List PlotId :=
  ((List.range 256).map plotIx).filter (fun p => !s.vacant f p)

/-- A plot's PLT_BOOT is filled from DRILL_MAP, its CRC table written and HOLD cleared; a plot without an image stays
HELD (R574). An image the seed image does not hold counts as none. -/
def State.plotFill (s : State) (f : FieldId) (p : PlotId) : State :=
  let e := imgMap s.image f p
  let v := if bit e 3 then none else imgDrill s.image (e % 4)
  let s1 := s.updPlot f p (fun P => (((((P.setReg Reg.PLT_BOOT.IMAGE (e % 4)).setReg Reg.PLT_BOOT.SOW (bits e 2 1)).setReg
    Reg.PLT_BOOT.NONE (b2n v.isNone)).setReg Reg.PLT_BOOT.STATUS (if v.isNone then pbNone else pbWait)).setReg
    Reg.PLT_BOOT.REPAIRS 0).setReg Reg.PLT_BOOT.FAIL_BLOCK 0)
  match v with
  | none => s1
  | some d => (s1.storeWrite f p crcTableAt (diCrcs d) rqMesh).drillCtl f p false false false

/-- FLD_BOOT_STATUS counts a delivery from zero, and every plot is filled. -/
def State.fillAll (s : State) (f : FieldId) : State :=
  let s1 := [Reg.FLD_BOOT_STATUS.FETCHED, Reg.FLD_BOOT_STATUS.SOWN, Reg.FLD_BOOT_STATUS.REPAIRS,
    Reg.FLD_BOOT_STATUS.FW_FALLOW].foldl (fun (t : State) k => t.fset f k 0) s
  (s1.livePlots f).foldl (fun (t : State) p => t.plotFill f p) s1

/-! ### The boot ROM (R574, R576) -/

/-- Whether the boot ROM of a plot runs. -/
def State.bootRuns (s : State) (f : FieldId) (p : PlotId) : Bool :=
  let d := (s.plot f p).drill
  (s.plot f p).boot.active && decide (d.st = .running) && !d.haltReq && !(s.field f).held && !s.vacant f p

def State.updBoot (s : State) (f : FieldId) (p : PlotId) (g : BootUnit → BootUnit) : State :=
  s.updPlot f p (fun P => { P with boot := g P.boot })

/-- Whether the block that stands in a plot's store agrees with the table there. -/
def State.blockGood (s : State) (f : FieldId) (p : PlotId) (v : List Byte) (k : Nat) : State × Bool :=
  let (s1, b, bad) := s.storeRead f p (diLoad v + 4096 * k) 4096 rqDrill
  let (s2, c, bad2) := s1.storeRead f p (crcTableAt + 4 * k) 4 rqDrill
  (s2, !bad.any id && !bad2.any id && decide (crc32c b = leNat c))

/-- A GET of one block from the image region, line by line, and its check. -/
def State.fetchBlock (s : State) (f : FieldId) (p : PlotId) (v : List Byte) (k : Nat) : State × Bool :=
  let src := imageAt (s.preg f p Reg.PLT_BOOT.IMAGE) + 4096 * k
  let s1 := (List.range 32).foldl (fun (t : State) (j : Nat) =>
    let (u, x) := t.lineRead f ((src + 128 * j) / 128) srcXfer
    u.localWriteLine f p (diLoad v + 4096 * k + 128 * j) x.data (x.poisonLo || x.poisonHi)) s
  s1.blockGood f p v k

/-- Every block is good: the drill enters the firmware. -/
def State.bootEnter (s : State) (f : FieldId) (p : PlotId) (v : List Byte) : State :=
  let sown := (s.plot f p).boot.repair
  let s1 := s.updPlot f p (fun P => { P.setReg Reg.PLT_BOOT.STATUS pbLoaded with
    boot := BootUnit.reset
    drill := { P.drill with xr := SMap.set [] 0 10 (diLoad v), mie := false, pc := diEntry v, fetchBuf := [] } })
  s1.fcount f (if sown then Reg.FLD_BOOT_STATUS.SOWN else Reg.FLD_BOOT_STATUS.FETCHED)

/-- A block still fails after its refetches: the plot goes fallow (R576). -/
def State.bootFail (s : State) (f : FieldId) (p : PlotId) (k : Nat) : State :=
  let s1 := s.updPlot f p (fun P => { (P.setReg Reg.PLT_BOOT.STATUS pbFailed).setReg Reg.PLT_BOOT.FAIL_BLOCK k with
    boot := BootUnit.reset })
  let s2 := s1.fcount f Reg.FLD_BOOT_STATUS.FW_FALLOW
  match physOf (s2.memu f).remap p with
  | some q => s2.makeFallow f q
  | none => s2

/-- Refetches of a failing block. -/
def bootRefetches : Nat := 3

/-- The next block of the list is fetched, or the delivery ends. -/
def State.bootBlock (s : State) (f : FieldId) (p : PlotId) (v : List Byte) : State :=
  let B := (s.plot f p).boot
  match B.todo with
  | [] => s.bootEnter f p v
  | k :: rest =>
    let s0 := if B.repair && decide (B.tries = 0) then
        (s.pcount f p Reg.PLT_BOOT.REPAIRS).fcount f Reg.FLD_BOOT_STATUS.REPAIRS
      else s
    let (s1, good) := s0.fetchBlock f p v k
    if good then
      let s2 := s1.updBoot f p (fun B => { B with todo := rest, tries := 0 })
      if rest = [] then s2.bootEnter f p v else s2
    else if bootRefetches ≤ B.tries then s1.bootFail f p k
    else s1.updBoot f p (fun B => { B with tries := B.tries + 1 })

/-- One step of the boot ROM: what it does first, or one fetch of a block. -/
def State.bootStep (s : State) (f : FieldId) (p : PlotId) : State :=
  let i := s.preg f p Reg.PLT_BOOT.IMAGE
  let sow := decide (s.preg f p Reg.PLT_BOOT.SOW = 1) && decide (s.svc f = svcStarting)
  match imgDrill s.image i with
  | none => s
  | some v =>
    if s.preg f p Reg.PLT_BOOT.STATUS = pbWait then
      let s1 := s.updBoot f p (fun B => { B with todo := List.range (diBlocks v), tries := 0, repair := sow })
      s1.pset f p Reg.PLT_BOOT.STATUS (if sow && (s.field f).sow.contains (i, p / 16) then pbReceive else pbFetching)
    else if s.preg f p Reg.PLT_BOOT.STATUS = pbFetching then s.bootBlock f p v
    else s

/-- BOOT_FETCH (R574): one step of a plot's boot ROM. -/
def execBootFetch (f : FieldId) (p : PlotId) (s : State) : Result :=
  if s.bootRuns f p && s.partitionUp f then finish (s.bootStep f p) else .next s

/-- The boot ROM runs until its plot is LOADED, or fallow. -/
def State.bootAll (s : State) (f : FieldId) (p : PlotId) : Nat → State
  | 0 => s
  | n + 1 => if s.bootRuns f p then State.bootAll (s.bootStep f p) f p n else s

/-- Steps within which a delivery by fetch ends: 256 blocks, four fetches each, the start and the end. -/
def bootFuel : Nat := 1026

/-! ### Sowing (R575) -/

/-- A copy of a block reaches a plot: kept where the plot is in RECEIVE for that image and the CRC is right. -/
def State.sowCopy (s : State) (f : FieldId) (i k : Nat) (data : List Byte) (poisoned : Bool) (p : PlotId) : State :=
  match imgDrill s.image i with
  | none => s
  | some v =>
    if s.preg f p Reg.PLT_BOOT.STATUS ≠ pbReceive ∨ s.preg f p Reg.PLT_BOOT.IMAGE ≠ i ∨ diBlocks v ≤ k then s
    else
      let a := diLoad v + 4096 * k
      let s1 := if poisoned then s.storePoison f p (a / 8) 512 else s.storeWrite f p a data rqMesh
      let (s2, good) := s1.blockGood f p v k
      if good then s2.updBoot f p (fun B => { B with todo := B.todo.erase k }) else s2

/-- One block multicast along a row or column to the plots of a mask (R253). -/
def State.sowBlock (s : State) (f : FieldId) (isRow : Bool) (index mask i k : Nat) : State :=
  let r := s.hbmRead f (imageAt i + 4096 * k) 4096 srcRim
  r.1.mcast f isRow index mask (fun t p => t.sowCopy f i k r.2.1 r.2.2 p)

/-- The plots of a row selected for sowing an image, as a mask of columns. -/
def State.sowMask (s : State) (f : FieldId) (i row : Nat) : Nat :=
  (List.range 16).foldl (fun (m : Nat) (x : Nat) =>
    let p := plotIx (16 * row + x)
    if s.preg f p Reg.PLT_BOOT.SOW = 1 ∧ s.preg f p Reg.PLT_BOOT.NONE = 0 ∧ s.preg f p Reg.PLT_BOOT.IMAGE = i ∧
        s.vacant f p = false then m + 2 ^ x else m) 0

/-- After a row's last block its plots fetch what they missed. -/
def State.sowRowEnd (s : State) (f : FieldId) (row mask : Nat) : State :=
  (mcastPlots true row mask).foldl (fun (t : State) p =>
    if t.preg f p Reg.PLT_BOOT.STATUS = pbReceive then t.pset f p Reg.PLT_BOOT.STATUS pbFetching else t) s

/-- SOWING_ROW (R575): the next row of the sowing, once its plots are in RECEIVE or 100 µs have passed. -/
def execSowingRow (f : FieldId) (timeout : Bool) (s : State) : Result := s.inRim f <|
  match (s.field f).sow with
  | [] => .next s
  | (i, row) :: rest =>
    let mask := s.sowMask f i row
    let ready := (mcastPlots true row mask).all (fun p => decide (s.preg f p Reg.PLT_BOOT.STATUS = pbReceive))
    match imgDrill s.image i with
    | none => .next (s.updField f (fun F => { F with sow := rest }))
    | some v =>
      if (!ready && !timeout) || !s.partitionUp f then .next s
      else
        let s1 := (List.range (diBlocks v)).foldl (fun (t : State) k => t.sowBlock f true row mask i k) s
        finish ((s1.sowRowEnd f row mask).updField f (fun F => { F with sow := rest }))

/-- The rows to sow, image by image: those with a plot selected for sowing. -/
def State.sowList (s : State) (f : FieldId) : List (Nat × Nat) :=
  (List.range 4).flatMap (fun i => ((List.range 16).filter (fun row => decide (s.sowMask f i row ≠ 0))).map (fun row => (i, row)))

/-- MESH_MULTICAST (R172, R253): doorbell bits, or a block of an image, to the selected plots of a row or column. -/
def execMeshMulticast (f : FieldId) (isRow : Bool) (index : Fin 16) (mask : Nat) (load : McastLoad) (s : State) : Result := s.inRim f <|
  if !s.partitionUp f then .next s
  else
    match load with
    | .doorbell v => .next (s.mcast f isRow index (mask % 65536) (fun t p => t.ringPlot f p v))
    | .sowing i k => finish (s.sowBlock f isRow index (mask % 65536) (i % 4) k)

end Sys2Proof.Machine
end

