-- ==== Sys2Proof/Machine/Boot.lean ====
section
/-! DEFINITION. Bring-up (R549 to R577, R600): the stages, their gates, the seed image, known-answer tests. A STAGE_
command is the work of its stage; STAGE_END ends the stage once what it waits for has come. -/

namespace Sys2Proof.Machine

open Sys2Proof

/-! ### Stages and gates (R550 to R553) -/

def phRunning : Nat := 0
def phGated : Nat := 1
def phFailed : Nat := 2
def phDone : Nat := 3
def phWait : Nat := 4

def sgPower : Nat := 0
def sgSeed : Nat := 1
def sgFieldPower : Nat := 2
def sgMemory : Nat := 3
def sgLight : Nat := 4
def sgLinks : Nat := 5
def sgKnownAnswer : Nat := 6
def sgFirmware : Nat := 7
def sgFabric : Nat := 8
def sgReady : Nat := 9

def State.stage (s : State) : Nat := s.hreg Reg.SEED_STAGE.STAGE
def State.phase (s : State) : Nat := s.hreg Reg.SEED_STAGE.PHASE
def State.setPhase (s : State) (p : Nat) : State := s.hset Reg.SEED_STAGE.PHASE p

/-- Whether a stage's work is due: it is the present stage, runs, and its work has not been done. -/
def State.due (s : State) (k : Nat) : Bool :=
  decide (s.stage = k) && decide (s.phase = phRunning) && !s.hub.seed.begun

/-- Whether a stage's work has been done and it has not ended. -/
def State.working (s : State) (k : Nat) : Bool :=
  decide (s.stage = k) && decide (s.phase = phRunning) && s.hub.seed.begun

/-- The present stage's own work is done. -/
def State.begin (s : State) : State := s.updSeed (fun U => { U with begun := true })

/-- EV_SEED_STAGE (R583). -/
def State.stageEvent (s : State) (phase result : Nat) : State :=
  s.raiseHub Ev.SEED_STAGE [(1, s.stage), (1, phase), (2, result)]

/-- The clock of the stage's time stops or goes on: `since` holds the start while it runs, the time run while it stands. -/
def State.clockFlip (s : State) : State := s.updSeed (fun U => { U with since := s.now - U.since })

/-- A stage starts; in host-stepped mode stages SEED to FABRIC wait for the host. -/
def State.stageStart (s : State) (k : Nat) : State :=
  ((s.hset Reg.SEED_STAGE.STAGE k).setPhase
    (if s.hostStepped && decide (1 ≤ k) && decide (k ≤ 8) then phWait else phRunning)).updSeed
    (fun U => { U with begun := false, ahead := false, since := s.now })

/-- A stage fails as a whole, or stands for want of a field: its remedy is awaited. -/
def State.stageFail (s : State) (result : Nat) : State :=
  (((s.hset Reg.SEED_STAGE.RESULT result).setPhase phFailed).stageEvent phFailed result).clockFlip

/-- A stage waits for the host. -/
def State.stageWait (s : State) : State := (s.setPhase phWait).clockFlip

/-- A stage that stood goes on. -/
def State.stageResume (s : State) : State := (s.setPhase phRunning).clockFlip

/-- Whether a gate opens without a write of the host: by the STAGE_AUTO record, in autonomous mode. -/
def State.gateAuto (s : State) (k : Nat) : Bool := !s.hostStepped && bit (s.hreg Reg.SEED_STAGE.AUTO) (k - 1)

/-- The REG_WRITE entries of a stage, in order: each to the fields and the hub its target names (R564). -/
def State.applyWrites (s : State) (k : Nat) : State :=
  (imgRegWrites s.image k).foldl (fun (t : State) (target, off, v) =>
    let t1 := allFields.foldl (fun (u : State) (f : FieldId) =>
      if bit target f.val && decide (u.svc f ≠ svcDark) then u.spaceWrite false (.field f) off 8 v else u) t
    if bit target 4 then t1.spaceWrite false .hub off 8 v else t1) s

/-- Whether any field is STARTING. -/
def State.anyStarting (s : State) : Bool := allFields.any (fun (f : FieldId) => decide (s.svc f = svcStarting))

/-- A stage's TIME (R590): microseconds, saturating; 0 for a skipped stage. -/
def State.stageTime (s : State) (skipped : Bool) : State :=
  s.hset Reg.SEED_STAGE_TIME.TIME (if skipped then 0 else min 0xFFFFFFFF ((s.now - s.hub.seed.since) / 1000)) 0 s.stage

/-- A stage ends (R552, R553, R564): its time, its REG_WRITE entries, its event, and its gate. Stage FABRIC has applied
its entries before the seal. A package without a STARTING field stops, from FIELD POWER on. -/
def State.stageClose (s : State) (result : Nat) (skipped : Bool) : State :=
  let k := s.stage
  let s0 := if k = sgFirmware then s.hset Reg.SEED_CTL.IMAGES_READY 0 else s
  let s1 := s0.stageTime skipped
  let s2 := if k = sgFabric then s1 else s1.applyWrites k
  if 2 ≤ k && !s2.anyStarting then s2.stageFail St.NO_FIELD
  else
    let s3 := s2.hset Reg.SEED_STAGE.RESULT result
    if k = sgPower then (s3.stageEvent phRunning result).stageStart sgSeed
    else
      let s4 := (s3.setPhase phGated).stageEvent phGated result
      if skipped || s4.hub.seed.ahead || s4.gateAuto k then s4.stageStart (k + 1) else s4

/-- A write that names a stage (R552): its gate, or its start in host-stepped mode. -/
def State.stageGo (s : State) (k : Nat) : State :=
  if k ≠ s.stage then s.hset Reg.SEED_STAGE.GO_IGNORED 1
  else if s.phase = phWait ∧ s.hub.seed.begun = false then
    (s.setPhase phRunning).updSeed (fun U => { U with since := s.now })
  else if s.phase = phGated then s.stageStart (k + 1)
  else s.updSeed (fun U => { U with ahead := true })

/-- Whether SKIP may skip a stage (R550, R585). -/
def skippable (k : Nat) : Bool := decide (k = sgLight) || decide (k = sgLinks) || decide (k = sgKnownAnswer) || decide (k = sgFirmware)

/-- A write of SKIP (R550, R553): at the start of a stage the host steps, or as the remedy of a failed LIGHT. SKIP is
ignored elsewhere, and the write names its stage as any other does. -/
def State.stageSkip (s : State) (k : Nat) : State :=
  let start := decide (s.phase = phWait) && !s.hub.seed.begun
  let remedy := decide (k = sgLight) && decide (s.phase = phFailed) && decide (s.hreg Reg.SEED_STAGE.RESULT ≠ St.NO_FIELD)
  if s.hostStepped && skippable k && decide (k = s.stage) && (start || remedy) then s.stageClose St.OK true
  else s.stageGo k

/-! ### The host-light step (R600) -/

/-- The lights that answered IDENT for the host-light step, or why the step ends: an absent module does not end it while
the other answers with a valid role (R600). -/
def hostIdent (ident : List (Option Nat)) : List Nat × Option Nat :=
  let found := ident.filterMap id
  if found = [] then ([], some St.MODULE_ABSENT)
  else if found = [0, 0] ∨ found = [1, 1] ∨ found.any (fun r => 1 < r) then ([], some St.MODULE_ROLE)
  else ([0, 1].filter found.contains, none)

/-- Whether output 16 of module m passes its probe: the host engine's inlet at −6.0 dBm or more, every headland inlet
below −20.0 dBm. -/
def hostProbe (readings : List (List (List Int))) (m : Nat) : Bool :=
  let r := (readings.getD m []).getD 16 []
  decide (-48 ≤ r.getD (32 + m) (-1000)) && (List.range 32).all (fun i => decide (r.getD i (-1000) < -160))

/-- The step ends: with a code where it fails. -/
def State.hostLightEnd (s : State) (code : Option Nat) : State :=
  let s1 := match code with | some c => s.hset Reg.HDL_LIGHT_STATUS.RESULT c | none => s
  s1.updSeed (fun U => { U with lightDone := true })

/-- Modules that passed light output 16, and the lower-lettered one is the host engine's source; `tried`: the modules
probed, whose PROBE_FAIL shows what became of output 16 (R300). -/
def State.hostLit (s0 : State) (tried pass : List Nat) : State :=
  let s := tried.foldl (fun (t : State) m =>
    t.hset Reg.HDL_MODULE.PROBE_FAIL (setBit (t.hreg Reg.HDL_MODULE.PROBE_FAIL m) 16 (!pass.contains m)) m) s0
  let s1 := pass.foldl (fun (t : State) m =>
    (((t.emit (.i3c m i3cOutputMask (2 ^ 16))).emit (.i3c m i3cFullOn 0)).hset Reg.HDL_MODULE.OUTPUT_ON (2 ^ 16) m).setInlet 16 m true) s
  match pass with
  | [] => s1.hostLightEnd (some St.PROBE_FAILED)
  | m :: _ => (s1.engCalibrate 16).engLight 16 m

/-- The step (R600). -/
def State.hostLightStep (s : State) (env : LightEnv) : State :=
  let s0 := (s.updLight (fun L => { L with laserEn := env.laserEn, awake := true })).updSeed (fun U => { U with lightDone := false })
  let s1 := s0.hset Reg.PWR_RAIL_STATUS.PWREN_OPT 1
  if !env.pgoodOpt && !s1.railUp railOpt then s1.optTimeout.hostLightEnd (some St.OPT_POWER)
  else
    let s2 := s1.optUp
    if !env.laserEn then s2.hostLightEnd (some St.LASER_INTERLOCK)
    else
      let s3 := s2.identRead env.ident
      let (ms, code) := hostIdent env.ident
      let s4 := ms.foldl (fun (t : State) m => t.emit (.i3c m i3cProbe (2 ^ 16))) s3
      match code with
      | some c => s4.hostLightEnd (some c)
      | none => s4.hostLit ms (ms.filter (hostProbe env.readings))

/-- STAGE_POWER (R551, R600): fuses are sensed and the host-light step runs. -/
def execStagePower (env : LightEnv) (s : State) : Result :=
  if !s.due sgPower then .next s
  else
    let s1 := s.hset Reg.HUB_INJ_STATUS.FUSE (b2n Config.injFuse)
    let s2 := allFields.foldl (fun (t : State) (f : FieldId) =>
      t.updMemu f (fun m => { m with fuse := Config.remapFuse f.val % 2 ^ 272 })) s1
    finish ((s2.hostLightStep env).begin)

/-- 250 ms: the host-light step's limit. -/
def hostLightTime : Nat := 250000000

/-! ### Stage SEED (R554, R560 to R568) -/

/-- Whether stage SEED waits for a host image. -/
def State.seedWaits (s : State) : Bool :=
  decide (s.stage = sgSeed) && s.hub.seed.begun && decide (s.hreg Reg.SEED_IMAGE_STATUS.SLOT = 3) &&
    (decide (s.phase = phWait) || decide (s.phase = phFailed))

/-- An image is tried: its code goes to its slot's result and into an event. -/
def State.imageTried (s : State) (slot code build : Nat) : State :=
  let r := match slot with
    | 0 => Reg.SEED_IMAGE_STATUS.RESULT_A
    | 1 => Reg.SEED_IMAGE_STATUS.RESULT_B
    | _ => Reg.SEED_IMAGE_STATUS.RESULT_HOST
  (s.hset r code).raiseHub Ev.SEED_IMAGE [(1, slot), (2, code), (8, build)]

/-- The three extensions of SEED_MEASURE (R567). -/
def State.seedMeasure (s : State) (slot : Nat) (b D : List Byte) : State :=
  let straps := s.hreg Reg.SEED_STRAPS.STEP + s.hreg Reg.SEED_STRAPS.BOOT_SRC * 2 + s.hreg Reg.SEED_STRAPS.FLASH_IO * 8
  let x := leBytes 1 straps ++ leBytes 1 slot ++ leBytes 2 (leAt b 6 2) ++ leBytes 2 (leAt b 4 2) ++ leBytes 2 0
  let m1 := sha384 (leBytes 48 0 ++ x)
  let m2 := sha384 (m1 ++ D)
  s.hset Reg.SEED_MEASURE.M (leNat (sha384 (m2 ++ leBytes 48 fusedHash)))

/-- The fields of CAL_COMP take the CAL_COEFF record, PROVING its bit. -/
def State.seedRecords (s : State) (b : List Byte) : State :=
  let v := (imgVal b recCalCoeff).getD (leBytes 8 0)
  let s1 := ((((s.hset Reg.CAL_COMP.T0 (leAt v 0 1)).hset Reg.CAL_COMP.C0 (leAt v 1 2)).hset Reg.CAL_COMP.C1 (leAt v 3 2)).hset
    Reg.CAL_COMP.C2 (leAt v 5 2)).hset Reg.CAL_COMP.ENABLE (leAt v 7 1 % 2)
  s1.hset Reg.HUB_INJ_STATUS.PROVING (leNat ((imgVal b recProving).getD []) % 2)

/-- An image is accepted (R554, R563, R566 to R568). -/
def State.imageAccept (s : State) (slot : Nat) (raw : List Byte) : State :=
  let b := raw.take (imgLength raw)
  let D := imgDigest b
  let d := leNat D
  let fast := s.hub.seed.warm && decide (s.hub.seed.digest = d) && decide (s.hreg Reg.SEED_CTL.FORCE_FULL = 0)
  let auto := if s.hostStepped then 0 else bits (leNat ((imgVal b recStageAuto).getD [])) 1 8
  let s1 := (((s.hset Reg.SEED_IMAGE_STATUS.SLOT slot).hset Reg.SEED_IMAGE_STATUS.SVN (leAt b 6 2)).hset
    Reg.SEED_IMAGE_STATUS.LENGTH (imgLength b)).hset Reg.SEED_IMAGE_STATUS.BUILD (leAt b 16 8)
  let s2 := (s1.hset Reg.SEED_IMAGE_STATUS.UNPROVISIONED (b2n (decide (fusedHash = 0)))).hset Reg.SEED_DIGEST.D d
  let s3 := (s2.hset Reg.SEED_STAGE.FAST_PATH (b2n fast)).hset Reg.SEED_STAGE.AUTO auto
  ((s3.seedMeasure slot b D).seedRecords b).updSeed (fun U => { U with image := b })

/-- A flash slot is tried; nothing follows an accepted one. The value is the last code. -/
def State.slotTry (s : State) (slot : Nat) (img : Option (List Byte)) : State × Nat :=
  match img with
  | none => (s.imageTried slot St.SEED_ABSENT 0, St.SEED_ABSENT)
  | some b =>
    let c := imgCheck b s.hostStepped
    let s1 := s.imageTried slot c (leAt b 16 8)
    (if c = St.OK then s1.imageAccept slot b else s1, c)

/-- The hub checks the copy the host wrote, where stage SEED waits for it; a request made earlier stands until then. -/
def State.hostImage (s : State) : State :=
  let s0 := s.hset Reg.SEED_CTL.HOST_IMAGE 1
  if !s.seedWaits then s0
  else
    let s1 := s0.hset Reg.SEED_CTL.HOST_IMAGE 0
    let n := max imgHeader (min imgMax (imgLength (s1.sramRead 0 imgHeader)))
    let b := s1.sramRead 0 n
    let c := imgCheck b s1.hostStepped
    let s2 := s1.imageTried 2 c (leAt b 16 8)
    if c = St.OK then (s2.imageAccept 2 b).stageResume else s2

/-- A wait for a host image begins: a request made before it is taken up at once. -/
def State.hostImageDue (s : State) : State := if s.hreg Reg.SEED_CTL.HOST_IMAGE = 1 then s.hostImage else s

/-- STAGE_SEED (R554, R560): `flash`: the flash that answers, where one does. One that breaks R554 has both slots absent. A warm bring-up with the host engine dark runs the host-light step first (R600). -/
def execStageSeed (env : LightEnv) (flash : Option Flash) (s : State) : Result :=
  if !s.due sgSeed then .next s
  else
    let s0 := (if s.hub.seed.warm && s.engIsDark 16 then s.hostLightStep env else s).begin
    if s0.hreg Reg.SEED_STRAPS.BOOT_SRC = 2 then finish (s0.hset Reg.SEED_STAGE.RESULT 0).stageWait.hostImageDue
    else
      let img := fun (slot : Nat) => (flash.filter flashOk).map (fun x => flashSlot x slot)
      let first := if s0.hreg Reg.SEED_STRAPS.BOOT_SRC = 1 then 1 else 0
      let (s1, c1) := s0.slotTry first (img first)
      if c1 = St.OK then finish s1
      else
        let (s2, c2) := s1.slotTry (1 - first) (img (1 - first))
        if c2 = St.OK then finish s2 else finish (s2.stageFail c2).hostImageDue

/-- HOST_IMAGE (R554). -/
def execHostImage (s : State) : Result := finish s.hostImage

/-- HOST_LIGHT_RETRY (R554): the host-light step again, while SEED waits and the host engine is dark. -/
def execHostLightRetry (env : LightEnv) (s : State) : Result :=
  if s.seedWaits && s.engIsDark 16 then finish (s.hostLightStep env) else .next s

/-! ### Stage FIELD POWER (R555) -/

/-- Healthy modules of a die-to-die link once it is trained; a fall raises its event (R34). -/
def State.d2dTrain (s : State) (k n : Nat) : State :=
  let (a, b) := d2dEnds k
  let m := if s.rimUp a && s.rimUp b then min n 16 else 0
  let s1 := if m < s.hreg Reg.HUB_D2D_STATUS.MODULES 0 k then s.d2dModules k m else s.hset Reg.HUB_D2D_STATUS.MODULES m 0 k
  s1.hset Reg.HUB_D2D_STATUS.UP (b2n (decide (0 < m))) 0 k

/-- A field's rails are good: its rim is tested and its heartbeat starts. -/
def State.fieldUp (s : State) (f : FieldId) (rimOk : Bool) : State :=
  let s1 := (s.hset Reg.PWR_RAIL_STATUS.PGOOD (setBit (s.hreg Reg.PWR_RAIL_STATUS.PGOOD) f true)).setRail f true
  if !rimOk then s1.fieldDark f
  else if s1.svc f = svcDark ∨ s1.svc f = svcUnfit then s1
  else (s1.setSvc f svcStarting).updField f (fun F => { F with missed := 0 })

/-- HUB_PKG_COORD from the PKG_COORD record. -/
def State.pkgCoord (s : State) : State :=
  let v := (imgVal s.image recPkgCoord).getD []
  (((s.hset Reg.HUB_PKG_COORD.U (leAt v 0 1)).hset Reg.HUB_PKG_COORD.V (leAt v 1 1)).hset Reg.HUB_PKG_COORD.W (leAt v 2 1)).hset
    Reg.HUB_PKG_COORD.VALID 1

/-- STAGE_FIELD_POWER (R555): `pgood`: fields whose PGOOD rises in time; `rimOk`: rims that pass their test; `modules`:
modules of each die-to-die link that train. -/
def execStageFieldPower (pgood rimOk : Fin 16) (modules : List Nat) (s : State) : Result :=
  if !s.due sgFieldPower then .next s
  else
    let s1 := (s.hset Reg.PWR_RAIL_STATUS.PWREN 15).begin
    let s2 := allFields.foldl (fun (t : State) (f : FieldId) =>
      if bit pgood f.val then t.fieldUp f (bit rimOk f.val)
      else t.updSeed (fun U => { U with waits := setBit U.waits f true })) s1
    let s3 := (List.range 4).foldl (fun (t : State) k => t.d2dTrain k (modules.getD k 0)) s2
    finish (s3.updSeed (fun U => { U with mates := modules })).pkgCoord

/-- PGOOD_TIMEOUT (R555): the field becomes DARK and its PWREN is deasserted. -/
def execPgoodTimeout (f : FieldId) (s : State) : Result :=
  if s.working sgFieldPower && bit s.hub.seed.waits f.val then
    finish (((s.pwrenDrop f).fieldDark f).updSeed (fun U => { U with waits := setBit U.waits f false }))
  else .next s

/-! ### Stage MEMORY (R243, R248, R556, R569) -/

/-- The remap of R248 from all three sources; more than 16 fallow plots make the field UNFIT. -/
def State.remapTake (s : State) (f : FieldId) : State :=
  let m := (s.memu f).fuse ||| (s.memu f).overlay ||| (s.field f).fallowRun
  let n := popcount 272 m
  let s1 := (s.updMemu f (fun M => { M with remap := m })).hset Reg.HUB_FIELD_STATE.FALLOW (min n 31) 0 f
  if 16 < n then s1.setSvc f svcUnfit else s1

/-- Bits of FLD_FALLOW_RUN set by a test. -/
def State.fallowMarks (s : State) (f : FieldId) (m : Nat) : State :=
  s.updField f (fun F => F.setReg Reg.FLD_FALLOW_RUN.RUN (F.fallowRun ||| m % 2 ^ 272))

/-- A stack fails training or repair: nothing of it stays resident or held back, as on a stack that stops responding (R235). -/
def State.stackUnfit (s : State) (f : FieldId) (stack : Nat) : State :=
  let s1 := s.hset (if stack = 0 then Reg.HUB_FIELD_STATE.HBM0_OK else Reg.HUB_FIELD_STATE.HBM1_OK) 0 0 f
  (s1.updMemu f (fun m => m.loseStack stack)).setSvc f svcUnfit

/-- A field's stacks are trained, or keep their training on the fast path: bits 2f and 2f + 1 of `trained`. -/
def State.hbmTrain (s : State) (f : FieldId) (trained : Nat) : State :=
  [0, 1].foldl (fun (t : State) stack =>
    if t.fastPath || bit trained (2 * f.val + stack) then
      let t1 := if t.fastPath then t else
        t.updMemu f (fun m => if stack = 0 then { m with lost0 := false } else { m with lost1 := false })
      if (t1.memu f).lost stack then t1.stackUnfit f stack
      else t1.hset (if stack = 0 then Reg.HUB_FIELD_STATE.HBM0_OK else Reg.HUB_FIELD_STATE.HBM1_OK) 1 0 f
    else t.stackUnfit f stack) s

/-- An entry of the carry area goes into its field's repair log. -/
def State.carryLoad (s : State) (e : Nat) : State × Bool :=
  let f : FieldId := fieldAt (e / 2 ^ 62)
  let n := (s.field f).repairCount
  if bit e 0 && decide (bits e 34 2 = 0) && decide (n < 64) && decide (s.svc f = svcStarting) then
    let r : HbmRow := ⟨bits e 1 1, bits e 2 5, bits e 7 1, bits e 8 6, bits e 14 18⟩
    (s.updField f (fun F => F.repairWrite n r (bits e 32 2)), true)
  else (s, false)

/-- The carry area (R569), after a cold reset. -/
def State.carryApply (s : State) (carry : Option (List Byte)) : State :=
  match carry.bind carryEntries with
  | none => s
  | some es =>
    let (s1, loaded) := es.foldl (fun (t : State × Nat) e =>
      let (u, ok) := t.1.carryLoad e
      (u, t.2 + b2n ok)) (s, 0)
    (s1.hset Reg.SEED_IMAGE_STATUS.CARRY_APPLIED 1).raiseHub Ev.SEED_CARRY [(2, loaded), (2, es.length - loaded)]

/-- Every half-line of a repaired row takes the poison syndrome: of every line the controller places in it (R234, R243). -/
def State.rowPoison (s : State) (f : FieldId) (r : HbmRow) : State :=
  let pc := (r.stack * 32 + r.channel) * 2 + r.pch
  ((List.range pcSlots).filter (fun slot => lineRow (lineAt pc slot) = r)).foldl (fun (t : State) slot =>
    let l := lineAt pc slot
    t.updMem (fun m => (m.setHbmErr f (2 * l) 3).setHbmErr f (2 * l + 1) 3)) s

/-- The repair of a PENDING entry: result 1 REPAIRED, 2 NO_SPARE, 3 FAILED. -/
def State.repairEntry (s : State) (f : FieldId) (n result : Nat) : State :=
  let F := s.field f
  let r : HbmRow := ⟨F.reg Reg.MEM_REPAIR_ENTRY.STACK n, F.reg Reg.MEM_REPAIR_ENTRY.CHANNEL n, F.reg Reg.MEM_REPAIR_ENTRY.PCH n,
    F.reg Reg.MEM_REPAIR_ENTRY.BANK n, F.reg Reg.MEM_REPAIR_ENTRY.ROW n⟩
  let s1 := s.fset f Reg.MEM_REPAIR_ENTRY.RESULT result n
  match result with
  | 1 => s1.rowPoison f r
  | 3 => s1.stackUnfit f r.stack
  | _ => s1

/-- Repair of every PENDING entry of a field, each with the next result the stacks report (R243). -/
def State.repairAll (s : State) (f : FieldId) (repairs : List Nat) : State × List Nat :=
  (List.range 64).foldl (fun (t : State × List Nat) n =>
    if t.1.freg f Reg.MEM_REPAIR_ENTRY.VALID n = 1 ∧ t.1.freg f Reg.MEM_REPAIR_ENTRY.RESULT n = 0 then
      (t.1.repairEntry f n (max 1 (t.2.headD 1 % 4)), t.2.drop 1)
    else t) (s, repairs)

/-- The seed overlay of a field. -/
def State.overlayOf (s : State) (f : FieldId) : Nat :=
  leAt ((imgVal s.image recFallow).getD []) (40 * f.val) 40 % 2 ^ 272

/-- STAGE_MEMORY (R556): `trained`: stacks that train; `march`: plots of each field that fail the march test, as masks;
`carry`: the flash that holds the carry area; `repairs`: what the stacks report for the pending repairs, in order. -/
def execStageMemory (trained : Fin 256) (march : List Nat) (carry : Option Flash) (repairs : List Nat) (s : State) : Result :=
  if !s.due sgMemory then .next s
  else
    let fs := allFields.filter (fun (f : FieldId) => decide (s.svc f = svcStarting))
    let s1 := fs.foldl (fun (t : State) f => t.hbmTrain f trained.val) s.begin
    let s2 := if s.hub.seed.warm then s1
      else (fs.foldl (fun (t : State) (f : FieldId) => t.updMem (fun m =>
        { m with hbm := m.hbm.set f [], hbmErr := m.hbmErr.set f [] })) s1).carryApply ((carry.filter flashOk).map flashCarry)
    let (s3, _) := fs.foldl (fun (t : State × List Nat) f => t.1.repairAll f t.2) (s2, repairs)
    let s4 := fs.foldl (fun (t : State) (f : FieldId) =>
      let m := march.getD f.val 0
      ((t.fallowMarks f m).updMemu f (fun M => { M with overlay := t.overlayOf f })).remapTake f) s3
    finish s4

/-! ### Stages LIGHT and LINKS (R291, R557) -/

/-- PWR_RAIL_STATUS shows VDD_OPT as it is: after a warm reset it reads 0 until then (R578, R665). -/
def State.optShow (s : State) : State :=
  if s.railUp railOpt then (s.hset Reg.PWR_RAIL_STATUS.PWREN_OPT 1).hset Reg.PWR_RAIL_STATUS.PGOOD_OPT 1 else s

/-- STAGE_LIGHT (R291): VDD_OPT is as stage POWER left it. -/
def execStageLight (env : LightEnv) (s : State) : Result :=
  if !s.due sgLight then .next s
  else finish ((s.optShow.lightSequence { env with pgoodOpt := s.railUp railOpt }).begin)

/-- RELIGHT (R292, R298, R631): PWREN_OPT is asserted again, and the sequence runs from step 2; not before the host-light step,
until which the hub is silent (R290). -/
def execRelight (env : LightEnv) (s : State) : Result :=
  let st := s.hreg Reg.HDL_LIGHT_STATUS.STATE
  if st ≠ ltInterlock ∧ st ≠ ltFault ∨ s.hub.light.awake = false then .next s
  else
    let s1 := (s.hset Reg.HDL_LIGHT_CTL.RELIGHT 0).hset Reg.PWR_RAIL_STATUS.PWREN_OPT 1
    let up := s1.railUp railOpt || env.pgoodOpt
    let s2 := if up then s1.optUp else s1.optTimeout
    finish (s2.lightSequence { env with pgoodOpt := up })

/-- The fields whose rims take part in LINKS and FABRIC (R553). -/
def State.rims (s : State) : List FieldId :=
  allFields.filter (fun (f : FieldId) => decide (s.svc f = svcStarting) || decide (s.svc f = svcUnfit))

/-- The plan's header and a field's sixteen entries (R359). DESIGN CHOICE (log entry 44): a size too large for its register field is
written as the field's largest value, which no plan may have, so the seal refuses the plan (R360). -/
def State.planWrite (s : State) (f : FieldId) : State :=
  let v := (imgVal s.image recPortPlan).getD []
  let s1 := (s.fieldWrite f false 0x40000 8 (leAt v 0 8)).fieldWrite f false 0x40008 8
    (min (leAt v 8 1) 7 + min (leAt v 9 1) 31 * 8 + min (leAt v 10 1) 63 * 256)
  (List.range 16).foldl (fun (t : State) n => t.fieldWrite f false (0x40100 + 8 * n) 8 (leAt v (16 + 4 * (16 * f.val + n)) 4)) s1

/-- RTE_VC_WEIGHT and RTE_VC_CTL from VC_ARB; at their Cold values where the image has none (R563). -/
def State.arbWrite (s : State) (f : FieldId) : State :=
  let v := (imgVal s.image recVcArb).getD (leBytes 8 0x0010181830306032 ++ leBytes 4 0x119)
  (s.fieldWrite f false 0x30000 8 (leAt v 0 8)).fieldWrite f false 0x30008 4 (leAt v 8 4)

/-- STAGE_LINKS (R557): the links may train. -/
def execStageLinks (s : State) : Result :=
  if !s.due sgLinks then .next s
  else
    let s1 := s.rims.foldl (fun (t : State) f => (t.planWrite f).arbWrite f) s.begin
    let s2 := s1.updHub (fun H => { H with linksBegun := true })
    finish (s.rims.foldl (fun (t : State) f => (List.range 16).foldl (fun (u : State) k =>
      u.linkStart f (BitVec.ofNat 4 k).toFin) t) s2)

/-- Whether every planned port with light has come to ACTIVE, HELD or FAILED. -/
def State.linksSettled (s : State) : Bool :=
  s.rims.all (fun f => (List.range 16).all (fun k =>
    let n : PortId := (BitVec.ofNat 4 k).toFin
    let l := s.link f n
    !s.portLit f n || decide (s.freg f Reg.RTE_PLAN_PORT.AXIS k + s.freg f Reg.RTE_PLAN_PORT.COORD k +
      s.freg f Reg.RTE_PLAN_PORT.FAR_PORT k + s.freg f Reg.RTE_PLAN_PORT.RESERVE k = 0) ||
      decide (l = lsActive) || decide (l = lsHeld) || decide (l = lsFailed)))

/-! ### Stage KNOWN-ANSWER (R571, R572) -/

/-- A field's tests: `bad`: plots that fail, as a mask of physical plots; `rimBad`: its rim fails. -/
def State.katField (s : State) (f : FieldId) (bad : Nat) (rimBad : Bool) : State :=
  let fails := (s.livePlots f).filter (fun p => match physOf (s.memu f).remap p with | some q => bit bad q | none => false)
  let marks := fails.foldl (fun (m : Nat) p => match physOf (s.memu f).remap p with | some q => setBit m q true | none => m) 0
  let s1 := (s.fset f Reg.FLD_BOOT_STATUS.KAT_FAILED fails.length).fallowMarks f marks
  let s2 := (s1.resetPartition f).updField f (fun F => { F with drift := { recs := [], unrecorded := 0, fullEvent := false } })
  if rimBad then (s2.fset f Reg.FLD_BOOT_STATUS.RIM_KAT_FAIL 1).fieldDark f else s2.remapTake f

/-- STAGE_KNOWN_ANSWER (R571, R572): on the fast path the stage does no test. -/
def execStageKnownAnswer (plots : List Nat) (rims : Fin 16) (s : State) : Result :=
  if !s.due sgKnownAnswer then .next s
  else if s.fastPath then finish (s.begin.stageClose St.OK true)
  else
    finish ((allFields.filter (fun (f : FieldId) => decide (s.svc f = svcStarting))).foldl (fun (t : State) (f : FieldId) =>
      t.katField f (plots.getD f.val 0) (bit rims f.val)) s.begin)

/-! ### Stage FIRMWARE (R573 to R576) -/

/-- The fields firmware is delivered to. -/
def State.bootFields (s : State) : List FieldId := allFields.filter (fun (f : FieldId) => decide (s.svc f = svcStarting))

/-- Images the seed image carries are written to each field's image region. -/
def State.imageWrite (s : State) (f : FieldId) : State :=
  (List.range 4).foldl (fun (t : State) i =>
    match imgDrill t.image i with
    | some v => if diHost v then t else (t.hbmWrite f (imageAt i) (diBytes v) false srcRim).1
    | none => t) s

/-- Delivery starts in every field. -/
def State.deliverAll (s : State) : State :=
  s.bootFields.foldl (fun (t : State) f =>
    let t1 := t.fillAll f
    t1.updField f (fun F => { F with sow := t1.sowList f })) s

/-- STAGE_FIRMWARE (R573). -/
def execStageFirmware (s : State) : Result :=
  if !s.due sgFirmware then .next s
  else
    let s1 := s.bootFields.foldl (fun (t : State) f => t.imageWrite f) s.begin
    let host := (List.range 4).any (fun i => match imgDrill s.image i with | some v => diHost v | none => false)
    if host && decide (s1.hreg Reg.SEED_CTL.IMAGES_READY = 0) then finish s1.stageWait
    else finish s1.deliverAll

/-- A write of IMAGES_READY: stage FIRMWARE goes on where it waits for it. -/
def State.imagesReady (s : State) : State :=
  let s1 := s.hset Reg.SEED_CTL.IMAGES_READY 1
  if s.stage = sgFirmware ∧ s.phase = phWait ∧ s.hub.seed.begun = true then s1.stageResume.deliverAll else s1

/-- IMAGES_READY (R573). -/
def execImagesReady (s : State) : Result := finish s.imagesReady

/-- Whether every plot of a field is LOADED, NONE or fallow. -/
def State.delivered (s : State) (f : FieldId) : Bool :=
  (s.livePlots f).all (fun p =>
    let st := s.preg f p Reg.PLT_BOOT.STATUS
    decide (st = pbLoaded) || decide (st = pbNone))

/-- EV_SEED_FIRMWARE of a field (R576, R577). -/
def State.firmwareEvent (s : State) (f : FieldId) : State :=
  s.raiseHub Ev.SEED_FIRMWARE [(1, f.val), (2, s.freg f Reg.FLD_BOOT_STATUS.FETCHED), (2, s.freg f Reg.FLD_BOOT_STATUS.SOWN),
    (2, s.freg f Reg.FLD_BOOT_STATUS.REPAIRS), (2, s.freg f Reg.FLD_BOOT_STATUS.FW_FALLOW)]

/-- The stage's end: its events, and its result. -/
def State.firmwareEnd (s : State) : State :=
  let s1 := s.bootFields.foldl (fun (t : State) f => t.firmwareEvent f) s
  s1.stageClose (if s.bootFields.any (fun f => decide (s.freg f Reg.FLD_BOOT_STATUS.FW_FALLOW ≠ 0)) then St.FIRMWARE_CRC else St.OK) false

/-! ### Stages FABRIC and READY (R558, R559) -/

/-- GWY_CLASS_CTL and TLY_ROOTS of a field, from their records. -/
def State.fabricRecords (s : State) (f : FieldId) : State :=
  let s1 := s.fieldWrite f false 0x50000 4 (match imgVal s.image recNearClass with | some v => leNat v | none => 2)
  s1.fieldWrite f false 0x90018 8 (leNat ((imgVal s.image recTallyRoots).getD []))

/-- TLY_PIN_CTL and the GPIO claims, from PIN_ASSIGN. -/
def State.pinRecords (s : State) : State :=
  let v := (imgVal s.image recPinAssign).getD (leBytes 4 0x1050 ++ leBytes 4 0)
  (s.hubWrite false 0x50000 4 (leAt v 0 4)).hubWrite false 0x38 4 (leAt v 4 4)

/-- A first seal that is refused, with its code. -/
def State.sealFailed (s : State) : Option Nat :=
  (s.rims.find? (fun f => decide (s.freg f Reg.RTE_TABLE_STATUS.SEALED = 0))).map (fun f => s.freg f Reg.RTE_TABLE_STATUS.RESULT)

/-- Stage FABRIC's work (R558): a first seal that is refused fails the stage. -/
def State.fabricStart (s : State) : State :=
  let s1 := s.rims.foldl (fun (t : State) f => (t.planWrite f).fabricRecords f) s.begin
  let s2 := s1.pinRecords.applyWrites sgFabric
  let s3 := s.rims.foldl (fun (t : State) f => t.seal f) s2
  match s3.sealFailed with
  | some code => s3.stageFail code
  | none => s3

/-- Whether every tally is LOCKED or ROOT. -/
def State.talliesLocked (s : State) : Bool :=
  s.rims.all (fun f => decide (s.tlyState f = tsLocked) || decide (s.tlyState f = tsRoot))

/-- STAGE_READY (R559). -/
def execStageReady (s : State) : Result :=
  if !s.due sgReady then .next s
  else
    let s1 := s.bootFields.foldl (fun (t : State) f => t.setSvc f svcReady) s.begin
    finish ((((s1.stageTime false).setPhase phDone).hset Reg.SEED_STAGE.RESULT St.OK).stageEvent phDone St.OK)

/-! ### The end of a stage (R551 to R558) -/

/-- The work of the present stage ends, where what it waits for has come. -/
def State.stageEnd (s : State) : State :=
  let stuck := decide (s.hreg Reg.SEED_STAGE.RESULT = St.NO_FIELD)
  let failed := decide (s.phase = phFailed) && !stuck
  let runs := decide (s.phase = phRunning)
  let close := fun (t : State) (result : Nat) => (if runs then t else t.stageResume).stageClose result false
  match s.stage with
  | 0 => if runs && (s.hub.seed.lightDone || decide (s.hub.seed.since + hostLightTime ≤ s.now)) then close s St.OK else s
  | 1 => if runs then close s St.OK else s
  | 2 => if runs && decide (s.hub.seed.waits = 0) then close s St.OK else s
  | 3 => if runs then close s St.OK else s
  | 4 =>
    let r := s.hreg Reg.HDL_LIGHT_STATUS.RESULT
    if r = St.OK ∨ r = St.PROBE_FAILED then (if runs || failed then close s r else s)
    else if runs then s.stageFail r else s
  | 5 => if runs && s.linksSettled then close s St.OK else s
  | 6 => if runs then close s St.OK else s
  | 7 => if runs && s.bootFields.all (fun f => s.delivered f) then s.firmwareEnd else s
  | 8 =>
    if (runs || failed) && s.sealFailed.isNone then
      if s.talliesLocked then close s St.OK else if runs then s else s.stageResume
    else s
  | _ => s

end Sys2Proof.Machine
end

