-- ==== Sys2Proof/Machine/Reset.lean ====
section
/-! DEFINITION. Resets and debug access (R16, R290, R578 to R581), and what register writes ask of the bring-up sequencer.
The commands that end a stage stand here, because a REG_WRITE entry may ask for anything a write can. -/

namespace Sys2Proof.Machine

open Sys2Proof

/-! ### Registers at a warm reset (R16) -/

/-- A register file with every field that has one at its Warm value; the others are kept. -/
def warmRegs (ks : List RegField) (rf : SMap Nat) : SMap Nat :=
  ks.foldl (fun (m : SMap Nat) k =>
    match k.warm with
    | none => m
    | some w => k.instances.foldl (fun (m : SMap Nat) (n, i) => k.set m n i w) m) rf

/-- A register file with some fields as another has them. -/
def keepRegs (ks : List RegField) (old new : SMap Nat) : SMap Nat :=
  ks.foldl (fun (m : SMap Nat) k => k.instances.foldl (fun (m : SMap Nat) (n, i) => k.set m n i (k.get old n i)) m) new

/-- Rim fields a warm reset keeps by a rule of their own: the tally's state (R522), and the known-answer count, which a full
bring-up counts again (R580). -/
def warmKeptRim : List RegField := [Reg.TLY_STATUS.STATE, Reg.FLD_BOOT_STATUS.KAT_FAILED]

/-- Hub fields a warm reset keeps because what they show goes on: the host engine's light and the host link (R290), and the
fuse (R580). The rails stay up too (R578), but PWR_RAIL_STATUS takes its Warm values (R665) until the stages enable them again. -/
def warmKeptHub : List RegField :=
  [Reg.HDL_HOST_ENGINE.INLET_A_OK, Reg.HDL_HOST_ENGINE.INLET_B_OK, Reg.HDL_HOST_ENGINE.DARK, Reg.HUB_HOST_PHY_STATUS.STATE,
    Reg.HUB_HOST_PHY_STATUS.WIDTH, Reg.HUB_INJ_STATUS.FUSE]

/-- Hub fields of the VBAT domain, which a cold reset keeps (R548, R671). -/
def vbatKept : List RegField :=
  [Reg.CAL_TIME.SEC, Reg.CAL_TIME.FRAC, Reg.CAL_TIME.VALID, Reg.CAL_COMP.T0, Reg.CAL_COMP.C0, Reg.CAL_COMP.C1, Reg.CAL_COMP.C2,
    Reg.CAL_COMP.ENABLE, Reg.CAL_STATUS.OSC_STOP, Reg.THM_TRIP_STATUS.TRIPPED, Reg.THM_TRIP_STATUS.SOURCE,
    Reg.THM_TRIP_STATUS.FIELD, Reg.THM_TRIP_STATUS.SENSOR, Reg.THM_TRIP_STATUS.TEMP]

/-! ### What a warm reset leaves (R580) -/

/-- A mailbox slot when both its ends are reset: a claim stays, and its acknowledgement will be discarded. -/
def MbxSlot.warm (x : MbxSlot) : MbxSlot :=
  match x with
  | .claimed a _ ptr tag ep => .claimed a false ptr tag ep
  | _ => .free

/-- A plot after a warm reset. -/
def Plot.warm (P : Plot) : Plot := { Plot.reset with slot := P.slot.warm }

/-- The transmit lanes after a warm reset: the map and the failed wavelengths stay, a slot in progress is aborted. -/
def LaneTx.warm (d : LaneTx) : LaneTx :=
  { (if d.cal.isNone then d else d.abort.1 : LaneTx) with retries := [] }

/-- A port after a warm reset: its link is down; lane maps, failed wavelengths and its approval stay. -/
def Port.warm (P : Port) : Port :=
  { Port.reset with
    tx := P.tx.warm
    rx := { P.rx with cal := none, pending := none, power := [] }
    fallback := P.fallback
    code := CodeTx.init P.tx.warm.map P.tx.warm.out
    approved := P.approved
    farPort := P.farPort }

/-- The field memory after a warm reset: contents, training and the remap stay; the absorber, the planes and held writes
are lost. -/
def FieldMem.warm (m : FieldMem) : FieldMem :=
  { FieldMem.reset with
    lost0 := m.lost0
    lost1 := m.lost1
    fuse := m.fuse
    overlay := m.overlay
    remap := m.remap }

/-- The tally after a warm reset: it keeps counting; marks in progress and beacons heard over its links are gone. -/
def TallyUnit.warm (U : TallyUnit) : TallyUnit :=
  { U with reached := false, links := [], todo := [], houseDue := false, muted := 0, beatStop := false, lateTab := [], lateHist := [] }

/-- A field after a warm reset. -/
def Field.warm (f : FieldId) (F : Field) : Field :=
  { Field.reset f with
    regs := keepRegs warmKeptRim F.regs (warmRegs (Reg.rimFields ++ rimpFields) F.regs)
    plots := (F.plots.map (fun (k, P) => (k, P.warm))).filter (fun x => decide (x.2 ≠ Plot.reset))
    memu := F.memu.warm
    ports := F.ports.map (fun (k, P) => (k, P.warm))
    router := { RouterUnit.reset with active := F.router.active, congStart := F.tally.tInt, congSeen := F.tally.tInt }
    gw := { GatewayUnit.reset with
      epoch := F.gw.epoch + 1
      tx := (F.gw.tx.map (fun (k, r) => (k, { FlowTx.init with fepoch := r.fepoch }))).filter (fun e => decide (e.2 ≠ FlowTx.init)) }
    tally := F.tally.warm
    slotFld := F.slotFld.warm
    slotRimp := F.slotRimp.warm
    hlt := { HealthUnit.reset with
      ringAt := F.hlt.ringAt, ringEnv := F.hlt.ringEnv, injLanes := F.hlt.injLanes, closedAt := F.hlt.closedAt } }

/-- The light after a warm reset: the interlock's level and the host engine's shutter. -/
def LightUnit.warm (L : LightUnit) : LightUnit :=
  { LightUnit.reset with laserEn := L.laserEn, hostOpen := L.hostOpen, hostApr := L.hostApr, awake := true }

/-- Power control after a warm reset: THERMTRIP_N stays low, the rails stay up, the mode in force and the voltages stay, and pin
channels that hold the package in Hold go on holding it until they have cooled (R650). -/
def PowerUnit.warm (P : PowerUnit) (mode : Nat) : PowerUnit :=
  { PowerUnit.reset with trip := P.trip, from_ := mode, target := mode, rails := P.rails, vsel := P.vsel, crit := P.crit }

/-- The sequencer after a warm reset, which is counted. -/
def SeedUnit.warmed (U : SeedUnit) (digest : Nat) : SeedUnit :=
  { SeedUnit.reset with warm := true, digest := digest, jtagHold := U.jtagHold, resets := U.resets + 1 }

/-- The hub after a warm reset. -/
def Hub.warm (H : Hub) (digest mode : Nat) : Hub :=
  { Hub.reset with
    regs := keepRegs warmKeptHub H.regs (warmRegs Reg.hubFields H.regs)
    light := H.light.warm
    hostTx := { H.hostTx with retries := [] }
    tally := H.tally
    servo := H.servo
    cal := H.cal
    seed := H.seed.warmed digest
    host := { HostUnit.reset with
      d3 := H.host.d3, aerDrop := H.host.aerDrop, aerPoison := H.host.aerPoison, held := H.host.held, msix := H.host.msix }
    slots := (H.slots.map (fun (k, x) => (k, x.warm))).filter (fun e => decide (e.2 ≠ .free))
    pwr := H.pwr.warm mode
    injHold := H.injHold }

/-- A new nonce (R581). -/
def State.newNonce (s : State) : State :=
  let (v, t) := s.draw
  t.hset Reg.HUB_JTAG_CHAL.NONCE (v % 2 ^ 384)

/-- The light at a warm reset, before anything else (R290): output 16 stays where it lights the host engine. -/
def State.warmLight (s : State) : State :=
  [0, 1].foldl (fun (t : State) (m : Nat) =>
    if t.outputOn m 16 && !t.engIsDark 16 then t.emit (.i3c m i3cOutputMask (2 ^ 16)) else t.emit (.i3c m i3cOff 0)) s

/-- The lit outputs after a warm reset, and counters as the health logic will take them at its first close. -/
def State.warmAfter (s was : State) : State :=
  let s1 := [0, 1].foldl (fun (t : State) (m : Nat) =>
    t.hset Reg.HDL_MODULE.OUTPUT_ON (if was.outputOn m 16 && !was.engIsDark 16 then 2 ^ 16 else 0) m) s
  allFields.foldl (fun (t : State) (f : FieldId) =>
    let prev := (t.healthCounters f).foldl (fun (m : SMap Nat) (k, v, _) => SMap.set m 0 k v) []
    let t1 := t.updField f (fun F => { F with hlt := { F.hlt with prev := prev } })
    if t1.tlyState f = tsLocked then t1.enterHoldover f else t1) s1

/-- WARM_RESET (R578, R580): restarts at stage SEED. -/
def State.warmReset (s : State) (i3c : Bool) : State :=
  let cause := if i3c then 3 else 2
  let digest := if s.hreg Reg.SEED_IMAGE_STATUS.SLOT = 3 then 0 else s.hreg Reg.SEED_DIGEST.D
  let s0 := s.warmLight
  let s1 : State := { s0 with
    hub := s0.hub.warm digest (s.hreg Reg.PWR_MODE_STATUS.MODE)
    fields := #v[(s0.field 0).warm 0, (s0.field 1).warm 1, (s0.field 2).warm 2, (s0.field 3).warm 3]
    mem := allFields.foldl (fun (m : Memories) (f : FieldId) => m.clearPlots f) s0.mem
    events := [] }
  let s1' := allFields.foldl (fun (t : State) (f : FieldId) =>
    if s.svc f = svcStarting then t else t.raiseHub Ev.HUB_FIELD_STATE [(1, f), (1, s.svc f), (1, svcStarting)]) s1
  let s2 := (s1'.warmAfter s).hset Reg.HUB_RESET_STATUS.CAUSE cause
  let s3 := ((s2.hcount Reg.HUB_RESET_STATUS.WARM_COUNT).newNonce).raiseHub Ev.HUB_RESET [(1, cause)]
  (if s.hub.pwr.warnPin then s3.warnSet true false else s3).stageStart sgSeed

/-- Each gateway's flows start a new epoch (R407); the spec does not say which: a free value. -/
def State.newEpochs (s : State) : State :=
  allFields.foldl (fun (t : State) (f : FieldId) =>
    let (v, t1) := t.draw
    t1.updGw f (fun G => { G with epoch := v % 256 })) s

/-- COLD_RESET (R578, R580): power-on, or PWRON_RST_N; the straps as sampled; what the VBAT domain has kept (R533, R671). -/
def State.coldReset (s : State) (powerOn : Bool) (straps : Nat) (vbat : Vbat) : State :=
  let s1 : State := { State.reset with pending := s.pending, free := s.free, out := s.out }
  let s2 := s1.updHub (fun H => { H with
    regs := if vbat = .lost then H.regs else keepRegs vbatKept s.hub.regs H.regs
    cal := if vbat = .lost then H.cal else s.hub.cal
    light := { H.light with laserEn := s.hub.light.laserEn }
    seed := { H.seed with resets := s.hub.seed.resets + 1 }
    pwr := { H.pwr with trip := s.hub.pwr.trip && !powerOn } })
  let s3 := ((s2.hset Reg.SEED_STRAPS.STEP (bits straps 0 1)).hset Reg.SEED_STRAPS.BOOT_SRC (bits straps 1 2)).hset
    Reg.SEED_STRAPS.FLASH_IO (bits straps 3 1)
  let s4 := (s3.hset Reg.HUB_RESET_STATUS.CAUSE (b2n (!powerOn))).newNonce
  let s5 := (if vbat = .kept then s4 else s4.calLost).newEpochs
  if s.hub.pwr.warnPin then s5.warnSet true false else s5

/-- COLD_RESET (R578). -/
def execColdReset (powerOn : Bool) (straps : Fin 16) (vbat : Vbat) (s : State) : Result :=
  finish (s.coldReset powerOn straps.val vbat)

/-- WARM_RESET (R578). -/
def execWarmReset (i3c : Bool) (s : State) : Result := finish (s.warmReset i3c)

/-! ### Partition resets (R578, R579) -/

/-- A partition reset is requested of a field. -/
def State.partReset (s : State) (f : FieldId) : State :=
  if (s.field f).hubLost then s
  else if s.svc f ≠ svcReady then s.hset Reg.HUB_RESET_STATUS.PART_REFUSED 1
  else
    let s1 := ((s.healthReset f).setSvc f svcPartitionReset).resetPartition f
    (s1.updThm f (fun T => { T with tokens := [] })).shfReset f

/-- PARTITION_RESET (R578, R579). -/
def execPartitionReset (f : FieldId) (s : State) : Result := finish (s.partReset f)

/-- A partition reset ends: march test, remap, and firmware by fetch (R577, R579). -/
def State.partDone (s : State) (f : FieldId) (march : Nat) : State :=
  let s1 := (s.fallowMarks f march).remapTake f
  if s1.svc f = svcUnfit then s1
  else
    let s2 := s1.fillAll f
    let s3 := (s2.livePlots f).foldl (fun (t : State) p => t.bootAll f p bootFuel) s2
    (s3.setSvc f svcReady).firmwareEvent f

/-- PARTITION_RESET_DONE (R579): `march`: the plots that fail the march test. -/
def execPartitionResetDone (f : FieldId) (march : Nat) (s : State) : Result :=
  if s.svc f = svcPartitionReset then finish (s.partDone f march) else .next s

/-! ### Debug access (R581) -/

/-- The message a response signs: the nonce and the package serial. -/
def State.jtagMessage (s : State) : List Byte :=
  leBytes 48 (s.hreg Reg.HUB_JTAG_CHAL.NONCE) ++ leBytes 6 (Config.packageSerial % 2 ^ 48)

/-- A response is checked, under the key of the accepted image. -/
def State.jtagResponse (s : State) (r v : Nat) : State :=
  if s.hub.seed.jtagHold then s
  else
    let ok := decide (s.hreg Reg.SEED_IMAGE_STATUS.SLOT ≠ 3) && ecdsaOk (imgKey s.image) (beNat (sha384 s.jtagMessage)) r v
    let result := if ok then St.OK else St.JTAG_REFUSED
    let s1 := (s.newNonce).hset Reg.HUB_JTAG_STATUS.RESULT result
    let s2 := if ok then s1.hset Reg.HUB_JTAG_STATUS.UNLOCKED 1 else s1.updSeed (fun U => { U with jtagHold := true })
    s2.raiseHub Ev.HUB_JTAG [(2, result)]

/-- JTAG_RESPONSE (R581, R594): r and s are written, and checked. -/
def execJtagResponse (sigR sigS : Nat) (s : State) : Result :=
  let s1 := (s.hset Reg.HUB_JTAG_RESP.SIG_R (sigR % 2 ^ 384)).hset Reg.HUB_JTAG_RESP.SIG_S (sigS % 2 ^ 384)
  finish (s1.jtagResponse (sigR % 2 ^ 384) (sigS % 2 ^ 384))

/-- JTAG_HOLDOFF_END (R581). -/
def execJtagHoldoffEnd (s : State) : Result := .next (s.updSeed (fun U => { U with jtagHold := false }))

/-! ### What writes ask of the sequencer -/

/-- One request. -/
def State.bootDo (s : State) (r : BootReq) : State :=
  match r with
  | .go k => s.stageGo k
  | .skip k => s.stageSkip k
  | .hostImage => s.hostImage
  | .imagesReady => s.imagesReady
  | .warm => s.warmReset false
  | .part m => allFields.foldl (fun (t : State) (f : FieldId) => if bit m f.val then t.partReset f else t) s
  | .jtag => s.jtagResponse (s.hreg Reg.HUB_JTAG_RESP.SIG_R) (s.hreg Reg.HUB_JTAG_RESP.SIG_S)

/-- The requests noted, in order, with those they bring. -/
def State.bootLoop (s : State) : Nat → State
  | 0 => s
  | n + 1 =>
    match s.hub.seed.req with
    | [] => s
    | r :: rest => State.bootLoop ((s.updSeed (fun U => { U with req := rest })).bootDo r) n

/-- A bound on the requests one command brings. -/
def bootReqs : Nat := 64

def State.bootSettle (s : State) : State := s.bootLoop bootReqs

/-- STAGE_GO (R552). -/
def execStageGo (stage : Fin 16) (s : State) : Result := finish (s.stageGo stage).bootSettle

/-- STAGE_SKIP (R550). -/
def execStageSkip (stage : Fin 16) (s : State) : Result := finish (s.stageSkip stage).bootSettle

/-- LINKS_STAGE_TIMEOUT (R557). -/
def execLinksStageTimeout (s : State) : Result :=
  if s.working sgLinks then finish (s.stageClose St.OK false).bootSettle else .next s

/-- STAGE_FABRIC (R558). -/
def execStageFabric (s : State) : Result := if s.due sgFabric then finish s.fabricStart.bootSettle else .next s

/-- FABRIC_STAGE_TIMEOUT (R558): 1 s after its start the stage ends although a tally is not locked. -/
def execFabricStageTimeout (s : State) : Result :=
  if s.working sgFabric && s.sealFailed.isNone && !s.talliesLocked then
    finish (s.stageClose St.TALLY_UNLOCKED false).bootSettle
  else .next s

/-- STAGE_END (R552). -/
def execStageEnd (s : State) : Result := if s.hub.seed.begun then finish s.stageEnd.bootSettle else .next s

end Sys2Proof.Machine
end

