-- ==== Sys2Proof/Machine/Bus.lean ====
section
/-! DEFINITION. Accesses from outside (R13 to R15, R601 to R606, R687 to R692): Memory Read and Memory Write TLPs of the
host's five functions, register writes of Yarzin and of the drills, and the accesses that wait on a bin scoreboard. -/

namespace Sys2Proof.Machine

open Sys2Proof

/-! ### What a function reaches (R601 to R605) -/

/-- Bytes of a function's BAR0 and BAR2 windows. -/
def barSize (fn : Nat) (bar2 : Bool) : Nat := if bar2 then (fnIdentity fn).bar2 else (fnIdentity fn).bar0

/-- First byte of the part of hub SRAM that PF0 BAR2 does not reach (R603). -/
def sramPrivate : Nat := 0xF00000

/-- Whether bring-up has passed the work of a stage. -/
def State.pastStage (s : State) (k : Nat) : Bool :=
  decide (k < s.stage) || (decide (s.stage = k) && decide (s.phase = phGated))

/-- Whether a function's window is in service (R604). -/
def State.windowOpen (s : State) (fn : Nat) (bar2 : Bool) : Bool :=
  if fn = 0 then true
  else
    let f := fnField fn
    let st := s.svc f
    if bar2 then
      (decide (st = svcStarting) && s.pastStage sgMemory) || decide (st = svcReady) || decide (st = svcPartitionReset) ||
        (decide (st = svcUnfit) && decide (s.hreg Reg.HUB_FIELD_STATE.HBM0_OK 0 f = 1) &&
          decide (s.hreg Reg.HUB_FIELD_STATE.HBM1_OK 0 f = 1))
    else
      (decide (st = svcStarting) && s.pastStage sgFieldPower) || decide (st = svcReady) || decide (st = svcPartitionReset) ||
        decide (st = svcUnfit)

/-- Completion statuses of a read (R604, R606). -/
def cplOk : Nat := 0
def cplUr : Nat := 1
def cplCa : Nat := 2

/-- How a request of n bytes at an offset of a function's window is met, before the window is looked at: Unsupported Request
in D3hot, beyond the window, or in BAR0 where it is not 4 or 8 bytes and naturally aligned; Completer Abort while the window
is out of service. -/
def State.barStatus (s : State) (fn : Nat) (bar2 : Bool) (addr n : Nat) : Nat :=
  if bit s.hub.host.d3 fn || decide (barSize fn bar2 < addr + n) then cplUr
  else if !bar2 && !((decide (n = 4) || decide (n = 8)) && decide (addr % n = 0)) then cplUr
  else if s.windowOpen fn bar2 then cplOk
  else cplCa

/-- The register space of a function's BAR0 (R687). -/
def fnSpace (fn : Nat) : Space := if fn = 0 then .hub else .field (fnField fn)

/-! ### AER (R604, R606) -/

def State.aerDrop (s : State) (fn : Nat) : State := s.updHost (fun U => { U with aerDrop := setBit U.aerDrop fn true })
def State.aerPoison (s : State) (fn : Nat) : State := s.updHost (fun U => { U with aerPoison := setBit U.aerPoison fn true })

/-! ### Reads -/

/-- A read of hub SRAM; the private part reads 0. -/
def State.sramWindow (s : State) (a n : Nat) : List Byte :=
  (List.range n).map (fun i => if a + i < sramPrivate then Mem.byte s.mem.sram (a + i) else 0)

/-- What a read finds: the state, poison, the bytes. A read of HUB_GPIO_CTL takes the lands' levels of that moment. -/
def State.readData (s : State) (fn : Nat) (bar2 : Bool) (addr n : Nat) : State × Bool × List Byte :=
  if bar2 then
    if fn = 0 then (s, false, s.sramWindow addr n)
    else
      let f := fnField fn
      let (s1, b, bad) := s.hbmRead f (s.freg f Reg.FLD_APERTURE.BASE * 2 ^ 30 + addr) n srcHost
      if bad then (s1.aerPoison fn, true, List.replicate n 0) else (s1, false, b)
  else
    let (s1, v) := s.spaceRead (fnSpace fn) addr n
    let s2 := if fn = 0 ∧ addr ≤ 0x42 ∧ 0x42 < addr + n then s1.draw.2 else s1
    (s2, false, leBytes n v)

/-- The longest payload of a TLP, read or write (R606). -/
def maxPayload : Nat := 512

/-- The completions of a read: first byte and length of each. DESIGN CHOICE (log entry 44): R606 gives the limits, 512 bytes and
the 64-byte read completion boundary; each completion but the last ends at a multiple of 512. -/
def cplPieces (a n : Nat) : List (Nat × Nat) :=
  if n = 0 then [(a, 0)]
  else ((List.range (n / maxPayload + 2)).map (fun i =>
    let lo := max a ((a / maxPayload + i) * maxPayload)
    (lo, min (a + n) ((a / maxPayload + i + 1) * maxPayload) - lo))).filter (fun x => x.2 ≠ 0)

/-- A Memory Read is served, and its completions sent; one that meets a poisoned line has EP set and zero data (R606). -/
def State.readDo (s : State) (fn : Nat) (bar2 : Bool) (addr n : Nat) : State :=
  let st := s.barStatus fn bar2 addr n
  if st ≠ cplOk then s.emit (.completion fn st false [])
  else (cplPieces addr n).foldl (fun (t : State) x =>
    let (t1, ep, b) := t.readData fn bar2 x.1 x.2
    t1.emit (.completion fn cplOk ep b)) s

/-! ### Writes -/

/-- A posted write into one line of HBM: the bytes of the TLP that lie in it and are enabled; marked poisoned, the whole
line. A line of a lost stack discards it (R235). -/
def State.apertureLine (s : State) (fn a l : Nat) (data : List Byte) (be : Nat) (ep : Bool) : State :=
  let f := fnField fn
  let at_ := fun (j : Nat) => 128 * l + j - a
  let inside := fun (j : Nat) => decide (a ≤ 128 * l + j) && decide (128 * l + j < a + data.length) && bit be (at_ j)
  let mask := (List.range 128).foldl (fun (m : Nat) (j : Nat) => m + b2n (inside j) * 2 ^ j) 0
  if mask = 0 then s
  else
    let bytes := (List.range 128).map (fun j => if inside j then (data[at_ j]?).getD 0 else 0)
    let (s1, st) := s.lineWriteMask f l mask bytes ep srcHost
    if st = St.OK then s1 else s1.aerDrop fn

/-- A posted write through an aperture, line by line. -/
def State.apertureWrite (s : State) (fn a : Nat) (data : List Byte) (be : Nat) (ep : Bool) : State :=
  (List.range (data.length / 128 + 2)).foldl (fun (t : State) i => t.apertureLine fn a (a / 128 + i) data be ep) s

/-- A posted write to hub SRAM: its enabled bytes; the private part discards them. -/
def State.sramPost (s : State) (a : Nat) (data : List Byte) (be : Nat) : State :=
  (List.range data.length).foldl (fun (t : State) i =>
    if bit be i && decide (a + i < sramPrivate) then t.sramWrite (a + i) ((data.drop i).take 1) else t) s

/-- A Memory Write is served: where it may not be, it is discarded and logged. In BAR0 every byte is enabled. -/
def State.writeDo (s : State) (fn : Nat) (bar2 : Bool) (addr : Nat) (data : List Byte) (be : Nat) (ep : Bool) : State :=
  let n := data.length
  if s.barStatus fn bar2 addr n ≠ cplOk then s.aerDrop fn
  else if bar2 then
    if fn = 0 then s.sramPost addr data be
    else s.apertureWrite fn (s.freg (fnField fn) Reg.FLD_APERTURE.BASE * 2 ^ 30 + addr) data be ep
  else if be % 2 ^ n ≠ 2 ^ n - 1 then s.aerDrop fn
  else if ep then s.aerPoison fn
  else (s.spaceWrite true (fnSpace fn) addr n (leNat data)).bootSettle

/-! ### Waiting on a bin scoreboard (R97, R692) -/

/-- The field a request names, where it is one for registers. -/
def HostReq.field (r : HostReq) : Option FieldId :=
  match r with
  | .read fn false _ _ => if fn = 0 then none else some (fnField fn)
  | .write fn false _ _ _ _ => if fn = 0 then none else some (fnField fn)
  | .reg (.field f) _ _ _ => some f
  | _ => none

/-- The field and the plot whose bin window a request reaches, with tine and segment. -/
def HostReq.bin (r : HostReq) : Option (FieldId × PlotId × Nat × Nat) :=
  r.field.bind (fun f => (r.binPlace f).map (fun (p, t, row) => (f, plotIx p, t, row / 32)))

/-- Whether a request that arrived when the plot's next QSN was q waits: for passes issued before it that write its segment
to retire. -/
def State.reqWaits (s : State) (r : HostReq) (q : Nat) : Bool :=
  match r.bin with
  | some (f, p, t, seg) => s.windowUp f p && segBusy (issuedBefore (s.plot f p).queue q) t seg
  | none => false

/-- A request takes effect. -/
def State.reqDo (s : State) (r : HostReq) : State :=
  match r with
  | .read fn bar2 addr n => s.readDo fn bar2 addr n
  | .write fn bar2 addr data be ep => s.writeDo fn bar2 addr data be ep
  | .reg sp off bytes value => (s.agentWrite .yarzin sp off bytes value).bootSettle

/-- A request that waits on a bin scoreboard counts a cycle of BIN_WAIT of the plot it addresses (R97, R114). -/
def State.reqWaited (s : State) (r : HostReq) (q : Nat) : State :=
  match r.bin with
  | some (f, p, _, _) => if s.reqWaits r q then s.pwrap f p Reg.PLT_TINE_STALL.BIN_WAIT else s
  | none => s

/-- One waiting request, where it is the oldest of its source, takes effect, or goes on waiting. -/
def State.serveOne (s : State) (a : HostAcc) : State :=
  if (s.hub.host.wait.find? (fun b => decide (b.src = a.src))) = some a then
    if s.reqWaits a.req a.qsn then s.reqWaited a.req a.qsn else (s.updHost (fun U => { U with wait := U.wait.erase a })).reqDo a.req
  else s

/-- The waiting requests, oldest first. -/
def State.serveHost (s : State) : State := s.hub.host.wait.foldl (fun (t : State) a => t.serveOne a) s

/-- The QSN the plot a request addresses would give its next operation. -/
def State.reqQsn (s : State) (r : HostReq) : Nat :=
  match r.bin with
  | some (f, p, _, _) => (s.plot f p).nextQsn
  | none => 0

/-- A request arrives: it takes effect at once, or waits — on its own account, or behind one of its source. -/
def State.request (s : State) (src : Nat) (r : HostReq) : State :=
  let s1 := s.serveHost
  let q := s1.reqQsn r
  if s1.hub.host.wait.any (fun a => decide (a.src = src)) || s1.reqWaits r q then
    (s1.updHost (fun U => { U with wait := U.wait ++ [⟨src, r, q⟩] })).reqWaited r q
  else s1.reqDo r

/-! ### TLPs held in Recovery (R597, R598) -/

/-- A TLP is held behind those already held. -/
def State.hold (s : State) (src : Nat) (r : HostReq) : State := s.updHost (fun U => { U with held := U.held ++ [(src, r)] })

/-- A TLP that the link carries: it leaves L1 for it. -/
def State.tlpDo (s : State) (src : Nat) (r : HostReq) : State := s.hostWake.request src r

/-- TLPs in their order, while the link carries them; once it is in Recovery again the rest are held. -/
def State.heldLoop (s : State) : List (Nat × HostReq) → State
  | [] => s
  | x :: rest =>
    if s.hostUp then State.heldLoop (s.tlpDo x.1 x.2) rest
    else if s.hostLink = hpRecovery then State.heldLoop (s.hold x.1 x.2) rest
    else s

/-- The TLPs held go on once the link has left Recovery: before the next TLP, or at the next tick (DESIGN CHOICE, log entry 44). -/
def State.heldServe (s : State) : State :=
  if s.hostUp then (s.updHost (fun U => { U with held := [] })).heldLoop s.hub.host.held else s

/-! ### Idling -/

/-- The values of PLT_NOTIFY that wait in a field's plots leave as their events (R175, R183), where the plot clocks run. -/
def State.notifyField (s : State) (f : FieldId) : State :=
  if s.partitionUp f then
    (((s.field f).plots.filter (fun e => e.2.notify.isSome)).map (fun e => plotIx e.1)).foldl
      (fun (t : State) p => t.notifyLeave f p) s
  else s

/-- What happens where no command waits: a tick of the clock, after which the accesses that wait on a bin scoreboard are looked
at again, and the values of PLT_NOTIFY not yet on their way leave their plots. -/
def State.idle (s : State) : Result := finish (allFields.foldl (fun (t : State) f => t.notifyField f) s.tick.serveHost.heldServe)

/-! ### Meanings -/

/-- The longest read of a TLP (R606). -/
def maxRead : Nat := 4096

/-- A TLP of the host arrives: the link must be up, and leaves L1 for it. In Recovery it is held (R597). -/
def State.tlp (s : State) (src : Nat) (r : HostReq) : Result :=
  if s.hostUp then finish (s.heldServe.tlpDo src r)
  else if s.hostLink = hpRecovery then .next (s.hold src r)
  else .next s

/-- MEMORY_READ (R606). -/
def execMemoryRead (fn : Fin 5) (bar2 : Bool) (addr len : Nat) (s : State) : Result :=
  if maxRead < len then .next s else s.tlp fn.val (.read fn.val bar2 addr len)

/-- MEMORY_WRITE (R606). -/
def execMemoryWrite (fn : Fin 5) (bar2 : Bool) (addr : Nat) (data : List Byte) (be : Nat) (ep : Bool) (s : State) : Result :=
  if maxPayload < data.length then .next s else s.tlp fn.val (.write fn.val bar2 addr data be ep)

/-- Whether a register access has a length and an alignment that R15 admits. -/
def accessOk (off bytes : Nat) : Bool := (decide (bytes = 4) || decide (bytes = 8)) && decide (off % bytes = 0)

/-- REGISTER_WRITE (R13): of the host, as a Memory Write through the BAR0 of the function named; of Yarzin; of a drill, in
its plot's own window; of the tester on JTAG, in hub register space (R581). -/
def execRegisterWrite (a : Agent) (sp : Space) (off bytes value : Nat) (s : State) : Result :=
  if !accessOk off bytes then .next s
  else
    match a with
    | .host pf =>
      if sp = fnSpace pf.val then s.tlp pf.val (.write pf.val false off (leBytes bytes value) (2 ^ bytes - 1) false) else .next s
    | .yarzin => finish (s.request 5 (.reg sp off bytes (value % 2 ^ (8 * bytes))))
    | .jtag => finish (s.agentWrite .jtag sp off bytes (value % 2 ^ (8 * bytes))).bootSettle
    | .drill f p => if bytes = 4 then finish (s.agentWrite (.drill f p) sp off 4 (value % 2 ^ 32)) else .next s

end Sys2Proof.Machine
end

