-- ==== Sys2Proof/Machine/Drill.lean ====
section
/-! DEFINITION. The drill (R147 to R153, R177, R178, R188 to R202, R219 to R224, R720): its local
bus, RV32IMC with Zicsr and Zifencei, traps, interrupts, halts, and the tile-extension instructions
it issues. -/

namespace Sys2Proof.Machine

open Sys2Proof

/-! ### Integer registers and control state -/

/-- Integer register r; x0 reads 0. -/
def Drill.x (d : Drill) (r : Nat) : Nat := if r = 0 then 0 else SMap.get d.xr 0 r

/-- Integer register r written; writes to x0 are discarded. -/
def Drill.setX (d : Drill) (r v : Nat) : Drill :=
  if r = 0 then d else { d with xr := SMap.set d.xr 0 r (v % 2 ^ 32) }

/-- The drill after an instruction of `len` bytes that took `cost` cycles (R148, R152). -/
def Drill.retire (d : Drill) (len cost : Nat) : Drill :=
  { d with pc := (d.pc + len) % 2 ^ 32, minstret := (d.minstret + 1) % 2 ^ 64,
           mcycle := (d.mcycle + cost) % 2 ^ 64 }

/-- Trap entry (R150): mepc, mcause and mtval written, interrupts off, IN_TRAP set, the handler next. -/
def Drill.trap (d : Drill) (epc cause tval : Nat) : Drill :=
  { d with st := .running, wait := .none, mepc := epc, mcause := cause, mtval := tval % 2 ^ 32,
           mpie := d.mie, mie := false, pc := d.mtvec, inTrap := true }

/-- MRET: the saved interrupt enable and pc come back, IN_TRAP clears (R150). -/
def Drill.ret (d : Drill) : Drill :=
  { d with mie := d.mpie, mpie := true, pc := d.mepc, inTrap := false,
           minstret := (d.minstret + 1) % 2 ^ 64, mcycle := (d.mcycle + 2) % 2 ^ 64 }

/-- A synchronous exception (R150): a trap, or FAULTED and its event while IN_TRAP is set. -/
def State.drillExc (s : State) (f : FieldId) (p : PlotId) (cause tval : Nat) : State :=
  let d := (s.plot f p).drill
  if d.inTrap then
    (s.updDrill f p (fun d => { d with st := .faulted, faultCause := cause, haltPc := d.pc })).raise f
      Ev.PLT_DRILL_FAULT [(1, p), (1, cause), (4, d.pc), (4, tval)]
  else s.updDrill f p (fun d => d.trap d.pc cause tval)

/-- An instruction that retires with a register result. -/
def State.drillRd (s : State) (f : FieldId) (p : PlotId) (rd v len cost : Nat) : State :=
  s.updDrill f p (fun d => (d.setX rd v).retire len cost)

/-! ### The local bus (R147, R153, R158) -/

/-- What a scalar access answers: a value, an access fault, or held under R153 or R97. -/
inductive BusRes where
  | ok (s : State) (v : Nat)
  | fault (s : State)
  | held (s : State)
  deriving DecidableEq, Repr

/-- A held access counts one cycle (R114, R155). -/
def State.claimHeld (s : State) (f : FieldId) (p : PlotId) : State := s.pwrap f p Reg.PLT_QUEUE_STALL.CLAIM
def State.binHeld (s : State) (f : FieldId) (p : PlotId) : State := s.pwrap f p Reg.PLT_TINE_STALL.BIN_WAIT

/-- Whether the bin scoreboard lets an access to a bin address pass (R97). -/
def Plot.binFree (P : Plot) (a : Nat) : Bool :=
  match binSegOf a with
  | some (t, g) => !segBusy P.queue t g
  | none => true

/-- n bytes of the boot ROM. -/
def bootRomBytes (a n : Nat) : List Byte := (List.range n).map (fun i => Config.bootRom (a + i - 0x800000))

/-- A scalar load of n bytes from an aligned local address. -/
def State.busLoad (s : State) (f : FieldId) (p : PlotId) (a n : Nat) : BusRes :=
  let P := s.plot f p
  if a < storeEnd then
    if !claimFree P.queue (claimOf false a (a + n - 1)) then .held (s.claimHeld f p)
    else
      let (s1, b, bad) := s.storeRead f p a n rqDrill
      if bad.any id then .fault s1 else .ok s1 (leNat b)
  else if a < 0x440000 then
    if n ≠ 4 then .fault s
    else if !claimFree P.queue (claimOf false a (a + 3)) then .held (s.claimHeld f p)
    else if !P.binFree a then .held (s.binHeld f p)
    else
      let t := (a - 0x400000) / 0x10000
      let row := (a - 0x400000) % 0x10000 / 128
      let col := a % 128 / 4
      if s.binPoisoned f p t row then .ok s 0x7FC00000
      else
        let (s1, v) := s.binReadRaw f p t row col
        .ok s1 v
  else if 0x800000 ≤ a ∧ a < 0x804000 then .ok s (leNat (bootRomBytes a n))
  else if 0xC00000 ≤ a ∧ a < 0xC01000 then
    if n ≠ 4 then .fault s
    else
      let v := s.plotRead f p (a - 0xC00000) 4
      .ok (if a = 0xC000AC then s.cqPop f p else s) v
  else .fault s

/-- A scalar store of n bytes to an aligned local address. -/
def State.busStore (s : State) (f : FieldId) (p : PlotId) (a n v : Nat) : BusRes :=
  let P := s.plot f p
  if a < storeEnd then
    if !claimFree P.queue (claimOf true a (a + n - 1)) then .held (s.claimHeld f p)
    else .ok (s.storeWrite f p a (leBytes n v) rqDrill) 0
  else if a < 0x440000 then
    if n ≠ 4 then .fault s
    else if !claimFree P.queue (claimOf true a (a + 3)) then .held (s.claimHeld f p)
    else if !P.binFree a then .held (s.binHeld f p)
    else .ok (s.binWrite f p ((a - 0x400000) / 0x10000) ((a - 0x400000) % 0x10000 / 128) (a % 128 / 4) (v % 2 ^ 32)) 0
  else if 0xC00000 ≤ a ∧ a < 0xC01000 then
    if n ≠ 4 then .fault s else .ok (s.plotWrite f p true (a - 0xC00000) 4 (v % 2 ^ 32)) 0
  else .fault s

/-! ### Instructions -/

/-- Integer operations of RV32IM. -/
inductive AluOp where
  | add | sub | sll | slt | sltu | xor | srl | sra | or | and
  | mul | mulh | mulhsu | mulhu | div | divu | rem | remu
  deriving DecidableEq, Repr

/-- Branch conditions. -/
inductive BrOp where
  | beq | bne | blt | bge | bltu | bgeu
  deriving DecidableEq, Repr

/-- CSR operations. -/
inductive CsrOp where
  | rw | rs | rc
  deriving DecidableEq, Repr

/-- A decoded drill instruction. Immediates are two's complement integers. -/
inductive DInstr where
  | lui (rd imm : Nat)
  | auipc (rd imm : Nat)
  | jal (rd : Nat) (off : Int)
  | jalr (rd rs1 : Nat) (imm : Int)
  | branch (op : BrOp) (rs1 rs2 : Nat) (off : Int)
  | load (k : LoadKind) (rd rs1 : Nat) (imm : Int)
  | store (k : StoreKind) (rs2 rs1 : Nat) (imm : Int)
  | aluImm (op : AluOp) (rd rs1 : Nat) (imm : Int)
  | alu (op : AluOp) (rd rs1 rs2 : Nat)
  | fence
  | fenceI
  | ecall
  | ebreak
  | mret
  | wfi
  | csr (op : CsrOp) (rd : Nat) (imm : Bool) (src csr : Nat)
  | tdld (dr rs1 : Nat)
  | tdset (dr rs1 w : Nat)
  | tdget (rd dr w : Nat)
  | tmm (rd dr rs2 : Nat) (int : Bool)
  | tvec (rd dr rs2 : Nat) (int : Bool)
  | txfer (rd rs1 : Nat)
  | tfence (rd : Nat) (int : Bool)
  | tscdrain (rd : Nat) (int : Bool)
  | trfence (rd rs1 : Nat) (int : Bool)
  | twait (rd rs1 : Nat)
  | illegal
  deriving DecidableEq, Repr

/-- A custom-0 instruction (R188 to R190). -/
def decodeTile (w : Nat) : DInstr :=
  let rd := bits w 7 5
  let f3 := bits w 12 3
  let rs1 := bits w 15 5
  let rs2 := bits w 20 5
  let f7 := bits w 25 7
  match f3 with
  | 0 => if rd < 8 ∧ rs2 = 0 ∧ f7 = 0 then .tdld rd rs1 else .illegal
  | 1 => if rd < 8 ∧ rs2 = 0 ∧ f7 < 16 then .tdset rd rs1 f7 else .illegal
  | 2 => if rs1 < 8 ∧ rs2 = 0 ∧ f7 < 16 then .tdget rd rs1 f7 else .illegal
  | 3 => if rs1 < 8 ∧ f7 < 2 then .tmm rd rs1 rs2 (decide (f7 = 1)) else .illegal
  | 4 => if rs1 < 8 ∧ f7 < 2 then .tvec rd rs1 rs2 (decide (f7 = 1)) else .illegal
  | 5 => if rs2 = 0 ∧ f7 = 0 then .txfer rd rs1 else .illegal
  | 6 =>
    if rs2 ≠ 0 then .illegal
    else match f7 % 64 with
      | 0 => if rs1 = 0 then .tfence rd (bit f7 6) else .illegal
      | 1 => if rs1 = 0 then .tscdrain rd (bit f7 6) else .illegal
      | 2 => .trfence rd rs1 (bit f7 6)
      | _ => .illegal
  | _ => if rs2 = 0 ∧ f7 = 0 then .twait rd rs1 else .illegal

def loadKindOf (f3 : Nat) : Option LoadKind :=
  match f3 with
  | 0 => some .lb | 1 => some .lh | 2 => some .lw | 4 => some .lbu | 5 => some .lhu | _ => none

def storeKindOf (f3 : Nat) : Option StoreKind :=
  match f3 with
  | 0 => some .sb | 1 => some .sh | 2 => some .sw | _ => none

def brOpOf (f3 : Nat) : Option BrOp :=
  match f3 with
  | 0 => some .beq | 1 => some .bne | 4 => some .blt | 5 => some .bge | 6 => some .bltu | 7 => some .bgeu
  | _ => none

/-- OP with funct7 0. -/
def aluOpOf (f3 : Nat) : AluOp :=
  match f3 with
  | 0 => .add | 1 => .sll | 2 => .slt | 3 => .sltu | 4 => .xor | 5 => .srl | 6 => .or | _ => .and

/-- OP with funct7 1: the M extension. -/
def mulOpOf (f3 : Nat) : AluOp :=
  match f3 with
  | 0 => .mul | 1 => .mulh | 2 => .mulhsu | 3 => .mulhu | 4 => .div | 5 => .divu | 6 => .rem | _ => .remu

/-- SYSTEM instructions: environment calls, MRET, WFI and the CSR instructions. -/
def decodeSystem (w : Nat) : DInstr :=
  let rd := bits w 7 5
  let rs1 := bits w 15 5
  let c := bits w 20 12
  match bits w 12 3 with
  | 0 =>
    if w = 0x00000073 then .ecall
    else if w = 0x00100073 then .ebreak
    else if w = 0x30200073 then .mret
    else if w = 0x10500073 then .wfi
    else .illegal
  | 1 => .csr .rw rd false rs1 c
  | 2 => .csr .rs rd false rs1 c
  | 3 => .csr .rc rd false rs1 c
  | 5 => .csr .rw rd true rs1 c
  | 6 => .csr .rs rd true rs1 c
  | 7 => .csr .rc rd true rs1 c
  | _ => .illegal

/-- A 32-bit instruction word of RV32IM, Zicsr, Zifencei or custom-0 (R148, R188). -/
def decode32 (w : Nat) : DInstr :=
  let rd := bits w 7 5
  let f3 := bits w 12 3
  let rs1 := bits w 15 5
  let rs2 := bits w 20 5
  let f7 := bits w 25 7
  let immI := toSigned 12 (bits w 20 12)
  match bits w 0 7 with
  | 0x37 => .lui rd (bits w 12 20)
  | 0x17 => .auipc rd (bits w 12 20)
  | 0x6F => .jal rd (toSigned 21 (bits w 21 10 * 2 + bits w 20 1 * 2 ^ 11 + bits w 12 8 * 2 ^ 12 + bits w 31 1 * 2 ^ 20))
  | 0x67 => if f3 = 0 then .jalr rd rs1 immI else .illegal
  | 0x63 =>
    match brOpOf f3 with
    | some op => .branch op rs1 rs2
        (toSigned 13 (bits w 8 4 * 2 + bits w 25 6 * 2 ^ 5 + bits w 7 1 * 2 ^ 11 + bits w 31 1 * 2 ^ 12))
    | none => .illegal
  | 0x03 => match loadKindOf f3 with | some k => .load k rd rs1 immI | none => .illegal
  | 0x23 =>
    match storeKindOf f3 with
    | some k => .store k rs2 rs1 (toSigned 12 (bits w 7 5 + bits w 25 7 * 32))
    | none => .illegal
  | 0x13 =>
    match f3 with
    | 1 => if f7 = 0 then .aluImm .sll rd rs1 rs2 else .illegal
    | 5 => if f7 = 0 then .aluImm .srl rd rs1 rs2 else if f7 = 0x20 then .aluImm .sra rd rs1 rs2 else .illegal
    | _ => .aluImm (aluOpOf f3) rd rs1 immI
  | 0x33 =>
    if f7 = 0 then .alu (aluOpOf f3) rd rs1 rs2
    else if f7 = 1 then .alu (mulOpOf f3) rd rs1 rs2
    else if f7 = 0x20 ∧ f3 = 0 then .alu .sub rd rs1 rs2
    else if f7 = 0x20 ∧ f3 = 5 then .alu .sra rd rs1 rs2
    else .illegal
  | 0x0F => if f3 = 0 then .fence else if f3 = 1 then .fenceI else .illegal
  | 0x73 => decodeSystem w
  | 0x0B => decodeTile w
  | _ => .illegal

/-- Quadrant 0 of the C extension. -/
def decodeC0 (h : Nat) : DInstr :=
  let rd := 8 + bits h 2 3
  let rs1 := 8 + bits h 7 3
  let off : Int := ((bits h 10 3 * 8 + bits h 6 1 * 4 + bits h 5 1 * 64 : Nat) : Int)
  match bits h 13 3 with
  | 0 =>
    let imm := bits h 11 2 * 16 + bits h 7 4 * 64 + bits h 6 1 * 4 + bits h 5 1 * 8
    if imm = 0 then .illegal else .aluImm .add rd 2 (imm : Nat)
  | 2 => .load .lw rd rs1 off
  | 6 => .store .sw rd rs1 off
  | _ => .illegal

/-- Offset of C.J and C.JAL. -/
def cjOff (h : Nat) : Int :=
  toSigned 12 (bits h 3 3 * 2 + bits h 11 1 * 16 + bits h 2 1 * 32 + bits h 7 1 * 64 + bits h 6 1 * 128 +
    bits h 9 2 * 256 + bits h 8 1 * 1024 + bits h 12 1 * 2048)

/-- Offset of C.BEQZ and C.BNEZ. -/
def cbOff (h : Nat) : Int :=
  toSigned 9 (bits h 3 2 * 2 + bits h 10 2 * 8 + bits h 2 1 * 32 + bits h 5 2 * 64 + bits h 12 1 * 256)

/-- The register and immediate arithmetic of quadrant 1. -/
def decodeC1Alu (h : Nat) : DInstr :=
  let rd := 8 + bits h 7 3
  let rs2 := 8 + bits h 2 3
  let sh := bits h 2 5
  match bits h 10 2 with
  | 0 => if bit h 12 then .illegal else .aluImm .srl rd rd (sh : Nat)
  | 1 => if bit h 12 then .illegal else .aluImm .sra rd rd (sh : Nat)
  | 2 => .aluImm .and rd rd (toSigned 6 (sh + bits h 12 1 * 32))
  | _ =>
    if bit h 12 then .illegal
    else match bits h 5 2 with
      | 0 => .alu .sub rd rd rs2
      | 1 => .alu .xor rd rd rs2
      | 2 => .alu .or rd rd rs2
      | _ => .alu .and rd rd rs2

/-- Quadrant 1 of the C extension. -/
def decodeC1 (h : Nat) : DInstr :=
  let rd := bits h 7 5
  let imm6 := toSigned 6 (bits h 2 5 + bits h 12 1 * 32)
  match bits h 13 3 with
  | 0 => .aluImm .add rd rd imm6
  | 1 => .jal 1 (cjOff h)
  | 2 => .aluImm .add rd 0 imm6
  | 3 =>
    if imm6 = 0 then .illegal
    else if rd = 2 then
      .aluImm .add 2 2 (toSigned 10 (bits h 6 1 * 16 + bits h 2 1 * 32 + bits h 5 1 * 64 + bits h 3 2 * 128 +
        bits h 12 1 * 512))
    else .lui rd (ofSigned 20 imm6)
  | 4 => decodeC1Alu h
  | 5 => .jal 0 (cjOff h)
  | 6 => .branch .beq (8 + bits h 7 3) 0 (cbOff h)
  | _ => .branch .bne (8 + bits h 7 3) 0 (cbOff h)

/-- Quadrant 2 of the C extension. -/
def decodeC2 (h : Nat) : DInstr :=
  let rd := bits h 7 5
  let rs2 := bits h 2 5
  match bits h 13 3 with
  | 0 => if bit h 12 then .illegal else .aluImm .sll rd rd (rs2 : Nat)
  | 2 => if rd = 0 then .illegal
         else .load .lw rd 2 ((bits h 4 3 * 4 + bits h 12 1 * 32 + bits h 2 2 * 64 : Nat) : Int)
  | 4 =>
    if !bit h 12 then
      if rs2 = 0 then (if rd = 0 then .illegal else .jalr 0 rd 0) else .alu .add rd 0 rs2
    else if rs2 = 0 then (if rd = 0 then .ebreak else .jalr 1 rd 0)
    else .alu .add rd rd rs2
  | 6 => .store .sw rs2 2 ((bits h 9 4 * 4 + bits h 7 2 * 64 : Nat) : Int)
  | _ => .illegal

/-- A 16-bit instruction of the C extension, RV32 without F and D (R148). -/
def decode16 (h : Nat) : DInstr :=
  match h % 4 with
  | 0 => decodeC0 h
  | 1 => decodeC1 h
  | _ => decodeC2 h

/-! ### Arithmetic -/

/-- RV32IM arithmetic on 32-bit values; division by zero and overflow as the base ISA fixes. -/
def AluOp.eval (op : AluOp) (a b : Nat) : Nat :=
  let sa := toSigned 32 a
  let sb := toSigned 32 b
  match op with
  | .add => trunc 32 (a + b)
  | .sub => trunc 32 (a + 2 ^ 32 - b % 2 ^ 32)
  | .sll => trunc 32 (a <<< (b % 32))
  | .slt => b2n (decide (sa < sb))
  | .sltu => b2n (decide (a < b))
  | .xor => a ^^^ b
  | .srl => a >>> (b % 32)
  | .sra => ofSigned 32 (sa / ((2 ^ (b % 32) : Nat) : Int))
  | .or => a ||| b
  | .and => a &&& b
  | .mul => trunc 32 (a * b)
  | .mulh => ofSigned 32 (sa * sb / ((2 ^ 32 : Nat) : Int))
  | .mulhsu => ofSigned 32 (sa * (b : Int) / ((2 ^ 32 : Nat) : Int))
  | .mulhu => a * b / 2 ^ 32
  | .div => if b = 0 then 2 ^ 32 - 1 else ofSigned 32 (Int.tdiv sa sb)
  | .divu => if b = 0 then 2 ^ 32 - 1 else a / b
  | .rem => if b = 0 then a else ofSigned 32 (Int.tmod sa sb)
  | .remu => if b = 0 then a else a % b

/-- Issue cost of R152. -/
def AluOp.cost (op : AluOp) : Nat :=
  match op with
  | .mul | .mulh | .mulhsu | .mulhu => 3
  | .div | .divu | .rem | .remu => 34
  | _ => 1

def BrOp.taken (op : BrOp) (a b : Nat) : Bool :=
  match op with
  | .beq => decide (a = b)
  | .bne => decide (a ≠ b)
  | .blt => decide (toSigned 32 a < toSigned 32 b)
  | .bge => decide (toSigned 32 b ≤ toSigned 32 a)
  | .bltu => decide (a < b)
  | .bgeu => decide (b ≤ a)

def loadBytes : LoadKind → Nat | .lb => 1 | .lbu => 1 | .lh => 2 | .lhu => 2 | .lw => 4
def storeBytes : StoreKind → Nat | .sb => 1 | .sh => 2 | .sw => 4

/-- The register value of loaded bits. -/
def loadExtend (k : LoadKind) (v : Nat) : Nat :=
  match k with
  | .lb => ofSigned 32 (toSigned 8 v)
  | .lh => ofSigned 32 (toSigned 16 v)
  | _ => v

/-- A 32-bit address: register plus immediate, modulo 2^32. -/
def effAddr (a : Nat) (imm : Int) : Nat := ofSigned 32 ((a : Int) + imm)

/-! ### CSRs (R148, R151) -/

/-- A CSR's value; none where the drill implements no such CSR. -/
def Plot.csrRead (P : Plot) (p c : Nat) : Option Nat :=
  let d := P.drill
  match c with
  | 0x301 => some 0x40001104
  | 0xF14 => some p
  | 0x300 => some (b2n d.mie * 8 + b2n d.mpie * 128)
  | 0x305 => some d.mtvec
  | 0x341 => some d.mepc
  | 0x342 => some d.mcause
  | 0x343 => some d.mtval
  | 0x340 => some d.mscratch
  | 0x304 => some d.mieReg
  | 0x344 => some P.mip
  | 0xB00 => some (d.mcycle % 2 ^ 32)
  | 0xB80 => some (d.mcycle / 2 ^ 32)
  | 0xB02 => some (d.minstret % 2 ^ 32)
  | 0xB82 => some (d.minstret / 2 ^ 32)
  | _ => none

/-- A CSR written. misa and mip hold nothing software writes (R148, R151). -/
def Drill.csrWrite (d : Drill) (c v : Nat) : Drill :=
  match c with
  | 0x300 => { d with mie := bit v 3, mpie := bit v 7 }
  | 0x305 => { d with mtvec := v / 4 * 4 }
  | 0x341 => { d with mepc := v / 2 * 2 }
  | 0x342 => { d with mcause := v }
  | 0x343 => { d with mtval := v }
  | 0x340 => { d with mscratch := v }
  | 0x304 => { d with mieReg := bits v 16 5 * 2 ^ 16 }
  | 0xB00 => { d with mcycle := d.mcycle / 2 ^ 32 * 2 ^ 32 + v }
  | 0xB80 => { d with mcycle := d.mcycle % 2 ^ 32 + v * 2 ^ 32 }
  | 0xB02 => { d with minstret := d.minstret / 2 ^ 32 * 2 ^ 32 + v }
  | 0xB82 => { d with minstret := d.minstret % 2 ^ 32 + v * 2 ^ 32 }
  | _ => d

/-- A CSR instruction: read, modify, write; a write that the instruction form does not make is
none, and a write to a read-only CSR is illegal. -/
def State.drillCsr (s : State) (f : FieldId) (p : PlotId) (op : CsrOp) (rd : Nat) (imm : Bool)
    (src c w : Nat) : State :=
  let P := s.plot f p
  match P.csrRead p c with
  | none => s.drillExc f p 2 w
  | some old =>
    let v := if imm then src else P.drill.x src
    let writes := decide (op = .rw) || decide (src ≠ 0)
    if writes && decide (bits c 10 2 = 3) then s.drillExc f p 2 w
    else
      let new := match op with
        | .rw => v
        | .rs => old ||| v
        | .rc => old &&& (v ^^^ (2 ^ 32 - 1))
      s.updDrill f p (fun d =>
        let d1 := (d.setX rd old).retire 4 1
        if writes then d1.csrWrite c new else d1)

/-! ### Loads, stores and tile-extension instructions -/

/-- A scalar load (R149, R150, R153). -/
def State.drillLoad (s : State) (f : FieldId) (p : PlotId) (k : LoadKind) (rd rs1 : Nat) (imm : Int)
    (len : Nat) : State :=
  let a := effAddr ((s.plot f p).drill.x rs1) imm
  if a % loadBytes k ≠ 0 then s.drillExc f p 4 a
  else match s.busLoad f p a (loadBytes k) with
    | .ok s1 v => s1.drillRd f p rd (loadExtend k v) len (if a < storeEnd then 3 else 6)
    | .fault s1 => s1.drillExc f p 5 a
    | .held s1 => s1

/-- A scalar store (R149, R150, R153). -/
def State.drillStore (s : State) (f : FieldId) (p : PlotId) (k : StoreKind) (rs2 rs1 : Nat) (imm : Int)
    (len : Nat) : State :=
  let d := (s.plot f p).drill
  let a := effAddr (d.x rs1) imm
  if a % storeBytes k ≠ 0 then s.drillExc f p 6 a
  else match s.busStore f p a (storeBytes k) (d.x rs2 % 2 ^ (8 * storeBytes k)) with
    | .ok s1 _ => s1.updDrill f p (fun d => d.retire len 1)
    | .fault s1 => s1.drillExc f p 7 a
    | .held s1 => s1

/-- The 64 bytes TDLD or TXFER reads, under the rules of a drill load (R191, R219, R224). -/
def State.descLoad (s : State) (f : FieldId) (p : PlotId) (a : Nat) : BusRes :=
  if !claimFree (s.plot f p).queue (claimOf false a (a + 63)) then .held (s.claimHeld f p)
  else
    let (s1, b, bad) := s.storeRead f p a 64 rqDrill
    if bad.any id then .fault s1 else .ok s1 (leNat b)

/-- TDLD (R191, R224). DESIGN CHOICE (log entry 39): of an address both misaligned and outside the plot store, cause 4 comes
first; R224 gives no order. TXFER's likewise. -/
def State.drillTdld (s : State) (f : FieldId) (p : PlotId) (dr rs1 : Nat) : State :=
  let a := (s.plot f p).drill.x rs1
  if a % 64 ≠ 0 then s.drillExc f p 4 a
  else if storeEnd ≤ a then s.drillExc f p 5 a
  else match s.descLoad f p a with
    | .ok s1 v =>
      (s1.updPlot f p (fun P => { P with dr := SMap.set P.dr 0 dr v })).updDrill f p (fun d => d.retire 4 3)
    | .fault s1 => s1.drillExc f p 5 a
    | .held s1 => s1

/-- TDSET (R191). -/
def State.drillTdset (s : State) (f : FieldId) (p : PlotId) (dr rs1 w : Nat) : State :=
  let v := (s.plot f p).drill.x rs1
  (s.updPlot f p (fun P => { P with
    dr := SMap.set P.dr 0 dr (setBits (SMap.get P.dr 0 dr) (32 * w) 32 v) })).updDrill f p (fun d => d.retire 4 1)

/-- TDGET (R191). -/
def State.drillTdget (s : State) (f : FieldId) (p : PlotId) (rd dr w : Nat) : State :=
  s.drillRd f p rd (bits (SMap.get (s.plot f p).dr 0 dr) (32 * w) 32) 4 1

/-- A tile-extension instruction that enters the queue (R155, R194): while the queue is full the
drill stalls and the cycle counts in FULL; otherwise rd receives the QSN. -/
def State.drillIssue (s : State) (f : FieldId) (p : PlotId) (rd cost : Nat) (go : State → State) : State :=
  let P := s.plot f p
  if queueSize ≤ P.queue.length then s.pwrap f p Reg.PLT_QUEUE_STALL.FULL
  else (go s).drillRd f p rd P.nextQsn 4 cost

/-- TMM (R189, R194, R203 to R211). -/
def State.drillTmm (s : State) (f : FieldId) (p : PlotId) (rd dr rs2 : Nat) (int : Bool) : State :=
  let P := s.plot f p
  s.drillIssue f p rd 1 (fun t => t.issueTmm f p (SMap.get P.dr 0 dr) (P.drill.x rs2) int)

/-- TVEC (R189, R194, R212 to R218). -/
def State.drillTvec (s : State) (f : FieldId) (p : PlotId) (rd dr rs2 : Nat) (int : Bool) : State :=
  let P := s.plot f p
  s.drillIssue f p rd 1 (fun t => t.issueTvec f p (SMap.get P.dr 0 dr) (P.drill.x rs2) int)

/-- TXFER (R194, R219, R224). -/
def State.drillTxfer (s : State) (f : FieldId) (p : PlotId) (rd rs1 : Nat) : State :=
  let a := (s.plot f p).drill.x rs1
  if a % 64 ≠ 0 then s.drillExc f p 4 a
  else if storeEnd ≤ a then s.drillExc f p 5 a
  else if queueSize ≤ (s.plot f p).queue.length then s.pwrap f p Reg.PLT_QUEUE_STALL.FULL
  else match s.descLoad f p a with
    | .ok s1 v => s1.drillIssue f p rd 3 (fun t => t.issueTxfer f p v)
    | .fault s1 => s1.drillExc f p 5 a
    | .held s1 => s1

/-- TFENCE, TSCDRAIN and TRFENCE (R189, R194). -/
def State.drillSync (s : State) (f : FieldId) (p : PlotId) (rd : Nat) (op : QOp) (int : Bool) : State :=
  s.drillIssue f p rd 1 (fun t => t.issue f p op int [] none)

/-- TWAIT (R202): the drill waits unless the wait is over at once. -/
def State.drillTwait (s : State) (f : FieldId) (p : PlotId) (rd rs1 : Nat) : State :=
  let P := s.plot f p
  let x := P.drill.x rs1 % 0x10000
  if P.waitOver x then s.drillRd f p rd P.queue.length 4 1
  else s.updDrill f p (fun d => { d with st := .waiting, wait := .twait rd x })

/-- WFI (R151): the drill waits unless a bit stands in both mip and mie. -/
def State.drillWfi (s : State) (f : FieldId) (p : PlotId) : State :=
  if (s.plot f p).pendingInts = [] then
    s.updDrill f p (fun d => { d.retire 4 1 with st := .waiting, wait := .wfi })
  else s.updDrill f p (fun d => d.retire 4 1)

/-- FENCE.I (R149): the fetch buffer is emptied. -/
def Drill.fenceI (d : Drill) : Drill := { d.retire 4 1 with fetchBuf := [] }

/-- A jump to a target. -/
def Drill.jump (d : Drill) (rd link target : Nat) : Drill :=
  { (d.setX rd link).retire 0 2 with pc := target / 2 * 2 }

/-- One drill instruction of `len` bytes whose word is `w` (R148 to R153, R188 to R224). -/
def State.drillExec (s : State) (f : FieldId) (p : PlotId) (i : DInstr) (len w : Nat) : State :=
  let d := (s.plot f p).drill
  match i with
  | .lui rd imm => s.drillRd f p rd (imm * 4096) len 1
  | .auipc rd imm => s.drillRd f p rd (d.pc + imm * 4096) len 1
  | .jal rd off => s.updDrill f p (fun d => d.jump rd (d.pc + len) (effAddr d.pc off))
  | .jalr rd rs1 imm => s.updDrill f p (fun d => d.jump rd (d.pc + len) (effAddr (d.x rs1) imm))
  | .branch op rs1 rs2 off =>
    if op.taken (d.x rs1) (d.x rs2) then s.updDrill f p (fun d => d.jump 0 0 (effAddr d.pc off))
    else s.updDrill f p (fun d => d.retire len 1)
  | .load k rd rs1 imm => s.drillLoad f p k rd rs1 imm len
  | .store k rs2 rs1 imm => s.drillStore f p k rs2 rs1 imm len
  | .aluImm op rd rs1 imm => s.drillRd f p rd (op.eval (d.x rs1) (ofSigned 32 imm)) len op.cost
  | .alu op rd rs1 rs2 => s.drillRd f p rd (op.eval (d.x rs1) (d.x rs2)) len op.cost
  | .fence => s.updDrill f p (fun d => d.retire len 1)
  | .fenceI => s.updDrill f p Drill.fenceI
  | .ecall => s.drillExc f p 11 0
  | .ebreak => s.drillHalt f p d.pc ((d.pc + len) % 2 ^ 32)
  | .mret => s.updDrill f p Drill.ret
  | .wfi => s.drillWfi f p
  | .csr op rd imm src c => s.drillCsr f p op rd imm src c w
  | .tdld dr rs1 => s.drillTdld f p dr rs1
  | .tdset dr rs1 k => s.drillTdset f p dr rs1 k
  | .tdget rd dr k => s.drillTdget f p rd dr k
  | .tmm rd dr rs2 int => s.drillTmm f p rd dr rs2 int
  | .tvec rd dr rs2 int => s.drillTvec f p rd dr rs2 int
  | .txfer rd rs1 => s.drillTxfer f p rd rs1
  | .tfence rd int => s.drillSync f p rd .tfence int
  | .tscdrain rd int => s.drillSync f p rd .tscdrain int
  | .trfence rd rs1 int => s.drillSync f p rd (.trfence (d.x rs1)) int
  | .twait rd rs1 => s.drillTwait f p rd rs1
  | .illegal => s.drillExc f p 2 w

/-! ### Fetch (R147, R149, R158) -/

/-- A halfword fetched at an even address: from the fetch buffer, or with its aligned 64-bit word from the plot store or the
boot ROM. DESIGN CHOICE (log entry 39): the buffer holds one 64-byte block and fills word by word; the spec gives its size, and
that FENCE.I empties it. -/
def State.fetchHalf (s : State) (f : FieldId) (p : PlotId) (a : Nat) : BusRes :=
  let d := (s.plot f p).drill
  let blk := a / 64 * 64
  match if d.fetchBase = blk then SMap.find d.fetchBuf a else none with
  | some v => .ok s v
  | none =>
    let fill := fun (t : State) (b : List Byte) =>
      let a8 := a / 8 * 8
      BusRes.ok (t.updDrill f p (fun d =>
        let old := if d.fetchBase = blk then d.fetchBuf else []
        { d with fetchBase := blk, fetchBuf := (List.range 4).foldl (fun m i =>
            SMap.insert m (a8 + 2 * i) (leNat ((b.drop (2 * i)).take 2))) old }))
        (leNat ((b.drop (a - a8)).take 2))
    if a < storeEnd then
      let (s1, b, bad) := s.storeRead f p (a / 8 * 8) 8 rqFetch
      if bad.any id then .fault s1 else fill s1 b
    else if 0x800000 ≤ a ∧ a < 0x804000 then fill s (bootRomBytes (a / 8 * 8) 8)
    else .fault s

/-- Whether the drill executes an instruction now: RUNNING, not delivering its image, no halt waiting to be honoured, and
its partition not held. -/
def State.drillGo (s : State) (f : FieldId) (p : PlotId) : Bool :=
  let d := (s.plot f p).drill
  decide (d.st = .running) && !(s.plot f p).boot.active && !d.haltReq && !(s.field f).held && s.partitionUp f

/-- The drill fetches and executes the instruction at its pc. -/
def State.drillStep (s : State) (f : FieldId) (p : PlotId) : State :=
  let pc := (s.plot f p).drill.pc
  match s.fetchHalf f p pc with
  | .fault s1 => s1.drillExc f p 1 pc
  | .held s1 => s1
  | .ok s1 h =>
    if h % 4 ≠ 3 then s1.drillExec f p (decode16 h) 2 h
    else match s1.fetchHalf f p ((pc + 2) % 2 ^ 32) with
      | .fault s2 => s2.drillExc f p 1 ((pc + 2) % 2 ^ 32)
      | .held s2 => s2
      | .ok s2 g => s2.drillExec f p (decode32 (h + g * 65536)) 4 (h + g * 65536)

/-- A meaning of a drill instruction given by its command. -/
def State.drillDo (s : State) (f : FieldId) (p : PlotId) (i : DInstr) (len : Nat) : Result :=
  if s.drillGo f p then finish (s.drillExec f p i len 0) else .next s

/-- Bytes of a compressed or full instruction. -/
def insLen (compressed : Bool) : Nat := if compressed then 2 else 4

/-! ### Meanings -/

/-- DRILL_INSTRUCTION (R148). -/
def execDrillInstruction (f : FieldId) (p : PlotId) (s : State) : Result :=
  if s.drillGo f p then finish (s.drillStep f p) else .next s

/-- DRILL_LOAD (R153). -/
def execDrillLoad (f : FieldId) (p : PlotId) (k : LoadKind) (rd rs1 : Fin 32) (imm : Int)
    (compressed : Bool) (s : State) : Result := s.drillDo f p (.load k rd rs1 imm) (insLen compressed)

/-- DRILL_STORE (R153). -/
def execDrillStore (f : FieldId) (p : PlotId) (k : StoreKind) (rs2 rs1 : Fin 32) (imm : Int)
    (compressed : Bool) (s : State) : Result := s.drillDo f p (.store k rs2 rs1 imm) (insLen compressed)

/-- EBREAK (R150, R720). -/
def execEbreak (f : FieldId) (p : PlotId) (compressed : Bool) (s : State) : Result :=
  s.drillDo f p .ebreak (insLen compressed)

/-- ECALL (R150). -/
def execEcall (f : FieldId) (p : PlotId) (s : State) : Result := s.drillDo f p .ecall 4

/-- MRET (R150). -/
def execMret (f : FieldId) (p : PlotId) (s : State) : Result := s.drillDo f p .mret 4

/-- WFI (R151). -/
def execWfi (f : FieldId) (p : PlotId) (s : State) : Result := s.drillDo f p .wfi 4

/-- WFI_WAKE (R151): WAITING ends when a bit stands in both mip and mie. -/
def execWfiWake (f : FieldId) (p : PlotId) (s : State) : Result := s.clocked <|
  let P := s.plot f p
  if P.drill.st = .waiting ∧ P.drill.wait = .wfi ∧ P.pendingInts ≠ [] then
    .next (s.updDrill f p (fun d => { d with st := .running, wait := .none }))
  else .next s

/-- FENCE (R149). -/
def execFence (f : FieldId) (p : PlotId) (s : State) : Result := s.drillDo f p .fence 4

/-- FENCE_I (R149). -/
def execFenceI (f : FieldId) (p : PlotId) (s : State) : Result := s.drillDo f p .fenceI 4

/-- DRILL_INTERRUPT (R151, R202): taken at an instruction boundary while mstatus.MIE is 1; which of
several pending interrupts is taken is a free choice. -/
def execDrillInterrupt (f : FieldId) (p : PlotId) (s : State) : Result :=
  let P := s.plot f p
  let go := (P.drill.st = .running || P.drill.st = .waiting) && P.drill.mie && !P.drill.haltReq &&
    !(s.field f).held && s.partitionUp f
  if go && decide (P.pendingInts ≠ []) then
    let (v, s1) := s.draw
    let i := P.pendingInts.getD (v % P.pendingInts.length) 16
    .next (s1.updDrill f p (fun d => d.trap d.pc (2 ^ 31 + i) 0))
  else .next s

/-- DRILL_HOLD_SET (R177): HELD at once; queued instructions run on. -/
def execDrillHoldSet (f : FieldId) (p : PlotId) (s : State) : Result :=
  .next (s.drillCtl f p true false false)

/-- DRILL_HOLD_CLEAR (R149, R177). -/
def execDrillHoldClear (f : FieldId) (p : PlotId) (s : State) : Result :=
  .next (if s.vacant f p || !s.partitionUp f then s else s.drillCtl f p false false false)

/-- HALT_REQ (R177). -/
def execHaltReq (f : FieldId) (p : PlotId) (s : State) : Result :=
  .next (s.updDrill f p (fun d =>
    if d.st = .running ∨ d.st = .waiting then { d with haltReq := true } else d))

/-- HALT_REQ_HONOUR (R177, R720). -/
def execHaltReqHonour (f : FieldId) (p : PlotId) (s : State) : Result := s.clocked <|
  let d := (s.plot f p).drill
  if d.haltReq && (d.st = .running || d.st = .waiting) then finish (s.drillHalt f p d.pc d.pc) else .next s

/-- RESUME (R177, R720). -/
def execResume (f : FieldId) (p : PlotId) (s : State) : Result :=
  .next (s.updDrill f p (fun d =>
    if d.st = .halted then { d with st := .running, pc := d.resumePc } else d))

/-- TDLD (R191). -/
def execTdld (f : FieldId) (p : PlotId) (dr : Fin 8) (rs1 : Fin 32) (s : State) : Result :=
  s.drillDo f p (.tdld dr rs1) 4

/-- TDSET (R191). -/
def execTdset (f : FieldId) (p : PlotId) (dr : Fin 8) (rs1 : Fin 32) (w : Fin 16) (s : State) : Result :=
  s.drillDo f p (.tdset dr rs1 w) 4

/-- TDGET (R191). -/
def execTdget (f : FieldId) (p : PlotId) (rd : Fin 32) (dr : Fin 8) (w : Fin 16) (s : State) : Result :=
  s.drillDo f p (.tdget rd dr w) 4

/-- TMM (R194). -/
def execTmm (f : FieldId) (p : PlotId) (rd : Fin 32) (dr : Fin 8) (rs2 : Fin 32) (int : Bool) (s : State) :
    Result := s.drillDo f p (.tmm rd dr rs2 int) 4

/-- TVEC (R194). -/
def execTvec (f : FieldId) (p : PlotId) (rd : Fin 32) (dr : Fin 8) (rs2 : Fin 32) (int : Bool) (s : State) :
    Result := s.drillDo f p (.tvec rd dr rs2 int) 4

/-- TXFER (R219). -/
def execTxfer (f : FieldId) (p : PlotId) (rd rs1 : Fin 32) (s : State) : Result :=
  s.drillDo f p (.txfer rd rs1) 4

/-- TFENCE (R221). -/
def execTfence (f : FieldId) (p : PlotId) (rd : Fin 32) (int : Bool) (s : State) : Result :=
  s.drillDo f p (.tfence rd int) 4

/-- TSCDRAIN (R222). -/
def execTscdrain (f : FieldId) (p : PlotId) (rd : Fin 32) (int : Bool) (s : State) : Result :=
  s.drillDo f p (.tscdrain rd int) 4

/-- TRFENCE (R223). -/
def execTrfence (f : FieldId) (p : PlotId) (rd rs1 : Fin 32) (int : Bool) (s : State) : Result :=
  s.drillDo f p (.trfence rd rs1 int) 4

/-- TWAIT (R202). -/
def execTwait (f : FieldId) (p : PlotId) (rd rs1 : Fin 32) (s : State) : Result :=
  s.drillDo f p (.twait rd rs1) 4

/-- CQ_POP (R200): a load whose address is the high word of PLT_CQ_POP; at any other address the
command is an ordinary load. -/
def execCqPop (f : FieldId) (p : PlotId) (rd rs1 : Fin 32) (imm : Int) (compressed : Bool) (s : State) :
    Result := s.drillDo f p (.load .lw rd rs1 imm) (insLen compressed)

/-- PLT_DOORBELL_SET (R172, R184): discarded where the window holds no register (R692). -/
def execPltDoorbellSet (f : FieldId) (p : PlotId) (v : Nat) (s : State) : Result :=
  .next (if s.vacant f p || !s.partitionUp f then s else s.plotWrite f p false 0x088 4 v)

/-- PLT_DOORBELL_CLEAR (R172, R184). -/
def execPltDoorbellClear (f : FieldId) (p : PlotId) (v : Nat) (s : State) : Result :=
  .next (if s.vacant f p || !s.partitionUp f then s else s.plotWrite f p true 0x080 4 v)

/-- PLT_NOTIFY (R175, R183): the value leaves at once, or waits and may be replaced. -/
def execPltNotify (f : FieldId) (p : PlotId) (v : Nat) (leaves : Bool) (s : State) : Result :=
  if s.vacant f p || !s.partitionUp f then .next s
  else
    let s1 := s.plotWrite f p true 0x078 4 v
    finish (if leaves then s1.notifyLeave f p else s1)

end Sys2Proof.Machine
end

