-- ==== Sys2Proof/Machine/Dispatch.lean ====
section
/-! DEFINITION. The meaning of every command: one arm per constructor of `Instr`, each one call of the
definition that states the meaning of its row of the operation table. -/

namespace Sys2Proof.Machine

open Sys2Proof

/-- The effect of a command on everything but the queue of waiting commands. -/
def exec (i : Instr) (s : State) : Host.Outcome State Fault Refusal :=
  match i with
  | .registerWrite a sp off bytes value => Sys2Proof.Machine.execRegisterWrite a sp off bytes value s
  | .heartbeat => Sys2Proof.Machine.execHeartbeat s
  | .hubLostEntry f => Sys2Proof.Machine.execHubLostEntry f s
  | .d2dModuleLoss k => Sys2Proof.Machine.execD2dModuleLoss k s
  | .rimFatalError f => Sys2Proof.Machine.execRimFatalError f s
  | .tinePassStart f p => Sys2Proof.Machine.execTinePassStart f p s
  | .weightLoad f p => Sys2Proof.Machine.execWeightLoad f p s
  | .tinePassRetire f p => Sys2Proof.Machine.execTinePassRetire f p s
  | .degenerateRetire f p => Sys2Proof.Machine.execDegenerateRetire f p s
  | .ballastRow f p t => Sys2Proof.Machine.execBallastRow f p t s
  | .sampleProcess f p => Sys2Proof.Machine.execSampleProcess f p s
  | .injWitnessLane f plot tine column b lane => Sys2Proof.Machine.execInjWitnessLane f plot tine column b lane s
  | .injWitnessWeight f plot tine column b lane => Sys2Proof.Machine.execInjWitnessWeight f plot tine column b lane s
  | .injScarecrowBias f plot tine column b lane => Sys2Proof.Machine.execInjScarecrowBias f plot tine column b lane s
  | .injBinSingle f plot tine column b lane => Sys2Proof.Machine.execInjBinSingle f plot tine column b lane s
  | .injBinDouble f plot tine column b lane => Sys2Proof.Machine.execInjBinDouble f plot tine column b lane s
  | .injClassReport f plot tine column b lane => Sys2Proof.Machine.execInjClassReport f plot tine column b lane s
  | .drillInstruction f p => Sys2Proof.Machine.execDrillInstruction f p s
  | .drillLoad f p k rd rs1 imm compressed => Sys2Proof.Machine.execDrillLoad f p k rd rs1 imm compressed s
  | .drillStore f p k rs2 rs1 imm compressed => Sys2Proof.Machine.execDrillStore f p k rs2 rs1 imm compressed s
  | .ebreak f p compressed => Sys2Proof.Machine.execEbreak f p compressed s
  | .ecall f p => Sys2Proof.Machine.execEcall f p s
  | .mret f p => Sys2Proof.Machine.execMret f p s
  | .wfi f p => Sys2Proof.Machine.execWfi f p s
  | .wfiWake f p => Sys2Proof.Machine.execWfiWake f p s
  | .fence f p => Sys2Proof.Machine.execFence f p s
  | .fenceI f p => Sys2Proof.Machine.execFenceI f p s
  | .drillInterrupt f p => Sys2Proof.Machine.execDrillInterrupt f p s
  | .drillHoldSet f p => Sys2Proof.Machine.execDrillHoldSet f p s
  | .drillHoldClear f p => Sys2Proof.Machine.execDrillHoldClear f p s
  | .haltReq f p => Sys2Proof.Machine.execHaltReq f p s
  | .haltReqHonour f p => Sys2Proof.Machine.execHaltReqHonour f p s
  | .resume f p => Sys2Proof.Machine.execResume f p s
  | .plotStoreScrub f p => Sys2Proof.Machine.execPlotStoreScrub f p s
  | .plotStoreMeshWrite f p addr data poisoned => Sys2Proof.Machine.execPlotStoreMeshWrite f p addr data poisoned s
  | .xferNop f p => Sys2Proof.Machine.execXferNop f p s
  | .xferGet f p => Sys2Proof.Machine.execXferGet f p s
  | .xferPut f p => Sys2Proof.Machine.execXferPut f p s
  | .xferPutPartial f p => Sys2Proof.Machine.execXferPutPartial f p s
  | .xferPutReduce f p => Sys2Proof.Machine.execXferPutReduce f p s
  | .xferMcastPut f p => Sys2Proof.Machine.execXferMcastPut f p s
  | .xferFetchAdd f p => Sys2Proof.Machine.execXferFetchAdd f p s
  | .xferCompareSwap f p => Sys2Proof.Machine.execXferCompareSwap f p s
  | .xferLineIssue f p => Sys2Proof.Machine.execXferLineIssue f p s
  | .xferLineDone f p qsn line => Sys2Proof.Machine.execXferLineDone f p qsn line s
  | .xferDescriptorComplete f p qsn => Sys2Proof.Machine.execXferDescriptorComplete f p qsn s
  | .pltDoorbellSet f p v => Sys2Proof.Machine.execPltDoorbellSet f p v s
  | .pltDoorbellClear f p v => Sys2Proof.Machine.execPltDoorbellClear f p v s
  | .fldDoorbellRing f v target scope => Sys2Proof.Machine.execFldDoorbellRing f v target scope s
  | .pltNotify f p v leaves => Sys2Proof.Machine.execPltNotify f p v leaves s
  | .mailboxSend ep => Sys2Proof.Machine.execMailboxSend ep s
  | .mailboxDeliver ep => Sys2Proof.Machine.execMailboxDeliver ep s
  | .mailboxInAck ep code => Sys2Proof.Machine.execMailboxInAck ep code s
  | .tdld f p dr rs1 => Sys2Proof.Machine.execTdld f p dr rs1 s
  | .tdset f p dr rs1 w => Sys2Proof.Machine.execTdset f p dr rs1 w s
  | .tdget f p rd dr w => Sys2Proof.Machine.execTdget f p rd dr w s
  | .tmm f p rd dr rs2 int => Sys2Proof.Machine.execTmm f p rd dr rs2 int s
  | .tvec f p rd dr rs2 int => Sys2Proof.Machine.execTvec f p rd dr rs2 int s
  | .txfer f p rd rs1 => Sys2Proof.Machine.execTxfer f p rd rs1 s
  | .tfence f p rd int => Sys2Proof.Machine.execTfence f p rd int s
  | .tfenceStart f p => Sys2Proof.Machine.execTfenceStart f p s
  | .tscdrain f p rd int => Sys2Proof.Machine.execTscdrain f p rd int s
  | .tscdrainStart f p => Sys2Proof.Machine.execTscdrainStart f p s
  | .tscdrainComplete f p => Sys2Proof.Machine.execTscdrainComplete f p s
  | .trfence f p rd rs1 int => Sys2Proof.Machine.execTrfence f p rd rs1 int s
  | .trfenceStart f p => Sys2Proof.Machine.execTrfenceStart f p s
  | .trfenceComplete f p => Sys2Proof.Machine.execTrfenceComplete f p s
  | .twait f p rd rs1 => Sys2Proof.Machine.execTwait f p rd rs1 s
  | .twaitEnd f p => Sys2Proof.Machine.execTwaitEnd f p s
  | .tvecNop f p => Sys2Proof.Machine.execTvecNop f p s
  | .tvecAdd f p => Sys2Proof.Machine.execTvecAdd f p s
  | .tvecSub f p => Sys2Proof.Machine.execTvecSub f p s
  | .tvecMul f p => Sys2Proof.Machine.execTvecMul f p s
  | .tvecFma f p => Sys2Proof.Machine.execTvecFma f p s
  | .tvecMin f p => Sys2Proof.Machine.execTvecMin f p s
  | .tvecMax f p => Sys2Proof.Machine.execTvecMax f p s
  | .tvecAbs f p => Sys2Proof.Machine.execTvecAbs f p s
  | .tvecNeg f p => Sys2Proof.Machine.execTvecNeg f p s
  | .tvecCmp f p => Sys2Proof.Machine.execTvecCmp f p s
  | .tvecSelect f p => Sys2Proof.Machine.execTvecSelect f p s
  | .tvecExp2 f p => Sys2Proof.Machine.execTvecExp2 f p s
  | .tvecLog2 f p => Sys2Proof.Machine.execTvecLog2 f p s
  | .tvecRecip f p => Sys2Proof.Machine.execTvecRecip f p s
  | .tvecRsqrt f p => Sys2Proof.Machine.execTvecRsqrt f p s
  | .tvecIadd f p => Sys2Proof.Machine.execTvecIadd f p s
  | .tvecIsub f p => Sys2Proof.Machine.execTvecIsub f p s
  | .tvecImin f p => Sys2Proof.Machine.execTvecImin f p s
  | .tvecImax f p => Sys2Proof.Machine.execTvecImax f p s
  | .tvecAnd f p => Sys2Proof.Machine.execTvecAnd f p s
  | .tvecOr f p => Sys2Proof.Machine.execTvecOr f p s
  | .tvecXor f p => Sys2Proof.Machine.execTvecXor f p s
  | .tvecSll f p => Sys2Proof.Machine.execTvecSll f p s
  | .tvecSra f p => Sys2Proof.Machine.execTvecSra f p s
  | .tvecSrl f p => Sys2Proof.Machine.execTvecSrl f p s
  | .tvecIcmp f p => Sys2Proof.Machine.execTvecIcmp f p s
  | .tvecCvt f p => Sys2Proof.Machine.execTvecCvt f p s
  | .tvecBenc f p => Sys2Proof.Machine.execTvecBenc f p s
  | .tvecBscale f p => Sys2Proof.Machine.execTvecBscale f p s
  | .tvecBdec f p => Sys2Proof.Machine.execTvecBdec f p s
  | .tvecAmax f p => Sys2Proof.Machine.execTvecAmax f p s
  | .tvecSum f p => Sys2Proof.Machine.execTvecSum f p s
  | .tvecComplete f p => Sys2Proof.Machine.execTvecComplete f p s
  | .cqPop f p rd rs1 imm compressed => Sys2Proof.Machine.execCqPop f p rd rs1 imm compressed s
  | .hbmRead f half src => Sys2Proof.Machine.execHbmRead f half src s
  | .hbmWrite f addr data poisoned src => Sys2Proof.Machine.execHbmWrite f addr data poisoned src s
  | .hbmStackLost f stack => Sys2Proof.Machine.execHbmStackLost f stack s
  | .ecsRead f count0 count1 => Sys2Proof.Machine.execEcsRead f count0 count1 s
  | .hbmPatrolScrub f pc => Sys2Proof.Machine.execHbmPatrolScrub f pc s
  | .mirrorWriteRelease f => Sys2Proof.Machine.execMirrorWriteRelease f s
  | .plotFallowSet f phys => Sys2Proof.Machine.execPlotFallowSet f phys s
  | .meshMulticast f isRow index mask load => Sys2Proof.Machine.execMeshMulticast f isRow index mask load s
  | .meshMulticastComplete f => Sys2Proof.Machine.execMeshMulticastComplete f s
  | .calSlotStart port => Sys2Proof.Machine.execCalSlotStart port s
  | .calSlotEnd port rx => Sys2Proof.Machine.execCalSlotEnd port rx s
  | .calLockTimeout port rx => Sys2Proof.Machine.execCalLockTimeout port rx s
  | .wavelengthFail port rx w reason => Sys2Proof.Machine.execWavelengthFail port rx w reason s
  | .laneRetry port w => Sys2Proof.Machine.execLaneRetry port w s
  | .laneRetryEnd port rx w pass => Sys2Proof.Machine.execLaneRetryEnd port rx w pass s
  | .rxPowerMeasure f n powers => Sys2Proof.Machine.execRxPowerMeasure f n powers s
  | .marginEval inletA inletB => Sys2Proof.Machine.execMarginEval inletA inletB s
  | .switchoverRunStart atMark => Sys2Proof.Machine.execSwitchoverRunStart atMark s
  | .engineSwitchover => Sys2Proof.Machine.execEngineSwitchover s
  | .engineSwitchoverEnd micros lost => Sys2Proof.Machine.execEngineSwitchoverEnd micros lost s
  | .engineSwitchReq f e target => Sys2Proof.Machine.execEngineSwitchReq f e target s
  | .engineSwitchNow f e target => Sys2Proof.Machine.execEngineSwitchNow f e target s
  | .modulePoll m answer => Sys2Proof.Machine.execModulePoll m answer s
  | .moduleIbi m faults => Sys2Proof.Machine.execModuleIbi m faults s
  | .laserEnDeassert => Sys2Proof.Machine.execLaserEnDeassert s
  | .relight env => Sys2Proof.Machine.execRelight env s
  | .inletLost engine m => Sys2Proof.Machine.execInletLost engine m s
  | .aprEnter port => Sys2Proof.Machine.execAprEnter port s
  | .aprExit port => Sys2Proof.Machine.execAprExit port s
  | .txModeReq f n mode => Sys2Proof.Machine.execTxModeReq f n mode s
  | .wavelengthLock f n w => Sys2Proof.Machine.execWavelengthLock f n w s
  | .wavelengthLockLoss f n w => Sys2Proof.Machine.execWavelengthLockLoss f n w s
  | .mapChange f n slot wave => Sys2Proof.Machine.execMapChange f n slot wave s
  | .modeChange f n mode => Sys2Proof.Machine.execModeChange f n mode s
  | .cal f n w ends => Sys2Proof.Machine.execCal f n w ends s
  | .calDone f n w confirmed => Sys2Proof.Machine.execCalDone f n w confirmed s
  | .laneFailed f n w reason => Sys2Proof.Machine.execLaneFailed f n w reason s
  | .lightPause f n begins => Sys2Proof.Machine.execLightPause f n begins s
  | .powerReport f n part powers => Sys2Proof.Machine.execPowerReport f n part powers s
  | .beacon f n part arg => Sys2Proof.Machine.execBeacon f n part arg s
  | .train f n farState ready lastSeq => Sys2Proof.Machine.execTrain f n farState ready lastSeq s
  | .qualResult f n mask => Sys2Proof.Machine.execQualResult f n mask s
  | .retrain f n => Sys2Proof.Machine.execRetrain f n s
  | .switchGroup f rx => Sys2Proof.Machine.execSwitchGroup f rx s
  | .switchTimeout f n => Sys2Proof.Machine.execSwitchTimeout f n s
  | .modeChangeResume f n flits => Sys2Proof.Machine.execModeChangeResume f n flits s
  | .lightPauseTimeout f n => Sys2Proof.Machine.execLightPauseTimeout f n s
  | .dataFlit f n ty flit => Sys2Proof.Machine.execDataFlit f n ty flit s
  | .idleFlit f n flit => Sys2Proof.Machine.execIdleFlit f n flit s
  | .nakFlit f n flit => Sys2Proof.Machine.execNakFlit f n flit s
  | .flitSlot f link => Sys2Proof.Machine.execFlitSlot f link s
  | .replayTimeout f n seq => Sys2Proof.Machine.execReplayTimeout f n seq s
  | .lockTimeout f n => Sys2Proof.Machine.execLockTimeout f n s
  | .qualifyEnd f n w lineBits corrected uncorrectable => Sys2Proof.Machine.execQualifyEnd f n w lineBits corrected uncorrectable s
  | .rxSilentTimeout f n => Sys2Proof.Machine.execRxSilentTimeout f n s
  | .retrainTimeout f n => Sys2Proof.Machine.execRetrainTimeout f n s
  | .linkEnableClear f n => Sys2Proof.Machine.execLinkEnableClear f n s
  | .linkRetry f n => Sys2Proof.Machine.execLinkRetry f n s
  | .beaconSend f n => Sys2Proof.Machine.execBeaconSend f n s
  | .laneControlRepeat f n => Sys2Proof.Machine.execLaneControlRepeat f n s
  | .missingTimeout f n => Sys2Proof.Machine.execMissingTimeout f n s
  | .discApprove f mask => Sys2Proof.Machine.execDiscApprove f mask s
  | .discApprovalWithdraw f n => Sys2Proof.Machine.execDiscApprovalWithdraw f n s
  | .routePacket f link vc stage => Sys2Proof.Machine.execRoutePacket f link vc stage s
  | .mcastCopy f => Sys2Proof.Machine.execMcastCopy f s
  | .sealTables f => Sys2Proof.Machine.execSeal f s
  | .congSample f => Sys2Proof.Machine.execCongSample f s
  | .congWindowEnd f => Sys2Proof.Machine.execCongWindowEnd f s
  | .fldAllotWrite f id => Sys2Proof.Machine.execFldAllotWrite f id s
  | .gatewayLineAccept f p => Sys2Proof.Machine.execGatewayLineAccept f p s
  | .orderedLineSend f req => Sys2Proof.Machine.execOrderedLineSend f req s
  | .get f pkt => Sys2Proof.Machine.execGet f pkt s
  | .put f pkt => Sys2Proof.Machine.execPut f pkt s
  | .putPartial f pkt => Sys2Proof.Machine.execPutPartial f pkt s
  | .putReduce f pkt => Sys2Proof.Machine.execPutReduce f pkt s
  | .putReduceComb f pkt => Sys2Proof.Machine.execPutReduceComb f pkt s
  | .mcastPut f pkt => Sys2Proof.Machine.execMcastPut f pkt s
  | .fetchAdd f pkt => Sys2Proof.Machine.execFetchAdd f pkt s
  | .compareSwap f pkt => Sys2Proof.Machine.execCompareSwap f pkt s
  | .flushReq f pkt => Sys2Proof.Machine.execFlushReq f pkt s
  | .getResp f pkt => Sys2Proof.Machine.execGetResp f pkt s
  | .ack f pkt => Sys2Proof.Machine.execAck f pkt s
  | .defer f pkt => Sys2Proof.Machine.execDefer f pkt s
  | .atomicResp f pkt => Sys2Proof.Machine.execAtomicResp f pkt s
  | .mcAck f pkt => Sys2Proof.Machine.execMcAck f pkt s
  | .flushAck f pkt => Sys2Proof.Machine.execFlushAck f pkt s
  | .ackSend f src => Sys2Proof.Machine.execAckSend f src s
  | .deferResend f req => Sys2Proof.Machine.execDeferResend f req s
  | .ageTokenTimeout f src => Sys2Proof.Machine.execAgeTokenTimeout f src s
  | .retxTimeout f req member => Sys2Proof.Machine.execRetxTimeout f req member s
  | .allotHalt f id => Sys2Proof.Machine.execAllotHalt f id s
  | .absorberWriteback f line => Sys2Proof.Machine.execAbsorberWriteback f line s
  | .atomicCacheExpiry f src txn => Sys2Proof.Machine.execAtomicCacheExpiry f src txn s
  | .gwyRedRelease f id => Sys2Proof.Machine.execGwyRedRelease f id s
  | .combSlotSend f slot aged => Sys2Proof.Machine.execCombSlotSend f slot aged s
  | .putReduceResume f => Sys2Proof.Machine.execPutReduceResume f s
  | .register f slot addr => Sys2Proof.Machine.execRegister f slot addr s
  | .registrationComplete f slot => Sys2Proof.Machine.execRegistrationComplete f slot s
  | .reform f slot addr => Sys2Proof.Machine.execReform f slot addr s
  | .release f slot => Sys2Proof.Machine.execRelease f slot s
  | .tailWrite f slot => Sys2Proof.Machine.execTailWrite f slot s
  | .collectiveStart f slot => Sys2Proof.Machine.execCollectiveStart f slot s
  | .readyLineWrite f slot => Sys2Proof.Machine.execReadyLineWrite f slot s
  | .digest f pkt => Sys2Proof.Machine.execDigest f pkt s
  | .piece f pkt => Sys2Proof.Machine.execPiece f pkt s
  | .pieceSend f slot stage dst => Sys2Proof.Machine.execPieceSend f slot stage dst s
  | .chunkFold f slot stage chunk => Sys2Proof.Machine.execChunkFold f slot stage chunk s
  | .gather f pkt => Sys2Proof.Machine.execGather f pkt s
  | .receipt f pkt => Sys2Proof.Machine.execReceipt f pkt s
  | .credit f pkt => Sys2Proof.Machine.execCredit f pkt s
  | .abort f pkt => Sys2Proof.Machine.execAbort f pkt s
  | .partResend f slot k => Sys2Proof.Machine.execPartResend f slot k s
  | .stageTimeout f slot => Sys2Proof.Machine.execStageTimeout f slot s
  | .healthWindowClose => Sys2Proof.Machine.execHealthWindowClose s
  | .hardEvent f => Sys2Proof.Machine.execHardEvent f s
  | .expelClear f => Sys2Proof.Machine.execExpelClear f s
  | .granuleTake f granule => Sys2Proof.Machine.execGranuleTake f granule s
  | .mirMarkSend f => Sys2Proof.Machine.execMirMarkSend f s
  | .mirMark f pkt => Sys2Proof.Machine.execMirMark f pkt s
  | .mirLayout f pkt => Sys2Proof.Machine.execMirLayout f pkt s
  | .mirPull f pkt => Sys2Proof.Machine.execMirPull f pkt s
  | .mirPush f n => Sys2Proof.Machine.execMirPush f n s
  | .mirDone f pkt => Sys2Proof.Machine.execMirDone f pkt s
  | .mirPartnerTimeout f n => Sys2Proof.Machine.execMirPartnerTimeout f n s
  | .mirLayoutRetry f n => Sys2Proof.Machine.execMirLayoutRetry f n s
  | .mirLoadStart f => Sys2Proof.Machine.execMirLoadStart f s
  | .mirLoadAbort f => Sys2Proof.Machine.execMirLoadAbort f s
  | .mirLoadTimeout f => Sys2Proof.Machine.execMirLoadTimeout f s
  | .injReq => Sys2Proof.Machine.execInjReq s
  | .injValue value => Sys2Proof.Machine.execInjValue value s
  | .injLock => Sys2Proof.Machine.execInjLock s
  | .injWindowExpiry => Sys2Proof.Machine.execInjWindowExpiry s
  | .injHoldoffEnd => Sys2Proof.Machine.execInjHoldoffEnd s
  | .tallyBeaconSend f link => Sys2Proof.Machine.execTallyBeaconSend f link s
  | .tallyBeacon f link pkt => Sys2Proof.Machine.execTallyBeacon f link pkt s
  | .hubTallyBeacon => Sys2Proof.Machine.execHubTallyBeacon s
  | .rootLost f => Sys2Proof.Machine.execRootLost f s
  | .rootInitial f => Sys2Proof.Machine.execRootInitial f s
  | .rootTakeover f => Sys2Proof.Machine.execRootTakeover f s
  | .tallyLockTimeout f => Sys2Proof.Machine.execTallyLockTimeout f s
  | .markArm f w => Sys2Proof.Machine.execMarkArm f w s
  | .boundaryMark f => Sys2Proof.Machine.execBoundaryMark f s
  | .houseMark f => Sys2Proof.Machine.execHouseMark f s
  | .driftReportWrite f => Sys2Proof.Machine.execDriftReportWrite f s
  | .stepTimingReportWrite f => Sys2Proof.Machine.execStepTimingReportWrite f s
  | .redEntryRelease f => Sys2Proof.Machine.execRedEntryRelease f s
  | .markDone f => Sys2Proof.Machine.execMarkDone f s
  | .tallyMarkPulse => Sys2Proof.Machine.execTallyMarkPulse s
  | .calendarComp temp => Sys2Proof.Machine.execCalendarComp temp s
  | .calApply => Sys2Proof.Machine.execCalApply s
  | .vbatLow => Sys2Proof.Machine.execVbatLow s
  | .coldReset powerOn straps vbat => Sys2Proof.Machine.execColdReset powerOn straps vbat s
  | .warmReset i3c => Sys2Proof.Machine.execWarmReset i3c s
  | .partitionReset f => Sys2Proof.Machine.execPartitionReset f s
  | .partitionResetDone f march => Sys2Proof.Machine.execPartitionResetDone f march s
  | .stagePower env => Sys2Proof.Machine.execStagePower env s
  | .stageSeed env flash => Sys2Proof.Machine.execStageSeed env flash s
  | .stageFieldPower pgood rimOk modules => Sys2Proof.Machine.execStageFieldPower pgood rimOk modules s
  | .stageMemory trained march carry repairs => Sys2Proof.Machine.execStageMemory trained march carry repairs s
  | .stageLight env => Sys2Proof.Machine.execStageLight env s
  | .stageLinks => Sys2Proof.Machine.execStageLinks s
  | .stageKnownAnswer plots rims => Sys2Proof.Machine.execStageKnownAnswer plots rims s
  | .stageFirmware => Sys2Proof.Machine.execStageFirmware s
  | .stageFabric => Sys2Proof.Machine.execStageFabric s
  | .stageReady => Sys2Proof.Machine.execStageReady s
  | .stageEnd => Sys2Proof.Machine.execStageEnd s
  | .stageGo stage => Sys2Proof.Machine.execStageGo stage s
  | .stageSkip stage => Sys2Proof.Machine.execStageSkip stage s
  | .hostImage => Sys2Proof.Machine.execHostImage s
  | .imagesReady => Sys2Proof.Machine.execImagesReady s
  | .hostLightRetry env => Sys2Proof.Machine.execHostLightRetry env s
  | .pgoodTimeout f => Sys2Proof.Machine.execPgoodTimeout f s
  | .linksStageTimeout => Sys2Proof.Machine.execLinksStageTimeout s
  | .fabricStageTimeout => Sys2Proof.Machine.execFabricStageTimeout s
  | .bootFetch f p => Sys2Proof.Machine.execBootFetch f p s
  | .sowingRow f timeout => Sys2Proof.Machine.execSowingRow f timeout s
  | .jtagResponse sigR sigS => Sys2Proof.Machine.execJtagResponse sigR sigS s
  | .jtagHoldoffEnd => Sys2Proof.Machine.execJtagHoldoffEnd s
  | .memoryRead fn bar2 addr len => Sys2Proof.Machine.execMemoryRead fn bar2 addr len s
  | .memoryWrite fn bar2 addr data be ep => Sys2Proof.Machine.execMemoryWrite fn bar2 addr data be ep s
  | .functionLevelReset fn => Sys2Proof.Machine.execFunctionLevelReset fn s
  | .powerStateChange fn d3 => Sys2Proof.Machine.execPowerStateChange fn d3 s
  | .hostLinkRecovery => Sys2Proof.Machine.execHostLinkRecovery s
  | .hostRetrain => Sys2Proof.Machine.execHostRetrain s
  | .msixMessage fn cls cfg => Sys2Proof.Machine.execMsixMessage fn cls cfg s
  | .evtConsWrite sp v => Sys2Proof.Machine.execEvtConsWrite sp v s
  | .evtRingConfig sp enable sizeLog base => Sys2Proof.Machine.execEvtRingConfig sp enable sizeLog base s
  | .mgmtRead node off words => Sys2Proof.Machine.execMgmtRead node off words s
  | .mgmtReadServe f arrive => Sys2Proof.Machine.execMgmtReadServe f arrive s
  | .mgmtReply pkt => Sys2Proof.Machine.execMgmtReply pkt s
  | .mgmtTimeoutExpiry => Sys2Proof.Machine.execMgmtTimeoutExpiry s
  | .eventForward f => Sys2Proof.Machine.execEventForward f s
  | .forwardedEvent f pkt => Sys2Proof.Machine.execForwardedEvent f pkt s
  | .fwdDiscardTimeout f => Sys2Proof.Machine.execFwdDiscardTimeout f s
  | .powerModeRequest mode atMark limit => Sys2Proof.Machine.execPowerModeRequest mode atMark limit s
  | .powerModeChange => Sys2Proof.Machine.execPowerModeChange s
  | .powerModeChangeComplete => Sys2Proof.Machine.execPowerModeChangeComplete s
  | .governorPeriod p pb wantUp => Sys2Proof.Machine.execGovernorPeriod p pb wantUp s
  | .rampRelease => Sys2Proof.Machine.execRampRelease s
  | .startTokenGrant f => Sys2Proof.Machine.execStartTokenGrant f s
  | .pwrWarnAssert => Sys2Proof.Machine.execPwrWarnAssert s
  | .holdEnd => Sys2Proof.Machine.execHoldEnd s
  | .pgoodFall rail => Sys2Proof.Machine.execPgoodFall rail s
  | .pgoodOptTimeout => Sys2Proof.Machine.execPgoodOptTimeout s
  | .sensorSample f readings => Sys2Proof.Machine.execSensorSample f readings s
  | .pinSample readings => Sys2Proof.Machine.execPinSample readings s
  | .pinCritClear n => Sys2Proof.Machine.execPinCritClear n s
  | .dropRecover f => Sys2Proof.Machine.execDropRecover f s
  | .tdutyStep f => Sys2Proof.Machine.execTdutyStep f s
  | .injHbmSymbol f target arg => Sys2Proof.Machine.execInjHbmSymbol f target arg s
  | .injHbmDouble f target arg => Sys2Proof.Machine.execInjHbmDouble f target arg s
  | .injStackLost f target arg => Sys2Proof.Machine.execInjStackLost f target arg s
  | .injStoreSingle f target arg => Sys2Proof.Machine.execInjStoreSingle f target arg s
  | .injStoreDouble f target arg => Sys2Proof.Machine.execInjStoreDouble f target arg s
  | .injFecSymbols f target arg => Sys2Proof.Machine.execInjFecSymbols f target arg s
  | .injFlitCrc f target arg => Sys2Proof.Machine.execInjFlitCrc f target arg s
  | .injLaneFail f target arg => Sys2Proof.Machine.execInjLaneFail f target arg s
  | .injRingUnlock f target arg => Sys2Proof.Machine.execInjRingUnlock f target arg s
  | .injRxPower f target arg => Sys2Proof.Machine.execInjRxPower f target arg s
  | .injBeaconId f target arg => Sys2Proof.Machine.execInjBeaconId f target arg s
  | .injRetrain f target arg => Sys2Proof.Machine.execInjRetrain f target arg s
  | .injNoAck f target arg => Sys2Proof.Machine.execInjNoAck f target arg s
  | .injReqDrop f target arg => Sys2Proof.Machine.execInjReqDrop f target arg s
  | .injDefer f target arg => Sys2Proof.Machine.execInjDefer f target arg s
  | .injRedFull f target arg => Sys2Proof.Machine.execInjRedFull f target arg s
  | .injCombRefuse f target arg => Sys2Proof.Machine.execInjCombRefuse f target arg s
  | .injDigest f target arg => Sys2Proof.Machine.execInjDigest f target arg s
  | .injSilent f target arg => Sys2Proof.Machine.execInjSilent f target arg s
  | .injPieceDrop f target arg => Sys2Proof.Machine.execInjPieceDrop f target arg s
  | .injDoneDigest f target arg => Sys2Proof.Machine.execInjDoneDigest f target arg s
  | .injPushStall f target arg => Sys2Proof.Machine.execInjPushStall f target arg s
  | .injBufFull f target arg => Sys2Proof.Machine.execInjBufFull f target arg s
  | .injSkip f target arg => Sys2Proof.Machine.execInjSkip f target arg s
  | .injOffset f target arg => Sys2Proof.Machine.execInjOffset f target arg s
  | .injBeatStop f target arg => Sys2Proof.Machine.execInjBeatStop f target arg s
  | .injBeaconMute f target arg => Sys2Proof.Machine.execInjBeaconMute f target arg s
  | .injSensorOffset f target arg => Sys2Proof.Machine.execInjSensorOffset f target arg s
  | .injSensorRamp f target arg => Sys2Proof.Machine.execInjSensorRamp f target arg s
  | .injSensorBroken f target arg => Sys2Proof.Machine.execInjSensorBroken f target arg s
  | .injPwrWarn target arg => Sys2Proof.Machine.execInjPwrWarn target arg s
  | .injPinReading target arg => Sys2Proof.Machine.execInjPinReading target arg s
  | .injPinBroken target arg => Sys2Proof.Machine.execInjPinBroken target arg s
  | .injHeartbeatStop target arg => Sys2Proof.Machine.execInjHeartbeatStop target arg s
  | .injHostLaneFail target arg => Sys2Proof.Machine.execInjHostLaneFail target arg s
  | .injModuleFault target arg => Sys2Proof.Machine.execInjModuleFault target arg s
  | .injMargin target arg => Sys2Proof.Machine.execInjMargin target arg s
  | .injInletDrop target arg => Sys2Proof.Machine.execInjInletDrop target arg s
  | .injEffectEnd f r => Sys2Proof.Machine.execInjEffectEnd f r s
  | .droopDetectorTrip f p cycles => Sys2Proof.Machine.execDroopDetectorTrip f p cycles s
  | .pwrWarnDeassert => Sys2Proof.Machine.execPwrWarnDeassert s
  | .parentLoss f => Sys2Proof.Machine.execParentLoss f s
  | .headerMapDesync f n => Sys2Proof.Machine.execHeaderMapDesync f n s
  | .aspmL1Entry => Sys2Proof.Machine.execAspmL1Entry s
  | .hostLinkTrained ok => Sys2Proof.Machine.execHostLinkTrained ok s
  | .plotDormant f p => Sys2Proof.Machine.execPlotDormant f p s

end Sys2Proof.Machine
end

