-- ==== Sys2Proof/WellFormed.lean ====
section
/-! DEFINITION. Which commands are well formed: every operand lies in the range that the table's row and the rules give it.
The commands' meanings are total over every operand; what a meaning does with an ill-formed one says nothing about the
hardware. -/

namespace Sys2Proof

/-- The value is of at most w bits. -/
def fits (w n : Nat) : Bool := decide (n < 2 ^ w)

/-- The value is less than the limit. -/
def below (n limit : Nat) : Bool := decide (n < limit)

/-- The value is a two's complement number of w bits. -/
def signed (w : Nat) (x : Int) : Bool := decide (-(2 ^ (w - 1) : Int) ≤ x) && decide (x < (2 ^ (w - 1) : Int))

/-- A 12-bit signed immediate, as the loads and stores of RV32I have (R148). -/
def imm12 (x : Int) : Bool := signed 12 x

/-- A list of k values of w bits. -/
def sized (k w : Nat) (xs : List Nat) : Bool := decide (xs.length = k) && xs.all (fits w)

/-- A list of k signed values of w bits. -/
def signedList (k w : Nat) (xs : List Int) : Bool := decide (xs.length = k) && xs.all (signed w)

/-- A register access of 4 or 8 bytes, aligned to its length (R15). -/
def accessShape (off bytes : Nat) : Bool := (decide (bytes = 4) || decide (bytes = 8)) && decide (off % bytes = 0)

/-- The offset lies in its register space: 16 MiB of the hub, 256 MiB of a field (R687). -/
def inSpace (sp : Space) (off : Nat) : Bool :=
  match sp with
  | .hub => below off 0x1000000
  | .field _ => below off 0x10000000

/-- At least one byte, none past the end of the aligned block of b bytes that holds the address. -/
def chunk (b addr : Nat) (data : List Byte) : Bool := decide (1 ≤ data.length) && decide (addr % b + data.length ≤ b)

/-- A TLP's bytes do not cross a 4-KiB boundary (R606: Memory Requests of PCI Express). -/
def pageOk (addr len : Nat) : Bool := decide (addr % 4096 + len ≤ 4096)

/-- A multicast's load: 32 doorbell bits (R185), or a block of one of the four images (R573). -/
def McastLoad.wf : McastLoad → Bool
  | .doorbell v => fits 32 v
  | .sowing i k => below i 4 && fits 32 k

/-- A flash of at most 4 GiB, its programmed areas within it (R560). -/
def Flash.wf (x : Flash) : Bool := below x.density 0x100000001 && x.areas.all (fun a => decide (a.1 + a.2.length ≤ x.density))

/-- The answers of two modules, and the readings of 34 inlets for each module probed. -/
def LightEnv.wf (e : LightEnv) : Bool :=
  decide (e.ident.length = 2) &&
  e.ident.all (fun x => match x with | none => true | some r => fits 8 r) &&
  e.readings.all (fun m => m.all (fun r => r.all (signed 16)))

/-- A mark's time is a 64-bit tally value; PERIOD is of 40 bits (R527). -/
def MarkWrite.wf : MarkWrite → Bool
  | .next v => fits 64 v
  | .ctl _ period => fits 40 period

/-- A diode's reading; channels 8 to 11 are diodes, the others thermistors (R649, R650). -/
def PinReading.isDiode : PinReading → Bool
  | .diode _ => true
  | _ => false
def PinReading.isOhms : PinReading → Bool
  | .ohms _ => true
  | _ => false
def PinReading.wf : PinReading → Bool
  | .fault => true
  | .ohms r => fits 32 r
  | .diode k => fits 16 k

/-- The fields of the route header of R366; 16 to 4,096 bytes with the header. -/
def Packet.wf (p : Packet) : Bool :=
  fits 16 p.dst && fits 16 p.src && fits 12 p.allot && fits 3 p.cls && fits 4 p.stage && fits 6 p.exit &&
  below p.maxis 4 && fits 48 p.key && decide (p.body.length ≤ 4080)

/-- The fields of the link-control word of R325; a payload of 240 bytes (R324). -/
def Flit.wf (x : Flit) : Bool :=
  fits 14 x.seq && fits 14 x.ack && fits 3 x.vc && fits 3 x.crVc && fits 9 x.crCount && fits 8 x.start && fits 8 x.len &&
  decide (x.payload.length = 240) && fits 64 x.crc

/-- Whether every operand of a command lies in the range its row and its rules give it. -/
def Instr.wf : Instr → Bool
  | .registerWrite _ sp off bytes value => accessShape off bytes && fits (8 * bytes) value && inSpace sp off
  | .heartbeat => true
  | .hubLostEntry _ => true
  | .d2dModuleLoss _ => true
  | .rimFatalError _ => true
  | .tinePassStart _ _ => true
  | .weightLoad _ _ => true
  | .tinePassRetire _ _ => true
  | .degenerateRetire _ _ => true
  | .ballastRow _ _ _ => true
  | .sampleProcess _ _ => true
  | .injWitnessLane _ _ _ _ _ _ => true
  | .injWitnessWeight _ _ _ _ _ _ => true
  | .injScarecrowBias _ _ _ _ _ _ => true
  | .injBinSingle _ _ _ _ _ _ => true
  | .injBinDouble _ _ _ _ _ _ => true
  | .injClassReport _ _ _ _ _ _ => true
  | .drillInstruction _ _ => true
  | .drillLoad _ _ _ _ _ imm _ => imm12 imm
  | .drillStore _ _ _ _ _ imm _ => imm12 imm
  | .ebreak _ _ _ => true
  | .ecall _ _ => true
  | .mret _ _ => true
  | .wfi _ _ => true
  | .wfiWake _ _ => true
  | .fence _ _ => true
  | .fenceI _ _ => true
  | .drillInterrupt _ _ => true
  | .drillHoldSet _ _ => true
  | .drillHoldClear _ _ => true
  | .haltReq _ _ => true
  | .haltReqHonour _ _ => true
  | .resume _ _ => true
  | .plotStoreScrub _ _ => true
  | .plotStoreMeshWrite _ _ addr data _ => below addr 0x400000 && chunk 128 addr data
  | .xferNop _ _ => true
  | .xferGet _ _ => true
  | .xferPut _ _ => true
  | .xferPutPartial _ _ => true
  | .xferPutReduce _ _ => true
  | .xferMcastPut _ _ => true
  | .xferFetchAdd _ _ => true
  | .xferCompareSwap _ _ => true
  | .xferLineIssue _ _ => true
  | .xferLineDone _ _ qsn line => fits 16 qsn && fits 32 line
  | .xferDescriptorComplete _ _ qsn => fits 16 qsn
  | .pltDoorbellSet _ _ v => fits 32 v
  | .pltDoorbellClear _ _ v => fits 32 v
  | .fldDoorbellRing _ v _ _ => fits 32 v
  | .pltNotify _ _ v _ => fits 32 v
  | .mailboxSend _ => true
  | .mailboxDeliver _ => true
  | .mailboxInAck _ code => fits 16 code
  | .tdld _ _ _ _ => true
  | .tdset _ _ _ _ _ => true
  | .tdget _ _ _ _ _ => true
  | .tmm _ _ _ _ _ _ => true
  | .tvec _ _ _ _ _ _ => true
  | .txfer _ _ _ _ => true
  | .tfence _ _ _ _ => true
  | .tfenceStart _ _ => true
  | .tscdrain _ _ _ _ => true
  | .tscdrainStart _ _ => true
  | .tscdrainComplete _ _ => true
  | .trfence _ _ _ _ _ => true
  | .trfenceStart _ _ => true
  | .trfenceComplete _ _ => true
  | .twait _ _ _ _ => true
  | .twaitEnd _ _ => true
  | .tvecNop _ _ => true
  | .tvecAdd _ _ => true
  | .tvecSub _ _ => true
  | .tvecMul _ _ => true
  | .tvecFma _ _ => true
  | .tvecMin _ _ => true
  | .tvecMax _ _ => true
  | .tvecAbs _ _ => true
  | .tvecNeg _ _ => true
  | .tvecCmp _ _ => true
  | .tvecSelect _ _ => true
  | .tvecExp2 _ _ => true
  | .tvecLog2 _ _ => true
  | .tvecRecip _ _ => true
  | .tvecRsqrt _ _ => true
  | .tvecIadd _ _ => true
  | .tvecIsub _ _ => true
  | .tvecImin _ _ => true
  | .tvecImax _ _ => true
  | .tvecAnd _ _ => true
  | .tvecOr _ _ => true
  | .tvecXor _ _ => true
  | .tvecSll _ _ => true
  | .tvecSra _ _ => true
  | .tvecSrl _ _ => true
  | .tvecIcmp _ _ => true
  | .tvecCvt _ _ => true
  | .tvecBenc _ _ => true
  | .tvecBscale _ _ => true
  | .tvecBdec _ _ => true
  | .tvecAmax _ _ => true
  | .tvecSum _ _ => true
  | .tvecComplete _ _ => true
  | .cqPop _ _ _ _ imm _ => imm12 imm
  | .hbmRead _ half _ => below half 0xC0000000
  | .hbmWrite _ addr data poisoned _ => below addr 0x3000000000 && chunk (if poisoned then 128 else 64) addr data
  | .hbmStackLost _ _ => true
  | .ecsRead _ count0 count1 => fits 8 count0 && fits 8 count1
  | .hbmPatrolScrub _ _ => true
  | .mirrorWriteRelease _ => true
  | .plotFallowSet _ _ => true
  | .meshMulticast _ _ _ mask load => fits 16 mask && load.wf
  | .meshMulticastComplete _ => true
  | .calSlotStart _ => true
  | .calSlotEnd _ _ => true
  | .calLockTimeout _ _ => true
  | .wavelengthFail _ _ _ _ => true
  | .laneRetry _ _ => true
  | .laneRetryEnd _ _ _ _ => true
  | .rxPowerMeasure _ _ powers => sized 16 8 powers
  | .marginEval inletA inletB => signedList 16 16 inletA && signedList 16 16 inletB
  | .switchoverRunStart _ => true
  | .engineSwitchover => true
  | .engineSwitchoverEnd micros lost => fits 16 micros && lost.all (fun x => below x.1 65 && below x.2 16)
  | .engineSwitchReq _ _ _ => true
  | .engineSwitchNow _ _ _ => true
  | .modulePoll _ answer => answer.1.all (fits 8) && answer.2.all (fits 16)
  | .moduleIbi _ faults => fits 8 faults
  | .laserEnDeassert => true
  | .relight env => env.wf
  | .inletLost _ _ => true
  | .aprEnter _ => true
  | .aprExit _ => true
  | .txModeReq _ _ _ => true
  | .wavelengthLock _ _ _ => true
  | .wavelengthLockLoss _ _ _ => true
  | .mapChange _ _ _ _ => true
  | .modeChange _ _ _ => true
  | .cal _ _ _ _ => true
  | .calDone _ _ _ _ => true
  | .laneFailed _ _ _ _ => true
  | .lightPause _ _ _ => true
  | .powerReport _ _ part powers => sized (if part.val = 2 then 4 else 6) 8 powers
  | .beacon _ _ _ arg => fits 56 arg
  | .train _ _ _ _ lastSeq => fits 14 lastSeq
  | .qualResult _ _ mask => fits 16 mask
  | .retrain _ _ => true
  | .switchGroup _ rx => rx.2.all (fun x => decide (x.1 < 16) && decide (x.2.length = 544) && x.2.all (fits 10))
  | .switchTimeout _ _ => true
  | .modeChangeResume _ _ _ => true
  | .lightPauseTimeout _ _ => true
  | .dataFlit _ _ _ flit => flit.wf
  | .idleFlit _ _ flit => flit.wf
  | .nakFlit _ _ flit => flit.wf
  | .flitSlot _ _ => true
  | .replayTimeout _ _ seq => fits 14 seq
  | .lockTimeout _ _ => true
  | .qualifyEnd _ _ _ _ _ _ => true
  | .rxSilentTimeout _ _ => true
  | .retrainTimeout _ _ => true
  | .linkEnableClear _ _ => true
  | .linkRetry _ _ => true
  | .beaconSend _ _ => true
  | .laneControlRepeat _ _ => true
  | .missingTimeout _ _ => true
  | .discApprove _ mask => fits 16 mask
  | .discApprovalWithdraw _ _ => true
  | .routePacket _ _ _ _ => true
  | .mcastCopy _ => true
  | .sealTables _ => true
  | .congSample _ => true
  | .congWindowEnd _ => true
  | .fldAllotWrite _ id => fits 12 id
  | .gatewayLineAccept _ _ => true
  | .orderedLineSend _ _ => true
  | .get _ pkt => pkt.wf
  | .put _ pkt => pkt.wf
  | .putPartial _ pkt => pkt.wf
  | .putReduce _ pkt => pkt.wf
  | .putReduceComb _ pkt => pkt.wf
  | .mcastPut _ pkt => pkt.wf
  | .fetchAdd _ pkt => pkt.wf
  | .compareSwap _ pkt => pkt.wf
  | .flushReq _ pkt => pkt.wf
  | .getResp _ pkt => pkt.wf
  | .ack _ pkt => pkt.wf
  | .defer _ pkt => pkt.wf
  | .atomicResp _ pkt => pkt.wf
  | .mcAck _ pkt => pkt.wf
  | .flushAck _ pkt => pkt.wf
  | .ackSend _ src => fits 13 src
  | .deferResend _ _ => true
  | .ageTokenTimeout _ src => fits 13 src
  | .retxTimeout _ _ member => below member 16
  | .allotHalt _ id => fits 12 id
  | .absorberWriteback _ line => below line 0x60000000
  | .atomicCacheExpiry _ src txn => fits 13 src && fits 32 txn
  | .gwyRedRelease _ id => fits 12 id
  | .combSlotSend _ slot _ => below slot 256
  | .putReduceResume _ => true
  | .register _ _ addr => fits 48 addr
  | .registrationComplete _ _ => true
  | .reform _ _ addr => fits 48 addr
  | .release _ _ => true
  | .tailWrite _ _ => true
  | .collectiveStart _ _ => true
  | .readyLineWrite _ _ => true
  | .digest _ pkt => pkt.wf
  | .piece _ pkt => pkt.wf
  | .pieceSend _ _ _ dst => fits 13 dst
  | .chunkFold _ _ _ chunk => fits 32 chunk
  | .gather _ pkt => pkt.wf
  | .receipt _ pkt => pkt.wf
  | .credit _ pkt => pkt.wf
  | .abort _ pkt => pkt.wf
  | .partResend _ _ _ => true
  | .stageTimeout _ _ => true
  | .healthWindowClose => true
  | .hardEvent _ => true
  | .expelClear _ => true
  | .granuleTake _ granule => below granule 0x300000
  | .mirMarkSend _ => true
  | .mirMark _ pkt => pkt.wf
  | .mirLayout _ pkt => pkt.wf
  | .mirPull _ pkt => pkt.wf
  | .mirPush _ _ => true
  | .mirDone _ pkt => pkt.wf
  | .mirPartnerTimeout _ _ => true
  | .mirLayoutRetry _ _ => true
  | .mirLoadStart _ => true
  | .mirLoadAbort _ => true
  | .mirLoadTimeout _ => true
  | .injReq => true
  | .injValue value => fits 64 value
  | .injLock => true
  | .injWindowExpiry => true
  | .injHoldoffEnd => true
  | .tallyBeaconSend _ _ => true
  | .tallyBeacon _ _ pkt => pkt.wf
  | .hubTallyBeacon => true
  | .rootLost _ => true
  | .rootInitial _ => true
  | .rootTakeover _ => true
  | .tallyLockTimeout _ => true
  | .markArm _ w => w.wf
  | .boundaryMark _ => true
  | .houseMark _ => true
  | .driftReportWrite _ => true
  | .stepTimingReportWrite _ => true
  | .redEntryRelease _ => true
  | .markDone _ => true
  | .tallyMarkPulse => true
  | .calendarComp temp => match temp with | none => true | some x => signed 8 x
  | .calApply => true
  | .vbatLow => true
  | .coldReset _ _ _ => true
  | .warmReset _ => true
  | .partitionReset _ => true
  | .partitionResetDone _ march => fits 272 march
  | .stagePower env => env.wf
  | .stageSeed env flash => env.wf && flash.all Flash.wf
  | .stageFieldPower _ _ modules => sized 4 5 modules
  | .stageMemory _ march carry repairs => sized 4 272 march && carry.all Flash.wf && repairs.all (fun x => below x 4)
  | .stageLight env => env.wf
  | .stageLinks => true
  | .stageKnownAnswer plots _ => sized 4 272 plots
  | .stageFirmware => true
  | .stageFabric => true
  | .stageReady => true
  | .stageEnd => true
  | .stageGo _ => true
  | .stageSkip _ => true
  | .hostImage => true
  | .imagesReady => true
  | .hostLightRetry env => env.wf
  | .pgoodTimeout _ => true
  | .linksStageTimeout => true
  | .fabricStageTimeout => true
  | .bootFetch _ _ => true
  | .sowingRow _ _ => true
  | .jtagResponse sigR sigS => fits 384 sigR && fits 384 sigS
  | .jtagHoldoffEnd => true
  | .memoryRead _ _ addr len => fits 64 addr && decide (1 ≤ len) && below len 4097 && pageOk addr len
  | .memoryWrite _ _ addr data be _ => fits 64 addr && decide (1 ≤ data.length) && below data.length 513 && fits data.length be && pageOk addr data.length
  | .functionLevelReset _ => true
  | .powerStateChange _ _ => true
  | .hostLinkRecovery => true
  | .hostRetrain => true
  | .msixMessage _ _ cfg => match cfg with | none => true | some c => fits 12 c.vecMask
  | .evtConsWrite _ v => fits 16 v
  | .evtRingConfig _ _ sizeLog base => fits 4 sizeLog && fits 36 base
  | .mgmtRead node off words => fits 16 node && fits 28 off && fits 5 words
  | .mgmtReadServe _ arrive => match arrive with | none => true | some p => p.wf
  | .mgmtReply pkt => pkt.wf
  | .mgmtTimeoutExpiry => true
  | .eventForward _ => true
  | .forwardedEvent _ pkt => pkt.wf
  | .fwdDiscardTimeout _ => true
  | .powerModeRequest _ _ limit => fits 16 limit
  | .powerModeChange => true
  | .powerModeChangeComplete => true
  | .governorPeriod p pb _ => fits 16 p && fits 16 pb
  | .rampRelease => true
  | .startTokenGrant _ => true
  | .pwrWarnAssert => true
  | .holdEnd => true
  | .pgoodFall _ => true
  | .pgoodOptTimeout => true
  | .sensorSample _ readings => readings.all (fun r => match r with | none => true | some x => signed 16 x)
  | .pinSample readings => decide (readings.length = 12) && readings.all PinReading.wf &&
      (readings.take 8).all (fun r => !r.isDiode) && (readings.drop 8).all (fun r => !r.isOhms)
  | .pinCritClear _ => true
  | .dropRecover _ => true
  | .tdutyStep _ => true
  | .injHbmSymbol _ _ arg => fits 32 arg
  | .injHbmDouble _ _ arg => fits 32 arg
  | .injStackLost _ _ arg => fits 32 arg
  | .injStoreSingle _ _ arg => fits 32 arg
  | .injStoreDouble _ _ arg => fits 32 arg
  | .injFecSymbols _ _ arg => fits 32 arg
  | .injFlitCrc _ _ arg => fits 32 arg
  | .injLaneFail _ _ arg => fits 32 arg
  | .injRingUnlock _ _ arg => fits 32 arg
  | .injRxPower _ _ arg => fits 32 arg
  | .injBeaconId _ _ arg => fits 32 arg
  | .injRetrain _ _ arg => fits 32 arg
  | .injNoAck _ _ arg => fits 32 arg
  | .injReqDrop _ _ arg => fits 32 arg
  | .injDefer _ _ arg => fits 32 arg
  | .injRedFull _ _ arg => fits 32 arg
  | .injCombRefuse _ _ arg => fits 32 arg
  | .injDigest _ _ arg => fits 32 arg
  | .injSilent _ _ arg => fits 32 arg
  | .injPieceDrop _ _ arg => fits 32 arg
  | .injDoneDigest _ _ arg => fits 32 arg
  | .injPushStall _ _ arg => fits 32 arg
  | .injBufFull _ _ arg => fits 32 arg
  | .injSkip _ _ arg => fits 32 arg
  | .injOffset _ _ arg => fits 32 arg
  | .injBeatStop _ _ arg => fits 32 arg
  | .injBeaconMute _ _ arg => fits 32 arg
  | .injSensorOffset _ _ arg => fits 32 arg
  | .injSensorRamp _ _ arg => fits 32 arg
  | .injSensorBroken _ _ arg => fits 32 arg
  | .injPwrWarn _ arg => fits 32 arg
  | .injPinReading _ arg => fits 32 arg
  | .injPinBroken _ arg => fits 32 arg
  | .injHeartbeatStop _ arg => fits 32 arg
  | .injHostLaneFail _ arg => fits 32 arg
  | .injModuleFault _ arg => fits 32 arg
  | .injMargin _ arg => fits 32 arg
  | .injInletDrop _ arg => fits 32 arg
  | .injEffectEnd _ _ => true
  | .droopDetectorTrip _ _ cycles => fits 32 cycles
  | .pwrWarnDeassert => true
  | .parentLoss _ => true
  | .headerMapDesync _ _ => true
  | .aspmL1Entry => true
  | .hostLinkTrained _ => true
  | .plotDormant _ _ => true

end Sys2Proof
end

