-- ==== Sys2Proof/Safety.lean ====
section
/-! DEFINITION. The terms claims are stated in: the parts of the state, what it means that nothing outside some parts has
changed, and the invariants of the machine. -/

namespace Sys2Proof.Machine

open Sys2Proof

/-- A part of the state. `free` to `sram` and `hubReg` to `hubFx` are one of a package; the others every field has, and
`drill` to `anyPlotReg` every plot of it. -/
inductive Part where
  /-- the counter of free values; the clock; events waiting to be recorded; messages sent out; hub SRAM -/
  | free | now | events | out | sram
  /-- a register field of the hub; all of them -/
  | hubReg (k : RegField)
  | anyHubReg
  /-- MSI-X messages due and sent; the light modules and engines; the host port's lanes; whether stage LINKS has begun -/
  | msix | light | hostTx | links
  /-- the hub's tally with its servo, and the mark pulse; the calendar; bring-up; the host port; Yarzin's event records; mailbox slots; power -/
  | tallyHub | calendar | seed | host | yarzin | hubSlots | power
  /-- injection effects of the hub; the lock's hold-off -/
  | hubFx
  /-- a field's HBM, plot stores and bins: what they hold; their error codes and poison marks -/
  | hbm | store | bin | hbmErr | storeErr | binErr
  /-- a register field of a rim; all of them -/
  | reg (k : RegField)
  | anyReg
  /-- of a plot: the drill; descriptor registers; the queue and its next QSN; the completion log; the tines; samples and
  their counter; the scrub's place; the notify value; line requests under way; the boot ROM's state; the mailbox slot -/
  | drill | dr | queue | cq | tine | samples | scrub | notify | xlines | boot | slot
  /-- a register field of a plot; all of them -/
  | plotReg (k : RegField)
  | anyPlotReg
  /-- a field's memory unit; its drift table -/
  | memu | drift
  /-- counts of bin errors and witness events; when rate-limited events were raised; hard events waiting -/
  | counts | lastRaise | hard
  | ports | router | gateway | sheaf | health | mirror | tally
  /-- management reads queued; rows to sow; records to forward; hub-lost operation; the partition's hold -/
  | mgmt | sow | forward | hubLost | held
  /-- mailbox slots of the rim; temperatures; injection effects -/
  | rimSlots | thermal | rimFx
  /-- a part in every field and every plot, where the rest of a list is confined to some -/
  | far (k : Part)
  deriving DecidableEq, Repr

/-- Whether every field has the part for itself. -/
def Part.perField : Part → Bool
  | .free | .now | .events | .out | .sram | .hubReg _ | .anyHubReg | .msix | .light | .hostTx | .links | .tallyHub
  | .calendar | .seed | .host | .yarzin | .hubSlots | .power | .hubFx => false
  | .hbm | .store | .bin | .hbmErr | .storeErr | .binErr | .reg _ | .anyReg | .drill | .dr | .queue | .cq | .tine | .samples | .scrub | .notify | .xlines
  | .boot | .slot | .plotReg _ | .anyPlotReg | .memu | .drift | .counts | .lastRaise | .hard | .ports | .router | .gateway
  | .sheaf | .health | .mirror | .tally | .mgmt | .sow | .forward | .hubLost | .held | .rimSlots | .thermal | .rimFx | .far _ => true

/-- Whether every plot has the part for itself. -/
def Part.perPlot : Part → Bool
  | .drill | .dr | .queue | .cq | .tine | .samples | .scrub | .notify | .xlines | .boot | .slot | .plotReg _ | .anyPlotReg => true
  | _ => false

/-- A part of plots that may change in all of them. -/
def Part.farPlot : Part → Bool
  | .far k => k.perPlot
  | _ => false

/-- The part that stands for all register fields of a register field's kind; any other part itself. -/
def Part.wild : Part → Part
  | .hubReg _ => .anyHubReg
  | .reg _ => .anyReg
  | .plotReg _ => .anyPlotReg
  | .far k => .far k.wild
  | k => k

/-- Whether a list of parts takes a part in. -/
def Part.covered (K : List Part) (k : Part) : Bool := K.contains k || K.contains k.wild

/-- Every part there is. -/
def allParts : List Part :=
  [.free, .now, .events, .out, .sram, .anyHubReg, .msix, .light, .hostTx, .links, .tallyHub, .calendar, .seed, .host, .yarzin,
    .hubSlots, .power, .hubFx] ++ [.hbm, .store, .bin, .hbmErr, .storeErr, .binErr, .anyReg, .drill, .dr, .queue, .cq, .tine, .samples, .scrub, .notify,
    .xlines, .boot, .slot, .anyPlotReg] ++ [.memu, .drift, .counts, .lastRaise, .hard, .ports, .router, .gateway, .sheaf,
    .health, .mirror, .tally, .mgmt, .sow, .forward, .hubLost, .held, .rimSlots, .thermal, .rimFx]

/-- A part of the hub is the same. -/
def Part.sameHub (k : Part) (H G : Hub) : Prop :=
  match k with
  | .msix => G.msixDue = H.msixDue ∧ G.msixSent = H.msixSent
  | .light => G.light = H.light
  | .hostTx => G.hostTx = H.hostTx
  | .links => G.linksBegun = H.linksBegun
  | .tallyHub => G.tally = H.tally ∧ G.servo = H.servo ∧ G.pulseDue = H.pulseDue ∧ G.pulseEnd = H.pulseEnd
  | .calendar => G.cal = H.cal
  | .seed => G.seed = H.seed
  | .host => G.host = H.host
  | .yarzin => G.yarzinEvents = H.yarzinEvents
  | .hubSlots => G.slots = H.slots
  | .power => G.pwr = H.pwr
  | .hubFx => G.fx = H.fx ∧ G.injHold = H.injHold
  | _ => True

/-- A part of a field is the same. -/
def Part.sameField (k : Part) (F G : Field) : Prop :=
  match k with
  | .memu => G.memu = F.memu
  | .drift => G.drift = F.drift
  | .counts => G.binCorrected = F.binCorrected ∧ G.binUncorrected = F.binUncorrected ∧ G.witEvents = F.witEvents
  | .lastRaise => G.lastRaise = F.lastRaise
  | .hard => G.hardDue = F.hardDue
  | .ports => G.ports = F.ports
  | .router => G.router = F.router
  | .gateway => G.gw = F.gw
  | .sheaf => G.shf = F.shf
  | .health => G.hlt = F.hlt
  | .mirror => G.mir = F.mir
  | .tally => G.tally = F.tally
  | .mgmt => G.mgmtq = F.mgmtq
  | .sow => G.sow = F.sow
  | .forward => G.fwdQueue = F.fwdQueue
  | .hubLost => G.hubLost = F.hubLost ∧ G.missed = F.missed ∧ G.hbStopped = F.hbStopped
  | .held => G.held = F.held
  | .rimSlots => G.slotFld = F.slotFld ∧ G.slotRimp = F.slotRimp
  | .thermal => G.thm = F.thm
  | .rimFx => G.fx = F.fx
  | _ => True

/-- A part of the memories is the same, field f's where each field has one. -/
def Part.sameMem (k : Part) (f : FieldId) (m n : Memories) : Prop :=
  match k with
  | .sram => n.sram = m.sram
  | .hbm => n.hbm[f] = m.hbm[f]
  | .store => n.store[f] = m.store[f]
  | .bin => n.bin[f] = m.bin[f]
  | .hbmErr => n.hbmErr[f] = m.hbmErr[f]
  | .storeErr => n.storeErr[f] = m.storeErr[f]
  | .binErr => n.binErr[f] = m.binErr[f] ∧ n.binPoison[f] = m.binPoison[f]
  | _ => True

/-- A part of the state is the same after as before, field f's where each field has one. -/
def Part.same (k : Part) (f : FieldId) (s t : State) : Prop :=
  match k with
  | .free => t.free = s.free
  | .now => t.now = s.now
  | .events => t.events = s.events
  | .out => t.out = s.out
  | _ => k.sameHub s.hub t.hub ∧ k.sameField (s.field f) (t.field f) ∧ k.sameMem f s.mem t.mem

/-- A part of a plot is the same. -/
def Part.samePlot (k : Part) (P Q : Plot) : Prop :=
  match k with
  | .drill => Q.drill = P.drill
  | .dr => Q.dr = P.dr
  | .queue => Q.queue = P.queue ∧ Q.nextQsn = P.nextQsn
  | .cq => Q.cq = P.cq
  | .tine => Q.tine = P.tine
  | .samples => Q.samples = P.samples ∧ Q.scnt = P.scnt
  | .scrub => Q.scrub = P.scrub
  | .notify => Q.notify = P.notify
  | .xlines => Q.xlines = P.xlines ∧ Q.xlast = P.xlast
  | .boot => Q.boot = P.boot
  | .slot => Q.slot = P.slot
  | _ => True

/-- Whether the parts K let the register field stored at a key change: `one` makes a part of a register field, `any` is the
part of them all. -/
def keyIn (K : List Part) (any : Part) (one : RegField → Part) (j : Nat) : Prop :=
  any ∈ K ∨ ∃ k n i, one k ∈ K ∧ j = RegField.key k n i

/-- From s to t nothing changed but the parts K: those that every field has only in the fields F, those that every plot has only
in their plots P, and those listed as `far` anywhere. The queue of commands is as it was, and memories in canonical form still
are. -/
structure Only (K : List Part) (F : FieldId → Prop) (P : PlotId → Prop) (s t : State) : Prop where
  pending : t.pending = s.pending
  canon : s.mem.wf = true → t.mem.wf = true
  same : ∀ k f, Part.covered K (.far k) = false → (Part.covered K k = false ∨ (k.perField = true ∧ ¬ F f)) → k.same f s t
  hubRegs : ∀ j, ¬ keyIn K .anyHubReg .hubReg j → SMap.find t.hub.regs j = SMap.find s.hub.regs j
  regs : ∀ f j, ¬ keyIn K (.far .anyReg) (fun k => .far (.reg k)) j → (¬ F f ∨ ¬ keyIn K .anyReg .reg j) →
    SMap.find (t.field f).regs j = SMap.find (s.field f).regs j
  plots : ∀ f p, K.all (fun k => !k.farPlot) = true → (¬ F f ∨ ¬ P p ∨ K.all (fun k => !k.perPlot) = true) →
    t.plot f p = s.plot f p
  plot : ∀ k f p, Part.covered K (.far k) = false → (Part.covered K k = false ∨ ¬ F f ∨ ¬ P p) →
    k.samePlot (s.plot f p) (t.plot f p)
  plotRegs : ∀ f p j, ¬ keyIn K (.far .anyPlotReg) (fun k => .far (.plotReg k)) j →
    (¬ F f ∨ ¬ P p ∨ ¬ keyIn K .anyPlotReg .plotReg j) → SMap.find (t.plot f p).regs j = SMap.find (s.plot f p).regs j

/-- The parts that recording the raised events can change (R607, R608, R610, R611, R613): the rings and their registers, the
messages due, the records for Yarzin and the collector; and, through a ring in HBM, what any write of HBM can change, the
mark of an injected health input among it (R481). -/
def recordParts : List Part :=
  [.events, .sram, .hubReg Reg.HUB_EVT_IDX.LOST, .hubReg Reg.HUB_EVT_IDX.PROD, .msix, .yarzin, .hbm, .hbmErr,
    .reg Reg.FLD_EVT_IDX.LOST, .reg Reg.FLD_EVT_IDX.PROD, .reg Reg.GWY_STAT.ABSORBED, .reg Reg.INJ_PT.ARM,
    .reg Reg.INJ_PT.DONE, .reg Reg.MEM_ECC_STAT.CORRECTED, .reg Reg.MEM_ECC_STAT.LAST_ADDR,
    .reg Reg.MEM_ECC_STAT.POISON_WRITES, .reg Reg.MEM_ECC_STAT.UNCORRECTED] ++
  [.reg Reg.MEM_REPAIR_ENTRY.BANK, .reg Reg.MEM_REPAIR_ENTRY.CHANNEL, .reg Reg.MEM_REPAIR_ENTRY.PCH,
    .reg Reg.MEM_REPAIR_ENTRY.REASON, .reg Reg.MEM_REPAIR_ENTRY.RESULT, .reg Reg.MEM_REPAIR_ENTRY.ROW,
    .reg Reg.MEM_REPAIR_ENTRY.STACK, .reg Reg.MEM_REPAIR_ENTRY.VALID, .memu, .health, .forward]

/-- What a command leaves when it answers a next state: its own effects, and then the records of the events it raised. -/
def Ends (K : List Part) (F : FieldId → Prop) (P : PlotId → Prop) (s : State) (r : Result) : Prop :=
  ∃ u, (r = .next u ∨ r = .next u.drain) ∧ Only K F P s u

/-- A command answers a next state, and what it leaves before the records of its events are written is as Q says. -/
def Leaves (r : Result) (Q : State → Prop) : Prop := ∃ u, (r = .next u ∨ r = .next u.drain) ∧ Q u

/-- A TRFENCE may ask the gateway (R223): every transfer before it is issued in full, the gateway has taken every line of
them that goes to it, no synchronisation before it is unstarted, and no TFENCE stands before it. -/
def State.fenceReady (s : State) (f : FieldId) (p : PlotId) (e : QEntry) : Bool :=
  let before := entriesBefore (s.plot f p).queue e.qsn
  before.all (fun x => match x.op with
      | .txfer d => decide (x.phase = .running) && decide (x.issued = xfLines d)
      | _ => true) &&
    (s.plot f p).xlines.all (fun x => s.xlineOwn f x || !before.any (fun y => decide (y.qsn = x.qsn))) &&
    syncTurn before && !syncHeld (before.filter (fun x => decide (x.op = .tfence))) e.op

/-- A byte of a field's HBM as a read of its line sees it past any write that waits: of the absorber's copy of a resident
line, else of the HBM (R422). -/
def State.hbmByte (s : State) (f : FieldId) (a : Nat) : Byte :=
  match (s.memu f).resident (a / 128) with
  | some x => x.data.getD (a % 128) 0
  | none => Mem.byte s.mem.hbm[f] a

/-- Every line of a field's absorber has its 128 bytes and lies on a stack that responds (R235, R422). -/
abbrev State.linesWhole (s : State) (f : FieldId) : Prop :=
  ∀ x ∈ (s.memu f).absorber, x.data.length = 128 ∧ (s.memu f).lost (lineStack x.line) = false

/-- What the lists of a state keep to: the absorber's lines are whole, no write is held back for a lost stack, and no list is longer
than the unit has places (R129, R155, R199, R235, R242, R410, R421, R422, R678). -/
structure State.Bounded (s : State) : Prop where
  lines : ∀ f, s.linesWhole f
  held : ∀ f, ∀ w ∈ (s.memu f).held, (s.memu f).lost (lineStack w.line) = false
  absorber : ∀ f, (s.memu f).absorber.length ≤ absorberLines
  rows : ∀ f, (s.memu f).rowTab.length ≤ 256
  mgmt : ∀ f, (s.field f).mgmtq.length ≤ mgmtQueue
  atomics : ∀ f, (s.gw f).atomics.length ≤ atomicCache
  flows : ∀ f, (s.gw f).queue.length ≤ queuePlaces
  queue : ∀ f p, (s.plot f p).queue.length ≤ queueSize
  log : ∀ f p, (s.plot f p).cq.length ≤ cqSize
  samples : ∀ f p, (s.plot f p).samples.length ≤ 16

/-- Whether byte b lies in a line of 128 bytes that n bytes from address a touch. -/
def inLines (a n b : Nat) : Bool := decide (a / 128 ≤ b / 128) && decide (b / 128 * 128 < a + n)

/-- Whether byte b of a field's HBM lies in the line at a field address (R231). -/
def inTargetHbm (a b : Nat) : Bool := decide (targetOf a = .hbm) && decide (b / 128 = a / 128)

/-- Whether byte b of a field's plot stores is one of the 128 at a field address (R231). -/
def inTargetStore (a b : Nat) : Bool :=
  match targetOf a with
  | .store q o => decide (storeKey q o ≤ b) && decide (b < storeKey q o + 128)
  | _ => false

/-- Whether byte b of a field's plot stores is one that a vector operation may write: its results, or the side bytes of their blocks
(R213, R215). -/
def inVecWrite (p : PlotId) (d md : Nat) (fout : Fmt) (b : Nat) : Bool :=
  let n := if vopReduces (tvVop d) then 1 else if tvVop d = 0x31 then (tvCount d + 31) / 32 * 32 else tvCount d
  let a := elemAddr (dfield d 4 4) fout.elem.width (if vopReduces (tvVop d) then 0 else tvJ0 md)
  let side := dfield d 24 4 + fout.sideBytes * (tvJ0 md / 32)
  (vopWritesDst (tvVop d) && decide (storeKey p a ≤ b) && decide (b < storeKey p a + (n * fout.elem.width + 7) / 8)) ||
    (vopWritesSide (tvVop d) && decide (storeKey p side ≤ b) &&
      decide (b < storeKey p side + fout.sideBytes * ((tvCount d + 31) / 32)))

/-- Every memory of the package is in canonical form: addresses strictly rising, no entry that equals what an unlisted
address reads as. -/
def State.canonical (s : State) : Prop := s.mem.wf = true

end Sys2Proof.Machine
end

