-- ==== Sys2Proof/Certificates/Slice0/Obligations.lean ====
section
/-! DEFINITION. The statements for the provers. -/

open Sys2Proof Sys2Proof.Machine

/-- For every state, command and queue: a step of the state with the command at the front of its queue is the command
run on the state with the rest of the queue. -/
def Obligations.StepRunsTheFrontCommand : Prop :=
  ∀ (s : State) (c : Instr) (rest : List Instr), step { s with pending := c :: rest } = exec c { s with pending := rest }

/-- For every state, reached or not: a step answers a next state (no command of the operation table ends in a fault or
a refusal); its queue is the queue before without its first command; and if every memory is in canonical form
(addresses strictly rising, no entry that equals what an unlisted address reads as), every memory still is. -/
def Obligations.EveryStepAnswers : Prop :=
  ∀ (s : State), ∃ t, step s = .next t ∧ t.pending = s.pending.tail ∧ (s.canonical → t.canonical)

/-- The model's choice (assumption log entry 1), no rule of the spec: with no command waiting, no host access waiting
or held back, no value of a drill waiting to be notified and no event to record, a step answers a next state 2 ns later, with
the hub's tally on by what its servo's increment gives (entry 17), in which nothing has changed but the clock, the calendar and
its registers, the tallies and the count of cycles writes have been held. -/
def Obligations.IdleStepPassesTime : Prop :=
  ∀ (s : State), s.pending = [] → s.hub.host.wait = [] → s.hub.host.held = [] → s.events = [] →
    (∀ (f : FieldId), ∀ e ∈ (s.field f).plots, e.2.notify = none) → ∃ t, step s = .next t ∧ t.now = s.now + 2 ∧ 
      t.hub.tally = (s.hub.tally + (s.hub.servo.tFrac + 3 * tallyInc s.hub.servo.hold s.hub.servo.fTrim s.hub.servo.pTrim) / 2 ^ 32) % 2 ^ 64 ∧
      Only [.now, .hubReg Reg.CAL_TIME.FRAC, .hubReg Reg.CAL_TIME.SEC, .tallyHub, .calendar, .reg Reg.MEM_MIR_STATUS.HOLD_CYCLES, .tally] (fun _ => True) (fun _ => False) s t

/-- State.reset: no command and no event waits; every memory is in canonical form; no list is longer than its unit has
places; every byte of the plot stores reads 0 and no bin word differs from 0 (R99, R160); every drill is HELD; the
registers named have their Cold values: HLT_PKG.SCORE 0x3E8, HLT_FLEET.PRESSURE 0, THM_CTL.ALERT_MASK 0x1F,
GWY_CLASS_CTL.NEAR_SCOPE 0b10, RTE_CONG_CTL.ENABLE 1 and WINDOW_LOG 0x14, HDL_PORT_CTL CAL_EN 1, FLD_SR_SEED 0, and a
register field that nothing lists reads its Cold value. Derived: that State.reset is the machine right after a cold
reset, and what Kept, Strap, Seed and the model's own fields hold there, is the model's choice (assumption log entry
5), and so is the empty queue (entry 6) and what memory reads as that nothing lists (entry 7). -/
def Obligations.ResetState : Prop :=
  (State.reset.pending = [] ∧ State.reset.events = [] ∧ State.reset.canonical ∧ State.reset.Bounded) ∧
  (∀ (f : FieldId) (b : Nat), Mem.byte State.reset.mem.store[f] b = 0 ∧ SMap.get State.reset.mem.bin[f] 0 b = 0 ∧ SMap.get State.reset.mem.storeErr[f] 0 b = 0) ∧
  (∀ (f : FieldId) (p : PlotId), (State.reset.plot f p).drill.st = .held) ∧
  (State.reset.hreg Reg.HLT_PKG.SCORE = 0x3E8 ∧ State.reset.hreg Reg.HLT_FLEET.PRESSURE = 0 ∧ State.reset.hreg Reg.THM_CTL.ALERT_MASK = 0x1F) ∧
  (∀ (f : FieldId), State.reset.freg f Reg.GWY_CLASS_CTL.NEAR_SCOPE = 2 ∧ State.reset.freg f Reg.RTE_CONG_CTL.ENABLE = 1 ∧ State.reset.freg f Reg.RTE_CONG_CTL.WINDOW_LOG = 0x14 ∧ State.reset.freg f Reg.HDL_PORT_CTL.CAL_EN 0 = 1 ∧ State.reset.freg f Reg.FLD_SR_SEED.SEED = 0) ∧
  (∀ (k : RegField) (n i : Nat), State.reset.hreg k n i = k.cold ∧ ∀ f : FieldId, State.reset.freg f k n i = k.cold ∧ ∀ p : PlotId, State.reset.preg f p k = k.cold)

/-- Cold and warm reset: every byte of every plot store reads 0 and no word of one has an error, and every drill is
HELD. Partition reset of a field in READY outside hub-lost operation: the same of the field's plot stores and drills.
-/
def Obligations.ResetsZeroPlotStores : Prop :=
  (∀ (s : State) (po : Bool) (st : Fin 16) (vbat : Vbat), Leaves (exec (.coldReset po st vbat) s) (fun u =>
      (∀ (f : FieldId) (b : Nat), Mem.byte u.mem.store[f] b = 0) ∧
      (∀ (f : FieldId) (w : Nat), SMap.get u.mem.storeErr[f] 0 w = 0) ∧
      (∀ (f : FieldId) (p : PlotId), (u.plot f p).drill.st = .held))) ∧
  (∀ (s : State) (i3c : Bool), Leaves (exec (.warmReset i3c) s) (fun u =>
      (∀ (f : FieldId) (b : Nat), Mem.byte u.mem.store[f] b = 0) ∧
      (∀ (f : FieldId) (w : Nat), SMap.get u.mem.storeErr[f] 0 w = 0) ∧
      (∀ (f : FieldId) (p : PlotId), (u.plot f p).drill.st = .held))) ∧
  (∀ (s : State) (f : FieldId), (s.field f).hubLost = false → s.svc f = svcReady → Leaves (exec (.partitionReset f) s) (fun u =>
      (∀ b : Nat, Mem.byte u.mem.store[f] b = 0) ∧
      (∀ w : Nat, SMap.get u.mem.storeErr[f] 0 w = 0) ∧
      (∀ p : PlotId, (u.plot f p).drill.st = .held)))

/-- TERN: an element whose two bits are 11 reads as +0 and reports class TERN_RESERVED, and no conversion into TERN
gives the code 11. Block formats with scale code c other than 0xFF: element i of an MX floating-point block is its
element value times 2^(c − 127), of an MXINT8 block k × 2^−6 times 2^(c − 127), of a GFP4 block its element value
times 2^(c − 127 − s_g) with g = i / 8. -/
def Obligations.NumberFormatRules : Prop :=
  (∀ (c : Nat), c % 4 = 3 → decodeElem fmtTERN c = (.fin false 0 0, clsTernReserved)) ∧
  (∀ (v : Val) (mode r : Nat) (nonsat : Bool), (convert v fmtTERN mode nonsat r).1 ≠ 3) ∧
  (∀ (sel c shifts i code : Nat) (F : Fmt), fmtOf sel = some F → F.block = true → c < 0xFF → (F.gfp = true → (decodeBlockElem F c shifts i code).1 = (decodeElem F.elem code).1.scale ((c : Int) - 127 - bits shifts (2 * (i / 8)) 2)) ∧
      (F.gfp = false → F.elem.kind = .float → (decodeBlockElem F c shifts i code).1 = (decodeElem F.elem code).1.scale ((c : Int) - 127)) ∧
      (F.gfp = false → F.elem.kind = .mxint → (decodeBlockElem F c shifts i code).1 = (Val.ofInt (toSigned 8 code) (-6)).scale ((c : Int) - 127)))

/-- For every state: writing the records of the raised events changes only the event rings and their PROD and LOST,
the MSI-X messages due, the records kept for Yarzin and for the collector, and what any write of HBM can change; with
no event raised it changes nothing; and no event is left where each raised one is of the hub or of a field whose ring
is not enabled. A ring that holds no more records than its size holds no more after (R608). -/
def Obligations.RecordFrame : Prop :=
  (∀ (s : State), Only recordParts (fun _ => True) (fun _ => True) s s.drain) ∧
  (∀ (s : State), s.events = [] → s.drain = s) ∧
  (∀ (s : State), (∀ e ∈ s.events, ∀ f : FieldId, e.src = some f → s.freg f Reg.FLD_EVT_RING.ENABLE = 0) → s.drain.events = []) ∧
  (∀ (s : State), (s.hreg Reg.HUB_EVT_IDX.PROD + 0x10000 - s.hreg Reg.HUB_EVT_IDX.CONS) % 0x10000 ≤ 2 ^ s.hreg Reg.HUB_EVT_RING.SIZE_LOG →
      (s.drain.hreg Reg.HUB_EVT_IDX.PROD + 0x10000 - s.drain.hreg Reg.HUB_EVT_IDX.CONS) % 0x10000 ≤ 2 ^ s.drain.hreg Reg.HUB_EVT_RING.SIZE_LOG) ∧
  (∀ (s : State) (f : FieldId), (s.freg f Reg.FLD_EVT_IDX.PROD + 0x10000 - s.freg f Reg.FLD_EVT_IDX.CONS) % 0x10000 ≤ 2 ^ s.freg f Reg.FLD_EVT_RING.SIZE_LOG →
      (s.drain.freg f Reg.FLD_EVT_IDX.PROD + 0x10000 - s.drain.freg f Reg.FLD_EVT_IDX.CONS) % 0x10000 ≤ 2 ^ s.drain.freg f Reg.FLD_EVT_RING.SIZE_LOG)

/-- One raised hub event, recorded. Ring enabled and not full, its next record inside hub SRAM: the 32-byte record is
written at BASE + (PROD mod 2^SIZE_LOG) × 32 and no other byte of SRAM changes, PROD goes up by one modulo 2^16,
Yarzin has a copy, and the message of the class is due or was sent. Ring full: SRAM and PROD stay, LOST goes up by one
up to its largest value, Yarzin has a copy. Ring not enabled: SRAM, PROD and LOST stay, Yarzin has a copy. One event
of a field whose ring is not enabled, or that is DARK: its PROD, LOST and HBM stay, Yarzin has a copy, and the record waits for the
collector where its class is forwarded and the field is not DARK (log entry 42, the model's choice). -/
def Obligations.RecordsAreWritten : Prop :=
  (∀ (s : State) (e : RaisedEvent), s.events = [e] → e.src = none → s.hreg Reg.HUB_EVT_RING.ENABLE = 1 → ringFull (s.hreg Reg.HUB_EVT_IDX.PROD) (s.hreg Reg.HUB_EVT_IDX.CONS) (s.hreg Reg.HUB_EVT_RING.SIZE_LOG) = false → s.hreg Reg.HUB_EVT_RING.BASE * 4096 + s.hreg Reg.HUB_EVT_IDX.PROD % 2 ^ s.hreg Reg.HUB_EVT_RING.SIZE_LOG * 32 + 32 ≤ sramSize → s.drain.events = [] ∧
      s.drain.mem.sram = Mem.write s.mem.sram (s.hreg Reg.HUB_EVT_RING.BASE * 4096 + s.hreg Reg.HUB_EVT_IDX.PROD % 2 ^ s.hreg Reg.HUB_EVT_RING.SIZE_LOG * 32) (s.evRecord e (evFlags e) (s.hreg Reg.HUB_EVT_IDX.PROD)) ∧
      s.drain.hreg Reg.HUB_EVT_IDX.PROD = (s.hreg Reg.HUB_EVT_IDX.PROD + 1) % 2 ^ 16 ∧
      s.drain.hub.yarzinEvents = s.hub.yarzinEvents ++ [s.evRecord e (evFlags e) (s.hreg Reg.HUB_EVT_IDX.PROD)] ∧
      (bit (SMap.get s.drain.hub.msixDue 0 0) e.cls = true ∨ bit (SMap.get s.hub.msixSent 0 0) e.cls = true)) ∧
  (∀ (s : State) (e : RaisedEvent), s.events = [e] → e.src = none → s.hreg Reg.HUB_EVT_RING.ENABLE = 1 → ringFull (s.hreg Reg.HUB_EVT_IDX.PROD) (s.hreg Reg.HUB_EVT_IDX.CONS) (s.hreg Reg.HUB_EVT_RING.SIZE_LOG) = true → s.drain.events = [] ∧ s.drain.mem.sram = s.mem.sram ∧ s.drain.hreg Reg.HUB_EVT_IDX.PROD = s.hreg Reg.HUB_EVT_IDX.PROD ∧
      s.drain.hreg Reg.HUB_EVT_IDX.LOST = min (s.hreg Reg.HUB_EVT_IDX.LOST + 1) 65535 ∧
      s.drain.hub.yarzinEvents = s.hub.yarzinEvents ++ [s.evRecord e (evFlags e) (s.hreg Reg.HUB_EVT_IDX.PROD)]) ∧
  (∀ (s : State) (e : RaisedEvent), s.events = [e] → e.src = none → s.hreg Reg.HUB_EVT_RING.ENABLE = 0 → s.drain.mem.sram = s.mem.sram ∧ s.drain.hreg Reg.HUB_EVT_IDX.PROD = s.hreg Reg.HUB_EVT_IDX.PROD ∧
      s.drain.hreg Reg.HUB_EVT_IDX.LOST = s.hreg Reg.HUB_EVT_IDX.LOST ∧
      s.drain.hub.yarzinEvents = s.hub.yarzinEvents ++ [s.evRecord e (evFlags e) (s.hreg Reg.HUB_EVT_IDX.PROD)]) ∧
  (∀ (s : State) (e : RaisedEvent) (f : FieldId), s.events = [e] → e.src = some f → s.freg f Reg.FLD_EVT_RING.ENABLE = 0 ∨ s.svc f = svcDark → s.drain.mem = s.mem ∧ s.drain.freg f Reg.FLD_EVT_IDX.PROD = s.freg f Reg.FLD_EVT_IDX.PROD ∧
      s.drain.freg f Reg.FLD_EVT_IDX.LOST = s.freg f Reg.FLD_EVT_IDX.LOST ∧
      s.drain.hub.yarzinEvents = s.hub.yarzinEvents ++ [s.evRecord e (evFlags e) (s.freg f Reg.FLD_EVT_IDX.PROD)] ∧
      (s.drain.field f).fwdQueue = (s.field f).fwdQueue ++ (if decide (s.svc f ≠ svcDark) && nodeNamed (s.freg f Reg.FLD_EVT_FWD.COLLECTOR) && bit (s.freg f Reg.FLD_EVT_FWD.CLASSES) e.cls then [s.evRecord e (evFlags e) (s.freg f Reg.FLD_EVT_IDX.PROD)] else []))

/-- Of each memory, byte by byte. MEMORY_WRITE through PF0 BAR2: the enabled bytes outside the private part. HBM_WRITE
within a half-line of a field whose rim is in service, its stack not lost, no earlier write to the line nor a mark on its
granule in the way: the bytes given, at the address given, in the line's copy in the absorber or, where that must be
fetched, in what a fetch without recorded or injected error gives (R240, R422); marked poisoned, both halves of that
copy. One on a RES granule is held back (R246); one beyond the top, to a lost stack or of a dark rim writes nothing
(R27, R235). PLOT_STORE_MESH_WRITE of whole words: the bytes given; poisoned: its line; beyond the store, of a vacant
plot or of one out of service: nothing. DRILL_STORE into the plot store, its word without an uncorrected error: the low
bytes of rs2 at the effective address of rs1. Every other byte of that memory reads as before. That a dark rim writes nothing
(assumption log entry 42), that a poisoned write to a line marks both halves of its copy (15) and that a vacant plot takes
no write (34) is the model's choice, derived. That every absorber line has 128 bytes on a stack not lost is an invariant of
steps (LinesStayWhole). -/
def Obligations.StoresWriteTheirBytes : Prop :=
  (∀ (s : State) (a be : Nat) (d : List Byte) (ep : Bool), s.hostLink = hpL0 → s.hub.host.wait = [] → s.hub.host.held = [] → bit s.hub.host.d3 0 = false → d.length ≤ maxPayload → a + d.length ≤ 0x1000000 → Leaves (exec (.memoryWrite 0 true a d be ep) s) (fun u =>
      ∀ b : Nat, Mem.byte u.mem.sram b = (if a ≤ b ∧ b < a + d.length ∧ bit be (b - a) = true ∧ b < sramPrivate then d.getD (b - a) 0 else Mem.byte s.mem.sram b))) ∧
  (∀ (s : State) (f : FieldId) (a : Nat) (d : List Byte) (src : Fin 6), s.svc f ≠ svcDark → a < hbmTop → a % 64 + d.length ≤ 64 → (s.memu f).lost (lineStack (a / 128)) = false → (s.memu f).holdsLine (a / 128) = false → (s.memu f).resident (a / 128) = none → errKind (SMap.get s.mem.hbmErr[f] 0 (a / 128 * 2)) = 0 → errKind (SMap.get s.mem.hbmErr[f] 0 (a / 128 * 2 + 1)) = 0 → s.injArmedAt f injMem 1 (lineStack (a / 128)) = false → s.injArmedAt f injMem 2 (lineStack (a / 128)) = false → s.linesWhole f → Leaves (exec (.hbmWrite f a d false src) s) (fun u =>
      ∀ b : Nat, u.hbmByte f b = (if a ≤ b ∧ b < a + d.length then d.getD (b - a) 0 else s.hbmByte f b))) ∧
  (∀ (s : State) (f : FieldId) (a : Nat) (d : List Byte) (src : Fin 6) (x : AbsLine), s.svc f ≠ svcDark → a < hbmTop → a % 64 + d.length ≤ 64 → (s.memu f).lost (lineStack (a / 128)) = false → (s.memu f).holdsLine (a / 128) = false → (s.memu f).resident (a / 128) = some x → x.poisonLo = false → x.poisonHi = false → s.linesWhole f → Leaves (exec (.hbmWrite f a d false src) s) (fun u =>
      ∀ b : Nat, u.hbmByte f b = (if a ≤ b ∧ b < a + d.length then d.getD (b - a) 0 else s.hbmByte f b))) ∧
  (∀ (s : State) (f : FieldId) (a : Nat) (d : List Byte) (src : Fin 6), s.svc f ≠ svcDark → a < hbmTop → (s.memu f).lost (lineStack (a / 128)) = false → (s.memu f).holdsLine (a / 128) = false → Leaves (exec (.hbmWrite f a d true src) s) (fun u =>
      ((u.memu f).resident (a / 128)).map (fun x => (x.poisonLo, x.poisonHi)) = some (true, true))) ∧
  (∀ (s : State) (f : FieldId) (a : Nat) (d : List Byte) (x : Bool) (src : Fin 6), s.svc f ≠ svcDark → a < hbmTop → (s.memu f).lost (lineStack (a / 128)) = false → (s.memu f).holdsLine (a / 128) = true → Leaves (exec (.hbmWrite f a d x src) s) (fun u =>
      (u.memu f).held = (s.memu f).held ++ [⟨a / 128, [(a % 128, if x then [] else d.take (64 - a % 64))], x, src⟩] ∧
      u.mem = s.mem)) ∧
  (∀ (s : State) (f : FieldId) (a : Nat) (d : List Byte) (x : Bool) (src : Fin 6), s.svc f = svcDark ∨ hbmTop ≤ a ∨ (s.memu f).lost (lineStack (a / 128)) = true → Leaves (exec (.hbmWrite f a d x src) s) (fun u =>
      u = s)) ∧
  (∀ (s : State) (f : FieldId) (p : PlotId) (a : Nat) (d : List Byte), a % 8 = 0 → d.length % 8 = 0 → a % 128 + d.length ≤ 128 → a + d.length ≤ storeSize → a < storeSize → s.partitionUp f = true → s.vacant f p = false → Leaves (exec (.plotStoreMeshWrite f p a d false) s) (fun u =>
      ∀ b : Nat, Mem.byte u.mem.store[f] b = (if storeKey p a ≤ b ∧ b < storeKey p a + d.length then d.getD (b - storeKey p a) 0 else Mem.byte s.mem.store[f] b))) ∧
  (∀ (s : State) (f : FieldId) (p : PlotId) (a : Nat) (d : List Byte), a < storeSize → s.partitionUp f = true → s.vacant f p = false → Leaves (exec (.plotStoreMeshWrite f p a d true) s) (fun u =>
      u = s.storePoison f p (a / 128 * 16) 16)) ∧
  (∀ (s : State) (f : FieldId) (p : PlotId) (a : Nat) (d : List Byte) (x : Bool), storeSize ≤ a ∨ s.partitionUp f = false ∨ s.vacant f p = true → Leaves (exec (.plotStoreMeshWrite f p a d x) s) (fun u =>
      u = s)) ∧
  (∀ (s : State) (f : FieldId) (p : PlotId) (k : StoreKind) (rs2 rs1 : Fin 32) (imm : Int) (c : Bool), s.drillGo f p = true → effAddr ((s.plot f p).drill.x rs1) imm % storeBytes k = 0 → effAddr ((s.plot f p).drill.x rs1) imm < storeEnd → claimFree (s.plot f p).queue (claimOf true (effAddr ((s.plot f p).drill.x rs1) imm) (effAddr ((s.plot f p).drill.x rs1) imm + storeBytes k - 1)) = true → errKind (SMap.get s.mem.storeErr[f] 0 (storeKey p (effAddr ((s.plot f p).drill.x rs1) imm) / 8)) ≤ 1 → Leaves (exec (.drillStore f p k rs2 rs1 imm c) s) (fun u =>
      ∀ b : Nat, Mem.byte u.mem.store[f] b = (if storeKey p (effAddr ((s.plot f p).drill.x rs1) imm) ≤ b ∧ b < storeKey p (effAddr ((s.plot f p).drill.x rs1) imm) + storeBytes k then (leBytes (storeBytes k) ((s.plot f p).drill.x rs2 % 2 ^ (8 * storeBytes k))).getD (b - storeKey p (effAddr ((s.plot f p).drill.x rs1) imm)) 0 else Mem.byte s.mem.store[f] b)))

/-- HEARTBEAT reaches every rim: it clears the count of missed heartbeats, or counts one where an injection point
stops them; with the eighth in a row the rim is in hub-lost operation (R35). HUB_LOST_ENTRY of a rim in service: eight
heartbeats or more are missed, and the rim is in hub-lost operation; of a DARK one nothing changes (R27).
D2D_MODULE_LOSS: the link has one healthy module fewer, and with none left it is down; with none before, nothing
changes (R32). RIM_FATAL_ERROR: the field is DARK; one that was not has its HBM out of service and its plot stores at
zero (R27, R30). Each answers a next state. Derived, the model's choice: that HUB_LOST_ENTRY counts as eight missed
heartbeats and that a command whose condition does not hold changes nothing (assumption log entry 2), that nothing changes in
a DARK field (42), that HBMn_OK reads 0 there (34), and that a rim that fails leaves its plot stores at zero, which R99 and
R160 say of resets only (44). -/
def Obligations.PackageCommandsComplete : Prop :=
  (∀ (s : State) (f : FieldId), Leaves (exec (.heartbeat) s) (fun u =>
      (u.field f).missed = (if (s.field f).hbStopped then (s.field f).missed + 1 else 0) ∧
      (u.field f).hubLost = ((s.field f).hubLost || ((s.field f).hbStopped && decide (8 ≤ (s.field f).missed + 1))))) ∧
  (∀ (s : State) (f : FieldId), s.svc f ≠ svcDark → Leaves (exec (.hubLostEntry f) s) (fun u =>
      (u.field f).missed = max (s.field f).missed 8 ∧
      (u.field f).hubLost = true)) ∧
  (∀ (s : State) (f : FieldId), s.svc f = svcDark → Leaves (exec (.hubLostEntry f) s) (fun u =>
      u = s)) ∧
  (∀ (s : State) (k : Fin 4), 0 < s.hreg Reg.HUB_D2D_STATUS.MODULES 0 k → Leaves (exec (.d2dModuleLoss k) s) (fun u =>
      u.hreg Reg.HUB_D2D_STATUS.MODULES 0 k = (s.hreg Reg.HUB_D2D_STATUS.MODULES 0 k - 1) % 2 ^ 5 ∧
      (s.hreg Reg.HUB_D2D_STATUS.MODULES 0 k = 1 → u.d2dUp k = false))) ∧
  (∀ (s : State) (k : Fin 4), s.hreg Reg.HUB_D2D_STATUS.MODULES 0 k = 0 → Leaves (exec (.d2dModuleLoss k) s) (fun u =>
      u = s)) ∧
  (∀ (s : State) (f : FieldId), Leaves (exec (.rimFatalError f) s) (fun u =>
      u.svc f = svcDark ∧
      (s.svc f ≠ svcDark → u.hreg Reg.HUB_FIELD_STATE.HBM0_OK 0 f = 0 ∧ u.hreg Reg.HUB_FIELD_STATE.HBM1_OK 0 f = 0 ∧
        ∀ a, Mem.byte u.mem.store[f] a = 0)))

/-- TINE_PASS_START: a pass that waits for nothing, no stop row coming first (R673), enters: its rows run, ROWS counts them, its entry is in flight and
holds no claim; one that waits for claims, for its load, for its bin segments (these two at once as well) or for a start
token counts the cycle, and with no pass to start nothing changes. WEIGHT_LOAD: once its claims are free, the weights of the next FRESH pass stand in
the shadow registers, of the format of its WT_FMT, and the pass is marked loaded. TINE_PASS_RETIRE of the oldest
operation in flight, and DEGENERATE_RETIRE of a degenerate one that nothing holds: it leaves the queue and PASSES counts
it. BALLAST_ROW: while no pass is ready to enter, or a stop row waits, one more dummy row enters, or asks for a start token. SAMPLE_PROCESS:
the oldest sample leaves the queue, and the record of its layer tag counts it. The six points of INJ_ARITH: with the
lock open and no point armed the operands are kept, and the point is armed, or cannot fire; else nothing changes. After
THERMTRIP the plot clocks are stopped and none of the pass commands changes anything (R655). Each answers a next state.
Derived, the model's choice: what a command does whose operation waits or is not there (assumption log entries 2 and 20), and
that a pass loads, runs and retires in one command each (19). -/
def Obligations.TileCommandsComplete : Prop :=
  (∀ (s : State) (f : FieldId) (p : PlotId) (e : QEntry) (d md : Nat), s.hub.pwr.trip = false → s.passGate f p = .ready e d md → (s.plot f p).tine.dormant = false → s.stopWaits f p = false → (tmmPair (if tmmFresh d then none else (s.plot f p).tine.active.map (fun w => (w.sel, some w.cls))) d).isSome = true → Leaves (exec (.tinePassStart f p) s) (fun u =>
      u = (s.rowEntered f p).passRun f p e d md ∧
      (∃ y ∈ (u.plot f p).queue, y.qsn = e.qsn ∧ y.phase = .running ∧ y.claims = []) ∧
      u.preg f p Reg.PLT_TINE_COUNT.ROWS = (s.preg f p Reg.PLT_TINE_COUNT.ROWS + tmmM d) % 2 ^ 32)) ∧
  (∀ (s : State) (f : FieldId) (p : PlotId) (e : QEntry) (d md : Nat), s.hub.pwr.trip = false → s.passGate f p = .ready e d md → (s.plot f p).tine.dormant = true → Leaves (exec (.tinePassStart f p) s) (fun u =>
      (p.val, true) ∈ (u.thm f).tokens ∧
      u.preg f p Reg.PLT_TINE_STALL.LOAD_STALL = (s.preg f p Reg.PLT_TINE_STALL.LOAD_STALL + 1) % 2 ^ 32)) ∧
  (∀ (s : State) (f : FieldId) (p : PlotId) (e : QEntry) (d md : Nat), s.passGate f p = .ready e d md → (s.plot f p).tine.dormant = false → s.stopWaits f p = true → Leaves (exec (.tinePassStart f p) s) (fun u =>
      u = s)) ∧
  (∀ (s : State) (f : FieldId) (p : PlotId), s.hub.pwr.trip = false → s.passGate f p = .claim → Leaves (exec (.tinePassStart f p) s) (fun u =>
      u = s.pwrap f p Reg.PLT_QUEUE_STALL.CLAIM)) ∧
  (∀ (s : State) (f : FieldId) (p : PlotId) (bin : Bool), s.hub.pwr.trip = false → s.passGate f p = .load bin → Leaves (exec (.tinePassStart f p) s) (fun u =>
      u = (if bin then (s.pwrap f p Reg.PLT_TINE_STALL.LOAD_STALL).pwrap f p Reg.PLT_TINE_STALL.BIN_WAIT else s.pwrap f p Reg.PLT_TINE_STALL.LOAD_STALL))) ∧
  (∀ (s : State) (f : FieldId) (p : PlotId), s.hub.pwr.trip = false → s.passGate f p = .bin → Leaves (exec (.tinePassStart f p) s) (fun u =>
      u = s.pwrap f p Reg.PLT_TINE_STALL.BIN_WAIT)) ∧
  (∀ (s : State) (f : FieldId) (p : PlotId), s.passGate f p = .idle → Leaves (exec (.tinePassStart f p) s) (fun u =>
      u = s)) ∧
  (∀ (s : State) (f : FieldId) (p : PlotId) (e : QEntry) (d md : Nat), s.hub.pwr.trip = false → (s.plot f p).nextLoad = some e → e.op = .tmm d md → (s.plot f p).tine.shadow = none → syncHeld (entriesBefore (s.plot f p).queue e.qsn) e.op = false → (s.field f).held = false → claimsFree (entriesBefore (s.plot f p).queue e.qsn) e = true → (tmmPair none d).isSome = true → Leaves (exec (.weightLoad f p) s) (fun u =>
      (∃ y ∈ (u.plot f p).queue, y.qsn = e.qsn ∧ y.phase = .loaded) ∧
      (u.plot f p).tine.shadowFor = e.qsn ∧
      (u.plot f p).tine.shadow.map (fun w => (w.sel, w.k, w.n)) = some (dfield d 29 1 % 32, tmmK d, tmmN d))) ∧
  (∀ (s : State) (f : FieldId) (p : PlotId) (e : QEntry) (d md : Nat), s.hub.pwr.trip = false → (s.plot f p).nextLoad = some e → e.op = .tmm d md → (s.plot f p).tine.shadow = none → syncHeld (entriesBefore (s.plot f p).queue e.qsn) e.op = false → (s.field f).held = false → claimsFree (entriesBefore (s.plot f p).queue e.qsn) e = false → Leaves (exec (.weightLoad f p) s) (fun u =>
      u = s.pwrap f p Reg.PLT_QUEUE_STALL.CLAIM)) ∧
  (∀ (s : State) (f : FieldId) (p : PlotId), (s.plot f p).nextLoad = none ∨ (s.plot f p).tine.shadow.isSome = true ∨ (s.field f).held = true → Leaves (exec (.weightLoad f p) s) (fun u =>
      u = s)) ∧
  (∀ (s : State) (f : FieldId) (p : PlotId) (e : QEntry) (d md : Nat), s.hub.pwr.trip = false → (s.plot f p).oldestTmm = some e → e.op = .tmm d md → e.phase = .running → Leaves (exec (.tinePassRetire f p) s) (fun u =>
      (u.plot f p).queue = (s.plot f p).queue.filter (fun y => y.qsn ≠ e.qsn) ∧
      u.preg f p Reg.PLT_TINE_COUNT.PASSES = (s.preg f p Reg.PLT_TINE_COUNT.PASSES + 1) % 2 ^ 32)) ∧
  (∀ (s : State) (f : FieldId) (p : PlotId) (e : QEntry) (d md : Nat), (s.plot f p).oldestTmm = some e → e.op = .tmm d md → e.phase ≠ .running → Leaves (exec (.tinePassRetire f p) s) (fun u =>
      u = s)) ∧
  (∀ (s : State) (f : FieldId) (p : PlotId) (e : QEntry) (d md : Nat), s.hub.pwr.trip = false → (s.plot f p).oldestTmm = some e → e.op = .tmm d md → tmmDegenerate d = true → syncHeld (entriesBefore (s.plot f p).queue e.qsn) e.op = false → (s.field f).held = false → (tmmZeroRows d = true → passSegsFree (entriesBefore (s.plot f p).queue e.qsn) d md = true ∧ s.hostHolds f p e.qsn d md = false) → Leaves (exec (.degenerateRetire f p) s) (fun u =>
      (u.plot f p).queue = (s.plot f p).queue.filter (fun y => y.qsn ≠ e.qsn) ∧
      u.preg f p Reg.PLT_TINE_COUNT.PASSES = (s.preg f p Reg.PLT_TINE_COUNT.PASSES + 1) % 2 ^ 32)) ∧
  (∀ (s : State) (f : FieldId) (p : PlotId) (e : QEntry) (d md : Nat), s.hub.pwr.trip = false → (s.plot f p).oldestTmm = some e → e.op = .tmm d md → tmmZeroRows d = true → syncHeld (entriesBefore (s.plot f p).queue e.qsn) e.op = false → (s.field f).held = false → passSegsFree (entriesBefore (s.plot f p).queue e.qsn) d md = false ∨ s.hostHolds f p e.qsn d md = true → Leaves (exec (.degenerateRetire f p) s) (fun u =>
      u = s.pwrap f p Reg.PLT_TINE_STALL.BIN_WAIT)) ∧
  (∀ (s : State) (f : FieldId) (p : PlotId) (t : TineId), s.passGate f p ∈ [.idle, .claim, .load false, .load true, .bin] ∨ s.stopWaits f p = true → s.ballastOk f p = true → s.partitionUp f = true → Leaves (exec (.ballastRow f p t) s) (fun u =>
      if (s.plot f p).tine.dormant then (p.val, true) ∈ (u.thm f).tokens
      else u = s.updPlot f p (fun P => { P with tine := { P.tine with ballast := P.tine.ballast + 1 } }))) ∧
  (∀ (s : State) (f : FieldId) (p : PlotId) (t : TineId) (e : QEntry) (d md : Nat), (s.passGate f p = .ready e d md ∧ s.stopWaits f p = false) ∨ s.ballastOk f p = false ∨ s.partitionUp f = false → Leaves (exec (.ballastRow f p t) s) (fun u =>
      u = s)) ∧
  (∀ (s : State) (f : FieldId) (p : PlotId) (x : Sample) (l : List Sample), s.hub.pwr.trip = false → (s.plot f p).queue.any (fun e => decide (e.op.unit = 1) && decide (e.phase ≠ .waiting)) = false → (s.plot f p).samples = x :: l → (SMap.find (s.field f).drift.recs x.tag).isSome = true ∨ (s.field f).drift.recs.length < driftSize → Leaves (exec (.sampleProcess f p) s) (fun u =>
      (u.plot f p).samples = l ∧
      (SMap.find (u.field f).drift.recs x.tag).map DriftRec.samples = some (satAdd 32 (((SMap.find (s.field f).drift.recs x.tag).map DriftRec.samples).getD 0) 1))) ∧
  (∀ (s : State) (f : FieldId) (p : PlotId) (x : Sample) (l : List Sample), s.hub.pwr.trip = false → (s.plot f p).queue.any (fun e => decide (e.op.unit = 1) && decide (e.phase ≠ .waiting)) = false → (s.plot f p).samples = x :: l → SMap.find (s.field f).drift.recs x.tag = none → driftSize ≤ (s.field f).drift.recs.length → Leaves (exec (.sampleProcess f p) s) (fun u =>
      (u.plot f p).samples = l ∧
      (u.field f).drift.unrecorded = satAdd 32 (s.field f).drift.unrecorded 1)) ∧
  (∀ (s : State) (f : FieldId) (p : PlotId), (s.plot f p).queue.any (fun e => decide (e.op.unit = 1) && decide (e.phase ≠ .waiting)) = true ∨ (s.plot f p).samples = [] → Leaves (exec (.sampleProcess f p) s) (fun u =>
      u = s)) ∧
  (∀ (s : State) (f : FieldId) (p : PlotId) (t : TineId) (c : Fin 32) (b : Fin 64) (lane : Bool), s.injOpenAt f = true → s.freg f Reg.INJ_ARITH.ARM ≠ 1 → ∀ x ∈ ([(Instr.injWitnessLane f p t c b lane, 1), (Instr.injWitnessWeight f p t c b lane, 2), (Instr.injScarecrowBias f p t c b lane, 3), (Instr.injBinSingle f p t c b lane, 4),
    (Instr.injBinDouble f p t c b lane, 5), (Instr.injClassReport f p t c b lane, 6)] : List (Instr × Nat)),
    Leaves (exec x.1 s) (fun u =>
      u.freg f Reg.INJ_ARITH.POINT = x.2 ∧ u.freg f Reg.INJ_ARITH.PLOT = p ∧ u.freg f Reg.INJ_ARITH.TINE = t ∧
      u.freg f Reg.INJ_ARITH.COLUMN = c ∧ u.freg f Reg.INJ_ARITH.BIT = b ∧ u.freg f Reg.INJ_ARITH.LANE = b2n lane ∧
      if injArithRange x.2 b = true ∧ s.vacant f p = false then u.freg f Reg.INJ_ARITH.ARM = 1
      else u.freg f Reg.INJ_ARITH.ARM = 0 ∧ u.freg f Reg.INJ_ARITH.NOFIRE = 1)) ∧
  (∀ (s : State) (f : FieldId) (p : PlotId) (t : TineId) (c : Fin 32) (b : Fin 64) (lane : Bool), s.injOpenAt f = false ∨ s.freg f Reg.INJ_ARITH.ARM = 1 → ∀ x ∈ [Instr.injWitnessLane f p t c b lane, Instr.injWitnessWeight f p t c b lane, Instr.injScarecrowBias f p t c b lane, Instr.injBinSingle f p t c b lane,
    Instr.injBinDouble f p t c b lane, Instr.injClassReport f p t c b lane],
    Leaves (exec x s) (fun u => u = s)) ∧
  (∀ (s : State) (f : FieldId) (p : PlotId), s.hub.pwr.trip = true → ∀ x ∈ [Instr.weightLoad f p, Instr.tinePassStart f p, Instr.tinePassRetire f p, Instr.degenerateRetire f p, Instr.sampleProcess f p], Leaves (exec x s) (fun u => u = s))

/-- While a drill executes: DRILL_INSTRUCTION fetches the instruction at its pc and executes it; one that stands in the
fetch buffer is executed as its halfwords decode, an arithmetic one writing its register and moving the pc on. A scalar
load writes its register with the bytes of the plot store, a bin word, bytes of the boot ROM or a register of the plot,
and a store writes the plot store, a bin or a register; the pc moves on. EBREAK halts it with its two pcs; ECALL traps
with cause 11, and while IN_TRAP is set faults instead; MRET restores the pc and the interrupt enable; WFI waits unless
an interrupt is pending; FENCE only moves on, and FENCE_I also empties the fetch buffer; CQ_POP takes the oldest record
of the completion log, and at any other address is a load. While it does not execute, none of them changes anything.
Each answers a next state. Derived, the model's choice: that a command of a drill that does not execute changes nothing
(assumption log entry 2), that the fetch buffer is one block of 64 bytes (39), and the issue costs by which mcycle goes on (21). -/
def Obligations.DrillExecutionCompletes : Prop :=
  (∀ (s : State) (f : FieldId) (p : PlotId), s.drillGo f p = true → Leaves (exec (.drillInstruction f p) s) (fun u =>
      u = s.drillStep f p)) ∧
  (∀ (s : State) (f : FieldId) (p : PlotId) (h : Nat), s.drillGo f p = true → (s.plot f p).drill.fetchBase = (s.plot f p).drill.pc / 64 * 64 → SMap.find (s.plot f p).drill.fetchBuf (s.plot f p).drill.pc = some h → h % 4 ≠ 3 → Leaves (exec (.drillInstruction f p) s) (fun u =>
      u = s.drillExec f p (decode16 h) 2 h)) ∧
  (∀ (s : State) (f : FieldId) (p : PlotId) (h g : Nat), s.drillGo f p = true → (s.plot f p).drill.fetchBase = (s.plot f p).drill.pc / 64 * 64 → (s.plot f p).drill.pc % 64 < 62 → (s.plot f p).drill.pc + 2 < 2 ^ 32 → SMap.find (s.plot f p).drill.fetchBuf (s.plot f p).drill.pc = some h → h % 4 = 3 → SMap.find (s.plot f p).drill.fetchBuf ((s.plot f p).drill.pc + 2) = some g → Leaves (exec (.drillInstruction f p) s) (fun u =>
      u = s.drillExec f p (decode32 (h + g * 65536)) 4 (h + g * 65536))) ∧
  (∀ (s : State) (f : FieldId) (p : PlotId) (h : Nat) (op : AluOp) (rd rs1 rs2 : Nat), s.drillGo f p = true → (s.plot f p).drill.fetchBase = (s.plot f p).drill.pc / 64 * 64 → SMap.find (s.plot f p).drill.fetchBuf (s.plot f p).drill.pc = some h → h % 4 ≠ 3 → decode16 h = .alu op rd rs1 rs2 → Leaves (exec (.drillInstruction f p) s) (fun u =>
      (u.plot f p).drill.x rd = (if rd = 0 then 0 else op.eval ((s.plot f p).drill.x rs1) ((s.plot f p).drill.x rs2) % 2 ^ 32) ∧
      (u.plot f p).drill.pc = ((s.plot f p).drill.pc + 2) % 2 ^ 32)) ∧
  (∀ (s : State) (f : FieldId) (p : PlotId) (k : LoadKind) (rd rs1 : Fin 32) (imm : Int) (c : Bool) (a : Nat), s.drillGo f p = true → effAddr ((s.plot f p).drill.x rs1) imm = a → a % loadBytes k = 0 → a < storeEnd → claimFree (s.plot f p).queue (claimOf false a (a + loadBytes k - 1)) = true → errKind (SMap.get s.mem.storeErr[f] 0 (storeKey p (a / 8 * 8) / 8)) ≤ 1 → s.injArmedAt f injMem 4 p = false → s.injArmedAt f injMem 5 p = false → Leaves (exec (.drillLoad f p k rd rs1 imm c) s) (fun u =>
      (u.plot f p).drill.x rd = (if (rd : Nat) = 0 then 0 else loadExtend k (leNat (Mem.read s.mem.store[f] (storeKey p a) (loadBytes k))) % 2 ^ 32) ∧
      (u.plot f p).drill.pc = ((s.plot f p).drill.pc + insLen c) % 2 ^ 32)) ∧
  (∀ (s : State) (f : FieldId) (p : PlotId) (rd rs1 : Fin 32) (imm : Int) (c : Bool) (a : Nat), s.drillGo f p = true → effAddr ((s.plot f p).drill.x rs1) imm = a → a % 4 = 0 → storeEnd ≤ a → a < 0x440000 → claimFree (s.plot f p).queue (claimOf false a (a + 3)) = true → (s.plot f p).binFree a = true → s.binPoisoned f p ((a - 0x400000) / 0x10000) ((a - 0x400000) % 0x10000 / 128) = false → errKind (SMap.get s.mem.binErr[f] 0 (binKey p ((a - 0x400000) / 0x10000) ((a - 0x400000) % 0x10000 / 128) (a % 128 / 4))) ≤ 1 → Leaves (exec (.drillLoad f p .lw rd rs1 imm c) s) (fun u =>
      (u.plot f p).drill.x rd = (if (rd : Nat) = 0 then 0 else SMap.get s.mem.bin[f] 0 (binKey p ((a - 0x400000) / 0x10000) ((a - 0x400000) % 0x10000 / 128) (a % 128 / 4)) % 2 ^ 32) ∧
      (u.plot f p).drill.pc = ((s.plot f p).drill.pc + insLen c) % 2 ^ 32)) ∧
  (∀ (s : State) (f : FieldId) (p : PlotId) (k : LoadKind) (rd rs1 : Fin 32) (imm : Int) (c : Bool) (a : Nat), s.drillGo f p = true → effAddr ((s.plot f p).drill.x rs1) imm = a → a % loadBytes k = 0 → 0x800000 ≤ a → a < 0x804000 → Leaves (exec (.drillLoad f p k rd rs1 imm c) s) (fun u =>
      (u.plot f p).drill.x rd = (if (rd : Nat) = 0 then 0 else loadExtend k (leNat (bootRomBytes a (loadBytes k))) % 2 ^ 32) ∧
      (u.plot f p).drill.pc = ((s.plot f p).drill.pc + insLen c) % 2 ^ 32)) ∧
  (∀ (s : State) (f : FieldId) (p : PlotId) (rd rs1 : Fin 32) (imm : Int) (c : Bool) (a : Nat), s.drillGo f p = true → effAddr ((s.plot f p).drill.x rs1) imm = a → a % 4 = 0 → 0xC00000 ≤ a → a < 0xC01000 → Leaves (exec (.drillLoad f p .lw rd rs1 imm c) s) (fun u =>
      (u.plot f p).drill.x rd = (if (rd : Nat) = 0 then 0 else s.plotRead f p (a - 0xC00000) 4 % 2 ^ 32) ∧
      (u.plot f p).drill.pc = ((s.plot f p).drill.pc + insLen c) % 2 ^ 32)) ∧
  (∀ (s : State) (f : FieldId) (p : PlotId) (k : StoreKind) (rs2 rs1 : Fin 32) (imm : Int) (c : Bool) (a : Nat), s.drillGo f p = true → effAddr ((s.plot f p).drill.x rs1) imm = a → a % storeBytes k = 0 → a < storeEnd → claimFree (s.plot f p).queue (claimOf true a (a + storeBytes k - 1)) = true → Leaves (exec (.drillStore f p k rs2 rs1 imm c) s) (fun u =>
      (u.plot f p).drill = (s.plot f p).drill.retire (insLen c) 1 ∧
      u = (s.storeWrite f p a (leBytes (storeBytes k) ((s.plot f p).drill.x rs2 % 2 ^ (8 * storeBytes k))) rqDrill).updDrill f p (fun d => d.retire (insLen c) 1))) ∧
  (∀ (s : State) (f : FieldId) (p : PlotId) (rs2 rs1 : Fin 32) (imm : Int) (c : Bool) (a : Nat), s.drillGo f p = true → effAddr ((s.plot f p).drill.x rs1) imm = a → a % 4 = 0 → storeEnd ≤ a → a < 0x440000 → claimFree (s.plot f p).queue (claimOf true a (a + 3)) = true → (s.plot f p).binFree a = true → Leaves (exec (.drillStore f p .sw rs2 rs1 imm c) s) (fun u =>
      (u.plot f p).drill = (s.plot f p).drill.retire (insLen c) 1 ∧
      u = (s.binWrite f p ((a - 0x400000) / 0x10000) ((a - 0x400000) % 0x10000 / 128) (a % 128 / 4) ((s.plot f p).drill.x rs2 % 2 ^ 32)).updDrill f p (fun d => d.retire (insLen c) 1))) ∧
  (∀ (s : State) (f : FieldId) (p : PlotId) (rs2 rs1 : Fin 32) (imm : Int) (c : Bool) (a : Nat), s.drillGo f p = true → effAddr ((s.plot f p).drill.x rs1) imm = a → a % 4 = 0 → 0xC00000 ≤ a → a < 0xC01000 → Leaves (exec (.drillStore f p .sw rs2 rs1 imm c) s) (fun u =>
      u = (s.plotWrite f p true (a - 0xC00000) 4 ((s.plot f p).drill.x rs2 % 2 ^ 32)).updDrill f p (fun d => d.retire (insLen c) 1))) ∧
  (∀ (s : State) (f : FieldId) (p : PlotId) (c : Bool), s.drillGo f p = true → Leaves (exec (.ebreak f p c) s) (fun u =>
      (u.plot f p).drill.st = .halted ∧
      (u.plot f p).drill.haltPc = (s.plot f p).drill.pc ∧
      (u.plot f p).drill.resumePc = ((s.plot f p).drill.pc + insLen c) % 2 ^ 32)) ∧
  (∀ (s : State) (f : FieldId) (p : PlotId), s.drillGo f p = true → Leaves (exec (.ecall f p) s) (fun u =>
      if (s.plot f p).drill.inTrap then (u.plot f p).drill.st = .faulted ∧ (u.plot f p).drill.faultCause = 11 ∧ (u.plot f p).drill.haltPc = (s.plot f p).drill.pc
      else (u.plot f p).drill = (s.plot f p).drill.trap (s.plot f p).drill.pc 11 0)) ∧
  (∀ (s : State) (f : FieldId) (p : PlotId), s.drillGo f p = true → Leaves (exec (.mret f p) s) (fun u =>
      (u.plot f p).drill.pc = (s.plot f p).drill.mepc ∧
      (u.plot f p).drill.mie = (s.plot f p).drill.mpie ∧
      (u.plot f p).drill.mpie = true ∧
      (u.plot f p).drill.inTrap = false)) ∧
  (∀ (s : State) (f : FieldId) (p : PlotId), s.drillGo f p = true → Leaves (exec (.wfi f p) s) (fun u =>
      (u.plot f p).drill.pc = ((s.plot f p).drill.pc + 4) % 2 ^ 32 ∧
      ((u.plot f p).drill.st = .waiting ↔ (s.plot f p).pendingInts = []))) ∧
  (∀ (s : State) (f : FieldId) (p : PlotId), s.drillGo f p = true → Leaves (exec (.fence f p) s) (fun u =>
      (u.plot f p).drill = (s.plot f p).drill.retire 4 1)) ∧
  (∀ (s : State) (f : FieldId) (p : PlotId), s.drillGo f p = true → Leaves (exec (.fenceI f p) s) (fun u =>
      (u.plot f p).drill.fetchBuf = [] ∧
      (u.plot f p).drill.pc = ((s.plot f p).drill.pc + 4) % 2 ^ 32)) ∧
  (∀ (s : State) (f : FieldId) (p : PlotId) (rd rs1 : Fin 32) (imm : Int) (c : Bool), s.drillGo f p = true → effAddr ((s.plot f p).drill.x rs1) imm = 0xC000AC → Leaves (exec (.cqPop f p rd rs1 imm c) s) (fun u =>
      (u.plot f p).cq = (s.plot f p).cq.tail ∧
      (u.plot f p).drill.x rd = (if (rd : Nat) = 0 then 0 else s.plotRead f p 0xAC 4 % 2 ^ 32) ∧
      (u.plot f p).drill.pc = ((s.plot f p).drill.pc + insLen c) % 2 ^ 32)) ∧
  (∀ (s : State) (f : FieldId) (p : PlotId) (rd rs1 : Fin 32) (imm : Int) (c : Bool), s.drillGo f p = true → effAddr ((s.plot f p).drill.x rs1) imm ≠ 0xC000AC → exec (.cqPop f p rd rs1 imm c) s = exec (.drillLoad f p .lw rd rs1 imm c) s) ∧
  (∀ (s : State) (f : FieldId) (p : PlotId) (k : LoadKind) (m : StoreKind) (rd rs1 : Fin 32) (imm : Int) (c : Bool), s.drillGo f p = false → ∀ x ∈ [Instr.drillInstruction f p, Instr.drillLoad f p k rd rs1 imm c, Instr.drillStore f p m rd rs1 imm c, Instr.ebreak f p c, Instr.ecall f p, Instr.mret f p, Instr.wfi f p, Instr.fence f p, Instr.fenceI f p, Instr.cqPop f p rd rs1 imm c],
    Leaves (exec x s) (fun u => u = s))

/-- DRILL_HOLD_SET: HELD at once, no halt pending, the boot unit idle. DRILL_HOLD_CLEAR in a held plot in service:
RUNNING at 0x00800000, and the boot ROM delivers the image unless PLT_BOOT gives it none; in any other plot nothing
changes. HALT_REQ is noted in RUNNING and WAITING, and in no other state; HALT_REQ_HONOUR halts at the pc; RESUME runs
on at the resume pc. WFI_WAKE and TWAIT_END end the waits, TWAIT_END with the count of queued instructions in rd.
DRILL_INTERRUPT takes one of the pending interrupts. Where there is nothing to honour, resume, wake or take, nothing
changes, and none of HALT_REQ_HONOUR, WFI_WAKE and TWAIT_END does anything after THERMTRIP, which stops the plot clocks
(R655). Each answers a next state. Derived, the model's choice: that a command whose condition does not hold changes nothing
(assumption log entry 2), that DRILL_HOLD_CLEAR starts a drill from HELD only (39), and which pending interrupt is taken,
which is free (22). -/
def Obligations.DrillControlCompletes : Prop :=
  (∀ (s : State) (f : FieldId) (p : PlotId), Leaves (exec (.drillHoldSet f p) s) (fun u =>
      (u.plot f p).drill.st = .held ∧
      (u.plot f p).drill.haltReq = false ∧
      (u.plot f p).boot = BootUnit.reset)) ∧
  (∀ (s : State) (f : FieldId) (p : PlotId), s.vacant f p = false → s.partitionUp f = true → (s.plot f p).drill.st = .held → Leaves (exec (.drillHoldClear f p) s) (fun u =>
      (u.plot f p).drill.st = .running ∧
      (u.plot f p).drill.pc = 0x800000 ∧
      (u.plot f p).boot.active = decide (s.preg f p Reg.PLT_BOOT.NONE ≠ 1))) ∧
  (∀ (s : State) (f : FieldId) (p : PlotId), s.vacant f p = true ∨ s.partitionUp f = false ∨ (s.plot f p).drill.st ≠ .held → Leaves (exec (.drillHoldClear f p) s) (fun u =>
      u.plot f p = s.plot f p)) ∧
  (∀ (s : State) (f : FieldId) (p : PlotId), (s.plot f p).drill.st = .running ∨ (s.plot f p).drill.st = .waiting → Leaves (exec (.haltReq f p) s) (fun u =>
      (u.plot f p).drill = { (s.plot f p).drill with haltReq := true })) ∧
  (∀ (s : State) (f : FieldId) (p : PlotId), (s.plot f p).drill.st ≠ .running → (s.plot f p).drill.st ≠ .waiting → Leaves (exec (.haltReq f p) s) (fun u =>
      (u.plot f p).drill = (s.plot f p).drill)) ∧
  (∀ (s : State) (f : FieldId) (p : PlotId), s.hub.pwr.trip = false → (s.plot f p).drill.haltReq = true → (s.plot f p).drill.st = .running ∨ (s.plot f p).drill.st = .waiting → Leaves (exec (.haltReqHonour f p) s) (fun u =>
      (u.plot f p).drill.st = .halted ∧
      (u.plot f p).drill.haltPc = (s.plot f p).drill.pc ∧
      (u.plot f p).drill.resumePc = (s.plot f p).drill.pc ∧
      (u.plot f p).drill.haltReq = false)) ∧
  (∀ (s : State) (f : FieldId) (p : PlotId), (s.plot f p).drill.haltReq = false → Leaves (exec (.haltReqHonour f p) s) (fun u =>
      u = s)) ∧
  (∀ (s : State) (f : FieldId) (p : PlotId), (s.plot f p).drill.st = .halted → Leaves (exec (.resume f p) s) (fun u =>
      (u.plot f p).drill.st = .running ∧
      (u.plot f p).drill.pc = (s.plot f p).drill.resumePc)) ∧
  (∀ (s : State) (f : FieldId) (p : PlotId), (s.plot f p).drill.st ≠ .halted → Leaves (exec (.resume f p) s) (fun u =>
      (u.plot f p).drill = (s.plot f p).drill)) ∧
  (∀ (s : State) (f : FieldId) (p : PlotId), s.hub.pwr.trip = false → (s.plot f p).drill.st = .waiting → (s.plot f p).drill.wait = .wfi → (s.plot f p).pendingInts ≠ [] → Leaves (exec (.wfiWake f p) s) (fun u =>
      (u.plot f p).drill.st = .running ∧
      (u.plot f p).drill.wait = .none ∧
      (u.plot f p).drill.pc = (s.plot f p).drill.pc)) ∧
  (∀ (s : State) (f : FieldId) (p : PlotId), (s.plot f p).drill.st ≠ .waiting ∨ (s.plot f p).drill.wait ≠ .wfi ∨ (s.plot f p).pendingInts = [] → Leaves (exec (.wfiWake f p) s) (fun u =>
      u = s)) ∧
  (∀ (s : State) (f : FieldId) (p : PlotId) (rd x : Nat), s.hub.pwr.trip = false → (s.plot f p).drill.st = .waiting → (s.plot f p).drill.wait = .twait rd x → (s.plot f p).waitOver x = true → Leaves (exec (.twaitEnd f p) s) (fun u =>
      (u.plot f p).drill.st = .running ∧
      (u.plot f p).drill.pc = ((s.plot f p).drill.pc + 4) % 2 ^ 32 ∧
      (u.plot f p).drill.x rd = if rd = 0 then 0 else (s.plot f p).queue.length)) ∧
  (∀ (s : State) (f : FieldId) (p : PlotId), (s.plot f p).drill.st ≠ .waiting → Leaves (exec (.twaitEnd f p) s) (fun u =>
      u = s)) ∧
  (∀ (s : State) (f : FieldId) (p : PlotId), s.hub.pwr.trip = true → ∀ x ∈ [Instr.haltReqHonour f p, Instr.wfiWake f p, Instr.twaitEnd f p], Leaves (exec x s) (fun u => u = s)) ∧
  (∀ (s : State) (f : FieldId) (p : PlotId), (s.plot f p).drill.st = .running ∨ (s.plot f p).drill.st = .waiting → (s.plot f p).drill.mie = true → (s.plot f p).drill.haltReq = false → (s.field f).held = false → s.partitionUp f = true → (s.plot f p).pendingInts ≠ [] → Leaves (exec (.drillInterrupt f p) s) (fun u =>
      ∃ i ∈ (s.plot f p).pendingInts, (u.plot f p).drill = (s.plot f p).drill.trap (s.plot f p).drill.pc (2 ^ 31 + i) 0)) ∧
  (∀ (s : State) (f : FieldId) (p : PlotId), (s.plot f p).drill.mie = false ∨ (s.plot f p).pendingInts = [] → Leaves (exec (.drillInterrupt f p) s) (fun u =>
      u = s))

/-- While a drill executes: TDLD loads a descriptor register with the 64 bytes at a free aligned address, TDSET sets one
word of it, TDGET reads one. With a place in the queue, TMM, TVEC, TFENCE, TSCDRAIN, TRFENCE and, with the descriptor
it reads, TXFER write the next QSN to rd, and the instruction enters the queue with it; a TMM, TVEC or TXFER that is
refused does not, and its refusal is logged. With no place the drill waits, and FULL counts the cycle. TWAIT returns the
queue count at once where its wait is over, and waits otherwise. While it does not execute, none of them changes
anything. Each answers a next state. Derived, the model's choice: that a command of a drill that does not execute changes
nothing (assumption log entry 2), and that a waiting instruction counts one of FULL (20). -/
def Obligations.TileIssueCompletes : Prop :=
  (∀ (s : State) (f : FieldId) (p : PlotId) (dr : Fin 8) (rs1 : Fin 32) (a : Nat), s.drillGo f p = true → (s.plot f p).drill.x rs1 = a → a % 64 = 0 → a < storeEnd → claimFree (s.plot f p).queue (claimOf false a (a + 63)) = true → (List.range 8).all (fun i => decide (errKind (SMap.get s.mem.storeErr[f] 0 (storeKey p a / 8 + i)) ≤ 1)) = true → s.injArmedAt f injMem 4 p = false → s.injArmedAt f injMem 5 p = false → Leaves (exec (.tdld f p dr rs1) s) (fun u =>
      SMap.get (u.plot f p).dr 0 dr = leNat (Mem.read s.mem.store[f] (storeKey p a) 64) ∧
      (u.plot f p).drill.pc = ((s.plot f p).drill.pc + 4) % 2 ^ 32)) ∧
  (∀ (s : State) (f : FieldId) (p : PlotId) (dr : Fin 8) (rs1 : Fin 32) (w : Fin 16), s.drillGo f p = true → Leaves (exec (.tdset f p dr rs1 w) s) (fun u =>
      SMap.get (u.plot f p).dr 0 dr = setBits (SMap.get (s.plot f p).dr 0 dr) (32 * w) 32 ((s.plot f p).drill.x rs1) ∧
      (u.plot f p).drill.pc = ((s.plot f p).drill.pc + 4) % 2 ^ 32)) ∧
  (∀ (s : State) (f : FieldId) (p : PlotId) (rd : Fin 32) (dr : Fin 8) (w : Fin 16), s.drillGo f p = true → Leaves (exec (.tdget f p rd dr w) s) (fun u =>
      (u.plot f p).drill.x rd = (if (rd : Nat) = 0 then 0 else bits (SMap.get (s.plot f p).dr 0 dr) (32 * w) 32 % 2 ^ 32) ∧
      (u.plot f p).drill.pc = ((s.plot f p).drill.pc + 4) % 2 ^ 32)) ∧
  (∀ (s : State) (f : FieldId) (p : PlotId) (rd : Fin 32) (dr : Fin 8) (rs2 : Fin 32) (int : Bool) (d md : Nat), s.drillGo f p = true → (s.plot f p).queue.length < queueSize → SMap.get (s.plot f p).dr 0 dr = d → (s.plot f p).drill.x rs2 = md → tmmRefusal (s.plot f p).loadAtIssue d md = none → Leaves (exec (.tmm f p rd dr rs2 int) s) (fun u =>
      (u.plot f p).drill.x rd = (if (rd : Nat) = 0 then 0 else (s.plot f p).nextQsn % 2 ^ 32) ∧
      (u.plot f p).drill.pc = ((s.plot f p).drill.pc + 4) % 2 ^ 32 ∧
      (u.plot f p).nextQsn = ((s.plot f p).nextQsn + 1) % 2 ^ 16 ∧
      (u.plot f p).queue.dropLast = (s.plot f p).queue ∧
      (u.plot f p).queue.getLast?.map (fun e => (e.qsn, e.op, e.phase, e.int)) = some ((s.plot f p).nextQsn, .tmm d md, .waiting, int))) ∧
  (∀ (s : State) (f : FieldId) (p : PlotId) (rd : Fin 32) (dr : Fin 8) (rs2 : Fin 32) (int : Bool) (d md c : Nat), s.drillGo f p = true → (s.plot f p).queue.length < queueSize → SMap.get (s.plot f p).dr 0 dr = d → (s.plot f p).drill.x rs2 = md → tmmRefusal (s.plot f p).loadAtIssue d md = some c → (s.plot f p).cq.length < cqSize → Leaves (exec (.tmm f p rd dr rs2 int) s) (fun u =>
      (u.plot f p).drill.x rd = (if (rd : Nat) = 0 then 0 else (s.plot f p).nextQsn % 2 ^ 32) ∧
      (u.plot f p).drill.pc = ((s.plot f p).drill.pc + 4) % 2 ^ 32 ∧
      (u.plot f p).nextQsn = ((s.plot f p).nextQsn + 1) % 2 ^ 16 ∧
      (u.plot f p).queue = (s.plot f p).queue ∧
      (u.plot f p).cq = (s.plot f p).cq ++ [cqRecord (s.plot f p).nextQsn (QOp.tag (.tmm d md)) c 0 0 int])) ∧
  (∀ (s : State) (f : FieldId) (p : PlotId) (rd : Fin 32) (dr : Fin 8) (rs2 : Fin 32) (int : Bool) (d md : Nat), s.drillGo f p = true → (s.plot f p).queue.length < queueSize → SMap.get (s.plot f p).dr 0 dr = d → (s.plot f p).drill.x rs2 = md → tvecRefusal d md = none → Leaves (exec (.tvec f p rd dr rs2 int) s) (fun u =>
      (u.plot f p).drill.x rd = (if (rd : Nat) = 0 then 0 else (s.plot f p).nextQsn % 2 ^ 32) ∧
      (u.plot f p).drill.pc = ((s.plot f p).drill.pc + 4) % 2 ^ 32 ∧
      (u.plot f p).nextQsn = ((s.plot f p).nextQsn + 1) % 2 ^ 16 ∧
      (u.plot f p).queue.dropLast = (s.plot f p).queue ∧
      (u.plot f p).queue.getLast?.map (fun e => (e.qsn, e.op, e.phase, e.int)) = some ((s.plot f p).nextQsn, .tvec d md, .waiting, int))) ∧
  (∀ (s : State) (f : FieldId) (p : PlotId) (rd : Fin 32) (dr : Fin 8) (rs2 : Fin 32) (int : Bool) (d md c : Nat), s.drillGo f p = true → (s.plot f p).queue.length < queueSize → SMap.get (s.plot f p).dr 0 dr = d → (s.plot f p).drill.x rs2 = md → tvecRefusal d md = some c → (s.plot f p).cq.length < cqSize → Leaves (exec (.tvec f p rd dr rs2 int) s) (fun u =>
      (u.plot f p).drill.x rd = (if (rd : Nat) = 0 then 0 else (s.plot f p).nextQsn % 2 ^ 32) ∧
      (u.plot f p).drill.pc = ((s.plot f p).drill.pc + 4) % 2 ^ 32 ∧
      (u.plot f p).nextQsn = ((s.plot f p).nextQsn + 1) % 2 ^ 16 ∧
      (u.plot f p).queue = (s.plot f p).queue ∧
      (u.plot f p).cq = (s.plot f p).cq ++ [cqRecord (s.plot f p).nextQsn (QOp.tag (.tvec d md)) c 0 1 int])) ∧
  (∀ (s : State) (f : FieldId) (p : PlotId) (rd : Fin 32) (int : Bool), s.drillGo f p = true → (s.plot f p).queue.length < queueSize → Leaves (exec (.tfence f p rd int) s) (fun u =>
      (u.plot f p).drill.x rd = (if (rd : Nat) = 0 then 0 else (s.plot f p).nextQsn % 2 ^ 32) ∧
      (u.plot f p).drill.pc = ((s.plot f p).drill.pc + 4) % 2 ^ 32 ∧
      (u.plot f p).nextQsn = ((s.plot f p).nextQsn + 1) % 2 ^ 16 ∧
      (u.plot f p).queue.dropLast = (s.plot f p).queue ∧
      (u.plot f p).queue.getLast?.map (fun e => (e.qsn, e.op, e.phase, e.int)) = some ((s.plot f p).nextQsn, .tfence, .waiting, int))) ∧
  (∀ (s : State) (f : FieldId) (p : PlotId) (rd : Fin 32) (int : Bool), s.drillGo f p = true → (s.plot f p).queue.length < queueSize → Leaves (exec (.tscdrain f p rd int) s) (fun u =>
      (u.plot f p).drill.x rd = (if (rd : Nat) = 0 then 0 else (s.plot f p).nextQsn % 2 ^ 32) ∧
      (u.plot f p).drill.pc = ((s.plot f p).drill.pc + 4) % 2 ^ 32 ∧
      (u.plot f p).nextQsn = ((s.plot f p).nextQsn + 1) % 2 ^ 16 ∧
      (u.plot f p).queue.dropLast = (s.plot f p).queue ∧
      (u.plot f p).queue.getLast?.map (fun e => (e.qsn, e.op, e.phase, e.int)) = some ((s.plot f p).nextQsn, .tscdrain, .waiting, int))) ∧
  (∀ (s : State) (f : FieldId) (p : PlotId) (rd rs1 : Fin 32) (int : Bool), s.drillGo f p = true → (s.plot f p).queue.length < queueSize → Leaves (exec (.trfence f p rd rs1 int) s) (fun u =>
      (u.plot f p).drill.x rd = (if (rd : Nat) = 0 then 0 else (s.plot f p).nextQsn % 2 ^ 32) ∧
      (u.plot f p).drill.pc = ((s.plot f p).drill.pc + 4) % 2 ^ 32 ∧
      (u.plot f p).nextQsn = ((s.plot f p).nextQsn + 1) % 2 ^ 16 ∧
      (u.plot f p).queue.dropLast = (s.plot f p).queue ∧
      (u.plot f p).queue.getLast?.map (fun e => (e.qsn, e.op, e.phase, e.int)) = some ((s.plot f p).nextQsn, .trfence ((s.plot f p).drill.x rs1), .waiting, int))) ∧
  (∀ (s : State) (f : FieldId) (p : PlotId) (rd rs1 : Fin 32) (a d : Nat), s.drillGo f p = true → (s.plot f p).drill.x rs1 = a → a % 64 = 0 → a < storeEnd → (s.plot f p).queue.length < queueSize → claimFree (s.plot f p).queue (claimOf false a (a + 63)) = true → (List.range 8).all (fun i => decide (errKind (SMap.get s.mem.storeErr[f] 0 (storeKey p a / 8 + i)) ≤ 1)) = true → s.injArmedAt f injMem 4 p = false → s.injArmedAt f injMem 5 p = false → leNat (Mem.read s.mem.store[f] (storeKey p a) 64) = d → txferRefusal d = none → Leaves (exec (.txfer f p rd rs1) s) (fun u =>
      (u.plot f p).drill.x rd = (if (rd : Nat) = 0 then 0 else (s.plot f p).nextQsn % 2 ^ 32) ∧
      (u.plot f p).drill.pc = ((s.plot f p).drill.pc + 4) % 2 ^ 32 ∧
      (u.plot f p).nextQsn = ((s.plot f p).nextQsn + 1) % 2 ^ 16 ∧
      (u.plot f p).queue.dropLast = (s.plot f p).queue ∧
      (u.plot f p).queue.getLast?.map (fun e => (e.qsn, e.op, e.phase, e.int)) = some ((s.plot f p).nextQsn, .txfer d, .waiting, bit (xfFlags d) 0))) ∧
  (∀ (s : State) (f : FieldId) (p : PlotId) (rd rs1 : Fin 32) (a d c : Nat), s.drillGo f p = true → (s.plot f p).drill.x rs1 = a → a % 64 = 0 → a < storeEnd → (s.plot f p).queue.length < queueSize → claimFree (s.plot f p).queue (claimOf false a (a + 63)) = true → (List.range 8).all (fun i => decide (errKind (SMap.get s.mem.storeErr[f] 0 (storeKey p a / 8 + i)) ≤ 1)) = true → s.injArmedAt f injMem 4 p = false → s.injArmedAt f injMem 5 p = false → leNat (Mem.read s.mem.store[f] (storeKey p a) 64) = d → txferRefusal d = some c → (s.plot f p).cq.length < cqSize → Leaves (exec (.txfer f p rd rs1) s) (fun u =>
      (u.plot f p).drill.x rd = (if (rd : Nat) = 0 then 0 else (s.plot f p).nextQsn % 2 ^ 32) ∧
      (u.plot f p).drill.pc = ((s.plot f p).drill.pc + 4) % 2 ^ 32 ∧
      (u.plot f p).nextQsn = ((s.plot f p).nextQsn + 1) % 2 ^ 16 ∧
      (u.plot f p).queue = (s.plot f p).queue ∧
      (u.plot f p).cq = (s.plot f p).cq ++ [cqRecord (s.plot f p).nextQsn (QOp.tag (.txfer d)) c 0 2 (bit (xfFlags d) 0)])) ∧
  (∀ (s : State) (f : FieldId) (p : PlotId) (rd rs1 : Fin 32), s.drillGo f p = true → Leaves (exec (.twait f p rd rs1) s) (fun u =>
      if (s.plot f p).waitOver ((s.plot f p).drill.x rs1 % 0x10000) then
        (u.plot f p).drill.x rd = (if (rd : Nat) = 0 then 0 else (s.plot f p).queue.length % 2 ^ 32) ∧ (u.plot f p).drill.pc = ((s.plot f p).drill.pc + 4) % 2 ^ 32
      else (u.plot f p).drill.st = .waiting ∧ (u.plot f p).drill.wait = .twait rd ((s.plot f p).drill.x rs1 % 0x10000) ∧ (u.plot f p).drill.pc = (s.plot f p).drill.pc)) ∧
  (∀ (s : State) (f : FieldId) (p : PlotId) (rd rs1 : Fin 32) (dr : Fin 8) (w : Fin 16) (int : Bool), s.drillGo f p = true → queueSize ≤ (s.plot f p).queue.length → ∀ x ∈ [Instr.tmm f p rd dr rs1 int, Instr.tvec f p rd dr rs1 int, Instr.tfence f p rd int, Instr.tscdrain f p rd int, Instr.trfence f p rd rs1 int],
    Leaves (exec x s) (fun u => u = s.pwrap f p Reg.PLT_QUEUE_STALL.FULL)) ∧
  (∀ (s : State) (f : FieldId) (p : PlotId) (rd rs1 : Fin 32) (dr : Fin 8) (w : Fin 16) (int : Bool), s.drillGo f p = false → ∀ x ∈ [Instr.tdld f p dr rs1, Instr.tdset f p dr rs1 w, Instr.tdget f p rd dr w, Instr.tmm f p rd dr rs1 int, Instr.tvec f p rd dr rs1 int, Instr.txfer f p rd rs1, Instr.tfence f p rd int, Instr.tscdrain f p rd int, Instr.trfence f p rd rs1 int, Instr.twait f p rd rs1],
    Leaves (exec x s) (fun u => u = s))

/-- TFENCE_START: a TFENCE at the head of the queue completes (R221). TSCDRAIN_START: with every earlier tile operation
retired, and no earlier synchronisation in its way, it runs; TSCDRAIN_COMPLETE: with no sample left, it completes (R222).
TRFENCE_START of a fence that may ask: it completes at once where it names no node; it has the answer ALLOT_HALTED where
the allotment is halted; it is put to the gateway where neither holds, and where the gateway has no line and no
put-reduce to flush it has the answer OK. TRFENCE_COMPLETE: an answered fence completes (R223, R417, R418). Where
nothing can start or complete, and after THERMTRIP, which stops the plot clocks (R655), nothing changes. Each answers a next
state. Derived, the model's choice: that a command whose condition does not hold changes nothing (assumption log entry 2), and
what the gateway has to flush for a TRFENCE (33). -/
def Obligations.SyncCommandsComplete : Prop :=
  (∀ (s : State) (f : FieldId) (p : PlotId) (e : QEntry) (l : List QEntry), s.hub.pwr.trip = false → (s.plot f p).queue = e :: l → e.op = .tfence → Leaves (exec (.tfenceStart f p) s) (fun u =>
      (u.plot f p).queue = l.filter (fun y => decide (y.qsn ≠ e.qsn)))) ∧
  (∀ (s : State) (f : FieldId) (p : PlotId), (s.plot f p).queue.head?.map QEntry.op ≠ some .tfence → Leaves (exec (.tfenceStart f p) s) (fun u =>
      u = s)) ∧
  (∀ (s : State) (f : FieldId) (p : PlotId) (e : QEntry), s.hub.pwr.trip = false → (s.plot f p).queue.find? (fun e => decide (e.op = .tscdrain) && decide (e.phase = .waiting)) = some e → (entriesBefore (s.plot f p).queue e.qsn).all (fun x => decide (x.op.unit ≠ 0)) = true → syncTurn (entriesBefore (s.plot f p).queue e.qsn) = true → syncHeld (entriesBefore (s.plot f p).queue e.qsn) .tfence = false → Leaves (exec (.tscdrainStart f p) s) (fun u =>
      (u.plot f p).queue = (s.plot f p).queue.map (fun y => if y.qsn = e.qsn then { y with phase := .running } else y))) ∧
  (∀ (s : State) (f : FieldId) (p : PlotId) (e : QEntry), (s.plot f p).queue.find? (fun e => decide (e.op = .tscdrain) && decide (e.phase = .waiting)) = some e → (entriesBefore (s.plot f p).queue e.qsn).all (fun x => decide (x.op.unit ≠ 0)) = false ∨ syncTurn (entriesBefore (s.plot f p).queue e.qsn) = false ∨ syncHeld (entriesBefore (s.plot f p).queue e.qsn) .tfence = true → Leaves (exec (.tscdrainStart f p) s) (fun u =>
      u = s)) ∧
  (∀ (s : State) (f : FieldId) (p : PlotId), (s.plot f p).queue.find? (fun e => decide (e.op = .tscdrain) && decide (e.phase = .waiting)) = none → Leaves (exec (.tscdrainStart f p) s) (fun u =>
      u = s)) ∧
  (∀ (s : State) (f : FieldId) (p : PlotId) (e : QEntry), s.hub.pwr.trip = false → (s.plot f p).queue.find? (fun e => decide (e.op = .tscdrain) && decide (e.phase = .running)) = some e → (s.plot f p).samples = [] → Leaves (exec (.tscdrainComplete f p) s) (fun u =>
      (u.plot f p).queue = (s.plot f p).queue.filter (fun y => decide (y.qsn ≠ e.qsn)))) ∧
  (∀ (s : State) (f : FieldId) (p : PlotId), (s.plot f p).samples ≠ [] ∨ (s.plot f p).queue.find? (fun e => decide (e.op = .tscdrain) && decide (e.phase = .running)) = none → Leaves (exec (.tscdrainComplete f p) s) (fun u =>
      u = s)) ∧
  (∀ (s : State) (f : FieldId) (p : PlotId) (e : QEntry) (x : Nat), s.hub.pwr.trip = false → (s.plot f p).nextFence = some e → e.op = .trfence x → s.fenceReady f p e = true → bit x 16 = false → nodeNamed (bits x 0 16) = false → Leaves (exec (.trfenceStart f p) s) (fun u =>
      (u.plot f p).queue = (s.plot f p).queue.filter (fun y => decide (y.qsn ≠ e.qsn)))) ∧
  (∀ (s : State) (f : FieldId) (p : PlotId) (e : QEntry) (x : Nat), s.hub.pwr.trip = false → (s.plot f p).nextFence = some e → e.op = .trfence x → s.fenceReady f p e = true → bit x 16 = true ∨ nodeNamed (bits x 0 16) = true → s.halted f = true → Leaves (exec (.trfenceStart f p) s) (fun u =>
      (u.plot f p).queue = (s.plot f p).queue.map (fun y => if y.qsn = e.qsn then { y with phase := .done, fenceStatus := St.ALLOT_HALTED } else y))) ∧
  (∀ (s : State) (f : FieldId) (p : PlotId) (e : QEntry) (x : Nat), s.hub.pwr.trip = false → (s.plot f p).nextFence = some e → e.op = .trfence x → s.fenceReady f p e = true → bit x 16 = true ∨ nodeNamed (bits x 0 16) = true → s.halted f = false → Leaves (exec (.trfenceStart f p) s) (fun u =>
      u = ((s.updEntry f p e.qsn (fun y => { y with phase := .running })).updGw f (fun G => { G with
        fences := G.fences ++ [s.fenceMake f p e.qsn x] })).fenceStep f p e.qsn)) ∧
  (∀ (s : State) (f : FieldId) (p : PlotId) (e : QEntry) (x : Nat), s.hub.pwr.trip = false → (s.plot f p).nextFence = some e → e.op = .trfence x → s.fenceReady f p e = true → bit x 16 = true ∨ nodeNamed (bits x 0 16) = true → s.halted f = false → (s.gw f).lines = [] → (s.gw f).fences = [] → (s.gw f).redSent.all (fun y => !y.2) = true → Leaves (exec (.trfenceStart f p) s) (fun u =>
      (u.gw f).fences = [] ∧
      (u.plot f p).queue = (s.plot f p).queue.map (fun y => if y.qsn = e.qsn then { y with phase := .done, fenceStatus := St.OK } else y))) ∧
  (∀ (s : State) (f : FieldId) (p : PlotId) (e : QEntry), (s.plot f p).nextFence = some e → s.fenceReady f p e = false → Leaves (exec (.trfenceStart f p) s) (fun u =>
      u = s)) ∧
  (∀ (s : State) (f : FieldId) (p : PlotId), (s.plot f p).nextFence = none → Leaves (exec (.trfenceStart f p) s) (fun u =>
      u = s)) ∧
  (∀ (s : State) (f : FieldId) (p : PlotId) (e : QEntry), s.hub.pwr.trip = false → (s.plot f p).answeredFence = some e → Leaves (exec (.trfenceComplete f p) s) (fun u =>
      u = s.complete f p e e.fenceStatus 0 ∧
      (u.plot f p).queue = (s.plot f p).queue.filter (fun y => decide (y.qsn ≠ e.qsn)))) ∧
  (∀ (s : State) (f : FieldId) (p : PlotId), (s.plot f p).answeredFence = none → Leaves (exec (.trfenceComplete f p) s) (fun u =>
      u = s)) ∧
  (∀ (s : State) (f : FieldId) (p : PlotId), s.hub.pwr.trip = true → ∀ x ∈ [Instr.tfenceStart f p, Instr.tscdrainStart f p, Instr.tscdrainComplete f p, Instr.trfenceStart f p, Instr.trfenceComplete f p], Leaves (exec x s) (fun u => u = s))

/-- Where the oldest unstarted transfer is ready and its partition is not held, the command of its operation starts it:
XFER_NOP completes, XFER_GET to XFER_COMPARE_SWAP are in progress; while its claims are not free, or a bin segment it
claims is kept busy, the command counts the wait and nothing else; a command of another operation, or with no transfer
ready, changes nothing (R97, R114, R153, R155, R166, R167, R169). XFER_LINE_ISSUE: below the limit of outstanding lines
the transfer whose turn it is sends its next line; at the limit nothing changes. XFER_LINE_DONE: a line to the own
field, with no earlier one to its address under way, is performed and no longer under way. XFER_DESCRIPTOR_COMPLETE:
with every line issued and answered, the transfer leaves the queue; else nothing changes (R169, R170). Each answers a
next state. After THERMTRIP, which stops the plot clocks (R655), only a line that does not write the plot's own memory
is still performed. Derived, the model's choice: that a command whose condition does not hold changes nothing
(assumption log entry 2), and how a wait is counted (20). -/
def Obligations.TransferCommandsComplete : Prop :=
  (∀ (s : State) (f : FieldId) (p : PlotId) (e : QEntry) (d : Nat) (before : List QEntry), s.hub.pwr.trip = false → (s.plot f p).xferNext = some (e, d, before) → (s.field f).held = false → e.claims.all (claimFree before) = true → e.claims.any (claimBusySeg before) = false → xfOp d = 0 → Leaves (exec (.xferNop f p) s) (fun u =>
      u = s.complete f p e St.OK 0 ∧
      (u.plot f p).queue = (s.plot f p).queue.filter (fun y => decide (y.qsn ≠ e.qsn)))) ∧
  (∀ (s : State) (f : FieldId) (p : PlotId) (e : QEntry) (d : Nat) (before : List QEntry), s.hub.pwr.trip = false → (s.plot f p).xferNext = some (e, d, before) → (s.field f).held = false → e.claims.all (claimFree before) = true → e.claims.any (claimBusySeg before) = false → ∀ x ∈ ([(.xferGet f p, 1), (.xferPut f p, 2), (.xferPutPartial f p, 3), (.xferPutReduce f p, 4), (.xferMcastPut f p, 5),
    (.xferFetchAdd f p, 6), (.xferCompareSwap f p, 7)] : List (Instr × Nat)), xfOp d = x.2 → Leaves (exec x.1 s) (fun u =>
      (u.plot f p).queue = (s.plot f p).queue.map (fun y => if y.qsn = e.qsn then { y with phase := .running } else y))) ∧
  (∀ (s : State) (f : FieldId) (p : PlotId) (e : QEntry) (d : Nat) (before : List QEntry), s.hub.pwr.trip = false → (s.plot f p).xferNext = some (e, d, before) → (s.field f).held = false → e.claims.all (claimFree before) = false ∨ e.claims.any (claimBusySeg before) = true → ∀ x ∈ ([(.xferNop f p, 0), (.xferGet f p, 1), (.xferPut f p, 2), (.xferPutPartial f p, 3), (.xferPutReduce f p, 4), (.xferMcastPut f p, 5),
    (.xferFetchAdd f p, 6), (.xferCompareSwap f p, 7)] : List (Instr × Nat)), xfOp d = x.2 → Leaves (exec x.1 s) (fun u =>
      u = s.pwrap f p (if e.claims.all (claimFree before) = true then Reg.PLT_TINE_STALL.BIN_WAIT else Reg.PLT_QUEUE_STALL.CLAIM))) ∧
  (∀ (s : State) (f : FieldId) (p : PlotId), ∀ x ∈ ([(.xferNop f p, 0), (.xferGet f p, 1), (.xferPut f p, 2), (.xferPutPartial f p, 3), (.xferPutReduce f p, 4), (.xferMcastPut f p, 5),
    (.xferFetchAdd f p, 6), (.xferCompareSwap f p, 7)] : List (Instr × Nat)), (s.field f).held = true ∨ (s.plot f p).xferNext.all (fun y => decide (xfOp y.2.1 ≠ x.2)) = true → Leaves (exec x.1 s) (fun u =>
      u = s)) ∧
  (∀ (s : State) (f : FieldId) (p : PlotId) (e : QEntry) (d : Nat), s.hub.pwr.trip = false → s.svc f ≠ svcDark → (s.plot f p).xferOutstanding < xferLimit → (s.plot f p).xferTurn = some (e, d) → Leaves (exec (.xferLineIssue f p) s) (fun u =>
      (u.plot f p).xlines.dropLast = (s.plot f p).xlines ∧
      (u.plot f p).xlines.getLast?.map (fun x => (x.qsn, x.line, x.op, x.dst, x.addr)) = some (e.qsn, e.issued, xfOp d, xfNode d, xfLineRemote d e.issued) ∧
      ∃ y ∈ (u.plot f p).queue, y.qsn = e.qsn ∧ y.issued = e.issued + 1)) ∧
  (∀ (s : State) (f : FieldId) (p : PlotId), s.svc f = svcDark ∨ xferLimit ≤ (s.plot f p).xferOutstanding ∨ (s.plot f p).xferTurn = none → Leaves (exec (.xferLineIssue f p) s) (fun u =>
      u = s)) ∧
  (∀ (s : State) (f : FieldId) (p : PlotId) (q n : Nat) (x : XLine), (x.op = 1 → s.hub.pwr.trip = false) → s.svc f ≠ svcDark → (s.plot f p).xlines.find? (fun x => decide (x.qsn = q) && decide (x.line = n)) = some x → s.xlineOwn f x = true → ((s.plot f p).xlines.takeWhile (fun y => decide (y ≠ x))).any (fun y => s.xlineOwn f y && decide (y.addr / 128 = x.addr / 128)) = false → Leaves (exec (.xferLineDone f p q n) s) (fun u =>
      u = s.xlineOwnDone f p x ∧
      (u.plot f p).xlines = (s.plot f p).xlines.erase x)) ∧
  (∀ (s : State) (f : FieldId) (p : PlotId) (q n : Nat), s.svc f = svcDark ∨ (s.plot f p).xlines.find? (fun x => decide (x.qsn = q) && decide (x.line = n)) = none → Leaves (exec (.xferLineDone f p q n) s) (fun u =>
      u = s)) ∧
  (∀ (s : State) (f : FieldId) (p : PlotId) (q n : Nat) (x : XLine), s.svc f ≠ svcDark → (s.plot f p).xlines.find? (fun x => decide (x.qsn = q) && decide (x.line = n)) = some x → s.xlineOwn f x = false ∨ ((s.plot f p).xlines.takeWhile (fun y => decide (y ≠ x))).any (fun y => s.xlineOwn f y && decide (y.addr / 128 = x.addr / 128)) = true → Leaves (exec (.xferLineDone f p q n) s) (fun u =>
      u = s)) ∧
  (∀ (s : State) (f : FieldId) (p : PlotId) (q : Nat) (e : QEntry) (d : Nat), s.hub.pwr.trip = false → (s.plot f p).queue.find? (fun e => decide (e.qsn = q) && decide (e.phase = .running)) = some e → e.op = .txfer d → e.issued = xfLines d → e.outstanding = [] → Leaves (exec (.xferDescriptorComplete f p q) s) (fun u =>
      u = s.complete f p e (xferStatus e.fails) e.classSeen ∧
      (u.plot f p).queue = (s.plot f p).queue.filter (fun y => decide (y.qsn ≠ e.qsn)))) ∧
  (∀ (s : State) (f : FieldId) (p : PlotId) (q : Nat), (s.plot f p).queue.find? (fun e => decide (e.qsn = q) && decide (e.phase = .running)) = none → Leaves (exec (.xferDescriptorComplete f p q) s) (fun u =>
      u = s)) ∧
  (∀ (s : State) (f : FieldId) (p : PlotId) (q : Nat) (e : QEntry) (d : Nat), (s.plot f p).queue.find? (fun e => decide (e.qsn = q) && decide (e.phase = .running)) = some e → e.op = .txfer d → e.issued ≠ xfLines d ∨ e.outstanding ≠ [] → Leaves (exec (.xferDescriptorComplete f p q) s) (fun u =>
      u = s)) ∧
  (∀ (s : State) (f : FieldId) (p : PlotId) (q : Nat), s.hub.pwr.trip = true → ∀ x ∈ [Instr.xferNop f p, Instr.xferGet f p, Instr.xferPut f p, Instr.xferPutPartial f p, Instr.xferPutReduce f p, Instr.xferMcastPut f p, Instr.xferFetchAdd f p, Instr.xferCompareSwap f p, Instr.xferLineIssue f p, Instr.xferDescriptorComplete f p q], Leaves (exec x s) (fun u => u = s))

/-- Of a plot in service: PLT_DOORBELL_SET sets the bits written, PLT_DOORBELL_CLEAR clears them (R184).
FLD_DOORBELL_RING sets them in every plot in service that its scope selects, the plot named, its row, its column or
all, and in no other (R185, R692). PLT_NOTIFY: the value written leaves as its event, or waits until it can (R183).
Out of service none of them changes anything. MAILBOX_SEND while no notice of the endpoint is pending: it is pending,
and claims the slot of its receiver where that is free, or comes back BUSY where it is not; while one is pending it is
refused (R174, R615). MAILBOX_DELIVER: a claimed notice of the receiver's role epoch that it can take stands in its
inbound registers; one of another epoch comes back STALE_ROLE and frees the slot; with no claimed notice, or none it
can take, nothing changes (R173, R616). MAILBOX_IN_ACK while FULL: FULL is clear, and a delivered notice is
acknowledged to its sender and its slot free; while FULL is clear nothing changes (R618). Each answers a next state.
Derived, the model's choice: that a ring of one plot to a vacant slot changes nothing (assumption log entry 34), and
that whether a notify value leaves at once is the command's operand (36); that a command whose condition does not hold
changes nothing (assumption log entry 2). -/
def Obligations.DoorbellsAndMailboxesComplete : Prop :=
  (∀ (s : State) (f : FieldId) (p : PlotId) (v : Nat), s.vacant f p = false → s.partitionUp f = true → Leaves (exec (.pltDoorbellSet f p v) s) (fun u =>
      u = s.pset f p Reg.PLT_DOORBELL.PENDING (s.preg f p Reg.PLT_DOORBELL.PENDING ||| bits v 0 32))) ∧
  (∀ (s : State) (f : FieldId) (p : PlotId) (v : Nat), s.vacant f p = false → s.partitionUp f = true → Leaves (exec (.pltDoorbellClear f p v) s) (fun u =>
      u = s.pset f p Reg.PLT_DOORBELL.PENDING (s.preg f p Reg.PLT_DOORBELL.PENDING ^^^ (s.preg f p Reg.PLT_DOORBELL.PENDING &&& bits v 0 32)))) ∧
  (∀ (s : State) (f : FieldId) (p : PlotId) (v : Nat) (c : Fin 4), s.partitionUp f = true → Leaves (exec (.fldDoorbellRing f v p c) s) (fun u =>
      ∀ q : PlotId, u.preg f q Reg.PLT_DOORBELL.PENDING =
        if s.vacant f q = false ∧ (c = 3 ∨ c = 0 ∧ q = p ∨ c = 1 ∧ q.val / 16 = p.val / 16 ∨ c = 2 ∧ q.val % 16 = p.val % 16) then
          (s.preg f q Reg.PLT_DOORBELL.PENDING ||| v) % 2 ^ 32
        else s.preg f q Reg.PLT_DOORBELL.PENDING)) ∧
  (∀ (s : State) (f : FieldId) (p : PlotId) (v : Nat), s.vacant f p = false → s.partitionUp f = true → Leaves (exec (.pltNotify f p v true) s) (fun u =>
      (u.plot f p).notify = none ∧
      u.events = s.events ++ [⟨some f, Ev.PLT_NOTIFY.num, Ev.PLT_NOTIFY.fldCls, pay [(1, p), (4, bits v 0 32)], false⟩])) ∧
  (∀ (s : State) (f : FieldId) (p : PlotId) (v : Nat), s.vacant f p = false → s.partitionUp f = true → Leaves (exec (.pltNotify f p v false) s) (fun u =>
      (u.plot f p).notify = some (bits v 0 32))) ∧
  (∀ (s : State) (f : FieldId) (p : PlotId) (v : Nat) (c : Fin 4) (leaves : Bool), s.partitionUp f = false → ∀ x ∈ ([.pltDoorbellSet f p v, .pltDoorbellClear f p v, .fldDoorbellRing f v p c, .pltNotify f p v leaves] : List Instr), Leaves (exec x s) (fun u =>
      u = s)) ∧
  (∀ (s : State) (f : FieldId) (p : PlotId) (v : Nat) (leaves : Bool), s.vacant f p = true → ∀ x ∈ ([.pltDoorbellSet f p v, .pltDoorbellClear f p v, .fldDoorbellRing f v p 0, .pltNotify f p v leaves] : List Instr), Leaves (exec x s) (fun u =>
      u = s)) ∧
  (∀ (s : State) (ep : MbxEp), s.mbx ep .pending ≠ 1 → s.slot (s.mbxPeer ep) = .free → Leaves (exec (.mailboxSend ep) s) (fun u =>
      u.mbx ep .pending = 1 ∧
      u.slot (s.mbxPeer ep) = .claimed ep true (s.mbx ep .outPtr) (s.mbx ep .outTag) (s.mbx ep .outEpoch))) ∧
  (∀ (s : State) (ep : MbxEp), s.mbx ep .pending ≠ 1 → s.slot (s.mbxPeer ep) ≠ .free → Leaves (exec (.mailboxSend ep) s) (fun u =>
      u.mbx ep .pending = 0 ∧
      u.mbx ep .done = 1 ∧
      u.mbx ep .ackCode = St.BUSY ∧
      u.slot (s.mbxPeer ep) = s.slot (s.mbxPeer ep))) ∧
  (∀ (s : State) (ep : MbxEp), s.mbx ep .pending = 1 → Leaves (exec (.mailboxSend ep) s) (fun u =>
      u = s.mbxSet ep .refused 1 ∧
      u.mbx ep .refused = 1)) ∧
  (∀ (s : State) (ep e : MbxEp) (live : Bool) (ptr tag epoch : Nat), s.slot ep = .claimed e live ptr tag epoch → s.mbxCanTake ep = true → epoch = s.mbx ep .role → Leaves (exec (.mailboxDeliver ep) s) (fun u =>
      u.slot ep = .delivered e live ∧
      u.mbx ep .inFull = 1 ∧
      u.mbx ep .inPtr = ptr % 2 ^ 64 ∧
      u.mbx ep .inTag = tag % 2 ^ 16 ∧
      u.mbx ep .inEpoch = epoch % 2 ^ 16)) ∧
  (∀ (s : State) (ep e : MbxEp) (live : Bool) (ptr tag epoch : Nat), s.slot ep = .claimed e live ptr tag epoch → s.mbxCanTake ep = true → epoch ≠ s.mbx ep .role → Leaves (exec (.mailboxDeliver ep) s) (fun u =>
      u.slot ep = .free ∧
      (live = true → u.mbx e .pending = 0 ∧ u.mbx e .done = 1 ∧ u.mbx e .ackCode = St.STALE_ROLE))) ∧
  (∀ (s : State) (ep e : MbxEp) (live : Bool) (ptr tag epoch : Nat), s.slot ep = .claimed e live ptr tag epoch → s.mbxCanTake ep = false → Leaves (exec (.mailboxDeliver ep) s) (fun u =>
      u = s)) ∧
  (∀ (s : State) (ep e : MbxEp) (live : Bool), s.slot ep = .free ∨ s.slot ep = .delivered e live → Leaves (exec (.mailboxDeliver ep) s) (fun u =>
      u = s)) ∧
  (∀ (s : State) (ep e : MbxEp) (live : Bool) (code : Nat), s.mbx ep .inFull ≠ 0 → s.slot ep = .delivered e live → Leaves (exec (.mailboxInAck ep code) s) (fun u =>
      u.slot ep = .free ∧
      u.mbx ep .inFull = 0 ∧
      (live = true → u.mbx e .pending = 0 ∧ u.mbx e .done = 1 ∧ u.mbx e .ackCode = ackCodeOf (code % 0x10000)))) ∧
  (∀ (s : State) (ep : MbxEp) (code : Nat), s.mbx ep .inFull = 0 → Leaves (exec (.mailboxInAck ep code) s) (fun u =>
      u = s))

/-- What these commands leave of the bytes of a field's HBM, as a read of its line sees them, and of its plot stores. PUT and
PUT_PARTIAL not on VC5, with nothing but such lines held in their flow, change no byte outside the lines they and those held
are for; nor do MCAST_PUT (R232, R377, R409, R419). FETCH_ADD and COMPARE_SWAP change none outside the lines of their operand
(R421). XFER_LINE_DONE changes, for a get, only the line at LOCAL of its plot, and else only the line at its address (R170,
R232). A vector operation changes no byte of a plot store outside its results and their side bytes (R213, R215). PIECE
changes none outside the scratch areas of the groups registered, GATHER none outside the place of its part in the output of a
collective and the completion record, CHUNK_FOLD none outside these and its chunk's (R454, R459, R461). DRIFT_REPORT_WRITE and
STEP_TIMING_REPORT_WRITE change none outside the report of 0x21000 bytes at most, or of 0x8100 (R132, R487), for which BASE and
SEQ choose the place. MEMORY_WRITE through the aperture of a field, with no request waiting, changes none outside the lines its
bytes lie in (R603, R606). Where lines of HBM change, the absorber's lines are whole, which is an invariant of steps (LinesStayWhole).
That a line of which a part is written can change in its other bytes, where it held an error, is why lines bound these. Derived,
the model's choice: that pieces lie at a place of the scratch area that is left free (assumption log entry 28). -/
def Obligations.WritesStayInTheirLines : Prop :=
  (∀ (s : State) (f : FieldId) (p : Packet), s.linesWhole f → (rhOf p).kind = kPutPartial ∨ p.cls ≠ 5 → (∀ x ∈ (s.flowRx f p.src).held, ∀ y ∈ x.pkt, (rhOf y).kind = kPutPartial ∨ ((rhOf y).kind = kPut ∧ y.cls ≠ 5)) → ∀ x ∈ ([.put f p, .putPartial f p] : List Instr), Leaves (exec x s) (fun u =>
      (∀ b : Nat, inTargetHbm p.key b = false → (∀ x ∈ (s.flowRx f p.src).held, ∀ y ∈ x.pkt, inTargetHbm y.key b = false) → u.hbmByte f b = s.hbmByte f b) ∧
      (∀ b : Nat, inTargetStore p.key b = false → (∀ x ∈ (s.flowRx f p.src).held, ∀ y ∈ x.pkt, inTargetStore y.key b = false) → Mem.byte u.mem.store[f] b = Mem.byte s.mem.store[f] b))) ∧
  (∀ (s : State) (f : FieldId) (p : Packet), s.linesWhole f → Leaves (exec (.mcastPut f p) s) (fun u =>
      (∀ b : Nat, inTargetHbm p.key b = false → u.hbmByte f b = s.hbmByte f b) ∧
      (∀ b : Nat, inTargetStore p.key b = false → Mem.byte u.mem.store[f] b = Mem.byte s.mem.store[f] b))) ∧
  (∀ (s : State) (f : FieldId) (p : Packet), s.linesWhole f → ∀ x ∈ ([.fetchAdd f p, .compareSwap f p] : List Instr), Leaves (exec x s) (fun u =>
      (∀ b : Nat, (targetOf p.key = .hbm → inLines p.key (atomicBytes (rhOf p).typ) b = false) → u.hbmByte f b = s.hbmByte f b) ∧
      u.mem.store[f] = s.mem.store[f])) ∧
  (∀ (s : State) (f : FieldId) (p : PlotId) (q n : Nat) (x : XLine), (s.plot f p).xlines.find? (fun x => decide (x.qsn = q) && decide (x.line = n)) = some x → x.op = 1 → Leaves (exec (.xferLineDone f p q n) s) (fun u =>
      (∀ b : Nat, u.hbmByte f b = s.hbmByte f b) ∧
      (∀ b : Nat, ¬(storeKey p x.loc ≤ b ∧ b < storeKey p x.loc + 128) → Mem.byte u.mem.store[f] b = Mem.byte s.mem.store[f] b))) ∧
  (∀ (s : State) (f : FieldId) (p : PlotId) (q n : Nat) (x : XLine), s.linesWhole f → (s.plot f p).xlines.find? (fun x => decide (x.qsn = q) && decide (x.line = n)) = some x → x.op ≠ 1 → Leaves (exec (.xferLineDone f p q n) s) (fun u =>
      (∀ b : Nat, inTargetHbm x.addr b = false → u.hbmByte f b = s.hbmByte f b) ∧
      (∀ b : Nat, inTargetStore x.addr b = false → Mem.byte u.mem.store[f] b = Mem.byte s.mem.store[f] b))) ∧
  (∀ (s : State) (f : FieldId) (p : PlotId) (e : QEntry) (l : List QEntry) (d md : Nat) (k : Fmt), (s.plot f p).nextOf 1 [.waiting] = some (e, l) → e.op = .tvec d md → fmtOf (tvOut d) = some k → ∀ x ∈ ([.tvecNop f p, .tvecAdd f p, .tvecSub f p, .tvecMul f p, .tvecFma f p, .tvecMin f p, .tvecMax f p, .tvecAbs f p,
    .tvecNeg f p, .tvecCmp f p, .tvecSelect f p, .tvecExp2 f p, .tvecLog2 f p, .tvecRecip f p, .tvecRsqrt f p, .tvecIadd f p] : List Instr) ++
    [.tvecIsub f p, .tvecImin f p, .tvecImax f p, .tvecAnd f p, .tvecOr f p, .tvecXor f p, .tvecSll f p, .tvecSra f p,
    .tvecSrl f p, .tvecIcmp f p, .tvecCvt f p, .tvecBenc f p, .tvecBscale f p, .tvecBdec f p, .tvecAmax f p, .tvecSum f p], Leaves (exec x s) (fun u =>
      ∀ b : Nat, inVecWrite p d md k b = false → Mem.byte u.mem.store[f] b = Mem.byte s.mem.store[f] b)) ∧
  (∀ (s : State) (f : FieldId) (p : Packet), s.linesWhole f → p.body.length ≤ 4096 → (∀ e ∈ (s.shf f).slots, 41472 ≤ e.2.scratchReq) → Leaves (exec (.piece f p) s) (fun u =>
      (∀ b : Nat, (∀ e ∈ (s.shf f).slots, inLines e.2.scratch e.2.scratchReq b = false) → u.hbmByte f b = s.hbmByte f b) ∧
      u.mem.store[f] = s.mem.store[f])) ∧
  (∀ (s : State) (f : FieldId) (p : Packet), s.linesWhole f → Leaves (exec (.gather f p) s) (fun u =>
      (∀ b : Nat, (∀ e ∈ (s.shf f).slots, ∀ c ∈ e.2.coll, inLines (c.dst + (chunkElems * pktField p 28 4 + 32 * pktField p 26 2) * shfSize c.outType) (p.body.length - 32) b = false ∧ inLines (byteField c.desc 48 8) 32 b = false) → u.hbmByte f b = s.hbmByte f b) ∧
      u.mem.store[f] = s.mem.store[f])) ∧
  (∀ (s : State) (f : FieldId) (k : Fin 64) (st : Fin 4) (ch : Nat), s.linesWhole f → (∀ e ∈ (s.shf f).slots, 41472 ≤ e.2.scratchReq) → Leaves (exec (.chunkFold f k st ch) s) (fun u =>
      (∀ b : Nat, (∀ e ∈ (s.shf f).slots, inLines e.2.scratch e.2.scratchReq b = false ∧ ∀ c ∈ e.2.coll, inLines (c.dst + chunkElems * ch * shfSize c.outType) (chunkSize c.count ch * shfSize c.outType) b = false ∧ inLines (byteField c.desc 48 8) 32 b = false) → u.hbmByte f b = s.hbmByte f b) ∧
      u.mem.store[f] = s.mem.store[f])) ∧
  (∀ (s : State) (f : FieldId), s.linesWhole f → Leaves (exec (.driftReportWrite f) s) (fun u =>
      (∀ b : Nat, inLines (s.freg f Reg.FLD_DRIFT_BASE.ADDR * 128 + s.freg f Reg.FLD_DRIFT_STATUS.SEQ % 2 * 0x21000) (s.driftReportBytes f).length b = false → u.hbmByte f b = s.hbmByte f b) ∧
      u.mem.store[f] = s.mem.store[f])) ∧
  (∀ (s : State) (f : FieldId), s.linesWhole f → Leaves (exec (.stepTimingReportWrite f) s) (fun u =>
      (∀ b : Nat, inLines (s.freg f Reg.HLT_REPORT_BASE.ADDR * 128 + (s.field f).hlt.seq % 2 * 0x8100) 0x8100 b = false → u.hbmByte f b = s.hbmByte f b) ∧
      u.mem.store[f] = s.mem.store[f])) ∧
  (∀ (s : State) (fn : Fin 5) (a be : Nat) (d : List Byte) (ep : Bool), s.linesWhole (fnField fn.val) → s.hub.host.wait = [] → s.hub.host.held = [] → fn ≠ 0 → Leaves (exec (.memoryWrite fn true a d be ep) s) (fun u =>
      ∀ b : Nat, inLines (s.freg (fnField fn.val) Reg.FLD_APERTURE.BASE * 2 ^ 30 + a) d.length b = false → u.hbmByte (fnField fn.val) b = s.hbmByte (fnField fn.val) b)) ∧
  (∀ (s : State) (f : FieldId), (s.stepReportBytes f).length = 0x8100)

/-- The oldest vector instruction not started, once its claims are free, no tile operation keeps their segments busy, no
fence holds it and its partition is not held, runs at the row that names its VOP: its results are written and its claims
released (R213). While its claims are not free, or a segment is busy, the row counts the wait and nothing else (R97,
R114, R155); a row of another VOP, or with none ready, changes nothing. TVEC_COMPLETE: the oldest that has run leaves
the queue; with none nothing changes. Each answers a next state. After THERMTRIP, which stops the plot clocks (R655),
none changes anything. Derived, the model's choice: that a command whose condition does not hold changes nothing
(assumption log entry 2), how a wait is counted (20), and the classes and values of R136 and R162 (35). -/
def Obligations.VectorCommandsComplete : Prop :=
  (∀ (s : State) (f : FieldId) (p : PlotId) (e : QEntry) (l : List QEntry) (d md : Nat), s.hub.pwr.trip = false → (s.plot f p).nextOf 1 [.waiting] = some (e, l) → e.op = .tvec d md → syncHeld l e.op = false → (s.field f).held = false → e.claims.all (fun c => claimFree l c) = true → e.claims.any (fun c => claimBusySeg l c) = false → ∀ x ∈ ([(.tvecNop f p, 0x00), (.tvecAdd f p, 0x01), (.tvecSub f p, 0x02), (.tvecMul f p, 0x03), (.tvecFma f p, 0x04),
    (.tvecMin f p, 0x05), (.tvecMax f p, 0x06), (.tvecAbs f p, 0x07), (.tvecNeg f p, 0x08), (.tvecCmp f p, 0x09),
    (.tvecSelect f p, 0x0a), (.tvecExp2 f p, 0x10), (.tvecLog2 f p, 0x11), (.tvecRecip f p, 0x12), (.tvecRsqrt f p, 0x13),
    (.tvecIadd f p, 0x20)] : List (Instr × Nat)) ++
    [(.tvecIsub f p, 0x21), (.tvecImin f p, 0x22), (.tvecImax f p, 0x23), (.tvecAnd f p, 0x24), (.tvecOr f p, 0x25),
    (.tvecXor f p, 0x26), (.tvecSll f p, 0x27), (.tvecSra f p, 0x28), (.tvecSrl f p, 0x29), (.tvecIcmp f p, 0x2a),
    (.tvecCvt f p, 0x30), (.tvecBenc f p, 0x31), (.tvecBscale f p, 0x32), (.tvecBdec f p, 0x33), (.tvecAmax f p, 0x38),
    (.tvecSum f p, 0x39)], tvVop d = x.2 → Leaves (exec x.1 s) (fun u =>
      u = s.tvecRun f p e d md ∧
      ∃ y ∈ (u.plot f p).queue, y.qsn = e.qsn ∧ y.phase = .done ∧ y.claims = [])) ∧
  (∀ (s : State) (f : FieldId) (p : PlotId) (e : QEntry) (l : List QEntry) (d md : Nat), s.hub.pwr.trip = false → (s.plot f p).nextOf 1 [.waiting] = some (e, l) → e.op = .tvec d md → syncHeld l e.op = false → (s.field f).held = false → e.claims.all (fun c => claimFree l c) = false ∨ e.claims.any (fun c => claimBusySeg l c) = true → ∀ x ∈ ([(.tvecNop f p, 0x00), (.tvecAdd f p, 0x01), (.tvecSub f p, 0x02), (.tvecMul f p, 0x03), (.tvecFma f p, 0x04),
    (.tvecMin f p, 0x05), (.tvecMax f p, 0x06), (.tvecAbs f p, 0x07), (.tvecNeg f p, 0x08), (.tvecCmp f p, 0x09),
    (.tvecSelect f p, 0x0a), (.tvecExp2 f p, 0x10), (.tvecLog2 f p, 0x11), (.tvecRecip f p, 0x12), (.tvecRsqrt f p, 0x13),
    (.tvecIadd f p, 0x20)] : List (Instr × Nat)) ++
    [(.tvecIsub f p, 0x21), (.tvecImin f p, 0x22), (.tvecImax f p, 0x23), (.tvecAnd f p, 0x24), (.tvecOr f p, 0x25),
    (.tvecXor f p, 0x26), (.tvecSll f p, 0x27), (.tvecSra f p, 0x28), (.tvecSrl f p, 0x29), (.tvecIcmp f p, 0x2a),
    (.tvecCvt f p, 0x30), (.tvecBenc f p, 0x31), (.tvecBscale f p, 0x32), (.tvecBdec f p, 0x33), (.tvecAmax f p, 0x38),
    (.tvecSum f p, 0x39)], tvVop d = x.2 → Leaves (exec x.1 s) (fun u =>
      u = s.pwrap f p (if e.claims.all (fun c => claimFree l c) = true then Reg.PLT_TINE_STALL.BIN_WAIT else Reg.PLT_QUEUE_STALL.CLAIM))) ∧
  (∀ (s : State) (f : FieldId) (p : PlotId), ∀ x ∈ ([(.tvecNop f p, 0x00), (.tvecAdd f p, 0x01), (.tvecSub f p, 0x02), (.tvecMul f p, 0x03), (.tvecFma f p, 0x04),
    (.tvecMin f p, 0x05), (.tvecMax f p, 0x06), (.tvecAbs f p, 0x07), (.tvecNeg f p, 0x08), (.tvecCmp f p, 0x09),
    (.tvecSelect f p, 0x0a), (.tvecExp2 f p, 0x10), (.tvecLog2 f p, 0x11), (.tvecRecip f p, 0x12), (.tvecRsqrt f p, 0x13),
    (.tvecIadd f p, 0x20)] : List (Instr × Nat)) ++
    [(.tvecIsub f p, 0x21), (.tvecImin f p, 0x22), (.tvecImax f p, 0x23), (.tvecAnd f p, 0x24), (.tvecOr f p, 0x25),
    (.tvecXor f p, 0x26), (.tvecSll f p, 0x27), (.tvecSra f p, 0x28), (.tvecSrl f p, 0x29), (.tvecIcmp f p, 0x2a),
    (.tvecCvt f p, 0x30), (.tvecBenc f p, 0x31), (.tvecBscale f p, 0x32), (.tvecBdec f p, 0x33), (.tvecAmax f p, 0x38),
    (.tvecSum f p, 0x39)], (s.field f).held = true ∨ ((s.plot f p).nextOf 1 [.waiting]).all (fun y => syncHeld y.2 y.1.op || (match y.1.op with | .tvec d _ => decide (tvVop d ≠ x.2) | _ => false)) = true → Leaves (exec x.1 s) (fun u =>
      u = s)) ∧
  (∀ (s : State) (f : FieldId) (p : PlotId) (e : QEntry), s.hub.pwr.trip = false → (s.plot f p).queue.find? (fun e => decide (e.op.unit = 1) && decide (e.phase = .done)) = some e → Leaves (exec (.tvecComplete f p) s) (fun u =>
      (u.plot f p).queue = (s.plot f p).queue.filter (fun y => decide (y.qsn ≠ e.qsn)))) ∧
  (∀ (s : State) (f : FieldId) (p : PlotId), (s.plot f p).queue.find? (fun e => decide (e.op.unit = 1) && decide (e.phase = .done)) = none → Leaves (exec (.tvecComplete f p) s) (fun u =>
      u = s)) ∧
  (∀ (s : State) (f : FieldId) (p : PlotId), s.hub.pwr.trip = true → ∀ x ∈ ([.tvecNop f p, .tvecAdd f p, .tvecSub f p, .tvecMul f p, .tvecFma f p, .tvecMin f p, .tvecMax f p, .tvecAbs f p, .tvecNeg f p, .tvecCmp f p, .tvecSelect f p, .tvecExp2 f p, .tvecLog2 f p, .tvecRecip f p, .tvecRsqrt f p, .tvecIadd f p] : List Instr) ++
    [.tvecIsub f p, .tvecImin f p, .tvecImax f p, .tvecAnd f p, .tvecOr f p, .tvecXor f p, .tvecSll f p, .tvecSra f p, .tvecSrl f p, .tvecIcmp f p, .tvecCvt f p, .tvecBenc f p, .tvecBscale f p, .tvecBdec f p, .tvecAmax f p, .tvecSum f p, .tvecComplete f p], Leaves (exec x s) (fun u => u = s))

/-- HBM_READ of a half-line: a resident line answers and becomes the most recently used (R422); else, on a stack that
responds and with no injection point armed for it, without an error or with the poison syndrome nothing changes, a
correctable error is corrected and counted, an uncorrected one is counted with its address and leaves the poison
syndrome (R238); an armed point fires (R697). HBM_STACK_LOST: the stack is out, with what was resident of it or held
back for it, and the field UNFIT (R235). ECS_READ: the counts, saturating (R236). HBM_PATROL_SCRUB and
PLOT_STORE_SCRUB: the scrub moves on (R159, R241). MIRROR_WRITE_RELEASE: the oldest held write whose granule has been
taken takes effect (R246). PLOT_FALLOW_SET: the plot is fallow, its drill HELD (R249). MESH_MULTICAST of doorbell bits
sets them in the plots in service it selects, of a block copies it there; its count of copies waits for the source,
and MESH_MULTICAST_COMPLETE reports the oldest one (R253). Of a DARK field, of one not in service, and where there is
nothing to do, nothing changes. Each answers a next state. Derived, the model's choice: that a command whose condition
does not hold changes nothing (assumption log entry 2), nor one of a DARK field (42), that a read sees the writes held
on its granule (43), and that the write-back of poison takes effect at once (44). -/
def Obligations.MemoryCommandsComplete : Prop :=
  (∀ (s : State) (f : FieldId) (h : Nat) (src : Fin 6) (x : AbsLine), s.svc f ≠ svcDark → h < hbmHalves → (s.memu f).resident (h / 2) = some x → Leaves (exec (.hbmRead f h src) s) (fun u =>
      u = s.absorberTouch f x ∧
      (u.memu f).absorber.getLast? = some x)) ∧
  (∀ (s : State) (f : FieldId) (h : Nat) (src : Fin 6), s.svc f ≠ svcDark → h < hbmHalves → (s.memu f).resident (h / 2) = none → (s.memu f).lost (lineStack (h / 2)) = false → s.injArmedAt f injMem 1 (lineStack (h / 2)) = false → s.injArmedAt f injMem 2 (lineStack (h / 2)) = false → errKind (SMap.get s.mem.hbmErr[f] 0 h) = 0 ∨ errKind (SMap.get s.mem.hbmErr[f] 0 h) = 3 → Leaves (exec (.hbmRead f h src) s) (fun u =>
      u = s)) ∧
  (∀ (s : State) (f : FieldId) (h : Nat) (src : Fin 6), s.svc f ≠ svcDark → h < hbmHalves → (s.memu f).resident (h / 2) = none → (s.memu f).lost (lineStack (h / 2)) = false → s.injArmedAt f injMem 1 (lineStack (h / 2)) = false → s.injArmedAt f injMem 2 (lineStack (h / 2)) = false → errKind (SMap.get s.mem.hbmErr[f] 0 h) = 1 → Leaves (exec (.hbmRead f h src) s) (fun u =>
      SMap.get u.mem.hbmErr[f] 0 h = 0 ∧
      u.freg f Reg.MEM_ECC_STAT.CORRECTED = satAdd 32 (s.freg f Reg.MEM_ECC_STAT.CORRECTED) 1)) ∧
  (∀ (s : State) (f : FieldId) (h : Nat) (src : Fin 6), s.svc f ≠ svcDark → h < hbmHalves → (s.memu f).resident (h / 2) = none → (s.memu f).lost (lineStack (h / 2)) = false → s.injArmedAt f injMem 1 (lineStack (h / 2)) = false → s.injArmedAt f injMem 2 (lineStack (h / 2)) = false → errKind (SMap.get s.mem.hbmErr[f] 0 h) = 2 → Leaves (exec (.hbmRead f h src) s) (fun u =>
      SMap.get u.mem.hbmErr[f] 0 h = 3 ∧
      u.freg f Reg.MEM_ECC_STAT.UNCORRECTED = satAdd 16 (s.freg f Reg.MEM_ECC_STAT.UNCORRECTED) 1 ∧
      u.freg f Reg.MEM_ECC_STAT.LAST_ADDR = h * 64 % 2 ^ 38)) ∧
  (∀ (s : State) (f : FieldId) (h : Nat) (src : Fin 6), s.svc f ≠ svcDark → h < hbmHalves → (s.memu f).resident (h / 2) = none → (s.memu f).lost (lineStack (h / 2)) = false → s.injArmedAt f injMem 1 (lineStack (h / 2)) = true ∨ s.injArmedAt f injMem 2 (lineStack (h / 2)) = true → Leaves (exec (.hbmRead f h src) s) (fun u =>
      u.freg f Reg.INJ_PT.ARM injMem = 0 ∧
      u.freg f Reg.INJ_PT.DONE injMem = 1)) ∧
  (∀ (s : State) (f : FieldId) (h : Nat) (src : Fin 6), s.svc f = svcDark ∨ hbmHalves ≤ h ∨ ((s.memu f).resident (h / 2) = none ∧ (s.memu f).lost (lineStack (h / 2)) = true) → Leaves (exec (.hbmRead f h src) s) (fun u =>
      u = s)) ∧
  (∀ (s : State) (f : FieldId) (k : Fin 2), s.svc f ≠ svcDark → (s.memu f).lost k = false → Leaves (exec (.hbmStackLost f k) s) (fun u =>
      (u.memu f).lost k = true ∧
      u.svc f = svcUnfit ∧
      (u.memu f).absorber = (s.memu f).absorber.filter (fun x => !(u.memu f).lost (lineStack x.line)) ∧
      (u.memu f).held = (s.memu f).held.filter (fun w => !(u.memu f).lost (lineStack w.line)) ∧
      u.hreg (if k = 0 then Reg.HUB_FIELD_STATE.HBM0_OK else Reg.HUB_FIELD_STATE.HBM1_OK) 0 f = 0)) ∧
  (∀ (s : State) (f : FieldId) (k : Fin 2), s.svc f = svcDark ∨ (s.memu f).lost k = true → Leaves (exec (.hbmStackLost f k) s) (fun u =>
      u = s)) ∧
  (∀ (s : State) (f : FieldId) (a b : Nat), s.svc f ≠ svcDark → Leaves (exec (.ecsRead f a b) s) (fun u =>
      u.freg f Reg.MEM_ECC_STAT.ECS_0 = min a 255 ∧
      u.freg f Reg.MEM_ECC_STAT.ECS_1 = min b 255)) ∧
  (∀ (s : State) (f : FieldId) (pc : Fin 128), s.svc f ≠ svcDark → s.freg f Reg.MEM_SCRUB_CTL.ENABLE = 1 → Leaves (exec (.hbmPatrolScrub f pc) s) (fun u =>
      SMap.get (u.memu f).scrub 0 pc = SMap.get (s.memu f).scrub 0 pc + 1)) ∧
  (∀ (s : State) (f : FieldId) (pc : Fin 128), s.svc f = svcDark ∨ s.freg f Reg.MEM_SCRUB_CTL.ENABLE ≠ 1 → Leaves (exec (.hbmPatrolScrub f pc) s) (fun u =>
      u = s)) ∧
  (∀ (s : State) (f : FieldId) (w : HeldWrite), s.svc f ≠ svcDark → (s.memu f).held.find? (fun w => !SMap.get (s.memu f).res false (granuleOf (w.line * 128))) = some w → Leaves (exec (.mirrorWriteRelease f) s) (fun u =>
      u = (s.updMemu f (fun m => { m with held := m.held.erase w })).lineApply f w.line w.runs w.poisoned w.src ∧
      (u.memu f).held = (s.memu f).held.erase w)) ∧
  (∀ (s : State) (f : FieldId), s.svc f = svcDark ∨ (s.memu f).held.find? (fun w => !SMap.get (s.memu f).res false (granuleOf (w.line * 128))) = none → Leaves (exec (.mirrorWriteRelease f) s) (fun u =>
      u = s)) ∧
  (∀ (s : State) (f : FieldId) (q : Fin 272) (i : Nat), s.svc f ≠ svcDark → logicalOf (s.memu f).remap q = some i → bit (s.field f).fallowRun q = false → Leaves (exec (.plotFallowSet f q) s) (fun u =>
      bit (u.field f).fallowRun q = true ∧
      (u.plot f (plotIx i)).drill.st = .held)) ∧
  (∀ (s : State) (f : FieldId) (q : Fin 272), s.svc f = svcDark ∨ logicalOf (s.memu f).remap q = none ∨ bit (s.field f).fallowRun q = true → Leaves (exec (.plotFallowSet f q) s) (fun u =>
      u = s)) ∧
  (∀ (s : State) (f : FieldId) (p : PlotId), s.vacant f p = false → s.partitionUp f = true → Leaves (exec (.plotStoreScrub f p) s) (fun u =>
      (u.plot f p).scrub = ((s.plot f p).scrub + 1) % 32768)) ∧
  (∀ (s : State) (f : FieldId) (p : PlotId), s.vacant f p = true ∨ s.partitionUp f = false → Leaves (exec (.plotStoreScrub f p) s) (fun u =>
      u = s)) ∧
  (∀ (s : State) (f : FieldId) (r : Bool) (i : Fin 16) (m v : Nat), s.partitionUp f = true → Leaves (exec (.meshMulticast f r i m (.doorbell v)) s) (fun u =>
      (u.memu f).mcasts = (s.memu f).mcasts ++ [⟨r, i, m % 65536, ((mcastPlots r i (m % 65536)).filter (fun p => !s.vacant f p)).length⟩] ∧
      ∀ q : PlotId, u.preg f q Reg.PLT_DOORBELL.PENDING = if q ∈ mcastPlots r i (m % 65536) ∧ s.vacant f q = false then (s.preg f q Reg.PLT_DOORBELL.PENDING ||| v) % 2 ^ 32 else s.preg f q Reg.PLT_DOORBELL.PENDING)) ∧
  (∀ (s : State) (f : FieldId) (r : Bool) (i : Fin 16) (m img k : Nat), s.partitionUp f = true → Leaves (exec (.meshMulticast f r i m (.sowing img k)) s) (fun u =>
      u = s.sowBlock f r i (m % 65536) (img % 4) k ∧
      (u.memu f).mcasts.length = (s.memu f).mcasts.length + 1)) ∧
  (∀ (s : State) (f : FieldId) (r : Bool) (i : Fin 16) (m : Nat) (load : McastLoad), s.partitionUp f = false → Leaves (exec (.meshMulticast f r i m load) s) (fun u =>
      u = s)) ∧
  (∀ (s : State) (f : FieldId) (x : Multicast) (l : List Multicast), s.svc f ≠ svcDark → (s.memu f).mcasts = x :: l → Leaves (exec (.meshMulticastComplete f) s) (fun u =>
      (u.memu f).mcasts = l ∧
      u.out = s.out ++ [.mcastDone f x.copies])) ∧
  (∀ (s : State) (f : FieldId), s.svc f = svcDark ∨ (s.memu f).mcasts = [] → Leaves (exec (.meshMulticastComplete f) s) (fun u =>
      u = s))

/-- CAL_SLOT_START, where a slot may start: the wavelength calibrated longest ago leaves service, its slot on the spare
one (R271), or out of the stripe without one, and DEGRADED counts (R274). CAL_SLOT_END: the receiver confirms lock to
the far end; the transmitter ends the slot, counts it, and the wavelength is the one calibrated last (R272).
CAL_LOCK_TIMEOUT: the receiver reports it; at the transmitter the slot's wavelength fails, or has failed one retry more
(R273). LANE_RETRY: a failed wavelength is tried; LANE_RETRY_END: it is restored, or has failed one retry more (R278).
CAL and CAL_DONE: the receiver scans or ends, the transmitter does as the receiver confirmed (R320). The host port does
the same with its own wavelengths (R597). Where a command has nothing to act on, or its field is DARK (R27), nothing
changes. Each answers a next state. Derived, the model's choice: that a command whose condition does not hold changes
nothing (assumption log entry 2), nor one of a DARK field (42), and that a retry that passes leaves the count of failed
ones as it was (44). -/
def Obligations.CalibrationCommandsComplete : Prop :=
  (∀ (s : State) (f : FieldId) (n : PortId) (w k x : Nat), s.svc f ≠ svcDark → s.calAllowed f n = true → (s.port f n).tx.order.find? (fun w => ((s.port f n).tx.slotOf w).isSome && !bit (s.port f n).tx.failed w) = some w → (s.port f n).tx.slotOf w = some k → (s.port f n).tx.spare = some x → Leaves (exec (.calSlotStart (some (f, n))) s) (fun u =>
      (u.port f n).tx.cal = some ⟨w, some k, some x, false⟩ ∧
      nth (u.port f n).tx.map k = x ∧
      u = ((s.setTx f n (u.port f n).tx).laneActs f n [.change k x, .msg lmCal w]).laneCheck f n false (s.txLanes f n))) ∧
  (∀ (s : State) (f : FieldId) (n : PortId) (w k : Nat), s.svc f ≠ svcDark → s.calAllowed f n = true → (s.port f n).tx.order.find? (fun w => ((s.port f n).tx.slotOf w).isSome && !bit (s.port f n).tx.failed w) = some w → (s.port f n).tx.slotOf w = some k → (s.port f n).tx.spare = none → Leaves (exec (.calSlotStart (some (f, n))) s) (fun u =>
      (u.port f n).tx.cal = some ⟨w, some k, none, false⟩ ∧
      bit (u.port f n).tx.out k = true ∧
      u.freg f Reg.HDL_CAL_STAT.DEGRADED = satAdd 16 (s.freg f Reg.HDL_CAL_STAT.DEGRADED) 1)) ∧
  (∀ (s : State) (f : FieldId) (n : PortId), s.svc f = svcDark ∨ s.calAllowed f n = false ∨ (s.port f n).tx.order.find? (fun w => ((s.port f n).tx.slotOf w).isSome && !bit (s.port f n).tx.failed w) = none → Leaves (exec (.calSlotStart (some (f, n))) s) (fun u =>
      u = s)) ∧
  (∀ (s : State) (w k : Nat), s.hostCalAllowed = true → s.hub.hostTx.order.find? (fun w => (s.hub.hostTx.slotOf w).isSome && !bit s.hub.hostTx.failed w) = some w → s.hub.hostTx.slotOf w = some k → Leaves (exec (.calSlotStart none) s) (fun u =>
      u.hub.hostTx.cal.map (fun c => (c.wave, c.spare, c.retry)) = some (w, s.hub.hostTx.spare, false) ∧
      u = (match s.hub.hostTx.calStart with | some (d, acts, _, _, _) => (s.setHostTx d).hostActs acts | none => s))) ∧
  (∀ (s : State), s.hostCalAllowed = false ∨ s.hub.hostTx.order.find? (fun w => (s.hub.hostTx.slotOf w).isSome && !bit s.hub.hostTx.failed w) = none → Leaves (exec (.calSlotStart none) s) (fun u =>
      u = s)) ∧
  (∀ (s : State) (f : FieldId) (n : PortId) (w : Nat), s.svc f ≠ svcDark → (s.port f n).rx.cal = some w → Leaves (exec (.calSlotEnd (some (f, n)) true) s) (fun u =>
      u = s.laneSend f n lmCalDone (w + 2 ^ 8))) ∧
  (∀ (s : State) (f : FieldId) (n : PortId) (c : CalSlot), s.svc f ≠ svcDark → (s.port f n).tx.cal = some c → c.retry = false → Leaves (exec (.calSlotEnd (some (f, n)) false) s) (fun u =>
      (u.port f n).tx.cal = none ∧
      (u.port f n).tx.order.getLast? = some c.wave ∧
      u.freg f Reg.HDL_CAL_STAT.SLOTS = (s.freg f Reg.HDL_CAL_STAT.SLOTS + 1) % 2 ^ 32 ∧
      u = (((s.setTx f n (s.port f n).tx.calFinish.1).fwrap f Reg.HDL_CAL_STAT.SLOTS).laneActs f n (s.port f n).tx.calFinish.2).txModeUpdate f n)) ∧
  (∀ (s : State) (f : FieldId) (n : PortId), s.svc f = svcDark ∨ (s.port f n).rx.cal = none → Leaves (exec (.calSlotEnd (some (f, n)) true) s) (fun u =>
      u = s)) ∧
  (∀ (s : State) (f : FieldId) (n : PortId), s.svc f = svcDark ∨ (s.port f n).tx.cal.all CalSlot.retry = true → Leaves (exec (.calSlotEnd (some (f, n)) false) s) (fun u =>
      u = s)) ∧
  (∀ (s : State) (c : CalSlot) (rx : Bool), s.hub.hostTx.cal = some c → c.retry = false → Leaves (exec (.calSlotEnd none rx) s) (fun u =>
      u.hub.hostTx.cal = none ∧
      u.hub.hostTx.order.getLast? = some c.wave ∧
      u = (s.setHostTx s.hub.hostTx.calFinish.1).hostActs s.hub.hostTx.calFinish.2)) ∧
  (∀ (s : State) (rx : Bool), s.hub.hostTx.cal.all CalSlot.retry = true → Leaves (exec (.calSlotEnd none rx) s) (fun u =>
      u = s)) ∧
  (∀ (s : State) (f : FieldId) (n : PortId) (w : Nat), s.svc f ≠ svcDark → (s.port f n).rx.cal = some w → Leaves (exec (.calLockTimeout (some (f, n)) true) s) (fun u =>
      u = s.laneSend f n lmCalDone w)) ∧
  (∀ (s : State) (f : FieldId) (n : PortId) (c : CalSlot), s.svc f ≠ svcDark → (s.port f n).tx.cal = some c → c.retry = false → Leaves (exec (.calLockTimeout (some (f, n)) false) s) (fun u =>
      u = s.txFail f n c.wave 2 ∧
      bit (u.port f n).tx.failed c.wave = true)) ∧
  (∀ (s : State) (f : FieldId) (n : PortId) (c : CalSlot), s.svc f ≠ svcDark → (s.port f n).tx.cal = some c → c.retry = true → Leaves (exec (.calLockTimeout (some (f, n)) false) s) (fun u =>
      u = s.retryDone f n c.wave false ∧
      (u.port f n).tx.cal = none ∧
      SMap.get (u.port f n).tx.retries 0 c.wave = SMap.get (s.port f n).tx.retries 0 c.wave + 1)) ∧
  (∀ (s : State) (f : FieldId) (n : PortId), s.svc f = svcDark ∨ (s.port f n).rx.cal = none → Leaves (exec (.calLockTimeout (some (f, n)) true) s) (fun u =>
      u = s)) ∧
  (∀ (s : State) (f : FieldId) (n : PortId), s.svc f = svcDark ∨ (s.port f n).tx.cal = none → Leaves (exec (.calLockTimeout (some (f, n)) false) s) (fun u =>
      u = s)) ∧
  (∀ (s : State) (c : CalSlot) (rx : Bool), s.hub.hostTx.cal = some c → c.retry = false → Leaves (exec (.calLockTimeout none rx) s) (fun u =>
      u = s.hostFail false c.wave 2)) ∧
  (∀ (s : State) (c : CalSlot) (rx : Bool), s.hub.hostTx.cal = some c → c.retry = true → Leaves (exec (.calLockTimeout none rx) s) (fun u =>
      u.hub.hostTx.cal = none ∧
      SMap.get u.hub.hostTx.retries 0 c.wave = SMap.get s.hub.hostTx.retries 0 c.wave + 1)) ∧
  (∀ (s : State) (rx : Bool), s.hub.hostTx.cal = none → Leaves (exec (.calLockTimeout none rx) s) (fun u =>
      u = s)) ∧
  (∀ (s : State) (f : FieldId) (n : PortId) (w : Lambda), s.svc f ≠ svcDark → s.calAllowed f n = true → (s.port f n).tx.mayRetry w = true → Leaves (exec (.laneRetry (some (f, n)) w) s) (fun u =>
      u = (s.setTx f n ((s.port f n).tx.retryStart w).1).laneActs f n [.msg lmCal w] ∧
      (u.port f n).tx.cal = some ⟨w, none, none, true⟩ ∧
      (u.port f n).tx.sinceRetry = 0)) ∧
  (∀ (s : State) (f : FieldId) (n : PortId) (w : Lambda), s.svc f = svcDark ∨ s.calAllowed f n = false ∨ (s.port f n).tx.mayRetry w = false → Leaves (exec (.laneRetry (some (f, n)) w) s) (fun u =>
      u = s)) ∧
  (∀ (s : State) (w : Lambda), s.hostCalAllowed = true → s.hub.hostTx.mayRetry w = true → Leaves (exec (.laneRetry none w) s) (fun u =>
      u = s.setHostTx (s.hub.hostTx.retryStart w).1 ∧
      u.hub.hostTx.cal = some ⟨w, none, none, true⟩)) ∧
  (∀ (s : State) (w : Lambda), s.hostCalAllowed = false ∨ s.hub.hostTx.mayRetry w = false → Leaves (exec (.laneRetry none w) s) (fun u =>
      u = s)) ∧
  (∀ (s : State) (f : FieldId) (n : PortId) (w : Lambda) (c : CalSlot) (pass : Bool), s.svc f ≠ svcDark → (s.port f n).tx.cal = some c → c.retry = true → c.wave = w → Leaves (exec (.laneRetryEnd (some (f, n)) false w pass) s) (fun u =>
      u = s.retryDone f n w pass ∧
      (u.port f n).tx.cal = none ∧
      bit (u.port f n).tx.failed w = (!pass && bit (s.port f n).tx.failed w) ∧
      u.freg f Reg.HDL_CAL_STAT.SLOTS = (if pass then (s.freg f Reg.HDL_CAL_STAT.SLOTS + 1) % 2 ^ 32 else s.freg f Reg.HDL_CAL_STAT.SLOTS))) ∧
  (∀ (s : State) (f : FieldId) (n : PortId) (w : Lambda) (pass : Bool), s.svc f = svcDark ∨ (s.port f n).tx.cal.all (fun c => !c.retry || decide (c.wave ≠ w.val)) = true → Leaves (exec (.laneRetryEnd (some (f, n)) false w pass) s) (fun u =>
      u = s)) ∧
  (∀ (s : State) (f : FieldId) (n : PortId) (w : Lambda), s.svc f ≠ svcDark → (s.port f n).rx.cal = some w.val → bit (s.port f n).rx.failed w = true → Leaves (exec (.laneRetryEnd (some (f, n)) true w true) s) (fun u =>
      u = ((s.setRx f n { (s.port f n).rx with failed := setBit (s.port f n).rx.failed w false, reasons := SMap.erase (s.port f n).rx.reasons w }).raise f Ev.HDL_LANE_RESTORED [(1, portNo f n), (1, 1), (1, w.val)]).laneSend f n lmCalDone (w + 2 ^ 8) ∧
      bit (u.port f n).rx.failed w = false)) ∧
  (∀ (s : State) (f : FieldId) (n : PortId) (w : Lambda) (pass : Bool), s.svc f ≠ svcDark → (s.port f n).rx.cal = some w.val → pass = false ∨ bit (s.port f n).rx.failed w = false → Leaves (exec (.laneRetryEnd (some (f, n)) true w pass) s) (fun u =>
      u = s.laneSend f n lmCalDone (w + (if pass then 2 ^ 8 else 0)))) ∧
  (∀ (s : State) (f : FieldId) (n : PortId) (w : Lambda) (pass : Bool), s.svc f = svcDark ∨ (s.port f n).rx.cal ≠ some w.val → Leaves (exec (.laneRetryEnd (some (f, n)) true w pass) s) (fun u =>
      u = s)) ∧
  (∀ (s : State) (w : Lambda) (c : CalSlot) (rx pass : Bool), s.hub.hostTx.cal = some c → c.retry = true → c.wave = w → Leaves (exec (.laneRetryEnd none rx w pass) s) (fun u =>
      (u.hub.hostTx = (s.hub.hostTx.retryFinish w pass).1 ∨ u.hub.hostTx = (s.hub.hostTx.retryFinish w pass).1.pack) ∧
      u.hub.hostTx.cal = none ∧
      bit u.hub.hostTx.failed w = (!pass && bit s.hub.hostTx.failed w))) ∧
  (∀ (s : State) (w : Lambda) (rx pass : Bool), s.hub.hostTx.cal.all (fun c => !c.retry || decide (c.wave ≠ w.val)) = true → Leaves (exec (.laneRetryEnd none rx w pass) s) (fun u =>
      u = s)) ∧
  (∀ (s : State) (f : FieldId) (n : PortId) (w : Lambda), s.svc f ≠ svcDark → Leaves (exec (.cal f n w false) s) (fun u =>
      u = s.setRx f n { (s.port f n).rx with cal := some w.val })) ∧
  (∀ (s : State) (f : FieldId) (n : PortId) (w : Lambda), s.svc f ≠ svcDark → Leaves (exec (.cal f n w true) s) (fun u =>
      (u.port f n).rx.cal = none ∧
      (u.port f n).rx.fallow = (if ((s.port f n).rx.slotOf w).isNone && !bit (s.port f n).rx.failed w then w.val else (s.port f n).rx.fallow))) ∧
  (∀ (s : State) (f : FieldId) (n : PortId) (w : Lambda) (c : CalSlot), s.svc f ≠ svcDark → (s.port f n).tx.cal = some c → c.wave = w → c.retry = false → Leaves (exec (.calDone f n w true) s) (fun u =>
      u = s.calDone f n ∧
      (u.port f n).tx.cal = none ∧
      (u.port f n).tx.order.getLast? = some w.val)) ∧
  (∀ (s : State) (f : FieldId) (n : PortId) (w : Lambda) (c : CalSlot), s.svc f ≠ svcDark → (s.port f n).tx.cal = some c → c.wave = w → c.retry = false → Leaves (exec (.calDone f n w false) s) (fun u =>
      u = s.txFail f n w 2 ∧
      bit (u.port f n).tx.failed w = true)) ∧
  (∀ (s : State) (f : FieldId) (n : PortId) (w : Lambda) (c : CalSlot) (ok : Bool), s.svc f ≠ svcDark → (s.port f n).tx.cal = some c → c.wave = w → c.retry = true → Leaves (exec (.calDone f n w ok) s) (fun u =>
      u = s.retryDone f n w ok ∧
      (u.port f n).tx.cal = none ∧
      bit (u.port f n).tx.failed w = (!ok && bit (s.port f n).tx.failed w))) ∧
  (∀ (s : State) (f : FieldId) (n : PortId) (w : Lambda) (ok : Bool), s.svc f = svcDark ∨ (s.port f n).tx.cal.all (fun c => decide (c.wave ≠ w.val)) = true → Leaves (exec (.calDone f n w ok) s) (fun u =>
      u = s)) ∧
  (∀ (s : State) (f : FieldId) (n : PortId) (w : Lambda) (b : Bool), s.svc f = svcDark → Leaves (exec (.cal f n w b) s) (fun u =>
      u = s))

/-- Of a field that is not DARK. WAVELENGTH_FAIL and LANE_FAILED: the wavelength has failed, unless at the receiver a
pause, a re-lock, its own calibration slot or QUALIFY suspends the rule (R275, R276, R323); of the host port one of its
nine (R597). RX_POWER_MEASURE: the measurements enter the history of ten, and the first is the mean shown (R279).
POWER_REPORT: the far end's are shown. TX_MODE_REQ: the mode requested is kept and the fallback released; 0b11 is
ignored (R269, R285, R303). WAVELENGTH_LOCK: the lock is kept, with 8 of them BEACON is entered; WAVELENGTH_LOCK_LOSS:
it is lost, and a wavelength in service fails (R314, R323, R336). MAP_CHANGE and MODE_CHANGE are held until
SWITCH_GROUP, which carries them out and without one finds the link out of step, as SWITCH_TIMEOUT does with one (R318);
with codewords it counts what each locked wavelength brought (R309, R352), and an armed FEC_SYMBOLS point fires on them
(R697). MODE_CHANGE_RESUME, LIGHT_PAUSE and its timeout (R319, R321). Where a command has nothing to act on, or its
field is DARK (R27), nothing changes. Each answers a next state. Derived, the model's choice: that a command whose
condition does not hold changes nothing (assumption log entry 2), nor one of a DARK field (42), that measurements are
operands (36), and the code of the codewords (40). -/
def Obligations.LaneCommandsComplete : Prop :=
  (∀ (s : State) (f : FieldId) (n : PortId) (w : Lambda) (r : Fin 16), s.svc f ≠ svcDark → s.rxSuspended f n = false → r.val < 4 ∨ 6 < r.val ∨ ((s.port f n).rx.cal ≠ some w.val ∧ s.link f n ≠ lsQualify) → Leaves (exec (.wavelengthFail (some (f, n)) true w r) s) (fun u =>
      u = s.rxFail f n w r ∧
      bit (u.port f n).rx.failed w = true)) ∧
  (∀ (s : State) (f : FieldId) (n : PortId) (w : Lambda) (r : Fin 16), s.svc f = svcDark ∨ s.rxSuspended f n = true ∨ (4 ≤ r.val ∧ r.val ≤ 6 ∧ ((s.port f n).rx.cal = some w.val ∨ s.link f n = lsQualify)) → Leaves (exec (.wavelengthFail (some (f, n)) true w r) s) (fun u =>
      u = s)) ∧
  (∀ (s : State) (f : FieldId) (n : PortId) (w : Lambda) (r : Fin 16), s.svc f ≠ svcDark → ∀ x ∈ ([.wavelengthFail (some (f, n)) false w r, .laneFailed f n w r] : List Instr), Leaves (exec x s) (fun u =>
      u = s.txFail f n w r ∧
      bit (u.port f n).tx.failed w = true)) ∧
  (∀ (s : State) (rx : Bool) (w : Lambda) (r : Fin 16), w.val < 9 → Leaves (exec (.wavelengthFail none rx w r) s) (fun u =>
      u = s.hostFail rx w r ∧
      bit u.hub.hostTx.failed w = true)) ∧
  (∀ (s : State) (rx : Bool) (w : Lambda) (r : Fin 16), 9 ≤ w.val → Leaves (exec (.wavelengthFail none rx w r) s) (fun u =>
      u = s)) ∧
  (∀ (s : State) (f : FieldId) (n : PortId) (l : List Nat), s.svc f ≠ svcDark → s.injArmedAt f injLink 5 n = false → Leaves (exec (.rxPowerMeasure f n l) s) (fun u =>
      (u.port f n).rx.power = (((List.range 16).map (fun w => l.getD w 0x80 % 256)) :: (s.port f n).rx.power).take 10 ∧
      ∀ w : Lambda, (s.port f n).rx.power = [] → u.freg f Reg.HDL_LANE_POWER.RX_PWR n w = l.getD w 0x80 % 256)) ∧
  (∀ (s : State) (f : FieldId) (n : PortId) (l : List Nat), s.svc f ≠ svcDark → s.injArmedAt f injLink 5 n = true → Leaves (exec (.rxPowerMeasure f n l) s) (fun u =>
      u.freg f Reg.INJ_PT.ARM injLink = 0 ∧
      u.freg f Reg.INJ_PT.DONE injLink = 1 ∧
      ((u.port f n).rx.power.head?).map (fun x => nth x (bits (s.injArg f injLink) 0 4)) = some (bits (s.injArg f injLink) 4 8))) ∧
  (∀ (s : State) (f : FieldId) (n : PortId) (part : Fin 4) (l : List Nat) (i : Fin 6), s.svc f ≠ svcDark → 6 * part.val + i.val < 16 → Leaves (exec (.powerReport f n part l) s) (fun u =>
      u.freg f Reg.HDL_LANE_POWER.FAR_PWR n (6 * part.val + i) = l.getD i 0x80 % 256)) ∧
  (∀ (s : State) (f : FieldId) (n : PortId) (m : Fin 4), s.svc f ≠ svcDark → m.val ≠ 3 → Leaves (exec (.txModeReq f n m) s) (fun u =>
      u.freg f Reg.HDL_PORT_CTL.TX_MODE_REQ n = m ∧
      (u.port f n).fallback = false ∧
      u = ((s.fset f Reg.HDL_PORT_CTL.TX_MODE_REQ m n).updPort f n (fun P => { P with fallback := false })).txModeUpdate f n)) ∧
  (∀ (s : State) (f : FieldId) (n : PortId) (m : Fin 4), s.svc f = svcDark ∨ m.val = 3 → Leaves (exec (.txModeReq f n m) s) (fun u =>
      u = s)) ∧
  (∀ (s : State) (f : FieldId) (n : PortId) (w : Lambda), s.svc f ≠ svcDark → Leaves (exec (.wavelengthLock f n w) s) (fun u =>
      (u.port f n).lock = setBit (s.port f n).lock w true ∧
      u.link f n = (if s.link f n = lsLock ∧ 8 ≤ popcount 16 (setBit (s.port f n).lock w true) ∧ s.portLit f n = true then lsBeacon else s.link f n))) ∧
  (∀ (s : State) (f : FieldId) (n : PortId) (w : Lambda), s.svc f ≠ svcDark → ((s.port f n).rx.slotOf w) = none ∨ bit (s.port f n).lock w = false ∨ s.link f n = lsQualify ∨ s.rxSuspended f n = true ∨ (s.port f n).rx.cal = some w.val → Leaves (exec (.wavelengthLockLoss f n w) s) (fun u =>
      u = s.updPort f n (fun P => { P with lock := setBit P.lock w false }))) ∧
  (∀ (s : State) (f : FieldId) (n : PortId) (w : Lambda), s.svc f ≠ svcDark → ((s.port f n).rx.slotOf w).isSome = true → bit (s.port f n).lock w = true → s.link f n ≠ lsQualify → s.rxSuspended f n = false → (s.port f n).rx.cal ≠ some w.val → Leaves (exec (.wavelengthLockLoss f n w) s) (fun u =>
      u = ((s.updPort f n (fun P => { P with lock := setBit P.lock w false })).rxFail f n w 6).laneCheck f n true (s.rxLanes f n) ∧
      bit (u.port f n).rx.failed w = true)) ∧
  (∀ (s : State) (f : FieldId) (n : PortId) (k w : Fin 16), s.svc f ≠ svcDark → k.val ≠ 15 → Leaves (exec (.mapChange f n k w) s) (fun u =>
      (u.port f n).rx.pending = some (.map k w))) ∧
  (∀ (s : State) (f : FieldId) (n : PortId) (w : Fin 16), Leaves (exec (.mapChange f n 15 w) s) (fun u =>
      u = s)) ∧
  (∀ (s : State) (f : FieldId) (n : PortId) (m : Fin 4), s.svc f ≠ svcDark → Leaves (exec (.modeChange f n m) s) (fun u =>
      (u.port f n).rx.pending = some (.mode m))) ∧
  (∀ (s : State) (f : FieldId) (n : PortId) (k w : Nat), s.svc f ≠ svcDark → (s.port f n).rx.pending = some (.map k w) → Leaves (exec (.switchGroup f (n, [])) s) (fun u =>
      u = (s.setRx f n { (s.port f n).rx.put k w with pending := none }).laneCheck f n true (s.rxLanes f n) ∧
      (u.port f n).rx.pending = none)) ∧
  (∀ (s : State) (f : FieldId) (n : PortId) (m : Nat), s.svc f ≠ svcDark → (s.port f n).rx.pending = some (.mode m) → Leaves (exec (.switchGroup f (n, [])) s) (fun u =>
      u.freg f Reg.HDL_PORT_STATUS.RX_MODE n = m % 4 ∧
      (u.port f n).rx.pending = none ∧
      (u.port f n).lock = 0 ∧
      (u.port f n).relock = true)) ∧
  (∀ (s : State) (f : FieldId) (n : PortId), s.svc f ≠ svcDark → (s.port f n).rx.pending = none → Leaves (exec (.switchGroup f (n, [])) s) (fun u =>
      u = s.linkDesync f n ∧
      u.link f n ≠ lsActive)) ∧
  (∀ (s : State) (f : FieldId) (n : PortId) (w : Lambda) (x : Nat × List Nat) (cw : List (Nat × List Nat)), s.svc f ≠ svcDark → bit (s.port f n).lock w = true → s.injArmedAt f injLink 1 n = false → cw.find? (fun x => decide (x.1 = w.val)) = some x → Leaves (exec (.switchGroup f (n, cw)) s) (fun u =>
      u.freg f Reg.RTE_LANE_FEC.CORR n w = (s.freg f Reg.RTE_LANE_FEC.CORR n w + (hear w x.2).corrected) % 2 ^ 24 ∧
      u.freg f Reg.RTE_LANE_FEC.UNCORR n w = satAdd 8 (s.freg f Reg.RTE_LANE_FEC.UNCORR n w) (b2n !(hear w x.2).good))) ∧
  (∀ (s : State) (f : FieldId) (n : PortId) (w : Lambda) (cw : List (Nat × List Nat)), bit (s.port f n).lock w = false ∨ cw.find? (fun x => decide (x.1 = w.val)) = none → Leaves (exec (.switchGroup f (n, cw)) s) (fun u =>
      u.freg f Reg.RTE_LANE_FEC.CORR n w = s.freg f Reg.RTE_LANE_FEC.CORR n w ∧
      u.freg f Reg.RTE_LANE_FEC.UNCORR n w = s.freg f Reg.RTE_LANE_FEC.UNCORR n w)) ∧
  (∀ (s : State) (f : FieldId) (n : PortId) (cw : List (Nat × List Nat)), s.svc f ≠ svcDark → s.injArmedAt f injLink 1 n = true → bit (s.port f n).lock (s.injArg f injLink % 16) = true → cw.any (fun x => decide (x.1 = s.injArg f injLink % 16)) = true → Leaves (exec (.switchGroup f (n, cw)) s) (fun u =>
      u.freg f Reg.INJ_PT.ARM injLink = 0 ∧
      u.freg f Reg.INJ_PT.DONE injLink = 1)) ∧
  (∀ (s : State) (f : FieldId) (n : PortId), s.svc f ≠ svcDark → (s.port f n).rx.pending.isSome = true → Leaves (exec (.switchTimeout f n) s) (fun u =>
      u = s.linkDesync f n ∧
      (u.port f n).rx.pending = none ∧
      u.link f n ≠ lsActive)) ∧
  (∀ (s : State) (f : FieldId) (n : PortId), (s.port f n).rx.pending = none → Leaves (exec (.switchTimeout f n) s) (fun u =>
      u = s)) ∧
  (∀ (s : State) (f : FieldId) (n : PortId), s.svc f ≠ svcDark → (s.port f n).stop = .relock ∨ (s.port f n).stop = .idle → Leaves (exec (.modeChangeResume f n true) s) (fun u =>
      u = s.txResume f n ∧
      (u.port f n).waiting = [])) ∧
  (∀ (s : State) (f : FieldId) (n : PortId), s.svc f ≠ svcDark → (s.port f n).stop = .relock → Leaves (exec (.modeChangeResume f n false) s) (fun u =>
      u = (((s.updPort f n (fun P => { P with stop := .idle })).laneFlush f n).idleFor f n 10000).linkGo f n ∧
      (u.port f n).stop = .idle ∧
      (u.port f n).waiting = [])) ∧
  (∀ (s : State) (f : FieldId) (n : PortId) (b : Bool), (s.port f n).stop = .none ∨ (s.port f n).stop = .pause ∨ ((s.port f n).stop = .idle ∧ b = false) → Leaves (exec (.modeChangeResume f n b) s) (fun u =>
      u = s)) ∧
  (∀ (s : State) (f : FieldId) (n : PortId) (b : Bool), s.svc f ≠ svcDark → Leaves (exec (.lightPause f n b) s) (fun u =>
      u.freg f Reg.HDL_PORT_STATUS.LIGHT_PAUSE n = (if b then 1 else 0))) ∧
  (∀ (s : State) (f : FieldId) (n : PortId), s.svc f ≠ svcDark → Leaves (exec (.lightPauseTimeout f n) s) (fun u =>
      u.freg f Reg.HDL_PORT_STATUS.LIGHT_PAUSE n = 0)) ∧
  (∀ (s : State) (f : FieldId) (n : PortId) (w : Lambda) (r k : Fin 16) (part m : Fin 4) (l : List Nat) (cw : List (Nat × List Nat)) (b : Bool), s.svc f = svcDark → ∀ x ∈ ([.wavelengthFail (some (f, n)) b w r, .laneFailed f n w r, .rxPowerMeasure f n l, .powerReport f n part l, .wavelengthLock f n w, .wavelengthLockLoss f n w,
    .mapChange f n k r, .modeChange f n m, .switchGroup f (n, cw), .switchTimeout f n, .modeChangeResume f n b, .lightPause f n b, .lightPauseTimeout f n] : List Instr), Leaves (exec x s) (fun u =>
      u = s))

/-- MARGIN_EVAL evaluates both modules from their margins, less what an armed injection point takes off (R280 to R282,
R698), and with both below 4 and FALLBACK_AUTO every port still in L256 falls back (R285). SWITCHOVER_RUN_START takes
the queued switchovers of its kind into the run: those queued at once (R283), or, at action 13 of a mark, those of the
fields whose turn it is that were queued when the mark came (R528). ENGINE_SWITCHOVER begins the next one of the run
where its conditions hold, drops it where they do not, and takes an engine that has lost the hub out of the run;
ENGINE_SWITCHOVER_END ends it; ENGINE_SWITCH_REQ and ENGINE_SWITCH_NOW queue one (R282, R283, R286). MODULE_POLL reads
STATUS and BIAS_READ, each answered or counted as missed, and a fault read, as MODULE_IBI, marks the module faulty
(R289). LASER_EN_DEASSERT: every engine whose rim hears the hub is dark, STATE INTERLOCK (R292). RELIGHT in INTERLOCK or
FAULT runs the light sequence again (R291, R292). INLET_LOST: the inlet is off, and its engine runs on the other one or
is dark (R293). APR_ENTER closes the shutter of a port or of the host port, and APR_EXIT opens it where the engine has
light (R294). Where a command has nothing to act on, or in hub-lost operation (R295), nothing changes. Each answers a
next state. Until the host-light step no command is sent to a module (R290). Derived, the model's choice: that a command
whose condition does not hold changes nothing (assumption log entry 2), nor one of a DARK field (42), that measurements
and answers are operands (36), that a module with FAULT set is CRITICAL and which engine leaves a run (44). -/
def Obligations.LightCommandsComplete : Prop :=
  (∀ (s : State) (a b : List Int), s.hreg Reg.INJ_HPT.ARM 1 ≠ 1 ∨ s.hreg Reg.INJ_HPT.POINT 1 ≠ 2 → Leaves (exec (.marginEval a b) s) (fun u =>
      u.hreg Reg.HDL_MODULE.MARGIN 0 = marginCode (s.moduleMargin 0 a b) ∧
      u.hreg Reg.HDL_MODULE.MARGIN 1 = marginCode (s.moduleMargin 1 a b) ∧
      u.hreg Reg.HDL_MODULE.FADE 0 = fadeOf (s.moduleMargin 0 a b) (s.hreg Reg.HDL_MODULE.BIAS 0) (s.hreg Reg.HDL_MODULE.FAULT 0) ∧
      u.hreg Reg.HDL_MODULE.FADE 1 = fadeOf (s.moduleMargin 1 a b) (s.hreg Reg.HDL_MODULE.BIAS 1) (s.hreg Reg.HDL_MODULE.FAULT 1))) ∧
  (∀ (s : State) (a b : List Int) (x y : Int), s.hreg Reg.INJ_HPT.ARM 1 ≠ 1 ∨ s.hreg Reg.INJ_HPT.POINT 1 ≠ 2 → s.moduleMargin 0 a b = some x → s.moduleMargin 1 a b = some y → x < 4 → y < 4 → s.hreg Reg.HDL_LIGHT_CTL.FALLBACK_AUTO = 1 → Leaves (exec (.marginEval a b) s) (fun u =>
      ∀ (f : FieldId) (n : PortId), s.freg f Reg.HDL_PORT_STATUS.TX_MODE n = 0 → (u.port f n).fallback = true)) ∧
  (∀ (s : State) (a b : List Int) (m : Fin 2), s.hreg Reg.INJ_HPT.ARM 1 = 1 → s.hreg Reg.INJ_HPT.POINT 1 = 2 → s.hreg Reg.INJ_HPT.TARGET 1 = m → Leaves (exec (.marginEval a b) s) (fun u =>
      u.hreg Reg.INJ_HPT.ARM 1 = 0 ∧
      u.hreg Reg.INJ_HPT.DONE 1 = 1 ∧
      u.hreg Reg.HDL_MODULE.MARGIN m = marginCode ((s.moduleMargin m a b).map (fun x => x - (bits (s.hreg Reg.INJ_HPT.ARG 1) 0 8 : Nat))))) ∧
  (∀ (s : State), s.hub.light.run = [] → s.hub.light.active = none → Leaves (exec (.switchoverRunStart false) s) (fun u =>
      u.hub.light.run = allEngines.flatMap (fun e => (s.hub.light.queue.filter (fun r => !r.atMark)).filter (fun r => r.engine = e)) ∧
      u.hub.light.queue = s.hub.light.queue.filter (fun r => r.atMark))) ∧
  (∀ (s : State), s.hub.light.run ≠ [] ∨ s.hub.light.active ≠ none → Leaves (exec (.switchoverRunStart false) s) (fun u =>
      u = s)) ∧
  (∀ (s : State) (f : FieldId), Leaves (exec (.switchoverRunStart true) s) (fun u =>
      (u.field f).tally.todo = (if s.switchTurn f then (s.field f).tally.todo.filter (fun x => x ≠ 13) else (s.field f).tally.todo) ∧
      u.hub.light.run = s.hub.light.run ++ allEngines.flatMap (fun e => (s.hub.light.queue.filter (fun r => r.due && s.switchTurn r.field)).filter (fun r => r.engine = e)) ∧
      u.hub.light.queue = s.hub.light.queue.filter (fun r => !(r.due && s.switchTurn r.field)))) ∧
  (∀ (s : State) (r : SwReq) (l : List SwReq), s.hub.light.active = none → s.hub.light.run = r :: l → s.engHubLost r.engine = false → s.canAnnounce r.engine = true → s.switchOk r = true → Leaves (exec (.engineSwitchover) s) (fun u =>
      u = ((s.updLight (fun L => { L with run := l })).switchTaken r).switchBegin r ∧
      u.hub.light.active = some r ∧
      u.engSrc r.engine = r.target % 2 ∧
      u.engGet r.engine Reg.HDL_ENGINE_STATUS.SWITCHING Reg.HDL_HOST_ENGINE.SWITCHING = 1)) ∧
  (∀ (s : State) (r : SwReq) (l : List SwReq), s.hub.light.active = none → s.hub.light.run = r :: l → s.engHubLost r.engine = false → s.canAnnounce r.engine = true → s.switchOk r = false → Leaves (exec (.engineSwitchover) s) (fun u =>
      u.hub.light.active = none ∧
      u.hub.light.run = l ∧
      u.engSrc r.engine = s.engSrc r.engine)) ∧
  (∀ (s : State), s.hub.light.active ≠ none ∨ s.hub.light.run = [] ∨ (s.hub.light.run.head?).any (fun r => !s.engHubLost r.engine && !s.canAnnounce r.engine) = true → Leaves (exec (.engineSwitchover) s) (fun u =>
      u = s)) ∧
  (∀ (s : State) (r : SwReq) (l : List SwReq), s.hub.light.active = none → s.hub.light.run = r :: l → s.engHubLost r.engine = true → Leaves (exec (.engineSwitchover) s) (fun u =>
      u = s.updLight (fun L => { L with run := l }.runOver) ∧
      u.hub.light.run = l)) ∧
  (∀ (s : State) (r : SwReq) (t : Nat) (l : List (Nat × Nat)), s.hub.light.active = some r → Leaves (exec (.engineSwitchoverEnd t l) s) (fun u =>
      u = s.switchEnd r t l ∧
      u.hub.light.active = none ∧
      u.engGet r.engine Reg.HDL_ENGINE_STATUS.SWITCHING Reg.HDL_HOST_ENGINE.SWITCHING = 0)) ∧
  (∀ (s : State) (t : Nat) (l : List (Nat × Nat)), s.hub.light.active = none → Leaves (exec (.engineSwitchoverEnd t l) s) (fun u =>
      u = s)) ∧
  (∀ (s : State) (f : FieldId) (e : Fin 4) (t : Fin 2), s.svc f ≠ svcDark → Leaves (exec (.engineSwitchReq f e t) s) (fun u =>
      u.hub.light.queue = s.hub.light.queue ++ [⟨4 * f + e, t, true, false, false, false, false⟩] ∧
      u.freg f Reg.HDL_ENGINE_CTL.TARGET 0 e = t ∧
      u.freg f Reg.HDL_ENGINE_CTL.REQ 0 e = 1)) ∧
  (∀ (s : State) (f : FieldId) (e : Fin 4) (t : Fin 2), s.svc f ≠ svcDark → Leaves (exec (.engineSwitchNow f e t) s) (fun u =>
      u.hub.light.queue = s.hub.light.queue ++ [⟨4 * f + e, t, false, false, false, false, false⟩] ∧
      u.freg f Reg.HDL_ENGINE_CTL.TARGET 0 e = t ∧
      u.freg f Reg.HDL_ENGINE_CTL.NOW 0 e = 1)) ∧
  (∀ (s : State) (m : Fin 2), s.hubGone = false → s.hub.light.awake = true → Leaves (exec (.modulePoll m (none, none)) s) (fun u =>
      SMap.get u.hub.light.missed 0 m = SMap.get s.hub.light.missed 0 m + 2 ∧
      (1 ≤ SMap.get s.hub.light.missed 0 m → u.hreg Reg.HDL_MODULE.FAULT m = 1))) ∧
  (∀ (s : State) (m : Fin 2) (st : Option Nat) (bias : Nat), s.hubGone = false → s.hub.light.awake = true → Leaves (exec (.modulePoll m (st, some bias)) s) (fun u =>
      u.hreg Reg.HDL_MODULE.BIAS m = bias % 2 ^ 10 ∧
      SMap.get u.hub.light.missed 0 m = 0)) ∧
  (∀ (s : State) (m : Fin 2) (b : Nat) (bias : Option Nat), s.hubGone = false → s.hub.light.awake = true → s.hreg Reg.INJ_HPT.ARM 1 ≠ 1 ∨ s.hreg Reg.INJ_HPT.POINT 1 ≠ 1 ∨ s.hreg Reg.INJ_HPT.TARGET 1 ≠ m → b % 256 ≠ 0 → Leaves (exec (.modulePoll m (some b, bias)) s) (fun u =>
      u.hreg Reg.HDL_MODULE.FAULT m = 1)) ∧
  (∀ (s : State) (m : Fin 2) (b : Nat), s.hubGone = false → s.hub.light.awake = true → Leaves (exec (.modulePoll m (some b, none)) s) (fun u =>
      SMap.get u.hub.light.missed 0 m = 1)) ∧
  (∀ (s : State) (m : Fin 2) (b : Nat) (bias : Option Nat), s.hubGone = false → s.hub.light.awake = true → s.hreg Reg.INJ_HPT.ARM 1 = 1 → s.hreg Reg.INJ_HPT.POINT 1 = 1 → s.hreg Reg.INJ_HPT.TARGET 1 = m → Leaves (exec (.modulePoll m (some b, bias)) s) (fun u =>
      u.hreg Reg.INJ_HPT.ARM 1 = 0 ∧
      u.hreg Reg.INJ_HPT.DONE 1 = 1 ∧
      (bits (s.hreg Reg.INJ_HPT.ARG 1) 0 8 ≠ 0 → u.hreg Reg.HDL_MODULE.FAULT m = 1))) ∧
  (∀ (s : State) (m : Fin 2) (x : Nat), s.hubGone = false → x % 256 ≠ 0 → Leaves (exec (.moduleIbi m x) s) (fun u =>
      u = s.moduleFault m (x % 256) false ∧
      u.hreg Reg.HDL_MODULE.FAULT m = 1)) ∧
  (∀ (s : State) (m : Fin 2) (x : Nat), s.hubGone = true → Leaves (exec (.moduleIbi m x) s) (fun u =>
      u = s)) ∧
  (∀ (s : State) (m : Fin 2) (st bias : Option Nat), s.hubGone = true ∨ s.hub.light.awake = false → Leaves (exec (.modulePoll m (st, bias)) s) (fun u =>
      u = s)) ∧
  (∀ (s : State), s.hubGone = false → Leaves (exec (.laserEnDeassert) s) (fun u =>
      u.hreg Reg.HDL_LIGHT_STATUS.STATE = ltInterlock ∧
      u.hub.light.laserEn = false ∧
      ∀ e ∈ allEngines, s.engHubLost e = false → u.engIsDark e = true)) ∧
  (∀ (s : State), s.hubGone = true → Leaves (exec (.laserEnDeassert) s) (fun u =>
      u = s.updLight (fun L => { L with laserEn := false }))) ∧
  (∀ (s : State) (env : LightEnv), s.hub.light.awake = true → s.hreg Reg.HDL_LIGHT_STATUS.STATE = ltInterlock ∨ s.hreg Reg.HDL_LIGHT_STATUS.STATE = ltFault → env.pgoodOpt = true ∨ s.railUp railOpt = true → Leaves (exec (.relight env) s) (fun u =>
      u = (((s.hset Reg.HDL_LIGHT_CTL.RELIGHT 0).hset Reg.PWR_RAIL_STATUS.PWREN_OPT 1).optUp).lightSequence { env with pgoodOpt := true } ∧
      (env.laserEn = false → u.hreg Reg.HDL_LIGHT_STATUS.STATE = ltInterlock ∧ u.hreg Reg.HDL_LIGHT_STATUS.RESULT = St.LASER_INTERLOCK) ∧
      (env.laserEn = true → ∀ code ∈ identResult env.ident, u.hreg Reg.HDL_LIGHT_STATUS.STATE = ltFault ∧ u.hreg Reg.HDL_LIGHT_STATUS.RESULT = code))) ∧
  (∀ (s : State) (env : LightEnv), s.hub.light.awake = true → s.hreg Reg.HDL_LIGHT_STATUS.STATE = ltInterlock ∨ s.hreg Reg.HDL_LIGHT_STATUS.STATE = ltFault → env.pgoodOpt = false → s.railUp railOpt = false → Leaves (exec (.relight env) s) (fun u =>
      u.hreg Reg.HDL_LIGHT_STATUS.STATE = ltFault ∧
      u.hreg Reg.HDL_LIGHT_STATUS.RESULT = St.OPT_POWER)) ∧
  (∀ (s : State) (env : LightEnv), (s.hreg Reg.HDL_LIGHT_STATUS.STATE ≠ ltInterlock ∧ s.hreg Reg.HDL_LIGHT_STATUS.STATE ≠ ltFault) ∨ s.hub.light.awake = false → Leaves (exec (.relight env) s) (fun u =>
      u = s)) ∧
  (∀ (s : State) (e : Fin 17) (m : Fin 2), s.outputOn m e = true → s.engHubLost e = false → Leaves (exec (.inletLost e m) s) (fun u =>
      u.outputOn m e = false ∧
      u.inletOk e m = false ∧
      (s.engSrc e = m → s.engIsDark e = false → s.inletOk e (1 - m.val) = true → u.engSrc e = 1 - m.val) ∧
      (s.engSrc e = m → s.inletOk e (1 - m.val) = false → u.engIsDark e = true))) ∧
  (∀ (s : State) (e : Fin 17) (m : Fin 2), s.outputOn m e = false ∨ s.engHubLost e = true → Leaves (exec (.inletLost e m) s) (fun u =>
      u = s)) ∧
  (∀ (s : State) (f : FieldId) (n : PortId), s.svc f ≠ svcDark → (s.port f n).shutter = true → s.freg f Reg.HDL_PORT_STATUS.LIGHT_PAUSE n = 0 → Leaves (exec (.aprEnter (some (f, n))) s) (fun u =>
      (u.port f n).shutter = false ∧
      u.freg f Reg.HDL_PORT_STATUS.APR n = 1)) ∧
  (∀ (s : State) (f : FieldId) (n : PortId), s.svc f = svcDark ∨ (s.port f n).shutter = false ∨ s.freg f Reg.HDL_PORT_STATUS.LIGHT_PAUSE n ≠ 0 → Leaves (exec (.aprEnter (some (f, n))) s) (fun u =>
      u = s)) ∧
  (∀ (s : State), s.hub.light.hostOpen = true → Leaves (exec (.aprEnter none) s) (fun u =>
      u.hub.light.hostOpen = false ∧
      u.hub.light.hostApr = true ∧
      u.hostLink = hpDown)) ∧
  (∀ (s : State), s.hub.light.hostOpen = false → Leaves (exec (.aprEnter none) s) (fun u =>
      u = s)) ∧
  (∀ (s : State) (f : FieldId) (n : PortId), s.svc f ≠ svcDark → s.freg f Reg.HDL_PORT_STATUS.APR n = 1 → Leaves (exec (.aprExit (some (f, n))) s) (fun u =>
      (u.port f n).shutter = (!s.engineDark f n || (s.port f n).shutter) ∧
      u.freg f Reg.HDL_PORT_STATUS.APR n = 0)) ∧
  (∀ (s : State) (f : FieldId) (n : PortId), s.svc f = svcDark ∨ s.freg f Reg.HDL_PORT_STATUS.APR n ≠ 1 → Leaves (exec (.aprExit (some (f, n))) s) (fun u =>
      u = s)) ∧
  (∀ (s : State), s.hub.light.hostApr = true → Leaves (exec (.aprExit none) s) (fun u =>
      u.hub.light.hostOpen = !s.engIsDark 16 ∧
      u.hub.light.hostApr = false ∧
      u.hostLink = (if s.engIsDark 16 then s.hostLink else hpTraining))) ∧
  (∀ (s : State), s.hub.light.hostApr = false → Leaves (exec (.aprExit none) s) (fun u =>
      u = s)) ∧
  (∀ (s : State) (f : FieldId) (e : Fin 4) (t : Fin 2), s.svc f = svcDark → ∀ x ∈ ([.engineSwitchReq f e t, .engineSwitchNow f e t] : List Instr), Leaves (exec x s) (fun u =>
      u = s))

/-- Of a field that is not DARK. LOCK_TIMEOUT in LOCK: RESULT says so, once (R336). BEACON: a part is kept; the fourth
completes a beacon, and one that comes whole twice in a row is accepted and handed to discovery (R338, R362).
BEACON_SEND and LANE_CONTROL_REPEAT send or queue their messages (R317, R338). TRAIN: the far end's READY is kept, and
with the port READY, which a silent transmitter has not sent, the link is ACTIVE with the lanes it needs (R277); in
RETRAIN, a far end past its own retrain sends it back to BEACON (R337, R343). QUALIFY_END: the wavelength's result is
kept and its codewords counted; QUAL_RESULT: the far end's mask is kept, and with both results the link has failed or
takes its lane maps from them (R339 to R341, R352, R353). RETRAIN and RX_SILENT_TIMEOUT of an ACTIVE link: it
retrains, or has failed at the ninth retrain within 10 s (R342, R344); LINK_RETRY does the same, and a FAILED one
locks anew (R349). REPLAY_TIMEOUT: it replays (R329). RETRAIN_TIMEOUT: back to BEACON (R343). LINK_ENABLE_CLEAR:
DISABLED (R336). MISSING_TIMEOUT: the outcome is MISSING (R362). DISC_APPROVAL_WITHDRAW: no approval (R389);
DISC_APPROVE approves each port of the mask that may be, and refuses the others (R365). Where a command has nothing to
act on, or its field is DARK (R27), nothing changes. Each answers a next state. Derived, the model's choice: that a
command whose condition does not hold changes nothing (assumption log entry 2), nor one of a DARK field (42), and that
the count of a wavelength's codewords is an operand (36). -/
def Obligations.LinkStateCommandsComplete : Prop :=
  (∀ (s : State) (f : FieldId) (n : PortId), s.svc f ≠ svcDark → s.link f n = lsLock → (s.port f n).lockLate = false → Leaves (exec (.lockTimeout f n) s) (fun u =>
      u.freg f Reg.RTE_LINK_STATUS.RESULT n = St.LINK_LOCK_TIMEOUT ∧
      (u.port f n).lockLate = true)) ∧
  (∀ (s : State) (f : FieldId) (n : PortId), s.link f n ≠ lsLock ∨ (s.port f n).lockLate = true → Leaves (exec (.lockTimeout f n) s) (fun u =>
      u = s)) ∧
  (∀ (s : State) (f : FieldId) (n : PortId) (p : Fin 4) (a : Nat), s.svc f ≠ svcDark → (SMap.insert (s.port f n).parts p (setBits (trunc 56 a) 0 2 p)).length < 4 → Leaves (exec (.beacon f n p a) s) (fun u =>
      u = s.updPort f n (fun Q => { Q with parts := SMap.insert (s.port f n).parts p (setBits (trunc 56 a) 0 2 p) }))) ∧
  (∀ (s : State) (f : FieldId) (n : PortId) (p : Fin 4) (a : Nat), s.svc f ≠ svcDark → 4 ≤ (SMap.insert (s.port f n).parts p (setBits (trunc 56 a) 0 2 p)).length → (s.port f n).whole ≠ ((SMap.insert (s.port f n).parts p (setBits (trunc 56 a) 0 2 p)).map (fun x => x.2)) ∨ (s.port f n).accepted = ((SMap.insert (s.port f n).parts p (setBits (trunc 56 a) 0 2 p)).map (fun x => x.2)) ∨ s.link f n = lsDisabled ∨ s.link f n = lsLock → Leaves (exec (.beacon f n p a) s) (fun u =>
      u = s.updPort f n (fun Q => { Q with parts := [], whole := ((SMap.insert (s.port f n).parts p (setBits (trunc 56 a) 0 2 p)).map (fun x => x.2)) }))) ∧
  (∀ (s : State) (f : FieldId) (n : PortId) (p : Fin 4) (a : Nat), s.svc f ≠ svcDark → 4 ≤ (SMap.insert (s.port f n).parts p (setBits (trunc 56 a) 0 2 p)).length → (s.port f n).whole = ((SMap.insert (s.port f n).parts p (setBits (trunc 56 a) 0 2 p)).map (fun x => x.2)) → (s.port f n).accepted ≠ ((SMap.insert (s.port f n).parts p (setBits (trunc 56 a) 0 2 p)).map (fun x => x.2)) → s.link f n ≠ lsDisabled → s.link f n ≠ lsLock → Leaves (exec (.beacon f n p a) s) (fun u =>
      (u.port f n).heard = true ∧
      (u.port f n).seen.map (fun b => b.port) = some (bits (nth ((SMap.insert (s.port f n).parts p (setBits (trunc 56 a) 0 2 p)).map (fun x => x.2)) 0) 2 6) ∧
      u.freg f Reg.RTE_DISC_STATUS.SEEN_PORT n = bits (nth ((SMap.insert (s.port f n).parts p (setBits (trunc 56 a) 0 2 p)).map (fun x => x.2)) 0) 2 6 ∧
      u.freg f Reg.RTE_DISC_STATUS.SEEN_SERIAL n = bits (nth ((SMap.insert (s.port f n).parts p (setBits (trunc 56 a) 0 2 p)).map (fun x => x.2)) 0) 8 48 ∧
      u.freg f Reg.RTE_DISC_STATUS.SEEN_NODE n = bits (nth ((SMap.insert (s.port f n).parts p (setBits (trunc 56 a) 0 2 p)).map (fun x => x.2)) 1) 8 16)) ∧
  (∀ (s : State) (f : FieldId) (n : PortId), s.svc f ≠ svcDark → s.link f n = lsBeacon ∨ s.link f n = lsHeld ∨ s.link f n = lsActive ∨ (s.link f n = lsRetrain ∧ 8 ≤ popcount 16 (s.port f n).lock) → s.portLit f n = true → s.injArmedAt f injLink 6 n = false → Leaves (exec (.beaconSend f n) s) (fun u =>
      u = (((s.laneSend f n lmBeacon (portNo f n * 2 ^ 2 + trunc 48 Config.packageSerial * 2 ^ 8)).laneSend f n lmBeacon (1 + s.node f * 2 ^ 8 + s.link f n * 2 ^ 24)).laneSend f n lmBeacon
        (2 + bits (s.freg f Reg.RTE_PLAN_HDR.DIGEST) 0 48 * 2 ^ 8)).laneSend f n lmBeacon (3 + bits (s.freg f Reg.RTE_PLAN_HDR.DIGEST) 48 16 * 2 ^ 8))) ∧
  (∀ (s : State) (f : FieldId) (n : PortId), s.svc f ≠ svcDark → s.link f n = lsActive → s.portLit f n = true → s.injArmedAt f injLink 6 n = true → (s.port f n).stop.silent = true → Leaves (exec (.beaconSend f n) s) (fun u =>
      u.freg f Reg.INJ_PT.ARM injLink = 0 ∧
      u.freg f Reg.INJ_PT.DONE injLink = 1 ∧
      (u.port f n).waiting = (s.port f n).waiting ++ [(lmBeacon, portNo f n * 2 ^ 2 + trunc 48 Config.packageSerial * 2 ^ 8), (lmBeacon, 1 + (s.node f ^^^ bits (s.injArg f injLink) 0 16) * 2 ^ 8 + lsActive * 2 ^ 24), (lmBeacon, 2 + bits (s.freg f Reg.RTE_PLAN_HDR.DIGEST) 0 48 * 2 ^ 8), (lmBeacon, 3 + bits (s.freg f Reg.RTE_PLAN_HDR.DIGEST) 48 16 * 2 ^ 8)])) ∧
  (∀ (s : State) (f : FieldId) (n : PortId), s.portLit f n = false ∨ (s.link f n ≠ lsBeacon ∧ s.link f n ≠ lsHeld ∧ s.link f n ≠ lsActive ∧ (s.link f n ≠ lsRetrain ∨ popcount 16 (s.port f n).lock < 8)) → Leaves (exec (.beaconSend f n) s) (fun u =>
      u = s)) ∧
  (∀ (s : State) (f : FieldId) (n : PortId), s.svc f ≠ svcDark → s.portLit f n = true → s.link f n = lsActive ∨ s.link f n = lsHeld → Leaves (exec (.laneControlRepeat f n) s) (fun u =>
      u = (((List.range 16).filter (fun w => bit (s.port f n).rx.failed w && ((s.port f n).rx.slotOf w).isSome)).foldl (fun t w =>
        t.laneSend f n lmLaneFailed (w + SMap.get (s.port f n).rx.reasons 0 w * 2 ^ 8)) s).powerReport f n)) ∧
  (∀ (s : State) (f : FieldId) (n : PortId), s.svc f ≠ svcDark → s.portLit f n = true → s.link f n ≠ lsActive → s.link f n ≠ lsHeld → s.link f n ≠ lsQualify → Leaves (exec (.laneControlRepeat f n) s) (fun u =>
      u = ((((List.range 16).filter (fun w => bit (s.port f n).rx.failed w && ((s.port f n).rx.slotOf w).isSome)).foldl (fun t w =>
        t.laneSend f n lmLaneFailed (w + SMap.get (s.port f n).rx.reasons 0 w * 2 ^ 8)) s).laneSend f n lmTrain (s.trainArg f n)).powerReport f n)) ∧
  (∀ (s : State) (f : FieldId) (n : PortId), s.svc f ≠ svcDark → s.portLit f n = true → s.link f n = lsQualify → Leaves (exec (.laneControlRepeat f n) s) (fun u =>
      u = ((fun t : State => if (s.port f n).qualDone = 0xFFFF then t.laneSend f n lmQual (s.port f n).qualPass else t)
        (if (s.port f n).ready = true then (((List.range 16).filter (fun w => bit (s.port f n).rx.failed w && ((s.port f n).rx.slotOf w).isSome)).foldl (fun t w =>
        t.laneSend f n lmLaneFailed (w + SMap.get (s.port f n).rx.reasons 0 w * 2 ^ 8)) s).laneSend f n lmTrain (s.trainArg f n) else (((List.range 16).filter (fun w => bit (s.port f n).rx.failed w && ((s.port f n).rx.slotOf w).isSome)).foldl (fun t w =>
        t.laneSend f n lmLaneFailed (w + SMap.get (s.port f n).rx.reasons 0 w * 2 ^ 8)) s))).powerReport f n)) ∧
  (∀ (s : State) (f : FieldId) (n : PortId), s.portLit f n = false → Leaves (exec (.laneControlRepeat f n) s) (fun u =>
      u = s)) ∧
  (∀ (s : State) (f : FieldId) (n : PortId) (st : Fin 16) (r : Bool) (q : Nat), s.svc f ≠ svcDark → s.link f n ≠ lsRetrain ∨ r = false ∨ st.val = lsRetrain ∨ st.val = lsActive → r = false ∨ (s.port f n).ready = false ∨ (s.port f n).stop.silent = true → Leaves (exec (.train f n st r q) s) (fun u =>
      u.freg f Reg.RTE_LINK_STATUS.FAR_READY n = b2n r ∧
      (u.port f n).farReady = r ∧
      (u.port f n).farAck = trunc 14 q)) ∧
  (∀ (s : State) (f : FieldId) (n : PortId) (st : Fin 16) (q : Nat), s.svc f ≠ svcDark → s.link f n ≠ lsRetrain ∨ st.val = lsRetrain ∨ st.val = lsActive → (s.port f n).ready = true → (s.port f n).stop.silent = false → s.link f n = lsQualify ∨ (8 ≤ s.txLanes f n ∧ 8 ≤ s.rxLanes f n) → Leaves (exec (.train f n st true q) s) (fun u =>
      u.freg f Reg.RTE_LINK_STATUS.FAR_READY n = 1 ∧
      u.link f n = lsActive)) ∧
  (∀ (s : State) (f : FieldId) (n : PortId) (st : Fin 16) (q : Nat), s.svc f ≠ svcDark → s.link f n = lsRetrain → st.val ≠ lsRetrain → st.val ≠ lsActive → Leaves (exec (.train f n st true q) s) (fun u =>
      u.link f n = lsBeacon ∧
      u.freg f Reg.RTE_LINK_STATUS.PRESERVED n = 0 ∧
      (u.port f n).held = [])) ∧
  (∀ (s : State) (f : FieldId) (n : PortId) (m : Nat), s.svc f ≠ svcDark → s.link f n = lsQualify → (s.port f n).qualDone ≠ 0xFFFF → Leaves (exec (.qualResult f n m) s) (fun u =>
      (u.port f n).farPass = some (m % 2 ^ 16) ∧
      ∀ w : Lambda, bit m w = false → bit (u.port f n).tx.failed w = true)) ∧
  (∀ (s : State) (f : FieldId) (n : PortId) (m : Nat), s.svc f ≠ svcDark → s.link f n = lsQualify → (s.port f n).qualDone = 0xFFFF → Leaves (exec (.qualResult f n m) s) (fun u =>
      u.freg f Reg.RTE_QUAL_RESULT.TX_PASS n = m % 2 ^ 16 ∧
      u.freg f Reg.RTE_QUAL_RESULT.RX_PASS n = (s.port f n).qualPass % 2 ^ 16 ∧
      (popcount 16 (s.port f n).qualPass < 8 ∨ popcount 16 m < 8 → u.link f n = lsFailed ∧ u.freg f Reg.RTE_LINK_STATUS.RESULT n = St.LINK_QUALIFY_FAILED) ∧
      (8 ≤ popcount 16 (s.port f n).qualPass → 8 ≤ popcount 16 m → ((u.port f n).tx.map, (u.port f n).tx.out) = passMap (m % 2 ^ 16) ∧ ((u.port f n).rx.map, (u.port f n).rx.out) = passMap (s.port f n).qualPass))) ∧
  (∀ (s : State) (f : FieldId) (n : PortId) (w : Lambda) (l c x : Nat), s.svc f ≠ svcDark → s.link f n = lsQualify → bit (s.port f n).qualDone w = false → setBit (s.port f n).qualDone w true ≠ 0xFFFF ∨ (s.port f n).farPass = none → Leaves (exec (.qualifyEnd f n w l c x) s) (fun u =>
      (u.port f n).qualDone = setBit (s.port f n).qualDone w true ∧
      (u.port f n).qualPass = setBit (s.port f n).qualPass w (qualPasses (SMap.get (s.port f n).qualN 0 w + l) (SMap.get (s.port f n).qualE 0 w + c) (SMap.get (s.port f n).qualU 0 w + x)) ∧
      bit (u.port f n).rx.failed w = (!(qualPasses (SMap.get (s.port f n).qualN 0 w + l) (SMap.get (s.port f n).qualE 0 w + c) (SMap.get (s.port f n).qualU 0 w + x)) || bit (s.port f n).rx.failed w) ∧
      u.freg f Reg.RTE_LANE_FEC.CORR n w = (s.freg f Reg.RTE_LANE_FEC.CORR n w + c) % 2 ^ 24)) ∧
  (∀ (s : State) (f : FieldId) (n : PortId) (w : Lambda) (l c x m : Nat), s.svc f ≠ svcDark → s.link f n = lsQualify → bit (s.port f n).qualDone w = false → setBit (s.port f n).qualDone w true = 0xFFFF → (s.port f n).farPass = some m → Leaves (exec (.qualifyEnd f n w l c x) s) (fun u =>
      u.freg f Reg.RTE_QUAL_RESULT.RX_PASS n = setBit (s.port f n).qualPass w (qualPasses (SMap.get (s.port f n).qualN 0 w + l) (SMap.get (s.port f n).qualE 0 w + c) (SMap.get (s.port f n).qualU 0 w + x)) % 2 ^ 16 ∧
      u.freg f Reg.RTE_QUAL_RESULT.TX_PASS n = m % 2 ^ 16 ∧
      u.freg f Reg.RTE_LANE_FEC.CORR n w = (s.freg f Reg.RTE_LANE_FEC.CORR n w + c) % 2 ^ 24)) ∧
  (∀ (s : State) (f : FieldId) (n : PortId) (w : Lambda) (m l c x : Nat), s.link f n ≠ lsQualify → ∀ y ∈ ([.qualResult f n m, .qualifyEnd f n w l c x] : List Instr), Leaves (exec y s) (fun u =>
      u = s)) ∧
  (∀ (s : State) (f : FieldId) (n : PortId) (w : Lambda) (l c x : Nat), bit (s.port f n).qualDone w = true → Leaves (exec (.qualifyEnd f n w l c x) s) (fun u =>
      u = s)) ∧
  (∀ (s : State) (f : FieldId) (n : PortId), s.svc f ≠ svcDark → s.link f n = lsActive → ((s.port f n).retrains.filter (fun t => s.now < t + 10000 * oneMs)).length < 8 → (s.port f n).lock = 0 → s.rxSuspended f n = false → ∀ x ∈ ([.retrain f n, .linkRetry f n, .rxSilentTimeout f n] : List Instr), Leaves (exec x s) (fun u =>
      u = s.linkRetrain f n ∧
      u.link f n = lsRetrain ∧
      u.freg f Reg.RTE_LINK_CNT.RETRAINS n = satAdd 16 (s.freg f Reg.RTE_LINK_CNT.RETRAINS n) 1)) ∧
  (∀ (s : State) (f : FieldId) (n : PortId), s.svc f ≠ svcDark → s.link f n = lsActive → ((s.port f n).retrains.filter (fun t => s.now < t + 10000 * oneMs)).length < 8 → ∀ x ∈ ([.retrain f n, .linkRetry f n] : List Instr), Leaves (exec x s) (fun u =>
      u.link f n = lsRetrain)) ∧
  (∀ (s : State) (f : FieldId) (n : PortId), s.svc f ≠ svcDark → s.link f n = lsActive → 8 ≤ ((s.port f n).retrains.filter (fun t => s.now < t + 10000 * oneMs)).length → ∀ x ∈ ([.retrain f n, .linkRetry f n] : List Instr), Leaves (exec x s) (fun u =>
      u.link f n = lsFailed ∧
      u.freg f Reg.RTE_LINK_STATUS.RESULT n = St.LINK_RETRAIN_LIMIT)) ∧
  (∀ (s : State) (f : FieldId) (n : PortId), s.svc f ≠ svcDark → s.link f n = lsActive → 8 ≤ ((s.port f n).retrains.filter (fun t => s.now < t + 10000 * oneMs)).length → (s.port f n).lock = 0 → s.rxSuspended f n = false → Leaves (exec (.rxSilentTimeout f n) s) (fun u =>
      u.link f n = lsFailed ∧
      u.freg f Reg.RTE_LINK_STATUS.RESULT n = St.LINK_RETRAIN_LIMIT)) ∧
  (∀ (s : State) (f : FieldId) (n : PortId), s.link f n ≠ lsActive → ∀ x ∈ ([.retrain f n, .rxSilentTimeout f n] : List Instr), Leaves (exec x s) (fun u =>
      u = s)) ∧
  (∀ (s : State) (f : FieldId) (n : PortId), (s.port f n).lock ≠ 0 ∨ s.rxSuspended f n = true → Leaves (exec (.rxSilentTimeout f n) s) (fun u =>
      u = s)) ∧
  (∀ (s : State) (f : FieldId) (n : PortId), s.svc f ≠ svcDark → s.link f n = lsFailed → Leaves (exec (.linkRetry f n) s) (fun u =>
      u = s.linkLock f n St.OK ∧
      u.link f n = lsLock)) ∧
  (∀ (s : State) (f : FieldId) (n : PortId), s.link f n ≠ lsFailed → s.link f n ≠ lsActive → Leaves (exec (.linkRetry f n) s) (fun u =>
      u = s)) ∧
  (∀ (s : State) (f : FieldId) (n : PortId), s.svc f ≠ svcDark → s.link f n = lsRetrain → Leaves (exec (.retrainTimeout f n) s) (fun u =>
      u.link f n = lsBeacon ∧
      (u.port f n).held = [] ∧
      u.freg f Reg.RTE_LINK_STATUS.PRESERVED n = 0)) ∧
  (∀ (s : State) (f : FieldId) (n : PortId), s.link f n ≠ lsRetrain → Leaves (exec (.retrainTimeout f n) s) (fun u =>
      u = s)) ∧
  (∀ (s : State) (f : FieldId) (n : PortId) (q : Nat), s.svc f ≠ svcDark → (s.port f n).stop = .none → s.freg f Reg.HDL_PORT_STATUS.LIGHT_PAUSE n ≠ 1 → (s.port f n).pauseOver = 0 ∨ (s.port f n).pauseOver - 1 + 10000 ≤ s.now → s.link f n = lsActive → (s.port f n).held.any (fun h => h.seq = q) = true → Leaves (exec (.replayTimeout f n q) s) (fun u =>
      u = s.updPort f n (fun P => { P with resend := (P.held.head?).map (fun h => h.seq) }))) ∧
  (∀ (s : State) (f : FieldId) (n : PortId) (q : Nat), (s.port f n).stop ≠ .none ∨ s.freg f Reg.HDL_PORT_STATUS.LIGHT_PAUSE n = 1 ∨ ((s.port f n).pauseOver ≠ 0 ∧ s.now < (s.port f n).pauseOver - 1 + 10000) ∨ s.link f n ≠ lsActive ∨ (s.port f n).held.any (fun h => h.seq = q) = false → Leaves (exec (.replayTimeout f n q) s) (fun u =>
      u = s)) ∧
  (∀ (s : State) (f : FieldId) (n : PortId), s.svc f ≠ svcDark → Leaves (exec (.linkEnableClear f n) s) (fun u =>
      u.link f n = lsDisabled ∧
      u.freg f Reg.RTE_LINK_CTL.ENABLE n = 0 ∧
      u.freg f Reg.RTE_LINK_STATUS.RESULT n = St.LINK_DISABLED)) ∧
  (∀ (s : State) (f : FieldId) (n : PortId), s.svc f ≠ svcDark → s.freg f Reg.RTE_PLAN_PORT.AXIS n ≠ 0 → s.link f n = lsLock ∨ s.link f n = lsBeacon → (s.port f n).heard = false → Leaves (exec (.missingTimeout f n) s) (fun u =>
      u.freg f Reg.RTE_DISC_STATUS.OUTCOME n = dMissing)) ∧
  (∀ (s : State) (f : FieldId) (n : PortId), s.freg f Reg.RTE_PLAN_PORT.AXIS n = 0 ∨ (s.link f n ≠ lsLock ∧ s.link f n ≠ lsBeacon) ∨ (s.port f n).heard = true → Leaves (exec (.missingTimeout f n) s) (fun u =>
      u = s)) ∧
  (∀ (s : State) (f : FieldId) (n : PortId), s.svc f ≠ svcDark → Leaves (exec (.discApprovalWithdraw f n) s) (fun u =>
      u = s.updPort f n (fun P => { P with approved := none }))) ∧
  (∀ (s : State) (f : FieldId) (n : PortId) (m : Nat) (b : BeaconId), s.svc f ≠ svcDark → (s.field f).hubLost = false → bit m n = true → s.link f n = lsHeld → s.freg f Reg.RTE_DISC_STATUS.OUTCOME n = dSwapOther ∨ s.freg f Reg.RTE_DISC_STATUS.OUTCOME n = dUnplanned ∨ s.freg f Reg.RTE_DISC_STATUS.OUTCOME n = dForeign → (s.port f n).seen = some b → b.digest = s.freg f Reg.RTE_PLAN_HDR.DIGEST → (axesDiffer (nodePkg b.node) s.pkgNode).length = 1 → s.axisSize f ((axesDiffer (nodePkg b.node) s.pkgNode).headD 0) ≠ 1 → Leaves (exec (.discApprove f m) s) (fun u =>
      (u.port f n).approved = some b ∧
      u.link f n ≠ lsHeld)) ∧
  (∀ (s : State) (f : FieldId) (n : PortId) (m : Nat), s.svc f ≠ svcDark → (s.field f).hubLost = false → bit m n = true → s.link f n ≠ lsHeld ∨ (s.port f n).seen = none ∨ (s.port f n).seen.all (fun b => decide (b.digest ≠ s.freg f Reg.RTE_PLAN_HDR.DIGEST)) = true ∨ s.freg f Reg.RTE_DISC_STATUS.OUTCOME n = dMatch → Leaves (exec (.discApprove f m) s) (fun u =>
      u.freg f Reg.RTE_DISC_STATUS.REFUSED n = 1 ∧
      (u.port f n).approved = (s.port f n).approved)) ∧
  (∀ (s : State) (f : FieldId) (m : Nat), (s.field f).hubLost = true ∨ m % 2 ^ 16 = 0 → Leaves (exec (.discApprove f m) s) (fun u =>
      u = s)) ∧
  (∀ (s : State) (f : FieldId) (n : PortId) (w : Lambda) (p : Fin 4) (st : Fin 16) (a l c x : Nat) (r : Bool), s.svc f = svcDark → ∀ y ∈ ([.lockTimeout f n, .beacon f n p a, .beaconSend f n, .laneControlRepeat f n, .train f n st r a, .qualResult f n a, .qualifyEnd f n w l c x,
    .retrain f n, .rxSilentTimeout f n, .retrainTimeout f n, .replayTimeout f n a, .linkEnableClear f n, .linkRetry f n, .missingTimeout f n, .discApprovalWithdraw f n, .discApprove f a] : List Instr), Leaves (exec y s) (fun u =>
      u = s))

/-- Where a port takes flits: a flit with a wrong CRC counts in CRC_ERR and calls for a NAK (R327, R328); of the good
ones, a DATA flit of the SEQ expected that finds a buffer is accepted, EXP moving on by one, one accepted before leaves
only its acknowledgement and credits, one ahead calls for a NAK, and one of a reserved TYPE, of VC7, of a bad LEN or
without a buffer counts in PROTO_ERR (R326, R331, R348); an IDLE flit's acknowledgement and credits are applied; a NAK
flit also starts a replay (R329). FLIT_SLOT of a port that sends: a NAK due goes first, then a flit to be replayed,
whose eighth sending unanswered retrains the link (R342), then a new flit of the channel that pick chooses, else an IDLE
flit (R328, R329, R334). FLIT_SLOT of a die-to-die link: a flit of the class chosen crosses; packets of a link that is
down are routed anew (R374, R674). Where no flit is taken or sent, and of a DARK field (R27), nothing changes. Each
answers a next state. Derived, the model's choice: that a command whose condition does not hold changes nothing
(assumption log entry 2), nor one of a DARK field (42), what a forced group carries (40), and the classes of a
die-to-die link (43). -/
def Obligations.FlitCommandsComplete : Prop :=
  (∀ (s : State) (f : FieldId) (n : PortId) (x : Flit), s.svc f ≠ svcDark → s.flitsTaken f n = true → x.crc = flitCrc flitData x → trunc 3 x.vc ≠ 7 → 1 ≤ x.len ∧ x.len ≤ 240 → trunc 14 x.seq = (s.port f n).exp → (s.port f n).hasBuffer x.vc x.pool = true → Leaves (exec (.dataFlit f n 0 x) s) (fun u =>
      u = (s.flitControl f n x).flitAccept f n x ∧
      (u.port f n).exp = ((s.port f n).exp + 1) % 0x4000 ∧
      u.freg f Reg.RTE_LINK_CNT.RX_FLITS n = (s.freg f Reg.RTE_LINK_CNT.RX_FLITS n + 1) % 2 ^ 48)) ∧
  (∀ (s : State) (f : FieldId) (n : PortId) (x : Flit), s.svc f ≠ svcDark → s.flitsTaken f n = true → x.crc = flitCrc flitData x → trunc 3 x.vc ≠ 7 → 1 ≤ x.len ∧ x.len ≤ 240 → trunc 14 x.seq ≠ (s.port f n).exp → ((s.port f n).exp + 0x4000 - trunc 14 x.seq) % 0x4000 ≤ 8192 → Leaves (exec (.dataFlit f n 0 x) s) (fun u =>
      u = s.flitControl f n x)) ∧
  (∀ (s : State) (f : FieldId) (n : PortId) (x : Flit), s.svc f ≠ svcDark → s.flitsTaken f n = true → x.crc = flitCrc flitData x → trunc 3 x.vc ≠ 7 → 1 ≤ x.len ∧ x.len ≤ 240 → trunc 14 x.seq ≠ (s.port f n).exp → 8192 < ((s.port f n).exp + 0x4000 - trunc 14 x.seq) % 0x4000 → Leaves (exec (.dataFlit f n 0 x) s) (fun u =>
      u = (s.flitControl f n x).nakCall f n)) ∧
  (∀ (s : State) (f : FieldId) (n : PortId) (x : Flit), s.svc f ≠ svcDark → s.flitsTaken f n = true → x.crc = flitCrc flitData x → trunc 3 x.vc = 7 → Leaves (exec (.dataFlit f n 0 x) s) (fun u =>
      u = (s.protoErr f n 1).nakCall f n ∧
      u.freg f Reg.RTE_LINK_CNT.PROTO_ERR n = satAdd 16 (s.freg f Reg.RTE_LINK_CNT.PROTO_ERR n) 1)) ∧
  (∀ (s : State) (f : FieldId) (n : PortId) (x : Flit), s.svc f ≠ svcDark → s.flitsTaken f n = true → x.crc = flitCrc flitData x → trunc 3 x.vc ≠ 7 → x.len = 0 ∨ 240 < x.len → Leaves (exec (.dataFlit f n 0 x) s) (fun u =>
      u = (s.protoErr f n 2).nakCall f n ∧
      u.freg f Reg.RTE_LINK_CNT.PROTO_ERR n = satAdd 16 (s.freg f Reg.RTE_LINK_CNT.PROTO_ERR n) 1)) ∧
  (∀ (s : State) (f : FieldId) (n : PortId) (x : Flit), s.svc f ≠ svcDark → s.flitsTaken f n = true → x.crc = flitCrc flitData x → trunc 3 x.vc ≠ 7 → 1 ≤ x.len ∧ x.len ≤ 240 → trunc 14 x.seq = (s.port f n).exp → (s.port f n).hasBuffer x.vc x.pool = false → Leaves (exec (.dataFlit f n 0 x) s) (fun u =>
      u = (s.protoErr f n 3).nakCall f n ∧
      u.freg f Reg.RTE_LINK_CNT.PROTO_ERR n = satAdd 16 (s.freg f Reg.RTE_LINK_CNT.PROTO_ERR n) 1)) ∧
  (∀ (s : State) (f : FieldId) (n : PortId) (x : Flit) (ty : Fin 8), s.svc f ≠ svcDark → s.flitsTaken f n = true → ty ≠ 0 → x.crc = flitCrc ty x → Leaves (exec (.dataFlit f n ty x) s) (fun u =>
      u = (s.protoErr f n 0).nakCall f n ∧
      u.freg f Reg.RTE_LINK_CNT.PROTO_ERR n = satAdd 16 (s.freg f Reg.RTE_LINK_CNT.PROTO_ERR n) 1)) ∧
  (∀ (s : State) (f : FieldId) (n : PortId) (x : Flit) (ty : Fin 8), s.svc f ≠ svcDark → s.flitsTaken f n = true → x.crc ≠ flitCrc ty x → Leaves (exec (.dataFlit f n ty x) s) (fun u =>
      u = s.flitBad f n ∧
      u.freg f Reg.RTE_LINK_CNT.CRC_ERR n = (s.freg f Reg.RTE_LINK_CNT.CRC_ERR n + 1) % 2 ^ 32)) ∧
  (∀ (s : State) (f : FieldId) (n : PortId) (x : Flit), s.svc f ≠ svcDark → s.flitsTaken f n = true → ∀ y ∈ ([(.idleFlit f n x, flitIdle), (.nakFlit f n x, flitNak)] : List (Instr × Nat)), x.crc ≠ flitCrc y.2 x → Leaves (exec y.1 s) (fun u =>
      u = s.flitBad f n ∧
      u.freg f Reg.RTE_LINK_CNT.CRC_ERR n = (s.freg f Reg.RTE_LINK_CNT.CRC_ERR n + 1) % 2 ^ 32)) ∧
  (∀ (s : State) (f : FieldId) (n : PortId) (x : Flit), s.svc f ≠ svcDark → s.flitsTaken f n = true → ∀ y ∈ ([(.idleFlit f n x, flitIdle), (.nakFlit f n x, flitNak)] : List (Instr × Nat)), x.crc = flitCrc y.2 x → trunc 3 x.vc = 7 → Leaves (exec y.1 s) (fun u =>
      u = (s.protoErr f n 1).nakCall f n ∧
      u.freg f Reg.RTE_LINK_CNT.PROTO_ERR n = satAdd 16 (s.freg f Reg.RTE_LINK_CNT.PROTO_ERR n) 1)) ∧
  (∀ (s : State) (f : FieldId) (n : PortId) (x : Flit), s.svc f ≠ svcDark → s.flitsTaken f n = true → x.crc = flitCrc flitIdle x → trunc 3 x.vc ≠ 7 → Leaves (exec (.idleFlit f n x) s) (fun u =>
      u = s.flitControl f n x)) ∧
  (∀ (s : State) (f : FieldId) (n : PortId) (x : Flit), s.svc f ≠ svcDark → s.flitsTaken f n = true → x.crc = flitCrc flitNak x → trunc 3 x.vc ≠ 7 → Leaves (exec (.nakFlit f n x) s) (fun u =>
      u = (s.flitControl f n x).updPort f n (fun P => P.nak ((trunc 14 x.ack + 1) % 0x4000)))) ∧
  (∀ (s : State) (f : FieldId) (n : PortId) (x : Flit) (ty : Fin 8), s.svc f = svcDark ∨ s.flitsTaken f n = false → ∀ y ∈ ([.dataFlit f n ty x, .idleFlit f n x, .nakFlit f n x] : List Instr), Leaves (exec y s) (fun u =>
      u = s)) ∧
  (∀ (s : State) (f : FieldId) (n : PortId) (k : Fin 18), k.val = n.val → s.svc f ≠ svcDark → s.link f n = lsActive → (s.port f n).stop = .none → s.portLit f n = true → (s.port f n).nakDue = true → (s.port f n).withheld = none → Leaves (exec (.flitSlot f k) s) (fun u =>
      u.freg f Reg.RTE_LINK_CNT.NAKS n = satAdd 16 (s.freg f Reg.RTE_LINK_CNT.NAKS n) 1 ∧
      (u.port f n).nakDue = false ∧
      u.out.any (fun o => match o with | .flit g m ty _ => decide (g = f ∧ m = n ∧ ty = flitNak) | _ => false) = true)) ∧
  (∀ (s : State) (f : FieldId) (n : PortId) (k : Fin 18) (r : Nat) (h : HeldFlit), k.val = n.val → s.svc f ≠ svcDark → s.link f n = lsActive → (s.port f n).stop = .none → s.portLit f n = true → (s.port f n).nakDue = false ∨ (s.port f n).withheld ≠ none → (s.port f n).resend = some r → (s.port f n).held.find? (fun h => decide (h.seq = r)) = some h → h.sends < 8 → Leaves (exec (.flitSlot f k) s) (fun u =>
      u.freg f Reg.RTE_LINK_CNT.REPLAYED n = (s.freg f Reg.RTE_LINK_CNT.REPLAYED n + 1) % 2 ^ 32 ∧
      (u.port f n).held = (s.port f n).held.map (fun x => if x.seq = r then { x with sends := x.sends + 1 } else x) ∧
      u.out.any (fun o => match o with | .flit g m ty x => decide (g = f ∧ m = n ∧ ty = flitData ∧ x.seq = r ∧ x.payload = h.payload) | _ => false) = true)) ∧
  (∀ (s : State) (f : FieldId) (n : PortId) (k : Fin 18) (r : Nat) (h : HeldFlit), k.val = n.val → s.svc f ≠ svcDark → s.link f n = lsActive → (s.port f n).stop = .none → s.portLit f n = true → (s.port f n).nakDue = false ∨ (s.port f n).withheld ≠ none → (s.port f n).resend = some r → (s.port f n).held.find? (fun h => decide (h.seq = r)) = some h → 8 ≤ h.sends → Leaves (exec (.flitSlot f k) s) (fun u =>
      u.link f n = (if 8 ≤ ((s.port f n).retrains.filter (fun t => s.now < t + 10000 * oneMs)).length then lsFailed else lsRetrain))) ∧
  (∀ (s : State) (f : FieldId) (n : PortId) (k : Fin 18) (v : Nat), k.val = n.val → s.svc f ≠ svcDark → s.link f n = lsActive → (s.port f n).stop = .none → s.portLit f n = true → (s.port f n).nakDue = false ∨ (s.port f n).withheld ≠ none → (s.port f n).resend = none → (s.port f n).held.length < 8192 → (((s.port f n).arb.tokens (s.arbCtl f)).pick (s.arbCtl f) (s.elig f n)).2 = some v → Leaves (exec (.flitSlot f k) s) (fun u =>
      (u.port f n).seq = ((s.port f n).seq + 1) % 0x4000 ∧
      (u.port f n).held.map HeldFlit.seq = (s.port f n).held.map HeldFlit.seq ++ [(s.port f n).seq] ∧
      u.freg f Reg.RTE_LINK_CNT.TX_FLITS n = (s.freg f Reg.RTE_LINK_CNT.TX_FLITS n + 1) % 2 ^ 48)) ∧
  (∀ (s : State) (f : FieldId) (n : PortId) (k : Fin 18), k.val = n.val → s.svc f ≠ svcDark → s.link f n = lsActive → (s.port f n).stop = .none → s.portLit f n = true → (s.port f n).nakDue = false ∨ (s.port f n).withheld ≠ none → (s.port f n).resend = none → 8192 ≤ (s.port f n).held.length ∨ (((s.port f n).arb.tokens (s.arbCtl f)).pick (s.arbCtl f) (s.elig f n)).2 = none → Leaves (exec (.flitSlot f k) s) (fun u =>
      (u.port f n).seq = (s.port f n).seq ∧
      (u.port f n).held = (s.port f n).held ∧
      u.out.any (fun o => match o with | .flit g m ty _ => decide (g = f ∧ m = n ∧ ty = flitIdle) | _ => false) = true)) ∧
  (∀ (s : State) (f : FieldId) (n : PortId) (k : Fin 18), k.val = n.val → s.link f n ≠ lsActive ∨ (s.port f n).stop ≠ .none ∨ s.portLit f n = false → Leaves (exec (.flitSlot f k) s) (fun u =>
      u = s)) ∧
  (∀ (s : State) (f : FieldId) (k : Fin 18) (v st : Nat), s.svc f ≠ svcDark → 16 ≤ k.val → s.d2dJoined f (d2dNext f k) = true → (((SMap.get (s.field f).router.d2darb Arb.reset k).tokens (s.arbCtl f)).pick (s.arbCtl f) (fun v => (s.d2dClass f k v).isSome)).2 = some v → s.d2dClass f k v = some st → Leaves (exec (.flitSlot f k) s) (fun u =>
      (SMap.get (u.field (d2dNext f k)).router.d2dq [] (d2dKey (d2dSide (d2dNext f k) f) v st)).length = (SMap.get (s.field (d2dNext f k)).router.d2dq [] (d2dKey (d2dSide (d2dNext f k) f) v st)).length + 1 ∧
      SMap.get (u.field f).router.d2dlast (stagesOf v - 1) (k * 8 + v) = st)) ∧
  (∀ (s : State) (f : FieldId) (k : Fin 18), s.svc f ≠ svcDark → 16 ≤ k.val → s.d2dJoined f (d2dNext f k) = true → (((SMap.get (s.field f).router.d2darb Arb.reset k).tokens (s.arbCtl f)).pick (s.arbCtl f) (fun v => (s.d2dClass f k v).isSome)).2 = none → Leaves (exec (.flitSlot f k) s) (fun u =>
      (u.field (d2dNext f k)).router.d2dq = (s.field (d2dNext f k)).router.d2dq ∧
      SMap.get (u.field f).router.d2darb Arb.reset k = (((SMap.get (s.field f).router.d2darb Arb.reset k).tokens (s.arbCtl f)).pick (s.arbCtl f) (fun v => (s.d2dClass f k v).isSome)).1)) ∧
  (∀ (s : State) (f : FieldId) (k : Fin 18), s.svc f ≠ svcDark → 16 ≤ k.val → s.d2dJoined f (d2dNext f k) = false → Leaves (exec (.flitSlot f k) s) (fun u =>
      u = s.d2dRepath f k)) ∧
  (∀ (s : State) (f : FieldId) (k : Fin 18), s.svc f = svcDark → Leaves (exec (.flitSlot f k) s) (fun u =>
      u = s))

/-- ROUTE_PACKET: the head packet of the input named is routed, a beacon of its neighbour with the time it came (R519);
one for the field itself is delivered to its inbox, or dropped as foreign; one that names no node is dropped for want of
a route; one whose next hop is a port waits at its transmitter, where transit is allowed (R370, R371, R379, R381); a
multicast of the field itself is expanded first (R377). MCAST_COPY: the next copy of the oldest multicast is routed.
SEAL: as the checker finds, at once or at the mark, and BUSY while a sealed bank waits (R382, R383). CONG_SAMPLE and
CONG_WINDOW_END act only with CONG_CTL enabled: samples count, and at the end of a window its counts become the snapshot
(R384). COMB_SLOT_SEND: a slot that has aged, is full or has credit leaves (R427). Where there is nothing to route, send
or end, and of a DARK field (R27), nothing changes. Each answers a next state. Derived, the model's choice: that a
command whose condition does not hold changes nothing (assumption log entry 2), nor one of a DARK field (42), and the
classes of a die-to-die link (43). -/
def Obligations.RoutingCommandsComplete : Prop :=
  (∀ (s : State) (f : FieldId) (l : Fin 19) (vc : Fin 8) (g : Fin 9) (t : State) (p : Packet), s.svc f ≠ svcDark → s.takeHead f l vc g = some (t, p) → l.val ≠ 18 ∨ p.mcast = false → Leaves (exec (.routePacket f l vc g) s) (fun u =>
      u = (t.beaconCame f l p (s.headStamp f l vc g)).route f { pkt := p, vc := vc } (if l.val < 16 then some (BitVec.ofNat 4 l).toFin else none))) ∧
  (∀ (s : State) (f : FieldId) (l : Fin 19) (vc : Fin 8) (g : Fin 9) (p : Packet), s.svc f ≠ svcDark → (s.takeHead f l vc g).map Prod.snd = some p → l.val ≠ 18 ∨ p.mcast = false → p.dst = s.node f → p.dst < 0x2000 → s.deliverOk f p = true → pktRemote p = false ∨ p.allot = mgmtAllot ∨ rhWellFormed p = true → p.cls ≠ 1 ∨ shfKnown p = true → Leaves (exec (.routePacket f l vc g) s) (fun u =>
      (u.field f).router.inbox = (s.field f).router.inbox ++ [p])) ∧
  (∀ (s : State) (f : FieldId) (l : Fin 19) (vc : Fin 8) (g : Fin 9) (p : Packet), s.svc f ≠ svcDark → (s.takeHead f l vc g).map Prod.snd = some p → l.val ≠ 18 ∨ p.mcast = false → p.dst = s.node f → p.dst < 0x2000 → s.deliverOk f p = false → Leaves (exec (.routePacket f l vc g) s) (fun u =>
      u.freg f Reg.RTE_DROP_CNT.FOREIGN = satAdd 16 (s.freg f Reg.RTE_DROP_CNT.FOREIGN) 1 ∧
      (u.field f).router.inbox = (s.field f).router.inbox)) ∧
  (∀ (s : State) (f : FieldId) (l : Fin 19) (vc : Fin 8) (g : Fin 9) (p : Packet), s.svc f ≠ svcDark → (s.takeHead f l vc g).map Prod.snd = some p → l.val ≠ 18 ∨ p.mcast = false → 0x2000 ≤ p.dst → Leaves (exec (.routePacket f l vc g) s) (fun u =>
      u.freg f Reg.RTE_DROP_CNT.NOROUTE = satAdd 16 (s.freg f Reg.RTE_DROP_CNT.NOROUTE) 1)) ∧
  (∀ (s : State) (f : FieldId) (l : Fin 19) (vc : Fin 8) (g : Fin 9) (p : Packet) (r : Routed) (n : PortId), s.svc f ≠ svcDark → (s.takeHead f l vc g).map Prod.snd = some p → l.val ≠ 18 ∨ p.mcast = false → s.freg f Reg.RTE_TABLE_STATUS.SEALED = 1 → s.nextHop f { pkt := p, vc := vc } = (r, .port n) → s.transitOk f r n = true → Leaves (exec (.routePacket f l vc g) s) (fun u =>
      SMap.get (u.port f n).txq [] r.vc = SMap.get (s.port f n).txq [] r.vc ++ [⟨true, false, pktBytes r.pkt⟩])) ∧
  (∀ (s : State) (f : FieldId) (l : Fin 19) (vc : Fin 8) (g : Fin 9) (p : Packet) (r : Routed) (n : PortId), s.svc f ≠ svcDark → (s.takeHead f l vc g).map Prod.snd = some p → l.val ≠ 18 ∨ p.mcast = false → s.freg f Reg.RTE_TABLE_STATUS.SEALED = 1 → s.nextHop f { pkt := p, vc := vc } = (r, .port n) → s.transitOk f r n = false → Leaves (exec (.routePacket f l vc g) s) (fun u =>
      u.freg f Reg.RTE_DROP_CNT.TRANSIT = satAdd 16 (s.freg f Reg.RTE_DROP_CNT.TRANSIT) 1)) ∧
  (∀ (s : State) (f : FieldId) (vc : Fin 8) (g : Fin 9) (p : Packet) (ps : List Packet), s.svc f ≠ svcDark → SMap.get (s.field f).router.issued [] vc = p :: ps → p.mcast = true → Leaves (exec (.routePacket f 18 vc g) s) (fun u =>
      (u.field f).router.mcasts = (s.field f).router.mcasts ++ [(p, s.mcastMembers f p.maxis (rhOf p).mask)] ∧
      SMap.get (u.field f).router.issued [] vc = ps)) ∧
  (∀ (s : State) (f : FieldId) (l : Fin 19) (vc : Fin 8) (g : Fin 9), s.svc f = svcDark ∨ s.takeHead f l vc g = none → Leaves (exec (.routePacket f l vc g) s) (fun u =>
      u = s)) ∧
  (∀ (s : State) (f : FieldId) (p : Packet) (c : Nat) (cs : List Nat) (l : List (Packet × List Nat)), s.svc f ≠ svcDark → (s.field f).router.mcasts = (p, c :: cs) :: l → Leaves (exec (.mcastCopy f) s) (fun u =>
      u = (s.updRouter f (fun R => { R with mcasts := if cs = [] then l else (p, cs) :: l })).route f { pkt := mcastCopyOf p c, vc := 4 } none ∧
      (u.field f).router.mcasts = (if cs = [] then l else (p, cs) :: l))) ∧
  (∀ (s : State) (f : FieldId) (p : Packet) (l : List (Packet × List Nat)), s.svc f ≠ svcDark → (s.field f).router.mcasts = (p, []) :: l → Leaves (exec (.mcastCopy f) s) (fun u =>
      u = s.updRouter f (fun R => { R with mcasts := l }))) ∧
  (∀ (s : State) (f : FieldId), s.svc f = svcDark ∨ (s.field f).router.mcasts = [] → Leaves (exec (.mcastCopy f) s) (fun u =>
      u = s)) ∧
  (∀ (s : State) (f : FieldId), s.svc f ≠ svcDark → (s.field f).hubLost = false → s.freg f Reg.RTE_TABLE_STATUS.PENDING = 1 → Leaves (exec (.sealTables f) s) (fun u =>
      u.freg f Reg.RTE_TABLE_STATUS.RESULT = St.BUSY)) ∧
  (∀ (s : State) (f : FieldId) (code t i : Nat), s.svc f ≠ svcDark → (s.field f).hubLost = false → s.freg f Reg.RTE_TABLE_STATUS.PENDING ≠ 1 → s.sealCheck f (s.field f).staging = some (code, t, i) → Leaves (exec (.sealTables f) s) (fun u =>
      u.freg f Reg.RTE_TABLE_STATUS.RESULT = code % 2 ^ 16 ∧
      (u.field f).router.active = (s.field f).router.active)) ∧
  (∀ (s : State) (f : FieldId), s.svc f ≠ svcDark → (s.field f).hubLost = false → s.freg f Reg.RTE_TABLE_STATUS.PENDING ≠ 1 → s.sealCheck f (s.field f).staging = none → s.freg f Reg.RTE_TABLE_CTL.AT_MARK = 1 → Leaves (exec (.sealTables f) s) (fun u =>
      u.freg f Reg.RTE_TABLE_STATUS.RESULT = St.OK ∧
      u.freg f Reg.RTE_TABLE_STATUS.SEALED = 1 ∧
      u.freg f Reg.RTE_TABLE_STATUS.PENDING = 1 ∧
      (u.field f).router.pendingBank = some (s.field f).staging ∧
      (u.field f).router.active = (s.field f).router.active)) ∧
  (∀ (s : State) (f : FieldId), s.svc f ≠ svcDark → (s.field f).hubLost = false → s.freg f Reg.RTE_TABLE_STATUS.PENDING ≠ 1 → s.sealCheck f (s.field f).staging = none → s.freg f Reg.RTE_TABLE_CTL.AT_MARK ≠ 1 → Leaves (exec (.sealTables f) s) (fun u =>
      u.freg f Reg.RTE_TABLE_STATUS.RESULT = St.OK ∧
      u.freg f Reg.RTE_TABLE_STATUS.SEALED = 1 ∧
      u.freg f Reg.RTE_TABLE_STATUS.PENDING = 0 ∧
      (u.field f).router.active = (s.field f).staging)) ∧
  (∀ (s : State) (f : FieldId), s.svc f = svcDark ∨ (s.field f).hubLost = true → Leaves (exec (.sealTables f) s) (fun u =>
      u = s)) ∧
  (∀ (s : State) (f : FieldId), s.svc f ≠ svcDark → s.freg f Reg.RTE_CONG_CTL.ENABLE ≠ 0 → Leaves (exec (.congSample f) s) (fun u =>
      ∀ (l : Fin 18) (v : Fin 8), SMap.get (u.field f).router.cong 0 ((l * 8 + v) * 16 + congBucket (s.occupancy f l v)) =
          satAdd 32 (SMap.get (s.field f).router.cong 0 ((l * 8 + v) * 16 + congBucket (s.occupancy f l v))) 1 ∧
        SMap.get (u.field f).router.cong 0 ((l * 8 + v) * 16 + 10) = max (SMap.get (s.field f).router.cong 0 ((l * 8 + v) * 16 + 10)) (min (s.occupancy f l v) 65535))) ∧
  (∀ (s : State) (f : FieldId), s.svc f ≠ svcDark → s.freg f Reg.RTE_CONG_CTL.ENABLE ≠ 0 → (s.field f).tally.tInt / 2 ^ s.freg f Reg.RTE_CONG_CTL.WINDOW_LOG ≠ (s.field f).router.congSeen / 2 ^ s.freg f Reg.RTE_CONG_CTL.WINDOW_LOG → Leaves (exec (.congWindowEnd f) s) (fun u =>
      (u.field f).router.snap = (s.field f).router.cong ∧
      (u.field f).router.cong = [] ∧
      (u.field f).router.snapStart = (s.field f).router.congStart ∧
      (u.field f).router.snapEnd = (s.field f).tally.tInt ∧
      (u.field f).router.snapSeq = ((s.field f).router.snapSeq + 1) % 2 ^ 32)) ∧
  (∀ (s : State) (f : FieldId), s.svc f = svcDark ∨ s.freg f Reg.RTE_CONG_CTL.ENABLE = 0 → ∀ x ∈ ([.congSample f, .congWindowEnd f] : List Instr), Leaves (exec x s) (fun u =>
      u = s)) ∧
  (∀ (s : State) (f : FieldId), (s.field f).tally.tInt / 2 ^ s.freg f Reg.RTE_CONG_CTL.WINDOW_LOG = (s.field f).router.congSeen / 2 ^ s.freg f Reg.RTE_CONG_CTL.WINDOW_LOG → Leaves (exec (.congWindowEnd f) s) (fun u =>
      u = s)) ∧
  (∀ (s : State) (f : FieldId) (k : Nat) (x : CombSlot) (aged : Bool), s.svc f ≠ svcDark → SMap.find (s.field f).router.comb k = some x → x.egress < 16 → s.vcCredit f (BitVec.ofNat 4 x.egress).toFin x.vc = true ∨ x.contribs.length = 8 ∨ aged = true → Leaves (exec (.combSlotSend f k aged) s) (fun u =>
      u.freg f Reg.RTE_COMB_STAT.AGED = (if aged = true ∧ 2 ≤ x.contribs.length then satAdd 16 (s.freg f Reg.RTE_COMB_STAT.AGED) 1 else s.freg f Reg.RTE_COMB_STAT.AGED) ∧
      SMap.find (u.field f).router.comb k = none ∧
      SMap.get (u.port f (BitVec.ofNat 4 x.egress).toFin).txq [] x.vc = SMap.get (s.port f (BitVec.ofNat 4 x.egress).toFin).txq [] x.vc ++ [⟨true, true, pktBytes x.leave⟩])) ∧
  (∀ (s : State) (f : FieldId) (k : Nat) (x : CombSlot) (aged : Bool), s.svc f ≠ svcDark → SMap.find (s.field f).router.comb k = some x → 16 ≤ x.egress → d2dRoom (SMap.get (s.field (d2dNext f x.egress)).router.d2dq [] (d2dKey (d2dSide (d2dNext f x.egress) f) x.vc x.pkt.stage)) = true ∨ x.contribs.length = 8 ∨ aged = true → Leaves (exec (.combSlotSend f k aged) s) (fun u =>
      u.freg f Reg.RTE_COMB_STAT.AGED = (if aged = true ∧ 2 ≤ x.contribs.length then satAdd 16 (s.freg f Reg.RTE_COMB_STAT.AGED) 1 else s.freg f Reg.RTE_COMB_STAT.AGED) ∧
      SMap.find (u.field f).router.comb k = none ∧
      SMap.get (u.field f).router.d2dtx [] (d2dKey x.egress x.vc x.leave.stage) = SMap.get (s.field f).router.d2dtx [] (d2dKey x.egress x.vc x.leave.stage) ++ [⟨true, true, pktBytes x.leave⟩])) ∧
  (∀ (s : State) (f : FieldId) (k : Nat) (x : CombSlot), SMap.find (s.field f).router.comb k = some x → (if x.egress < 16 then s.vcCredit f (BitVec.ofNat 4 x.egress).toFin x.vc else d2dRoom (SMap.get (s.field (d2dNext f x.egress)).router.d2dq [] (d2dKey (d2dSide (d2dNext f x.egress) f) x.vc x.pkt.stage))) = false → x.contribs.length ≠ 8 → Leaves (exec (.combSlotSend f k false) s) (fun u =>
      u = s)) ∧
  (∀ (s : State) (f : FieldId) (k : Nat) (aged : Bool), s.svc f = svcDark ∨ SMap.find (s.field f).router.comb k = none → Leaves (exec (.combSlotSend f k aged) s) (fun u =>
      u = s))

/-- A request of its kind for this field, waiting at the router or delivered now, of no halted allotment (R378, R379,
R416), is acted on. GET reads its line and answers with it, its status and its poison (R419). PUT, PUT_PARTIAL and
PUT_REDUCE enter their flow (R409); at its turn, in an open flow, a PUT writes its line, a PUT_PARTIAL the bytes of its
mask, a PUT_REDUCE adds to its accumulators (R423), the flow goes on and an ACK is due. PUT_REDUCE_COMB does so for its
contributors' flows (R428); MCAST_PUT writes the line and acknowledges (R377); FETCH_ADD and COMPARE_SWAP are performed
and answered, a retransmission with the answer kept (R421); FLUSH_REQ flushes the reductions changed and acknowledges
(R417). A request that is not acted on leaves no more than its discard, and a DARK field takes none (R27). Each answers
a next state. Derived, the model's choice: that a DARK field takes no request (assumption log entry 42), how line slots,
reduction entries and the deferred queue are held (33, 44), and what a poisoned write does to a line (15). -/
def Obligations.GatewayRequestsComplete : Prop :=
  (∀ (s : State) (f : FieldId) (p : Packet), s.svc f = svcDark → ∀ x ∈ ([.get f p, .put f p, .putPartial f p, .putReduce f p, .putReduceComb f p, .mcastPut f p, .fetchAdd f p, .compareSwap f p, .flushReq f p] : List Instr), Leaves (exec x s) (fun u =>
      u = s)) ∧
  (∀ (s : State) (f : FieldId) (p : Packet), s.svc f ≠ svcDark → ∀ x ∈ ([(.get f p, kGet), (.put f p, kPut), (.putPartial f p, kPutPartial), (.putReduce f p, kPutReduce), (.putReduceComb f p, kPutReduceComb), (.mcastPut f p, kMcastPut), (.fetchAdd f p, kFetchAdd), (.compareSwap f p, kCompareSwap), (.flushReq f p, kFlushReq)] : List (Instr × Nat)), (s.arrival f x.2 p).2 = false → Leaves (exec x.1 s) (fun u =>
      u = (s.arrival f x.2 p).1)) ∧
  (∀ (s : State) (f : FieldId) (p : Packet), s.svc f ≠ svcDark → (rhOf p).kind = kGet → pktRemote p = true → rhWellFormed p = true → p.dst = s.node f → (s.field f).router.inbox.contains p = true ∨ s.deliverOk f p = true → s.halted f = false ∨ p.allot ≠ s.allot f → Leaves (exec (.get f p) s) (fun u =>
      u = ((s.arrival f kGet p).1.targetRead f p.key srcGateway).1.respond f p.src p.key { rhKind kGetResp with typ := (rhOf p).typ, txn := (rhOf p).txn, status := ((s.arrival f kGet p).1.targetRead f p.key srcGateway).2.1, flags := if ((s.arrival f kGet p).1.targetRead f p.key srcGateway).2.2.2 then fPoison else 0 } ((((s.arrival f kGet p).1.targetRead f p.key srcGateway).2.2.1 ++ List.replicate 128 0).take 128))) ∧
  (∀ (s : State) (f : FieldId) (p : Packet), s.svc f ≠ svcDark → (rhOf p).kind = kPut → pktRemote p = true → rhWellFormed p = true → p.dst = s.node f → (s.field f).router.inbox.contains p = true ∨ s.deliverOk f p = true → s.halted f = false ∨ p.allot ≠ s.allot f → Leaves (exec (.put f p) s) (fun u =>
      u = (((s.arrival f kPut p).1).orderedArrive f p).mirSettle f)) ∧
  (∀ (s : State) (f : FieldId) (p : Packet), s.svc f ≠ svcDark → (rhOf p).kind = kPutPartial → pktRemote p = true → rhWellFormed p = true → p.dst = s.node f → (s.field f).router.inbox.contains p = true ∨ s.deliverOk f p = true → s.halted f = false ∨ p.allot ≠ s.allot f → Leaves (exec (.putPartial f p) s) (fun u =>
      u = (((s.arrival f kPutPartial p).1).orderedArrive f p).mirSettle f)) ∧
  (∀ (s : State) (f : FieldId) (p : Packet), s.svc f ≠ svcDark → (rhOf p).kind = kPutReduce → pktRemote p = true → rhWellFormed p = true → p.dst = s.node f → (s.field f).router.inbox.contains p = true ∨ s.deliverOk f p = true → s.halted f = false ∨ p.allot ≠ s.allot f → Leaves (exec (.putReduce f p) s) (fun u =>
      u = (((s.arrival f kPutReduce p).1).orderedArrive f p).mirSettle f)) ∧
  (∀ (s : State) (f : FieldId) (p : Packet), s.svc f ≠ svcDark → (rhOf p).kind = kPut → pktRemote p = true → rhWellFormed p = true → p.dst = s.node f → (s.field f).router.inbox.contains p = true ∨ s.deliverOk f p = true → s.halted f = false ∨ p.allot ≠ s.allot f → s.injArmed f injGwy 2 = false → (s.flowRx f p.src).valid = true → (s.flowRx f p.src).fepoch = (rhOf p).fepoch → (s.flowRx f p.src).exp = (rhOf p).seq → (s.flowRx f p.src).held.any (fun x => decide (x.seq = (rhOf p).seq)) = false → (s.gw f).redWait.any (fun q => decide (q.src = p.src) && decide ((rhOf q).seq = (rhOf p).seq)) = false → p.cls ≠ 5 → Leaves (exec (.put f p) s) (fun u =>
      u = (((((((s.arrival f kPut p).1.updGw f (fun G => { G with queue := G.queue.map (fun x => if x.src = p.src then { x with told := false } else x) })).targetWrite f p.key wholeMask (rhPayload p) (decide ((rhOf p).flags &&& fPoison ≠ 0)) srcGateway).1).queueServed f p.src (rhOf p).seq).lineApplied f p.src p (((s.arrival f kPut p).1.updGw f (fun G => { G with queue := G.queue.map (fun x => if x.src = p.src then { x with told := false } else x) })).targetWrite f p.key wholeMask (rhPayload p) (decide ((rhOf p).flags &&& fPoison ≠ 0)) srcGateway).2).drainFlow f p.src).mirSettle f)) ∧
  (∀ (s : State) (f : FieldId) (p : Packet), s.svc f ≠ svcDark → (rhOf p).kind = kPutPartial → pktRemote p = true → rhWellFormed p = true → p.dst = s.node f → (s.field f).router.inbox.contains p = true ∨ s.deliverOk f p = true → s.halted f = false ∨ p.allot ≠ s.allot f → s.injArmed f injGwy 2 = false → (s.flowRx f p.src).valid = true → (s.flowRx f p.src).fepoch = (rhOf p).fepoch → (s.flowRx f p.src).exp = (rhOf p).seq → (s.flowRx f p.src).held.any (fun x => decide (x.seq = (rhOf p).seq)) = false → (s.gw f).redWait.any (fun q => decide (q.src = p.src) && decide ((rhOf q).seq = (rhOf p).seq)) = false → Leaves (exec (.putPartial f p) s) (fun u =>
      u = (((((((s.arrival f kPutPartial p).1.updGw f (fun G => { G with queue := G.queue.map (fun x => if x.src = p.src then { x with told := false } else x) })).targetWrite f p.key (rhOf p).operand (rhPayload p) (decide ((rhOf p).flags &&& fPoison ≠ 0)) srcGateway).1).queueServed f p.src (rhOf p).seq).lineApplied f p.src p (((s.arrival f kPutPartial p).1.updGw f (fun G => { G with queue := G.queue.map (fun x => if x.src = p.src then { x with told := false } else x) })).targetWrite f p.key (rhOf p).operand (rhPayload p) (decide ((rhOf p).flags &&& fPoison ≠ 0)) srcGateway).2).drainFlow f p.src).mirSettle f)) ∧
  (∀ (s : State) (f : FieldId) (p : Packet), s.svc f ≠ svcDark → (rhOf p).kind = kPut → pktRemote p = true → rhWellFormed p = true → p.dst = s.node f → (s.field f).router.inbox.contains p = true ∨ s.deliverOk f p = true → s.halted f = false ∨ p.allot ≠ s.allot f → s.injArmed f injGwy 2 = false → (s.flowRx f p.src).valid = true → (s.flowRx f p.src).fepoch = (rhOf p).fepoch → (s.flowRx f p.src).exp = (rhOf p).seq → (s.flowRx f p.src).held.any (fun x => decide (x.seq = (rhOf p).seq)) = false → (s.gw f).redWait.any (fun q => decide (q.src = p.src) && decide ((rhOf q).seq = (rhOf p).seq)) = false → p.cls = 5 → Leaves (exec (.put f p) s) (fun u =>
      u = (((((((s.arrival f kPut p).1.updGw f (fun G => { G with queue := G.queue.map (fun x => if x.src = p.src then { x with told := false } else x) })).bulkPut f p.src p.key (rhPayload p) (decide ((rhOf p).flags &&& fPoison ≠ 0))).1).queueServed f p.src (rhOf p).seq).lineApplied f p.src p (((s.arrival f kPut p).1.updGw f (fun G => { G with queue := G.queue.map (fun x => if x.src = p.src then { x with told := false } else x) })).bulkPut f p.src p.key (rhPayload p) (decide ((rhOf p).flags &&& fPoison ≠ 0))).2).drainFlow f p.src).mirSettle f)) ∧
  (∀ (s : State) (f : FieldId) (p : Packet) (R : RedLine), s.svc f ≠ svcDark → (rhOf p).kind = kPutReduce → pktRemote p = true → rhWellFormed p = true → p.dst = s.node f → (s.field f).router.inbox.contains p = true ∨ s.deliverOk f p = true → s.halted f = false ∨ p.allot ≠ s.allot f → s.injArmed f injGwy 2 = false → (s.flowRx f p.src).valid = true → (s.flowRx f p.src).fepoch = (rhOf p).fepoch → (s.flowRx f p.src).exp = (rhOf p).seq → (s.flowRx f p.src).held.any (fun x => decide (x.seq = (rhOf p).seq)) = false → (s.gw f).redWait.any (fun q => decide (q.src = p.src) && decide ((rhOf q).seq = (rhOf p).seq)) = false → targetOf p.key = .hbm → SMap.find (s.gw f).red (p.key / 128) = some R → R.flushed = none → R.typ = (rhOf p).typ → R.allot = p.allot → Leaves (exec (.putReduce f p) s) (fun u =>
      u = (((((((s.arrival f kPutReduce p).1.updGw f (fun G => { G with queue := G.queue.map (fun x => if x.src = p.src then { x with told := false } else x) })).setRed f { R with accs := (accsAdd R.accs (lineTerms (rhOf p).typ (decide ((rhOf p).flags &&& fPoison ≠ 0)) (rhPayload p))).1, changed := true }).redOverflow f R (accsAdd R.accs (lineTerms (rhOf p).typ (decide ((rhOf p).flags &&& fPoison ≠ 0)) (rhPayload p))).2).queueServed f p.src (rhOf p).seq).lineApplied f p.src p St.OK).drainFlow f p.src).mirSettle f)) ∧
  (∀ (s : State) (f : FieldId) (p : Packet), s.svc f ≠ svcDark → (rhOf p).kind = kPutReduceComb → pktRemote p = true → rhWellFormed p = true → p.dst = s.node f → (s.field f).router.inbox.contains p = true ∨ s.deliverOk f p = true → s.halted f = false ∨ p.allot ≠ s.allot f → Leaves (exec (.putReduceComb f p) s) (fun u =>
      u = (s.arrival f kPutReduceComb p).1.combArrive f p)) ∧
  (∀ (s : State) (f : FieldId) (p : Packet) (R : RedLine) (c : Nat × Nat × Nat), s.svc f ≠ svcDark → (rhOf p).kind = kPutReduceComb → pktRemote p = true → rhWellFormed p = true → p.dst = s.node f → (s.field f).router.inbox.contains p = true ∨ s.deliverOk f p = true → s.halted f = false ∨ p.allot ≠ s.allot f → s.injArmed f injGwy 4 = false → combRecords p = [c] → (s.flowRx f c.1).valid = true → (s.flowRx f c.1).fepoch = c.2.1 → s.combDup f c = false → (s.flowRx f c.1).exp = c.2.2 → targetOf p.key = .hbm → SMap.find (s.gw f).red (p.key / 128) = some R → R.flushed = none → R.typ = (rhOf p).typ → R.allot = p.allot → Leaves (exec (.putReduceComb f p) s) (fun u =>
      u = (((((fun (t : State) => t.setFlowRx f c.1 { t.flowRx f c.1 with held := (t.flowRx f c.1).held ++ [⟨c.2.2, none⟩] }) (((s.arrival f kPutReduceComb p).1.lineSeen f c.1).queueServed f c.1 c.2.2)).setRed f { R with accs := (accsMerge R.accs (combImages p)).1, changed := true }).redOverflow f R (accsMerge R.accs (combImages p)).2).fwrap f Reg.GWY_STAT.COMB_APPLIED).drainFlow f c.1)) ∧
  (∀ (s : State) (f : FieldId) (p : Packet), s.svc f ≠ svcDark → (rhOf p).kind = kMcastPut → pktRemote p = true → rhWellFormed p = true → p.dst = s.node f → (s.field f).router.inbox.contains p = true ∨ s.deliverOk f p = true → s.halted f = false ∨ p.allot ≠ s.allot f → Leaves (exec (.mcastPut f p) s) (fun u =>
      u = ((s.arrival f kMcastPut p).1.targetWrite f p.key wholeMask (rhPayload p) (decide ((rhOf p).flags &&& fPoison ≠ 0)) srcGateway).1.respond f p.src p.key { rhKind kMcAck with typ := (rhOf p).typ, txn := (rhOf p).txn, status := ((s.arrival f kMcastPut p).1.targetWrite f p.key wholeMask (rhPayload p) (decide ((rhOf p).flags &&& fPoison ≠ 0)) srcGateway).2 } [])) ∧
  (∀ (s : State) (f : FieldId) (p : Packet) (a : AtomicResp), s.svc f ≠ svcDark → (rhOf p).kind = kFetchAdd → pktRemote p = true → rhWellFormed p = true → p.dst = s.node f → (s.field f).router.inbox.contains p = true ∨ s.deliverOk f p = true → s.halted f = false ∨ p.allot ≠ s.allot f → (s.gw f).atomics.find? (fun a => decide ((rhOf p).flags &&& fRetx ≠ 0) && decide (a.src = p.src) && decide (a.txn = (rhOf p).txn)) = some a → Leaves (exec (.fetchAdd f p) s) (fun u =>
      u = (s.arrival f kFetchAdd p).1.atomicAnswer f p a)) ∧
  (∀ (s : State) (f : FieldId) (p : Packet), s.svc f ≠ svcDark → (rhOf p).kind = kFetchAdd → pktRemote p = true → rhWellFormed p = true → p.dst = s.node f → (s.field f).router.inbox.contains p = true ∨ s.deliverOk f p = true → s.halted f = false ∨ p.allot ≠ s.allot f → (s.gw f).atomics.find? (fun a => decide ((rhOf p).flags &&& fRetx ≠ 0) && decide (a.src = p.src) && decide (a.txn = (rhOf p).txn)) = none → (s.gw f).atomics.length < atomicCache → Leaves (exec (.fetchAdd f p) s) (fun u =>
      u = (((s.arrival f kFetchAdd p).1.atomicPerform f p).1.updGw f (fun G => { G with atomics := G.atomics.filter (fun b => decide (b.src ≠ ((s.arrival f kFetchAdd p).1.atomicPerform f p).2.src) || decide (b.txn ≠ ((s.arrival f kFetchAdd p).1.atomicPerform f p).2.txn)) ++ [((s.arrival f kFetchAdd p).1.atomicPerform f p).2] })).atomicAnswer f p ((s.arrival f kFetchAdd p).1.atomicPerform f p).2)) ∧
  (∀ (s : State) (f : FieldId) (p : Packet), s.svc f ≠ svcDark → (rhOf p).kind = kFetchAdd → pktRemote p = true → rhWellFormed p = true → p.dst = s.node f → (s.field f).router.inbox.contains p = true ∨ s.deliverOk f p = true → s.halted f = false ∨ p.allot ≠ s.allot f → (s.gw f).atomics.find? (fun a => decide ((rhOf p).flags &&& fRetx ≠ 0) && decide (a.src = p.src) && decide (a.txn = (rhOf p).txn)) = none → atomicCache ≤ (s.gw f).atomics.length → Leaves (exec (.fetchAdd f p) s) (fun u =>
      u = (s.arrival f kFetchAdd p).1.sendDefer f p noPlace)) ∧
  (∀ (s : State) (f : FieldId) (p : Packet) (a : AtomicResp), s.svc f ≠ svcDark → (rhOf p).kind = kCompareSwap → pktRemote p = true → rhWellFormed p = true → p.dst = s.node f → (s.field f).router.inbox.contains p = true ∨ s.deliverOk f p = true → s.halted f = false ∨ p.allot ≠ s.allot f → (s.gw f).atomics.find? (fun a => decide ((rhOf p).flags &&& fRetx ≠ 0) && decide (a.src = p.src) && decide (a.txn = (rhOf p).txn)) = some a → Leaves (exec (.compareSwap f p) s) (fun u =>
      u = (s.arrival f kCompareSwap p).1.atomicAnswer f p a)) ∧
  (∀ (s : State) (f : FieldId) (p : Packet), s.svc f ≠ svcDark → (rhOf p).kind = kCompareSwap → pktRemote p = true → rhWellFormed p = true → p.dst = s.node f → (s.field f).router.inbox.contains p = true ∨ s.deliverOk f p = true → s.halted f = false ∨ p.allot ≠ s.allot f → (s.gw f).atomics.find? (fun a => decide ((rhOf p).flags &&& fRetx ≠ 0) && decide (a.src = p.src) && decide (a.txn = (rhOf p).txn)) = none → (s.gw f).atomics.length < atomicCache → Leaves (exec (.compareSwap f p) s) (fun u =>
      u = (((s.arrival f kCompareSwap p).1.atomicPerform f p).1.updGw f (fun G => { G with atomics := G.atomics.filter (fun b => decide (b.src ≠ ((s.arrival f kCompareSwap p).1.atomicPerform f p).2.src) || decide (b.txn ≠ ((s.arrival f kCompareSwap p).1.atomicPerform f p).2.txn)) ++ [((s.arrival f kCompareSwap p).1.atomicPerform f p).2] })).atomicAnswer f p ((s.arrival f kCompareSwap p).1.atomicPerform f p).2)) ∧
  (∀ (s : State) (f : FieldId) (p : Packet), s.svc f ≠ svcDark → (rhOf p).kind = kCompareSwap → pktRemote p = true → rhWellFormed p = true → p.dst = s.node f → (s.field f).router.inbox.contains p = true ∨ s.deliverOk f p = true → s.halted f = false ∨ p.allot ≠ s.allot f → (s.gw f).atomics.find? (fun a => decide ((rhOf p).flags &&& fRetx ≠ 0) && decide (a.src = p.src) && decide (a.txn = (rhOf p).txn)) = none → atomicCache ≤ (s.gw f).atomics.length → Leaves (exec (.compareSwap f p) s) (fun u =>
      u = (s.arrival f kCompareSwap p).1.sendDefer f p noPlace)) ∧
  (∀ (s : State) (f : FieldId) (p : Packet), s.svc f ≠ svcDark → (rhOf p).kind = kFlushReq → pktRemote p = true → rhWellFormed p = true → p.dst = s.node f → (s.field f).router.inbox.contains p = true ∨ s.deliverOk f p = true → s.halted f = false ∨ p.allot ≠ s.allot f → Leaves (exec (.flushReq f p) s) (fun u =>
      u = ((((s.arrival f kFlushReq p).1.redOf f p.allot).filter RedLine.changed).foldl (fun t R => t.redFlush f R) (s.arrival f kFlushReq p).1).respond f p.src p.key { rhKind kFlushAck with typ := (rhOf p).typ, txn := (rhOf p).txn } []))

/-- An answer of its kind for this field, waiting at the router or delivered now (R378, R379), to a request outstanding.
GET_RESP and ATOMIC_RESP with status OK write the line or the old value at the source, and the line finishes,
UNCORRECTED where it came poisoned (R420, R421); with any other status it finishes so. FLUSH_ACK: the flush is done
(R417). MC_ACK of a member still due: that member is done (R377). ACK of the flow's epoch: it is acknowledged up to SEQ,
and the lines covered finish, the one of an ERROR with its status (R412); an older epoch's is ignored. DEFER: the line
of its flow and SEQ, or the request of its TXN, is deferred, its resends start again and its delay is set (R411). An
answer that matches nothing leaves no more than its discard, and a DARK field takes none (R27). Each answers a next
state. Derived, the model's choice: that an answer nothing waits for changes nothing more (assumption log entry 2), and
that a DARK field takes none (42). -/
def Obligations.GatewayResponsesComplete : Prop :=
  (∀ (s : State) (f : FieldId) (p : Packet), s.svc f = svcDark → ∀ x ∈ ([.getResp f p, .atomicResp f p, .flushAck f p, .mcAck f p, .ack f p, .defer f p] : List Instr), Leaves (exec x s) (fun u =>
      u = s)) ∧
  (∀ (s : State) (f : FieldId) (p : Packet), s.svc f ≠ svcDark → ∀ x ∈ ([(.getResp f p, kGetResp), (.atomicResp f p, kAtomicResp), (.flushAck f p, kFlushAck), (.mcAck f p, kMcAck), (.ack f p, kAck), (.defer f p, kDefer)] : List (Instr × Nat)), (s.arrival f x.2 p).2 = false → Leaves (exec x.1 s) (fun u =>
      u = (s.arrival f x.2 p).1)) ∧
  (∀ (s : State) (f : FieldId) (p : Packet), s.svc f ≠ svcDark → s.answered f p [kGet] = none → Leaves (exec (.getResp f p) s) (fun u =>
      u = (s.arrival f kGetResp p).1)) ∧
  (∀ (s : State) (f : FieldId) (p : Packet), s.svc f ≠ svcDark → s.answered f p [kFetchAdd, kCompareSwap] = none → Leaves (exec (.atomicResp f p) s) (fun u =>
      u = (s.arrival f kAtomicResp p).1)) ∧
  (∀ (s : State) (f : FieldId) (p : Packet), s.svc f ≠ svcDark → s.answered f p [kFlushReq] = none → Leaves (exec (.flushAck f p) s) (fun u =>
      u = (s.arrival f kFlushAck p).1)) ∧
  (∀ (s : State) (f : FieldId) (p : Packet), s.svc f ≠ svcDark → s.answered f p [kMcastPut] = none → Leaves (exec (.mcAck f p) s) (fun u =>
      u = (s.arrival f kMcAck p).1)) ∧
  (∀ (s : State) (f : FieldId) (p : Packet) (l : GwLine), s.svc f ≠ svcDark → (rhOf p).kind = kGetResp → pktRemote p = true → rhWellFormed p = true → p.dst = s.node f → (s.field f).router.inbox.contains p = true ∨ s.deliverOk f p = true → s.answered f p [kGet] = some l → (rhOf p).status = St.OK → Leaves (exec (.getResp f p) s) (fun u =>
      u = (((s.arrival f kGetResp p).1.lineLocal f l (rhPayload p) 0 (decide ((rhOf p).flags &&& fPoison ≠ 0))).lineFinish f l (if (rhOf p).flags &&& fPoison ≠ 0 then St.UNCORRECTED else St.OK)).gwSettle f)) ∧
  (∀ (s : State) (f : FieldId) (p : Packet) (l : GwLine), s.svc f ≠ svcDark → (rhOf p).kind = kGetResp → pktRemote p = true → rhWellFormed p = true → p.dst = s.node f → (s.field f).router.inbox.contains p = true ∨ s.deliverOk f p = true → s.answered f p [kGet] = some l → (rhOf p).status ≠ St.OK → Leaves (exec (.getResp f p) s) (fun u =>
      u = ((s.arrival f kGetResp p).1.lineFinish f l (rhOf p).status).gwSettle f)) ∧
  (∀ (s : State) (f : FieldId) (p : Packet) (l : GwLine), s.svc f ≠ svcDark → (rhOf p).kind = kAtomicResp → pktRemote p = true → rhWellFormed p = true → p.dst = s.node f → (s.field f).router.inbox.contains p = true ∨ s.deliverOk f p = true → s.answered f p [kFetchAdd, kCompareSwap] = some l → (rhOf p).status = St.OK → Leaves (exec (.atomicResp f p) s) (fun u =>
      u = (((s.arrival f kAtomicResp p).1.lineLocal f l [] (trunc (8 * atomicBytes l.typ) (rhOf p).operand) (decide ((rhOf p).flags &&& fPoison ≠ 0))).lineFinish f l (if (rhOf p).flags &&& fPoison ≠ 0 then St.UNCORRECTED else St.OK)).gwSettle f)) ∧
  (∀ (s : State) (f : FieldId) (p : Packet) (l : GwLine), s.svc f ≠ svcDark → (rhOf p).kind = kAtomicResp → pktRemote p = true → rhWellFormed p = true → p.dst = s.node f → (s.field f).router.inbox.contains p = true ∨ s.deliverOk f p = true → s.answered f p [kFetchAdd, kCompareSwap] = some l → (rhOf p).status ≠ St.OK → Leaves (exec (.atomicResp f p) s) (fun u =>
      u = ((s.arrival f kAtomicResp p).1.lineFinish f l (rhOf p).status).gwSettle f)) ∧
  (∀ (s : State) (f : FieldId) (p : Packet) (l : GwLine), s.svc f ≠ svcDark → (rhOf p).kind = kFlushAck → pktRemote p = true → rhWellFormed p = true → p.dst = s.node f → (s.field f).router.inbox.contains p = true ∨ s.deliverOk f p = true → s.answered f p [kFlushReq] = some l → Leaves (exec (.flushAck f p) s) (fun u =>
      u = ((s.arrival f kFlushAck p).1.lineFinish f l St.OK).gwSettle f)) ∧
  (∀ (s : State) (f : FieldId) (p : Packet) (l : GwLine), s.svc f ≠ svcDark → (rhOf p).kind = kMcAck → pktRemote p = true → rhWellFormed p = true → p.dst = s.node f → (s.field f).router.inbox.contains p = true ∨ s.deliverOk f p = true → s.answered f p [kMcastPut] = some l → p.src = nodeWith l.dst l.maxis (nodeCoord p.src l.maxis) → l.due.any (fun d => decide (d.1 = nodeCoord p.src l.maxis)) = true → Leaves (exec (.mcAck f p) s) (fun u =>
      u = ((s.arrival f kMcAck p).1.memberDone f l (nodeCoord p.src l.maxis) (rhOf p).status).gwSettle f)) ∧
  (∀ (s : State) (f : FieldId) (p : Packet) (l : GwLine), s.svc f ≠ svcDark → s.answered f p [kMcastPut] = some l → p.src ≠ nodeWith l.dst l.maxis (nodeCoord p.src l.maxis) ∨ l.due.any (fun d => decide (d.1 = nodeCoord p.src l.maxis)) = false → Leaves (exec (.mcAck f p) s) (fun u =>
      u = (s.arrival f kMcAck p).1)) ∧
  (∀ (s : State) (f : FieldId) (p : Packet), s.svc f ≠ svcDark → (rhOf p).kind = kAck → pktRemote p = true → rhWellFormed p = true → p.dst = s.node f → (s.field f).router.inbox.contains p = true ∨ s.deliverOk f p = true → (rhOf p).fepoch = s.flowEpoch f p.src → Leaves (exec (.ack f p) s) (fun u =>
      u = (((s.gw f).lines.filter (fun l => l.ordered && decide (flowKey l.dst = flowKey p.src) && seqReached l.seq (if seqBefore (s.flowTx f p.src).acked (rhOf p).seq then (rhOf p).seq else (s.flowTx f p.src).acked))).foldl (fun t l => t.lineFinish f l (if decide ((rhOf p).flags &&& fError ≠ 0) && decide (l.seq = (rhOf p).seq) then (rhOf p).status else St.OK)) ((s.arrival f kAck p).1.setFlowTx f p.src { s.flowTx f p.src with acked := (if seqBefore (s.flowTx f p.src).acked (rhOf p).seq then (rhOf p).seq else (s.flowTx f p.src).acked) })).gwSettle f)) ∧
  (∀ (s : State) (f : FieldId) (p : Packet), s.svc f ≠ svcDark → (rhOf p).kind = kAck → pktRemote p = true → rhWellFormed p = true → p.dst = s.node f → (s.field f).router.inbox.contains p = true ∨ s.deliverOk f p = true → (rhOf p).fepoch ≠ s.flowEpoch f p.src → Leaves (exec (.ack f p) s) (fun u =>
      u = (s.arrival f kAck p).1.gwSettle f)) ∧
  (∀ (s : State) (f : FieldId) (p : Packet), s.svc f ≠ svcDark → (rhOf p).kind = kDefer → pktRemote p = true → rhWellFormed p = true → p.dst = s.node f → (s.field f).router.inbox.contains p = true ∨ s.deliverOk f p = true → Leaves (exec (.defer f p) s) (fun u =>
      u.freg f Reg.GWY_STAT.DEFERS_RECV = (s.freg f Reg.GWY_STAT.DEFERS_RECV + 1) % 2 ^ 32 ∧
      (u.gw f).lines = (s.gw f).lines.map (fun l => if l.sent && decide (l.dst = p.src) && (if (rhOf p).txn ≠ 0 then !l.ordered && decide (l.id % 2 ^ 32 = (rhOf p).txn) else l.ordered && decide (l.seq = (rhOf p).seq) && decide (l.fepoch = (rhOf p).fepoch)) then { l with deferred := true, resends := 0, defers := min (l.defers + 1) 255, delay := if (rhOf p).age = 0 then 500 else backoff (s.node f) l.dst (min (l.defers + 1) 255) (s.field f).tally.tInt } else l)))

/-- FLD_ALLOT_WRITE: the allotment is the one written, 0xFFF storing 0, a halt ends, and without an allotment the
witness runs with poison on (R378, R416, R124). GATEWAY_LINE_ACCEPT: the oldest line of a plot for the gateway joins its
lines, or is refused to the plot (R403). ORDERED_LINE_SEND of a line within WINDOW that finds room in the retransmit
store: it is sent, and a multicast without members is done (R408). ACK_SEND of an ACK due and DEFER_RESEND of a deferred
line: sent (R411, R412). RETX_TIMEOUT: below LIMIT the line, or the member's copy, is sent again and counted; at LIMIT
the request fails (R413). AGE_TOKEN_TIMEOUT: a holder told of the token leaves the queue (R410). ALLOT_HALT of this
field's allotment halts gateway and all-reduce, any other does nothing (R416). ABSORBER_WRITEBACK: a resident line is
written back (R422). ATOMIC_CACHE_EXPIRY: no cached answer of that request is left (R421). GWY_RED_RELEASE: the
allotment's reductions are flushed and their entries free (R425). PUT_REDUCE_RESUME: waiting put-reduces, and the lines
held behind them, are applied (R529). Where there is nothing to act on, and of a DARK field (R27), nothing changes. Each
answers a next state. Derived, the model's choice: that a DARK field takes no command (assumption log entry 42), which
commands say when time-driven work happens (2), and how retransmit slots, reduction entries and the deferred queue are
held (33, 44). -/
def Obligations.GatewayUpkeepComplete : Prop :=
  (∀ (s : State) (f : FieldId) (p : PlotId) (a b : Nat), s.svc f = svcDark → ∀ x ∈ ([.fldAllotWrite f a, .gatewayLineAccept f p, .orderedLineSend f a, .ackSend f a, .deferResend f a, .ageTokenTimeout f a, .retxTimeout f a b, .allotHalt f a, .absorberWriteback f a, .atomicCacheExpiry f a b, .gwyRedRelease f a, .putReduceResume f] : List Instr), Leaves (exec x s) (fun u =>
      u = s)) ∧
  (∀ (s : State) (f : FieldId) (a : Nat), s.svc f ≠ svcDark → Leaves (exec (.fldAllotWrite f a) s) (fun u =>
      u.freg f Reg.FLD_ALLOT.ID = (if a % 4096 = 4095 then 0 else a % 4096) ∧
      u.freg f Reg.GWY_ALLOT_HALT.HALTED = 0 ∧
      (a % 4096 = 0 ∨ a % 4096 = 4095 → u.freg f Reg.FLD_WITNESS_CTL.ACTIVE = 1 ∧ u.freg f Reg.FLD_WITNESS_CTL.POISON_ACTIVE = 1))) ∧
  (∀ (s : State) (f : FieldId) (p : PlotId) (x : XLine), s.svc f ≠ svcDark → (s.plot f p).xlines.find? (fun x => !s.xlineOwn f x) = some x → s.lineRefusal f x = none → Leaves (exec (.gatewayLineAccept f p) s) (fun u =>
      u = (s.updPlot f p (fun P => { P with xlines := P.xlines.erase x })).gwEnqueue f (xlineGw p x))) ∧
  (∀ (s : State) (f : FieldId) (p : PlotId) (x : XLine) (st : Nat), s.svc f ≠ svcDark → (s.plot f p).xlines.find? (fun x => !s.xlineOwn f x) = some x → s.lineRefusal f x = some st → Leaves (exec (.gatewayLineAccept f p) s) (fun u =>
      u = (s.updPlot f p (fun P => { P with xlines := P.xlines.erase x })).xlineEnd f p x st)) ∧
  (∀ (s : State) (f : FieldId) (p : PlotId), (s.plot f p).xlines.find? (fun x => !s.xlineOwn f x) = none → Leaves (exec (.gatewayLineAccept f p) s) (fun u =>
      u = s)) ∧
  (∀ (s : State) (f : FieldId) (k : Nat) (l : GwLine), s.svc f ≠ svcDark → (s.gw f).lines.find? (fun l => decide (l.id = k) && !l.sent) = some l → (s.gw f).stored < retransmitStore → l.ordered = false ∨ (l.seq + 2 ^ 32 - (s.flowTx f l.dst).acked - 1) % 2 ^ 32 < s.freg f Reg.GWY_SOU_CTL.WINDOW → l.multicast = false ∨ l.due ≠ [] → Leaves (exec (.orderedLineSend f k) s) (fun u =>
      u = s.gwSend f l (s.linePacket f l false))) ∧
  (∀ (s : State) (f : FieldId) (k : Nat) (l : GwLine), s.svc f ≠ svcDark → (s.gw f).lines.find? (fun l => decide (l.id = k) && !l.sent) = some l → (s.gw f).stored < retransmitStore → l.ordered = false ∨ (l.seq + 2 ^ 32 - (s.flowTx f l.dst).acked - 1) % 2 ^ 32 < s.freg f Reg.GWY_SOU_CTL.WINDOW → l.multicast = true → l.due = [] → Leaves (exec (.orderedLineSend f k) s) (fun u =>
      u = (s.gwSend f l (s.linePacket f l false)).lineFinish f l St.OK)) ∧
  (∀ (s : State) (f : FieldId) (k : Nat) (l : GwLine), (s.gw f).lines.find? (fun l => decide (l.id = k) && !l.sent) = some l → retransmitStore ≤ (s.gw f).stored ∨ (l.ordered = true ∧ s.freg f Reg.GWY_SOU_CTL.WINDOW ≤ (l.seq + 2 ^ 32 - (s.flowTx f l.dst).acked - 1) % 2 ^ 32) → Leaves (exec (.orderedLineSend f k) s) (fun u =>
      u = s)) ∧
  (∀ (s : State) (f : FieldId) (k : Nat), (s.gw f).lines.find? (fun l => decide (l.id = k) && !l.sent) = none → Leaves (exec (.orderedLineSend f k) s) (fun u =>
      u = s)) ∧
  (∀ (s : State) (f : FieldId) (n : Nat), s.svc f ≠ svcDark → (s.gw f).ackDue.contains n = true → Leaves (exec (.ackSend f n) s) (fun u =>
      u = (s.updGw f (fun G => { G with ackDue := G.ackDue.filter (fun x => x ≠ n) })).respond f n (s.flowRx f n).key { rhKind kAck with typ := (s.flowRx f n).typ, fepoch := (s.flowRx f n).fepoch, seq := ((s.flowRx f n).exp + 2 ^ 32 - 1) % 2 ^ 32 } [])) ∧
  (∀ (s : State) (f : FieldId) (n : Nat), (s.gw f).ackDue.contains n = false → Leaves (exec (.ackSend f n) s) (fun u =>
      u = s)) ∧
  (∀ (s : State) (f : FieldId) (k : Nat) (l : GwLine), s.svc f ≠ svcDark → (s.gw f).lines.find? (fun l => decide (l.id = k) && l.deferred) = some l → Leaves (exec (.deferResend f k) s) (fun u =>
      u = s.gwSend f l (s.linePacket f l true))) ∧
  (∀ (s : State) (f : FieldId) (k : Nat), (s.gw f).lines.find? (fun l => decide (l.id = k) && l.deferred) = none → Leaves (exec (.deferResend f k) s) (fun u =>
      u = s)) ∧
  (∀ (s : State) (f : FieldId) (q : QPlace), s.svc f ≠ svcDark → (s.gw f).queue.head? = some q → q.told = true → Leaves (exec (.ageTokenTimeout f q.src) s) (fun u =>
      ∀ x ∈ (u.gw f).queue, x.src ≠ q.src)) ∧
  (∀ (s : State) (f : FieldId) (n : Nat), ((s.gw f).queue.head?).all (fun q => decide (q.src ≠ n) || !q.told) = true → Leaves (exec (.ageTokenTimeout f n) s) (fun u =>
      u = s)) ∧
  (∀ (s : State) (f : FieldId) (k : Nat) (l : GwLine) (m : Nat), s.svc f ≠ svcDark → (s.gw f).lines.find? (fun l => decide (l.id = k) && l.sent && !l.deferred && (!l.multicast || l.due.any (fun d => decide (d.1 = m)))) = some l → l.multicast = false → l.resends < s.freg f Reg.GWY_RETX_CTL.LIMIT → Leaves (exec (.retxTimeout f k m) s) (fun u =>
      u = ((s.fwrap f Reg.GWY_STAT.RETX).updGw f (fun G => { G with lines := G.lines.map (fun x => if x.id ≠ l.id then x else { x with resends := x.resends + 1 }) })).gwSend f l (((s.fwrap f Reg.GWY_STAT.RETX).updGw f (fun G => { G with lines := G.lines.map (fun x => if x.id ≠ l.id then x else { x with resends := x.resends + 1 }) })).linePacket f l true))) ∧
  (∀ (s : State) (f : FieldId) (k : Nat) (l : GwLine) (m : Nat), s.svc f ≠ svcDark → (s.gw f).lines.find? (fun l => decide (l.id = k) && l.sent && !l.deferred && (!l.multicast || l.due.any (fun d => decide (d.1 = m)))) = some l → l.multicast = true → ((l.due.find? (fun d => decide (d.1 = m))).map Prod.snd).getD 0 < s.freg f Reg.GWY_RETX_CTL.LIMIT → Leaves (exec (.retxTimeout f k m) s) (fun u =>
      u = ((s.fwrap f Reg.GWY_STAT.RETX).updGw f (fun G => { G with lines := G.lines.map (fun x => if x.id ≠ l.id then x else { x with due := x.due.map (fun d => if d.1 = m then (d.1, d.2 + 1) else d) }) })).gwSend f l (((s.fwrap f Reg.GWY_STAT.RETX).updGw f (fun G => { G with lines := G.lines.map (fun x => if x.id ≠ l.id then x else { x with due := x.due.map (fun d => if d.1 = m then (d.1, d.2 + 1) else d) }) })).memberPacket f l m))) ∧
  (∀ (s : State) (f : FieldId) (k : Nat) (l : GwLine) (m : Nat), s.svc f ≠ svcDark → (s.gw f).lines.find? (fun l => decide (l.id = k) && l.sent && !l.deferred && (!l.multicast || l.due.any (fun d => decide (d.1 = m)))) = some l → s.freg f Reg.GWY_RETX_CTL.LIMIT ≤ (if l.multicast then ((l.due.find? (fun d => decide (d.1 = m))).map Prod.snd).getD 0 else l.resends) → Leaves (exec (.retxTimeout f k m) s) (fun u =>
      u = (s.requestFail f l m).gwSettle f)) ∧
  (∀ (s : State) (f : FieldId) (k m : Nat), (s.gw f).lines.find? (fun l => decide (l.id = k) && l.sent && !l.deferred && (!l.multicast || l.due.any (fun d => decide (d.1 = m)))) = none → Leaves (exec (.retxTimeout f k m) s) (fun u =>
      u = s)) ∧
  (∀ (s : State) (f : FieldId) (a : Nat), s.svc f ≠ svcDark → a % 4096 = s.allot f → a % 4096 ≠ 0 → Leaves (exec (.allotHalt f a) s) (fun u =>
      u = (s.gwHalt f (a % 4096)).shfAllotHalt f)) ∧
  (∀ (s : State) (f : FieldId) (a : Nat), a % 4096 ≠ s.allot f ∨ a % 4096 = 0 → Leaves (exec (.allotHalt f a) s) (fun u =>
      u = s)) ∧
  (∀ (s : State) (f : FieldId) (l : Nat) (x : AbsLine), s.svc f ≠ svcDark → (s.memu f).resident l = some x → Leaves (exec (.absorberWriteback f l) s) (fun u =>
      u = ((s.updMemu f (fun m => { m with absorber := m.absorber.filter (fun y => y.line ≠ l) })).ctrlWriteHalf f (2 * l) (x.data.take 64) x.poisonLo).ctrlWriteHalf f (2 * l + 1) (x.data.drop 64) x.poisonHi)) ∧
  (∀ (s : State) (f : FieldId) (l : Nat), (s.memu f).resident l = none → Leaves (exec (.absorberWriteback f l) s) (fun u =>
      u = s)) ∧
  (∀ (s : State) (f : FieldId) (n x : Nat), s.svc f ≠ svcDark → Leaves (exec (.atomicCacheExpiry f n x) s) (fun u =>
      (u.gw f).atomics = (s.gw f).atomics.filter (fun b => decide (b.src ≠ n) || decide (b.txn ≠ x)))) ∧
  (∀ (s : State) (f : FieldId) (a : Nat), s.svc f ≠ svcDark → Leaves (exec (.gwyRedRelease f a) s) (fun u =>
      u = (s.redOf f (a % 4096)).foldl (fun t R => (t.redFlush f R).redErase f R) s)) ∧
  (∀ (s : State) (f : FieldId), s.svc f ≠ svcDark → Leaves (exec (.putReduceResume f) s) (fun u =>
      u = ((s.gw f).rx.filter (fun e => e.2.held.any (fun x => decide (x.seq = e.2.exp)))).foldl (fun t e => match e.2.held.find? (fun x => decide (x.seq = e.2.exp)) with | some ⟨_, some p⟩ => t.drainFlow f p.src | _ => t) ((s.gw f).redWait.foldl (fun t p => t.takeOrdered f p) (s.updGw f (fun G => { G with redWait := [] })))))

/-- A sheaf packet of its kind for this field, waiting at the router or delivered now, of no halted allotment, well
formed and for the group of a slot (R379, R416, R467), is taken in. For the slot's collective in progress: DIGEST from
a member of the handshake set enters the handshake, which is decided (R455); PIECE from a sender of its chunk, not
held already, enters the scratch area and is receipted, one held already is receipted again (R457, R461); GATHER from
the member it comes from writes its blocks, is receipted and goes on below (R459); RECEIPT removes the part and CREDIT
returns one (R461); ABORT fails the collective with its status and names (R462). For no collective in progress: a
DIGEST or ABORT of a SEQ not yet reached is kept; a PIECE or GATHER of a completed SEQ counts in STALE and is
receipted again; any other counts in STALE; a DIGEST of a later epoch aborts the collective (R465). A part from the
wrong member or of the wrong size counts in PROTO_ERR. One that the engine does not take leaves no more than its
discard, and a DARK field takes none (R27). Each answers a next state. Derived, the model's choice: that a DARK field
takes no packet (assumption log entry 42), when an arrived packet is taken (2), what a stage-0 PIECE's class byte may
hold (41), and the free place of a piece in scratch (28). -/
def Obligations.SheafPacketsComplete : Prop :=
  (∀ (s : State) (f : FieldId) (p : Packet), s.svc f = svcDark → ∀ x ∈ ([.digest f p, .piece f p, .gather f p, .receipt f p, .credit f p, .abort f p] : List Instr), Leaves (exec x s) (fun u =>
      u = s)) ∧
  (∀ (s : State) (f : FieldId) (p : Packet), s.svc f ≠ svcDark → ∀ x ∈ ([(.digest f p, skDigest), (.piece f p, skPiece), (.gather f p, skGather), (.receipt f p, skReceipt), (.credit f p, skCredit), (.abort f p, skAbort)] : List (Instr × Nat)), (s.shfArrival f x.2 p).2 = none → Leaves (exec x.1 s) (fun u =>
      u = (s.shfArrival f x.2 p).1)) ∧
  (∀ (s : State) (f : FieldId) (p : Packet) (k : Nat) (x : ShfSlot) (c : ShfColl), s.svc f ≠ svcDark → p.cls = 1 → p.dst = s.node f → (s.shf f).stopped = false → (s.field f).router.inbox.contains p = true ∨ s.deliverOk f p = true → s.halted f = false ∨ p.allot ≠ s.allot f → shfKnown p = true → pktField p 24 1 = skDigest → shfWellFormed p = true → (s.shf f).slots.find? (fun e => decide (e.2.group = pktField p 16 2)) = some (k, x) → x.collOf p = some c → x.hset.contains p.src = true → Leaves (exec (.digest f p) s) (fun u =>
      u = ((s.shfArrival f skDigest p).1.updColl f k (fun c => c.takeDigest p.src (pktField p 32 8) (s.tallyOf f))).shfDecide f k)) ∧
  (∀ (s : State) (f : FieldId) (p : Packet) (k : Nat) (x : ShfSlot) (c : ShfColl), s.svc f ≠ svcDark → p.cls = 1 → p.dst = s.node f → (s.shf f).stopped = false → (s.field f).router.inbox.contains p = true ∨ s.deliverOk f p = true → s.halted f = false ∨ p.allot ≠ s.allot f → shfKnown p = true → pktField p 24 1 = skDigest → shfWellFormed p = true → (s.shf f).slots.find? (fun e => decide (e.2.group = pktField p 16 2)) = some (k, x) → x.collOf p = some c → x.hset.contains p.src = false → Leaves (exec (.digest f p) s) (fun u =>
      u = (s.shfArrival f skDigest p).1.fcount f Reg.SHF_STAT.STALE)) ∧
  (∀ (s : State) (f : FieldId) (p : Packet) (k : Nat) (x : ShfSlot), s.svc f ≠ svcDark → p.cls = 1 → p.dst = s.node f → (s.shf f).stopped = false → (s.field f).router.inbox.contains p = true ∨ s.deliverOk f p = true → s.halted f = false ∨ p.allot ≠ s.allot f → shfKnown p = true → pktField p 24 1 = skDigest → shfWellFormed p = true → (s.shf f).slots.find? (fun e => decide (e.2.group = pktField p 16 2)) = some (k, x) → pktField p 18 2 = x.epoch → x.collOf p = none → x.ahead p = true → x.hset.contains p.src = true → Leaves (exec (.digest f p) s) (fun u =>
      u = (s.shfArrival f skDigest p).1.updSlotShf f k (fun y => { y with early := y.early ++ [(pktField p 20 4, p.src, pktField p 32 8, s.tallyOf f)] }))) ∧
  (∀ (s : State) (f : FieldId) (p : Packet) (k : Nat) (x : ShfSlot), s.svc f ≠ svcDark → p.cls = 1 → p.dst = s.node f → (s.shf f).stopped = false → (s.field f).router.inbox.contains p = true ∨ s.deliverOk f p = true → s.halted f = false ∨ p.allot ≠ s.allot f → shfKnown p = true → pktField p 24 1 = skDigest → shfWellFormed p = true → (s.shf f).slots.find? (fun e => decide (e.2.group = pktField p 16 2)) = some (k, x) → pktField p 18 2 = x.epoch → x.collOf p = none → x.ahead p = false ∨ x.hset.contains p.src = false → Leaves (exec (.digest f p) s) (fun u =>
      u = (s.shfArrival f skDigest p).1.fcount f Reg.SHF_STAT.STALE)) ∧
  (∀ (s : State) (f : FieldId) (p : Packet) (k : Nat) (x : ShfSlot), s.svc f ≠ svcDark → p.cls = 1 → p.dst = s.node f → (s.shf f).stopped = false → (s.field f).router.inbox.contains p = true ∨ s.deliverOk f p = true → s.halted f = false ∨ p.allot ≠ s.allot f → shfKnown p = true → pktField p 24 1 = skDigest → shfWellFormed p = true → (s.shf f).slots.find? (fun e => decide (e.2.group = pktField p 16 2)) = some (k, x) → pktField p 18 2 ≠ x.epoch → (pktField p 18 2 + 0x10000 - x.epoch) % 0x10000 < 0x8000 → x.coll.isSome = true → Leaves (exec (.digest f p) s) (fun u =>
      u = ((s.shfArrival f skDigest p).1.shfFail f k St.ABORTED_EPOCH [] true).fcount f Reg.SHF_STAT.STALE)) ∧
  (∀ (s : State) (f : FieldId) (p : Packet) (k : Nat) (x : ShfSlot), s.svc f ≠ svcDark → p.cls = 1 → p.dst = s.node f → (s.shf f).stopped = false → (s.field f).router.inbox.contains p = true ∨ s.deliverOk f p = true → s.halted f = false ∨ p.allot ≠ s.allot f → shfKnown p = true → pktField p 24 1 = skDigest → shfWellFormed p = true → (s.shf f).slots.find? (fun e => decide (e.2.group = pktField p 16 2)) = some (k, x) → pktField p 18 2 ≠ x.epoch → 0x8000 ≤ (pktField p 18 2 + 0x10000 - x.epoch) % 0x10000 ∨ x.coll = none → Leaves (exec (.digest f p) s) (fun u =>
      u = (s.shfArrival f skDigest p).1.fcount f Reg.SHF_STAT.STALE)) ∧
  (∀ (s : State) (f : FieldId) (p : Packet) (k : Nat) (x : ShfSlot), s.svc f ≠ svcDark → p.cls = 1 → p.dst = s.node f → (s.shf f).stopped = false → (s.field f).router.inbox.contains p = true ∨ s.deliverOk f p = true → s.halted f = false ∨ p.allot ≠ s.allot f → shfKnown p = true → pktField p 24 1 = skPiece → shfWellFormed p = true → (s.shf f).slots.find? (fun e => decide (e.2.group = pktField p 16 2)) = some (k, x) → x.collOf p = none → pktField p 18 2 = x.epoch → seqBefore (pktField p 20 4) (x.next % 2 ^ 32) = true → Leaves (exec (.piece f p) s) (fun u =>
      u = ((s.shfArrival f skPiece p).1.fcount f Reg.SHF_STAT.STALE).shfReceipt f x p)) ∧
  (∀ (s : State) (f : FieldId) (p : Packet) (k : Nat) (x : ShfSlot), s.svc f ≠ svcDark → p.cls = 1 → p.dst = s.node f → (s.shf f).stopped = false → (s.field f).router.inbox.contains p = true ∨ s.deliverOk f p = true → s.halted f = false ∨ p.allot ≠ s.allot f → shfKnown p = true → pktField p 24 1 = skPiece → shfWellFormed p = true → (s.shf f).slots.find? (fun e => decide (e.2.group = pktField p 16 2)) = some (k, x) → x.collOf p = none → pktField p 18 2 ≠ x.epoch ∨ seqBefore (pktField p 20 4) (x.next % 2 ^ 32) = false → Leaves (exec (.piece f p) s) (fun u =>
      u = (s.shfArrival f skPiece p).1.fcount f Reg.SHF_STAT.STALE)) ∧
  (∀ (s : State) (f : FieldId) (p : Packet) (k : Nat) (x : ShfSlot), s.svc f ≠ svcDark → p.cls = 1 → p.dst = s.node f → (s.shf f).stopped = false → (s.field f).router.inbox.contains p = true ∨ s.deliverOk f p = true → s.halted f = false ∨ p.allot ≠ s.allot f → shfKnown p = true → pktField p 24 1 = skGather → shfWellFormed p = true → (s.shf f).slots.find? (fun e => decide (e.2.group = pktField p 16 2)) = some (k, x) → x.collOf p = none → pktField p 18 2 = x.epoch → seqBefore (pktField p 20 4) (x.next % 2 ^ 32) = true → Leaves (exec (.gather f p) s) (fun u =>
      u = ((s.shfArrival f skGather p).1.fcount f Reg.SHF_STAT.STALE).shfReceipt f x p)) ∧
  (∀ (s : State) (f : FieldId) (p : Packet) (k : Nat) (x : ShfSlot), s.svc f ≠ svcDark → p.cls = 1 → p.dst = s.node f → (s.shf f).stopped = false → (s.field f).router.inbox.contains p = true ∨ s.deliverOk f p = true → s.halted f = false ∨ p.allot ≠ s.allot f → shfKnown p = true → pktField p 24 1 = skGather → shfWellFormed p = true → (s.shf f).slots.find? (fun e => decide (e.2.group = pktField p 16 2)) = some (k, x) → x.collOf p = none → pktField p 18 2 ≠ x.epoch ∨ seqBefore (pktField p 20 4) (x.next % 2 ^ 32) = false → Leaves (exec (.gather f p) s) (fun u =>
      u = (s.shfArrival f skGather p).1.fcount f Reg.SHF_STAT.STALE)) ∧
  (∀ (s : State) (f : FieldId) (p : Packet) (k : Nat) (x : ShfSlot) (c : ShfColl), s.svc f ≠ svcDark → p.cls = 1 → p.dst = s.node f → (s.shf f).stopped = false → (s.field f).router.inbox.contains p = true ∨ s.deliverOk f p = true → s.halted f = false ∨ p.allot ≠ s.allot f → shfKnown p = true → pktField p 24 1 = skPiece → shfWellFormed p = true → (s.shf f).slots.find? (fun e => decide (e.2.group = pktField p 16 2)) = some (k, x) → x.collOf p = some c → (shfSenders x.members (pktField p 25 1) (pktField p 28 4) (s.node f)).contains p.src = false ∨ pieceOk c p = false → Leaves (exec (.piece f p) s) (fun u =>
      u = (s.shfArrival f skPiece p).1.fcount f Reg.SHF_STAT.PROTO_ERR)) ∧
  (∀ (s : State) (f : FieldId) (p : Packet) (k : Nat) (x : ShfSlot) (c : ShfColl), s.svc f ≠ svcDark → p.cls = 1 → p.dst = s.node f → (s.shf f).stopped = false → (s.field f).router.inbox.contains p = true ∨ s.deliverOk f p = true → s.halted f = false ∨ p.allot ≠ s.allot f → shfKnown p = true → pktField p 24 1 = skPiece → shfWellFormed p = true → (s.shf f).slots.find? (fun e => decide (e.2.group = pktField p 16 2)) = some (k, x) → x.collOf p = some c → (shfSenders x.members (pktField p 25 1) (pktField p 28 4) (s.node f)).contains p.src = true → pieceOk c p = true → (SMap.get c.folded false (pktField p 28 4 * 4 + pktField p 25 1) || c.pieces.any (fun q => decide (q.src = p.src) && decide (q.stage = pktField p 25 1) && decide (q.chunk = pktField p 28 4) && q.parts.any (fun e => decide (e.1 = pktField p 26 2)))) = true → Leaves (exec (.piece f p) s) (fun u =>
      u = ((s.shfArrival f skPiece p).1.shfTouch f k p.src).collReceipt f x c p)) ∧
  (∀ (s : State) (f : FieldId) (p : Packet) (k : Nat) (x : ShfSlot) (c : ShfColl), s.svc f ≠ svcDark → p.cls = 1 → p.dst = s.node f → (s.shf f).stopped = false → (s.field f).router.inbox.contains p = true ∨ s.deliverOk f p = true → s.halted f = false ∨ p.allot ≠ s.allot f → shfKnown p = true → pktField p 24 1 = skPiece → shfWellFormed p = true → (s.shf f).slots.find? (fun e => decide (e.2.group = pktField p 16 2)) = some (k, x) → x.collOf p = some c → (shfSenders x.members (pktField p 25 1) (pktField p 28 4) (s.node f)).contains p.src = true → pieceOk c p = true → (SMap.get c.folded false (pktField p 28 4 * 4 + pktField p 25 1) || c.pieces.any (fun q => decide (q.src = p.src) && decide (q.stage = pktField p 25 1) && decide (q.chunk = pktField p 28 4) && q.parts.any (fun e => decide (e.1 = pktField p 26 2)))) = false → Leaves (exec (.piece f p) s) (fun u =>
      u = ((((s.shfArrival f skPiece p).1.shfTouch f k p.src).updColl f k (fun c => { c with
        arrs := SMap.insert c.arrs (pktField p 25 1 * 8192 + p.src % 8192) (s.tallyOf f),
        pieces := if c.pieces.any (fun q => decide (q.src = p.src) && decide (q.stage = pktField p 25 1) && decide (q.chunk = pktField p 28 4)) then c.pieces.map (fun q => if decide (q.src = p.src) && decide (q.stage = pktField p 25 1) && decide (q.chunk = pktField p 28 4) then { q with parts := q.parts ++ [(pktField p 26 2, pktField p 39 1, decide (pktField p 25 1 ≠ 0) || decide (pktField p 38 1 ≠ 0), p.body.drop 32)] } else q)
          else c.pieces ++ [⟨p.src, pktField p 25 1, pktField p 28 4, [(pktField p 26 2, pktField p 39 1, decide (pktField p 25 1 ≠ 0) || decide (pktField p 38 1 ≠ 0), p.body.drop 32)]⟩] })).scratchWrite f x (p.body.drop 32)).collReceipt f x c p)) ∧
  (∀ (s : State) (f : FieldId) (p : Packet) (k : Nat) (x : ShfSlot) (c : ShfColl), s.svc f ≠ svcDark → p.cls = 1 → p.dst = s.node f → (s.shf f).stopped = false → (s.field f).router.inbox.contains p = true ∨ s.deliverOk f p = true → s.halted f = false ∨ p.allot ≠ s.allot f → shfKnown p = true → pktField p 24 1 = skGather → shfWellFormed p = true → (s.shf f).slots.find? (fun e => decide (e.2.group = pktField p 16 2)) = some (k, x) → x.collOf p = some c → shfTarget x.members (pktField p 25 1) (pktField p 28 4) (s.node f) ≠ some p.src ∨ pktField p 39 1 = 0 ∨ chunkBlocks c.count (pktField p 28 4) < pktField p 26 2 + pktField p 39 1 ∨ (p.body.drop 32).length ≠ min (32 * pktField p 39 1) (chunkSize c.count (pktField p 28 4) - 32 * pktField p 26 2) * shfSize c.outType → Leaves (exec (.gather f p) s) (fun u =>
      u = (s.shfArrival f skGather p).1.fcount f Reg.SHF_STAT.PROTO_ERR)) ∧
  (∀ (s : State) (f : FieldId) (p : Packet) (k : Nat) (x : ShfSlot) (c : ShfColl), s.svc f ≠ svcDark → p.cls = 1 → p.dst = s.node f → (s.shf f).stopped = false → (s.field f).router.inbox.contains p = true ∨ s.deliverOk f p = true → s.halted f = false ∨ p.allot ≠ s.allot f → shfKnown p = true → pktField p 24 1 = skGather → shfWellFormed p = true → (s.shf f).slots.find? (fun e => decide (e.2.group = pktField p 16 2)) = some (k, x) → x.collOf p = some c → ¬(shfTarget x.members (pktField p 25 1) (pktField p 28 4) (s.node f) ≠ some p.src ∨ pktField p 39 1 = 0 ∨ chunkBlocks c.count (pktField p 28 4) < pktField p 26 2 + pktField p 39 1 ∨ (p.body.drop 32).length ≠ min (32 * pktField p 39 1) (chunkSize c.count (pktField p 28 4) - 32 * pktField p 26 2) * shfSize c.outType) → SMap.get c.got false (pktField p 28 4 * 64 + pktField p 26 2) = true → Leaves (exec (.gather f p) s) (fun u =>
      u = ((s.shfArrival f skGather p).1.shfTouch f k p.src).collReceipt f x c p)) ∧
  (∀ (s : State) (f : FieldId) (p : Packet) (k : Nat) (x : ShfSlot) (c : ShfColl), s.svc f ≠ svcDark → p.cls = 1 → p.dst = s.node f → (s.shf f).stopped = false → (s.field f).router.inbox.contains p = true ∨ s.deliverOk f p = true → s.halted f = false ∨ p.allot ≠ s.allot f → shfKnown p = true → pktField p 24 1 = skGather → shfWellFormed p = true → (s.shf f).slots.find? (fun e => decide (e.2.group = pktField p 16 2)) = some (k, x) → x.collOf p = some c → ¬(shfTarget x.members (pktField p 25 1) (pktField p 28 4) (s.node f) ≠ some p.src ∨ pktField p 39 1 = 0 ∨ chunkBlocks c.count (pktField p 28 4) < pktField p 26 2 + pktField p 39 1 ∨ (p.body.drop 32).length ≠ min (32 * pktField p 39 1) (chunkSize c.count (pktField p 28 4) - 32 * pktField p 26 2) * shfSize c.outType) → SMap.get c.got false (pktField p 28 4 * 64 + pktField p 26 2) = false → c.silent = false → Leaves (exec (.gather f p) s) (fun u =>
      u = ((((((s.shfArrival f skGather p).1.shfTouch f k p.src).shfWrite f k c (pktField p 28 4) (pktField p 26 2) (p.body.drop 32) (pktField p 38 1)).updColl f k (fun c => { c with got := SMap.insert c.got (pktField p 28 4 * 64 + pktField p 26 2) true })).collReceipt f x c p).gatherDown f k x c.seq (pktField p 25 1) (pktField p 28 4) (pktField p 26 2) (pktField p 39 1) (pktField p 38 1) (p.body.drop 32)).shfFinish f k)) ∧
  (∀ (s : State) (f : FieldId) (p : Packet) (k : Nat) (x : ShfSlot) (c : ShfColl), s.svc f ≠ svcDark → p.cls = 1 → p.dst = s.node f → (s.shf f).stopped = false → (s.field f).router.inbox.contains p = true ∨ s.deliverOk f p = true → s.halted f = false ∨ p.allot ≠ s.allot f → shfKnown p = true → pktField p 24 1 = skGather → shfWellFormed p = true → (s.shf f).slots.find? (fun e => decide (e.2.group = pktField p 16 2)) = some (k, x) → x.collOf p = some c → ¬(shfTarget x.members (pktField p 25 1) (pktField p 28 4) (s.node f) ≠ some p.src ∨ pktField p 39 1 = 0 ∨ chunkBlocks c.count (pktField p 28 4) < pktField p 26 2 + pktField p 39 1 ∨ (p.body.drop 32).length ≠ min (32 * pktField p 39 1) (chunkSize c.count (pktField p 28 4) - 32 * pktField p 26 2) * shfSize c.outType) → SMap.get c.got false (pktField p 28 4 * 64 + pktField p 26 2) = false → c.silent = true → Leaves (exec (.gather f p) s) (fun u =>
      u = ((((s.shfArrival f skGather p).1.shfTouch f k p.src).shfWrite f k c (pktField p 28 4) (pktField p 26 2) (p.body.drop 32) (pktField p 38 1)).updColl f k (fun c => { c with got := SMap.insert c.got (pktField p 28 4 * 64 + pktField p 26 2) true })).shfFinish f k)) ∧
  (∀ (s : State) (f : FieldId) (p : Packet) (k : Nat) (x : ShfSlot) (c : ShfColl), s.svc f ≠ svcDark → p.cls = 1 → p.dst = s.node f → (s.shf f).stopped = false → (s.field f).router.inbox.contains p = true ∨ s.deliverOk f p = true → s.halted f = false ∨ p.allot ≠ s.allot f → shfKnown p = true → pktField p 24 1 = skReceipt → shfWellFormed p = true → (s.shf f).slots.find? (fun e => decide (e.2.group = pktField p 16 2)) = some (k, x) → x.collOf p = some c → Leaves (exec (.receipt f p) s) (fun u =>
      u = (((s.shfArrival f skReceipt p).1.shfTouch f k p.src).updColl f k (fun d => { d with out := d.out.filter (fun o => !(decide (o.dst = p.src) && decide (o.stage = pktField p 25 1) && decide (o.chunk = pktField p 28 4) && decide (o.part = pktField p 26 2))) })).shfFinish f k)) ∧
  (∀ (s : State) (f : FieldId) (p : Packet) (k : Nat) (x : ShfSlot), s.svc f ≠ svcDark → p.cls = 1 → p.dst = s.node f → (s.shf f).stopped = false → (s.field f).router.inbox.contains p = true ∨ s.deliverOk f p = true → s.halted f = false ∨ p.allot ≠ s.allot f → shfKnown p = true → pktField p 24 1 = skReceipt → shfWellFormed p = true → (s.shf f).slots.find? (fun e => decide (e.2.group = pktField p 16 2)) = some (k, x) → x.collOf p = none → Leaves (exec (.receipt f p) s) (fun u =>
      u = (s.shfArrival f skReceipt p).1.fcount f Reg.SHF_STAT.STALE)) ∧
  (∀ (s : State) (f : FieldId) (p : Packet) (k : Nat) (x : ShfSlot) (c : ShfColl), s.svc f ≠ svcDark → p.cls = 1 → p.dst = s.node f → (s.shf f).stopped = false → (s.field f).router.inbox.contains p = true ∨ s.deliverOk f p = true → s.halted f = false ∨ p.allot ≠ s.allot f → shfKnown p = true → pktField p 24 1 = skCredit → shfWellFormed p = true → (s.shf f).slots.find? (fun e => decide (e.2.group = pktField p 16 2)) = some (k, x) → x.collOf p = some c → Leaves (exec (.credit f p) s) (fun u =>
      u = ((s.shfArrival f skCredit p).1.shfTouch f k p.src).updColl f k (fun d => { d with spent := SMap.insert d.spent (p.src % 8192) (SMap.get d.spent 0 (p.src % 8192) - 1) }))) ∧
  (∀ (s : State) (f : FieldId) (p : Packet) (k : Nat) (x : ShfSlot), s.svc f ≠ svcDark → p.cls = 1 → p.dst = s.node f → (s.shf f).stopped = false → (s.field f).router.inbox.contains p = true ∨ s.deliverOk f p = true → s.halted f = false ∨ p.allot ≠ s.allot f → shfKnown p = true → pktField p 24 1 = skCredit → shfWellFormed p = true → (s.shf f).slots.find? (fun e => decide (e.2.group = pktField p 16 2)) = some (k, x) → x.collOf p = none → Leaves (exec (.credit f p) s) (fun u =>
      u = (s.shfArrival f skCredit p).1.fcount f Reg.SHF_STAT.STALE)) ∧
  (∀ (s : State) (f : FieldId) (p : Packet) (k : Nat) (x : ShfSlot) (c : ShfColl), s.svc f ≠ svcDark → p.cls = 1 → p.dst = s.node f → (s.shf f).stopped = false → (s.field f).router.inbox.contains p = true ∨ s.deliverOk f p = true → s.halted f = false ∨ p.allot ≠ s.allot f → shfKnown p = true → pktField p 24 1 = skAbort → shfWellFormed p = true → (s.shf f).slots.find? (fun e => decide (e.2.group = pktField p 16 2)) = some (k, x) → x.collOf p = some c → Leaves (exec (.abort f p) s) (fun u =>
      u = (s.shfArrival f skAbort p).1.shfFail f k (pktField p 32 2) (abortNames p) true)) ∧
  (∀ (s : State) (f : FieldId) (p : Packet) (k : Nat) (x : ShfSlot), s.svc f ≠ svcDark → p.cls = 1 → p.dst = s.node f → (s.shf f).stopped = false → (s.field f).router.inbox.contains p = true ∨ s.deliverOk f p = true → s.halted f = false ∨ p.allot ≠ s.allot f → shfKnown p = true → pktField p 24 1 = skAbort → shfWellFormed p = true → (s.shf f).slots.find? (fun e => decide (e.2.group = pktField p 16 2)) = some (k, x) → x.collOf p = none → x.ahead p = true → Leaves (exec (.abort f p) s) (fun u =>
      u = (s.shfArrival f skAbort p).1.updSlotShf f k (fun y => { y with aborts := y.aborts ++ [(pktField p 20 4, pktField p 32 2, abortNames p)] }))) ∧
  (∀ (s : State) (f : FieldId) (p : Packet) (k : Nat) (x : ShfSlot), s.svc f ≠ svcDark → p.cls = 1 → p.dst = s.node f → (s.shf f).stopped = false → (s.field f).router.inbox.contains p = true ∨ s.deliverOk f p = true → s.halted f = false ∨ p.allot ≠ s.allot f → shfKnown p = true → pktField p 24 1 = skAbort → shfWellFormed p = true → (s.shf f).slots.find? (fun e => decide (e.2.group = pktField p 16 2)) = some (k, x) → x.collOf p = none → x.ahead p = false → Leaves (exec (.abort f p) s) (fun u =>
      u = (s.shfArrival f skAbort p).1.fcount f Reg.SHF_STAT.STALE))

/-- REGISTER: a registration is under way (R447); REGISTRATION_COMPLETE checks its descriptor and installs its group, or
refuses it, NO_SLOT where the slot is taken. REFORM: a registered group of another epoch takes the slot's place, or is
refused (R465). RELEASE: the slot is free (R448). TAIL_WRITE and READY_LINE_WRITE: the line is read (R450, R452).
COLLECTIVE_START: the next descriptor is read and counted, and the collective starts or is recorded as refused (R453,
R455). PIECE_SEND and CHUNK_FOLD: the piece of the lowest chunk its stage has still to send is sent to its target within
the credits, a chunk all of whose pieces are there is folded (R457, R461). PART_RESEND: a part without a receipt is sent
again, three times at most, and counted. STAGE_TIMEOUT: the silent members are named, or the digests' mismatch found
(R462). Where the slot has nothing of the kind, and of a DARK field (R27), nothing changes. Each answers a next state.
Derived, the model's choice: that a DARK field takes no command (assumption log entry 42), and which commands say when
the engine's work happens (2). -/
def Obligations.SheafCommandsComplete : Prop :=
  (∀ (s : State) (f : FieldId) (k : Fin 64) (g : Fin 4) (a : Nat), s.svc f = svcDark → ∀ x ∈ ([.register f k a, .registrationComplete f k, .reform f k a, .release f k, .tailWrite f k, .readyLineWrite f k, .collectiveStart f k, .pieceSend f k g a, .chunkFold f k g a, .partResend f k a, .stageTimeout f k] : List Instr), Leaves (exec x s) (fun u =>
      u = s)) ∧
  (∀ (s : State) (f : FieldId) (k : Fin 64) (a : Nat), s.svc f ≠ svcDark → Leaves (exec (.register f k a) s) (fun u =>
      (u.shf f).regs = (s.shf f).regs ++ [(k.val, a)])) ∧
  (∀ (s : State) (f : FieldId) (k : Fin 64) (e : Nat × Nat), s.svc f ≠ svcDark → (s.shf f).regs.find? (fun e => decide (e.1 = k.val)) = some e → (s.shfSlot f k).isSome = true → Leaves (exec (.registrationComplete f k) s) (fun u =>
      u = (s.updShf f (fun U => { U with regs := U.regs.erase e })).shfRefuse f k St.NO_SLOT)) ∧
  (∀ (s : State) (f : FieldId) (k : Fin 64) (e : Nat × Nat) (x : ShfSlot), s.svc f ≠ svcDark → (s.shf f).regs.find? (fun e => decide (e.1 = k.val)) = some e → s.shfSlot f k = none → ((s.updShf f (fun U => { U with regs := U.regs.erase e })).shfCheck f k e.2).2 = some x → Leaves (exec (.registrationComplete f k) s) (fun u =>
      u = ((s.updShf f (fun U => { U with regs := U.regs.erase e })).shfCheck f k e.2).1.shfInstall f k x)) ∧
  (∀ (s : State) (f : FieldId) (k : Fin 64) (e : Nat × Nat), s.svc f ≠ svcDark → (s.shf f).regs.find? (fun e => decide (e.1 = k.val)) = some e → s.shfSlot f k = none → ((s.updShf f (fun U => { U with regs := U.regs.erase e })).shfCheck f k e.2).2 = none → Leaves (exec (.registrationComplete f k) s) (fun u =>
      u = ((s.updShf f (fun U => { U with regs := U.regs.erase e })).shfCheck f k e.2).1.shfRefuse f k St.GROUP_INVALID)) ∧
  (∀ (s : State) (f : FieldId) (k : Fin 64), (s.shf f).regs.find? (fun e => decide (e.1 = k.val)) = none → Leaves (exec (.registrationComplete f k) s) (fun u =>
      u = s)) ∧
  (∀ (s : State) (f : FieldId) (k : Fin 64) (a : Nat) (x y : ShfSlot), s.svc f ≠ svcDark → s.shfSlot f k = some y → (s.shfCheck f k a).2 = some x → x.group = y.group → x.epoch ≠ y.epoch → Leaves (exec (.reform f k a) s) (fun u =>
      u = ((s.shfCheck f k a).1.shfFail f k St.ABORTED_EPOCH [] true).shfInstall f k x)) ∧
  (∀ (s : State) (f : FieldId) (k : Fin 64) (a : Nat) (x y : ShfSlot), s.svc f ≠ svcDark → s.shfSlot f k = some y → (s.shfCheck f k a).2 = some x → x.group ≠ y.group ∨ x.epoch = y.epoch → Leaves (exec (.reform f k a) s) (fun u =>
      u = (s.shfCheck f k a).1.shfRefuse f k St.GROUP_INVALID)) ∧
  (∀ (s : State) (f : FieldId) (k : Fin 64) (a : Nat) (y : ShfSlot), s.svc f ≠ svcDark → s.shfSlot f k = some y → (s.shfCheck f k a).2 = none → Leaves (exec (.reform f k a) s) (fun u =>
      u = (s.shfCheck f k a).1.shfRefuse f k St.GROUP_INVALID)) ∧
  (∀ (s : State) (f : FieldId) (k : Fin 64) (a : Nat), s.svc f ≠ svcDark → s.shfSlot f k = none → Leaves (exec (.reform f k a) s) (fun u =>
      u = s.shfRefuse f k St.GROUP_INVALID)) ∧
  (∀ (s : State) (f : FieldId) (k : Fin 64), s.svc f ≠ svcDark → Leaves (exec (.release f k) s) (fun u =>
      u.freg f Reg.SHF_GROUP_STATUS.STATE k = 0 ∧
      u.freg f Reg.SHF_GROUP_STATUS.DONE_SEQ k = 0xFFFFFFFF ∧
      u.freg f Reg.SHF_GROUP_STATUS.RESULT k = St.OK ∧
      u.shfSlot f k = none)) ∧
  (∀ (s : State) (f : FieldId) (k : Fin 64) (x : ShfSlot), s.svc f ≠ svcDark → s.shfSlot f k = some x → Leaves (exec (.tailWrite f k) s) (fun u =>
      u = (s.hbmRead f x.tailAddr 8 srcSheaf).1.updSlotShf f k (fun y => { y with tail := leNat (s.hbmRead f x.tailAddr 8 srcSheaf).2.1 }))) ∧
  (∀ (s : State) (f : FieldId) (k : Fin 64) (x : ShfSlot) (c : ShfColl), s.svc f ≠ svcDark → s.shfSlot f k = some x → x.coll = some c → c.fld 40 8 ≠ 0 → inHbm (c.fld 40 8) 8 = true → Leaves (exec (.readyLineWrite f k) s) (fun u =>
      u = (s.hbmRead f (c.fld 40 8) 8 srcSheaf).1.updColl f k (fun d => { d with ready := leNat (s.hbmRead f (c.fld 40 8) 8 srcSheaf).2.1 }))) ∧
  (∀ (s : State) (f : FieldId) (k : Fin 64) (x : ShfSlot) (c : ShfColl), s.shfSlot f k = some x → x.coll = some c → c.fld 40 8 = 0 ∨ inHbm (c.fld 40 8) 8 = false → Leaves (exec (.readyLineWrite f k) s) (fun u =>
      u = s)) ∧
  (∀ (s : State) (f : FieldId) (k : Fin 64), s.shfSlot f k = none → Leaves (exec (.tailWrite f k) s) (fun u =>
      u = s)) ∧
  (∀ (s : State) (f : FieldId) (k : Fin 64), (s.shfSlot f k).bind (fun x => x.coll) = none → Leaves (exec (.readyLineWrite f k) s) (fun u =>
      u = s)) ∧
  (∀ (s : State) (f : FieldId) (k : Fin 64) (x : ShfSlot), s.svc f ≠ svcDark → s.shfSlot f k = some x → x.coll = none → x.next < x.tail → (s.shf f).stopped = false → s.shfRefusal f x (s.hbmRead f (x.ring + x.next % 2 ^ x.ringLog * 64) 64 srcSheaf).2.1 = St.OK → Leaves (exec (.collectiveStart f k) s) (fun u =>
      u = (((s.hbmRead f (x.ring + x.next % 2 ^ x.ringLog * 64) 64 srcSheaf).1.updSlotShf f k (fun y => { y with next := y.next + 1 })).fset f Reg.SHF_GROUP_STATUS.NEXT_SEQ ((x.next + 1) % 2 ^ 32) k).shfStart f k x (s.hbmRead f (x.ring + x.next % 2 ^ x.ringLog * 64) 64 srcSheaf).2.1 (x.next % 2 ^ 32))) ∧
  (∀ (s : State) (f : FieldId) (k : Fin 64) (x : ShfSlot), s.svc f ≠ svcDark → s.shfSlot f k = some x → x.coll = none → x.next < x.tail → (s.shf f).stopped = false → s.shfRefusal f x (s.hbmRead f (x.ring + x.next % 2 ^ x.ringLog * 64) 64 srcSheaf).2.1 ≠ St.OK → Leaves (exec (.collectiveStart f k) s) (fun u =>
      u = (((s.hbmRead f (x.ring + x.next % 2 ^ x.ringLog * 64) 64 srcSheaf).1.updSlotShf f k (fun y => { y with next := y.next + 1 })).fset f Reg.SHF_GROUP_STATUS.NEXT_SEQ ((x.next + 1) % 2 ^ 32) k).shfRecord f k (s.hbmRead f (x.ring + x.next % 2 ^ x.ringLog * 64) 64 srcSheaf).2.1 (x.next % 2 ^ 32) (s.shfRefusal f x (s.hbmRead f (x.ring + x.next % 2 ^ x.ringLog * 64) 64 srcSheaf).2.1) (s.tallyOf f) 0 [])) ∧
  (∀ (s : State) (f : FieldId) (k : Fin 64) (x : ShfSlot), s.shfSlot f k = some x → x.coll.isSome = true ∨ x.tail ≤ x.next ∨ (s.shf f).stopped = true → Leaves (exec (.collectiveStart f k) s) (fun u =>
      u = s)) ∧
  (∀ (s : State) (f : FieldId) (k : Fin 64) (x : ShfSlot) (c : ShfColl) (g : Fin 4) (n ch : Nat), s.svc f ≠ svcDark → s.shfSlot f k = some x → x.coll = some c → c.matched = true → c.silent = false → (s.shf f).stopped = false → SMap.get c.spent 0 (n % 8192) < x.credits → nextToSend x.members (s.node f) g (SMap.get c.ptr 0 g) (chunkCount c.count) = some ch → shfTarget x.members g ch (s.node f) = some n → Leaves (exec (.pieceSend f k g n) s) (fun u =>
      u = s.pieceSend f k g n x c ch)) ∧
  (∀ (s : State) (f : FieldId) (k : Fin 64) (x : ShfSlot) (c : ShfColl) (g : Fin 4) (n : Nat), s.shfSlot f k = some x → x.coll = some c → c.matched = false ∨ c.silent = true ∨ (s.shf f).stopped = true ∨ x.credits ≤ SMap.get c.spent 0 (n % 8192) ∨ (nextToSend x.members (s.node f) g (SMap.get c.ptr 0 g) (chunkCount c.count)).all (fun ch => decide (shfTarget x.members g ch (s.node f) ≠ some n)) = true → Leaves (exec (.pieceSend f k g n) s) (fun u =>
      u = s)) ∧
  (∀ (s : State) (f : FieldId) (k : Fin 64) (x : ShfSlot) (c : ShfColl) (g : Fin 4) (ch : Nat), s.svc f ≠ svcDark → s.shfSlot f k = some x → x.coll = some c → (c.matched && !(s.shf f).stopped && decide (ch < chunkCount c.count) && decide (shfCarrier x.members g ch (s.node f) = s.node f) && !SMap.get c.folded false (ch * 4 + g) && (shfSenders x.members g ch (s.node f)).all (c.pieceFull g ch) && (if g.val = 0 then c.chunkReady ch else (c.results.find? (fun r => decide (r.stage + 1 = g.val) && decide (r.chunk = ch))).isSome)) = true → Leaves (exec (.chunkFold f k g ch) s) (fun u =>
      u = s.chunkFold f k g ch x c (shfSenders x.members g ch (s.node f)) (c.results.find? (fun r => decide (r.stage + 1 = g.val) && decide (r.chunk = ch))))) ∧
  (∀ (s : State) (f : FieldId) (k : Fin 64) (x : ShfSlot) (c : ShfColl) (g : Fin 4) (ch : Nat), s.shfSlot f k = some x → x.coll = some c → (c.matched && !(s.shf f).stopped && decide (ch < chunkCount c.count) && decide (shfCarrier x.members g ch (s.node f) = s.node f) && !SMap.get c.folded false (ch * 4 + g) && (shfSenders x.members g ch (s.node f)).all (c.pieceFull g ch) && (if g.val = 0 then c.chunkReady ch else (c.results.find? (fun r => decide (r.stage + 1 = g.val) && decide (r.chunk = ch))).isSome)) = false → Leaves (exec (.chunkFold f k g ch) s) (fun u =>
      u = s)) ∧
  (∀ (s : State) (f : FieldId) (k : Fin 64) (x : ShfSlot) (c : ShfColl) (i : Nat) (o : ShfOut), s.svc f ≠ svcDark → s.shfSlot f k = some x → x.coll = some c → c.out[i]? = some o → o.tries < 3 → (s.shf f).stopped = false → Leaves (exec (.partResend f k i) s) (fun u =>
      u = ((s.updColl f k (fun c => { c with out := c.out.set i { o with tries := o.tries + 1 } })).fwrap f Reg.SHF_STAT.RETX).sendPart f x c.seq o)) ∧
  (∀ (s : State) (f : FieldId) (k : Fin 64) (x : ShfSlot) (c : ShfColl) (i : Nat), s.shfSlot f k = some x → x.coll = some c → (c.out[i]?).all (fun o => decide (3 ≤ o.tries) || (s.shf f).stopped) = true → Leaves (exec (.partResend f k i) s) (fun u =>
      u = s)) ∧
  (∀ (s : State) (f : FieldId) (k : Fin 64) (x : ShfSlot) (c : ShfColl), s.svc f ≠ svcDark → s.shfSlot f k = some x → x.coll = some c → c.silent = false → (s.shf f).stopped = false → x.hset.filter (fun n => decide (max c.tIssue (SMap.get c.last 0 (n % 8192)) + x.timeout ≤ s.tallyOf f) && c.awaits x.members (s.node f) n) ≠ [] → c.digests.any (fun e => decide (e.2 ≠ c.digest)) = false → Leaves (exec (.stageTimeout f k) s) (fun u =>
      u = s.shfFail f k St.MEMBER_SILENT (x.hset.filter (fun n => decide (max c.tIssue (SMap.get c.last 0 (n % 8192)) + x.timeout ≤ s.tallyOf f) && c.awaits x.members (s.node f) n)) true)) ∧
  (∀ (s : State) (f : FieldId) (k : Fin 64) (x : ShfSlot) (c : ShfColl), s.svc f ≠ svcDark → s.shfSlot f k = some x → x.coll = some c → c.silent = false → (s.shf f).stopped = false → x.hset.filter (fun n => decide (max c.tIssue (SMap.get c.last 0 (n % 8192)) + x.timeout ≤ s.tallyOf f) && c.awaits x.members (s.node f) n) ≠ [] → c.digests.any (fun e => decide (e.2 ≠ c.digest)) = true → Leaves (exec (.stageTimeout f k) s) (fun u =>
      u = s.shfMismatch f k c)) ∧
  (∀ (s : State) (f : FieldId) (k : Fin 64) (x : ShfSlot) (c : ShfColl), s.shfSlot f k = some x → x.coll = some c → x.hset.filter (fun n => decide (max c.tIssue (SMap.get c.last 0 (n % 8192)) + x.timeout ≤ s.tallyOf f) && c.awaits x.members (s.node f) n) = [] ∨ (s.shf f).stopped = true ∨ c.silent = true → Leaves (exec (.stageTimeout f k) s) (fun u =>
      u = s)) ∧
  (∀ (s : State) (f : FieldId) (k : Fin 64) (g : Fin 4) (a : Nat), (s.shfSlot f k).bind (fun x => x.coll) = none → ∀ x ∈ ([.pieceSend f k g a, .chunkFold f k g a, .partResend f k a, .stageTimeout f k] : List Instr), Leaves (exec x s) (fun u =>
      u = s)) ∧
  (∀ (s : State) (f : FieldId) (k : Fin 64), s.shfSlot f k = none → Leaves (exec (.collectiveStart f k) s) (fun u =>
      u = s))

/-- From every state, reached or not, in which every line of every absorber has its 128 bytes on a stack that responds,
no write is held back for a lost stack, and no list is longer than its unit has places, every step leaves such a state:
the absorber's 2,048 lines, the 256 rows of the row-error table, 16 management reads, 4,096 atomic answers, 1,024 places
of the age queue, and of each plot 32 queue entries, 64 completions and 16 samples. -/
def Obligations.LinesStayWhole : Prop :=
  ∀ (s t : State), step s = .next t → s.Bounded → t.Bounded

/-- Whatever the command at the front: a field that is DARK is DARK after a step, and one that is UNFIT is UNFIT or DARK,
unless the step counts a reset of the package; so does each cold and warm reset, and a partition reset, or its end, does
not (R29). Derived: the count of resets is the model's own (assumption log entry 44). -/
def Obligations.OnlyResetsLeaveDarkOrUnfit : Prop :=
  (∀ (s t : State) (f : FieldId), step s = .next t → s.svc f = svcDark → t.svc f = svcDark ∨ s.hub.seed.resets < t.hub.seed.resets) ∧
  (∀ (s t : State) (f : FieldId), step s = .next t → s.svc f = svcUnfit → t.svc f = svcUnfit ∨ t.svc f = svcDark ∨ s.hub.seed.resets < t.hub.seed.resets) ∧
  (∀ (s : State) (po : Bool) (st : Fin 16) (vbat : Vbat), Leaves (exec (.coldReset po st vbat) s) (fun u =>
      u.hub.seed.resets = s.hub.seed.resets + 1)) ∧
  (∀ (s : State) (i3c : Bool), Leaves (exec (.warmReset i3c) s) (fun u =>
      u.hub.seed.resets = s.hub.seed.resets + 1)) ∧
  (∀ (s : State) (f : FieldId) (m : Nat), ∀ x ∈ ([.partitionReset f, .partitionResetDone f m] : List Instr), Leaves (exec x s) (fun u =>
      u.hub.seed.resets = s.hub.seed.resets))

/-- GRANULE_TAKE of a granule of RES, or of CUR once RES is empty and its mark sent, with a partner that answers and
no halt: it leaves its plane, and its lines, where a region covers it, go to the partners (R245, R492, R416).
MIR_MARK_SEND with RES empty and a mark awaited: each partner is sent it and COMMIT_DUE is 0. MIR_MARK, MIR_LAYOUT,
MIR_PULL and MIR_DONE acted on enter their flow, and at their turn in an open flow do what they say (R409, R491).
MIR_PUSH pushes the next granule, stops where the point STALL says, and after the last ends (R507).
MIR_PARTNER_TIMEOUT of a partner with a line unanswered: it is lost and STATE is NO_PARTNER; MIR_LAYOUT_RETRY to a
lost partner sends the layout (R497). MIR_LOAD_START while none runs: LOADING and a pull goes to the first partner;
MIR_LOAD_ABORT ends it FAILED; MIR_LOAD_TIMEOUT goes to the second partner or ends it (R509, R510). Where there is
nothing to act on, and of a DARK field (R27), nothing changes. HEALTH_WINDOW_CLOSE, where the tally has crossed a
window's end: every field whose window is over closes it, one in service and not hub-lost with its score, and the
package is scored (R475, R478). HARD_EVENT: the oldest hard event of a field leaves its list, SCORE loses 400 where it
is of kind 0, and HARD and EXPEL are set (R479). EXPEL_CLEAR: EXPEL, RUN and HARD are 0 (R480). With no window over,
no hard event, or a DARK field to clear (R27), nothing changes. Each answers a next state. Derived, the model's
choice: which commands say when copies, pushes and loads go on, windows close and hard events are handled (assumption
log entry 2), that a DARK field takes none of them (42), the deferred queue and its reservations (33, 44), and the
places of a journal's header (29). -/
def Obligations.HealthAndMirrorCommandsComplete : Prop :=
  (∀ (s : State) (f : FieldId) (p : Packet) (n : Fin 2) (a : Nat), s.svc f = svcDark → ∀ x ∈ ([.granuleTake f a, .mirMarkSend f, .mirMark f p, .mirLayout f p, .mirPull f p, .mirDone f p, .mirPush f n, .mirPartnerTimeout f n, .mirLayoutRetry f n, .mirLoadStart f, .mirLoadAbort f, .mirLoadTimeout f] : List Instr), Leaves (exec x s) (fun u =>
      u = s)) ∧
  (∀ (s : State) (f : FieldId) (g : Nat), s.svc f ≠ svcDark → (s.mir f).src.on = true → s.halted f = false → s.mirLive f ≠ [] → (SMap.get (s.memu f).res false g = true ∨ ((s.memu f).res.isEmpty = true ∧ (s.mir f).src.commit = false ∧ SMap.get (s.memu f).cur false g = true)) → copyIndex (s.memu f).regions g = none → Leaves (exec (.granuleTake f g) s) (fun u =>
      u = (s.planeClear f (SMap.get (s.memu f).res false g) g))) ∧
  (∀ (s : State) (f : FieldId) (g k : Nat), s.svc f ≠ svcDark → (s.mir f).src.on = true → s.halted f = false → s.mirLive f ≠ [] → (SMap.get (s.memu f).res false g = true ∨ ((s.memu f).res.isEmpty = true ∧ (s.mir f).src.commit = false ∧ SMap.get (s.memu f).cur false g = true)) → copyIndex (s.memu f).regions g = some k → Leaves (exec (.granuleTake f g) s) (fun u =>
      u = (List.range granLines).foldl (fun t i => t.takeLine f g k i) (s.planeClear f (SMap.get (s.memu f).res false g) g))) ∧
  (∀ (s : State) (f : FieldId) (g : Nat), (s.mir f).src.on = false ∨ s.halted f = true ∨ s.mirLive f = [] ∨ ¬(SMap.get (s.memu f).res false g = true ∨ ((s.memu f).res.isEmpty = true ∧ (s.mir f).src.commit = false ∧ SMap.get (s.memu f).cur false g = true)) → Leaves (exec (.granuleTake f g) s) (fun u =>
      u = s)) ∧
  (∀ (s : State) (f : FieldId), s.svc f ≠ svcDark → (s.mir f).src.on = true → (s.mir f).src.commit = true → (s.memu f).res.isEmpty = true → s.halted f = false → Leaves (exec (.mirMarkSend f) s) (fun u =>
      u = ((((s.mirLive f).foldl (fun t n => t.mirMarkSend f n (s.freg f Reg.MIR_SRC_STATUS.EPOCH)) s).updMirSrc f (fun m => { m with commit := false })).fset f Reg.RTE_VC_CTL.COMMIT_DUE 0) ∧
      u.freg f Reg.RTE_VC_CTL.COMMIT_DUE = 0)) ∧
  (∀ (s : State) (f : FieldId), (s.mir f).src.on = false ∨ (s.mir f).src.commit = false ∨ (s.memu f).res.isEmpty = false ∨ s.halted f = true → Leaves (exec (.mirMarkSend f) s) (fun u =>
      u = s)) ∧
  (∀ (s : State) (f : FieldId) (p : Packet), s.svc f ≠ svcDark → ∀ x ∈ ([(.mirMark f p, kMirMark), (.mirLayout f p, kMirLayout), (.mirPull f p, kMirPull), (.mirDone f p, kMirDone)] : List (Instr × Nat)), (s.arrival f x.2 p).2 = false → Leaves (exec x.1 s) (fun u =>
      u = (s.arrival f x.2 p).1)) ∧
  (∀ (s : State) (f : FieldId) (p : Packet), s.svc f ≠ svcDark → (rhOf p).kind = kMirMark → pktRemote p = true → rhWellFormed p = true → p.dst = s.node f → (s.field f).router.inbox.contains p = true ∨ s.deliverOk f p = true → s.halted f = false ∨ p.allot ≠ s.allot f → Leaves (exec (.mirMark f p) s) (fun u =>
      u = (((s.arrival f kMirMark p).1).orderedArrive f p).mirSettle f)) ∧
  (∀ (s : State) (f : FieldId) (p : Packet), s.svc f ≠ svcDark → (rhOf p).kind = kMirMark → pktRemote p = true → rhWellFormed p = true → p.dst = s.node f → (s.field f).router.inbox.contains p = true ∨ s.deliverOk f p = true → s.halted f = false ∨ p.allot ≠ s.allot f → s.injArmed f injGwy 2 = false → (s.flowRx f p.src).valid = true → (s.flowRx f p.src).fepoch = (rhOf p).fepoch → (s.flowRx f p.src).exp = (rhOf p).seq → (s.flowRx f p.src).held.any (fun x => decide (x.seq = (rhOf p).seq)) = false → (s.gw f).redWait.any (fun q => decide (q.src = p.src) && decide ((rhOf q).seq = (rhOf p).seq)) = false → Leaves (exec (.mirMark f p) s) (fun u =>
      u = (((((((s.arrival f kMirMark p).1.updGw f (fun G => { G with queue := G.queue.map (fun x => if x.src = p.src then { x with told := false } else x) })).mirMarkApply f p.src (rhOf p).operand).1).queueServed f p.src (rhOf p).seq).lineApplied f p.src p (((s.arrival f kMirMark p).1.updGw f (fun G => { G with queue := G.queue.map (fun x => if x.src = p.src then { x with told := false } else x) })).mirMarkApply f p.src (rhOf p).operand).2).drainFlow f p.src).mirSettle f)) ∧
  (∀ (s : State) (f : FieldId) (p : Packet), s.svc f ≠ svcDark → (rhOf p).kind = kMirLayout → pktRemote p = true → rhWellFormed p = true → p.dst = s.node f → (s.field f).router.inbox.contains p = true ∨ s.deliverOk f p = true → s.halted f = false ∨ p.allot ≠ s.allot f → Leaves (exec (.mirLayout f p) s) (fun u =>
      u = (((s.arrival f kMirLayout p).1).orderedArrive f p).mirSettle f)) ∧
  (∀ (s : State) (f : FieldId) (p : Packet), s.svc f ≠ svcDark → (rhOf p).kind = kMirLayout → pktRemote p = true → rhWellFormed p = true → p.dst = s.node f → (s.field f).router.inbox.contains p = true ∨ s.deliverOk f p = true → s.halted f = false ∨ p.allot ≠ s.allot f → s.injArmed f injGwy 2 = false → (s.flowRx f p.src).valid = true → (s.flowRx f p.src).fepoch = (rhOf p).fepoch → (s.flowRx f p.src).exp = (rhOf p).seq → (s.flowRx f p.src).held.any (fun x => decide (x.seq = (rhOf p).seq)) = false → (s.gw f).redWait.any (fun q => decide (q.src = p.src) && decide ((rhOf q).seq = (rhOf p).seq)) = false → Leaves (exec (.mirLayout f p) s) (fun u =>
      u = (((((((s.arrival f kMirLayout p).1.updGw f (fun G => { G with queue := G.queue.map (fun x => if x.src = p.src then { x with told := false } else x) })).mirLayoutApply f p.src (rhOf p).operand (rhPayload p)).1).queueServed f p.src (rhOf p).seq).lineApplied f p.src p (((s.arrival f kMirLayout p).1.updGw f (fun G => { G with queue := G.queue.map (fun x => if x.src = p.src then { x with told := false } else x) })).mirLayoutApply f p.src (rhOf p).operand (rhPayload p)).2).drainFlow f p.src).mirSettle f)) ∧
  (∀ (s : State) (f : FieldId) (p : Packet), s.svc f ≠ svcDark → (rhOf p).kind = kMirPull → pktRemote p = true → rhWellFormed p = true → p.dst = s.node f → (s.field f).router.inbox.contains p = true ∨ s.deliverOk f p = true → s.halted f = false ∨ p.allot ≠ s.allot f → Leaves (exec (.mirPull f p) s) (fun u =>
      u = (((s.arrival f kMirPull p).1).orderedArrive f p).mirSettle f)) ∧
  (∀ (s : State) (f : FieldId) (p : Packet), s.svc f ≠ svcDark → (rhOf p).kind = kMirPull → pktRemote p = true → rhWellFormed p = true → p.dst = s.node f → (s.field f).router.inbox.contains p = true ∨ s.deliverOk f p = true → s.halted f = false ∨ p.allot ≠ s.allot f → s.injArmed f injGwy 2 = false → (s.flowRx f p.src).valid = true → (s.flowRx f p.src).fepoch = (rhOf p).fepoch → (s.flowRx f p.src).exp = (rhOf p).seq → (s.flowRx f p.src).held.any (fun x => decide (x.seq = (rhOf p).seq)) = false → (s.gw f).redWait.any (fun q => decide (q.src = p.src) && decide ((rhOf q).seq = (rhOf p).seq)) = false → Leaves (exec (.mirPull f p) s) (fun u =>
      u = (((((((s.arrival f kMirPull p).1.updGw f (fun G => { G with queue := G.queue.map (fun x => if x.src = p.src then { x with told := false } else x) })).mirPullApply f p.src (rhOf p).operand).1).queueServed f p.src (rhOf p).seq).lineApplied f p.src p (((s.arrival f kMirPull p).1.updGw f (fun G => { G with queue := G.queue.map (fun x => if x.src = p.src then { x with told := false } else x) })).mirPullApply f p.src (rhOf p).operand).2).drainFlow f p.src).mirSettle f)) ∧
  (∀ (s : State) (f : FieldId) (p : Packet), s.svc f ≠ svcDark → (rhOf p).kind = kMirDone → pktRemote p = true → rhWellFormed p = true → p.dst = s.node f → (s.field f).router.inbox.contains p = true ∨ s.deliverOk f p = true → s.halted f = false ∨ p.allot ≠ s.allot f → Leaves (exec (.mirDone f p) s) (fun u =>
      u = (((s.arrival f kMirDone p).1).orderedArrive f p).mirSettle f)) ∧
  (∀ (s : State) (f : FieldId) (p : Packet), s.svc f ≠ svcDark → (rhOf p).kind = kMirDone → pktRemote p = true → rhWellFormed p = true → p.dst = s.node f → (s.field f).router.inbox.contains p = true ∨ s.deliverOk f p = true → s.halted f = false ∨ p.allot ≠ s.allot f → s.injArmed f injGwy 2 = false → (s.flowRx f p.src).valid = true → (s.flowRx f p.src).fepoch = (rhOf p).fepoch → (s.flowRx f p.src).exp = (rhOf p).seq → (s.flowRx f p.src).held.any (fun x => decide (x.seq = (rhOf p).seq)) = false → (s.gw f).redWait.any (fun q => decide (q.src = p.src) && decide ((rhOf q).seq = (rhOf p).seq)) = false → Leaves (exec (.mirDone f p) s) (fun u =>
      u = (((((((s.arrival f kMirDone p).1.updGw f (fun G => { G with queue := G.queue.map (fun x => if x.src = p.src then { x with told := false } else x) })).mirDoneApply f p.src (rhOf p).operand).1).queueServed f p.src (rhOf p).seq).lineApplied f p.src p (((s.arrival f kMirDone p).1.updGw f (fun G => { G with queue := G.queue.map (fun x => if x.src = p.src then { x with told := false } else x) })).mirDoneApply f p.src (rhOf p).operand).2).drainFlow f p.src).mirSettle f)) ∧
  (∀ (s : State) (f : FieldId) (n : Fin 2) (x : MirPush) (g : Nat), s.svc f ≠ svcDark → (s.mirSlot f n).push = some x → s.injArmedAt f injMir 2 n = false → x.stall.any (fun k => decide (k ≤ x.next)) = false → copyGranule (s.mirSlot f n).layout x.next = some g → Leaves (exec (.mirPush f n) s) (fun u =>
      u = (((List.range granLines).foldl (fun t i => t.pushLine f n x.next g x.dst i) (s.updSlot f n (fun z => { z with push := some x }))).updSlot f n (fun z => { z with push := some { x with next := x.next + 1 } })).mirSettle f)) ∧
  (∀ (s : State) (f : FieldId) (n : Fin 2) (x : MirPush), s.svc f ≠ svcDark → (s.mirSlot f n).push = some x → s.injArmedAt f injMir 2 n = false → x.stall.any (fun k => decide (k ≤ x.next)) = false → copyGranule (s.mirSlot f n).layout x.next = none → Leaves (exec (.mirPush f n) s) (fun u =>
      u = ((s.updSlot f n (fun z => { z with push := some x })).pushDone f n x).mirSettle f)) ∧
  (∀ (s : State) (f : FieldId) (n : Fin 2) (x : MirPush), s.svc f ≠ svcDark → (s.mirSlot f n).push = some x → s.injArmedAt f injMir 2 n = false → x.stall.any (fun k => decide (k ≤ x.next)) = true → Leaves (exec (.mirPush f n) s) (fun u =>
      u = (s.updSlot f n (fun z => { z with push := some x })))) ∧
  (∀ (s : State) (f : FieldId) (n : Fin 2) (x : MirPush), s.svc f ≠ svcDark → (s.mirSlot f n).push = some x → s.injArmedAt f injMir 2 n = true → s.injArg f injMir ≤ x.next → Leaves (exec (.mirPush f n) s) (fun u =>
      u = ((s.injFire f injMir).updSlot f n (fun z => { z with push := some { x with stall := some (s.injArg f injMir) } })))) ∧
  (∀ (s : State) (f : FieldId) (n : Fin 2) (x : MirPush) (g : Nat), s.svc f ≠ svcDark → (s.mirSlot f n).push = some x → s.injArmedAt f injMir 2 n = true → x.next < s.injArg f injMir → copyGranule (s.mirSlot f n).layout x.next = some g → Leaves (exec (.mirPush f n) s) (fun u =>
      u = (((List.range granLines).foldl (fun t i => t.pushLine f n x.next g x.dst i) ((s.injFire f injMir).updSlot f n (fun z => { z with push := some { x with stall := some (s.injArg f injMir) } }))).updSlot f n (fun z => { z with push := some { x with stall := some (s.injArg f injMir), next := x.next + 1 } })).mirSettle f)) ∧
  (∀ (s : State) (f : FieldId) (n : Fin 2) (x : MirPush), s.svc f ≠ svcDark → (s.mirSlot f n).push = some x → s.injArmedAt f injMir 2 n = true → x.next < s.injArg f injMir → copyGranule (s.mirSlot f n).layout x.next = none → Leaves (exec (.mirPush f n) s) (fun u =>
      u = (((s.injFire f injMir).updSlot f n (fun z => { z with push := some { x with stall := some (s.injArg f injMir) } })).pushDone f n { x with stall := some (s.injArg f injMir) }).mirSettle f)) ∧
  (∀ (s : State) (f : FieldId) (n : Fin 2), (s.mirSlot f n).push = none → Leaves (exec (.mirPush f n) s) (fun u =>
      u = s)) ∧
  (∀ (s : State) (f : FieldId) (n : Fin 2), s.svc f ≠ svcDark → (s.mir f).src.on = true → (s.mirLive f).contains n.val = true → (s.gw f).lines.any (fun l => decide (l.owner = .mirror n)) = true → Leaves (exec (.mirPartnerTimeout f n) s) (fun u =>
      bit (u.mir f).src.lost n = true ∧
      u.freg f Reg.MIR_SRC_STATUS.STATE = msNoPartner)) ∧
  (∀ (s : State) (f : FieldId) (n : Fin 2), (s.mir f).src.on = false ∨ (s.mirLive f).contains n.val = false ∨ (s.gw f).lines.any (fun l => decide (l.owner = .mirror n)) = false → Leaves (exec (.mirPartnerTimeout f n) s) (fun u =>
      u = s)) ∧
  (∀ (s : State) (f : FieldId) (n : Fin 2), s.svc f ≠ svcDark → (s.mir f).src.on = true → n.val < (s.mir f).src.partners.length → bit (s.mir f).src.lost n = true → Leaves (exec (.mirLayoutRetry f n) s) (fun u =>
      u = (s.mirLayoutSend f n true).mirSettle f)) ∧
  (∀ (s : State) (f : FieldId) (n : Fin 2), (s.mir f).src.on = false ∨ (s.mir f).src.partners.length ≤ n.val ∨ bit (s.mir f).src.lost n = false → Leaves (exec (.mirLayoutRetry f n) s) (fun u =>
      u = s)) ∧
  (∀ (s : State) (f : FieldId), s.svc f ≠ svcDark → s.loading f = false → Leaves (exec (.mirLoadStart f) s) (fun u =>
      u = (((((s.fset f Reg.MIR_LOAD_STATUS.STATE mlLoading).fset f Reg.MIR_LOAD_STATUS.USING_SRC1 0).fset f Reg.MIR_LOAD_STATUS.RESULT St.OK).fset f Reg.MIR_LOAD_STATUS.EPOCH (s.freg f Reg.MIR_LOAD_CTL.EPOCH)).loadPull f (s.freg f Reg.MIR_LOAD_CTL.SRC0)).mirSettle f)) ∧
  (∀ (s : State) (f : FieldId), s.svc f ≠ svcDark → s.loading f = true → Leaves (exec (.mirLoadStart f) s) (fun u =>
      u = s.mirSettle f)) ∧
  (∀ (s : State) (f : FieldId), s.svc f ≠ svcDark → s.loading f = true → Leaves (exec (.mirLoadAbort f) s) (fun u =>
      u.freg f Reg.MIR_LOAD_STATUS.STATE = mlFailed ∧
      u.freg f Reg.MIR_LOAD_STATUS.RESULT = St.MIRROR_SOURCE_LOST)) ∧
  (∀ (s : State) (f : FieldId), s.loading f = false → Leaves (exec (.mirLoadAbort f) s) (fun u =>
      u = s)) ∧
  (∀ (s : State) (f : FieldId), s.svc f ≠ svcDark → s.loading f = true → s.freg f Reg.MIR_LOAD_STATUS.USING_SRC1 = 0 → s.freg f Reg.MIR_LOAD_CTL.SRC1 ≠ 0xFFFF → Leaves (exec (.mirLoadTimeout f) s) (fun u =>
      u = ((s.fset f Reg.MIR_LOAD_STATUS.USING_SRC1 1).loadPull f (s.freg f Reg.MIR_LOAD_CTL.SRC1)).mirSettle f)) ∧
  (∀ (s : State) (f : FieldId), s.svc f ≠ svcDark → s.loading f = true → s.freg f Reg.MIR_LOAD_STATUS.USING_SRC1 ≠ 0 ∨ s.freg f Reg.MIR_LOAD_CTL.SRC1 = 0xFFFF → Leaves (exec (.mirLoadTimeout f) s) (fun u =>
      u = (s.loadEnd f mlFailed St.MIRROR_SOURCE_LOST).mirSettle f)) ∧
  (∀ (s : State) (f : FieldId), s.svc f ≠ svcDark → s.loading f = false → Leaves (exec (.mirLoadTimeout f) s) (fun u =>
      u = s.mirSettle f)) ∧
  (∀ (s : State), allFields.any s.windowOver = true → Leaves (exec (.healthWindowClose) s) (fun u =>
      u = (allFields.foldl State.windowEnd s).packageScore)) ∧
  (∀ (s : State), allFields.any s.windowOver = false → Leaves (exec (.healthWindowClose) s) (fun u =>
      u = s)) ∧
  (∀ (s : State) (f : FieldId) (kd : Nat) (inj : Bool) (l : List (Nat × Bool)), (s.field f).hardDue = (kd, inj) :: l → Leaves (exec (.hardEvent f) s) (fun u =>
      (u.field f).hardDue = l ∧
      u.freg f Reg.HLT_SCORE.SCORE = (if kd = 0 then (s.freg f Reg.HLT_SCORE.SCORE - 400) % 2 ^ 10 else s.freg f Reg.HLT_SCORE.SCORE % 2 ^ 10) ∧
      u.freg f Reg.HLT_SCORE.HARD = 1 ∧
      u.freg f Reg.HLT_SCORE.EXPEL = 1)) ∧
  (∀ (s : State) (f : FieldId), (s.field f).hardDue = [] → Leaves (exec (.hardEvent f) s) (fun u =>
      u = s)) ∧
  (∀ (s : State) (f : FieldId), s.svc f ≠ svcDark → Leaves (exec (.expelClear f) s) (fun u =>
      u.freg f Reg.HLT_SCORE.EXPEL = 0 ∧
      u.freg f Reg.HLT_SCORE.RUN = 0 ∧
      u.freg f Reg.HLT_SCORE.HARD = 0)) ∧
  (∀ (s : State) (f : FieldId), s.svc f = svcDark → Leaves (exec (.expelClear f) s) (fun u =>
      u = s))

/-- TALLY_BEACON_SEND of a link that carries beacons and is not muted: the beacon is queued; an acting root whose
heartbeat runs counts it (R519, R520, R524). TALLY_BEACON: one that is no beacon of this field, or of a rim not in
service, leaves no more than its removal; the beacon's fields are kept of its link, a root yields to one of lower
rank, the parent is chosen anew, and a parent's sample is used (R521, R523). PARENT_LOSS: the parent's link is
unknown, and the parent is chosen anew. ROOT_LOST: the root is no longer alive, and a field that followed it enters
holdover. ROOT_INITIAL: with no root alive the first field in line acts as root; ROOT_TAKEOVER: field k in line does
once a root has been lost for k ms. TALLY_LOCK_TIMEOUT of a field that has not reached LOCKED or ROOT: RESULT says
TALLY_UNLOCKED (R524). HUB_TALLY_BEACON: the servo with the followed field's gains takes the hub's offset from the
lowest field's tally, and its step is added (R518). TALLY_MARK_PULSE: the pulse due is driven where the pin is enabled
and the hub sealed (R530, R683). CALENDAR_COMP: the correction enters the accumulator, a count of the crystal is to be
skipped or one is added where it overflows (R534); CAL_APPLY sets the calendar (R535); VBAT_LOW is kept (R533). Where
there is nothing of the kind to do, nothing changes. Each answers a next state. Derived, the model's choice: which
commands say when beacons, timeouts and polls happen (assumption log entry 2), that a DARK field takes no command
(42), the hub's servo (17), the free cycle count of a first sample (16, 17) and the time of the lock timeout (44). -/
def Obligations.TallyCommandsComplete : Prop :=
  (∀ (s : State) (f : FieldId) (l : Fin 18) (d : Nat), s.rimUp f = true → bit (s.tly f).muted l = false → s.beaconTo f l = some d → l.val < 16 → Leaves (exec (.tallyBeaconSend f l) s) (fun u =>
      u = (if s.tlyState f = tsRoot ∧ (s.tly f).beatStop = false then s.updTly f (fun U => { U with beat := (U.beat + 1) % 2 ^ 32 }) else s).portQueue f (BitVec.ofNat 4 l).toFin 0 { dst := d, src := s.node f, allot := mgmtAllot, cls := 0, stage := 0, exit := 0, exitV := false, mcast := false, maxis := 0, key := 0, body := (if s.tlyState f = tsRoot ∧ (s.tly f).beatStop = false then s.updTly f (fun U => { U with beat := (U.beat + 1) % 2 ^ 32 }) else s).beaconBody f (SMap.get (s.tly f).links TallyLink.none l) })) ∧
  (∀ (s : State) (f : FieldId) (l : Fin 18) (d : Nat), s.rimUp f = true → bit (s.tly f).muted l = false → s.beaconTo f l = some d → 16 ≤ l.val → Leaves (exec (.tallyBeaconSend f l) s) (fun u =>
      u = (if s.tlyState f = tsRoot ∧ (s.tly f).beatStop = false then s.updTly f (fun U => { U with beat := (U.beat + 1) % 2 ^ 32 }) else s).d2dQueue f l 0 { dst := d, src := s.node f, allot := mgmtAllot, cls := 0, stage := 0, exit := 0, exitV := false, mcast := false, maxis := 0, key := 0, body := (if s.tlyState f = tsRoot ∧ (s.tly f).beatStop = false then s.updTly f (fun U => { U with beat := (U.beat + 1) % 2 ^ 32 }) else s).beaconBody f (SMap.get (s.tly f).links TallyLink.none l) })) ∧
  (∀ (s : State) (f : FieldId) (l : Fin 18), s.rimUp f = false ∨ bit (s.tly f).muted l = true ∨ s.beaconTo f l = none → Leaves (exec (.tallyBeaconSend f l) s) (fun u =>
      u = s)) ∧
  (∀ (s : State) (f : FieldId) (l : Fin 18) (p : Packet), s.rimUp f = false ∨ s.beaconOk f p = false → Leaves (exec (.tallyBeacon f l p) s) (fun u =>
      u = (s.beaconTake f l p).1)) ∧
  (∀ (s : State) (f : FieldId) (l : Fin 18) (p : Packet), s.rimUp f = true → s.beaconOk f p = true → Leaves (exec (.tallyBeacon f l p) s) (fun u =>
      u = (let y : TallyLink := { SMap.get ((s.beaconTake f l p).1.tly f).links TallyLink.none l with known := true, node := p.src, good := decide (pktField p 17 1 % 4 ≠ 0), dist := pktField p 18 1, rank := pktField p 19 1, root := pktField p 20 2, parent := pktField p 22 2, arrAt := s.now, tTx := pktField p 24 8 * 2 ^ 16 + pktField p 32 2, arr := (s.beaconTake f l p).2 }
        let t : State := ((((s.beaconTake f l p).1).updTly f (fun U => { U with links := SMap.set U.links TallyLink.none l y })).heardBeat f y.root y.rank (pktField p 56 4)).rootYield f
        if t.tlyState f = tsRoot then t
        else if (t.parentSelect f).freg f Reg.TLY_STATUS.PARENT_LINK = l.val then (t.parentSelect f).fromParent f p y
          (decide (t.freg f Reg.TLY_STATUS.PARENT_LINK = l.val) && decide (t.freg f Reg.TLY_STATUS.PARENT = p.src) && decide (t.freg f Reg.TLY_STATUS.ROOT = y.root)) y.arr
        else t.parentSelect f))) ∧
  (∀ (s : State) (f : FieldId), s.svc f ≠ svcDark → s.freg f Reg.TLY_STATUS.PARENT_LINK ≠ 0x1F → s.tlyState f ≠ tsRoot → Leaves (exec (.parentLoss f) s) (fun u =>
      u = (s.updTly f (fun U => { U with links := SMap.set U.links TallyLink.none (s.freg f Reg.TLY_STATUS.PARENT_LINK) { SMap.get (s.tly f).links TallyLink.none (s.freg f Reg.TLY_STATUS.PARENT_LINK) with known := false } })).parentSelect f)) ∧
  (∀ (s : State) (f : FieldId), s.freg f Reg.TLY_STATUS.PARENT_LINK = 0x1F ∨ s.tlyState f = tsRoot ∨ s.svc f = svcDark → Leaves (exec (.parentLoss f) s) (fun u =>
      u = s)) ∧
  (∀ (s : State) (f : FieldId) (r : TallyRoot), s.svc f ≠ svcDark → SMap.find (s.tly f).roots (s.freg f Reg.TLY_STATUS.ROOT) = some r → s.tlyState f ≠ tsRoot → s.tlyState f ≠ tsLocked → s.tlyState f ≠ tsAcquire → Leaves (exec (.rootLost f) s) (fun u =>
      u = (s.updTly f (fun U => { U with roots := SMap.insert U.roots (s.freg f Reg.TLY_STATUS.ROOT) { r with alive := false } })))) ∧
  (∀ (s : State) (f : FieldId) (r : TallyRoot), s.svc f ≠ svcDark → SMap.find (s.tly f).roots (s.freg f Reg.TLY_STATUS.ROOT) = some r → s.tlyState f ≠ tsRoot → s.tlyState f = tsLocked ∨ s.tlyState f = tsAcquire → Leaves (exec (.rootLost f) s) (fun u =>
      u = (((s.updTly f (fun U => { U with roots := SMap.insert U.roots (s.freg f Reg.TLY_STATUS.ROOT) { r with alive := false } })).noParent f).enterHoldover f).parentSelect f)) ∧
  (∀ (s : State) (f : FieldId), SMap.find (s.tly f).roots (s.freg f Reg.TLY_STATUS.ROOT) = none ∨ s.tlyState f = tsRoot ∨ s.svc f = svcDark → Leaves (exec (.rootLost f) s) (fun u =>
      u = s)) ∧
  (∀ (s : State) (f : FieldId), s.svc f ≠ svcDark → s.tlyState f ≠ tsRoot → s.anyAlive f = false → s.rootRank f = some 0 → 8 ≤ s.hreg Reg.SEED_STAGE.STAGE → Leaves (exec (.rootInitial f) s) (fun u =>
      u = s.becomeRoot f 0)) ∧
  (∀ (s : State) (f : FieldId), s.tlyState f = tsRoot ∨ s.anyAlive f = true ∨ s.rootRank f ≠ some 0 ∨ s.hreg Reg.SEED_STAGE.STAGE < 8 ∨ s.svc f = svcDark → Leaves (exec (.rootInitial f) s) (fun u =>
      u = s)) ∧
  (∀ (s : State) (f : FieldId) (k : Nat), s.svc f ≠ svcDark → s.rootRank f = some k → s.tlyState f ≠ tsRoot → s.anyAlive f = false → k ≠ 0 → s.rootGone f k = true → Leaves (exec (.rootTakeover f) s) (fun u =>
      u = s.becomeRoot f k)) ∧
  (∀ (s : State) (f : FieldId), s.rootRank f = none ∨ s.rootRank f = some 0 ∨ s.tlyState f = tsRoot ∨ s.anyAlive f = true ∨ s.rootGone f ((s.rootRank f).getD 0) = false ∨ s.svc f = svcDark → Leaves (exec (.rootTakeover f) s) (fun u =>
      u = s)) ∧
  (∀ (s : State) (f : FieldId), s.svc f ≠ svcDark → s.tlyState f ≠ tsLocked → s.tlyState f ≠ tsRoot → (s.tly f).reached = false → Leaves (exec (.tallyLockTimeout f) s) (fun u =>
      u = s.fset f Reg.TLY_STATUS.RESULT St.TALLY_UNLOCKED ∧
      u.freg f Reg.TLY_STATUS.RESULT = St.TALLY_UNLOCKED)) ∧
  (∀ (s : State) (f : FieldId), s.tlyState f = tsLocked ∨ s.tlyState f = tsRoot ∨ (s.tly f).reached = true ∨ s.svc f = svcDark → Leaves (exec (.tallyLockTimeout f) s) (fun u =>
      u = s)) ∧
  (∀ (s : State) (f : FieldId), s.lowRim = some f → Leaves (exec (.hubTallyBeacon) s) (fun u =>
      let c := s.cyclesSince s.hub.servo.lastUsed
      let v := s.hub.servo.sample (s.freg f Reg.TLY_SERVO_CTL.KP_LOG) (s.freg f Reg.TLY_SERVO_CTL.KI_LOG) (((s.stamp f * 2 ^ 16 : Nat) : Int) - ((s.hub.tally * 2 ^ 32 + s.hub.servo.tFrac : Nat) : Int)) c.1
      u = (c.2.updHub (fun H => { H with servo := { v.1 with lastUsed := c.2.now + 1 } })).hubTallyTo (trunc 64 (c.2.hub.tally + v.2)))) ∧
  (∀ (s : State), s.lowRim = none → Leaves (exec (.hubTallyBeacon) s) (fun u =>
      u = s)) ∧
  (∀ (s : State), s.hub.pulseDue = true → s.hreg Reg.TLY_PIN_CTL.ENABLE = 1 → s.hubSealed = true → Leaves (exec (.tallyMarkPulse) s) (fun u =>
      u = (s.updHub (fun H => { H with pulseDue := false, pulseEnd := s.now + s.hreg Reg.TLY_PIN_CTL.WIDTH * 8 })).emit (.tallyMark (s.hreg Reg.TLY_PIN_CTL.WIDTH * 8)))) ∧
  (∀ (s : State), s.hub.pulseDue = false ∨ s.hreg Reg.TLY_PIN_CTL.ENABLE ≠ 1 ∨ s.hubSealed = false → Leaves (exec (.tallyMarkPulse) s) (fun u =>
      u = (s.updHub (fun H => { H with pulseDue := false })))) ∧
  (∀ (s : State) (t : Option Int), s.hreg Reg.CAL_COMP.ENABLE = 0 → Leaves (exec (.calendarComp t) s) (fun u =>
      u = s)) ∧
  (∀ (s : State) (t : Option Int) (a : Int), s.hreg Reg.CAL_COMP.ENABLE ≠ 0 → a = (s.hub.cal.acc + toSigned Reg.CAL_COMP.C0.width (s.hreg Reg.CAL_COMP.C0) + toSigned Reg.CAL_COMP.C1.width (s.hreg Reg.CAL_COMP.C1) * (toSigned 8 ((match t with | none => s | some v => s.hset Reg.CAL_STATUS.TEMP (ofSigned 8 v)).hreg Reg.CAL_STATUS.TEMP) - toSigned Reg.CAL_COMP.T0.width (s.hreg Reg.CAL_COMP.T0)) + toSigned Reg.CAL_COMP.C2.width (s.hreg Reg.CAL_COMP.C2) * (toSigned 8 ((match t with | none => s | some v => s.hset Reg.CAL_STATUS.TEMP (ofSigned 8 v)).hreg Reg.CAL_STATUS.TEMP) - toSigned Reg.CAL_COMP.T0.width (s.hreg Reg.CAL_COMP.T0)) * (toSigned 8 ((match t with | none => s | some v => s.hset Reg.CAL_STATUS.TEMP (ofSigned 8 v)).hreg Reg.CAL_STATUS.TEMP) - toSigned Reg.CAL_COMP.T0.width (s.hreg Reg.CAL_COMP.T0))) → a < 125000 → -125000 < a → Leaves (exec (.calendarComp t) s) (fun u =>
      u = (match t with | none => s | some v => s.hset Reg.CAL_STATUS.TEMP (ofSigned 8 v)).updHub (fun H => { H with cal := { H.cal with acc := a } }))) ∧
  (∀ (s : State) (t : Option Int) (a : Int), s.hreg Reg.CAL_COMP.ENABLE ≠ 0 → a = (s.hub.cal.acc + toSigned Reg.CAL_COMP.C0.width (s.hreg Reg.CAL_COMP.C0) + toSigned Reg.CAL_COMP.C1.width (s.hreg Reg.CAL_COMP.C1) * (toSigned 8 ((match t with | none => s | some v => s.hset Reg.CAL_STATUS.TEMP (ofSigned 8 v)).hreg Reg.CAL_STATUS.TEMP) - toSigned Reg.CAL_COMP.T0.width (s.hreg Reg.CAL_COMP.T0)) + toSigned Reg.CAL_COMP.C2.width (s.hreg Reg.CAL_COMP.C2) * (toSigned 8 ((match t with | none => s | some v => s.hset Reg.CAL_STATUS.TEMP (ofSigned 8 v)).hreg Reg.CAL_STATUS.TEMP) - toSigned Reg.CAL_COMP.T0.width (s.hreg Reg.CAL_COMP.T0)) * (toSigned 8 ((match t with | none => s | some v => s.hset Reg.CAL_STATUS.TEMP (ofSigned 8 v)).hreg Reg.CAL_STATUS.TEMP) - toSigned Reg.CAL_COMP.T0.width (s.hreg Reg.CAL_COMP.T0))) → 125000 ≤ a → Leaves (exec (.calendarComp t) s) (fun u =>
      u = (match t with | none => s | some v => s.hset Reg.CAL_STATUS.TEMP (ofSigned 8 v)).updHub (fun H => { H with cal := { H.cal with skip := H.cal.skip + 1, acc := a - 125000 } }))) ∧
  (∀ (s : State) (t : Option Int) (a : Int), s.hreg Reg.CAL_COMP.ENABLE ≠ 0 → a = (s.hub.cal.acc + toSigned Reg.CAL_COMP.C0.width (s.hreg Reg.CAL_COMP.C0) + toSigned Reg.CAL_COMP.C1.width (s.hreg Reg.CAL_COMP.C1) * (toSigned 8 ((match t with | none => s | some v => s.hset Reg.CAL_STATUS.TEMP (ofSigned 8 v)).hreg Reg.CAL_STATUS.TEMP) - toSigned Reg.CAL_COMP.T0.width (s.hreg Reg.CAL_COMP.T0)) + toSigned Reg.CAL_COMP.C2.width (s.hreg Reg.CAL_COMP.C2) * (toSigned 8 ((match t with | none => s | some v => s.hset Reg.CAL_STATUS.TEMP (ofSigned 8 v)).hreg Reg.CAL_STATUS.TEMP) - toSigned Reg.CAL_COMP.T0.width (s.hreg Reg.CAL_COMP.T0)) * (toSigned 8 ((match t with | none => s | some v => s.hset Reg.CAL_STATUS.TEMP (ofSigned 8 v)).hreg Reg.CAL_STATUS.TEMP) - toSigned Reg.CAL_COMP.T0.width (s.hreg Reg.CAL_COMP.T0))) → a ≤ -125000 → Leaves (exec (.calendarComp t) s) (fun u =>
      u = ((match t with | none => s | some v => s.hset Reg.CAL_STATUS.TEMP (ofSigned 8 v)).updHub (fun H => { H with cal := { H.cal with acc := a + 125000 } })).calSet ((match t with | none => s | some v => s.hset Reg.CAL_STATUS.TEMP (ofSigned 8 v)).calTime + 1))) ∧
  (∀ (s : State), s.hreg Reg.CAL_SET.APPLY ≠ 0 → Leaves (exec (.calApply) s) (fun u =>
      u.hreg Reg.CAL_TIME.SEC = s.hreg Reg.CAL_SET.SEC % 2 ^ 64 ∧
      u.hreg Reg.CAL_TIME.FRAC = s.hreg Reg.CAL_SET.FRAC % 2 ^ Reg.CAL_TIME.FRAC.width ∧
      u.hreg Reg.CAL_TIME.VALID = 1 ∧
      u.hreg Reg.CAL_SET.APPLY = 0)) ∧
  (∀ (s : State), s.hreg Reg.CAL_SET.APPLY = 0 → Leaves (exec (.calApply) s) (fun u =>
      u = s)) ∧
  (∀ (s : State), s.hreg Reg.CAL_STATUS.VBAT_LOW ≠ 1 → Leaves (exec (.vbatLow) s) (fun u =>
      u.hreg Reg.CAL_STATUS.VBAT_LOW = 1)) ∧
  (∀ (s : State), s.hreg Reg.CAL_STATUS.VBAT_LOW = 1 → Leaves (exec (.vbatLow) s) (fun u =>
      u = s))

/-- MARK_ARM: NEXT, or ARMED and PERIOD clamped to 100,000 or 0, take the values written, or, less than 100 us ahead,
RESULT says MARK_PAST (R527, R544). BOUNDARY_MARK when the tally has reached NEXT, and HOUSE_MARK with none armed at the
crossing: the actions of a mark, and the next mark armed (R526, R527, R528). DRIFT_REPORT_WRITE: the report goes to its
half of the buffer, or is lost where it does not fit, SEQ counts, and the table is empty (R132).
STEP_TIMING_REPORT_WRITE: the same of the step report, not while hub-lost (R486, R35). RED_ENTRY_RELEASE: flushed lines
are written and their entries free (R425). MARK_DONE after them: DONE is 1, DONE_NS the time it took. Out of turn, and
of a field not in service, nothing changes. Each answers a next state. Derived, the model's choice: which actions of a
mark are commands of their own, in the rule's order with the switchovers at the mark before its end (assumption log
entry 18), when they come (2), and that a DARK field takes none (42). -/
def Obligations.MarkCommandsComplete : Prop :=
  (∀ (s : State) (f : FieldId) (v : Nat), s.svc f ≠ svcDark → s.markArmed f = false ∨ (s.tly f).tInt + 100000 ≤ v % 2 ^ 64 → Leaves (exec (.markArm f (.next v)) s) (fun u =>
      u.freg f Reg.TLY_MARK_NEXT.NEXT = v % 2 ^ 64 ∧
      u.freg f Reg.TLY_MARK_STAT.RESULT = St.OK)) ∧
  (∀ (s : State) (f : FieldId) (v : Nat), s.svc f ≠ svcDark → s.markArmed f = true → v % 2 ^ 64 < (s.tly f).tInt + 100000 → Leaves (exec (.markArm f (.next v)) s) (fun u =>
      u = s.fset f Reg.TLY_MARK_STAT.RESULT St.MARK_PAST)) ∧
  (∀ (s : State) (f : FieldId) (a : Bool) (p : Nat), s.svc f ≠ svcDark → a = false ∨ s.markArmed f = true ∨ (s.tly f).tInt + 100000 ≤ s.freg f Reg.TLY_MARK_NEXT.NEXT → Leaves (exec (.markArm f (.ctl a p)) s) (fun u =>
      u.freg f Reg.TLY_MARK_CTL.ARMED = b2n a ∧
      u.freg f Reg.TLY_MARK_CTL.PERIOD = (if p % 2 ^ 40 = 0 then 0 else max (p % 2 ^ 40) 100000) ∧
      u.freg f Reg.TLY_MARK_STAT.RESULT = St.OK)) ∧
  (∀ (s : State) (f : FieldId) (p : Nat), s.svc f ≠ svcDark → s.markArmed f = false → s.freg f Reg.TLY_MARK_NEXT.NEXT < (s.tly f).tInt + 100000 → Leaves (exec (.markArm f (.ctl true p)) s) (fun u =>
      u = s.fset f Reg.TLY_MARK_STAT.RESULT St.MARK_PAST)) ∧
  (∀ (s : State) (f : FieldId) (w : MarkWrite), s.svc f = svcDark → Leaves (exec (.markArm f w) s) (fun u =>
      u = s)) ∧
  (∀ (s : State) (f : FieldId), s.rimUp f = true → s.markArmed f = true → s.freg f Reg.TLY_MARK_NEXT.NEXT ≤ (s.tly f).tInt → (s.tly f).todo = [] → Leaves (exec (.boundaryMark f) s) (fun u =>
      u = ((s.markActions f (s.freg f Reg.TLY_MARK_NEXT.NEXT)).markAdvance f).markPulse f)) ∧
  (∀ (s : State) (f : FieldId), s.rimUp f = false ∨ s.markArmed f = false ∨ (s.tly f).tInt < s.freg f Reg.TLY_MARK_NEXT.NEXT ∨ (s.tly f).todo ≠ [] → Leaves (exec (.boundaryMark f) s) (fun u =>
      u = s)) ∧
  (∀ (s : State) (f : FieldId), s.rimUp f = true → s.markArmed f = false → (s.tly f).houseDue = true → (s.tly f).todo = [] → Leaves (exec (.houseMark f) s) (fun u =>
      u = s.markActions f ((s.tly f).tInt / 2 ^ 30 * 2 ^ 30))) ∧
  (∀ (s : State) (f : FieldId), s.rimUp f = false ∨ s.markArmed f = true ∨ (s.tly f).houseDue = false ∨ (s.tly f).todo ≠ [] → Leaves (exec (.houseMark f) s) (fun u =>
      u = s)) ∧
  (∀ (s : State) (f : FieldId), s.svc f ≠ svcDark → (s.tly f).todo.head? = some 10 → s.freg f Reg.FLD_DRIFT_BASE.WRITE ≠ 0 → s.freg f Reg.FLD_DRIFT_BASE.ADDR * 128 + 0x42000 ≤ hbmTop → Leaves (exec (.driftReportWrite f) s) (fun u =>
      u = ((((s.hbmWrite f (s.freg f Reg.FLD_DRIFT_BASE.ADDR * 128 + s.freg f Reg.FLD_DRIFT_STATUS.SEQ % 2 * 0x21000) (s.driftReportBytes f) false srcRim).1).updField f (fun F => { F with drift := { recs := [], unrecorded := 0, fullEvent := false } })).fwrap f Reg.FLD_DRIFT_STATUS.SEQ).markDid f 10)) ∧
  (∀ (s : State) (f : FieldId), s.svc f ≠ svcDark → (s.tly f).todo.head? = some 10 → s.freg f Reg.FLD_DRIFT_BASE.WRITE ≠ 0 → hbmTop < s.freg f Reg.FLD_DRIFT_BASE.ADDR * 128 + 0x42000 → Leaves (exec (.driftReportWrite f) s) (fun u =>
      u = (((s.raise f Ev.FLD_DRIFT_REPORT_LOST []).updField f (fun F => { F with drift := { recs := [], unrecorded := 0, fullEvent := false } })).fwrap f Reg.FLD_DRIFT_STATUS.SEQ).markDid f 10)) ∧
  (∀ (s : State) (f : FieldId), s.svc f ≠ svcDark → (s.tly f).todo.head? = some 10 → s.freg f Reg.FLD_DRIFT_BASE.WRITE = 0 → Leaves (exec (.driftReportWrite f) s) (fun u =>
      u = (((s).updField f (fun F => { F with drift := { recs := [], unrecorded := 0, fullEvent := false } })).fwrap f Reg.FLD_DRIFT_STATUS.SEQ).markDid f 10)) ∧
  (∀ (s : State) (f : FieldId), s.svc f ≠ svcDark → (s.tly f).todo.head? = some 10 → Leaves (exec (.driftReportWrite f) s) (fun u =>
      u.freg f Reg.FLD_DRIFT_STATUS.SEQ = (s.freg f Reg.FLD_DRIFT_STATUS.SEQ + 1) % 2 ^ 32 ∧
      (u.field f).drift.recs = [])) ∧
  (∀ (s : State) (f : FieldId), s.svc f ≠ svcDark → (s.tly f).todo.head? = some 11 → s.freg f Reg.HLT_REPORT_BASE.WRITE = 1 → (s.field f).hubLost = false → s.freg f Reg.HLT_REPORT_BASE.ADDR * 128 + 0x10200 ≤ hbmTop → Leaves (exec (.stepTimingReportWrite f) s) (fun u =>
      u = (((s.hbmWrite f (s.freg f Reg.HLT_REPORT_BASE.ADDR * 128 + (s.field f).hlt.seq % 2 * 0x8100) (s.stepReportBytes f) false srcRim).1.updField f (fun F => { F with hlt := { F.hlt with seq := (F.hlt.seq + 1) % 2 ^ 32 } })).lateClear f).markDid f 11)) ∧
  (∀ (s : State) (f : FieldId), s.svc f ≠ svcDark → (s.tly f).todo.head? = some 11 → s.freg f Reg.HLT_REPORT_BASE.WRITE = 1 → (s.field f).hubLost = false → hbmTop < s.freg f Reg.HLT_REPORT_BASE.ADDR * 128 + 0x10200 → Leaves (exec (.stepTimingReportWrite f) s) (fun u =>
      u = (((s.raise f Ev.HLT_REPORT_LOST [(1, f), (4, (s.field f).hlt.seq)]).updField f (fun F => { F with hlt := { F.hlt with seq := (F.hlt.seq + 1) % 2 ^ 32 } })).lateClear f).markDid f 11)) ∧
  (∀ (s : State) (f : FieldId), s.svc f ≠ svcDark → (s.tly f).todo.head? = some 11 → s.freg f Reg.HLT_REPORT_BASE.WRITE ≠ 1 ∨ (s.field f).hubLost = true → Leaves (exec (.stepTimingReportWrite f) s) (fun u =>
      u = (s.lateClear f).markDid f 11)) ∧
  (∀ (s : State) (f : FieldId), s.svc f ≠ svcDark → (s.tly f).todo.head? = some 12 → Leaves (exec (.redEntryRelease f) s) (fun u =>
      u = ((s.gw f).red.foldl (fun (t : State) e => match e.2.flushed with | none => t | some b => ((t.lineWrite f (e.2.line * 128) b false srcGateway).1).redErase f e.2) s).markDid f 12)) ∧
  (∀ (s : State) (f : FieldId), s.svc f ≠ svcDark → (s.tly f).todo = [14] → Leaves (exec (.markDone f) s) (fun u =>
      u.freg f Reg.TLY_MARK_STAT.DONE = 1 ∧
      u.freg f Reg.TLY_MARK_STAT.DONE_NS = min 0xFFFF ((s.tly f).tInt - (s.tly f).markAt) ∧
      (u.tly f).todo = [])) ∧
  (∀ (s : State) (f : FieldId), s.svc f = svcDark ∨ (s.tly f).todo.head? ≠ some 10 → Leaves (exec (.driftReportWrite f) s) (fun u =>
      u = s)) ∧
  (∀ (s : State) (f : FieldId), s.svc f = svcDark ∨ (s.tly f).todo.head? ≠ some 11 → Leaves (exec (.stepTimingReportWrite f) s) (fun u =>
      u = s)) ∧
  (∀ (s : State) (f : FieldId), s.svc f = svcDark ∨ (s.tly f).todo.head? ≠ some 12 → Leaves (exec (.redEntryRelease f) s) (fun u =>
      u = s)) ∧
  (∀ (s : State) (f : FieldId), s.svc f = svcDark ∨ (s.tly f).todo ≠ [14] → Leaves (exec (.markDone f) s) (fun u =>
      u = s))

/-- COLD_RESET: stage POWER, the cause and the straps as sampled, the fields' registers (where PWR_WARN_N is high) and
the memories at their reset values, and with VBAT kept the calendar, which is otherwise 0 and not valid, OSC_STOP 1
(R578, R580, R533). WARM_RESET: stage SEED, cause 2 or 3, WARM_COUNT one more, plot stores and bins at zero without
errors or poison, HBM kept (R578, R580). PARTITION_RESET: a READY field enters PARTITION_RESET without tokens; another
sets PART_REFUSED; in hub-lost operation nothing. PARTITION_RESET_DONE: only in PARTITION_RESET, the field ends READY
unless the march test leaves it UNFIT (R579). JTAG_RESPONSE: SIG_R and SIG_S written, and OK and UNLOCKED if the
signature over the nonce is good, JTAG_REFUSED and the hold-off otherwise, with a new nonce; no more than the write
while held (R581). Each answers a next state. Derived, the model's choice: what resets leave of internal state
(assumption log entries 5, 8, 9), the message a response signs (32), the free nonce and epochs (8), what memory reads
that nothing lists (7), and the operands that say what is sampled or found (36). -/
def Obligations.ResetCommandsComplete : Prop :=
  (∀ (s : State) (po : Bool) (st : Fin 16) (vbat : Vbat), Leaves (exec (.coldReset po st vbat) s) (fun u =>
      u.stage = sgPower ∧
      u.hreg Reg.HUB_RESET_STATUS.CAUSE = b2n (!po) ∧
      u.hreg Reg.SEED_STRAPS.STEP = bits st 0 1 ∧
      u.hreg Reg.SEED_STRAPS.BOOT_SRC = bits st 1 2 ∧
      u.hreg Reg.SEED_STRAPS.FLASH_IO = bits st 3 1 ∧
      u.mem.hbm = State.reset.mem.hbm ∧
      u.mem.store = State.reset.mem.store ∧
      u = s.coldReset po st vbat)) ∧
  (∀ (s : State) (po : Bool) (st : Fin 16) (vbat : Vbat) (f : FieldId), s.hub.pwr.warnPin = false → Leaves (exec (.coldReset po st vbat) s) (fun u =>
      (u.field f).regs = (State.reset.field f).regs)) ∧
  (∀ (s : State) (po : Bool) (st : Fin 16), s.hub.pwr.warnPin = false → Leaves (exec (.coldReset po st .kept) s) (fun u =>
      u.hub.cal = s.hub.cal)) ∧
  (∀ (s : State) (po : Bool) (st : Fin 16) (vbat : Vbat), s.hub.pwr.warnPin = false → vbat ≠ .kept → Leaves (exec (.coldReset po st vbat) s) (fun u =>
      u.hreg Reg.CAL_STATUS.OSC_STOP = 1 ∧
      u.hreg Reg.CAL_TIME.VALID = 0 ∧
      u.hreg Reg.CAL_TIME.SEC = 0 ∧
      u.hreg Reg.CAL_TIME.FRAC = 0)) ∧
  (∀ (s : State) (i3c : Bool), Leaves (exec (.warmReset i3c) s) (fun u =>
      u.stage = sgSeed ∧
      u.hreg Reg.HUB_RESET_STATUS.CAUSE = (if i3c then 3 else 2) ∧
      u.hreg Reg.HUB_RESET_STATUS.WARM_COUNT = satAdd Reg.HUB_RESET_STATUS.WARM_COUNT.width (s.hreg Reg.HUB_RESET_STATUS.WARM_COUNT) 1 % 2 ^ Reg.HUB_RESET_STATUS.WARM_COUNT.width ∧
      u.mem.store = #v[[], [], [], []] ∧
      u.mem.storeErr = #v[[], [], [], []] ∧
      u.mem.bin = #v[[], [], [], []] ∧
      u.mem.binErr = #v[[], [], [], []] ∧
      u.mem.binPoison = #v[[], [], [], []] ∧
      u.mem.hbm = s.mem.hbm ∧
      u.mem.hbmErr = s.mem.hbmErr ∧
      u = s.warmReset i3c)) ∧
  (∀ (s : State) (f : FieldId), (s.field f).hubLost = false → s.svc f = svcReady → Leaves (exec (.partitionReset f) s) (fun u =>
      u.svc f = svcPartitionReset ∧
      (u.thm f).tokens = [] ∧
      u = (((((s.healthReset f).setSvc f svcPartitionReset).resetPartition f).updThm f (fun T => { T with tokens := [] })).shfReset f))) ∧
  (∀ (s : State) (f : FieldId), (s.field f).hubLost = false → s.svc f ≠ svcReady → Leaves (exec (.partitionReset f) s) (fun u =>
      u = s.hset Reg.HUB_RESET_STATUS.PART_REFUSED 1)) ∧
  (∀ (s : State) (f : FieldId), (s.field f).hubLost = true → Leaves (exec (.partitionReset f) s) (fun u =>
      u = s)) ∧
  (∀ (s : State) (f : FieldId) (m : Nat), s.svc f = svcPartitionReset → Leaves (exec (.partitionResetDone f m) s) (fun u =>
      (u.svc f = svcReady ∨ u.svc f = svcUnfit) ∧
      u = (if ((s.fallowMarks f m).remapTake f).svc f = svcUnfit then (s.fallowMarks f m).remapTake f
        else ((((((s.fallowMarks f m).remapTake f).fillAll f).livePlots f).foldl (fun (t : State) p => t.bootAll f p bootFuel) (((s.fallowMarks f m).remapTake f).fillAll f)).setSvc f svcReady).firmwareEvent f))) ∧
  (∀ (s : State) (f : FieldId) (m : Nat), s.svc f ≠ svcPartitionReset → Leaves (exec (.partitionResetDone f m) s) (fun u =>
      u = s)) ∧
  (∀ (s : State) (r v : Nat) (ok : Bool), s.hub.seed.jtagHold = false → ok = (decide (s.hreg Reg.SEED_IMAGE_STATUS.SLOT ≠ 3) && ecdsaOk (imgKey s.image) (beNat (sha384 s.jtagMessage)) (r % 2 ^ 384) (v % 2 ^ 384)) → Leaves (exec (.jtagResponse r v) s) (fun u =>
      u.hreg Reg.HUB_JTAG_RESP.SIG_R = r % 2 ^ 384 ∧
      u.hreg Reg.HUB_JTAG_RESP.SIG_S = v % 2 ^ 384 ∧
      u.hreg Reg.HUB_JTAG_CHAL.NONCE = Config.freeValue s.free % 2 ^ 384 ∧
      u.hreg Reg.HUB_JTAG_STATUS.RESULT = (if ok then St.OK else St.JTAG_REFUSED) ∧
      u.hub.seed.jtagHold = !ok ∧
      u.hreg Reg.HUB_JTAG_STATUS.UNLOCKED = (if ok then 1 else s.hreg Reg.HUB_JTAG_STATUS.UNLOCKED))) ∧
  (∀ (s : State) (r v : Nat), s.hub.seed.jtagHold = true → Leaves (exec (.jtagResponse r v) s) (fun u =>
      u = (s.hset Reg.HUB_JTAG_RESP.SIG_R (r % 2 ^ 384)).hset Reg.HUB_JTAG_RESP.SIG_S (v % 2 ^ 384)))

/-- A stage's command does nothing unless it is the present stage, running, its work not done (R551). STAGE_POWER: the
fuses are sensed and the host-light step runs (R600). STAGE_SEED: with BOOT_SRC host-only it waits for a host image;
else the slots are tried in their order, the first good one is accepted (a flash that fails the hub's checks counts as
absent), and with none the stage fails with the last code (R554). STAGE_FIELD_POWER: the fields whose rails are good
start, the others are awaited, the die-to-die links train, and PKG_COORD is VALID (R555). STAGE_MEMORY: the stacks
train, memory is zeroed and the carry area applied but after a warm reset, pending repairs are made, plots that fail
the march test go fallow (R556). STAGE_LIGHT: the light sequence (R291). STAGE_LINKS: plan and arbitration are
written, and links may train (R557). STAGE_KNOWN_ANSWER: the tests' results, none on the fast path (R571).
STAGE_FIRMWARE: images are written; it waits where one comes from the host, else delivers (R573). STAGE_FABRIC:
records are written and the first seals made, a refused one failing it (R558). STAGE_READY: STARTING fields are READY,
phase DONE (R559). Each answers a next state. Derived, the model's choice: what measurements, tests and other parts
give is an operand (assumption log entry 36), that fuses and keys are constants of Config (4), entries for skipped
stages and when NO_FIELD is tested (43), and flash never programmed, a plan's size too large and a stack that fails
its training (44). -/
def Obligations.BringUpStagesComplete : Prop :=
  (∀ (s : State) (env : LightEnv) (fl : Option Flash) (pg ro : Fin 16) (tr : Fin 256) (ms ml rp : List Nat) (ca : Option Flash), ∀ x ∈ ([(.stagePower env, sgPower), (.stageSeed env fl, sgSeed), (.stageFieldPower pg ro ms, sgFieldPower), (.stageMemory tr ml ca rp, sgMemory), (.stageLight env, sgLight), (.stageLinks, sgLinks), (.stageKnownAnswer ms ro, sgKnownAnswer), (.stageFirmware, sgFirmware), (.stageFabric, sgFabric), (.stageReady, sgReady)] : List (Instr × Nat)), s.due x.2 = false → Leaves (exec x.1 s) (fun u =>
      u = s)) ∧
  (∀ (s : State) (env : LightEnv), s.due sgPower = true → Leaves (exec (.stagePower env) s) (fun u =>
      u.hub.seed.begun = true ∧
      u = ((allFields.foldl (fun (t : State) (f : FieldId) => t.updMemu f (fun m => { m with fuse := Config.remapFuse f.val % 2 ^ 272 }))
        (s.hset Reg.HUB_INJ_STATUS.FUSE (b2n Config.injFuse))).hostLightStep env).begin)) ∧
  (∀ (s : State) (env : LightEnv) (fl : Option Flash), s.due sgSeed = true → Leaves (exec (.stageSeed env fl) s) (fun u =>
      u = (let t : State := (if s.hub.seed.warm && s.engIsDark 16 then s.hostLightStep env else s).begin
        let img := fun (slot : Nat) => (fl.filter flashOk).map (fun x => flashSlot x slot)
        let first := if t.hreg Reg.SEED_STRAPS.BOOT_SRC = 1 then 1 else 0
        let v := t.slotTry first (img first)
        let w := v.1.slotTry (1 - first) (img (1 - first))
        if t.hreg Reg.SEED_STRAPS.BOOT_SRC = 2 then (t.hset Reg.SEED_STAGE.RESULT 0).stageWait.hostImageDue
        else if v.2 = St.OK then v.1
        else if w.2 = St.OK then w.1
        else (w.1.stageFail w.2).hostImageDue))) ∧
  (∀ (s : State) (env : LightEnv) (fl : Option Flash), s.due sgSeed = true → s.hub.seed.warm = false → s.hreg Reg.SEED_STRAPS.BOOT_SRC = 2 → s.hreg Reg.SEED_CTL.HOST_IMAGE = 0 → Leaves (exec (.stageSeed env fl) s) (fun u =>
      u.phase = phWait ∧
      u.hub.seed.begun = true)) ∧
  (∀ (s : State) (env : LightEnv), s.due sgSeed = true → s.hub.seed.warm = false → s.hreg Reg.SEED_STRAPS.BOOT_SRC = 0 → Leaves (exec (.stageSeed env none) s) (fun u =>
      u = (((s.begin.imageTried 0 St.SEED_ABSENT 0).imageTried 1 St.SEED_ABSENT 0).stageFail St.SEED_ABSENT).hostImageDue)) ∧
  (∀ (s : State) (pg ro : Fin 16) (ms : List Nat), s.due sgFieldPower = true → Leaves (exec (.stageFieldPower pg ro ms) s) (fun u =>
      u.hub.seed.mates = ms ∧
      u.hreg Reg.HUB_PKG_COORD.VALID = 1 ∧
      u = (((List.range 4).foldl (fun (t : State) k => t.d2dTrain k (ms.getD k 0)) (allFields.foldl (fun (t : State) (f : FieldId) =>
        if bit pg f.val then t.fieldUp f (bit ro f.val) else t.updSeed (fun U => { U with waits := setBit U.waits f true }))
        (s.hset Reg.PWR_RAIL_STATUS.PWREN 15).begin)).updSeed (fun U => { U with mates := ms })).pkgCoord)) ∧
  (∀ (s : State) (tr : Fin 256) (ml : List Nat) (ca : Option Flash) (rp : List Nat), s.due sgMemory = true → Leaves (exec (.stageMemory tr ml ca rp) s) (fun u =>
      u = (let fs := allFields.filter (fun (f : FieldId) => decide (s.svc f = svcStarting))
        let t : State := fs.foldl (fun (t : State) f => t.hbmTrain f tr.val) s.begin
        let v : State := if s.hub.seed.warm then t else
          (fs.foldl (fun (t : State) (f : FieldId) => t.updMem (fun m => { m with hbm := m.hbm.set f [], hbmErr := m.hbmErr.set f [] })) t).carryApply ((ca.filter flashOk).map flashCarry)
        fs.foldl (fun (t : State) (f : FieldId) =>
          ((t.fallowMarks f (ml.getD f.val 0)).updMemu f (fun M => { M with overlay := t.overlayOf f })).remapTake f)
          (fs.foldl (fun (t : State × List Nat) f => t.1.repairAll f t.2) (v, rp)).1))) ∧
  (∀ (s : State) (env : LightEnv), s.due sgLight = true → Leaves (exec (.stageLight env) s) (fun u =>
      u = (s.optShow.lightSequence { env with pgoodOpt := s.railUp railOpt }).begin ∧
      u.hub.seed.begun = true)) ∧
  (∀ (s : State), s.due sgLinks = true → Leaves (exec (.stageLinks) s) (fun u =>
      u = s.rims.foldl (fun (t : State) f => (List.range 16).foldl (fun (u : State) k => u.linkStart f (BitVec.ofNat 4 k).toFin) t)
        ((s.rims.foldl (fun (t : State) f => (t.planWrite f).arbWrite f) s.begin).updHub (fun H => { H with linksBegun := true })))) ∧
  (∀ (s : State) (l : List Nat) (r : Fin 16), s.due sgKnownAnswer = true → s.fastPath = true → Leaves (exec (.stageKnownAnswer l r) s) (fun u =>
      u = s.begin.stageClose St.OK true)) ∧
  (∀ (s : State) (l : List Nat) (r : Fin 16), s.due sgKnownAnswer = true → s.fastPath = false → Leaves (exec (.stageKnownAnswer l r) s) (fun u =>
      u = (allFields.filter (fun (f : FieldId) => decide (s.svc f = svcStarting))).foldl (fun (t : State) (f : FieldId) => t.katField f (l.getD f.val 0) (bit r f.val)) s.begin)) ∧
  (∀ (s : State), s.due sgFirmware = true → s.hreg Reg.SEED_CTL.IMAGES_READY ≠ 0 ∨ ((List.range 4).any (fun i => match imgDrill s.image i with | some v => diHost v | none => false)) = false → Leaves (exec (.stageFirmware) s) (fun u =>
      u = (s.bootFields.foldl (fun (t : State) f => t.imageWrite f) s.begin).deliverAll)) ∧
  (∀ (s : State), s.due sgFirmware = true → s.hreg Reg.SEED_CTL.IMAGES_READY = 0 → ((List.range 4).any (fun i => match imgDrill s.image i with | some v => diHost v | none => false)) = true → Leaves (exec (.stageFirmware) s) (fun u =>
      u = (s.bootFields.foldl (fun (t : State) f => t.imageWrite f) s.begin).stageWait)) ∧
  (∀ (s : State), s.due sgFabric = true → Leaves (exec (.stageFabric) s) (fun u =>
      u = (fun (t : State) => (t.sealFailed.elim t t.stageFail).bootSettle) (s.rims.foldl (fun (t : State) f => t.seal f)
        ((s.rims.foldl (fun (t : State) f => (t.planWrite f).fabricRecords f) s.begin).pinRecords.applyWrites sgFabric)))) ∧
  (∀ (s : State), s.due sgReady = true → Leaves (exec (.stageReady) s) (fun u =>
      u.phase = phDone ∧
      u.hreg Reg.SEED_STAGE.RESULT = St.OK ∧
      (∀ f ∈ allFields, s.svc f = svcStarting → u.svc f = svcReady)))

/-- STAGE_END: a stage whose work is done and has come to its end closes (R551 to R558). STAGE_GO: a waiting stage
starts, a gate opens, another stage's sets GO_IGNORED, an early one is kept (R552). STAGE_SKIP: a skippable stage that
waits, or a failed LIGHT, is skipped in host-stepped mode, else it is a GO (R550, R553). HOST_IMAGE and IMAGES_READY:
the request stands, or, where SEED or FIRMWARE waits for it, the image is checked or the delivery goes on (R554,
R573). HOST_LIGHT_RETRY while SEED waits in the dark: the host-light step. PGOOD_TIMEOUT of a field awaited: it is
DARK and its PWREN deasserted (R555). LINKS_STAGE_TIMEOUT ends LINKS with OK (R557), FABRIC_STAGE_TIMEOUT ends FABRIC
with TALLY_UNLOCKED while a tally is not locked (R558). BOOT_FETCH: one step of a running boot ROM (R574). SOWING_ROW:
a row's blocks go out, once it is ready or its time is over (R575). Out of place, nothing changes. Each answers a next
state. Derived, the model's choice: which commands say when a stage's work, its end, a fetch or a timeout comes
(assumption log entry 2), the bound of the boot ROM's run (14), and that a DARK field sows nothing (42). -/
def Obligations.BringUpControlCompletes : Prop :=
  (∀ (s : State), s.hub.seed.begun = true → Leaves (exec (.stageEnd) s) (fun u =>
      u = s.stageEnd.bootSettle)) ∧
  (∀ (s : State), s.stage = sgSeed ∨ s.stage = sgMemory ∨ s.stage = sgKnownAnswer → s.phase = phRunning → s.hub.seed.begun = true → Leaves (exec (.stageEnd) s) (fun u =>
      u = (s.stageClose St.OK false).bootSettle)) ∧
  (∀ (s : State), s.stage = sgPower → s.phase = phRunning → s.hub.seed.begun = true → s.hub.seed.lightDone = true → Leaves (exec (.stageEnd) s) (fun u =>
      u = (s.stageClose St.OK false).bootSettle)) ∧
  (∀ (s : State), s.hub.seed.begun = false → Leaves (exec (.stageEnd) s) (fun u =>
      u = s)) ∧
  (∀ (s : State) (k : Fin 16), k ≠ s.stage → Leaves (exec (.stageGo k) s) (fun u =>
      u = (s.hset Reg.SEED_STAGE.GO_IGNORED 1).bootSettle)) ∧
  (∀ (s : State) (k : Fin 16), k = s.stage → s.phase = phWait → s.hub.seed.begun = false → Leaves (exec (.stageGo k) s) (fun u =>
      u = ((s.setPhase phRunning).updSeed (fun U => { U with since := s.now })).bootSettle)) ∧
  (∀ (s : State) (k : Fin 16), k = s.stage → s.phase = phGated → Leaves (exec (.stageGo k) s) (fun u =>
      u = (s.stageStart (k + 1)).bootSettle)) ∧
  (∀ (s : State) (k : Fin 16), k = s.stage → s.phase ≠ phGated → s.phase ≠ phWait ∨ s.hub.seed.begun = true → Leaves (exec (.stageGo k) s) (fun u =>
      u = (s.updSeed (fun U => { U with ahead := true })).bootSettle)) ∧
  (∀ (s : State) (k : Fin 16), s.hostStepped = true → skippable k = true → k = s.stage → ((s.phase = phWait ∧ s.hub.seed.begun = false) ∨ (s.stage = sgLight ∧ s.phase = phFailed ∧ s.hreg Reg.SEED_STAGE.RESULT ≠ St.NO_FIELD)) → Leaves (exec (.stageSkip k) s) (fun u =>
      u = (s.stageClose St.OK true).bootSettle)) ∧
  (∀ (s : State) (k : Fin 16), s.hostStepped = false ∨ skippable k = false ∨ k ≠ s.stage ∨ ¬((s.phase = phWait ∧ s.hub.seed.begun = false) ∨ (s.stage = sgLight ∧ s.phase = phFailed ∧ s.hreg Reg.SEED_STAGE.RESULT ≠ St.NO_FIELD)) → Leaves (exec (.stageSkip k) s) (fun u =>
      u = (s.stageGo k).bootSettle)) ∧
  (∀ (s : State), s.seedWaits = false → Leaves (exec (.hostImage) s) (fun u =>
      u = s.hset Reg.SEED_CTL.HOST_IMAGE 1)) ∧
  (∀ (s : State) (b : List Byte), s.seedWaits = true → b = s.sramRead 0 (max imgHeader (min imgMax (imgLength (s.sramRead 0 imgHeader)))) → imgCheck b s.hostStepped ≠ St.OK → Leaves (exec (.hostImage) s) (fun u =>
      u = ((s.hset Reg.SEED_CTL.HOST_IMAGE 1).hset Reg.SEED_CTL.HOST_IMAGE 0).imageTried 2 (imgCheck b s.hostStepped) (leAt b 16 8))) ∧
  (∀ (s : State), s.seedWaits = true → Leaves (exec (.hostImage) s) (fun u =>
      u = (fun (b : List Byte) (t : State) => if imgCheck b s.hostStepped = St.OK then (t.imageAccept 2 b).stageResume else t) (s.sramRead 0 (max imgHeader (min imgMax (imgLength (s.sramRead 0 imgHeader)))))
        (((s.hset Reg.SEED_CTL.HOST_IMAGE 1).hset Reg.SEED_CTL.HOST_IMAGE 0).imageTried 2 (imgCheck (s.sramRead 0 (max imgHeader (min imgMax (imgLength (s.sramRead 0 imgHeader))))) s.hostStepped) (leAt (s.sramRead 0 (max imgHeader (min imgMax (imgLength (s.sramRead 0 imgHeader))))) 16 8)))) ∧
  (∀ (s : State), s.stage ≠ sgFirmware ∨ s.phase ≠ phWait ∨ s.hub.seed.begun = false → Leaves (exec (.imagesReady) s) (fun u =>
      u = s.hset Reg.SEED_CTL.IMAGES_READY 1)) ∧
  (∀ (s : State), s.stage = sgFirmware → s.phase = phWait → s.hub.seed.begun = true → Leaves (exec (.imagesReady) s) (fun u =>
      u = (s.hset Reg.SEED_CTL.IMAGES_READY 1).stageResume.deliverAll)) ∧
  (∀ (s : State) (env : LightEnv), s.seedWaits = true → s.engIsDark 16 = true → Leaves (exec (.hostLightRetry env) s) (fun u =>
      u = s.hostLightStep env)) ∧
  (∀ (s : State) (env : LightEnv), s.seedWaits = false ∨ s.engIsDark 16 = false → Leaves (exec (.hostLightRetry env) s) (fun u =>
      u = s)) ∧
  (∀ (s : State) (f : FieldId), s.working sgFieldPower = true → bit s.hub.seed.waits f.val = true → Leaves (exec (.pgoodTimeout f) s) (fun u =>
      u.svc f = svcDark ∧
      bit u.hub.seed.waits f.val = false ∧
      u = ((s.pwrenDrop f).fieldDark f).updSeed (fun U => { U with waits := setBit U.waits f false }))) ∧
  (∀ (s : State) (f : FieldId), s.working sgFieldPower = false ∨ bit s.hub.seed.waits f.val = false → Leaves (exec (.pgoodTimeout f) s) (fun u =>
      u = s)) ∧
  (∀ (s : State), s.working sgLinks = true → Leaves (exec (.linksStageTimeout) s) (fun u =>
      u = (s.stageClose St.OK false).bootSettle)) ∧
  (∀ (s : State), s.working sgLinks = false → Leaves (exec (.linksStageTimeout) s) (fun u =>
      u = s)) ∧
  (∀ (s : State), s.working sgFabric = true → s.sealFailed = none → s.talliesLocked = false → Leaves (exec (.fabricStageTimeout) s) (fun u =>
      u = (s.stageClose St.TALLY_UNLOCKED false).bootSettle)) ∧
  (∀ (s : State), s.working sgFabric = false ∨ s.sealFailed.isSome = true ∨ s.talliesLocked = true → Leaves (exec (.fabricStageTimeout) s) (fun u =>
      u = s)) ∧
  (∀ (s : State) (f : FieldId) (p : PlotId) (v : List Byte), s.bootRuns f p = true → s.partitionUp f = true → imgDrill s.image (s.preg f p Reg.PLT_BOOT.IMAGE) = some v → s.preg f p Reg.PLT_BOOT.STATUS = pbWait → Leaves (exec (.bootFetch f p) s) (fun u =>
      u.preg f p Reg.PLT_BOOT.STATUS = (if s.preg f p Reg.PLT_BOOT.SOW = 1 ∧ s.svc f = svcStarting ∧ (s.field f).sow.contains (s.preg f p Reg.PLT_BOOT.IMAGE, p.val / 16) = true then pbReceive else pbFetching) ∧
      (u.plot f p).boot.todo = List.range (diBlocks v))) ∧
  (∀ (s : State) (f : FieldId) (p : PlotId) (v : List Byte), s.bootRuns f p = true → s.partitionUp f = true → imgDrill s.image (s.preg f p Reg.PLT_BOOT.IMAGE) = some v → s.preg f p Reg.PLT_BOOT.STATUS = pbFetching → Leaves (exec (.bootFetch f p) s) (fun u =>
      u = s.bootBlock f p v)) ∧
  (∀ (s : State) (f : FieldId) (p : PlotId) (v : List Byte), s.bootRuns f p = true → s.partitionUp f = true → imgDrill s.image (s.preg f p Reg.PLT_BOOT.IMAGE) = some v → s.preg f p Reg.PLT_BOOT.STATUS = pbFetching → (s.plot f p).boot.todo = [] → Leaves (exec (.bootFetch f p) s) (fun u =>
      u.preg f p Reg.PLT_BOOT.STATUS = pbLoaded ∧
      (u.plot f p).drill.pc = diEntry v)) ∧
  (∀ (s : State) (f : FieldId) (p : PlotId), s.bootRuns f p = false ∨ s.partitionUp f = false ∨ imgDrill s.image (s.preg f p Reg.PLT_BOOT.IMAGE) = none ∨ (s.preg f p Reg.PLT_BOOT.STATUS ≠ pbWait ∧ s.preg f p Reg.PLT_BOOT.STATUS ≠ pbFetching) → Leaves (exec (.bootFetch f p) s) (fun u =>
      u = s)) ∧
  (∀ (s : State) (f : FieldId) (i row : Nat) (rest : List (Nat × Nat)) (v : List Byte) (t : Bool), s.svc f ≠ svcDark → (s.field f).sow = (i, row) :: rest → imgDrill s.image i = some v → (mcastPlots true row (s.sowMask f i row)).all (fun p => decide (s.preg f p Reg.PLT_BOOT.STATUS = pbReceive)) = true ∨ t = true → s.partitionUp f = true → Leaves (exec (.sowingRow f t) s) (fun u =>
      u = (((List.range (diBlocks v)).foldl (fun (t : State) k => t.sowBlock f true row (s.sowMask f i row) i k) s).sowRowEnd f row (s.sowMask f i row)).updField f (fun F => { F with sow := rest }) ∧
      (u.field f).sow = rest)) ∧
  (∀ (s : State) (f : FieldId) (i row : Nat) (rest : List (Nat × Nat)) (v : List Byte) (t : Bool), s.svc f ≠ svcDark → (s.field f).sow = (i, row) :: rest → imgDrill s.image i = some v → ((mcastPlots true row (s.sowMask f i row)).all (fun p => decide (s.preg f p Reg.PLT_BOOT.STATUS = pbReceive)) = false ∧ t = false) ∨ s.partitionUp f = false → Leaves (exec (.sowingRow f t) s) (fun u =>
      u = s)) ∧
  (∀ (s : State) (f : FieldId) (i row : Nat) (rest : List (Nat × Nat)) (t : Bool), s.svc f ≠ svcDark → (s.field f).sow = (i, row) :: rest → imgDrill s.image i = none → Leaves (exec (.sowingRow f t) s) (fun u =>
      u = s.updField f (fun F => { F with sow := rest }))) ∧
  (∀ (s : State) (f : FieldId) (t : Bool), s.svc f = svcDark ∨ (s.field f).sow = [] → Leaves (exec (.sowingRow f t) s) (fun u =>
      u = s))

/-- A Memory Read or Write of the host within the longest TLP, with the link up, takes effect, or waits behind one of
its source or for a bin scoreboard (R606, R692). With nothing held or waiting and the link in L0, a read that its
window admits returns the bytes found in completions of at most 512 bytes, of hub SRAM the private part as 0; one it
cannot meet is answered with its status (R604). A write likewise: into hub SRAM, into the lines of an aperture, into a
register; discarded with an AER record where it may not be, logged as poisoned in BAR0 with EP. REGISTER_WRITE: of the
host as a write through BAR0, of Yarzin at once or waiting, of a drill in its own window, of the tester on JTAG in hub
register space (R13, R581). In Recovery a host's access is held, in order, and those held go first once the link is up
(R597). An access of a length or an alignment that R15 does not allow, of a space not its own, with the link down, or
beyond the longest TLP does nothing. Each answers a next state. Derived, the model's choice: that accesses and TLPs of
another form are ignored (assumption log entry 13), what counts as a wait (20), where a read is split and when held
accesses are served (44), and what an unlocked tester reaches (44). -/
def Obligations.HostAccessesComplete : Prop :=
  (∀ (s : State) (fn : Fin 5) (b2 : Bool) (a n : Nat), s.hostUp = true → n ≤ maxRead → Leaves (exec (.memoryRead fn b2 a n) s) (fun u =>
      u = s.heldServe.hostWake.request fn.val (.read fn.val b2 a n))) ∧
  (∀ (s : State) (a n : Nat), s.hostLink = hpL0 → s.hub.host.held = [] → s.hub.host.wait = [] → bit s.hub.host.d3 0 = false → n ≤ maxRead → a + n ≤ 0x1000000 → Leaves (exec (.memoryRead 0 true a n) s) (fun u =>
      u = (cplPieces a n).foldl (fun (t : State) x => t.emit (.completion 0 cplOk false (t.sramWindow x.1 x.2))) s)) ∧
  (∀ (s : State) (fn : Fin 5) (b2 : Bool) (a n : Nat), s.hostLink = hpL0 → s.hub.host.held = [] → s.hub.host.wait = [] → n ≤ maxRead → s.reqWaits (.read fn.val b2 a n) (s.reqQsn (.read fn.val b2 a n)) = false → s.barStatus fn.val b2 a n = cplOk → Leaves (exec (.memoryRead fn b2 a n) s) (fun u =>
      u = (cplPieces a n).foldl (fun (t : State) x => (t.readData fn.val b2 x.1 x.2).1.emit (.completion fn cplOk (t.readData fn.val b2 x.1 x.2).2.1 (t.readData fn.val b2 x.1 x.2).2.2)) s)) ∧
  (∀ (s : State) (fn : Fin 5) (b2 : Bool) (a n : Nat), s.hostLink = hpL0 → s.hub.host.held = [] → s.hub.host.wait = [] → n ≤ maxRead → s.reqWaits (.read fn.val b2 a n) (s.reqQsn (.read fn.val b2 a n)) = false → s.barStatus fn.val b2 a n ≠ cplOk → Leaves (exec (.memoryRead fn b2 a n) s) (fun u =>
      u = s.emit (.completion fn (s.barStatus fn.val b2 a n) false []))) ∧
  (∀ (s : State) (fn : Fin 5) (b2 : Bool) (a n : Nat), s.hostLink = hpL0 → s.hub.host.held = [] → s.hub.host.wait = [] → n ≤ maxRead → s.reqWaits (.read fn.val b2 a n) (s.reqQsn (.read fn.val b2 a n)) = true → Leaves (exec (.memoryRead fn b2 a n) s) (fun u =>
      u.hub.host.wait = [⟨fn.val, (.read fn.val b2 a n), s.reqQsn (.read fn.val b2 a n)⟩] ∧
      u.out = s.out)) ∧
  (∀ (s : State) (fn : Fin 5) (b2 : Bool) (a n : Nat), (s.hostUp = false ∧ s.hostLink ≠ hpRecovery) ∨ maxRead < n → Leaves (exec (.memoryRead fn b2 a n) s) (fun u =>
      u = s)) ∧
  (∀ (s : State) (fn : Fin 5) (b2 : Bool) (a n : Nat), s.hostLink = hpRecovery → n ≤ maxRead → Leaves (exec (.memoryRead fn b2 a n) s) (fun u =>
      u = s.updHost (fun U => { U with held := U.held ++ [(fn.val, (.read fn.val b2 a n))] }))) ∧
  (∀ (s : State) (fn : Fin 5) (b2 : Bool) (a be : Nat) (d : List Byte) (ep : Bool), s.hostUp = true → d.length ≤ maxPayload → Leaves (exec (.memoryWrite fn b2 a d be ep) s) (fun u =>
      u = s.heldServe.hostWake.request fn.val (.write fn.val b2 a d be ep))) ∧
  (∀ (s : State) (a be : Nat) (d : List Byte) (ep : Bool), s.hostLink = hpL0 → s.hub.host.held = [] → s.hub.host.wait = [] → bit s.hub.host.d3 0 = false → d.length ≤ maxPayload → a + d.length ≤ 0x1000000 → Leaves (exec (.memoryWrite 0 true a d be ep) s) (fun u =>
      u = s.sramPost a d be)) ∧
  (∀ (s : State) (fn : Fin 5) (b2 : Bool) (a be : Nat) (d : List Byte) (ep : Bool), s.hostLink = hpL0 → s.hub.host.held = [] → s.hub.host.wait = [] → d.length ≤ maxPayload → s.reqWaits (.write fn.val b2 a d be ep) (s.reqQsn (.write fn.val b2 a d be ep)) = false → s.barStatus fn.val b2 a d.length = cplOk → b2 = true → fn ≠ 0 → Leaves (exec (.memoryWrite fn b2 a d be ep) s) (fun u =>
      u = s.apertureWrite fn.val (s.freg (fnField fn.val) Reg.FLD_APERTURE.BASE * 2 ^ 30 + a) d be ep)) ∧
  (∀ (s : State) (fn : Fin 5) (b2 : Bool) (a be : Nat) (d : List Byte) (ep : Bool), s.hostLink = hpL0 → s.hub.host.held = [] → s.hub.host.wait = [] → d.length ≤ maxPayload → s.reqWaits (.write fn.val b2 a d be ep) (s.reqQsn (.write fn.val b2 a d be ep)) = false → s.barStatus fn.val b2 a d.length = cplOk → b2 = false → be % 2 ^ d.length = 2 ^ d.length - 1 → ep = false → Leaves (exec (.memoryWrite fn b2 a d be ep) s) (fun u =>
      u = (s.spaceWrite true (fnSpace fn.val) a d.length (leNat d)).bootSettle)) ∧
  (∀ (s : State) (fn : Fin 5) (b2 : Bool) (a be : Nat) (d : List Byte) (ep : Bool), s.hostLink = hpL0 → s.hub.host.held = [] → s.hub.host.wait = [] → d.length ≤ maxPayload → s.reqWaits (.write fn.val b2 a d be ep) (s.reqQsn (.write fn.val b2 a d be ep)) = false → s.barStatus fn.val b2 a d.length = cplOk → b2 = false → be % 2 ^ d.length = 2 ^ d.length - 1 → ep = true → Leaves (exec (.memoryWrite fn b2 a d be ep) s) (fun u =>
      u = s.updHost (fun U => { U with aerPoison := setBit U.aerPoison fn true }))) ∧
  (∀ (s : State) (fn : Fin 5) (b2 : Bool) (a be : Nat) (d : List Byte) (ep : Bool), s.hostLink = hpL0 → s.hub.host.held = [] → s.hub.host.wait = [] → d.length ≤ maxPayload → s.reqWaits (.write fn.val b2 a d be ep) (s.reqQsn (.write fn.val b2 a d be ep)) = false → s.barStatus fn.val b2 a d.length = cplOk → b2 = false → be % 2 ^ d.length ≠ 2 ^ d.length - 1 → Leaves (exec (.memoryWrite fn b2 a d be ep) s) (fun u =>
      u = s.updHost (fun U => { U with aerDrop := setBit U.aerDrop fn true }))) ∧
  (∀ (s : State) (fn : Fin 5) (b2 : Bool) (a be : Nat) (d : List Byte) (ep : Bool), s.hostLink = hpL0 → s.hub.host.held = [] → s.hub.host.wait = [] → d.length ≤ maxPayload → s.reqWaits (.write fn.val b2 a d be ep) (s.reqQsn (.write fn.val b2 a d be ep)) = false → s.barStatus fn.val b2 a d.length ≠ cplOk → Leaves (exec (.memoryWrite fn b2 a d be ep) s) (fun u =>
      bit u.hub.host.aerDrop fn = true ∧
      u = s.updHost (fun U => { U with aerDrop := setBit U.aerDrop fn true }))) ∧
  (∀ (s : State) (fn : Fin 5) (b2 : Bool) (a be : Nat) (d : List Byte) (ep : Bool), s.hostLink = hpL0 → s.hub.host.held = [] → s.hub.host.wait = [] → d.length ≤ maxPayload → s.reqWaits (.write fn.val b2 a d be ep) (s.reqQsn (.write fn.val b2 a d be ep)) = true → Leaves (exec (.memoryWrite fn b2 a d be ep) s) (fun u =>
      u.hub.host.wait = [⟨fn.val, (.write fn.val b2 a d be ep), s.reqQsn (.write fn.val b2 a d be ep)⟩] ∧
      u.mem = s.mem)) ∧
  (∀ (s : State) (fn : Fin 5) (b2 : Bool) (a be : Nat) (d : List Byte) (ep : Bool), (s.hostUp = false ∧ s.hostLink ≠ hpRecovery) ∨ maxPayload < d.length → Leaves (exec (.memoryWrite fn b2 a d be ep) s) (fun u =>
      u = s)) ∧
  (∀ (s : State) (fn : Fin 5) (b2 : Bool) (a be : Nat) (d : List Byte) (ep : Bool), s.hostLink = hpRecovery → d.length ≤ maxPayload → Leaves (exec (.memoryWrite fn b2 a d be ep) s) (fun u =>
      u = s.updHost (fun U => { U with held := U.held ++ [(fn.val, (.write fn.val b2 a d be ep))] }))) ∧
  (∀ (s : State) (fn : Fin 5) (a n v : Nat), s.hostUp = true → accessOk a n = true → Leaves (exec (.registerWrite (.host fn) (fnSpace fn.val) a n v) s) (fun u =>
      u = s.heldServe.hostWake.request fn.val (.write fn.val false a (leBytes n v) (2 ^ n - 1) false))) ∧
  (∀ (s : State) (fn : Fin 5) (a n v : Nat), s.hostLink = hpL0 → s.hub.host.held = [] → s.hub.host.wait = [] → accessOk a n = true → s.reqWaits (.write fn.val false a (leBytes n v) (2 ^ n - 1) false) (s.reqQsn (.write fn.val false a (leBytes n v) (2 ^ n - 1) false)) = false → s.barStatus fn.val false a n = cplOk → Leaves (exec (.registerWrite (.host fn) (fnSpace fn.val) a n v) s) (fun u =>
      u = (s.spaceWrite true (fnSpace fn.val) a n (leNat (leBytes n v))).bootSettle)) ∧
  (∀ (s : State) (fn : Fin 5) (sp : Space) (a n v : Nat), sp ≠ fnSpace fn.val ∨ (s.hostUp = false ∧ s.hostLink ≠ hpRecovery) → Leaves (exec (.registerWrite (.host fn) sp a n v) s) (fun u =>
      u = s)) ∧
  (∀ (s : State) (fn : Fin 5) (a n v : Nat), s.hostLink = hpRecovery → accessOk a n = true → Leaves (exec (.registerWrite (.host fn) (fnSpace fn.val) a n v) s) (fun u =>
      u = s.updHost (fun U => { U with held := U.held ++ [(fn.val, (.write fn.val false a (leBytes n v) (2 ^ n - 1) false))] }))) ∧
  (∀ (s : State) (sp : Space) (a n v : Nat), accessOk a n = true → Leaves (exec (.registerWrite .yarzin sp a n v) s) (fun u =>
      u = s.request 5 (.reg sp a n (v % 2 ^ (8 * n))))) ∧
  (∀ (s : State) (sp : Space) (a n v : Nat), s.hub.host.wait = [] → accessOk a n = true → s.reqWaits (.reg sp a n (v % 2 ^ (8 * n))) (s.reqQsn (.reg sp a n (v % 2 ^ (8 * n)))) = false → Leaves (exec (.registerWrite .yarzin sp a n v) s) (fun u =>
      u = (s.agentWrite .yarzin sp a n (v % 2 ^ (8 * n))).bootSettle)) ∧
  (∀ (s : State) (sp : Space) (a n v : Nat), s.hub.host.wait = [] → accessOk a n = true → s.reqWaits (.reg sp a n (v % 2 ^ (8 * n))) (s.reqQsn (.reg sp a n (v % 2 ^ (8 * n)))) = true → Leaves (exec (.registerWrite .yarzin sp a n v) s) (fun u =>
      u.hub.host.wait = [⟨5, (.reg sp a n (v % 2 ^ (8 * n))), s.reqQsn (.reg sp a n (v % 2 ^ (8 * n)))⟩])) ∧
  (∀ (s : State) (f : FieldId) (p : PlotId) (sp : Space) (a v : Nat), accessOk a 4 = true → Leaves (exec (.registerWrite (.drill f p) sp a 4 v) s) (fun u =>
      u = s.agentWrite (.drill f p) sp a 4 (v % 2 ^ 32))) ∧
  (∀ (s : State) (f : FieldId) (p : PlotId) (sp : Space) (a n v : Nat), n ≠ 4 → Leaves (exec (.registerWrite (.drill f p) sp a n v) s) (fun u =>
      u = s)) ∧
  (∀ (s : State) (ag : Agent) (sp : Space) (a n v : Nat), accessOk a n = false → Leaves (exec (.registerWrite ag sp a n v) s) (fun u =>
      u = s)) ∧
  (∀ (s : State) (sp : Space) (a n v : Nat), accessOk a n = true → Leaves (exec (.registerWrite .jtag sp a n v) s) (fun u =>
      u = (s.agentWrite .jtag sp a n (v % 2 ^ (8 * n))).bootSettle))

/-- FUNCTION_LEVEL_RESET: the function's event ring is disabled with PROD 0, its D3 and AER bits, its MSI-X enable and
masks, and its waiting and held requests are gone, its mailbox endpoints, of PF0 the management registers, of another
its aperture, at their reset values (R602). POWER_STATE_CHANGE: D3 is kept. HOST_LINK_RECOVERY outside a switchover:
with fewer than four wavelengths the link is DOWN, else in L0, and a pending RETRAIN is acted on (R597, R598).
HOST_RETRAIN: the link goes through Recovery from L0 or L1, else RETRAIN stands (R620). MSIX_MESSAGE: what the host has
written of the function's enable and masks is kept, and a message due that they let go goes out once (R610).
EVT_CONS_WRITE: CONS is written and messages may be sent again (R624). EVT_RING_CONFIG: SIZE_LOG is kept to 6 to 15, and
a change of it or of BASE sets PROD and CONS to 0 (R623). What is not due does nothing. Each answers a next state.
Derived, the model's choice: how the function's MSI-X enable and masks reach the model (assumption log entry 13), which
commands say when the port's work happens (2), and what Recovery holds (44). -/
def Obligations.HostFunctionCommandsComplete : Prop :=
  (∀ (s : State), Leaves (exec (.functionLevelReset 0) s) (fun u =>
      u.hreg Reg.HUB_EVT_RING.ENABLE = 0 ∧
      u.hreg Reg.HUB_EVT_IDX.PROD = 0 ∧
      bit u.hub.host.d3 0 = false ∧
      bit u.hub.host.aerDrop 0 = false ∧
      u.hub.host.mgmt = none ∧
      u = (((s.updHost (fun U => { U with d3 := setBit U.d3 0 false, aerDrop := setBit U.aerDrop 0 false, aerPoison := setBit U.aerPoison 0 false, wait := U.wait.filter (fun a => a.src ≠ 0), held := U.held.filter (fun a => a.1 ≠ 0), msix := SMap.erase U.msix 0 })).evtReset .hub).mbxReset .host).mgmtReset)) ∧
  (∀ (s : State) (fn : Fin 5), fn ≠ 0 → Leaves (exec (.functionLevelReset fn) s) (fun u =>
      u.freg (fnField fn) Reg.FLD_EVT_RING.ENABLE = 0 ∧
      u.freg (fnField fn) Reg.FLD_EVT_IDX.PROD = 0 ∧
      u.freg (fnField fn) Reg.FLD_APERTURE.BASE = 0 ∧
      bit u.hub.host.d3 fn = false ∧
      u = ((((s.updHost (fun U => { U with d3 := setBit U.d3 fn.val false, aerDrop := setBit U.aerDrop fn.val false, aerPoison := setBit U.aerPoison fn.val false, wait := U.wait.filter (fun a => a.src ≠ fn.val), held := U.held.filter (fun a => a.1 ≠ fn.val), msix := SMap.erase U.msix fn.val })).evtReset (.field (fnField fn))).mbxReset (.fld (fnField fn))).mbxReset (.rimp (fnField fn))).fset (fnField fn) Reg.FLD_APERTURE.BASE 0)) ∧
  (∀ (s : State) (fn : Fin 5) (d : Bool), Leaves (exec (.powerStateChange fn d) s) (fun u =>
      u = s.updHost (fun U => { U with d3 := setBit U.d3 fn d }) ∧
      bit u.hub.host.d3 fn = d)) ∧
  (∀ (s : State), s.hostLink = hpRecovery → s.hreg Reg.HUB_HOST_PHY_STATUS.PAUSE ≠ 1 → s.hostLanes < 4 → Leaves (exec (.hostLinkRecovery) s) (fun u =>
      u = s.hostSet hpDown ∧
      u.hostLink = hpDown)) ∧
  (∀ (s : State), s.hostLink = hpRecovery → s.hreg Reg.HUB_HOST_PHY_STATUS.PAUSE ≠ 1 → 4 ≤ s.hostLanes → Leaves (exec (.hostLinkRecovery) s) (fun u =>
      u = (s.hostSet hpL0).retrainDo)) ∧
  (∀ (s : State), s.hostLink = hpRecovery → s.hreg Reg.HUB_HOST_PHY_STATUS.PAUSE ≠ 1 → 4 ≤ s.hostLanes → s.hreg Reg.HUB_HOST_PHY_CTL.RETRAIN ≠ 1 → Leaves (exec (.hostLinkRecovery) s) (fun u =>
      u.hostLink = hpL0)) ∧
  (∀ (s : State), s.hostLink ≠ hpRecovery ∨ s.hreg Reg.HUB_HOST_PHY_STATUS.PAUSE = 1 → Leaves (exec (.hostLinkRecovery) s) (fun u =>
      u = s)) ∧
  (∀ (s : State), s.hostLink ≠ hpL0 → s.hostLink ≠ hpL1 → Leaves (exec (.hostRetrain) s) (fun u =>
      u = s.hset Reg.HUB_HOST_PHY_CTL.RETRAIN 1)) ∧
  (∀ (s : State), s.hostLink = hpL0 ∨ s.hostLink = hpL1 → Leaves (exec (.hostRetrain) s) (fun u =>
      u = ((s.hset Reg.HUB_HOST_PHY_CTL.RETRAIN 1).hset Reg.HUB_HOST_PHY_CTL.RETRAIN 0).hostRecover)) ∧
  (∀ (s : State) (fn : Fin 5) (c : Fin 12), bit (SMap.get s.hub.msixDue 0 fn) c = true → msixLets (s.msixOf fn) c = true → s.hostUp = true → s.fnReaches fn = true → Leaves (exec (.msixMessage fn c none) s) (fun u =>
      u = ((s.updHub (fun H => { H with
        msixDue := SMap.set H.msixDue 0 fn (setBit (SMap.get H.msixDue 0 fn) c false),
        msixSent := if mailboxClass fn c then H.msixSent else SMap.set H.msixSent 0 fn (setBit (SMap.get H.msixSent 0 fn) c true) })).hostWake.emit (.msix fn c)))) ∧
  (∀ (s : State) (fn : Fin 5) (c : Fin 12) (g : MsixConfig), bit (SMap.get s.hub.msixDue 0 fn) c = true → msixLets g c = true → s.hostLink = hpL0 → s.fnReaches fn = true → Leaves (exec (.msixMessage fn c (some g)) s) (fun u =>
      u.out = s.out ++ [.msix fn c] ∧
      u.msixOf fn = g ∧
      bit (SMap.get u.hub.msixDue 0 fn) c = false ∧
      (mailboxClass fn c = false → bit (SMap.get u.hub.msixSent 0 fn) c = true))) ∧
  (∀ (s : State) (fn : Fin 5) (c : Fin 12), bit (SMap.get s.hub.msixDue 0 fn) c = false ∨ msixLets (s.msixOf fn) c = false ∨ s.hostUp = false ∨ s.fnReaches fn = false → Leaves (exec (.msixMessage fn c none) s) (fun u =>
      u = s)) ∧
  (∀ (s : State) (fn : Fin 5) (c : Fin 12) (g : MsixConfig), bit (SMap.get s.hub.msixDue 0 fn) c = false ∨ msixLets g c = false ∨ s.hostUp = false ∨ s.fnReaches fn = false → Leaves (exec (.msixMessage fn c (some g)) s) (fun u =>
      u.msixOf fn = g ∧
      u = s.updHost (fun U => { U with msix := SMap.set U.msix msixInit fn g }))) ∧
  (∀ (s : State) (v : Nat), Leaves (exec (.evtConsWrite .hub v) s) (fun u =>
      u.hreg Reg.HUB_EVT_IDX.CONS = v % 2 ^ 16 ∧
      SMap.get u.hub.msixSent 0 0 = 0)) ∧
  (∀ (s : State) (f : FieldId) (v : Nat), Leaves (exec (.evtConsWrite (.field f) v) s) (fun u =>
      u.freg f Reg.FLD_EVT_IDX.CONS = v % 2 ^ 16 ∧
      SMap.get u.hub.msixSent 0 (f + 1) = 0)) ∧
  (∀ (s : State) (e : Bool) (z b : Nat), s.hreg Reg.HUB_EVT_RING.SIZE_LOG ≠ max 6 (min 15 (z % 16)) ∨ s.hreg Reg.HUB_EVT_RING.BASE ≠ b % 2 ^ 36 → Leaves (exec (.evtRingConfig .hub e z b) s) (fun u =>
      u.hreg Reg.HUB_EVT_RING.ENABLE = b2n e ∧
      u.hreg Reg.HUB_EVT_RING.SIZE_LOG = max 6 (min 15 (z % 16)) ∧
      u.hreg Reg.HUB_EVT_RING.BASE = b % 2 ^ 36 ∧
      u.hreg Reg.HUB_EVT_IDX.PROD = 0 ∧
      u.hreg Reg.HUB_EVT_IDX.CONS = 0)) ∧
  (∀ (s : State) (e : Bool) (z b : Nat), s.hreg Reg.HUB_EVT_RING.SIZE_LOG = max 6 (min 15 (z % 16)) → s.hreg Reg.HUB_EVT_RING.BASE = b % 2 ^ 36 → Leaves (exec (.evtRingConfig .hub e z b) s) (fun u =>
      u.hreg Reg.HUB_EVT_RING.ENABLE = b2n e ∧
      u.hreg Reg.HUB_EVT_RING.SIZE_LOG = max 6 (min 15 (z % 16)) ∧
      u.hreg Reg.HUB_EVT_RING.BASE = b % 2 ^ 36 ∧
      u.hreg Reg.HUB_EVT_IDX.PROD = s.hreg Reg.HUB_EVT_IDX.PROD ∧
      u.hreg Reg.HUB_EVT_IDX.CONS = s.hreg Reg.HUB_EVT_IDX.CONS)) ∧
  (∀ (s : State) (f : FieldId) (e : Bool) (z b : Nat), s.freg f Reg.FLD_EVT_RING.SIZE_LOG ≠ max 6 (min 15 (z % 16)) ∨ s.freg f Reg.FLD_EVT_RING.BASE ≠ b % 2 ^ 36 → Leaves (exec (.evtRingConfig (.field f) e z b) s) (fun u =>
      u.freg f Reg.FLD_EVT_RING.ENABLE = b2n e ∧
      u.freg f Reg.FLD_EVT_RING.SIZE_LOG = max 6 (min 15 (z % 16)) ∧
      u.freg f Reg.FLD_EVT_RING.BASE = b % 2 ^ 36 ∧
      u.freg f Reg.FLD_EVT_IDX.PROD = 0 ∧
      u.freg f Reg.FLD_EVT_IDX.CONS = 0)) ∧
  (∀ (s : State) (f : FieldId) (e : Bool) (z b : Nat), s.freg f Reg.FLD_EVT_RING.SIZE_LOG = max 6 (min 15 (z % 16)) → s.freg f Reg.FLD_EVT_RING.BASE = b % 2 ^ 36 → Leaves (exec (.evtRingConfig (.field f) e z b) s) (fun u =>
      u.freg f Reg.FLD_EVT_RING.ENABLE = b2n e ∧
      u.freg f Reg.FLD_EVT_RING.SIZE_LOG = max 6 (min 15 (z % 16)) ∧
      u.freg f Reg.FLD_EVT_RING.BASE = b % 2 ^ 36 ∧
      u.freg f Reg.FLD_EVT_IDX.PROD = s.freg f Reg.FLD_EVT_IDX.PROD ∧
      u.freg f Reg.FLD_EVT_IDX.CONS = s.freg f Reg.FLD_EVT_IDX.CONS))

/-- MGMT_READ: BUSY while one is in progress, MGMT_REFUSED where it may not go, else BUSY is 1 and the read goes out by
the lowest rim in service (R612). MGMT_READ_SERVE of a rim in service: a read for the field is queued, or discarded
where 16 wait; the oldest is served, unless one of its words waits on a bin scoreboard, which counts (R678, R692).
MGMT_REPLY of the read in progress: its words are shown, RESULT OK; any other only leaves the routers.
MGMT_TIMEOUT_EXPIRY: RESULT MGMT_TIMEOUT. EVENT_FORWARD: the oldest record goes to the collector, or is dropped where no
way leads there; FWD_DISCARD_TIMEOUT: it is dropped and counted (R613, R679). FORWARDED_EVENT: it enters the collector's
hub ring, class, flag and index that ring's. Where there is nothing of the kind, nothing changes. Each answers a next
state. Derived, the model's choice: what management packets carry (assumption log entry 10), BIN_WAIT of a waiting read
(20), which commands say when packets go and come (2), and that a DARK field takes none (42). -/
def Obligations.ManagementCommandsComplete : Prop :=
  (∀ (s : State) (n o w : Nat), s.hreg Reg.HUB_MGMT_STATUS.BUSY = 1 → Leaves (exec (.mgmtRead n o w) s) (fun u =>
      u = s.hset Reg.HUB_MGMT_STATUS.RESULT St.BUSY)) ∧
  (∀ (s : State) (n o w : Nat), s.hreg Reg.HUB_MGMT_STATUS.BUSY ≠ 1 → (s.hreg Reg.HUB_MGMT_CTL.ENABLE = 0 ∨ w % 2 ^ 5 = 0 ∨ 16 < w % 2 ^ 5 ∨ o % 2 ^ 28 % 8 ≠ 0) → Leaves (exec (.mgmtRead n o w) s) (fun u =>
      u = s.hset Reg.HUB_MGMT_STATUS.RESULT St.MGMT_REFUSED)) ∧
  (∀ (s : State) (n o w : Nat) (g : FieldId), s.hreg Reg.HUB_MGMT_STATUS.BUSY ≠ 1 → ¬(s.hreg Reg.HUB_MGMT_CTL.ENABLE = 0 ∨ w % 2 ^ 5 = 0 ∨ 16 < w % 2 ^ 5 ∨ o % 2 ^ 28 % 8 ≠ 0) → s.lowRim = some g → Leaves (exec (.mgmtRead n o w) s) (fun u =>
      u = ((s.hset Reg.HUB_MGMT_STATUS.BUSY 1).updHost (fun U => { U with mgmt := some (n % 2 ^ 16, w % 2 ^ 5) })).issuePacket g 0 (((s.hset Reg.HUB_MGMT_STATUS.BUSY 1).updHost (fun U => { U with mgmt := some (n % 2 ^ 16, w % 2 ^ 5) })).newPacket g (n % 2 ^ 16) 0 0 (mgmtBody kMgmtRead (w % 2 ^ 5) (o % 2 ^ 28) [])))) ∧
  (∀ (s : State) (n o w : Nat), s.hreg Reg.HUB_MGMT_STATUS.BUSY ≠ 1 → ¬(s.hreg Reg.HUB_MGMT_CTL.ENABLE = 0 ∨ w % 2 ^ 5 = 0 ∨ 16 < w % 2 ^ 5 ∨ o % 2 ^ 28 % 8 ≠ 0) → Leaves (exec (.mgmtRead n o w) s) (fun u =>
      u.hreg Reg.HUB_MGMT_STATUS.BUSY = 1 ∧
      u.hub.host.mgmt = some (n % 2 ^ 16, w % 2 ^ 5))) ∧
  (∀ (s : State) (f : FieldId) (m : MgmtWait) (l : List MgmtWait), s.rimUp f = true → (s.field f).mgmtq = m :: l → m.words.any (fun w => s.readWaits f w.1 w.2) = false → Leaves (exec (.mgmtReadServe f none) s) (fun u =>
      (u.field f).mgmtq = l ∧
      u = (fun (t : State × List Byte) => t.1.issuePacket f 0 (t.1.newPacket f m.pkt.src 0 0 (mgmtBody kMgmtReply (pktField m.pkt 17 1) (pktField m.pkt 20 4) t.2)))
        ((s.updField f (fun F => { F with mgmtq := l })).fieldReads f (pktField m.pkt 20 4) (pktField m.pkt 17 1)))) ∧
  (∀ (s : State) (f : FieldId) (m : MgmtWait) (l : List MgmtWait) (w : Nat × Nat), s.rimUp f = true → (s.field f).mgmtq = m :: l → m.words.find? (fun w => s.readWaits f w.1 w.2) = some w → Leaves (exec (.mgmtReadServe f none) s) (fun u =>
      u = s.readWaited f w.1)) ∧
  (∀ (s : State) (f : FieldId), s.rimUp f = false ∨ (s.field f).mgmtq = [] → Leaves (exec (.mgmtReadServe f none) s) (fun u =>
      u = s)) ∧
  (∀ (s : State) (f : FieldId) (p : Packet), s.rimUp f = true → s.mgmtOk f kMgmtRead p = true → (s.field f).mgmtq.length < mgmtQueue → Leaves (exec (.mgmtReadServe f (some p)) s) (fun u =>
      u = (s.takeInbox f p).updField f (fun F => { F with mgmtq := F.mgmtq ++ [(s.takeInbox f p).mgmtArrive f p] }))) ∧
  (∀ (s : State) (f : FieldId) (p : Packet), s.rimUp f = true → s.mgmtOk f kMgmtRead p = true → mgmtQueue ≤ (s.field f).mgmtq.length → Leaves (exec (.mgmtReadServe f (some p)) s) (fun u =>
      u = s.takeInbox f p)) ∧
  (∀ (s : State) (f : FieldId) (p : Packet), s.rimUp f = false ∨ s.mgmtOk f kMgmtRead p = false → Leaves (exec (.mgmtReadServe f (some p)) s) (fun u =>
      u = s)) ∧
  (∀ (s : State) (p : Packet) (w : Nat), s.hub.host.mgmt = some (p.src, w) → allFields.any (fun (f : FieldId) => s.mgmtOk f kMgmtReply p) = true → pktField p 17 1 = w → Leaves (exec (.mgmtReply p) s) (fun u =>
      u.hub.host.mgmt = none ∧
      u.hreg Reg.HUB_MGMT_STATUS.BUSY = 0 ∧
      u.hreg Reg.HUB_MGMT_STATUS.RESULT = St.OK ∧
      u = ((((allFields.foldl (fun (t : State) (f : FieldId) => t.takeInbox f p) s).mgmtData p w).hset Reg.HUB_MGMT_STATUS.BUSY 0).hset Reg.HUB_MGMT_STATUS.RESULT St.OK).updHost (fun U => { U with mgmt := none }))) ∧
  (∀ (s : State) (p : Packet), allFields.any (fun (f : FieldId) => s.mgmtOk f kMgmtReply p) = false ∨ s.hub.host.mgmt ≠ some (p.src, pktField p 17 1) → Leaves (exec (.mgmtReply p) s) (fun u =>
      u = allFields.foldl (fun (t : State) (f : FieldId) => t.takeInbox f p) s)) ∧
  (∀ (s : State), s.hub.host.mgmt.isSome = true → Leaves (exec (.mgmtTimeoutExpiry) s) (fun u =>
      u.hreg Reg.HUB_MGMT_STATUS.RESULT = St.MGMT_TIMEOUT ∧
      u.hreg Reg.HUB_MGMT_STATUS.BUSY = 0 ∧
      u.hub.host.mgmt = none)) ∧
  (∀ (s : State), s.hub.host.mgmt = none → Leaves (exec (.mgmtTimeoutExpiry) s) (fun u =>
      u = s)) ∧
  (∀ (s : State) (f : FieldId) (r : List Byte) (l : List (List Byte)), s.svc f ≠ svcDark → (s.field f).fwdQueue = r :: l → (s.updField f (fun F => { F with fwdQueue := l })).routable f ((s.updField f (fun F => { F with fwdQueue := l })).newPacket f ((s.updField f (fun F => { F with fwdQueue := l })).freg f Reg.FLD_EVT_FWD.COLLECTOR) 0 0 (mgmtBody kMgmtRecord 4 0 r)) = true → Leaves (exec (.eventForward f) s) (fun u =>
      u = (s.updField f (fun F => { F with fwdQueue := l })).issuePacket f 0 ((s.updField f (fun F => { F with fwdQueue := l })).newPacket f ((s.updField f (fun F => { F with fwdQueue := l })).freg f Reg.FLD_EVT_FWD.COLLECTOR) 0 0 (mgmtBody kMgmtRecord 4 0 r)) ∧
      (u.field f).fwdQueue = l)) ∧
  (∀ (s : State) (f : FieldId) (r : List Byte) (l : List (List Byte)), s.svc f ≠ svcDark → (s.field f).fwdQueue = r :: l → (s.updField f (fun F => { F with fwdQueue := l })).routable f ((s.updField f (fun F => { F with fwdQueue := l })).newPacket f ((s.updField f (fun F => { F with fwdQueue := l })).freg f Reg.FLD_EVT_FWD.COLLECTOR) 0 0 (mgmtBody kMgmtRecord 4 0 r)) = false → Leaves (exec (.eventForward f) s) (fun u =>
      u = (s.updField f (fun F => { F with fwdQueue := l })).fcount f Reg.FLD_EVT_FWD.DROPPED)) ∧
  (∀ (s : State) (f : FieldId) (r : List Byte) (l : List (List Byte)), s.svc f ≠ svcDark → (s.field f).fwdQueue = r :: l → Leaves (exec (.fwdDiscardTimeout f) s) (fun u =>
      (u.field f).fwdQueue = l ∧
      u.freg f Reg.FLD_EVT_FWD.DROPPED = satAdd Reg.FLD_EVT_FWD.DROPPED.width (s.freg f Reg.FLD_EVT_FWD.DROPPED) 1)) ∧
  (∀ (s : State) (f : FieldId), s.svc f = svcDark ∨ (s.field f).fwdQueue = [] → ∀ x ∈ ([.eventForward f, .fwdDiscardTimeout f] : List Instr), Leaves (exec x s) (fun u =>
      u = s)) ∧
  (∀ (s : State) (f : FieldId) (p : Packet), s.rimUp f = true → s.mgmtOk f kMgmtRecord p = true → Leaves (exec (.forwardedEvent f p) s) (fun u =>
      u = (s.takeInbox f p).hubRing (forwardedRecord ((p.body.drop 8).take 32) ((s.takeInbox f p).hreg Reg.HUB_EVT_IDX.PROD)) clsForwarded)) ∧
  (∀ (s : State) (f : FieldId) (p : Packet), s.rimUp f = false ∨ s.mgmtOk f kMgmtRecord p = false → Leaves (exec (.forwardedEvent f p) s) (fun u =>
      u = s))

/-- POWER_MODE_REQUEST: the request and the limit are kept, and become the request in force unless a pin channel holds
the package; one that waits for a mark is PENDING (R637, R650, R661). POWER_MODE_CHANGE: a pending request whose
conditions hold starts, and clears PENDING. POWER_MODE_CHANGE_COMPLETE: VSEL, the code of every field not DARK and,
where the clocks were to follow, MODE are the target's; CHANGING is 0 until a request still pending starts the next
change. GOVERNOR_PERIOD: POWER, BALLAST_W and LIMIT are shown; the governor's procedure keeps GOVERNED within the
limit; with it off duty is 64 and ballast 0 (R641). RAMP_RELEASE: RELEASED, once the stagger delay is over (R643).
START_TOKEN_GRANT: the oldest request is granted (R634). PWR_WARN_ASSERT: the hold begins and is counted (R645).
HOLD_END: HOLD is 0 in the hub and the fields (R646). PGOOD_FALL: the field is DARK, or every engine (R633).
PGOOD_OPT_TIMEOUT: PWREN_OPT is 0 (R631). SENSOR_SAMPLE and PIN_SAMPLE take their readings in order. PIN_CRIT_CLEAR:
the channel holds the package no longer (R650). DROP_RECOVER: one drop less (R653). Where there is nothing of the
kind, nothing changes. Each answers a next state. Derived, the model's choice: readings are operands (assumption log
entry 36) and the commands say when they come (2), how a thermistor's value is rounded (30), a diode read (44), the
free temperature of a field's tally (16), and that a DARK field takes no command (42). -/
def Obligations.PowerCommandsComplete : Prop :=
  (∀ (s : State) (m : Fin 4) (a : Bool) (l : Nat), Leaves (exec (.powerModeRequest m a l) s) (fun u =>
      u = (((s.hset Reg.PWR_MODE_CTL.MODE m).hset Reg.PWR_MODE_CTL.AT_MARK (b2n a)).hset Reg.PWR_MODE_CTL.LIMIT_W l).limitChange.modeFromReg ∧
      u.hreg Reg.PWR_MODE_CTL.MODE = m ∧
      u.hreg Reg.PWR_MODE_CTL.AT_MARK = b2n a ∧
      u.hreg Reg.PWR_MODE_CTL.LIMIT_W = l % 2 ^ 16)) ∧
  (∀ (s : State) (m : Fin 4) (a : Bool) (l : Nat), s.hub.pwr.crit = 0 → Leaves (exec (.powerModeRequest m a l) s) (fun u =>
      u.hreg Reg.PWR_MODE_STATUS.REQ = m)) ∧
  (∀ (s : State) (m : Fin 4) (l : Nat), s.hub.pwr.crit = 0 → s.lowRim.isSome = true → Leaves (exec (.powerModeRequest m true l) s) (fun u =>
      u.hreg Reg.PWR_MODE_STATUS.PENDING = 1 ∧ u.hub.pwr.markDue = true)) ∧
  (∀ (s : State) (m : Fin 4) (l : Nat), s.hub.pwr.crit = 0 → s.inHold = false → s.hreg Reg.PWR_MODE_STATUS.CHANGING = 0 → Leaves (exec (.powerModeRequest m false l) s) (fun u =>
      u.hreg Reg.PWR_MODE_STATUS.PENDING = 0 ∧ u.hreg Reg.PWR_MODE_STATUS.CHANGING = 1 ∧ u.hub.pwr.target = m)) ∧
  (∀ (s : State), s.hreg Reg.PWR_MODE_STATUS.PENDING = 1 → s.hub.pwr.markDue = false ∨ s.lowRim = none → s.inHold = false → s.hreg Reg.PWR_MODE_STATUS.CHANGING = 0 → Leaves (exec (.powerModeChange) s) (fun u =>
      u = s.modeStart ∧
      u.hreg Reg.PWR_MODE_STATUS.PENDING = 0 ∧
      u.hreg Reg.PWR_MODE_STATUS.CHANGING = 1)) ∧
  (∀ (s : State), s.hreg Reg.PWR_MODE_STATUS.PENDING ≠ 1 ∨ s.hub.pwr.markDue = true ∧ s.lowRim ≠ none ∨ s.inHold = true ∨ s.hreg Reg.PWR_MODE_STATUS.CHANGING ≠ 0 → Leaves (exec (.powerModeChange) s) (fun u =>
      u = s)) ∧
  (∀ (s : State), s.hreg Reg.PWR_MODE_STATUS.CHANGING ≠ 0 → Leaves (exec (.powerModeChangeComplete) s) (fun u =>
      u = ((((if s.hub.pwr.clocks then s.clocksTo s.hub.pwr.target else s).setVsel (modeVsel s.hub.pwr.target)).hset Reg.PWR_MODE_STATUS.CHANGING 0).raiseHub Ev.HUB_POWER_MODE
        [(1, s.hub.pwr.from_), (1, s.hub.pwr.target), (1, modeVsel s.hub.pwr.target)]).modeTry)) ∧
  (∀ (s : State), s.hreg Reg.PWR_MODE_STATUS.CHANGING ≠ 0 → s.hreg Reg.PWR_MODE_STATUS.PENDING ≠ 1 → Leaves (exec (.powerModeChangeComplete) s) (fun u =>
      u.hreg Reg.PWR_MODE_STATUS.CHANGING = 0 ∧
      u.hreg Reg.PWR_MODE_STATUS.VSEL = modeVsel s.hub.pwr.target ∧
      (∀ f : FieldId, u.vselOf f = (if s.svc f = svcDark then s.vselOf f else modeVsel s.hub.pwr.target)) ∧
      u.mode = (if s.hub.pwr.clocks then s.hub.pwr.target % 2 ^ 2 else s.mode))) ∧
  (∀ (s : State), s.hreg Reg.PWR_MODE_STATUS.CHANGING = 0 → Leaves (exec (.powerModeChangeComplete) s) (fun u =>
      u = s)) ∧
  (∀ (s : State) (p b : Nat) (w : Bool), Leaves (exec (.governorPeriod p b w) s) (fun u =>
      u.hreg Reg.PWR_RAMP_STAT.POWER = min p 0xFFFF ∧
      u.hreg Reg.PWR_RAMP_STAT.BALLAST_W = min b 0xFFFF ∧
      u.hreg Reg.PWR_RAMP_STAT.LIMIT = s.powerLimit)) ∧
  (∀ (s : State) (p b : Nat) (w : Bool), s.govOn = true → Leaves (exec (.governorPeriod p b w) s) (fun u =>
      u = ((((((s.hset Reg.PWR_RAMP_STAT.POWER (min p 0xFFFF)).hset Reg.PWR_RAMP_STAT.BALLAST_W (min b 0xFFFF)).hset Reg.PWR_RAMP_STAT.LIMIT s.powerLimit).rateMax p).powerExceed p).govern p b w).governFields ∧
      u.hreg Reg.PWR_RAMP_STAT.GOVERNED ≤ s.powerLimit)) ∧
  (∀ (s : State) (p b : Nat) (w : Bool), s.govOn = false → Leaves (exec (.governorPeriod p b w) s) (fun u =>
      u = (((((s.hset Reg.PWR_RAMP_STAT.POWER (min p 0xFFFF)).hset Reg.PWR_RAMP_STAT.BALLAST_W (min b 0xFFFF)).hset Reg.PWR_RAMP_STAT.LIMIT s.powerLimit).rateMax p).powerExceed p).governOff ∧
      u.hreg Reg.PWR_RAMP_STAT.DUTY = 64 ∧
      u.hreg Reg.PWR_RAMP_STAT.BALLAST = 0)) ∧
  (∀ (s : State), s.hub.pwr.releaseAt ≠ 0 → s.hub.pwr.releaseAt ≤ s.now + 1 → Leaves (exec (.rampRelease) s) (fun u =>
      u.hreg Reg.PWR_RAMP_STAT.RELEASED = 1 ∧
      u = (s.hset Reg.PWR_RAMP_STAT.RELEASED 1).updPwr (fun P => { P with releaseAt := 0 }))) ∧
  (∀ (s : State), s.hub.pwr.releaseAt = 0 ∨ s.now + 1 < s.hub.pwr.releaseAt → Leaves (exec (.rampRelease) s) (fun u =>
      u = s)) ∧
  (∀ (s : State) (f : FieldId) (p : Nat) (l : List (Nat × Bool)), s.svc f ≠ svcDark → (s.thm f).tokens = (p, true) :: l → Leaves (exec (.startTokenGrant f) s) (fun u =>
      u = (s.updThm f (fun T => { T with tokens := l })).updPlot f (plotIx p) (fun P => { P with tine := { P.tine with dormant := false } }))) ∧
  (∀ (s : State) (f : FieldId) (p : Nat) (l : List (Nat × Bool)), s.svc f ≠ svcDark → (s.thm f).tokens = (p, false) :: l → Leaves (exec (.startTokenGrant f) s) (fun u =>
      u = (s.updThm f (fun T => { T with tokens := l })).updPlot f (plotIx p) (fun P => { P with tine := { P.tine with stopTok := true } }))) ∧
  (∀ (s : State) (f : FieldId), s.svc f = svcDark ∨ (s.thm f).tokens = [] → Leaves (exec (.startTokenGrant f) s) (fun u =>
      u = s)) ∧
  (∀ (s : State), s.hub.pwr.warn = false → Leaves (exec (.pwrWarnAssert) s) (fun u =>
      u = (s.updPwr (fun P => { P with warnPin := true, holdInj := false })).holdEnter false ∧
      u.hreg Reg.PWR_MODE_STATUS.HOLD = 1 ∧
      u.hreg Reg.PWR_MODE_STATUS.HOLD_COUNT = satAdd Reg.PWR_MODE_STATUS.HOLD_COUNT.width (s.hreg Reg.PWR_MODE_STATUS.HOLD_COUNT) 1)) ∧
  (∀ (s : State), s.hub.pwr.warn = true → Leaves (exec (.pwrWarnAssert) s) (fun u =>
      u = s.updPwr (fun P => { P with warnPin := true, holdInj := false }))) ∧
  (∀ (s : State), s.inHold = true → s.hub.pwr.holdOff = true → Leaves (exec (.holdEnd) s) (fun u =>
      u.hreg Reg.PWR_MODE_STATUS.HOLD = 0 ∧
      u.hub.pwr.holdOff = false ∧
      ∀ f : FieldId, (u.thm f).hold = false)) ∧
  (∀ (s : State), s.inHold = true → s.hub.pwr.holdOff = true → Leaves (exec (.holdEnd) s) (fun u =>
      u = (fun (t : State) => (t.raiseHub Ev.HUB_POWER_HOLD [(1, 1), (2, t.hreg Reg.PWR_MODE_STATUS.HOLD_COUNT)] s.hub.pwr.holdInj).modeTry)
        ((fun (t : State) => (t.hset Reg.PWR_RAMP_STAT.GOVERNED (min (s.hreg Reg.PWR_RAMP_STAT.POWER) t.powerLimit)).limitChange) (((allFields.foldl (fun (t : State) (f : FieldId) => t.updThm f (fun T => { T with hold := false })) s).hset Reg.PWR_MODE_STATUS.HOLD 0).updPwr (fun P => { P with holdOff := false }))))) ∧
  (∀ (s : State), s.inHold = false ∨ s.hub.pwr.holdOff = false → Leaves (exec (.holdEnd) s) (fun u =>
      u = s)) ∧
  (∀ (s : State) (f : FieldId), s.railUp f = true → Leaves (exec (.pgoodFall (some f)) s) (fun u =>
      u = (((s.pwrenDrop f).hcount Reg.PWR_RAIL_STATUS.FAULTS).raiseHub Ev.HUB_RAIL_FAULT [(1, f)]).fieldDark f ∧
      u.svc f = svcDark ∧
      u.hreg Reg.PWR_RAIL_STATUS.FAULTS = satAdd Reg.PWR_RAIL_STATUS.FAULTS.width (s.hreg Reg.PWR_RAIL_STATUS.FAULTS) 1 ∧
      bit (u.hreg Reg.PWR_RAIL_STATUS.PGOOD) f = false)) ∧
  (∀ (s : State) (f : FieldId), s.railUp f = false → Leaves (exec (.pgoodFall (some f)) s) (fun u =>
      u = s)) ∧
  (∀ (s : State), s.railUp railOpt = true → Leaves (exec (.pgoodFall none) s) (fun u =>
      u = ((((s.hset Reg.PWR_RAIL_STATUS.PGOOD_OPT 0).setRail railOpt false).hcount Reg.PWR_RAIL_STATUS.FAULTS).raiseHub Ev.HUB_RAIL_FAULT [(1, 4)]).allDark ∧
      u.hreg Reg.PWR_RAIL_STATUS.PGOOD_OPT = 0 ∧
      u.hreg Reg.HDL_MODULE.OUTPUT_ON 0 = 0 ∧
      u.hreg Reg.HDL_MODULE.OUTPUT_ON 1 = 0)) ∧
  (∀ (s : State), s.railUp railOpt = false → Leaves (exec (.pgoodFall none) s) (fun u =>
      u = s)) ∧
  (∀ (s : State), s.hreg Reg.PWR_RAIL_STATUS.PWREN_OPT = 1 → s.railUp railOpt = false → Leaves (exec (.pgoodOptTimeout) s) (fun u =>
      u = ((s.hset Reg.PWR_RAIL_STATUS.PWREN_OPT 0).raiseHub Ev.HUB_RAIL_FAULT [(1, 4)]).allDark ∧
      u.hreg Reg.PWR_RAIL_STATUS.PWREN_OPT = 0)) ∧
  (∀ (s : State), s.hreg Reg.PWR_RAIL_STATUS.PWREN_OPT ≠ 1 ∨ s.railUp railOpt = true → Leaves (exec (.pgoodOptTimeout) s) (fun u =>
      u = s)) ∧
  (∀ (s : State) (f : FieldId) (l : List (Option Int)), s.rimUp f = true → Leaves (exec (.sensorSample (some f) l) s) (fun u =>
      u = (s.sensorSample f l).tlyTemp f)) ∧
  (∀ (s : State) (f : FieldId) (l : List (Option Int)), s.rimUp f = false → Leaves (exec (.sensorSample (some f) l) s) (fun u =>
      u = s)) ∧
  (∀ (s : State) (l : List (Option Int)), Leaves (exec (.sensorSample none l) s) (fun u =>
      u = (List.range 8).foldl (fun (t : State) i => t.hubSensor i (l.getD i none)) s)) ∧
  (∀ (s : State) (l : List PinReading), Leaves (exec (.pinSample l) s) (fun u =>
      u = (List.range 12).foldl (fun (t : State) n => t.pinSample n (l.getD n .fault)) s)) ∧
  (∀ (s : State) (n : Fin 12), bit s.hub.pwr.crit n = true → bit (s.hreg Reg.THM_PIN_STATUS.BROKEN) n = false → toSigned 16 (s.hreg Reg.THM_PIN_TEMP.TEMP 0 n) < toSigned 8 (s.hreg Reg.THM_PIN_CFG.WARN n) * 16 → setBit s.hub.pwr.crit n false ≠ 0 → Leaves (exec (.pinCritClear n) s) (fun u =>
      u = s.updPwr (fun P => { P with crit := setBit P.crit n false }))) ∧
  (∀ (s : State) (n : Fin 12), bit s.hub.pwr.crit n = true → bit (s.hreg Reg.THM_PIN_STATUS.BROKEN) n = false → toSigned 16 (s.hreg Reg.THM_PIN_TEMP.TEMP 0 n) < toSigned 8 (s.hreg Reg.THM_PIN_CFG.WARN n) * 16 → setBit s.hub.pwr.crit n false = 0 → Leaves (exec (.pinCritClear n) s) (fun u =>
      u = (s.updPwr (fun P => { P with crit := setBit P.crit n false })).modeRequest (s.hreg Reg.PWR_MODE_CTL.MODE) (decide (s.hreg Reg.PWR_MODE_CTL.AT_MARK = 1)) ∧
      u.hub.pwr.crit = 0)) ∧
  (∀ (s : State) (n : Fin 12), bit s.hub.pwr.crit n = false ∨ bit (s.hreg Reg.THM_PIN_STATUS.BROKEN) n = true ∨ toSigned 8 (s.hreg Reg.THM_PIN_CFG.WARN n) * 16 ≤ toSigned 16 (s.hreg Reg.THM_PIN_TEMP.TEMP 0 n) → Leaves (exec (.pinCritClear n) s) (fun u =>
      u = s)) ∧
  (∀ (s : State) (f : FieldId) (i : Nat) (x : Int), s.svc f ≠ svcDark → s.freg f Reg.THM_FIELD_STATUS.DROPS ≠ 0 → (s.thm f).tmax = some (i, x) → x < 360 → (∀ y ∈ (s.thm f).rmax, y.2 < 20) → Leaves (exec (.dropRecover f) s) (fun u =>
      u = (s.fset f Reg.THM_FIELD_STATUS.DROPS (s.freg f Reg.THM_FIELD_STATUS.DROPS - 1)).setPoint f ∧
      u.freg f Reg.THM_FIELD_STATUS.DROPS = (s.freg f Reg.THM_FIELD_STATUS.DROPS - 1) % 2 ^ 2)) ∧
  (∀ (s : State) (f : FieldId), s.svc f = svcDark ∨ s.freg f Reg.THM_FIELD_STATUS.DROPS = 0 ∨ (∀ y ∈ (s.thm f).tmax, 360 ≤ y.2) ∨ (∃ y ∈ (s.thm f).rmax, 20 ≤ y.2) → Leaves (exec (.dropRecover f) s) (fun u =>
      u = s))

/-- A write that arms a point of a rim's injection register: discarded while the lock is closed and while ARM is 1
(R512, R696). Else POINT, TARGET and ARG are kept; a point that cannot fire leaves ARM 0 and NOFIRE 1; one whose
opportunity is the arming, or whose effect lasts, begins; any other waits with ARM 1 (R697). The same of the hub's
points. INJ_EFFECT_END: the effect in progress is over, what it held back is let go, and DONE is 1; with none in
progress nothing changes. INJ_REQ with the lock closed and no hold-off: on a proving part whose seed image allows it
the request is pending, and otherwise it is refused and the hold-off runs (R512). INJ_VALUE: 0x5EED while a request is
pending opens the lock, any other value is refused. With the lock open neither does anything, nor INJ_REQ in the
hold-off. INJ_LOCK closes the lock and ends every point's effect. INJ_WINDOW_EXPIRY ends the request, INJ_HOLDOFF_END
the hold-off. Each answers a next state. Derived, the model's choice: the free reason of an injected host lane failure
(assumption log entry 31), what LOCK and REQ_DROP do to points that stand (34), and which commands say when the lock's
windows end (2). -/
def Obligations.InjectionCommandsComplete : Prop :=
  (∀ (s : State) (f : FieldId) (t : Fin 256) (a : Nat), ∀ x ∈ ([(.injStackLost f t a, 0, 3), (.injFecSymbols f t a, 1, 1), (.injLaneFail f t a, 1, 3), (.injRingUnlock f t a, 1, 4),
      (.injRetrain f t a, 1, 7), (.injNoAck f t a, 1, 8), (.injBeatStop f t a, 5, 2), (.injBeaconMute f t a, 5, 3),
      (.injSensorOffset f t a, 6, 1), (.injSensorRamp f t a, 6, 2), (.injSensorBroken f t a, 6, 3), (.injHbmSymbol f t a, 0, 1),
      (.injHbmDouble f t a, 0, 2), (.injStoreSingle f t a, 0, 4), (.injStoreDouble f t a, 0, 5), (.injFlitCrc f t a, 1, 2),
      (.injRxPower f t a, 1, 5), (.injBeaconId f t a, 1, 6), (.injReqDrop f t a, 2, 1), (.injDefer f t a, 2, 2),
      (.injRedFull f t a, 2, 3), (.injCombRefuse f t a, 2, 4), (.injDigest f t a, 3, 1), (.injSilent f t a, 3, 2),
      (.injPieceDrop f t a, 3, 3), (.injDoneDigest f t a, 4, 1), (.injPushStall f t a, 4, 2), (.injBufFull f t a, 4, 3),
      (.injSkip f t a, 4, 4), (.injOffset f t a, 5, 1)] : List (Instr × Nat × Nat)), s.injOpenAt f = false ∨ s.freg f Reg.INJ_PT.ARM x.2.1 = 1 → Leaves (exec x.1 s) (fun u =>
      u = s)) ∧
  (∀ (s : State) (f : FieldId) (t : Fin 256) (a : Nat), ∀ x ∈ ([(.injStackLost f t a, 0, 3), (.injFecSymbols f t a, 1, 1), (.injLaneFail f t a, 1, 3), (.injRingUnlock f t a, 1, 4),
      (.injRetrain f t a, 1, 7), (.injNoAck f t a, 1, 8), (.injBeatStop f t a, 5, 2), (.injBeaconMute f t a, 5, 3),
      (.injSensorOffset f t a, 6, 1), (.injSensorRamp f t a, 6, 2), (.injSensorBroken f t a, 6, 3), (.injHbmSymbol f t a, 0, 1),
      (.injHbmDouble f t a, 0, 2), (.injStoreSingle f t a, 0, 4), (.injStoreDouble f t a, 0, 5), (.injFlitCrc f t a, 1, 2),
      (.injRxPower f t a, 1, 5), (.injBeaconId f t a, 1, 6), (.injReqDrop f t a, 2, 1), (.injDefer f t a, 2, 2),
      (.injRedFull f t a, 2, 3), (.injCombRefuse f t a, 2, 4), (.injDigest f t a, 3, 1), (.injSilent f t a, 3, 2),
      (.injPieceDrop f t a, 3, 3), (.injDoneDigest f t a, 4, 1), (.injPushStall f t a, 4, 2), (.injBufFull f t a, 4, 3),
      (.injSkip f t a, 4, 4), (.injOffset f t a, 5, 1)] : List (Instr × Nat × Nat)), s.injOpenAt f = true → s.freg f Reg.INJ_PT.ARM x.2.1 ≠ 1 → State.injValid (((s.fset f Reg.INJ_PT.POINT x.2.2 x.2.1).fset f Reg.INJ_PT.TARGET t x.2.1).fset f Reg.INJ_PT.ARG a x.2.1) f x.2.1 x.2.2 t (a % 2 ^ 32) = false → Leaves (exec x.1 s) (fun u =>
      u.freg f Reg.INJ_PT.POINT x.2.1 = x.2.2 ∧ u.freg f Reg.INJ_PT.TARGET x.2.1 = t ∧ u.freg f Reg.INJ_PT.ARG x.2.1 = a % 2 ^ 32 ∧
      u.freg f Reg.INJ_PT.ARM x.2.1 = 0 ∧ u.freg f Reg.INJ_PT.NOFIRE x.2.1 = 1 ∧
      u = (((((s.fset f Reg.INJ_PT.POINT x.2.2 x.2.1).fset f Reg.INJ_PT.TARGET t x.2.1).fset f Reg.INJ_PT.ARG a x.2.1).fset f Reg.INJ_PT.ARM 1 x.2.1).fset f Reg.INJ_PT.ARM 0 x.2.1).fset f Reg.INJ_PT.NOFIRE 1 x.2.1)) ∧
  (∀ (s : State) (f : FieldId) (t : Fin 256) (a : Nat), ∀ x ∈ ([(.injStackLost f t a, 0, 3), (.injLaneFail f t a, 1, 3), (.injRingUnlock f t a, 1, 4),
      (.injRetrain f t a, 1, 7), (.injNoAck f t a, 1, 8), (.injBeatStop f t a, 5, 2), (.injBeaconMute f t a, 5, 3),
      (.injSensorOffset f t a, 6, 1), (.injSensorRamp f t a, 6, 2), (.injSensorBroken f t a, 6, 3)] : List (Instr × Nat × Nat)), s.injOpenAt f = true → s.freg f Reg.INJ_PT.ARM x.2.1 ≠ 1 → State.injValid (((s.fset f Reg.INJ_PT.POINT x.2.2 x.2.1).fset f Reg.INJ_PT.TARGET t x.2.1).fset f Reg.INJ_PT.ARG a x.2.1) f x.2.1 x.2.2 t (a % 2 ^ 32) = true → Leaves (exec x.1 s) (fun u =>
      u = ((((s.fset f Reg.INJ_PT.POINT x.2.2 x.2.1).fset f Reg.INJ_PT.TARGET t x.2.1).fset f Reg.INJ_PT.ARG a x.2.1).fset f Reg.INJ_PT.ARM 1 x.2.1).injBegin f x.2.1 x.2.2 t (a % 2 ^ 32))) ∧
  (∀ (s : State) (f : FieldId) (t : Fin 256) (a : Nat), ∀ x ∈ ([(.injFecSymbols f t a, 1, 1), (.injHbmSymbol f t a, 0, 1), (.injHbmDouble f t a, 0, 2), (.injStoreSingle f t a, 0, 4), (.injStoreDouble f t a, 0, 5),
      (.injFlitCrc f t a, 1, 2), (.injRxPower f t a, 1, 5), (.injBeaconId f t a, 1, 6), (.injReqDrop f t a, 2, 1),
      (.injDefer f t a, 2, 2), (.injRedFull f t a, 2, 3), (.injCombRefuse f t a, 2, 4), (.injDigest f t a, 3, 1),
      (.injSilent f t a, 3, 2), (.injPieceDrop f t a, 3, 3), (.injDoneDigest f t a, 4, 1), (.injPushStall f t a, 4, 2),
      (.injBufFull f t a, 4, 3), (.injSkip f t a, 4, 4), (.injOffset f t a, 5, 1)] : List (Instr × Nat × Nat)), s.injOpenAt f = true → s.freg f Reg.INJ_PT.ARM x.2.1 ≠ 1 → State.injValid (((s.fset f Reg.INJ_PT.POINT x.2.2 x.2.1).fset f Reg.INJ_PT.TARGET t x.2.1).fset f Reg.INJ_PT.ARG a x.2.1) f x.2.1 x.2.2 t (a % 2 ^ 32) = true → Leaves (exec x.1 s) (fun u =>
      u = (((s.fset f Reg.INJ_PT.POINT x.2.2 x.2.1).fset f Reg.INJ_PT.TARGET t x.2.1).fset f Reg.INJ_PT.ARG a x.2.1).fset f Reg.INJ_PT.ARM 1 x.2.1 ∧ u.freg f Reg.INJ_PT.ARM x.2.1 = 1)) ∧
  (∀ (s : State) (t : Fin 256) (a : Nat), ∀ x ∈ ([(.injPwrWarn t a, 0, 1), (.injPinBroken t a, 0, 3), (.injHeartbeatStop t a, 0, 4), (.injHostLaneFail t a, 0, 5),
      (.injInletDrop t a, 1, 3), (.injPinReading t a, 0, 2), (.injModuleFault t a, 1, 1), (.injMargin t a, 1, 2)] : List (Instr × Nat × Nat)), s.injOpen = false ∨ s.hreg Reg.INJ_HPT.ARM x.2.1 = 1 → Leaves (exec x.1 s) (fun u =>
      u = s)) ∧
  (∀ (s : State) (t : Fin 256) (a : Nat), ∀ x ∈ ([(.injPinBroken t a, 0, 3), (.injHeartbeatStop t a, 0, 4), (.injHostLaneFail t a, 0, 5), (.injInletDrop t a, 1, 3),
      (.injPinReading t a, 0, 2), (.injModuleFault t a, 1, 1), (.injMargin t a, 1, 2)] : List (Instr × Nat × Nat)), s.injOpen = true → s.hreg Reg.INJ_HPT.ARM x.2.1 ≠ 1 → State.injHubValid (((s.hset Reg.INJ_HPT.POINT x.2.2 x.2.1).hset Reg.INJ_HPT.TARGET t x.2.1).hset Reg.INJ_HPT.ARG a x.2.1) x.2.1 x.2.2 t (a % 2 ^ 32) = false → Leaves (exec x.1 s) (fun u =>
      u.hreg Reg.INJ_HPT.POINT x.2.1 = x.2.2 ∧ u.hreg Reg.INJ_HPT.TARGET x.2.1 = t ∧ u.hreg Reg.INJ_HPT.ARG x.2.1 = a % 2 ^ 32 ∧
      u.hreg Reg.INJ_HPT.ARM x.2.1 = 0 ∧ u.hreg Reg.INJ_HPT.NOFIRE x.2.1 = 1 ∧
      u = (((((s.hset Reg.INJ_HPT.POINT x.2.2 x.2.1).hset Reg.INJ_HPT.TARGET t x.2.1).hset Reg.INJ_HPT.ARG a x.2.1).hset Reg.INJ_HPT.ARM 1 x.2.1).hset Reg.INJ_HPT.ARM 0 x.2.1).hset Reg.INJ_HPT.NOFIRE 1 x.2.1)) ∧
  (∀ (s : State) (t : Fin 256) (a : Nat), ∀ x ∈ ([(.injPwrWarn t a, 0, 1), (.injPinBroken t a, 0, 3), (.injHeartbeatStop t a, 0, 4), (.injHostLaneFail t a, 0, 5),
      (.injInletDrop t a, 1, 3)] : List (Instr × Nat × Nat)), s.injOpen = true → s.hreg Reg.INJ_HPT.ARM x.2.1 ≠ 1 → State.injHubValid (((s.hset Reg.INJ_HPT.POINT x.2.2 x.2.1).hset Reg.INJ_HPT.TARGET t x.2.1).hset Reg.INJ_HPT.ARG a x.2.1) x.2.1 x.2.2 t (a % 2 ^ 32) = true → Leaves (exec x.1 s) (fun u =>
      u = ((((s.hset Reg.INJ_HPT.POINT x.2.2 x.2.1).hset Reg.INJ_HPT.TARGET t x.2.1).hset Reg.INJ_HPT.ARG a x.2.1).hset Reg.INJ_HPT.ARM 1 x.2.1).injHubBegin x.2.1 x.2.2 t (a % 2 ^ 32))) ∧
  (∀ (s : State) (t : Fin 256) (a : Nat), ∀ x ∈ ([(.injPinReading t a, 0, 2), (.injModuleFault t a, 1, 1), (.injMargin t a, 1, 2)] : List (Instr × Nat × Nat)), s.injOpen = true → s.hreg Reg.INJ_HPT.ARM x.2.1 ≠ 1 → State.injHubValid (((s.hset Reg.INJ_HPT.POINT x.2.2 x.2.1).hset Reg.INJ_HPT.TARGET t x.2.1).hset Reg.INJ_HPT.ARG a x.2.1) x.2.1 x.2.2 t (a % 2 ^ 32) = true → Leaves (exec x.1 s) (fun u =>
      u = (((s.hset Reg.INJ_HPT.POINT x.2.2 x.2.1).hset Reg.INJ_HPT.TARGET t x.2.1).hset Reg.INJ_HPT.ARG a x.2.1).hset Reg.INJ_HPT.ARM 1 x.2.1 ∧ u.hreg Reg.INJ_HPT.ARM x.2.1 = 1)) ∧
  (∀ (s : State) (f : FieldId) (r : Fin 7) (e : Nat × Nat × Nat), SMap.find (s.field f).fx r = some e → Leaves (exec (.injEffectEnd (some f) r) s) (fun u =>
      u = s.fxEnd f r ∧
      SMap.find (u.field f).fx r = none ∧
      u.freg f Reg.INJ_PT.DONE r = 1 ∧
      (r = 1 ∧ e.1 = 8 → (u.port f (BitVec.ofNat 4 e.2.1).toFin).withheld = none) ∧
      (r = 5 ∧ e.1 = 2 → (u.tly f).beatStop = false))) ∧
  (∀ (s : State) (f : FieldId) (r : Fin 7), SMap.find (s.field f).fx r = none → Leaves (exec (.injEffectEnd (some f) r) s) (fun u =>
      u = s)) ∧
  (∀ (s : State) (r : Fin 7) (e : Nat × Nat × Nat), SMap.find s.hub.fx r = some e → Leaves (exec (.injEffectEnd none r) s) (fun u =>
      u = ((s.updHub (fun H => { H with fx := SMap.erase H.fx r })).hset Reg.INJ_HPT.DONE 1 r).warnSet s.hub.pwr.warnPin false ∧
      SMap.find u.hub.fx r = none ∧
      u.hreg Reg.INJ_HPT.DONE r = 1 ∧
      u.hub.pwr.warn = s.hub.pwr.warnPin)) ∧
  (∀ (s : State) (r : Fin 7), SMap.find s.hub.fx r = none → Leaves (exec (.injEffectEnd none r) s) (fun u =>
      u = s)) ∧
  (∀ (s : State), s.injOpen = false → s.hub.injHold = false → s.injConditions = true → Leaves (exec (.injReq) s) (fun u =>
      u.hreg Reg.HUB_INJ_STATUS.PENDING = 1)) ∧
  (∀ (s : State), s.injOpen = false → s.hub.injHold = false → s.injConditions = false → Leaves (exec (.injReq) s) (fun u =>
      u.hreg Reg.HUB_INJ_STATUS.RESULT = St.INJ_REFUSED ∧
      u.hub.injHold = true)) ∧
  (∀ (s : State), s.injOpen = true ∨ s.hub.injHold = true → Leaves (exec (.injReq) s) (fun u =>
      u = s)) ∧
  (∀ (s : State) (v : Nat), s.injOpen = false → s.hreg Reg.HUB_INJ_STATUS.PENDING ≠ 0 → v % 65536 = 0x5EED → Leaves (exec (.injValue v) s) (fun u =>
      u.hreg Reg.HUB_INJ_STATUS.OPEN = 1 ∧
      u.hreg Reg.HUB_INJ_STATUS.PENDING = 0 ∧
      u.hreg Reg.HUB_INJ_STATUS.RESULT = St.OK)) ∧
  (∀ (s : State) (v : Nat), s.injOpen = false → s.hreg Reg.HUB_INJ_STATUS.PENDING = 0 ∨ v % 65536 ≠ 0x5EED → Leaves (exec (.injValue v) s) (fun u =>
      u.hreg Reg.HUB_INJ_STATUS.RESULT = St.INJ_REFUSED ∧
      u.hub.injHold = true ∧
      u.hreg Reg.HUB_INJ_STATUS.OPEN = s.hreg Reg.HUB_INJ_STATUS.OPEN)) ∧
  (∀ (s : State) (v : Nat), s.injOpen = true → Leaves (exec (.injValue v) s) (fun u =>
      u = s)) ∧
  (∀ (s : State), Leaves (exec (.injLock) s) (fun u =>
      u.hreg Reg.HUB_INJ_STATUS.OPEN = 0 ∧
      u.hreg Reg.HUB_INJ_STATUS.PENDING = 0 ∧
      u = ((((([0, 1] : List Nat).foldl (fun (t : State) r => (t.fxHubEnd r).hset Reg.INJ_HPT.ARM 0 r) (allFields.foldl (fun (t : State) f => t.injClear f) s)).updPwr (fun P => { P with pinInj := 0 })).hset Reg.HUB_INJ_STATUS.OPEN 0).hset Reg.HUB_INJ_STATUS.PENDING 0))) ∧
  (∀ (s : State), Leaves (exec (.injWindowExpiry) s) (fun u =>
      u = s.hset Reg.HUB_INJ_STATUS.PENDING 0 ∧
      u.hreg Reg.HUB_INJ_STATUS.PENDING = 0)) ∧
  (∀ (s : State), Leaves (exec (.injHoldoffEnd) s) (fun u =>
      u = s.updHub (fun H => { H with injHold := false }) ∧
      u.hub.injHold = false))

/-- DROOP_DETECTOR_TRIP counts the trip and the cycles stretched (R181). TDUTY_STEP: the duty of a throttling field
falls by 4, down to 1, while it is hot or has a broken sensor, and rises by 1 while it is cool, to 64, where it
throttles no longer (R654). PLOT_DORMANT: a plot with a stop token is dormant, one without asks for it (R634).
JTAG_HOLDOFF_END: a response is taken again. PWR_WARN_DEASSERT: the wait of the hold's end begins (R646). PARENT_LOSS:
the parent's link is known no longer and a new parent is selected; a root or a field without a parent is untouched.
HEADER_MAP_DESYNC: the pending map is dropped, the fault counted, and the port retrains. ASPM_L1_ENTRY: from L0 to L1
(R599). HOST_LINK_TRAINED: L0 with four wavelengths or more, else DOWN; a RETRAIN asked for meanwhile is acted on (R600,
R620). TDUTY_STEP, PARENT_LOSS and HEADER_MAP_DESYNC of a DARK field change nothing. Each answers a next state. Derived,
the model's choice: which commands say when these things happen (assumption log entry 2), and that a DARK field takes
none (42). -/
def Obligations.RemainingCommandsComplete : Prop :=
  (∀ (s : State) (f : FieldId) (p : PlotId) (n : Nat), Leaves (exec (.droopDetectorTrip f p n) s) (fun u =>
      u.preg f p Reg.PLT_CLOCK_STAT.DROOP_TRIPS = satAdd Reg.PLT_CLOCK_STAT.DROOP_TRIPS.width (s.preg f p Reg.PLT_CLOCK_STAT.DROOP_TRIPS) 1 ∧
      u.preg f p Reg.PLT_CLOCK_STAT.STRETCHED = (s.preg f p Reg.PLT_CLOCK_STAT.STRETCHED + n) % 2 ^ Reg.PLT_CLOCK_STAT.STRETCHED.width ∧
      u = (s.pcount f p Reg.PLT_CLOCK_STAT.DROOP_TRIPS).pwrap f p Reg.PLT_CLOCK_STAT.STRETCHED n)) ∧
  (∀ (s : State), s.hub.pwr.warn = true → s.hub.pwr.warnInj = false → Leaves (exec (.pwrWarnDeassert) s) (fun u =>
      u = s.updPwr (fun P => { P with warnPin := false, holdOff := true }))) ∧
  (∀ (s : State), s.hub.pwr.warn = false ∨ s.hub.pwr.warnInj = true → Leaves (exec (.pwrWarnDeassert) s) (fun u =>
      u = s.updPwr (fun P => { P with warnPin := false }))) ∧
  (∀ (s : State) (f : FieldId), s.svc f = svcDark ∨ s.freg f Reg.TLY_STATUS.PARENT_LINK = 0x1F ∨ s.tlyState f = tsRoot → Leaves (exec (.parentLoss f) s) (fun u =>
      u = s)) ∧
  (∀ (s : State) (f : FieldId), s.svc f ≠ svcDark → s.freg f Reg.TLY_STATUS.PARENT_LINK ≠ 0x1F → s.tlyState f ≠ tsRoot → Leaves (exec (.parentLoss f) s) (fun u =>
      u = (s.updTly f (fun U => { U with links := SMap.set U.links TallyLink.none (s.freg f Reg.TLY_STATUS.PARENT_LINK) { SMap.get (s.tly f).links TallyLink.none (s.freg f Reg.TLY_STATUS.PARENT_LINK) with known := false } })).parentSelect f)) ∧
  (∀ (s : State) (f : FieldId) (n : PortId), s.svc f ≠ svcDark → Leaves (exec (.headerMapDesync f n) s) (fun u =>
      u = ((s.updPort f n (fun P => { P with rx := { P.rx with pending := none } })).protoErr f n 5).linkRetrain f n)) ∧
  (∀ (s : State) (f : FieldId) (n : PortId), s.svc f = svcDark → Leaves (exec (.headerMapDesync f n) s) (fun u =>
      u = s)) ∧
  (∀ (s : State), s.hostLink = hpL0 → Leaves (exec (.aspmL1Entry) s) (fun u =>
      u = s.hostSet hpL1 ∧
      u.hostLink = hpL1)) ∧
  (∀ (s : State), s.hostLink ≠ hpL0 → Leaves (exec (.aspmL1Entry) s) (fun u =>
      u = s)) ∧
  (∀ (s : State), s.hostLink = hpTraining → 4 ≤ s.hostLanes → Leaves (exec (.hostLinkTrained true) s) (fun u =>
      u = ((s.hostSet hpL0).updSeed (fun U => { U with lightDone := true })).retrainDo ∧
      u.hub.seed.lightDone = true)) ∧
  (∀ (s : State), s.hostLink = hpTraining → 4 ≤ s.hostLanes → s.hreg Reg.HUB_HOST_PHY_CTL.RETRAIN ≠ 1 → Leaves (exec (.hostLinkTrained true) s) (fun u =>
      u.hostLink = hpL0)) ∧
  (∀ (s : State) (ok : Bool), s.hostLink = hpTraining → ok = false ∨ s.hostLanes < 4 → Leaves (exec (.hostLinkTrained ok) s) (fun u =>
      u = (s.hostSet hpDown).updSeed (fun U => { U with lightDone := true }) ∧
      u.hostLink = hpDown)) ∧
  (∀ (s : State) (ok : Bool), s.hostLink ≠ hpTraining → Leaves (exec (.hostLinkTrained ok) s) (fun u =>
      u = s)) ∧
  (∀ (s : State), Leaves (exec (.jtagHoldoffEnd) s) (fun u =>
      u = s.updSeed (fun U => { U with jtagHold := false }))) ∧
  (∀ (s : State) (f : FieldId), s.svc f = svcDark ∨ s.freg f Reg.THM_FIELD_STATUS.THROTTLE = 0 → Leaves (exec (.tdutyStep f) s) (fun u =>
      u = s)) ∧
  (∀ (s : State) (f : FieldId), s.svc f ≠ svcDark → s.freg f Reg.THM_FIELD_STATUS.THROTTLE ≠ 0 → (s.thm f).broken ≠ 0 ∨ (∀ y ∈ (s.thm f).tmax, 380 ≤ y.2) → Leaves (exec (.tdutyStep f) s) (fun u =>
      u = s.fset f Reg.THM_FIELD_STATUS.TDUTY (max 1 (s.freg f Reg.THM_FIELD_STATUS.TDUTY - 4)))) ∧
  (∀ (s : State) (f : FieldId) (i : Nat) (t : Int), s.svc f ≠ svcDark → s.freg f Reg.THM_FIELD_STATUS.THROTTLE ≠ 0 → (s.thm f).broken = 0 → (s.thm f).tmax = some (i, t) → t < 372 → Leaves (exec (.tdutyStep f) s) (fun u =>
      u.freg f Reg.THM_FIELD_STATUS.TDUTY = min 64 (s.freg f Reg.THM_FIELD_STATUS.TDUTY + 1) ∧
      u.freg f Reg.THM_FIELD_STATUS.THROTTLE = (if 63 ≤ s.freg f Reg.THM_FIELD_STATUS.TDUTY then 0 else s.freg f Reg.THM_FIELD_STATUS.THROTTLE) ∧
      u = (fun (x : State) => if 63 ≤ s.freg f Reg.THM_FIELD_STATUS.TDUTY then x.fset f Reg.THM_FIELD_STATUS.THROTTLE 0 else x) (s.fset f Reg.THM_FIELD_STATUS.TDUTY (min 64 (s.freg f Reg.THM_FIELD_STATUS.TDUTY + 1))))) ∧
  (∀ (s : State) (f : FieldId) (i : Nat) (t : Int), (s.thm f).broken = 0 → (s.thm f).tmax = some (i, t) → 372 ≤ t → t < 380 → Leaves (exec (.tdutyStep f) s) (fun u =>
      u = s)) ∧
  (∀ (s : State) (f : FieldId) (p : PlotId), (s.plot f p).tine.dormant = false → (s.plot f p).tine.stopTok = true → Leaves (exec (.plotDormant f p) s) (fun u =>
      u = s.updPlot f p (fun P => { P with tine := { P.tine with dormant := true, stopTok := false } }))) ∧
  (∀ (s : State) (f : FieldId) (p : PlotId), (s.plot f p).tine.dormant = false → (s.plot f p).tine.stopTok = false → Leaves (exec (.plotDormant f p) s) (fun u =>
      u = s.tokenAsk f p false ∧
      (p.val, false) ∈ (u.thm f).tokens)) ∧
  (∀ (s : State) (f : FieldId) (p : PlotId), (s.plot f p).tine.dormant = true → Leaves (exec (.plotDormant f p) s) (fun u =>
      u = s))

/-- Frame of the package, mailbox, register, host-port and management commands: for every state and every operand the
command answers a next state; before the records of the events it raised are written, only the named parts of the state
have changed, parts of a field only in the named field, parts of a plot only in the named plot, those listed as far
anywhere; one that names no field may change its parts in any; the queue is untouched and memories keep their canonical
form. REGISTER_WRITE, MEMORY_READ and MEMORY_WRITE can reach anything through requests that wait and through what the
sequencer is asked. With none waiting and none asked, only what the address reaches: nothing for a read of the hub (a
read of the lands draws a free value), the errors a read of HBM or of a bin window meets, hub SRAM (byte by byte in
StoresWriteTheirBytes), HBM through an aperture (in WritesStayInTheirLines), one field's rim, one plot's window or one
of its bins, or the hub; a drill reaches its own window. -/
def Obligations.PackageFrame : Prop :=
  (∀ (s : State) (a : Agent) (sp : Space) (off : Nat) (bytes : Nat) (value : Nat), Ends allParts (fun _ => True) (fun _ => True) s (exec (.registerWrite a sp off bytes value) s)) ∧
  (∀ (s : State), Ends ([.reg Reg.INJ_ARITH.ARM, .reg Reg.INJ_PT.ARM, .reg Reg.INJ_PT.DONE, .ports, .gateway, .sheaf, .mirror, .tally, .hubLost, .thermal, .rimFx] : List Part) (fun _ => True) (fun _ => False) s (exec (.heartbeat) s)) ∧
  (∀ (s : State) (k : Fin 4), Ends ([.events, .hubReg Reg.HUB_D2D_STATUS.MODULES, .hubReg Reg.HUB_D2D_STATUS.UP] : List Part) (fun _ => False) (fun _ => False) s (exec (.d2dModuleLoss k) s)) ∧
  (∀ (s : State) (ep : MbxEp), Ends ([.hubReg Reg.MBX_HUB_OUT_ACK.CODE, .hubReg Reg.MBX_HUB_OUT_ACK.DONE, .hubReg Reg.MBX_HUB_OUT_META.PENDING, .hubReg Reg.MBX_HUB_OUT_META.REFUSED, .hubSlots, .reg Reg.MBX_RIM_OUT_ACK.CODE, .reg Reg.MBX_RIM_OUT_ACK.DONE, .reg Reg.MBX_RIM_OUT_META.PENDING, .reg Reg.MBX_RIM_OUT_META.REFUSED, .slot, .plotReg Reg.MBX_PLOT_OUT_ACK.CODE, .plotReg Reg.MBX_PLOT_OUT_ACK.DONE, .plotReg Reg.MBX_PLOT_OUT_META.PENDING, .plotReg Reg.MBX_PLOT_OUT_META.REFUSED, .rimSlots] : List Part) (fun _ => True) (fun _ => True) s (exec (.mailboxSend ep) s)) ∧
  (∀ (s : State) (ep : MbxEp), Ends (([.out, .hubReg Reg.MBX_HUB_IN_META.EPOCH, .hubReg Reg.MBX_HUB_IN_META.FULL, .hubReg Reg.MBX_HUB_IN_META.TAG, .hubReg Reg.MBX_HUB_IN_PTR.PTR, .hubReg Reg.MBX_HUB_OUT_ACK.CODE, .hubReg Reg.MBX_HUB_OUT_ACK.DONE, .hubReg Reg.MBX_HUB_OUT_META.PENDING, .msix, .hubSlots, .reg Reg.MBX_RIMP_IN_META.SENDER, .reg Reg.MBX_RIM_IN_META.EPOCH, .reg Reg.MBX_RIM_IN_META.FULL, .reg Reg.MBX_RIM_IN_META.TAG, .reg Reg.MBX_RIM_IN_PTR.PTR, .reg Reg.MBX_RIM_OUT_ACK.CODE] : List Part) ++ ([.reg Reg.MBX_RIM_OUT_ACK.DONE, .reg Reg.MBX_RIM_OUT_META.PENDING, .slot, .plotReg Reg.MBX_PLOT_IN_META.EPOCH, .plotReg Reg.MBX_PLOT_IN_META.FULL, .plotReg Reg.MBX_PLOT_IN_META.TAG, .plotReg Reg.MBX_PLOT_IN_PTR.PTR, .plotReg Reg.MBX_PLOT_OUT_ACK.CODE, .plotReg Reg.MBX_PLOT_OUT_ACK.DONE, .plotReg Reg.MBX_PLOT_OUT_META.PENDING, .rimSlots] : List Part)) (fun _ => True) (fun _ => True) s (exec (.mailboxDeliver ep) s)) ∧
  (∀ (s : State) (ep : MbxEp) (code : Nat), Ends ([.hubReg Reg.MBX_HUB_IN_META.FULL, .hubReg Reg.MBX_HUB_OUT_ACK.CODE, .hubReg Reg.MBX_HUB_OUT_ACK.DONE, .hubReg Reg.MBX_HUB_OUT_META.PENDING, .hubSlots, .reg Reg.MBX_RIM_IN_META.FULL, .reg Reg.MBX_RIM_OUT_ACK.CODE, .reg Reg.MBX_RIM_OUT_ACK.DONE, .reg Reg.MBX_RIM_OUT_META.PENDING, .slot, .plotReg Reg.MBX_PLOT_IN_META.FULL, .plotReg Reg.MBX_PLOT_OUT_ACK.CODE, .plotReg Reg.MBX_PLOT_OUT_ACK.DONE, .plotReg Reg.MBX_PLOT_OUT_META.PENDING, .rimSlots] : List Part) (fun _ => True) (fun _ => True) s (exec (.mailboxInAck ep code) s)) ∧
  (∀ (s : State) (fn : Fin 5) (bar2 : Bool) (addr : Nat) (len : Nat), Ends allParts (fun _ => True) (fun _ => True) s (exec (.memoryRead fn bar2 addr len) s)) ∧
  (∀ (s : State) (fn : Fin 5) (bar2 : Bool) (addr : Nat) (data : List Byte) (be : Nat) (ep : Bool), Ends allParts (fun _ => True) (fun _ => True) s (exec (.memoryWrite fn bar2 addr data be ep) s)) ∧
  (∀ (s : State) (fn : Fin 5), Ends (([.hubReg Reg.HUB_EVT_IDX.CONS, .hubReg Reg.HUB_EVT_IDX.LOST, .hubReg Reg.HUB_EVT_IDX.PROD, .hubReg Reg.HUB_EVT_RING.BASE, .hubReg Reg.HUB_EVT_RING.ENABLE, .hubReg Reg.HUB_EVT_RING.SIZE_LOG, .hubReg Reg.HUB_MGMT_DATA.WORD, .hubReg Reg.HUB_MGMT_REQ.NODE, .hubReg Reg.HUB_MGMT_REQ.OFFSET, .hubReg Reg.HUB_MGMT_REQ.WORDS, .hubReg Reg.HUB_MGMT_STATUS.BUSY, .hubReg Reg.HUB_MGMT_STATUS.RESULT, .hubReg Reg.MBX_HUB_IN_META.EPOCH, .hubReg Reg.MBX_HUB_IN_META.FULL, .hubReg Reg.MBX_HUB_IN_META.TAG, .hubReg Reg.MBX_HUB_IN_PTR.PTR] : List Part) ++ ([.hubReg Reg.MBX_HUB_OUT_ACK.CODE, .hubReg Reg.MBX_HUB_OUT_ACK.DONE, .hubReg Reg.MBX_HUB_OUT_META.EPOCH, .hubReg Reg.MBX_HUB_OUT_META.PENDING, .hubReg Reg.MBX_HUB_OUT_META.REFUSED, .hubReg Reg.MBX_HUB_OUT_META.TAG, .hubReg Reg.MBX_HUB_OUT_PTR.PTR, .hubReg Reg.MBX_HUB_ROLE.EPOCH, .msix, .host, .hubSlots, .reg Reg.FLD_APERTURE.BASE, .reg Reg.FLD_EVT_IDX.CONS, .reg Reg.FLD_EVT_IDX.LOST, .reg Reg.FLD_EVT_IDX.PROD, .reg Reg.FLD_EVT_RING.BASE] : List Part) ++ ([.reg Reg.FLD_EVT_RING.ENABLE, .reg Reg.FLD_EVT_RING.SIZE_LOG, .reg Reg.MBX_RIMP_IN_META.SENDER, .reg Reg.MBX_RIMP_OUT_META.TARGET, .reg Reg.MBX_RIM_IN_META.EPOCH, .reg Reg.MBX_RIM_IN_META.FULL, .reg Reg.MBX_RIM_IN_META.TAG, .reg Reg.MBX_RIM_IN_PTR.PTR, .reg Reg.MBX_RIM_OUT_ACK.CODE, .reg Reg.MBX_RIM_OUT_ACK.DONE, .reg Reg.MBX_RIM_OUT_META.EPOCH, .reg Reg.MBX_RIM_OUT_META.PENDING, .reg Reg.MBX_RIM_OUT_META.REFUSED, .reg Reg.MBX_RIM_OUT_META.TAG, .reg Reg.MBX_RIM_OUT_PTR.PTR, .reg Reg.MBX_RIM_ROLE.EPOCH] : List Part) ++ ([.slot, .plotReg Reg.MBX_PLOT_IN_META.EPOCH, .plotReg Reg.MBX_PLOT_IN_META.FULL, .plotReg Reg.MBX_PLOT_IN_META.TAG, .plotReg Reg.MBX_PLOT_IN_PTR.PTR, .plotReg Reg.MBX_PLOT_OUT_ACK.CODE, .plotReg Reg.MBX_PLOT_OUT_ACK.DONE, .plotReg Reg.MBX_PLOT_OUT_META.EPOCH, .plotReg Reg.MBX_PLOT_OUT_META.PENDING, .plotReg Reg.MBX_PLOT_OUT_META.REFUSED, .plotReg Reg.MBX_PLOT_OUT_META.TAG, .plotReg Reg.MBX_PLOT_OUT_PTR.PTR, .plotReg Reg.MBX_PLOT_ROLE.EPOCH, .rimSlots] : List Part)) (fun _ => True) (fun _ => True) s (exec (.functionLevelReset fn) s)) ∧
  (∀ (s : State) (fn : Fin 5) (d3 : Bool), Ends ([.host] : List Part) (fun _ => False) (fun _ => False) s (exec (.powerStateChange fn d3) s)) ∧
  (∀ (s : State) (fn : Fin 5) (cls : Fin 12) (cfg : Option MsixConfig), Ends ([.events, .out, .hubReg Reg.HUB_HOST_PHY_STATUS.STATE, .hubReg Reg.HUB_HOST_PHY_STATUS.WIDTH, .msix, .host] : List Part) (fun _ => False) (fun _ => False) s (exec (.msixMessage fn cls cfg) s)) ∧
  (∀ (s : State) (sp : Space) (v : Nat), Ends ([.hubReg Reg.HUB_EVT_IDX.CONS, .msix, .reg Reg.FLD_EVT_IDX.CONS] : List Part) (fun _ => True) (fun _ => False) s (exec (.evtConsWrite sp v) s)) ∧
  (∀ (s : State) (sp : Space) (enable : Bool) (sizeLog : Nat) (base : Nat), Ends ([.hubReg Reg.HUB_EVT_IDX.CONS, .hubReg Reg.HUB_EVT_IDX.PROD, .hubReg Reg.HUB_EVT_RING.BASE, .hubReg Reg.HUB_EVT_RING.ENABLE, .hubReg Reg.HUB_EVT_RING.SIZE_LOG, .reg Reg.FLD_EVT_IDX.CONS, .reg Reg.FLD_EVT_IDX.PROD, .reg Reg.FLD_EVT_RING.BASE, .reg Reg.FLD_EVT_RING.ENABLE, .reg Reg.FLD_EVT_RING.SIZE_LOG] : List Part) (fun _ => True) (fun _ => False) s (exec (.evtRingConfig sp enable sizeLog base) s)) ∧
  (∀ (s : State) (node : Nat) (off : Nat) (words : Nat), Ends ([.hubReg Reg.HUB_MGMT_STATUS.BUSY, .hubReg Reg.HUB_MGMT_STATUS.RESULT, .host, .router] : List Part) (fun _ => True) (fun _ => False) s (exec (.mgmtRead node off words) s)) ∧
  (∀ (s : State) (f : FieldId) (arrive : Option Packet), Ends ([.events, .binErr, .plotReg Reg.PLT_TINE_STALL.BIN_WAIT, .counts, .router, .health, .mgmt] : List Part) (· = f) (fun _ => True) s (exec (.mgmtReadServe f arrive) s)) ∧
  (∀ (s : State) (pkt : Packet), Ends ([.free, .hubReg Reg.HUB_MGMT_DATA.WORD, .hubReg Reg.HUB_MGMT_STATUS.BUSY, .hubReg Reg.HUB_MGMT_STATUS.RESULT, .host, .router] : List Part) (fun _ => True) (fun _ => False) s (exec (.mgmtReply pkt) s)) ∧
  (∀ (s : State), Ends ([.hubReg Reg.HUB_MGMT_STATUS.BUSY, .hubReg Reg.HUB_MGMT_STATUS.RESULT, .host] : List Part) (fun _ => False) (fun _ => False) s (exec (.mgmtTimeoutExpiry) s)) ∧
  (∀ (s : State) (f : FieldId), Ends ([.reg Reg.FLD_EVT_FWD.DROPPED, .router, .forward] : List Part) (· = f) (fun _ => False) s (exec (.eventForward f) s)) ∧
  (∀ (s : State) (f : FieldId) (pkt : Packet), Ends ([.sram, .hubReg Reg.HUB_EVT_IDX.LOST, .hubReg Reg.HUB_EVT_IDX.PROD, .msix, .router] : List Part) (· = f) (fun _ => False) s (exec (.forwardedEvent f pkt) s)) ∧
  (∀ (s : State) (f : FieldId), Ends ([.reg Reg.FLD_EVT_FWD.DROPPED, .forward] : List Part) (· = f) (fun _ => False) s (exec (.fwdDiscardTimeout f) s)) ∧
  (∀ (s : State), Ends ([.events, .hubReg Reg.HUB_HOST_PHY_STATUS.STATE, .hubReg Reg.HUB_HOST_PHY_STATUS.WIDTH, .host] : List Part) (fun _ => False) (fun _ => False) s (exec (.aspmL1Entry) s)) ∧
  (∀ (s : State) (ok : Bool), Ends ([.events, .hubReg Reg.HUB_HOST_PHY_CTL.RETRAIN, .hubReg Reg.HUB_HOST_PHY_STATUS.RECOVERIES, .hubReg Reg.HUB_HOST_PHY_STATUS.STATE, .hubReg Reg.HUB_HOST_PHY_STATUS.WIDTH, .seed, .host] : List Part) (fun _ => False) (fun _ => False) s (exec (.hostLinkTrained ok) s)) ∧
  (∀ (s : State), ∀ c ∈ ([.hostLinkRecovery, .hostRetrain] : List Instr),
      Ends ([.events, .hubReg Reg.HUB_HOST_PHY_CTL.RETRAIN, .hubReg Reg.HUB_HOST_PHY_STATUS.RECOVERIES, .hubReg Reg.HUB_HOST_PHY_STATUS.STATE, .hubReg Reg.HUB_HOST_PHY_STATUS.WIDTH, .host] : List Part) (fun _ => False) (fun _ => False) s (exec c s)) ∧
  (∀ (s : State) (a n : Nat) (bar2 : Bool), s.hub.host.wait = [] → s.hub.host.held = [] → Ends ([.free, .events, .out, .hubReg Reg.HUB_HOST_PHY_STATUS.STATE, .hubReg Reg.HUB_HOST_PHY_STATUS.WIDTH, .host] : List Part) (fun _ => False) (fun _ => False) s (exec (.memoryRead 0 bar2 a n) s)) ∧
  (∀ (s : State) (fn : Fin 5) (a n : Nat), s.hub.host.wait = [] → s.hub.host.held = [] → fn ≠ 0 → Ends (([.events, .out, .hubReg Reg.HUB_HOST_PHY_STATUS.STATE, .hubReg Reg.HUB_HOST_PHY_STATUS.WIDTH, .host, .hbmErr, .reg Reg.INJ_PT.ARM, .reg Reg.INJ_PT.DONE, .reg Reg.MEM_ECC_STAT.CORRECTED, .reg Reg.MEM_ECC_STAT.LAST_ADDR, .reg Reg.MEM_ECC_STAT.UNCORRECTED, .reg Reg.MEM_REPAIR_ENTRY.BANK, .reg Reg.MEM_REPAIR_ENTRY.CHANNEL, .reg Reg.MEM_REPAIR_ENTRY.PCH, .reg Reg.MEM_REPAIR_ENTRY.REASON, .reg Reg.MEM_REPAIR_ENTRY.RESULT] : List Part) ++ ([.reg Reg.MEM_REPAIR_ENTRY.ROW, .reg Reg.MEM_REPAIR_ENTRY.STACK, .reg Reg.MEM_REPAIR_ENTRY.VALID, .memu, .health] : List Part)) (· = fnField fn.val) (fun _ => False) s (exec (.memoryRead fn true a n) s)) ∧
  (∀ (s : State) (fn : Fin 5) (a n : Nat), s.hub.host.wait = [] → s.hub.host.held = [] → fn ≠ 0 → Ends ([.events, .out, .hubReg Reg.HUB_HOST_PHY_STATUS.STATE, .hubReg Reg.HUB_HOST_PHY_STATUS.WIDTH, .host, .binErr, .plotReg Reg.PLT_TINE_STALL.BIN_WAIT, .counts, .health] : List Part) (· = fnField fn.val)
      (fun p => (HostReq.bin (.read fn.val false a n)).map (fun x => x.2.1) = some p) s (exec (.memoryRead fn false a n) s)) ∧
  (∀ (s : State) (a be : Nat) (d : List Byte) (ep : Bool), s.hub.host.wait = [] → s.hub.host.held = [] → Ends ([.events, .sram, .hubReg Reg.HUB_HOST_PHY_STATUS.STATE, .hubReg Reg.HUB_HOST_PHY_STATUS.WIDTH, .host] : List Part) (fun _ => False) (fun _ => False) s (exec (.memoryWrite 0 true a d be ep) s)) ∧
  (∀ (s : State) (fn : Fin 5) (a be : Nat) (d : List Byte) (ep : Bool), s.hub.host.wait = [] → s.hub.host.held = [] → fn ≠ 0 → Ends (([.events, .hubReg Reg.HUB_HOST_PHY_STATUS.STATE, .hubReg Reg.HUB_HOST_PHY_STATUS.WIDTH, .host, .hbm, .hbmErr, .reg Reg.GWY_STAT.ABSORBED, .reg Reg.INJ_PT.ARM, .reg Reg.INJ_PT.DONE, .reg Reg.MEM_ECC_STAT.CORRECTED, .reg Reg.MEM_ECC_STAT.LAST_ADDR, .reg Reg.MEM_ECC_STAT.POISON_WRITES, .reg Reg.MEM_ECC_STAT.UNCORRECTED, .reg Reg.MEM_REPAIR_ENTRY.BANK, .reg Reg.MEM_REPAIR_ENTRY.CHANNEL, .reg Reg.MEM_REPAIR_ENTRY.PCH] : List Part) ++ ([.reg Reg.MEM_REPAIR_ENTRY.REASON, .reg Reg.MEM_REPAIR_ENTRY.RESULT, .reg Reg.MEM_REPAIR_ENTRY.ROW, .reg Reg.MEM_REPAIR_ENTRY.STACK, .reg Reg.MEM_REPAIR_ENTRY.VALID, .memu, .health] : List Part)) (· = fnField fn.val) (fun _ => False) s (exec (.memoryWrite fn true a d be ep) s)) ∧
  (∀ (s : State) (fn : Fin 5) (a n v be : Nat) (d : List Byte) (ep : Bool), s.hub.host.wait = [] → s.hub.host.held = [] → s.hub.seed.req = [] → fn ≠ 0 → fieldPlace a = .rim → ∀ x ∈ ([.memoryWrite fn false a d be ep, .registerWrite (.host fn) (fnSpace fn.val) a n v, .registerWrite .yarzin (fnSpace fn.val) a n v] : List Instr),
      Ends (([.events, .out, .hubReg Reg.HUB_EVT_IDX.CONS, .hubReg Reg.HUB_EVT_IDX.PROD, .hubReg Reg.HUB_EVT_RING.BASE, .hubReg Reg.HUB_EVT_RING.ENABLE, .hubReg Reg.HUB_EVT_RING.SIZE_LOG, .hubReg Reg.HUB_FIELD_STATE.HBM0_OK, .hubReg Reg.HUB_FIELD_STATE.HBM1_OK, .hubReg Reg.HUB_FIELD_STATE.STATE, .hubReg Reg.HUB_HOST_PHY_STATUS.STATE, .hubReg Reg.HUB_HOST_PHY_STATUS.WIDTH, .hubReg Reg.MBX_HUB_IN_META.FULL, .hubReg Reg.MBX_HUB_OUT_ACK.CODE, .hubReg Reg.MBX_HUB_OUT_ACK.DONE, .hubReg Reg.MBX_HUB_OUT_META.PENDING] : List Part) ++ ([.hubReg Reg.MBX_HUB_OUT_META.REFUSED, .msix, .light, .host, .hubSlots, .hbm, .store, .bin, .hbmErr, .storeErr, .binErr, .anyReg, .drill, .dr, .queue, .cq] : List Part) ++ ([.tine, .samples, .scrub, .notify, .xlines, .boot, .slot, .anyPlotReg, .memu, .hard, .ports, .router, .gateway, .sheaf, .health, .mirror] : List Part) ++ ([.tally, .thermal, .rimFx, .far (.reg Reg.FLD_EVT_IDX.CONS), .far (.reg Reg.FLD_EVT_IDX.PROD), .far (.reg Reg.FLD_EVT_RING.BASE), .far (.reg Reg.FLD_EVT_RING.ENABLE), .far (.reg Reg.FLD_EVT_RING.SIZE_LOG), .far (.reg Reg.MBX_RIM_IN_META.FULL), .far (.reg Reg.MBX_RIM_OUT_ACK.CODE), .far (.reg Reg.MBX_RIM_OUT_ACK.DONE), .far (.reg Reg.MBX_RIM_OUT_META.PENDING), .far (.reg Reg.MBX_RIM_OUT_META.REFUSED), .far .slot, .far (.plotReg Reg.MBX_PLOT_IN_META.FULL), .far (.plotReg Reg.MBX_PLOT_OUT_ACK.CODE)] : List Part) ++ ([.far (.plotReg Reg.MBX_PLOT_OUT_ACK.DONE), .far (.plotReg Reg.MBX_PLOT_OUT_META.PENDING), .far (.plotReg Reg.MBX_PLOT_OUT_META.REFUSED), .far .rimSlots] : List Part)) (· = fnField fn.val) (fun _ => True) s (exec x s)) ∧
  (∀ (s : State) (fn : Fin 5) (a n v be : Nat) (d : List Byte) (ep : Bool) (p : PlotId) (o : Nat), s.hub.host.wait = [] → s.hub.host.held = [] → s.hub.seed.req = [] → fn ≠ 0 → fieldPlace a = .plot p o → ∀ x ∈ ([.memoryWrite fn false a d be ep, .registerWrite (.host fn) (fnSpace fn.val) a n v, .registerWrite .yarzin (fnSpace fn.val) a n v] : List Instr),
      Ends (([.events, .hubReg Reg.HUB_HOST_PHY_STATUS.STATE, .hubReg Reg.HUB_HOST_PHY_STATUS.WIDTH, .hubReg Reg.MBX_HUB_IN_META.FULL, .hubReg Reg.MBX_HUB_OUT_ACK.CODE, .hubReg Reg.MBX_HUB_OUT_ACK.DONE, .hubReg Reg.MBX_HUB_OUT_META.PENDING, .hubReg Reg.MBX_HUB_OUT_META.REFUSED, .host, .hubSlots, .drill, .notify, .boot, .anyPlotReg, .far (.reg Reg.MBX_RIM_IN_META.FULL), .far (.reg Reg.MBX_RIM_OUT_ACK.CODE)] : List Part) ++ ([.far (.reg Reg.MBX_RIM_OUT_ACK.DONE), .far (.reg Reg.MBX_RIM_OUT_META.PENDING), .far (.reg Reg.MBX_RIM_OUT_META.REFUSED), .far .slot, .far (.plotReg Reg.MBX_PLOT_IN_META.FULL), .far (.plotReg Reg.MBX_PLOT_OUT_ACK.CODE), .far (.plotReg Reg.MBX_PLOT_OUT_ACK.DONE), .far (.plotReg Reg.MBX_PLOT_OUT_META.PENDING), .far (.plotReg Reg.MBX_PLOT_OUT_META.REFUSED), .far .rimSlots] : List Part)) (· = fnField fn.val) (· = p) s (exec x s)) ∧
  (∀ (s : State) (fn : Fin 5) (a n v be : Nat) (d : List Byte) (ep : Bool) (p : PlotId) (t r c : Nat), s.hub.host.wait = [] → s.hub.host.held = [] → s.hub.seed.req = [] → fn ≠ 0 → fieldPlace a = .bin p t r c → ∀ x ∈ ([.memoryWrite fn false a d be ep, .registerWrite (.host fn) (fnSpace fn.val) a n v, .registerWrite .yarzin (fnSpace fn.val) a n v] : List Instr),
      Ends ([.events, .hubReg Reg.HUB_HOST_PHY_STATUS.STATE, .hubReg Reg.HUB_HOST_PHY_STATUS.WIDTH, .host, .bin, .binErr, .reg Reg.INJ_ARITH.ARM, .reg Reg.INJ_ARITH.DONE, .plotReg Reg.PLT_TINE_STALL.BIN_WAIT] : List Part) (· = fnField fn.val) (· = p) s (exec x s)) ∧
  (∀ (s : State) (fn : Fin 5) (a n v be : Nat) (d : List Byte) (ep : Bool), s.hub.host.wait = [] → s.hub.host.held = [] → s.hub.seed.req = [] → fn ≠ 0 → fieldPlace a = .none → ∀ x ∈ ([.memoryWrite fn false a d be ep, .registerWrite (.host fn) (fnSpace fn.val) a n v, .registerWrite .yarzin (fnSpace fn.val) a n v] : List Instr),
      Ends ([.events, .hubReg Reg.HUB_HOST_PHY_STATUS.STATE, .hubReg Reg.HUB_HOST_PHY_STATUS.WIDTH, .host] : List Part) (fun _ => False) (fun _ => False) s (exec x s)) ∧
  (∀ (s : State) (a n v be : Nat) (d : List Byte) (ep : Bool), s.hub.host.wait = [] → s.hub.host.held = [] → s.hub.seed.req = [] → (∀ k ∈ ([Reg.SEED_STAGE_GO.STAGE, Reg.SEED_CTL.HOST_IMAGE, Reg.SEED_CTL.IMAGES_READY, Reg.HUB_JTAG_RESP.SIG_S, Reg.HUB_RESET_CTL.PART, Reg.HUB_RESET_CTL.WARM] : List RegField), k.hit 0 0 a n = false ∧ k.hit 0 0 a d.length = false) →
      ∀ x ∈ ([.memoryWrite 0 false a d be ep, .registerWrite (.host 0) .hub a n v, .registerWrite .yarzin .hub a n v, .registerWrite .jtag .hub a n v] : List Instr),
      Ends (([.free, .events, .out, .anyHubReg, .msix, .light, .hostTx, .host, .hubSlots, .power, .hubFx, .reg Reg.FLD_EVT_IDX.CONS, .reg Reg.FLD_EVT_IDX.PROD, .reg Reg.FLD_EVT_RING.BASE, .reg Reg.FLD_EVT_RING.ENABLE, .reg Reg.FLD_EVT_RING.SIZE_LOG] : List Part) ++ ([.reg Reg.HDL_ENGINE_STATUS.DARK, .reg Reg.HDL_ENGINE_STATUS.INLET_A_OK, .reg Reg.HDL_ENGINE_STATUS.INLET_B_OK, .reg Reg.HDL_ENGINE_STATUS.SRC, .reg Reg.HDL_ENGINE_STATUS.SWITCHING, .reg Reg.INJ_ARITH.ARM, .reg Reg.INJ_PT.ARM, .reg Reg.INJ_PT.DONE, .reg Reg.MBX_RIM_IN_META.FULL, .reg Reg.MBX_RIM_OUT_ACK.CODE, .reg Reg.MBX_RIM_OUT_ACK.DONE, .reg Reg.MBX_RIM_OUT_META.PENDING, .reg Reg.MBX_RIM_OUT_META.REFUSED, .reg Reg.RTE_COMB_STAT.MERGED, .reg Reg.RTE_COMB_STAT.PEAK, .reg Reg.RTE_LINK_CNT.LOST] : List Part) ++ ([.reg Reg.RTE_LINK_CNT.NAKS, .reg Reg.RTE_LINK_CNT.REPLAYED, .reg Reg.RTE_LINK_CNT.TX_FLITS, .reg Reg.RTE_LINK_CREDIT.RES, .reg Reg.RTE_LINK_CREDIT.SHARED, .reg Reg.RTE_LINK_STATUS.PRESERVED, .reg Reg.RTE_LINK_STATUS.RESULT, .reg Reg.RTE_LINK_STATUS.STATE, .reg Reg.THM_FIELD_STATUS.POINT, .slot, .plotReg Reg.MBX_PLOT_IN_META.FULL, .plotReg Reg.MBX_PLOT_OUT_ACK.CODE, .plotReg Reg.MBX_PLOT_OUT_ACK.DONE, .plotReg Reg.MBX_PLOT_OUT_META.PENDING, .plotReg Reg.MBX_PLOT_OUT_META.REFUSED, .ports] : List Part) ++ ([.router, .gateway, .sheaf, .health, .mirror, .tally, .hubLost, .rimSlots, .thermal, .rimFx] : List Part)) (fun _ => True) (fun _ => True) s (exec x s)) ∧
  (∀ (s : State) (f : FieldId) (p : PlotId) (sp : Space) (a n v : Nat), Ends (([.hubReg Reg.MBX_HUB_IN_META.FULL, .hubReg Reg.MBX_HUB_OUT_ACK.CODE, .hubReg Reg.MBX_HUB_OUT_ACK.DONE, .hubReg Reg.MBX_HUB_OUT_META.PENDING, .hubReg Reg.MBX_HUB_OUT_META.REFUSED, .hubSlots, .drill, .notify, .boot, .anyPlotReg, .far (.reg Reg.MBX_RIM_IN_META.FULL), .far (.reg Reg.MBX_RIM_OUT_ACK.CODE), .far (.reg Reg.MBX_RIM_OUT_ACK.DONE), .far (.reg Reg.MBX_RIM_OUT_META.PENDING), .far (.reg Reg.MBX_RIM_OUT_META.REFUSED), .far .slot] : List Part) ++ ([.far (.plotReg Reg.MBX_PLOT_IN_META.FULL), .far (.plotReg Reg.MBX_PLOT_OUT_ACK.CODE), .far (.plotReg Reg.MBX_PLOT_OUT_ACK.DONE), .far (.plotReg Reg.MBX_PLOT_OUT_META.PENDING), .far (.plotReg Reg.MBX_PLOT_OUT_META.REFUSED), .far .rimSlots] : List Part)) (· = f) (· = p) s (exec (.registerWrite (.drill f p) sp a n v) s))

/-- Frame of the tile-pass commands: for every state and every operand the command answers a next state; before the
records of the events it raised are written, only the named parts of the state have changed, parts of a field only in
the named field, parts of a plot only in the named plot, those listed as far anywhere; one that names no field may
change its parts in any; the queue is untouched and memories keep their canonical form. -/
def Obligations.TileFrame : Prop :=
  (∀ (s : State) (f : FieldId) (p : PlotId), Ends (([.events, .bin, .storeErr, .binErr, .reg Reg.INJ_ARITH.ARM, .reg Reg.INJ_ARITH.DONE, .reg Reg.INJ_PT.ARM, .reg Reg.INJ_PT.DONE, .queue, .tine, .samples, .plotReg Reg.PLT_CLASS_HI.TERN_RESERVED, .plotReg Reg.PLT_CLASS_HI.UNDERFLOW, .plotReg Reg.PLT_CLASS_LO.INF_IN, .plotReg Reg.PLT_CLASS_LO.NAN_IN, .plotReg Reg.PLT_CLASS_LO.SAT_BLOCK] : List Part) ++ ([.plotReg Reg.PLT_CLASS_LO.SAT_RANGE, .plotReg Reg.PLT_QUEUE_STALL.CLAIM, .plotReg Reg.PLT_STORE_ECC.CORRECTED, .plotReg Reg.PLT_STORE_ECC.LAST_ADDR, .plotReg Reg.PLT_STORE_ECC.UNCORRECTED, .plotReg Reg.PLT_TINE_COUNT.ROWS, .plotReg Reg.PLT_TINE_STALL.BIN_WAIT, .plotReg Reg.PLT_TINE_STALL.LOAD_STALL, .plotReg Reg.PLT_WITNESS_LOG.BIN_ROW, .plotReg Reg.PLT_WITNESS_LOG.BOUNDED, .plotReg Reg.PLT_WITNESS_LOG.COUNT, .plotReg Reg.PLT_WITNESS_LOG.INJECTED, .plotReg Reg.PLT_WITNESS_LOG.LAYER_TAG, .plotReg Reg.PLT_WITNESS_LOG.SKIPPED, .plotReg Reg.PLT_WITNESS_LOG.TINE, .plotReg Reg.PLT_WITNESS_LOG.VALID] : List Part) ++ ([.plotReg Reg.PLT_WITNESS_PASS.PASS, .drift, .counts, .health, .thermal] : List Part)) (· = f) (· = p) s (exec (.tinePassStart f p) s)) ∧
  (∀ (s : State) (f : FieldId) (p : PlotId), Ends (([.events, .storeErr, .reg Reg.INJ_ARITH.ARM, .reg Reg.INJ_ARITH.DONE, .reg Reg.INJ_PT.ARM, .reg Reg.INJ_PT.DONE, .queue, .tine, .plotReg Reg.PLT_CLASS_HI.TERN_RESERVED, .plotReg Reg.PLT_CLASS_HI.UNDERFLOW, .plotReg Reg.PLT_CLASS_LO.INF_IN, .plotReg Reg.PLT_CLASS_LO.NAN_IN, .plotReg Reg.PLT_CLASS_LO.SAT_BLOCK, .plotReg Reg.PLT_CLASS_LO.SAT_RANGE, .plotReg Reg.PLT_QUEUE_STALL.CLAIM, .plotReg Reg.PLT_STORE_ECC.CORRECTED] : List Part) ++ ([.plotReg Reg.PLT_STORE_ECC.LAST_ADDR, .plotReg Reg.PLT_STORE_ECC.UNCORRECTED, .drift, .health] : List Part)) (· = f) (· = p) s (exec (.weightLoad f p) s)) ∧
  (∀ (s : State) (f : FieldId) (p : PlotId), Ends (([.events, .binErr, .queue, .cq, .plotReg Reg.PLT_CLASS_HI.TERN_RESERVED, .plotReg Reg.PLT_CLASS_HI.UNDERFLOW, .plotReg Reg.PLT_CLASS_LO.INF_IN, .plotReg Reg.PLT_CLASS_LO.NAN_IN, .plotReg Reg.PLT_CLASS_LO.SAT_BLOCK, .plotReg Reg.PLT_CLASS_LO.SAT_RANGE, .plotReg Reg.PLT_CQ_STATUS.LOST, .plotReg Reg.PLT_CQ_STATUS.OVERFLOW, .plotReg Reg.PLT_CQ_SUMMARY.CLASS_SEEN, .plotReg Reg.PLT_CQ_SUMMARY.ERR, .plotReg Reg.PLT_CQ_SUMMARY.ERR_QSN, .plotReg Reg.PLT_CQ_SUMMARY.ERR_STATUS] : List Part) ++ ([.plotReg Reg.PLT_TINE_COUNT.PASSES, .drift, .counts, .hard] : List Part)) (· = f) (· = p) s (exec (.tinePassRetire f p) s)) ∧
  (∀ (s : State) (f : FieldId) (p : PlotId), Ends (([.events, .bin, .binErr, .reg Reg.INJ_ARITH.ARM, .reg Reg.INJ_ARITH.DONE, .queue, .cq, .plotReg Reg.PLT_CLASS_HI.TERN_RESERVED, .plotReg Reg.PLT_CLASS_HI.UNDERFLOW, .plotReg Reg.PLT_CLASS_LO.INF_IN, .plotReg Reg.PLT_CLASS_LO.NAN_IN, .plotReg Reg.PLT_CLASS_LO.SAT_BLOCK, .plotReg Reg.PLT_CLASS_LO.SAT_RANGE, .plotReg Reg.PLT_CQ_STATUS.LOST, .plotReg Reg.PLT_CQ_STATUS.OVERFLOW, .plotReg Reg.PLT_CQ_SUMMARY.CLASS_SEEN] : List Part) ++ ([.plotReg Reg.PLT_CQ_SUMMARY.ERR, .plotReg Reg.PLT_CQ_SUMMARY.ERR_QSN, .plotReg Reg.PLT_CQ_SUMMARY.ERR_STATUS, .plotReg Reg.PLT_TINE_COUNT.PASSES, .plotReg Reg.PLT_TINE_STALL.BIN_WAIT, .drift] : List Part)) (· = f) (· = p) s (exec (.degenerateRetire f p) s)) ∧
  (∀ (s : State) (f : FieldId) (p : PlotId), Ends ([.events, .samples, .drift] : List Part) (· = f) (· = p) s (exec (.sampleProcess f p) s)) ∧
  (∀ (s : State) (f : FieldId) (p : PlotId), Ends ([.queue] : List Part) (· = f) (· = p) s (exec (.tscdrainStart f p) s)) ∧
  (∀ (s : State) (f : FieldId) (p : PlotId), Ends ([.drill] : List Part) (· = f) (· = p) s (exec (.twaitEnd f p) s)) ∧
  (∀ (s : State) (f : FieldId) (plot : PlotId) (tine : TineId) (column : Fin 32) (b : Fin 64) (lane : Bool), ∀ c ∈ ([.injWitnessLane f plot tine column b lane, .injWitnessWeight f plot tine column b lane, .injScarecrowBias f plot tine column b lane, .injBinSingle f plot tine column b lane, .injBinDouble f plot tine column b lane, .injClassReport f plot tine column b lane] : List Instr),
      Ends ([.reg Reg.INJ_ARITH.ARM, .reg Reg.INJ_ARITH.BIT, .reg Reg.INJ_ARITH.COLUMN, .reg Reg.INJ_ARITH.LANE, .reg Reg.INJ_ARITH.NOFIRE, .reg Reg.INJ_ARITH.PLOT, .reg Reg.INJ_ARITH.POINT, .reg Reg.INJ_ARITH.TINE] : List Part) (· = f) (fun _ => False) s (exec c s)) ∧
  (∀ (s : State) (f : FieldId) (p : PlotId), ∀ c ∈ ([.tfenceStart f p, .tscdrainComplete f p] : List Instr),
      Ends ([.queue, .cq, .plotReg Reg.PLT_CQ_STATUS.LOST, .plotReg Reg.PLT_CQ_STATUS.OVERFLOW, .plotReg Reg.PLT_CQ_SUMMARY.CLASS_SEEN, .plotReg Reg.PLT_CQ_SUMMARY.ERR, .plotReg Reg.PLT_CQ_SUMMARY.ERR_QSN, .plotReg Reg.PLT_CQ_SUMMARY.ERR_STATUS] : List Part) (· = f) (· = p) s (exec c s))

/-- Frame of the vector commands: for every state and every operand the command answers a next state; before the records
of the events it raised are written, only the named parts of the state have changed, parts of a field only in the named
field, parts of a plot only in the named plot, those listed as far anywhere; one that names no field may change its
parts in any; the queue is untouched and memories keep their canonical form. Which bytes of the store change:
WritesStayInTheirLines. -/
def Obligations.VectorFrame : Prop :=
  (∀ (s : State) (f : FieldId) (p : PlotId), Ends ([.events, .queue, .cq, .plotReg Reg.PLT_CLASS_HI.TERN_RESERVED, .plotReg Reg.PLT_CLASS_HI.UNDERFLOW, .plotReg Reg.PLT_CLASS_LO.INF_IN, .plotReg Reg.PLT_CLASS_LO.NAN_IN, .plotReg Reg.PLT_CLASS_LO.SAT_BLOCK, .plotReg Reg.PLT_CLASS_LO.SAT_RANGE, .plotReg Reg.PLT_CQ_STATUS.LOST, .plotReg Reg.PLT_CQ_STATUS.OVERFLOW, .plotReg Reg.PLT_CQ_SUMMARY.CLASS_SEEN, .plotReg Reg.PLT_CQ_SUMMARY.ERR, .plotReg Reg.PLT_CQ_SUMMARY.ERR_QSN, .plotReg Reg.PLT_CQ_SUMMARY.ERR_STATUS, .drift] : List Part) (· = f) (· = p) s (exec (.tvecComplete f p) s)) ∧
  (∀ (s : State) (f : FieldId) (p : PlotId), ∀ c ∈ ([.tvecNop f p, .tvecAdd f p, .tvecSub f p, .tvecMul f p, .tvecFma f p, .tvecMin f p, .tvecMax f p, .tvecAbs f p, .tvecNeg f p, .tvecCmp f p, .tvecSelect f p, .tvecExp2 f p] : List Instr) ++
      ([.tvecLog2 f p, .tvecRecip f p, .tvecRsqrt f p, .tvecIadd f p, .tvecIsub f p, .tvecImin f p, .tvecImax f p, .tvecAnd f p, .tvecOr f p, .tvecXor f p, .tvecSll f p, .tvecSra f p] : List Instr) ++
      ([.tvecSrl f p, .tvecIcmp f p, .tvecCvt f p, .tvecBenc f p, .tvecBscale f p, .tvecBdec f p, .tvecAmax f p, .tvecSum f p] : List Instr),
      Ends (([.events, .store, .bin, .storeErr, .binErr, .reg Reg.INJ_ARITH.ARM, .reg Reg.INJ_ARITH.DONE, .reg Reg.INJ_PT.ARM, .reg Reg.INJ_PT.DONE, .queue, .plotReg Reg.PLT_CLASS_HI.TERN_RESERVED, .plotReg Reg.PLT_CLASS_HI.UNDERFLOW, .plotReg Reg.PLT_CLASS_LO.INF_IN, .plotReg Reg.PLT_CLASS_LO.NAN_IN, .plotReg Reg.PLT_CLASS_LO.SAT_BLOCK, .plotReg Reg.PLT_CLASS_LO.SAT_RANGE] : List Part) ++ ([.plotReg Reg.PLT_QUEUE_STALL.CLAIM, .plotReg Reg.PLT_STORE_ECC.CORRECTED, .plotReg Reg.PLT_STORE_ECC.LAST_ADDR, .plotReg Reg.PLT_STORE_ECC.UNCORRECTED, .plotReg Reg.PLT_TINE_STALL.BIN_WAIT, .drift, .counts, .health] : List Part)) (· = f) (· = p) s (exec c s))

/-- Frame of the drill commands: for every state and every operand the command answers a next state; before the records
of the events it raised are written, only the named parts of the state have changed, parts of a field only in the named
field, parts of a plot only in the named plot, those listed as far anywhere; one that names no field may change its
parts in any; the queue is untouched and memories keep their canonical form. BOOT_FETCH: of a plot whose delivery fails,
its own drill is held. Which bytes of a store change: StoresWriteTheirBytes. -/
def Obligations.DrillFrame : Prop :=
  (∀ (s : State) (f : FieldId) (p : PlotId), Ends (([.events, .hubReg Reg.MBX_HUB_IN_META.FULL, .hubReg Reg.MBX_HUB_OUT_ACK.CODE, .hubReg Reg.MBX_HUB_OUT_ACK.DONE, .hubReg Reg.MBX_HUB_OUT_META.PENDING, .hubReg Reg.MBX_HUB_OUT_META.REFUSED, .hubSlots, .store, .bin, .storeErr, .binErr, .reg Reg.INJ_ARITH.ARM, .reg Reg.INJ_ARITH.DONE, .reg Reg.INJ_PT.ARM, .reg Reg.INJ_PT.DONE, .drill] : List Part) ++ ([.dr, .queue, .cq, .notify, .boot, .anyPlotReg, .counts, .health, .far (.reg Reg.MBX_RIM_IN_META.FULL), .far (.reg Reg.MBX_RIM_OUT_ACK.CODE), .far (.reg Reg.MBX_RIM_OUT_ACK.DONE), .far (.reg Reg.MBX_RIM_OUT_META.PENDING), .far (.reg Reg.MBX_RIM_OUT_META.REFUSED), .far .slot, .far (.plotReg Reg.MBX_PLOT_IN_META.FULL), .far (.plotReg Reg.MBX_PLOT_OUT_ACK.CODE)] : List Part) ++ ([.far (.plotReg Reg.MBX_PLOT_OUT_ACK.DONE), .far (.plotReg Reg.MBX_PLOT_OUT_META.PENDING), .far (.plotReg Reg.MBX_PLOT_OUT_META.REFUSED), .far .rimSlots] : List Part)) (· = f) (· = p) s (exec (.drillInstruction f p) s)) ∧
  (∀ (s : State) (f : FieldId) (p : PlotId) (k : LoadKind) (rd : Fin 32) (rs1 : Fin 32) (imm : Int) (compressed : Bool), Ends ([.events, .storeErr, .binErr, .reg Reg.INJ_PT.ARM, .reg Reg.INJ_PT.DONE, .drill, .cq, .plotReg Reg.PLT_QUEUE_STALL.CLAIM, .plotReg Reg.PLT_STORE_ECC.CORRECTED, .plotReg Reg.PLT_STORE_ECC.LAST_ADDR, .plotReg Reg.PLT_STORE_ECC.UNCORRECTED, .plotReg Reg.PLT_TINE_STALL.BIN_WAIT, .counts, .health] : List Part) (· = f) (· = p) s (exec (.drillLoad f p k rd rs1 imm compressed) s)) ∧
  (∀ (s : State) (f : FieldId) (p : PlotId) (k : StoreKind) (rs2 : Fin 32) (rs1 : Fin 32) (imm : Int) (compressed : Bool), Ends (([.events, .hubReg Reg.MBX_HUB_IN_META.FULL, .hubReg Reg.MBX_HUB_OUT_ACK.CODE, .hubReg Reg.MBX_HUB_OUT_ACK.DONE, .hubReg Reg.MBX_HUB_OUT_META.PENDING, .hubReg Reg.MBX_HUB_OUT_META.REFUSED, .hubSlots, .store, .bin, .storeErr, .binErr, .reg Reg.INJ_ARITH.ARM, .reg Reg.INJ_ARITH.DONE, .drill, .notify, .boot] : List Part) ++ ([.anyPlotReg, .health, .far (.reg Reg.MBX_RIM_IN_META.FULL), .far (.reg Reg.MBX_RIM_OUT_ACK.CODE), .far (.reg Reg.MBX_RIM_OUT_ACK.DONE), .far (.reg Reg.MBX_RIM_OUT_META.PENDING), .far (.reg Reg.MBX_RIM_OUT_META.REFUSED), .far .slot, .far (.plotReg Reg.MBX_PLOT_IN_META.FULL), .far (.plotReg Reg.MBX_PLOT_OUT_ACK.CODE), .far (.plotReg Reg.MBX_PLOT_OUT_ACK.DONE), .far (.plotReg Reg.MBX_PLOT_OUT_META.PENDING), .far (.plotReg Reg.MBX_PLOT_OUT_META.REFUSED), .far .rimSlots] : List Part)) (· = f) (· = p) s (exec (.drillStore f p k rs2 rs1 imm compressed) s)) ∧
  (∀ (s : State) (f : FieldId) (p : PlotId) (compressed : Bool), Ends ([.events, .drill] : List Part) (· = f) (· = p) s (exec (.ebreak f p compressed) s)) ∧
  (∀ (s : State) (f : FieldId) (p : PlotId), Ends ([.free, .drill] : List Part) (· = f) (· = p) s (exec (.drillInterrupt f p) s)) ∧
  (∀ (s : State) (f : FieldId) (p : PlotId) (v : Nat) (leaves : Bool), Ends (([.events, .hubReg Reg.MBX_HUB_IN_META.FULL, .hubReg Reg.MBX_HUB_OUT_ACK.CODE, .hubReg Reg.MBX_HUB_OUT_ACK.DONE, .hubReg Reg.MBX_HUB_OUT_META.PENDING, .hubReg Reg.MBX_HUB_OUT_META.REFUSED, .hubSlots, .drill, .notify, .boot, .anyPlotReg, .far (.reg Reg.MBX_RIM_IN_META.FULL), .far (.reg Reg.MBX_RIM_OUT_ACK.CODE), .far (.reg Reg.MBX_RIM_OUT_ACK.DONE), .far (.reg Reg.MBX_RIM_OUT_META.PENDING), .far (.reg Reg.MBX_RIM_OUT_META.REFUSED)] : List Part) ++ ([.far .slot, .far (.plotReg Reg.MBX_PLOT_IN_META.FULL), .far (.plotReg Reg.MBX_PLOT_OUT_ACK.CODE), .far (.plotReg Reg.MBX_PLOT_OUT_ACK.DONE), .far (.plotReg Reg.MBX_PLOT_OUT_META.PENDING), .far (.plotReg Reg.MBX_PLOT_OUT_META.REFUSED), .far .rimSlots] : List Part)) (· = f) (· = p) s (exec (.pltNotify f p v leaves) s)) ∧
  (∀ (s : State) (f : FieldId) (p : PlotId) (dr : Fin 8) (rs1 : Fin 32), Ends ([.events, .storeErr, .reg Reg.INJ_PT.ARM, .reg Reg.INJ_PT.DONE, .drill, .dr, .plotReg Reg.PLT_QUEUE_STALL.CLAIM, .plotReg Reg.PLT_STORE_ECC.CORRECTED, .plotReg Reg.PLT_STORE_ECC.LAST_ADDR, .plotReg Reg.PLT_STORE_ECC.UNCORRECTED, .health] : List Part) (· = f) (· = p) s (exec (.tdld f p dr rs1) s)) ∧
  (∀ (s : State) (f : FieldId) (p : PlotId) (dr : Fin 8) (rs1 : Fin 32) (w : Fin 16), Ends ([.drill, .dr] : List Part) (· = f) (· = p) s (exec (.tdset f p dr rs1 w) s)) ∧
  (∀ (s : State) (f : FieldId) (p : PlotId) (rd : Fin 32) (dr : Fin 8) (w : Fin 16), Ends ([.drill] : List Part) (· = f) (· = p) s (exec (.tdget f p rd dr w) s)) ∧
  (∀ (s : State) (f : FieldId) (p : PlotId) (rd : Fin 32) (rs1 : Fin 32), Ends (([.events, .storeErr, .reg Reg.INJ_ARITH.ARM, .reg Reg.INJ_ARITH.DONE, .reg Reg.INJ_PT.ARM, .reg Reg.INJ_PT.DONE, .drill, .queue, .cq, .plotReg Reg.PLT_CQ_STATUS.LOST, .plotReg Reg.PLT_CQ_STATUS.OVERFLOW, .plotReg Reg.PLT_CQ_SUMMARY.CLASS_SEEN, .plotReg Reg.PLT_CQ_SUMMARY.ERR, .plotReg Reg.PLT_CQ_SUMMARY.ERR_QSN, .plotReg Reg.PLT_CQ_SUMMARY.ERR_STATUS, .plotReg Reg.PLT_QUEUE_STALL.CLAIM] : List Part) ++ ([.plotReg Reg.PLT_QUEUE_STALL.FULL, .plotReg Reg.PLT_STORE_ECC.CORRECTED, .plotReg Reg.PLT_STORE_ECC.LAST_ADDR, .plotReg Reg.PLT_STORE_ECC.UNCORRECTED, .health] : List Part)) (· = f) (· = p) s (exec (.txfer f p rd rs1) s)) ∧
  (∀ (s : State) (f : FieldId) (p : PlotId) (rd : Fin 32) (rs1 : Fin 32) (int : Bool), Ends ([.reg Reg.INJ_ARITH.ARM, .reg Reg.INJ_ARITH.DONE, .drill, .queue, .cq, .plotReg Reg.PLT_CQ_STATUS.LOST, .plotReg Reg.PLT_CQ_STATUS.OVERFLOW, .plotReg Reg.PLT_CQ_SUMMARY.CLASS_SEEN, .plotReg Reg.PLT_CQ_SUMMARY.ERR, .plotReg Reg.PLT_CQ_SUMMARY.ERR_QSN, .plotReg Reg.PLT_CQ_SUMMARY.ERR_STATUS, .plotReg Reg.PLT_QUEUE_STALL.FULL] : List Part) (· = f) (· = p) s (exec (.trfence f p rd rs1 int) s)) ∧
  (∀ (s : State) (f : FieldId) (p : PlotId) (rd : Fin 32) (rs1 : Fin 32), Ends ([.drill] : List Part) (· = f) (· = p) s (exec (.twait f p rd rs1) s)) ∧
  (∀ (s : State) (f : FieldId) (p : PlotId) (rd : Fin 32) (rs1 : Fin 32) (imm : Int) (compressed : Bool), Ends ([.events, .storeErr, .binErr, .reg Reg.INJ_PT.ARM, .reg Reg.INJ_PT.DONE, .drill, .cq, .plotReg Reg.PLT_QUEUE_STALL.CLAIM, .plotReg Reg.PLT_STORE_ECC.CORRECTED, .plotReg Reg.PLT_STORE_ECC.LAST_ADDR, .plotReg Reg.PLT_STORE_ECC.UNCORRECTED, .plotReg Reg.PLT_TINE_STALL.BIN_WAIT, .counts, .health] : List Part) (· = f) (· = p) s (exec (.cqPop f p rd rs1 imm compressed) s)) ∧
  (∀ (s : State) (f : FieldId) (p : PlotId), ∀ c ∈ ([.ecall f p, .haltReqHonour f p] : List Instr),
      Ends ([.events, .drill] : List Part) (· = f) (· = p) s (exec c s)) ∧
  (∀ (s : State) (f : FieldId) (p : PlotId), ∀ c ∈ ([.mret f p, .wfi f p, .wfiWake f p, .fence f p, .fenceI f p, .haltReq f p, .resume f p] : List Instr),
      Ends ([.drill] : List Part) (· = f) (· = p) s (exec c s)) ∧
  (∀ (s : State) (f : FieldId) (p : PlotId), ∀ c ∈ ([.drillHoldSet f p, .drillHoldClear f p] : List Instr),
      Ends ([.drill, .boot, .plotReg Reg.PLT_BOOT.STATUS] : List Part) (· = f) (· = p) s (exec c s)) ∧
  (∀ (s : State) (f : FieldId) (p : PlotId) (v : Nat), ∀ c ∈ ([.pltDoorbellSet f p v, .pltDoorbellClear f p v] : List Instr),
      Ends (([.hubReg Reg.MBX_HUB_IN_META.FULL, .hubReg Reg.MBX_HUB_OUT_ACK.CODE, .hubReg Reg.MBX_HUB_OUT_ACK.DONE, .hubReg Reg.MBX_HUB_OUT_META.PENDING, .hubReg Reg.MBX_HUB_OUT_META.REFUSED, .hubSlots, .drill, .notify, .boot, .anyPlotReg, .far (.reg Reg.MBX_RIM_IN_META.FULL), .far (.reg Reg.MBX_RIM_OUT_ACK.CODE), .far (.reg Reg.MBX_RIM_OUT_ACK.DONE), .far (.reg Reg.MBX_RIM_OUT_META.PENDING), .far (.reg Reg.MBX_RIM_OUT_META.REFUSED), .far .slot] : List Part) ++ ([.far (.plotReg Reg.MBX_PLOT_IN_META.FULL), .far (.plotReg Reg.MBX_PLOT_OUT_ACK.CODE), .far (.plotReg Reg.MBX_PLOT_OUT_ACK.DONE), .far (.plotReg Reg.MBX_PLOT_OUT_META.PENDING), .far (.plotReg Reg.MBX_PLOT_OUT_META.REFUSED), .far .rimSlots] : List Part)) (· = f) (· = p) s (exec c s)) ∧
  (∀ (s : State) (f : FieldId) (p : PlotId) (rd : Fin 32) (dr : Fin 8) (rs2 : Fin 32) (int : Bool), ∀ c ∈ ([.tmm f p rd dr rs2 int, .tvec f p rd dr rs2 int] : List Instr),
      Ends ([.reg Reg.INJ_ARITH.ARM, .reg Reg.INJ_ARITH.DONE, .drill, .queue, .cq, .plotReg Reg.PLT_CQ_STATUS.LOST, .plotReg Reg.PLT_CQ_STATUS.OVERFLOW, .plotReg Reg.PLT_CQ_SUMMARY.CLASS_SEEN, .plotReg Reg.PLT_CQ_SUMMARY.ERR, .plotReg Reg.PLT_CQ_SUMMARY.ERR_QSN, .plotReg Reg.PLT_CQ_SUMMARY.ERR_STATUS, .plotReg Reg.PLT_QUEUE_STALL.FULL] : List Part) (· = f) (· = p) s (exec c s)) ∧
  (∀ (s : State) (f : FieldId) (p : PlotId) (rd : Fin 32) (int : Bool), ∀ c ∈ ([.tfence f p rd int, .tscdrain f p rd int] : List Instr),
      Ends ([.reg Reg.INJ_ARITH.ARM, .reg Reg.INJ_ARITH.DONE, .drill, .queue, .cq, .plotReg Reg.PLT_CQ_STATUS.LOST, .plotReg Reg.PLT_CQ_STATUS.OVERFLOW, .plotReg Reg.PLT_CQ_SUMMARY.CLASS_SEEN, .plotReg Reg.PLT_CQ_SUMMARY.ERR, .plotReg Reg.PLT_CQ_SUMMARY.ERR_QSN, .plotReg Reg.PLT_CQ_SUMMARY.ERR_STATUS, .plotReg Reg.PLT_QUEUE_STALL.FULL] : List Part) (· = f) (· = p) s (exec c s))

/-- Frame of the transfer, synchronisation and completion commands: for every state and every operand the command
answers a next state; before the records of the events it raised are written, only the named parts of the state have
changed, parts of a field only in the named field, parts of a plot only in the named plot, those listed as far anywhere;
one that names no field may change its parts in any; the queue is untouched and memories keep their canonical form.
XFER_LINE_DONE also counts the errors of the plot store its line lies in, whichever plot's, and TRFENCE_START also moves
the entries of fences of other plots. -/
def Obligations.TransferFrame : Prop :=
  (∀ (s : State) (f : FieldId) (p : PlotId), Ends (([.events, .storeErr, .binErr, .reg Reg.INJ_PT.ARM, .reg Reg.INJ_PT.DONE, .queue, .xlines, .plotReg Reg.PLT_CLASS_HI.TERN_RESERVED, .plotReg Reg.PLT_CLASS_HI.UNDERFLOW, .plotReg Reg.PLT_CLASS_LO.INF_IN, .plotReg Reg.PLT_CLASS_LO.NAN_IN, .plotReg Reg.PLT_CLASS_LO.SAT_BLOCK, .plotReg Reg.PLT_CLASS_LO.SAT_RANGE, .plotReg Reg.PLT_STORE_ECC.CORRECTED, .plotReg Reg.PLT_STORE_ECC.LAST_ADDR, .plotReg Reg.PLT_STORE_ECC.UNCORRECTED] : List Part) ++ ([.drift, .counts, .health] : List Part)) (· = f) (· = p) s (exec (.xferLineIssue f p) s)) ∧
  (∀ (s : State) (f : FieldId) (p : PlotId) (qsn : Nat) (line : Nat), Ends (([.events, .hbm, .store, .bin, .hbmErr, .storeErr, .binErr, .reg Reg.GWY_STAT.ABSORBED, .reg Reg.INJ_ARITH.ARM, .reg Reg.INJ_ARITH.DONE, .reg Reg.INJ_PT.ARM, .reg Reg.INJ_PT.DONE, .reg Reg.MEM_ECC_STAT.CORRECTED, .reg Reg.MEM_ECC_STAT.LAST_ADDR, .reg Reg.MEM_ECC_STAT.POISON_WRITES, .reg Reg.MEM_ECC_STAT.UNCORRECTED] : List Part) ++ ([.reg Reg.MEM_REPAIR_ENTRY.BANK, .reg Reg.MEM_REPAIR_ENTRY.CHANNEL, .reg Reg.MEM_REPAIR_ENTRY.PCH, .reg Reg.MEM_REPAIR_ENTRY.REASON, .reg Reg.MEM_REPAIR_ENTRY.RESULT, .reg Reg.MEM_REPAIR_ENTRY.ROW, .reg Reg.MEM_REPAIR_ENTRY.STACK, .reg Reg.MEM_REPAIR_ENTRY.VALID, .queue, .xlines, .plotReg Reg.PLT_STORE_ECC.CORRECTED, .plotReg Reg.PLT_STORE_ECC.LAST_ADDR, .plotReg Reg.PLT_STORE_ECC.UNCORRECTED, .memu, .health] : List Part)) (· = f) (fun _ => True) s (exec (.xferLineDone f p qsn line) s) ∧
      Ends (([.events, .hbm, .store, .bin, .hbmErr, .storeErr, .binErr, .reg Reg.GWY_STAT.ABSORBED, .reg Reg.INJ_ARITH.ARM, .reg Reg.INJ_ARITH.DONE, .reg Reg.INJ_PT.ARM, .reg Reg.INJ_PT.DONE, .reg Reg.MEM_ECC_STAT.CORRECTED, .reg Reg.MEM_ECC_STAT.LAST_ADDR, .reg Reg.MEM_ECC_STAT.POISON_WRITES, .reg Reg.MEM_ECC_STAT.UNCORRECTED] : List Part) ++ ([.reg Reg.MEM_REPAIR_ENTRY.BANK, .reg Reg.MEM_REPAIR_ENTRY.CHANNEL, .reg Reg.MEM_REPAIR_ENTRY.PCH, .reg Reg.MEM_REPAIR_ENTRY.REASON, .reg Reg.MEM_REPAIR_ENTRY.RESULT, .reg Reg.MEM_REPAIR_ENTRY.ROW, .reg Reg.MEM_REPAIR_ENTRY.STACK, .reg Reg.MEM_REPAIR_ENTRY.VALID, .queue, .xlines, .plotReg Reg.PLT_STORE_ECC.CORRECTED, .plotReg Reg.PLT_STORE_ECC.LAST_ADDR, .plotReg Reg.PLT_STORE_ECC.UNCORRECTED, .memu, .health, .far (.plotReg Reg.PLT_STORE_ECC.CORRECTED)] : List Part) ++ ([.far (.plotReg Reg.PLT_STORE_ECC.LAST_ADDR), .far (.plotReg Reg.PLT_STORE_ECC.UNCORRECTED)] : List Part)) (· = f) (· = p) s (exec (.xferLineDone f p qsn line) s)) ∧
  (∀ (s : State) (f : FieldId) (p : PlotId) (qsn : Nat), Ends ([.queue, .cq, .plotReg Reg.PLT_CQ_STATUS.LOST, .plotReg Reg.PLT_CQ_STATUS.OVERFLOW, .plotReg Reg.PLT_CQ_SUMMARY.CLASS_SEEN, .plotReg Reg.PLT_CQ_SUMMARY.ERR, .plotReg Reg.PLT_CQ_SUMMARY.ERR_QSN, .plotReg Reg.PLT_CQ_SUMMARY.ERR_STATUS] : List Part) (· = f) (· = p) s (exec (.xferDescriptorComplete f p qsn) s)) ∧
  (∀ (s : State) (f : FieldId) (p : PlotId), Ends ([.reg Reg.INJ_PT.ARM, .reg Reg.INJ_PT.DONE, .queue, .cq, .plotReg Reg.PLT_CQ_STATUS.LOST, .plotReg Reg.PLT_CQ_STATUS.OVERFLOW, .plotReg Reg.PLT_CQ_SUMMARY.CLASS_SEEN, .plotReg Reg.PLT_CQ_SUMMARY.ERR, .plotReg Reg.PLT_CQ_SUMMARY.ERR_QSN, .plotReg Reg.PLT_CQ_SUMMARY.ERR_STATUS, .router, .gateway] : List Part) (· = f) (fun _ => True) s (exec (.trfenceStart f p) s) ∧
      Ends ([.reg Reg.INJ_PT.ARM, .reg Reg.INJ_PT.DONE, .queue, .cq, .plotReg Reg.PLT_CQ_STATUS.LOST, .plotReg Reg.PLT_CQ_STATUS.OVERFLOW, .plotReg Reg.PLT_CQ_SUMMARY.CLASS_SEEN, .plotReg Reg.PLT_CQ_SUMMARY.ERR, .plotReg Reg.PLT_CQ_SUMMARY.ERR_QSN, .plotReg Reg.PLT_CQ_SUMMARY.ERR_STATUS, .router, .gateway, .far .queue] : List Part) (· = f) (· = p) s (exec (.trfenceStart f p) s)) ∧
  (∀ (s : State) (f : FieldId) (p : PlotId), Ends ([.reg Reg.INJ_PT.ARM, .reg Reg.INJ_PT.DONE, .queue, .xlines, .router, .gateway] : List Part) (· = f) (· = p) s (exec (.gatewayLineAccept f p) s)) ∧
  (∀ (s : State) (f : FieldId) (req : Nat), Ends ([.reg Reg.INJ_PT.ARM, .reg Reg.INJ_PT.DONE, .queue, .router, .gateway] : List Part) (· = f) (fun _ => True) s (exec (.orderedLineSend f req) s)) ∧
  (∀ (s : State) (f : FieldId) (req : Nat), Ends ([.reg Reg.INJ_PT.ARM, .reg Reg.INJ_PT.DONE, .router, .gateway] : List Part) (· = f) (fun _ => False) s (exec (.deferResend f req) s)) ∧
  (∀ (s : State) (f : FieldId) (p : PlotId), Ends ([.queue, .cq, .plotReg Reg.PLT_CQ_STATUS.LOST, .plotReg Reg.PLT_CQ_STATUS.OVERFLOW, .plotReg Reg.PLT_CQ_SUMMARY.CLASS_SEEN, .plotReg Reg.PLT_CQ_SUMMARY.ERR, .plotReg Reg.PLT_CQ_SUMMARY.ERR_QSN, .plotReg Reg.PLT_CQ_SUMMARY.ERR_STATUS] : List Part) (· = f) (· = p) s (exec (.trfenceComplete f p) s)) ∧
  (∀ (s : State) (f : FieldId) (p : PlotId), ∀ c ∈ ([.xferNop f p, .xferGet f p, .xferPut f p, .xferPutPartial f p, .xferPutReduce f p, .xferMcastPut f p, .xferFetchAdd f p, .xferCompareSwap f p] : List Instr),
      Ends ([.queue, .cq, .plotReg Reg.PLT_CQ_STATUS.LOST, .plotReg Reg.PLT_CQ_STATUS.OVERFLOW, .plotReg Reg.PLT_CQ_SUMMARY.CLASS_SEEN, .plotReg Reg.PLT_CQ_SUMMARY.ERR, .plotReg Reg.PLT_CQ_SUMMARY.ERR_QSN, .plotReg Reg.PLT_CQ_SUMMARY.ERR_STATUS, .plotReg Reg.PLT_QUEUE_STALL.CLAIM, .plotReg Reg.PLT_TINE_STALL.BIN_WAIT] : List Part) (· = f) (· = p) s (exec c s))

/-- Frame of the field memory and mesh commands: for every state and every operand the command answers a next state;
before the records of the events it raised are written, only the named parts of the state have changed, parts of a field
only in the named field, parts of a plot only in the named plot, those listed as far anywhere; one that names no field
may change its parts in any; the queue is untouched and memories keep their canonical form. -/
def Obligations.MemoryFrame : Prop :=
  (∀ (s : State) (f : FieldId) (p : PlotId), Ends ([.events, .storeErr, .reg Reg.INJ_PT.ARM, .reg Reg.INJ_PT.DONE, .scrub, .plotReg Reg.PLT_STORE_ECC.CORRECTED, .plotReg Reg.PLT_STORE_ECC.LAST_ADDR, .plotReg Reg.PLT_STORE_ECC.UNCORRECTED, .health] : List Part) (· = f) (· = p) s (exec (.plotStoreScrub f p) s)) ∧
  (∀ (s : State) (f : FieldId) (p : PlotId) (addr : Nat) (data : List Byte) (poisoned : Bool), Ends ([.events, .store, .storeErr, .plotReg Reg.PLT_STORE_ECC.CORRECTED, .plotReg Reg.PLT_STORE_ECC.LAST_ADDR, .plotReg Reg.PLT_STORE_ECC.UNCORRECTED, .health] : List Part) (· = f) (· = p) s (exec (.plotStoreMeshWrite f p addr data poisoned) s)) ∧
  (∀ (s : State) (f : FieldId) (v : Nat) (target : PlotId) (scope : Fin 4), Ends ([.reg Reg.FLD_MESH_STAT.MCAST_SKIPPED, .plotReg Reg.PLT_DOORBELL.PENDING, .memu] : List Part) (· = f) (fun _ => True) s (exec (.fldDoorbellRing f v target scope) s)) ∧
  (∀ (s : State) (f : FieldId) (half : Nat) (src : Fin 6), Ends (([.events, .hbmErr, .reg Reg.INJ_PT.ARM, .reg Reg.INJ_PT.DONE, .reg Reg.MEM_ECC_STAT.CORRECTED, .reg Reg.MEM_ECC_STAT.LAST_ADDR, .reg Reg.MEM_ECC_STAT.UNCORRECTED, .reg Reg.MEM_REPAIR_ENTRY.BANK, .reg Reg.MEM_REPAIR_ENTRY.CHANNEL, .reg Reg.MEM_REPAIR_ENTRY.PCH, .reg Reg.MEM_REPAIR_ENTRY.REASON, .reg Reg.MEM_REPAIR_ENTRY.RESULT, .reg Reg.MEM_REPAIR_ENTRY.ROW, .reg Reg.MEM_REPAIR_ENTRY.STACK, .reg Reg.MEM_REPAIR_ENTRY.VALID, .memu] : List Part) ++ ([.health] : List Part)) (· = f) (fun _ => False) s (exec (.hbmRead f half src) s)) ∧
  (∀ (s : State) (f : FieldId) (addr : Nat) (data : List Byte) (poisoned : Bool) (src : Fin 6), Ends (([.events, .hbm, .hbmErr, .reg Reg.GWY_STAT.ABSORBED, .reg Reg.INJ_PT.ARM, .reg Reg.INJ_PT.DONE, .reg Reg.MEM_ECC_STAT.CORRECTED, .reg Reg.MEM_ECC_STAT.LAST_ADDR, .reg Reg.MEM_ECC_STAT.POISON_WRITES, .reg Reg.MEM_ECC_STAT.UNCORRECTED, .reg Reg.MEM_REPAIR_ENTRY.BANK, .reg Reg.MEM_REPAIR_ENTRY.CHANNEL, .reg Reg.MEM_REPAIR_ENTRY.PCH, .reg Reg.MEM_REPAIR_ENTRY.REASON, .reg Reg.MEM_REPAIR_ENTRY.RESULT, .reg Reg.MEM_REPAIR_ENTRY.ROW] : List Part) ++ ([.reg Reg.MEM_REPAIR_ENTRY.STACK, .reg Reg.MEM_REPAIR_ENTRY.VALID, .memu, .health] : List Part)) (· = f) (fun _ => False) s (exec (.hbmWrite f addr data poisoned src) s)) ∧
  (∀ (s : State) (f : FieldId) (stack : Fin 2), Ends (([.events, .hubReg Reg.HUB_FIELD_STATE.HBM0_OK, .hubReg Reg.HUB_FIELD_STATE.HBM1_OK, .hubReg Reg.HUB_FIELD_STATE.STATE, .hubReg Reg.MBX_HUB_IN_META.FULL, .hubReg Reg.MBX_HUB_OUT_ACK.CODE, .hubReg Reg.MBX_HUB_OUT_ACK.DONE, .hubReg Reg.MBX_HUB_OUT_META.PENDING, .hubSlots, .store, .bin, .storeErr, .binErr, .drill, .dr, .queue] : List Part) ++ ([.cq, .tine, .samples, .scrub, .notify, .xlines, .boot, .slot, .anyPlotReg, .memu, .hard, .gateway, .far (.reg Reg.MBX_RIM_IN_META.FULL), .far (.reg Reg.MBX_RIM_OUT_ACK.CODE), .far (.reg Reg.MBX_RIM_OUT_ACK.DONE), .far (.reg Reg.MBX_RIM_OUT_META.PENDING)] : List Part) ++ ([.far .slot, .far (.plotReg Reg.MBX_PLOT_IN_META.FULL), .far (.plotReg Reg.MBX_PLOT_OUT_ACK.CODE), .far (.plotReg Reg.MBX_PLOT_OUT_ACK.DONE), .far (.plotReg Reg.MBX_PLOT_OUT_META.PENDING), .far .rimSlots] : List Part)) (· = f) (fun _ => True) s (exec (.hbmStackLost f stack) s)) ∧
  (∀ (s : State) (f : FieldId) (count0 : Nat) (count1 : Nat), Ends ([.reg Reg.MEM_ECC_STAT.ECS_0, .reg Reg.MEM_ECC_STAT.ECS_1] : List Part) (· = f) (fun _ => False) s (exec (.ecsRead f count0 count1) s)) ∧
  (∀ (s : State) (f : FieldId) (pc : Fin 128), Ends (([.events, .hbmErr, .reg Reg.INJ_PT.ARM, .reg Reg.INJ_PT.DONE, .reg Reg.MEM_ECC_STAT.CORRECTED, .reg Reg.MEM_ECC_STAT.LAST_ADDR, .reg Reg.MEM_ECC_STAT.UNCORRECTED, .reg Reg.MEM_REPAIR_ENTRY.BANK, .reg Reg.MEM_REPAIR_ENTRY.CHANNEL, .reg Reg.MEM_REPAIR_ENTRY.PCH, .reg Reg.MEM_REPAIR_ENTRY.REASON, .reg Reg.MEM_REPAIR_ENTRY.RESULT, .reg Reg.MEM_REPAIR_ENTRY.ROW, .reg Reg.MEM_REPAIR_ENTRY.STACK, .reg Reg.MEM_REPAIR_ENTRY.VALID, .reg Reg.MEM_SCRUB_CTL.PASSES] : List Part) ++ ([.memu, .health] : List Part)) (· = f) (fun _ => False) s (exec (.hbmPatrolScrub f pc) s)) ∧
  (∀ (s : State) (f : FieldId), Ends (([.events, .hbm, .hbmErr, .reg Reg.GWY_STAT.ABSORBED, .reg Reg.INJ_PT.ARM, .reg Reg.INJ_PT.DONE, .reg Reg.MEM_ECC_STAT.CORRECTED, .reg Reg.MEM_ECC_STAT.LAST_ADDR, .reg Reg.MEM_ECC_STAT.POISON_WRITES, .reg Reg.MEM_ECC_STAT.UNCORRECTED, .reg Reg.MEM_REPAIR_ENTRY.BANK, .reg Reg.MEM_REPAIR_ENTRY.CHANNEL, .reg Reg.MEM_REPAIR_ENTRY.PCH, .reg Reg.MEM_REPAIR_ENTRY.REASON, .reg Reg.MEM_REPAIR_ENTRY.RESULT, .reg Reg.MEM_REPAIR_ENTRY.ROW] : List Part) ++ ([.reg Reg.MEM_REPAIR_ENTRY.STACK, .reg Reg.MEM_REPAIR_ENTRY.VALID, .memu, .health] : List Part)) (· = f) (fun _ => False) s (exec (.mirrorWriteRelease f) s)) ∧
  (∀ (s : State) (f : FieldId) (phys : Fin 272), Ends ([.events, .reg Reg.FLD_FALLOW_RUN.RUN, .reg Reg.INJ_ARITH.ARM, .reg Reg.INJ_ARITH.NOFIRE, .drill, .boot, .plotReg Reg.PLT_BOOT.STATUS] : List Part) (· = f) (fun _ => True) s (exec (.plotFallowSet f phys) s)) ∧
  (∀ (s : State) (f : FieldId), Ends ([.out, .memu] : List Part) (· = f) (fun _ => False) s (exec (.meshMulticastComplete f) s))

/-- Frame of the headland and light commands: for every state and every operand the command answers a next state; before
the records of the events it raised are written, only the named parts of the state have changed, parts of a field only
in the named field, parts of a plot only in the named plot, those listed as far anywhere; one that names no field may
change its parts in any; the queue is untouched and memories keep their canonical form. A command of the host port
changes no field but through the light. -/
def Obligations.LightFrame : Prop :=
  (∀ (s : State) (f : FieldId) (n : PortId), Ends (([.events, .out, .reg Reg.HDL_CAL_STAT.DEGRADED, .reg Reg.INJ_PT.ARM, .reg Reg.INJ_PT.DONE, .reg Reg.RTE_COMB_STAT.MERGED, .reg Reg.RTE_COMB_STAT.PEAK, .reg Reg.RTE_LINK_CNT.LOST, .reg Reg.RTE_LINK_CNT.NAKS, .reg Reg.RTE_LINK_CNT.REPLAYED, .reg Reg.RTE_LINK_CNT.RETRAINS, .reg Reg.RTE_LINK_CNT.TX_FLITS, .reg Reg.RTE_LINK_CREDIT.RES, .reg Reg.RTE_LINK_CREDIT.SHARED, .reg Reg.RTE_LINK_STATUS.PRESERVED, .reg Reg.RTE_LINK_STATUS.RESULT] : List Part) ++ ([.reg Reg.RTE_LINK_STATUS.STATE, .ports, .router, .tally] : List Part)) (· = f) (fun _ => False) s (exec (.calSlotStart (some (f, n))) s)) ∧
  (∀ (s : State), Ends ([.events, .out, .hubReg Reg.HUB_HOST_PHY_STATUS.RECOVERIES, .hubReg Reg.HUB_HOST_PHY_STATUS.STATE, .hubReg Reg.HUB_HOST_PHY_STATUS.WIDTH, .hostTx, .host] : List Part) (fun _ => False) (fun _ => False) s (exec (.calSlotStart none) s)) ∧
  (∀ (s : State) (f : FieldId) (n : PortId) (rx : Bool), Ends ([.events, .out, .reg Reg.HDL_CAL_STAT.SLOTS, .reg Reg.HDL_PORT_STATUS.TX_MODE, .reg Reg.INJ_PT.ARM, .reg Reg.INJ_PT.DONE, .reg Reg.RTE_COMB_STAT.MERGED, .reg Reg.RTE_COMB_STAT.PEAK, .reg Reg.RTE_LINK_CNT.NAKS, .reg Reg.RTE_LINK_CNT.REPLAYED, .reg Reg.RTE_LINK_CNT.TX_FLITS, .reg Reg.RTE_LINK_CREDIT.RES, .reg Reg.RTE_LINK_CREDIT.SHARED, .ports, .router, .tally] : List Part) (· = f) (fun _ => False) s (exec (.calSlotEnd (some (f, n)) rx) s)) ∧
  (∀ (s : State) (rx : Bool), Ends ([.events, .out, .hubReg Reg.HUB_HOST_PHY_STATUS.RECOVERIES, .hubReg Reg.HUB_HOST_PHY_STATUS.STATE, .hubReg Reg.HUB_HOST_PHY_STATUS.WIDTH, .hostTx, .host] : List Part) (fun _ => False) (fun _ => False) s (exec (.calSlotEnd none rx) s)) ∧
  (∀ (s : State) (f : FieldId) (n : PortId) (rx : Bool), Ends (([.events, .out, .reg Reg.HDL_CAL_STAT.ABORTED, .reg Reg.HDL_CAL_STAT.SLOTS, .reg Reg.HDL_PORT_STATUS.TX_MODE, .reg Reg.INJ_PT.ARM, .reg Reg.INJ_PT.DONE, .reg Reg.RTE_COMB_STAT.MERGED, .reg Reg.RTE_COMB_STAT.PEAK, .reg Reg.RTE_LINK_CNT.LOST, .reg Reg.RTE_LINK_CNT.NAKS, .reg Reg.RTE_LINK_CNT.REPLAYED, .reg Reg.RTE_LINK_CNT.RETRAINS, .reg Reg.RTE_LINK_CNT.TX_FLITS, .reg Reg.RTE_LINK_CREDIT.RES, .reg Reg.RTE_LINK_CREDIT.SHARED] : List Part) ++ ([.reg Reg.RTE_LINK_STATUS.PRESERVED, .reg Reg.RTE_LINK_STATUS.RESULT, .reg Reg.RTE_LINK_STATUS.STATE, .ports, .router, .health, .tally] : List Part)) (· = f) (fun _ => False) s (exec (.calLockTimeout (some (f, n)) rx) s)) ∧
  (∀ (s : State) (rx : Bool), Ends ([.events, .out, .hubReg Reg.HUB_HOST_PHY_STATUS.RECOVERIES, .hubReg Reg.HUB_HOST_PHY_STATUS.STATE, .hubReg Reg.HUB_HOST_PHY_STATUS.WIDTH, .hostTx, .host] : List Part) (fun _ => False) (fun _ => False) s (exec (.calLockTimeout none rx) s)) ∧
  (∀ (s : State) (f : FieldId) (n : PortId) (rx : Bool) (w : Lambda) (reason : Fin 16), Ends (([.events, .out, .reg Reg.HDL_CAL_STAT.ABORTED, .reg Reg.HDL_PORT_STATUS.TX_MODE, .reg Reg.INJ_PT.ARM, .reg Reg.INJ_PT.DONE, .reg Reg.RTE_COMB_STAT.MERGED, .reg Reg.RTE_COMB_STAT.PEAK, .reg Reg.RTE_LINK_CNT.LOST, .reg Reg.RTE_LINK_CNT.NAKS, .reg Reg.RTE_LINK_CNT.REPLAYED, .reg Reg.RTE_LINK_CNT.RETRAINS, .reg Reg.RTE_LINK_CNT.TX_FLITS, .reg Reg.RTE_LINK_CREDIT.RES, .reg Reg.RTE_LINK_CREDIT.SHARED, .reg Reg.RTE_LINK_STATUS.PRESERVED] : List Part) ++ ([.reg Reg.RTE_LINK_STATUS.RESULT, .reg Reg.RTE_LINK_STATUS.STATE, .ports, .router, .health, .tally] : List Part)) (· = f) (fun _ => False) s (exec (.wavelengthFail (some (f, n)) rx w reason) s)) ∧
  (∀ (s : State) (rx : Bool) (w : Lambda) (reason : Fin 16), Ends ([.events, .out, .hubReg Reg.HUB_HOST_PHY_STATUS.RECOVERIES, .hubReg Reg.HUB_HOST_PHY_STATUS.STATE, .hubReg Reg.HUB_HOST_PHY_STATUS.WIDTH, .hostTx, .host] : List Part) (fun _ => False) (fun _ => False) s (exec (.wavelengthFail none rx w reason) s)) ∧
  (∀ (s : State) (f : FieldId) (n : PortId) (w : Lambda), Ends ([.events, .out, .reg Reg.INJ_PT.ARM, .reg Reg.INJ_PT.DONE, .reg Reg.RTE_COMB_STAT.MERGED, .reg Reg.RTE_COMB_STAT.PEAK, .reg Reg.RTE_LINK_CNT.NAKS, .reg Reg.RTE_LINK_CNT.REPLAYED, .reg Reg.RTE_LINK_CNT.TX_FLITS, .reg Reg.RTE_LINK_CREDIT.RES, .reg Reg.RTE_LINK_CREDIT.SHARED, .ports, .router, .tally] : List Part) (· = f) (fun _ => False) s (exec (.laneRetry (some (f, n)) w) s)) ∧
  (∀ (s : State) (w : Lambda), Ends ([.hostTx] : List Part) (fun _ => False) (fun _ => False) s (exec (.laneRetry none w) s)) ∧
  (∀ (s : State) (f : FieldId) (n : PortId) (rx : Bool) (w : Lambda) (pass : Bool), Ends ([.events, .out, .reg Reg.HDL_CAL_STAT.SLOTS, .reg Reg.HDL_PORT_STATUS.TX_MODE, .reg Reg.INJ_PT.ARM, .reg Reg.INJ_PT.DONE, .reg Reg.RTE_COMB_STAT.MERGED, .reg Reg.RTE_COMB_STAT.PEAK, .reg Reg.RTE_LINK_CNT.NAKS, .reg Reg.RTE_LINK_CNT.REPLAYED, .reg Reg.RTE_LINK_CNT.TX_FLITS, .reg Reg.RTE_LINK_CREDIT.RES, .reg Reg.RTE_LINK_CREDIT.SHARED, .ports, .router, .tally] : List Part) (· = f) (fun _ => False) s (exec (.laneRetryEnd (some (f, n)) rx w pass) s)) ∧
  (∀ (s : State) (rx : Bool) (w : Lambda) (pass : Bool), Ends ([.events, .out, .hubReg Reg.HUB_HOST_PHY_STATUS.RECOVERIES, .hubReg Reg.HUB_HOST_PHY_STATUS.STATE, .hubReg Reg.HUB_HOST_PHY_STATUS.WIDTH, .hostTx, .host] : List Part) (fun _ => False) (fun _ => False) s (exec (.laneRetryEnd none rx w pass) s)) ∧
  (∀ (s : State) (f : FieldId) (n : PortId) (powers : List Nat), Ends ([.free, .reg Reg.HDL_LANE_POWER.RX_PWR, .reg Reg.INJ_PT.ARM, .reg Reg.INJ_PT.DONE, .ports, .health] : List Part) (· = f) (fun _ => False) s (exec (.rxPowerMeasure f n powers) s)) ∧
  (∀ (s : State) (inletA : List Int) (inletB : List Int), Ends (([.events, .out, .hubReg Reg.HDL_MODULE.FADE, .hubReg Reg.HDL_MODULE.MARGIN, .hubReg Reg.INJ_HPT.ARM, .hubReg Reg.INJ_HPT.DONE, .light, .reg Reg.HDL_CAL_STAT.ABORTED, .reg Reg.HDL_PORT_STATUS.TX_MODE, .reg Reg.INJ_PT.ARM, .reg Reg.INJ_PT.DONE, .reg Reg.RTE_COMB_STAT.MERGED, .reg Reg.RTE_COMB_STAT.PEAK, .reg Reg.RTE_LINK_CNT.NAKS, .reg Reg.RTE_LINK_CNT.REPLAYED, .reg Reg.RTE_LINK_CNT.TX_FLITS] : List Part) ++ ([.reg Reg.RTE_LINK_CREDIT.RES, .reg Reg.RTE_LINK_CREDIT.SHARED, .ports, .router, .tally] : List Part)) (fun _ => True) (fun _ => False) s (exec (.marginEval inletA inletB) s)) ∧
  (∀ (s : State) (atMark : Bool), Ends ([.light, .tally] : List Part) (fun _ => True) (fun _ => False) s (exec (.switchoverRunStart atMark) s)) ∧
  (∀ (s : State), Ends (([.events, .out, .hubReg Reg.HDL_HOST_ENGINE.SRC, .hubReg Reg.HDL_HOST_ENGINE.SWITCHING, .hubReg Reg.HUB_HOST_PHY_STATUS.PAUSE, .hubReg Reg.HUB_HOST_PHY_STATUS.RECOVERIES, .hubReg Reg.HUB_HOST_PHY_STATUS.STATE, .hubReg Reg.HUB_HOST_PHY_STATUS.WIDTH, .light, .hostTx, .host, .reg Reg.HDL_CAL_STAT.ABORTED, .reg Reg.HDL_ENGINE_CTL.NOW, .reg Reg.HDL_ENGINE_CTL.REQ, .reg Reg.HDL_ENGINE_STATUS.SRC, .reg Reg.HDL_ENGINE_STATUS.SWITCHING] : List Part) ++ ([.reg Reg.INJ_PT.ARM, .reg Reg.INJ_PT.DONE, .reg Reg.RTE_COMB_STAT.MERGED, .reg Reg.RTE_COMB_STAT.PEAK, .reg Reg.RTE_LINK_CNT.NAKS, .reg Reg.RTE_LINK_CNT.REPLAYED, .reg Reg.RTE_LINK_CNT.TX_FLITS, .reg Reg.RTE_LINK_CREDIT.RES, .reg Reg.RTE_LINK_CREDIT.SHARED, .ports, .router, .tally] : List Part)) (fun _ => True) (fun _ => False) s (exec (.engineSwitchover) s)) ∧
  (∀ (s : State) (micros : Nat) (lost : List (Nat × Nat)), Ends (([.events, .out, .hubReg Reg.HDL_HOST_ENGINE.SWITCHING, .hubReg Reg.HUB_HOST_PHY_STATUS.PAUSE, .hubReg Reg.HUB_HOST_PHY_STATUS.RECOVERIES, .hubReg Reg.HUB_HOST_PHY_STATUS.STATE, .hubReg Reg.HUB_HOST_PHY_STATUS.WIDTH, .light, .hostTx, .host, .reg Reg.HDL_CAL_STAT.ABORTED, .reg Reg.HDL_ENGINE_STATUS.SWITCHING, .reg Reg.HDL_PORT_STATUS.TX_MODE, .reg Reg.INJ_PT.ARM, .reg Reg.INJ_PT.DONE, .reg Reg.RTE_COMB_STAT.MERGED] : List Part) ++ ([.reg Reg.RTE_COMB_STAT.PEAK, .reg Reg.RTE_LINK_CNT.LOST, .reg Reg.RTE_LINK_CNT.NAKS, .reg Reg.RTE_LINK_CNT.REPLAYED, .reg Reg.RTE_LINK_CNT.RETRAINS, .reg Reg.RTE_LINK_CNT.TX_FLITS, .reg Reg.RTE_LINK_CREDIT.RES, .reg Reg.RTE_LINK_CREDIT.SHARED, .reg Reg.RTE_LINK_STATUS.PRESERVED, .reg Reg.RTE_LINK_STATUS.RESULT, .reg Reg.RTE_LINK_STATUS.STATE, .ports, .router, .health, .tally] : List Part)) (fun _ => True) (fun _ => False) s (exec (.engineSwitchoverEnd micros lost) s)) ∧
  (∀ (s : State) (m : Fin 2) (answer : Option Nat × Option Nat), Ends ([.events, .out, .hubReg Reg.HDL_MODULE.BIAS, .hubReg Reg.HDL_MODULE.FAULT, .hubReg Reg.INJ_HPT.ARM, .hubReg Reg.INJ_HPT.DONE, .light] : List Part) (fun _ => False) (fun _ => False) s (exec (.modulePoll m answer) s)) ∧
  (∀ (s : State) (m : Fin 2) (faults : Nat), Ends ([.events, .hubReg Reg.HDL_MODULE.FAULT, .light] : List Part) (fun _ => False) (fun _ => False) s (exec (.moduleIbi m faults) s)) ∧
  (∀ (s : State), Ends (([.events, .out, .hubReg Reg.HDL_HOST_ENGINE.DARK, .hubReg Reg.HDL_HOST_ENGINE.INLET_A_OK, .hubReg Reg.HDL_HOST_ENGINE.INLET_B_OK, .hubReg Reg.HDL_HOST_ENGINE.SWITCHING, .hubReg Reg.HDL_LIGHT_STATUS.STATE, .hubReg Reg.HDL_MODULE.OUTPUT_ON, .hubReg Reg.HUB_HOST_PHY_STATUS.STATE, .hubReg Reg.HUB_HOST_PHY_STATUS.WIDTH, .light, .host, .reg Reg.HDL_ENGINE_STATUS.DARK, .reg Reg.HDL_ENGINE_STATUS.INLET_A_OK, .reg Reg.HDL_ENGINE_STATUS.INLET_B_OK, .reg Reg.HDL_ENGINE_STATUS.SWITCHING] : List Part) ++ ([.reg Reg.INJ_PT.ARM, .reg Reg.INJ_PT.DONE, .reg Reg.RTE_COMB_STAT.MERGED, .reg Reg.RTE_COMB_STAT.PEAK, .reg Reg.RTE_LINK_CNT.LOST, .reg Reg.RTE_LINK_CNT.NAKS, .reg Reg.RTE_LINK_CNT.REPLAYED, .reg Reg.RTE_LINK_CNT.TX_FLITS, .reg Reg.RTE_LINK_CREDIT.RES, .reg Reg.RTE_LINK_CREDIT.SHARED, .reg Reg.RTE_LINK_STATUS.PRESERVED, .reg Reg.RTE_LINK_STATUS.RESULT, .reg Reg.RTE_LINK_STATUS.STATE, .ports, .router, .tally] : List Part)) (fun _ => True) (fun _ => False) s (exec (.laserEnDeassert) s)) ∧
  (∀ (s : State) (engine : Fin 17) (m : Fin 2), Ends (([.events, .out, .hubReg Reg.HDL_HOST_ENGINE.DARK, .hubReg Reg.HDL_HOST_ENGINE.INLET_A_OK, .hubReg Reg.HDL_HOST_ENGINE.INLET_B_OK, .hubReg Reg.HDL_HOST_ENGINE.SRC, .hubReg Reg.HDL_HOST_ENGINE.SWITCHING, .hubReg Reg.HDL_MODULE.OUTPUT_ON, .hubReg Reg.HDL_MODULE.PROBE_FAIL, .hubReg Reg.HUB_HOST_PHY_STATUS.STATE, .hubReg Reg.HUB_HOST_PHY_STATUS.WIDTH, .light, .host, .reg Reg.HDL_ENGINE_STATUS.DARK, .reg Reg.HDL_ENGINE_STATUS.INLET_A_OK, .reg Reg.HDL_ENGINE_STATUS.INLET_B_OK] : List Part) ++ ([.reg Reg.HDL_ENGINE_STATUS.SRC, .reg Reg.HDL_ENGINE_STATUS.SWITCHING, .reg Reg.INJ_PT.ARM, .reg Reg.INJ_PT.DONE, .reg Reg.RTE_COMB_STAT.MERGED, .reg Reg.RTE_COMB_STAT.PEAK, .reg Reg.RTE_LINK_CNT.LOST, .reg Reg.RTE_LINK_CNT.NAKS, .reg Reg.RTE_LINK_CNT.REPLAYED, .reg Reg.RTE_LINK_CNT.TX_FLITS, .reg Reg.RTE_LINK_CREDIT.RES, .reg Reg.RTE_LINK_CREDIT.SHARED, .reg Reg.RTE_LINK_STATUS.PRESERVED, .reg Reg.RTE_LINK_STATUS.RESULT, .reg Reg.RTE_LINK_STATUS.STATE, .ports] : List Part) ++ ([.router, .tally] : List Part)) (fun _ => True) (fun _ => False) s (exec (.inletLost engine m) s)) ∧
  (∀ (s : State) (f : FieldId) (n : PortId), Ends (([.events, .out, .reg Reg.HDL_PORT_STATUS.APR, .reg Reg.INJ_PT.ARM, .reg Reg.INJ_PT.DONE, .reg Reg.RTE_COMB_STAT.MERGED, .reg Reg.RTE_COMB_STAT.PEAK, .reg Reg.RTE_LINK_CNT.LOST, .reg Reg.RTE_LINK_CNT.NAKS, .reg Reg.RTE_LINK_CNT.REPLAYED, .reg Reg.RTE_LINK_CNT.TX_FLITS, .reg Reg.RTE_LINK_CREDIT.RES, .reg Reg.RTE_LINK_CREDIT.SHARED, .reg Reg.RTE_LINK_STATUS.PRESERVED, .reg Reg.RTE_LINK_STATUS.RESULT, .reg Reg.RTE_LINK_STATUS.STATE] : List Part) ++ ([.ports, .router, .tally] : List Part)) (· = f) (fun _ => False) s (exec (.aprEnter (some (f, n))) s)) ∧
  (∀ (s : State), Ends ([.events, .hubReg Reg.HUB_HOST_PHY_STATUS.STATE, .hubReg Reg.HUB_HOST_PHY_STATUS.WIDTH, .light, .host] : List Part) (fun _ => False) (fun _ => False) s (exec (.aprEnter none) s)) ∧
  (∀ (s : State) (f : FieldId) (n : PortId), Ends (([.events, .out, .reg Reg.HDL_PORT_STATUS.APR, .reg Reg.INJ_PT.ARM, .reg Reg.INJ_PT.DONE, .reg Reg.RTE_COMB_STAT.MERGED, .reg Reg.RTE_COMB_STAT.PEAK, .reg Reg.RTE_LINK_CNT.NAKS, .reg Reg.RTE_LINK_CNT.REPLAYED, .reg Reg.RTE_LINK_CNT.TX_FLITS, .reg Reg.RTE_LINK_CREDIT.RES, .reg Reg.RTE_LINK_CREDIT.SHARED, .reg Reg.RTE_LINK_STATUS.RESULT, .reg Reg.RTE_LINK_STATUS.STATE, .ports, .router] : List Part) ++ ([.tally] : List Part)) (· = f) (fun _ => False) s (exec (.aprExit (some (f, n))) s)) ∧
  (∀ (s : State), Ends ([.events, .hubReg Reg.HUB_HOST_PHY_STATUS.STATE, .hubReg Reg.HUB_HOST_PHY_STATUS.WIDTH, .light, .host] : List Part) (fun _ => False) (fun _ => False) s (exec (.aprExit none) s)) ∧
  (∀ (s : State) (f : FieldId) (n : PortId) (mode : Fin 4), Ends ([.events, .out, .reg Reg.HDL_PORT_CTL.TX_MODE_REQ, .reg Reg.HDL_PORT_STATUS.TX_MODE, .reg Reg.INJ_PT.ARM, .reg Reg.INJ_PT.DONE, .reg Reg.RTE_COMB_STAT.MERGED, .reg Reg.RTE_COMB_STAT.PEAK, .reg Reg.RTE_LINK_CNT.NAKS, .reg Reg.RTE_LINK_CNT.REPLAYED, .reg Reg.RTE_LINK_CNT.TX_FLITS, .reg Reg.RTE_LINK_CREDIT.RES, .reg Reg.RTE_LINK_CREDIT.SHARED, .ports, .router, .tally] : List Part) (· = f) (fun _ => False) s (exec (.txModeReq f n mode) s)) ∧
  (∀ (s : State) (f : FieldId) (n : PortId) (part : Fin 4) (powers : List Nat), Ends ([.reg Reg.HDL_LANE_POWER.FAR_PWR] : List Part) (· = f) (fun _ => False) s (exec (.powerReport f n part powers) s)) ∧
  (∀ (s : State) (f : FieldId) (e : Fin 4) (target : Fin 2), ∀ c ∈ ([.engineSwitchReq f e target, .engineSwitchNow f e target] : List Instr),
      Ends ([.light, .reg Reg.HDL_ENGINE_CTL.NOW, .reg Reg.HDL_ENGINE_CTL.REQ, .reg Reg.HDL_ENGINE_CTL.TARGET] : List Part) (· = f) (fun _ => False) s (exec c s))

/-- Frame of the Ebcen link and routing commands: for every state and every operand the command answers a next state;
before the records of the events it raised are written, only the named parts of the state have changed, parts of a field
only in the named field, parts of a plot only in the named plot, those listed as far anywhere; one that names no field
may change its parts in any; the queue is untouched and memories keep their canonical form. -/
def Obligations.LinkFrame : Prop :=
  (∀ (s : State) (f : FieldId) (n : PortId) (w : Lambda), Ends ([.events, .out, .reg Reg.INJ_PT.ARM, .reg Reg.INJ_PT.DONE, .reg Reg.RTE_COMB_STAT.MERGED, .reg Reg.RTE_COMB_STAT.PEAK, .reg Reg.RTE_LINK_CNT.NAKS, .reg Reg.RTE_LINK_CNT.REPLAYED, .reg Reg.RTE_LINK_CNT.TX_FLITS, .reg Reg.RTE_LINK_CREDIT.RES, .reg Reg.RTE_LINK_CREDIT.SHARED, .reg Reg.RTE_LINK_STATUS.RESULT, .reg Reg.RTE_LINK_STATUS.STATE, .ports, .router, .tally] : List Part) (· = f) (fun _ => False) s (exec (.wavelengthLock f n w) s)) ∧
  (∀ (s : State) (f : FieldId) (n : PortId) (w : Lambda), Ends (([.events, .out, .reg Reg.INJ_PT.ARM, .reg Reg.INJ_PT.DONE, .reg Reg.RTE_COMB_STAT.MERGED, .reg Reg.RTE_COMB_STAT.PEAK, .reg Reg.RTE_LINK_CNT.LOST, .reg Reg.RTE_LINK_CNT.NAKS, .reg Reg.RTE_LINK_CNT.REPLAYED, .reg Reg.RTE_LINK_CNT.RETRAINS, .reg Reg.RTE_LINK_CNT.TX_FLITS, .reg Reg.RTE_LINK_CREDIT.RES, .reg Reg.RTE_LINK_CREDIT.SHARED, .reg Reg.RTE_LINK_STATUS.PRESERVED, .reg Reg.RTE_LINK_STATUS.RESULT, .reg Reg.RTE_LINK_STATUS.STATE] : List Part) ++ ([.ports, .router, .health, .tally] : List Part)) (· = f) (fun _ => False) s (exec (.wavelengthLockLoss f n w) s)) ∧
  (∀ (s : State) (f : FieldId) (n : PortId) (slot : Fin 16) (wave : Fin 16), Ends ([.ports] : List Part) (· = f) (fun _ => False) s (exec (.mapChange f n slot wave) s)) ∧
  (∀ (s : State) (f : FieldId) (n : PortId) (mode : Fin 4), Ends ([.ports] : List Part) (· = f) (fun _ => False) s (exec (.modeChange f n mode) s)) ∧
  (∀ (s : State) (f : FieldId) (n : PortId) (w : Lambda) (ends : Bool), Ends ([.ports] : List Part) (· = f) (fun _ => False) s (exec (.cal f n w ends) s)) ∧
  (∀ (s : State) (f : FieldId) (n : PortId) (w : Lambda) (confirmed : Bool), Ends (([.events, .out, .reg Reg.HDL_CAL_STAT.ABORTED, .reg Reg.HDL_CAL_STAT.SLOTS, .reg Reg.HDL_PORT_STATUS.TX_MODE, .reg Reg.INJ_PT.ARM, .reg Reg.INJ_PT.DONE, .reg Reg.RTE_COMB_STAT.MERGED, .reg Reg.RTE_COMB_STAT.PEAK, .reg Reg.RTE_LINK_CNT.LOST, .reg Reg.RTE_LINK_CNT.NAKS, .reg Reg.RTE_LINK_CNT.REPLAYED, .reg Reg.RTE_LINK_CNT.RETRAINS, .reg Reg.RTE_LINK_CNT.TX_FLITS, .reg Reg.RTE_LINK_CREDIT.RES, .reg Reg.RTE_LINK_CREDIT.SHARED] : List Part) ++ ([.reg Reg.RTE_LINK_STATUS.PRESERVED, .reg Reg.RTE_LINK_STATUS.RESULT, .reg Reg.RTE_LINK_STATUS.STATE, .ports, .router, .health, .tally] : List Part)) (· = f) (fun _ => False) s (exec (.calDone f n w confirmed) s)) ∧
  (∀ (s : State) (f : FieldId) (n : PortId) (w : Lambda) (reason : Fin 16), Ends (([.events, .out, .reg Reg.HDL_CAL_STAT.ABORTED, .reg Reg.HDL_PORT_STATUS.TX_MODE, .reg Reg.INJ_PT.ARM, .reg Reg.INJ_PT.DONE, .reg Reg.RTE_COMB_STAT.MERGED, .reg Reg.RTE_COMB_STAT.PEAK, .reg Reg.RTE_LINK_CNT.LOST, .reg Reg.RTE_LINK_CNT.NAKS, .reg Reg.RTE_LINK_CNT.REPLAYED, .reg Reg.RTE_LINK_CNT.RETRAINS, .reg Reg.RTE_LINK_CNT.TX_FLITS, .reg Reg.RTE_LINK_CREDIT.RES, .reg Reg.RTE_LINK_CREDIT.SHARED, .reg Reg.RTE_LINK_STATUS.PRESERVED] : List Part) ++ ([.reg Reg.RTE_LINK_STATUS.RESULT, .reg Reg.RTE_LINK_STATUS.STATE, .ports, .router, .health, .tally] : List Part)) (· = f) (fun _ => False) s (exec (.laneFailed f n w reason) s)) ∧
  (∀ (s : State) (f : FieldId) (n : PortId) (begins : Bool), Ends ([.reg Reg.HDL_PORT_STATUS.LIGHT_PAUSE, .ports] : List Part) (· = f) (fun _ => False) s (exec (.lightPause f n begins) s)) ∧
  (∀ (s : State) (f : FieldId) (n : PortId) (part : Fin 4) (arg : Nat), Ends (([.events, .out, .reg Reg.HDL_PORT_STATUS.RX_MODE, .reg Reg.HDL_PORT_STATUS.TX_MODE, .reg Reg.INJ_PT.ARM, .reg Reg.INJ_PT.DONE, .reg Reg.RTE_COMB_STAT.MERGED, .reg Reg.RTE_COMB_STAT.PEAK, .reg Reg.RTE_DISC_STATUS.OUTCOME, .reg Reg.RTE_DISC_STATUS.SEEN_NODE, .reg Reg.RTE_DISC_STATUS.SEEN_PORT, .reg Reg.RTE_DISC_STATUS.SEEN_SERIAL, .reg Reg.RTE_LINK_CNT.LOST, .reg Reg.RTE_LINK_CNT.NAKS, .reg Reg.RTE_LINK_CNT.REPLAYED, .reg Reg.RTE_LINK_CNT.RETRAINS] : List Part) ++ ([.reg Reg.RTE_LINK_CNT.TX_FLITS, .reg Reg.RTE_LINK_CREDIT.RES, .reg Reg.RTE_LINK_CREDIT.SHARED, .reg Reg.RTE_LINK_STATUS.PRESERVED, .reg Reg.RTE_LINK_STATUS.RESULT, .reg Reg.RTE_LINK_STATUS.STATE, .reg Reg.RTE_QUAL_RESULT.RX_PASS, .reg Reg.RTE_QUAL_RESULT.TX_PASS, .reg Reg.RTE_QUAL_RESULT.WORST, .reg Reg.RTE_QUAL_RESULT.WORST_E, .ports, .router, .tally] : List Part)) (· = f) (fun _ => False) s (exec (.beacon f n part arg) s)) ∧
  (∀ (s : State) (f : FieldId) (n : PortId) (farState : Fin 16) (ready : Bool) (lastSeq : Nat), Ends (([.events, .out, .reg Reg.HDL_PORT_STATUS.TX_MODE, .reg Reg.INJ_PT.ARM, .reg Reg.INJ_PT.DONE, .reg Reg.RTE_COMB_STAT.MERGED, .reg Reg.RTE_COMB_STAT.PEAK, .reg Reg.RTE_LINK_CNT.LOST, .reg Reg.RTE_LINK_CNT.NAKS, .reg Reg.RTE_LINK_CNT.REPLAYED, .reg Reg.RTE_LINK_CNT.RETRAINS, .reg Reg.RTE_LINK_CNT.TX_FLITS, .reg Reg.RTE_LINK_CREDIT.RES, .reg Reg.RTE_LINK_CREDIT.SHARED, .reg Reg.RTE_LINK_STATUS.FAR_READY, .reg Reg.RTE_LINK_STATUS.PRESERVED] : List Part) ++ ([.reg Reg.RTE_LINK_STATUS.RESULT, .reg Reg.RTE_LINK_STATUS.STATE, .ports, .router, .tally] : List Part)) (· = f) (fun _ => False) s (exec (.train f n farState ready lastSeq) s)) ∧
  (∀ (s : State) (f : FieldId) (n : PortId) (mask : Nat), Ends (([.events, .out, .reg Reg.HDL_PORT_STATUS.TX_MODE, .reg Reg.INJ_PT.ARM, .reg Reg.INJ_PT.DONE, .reg Reg.RTE_COMB_STAT.MERGED, .reg Reg.RTE_COMB_STAT.PEAK, .reg Reg.RTE_LINK_CNT.LOST, .reg Reg.RTE_LINK_CNT.NAKS, .reg Reg.RTE_LINK_CNT.REPLAYED, .reg Reg.RTE_LINK_CNT.RETRAINS, .reg Reg.RTE_LINK_CNT.TX_FLITS, .reg Reg.RTE_LINK_CREDIT.RES, .reg Reg.RTE_LINK_CREDIT.SHARED, .reg Reg.RTE_LINK_STATUS.PRESERVED, .reg Reg.RTE_LINK_STATUS.RESULT] : List Part) ++ ([.reg Reg.RTE_LINK_STATUS.STATE, .reg Reg.RTE_QUAL_RESULT.RX_PASS, .reg Reg.RTE_QUAL_RESULT.TX_PASS, .reg Reg.RTE_QUAL_RESULT.WORST, .reg Reg.RTE_QUAL_RESULT.WORST_E, .ports, .router, .health, .tally] : List Part)) (· = f) (fun _ => False) s (exec (.qualResult f n mask) s)) ∧
  (∀ (s : State) (f : FieldId) (rx : PortId × List (Nat × List Nat)), Ends (([.free, .events, .out, .sram, .hubReg Reg.HUB_EVT_IDX.LOST, .hubReg Reg.HUB_EVT_IDX.PROD, .msix, .yarzin, .reg Reg.HDL_CAL_STAT.ABORTED, .reg Reg.HDL_CAL_STAT.SLOTS, .reg Reg.HDL_LANE_POWER.FAR_PWR, .reg Reg.HDL_PORT_STATUS.LIGHT_PAUSE, .reg Reg.HDL_PORT_STATUS.RX_MODE, .reg Reg.HDL_PORT_STATUS.TX_MODE, .reg Reg.INJ_PT.ARM, .reg Reg.INJ_PT.DONE] : List Part) ++ ([.reg Reg.RTE_COMB_STAT.MERGED, .reg Reg.RTE_COMB_STAT.PEAK, .reg Reg.RTE_DISC_STATUS.OUTCOME, .reg Reg.RTE_DISC_STATUS.SEEN_NODE, .reg Reg.RTE_DISC_STATUS.SEEN_PORT, .reg Reg.RTE_DISC_STATUS.SEEN_SERIAL, .reg Reg.RTE_LANE_FEC.CORR, .reg Reg.RTE_LANE_FEC.UNCORR, .reg Reg.RTE_LINK_CNT.CRC_ERR, .reg Reg.RTE_LINK_CNT.LOST, .reg Reg.RTE_LINK_CNT.NAKS, .reg Reg.RTE_LINK_CNT.PROTO_ERR, .reg Reg.RTE_LINK_CNT.REPLAYED, .reg Reg.RTE_LINK_CNT.RETRAINS, .reg Reg.RTE_LINK_CNT.RX_FLITS, .reg Reg.RTE_LINK_CNT.TX_FLITS] : List Part) ++ ([.reg Reg.RTE_LINK_CREDIT.RES, .reg Reg.RTE_LINK_CREDIT.SHARED, .reg Reg.RTE_LINK_STATUS.FAR_READY, .reg Reg.RTE_LINK_STATUS.PRESERVED, .reg Reg.RTE_LINK_STATUS.RESULT, .reg Reg.RTE_LINK_STATUS.STATE, .reg Reg.RTE_QUAL_RESULT.RX_PASS, .reg Reg.RTE_QUAL_RESULT.TX_PASS, .reg Reg.RTE_QUAL_RESULT.WORST, .reg Reg.RTE_QUAL_RESULT.WORST_E, .lastRaise, .ports, .router, .health, .tally, .far .hbm] : List Part) ++ ([.far .hbmErr, .far (.reg Reg.FLD_EVT_IDX.LOST), .far (.reg Reg.FLD_EVT_IDX.PROD), .far (.reg Reg.GWY_STAT.ABSORBED), .far (.reg Reg.INJ_PT.ARM), .far (.reg Reg.INJ_PT.DONE), .far (.reg Reg.MEM_ECC_STAT.CORRECTED), .far (.reg Reg.MEM_ECC_STAT.LAST_ADDR), .far (.reg Reg.MEM_ECC_STAT.POISON_WRITES), .far (.reg Reg.MEM_ECC_STAT.UNCORRECTED), .far (.reg Reg.MEM_REPAIR_ENTRY.BANK), .far (.reg Reg.MEM_REPAIR_ENTRY.CHANNEL), .far (.reg Reg.MEM_REPAIR_ENTRY.PCH), .far (.reg Reg.MEM_REPAIR_ENTRY.REASON), .far (.reg Reg.MEM_REPAIR_ENTRY.RESULT), .far (.reg Reg.MEM_REPAIR_ENTRY.ROW)] : List Part) ++ ([.far (.reg Reg.MEM_REPAIR_ENTRY.STACK), .far (.reg Reg.MEM_REPAIR_ENTRY.VALID), .far .memu, .far .health, .far .forward] : List Part)) (· = f) (fun _ => False) s (exec (.switchGroup f rx) s)) ∧
  (∀ (s : State) (f : FieldId) (n : PortId) (flits : Bool), Ends (([.events, .out, .reg Reg.HDL_PORT_STATUS.TX_MODE, .reg Reg.INJ_PT.ARM, .reg Reg.INJ_PT.DONE, .reg Reg.RTE_COMB_STAT.MERGED, .reg Reg.RTE_COMB_STAT.PEAK, .reg Reg.RTE_LINK_CNT.LOST, .reg Reg.RTE_LINK_CNT.NAKS, .reg Reg.RTE_LINK_CNT.REPLAYED, .reg Reg.RTE_LINK_CNT.RETRAINS, .reg Reg.RTE_LINK_CNT.TX_FLITS, .reg Reg.RTE_LINK_CREDIT.RES, .reg Reg.RTE_LINK_CREDIT.SHARED, .reg Reg.RTE_LINK_STATUS.PRESERVED, .reg Reg.RTE_LINK_STATUS.RESULT] : List Part) ++ ([.reg Reg.RTE_LINK_STATUS.STATE, .ports, .router, .tally] : List Part)) (· = f) (fun _ => False) s (exec (.modeChangeResume f n flits) s)) ∧
  (∀ (s : State) (f : FieldId) (n : PortId), Ends ([.reg Reg.HDL_PORT_STATUS.LIGHT_PAUSE, .ports] : List Part) (· = f) (fun _ => False) s (exec (.lightPauseTimeout f n) s)) ∧
  (∀ (s : State) (f : FieldId) (n : PortId) (ty : Fin 8) (flit : Flit), Ends ([.events, .reg Reg.RTE_LINK_CNT.CRC_ERR, .reg Reg.RTE_LINK_CNT.PROTO_ERR, .reg Reg.RTE_LINK_CNT.RX_FLITS, .reg Reg.RTE_LINK_CREDIT.RES, .reg Reg.RTE_LINK_CREDIT.SHARED, .lastRaise, .ports] : List Part) (· = f) (fun _ => False) s (exec (.dataFlit f n ty flit) s)) ∧
  (∀ (s : State) (f : FieldId) (link : Fin 18), Ends (([.events, .out, .reg Reg.INJ_PT.ARM, .reg Reg.INJ_PT.DONE, .reg Reg.RTE_COMB_STAT.MERGED, .reg Reg.RTE_COMB_STAT.PEAK, .reg Reg.RTE_DROP_CNT.FOREIGN, .reg Reg.RTE_DROP_CNT.MCAST_DROP, .reg Reg.RTE_DROP_CNT.NOROUTE, .reg Reg.RTE_DROP_CNT.TRANSIT, .reg Reg.RTE_LINK_CNT.LOST, .reg Reg.RTE_LINK_CNT.NAKS, .reg Reg.RTE_LINK_CNT.PROTO_ERR, .reg Reg.RTE_LINK_CNT.REPLAYED, .reg Reg.RTE_LINK_CNT.RETRAINS, .reg Reg.RTE_LINK_CNT.TX_FLITS] : List Part) ++ ([.reg Reg.RTE_LINK_CREDIT.RES, .reg Reg.RTE_LINK_CREDIT.SHARED, .reg Reg.RTE_LINK_STATUS.PRESERVED, .reg Reg.RTE_LINK_STATUS.RESULT, .reg Reg.RTE_LINK_STATUS.STATE, .reg Reg.SHF_STAT.PROTO_ERR, .lastRaise, .ports, .router, .tally, .far .router] : List Part)) (· = f) (fun _ => False) s (exec (.flitSlot f link) s)) ∧
  (∀ (s : State) (f : FieldId) (n : PortId) (seq : Nat), Ends ([.ports] : List Part) (· = f) (fun _ => False) s (exec (.replayTimeout f n seq) s)) ∧
  (∀ (s : State) (f : FieldId) (n : PortId), Ends ([.events, .reg Reg.RTE_LINK_STATUS.RESULT, .ports] : List Part) (· = f) (fun _ => False) s (exec (.lockTimeout f n) s)) ∧
  (∀ (s : State) (f : FieldId) (n : PortId) (w : Lambda) (lineBits : Nat) (corrected : Nat) (uncorrectable : Nat), Ends (([.events, .out, .reg Reg.HDL_PORT_STATUS.TX_MODE, .reg Reg.INJ_PT.ARM, .reg Reg.INJ_PT.DONE, .reg Reg.RTE_COMB_STAT.MERGED, .reg Reg.RTE_COMB_STAT.PEAK, .reg Reg.RTE_LANE_FEC.CORR, .reg Reg.RTE_LANE_FEC.UNCORR, .reg Reg.RTE_LINK_CNT.LOST, .reg Reg.RTE_LINK_CNT.NAKS, .reg Reg.RTE_LINK_CNT.REPLAYED, .reg Reg.RTE_LINK_CNT.RETRAINS, .reg Reg.RTE_LINK_CNT.TX_FLITS, .reg Reg.RTE_LINK_CREDIT.RES, .reg Reg.RTE_LINK_CREDIT.SHARED] : List Part) ++ ([.reg Reg.RTE_LINK_STATUS.PRESERVED, .reg Reg.RTE_LINK_STATUS.RESULT, .reg Reg.RTE_LINK_STATUS.STATE, .reg Reg.RTE_QUAL_RESULT.RX_PASS, .reg Reg.RTE_QUAL_RESULT.TX_PASS, .reg Reg.RTE_QUAL_RESULT.WORST, .reg Reg.RTE_QUAL_RESULT.WORST_E, .ports, .router, .health, .tally] : List Part)) (· = f) (fun _ => False) s (exec (.qualifyEnd f n w lineBits corrected uncorrectable) s)) ∧
  (∀ (s : State) (f : FieldId) (n : PortId), Ends (([.events, .out, .reg Reg.INJ_PT.ARM, .reg Reg.INJ_PT.DONE, .reg Reg.RTE_COMB_STAT.MERGED, .reg Reg.RTE_COMB_STAT.PEAK, .reg Reg.RTE_LINK_CNT.LOST, .reg Reg.RTE_LINK_CNT.NAKS, .reg Reg.RTE_LINK_CNT.REPLAYED, .reg Reg.RTE_LINK_CNT.TX_FLITS, .reg Reg.RTE_LINK_CREDIT.RES, .reg Reg.RTE_LINK_CREDIT.SHARED, .reg Reg.RTE_LINK_STATUS.PRESERVED, .reg Reg.RTE_LINK_STATUS.RESULT, .reg Reg.RTE_LINK_STATUS.STATE, .ports] : List Part) ++ ([.router, .tally] : List Part)) (· = f) (fun _ => False) s (exec (.retrainTimeout f n) s)) ∧
  (∀ (s : State) (f : FieldId) (n : PortId), Ends (([.events, .out, .reg Reg.INJ_PT.ARM, .reg Reg.INJ_PT.DONE, .reg Reg.RTE_COMB_STAT.MERGED, .reg Reg.RTE_COMB_STAT.PEAK, .reg Reg.RTE_LINK_CNT.LOST, .reg Reg.RTE_LINK_CNT.NAKS, .reg Reg.RTE_LINK_CNT.REPLAYED, .reg Reg.RTE_LINK_CNT.TX_FLITS, .reg Reg.RTE_LINK_CREDIT.RES, .reg Reg.RTE_LINK_CREDIT.SHARED, .reg Reg.RTE_LINK_CTL.ENABLE, .reg Reg.RTE_LINK_STATUS.PRESERVED, .reg Reg.RTE_LINK_STATUS.RESULT, .reg Reg.RTE_LINK_STATUS.STATE] : List Part) ++ ([.ports, .router, .tally] : List Part)) (· = f) (fun _ => False) s (exec (.linkEnableClear f n) s)) ∧
  (∀ (s : State) (f : FieldId) (n : PortId), ∀ c ∈ ([.beaconSend f n, .laneControlRepeat f n] : List Instr),
      Ends ([.events, .out, .reg Reg.INJ_PT.ARM, .reg Reg.INJ_PT.DONE, .reg Reg.RTE_COMB_STAT.MERGED, .reg Reg.RTE_COMB_STAT.PEAK, .reg Reg.RTE_LINK_CNT.NAKS, .reg Reg.RTE_LINK_CNT.REPLAYED, .reg Reg.RTE_LINK_CNT.TX_FLITS, .reg Reg.RTE_LINK_CREDIT.RES, .reg Reg.RTE_LINK_CREDIT.SHARED, .ports, .router, .tally] : List Part) (· = f) (fun _ => False) s (exec c s)) ∧
  (∀ (s : State) (f : FieldId) (n : PortId), Ends ([.events, .reg Reg.RTE_DISC_STATUS.OUTCOME] : List Part) (· = f) (fun _ => False) s (exec (.missingTimeout f n) s)) ∧
  (∀ (s : State) (f : FieldId) (mask : Nat), Ends (([.events, .out, .reg Reg.HDL_PORT_STATUS.RX_MODE, .reg Reg.HDL_PORT_STATUS.TX_MODE, .reg Reg.INJ_PT.ARM, .reg Reg.INJ_PT.DONE, .reg Reg.RTE_COMB_STAT.MERGED, .reg Reg.RTE_COMB_STAT.PEAK, .reg Reg.RTE_DISC_STATUS.REFUSED, .reg Reg.RTE_LINK_CNT.LOST, .reg Reg.RTE_LINK_CNT.NAKS, .reg Reg.RTE_LINK_CNT.REPLAYED, .reg Reg.RTE_LINK_CNT.RETRAINS, .reg Reg.RTE_LINK_CNT.TX_FLITS, .reg Reg.RTE_LINK_CREDIT.RES, .reg Reg.RTE_LINK_CREDIT.SHARED] : List Part) ++ ([.reg Reg.RTE_LINK_STATUS.PRESERVED, .reg Reg.RTE_LINK_STATUS.RESULT, .reg Reg.RTE_LINK_STATUS.STATE, .reg Reg.RTE_QUAL_RESULT.RX_PASS, .reg Reg.RTE_QUAL_RESULT.TX_PASS, .reg Reg.RTE_QUAL_RESULT.WORST, .reg Reg.RTE_QUAL_RESULT.WORST_E, .ports, .router, .tally] : List Part)) (· = f) (fun _ => False) s (exec (.discApprove f mask) s)) ∧
  (∀ (s : State) (f : FieldId) (n : PortId), Ends ([.ports] : List Part) (· = f) (fun _ => False) s (exec (.discApprovalWithdraw f n) s)) ∧
  (∀ (s : State) (f : FieldId) (link : Fin 19) (vc : Fin 8) (stage : Fin 9), Ends ([.events, .reg Reg.RTE_DROP_CNT.FOREIGN, .reg Reg.RTE_DROP_CNT.MCAST_DROP, .reg Reg.RTE_DROP_CNT.NOROUTE, .reg Reg.RTE_DROP_CNT.TRANSIT, .reg Reg.RTE_LINK_CNT.PROTO_ERR, .reg Reg.SHF_STAT.PROTO_ERR, .lastRaise, .ports, .router, .tally] : List Part) (· = f) (fun _ => False) s (exec (.routePacket f link vc stage) s)) ∧
  (∀ (s : State) (f : FieldId), Ends ([.events, .reg Reg.RTE_DROP_CNT.FOREIGN, .reg Reg.RTE_DROP_CNT.MCAST_DROP, .reg Reg.RTE_DROP_CNT.NOROUTE, .reg Reg.RTE_DROP_CNT.TRANSIT, .reg Reg.RTE_LINK_CNT.PROTO_ERR, .reg Reg.SHF_STAT.PROTO_ERR, .lastRaise, .ports, .router] : List Part) (· = f) (fun _ => False) s (exec (.mcastCopy f) s)) ∧
  (∀ (s : State) (f : FieldId), Ends ([.events, .reg Reg.RTE_TABLE_STATUS.GEN, .reg Reg.RTE_TABLE_STATUS.INDEX, .reg Reg.RTE_TABLE_STATUS.PENDING, .reg Reg.RTE_TABLE_STATUS.RESULT, .reg Reg.RTE_TABLE_STATUS.SEALED, .reg Reg.RTE_TABLE_STATUS.TABLE, .router] : List Part) (· = f) (fun _ => False) s (exec (.sealTables f) s)) ∧
  (∀ (s : State) (f : FieldId) (slot : Nat) (aged : Bool), Ends ([.reg Reg.RTE_COMB_STAT.AGED, .ports, .router] : List Part) (· = f) (fun _ => False) s (exec (.combSlotSend f slot aged) s)) ∧
  (∀ (s : State) (f : FieldId) (n : PortId), ∀ c ∈ ([.retrain f n, .rxSilentTimeout f n, .linkRetry f n] : List Instr),
      Ends (([.events, .out, .reg Reg.INJ_PT.ARM, .reg Reg.INJ_PT.DONE, .reg Reg.RTE_COMB_STAT.MERGED, .reg Reg.RTE_COMB_STAT.PEAK, .reg Reg.RTE_LINK_CNT.LOST, .reg Reg.RTE_LINK_CNT.NAKS, .reg Reg.RTE_LINK_CNT.REPLAYED, .reg Reg.RTE_LINK_CNT.RETRAINS, .reg Reg.RTE_LINK_CNT.TX_FLITS, .reg Reg.RTE_LINK_CREDIT.RES, .reg Reg.RTE_LINK_CREDIT.SHARED, .reg Reg.RTE_LINK_STATUS.PRESERVED, .reg Reg.RTE_LINK_STATUS.RESULT, .reg Reg.RTE_LINK_STATUS.STATE] : List Part) ++ ([.ports, .router, .tally] : List Part)) (· = f) (fun _ => False) s (exec c s)) ∧
  (∀ (s : State) (f : FieldId) (n : PortId), ∀ c ∈ ([.switchTimeout f n, .headerMapDesync f n] : List Instr),
      Ends (([.events, .out, .reg Reg.INJ_PT.ARM, .reg Reg.INJ_PT.DONE, .reg Reg.RTE_COMB_STAT.MERGED, .reg Reg.RTE_COMB_STAT.PEAK, .reg Reg.RTE_LINK_CNT.LOST, .reg Reg.RTE_LINK_CNT.NAKS, .reg Reg.RTE_LINK_CNT.PROTO_ERR, .reg Reg.RTE_LINK_CNT.REPLAYED, .reg Reg.RTE_LINK_CNT.RETRAINS, .reg Reg.RTE_LINK_CNT.TX_FLITS, .reg Reg.RTE_LINK_CREDIT.RES, .reg Reg.RTE_LINK_CREDIT.SHARED, .reg Reg.RTE_LINK_STATUS.PRESERVED, .reg Reg.RTE_LINK_STATUS.RESULT] : List Part) ++ ([.reg Reg.RTE_LINK_STATUS.STATE, .lastRaise, .ports, .router, .tally] : List Part)) (· = f) (fun _ => False) s (exec c s)) ∧
  (∀ (s : State) (f : FieldId) (n : PortId) (flit : Flit), ∀ c ∈ ([.idleFlit f n flit, .nakFlit f n flit] : List Instr),
      Ends ([.events, .reg Reg.RTE_LINK_CNT.CRC_ERR, .reg Reg.RTE_LINK_CNT.PROTO_ERR, .reg Reg.RTE_LINK_CREDIT.RES, .reg Reg.RTE_LINK_CREDIT.SHARED, .lastRaise, .ports] : List Part) (· = f) (fun _ => False) s (exec c s)) ∧
  (∀ (s : State) (f : FieldId), ∀ c ∈ ([.congSample f, .congWindowEnd f] : List Instr),
      Ends ([.router] : List Part) (· = f) (fun _ => False) s (exec c s))

/-- Frame of the gateway commands: for every state and every operand the command answers a next state; before the
records of the events it raised are written, only the named parts of the state have changed, parts of a field only in
the named field, parts of a plot only in the named plot, those listed as far anywhere; one that names no field may
change its parts in any; the queue is untouched and memories keep their canonical form. Which bytes of HBM and of stores
change: WritesStayInTheirLines. -/
def Obligations.GatewayFrame : Prop :=
  (∀ (s : State) (f : FieldId) (pkt : Packet), Ends (([.events, .hbmErr, .storeErr, .reg Reg.INJ_PT.ARM, .reg Reg.INJ_PT.DONE, .reg Reg.MEM_ECC_STAT.CORRECTED, .reg Reg.MEM_ECC_STAT.LAST_ADDR, .reg Reg.MEM_ECC_STAT.UNCORRECTED, .reg Reg.MEM_REPAIR_ENTRY.BANK, .reg Reg.MEM_REPAIR_ENTRY.CHANNEL, .reg Reg.MEM_REPAIR_ENTRY.PCH, .reg Reg.MEM_REPAIR_ENTRY.REASON, .reg Reg.MEM_REPAIR_ENTRY.RESULT, .reg Reg.MEM_REPAIR_ENTRY.ROW, .reg Reg.MEM_REPAIR_ENTRY.STACK, .reg Reg.MEM_REPAIR_ENTRY.VALID] : List Part) ++ ([.reg Reg.RTE_DROP_CNT.FOREIGN, .reg Reg.RTE_DROP_CNT.MCAST_DROP, .plotReg Reg.PLT_STORE_ECC.CORRECTED, .plotReg Reg.PLT_STORE_ECC.LAST_ADDR, .plotReg Reg.PLT_STORE_ECC.UNCORRECTED, .memu, .lastRaise, .router, .health] : List Part)) (· = f) (fun _ => True) s (exec (.get f pkt) s)) ∧
  (∀ (s : State) (f : FieldId) (pkt : Packet), Ends (([.free, .events, .hbm, .store, .hbmErr, .storeErr, .reg Reg.GWY_RED_STATUS.DEFERS, .reg Reg.GWY_STAT.ABSORBED, .reg Reg.GWY_STAT.COMB_APPLIED, .reg Reg.GWY_STAT.COMB_DISCARD, .reg Reg.GWY_STAT.DEFERS_SENT, .reg Reg.INJ_PT.ARM, .reg Reg.INJ_PT.DONE, .reg Reg.MEM_ECC_STAT.CORRECTED, .reg Reg.MEM_ECC_STAT.LAST_ADDR, .reg Reg.MEM_ECC_STAT.POISON_WRITES] : List Part) ++ ([.reg Reg.MEM_ECC_STAT.UNCORRECTED, .reg Reg.MEM_REPAIR_ENTRY.BANK, .reg Reg.MEM_REPAIR_ENTRY.CHANNEL, .reg Reg.MEM_REPAIR_ENTRY.PCH, .reg Reg.MEM_REPAIR_ENTRY.REASON, .reg Reg.MEM_REPAIR_ENTRY.RESULT, .reg Reg.MEM_REPAIR_ENTRY.ROW, .reg Reg.MEM_REPAIR_ENTRY.STACK, .reg Reg.MEM_REPAIR_ENTRY.VALID, .reg Reg.MIR_LOAD_STATUS.DIGEST, .reg Reg.MIR_LOAD_STATUS.GRANULES, .reg Reg.MIR_LOAD_STATUS.RESULT, .reg Reg.MIR_LOAD_STATUS.STATE, .reg Reg.MIR_LOAD_STATUS.USING_SRC1, .reg Reg.MIR_PART_STATUS.BUF_USED, .reg Reg.MIR_PART_STATUS.COMMITTED] : List Part) ++ ([.reg Reg.MIR_PART_STATUS.DIGEST, .reg Reg.MIR_PART_STATUS.RESULT, .reg Reg.MIR_PART_STATUS.STATE, .reg Reg.MIR_PART_STATUS.VALID, .reg Reg.RTE_DROP_CNT.FOREIGN, .reg Reg.RTE_DROP_CNT.MCAST_DROP, .plotReg Reg.PLT_STORE_ECC.CORRECTED, .plotReg Reg.PLT_STORE_ECC.LAST_ADDR, .plotReg Reg.PLT_STORE_ECC.UNCORRECTED, .memu, .lastRaise, .router, .gateway, .health, .mirror] : List Part)) (· = f) (fun _ => True) s (exec (.putReduceComb f pkt) s)) ∧
  (∀ (s : State) (f : FieldId) (pkt : Packet), Ends (([.events, .hbm, .store, .hbmErr, .storeErr, .reg Reg.GWY_STAT.ABSORBED, .reg Reg.INJ_PT.ARM, .reg Reg.INJ_PT.DONE, .reg Reg.MEM_ECC_STAT.CORRECTED, .reg Reg.MEM_ECC_STAT.LAST_ADDR, .reg Reg.MEM_ECC_STAT.POISON_WRITES, .reg Reg.MEM_ECC_STAT.UNCORRECTED, .reg Reg.MEM_REPAIR_ENTRY.BANK, .reg Reg.MEM_REPAIR_ENTRY.CHANNEL, .reg Reg.MEM_REPAIR_ENTRY.PCH, .reg Reg.MEM_REPAIR_ENTRY.REASON] : List Part) ++ ([.reg Reg.MEM_REPAIR_ENTRY.RESULT, .reg Reg.MEM_REPAIR_ENTRY.ROW, .reg Reg.MEM_REPAIR_ENTRY.STACK, .reg Reg.MEM_REPAIR_ENTRY.VALID, .reg Reg.RTE_DROP_CNT.FOREIGN, .reg Reg.RTE_DROP_CNT.MCAST_DROP, .plotReg Reg.PLT_STORE_ECC.CORRECTED, .plotReg Reg.PLT_STORE_ECC.LAST_ADDR, .plotReg Reg.PLT_STORE_ECC.UNCORRECTED, .memu, .lastRaise, .router, .health] : List Part)) (· = f) (fun _ => True) s (exec (.mcastPut f pkt) s)) ∧
  (∀ (s : State) (f : FieldId) (pkt : Packet), Ends (([.events, .hbm, .hbmErr, .reg Reg.GWY_STAT.ABSORBED, .reg Reg.GWY_STAT.FLUSHES, .reg Reg.INJ_PT.ARM, .reg Reg.INJ_PT.DONE, .reg Reg.MEM_ECC_STAT.CORRECTED, .reg Reg.MEM_ECC_STAT.LAST_ADDR, .reg Reg.MEM_ECC_STAT.POISON_WRITES, .reg Reg.MEM_ECC_STAT.UNCORRECTED, .reg Reg.MEM_REPAIR_ENTRY.BANK, .reg Reg.MEM_REPAIR_ENTRY.CHANNEL, .reg Reg.MEM_REPAIR_ENTRY.PCH, .reg Reg.MEM_REPAIR_ENTRY.REASON, .reg Reg.MEM_REPAIR_ENTRY.RESULT] : List Part) ++ ([.reg Reg.MEM_REPAIR_ENTRY.ROW, .reg Reg.MEM_REPAIR_ENTRY.STACK, .reg Reg.MEM_REPAIR_ENTRY.VALID, .reg Reg.RTE_DROP_CNT.FOREIGN, .reg Reg.RTE_DROP_CNT.MCAST_DROP, .memu, .lastRaise, .router, .gateway, .health] : List Part)) (· = f) (fun _ => False) s (exec (.flushReq f pkt) s)) ∧
  (∀ (s : State) (f : FieldId) (pkt : Packet), Ends ([.events, .reg Reg.GWY_STAT.DEFERS_RECV, .reg Reg.RTE_DROP_CNT.FOREIGN, .reg Reg.RTE_DROP_CNT.MCAST_DROP, .lastRaise, .router, .gateway] : List Part) (· = f) (fun _ => False) s (exec (.defer f pkt) s)) ∧
  (∀ (s : State) (f : FieldId) (src : Nat), Ends ([.router, .gateway] : List Part) (· = f) (fun _ => False) s (exec (.ackSend f src) s)) ∧
  (∀ (s : State) (f : FieldId) (src : Nat), Ends ([.gateway] : List Part) (· = f) (fun _ => False) s (exec (.ageTokenTimeout f src) s)) ∧
  (∀ (s : State) (f : FieldId) (req : Nat) (member : Nat), Ends (([.events, .store, .bin, .storeErr, .binErr, .reg Reg.GWY_FATAL_LOG.ADDR, .reg Reg.GWY_FATAL_LOG.ALLOT, .reg Reg.GWY_FATAL_LOG.DST, .reg Reg.GWY_FATAL_LOG.OP, .reg Reg.GWY_FATAL_LOG.PLOT, .reg Reg.GWY_FATAL_LOG.VALID, .reg Reg.GWY_STAT.POISONED, .reg Reg.GWY_STAT.RETX, .reg Reg.GWY_STAT.UNREACHABLE, .reg Reg.INJ_ARITH.ARM, .reg Reg.INJ_ARITH.DONE] : List Part) ++ ([.reg Reg.INJ_PT.ARM, .reg Reg.INJ_PT.DONE, .reg Reg.MIR_LOAD_STATUS.DIGEST, .reg Reg.MIR_LOAD_STATUS.GRANULES, .reg Reg.MIR_LOAD_STATUS.RESULT, .reg Reg.MIR_LOAD_STATUS.STATE, .reg Reg.MIR_LOAD_STATUS.USING_SRC1, .reg Reg.MIR_PART.ENABLE, .reg Reg.MIR_PART_STATUS.RESULT, .reg Reg.MIR_PART_STATUS.STATE, .reg Reg.MIR_SRC_STATUS.ACKED0, .reg Reg.MIR_SRC_STATUS.ACKED1, .reg Reg.MIR_SRC_STATUS.BREAKS, .reg Reg.MIR_SRC_STATUS.STATE, .queue, .plotReg Reg.PLT_STORE_ECC.CORRECTED] : List Part) ++ ([.plotReg Reg.PLT_STORE_ECC.LAST_ADDR, .plotReg Reg.PLT_STORE_ECC.UNCORRECTED, .memu, .lastRaise, .router, .gateway, .health, .mirror] : List Part)) (· = f) (fun _ => True) s (exec (.retxTimeout f req member) s)) ∧
  (∀ (s : State) (f : FieldId) (line : Nat), Ends ([.hbm, .hbmErr, .memu] : List Part) (· = f) (fun _ => False) s (exec (.absorberWriteback f line) s)) ∧
  (∀ (s : State) (f : FieldId) (src : Nat) (txn : Nat), Ends ([.gateway] : List Part) (· = f) (fun _ => False) s (exec (.atomicCacheExpiry f src txn) s)) ∧
  (∀ (s : State) (f : FieldId) (id : Nat), Ends (([.events, .hbm, .hbmErr, .reg Reg.GWY_STAT.ABSORBED, .reg Reg.GWY_STAT.FLUSHES, .reg Reg.INJ_PT.ARM, .reg Reg.INJ_PT.DONE, .reg Reg.MEM_ECC_STAT.CORRECTED, .reg Reg.MEM_ECC_STAT.LAST_ADDR, .reg Reg.MEM_ECC_STAT.POISON_WRITES, .reg Reg.MEM_ECC_STAT.UNCORRECTED, .reg Reg.MEM_REPAIR_ENTRY.BANK, .reg Reg.MEM_REPAIR_ENTRY.CHANNEL, .reg Reg.MEM_REPAIR_ENTRY.PCH, .reg Reg.MEM_REPAIR_ENTRY.REASON, .reg Reg.MEM_REPAIR_ENTRY.RESULT] : List Part) ++ ([.reg Reg.MEM_REPAIR_ENTRY.ROW, .reg Reg.MEM_REPAIR_ENTRY.STACK, .reg Reg.MEM_REPAIR_ENTRY.VALID, .memu, .gateway, .health] : List Part)) (· = f) (fun _ => False) s (exec (.gwyRedRelease f id) s)) ∧
  (∀ (s : State) (f : FieldId), Ends (([.free, .events, .hbm, .store, .hbmErr, .storeErr, .reg Reg.GWY_RED_STATUS.DEFERS, .reg Reg.GWY_STAT.ABSORBED, .reg Reg.GWY_STAT.DEFERS_SENT, .reg Reg.INJ_PT.ARM, .reg Reg.INJ_PT.DONE, .reg Reg.MEM_ECC_STAT.CORRECTED, .reg Reg.MEM_ECC_STAT.LAST_ADDR, .reg Reg.MEM_ECC_STAT.POISON_WRITES, .reg Reg.MEM_ECC_STAT.UNCORRECTED, .reg Reg.MEM_REPAIR_ENTRY.BANK] : List Part) ++ ([.reg Reg.MEM_REPAIR_ENTRY.CHANNEL, .reg Reg.MEM_REPAIR_ENTRY.PCH, .reg Reg.MEM_REPAIR_ENTRY.REASON, .reg Reg.MEM_REPAIR_ENTRY.RESULT, .reg Reg.MEM_REPAIR_ENTRY.ROW, .reg Reg.MEM_REPAIR_ENTRY.STACK, .reg Reg.MEM_REPAIR_ENTRY.VALID, .reg Reg.MIR_LOAD_STATUS.DIGEST, .reg Reg.MIR_LOAD_STATUS.GRANULES, .reg Reg.MIR_LOAD_STATUS.RESULT, .reg Reg.MIR_LOAD_STATUS.STATE, .reg Reg.MIR_LOAD_STATUS.USING_SRC1, .reg Reg.MIR_PART_STATUS.BUF_USED, .reg Reg.MIR_PART_STATUS.COMMITTED, .reg Reg.MIR_PART_STATUS.DIGEST, .reg Reg.MIR_PART_STATUS.RESULT] : List Part) ++ ([.reg Reg.MIR_PART_STATUS.STATE, .reg Reg.MIR_PART_STATUS.VALID, .plotReg Reg.PLT_STORE_ECC.CORRECTED, .plotReg Reg.PLT_STORE_ECC.LAST_ADDR, .plotReg Reg.PLT_STORE_ECC.UNCORRECTED, .memu, .router, .gateway, .health, .mirror] : List Part)) (· = f) (fun _ => True) s (exec (.putReduceResume f) s)) ∧
  (∀ (s : State) (f : FieldId) (pkt : Packet), ∀ c ∈ ([.put f pkt, .putPartial f pkt, .putReduce f pkt] : List Instr),
      Ends (([.free, .events, .hbm, .store, .hbmErr, .storeErr, .reg Reg.GWY_RED_STATUS.DEFERS, .reg Reg.GWY_STAT.ABSORBED, .reg Reg.GWY_STAT.DEFERS_SENT, .reg Reg.INJ_PT.ARM, .reg Reg.INJ_PT.DONE, .reg Reg.MEM_ECC_STAT.CORRECTED, .reg Reg.MEM_ECC_STAT.LAST_ADDR, .reg Reg.MEM_ECC_STAT.POISON_WRITES, .reg Reg.MEM_ECC_STAT.UNCORRECTED, .reg Reg.MEM_REPAIR_ENTRY.BANK] : List Part) ++ ([.reg Reg.MEM_REPAIR_ENTRY.CHANNEL, .reg Reg.MEM_REPAIR_ENTRY.PCH, .reg Reg.MEM_REPAIR_ENTRY.REASON, .reg Reg.MEM_REPAIR_ENTRY.RESULT, .reg Reg.MEM_REPAIR_ENTRY.ROW, .reg Reg.MEM_REPAIR_ENTRY.STACK, .reg Reg.MEM_REPAIR_ENTRY.VALID, .reg Reg.MIR_LOAD_STATUS.DIGEST, .reg Reg.MIR_LOAD_STATUS.GRANULES, .reg Reg.MIR_LOAD_STATUS.RESULT, .reg Reg.MIR_LOAD_STATUS.STATE, .reg Reg.MIR_LOAD_STATUS.USING_SRC1, .reg Reg.MIR_PART.ENABLE, .reg Reg.MIR_PART_STATUS.BUF_USED, .reg Reg.MIR_PART_STATUS.COMMITTED, .reg Reg.MIR_PART_STATUS.DIGEST] : List Part) ++ ([.reg Reg.MIR_PART_STATUS.RESULT, .reg Reg.MIR_PART_STATUS.STATE, .reg Reg.MIR_PART_STATUS.VALID, .reg Reg.MIR_SRC_STATUS.ACKED0, .reg Reg.MIR_SRC_STATUS.ACKED1, .reg Reg.MIR_SRC_STATUS.BREAKS, .reg Reg.MIR_SRC_STATUS.STATE, .reg Reg.RTE_DROP_CNT.FOREIGN, .reg Reg.RTE_DROP_CNT.MCAST_DROP, .plotReg Reg.PLT_STORE_ECC.CORRECTED, .plotReg Reg.PLT_STORE_ECC.LAST_ADDR, .plotReg Reg.PLT_STORE_ECC.UNCORRECTED, .memu, .lastRaise, .router, .gateway] : List Part) ++ ([.health, .mirror] : List Part)) (· = f) (fun _ => True) s (exec c s)) ∧
  (∀ (s : State) (f : FieldId) (pkt : Packet), ∀ c ∈ ([.fetchAdd f pkt, .compareSwap f pkt] : List Instr),
      Ends (([.events, .hbm, .hbmErr, .reg Reg.GWY_STAT.ABSORBED, .reg Reg.GWY_STAT.DEFERS_SENT, .reg Reg.INJ_PT.ARM, .reg Reg.INJ_PT.DONE, .reg Reg.MEM_ECC_STAT.CORRECTED, .reg Reg.MEM_ECC_STAT.LAST_ADDR, .reg Reg.MEM_ECC_STAT.POISON_WRITES, .reg Reg.MEM_ECC_STAT.UNCORRECTED, .reg Reg.MEM_REPAIR_ENTRY.BANK, .reg Reg.MEM_REPAIR_ENTRY.CHANNEL, .reg Reg.MEM_REPAIR_ENTRY.PCH, .reg Reg.MEM_REPAIR_ENTRY.REASON, .reg Reg.MEM_REPAIR_ENTRY.RESULT] : List Part) ++ ([.reg Reg.MEM_REPAIR_ENTRY.ROW, .reg Reg.MEM_REPAIR_ENTRY.STACK, .reg Reg.MEM_REPAIR_ENTRY.VALID, .reg Reg.RTE_DROP_CNT.FOREIGN, .reg Reg.RTE_DROP_CNT.MCAST_DROP, .memu, .lastRaise, .router, .gateway, .health] : List Part)) (· = f) (fun _ => False) s (exec c s)) ∧
  (∀ (s : State) (f : FieldId) (pkt : Packet), ∀ c ∈ ([.getResp f pkt, .atomicResp f pkt] : List Instr),
      Ends (([.events, .store, .bin, .storeErr, .binErr, .reg Reg.INJ_ARITH.ARM, .reg Reg.INJ_ARITH.DONE, .reg Reg.INJ_PT.ARM, .reg Reg.INJ_PT.DONE, .reg Reg.MIR_LOAD_STATUS.DIGEST, .reg Reg.MIR_LOAD_STATUS.GRANULES, .reg Reg.MIR_LOAD_STATUS.RESULT, .reg Reg.MIR_LOAD_STATUS.STATE, .reg Reg.MIR_LOAD_STATUS.USING_SRC1, .reg Reg.MIR_PART.ENABLE, .reg Reg.MIR_PART_STATUS.RESULT] : List Part) ++ ([.reg Reg.MIR_PART_STATUS.STATE, .reg Reg.MIR_SRC_STATUS.ACKED0, .reg Reg.MIR_SRC_STATUS.ACKED1, .reg Reg.MIR_SRC_STATUS.BREAKS, .reg Reg.MIR_SRC_STATUS.STATE, .reg Reg.RTE_DROP_CNT.FOREIGN, .reg Reg.RTE_DROP_CNT.MCAST_DROP, .queue, .plotReg Reg.PLT_STORE_ECC.CORRECTED, .plotReg Reg.PLT_STORE_ECC.LAST_ADDR, .plotReg Reg.PLT_STORE_ECC.UNCORRECTED, .memu, .lastRaise, .router, .gateway, .health] : List Part) ++ ([.mirror] : List Part)) (· = f) (fun _ => True) s (exec c s)) ∧
  (∀ (s : State) (f : FieldId) (pkt : Packet), ∀ c ∈ ([.ack f pkt, .mcAck f pkt, .flushAck f pkt] : List Instr),
      Ends (([.events, .reg Reg.INJ_PT.ARM, .reg Reg.INJ_PT.DONE, .reg Reg.MIR_LOAD_STATUS.DIGEST, .reg Reg.MIR_LOAD_STATUS.GRANULES, .reg Reg.MIR_LOAD_STATUS.RESULT, .reg Reg.MIR_LOAD_STATUS.STATE, .reg Reg.MIR_LOAD_STATUS.USING_SRC1, .reg Reg.MIR_PART.ENABLE, .reg Reg.MIR_PART_STATUS.RESULT, .reg Reg.MIR_PART_STATUS.STATE, .reg Reg.MIR_SRC_STATUS.ACKED0, .reg Reg.MIR_SRC_STATUS.ACKED1, .reg Reg.MIR_SRC_STATUS.BREAKS, .reg Reg.MIR_SRC_STATUS.STATE, .reg Reg.RTE_DROP_CNT.FOREIGN] : List Part) ++ ([.reg Reg.RTE_DROP_CNT.MCAST_DROP, .queue, .memu, .lastRaise, .router, .gateway, .mirror] : List Part)) (· = f) (fun _ => True) s (exec c s))

/-- Frame of the sheaf engine commands: for every state and every operand the command answers a next state; before the
records of the events it raised are written, only the named parts of the state have changed, parts of a field only in
the named field, parts of a plot only in the named plot, those listed as far anywhere; one that names no field may
change its parts in any; the queue is untouched and memories keep their canonical form. Which bytes of HBM change:
WritesStayInTheirLines. -/
def Obligations.SheafFrame : Prop :=
  (∀ (s : State) (f : FieldId) (id : Nat), Ends ([.reg Reg.FLD_ALLOT.ID, .reg Reg.FLD_WITNESS_CTL.ACTIVE, .reg Reg.FLD_WITNESS_CTL.POISON_ACTIVE, .reg Reg.GWY_ALLOT_HALT.HALTED] : List Part) (· = f) (fun _ => False) s (exec (.fldAllotWrite f id) s)) ∧
  (∀ (s : State) (f : FieldId) (id : Nat), Ends (([.events, .hbm, .hbmErr, .reg Reg.FLD_MESH_STAT.MCAST_SKIPPED, .reg Reg.GWY_ALLOT_HALT.HALTED, .reg Reg.GWY_STAT.ABSORBED, .reg Reg.INJ_PT.ARM, .reg Reg.INJ_PT.DONE, .reg Reg.MEM_ECC_STAT.CORRECTED, .reg Reg.MEM_ECC_STAT.LAST_ADDR, .reg Reg.MEM_ECC_STAT.POISON_WRITES, .reg Reg.MEM_ECC_STAT.UNCORRECTED, .reg Reg.MEM_REPAIR_ENTRY.BANK, .reg Reg.MEM_REPAIR_ENTRY.CHANNEL, .reg Reg.MEM_REPAIR_ENTRY.PCH, .reg Reg.MEM_REPAIR_ENTRY.REASON] : List Part) ++ ([.reg Reg.MEM_REPAIR_ENTRY.RESULT, .reg Reg.MEM_REPAIR_ENTRY.ROW, .reg Reg.MEM_REPAIR_ENTRY.STACK, .reg Reg.MEM_REPAIR_ENTRY.VALID, .reg Reg.MIR_LOAD_STATUS.DIGEST, .reg Reg.MIR_LOAD_STATUS.GRANULES, .reg Reg.MIR_LOAD_STATUS.RESULT, .reg Reg.MIR_LOAD_STATUS.STATE, .reg Reg.MIR_LOAD_STATUS.USING_SRC1, .reg Reg.MIR_PART.ENABLE, .reg Reg.MIR_PART_STATUS.RESULT, .reg Reg.MIR_PART_STATUS.STATE, .reg Reg.MIR_SRC_STATUS.ACKED0, .reg Reg.MIR_SRC_STATUS.ACKED1, .reg Reg.MIR_SRC_STATUS.BREAKS, .reg Reg.MIR_SRC_STATUS.STATE] : List Part) ++ ([.reg Reg.SHF_GROUP_STATUS.DONE_SEQ, .reg Reg.SHF_GROUP_STATUS.STATE, .reg Reg.SHF_LATE_HIST.BUCKET, .reg Reg.SHF_STAT.DONE, .reg Reg.SHF_STAT.FAILED, .drill, .queue, .boot, .plotReg Reg.PLT_BOOT.STATUS, .plotReg Reg.PLT_DOORBELL.PENDING, .memu, .router, .gateway, .sheaf, .health, .mirror] : List Part)) (· = f) (fun _ => True) s (exec (.allotHalt f id) s)) ∧
  (∀ (s : State) (f : FieldId) (slot : Fin 64) (addr : Nat), Ends ([.sheaf] : List Part) (· = f) (fun _ => False) s (exec (.register f slot addr) s)) ∧
  (∀ (s : State) (f : FieldId) (slot : Fin 64), Ends (([.events, .hbmErr, .reg Reg.INJ_PT.ARM, .reg Reg.INJ_PT.DONE, .reg Reg.MEM_ECC_STAT.CORRECTED, .reg Reg.MEM_ECC_STAT.LAST_ADDR, .reg Reg.MEM_ECC_STAT.UNCORRECTED, .reg Reg.MEM_REPAIR_ENTRY.BANK, .reg Reg.MEM_REPAIR_ENTRY.CHANNEL, .reg Reg.MEM_REPAIR_ENTRY.PCH, .reg Reg.MEM_REPAIR_ENTRY.REASON, .reg Reg.MEM_REPAIR_ENTRY.RESULT, .reg Reg.MEM_REPAIR_ENTRY.ROW, .reg Reg.MEM_REPAIR_ENTRY.STACK, .reg Reg.MEM_REPAIR_ENTRY.VALID, .reg Reg.SHF_GROUP_STATUS.DONE_SEQ] : List Part) ++ ([.reg Reg.SHF_GROUP_STATUS.EPOCH, .reg Reg.SHF_GROUP_STATUS.GROUP_ID, .reg Reg.SHF_GROUP_STATUS.HSET, .reg Reg.SHF_GROUP_STATUS.MEMBERS, .reg Reg.SHF_GROUP_STATUS.NEXT_SEQ, .reg Reg.SHF_GROUP_STATUS.RESULT, .reg Reg.SHF_GROUP_STATUS.SCRATCH_REQ, .reg Reg.SHF_GROUP_STATUS.STATE, .memu, .sheaf, .health] : List Part)) (· = f) (fun _ => False) s (exec (.registrationComplete f slot) s)) ∧
  (∀ (s : State) (f : FieldId) (slot : Fin 64) (addr : Nat), Ends (([.events, .hbm, .hbmErr, .reg Reg.FLD_MESH_STAT.MCAST_SKIPPED, .reg Reg.GWY_STAT.ABSORBED, .reg Reg.INJ_PT.ARM, .reg Reg.INJ_PT.DONE, .reg Reg.MEM_ECC_STAT.CORRECTED, .reg Reg.MEM_ECC_STAT.LAST_ADDR, .reg Reg.MEM_ECC_STAT.POISON_WRITES, .reg Reg.MEM_ECC_STAT.UNCORRECTED, .reg Reg.MEM_REPAIR_ENTRY.BANK, .reg Reg.MEM_REPAIR_ENTRY.CHANNEL, .reg Reg.MEM_REPAIR_ENTRY.PCH, .reg Reg.MEM_REPAIR_ENTRY.REASON, .reg Reg.MEM_REPAIR_ENTRY.RESULT] : List Part) ++ ([.reg Reg.MEM_REPAIR_ENTRY.ROW, .reg Reg.MEM_REPAIR_ENTRY.STACK, .reg Reg.MEM_REPAIR_ENTRY.VALID, .reg Reg.SHF_GROUP_STATUS.DONE_SEQ, .reg Reg.SHF_GROUP_STATUS.EPOCH, .reg Reg.SHF_GROUP_STATUS.GROUP_ID, .reg Reg.SHF_GROUP_STATUS.HSET, .reg Reg.SHF_GROUP_STATUS.MEMBERS, .reg Reg.SHF_GROUP_STATUS.NEXT_SEQ, .reg Reg.SHF_GROUP_STATUS.RESULT, .reg Reg.SHF_GROUP_STATUS.SCRATCH_REQ, .reg Reg.SHF_GROUP_STATUS.STATE, .reg Reg.SHF_LATE_HIST.BUCKET, .reg Reg.SHF_STAT.DONE, .reg Reg.SHF_STAT.FAILED, .plotReg Reg.PLT_DOORBELL.PENDING] : List Part) ++ ([.memu, .router, .sheaf, .health] : List Part)) (· = f) (fun _ => True) s (exec (.reform f slot addr) s)) ∧
  (∀ (s : State) (f : FieldId) (slot : Fin 64), Ends (([.events, .hbm, .hbmErr, .reg Reg.FLD_MESH_STAT.MCAST_SKIPPED, .reg Reg.GWY_STAT.ABSORBED, .reg Reg.INJ_PT.ARM, .reg Reg.INJ_PT.DONE, .reg Reg.MEM_ECC_STAT.CORRECTED, .reg Reg.MEM_ECC_STAT.LAST_ADDR, .reg Reg.MEM_ECC_STAT.POISON_WRITES, .reg Reg.MEM_ECC_STAT.UNCORRECTED, .reg Reg.MEM_REPAIR_ENTRY.BANK, .reg Reg.MEM_REPAIR_ENTRY.CHANNEL, .reg Reg.MEM_REPAIR_ENTRY.PCH, .reg Reg.MEM_REPAIR_ENTRY.REASON, .reg Reg.MEM_REPAIR_ENTRY.RESULT] : List Part) ++ ([.reg Reg.MEM_REPAIR_ENTRY.ROW, .reg Reg.MEM_REPAIR_ENTRY.STACK, .reg Reg.MEM_REPAIR_ENTRY.VALID, .reg Reg.SHF_GROUP_STATUS.DONE_SEQ, .reg Reg.SHF_GROUP_STATUS.EPOCH, .reg Reg.SHF_GROUP_STATUS.GROUP_ID, .reg Reg.SHF_GROUP_STATUS.HSET, .reg Reg.SHF_GROUP_STATUS.MEMBERS, .reg Reg.SHF_GROUP_STATUS.NEXT_SEQ, .reg Reg.SHF_GROUP_STATUS.RESULT, .reg Reg.SHF_GROUP_STATUS.SCRATCH_REQ, .reg Reg.SHF_GROUP_STATUS.STATE, .reg Reg.SHF_LATE_HIST.BUCKET, .reg Reg.SHF_STAT.DONE, .reg Reg.SHF_STAT.FAILED, .plotReg Reg.PLT_DOORBELL.PENDING] : List Part) ++ ([.memu, .router, .sheaf, .health] : List Part)) (· = f) (fun _ => True) s (exec (.release f slot) s)) ∧
  (∀ (s : State) (f : FieldId) (slot : Fin 64), Ends (([.events, .hbm, .hbmErr, .reg Reg.FLD_MESH_STAT.MCAST_SKIPPED, .reg Reg.GWY_STAT.ABSORBED, .reg Reg.INJ_PT.ARM, .reg Reg.INJ_PT.DONE, .reg Reg.MEM_ECC_STAT.CORRECTED, .reg Reg.MEM_ECC_STAT.LAST_ADDR, .reg Reg.MEM_ECC_STAT.POISON_WRITES, .reg Reg.MEM_ECC_STAT.UNCORRECTED, .reg Reg.MEM_REPAIR_ENTRY.BANK, .reg Reg.MEM_REPAIR_ENTRY.CHANNEL, .reg Reg.MEM_REPAIR_ENTRY.PCH, .reg Reg.MEM_REPAIR_ENTRY.REASON, .reg Reg.MEM_REPAIR_ENTRY.RESULT] : List Part) ++ ([.reg Reg.MEM_REPAIR_ENTRY.ROW, .reg Reg.MEM_REPAIR_ENTRY.STACK, .reg Reg.MEM_REPAIR_ENTRY.VALID, .reg Reg.SHF_GROUP_STATUS.DONE_SEQ, .reg Reg.SHF_GROUP_STATUS.NEXT_SEQ, .reg Reg.SHF_GROUP_STATUS.STATE, .reg Reg.SHF_LATE_HIST.BUCKET, .reg Reg.SHF_STAT.DONE, .reg Reg.SHF_STAT.FAILED, .plotReg Reg.PLT_DOORBELL.PENDING, .memu, .router, .sheaf, .health] : List Part)) (· = f) (fun _ => True) s (exec (.collectiveStart f slot) s)) ∧
  (∀ (s : State) (f : FieldId) (pkt : Packet), Ends (([.free, .events, .hbm, .hbmErr, .reg Reg.GWY_STAT.ABSORBED, .reg Reg.INJ_PT.ARM, .reg Reg.INJ_PT.DONE, .reg Reg.MEM_ECC_STAT.CORRECTED, .reg Reg.MEM_ECC_STAT.LAST_ADDR, .reg Reg.MEM_ECC_STAT.POISON_WRITES, .reg Reg.MEM_ECC_STAT.UNCORRECTED, .reg Reg.MEM_REPAIR_ENTRY.BANK, .reg Reg.MEM_REPAIR_ENTRY.CHANNEL, .reg Reg.MEM_REPAIR_ENTRY.PCH, .reg Reg.MEM_REPAIR_ENTRY.REASON, .reg Reg.MEM_REPAIR_ENTRY.RESULT] : List Part) ++ ([.reg Reg.MEM_REPAIR_ENTRY.ROW, .reg Reg.MEM_REPAIR_ENTRY.STACK, .reg Reg.MEM_REPAIR_ENTRY.VALID, .reg Reg.RTE_DROP_CNT.FOREIGN, .reg Reg.RTE_DROP_CNT.MCAST_DROP, .reg Reg.SHF_STAT.PROTO_ERR, .reg Reg.SHF_STAT.SCRATCH_BYTES, .reg Reg.SHF_STAT.STALE, .memu, .lastRaise, .router, .sheaf, .health] : List Part)) (· = f) (fun _ => False) s (exec (.piece f pkt) s)) ∧
  (∀ (s : State) (f : FieldId) (slot : Fin 64) (stage : Fin 4) (dst : Nat), Ends (([.events, .hbmErr, .reg Reg.INJ_PT.ARM, .reg Reg.INJ_PT.DONE, .reg Reg.MEM_ECC_STAT.CORRECTED, .reg Reg.MEM_ECC_STAT.LAST_ADDR, .reg Reg.MEM_ECC_STAT.UNCORRECTED, .reg Reg.MEM_REPAIR_ENTRY.BANK, .reg Reg.MEM_REPAIR_ENTRY.CHANNEL, .reg Reg.MEM_REPAIR_ENTRY.PCH, .reg Reg.MEM_REPAIR_ENTRY.REASON, .reg Reg.MEM_REPAIR_ENTRY.RESULT, .reg Reg.MEM_REPAIR_ENTRY.ROW, .reg Reg.MEM_REPAIR_ENTRY.STACK, .reg Reg.MEM_REPAIR_ENTRY.VALID, .memu] : List Part) ++ ([.router, .sheaf, .health] : List Part)) (· = f) (fun _ => False) s (exec (.pieceSend f slot stage dst) s)) ∧
  (∀ (s : State) (f : FieldId) (slot : Fin 64) (stage : Fin 4) (chunk : Nat), Ends (([.free, .events, .hbm, .hbmErr, .reg Reg.FLD_MESH_STAT.MCAST_SKIPPED, .reg Reg.GWY_STAT.ABSORBED, .reg Reg.INJ_PT.ARM, .reg Reg.INJ_PT.DONE, .reg Reg.MEM_ECC_STAT.CORRECTED, .reg Reg.MEM_ECC_STAT.LAST_ADDR, .reg Reg.MEM_ECC_STAT.POISON_WRITES, .reg Reg.MEM_ECC_STAT.UNCORRECTED, .reg Reg.MEM_REPAIR_ENTRY.BANK, .reg Reg.MEM_REPAIR_ENTRY.CHANNEL, .reg Reg.MEM_REPAIR_ENTRY.PCH, .reg Reg.MEM_REPAIR_ENTRY.REASON] : List Part) ++ ([.reg Reg.MEM_REPAIR_ENTRY.RESULT, .reg Reg.MEM_REPAIR_ENTRY.ROW, .reg Reg.MEM_REPAIR_ENTRY.STACK, .reg Reg.MEM_REPAIR_ENTRY.VALID, .reg Reg.SHF_GROUP_STATUS.DONE_SEQ, .reg Reg.SHF_LATE_HIST.BUCKET, .reg Reg.SHF_STAT.DONE, .reg Reg.SHF_STAT.FAILED, .reg Reg.SHF_STAT.FOLDED, .reg Reg.SHF_STAT.SCRATCH_BYTES, .plotReg Reg.PLT_DOORBELL.PENDING, .memu, .router, .sheaf, .health] : List Part)) (· = f) (fun _ => True) s (exec (.chunkFold f slot stage chunk) s)) ∧
  (∀ (s : State) (f : FieldId) (pkt : Packet), Ends ([.events, .reg Reg.RTE_DROP_CNT.FOREIGN, .reg Reg.RTE_DROP_CNT.MCAST_DROP, .reg Reg.SHF_STAT.PROTO_ERR, .reg Reg.SHF_STAT.STALE, .lastRaise, .router, .sheaf] : List Part) (· = f) (fun _ => False) s (exec (.credit f pkt) s)) ∧
  (∀ (s : State) (f : FieldId) (slot : Fin 64) (k : Nat), Ends ([.reg Reg.SHF_STAT.RETX, .router, .sheaf] : List Part) (· = f) (fun _ => False) s (exec (.partResend f slot k) s)) ∧
  (∀ (s : State) (f : FieldId) (slot : Fin 64), Ends (([.events, .hbm, .hbmErr, .reg Reg.FLD_MESH_STAT.MCAST_SKIPPED, .reg Reg.GWY_STAT.ABSORBED, .reg Reg.INJ_PT.ARM, .reg Reg.INJ_PT.DONE, .reg Reg.MEM_ECC_STAT.CORRECTED, .reg Reg.MEM_ECC_STAT.LAST_ADDR, .reg Reg.MEM_ECC_STAT.POISON_WRITES, .reg Reg.MEM_ECC_STAT.UNCORRECTED, .reg Reg.MEM_REPAIR_ENTRY.BANK, .reg Reg.MEM_REPAIR_ENTRY.CHANNEL, .reg Reg.MEM_REPAIR_ENTRY.PCH, .reg Reg.MEM_REPAIR_ENTRY.REASON, .reg Reg.MEM_REPAIR_ENTRY.RESULT] : List Part) ++ ([.reg Reg.MEM_REPAIR_ENTRY.ROW, .reg Reg.MEM_REPAIR_ENTRY.STACK, .reg Reg.MEM_REPAIR_ENTRY.VALID, .reg Reg.SHF_GROUP_STATUS.DONE_SEQ, .reg Reg.SHF_GROUP_STATUS.STATE, .reg Reg.SHF_LATE_HIST.BUCKET, .reg Reg.SHF_STAT.DONE, .reg Reg.SHF_STAT.FAILED, .plotReg Reg.PLT_DOORBELL.PENDING, .memu, .router, .sheaf, .health] : List Part)) (· = f) (fun _ => True) s (exec (.stageTimeout f slot) s)) ∧
  (∀ (s : State) (f : FieldId) (slot : Fin 64), ∀ c ∈ ([.tailWrite f slot, .readyLineWrite f slot] : List Instr),
      Ends (([.events, .hbmErr, .reg Reg.INJ_PT.ARM, .reg Reg.INJ_PT.DONE, .reg Reg.MEM_ECC_STAT.CORRECTED, .reg Reg.MEM_ECC_STAT.LAST_ADDR, .reg Reg.MEM_ECC_STAT.UNCORRECTED, .reg Reg.MEM_REPAIR_ENTRY.BANK, .reg Reg.MEM_REPAIR_ENTRY.CHANNEL, .reg Reg.MEM_REPAIR_ENTRY.PCH, .reg Reg.MEM_REPAIR_ENTRY.REASON, .reg Reg.MEM_REPAIR_ENTRY.RESULT, .reg Reg.MEM_REPAIR_ENTRY.ROW, .reg Reg.MEM_REPAIR_ENTRY.STACK, .reg Reg.MEM_REPAIR_ENTRY.VALID, .memu] : List Part) ++ ([.sheaf, .health] : List Part)) (· = f) (fun _ => False) s (exec c s)) ∧
  (∀ (s : State) (f : FieldId) (pkt : Packet), ∀ c ∈ ([.digest f pkt, .abort f pkt] : List Instr),
      Ends (([.events, .hbm, .hbmErr, .reg Reg.FLD_MESH_STAT.MCAST_SKIPPED, .reg Reg.GWY_STAT.ABSORBED, .reg Reg.INJ_PT.ARM, .reg Reg.INJ_PT.DONE, .reg Reg.MEM_ECC_STAT.CORRECTED, .reg Reg.MEM_ECC_STAT.LAST_ADDR, .reg Reg.MEM_ECC_STAT.POISON_WRITES, .reg Reg.MEM_ECC_STAT.UNCORRECTED, .reg Reg.MEM_REPAIR_ENTRY.BANK, .reg Reg.MEM_REPAIR_ENTRY.CHANNEL, .reg Reg.MEM_REPAIR_ENTRY.PCH, .reg Reg.MEM_REPAIR_ENTRY.REASON, .reg Reg.MEM_REPAIR_ENTRY.RESULT] : List Part) ++ ([.reg Reg.MEM_REPAIR_ENTRY.ROW, .reg Reg.MEM_REPAIR_ENTRY.STACK, .reg Reg.MEM_REPAIR_ENTRY.VALID, .reg Reg.RTE_DROP_CNT.FOREIGN, .reg Reg.RTE_DROP_CNT.MCAST_DROP, .reg Reg.SHF_GROUP_STATUS.DONE_SEQ, .reg Reg.SHF_GROUP_STATUS.STATE, .reg Reg.SHF_LATE_HIST.BUCKET, .reg Reg.SHF_STAT.DONE, .reg Reg.SHF_STAT.FAILED, .reg Reg.SHF_STAT.PROTO_ERR, .reg Reg.SHF_STAT.STALE, .plotReg Reg.PLT_DOORBELL.PENDING, .memu, .lastRaise, .router] : List Part) ++ ([.sheaf, .health] : List Part)) (· = f) (fun _ => True) s (exec c s)) ∧
  (∀ (s : State) (f : FieldId) (pkt : Packet), ∀ c ∈ ([.gather f pkt, .receipt f pkt] : List Instr),
      Ends (([.events, .hbm, .hbmErr, .reg Reg.FLD_MESH_STAT.MCAST_SKIPPED, .reg Reg.GWY_STAT.ABSORBED, .reg Reg.INJ_PT.ARM, .reg Reg.INJ_PT.DONE, .reg Reg.MEM_ECC_STAT.CORRECTED, .reg Reg.MEM_ECC_STAT.LAST_ADDR, .reg Reg.MEM_ECC_STAT.POISON_WRITES, .reg Reg.MEM_ECC_STAT.UNCORRECTED, .reg Reg.MEM_REPAIR_ENTRY.BANK, .reg Reg.MEM_REPAIR_ENTRY.CHANNEL, .reg Reg.MEM_REPAIR_ENTRY.PCH, .reg Reg.MEM_REPAIR_ENTRY.REASON, .reg Reg.MEM_REPAIR_ENTRY.RESULT] : List Part) ++ ([.reg Reg.MEM_REPAIR_ENTRY.ROW, .reg Reg.MEM_REPAIR_ENTRY.STACK, .reg Reg.MEM_REPAIR_ENTRY.VALID, .reg Reg.RTE_DROP_CNT.FOREIGN, .reg Reg.RTE_DROP_CNT.MCAST_DROP, .reg Reg.SHF_GROUP_STATUS.DONE_SEQ, .reg Reg.SHF_LATE_HIST.BUCKET, .reg Reg.SHF_STAT.DONE, .reg Reg.SHF_STAT.FAILED, .reg Reg.SHF_STAT.PROTO_ERR, .reg Reg.SHF_STAT.STALE, .plotReg Reg.PLT_DOORBELL.PENDING, .memu, .lastRaise, .router, .sheaf] : List Part) ++ ([.health] : List Part)) (· = f) (fun _ => True) s (exec c s))

/-- Frame of the mirroring and health commands: for every state and every operand the command answers a next state;
before the records of the events it raised are written, only the named parts of the state have changed, parts of a field
only in the named field, parts of a plot only in the named plot, those listed as far anywhere; one that names no field
may change its parts in any; the queue is untouched and memories keep their canonical form. -/
def Obligations.MirrorFrame : Prop :=
  (∀ (s : State), Ends ([.events, .hubReg Reg.HLT_PKG.OUT, .hubReg Reg.HLT_PKG.SCORE, .reg Reg.HLT_PEN.ATTR, .reg Reg.HLT_PEN.PEN, .reg Reg.HLT_SCORE.EXPEL, .reg Reg.HLT_SCORE.INJECTED, .reg Reg.HLT_SCORE.RUN, .reg Reg.HLT_SCORE.SCORE, .reg Reg.HLT_SCORE.SELF_PEN, .reg Reg.HLT_SCORE.WINDOW, .sheaf, .health] : List Part) (fun _ => True) (fun _ => False) s (exec (.healthWindowClose) s)) ∧
  (∀ (s : State) (f : FieldId), Ends ([.events, .hubReg Reg.HLT_PKG.OUT, .hubReg Reg.HLT_PKG.SCORE, .reg Reg.HLT_SCORE.EXPEL, .reg Reg.HLT_SCORE.HARD, .reg Reg.HLT_SCORE.INJECTED, .reg Reg.HLT_SCORE.SCORE, .hard, .health] : List Part) (· = f) (fun _ => False) s (exec (.hardEvent f) s)) ∧
  (∀ (s : State) (f : FieldId), Ends ([.reg Reg.HLT_SCORE.EXPEL, .reg Reg.HLT_SCORE.HARD, .reg Reg.HLT_SCORE.RUN] : List Part) (· = f) (fun _ => False) s (exec (.expelClear f) s)) ∧
  (∀ (s : State) (f : FieldId) (granule : Nat), Ends (([.events, .hbmErr, .reg Reg.INJ_PT.ARM, .reg Reg.INJ_PT.DONE, .reg Reg.MEM_ECC_STAT.CORRECTED, .reg Reg.MEM_ECC_STAT.LAST_ADDR, .reg Reg.MEM_ECC_STAT.UNCORRECTED, .reg Reg.MEM_REPAIR_ENTRY.BANK, .reg Reg.MEM_REPAIR_ENTRY.CHANNEL, .reg Reg.MEM_REPAIR_ENTRY.PCH, .reg Reg.MEM_REPAIR_ENTRY.REASON, .reg Reg.MEM_REPAIR_ENTRY.RESULT, .reg Reg.MEM_REPAIR_ENTRY.ROW, .reg Reg.MEM_REPAIR_ENTRY.STACK, .reg Reg.MEM_REPAIR_ENTRY.VALID, .memu] : List Part) ++ ([.router, .gateway, .health] : List Part)) (· = f) (fun _ => False) s (exec (.granuleTake f granule) s)) ∧
  (∀ (s : State) (f : FieldId), Ends ([.reg Reg.INJ_PT.ARM, .reg Reg.INJ_PT.DONE, .reg Reg.RTE_VC_CTL.COMMIT_DUE, .router, .gateway, .mirror] : List Part) (· = f) (fun _ => False) s (exec (.mirMarkSend f) s)) ∧
  (∀ (s : State) (f : FieldId) (n : Fin 2), Ends (([.events, .hbmErr, .reg Reg.INJ_PT.ARM, .reg Reg.INJ_PT.DONE, .reg Reg.MEM_ECC_STAT.CORRECTED, .reg Reg.MEM_ECC_STAT.LAST_ADDR, .reg Reg.MEM_ECC_STAT.UNCORRECTED, .reg Reg.MEM_REPAIR_ENTRY.BANK, .reg Reg.MEM_REPAIR_ENTRY.CHANNEL, .reg Reg.MEM_REPAIR_ENTRY.PCH, .reg Reg.MEM_REPAIR_ENTRY.REASON, .reg Reg.MEM_REPAIR_ENTRY.RESULT, .reg Reg.MEM_REPAIR_ENTRY.ROW, .reg Reg.MEM_REPAIR_ENTRY.STACK, .reg Reg.MEM_REPAIR_ENTRY.VALID, .reg Reg.MIR_LOAD_STATUS.DIGEST] : List Part) ++ ([.reg Reg.MIR_LOAD_STATUS.GRANULES, .reg Reg.MIR_LOAD_STATUS.RESULT, .reg Reg.MIR_LOAD_STATUS.STATE, .reg Reg.MIR_LOAD_STATUS.USING_SRC1, .reg Reg.MIR_PART.ENABLE, .reg Reg.MIR_PART_STATUS.RESULT, .reg Reg.MIR_PART_STATUS.STATE, .reg Reg.MIR_SRC_STATUS.ACKED0, .reg Reg.MIR_SRC_STATUS.ACKED1, .reg Reg.MIR_SRC_STATUS.BREAKS, .reg Reg.MIR_SRC_STATUS.STATE, .memu, .router, .gateway, .health, .mirror] : List Part)) (· = f) (fun _ => False) s (exec (.mirPush f n) s)) ∧
  (∀ (s : State) (f : FieldId) (n : Fin 2), Ends ([.reg Reg.MIR_SRC_STATUS.STATE, .mirror] : List Part) (· = f) (fun _ => False) s (exec (.mirPartnerTimeout f n) s)) ∧
  (∀ (s : State) (f : FieldId) (n : Fin 2), Ends (([.events, .reg Reg.INJ_PT.ARM, .reg Reg.INJ_PT.DONE, .reg Reg.MIR_LOAD_STATUS.DIGEST, .reg Reg.MIR_LOAD_STATUS.GRANULES, .reg Reg.MIR_LOAD_STATUS.RESULT, .reg Reg.MIR_LOAD_STATUS.STATE, .reg Reg.MIR_LOAD_STATUS.USING_SRC1, .reg Reg.MIR_PART.ENABLE, .reg Reg.MIR_PART_STATUS.RESULT, .reg Reg.MIR_PART_STATUS.STATE, .reg Reg.MIR_SRC_STATUS.ACKED0, .reg Reg.MIR_SRC_STATUS.ACKED1, .reg Reg.MIR_SRC_STATUS.BREAKS, .reg Reg.MIR_SRC_STATUS.STATE, .memu] : List Part) ++ ([.router, .gateway, .mirror] : List Part)) (· = f) (fun _ => False) s (exec (.mirLayoutRetry f n) s)) ∧
  (∀ (s : State) (f : FieldId), Ends (([.events, .reg Reg.INJ_PT.ARM, .reg Reg.INJ_PT.DONE, .reg Reg.MIR_LOAD_STATUS.DIGEST, .reg Reg.MIR_LOAD_STATUS.EPOCH, .reg Reg.MIR_LOAD_STATUS.GRANULES, .reg Reg.MIR_LOAD_STATUS.RESULT, .reg Reg.MIR_LOAD_STATUS.STATE, .reg Reg.MIR_LOAD_STATUS.USING_SRC1, .reg Reg.MIR_PART.ENABLE, .reg Reg.MIR_PART_STATUS.RESULT, .reg Reg.MIR_PART_STATUS.STATE, .reg Reg.MIR_SRC_STATUS.ACKED0, .reg Reg.MIR_SRC_STATUS.ACKED1, .reg Reg.MIR_SRC_STATUS.BREAKS, .reg Reg.MIR_SRC_STATUS.STATE] : List Part) ++ ([.memu, .router, .gateway, .mirror] : List Part)) (· = f) (fun _ => False) s (exec (.mirLoadStart f) s)) ∧
  (∀ (s : State) (f : FieldId), Ends ([.events, .reg Reg.MIR_LOAD_STATUS.RESULT, .reg Reg.MIR_LOAD_STATUS.STATE] : List Part) (· = f) (fun _ => False) s (exec (.mirLoadAbort f) s)) ∧
  (∀ (s : State) (f : FieldId), Ends (([.events, .reg Reg.INJ_PT.ARM, .reg Reg.INJ_PT.DONE, .reg Reg.MIR_LOAD_STATUS.DIGEST, .reg Reg.MIR_LOAD_STATUS.GRANULES, .reg Reg.MIR_LOAD_STATUS.RESULT, .reg Reg.MIR_LOAD_STATUS.STATE, .reg Reg.MIR_LOAD_STATUS.USING_SRC1, .reg Reg.MIR_PART.ENABLE, .reg Reg.MIR_PART_STATUS.RESULT, .reg Reg.MIR_PART_STATUS.STATE, .reg Reg.MIR_SRC_STATUS.ACKED0, .reg Reg.MIR_SRC_STATUS.ACKED1, .reg Reg.MIR_SRC_STATUS.BREAKS, .reg Reg.MIR_SRC_STATUS.STATE, .memu] : List Part) ++ ([.router, .gateway, .mirror] : List Part)) (· = f) (fun _ => False) s (exec (.mirLoadTimeout f) s)) ∧
  (∀ (s : State) (f : FieldId) (pkt : Packet), ∀ c ∈ ([.mirMark f pkt, .mirLayout f pkt, .mirPull f pkt, .mirDone f pkt] : List Instr),
      Ends (([.free, .events, .hbm, .store, .hbmErr, .storeErr, .reg Reg.GWY_RED_STATUS.DEFERS, .reg Reg.GWY_STAT.ABSORBED, .reg Reg.GWY_STAT.DEFERS_SENT, .reg Reg.INJ_PT.ARM, .reg Reg.INJ_PT.DONE, .reg Reg.MEM_ECC_STAT.CORRECTED, .reg Reg.MEM_ECC_STAT.LAST_ADDR, .reg Reg.MEM_ECC_STAT.POISON_WRITES, .reg Reg.MEM_ECC_STAT.UNCORRECTED, .reg Reg.MEM_REPAIR_ENTRY.BANK] : List Part) ++ ([.reg Reg.MEM_REPAIR_ENTRY.CHANNEL, .reg Reg.MEM_REPAIR_ENTRY.PCH, .reg Reg.MEM_REPAIR_ENTRY.REASON, .reg Reg.MEM_REPAIR_ENTRY.RESULT, .reg Reg.MEM_REPAIR_ENTRY.ROW, .reg Reg.MEM_REPAIR_ENTRY.STACK, .reg Reg.MEM_REPAIR_ENTRY.VALID, .reg Reg.MIR_LOAD_STATUS.DIGEST, .reg Reg.MIR_LOAD_STATUS.GRANULES, .reg Reg.MIR_LOAD_STATUS.RESULT, .reg Reg.MIR_LOAD_STATUS.STATE, .reg Reg.MIR_LOAD_STATUS.USING_SRC1, .reg Reg.MIR_PART.ENABLE, .reg Reg.MIR_PART_STATUS.BUF_USED, .reg Reg.MIR_PART_STATUS.COMMITTED, .reg Reg.MIR_PART_STATUS.DIGEST] : List Part) ++ ([.reg Reg.MIR_PART_STATUS.RESULT, .reg Reg.MIR_PART_STATUS.STATE, .reg Reg.MIR_PART_STATUS.VALID, .reg Reg.MIR_SRC_STATUS.ACKED0, .reg Reg.MIR_SRC_STATUS.ACKED1, .reg Reg.MIR_SRC_STATUS.BREAKS, .reg Reg.MIR_SRC_STATUS.STATE, .reg Reg.RTE_DROP_CNT.FOREIGN, .reg Reg.RTE_DROP_CNT.MCAST_DROP, .plotReg Reg.PLT_STORE_ECC.CORRECTED, .plotReg Reg.PLT_STORE_ECC.LAST_ADDR, .plotReg Reg.PLT_STORE_ECC.UNCORRECTED, .memu, .lastRaise, .router, .gateway] : List Part) ++ ([.health, .mirror] : List Part)) (· = f) (fun _ => True) s (exec c s))

/-- Frame of the tally, calendar and mark commands: for every state and every operand the command answers a next state;
before the records of the events it raised are written, only the named parts of the state have changed, parts of a field
only in the named field, parts of a plot only in the named plot, those listed as far anywhere; one that names no field
may change its parts in any; the queue is untouched and memories keep their canonical form. Which bytes of HBM the
reports change: WritesStayInTheirLines. -/
def Obligations.TallyFrame : Prop :=
  (∀ (s : State) (f : FieldId) (link : Fin 18), Ends ([.ports, .router, .tally] : List Part) (· = f) (fun _ => False) s (exec (.tallyBeaconSend f link) s)) ∧
  (∀ (s : State) (f : FieldId) (link : Fin 18) (pkt : Packet), Ends (([.free, .events, .reg Reg.INJ_PT.ARM, .reg Reg.INJ_PT.DONE, .reg Reg.TLY_EPOCH.FRAC, .reg Reg.TLY_EPOCH.SEC, .reg Reg.TLY_EPOCH.VALID, .reg Reg.TLY_SERVO_STAT.DELAY, .reg Reg.TLY_SERVO_STAT.OFFSET, .reg Reg.TLY_SERVO_STAT.OUTLIERS, .reg Reg.TLY_SERVO_STAT.PARENT_CHANGES, .reg Reg.TLY_STATUS.DIST, .reg Reg.TLY_STATUS.HOLD, .reg Reg.TLY_STATUS.PARENT, .reg Reg.TLY_STATUS.PARENT_LINK, .reg Reg.TLY_STATUS.ROOT] : List Part) ++ ([.reg Reg.TLY_STATUS.ROOT_RANK, .reg Reg.TLY_STATUS.STATE, .router, .tally] : List Part)) (· = f) (fun _ => False) s (exec (.tallyBeacon f link pkt) s)) ∧
  (∀ (s : State), Ends ([.free, .tallyHub] : List Part) (fun _ => False) (fun _ => False) s (exec (.hubTallyBeacon) s)) ∧
  (∀ (s : State) (f : FieldId), Ends ([.reg Reg.TLY_STATUS.RESULT] : List Part) (· = f) (fun _ => False) s (exec (.tallyLockTimeout f) s)) ∧
  (∀ (s : State) (f : FieldId) (w : MarkWrite), Ends ([.reg Reg.TLY_MARK_CTL.ARMED, .reg Reg.TLY_MARK_CTL.PERIOD, .reg Reg.TLY_MARK_NEXT.NEXT, .reg Reg.TLY_MARK_STAT.RESULT] : List Part) (· = f) (fun _ => False) s (exec (.markArm f w) s)) ∧
  (∀ (s : State) (f : FieldId), Ends (([.free, .events, .hubReg Reg.PWR_MODE_STATUS.CHANGING, .hubReg Reg.PWR_MODE_STATUS.MODE, .hubReg Reg.PWR_MODE_STATUS.PENDING, .hubReg Reg.PWR_MODE_STATUS.POINT_0, .hubReg Reg.PWR_MODE_STATUS.POINT_1, .hubReg Reg.PWR_MODE_STATUS.POINT_2, .hubReg Reg.PWR_MODE_STATUS.POINT_3, .hubReg Reg.PWR_MODE_STATUS.VSEL, .hubReg Reg.PWR_RAMP_STAT.GOVERNED, .hubReg Reg.PWR_RAMP_STAT.LIMIT, .hubReg Reg.PWR_RAMP_STAT.RATE_MAX, .hubReg Reg.PWR_RAMP_STAT.RELEASED, .light, .tallyHub] : List Part) ++ ([.power, .reg Reg.FLD_SR_STEP.STEP, .reg Reg.FLD_WITNESS_CTL.ACTIVE, .reg Reg.FLD_WITNESS_CTL.POISON_ACTIVE, .reg Reg.GWY_STAT.FLUSHES, .reg Reg.INJ_PT.ARM, .reg Reg.INJ_PT.DONE, .reg Reg.MEM_MIR_STATUS.LATE, .reg Reg.MIR_PART_STATUS.BUF_USED, .reg Reg.MIR_PART_STATUS.DIGEST, .reg Reg.MIR_PART_STATUS.RESULT, .reg Reg.MIR_PART_STATUS.STATE, .reg Reg.MIR_PART_STATUS.VALID, .reg Reg.MIR_SRC_STATUS.EPOCH, .reg Reg.MIR_SRC_STATUS.RESULT, .reg Reg.MIR_SRC_STATUS.SKIPPED] : List Part) ++ ([.reg Reg.MIR_SRC_STATUS.STATE, .reg Reg.RTE_TABLE_STATUS.GEN, .reg Reg.RTE_TABLE_STATUS.PENDING, .reg Reg.RTE_VC_CTL.COMMIT_DUE, .reg Reg.TLY_MARK_CTL.ARMED, .reg Reg.TLY_MARK_NEXT.NEXT, .reg Reg.TLY_MARK_STAT.DONE, .reg Reg.TLY_MARK_STAT.LAST, .reg Reg.TLY_MARK_STAT.MISSED, .samples, .memu, .drift, .router, .gateway, .sheaf, .health] : List Part) ++ ([.mirror, .tally, .held, .far (.reg Reg.THM_FIELD_STATUS.POINT)] : List Part)) (· = f) (fun _ => True) s (exec (.boundaryMark f) s)) ∧
  (∀ (s : State) (f : FieldId), Ends (([.free, .events, .hubReg Reg.PWR_MODE_STATUS.CHANGING, .hubReg Reg.PWR_MODE_STATUS.MODE, .hubReg Reg.PWR_MODE_STATUS.PENDING, .hubReg Reg.PWR_MODE_STATUS.POINT_0, .hubReg Reg.PWR_MODE_STATUS.POINT_1, .hubReg Reg.PWR_MODE_STATUS.POINT_2, .hubReg Reg.PWR_MODE_STATUS.POINT_3, .hubReg Reg.PWR_MODE_STATUS.VSEL, .hubReg Reg.PWR_RAMP_STAT.GOVERNED, .hubReg Reg.PWR_RAMP_STAT.LIMIT, .hubReg Reg.PWR_RAMP_STAT.RATE_MAX, .hubReg Reg.PWR_RAMP_STAT.RELEASED, .light, .power] : List Part) ++ ([.reg Reg.FLD_SR_STEP.STEP, .reg Reg.FLD_WITNESS_CTL.ACTIVE, .reg Reg.FLD_WITNESS_CTL.POISON_ACTIVE, .reg Reg.GWY_STAT.FLUSHES, .reg Reg.INJ_PT.ARM, .reg Reg.INJ_PT.DONE, .reg Reg.MEM_MIR_STATUS.LATE, .reg Reg.MIR_PART_STATUS.BUF_USED, .reg Reg.MIR_PART_STATUS.DIGEST, .reg Reg.MIR_PART_STATUS.RESULT, .reg Reg.MIR_PART_STATUS.STATE, .reg Reg.MIR_PART_STATUS.VALID, .reg Reg.MIR_SRC_STATUS.EPOCH, .reg Reg.MIR_SRC_STATUS.RESULT, .reg Reg.MIR_SRC_STATUS.SKIPPED, .reg Reg.MIR_SRC_STATUS.STATE] : List Part) ++ ([.reg Reg.RTE_TABLE_STATUS.GEN, .reg Reg.RTE_TABLE_STATUS.PENDING, .reg Reg.RTE_VC_CTL.COMMIT_DUE, .reg Reg.TLY_MARK_STAT.DONE, .reg Reg.TLY_MARK_STAT.LAST, .samples, .memu, .drift, .router, .gateway, .sheaf, .health, .mirror, .tally, .held, .far (.reg Reg.THM_FIELD_STATUS.POINT)] : List Part)) (· = f) (fun _ => True) s (exec (.houseMark f) s)) ∧
  (∀ (s : State) (f : FieldId), Ends (([.events, .hbm, .hbmErr, .reg Reg.FLD_DRIFT_STATUS.SEQ, .reg Reg.GWY_STAT.ABSORBED, .reg Reg.INJ_PT.ARM, .reg Reg.INJ_PT.DONE, .reg Reg.MEM_ECC_STAT.CORRECTED, .reg Reg.MEM_ECC_STAT.LAST_ADDR, .reg Reg.MEM_ECC_STAT.POISON_WRITES, .reg Reg.MEM_ECC_STAT.UNCORRECTED, .reg Reg.MEM_REPAIR_ENTRY.BANK, .reg Reg.MEM_REPAIR_ENTRY.CHANNEL, .reg Reg.MEM_REPAIR_ENTRY.PCH, .reg Reg.MEM_REPAIR_ENTRY.REASON, .reg Reg.MEM_REPAIR_ENTRY.RESULT] : List Part) ++ ([.reg Reg.MEM_REPAIR_ENTRY.ROW, .reg Reg.MEM_REPAIR_ENTRY.STACK, .reg Reg.MEM_REPAIR_ENTRY.VALID, .memu, .drift, .health, .tally] : List Part)) (· = f) (fun _ => False) s (exec (.driftReportWrite f) s)) ∧
  (∀ (s : State) (f : FieldId), Ends (([.events, .hbm, .hbmErr, .reg Reg.GWY_STAT.ABSORBED, .reg Reg.INJ_PT.ARM, .reg Reg.INJ_PT.DONE, .reg Reg.MEM_ECC_STAT.CORRECTED, .reg Reg.MEM_ECC_STAT.LAST_ADDR, .reg Reg.MEM_ECC_STAT.POISON_WRITES, .reg Reg.MEM_ECC_STAT.UNCORRECTED, .reg Reg.MEM_REPAIR_ENTRY.BANK, .reg Reg.MEM_REPAIR_ENTRY.CHANNEL, .reg Reg.MEM_REPAIR_ENTRY.PCH, .reg Reg.MEM_REPAIR_ENTRY.REASON, .reg Reg.MEM_REPAIR_ENTRY.RESULT, .reg Reg.MEM_REPAIR_ENTRY.ROW] : List Part) ++ ([.reg Reg.MEM_REPAIR_ENTRY.STACK, .reg Reg.MEM_REPAIR_ENTRY.VALID, .reg Reg.SHF_LATE_HIST.BUCKET, .memu, .sheaf, .health, .tally] : List Part)) (· = f) (fun _ => False) s (exec (.stepTimingReportWrite f) s)) ∧
  (∀ (s : State) (f : FieldId), Ends (([.events, .hbm, .hbmErr, .reg Reg.GWY_STAT.ABSORBED, .reg Reg.INJ_PT.ARM, .reg Reg.INJ_PT.DONE, .reg Reg.MEM_ECC_STAT.CORRECTED, .reg Reg.MEM_ECC_STAT.LAST_ADDR, .reg Reg.MEM_ECC_STAT.POISON_WRITES, .reg Reg.MEM_ECC_STAT.UNCORRECTED, .reg Reg.MEM_REPAIR_ENTRY.BANK, .reg Reg.MEM_REPAIR_ENTRY.CHANNEL, .reg Reg.MEM_REPAIR_ENTRY.PCH, .reg Reg.MEM_REPAIR_ENTRY.REASON, .reg Reg.MEM_REPAIR_ENTRY.RESULT, .reg Reg.MEM_REPAIR_ENTRY.ROW] : List Part) ++ ([.reg Reg.MEM_REPAIR_ENTRY.STACK, .reg Reg.MEM_REPAIR_ENTRY.VALID, .memu, .gateway, .health, .tally] : List Part)) (· = f) (fun _ => False) s (exec (.redEntryRelease f) s)) ∧
  (∀ (s : State) (f : FieldId), Ends ([.events, .reg Reg.TLY_MARK_STAT.DONE, .reg Reg.TLY_MARK_STAT.DONE_NS, .tally] : List Part) (· = f) (fun _ => False) s (exec (.markDone f) s)) ∧
  (∀ (s : State), Ends ([.out, .tallyHub] : List Part) (fun _ => False) (fun _ => False) s (exec (.tallyMarkPulse) s)) ∧
  (∀ (s : State) (temp : Option Int), Ends ([.hubReg Reg.CAL_STATUS.TEMP, .hubReg Reg.CAL_TIME.FRAC, .hubReg Reg.CAL_TIME.SEC, .calendar] : List Part) (fun _ => False) (fun _ => False) s (exec (.calendarComp temp) s)) ∧
  (∀ (s : State), Ends ([.hubReg Reg.CAL_SET.APPLY, .hubReg Reg.CAL_TIME.FRAC, .hubReg Reg.CAL_TIME.SEC, .hubReg Reg.CAL_TIME.VALID] : List Part) (fun _ => False) (fun _ => False) s (exec (.calApply) s)) ∧
  (∀ (s : State), Ends ([.events, .hubReg Reg.CAL_STATUS.VBAT_LOW] : List Part) (fun _ => False) (fun _ => False) s (exec (.vbatLow) s)) ∧
  (∀ (s : State) (f : FieldId), ∀ c ∈ ([.rootLost f, .parentLoss f] : List Instr),
      Ends ([.free, .events, .reg Reg.TLY_SERVO_STAT.PARENT_CHANGES, .reg Reg.TLY_STATUS.DIST, .reg Reg.TLY_STATUS.HOLD, .reg Reg.TLY_STATUS.PARENT, .reg Reg.TLY_STATUS.PARENT_LINK, .reg Reg.TLY_STATUS.ROOT, .reg Reg.TLY_STATUS.ROOT_RANK, .reg Reg.TLY_STATUS.STATE, .tally] : List Part) (· = f) (fun _ => False) s (exec c s)) ∧
  (∀ (s : State) (f : FieldId), ∀ c ∈ ([.rootInitial f, .rootTakeover f] : List Instr),
      Ends ([.events, .reg Reg.TLY_EPOCH.FRAC, .reg Reg.TLY_EPOCH.SEC, .reg Reg.TLY_EPOCH.VALID, .reg Reg.TLY_STATUS.DIST, .reg Reg.TLY_STATUS.HOLD, .reg Reg.TLY_STATUS.PARENT, .reg Reg.TLY_STATUS.PARENT_LINK, .reg Reg.TLY_STATUS.ROOT, .reg Reg.TLY_STATUS.ROOT_RANK, .reg Reg.TLY_STATUS.STATE, .tally] : List Part) (· = f) (fun _ => False) s (exec c s))

/-- Frame of the bring-up, firmware and reset commands: for every state and every operand the command answers a next
state; before the records of the events it raised are written, only the named parts of the state have changed, parts of
a field only in the named field, parts of a plot only in the named plot, those listed as far anywhere; one that names no
field may change its parts in any; the queue is untouched and memories keep their canonical form. With nothing asked of
the sequencer and no REG_WRITE entry of the stage (R564), STAGE_GO, STAGE_SKIP, STAGE_END, STAGE_FABRIC and the two
timeouts change only the sequencer's registers, and STAGE_FABRIC what the plan and the seal write. COLD_RESET: all but
the parts named is as State.reset has it. WARM_RESET: hub SRAM, HBM, the calendar and every register with no Warm value
are as before but for those named, and all but the second list's parts is as State.reset has it, with the plot stores
and bins at zero (R580). -/
def Obligations.BringUpFrame : Prop :=
  (∀ (s : State) (f : FieldId) (isRow : Bool) (index : Fin 16) (mask : Nat) (load : McastLoad), Ends (([.events, .store, .hbmErr, .storeErr, .reg Reg.FLD_MESH_STAT.MCAST_SKIPPED, .reg Reg.INJ_PT.ARM, .reg Reg.INJ_PT.DONE, .reg Reg.MEM_ECC_STAT.CORRECTED, .reg Reg.MEM_ECC_STAT.LAST_ADDR, .reg Reg.MEM_ECC_STAT.UNCORRECTED, .reg Reg.MEM_REPAIR_ENTRY.BANK, .reg Reg.MEM_REPAIR_ENTRY.CHANNEL, .reg Reg.MEM_REPAIR_ENTRY.PCH, .reg Reg.MEM_REPAIR_ENTRY.REASON, .reg Reg.MEM_REPAIR_ENTRY.RESULT, .reg Reg.MEM_REPAIR_ENTRY.ROW] : List Part) ++ ([.reg Reg.MEM_REPAIR_ENTRY.STACK, .reg Reg.MEM_REPAIR_ENTRY.VALID, .boot, .plotReg Reg.PLT_DOORBELL.PENDING, .plotReg Reg.PLT_STORE_ECC.CORRECTED, .plotReg Reg.PLT_STORE_ECC.LAST_ADDR, .plotReg Reg.PLT_STORE_ECC.UNCORRECTED, .memu, .health] : List Part)) (· = f) (fun _ => True) s (exec (.meshMulticast f isRow index mask load) s)) ∧
  (∀ (s : State) (env : LightEnv), Ends (([.events, .out, .hubReg Reg.HDL_HOST_ENGINE.DARK, .hubReg Reg.HDL_HOST_ENGINE.INLET_A_OK, .hubReg Reg.HDL_HOST_ENGINE.INLET_B_OK, .hubReg Reg.HDL_HOST_ENGINE.SRC, .hubReg Reg.HDL_HOST_ENGINE.SWITCHING, .hubReg Reg.HDL_LIGHT_CTL.RELIGHT, .hubReg Reg.HDL_LIGHT_STATUS.RESULT, .hubReg Reg.HDL_LIGHT_STATUS.STATE, .hubReg Reg.HDL_MODULE.FAULT, .hubReg Reg.HDL_MODULE.OUTPUT_ON, .hubReg Reg.HDL_MODULE.PRESENT, .hubReg Reg.HDL_MODULE.PROBE_FAIL, .hubReg Reg.HUB_HOST_PHY_STATUS.STATE, .hubReg Reg.HUB_HOST_PHY_STATUS.WIDTH] : List Part) ++ ([.hubReg Reg.PWR_RAIL_STATUS.PGOOD_OPT, .hubReg Reg.PWR_RAIL_STATUS.PWREN_OPT, .light, .hostTx, .host, .power, .reg Reg.HDL_ENGINE_STATUS.DARK, .reg Reg.HDL_ENGINE_STATUS.INLET_A_OK, .reg Reg.HDL_ENGINE_STATUS.INLET_B_OK, .reg Reg.HDL_ENGINE_STATUS.SRC, .reg Reg.HDL_ENGINE_STATUS.SWITCHING, .reg Reg.HDL_PORT_STATUS.APR, .reg Reg.INJ_PT.ARM, .reg Reg.INJ_PT.DONE, .reg Reg.RTE_COMB_STAT.MERGED, .reg Reg.RTE_COMB_STAT.PEAK] : List Part) ++ ([.reg Reg.RTE_LINK_CNT.LOST, .reg Reg.RTE_LINK_CNT.NAKS, .reg Reg.RTE_LINK_CNT.REPLAYED, .reg Reg.RTE_LINK_CNT.TX_FLITS, .reg Reg.RTE_LINK_CREDIT.RES, .reg Reg.RTE_LINK_CREDIT.SHARED, .reg Reg.RTE_LINK_STATUS.PRESERVED, .reg Reg.RTE_LINK_STATUS.RESULT, .reg Reg.RTE_LINK_STATUS.STATE, .ports, .router, .tally] : List Part)) (fun _ => True) (fun _ => False) s (exec (.relight env) s)) ∧
  (∀ (s : State) (powerOn : Bool) (straps : Fin 16) (vbat : Vbat), Ends allParts (fun _ => True) (fun _ => True) s (exec (.coldReset powerOn straps vbat) s)) ∧
  (∀ (s : State) (i3c : Bool), Ends allParts (fun _ => True) (fun _ => True) s (exec (.warmReset i3c) s)) ∧
  (∀ (s : State) (f : FieldId), Ends (([.events, .hubReg Reg.HUB_FIELD_STATE.STATE, .hubReg Reg.HUB_RESET_STATUS.PART_REFUSED, .hubReg Reg.MBX_HUB_IN_META.FULL, .hubReg Reg.MBX_HUB_OUT_ACK.CODE, .hubReg Reg.MBX_HUB_OUT_ACK.DONE, .hubReg Reg.MBX_HUB_OUT_META.PENDING, .hubSlots, .hbm, .store, .bin, .hbmErr, .storeErr, .binErr, .reg Reg.FLD_MESH_STAT.MCAST_SKIPPED, .reg Reg.GWY_STAT.ABSORBED] : List Part) ++ ([.reg Reg.INJ_PT.ARM, .reg Reg.INJ_PT.DONE, .reg Reg.MEM_ECC_STAT.CORRECTED, .reg Reg.MEM_ECC_STAT.LAST_ADDR, .reg Reg.MEM_ECC_STAT.POISON_WRITES, .reg Reg.MEM_ECC_STAT.UNCORRECTED, .reg Reg.MEM_REPAIR_ENTRY.BANK, .reg Reg.MEM_REPAIR_ENTRY.CHANNEL, .reg Reg.MEM_REPAIR_ENTRY.PCH, .reg Reg.MEM_REPAIR_ENTRY.REASON, .reg Reg.MEM_REPAIR_ENTRY.RESULT, .reg Reg.MEM_REPAIR_ENTRY.ROW, .reg Reg.MEM_REPAIR_ENTRY.STACK, .reg Reg.MEM_REPAIR_ENTRY.VALID, .reg Reg.SHF_GROUP_STATUS.DONE_SEQ, .reg Reg.SHF_GROUP_STATUS.STATE] : List Part) ++ ([.reg Reg.SHF_LATE_HIST.BUCKET, .reg Reg.SHF_STAT.DONE, .reg Reg.SHF_STAT.FAILED, .drill, .dr, .queue, .cq, .tine, .samples, .scrub, .notify, .xlines, .boot, .slot, .anyPlotReg, .memu] : List Part) ++ ([.hard, .router, .gateway, .sheaf, .health, .thermal, .far (.reg Reg.MBX_RIM_IN_META.FULL), .far (.reg Reg.MBX_RIM_OUT_ACK.CODE), .far (.reg Reg.MBX_RIM_OUT_ACK.DONE), .far (.reg Reg.MBX_RIM_OUT_META.PENDING), .far .slot, .far (.plotReg Reg.MBX_PLOT_IN_META.FULL), .far (.plotReg Reg.MBX_PLOT_OUT_ACK.CODE), .far (.plotReg Reg.MBX_PLOT_OUT_ACK.DONE), .far (.plotReg Reg.MBX_PLOT_OUT_META.PENDING), .far .rimSlots] : List Part)) (· = f) (fun _ => True) s (exec (.partitionReset f) s)) ∧
  (∀ (s : State) (f : FieldId) (march : Nat), Ends (([.events, .hubReg Reg.HUB_FIELD_STATE.FALLOW, .hubReg Reg.HUB_FIELD_STATE.STATE, .store, .bin, .hbmErr, .storeErr, .binErr, .reg Reg.FLD_BOOT_STATUS.FETCHED, .reg Reg.FLD_BOOT_STATUS.FW_FALLOW, .reg Reg.FLD_BOOT_STATUS.REPAIRS, .reg Reg.FLD_BOOT_STATUS.SOWN, .reg Reg.FLD_FALLOW_RUN.RUN, .reg Reg.INJ_ARITH.ARM, .reg Reg.INJ_ARITH.DONE, .reg Reg.INJ_ARITH.NOFIRE] : List Part) ++ ([.reg Reg.INJ_PT.ARM, .reg Reg.INJ_PT.DONE, .reg Reg.MEM_ECC_STAT.CORRECTED, .reg Reg.MEM_ECC_STAT.LAST_ADDR, .reg Reg.MEM_ECC_STAT.UNCORRECTED, .reg Reg.MEM_REPAIR_ENTRY.BANK, .reg Reg.MEM_REPAIR_ENTRY.CHANNEL, .reg Reg.MEM_REPAIR_ENTRY.PCH, .reg Reg.MEM_REPAIR_ENTRY.REASON, .reg Reg.MEM_REPAIR_ENTRY.RESULT, .reg Reg.MEM_REPAIR_ENTRY.ROW, .reg Reg.MEM_REPAIR_ENTRY.STACK, .reg Reg.MEM_REPAIR_ENTRY.VALID, .drill, .boot, .plotReg Reg.PLT_BOOT.FAIL_BLOCK] : List Part) ++ ([.plotReg Reg.PLT_BOOT.IMAGE, .plotReg Reg.PLT_BOOT.NONE, .plotReg Reg.PLT_BOOT.REPAIRS, .plotReg Reg.PLT_BOOT.SOW, .plotReg Reg.PLT_BOOT.STATUS, .plotReg Reg.PLT_STORE_ECC.CORRECTED, .plotReg Reg.PLT_STORE_ECC.LAST_ADDR, .plotReg Reg.PLT_STORE_ECC.UNCORRECTED, .memu, .hard, .health] : List Part)) (· = f) (fun _ => True) s (exec (.partitionResetDone f march) s)) ∧
  (∀ (s : State) (env : LightEnv), Ends (([.events, .out, .hubReg Reg.HDL_HOST_ENGINE.DARK, .hubReg Reg.HDL_HOST_ENGINE.INLET_A_OK, .hubReg Reg.HDL_HOST_ENGINE.INLET_B_OK, .hubReg Reg.HDL_HOST_ENGINE.SRC, .hubReg Reg.HDL_HOST_ENGINE.SWITCHING, .hubReg Reg.HDL_LIGHT_STATUS.RESULT, .hubReg Reg.HDL_MODULE.OUTPUT_ON, .hubReg Reg.HDL_MODULE.PRESENT, .hubReg Reg.HDL_MODULE.PROBE_FAIL, .hubReg Reg.HUB_HOST_PHY_STATUS.STATE, .hubReg Reg.HUB_HOST_PHY_STATUS.WIDTH, .hubReg Reg.HUB_INJ_STATUS.FUSE, .hubReg Reg.PWR_RAIL_STATUS.PGOOD_OPT, .hubReg Reg.PWR_RAIL_STATUS.PWREN_OPT] : List Part) ++ ([.light, .hostTx, .seed, .host, .power, .reg Reg.HDL_ENGINE_STATUS.DARK, .reg Reg.HDL_ENGINE_STATUS.INLET_A_OK, .reg Reg.HDL_ENGINE_STATUS.INLET_B_OK, .reg Reg.HDL_ENGINE_STATUS.SRC, .reg Reg.HDL_ENGINE_STATUS.SWITCHING, .reg Reg.HDL_PORT_STATUS.APR, .reg Reg.INJ_PT.ARM, .reg Reg.INJ_PT.DONE, .reg Reg.RTE_COMB_STAT.MERGED, .reg Reg.RTE_COMB_STAT.PEAK, .reg Reg.RTE_LINK_CNT.LOST] : List Part) ++ ([.reg Reg.RTE_LINK_CNT.NAKS, .reg Reg.RTE_LINK_CNT.REPLAYED, .reg Reg.RTE_LINK_CNT.TX_FLITS, .reg Reg.RTE_LINK_CREDIT.RES, .reg Reg.RTE_LINK_CREDIT.SHARED, .reg Reg.RTE_LINK_STATUS.PRESERVED, .reg Reg.RTE_LINK_STATUS.RESULT, .reg Reg.RTE_LINK_STATUS.STATE, .memu, .ports, .router, .tally] : List Part)) (fun _ => True) (fun _ => False) s (exec (.stagePower env) s)) ∧
  (∀ (s : State) (env : LightEnv) (flash : Option Flash), Ends (([.events, .out, .hubReg Reg.CAL_COMP.C0, .hubReg Reg.CAL_COMP.C1, .hubReg Reg.CAL_COMP.C2, .hubReg Reg.CAL_COMP.ENABLE, .hubReg Reg.CAL_COMP.T0, .hubReg Reg.HDL_HOST_ENGINE.DARK, .hubReg Reg.HDL_HOST_ENGINE.INLET_A_OK, .hubReg Reg.HDL_HOST_ENGINE.INLET_B_OK, .hubReg Reg.HDL_HOST_ENGINE.SRC, .hubReg Reg.HDL_HOST_ENGINE.SWITCHING, .hubReg Reg.HDL_LIGHT_STATUS.RESULT, .hubReg Reg.HDL_MODULE.OUTPUT_ON, .hubReg Reg.HDL_MODULE.PRESENT, .hubReg Reg.HDL_MODULE.PROBE_FAIL] : List Part) ++ ([.hubReg Reg.HUB_HOST_PHY_STATUS.STATE, .hubReg Reg.HUB_HOST_PHY_STATUS.WIDTH, .hubReg Reg.HUB_INJ_STATUS.PROVING, .hubReg Reg.PWR_RAIL_STATUS.PGOOD_OPT, .hubReg Reg.PWR_RAIL_STATUS.PWREN_OPT, .hubReg Reg.SEED_CTL.HOST_IMAGE, .hubReg Reg.SEED_DIGEST.D, .hubReg Reg.SEED_IMAGE_STATUS.BUILD, .hubReg Reg.SEED_IMAGE_STATUS.LENGTH, .hubReg Reg.SEED_IMAGE_STATUS.RESULT_A, .hubReg Reg.SEED_IMAGE_STATUS.RESULT_B, .hubReg Reg.SEED_IMAGE_STATUS.RESULT_HOST, .hubReg Reg.SEED_IMAGE_STATUS.SLOT, .hubReg Reg.SEED_IMAGE_STATUS.SVN, .hubReg Reg.SEED_IMAGE_STATUS.UNPROVISIONED, .hubReg Reg.SEED_MEASURE.M] : List Part) ++ ([.hubReg Reg.SEED_STAGE.AUTO, .hubReg Reg.SEED_STAGE.FAST_PATH, .hubReg Reg.SEED_STAGE.PHASE, .hubReg Reg.SEED_STAGE.RESULT, .light, .hostTx, .seed, .host, .power, .reg Reg.HDL_ENGINE_STATUS.DARK, .reg Reg.HDL_ENGINE_STATUS.INLET_A_OK, .reg Reg.HDL_ENGINE_STATUS.INLET_B_OK, .reg Reg.HDL_ENGINE_STATUS.SRC, .reg Reg.HDL_ENGINE_STATUS.SWITCHING, .reg Reg.HDL_PORT_STATUS.APR, .reg Reg.INJ_PT.ARM] : List Part) ++ ([.reg Reg.INJ_PT.DONE, .reg Reg.RTE_COMB_STAT.MERGED, .reg Reg.RTE_COMB_STAT.PEAK, .reg Reg.RTE_LINK_CNT.LOST, .reg Reg.RTE_LINK_CNT.NAKS, .reg Reg.RTE_LINK_CNT.REPLAYED, .reg Reg.RTE_LINK_CNT.TX_FLITS, .reg Reg.RTE_LINK_CREDIT.RES, .reg Reg.RTE_LINK_CREDIT.SHARED, .reg Reg.RTE_LINK_STATUS.PRESERVED, .reg Reg.RTE_LINK_STATUS.RESULT, .reg Reg.RTE_LINK_STATUS.STATE, .ports, .router, .tally] : List Part)) (fun _ => True) (fun _ => False) s (exec (.stageSeed env flash) s)) ∧
  (∀ (s : State) (pgood : Fin 16) (rimOk : Fin 16) (modules : List Nat), Ends (([.events, .out, .hubReg Reg.HUB_D2D_STATUS.MODULES, .hubReg Reg.HUB_D2D_STATUS.UP, .hubReg Reg.HUB_FIELD_STATE.HBM0_OK, .hubReg Reg.HUB_FIELD_STATE.HBM1_OK, .hubReg Reg.HUB_FIELD_STATE.STATE, .hubReg Reg.HUB_PKG_COORD.U, .hubReg Reg.HUB_PKG_COORD.V, .hubReg Reg.HUB_PKG_COORD.VALID, .hubReg Reg.HUB_PKG_COORD.W, .hubReg Reg.MBX_HUB_IN_META.FULL, .hubReg Reg.MBX_HUB_OUT_ACK.CODE, .hubReg Reg.MBX_HUB_OUT_ACK.DONE, .hubReg Reg.MBX_HUB_OUT_META.PENDING, .hubReg Reg.PWR_RAIL_STATUS.PGOOD] : List Part) ++ ([.hubReg Reg.PWR_RAIL_STATUS.PWREN, .seed, .hubSlots, .power, .store, .bin, .storeErr, .binErr, .reg Reg.INJ_PT.ARM, .reg Reg.INJ_PT.DONE, .reg Reg.MBX_RIM_IN_META.FULL, .reg Reg.MBX_RIM_OUT_ACK.CODE, .reg Reg.MBX_RIM_OUT_ACK.DONE, .reg Reg.MBX_RIM_OUT_META.PENDING, .reg Reg.RTE_COMB_STAT.MERGED, .reg Reg.RTE_COMB_STAT.PEAK] : List Part) ++ ([.reg Reg.RTE_LINK_CNT.LOST, .reg Reg.RTE_LINK_CNT.NAKS, .reg Reg.RTE_LINK_CNT.REPLAYED, .reg Reg.RTE_LINK_CNT.TX_FLITS, .reg Reg.RTE_LINK_CREDIT.RES, .reg Reg.RTE_LINK_CREDIT.SHARED, .reg Reg.RTE_LINK_STATUS.PRESERVED, .reg Reg.RTE_LINK_STATUS.RESULT, .reg Reg.RTE_LINK_STATUS.STATE, .drill, .dr, .queue, .cq, .tine, .samples, .scrub] : List Part) ++ ([.notify, .xlines, .boot, .slot, .anyPlotReg, .hard, .ports, .router, .gateway, .tally, .hubLost, .rimSlots] : List Part)) (fun _ => True) (fun _ => True) s (exec (.stageFieldPower pgood rimOk modules) s)) ∧
  (∀ (s : State) (trained : Fin 256) (march : List Nat) (carry : Option Flash) (repairs : List Nat), Ends (([.events, .hubReg Reg.HUB_FIELD_STATE.FALLOW, .hubReg Reg.HUB_FIELD_STATE.HBM0_OK, .hubReg Reg.HUB_FIELD_STATE.HBM1_OK, .hubReg Reg.HUB_FIELD_STATE.STATE, .hubReg Reg.SEED_IMAGE_STATUS.CARRY_APPLIED, .seed, .hbm, .hbmErr, .reg Reg.FLD_FALLOW_RUN.RUN, .reg Reg.MEM_REPAIR_ENTRY.BANK, .reg Reg.MEM_REPAIR_ENTRY.CHANNEL, .reg Reg.MEM_REPAIR_ENTRY.PCH, .reg Reg.MEM_REPAIR_ENTRY.REASON, .reg Reg.MEM_REPAIR_ENTRY.RESULT, .reg Reg.MEM_REPAIR_ENTRY.ROW] : List Part) ++ ([.reg Reg.MEM_REPAIR_ENTRY.STACK, .reg Reg.MEM_REPAIR_ENTRY.VALID, .memu, .hard] : List Part)) (fun _ => True) (fun _ => False) s (exec (.stageMemory trained march carry repairs) s)) ∧
  (∀ (s : State) (env : LightEnv), Ends (([.events, .out, .hubReg Reg.HDL_HOST_ENGINE.DARK, .hubReg Reg.HDL_HOST_ENGINE.INLET_A_OK, .hubReg Reg.HDL_HOST_ENGINE.INLET_B_OK, .hubReg Reg.HDL_HOST_ENGINE.SRC, .hubReg Reg.HDL_HOST_ENGINE.SWITCHING, .hubReg Reg.HDL_LIGHT_STATUS.RESULT, .hubReg Reg.HDL_LIGHT_STATUS.STATE, .hubReg Reg.HDL_MODULE.FAULT, .hubReg Reg.HDL_MODULE.OUTPUT_ON, .hubReg Reg.HDL_MODULE.PRESENT, .hubReg Reg.HDL_MODULE.PROBE_FAIL, .hubReg Reg.HUB_HOST_PHY_STATUS.STATE, .hubReg Reg.HUB_HOST_PHY_STATUS.WIDTH, .hubReg Reg.PWR_RAIL_STATUS.PGOOD_OPT] : List Part) ++ ([.hubReg Reg.PWR_RAIL_STATUS.PWREN_OPT, .light, .hostTx, .seed, .host, .reg Reg.HDL_ENGINE_STATUS.DARK, .reg Reg.HDL_ENGINE_STATUS.INLET_A_OK, .reg Reg.HDL_ENGINE_STATUS.INLET_B_OK, .reg Reg.HDL_ENGINE_STATUS.SRC, .reg Reg.HDL_ENGINE_STATUS.SWITCHING, .reg Reg.HDL_PORT_STATUS.APR, .reg Reg.INJ_PT.ARM, .reg Reg.INJ_PT.DONE, .reg Reg.RTE_COMB_STAT.MERGED, .reg Reg.RTE_COMB_STAT.PEAK, .reg Reg.RTE_LINK_CNT.LOST] : List Part) ++ ([.reg Reg.RTE_LINK_CNT.NAKS, .reg Reg.RTE_LINK_CNT.REPLAYED, .reg Reg.RTE_LINK_CNT.TX_FLITS, .reg Reg.RTE_LINK_CREDIT.RES, .reg Reg.RTE_LINK_CREDIT.SHARED, .reg Reg.RTE_LINK_STATUS.PRESERVED, .reg Reg.RTE_LINK_STATUS.RESULT, .reg Reg.RTE_LINK_STATUS.STATE, .ports, .router, .tally] : List Part)) (fun _ => True) (fun _ => False) s (exec (.stageLight env) s)) ∧
  (∀ (s : State), Ends (([.events, .out, .links, .seed, .reg Reg.INJ_PT.ARM, .reg Reg.INJ_PT.DONE, .reg Reg.RTE_COMB_STAT.MERGED, .reg Reg.RTE_COMB_STAT.PEAK, .reg Reg.RTE_LINK_CNT.NAKS, .reg Reg.RTE_LINK_CNT.REPLAYED, .reg Reg.RTE_LINK_CNT.TX_FLITS, .reg Reg.RTE_LINK_CREDIT.RES, .reg Reg.RTE_LINK_CREDIT.SHARED, .reg Reg.RTE_LINK_STATUS.RESULT, .reg Reg.RTE_LINK_STATUS.STATE, .reg Reg.RTE_PLAN_HDR.DIGEST] : List Part) ++ ([.reg Reg.RTE_PLAN_HDR.SIZE_U, .reg Reg.RTE_PLAN_HDR.SIZE_V, .reg Reg.RTE_PLAN_HDR.SIZE_W, .reg Reg.RTE_PLAN_PORT.AXIS, .reg Reg.RTE_PLAN_PORT.COORD, .reg Reg.RTE_PLAN_PORT.FAR_PORT, .reg Reg.RTE_PLAN_PORT.RESERVE, .reg Reg.RTE_VC_CTL.COMMIT_DUE, .reg Reg.RTE_VC_CTL.FLOOR_EN, .reg Reg.RTE_VC_CTL.VC5_FLOOR_DIV, .reg Reg.RTE_VC_WEIGHT.VC0_DIV, .reg Reg.RTE_VC_WEIGHT.W1, .reg Reg.RTE_VC_WEIGHT.W2, .reg Reg.RTE_VC_WEIGHT.W3, .reg Reg.RTE_VC_WEIGHT.W4, .reg Reg.RTE_VC_WEIGHT.W5] : List Part) ++ ([.reg Reg.RTE_VC_WEIGHT.W6, .reg Reg.RTE_VC_WEIGHT.W7, .ports, .router, .tally] : List Part)) (fun _ => True) (fun _ => False) s (exec (.stageLinks) s)) ∧
  (∀ (s : State) (plots : List Nat) (rims : Fin 16), Ends (([.free, .events, .out, .anyHubReg, .msix, .light, .hostTx, .seed, .host, .hubSlots, .power, .hubFx, .hbm, .store, .bin, .hbmErr] : List Part) ++ ([.storeErr, .binErr, .anyReg, .drill, .dr, .queue, .cq, .tine, .samples, .scrub, .notify, .xlines, .boot, .slot, .anyPlotReg, .memu] : List Part) ++ ([.drift, .hard, .ports, .router, .gateway, .sheaf, .health, .mirror, .tally, .hubLost, .rimSlots, .thermal, .rimFx] : List Part)) (fun _ => True) (fun _ => True) s (exec (.stageKnownAnswer plots rims) s)) ∧
  (∀ (s : State), Ends (([.events, .hubReg Reg.SEED_STAGE.PHASE, .seed, .hbm, .store, .hbmErr, .storeErr, .reg Reg.FLD_BOOT_STATUS.FETCHED, .reg Reg.FLD_BOOT_STATUS.FW_FALLOW, .reg Reg.FLD_BOOT_STATUS.REPAIRS, .reg Reg.FLD_BOOT_STATUS.SOWN, .reg Reg.GWY_STAT.ABSORBED, .reg Reg.INJ_PT.ARM, .reg Reg.INJ_PT.DONE, .reg Reg.MEM_ECC_STAT.CORRECTED, .reg Reg.MEM_ECC_STAT.LAST_ADDR] : List Part) ++ ([.reg Reg.MEM_ECC_STAT.POISON_WRITES, .reg Reg.MEM_ECC_STAT.UNCORRECTED, .reg Reg.MEM_REPAIR_ENTRY.BANK, .reg Reg.MEM_REPAIR_ENTRY.CHANNEL, .reg Reg.MEM_REPAIR_ENTRY.PCH, .reg Reg.MEM_REPAIR_ENTRY.REASON, .reg Reg.MEM_REPAIR_ENTRY.RESULT, .reg Reg.MEM_REPAIR_ENTRY.ROW, .reg Reg.MEM_REPAIR_ENTRY.STACK, .reg Reg.MEM_REPAIR_ENTRY.VALID, .drill, .boot, .plotReg Reg.PLT_BOOT.FAIL_BLOCK, .plotReg Reg.PLT_BOOT.IMAGE, .plotReg Reg.PLT_BOOT.NONE, .plotReg Reg.PLT_BOOT.REPAIRS] : List Part) ++ ([.plotReg Reg.PLT_BOOT.SOW, .plotReg Reg.PLT_BOOT.STATUS, .plotReg Reg.PLT_STORE_ECC.CORRECTED, .plotReg Reg.PLT_STORE_ECC.LAST_ADDR, .plotReg Reg.PLT_STORE_ECC.UNCORRECTED, .memu, .health, .sow] : List Part)) (fun _ => True) (fun _ => True) s (exec (.stageFirmware) s)) ∧
  (∀ (s : State), Ends ([.events, .hubReg Reg.HUB_FIELD_STATE.STATE, .hubReg Reg.SEED_STAGE.PHASE, .hubReg Reg.SEED_STAGE.RESULT, .hubReg Reg.SEED_STAGE_TIME.TIME, .seed, .hard] : List Part) (fun _ => True) (fun _ => False) s (exec (.stageReady) s)) ∧
  (∀ (s : State), Ends (([.events, .hubReg Reg.CAL_COMP.C0, .hubReg Reg.CAL_COMP.C1, .hubReg Reg.CAL_COMP.C2, .hubReg Reg.CAL_COMP.ENABLE, .hubReg Reg.CAL_COMP.T0, .hubReg Reg.HUB_INJ_STATUS.PROVING, .hubReg Reg.SEED_CTL.HOST_IMAGE, .hubReg Reg.SEED_DIGEST.D, .hubReg Reg.SEED_IMAGE_STATUS.BUILD, .hubReg Reg.SEED_IMAGE_STATUS.LENGTH, .hubReg Reg.SEED_IMAGE_STATUS.RESULT_A, .hubReg Reg.SEED_IMAGE_STATUS.RESULT_B, .hubReg Reg.SEED_IMAGE_STATUS.RESULT_HOST, .hubReg Reg.SEED_IMAGE_STATUS.SLOT, .hubReg Reg.SEED_IMAGE_STATUS.SVN] : List Part) ++ ([.hubReg Reg.SEED_IMAGE_STATUS.UNPROVISIONED, .hubReg Reg.SEED_MEASURE.M, .hubReg Reg.SEED_STAGE.AUTO, .hubReg Reg.SEED_STAGE.FAST_PATH, .hubReg Reg.SEED_STAGE.PHASE, .seed] : List Part)) (fun _ => False) (fun _ => False) s (exec (.hostImage) s)) ∧
  (∀ (s : State), Ends (([.events, .hubReg Reg.SEED_CTL.IMAGES_READY, .hubReg Reg.SEED_STAGE.PHASE, .seed, .store, .storeErr, .reg Reg.FLD_BOOT_STATUS.FETCHED, .reg Reg.FLD_BOOT_STATUS.FW_FALLOW, .reg Reg.FLD_BOOT_STATUS.REPAIRS, .reg Reg.FLD_BOOT_STATUS.SOWN, .drill, .boot, .plotReg Reg.PLT_BOOT.FAIL_BLOCK, .plotReg Reg.PLT_BOOT.IMAGE, .plotReg Reg.PLT_BOOT.NONE, .plotReg Reg.PLT_BOOT.REPAIRS] : List Part) ++ ([.plotReg Reg.PLT_BOOT.SOW, .plotReg Reg.PLT_BOOT.STATUS, .plotReg Reg.PLT_STORE_ECC.CORRECTED, .plotReg Reg.PLT_STORE_ECC.LAST_ADDR, .plotReg Reg.PLT_STORE_ECC.UNCORRECTED, .health, .sow] : List Part)) (fun _ => True) (fun _ => True) s (exec (.imagesReady) s)) ∧
  (∀ (s : State) (env : LightEnv), Ends (([.events, .out, .hubReg Reg.HDL_HOST_ENGINE.DARK, .hubReg Reg.HDL_HOST_ENGINE.INLET_A_OK, .hubReg Reg.HDL_HOST_ENGINE.INLET_B_OK, .hubReg Reg.HDL_HOST_ENGINE.SRC, .hubReg Reg.HDL_HOST_ENGINE.SWITCHING, .hubReg Reg.HDL_LIGHT_STATUS.RESULT, .hubReg Reg.HDL_MODULE.OUTPUT_ON, .hubReg Reg.HDL_MODULE.PRESENT, .hubReg Reg.HDL_MODULE.PROBE_FAIL, .hubReg Reg.HUB_HOST_PHY_STATUS.STATE, .hubReg Reg.HUB_HOST_PHY_STATUS.WIDTH, .hubReg Reg.PWR_RAIL_STATUS.PGOOD_OPT, .hubReg Reg.PWR_RAIL_STATUS.PWREN_OPT, .light] : List Part) ++ ([.hostTx, .seed, .host, .power, .reg Reg.HDL_ENGINE_STATUS.DARK, .reg Reg.HDL_ENGINE_STATUS.INLET_A_OK, .reg Reg.HDL_ENGINE_STATUS.INLET_B_OK, .reg Reg.HDL_ENGINE_STATUS.SRC, .reg Reg.HDL_ENGINE_STATUS.SWITCHING, .reg Reg.HDL_PORT_STATUS.APR, .reg Reg.INJ_PT.ARM, .reg Reg.INJ_PT.DONE, .reg Reg.RTE_COMB_STAT.MERGED, .reg Reg.RTE_COMB_STAT.PEAK, .reg Reg.RTE_LINK_CNT.LOST, .reg Reg.RTE_LINK_CNT.NAKS] : List Part) ++ ([.reg Reg.RTE_LINK_CNT.REPLAYED, .reg Reg.RTE_LINK_CNT.TX_FLITS, .reg Reg.RTE_LINK_CREDIT.RES, .reg Reg.RTE_LINK_CREDIT.SHARED, .reg Reg.RTE_LINK_STATUS.PRESERVED, .reg Reg.RTE_LINK_STATUS.RESULT, .reg Reg.RTE_LINK_STATUS.STATE, .ports, .router, .tally] : List Part)) (fun _ => True) (fun _ => False) s (exec (.hostLightRetry env) s)) ∧
  (∀ (s : State) (f : FieldId), Ends (([.events, .out, .hubReg Reg.HUB_D2D_STATUS.MODULES, .hubReg Reg.HUB_D2D_STATUS.UP, .hubReg Reg.HUB_FIELD_STATE.HBM0_OK, .hubReg Reg.HUB_FIELD_STATE.HBM1_OK, .hubReg Reg.HUB_FIELD_STATE.STATE, .hubReg Reg.MBX_HUB_IN_META.FULL, .hubReg Reg.MBX_HUB_OUT_ACK.CODE, .hubReg Reg.MBX_HUB_OUT_ACK.DONE, .hubReg Reg.MBX_HUB_OUT_META.PENDING, .hubReg Reg.PWR_RAIL_STATUS.PGOOD, .hubReg Reg.PWR_RAIL_STATUS.PWREN, .seed, .hubSlots, .power] : List Part) ++ ([.store, .bin, .storeErr, .binErr, .reg Reg.INJ_PT.ARM, .reg Reg.INJ_PT.DONE, .reg Reg.RTE_COMB_STAT.MERGED, .reg Reg.RTE_COMB_STAT.PEAK, .reg Reg.RTE_LINK_CNT.LOST, .reg Reg.RTE_LINK_CNT.NAKS, .reg Reg.RTE_LINK_CNT.REPLAYED, .reg Reg.RTE_LINK_CNT.TX_FLITS, .reg Reg.RTE_LINK_CREDIT.RES, .reg Reg.RTE_LINK_CREDIT.SHARED, .reg Reg.RTE_LINK_STATUS.PRESERVED, .reg Reg.RTE_LINK_STATUS.RESULT] : List Part) ++ ([.reg Reg.RTE_LINK_STATUS.STATE, .drill, .dr, .queue, .cq, .tine, .samples, .scrub, .notify, .xlines, .boot, .slot, .anyPlotReg, .hard, .ports, .router] : List Part) ++ ([.gateway, .tally, .far (.reg Reg.MBX_RIM_IN_META.FULL), .far (.reg Reg.MBX_RIM_OUT_ACK.CODE), .far (.reg Reg.MBX_RIM_OUT_ACK.DONE), .far (.reg Reg.MBX_RIM_OUT_META.PENDING), .far .slot, .far (.plotReg Reg.MBX_PLOT_IN_META.FULL), .far (.plotReg Reg.MBX_PLOT_OUT_ACK.CODE), .far (.plotReg Reg.MBX_PLOT_OUT_ACK.DONE), .far (.plotReg Reg.MBX_PLOT_OUT_META.PENDING), .far .rimSlots] : List Part)) (· = f) (fun _ => True) s (exec (.pgoodTimeout f) s)) ∧
  (∀ (s : State) (f : FieldId) (p : PlotId), Ends (([.events, .store, .bin, .hbmErr, .storeErr, .binErr, .reg Reg.FLD_BOOT_STATUS.FETCHED, .reg Reg.FLD_BOOT_STATUS.FW_FALLOW, .reg Reg.FLD_BOOT_STATUS.REPAIRS, .reg Reg.FLD_BOOT_STATUS.SOWN, .reg Reg.FLD_FALLOW_RUN.RUN, .reg Reg.INJ_ARITH.ARM, .reg Reg.INJ_ARITH.DONE, .reg Reg.INJ_ARITH.NOFIRE, .reg Reg.INJ_PT.ARM, .reg Reg.INJ_PT.DONE] : List Part) ++ ([.reg Reg.MEM_ECC_STAT.CORRECTED, .reg Reg.MEM_ECC_STAT.LAST_ADDR, .reg Reg.MEM_ECC_STAT.UNCORRECTED, .reg Reg.MEM_REPAIR_ENTRY.BANK, .reg Reg.MEM_REPAIR_ENTRY.CHANNEL, .reg Reg.MEM_REPAIR_ENTRY.PCH, .reg Reg.MEM_REPAIR_ENTRY.REASON, .reg Reg.MEM_REPAIR_ENTRY.RESULT, .reg Reg.MEM_REPAIR_ENTRY.ROW, .reg Reg.MEM_REPAIR_ENTRY.STACK, .reg Reg.MEM_REPAIR_ENTRY.VALID, .drill, .boot, .plotReg Reg.PLT_BOOT.FAIL_BLOCK, .plotReg Reg.PLT_BOOT.REPAIRS, .plotReg Reg.PLT_BOOT.STATUS] : List Part) ++ ([.plotReg Reg.PLT_STORE_ECC.CORRECTED, .plotReg Reg.PLT_STORE_ECC.LAST_ADDR, .plotReg Reg.PLT_STORE_ECC.UNCORRECTED, .memu, .health] : List Part)) (· = f) (· = p) s (exec (.bootFetch f p) s)) ∧
  (∀ (s : State) (f : FieldId) (timeout : Bool), Ends (([.events, .store, .hbmErr, .storeErr, .reg Reg.FLD_MESH_STAT.MCAST_SKIPPED, .reg Reg.INJ_PT.ARM, .reg Reg.INJ_PT.DONE, .reg Reg.MEM_ECC_STAT.CORRECTED, .reg Reg.MEM_ECC_STAT.LAST_ADDR, .reg Reg.MEM_ECC_STAT.UNCORRECTED, .reg Reg.MEM_REPAIR_ENTRY.BANK, .reg Reg.MEM_REPAIR_ENTRY.CHANNEL, .reg Reg.MEM_REPAIR_ENTRY.PCH, .reg Reg.MEM_REPAIR_ENTRY.REASON, .reg Reg.MEM_REPAIR_ENTRY.RESULT, .reg Reg.MEM_REPAIR_ENTRY.ROW] : List Part) ++ ([.reg Reg.MEM_REPAIR_ENTRY.STACK, .reg Reg.MEM_REPAIR_ENTRY.VALID, .boot, .plotReg Reg.PLT_BOOT.STATUS, .plotReg Reg.PLT_STORE_ECC.CORRECTED, .plotReg Reg.PLT_STORE_ECC.LAST_ADDR, .plotReg Reg.PLT_STORE_ECC.UNCORRECTED, .memu, .health, .sow] : List Part)) (· = f) (fun _ => True) s (exec (.sowingRow f timeout) s)) ∧
  (∀ (s : State) (sigR : Nat) (sigS : Nat), Ends ([.free, .events, .hubReg Reg.HUB_JTAG_CHAL.NONCE, .hubReg Reg.HUB_JTAG_RESP.SIG_R, .hubReg Reg.HUB_JTAG_RESP.SIG_S, .hubReg Reg.HUB_JTAG_STATUS.RESULT, .hubReg Reg.HUB_JTAG_STATUS.UNLOCKED, .seed] : List Part) (fun _ => False) (fun _ => False) s (exec (.jtagResponse sigR sigS) s)) ∧
  (∀ (s : State), Ends ([.seed] : List Part) (fun _ => False) (fun _ => False) s (exec (.jtagHoldoffEnd) s)) ∧
  (∀ (s : State), ∀ c ∈ ([.stageFabric, .stageEnd, .linksStageTimeout, .fabricStageTimeout] : List Instr),
      Ends allParts (fun _ => True) (fun _ => True) s (exec c s)) ∧
  (∀ (s : State) (stage : Fin 16), ∀ c ∈ ([.stageGo stage, .stageSkip stage] : List Instr),
      Ends allParts (fun _ => True) (fun _ => True) s (exec c s)) ∧
  (∀ (s : State) (stage : Fin 16), s.hub.seed.req = [] → Ends ([.hubReg Reg.SEED_STAGE.GO_IGNORED, .hubReg Reg.SEED_STAGE.PHASE, .hubReg Reg.SEED_STAGE.STAGE, .seed] : List Part) (fun _ => False) (fun _ => False) s (exec (.stageGo stage) s)) ∧
  (∀ (s : State) (stage : Fin 16), s.hub.seed.req = [] → imgRegWrites s.image s.stage = [] → Ends ([.events, .hubReg Reg.SEED_CTL.IMAGES_READY, .hubReg Reg.SEED_STAGE.GO_IGNORED, .hubReg Reg.SEED_STAGE.PHASE, .hubReg Reg.SEED_STAGE.RESULT, .hubReg Reg.SEED_STAGE.STAGE, .hubReg Reg.SEED_STAGE_TIME.TIME, .seed] : List Part) (fun _ => False) (fun _ => False) s (exec (.stageSkip stage) s)) ∧
  (∀ (s : State), s.hub.seed.req = [] → imgRegWrites s.image s.stage = [] → Ends ([.events, .hubReg Reg.SEED_CTL.IMAGES_READY, .hubReg Reg.SEED_STAGE.PHASE, .hubReg Reg.SEED_STAGE.RESULT, .hubReg Reg.SEED_STAGE.STAGE, .hubReg Reg.SEED_STAGE_TIME.TIME, .seed] : List Part) (fun _ => False) (fun _ => False) s (exec (.stageEnd) s)) ∧
  (∀ (s : State), s.hub.seed.req = [] → imgRegWrites s.image s.stage = [] → Ends ([.events, .hubReg Reg.SEED_CTL.IMAGES_READY, .hubReg Reg.SEED_STAGE.PHASE, .hubReg Reg.SEED_STAGE.RESULT, .hubReg Reg.SEED_STAGE.STAGE, .hubReg Reg.SEED_STAGE_TIME.TIME, .seed] : List Part) (fun _ => False) (fun _ => False) s (exec (.linksStageTimeout) s)) ∧
  (∀ (s : State), s.hub.seed.req = [] → imgRegWrites s.image s.stage = [] → Ends ([.events, .hubReg Reg.SEED_CTL.IMAGES_READY, .hubReg Reg.SEED_STAGE.PHASE, .hubReg Reg.SEED_STAGE.RESULT, .hubReg Reg.SEED_STAGE.STAGE, .hubReg Reg.SEED_STAGE_TIME.TIME, .seed] : List Part) (fun _ => False) (fun _ => False) s (exec (.fabricStageTimeout) s)) ∧
  (∀ (s : State), s.hub.seed.req = [] → imgRegWrites s.image sgFabric = [] → Ends (([.events, .hubReg Reg.HUB_GPIO_CLAIM.CLAIM, .hubReg Reg.HUB_HOST_PHY_CTL.RETRAIN, .hubReg Reg.HUB_HOST_PHY_STATUS.RECOVERIES, .hubReg Reg.HUB_HOST_PHY_STATUS.STATE, .hubReg Reg.HUB_HOST_PHY_STATUS.WIDTH, .hubReg Reg.SEED_STAGE.PHASE, .hubReg Reg.SEED_STAGE.RESULT, .hubReg Reg.TLY_PIN_CTL.ENABLE, .hubReg Reg.TLY_PIN_CTL.FIELD, .hubReg Reg.TLY_PIN_CTL.MODE, .hubReg Reg.TLY_PIN_CTL.PERIOD_LOG, .hubReg Reg.TLY_PIN_CTL.WIDTH, .seed, .host, .reg Reg.GWY_CLASS_CTL.NEAR_SCOPE] : List Part) ++ ([.reg Reg.RTE_PLAN_HDR.DIGEST, .reg Reg.RTE_PLAN_HDR.SIZE_U, .reg Reg.RTE_PLAN_HDR.SIZE_V, .reg Reg.RTE_PLAN_HDR.SIZE_W, .reg Reg.RTE_PLAN_PORT.AXIS, .reg Reg.RTE_PLAN_PORT.COORD, .reg Reg.RTE_PLAN_PORT.FAR_PORT, .reg Reg.RTE_PLAN_PORT.RESERVE, .reg Reg.RTE_TABLE_STATUS.GEN, .reg Reg.RTE_TABLE_STATUS.INDEX, .reg Reg.RTE_TABLE_STATUS.PENDING, .reg Reg.RTE_TABLE_STATUS.RESULT, .reg Reg.RTE_TABLE_STATUS.SEALED, .reg Reg.RTE_TABLE_STATUS.TABLE, .reg Reg.TLY_ROOTS.ROOT0, .reg Reg.TLY_ROOTS.ROOT1] : List Part) ++ ([.reg Reg.TLY_ROOTS.ROOT2, .reg Reg.TLY_ROOTS.VALID, .router] : List Part)) (fun _ => True) (fun _ => False) s (exec (.stageFabric) s)) ∧
  (∀ (s : State) (powerOn : Bool) (straps : Fin 16) (vbat : Vbat), Leaves (exec (.coldReset powerOn straps vbat) s) (fun u =>
      Only (([.free, .events, .out, .hubReg Reg.CAL_COMP.C0, .hubReg Reg.CAL_COMP.C1, .hubReg Reg.CAL_COMP.C2, .hubReg Reg.CAL_COMP.ENABLE, .hubReg Reg.CAL_COMP.T0, .hubReg Reg.CAL_STATUS.OSC_STOP, .hubReg Reg.CAL_TIME.FRAC, .hubReg Reg.CAL_TIME.SEC, .hubReg Reg.CAL_TIME.VALID, .hubReg Reg.HUB_JTAG_CHAL.NONCE, .hubReg Reg.HUB_RESET_STATUS.CAUSE, .hubReg Reg.PWR_MODE_STATUS.HOLD, .hubReg Reg.PWR_MODE_STATUS.HOLD_COUNT] : List Part) ++ ([.hubReg Reg.PWR_RAMP_STAT.BALLAST, .hubReg Reg.PWR_RAMP_STAT.GOVERNED, .hubReg Reg.PWR_RAMP_STAT.LIMIT, .hubReg Reg.SEED_STRAPS.BOOT_SRC, .hubReg Reg.SEED_STRAPS.FLASH_IO, .hubReg Reg.SEED_STRAPS.STEP, .hubReg Reg.THM_TRIP_STATUS.FIELD, .hubReg Reg.THM_TRIP_STATUS.SENSOR, .hubReg Reg.THM_TRIP_STATUS.SOURCE, .hubReg Reg.THM_TRIP_STATUS.TEMP, .hubReg Reg.THM_TRIP_STATUS.TRIPPED, .light, .calendar, .seed, .power, .gateway] : List Part) ++ ([.thermal] : List Part)) (fun _ => True) (fun _ => False) { State.reset with pending := s.pending } u)) ∧
  (∀ (s : State) (i3c : Bool), Leaves (exec (.warmReset i3c) s) (fun u =>
      Only ((([.free, .events, .out, .hubReg Reg.HDL_MODULE.OUTPUT_ON, .hubReg Reg.HUB_JTAG_CHAL.NONCE, .hubReg Reg.HUB_RESET_STATUS.CAUSE, .hubReg Reg.HUB_RESET_STATUS.WARM_COUNT, .hubReg Reg.PWR_MODE_STATUS.HOLD, .hubReg Reg.PWR_MODE_STATUS.HOLD_COUNT, .hubReg Reg.PWR_RAMP_STAT.BALLAST, .hubReg Reg.PWR_RAMP_STAT.GOVERNED, .hubReg Reg.PWR_RAMP_STAT.LIMIT, .hubReg Reg.SEED_STAGE.PHASE, .hubReg Reg.SEED_STAGE.STAGE, .msix, .light] : List Part) ++ ([.hostTx, .links, .tallyHub, .seed, .host, .yarzin, .hubSlots, .power, .hubFx, .store, .bin, .storeErr, .binErr, .reg Reg.TLY_STATUS.HOLD, .reg Reg.TLY_STATUS.STATE, .drill] : List Part) ++ ([.dr, .queue, .cq, .tine, .samples, .scrub, .notify, .xlines, .boot, .slot, .anyPlotReg, .memu, .drift, .counts, .lastRaise, .hard] : List Part) ++ ([.ports, .router, .gateway, .sheaf, .health, .mirror, .tally, .mgmt, .sow, .forward, .hubLost, .held, .rimSlots, .thermal, .rimFx] : List Part)) ++ (Reg.hubFields.filter (fun k => k.warm.isSome)).map Part.hubReg ++ ((Reg.rimFields ++ rimpFields).filter (fun k => k.warm.isSome)).map Part.reg) (fun _ => True) (fun _ => True) s u ∧
      Only (([.free, .events, .out, .anyHubReg, .light, .hostTx, .tallyHub, .calendar, .seed, .host, .hubSlots, .power, .hubFx, .anyReg, .slot, .memu] : List Part) ++ ([.ports, .router, .gateway, .health, .tally, .rimSlots, .thermal] : List Part)) (fun _ => True) (fun _ => True) { State.reset with pending := s.pending, now := s.now, mem := allFields.foldl (fun m f => m.clearPlots f) s.mem } u))

/-- Frame of the power and thermal commands: for every state and every operand the command answers a next state; before
the records of the events it raised are written, only the named parts of the state have changed, parts of a field only
in the named field, parts of a plot only in the named plot, those listed as far anywhere; one that names no field may
change its parts in any; the queue is untouched and memories keep their canonical form. PGOOD_FALL and SENSOR_SAMPLE of
the optical supply and of the hub's sensors have a clause of their own. -/
def Obligations.PowerFrame : Prop :=
  (∀ (s : State) (f : FieldId), Ends (([.events, .out, .hubReg Reg.HUB_D2D_STATUS.MODULES, .hubReg Reg.HUB_D2D_STATUS.UP, .hubReg Reg.HUB_FIELD_STATE.HBM0_OK, .hubReg Reg.HUB_FIELD_STATE.HBM1_OK, .hubReg Reg.HUB_FIELD_STATE.STATE, .hubReg Reg.MBX_HUB_IN_META.FULL, .hubReg Reg.MBX_HUB_OUT_ACK.CODE, .hubReg Reg.MBX_HUB_OUT_ACK.DONE, .hubReg Reg.MBX_HUB_OUT_META.PENDING, .hubSlots, .store, .bin, .storeErr, .binErr] : List Part) ++ ([.reg Reg.INJ_PT.ARM, .reg Reg.INJ_PT.DONE, .reg Reg.RTE_COMB_STAT.MERGED, .reg Reg.RTE_COMB_STAT.PEAK, .reg Reg.RTE_LINK_CNT.LOST, .reg Reg.RTE_LINK_CNT.NAKS, .reg Reg.RTE_LINK_CNT.REPLAYED, .reg Reg.RTE_LINK_CNT.TX_FLITS, .reg Reg.RTE_LINK_CREDIT.RES, .reg Reg.RTE_LINK_CREDIT.SHARED, .reg Reg.RTE_LINK_STATUS.PRESERVED, .reg Reg.RTE_LINK_STATUS.RESULT, .reg Reg.RTE_LINK_STATUS.STATE, .drill, .dr, .queue] : List Part) ++ ([.cq, .tine, .samples, .scrub, .notify, .xlines, .boot, .slot, .anyPlotReg, .hard, .ports, .router, .gateway, .tally, .far (.reg Reg.MBX_RIM_IN_META.FULL), .far (.reg Reg.MBX_RIM_OUT_ACK.CODE)] : List Part) ++ ([.far (.reg Reg.MBX_RIM_OUT_ACK.DONE), .far (.reg Reg.MBX_RIM_OUT_META.PENDING), .far .slot, .far (.plotReg Reg.MBX_PLOT_IN_META.FULL), .far (.plotReg Reg.MBX_PLOT_OUT_ACK.CODE), .far (.plotReg Reg.MBX_PLOT_OUT_ACK.DONE), .far (.plotReg Reg.MBX_PLOT_OUT_META.PENDING), .far .rimSlots] : List Part)) (· = f) (fun _ => True) s (exec (.rimFatalError f) s)) ∧
  (∀ (s : State) (f : FieldId) (p : PlotId) (t : TineId), Ends ([.tine, .thermal] : List Part) (· = f) (· = p) s (exec (.ballastRow f p t) s)) ∧
  (∀ (s : State) (mode : Fin 4) (atMark : Bool) (limit : Nat), Ends ([.hubReg Reg.PWR_MODE_CTL.AT_MARK, .hubReg Reg.PWR_MODE_CTL.LIMIT_W, .hubReg Reg.PWR_MODE_CTL.MODE, .hubReg Reg.PWR_MODE_STATUS.CHANGING, .hubReg Reg.PWR_MODE_STATUS.MODE, .hubReg Reg.PWR_MODE_STATUS.PENDING, .hubReg Reg.PWR_MODE_STATUS.POINT_0, .hubReg Reg.PWR_MODE_STATUS.POINT_1, .hubReg Reg.PWR_MODE_STATUS.POINT_2, .hubReg Reg.PWR_MODE_STATUS.POINT_3, .hubReg Reg.PWR_MODE_STATUS.REQ, .hubReg Reg.PWR_MODE_STATUS.VSEL, .hubReg Reg.PWR_RAMP_STAT.GOVERNED, .hubReg Reg.PWR_RAMP_STAT.LIMIT, .power, .reg Reg.THM_FIELD_STATUS.POINT] : List Part) (fun _ => True) (fun _ => False) s (exec (.powerModeRequest mode atMark limit) s)) ∧
  (∀ (s : State), Ends ([.hubReg Reg.PWR_MODE_STATUS.CHANGING, .hubReg Reg.PWR_MODE_STATUS.MODE, .hubReg Reg.PWR_MODE_STATUS.PENDING, .hubReg Reg.PWR_MODE_STATUS.POINT_0, .hubReg Reg.PWR_MODE_STATUS.POINT_1, .hubReg Reg.PWR_MODE_STATUS.POINT_2, .hubReg Reg.PWR_MODE_STATUS.POINT_3, .hubReg Reg.PWR_MODE_STATUS.VSEL, .hubReg Reg.PWR_RAMP_STAT.GOVERNED, .hubReg Reg.PWR_RAMP_STAT.LIMIT, .power, .reg Reg.THM_FIELD_STATUS.POINT] : List Part) (fun _ => True) (fun _ => False) s (exec (.powerModeChange) s)) ∧
  (∀ (s : State), Ends ([.events, .hubReg Reg.PWR_MODE_STATUS.CHANGING, .hubReg Reg.PWR_MODE_STATUS.MODE, .hubReg Reg.PWR_MODE_STATUS.PENDING, .hubReg Reg.PWR_MODE_STATUS.POINT_0, .hubReg Reg.PWR_MODE_STATUS.POINT_1, .hubReg Reg.PWR_MODE_STATUS.POINT_2, .hubReg Reg.PWR_MODE_STATUS.POINT_3, .hubReg Reg.PWR_MODE_STATUS.VSEL, .hubReg Reg.PWR_RAMP_STAT.GOVERNED, .hubReg Reg.PWR_RAMP_STAT.LIMIT, .power, .reg Reg.THM_FIELD_STATUS.POINT] : List Part) (fun _ => True) (fun _ => False) s (exec (.powerModeChangeComplete) s)) ∧
  (∀ (s : State) (p : Nat) (pb : Nat) (wantUp : Bool), Ends ([.events, .hubReg Reg.PWR_RAMP_STAT.BALLAST, .hubReg Reg.PWR_RAMP_STAT.BALLAST_W, .hubReg Reg.PWR_RAMP_STAT.DUTY, .hubReg Reg.PWR_RAMP_STAT.EXCEED, .hubReg Reg.PWR_RAMP_STAT.GOVERNED, .hubReg Reg.PWR_RAMP_STAT.LIMIT, .hubReg Reg.PWR_RAMP_STAT.POWER, .hubReg Reg.PWR_RAMP_STAT.RATE_MAX, .power, .thermal] : List Part) (fun _ => True) (fun _ => False) s (exec (.governorPeriod p pb wantUp) s)) ∧
  (∀ (s : State), Ends ([.hubReg Reg.PWR_RAMP_STAT.RELEASED, .power] : List Part) (fun _ => False) (fun _ => False) s (exec (.rampRelease) s)) ∧
  (∀ (s : State) (f : FieldId), Ends ([.tine, .thermal] : List Part) (· = f) (fun _ => True) s (exec (.startTokenGrant f) s)) ∧
  (∀ (s : State), Ends ([.events, .hubReg Reg.PWR_MODE_STATUS.CHANGING, .hubReg Reg.PWR_MODE_STATUS.HOLD, .hubReg Reg.PWR_MODE_STATUS.MODE, .hubReg Reg.PWR_MODE_STATUS.PENDING, .hubReg Reg.PWR_MODE_STATUS.POINT_0, .hubReg Reg.PWR_MODE_STATUS.POINT_1, .hubReg Reg.PWR_MODE_STATUS.POINT_2, .hubReg Reg.PWR_MODE_STATUS.POINT_3, .hubReg Reg.PWR_MODE_STATUS.VSEL, .hubReg Reg.PWR_RAMP_STAT.GOVERNED, .hubReg Reg.PWR_RAMP_STAT.LIMIT, .power, .reg Reg.THM_FIELD_STATUS.POINT, .thermal] : List Part) (fun _ => True) (fun _ => False) s (exec (.holdEnd) s)) ∧
  (∀ (s : State) (f : FieldId), Ends (([.events, .out, .hubReg Reg.HUB_D2D_STATUS.MODULES, .hubReg Reg.HUB_D2D_STATUS.UP, .hubReg Reg.HUB_FIELD_STATE.HBM0_OK, .hubReg Reg.HUB_FIELD_STATE.HBM1_OK, .hubReg Reg.HUB_FIELD_STATE.STATE, .hubReg Reg.MBX_HUB_IN_META.FULL, .hubReg Reg.MBX_HUB_OUT_ACK.CODE, .hubReg Reg.MBX_HUB_OUT_ACK.DONE, .hubReg Reg.MBX_HUB_OUT_META.PENDING, .hubReg Reg.PWR_RAIL_STATUS.FAULTS, .hubReg Reg.PWR_RAIL_STATUS.PGOOD, .hubReg Reg.PWR_RAIL_STATUS.PWREN, .hubSlots, .power] : List Part) ++ ([.store, .bin, .storeErr, .binErr, .reg Reg.INJ_PT.ARM, .reg Reg.INJ_PT.DONE, .reg Reg.RTE_COMB_STAT.MERGED, .reg Reg.RTE_COMB_STAT.PEAK, .reg Reg.RTE_LINK_CNT.LOST, .reg Reg.RTE_LINK_CNT.NAKS, .reg Reg.RTE_LINK_CNT.REPLAYED, .reg Reg.RTE_LINK_CNT.TX_FLITS, .reg Reg.RTE_LINK_CREDIT.RES, .reg Reg.RTE_LINK_CREDIT.SHARED, .reg Reg.RTE_LINK_STATUS.PRESERVED, .reg Reg.RTE_LINK_STATUS.RESULT] : List Part) ++ ([.reg Reg.RTE_LINK_STATUS.STATE, .drill, .dr, .queue, .cq, .tine, .samples, .scrub, .notify, .xlines, .boot, .slot, .anyPlotReg, .hard, .ports, .router] : List Part) ++ ([.gateway, .tally, .far (.reg Reg.MBX_RIM_IN_META.FULL), .far (.reg Reg.MBX_RIM_OUT_ACK.CODE), .far (.reg Reg.MBX_RIM_OUT_ACK.DONE), .far (.reg Reg.MBX_RIM_OUT_META.PENDING), .far .slot, .far (.plotReg Reg.MBX_PLOT_IN_META.FULL), .far (.plotReg Reg.MBX_PLOT_OUT_ACK.CODE), .far (.plotReg Reg.MBX_PLOT_OUT_ACK.DONE), .far (.plotReg Reg.MBX_PLOT_OUT_META.PENDING), .far .rimSlots] : List Part)) (· = f) (fun _ => True) s (exec (.pgoodFall (some f)) s)) ∧
  (∀ (s : State), Ends (([.events, .out, .hubReg Reg.HDL_HOST_ENGINE.DARK, .hubReg Reg.HDL_HOST_ENGINE.INLET_A_OK, .hubReg Reg.HDL_HOST_ENGINE.INLET_B_OK, .hubReg Reg.HDL_HOST_ENGINE.SWITCHING, .hubReg Reg.HDL_MODULE.OUTPUT_ON, .hubReg Reg.HUB_HOST_PHY_STATUS.STATE, .hubReg Reg.HUB_HOST_PHY_STATUS.WIDTH, .hubReg Reg.PWR_RAIL_STATUS.FAULTS, .hubReg Reg.PWR_RAIL_STATUS.PGOOD_OPT, .light, .host, .power, .reg Reg.HDL_ENGINE_STATUS.DARK, .reg Reg.HDL_ENGINE_STATUS.INLET_A_OK] : List Part) ++ ([.reg Reg.HDL_ENGINE_STATUS.INLET_B_OK, .reg Reg.HDL_ENGINE_STATUS.SWITCHING, .reg Reg.INJ_PT.ARM, .reg Reg.INJ_PT.DONE, .reg Reg.RTE_COMB_STAT.MERGED, .reg Reg.RTE_COMB_STAT.PEAK, .reg Reg.RTE_LINK_CNT.LOST, .reg Reg.RTE_LINK_CNT.NAKS, .reg Reg.RTE_LINK_CNT.REPLAYED, .reg Reg.RTE_LINK_CNT.TX_FLITS, .reg Reg.RTE_LINK_CREDIT.RES, .reg Reg.RTE_LINK_CREDIT.SHARED, .reg Reg.RTE_LINK_STATUS.PRESERVED, .reg Reg.RTE_LINK_STATUS.RESULT, .reg Reg.RTE_LINK_STATUS.STATE, .ports] : List Part) ++ ([.router, .tally] : List Part)) (fun _ => True) (fun _ => False) s (exec (.pgoodFall none) s)) ∧
  (∀ (s : State), Ends (([.events, .out, .hubReg Reg.HDL_HOST_ENGINE.DARK, .hubReg Reg.HDL_HOST_ENGINE.INLET_A_OK, .hubReg Reg.HDL_HOST_ENGINE.INLET_B_OK, .hubReg Reg.HDL_HOST_ENGINE.SWITCHING, .hubReg Reg.HDL_MODULE.OUTPUT_ON, .hubReg Reg.HUB_HOST_PHY_STATUS.STATE, .hubReg Reg.HUB_HOST_PHY_STATUS.WIDTH, .hubReg Reg.PWR_RAIL_STATUS.PWREN_OPT, .light, .host, .reg Reg.HDL_ENGINE_STATUS.DARK, .reg Reg.HDL_ENGINE_STATUS.INLET_A_OK, .reg Reg.HDL_ENGINE_STATUS.INLET_B_OK, .reg Reg.HDL_ENGINE_STATUS.SWITCHING] : List Part) ++ ([.reg Reg.INJ_PT.ARM, .reg Reg.INJ_PT.DONE, .reg Reg.RTE_COMB_STAT.MERGED, .reg Reg.RTE_COMB_STAT.PEAK, .reg Reg.RTE_LINK_CNT.LOST, .reg Reg.RTE_LINK_CNT.NAKS, .reg Reg.RTE_LINK_CNT.REPLAYED, .reg Reg.RTE_LINK_CNT.TX_FLITS, .reg Reg.RTE_LINK_CREDIT.RES, .reg Reg.RTE_LINK_CREDIT.SHARED, .reg Reg.RTE_LINK_STATUS.PRESERVED, .reg Reg.RTE_LINK_STATUS.RESULT, .reg Reg.RTE_LINK_STATUS.STATE, .ports, .router, .tally] : List Part)) (fun _ => True) (fun _ => False) s (exec (.pgoodOptTimeout) s)) ∧
  (∀ (s : State) (f : FieldId) (readings : List (Option Int)), Ends (([.free, .events, .out, .hubReg Reg.HUB_FIELD_STATE.STATE, .hubReg Reg.MBX_HUB_IN_META.FULL, .hubReg Reg.MBX_HUB_OUT_ACK.CODE, .hubReg Reg.MBX_HUB_OUT_ACK.DONE, .hubReg Reg.MBX_HUB_OUT_META.PENDING, .hubReg Reg.PWR_MODE_STATUS.POINT_0, .hubReg Reg.PWR_MODE_STATUS.POINT_1, .hubReg Reg.PWR_MODE_STATUS.POINT_2, .hubReg Reg.PWR_MODE_STATUS.POINT_3, .hubReg Reg.THM_TRIP_STATUS.FIELD, .hubReg Reg.THM_TRIP_STATUS.SENSOR, .hubReg Reg.THM_TRIP_STATUS.SOURCE, .hubReg Reg.THM_TRIP_STATUS.TEMP] : List Part) ++ ([.hubReg Reg.THM_TRIP_STATUS.TRIPPED, .hubSlots, .power, .store, .bin, .storeErr, .binErr, .reg Reg.INJ_PT.DONE, .reg Reg.THM_EVT_CNT.DROPS, .reg Reg.THM_EVT_CNT.SENSORS, .reg Reg.THM_EVT_CNT.THROTTLES, .reg Reg.THM_EVT_CNT.WARNINGS, .reg Reg.THM_FIELD_STATUS.BROKEN, .reg Reg.THM_FIELD_STATUS.DROPS, .reg Reg.THM_FIELD_STATUS.HOT_SENSOR, .reg Reg.THM_FIELD_STATUS.POINT] : List Part) ++ ([.reg Reg.THM_FIELD_STATUS.RATE, .reg Reg.THM_FIELD_STATUS.TDUTY, .reg Reg.THM_FIELD_STATUS.THROTTLE, .reg Reg.THM_FIELD_STATUS.TMAX, .reg Reg.THM_FIELD_STATUS.WARN, .reg Reg.TLY_STATUS.HOLD, .drill, .dr, .queue, .cq, .tine, .samples, .scrub, .notify, .xlines, .boot] : List Part) ++ ([.slot, .anyPlotReg, .hard, .gateway, .health, .tally, .thermal, .far (.reg Reg.MBX_RIM_IN_META.FULL), .far (.reg Reg.MBX_RIM_OUT_ACK.CODE), .far (.reg Reg.MBX_RIM_OUT_ACK.DONE), .far (.reg Reg.MBX_RIM_OUT_META.PENDING), .far .slot, .far (.plotReg Reg.MBX_PLOT_IN_META.FULL), .far (.plotReg Reg.MBX_PLOT_OUT_ACK.CODE), .far (.plotReg Reg.MBX_PLOT_OUT_ACK.DONE), .far (.plotReg Reg.MBX_PLOT_OUT_META.PENDING)] : List Part) ++ ([.far .rimSlots] : List Part)) (· = f) (fun _ => True) s (exec (.sensorSample (some f) readings) s)) ∧
  (∀ (s : State) (readings : List (Option Int)), Ends ([.events, .out, .hubReg Reg.THM_TRIP_STATUS.FIELD, .hubReg Reg.THM_TRIP_STATUS.SENSOR, .hubReg Reg.THM_TRIP_STATUS.SOURCE, .hubReg Reg.THM_TRIP_STATUS.TEMP, .hubReg Reg.THM_TRIP_STATUS.TRIPPED, .power] : List Part) (fun _ => False) (fun _ => False) s (exec (.sensorSample none readings) s)) ∧
  (∀ (s : State) (readings : List PinReading), Ends (([.free, .events, .hubReg Reg.INJ_HPT.ARM, .hubReg Reg.INJ_HPT.DONE, .hubReg Reg.PWR_MODE_STATUS.CHANGING, .hubReg Reg.PWR_MODE_STATUS.MODE, .hubReg Reg.PWR_MODE_STATUS.PENDING, .hubReg Reg.PWR_MODE_STATUS.POINT_0, .hubReg Reg.PWR_MODE_STATUS.POINT_1, .hubReg Reg.PWR_MODE_STATUS.POINT_2, .hubReg Reg.PWR_MODE_STATUS.POINT_3, .hubReg Reg.PWR_MODE_STATUS.REQ, .hubReg Reg.PWR_MODE_STATUS.VSEL, .hubReg Reg.PWR_RAMP_STAT.GOVERNED, .hubReg Reg.PWR_RAMP_STAT.LIMIT, .hubReg Reg.THM_PIN_STATUS.BROKEN] : List Part) ++ ([.hubReg Reg.THM_PIN_STATUS.CRIT, .hubReg Reg.THM_PIN_STATUS.WARN, .hubReg Reg.THM_PIN_TEMP.TEMP, .power, .reg Reg.THM_FIELD_STATUS.POINT] : List Part)) (fun _ => True) (fun _ => False) s (exec (.pinSample readings) s)) ∧
  (∀ (s : State) (n : Fin 12), Ends ([.hubReg Reg.PWR_MODE_STATUS.CHANGING, .hubReg Reg.PWR_MODE_STATUS.MODE, .hubReg Reg.PWR_MODE_STATUS.PENDING, .hubReg Reg.PWR_MODE_STATUS.POINT_0, .hubReg Reg.PWR_MODE_STATUS.POINT_1, .hubReg Reg.PWR_MODE_STATUS.POINT_2, .hubReg Reg.PWR_MODE_STATUS.POINT_3, .hubReg Reg.PWR_MODE_STATUS.REQ, .hubReg Reg.PWR_MODE_STATUS.VSEL, .hubReg Reg.PWR_RAMP_STAT.GOVERNED, .hubReg Reg.PWR_RAMP_STAT.LIMIT, .power, .reg Reg.THM_FIELD_STATUS.POINT] : List Part) (fun _ => True) (fun _ => False) s (exec (.pinCritClear n) s)) ∧
  (∀ (s : State) (f : FieldId), Ends ([.hubReg Reg.PWR_MODE_STATUS.POINT_0, .hubReg Reg.PWR_MODE_STATUS.POINT_1, .hubReg Reg.PWR_MODE_STATUS.POINT_2, .hubReg Reg.PWR_MODE_STATUS.POINT_3, .reg Reg.THM_FIELD_STATUS.DROPS, .reg Reg.THM_FIELD_STATUS.POINT] : List Part) (· = f) (fun _ => False) s (exec (.dropRecover f) s)) ∧
  (∀ (s : State) (f : FieldId), Ends ([.reg Reg.THM_FIELD_STATUS.TDUTY, .reg Reg.THM_FIELD_STATUS.THROTTLE] : List Part) (· = f) (fun _ => False) s (exec (.tdutyStep f) s)) ∧
  (∀ (s : State) (f : FieldId) (p : PlotId) (cycles : Nat), Ends ([.plotReg Reg.PLT_CLOCK_STAT.DROOP_TRIPS, .plotReg Reg.PLT_CLOCK_STAT.STRETCHED] : List Part) (· = f) (· = p) s (exec (.droopDetectorTrip f p cycles) s)) ∧
  (∀ (s : State) (f : FieldId) (p : PlotId), Ends ([.tine, .thermal] : List Part) (· = f) (· = p) s (exec (.plotDormant f p) s)) ∧
  (∀ (s : State), ∀ c ∈ ([.pwrWarnAssert, .pwrWarnDeassert] : List Instr),
      Ends ([.events, .hubReg Reg.PWR_MODE_STATUS.HOLD, .hubReg Reg.PWR_MODE_STATUS.HOLD_COUNT, .hubReg Reg.PWR_RAMP_STAT.BALLAST, .hubReg Reg.PWR_RAMP_STAT.GOVERNED, .hubReg Reg.PWR_RAMP_STAT.LIMIT, .power, .thermal] : List Part) (fun _ => True) (fun _ => False) s (exec c s))

/-- Frame of the injection commands: for every state and every operand the command answers a next state; before the
records of the events it raised are written, only the named parts of the state have changed, parts of a field only in
the named field, parts of a plot only in the named plot, those listed as far anywhere; one that names no field may
change its parts in any; the queue is untouched and memories keep their canonical form. INJ_EFFECT_END of a field and of
the hub have a clause each. -/
def Obligations.InjectionFrame : Prop :=
  (∀ (s : State) (f : FieldId), Ends ([.reg Reg.INJ_ARITH.ARM, .reg Reg.INJ_PT.ARM, .reg Reg.INJ_PT.DONE, .ports, .gateway, .sheaf, .mirror, .tally, .hubLost, .thermal, .rimFx] : List Part) (· = f) (fun _ => False) s (exec (.hubLostEntry f) s)) ∧
  (∀ (s : State), Ends ([.events, .hubReg Reg.HUB_INJ_STATUS.PENDING, .hubReg Reg.HUB_INJ_STATUS.RESULT, .hubFx] : List Part) (fun _ => False) (fun _ => False) s (exec (.injReq) s)) ∧
  (∀ (s : State) (value : Nat), Ends ([.events, .hubReg Reg.HUB_INJ_STATUS.OPEN, .hubReg Reg.HUB_INJ_STATUS.PENDING, .hubReg Reg.HUB_INJ_STATUS.RESULT, .hubFx, .health] : List Part) (fun _ => True) (fun _ => False) s (exec (.injValue value) s)) ∧
  (∀ (s : State), Ends (([.events, .hubReg Reg.HUB_INJ_STATUS.OPEN, .hubReg Reg.HUB_INJ_STATUS.PENDING, .hubReg Reg.INJ_HPT.ARM, .hubReg Reg.INJ_HPT.DONE, .hubReg Reg.PWR_MODE_STATUS.HOLD, .hubReg Reg.PWR_MODE_STATUS.HOLD_COUNT, .hubReg Reg.PWR_RAMP_STAT.BALLAST, .hubReg Reg.PWR_RAMP_STAT.GOVERNED, .hubReg Reg.PWR_RAMP_STAT.LIMIT, .power, .hubFx, .reg Reg.INJ_ARITH.ARM, .reg Reg.INJ_PT.ARM, .reg Reg.INJ_PT.DONE, .ports] : List Part) ++ ([.gateway, .sheaf, .mirror, .tally, .thermal, .rimFx] : List Part)) (fun _ => True) (fun _ => False) s (exec (.injLock) s)) ∧
  (∀ (s : State), Ends ([.hubReg Reg.HUB_INJ_STATUS.PENDING] : List Part) (fun _ => False) (fun _ => False) s (exec (.injWindowExpiry) s)) ∧
  (∀ (s : State), Ends ([.hubFx] : List Part) (fun _ => False) (fun _ => False) s (exec (.injHoldoffEnd) s)) ∧
  (∀ (s : State) (f : FieldId) (r : Fin 7), Ends ([.reg Reg.INJ_PT.DONE, .ports, .tally, .rimFx] : List Part) (· = f) (fun _ => False) s (exec (.injEffectEnd (some f) r) s)) ∧
  (∀ (s : State) (r : Fin 7), Ends ([.events, .hubReg Reg.INJ_HPT.DONE, .hubReg Reg.PWR_MODE_STATUS.HOLD, .hubReg Reg.PWR_MODE_STATUS.HOLD_COUNT, .hubReg Reg.PWR_RAMP_STAT.BALLAST, .hubReg Reg.PWR_RAMP_STAT.GOVERNED, .hubReg Reg.PWR_RAMP_STAT.LIMIT, .power, .hubFx, .thermal] : List Part) (fun _ => True) (fun _ => False) s (exec (.injEffectEnd none r) s)) ∧
  (∀ (s : State) (f : FieldId) (target : Fin 256) (arg : Nat), ∀ c ∈ ([.injHbmSymbol f target arg, .injHbmDouble f target arg, .injStoreSingle f target arg, .injStoreDouble f target arg, .injFecSymbols f target arg, .injFlitCrc f target arg, .injRxPower f target arg, .injBeaconId f target arg, .injReqDrop f target arg, .injDefer f target arg, .injRedFull f target arg, .injCombRefuse f target arg] : List Instr) ++
      ([.injDigest f target arg, .injSilent f target arg, .injPieceDrop f target arg, .injDoneDigest f target arg, .injPushStall f target arg, .injBufFull f target arg, .injSkip f target arg, .injOffset f target arg] : List Instr),
      Ends ([.reg Reg.INJ_PT.ARG, .reg Reg.INJ_PT.ARM, .reg Reg.INJ_PT.NOFIRE, .reg Reg.INJ_PT.POINT, .reg Reg.INJ_PT.TARGET] : List Part) (· = f) (fun _ => False) s (exec c s)) ∧
  (∀ (s : State) (f : FieldId) (target : Fin 256) (arg : Nat), Ends (([.events, .hubReg Reg.HUB_FIELD_STATE.HBM0_OK, .hubReg Reg.HUB_FIELD_STATE.HBM1_OK, .hubReg Reg.HUB_FIELD_STATE.STATE, .hubReg Reg.MBX_HUB_IN_META.FULL, .hubReg Reg.MBX_HUB_OUT_ACK.CODE, .hubReg Reg.MBX_HUB_OUT_ACK.DONE, .hubReg Reg.MBX_HUB_OUT_META.PENDING, .hubSlots, .store, .bin, .storeErr, .binErr, .reg Reg.INJ_PT.ARG, .reg Reg.INJ_PT.ARM, .reg Reg.INJ_PT.DONE] : List Part) ++ ([.reg Reg.INJ_PT.NOFIRE, .reg Reg.INJ_PT.POINT, .reg Reg.INJ_PT.TARGET, .drill, .dr, .queue, .cq, .tine, .samples, .scrub, .notify, .xlines, .boot, .slot, .anyPlotReg, .memu] : List Part) ++ ([.hard, .gateway, .far (.reg Reg.MBX_RIM_IN_META.FULL), .far (.reg Reg.MBX_RIM_OUT_ACK.CODE), .far (.reg Reg.MBX_RIM_OUT_ACK.DONE), .far (.reg Reg.MBX_RIM_OUT_META.PENDING), .far .slot, .far (.plotReg Reg.MBX_PLOT_IN_META.FULL), .far (.plotReg Reg.MBX_PLOT_OUT_ACK.CODE), .far (.plotReg Reg.MBX_PLOT_OUT_ACK.DONE), .far (.plotReg Reg.MBX_PLOT_OUT_META.PENDING), .far .rimSlots] : List Part)) (· = f) (fun _ => True) s (exec (.injStackLost f target arg) s)) ∧
  (∀ (s : State) (f : FieldId) (target : Fin 256) (arg : Nat), Ends (([.events, .out, .reg Reg.INJ_PT.ARG, .reg Reg.INJ_PT.ARM, .reg Reg.INJ_PT.DONE, .reg Reg.INJ_PT.NOFIRE, .reg Reg.INJ_PT.POINT, .reg Reg.INJ_PT.TARGET, .reg Reg.RTE_COMB_STAT.MERGED, .reg Reg.RTE_COMB_STAT.PEAK, .reg Reg.RTE_LINK_CNT.LOST, .reg Reg.RTE_LINK_CNT.NAKS, .reg Reg.RTE_LINK_CNT.REPLAYED, .reg Reg.RTE_LINK_CNT.RETRAINS, .reg Reg.RTE_LINK_CNT.TX_FLITS, .reg Reg.RTE_LINK_CREDIT.RES] : List Part) ++ ([.reg Reg.RTE_LINK_CREDIT.SHARED, .reg Reg.RTE_LINK_STATUS.PRESERVED, .reg Reg.RTE_LINK_STATUS.RESULT, .reg Reg.RTE_LINK_STATUS.STATE, .ports, .router, .health, .tally] : List Part)) (· = f) (fun _ => False) s (exec (.injLaneFail f target arg) s)) ∧
  (∀ (s : State) (f : FieldId) (target : Fin 256) (arg : Nat), Ends (([.events, .out, .reg Reg.HDL_CAL_STAT.ABORTED, .reg Reg.HDL_PORT_STATUS.TX_MODE, .reg Reg.INJ_PT.ARG, .reg Reg.INJ_PT.ARM, .reg Reg.INJ_PT.DONE, .reg Reg.INJ_PT.NOFIRE, .reg Reg.INJ_PT.POINT, .reg Reg.INJ_PT.TARGET, .reg Reg.RTE_COMB_STAT.MERGED, .reg Reg.RTE_COMB_STAT.PEAK, .reg Reg.RTE_LINK_CNT.LOST, .reg Reg.RTE_LINK_CNT.NAKS, .reg Reg.RTE_LINK_CNT.REPLAYED, .reg Reg.RTE_LINK_CNT.RETRAINS] : List Part) ++ ([.reg Reg.RTE_LINK_CNT.TX_FLITS, .reg Reg.RTE_LINK_CREDIT.RES, .reg Reg.RTE_LINK_CREDIT.SHARED, .reg Reg.RTE_LINK_STATUS.PRESERVED, .reg Reg.RTE_LINK_STATUS.RESULT, .reg Reg.RTE_LINK_STATUS.STATE, .ports, .router, .health, .tally, .rimFx] : List Part)) (· = f) (fun _ => False) s (exec (.injRingUnlock f target arg) s)) ∧
  (∀ (s : State) (f : FieldId) (target : Fin 256) (arg : Nat), Ends (([.events, .out, .reg Reg.INJ_PT.ARG, .reg Reg.INJ_PT.ARM, .reg Reg.INJ_PT.DONE, .reg Reg.INJ_PT.NOFIRE, .reg Reg.INJ_PT.POINT, .reg Reg.INJ_PT.TARGET, .reg Reg.RTE_COMB_STAT.MERGED, .reg Reg.RTE_COMB_STAT.PEAK, .reg Reg.RTE_LINK_CNT.LOST, .reg Reg.RTE_LINK_CNT.NAKS, .reg Reg.RTE_LINK_CNT.REPLAYED, .reg Reg.RTE_LINK_CNT.RETRAINS, .reg Reg.RTE_LINK_CNT.TX_FLITS, .reg Reg.RTE_LINK_CREDIT.RES] : List Part) ++ ([.reg Reg.RTE_LINK_CREDIT.SHARED, .reg Reg.RTE_LINK_STATUS.PRESERVED, .reg Reg.RTE_LINK_STATUS.RESULT, .reg Reg.RTE_LINK_STATUS.STATE, .ports, .router, .tally] : List Part)) (· = f) (fun _ => False) s (exec (.injRetrain f target arg) s)) ∧
  (∀ (s : State) (f : FieldId) (target : Fin 256) (arg : Nat), ∀ c ∈ ([.injNoAck f target arg, .injBeatStop f target arg, .injBeaconMute f target arg] : List Instr),
      Ends ([.reg Reg.INJ_PT.ARG, .reg Reg.INJ_PT.ARM, .reg Reg.INJ_PT.DONE, .reg Reg.INJ_PT.NOFIRE, .reg Reg.INJ_PT.POINT, .reg Reg.INJ_PT.TARGET, .ports, .tally, .rimFx] : List Part) (· = f) (fun _ => False) s (exec c s)) ∧
  (∀ (s : State) (f : FieldId) (target : Fin 256) (arg : Nat), ∀ c ∈ ([.injSensorOffset f target arg, .injSensorRamp f target arg] : List Instr),
      Ends ([.reg Reg.INJ_PT.ARG, .reg Reg.INJ_PT.ARM, .reg Reg.INJ_PT.DONE, .reg Reg.INJ_PT.NOFIRE, .reg Reg.INJ_PT.POINT, .reg Reg.INJ_PT.TARGET, .thermal] : List Part) (· = f) (fun _ => False) s (exec c s)) ∧
  (∀ (s : State) (f : FieldId) (target : Fin 256) (arg : Nat), Ends ([.events, .reg Reg.INJ_PT.ARG, .reg Reg.INJ_PT.ARM, .reg Reg.INJ_PT.DONE, .reg Reg.INJ_PT.NOFIRE, .reg Reg.INJ_PT.POINT, .reg Reg.INJ_PT.TARGET, .reg Reg.THM_EVT_CNT.SENSORS, .reg Reg.THM_FIELD_STATUS.BROKEN, .health, .thermal] : List Part) (· = f) (fun _ => False) s (exec (.injSensorBroken f target arg) s)) ∧
  (∀ (s : State) (target : Fin 256) (arg : Nat), Ends ([.events, .hubReg Reg.INJ_HPT.ARG, .hubReg Reg.INJ_HPT.ARM, .hubReg Reg.INJ_HPT.DONE, .hubReg Reg.INJ_HPT.NOFIRE, .hubReg Reg.INJ_HPT.POINT, .hubReg Reg.INJ_HPT.TARGET, .hubReg Reg.PWR_MODE_STATUS.HOLD, .hubReg Reg.PWR_MODE_STATUS.HOLD_COUNT, .hubReg Reg.PWR_RAMP_STAT.BALLAST, .hubReg Reg.PWR_RAMP_STAT.GOVERNED, .hubReg Reg.PWR_RAMP_STAT.LIMIT, .power, .hubFx, .thermal] : List Part) (fun _ => True) (fun _ => False) s (exec (.injPwrWarn target arg) s)) ∧
  (∀ (s : State) (target : Fin 256) (arg : Nat), ∀ c ∈ ([.injPinReading target arg, .injModuleFault target arg, .injMargin target arg] : List Instr),
      Ends ([.hubReg Reg.INJ_HPT.ARG, .hubReg Reg.INJ_HPT.ARM, .hubReg Reg.INJ_HPT.NOFIRE, .hubReg Reg.INJ_HPT.POINT, .hubReg Reg.INJ_HPT.TARGET] : List Part) (fun _ => False) (fun _ => False) s (exec c s)) ∧
  (∀ (s : State) (target : Fin 256) (arg : Nat), Ends ([.hubReg Reg.INJ_HPT.ARG, .hubReg Reg.INJ_HPT.ARM, .hubReg Reg.INJ_HPT.DONE, .hubReg Reg.INJ_HPT.NOFIRE, .hubReg Reg.INJ_HPT.POINT, .hubReg Reg.INJ_HPT.TARGET, .power] : List Part) (fun _ => False) (fun _ => False) s (exec (.injPinBroken target arg) s)) ∧
  (∀ (s : State) (target : Fin 256) (arg : Nat), Ends ([.hubReg Reg.INJ_HPT.ARG, .hubReg Reg.INJ_HPT.ARM, .hubReg Reg.INJ_HPT.DONE, .hubReg Reg.INJ_HPT.NOFIRE, .hubReg Reg.INJ_HPT.POINT, .hubReg Reg.INJ_HPT.TARGET, .hubLost] : List Part) (fun _ => True) (fun _ => False) s (exec (.injHeartbeatStop target arg) s)) ∧
  (∀ (s : State) (target : Fin 256) (arg : Nat), Ends ([.free, .events, .out, .hubReg Reg.HUB_HOST_PHY_STATUS.RECOVERIES, .hubReg Reg.HUB_HOST_PHY_STATUS.STATE, .hubReg Reg.HUB_HOST_PHY_STATUS.WIDTH, .hubReg Reg.INJ_HPT.ARG, .hubReg Reg.INJ_HPT.ARM, .hubReg Reg.INJ_HPT.DONE, .hubReg Reg.INJ_HPT.NOFIRE, .hubReg Reg.INJ_HPT.POINT, .hubReg Reg.INJ_HPT.TARGET, .hostTx, .host] : List Part) (fun _ => False) (fun _ => False) s (exec (.injHostLaneFail target arg) s)) ∧
  (∀ (s : State) (target : Fin 256) (arg : Nat), Ends (([.events, .out, .hubReg Reg.HDL_HOST_ENGINE.DARK, .hubReg Reg.HDL_HOST_ENGINE.INLET_A_OK, .hubReg Reg.HDL_HOST_ENGINE.INLET_B_OK, .hubReg Reg.HDL_HOST_ENGINE.SRC, .hubReg Reg.HDL_HOST_ENGINE.SWITCHING, .hubReg Reg.HDL_MODULE.OUTPUT_ON, .hubReg Reg.HDL_MODULE.PROBE_FAIL, .hubReg Reg.HUB_HOST_PHY_STATUS.STATE, .hubReg Reg.HUB_HOST_PHY_STATUS.WIDTH, .hubReg Reg.INJ_HPT.ARG, .hubReg Reg.INJ_HPT.ARM, .hubReg Reg.INJ_HPT.DONE, .hubReg Reg.INJ_HPT.NOFIRE, .hubReg Reg.INJ_HPT.POINT] : List Part) ++ ([.hubReg Reg.INJ_HPT.TARGET, .light, .host, .reg Reg.HDL_ENGINE_STATUS.DARK, .reg Reg.HDL_ENGINE_STATUS.INLET_A_OK, .reg Reg.HDL_ENGINE_STATUS.INLET_B_OK, .reg Reg.HDL_ENGINE_STATUS.SRC, .reg Reg.HDL_ENGINE_STATUS.SWITCHING, .reg Reg.INJ_PT.ARM, .reg Reg.INJ_PT.DONE, .reg Reg.RTE_COMB_STAT.MERGED, .reg Reg.RTE_COMB_STAT.PEAK, .reg Reg.RTE_LINK_CNT.LOST, .reg Reg.RTE_LINK_CNT.NAKS, .reg Reg.RTE_LINK_CNT.REPLAYED, .reg Reg.RTE_LINK_CNT.TX_FLITS] : List Part) ++ ([.reg Reg.RTE_LINK_CREDIT.RES, .reg Reg.RTE_LINK_CREDIT.SHARED, .reg Reg.RTE_LINK_STATUS.PRESERVED, .reg Reg.RTE_LINK_STATUS.RESULT, .reg Reg.RTE_LINK_STATUS.STATE, .ports, .router, .tally] : List Part)) (fun _ => True) (fun _ => False) s (exec (.injInletDrop target arg) s))
end

