-- ==== Sys2Proof/Laws/State.lean ====
section
/-! SUPPORT. The small lemmas of the state: what each update of one part leaves in every other, by definition; and what a
register field reads after a write of it, or of another. -/

namespace Sys2Proof.Machine

open Sys2Proof

@[simp] theorem State.updField_pending (s : State) (f : FieldId) (g : Field → Field) : (s.updField f g).pending = s.pending := rfl

@[simp] theorem State.updField_free (s : State) (f : FieldId) (g : Field → Field) : (s.updField f g).free = s.free := rfl

@[simp] theorem State.updField_now (s : State) (f : FieldId) (g : Field → Field) : (s.updField f g).now = s.now := rfl

@[simp] theorem State.updField_hub (s : State) (f : FieldId) (g : Field → Field) : (s.updField f g).hub = s.hub := rfl

@[simp] theorem State.updField_mem (s : State) (f : FieldId) (g : Field → Field) : (s.updField f g).mem = s.mem := rfl

@[simp] theorem State.updField_events (s : State) (f : FieldId) (g : Field → Field) : (s.updField f g).events = s.events := rfl

@[simp] theorem State.updField_out (s : State) (f : FieldId) (g : Field → Field) : (s.updField f g).out = s.out := rfl

@[simp] theorem State.updHub_pending (s : State) (g : Hub → Hub) : (s.updHub g).pending = s.pending := rfl

@[simp] theorem State.updHub_free (s : State) (g : Hub → Hub) : (s.updHub g).free = s.free := rfl

@[simp] theorem State.updHub_now (s : State) (g : Hub → Hub) : (s.updHub g).now = s.now := rfl

@[simp] theorem State.updHub_fields (s : State) (g : Hub → Hub) : (s.updHub g).fields = s.fields := rfl

@[simp] theorem State.updHub_mem (s : State) (g : Hub → Hub) : (s.updHub g).mem = s.mem := rfl

@[simp] theorem State.updHub_events (s : State) (g : Hub → Hub) : (s.updHub g).events = s.events := rfl

@[simp] theorem State.updHub_out (s : State) (g : Hub → Hub) : (s.updHub g).out = s.out := rfl

@[simp] theorem State.updMem_pending (s : State) (g : Memories → Memories) : (s.updMem g).pending = s.pending := rfl

@[simp] theorem State.updMem_free (s : State) (g : Memories → Memories) : (s.updMem g).free = s.free := rfl

@[simp] theorem State.updMem_now (s : State) (g : Memories → Memories) : (s.updMem g).now = s.now := rfl

@[simp] theorem State.updMem_hub (s : State) (g : Memories → Memories) : (s.updMem g).hub = s.hub := rfl

@[simp] theorem State.updMem_fields (s : State) (g : Memories → Memories) : (s.updMem g).fields = s.fields := rfl

@[simp] theorem State.updMem_events (s : State) (g : Memories → Memories) : (s.updMem g).events = s.events := rfl

@[simp] theorem State.updMem_out (s : State) (g : Memories → Memories) : (s.updMem g).out = s.out := rfl

@[simp] theorem State.emit_pending (s : State) (o : Output) : (s.emit o).pending = s.pending := rfl

@[simp] theorem State.emit_free (s : State) (o : Output) : (s.emit o).free = s.free := rfl

@[simp] theorem State.emit_now (s : State) (o : Output) : (s.emit o).now = s.now := rfl

@[simp] theorem State.emit_hub (s : State) (o : Output) : (s.emit o).hub = s.hub := rfl

@[simp] theorem State.emit_fields (s : State) (o : Output) : (s.emit o).fields = s.fields := rfl

@[simp] theorem State.emit_mem (s : State) (o : Output) : (s.emit o).mem = s.mem := rfl

@[simp] theorem State.emit_events (s : State) (o : Output) : (s.emit o).events = s.events := rfl

@[simp] theorem State.raise_pending (s : State) (f : FieldId) (e : EvKind) (p : List (Nat × Nat)) (i : Bool) : (s.raise f e p i).pending = s.pending := rfl

@[simp] theorem State.raise_free (s : State) (f : FieldId) (e : EvKind) (p : List (Nat × Nat)) (i : Bool) : (s.raise f e p i).free = s.free := rfl

@[simp] theorem State.raise_now (s : State) (f : FieldId) (e : EvKind) (p : List (Nat × Nat)) (i : Bool) : (s.raise f e p i).now = s.now := rfl

@[simp] theorem State.raise_hub (s : State) (f : FieldId) (e : EvKind) (p : List (Nat × Nat)) (i : Bool) : (s.raise f e p i).hub = s.hub := rfl

@[simp] theorem State.raise_fields (s : State) (f : FieldId) (e : EvKind) (p : List (Nat × Nat)) (i : Bool) : (s.raise f e p i).fields = s.fields := rfl

@[simp] theorem State.raise_mem (s : State) (f : FieldId) (e : EvKind) (p : List (Nat × Nat)) (i : Bool) : (s.raise f e p i).mem = s.mem := rfl

@[simp] theorem State.raise_out (s : State) (f : FieldId) (e : EvKind) (p : List (Nat × Nat)) (i : Bool) : (s.raise f e p i).out = s.out := rfl

@[simp] theorem State.raiseHub_pending (s : State) (e : EvKind) (p : List (Nat × Nat)) (i : Bool) : (s.raiseHub e p i).pending = s.pending := rfl

@[simp] theorem State.raiseHub_free (s : State) (e : EvKind) (p : List (Nat × Nat)) (i : Bool) : (s.raiseHub e p i).free = s.free := rfl

@[simp] theorem State.raiseHub_now (s : State) (e : EvKind) (p : List (Nat × Nat)) (i : Bool) : (s.raiseHub e p i).now = s.now := rfl

@[simp] theorem State.raiseHub_hub (s : State) (e : EvKind) (p : List (Nat × Nat)) (i : Bool) : (s.raiseHub e p i).hub = s.hub := rfl

@[simp] theorem State.raiseHub_fields (s : State) (e : EvKind) (p : List (Nat × Nat)) (i : Bool) : (s.raiseHub e p i).fields = s.fields := rfl

@[simp] theorem State.raiseHub_mem (s : State) (e : EvKind) (p : List (Nat × Nat)) (i : Bool) : (s.raiseHub e p i).mem = s.mem := rfl

@[simp] theorem State.raiseHub_out (s : State) (e : EvKind) (p : List (Nat × Nat)) (i : Bool) : (s.raiseHub e p i).out = s.out := rfl

@[simp] theorem State.hset_pending (s : State) (k : RegField) (v n i : Nat) : (s.hset k v n i).pending = s.pending := rfl

@[simp] theorem State.hset_free (s : State) (k : RegField) (v n i : Nat) : (s.hset k v n i).free = s.free := rfl

@[simp] theorem State.hset_now (s : State) (k : RegField) (v n i : Nat) : (s.hset k v n i).now = s.now := rfl

@[simp] theorem State.hset_fields (s : State) (k : RegField) (v n i : Nat) : (s.hset k v n i).fields = s.fields := rfl

@[simp] theorem State.hset_mem (s : State) (k : RegField) (v n i : Nat) : (s.hset k v n i).mem = s.mem := rfl

@[simp] theorem State.hset_events (s : State) (k : RegField) (v n i : Nat) : (s.hset k v n i).events = s.events := rfl

@[simp] theorem State.hset_out (s : State) (k : RegField) (v n i : Nat) : (s.hset k v n i).out = s.out := rfl

@[simp] theorem State.fset_pending (s : State) (f : FieldId) (k : RegField) (v n i : Nat) : (s.fset f k v n i).pending = s.pending := rfl

@[simp] theorem State.fset_free (s : State) (f : FieldId) (k : RegField) (v n i : Nat) : (s.fset f k v n i).free = s.free := rfl

@[simp] theorem State.fset_now (s : State) (f : FieldId) (k : RegField) (v n i : Nat) : (s.fset f k v n i).now = s.now := rfl

@[simp] theorem State.fset_hub (s : State) (f : FieldId) (k : RegField) (v n i : Nat) : (s.fset f k v n i).hub = s.hub := rfl

@[simp] theorem State.fset_mem (s : State) (f : FieldId) (k : RegField) (v n i : Nat) : (s.fset f k v n i).mem = s.mem := rfl

@[simp] theorem State.fset_events (s : State) (f : FieldId) (k : RegField) (v n i : Nat) : (s.fset f k v n i).events = s.events := rfl

@[simp] theorem State.fset_out (s : State) (f : FieldId) (k : RegField) (v n i : Nat) : (s.fset f k v n i).out = s.out := rfl

@[simp] theorem State.updPlot_pending (s : State) (f : FieldId) (p : PlotId) (g : Plot → Plot) : (s.updPlot f p g).pending = s.pending := rfl

@[simp] theorem State.updPlot_free (s : State) (f : FieldId) (p : PlotId) (g : Plot → Plot) : (s.updPlot f p g).free = s.free := rfl

@[simp] theorem State.updPlot_now (s : State) (f : FieldId) (p : PlotId) (g : Plot → Plot) : (s.updPlot f p g).now = s.now := rfl

@[simp] theorem State.updPlot_hub (s : State) (f : FieldId) (p : PlotId) (g : Plot → Plot) : (s.updPlot f p g).hub = s.hub := rfl

@[simp] theorem State.updPlot_mem (s : State) (f : FieldId) (p : PlotId) (g : Plot → Plot) : (s.updPlot f p g).mem = s.mem := rfl

@[simp] theorem State.updPlot_events (s : State) (f : FieldId) (p : PlotId) (g : Plot → Plot) : (s.updPlot f p g).events = s.events := rfl

@[simp] theorem State.updPlot_out (s : State) (f : FieldId) (p : PlotId) (g : Plot → Plot) : (s.updPlot f p g).out = s.out := rfl

@[simp] theorem State.pset_pending (s : State) (f : FieldId) (p : PlotId) (k : RegField) (v : Nat) : (s.pset f p k v).pending = s.pending := rfl

@[simp] theorem State.pset_free (s : State) (f : FieldId) (p : PlotId) (k : RegField) (v : Nat) : (s.pset f p k v).free = s.free := rfl

@[simp] theorem State.pset_now (s : State) (f : FieldId) (p : PlotId) (k : RegField) (v : Nat) : (s.pset f p k v).now = s.now := rfl

@[simp] theorem State.pset_hub (s : State) (f : FieldId) (p : PlotId) (k : RegField) (v : Nat) : (s.pset f p k v).hub = s.hub := rfl

@[simp] theorem State.pset_mem (s : State) (f : FieldId) (p : PlotId) (k : RegField) (v : Nat) : (s.pset f p k v).mem = s.mem := rfl

@[simp] theorem State.pset_events (s : State) (f : FieldId) (p : PlotId) (k : RegField) (v : Nat) : (s.pset f p k v).events = s.events := rfl

@[simp] theorem State.pset_out (s : State) (f : FieldId) (p : PlotId) (k : RegField) (v : Nat) : (s.pset f p k v).out = s.out := rfl

@[simp] theorem State.updMemu_pending (s : State) (f : FieldId) (g : FieldMem → FieldMem) : (s.updMemu f g).pending = s.pending := rfl

@[simp] theorem State.updMemu_free (s : State) (f : FieldId) (g : FieldMem → FieldMem) : (s.updMemu f g).free = s.free := rfl

@[simp] theorem State.updMemu_now (s : State) (f : FieldId) (g : FieldMem → FieldMem) : (s.updMemu f g).now = s.now := rfl

@[simp] theorem State.updMemu_hub (s : State) (f : FieldId) (g : FieldMem → FieldMem) : (s.updMemu f g).hub = s.hub := rfl

@[simp] theorem State.updMemu_mem (s : State) (f : FieldId) (g : FieldMem → FieldMem) : (s.updMemu f g).mem = s.mem := rfl

@[simp] theorem State.updMemu_events (s : State) (f : FieldId) (g : FieldMem → FieldMem) : (s.updMemu f g).events = s.events := rfl

@[simp] theorem State.updMemu_out (s : State) (f : FieldId) (g : FieldMem → FieldMem) : (s.updMemu f g).out = s.out := rfl

@[simp] theorem State.updHub_hub (s : State) (g : Hub → Hub) : (s.updHub g).hub = g s.hub := rfl

@[simp] theorem State.updMem_mem (s : State) (g : Memories → Memories) : (s.updMem g).mem = g s.mem := rfl

@[simp] theorem State.emit_out (s : State) (o : Output) : (s.emit o).out = s.out ++ [o] := rfl

@[simp] theorem State.raise_events (s : State) (f : FieldId) (e : EvKind) (p : List (Nat × Nat)) (i : Bool) :
    (s.raise f e p i).events = s.events ++ [⟨some f, e.num, e.fldCls, pay p, i⟩] := rfl

@[simp] theorem State.raiseHub_events (s : State) (e : EvKind) (p : List (Nat × Nat)) (i : Bool) :
    (s.raiseHub e p i).events = s.events ++ [⟨none, e.num, e.hubCls, pay p, i⟩] := rfl

@[simp] theorem State.updHub_field (s : State) (g : Hub → Hub) (h : FieldId) : (s.updHub g).field h = s.field h := rfl

@[simp] theorem State.updMem_field (s : State) (g : Memories → Memories) (h : FieldId) : (s.updMem g).field h = s.field h := rfl

@[simp] theorem State.emit_field (s : State) (o : Output) (h : FieldId) : (s.emit o).field h = s.field h := rfl

@[simp] theorem State.raise_field (s : State) (f : FieldId) (e : EvKind) (p : List (Nat × Nat)) (i : Bool) (h : FieldId) : (s.raise f e p i).field h = s.field h := rfl

@[simp] theorem State.raiseHub_field (s : State) (e : EvKind) (p : List (Nat × Nat)) (i : Bool) (h : FieldId) : (s.raiseHub e p i).field h = s.field h := rfl

@[simp] theorem State.hset_field (s : State) (k : RegField) (v n i : Nat) (h : FieldId) : (s.hset k v n i).field h = s.field h := rfl

@[simp] theorem Hub.setReg_msixDue (H : Hub) (k : RegField) (v n i : Nat) : (H.setReg k v n i).msixDue = H.msixDue := rfl

@[simp] theorem Hub.setReg_msixSent (H : Hub) (k : RegField) (v n i : Nat) : (H.setReg k v n i).msixSent = H.msixSent := rfl

@[simp] theorem Hub.setReg_light (H : Hub) (k : RegField) (v n i : Nat) : (H.setReg k v n i).light = H.light := rfl

@[simp] theorem Hub.setReg_hostTx (H : Hub) (k : RegField) (v n i : Nat) : (H.setReg k v n i).hostTx = H.hostTx := rfl

@[simp] theorem Hub.setReg_linksBegun (H : Hub) (k : RegField) (v n i : Nat) : (H.setReg k v n i).linksBegun = H.linksBegun := rfl

@[simp] theorem Hub.setReg_tally (H : Hub) (k : RegField) (v n i : Nat) : (H.setReg k v n i).tally = H.tally := rfl

@[simp] theorem Hub.setReg_pulseDue (H : Hub) (k : RegField) (v n i : Nat) : (H.setReg k v n i).pulseDue = H.pulseDue := rfl
@[simp] theorem Hub.setReg_pulseEnd (H : Hub) (k : RegField) (v n i : Nat) : (H.setReg k v n i).pulseEnd = H.pulseEnd := rfl
@[simp] theorem Hub.setReg_servo (H : Hub) (k : RegField) (v n i : Nat) : (H.setReg k v n i).servo = H.servo := rfl

@[simp] theorem Hub.setReg_cal (H : Hub) (k : RegField) (v n i : Nat) : (H.setReg k v n i).cal = H.cal := rfl

@[simp] theorem Hub.setReg_seed (H : Hub) (k : RegField) (v n i : Nat) : (H.setReg k v n i).seed = H.seed := rfl

@[simp] theorem Hub.setReg_host (H : Hub) (k : RegField) (v n i : Nat) : (H.setReg k v n i).host = H.host := rfl

@[simp] theorem Hub.setReg_yarzinEvents (H : Hub) (k : RegField) (v n i : Nat) : (H.setReg k v n i).yarzinEvents = H.yarzinEvents := rfl

@[simp] theorem Hub.setReg_slots (H : Hub) (k : RegField) (v n i : Nat) : (H.setReg k v n i).slots = H.slots := rfl

@[simp] theorem Hub.setReg_pwr (H : Hub) (k : RegField) (v n i : Nat) : (H.setReg k v n i).pwr = H.pwr := rfl

@[simp] theorem Hub.setReg_fx (H : Hub) (k : RegField) (v n i : Nat) : (H.setReg k v n i).fx = H.fx := rfl

@[simp] theorem Hub.setReg_injHold (H : Hub) (k : RegField) (v n i : Nat) : (H.setReg k v n i).injHold = H.injHold := rfl

@[simp] theorem State.hset_hub_msixDue (s : State) (k : RegField) (v n i : Nat) : (s.hset k v n i).hub.msixDue = s.hub.msixDue := rfl

@[simp] theorem State.hset_hub_msixSent (s : State) (k : RegField) (v n i : Nat) : (s.hset k v n i).hub.msixSent = s.hub.msixSent := rfl

@[simp] theorem State.hset_hub_light (s : State) (k : RegField) (v n i : Nat) : (s.hset k v n i).hub.light = s.hub.light := rfl

@[simp] theorem State.hset_hub_hostTx (s : State) (k : RegField) (v n i : Nat) : (s.hset k v n i).hub.hostTx = s.hub.hostTx := rfl

@[simp] theorem State.hset_hub_linksBegun (s : State) (k : RegField) (v n i : Nat) : (s.hset k v n i).hub.linksBegun = s.hub.linksBegun := rfl

@[simp] theorem State.hset_hub_tally (s : State) (k : RegField) (v n i : Nat) : (s.hset k v n i).hub.tally = s.hub.tally := rfl

@[simp] theorem State.hset_hub_pulseDue (s : State) (k : RegField) (v n i : Nat) : (s.hset k v n i).hub.pulseDue = s.hub.pulseDue := rfl
@[simp] theorem State.hset_hub_pulseEnd (s : State) (k : RegField) (v n i : Nat) : (s.hset k v n i).hub.pulseEnd = s.hub.pulseEnd := rfl
@[simp] theorem State.hset_hub_servo (s : State) (k : RegField) (v n i : Nat) : (s.hset k v n i).hub.servo = s.hub.servo := rfl

@[simp] theorem State.hset_hub_cal (s : State) (k : RegField) (v n i : Nat) : (s.hset k v n i).hub.cal = s.hub.cal := rfl

@[simp] theorem State.hset_hub_seed (s : State) (k : RegField) (v n i : Nat) : (s.hset k v n i).hub.seed = s.hub.seed := rfl

@[simp] theorem State.hset_hub_host (s : State) (k : RegField) (v n i : Nat) : (s.hset k v n i).hub.host = s.hub.host := rfl

@[simp] theorem State.hset_hub_yarzinEvents (s : State) (k : RegField) (v n i : Nat) : (s.hset k v n i).hub.yarzinEvents = s.hub.yarzinEvents := rfl

@[simp] theorem State.hset_hub_slots (s : State) (k : RegField) (v n i : Nat) : (s.hset k v n i).hub.slots = s.hub.slots := rfl

@[simp] theorem State.hset_hub_pwr (s : State) (k : RegField) (v n i : Nat) : (s.hset k v n i).hub.pwr = s.hub.pwr := rfl

@[simp] theorem State.hset_hub_fx (s : State) (k : RegField) (v n i : Nat) : (s.hset k v n i).hub.fx = s.hub.fx := rfl

@[simp] theorem State.hset_hub_injHold (s : State) (k : RegField) (v n i : Nat) : (s.hset k v n i).hub.injHold = s.hub.injHold := rfl

@[simp] theorem Field.setReg_plots (F : Field) (k : RegField) (v n i : Nat) : (F.setReg k v n i).plots = F.plots := rfl

@[simp] theorem Field.setReg_memu (F : Field) (k : RegField) (v n i : Nat) : (F.setReg k v n i).memu = F.memu := rfl

@[simp] theorem Field.setReg_drift (F : Field) (k : RegField) (v n i : Nat) : (F.setReg k v n i).drift = F.drift := rfl

@[simp] theorem Field.setReg_binCorrected (F : Field) (k : RegField) (v n i : Nat) : (F.setReg k v n i).binCorrected = F.binCorrected := rfl

@[simp] theorem Field.setReg_ports (F : Field) (k : RegField) (v n i : Nat) : (F.setReg k v n i).ports = F.ports := rfl

@[simp] theorem Field.setReg_lastRaise (F : Field) (k : RegField) (v n i : Nat) : (F.setReg k v n i).lastRaise = F.lastRaise := rfl

@[simp] theorem Field.setReg_router (F : Field) (k : RegField) (v n i : Nat) : (F.setReg k v n i).router = F.router := rfl

@[simp] theorem Field.setReg_gw (F : Field) (k : RegField) (v n i : Nat) : (F.setReg k v n i).gw = F.gw := rfl

@[simp] theorem Field.setReg_shf (F : Field) (k : RegField) (v n i : Nat) : (F.setReg k v n i).shf = F.shf := rfl

@[simp] theorem Field.setReg_witEvents (F : Field) (k : RegField) (v n i : Nat) : (F.setReg k v n i).witEvents = F.witEvents := rfl

@[simp] theorem Field.setReg_binUncorrected (F : Field) (k : RegField) (v n i : Nat) : (F.setReg k v n i).binUncorrected = F.binUncorrected := rfl

@[simp] theorem Field.setReg_hardDue (F : Field) (k : RegField) (v n i : Nat) : (F.setReg k v n i).hardDue = F.hardDue := rfl

@[simp] theorem Field.setReg_hlt (F : Field) (k : RegField) (v n i : Nat) : (F.setReg k v n i).hlt = F.hlt := rfl

@[simp] theorem Field.setReg_mir (F : Field) (k : RegField) (v n i : Nat) : (F.setReg k v n i).mir = F.mir := rfl

@[simp] theorem Field.setReg_tally (F : Field) (k : RegField) (v n i : Nat) : (F.setReg k v n i).tally = F.tally := rfl

@[simp] theorem Field.setReg_mgmtq (F : Field) (k : RegField) (v n i : Nat) : (F.setReg k v n i).mgmtq = F.mgmtq := rfl

@[simp] theorem Field.setReg_sow (F : Field) (k : RegField) (v n i : Nat) : (F.setReg k v n i).sow = F.sow := rfl

@[simp] theorem Field.setReg_fwdQueue (F : Field) (k : RegField) (v n i : Nat) : (F.setReg k v n i).fwdQueue = F.fwdQueue := rfl

@[simp] theorem Field.setReg_hubLost (F : Field) (k : RegField) (v n i : Nat) : (F.setReg k v n i).hubLost = F.hubLost := rfl

@[simp] theorem Field.setReg_missed (F : Field) (k : RegField) (v n i : Nat) : (F.setReg k v n i).missed = F.missed := rfl

@[simp] theorem Field.setReg_hbStopped (F : Field) (k : RegField) (v n i : Nat) : (F.setReg k v n i).hbStopped = F.hbStopped := rfl

@[simp] theorem Field.setReg_held (F : Field) (k : RegField) (v n i : Nat) : (F.setReg k v n i).held = F.held := rfl

@[simp] theorem Field.setReg_slotFld (F : Field) (k : RegField) (v n i : Nat) : (F.setReg k v n i).slotFld = F.slotFld := rfl

@[simp] theorem Field.setReg_slotRimp (F : Field) (k : RegField) (v n i : Nat) : (F.setReg k v n i).slotRimp = F.slotRimp := rfl

@[simp] theorem Field.setReg_thm (F : Field) (k : RegField) (v n i : Nat) : (F.setReg k v n i).thm = F.thm := rfl

@[simp] theorem Field.setReg_fx (F : Field) (k : RegField) (v n i : Nat) : (F.setReg k v n i).fx = F.fx := rfl

@[simp] theorem Field.updPlot_memu (F : Field) (p : Nat) (g : Plot → Plot) : (F.updPlot p g).memu = F.memu := rfl

@[simp] theorem Field.updPlot_drift (F : Field) (p : Nat) (g : Plot → Plot) : (F.updPlot p g).drift = F.drift := rfl

@[simp] theorem Field.updPlot_binCorrected (F : Field) (p : Nat) (g : Plot → Plot) : (F.updPlot p g).binCorrected = F.binCorrected := rfl

@[simp] theorem Field.updPlot_ports (F : Field) (p : Nat) (g : Plot → Plot) : (F.updPlot p g).ports = F.ports := rfl

@[simp] theorem Field.updPlot_lastRaise (F : Field) (p : Nat) (g : Plot → Plot) : (F.updPlot p g).lastRaise = F.lastRaise := rfl

@[simp] theorem Field.updPlot_router (F : Field) (p : Nat) (g : Plot → Plot) : (F.updPlot p g).router = F.router := rfl

@[simp] theorem Field.updPlot_gw (F : Field) (p : Nat) (g : Plot → Plot) : (F.updPlot p g).gw = F.gw := rfl

@[simp] theorem Field.updPlot_shf (F : Field) (p : Nat) (g : Plot → Plot) : (F.updPlot p g).shf = F.shf := rfl

@[simp] theorem Field.updPlot_witEvents (F : Field) (p : Nat) (g : Plot → Plot) : (F.updPlot p g).witEvents = F.witEvents := rfl

@[simp] theorem Field.updPlot_binUncorrected (F : Field) (p : Nat) (g : Plot → Plot) : (F.updPlot p g).binUncorrected = F.binUncorrected := rfl

@[simp] theorem Field.updPlot_hardDue (F : Field) (p : Nat) (g : Plot → Plot) : (F.updPlot p g).hardDue = F.hardDue := rfl

@[simp] theorem Field.updPlot_hlt (F : Field) (p : Nat) (g : Plot → Plot) : (F.updPlot p g).hlt = F.hlt := rfl

@[simp] theorem Field.updPlot_mir (F : Field) (p : Nat) (g : Plot → Plot) : (F.updPlot p g).mir = F.mir := rfl

@[simp] theorem Field.updPlot_tally (F : Field) (p : Nat) (g : Plot → Plot) : (F.updPlot p g).tally = F.tally := rfl

@[simp] theorem Field.updPlot_mgmtq (F : Field) (p : Nat) (g : Plot → Plot) : (F.updPlot p g).mgmtq = F.mgmtq := rfl

@[simp] theorem Field.updPlot_sow (F : Field) (p : Nat) (g : Plot → Plot) : (F.updPlot p g).sow = F.sow := rfl

@[simp] theorem Field.updPlot_fwdQueue (F : Field) (p : Nat) (g : Plot → Plot) : (F.updPlot p g).fwdQueue = F.fwdQueue := rfl

@[simp] theorem Field.updPlot_hubLost (F : Field) (p : Nat) (g : Plot → Plot) : (F.updPlot p g).hubLost = F.hubLost := rfl

@[simp] theorem Field.updPlot_missed (F : Field) (p : Nat) (g : Plot → Plot) : (F.updPlot p g).missed = F.missed := rfl

@[simp] theorem Field.updPlot_hbStopped (F : Field) (p : Nat) (g : Plot → Plot) : (F.updPlot p g).hbStopped = F.hbStopped := rfl

@[simp] theorem Field.updPlot_held (F : Field) (p : Nat) (g : Plot → Plot) : (F.updPlot p g).held = F.held := rfl

@[simp] theorem Field.updPlot_slotFld (F : Field) (p : Nat) (g : Plot → Plot) : (F.updPlot p g).slotFld = F.slotFld := rfl

@[simp] theorem Field.updPlot_slotRimp (F : Field) (p : Nat) (g : Plot → Plot) : (F.updPlot p g).slotRimp = F.slotRimp := rfl

@[simp] theorem Field.updPlot_thm (F : Field) (p : Nat) (g : Plot → Plot) : (F.updPlot p g).thm = F.thm := rfl

@[simp] theorem Field.updPlot_fx (F : Field) (p : Nat) (g : Plot → Plot) : (F.updPlot p g).fx = F.fx := rfl

@[simp] theorem Field.updPlot_regs (F : Field) (p : Nat) (g : Plot → Plot) : (F.updPlot p g).regs = F.regs := rfl

@[simp] theorem Plot.setReg_drill (P : Plot) (k : RegField) (v n i : Nat) : (P.setReg k v n i).drill = P.drill := rfl

@[simp] theorem Plot.setReg_dr (P : Plot) (k : RegField) (v n i : Nat) : (P.setReg k v n i).dr = P.dr := rfl

@[simp] theorem Plot.setReg_nextQsn (P : Plot) (k : RegField) (v n i : Nat) : (P.setReg k v n i).nextQsn = P.nextQsn := rfl

@[simp] theorem Plot.setReg_queue (P : Plot) (k : RegField) (v n i : Nat) : (P.setReg k v n i).queue = P.queue := rfl

@[simp] theorem Plot.setReg_cq (P : Plot) (k : RegField) (v n i : Nat) : (P.setReg k v n i).cq = P.cq := rfl

@[simp] theorem Plot.setReg_tine (P : Plot) (k : RegField) (v n i : Nat) : (P.setReg k v n i).tine = P.tine := rfl

@[simp] theorem Plot.setReg_scnt (P : Plot) (k : RegField) (v n i : Nat) : (P.setReg k v n i).scnt = P.scnt := rfl

@[simp] theorem Plot.setReg_samples (P : Plot) (k : RegField) (v n i : Nat) : (P.setReg k v n i).samples = P.samples := rfl

@[simp] theorem Plot.setReg_scrub (P : Plot) (k : RegField) (v n i : Nat) : (P.setReg k v n i).scrub = P.scrub := rfl

@[simp] theorem Plot.setReg_notify (P : Plot) (k : RegField) (v n i : Nat) : (P.setReg k v n i).notify = P.notify := rfl

@[simp] theorem Plot.setReg_xlines (P : Plot) (k : RegField) (v n i : Nat) : (P.setReg k v n i).xlines = P.xlines := rfl

@[simp] theorem Plot.setReg_xlast (P : Plot) (k : RegField) (v n i : Nat) : (P.setReg k v n i).xlast = P.xlast := rfl

@[simp] theorem Plot.setReg_boot (P : Plot) (k : RegField) (v n i : Nat) : (P.setReg k v n i).boot = P.boot := rfl

@[simp] theorem Plot.setReg_slot (P : Plot) (k : RegField) (v n i : Nat) : (P.setReg k v n i).slot = P.slot := rfl

/-! ### Sparse maps -/

theorem SMap.find_insert {α : Type} (m : SMap α) (j k : Nat) (v : α) :
    SMap.find (SMap.insert m j v) k = if j = k then some v else SMap.find m k := by
  induction m with
  | nil => rfl
  | cons e t ih =>
    obtain ⟨q, x⟩ := e
    simp only [SMap.insert]
    split
    · simp only [SMap.find]; grind
    · split
      · simp only [SMap.find]
      · simp only [SMap.find, ih]; grind

theorem SMap.find_erase {α : Type} (m : SMap α) (j k : Nat) :
    SMap.find (SMap.erase m j) k = if j = k then none else SMap.find m k := by
  induction m with
  | nil => simp [SMap.erase, SMap.find]
  | cons e t ih =>
    obtain ⟨q, x⟩ := e
    simp only [SMap.erase, List.filter] at ih ⊢
    split
    · simp only [SMap.find, ih]
      rename_i h
      simp at h
      grind
    · rename_i h
      simp at h
      simp only [ih, SMap.find]
      grind

/-- A map set at one key reads the value there, and as before elsewhere. -/
theorem SMap.get_set {α : Type} [DecidableEq α] (m : SMap α) (d : α) (j k : Nat) (v : α) :
    SMap.get (SMap.set m d j v) d k = if j = k then v else SMap.get m d k := by
  unfold SMap.get SMap.set
  split
  · rw [SMap.find_erase]; split
    · simp [*]
    · rfl
  · rw [SMap.find_insert]; split <;> simp

theorem SMap.find_set_ne {α : Type} [DecidableEq α] (m : SMap α) (d : α) (j k : Nat) (v : α) (h : j ≠ k) :
    SMap.find (SMap.set m d j v) k = SMap.find m k := by
  unfold SMap.set
  split
  · rw [SMap.find_erase, if_neg h]
  · rw [SMap.find_insert, if_neg h]

/-! ### Canonical form of a sparse map -/

theorem SMap.sorted_tail {α : Type} (e : Nat × α) (t : SMap α) (h : SMap.sorted (e :: t) = true) :
    SMap.sorted t = true := by
  cases t with
  | nil => rfl
  | cons x u => simp only [SMap.sorted, Bool.and_eq_true] at h; exact h.2

theorem SMap.sorted_iff {α : Type} (m : SMap α) : SMap.sorted m = true ↔ (m.map Prod.fst).Pairwise (· < ·) := by
  induction m with
  | nil => simp [SMap.sorted]
  | cons e t ih =>
    cases t with
    | nil => simp [SMap.sorted]
    | cons x u =>
      obtain ⟨k, v⟩ := e
      obtain ⟨k', v'⟩ := x
      simp only [SMap.sorted, Bool.and_eq_true, decide_eq_true_eq, ih, List.map_cons, List.pairwise_cons,
        List.mem_cons, forall_eq_or_imp]
      constructor
      · rintro ⟨hlt, hx, hu⟩
        exact ⟨⟨hlt, fun a ha => lt_trans hlt (hx a ha)⟩, hx, hu⟩
      · rintro ⟨⟨hlt, _⟩, hx, hu⟩
        exact ⟨hlt, hx, hu⟩

theorem SMap.erase_wf {α : Type} [DecidableEq α] (m : SMap α) (d : α) (j : Nat) (h : SMap.wf m d = true) :
    SMap.wf (SMap.erase m j) d = true := by
  simp only [SMap.wf, Bool.and_eq_true, SMap.sorted_iff, List.all_eq_true] at h ⊢
  refine ⟨?_, fun e he => h.2 e (List.mem_of_mem_filter he)⟩
  exact List.Pairwise.sublist (List.Sublist.map _ (List.filter_sublist)) h.1

theorem SMap.insert_keys {α : Type} (m : SMap α) (j : Nat) (v : α) (x : Nat)
    (h : x ∈ (SMap.insert m j v).map Prod.fst) : x = j ∨ x ∈ m.map Prod.fst := by
  induction m with
  | nil => simpa [SMap.insert] using h
  | cons e t ih =>
    obtain ⟨k, y⟩ := e
    simp only [SMap.insert] at h
    split at h
    · simp only [List.map_cons, List.mem_cons] at h ⊢; tauto
    · split at h
      · simp only [List.map_cons, List.mem_cons] at h ⊢; tauto
      · simp only [List.map_cons, List.mem_cons] at h ⊢
        rcases h with h | h
        · tauto
        · rcases ih h with h | h <;> tauto

theorem SMap.insert_wf {α : Type} [DecidableEq α] (m : SMap α) (d : α) (j : Nat) (v : α) (hv : v ≠ d)
    (h : SMap.wf m d = true) : SMap.wf (SMap.insert m j v) d = true := by
  simp only [SMap.wf, Bool.and_eq_true, SMap.sorted_iff, List.all_eq_true] at h ⊢
  obtain ⟨hs, ha⟩ := h
  induction m with
  | nil => simp [SMap.insert, hv]
  | cons e t ih =>
    obtain ⟨k, y⟩ := e
    simp only [List.map_cons, List.pairwise_cons, List.mem_cons, forall_eq_or_imp] at hs ha
    simp only [SMap.insert]
    split
    · rename_i hjk
      subst hjk
      exact ⟨by simpa using hs, by simpa [hv] using ha.2⟩
    · split
      · rename_i hlt
        refine ⟨?_, by simpa [hv] using ha⟩
        simp only [List.map_cons, List.pairwise_cons, List.mem_cons, forall_eq_or_imp]
        exact ⟨⟨hlt, fun a h' => lt_trans hlt (hs.1 a h')⟩, hs.1, hs.2⟩
      · rename_i hne hlt
        obtain ⟨h1, h2⟩ := ih hs.2 ha.2
        refine ⟨?_, List.forall_mem_cons.2 ⟨ha.1, h2⟩⟩
        simp only [List.map_cons, List.pairwise_cons]
        refine ⟨fun a h' => ?_, h1⟩
        rcases SMap.insert_keys t j v a h' with h' | h'
        · omega
        · exact hs.1 a h'

/-- Setting a key keeps the canonical form. -/
theorem SMap.set_wf {α : Type} [DecidableEq α] (m : SMap α) (d : α) (j : Nat) (v : α) (h : SMap.wf m d = true) :
    SMap.wf (SMap.set m d j v) d = true := by
  unfold SMap.set
  split
  · exact SMap.erase_wf m d j h
  · exact SMap.insert_wf m d j v (by assumption) h

theorem Mem.write_wf (m : SMap Byte) (a : Nat) (bs : List Byte) (h : SMap.wf m 0 = true) :
    SMap.wf (Mem.write m a bs) 0 = true := by
  induction bs generalizing m a with
  | nil => exact h
  | cons b bs ih => exact ih _ _ (SMap.set_wf m 0 a b h)

/-! ### Register fields -/

theorem RegField.get_set (rf : SMap Nat) (k : RegField) (n i v : Nat) :
    k.get (k.set rf n i v) n i = v % 2 ^ k.width := by
  unfold RegField.get RegField.set
  rw [SMap.get_set, if_pos rfl]

/-- A write of one register field is not seen in a field at another place. -/
theorem RegField.get_set_ne (rf : SMap Nat) (k k' : RegField) (n i n' i' v : Nat) (h : k.key n i ≠ k'.key n' i') :
    k'.get (k.set rf n i v) n' i' = k'.get rf n' i' := by
  unfold RegField.get RegField.set SMap.get
  rw [SMap.find_set_ne _ _ _ _ _ h]

@[simp] theorem State.hreg_hset (s : State) (k : RegField) (v n i : Nat) :
    (s.hset k v n i).hreg k n i = v % 2 ^ k.width := RegField.get_set _ _ _ _ _

theorem State.hreg_hset_ne (s : State) (k k' : RegField) (v n i n' i' : Nat) (h : k.key n i ≠ k'.key n' i') :
    (s.hset k v n i).hreg k' n' i' = s.hreg k' n' i' := RegField.get_set_ne _ _ _ _ _ _ _ _ h

@[simp] theorem State.field_updField (s : State) (f : FieldId) (g : Field → Field) :
    (s.updField f g).field f = g (s.field f) := by
  simp [State.field, State.updField]

theorem State.field_updField_ne (s : State) (f h : FieldId) (g : Field → Field) (e : f ≠ h) :
    (s.updField f g).field h = s.field h := by
  have e' : f.val ≠ h.val := fun x => e (Fin.ext x)
  simp [State.field, State.updField, Fin.getElem_fin, e']

theorem State.field_updField_if (s : State) (f h : FieldId) (g : Field → Field) :
    (s.updField f g).field h = if f = h then g (s.field f) else s.field h := by
  split
  · subst_vars; simp
  · exact State.field_updField_ne s f h g (by assumption)

@[simp] theorem State.freg_fset (s : State) (f : FieldId) (k : RegField) (v n i : Nat) :
    (s.fset f k v n i).freg f k n i = v % 2 ^ k.width := by
  simp only [State.freg, State.fset, State.field_updField, Field.reg, Field.setReg]
  exact RegField.get_set _ _ _ _ _

theorem State.freg_fset_ne (s : State) (f : FieldId) (k k' : RegField) (v n i n' i' : Nat)
    (h : k.key n i ≠ k'.key n' i') : (s.fset f k v n i).freg f k' n' i' = s.freg f k' n' i' := by
  simp only [State.freg, State.fset, State.field_updField, Field.reg, Field.setReg]
  exact RegField.get_set_ne _ _ _ _ _ _ _ _ h

@[simp] theorem Field.plot_updPlot (F : Field) (p : Nat) (g : Plot → Plot) : (F.updPlot p g).plot p = g (F.plot p) := by
  simp only [Field.plot, Field.updPlot, SMap.get_set, if_pos]

theorem Field.plot_updPlot_ne (F : Field) (p q : Nat) (g : Plot → Plot) (h : p ≠ q) :
    (F.updPlot p g).plot q = F.plot q := by
  simp only [Field.plot, Field.updPlot, SMap.get_set, if_neg h]

@[simp] theorem State.plot_updPlot (s : State) (f : FieldId) (p : PlotId) (g : Plot → Plot) :
    (s.updPlot f p g).plot f p = g (s.plot f p) := by
  simp [State.plot, State.updPlot]

theorem State.plot_updPlot_ne (s : State) (f h : FieldId) (p q : PlotId) (g : Plot → Plot) (e : f ≠ h ∨ p ≠ q) :
    (s.updPlot f p g).plot h q = s.plot h q := by
  simp only [State.plot, State.updPlot, State.field_updField_if]
  split
  · subst_vars
    rcases e with e | e
    · exact absurd rfl e
    · exact Field.plot_updPlot_ne _ _ _ _ (fun x => e (Fin.ext x))
  · rfl

@[simp] theorem State.preg_pset (s : State) (f : FieldId) (p : PlotId) (k : RegField) (v : Nat) :
    (s.pset f p k v).preg f p k = v % 2 ^ k.width := by
  simp only [State.preg, State.pset, State.plot_updPlot, Plot.reg, Plot.setReg]
  exact RegField.get_set _ _ _ _ _

theorem State.preg_pset_ne (s : State) (f h : FieldId) (p q : PlotId) (k k' : RegField) (v : Nat)
    (e : f ≠ h ∨ p ≠ q ∨ k.key 0 0 ≠ k'.key 0 0) : (s.pset f p k v).preg h q k' = s.preg h q k' := by
  simp only [State.preg, State.pset]
  by_cases hp : f ≠ h ∨ p ≠ q
  · rw [State.plot_updPlot_ne _ _ _ _ _ _ hp]
  · simp only [not_or, ne_eq, not_not] at hp
    obtain ⟨rfl, rfl⟩ := hp
    simp only [State.plot_updPlot, Plot.reg, Plot.setReg]
    exact RegField.get_set_ne _ _ _ _ _ _ _ _ (by tauto)

end Sys2Proof.Machine
end

