-- ==== Sys2Proof/Laws/Touch/Base.lean ====
section
/-! SUPPORT. What `Only` gives and how it is shown: it composes along the updates of a meaning, and each primitive update
changes the one part it names. The files beside this one hold one such lemma for every operation over the state. -/

namespace Sys2Proof.Machine

set_option Elab.async false

open Sys2Proof

variable {K L : List Part} {F G : FieldId → Prop} {P Q : PlotId → Prop} {s0 s t : State}

/-! ### Lists of parts -/

/-- Every part of a list is taken in by another. -/
abbrev Fits (l K : List Part) : Prop := l.all (Part.covered K) = true

theorem Fits.mem {l K : List Part} (h : Fits l K) {k : Part} (hk : k ∈ l) : Part.covered K k = true :=
  List.all_eq_true.mp h k hk

theorem Part.wild_wild (k : Part) : k.wild.wild = k.wild := by
  induction k with
  | far k ih => simp only [Part.wild, ih]
  | _ => rfl

theorem Part.perField_wild (k : Part) : k.wild.perField = k.perField := by cases k <;> rfl

theorem Part.perPlot_wild (k : Part) : k.wild.perPlot = k.perPlot := by cases k <;> rfl

theorem Part.farPlot_wild (k : Part) : k.wild.farPlot = k.farPlot := by
  cases k with
  | far k => cases k <;> rfl
  | _ => rfl

theorem Fits.covered {l K : List Part} (h : Fits l K) {k : Part} (hk : Part.covered l k = true) :
    Part.covered K k = true := by
  simp only [Part.covered, Bool.or_eq_true, List.contains_iff_mem] at hk
  rcases hk with hk | hk
  · exact h.mem hk
  · have := h.mem hk
    simp only [Part.covered, Part.wild_wild, Bool.or_self] at this
    simp only [Part.covered, this, Bool.or_true]

theorem Fits.trans {l m K : List Part} (h : Fits l m) (h' : Fits m K) : Fits l K :=
  List.all_eq_true.mpr fun _ hk => h'.covered (h.mem hk)

theorem Fits.refl (K : List Part) : Fits K K :=
  List.all_eq_true.mpr fun k hk => by simp [Part.covered, hk]

theorem keyIn.fits {l K : List Part} (h : Fits l K) {any : Part} {one : RegField → Part} (hw : any.wild = any)
    (ho : ∀ k, (one k).wild = any) {j : Nat} (hj : keyIn l any one j) : keyIn K any one j := by
  rcases hj with hj | ⟨k, n, i, hk, rfl⟩
  · have := h.mem hj
    simp only [Part.covered, hw, Bool.or_self, List.contains_iff_mem] at this
    exact .inl this
  · have := h.mem hk
    simp only [Part.covered, ho, Bool.or_eq_true, List.contains_iff_mem] at this
    exact this.elim (fun x => .inr ⟨k, n, i, x, rfl⟩) .inl

theorem Fits.farPlot {l K : List Part} (h : Fits l K) (hK : K.all (fun k => !k.farPlot) = true) :
    l.all (fun k => !k.farPlot) = true := by
  simp only [List.all_eq_true] at hK ⊢
  intro k hk
  have := h.mem hk
  simp only [Part.covered, Bool.or_eq_true, List.contains_iff_mem] at this
  rcases this with x | x
  · exact hK _ x
  · rw [← Part.farPlot_wild]; exact hK _ x

theorem Fits.perPlot {l K : List Part} (h : Fits l K) (hK : K.all (fun k => !k.perPlot) = true) :
    l.all (fun k => !k.perPlot) = true := by
  simp only [List.all_eq_true] at hK ⊢
  intro k hk
  have := h.mem hk
  simp only [Part.covered, Bool.or_eq_true, List.contains_iff_mem] at this
  rcases this with x | x
  · exact hK _ x
  · rw [← Part.perPlot_wild]; exact hK _ x

theorem keyIn.one {K : List Part} {any : Part} {one : RegField → Part} (ho : ∀ k, (one k).wild = any) (k : RegField)
    (n i : Nat) (h : Part.covered K (one k) = true) : keyIn K any one (k.key n i) := by
  simp only [Part.covered, ho, Bool.or_eq_true, List.contains_iff_mem] at h
  exact h.elim (fun x => .inr ⟨k, n, i, x, rfl⟩) .inl

theorem RegField.find_set_ne (rf : SMap Nat) (k : RegField) (n i v j : Nat) (h : k.key n i ≠ j) :
    SMap.find (k.set rf n i v) j = SMap.find rf j := SMap.find_set_ne _ _ _ _ _ h

theorem Fits.not {l K : List Part} (h : Fits l K) {k : Part} (hk : Part.covered K k = false)
    (hc : Part.covered l k = true) : False := by
  rw [h.covered hc] at hk; exact absurd hk (by decide)

theorem Fits.one_of {l K : List Part} (h : Fits l K) {k : Part} (hk : k ∈ l) : Fits [k] K := by
  simp [Fits, h.mem hk]

theorem Fits.anyHub {K : List Part} (k : RegField) (h : Fits [.anyHubReg] K) : Fits [.hubReg k] K :=
  Fits.trans (by simp [Fits, Part.covered, Part.wild]) h

theorem Fits.anyRim {K : List Part} (k : RegField) (h : Fits [.anyReg] K) : Fits [.reg k] K :=
  Fits.trans (by simp [Fits, Part.covered, Part.wild]) h

theorem Fits.anyPlot {K : List Part} (k : RegField) (h : Fits [.anyPlotReg] K) : Fits [.plotReg k] K :=
  Fits.trans (by simp [Fits, Part.covered, Part.wild]) h

/-! ### How `Only` composes -/

theorem Part.same_refl (k : Part) (f : FieldId) (s : State) : k.same f s s := by
  cases k <;> simp [Part.same, Part.sameHub, Part.sameField, Part.sameMem]

theorem Part.same_trans (k : Part) (f : FieldId) {s t u : State} (h : k.same f s t) (h' : k.same f t u) :
    k.same f s u := by
  cases k <;> simp_all [Part.same, Part.sameHub, Part.sameField, Part.sameMem]

theorem Part.samePlot_refl (k : Part) (X : Plot) : k.samePlot X X := by
  cases k <;> simp [Part.samePlot]

theorem Part.samePlot_trans (k : Part) {X Y Z : Plot} (h : k.samePlot X Y) (h' : k.samePlot Y Z) : k.samePlot X Z := by
  cases k <;> simp_all [Part.samePlot]

theorem Part.sameField_refl (k : Part) (X : Field) : k.sameField X X := by
  cases k <;> simp [Part.sameField]

theorem Part.sameField_trans (k : Part) {X Y Z : Field} (h : k.sameField X Y) (h' : k.sameField Y Z) : k.sameField X Z := by
  cases k <;> simp_all [Part.sameField]

theorem Part.sameHub_refl (k : Part) (X : Hub) : k.sameHub X X := by
  cases k <;> simp [Part.sameHub]

theorem Part.sameHub_trans (k : Part) {X Y Z : Hub} (h : k.sameHub X Y) (h' : k.sameHub Y Z) : k.sameHub X Z := by
  cases k <;> simp_all [Part.sameHub]

theorem Part.sameMem_refl (k : Part) (f : FieldId) (X : Memories) : k.sameMem f X X := by
  cases k <;> simp [Part.sameMem]

theorem Only.refl (K : List Part) (F : FieldId → Prop) (P : PlotId → Prop) (s : State) : Only K F P s s :=
  ⟨rfl, id, fun k f _ _ => k.same_refl f s, fun _ _ => rfl, fun _ _ _ _ => rfl, fun _ _ _ _ => rfl,
    fun k _ _ _ _ => k.samePlot_refl _, fun _ _ _ _ _ => rfl⟩

theorem Only.trans {u : State} (h : Only K F P s t) (h' : Only K F P t u) : Only K F P s u :=
  ⟨h'.pending.trans h.pending, fun w => h'.canon (h.canon w),
    fun k f hf hk => Part.same_trans k f (h.same k f hf hk) (h'.same k f hf hk),
    fun j hj => (h'.hubRegs j hj).trans (h.hubRegs j hj),
    fun f j hf hj => (h'.regs f j hf hj).trans (h.regs f j hf hj),
    fun f p hf hp => (h'.plots f p hf hp).trans (h.plots f p hf hp),
    fun k f p hf hk => Part.samePlot_trans k (h.plot k f p hf hk) (h'.plot k f p hf hk),
    fun f p j hf hj => (h'.plotRegs f p j hf hj).trans (h.plotRegs f p j hf hj)⟩

theorem Fits.notCovered {l K : List Part} (h : Fits l K) (k : Part) (x : Part.covered K k = false) : Part.covered l k = false := by
  cases y : Part.covered l k with
  | false => rfl
  | true => rw [h.covered y] at x; exact absurd x (by decide)

/-- More parts, more fields and more plots say less. -/
theorem Only.mono (h : Only K F P s t) (hK : Fits K L) (hF : ∀ f, F f → G f) (hP : ∀ p, P p → Q p) : Only L G Q s t :=
  ⟨h.pending, h.canon, fun k f hf hk => h.same k f (hK.notCovered _ hf) (hk.imp (hK.notCovered k) (fun x => ⟨x.1, fun y => x.2 (hF f y)⟩)),
    fun j hj => h.hubRegs j (fun x => hj (keyIn.fits (any := .anyHubReg) (one := .hubReg) hK rfl (fun _ => rfl) x)),
    fun f j hf hj => h.regs f j (fun x => hf (keyIn.fits (any := .far .anyReg) (one := fun k => .far (.reg k)) hK rfl (fun _ => rfl) x))
      (hj.imp (fun x y => x (hF f y)) (fun x y => x (keyIn.fits (any := .anyReg) (one := .reg) hK rfl (fun _ => rfl) y))),
    fun f p hf hp => h.plots f p (hK.farPlot hf) (hp.imp (fun x y => x (hF f y)) (Or.imp (fun x y => x (hP p y)) hK.perPlot)),
    fun k f p hf hk => h.plot k f p (hK.notCovered _ hf) (hk.imp (hK.notCovered k) (Or.imp (fun x y => x (hF f y)) (fun x y => x (hP p y)))),
    fun f p j hf hj => h.plotRegs f p j
      (fun x => hf (keyIn.fits (any := .far .anyPlotReg) (one := fun k => .far (.plotReg k)) hK rfl (fun _ => rfl) x))
      (hj.imp (fun x y => x (hF f y)) (Or.imp (fun x y => x (hP p y))
        (fun x y => x (keyIn.fits (any := .anyPlotReg) (one := .plotReg) hK rfl (fun _ => rfl) y))))⟩

/-! ### Parts that change anywhere -/

/-- The part, allowed in every field and every plot. -/
def Part.afar (k : Part) : Part :=
  match k with
  | .far k => .far k
  | k => if k.perField then .far k else k

/-- The part, allowed where a list is confined to. -/
def Part.anear : Part → Part
  | .far k => k
  | k => k

theorem Part.afar_wild (k : Part) : k.wild.afar = k.afar.wild := by
  cases k <;> simp [Part.wild, Part.afar, Part.perField]

theorem Part.afar_global {k : Part} (h : k.perField = false) : k.afar = k := by
  cases k <;> first | rfl | exact Bool.noConfusion h

theorem Part.afar_field {k : Part} (h : k.perField = true) (hn : ∀ x, k ≠ .far x) : k.afar = .far k := by
  cases k <;> first | rfl | exact Bool.noConfusion h | exact absurd rfl (hn _)

theorem Part.afar_noPlot {k : Part} (h : (!k.afar.farPlot) = true) : (!k.farPlot) = true ∧ (!k.perPlot) = true := by
  cases k <;> first | exact ⟨rfl, rfl⟩ | exact Bool.noConfusion h | exact ⟨h, rfl⟩

theorem Fits.afar {l : List Part} (h : Fits (l.map Part.afar) K) {k : Part} (hk : Part.covered l k = true) :
    Part.covered K k.afar = true := by
  simp only [Part.covered, Bool.or_eq_true, List.contains_iff_mem] at hk
  rcases hk with hk | hk
  · exact h.mem (List.mem_map.mpr ⟨k, hk, rfl⟩)
  · have := h.mem (List.mem_map.mpr ⟨_, hk, rfl⟩)
    rw [Part.afar_wild] at this
    simp only [Part.covered, Part.wild_wild, Bool.or_self] at this
    simp only [Part.covered, this, Bool.or_true]

theorem Part.same_far (k : Part) (f : FieldId) (s t : State) : (Part.far k).same f s t := ⟨trivial, trivial, trivial⟩

/-- What one of two lists takes in afar the other does not miss. -/
theorem Fits.afarNot {l : List Part} (h : Fits (l.map Part.afar) K) {k : Part} (hp : k.perField = true)
    (hn : ∀ x, k ≠ .far x) (hf : Part.covered K (.far k) = false) : Part.covered l k = false := by
  cases y : Part.covered l k with
  | false => rfl
  | true =>
    have e : k.afar = .far k := Part.afar_field hp hn
    rw [← e, h.afar y] at hf; exact absurd hf (by decide)

theorem Fits.farNot {l : List Part} (h : Fits (l.map Part.afar) K) {k : Part} (hf : Part.covered K (.far k) = false) :
    Part.covered l (.far k) = false := by
  cases y : Part.covered l (.far k) with
  | false => rfl
  | true => have := h.afar y; simp only [Part.afar] at this; rw [this] at hf; exact absurd hf (by decide)

theorem keyIn.afar {l : List Part} (h : Fits (l.map Part.afar) K) {any : Part} {one : RegField → Part} (ha : any.afar = .far any)
    (ho : ∀ k, (one k).afar = .far (one k)) (hw : any.wild = any) (hv : ∀ k, (one k).wild = any) {j : Nat}
    (hj : keyIn l any one j) : keyIn K (.far any) (fun k => .far (one k)) j := by
  refine keyIn.fits (l := l.map Part.afar) h (any := .far any) (one := fun k => .far (one k)) (by simp only [Part.wild, hw])
    (fun k => by simp only [Part.wild, hv]) ?_
  rcases hj with hj | ⟨k, n, i, hk, rfl⟩
  · exact .inl (List.mem_map.mpr ⟨_, hj, ha⟩)
  · exact .inr ⟨k, n, i, List.mem_map.mpr ⟨_, hk, ho k⟩, rfl⟩

theorem keyIn.farFar {l : List Part} (h : Fits (l.map Part.afar) K) {any : Part} {one : RegField → Part} (hw : any.wild = any)
    (hv : ∀ k, (one k).wild = any) {j : Nat} (hj : keyIn l (.far any) (fun k => .far (one k)) j) :
    keyIn K (.far any) (fun k => .far (one k)) j := by
  refine keyIn.fits (l := l.map Part.afar) h (any := .far any) (one := fun k => .far (one k)) (by simp only [Part.wild, hw])
    (fun k => by simp only [Part.wild, hv]) ?_
  rcases hj with hj | ⟨k, n, i, hk, rfl⟩
  · exact .inl (List.mem_map.mpr ⟨_, hj, rfl⟩)
  · exact .inr ⟨k, n, i, List.mem_map.mpr ⟨_, hk, rfl⟩, rfl⟩

theorem Part.perField_of_perPlot {k : Part} (h : k.perPlot = true) : k.perField = true := by
  cases k <;> first | rfl | exact Bool.noConfusion h

theorem Part.samePlot_of_not {k : Part} (h : k.perPlot = false) (X Y : Plot) : k.samePlot X Y := by
  cases k <;> first | trivial | exact Bool.noConfusion h

/-- What may change anywhere may change in any confinement that lists it as far. -/
theorem Only.far {l : List Part} (h : Only l (fun _ => True) (fun _ => True) s t) (hK : Fits (l.map Part.afar) K) :
    Only K F P s t := by
  have hub : ∀ k : Part, k.perField = false → Part.covered K k = false → Part.covered l k = false := fun k e x => by
    cases y : Part.covered l k with
    | false => rfl
    | true =>
      have e' : k.afar = k := Part.afar_global e
      have := hK.afar y; rw [e', x] at this; exact absurd this (by decide)
  refine ⟨h.pending, h.canon, fun k f hf hk => ?_, fun j hj => ?_, fun f j hf _ => ?_, fun f p hf _ => ?_, fun k f p hf _ => ?_,
    fun f p j hf _ => ?_⟩
  · cases e : k.perField with
    | false => exact h.same k f (hK.farNot hf) (.inl (hub k e (hk.resolve_right (by simp [e]))))
    | true =>
      by_cases hn : ∀ x, k ≠ .far x
      · exact h.same k f (hK.farNot hf) (.inl (hK.afarNot e hn hf))
      · obtain ⟨x, rfl⟩ := not_forall_not.mp hn
        exact Part.same_far x f s t
  · refine h.hubRegs j (fun x => hj (keyIn.fits (l := l.map Part.afar) hK (any := .anyHubReg) (one := .hubReg) rfl (fun _ => rfl) ?_))
    rcases x with x | ⟨k, n, i, hk, rfl⟩
    · exact .inl (List.mem_map.mpr ⟨_, x, rfl⟩)
    · exact .inr ⟨k, n, i, List.mem_map.mpr ⟨_, hk, rfl⟩, rfl⟩
  · exact h.regs f j (fun x => hf (keyIn.farFar hK (any := .anyReg) (one := .reg) rfl (fun _ => rfl) x))
      (.inr (fun x => hf (keyIn.afar hK (any := .anyReg) (one := .reg) rfl (fun _ => rfl) rfl (fun _ => rfl) x)))
  · have hl : ∀ k ∈ l, (!k.farPlot) = true ∧ (!k.perPlot) = true := fun k hk =>
      Part.afar_noPlot (List.all_eq_true.mp (Fits.farPlot hK hf) _ (List.mem_map.mpr ⟨k, hk, rfl⟩))
    exact h.plots f p (List.all_eq_true.mpr fun k hk => (hl k hk).1) (.inr (.inr (List.all_eq_true.mpr fun k hk => (hl k hk).2)))
  · cases e : k.perPlot with
    | false => exact Part.samePlot_of_not e _ _
    | true =>
      exact h.plot k f p (hK.farNot hf)
        (.inl (hK.afarNot (Part.perField_of_perPlot e) (fun x y => by subst y; simp [Part.perPlot] at e) hf))
  · exact h.plotRegs f p j (fun x => hf (keyIn.farFar hK (any := .anyPlotReg) (one := .plotReg) rfl (fun _ => rfl) x))
      (.inr (.inr (fun x => hf (keyIn.afar hK (any := .anyPlotReg) (one := .plotReg) rfl (fun _ => rfl) rfl (fun _ => rfl) x))))

theorem Part.anear_wild (k : Part) : k.wild.anear = k.anear.wild := by cases k <;> rfl

theorem Fits.anear {l : List Part} (h : Fits (l.map Part.anear) K) {k : Part} (hk : Part.covered l k = true) :
    Part.covered K k.anear = true := by
  simp only [Part.covered, Bool.or_eq_true, List.contains_iff_mem] at hk
  rcases hk with hk | hk
  · exact h.mem (List.mem_map.mpr ⟨k, hk, rfl⟩)
  · have := h.mem (List.mem_map.mpr ⟨_, hk, rfl⟩)
    rw [Part.anear_wild] at this
    simp only [Part.covered, Part.wild_wild, Bool.or_self] at this
    simp only [Part.covered, this, Bool.or_true]

theorem Fits.anearNot {l : List Part} (h : Fits (l.map Part.anear) K) {k : Part} (hf : Part.covered K k.anear = false) :
    Part.covered l k = false := by
  cases y : Part.covered l k with
  | false => rfl
  | true => rw [h.anear y] at hf; exact absurd hf (by decide)

theorem keyIn.anear {l : List Part} (h : Fits (l.map Part.anear) K) {any : Part} {one : RegField → Part} (g : Part → Part)
    (ha : (g any).anear = any) (ho : ∀ k, (g (one k)).anear = one k) (hw : any.wild = any)
    (hv : ∀ k, (one k).wild = any) {j : Nat} (hj : keyIn l (g any) (fun k => g (one k)) j) : keyIn K any one j := by
  refine keyIn.fits (l := l.map Part.anear) h (any := any) (one := one) hw hv ?_
  rcases hj with hj | ⟨k, n, i, hk, rfl⟩
  · exact .inl (List.mem_map.mpr ⟨_, hj, ha⟩)
  · exact .inr ⟨k, n, i, List.mem_map.mpr ⟨_, hk, ho k⟩, rfl⟩

/-- Where a list is confined to nothing, far and near are the same. -/
theorem Only.near {l : List Part} (h : Only l (fun _ => True) (fun _ => True) s t) (hK : Fits (l.map Part.anear) K)
    (hF : ∀ f, F f) (hP : ∀ p, P p) : Only K F P s t := by
  have hl : ∀ k ∈ l, K.all (fun k => !k.perPlot) = true → (!k.anear.perPlot) = true := fun k hk e =>
    List.all_eq_true.mp (hK.perPlot e) _ (List.mem_map.mpr ⟨k, hk, rfl⟩)
  have hn : ∀ k : Part, (∀ x, k ≠ .far x) → k.anear = k := fun k e => by
    cases k <;> first | rfl | exact absurd rfl (e _)
  refine ⟨h.pending, h.canon, fun k f hf hk => ?_, fun j hj => h.hubRegs j fun x => hj ?_, fun f j hf hj => ?_, fun f p _ hp => ?_,
    fun k f p hf hk => ?_, fun f p j hf hj => ?_⟩
  · by_cases n : ∀ x, k ≠ .far x
    · have c := hk.resolve_right (fun x => x.2 (hF f))
      exact h.same k f (hK.anearNot c) (.inl (hK.anearNot (by rw [hn k n]; exact c)))
    · obtain ⟨x, rfl⟩ := not_forall_not.mp n
      exact Part.same_far x f s t
  · exact keyIn.anear hK id (any := .anyHubReg) (one := .hubReg) rfl (fun _ => rfl) rfl (fun _ => rfl) x
  · have c := hj.resolve_left (fun x => x (hF f))
    exact h.regs f j (fun x => c (keyIn.anear hK .far (any := .anyReg) (one := .reg) rfl (fun _ => rfl) rfl (fun _ => rfl) x))
      (.inr (fun x => c (keyIn.anear hK id (any := .anyReg) (one := .reg) rfl (fun _ => rfl) rfl (fun _ => rfl) x)))
  · have c := (hp.resolve_left (fun x => x (hF f))).resolve_left (fun x => x (hP p))
    refine h.plots f p (List.all_eq_true.mpr fun k hk => ?_) (.inr (.inr (List.all_eq_true.mpr fun k hk => ?_)))
    · have := hl k hk c
      cases k <;> first | rfl | exact this
    · have := hl k hk c
      cases k <;> first | rfl | exact this
  · by_cases n : ∀ x, k ≠ .far x
    · have c := (hk.resolve_right (fun x => x.elim (fun y => y (hF f)) (fun y => y (hP p))))
      exact h.plot k f p (hK.anearNot c) (.inl (hK.anearNot (by rw [hn k n]; exact c)))
    · obtain ⟨x, rfl⟩ := not_forall_not.mp n
      trivial
  · have c := (hj.resolve_left (fun x => x (hF f))).resolve_left (fun x => x (hP p))
    exact h.plotRegs f p j (fun x => c (keyIn.anear hK .far (any := .anyPlotReg) (one := .plotReg) rfl (fun _ => rfl) rfl (fun _ => rfl) x))
      (.inr (.inr (fun x => c (keyIn.anear hK id (any := .anyPlotReg) (one := .plotReg) rfl (fun _ => rfl) rfl (fun _ => rfl) x))))

/-- The state of a pair is the one its equation names. -/
theorem Only.fst {α : Type} {p : State × α} {a : State} {b : α} (e : p = (a, b)) (h : Only K F P s0 p.1) :
    Only K F P s0 a := by
  subst e; exact h

theorem Only.snd {α : Type} {p : α × State} {a : α} {b : State} (e : p = (a, b)) (h : Only K F P s0 p.2) :
    Only K F P s0 b := by
  subst e; exact h

theorem Only.ite {c : Prop} [Decidable c] {a b : State} (ha : Only K F P s0 a) (hb : Only K F P s0 b) :
    Only K F P s0 (if c then a else b) := by
  split <;> assumption

theorem Only.foldl {α : Type} (l : List α) (g : State → α → State)
    (hg : ∀ t a, Only K F P s0 t → Only K F P s0 (g t a)) (h : Only K F P s0 s) : Only K F P s0 (l.foldl g s) := by
  induction l generalizing s with
  | nil => exact h
  | cons a l ih => exact ih (hg _ _ h)

theorem Only.foldl_fst {α β : Type} (l : List α) (g : State × β → α → State × β) (i : State × β)
    (hg : ∀ t a, Only K F P s0 t.1 → Only K F P s0 (g t a).1) (h : Only K F P s0 i.1) :
    Only K F P s0 (l.foldl g i).1 := by
  induction l generalizing i with
  | nil => exact h
  | cons a l ih => exact ih _ (hg _ _ h)

theorem allParts_covered (k : Part) (h : ∀ x, k ≠ .far x) : Part.covered allParts k = true := by
  cases k <;> first | rfl | exact absurd rfl (h _) | simp [Part.covered, Part.wild, allParts]

/-- Where every part of every field may change, the queue and the canonical form are all there is to show. -/
theorem Only.all (hK : Fits allParts K) (hF : ∀ f, F f) (hP : ∀ p, P p) (hp : t.pending = s.pending)
    (hc : s.mem.wf = true → t.mem.wf = true) : Only K F P s t := by
  have hk : ∀ k, (∀ x, k ≠ .far x) → ¬ Part.covered K k = false := fun k n x => by
    rw [hK.covered (allParts_covered k n)] at x; exact absurd x (by decide)
  have hj : ∀ any : Part, any.wild = any → (∀ x, any ≠ .far x) → any ∈ K := fun a e n => by
    have := hK.covered (allParts_covered a n)
    simpa only [Part.covered, e, Bool.or_self, List.contains_iff_mem] using this
  have hh : Part.anyPlotReg ∈ K := hj _ rfl (by simp)
  refine ⟨hp, hc, fun k f _ h => ?_, fun j h => absurd (.inl (hj _ rfl (by simp))) h,
    fun f j _ h => h.elim (fun x => absurd (hF f) x) (fun x => absurd (.inl (hj _ rfl (by simp))) x),
    fun f p _ h => ?_, fun k f p _ h => ?_,
    fun f p j _ h => h.elim (fun x => absurd (hF f) x) (Or.rec (fun x => absurd (hP p) x) (fun x => absurd (.inl hh) x))⟩
  · by_cases n : ∀ x, k ≠ .far x
    · exact h.elim (fun x => absurd x (hk k n)) (fun x => absurd (hF f) x.2)
    · obtain ⟨x, rfl⟩ := not_forall_not.mp n
      exact Part.same_far x f s t
  · rcases h with h | h | h
    · exact absurd (hF f) h
    · exact absurd (hP p) h
    · have := List.all_eq_true.mp h _ hh; exact absurd this (by decide)
  · by_cases n : ∀ x, k ≠ .far x
    · exact h.elim (fun x => absurd x (hk k n)) (Or.rec (fun x => absurd (hF f) x) (fun x => absurd (hP p) x))
    · obtain ⟨x, rfl⟩ := not_forall_not.mp n
      trivial

theorem Ends.next (h : Only K F P s t) : Ends K F P s (.next t) := ⟨t, .inl rfl, h⟩

theorem Ends.finish (h : Only K F P s t) : Ends K F P s (finish t) := ⟨t, .inr rfl, h⟩

theorem Ends.mono {l : List Part} {G : FieldId → Prop} {Q : PlotId → Prop} {r : Result} (h : Ends l G Q s r)
    (m : ∀ u, Only l G Q s u → Only K F P s0 u) : Ends K F P s0 r := by
  obtain ⟨u, e, o⟩ := h
  exact ⟨u, e, m u o⟩

theorem Ends.ite {c : Prop} [Decidable c] {a b : Result} (ha : Ends K F P s0 a) (hb : Ends K F P s0 b) :
    Ends K F P s0 (if c then a else b) := by
  split <;> assumption

theorem Ends.inRim {f : FieldId} {r : Result} (h : Ends K F P s0 r) (ho : Only K F P s0 s) :
    Ends K F P s0 (s.inRim f r) := Ends.ite (.next ho) h

theorem Ends.clocked {r : Result} (h : Ends K F P s0 r) (ho : Only K F P s0 s) :
    Ends K F P s0 (s.clocked r) := Ends.ite (.next ho) h

theorem Ends.inPort {port : Option (FieldId × PortId)} {r : Result} (h : Ends K F P s0 r) (ho : Only K F P s0 s) :
    Ends K F P s0 (s.inPort port r) := by
  unfold State.inPort; split
  · exact .inRim h ho
  · exact h

/-! ### Primitive updates -/

theorem Part.same_of_eq (k : Part) (f : FieldId) (s t : State) (hh : t.hub = s.hub) (hf : t.fields = s.fields)
    (hm : t.mem = s.mem) (h1 : k = .free → t.free = s.free) (h2 : k = .now → t.now = s.now)
    (h3 : k = .events → t.events = s.events) (h4 : k = .out → t.out = s.out) : k.same f s t := by
  have hx : t.field f = s.field f := by simp only [State.field, hf]
  cases k <;> simp_all [Part.same, Part.sameHub, Part.sameField, Part.sameMem]

/-- A part of the state itself is set. -/
theorem Only.top (x : Part) (hx : x.perField = false) (hK : Fits [x] K) (hh : t.hub = s.hub) (hf : t.fields = s.fields)
    (hm : t.mem = s.mem) (hp : t.pending = s.pending) (h1 : x ≠ .free → t.free = s.free) (h2 : x ≠ .now → t.now = s.now)
    (h3 : x ≠ .events → t.events = s.events) (h4 : x ≠ .out → t.out = s.out) : Only K F P s t := by
  have hc := hK.mem (List.mem_singleton.mpr rfl)
  have he : ∀ f, t.field f = s.field f := fun f => by simp only [State.field, hf]
  refine ⟨hp, fun w => hm ▸ w, fun k f _ hk => ?_, fun _ _ => by rw [hh], fun f _ _ _ => by rw [he],
    fun f p _ _ => by simp only [State.plot, he], fun k f p _ _ => ?_, fun f p _ _ _ => by simp only [State.plot, he]⟩
  · have hn : k ≠ x := by
      rintro rfl
      rcases hk with hk | hk
      · rw [hc] at hk; exact absurd hk (by decide)
      · rw [hx] at hk; exact absurd hk.1 (by decide)
    exact k.same_of_eq f _ _ hh hf hm (fun e => h1 (fun y => hn (e.trans y.symm))) (fun e => h2 (fun y => hn (e.trans y.symm)))
      (fun e => h3 (fun y => hn (e.trans y.symm))) (fun e => h4 (fun y => hn (e.trans y.symm)))
  · have : t.plot f p = s.plot f p := by simp only [State.plot, he]
    rw [this]; exact k.samePlot_refl _

theorem only_events (e : List RaisedEvent) (hK : Fits [.events] K) (h : Only K F P s0 s) :
    Only K F P s0 { s with events := e } :=
  h.trans (.top .events rfl hK rfl rfl rfl rfl (fun _ => rfl) (fun _ => rfl) (fun x => absurd rfl x) (fun _ => rfl))

theorem only_out (e : List Output) (hK : Fits [.out] K) (h : Only K F P s0 s) : Only K F P s0 { s with out := e } :=
  h.trans (.top .out rfl hK rfl rfl rfl rfl (fun _ => rfl) (fun _ => rfl) (fun _ => rfl) (fun x => absurd rfl x))

theorem only_free (e : Nat) (hK : Fits [.free] K) (h : Only K F P s0 s) : Only K F P s0 { s with free := e } :=
  h.trans (.top .free rfl hK rfl rfl rfl rfl (fun x => absurd rfl x) (fun _ => rfl) (fun _ => rfl) (fun _ => rfl))

theorem only_now (e : Nat) (hK : Fits [.now] K) (h : Only K F P s0 s) : Only K F P s0 { s with now := e } :=
  h.trans (.top .now rfl hK rfl rfl rfl rfl (fun _ => rfl) (fun x => absurd rfl x) (fun _ => rfl) (fun _ => rfl))

/-! ### Updates of a plot, of a field, of the hub -/

/-- From X to Y nothing of a plot changed but the parts K. -/
structure PlotOnly (K : List Part) (X Y : Plot) : Prop where
  same : ∀ k, Part.covered K k = false → k.samePlot X Y
  regs : ∀ j, ¬ keyIn K .anyPlotReg .plotReg j → SMap.find Y.regs j = SMap.find X.regs j
  eq : K.all (fun k => !k.perPlot) = true → Y = X

theorem PlotOnly.refl (K : List Part) (X : Plot) : PlotOnly K X X := ⟨fun k _ => k.samePlot_refl X, fun _ _ => rfl, fun _ => rfl⟩

theorem PlotOnly.trans {X Y Z : Plot} (h : PlotOnly K X Y) (h' : PlotOnly K Y Z) : PlotOnly K X Z :=
  ⟨fun k hk => k.samePlot_trans (h.same k hk) (h'.same k hk), fun j hj => (h'.regs j hj).trans (h.regs j hj),
    fun e => (h'.eq e).trans (h.eq e)⟩

theorem Fits.noPlot (hK : K.all (fun k => !k.perPlot) = true) {k : Part} (hp : k.perPlot = true) : Part.covered K k = false := by
  cases y : Part.covered K k with
  | false => rfl
  | true =>
    simp only [List.all_eq_true] at hK
    simp only [Part.covered, Bool.or_eq_true, List.contains_iff_mem] at y
    rcases y with y | y
    · have := hK _ y; simp [hp] at this
    · have := hK _ y; simp [Part.perPlot_wild, hp] at this

theorem PlotOnly.keep {X Y : Plot} (hr : Y.regs = X.regs) (h : ∀ k, Part.covered K k = false → k.samePlot X Y) :
    PlotOnly K X Y := ⟨h, fun _ _ => by rw [hr], fun e => by
  have x : ∀ k : Part, k.perPlot = true → k.samePlot X Y := fun k hp => h k (Fits.noPlot e hp)
  have a := x .drill rfl; have b := x .dr rfl; have c := x .queue rfl; have d := x .cq rfl; have i := x .tine rfl
  have j := x .samples rfl; have k := x .scrub rfl; have l := x .notify rfl; have m := x .xlines rfl; have n := x .boot rfl
  have o := x .slot rfl
  cases X; cases Y
  simp_all [Part.samePlot]⟩

theorem PlotOnly.setReg {X Y : Plot} (k : RegField) (v n i : Nat) (hK : Fits [.plotReg k] K) (h : PlotOnly K X Y) :
    PlotOnly K X (Y.setReg k v n i) :=
  h.trans ⟨fun k' _ => by cases k' <;> simp [Part.samePlot], fun j hj => RegField.find_set_ne _ _ _ _ _ _ (by
    rintro rfl
    exact hj (keyIn.one (any := .anyPlotReg) (one := .plotReg) (fun _ => rfl) k n i (hK.mem (List.mem_singleton.mpr rfl)))),
    fun e => (Fits.not hK (k := .plotReg k) (Fits.noPlot e rfl) (by simp [Part.covered])).elim⟩

/-- From X to Y nothing of a field changed but the parts K, of plots those of P. -/
structure FieldOnly (K : List Part) (P : PlotId → Prop) (X Y : Field) : Prop where
  same : ∀ k, Part.covered K k = false → k.sameField X Y
  regs : ∀ j, ¬ keyIn K .anyReg .reg j → SMap.find Y.regs j = SMap.find X.regs j
  plots : ∀ p : PlotId, (¬ P p ∨ K.all (fun k => !k.perPlot) = true) → Y.plot p = X.plot p
  plot : ∀ p : PlotId, PlotOnly K (X.plot p) (Y.plot p)

theorem FieldOnly.refl (K : List Part) (P : PlotId → Prop) (X : Field) : FieldOnly K P X X :=
  ⟨fun k _ => k.sameField_refl X, fun _ _ => rfl, fun _ _ => rfl, fun _ => PlotOnly.refl _ _⟩

theorem FieldOnly.trans {X Y Z : Field} (h : FieldOnly K P X Y) (h' : FieldOnly K P Y Z) : FieldOnly K P X Z :=
  ⟨fun k hk => k.sameField_trans (h.same k hk) (h'.same k hk), fun j hj => (h'.regs j hj).trans (h.regs j hj),
    fun p hp => (h'.plots p hp).trans (h.plots p hp), fun p => (h.plot p).trans (h'.plot p)⟩

theorem FieldOnly.keep {X Y : Field} (hr : Y.regs = X.regs) (hp : Y.plots = X.plots)
    (h : ∀ k, Part.covered K k = false → k.sameField X Y) : FieldOnly K P X Y :=
  ⟨h, fun _ _ => by rw [hr], fun p _ => by simp only [Field.plot, hp], fun p => by
    have : Y.plot p = X.plot p := by simp only [Field.plot, hp]
    rw [this]; exact PlotOnly.refl _ _⟩

theorem FieldOnly.setReg {X Y : Field} (k : RegField) (v n i : Nat) (hK : Fits [.reg k] K) (h : FieldOnly K P X Y) :
    FieldOnly K P X (Y.setReg k v n i) :=
  h.trans ⟨fun k' _ => by cases k' <;> simp [Part.sameField], fun j hj => RegField.find_set_ne _ _ _ _ _ _ (by
    rintro rfl
    exact hj (keyIn.one (any := .anyReg) (one := .reg) (fun _ => rfl) k n i (hK.mem (List.mem_singleton.mpr rfl)))), fun _ _ => rfl, fun _ => PlotOnly.refl _ _⟩

theorem FieldOnly.updPlot {X Y : Field} (p : PlotId) (g : Plot → Plot) (hg : ∀ Z, PlotOnly K Z (g Z)) (hP : P p)
    (h : FieldOnly K P X Y) : FieldOnly K P X (Y.updPlot p g) :=
  h.trans ⟨fun k' _ => by cases k' <;> simp [Part.sameField], fun _ _ => rfl, fun q hq => by
    by_cases e : p = q
    · subst e; rw [Field.plot_updPlot]; exact (hg _).eq (hq.resolve_left (fun x => x hP))
    · exact Field.plot_updPlot_ne _ _ _ _ (fun x => e (Fin.ext x)), fun q => by
    by_cases e : p = q
    · subst e; rw [Field.plot_updPlot]; exact hg _
    · rw [Field.plot_updPlot_ne _ _ _ _ (fun x => e (Fin.ext x))]; exact PlotOnly.refl _ _⟩

theorem FieldOnly.updPlotAll {X Y : Field} (a : Nat) (g : Plot → Plot) (hg : ∀ Z, PlotOnly K Z (g Z)) (hP : ∀ p, P p)
    (h : FieldOnly K P X Y) : FieldOnly K P X (Y.updPlot a g) :=
  h.trans ⟨fun k' _ => by cases k' <;> simp [Part.sameField], fun _ _ => rfl, fun q hq => by
    by_cases e : a = q.val
    · subst e; rw [Field.plot_updPlot]; exact (hg _).eq (hq.resolve_left (fun x => x (hP q)))
    · exact Field.plot_updPlot_ne _ _ _ _ e, fun q => by
    by_cases e : a = q.val
    · subst e; rw [Field.plot_updPlot]; exact hg _
    · rw [Field.plot_updPlot_ne _ _ _ _ e]; exact PlotOnly.refl _ _⟩

theorem FieldOnly.ite {c : Prop} [Decidable c] {X Y Z : Field} (h : FieldOnly K P X Y) (h' : FieldOnly K P X Z) :
    FieldOnly K P X (if c then Y else Z) := by split <;> assumption

theorem PlotOnly.ite {c : Prop} [Decidable c] {X Y Z : Plot} (h : PlotOnly K X Y) (h' : PlotOnly K X Z) :
    PlotOnly K X (if c then Y else Z) := by split <;> assumption

theorem SMap.find_map (m : SMap Plot) (g : Nat → Plot → Plot) (j : Nat) :
    SMap.find (m.map (fun e => (e.1, g e.1 e.2))) j = (SMap.find m j).map (g j) := by
  induction m with
  | nil => rfl
  | cons e m ih =>
    obtain ⟨k, v⟩ := e
    simp only [List.map_cons, SMap.find]
    split
    · rename_i h; subst h; rfl
    · exact ih

/-- Every plot listed is changed by a function of itself. -/
theorem FieldOnly.mapPlots {X : Field} (g : Nat → Plot → Plot) (hg : ∀ j Z, PlotOnly K Z (g j Z)) (hP : ∀ p, P p) :
    FieldOnly K P X { X with plots := X.plots.map (fun e => (e.1, g e.1 e.2)) } :=
  ⟨fun k _ => by cases k <;> simp [Part.sameField], fun _ _ => rfl, fun p h => by
    simp only [Field.plot, SMap.get, SMap.find_map]
    cases SMap.find X.plots p.val with
    | none => rfl
    | some Z => exact (hg _ Z).eq (h.resolve_left (fun x => x (hP p))), fun p => by
    simp only [Field.plot, SMap.get, SMap.find_map]
    cases SMap.find X.plots p.val with
    | none => exact PlotOnly.refl _ _
    | some Z => exact hg _ Z⟩

/-- The plots change in every part. -/
theorem FieldOnly.anyPlots {X Y : Field} (hr : Y.regs = X.regs) (h0 : Part.anyPlotReg.wild = .anyPlotReg)
    (h : ∀ k, Part.covered K k = false → k.sameField X Y) (hq : Fits [.drill, .dr, .queue, .cq, .tine, .samples, .scrub,
      .notify, .xlines, .boot, .slot] K) (ha : Fits [.anyPlotReg] K) (hP : ∀ p, P p) : FieldOnly K P X Y :=
  ⟨h, fun _ _ => by rw [hr], fun p h => (Fits.not ha (k := .anyPlotReg) (Fits.noPlot (h.resolve_left (fun x => x (hP p))) rfl) rfl).elim, fun p => ⟨fun k hk => by
    cases k <;> first
      | exact trivial
      | exact (Fits.not hq hk rfl).elim,
    fun j hj => absurd (.inl (by
      have := ha.mem (List.mem_singleton.mpr rfl)
      simpa only [Part.covered, h0, Bool.or_self, List.contains_iff_mem] using this)) hj,
    fun e => (Fits.not ha (k := .anyPlotReg) (Fits.noPlot e rfl) rfl).elim⟩⟩

/-- From X to Y nothing of the hub changed but the parts K. -/
structure HubOnly (K : List Part) (X Y : Hub) : Prop where
  same : ∀ k, Part.covered K k = false → k.sameHub X Y
  regs : ∀ j, ¬ keyIn K .anyHubReg .hubReg j → SMap.find Y.regs j = SMap.find X.regs j

theorem HubOnly.refl (K : List Part) (X : Hub) : HubOnly K X X := ⟨fun k _ => k.sameHub_refl X, fun _ _ => rfl⟩

theorem HubOnly.trans {X Y Z : Hub} (h : HubOnly K X Y) (h' : HubOnly K Y Z) : HubOnly K X Z :=
  ⟨fun k hk => k.sameHub_trans (h.same k hk) (h'.same k hk), fun j hj => (h'.regs j hj).trans (h.regs j hj)⟩

theorem HubOnly.keep {X Y : Hub} (hr : Y.regs = X.regs) (h : ∀ k, Part.covered K k = false → k.sameHub X Y) :
    HubOnly K X Y := ⟨h, fun _ _ => by rw [hr]⟩

theorem HubOnly.all {X Y : Hub} (hK : Fits allParts K) : HubOnly K X Y :=
  ⟨fun k hk => by
    by_cases n : ∀ x, k ≠ .far x
    · exact absurd (hK.covered (allParts_covered k n)) (by rw [hk]; decide)
    · obtain ⟨x, rfl⟩ := not_forall_not.mp n
      trivial, fun j hj => absurd (.inl (by
    have := hK.covered (allParts_covered .anyHubReg (by simp))
    simpa only [Part.covered, Part.wild, Bool.or_self, List.contains_iff_mem] using this)) hj⟩

theorem HubOnly.setReg {X Y : Hub} (k : RegField) (v n i : Nat) (hK : Fits [.hubReg k] K) (h : HubOnly K X Y) :
    HubOnly K X (Y.setReg k v n i) :=
  h.trans ⟨fun k' _ => by cases k' <;> simp [Part.sameHub], fun j hj => RegField.find_set_ne _ _ _ _ _ _ (by
    rintro rfl
    exact hj (keyIn.one (any := .anyHubReg) (one := .hubReg) (fun _ => rfl) k n i (hK.mem (List.mem_singleton.mpr rfl))))⟩

theorem HubOnly.ite {c : Prop} [Decidable c] {X Y Z : Hub} (h : HubOnly K X Y) (h' : HubOnly K X Z) :
    HubOnly K X (if c then Y else Z) := by split <;> assumption

theorem State.updHub_only (g : Hub → Hub) (hg : ∀ H, HubOnly K H (g H)) (h : Only K F P s0 s) :
    Only K F P s0 (s.updHub g) :=
  h.trans ⟨rfl, id, fun k f _ hk => by
    have hh : k.perField = false → Part.sameHub k s.hub (g s.hub) :=
      fun e => (hg _).same _ (hk.resolve_right (by simp [e]))
    cases k <;> first
      | rfl
      | exact ⟨hh rfl, trivial, trivial⟩
      | exact ⟨trivial, rfl, trivial⟩
      | exact ⟨trivial, trivial, trivial⟩
      | exact ⟨trivial, ⟨rfl, rfl⟩, trivial⟩
      | exact ⟨trivial, ⟨rfl, rfl, rfl⟩, trivial⟩
      | exact ⟨trivial, trivial, rfl⟩
      | exact ⟨trivial, trivial, rfl, rfl⟩
      | exact ⟨trivial, trivial, rfl, rfl, rfl⟩, fun j hj => (hg _).regs j hj, fun _ _ _ _ => rfl, fun _ _ _ _ => rfl,
    fun k _ _ _ _ => k.samePlot_refl _, fun _ _ _ _ _ => rfl⟩

theorem State.updField_only (f : FieldId) (g : Field → Field) (hg : ∀ X, FieldOnly K P X (g X))
    (hF : F f) (h : Only K F P s0 s) : Only K F P s0 (s.updField f g) := by
  have hx : ∀ f', FieldOnly K P (s.field f') ((s.updField f g).field f') := by
    intro f'
    rw [State.field_updField_if]
    split
    · rename_i e; subst e; exact hg _
    · exact FieldOnly.refl _ _ _
  have hn : ∀ f', ¬ F f' → (s.updField f g).field f' = s.field f' := by
    intro f' e
    rw [State.field_updField_if, if_neg (by rintro rfl; exact e hF)]
  refine h.trans ⟨rfl, id, fun k f' _ hk => ?_, fun _ _ => rfl, fun f' j _ hj => ?_, fun f' p _ hp => ?_, fun k f' p _ hk => ?_,
    fun f' p j _ hj => ?_⟩
  · have hh : k.perField = true → Part.sameField k (s.field f') ((s.updField f g).field f') := by
      intro hp
      rcases hk with hk | hk
      · exact (hx f').same k hk
      · rw [hn f' hk.2]; exact k.sameField_refl _
    cases k <;> first
      | rfl
      | exact ⟨rfl, trivial, trivial⟩
      | exact ⟨trivial, trivial, trivial⟩
      | exact ⟨⟨rfl, rfl⟩, trivial, trivial⟩
      | exact ⟨⟨rfl, rfl, rfl, rfl⟩, trivial, trivial⟩
      | exact ⟨⟨rfl, rfl, rfl, rfl⟩, trivial, trivial⟩
      | exact ⟨trivial, trivial, rfl⟩
      | exact ⟨trivial, trivial, rfl, rfl⟩
      | exact ⟨trivial, trivial, rfl, rfl, rfl⟩
      | exact ⟨trivial, hh rfl, trivial⟩
  · rcases hj with hj | hj
    · rw [hn f' hj]
    · exact (hx f').regs j hj
  · rcases hp with hp | hp
    · simp only [State.plot, hn f' hp]
    · exact (hx f').plots p hp
  · rcases hk with hk | hk | hk
    · exact ((hx f').plot p).same k hk
    · simp only [State.plot, hn f' hk]; exact k.samePlot_refl _
    · have := (hx f').plots p (.inl hk)
      simp only [State.plot, this]; exact k.samePlot_refl _
  · rcases hj with hj | hj | hj
    · simp only [State.plot, hn f' hj]
    · have := (hx f').plots p (.inl hj)
      simp only [State.plot, this]
    · exact ((hx f').plot p).regs j hj

theorem State.updPlot_only (f : FieldId) (p : PlotId) (g : Plot → Plot) (hg : ∀ X, PlotOnly K X (g X)) (hF : F f) (hP : P p)
    (h : Only K F P s0 s) : Only K F P s0 (s.updPlot f p g) :=
  State.updField_only f _ (fun X => FieldOnly.updPlot p g hg hP (FieldOnly.refl _ _ X)) hF h

theorem State.hset_only (k : RegField) (v n i : Nat) (hK : Fits [.hubReg k] K) (h : Only K F P s0 s) :
    Only K F P s0 (s.hset k v n i) :=
  State.updHub_only _ (fun X => HubOnly.setReg k v n i hK (HubOnly.refl _ X)) h

theorem State.fset_only (f : FieldId) (k : RegField) (v n i : Nat) (hK : Fits [.reg k] K) (hF : F f)
    (h : Only K F P s0 s) : Only K F P s0 (s.fset f k v n i) :=
  State.updField_only f _ (fun X => FieldOnly.setReg k v n i hK (FieldOnly.refl _ _ X)) hF h

theorem State.pset_only (f : FieldId) (p : PlotId) (k : RegField) (v : Nat) (hK : Fits [.plotReg k] K) (hF : F f)
    (hP : P p) (h : Only K F P s0 s) : Only K F P s0 (s.pset f p k v) :=
  State.updPlot_only f p _ (fun X => PlotOnly.setReg k v 0 0 hK (PlotOnly.refl _ X)) hF hP h

theorem State.hcount_only (k : RegField) (d n i : Nat) (hK : Fits [.hubReg k] K) (h : Only K F P s0 s) :
    Only K F P s0 (s.hcount k d n i) := State.hset_only _ _ _ _ hK h

theorem State.fcount_only (f : FieldId) (k : RegField) (d n i : Nat) (hK : Fits [.reg k] K) (hF : F f)
    (h : Only K F P s0 s) : Only K F P s0 (s.fcount f k d n i) := State.fset_only _ _ _ _ _ hK hF h

theorem State.fwrap_only (f : FieldId) (k : RegField) (d n i : Nat) (hK : Fits [.reg k] K) (hF : F f)
    (h : Only K F P s0 s) : Only K F P s0 (s.fwrap f k d n i) := State.fset_only _ _ _ _ _ hK hF h

theorem State.pcount_only (f : FieldId) (p : PlotId) (k : RegField) (d : Nat) (hK : Fits [.plotReg k] K) (hF : F f)
    (hP : P p) (h : Only K F P s0 s) : Only K F P s0 (s.pcount f p k d) := State.pset_only _ _ _ _ hK hF hP h

theorem State.pwrap_only (f : FieldId) (p : PlotId) (k : RegField) (d : Nat) (hK : Fits [.plotReg k] K) (hF : F f)
    (hP : P p) (h : Only K F P s0 s) : Only K F P s0 (s.pwrap f p k d) := State.pset_only _ _ _ _ hK hF hP h

theorem State.updMem_only (g : Memories → Memories)
    (hg : ∀ m k f, (Part.covered K k = false ∨ (k.perField = true ∧ ¬ F f)) → Part.sameMem k f m (g m))
    (hw : ∀ m, m.wf = true → (g m).wf = true) (h : Only K F P s0 s) : Only K F P s0 (s.updMem g) :=
  h.trans ⟨rfl, hw _, fun k f _ hk => by
    have hh := hg s.mem k f hk
    cases k <;> first
      | rfl
      | exact ⟨Part.sameHub_refl _ _, Part.sameField_refl _ _, hh⟩, fun _ _ => rfl, fun _ _ _ _ => rfl, fun _ _ _ _ => rfl,
    fun k _ _ _ _ => k.samePlot_refl _, fun _ _ _ _ _ => rfl⟩

/-! ### The memories -/

theorem Vector.all_set {α : Type} {n : Nat} (v : Vector α n) (p : α → Bool) (i : Fin n) (x : α)
    (h : v.toList.all p = true) (hx : p x = true) : (v.set i x).toList.all p = true := by
  simp only [List.all_eq_true] at h ⊢
  intro y hy
  rw [Vector.mem_toList_iff, Vector.mem_iff_getElem] at hy
  obtain ⟨j, hj, rfl⟩ := hy
  rw [Vector.getElem_set]
  split
  · exact hx
  · exact h _ (by rw [Vector.mem_toList_iff]; exact Vector.getElem_mem hj)

theorem Vector.all_get {α : Type} {n : Nat} (v : Vector α n) (p : α → Bool) (i : Fin n)
    (h : v.toList.all p = true) : p v[i] = true := by
  simp only [List.all_eq_true] at h
  exact h _ (by rw [Vector.mem_toList_iff]; exact Vector.getElem_mem i.isLt)

variable (m : Memories) (f : FieldId)

theorem Memories.setHbm_wf (x : SMap Byte) (h : m.wf = true) (hx : SMap.wf x 0 = true) : (m.setHbm f x).wf = true := by
  simp only [Memories.wf, Bool.and_eq_true, Memories.setHbm] at h ⊢
  exact ⟨⟨⟨⟨⟨⟨⟨Vector.all_set _ _ _ _ h.1.1.1.1.1.1.1 hx, h.1.1.1.1.1.1.2⟩, h.1.1.1.1.1.2⟩, h.1.1.1.1.2⟩, h.1.1.1.2⟩,
    h.1.1.2⟩, h.1.2⟩, h.2⟩

theorem Memories.setHbmErr_wf (k v : Nat) (h : m.wf = true) : (m.setHbmErr f k v).wf = true := by
  simp only [Memories.wf, Bool.and_eq_true, Memories.setHbmErr] at h ⊢
  exact ⟨⟨⟨⟨⟨⟨⟨h.1.1.1.1.1.1.1, Vector.all_set _ _ _ _ h.1.1.1.1.1.1.2 (SMap.set_wf _ _ _ _
    (Vector.all_get _ _ f h.1.1.1.1.1.1.2))⟩, h.1.1.1.1.1.2⟩, h.1.1.1.1.2⟩, h.1.1.1.2⟩, h.1.1.2⟩, h.1.2⟩, h.2⟩

theorem Memories.setStore_wf (x : SMap Byte) (h : m.wf = true) (hx : SMap.wf x 0 = true) :
    (m.setStore f x).wf = true := by
  simp only [Memories.wf, Bool.and_eq_true, Memories.setStore] at h ⊢
  exact ⟨⟨⟨⟨⟨⟨⟨h.1.1.1.1.1.1.1, h.1.1.1.1.1.1.2⟩, Vector.all_set _ _ _ _ h.1.1.1.1.1.2 hx⟩, h.1.1.1.1.2⟩, h.1.1.1.2⟩,
    h.1.1.2⟩, h.1.2⟩, h.2⟩

theorem Memories.setStoreErr_wf (k v : Nat) (h : m.wf = true) : (m.setStoreErr f k v).wf = true := by
  simp only [Memories.wf, Bool.and_eq_true, Memories.setStoreErr] at h ⊢
  exact ⟨⟨⟨⟨⟨⟨⟨h.1.1.1.1.1.1.1, h.1.1.1.1.1.1.2⟩, h.1.1.1.1.1.2⟩, Vector.all_set _ _ _ _ h.1.1.1.1.2 (SMap.set_wf _ _ _ _
    (Vector.all_get _ _ f h.1.1.1.1.2))⟩, h.1.1.1.2⟩, h.1.1.2⟩, h.1.2⟩, h.2⟩

theorem Memories.setBin_wf (k v : Nat) (h : m.wf = true) : (m.setBin f k v).wf = true := by
  simp only [Memories.wf, Bool.and_eq_true, Memories.setBin] at h ⊢
  exact ⟨⟨⟨⟨⟨⟨⟨h.1.1.1.1.1.1.1, h.1.1.1.1.1.1.2⟩, h.1.1.1.1.1.2⟩, h.1.1.1.1.2⟩, Vector.all_set _ _ _ _ h.1.1.1.2
    (SMap.set_wf _ _ _ _ (Vector.all_get _ _ f h.1.1.1.2))⟩, h.1.1.2⟩, h.1.2⟩, h.2⟩

theorem Memories.setBinErr_wf (k v : Nat) (h : m.wf = true) : (m.setBinErr f k v).wf = true := by
  simp only [Memories.wf, Bool.and_eq_true, Memories.setBinErr] at h ⊢
  exact ⟨⟨⟨⟨⟨⟨⟨h.1.1.1.1.1.1.1, h.1.1.1.1.1.1.2⟩, h.1.1.1.1.1.2⟩, h.1.1.1.1.2⟩, h.1.1.1.2⟩, Vector.all_set _ _ _ _ h.1.1.2
    (SMap.set_wf _ _ _ _ (Vector.all_get _ _ f h.1.1.2))⟩, h.1.2⟩, h.2⟩

theorem Memories.setBinPoison_wf (k : Nat) (v : Bool) (h : m.wf = true) : (m.setBinPoison f k v).wf = true := by
  simp only [Memories.wf, Bool.and_eq_true, Memories.setBinPoison] at h ⊢
  exact ⟨⟨⟨⟨⟨⟨⟨h.1.1.1.1.1.1.1, h.1.1.1.1.1.1.2⟩, h.1.1.1.1.1.2⟩, h.1.1.1.1.2⟩, h.1.1.1.2⟩, h.1.1.2⟩,
    Vector.all_set _ _ _ _ h.1.2 (SMap.set_wf _ _ _ _ (Vector.all_get _ _ f h.1.2))⟩, h.2⟩

theorem Memories.hbm_wf (h : m.wf = true) : SMap.wf m.hbm[f] 0 = true := by
  simp only [Memories.wf, Bool.and_eq_true] at h
  exact Vector.all_get _ _ f h.1.1.1.1.1.1.1

theorem Memories.store_wf (h : m.wf = true) : SMap.wf m.store[f] 0 = true := by
  simp only [Memories.wf, Bool.and_eq_true] at h
  exact Vector.all_get _ _ f h.1.1.1.1.1.2

/-- From m to n nothing changed but the memories K of the fields F, and a canonical form is kept. -/
structure MemOnly (K : List Part) (F : FieldId → Prop) (m n : Memories) : Prop where
  canon : m.wf = true → n.wf = true
  same : ∀ k f, (Part.covered K k = false ∨ (k.perField = true ∧ ¬ F f)) → k.sameMem f m n

theorem MemOnly.refl (K : List Part) (F : FieldId → Prop) (m : Memories) : MemOnly K F m m :=
  ⟨id, fun k f _ => k.sameMem_refl f m⟩

theorem MemOnly.trans {m n o : Memories} (h : MemOnly K F m n) (h' : MemOnly K F n o) : MemOnly K F m o :=
  ⟨fun w => h'.canon (h.canon w), fun k f hk => by
    have a := h.same k f hk
    have b := h'.same k f hk
    cases k <;> simp_all [Part.sameMem]⟩

/-- A memory of field f alone is set. -/
theorem MemOnly.of_set {m n : Memories} (part : Part) (f : FieldId) (hK : Part.covered K part = true) (hF : F f)
    (hw : m.wf = true → n.wf = true) (hs : ∀ k f', (k ≠ part ∨ f' ≠ f) → k.sameMem f' m n) : MemOnly K F m n :=
  ⟨hw, fun k f' hk => hs k f' (by
    rcases hk with hk | hk
    · exact .inl (fun e => by rw [e, hK] at hk; exact absurd hk (by decide))
    · exact .inr (fun e => hk.2 (e ▸ hF)))⟩

theorem Vector.set_ne {α : Type} (v : Vector α 4) (f f' : FieldId) (x : α) (h : f' ≠ f) : (v.set f x)[f'] = v[f'] := by
  have e : f.val ≠ f'.val := fun y => h (Fin.ext y.symm)
  simp [Fin.getElem_fin, e]

theorem Memories.setHbmErr_only {m0 m : Memories} {f : FieldId} (a v : Nat) (hK : Fits [.hbmErr] K) (hF : F f)
    (h : MemOnly K F m0 m) : MemOnly K F m0 (m.setHbmErr f a v) :=
  h.trans (.of_set .hbmErr f (hK.mem (List.mem_singleton.mpr rfl)) hF (m.setHbmErr_wf f a v) (fun k f' hk => by
    cases k <;> first
      | trivial
      | exact Vector.set_ne _ _ _ _ (hk.resolve_left (by simp))
      | exact ⟨rfl, rfl⟩
      | exact ⟨rfl, rfl, rfl⟩
      | rfl))

theorem Memories.setHbm_only {m0 m : Memories} {f : FieldId} (a : Nat) (bs : List Byte) (hK : Fits [.hbm] K) (hF : F f)
    (h : MemOnly K F m0 m) : MemOnly K F m0 (m.setHbm f (Mem.write m.hbm[f] a bs)) :=
  h.trans (.of_set .hbm f (hK.mem (List.mem_singleton.mpr rfl)) hF (fun w => m.setHbm_wf f _ w (Mem.write_wf _ _ _ (m.hbm_wf f w)))
    (fun k f' hk => by
    cases k <;> first
      | trivial
      | exact Vector.set_ne _ _ _ _ (hk.resolve_left (by simp))
      | exact ⟨rfl, rfl⟩
      | exact ⟨rfl, rfl, rfl⟩
      | rfl))

theorem Memories.setStoreErr_only {m0 m : Memories} {f : FieldId} (a v : Nat) (hK : Fits [.storeErr] K) (hF : F f)
    (h : MemOnly K F m0 m) : MemOnly K F m0 (m.setStoreErr f a v) :=
  h.trans (.of_set .storeErr f (hK.mem (List.mem_singleton.mpr rfl)) hF (m.setStoreErr_wf f a v) (fun k f' hk => by
    cases k <;> first
      | trivial
      | exact Vector.set_ne _ _ _ _ (hk.resolve_left (by simp))
      | exact ⟨rfl, rfl⟩
      | exact ⟨rfl, rfl, rfl⟩
      | rfl))

theorem Memories.setStore_only {m0 m : Memories} {f : FieldId} (a : Nat) (bs : List Byte) (hK : Fits [.store] K) (hF : F f)
    (h : MemOnly K F m0 m) : MemOnly K F m0 (m.setStore f (Mem.write m.store[f] a bs)) :=
  h.trans (.of_set .store f (hK.mem (List.mem_singleton.mpr rfl)) hF (fun w => m.setStore_wf f _ w (Mem.write_wf _ _ _ (m.store_wf f w)))
    (fun k f' hk => by
    cases k <;> first
      | trivial
      | exact Vector.set_ne _ _ _ _ (hk.resolve_left (by simp))
      | exact ⟨rfl, rfl⟩
      | exact ⟨rfl, rfl, rfl⟩
      | rfl))

theorem Memories.setBin_only {m0 m : Memories} {f : FieldId} (a v : Nat) (hK : Fits [.bin] K) (hF : F f)
    (h : MemOnly K F m0 m) : MemOnly K F m0 (m.setBin f a v) :=
  h.trans (.of_set .bin f (hK.mem (List.mem_singleton.mpr rfl)) hF (m.setBin_wf f a v) (fun k f' hk => by
    cases k <;> first
      | trivial
      | exact Vector.set_ne _ _ _ _ (hk.resolve_left (by simp))
      | exact ⟨rfl, rfl⟩
      | exact ⟨rfl, rfl, rfl⟩
      | rfl))

theorem Memories.setBinErr_only {m0 m : Memories} {f : FieldId} (a v : Nat) (hK : Fits [.binErr] K) (hF : F f)
    (h : MemOnly K F m0 m) : MemOnly K F m0 (m.setBinErr f a v) :=
  h.trans (.of_set .binErr f (hK.mem (List.mem_singleton.mpr rfl)) hF (m.setBinErr_wf f a v) (fun k f' hk => by
    cases k <;> first
      | trivial
      | exact ⟨Vector.set_ne _ _ _ _ (hk.resolve_left (by simp)), rfl⟩
      | exact ⟨rfl, rfl⟩
      | exact ⟨rfl, rfl, rfl⟩
      | rfl))

theorem Memories.setBinPoison_only {m0 m : Memories} {f : FieldId} (a : Nat) (v : Bool) (hK : Fits [.binErr] K) (hF : F f)
    (h : MemOnly K F m0 m) : MemOnly K F m0 (m.setBinPoison f a v) :=
  h.trans (.of_set .binErr f (hK.mem (List.mem_singleton.mpr rfl)) hF (m.setBinPoison_wf f a v) (fun k f' hk => by
    cases k <;> first
      | trivial
      | exact ⟨rfl, Vector.set_ne _ _ _ _ (hk.resolve_left (by simp))⟩
      | exact ⟨rfl, rfl⟩
      | exact ⟨rfl, rfl, rfl⟩
      | rfl))

theorem Memories.setSram_only {m0 m : Memories} (a : Nat) (bs : List Byte) (hK : Fits [.sram] K) (h : MemOnly K F m0 m) :
    MemOnly K F m0 { m with sram := Mem.write m.sram a bs } :=
  h.trans ⟨fun w => by
      simp only [Memories.wf, Bool.and_eq_true] at w ⊢
      exact ⟨w.1, Mem.write_wf _ _ _ w.2⟩,
    fun k f hk => by
      cases k <;> first
        | trivial
        | exact ⟨rfl, rfl⟩
        | exact ⟨rfl, rfl, rfl⟩
        | exact absurd (hK.mem (List.mem_singleton.mpr rfl)) (by rw [hk.resolve_right (by simp [Part.perField])]; decide)⟩

theorem State.updMem_touch (g : Memories → Memories) (hg : ∀ m, MemOnly K F m (g m)) (h : Only K F P s0 s) :
    Only K F P s0 (s.updMem g) :=
  State.updMem_only g (fun m => (hg m).same) (fun m => (hg m).canon) h

end Sys2Proof.Machine
end

