-- ==== Sys2Proof/Laws/Frames.lean ====
section
/-! SUPPORT. What is read through a frame: a register field, a part of a field or of a plot that no part of the frame's list
takes in reads after as before. -/

namespace Sys2Proof.Machine

set_option Elab.async false

open Sys2Proof

/-- The register field a part is, with the part that stands for all of its kind. -/
def Part.field? : Part → Option (Part × RegField)
  | .hubReg k => some (.anyHubReg, k)
  | .reg k => some (.anyReg, k)
  | .plotReg k => some (.anyPlotReg, k)
  | .far (.reg k) => some (.anyReg, k)
  | .far (.plotReg k) => some (.anyPlotReg, k)
  | _ => none

/-- No part of a list lets the register field k, of the kind `any` stands for, change: not all of them, not it, anywhere. -/
def spares (K : List Part) (any : Part) (k : RegField) : Bool :=
  !K.contains any && !K.contains (.far any) && K.all (fun x => match x.field? with
    | some (a, k') => decide (a ≠ any) || decide (k'.place % 0x10000000000 ≠ k.place % 0x10000000000)
    | none => true)

theorem RegField.key_mod (k : RegField) (n i : Nat) : k.key n i % 0x10000000000 = k.place % 0x10000000000 := by
  unfold RegField.key
  rw [Nat.mul_add_mod_self_right]

/-- Register fields at different places have no key in common. -/
theorem RegField.key_ne (k k' : RegField) (n i n' i' : Nat)
    (h : k.place % 0x10000000000 ≠ k'.place % 0x10000000000) : k.key n i ≠ k'.key n' i' := fun e =>
  h (by rw [← RegField.key_mod k n i, ← RegField.key_mod k' n' i', e])

theorem spares.not_keyIn {K : List Part} {any all : Part} {one : RegField → Part} {k : RegField} (h : spares K any k = true)
    (ha : all = any ∨ all = .far any) (ho : ∀ k', (one k').field? = some (any, k')) (n i : Nat) :
    ¬ keyIn K all one (k.key n i) := by
  simp only [spares, Bool.and_eq_true, Bool.not_eq_true', List.all_eq_true] at h
  rintro (x | ⟨k', n', i', hk, e⟩)
  · rcases ha with rfl | rfl <;> simp [x] at h
  · have := h.2 _ hk
    simp only [ho] at this
    simp only [ne_eq, not_true_eq_false, decide_false, Bool.false_or, decide_eq_true_eq] at this
    exact RegField.key_ne _ _ _ _ _ _ this e.symm

variable {K : List Part} {F : FieldId → Prop} {P : PlotId → Prop} {s t : State}

theorem Only.hreg (h : Only K F P s t) (k : RegField) (hk : spares K .anyHubReg k = true) (n i : Nat) :
    t.hreg k n i = s.hreg k n i := by
  simp only [State.hreg, Hub.reg, RegField.get, SMap.get, h.hubRegs _ (spares.not_keyIn hk (.inl rfl) (fun _ => rfl) n i)]

theorem Only.freg (h : Only K F P s t) (k : RegField) (hk : spares K .anyReg k = true) (f : FieldId) (n i : Nat) :
    t.freg f k n i = s.freg f k n i := by
  simp only [State.freg, Field.reg, RegField.get, SMap.get, h.regs f _ (spares.not_keyIn hk (.inr rfl) (fun _ => rfl) n i)
    (.inr (spares.not_keyIn hk (.inl rfl) (fun _ => rfl) n i))]

/-- A rim's register stands in every field a frame is not confined to, where the frame has no far register. -/
theorem Only.freg_other (h : Only K F P s t) (k : RegField) (f : FieldId) (hf : ¬ F f) (n i : Nat)
    (hk : spares (K.filter (fun x => x.anear ≠ x)) .anyReg k = true) : t.freg f k n i = s.freg f k n i := by
  have hn : ¬ keyIn K (.far .anyReg) (fun k => .far (.reg k)) (k.key n i) := fun x =>
    spares.not_keyIn hk (.inr rfl) (fun _ => rfl) n i (x.imp (fun y => List.mem_filter.mpr ⟨y, rfl⟩)
      (fun ⟨k', n', i', y, e⟩ => ⟨k', n', i', List.mem_filter.mpr ⟨y, by simp [Part.anear]⟩, e⟩))
  simp only [State.freg, Field.reg, RegField.get, SMap.get, h.regs f _ hn (.inl hf)]

theorem Only.preg (h : Only K F P s t) (k : RegField) (hk : spares K .anyPlotReg k = true) (f : FieldId) (p : PlotId) :
    t.preg f p k = s.preg f p k := by
  simp only [State.preg, Plot.reg, RegField.get, SMap.get, h.plotRegs f p _ (spares.not_keyIn hk (.inr rfl) (fun _ => rfl) 0 0)
    (.inr (.inr (spares.not_keyIn hk (.inl rfl) (fun _ => rfl) 0 0)))]

/-- A register field of a rim stands through a write of another. -/
theorem State.freg_fset_other (s : State) (f g : FieldId) (k k' : RegField) (v n i n' i' : Nat)
    (h : k.place % 0x10000000000 ≠ k'.place % 0x10000000000) : (s.fset f k v n i).freg g k' n' i' = s.freg g k' n' i' := by
  by_cases e : f = g
  · subst e; exact State.freg_fset_ne _ _ _ _ _ _ _ _ _ (RegField.key_ne _ _ _ _ _ _ h)
  · simp only [State.freg, State.fset, State.field_updField_ne _ _ _ _ e]

theorem State.hreg_hset_other (s : State) (k k' : RegField) (v n i n' i' : Nat)
    (h : k.place % 0x10000000000 ≠ k'.place % 0x10000000000) : (s.hset k v n i).hreg k' n' i' = s.hreg k' n' i' :=
  State.hreg_hset_ne _ _ _ _ _ _ _ _ (RegField.key_ne _ _ _ _ _ _ h)

theorem State.preg_pset_other (s : State) (f h : FieldId) (p q : PlotId) (k k' : RegField) (v : Nat)
    (e : k.place % 0x10000000000 ≠ k'.place % 0x10000000000) : (s.pset f p k v).preg h q k' = s.preg h q k' :=
  State.preg_pset_ne _ _ _ _ _ _ _ _ (.inr (.inr (RegField.key_ne _ _ _ _ _ _ e)))

end Sys2Proof.Machine
end

