-- ==== Sys2Proof/Laws/Touch/Ops.lean ====
section
/-! SUPPORT. What each operation of Machine/Ops.lean can change: the parts named, and nothing else. -/

namespace Sys2Proof.Machine

set_option Elab.async false

open Sys2Proof

theorem State.emit_only {K : List Part} {F : FieldId → Prop} {P : PlotId → Prop} {s0 : State} (s : State) (o : Output) (hK : Fits ([.out] : List Part) K)
    (ho : Only K F P s0 s) : Only K F P s0 (State.emit s o) := by
  unfold State.emit
  repeat' first | with_reducible assumption | exact Fits.trans (by decide +kernel) hK | with_reducible apply only_out | with_reducible apply Only.ite | dsimp only | split | (with_reducible refine Only.fst (by with_reducible assumption) ?_) | (with_reducible refine Only.snd (by with_reducible assumption) ?_)

theorem State.draw_only {K : List Part} {F : FieldId → Prop} {P : PlotId → Prop} {s0 : State} (s : State) (hK : Fits ([.free] : List Part) K)
    (ho : Only K F P s0 s) : Only K F P s0 (State.draw s).2 := by
  unfold State.draw
  repeat' first | with_reducible assumption | exact Fits.trans (by decide +kernel) hK | with_reducible apply only_free | with_reducible apply Only.ite | dsimp only | split | (with_reducible refine Only.fst (by with_reducible assumption) ?_) | (with_reducible refine Only.snd (by with_reducible assumption) ?_)

theorem State.markDid_only {K : List Part} {F : FieldId → Prop} {P : PlotId → Prop} {s0 : State} (s : State) (f : FieldId) (n : Nat) (hK : Fits ([.tally] : List Part) K) (hF : F f)
    (ho : Only K F P s0 s) : Only K F P s0 (State.markDid s f n) := by
  unfold State.markDid
  repeat' first | with_reducible assumption | exact Fits.trans (by decide +kernel) hK | exact hF | with_reducible apply State.updField_only | (refine fun (X : Field) => ?_) | with_reducible apply FieldOnly.setReg | with_reducible exact FieldOnly.refl _ _ _ | with_reducible apply FieldOnly.updPlot | with_reducible apply FieldOnly.ite | (refine FieldOnly.keep rfl rfl (fun k hk => ?_); cases k <;> first | exact trivial | exact rfl | exact ⟨rfl, rfl⟩ | exact ⟨rfl, rfl, rfl⟩ | exact (Fits.not hK hk rfl).elim) | with_reducible apply Only.ite | dsimp only | split | (with_reducible refine Only.fst (by with_reducible assumption) ?_) | (with_reducible refine Only.snd (by with_reducible assumption) ?_)

theorem State.sramWrite_only {K : List Part} {F : FieldId → Prop} {P : PlotId → Prop} {s0 : State} (s : State) (a : Nat) (bs : List Byte) (hK : Fits ([.sram] : List Part) K)
    (ho : Only K F P s0 s) : Only K F P s0 (State.sramWrite s a bs) := by
  unfold State.sramWrite
  repeat' first | with_reducible assumption | exact Fits.trans (by decide +kernel) hK | with_reducible apply State.updMem_touch | apply Memories.setSram_only | exact MemOnly.refl _ _ _ | (refine fun m => (?_ : MemOnly _ _ _ _)) | with_reducible apply Only.ite | dsimp only | split | (with_reducible refine Only.fst (by with_reducible assumption) ?_) | (with_reducible refine Only.snd (by with_reducible assumption) ?_)

theorem State.raise_only {K : List Part} {F : FieldId → Prop} {P : PlotId → Prop} {s0 : State} (s : State) (f : FieldId) (e : EvKind) (items : List (Nat × Nat)) (injected : Bool) (hK : Fits ([.events] : List Part) K)
    (ho : Only K F P s0 s) : Only K F P s0 (State.raise s f e items injected) := by
  unfold State.raise
  repeat' first | with_reducible assumption | exact Fits.trans (by decide +kernel) hK | with_reducible apply only_events | with_reducible apply Only.ite | dsimp only | split | (with_reducible refine Only.fst (by with_reducible assumption) ?_) | (with_reducible refine Only.snd (by with_reducible assumption) ?_)

theorem State.raiseHub_only {K : List Part} {F : FieldId → Prop} {P : PlotId → Prop} {s0 : State} (s : State) (e : EvKind) (items : List (Nat × Nat)) (injected : Bool) (hK : Fits ([.events] : List Part) K)
    (ho : Only K F P s0 s) : Only K F P s0 (State.raiseHub s e items injected) := by
  unfold State.raiseHub
  repeat' first | with_reducible assumption | exact Fits.trans (by decide +kernel) hK | with_reducible apply only_events | with_reducible apply Only.ite | dsimp only | split | (with_reducible refine Only.fst (by with_reducible assumption) ?_) | (with_reducible refine Only.snd (by with_reducible assumption) ?_)

theorem State.healthInput_only {K : List Part} {F : FieldId → Prop} {P : PlotId → Prop} {s0 : State} (s : State) (f : FieldId) (injected : Bool) (hK : Fits ([.health] : List Part) K) (hF : F f)
    (ho : Only K F P s0 s) : Only K F P s0 (State.healthInput s f injected) := by
  unfold State.healthInput
  repeat' first | with_reducible assumption | exact Fits.trans (by decide +kernel) hK | exact hF | with_reducible apply State.updField_only | (refine fun (X : Field) => ?_) | with_reducible apply FieldOnly.setReg | with_reducible exact FieldOnly.refl _ _ _ | with_reducible apply FieldOnly.updPlot | with_reducible apply FieldOnly.ite | (refine FieldOnly.keep rfl rfl (fun k hk => ?_); cases k <;> first | exact trivial | exact rfl | exact ⟨rfl, rfl⟩ | exact ⟨rfl, rfl, rfl⟩ | exact (Fits.not hK hk rfl).elim) | with_reducible apply Only.ite | dsimp only | split | (with_reducible refine Only.fst (by with_reducible assumption) ?_) | (with_reducible refine Only.snd (by with_reducible assumption) ?_)

theorem State.hardEvent_only {K : List Part} {F : FieldId → Prop} {P : PlotId → Prop} {s0 : State} (s : State) (f : FieldId) (kind : Nat) (injected : Bool) (hK : Fits ([.hard] : List Part) K) (hF : F f)
    (ho : Only K F P s0 s) : Only K F P s0 (State.hardEvent s f kind injected) := by
  unfold State.hardEvent
  repeat' first | with_reducible assumption | exact Fits.trans (by decide +kernel) hK | exact hF | with_reducible apply State.updField_only | (refine fun (X : Field) => ?_) | with_reducible apply FieldOnly.setReg | with_reducible exact FieldOnly.refl _ _ _ | with_reducible apply FieldOnly.updPlot | with_reducible apply FieldOnly.ite | (refine FieldOnly.keep rfl rfl (fun k hk => ?_); cases k <;> first | exact trivial | exact rfl | exact ⟨rfl, rfl⟩ | exact ⟨rfl, rfl, rfl⟩ | exact (Fits.not hK hk rfl).elim) | with_reducible apply Only.ite | dsimp only | split | (with_reducible refine Only.fst (by with_reducible assumption) ?_) | (with_reducible refine Only.snd (by with_reducible assumption) ?_)

theorem State.injFire_only {K : List Part} {F : FieldId → Prop} {P : PlotId → Prop} {s0 : State} (s : State) (f : FieldId) (r : Nat) (hK : Fits ([.reg Reg.INJ_PT.ARM, .reg Reg.INJ_PT.DONE] : List Part) K) (hF : F f)
    (ho : Only K F P s0 s) : Only K F P s0 (State.injFire s f r) := by
  unfold State.injFire
  repeat' first | with_reducible assumption | exact Fits.trans (by decide +kernel) hK | exact hF | with_reducible apply State.fset_only | with_reducible apply Only.ite | dsimp only | split | (with_reducible refine Only.fst (by with_reducible assumption) ?_) | (with_reducible refine Only.snd (by with_reducible assumption) ?_)

theorem State.updMemu_only {K : List Part} {F : FieldId → Prop} {P : PlotId → Prop} {s0 : State} (s : State) (f : FieldId) (g : FieldMem → FieldMem) (hK : Fits ([.memu] : List Part) K) (hF : F f)
    (ho : Only K F P s0 s) : Only K F P s0 (State.updMemu s f g) := by
  unfold State.updMemu
  repeat' first | with_reducible assumption | exact Fits.trans (by decide +kernel) hK | exact hF | with_reducible apply State.updField_only | (refine fun (X : Field) => ?_) | with_reducible apply FieldOnly.setReg | with_reducible exact FieldOnly.refl _ _ _ | with_reducible apply FieldOnly.updPlot | with_reducible apply FieldOnly.ite | (refine FieldOnly.keep rfl rfl (fun k hk => ?_); cases k <;> first | exact trivial | exact rfl | exact ⟨rfl, rfl⟩ | exact ⟨rfl, rfl, rfl⟩ | exact (Fits.not hK hk rfl).elim) | with_reducible apply Only.ite | dsimp only | split | (with_reducible refine Only.fst (by with_reducible assumption) ?_) | (with_reducible refine Only.snd (by with_reducible assumption) ?_)

theorem State.repairLog_only {K : List Part} {F : FieldId → Prop} {P : PlotId → Prop} {s0 : State} (s : State) (f : FieldId) (r : HbmRow) (reason : Nat) (inj : Bool) (hK : Fits ([.events, .reg Reg.MEM_REPAIR_ENTRY.BANK, .reg Reg.MEM_REPAIR_ENTRY.CHANNEL, .reg Reg.MEM_REPAIR_ENTRY.PCH, .reg Reg.MEM_REPAIR_ENTRY.REASON, .reg Reg.MEM_REPAIR_ENTRY.RESULT, .reg Reg.MEM_REPAIR_ENTRY.ROW, .reg Reg.MEM_REPAIR_ENTRY.STACK, .reg Reg.MEM_REPAIR_ENTRY.VALID] : List Part) K) (hF : F f)
    (ho : Only K F P s0 s) : Only K F P s0 (State.repairLog s f r reason inj) := by
  unfold State.repairLog 
  repeat' first | with_reducible assumption | exact Fits.trans (by decide +kernel) hK | exact hF | with_reducible apply State.raise_only | with_reducible apply State.updField_only | (refine fun (X : Field) => ?_) | with_reducible apply FieldOnly.setReg | with_reducible exact FieldOnly.refl _ _ _ | with_reducible apply FieldOnly.updPlot | with_reducible apply FieldOnly.ite | (refine FieldOnly.keep rfl rfl (fun k hk => ?_); cases k <;> first | exact trivial | exact rfl | exact ⟨rfl, rfl⟩ | exact ⟨rfl, rfl, rfl⟩ | exact (Fits.not hK hk rfl).elim) | with_reducible apply Only.ite | dsimp only | split | (with_reducible refine Only.fst (by with_reducible assumption) ?_) | (with_reducible refine Only.snd (by with_reducible assumption) ?_) | unfold Field.repairWrite

theorem State.rowCorrected_only {K : List Part} {F : FieldId → Prop} {P : PlotId → Prop} {s0 : State} (s : State) (f : FieldId) (r : HbmRow) (inj : Bool) (hK : Fits ([.events, .reg Reg.MEM_REPAIR_ENTRY.BANK, .reg Reg.MEM_REPAIR_ENTRY.CHANNEL, .reg Reg.MEM_REPAIR_ENTRY.PCH, .reg Reg.MEM_REPAIR_ENTRY.REASON, .reg Reg.MEM_REPAIR_ENTRY.RESULT, .reg Reg.MEM_REPAIR_ENTRY.ROW, .reg Reg.MEM_REPAIR_ENTRY.STACK, .reg Reg.MEM_REPAIR_ENTRY.VALID, .memu] : List Part) K) (hF : F f)
    (ho : Only K F P s0 s) : Only K F P s0 (State.rowCorrected s f r inj) := by
  unfold State.rowCorrected
  repeat' first | with_reducible assumption | exact Fits.trans (by decide +kernel) hK | exact hF | with_reducible apply State.updMemu_only | with_reducible apply State.repairLog_only | with_reducible apply Only.ite | dsimp only | split | (with_reducible refine Only.fst (by with_reducible assumption) ?_) | (with_reducible refine Only.snd (by with_reducible assumption) ?_)

theorem State.markCur_only {K : List Part} {F : FieldId → Prop} {P : PlotId → Prop} {s0 : State} (s : State) (f : FieldId) (a : Nat) (hK : Fits ([.memu] : List Part) K) (hF : F f)
    (ho : Only K F P s0 s) : Only K F P s0 (State.markCur s f a) := by
  unfold State.markCur
  repeat' first | with_reducible assumption | exact Fits.trans (by decide +kernel) hK | exact hF | with_reducible apply State.updMemu_only | with_reducible apply Only.ite | dsimp only | split | (with_reducible refine Only.fst (by with_reducible assumption) ?_) | (with_reducible refine Only.snd (by with_reducible assumption) ?_)

theorem State.ctrlReadHalf_only {K : List Part} {F : FieldId → Prop} {P : PlotId → Prop} {s0 : State} (s : State) (f : FieldId) (h src : Nat) (hK : Fits (([.events, .hbmErr, .reg Reg.INJ_PT.ARM, .reg Reg.INJ_PT.DONE, .reg Reg.MEM_ECC_STAT.CORRECTED, .reg Reg.MEM_ECC_STAT.LAST_ADDR, .reg Reg.MEM_ECC_STAT.UNCORRECTED, .reg Reg.MEM_REPAIR_ENTRY.BANK, .reg Reg.MEM_REPAIR_ENTRY.CHANNEL, .reg Reg.MEM_REPAIR_ENTRY.PCH, .reg Reg.MEM_REPAIR_ENTRY.REASON, .reg Reg.MEM_REPAIR_ENTRY.RESULT, .reg Reg.MEM_REPAIR_ENTRY.ROW, .reg Reg.MEM_REPAIR_ENTRY.STACK, .reg Reg.MEM_REPAIR_ENTRY.VALID, .memu] : List Part) ++ ([.health] : List Part)) K) (hF : F f)
    (ho : Only K F P s0 s) : Only K F P s0 (State.ctrlReadHalf s f h src).1 := by
  unfold State.ctrlReadHalf
  repeat' first | with_reducible assumption | exact Fits.trans (by decide +kernel) hK | exact hF | with_reducible apply State.injFire_only | with_reducible apply State.healthInput_only | with_reducible apply State.fcount_only | with_reducible apply State.rowCorrected_only | with_reducible apply State.fset_only | with_reducible apply State.raise_only | with_reducible apply State.markCur_only | with_reducible apply State.repairLog_only | with_reducible apply State.updMem_touch | apply Memories.setHbmErr_only | exact MemOnly.refl _ _ _ | (refine fun m => (?_ : MemOnly _ _ _ _)) | with_reducible apply Only.ite | dsimp only | split | (with_reducible refine Only.fst (by with_reducible assumption) ?_) | (with_reducible refine Only.snd (by with_reducible assumption) ?_)

theorem State.ctrlWriteHalf_only {K : List Part} {F : FieldId → Prop} {P : PlotId → Prop} {s0 : State} (s : State) (f : FieldId) (h : Nat) (data : List Byte) (poisoned : Bool) (hK : Fits ([.hbm, .hbmErr] : List Part) K) (hF : F f)
    (ho : Only K F P s0 s) : Only K F P s0 (State.ctrlWriteHalf s f h data poisoned) := by
  unfold State.ctrlWriteHalf
  repeat' first | with_reducible assumption | exact Fits.trans (by decide +kernel) hK | exact hF | with_reducible apply State.updMem_touch | apply Memories.setHbmErr_only | apply Memories.setHbm_only | exact MemOnly.refl _ _ _ | (refine fun m => (?_ : MemOnly _ _ _ _)) | with_reducible apply Only.ite | dsimp only | split | (with_reducible refine Only.fst (by with_reducible assumption) ?_) | (with_reducible refine Only.snd (by with_reducible assumption) ?_)

theorem State.absorberFlush_only {K : List Part} {F : FieldId → Prop} {P : PlotId → Prop} {s0 : State} (s : State) (f : FieldId) (l : Nat) (hK : Fits ([.hbm, .hbmErr, .memu] : List Part) K) (hF : F f)
    (ho : Only K F P s0 s) : Only K F P s0 (State.absorberFlush s f l) := by
  unfold State.absorberFlush
  repeat' first | with_reducible assumption | exact Fits.trans (by decide +kernel) hK | exact hF | with_reducible apply State.updMemu_only | with_reducible apply State.ctrlWriteHalf_only | with_reducible apply Only.ite | dsimp only | split | (with_reducible refine Only.fst (by with_reducible assumption) ?_) | (with_reducible refine Only.snd (by with_reducible assumption) ?_)

theorem State.absorberPut_only {K : List Part} {F : FieldId → Prop} {P : PlotId → Prop} {s0 : State} (s : State) (f : FieldId) (x : AbsLine) (hK : Fits ([.hbm, .hbmErr, .memu] : List Part) K) (hF : F f)
    (ho : Only K F P s0 s) : Only K F P s0 (State.absorberPut s f x) := by
  unfold State.absorberPut
  repeat' first | with_reducible assumption | exact Fits.trans (by decide +kernel) hK | exact hF | with_reducible apply State.absorberFlush_only | with_reducible apply State.updMemu_only | with_reducible apply Only.ite | dsimp only | split | (with_reducible refine Only.fst (by with_reducible assumption) ?_) | (with_reducible refine Only.snd (by with_reducible assumption) ?_)

theorem State.absorberTouch_only {K : List Part} {F : FieldId → Prop} {P : PlotId → Prop} {s0 : State} (s : State) (f : FieldId) (x : AbsLine) (hK : Fits ([.memu] : List Part) K) (hF : F f)
    (ho : Only K F P s0 s) : Only K F P s0 (State.absorberTouch s f x) := by
  unfold State.absorberTouch
  repeat' first | with_reducible assumption | exact Fits.trans (by decide +kernel) hK | exact hF | with_reducible apply State.updMemu_only | with_reducible apply Only.ite | dsimp only | split | (with_reducible refine Only.fst (by with_reducible assumption) ?_) | (with_reducible refine Only.snd (by with_reducible assumption) ?_)

theorem State.rawLineRead_only {K : List Part} {F : FieldId → Prop} {P : PlotId → Prop} {s0 : State} (s : State) (f : FieldId) (l src : Nat) (hK : Fits (([.events, .hbmErr, .reg Reg.INJ_PT.ARM, .reg Reg.INJ_PT.DONE, .reg Reg.MEM_ECC_STAT.CORRECTED, .reg Reg.MEM_ECC_STAT.LAST_ADDR, .reg Reg.MEM_ECC_STAT.UNCORRECTED, .reg Reg.MEM_REPAIR_ENTRY.BANK, .reg Reg.MEM_REPAIR_ENTRY.CHANNEL, .reg Reg.MEM_REPAIR_ENTRY.PCH, .reg Reg.MEM_REPAIR_ENTRY.REASON, .reg Reg.MEM_REPAIR_ENTRY.RESULT, .reg Reg.MEM_REPAIR_ENTRY.ROW, .reg Reg.MEM_REPAIR_ENTRY.STACK, .reg Reg.MEM_REPAIR_ENTRY.VALID, .memu] : List Part) ++ ([.health] : List Part)) K) (hF : F f)
    (ho : Only K F P s0 s) : Only K F P s0 (State.rawLineRead s f l src).1 := by
  unfold State.rawLineRead
  repeat' first | with_reducible assumption | exact Fits.trans (by decide +kernel) hK | exact hF | with_reducible apply State.absorberTouch_only | with_reducible apply State.ctrlReadHalf_only | with_reducible apply Only.ite | dsimp only | split | (with_reducible refine Only.fst (by with_reducible assumption) ?_) | (with_reducible refine Only.snd (by with_reducible assumption) ?_)

theorem State.lineApply_only {K : List Part} {F : FieldId → Prop} {P : PlotId → Prop} {s0 : State} (s : State) (f : FieldId) (l : Nat) (runs : List (Nat × List Byte)) (poisoned : Bool) (src : Nat) (hK : Fits (([.events, .hbm, .hbmErr, .reg Reg.GWY_STAT.ABSORBED, .reg Reg.INJ_PT.ARM, .reg Reg.INJ_PT.DONE, .reg Reg.MEM_ECC_STAT.CORRECTED, .reg Reg.MEM_ECC_STAT.LAST_ADDR, .reg Reg.MEM_ECC_STAT.POISON_WRITES, .reg Reg.MEM_ECC_STAT.UNCORRECTED, .reg Reg.MEM_REPAIR_ENTRY.BANK, .reg Reg.MEM_REPAIR_ENTRY.CHANNEL, .reg Reg.MEM_REPAIR_ENTRY.PCH, .reg Reg.MEM_REPAIR_ENTRY.REASON, .reg Reg.MEM_REPAIR_ENTRY.RESULT, .reg Reg.MEM_REPAIR_ENTRY.ROW] : List Part) ++ ([.reg Reg.MEM_REPAIR_ENTRY.STACK, .reg Reg.MEM_REPAIR_ENTRY.VALID, .memu, .health] : List Part)) K) (hF : F f)
    (ho : Only K F P s0 s) : Only K F P s0 (State.lineApply s f l runs poisoned src) := by
  unfold State.lineApply
  repeat' first | with_reducible assumption | exact Fits.trans (by decide +kernel) hK | exact hF | with_reducible apply State.fwrap_only | with_reducible apply State.rawLineRead_only | with_reducible apply State.fcount_only | with_reducible apply State.markCur_only | with_reducible apply State.absorberPut_only | with_reducible apply Only.ite | dsimp only | split | (with_reducible refine Only.fst (by with_reducible assumption) ?_) | (with_reducible refine Only.snd (by with_reducible assumption) ?_)

theorem State.lineRuns_only {K : List Part} {F : FieldId → Prop} {P : PlotId → Prop} {s0 : State} (s : State) (f : FieldId) (l : Nat) (runs : List (Nat × List Byte)) (poisoned : Bool) (src : Nat) (hK : Fits (([.events, .hbm, .hbmErr, .reg Reg.GWY_STAT.ABSORBED, .reg Reg.INJ_PT.ARM, .reg Reg.INJ_PT.DONE, .reg Reg.MEM_ECC_STAT.CORRECTED, .reg Reg.MEM_ECC_STAT.LAST_ADDR, .reg Reg.MEM_ECC_STAT.POISON_WRITES, .reg Reg.MEM_ECC_STAT.UNCORRECTED, .reg Reg.MEM_REPAIR_ENTRY.BANK, .reg Reg.MEM_REPAIR_ENTRY.CHANNEL, .reg Reg.MEM_REPAIR_ENTRY.PCH, .reg Reg.MEM_REPAIR_ENTRY.REASON, .reg Reg.MEM_REPAIR_ENTRY.RESULT, .reg Reg.MEM_REPAIR_ENTRY.ROW] : List Part) ++ ([.reg Reg.MEM_REPAIR_ENTRY.STACK, .reg Reg.MEM_REPAIR_ENTRY.VALID, .memu, .health] : List Part)) K) (hF : F f)
    (ho : Only K F P s0 s) : Only K F P s0 (State.lineRuns s f l runs poisoned src).1 := by
  unfold State.lineRuns
  repeat' first | with_reducible assumption | exact Fits.trans (by decide +kernel) hK | exact hF | with_reducible apply State.updMemu_only | with_reducible apply State.lineApply_only | with_reducible apply Only.ite | dsimp only | split | (with_reducible refine Only.fst (by with_reducible assumption) ?_) | (with_reducible refine Only.snd (by with_reducible assumption) ?_)

theorem State.lineWrite_only {K : List Part} {F : FieldId → Prop} {P : PlotId → Prop} {s0 : State} (s : State) (f : FieldId) (a : Nat) (new : List Byte) (poisoned : Bool) (src : Nat) (hK : Fits (([.events, .hbm, .hbmErr, .reg Reg.GWY_STAT.ABSORBED, .reg Reg.INJ_PT.ARM, .reg Reg.INJ_PT.DONE, .reg Reg.MEM_ECC_STAT.CORRECTED, .reg Reg.MEM_ECC_STAT.LAST_ADDR, .reg Reg.MEM_ECC_STAT.POISON_WRITES, .reg Reg.MEM_ECC_STAT.UNCORRECTED, .reg Reg.MEM_REPAIR_ENTRY.BANK, .reg Reg.MEM_REPAIR_ENTRY.CHANNEL, .reg Reg.MEM_REPAIR_ENTRY.PCH, .reg Reg.MEM_REPAIR_ENTRY.REASON, .reg Reg.MEM_REPAIR_ENTRY.RESULT, .reg Reg.MEM_REPAIR_ENTRY.ROW] : List Part) ++ ([.reg Reg.MEM_REPAIR_ENTRY.STACK, .reg Reg.MEM_REPAIR_ENTRY.VALID, .memu, .health] : List Part)) K) (hF : F f)
    (ho : Only K F P s0 s) : Only K F P s0 (State.lineWrite s f a new poisoned src).1 := by
  unfold State.lineWrite
  repeat' first | with_reducible assumption | exact Fits.trans (by decide +kernel) hK | exact hF | with_reducible apply State.lineRuns_only | with_reducible apply Only.ite | dsimp only | split | (with_reducible refine Only.fst (by with_reducible assumption) ?_) | (with_reducible refine Only.snd (by with_reducible assumption) ?_)

theorem State.lineRead_only {K : List Part} {F : FieldId → Prop} {P : PlotId → Prop} {s0 : State} (s : State) (f : FieldId) (l src : Nat) (hK : Fits (([.events, .hbmErr, .reg Reg.INJ_PT.ARM, .reg Reg.INJ_PT.DONE, .reg Reg.MEM_ECC_STAT.CORRECTED, .reg Reg.MEM_ECC_STAT.LAST_ADDR, .reg Reg.MEM_ECC_STAT.UNCORRECTED, .reg Reg.MEM_REPAIR_ENTRY.BANK, .reg Reg.MEM_REPAIR_ENTRY.CHANNEL, .reg Reg.MEM_REPAIR_ENTRY.PCH, .reg Reg.MEM_REPAIR_ENTRY.REASON, .reg Reg.MEM_REPAIR_ENTRY.RESULT, .reg Reg.MEM_REPAIR_ENTRY.ROW, .reg Reg.MEM_REPAIR_ENTRY.STACK, .reg Reg.MEM_REPAIR_ENTRY.VALID, .memu] : List Part) ++ ([.health] : List Part)) K) (hF : F f)
    (ho : Only K F P s0 s) : Only K F P s0 (State.lineRead s f l src).1 := by
  unfold State.lineRead
  repeat' first | with_reducible assumption | exact Fits.trans (by decide +kernel) hK | exact hF | with_reducible apply State.rawLineRead_only | with_reducible apply Only.ite | dsimp only | split | (with_reducible refine Only.foldl _ _ (fun t a ht => ?_) ?_) | (with_reducible refine Only.foldl_fst _ _ _ (fun t a ht => ?_) ?_) | (with_reducible refine Only.fst (by with_reducible assumption) ?_) | (with_reducible refine Only.snd (by with_reducible assumption) ?_)

theorem State.hbmReadLoop_only {K : List Part} {F : FieldId → Prop} {P : PlotId → Prop} {s0 : State} (s : State) (f : FieldId) (a n src fuel : Nat) (hK : Fits (([.events, .hbmErr, .reg Reg.INJ_PT.ARM, .reg Reg.INJ_PT.DONE, .reg Reg.MEM_ECC_STAT.CORRECTED, .reg Reg.MEM_ECC_STAT.LAST_ADDR, .reg Reg.MEM_ECC_STAT.UNCORRECTED, .reg Reg.MEM_REPAIR_ENTRY.BANK, .reg Reg.MEM_REPAIR_ENTRY.CHANNEL, .reg Reg.MEM_REPAIR_ENTRY.PCH, .reg Reg.MEM_REPAIR_ENTRY.REASON, .reg Reg.MEM_REPAIR_ENTRY.RESULT, .reg Reg.MEM_REPAIR_ENTRY.ROW, .reg Reg.MEM_REPAIR_ENTRY.STACK, .reg Reg.MEM_REPAIR_ENTRY.VALID, .memu] : List Part) ++ ([.health] : List Part)) K) (hF : F f)
    (ho : Only K F P s0 s) : Only K F P s0 (State.hbmReadLoop s f a n src fuel).1 := by
  induction fuel generalizing s a n src with
  | zero => simp only [State.hbmReadLoop]; (repeat' first | with_reducible assumption | exact Fits.trans (by decide +kernel) hK | exact hF | with_reducible apply State.lineRead_only | with_reducible apply Only.ite | dsimp only | split | (with_reducible refine Only.fst (by with_reducible assumption) ?_) | (with_reducible refine Only.snd (by with_reducible assumption) ?_))
  | succ fuel ih => simp only [State.hbmReadLoop]; (repeat' first | with_reducible assumption | with_reducible apply ih | with_reducible assumption | exact Fits.trans (by decide +kernel) hK | exact hF | with_reducible apply State.lineRead_only | with_reducible apply Only.ite | dsimp only | split | (with_reducible refine Only.fst (by with_reducible assumption) ?_) | (with_reducible refine Only.snd (by with_reducible assumption) ?_))

theorem State.hbmRead_only {K : List Part} {F : FieldId → Prop} {P : PlotId → Prop} {s0 : State} (s : State) (f : FieldId) (a n src : Nat) (hK : Fits (([.events, .hbmErr, .reg Reg.INJ_PT.ARM, .reg Reg.INJ_PT.DONE, .reg Reg.MEM_ECC_STAT.CORRECTED, .reg Reg.MEM_ECC_STAT.LAST_ADDR, .reg Reg.MEM_ECC_STAT.UNCORRECTED, .reg Reg.MEM_REPAIR_ENTRY.BANK, .reg Reg.MEM_REPAIR_ENTRY.CHANNEL, .reg Reg.MEM_REPAIR_ENTRY.PCH, .reg Reg.MEM_REPAIR_ENTRY.REASON, .reg Reg.MEM_REPAIR_ENTRY.RESULT, .reg Reg.MEM_REPAIR_ENTRY.ROW, .reg Reg.MEM_REPAIR_ENTRY.STACK, .reg Reg.MEM_REPAIR_ENTRY.VALID, .memu] : List Part) ++ ([.health] : List Part)) K) (hF : F f)
    (ho : Only K F P s0 s) : Only K F P s0 (State.hbmRead s f a n src).1 := by
  unfold State.hbmRead
  repeat' first | with_reducible assumption | exact Fits.trans (by decide +kernel) hK | exact hF | with_reducible apply State.hbmReadLoop_only | with_reducible apply Only.ite | dsimp only | split | (with_reducible refine Only.fst (by with_reducible assumption) ?_) | (with_reducible refine Only.snd (by with_reducible assumption) ?_)

theorem State.hbmWriteLoop_only {K : List Part} {F : FieldId → Prop} {P : PlotId → Prop} {s0 : State} (s : State) (f : FieldId) (a : Nat) (new : List Byte) (poisoned : Bool) (src fuel : Nat) (hK : Fits (([.events, .hbm, .hbmErr, .reg Reg.GWY_STAT.ABSORBED, .reg Reg.INJ_PT.ARM, .reg Reg.INJ_PT.DONE, .reg Reg.MEM_ECC_STAT.CORRECTED, .reg Reg.MEM_ECC_STAT.LAST_ADDR, .reg Reg.MEM_ECC_STAT.POISON_WRITES, .reg Reg.MEM_ECC_STAT.UNCORRECTED, .reg Reg.MEM_REPAIR_ENTRY.BANK, .reg Reg.MEM_REPAIR_ENTRY.CHANNEL, .reg Reg.MEM_REPAIR_ENTRY.PCH, .reg Reg.MEM_REPAIR_ENTRY.REASON, .reg Reg.MEM_REPAIR_ENTRY.RESULT, .reg Reg.MEM_REPAIR_ENTRY.ROW] : List Part) ++ ([.reg Reg.MEM_REPAIR_ENTRY.STACK, .reg Reg.MEM_REPAIR_ENTRY.VALID, .memu, .health] : List Part)) K) (hF : F f)
    (ho : Only K F P s0 s) : Only K F P s0 (State.hbmWriteLoop s f a new poisoned src fuel).1 := by
  induction fuel generalizing s a new poisoned src with
  | zero => simp only [State.hbmWriteLoop]; (repeat' first | with_reducible assumption | exact Fits.trans (by decide +kernel) hK | exact hF | with_reducible apply State.lineWrite_only | with_reducible apply Only.ite | dsimp only | split | (with_reducible refine Only.fst (by with_reducible assumption) ?_) | (with_reducible refine Only.snd (by with_reducible assumption) ?_))
  | succ fuel ih => simp only [State.hbmWriteLoop]; (repeat' first | with_reducible assumption | with_reducible apply ih | with_reducible assumption | exact Fits.trans (by decide +kernel) hK | exact hF | with_reducible apply State.lineWrite_only | with_reducible apply Only.ite | dsimp only | split | (with_reducible refine Only.fst (by with_reducible assumption) ?_) | (with_reducible refine Only.snd (by with_reducible assumption) ?_))

theorem State.hbmWrite_only {K : List Part} {F : FieldId → Prop} {P : PlotId → Prop} {s0 : State} (s : State) (f : FieldId) (a : Nat) (new : List Byte) (poisoned : Bool) (src : Nat) (hK : Fits (([.events, .hbm, .hbmErr, .reg Reg.GWY_STAT.ABSORBED, .reg Reg.INJ_PT.ARM, .reg Reg.INJ_PT.DONE, .reg Reg.MEM_ECC_STAT.CORRECTED, .reg Reg.MEM_ECC_STAT.LAST_ADDR, .reg Reg.MEM_ECC_STAT.POISON_WRITES, .reg Reg.MEM_ECC_STAT.UNCORRECTED, .reg Reg.MEM_REPAIR_ENTRY.BANK, .reg Reg.MEM_REPAIR_ENTRY.CHANNEL, .reg Reg.MEM_REPAIR_ENTRY.PCH, .reg Reg.MEM_REPAIR_ENTRY.REASON, .reg Reg.MEM_REPAIR_ENTRY.RESULT, .reg Reg.MEM_REPAIR_ENTRY.ROW] : List Part) ++ ([.reg Reg.MEM_REPAIR_ENTRY.STACK, .reg Reg.MEM_REPAIR_ENTRY.VALID, .memu, .health] : List Part)) K) (hF : F f)
    (ho : Only K F P s0 s) : Only K F P s0 (State.hbmWrite s f a new poisoned src).1 := by
  unfold State.hbmWrite
  repeat' first | with_reducible assumption | exact Fits.trans (by decide +kernel) hK | exact hF | with_reducible apply State.hbmWriteLoop_only | with_reducible apply Only.ite | dsimp only | split | (with_reducible refine Only.fst (by with_reducible assumption) ?_) | (with_reducible refine Only.snd (by with_reducible assumption) ?_)

theorem State.storeReadWord_only {K : List Part} {F : FieldId → Prop} {P : PlotId → Prop} {s0 : State} (s : State) (f : FieldId) (p : PlotId) (w rq : Nat) (hK : Fits ([.events, .storeErr, .plotReg Reg.PLT_STORE_ECC.CORRECTED, .plotReg Reg.PLT_STORE_ECC.LAST_ADDR, .plotReg Reg.PLT_STORE_ECC.UNCORRECTED, .health] : List Part) K) (hF : F f) (hP : P p)
    (ho : Only K F P s0 s) : Only K F P s0 (State.storeReadWord s f p w rq).1 := by
  unfold State.storeReadWord
  repeat' first | with_reducible assumption | exact Fits.trans (by decide +kernel) hK | exact hF | exact hP | with_reducible apply State.healthInput_only | with_reducible apply State.pcount_only | with_reducible apply State.pset_only | with_reducible apply State.raise_only | with_reducible apply State.updMem_touch | apply Memories.setStoreErr_only | exact MemOnly.refl _ _ _ | (refine fun m => (?_ : MemOnly _ _ _ _)) | with_reducible apply Only.ite | dsimp only | split | (with_reducible refine Only.fst (by with_reducible assumption) ?_) | (with_reducible refine Only.snd (by with_reducible assumption) ?_)

theorem State.storeReadWords_only {K : List Part} {F : FieldId → Prop} {P : PlotId → Prop} {s0 : State} (s : State) (f : FieldId) (p : PlotId) (w rq fuel : Nat) (hK : Fits ([.events, .storeErr, .plotReg Reg.PLT_STORE_ECC.CORRECTED, .plotReg Reg.PLT_STORE_ECC.LAST_ADDR, .plotReg Reg.PLT_STORE_ECC.UNCORRECTED, .health] : List Part) K) (hF : F f) (hP : P p)
    (ho : Only K F P s0 s) : Only K F P s0 (State.storeReadWords s f p w rq fuel).1 := by
  induction fuel generalizing s w rq with
  | zero => simp only [State.storeReadWords]; (repeat' first | with_reducible assumption | exact Fits.trans (by decide +kernel) hK | exact hF | exact hP | with_reducible apply State.storeReadWord_only | with_reducible apply Only.ite | dsimp only | split | (with_reducible refine Only.fst (by with_reducible assumption) ?_) | (with_reducible refine Only.snd (by with_reducible assumption) ?_))
  | succ fuel ih => simp only [State.storeReadWords]; (repeat' first | with_reducible assumption | with_reducible apply ih | with_reducible assumption | exact Fits.trans (by decide +kernel) hK | exact hF | exact hP | with_reducible apply State.storeReadWord_only | with_reducible apply Only.ite | dsimp only | split | (with_reducible refine Only.fst (by with_reducible assumption) ?_) | (with_reducible refine Only.snd (by with_reducible assumption) ?_))

theorem State.storeInject_only {K : List Part} {F : FieldId → Prop} {P : PlotId → Prop} {s0 : State} (s : State) (f : FieldId) (p : PlotId) (a : Nat) (hK : Fits ([.storeErr, .reg Reg.INJ_PT.ARM, .reg Reg.INJ_PT.DONE] : List Part) K) (hF : F f)
    (ho : Only K F P s0 s) : Only K F P s0 (State.storeInject s f p a) := by
  unfold State.storeInject
  repeat' first | with_reducible assumption | exact Fits.trans (by decide +kernel) hK | exact hF | with_reducible apply State.injFire_only | with_reducible apply State.updMem_touch | apply Memories.setStoreErr_only | exact MemOnly.refl _ _ _ | (refine fun m => (?_ : MemOnly _ _ _ _)) | with_reducible apply Only.ite | dsimp only | split | (with_reducible refine Only.fst (by with_reducible assumption) ?_) | (with_reducible refine Only.snd (by with_reducible assumption) ?_)

theorem State.storeRead_only {K : List Part} {F : FieldId → Prop} {P : PlotId → Prop} {s0 : State} (s : State) (f : FieldId) (p : PlotId) (a n rq : Nat) (hK : Fits ([.events, .storeErr, .reg Reg.INJ_PT.ARM, .reg Reg.INJ_PT.DONE, .plotReg Reg.PLT_STORE_ECC.CORRECTED, .plotReg Reg.PLT_STORE_ECC.LAST_ADDR, .plotReg Reg.PLT_STORE_ECC.UNCORRECTED, .health] : List Part) K) (hF : F f) (hP : P p)
    (ho : Only K F P s0 s) : Only K F P s0 (State.storeRead s f p a n rq).1 := by
  unfold State.storeRead
  repeat' first | with_reducible assumption | exact Fits.trans (by decide +kernel) hK | exact hF | exact hP | with_reducible apply State.storeInject_only | with_reducible apply State.storeReadWords_only | with_reducible apply Only.ite | dsimp only | split | (with_reducible refine Only.fst (by with_reducible assumption) ?_) | (with_reducible refine Only.snd (by with_reducible assumption) ?_)

theorem State.storeWriteWord_only {K : List Part} {F : FieldId → Prop} {P : PlotId → Prop} {s0 : State} (s : State) (f : FieldId) (p : PlotId) (a : Nat) (new : List Byte) (rq : Nat) (part : Bool) (hK : Fits ([.events, .store, .storeErr, .plotReg Reg.PLT_STORE_ECC.CORRECTED, .plotReg Reg.PLT_STORE_ECC.LAST_ADDR, .plotReg Reg.PLT_STORE_ECC.UNCORRECTED, .health] : List Part) K) (hF : F f) (hP : P p)
    (ho : Only K F P s0 s) : Only K F P s0 (State.storeWriteWord s f p a new rq part) := by
  unfold State.storeWriteWord
  repeat' first | with_reducible assumption | exact Fits.trans (by decide +kernel) hK | exact hF | exact hP | with_reducible apply State.storeReadWord_only | with_reducible apply State.updMem_touch | apply Memories.setStoreErr_only | apply Memories.setStore_only | exact MemOnly.refl _ _ _ | (refine fun m => (?_ : MemOnly _ _ _ _)) | with_reducible apply Only.ite | dsimp only | split | (with_reducible refine Only.fst (by with_reducible assumption) ?_) | (with_reducible refine Only.snd (by with_reducible assumption) ?_)

theorem State.storeWriteLoop_only {K : List Part} {F : FieldId → Prop} {P : PlotId → Prop} {s0 : State} (s : State) (f : FieldId) (p : PlotId) (a : Nat) (new : List Byte) (rq : Nat) (part : Bool) (fuel : Nat) (hK : Fits ([.events, .store, .storeErr, .plotReg Reg.PLT_STORE_ECC.CORRECTED, .plotReg Reg.PLT_STORE_ECC.LAST_ADDR, .plotReg Reg.PLT_STORE_ECC.UNCORRECTED, .health] : List Part) K) (hF : F f) (hP : P p)
    (ho : Only K F P s0 s) : Only K F P s0 (State.storeWriteLoop s f p a new rq part fuel) := by
  induction fuel generalizing s a new rq part with
  | zero => simp only [State.storeWriteLoop]; (repeat' first | with_reducible assumption | exact Fits.trans (by decide +kernel) hK | exact hF | exact hP | with_reducible apply State.storeWriteWord_only | with_reducible apply Only.ite | dsimp only | split | (with_reducible refine Only.fst (by with_reducible assumption) ?_) | (with_reducible refine Only.snd (by with_reducible assumption) ?_))
  | succ fuel ih => simp only [State.storeWriteLoop]; (repeat' first | with_reducible assumption | with_reducible apply ih | with_reducible assumption | exact Fits.trans (by decide +kernel) hK | exact hF | exact hP | with_reducible apply State.storeWriteWord_only | with_reducible apply Only.ite | dsimp only | split | (with_reducible refine Only.fst (by with_reducible assumption) ?_) | (with_reducible refine Only.snd (by with_reducible assumption) ?_))

theorem State.storeWrite_only {K : List Part} {F : FieldId → Prop} {P : PlotId → Prop} {s0 : State} (s : State) (f : FieldId) (p : PlotId) (a : Nat) (new : List Byte) (rq : Nat) (part : Bool) (hK : Fits ([.events, .store, .storeErr, .plotReg Reg.PLT_STORE_ECC.CORRECTED, .plotReg Reg.PLT_STORE_ECC.LAST_ADDR, .plotReg Reg.PLT_STORE_ECC.UNCORRECTED, .health] : List Part) K) (hF : F f) (hP : P p)
    (ho : Only K F P s0 s) : Only K F P s0 (State.storeWrite s f p a new rq part) := by
  unfold State.storeWrite
  repeat' first | with_reducible assumption | exact Fits.trans (by decide +kernel) hK | exact hF | exact hP | with_reducible apply State.storeWriteLoop_only | with_reducible apply Only.ite | dsimp only | split | (with_reducible refine Only.fst (by with_reducible assumption) ?_) | (with_reducible refine Only.snd (by with_reducible assumption) ?_)

theorem State.storePoison_only {K : List Part} {F : FieldId → Prop} {P : PlotId → Prop} {s0 : State} (s : State) (f : FieldId) (p : PlotId) (w fuel : Nat) (hK : Fits ([.storeErr] : List Part) K) (hF : F f)
    (ho : Only K F P s0 s) : Only K F P s0 (State.storePoison s f p w fuel) := by
  induction fuel generalizing s w with
  | zero => simp only [State.storePoison]; (repeat' first | with_reducible assumption | exact Fits.trans (by decide +kernel) hK | exact hF | with_reducible apply State.updMem_touch | apply Memories.setStoreErr_only | exact MemOnly.refl _ _ _ | (refine fun m => (?_ : MemOnly _ _ _ _)) | with_reducible apply Only.ite | dsimp only | split | (with_reducible refine Only.fst (by with_reducible assumption) ?_) | (with_reducible refine Only.snd (by with_reducible assumption) ?_))
  | succ fuel ih => simp only [State.storePoison]; (repeat' first | with_reducible assumption | with_reducible apply ih | with_reducible assumption | exact Fits.trans (by decide +kernel) hK | exact hF | with_reducible apply State.updMem_touch | apply Memories.setStoreErr_only | exact MemOnly.refl _ _ _ | (refine fun m => (?_ : MemOnly _ _ _ _)) | with_reducible apply Only.ite | dsimp only | split | (with_reducible refine Only.fst (by with_reducible assumption) ?_) | (with_reducible refine Only.snd (by with_reducible assumption) ?_))

theorem State.binReadRaw_only {K : List Part} {F : FieldId → Prop} {P : PlotId → Prop} {s0 : State} (s : State) (f : FieldId) (p : PlotId) (t row col : Nat) (hK : Fits ([.events, .binErr, .counts, .health] : List Part) K) (hF : F f)
    (ho : Only K F P s0 s) : Only K F P s0 (State.binReadRaw s f p t row col).1 := by
  unfold State.binReadRaw
  repeat' first | with_reducible assumption | exact Fits.trans (by decide +kernel) hK | exact hF | with_reducible apply State.healthInput_only | with_reducible apply State.updField_only | with_reducible apply State.raise_only | (refine fun (X : Field) => ?_) | with_reducible apply FieldOnly.setReg | with_reducible exact FieldOnly.refl _ _ _ | with_reducible apply FieldOnly.updPlot | with_reducible apply FieldOnly.ite | (refine FieldOnly.keep rfl rfl (fun k hk => ?_); cases k <;> first | exact trivial | exact rfl | exact ⟨rfl, rfl⟩ | exact ⟨rfl, rfl, rfl⟩ | exact (Fits.not hK hk rfl).elim) | with_reducible apply State.updMem_touch | apply Memories.setBinErr_only | exact MemOnly.refl _ _ _ | (refine fun m => (?_ : MemOnly _ _ _ _)) | with_reducible apply Only.ite | dsimp only | split | (with_reducible refine Only.fst (by with_reducible assumption) ?_) | (with_reducible refine Only.snd (by with_reducible assumption) ?_)

theorem State.binWrite_only {K : List Part} {F : FieldId → Prop} {P : PlotId → Prop} {s0 : State} (s : State) (f : FieldId) (p : PlotId) (t row col v : Nat) (hK : Fits ([.bin, .binErr, .reg Reg.INJ_ARITH.ARM, .reg Reg.INJ_ARITH.DONE] : List Part) K) (hF : F f)
    (ho : Only K F P s0 s) : Only K F P s0 (State.binWrite s f p t row col v) := by
  unfold State.binWrite
  repeat' first | with_reducible assumption | exact Fits.trans (by decide +kernel) hK | exact hF | with_reducible apply State.fset_only | with_reducible apply State.updMem_touch | apply Memories.setBinErr_only | apply Memories.setBin_only | exact MemOnly.refl _ _ _ | (refine fun m => (?_ : MemOnly _ _ _ _)) | with_reducible apply Only.ite | dsimp only | split | (with_reducible refine Only.fst (by with_reducible assumption) ?_) | (with_reducible refine Only.snd (by with_reducible assumption) ?_)

theorem State.setBinPoison_only {K : List Part} {F : FieldId → Prop} {P : PlotId → Prop} {s0 : State} (s : State) (f : FieldId) (p : PlotId) (t row : Nat) (b : Bool) (hK : Fits ([.binErr] : List Part) K) (hF : F f)
    (ho : Only K F P s0 s) : Only K F P s0 (State.setBinPoison s f p t row b) := by
  unfold State.setBinPoison
  repeat' first | with_reducible assumption | exact Fits.trans (by decide +kernel) hK | exact hF | with_reducible apply State.updMem_touch | apply Memories.setBinPoison_only | exact MemOnly.refl _ _ _ | (refine fun m => (?_ : MemOnly _ _ _ _)) | with_reducible apply Only.ite | dsimp only | split | (with_reducible refine Only.fst (by with_reducible assumption) ?_) | (with_reducible refine Only.snd (by with_reducible assumption) ?_)

end Sys2Proof.Machine
end

