-- ==== Sys2Proof/Laws/Touch/Events.lean ====
section
/-! SUPPORT. What each operation of Machine/Events.lean can change: the parts named, and nothing else. -/

namespace Sys2Proof.Machine

set_option Elab.async false

open Sys2Proof

theorem State.msixCall_only {K : List Part} {F : FieldId → Prop} {P : PlotId → Prop} {s0 : State} (s : State) (fn c : Nat) (hK : Fits ([.msix] : List Part) K)
    (ho : Only K F P s0 s) : Only K F P s0 (State.msixCall s fn c) := by
  unfold State.msixCall
  repeat' first | with_reducible assumption | exact Fits.trans (by decide +kernel) hK | with_reducible apply State.updHub_only | (refine fun (X : Hub) => ?_) | with_reducible apply HubOnly.setReg | with_reducible exact HubOnly.refl _ _ | with_reducible apply HubOnly.ite | (refine HubOnly.keep rfl (fun k hk => ?_); cases k <;> first | exact trivial | exact rfl | exact ⟨rfl, rfl⟩ | exact ⟨rfl, rfl, rfl⟩ | exact ⟨rfl, rfl, rfl, rfl⟩ | exact (Fits.not hK hk rfl).elim) | with_reducible apply Only.ite | dsimp only | split | (with_reducible refine Only.fst (by with_reducible assumption) ?_) | (with_reducible refine Only.snd (by with_reducible assumption) ?_)

theorem State.hubRing_only {K : List Part} {F : FieldId → Prop} {P : PlotId → Prop} {s0 : State} (s : State) (rcd : List Byte) (c : Nat) (hK : Fits ([.sram, .hubReg Reg.HUB_EVT_IDX.LOST, .hubReg Reg.HUB_EVT_IDX.PROD, .msix] : List Part) K)
    (ho : Only K F P s0 s) : Only K F P s0 (State.hubRing s rcd c) := by
  unfold State.hubRing
  repeat' first | with_reducible assumption | exact Fits.trans (by decide +kernel) hK | with_reducible apply State.hcount_only | with_reducible apply State.msixCall_only | with_reducible apply State.hset_only | with_reducible apply State.sramWrite_only | with_reducible apply Only.ite | dsimp only | split | (with_reducible refine Only.fst (by with_reducible assumption) ?_) | (with_reducible refine Only.snd (by with_reducible assumption) ?_)

theorem State.fieldRing_only {K : List Part} {F : FieldId → Prop} {P : PlotId → Prop} {s0 : State} (s : State) (f : FieldId) (rcd : List Byte) (c : Nat) (hK : Fits (([.events, .msix, .hbm, .hbmErr, .reg Reg.FLD_EVT_IDX.LOST, .reg Reg.FLD_EVT_IDX.PROD, .reg Reg.GWY_STAT.ABSORBED, .reg Reg.INJ_PT.ARM, .reg Reg.INJ_PT.DONE, .reg Reg.MEM_ECC_STAT.CORRECTED, .reg Reg.MEM_ECC_STAT.LAST_ADDR, .reg Reg.MEM_ECC_STAT.POISON_WRITES, .reg Reg.MEM_ECC_STAT.UNCORRECTED, .reg Reg.MEM_REPAIR_ENTRY.BANK, .reg Reg.MEM_REPAIR_ENTRY.CHANNEL, .reg Reg.MEM_REPAIR_ENTRY.PCH] : List Part) ++ ([.reg Reg.MEM_REPAIR_ENTRY.REASON, .reg Reg.MEM_REPAIR_ENTRY.RESULT, .reg Reg.MEM_REPAIR_ENTRY.ROW, .reg Reg.MEM_REPAIR_ENTRY.STACK, .reg Reg.MEM_REPAIR_ENTRY.VALID, .memu, .health] : List Part)) K) (hF : F f)
    (ho : Only K F P s0 s) : Only K F P s0 (State.fieldRing s f rcd c) := by
  unfold State.fieldRing
  repeat' first | with_reducible assumption | exact Fits.trans (by decide +kernel) hK | exact hF | with_reducible apply State.fcount_only | with_reducible apply State.hbmWrite_only | with_reducible apply State.msixCall_only | with_reducible apply State.fset_only | with_reducible apply Only.ite | dsimp only | split | (with_reducible refine Only.fst (by with_reducible assumption) ?_) | (with_reducible refine Only.snd (by with_reducible assumption) ?_)

theorem State.forward_only {K : List Part} {F : FieldId → Prop} {P : PlotId → Prop} {s0 : State} (s : State) (f : FieldId) (rcd : List Byte) (c : Nat) (hK : Fits ([.forward] : List Part) K) (hF : F f)
    (ho : Only K F P s0 s) : Only K F P s0 (State.forward s f rcd c) := by
  unfold State.forward
  repeat' first | with_reducible assumption | exact Fits.trans (by decide +kernel) hK | exact hF | with_reducible apply State.updField_only | (refine fun (X : Field) => ?_) | with_reducible apply FieldOnly.setReg | with_reducible exact FieldOnly.refl _ _ _ | with_reducible apply FieldOnly.updPlot | with_reducible apply FieldOnly.ite | (refine FieldOnly.keep rfl rfl (fun k hk => ?_); cases k <;> first | exact trivial | exact rfl | exact ⟨rfl, rfl⟩ | exact ⟨rfl, rfl, rfl⟩ | exact (Fits.not hK hk rfl).elim) | with_reducible apply Only.ite | dsimp only | split | (with_reducible refine Only.fst (by with_reducible assumption) ?_) | (with_reducible refine Only.snd (by with_reducible assumption) ?_)

theorem State.record_only {K : List Part} {F : FieldId → Prop} {P : PlotId → Prop} {s0 : State} (s : State) (e : RaisedEvent) (hK : Fits (([.events, .sram, .hubReg Reg.HUB_EVT_IDX.LOST, .hubReg Reg.HUB_EVT_IDX.PROD, .msix, .yarzin, .hbm, .hbmErr, .reg Reg.FLD_EVT_IDX.LOST, .reg Reg.FLD_EVT_IDX.PROD, .reg Reg.GWY_STAT.ABSORBED, .reg Reg.INJ_PT.ARM, .reg Reg.INJ_PT.DONE, .reg Reg.MEM_ECC_STAT.CORRECTED, .reg Reg.MEM_ECC_STAT.LAST_ADDR, .reg Reg.MEM_ECC_STAT.POISON_WRITES] : List Part) ++ ([.reg Reg.MEM_ECC_STAT.UNCORRECTED, .reg Reg.MEM_REPAIR_ENTRY.BANK, .reg Reg.MEM_REPAIR_ENTRY.CHANNEL, .reg Reg.MEM_REPAIR_ENTRY.PCH, .reg Reg.MEM_REPAIR_ENTRY.REASON, .reg Reg.MEM_REPAIR_ENTRY.RESULT, .reg Reg.MEM_REPAIR_ENTRY.ROW, .reg Reg.MEM_REPAIR_ENTRY.STACK, .reg Reg.MEM_REPAIR_ENTRY.VALID, .memu, .health, .forward] : List Part)) K) (hF : ∀ f, F f)
    (ho : Only K F P s0 s) : Only K F P s0 (State.record s e) := by
  unfold State.record
  repeat' first | with_reducible assumption | exact Fits.trans (by decide +kernel) hK | exact hF | exact hF _ | with_reducible apply State.updHub_only | with_reducible apply State.hubRing_only | with_reducible apply State.forward_only | with_reducible apply State.fieldRing_only | (refine fun (X : Hub) => ?_) | with_reducible apply HubOnly.setReg | with_reducible exact HubOnly.refl _ _ | with_reducible apply HubOnly.ite | (refine HubOnly.keep rfl (fun k hk => ?_); cases k <;> first | exact trivial | exact rfl | exact ⟨rfl, rfl⟩ | exact ⟨rfl, rfl, rfl⟩ | exact ⟨rfl, rfl, rfl, rfl⟩ | exact (Fits.not hK hk rfl).elim) | with_reducible apply Only.ite | dsimp only | split | (with_reducible refine Only.fst (by with_reducible assumption) ?_) | (with_reducible refine Only.snd (by with_reducible assumption) ?_)

theorem State.drainLoop_only {K : List Part} {F : FieldId → Prop} {P : PlotId → Prop} {s0 : State} (s : State) (fuel : Nat) (hK : Fits (([.events, .sram, .hubReg Reg.HUB_EVT_IDX.LOST, .hubReg Reg.HUB_EVT_IDX.PROD, .msix, .yarzin, .hbm, .hbmErr, .reg Reg.FLD_EVT_IDX.LOST, .reg Reg.FLD_EVT_IDX.PROD, .reg Reg.GWY_STAT.ABSORBED, .reg Reg.INJ_PT.ARM, .reg Reg.INJ_PT.DONE, .reg Reg.MEM_ECC_STAT.CORRECTED, .reg Reg.MEM_ECC_STAT.LAST_ADDR, .reg Reg.MEM_ECC_STAT.POISON_WRITES] : List Part) ++ ([.reg Reg.MEM_ECC_STAT.UNCORRECTED, .reg Reg.MEM_REPAIR_ENTRY.BANK, .reg Reg.MEM_REPAIR_ENTRY.CHANNEL, .reg Reg.MEM_REPAIR_ENTRY.PCH, .reg Reg.MEM_REPAIR_ENTRY.REASON, .reg Reg.MEM_REPAIR_ENTRY.RESULT, .reg Reg.MEM_REPAIR_ENTRY.ROW, .reg Reg.MEM_REPAIR_ENTRY.STACK, .reg Reg.MEM_REPAIR_ENTRY.VALID, .memu, .health, .forward] : List Part)) K) (hF : ∀ f, F f)
    (ho : Only K F P s0 s) : Only K F P s0 (State.drainLoop s fuel) := by
  induction fuel generalizing s with
  | zero => exact ho
  | succ n ih =>
    rw [State.drainLoop]
    split
    · exact ho
    · exact ih _ (State.record_only _ _ (Fits.trans (by decide +kernel) hK) hF (only_events _ (Fits.trans (by decide +kernel) hK) ho))

theorem State.drain_only {K : List Part} {F : FieldId → Prop} {P : PlotId → Prop} {s0 : State} (s : State) (hK : Fits (([.events, .sram, .hubReg Reg.HUB_EVT_IDX.LOST, .hubReg Reg.HUB_EVT_IDX.PROD, .msix, .yarzin, .hbm, .hbmErr, .reg Reg.FLD_EVT_IDX.LOST, .reg Reg.FLD_EVT_IDX.PROD, .reg Reg.GWY_STAT.ABSORBED, .reg Reg.INJ_PT.ARM, .reg Reg.INJ_PT.DONE, .reg Reg.MEM_ECC_STAT.CORRECTED, .reg Reg.MEM_ECC_STAT.LAST_ADDR, .reg Reg.MEM_ECC_STAT.POISON_WRITES] : List Part) ++ ([.reg Reg.MEM_ECC_STAT.UNCORRECTED, .reg Reg.MEM_REPAIR_ENTRY.BANK, .reg Reg.MEM_REPAIR_ENTRY.CHANNEL, .reg Reg.MEM_REPAIR_ENTRY.PCH, .reg Reg.MEM_REPAIR_ENTRY.REASON, .reg Reg.MEM_REPAIR_ENTRY.RESULT, .reg Reg.MEM_REPAIR_ENTRY.ROW, .reg Reg.MEM_REPAIR_ENTRY.STACK, .reg Reg.MEM_REPAIR_ENTRY.VALID, .memu, .health, .forward] : List Part)) K) (hF : ∀ f, F f)
    (ho : Only K F P s0 s) : Only K F P s0 (State.drain s) := by
  unfold State.drain
  repeat' first | with_reducible assumption | exact Fits.trans (by decide +kernel) hK | exact hF | exact hF _ | with_reducible apply State.drainLoop_only | with_reducible apply Only.ite | dsimp only | split | (with_reducible refine Only.fst (by with_reducible assumption) ?_) | (with_reducible refine Only.snd (by with_reducible assumption) ?_)

end Sys2Proof.Machine
end

