-- ==== Sys2Proof/Laws/Touch/Flits.lean ====
section
/-! SUPPORT. What each operation of Machine/Flits.lean can change: the parts named, and nothing else. -/

namespace Sys2Proof.Machine

set_option Elab.async false

open Sys2Proof

theorem State.updPort_only {K : List Part} {F : FieldId → Prop} {P : PlotId → Prop} {s0 : State} (s : State) (f : FieldId) (n : PortId) (g : Port → Port) (hK : Fits ([.ports] : List Part) K) (hF : F f)
    (ho : Only K F P s0 s) : Only K F P s0 (State.updPort s f n g) := by
  unfold State.updPort
  repeat' first | with_reducible assumption | exact Fits.trans (by decide +kernel) hK | exact hF | with_reducible apply State.updField_only | (refine fun (X : Field) => ?_) | with_reducible apply FieldOnly.setReg | with_reducible exact FieldOnly.refl _ _ _ | with_reducible apply FieldOnly.updPlot | with_reducible apply FieldOnly.ite | (refine FieldOnly.keep rfl rfl (fun k hk => ?_); cases k <;> first | exact trivial | exact rfl | exact ⟨rfl, rfl⟩ | exact ⟨rfl, rfl, rfl⟩ | exact (Fits.not hK hk rfl).elim) | with_reducible apply Only.ite | dsimp only | split | (with_reducible refine Only.fst (by with_reducible assumption) ?_) | (with_reducible refine Only.snd (by with_reducible assumption) ?_)

theorem State.raiseLimited_only {K : List Part} {F : FieldId → Prop} {P : PlotId → Prop} {s0 : State} (s : State) (f : FieldId) (key : Nat) (e : EvKind) (items : List (Nat × Nat)) (injected : Bool) (hK : Fits ([.events, .lastRaise] : List Part) K) (hF : F f)
    (ho : Only K F P s0 s) : Only K F P s0 (State.raiseLimited s f key e items injected) := by
  unfold State.raiseLimited
  repeat' first | with_reducible assumption | exact Fits.trans (by decide +kernel) hK | exact hF | with_reducible apply State.raise_only | with_reducible apply State.updField_only | (refine fun (X : Field) => ?_) | with_reducible apply FieldOnly.setReg | with_reducible exact FieldOnly.refl _ _ _ | with_reducible apply FieldOnly.updPlot | with_reducible apply FieldOnly.ite | (refine FieldOnly.keep rfl rfl (fun k hk => ?_); cases k <;> first | exact trivial | exact rfl | exact ⟨rfl, rfl⟩ | exact ⟨rfl, rfl, rfl⟩ | exact (Fits.not hK hk rfl).elim) | with_reducible apply Only.ite | dsimp only | split | (with_reducible refine Only.fst (by with_reducible assumption) ?_) | (with_reducible refine Only.snd (by with_reducible assumption) ?_)

theorem State.updRouter_only {K : List Part} {F : FieldId → Prop} {P : PlotId → Prop} {s0 : State} (s : State) (f : FieldId) (g : RouterUnit → RouterUnit) (hK : Fits ([.router] : List Part) K) (hF : F f)
    (ho : Only K F P s0 s) : Only K F P s0 (State.updRouter s f g) := by
  unfold State.updRouter
  repeat' first | with_reducible assumption | exact Fits.trans (by decide +kernel) hK | exact hF | with_reducible apply State.updField_only | (refine fun (X : Field) => ?_) | with_reducible apply FieldOnly.setReg | with_reducible exact FieldOnly.refl _ _ _ | with_reducible apply FieldOnly.updPlot | with_reducible apply FieldOnly.ite | (refine FieldOnly.keep rfl rfl (fun k hk => ?_); cases k <;> first | exact trivial | exact rfl | exact ⟨rfl, rfl⟩ | exact ⟨rfl, rfl, rfl⟩ | exact (Fits.not hK hk rfl).elim) | with_reducible apply Only.ite | dsimp only | split | (with_reducible refine Only.fst (by with_reducible assumption) ?_) | (with_reducible refine Only.snd (by with_reducible assumption) ?_)

theorem State.updRouter_far {K : List Part} {F : FieldId → Prop} {P : PlotId → Prop} {s0 : State} (s : State) (f : FieldId) (g : RouterUnit → RouterUnit) (hK : Fits (([.router] : List Part).map Part.afar) K)
    (ho : Only K F P s0 s) : Only K F P s0 (State.updRouter s f g) :=
  ho.trans (Only.far (l := ([.router] : List Part)) (State.updRouter_only s f g (Fits.refl _) trivial (Only.refl _ _ _ _)) hK)

theorem State.beaconsSent_only {K : List Part} {F : FieldId → Prop} {P : PlotId → Prop} {s0 : State} (s : State) (f : FieldId) (link : Nat) (q rest : List TxPacket) (hK : Fits ([.tally] : List Part) K) (hF : F f)
    (ho : Only K F P s0 s) : Only K F P s0 (State.beaconsSent s f link q rest) := by
  unfold State.beaconsSent
  repeat' first | with_reducible assumption | exact Fits.trans (by decide +kernel) hK | exact hF | with_reducible apply State.updField_only | (refine fun (X : Field) => ?_) | with_reducible apply FieldOnly.setReg | with_reducible exact FieldOnly.refl _ _ _ | with_reducible apply FieldOnly.updPlot | with_reducible apply FieldOnly.ite | (refine FieldOnly.keep rfl rfl (fun k hk => ?_); cases k <;> first | exact trivial | exact rfl | exact ⟨rfl, rfl⟩ | exact ⟨rfl, rfl, rfl⟩ | exact (Fits.not hK hk rfl).elim) | with_reducible apply Only.ite | dsimp only | split | (with_reducible refine Only.fst (by with_reducible assumption) ?_) | (with_reducible refine Only.snd (by with_reducible assumption) ?_)

theorem State.beaconCame_only {K : List Part} {F : FieldId → Prop} {P : PlotId → Prop} {s0 : State} (s : State) (f : FieldId) (link : Nat) (p : Packet) (at_ : Nat) (hK : Fits ([.tally] : List Part) K) (hF : F f)
    (ho : Only K F P s0 s) : Only K F P s0 (State.beaconCame s f link p at_) := by
  unfold State.beaconCame
  repeat' first | with_reducible assumption | exact Fits.trans (by decide +kernel) hK | exact hF | with_reducible apply State.updField_only | (refine fun (X : Field) => ?_) | with_reducible apply FieldOnly.setReg | with_reducible exact FieldOnly.refl _ _ _ | with_reducible apply FieldOnly.updPlot | with_reducible apply FieldOnly.ite | (refine FieldOnly.keep rfl rfl (fun k hk => ?_); cases k <;> first | exact trivial | exact rfl | exact ⟨rfl, rfl⟩ | exact ⟨rfl, rfl, rfl⟩ | exact (Fits.not hK hk rfl).elim) | with_reducible apply Only.ite | dsimp only | split | (with_reducible refine Only.fst (by with_reducible assumption) ?_) | (with_reducible refine Only.snd (by with_reducible assumption) ?_)

theorem State.congCount_only {K : List Part} {F : FieldId → Prop} {P : PlotId → Prop} {s0 : State} (s : State) (f : FieldId) (link vc item d : Nat) (hK : Fits ([.router] : List Part) K) (hF : F f)
    (ho : Only K F P s0 s) : Only K F P s0 (State.congCount s f link vc item d) := by
  unfold State.congCount
  repeat' first | with_reducible assumption | exact Fits.trans (by decide +kernel) hK | exact hF | with_reducible apply State.updField_only | (refine fun (X : Field) => ?_) | with_reducible apply FieldOnly.setReg | with_reducible exact FieldOnly.refl _ _ _ | with_reducible apply FieldOnly.updPlot | with_reducible apply FieldOnly.ite | (refine FieldOnly.keep rfl rfl (fun k hk => ?_); cases k <;> first | exact trivial | exact rfl | exact ⟨rfl, rfl⟩ | exact ⟨rfl, rfl, rfl⟩ | exact (Fits.not hK hk rfl).elim) | with_reducible apply Only.ite | dsimp only | split | (with_reducible refine Only.fst (by with_reducible assumption) ?_) | (with_reducible refine Only.snd (by with_reducible assumption) ?_)

theorem State.combEnter_only {K : List Part} {F : FieldId → Prop} {P : PlotId → Prop} {s0 : State} (s : State) (f : FieldId) (egress vc : Nat) (p : Packet) (hK : Fits ([.events, .reg Reg.RTE_COMB_STAT.MERGED, .reg Reg.RTE_COMB_STAT.PEAK, .router] : List Part) K) (hF : F f)
    (ho : Only K F P s0 s) : ∀ t, State.combEnter s f egress vc p = some t → Only K F P s0 t := by
  unfold State.combEnter; intro q hq; revert hq
  repeat' first | with_reducible assumption | ((refine fun (hq : _ = some _) => ?_); cases hq) | exact Fits.trans (by decide +kernel) hK | exact hF | with_reducible apply State.fwrap_only | with_reducible apply State.updRouter_only | with_reducible apply State.raise_only | with_reducible apply State.fset_only | with_reducible apply Only.ite | dsimp only | split | (with_reducible refine Only.foldl _ _ (fun t a ht => ?_) ?_) | (with_reducible refine Only.foldl_fst _ _ _ (fun t a ht => ?_) ?_) | (with_reducible refine Only.fst (by with_reducible assumption) ?_) | (with_reducible refine Only.snd (by with_reducible assumption) ?_)

theorem State.combWaiting_only {K : List Part} {F : FieldId → Prop} {P : PlotId → Prop} {s0 : State} (s : State) (f : FieldId) (egress vc : Nat) (fuel : List TxPacket) (hK : Fits ([.events, .reg Reg.RTE_COMB_STAT.MERGED, .reg Reg.RTE_COMB_STAT.PEAK, .router] : List Part) K) (hF : F f)
    (ho : Only K F P s0 s) : Only K F P s0 (State.combWaiting s f egress vc fuel).1 := by
  induction fuel generalizing s with
  | nil => exact ho
  | cons x xs ih =>
    rw [State.combWaiting]
    dsimp only
    split
    · rename_i t ht
      refine ih _ ?_
      split at ht
      · cases ht
      · obtain ⟨⟨p, _⟩, _, ht⟩ := Option.bind_eq_some_iff.mp ht
        dsimp only at ht
        split at ht
        · exact State.combEnter_only _ _ _ _ _ (Fits.trans (by decide +kernel) hK) hF ho _ ht
        · cases ht
    · exact ih _ ho

theorem State.portStall_only {K : List Part} {F : FieldId → Prop} {P : PlotId → Prop} {s0 : State} (s : State) (f : FieldId) (n : PortId) (vc : Nat) (hK : Fits ([.events, .reg Reg.RTE_COMB_STAT.MERGED, .reg Reg.RTE_COMB_STAT.PEAK, .ports, .router] : List Part) K) (hF : F f)
    (ho : Only K F P s0 s) : Only K F P s0 (State.portStall s f n vc) := by
  unfold State.portStall
  repeat' first | with_reducible assumption | exact Fits.trans (by decide +kernel) hK | exact hF | with_reducible apply State.combWaiting_only | with_reducible apply State.congCount_only | with_reducible apply State.updPort_only | with_reducible apply Only.ite | dsimp only | split | (with_reducible refine Only.fst (by with_reducible assumption) ?_) | (with_reducible refine Only.snd (by with_reducible assumption) ?_)

theorem State.flitMake_only {K : List Part} {F : FieldId → Prop} {P : PlotId → Prop} {s0 : State} (s : State) (f : FieldId) (n : PortId) (ty : Nat) (x : Flit) (invert : Bool) (hK : Fits ([.out, .ports] : List Part) K) (hF : F f)
    (ho : Only K F P s0 s) : Only K F P s0 (State.flitMake s f n ty x invert).1 := by
  unfold State.flitMake
  repeat' first | with_reducible assumption | exact Fits.trans (by decide +kernel) hK | exact hF | with_reducible apply State.emit_only | with_reducible apply State.updPort_only | with_reducible apply Only.ite | dsimp only | split | (with_reducible refine Only.fst (by with_reducible assumption) ?_) | (with_reducible refine Only.snd (by with_reducible assumption) ?_)

theorem State.crcPoint_only {K : List Part} {F : FieldId → Prop} {P : PlotId → Prop} {s0 : State} (s : State) (f : FieldId) (n : PortId) (hK : Fits ([.reg Reg.INJ_PT.ARM, .reg Reg.INJ_PT.DONE] : List Part) K) (hF : F f)
    (ho : Only K F P s0 s) : Only K F P s0 (State.crcPoint s f n).1 := by
  unfold State.crcPoint
  repeat' first | with_reducible assumption | exact Fits.trans (by decide +kernel) hK | exact hF | with_reducible apply State.injFire_only | with_reducible apply Only.ite | dsimp only | split | (with_reducible refine Only.fst (by with_reducible assumption) ?_) | (with_reducible refine Only.snd (by with_reducible assumption) ?_)

theorem State.flitReplay_only {K : List Part} {F : FieldId → Prop} {P : PlotId → Prop} {s0 : State} (s : State) (f : FieldId) (n : PortId) (h : HeldFlit) (hK : Fits ([.out, .reg Reg.INJ_PT.ARM, .reg Reg.INJ_PT.DONE, .reg Reg.RTE_LINK_CNT.REPLAYED, .ports] : List Part) K) (hF : F f)
    (ho : Only K F P s0 s) : Only K F P s0 (State.flitReplay s f n h).1 := by
  unfold State.flitReplay
  repeat' first | with_reducible assumption | exact Fits.trans (by decide +kernel) hK | exact hF | with_reducible apply State.updPort_only | with_reducible apply State.crcPoint_only | with_reducible apply State.flitMake_only | with_reducible apply State.fwrap_only | with_reducible apply Only.ite | dsimp only | split | (with_reducible refine Only.fst (by with_reducible assumption) ?_) | (with_reducible refine Only.snd (by with_reducible assumption) ?_)

theorem State.flitNew_only {K : List Part} {F : FieldId → Prop} {P : PlotId → Prop} {s0 : State} (s : State) (f : FieldId) (n : PortId) (v : Nat) (hK : Fits ([.out, .reg Reg.INJ_PT.ARM, .reg Reg.INJ_PT.DONE, .reg Reg.RTE_LINK_CNT.TX_FLITS, .reg Reg.RTE_LINK_CREDIT.RES, .reg Reg.RTE_LINK_CREDIT.SHARED, .ports, .router, .tally] : List Part) K) (hF : F f)
    (ho : Only K F P s0 s) : Only K F P s0 (State.flitNew s f n v).1 := by
  unfold State.flitNew
  repeat' first | with_reducible assumption | exact Fits.trans (by decide +kernel) hK | exact hF | with_reducible apply State.fset_only | with_reducible apply State.updPort_only | with_reducible apply State.beaconsSent_only | with_reducible apply State.congCount_only | with_reducible apply State.fwrap_only | with_reducible apply State.crcPoint_only | with_reducible apply State.flitMake_only | with_reducible apply Only.ite | dsimp only | split | (with_reducible refine Only.fst (by with_reducible assumption) ?_) | (with_reducible refine Only.snd (by with_reducible assumption) ?_)

theorem State.idleFlit_only {K : List Part} {F : FieldId → Prop} {P : PlotId → Prop} {s0 : State} (s : State) (f : FieldId) (n : PortId) (hK : Fits ([.out, .ports] : List Part) K) (hF : F f)
    (ho : Only K F P s0 s) : Only K F P s0 (State.idleFlit s f n).1 := by
  unfold State.idleFlit
  repeat' first | with_reducible assumption | exact Fits.trans (by decide +kernel) hK | exact hF | with_reducible apply State.flitMake_only | with_reducible apply Only.ite | dsimp only | split | (with_reducible refine Only.fst (by with_reducible assumption) ?_) | (with_reducible refine Only.snd (by with_reducible assumption) ?_)

theorem State.flitOf_only {K : List Part} {F : FieldId → Prop} {P : PlotId → Prop} {s0 : State} (s : State) (f : FieldId) (n : PortId) (hK : Fits ([.out, .reg Reg.INJ_PT.ARM, .reg Reg.INJ_PT.DONE, .reg Reg.RTE_LINK_CNT.NAKS, .reg Reg.RTE_LINK_CNT.REPLAYED, .reg Reg.RTE_LINK_CNT.TX_FLITS, .reg Reg.RTE_LINK_CREDIT.RES, .reg Reg.RTE_LINK_CREDIT.SHARED, .ports, .router, .tally] : List Part) K) (hF : F f)
    (ho : Only K F P s0 s) : Only K F P s0 (State.flitOf s f n).1 := by
  unfold State.flitOf
  repeat' first | with_reducible assumption | exact Fits.trans (by decide +kernel) hK | exact hF | with_reducible apply State.updPort_only | with_reducible apply State.flitMake_only | with_reducible apply State.fcount_only | with_reducible apply State.idleFlit_only | with_reducible apply State.flitReplay_only | with_reducible apply State.flitNew_only | with_reducible apply Only.ite | dsimp only | split | (with_reducible refine Only.fst (by with_reducible assumption) ?_) | (with_reducible refine Only.snd (by with_reducible assumption) ?_)

theorem State.slotGain_only {K : List Part} {F : FieldId → Prop} {P : PlotId → Prop} {s0 : State} (s : State) (f : FieldId) (n : PortId) (hK : Fits ([.events, .reg Reg.RTE_COMB_STAT.MERGED, .reg Reg.RTE_COMB_STAT.PEAK, .ports, .router] : List Part) K) (hF : F f)
    (ho : Only K F P s0 s) : Only K F P s0 (State.slotGain s f n) := by
  unfold State.slotGain
  repeat' first | with_reducible assumption | exact Fits.trans (by decide +kernel) hK | exact hF | with_reducible apply State.updPort_only | with_reducible apply State.portStall_only | with_reducible apply Only.ite | dsimp only | split | (with_reducible refine Only.foldl _ _ (fun t a ht => ?_) ?_) | (with_reducible refine Only.foldl_fst _ _ _ (fun t a ht => ?_) ?_) | (with_reducible refine Only.fst (by with_reducible assumption) ?_) | (with_reducible refine Only.snd (by with_reducible assumption) ?_)

theorem State.slots_only {K : List Part} {F : FieldId → Prop} {P : PlotId → Prop} {s0 : State} (s : State) (f : FieldId) (n : PortId) (fuel : Nat) (hK : Fits ([.events, .out, .reg Reg.INJ_PT.ARM, .reg Reg.INJ_PT.DONE, .reg Reg.RTE_COMB_STAT.MERGED, .reg Reg.RTE_COMB_STAT.PEAK, .reg Reg.RTE_LINK_CNT.NAKS, .reg Reg.RTE_LINK_CNT.REPLAYED, .reg Reg.RTE_LINK_CNT.TX_FLITS, .reg Reg.RTE_LINK_CREDIT.RES, .reg Reg.RTE_LINK_CREDIT.SHARED, .ports, .router, .tally] : List Part) K) (hF : F f)
    (ho : Only K F P s0 s) : Only K F P s0 (State.slots s f n fuel).1 := by
  induction fuel generalizing s n with
  | zero => simp only [State.slots]; (repeat' first | with_reducible assumption | exact Fits.trans (by decide +kernel) hK | exact hF | with_reducible apply State.flitOf_only | with_reducible apply State.slotGain_only | with_reducible apply Only.ite | dsimp only | split | (with_reducible refine Only.fst (by with_reducible assumption) ?_) | (with_reducible refine Only.snd (by with_reducible assumption) ?_))
  | succ fuel ih => simp only [State.slots]; (repeat' first | with_reducible assumption | with_reducible apply ih | with_reducible assumption | exact Fits.trans (by decide +kernel) hK | exact hF | with_reducible apply State.flitOf_only | with_reducible apply State.slotGain_only | with_reducible apply Only.ite | dsimp only | split | (with_reducible refine Only.fst (by with_reducible assumption) ?_) | (with_reducible refine Only.snd (by with_reducible assumption) ?_))

theorem State.groupOut_only {K : List Part} {F : FieldId → Prop} {P : PlotId → Prop} {s0 : State} (s0' : State) (f : FieldId) (n : PortId) (last switch : Bool) (hK : Fits ([.events, .out, .reg Reg.INJ_PT.ARM, .reg Reg.INJ_PT.DONE, .reg Reg.RTE_COMB_STAT.MERGED, .reg Reg.RTE_COMB_STAT.PEAK, .reg Reg.RTE_LINK_CNT.NAKS, .reg Reg.RTE_LINK_CNT.REPLAYED, .reg Reg.RTE_LINK_CNT.TX_FLITS, .reg Reg.RTE_LINK_CREDIT.RES, .reg Reg.RTE_LINK_CREDIT.SHARED, .ports, .router, .tally] : List Part) K) (hF : F f)
    (ho : Only K F P s0 s0') : Only K F P s0 (State.groupOut s0' f n last switch) := by
  unfold State.groupOut
  repeat' first | with_reducible assumption | exact Fits.trans (by decide +kernel) hK | exact hF | with_reducible apply State.slots_only | with_reducible apply State.emit_only | with_reducible apply State.updPort_only | with_reducible apply Only.ite | dsimp only | split | (with_reducible refine Only.fst (by with_reducible assumption) ?_) | (with_reducible refine Only.snd (by with_reducible assumption) ?_)

theorem State.flitsCut_only {K : List Part} {F : FieldId → Prop} {P : PlotId → Prop} {s0 : State} (s : State) (f : FieldId) (n : PortId) (hK : Fits ([.events, .out, .reg Reg.INJ_PT.ARM, .reg Reg.INJ_PT.DONE, .reg Reg.RTE_COMB_STAT.MERGED, .reg Reg.RTE_COMB_STAT.PEAK, .reg Reg.RTE_LINK_CNT.NAKS, .reg Reg.RTE_LINK_CNT.REPLAYED, .reg Reg.RTE_LINK_CNT.TX_FLITS, .reg Reg.RTE_LINK_CREDIT.RES, .reg Reg.RTE_LINK_CREDIT.SHARED, .ports, .router, .tally] : List Part) K) (hF : F f)
    (ho : Only K F P s0 s) : Only K F P s0 (State.flitsCut s f n) := by
  unfold State.flitsCut
  repeat' first | with_reducible assumption | exact Fits.trans (by decide +kernel) hK | exact hF | with_reducible apply State.groupOut_only | with_reducible apply State.updPort_only | with_reducible apply Only.ite | dsimp only | split | (with_reducible refine Only.fst (by with_reducible assumption) ?_) | (with_reducible refine Only.snd (by with_reducible assumption) ?_)

theorem State.flitsEnd_only {K : List Part} {F : FieldId → Prop} {P : PlotId → Prop} {s0 : State} (s : State) (f : FieldId) (n : PortId) (hK : Fits ([.events, .out, .reg Reg.INJ_PT.ARM, .reg Reg.INJ_PT.DONE, .reg Reg.RTE_COMB_STAT.MERGED, .reg Reg.RTE_COMB_STAT.PEAK, .reg Reg.RTE_LINK_CNT.NAKS, .reg Reg.RTE_LINK_CNT.REPLAYED, .reg Reg.RTE_LINK_CNT.TX_FLITS, .reg Reg.RTE_LINK_CREDIT.RES, .reg Reg.RTE_LINK_CREDIT.SHARED, .ports, .router, .tally] : List Part) K) (hF : F f)
    (ho : Only K F P s0 s) : Only K F P s0 (State.flitsEnd s f n) := by
  unfold State.flitsEnd
  repeat' first | with_reducible assumption | exact Fits.trans (by decide +kernel) hK | exact hF | with_reducible apply State.flitsCut_only | with_reducible apply Only.ite | dsimp only | split | (with_reducible refine Only.fst (by with_reducible assumption) ?_) | (with_reducible refine Only.snd (by with_reducible assumption) ?_)

theorem State.streamFlit_only {K : List Part} {F : FieldId → Prop} {P : PlotId → Prop} {s0 : State} (s : State) (f : FieldId) (n : PortId) (bs : List Byte) (hK : Fits ([.events, .out, .reg Reg.INJ_PT.ARM, .reg Reg.INJ_PT.DONE, .reg Reg.RTE_COMB_STAT.MERGED, .reg Reg.RTE_COMB_STAT.PEAK, .reg Reg.RTE_LINK_CNT.NAKS, .reg Reg.RTE_LINK_CNT.REPLAYED, .reg Reg.RTE_LINK_CNT.TX_FLITS, .reg Reg.RTE_LINK_CREDIT.RES, .reg Reg.RTE_LINK_CREDIT.SHARED, .ports, .router, .tally] : List Part) K) (hF : F f)
    (ho : Only K F P s0 s) : Only K F P s0 (State.streamFlit s f n bs) := by
  unfold State.streamFlit
  repeat' first | with_reducible assumption | exact Fits.trans (by decide +kernel) hK | exact hF | with_reducible apply State.updPort_only | with_reducible apply State.groupOut_only | with_reducible apply Only.ite | dsimp only | split | (with_reducible refine Only.fst (by with_reducible assumption) ?_) | (with_reducible refine Only.snd (by with_reducible assumption) ?_)

end Sys2Proof.Machine
end

