-- ==== Sys2Proof/Laws/Touch/Mailbox.lean ====
section
/-! SUPPORT. What each operation of Machine/Mailbox.lean can change: the parts named, and nothing else. -/

namespace Sys2Proof.Machine

set_option Elab.async false

open Sys2Proof

theorem State.mbxSet_only {K : List Part} {F : FieldId → Prop} {P : PlotId → Prop} {s0 : State} (s : State) (ep : MbxEp) (k : MbxFld) (v : Nat) (hK : Fits ([.hubReg k.hub, .reg k.rim, .plotReg k.plot] : List Part) K) (hF : ∀ f, F f) (hP : ∀ p, P p)
    (ho : Only K F P s0 s) : Only K F P s0 (State.mbxSet s ep k v) := by
  have h1 : Fits [.hubReg k.hub] K := Fits.one_of hK (by simp)
  have h2 : Fits [.reg k.rim] K := Fits.one_of hK (by simp)
  have h3 : Fits [.plotReg k.plot] K := Fits.one_of hK (by simp)
  unfold State.mbxSet
  split
  · exact State.fset_only _ _ _ _ _ h2 (hF _) ho
  · exact State.fset_only _ _ _ _ _ h2 (hF _) ho
  · exact State.pset_only _ _ _ _ h3 (hF _) (hP _) ho
  · exact State.hset_only _ _ _ _ h1 ho

theorem State.setSlot_only {K : List Part} {F : FieldId → Prop} {P : PlotId → Prop} {s0 : State} (s : State) (ep : MbxEp) (x : MbxSlot) (hK : Fits ([.hubSlots, .slot, .rimSlots] : List Part) K) (hF : ∀ f, F f) (hP : ∀ p, P p)
    (ho : Only K F P s0 s) : Only K F P s0 (State.setSlot s ep x) := by
  unfold State.setSlot
  repeat' first | with_reducible assumption | exact Fits.trans (by decide +kernel) hK | exact hF | exact hP | exact hF _ | exact hP _ | with_reducible apply State.updField_only | with_reducible apply State.updPlot_only | with_reducible apply State.updHub_only | (refine fun (X : Field) => ?_) | with_reducible apply FieldOnly.setReg | with_reducible exact FieldOnly.refl _ _ _ | with_reducible apply FieldOnly.updPlot | with_reducible apply FieldOnly.ite | (refine FieldOnly.keep rfl rfl (fun k hk => ?_); cases k <;> first | exact trivial | exact rfl | exact ⟨rfl, rfl⟩ | exact ⟨rfl, rfl, rfl⟩ | exact (Fits.not hK hk rfl).elim) | (refine fun (X : Plot) => ?_) | with_reducible apply PlotOnly.setReg | with_reducible exact PlotOnly.refl _ _ | with_reducible apply PlotOnly.ite | (refine PlotOnly.keep rfl (fun k hk => ?_); cases k <;> first | exact trivial | exact rfl | exact ⟨rfl, rfl⟩ | exact ⟨rfl, rfl, rfl⟩ | exact (Fits.not hK hk rfl).elim) | (refine fun (X : Hub) => ?_) | with_reducible apply HubOnly.setReg | with_reducible exact HubOnly.refl _ _ | with_reducible apply HubOnly.ite | (refine HubOnly.keep rfl (fun k hk => ?_); cases k <;> first | exact trivial | exact rfl | exact ⟨rfl, rfl⟩ | exact ⟨rfl, rfl, rfl⟩ | exact ⟨rfl, rfl, rfl, rfl⟩ | exact (Fits.not hK hk rfl).elim) | with_reducible apply Only.ite | dsimp only | split | (with_reducible refine Only.fst (by with_reducible assumption) ?_) | (with_reducible refine Only.snd (by with_reducible assumption) ?_)

theorem State.mbxAck_only {K : List Part} {F : FieldId → Prop} {P : PlotId → Prop} {s0 : State} (s : State) (sender : MbxEp) (live : Bool) (code : Nat) (hK : Fits ([.hubReg Reg.MBX_HUB_OUT_ACK.CODE, .hubReg Reg.MBX_HUB_OUT_ACK.DONE, .hubReg Reg.MBX_HUB_OUT_META.PENDING, .reg Reg.MBX_RIM_OUT_ACK.CODE, .reg Reg.MBX_RIM_OUT_ACK.DONE, .reg Reg.MBX_RIM_OUT_META.PENDING, .plotReg Reg.MBX_PLOT_OUT_ACK.CODE, .plotReg Reg.MBX_PLOT_OUT_ACK.DONE, .plotReg Reg.MBX_PLOT_OUT_META.PENDING] : List Part) K) (hF : ∀ f, F f) (hP : ∀ p, P p)
    (ho : Only K F P s0 s) : Only K F P s0 (State.mbxAck s sender live code) := by
  unfold State.mbxAck
  repeat' first | with_reducible assumption | exact Fits.trans (by decide +kernel) hK | exact hF | exact hP | exact hF _ | exact hP _ | with_reducible apply State.mbxSet_only | with_reducible apply Only.ite | dsimp only | split | (with_reducible refine Only.fst (by with_reducible assumption) ?_) | (with_reducible refine Only.snd (by with_reducible assumption) ?_)

theorem State.mbxSend_only {K : List Part} {F : FieldId → Prop} {P : PlotId → Prop} {s0 : State} (s : State) (ep : MbxEp) (hK : Fits ([.hubReg Reg.MBX_HUB_OUT_ACK.CODE, .hubReg Reg.MBX_HUB_OUT_ACK.DONE, .hubReg Reg.MBX_HUB_OUT_META.PENDING, .hubReg Reg.MBX_HUB_OUT_META.REFUSED, .hubSlots, .reg Reg.MBX_RIM_OUT_ACK.CODE, .reg Reg.MBX_RIM_OUT_ACK.DONE, .reg Reg.MBX_RIM_OUT_META.PENDING, .reg Reg.MBX_RIM_OUT_META.REFUSED, .slot, .plotReg Reg.MBX_PLOT_OUT_ACK.CODE, .plotReg Reg.MBX_PLOT_OUT_ACK.DONE, .plotReg Reg.MBX_PLOT_OUT_META.PENDING, .plotReg Reg.MBX_PLOT_OUT_META.REFUSED, .rimSlots] : List Part) K) (hF : ∀ f, F f) (hP : ∀ p, P p)
    (ho : Only K F P s0 s) : Only K F P s0 (State.mbxSend s ep) := by
  unfold State.mbxSend
  repeat' first | with_reducible assumption | exact Fits.trans (by decide +kernel) hK | exact hF | exact hP | exact hF _ | exact hP _ | with_reducible apply State.mbxSet_only | with_reducible apply State.setSlot_only | with_reducible apply State.mbxAck_only | with_reducible apply Only.ite | dsimp only | split | (with_reducible refine Only.fst (by with_reducible assumption) ?_) | (with_reducible refine Only.snd (by with_reducible assumption) ?_)

theorem State.mbxSend_far {K : List Part} {F : FieldId → Prop} {P : PlotId → Prop} {s0 : State} (s : State) (ep : MbxEp) (hK : Fits (([.hubReg Reg.MBX_HUB_OUT_ACK.CODE, .hubReg Reg.MBX_HUB_OUT_ACK.DONE, .hubReg Reg.MBX_HUB_OUT_META.PENDING, .hubReg Reg.MBX_HUB_OUT_META.REFUSED, .hubSlots, .reg Reg.MBX_RIM_OUT_ACK.CODE, .reg Reg.MBX_RIM_OUT_ACK.DONE, .reg Reg.MBX_RIM_OUT_META.PENDING, .reg Reg.MBX_RIM_OUT_META.REFUSED, .slot, .plotReg Reg.MBX_PLOT_OUT_ACK.CODE, .plotReg Reg.MBX_PLOT_OUT_ACK.DONE, .plotReg Reg.MBX_PLOT_OUT_META.PENDING, .plotReg Reg.MBX_PLOT_OUT_META.REFUSED, .rimSlots] : List Part).map Part.afar) K)
    (ho : Only K F P s0 s) : Only K F P s0 (State.mbxSend s ep) :=
  ho.trans (Only.far (l := ([.hubReg Reg.MBX_HUB_OUT_ACK.CODE, .hubReg Reg.MBX_HUB_OUT_ACK.DONE, .hubReg Reg.MBX_HUB_OUT_META.PENDING, .hubReg Reg.MBX_HUB_OUT_META.REFUSED, .hubSlots, .reg Reg.MBX_RIM_OUT_ACK.CODE, .reg Reg.MBX_RIM_OUT_ACK.DONE, .reg Reg.MBX_RIM_OUT_META.PENDING, .reg Reg.MBX_RIM_OUT_META.REFUSED, .slot, .plotReg Reg.MBX_PLOT_OUT_ACK.CODE, .plotReg Reg.MBX_PLOT_OUT_ACK.DONE, .plotReg Reg.MBX_PLOT_OUT_META.PENDING, .plotReg Reg.MBX_PLOT_OUT_META.REFUSED, .rimSlots] : List Part)) (State.mbxSend_only s ep (Fits.refl _) (fun _ => trivial) (fun _ => trivial) (Only.refl _ _ _ _)) hK)

theorem State.mbxWake_only {K : List Part} {F : FieldId → Prop} {P : PlotId → Prop} {s0 : State} (s : State) (ep : MbxEp) (hK : Fits ([.out, .msix] : List Part) K)
    (ho : Only K F P s0 s) : Only K F P s0 (State.mbxWake s ep) := by
  unfold State.mbxWake
  repeat' first | with_reducible assumption | exact Fits.trans (by decide +kernel) hK | with_reducible apply State.msixCall_only | with_reducible apply State.emit_only | with_reducible apply Only.ite | dsimp only | split | (with_reducible refine Only.fst (by with_reducible assumption) ?_) | (with_reducible refine Only.snd (by with_reducible assumption) ?_)

theorem State.mbxDeliver_only {K : List Part} {F : FieldId → Prop} {P : PlotId → Prop} {s0 : State} (s : State) (ep : MbxEp) (hK : Fits (([.out, .hubReg Reg.MBX_HUB_IN_META.EPOCH, .hubReg Reg.MBX_HUB_IN_META.FULL, .hubReg Reg.MBX_HUB_IN_META.TAG, .hubReg Reg.MBX_HUB_IN_PTR.PTR, .hubReg Reg.MBX_HUB_OUT_ACK.CODE, .hubReg Reg.MBX_HUB_OUT_ACK.DONE, .hubReg Reg.MBX_HUB_OUT_META.PENDING, .msix, .hubSlots, .reg Reg.MBX_RIMP_IN_META.SENDER, .reg Reg.MBX_RIM_IN_META.EPOCH, .reg Reg.MBX_RIM_IN_META.FULL, .reg Reg.MBX_RIM_IN_META.TAG, .reg Reg.MBX_RIM_IN_PTR.PTR, .reg Reg.MBX_RIM_OUT_ACK.CODE] : List Part) ++ ([.reg Reg.MBX_RIM_OUT_ACK.DONE, .reg Reg.MBX_RIM_OUT_META.PENDING, .slot, .plotReg Reg.MBX_PLOT_IN_META.EPOCH, .plotReg Reg.MBX_PLOT_IN_META.FULL, .plotReg Reg.MBX_PLOT_IN_META.TAG, .plotReg Reg.MBX_PLOT_IN_PTR.PTR, .plotReg Reg.MBX_PLOT_OUT_ACK.CODE, .plotReg Reg.MBX_PLOT_OUT_ACK.DONE, .plotReg Reg.MBX_PLOT_OUT_META.PENDING, .rimSlots] : List Part)) K) (hF : ∀ f, F f) (hP : ∀ p, P p)
    (ho : Only K F P s0 s) : Only K F P s0 (State.mbxDeliver s ep) := by
  unfold State.mbxDeliver
  repeat' first | with_reducible assumption | exact Fits.trans (by decide +kernel) hK | exact hF | exact hP | exact hF _ | exact hP _ | with_reducible apply State.setSlot_only | with_reducible apply State.mbxAck_only | with_reducible apply State.mbxSet_only | with_reducible apply State.fset_only | with_reducible apply State.mbxWake_only | with_reducible apply Only.ite | dsimp only | split | (with_reducible refine Only.fst (by with_reducible assumption) ?_) | (with_reducible refine Only.snd (by with_reducible assumption) ?_)

theorem State.mbxInAck_only {K : List Part} {F : FieldId → Prop} {P : PlotId → Prop} {s0 : State} (s : State) (ep : MbxEp) (code : Nat) (hK : Fits ([.hubReg Reg.MBX_HUB_IN_META.FULL, .hubReg Reg.MBX_HUB_OUT_ACK.CODE, .hubReg Reg.MBX_HUB_OUT_ACK.DONE, .hubReg Reg.MBX_HUB_OUT_META.PENDING, .hubSlots, .reg Reg.MBX_RIM_IN_META.FULL, .reg Reg.MBX_RIM_OUT_ACK.CODE, .reg Reg.MBX_RIM_OUT_ACK.DONE, .reg Reg.MBX_RIM_OUT_META.PENDING, .slot, .plotReg Reg.MBX_PLOT_IN_META.FULL, .plotReg Reg.MBX_PLOT_OUT_ACK.CODE, .plotReg Reg.MBX_PLOT_OUT_ACK.DONE, .plotReg Reg.MBX_PLOT_OUT_META.PENDING, .rimSlots] : List Part) K) (hF : ∀ f, F f) (hP : ∀ p, P p)
    (ho : Only K F P s0 s) : Only K F P s0 (State.mbxInAck s ep code) := by
  unfold State.mbxInAck
  repeat' first | with_reducible assumption | exact Fits.trans (by decide +kernel) hK | exact hF | exact hP | exact hF _ | exact hP _ | with_reducible apply State.mbxSet_only | with_reducible apply State.setSlot_only | with_reducible apply State.mbxAck_only | with_reducible apply Only.ite | dsimp only | split | (with_reducible refine Only.fst (by with_reducible assumption) ?_) | (with_reducible refine Only.snd (by with_reducible assumption) ?_)

theorem State.mbxInAck_far {K : List Part} {F : FieldId → Prop} {P : PlotId → Prop} {s0 : State} (s : State) (ep : MbxEp) (code : Nat) (hK : Fits (([.hubReg Reg.MBX_HUB_IN_META.FULL, .hubReg Reg.MBX_HUB_OUT_ACK.CODE, .hubReg Reg.MBX_HUB_OUT_ACK.DONE, .hubReg Reg.MBX_HUB_OUT_META.PENDING, .hubSlots, .reg Reg.MBX_RIM_IN_META.FULL, .reg Reg.MBX_RIM_OUT_ACK.CODE, .reg Reg.MBX_RIM_OUT_ACK.DONE, .reg Reg.MBX_RIM_OUT_META.PENDING, .slot, .plotReg Reg.MBX_PLOT_IN_META.FULL, .plotReg Reg.MBX_PLOT_OUT_ACK.CODE, .plotReg Reg.MBX_PLOT_OUT_ACK.DONE, .plotReg Reg.MBX_PLOT_OUT_META.PENDING, .rimSlots] : List Part).map Part.afar) K)
    (ho : Only K F P s0 s) : Only K F P s0 (State.mbxInAck s ep code) :=
  ho.trans (Only.far (l := ([.hubReg Reg.MBX_HUB_IN_META.FULL, .hubReg Reg.MBX_HUB_OUT_ACK.CODE, .hubReg Reg.MBX_HUB_OUT_ACK.DONE, .hubReg Reg.MBX_HUB_OUT_META.PENDING, .hubSlots, .reg Reg.MBX_RIM_IN_META.FULL, .reg Reg.MBX_RIM_OUT_ACK.CODE, .reg Reg.MBX_RIM_OUT_ACK.DONE, .reg Reg.MBX_RIM_OUT_META.PENDING, .slot, .plotReg Reg.MBX_PLOT_IN_META.FULL, .plotReg Reg.MBX_PLOT_OUT_ACK.CODE, .plotReg Reg.MBX_PLOT_OUT_ACK.DONE, .plotReg Reg.MBX_PLOT_OUT_META.PENDING, .rimSlots] : List Part)) (State.mbxInAck_only s ep code (Fits.refl _) (fun _ => trivial) (fun _ => trivial) (Only.refl _ _ _ _)) hK)

theorem State.mbxReceiverReset_only {K : List Part} {F : FieldId → Prop} {P : PlotId → Prop} {s0 : State} (s : State) (ep : MbxEp) (hK : Fits ([.hubReg Reg.MBX_HUB_IN_META.FULL, .hubReg Reg.MBX_HUB_OUT_ACK.CODE, .hubReg Reg.MBX_HUB_OUT_ACK.DONE, .hubReg Reg.MBX_HUB_OUT_META.PENDING, .hubSlots, .reg Reg.MBX_RIM_IN_META.FULL, .reg Reg.MBX_RIM_OUT_ACK.CODE, .reg Reg.MBX_RIM_OUT_ACK.DONE, .reg Reg.MBX_RIM_OUT_META.PENDING, .slot, .plotReg Reg.MBX_PLOT_IN_META.FULL, .plotReg Reg.MBX_PLOT_OUT_ACK.CODE, .plotReg Reg.MBX_PLOT_OUT_ACK.DONE, .plotReg Reg.MBX_PLOT_OUT_META.PENDING, .rimSlots] : List Part) K) (hF : ∀ f, F f) (hP : ∀ p, P p)
    (ho : Only K F P s0 s) : Only K F P s0 (State.mbxReceiverReset s ep) := by
  unfold State.mbxReceiverReset
  repeat' first | with_reducible assumption | exact Fits.trans (by decide +kernel) hK | exact hF | exact hP | exact hF _ | exact hP _ | with_reducible apply State.mbxSet_only | with_reducible apply State.setSlot_only | with_reducible apply State.mbxAck_only | with_reducible apply Only.ite | dsimp only | split | (with_reducible refine Only.fst (by with_reducible assumption) ?_) | (with_reducible refine Only.snd (by with_reducible assumption) ?_)

theorem State.mbxReceiverReset_far {K : List Part} {F : FieldId → Prop} {P : PlotId → Prop} {s0 : State} (s : State) (ep : MbxEp) (hK : Fits (([.hubReg Reg.MBX_HUB_IN_META.FULL, .hubReg Reg.MBX_HUB_OUT_ACK.CODE, .hubReg Reg.MBX_HUB_OUT_ACK.DONE, .hubReg Reg.MBX_HUB_OUT_META.PENDING, .hubSlots, .reg Reg.MBX_RIM_IN_META.FULL, .reg Reg.MBX_RIM_OUT_ACK.CODE, .reg Reg.MBX_RIM_OUT_ACK.DONE, .reg Reg.MBX_RIM_OUT_META.PENDING, .slot, .plotReg Reg.MBX_PLOT_IN_META.FULL, .plotReg Reg.MBX_PLOT_OUT_ACK.CODE, .plotReg Reg.MBX_PLOT_OUT_ACK.DONE, .plotReg Reg.MBX_PLOT_OUT_META.PENDING, .rimSlots] : List Part).map Part.afar) K)
    (ho : Only K F P s0 s) : Only K F P s0 (State.mbxReceiverReset s ep) :=
  ho.trans (Only.far (l := ([.hubReg Reg.MBX_HUB_IN_META.FULL, .hubReg Reg.MBX_HUB_OUT_ACK.CODE, .hubReg Reg.MBX_HUB_OUT_ACK.DONE, .hubReg Reg.MBX_HUB_OUT_META.PENDING, .hubSlots, .reg Reg.MBX_RIM_IN_META.FULL, .reg Reg.MBX_RIM_OUT_ACK.CODE, .reg Reg.MBX_RIM_OUT_ACK.DONE, .reg Reg.MBX_RIM_OUT_META.PENDING, .slot, .plotReg Reg.MBX_PLOT_IN_META.FULL, .plotReg Reg.MBX_PLOT_OUT_ACK.CODE, .plotReg Reg.MBX_PLOT_OUT_ACK.DONE, .plotReg Reg.MBX_PLOT_OUT_META.PENDING, .rimSlots] : List Part)) (State.mbxReceiverReset_only s ep (Fits.refl _) (fun _ => trivial) (fun _ => trivial) (Only.refl _ _ _ _)) hK)

theorem State.mbxSenderReset_only {K : List Part} {F : FieldId → Prop} {P : PlotId → Prop} {s0 : State} (s : State) (ep : MbxEp) (hK : Fits ([.hubSlots, .slot, .rimSlots] : List Part) K) (hF : ∀ f, F f) (hP : ∀ p, P p)
    (ho : Only K F P s0 s) : Only K F P s0 (State.mbxSenderReset s ep) := by
  unfold State.mbxSenderReset
  split
  · refine State.updField_only _ _ (fun X => ?_) (hF _) ho
    exact FieldOnly.mapPlots (fun _ Z => { Z with slot := Z.slot.orphan _ }) (fun _ Z => PlotOnly.keep rfl (fun k hk => by
      cases k <;> first | exact trivial | exact rfl | exact ⟨rfl, rfl⟩ | exact (Fits.not hK hk rfl).elim)) hP
  · apply State.setSlot_only
    · exact (Fits.trans (by decide +kernel) hK)
    · exact hF
    · exact hP
    · exact ho

theorem State.mbxSenderReset_far {K : List Part} {F : FieldId → Prop} {P : PlotId → Prop} {s0 : State} (s : State) (ep : MbxEp) (hK : Fits (([.hubSlots, .slot, .rimSlots] : List Part).map Part.afar) K)
    (ho : Only K F P s0 s) : Only K F P s0 (State.mbxSenderReset s ep) :=
  ho.trans (Only.far (l := ([.hubSlots, .slot, .rimSlots] : List Part)) (State.mbxSenderReset_only s ep (Fits.refl _) (fun _ => trivial) (fun _ => trivial) (Only.refl _ _ _ _)) hK)

theorem execMailboxSend_only {K : List Part} {F : FieldId → Prop} {P : PlotId → Prop} {s0 : State} (ep : MbxEp) (s : State) (hK : Fits ([.hubReg Reg.MBX_HUB_OUT_ACK.CODE, .hubReg Reg.MBX_HUB_OUT_ACK.DONE, .hubReg Reg.MBX_HUB_OUT_META.PENDING, .hubReg Reg.MBX_HUB_OUT_META.REFUSED, .hubSlots, .reg Reg.MBX_RIM_OUT_ACK.CODE, .reg Reg.MBX_RIM_OUT_ACK.DONE, .reg Reg.MBX_RIM_OUT_META.PENDING, .reg Reg.MBX_RIM_OUT_META.REFUSED, .slot, .plotReg Reg.MBX_PLOT_OUT_ACK.CODE, .plotReg Reg.MBX_PLOT_OUT_ACK.DONE, .plotReg Reg.MBX_PLOT_OUT_META.PENDING, .plotReg Reg.MBX_PLOT_OUT_META.REFUSED, .rimSlots] : List Part) K) (hF : ∀ f, F f) (hP : ∀ p, P p)
    (ho : Only K F P s0 s) : Ends K F P s0 (execMailboxSend ep s) := by
  unfold execMailboxSend
  repeat' first | with_reducible assumption | exact Fits.trans (by decide +kernel) hK | exact hF | exact hP | exact hF _ | exact hP _ | with_reducible apply State.mbxSend_only | with_reducible apply Ends.finish | with_reducible apply Ends.next | with_reducible apply Only.ite | with_reducible apply Ends.ite | dsimp only | split | (with_reducible refine Only.fst (by with_reducible assumption) ?_) | (with_reducible refine Only.snd (by with_reducible assumption) ?_)

theorem execMailboxDeliver_only {K : List Part} {F : FieldId → Prop} {P : PlotId → Prop} {s0 : State} (ep : MbxEp) (s : State) (hK : Fits (([.out, .hubReg Reg.MBX_HUB_IN_META.EPOCH, .hubReg Reg.MBX_HUB_IN_META.FULL, .hubReg Reg.MBX_HUB_IN_META.TAG, .hubReg Reg.MBX_HUB_IN_PTR.PTR, .hubReg Reg.MBX_HUB_OUT_ACK.CODE, .hubReg Reg.MBX_HUB_OUT_ACK.DONE, .hubReg Reg.MBX_HUB_OUT_META.PENDING, .msix, .hubSlots, .reg Reg.MBX_RIMP_IN_META.SENDER, .reg Reg.MBX_RIM_IN_META.EPOCH, .reg Reg.MBX_RIM_IN_META.FULL, .reg Reg.MBX_RIM_IN_META.TAG, .reg Reg.MBX_RIM_IN_PTR.PTR, .reg Reg.MBX_RIM_OUT_ACK.CODE] : List Part) ++ ([.reg Reg.MBX_RIM_OUT_ACK.DONE, .reg Reg.MBX_RIM_OUT_META.PENDING, .slot, .plotReg Reg.MBX_PLOT_IN_META.EPOCH, .plotReg Reg.MBX_PLOT_IN_META.FULL, .plotReg Reg.MBX_PLOT_IN_META.TAG, .plotReg Reg.MBX_PLOT_IN_PTR.PTR, .plotReg Reg.MBX_PLOT_OUT_ACK.CODE, .plotReg Reg.MBX_PLOT_OUT_ACK.DONE, .plotReg Reg.MBX_PLOT_OUT_META.PENDING, .rimSlots] : List Part)) K) (hF : ∀ f, F f) (hP : ∀ p, P p)
    (ho : Only K F P s0 s) : Ends K F P s0 (execMailboxDeliver ep s) := by
  unfold execMailboxDeliver
  repeat' first | with_reducible assumption | exact Fits.trans (by decide +kernel) hK | exact hF | exact hP | exact hF _ | exact hP _ | with_reducible apply State.mbxDeliver_only | with_reducible apply Ends.finish | with_reducible apply Ends.next | with_reducible apply Only.ite | with_reducible apply Ends.ite | dsimp only | split | (with_reducible refine Only.fst (by with_reducible assumption) ?_) | (with_reducible refine Only.snd (by with_reducible assumption) ?_)

theorem execMailboxInAck_only {K : List Part} {F : FieldId → Prop} {P : PlotId → Prop} {s0 : State} (ep : MbxEp) (code : Nat) (s : State) (hK : Fits ([.hubReg Reg.MBX_HUB_IN_META.FULL, .hubReg Reg.MBX_HUB_OUT_ACK.CODE, .hubReg Reg.MBX_HUB_OUT_ACK.DONE, .hubReg Reg.MBX_HUB_OUT_META.PENDING, .hubSlots, .reg Reg.MBX_RIM_IN_META.FULL, .reg Reg.MBX_RIM_OUT_ACK.CODE, .reg Reg.MBX_RIM_OUT_ACK.DONE, .reg Reg.MBX_RIM_OUT_META.PENDING, .slot, .plotReg Reg.MBX_PLOT_IN_META.FULL, .plotReg Reg.MBX_PLOT_OUT_ACK.CODE, .plotReg Reg.MBX_PLOT_OUT_ACK.DONE, .plotReg Reg.MBX_PLOT_OUT_META.PENDING, .rimSlots] : List Part) K) (hF : ∀ f, F f) (hP : ∀ p, P p)
    (ho : Only K F P s0 s) : Ends K F P s0 (execMailboxInAck ep code s) := by
  unfold execMailboxInAck
  repeat' first | with_reducible assumption | exact Fits.trans (by decide +kernel) hK | exact hF | exact hP | exact hF _ | exact hP _ | with_reducible apply State.mbxInAck_only | with_reducible apply Ends.finish | with_reducible apply Ends.next | with_reducible apply Only.ite | with_reducible apply Ends.ite | dsimp only | split | (with_reducible refine Only.fst (by with_reducible assumption) ?_) | (with_reducible refine Only.snd (by with_reducible assumption) ?_)

end Sys2Proof.Machine
end

