-- ==== Sys2Proof/Laws/Touch/PlotOps.lean ====
section
/-! SUPPORT. What each operation of Machine/PlotOps.lean can change: the parts named, and nothing else. -/

namespace Sys2Proof.Machine

set_option Elab.async false

open Sys2Proof

theorem State.driftReport_only {K : List Part} {F : FieldId → Prop} {P : PlotId → Prop} {s0 : State} (s : State) (f : FieldId) (tag n : Nat) (g : DriftRec → DriftRec) (inj : Bool) (hK : Fits ([.events, .drift] : List Part) K) (hF : F f)
    (ho : Only K F P s0 s) : Only K F P s0 (State.driftReport s f tag n g inj) := by
  unfold State.driftReport
  repeat' first | with_reducible assumption | exact Fits.trans (by decide +kernel) hK | exact hF | with_reducible apply State.updField_only | with_reducible apply State.raise_only | (refine fun (X : Field) => ?_) | with_reducible apply FieldOnly.setReg | with_reducible exact FieldOnly.refl _ _ _ | with_reducible apply FieldOnly.updPlot | with_reducible apply FieldOnly.ite | (refine FieldOnly.keep rfl rfl (fun k hk => ?_); cases k <;> first | exact trivial | exact rfl | exact ⟨rfl, rfl⟩ | exact ⟨rfl, rfl, rfl⟩ | exact (Fits.not hK hk rfl).elim) | with_reducible apply Only.ite | dsimp only | split | (with_reducible refine Only.fst (by with_reducible assumption) ?_) | (with_reducible refine Only.snd (by with_reducible assumption) ?_)

theorem classReg_fits {K : List Part} (c : Nat) (hK : Fits [.plotReg Reg.PLT_CLASS_LO.NAN_IN, .plotReg Reg.PLT_CLASS_LO.INF_IN,
    .plotReg Reg.PLT_CLASS_LO.SAT_BLOCK, .plotReg Reg.PLT_CLASS_LO.SAT_RANGE, .plotReg Reg.PLT_CLASS_HI.UNDERFLOW,
    .plotReg Reg.PLT_CLASS_HI.TERN_RESERVED] K) : Fits [.plotReg (classReg c)] K := by
  unfold classReg; split <;> exact Fits.trans (by decide +kernel) hK

theorem State.classReport_only {K : List Part} {F : FieldId → Prop} {P : PlotId → Prop} {s0 : State} (s : State) (f : FieldId) (p : PlotId) (tag : Option Nat) (c n : Nat) (inj : Bool) (hK : Fits ([.events, .plotReg Reg.PLT_CLASS_HI.TERN_RESERVED, .plotReg Reg.PLT_CLASS_HI.UNDERFLOW, .plotReg Reg.PLT_CLASS_LO.INF_IN, .plotReg Reg.PLT_CLASS_LO.NAN_IN, .plotReg Reg.PLT_CLASS_LO.SAT_BLOCK, .plotReg Reg.PLT_CLASS_LO.SAT_RANGE, .drift] : List Part) K) (hF : F f) (hP : P p)
    (ho : Only K F P s0 s) : Only K F P s0 (State.classReport s f p tag c n inj) := by
  unfold State.classReport
  repeat' first | with_reducible assumption | exact Fits.trans (by decide +kernel) hK | exact hF | exact hP | with_reducible apply State.pcount_only | with_reducible apply State.driftReport_only | apply classReg_fits | with_reducible apply Only.ite | dsimp only | split | (with_reducible refine Only.fst (by with_reducible assumption) ?_) | (with_reducible refine Only.snd (by with_reducible assumption) ?_) | exact classReg_fits _ (Fits.trans (by decide +kernel) hK)

theorem State.classReports_only {K : List Part} {F : FieldId → Prop} {P : PlotId → Prop} {s0 : State} (s : State) (f : FieldId) (p : PlotId) (tag : Option Nat) (cc : ClsCounts) (inj : Bool) (hK : Fits ([.events, .plotReg Reg.PLT_CLASS_HI.TERN_RESERVED, .plotReg Reg.PLT_CLASS_HI.UNDERFLOW, .plotReg Reg.PLT_CLASS_LO.INF_IN, .plotReg Reg.PLT_CLASS_LO.NAN_IN, .plotReg Reg.PLT_CLASS_LO.SAT_BLOCK, .plotReg Reg.PLT_CLASS_LO.SAT_RANGE, .drift] : List Part) K) (hF : F f) (hP : P p)
    (ho : Only K F P s0 s) : Only K F P s0 (State.classReports s f p tag cc inj) := by
  unfold State.classReports
  repeat' first | with_reducible assumption | exact Fits.trans (by decide +kernel) hK | exact hF | exact hP | with_reducible apply State.classReport_only | with_reducible apply Only.ite | dsimp only | split | (with_reducible refine Only.foldl _ _ (fun t a ht => ?_) ?_) | (with_reducible refine Only.foldl_fst _ _ _ (fun t a ht => ?_) ?_) | (with_reducible refine Only.fst (by with_reducible assumption) ?_) | (with_reducible refine Only.snd (by with_reducible assumption) ?_)

theorem State.logCompletion_only {K : List Part} {F : FieldId → Prop} {P : PlotId → Prop} {s0 : State} (s : State) (f : FieldId) (p : PlotId) (qsn tag status seen unit : Nat) (int : Bool) (hK : Fits ([.cq, .plotReg Reg.PLT_CQ_STATUS.LOST, .plotReg Reg.PLT_CQ_STATUS.OVERFLOW, .plotReg Reg.PLT_CQ_SUMMARY.CLASS_SEEN, .plotReg Reg.PLT_CQ_SUMMARY.ERR, .plotReg Reg.PLT_CQ_SUMMARY.ERR_QSN, .plotReg Reg.PLT_CQ_SUMMARY.ERR_STATUS] : List Part) K) (hF : F f) (hP : P p)
    (ho : Only K F P s0 s) : Only K F P s0 (State.logCompletion s f p qsn tag status seen unit int) := by
  unfold State.logCompletion
  repeat' first | with_reducible assumption | exact Fits.trans (by decide +kernel) hK | exact hF | exact hP | with_reducible apply State.pset_only | with_reducible apply State.updPlot_only | with_reducible apply State.pcount_only | (refine fun (X : Plot) => ?_) | with_reducible apply PlotOnly.setReg | with_reducible exact PlotOnly.refl _ _ | with_reducible apply PlotOnly.ite | (refine PlotOnly.keep rfl (fun k hk => ?_); cases k <;> first | exact trivial | exact rfl | exact ⟨rfl, rfl⟩ | exact ⟨rfl, rfl, rfl⟩ | exact (Fits.not hK hk rfl).elim) | with_reducible apply Only.ite | dsimp only | split | (with_reducible refine Only.fst (by with_reducible assumption) ?_) | (with_reducible refine Only.snd (by with_reducible assumption) ?_)

theorem State.complete_only {K : List Part} {F : FieldId → Prop} {P : PlotId → Prop} {s0 : State} (s : State) (f : FieldId) (p : PlotId) (e : QEntry) (status seen : Nat) (hK : Fits ([.queue, .cq, .plotReg Reg.PLT_CQ_STATUS.LOST, .plotReg Reg.PLT_CQ_STATUS.OVERFLOW, .plotReg Reg.PLT_CQ_SUMMARY.CLASS_SEEN, .plotReg Reg.PLT_CQ_SUMMARY.ERR, .plotReg Reg.PLT_CQ_SUMMARY.ERR_QSN, .plotReg Reg.PLT_CQ_SUMMARY.ERR_STATUS] : List Part) K) (hF : F f) (hP : P p)
    (ho : Only K F P s0 s) : Only K F P s0 (State.complete s f p e status seen) := by
  unfold State.complete
  repeat' first | with_reducible assumption | exact Fits.trans (by decide +kernel) hK | exact hF | exact hP | with_reducible apply State.logCompletion_only | with_reducible apply State.updPlot_only | (refine fun (X : Plot) => ?_) | with_reducible apply PlotOnly.setReg | with_reducible exact PlotOnly.refl _ _ | with_reducible apply PlotOnly.ite | (refine PlotOnly.keep rfl (fun k hk => ?_); cases k <;> first | exact trivial | exact rfl | exact ⟨rfl, rfl⟩ | exact ⟨rfl, rfl, rfl⟩ | exact (Fits.not hK hk rfl).elim) | with_reducible apply Only.ite | dsimp only | split | (with_reducible refine Only.fst (by with_reducible assumption) ?_) | (with_reducible refine Only.snd (by with_reducible assumption) ?_)

theorem State.updEntry_only {K : List Part} {F : FieldId → Prop} {P : PlotId → Prop} {s0 : State} (s : State) (f : FieldId) (p : PlotId) (qsn : Nat) (g : QEntry → QEntry) (hK : Fits ([.queue] : List Part) K) (hF : F f) (hP : P p)
    (ho : Only K F P s0 s) : Only K F P s0 (State.updEntry s f p qsn g) := by
  unfold State.updEntry
  repeat' first | with_reducible assumption | exact Fits.trans (by decide +kernel) hK | exact hF | exact hP | with_reducible apply State.updPlot_only | (refine fun (X : Plot) => ?_) | with_reducible apply PlotOnly.setReg | with_reducible exact PlotOnly.refl _ _ | with_reducible apply PlotOnly.ite | (refine PlotOnly.keep rfl (fun k hk => ?_); cases k <;> first | exact trivial | exact rfl | exact ⟨rfl, rfl⟩ | exact ⟨rfl, rfl, rfl⟩ | exact (Fits.not hK hk rfl).elim) | with_reducible apply Only.ite | dsimp only | split | (with_reducible refine Only.fst (by with_reducible assumption) ?_) | (with_reducible refine Only.snd (by with_reducible assumption) ?_)

theorem State.updDrill_only {K : List Part} {F : FieldId → Prop} {P : PlotId → Prop} {s0 : State} (s : State) (f : FieldId) (p : PlotId) (g : Drill → Drill) (hK : Fits ([.drill] : List Part) K) (hF : F f) (hP : P p)
    (ho : Only K F P s0 s) : Only K F P s0 (State.updDrill s f p g) := by
  unfold State.updDrill
  repeat' first | with_reducible assumption | exact Fits.trans (by decide +kernel) hK | exact hF | exact hP | with_reducible apply State.updPlot_only | (refine fun (X : Plot) => ?_) | with_reducible apply PlotOnly.setReg | with_reducible exact PlotOnly.refl _ _ | with_reducible apply PlotOnly.ite | (refine PlotOnly.keep rfl (fun k hk => ?_); cases k <;> first | exact trivial | exact rfl | exact ⟨rfl, rfl⟩ | exact ⟨rfl, rfl, rfl⟩ | exact (Fits.not hK hk rfl).elim) | with_reducible apply Only.ite | dsimp only | split | (with_reducible refine Only.fst (by with_reducible assumption) ?_) | (with_reducible refine Only.snd (by with_reducible assumption) ?_)

theorem State.drillHalt_only {K : List Part} {F : FieldId → Prop} {P : PlotId → Prop} {s0 : State} (s : State) (f : FieldId) (p : PlotId) (haltPc resumePc : Nat) (hK : Fits ([.events, .drill] : List Part) K) (hF : F f) (hP : P p)
    (ho : Only K F P s0 s) : Only K F P s0 (State.drillHalt s f p haltPc resumePc) := by
  unfold State.drillHalt
  repeat' first | with_reducible assumption | exact Fits.trans (by decide +kernel) hK | exact hF | exact hP | with_reducible apply State.raise_only | with_reducible apply State.updDrill_only | with_reducible apply Only.ite | dsimp only | split | (with_reducible refine Only.fst (by with_reducible assumption) ?_) | (with_reducible refine Only.snd (by with_reducible assumption) ?_)

theorem State.drillCtl_only {K : List Part} {F : FieldId → Prop} {P : PlotId → Prop} {s0 : State} (s : State) (f : FieldId) (p : PlotId) (hold haltReq resume : Bool) (hK : Fits ([.drill, .boot, .plotReg Reg.PLT_BOOT.STATUS] : List Part) K) (hF : F f) (hP : P p)
    (ho : Only K F P s0 s) : Only K F P s0 (State.drillCtl s f p hold haltReq resume) := by
  unfold State.drillCtl
  repeat' first | with_reducible assumption | exact Fits.trans (by decide +kernel) hK | exact hF | exact hP | with_reducible apply State.updPlot_only | (refine fun (X : Plot) => ?_) | with_reducible apply PlotOnly.setReg | with_reducible exact PlotOnly.refl _ _ | with_reducible apply PlotOnly.ite | (refine PlotOnly.keep rfl (fun k hk => ?_); cases k <;> first | exact trivial | exact rfl | exact ⟨rfl, rfl⟩ | exact ⟨rfl, rfl, rfl⟩ | exact (Fits.not hK hk rfl).elim) | with_reducible apply Only.ite | dsimp only | split | (with_reducible refine Only.fst (by with_reducible assumption) ?_) | (with_reducible refine Only.snd (by with_reducible assumption) ?_) | unfold Plot.bootStart | (refine PlotOnly.trans (PlotOnly.setReg Reg.PLT_BOOT.STATUS 0 0 0 ?_ (PlotOnly.refl _ _)) (PlotOnly.keep rfl (fun k hk => ?_))) | (cases k <;> first | exact trivial | exact rfl | exact ⟨rfl, rfl⟩ | exact ⟨rfl, rfl, rfl⟩ | exact (Fits.not hK hk rfl).elim)

theorem State.plotNotify_only {K : List Part} {F : FieldId → Prop} {P : PlotId → Prop} {s0 : State} (s : State) (f : FieldId) (p : PlotId) (v : Nat) (hK : Fits ([.notify, .plotReg Reg.PLT_NOTIFY.LOST] : List Part) K) (hF : F f) (hP : P p)
    (ho : Only K F P s0 s) : Only K F P s0 (State.plotNotify s f p v) := by
  unfold State.plotNotify
  repeat' first | with_reducible assumption | exact Fits.trans (by decide +kernel) hK | exact hF | exact hP | with_reducible apply State.pcount_only | with_reducible apply State.updPlot_only | (refine fun (X : Plot) => ?_) | with_reducible apply PlotOnly.setReg | with_reducible exact PlotOnly.refl _ _ | with_reducible apply PlotOnly.ite | (refine PlotOnly.keep rfl (fun k hk => ?_); cases k <;> first | exact trivial | exact rfl | exact ⟨rfl, rfl⟩ | exact ⟨rfl, rfl, rfl⟩ | exact (Fits.not hK hk rfl).elim) | with_reducible apply Only.ite | dsimp only | split | (with_reducible refine Only.fst (by with_reducible assumption) ?_) | (with_reducible refine Only.snd (by with_reducible assumption) ?_)

theorem State.notifyLeave_only {K : List Part} {F : FieldId → Prop} {P : PlotId → Prop} {s0 : State} (s : State) (f : FieldId) (p : PlotId) (hK : Fits ([.events, .notify] : List Part) K) (hF : F f) (hP : P p)
    (ho : Only K F P s0 s) : Only K F P s0 (State.notifyLeave s f p) := by
  unfold State.notifyLeave
  repeat' first | with_reducible assumption | exact Fits.trans (by decide +kernel) hK | exact hF | exact hP | with_reducible apply State.raise_only | with_reducible apply State.updPlot_only | (refine fun (X : Plot) => ?_) | with_reducible apply PlotOnly.setReg | with_reducible exact PlotOnly.refl _ _ | with_reducible apply PlotOnly.ite | (refine PlotOnly.keep rfl (fun k hk => ?_); cases k <;> first | exact trivial | exact rfl | exact ⟨rfl, rfl⟩ | exact ⟨rfl, rfl, rfl⟩ | exact (Fits.not hK hk rfl).elim) | with_reducible apply Only.ite | dsimp only | split | (with_reducible refine Only.fst (by with_reducible assumption) ?_) | (with_reducible refine Only.snd (by with_reducible assumption) ?_)

theorem State.plotWrite_only {K : List Part} {F : FieldId → Prop} {P : PlotId → Prop} {s0 : State} (s : State) (f : FieldId) (p : PlotId) (byDrill : Bool) (off bytes value : Nat) (hK : Fits (([.hubReg Reg.MBX_HUB_IN_META.FULL, .hubReg Reg.MBX_HUB_OUT_ACK.CODE, .hubReg Reg.MBX_HUB_OUT_ACK.DONE, .hubReg Reg.MBX_HUB_OUT_META.PENDING, .hubReg Reg.MBX_HUB_OUT_META.REFUSED, .hubSlots, .drill, .notify, .boot, .anyPlotReg, .far (.reg Reg.MBX_RIM_IN_META.FULL), .far (.reg Reg.MBX_RIM_OUT_ACK.CODE), .far (.reg Reg.MBX_RIM_OUT_ACK.DONE), .far (.reg Reg.MBX_RIM_OUT_META.PENDING), .far (.reg Reg.MBX_RIM_OUT_META.REFUSED), .far .slot] : List Part) ++ ([.far (.plotReg Reg.MBX_PLOT_IN_META.FULL), .far (.plotReg Reg.MBX_PLOT_OUT_ACK.CODE), .far (.plotReg Reg.MBX_PLOT_OUT_ACK.DONE), .far (.plotReg Reg.MBX_PLOT_OUT_META.PENDING), .far (.plotReg Reg.MBX_PLOT_OUT_META.REFUSED), .far .rimSlots] : List Part)) K) (hF : F f) (hP : P p)
    (ho : Only K F P s0 s) : Only K F P s0 (State.plotWrite s f p byDrill off bytes value) := by
  unfold State.plotWrite
  repeat' first | with_reducible assumption | exact Fits.trans (by decide +kernel) hK | exact hF | exact hP | with_reducible apply State.pset_only | with_reducible apply State.drillCtl_only | with_reducible apply State.plotNotify_only | with_reducible apply State.mbxInAck_far | with_reducible apply State.mbxSend_far | with_reducible apply Only.ite | dsimp only | split | (with_reducible refine Only.foldl _ _ (fun t a ht => ?_) ?_) | (with_reducible refine Only.foldl_fst _ _ _ (fun t a ht => ?_) ?_) | (with_reducible refine Only.fst (by with_reducible assumption) ?_) | (with_reducible refine Only.snd (by with_reducible assumption) ?_) | exact Fits.anyPlot _ (Fits.trans (by decide +kernel) hK) | exact Fits.anyPlot _ (Fits.trans (by decide +kernel) hK)

theorem State.plotWrite_all {K : List Part} {F : FieldId → Prop} {P : PlotId → Prop} {s0 : State} (s : State) (f : FieldId) (p : PlotId) (byDrill : Bool) (off bytes value : Nat) (hK : Fits ((([.hubReg Reg.MBX_HUB_IN_META.FULL, .hubReg Reg.MBX_HUB_OUT_ACK.CODE, .hubReg Reg.MBX_HUB_OUT_ACK.DONE, .hubReg Reg.MBX_HUB_OUT_META.PENDING, .hubReg Reg.MBX_HUB_OUT_META.REFUSED, .hubSlots, .drill, .notify, .boot, .anyPlotReg, .far (.reg Reg.MBX_RIM_IN_META.FULL), .far (.reg Reg.MBX_RIM_OUT_ACK.CODE), .far (.reg Reg.MBX_RIM_OUT_ACK.DONE), .far (.reg Reg.MBX_RIM_OUT_META.PENDING), .far (.reg Reg.MBX_RIM_OUT_META.REFUSED), .far .slot] : List Part) ++ ([.far (.plotReg Reg.MBX_PLOT_IN_META.FULL), .far (.plotReg Reg.MBX_PLOT_OUT_ACK.CODE), .far (.plotReg Reg.MBX_PLOT_OUT_ACK.DONE), .far (.plotReg Reg.MBX_PLOT_OUT_META.PENDING), .far (.plotReg Reg.MBX_PLOT_OUT_META.REFUSED), .far .rimSlots] : List Part)).map Part.anear) K) (hF : ∀ f, F f) (hP : ∀ p, P p)
    (ho : Only K F P s0 s) : Only K F P s0 (State.plotWrite s f p byDrill off bytes value) :=
  ho.trans (Only.near (l := (([.hubReg Reg.MBX_HUB_IN_META.FULL, .hubReg Reg.MBX_HUB_OUT_ACK.CODE, .hubReg Reg.MBX_HUB_OUT_ACK.DONE, .hubReg Reg.MBX_HUB_OUT_META.PENDING, .hubReg Reg.MBX_HUB_OUT_META.REFUSED, .hubSlots, .drill, .notify, .boot, .anyPlotReg, .far (.reg Reg.MBX_RIM_IN_META.FULL), .far (.reg Reg.MBX_RIM_OUT_ACK.CODE), .far (.reg Reg.MBX_RIM_OUT_ACK.DONE), .far (.reg Reg.MBX_RIM_OUT_META.PENDING), .far (.reg Reg.MBX_RIM_OUT_META.REFUSED), .far .slot] : List Part) ++ ([.far (.plotReg Reg.MBX_PLOT_IN_META.FULL), .far (.plotReg Reg.MBX_PLOT_OUT_ACK.CODE), .far (.plotReg Reg.MBX_PLOT_OUT_ACK.DONE), .far (.plotReg Reg.MBX_PLOT_OUT_META.PENDING), .far (.plotReg Reg.MBX_PLOT_OUT_META.REFUSED), .far .rimSlots] : List Part))) (State.plotWrite_only s f p byDrill off bytes value (Fits.refl _) trivial trivial (Only.refl _ _ _ _)) hK hF hP)

theorem State.cqPop_only {K : List Part} {F : FieldId → Prop} {P : PlotId → Prop} {s0 : State} (s : State) (f : FieldId) (p : PlotId) (hK : Fits ([.cq] : List Part) K) (hF : F f) (hP : P p)
    (ho : Only K F P s0 s) : Only K F P s0 (State.cqPop s f p) := by
  unfold State.cqPop
  repeat' first | with_reducible assumption | exact Fits.trans (by decide +kernel) hK | exact hF | exact hP | with_reducible apply State.updPlot_only | (refine fun (X : Plot) => ?_) | with_reducible apply PlotOnly.setReg | with_reducible exact PlotOnly.refl _ _ | with_reducible apply PlotOnly.ite | (refine PlotOnly.keep rfl (fun k hk => ?_); cases k <;> first | exact trivial | exact rfl | exact ⟨rfl, rfl⟩ | exact ⟨rfl, rfl, rfl⟩ | exact (Fits.not hK hk rfl).elim) | with_reducible apply Only.ite | dsimp only | split | (with_reducible refine Only.fst (by with_reducible assumption) ?_) | (with_reducible refine Only.snd (by with_reducible assumption) ?_)

end Sys2Proof.Machine
end

