-- ==== Sys2Proof/Laws/Touch/Tile.lean ====
section
/-! SUPPORT. What each operation of Machine/Tile.lean can change: the parts named, and nothing else. -/

namespace Sys2Proof.Machine

set_option Elab.async false

open Sys2Proof

theorem State.injArithFire_only {K : List Part} {F : FieldId → Prop} {P : PlotId → Prop} {s0 : State} (s : State) (f : FieldId) (hK : Fits ([.reg Reg.INJ_ARITH.ARM, .reg Reg.INJ_ARITH.DONE] : List Part) K) (hF : F f)
    (ho : Only K F P s0 s) : Only K F P s0 (State.injArithFire s f) := by
  unfold State.injArithFire
  repeat' first | with_reducible assumption | exact Fits.trans (by decide +kernel) hK | exact hF | with_reducible apply State.fset_only | with_reducible apply Only.ite | dsimp only | split | (with_reducible refine Only.fst (by with_reducible assumption) ?_) | (with_reducible refine Only.snd (by with_reducible assumption) ?_)

theorem State.issue_only {K : List Part} {F : FieldId → Prop} {P : PlotId → Prop} {s0 : State} (s : State) (f : FieldId) (p : PlotId) (op : QOp) (int : Bool) (claims : List Claim) (refusal : Option Nat) (hK : Fits ([.reg Reg.INJ_ARITH.ARM, .reg Reg.INJ_ARITH.DONE, .queue, .cq, .plotReg Reg.PLT_CQ_STATUS.LOST, .plotReg Reg.PLT_CQ_STATUS.OVERFLOW, .plotReg Reg.PLT_CQ_SUMMARY.CLASS_SEEN, .plotReg Reg.PLT_CQ_SUMMARY.ERR, .plotReg Reg.PLT_CQ_SUMMARY.ERR_QSN, .plotReg Reg.PLT_CQ_SUMMARY.ERR_STATUS] : List Part) K) (hF : F f) (hP : P p)
    (ho : Only K F P s0 s) : Only K F P s0 (State.issue s f p op int claims refusal) := by
  unfold State.issue
  repeat' first | with_reducible assumption | exact Fits.trans (by decide +kernel) hK | exact hF | exact hP | with_reducible apply State.updPlot_only | with_reducible apply State.logCompletion_only | with_reducible apply State.injArithFire_only | (refine fun (X : Plot) => ?_) | with_reducible apply PlotOnly.setReg | with_reducible exact PlotOnly.refl _ _ | with_reducible apply PlotOnly.ite | (refine PlotOnly.keep rfl (fun k hk => ?_); cases k <;> first | exact trivial | exact rfl | exact ⟨rfl, rfl⟩ | exact ⟨rfl, rfl, rfl⟩ | exact (Fits.not hK hk rfl).elim) | with_reducible apply Only.ite | dsimp only | split | (with_reducible refine Only.fst (by with_reducible assumption) ?_) | (with_reducible refine Only.snd (by with_reducible assumption) ?_)

theorem State.issueTmm_only {K : List Part} {F : FieldId → Prop} {P : PlotId → Prop} {s0 : State} (s : State) (f : FieldId) (p : PlotId) (d md : Nat) (int : Bool) (hK : Fits ([.reg Reg.INJ_ARITH.ARM, .reg Reg.INJ_ARITH.DONE, .queue, .cq, .plotReg Reg.PLT_CQ_STATUS.LOST, .plotReg Reg.PLT_CQ_STATUS.OVERFLOW, .plotReg Reg.PLT_CQ_SUMMARY.CLASS_SEEN, .plotReg Reg.PLT_CQ_SUMMARY.ERR, .plotReg Reg.PLT_CQ_SUMMARY.ERR_QSN, .plotReg Reg.PLT_CQ_SUMMARY.ERR_STATUS] : List Part) K) (hF : F f) (hP : P p)
    (ho : Only K F P s0 s) : Only K F P s0 (State.issueTmm s f p d md int) := by
  unfold State.issueTmm
  repeat' first | with_reducible assumption | exact Fits.trans (by decide +kernel) hK | exact hF | exact hP | with_reducible apply State.issue_only | with_reducible apply Only.ite | dsimp only | split | (with_reducible refine Only.fst (by with_reducible assumption) ?_) | (with_reducible refine Only.snd (by with_reducible assumption) ?_)

theorem State.issueTvec_only {K : List Part} {F : FieldId → Prop} {P : PlotId → Prop} {s0 : State} (s : State) (f : FieldId) (p : PlotId) (d md : Nat) (int : Bool) (hK : Fits ([.reg Reg.INJ_ARITH.ARM, .reg Reg.INJ_ARITH.DONE, .queue, .cq, .plotReg Reg.PLT_CQ_STATUS.LOST, .plotReg Reg.PLT_CQ_STATUS.OVERFLOW, .plotReg Reg.PLT_CQ_SUMMARY.CLASS_SEEN, .plotReg Reg.PLT_CQ_SUMMARY.ERR, .plotReg Reg.PLT_CQ_SUMMARY.ERR_QSN, .plotReg Reg.PLT_CQ_SUMMARY.ERR_STATUS] : List Part) K) (hF : F f) (hP : P p)
    (ho : Only K F P s0 s) : Only K F P s0 (State.issueTvec s f p d md int) := by
  unfold State.issueTvec
  repeat' first | with_reducible assumption | exact Fits.trans (by decide +kernel) hK | exact hF | exact hP | with_reducible apply State.issue_only | with_reducible apply Only.ite | dsimp only | split | (with_reducible refine Only.fst (by with_reducible assumption) ?_) | (with_reducible refine Only.snd (by with_reducible assumption) ?_)

theorem State.issueTxfer_only {K : List Part} {F : FieldId → Prop} {P : PlotId → Prop} {s0 : State} (s : State) (f : FieldId) (p : PlotId) (d : Nat) (hK : Fits ([.reg Reg.INJ_ARITH.ARM, .reg Reg.INJ_ARITH.DONE, .queue, .cq, .plotReg Reg.PLT_CQ_STATUS.LOST, .plotReg Reg.PLT_CQ_STATUS.OVERFLOW, .plotReg Reg.PLT_CQ_SUMMARY.CLASS_SEEN, .plotReg Reg.PLT_CQ_SUMMARY.ERR, .plotReg Reg.PLT_CQ_SUMMARY.ERR_QSN, .plotReg Reg.PLT_CQ_SUMMARY.ERR_STATUS] : List Part) K) (hF : F f) (hP : P p)
    (ho : Only K F P s0 s) : Only K F P s0 (State.issueTxfer s f p d) := by
  unfold State.issueTxfer
  repeat' first | with_reducible assumption | exact Fits.trans (by decide +kernel) hK | exact hF | exact hP | with_reducible apply State.issue_only | with_reducible apply Only.ite | dsimp only | split | (with_reducible refine Only.fst (by with_reducible assumption) ?_) | (with_reducible refine Only.snd (by with_reducible assumption) ?_)

theorem execTfenceStart_only {K : List Part} {F : FieldId → Prop} {P : PlotId → Prop} {s0 : State} (f : FieldId) (p : PlotId) (s : State) (hK : Fits ([.queue, .cq, .plotReg Reg.PLT_CQ_STATUS.LOST, .plotReg Reg.PLT_CQ_STATUS.OVERFLOW, .plotReg Reg.PLT_CQ_SUMMARY.CLASS_SEEN, .plotReg Reg.PLT_CQ_SUMMARY.ERR, .plotReg Reg.PLT_CQ_SUMMARY.ERR_QSN, .plotReg Reg.PLT_CQ_SUMMARY.ERR_STATUS] : List Part) K) (hF : F f) (hP : P p)
    (ho : Only K F P s0 s) : Ends K F P s0 (execTfenceStart f p s) := by
  unfold execTfenceStart
  repeat' first | with_reducible assumption | exact Fits.trans (by decide +kernel) hK | exact hF | exact hP | with_reducible apply Ends.clocked | with_reducible apply State.complete_only | with_reducible apply Ends.finish | with_reducible apply Ends.next | with_reducible apply Only.ite | with_reducible apply Ends.ite | dsimp only | split | (with_reducible refine Only.fst (by with_reducible assumption) ?_) | (with_reducible refine Only.snd (by with_reducible assumption) ?_)

theorem execTscdrainStart_only {K : List Part} {F : FieldId → Prop} {P : PlotId → Prop} {s0 : State} (f : FieldId) (p : PlotId) (s : State) (hK : Fits ([.queue] : List Part) K) (hF : F f) (hP : P p)
    (ho : Only K F P s0 s) : Ends K F P s0 (execTscdrainStart f p s) := by
  unfold execTscdrainStart
  repeat' first | with_reducible assumption | exact Fits.trans (by decide +kernel) hK | exact hF | exact hP | with_reducible apply Ends.clocked | with_reducible apply State.updEntry_only | with_reducible apply Ends.finish | with_reducible apply Ends.next | with_reducible apply Only.ite | with_reducible apply Ends.ite | dsimp only | split | (with_reducible refine Only.fst (by with_reducible assumption) ?_) | (with_reducible refine Only.snd (by with_reducible assumption) ?_)

theorem execTscdrainComplete_only {K : List Part} {F : FieldId → Prop} {P : PlotId → Prop} {s0 : State} (f : FieldId) (p : PlotId) (s : State) (hK : Fits ([.queue, .cq, .plotReg Reg.PLT_CQ_STATUS.LOST, .plotReg Reg.PLT_CQ_STATUS.OVERFLOW, .plotReg Reg.PLT_CQ_SUMMARY.CLASS_SEEN, .plotReg Reg.PLT_CQ_SUMMARY.ERR, .plotReg Reg.PLT_CQ_SUMMARY.ERR_QSN, .plotReg Reg.PLT_CQ_SUMMARY.ERR_STATUS] : List Part) K) (hF : F f) (hP : P p)
    (ho : Only K F P s0 s) : Ends K F P s0 (execTscdrainComplete f p s) := by
  unfold execTscdrainComplete
  repeat' first | with_reducible assumption | exact Fits.trans (by decide +kernel) hK | exact hF | exact hP | with_reducible apply Ends.clocked | with_reducible apply State.complete_only | with_reducible apply Ends.finish | with_reducible apply Ends.next | with_reducible apply Only.ite | with_reducible apply Ends.ite | dsimp only | split | (with_reducible refine Only.fst (by with_reducible assumption) ?_) | (with_reducible refine Only.snd (by with_reducible assumption) ?_)

theorem execTwaitEnd_only {K : List Part} {F : FieldId → Prop} {P : PlotId → Prop} {s0 : State} (f : FieldId) (p : PlotId) (s : State) (hK : Fits ([.drill] : List Part) K) (hF : F f) (hP : P p)
    (ho : Only K F P s0 s) : Ends K F P s0 (execTwaitEnd f p s) := by
  unfold execTwaitEnd
  repeat' first | with_reducible assumption | exact Fits.trans (by decide +kernel) hK | exact hF | exact hP | with_reducible apply Ends.clocked | with_reducible apply State.updDrill_only | with_reducible apply Ends.finish | with_reducible apply Ends.next | with_reducible apply Only.ite | with_reducible apply Ends.ite | dsimp only | split | (with_reducible refine Only.fst (by with_reducible assumption) ?_) | (with_reducible refine Only.snd (by with_reducible assumption) ?_)

end Sys2Proof.Machine
end

