-- ==== Sys2Proof/Laws/Touch/Pass.lean ====
section
/-! SUPPORT. What each operation of Machine/Pass.lean can change: the parts named, and nothing else. -/

namespace Sys2Proof.Machine

set_option Elab.async false

open Sys2Proof

theorem State.readOperand_only {K : List Part} {F : FieldId → Prop} {P : PlotId → Prop} {s0 : State} (s : State) (f : FieldId) (p : PlotId) (fmt : Fmt) (quant : Bool) (elAddr sideAddr k mode seed step stream base : Nat) (hK : Fits ([.events, .storeErr, .reg Reg.INJ_PT.ARM, .reg Reg.INJ_PT.DONE, .plotReg Reg.PLT_STORE_ECC.CORRECTED, .plotReg Reg.PLT_STORE_ECC.LAST_ADDR, .plotReg Reg.PLT_STORE_ECC.UNCORRECTED, .health] : List Part) K) (hF : F f) (hP : P p)
    (ho : Only K F P s0 s) : Only K F P s0 (State.readOperand s f p fmt quant elAddr sideAddr k mode seed step stream base).1 := by
  unfold State.readOperand
  repeat' first | with_reducible assumption | exact Fits.trans (by decide +kernel) hK | exact hF | exact hP | with_reducible apply State.storeRead_only | with_reducible apply Only.ite | dsimp only | split | (with_reducible refine Only.fst (by with_reducible assumption) ?_) | (with_reducible refine Only.snd (by with_reducible assumption) ?_)

theorem State.readColumns_only {K : List Part} {F : FieldId → Prop} {P : PlotId → Prop} {s0 : State} (s : State) (f : FieldId) (p : PlotId) (d seed step : Nat) (w : Fmt) (c fuel : Nat) (hK : Fits ([.events, .storeErr, .reg Reg.INJ_PT.ARM, .reg Reg.INJ_PT.DONE, .plotReg Reg.PLT_STORE_ECC.CORRECTED, .plotReg Reg.PLT_STORE_ECC.LAST_ADDR, .plotReg Reg.PLT_STORE_ECC.UNCORRECTED, .health] : List Part) K) (hF : F f) (hP : P p)
    (ho : Only K F P s0 s) : Only K F P s0 (State.readColumns s f p d seed step w c fuel).1 := by
  induction fuel generalizing s d seed step w c with
  | zero => simp only [State.readColumns]; (repeat' first | with_reducible assumption | exact Fits.trans (by decide +kernel) hK | exact hF | exact hP | with_reducible apply State.readOperand_only | with_reducible apply Only.ite | dsimp only | split | (with_reducible refine Only.fst (by with_reducible assumption) ?_) | (with_reducible refine Only.snd (by with_reducible assumption) ?_))
  | succ fuel ih => simp only [State.readColumns]; (repeat' first | with_reducible assumption | with_reducible apply ih | with_reducible assumption | exact Fits.trans (by decide +kernel) hK | exact hF | exact hP | with_reducible apply State.readOperand_only | with_reducible apply Only.ite | dsimp only | split | (with_reducible refine Only.fst (by with_reducible assumption) ?_) | (with_reducible refine Only.snd (by with_reducible assumption) ?_))

theorem execWeightLoad_only {K : List Part} {F : FieldId → Prop} {P : PlotId → Prop} {s0 : State} (f : FieldId) (p : PlotId) (s : State) (hK : Fits (([.events, .storeErr, .reg Reg.INJ_ARITH.ARM, .reg Reg.INJ_ARITH.DONE, .reg Reg.INJ_PT.ARM, .reg Reg.INJ_PT.DONE, .queue, .tine, .plotReg Reg.PLT_CLASS_HI.TERN_RESERVED, .plotReg Reg.PLT_CLASS_HI.UNDERFLOW, .plotReg Reg.PLT_CLASS_LO.INF_IN, .plotReg Reg.PLT_CLASS_LO.NAN_IN, .plotReg Reg.PLT_CLASS_LO.SAT_BLOCK, .plotReg Reg.PLT_CLASS_LO.SAT_RANGE, .plotReg Reg.PLT_QUEUE_STALL.CLAIM, .plotReg Reg.PLT_STORE_ECC.CORRECTED] : List Part) ++ ([.plotReg Reg.PLT_STORE_ECC.LAST_ADDR, .plotReg Reg.PLT_STORE_ECC.UNCORRECTED, .drift, .health] : List Part)) K) (hF : F f) (hP : P p)
    (ho : Only K F P s0 s) : Ends K F P s0 (execWeightLoad f p s) := by
  unfold execWeightLoad
  repeat' first | with_reducible assumption | exact Fits.trans (by decide +kernel) hK | exact hF | exact hP | with_reducible apply Ends.clocked | with_reducible apply State.pwrap_only | with_reducible apply State.readColumns_only | with_reducible apply State.injArithFire_only | with_reducible apply State.classReports_only | with_reducible apply State.updEntry_only | with_reducible apply State.updPlot_only | with_reducible apply Ends.finish | with_reducible apply Ends.next | (refine fun (X : Plot) => ?_) | with_reducible apply PlotOnly.setReg | with_reducible exact PlotOnly.refl _ _ | with_reducible apply PlotOnly.ite | (refine PlotOnly.keep rfl (fun k hk => ?_); cases k <;> first | exact trivial | exact rfl | exact ⟨rfl, rfl⟩ | exact ⟨rfl, rfl, rfl⟩ | exact (Fits.not hK hk rfl).elim) | with_reducible apply Only.ite | with_reducible apply Ends.ite | dsimp only | split | (with_reducible refine Only.foldl _ _ (fun t a ht => ?_) ?_) | (with_reducible refine Only.foldl_fst _ _ _ (fun t a ht => ?_) ?_) | (with_reducible refine Only.fst (by with_reducible assumption) ?_) | (with_reducible refine Only.snd (by with_reducible assumption) ?_)

theorem State.sampleOffer_only {K : List Part} {F : FieldId → Prop} {P : PlotId → Prop} {s0 : State} (s : State) (f : FieldId) (p : PlotId) (x : Sample) (hK : Fits ([.events, .reg Reg.INJ_ARITH.ARM, .reg Reg.INJ_ARITH.DONE, .samples, .drift] : List Part) K) (hF : F f) (hP : P p)
    (ho : Only K F P s0 s) : Only K F P s0 (State.sampleOffer s f p x) := by
  unfold State.sampleOffer
  repeat' first | with_reducible assumption | exact Fits.trans (by decide +kernel) hK | exact hF | exact hP | with_reducible apply State.driftReport_only | with_reducible apply State.injArithFire_only | with_reducible apply State.updPlot_only | (refine fun (X : Plot) => ?_) | with_reducible apply PlotOnly.setReg | with_reducible exact PlotOnly.refl _ _ | with_reducible apply PlotOnly.ite | (refine PlotOnly.keep rfl (fun k hk => ?_); cases k <;> first | exact trivial | exact rfl | exact ⟨rfl, rfl⟩ | exact ⟨rfl, rfl, rfl⟩ | exact (Fits.not hK hk rfl).elim) | with_reducible apply Only.ite | dsimp only | split | (with_reducible refine Only.fst (by with_reducible assumption) ?_) | (with_reducible refine Only.snd (by with_reducible assumption) ?_)

theorem State.sampleVisit_only {K : List Part} {F : FieldId → Prop} {P : PlotId → Prop} {s0 : State} (s : State) (f : FieldId) (p : PlotId) (k : Nat) (x : Sample) (hK : Fits ([.events, .reg Reg.INJ_ARITH.ARM, .reg Reg.INJ_ARITH.DONE, .samples, .drift] : List Part) K) (hF : F f) (hP : P p)
    (ho : Only K F P s0 s) : Only K F P s0 (State.sampleVisit s f p k x) := by
  unfold State.sampleVisit
  repeat' first | with_reducible assumption | exact Fits.trans (by decide +kernel) hK | exact hF | exact hP | with_reducible apply State.updPlot_only | with_reducible apply State.sampleOffer_only | (refine fun (X : Plot) => ?_) | with_reducible apply PlotOnly.setReg | with_reducible exact PlotOnly.refl _ _ | with_reducible apply PlotOnly.ite | (refine PlotOnly.keep rfl (fun k hk => ?_); cases k <;> first | exact trivial | exact rfl | exact ⟨rfl, rfl⟩ | exact ⟨rfl, rfl, rfl⟩ | exact (Fits.not hK hk rfl).elim) | with_reducible apply Only.ite | dsimp only | split | (with_reducible refine Only.fst (by with_reducible assumption) ?_) | (with_reducible refine Only.snd (by with_reducible assumption) ?_)

theorem State.passColumn_only {K : List Part} {F : FieldId → Prop} {P : PlotId → Prop} {s0 : State} (s : State) (f : FieldId) (p : PlotId) (t row c : Nat) (ow nonsat : Bool) (res : Nat) (hK : Fits ([.events, .bin, .binErr, .reg Reg.INJ_ARITH.ARM, .reg Reg.INJ_ARITH.DONE, .counts, .health] : List Part) K) (hF : F f)
    (ho : Only K F P s0 s) : Only K F P s0 (State.passColumn s f p t row c ow nonsat res).1 := by
  unfold State.passColumn
  repeat' first | with_reducible assumption | exact Fits.trans (by decide +kernel) hK | exact hF | with_reducible apply State.binWrite_only | with_reducible apply State.binReadRaw_only | with_reducible apply Only.ite | dsimp only | split | (with_reducible refine Only.fst (by with_reducible assumption) ?_) | (with_reducible refine Only.snd (by with_reducible assumption) ?_)

theorem State.captureMismatch_only {K : List Part} {F : FieldId → Prop} {P : PlotId → Prop} {s0 : State} (s : State) (f : FieldId) (p : PlotId) (t row tag passNo : Nat) (injected bounded : Bool) (hK : Fits ([.plotReg Reg.PLT_WITNESS_LOG.BIN_ROW, .plotReg Reg.PLT_WITNESS_LOG.BOUNDED, .plotReg Reg.PLT_WITNESS_LOG.COUNT, .plotReg Reg.PLT_WITNESS_LOG.INJECTED, .plotReg Reg.PLT_WITNESS_LOG.LAYER_TAG, .plotReg Reg.PLT_WITNESS_LOG.TINE, .plotReg Reg.PLT_WITNESS_LOG.VALID, .plotReg Reg.PLT_WITNESS_PASS.PASS] : List Part) K) (hF : F f) (hP : P p)
    (ho : Only K F P s0 s) : Only K F P s0 (State.captureMismatch s f p t row tag passNo injected bounded) := by
  unfold State.captureMismatch
  repeat' first | with_reducible assumption | exact Fits.trans (by decide +kernel) hK | exact hF | exact hP | with_reducible apply State.pcount_only | with_reducible apply State.pset_only | with_reducible apply Only.ite | dsimp only | split | (with_reducible refine Only.fst (by with_reducible assumption) ?_) | (with_reducible refine Only.snd (by with_reducible assumption) ?_)

theorem State.rowOutcome_only {K : List Part} {F : FieldId → Prop} {P : PlotId → Prop} {s0 : State} (s : State) (f : FieldId) (p : PlotId) (t row tag passNo : Nat) (w : WitOutcome) (injected bounded : Bool) (hK : Fits ([.events, .plotReg Reg.PLT_WITNESS_LOG.BIN_ROW, .plotReg Reg.PLT_WITNESS_LOG.BOUNDED, .plotReg Reg.PLT_WITNESS_LOG.COUNT, .plotReg Reg.PLT_WITNESS_LOG.INJECTED, .plotReg Reg.PLT_WITNESS_LOG.LAYER_TAG, .plotReg Reg.PLT_WITNESS_LOG.SKIPPED, .plotReg Reg.PLT_WITNESS_LOG.TINE, .plotReg Reg.PLT_WITNESS_LOG.VALID, .plotReg Reg.PLT_WITNESS_PASS.PASS, .drift] : List Part) K) (hF : F f) (hP : P p)
    (ho : Only K F P s0 s) : Only K F P s0 (State.rowOutcome s f p t row tag passNo w injected bounded) := by
  unfold State.rowOutcome
  repeat' first | with_reducible assumption | exact Fits.trans (by decide +kernel) hK | exact hF | exact hP | with_reducible apply State.driftReport_only | with_reducible apply State.captureMismatch_only | with_reducible apply State.pcount_only | with_reducible apply Only.ite | dsimp only | split | (with_reducible refine Only.fst (by with_reducible assumption) ?_) | (with_reducible refine Only.snd (by with_reducible assumption) ?_)

theorem passColumns_only {K : List Part} {F : FieldId → Prop} {P : PlotId → Prop} {s0 : State} (x : PassCtx) (t row : Nat) (am : List Nat) (hit : Option Nat)
    (a : PassAcc) (c : Nat) (l : List (Nat × Cls))
    (hK : Fits ([.events, .bin, .binErr, .reg Reg.INJ_ARITH.ARM, .reg Reg.INJ_ARITH.DONE, .samples, .drift, .counts, .health] : List Part) K) (hF : F x.f) (hP : P x.p) (ho : Only K F P s0 a.s) :
    Only K F P s0 (passColumns x t row am hit a c l).s := by
  induction l generalizing a c with
  | nil => exact ho
  | cons e rest ih =>
    obtain ⟨res, k⟩ := e
    rw [passColumns]
    split
    rename_i s1 kb hs
    apply ih
    have h1 : Only K F P s0 s1 := Only.fst hs (by apply State.passColumn_only; exacts [Fits.trans (by decide +kernel) hK, hF, ho])
    split <;> dsimp only <;> split <;> first
      | exact (by apply State.sampleVisit_only; exacts [Fits.trans (by decide +kernel) hK, hF, hP, h1])
      | exact h1

theorem passRowStep_only {K : List Part} {F : FieldId → Prop} {P : PlotId → Prop} {s0 : State} (x : PassCtx) (a : PassAcc) (i : Nat)
    (hK : Fits (([.events, .bin, .storeErr, .binErr, .reg Reg.INJ_ARITH.ARM, .reg Reg.INJ_ARITH.DONE, .reg Reg.INJ_PT.ARM, .reg Reg.INJ_PT.DONE, .samples, .plotReg Reg.PLT_STORE_ECC.CORRECTED, .plotReg Reg.PLT_STORE_ECC.LAST_ADDR, .plotReg Reg.PLT_STORE_ECC.UNCORRECTED, .plotReg Reg.PLT_WITNESS_LOG.BIN_ROW, .plotReg Reg.PLT_WITNESS_LOG.BOUNDED, .plotReg Reg.PLT_WITNESS_LOG.COUNT, .plotReg Reg.PLT_WITNESS_LOG.INJECTED] : List Part) ++ ([.plotReg Reg.PLT_WITNESS_LOG.LAYER_TAG, .plotReg Reg.PLT_WITNESS_LOG.SKIPPED, .plotReg Reg.PLT_WITNESS_LOG.TINE, .plotReg Reg.PLT_WITNESS_LOG.VALID, .plotReg Reg.PLT_WITNESS_PASS.PASS, .drift, .counts, .health] : List Part)) K) (hF : F x.f) (hP : P x.p) (ho : Only K F P s0 a.s) :
    Only K F P s0 (passRowStep x a i).s := by
  unfold passRowStep
  extract_lets
  split
  rename_i s1 o bad hs
  apply State.rowOutcome_only; exacts [Fits.trans (by decide +kernel) hK, hF, hP, passColumns_only x _ _ _ _ _ _ _ (Fits.trans (by decide +kernel) hK) hF hP
      (Only.fst hs (by apply State.readOperand_only; exacts [Fits.trans (by decide +kernel) hK, hF, hP, ho]))]

theorem foldl_passRowStep_only {K : List Part} {F : FieldId → Prop} {P : PlotId → Prop} {s0 : State} (x : PassCtx) (l : List Nat) (a : PassAcc)
    (hK : Fits (([.events, .bin, .storeErr, .binErr, .reg Reg.INJ_ARITH.ARM, .reg Reg.INJ_ARITH.DONE, .reg Reg.INJ_PT.ARM, .reg Reg.INJ_PT.DONE, .samples, .plotReg Reg.PLT_STORE_ECC.CORRECTED, .plotReg Reg.PLT_STORE_ECC.LAST_ADDR, .plotReg Reg.PLT_STORE_ECC.UNCORRECTED, .plotReg Reg.PLT_WITNESS_LOG.BIN_ROW, .plotReg Reg.PLT_WITNESS_LOG.BOUNDED, .plotReg Reg.PLT_WITNESS_LOG.COUNT, .plotReg Reg.PLT_WITNESS_LOG.INJECTED] : List Part) ++ ([.plotReg Reg.PLT_WITNESS_LOG.LAYER_TAG, .plotReg Reg.PLT_WITNESS_LOG.SKIPPED, .plotReg Reg.PLT_WITNESS_LOG.TINE, .plotReg Reg.PLT_WITNESS_LOG.VALID, .plotReg Reg.PLT_WITNESS_PASS.PASS, .drift, .counts, .health] : List Part)) K) (hF : F x.f) (hP : P x.p) (ho : Only K F P s0 a.s) :
    Only K F P s0 (l.foldl (passRowStep x) a).s := by
  induction l generalizing a with
  | nil => exact ho
  | cons i l ih => exact ih _ (passRowStep_only x a i hK hF hP ho)

theorem State.passRun_only {K : List Part} {F : FieldId → Prop} {P : PlotId → Prop} {s0 : State} (s : State) (f : FieldId) (p : PlotId) (e : QEntry) (d md : Nat) (hK : Fits (([.events, .bin, .storeErr, .binErr, .reg Reg.INJ_ARITH.ARM, .reg Reg.INJ_ARITH.DONE, .reg Reg.INJ_PT.ARM, .reg Reg.INJ_PT.DONE, .queue, .tine, .samples, .plotReg Reg.PLT_CLASS_HI.TERN_RESERVED, .plotReg Reg.PLT_CLASS_HI.UNDERFLOW, .plotReg Reg.PLT_CLASS_LO.INF_IN, .plotReg Reg.PLT_CLASS_LO.NAN_IN, .plotReg Reg.PLT_CLASS_LO.SAT_BLOCK] : List Part) ++ ([.plotReg Reg.PLT_CLASS_LO.SAT_RANGE, .plotReg Reg.PLT_STORE_ECC.CORRECTED, .plotReg Reg.PLT_STORE_ECC.LAST_ADDR, .plotReg Reg.PLT_STORE_ECC.UNCORRECTED, .plotReg Reg.PLT_TINE_COUNT.ROWS, .plotReg Reg.PLT_WITNESS_LOG.BIN_ROW, .plotReg Reg.PLT_WITNESS_LOG.BOUNDED, .plotReg Reg.PLT_WITNESS_LOG.COUNT, .plotReg Reg.PLT_WITNESS_LOG.INJECTED, .plotReg Reg.PLT_WITNESS_LOG.LAYER_TAG, .plotReg Reg.PLT_WITNESS_LOG.SKIPPED, .plotReg Reg.PLT_WITNESS_LOG.TINE, .plotReg Reg.PLT_WITNESS_LOG.VALID, .plotReg Reg.PLT_WITNESS_PASS.PASS, .drift, .counts] : List Part) ++ ([.health] : List Part)) K) (hF : F f) (hP : P p)
    (ho : Only K F P s0 s) : Only K F P s0 (State.passRun s f p e d md) := by
  unfold State.passRun
  repeat' first | with_reducible assumption | exact Fits.trans (by decide +kernel) hK | exact hF | exact hP | with_reducible apply State.injArithFire_only | with_reducible apply State.updPlot_only | with_reducible apply State.classReports_only | with_reducible apply State.pwrap_only | with_reducible apply State.updEntry_only | (refine fun (X : Plot) => ?_) | with_reducible apply PlotOnly.setReg | with_reducible exact PlotOnly.refl _ _ | with_reducible apply PlotOnly.ite | (refine PlotOnly.keep rfl (fun k hk => ?_); cases k <;> first | exact trivial | exact rfl | exact ⟨rfl, rfl⟩ | exact ⟨rfl, rfl, rfl⟩ | exact (Fits.not hK hk rfl).elim) | with_reducible apply Only.ite | dsimp only | split | (with_reducible refine Only.foldl _ _ (fun t a ht => ?_) ?_) | (with_reducible refine Only.foldl_fst _ _ _ (fun t a ht => ?_) ?_) | (with_reducible refine Only.fst (by with_reducible assumption) ?_) | (with_reducible refine Only.snd (by with_reducible assumption) ?_) | (refine foldl_passRowStep_only _ _ _ ?_ ?_ ?_ ?_)

theorem State.tokenAsk_only {K : List Part} {F : FieldId → Prop} {P : PlotId → Prop} {s0 : State} (s : State) (f : FieldId) (p : PlotId) (start : Bool) (hK : Fits ([.thermal] : List Part) K) (hF : F f)
    (ho : Only K F P s0 s) : Only K F P s0 (State.tokenAsk s f p start) := by
  unfold State.tokenAsk
  repeat' first | with_reducible assumption | exact Fits.trans (by decide +kernel) hK | exact hF | with_reducible apply State.updField_only | (refine fun (X : Field) => ?_) | with_reducible apply FieldOnly.setReg | with_reducible exact FieldOnly.refl _ _ _ | with_reducible apply FieldOnly.updPlot | with_reducible apply FieldOnly.ite | (refine FieldOnly.keep rfl rfl (fun k hk => ?_); cases k <;> first | exact trivial | exact rfl | exact ⟨rfl, rfl⟩ | exact ⟨rfl, rfl, rfl⟩ | exact (Fits.not hK hk rfl).elim) | with_reducible apply Only.ite | dsimp only | split | (with_reducible refine Only.fst (by with_reducible assumption) ?_) | (with_reducible refine Only.snd (by with_reducible assumption) ?_)

theorem State.rowEntered_only {K : List Part} {F : FieldId → Prop} {P : PlotId → Prop} {s0 : State} (s : State) (f : FieldId) (p : PlotId) (hK : Fits ([.tine, .thermal] : List Part) K) (hF : F f) (hP : P p)
    (ho : Only K F P s0 s) : Only K F P s0 (State.rowEntered s f p) := by
  unfold State.rowEntered
  repeat' first | with_reducible assumption | exact Fits.trans (by decide +kernel) hK | exact hF | exact hP | with_reducible apply State.updField_only | with_reducible apply State.updPlot_only | (refine fun (X : Field) => ?_) | with_reducible apply FieldOnly.setReg | with_reducible exact FieldOnly.refl _ _ _ | with_reducible apply FieldOnly.updPlot | with_reducible apply FieldOnly.ite | (refine FieldOnly.keep rfl rfl (fun k hk => ?_); cases k <;> first | exact trivial | exact rfl | exact ⟨rfl, rfl⟩ | exact ⟨rfl, rfl, rfl⟩ | exact (Fits.not hK hk rfl).elim) | (refine fun (X : Plot) => ?_) | with_reducible apply PlotOnly.setReg | with_reducible exact PlotOnly.refl _ _ | with_reducible apply PlotOnly.ite | (refine PlotOnly.keep rfl (fun k hk => ?_); cases k <;> first | exact trivial | exact rfl | exact ⟨rfl, rfl⟩ | exact ⟨rfl, rfl, rfl⟩ | exact (Fits.not hK hk rfl).elim) | with_reducible apply Only.ite | dsimp only | split | (with_reducible refine Only.fst (by with_reducible assumption) ?_) | (with_reducible refine Only.snd (by with_reducible assumption) ?_)

theorem execTinePassStart_only {K : List Part} {F : FieldId → Prop} {P : PlotId → Prop} {s0 : State} (f : FieldId) (p : PlotId) (s : State) (hK : Fits (([.events, .bin, .storeErr, .binErr, .reg Reg.INJ_ARITH.ARM, .reg Reg.INJ_ARITH.DONE, .reg Reg.INJ_PT.ARM, .reg Reg.INJ_PT.DONE, .queue, .tine, .samples, .plotReg Reg.PLT_CLASS_HI.TERN_RESERVED, .plotReg Reg.PLT_CLASS_HI.UNDERFLOW, .plotReg Reg.PLT_CLASS_LO.INF_IN, .plotReg Reg.PLT_CLASS_LO.NAN_IN, .plotReg Reg.PLT_CLASS_LO.SAT_BLOCK] : List Part) ++ ([.plotReg Reg.PLT_CLASS_LO.SAT_RANGE, .plotReg Reg.PLT_QUEUE_STALL.CLAIM, .plotReg Reg.PLT_STORE_ECC.CORRECTED, .plotReg Reg.PLT_STORE_ECC.LAST_ADDR, .plotReg Reg.PLT_STORE_ECC.UNCORRECTED, .plotReg Reg.PLT_TINE_COUNT.ROWS, .plotReg Reg.PLT_TINE_STALL.BIN_WAIT, .plotReg Reg.PLT_TINE_STALL.LOAD_STALL, .plotReg Reg.PLT_WITNESS_LOG.BIN_ROW, .plotReg Reg.PLT_WITNESS_LOG.BOUNDED, .plotReg Reg.PLT_WITNESS_LOG.COUNT, .plotReg Reg.PLT_WITNESS_LOG.INJECTED, .plotReg Reg.PLT_WITNESS_LOG.LAYER_TAG, .plotReg Reg.PLT_WITNESS_LOG.SKIPPED, .plotReg Reg.PLT_WITNESS_LOG.TINE, .plotReg Reg.PLT_WITNESS_LOG.VALID] : List Part) ++ ([.plotReg Reg.PLT_WITNESS_PASS.PASS, .drift, .counts, .health, .thermal] : List Part)) K) (hF : F f) (hP : P p)
    (ho : Only K F P s0 s) : Ends K F P s0 (execTinePassStart f p s) := by
  unfold execTinePassStart
  repeat' first | with_reducible assumption | exact Fits.trans (by decide +kernel) hK | exact hF | exact hP | with_reducible apply Ends.clocked | with_reducible apply State.pwrap_only | with_reducible apply State.tokenAsk_only | with_reducible apply State.passRun_only | with_reducible apply State.rowEntered_only | with_reducible apply Ends.finish | with_reducible apply Ends.next | with_reducible apply Only.ite | with_reducible apply Ends.ite | dsimp only | split | (with_reducible refine Only.fst (by with_reducible assumption) ?_) | (with_reducible refine Only.snd (by with_reducible assumption) ?_)

theorem State.retirePoison_only {K : List Part} {F : FieldId → Prop} {P : PlotId → Prop} {s0 : State} (s : State) (f : FieldId) (p : PlotId) (e : QEntry) (clears : Bool) (hK : Fits ([.binErr] : List Part) K) (hF : F f)
    (ho : Only K F P s0 s) : Only K F P s0 (State.retirePoison s f p e clears) := by
  unfold State.retirePoison
  repeat' first | with_reducible assumption | exact Fits.trans (by decide +kernel) hK | exact hF | with_reducible apply State.setBinPoison_only | with_reducible apply Only.ite | dsimp only | split | (with_reducible refine Only.foldl _ _ (fun t a ht => ?_) ?_) | (with_reducible refine Only.foldl_fst _ _ _ (fun t a ht => ?_) ?_) | (with_reducible refine Only.fst (by with_reducible assumption) ?_) | (with_reducible refine Only.snd (by with_reducible assumption) ?_)

theorem State.injClassReport_only {K : List Part} {F : FieldId → Prop} {P : PlotId → Prop} {s0 : State} (s : State) (f : FieldId) (p : PlotId) (e : QEntry) (hK : Fits ([.events, .plotReg Reg.PLT_CLASS_HI.TERN_RESERVED, .plotReg Reg.PLT_CLASS_HI.UNDERFLOW, .plotReg Reg.PLT_CLASS_LO.INF_IN, .plotReg Reg.PLT_CLASS_LO.NAN_IN, .plotReg Reg.PLT_CLASS_LO.SAT_BLOCK, .plotReg Reg.PLT_CLASS_LO.SAT_RANGE, .drift] : List Part) K) (hF : F f) (hP : P p)
    (ho : Only K F P s0 s) : Only K F P s0 (State.injClassReport s f p e).1 := by
  unfold State.injClassReport
  repeat' first | with_reducible assumption | exact Fits.trans (by decide +kernel) hK | exact hF | exact hP | with_reducible apply State.classReport_only | with_reducible apply Only.ite | dsimp only | split | (with_reducible refine Only.fst (by with_reducible assumption) ?_) | (with_reducible refine Only.snd (by with_reducible assumption) ?_)

theorem State.mismatchEvent_only {K : List Part} {F : FieldId → Prop} {P : PlotId → Prop} {s0 : State} (s : State) (f : FieldId) (p : PlotId) (e : QEntry) (d : Nat) (bounded : Bool) (hK : Fits ([.events, .counts, .hard] : List Part) K) (hF : F f)
    (ho : Only K F P s0 s) : Only K F P s0 (State.mismatchEvent s f p e d bounded) := by
  unfold State.mismatchEvent
  repeat' first | with_reducible assumption | exact Fits.trans (by decide +kernel) hK | exact hF | with_reducible apply State.raise_only | with_reducible apply State.hardEvent_only | with_reducible apply State.updField_only | (refine fun (X : Field) => ?_) | with_reducible apply FieldOnly.setReg | with_reducible exact FieldOnly.refl _ _ _ | with_reducible apply FieldOnly.updPlot | with_reducible apply FieldOnly.ite | (refine FieldOnly.keep rfl rfl (fun k hk => ?_); cases k <;> first | exact trivial | exact rfl | exact ⟨rfl, rfl⟩ | exact ⟨rfl, rfl, rfl⟩ | exact (Fits.not hK hk rfl).elim) | with_reducible apply Only.ite | dsimp only | split | (with_reducible refine Only.fst (by with_reducible assumption) ?_) | (with_reducible refine Only.snd (by with_reducible assumption) ?_)

theorem execTinePassRetire_only {K : List Part} {F : FieldId → Prop} {P : PlotId → Prop} {s0 : State} (f : FieldId) (p : PlotId) (s : State) (hK : Fits (([.events, .binErr, .queue, .cq, .plotReg Reg.PLT_CLASS_HI.TERN_RESERVED, .plotReg Reg.PLT_CLASS_HI.UNDERFLOW, .plotReg Reg.PLT_CLASS_LO.INF_IN, .plotReg Reg.PLT_CLASS_LO.NAN_IN, .plotReg Reg.PLT_CLASS_LO.SAT_BLOCK, .plotReg Reg.PLT_CLASS_LO.SAT_RANGE, .plotReg Reg.PLT_CQ_STATUS.LOST, .plotReg Reg.PLT_CQ_STATUS.OVERFLOW, .plotReg Reg.PLT_CQ_SUMMARY.CLASS_SEEN, .plotReg Reg.PLT_CQ_SUMMARY.ERR, .plotReg Reg.PLT_CQ_SUMMARY.ERR_QSN, .plotReg Reg.PLT_CQ_SUMMARY.ERR_STATUS] : List Part) ++ ([.plotReg Reg.PLT_TINE_COUNT.PASSES, .drift, .counts, .hard] : List Part)) K) (hF : F f) (hP : P p)
    (ho : Only K F P s0 s) : Ends K F P s0 (execTinePassRetire f p s) := by
  unfold execTinePassRetire
  repeat' first | with_reducible assumption | exact Fits.trans (by decide +kernel) hK | exact hF | exact hP | with_reducible apply Ends.clocked | with_reducible apply State.retirePoison_only | with_reducible apply State.pwrap_only | with_reducible apply State.mismatchEvent_only | with_reducible apply State.injClassReport_only | with_reducible apply State.complete_only | with_reducible apply Ends.finish | with_reducible apply Ends.next | with_reducible apply Only.ite | with_reducible apply Ends.ite | dsimp only | split | (with_reducible refine Only.fst (by with_reducible assumption) ?_) | (with_reducible refine Only.snd (by with_reducible assumption) ?_)

theorem State.zeroRows_only {K : List Part} {F : FieldId → Prop} {P : PlotId → Prop} {s0 : State} (s : State) (f : FieldId) (p : PlotId) (d md : Nat) (hK : Fits ([.bin, .binErr, .reg Reg.INJ_ARITH.ARM, .reg Reg.INJ_ARITH.DONE] : List Part) K) (hF : F f)
    (ho : Only K F P s0 s) : Only K F P s0 (State.zeroRows s f p d md) := by
  unfold State.zeroRows
  repeat' first | with_reducible assumption | exact Fits.trans (by decide +kernel) hK | exact hF | with_reducible apply State.binWrite_only | with_reducible apply State.setBinPoison_only | with_reducible apply Only.ite | dsimp only | split | (with_reducible refine Only.foldl _ _ (fun t a ht => ?_) ?_) | (with_reducible refine Only.foldl_fst _ _ _ (fun t a ht => ?_) ?_) | (with_reducible refine Only.fst (by with_reducible assumption) ?_) | (with_reducible refine Only.snd (by with_reducible assumption) ?_)

theorem execDegenerateRetire_only {K : List Part} {F : FieldId → Prop} {P : PlotId → Prop} {s0 : State} (f : FieldId) (p : PlotId) (s : State) (hK : Fits (([.events, .bin, .binErr, .reg Reg.INJ_ARITH.ARM, .reg Reg.INJ_ARITH.DONE, .queue, .cq, .plotReg Reg.PLT_CLASS_HI.TERN_RESERVED, .plotReg Reg.PLT_CLASS_HI.UNDERFLOW, .plotReg Reg.PLT_CLASS_LO.INF_IN, .plotReg Reg.PLT_CLASS_LO.NAN_IN, .plotReg Reg.PLT_CLASS_LO.SAT_BLOCK, .plotReg Reg.PLT_CLASS_LO.SAT_RANGE, .plotReg Reg.PLT_CQ_STATUS.LOST, .plotReg Reg.PLT_CQ_STATUS.OVERFLOW, .plotReg Reg.PLT_CQ_SUMMARY.CLASS_SEEN] : List Part) ++ ([.plotReg Reg.PLT_CQ_SUMMARY.ERR, .plotReg Reg.PLT_CQ_SUMMARY.ERR_QSN, .plotReg Reg.PLT_CQ_SUMMARY.ERR_STATUS, .plotReg Reg.PLT_TINE_COUNT.PASSES, .plotReg Reg.PLT_TINE_STALL.BIN_WAIT, .drift] : List Part)) K) (hF : F f) (hP : P p)
    (ho : Only K F P s0 s) : Ends K F P s0 (execDegenerateRetire f p s) := by
  unfold execDegenerateRetire
  repeat' first | with_reducible assumption | exact Fits.trans (by decide +kernel) hK | exact hF | exact hP | with_reducible apply Ends.clocked | with_reducible apply State.pwrap_only | with_reducible apply State.zeroRows_only | with_reducible apply State.injClassReport_only | with_reducible apply State.complete_only | with_reducible apply Ends.finish | with_reducible apply Ends.next | with_reducible apply Only.ite | with_reducible apply Ends.ite | dsimp only | split | (with_reducible refine Only.fst (by with_reducible assumption) ?_) | (with_reducible refine Only.snd (by with_reducible assumption) ?_)

theorem State.sampleCount_only {K : List Part} {F : FieldId → Prop} {P : PlotId → Prop} {s0 : State} (s : State) (f : FieldId) (x : Sample) (hK : Fits ([.events, .drift] : List Part) K) (hF : F f)
    (ho : Only K F P s0 s) : Only K F P s0 (State.sampleCount s f x) := by
  unfold State.sampleCount
  repeat' first | with_reducible assumption | exact Fits.trans (by decide +kernel) hK | exact hF | with_reducible apply State.driftReport_only | with_reducible apply State.raise_only | with_reducible apply Only.ite | dsimp only | split | (with_reducible refine Only.fst (by with_reducible assumption) ?_) | (with_reducible refine Only.snd (by with_reducible assumption) ?_)

theorem execSampleProcess_only {K : List Part} {F : FieldId → Prop} {P : PlotId → Prop} {s0 : State} (f : FieldId) (p : PlotId) (s : State) (hK : Fits ([.events, .samples, .drift] : List Part) K) (hF : F f) (hP : P p)
    (ho : Only K F P s0 s) : Ends K F P s0 (execSampleProcess f p s) := by
  unfold execSampleProcess
  repeat' first | with_reducible assumption | exact Fits.trans (by decide +kernel) hK | exact hF | exact hP | with_reducible apply Ends.clocked | with_reducible apply State.sampleCount_only | with_reducible apply State.updPlot_only | with_reducible apply Ends.finish | with_reducible apply Ends.next | (refine fun (X : Plot) => ?_) | with_reducible apply PlotOnly.setReg | with_reducible exact PlotOnly.refl _ _ | with_reducible apply PlotOnly.ite | (refine PlotOnly.keep rfl (fun k hk => ?_); cases k <;> first | exact trivial | exact rfl | exact ⟨rfl, rfl⟩ | exact ⟨rfl, rfl, rfl⟩ | exact (Fits.not hK hk rfl).elim) | with_reducible apply Only.ite | with_reducible apply Ends.ite | dsimp only | split | (with_reducible refine Only.fst (by with_reducible assumption) ?_) | (with_reducible refine Only.snd (by with_reducible assumption) ?_)

theorem State.injArithArm_only {K : List Part} {F : FieldId → Prop} {P : PlotId → Prop} {s0 : State} (s : State) (f : FieldId) (hK : Fits ([.reg Reg.INJ_ARITH.ARM, .reg Reg.INJ_ARITH.NOFIRE] : List Part) K) (hF : F f)
    (ho : Only K F P s0 s) : Only K F P s0 (State.injArithArm s f) := by
  unfold State.injArithArm
  repeat' first | with_reducible assumption | exact Fits.trans (by decide +kernel) hK | exact hF | with_reducible apply State.fset_only | with_reducible apply Only.ite | dsimp only | split | (with_reducible refine Only.fst (by with_reducible assumption) ?_) | (with_reducible refine Only.snd (by with_reducible assumption) ?_)

theorem State.injArithWrite_only {K : List Part} {F : FieldId → Prop} {P : PlotId → Prop} {s0 : State} (s : State) (f : FieldId) (point plot tine column b lane : Nat) (hK : Fits ([.reg Reg.INJ_ARITH.ARM, .reg Reg.INJ_ARITH.BIT, .reg Reg.INJ_ARITH.COLUMN, .reg Reg.INJ_ARITH.LANE, .reg Reg.INJ_ARITH.NOFIRE, .reg Reg.INJ_ARITH.PLOT, .reg Reg.INJ_ARITH.POINT, .reg Reg.INJ_ARITH.TINE] : List Part) K) (hF : F f)
    (ho : Only K F P s0 s) : Only K F P s0 (State.injArithWrite s f point plot tine column b lane) := by
  unfold State.injArithWrite
  repeat' first | with_reducible assumption | exact Fits.trans (by decide +kernel) hK | exact hF | with_reducible apply State.fset_only | with_reducible apply State.injArithArm_only | with_reducible apply Only.ite | dsimp only | split | (with_reducible refine Only.fst (by with_reducible assumption) ?_) | (with_reducible refine Only.snd (by with_reducible assumption) ?_)

theorem execInjWitnessLane_only {K : List Part} {F : FieldId → Prop} {P : PlotId → Prop} {s0 : State} (f : FieldId) (plot : PlotId) (tine : TineId) (column : Fin 32) (b : Fin 64) (lane : Bool) (s : State) (hK : Fits ([.reg Reg.INJ_ARITH.ARM, .reg Reg.INJ_ARITH.BIT, .reg Reg.INJ_ARITH.COLUMN, .reg Reg.INJ_ARITH.LANE, .reg Reg.INJ_ARITH.NOFIRE, .reg Reg.INJ_ARITH.PLOT, .reg Reg.INJ_ARITH.POINT, .reg Reg.INJ_ARITH.TINE] : List Part) K) (hF : F f)
    (ho : Only K F P s0 s) : Ends K F P s0 (execInjWitnessLane f plot tine column b lane s) := by
  unfold execInjWitnessLane
  repeat' first | with_reducible assumption | exact Fits.trans (by decide +kernel) hK | exact hF | with_reducible apply State.injArithWrite_only | with_reducible apply Ends.finish | with_reducible apply Ends.next | with_reducible apply Only.ite | with_reducible apply Ends.ite | dsimp only | split | (with_reducible refine Only.fst (by with_reducible assumption) ?_) | (with_reducible refine Only.snd (by with_reducible assumption) ?_)

theorem execInjWitnessWeight_only {K : List Part} {F : FieldId → Prop} {P : PlotId → Prop} {s0 : State} (f : FieldId) (plot : PlotId) (tine : TineId) (column : Fin 32) (b : Fin 64) (lane : Bool) (s : State) (hK : Fits ([.reg Reg.INJ_ARITH.ARM, .reg Reg.INJ_ARITH.BIT, .reg Reg.INJ_ARITH.COLUMN, .reg Reg.INJ_ARITH.LANE, .reg Reg.INJ_ARITH.NOFIRE, .reg Reg.INJ_ARITH.PLOT, .reg Reg.INJ_ARITH.POINT, .reg Reg.INJ_ARITH.TINE] : List Part) K) (hF : F f)
    (ho : Only K F P s0 s) : Ends K F P s0 (execInjWitnessWeight f plot tine column b lane s) := by
  unfold execInjWitnessWeight
  repeat' first | with_reducible assumption | exact Fits.trans (by decide +kernel) hK | exact hF | with_reducible apply State.injArithWrite_only | with_reducible apply Ends.finish | with_reducible apply Ends.next | with_reducible apply Only.ite | with_reducible apply Ends.ite | dsimp only | split | (with_reducible refine Only.fst (by with_reducible assumption) ?_) | (with_reducible refine Only.snd (by with_reducible assumption) ?_)

theorem execInjScarecrowBias_only {K : List Part} {F : FieldId → Prop} {P : PlotId → Prop} {s0 : State} (f : FieldId) (plot : PlotId) (tine : TineId) (column : Fin 32) (b : Fin 64) (lane : Bool) (s : State) (hK : Fits ([.reg Reg.INJ_ARITH.ARM, .reg Reg.INJ_ARITH.BIT, .reg Reg.INJ_ARITH.COLUMN, .reg Reg.INJ_ARITH.LANE, .reg Reg.INJ_ARITH.NOFIRE, .reg Reg.INJ_ARITH.PLOT, .reg Reg.INJ_ARITH.POINT, .reg Reg.INJ_ARITH.TINE] : List Part) K) (hF : F f)
    (ho : Only K F P s0 s) : Ends K F P s0 (execInjScarecrowBias f plot tine column b lane s) := by
  unfold execInjScarecrowBias
  repeat' first | with_reducible assumption | exact Fits.trans (by decide +kernel) hK | exact hF | with_reducible apply State.injArithWrite_only | with_reducible apply Ends.finish | with_reducible apply Ends.next | with_reducible apply Only.ite | with_reducible apply Ends.ite | dsimp only | split | (with_reducible refine Only.fst (by with_reducible assumption) ?_) | (with_reducible refine Only.snd (by with_reducible assumption) ?_)

theorem execInjBinSingle_only {K : List Part} {F : FieldId → Prop} {P : PlotId → Prop} {s0 : State} (f : FieldId) (plot : PlotId) (tine : TineId) (column : Fin 32) (b : Fin 64) (lane : Bool) (s : State) (hK : Fits ([.reg Reg.INJ_ARITH.ARM, .reg Reg.INJ_ARITH.BIT, .reg Reg.INJ_ARITH.COLUMN, .reg Reg.INJ_ARITH.LANE, .reg Reg.INJ_ARITH.NOFIRE, .reg Reg.INJ_ARITH.PLOT, .reg Reg.INJ_ARITH.POINT, .reg Reg.INJ_ARITH.TINE] : List Part) K) (hF : F f)
    (ho : Only K F P s0 s) : Ends K F P s0 (execInjBinSingle f plot tine column b lane s) := by
  unfold execInjBinSingle
  repeat' first | with_reducible assumption | exact Fits.trans (by decide +kernel) hK | exact hF | with_reducible apply State.injArithWrite_only | with_reducible apply Ends.finish | with_reducible apply Ends.next | with_reducible apply Only.ite | with_reducible apply Ends.ite | dsimp only | split | (with_reducible refine Only.fst (by with_reducible assumption) ?_) | (with_reducible refine Only.snd (by with_reducible assumption) ?_)

theorem execInjBinDouble_only {K : List Part} {F : FieldId → Prop} {P : PlotId → Prop} {s0 : State} (f : FieldId) (plot : PlotId) (tine : TineId) (column : Fin 32) (b : Fin 64) (lane : Bool) (s : State) (hK : Fits ([.reg Reg.INJ_ARITH.ARM, .reg Reg.INJ_ARITH.BIT, .reg Reg.INJ_ARITH.COLUMN, .reg Reg.INJ_ARITH.LANE, .reg Reg.INJ_ARITH.NOFIRE, .reg Reg.INJ_ARITH.PLOT, .reg Reg.INJ_ARITH.POINT, .reg Reg.INJ_ARITH.TINE] : List Part) K) (hF : F f)
    (ho : Only K F P s0 s) : Ends K F P s0 (execInjBinDouble f plot tine column b lane s) := by
  unfold execInjBinDouble
  repeat' first | with_reducible assumption | exact Fits.trans (by decide +kernel) hK | exact hF | with_reducible apply State.injArithWrite_only | with_reducible apply Ends.finish | with_reducible apply Ends.next | with_reducible apply Only.ite | with_reducible apply Ends.ite | dsimp only | split | (with_reducible refine Only.fst (by with_reducible assumption) ?_) | (with_reducible refine Only.snd (by with_reducible assumption) ?_)

theorem execInjClassReport_only {K : List Part} {F : FieldId → Prop} {P : PlotId → Prop} {s0 : State} (f : FieldId) (plot : PlotId) (tine : TineId) (column : Fin 32) (b : Fin 64) (lane : Bool) (s : State) (hK : Fits ([.reg Reg.INJ_ARITH.ARM, .reg Reg.INJ_ARITH.BIT, .reg Reg.INJ_ARITH.COLUMN, .reg Reg.INJ_ARITH.LANE, .reg Reg.INJ_ARITH.NOFIRE, .reg Reg.INJ_ARITH.PLOT, .reg Reg.INJ_ARITH.POINT, .reg Reg.INJ_ARITH.TINE] : List Part) K) (hF : F f)
    (ho : Only K F P s0 s) : Ends K F P s0 (execInjClassReport f plot tine column b lane s) := by
  unfold execInjClassReport
  repeat' first | with_reducible assumption | exact Fits.trans (by decide +kernel) hK | exact hF | with_reducible apply State.injArithWrite_only | with_reducible apply Ends.finish | with_reducible apply Ends.next | with_reducible apply Only.ite | with_reducible apply Ends.ite | dsimp only | split | (with_reducible refine Only.fst (by with_reducible assumption) ?_) | (with_reducible refine Only.snd (by with_reducible assumption) ?_)

end Sys2Proof.Machine
end

