-- ==== Sys2Proof/Laws/Touch/Vector.lean ====
section
/-! SUPPORT. What each operation of Machine/Vector.lean can change: the parts named, and nothing else. -/

namespace Sys2Proof.Machine

set_option Elab.async false

open Sys2Proof

theorem State.binReadRun_only {K : List Part} {F : FieldId → Prop} {P : PlotId → Prop} {s0 : State} (s : State) (f : FieldId) (p : PlotId) (a fuel : Nat) (hK : Fits ([.events, .binErr, .counts, .health] : List Part) K) (hF : F f)
    (ho : Only K F P s0 s) : Only K F P s0 (State.binReadRun s f p a fuel).1 := by
  induction fuel generalizing s a with
  | zero => simp only [State.binReadRun]; (repeat' first | with_reducible assumption | exact Fits.trans (by decide +kernel) hK | exact hF | with_reducible apply State.binReadRaw_only | with_reducible apply Only.ite | dsimp only | split | (with_reducible refine Only.fst (by with_reducible assumption) ?_) | (with_reducible refine Only.snd (by with_reducible assumption) ?_))
  | succ fuel ih => simp only [State.binReadRun]; (repeat' first | with_reducible assumption | with_reducible apply ih | with_reducible assumption | exact Fits.trans (by decide +kernel) hK | exact hF | with_reducible apply State.binReadRaw_only | with_reducible apply Only.ite | dsimp only | split | (with_reducible refine Only.fst (by with_reducible assumption) ?_) | (with_reducible refine Only.snd (by with_reducible assumption) ?_))

theorem State.vecRead_only {K : List Part} {F : FieldId → Prop} {P : PlotId → Prop} {s0 : State} (s : State) (f : FieldId) (p : PlotId) (base w j0 n : Nat) (hK : Fits ([.events, .storeErr, .binErr, .reg Reg.INJ_PT.ARM, .reg Reg.INJ_PT.DONE, .plotReg Reg.PLT_STORE_ECC.CORRECTED, .plotReg Reg.PLT_STORE_ECC.LAST_ADDR, .plotReg Reg.PLT_STORE_ECC.UNCORRECTED, .counts, .health] : List Part) K) (hF : F f) (hP : P p)
    (ho : Only K F P s0 s) : Only K F P s0 (State.vecRead s f p base w j0 n).1 := by
  unfold State.vecRead
  repeat' first | with_reducible assumption | exact Fits.trans (by decide +kernel) hK | exact hF | exact hP | with_reducible apply State.storeRead_only | with_reducible apply State.binReadRun_only | with_reducible apply Only.ite | dsimp only | split | (with_reducible refine Only.fst (by with_reducible assumption) ?_) | (with_reducible refine Only.snd (by with_reducible assumption) ?_)

theorem State.binWriteRun_only {K : List Part} {F : FieldId → Prop} {P : PlotId → Prop} {s0 : State} (s : State) (f : FieldId) (p : PlotId) (a : Nat) (fuel : List Nat) (hK : Fits ([.bin, .binErr, .reg Reg.INJ_ARITH.ARM, .reg Reg.INJ_ARITH.DONE] : List Part) K) (hF : F f)
    (ho : Only K F P s0 s) : Only K F P s0 (State.binWriteRun s f p a fuel) := by
  induction fuel generalizing s a with
  | nil => simp only [State.binWriteRun]; (repeat' first | with_reducible assumption | exact Fits.trans (by decide +kernel) hK | exact hF | with_reducible apply State.binWrite_only | with_reducible apply Only.ite | dsimp only | split | (with_reducible refine Only.fst (by with_reducible assumption) ?_) | (with_reducible refine Only.snd (by with_reducible assumption) ?_))
  | cons x fuel ih => simp only [State.binWriteRun]; (repeat' first | with_reducible assumption | with_reducible apply ih | with_reducible assumption | exact Fits.trans (by decide +kernel) hK | exact hF | with_reducible apply State.binWrite_only | with_reducible apply Only.ite | dsimp only | split | (with_reducible refine Only.fst (by with_reducible assumption) ?_) | (with_reducible refine Only.snd (by with_reducible assumption) ?_))

theorem State.vecWrite_only {K : List Part} {F : FieldId → Prop} {P : PlotId → Prop} {s0 : State} (s : State) (f : FieldId) (p : PlotId) (base w j0 : Nat) (codes : List Nat) (dep : List Bool) (hK : Fits ([.events, .store, .bin, .storeErr, .binErr, .reg Reg.INJ_ARITH.ARM, .reg Reg.INJ_ARITH.DONE, .plotReg Reg.PLT_STORE_ECC.CORRECTED, .plotReg Reg.PLT_STORE_ECC.LAST_ADDR, .plotReg Reg.PLT_STORE_ECC.UNCORRECTED, .health] : List Part) K) (hF : F f) (hP : P p)
    (ho : Only K F P s0 s) : Only K F P s0 (State.vecWrite s f p base w j0 codes dep) := by
  unfold State.vecWrite
  repeat' first | with_reducible assumption | exact Fits.trans (by decide +kernel) hK | exact hF | exact hP | with_reducible apply State.storeWrite_only | with_reducible apply State.storePoison_only | with_reducible apply State.binWriteRun_only | with_reducible apply State.setBinPoison_only | with_reducible apply Only.ite | dsimp only | split | (with_reducible refine Only.foldl _ _ (fun t a ht => ?_) ?_) | (with_reducible refine Only.foldl_fst _ _ _ (fun t a ht => ?_) ?_) | (with_reducible refine Only.fst (by with_reducible assumption) ?_) | (with_reducible refine Only.snd (by with_reducible assumption) ?_)

theorem State.sideWrite_only {K : List Part} {F : FieldId → Prop} {P : PlotId → Prop} {s0 : State} (s : State) (f : FieldId) (p : PlotId) (a : Nat) (bs : List Byte) (dep : List Bool) (hK : Fits ([.events, .store, .storeErr, .plotReg Reg.PLT_STORE_ECC.CORRECTED, .plotReg Reg.PLT_STORE_ECC.LAST_ADDR, .plotReg Reg.PLT_STORE_ECC.UNCORRECTED, .health] : List Part) K) (hF : F f) (hP : P p)
    (ho : Only K F P s0 s) : Only K F P s0 (State.sideWrite s f p a bs dep) := by
  unfold State.sideWrite
  repeat' first | with_reducible assumption | exact Fits.trans (by decide +kernel) hK | exact hF | exact hP | with_reducible apply State.storeWrite_only | with_reducible apply State.storePoison_only | with_reducible apply Only.ite | dsimp only | split | (with_reducible refine Only.foldl _ _ (fun t a ht => ?_) ?_) | (with_reducible refine Only.foldl_fst _ _ _ (fun t a ht => ?_) ?_) | (with_reducible refine Only.fst (by with_reducible assumption) ?_) | (with_reducible refine Only.snd (by with_reducible assumption) ?_)

theorem State.tvecWork_only {K : List Part} {F : FieldId → Prop} {P : PlotId → Prop} {s0 : State} (s : State) (f : FieldId) (p : PlotId) (e : QEntry) (d md : Nat) (hK : Fits (([.events, .store, .bin, .storeErr, .binErr, .reg Reg.INJ_ARITH.ARM, .reg Reg.INJ_ARITH.DONE, .reg Reg.INJ_PT.ARM, .reg Reg.INJ_PT.DONE, .plotReg Reg.PLT_CLASS_HI.TERN_RESERVED, .plotReg Reg.PLT_CLASS_HI.UNDERFLOW, .plotReg Reg.PLT_CLASS_LO.INF_IN, .plotReg Reg.PLT_CLASS_LO.NAN_IN, .plotReg Reg.PLT_CLASS_LO.SAT_BLOCK, .plotReg Reg.PLT_CLASS_LO.SAT_RANGE, .plotReg Reg.PLT_STORE_ECC.CORRECTED] : List Part) ++ ([.plotReg Reg.PLT_STORE_ECC.LAST_ADDR, .plotReg Reg.PLT_STORE_ECC.UNCORRECTED, .drift, .counts, .health] : List Part)) K) (hF : F f) (hP : P p)
    (ho : Only K F P s0 s) : Only K F P s0 (State.tvecWork s f p e d md).1 := by
  unfold State.tvecWork
  repeat' first | with_reducible assumption | exact Fits.trans (by decide +kernel) hK | exact hF | exact hP | with_reducible apply State.vecRead_only | with_reducible apply State.storeRead_only | with_reducible apply State.vecWrite_only | with_reducible apply State.sideWrite_only | with_reducible apply State.classReports_only | with_reducible apply Only.ite | dsimp only | split | (with_reducible refine Only.fst (by with_reducible assumption) ?_) | (with_reducible refine Only.snd (by with_reducible assumption) ?_) | (rw [apply_ite Prod.fst]; with_reducible apply Only.ite)

theorem State.tvecRun_only {K : List Part} {F : FieldId → Prop} {P : PlotId → Prop} {s0 : State} (s : State) (f : FieldId) (p : PlotId) (e : QEntry) (d md : Nat) (hK : Fits (([.events, .store, .bin, .storeErr, .binErr, .reg Reg.INJ_ARITH.ARM, .reg Reg.INJ_ARITH.DONE, .reg Reg.INJ_PT.ARM, .reg Reg.INJ_PT.DONE, .queue, .plotReg Reg.PLT_CLASS_HI.TERN_RESERVED, .plotReg Reg.PLT_CLASS_HI.UNDERFLOW, .plotReg Reg.PLT_CLASS_LO.INF_IN, .plotReg Reg.PLT_CLASS_LO.NAN_IN, .plotReg Reg.PLT_CLASS_LO.SAT_BLOCK, .plotReg Reg.PLT_CLASS_LO.SAT_RANGE] : List Part) ++ ([.plotReg Reg.PLT_STORE_ECC.CORRECTED, .plotReg Reg.PLT_STORE_ECC.LAST_ADDR, .plotReg Reg.PLT_STORE_ECC.UNCORRECTED, .drift, .counts, .health] : List Part)) K) (hF : F f) (hP : P p)
    (ho : Only K F P s0 s) : Only K F P s0 (State.tvecRun s f p e d md) := by
  unfold State.tvecRun
  repeat' first | with_reducible assumption | exact Fits.trans (by decide +kernel) hK | exact hF | exact hP | with_reducible apply State.tvecWork_only | with_reducible apply State.updEntry_only | with_reducible apply Only.ite | dsimp only | split | (with_reducible refine Only.fst (by with_reducible assumption) ?_) | (with_reducible refine Only.snd (by with_reducible assumption) ?_)

theorem State.tvecStart_only {K : List Part} {F : FieldId → Prop} {P : PlotId → Prop} {s0 : State} (s : State) (f : FieldId) (p : PlotId) (vop : Nat) (hK : Fits (([.events, .store, .bin, .storeErr, .binErr, .reg Reg.INJ_ARITH.ARM, .reg Reg.INJ_ARITH.DONE, .reg Reg.INJ_PT.ARM, .reg Reg.INJ_PT.DONE, .queue, .plotReg Reg.PLT_CLASS_HI.TERN_RESERVED, .plotReg Reg.PLT_CLASS_HI.UNDERFLOW, .plotReg Reg.PLT_CLASS_LO.INF_IN, .plotReg Reg.PLT_CLASS_LO.NAN_IN, .plotReg Reg.PLT_CLASS_LO.SAT_BLOCK, .plotReg Reg.PLT_CLASS_LO.SAT_RANGE] : List Part) ++ ([.plotReg Reg.PLT_QUEUE_STALL.CLAIM, .plotReg Reg.PLT_STORE_ECC.CORRECTED, .plotReg Reg.PLT_STORE_ECC.LAST_ADDR, .plotReg Reg.PLT_STORE_ECC.UNCORRECTED, .plotReg Reg.PLT_TINE_STALL.BIN_WAIT, .drift, .counts, .health] : List Part)) K) (hF : F f) (hP : P p)
    (ho : Only K F P s0 s) : Ends K F P s0 (State.tvecStart s f p vop) := by
  unfold State.tvecStart
  repeat' first | with_reducible assumption | exact Fits.trans (by decide +kernel) hK | exact hF | exact hP | with_reducible apply Ends.clocked | with_reducible apply State.pwrap_only | with_reducible apply State.tvecRun_only | with_reducible apply Ends.finish | with_reducible apply Ends.next | with_reducible apply Only.ite | with_reducible apply Ends.ite | dsimp only | split | (with_reducible refine Only.fst (by with_reducible assumption) ?_) | (with_reducible refine Only.snd (by with_reducible assumption) ?_)

theorem execTvecNop_only {K : List Part} {F : FieldId → Prop} {P : PlotId → Prop} {s0 : State} (f : FieldId) (p : PlotId) (s : State) (hK : Fits (([.events, .store, .bin, .storeErr, .binErr, .reg Reg.INJ_ARITH.ARM, .reg Reg.INJ_ARITH.DONE, .reg Reg.INJ_PT.ARM, .reg Reg.INJ_PT.DONE, .queue, .plotReg Reg.PLT_CLASS_HI.TERN_RESERVED, .plotReg Reg.PLT_CLASS_HI.UNDERFLOW, .plotReg Reg.PLT_CLASS_LO.INF_IN, .plotReg Reg.PLT_CLASS_LO.NAN_IN, .plotReg Reg.PLT_CLASS_LO.SAT_BLOCK, .plotReg Reg.PLT_CLASS_LO.SAT_RANGE] : List Part) ++ ([.plotReg Reg.PLT_QUEUE_STALL.CLAIM, .plotReg Reg.PLT_STORE_ECC.CORRECTED, .plotReg Reg.PLT_STORE_ECC.LAST_ADDR, .plotReg Reg.PLT_STORE_ECC.UNCORRECTED, .plotReg Reg.PLT_TINE_STALL.BIN_WAIT, .drift, .counts, .health] : List Part)) K) (hF : F f) (hP : P p)
    (ho : Only K F P s0 s) : Ends K F P s0 (execTvecNop f p s) := by
  unfold execTvecNop
  repeat' first | with_reducible assumption | exact Fits.trans (by decide +kernel) hK | exact hF | exact hP | with_reducible apply State.tvecStart_only | with_reducible apply Ends.finish | with_reducible apply Ends.next | with_reducible apply Only.ite | with_reducible apply Ends.ite | dsimp only | split | (with_reducible refine Only.fst (by with_reducible assumption) ?_) | (with_reducible refine Only.snd (by with_reducible assumption) ?_)

theorem execTvecAdd_only {K : List Part} {F : FieldId → Prop} {P : PlotId → Prop} {s0 : State} (f : FieldId) (p : PlotId) (s : State) (hK : Fits (([.events, .store, .bin, .storeErr, .binErr, .reg Reg.INJ_ARITH.ARM, .reg Reg.INJ_ARITH.DONE, .reg Reg.INJ_PT.ARM, .reg Reg.INJ_PT.DONE, .queue, .plotReg Reg.PLT_CLASS_HI.TERN_RESERVED, .plotReg Reg.PLT_CLASS_HI.UNDERFLOW, .plotReg Reg.PLT_CLASS_LO.INF_IN, .plotReg Reg.PLT_CLASS_LO.NAN_IN, .plotReg Reg.PLT_CLASS_LO.SAT_BLOCK, .plotReg Reg.PLT_CLASS_LO.SAT_RANGE] : List Part) ++ ([.plotReg Reg.PLT_QUEUE_STALL.CLAIM, .plotReg Reg.PLT_STORE_ECC.CORRECTED, .plotReg Reg.PLT_STORE_ECC.LAST_ADDR, .plotReg Reg.PLT_STORE_ECC.UNCORRECTED, .plotReg Reg.PLT_TINE_STALL.BIN_WAIT, .drift, .counts, .health] : List Part)) K) (hF : F f) (hP : P p)
    (ho : Only K F P s0 s) : Ends K F P s0 (execTvecAdd f p s) := by
  unfold execTvecAdd
  repeat' first | with_reducible assumption | exact Fits.trans (by decide +kernel) hK | exact hF | exact hP | with_reducible apply State.tvecStart_only | with_reducible apply Ends.finish | with_reducible apply Ends.next | with_reducible apply Only.ite | with_reducible apply Ends.ite | dsimp only | split | (with_reducible refine Only.fst (by with_reducible assumption) ?_) | (with_reducible refine Only.snd (by with_reducible assumption) ?_)

theorem execTvecSub_only {K : List Part} {F : FieldId → Prop} {P : PlotId → Prop} {s0 : State} (f : FieldId) (p : PlotId) (s : State) (hK : Fits (([.events, .store, .bin, .storeErr, .binErr, .reg Reg.INJ_ARITH.ARM, .reg Reg.INJ_ARITH.DONE, .reg Reg.INJ_PT.ARM, .reg Reg.INJ_PT.DONE, .queue, .plotReg Reg.PLT_CLASS_HI.TERN_RESERVED, .plotReg Reg.PLT_CLASS_HI.UNDERFLOW, .plotReg Reg.PLT_CLASS_LO.INF_IN, .plotReg Reg.PLT_CLASS_LO.NAN_IN, .plotReg Reg.PLT_CLASS_LO.SAT_BLOCK, .plotReg Reg.PLT_CLASS_LO.SAT_RANGE] : List Part) ++ ([.plotReg Reg.PLT_QUEUE_STALL.CLAIM, .plotReg Reg.PLT_STORE_ECC.CORRECTED, .plotReg Reg.PLT_STORE_ECC.LAST_ADDR, .plotReg Reg.PLT_STORE_ECC.UNCORRECTED, .plotReg Reg.PLT_TINE_STALL.BIN_WAIT, .drift, .counts, .health] : List Part)) K) (hF : F f) (hP : P p)
    (ho : Only K F P s0 s) : Ends K F P s0 (execTvecSub f p s) := by
  unfold execTvecSub
  repeat' first | with_reducible assumption | exact Fits.trans (by decide +kernel) hK | exact hF | exact hP | with_reducible apply State.tvecStart_only | with_reducible apply Ends.finish | with_reducible apply Ends.next | with_reducible apply Only.ite | with_reducible apply Ends.ite | dsimp only | split | (with_reducible refine Only.fst (by with_reducible assumption) ?_) | (with_reducible refine Only.snd (by with_reducible assumption) ?_)

theorem execTvecMul_only {K : List Part} {F : FieldId → Prop} {P : PlotId → Prop} {s0 : State} (f : FieldId) (p : PlotId) (s : State) (hK : Fits (([.events, .store, .bin, .storeErr, .binErr, .reg Reg.INJ_ARITH.ARM, .reg Reg.INJ_ARITH.DONE, .reg Reg.INJ_PT.ARM, .reg Reg.INJ_PT.DONE, .queue, .plotReg Reg.PLT_CLASS_HI.TERN_RESERVED, .plotReg Reg.PLT_CLASS_HI.UNDERFLOW, .plotReg Reg.PLT_CLASS_LO.INF_IN, .plotReg Reg.PLT_CLASS_LO.NAN_IN, .plotReg Reg.PLT_CLASS_LO.SAT_BLOCK, .plotReg Reg.PLT_CLASS_LO.SAT_RANGE] : List Part) ++ ([.plotReg Reg.PLT_QUEUE_STALL.CLAIM, .plotReg Reg.PLT_STORE_ECC.CORRECTED, .plotReg Reg.PLT_STORE_ECC.LAST_ADDR, .plotReg Reg.PLT_STORE_ECC.UNCORRECTED, .plotReg Reg.PLT_TINE_STALL.BIN_WAIT, .drift, .counts, .health] : List Part)) K) (hF : F f) (hP : P p)
    (ho : Only K F P s0 s) : Ends K F P s0 (execTvecMul f p s) := by
  unfold execTvecMul
  repeat' first | with_reducible assumption | exact Fits.trans (by decide +kernel) hK | exact hF | exact hP | with_reducible apply State.tvecStart_only | with_reducible apply Ends.finish | with_reducible apply Ends.next | with_reducible apply Only.ite | with_reducible apply Ends.ite | dsimp only | split | (with_reducible refine Only.fst (by with_reducible assumption) ?_) | (with_reducible refine Only.snd (by with_reducible assumption) ?_)

theorem execTvecFma_only {K : List Part} {F : FieldId → Prop} {P : PlotId → Prop} {s0 : State} (f : FieldId) (p : PlotId) (s : State) (hK : Fits (([.events, .store, .bin, .storeErr, .binErr, .reg Reg.INJ_ARITH.ARM, .reg Reg.INJ_ARITH.DONE, .reg Reg.INJ_PT.ARM, .reg Reg.INJ_PT.DONE, .queue, .plotReg Reg.PLT_CLASS_HI.TERN_RESERVED, .plotReg Reg.PLT_CLASS_HI.UNDERFLOW, .plotReg Reg.PLT_CLASS_LO.INF_IN, .plotReg Reg.PLT_CLASS_LO.NAN_IN, .plotReg Reg.PLT_CLASS_LO.SAT_BLOCK, .plotReg Reg.PLT_CLASS_LO.SAT_RANGE] : List Part) ++ ([.plotReg Reg.PLT_QUEUE_STALL.CLAIM, .plotReg Reg.PLT_STORE_ECC.CORRECTED, .plotReg Reg.PLT_STORE_ECC.LAST_ADDR, .plotReg Reg.PLT_STORE_ECC.UNCORRECTED, .plotReg Reg.PLT_TINE_STALL.BIN_WAIT, .drift, .counts, .health] : List Part)) K) (hF : F f) (hP : P p)
    (ho : Only K F P s0 s) : Ends K F P s0 (execTvecFma f p s) := by
  unfold execTvecFma
  repeat' first | with_reducible assumption | exact Fits.trans (by decide +kernel) hK | exact hF | exact hP | with_reducible apply State.tvecStart_only | with_reducible apply Ends.finish | with_reducible apply Ends.next | with_reducible apply Only.ite | with_reducible apply Ends.ite | dsimp only | split | (with_reducible refine Only.fst (by with_reducible assumption) ?_) | (with_reducible refine Only.snd (by with_reducible assumption) ?_)

theorem execTvecMin_only {K : List Part} {F : FieldId → Prop} {P : PlotId → Prop} {s0 : State} (f : FieldId) (p : PlotId) (s : State) (hK : Fits (([.events, .store, .bin, .storeErr, .binErr, .reg Reg.INJ_ARITH.ARM, .reg Reg.INJ_ARITH.DONE, .reg Reg.INJ_PT.ARM, .reg Reg.INJ_PT.DONE, .queue, .plotReg Reg.PLT_CLASS_HI.TERN_RESERVED, .plotReg Reg.PLT_CLASS_HI.UNDERFLOW, .plotReg Reg.PLT_CLASS_LO.INF_IN, .plotReg Reg.PLT_CLASS_LO.NAN_IN, .plotReg Reg.PLT_CLASS_LO.SAT_BLOCK, .plotReg Reg.PLT_CLASS_LO.SAT_RANGE] : List Part) ++ ([.plotReg Reg.PLT_QUEUE_STALL.CLAIM, .plotReg Reg.PLT_STORE_ECC.CORRECTED, .plotReg Reg.PLT_STORE_ECC.LAST_ADDR, .plotReg Reg.PLT_STORE_ECC.UNCORRECTED, .plotReg Reg.PLT_TINE_STALL.BIN_WAIT, .drift, .counts, .health] : List Part)) K) (hF : F f) (hP : P p)
    (ho : Only K F P s0 s) : Ends K F P s0 (execTvecMin f p s) := by
  unfold execTvecMin
  repeat' first | with_reducible assumption | exact Fits.trans (by decide +kernel) hK | exact hF | exact hP | with_reducible apply State.tvecStart_only | with_reducible apply Ends.finish | with_reducible apply Ends.next | with_reducible apply Only.ite | with_reducible apply Ends.ite | dsimp only | split | (with_reducible refine Only.fst (by with_reducible assumption) ?_) | (with_reducible refine Only.snd (by with_reducible assumption) ?_)

theorem execTvecMax_only {K : List Part} {F : FieldId → Prop} {P : PlotId → Prop} {s0 : State} (f : FieldId) (p : PlotId) (s : State) (hK : Fits (([.events, .store, .bin, .storeErr, .binErr, .reg Reg.INJ_ARITH.ARM, .reg Reg.INJ_ARITH.DONE, .reg Reg.INJ_PT.ARM, .reg Reg.INJ_PT.DONE, .queue, .plotReg Reg.PLT_CLASS_HI.TERN_RESERVED, .plotReg Reg.PLT_CLASS_HI.UNDERFLOW, .plotReg Reg.PLT_CLASS_LO.INF_IN, .plotReg Reg.PLT_CLASS_LO.NAN_IN, .plotReg Reg.PLT_CLASS_LO.SAT_BLOCK, .plotReg Reg.PLT_CLASS_LO.SAT_RANGE] : List Part) ++ ([.plotReg Reg.PLT_QUEUE_STALL.CLAIM, .plotReg Reg.PLT_STORE_ECC.CORRECTED, .plotReg Reg.PLT_STORE_ECC.LAST_ADDR, .plotReg Reg.PLT_STORE_ECC.UNCORRECTED, .plotReg Reg.PLT_TINE_STALL.BIN_WAIT, .drift, .counts, .health] : List Part)) K) (hF : F f) (hP : P p)
    (ho : Only K F P s0 s) : Ends K F P s0 (execTvecMax f p s) := by
  unfold execTvecMax
  repeat' first | with_reducible assumption | exact Fits.trans (by decide +kernel) hK | exact hF | exact hP | with_reducible apply State.tvecStart_only | with_reducible apply Ends.finish | with_reducible apply Ends.next | with_reducible apply Only.ite | with_reducible apply Ends.ite | dsimp only | split | (with_reducible refine Only.fst (by with_reducible assumption) ?_) | (with_reducible refine Only.snd (by with_reducible assumption) ?_)

theorem execTvecAbs_only {K : List Part} {F : FieldId → Prop} {P : PlotId → Prop} {s0 : State} (f : FieldId) (p : PlotId) (s : State) (hK : Fits (([.events, .store, .bin, .storeErr, .binErr, .reg Reg.INJ_ARITH.ARM, .reg Reg.INJ_ARITH.DONE, .reg Reg.INJ_PT.ARM, .reg Reg.INJ_PT.DONE, .queue, .plotReg Reg.PLT_CLASS_HI.TERN_RESERVED, .plotReg Reg.PLT_CLASS_HI.UNDERFLOW, .plotReg Reg.PLT_CLASS_LO.INF_IN, .plotReg Reg.PLT_CLASS_LO.NAN_IN, .plotReg Reg.PLT_CLASS_LO.SAT_BLOCK, .plotReg Reg.PLT_CLASS_LO.SAT_RANGE] : List Part) ++ ([.plotReg Reg.PLT_QUEUE_STALL.CLAIM, .plotReg Reg.PLT_STORE_ECC.CORRECTED, .plotReg Reg.PLT_STORE_ECC.LAST_ADDR, .plotReg Reg.PLT_STORE_ECC.UNCORRECTED, .plotReg Reg.PLT_TINE_STALL.BIN_WAIT, .drift, .counts, .health] : List Part)) K) (hF : F f) (hP : P p)
    (ho : Only K F P s0 s) : Ends K F P s0 (execTvecAbs f p s) := by
  unfold execTvecAbs
  repeat' first | with_reducible assumption | exact Fits.trans (by decide +kernel) hK | exact hF | exact hP | with_reducible apply State.tvecStart_only | with_reducible apply Ends.finish | with_reducible apply Ends.next | with_reducible apply Only.ite | with_reducible apply Ends.ite | dsimp only | split | (with_reducible refine Only.fst (by with_reducible assumption) ?_) | (with_reducible refine Only.snd (by with_reducible assumption) ?_)

theorem execTvecNeg_only {K : List Part} {F : FieldId → Prop} {P : PlotId → Prop} {s0 : State} (f : FieldId) (p : PlotId) (s : State) (hK : Fits (([.events, .store, .bin, .storeErr, .binErr, .reg Reg.INJ_ARITH.ARM, .reg Reg.INJ_ARITH.DONE, .reg Reg.INJ_PT.ARM, .reg Reg.INJ_PT.DONE, .queue, .plotReg Reg.PLT_CLASS_HI.TERN_RESERVED, .plotReg Reg.PLT_CLASS_HI.UNDERFLOW, .plotReg Reg.PLT_CLASS_LO.INF_IN, .plotReg Reg.PLT_CLASS_LO.NAN_IN, .plotReg Reg.PLT_CLASS_LO.SAT_BLOCK, .plotReg Reg.PLT_CLASS_LO.SAT_RANGE] : List Part) ++ ([.plotReg Reg.PLT_QUEUE_STALL.CLAIM, .plotReg Reg.PLT_STORE_ECC.CORRECTED, .plotReg Reg.PLT_STORE_ECC.LAST_ADDR, .plotReg Reg.PLT_STORE_ECC.UNCORRECTED, .plotReg Reg.PLT_TINE_STALL.BIN_WAIT, .drift, .counts, .health] : List Part)) K) (hF : F f) (hP : P p)
    (ho : Only K F P s0 s) : Ends K F P s0 (execTvecNeg f p s) := by
  unfold execTvecNeg
  repeat' first | with_reducible assumption | exact Fits.trans (by decide +kernel) hK | exact hF | exact hP | with_reducible apply State.tvecStart_only | with_reducible apply Ends.finish | with_reducible apply Ends.next | with_reducible apply Only.ite | with_reducible apply Ends.ite | dsimp only | split | (with_reducible refine Only.fst (by with_reducible assumption) ?_) | (with_reducible refine Only.snd (by with_reducible assumption) ?_)

theorem execTvecCmp_only {K : List Part} {F : FieldId → Prop} {P : PlotId → Prop} {s0 : State} (f : FieldId) (p : PlotId) (s : State) (hK : Fits (([.events, .store, .bin, .storeErr, .binErr, .reg Reg.INJ_ARITH.ARM, .reg Reg.INJ_ARITH.DONE, .reg Reg.INJ_PT.ARM, .reg Reg.INJ_PT.DONE, .queue, .plotReg Reg.PLT_CLASS_HI.TERN_RESERVED, .plotReg Reg.PLT_CLASS_HI.UNDERFLOW, .plotReg Reg.PLT_CLASS_LO.INF_IN, .plotReg Reg.PLT_CLASS_LO.NAN_IN, .plotReg Reg.PLT_CLASS_LO.SAT_BLOCK, .plotReg Reg.PLT_CLASS_LO.SAT_RANGE] : List Part) ++ ([.plotReg Reg.PLT_QUEUE_STALL.CLAIM, .plotReg Reg.PLT_STORE_ECC.CORRECTED, .plotReg Reg.PLT_STORE_ECC.LAST_ADDR, .plotReg Reg.PLT_STORE_ECC.UNCORRECTED, .plotReg Reg.PLT_TINE_STALL.BIN_WAIT, .drift, .counts, .health] : List Part)) K) (hF : F f) (hP : P p)
    (ho : Only K F P s0 s) : Ends K F P s0 (execTvecCmp f p s) := by
  unfold execTvecCmp
  repeat' first | with_reducible assumption | exact Fits.trans (by decide +kernel) hK | exact hF | exact hP | with_reducible apply State.tvecStart_only | with_reducible apply Ends.finish | with_reducible apply Ends.next | with_reducible apply Only.ite | with_reducible apply Ends.ite | dsimp only | split | (with_reducible refine Only.fst (by with_reducible assumption) ?_) | (with_reducible refine Only.snd (by with_reducible assumption) ?_)

theorem execTvecSelect_only {K : List Part} {F : FieldId → Prop} {P : PlotId → Prop} {s0 : State} (f : FieldId) (p : PlotId) (s : State) (hK : Fits (([.events, .store, .bin, .storeErr, .binErr, .reg Reg.INJ_ARITH.ARM, .reg Reg.INJ_ARITH.DONE, .reg Reg.INJ_PT.ARM, .reg Reg.INJ_PT.DONE, .queue, .plotReg Reg.PLT_CLASS_HI.TERN_RESERVED, .plotReg Reg.PLT_CLASS_HI.UNDERFLOW, .plotReg Reg.PLT_CLASS_LO.INF_IN, .plotReg Reg.PLT_CLASS_LO.NAN_IN, .plotReg Reg.PLT_CLASS_LO.SAT_BLOCK, .plotReg Reg.PLT_CLASS_LO.SAT_RANGE] : List Part) ++ ([.plotReg Reg.PLT_QUEUE_STALL.CLAIM, .plotReg Reg.PLT_STORE_ECC.CORRECTED, .plotReg Reg.PLT_STORE_ECC.LAST_ADDR, .plotReg Reg.PLT_STORE_ECC.UNCORRECTED, .plotReg Reg.PLT_TINE_STALL.BIN_WAIT, .drift, .counts, .health] : List Part)) K) (hF : F f) (hP : P p)
    (ho : Only K F P s0 s) : Ends K F P s0 (execTvecSelect f p s) := by
  unfold execTvecSelect
  repeat' first | with_reducible assumption | exact Fits.trans (by decide +kernel) hK | exact hF | exact hP | with_reducible apply State.tvecStart_only | with_reducible apply Ends.finish | with_reducible apply Ends.next | with_reducible apply Only.ite | with_reducible apply Ends.ite | dsimp only | split | (with_reducible refine Only.fst (by with_reducible assumption) ?_) | (with_reducible refine Only.snd (by with_reducible assumption) ?_)

theorem execTvecExp2_only {K : List Part} {F : FieldId → Prop} {P : PlotId → Prop} {s0 : State} (f : FieldId) (p : PlotId) (s : State) (hK : Fits (([.events, .store, .bin, .storeErr, .binErr, .reg Reg.INJ_ARITH.ARM, .reg Reg.INJ_ARITH.DONE, .reg Reg.INJ_PT.ARM, .reg Reg.INJ_PT.DONE, .queue, .plotReg Reg.PLT_CLASS_HI.TERN_RESERVED, .plotReg Reg.PLT_CLASS_HI.UNDERFLOW, .plotReg Reg.PLT_CLASS_LO.INF_IN, .plotReg Reg.PLT_CLASS_LO.NAN_IN, .plotReg Reg.PLT_CLASS_LO.SAT_BLOCK, .plotReg Reg.PLT_CLASS_LO.SAT_RANGE] : List Part) ++ ([.plotReg Reg.PLT_QUEUE_STALL.CLAIM, .plotReg Reg.PLT_STORE_ECC.CORRECTED, .plotReg Reg.PLT_STORE_ECC.LAST_ADDR, .plotReg Reg.PLT_STORE_ECC.UNCORRECTED, .plotReg Reg.PLT_TINE_STALL.BIN_WAIT, .drift, .counts, .health] : List Part)) K) (hF : F f) (hP : P p)
    (ho : Only K F P s0 s) : Ends K F P s0 (execTvecExp2 f p s) := by
  unfold execTvecExp2
  repeat' first | with_reducible assumption | exact Fits.trans (by decide +kernel) hK | exact hF | exact hP | with_reducible apply State.tvecStart_only | with_reducible apply Ends.finish | with_reducible apply Ends.next | with_reducible apply Only.ite | with_reducible apply Ends.ite | dsimp only | split | (with_reducible refine Only.fst (by with_reducible assumption) ?_) | (with_reducible refine Only.snd (by with_reducible assumption) ?_)

theorem execTvecLog2_only {K : List Part} {F : FieldId → Prop} {P : PlotId → Prop} {s0 : State} (f : FieldId) (p : PlotId) (s : State) (hK : Fits (([.events, .store, .bin, .storeErr, .binErr, .reg Reg.INJ_ARITH.ARM, .reg Reg.INJ_ARITH.DONE, .reg Reg.INJ_PT.ARM, .reg Reg.INJ_PT.DONE, .queue, .plotReg Reg.PLT_CLASS_HI.TERN_RESERVED, .plotReg Reg.PLT_CLASS_HI.UNDERFLOW, .plotReg Reg.PLT_CLASS_LO.INF_IN, .plotReg Reg.PLT_CLASS_LO.NAN_IN, .plotReg Reg.PLT_CLASS_LO.SAT_BLOCK, .plotReg Reg.PLT_CLASS_LO.SAT_RANGE] : List Part) ++ ([.plotReg Reg.PLT_QUEUE_STALL.CLAIM, .plotReg Reg.PLT_STORE_ECC.CORRECTED, .plotReg Reg.PLT_STORE_ECC.LAST_ADDR, .plotReg Reg.PLT_STORE_ECC.UNCORRECTED, .plotReg Reg.PLT_TINE_STALL.BIN_WAIT, .drift, .counts, .health] : List Part)) K) (hF : F f) (hP : P p)
    (ho : Only K F P s0 s) : Ends K F P s0 (execTvecLog2 f p s) := by
  unfold execTvecLog2
  repeat' first | with_reducible assumption | exact Fits.trans (by decide +kernel) hK | exact hF | exact hP | with_reducible apply State.tvecStart_only | with_reducible apply Ends.finish | with_reducible apply Ends.next | with_reducible apply Only.ite | with_reducible apply Ends.ite | dsimp only | split | (with_reducible refine Only.fst (by with_reducible assumption) ?_) | (with_reducible refine Only.snd (by with_reducible assumption) ?_)

theorem execTvecRecip_only {K : List Part} {F : FieldId → Prop} {P : PlotId → Prop} {s0 : State} (f : FieldId) (p : PlotId) (s : State) (hK : Fits (([.events, .store, .bin, .storeErr, .binErr, .reg Reg.INJ_ARITH.ARM, .reg Reg.INJ_ARITH.DONE, .reg Reg.INJ_PT.ARM, .reg Reg.INJ_PT.DONE, .queue, .plotReg Reg.PLT_CLASS_HI.TERN_RESERVED, .plotReg Reg.PLT_CLASS_HI.UNDERFLOW, .plotReg Reg.PLT_CLASS_LO.INF_IN, .plotReg Reg.PLT_CLASS_LO.NAN_IN, .plotReg Reg.PLT_CLASS_LO.SAT_BLOCK, .plotReg Reg.PLT_CLASS_LO.SAT_RANGE] : List Part) ++ ([.plotReg Reg.PLT_QUEUE_STALL.CLAIM, .plotReg Reg.PLT_STORE_ECC.CORRECTED, .plotReg Reg.PLT_STORE_ECC.LAST_ADDR, .plotReg Reg.PLT_STORE_ECC.UNCORRECTED, .plotReg Reg.PLT_TINE_STALL.BIN_WAIT, .drift, .counts, .health] : List Part)) K) (hF : F f) (hP : P p)
    (ho : Only K F P s0 s) : Ends K F P s0 (execTvecRecip f p s) := by
  unfold execTvecRecip
  repeat' first | with_reducible assumption | exact Fits.trans (by decide +kernel) hK | exact hF | exact hP | with_reducible apply State.tvecStart_only | with_reducible apply Ends.finish | with_reducible apply Ends.next | with_reducible apply Only.ite | with_reducible apply Ends.ite | dsimp only | split | (with_reducible refine Only.fst (by with_reducible assumption) ?_) | (with_reducible refine Only.snd (by with_reducible assumption) ?_)

theorem execTvecRsqrt_only {K : List Part} {F : FieldId → Prop} {P : PlotId → Prop} {s0 : State} (f : FieldId) (p : PlotId) (s : State) (hK : Fits (([.events, .store, .bin, .storeErr, .binErr, .reg Reg.INJ_ARITH.ARM, .reg Reg.INJ_ARITH.DONE, .reg Reg.INJ_PT.ARM, .reg Reg.INJ_PT.DONE, .queue, .plotReg Reg.PLT_CLASS_HI.TERN_RESERVED, .plotReg Reg.PLT_CLASS_HI.UNDERFLOW, .plotReg Reg.PLT_CLASS_LO.INF_IN, .plotReg Reg.PLT_CLASS_LO.NAN_IN, .plotReg Reg.PLT_CLASS_LO.SAT_BLOCK, .plotReg Reg.PLT_CLASS_LO.SAT_RANGE] : List Part) ++ ([.plotReg Reg.PLT_QUEUE_STALL.CLAIM, .plotReg Reg.PLT_STORE_ECC.CORRECTED, .plotReg Reg.PLT_STORE_ECC.LAST_ADDR, .plotReg Reg.PLT_STORE_ECC.UNCORRECTED, .plotReg Reg.PLT_TINE_STALL.BIN_WAIT, .drift, .counts, .health] : List Part)) K) (hF : F f) (hP : P p)
    (ho : Only K F P s0 s) : Ends K F P s0 (execTvecRsqrt f p s) := by
  unfold execTvecRsqrt
  repeat' first | with_reducible assumption | exact Fits.trans (by decide +kernel) hK | exact hF | exact hP | with_reducible apply State.tvecStart_only | with_reducible apply Ends.finish | with_reducible apply Ends.next | with_reducible apply Only.ite | with_reducible apply Ends.ite | dsimp only | split | (with_reducible refine Only.fst (by with_reducible assumption) ?_) | (with_reducible refine Only.snd (by with_reducible assumption) ?_)

theorem execTvecIadd_only {K : List Part} {F : FieldId → Prop} {P : PlotId → Prop} {s0 : State} (f : FieldId) (p : PlotId) (s : State) (hK : Fits (([.events, .store, .bin, .storeErr, .binErr, .reg Reg.INJ_ARITH.ARM, .reg Reg.INJ_ARITH.DONE, .reg Reg.INJ_PT.ARM, .reg Reg.INJ_PT.DONE, .queue, .plotReg Reg.PLT_CLASS_HI.TERN_RESERVED, .plotReg Reg.PLT_CLASS_HI.UNDERFLOW, .plotReg Reg.PLT_CLASS_LO.INF_IN, .plotReg Reg.PLT_CLASS_LO.NAN_IN, .plotReg Reg.PLT_CLASS_LO.SAT_BLOCK, .plotReg Reg.PLT_CLASS_LO.SAT_RANGE] : List Part) ++ ([.plotReg Reg.PLT_QUEUE_STALL.CLAIM, .plotReg Reg.PLT_STORE_ECC.CORRECTED, .plotReg Reg.PLT_STORE_ECC.LAST_ADDR, .plotReg Reg.PLT_STORE_ECC.UNCORRECTED, .plotReg Reg.PLT_TINE_STALL.BIN_WAIT, .drift, .counts, .health] : List Part)) K) (hF : F f) (hP : P p)
    (ho : Only K F P s0 s) : Ends K F P s0 (execTvecIadd f p s) := by
  unfold execTvecIadd
  repeat' first | with_reducible assumption | exact Fits.trans (by decide +kernel) hK | exact hF | exact hP | with_reducible apply State.tvecStart_only | with_reducible apply Ends.finish | with_reducible apply Ends.next | with_reducible apply Only.ite | with_reducible apply Ends.ite | dsimp only | split | (with_reducible refine Only.fst (by with_reducible assumption) ?_) | (with_reducible refine Only.snd (by with_reducible assumption) ?_)

theorem execTvecIsub_only {K : List Part} {F : FieldId → Prop} {P : PlotId → Prop} {s0 : State} (f : FieldId) (p : PlotId) (s : State) (hK : Fits (([.events, .store, .bin, .storeErr, .binErr, .reg Reg.INJ_ARITH.ARM, .reg Reg.INJ_ARITH.DONE, .reg Reg.INJ_PT.ARM, .reg Reg.INJ_PT.DONE, .queue, .plotReg Reg.PLT_CLASS_HI.TERN_RESERVED, .plotReg Reg.PLT_CLASS_HI.UNDERFLOW, .plotReg Reg.PLT_CLASS_LO.INF_IN, .plotReg Reg.PLT_CLASS_LO.NAN_IN, .plotReg Reg.PLT_CLASS_LO.SAT_BLOCK, .plotReg Reg.PLT_CLASS_LO.SAT_RANGE] : List Part) ++ ([.plotReg Reg.PLT_QUEUE_STALL.CLAIM, .plotReg Reg.PLT_STORE_ECC.CORRECTED, .plotReg Reg.PLT_STORE_ECC.LAST_ADDR, .plotReg Reg.PLT_STORE_ECC.UNCORRECTED, .plotReg Reg.PLT_TINE_STALL.BIN_WAIT, .drift, .counts, .health] : List Part)) K) (hF : F f) (hP : P p)
    (ho : Only K F P s0 s) : Ends K F P s0 (execTvecIsub f p s) := by
  unfold execTvecIsub
  repeat' first | with_reducible assumption | exact Fits.trans (by decide +kernel) hK | exact hF | exact hP | with_reducible apply State.tvecStart_only | with_reducible apply Ends.finish | with_reducible apply Ends.next | with_reducible apply Only.ite | with_reducible apply Ends.ite | dsimp only | split | (with_reducible refine Only.fst (by with_reducible assumption) ?_) | (with_reducible refine Only.snd (by with_reducible assumption) ?_)

theorem execTvecImin_only {K : List Part} {F : FieldId → Prop} {P : PlotId → Prop} {s0 : State} (f : FieldId) (p : PlotId) (s : State) (hK : Fits (([.events, .store, .bin, .storeErr, .binErr, .reg Reg.INJ_ARITH.ARM, .reg Reg.INJ_ARITH.DONE, .reg Reg.INJ_PT.ARM, .reg Reg.INJ_PT.DONE, .queue, .plotReg Reg.PLT_CLASS_HI.TERN_RESERVED, .plotReg Reg.PLT_CLASS_HI.UNDERFLOW, .plotReg Reg.PLT_CLASS_LO.INF_IN, .plotReg Reg.PLT_CLASS_LO.NAN_IN, .plotReg Reg.PLT_CLASS_LO.SAT_BLOCK, .plotReg Reg.PLT_CLASS_LO.SAT_RANGE] : List Part) ++ ([.plotReg Reg.PLT_QUEUE_STALL.CLAIM, .plotReg Reg.PLT_STORE_ECC.CORRECTED, .plotReg Reg.PLT_STORE_ECC.LAST_ADDR, .plotReg Reg.PLT_STORE_ECC.UNCORRECTED, .plotReg Reg.PLT_TINE_STALL.BIN_WAIT, .drift, .counts, .health] : List Part)) K) (hF : F f) (hP : P p)
    (ho : Only K F P s0 s) : Ends K F P s0 (execTvecImin f p s) := by
  unfold execTvecImin
  repeat' first | with_reducible assumption | exact Fits.trans (by decide +kernel) hK | exact hF | exact hP | with_reducible apply State.tvecStart_only | with_reducible apply Ends.finish | with_reducible apply Ends.next | with_reducible apply Only.ite | with_reducible apply Ends.ite | dsimp only | split | (with_reducible refine Only.fst (by with_reducible assumption) ?_) | (with_reducible refine Only.snd (by with_reducible assumption) ?_)

theorem execTvecImax_only {K : List Part} {F : FieldId → Prop} {P : PlotId → Prop} {s0 : State} (f : FieldId) (p : PlotId) (s : State) (hK : Fits (([.events, .store, .bin, .storeErr, .binErr, .reg Reg.INJ_ARITH.ARM, .reg Reg.INJ_ARITH.DONE, .reg Reg.INJ_PT.ARM, .reg Reg.INJ_PT.DONE, .queue, .plotReg Reg.PLT_CLASS_HI.TERN_RESERVED, .plotReg Reg.PLT_CLASS_HI.UNDERFLOW, .plotReg Reg.PLT_CLASS_LO.INF_IN, .plotReg Reg.PLT_CLASS_LO.NAN_IN, .plotReg Reg.PLT_CLASS_LO.SAT_BLOCK, .plotReg Reg.PLT_CLASS_LO.SAT_RANGE] : List Part) ++ ([.plotReg Reg.PLT_QUEUE_STALL.CLAIM, .plotReg Reg.PLT_STORE_ECC.CORRECTED, .plotReg Reg.PLT_STORE_ECC.LAST_ADDR, .plotReg Reg.PLT_STORE_ECC.UNCORRECTED, .plotReg Reg.PLT_TINE_STALL.BIN_WAIT, .drift, .counts, .health] : List Part)) K) (hF : F f) (hP : P p)
    (ho : Only K F P s0 s) : Ends K F P s0 (execTvecImax f p s) := by
  unfold execTvecImax
  repeat' first | with_reducible assumption | exact Fits.trans (by decide +kernel) hK | exact hF | exact hP | with_reducible apply State.tvecStart_only | with_reducible apply Ends.finish | with_reducible apply Ends.next | with_reducible apply Only.ite | with_reducible apply Ends.ite | dsimp only | split | (with_reducible refine Only.fst (by with_reducible assumption) ?_) | (with_reducible refine Only.snd (by with_reducible assumption) ?_)

theorem execTvecAnd_only {K : List Part} {F : FieldId → Prop} {P : PlotId → Prop} {s0 : State} (f : FieldId) (p : PlotId) (s : State) (hK : Fits (([.events, .store, .bin, .storeErr, .binErr, .reg Reg.INJ_ARITH.ARM, .reg Reg.INJ_ARITH.DONE, .reg Reg.INJ_PT.ARM, .reg Reg.INJ_PT.DONE, .queue, .plotReg Reg.PLT_CLASS_HI.TERN_RESERVED, .plotReg Reg.PLT_CLASS_HI.UNDERFLOW, .plotReg Reg.PLT_CLASS_LO.INF_IN, .plotReg Reg.PLT_CLASS_LO.NAN_IN, .plotReg Reg.PLT_CLASS_LO.SAT_BLOCK, .plotReg Reg.PLT_CLASS_LO.SAT_RANGE] : List Part) ++ ([.plotReg Reg.PLT_QUEUE_STALL.CLAIM, .plotReg Reg.PLT_STORE_ECC.CORRECTED, .plotReg Reg.PLT_STORE_ECC.LAST_ADDR, .plotReg Reg.PLT_STORE_ECC.UNCORRECTED, .plotReg Reg.PLT_TINE_STALL.BIN_WAIT, .drift, .counts, .health] : List Part)) K) (hF : F f) (hP : P p)
    (ho : Only K F P s0 s) : Ends K F P s0 (execTvecAnd f p s) := by
  unfold execTvecAnd
  repeat' first | with_reducible assumption | exact Fits.trans (by decide +kernel) hK | exact hF | exact hP | with_reducible apply State.tvecStart_only | with_reducible apply Ends.finish | with_reducible apply Ends.next | with_reducible apply Only.ite | with_reducible apply Ends.ite | dsimp only | split | (with_reducible refine Only.fst (by with_reducible assumption) ?_) | (with_reducible refine Only.snd (by with_reducible assumption) ?_)

theorem execTvecOr_only {K : List Part} {F : FieldId → Prop} {P : PlotId → Prop} {s0 : State} (f : FieldId) (p : PlotId) (s : State) (hK : Fits (([.events, .store, .bin, .storeErr, .binErr, .reg Reg.INJ_ARITH.ARM, .reg Reg.INJ_ARITH.DONE, .reg Reg.INJ_PT.ARM, .reg Reg.INJ_PT.DONE, .queue, .plotReg Reg.PLT_CLASS_HI.TERN_RESERVED, .plotReg Reg.PLT_CLASS_HI.UNDERFLOW, .plotReg Reg.PLT_CLASS_LO.INF_IN, .plotReg Reg.PLT_CLASS_LO.NAN_IN, .plotReg Reg.PLT_CLASS_LO.SAT_BLOCK, .plotReg Reg.PLT_CLASS_LO.SAT_RANGE] : List Part) ++ ([.plotReg Reg.PLT_QUEUE_STALL.CLAIM, .plotReg Reg.PLT_STORE_ECC.CORRECTED, .plotReg Reg.PLT_STORE_ECC.LAST_ADDR, .plotReg Reg.PLT_STORE_ECC.UNCORRECTED, .plotReg Reg.PLT_TINE_STALL.BIN_WAIT, .drift, .counts, .health] : List Part)) K) (hF : F f) (hP : P p)
    (ho : Only K F P s0 s) : Ends K F P s0 (execTvecOr f p s) := by
  unfold execTvecOr
  repeat' first | with_reducible assumption | exact Fits.trans (by decide +kernel) hK | exact hF | exact hP | with_reducible apply State.tvecStart_only | with_reducible apply Ends.finish | with_reducible apply Ends.next | with_reducible apply Only.ite | with_reducible apply Ends.ite | dsimp only | split | (with_reducible refine Only.fst (by with_reducible assumption) ?_) | (with_reducible refine Only.snd (by with_reducible assumption) ?_)

theorem execTvecXor_only {K : List Part} {F : FieldId → Prop} {P : PlotId → Prop} {s0 : State} (f : FieldId) (p : PlotId) (s : State) (hK : Fits (([.events, .store, .bin, .storeErr, .binErr, .reg Reg.INJ_ARITH.ARM, .reg Reg.INJ_ARITH.DONE, .reg Reg.INJ_PT.ARM, .reg Reg.INJ_PT.DONE, .queue, .plotReg Reg.PLT_CLASS_HI.TERN_RESERVED, .plotReg Reg.PLT_CLASS_HI.UNDERFLOW, .plotReg Reg.PLT_CLASS_LO.INF_IN, .plotReg Reg.PLT_CLASS_LO.NAN_IN, .plotReg Reg.PLT_CLASS_LO.SAT_BLOCK, .plotReg Reg.PLT_CLASS_LO.SAT_RANGE] : List Part) ++ ([.plotReg Reg.PLT_QUEUE_STALL.CLAIM, .plotReg Reg.PLT_STORE_ECC.CORRECTED, .plotReg Reg.PLT_STORE_ECC.LAST_ADDR, .plotReg Reg.PLT_STORE_ECC.UNCORRECTED, .plotReg Reg.PLT_TINE_STALL.BIN_WAIT, .drift, .counts, .health] : List Part)) K) (hF : F f) (hP : P p)
    (ho : Only K F P s0 s) : Ends K F P s0 (execTvecXor f p s) := by
  unfold execTvecXor
  repeat' first | with_reducible assumption | exact Fits.trans (by decide +kernel) hK | exact hF | exact hP | with_reducible apply State.tvecStart_only | with_reducible apply Ends.finish | with_reducible apply Ends.next | with_reducible apply Only.ite | with_reducible apply Ends.ite | dsimp only | split | (with_reducible refine Only.fst (by with_reducible assumption) ?_) | (with_reducible refine Only.snd (by with_reducible assumption) ?_)

theorem execTvecSll_only {K : List Part} {F : FieldId → Prop} {P : PlotId → Prop} {s0 : State} (f : FieldId) (p : PlotId) (s : State) (hK : Fits (([.events, .store, .bin, .storeErr, .binErr, .reg Reg.INJ_ARITH.ARM, .reg Reg.INJ_ARITH.DONE, .reg Reg.INJ_PT.ARM, .reg Reg.INJ_PT.DONE, .queue, .plotReg Reg.PLT_CLASS_HI.TERN_RESERVED, .plotReg Reg.PLT_CLASS_HI.UNDERFLOW, .plotReg Reg.PLT_CLASS_LO.INF_IN, .plotReg Reg.PLT_CLASS_LO.NAN_IN, .plotReg Reg.PLT_CLASS_LO.SAT_BLOCK, .plotReg Reg.PLT_CLASS_LO.SAT_RANGE] : List Part) ++ ([.plotReg Reg.PLT_QUEUE_STALL.CLAIM, .plotReg Reg.PLT_STORE_ECC.CORRECTED, .plotReg Reg.PLT_STORE_ECC.LAST_ADDR, .plotReg Reg.PLT_STORE_ECC.UNCORRECTED, .plotReg Reg.PLT_TINE_STALL.BIN_WAIT, .drift, .counts, .health] : List Part)) K) (hF : F f) (hP : P p)
    (ho : Only K F P s0 s) : Ends K F P s0 (execTvecSll f p s) := by
  unfold execTvecSll
  repeat' first | with_reducible assumption | exact Fits.trans (by decide +kernel) hK | exact hF | exact hP | with_reducible apply State.tvecStart_only | with_reducible apply Ends.finish | with_reducible apply Ends.next | with_reducible apply Only.ite | with_reducible apply Ends.ite | dsimp only | split | (with_reducible refine Only.fst (by with_reducible assumption) ?_) | (with_reducible refine Only.snd (by with_reducible assumption) ?_)

theorem execTvecSra_only {K : List Part} {F : FieldId → Prop} {P : PlotId → Prop} {s0 : State} (f : FieldId) (p : PlotId) (s : State) (hK : Fits (([.events, .store, .bin, .storeErr, .binErr, .reg Reg.INJ_ARITH.ARM, .reg Reg.INJ_ARITH.DONE, .reg Reg.INJ_PT.ARM, .reg Reg.INJ_PT.DONE, .queue, .plotReg Reg.PLT_CLASS_HI.TERN_RESERVED, .plotReg Reg.PLT_CLASS_HI.UNDERFLOW, .plotReg Reg.PLT_CLASS_LO.INF_IN, .plotReg Reg.PLT_CLASS_LO.NAN_IN, .plotReg Reg.PLT_CLASS_LO.SAT_BLOCK, .plotReg Reg.PLT_CLASS_LO.SAT_RANGE] : List Part) ++ ([.plotReg Reg.PLT_QUEUE_STALL.CLAIM, .plotReg Reg.PLT_STORE_ECC.CORRECTED, .plotReg Reg.PLT_STORE_ECC.LAST_ADDR, .plotReg Reg.PLT_STORE_ECC.UNCORRECTED, .plotReg Reg.PLT_TINE_STALL.BIN_WAIT, .drift, .counts, .health] : List Part)) K) (hF : F f) (hP : P p)
    (ho : Only K F P s0 s) : Ends K F P s0 (execTvecSra f p s) := by
  unfold execTvecSra
  repeat' first | with_reducible assumption | exact Fits.trans (by decide +kernel) hK | exact hF | exact hP | with_reducible apply State.tvecStart_only | with_reducible apply Ends.finish | with_reducible apply Ends.next | with_reducible apply Only.ite | with_reducible apply Ends.ite | dsimp only | split | (with_reducible refine Only.fst (by with_reducible assumption) ?_) | (with_reducible refine Only.snd (by with_reducible assumption) ?_)

theorem execTvecSrl_only {K : List Part} {F : FieldId → Prop} {P : PlotId → Prop} {s0 : State} (f : FieldId) (p : PlotId) (s : State) (hK : Fits (([.events, .store, .bin, .storeErr, .binErr, .reg Reg.INJ_ARITH.ARM, .reg Reg.INJ_ARITH.DONE, .reg Reg.INJ_PT.ARM, .reg Reg.INJ_PT.DONE, .queue, .plotReg Reg.PLT_CLASS_HI.TERN_RESERVED, .plotReg Reg.PLT_CLASS_HI.UNDERFLOW, .plotReg Reg.PLT_CLASS_LO.INF_IN, .plotReg Reg.PLT_CLASS_LO.NAN_IN, .plotReg Reg.PLT_CLASS_LO.SAT_BLOCK, .plotReg Reg.PLT_CLASS_LO.SAT_RANGE] : List Part) ++ ([.plotReg Reg.PLT_QUEUE_STALL.CLAIM, .plotReg Reg.PLT_STORE_ECC.CORRECTED, .plotReg Reg.PLT_STORE_ECC.LAST_ADDR, .plotReg Reg.PLT_STORE_ECC.UNCORRECTED, .plotReg Reg.PLT_TINE_STALL.BIN_WAIT, .drift, .counts, .health] : List Part)) K) (hF : F f) (hP : P p)
    (ho : Only K F P s0 s) : Ends K F P s0 (execTvecSrl f p s) := by
  unfold execTvecSrl
  repeat' first | with_reducible assumption | exact Fits.trans (by decide +kernel) hK | exact hF | exact hP | with_reducible apply State.tvecStart_only | with_reducible apply Ends.finish | with_reducible apply Ends.next | with_reducible apply Only.ite | with_reducible apply Ends.ite | dsimp only | split | (with_reducible refine Only.fst (by with_reducible assumption) ?_) | (with_reducible refine Only.snd (by with_reducible assumption) ?_)

theorem execTvecIcmp_only {K : List Part} {F : FieldId → Prop} {P : PlotId → Prop} {s0 : State} (f : FieldId) (p : PlotId) (s : State) (hK : Fits (([.events, .store, .bin, .storeErr, .binErr, .reg Reg.INJ_ARITH.ARM, .reg Reg.INJ_ARITH.DONE, .reg Reg.INJ_PT.ARM, .reg Reg.INJ_PT.DONE, .queue, .plotReg Reg.PLT_CLASS_HI.TERN_RESERVED, .plotReg Reg.PLT_CLASS_HI.UNDERFLOW, .plotReg Reg.PLT_CLASS_LO.INF_IN, .plotReg Reg.PLT_CLASS_LO.NAN_IN, .plotReg Reg.PLT_CLASS_LO.SAT_BLOCK, .plotReg Reg.PLT_CLASS_LO.SAT_RANGE] : List Part) ++ ([.plotReg Reg.PLT_QUEUE_STALL.CLAIM, .plotReg Reg.PLT_STORE_ECC.CORRECTED, .plotReg Reg.PLT_STORE_ECC.LAST_ADDR, .plotReg Reg.PLT_STORE_ECC.UNCORRECTED, .plotReg Reg.PLT_TINE_STALL.BIN_WAIT, .drift, .counts, .health] : List Part)) K) (hF : F f) (hP : P p)
    (ho : Only K F P s0 s) : Ends K F P s0 (execTvecIcmp f p s) := by
  unfold execTvecIcmp
  repeat' first | with_reducible assumption | exact Fits.trans (by decide +kernel) hK | exact hF | exact hP | with_reducible apply State.tvecStart_only | with_reducible apply Ends.finish | with_reducible apply Ends.next | with_reducible apply Only.ite | with_reducible apply Ends.ite | dsimp only | split | (with_reducible refine Only.fst (by with_reducible assumption) ?_) | (with_reducible refine Only.snd (by with_reducible assumption) ?_)

theorem execTvecCvt_only {K : List Part} {F : FieldId → Prop} {P : PlotId → Prop} {s0 : State} (f : FieldId) (p : PlotId) (s : State) (hK : Fits (([.events, .store, .bin, .storeErr, .binErr, .reg Reg.INJ_ARITH.ARM, .reg Reg.INJ_ARITH.DONE, .reg Reg.INJ_PT.ARM, .reg Reg.INJ_PT.DONE, .queue, .plotReg Reg.PLT_CLASS_HI.TERN_RESERVED, .plotReg Reg.PLT_CLASS_HI.UNDERFLOW, .plotReg Reg.PLT_CLASS_LO.INF_IN, .plotReg Reg.PLT_CLASS_LO.NAN_IN, .plotReg Reg.PLT_CLASS_LO.SAT_BLOCK, .plotReg Reg.PLT_CLASS_LO.SAT_RANGE] : List Part) ++ ([.plotReg Reg.PLT_QUEUE_STALL.CLAIM, .plotReg Reg.PLT_STORE_ECC.CORRECTED, .plotReg Reg.PLT_STORE_ECC.LAST_ADDR, .plotReg Reg.PLT_STORE_ECC.UNCORRECTED, .plotReg Reg.PLT_TINE_STALL.BIN_WAIT, .drift, .counts, .health] : List Part)) K) (hF : F f) (hP : P p)
    (ho : Only K F P s0 s) : Ends K F P s0 (execTvecCvt f p s) := by
  unfold execTvecCvt
  repeat' first | with_reducible assumption | exact Fits.trans (by decide +kernel) hK | exact hF | exact hP | with_reducible apply State.tvecStart_only | with_reducible apply Ends.finish | with_reducible apply Ends.next | with_reducible apply Only.ite | with_reducible apply Ends.ite | dsimp only | split | (with_reducible refine Only.fst (by with_reducible assumption) ?_) | (with_reducible refine Only.snd (by with_reducible assumption) ?_)

theorem execTvecBenc_only {K : List Part} {F : FieldId → Prop} {P : PlotId → Prop} {s0 : State} (f : FieldId) (p : PlotId) (s : State) (hK : Fits (([.events, .store, .bin, .storeErr, .binErr, .reg Reg.INJ_ARITH.ARM, .reg Reg.INJ_ARITH.DONE, .reg Reg.INJ_PT.ARM, .reg Reg.INJ_PT.DONE, .queue, .plotReg Reg.PLT_CLASS_HI.TERN_RESERVED, .plotReg Reg.PLT_CLASS_HI.UNDERFLOW, .plotReg Reg.PLT_CLASS_LO.INF_IN, .plotReg Reg.PLT_CLASS_LO.NAN_IN, .plotReg Reg.PLT_CLASS_LO.SAT_BLOCK, .plotReg Reg.PLT_CLASS_LO.SAT_RANGE] : List Part) ++ ([.plotReg Reg.PLT_QUEUE_STALL.CLAIM, .plotReg Reg.PLT_STORE_ECC.CORRECTED, .plotReg Reg.PLT_STORE_ECC.LAST_ADDR, .plotReg Reg.PLT_STORE_ECC.UNCORRECTED, .plotReg Reg.PLT_TINE_STALL.BIN_WAIT, .drift, .counts, .health] : List Part)) K) (hF : F f) (hP : P p)
    (ho : Only K F P s0 s) : Ends K F P s0 (execTvecBenc f p s) := by
  unfold execTvecBenc
  repeat' first | with_reducible assumption | exact Fits.trans (by decide +kernel) hK | exact hF | exact hP | with_reducible apply State.tvecStart_only | with_reducible apply Ends.finish | with_reducible apply Ends.next | with_reducible apply Only.ite | with_reducible apply Ends.ite | dsimp only | split | (with_reducible refine Only.fst (by with_reducible assumption) ?_) | (with_reducible refine Only.snd (by with_reducible assumption) ?_)

theorem execTvecBscale_only {K : List Part} {F : FieldId → Prop} {P : PlotId → Prop} {s0 : State} (f : FieldId) (p : PlotId) (s : State) (hK : Fits (([.events, .store, .bin, .storeErr, .binErr, .reg Reg.INJ_ARITH.ARM, .reg Reg.INJ_ARITH.DONE, .reg Reg.INJ_PT.ARM, .reg Reg.INJ_PT.DONE, .queue, .plotReg Reg.PLT_CLASS_HI.TERN_RESERVED, .plotReg Reg.PLT_CLASS_HI.UNDERFLOW, .plotReg Reg.PLT_CLASS_LO.INF_IN, .plotReg Reg.PLT_CLASS_LO.NAN_IN, .plotReg Reg.PLT_CLASS_LO.SAT_BLOCK, .plotReg Reg.PLT_CLASS_LO.SAT_RANGE] : List Part) ++ ([.plotReg Reg.PLT_QUEUE_STALL.CLAIM, .plotReg Reg.PLT_STORE_ECC.CORRECTED, .plotReg Reg.PLT_STORE_ECC.LAST_ADDR, .plotReg Reg.PLT_STORE_ECC.UNCORRECTED, .plotReg Reg.PLT_TINE_STALL.BIN_WAIT, .drift, .counts, .health] : List Part)) K) (hF : F f) (hP : P p)
    (ho : Only K F P s0 s) : Ends K F P s0 (execTvecBscale f p s) := by
  unfold execTvecBscale
  repeat' first | with_reducible assumption | exact Fits.trans (by decide +kernel) hK | exact hF | exact hP | with_reducible apply State.tvecStart_only | with_reducible apply Ends.finish | with_reducible apply Ends.next | with_reducible apply Only.ite | with_reducible apply Ends.ite | dsimp only | split | (with_reducible refine Only.fst (by with_reducible assumption) ?_) | (with_reducible refine Only.snd (by with_reducible assumption) ?_)

theorem execTvecBdec_only {K : List Part} {F : FieldId → Prop} {P : PlotId → Prop} {s0 : State} (f : FieldId) (p : PlotId) (s : State) (hK : Fits (([.events, .store, .bin, .storeErr, .binErr, .reg Reg.INJ_ARITH.ARM, .reg Reg.INJ_ARITH.DONE, .reg Reg.INJ_PT.ARM, .reg Reg.INJ_PT.DONE, .queue, .plotReg Reg.PLT_CLASS_HI.TERN_RESERVED, .plotReg Reg.PLT_CLASS_HI.UNDERFLOW, .plotReg Reg.PLT_CLASS_LO.INF_IN, .plotReg Reg.PLT_CLASS_LO.NAN_IN, .plotReg Reg.PLT_CLASS_LO.SAT_BLOCK, .plotReg Reg.PLT_CLASS_LO.SAT_RANGE] : List Part) ++ ([.plotReg Reg.PLT_QUEUE_STALL.CLAIM, .plotReg Reg.PLT_STORE_ECC.CORRECTED, .plotReg Reg.PLT_STORE_ECC.LAST_ADDR, .plotReg Reg.PLT_STORE_ECC.UNCORRECTED, .plotReg Reg.PLT_TINE_STALL.BIN_WAIT, .drift, .counts, .health] : List Part)) K) (hF : F f) (hP : P p)
    (ho : Only K F P s0 s) : Ends K F P s0 (execTvecBdec f p s) := by
  unfold execTvecBdec
  repeat' first | with_reducible assumption | exact Fits.trans (by decide +kernel) hK | exact hF | exact hP | with_reducible apply State.tvecStart_only | with_reducible apply Ends.finish | with_reducible apply Ends.next | with_reducible apply Only.ite | with_reducible apply Ends.ite | dsimp only | split | (with_reducible refine Only.fst (by with_reducible assumption) ?_) | (with_reducible refine Only.snd (by with_reducible assumption) ?_)

theorem execTvecAmax_only {K : List Part} {F : FieldId → Prop} {P : PlotId → Prop} {s0 : State} (f : FieldId) (p : PlotId) (s : State) (hK : Fits (([.events, .store, .bin, .storeErr, .binErr, .reg Reg.INJ_ARITH.ARM, .reg Reg.INJ_ARITH.DONE, .reg Reg.INJ_PT.ARM, .reg Reg.INJ_PT.DONE, .queue, .plotReg Reg.PLT_CLASS_HI.TERN_RESERVED, .plotReg Reg.PLT_CLASS_HI.UNDERFLOW, .plotReg Reg.PLT_CLASS_LO.INF_IN, .plotReg Reg.PLT_CLASS_LO.NAN_IN, .plotReg Reg.PLT_CLASS_LO.SAT_BLOCK, .plotReg Reg.PLT_CLASS_LO.SAT_RANGE] : List Part) ++ ([.plotReg Reg.PLT_QUEUE_STALL.CLAIM, .plotReg Reg.PLT_STORE_ECC.CORRECTED, .plotReg Reg.PLT_STORE_ECC.LAST_ADDR, .plotReg Reg.PLT_STORE_ECC.UNCORRECTED, .plotReg Reg.PLT_TINE_STALL.BIN_WAIT, .drift, .counts, .health] : List Part)) K) (hF : F f) (hP : P p)
    (ho : Only K F P s0 s) : Ends K F P s0 (execTvecAmax f p s) := by
  unfold execTvecAmax
  repeat' first | with_reducible assumption | exact Fits.trans (by decide +kernel) hK | exact hF | exact hP | with_reducible apply State.tvecStart_only | with_reducible apply Ends.finish | with_reducible apply Ends.next | with_reducible apply Only.ite | with_reducible apply Ends.ite | dsimp only | split | (with_reducible refine Only.fst (by with_reducible assumption) ?_) | (with_reducible refine Only.snd (by with_reducible assumption) ?_)

theorem execTvecSum_only {K : List Part} {F : FieldId → Prop} {P : PlotId → Prop} {s0 : State} (f : FieldId) (p : PlotId) (s : State) (hK : Fits (([.events, .store, .bin, .storeErr, .binErr, .reg Reg.INJ_ARITH.ARM, .reg Reg.INJ_ARITH.DONE, .reg Reg.INJ_PT.ARM, .reg Reg.INJ_PT.DONE, .queue, .plotReg Reg.PLT_CLASS_HI.TERN_RESERVED, .plotReg Reg.PLT_CLASS_HI.UNDERFLOW, .plotReg Reg.PLT_CLASS_LO.INF_IN, .plotReg Reg.PLT_CLASS_LO.NAN_IN, .plotReg Reg.PLT_CLASS_LO.SAT_BLOCK, .plotReg Reg.PLT_CLASS_LO.SAT_RANGE] : List Part) ++ ([.plotReg Reg.PLT_QUEUE_STALL.CLAIM, .plotReg Reg.PLT_STORE_ECC.CORRECTED, .plotReg Reg.PLT_STORE_ECC.LAST_ADDR, .plotReg Reg.PLT_STORE_ECC.UNCORRECTED, .plotReg Reg.PLT_TINE_STALL.BIN_WAIT, .drift, .counts, .health] : List Part)) K) (hF : F f) (hP : P p)
    (ho : Only K F P s0 s) : Ends K F P s0 (execTvecSum f p s) := by
  unfold execTvecSum
  repeat' first | with_reducible assumption | exact Fits.trans (by decide +kernel) hK | exact hF | exact hP | with_reducible apply State.tvecStart_only | with_reducible apply Ends.finish | with_reducible apply Ends.next | with_reducible apply Only.ite | with_reducible apply Ends.ite | dsimp only | split | (with_reducible refine Only.fst (by with_reducible assumption) ?_) | (with_reducible refine Only.snd (by with_reducible assumption) ?_)

theorem execTvecComplete_only {K : List Part} {F : FieldId → Prop} {P : PlotId → Prop} {s0 : State} (f : FieldId) (p : PlotId) (s : State) (hK : Fits ([.events, .queue, .cq, .plotReg Reg.PLT_CLASS_HI.TERN_RESERVED, .plotReg Reg.PLT_CLASS_HI.UNDERFLOW, .plotReg Reg.PLT_CLASS_LO.INF_IN, .plotReg Reg.PLT_CLASS_LO.NAN_IN, .plotReg Reg.PLT_CLASS_LO.SAT_BLOCK, .plotReg Reg.PLT_CLASS_LO.SAT_RANGE, .plotReg Reg.PLT_CQ_STATUS.LOST, .plotReg Reg.PLT_CQ_STATUS.OVERFLOW, .plotReg Reg.PLT_CQ_SUMMARY.CLASS_SEEN, .plotReg Reg.PLT_CQ_SUMMARY.ERR, .plotReg Reg.PLT_CQ_SUMMARY.ERR_QSN, .plotReg Reg.PLT_CQ_SUMMARY.ERR_STATUS, .drift] : List Part) K) (hF : F f) (hP : P p)
    (ho : Only K F P s0 s) : Ends K F P s0 (execTvecComplete f p s) := by
  unfold execTvecComplete
  repeat' first | with_reducible assumption | exact Fits.trans (by decide +kernel) hK | exact hF | exact hP | with_reducible apply Ends.clocked | with_reducible apply State.injClassReport_only | with_reducible apply State.complete_only | with_reducible apply Ends.finish | with_reducible apply Ends.next | with_reducible apply Only.ite | with_reducible apply Ends.ite | dsimp only | split | (with_reducible refine Only.fst (by with_reducible assumption) ?_) | (with_reducible refine Only.snd (by with_reducible assumption) ?_)

end Sys2Proof.Machine
end

