-- ==== Sys2Proof/Laws/Touch/GatewayOps.lean ====
section
/-! SUPPORT. What each operation of Machine/GatewayOps.lean can change: the parts named, and nothing else. -/

namespace Sys2Proof.Machine

set_option Elab.async false

open Sys2Proof

theorem State.lineWriteMask_only {K : List Part} {F : FieldId → Prop} {P : PlotId → Prop} {s0 : State} (s : State) (f : FieldId) (l mask : Nat) (data : List Byte) (poisoned : Bool) (src : Nat) (hK : Fits (([.events, .hbm, .hbmErr, .reg Reg.GWY_STAT.ABSORBED, .reg Reg.INJ_PT.ARM, .reg Reg.INJ_PT.DONE, .reg Reg.MEM_ECC_STAT.CORRECTED, .reg Reg.MEM_ECC_STAT.LAST_ADDR, .reg Reg.MEM_ECC_STAT.POISON_WRITES, .reg Reg.MEM_ECC_STAT.UNCORRECTED, .reg Reg.MEM_REPAIR_ENTRY.BANK, .reg Reg.MEM_REPAIR_ENTRY.CHANNEL, .reg Reg.MEM_REPAIR_ENTRY.PCH, .reg Reg.MEM_REPAIR_ENTRY.REASON, .reg Reg.MEM_REPAIR_ENTRY.RESULT, .reg Reg.MEM_REPAIR_ENTRY.ROW] : List Part) ++ ([.reg Reg.MEM_REPAIR_ENTRY.STACK, .reg Reg.MEM_REPAIR_ENTRY.VALID, .memu, .health] : List Part)) K) (hF : F f)
    (ho : Only K F P s0 s) : Only K F P s0 (State.lineWriteMask s f l mask data poisoned src).1 := by
  unfold State.lineWriteMask
  repeat' first | with_reducible assumption | exact Fits.trans (by decide +kernel) hK | exact hF | with_reducible apply State.lineRuns_only | with_reducible apply Only.ite | dsimp only | split | (with_reducible refine Only.fst (by with_reducible assumption) ?_) | (with_reducible refine Only.snd (by with_reducible assumption) ?_)

theorem State.targetWrite_only {K : List Part} {F : FieldId → Prop} {P : PlotId → Prop} {s0 : State} (s : State) (f : FieldId) (a mask : Nat) (data : List Byte) (poisoned : Bool) (src : Nat) (hK : Fits (([.events, .hbm, .store, .hbmErr, .storeErr, .reg Reg.GWY_STAT.ABSORBED, .reg Reg.INJ_PT.ARM, .reg Reg.INJ_PT.DONE, .reg Reg.MEM_ECC_STAT.CORRECTED, .reg Reg.MEM_ECC_STAT.LAST_ADDR, .reg Reg.MEM_ECC_STAT.POISON_WRITES, .reg Reg.MEM_ECC_STAT.UNCORRECTED, .reg Reg.MEM_REPAIR_ENTRY.BANK, .reg Reg.MEM_REPAIR_ENTRY.CHANNEL, .reg Reg.MEM_REPAIR_ENTRY.PCH, .reg Reg.MEM_REPAIR_ENTRY.REASON] : List Part) ++ ([.reg Reg.MEM_REPAIR_ENTRY.RESULT, .reg Reg.MEM_REPAIR_ENTRY.ROW, .reg Reg.MEM_REPAIR_ENTRY.STACK, .reg Reg.MEM_REPAIR_ENTRY.VALID, .plotReg Reg.PLT_STORE_ECC.CORRECTED, .plotReg Reg.PLT_STORE_ECC.LAST_ADDR, .plotReg Reg.PLT_STORE_ECC.UNCORRECTED, .memu, .health] : List Part)) K) (hF : F f) (hP : ∀ p, P p)
    (ho : Only K F P s0 s) : Only K F P s0 (State.targetWrite s f a mask data poisoned src).1 := by
  unfold State.targetWrite
  repeat' first | with_reducible assumption | exact Fits.trans (by decide +kernel) hK | exact hF | exact hP | exact hP _ | with_reducible apply State.lineWriteMask_only | with_reducible apply State.storePoison_only | with_reducible apply State.storeWrite_only | with_reducible apply Only.ite | dsimp only | split | (with_reducible refine Only.foldl _ _ (fun t a ht => ?_) ?_) | (with_reducible refine Only.foldl_fst _ _ _ (fun t a ht => ?_) ?_) | (with_reducible refine Only.fst (by with_reducible assumption) ?_) | (with_reducible refine Only.snd (by with_reducible assumption) ?_)

theorem State.targetRead_only {K : List Part} {F : FieldId → Prop} {P : PlotId → Prop} {s0 : State} (s : State) (f : FieldId) (a src : Nat) (hK : Fits (([.events, .hbmErr, .storeErr, .reg Reg.INJ_PT.ARM, .reg Reg.INJ_PT.DONE, .reg Reg.MEM_ECC_STAT.CORRECTED, .reg Reg.MEM_ECC_STAT.LAST_ADDR, .reg Reg.MEM_ECC_STAT.UNCORRECTED, .reg Reg.MEM_REPAIR_ENTRY.BANK, .reg Reg.MEM_REPAIR_ENTRY.CHANNEL, .reg Reg.MEM_REPAIR_ENTRY.PCH, .reg Reg.MEM_REPAIR_ENTRY.REASON, .reg Reg.MEM_REPAIR_ENTRY.RESULT, .reg Reg.MEM_REPAIR_ENTRY.ROW, .reg Reg.MEM_REPAIR_ENTRY.STACK, .reg Reg.MEM_REPAIR_ENTRY.VALID] : List Part) ++ ([.plotReg Reg.PLT_STORE_ECC.CORRECTED, .plotReg Reg.PLT_STORE_ECC.LAST_ADDR, .plotReg Reg.PLT_STORE_ECC.UNCORRECTED, .memu, .health] : List Part)) K) (hF : F f) (hP : ∀ p, P p)
    (ho : Only K F P s0 s) : Only K F P s0 (State.targetRead s f a src).1 := by
  unfold State.targetRead
  repeat' first | with_reducible assumption | exact Fits.trans (by decide +kernel) hK | exact hF | exact hP | exact hP _ | with_reducible apply State.lineRead_only | with_reducible apply State.storeRead_only | with_reducible apply Only.ite | dsimp only | split | (with_reducible refine Only.fst (by with_reducible assumption) ?_) | (with_reducible refine Only.snd (by with_reducible assumption) ?_)

theorem State.setRowsPoison_only {K : List Part} {F : FieldId → Prop} {P : PlotId → Prop} {s0 : State} (s : State) (f : FieldId) (p : PlotId) (rows : List Nat) (b : Bool) (hK : Fits ([.binErr] : List Part) K) (hF : F f)
    (ho : Only K F P s0 s) : Only K F P s0 (State.setRowsPoison s f p rows b) := by
  unfold State.setRowsPoison
  repeat' first | with_reducible assumption | exact Fits.trans (by decide +kernel) hK | exact hF | with_reducible apply State.setBinPoison_only | with_reducible apply Only.ite | dsimp only | split | (with_reducible refine Only.foldl _ _ (fun t a ht => ?_) ?_) | (with_reducible refine Only.foldl_fst _ _ _ (fun t a ht => ?_) ?_) | (with_reducible refine Only.fst (by with_reducible assumption) ?_) | (with_reducible refine Only.snd (by with_reducible assumption) ?_)

theorem State.localWriteLine_only {K : List Part} {F : FieldId → Prop} {P : PlotId → Prop} {s0 : State} (s : State) (f : FieldId) (p : PlotId) (a : Nat) (data : List Byte) (poisoned : Bool) (hK : Fits ([.events, .store, .bin, .storeErr, .binErr, .reg Reg.INJ_ARITH.ARM, .reg Reg.INJ_ARITH.DONE, .plotReg Reg.PLT_STORE_ECC.CORRECTED, .plotReg Reg.PLT_STORE_ECC.LAST_ADDR, .plotReg Reg.PLT_STORE_ECC.UNCORRECTED, .health] : List Part) K) (hF : F f) (hP : P p)
    (ho : Only K F P s0 s) : Only K F P s0 (State.localWriteLine s f p a data poisoned) := by
  unfold State.localWriteLine
  repeat' first | with_reducible assumption | exact Fits.trans (by decide +kernel) hK | exact hF | exact hP | with_reducible apply State.storePoison_only | with_reducible apply State.storeWrite_only | with_reducible apply State.setRowsPoison_only | with_reducible apply State.binWriteRun_only | with_reducible apply Only.ite | dsimp only | split | (with_reducible refine Only.fst (by with_reducible assumption) ?_) | (with_reducible refine Only.snd (by with_reducible assumption) ?_)

theorem State.localWriteOld_only {K : List Part} {F : FieldId → Prop} {P : PlotId → Prop} {s0 : State} (s : State) (f : FieldId) (p : PlotId) (a n v : Nat) (poisoned : Bool) (hK : Fits ([.events, .store, .bin, .storeErr, .binErr, .reg Reg.INJ_ARITH.ARM, .reg Reg.INJ_ARITH.DONE, .plotReg Reg.PLT_STORE_ECC.CORRECTED, .plotReg Reg.PLT_STORE_ECC.LAST_ADDR, .plotReg Reg.PLT_STORE_ECC.UNCORRECTED, .health] : List Part) K) (hF : F f) (hP : P p)
    (ho : Only K F P s0 s) : Only K F P s0 (State.localWriteOld s f p a n v poisoned) := by
  unfold State.localWriteOld
  repeat' first | with_reducible assumption | exact Fits.trans (by decide +kernel) hK | exact hF | exact hP | with_reducible apply State.storePoison_only | with_reducible apply State.storeWrite_only | with_reducible apply State.setBinPoison_only | with_reducible apply State.binWriteRun_only | with_reducible apply Only.ite | dsimp only | split | (with_reducible refine Only.fst (by with_reducible assumption) ?_) | (with_reducible refine Only.snd (by with_reducible assumption) ?_)

theorem State.localReadLine_only {K : List Part} {F : FieldId → Prop} {P : PlotId → Prop} {s0 : State} (s : State) (f : FieldId) (p : PlotId) (a : Nat) (hK : Fits ([.events, .storeErr, .binErr, .reg Reg.INJ_PT.ARM, .reg Reg.INJ_PT.DONE, .plotReg Reg.PLT_STORE_ECC.CORRECTED, .plotReg Reg.PLT_STORE_ECC.LAST_ADDR, .plotReg Reg.PLT_STORE_ECC.UNCORRECTED, .counts, .health] : List Part) K) (hF : F f) (hP : P p)
    (ho : Only K F P s0 s) : Only K F P s0 (State.localReadLine s f p a).1 := by
  unfold State.localReadLine
  repeat' first | with_reducible assumption | exact Fits.trans (by decide +kernel) hK | exact hF | exact hP | with_reducible apply State.storeRead_only | with_reducible apply State.binReadRun_only | with_reducible apply Only.ite | dsimp only | split | (with_reducible refine Only.fst (by with_reducible assumption) ?_) | (with_reducible refine Only.snd (by with_reducible assumption) ?_)

theorem State.updGw_only {K : List Part} {F : FieldId → Prop} {P : PlotId → Prop} {s0 : State} (s : State) (f : FieldId) (g : GatewayUnit → GatewayUnit) (hK : Fits ([.gateway] : List Part) K) (hF : F f)
    (ho : Only K F P s0 s) : Only K F P s0 (State.updGw s f g) := by
  unfold State.updGw
  repeat' first | with_reducible assumption | exact Fits.trans (by decide +kernel) hK | exact hF | with_reducible apply State.updField_only | (refine fun (X : Field) => ?_) | with_reducible apply FieldOnly.setReg | with_reducible exact FieldOnly.refl _ _ _ | with_reducible apply FieldOnly.updPlot | with_reducible apply FieldOnly.ite | (refine FieldOnly.keep rfl rfl (fun k hk => ?_); cases k <;> first | exact trivial | exact rfl | exact ⟨rfl, rfl⟩ | exact ⟨rfl, rfl, rfl⟩ | exact (Fits.not hK hk rfl).elim) | with_reducible apply Only.ite | dsimp only | split | (with_reducible refine Only.fst (by with_reducible assumption) ?_) | (with_reducible refine Only.snd (by with_reducible assumption) ?_)

theorem State.setFlowTx_only {K : List Part} {F : FieldId → Prop} {P : PlotId → Prop} {s0 : State} (s : State) (f : FieldId) (node : Nat) (r : FlowTx) (hK : Fits ([.gateway] : List Part) K) (hF : F f)
    (ho : Only K F P s0 s) : Only K F P s0 (State.setFlowTx s f node r) := by
  unfold State.setFlowTx
  repeat' first | with_reducible assumption | exact Fits.trans (by decide +kernel) hK | exact hF | with_reducible apply State.updGw_only | with_reducible apply Only.ite | dsimp only | split | (with_reducible refine Only.fst (by with_reducible assumption) ?_) | (with_reducible refine Only.snd (by with_reducible assumption) ?_)

theorem State.setFlowRx_only {K : List Part} {F : FieldId → Prop} {P : PlotId → Prop} {s0 : State} (s : State) (f : FieldId) (node : Nat) (r : FlowRx) (hK : Fits ([.gateway] : List Part) K) (hF : F f)
    (ho : Only K F P s0 s) : Only K F P s0 (State.setFlowRx s f node r) := by
  unfold State.setFlowRx
  repeat' first | with_reducible assumption | exact Fits.trans (by decide +kernel) hK | exact hF | with_reducible apply State.updGw_only | with_reducible apply Only.ite | dsimp only | split | (with_reducible refine Only.fst (by with_reducible assumption) ?_) | (with_reducible refine Only.snd (by with_reducible assumption) ?_)

theorem State.issuePacket_only {K : List Part} {F : FieldId → Prop} {P : PlotId → Prop} {s0 : State} (s : State) (f : FieldId) (vc : Nat) (p : Packet) (hK : Fits ([.router] : List Part) K) (hF : F f)
    (ho : Only K F P s0 s) : Only K F P s0 (State.issuePacket s f vc p) := by
  unfold State.issuePacket
  repeat' first | with_reducible assumption | exact Fits.trans (by decide +kernel) hK | exact hF | with_reducible apply State.updRouter_only | with_reducible apply Only.ite | dsimp only | split | (with_reducible refine Only.fst (by with_reducible assumption) ?_) | (with_reducible refine Only.snd (by with_reducible assumption) ?_)

theorem State.gwSend_only {K : List Part} {F : FieldId → Prop} {P : PlotId → Prop} {s0 : State} (s : State) (f : FieldId) (l : GwLine) (p : Packet) (hK : Fits ([.reg Reg.INJ_PT.ARM, .reg Reg.INJ_PT.DONE, .router, .gateway] : List Part) K) (hF : F f)
    (ho : Only K F P s0 s) : Only K F P s0 (State.gwSend s f l p) := by
  unfold State.gwSend
  repeat' first | with_reducible assumption | exact Fits.trans (by decide +kernel) hK | exact hF | with_reducible apply State.injFire_only | with_reducible apply State.updGw_only | with_reducible apply State.issuePacket_only | with_reducible apply Only.ite | dsimp only | split | (with_reducible refine Only.fst (by with_reducible assumption) ?_) | (with_reducible refine Only.snd (by with_reducible assumption) ?_)

theorem State.gwEnqueue_only {K : List Part} {F : FieldId → Prop} {P : PlotId → Prop} {s0 : State} (s : State) (f : FieldId) (l : GwLine) (hK : Fits ([.reg Reg.INJ_PT.ARM, .reg Reg.INJ_PT.DONE, .router, .gateway] : List Part) K) (hF : F f)
    (ho : Only K F P s0 s) : Only K F P s0 (State.gwEnqueue s f l) := by
  unfold State.gwEnqueue
  repeat' first | with_reducible assumption | exact Fits.trans (by decide +kernel) hK | exact hF | with_reducible apply State.updGw_only | with_reducible apply State.setFlowTx_only | with_reducible apply State.gwSend_only | with_reducible apply Only.ite | dsimp only | split | (with_reducible refine Only.fst (by with_reducible assumption) ?_) | (with_reducible refine Only.snd (by with_reducible assumption) ?_)

theorem State.gwAccept_only {K : List Part} {F : FieldId → Prop} {P : PlotId → Prop} {s0 : State} (s : State) (f : FieldId) (l : GwLine) (hK : Fits ([.reg Reg.INJ_PT.ARM, .reg Reg.INJ_PT.DONE, .router, .gateway] : List Part) K) (hF : F f)
    (ho : Only K F P s0 s) : Only K F P s0 (State.gwAccept s f l) := by
  unfold State.gwAccept
  repeat' first | with_reducible assumption | exact Fits.trans (by decide +kernel) hK | exact hF | with_reducible apply State.updGw_only | with_reducible apply State.gwEnqueue_only | with_reducible apply Only.ite | dsimp only | split | (with_reducible refine Only.fst (by with_reducible assumption) ?_) | (with_reducible refine Only.snd (by with_reducible assumption) ?_)

theorem State.xferDone_only {K : List Part} {F : FieldId → Prop} {P : PlotId → Prop} {s0 : State} (s : State) (f : FieldId) (p : PlotId) (qsn line status : Nat) (hK : Fits ([.queue] : List Part) K) (hF : F f) (hP : P p)
    (ho : Only K F P s0 s) : Only K F P s0 (State.xferDone s f p qsn line status) := by
  unfold State.xferDone
  repeat' first | with_reducible assumption | exact Fits.trans (by decide +kernel) hK | exact hF | exact hP | with_reducible apply State.updEntry_only | with_reducible apply Only.ite | dsimp only | split | (with_reducible refine Only.fst (by with_reducible assumption) ?_) | (with_reducible refine Only.snd (by with_reducible assumption) ?_)

theorem State.lineFinish_only {K : List Part} {F : FieldId → Prop} {P : PlotId → Prop} {s0 : State} (s : State) (f : FieldId) (l : GwLine) (status : Nat) (hK : Fits ([.queue, .gateway] : List Part) K) (hF : F f) (hP : ∀ p, P p)
    (ho : Only K F P s0 s) : Only K F P s0 (State.lineFinish s f l status) := by
  unfold State.lineFinish
  generalize l.owner = o
  cases o
  all_goals
    dsimp only
    repeat' first | with_reducible assumption | exact Fits.trans (by decide +kernel) hK | exact hF | exact hP | exact hP _ | with_reducible apply State.updGw_only | with_reducible apply State.xferDone_only | with_reducible apply Only.ite | dsimp only | split | (with_reducible refine Only.fst (by with_reducible assumption) ?_) | (with_reducible refine Only.snd (by with_reducible assumption) ?_)

theorem State.lineLocal_only {K : List Part} {F : FieldId → Prop} {P : PlotId → Prop} {s0 : State} (s : State) (f : FieldId) (l : GwLine) (data : List Byte) (old : Nat) (poisoned : Bool) (hK : Fits ([.events, .store, .bin, .storeErr, .binErr, .reg Reg.INJ_ARITH.ARM, .reg Reg.INJ_ARITH.DONE, .plotReg Reg.PLT_STORE_ECC.CORRECTED, .plotReg Reg.PLT_STORE_ECC.LAST_ADDR, .plotReg Reg.PLT_STORE_ECC.UNCORRECTED, .health] : List Part) K) (hF : F f) (hP : ∀ p, P p)
    (ho : Only K F P s0 s) : Only K F P s0 (State.lineLocal s f l data old poisoned) := by
  unfold State.lineLocal
  repeat' first | with_reducible assumption | exact Fits.trans (by decide +kernel) hK | exact hF | exact hP | exact hP _ | with_reducible apply State.localWriteLine_only | with_reducible apply State.localWriteOld_only | with_reducible apply Only.ite | dsimp only | split | (with_reducible refine Only.fst (by with_reducible assumption) ?_) | (with_reducible refine Only.snd (by with_reducible assumption) ?_)

theorem State.fenceAnswer_only {K : List Part} {F : FieldId → Prop} {P : PlotId → Prop} {s0 : State} (s : State) (f : FieldId) (x : Fence) (hK : Fits ([.queue, .gateway] : List Part) K) (hF : F f) (hP : ∀ p, P p)
    (ho : Only K F P s0 s) : Only K F P s0 (State.fenceAnswer s f x) := by
  unfold State.fenceAnswer
  repeat' first | with_reducible assumption | exact Fits.trans (by decide +kernel) hK | exact hF | exact hP | exact hP _ | with_reducible apply State.updEntry_only | with_reducible apply State.updGw_only | with_reducible apply Only.ite | dsimp only | split | (with_reducible refine Only.fst (by with_reducible assumption) ?_) | (with_reducible refine Only.snd (by with_reducible assumption) ?_)

theorem State.fenceFlush_only {K : List Part} {F : FieldId → Prop} {P : PlotId → Prop} {s0 : State} (s : State) (f : FieldId) (x : Fence) (hK : Fits ([.reg Reg.INJ_PT.ARM, .reg Reg.INJ_PT.DONE, .router, .gateway] : List Part) K) (hF : F f)
    (ho : Only K F P s0 s) : Only K F P s0 (State.fenceFlush s f x) := by
  unfold State.fenceFlush
  repeat' first | with_reducible assumption | exact Fits.trans (by decide +kernel) hK | exact hF | with_reducible apply State.updGw_only | with_reducible apply State.gwEnqueue_only | with_reducible apply Only.ite | dsimp only | split | (with_reducible refine Only.foldl _ _ (fun t a ht => ?_) ?_) | (with_reducible refine Only.foldl_fst _ _ _ (fun t a ht => ?_) ?_) | (with_reducible refine Only.fst (by with_reducible assumption) ?_) | (with_reducible refine Only.snd (by with_reducible assumption) ?_)

theorem State.fenceStep_only {K : List Part} {F : FieldId → Prop} {P : PlotId → Prop} {s0 : State} (s : State) (f : FieldId) (p : PlotId) (qsn : Nat) (hK : Fits ([.reg Reg.INJ_PT.ARM, .reg Reg.INJ_PT.DONE, .queue, .router, .gateway] : List Part) K) (hF : F f) (hP : ∀ p, P p)
    (ho : Only K F P s0 s) : Only K F P s0 (State.fenceStep s f p qsn) := by
  unfold State.fenceStep
  repeat' first | with_reducible assumption | exact Fits.trans (by decide +kernel) hK | exact hF | exact hP | exact hP _ | with_reducible apply State.fenceFlush_only | with_reducible apply State.fenceAnswer_only | with_reducible apply Only.ite | dsimp only | split | (with_reducible refine Only.fst (by with_reducible assumption) ?_) | (with_reducible refine Only.snd (by with_reducible assumption) ?_)

theorem State.fencesStep_only {K : List Part} {F : FieldId → Prop} {P : PlotId → Prop} {s0 : State} (s : State) (f : FieldId) (hK : Fits ([.reg Reg.INJ_PT.ARM, .reg Reg.INJ_PT.DONE, .queue, .router, .gateway] : List Part) K) (hF : F f) (hP : ∀ p, P p)
    (ho : Only K F P s0 s) : Only K F P s0 (State.fencesStep s f) := by
  unfold State.fencesStep
  repeat' first | with_reducible assumption | exact Fits.trans (by decide +kernel) hK | exact hF | exact hP | exact hP _ | with_reducible apply State.fenceStep_only | with_reducible apply Only.ite | dsimp only | split | (with_reducible refine Only.foldl _ _ (fun t a ht => ?_) ?_) | (with_reducible refine Only.foldl_fst _ _ _ (fun t a ht => ?_) ?_) | (with_reducible refine Only.fst (by with_reducible assumption) ?_) | (with_reducible refine Only.snd (by with_reducible assumption) ?_)

theorem State.flowBreak_only {K : List Part} {F : FieldId → Prop} {P : PlotId → Prop} {s0 : State} (s : State) (f : FieldId) (node firstSeq : Nat) (hK : Fits ([.events, .reg Reg.GWY_STAT.UNREACHABLE, .queue, .lastRaise, .gateway] : List Part) K) (hF : F f) (hP : ∀ p, P p)
    (ho : Only K F P s0 s) : Only K F P s0 (State.flowBreak s f node firstSeq) := by
  unfold State.flowBreak
  repeat' first | with_reducible assumption | exact Fits.trans (by decide +kernel) hK | exact hF | exact hP | exact hP _ | with_reducible apply State.setFlowTx_only | with_reducible apply State.lineFinish_only | with_reducible apply State.updGw_only | with_reducible apply State.fcount_only | with_reducible apply State.raiseLimited_only | with_reducible apply Only.ite | dsimp only | split | (with_reducible refine Only.foldl _ _ (fun t a ht => ?_) ?_) | (with_reducible refine Only.foldl_fst _ _ _ (fun t a ht => ?_) ?_) | (with_reducible refine Only.fst (by with_reducible assumption) ?_) | (with_reducible refine Only.snd (by with_reducible assumption) ?_)

end Sys2Proof.Machine
end

