-- ==== Sys2Proof/Laws/Touch/LinkOps.lean ====
section
/-! SUPPORT. What each operation of Machine/LinkOps.lean can change: the parts named, and nothing else. -/

namespace Sys2Proof.Machine

set_option Elab.async false

open Sys2Proof

theorem State.idleFor_only {K : List Part} {F : FieldId → Prop} {P : PlotId → Prop} {s0 : State} (s : State) (f : FieldId) (n : PortId) (ns : Nat) (hK : Fits ([.events, .out, .reg Reg.INJ_PT.ARM, .reg Reg.INJ_PT.DONE, .reg Reg.RTE_COMB_STAT.MERGED, .reg Reg.RTE_COMB_STAT.PEAK, .reg Reg.RTE_LINK_CNT.NAKS, .reg Reg.RTE_LINK_CNT.REPLAYED, .reg Reg.RTE_LINK_CNT.TX_FLITS, .reg Reg.RTE_LINK_CREDIT.RES, .reg Reg.RTE_LINK_CREDIT.SHARED, .ports, .router, .tally] : List Part) K) (hF : F f)
    (ho : Only K F P s0 s) : Only K F P s0 (State.idleFor s f n ns) := by
  unfold State.idleFor
  repeat' first | with_reducible assumption | exact Fits.trans (by decide +kernel) hK | exact hF | with_reducible apply State.groupOut_only | with_reducible apply State.emit_only | with_reducible apply State.updPort_only | with_reducible apply Only.ite | dsimp only | split | (with_reducible refine Only.foldl _ _ (fun t a ht => ?_) ?_) | (with_reducible refine Only.foldl_fst _ _ _ (fun t a ht => ?_) ?_) | (with_reducible refine Only.fst (by with_reducible assumption) ?_) | (with_reducible refine Only.snd (by with_reducible assumption) ?_)

theorem State.laneOut_only {K : List Part} {F : FieldId → Prop} {P : PlotId → Prop} {s0 : State} (s : State) (f : FieldId) (n : PortId) (m : Nat × Nat) (hK : Fits ([.events, .out, .reg Reg.INJ_PT.ARM, .reg Reg.INJ_PT.DONE, .reg Reg.RTE_COMB_STAT.MERGED, .reg Reg.RTE_COMB_STAT.PEAK, .reg Reg.RTE_LINK_CNT.NAKS, .reg Reg.RTE_LINK_CNT.REPLAYED, .reg Reg.RTE_LINK_CNT.TX_FLITS, .reg Reg.RTE_LINK_CREDIT.RES, .reg Reg.RTE_LINK_CREDIT.SHARED, .ports, .router, .tally] : List Part) K) (hF : F f)
    (ho : Only K F P s0 s) : Only K F P s0 (State.laneOut s f n m) := by
  unfold State.laneOut
  repeat' first | with_reducible assumption | exact Fits.trans (by decide +kernel) hK | exact hF | with_reducible apply State.updPort_only | with_reducible apply State.groupOut_only | with_reducible apply State.emit_only | with_reducible apply Only.ite | dsimp only | split | (with_reducible refine Only.foldl _ _ (fun t a ht => ?_) ?_) | (with_reducible refine Only.foldl_fst _ _ _ (fun t a ht => ?_) ?_) | (with_reducible refine Only.fst (by with_reducible assumption) ?_) | (with_reducible refine Only.snd (by with_reducible assumption) ?_)

theorem State.laneSend_only {K : List Part} {F : FieldId → Prop} {P : PlotId → Prop} {s0 : State} (s : State) (f : FieldId) (n : PortId) (ty arg : Nat) (hK : Fits ([.events, .out, .reg Reg.INJ_PT.ARM, .reg Reg.INJ_PT.DONE, .reg Reg.RTE_COMB_STAT.MERGED, .reg Reg.RTE_COMB_STAT.PEAK, .reg Reg.RTE_LINK_CNT.NAKS, .reg Reg.RTE_LINK_CNT.REPLAYED, .reg Reg.RTE_LINK_CNT.TX_FLITS, .reg Reg.RTE_LINK_CREDIT.RES, .reg Reg.RTE_LINK_CREDIT.SHARED, .ports, .router, .tally] : List Part) K) (hF : F f)
    (ho : Only K F P s0 s) : Only K F P s0 (State.laneSend s f n ty arg) := by
  unfold State.laneSend
  repeat' first | with_reducible assumption | exact Fits.trans (by decide +kernel) hK | exact hF | with_reducible apply State.updPort_only | with_reducible apply State.laneOut_only | with_reducible apply Only.ite | dsimp only | split | (with_reducible refine Only.fst (by with_reducible assumption) ?_) | (with_reducible refine Only.snd (by with_reducible assumption) ?_)

theorem State.changeSend_only {K : List Part} {F : FieldId → Prop} {P : PlotId → Prop} {s0 : State} (s : State) (f : FieldId) (n : PortId) (ty arg : Nat) (hK : Fits ([.events, .out, .reg Reg.INJ_PT.ARM, .reg Reg.INJ_PT.DONE, .reg Reg.RTE_COMB_STAT.MERGED, .reg Reg.RTE_COMB_STAT.PEAK, .reg Reg.RTE_LINK_CNT.NAKS, .reg Reg.RTE_LINK_CNT.REPLAYED, .reg Reg.RTE_LINK_CNT.TX_FLITS, .reg Reg.RTE_LINK_CREDIT.RES, .reg Reg.RTE_LINK_CREDIT.SHARED, .ports, .router, .tally] : List Part) K) (hF : F f)
    (ho : Only K F P s0 s) : Only K F P s0 (State.changeSend s f n ty arg) := by
  unfold State.changeSend
  repeat' first | with_reducible assumption | exact Fits.trans (by decide +kernel) hK | exact hF | with_reducible apply State.laneSend_only | with_reducible apply Only.ite | dsimp only | split | (with_reducible refine Only.fst (by with_reducible assumption) ?_) | (with_reducible refine Only.snd (by with_reducible assumption) ?_)

theorem State.laneFlush_only {K : List Part} {F : FieldId → Prop} {P : PlotId → Prop} {s0 : State} (s : State) (f : FieldId) (n : PortId) (hK : Fits ([.events, .out, .reg Reg.INJ_PT.ARM, .reg Reg.INJ_PT.DONE, .reg Reg.RTE_COMB_STAT.MERGED, .reg Reg.RTE_COMB_STAT.PEAK, .reg Reg.RTE_LINK_CNT.NAKS, .reg Reg.RTE_LINK_CNT.REPLAYED, .reg Reg.RTE_LINK_CNT.TX_FLITS, .reg Reg.RTE_LINK_CREDIT.RES, .reg Reg.RTE_LINK_CREDIT.SHARED, .ports, .router, .tally] : List Part) K) (hF : F f)
    (ho : Only K F P s0 s) : Only K F P s0 (State.laneFlush s f n) := by
  unfold State.laneFlush
  repeat' first | with_reducible assumption | exact Fits.trans (by decide +kernel) hK | exact hF | with_reducible apply State.laneOut_only | with_reducible apply State.updPort_only | with_reducible apply Only.ite | dsimp only | split | (with_reducible refine Only.foldl _ _ (fun t a ht => ?_) ?_) | (with_reducible refine Only.foldl_fst _ _ _ (fun t a ht => ?_) ?_) | (with_reducible refine Only.fst (by with_reducible assumption) ?_) | (with_reducible refine Only.snd (by with_reducible assumption) ?_)

theorem State.laneActs_only {K : List Part} {F : FieldId → Prop} {P : PlotId → Prop} {s0 : State} (s : State) (f : FieldId) (n : PortId) (acts : List LaneAct) (failed : Bool) (hK : Fits ([.events, .out, .reg Reg.INJ_PT.ARM, .reg Reg.INJ_PT.DONE, .reg Reg.RTE_COMB_STAT.MERGED, .reg Reg.RTE_COMB_STAT.PEAK, .reg Reg.RTE_LINK_CNT.NAKS, .reg Reg.RTE_LINK_CNT.REPLAYED, .reg Reg.RTE_LINK_CNT.TX_FLITS, .reg Reg.RTE_LINK_CREDIT.RES, .reg Reg.RTE_LINK_CREDIT.SHARED, .ports, .router, .tally] : List Part) K) (hF : F f)
    (ho : Only K F P s0 s) : Only K F P s0 (State.laneActs s f n acts failed) := by
  unfold State.laneActs
  repeat' first | with_reducible assumption | exact Fits.trans (by decide +kernel) hK | exact hF | with_reducible apply State.changeSend_only | with_reducible apply State.laneSend_only | with_reducible apply Only.ite | dsimp only | split | (with_reducible refine Only.foldl _ _ (fun t a ht => ?_) ?_) | (with_reducible refine Only.foldl_fst _ _ _ (fun t a ht => ?_) ?_) | (with_reducible refine Only.fst (by with_reducible assumption) ?_) | (with_reducible refine Only.snd (by with_reducible assumption) ?_)

theorem State.setTx_only {K : List Part} {F : FieldId → Prop} {P : PlotId → Prop} {s0 : State} (s : State) (f : FieldId) (n : PortId) (d : LaneTx) (hK : Fits ([.ports] : List Part) K) (hF : F f)
    (ho : Only K F P s0 s) : Only K F P s0 (State.setTx s f n d) := by
  unfold State.setTx
  repeat' first | with_reducible assumption | exact Fits.trans (by decide +kernel) hK | exact hF | with_reducible apply State.updPort_only | with_reducible apply Only.ite | dsimp only | split | (with_reducible refine Only.fst (by with_reducible assumption) ?_) | (with_reducible refine Only.snd (by with_reducible assumption) ?_)

theorem State.setRx_only {K : List Part} {F : FieldId → Prop} {P : PlotId → Prop} {s0 : State} (s : State) (f : FieldId) (n : PortId) (d : LaneRx) (hK : Fits ([.ports] : List Part) K) (hF : F f)
    (ho : Only K F P s0 s) : Only K F P s0 (State.setRx s f n d) := by
  unfold State.setRx
  repeat' first | with_reducible assumption | exact Fits.trans (by decide +kernel) hK | exact hF | with_reducible apply State.updPort_only | with_reducible apply Only.ite | dsimp only | split | (with_reducible refine Only.fst (by with_reducible assumption) ?_) | (with_reducible refine Only.snd (by with_reducible assumption) ?_)

theorem State.linkSet_only {K : List Part} {F : FieldId → Prop} {P : PlotId → Prop} {s0 : State} (s : State) (f : FieldId) (n : PortId) (new result : Nat) (injected : Bool) (hK : Fits ([.events, .out, .reg Reg.INJ_PT.ARM, .reg Reg.INJ_PT.DONE, .reg Reg.RTE_COMB_STAT.MERGED, .reg Reg.RTE_COMB_STAT.PEAK, .reg Reg.RTE_LINK_CNT.NAKS, .reg Reg.RTE_LINK_CNT.REPLAYED, .reg Reg.RTE_LINK_CNT.TX_FLITS, .reg Reg.RTE_LINK_CREDIT.RES, .reg Reg.RTE_LINK_CREDIT.SHARED, .reg Reg.RTE_LINK_STATUS.RESULT, .reg Reg.RTE_LINK_STATUS.STATE, .ports, .router, .tally] : List Part) K) (hF : F f)
    (ho : Only K F P s0 s) : Only K F P s0 (State.linkSet s f n new result injected) := by
  unfold State.linkSet
  repeat' first | with_reducible assumption | exact Fits.trans (by decide +kernel) hK | exact hF | with_reducible apply State.flitsEnd_only | with_reducible apply State.fset_only | with_reducible apply State.raise_only | with_reducible apply Only.ite | dsimp only | split | (with_reducible refine Only.fst (by with_reducible assumption) ?_) | (with_reducible refine Only.snd (by with_reducible assumption) ?_)

theorem State.protoErr_only {K : List Part} {F : FieldId → Prop} {P : PlotId → Prop} {s0 : State} (s : State) (f : FieldId) (n : PortId) (kind : Nat) (hK : Fits ([.events, .reg Reg.RTE_LINK_CNT.PROTO_ERR, .lastRaise] : List Part) K) (hF : F f)
    (ho : Only K F P s0 s) : Only K F P s0 (State.protoErr s f n kind) := by
  unfold State.protoErr
  repeat' first | with_reducible assumption | exact Fits.trans (by decide +kernel) hK | exact hF | with_reducible apply State.raiseLimited_only | with_reducible apply State.fcount_only | with_reducible apply Only.ite | dsimp only | split | (with_reducible refine Only.fst (by with_reducible assumption) ?_) | (with_reducible refine Only.snd (by with_reducible assumption) ?_)

theorem State.linkZero_only {K : List Part} {F : FieldId → Prop} {P : PlotId → Prop} {s0 : State} (s : State) (f : FieldId) (n : PortId) (hK : Fits ([.reg Reg.RTE_LINK_CREDIT.RES, .reg Reg.RTE_LINK_CREDIT.SHARED, .ports] : List Part) K) (hF : F f)
    (ho : Only K F P s0 s) : Only K F P s0 (State.linkZero s f n) := by
  unfold State.linkZero
  repeat' first | with_reducible assumption | exact Fits.trans (by decide +kernel) hK | exact hF | with_reducible apply State.fset_only | with_reducible apply State.updPort_only | with_reducible apply Only.ite | dsimp only | split | (with_reducible refine Only.foldl _ _ (fun t a ht => ?_) ?_) | (with_reducible refine Only.foldl_fst _ _ _ (fun t a ht => ?_) ?_) | (with_reducible refine Only.fst (by with_reducible assumption) ?_) | (with_reducible refine Only.snd (by with_reducible assumption) ?_)

theorem State.linkDown_only {K : List Part} {F : FieldId → Prop} {P : PlotId → Prop} {s0 : State} (s : State) (f : FieldId) (n : PortId) (injected : Bool) (hK : Fits ([.events, .out, .reg Reg.INJ_PT.ARM, .reg Reg.INJ_PT.DONE, .reg Reg.RTE_COMB_STAT.MERGED, .reg Reg.RTE_COMB_STAT.PEAK, .reg Reg.RTE_LINK_CNT.LOST, .reg Reg.RTE_LINK_CNT.NAKS, .reg Reg.RTE_LINK_CNT.REPLAYED, .reg Reg.RTE_LINK_CNT.TX_FLITS, .reg Reg.RTE_LINK_CREDIT.RES, .reg Reg.RTE_LINK_CREDIT.SHARED, .reg Reg.RTE_LINK_STATUS.PRESERVED, .ports, .router, .tally] : List Part) K) (hF : F f)
    (ho : Only K F P s0 s) : Only K F P s0 (State.linkDown s f n injected) := by
  unfold State.linkDown
  repeat' first | with_reducible assumption | exact Fits.trans (by decide +kernel) hK | exact hF | with_reducible apply State.flitsEnd_only | with_reducible apply State.linkZero_only | with_reducible apply State.fcount_only | with_reducible apply State.fset_only | with_reducible apply State.raise_only | with_reducible apply State.updPort_only | with_reducible apply Only.ite | dsimp only | split | (with_reducible refine Only.fst (by with_reducible assumption) ?_) | (with_reducible refine Only.snd (by with_reducible assumption) ?_)

theorem State.linkLock_only {K : List Part} {F : FieldId → Prop} {P : PlotId → Prop} {s0 : State} (s : State) (f : FieldId) (n : PortId) (result : Nat) (injected : Bool) (hK : Fits ([.events, .out, .reg Reg.INJ_PT.ARM, .reg Reg.INJ_PT.DONE, .reg Reg.RTE_COMB_STAT.MERGED, .reg Reg.RTE_COMB_STAT.PEAK, .reg Reg.RTE_LINK_CNT.NAKS, .reg Reg.RTE_LINK_CNT.REPLAYED, .reg Reg.RTE_LINK_CNT.TX_FLITS, .reg Reg.RTE_LINK_CREDIT.RES, .reg Reg.RTE_LINK_CREDIT.SHARED, .reg Reg.RTE_LINK_STATUS.RESULT, .reg Reg.RTE_LINK_STATUS.STATE, .ports, .router, .tally] : List Part) K) (hF : F f)
    (ho : Only K F P s0 s) : Only K F P s0 (State.linkLock s f n result injected) := by
  unfold State.linkLock
  repeat' first | with_reducible assumption | exact Fits.trans (by decide +kernel) hK | exact hF | with_reducible apply State.linkSet_only | with_reducible apply State.updPort_only | with_reducible apply Only.ite | dsimp only | split | (with_reducible refine Only.fst (by with_reducible assumption) ?_) | (with_reducible refine Only.snd (by with_reducible assumption) ?_)

theorem State.linkLocked_only {K : List Part} {F : FieldId → Prop} {P : PlotId → Prop} {s0 : State} (s : State) (f : FieldId) (n : PortId) (hK : Fits ([.events, .out, .reg Reg.INJ_PT.ARM, .reg Reg.INJ_PT.DONE, .reg Reg.RTE_COMB_STAT.MERGED, .reg Reg.RTE_COMB_STAT.PEAK, .reg Reg.RTE_LINK_CNT.NAKS, .reg Reg.RTE_LINK_CNT.REPLAYED, .reg Reg.RTE_LINK_CNT.TX_FLITS, .reg Reg.RTE_LINK_CREDIT.RES, .reg Reg.RTE_LINK_CREDIT.SHARED, .reg Reg.RTE_LINK_STATUS.RESULT, .reg Reg.RTE_LINK_STATUS.STATE, .ports, .router, .tally] : List Part) K) (hF : F f)
    (ho : Only K F P s0 s) : Only K F P s0 (State.linkLocked s f n) := by
  unfold State.linkLocked
  repeat' first | with_reducible assumption | exact Fits.trans (by decide +kernel) hK | exact hF | with_reducible apply State.linkSet_only | with_reducible apply Only.ite | dsimp only | split | (with_reducible refine Only.fst (by with_reducible assumption) ?_) | (with_reducible refine Only.snd (by with_reducible assumption) ?_)

theorem State.linkStart_only {K : List Part} {F : FieldId → Prop} {P : PlotId → Prop} {s0 : State} (s : State) (f : FieldId) (n : PortId) (hK : Fits ([.events, .out, .reg Reg.INJ_PT.ARM, .reg Reg.INJ_PT.DONE, .reg Reg.RTE_COMB_STAT.MERGED, .reg Reg.RTE_COMB_STAT.PEAK, .reg Reg.RTE_LINK_CNT.NAKS, .reg Reg.RTE_LINK_CNT.REPLAYED, .reg Reg.RTE_LINK_CNT.TX_FLITS, .reg Reg.RTE_LINK_CREDIT.RES, .reg Reg.RTE_LINK_CREDIT.SHARED, .reg Reg.RTE_LINK_STATUS.RESULT, .reg Reg.RTE_LINK_STATUS.STATE, .ports, .router, .tally] : List Part) K) (hF : F f)
    (ho : Only K F P s0 s) : Only K F P s0 (State.linkStart s f n) := by
  unfold State.linkStart
  repeat' first | with_reducible assumption | exact Fits.trans (by decide +kernel) hK | exact hF | with_reducible apply State.linkLock_only | with_reducible apply Only.ite | dsimp only | split | (with_reducible refine Only.fst (by with_reducible assumption) ?_) | (with_reducible refine Only.snd (by with_reducible assumption) ?_)

theorem State.linkDarken_only {K : List Part} {F : FieldId → Prop} {P : PlotId → Prop} {s0 : State} (s : State) (f : FieldId) (n : PortId) (injected : Bool) (hK : Fits (([.events, .out, .reg Reg.INJ_PT.ARM, .reg Reg.INJ_PT.DONE, .reg Reg.RTE_COMB_STAT.MERGED, .reg Reg.RTE_COMB_STAT.PEAK, .reg Reg.RTE_LINK_CNT.LOST, .reg Reg.RTE_LINK_CNT.NAKS, .reg Reg.RTE_LINK_CNT.REPLAYED, .reg Reg.RTE_LINK_CNT.TX_FLITS, .reg Reg.RTE_LINK_CREDIT.RES, .reg Reg.RTE_LINK_CREDIT.SHARED, .reg Reg.RTE_LINK_STATUS.PRESERVED, .reg Reg.RTE_LINK_STATUS.RESULT, .reg Reg.RTE_LINK_STATUS.STATE, .ports] : List Part) ++ ([.router, .tally] : List Part)) K) (hF : F f)
    (ho : Only K F P s0 s) : Only K F P s0 (State.linkDarken s f n injected) := by
  unfold State.linkDarken
  repeat' first | with_reducible assumption | exact Fits.trans (by decide +kernel) hK | exact hF | with_reducible apply State.linkLock_only | with_reducible apply State.linkDown_only | with_reducible apply State.updPort_only | with_reducible apply Only.ite | dsimp only | split | (with_reducible refine Only.fst (by with_reducible assumption) ?_) | (with_reducible refine Only.snd (by with_reducible assumption) ?_)

theorem State.linkRetrain_only {K : List Part} {F : FieldId → Prop} {P : PlotId → Prop} {s0 : State} (s : State) (f : FieldId) (n : PortId) (injected : Bool) (hK : Fits (([.events, .out, .reg Reg.INJ_PT.ARM, .reg Reg.INJ_PT.DONE, .reg Reg.RTE_COMB_STAT.MERGED, .reg Reg.RTE_COMB_STAT.PEAK, .reg Reg.RTE_LINK_CNT.LOST, .reg Reg.RTE_LINK_CNT.NAKS, .reg Reg.RTE_LINK_CNT.REPLAYED, .reg Reg.RTE_LINK_CNT.RETRAINS, .reg Reg.RTE_LINK_CNT.TX_FLITS, .reg Reg.RTE_LINK_CREDIT.RES, .reg Reg.RTE_LINK_CREDIT.SHARED, .reg Reg.RTE_LINK_STATUS.PRESERVED, .reg Reg.RTE_LINK_STATUS.RESULT, .reg Reg.RTE_LINK_STATUS.STATE] : List Part) ++ ([.ports, .router, .tally] : List Part)) K) (hF : F f)
    (ho : Only K F P s0 s) : Only K F P s0 (State.linkRetrain s f n injected) := by
  unfold State.linkRetrain
  repeat' first | with_reducible assumption | exact Fits.trans (by decide +kernel) hK | exact hF | with_reducible apply State.updPort_only | with_reducible apply State.fcount_only | with_reducible apply State.fset_only | with_reducible apply State.laneSend_only | with_reducible apply State.linkSet_only | with_reducible apply State.linkDown_only | with_reducible apply Only.ite | dsimp only | split | (with_reducible refine Only.fst (by with_reducible assumption) ?_) | (with_reducible refine Only.snd (by with_reducible assumption) ?_)

theorem State.linkDesync_only {K : List Part} {F : FieldId → Prop} {P : PlotId → Prop} {s0 : State} (s : State) (f : FieldId) (n : PortId) (hK : Fits (([.events, .out, .reg Reg.INJ_PT.ARM, .reg Reg.INJ_PT.DONE, .reg Reg.RTE_COMB_STAT.MERGED, .reg Reg.RTE_COMB_STAT.PEAK, .reg Reg.RTE_LINK_CNT.LOST, .reg Reg.RTE_LINK_CNT.NAKS, .reg Reg.RTE_LINK_CNT.PROTO_ERR, .reg Reg.RTE_LINK_CNT.REPLAYED, .reg Reg.RTE_LINK_CNT.RETRAINS, .reg Reg.RTE_LINK_CNT.TX_FLITS, .reg Reg.RTE_LINK_CREDIT.RES, .reg Reg.RTE_LINK_CREDIT.SHARED, .reg Reg.RTE_LINK_STATUS.PRESERVED, .reg Reg.RTE_LINK_STATUS.RESULT] : List Part) ++ ([.reg Reg.RTE_LINK_STATUS.STATE, .lastRaise, .ports, .router, .tally] : List Part)) K) (hF : F f)
    (ho : Only K F P s0 s) : Only K F P s0 (State.linkDesync s f n) := by
  unfold State.linkDesync
  repeat' first | with_reducible assumption | exact Fits.trans (by decide +kernel) hK | exact hF | with_reducible apply State.linkRetrain_only | with_reducible apply State.protoErr_only | with_reducible apply State.updPort_only | with_reducible apply Only.ite | dsimp only | split | (with_reducible refine Only.fst (by with_reducible assumption) ?_) | (with_reducible refine Only.snd (by with_reducible assumption) ?_)

theorem State.txModeUpdate_only {K : List Part} {F : FieldId → Prop} {P : PlotId → Prop} {s0 : State} (s : State) (f : FieldId) (n : PortId) (hK : Fits ([.events, .out, .reg Reg.HDL_PORT_STATUS.TX_MODE, .reg Reg.INJ_PT.ARM, .reg Reg.INJ_PT.DONE, .reg Reg.RTE_COMB_STAT.MERGED, .reg Reg.RTE_COMB_STAT.PEAK, .reg Reg.RTE_LINK_CNT.NAKS, .reg Reg.RTE_LINK_CNT.REPLAYED, .reg Reg.RTE_LINK_CNT.TX_FLITS, .reg Reg.RTE_LINK_CREDIT.RES, .reg Reg.RTE_LINK_CREDIT.SHARED, .ports, .router, .tally] : List Part) K) (hF : F f)
    (ho : Only K F P s0 s) : Only K F P s0 (State.txModeUpdate s f n) := by
  unfold State.txModeUpdate
  repeat' first | with_reducible assumption | exact Fits.trans (by decide +kernel) hK | exact hF | with_reducible apply State.emit_only | with_reducible apply State.changeSend_only | with_reducible apply State.updPort_only | with_reducible apply State.fset_only | with_reducible apply Only.ite | dsimp only | split | (with_reducible refine Only.fst (by with_reducible assumption) ?_) | (with_reducible refine Only.snd (by with_reducible assumption) ?_)

theorem State.laneFew_only {K : List Part} {F : FieldId → Prop} {P : PlotId → Prop} {s0 : State} (s : State) (f : FieldId) (n : PortId) (rx : Bool) (after : Nat) (injected : Bool) (hK : Fits ([.events] : List Part) K)
    (ho : Only K F P s0 s) : Only K F P s0 (State.laneFew s f n rx after injected) := by
  unfold State.laneFew
  repeat' first | with_reducible assumption | exact Fits.trans (by decide +kernel) hK | with_reducible apply State.raise_only | with_reducible apply Only.ite | dsimp only | split | (with_reducible refine Only.fst (by with_reducible assumption) ?_) | (with_reducible refine Only.snd (by with_reducible assumption) ?_)

theorem State.laneCheck_only {K : List Part} {F : FieldId → Prop} {P : PlotId → Prop} {s0 : State} (s : State) (f : FieldId) (n : PortId) (rx : Bool) (before : Nat) (injected : Bool) (hK : Fits (([.events, .out, .reg Reg.INJ_PT.ARM, .reg Reg.INJ_PT.DONE, .reg Reg.RTE_COMB_STAT.MERGED, .reg Reg.RTE_COMB_STAT.PEAK, .reg Reg.RTE_LINK_CNT.LOST, .reg Reg.RTE_LINK_CNT.NAKS, .reg Reg.RTE_LINK_CNT.REPLAYED, .reg Reg.RTE_LINK_CNT.RETRAINS, .reg Reg.RTE_LINK_CNT.TX_FLITS, .reg Reg.RTE_LINK_CREDIT.RES, .reg Reg.RTE_LINK_CREDIT.SHARED, .reg Reg.RTE_LINK_STATUS.PRESERVED, .reg Reg.RTE_LINK_STATUS.RESULT, .reg Reg.RTE_LINK_STATUS.STATE] : List Part) ++ ([.ports, .router, .tally] : List Part)) K) (hF : F f)
    (ho : Only K F P s0 s) : Only K F P s0 (State.laneCheck s f n rx before injected) := by
  unfold State.laneCheck
  repeat' first | with_reducible assumption | exact Fits.trans (by decide +kernel) hK | exact hF | with_reducible apply State.laneFew_only | with_reducible apply State.linkRetrain_only | with_reducible apply Only.ite | dsimp only | split | (with_reducible refine Only.fst (by with_reducible assumption) ?_) | (with_reducible refine Only.snd (by with_reducible assumption) ?_)

theorem State.laneKept_only {K : List Part} {F : FieldId → Prop} {P : PlotId → Prop} {s0 : State} (s : State) (f : FieldId) (n : PortId) (hK : Fits (([.events, .out, .reg Reg.INJ_PT.ARM, .reg Reg.INJ_PT.DONE, .reg Reg.RTE_COMB_STAT.MERGED, .reg Reg.RTE_COMB_STAT.PEAK, .reg Reg.RTE_LINK_CNT.LOST, .reg Reg.RTE_LINK_CNT.NAKS, .reg Reg.RTE_LINK_CNT.REPLAYED, .reg Reg.RTE_LINK_CNT.RETRAINS, .reg Reg.RTE_LINK_CNT.TX_FLITS, .reg Reg.RTE_LINK_CREDIT.RES, .reg Reg.RTE_LINK_CREDIT.SHARED, .reg Reg.RTE_LINK_STATUS.PRESERVED, .reg Reg.RTE_LINK_STATUS.RESULT, .reg Reg.RTE_LINK_STATUS.STATE] : List Part) ++ ([.ports, .router, .tally] : List Part)) K) (hF : F f)
    (ho : Only K F P s0 s) : Only K F P s0 (State.laneKept s f n) := by
  unfold State.laneKept
  repeat' first | with_reducible assumption | exact Fits.trans (by decide +kernel) hK | exact hF | with_reducible apply State.laneFew_only | with_reducible apply State.linkRetrain_only | with_reducible apply Only.ite | dsimp only | split | (with_reducible refine Only.fst (by with_reducible assumption) ?_) | (with_reducible refine Only.snd (by with_reducible assumption) ?_)

theorem State.linkActivate_only {K : List Part} {F : FieldId → Prop} {P : PlotId → Prop} {s0 : State} (s : State) (f : FieldId) (n : PortId) (hK : Fits (([.events, .out, .reg Reg.HDL_PORT_STATUS.TX_MODE, .reg Reg.INJ_PT.ARM, .reg Reg.INJ_PT.DONE, .reg Reg.RTE_COMB_STAT.MERGED, .reg Reg.RTE_COMB_STAT.PEAK, .reg Reg.RTE_LINK_CNT.LOST, .reg Reg.RTE_LINK_CNT.NAKS, .reg Reg.RTE_LINK_CNT.REPLAYED, .reg Reg.RTE_LINK_CNT.RETRAINS, .reg Reg.RTE_LINK_CNT.TX_FLITS, .reg Reg.RTE_LINK_CREDIT.RES, .reg Reg.RTE_LINK_CREDIT.SHARED, .reg Reg.RTE_LINK_STATUS.PRESERVED, .reg Reg.RTE_LINK_STATUS.RESULT] : List Part) ++ ([.reg Reg.RTE_LINK_STATUS.STATE, .ports, .router, .tally] : List Part)) K) (hF : F f)
    (ho : Only K F P s0 s) : Only K F P s0 (State.linkActivate s f n) := by
  unfold State.linkActivate
  repeat' first | with_reducible assumption | exact Fits.trans (by decide +kernel) hK | exact hF | with_reducible apply State.updPort_only | with_reducible apply State.fset_only | with_reducible apply State.linkZero_only | with_reducible apply State.linkSet_only | with_reducible apply State.txModeUpdate_only | with_reducible apply State.laneKept_only | with_reducible apply Only.ite | dsimp only | split | (with_reducible refine Only.fst (by with_reducible assumption) ?_) | (with_reducible refine Only.snd (by with_reducible assumption) ?_)

theorem State.linkGo_only {K : List Part} {F : FieldId → Prop} {P : PlotId → Prop} {s0 : State} (s : State) (f : FieldId) (n : PortId) (hK : Fits (([.events, .out, .reg Reg.HDL_PORT_STATUS.TX_MODE, .reg Reg.INJ_PT.ARM, .reg Reg.INJ_PT.DONE, .reg Reg.RTE_COMB_STAT.MERGED, .reg Reg.RTE_COMB_STAT.PEAK, .reg Reg.RTE_LINK_CNT.LOST, .reg Reg.RTE_LINK_CNT.NAKS, .reg Reg.RTE_LINK_CNT.REPLAYED, .reg Reg.RTE_LINK_CNT.RETRAINS, .reg Reg.RTE_LINK_CNT.TX_FLITS, .reg Reg.RTE_LINK_CREDIT.RES, .reg Reg.RTE_LINK_CREDIT.SHARED, .reg Reg.RTE_LINK_STATUS.PRESERVED, .reg Reg.RTE_LINK_STATUS.RESULT] : List Part) ++ ([.reg Reg.RTE_LINK_STATUS.STATE, .ports, .router, .tally] : List Part)) K) (hF : F f)
    (ho : Only K F P s0 s) : Only K F P s0 (State.linkGo s f n) := by
  unfold State.linkGo
  repeat' first | with_reducible assumption | exact Fits.trans (by decide +kernel) hK | exact hF | with_reducible apply State.linkActivate_only | with_reducible apply Only.ite | dsimp only | split | (with_reducible refine Only.fst (by with_reducible assumption) ?_) | (with_reducible refine Only.snd (by with_reducible assumption) ?_)

theorem State.txResume_only {K : List Part} {F : FieldId → Prop} {P : PlotId → Prop} {s0 : State} (s : State) (f : FieldId) (n : PortId) (hK : Fits (([.events, .out, .reg Reg.HDL_PORT_STATUS.TX_MODE, .reg Reg.INJ_PT.ARM, .reg Reg.INJ_PT.DONE, .reg Reg.RTE_COMB_STAT.MERGED, .reg Reg.RTE_COMB_STAT.PEAK, .reg Reg.RTE_LINK_CNT.LOST, .reg Reg.RTE_LINK_CNT.NAKS, .reg Reg.RTE_LINK_CNT.REPLAYED, .reg Reg.RTE_LINK_CNT.RETRAINS, .reg Reg.RTE_LINK_CNT.TX_FLITS, .reg Reg.RTE_LINK_CREDIT.RES, .reg Reg.RTE_LINK_CREDIT.SHARED, .reg Reg.RTE_LINK_STATUS.PRESERVED, .reg Reg.RTE_LINK_STATUS.RESULT] : List Part) ++ ([.reg Reg.RTE_LINK_STATUS.STATE, .ports, .router, .tally] : List Part)) K) (hF : F f)
    (ho : Only K F P s0 s) : Only K F P s0 (State.txResume s f n) := by
  unfold State.txResume
  repeat' first | with_reducible assumption | exact Fits.trans (by decide +kernel) hK | exact hF | with_reducible apply State.laneFlush_only | with_reducible apply State.updPort_only | with_reducible apply State.linkGo_only | with_reducible apply State.txModeUpdate_only | with_reducible apply State.emit_only | with_reducible apply Only.ite | dsimp only | split | (with_reducible refine Only.fst (by with_reducible assumption) ?_) | (with_reducible refine Only.snd (by with_reducible assumption) ?_)

theorem State.linkReady_only {K : List Part} {F : FieldId → Prop} {P : PlotId → Prop} {s0 : State} (s : State) (f : FieldId) (n : PortId) (hK : Fits (([.events, .out, .reg Reg.HDL_PORT_STATUS.TX_MODE, .reg Reg.INJ_PT.ARM, .reg Reg.INJ_PT.DONE, .reg Reg.RTE_COMB_STAT.MERGED, .reg Reg.RTE_COMB_STAT.PEAK, .reg Reg.RTE_LINK_CNT.LOST, .reg Reg.RTE_LINK_CNT.NAKS, .reg Reg.RTE_LINK_CNT.REPLAYED, .reg Reg.RTE_LINK_CNT.RETRAINS, .reg Reg.RTE_LINK_CNT.TX_FLITS, .reg Reg.RTE_LINK_CREDIT.RES, .reg Reg.RTE_LINK_CREDIT.SHARED, .reg Reg.RTE_LINK_STATUS.PRESERVED, .reg Reg.RTE_LINK_STATUS.RESULT] : List Part) ++ ([.reg Reg.RTE_LINK_STATUS.STATE, .ports, .router, .tally] : List Part)) K) (hF : F f)
    (ho : Only K F P s0 s) : Only K F P s0 (State.linkReady s f n) := by
  unfold State.linkReady
  repeat' first | with_reducible assumption | exact Fits.trans (by decide +kernel) hK | exact hF | with_reducible apply State.updPort_only | with_reducible apply State.linkGo_only | with_reducible apply State.laneSend_only | with_reducible apply Only.ite | dsimp only | split | (with_reducible refine Only.fst (by with_reducible assumption) ?_) | (with_reducible refine Only.snd (by with_reducible assumption) ?_)

theorem State.ringLost_only {K : List Part} {F : FieldId → Prop} {P : PlotId → Prop} {s0 : State} (s : State) (f : FieldId) (n : PortId) (w : Nat) (hK : Fits ([.health] : List Part) K) (hF : F f)
    (ho : Only K F P s0 s) : Only K F P s0 (State.ringLost s f n w) := by
  unfold State.ringLost
  repeat' first | with_reducible assumption | exact Fits.trans (by decide +kernel) hK | exact hF | with_reducible apply State.updField_only | (refine fun (X : Field) => ?_) | with_reducible apply FieldOnly.setReg | with_reducible exact FieldOnly.refl _ _ _ | with_reducible apply FieldOnly.updPlot | with_reducible apply FieldOnly.ite | (refine FieldOnly.keep rfl rfl (fun k hk => ?_); cases k <;> first | exact trivial | exact rfl | exact ⟨rfl, rfl⟩ | exact ⟨rfl, rfl, rfl⟩ | exact (Fits.not hK hk rfl).elim) | with_reducible apply Only.ite | dsimp only | split | (with_reducible refine Only.fst (by with_reducible assumption) ?_) | (with_reducible refine Only.snd (by with_reducible assumption) ?_)

theorem State.laneInjected_only {K : List Part} {F : FieldId → Prop} {P : PlotId → Prop} {s0 : State} (s : State) (f : FieldId) (n : PortId) (rx : Bool) (w : Nat) (inj : Bool) (hK : Fits ([.health] : List Part) K) (hF : F f)
    (ho : Only K F P s0 s) : Only K F P s0 (State.laneInjected s f n rx w inj) := by
  unfold State.laneInjected
  repeat' first | with_reducible assumption | exact Fits.trans (by decide +kernel) hK | exact hF | with_reducible apply State.updField_only | (refine fun (X : Field) => ?_) | with_reducible apply FieldOnly.setReg | with_reducible exact FieldOnly.refl _ _ _ | with_reducible apply FieldOnly.updPlot | with_reducible apply FieldOnly.ite | (refine FieldOnly.keep rfl rfl (fun k hk => ?_); cases k <;> first | exact trivial | exact rfl | exact ⟨rfl, rfl⟩ | exact ⟨rfl, rfl, rfl⟩ | exact (Fits.not hK hk rfl).elim) | with_reducible apply Only.ite | dsimp only | split | (with_reducible refine Only.fst (by with_reducible assumption) ?_) | (with_reducible refine Only.snd (by with_reducible assumption) ?_)

theorem State.txFail_only {K : List Part} {F : FieldId → Prop} {P : PlotId → Prop} {s0 : State} (s : State) (f : FieldId) (n : PortId) (w reason : Nat) (inj : Bool) (hK : Fits (([.events, .out, .reg Reg.HDL_CAL_STAT.ABORTED, .reg Reg.HDL_PORT_STATUS.TX_MODE, .reg Reg.INJ_PT.ARM, .reg Reg.INJ_PT.DONE, .reg Reg.RTE_COMB_STAT.MERGED, .reg Reg.RTE_COMB_STAT.PEAK, .reg Reg.RTE_LINK_CNT.LOST, .reg Reg.RTE_LINK_CNT.NAKS, .reg Reg.RTE_LINK_CNT.REPLAYED, .reg Reg.RTE_LINK_CNT.RETRAINS, .reg Reg.RTE_LINK_CNT.TX_FLITS, .reg Reg.RTE_LINK_CREDIT.RES, .reg Reg.RTE_LINK_CREDIT.SHARED, .reg Reg.RTE_LINK_STATUS.PRESERVED] : List Part) ++ ([.reg Reg.RTE_LINK_STATUS.RESULT, .reg Reg.RTE_LINK_STATUS.STATE, .ports, .router, .health, .tally] : List Part)) K) (hF : F f)
    (ho : Only K F P s0 s) : Only K F P s0 (State.txFail s f n w reason inj) := by
  unfold State.txFail
  repeat' first | with_reducible assumption | exact Fits.trans (by decide +kernel) hK | exact hF | with_reducible apply State.laneInjected_only | with_reducible apply State.raise_only | with_reducible apply State.setTx_only | with_reducible apply State.fcount_only | with_reducible apply State.ringLost_only | with_reducible apply State.updField_only | with_reducible apply State.txModeUpdate_only | with_reducible apply State.laneCheck_only | with_reducible apply State.laneActs_only | (refine fun (X : Field) => ?_) | with_reducible apply FieldOnly.setReg | with_reducible exact FieldOnly.refl _ _ _ | with_reducible apply FieldOnly.updPlot | with_reducible apply FieldOnly.ite | (refine FieldOnly.keep rfl rfl (fun k hk => ?_); cases k <;> first | exact trivial | exact rfl | exact ⟨rfl, rfl⟩ | exact ⟨rfl, rfl, rfl⟩ | exact (Fits.not hK hk rfl).elim) | with_reducible apply Only.ite | dsimp only | split | (with_reducible refine Only.fst (by with_reducible assumption) ?_) | (with_reducible refine Only.snd (by with_reducible assumption) ?_)

theorem State.rxFail_only {K : List Part} {F : FieldId → Prop} {P : PlotId → Prop} {s0 : State} (s : State) (f : FieldId) (n : PortId) (w reason : Nat) (inj : Bool) (hK : Fits (([.events, .out, .reg Reg.INJ_PT.ARM, .reg Reg.INJ_PT.DONE, .reg Reg.RTE_COMB_STAT.MERGED, .reg Reg.RTE_COMB_STAT.PEAK, .reg Reg.RTE_LINK_CNT.LOST, .reg Reg.RTE_LINK_CNT.NAKS, .reg Reg.RTE_LINK_CNT.REPLAYED, .reg Reg.RTE_LINK_CNT.RETRAINS, .reg Reg.RTE_LINK_CNT.TX_FLITS, .reg Reg.RTE_LINK_CREDIT.RES, .reg Reg.RTE_LINK_CREDIT.SHARED, .reg Reg.RTE_LINK_STATUS.PRESERVED, .reg Reg.RTE_LINK_STATUS.RESULT, .reg Reg.RTE_LINK_STATUS.STATE] : List Part) ++ ([.ports, .router, .health, .tally] : List Part)) K) (hF : F f)
    (ho : Only K F P s0 s) : Only K F P s0 (State.rxFail s f n w reason inj) := by
  unfold State.rxFail
  repeat' first | with_reducible assumption | exact Fits.trans (by decide +kernel) hK | exact hF | with_reducible apply State.setRx_only | with_reducible apply State.laneInjected_only | with_reducible apply State.raise_only | with_reducible apply State.ringLost_only | with_reducible apply State.updField_only | with_reducible apply State.laneCheck_only | with_reducible apply State.laneSend_only | (refine fun (X : Field) => ?_) | with_reducible apply FieldOnly.setReg | with_reducible exact FieldOnly.refl _ _ _ | with_reducible apply FieldOnly.updPlot | with_reducible apply FieldOnly.ite | (refine FieldOnly.keep rfl rfl (fun k hk => ?_); cases k <;> first | exact trivial | exact rfl | exact ⟨rfl, rfl⟩ | exact ⟨rfl, rfl, rfl⟩ | exact (Fits.not hK hk rfl).elim) | with_reducible apply Only.ite | dsimp only | split | (with_reducible refine Only.fst (by with_reducible assumption) ?_) | (with_reducible refine Only.snd (by with_reducible assumption) ?_)

theorem State.setOutcome_only {K : List Part} {F : FieldId → Prop} {P : PlotId → Prop} {s0 : State} (s : State) (f : FieldId) (n : PortId) (o node port : Nat) (hK : Fits ([.events, .reg Reg.RTE_DISC_STATUS.OUTCOME] : List Part) K) (hF : F f)
    (ho : Only K F P s0 s) : Only K F P s0 (State.setOutcome s f n o node port) := by
  unfold State.setOutcome
  repeat' first | with_reducible assumption | exact Fits.trans (by decide +kernel) hK | exact hF | with_reducible apply State.raise_only | with_reducible apply State.fset_only | with_reducible apply Only.ite | dsimp only | split | (with_reducible refine Only.fst (by with_reducible assumption) ?_) | (with_reducible refine Only.snd (by with_reducible assumption) ?_)

theorem State.qualRecord_only {K : List Part} {F : FieldId → Prop} {P : PlotId → Prop} {s0 : State} (s : State) (f : FieldId) (n : PortId) (far : Nat) (hK : Fits ([.reg Reg.RTE_QUAL_RESULT.RX_PASS, .reg Reg.RTE_QUAL_RESULT.TX_PASS, .reg Reg.RTE_QUAL_RESULT.WORST, .reg Reg.RTE_QUAL_RESULT.WORST_E] : List Part) K) (hF : F f)
    (ho : Only K F P s0 s) : Only K F P s0 (State.qualRecord s f n far) := by
  unfold State.qualRecord
  repeat' first | with_reducible assumption | exact Fits.trans (by decide +kernel) hK | exact hF | with_reducible apply State.fset_only | with_reducible apply Only.ite | dsimp only | split | (with_reducible refine Only.foldl _ _ (fun t a ht => ?_) ?_) | (with_reducible refine Only.foldl_fst _ _ _ (fun t a ht => ?_) ?_) | (with_reducible refine Only.fst (by with_reducible assumption) ?_) | (with_reducible refine Only.snd (by with_reducible assumption) ?_)

theorem State.qualDecide_only {K : List Part} {F : FieldId → Prop} {P : PlotId → Prop} {s0 : State} (s : State) (f : FieldId) (n : PortId) (hK : Fits (([.events, .out, .reg Reg.HDL_PORT_STATUS.TX_MODE, .reg Reg.INJ_PT.ARM, .reg Reg.INJ_PT.DONE, .reg Reg.RTE_COMB_STAT.MERGED, .reg Reg.RTE_COMB_STAT.PEAK, .reg Reg.RTE_LINK_CNT.LOST, .reg Reg.RTE_LINK_CNT.NAKS, .reg Reg.RTE_LINK_CNT.REPLAYED, .reg Reg.RTE_LINK_CNT.RETRAINS, .reg Reg.RTE_LINK_CNT.TX_FLITS, .reg Reg.RTE_LINK_CREDIT.RES, .reg Reg.RTE_LINK_CREDIT.SHARED, .reg Reg.RTE_LINK_STATUS.PRESERVED, .reg Reg.RTE_LINK_STATUS.RESULT] : List Part) ++ ([.reg Reg.RTE_LINK_STATUS.STATE, .reg Reg.RTE_QUAL_RESULT.RX_PASS, .reg Reg.RTE_QUAL_RESULT.TX_PASS, .reg Reg.RTE_QUAL_RESULT.WORST, .reg Reg.RTE_QUAL_RESULT.WORST_E, .ports, .router, .tally] : List Part)) K) (hF : F f)
    (ho : Only K F P s0 s) : Only K F P s0 (State.qualDecide s f n) := by
  unfold State.qualDecide
  repeat' first | with_reducible assumption | exact Fits.trans (by decide +kernel) hK | exact hF | with_reducible apply State.qualRecord_only | with_reducible apply State.linkSet_only | with_reducible apply State.setRx_only | with_reducible apply State.setTx_only | with_reducible apply State.updPort_only | with_reducible apply State.linkReady_only | with_reducible apply State.laneCheck_only | with_reducible apply Only.ite | dsimp only | split | (with_reducible refine Only.fst (by with_reducible assumption) ?_) | (with_reducible refine Only.snd (by with_reducible assumption) ?_)

theorem State.qualReport_only {K : List Part} {F : FieldId → Prop} {P : PlotId → Prop} {s0 : State} (s : State) (f : FieldId) (n : PortId) (hK : Fits (([.events, .out, .reg Reg.HDL_PORT_STATUS.TX_MODE, .reg Reg.INJ_PT.ARM, .reg Reg.INJ_PT.DONE, .reg Reg.RTE_COMB_STAT.MERGED, .reg Reg.RTE_COMB_STAT.PEAK, .reg Reg.RTE_LINK_CNT.LOST, .reg Reg.RTE_LINK_CNT.NAKS, .reg Reg.RTE_LINK_CNT.REPLAYED, .reg Reg.RTE_LINK_CNT.RETRAINS, .reg Reg.RTE_LINK_CNT.TX_FLITS, .reg Reg.RTE_LINK_CREDIT.RES, .reg Reg.RTE_LINK_CREDIT.SHARED, .reg Reg.RTE_LINK_STATUS.PRESERVED, .reg Reg.RTE_LINK_STATUS.RESULT] : List Part) ++ ([.reg Reg.RTE_LINK_STATUS.STATE, .reg Reg.RTE_QUAL_RESULT.RX_PASS, .reg Reg.RTE_QUAL_RESULT.TX_PASS, .reg Reg.RTE_QUAL_RESULT.WORST, .reg Reg.RTE_QUAL_RESULT.WORST_E, .ports, .router, .tally] : List Part)) K) (hF : F f)
    (ho : Only K F P s0 s) : Only K F P s0 (State.qualReport s f n) := by
  unfold State.qualReport
  repeat' first | with_reducible assumption | exact Fits.trans (by decide +kernel) hK | exact hF | with_reducible apply State.qualDecide_only | with_reducible apply State.laneSend_only | with_reducible apply Only.ite | dsimp only | split | (with_reducible refine Only.fst (by with_reducible assumption) ?_) | (with_reducible refine Only.snd (by with_reducible assumption) ?_)

theorem State.linkQualify_only {K : List Part} {F : FieldId → Prop} {P : PlotId → Prop} {s0 : State} (s : State) (f : FieldId) (n : PortId) (hK : Fits (([.events, .out, .reg Reg.HDL_PORT_STATUS.RX_MODE, .reg Reg.HDL_PORT_STATUS.TX_MODE, .reg Reg.INJ_PT.ARM, .reg Reg.INJ_PT.DONE, .reg Reg.RTE_COMB_STAT.MERGED, .reg Reg.RTE_COMB_STAT.PEAK, .reg Reg.RTE_LINK_CNT.LOST, .reg Reg.RTE_LINK_CNT.NAKS, .reg Reg.RTE_LINK_CNT.REPLAYED, .reg Reg.RTE_LINK_CNT.RETRAINS, .reg Reg.RTE_LINK_CNT.TX_FLITS, .reg Reg.RTE_LINK_CREDIT.RES, .reg Reg.RTE_LINK_CREDIT.SHARED, .reg Reg.RTE_LINK_STATUS.PRESERVED] : List Part) ++ ([.reg Reg.RTE_LINK_STATUS.RESULT, .reg Reg.RTE_LINK_STATUS.STATE, .reg Reg.RTE_QUAL_RESULT.RX_PASS, .reg Reg.RTE_QUAL_RESULT.TX_PASS, .reg Reg.RTE_QUAL_RESULT.WORST, .reg Reg.RTE_QUAL_RESULT.WORST_E, .ports, .router, .tally] : List Part)) K) (hF : F f)
    (ho : Only K F P s0 s) : Only K F P s0 (State.linkQualify s f n) := by
  unfold State.linkQualify
  repeat' first | with_reducible assumption | exact Fits.trans (by decide +kernel) hK | exact hF | with_reducible apply State.fset_only | with_reducible apply State.linkSet_only | with_reducible apply State.updPort_only | with_reducible apply State.qualReport_only | with_reducible apply Only.ite | dsimp only | split | (with_reducible refine Only.fst (by with_reducible assumption) ?_) | (with_reducible refine Only.snd (by with_reducible assumption) ?_)

theorem State.linkAdmit_only {K : List Part} {F : FieldId → Prop} {P : PlotId → Prop} {s0 : State} (s : State) (f : FieldId) (n : PortId) (hK : Fits (([.events, .out, .reg Reg.HDL_PORT_STATUS.RX_MODE, .reg Reg.HDL_PORT_STATUS.TX_MODE, .reg Reg.INJ_PT.ARM, .reg Reg.INJ_PT.DONE, .reg Reg.RTE_COMB_STAT.MERGED, .reg Reg.RTE_COMB_STAT.PEAK, .reg Reg.RTE_LINK_CNT.LOST, .reg Reg.RTE_LINK_CNT.NAKS, .reg Reg.RTE_LINK_CNT.REPLAYED, .reg Reg.RTE_LINK_CNT.RETRAINS, .reg Reg.RTE_LINK_CNT.TX_FLITS, .reg Reg.RTE_LINK_CREDIT.RES, .reg Reg.RTE_LINK_CREDIT.SHARED, .reg Reg.RTE_LINK_STATUS.PRESERVED] : List Part) ++ ([.reg Reg.RTE_LINK_STATUS.RESULT, .reg Reg.RTE_LINK_STATUS.STATE, .reg Reg.RTE_QUAL_RESULT.RX_PASS, .reg Reg.RTE_QUAL_RESULT.TX_PASS, .reg Reg.RTE_QUAL_RESULT.WORST, .reg Reg.RTE_QUAL_RESULT.WORST_E, .ports, .router, .tally] : List Part)) K) (hF : F f)
    (ho : Only K F P s0 s) : Only K F P s0 (State.linkAdmit s f n) := by
  unfold State.linkAdmit
  repeat' first | with_reducible assumption | exact Fits.trans (by decide +kernel) hK | exact hF | with_reducible apply State.linkReady_only | with_reducible apply State.linkQualify_only | with_reducible apply Only.ite | dsimp only | split | (with_reducible refine Only.fst (by with_reducible assumption) ?_) | (with_reducible refine Only.snd (by with_reducible assumption) ?_)

theorem State.beaconAccept_only {K : List Part} {F : FieldId → Prop} {P : PlotId → Prop} {s0 : State} (s : State) (f : FieldId) (n : PortId) (b : BeaconId) (hK : Fits (([.events, .out, .reg Reg.HDL_PORT_STATUS.RX_MODE, .reg Reg.HDL_PORT_STATUS.TX_MODE, .reg Reg.INJ_PT.ARM, .reg Reg.INJ_PT.DONE, .reg Reg.RTE_COMB_STAT.MERGED, .reg Reg.RTE_COMB_STAT.PEAK, .reg Reg.RTE_DISC_STATUS.OUTCOME, .reg Reg.RTE_DISC_STATUS.SEEN_NODE, .reg Reg.RTE_DISC_STATUS.SEEN_PORT, .reg Reg.RTE_DISC_STATUS.SEEN_SERIAL, .reg Reg.RTE_LINK_CNT.LOST, .reg Reg.RTE_LINK_CNT.NAKS, .reg Reg.RTE_LINK_CNT.REPLAYED, .reg Reg.RTE_LINK_CNT.RETRAINS] : List Part) ++ ([.reg Reg.RTE_LINK_CNT.TX_FLITS, .reg Reg.RTE_LINK_CREDIT.RES, .reg Reg.RTE_LINK_CREDIT.SHARED, .reg Reg.RTE_LINK_STATUS.PRESERVED, .reg Reg.RTE_LINK_STATUS.RESULT, .reg Reg.RTE_LINK_STATUS.STATE, .reg Reg.RTE_QUAL_RESULT.RX_PASS, .reg Reg.RTE_QUAL_RESULT.TX_PASS, .reg Reg.RTE_QUAL_RESULT.WORST, .reg Reg.RTE_QUAL_RESULT.WORST_E, .ports, .router, .tally] : List Part)) K) (hF : F f)
    (ho : Only K F P s0 s) : Only K F P s0 (State.beaconAccept s f n b) := by
  unfold State.beaconAccept
  repeat' first | with_reducible assumption | exact Fits.trans (by decide +kernel) hK | exact hF | with_reducible apply State.updPort_only | with_reducible apply State.fset_only | with_reducible apply State.setOutcome_only | with_reducible apply State.linkAdmit_only | with_reducible apply State.linkSet_only | with_reducible apply State.linkReady_only | with_reducible apply State.linkDown_only | with_reducible apply Only.ite | dsimp only | split | (with_reducible refine Only.fst (by with_reducible assumption) ?_) | (with_reducible refine Only.snd (by with_reducible assumption) ?_)

end Sys2Proof.Machine
end

