-- ==== Sys2Proof/Laws/Touch/LightOps.lean ====
section
/-! SUPPORT. What each operation of Machine/LightOps.lean can change: the parts named, and nothing else. -/

namespace Sys2Proof.Machine

set_option Elab.async false

open Sys2Proof

theorem State.updLight_only {K : List Part} {F : FieldId → Prop} {P : PlotId → Prop} {s0 : State} (s : State) (g : LightUnit → LightUnit) (hK : Fits ([.light] : List Part) K)
    (ho : Only K F P s0 s) : Only K F P s0 (State.updLight s g) := by
  unfold State.updLight
  repeat' first | with_reducible assumption | exact Fits.trans (by decide +kernel) hK | with_reducible apply State.updHub_only | (refine fun (X : Hub) => ?_) | with_reducible apply HubOnly.setReg | with_reducible exact HubOnly.refl _ _ | with_reducible apply HubOnly.ite | (refine HubOnly.keep rfl (fun k hk => ?_); cases k <;> first | exact trivial | exact rfl | exact ⟨rfl, rfl⟩ | exact ⟨rfl, rfl, rfl⟩ | exact ⟨rfl, rfl, rfl, rfl⟩ | exact (Fits.not hK hk rfl).elim) | with_reducible apply Only.ite | dsimp only | split | (with_reducible refine Only.fst (by with_reducible assumption) ?_) | (with_reducible refine Only.snd (by with_reducible assumption) ?_)

theorem State.i3cSend_only {K : List Part} {F : FieldId → Prop} {P : PlotId → Prop} {s0 : State} (s : State) (m code value : Nat) (hK : Fits ([.out] : List Part) K)
    (ho : Only K F P s0 s) : Only K F P s0 (State.i3cSend s m code value) := by
  unfold State.i3cSend
  repeat' first | with_reducible assumption | exact Fits.trans (by decide +kernel) hK | with_reducible apply State.emit_only | with_reducible apply Only.ite | dsimp only | split | (with_reducible refine Only.fst (by with_reducible assumption) ?_) | (with_reducible refine Only.snd (by with_reducible assumption) ?_)

theorem State.hostSet_only {K : List Part} {F : FieldId → Prop} {P : PlotId → Prop} {s0 : State} (s : State) (new : Nat) (injected : Bool) (hK : Fits ([.events, .hubReg Reg.HUB_HOST_PHY_STATUS.STATE, .hubReg Reg.HUB_HOST_PHY_STATUS.WIDTH, .host] : List Part) K)
    (ho : Only K F P s0 s) : Only K F P s0 (State.hostSet s new injected) := by
  unfold State.hostSet
  repeat' first | with_reducible assumption | exact Fits.trans (by decide +kernel) hK | with_reducible apply State.updHub_only | with_reducible apply State.hset_only | with_reducible apply State.raiseHub_only | (refine fun (X : Hub) => ?_) | with_reducible apply HubOnly.setReg | with_reducible exact HubOnly.refl _ _ | with_reducible apply HubOnly.ite | (refine HubOnly.keep rfl (fun k hk => ?_); cases k <;> first | exact trivial | exact rfl | exact ⟨rfl, rfl⟩ | exact ⟨rfl, rfl, rfl⟩ | exact ⟨rfl, rfl, rfl, rfl⟩ | exact (Fits.not hK hk rfl).elim) | with_reducible apply Only.ite | dsimp only | split | (with_reducible refine Only.fst (by with_reducible assumption) ?_) | (with_reducible refine Only.snd (by with_reducible assumption) ?_)

theorem State.hostRecover_only {K : List Part} {F : FieldId → Prop} {P : PlotId → Prop} {s0 : State} (s : State) (injected : Bool) (hK : Fits ([.events, .hubReg Reg.HUB_HOST_PHY_STATUS.RECOVERIES, .hubReg Reg.HUB_HOST_PHY_STATUS.STATE, .hubReg Reg.HUB_HOST_PHY_STATUS.WIDTH, .host] : List Part) K)
    (ho : Only K F P s0 s) : Only K F P s0 (State.hostRecover s injected) := by
  unfold State.hostRecover
  repeat' first | with_reducible assumption | exact Fits.trans (by decide +kernel) hK | with_reducible apply State.hostSet_only | with_reducible apply State.hcount_only | with_reducible apply Only.ite | dsimp only | split | (with_reducible refine Only.fst (by with_reducible assumption) ?_) | (with_reducible refine Only.snd (by with_reducible assumption) ?_)

theorem State.setHostTx_only {K : List Part} {F : FieldId → Prop} {P : PlotId → Prop} {s0 : State} (s : State) (d : LaneTx) (hK : Fits ([.hostTx] : List Part) K)
    (ho : Only K F P s0 s) : Only K F P s0 (State.setHostTx s d) := by
  unfold State.setHostTx
  repeat' first | with_reducible assumption | exact Fits.trans (by decide +kernel) hK | with_reducible apply State.updHub_only | (refine fun (X : Hub) => ?_) | with_reducible apply HubOnly.setReg | with_reducible exact HubOnly.refl _ _ | with_reducible apply HubOnly.ite | (refine HubOnly.keep rfl (fun k hk => ?_); cases k <;> first | exact trivial | exact rfl | exact ⟨rfl, rfl⟩ | exact ⟨rfl, rfl, rfl⟩ | exact ⟨rfl, rfl, rfl, rfl⟩ | exact (Fits.not hK hk rfl).elim) | with_reducible apply Only.ite | dsimp only | split | (with_reducible refine Only.fst (by with_reducible assumption) ?_) | (with_reducible refine Only.snd (by with_reducible assumption) ?_)

theorem State.hostReturn_only {K : List Part} {F : FieldId → Prop} {P : PlotId → Prop} {s0 : State} (s : State) (hK : Fits ([.events, .hubReg Reg.HUB_HOST_PHY_STATUS.STATE, .hubReg Reg.HUB_HOST_PHY_STATUS.WIDTH, .host] : List Part) K)
    (ho : Only K F P s0 s) : Only K F P s0 (State.hostReturn s) := by
  unfold State.hostReturn
  repeat' first | with_reducible assumption | exact Fits.trans (by decide +kernel) hK | with_reducible apply State.hostSet_only | with_reducible apply Only.ite | dsimp only | split | (with_reducible refine Only.fst (by with_reducible assumption) ?_) | (with_reducible refine Only.snd (by with_reducible assumption) ?_)

theorem State.hostActs_only {K : List Part} {F : FieldId → Prop} {P : PlotId → Prop} {s0 : State} (s : State) (acts : List LaneAct) (injected : Bool) (hK : Fits ([.events, .out, .hubReg Reg.HUB_HOST_PHY_STATUS.RECOVERIES, .hubReg Reg.HUB_HOST_PHY_STATUS.STATE, .hubReg Reg.HUB_HOST_PHY_STATUS.WIDTH, .hostTx, .host] : List Part) K)
    (ho : Only K F P s0 s) : Only K F P s0 (State.hostActs s acts injected) := by
  unfold State.hostActs
  repeat' first | with_reducible assumption | exact Fits.trans (by decide +kernel) hK | with_reducible apply State.hostReturn_only | with_reducible apply State.hostRecover_only | with_reducible apply State.setHostTx_only | with_reducible apply State.emit_only | with_reducible apply Only.ite | dsimp only | split | (with_reducible refine Only.fst (by with_reducible assumption) ?_) | (with_reducible refine Only.snd (by with_reducible assumption) ?_)

theorem State.hostFail_only {K : List Part} {F : FieldId → Prop} {P : PlotId → Prop} {s0 : State} (s : State) (rx : Bool) (w reason : Nat) (inj : Bool) (hK : Fits ([.events, .out, .hubReg Reg.HUB_HOST_PHY_STATUS.RECOVERIES, .hubReg Reg.HUB_HOST_PHY_STATUS.STATE, .hubReg Reg.HUB_HOST_PHY_STATUS.WIDTH, .hostTx, .host] : List Part) K)
    (ho : Only K F P s0 s) : Only K F P s0 (State.hostFail s rx w reason inj) := by
  unfold State.hostFail
  repeat' first | with_reducible assumption | exact Fits.trans (by decide +kernel) hK | with_reducible apply State.hostActs_only | with_reducible apply State.raiseHub_only | with_reducible apply State.setHostTx_only | with_reducible apply Only.ite | dsimp only | split | (with_reducible refine Only.fst (by with_reducible assumption) ?_) | (with_reducible refine Only.snd (by with_reducible assumption) ?_)

theorem State.hostDarken_only {K : List Part} {F : FieldId → Prop} {P : PlotId → Prop} {s0 : State} (s : State) (injected : Bool) (hK : Fits ([.events, .hubReg Reg.HUB_HOST_PHY_STATUS.STATE, .hubReg Reg.HUB_HOST_PHY_STATUS.WIDTH, .host] : List Part) K)
    (ho : Only K F P s0 s) : Only K F P s0 (State.hostDarken s injected) := by
  unfold State.hostDarken
  repeat' first | with_reducible assumption | exact Fits.trans (by decide +kernel) hK | with_reducible apply State.hostSet_only | with_reducible apply Only.ite | dsimp only | split | (with_reducible refine Only.fst (by with_reducible assumption) ?_) | (with_reducible refine Only.snd (by with_reducible assumption) ?_)

theorem State.engSet_only {K : List Part} {F : FieldId → Prop} {P : PlotId → Prop} {s0 : State} (s : State) (e : Nat) (kf kh : RegField) (v : Nat) (hK : Fits ([.hubReg kh, .reg kf] : List Part) K) (hF : ∀ f, F f)
    (ho : Only K F P s0 s) : Only K F P s0 (State.engSet s e kf kh v) := by
  have h1 : Fits [.reg kf] K := Fits.one_of hK (by simp)
  have h2 : Fits [.hubReg kh] K := Fits.one_of hK (by simp)
  unfold State.engSet
  exact Only.ite (State.fset_only _ _ _ _ _ h1 (hF _) ho) (State.hset_only _ _ _ _ h2 ho)

theorem State.engSetSrc_only {K : List Part} {F : FieldId → Prop} {P : PlotId → Prop} {s0 : State} (s : State) (e v : Nat) (hK : Fits ([.hubReg Reg.HDL_HOST_ENGINE.SRC, .reg Reg.HDL_ENGINE_STATUS.SRC] : List Part) K) (hF : ∀ f, F f)
    (ho : Only K F P s0 s) : Only K F P s0 (State.engSetSrc s e v) := by
  unfold State.engSetSrc
  repeat' first | with_reducible assumption | exact Fits.trans (by decide +kernel) hK | exact hF | exact hF _ | with_reducible apply State.engSet_only | with_reducible apply Only.ite | dsimp only | split | (with_reducible refine Only.fst (by with_reducible assumption) ?_) | (with_reducible refine Only.snd (by with_reducible assumption) ?_)

theorem State.setInlet_only {K : List Part} {F : FieldId → Prop} {P : PlotId → Prop} {s0 : State} (s : State) (e m : Nat) (ok : Bool) (hK : Fits ([.hubReg Reg.HDL_HOST_ENGINE.INLET_A_OK, .hubReg Reg.HDL_HOST_ENGINE.INLET_B_OK, .reg Reg.HDL_ENGINE_STATUS.INLET_A_OK, .reg Reg.HDL_ENGINE_STATUS.INLET_B_OK] : List Part) K) (hF : ∀ f, F f)
    (ho : Only K F P s0 s) : Only K F P s0 (State.setInlet s e m ok) := by
  unfold State.setInlet
  repeat' first | with_reducible assumption | exact Fits.trans (by decide +kernel) hK | exact hF | exact hF _ | with_reducible apply State.engSet_only | with_reducible apply Only.ite | dsimp only | split | (with_reducible refine Only.fst (by with_reducible assumption) ?_) | (with_reducible refine Only.snd (by with_reducible assumption) ?_)

theorem State.engDarken_only {K : List Part} {F : FieldId → Prop} {P : PlotId → Prop} {s0 : State} (s : State) (e : Nat) (injected : Bool) (hK : Fits (([.events, .out, .hubReg Reg.HDL_HOST_ENGINE.DARK, .hubReg Reg.HDL_HOST_ENGINE.SWITCHING, .hubReg Reg.HUB_HOST_PHY_STATUS.STATE, .hubReg Reg.HUB_HOST_PHY_STATUS.WIDTH, .light, .host, .reg Reg.HDL_ENGINE_STATUS.DARK, .reg Reg.HDL_ENGINE_STATUS.SWITCHING, .reg Reg.INJ_PT.ARM, .reg Reg.INJ_PT.DONE, .reg Reg.RTE_COMB_STAT.MERGED, .reg Reg.RTE_COMB_STAT.PEAK, .reg Reg.RTE_LINK_CNT.LOST, .reg Reg.RTE_LINK_CNT.NAKS] : List Part) ++ ([.reg Reg.RTE_LINK_CNT.REPLAYED, .reg Reg.RTE_LINK_CNT.TX_FLITS, .reg Reg.RTE_LINK_CREDIT.RES, .reg Reg.RTE_LINK_CREDIT.SHARED, .reg Reg.RTE_LINK_STATUS.PRESERVED, .reg Reg.RTE_LINK_STATUS.RESULT, .reg Reg.RTE_LINK_STATUS.STATE, .ports, .router, .tally] : List Part)) K) (hF : ∀ f, F f)
    (ho : Only K F P s0 s) : Only K F P s0 (State.engDarken s e injected) := by
  unfold State.engDarken
  repeat' first | with_reducible assumption | exact Fits.trans (by decide +kernel) hK | exact hF | exact hF _ | with_reducible apply State.engSet_only | with_reducible apply State.linkDarken_only | with_reducible apply State.updPort_only | with_reducible apply State.hostDarken_only | with_reducible apply State.updLight_only | with_reducible apply Only.ite | dsimp only | split | (with_reducible refine Only.foldl _ _ (fun t a ht => ?_) ?_) | (with_reducible refine Only.foldl_fst _ _ _ (fun t a ht => ?_) ?_) | (with_reducible refine Only.fst (by with_reducible assumption) ?_) | (with_reducible refine Only.snd (by with_reducible assumption) ?_)

theorem State.shutterOpen_only {K : List Part} {F : FieldId → Prop} {P : PlotId → Prop} {s0 : State} (s : State) (f : FieldId) (n : PortId) (hK : Fits ([.events, .reg Reg.HDL_PORT_STATUS.APR, .ports] : List Part) K) (hF : F f)
    (ho : Only K F P s0 s) : Only K F P s0 (State.shutterOpen s f n) := by
  unfold State.shutterOpen
  repeat' first | with_reducible assumption | exact Fits.trans (by decide +kernel) hK | exact hF | with_reducible apply State.updPort_only | with_reducible apply State.raise_only | with_reducible apply State.fset_only | with_reducible apply Only.ite | dsimp only | split | (with_reducible refine Only.fst (by with_reducible assumption) ?_) | (with_reducible refine Only.snd (by with_reducible assumption) ?_)

theorem State.engLight_only {K : List Part} {F : FieldId → Prop} {P : PlotId → Prop} {s0 : State} (s : State) (e src : Nat) (hK : Fits (([.events, .out, .hubReg Reg.HDL_HOST_ENGINE.DARK, .hubReg Reg.HDL_HOST_ENGINE.SRC, .hubReg Reg.HUB_HOST_PHY_STATUS.STATE, .hubReg Reg.HUB_HOST_PHY_STATUS.WIDTH, .light, .host, .reg Reg.HDL_ENGINE_STATUS.DARK, .reg Reg.HDL_ENGINE_STATUS.SRC, .reg Reg.HDL_PORT_STATUS.APR, .reg Reg.INJ_PT.ARM, .reg Reg.INJ_PT.DONE, .reg Reg.RTE_COMB_STAT.MERGED, .reg Reg.RTE_COMB_STAT.PEAK, .reg Reg.RTE_LINK_CNT.NAKS] : List Part) ++ ([.reg Reg.RTE_LINK_CNT.REPLAYED, .reg Reg.RTE_LINK_CNT.TX_FLITS, .reg Reg.RTE_LINK_CREDIT.RES, .reg Reg.RTE_LINK_CREDIT.SHARED, .reg Reg.RTE_LINK_STATUS.RESULT, .reg Reg.RTE_LINK_STATUS.STATE, .ports, .router, .tally] : List Part)) K) (hF : ∀ f, F f)
    (ho : Only K F P s0 s) : Only K F P s0 (State.engLight s e src) := by
  unfold State.engLight
  repeat' first | with_reducible assumption | exact Fits.trans (by decide +kernel) hK | exact hF | exact hF _ | with_reducible apply State.updLight_only | with_reducible apply State.engSet_only | with_reducible apply State.engSetSrc_only | with_reducible apply State.linkLocked_only | with_reducible apply State.linkStart_only | with_reducible apply State.shutterOpen_only | with_reducible apply State.hostSet_only | with_reducible apply State.raiseHub_only | with_reducible apply Only.ite | dsimp only | split | (with_reducible refine Only.foldl _ _ (fun t a ht => ?_) ?_) | (with_reducible refine Only.foldl_fst _ _ _ (fun t a ht => ?_) ?_) | (with_reducible refine Only.fst (by with_reducible assumption) ?_) | (with_reducible refine Only.snd (by with_reducible assumption) ?_)

theorem State.engCalibrate_only {K : List Part} {F : FieldId → Prop} {P : PlotId → Prop} {s0 : State} (s : State) (e : Nat) (hK : Fits ([.hostTx, .ports] : List Part) K) (hF : ∀ f, F f)
    (ho : Only K F P s0 s) : Only K F P s0 (State.engCalibrate s e) := by
  unfold State.engCalibrate
  repeat' first | with_reducible assumption | exact Fits.trans (by decide +kernel) hK | exact hF | exact hF _ | with_reducible apply State.updPort_only | with_reducible apply State.setHostTx_only | with_reducible apply Only.ite | dsimp only | split | (with_reducible refine Only.foldl _ _ (fun t a ht => ?_) ?_) | (with_reducible refine Only.foldl_fst _ _ _ (fun t a ht => ?_) ?_) | (with_reducible refine Only.fst (by with_reducible assumption) ?_) | (with_reducible refine Only.snd (by with_reducible assumption) ?_)

theorem State.lightSet_only {K : List Part} {F : FieldId → Prop} {P : PlotId → Prop} {s0 : State} (s : State) (new : Nat) (hK : Fits ([.events, .hubReg Reg.HDL_LIGHT_STATUS.STATE] : List Part) K)
    (ho : Only K F P s0 s) : Only K F P s0 (State.lightSet s new) := by
  unfold State.lightSet
  repeat' first | with_reducible assumption | exact Fits.trans (by decide +kernel) hK | with_reducible apply State.raiseHub_only | with_reducible apply State.hset_only | with_reducible apply Only.ite | dsimp only | split | (with_reducible refine Only.fst (by with_reducible assumption) ?_) | (with_reducible refine Only.snd (by with_reducible assumption) ?_)

theorem State.lightEnd_only {K : List Part} {F : FieldId → Prop} {P : PlotId → Prop} {s0 : State} (s : State) (result state : Nat) (hK : Fits ([.events, .hubReg Reg.HDL_LIGHT_STATUS.RESULT, .hubReg Reg.HDL_LIGHT_STATUS.STATE] : List Part) K)
    (ho : Only K F P s0 s) : Only K F P s0 (State.lightEnd s result state) := by
  unfold State.lightEnd
  repeat' first | with_reducible assumption | exact Fits.trans (by decide +kernel) hK | with_reducible apply State.lightSet_only | with_reducible apply State.hset_only | with_reducible apply Only.ite | dsimp only | split | (with_reducible refine Only.fst (by with_reducible assumption) ?_) | (with_reducible refine Only.snd (by with_reducible assumption) ?_)

theorem State.moduleFault_only {K : List Part} {F : FieldId → Prop} {P : PlotId → Prop} {s0 : State} (s : State) (m faults : Nat) (inj : Bool) (hK : Fits ([.events, .hubReg Reg.HDL_MODULE.FAULT, .light] : List Part) K)
    (ho : Only K F P s0 s) : Only K F P s0 (State.moduleFault s m faults inj) := by
  unfold State.moduleFault
  repeat' first | with_reducible assumption | exact Fits.trans (by decide +kernel) hK | with_reducible apply State.hset_only | with_reducible apply State.raiseHub_only | with_reducible apply State.updLight_only | with_reducible apply Only.ite | dsimp only | split | (with_reducible refine Only.fst (by with_reducible assumption) ?_) | (with_reducible refine Only.snd (by with_reducible assumption) ?_)

theorem State.switchTaken_only {K : List Part} {F : FieldId → Prop} {P : PlotId → Prop} {s0 : State} (s : State) (r : SwReq) (hK : Fits ([.reg Reg.HDL_ENGINE_CTL.NOW, .reg Reg.HDL_ENGINE_CTL.REQ] : List Part) K) (hF : ∀ f, F f)
    (ho : Only K F P s0 s) : Only K F P s0 (State.switchTaken s r) := by
  unfold State.switchTaken
  repeat' first | with_reducible assumption | exact Fits.trans (by decide +kernel) hK | exact hF | exact hF _ | with_reducible apply State.fset_only | with_reducible apply Only.ite | dsimp only | split | (with_reducible refine Only.fst (by with_reducible assumption) ?_) | (with_reducible refine Only.snd (by with_reducible assumption) ?_)

theorem State.switchEvent_only {K : List Part} {F : FieldId → Prop} {P : PlotId → Prop} {s0 : State} (s : State) (r : SwReq) (old micros outcome : Nat) (hK : Fits ([.events] : List Part) K)
    (ho : Only K F P s0 s) : Only K F P s0 (State.switchEvent s r old micros outcome) := by
  unfold State.switchEvent
  repeat' first | with_reducible assumption | exact Fits.trans (by decide +kernel) hK | with_reducible apply State.raise_only | with_reducible apply State.raiseHub_only | with_reducible apply Only.ite | dsimp only | split | (with_reducible refine Only.fst (by with_reducible assumption) ?_) | (with_reducible refine Only.snd (by with_reducible assumption) ?_)

theorem State.calAbort_only {K : List Part} {F : FieldId → Prop} {P : PlotId → Prop} {s0 : State} (s : State) (f : FieldId) (n : PortId) (hK : Fits ([.events, .out, .reg Reg.HDL_CAL_STAT.ABORTED, .reg Reg.INJ_PT.ARM, .reg Reg.INJ_PT.DONE, .reg Reg.RTE_COMB_STAT.MERGED, .reg Reg.RTE_COMB_STAT.PEAK, .reg Reg.RTE_LINK_CNT.NAKS, .reg Reg.RTE_LINK_CNT.REPLAYED, .reg Reg.RTE_LINK_CNT.TX_FLITS, .reg Reg.RTE_LINK_CREDIT.RES, .reg Reg.RTE_LINK_CREDIT.SHARED, .ports, .router, .tally] : List Part) K) (hF : F f)
    (ho : Only K F P s0 s) : Only K F P s0 (State.calAbort s f n) := by
  unfold State.calAbort
  repeat' first | with_reducible assumption | exact Fits.trans (by decide +kernel) hK | exact hF | with_reducible apply State.laneActs_only | with_reducible apply State.fcount_only | with_reducible apply State.setTx_only | with_reducible apply Only.ite | dsimp only | split | (with_reducible refine Only.fst (by with_reducible assumption) ?_) | (with_reducible refine Only.snd (by with_reducible assumption) ?_)

theorem State.hostCalAbort_only {K : List Part} {F : FieldId → Prop} {P : PlotId → Prop} {s0 : State} (s : State) (hK : Fits ([.events, .out, .hubReg Reg.HUB_HOST_PHY_STATUS.RECOVERIES, .hubReg Reg.HUB_HOST_PHY_STATUS.STATE, .hubReg Reg.HUB_HOST_PHY_STATUS.WIDTH, .hostTx, .host] : List Part) K)
    (ho : Only K F P s0 s) : Only K F P s0 (State.hostCalAbort s) := by
  unfold State.hostCalAbort
  repeat' first | with_reducible assumption | exact Fits.trans (by decide +kernel) hK | with_reducible apply State.hostActs_only | with_reducible apply State.setHostTx_only | with_reducible apply Only.ite | dsimp only | split | (with_reducible refine Only.fst (by with_reducible assumption) ?_) | (with_reducible refine Only.snd (by with_reducible assumption) ?_)

theorem State.pauseBegin_only {K : List Part} {F : FieldId → Prop} {P : PlotId → Prop} {s0 : State} (s : State) (f : FieldId) (n : PortId) (hK : Fits ([.events, .out, .reg Reg.HDL_CAL_STAT.ABORTED, .reg Reg.INJ_PT.ARM, .reg Reg.INJ_PT.DONE, .reg Reg.RTE_COMB_STAT.MERGED, .reg Reg.RTE_COMB_STAT.PEAK, .reg Reg.RTE_LINK_CNT.NAKS, .reg Reg.RTE_LINK_CNT.REPLAYED, .reg Reg.RTE_LINK_CNT.TX_FLITS, .reg Reg.RTE_LINK_CREDIT.RES, .reg Reg.RTE_LINK_CREDIT.SHARED, .ports, .router, .tally] : List Part) K) (hF : F f)
    (ho : Only K F P s0 s) : Only K F P s0 (State.pauseBegin s f n) := by
  unfold State.pauseBegin
  repeat' first | with_reducible assumption | exact Fits.trans (by decide +kernel) hK | exact hF | with_reducible apply State.emit_only | with_reducible apply State.flitsCut_only | with_reducible apply State.laneSend_only | with_reducible apply State.calAbort_only | with_reducible apply State.updPort_only | with_reducible apply Only.ite | dsimp only | split | (with_reducible refine Only.fst (by with_reducible assumption) ?_) | (with_reducible refine Only.snd (by with_reducible assumption) ?_)

theorem State.pauseEnd_only {K : List Part} {F : FieldId → Prop} {P : PlotId → Prop} {s0 : State} (s : State) (f : FieldId) (n : PortId) (hK : Fits (([.events, .out, .reg Reg.HDL_PORT_STATUS.TX_MODE, .reg Reg.INJ_PT.ARM, .reg Reg.INJ_PT.DONE, .reg Reg.RTE_COMB_STAT.MERGED, .reg Reg.RTE_COMB_STAT.PEAK, .reg Reg.RTE_LINK_CNT.LOST, .reg Reg.RTE_LINK_CNT.NAKS, .reg Reg.RTE_LINK_CNT.REPLAYED, .reg Reg.RTE_LINK_CNT.RETRAINS, .reg Reg.RTE_LINK_CNT.TX_FLITS, .reg Reg.RTE_LINK_CREDIT.RES, .reg Reg.RTE_LINK_CREDIT.SHARED, .reg Reg.RTE_LINK_STATUS.PRESERVED, .reg Reg.RTE_LINK_STATUS.RESULT] : List Part) ++ ([.reg Reg.RTE_LINK_STATUS.STATE, .ports, .router, .tally] : List Part)) K) (hF : F f)
    (ho : Only K F P s0 s) : Only K F P s0 (State.pauseEnd s f n) := by
  unfold State.pauseEnd
  repeat' first | with_reducible assumption | exact Fits.trans (by decide +kernel) hK | exact hF | with_reducible apply State.txResume_only | with_reducible apply State.updPort_only | with_reducible apply State.idleFor_only | with_reducible apply Only.ite | dsimp only | split | (with_reducible refine Only.fst (by with_reducible assumption) ?_) | (with_reducible refine Only.snd (by with_reducible assumption) ?_)

theorem State.switchBegin_only {K : List Part} {F : FieldId → Prop} {P : PlotId → Prop} {s0 : State} (s : State) (r : SwReq) (hK : Fits (([.events, .out, .hubReg Reg.HDL_HOST_ENGINE.SRC, .hubReg Reg.HDL_HOST_ENGINE.SWITCHING, .hubReg Reg.HUB_HOST_PHY_STATUS.PAUSE, .hubReg Reg.HUB_HOST_PHY_STATUS.RECOVERIES, .hubReg Reg.HUB_HOST_PHY_STATUS.STATE, .hubReg Reg.HUB_HOST_PHY_STATUS.WIDTH, .light, .hostTx, .host, .reg Reg.HDL_CAL_STAT.ABORTED, .reg Reg.HDL_ENGINE_STATUS.SRC, .reg Reg.HDL_ENGINE_STATUS.SWITCHING, .reg Reg.INJ_PT.ARM, .reg Reg.INJ_PT.DONE] : List Part) ++ ([.reg Reg.RTE_COMB_STAT.MERGED, .reg Reg.RTE_COMB_STAT.PEAK, .reg Reg.RTE_LINK_CNT.NAKS, .reg Reg.RTE_LINK_CNT.REPLAYED, .reg Reg.RTE_LINK_CNT.TX_FLITS, .reg Reg.RTE_LINK_CREDIT.RES, .reg Reg.RTE_LINK_CREDIT.SHARED, .ports, .router, .tally] : List Part)) K) (hF : ∀ f, F f)
    (ho : Only K F P s0 s) : Only K F P s0 (State.switchBegin s r) := by
  unfold State.switchBegin
  repeat' first | with_reducible assumption | exact Fits.trans (by decide +kernel) hK | exact hF | exact hF _ | with_reducible apply State.pauseBegin_only | with_reducible apply State.engSet_only | with_reducible apply State.updLight_only | with_reducible apply State.engSetSrc_only | with_reducible apply State.hostRecover_only | with_reducible apply State.hset_only | with_reducible apply State.hostCalAbort_only | with_reducible apply Only.ite | dsimp only | split | (with_reducible refine Only.foldl _ _ (fun t a ht => ?_) ?_) | (with_reducible refine Only.foldl_fst _ _ _ (fun t a ht => ?_) ?_) | (with_reducible refine Only.fst (by with_reducible assumption) ?_) | (with_reducible refine Only.snd (by with_reducible assumption) ?_)

theorem State.switchEnd_only {K : List Part} {F : FieldId → Prop} {P : PlotId → Prop} {s0 : State} (s : State) (r : SwReq) (micros : Nat) (lost : List (Nat × Nat)) (hK : Fits (([.events, .out, .hubReg Reg.HDL_HOST_ENGINE.SWITCHING, .hubReg Reg.HUB_HOST_PHY_STATUS.PAUSE, .hubReg Reg.HUB_HOST_PHY_STATUS.RECOVERIES, .hubReg Reg.HUB_HOST_PHY_STATUS.STATE, .hubReg Reg.HUB_HOST_PHY_STATUS.WIDTH, .light, .hostTx, .host, .reg Reg.HDL_CAL_STAT.ABORTED, .reg Reg.HDL_ENGINE_STATUS.SWITCHING, .reg Reg.HDL_PORT_STATUS.TX_MODE, .reg Reg.INJ_PT.ARM, .reg Reg.INJ_PT.DONE, .reg Reg.RTE_COMB_STAT.MERGED] : List Part) ++ ([.reg Reg.RTE_COMB_STAT.PEAK, .reg Reg.RTE_LINK_CNT.LOST, .reg Reg.RTE_LINK_CNT.NAKS, .reg Reg.RTE_LINK_CNT.REPLAYED, .reg Reg.RTE_LINK_CNT.RETRAINS, .reg Reg.RTE_LINK_CNT.TX_FLITS, .reg Reg.RTE_LINK_CREDIT.RES, .reg Reg.RTE_LINK_CREDIT.SHARED, .reg Reg.RTE_LINK_STATUS.PRESERVED, .reg Reg.RTE_LINK_STATUS.RESULT, .reg Reg.RTE_LINK_STATUS.STATE, .ports, .router, .health, .tally] : List Part)) K) (hF : ∀ f, F f)
    (ho : Only K F P s0 s) : Only K F P s0 (State.switchEnd s r micros lost) := by
  unfold State.switchEnd
  repeat' first | with_reducible assumption | exact Fits.trans (by decide +kernel) hK | exact hF | exact hF _ | with_reducible apply State.engSet_only | with_reducible apply State.pauseEnd_only | with_reducible apply State.updLight_only | with_reducible apply State.switchEvent_only | with_reducible apply State.txFail_only | with_reducible apply State.hostFail_only | with_reducible apply State.hset_only | with_reducible apply State.hostSet_only | with_reducible apply Only.ite | dsimp only | split | (with_reducible refine Only.foldl _ _ (fun t a ht => ?_) ?_) | (with_reducible refine Only.foldl_fst _ _ _ (fun t a ht => ?_) ?_) | (with_reducible refine Only.fst (by with_reducible assumption) ?_) | (with_reducible refine Only.snd (by with_reducible assumption) ?_)

theorem State.identRead_only {K : List Part} {F : FieldId → Prop} {P : PlotId → Prop} {s0 : State} (s : State) (ident : List (Option Nat)) (hK : Fits ([.out, .hubReg Reg.HDL_MODULE.PRESENT] : List Part) K)
    (ho : Only K F P s0 s) : Only K F P s0 (State.identRead s ident) := by
  unfold State.identRead
  repeat' first | with_reducible assumption | exact Fits.trans (by decide +kernel) hK | with_reducible apply State.hset_only | with_reducible apply State.emit_only | with_reducible apply Only.ite | dsimp only | split | (with_reducible refine Only.foldl _ _ (fun t a ht => ?_) ?_) | (with_reducible refine Only.foldl_fst _ _ _ (fun t a ht => ?_) ?_) | (with_reducible refine Only.fst (by with_reducible assumption) ?_) | (with_reducible refine Only.snd (by with_reducible assumption) ?_)

theorem State.probeSend_only {K : List Part} {F : FieldId → Prop} {P : PlotId → Prop} {s0 : State} (s : State) (m : Nat) (hK : Fits ([.out] : List Part) K)
    (ho : Only K F P s0 s) : Only K F P s0 (State.probeSend s m) := by
  unfold State.probeSend
  repeat' first | with_reducible assumption | exact Fits.trans (by decide +kernel) hK | with_reducible apply State.emit_only | with_reducible apply Only.ite | dsimp only | split | (with_reducible refine Only.foldl _ _ (fun t a ht => ?_) ?_) | (with_reducible refine Only.foldl_fst _ _ _ (fun t a ht => ?_) ?_) | (with_reducible refine Only.fst (by with_reducible assumption) ?_) | (with_reducible refine Only.snd (by with_reducible assumption) ?_)

theorem State.fullOn_only {K : List Part} {F : FieldId → Prop} {P : PlotId → Prop} {s0 : State} (s : State) (m mask : Nat) (hK : Fits ([.out, .hubReg Reg.HDL_MODULE.OUTPUT_ON, .hubReg Reg.HDL_MODULE.PROBE_FAIL] : List Part) K)
    (ho : Only K F P s0 s) : Only K F P s0 (State.fullOn s m mask) := by
  unfold State.fullOn
  repeat' first | with_reducible assumption | exact Fits.trans (by decide +kernel) hK | with_reducible apply State.hset_only | with_reducible apply State.emit_only | with_reducible apply Only.ite | dsimp only | split | (with_reducible refine Only.fst (by with_reducible assumption) ?_) | (with_reducible refine Only.snd (by with_reducible assumption) ?_)

theorem State.engProbed_only {K : List Part} {F : FieldId → Prop} {P : PlotId → Prop} {s0 : State} (s : State) (e : Nat) (wasLit : Bool) (maskA maskB : Nat) (hK : Fits (([.events, .out, .hubReg Reg.HDL_HOST_ENGINE.DARK, .hubReg Reg.HDL_HOST_ENGINE.INLET_A_OK, .hubReg Reg.HDL_HOST_ENGINE.INLET_B_OK, .hubReg Reg.HDL_HOST_ENGINE.SRC, .hubReg Reg.HDL_HOST_ENGINE.SWITCHING, .hubReg Reg.HUB_HOST_PHY_STATUS.STATE, .hubReg Reg.HUB_HOST_PHY_STATUS.WIDTH, .light, .hostTx, .host, .reg Reg.HDL_ENGINE_STATUS.DARK, .reg Reg.HDL_ENGINE_STATUS.INLET_A_OK, .reg Reg.HDL_ENGINE_STATUS.INLET_B_OK, .reg Reg.HDL_ENGINE_STATUS.SRC] : List Part) ++ ([.reg Reg.HDL_ENGINE_STATUS.SWITCHING, .reg Reg.HDL_PORT_STATUS.APR, .reg Reg.INJ_PT.ARM, .reg Reg.INJ_PT.DONE, .reg Reg.RTE_COMB_STAT.MERGED, .reg Reg.RTE_COMB_STAT.PEAK, .reg Reg.RTE_LINK_CNT.LOST, .reg Reg.RTE_LINK_CNT.NAKS, .reg Reg.RTE_LINK_CNT.REPLAYED, .reg Reg.RTE_LINK_CNT.TX_FLITS, .reg Reg.RTE_LINK_CREDIT.RES, .reg Reg.RTE_LINK_CREDIT.SHARED, .reg Reg.RTE_LINK_STATUS.PRESERVED, .reg Reg.RTE_LINK_STATUS.RESULT, .reg Reg.RTE_LINK_STATUS.STATE, .ports] : List Part) ++ ([.router, .tally] : List Part)) K) (hF : ∀ f, F f)
    (ho : Only K F P s0 s) : Only K F P s0 (State.engProbed s e wasLit maskA maskB) := by
  unfold State.engProbed
  repeat' first | with_reducible assumption | exact Fits.trans (by decide +kernel) hK | exact hF | exact hF _ | with_reducible apply State.setInlet_only | with_reducible apply State.engCalibrate_only | with_reducible apply State.engLight_only | with_reducible apply State.engDarken_only | with_reducible apply Only.ite | dsimp only | split | (with_reducible refine Only.fst (by with_reducible assumption) ?_) | (with_reducible refine Only.snd (by with_reducible assumption) ?_)

theorem State.lightSteps_only {K : List Part} {F : FieldId → Prop} {P : PlotId → Prop} {s0 : State} (s : State) (env : LightEnv) (hK : Fits (([.events, .out, .hubReg Reg.HDL_HOST_ENGINE.DARK, .hubReg Reg.HDL_HOST_ENGINE.INLET_A_OK, .hubReg Reg.HDL_HOST_ENGINE.INLET_B_OK, .hubReg Reg.HDL_HOST_ENGINE.SRC, .hubReg Reg.HDL_HOST_ENGINE.SWITCHING, .hubReg Reg.HDL_LIGHT_STATUS.RESULT, .hubReg Reg.HDL_LIGHT_STATUS.STATE, .hubReg Reg.HDL_MODULE.FAULT, .hubReg Reg.HDL_MODULE.OUTPUT_ON, .hubReg Reg.HDL_MODULE.PRESENT, .hubReg Reg.HDL_MODULE.PROBE_FAIL, .hubReg Reg.HUB_HOST_PHY_STATUS.STATE, .hubReg Reg.HUB_HOST_PHY_STATUS.WIDTH, .light] : List Part) ++ ([.hostTx, .host, .reg Reg.HDL_ENGINE_STATUS.DARK, .reg Reg.HDL_ENGINE_STATUS.INLET_A_OK, .reg Reg.HDL_ENGINE_STATUS.INLET_B_OK, .reg Reg.HDL_ENGINE_STATUS.SRC, .reg Reg.HDL_ENGINE_STATUS.SWITCHING, .reg Reg.HDL_PORT_STATUS.APR, .reg Reg.INJ_PT.ARM, .reg Reg.INJ_PT.DONE, .reg Reg.RTE_COMB_STAT.MERGED, .reg Reg.RTE_COMB_STAT.PEAK, .reg Reg.RTE_LINK_CNT.LOST, .reg Reg.RTE_LINK_CNT.NAKS, .reg Reg.RTE_LINK_CNT.REPLAYED, .reg Reg.RTE_LINK_CNT.TX_FLITS] : List Part) ++ ([.reg Reg.RTE_LINK_CREDIT.RES, .reg Reg.RTE_LINK_CREDIT.SHARED, .reg Reg.RTE_LINK_STATUS.PRESERVED, .reg Reg.RTE_LINK_STATUS.RESULT, .reg Reg.RTE_LINK_STATUS.STATE, .ports, .router, .tally] : List Part)) K) (hF : ∀ f, F f)
    (ho : Only K F P s0 s) : Only K F P s0 (State.lightSteps s env) := by
  unfold State.lightSteps
  repeat' first | with_reducible assumption | exact Fits.trans (by decide +kernel) hK | exact hF | exact hF _ | with_reducible apply State.identRead_only | with_reducible apply State.lightSet_only | with_reducible apply State.lightEnd_only | with_reducible apply State.hset_only | with_reducible apply State.moduleFault_only | with_reducible apply State.fullOn_only | with_reducible apply State.probeSend_only | with_reducible apply State.engProbed_only | with_reducible apply State.raiseHub_only | with_reducible apply Only.ite | dsimp only | split | (with_reducible refine Only.foldl _ _ (fun t a ht => ?_) ?_) | (with_reducible refine Only.foldl_fst _ _ _ (fun t a ht => ?_) ?_) | (with_reducible refine Only.fst (by with_reducible assumption) ?_) | (with_reducible refine Only.snd (by with_reducible assumption) ?_)

theorem State.darkAll_only {K : List Part} {F : FieldId → Prop} {P : PlotId → Prop} {s0 : State} (s : State) (es : List Nat) (hK : Fits (([.events, .out, .hubReg Reg.HDL_HOST_ENGINE.DARK, .hubReg Reg.HDL_HOST_ENGINE.INLET_A_OK, .hubReg Reg.HDL_HOST_ENGINE.INLET_B_OK, .hubReg Reg.HDL_HOST_ENGINE.SWITCHING, .hubReg Reg.HDL_MODULE.OUTPUT_ON, .hubReg Reg.HUB_HOST_PHY_STATUS.STATE, .hubReg Reg.HUB_HOST_PHY_STATUS.WIDTH, .light, .host, .reg Reg.HDL_ENGINE_STATUS.DARK, .reg Reg.HDL_ENGINE_STATUS.INLET_A_OK, .reg Reg.HDL_ENGINE_STATUS.INLET_B_OK, .reg Reg.HDL_ENGINE_STATUS.SWITCHING, .reg Reg.INJ_PT.ARM] : List Part) ++ ([.reg Reg.INJ_PT.DONE, .reg Reg.RTE_COMB_STAT.MERGED, .reg Reg.RTE_COMB_STAT.PEAK, .reg Reg.RTE_LINK_CNT.LOST, .reg Reg.RTE_LINK_CNT.NAKS, .reg Reg.RTE_LINK_CNT.REPLAYED, .reg Reg.RTE_LINK_CNT.TX_FLITS, .reg Reg.RTE_LINK_CREDIT.RES, .reg Reg.RTE_LINK_CREDIT.SHARED, .reg Reg.RTE_LINK_STATUS.PRESERVED, .reg Reg.RTE_LINK_STATUS.RESULT, .reg Reg.RTE_LINK_STATUS.STATE, .ports, .router, .tally] : List Part)) K) (hF : ∀ f, F f)
    (ho : Only K F P s0 s) : Only K F P s0 (State.darkAll s es) := by
  unfold State.darkAll
  repeat' first | with_reducible assumption | exact Fits.trans (by decide +kernel) hK | exact hF | exact hF _ | with_reducible apply State.engDarken_only | with_reducible apply State.setInlet_only | with_reducible apply State.updLight_only | with_reducible apply State.hset_only | with_reducible apply Only.ite | dsimp only | split | (with_reducible refine Only.foldl _ _ (fun t a ht => ?_) ?_) | (with_reducible refine Only.foldl_fst _ _ _ (fun t a ht => ?_) ?_) | (with_reducible refine Only.fst (by with_reducible assumption) ?_) | (with_reducible refine Only.snd (by with_reducible assumption) ?_)

theorem State.allDark_only {K : List Part} {F : FieldId → Prop} {P : PlotId → Prop} {s0 : State} (s : State) (hK : Fits (([.events, .out, .hubReg Reg.HDL_HOST_ENGINE.DARK, .hubReg Reg.HDL_HOST_ENGINE.INLET_A_OK, .hubReg Reg.HDL_HOST_ENGINE.INLET_B_OK, .hubReg Reg.HDL_HOST_ENGINE.SWITCHING, .hubReg Reg.HDL_MODULE.OUTPUT_ON, .hubReg Reg.HUB_HOST_PHY_STATUS.STATE, .hubReg Reg.HUB_HOST_PHY_STATUS.WIDTH, .light, .host, .reg Reg.HDL_ENGINE_STATUS.DARK, .reg Reg.HDL_ENGINE_STATUS.INLET_A_OK, .reg Reg.HDL_ENGINE_STATUS.INLET_B_OK, .reg Reg.HDL_ENGINE_STATUS.SWITCHING, .reg Reg.INJ_PT.ARM] : List Part) ++ ([.reg Reg.INJ_PT.DONE, .reg Reg.RTE_COMB_STAT.MERGED, .reg Reg.RTE_COMB_STAT.PEAK, .reg Reg.RTE_LINK_CNT.LOST, .reg Reg.RTE_LINK_CNT.NAKS, .reg Reg.RTE_LINK_CNT.REPLAYED, .reg Reg.RTE_LINK_CNT.TX_FLITS, .reg Reg.RTE_LINK_CREDIT.RES, .reg Reg.RTE_LINK_CREDIT.SHARED, .reg Reg.RTE_LINK_STATUS.PRESERVED, .reg Reg.RTE_LINK_STATUS.RESULT, .reg Reg.RTE_LINK_STATUS.STATE, .ports, .router, .tally] : List Part)) K) (hF : ∀ f, F f)
    (ho : Only K F P s0 s) : Only K F P s0 (State.allDark s) := by
  unfold State.allDark
  repeat' first | with_reducible assumption | exact Fits.trans (by decide +kernel) hK | exact hF | exact hF _ | with_reducible apply State.darkAll_only | with_reducible apply Only.ite | dsimp only | split | (with_reducible refine Only.fst (by with_reducible assumption) ?_) | (with_reducible refine Only.snd (by with_reducible assumption) ?_)

theorem State.lightSequence_only {K : List Part} {F : FieldId → Prop} {P : PlotId → Prop} {s0 : State} (s : State) (env : LightEnv) (hK : Fits (([.events, .out, .hubReg Reg.HDL_HOST_ENGINE.DARK, .hubReg Reg.HDL_HOST_ENGINE.INLET_A_OK, .hubReg Reg.HDL_HOST_ENGINE.INLET_B_OK, .hubReg Reg.HDL_HOST_ENGINE.SRC, .hubReg Reg.HDL_HOST_ENGINE.SWITCHING, .hubReg Reg.HDL_LIGHT_STATUS.RESULT, .hubReg Reg.HDL_LIGHT_STATUS.STATE, .hubReg Reg.HDL_MODULE.FAULT, .hubReg Reg.HDL_MODULE.OUTPUT_ON, .hubReg Reg.HDL_MODULE.PRESENT, .hubReg Reg.HDL_MODULE.PROBE_FAIL, .hubReg Reg.HUB_HOST_PHY_STATUS.STATE, .hubReg Reg.HUB_HOST_PHY_STATUS.WIDTH, .light] : List Part) ++ ([.hostTx, .host, .reg Reg.HDL_ENGINE_STATUS.DARK, .reg Reg.HDL_ENGINE_STATUS.INLET_A_OK, .reg Reg.HDL_ENGINE_STATUS.INLET_B_OK, .reg Reg.HDL_ENGINE_STATUS.SRC, .reg Reg.HDL_ENGINE_STATUS.SWITCHING, .reg Reg.HDL_PORT_STATUS.APR, .reg Reg.INJ_PT.ARM, .reg Reg.INJ_PT.DONE, .reg Reg.RTE_COMB_STAT.MERGED, .reg Reg.RTE_COMB_STAT.PEAK, .reg Reg.RTE_LINK_CNT.LOST, .reg Reg.RTE_LINK_CNT.NAKS, .reg Reg.RTE_LINK_CNT.REPLAYED, .reg Reg.RTE_LINK_CNT.TX_FLITS] : List Part) ++ ([.reg Reg.RTE_LINK_CREDIT.RES, .reg Reg.RTE_LINK_CREDIT.SHARED, .reg Reg.RTE_LINK_STATUS.PRESERVED, .reg Reg.RTE_LINK_STATUS.RESULT, .reg Reg.RTE_LINK_STATUS.STATE, .ports, .router, .tally] : List Part)) K) (hF : ∀ f, F f)
    (ho : Only K F P s0 s) : Only K F P s0 (State.lightSequence s env) := by
  unfold State.lightSequence
  repeat' first | with_reducible assumption | exact Fits.trans (by decide +kernel) hK | exact hF | exact hF _ | with_reducible apply State.updLight_only | with_reducible apply State.lightEnd_only | with_reducible apply State.allDark_only | with_reducible apply State.lightSteps_only | with_reducible apply Only.ite | dsimp only | split | (with_reducible refine Only.fst (by with_reducible assumption) ?_) | (with_reducible refine Only.snd (by with_reducible assumption) ?_)

end Sys2Proof.Machine
end

