-- ==== Sys2Proof/Laws/Touch/RegRead.lean ====
section
/-! SUPPORT. What each operation of Machine/RegRead.lean can change: the parts named, and nothing else. -/

namespace Sys2Proof.Machine

set_option Elab.async false

open Sys2Proof

theorem State.binWindowWord_only {K : List Part} {F : FieldId → Prop} {P : PlotId → Prop} {s0 : State} (s : State) (f : FieldId) (p : PlotId) (t row col : Nat) (hK : Fits ([.events, .binErr, .counts, .health] : List Part) K) (hF : F f)
    (ho : Only K F P s0 s) : Only K F P s0 (State.binWindowWord s f p t row col).1 := by
  unfold State.binWindowWord
  repeat' first | with_reducible assumption | exact Fits.trans (by decide +kernel) hK | exact hF | with_reducible apply State.binReadRaw_only | with_reducible apply Only.ite | dsimp only | split | (with_reducible refine Only.fst (by with_reducible assumption) ?_) | (with_reducible refine Only.snd (by with_reducible assumption) ?_)

theorem State.binWindowRead_only {K : List Part} {F : FieldId → Prop} {P : PlotId → Prop} {s0 : State} (s : State) (f : FieldId) (p : PlotId) (t row col fuel : Nat) (hK : Fits ([.events, .binErr, .counts, .health] : List Part) K) (hF : F f)
    (ho : Only K F P s0 s) : Only K F P s0 (State.binWindowRead s f p t row col fuel).1 := by
  induction fuel generalizing s col with
  | zero => exact ho
  | succ n ih =>
    rw [State.binWindowRead]
    split
    rename_i s1 w h1
    split
    rename_i s2 r h2
    exact Only.fst h2 (ih s1 (col + 1) (Only.fst h1 (State.binWindowWord_only _ _ _ _ _ _ (Fits.trans (by decide +kernel) hK) hF ho)))

theorem State.binWindowWrite_only {K : List Part} {F : FieldId → Prop} {P : PlotId → Prop} {s0 : State} (s : State) (f : FieldId) (p : PlotId) (t row col v fuel : Nat) (hK : Fits ([.bin, .binErr, .reg Reg.INJ_ARITH.ARM, .reg Reg.INJ_ARITH.DONE] : List Part) K) (hF : F f)
    (ho : Only K F P s0 s) : Only K F P s0 (State.binWindowWrite s f p t row col v fuel) := by
  induction fuel generalizing s t row col v with
  | zero => simp only [State.binWindowWrite]; (repeat' first | with_reducible assumption | exact Fits.trans (by decide +kernel) hK | exact hF | with_reducible apply State.binWrite_only | with_reducible apply Only.ite | dsimp only | split | (with_reducible refine Only.fst (by with_reducible assumption) ?_) | (with_reducible refine Only.snd (by with_reducible assumption) ?_))
  | succ fuel ih => simp only [State.binWindowWrite]; (repeat' first | with_reducible assumption | with_reducible apply ih | with_reducible assumption | exact Fits.trans (by decide +kernel) hK | exact hF | with_reducible apply State.binWrite_only | with_reducible apply Only.ite | dsimp only | split | (with_reducible refine Only.fst (by with_reducible assumption) ?_) | (with_reducible refine Only.snd (by with_reducible assumption) ?_))

theorem State.fieldRead_only {K : List Part} {F : FieldId → Prop} {P : PlotId → Prop} {s0 : State} (s : State) (f : FieldId) (off bytes : Nat) (hK : Fits ([.events, .binErr, .counts, .health] : List Part) K) (hF : F f)
    (ho : Only K F P s0 s) : Only K F P s0 (State.fieldRead s f off bytes).1 := by
  unfold State.fieldRead
  repeat' first | with_reducible assumption | exact Fits.trans (by decide +kernel) hK | exact hF | with_reducible apply State.binWindowRead_only | with_reducible apply Only.ite | dsimp only | split | (with_reducible refine Only.foldl _ _ (fun t a ht => ?_) ?_) | (with_reducible refine Only.foldl_fst _ _ _ (fun t a ht => ?_) ?_) | (with_reducible refine Only.fst (by with_reducible assumption) ?_) | (with_reducible refine Only.snd (by with_reducible assumption) ?_)

theorem State.spaceRead_only {K : List Part} {F : FieldId → Prop} {P : PlotId → Prop} {s0 : State} (s : State) (sp : Space) (off bytes : Nat) (hK : Fits ([.events, .binErr, .counts, .health] : List Part) K) (hF : ∀ f, F f)
    (ho : Only K F P s0 s) : Only K F P s0 (State.spaceRead s sp off bytes).1 := by
  unfold State.spaceRead
  repeat' first | with_reducible assumption | exact Fits.trans (by decide +kernel) hK | exact hF | exact hF _ | with_reducible apply State.fieldRead_only | with_reducible apply Only.ite | dsimp only | split | (with_reducible refine Only.fst (by with_reducible assumption) ?_) | (with_reducible refine Only.snd (by with_reducible assumption) ?_)

end Sys2Proof.Machine
end

