-- ==== Sys2Proof/Laws/Touch/HostPort.lean ====
section
/-! SUPPORT. What each operation of Machine/HostPort.lean can change: the parts named, and nothing else. -/

namespace Sys2Proof.Machine

set_option Elab.async false

open Sys2Proof

theorem State.updHost_only {K : List Part} {F : FieldId → Prop} {P : PlotId → Prop} {s0 : State} (s : State) (g : HostUnit → HostUnit) (hK : Fits ([.host] : List Part) K)
    (ho : Only K F P s0 s) : Only K F P s0 (State.updHost s g) := by
  unfold State.updHost
  repeat' first | with_reducible assumption | exact Fits.trans (by decide +kernel) hK | with_reducible apply State.updHub_only | (refine fun (X : Hub) => ?_) | with_reducible apply HubOnly.setReg | with_reducible exact HubOnly.refl _ _ | with_reducible apply HubOnly.ite | (refine HubOnly.keep rfl (fun k hk => ?_); cases k <;> first | exact trivial | exact rfl | exact ⟨rfl, rfl⟩ | exact ⟨rfl, rfl, rfl⟩ | exact ⟨rfl, rfl, rfl, rfl⟩ | exact (Fits.not hK hk rfl).elim) | with_reducible apply Only.ite | dsimp only | split | (with_reducible refine Only.fst (by with_reducible assumption) ?_) | (with_reducible refine Only.snd (by with_reducible assumption) ?_)

theorem State.updSeed_only {K : List Part} {F : FieldId → Prop} {P : PlotId → Prop} {s0 : State} (s : State) (g : SeedUnit → SeedUnit) (hK : Fits ([.seed] : List Part) K)
    (ho : Only K F P s0 s) : Only K F P s0 (State.updSeed s g) := by
  unfold State.updSeed
  repeat' first | with_reducible assumption | exact Fits.trans (by decide +kernel) hK | with_reducible apply State.updHub_only | (refine fun (X : Hub) => ?_) | with_reducible apply HubOnly.setReg | with_reducible exact HubOnly.refl _ _ | with_reducible apply HubOnly.ite | (refine HubOnly.keep rfl (fun k hk => ?_); cases k <;> first | exact trivial | exact rfl | exact ⟨rfl, rfl⟩ | exact ⟨rfl, rfl, rfl⟩ | exact ⟨rfl, rfl, rfl, rfl⟩ | exact (Fits.not hK hk rfl).elim) | with_reducible apply Only.ite | dsimp only | split | (with_reducible refine Only.fst (by with_reducible assumption) ?_) | (with_reducible refine Only.snd (by with_reducible assumption) ?_)

theorem State.retrainDo_only {K : List Part} {F : FieldId → Prop} {P : PlotId → Prop} {s0 : State} (s : State) (hK : Fits ([.events, .hubReg Reg.HUB_HOST_PHY_CTL.RETRAIN, .hubReg Reg.HUB_HOST_PHY_STATUS.RECOVERIES, .hubReg Reg.HUB_HOST_PHY_STATUS.STATE, .hubReg Reg.HUB_HOST_PHY_STATUS.WIDTH, .host] : List Part) K)
    (ho : Only K F P s0 s) : Only K F P s0 (State.retrainDo s) := by
  unfold State.retrainDo
  repeat' first | with_reducible assumption | exact Fits.trans (by decide +kernel) hK | with_reducible apply State.hostRecover_only | with_reducible apply State.hset_only | with_reducible apply Only.ite | dsimp only | split | (with_reducible refine Only.fst (by with_reducible assumption) ?_) | (with_reducible refine Only.snd (by with_reducible assumption) ?_)

theorem execHostRetrain_only {K : List Part} {F : FieldId → Prop} {P : PlotId → Prop} {s0 : State} (s : State) (hK : Fits ([.events, .hubReg Reg.HUB_HOST_PHY_CTL.RETRAIN, .hubReg Reg.HUB_HOST_PHY_STATUS.RECOVERIES, .hubReg Reg.HUB_HOST_PHY_STATUS.STATE, .hubReg Reg.HUB_HOST_PHY_STATUS.WIDTH, .host] : List Part) K)
    (ho : Only K F P s0 s) : Ends K F P s0 (execHostRetrain s) := by
  unfold execHostRetrain
  repeat' first | with_reducible assumption | exact Fits.trans (by decide +kernel) hK | with_reducible apply State.retrainDo_only | with_reducible apply State.hset_only | with_reducible apply Ends.finish | with_reducible apply Ends.next | with_reducible apply Only.ite | with_reducible apply Ends.ite | dsimp only | split | (with_reducible refine Only.fst (by with_reducible assumption) ?_) | (with_reducible refine Only.snd (by with_reducible assumption) ?_)

theorem execHostLinkRecovery_only {K : List Part} {F : FieldId → Prop} {P : PlotId → Prop} {s0 : State} (s : State) (hK : Fits ([.events, .hubReg Reg.HUB_HOST_PHY_CTL.RETRAIN, .hubReg Reg.HUB_HOST_PHY_STATUS.RECOVERIES, .hubReg Reg.HUB_HOST_PHY_STATUS.STATE, .hubReg Reg.HUB_HOST_PHY_STATUS.WIDTH, .host] : List Part) K)
    (ho : Only K F P s0 s) : Ends K F P s0 (execHostLinkRecovery s) := by
  unfold execHostLinkRecovery
  repeat' first | with_reducible assumption | exact Fits.trans (by decide +kernel) hK | with_reducible apply State.hostSet_only | with_reducible apply State.retrainDo_only | with_reducible apply Ends.finish | with_reducible apply Ends.next | with_reducible apply Only.ite | with_reducible apply Ends.ite | dsimp only | split | (with_reducible refine Only.fst (by with_reducible assumption) ?_) | (with_reducible refine Only.snd (by with_reducible assumption) ?_)

theorem execHostLinkTrained_only {K : List Part} {F : FieldId → Prop} {P : PlotId → Prop} {s0 : State} (ok : Bool) (s : State) (hK : Fits ([.events, .hubReg Reg.HUB_HOST_PHY_CTL.RETRAIN, .hubReg Reg.HUB_HOST_PHY_STATUS.RECOVERIES, .hubReg Reg.HUB_HOST_PHY_STATUS.STATE, .hubReg Reg.HUB_HOST_PHY_STATUS.WIDTH, .seed, .host] : List Part) K)
    (ho : Only K F P s0 s) : Ends K F P s0 (execHostLinkTrained ok s) := by
  unfold execHostLinkTrained
  repeat' first | with_reducible assumption | exact Fits.trans (by decide +kernel) hK | with_reducible apply State.hostSet_only | with_reducible apply State.retrainDo_only | with_reducible apply State.updSeed_only | with_reducible apply Ends.finish | with_reducible apply Ends.next | with_reducible apply Only.ite | with_reducible apply Ends.ite | dsimp only | split | (with_reducible refine Only.fst (by with_reducible assumption) ?_) | (with_reducible refine Only.snd (by with_reducible assumption) ?_)

theorem execAspmL1Entry_only {K : List Part} {F : FieldId → Prop} {P : PlotId → Prop} {s0 : State} (s : State) (hK : Fits ([.events, .hubReg Reg.HUB_HOST_PHY_STATUS.STATE, .hubReg Reg.HUB_HOST_PHY_STATUS.WIDTH, .host] : List Part) K)
    (ho : Only K F P s0 s) : Ends K F P s0 (execAspmL1Entry s) := by
  unfold execAspmL1Entry
  repeat' first | with_reducible assumption | exact Fits.trans (by decide +kernel) hK | with_reducible apply State.hostSet_only | with_reducible apply Ends.finish | with_reducible apply Ends.next | with_reducible apply Only.ite | with_reducible apply Ends.ite | dsimp only | split | (with_reducible refine Only.fst (by with_reducible assumption) ?_) | (with_reducible refine Only.snd (by with_reducible assumption) ?_)

theorem State.hostWake_only {K : List Part} {F : FieldId → Prop} {P : PlotId → Prop} {s0 : State} (s : State) (hK : Fits ([.events, .hubReg Reg.HUB_HOST_PHY_STATUS.STATE, .hubReg Reg.HUB_HOST_PHY_STATUS.WIDTH, .host] : List Part) K)
    (ho : Only K F P s0 s) : Only K F P s0 (State.hostWake s) := by
  unfold State.hostWake
  repeat' first | with_reducible assumption | exact Fits.trans (by decide +kernel) hK | with_reducible apply State.hostSet_only | with_reducible apply Only.ite | dsimp only | split | (with_reducible refine Only.fst (by with_reducible assumption) ?_) | (with_reducible refine Only.snd (by with_reducible assumption) ?_)

theorem State.evtCons_only {K : List Part} {F : FieldId → Prop} {P : PlotId → Prop} {s0 : State} (s : State) (sp : Space) (v : Nat) (hK : Fits ([.hubReg Reg.HUB_EVT_IDX.CONS, .msix, .reg Reg.FLD_EVT_IDX.CONS] : List Part) K) (hF : ∀ f, F f)
    (ho : Only K F P s0 s) : Only K F P s0 (State.evtCons s sp v) := by
  unfold State.evtCons
  repeat' first | with_reducible assumption | exact Fits.trans (by decide +kernel) hK | exact hF | exact hF _ | with_reducible apply State.hset_only | with_reducible apply State.fset_only | with_reducible apply State.updHub_only | (refine fun (X : Hub) => ?_) | with_reducible apply HubOnly.setReg | with_reducible exact HubOnly.refl _ _ | with_reducible apply HubOnly.ite | (refine HubOnly.keep rfl (fun k hk => ?_); cases k <;> first | exact trivial | exact rfl | exact ⟨rfl, rfl⟩ | exact ⟨rfl, rfl, rfl⟩ | exact ⟨rfl, rfl, rfl, rfl⟩ | exact (Fits.not hK hk rfl).elim) | with_reducible apply Only.ite | dsimp only | split | (with_reducible refine Only.fst (by with_reducible assumption) ?_) | (with_reducible refine Only.snd (by with_reducible assumption) ?_)

theorem State.evtCons_far {K : List Part} {F : FieldId → Prop} {P : PlotId → Prop} {s0 : State} (s : State) (sp : Space) (v : Nat) (hK : Fits (([.hubReg Reg.HUB_EVT_IDX.CONS, .msix, .reg Reg.FLD_EVT_IDX.CONS] : List Part).map Part.afar) K)
    (ho : Only K F P s0 s) : Only K F P s0 (State.evtCons s sp v) :=
  ho.trans (Only.far (l := ([.hubReg Reg.HUB_EVT_IDX.CONS, .msix, .reg Reg.FLD_EVT_IDX.CONS] : List Part)) (State.evtCons_only s sp v (Fits.refl _) (fun _ => trivial) (Only.refl _ _ _ _)) hK)

theorem execEvtConsWrite_only {K : List Part} {F : FieldId → Prop} {P : PlotId → Prop} {s0 : State} (sp : Space) (v : Nat) (s : State) (hK : Fits ([.hubReg Reg.HUB_EVT_IDX.CONS, .msix, .reg Reg.FLD_EVT_IDX.CONS] : List Part) K) (hF : ∀ f, F f)
    (ho : Only K F P s0 s) : Ends K F P s0 (execEvtConsWrite sp v s) := by
  unfold execEvtConsWrite
  repeat' first | with_reducible assumption | exact Fits.trans (by decide +kernel) hK | exact hF | exact hF _ | with_reducible apply State.evtCons_only | with_reducible apply Ends.finish | with_reducible apply Ends.next | with_reducible apply Only.ite | with_reducible apply Ends.ite | dsimp only | split | (with_reducible refine Only.fst (by with_reducible assumption) ?_) | (with_reducible refine Only.snd (by with_reducible assumption) ?_)

theorem State.evtRing_only {K : List Part} {F : FieldId → Prop} {P : PlotId → Prop} {s0 : State} (s : State) (sp : Space) (enable : Bool) (sizeLog base : Nat) (hK : Fits ([.hubReg Reg.HUB_EVT_IDX.CONS, .hubReg Reg.HUB_EVT_IDX.PROD, .hubReg Reg.HUB_EVT_RING.BASE, .hubReg Reg.HUB_EVT_RING.ENABLE, .hubReg Reg.HUB_EVT_RING.SIZE_LOG, .reg Reg.FLD_EVT_IDX.CONS, .reg Reg.FLD_EVT_IDX.PROD, .reg Reg.FLD_EVT_RING.BASE, .reg Reg.FLD_EVT_RING.ENABLE, .reg Reg.FLD_EVT_RING.SIZE_LOG] : List Part) K) (hF : ∀ f, F f)
    (ho : Only K F P s0 s) : Only K F P s0 (State.evtRing s sp enable sizeLog base) := by
  unfold State.evtRing
  repeat' first | with_reducible assumption | exact Fits.trans (by decide +kernel) hK | exact hF | exact hF _ | with_reducible apply State.hset_only | with_reducible apply State.fset_only | with_reducible apply Only.ite | dsimp only | split | (with_reducible refine Only.fst (by with_reducible assumption) ?_) | (with_reducible refine Only.snd (by with_reducible assumption) ?_)

theorem State.evtRing_far {K : List Part} {F : FieldId → Prop} {P : PlotId → Prop} {s0 : State} (s : State) (sp : Space) (enable : Bool) (sizeLog base : Nat) (hK : Fits (([.hubReg Reg.HUB_EVT_IDX.CONS, .hubReg Reg.HUB_EVT_IDX.PROD, .hubReg Reg.HUB_EVT_RING.BASE, .hubReg Reg.HUB_EVT_RING.ENABLE, .hubReg Reg.HUB_EVT_RING.SIZE_LOG, .reg Reg.FLD_EVT_IDX.CONS, .reg Reg.FLD_EVT_IDX.PROD, .reg Reg.FLD_EVT_RING.BASE, .reg Reg.FLD_EVT_RING.ENABLE, .reg Reg.FLD_EVT_RING.SIZE_LOG] : List Part).map Part.afar) K)
    (ho : Only K F P s0 s) : Only K F P s0 (State.evtRing s sp enable sizeLog base) :=
  ho.trans (Only.far (l := ([.hubReg Reg.HUB_EVT_IDX.CONS, .hubReg Reg.HUB_EVT_IDX.PROD, .hubReg Reg.HUB_EVT_RING.BASE, .hubReg Reg.HUB_EVT_RING.ENABLE, .hubReg Reg.HUB_EVT_RING.SIZE_LOG, .reg Reg.FLD_EVT_IDX.CONS, .reg Reg.FLD_EVT_IDX.PROD, .reg Reg.FLD_EVT_RING.BASE, .reg Reg.FLD_EVT_RING.ENABLE, .reg Reg.FLD_EVT_RING.SIZE_LOG] : List Part)) (State.evtRing_only s sp enable sizeLog base (Fits.refl _) (fun _ => trivial) (Only.refl _ _ _ _)) hK)

theorem execEvtRingConfig_only {K : List Part} {F : FieldId → Prop} {P : PlotId → Prop} {s0 : State} (sp : Space) (enable : Bool) (sizeLog base : Nat) (s : State) (hK : Fits ([.hubReg Reg.HUB_EVT_IDX.CONS, .hubReg Reg.HUB_EVT_IDX.PROD, .hubReg Reg.HUB_EVT_RING.BASE, .hubReg Reg.HUB_EVT_RING.ENABLE, .hubReg Reg.HUB_EVT_RING.SIZE_LOG, .reg Reg.FLD_EVT_IDX.CONS, .reg Reg.FLD_EVT_IDX.PROD, .reg Reg.FLD_EVT_RING.BASE, .reg Reg.FLD_EVT_RING.ENABLE, .reg Reg.FLD_EVT_RING.SIZE_LOG] : List Part) K) (hF : ∀ f, F f)
    (ho : Only K F P s0 s) : Ends K F P s0 (execEvtRingConfig sp enable sizeLog base s) := by
  unfold execEvtRingConfig
  repeat' first | with_reducible assumption | exact Fits.trans (by decide +kernel) hK | exact hF | exact hF _ | with_reducible apply State.evtRing_only | with_reducible apply Ends.finish | with_reducible apply Ends.next | with_reducible apply Only.ite | with_reducible apply Ends.ite | dsimp only | split | (with_reducible refine Only.fst (by with_reducible assumption) ?_) | (with_reducible refine Only.snd (by with_reducible assumption) ?_)

theorem State.msixWrite_only {K : List Part} {F : FieldId → Prop} {P : PlotId → Prop} {s0 : State} (s : State) (fn : Nat) (cfg : Option MsixConfig) (hK : Fits ([.host] : List Part) K)
    (ho : Only K F P s0 s) : Only K F P s0 (State.msixWrite s fn cfg) := by
  unfold State.msixWrite
  repeat' first | with_reducible assumption | exact Fits.trans (by decide +kernel) hK | with_reducible apply State.updHost_only | with_reducible apply Only.ite | dsimp only | split | (with_reducible refine Only.fst (by with_reducible assumption) ?_) | (with_reducible refine Only.snd (by with_reducible assumption) ?_)

theorem execMsixMessage_only {K : List Part} {F : FieldId → Prop} {P : PlotId → Prop} {s0 : State} (fn : Fin 5) (cls : Fin 12) (cfg : Option MsixConfig) (s0' : State) (hK : Fits ([.events, .out, .hubReg Reg.HUB_HOST_PHY_STATUS.STATE, .hubReg Reg.HUB_HOST_PHY_STATUS.WIDTH, .msix, .host] : List Part) K)
    (ho : Only K F P s0 s0') : Ends K F P s0 (execMsixMessage fn cls cfg s0') := by
  unfold execMsixMessage
  repeat' first | with_reducible assumption | exact Fits.trans (by decide +kernel) hK | with_reducible apply State.msixWrite_only | with_reducible apply State.updHub_only | with_reducible apply State.emit_only | with_reducible apply State.hostWake_only | with_reducible apply Ends.finish | with_reducible apply Ends.next | (refine fun (X : Hub) => ?_) | with_reducible apply HubOnly.setReg | with_reducible exact HubOnly.refl _ _ | with_reducible apply HubOnly.ite | (refine HubOnly.keep rfl (fun k hk => ?_); cases k <;> first | exact trivial | exact rfl | exact ⟨rfl, rfl⟩ | exact ⟨rfl, rfl, rfl⟩ | exact ⟨rfl, rfl, rfl, rfl⟩ | exact (Fits.not hK hk rfl).elim) | with_reducible apply Only.ite | with_reducible apply Ends.ite | dsimp only | split | (with_reducible refine Only.fst (by with_reducible assumption) ?_) | (with_reducible refine Only.snd (by with_reducible assumption) ?_)

theorem State.mbxReset_only {K : List Part} {F : FieldId → Prop} {P : PlotId → Prop} {s0 : State} (s : State) (ep : MbxEp) (hK : Fits (([.hubReg Reg.MBX_HUB_IN_META.EPOCH, .hubReg Reg.MBX_HUB_IN_META.FULL, .hubReg Reg.MBX_HUB_IN_META.TAG, .hubReg Reg.MBX_HUB_IN_PTR.PTR, .hubReg Reg.MBX_HUB_OUT_ACK.CODE, .hubReg Reg.MBX_HUB_OUT_ACK.DONE, .hubReg Reg.MBX_HUB_OUT_META.EPOCH, .hubReg Reg.MBX_HUB_OUT_META.PENDING, .hubReg Reg.MBX_HUB_OUT_META.REFUSED, .hubReg Reg.MBX_HUB_OUT_META.TAG, .hubReg Reg.MBX_HUB_OUT_PTR.PTR, .hubReg Reg.MBX_HUB_ROLE.EPOCH, .hubSlots, .reg Reg.MBX_RIMP_IN_META.SENDER, .reg Reg.MBX_RIMP_OUT_META.TARGET, .reg Reg.MBX_RIM_IN_META.EPOCH] : List Part) ++ ([.reg Reg.MBX_RIM_IN_META.FULL, .reg Reg.MBX_RIM_IN_META.TAG, .reg Reg.MBX_RIM_IN_PTR.PTR, .reg Reg.MBX_RIM_OUT_ACK.CODE, .reg Reg.MBX_RIM_OUT_ACK.DONE, .reg Reg.MBX_RIM_OUT_META.EPOCH, .reg Reg.MBX_RIM_OUT_META.PENDING, .reg Reg.MBX_RIM_OUT_META.REFUSED, .reg Reg.MBX_RIM_OUT_META.TAG, .reg Reg.MBX_RIM_OUT_PTR.PTR, .reg Reg.MBX_RIM_ROLE.EPOCH, .slot, .plotReg Reg.MBX_PLOT_IN_META.EPOCH, .plotReg Reg.MBX_PLOT_IN_META.FULL, .plotReg Reg.MBX_PLOT_IN_META.TAG, .plotReg Reg.MBX_PLOT_IN_PTR.PTR] : List Part) ++ ([.plotReg Reg.MBX_PLOT_OUT_ACK.CODE, .plotReg Reg.MBX_PLOT_OUT_ACK.DONE, .plotReg Reg.MBX_PLOT_OUT_META.EPOCH, .plotReg Reg.MBX_PLOT_OUT_META.PENDING, .plotReg Reg.MBX_PLOT_OUT_META.REFUSED, .plotReg Reg.MBX_PLOT_OUT_META.TAG, .plotReg Reg.MBX_PLOT_OUT_PTR.PTR, .plotReg Reg.MBX_PLOT_ROLE.EPOCH, .rimSlots] : List Part)) K) (hF : ∀ f, F f) (hP : ∀ p, P p)
    (ho : Only K F P s0 s) : Only K F P s0 (State.mbxReset s ep) := by
  unfold State.mbxReset
  repeat' first | with_reducible assumption | exact Fits.trans (by decide +kernel) hK | exact hF | exact hP | exact hF _ | exact hP _ | with_reducible apply State.mbxSenderReset_only | with_reducible apply State.mbxReceiverReset_only | with_reducible apply State.mbxSet_only | with_reducible apply State.fset_only | with_reducible apply Only.ite | dsimp only | split | (with_reducible refine Only.foldl _ _ (fun t a ht => ?_) ?_) | (with_reducible refine Only.foldl_fst _ _ _ (fun t a ht => ?_) ?_) | (with_reducible refine Only.fst (by with_reducible assumption) ?_) | (with_reducible refine Only.snd (by with_reducible assumption) ?_) | (cases a <;> exact (Fits.trans (by decide +kernel) hK))

theorem State.evtReset_only {K : List Part} {F : FieldId → Prop} {P : PlotId → Prop} {s0 : State} (s : State) (sp : Space) (hK : Fits ([.hubReg Reg.HUB_EVT_IDX.CONS, .hubReg Reg.HUB_EVT_IDX.LOST, .hubReg Reg.HUB_EVT_IDX.PROD, .hubReg Reg.HUB_EVT_RING.BASE, .hubReg Reg.HUB_EVT_RING.ENABLE, .hubReg Reg.HUB_EVT_RING.SIZE_LOG, .msix, .reg Reg.FLD_EVT_IDX.CONS, .reg Reg.FLD_EVT_IDX.LOST, .reg Reg.FLD_EVT_IDX.PROD, .reg Reg.FLD_EVT_RING.BASE, .reg Reg.FLD_EVT_RING.ENABLE, .reg Reg.FLD_EVT_RING.SIZE_LOG] : List Part) K) (hF : ∀ f, F f)
    (ho : Only K F P s0 s) : Only K F P s0 (State.evtReset s sp) := by
  unfold State.evtReset
  repeat' first | with_reducible assumption | exact Fits.trans (by decide +kernel) hK | exact hF | exact hF _ | with_reducible apply State.hset_only | with_reducible apply State.fset_only | with_reducible apply State.updHub_only | (refine fun (X : Hub) => ?_) | with_reducible apply HubOnly.setReg | with_reducible exact HubOnly.refl _ _ | with_reducible apply HubOnly.ite | (refine HubOnly.keep rfl (fun k hk => ?_); cases k <;> first | exact trivial | exact rfl | exact ⟨rfl, rfl⟩ | exact ⟨rfl, rfl, rfl⟩ | exact ⟨rfl, rfl, rfl, rfl⟩ | exact (Fits.not hK hk rfl).elim) | with_reducible apply Only.ite | dsimp only | split | (with_reducible refine Only.fst (by with_reducible assumption) ?_) | (with_reducible refine Only.snd (by with_reducible assumption) ?_)

theorem State.mgmtReset_only {K : List Part} {F : FieldId → Prop} {P : PlotId → Prop} {s0 : State} (s : State) (hK : Fits ([.hubReg Reg.HUB_MGMT_DATA.WORD, .hubReg Reg.HUB_MGMT_REQ.NODE, .hubReg Reg.HUB_MGMT_REQ.OFFSET, .hubReg Reg.HUB_MGMT_REQ.WORDS, .hubReg Reg.HUB_MGMT_STATUS.BUSY, .hubReg Reg.HUB_MGMT_STATUS.RESULT, .host] : List Part) K)
    (ho : Only K F P s0 s) : Only K F P s0 (State.mgmtReset s) := by
  unfold State.mgmtReset
  repeat' first | with_reducible assumption | exact Fits.trans (by decide +kernel) hK | with_reducible apply State.hset_only | with_reducible apply State.updHost_only | with_reducible apply Only.ite | dsimp only | split | (with_reducible refine Only.foldl _ _ (fun t a ht => ?_) ?_) | (with_reducible refine Only.foldl_fst _ _ _ (fun t a ht => ?_) ?_) | (with_reducible refine Only.fst (by with_reducible assumption) ?_) | (with_reducible refine Only.snd (by with_reducible assumption) ?_)

theorem execFunctionLevelReset_only {K : List Part} {F : FieldId → Prop} {P : PlotId → Prop} {s0 : State} (fn : Fin 5) (s : State) (hK : Fits (([.hubReg Reg.HUB_EVT_IDX.CONS, .hubReg Reg.HUB_EVT_IDX.LOST, .hubReg Reg.HUB_EVT_IDX.PROD, .hubReg Reg.HUB_EVT_RING.BASE, .hubReg Reg.HUB_EVT_RING.ENABLE, .hubReg Reg.HUB_EVT_RING.SIZE_LOG, .hubReg Reg.HUB_MGMT_DATA.WORD, .hubReg Reg.HUB_MGMT_REQ.NODE, .hubReg Reg.HUB_MGMT_REQ.OFFSET, .hubReg Reg.HUB_MGMT_REQ.WORDS, .hubReg Reg.HUB_MGMT_STATUS.BUSY, .hubReg Reg.HUB_MGMT_STATUS.RESULT, .hubReg Reg.MBX_HUB_IN_META.EPOCH, .hubReg Reg.MBX_HUB_IN_META.FULL, .hubReg Reg.MBX_HUB_IN_META.TAG, .hubReg Reg.MBX_HUB_IN_PTR.PTR] : List Part) ++ ([.hubReg Reg.MBX_HUB_OUT_ACK.CODE, .hubReg Reg.MBX_HUB_OUT_ACK.DONE, .hubReg Reg.MBX_HUB_OUT_META.EPOCH, .hubReg Reg.MBX_HUB_OUT_META.PENDING, .hubReg Reg.MBX_HUB_OUT_META.REFUSED, .hubReg Reg.MBX_HUB_OUT_META.TAG, .hubReg Reg.MBX_HUB_OUT_PTR.PTR, .hubReg Reg.MBX_HUB_ROLE.EPOCH, .msix, .host, .hubSlots, .reg Reg.FLD_APERTURE.BASE, .reg Reg.FLD_EVT_IDX.CONS, .reg Reg.FLD_EVT_IDX.LOST, .reg Reg.FLD_EVT_IDX.PROD, .reg Reg.FLD_EVT_RING.BASE] : List Part) ++ ([.reg Reg.FLD_EVT_RING.ENABLE, .reg Reg.FLD_EVT_RING.SIZE_LOG, .reg Reg.MBX_RIMP_IN_META.SENDER, .reg Reg.MBX_RIMP_OUT_META.TARGET, .reg Reg.MBX_RIM_IN_META.EPOCH, .reg Reg.MBX_RIM_IN_META.FULL, .reg Reg.MBX_RIM_IN_META.TAG, .reg Reg.MBX_RIM_IN_PTR.PTR, .reg Reg.MBX_RIM_OUT_ACK.CODE, .reg Reg.MBX_RIM_OUT_ACK.DONE, .reg Reg.MBX_RIM_OUT_META.EPOCH, .reg Reg.MBX_RIM_OUT_META.PENDING, .reg Reg.MBX_RIM_OUT_META.REFUSED, .reg Reg.MBX_RIM_OUT_META.TAG, .reg Reg.MBX_RIM_OUT_PTR.PTR, .reg Reg.MBX_RIM_ROLE.EPOCH] : List Part) ++ ([.slot, .plotReg Reg.MBX_PLOT_IN_META.EPOCH, .plotReg Reg.MBX_PLOT_IN_META.FULL, .plotReg Reg.MBX_PLOT_IN_META.TAG, .plotReg Reg.MBX_PLOT_IN_PTR.PTR, .plotReg Reg.MBX_PLOT_OUT_ACK.CODE, .plotReg Reg.MBX_PLOT_OUT_ACK.DONE, .plotReg Reg.MBX_PLOT_OUT_META.EPOCH, .plotReg Reg.MBX_PLOT_OUT_META.PENDING, .plotReg Reg.MBX_PLOT_OUT_META.REFUSED, .plotReg Reg.MBX_PLOT_OUT_META.TAG, .plotReg Reg.MBX_PLOT_OUT_PTR.PTR, .plotReg Reg.MBX_PLOT_ROLE.EPOCH, .rimSlots] : List Part)) K) (hF : ∀ f, F f) (hP : ∀ p, P p)
    (ho : Only K F P s0 s) : Ends K F P s0 (execFunctionLevelReset fn s) := by
  unfold execFunctionLevelReset
  repeat' first | with_reducible assumption | exact Fits.trans (by decide +kernel) hK | exact hF | exact hP | exact hF _ | exact hP _ | with_reducible apply State.updHost_only | with_reducible apply State.mgmtReset_only | with_reducible apply State.mbxReset_only | with_reducible apply State.evtReset_only | with_reducible apply State.fset_only | with_reducible apply Ends.finish | with_reducible apply Ends.next | with_reducible apply Only.ite | with_reducible apply Ends.ite | dsimp only | split | (with_reducible refine Only.fst (by with_reducible assumption) ?_) | (with_reducible refine Only.snd (by with_reducible assumption) ?_)

theorem execPowerStateChange_only {K : List Part} {F : FieldId → Prop} {P : PlotId → Prop} {s0 : State} (fn : Fin 5) (d3 : Bool) (s : State) (hK : Fits ([.host] : List Part) K)
    (ho : Only K F P s0 s) : Ends K F P s0 (execPowerStateChange fn d3 s) := by
  unfold execPowerStateChange
  repeat' first | with_reducible assumption | exact Fits.trans (by decide +kernel) hK | with_reducible apply State.updHost_only | with_reducible apply Ends.finish | with_reducible apply Ends.next | with_reducible apply Only.ite | with_reducible apply Ends.ite | dsimp only | split | (with_reducible refine Only.fst (by with_reducible assumption) ?_) | (with_reducible refine Only.snd (by with_reducible assumption) ?_)

theorem State.takeInbox_only {K : List Part} {F : FieldId → Prop} {P : PlotId → Prop} {s0 : State} (s : State) (f : FieldId) (p : Packet) (hK : Fits ([.router] : List Part) K) (hF : F f)
    (ho : Only K F P s0 s) : Only K F P s0 (State.takeInbox s f p) := by
  unfold State.takeInbox
  repeat' first | with_reducible assumption | exact Fits.trans (by decide +kernel) hK | exact hF | with_reducible apply State.updRouter_only | with_reducible apply Only.ite | dsimp only | split | (with_reducible refine Only.fst (by with_reducible assumption) ?_) | (with_reducible refine Only.snd (by with_reducible assumption) ?_)

theorem State.mgmtRead_only {K : List Part} {F : FieldId → Prop} {P : PlotId → Prop} {s0 : State} (s : State) (node off words : Nat) (hK : Fits ([.hubReg Reg.HUB_MGMT_STATUS.BUSY, .hubReg Reg.HUB_MGMT_STATUS.RESULT, .host, .router] : List Part) K) (hF : ∀ f, F f)
    (ho : Only K F P s0 s) : Only K F P s0 (State.mgmtRead s node off words) := by
  unfold State.mgmtRead
  repeat' first | with_reducible assumption | exact Fits.trans (by decide +kernel) hK | exact hF | exact hF _ | with_reducible apply State.hset_only | with_reducible apply State.updHost_only | with_reducible apply State.issuePacket_only | with_reducible apply Only.ite | dsimp only | split | (with_reducible refine Only.fst (by with_reducible assumption) ?_) | (with_reducible refine Only.snd (by with_reducible assumption) ?_)

theorem execMgmtRead_only {K : List Part} {F : FieldId → Prop} {P : PlotId → Prop} {s0 : State} (node off words : Nat) (s : State) (hK : Fits ([.hubReg Reg.HUB_MGMT_STATUS.BUSY, .hubReg Reg.HUB_MGMT_STATUS.RESULT, .host, .router] : List Part) K) (hF : ∀ f, F f)
    (ho : Only K F P s0 s) : Ends K F P s0 (execMgmtRead node off words s) := by
  unfold execMgmtRead
  repeat' first | with_reducible assumption | exact Fits.trans (by decide +kernel) hK | exact hF | exact hF _ | with_reducible apply State.mgmtRead_only | with_reducible apply Ends.finish | with_reducible apply Ends.next | with_reducible apply Only.ite | with_reducible apply Ends.ite | dsimp only | split | (with_reducible refine Only.fst (by with_reducible assumption) ?_) | (with_reducible refine Only.snd (by with_reducible assumption) ?_)

theorem State.readWaited_only {K : List Part} {F : FieldId → Prop} {P : PlotId → Prop} {s0 : State} (s : State) (f : FieldId) (off : Nat) (hK : Fits ([.plotReg Reg.PLT_TINE_STALL.BIN_WAIT] : List Part) K) (hF : F f) (hP : ∀ p, P p)
    (ho : Only K F P s0 s) : Only K F P s0 (State.readWaited s f off) := by
  unfold State.readWaited
  repeat' first | with_reducible assumption | exact Fits.trans (by decide +kernel) hK | exact hF | exact hP | exact hP _ | with_reducible apply State.pwrap_only | with_reducible apply Only.ite | dsimp only | split | (with_reducible refine Only.fst (by with_reducible assumption) ?_) | (with_reducible refine Only.snd (by with_reducible assumption) ?_)

theorem State.fieldReads_only {K : List Part} {F : FieldId → Prop} {P : PlotId → Prop} {s0 : State} (s : State) (f : FieldId) (off fuel : Nat) (hK : Fits ([.events, .binErr, .counts, .health] : List Part) K) (hF : F f)
    (ho : Only K F P s0 s) : Only K F P s0 (State.fieldReads s f off fuel).1 := by
  induction fuel generalizing s off with
  | zero => simp only [State.fieldReads]; (repeat' first | with_reducible assumption | exact Fits.trans (by decide +kernel) hK | exact hF | with_reducible apply State.fieldRead_only | with_reducible apply Only.ite | dsimp only | split | (with_reducible refine Only.fst (by with_reducible assumption) ?_) | (with_reducible refine Only.snd (by with_reducible assumption) ?_))
  | succ fuel ih => simp only [State.fieldReads]; (repeat' first | with_reducible assumption | with_reducible apply ih | with_reducible assumption | exact Fits.trans (by decide +kernel) hK | exact hF | with_reducible apply State.fieldRead_only | with_reducible apply Only.ite | dsimp only | split | (with_reducible refine Only.fst (by with_reducible assumption) ?_) | (with_reducible refine Only.snd (by with_reducible assumption) ?_))

theorem State.mgmtServe_only {K : List Part} {F : FieldId → Prop} {P : PlotId → Prop} {s0 : State} (s : State) (f : FieldId) (hK : Fits ([.events, .binErr, .plotReg Reg.PLT_TINE_STALL.BIN_WAIT, .counts, .router, .health, .mgmt] : List Part) K) (hF : F f) (hP : ∀ p, P p)
    (ho : Only K F P s0 s) : Only K F P s0 (State.mgmtServe s f) := by
  unfold State.mgmtServe
  repeat' first | with_reducible assumption | exact Fits.trans (by decide +kernel) hK | exact hF | exact hP | exact hP _ | with_reducible apply State.readWaited_only | with_reducible apply State.updField_only | with_reducible apply State.fieldReads_only | with_reducible apply State.issuePacket_only | (refine fun (X : Field) => ?_) | with_reducible apply FieldOnly.setReg | with_reducible exact FieldOnly.refl _ _ _ | with_reducible apply FieldOnly.updPlot | with_reducible apply FieldOnly.ite | (refine FieldOnly.keep rfl rfl (fun k hk => ?_); cases k <;> first | exact trivial | exact rfl | exact ⟨rfl, rfl⟩ | exact ⟨rfl, rfl, rfl⟩ | exact (Fits.not hK hk rfl).elim) | with_reducible apply Only.ite | dsimp only | split | (with_reducible refine Only.fst (by with_reducible assumption) ?_) | (with_reducible refine Only.snd (by with_reducible assumption) ?_)

theorem execMgmtReadServe_only {K : List Part} {F : FieldId → Prop} {P : PlotId → Prop} {s0 : State} (f : FieldId) (arrive : Option Packet) (s : State) (hK : Fits ([.events, .binErr, .plotReg Reg.PLT_TINE_STALL.BIN_WAIT, .counts, .router, .health, .mgmt] : List Part) K) (hF : F f) (hP : ∀ p, P p)
    (ho : Only K F P s0 s) : Ends K F P s0 (execMgmtReadServe f arrive s) := by
  unfold execMgmtReadServe
  repeat' first | with_reducible assumption | exact Fits.trans (by decide +kernel) hK | exact hF | exact hP | exact hP _ | with_reducible apply State.mgmtServe_only | with_reducible apply State.takeInbox_only | with_reducible apply State.updField_only | with_reducible apply Ends.finish | with_reducible apply Ends.next | (refine fun (X : Field) => ?_) | with_reducible apply FieldOnly.setReg | with_reducible exact FieldOnly.refl _ _ _ | with_reducible apply FieldOnly.updPlot | with_reducible apply FieldOnly.ite | (refine FieldOnly.keep rfl rfl (fun k hk => ?_); cases k <;> first | exact trivial | exact rfl | exact ⟨rfl, rfl⟩ | exact ⟨rfl, rfl, rfl⟩ | exact (Fits.not hK hk rfl).elim) | with_reducible apply Only.ite | with_reducible apply Ends.ite | dsimp only | split | (with_reducible refine Only.fst (by with_reducible assumption) ?_) | (with_reducible refine Only.snd (by with_reducible assumption) ?_)

theorem State.mgmtData_only {K : List Part} {F : FieldId → Prop} {P : PlotId → Prop} {s0 : State} (s : State) (p : Packet) (words : Nat) (hK : Fits ([.free, .hubReg Reg.HUB_MGMT_DATA.WORD] : List Part) K)
    (ho : Only K F P s0 s) : Only K F P s0 (State.mgmtData s p words) := by
  unfold State.mgmtData
  repeat' first | with_reducible assumption | exact Fits.trans (by decide +kernel) hK | with_reducible apply State.hset_only | with_reducible apply State.draw_only | with_reducible apply Only.ite | dsimp only | split | (with_reducible refine Only.foldl _ _ (fun t a ht => ?_) ?_) | (with_reducible refine Only.foldl_fst _ _ _ (fun t a ht => ?_) ?_) | (with_reducible refine Only.fst (by with_reducible assumption) ?_) | (with_reducible refine Only.snd (by with_reducible assumption) ?_)

theorem execMgmtReply_only {K : List Part} {F : FieldId → Prop} {P : PlotId → Prop} {s0 : State} (pkt : Packet) (s : State) (hK : Fits ([.free, .hubReg Reg.HUB_MGMT_DATA.WORD, .hubReg Reg.HUB_MGMT_STATUS.BUSY, .hubReg Reg.HUB_MGMT_STATUS.RESULT, .host, .router] : List Part) K) (hF : ∀ f, F f)
    (ho : Only K F P s0 s) : Ends K F P s0 (execMgmtReply pkt s) := by
  unfold execMgmtReply
  repeat' first | with_reducible assumption | exact Fits.trans (by decide +kernel) hK | exact hF | exact hF _ | with_reducible apply State.takeInbox_only | with_reducible apply State.updHost_only | with_reducible apply State.hset_only | with_reducible apply State.mgmtData_only | with_reducible apply Ends.finish | with_reducible apply Ends.next | with_reducible apply Only.ite | with_reducible apply Ends.ite | dsimp only | split | (with_reducible refine Only.foldl _ _ (fun t a ht => ?_) ?_) | (with_reducible refine Only.foldl_fst _ _ _ (fun t a ht => ?_) ?_) | (with_reducible refine Only.fst (by with_reducible assumption) ?_) | (with_reducible refine Only.snd (by with_reducible assumption) ?_)

theorem execMgmtTimeoutExpiry_only {K : List Part} {F : FieldId → Prop} {P : PlotId → Prop} {s0 : State} (s : State) (hK : Fits ([.hubReg Reg.HUB_MGMT_STATUS.BUSY, .hubReg Reg.HUB_MGMT_STATUS.RESULT, .host] : List Part) K)
    (ho : Only K F P s0 s) : Ends K F P s0 (execMgmtTimeoutExpiry s) := by
  unfold execMgmtTimeoutExpiry
  repeat' first | with_reducible assumption | exact Fits.trans (by decide +kernel) hK | with_reducible apply State.updHost_only | with_reducible apply State.hset_only | with_reducible apply Ends.finish | with_reducible apply Ends.next | with_reducible apply Only.ite | with_reducible apply Ends.ite | dsimp only | split | (with_reducible refine Only.fst (by with_reducible assumption) ?_) | (with_reducible refine Only.snd (by with_reducible assumption) ?_)

theorem execEventForward_only {K : List Part} {F : FieldId → Prop} {P : PlotId → Prop} {s0 : State} (f : FieldId) (s : State) (hK : Fits ([.reg Reg.FLD_EVT_FWD.DROPPED, .router, .forward] : List Part) K) (hF : F f)
    (ho : Only K F P s0 s) : Ends K F P s0 (execEventForward f s) := by
  unfold execEventForward
  repeat' first | with_reducible assumption | exact Fits.trans (by decide +kernel) hK | exact hF | with_reducible apply Ends.inRim | with_reducible apply State.updField_only | with_reducible apply State.issuePacket_only | with_reducible apply State.fcount_only | with_reducible apply Ends.finish | with_reducible apply Ends.next | (refine fun (X : Field) => ?_) | with_reducible apply FieldOnly.setReg | with_reducible exact FieldOnly.refl _ _ _ | with_reducible apply FieldOnly.updPlot | with_reducible apply FieldOnly.ite | (refine FieldOnly.keep rfl rfl (fun k hk => ?_); cases k <;> first | exact trivial | exact rfl | exact ⟨rfl, rfl⟩ | exact ⟨rfl, rfl, rfl⟩ | exact (Fits.not hK hk rfl).elim) | with_reducible apply Only.ite | with_reducible apply Ends.ite | dsimp only | split | (with_reducible refine Only.fst (by with_reducible assumption) ?_) | (with_reducible refine Only.snd (by with_reducible assumption) ?_)

theorem execFwdDiscardTimeout_only {K : List Part} {F : FieldId → Prop} {P : PlotId → Prop} {s0 : State} (f : FieldId) (s : State) (hK : Fits ([.reg Reg.FLD_EVT_FWD.DROPPED, .forward] : List Part) K) (hF : F f)
    (ho : Only K F P s0 s) : Ends K F P s0 (execFwdDiscardTimeout f s) := by
  unfold execFwdDiscardTimeout
  repeat' first | with_reducible assumption | exact Fits.trans (by decide +kernel) hK | exact hF | with_reducible apply Ends.inRim | with_reducible apply State.fcount_only | with_reducible apply State.updField_only | with_reducible apply Ends.finish | with_reducible apply Ends.next | (refine fun (X : Field) => ?_) | with_reducible apply FieldOnly.setReg | with_reducible exact FieldOnly.refl _ _ _ | with_reducible apply FieldOnly.updPlot | with_reducible apply FieldOnly.ite | (refine FieldOnly.keep rfl rfl (fun k hk => ?_); cases k <;> first | exact trivial | exact rfl | exact ⟨rfl, rfl⟩ | exact ⟨rfl, rfl, rfl⟩ | exact (Fits.not hK hk rfl).elim) | with_reducible apply Only.ite | with_reducible apply Ends.ite | dsimp only | split | (with_reducible refine Only.fst (by with_reducible assumption) ?_) | (with_reducible refine Only.snd (by with_reducible assumption) ?_)

theorem execForwardedEvent_only {K : List Part} {F : FieldId → Prop} {P : PlotId → Prop} {s0 : State} (f : FieldId) (pkt : Packet) (s : State) (hK : Fits ([.sram, .hubReg Reg.HUB_EVT_IDX.LOST, .hubReg Reg.HUB_EVT_IDX.PROD, .msix, .router] : List Part) K) (hF : F f)
    (ho : Only K F P s0 s) : Ends K F P s0 (execForwardedEvent f pkt s) := by
  unfold execForwardedEvent
  repeat' first | with_reducible assumption | exact Fits.trans (by decide +kernel) hK | exact hF | with_reducible apply Ends.inRim | with_reducible apply State.hubRing_only | with_reducible apply State.takeInbox_only | with_reducible apply Ends.finish | with_reducible apply Ends.next | with_reducible apply Only.ite | with_reducible apply Ends.ite | dsimp only | split | (with_reducible refine Only.fst (by with_reducible assumption) ?_) | (with_reducible refine Only.snd (by with_reducible assumption) ?_)

end Sys2Proof.Machine
end

