-- ==== Sys2Proof/Laws/Touch/MirrorOps.lean ====
section
/-! SUPPORT. What each operation of Machine/MirrorOps.lean can change: the parts named, and nothing else. -/

namespace Sys2Proof.Machine

set_option Elab.async false

open Sys2Proof

theorem State.updMir_only {K : List Part} {F : FieldId → Prop} {P : PlotId → Prop} {s0 : State} (s : State) (f : FieldId) (g : MirUnit → MirUnit) (hK : Fits ([.mirror] : List Part) K) (hF : F f)
    (ho : Only K F P s0 s) : Only K F P s0 (State.updMir s f g) := by
  unfold State.updMir
  repeat' first | with_reducible assumption | exact Fits.trans (by decide +kernel) hK | exact hF | with_reducible apply State.updField_only | (refine fun (X : Field) => ?_) | with_reducible apply FieldOnly.setReg | with_reducible exact FieldOnly.refl _ _ _ | with_reducible apply FieldOnly.updPlot | with_reducible apply FieldOnly.ite | (refine FieldOnly.keep rfl rfl (fun k hk => ?_); cases k <;> first | exact trivial | exact rfl | exact ⟨rfl, rfl⟩ | exact ⟨rfl, rfl, rfl⟩ | exact (Fits.not hK hk rfl).elim) | with_reducible apply Only.ite | dsimp only | split | (with_reducible refine Only.fst (by with_reducible assumption) ?_) | (with_reducible refine Only.snd (by with_reducible assumption) ?_)

theorem State.curAll_only {K : List Part} {F : FieldId → Prop} {P : PlotId → Prop} {s0 : State} (s : State) (f : FieldId) (hK : Fits ([.memu] : List Part) K) (hF : F f)
    (ho : Only K F P s0 s) : Only K F P s0 (State.curAll s f) := by
  unfold State.curAll
  repeat' first | with_reducible assumption | exact Fits.trans (by decide +kernel) hK | exact hF | with_reducible apply State.updMemu_only | with_reducible apply Only.ite | dsimp only | split | (with_reducible refine Only.foldl _ _ (fun t a ht => ?_) ?_) | (with_reducible refine Only.foldl_fst _ _ _ (fun t a ht => ?_) ?_) | (with_reducible refine Only.fst (by with_reducible assumption) ?_) | (with_reducible refine Only.snd (by with_reducible assumption) ?_)

theorem State.mirLayoutSend_only {K : List Part} {F : FieldId → Prop} {P : PlotId → Prop} {s0 : State} (s : State) (f : FieldId) (n : Nat) (restart : Bool) (hK : Fits ([.reg Reg.INJ_PT.ARM, .reg Reg.INJ_PT.DONE, .router, .gateway] : List Part) K) (hF : F f)
    (ho : Only K F P s0 s) : Only K F P s0 (State.mirLayoutSend s f n restart) := by
  unfold State.mirLayoutSend
  repeat' first | with_reducible assumption | exact Fits.trans (by decide +kernel) hK | exact hF | with_reducible apply State.gwAccept_only | with_reducible apply Only.ite | dsimp only | split | (with_reducible refine Only.fst (by with_reducible assumption) ?_) | (with_reducible refine Only.snd (by with_reducible assumption) ?_)

theorem State.mirMarkSend_only {K : List Part} {F : FieldId → Prop} {P : PlotId → Prop} {s0 : State} (s : State) (f : FieldId) (n epoch : Nat) (hK : Fits ([.reg Reg.INJ_PT.ARM, .reg Reg.INJ_PT.DONE, .router, .gateway] : List Part) K) (hF : F f)
    (ho : Only K F P s0 s) : Only K F P s0 (State.mirMarkSend s f n epoch) := by
  unfold State.mirMarkSend
  repeat' first | with_reducible assumption | exact Fits.trans (by decide +kernel) hK | exact hF | with_reducible apply State.gwAccept_only | with_reducible apply Only.ite | dsimp only | split | (with_reducible refine Only.fst (by with_reducible assumption) ?_) | (with_reducible refine Only.snd (by with_reducible assumption) ?_)

theorem State.updMirSrc_only {K : List Part} {F : FieldId → Prop} {P : PlotId → Prop} {s0 : State} (s : State) (f : FieldId) (g : MirSource → MirSource) (hK : Fits ([.mirror] : List Part) K) (hF : F f)
    (ho : Only K F P s0 s) : Only K F P s0 (State.updMirSrc s f g) := by
  unfold State.updMirSrc
  repeat' first | with_reducible assumption | exact Fits.trans (by decide +kernel) hK | exact hF | with_reducible apply State.updMir_only | with_reducible apply Only.ite | dsimp only | split | (with_reducible refine Only.fst (by with_reducible assumption) ?_) | (with_reducible refine Only.snd (by with_reducible assumption) ?_)

theorem State.mirFound_only {K : List Part} {F : FieldId → Prop} {P : PlotId → Prop} {s0 : State} (s : State) (f : FieldId) (n : Nat) (hK : Fits ([.reg Reg.MIR_SRC_STATUS.STATE, .memu, .mirror] : List Part) K) (hF : F f)
    (ho : Only K F P s0 s) : Only K F P s0 (State.mirFound s f n) := by
  unfold State.mirFound
  repeat' first | with_reducible assumption | exact Fits.trans (by decide +kernel) hK | exact hF | with_reducible apply State.updMirSrc_only | with_reducible apply State.fset_only | with_reducible apply State.curAll_only | with_reducible apply Only.ite | dsimp only | split | (with_reducible refine Only.fst (by with_reducible assumption) ?_) | (with_reducible refine Only.snd (by with_reducible assumption) ?_)

theorem State.mirBreak_only {K : List Part} {F : FieldId → Prop} {P : PlotId → Prop} {s0 : State} (s : State) (f : FieldId) (n : Nat) (hK : Fits ([.events, .reg Reg.INJ_PT.ARM, .reg Reg.INJ_PT.DONE, .reg Reg.MIR_SRC_STATUS.BREAKS, .memu, .router, .gateway] : List Part) K) (hF : F f)
    (ho : Only K F P s0 s) : Only K F P s0 (State.mirBreak s f n) := by
  unfold State.mirBreak
  repeat' first | with_reducible assumption | exact Fits.trans (by decide +kernel) hK | exact hF | with_reducible apply State.fcount_only | with_reducible apply State.raise_only | with_reducible apply State.curAll_only | with_reducible apply State.mirLayoutSend_only | with_reducible apply Only.ite | dsimp only | split | (with_reducible refine Only.fst (by with_reducible assumption) ?_) | (with_reducible refine Only.snd (by with_reducible assumption) ?_)

theorem State.granHash_only {K : List Part} {F : FieldId → Prop} {P : PlotId → Prop} {s0 : State} (s : State) (f : FieldId) (granule addr : Nat) (hK : Fits (([.events, .hbmErr, .reg Reg.INJ_PT.ARM, .reg Reg.INJ_PT.DONE, .reg Reg.MEM_ECC_STAT.CORRECTED, .reg Reg.MEM_ECC_STAT.LAST_ADDR, .reg Reg.MEM_ECC_STAT.UNCORRECTED, .reg Reg.MEM_REPAIR_ENTRY.BANK, .reg Reg.MEM_REPAIR_ENTRY.CHANNEL, .reg Reg.MEM_REPAIR_ENTRY.PCH, .reg Reg.MEM_REPAIR_ENTRY.REASON, .reg Reg.MEM_REPAIR_ENTRY.RESULT, .reg Reg.MEM_REPAIR_ENTRY.ROW, .reg Reg.MEM_REPAIR_ENTRY.STACK, .reg Reg.MEM_REPAIR_ENTRY.VALID, .memu] : List Part) ++ ([.health] : List Part)) K) (hF : F f)
    (ho : Only K F P s0 s) : Only K F P s0 (State.granHash s f granule addr).1 := by
  unfold State.granHash
  generalize List.range granLines = l
  generalize crcStart granule = c
  split
  rename_i s1 c1 he
  refine Only.fst he ?_
  refine Only.foldl_fst l _ (s, c) ?_ ho
  intro t a ht
  obtain ⟨t, b⟩ := t
  exact State.lineRead_only _ _ _ _ (Fits.trans (by decide +kernel) hK) hF ht

theorem State.updSlot_only {K : List Part} {F : FieldId → Prop} {P : PlotId → Prop} {s0 : State} (s : State) (f : FieldId) (n : Nat) (g : MirSlot → MirSlot) (hK : Fits ([.mirror] : List Part) K) (hF : F f)
    (ho : Only K F P s0 s) : Only K F P s0 (State.updSlot s f n g) := by
  unfold State.updSlot
  repeat' first | with_reducible assumption | exact Fits.trans (by decide +kernel) hK | exact hF | with_reducible apply State.updMir_only | with_reducible apply Only.ite | dsimp only | split | (with_reducible refine Only.fst (by with_reducible assumption) ?_) | (with_reducible refine Only.snd (by with_reducible assumption) ?_)

theorem State.mirStore_only {K : List Part} {F : FieldId → Prop} {P : PlotId → Prop} {s0 : State} (s : State) (f : FieldId) (a : Nat) (bs : List Byte) (poisoned : Bool) (hK : Fits (([.events, .hbm, .hbmErr, .reg Reg.GWY_STAT.ABSORBED, .reg Reg.INJ_PT.ARM, .reg Reg.INJ_PT.DONE, .reg Reg.MEM_ECC_STAT.CORRECTED, .reg Reg.MEM_ECC_STAT.LAST_ADDR, .reg Reg.MEM_ECC_STAT.POISON_WRITES, .reg Reg.MEM_ECC_STAT.UNCORRECTED, .reg Reg.MEM_REPAIR_ENTRY.BANK, .reg Reg.MEM_REPAIR_ENTRY.CHANNEL, .reg Reg.MEM_REPAIR_ENTRY.PCH, .reg Reg.MEM_REPAIR_ENTRY.REASON, .reg Reg.MEM_REPAIR_ENTRY.RESULT, .reg Reg.MEM_REPAIR_ENTRY.ROW] : List Part) ++ ([.reg Reg.MEM_REPAIR_ENTRY.STACK, .reg Reg.MEM_REPAIR_ENTRY.VALID, .memu, .health] : List Part)) K) (hF : F f)
    (ho : Only K F P s0 s) : Only K F P s0 (State.mirStore s f a bs poisoned).1 := by
  unfold State.mirStore
  repeat' first | with_reducible assumption | exact Fits.trans (by decide +kernel) hK | exact hF | with_reducible apply State.hbmWrite_only | with_reducible apply Only.ite | dsimp only | split | (with_reducible refine Only.fst (by with_reducible assumption) ?_) | (with_reducible refine Only.snd (by with_reducible assumption) ?_)

theorem State.mirWrite_only {K : List Part} {F : FieldId → Prop} {P : PlotId → Prop} {s0 : State} (s : State) (f : FieldId) (a : Nat) (bs : List Byte) (poisoned : Bool) (hK : Fits (([.events, .hbm, .hbmErr, .reg Reg.GWY_STAT.ABSORBED, .reg Reg.INJ_PT.ARM, .reg Reg.INJ_PT.DONE, .reg Reg.MEM_ECC_STAT.CORRECTED, .reg Reg.MEM_ECC_STAT.LAST_ADDR, .reg Reg.MEM_ECC_STAT.POISON_WRITES, .reg Reg.MEM_ECC_STAT.UNCORRECTED, .reg Reg.MEM_REPAIR_ENTRY.BANK, .reg Reg.MEM_REPAIR_ENTRY.CHANNEL, .reg Reg.MEM_REPAIR_ENTRY.PCH, .reg Reg.MEM_REPAIR_ENTRY.REASON, .reg Reg.MEM_REPAIR_ENTRY.RESULT, .reg Reg.MEM_REPAIR_ENTRY.ROW] : List Part) ++ ([.reg Reg.MEM_REPAIR_ENTRY.STACK, .reg Reg.MEM_REPAIR_ENTRY.VALID, .memu, .health] : List Part)) K) (hF : F f)
    (ho : Only K F P s0 s) : Only K F P s0 (State.mirWrite s f a bs poisoned) := by
  unfold State.mirWrite
  repeat' first | with_reducible assumption | exact Fits.trans (by decide +kernel) hK | exact hF | with_reducible apply State.mirStore_only | with_reducible apply Only.ite | dsimp only | split | (with_reducible refine Only.fst (by with_reducible assumption) ?_) | (with_reducible refine Only.snd (by with_reducible assumption) ?_)

theorem State.journalHeader_only {K : List Part} {F : FieldId → Prop} {P : PlotId → Prop} {s0 : State} (s : State) (f : FieldId) (n : Nat) (hK : Fits (([.free, .events, .hbm, .hbmErr, .reg Reg.GWY_STAT.ABSORBED, .reg Reg.INJ_PT.ARM, .reg Reg.INJ_PT.DONE, .reg Reg.MEM_ECC_STAT.CORRECTED, .reg Reg.MEM_ECC_STAT.LAST_ADDR, .reg Reg.MEM_ECC_STAT.POISON_WRITES, .reg Reg.MEM_ECC_STAT.UNCORRECTED, .reg Reg.MEM_REPAIR_ENTRY.BANK, .reg Reg.MEM_REPAIR_ENTRY.CHANNEL, .reg Reg.MEM_REPAIR_ENTRY.PCH, .reg Reg.MEM_REPAIR_ENTRY.REASON, .reg Reg.MEM_REPAIR_ENTRY.RESULT] : List Part) ++ ([.reg Reg.MEM_REPAIR_ENTRY.ROW, .reg Reg.MEM_REPAIR_ENTRY.STACK, .reg Reg.MEM_REPAIR_ENTRY.VALID, .memu, .health] : List Part)) K) (hF : F f)
    (ho : Only K F P s0 s) : Only K F P s0 (State.journalHeader s f n) := by
  unfold State.journalHeader
  repeat' first | with_reducible assumption | exact Fits.trans (by decide +kernel) hK | exact hF | with_reducible apply State.draw_only | with_reducible apply State.mirWrite_only | with_reducible apply Only.ite | dsimp only | split | (with_reducible refine Only.fst (by with_reducible assumption) ?_) | (with_reducible refine Only.snd (by with_reducible assumption) ?_)

theorem State.copyHash_only {K : List Part} {F : FieldId → Prop} {P : PlotId → Prop} {s0 : State} (s : State) (f : FieldId) (n c : Nat) (hK : Fits (([.free, .events, .hbm, .hbmErr, .reg Reg.GWY_STAT.ABSORBED, .reg Reg.INJ_PT.ARM, .reg Reg.INJ_PT.DONE, .reg Reg.MEM_ECC_STAT.CORRECTED, .reg Reg.MEM_ECC_STAT.LAST_ADDR, .reg Reg.MEM_ECC_STAT.POISON_WRITES, .reg Reg.MEM_ECC_STAT.UNCORRECTED, .reg Reg.MEM_REPAIR_ENTRY.BANK, .reg Reg.MEM_REPAIR_ENTRY.CHANNEL, .reg Reg.MEM_REPAIR_ENTRY.PCH, .reg Reg.MEM_REPAIR_ENTRY.REASON, .reg Reg.MEM_REPAIR_ENTRY.RESULT] : List Part) ++ ([.reg Reg.MEM_REPAIR_ENTRY.ROW, .reg Reg.MEM_REPAIR_ENTRY.STACK, .reg Reg.MEM_REPAIR_ENTRY.VALID, .reg Reg.MIR_PART_STATUS.DIGEST, .memu, .health, .mirror] : List Part)) K) (hF : F f)
    (ho : Only K F P s0 s) : Only K F P s0 (State.copyHash s f n c) := by
  unfold State.copyHash
  repeat' first | with_reducible assumption | exact Fits.trans (by decide +kernel) hK | exact hF | with_reducible apply State.granHash_only | with_reducible apply State.fset_only | with_reducible apply State.journalHeader_only | with_reducible apply State.mirWrite_only | with_reducible apply State.updSlot_only | with_reducible apply Only.ite | dsimp only | split | (with_reducible refine Only.fst (by with_reducible assumption) ?_) | (with_reducible refine Only.snd (by with_reducible assumption) ?_)

theorem State.bufUsed_only {K : List Part} {F : FieldId → Prop} {P : PlotId → Prop} {s0 : State} (s : State) (f : FieldId) (n : Nat) (hK : Fits ([.reg Reg.MIR_PART_STATUS.BUF_USED] : List Part) K) (hF : F f)
    (ho : Only K F P s0 s) : Only K F P s0 (State.bufUsed s f n) := by
  unfold State.bufUsed
  repeat' first | with_reducible assumption | exact Fits.trans (by decide +kernel) hK | exact hF | with_reducible apply State.fset_only | with_reducible apply Only.ite | dsimp only | split | (with_reducible refine Only.fst (by with_reducible assumption) ?_) | (with_reducible refine Only.snd (by with_reducible assumption) ?_)

theorem State.copyLine_only {K : List Part} {F : FieldId → Prop} {P : PlotId → Prop} {s0 : State} (s : State) (f : FieldId) (n c off : Nat) (data : List Byte) (poisoned : Bool) (hK : Fits (([.free, .events, .hbm, .hbmErr, .reg Reg.GWY_STAT.ABSORBED, .reg Reg.INJ_PT.ARM, .reg Reg.INJ_PT.DONE, .reg Reg.MEM_ECC_STAT.CORRECTED, .reg Reg.MEM_ECC_STAT.LAST_ADDR, .reg Reg.MEM_ECC_STAT.POISON_WRITES, .reg Reg.MEM_ECC_STAT.UNCORRECTED, .reg Reg.MEM_REPAIR_ENTRY.BANK, .reg Reg.MEM_REPAIR_ENTRY.CHANNEL, .reg Reg.MEM_REPAIR_ENTRY.PCH, .reg Reg.MEM_REPAIR_ENTRY.REASON, .reg Reg.MEM_REPAIR_ENTRY.RESULT] : List Part) ++ ([.reg Reg.MEM_REPAIR_ENTRY.ROW, .reg Reg.MEM_REPAIR_ENTRY.STACK, .reg Reg.MEM_REPAIR_ENTRY.VALID, .reg Reg.MIR_PART_STATUS.BUF_USED, .reg Reg.MIR_PART_STATUS.DIGEST, .memu, .health, .mirror] : List Part)) K) (hF : F f)
    (ho : Only K F P s0 s) : Only K F P s0 (State.copyLine s f n c off data poisoned).1 := by
  unfold State.copyLine
  repeat' first | with_reducible assumption | exact Fits.trans (by decide +kernel) hK | exact hF | with_reducible apply State.bufUsed_only | with_reducible apply State.updSlot_only | with_reducible apply State.mirStore_only | with_reducible apply State.copyHash_only | with_reducible apply Only.ite | dsimp only | split | (with_reducible refine Only.fst (by with_reducible assumption) ?_) | (with_reducible refine Only.snd (by with_reducible assumption) ?_)

theorem State.bufSlot_only {K : List Part} {F : FieldId → Prop} {P : PlotId → Prop} {s0 : State} (s : State) (f : FieldId) (n : Nat) (hK : Fits ([.reg Reg.INJ_PT.ARM, .reg Reg.INJ_PT.DONE] : List Part) K) (hF : F f)
    (ho : Only K F P s0 s) : Only K F P s0 (State.bufSlot s f n).1 := by
  unfold State.bufSlot
  repeat' first | with_reducible assumption | exact Fits.trans (by decide +kernel) hK | exact hF | with_reducible apply State.injFire_only | with_reducible apply Only.ite | dsimp only | split | (with_reducible refine Only.fst (by with_reducible assumption) ?_) | (with_reducible refine Only.snd (by with_reducible assumption) ?_)

theorem State.stageLine_only {K : List Part} {F : FieldId → Prop} {P : PlotId → Prop} {s0 : State} (s : State) (f : FieldId) (n c off : Nat) (data : List Byte) (poisoned : Bool) (hK : Fits (([.free, .events, .hbm, .hbmErr, .reg Reg.GWY_STAT.ABSORBED, .reg Reg.INJ_PT.ARM, .reg Reg.INJ_PT.DONE, .reg Reg.MEM_ECC_STAT.CORRECTED, .reg Reg.MEM_ECC_STAT.LAST_ADDR, .reg Reg.MEM_ECC_STAT.POISON_WRITES, .reg Reg.MEM_ECC_STAT.UNCORRECTED, .reg Reg.MEM_REPAIR_ENTRY.BANK, .reg Reg.MEM_REPAIR_ENTRY.CHANNEL, .reg Reg.MEM_REPAIR_ENTRY.PCH, .reg Reg.MEM_REPAIR_ENTRY.REASON, .reg Reg.MEM_REPAIR_ENTRY.RESULT] : List Part) ++ ([.reg Reg.MEM_REPAIR_ENTRY.ROW, .reg Reg.MEM_REPAIR_ENTRY.STACK, .reg Reg.MEM_REPAIR_ENTRY.VALID, .reg Reg.MIR_PART_STATUS.BUF_USED, .reg Reg.MIR_PART_STATUS.DIGEST, .reg Reg.MIR_PART_STATUS.STATE, .reg Reg.MIR_PART_STATUS.VALID, .memu, .health, .mirror] : List Part)) K) (hF : F f)
    (ho : Only K F P s0 s) : Only K F P s0 (State.stageLine s f n c off data poisoned).1 := by
  unfold State.stageLine
  repeat' first | with_reducible assumption | exact Fits.trans (by decide +kernel) hK | exact hF | with_reducible apply State.mirStore_only | with_reducible apply State.bufSlot_only | with_reducible apply State.bufUsed_only | with_reducible apply State.updSlot_only | with_reducible apply State.mirWrite_only | with_reducible apply State.fset_only | with_reducible apply State.raise_only | with_reducible apply State.copyLine_only | with_reducible apply Only.ite | dsimp only | split | (with_reducible refine Only.fst (by with_reducible assumption) ?_) | (with_reducible refine Only.snd (by with_reducible assumption) ?_)

theorem State.mirPut_only {K : List Part} {F : FieldId → Prop} {P : PlotId → Prop} {s0 : State} (s : State) (f : FieldId) (src addr : Nat) (data : List Byte) (poisoned : Bool) (hK : Fits (([.free, .events, .hbm, .hbmErr, .reg Reg.GWY_STAT.ABSORBED, .reg Reg.INJ_PT.ARM, .reg Reg.INJ_PT.DONE, .reg Reg.MEM_ECC_STAT.CORRECTED, .reg Reg.MEM_ECC_STAT.LAST_ADDR, .reg Reg.MEM_ECC_STAT.POISON_WRITES, .reg Reg.MEM_ECC_STAT.UNCORRECTED, .reg Reg.MEM_REPAIR_ENTRY.BANK, .reg Reg.MEM_REPAIR_ENTRY.CHANNEL, .reg Reg.MEM_REPAIR_ENTRY.PCH, .reg Reg.MEM_REPAIR_ENTRY.REASON, .reg Reg.MEM_REPAIR_ENTRY.RESULT] : List Part) ++ ([.reg Reg.MEM_REPAIR_ENTRY.ROW, .reg Reg.MEM_REPAIR_ENTRY.STACK, .reg Reg.MEM_REPAIR_ENTRY.VALID, .reg Reg.MIR_PART_STATUS.BUF_USED, .reg Reg.MIR_PART_STATUS.DIGEST, .reg Reg.MIR_PART_STATUS.STATE, .reg Reg.MIR_PART_STATUS.VALID, .memu, .health, .mirror] : List Part)) K) (hF : F f)
    (ho : Only K F P s0 s) : Only K F P s0 (State.mirPut s f src addr data poisoned).1 := by
  unfold State.mirPut
  repeat' first | with_reducible assumption | exact Fits.trans (by decide +kernel) hK | exact hF | with_reducible apply State.copyLine_only | with_reducible apply State.stageLine_only | with_reducible apply Only.ite | dsimp only | split | (with_reducible refine Only.fst (by with_reducible assumption) ?_) | (with_reducible refine Only.snd (by with_reducible assumption) ?_)

theorem State.mirLayoutApply_only {K : List Part} {F : FieldId → Prop} {P : PlotId → Prop} {s0 : State} (s : State) (f : FieldId) (src operand : Nat) (payload : List Byte) (hK : Fits (([.free, .events, .hbm, .hbmErr, .reg Reg.GWY_STAT.ABSORBED, .reg Reg.INJ_PT.ARM, .reg Reg.INJ_PT.DONE, .reg Reg.MEM_ECC_STAT.CORRECTED, .reg Reg.MEM_ECC_STAT.LAST_ADDR, .reg Reg.MEM_ECC_STAT.POISON_WRITES, .reg Reg.MEM_ECC_STAT.UNCORRECTED, .reg Reg.MEM_REPAIR_ENTRY.BANK, .reg Reg.MEM_REPAIR_ENTRY.CHANNEL, .reg Reg.MEM_REPAIR_ENTRY.PCH, .reg Reg.MEM_REPAIR_ENTRY.REASON, .reg Reg.MEM_REPAIR_ENTRY.RESULT] : List Part) ++ ([.reg Reg.MEM_REPAIR_ENTRY.ROW, .reg Reg.MEM_REPAIR_ENTRY.STACK, .reg Reg.MEM_REPAIR_ENTRY.VALID, .reg Reg.MIR_PART_STATUS.BUF_USED, .reg Reg.MIR_PART_STATUS.DIGEST, .reg Reg.MIR_PART_STATUS.RESULT, .reg Reg.MIR_PART_STATUS.STATE, .reg Reg.MIR_PART_STATUS.VALID, .memu, .health, .mirror] : List Part)) K) (hF : F f)
    (ho : Only K F P s0 s) : Only K F P s0 (State.mirLayoutApply s f src operand payload).1 := by
  unfold State.mirLayoutApply
  repeat' first | with_reducible assumption | exact Fits.trans (by decide +kernel) hK | exact hF | with_reducible apply State.fset_only | with_reducible apply State.bufUsed_only | with_reducible apply State.updSlot_only | with_reducible apply State.journalHeader_only | with_reducible apply Only.ite | dsimp only | split | (with_reducible refine Only.foldl _ _ (fun t a ht => ?_) ?_) | (with_reducible refine Only.foldl_fst _ _ _ (fun t a ht => ?_) ?_) | (with_reducible refine Only.fst (by with_reducible assumption) ?_) | (with_reducible refine Only.snd (by with_reducible assumption) ?_)

theorem State.applyStaged_only {K : List Part} {F : FieldId → Prop} {P : PlotId → Prop} {s0 : State} (s : State) (f : FieldId) (n c b : Nat) (hK : Fits (([.free, .events, .hbm, .hbmErr, .reg Reg.GWY_STAT.ABSORBED, .reg Reg.INJ_PT.ARM, .reg Reg.INJ_PT.DONE, .reg Reg.MEM_ECC_STAT.CORRECTED, .reg Reg.MEM_ECC_STAT.LAST_ADDR, .reg Reg.MEM_ECC_STAT.POISON_WRITES, .reg Reg.MEM_ECC_STAT.UNCORRECTED, .reg Reg.MEM_REPAIR_ENTRY.BANK, .reg Reg.MEM_REPAIR_ENTRY.CHANNEL, .reg Reg.MEM_REPAIR_ENTRY.PCH, .reg Reg.MEM_REPAIR_ENTRY.REASON, .reg Reg.MEM_REPAIR_ENTRY.RESULT] : List Part) ++ ([.reg Reg.MEM_REPAIR_ENTRY.ROW, .reg Reg.MEM_REPAIR_ENTRY.STACK, .reg Reg.MEM_REPAIR_ENTRY.VALID, .reg Reg.MIR_PART_STATUS.DIGEST, .memu, .health, .mirror] : List Part)) K) (hF : F f)
    (ho : Only K F P s0 s) : Only K F P s0 (State.applyStaged s f n c b) := by
  unfold State.applyStaged
  repeat' first | with_reducible assumption | exact Fits.trans (by decide +kernel) hK | exact hF | with_reducible apply State.lineRead_only | with_reducible apply State.mirWrite_only | with_reducible apply State.copyHash_only | with_reducible apply Only.ite | dsimp only | split | (with_reducible refine Only.foldl _ _ (fun t a ht => ?_) ?_) | (with_reducible refine Only.foldl_fst _ _ _ (fun t a ht => ?_) ?_) | (with_reducible refine Only.fst (by with_reducible assumption) ?_) | (with_reducible refine Only.snd (by with_reducible assumption) ?_)

theorem State.mirMarkApply_only {K : List Part} {F : FieldId → Prop} {P : PlotId → Prop} {s0 : State} (s : State) (f : FieldId) (src operand : Nat) (hK : Fits (([.free, .events, .hbm, .hbmErr, .reg Reg.GWY_STAT.ABSORBED, .reg Reg.INJ_PT.ARM, .reg Reg.INJ_PT.DONE, .reg Reg.MEM_ECC_STAT.CORRECTED, .reg Reg.MEM_ECC_STAT.LAST_ADDR, .reg Reg.MEM_ECC_STAT.POISON_WRITES, .reg Reg.MEM_ECC_STAT.UNCORRECTED, .reg Reg.MEM_REPAIR_ENTRY.BANK, .reg Reg.MEM_REPAIR_ENTRY.CHANNEL, .reg Reg.MEM_REPAIR_ENTRY.PCH, .reg Reg.MEM_REPAIR_ENTRY.REASON, .reg Reg.MEM_REPAIR_ENTRY.RESULT] : List Part) ++ ([.reg Reg.MEM_REPAIR_ENTRY.ROW, .reg Reg.MEM_REPAIR_ENTRY.STACK, .reg Reg.MEM_REPAIR_ENTRY.VALID, .reg Reg.MIR_PART_STATUS.BUF_USED, .reg Reg.MIR_PART_STATUS.COMMITTED, .reg Reg.MIR_PART_STATUS.DIGEST, .reg Reg.MIR_PART_STATUS.STATE, .reg Reg.MIR_PART_STATUS.VALID, .memu, .health, .mirror] : List Part)) K) (hF : F f)
    (ho : Only K F P s0 s) : Only K F P s0 (State.mirMarkApply s f src operand).1 := by
  unfold State.mirMarkApply
  repeat' first | with_reducible assumption | exact Fits.trans (by decide +kernel) hK | exact hF | with_reducible apply State.journalHeader_only | with_reducible apply State.fset_only | with_reducible apply State.applyStaged_only | with_reducible apply State.bufUsed_only | with_reducible apply State.updSlot_only | with_reducible apply Only.ite | dsimp only | split | (with_reducible refine Only.foldl _ _ (fun t a ht => ?_) ?_) | (with_reducible refine Only.foldl_fst _ _ _ (fun t a ht => ?_) ?_) | (with_reducible refine Only.fst (by with_reducible assumption) ?_) | (with_reducible refine Only.snd (by with_reducible assumption) ?_)

theorem State.mirPullApply_only {K : List Part} {F : FieldId → Prop} {P : PlotId → Prop} {s0 : State} (s : State) (f : FieldId) (src operand : Nat) (hK : Fits ([.reg Reg.MIR_PART_STATUS.BUF_USED, .reg Reg.MIR_PART_STATUS.RESULT, .reg Reg.MIR_PART_STATUS.STATE, .mirror] : List Part) K) (hF : F f)
    (ho : Only K F P s0 s) : Only K F P s0 (State.mirPullApply s f src operand).1 := by
  unfold State.mirPullApply
  repeat' first | with_reducible assumption | exact Fits.trans (by decide +kernel) hK | exact hF | with_reducible apply State.fset_only | with_reducible apply State.bufUsed_only | with_reducible apply State.updSlot_only | with_reducible apply Only.ite | dsimp only | split | (with_reducible refine Only.fst (by with_reducible assumption) ?_) | (with_reducible refine Only.snd (by with_reducible assumption) ?_)

theorem State.pushEnd_only {K : List Part} {F : FieldId → Prop} {P : PlotId → Prop} {s0 : State} (s : State) (f : FieldId) (n result : Nat) (hK : Fits ([.reg Reg.MIR_PART.ENABLE, .reg Reg.MIR_PART_STATUS.RESULT, .reg Reg.MIR_PART_STATUS.STATE, .mirror] : List Part) K) (hF : F f)
    (ho : Only K F P s0 s) : Only K F P s0 (State.pushEnd s f n result) := by
  unfold State.pushEnd
  repeat' first | with_reducible assumption | exact Fits.trans (by decide +kernel) hK | exact hF | with_reducible apply State.updSlot_only | with_reducible apply State.fset_only | with_reducible apply Only.ite | dsimp only | split | (with_reducible refine Only.fst (by with_reducible assumption) ?_) | (with_reducible refine Only.snd (by with_reducible assumption) ?_)

theorem State.loadEnd_only {K : List Part} {F : FieldId → Prop} {P : PlotId → Prop} {s0 : State} (s : State) (f : FieldId) (state result : Nat) (hK : Fits ([.events, .reg Reg.MIR_LOAD_STATUS.RESULT, .reg Reg.MIR_LOAD_STATUS.STATE] : List Part) K) (hF : F f)
    (ho : Only K F P s0 s) : Only K F P s0 (State.loadEnd s f state result) := by
  unfold State.loadEnd
  repeat' first | with_reducible assumption | exact Fits.trans (by decide +kernel) hK | exact hF | with_reducible apply State.fset_only | with_reducible apply State.raise_only | with_reducible apply Only.ite | dsimp only | split | (with_reducible refine Only.fst (by with_reducible assumption) ?_) | (with_reducible refine Only.snd (by with_reducible assumption) ?_)

theorem State.loadPull_only {K : List Part} {F : FieldId → Prop} {P : PlotId → Prop} {s0 : State} (s : State) (f : FieldId) (src : Nat) (hK : Fits ([.reg Reg.INJ_PT.ARM, .reg Reg.INJ_PT.DONE, .reg Reg.MIR_LOAD_STATUS.DIGEST, .reg Reg.MIR_LOAD_STATUS.GRANULES, .router, .gateway, .mirror] : List Part) K) (hF : F f)
    (ho : Only K F P s0 s) : Only K F P s0 (State.loadPull s f src) := by
  unfold State.loadPull
  repeat' first | with_reducible assumption | exact Fits.trans (by decide +kernel) hK | exact hF | with_reducible apply State.fset_only | with_reducible apply State.updMir_only | with_reducible apply State.gwAccept_only | with_reducible apply Only.ite | dsimp only | split | (with_reducible refine Only.fst (by with_reducible assumption) ?_) | (with_reducible refine Only.snd (by with_reducible assumption) ?_)

theorem State.loadFail_only {K : List Part} {F : FieldId → Prop} {P : PlotId → Prop} {s0 : State} (s : State) (f : FieldId) (code : Nat) (hK : Fits ([.events, .reg Reg.INJ_PT.ARM, .reg Reg.INJ_PT.DONE, .reg Reg.MIR_LOAD_STATUS.DIGEST, .reg Reg.MIR_LOAD_STATUS.GRANULES, .reg Reg.MIR_LOAD_STATUS.RESULT, .reg Reg.MIR_LOAD_STATUS.STATE, .reg Reg.MIR_LOAD_STATUS.USING_SRC1, .router, .gateway, .mirror] : List Part) K) (hF : F f)
    (ho : Only K F P s0 s) : Only K F P s0 (State.loadFail s f code) := by
  unfold State.loadFail
  repeat' first | with_reducible assumption | exact Fits.trans (by decide +kernel) hK | exact hF | with_reducible apply State.loadPull_only | with_reducible apply State.fset_only | with_reducible apply State.loadEnd_only | with_reducible apply Only.ite | dsimp only | split | (with_reducible refine Only.fst (by with_reducible assumption) ?_) | (with_reducible refine Only.snd (by with_reducible assumption) ?_)

theorem State.loadPut_only {K : List Part} {F : FieldId → Prop} {P : PlotId → Prop} {s0 : State} (s : State) (f : FieldId) (addr : Nat) (data : List Byte) (poisoned : Bool) (hK : Fits (([.events, .hbm, .store, .hbmErr, .storeErr, .reg Reg.GWY_STAT.ABSORBED, .reg Reg.INJ_PT.ARM, .reg Reg.INJ_PT.DONE, .reg Reg.MEM_ECC_STAT.CORRECTED, .reg Reg.MEM_ECC_STAT.LAST_ADDR, .reg Reg.MEM_ECC_STAT.POISON_WRITES, .reg Reg.MEM_ECC_STAT.UNCORRECTED, .reg Reg.MEM_REPAIR_ENTRY.BANK, .reg Reg.MEM_REPAIR_ENTRY.CHANNEL, .reg Reg.MEM_REPAIR_ENTRY.PCH, .reg Reg.MEM_REPAIR_ENTRY.REASON] : List Part) ++ ([.reg Reg.MEM_REPAIR_ENTRY.RESULT, .reg Reg.MEM_REPAIR_ENTRY.ROW, .reg Reg.MEM_REPAIR_ENTRY.STACK, .reg Reg.MEM_REPAIR_ENTRY.VALID, .reg Reg.MIR_LOAD_STATUS.DIGEST, .reg Reg.MIR_LOAD_STATUS.GRANULES, .plotReg Reg.PLT_STORE_ECC.CORRECTED, .plotReg Reg.PLT_STORE_ECC.LAST_ADDR, .plotReg Reg.PLT_STORE_ECC.UNCORRECTED, .memu, .health, .mirror] : List Part)) K) (hF : F f) (hP : ∀ p, P p)
    (ho : Only K F P s0 s) : Only K F P s0 (State.loadPut s f addr data poisoned).1 := by
  unfold State.loadPut
  repeat' first | with_reducible assumption | exact Fits.trans (by decide +kernel) hK | exact hF | exact hP | exact hP _ | with_reducible apply State.targetWrite_only | with_reducible apply State.updMir_only | with_reducible apply State.fset_only | with_reducible apply Only.ite | dsimp only | split | (with_reducible refine Only.fst (by with_reducible assumption) ?_) | (with_reducible refine Only.snd (by with_reducible assumption) ?_)

theorem State.mirDoneApply_only {K : List Part} {F : FieldId → Prop} {P : PlotId → Prop} {s0 : State} (s : State) (f : FieldId) (src operand : Nat) (hK : Fits ([.events, .reg Reg.INJ_PT.ARM, .reg Reg.INJ_PT.DONE, .reg Reg.MIR_LOAD_STATUS.DIGEST, .reg Reg.MIR_LOAD_STATUS.GRANULES, .reg Reg.MIR_LOAD_STATUS.RESULT, .reg Reg.MIR_LOAD_STATUS.STATE, .reg Reg.MIR_LOAD_STATUS.USING_SRC1, .router, .gateway, .mirror] : List Part) K) (hF : F f)
    (ho : Only K F P s0 s) : Only K F P s0 (State.mirDoneApply s f src operand).1 := by
  unfold State.mirDoneApply
  repeat' first | with_reducible assumption | exact Fits.trans (by decide +kernel) hK | exact hF | with_reducible apply State.loadEnd_only | with_reducible apply State.loadFail_only | with_reducible apply Only.ite | dsimp only | split | (with_reducible refine Only.fst (by with_reducible assumption) ?_) | (with_reducible refine Only.snd (by with_reducible assumption) ?_)

theorem State.bulkPut_only {K : List Part} {F : FieldId → Prop} {P : PlotId → Prop} {s0 : State} (s : State) (f : FieldId) (src addr : Nat) (data : List Byte) (poisoned : Bool) (hK : Fits (([.free, .events, .hbm, .store, .hbmErr, .storeErr, .reg Reg.GWY_STAT.ABSORBED, .reg Reg.INJ_PT.ARM, .reg Reg.INJ_PT.DONE, .reg Reg.MEM_ECC_STAT.CORRECTED, .reg Reg.MEM_ECC_STAT.LAST_ADDR, .reg Reg.MEM_ECC_STAT.POISON_WRITES, .reg Reg.MEM_ECC_STAT.UNCORRECTED, .reg Reg.MEM_REPAIR_ENTRY.BANK, .reg Reg.MEM_REPAIR_ENTRY.CHANNEL, .reg Reg.MEM_REPAIR_ENTRY.PCH] : List Part) ++ ([.reg Reg.MEM_REPAIR_ENTRY.REASON, .reg Reg.MEM_REPAIR_ENTRY.RESULT, .reg Reg.MEM_REPAIR_ENTRY.ROW, .reg Reg.MEM_REPAIR_ENTRY.STACK, .reg Reg.MEM_REPAIR_ENTRY.VALID, .reg Reg.MIR_LOAD_STATUS.DIGEST, .reg Reg.MIR_LOAD_STATUS.GRANULES, .reg Reg.MIR_PART_STATUS.BUF_USED, .reg Reg.MIR_PART_STATUS.DIGEST, .reg Reg.MIR_PART_STATUS.STATE, .reg Reg.MIR_PART_STATUS.VALID, .plotReg Reg.PLT_STORE_ECC.CORRECTED, .plotReg Reg.PLT_STORE_ECC.LAST_ADDR, .plotReg Reg.PLT_STORE_ECC.UNCORRECTED, .memu, .health] : List Part) ++ ([.mirror] : List Part)) K) (hF : F f) (hP : ∀ p, P p)
    (ho : Only K F P s0 s) : Only K F P s0 (State.bulkPut s f src addr data poisoned).1 := by
  unfold State.bulkPut
  repeat' first | with_reducible assumption | exact Fits.trans (by decide +kernel) hK | exact hF | exact hP | exact hP _ | with_reducible apply State.loadPut_only | with_reducible apply State.mirPut_only | with_reducible apply Only.ite | dsimp only | split | (with_reducible refine Only.fst (by with_reducible assumption) ?_) | (with_reducible refine Only.snd (by with_reducible assumption) ?_)

theorem State.mirSettleOne_only {K : List Part} {F : FieldId → Prop} {P : PlotId → Prop} {s0 : State} (s : State) (f : FieldId) (x : GwLine × Nat) (hK : Fits (([.events, .reg Reg.INJ_PT.ARM, .reg Reg.INJ_PT.DONE, .reg Reg.MIR_LOAD_STATUS.DIGEST, .reg Reg.MIR_LOAD_STATUS.GRANULES, .reg Reg.MIR_LOAD_STATUS.RESULT, .reg Reg.MIR_LOAD_STATUS.STATE, .reg Reg.MIR_LOAD_STATUS.USING_SRC1, .reg Reg.MIR_PART.ENABLE, .reg Reg.MIR_PART_STATUS.RESULT, .reg Reg.MIR_PART_STATUS.STATE, .reg Reg.MIR_SRC_STATUS.ACKED0, .reg Reg.MIR_SRC_STATUS.ACKED1, .reg Reg.MIR_SRC_STATUS.STATE, .memu, .router] : List Part) ++ ([.gateway, .mirror] : List Part)) K) (hF : F f)
    (ho : Only K F P s0 s) : Only K F P s0 (State.mirSettleOne s f x) := by
  unfold State.mirSettleOne
  repeat' first | with_reducible assumption | exact Fits.trans (by decide +kernel) hK | exact hF | with_reducible apply State.mirFound_only | with_reducible apply State.fset_only | with_reducible apply State.pushEnd_only | with_reducible apply State.loadFail_only | with_reducible apply Only.ite | dsimp only | split | (with_reducible refine Only.fst (by with_reducible assumption) ?_) | (with_reducible refine Only.snd (by with_reducible assumption) ?_)

theorem State.mirBroken_only {K : List Part} {F : FieldId → Prop} {P : PlotId → Prop} {s0 : State} (s : State) (f : FieldId) (key : Nat) (hK : Fits ([.events, .reg Reg.INJ_PT.ARM, .reg Reg.INJ_PT.DONE, .reg Reg.MIR_LOAD_STATUS.DIGEST, .reg Reg.MIR_LOAD_STATUS.GRANULES, .reg Reg.MIR_LOAD_STATUS.RESULT, .reg Reg.MIR_LOAD_STATUS.STATE, .reg Reg.MIR_LOAD_STATUS.USING_SRC1, .reg Reg.MIR_PART.ENABLE, .reg Reg.MIR_PART_STATUS.RESULT, .reg Reg.MIR_PART_STATUS.STATE, .reg Reg.MIR_SRC_STATUS.BREAKS, .memu, .router, .gateway, .mirror] : List Part) K) (hF : F f)
    (ho : Only K F P s0 s) : Only K F P s0 (State.mirBroken s f key) := by
  unfold State.mirBroken
  repeat' first | with_reducible assumption | exact Fits.trans (by decide +kernel) hK | exact hF | with_reducible apply State.mirBreak_only | with_reducible apply State.pushEnd_only | with_reducible apply State.loadFail_only | with_reducible apply Only.ite | dsimp only | split | (with_reducible refine Only.foldl _ _ (fun t a ht => ?_) ?_) | (with_reducible refine Only.foldl_fst _ _ _ (fun t a ht => ?_) ?_) | (with_reducible refine Only.fst (by with_reducible assumption) ?_) | (with_reducible refine Only.snd (by with_reducible assumption) ?_)

theorem State.mirSettle_only {K : List Part} {F : FieldId → Prop} {P : PlotId → Prop} {s0 : State} (s : State) (f : FieldId) (hK : Fits (([.events, .reg Reg.INJ_PT.ARM, .reg Reg.INJ_PT.DONE, .reg Reg.MIR_LOAD_STATUS.DIGEST, .reg Reg.MIR_LOAD_STATUS.GRANULES, .reg Reg.MIR_LOAD_STATUS.RESULT, .reg Reg.MIR_LOAD_STATUS.STATE, .reg Reg.MIR_LOAD_STATUS.USING_SRC1, .reg Reg.MIR_PART.ENABLE, .reg Reg.MIR_PART_STATUS.RESULT, .reg Reg.MIR_PART_STATUS.STATE, .reg Reg.MIR_SRC_STATUS.ACKED0, .reg Reg.MIR_SRC_STATUS.ACKED1, .reg Reg.MIR_SRC_STATUS.BREAKS, .reg Reg.MIR_SRC_STATUS.STATE, .memu] : List Part) ++ ([.router, .gateway, .mirror] : List Part)) K) (hF : F f)
    (ho : Only K F P s0 s) : Only K F P s0 (State.mirSettle s f) := by
  unfold State.mirSettle
  repeat' first | with_reducible assumption | exact Fits.trans (by decide +kernel) hK | exact hF | with_reducible apply State.updGw_only | with_reducible apply State.mirBroken_only | with_reducible apply State.mirSettleOne_only | with_reducible apply Only.ite | dsimp only | split | (with_reducible refine Only.foldl _ _ (fun t a ht => ?_) ?_) | (with_reducible refine Only.foldl_fst _ _ _ (fun t a ht => ?_) ?_) | (with_reducible refine Only.fst (by with_reducible assumption) ?_) | (with_reducible refine Only.snd (by with_reducible assumption) ?_)

end Sys2Proof.Machine
end

