-- ==== Sys2Proof/Laws/Touch/Optics.lean ====
section
/-! SUPPORT. What each operation of Machine/Optics.lean can change: the parts named, and nothing else. -/

namespace Sys2Proof.Machine

set_option Elab.async false

open Sys2Proof

theorem State.calSlotStart_only {K : List Part} {F : FieldId → Prop} {P : PlotId → Prop} {s0 : State} (s : State) (f : FieldId) (n : PortId) (hK : Fits (([.events, .out, .reg Reg.HDL_CAL_STAT.DEGRADED, .reg Reg.INJ_PT.ARM, .reg Reg.INJ_PT.DONE, .reg Reg.RTE_COMB_STAT.MERGED, .reg Reg.RTE_COMB_STAT.PEAK, .reg Reg.RTE_LINK_CNT.LOST, .reg Reg.RTE_LINK_CNT.NAKS, .reg Reg.RTE_LINK_CNT.REPLAYED, .reg Reg.RTE_LINK_CNT.RETRAINS, .reg Reg.RTE_LINK_CNT.TX_FLITS, .reg Reg.RTE_LINK_CREDIT.RES, .reg Reg.RTE_LINK_CREDIT.SHARED, .reg Reg.RTE_LINK_STATUS.PRESERVED, .reg Reg.RTE_LINK_STATUS.RESULT] : List Part) ++ ([.reg Reg.RTE_LINK_STATUS.STATE, .ports, .router, .tally] : List Part)) K) (hF : F f)
    (ho : Only K F P s0 s) : Ends K F P s0 (State.calSlotStart s f n) := by
  unfold State.calSlotStart
  repeat' first | with_reducible assumption | exact Fits.trans (by decide +kernel) hK | exact hF | with_reducible apply State.laneActs_only | with_reducible apply State.setTx_only | with_reducible apply State.fcount_only | with_reducible apply State.raise_only | with_reducible apply State.laneCheck_only | with_reducible apply Ends.finish | with_reducible apply Ends.next | with_reducible apply Only.ite | with_reducible apply Ends.ite | dsimp only | split | (with_reducible refine Only.fst (by with_reducible assumption) ?_) | (with_reducible refine Only.snd (by with_reducible assumption) ?_)

theorem State.hostCalSlotStart_only {K : List Part} {F : FieldId → Prop} {P : PlotId → Prop} {s0 : State} (s : State) (hK : Fits ([.events, .out, .hubReg Reg.HUB_HOST_PHY_STATUS.RECOVERIES, .hubReg Reg.HUB_HOST_PHY_STATUS.STATE, .hubReg Reg.HUB_HOST_PHY_STATUS.WIDTH, .hostTx, .host] : List Part) K)
    (ho : Only K F P s0 s) : Ends K F P s0 (State.hostCalSlotStart s) := by
  unfold State.hostCalSlotStart
  repeat' first | with_reducible assumption | exact Fits.trans (by decide +kernel) hK | with_reducible apply State.hostActs_only | with_reducible apply State.setHostTx_only | with_reducible apply Ends.finish | with_reducible apply Ends.next | with_reducible apply Only.ite | with_reducible apply Ends.ite | dsimp only | split | (with_reducible refine Only.fst (by with_reducible assumption) ?_) | (with_reducible refine Only.snd (by with_reducible assumption) ?_)

theorem execCalSlotStart_only {K : List Part} {F : FieldId → Prop} {P : PlotId → Prop} {s0 : State} (port : Option (FieldId × PortId)) (s : State) (hK : Fits (([.events, .out, .hubReg Reg.HUB_HOST_PHY_STATUS.RECOVERIES, .hubReg Reg.HUB_HOST_PHY_STATUS.STATE, .hubReg Reg.HUB_HOST_PHY_STATUS.WIDTH, .hostTx, .host, .reg Reg.HDL_CAL_STAT.DEGRADED, .reg Reg.INJ_PT.ARM, .reg Reg.INJ_PT.DONE, .reg Reg.RTE_COMB_STAT.MERGED, .reg Reg.RTE_COMB_STAT.PEAK, .reg Reg.RTE_LINK_CNT.LOST, .reg Reg.RTE_LINK_CNT.NAKS, .reg Reg.RTE_LINK_CNT.REPLAYED, .reg Reg.RTE_LINK_CNT.RETRAINS] : List Part) ++ ([.reg Reg.RTE_LINK_CNT.TX_FLITS, .reg Reg.RTE_LINK_CREDIT.RES, .reg Reg.RTE_LINK_CREDIT.SHARED, .reg Reg.RTE_LINK_STATUS.PRESERVED, .reg Reg.RTE_LINK_STATUS.RESULT, .reg Reg.RTE_LINK_STATUS.STATE, .ports, .router, .tally] : List Part)) K) (hF : ∀ f, F f)
    (ho : Only K F P s0 s) : Ends K F P s0 (execCalSlotStart port s) := by
  unfold execCalSlotStart
  repeat' first | with_reducible assumption | exact Fits.trans (by decide +kernel) hK | exact hF | exact hF _ | with_reducible apply Ends.inPort | with_reducible apply State.calSlotStart_only | with_reducible apply State.hostCalSlotStart_only | with_reducible apply Ends.finish | with_reducible apply Ends.next | with_reducible apply Only.ite | with_reducible apply Ends.ite | dsimp only | split | (with_reducible refine Only.fst (by with_reducible assumption) ?_) | (with_reducible refine Only.snd (by with_reducible assumption) ?_)

theorem State.calDone_only {K : List Part} {F : FieldId → Prop} {P : PlotId → Prop} {s0 : State} (s : State) (f : FieldId) (n : PortId) (hK : Fits ([.events, .out, .reg Reg.HDL_CAL_STAT.SLOTS, .reg Reg.HDL_PORT_STATUS.TX_MODE, .reg Reg.INJ_PT.ARM, .reg Reg.INJ_PT.DONE, .reg Reg.RTE_COMB_STAT.MERGED, .reg Reg.RTE_COMB_STAT.PEAK, .reg Reg.RTE_LINK_CNT.NAKS, .reg Reg.RTE_LINK_CNT.REPLAYED, .reg Reg.RTE_LINK_CNT.TX_FLITS, .reg Reg.RTE_LINK_CREDIT.RES, .reg Reg.RTE_LINK_CREDIT.SHARED, .ports, .router, .tally] : List Part) K) (hF : F f)
    (ho : Only K F P s0 s) : Only K F P s0 (State.calDone s f n) := by
  unfold State.calDone
  repeat' first | with_reducible assumption | exact Fits.trans (by decide +kernel) hK | exact hF | with_reducible apply State.txModeUpdate_only | with_reducible apply State.laneActs_only | with_reducible apply State.fwrap_only | with_reducible apply State.setTx_only | with_reducible apply Only.ite | dsimp only | split | (with_reducible refine Only.fst (by with_reducible assumption) ?_) | (with_reducible refine Only.snd (by with_reducible assumption) ?_)

theorem State.calSlotEnd_only {K : List Part} {F : FieldId → Prop} {P : PlotId → Prop} {s0 : State} (s : State) (f : FieldId) (n : PortId) (rx : Bool) (hK : Fits ([.events, .out, .reg Reg.HDL_CAL_STAT.SLOTS, .reg Reg.HDL_PORT_STATUS.TX_MODE, .reg Reg.INJ_PT.ARM, .reg Reg.INJ_PT.DONE, .reg Reg.RTE_COMB_STAT.MERGED, .reg Reg.RTE_COMB_STAT.PEAK, .reg Reg.RTE_LINK_CNT.NAKS, .reg Reg.RTE_LINK_CNT.REPLAYED, .reg Reg.RTE_LINK_CNT.TX_FLITS, .reg Reg.RTE_LINK_CREDIT.RES, .reg Reg.RTE_LINK_CREDIT.SHARED, .ports, .router, .tally] : List Part) K) (hF : F f)
    (ho : Only K F P s0 s) : Ends K F P s0 (State.calSlotEnd s f n rx) := by
  unfold State.calSlotEnd
  repeat' first | with_reducible assumption | exact Fits.trans (by decide +kernel) hK | exact hF | with_reducible apply State.laneSend_only | with_reducible apply State.calDone_only | with_reducible apply Ends.finish | with_reducible apply Ends.next | with_reducible apply Only.ite | with_reducible apply Ends.ite | dsimp only | split | (with_reducible refine Only.fst (by with_reducible assumption) ?_) | (with_reducible refine Only.snd (by with_reducible assumption) ?_)

theorem State.hostCalSlotEnd_only {K : List Part} {F : FieldId → Prop} {P : PlotId → Prop} {s0 : State} (s : State) (hK : Fits ([.events, .out, .hubReg Reg.HUB_HOST_PHY_STATUS.RECOVERIES, .hubReg Reg.HUB_HOST_PHY_STATUS.STATE, .hubReg Reg.HUB_HOST_PHY_STATUS.WIDTH, .hostTx, .host] : List Part) K)
    (ho : Only K F P s0 s) : Ends K F P s0 (State.hostCalSlotEnd s) := by
  unfold State.hostCalSlotEnd
  repeat' first | with_reducible assumption | exact Fits.trans (by decide +kernel) hK | with_reducible apply State.hostActs_only | with_reducible apply State.setHostTx_only | with_reducible apply Ends.finish | with_reducible apply Ends.next | with_reducible apply Only.ite | with_reducible apply Ends.ite | dsimp only | split | (with_reducible refine Only.fst (by with_reducible assumption) ?_) | (with_reducible refine Only.snd (by with_reducible assumption) ?_)

theorem execCalSlotEnd_only {K : List Part} {F : FieldId → Prop} {P : PlotId → Prop} {s0 : State} (port : Option (FieldId × PortId)) (rx : Bool) (s : State) (hK : Fits (([.events, .out, .hubReg Reg.HUB_HOST_PHY_STATUS.RECOVERIES, .hubReg Reg.HUB_HOST_PHY_STATUS.STATE, .hubReg Reg.HUB_HOST_PHY_STATUS.WIDTH, .hostTx, .host, .reg Reg.HDL_CAL_STAT.SLOTS, .reg Reg.HDL_PORT_STATUS.TX_MODE, .reg Reg.INJ_PT.ARM, .reg Reg.INJ_PT.DONE, .reg Reg.RTE_COMB_STAT.MERGED, .reg Reg.RTE_COMB_STAT.PEAK, .reg Reg.RTE_LINK_CNT.NAKS, .reg Reg.RTE_LINK_CNT.REPLAYED, .reg Reg.RTE_LINK_CNT.TX_FLITS] : List Part) ++ ([.reg Reg.RTE_LINK_CREDIT.RES, .reg Reg.RTE_LINK_CREDIT.SHARED, .ports, .router, .tally] : List Part)) K) (hF : ∀ f, F f)
    (ho : Only K F P s0 s) : Ends K F P s0 (execCalSlotEnd port rx s) := by
  unfold execCalSlotEnd
  repeat' first | with_reducible assumption | exact Fits.trans (by decide +kernel) hK | exact hF | exact hF _ | with_reducible apply Ends.inPort | with_reducible apply State.calSlotEnd_only | with_reducible apply State.hostCalSlotEnd_only | with_reducible apply Ends.finish | with_reducible apply Ends.next | with_reducible apply Only.ite | with_reducible apply Ends.ite | dsimp only | split | (with_reducible refine Only.fst (by with_reducible assumption) ?_) | (with_reducible refine Only.snd (by with_reducible assumption) ?_)

theorem State.retryDone_only {K : List Part} {F : FieldId → Prop} {P : PlotId → Prop} {s0 : State} (s : State) (f : FieldId) (n : PortId) (w : Nat) (pass : Bool) (hK : Fits ([.events, .out, .reg Reg.HDL_CAL_STAT.SLOTS, .reg Reg.HDL_PORT_STATUS.TX_MODE, .reg Reg.INJ_PT.ARM, .reg Reg.INJ_PT.DONE, .reg Reg.RTE_COMB_STAT.MERGED, .reg Reg.RTE_COMB_STAT.PEAK, .reg Reg.RTE_LINK_CNT.NAKS, .reg Reg.RTE_LINK_CNT.REPLAYED, .reg Reg.RTE_LINK_CNT.TX_FLITS, .reg Reg.RTE_LINK_CREDIT.RES, .reg Reg.RTE_LINK_CREDIT.SHARED, .ports, .router, .tally] : List Part) K) (hF : F f)
    (ho : Only K F P s0 s) : Only K F P s0 (State.retryDone s f n w pass) := by
  unfold State.retryDone
  repeat' first | with_reducible assumption | exact Fits.trans (by decide +kernel) hK | exact hF | with_reducible apply State.setTx_only | with_reducible apply State.raise_only | with_reducible apply State.fwrap_only | with_reducible apply State.txModeUpdate_only | with_reducible apply State.laneActs_only | with_reducible apply Only.ite | dsimp only | split | (with_reducible refine Only.fst (by with_reducible assumption) ?_) | (with_reducible refine Only.snd (by with_reducible assumption) ?_)

theorem State.calFailed_only {K : List Part} {F : FieldId → Prop} {P : PlotId → Prop} {s0 : State} (s : State) (f : FieldId) (n : PortId) (hK : Fits (([.events, .out, .reg Reg.HDL_CAL_STAT.ABORTED, .reg Reg.HDL_CAL_STAT.SLOTS, .reg Reg.HDL_PORT_STATUS.TX_MODE, .reg Reg.INJ_PT.ARM, .reg Reg.INJ_PT.DONE, .reg Reg.RTE_COMB_STAT.MERGED, .reg Reg.RTE_COMB_STAT.PEAK, .reg Reg.RTE_LINK_CNT.LOST, .reg Reg.RTE_LINK_CNT.NAKS, .reg Reg.RTE_LINK_CNT.REPLAYED, .reg Reg.RTE_LINK_CNT.RETRAINS, .reg Reg.RTE_LINK_CNT.TX_FLITS, .reg Reg.RTE_LINK_CREDIT.RES, .reg Reg.RTE_LINK_CREDIT.SHARED] : List Part) ++ ([.reg Reg.RTE_LINK_STATUS.PRESERVED, .reg Reg.RTE_LINK_STATUS.RESULT, .reg Reg.RTE_LINK_STATUS.STATE, .ports, .router, .health, .tally] : List Part)) K) (hF : F f)
    (ho : Only K F P s0 s) : Only K F P s0 (State.calFailed s f n) := by
  unfold State.calFailed
  repeat' first | with_reducible assumption | exact Fits.trans (by decide +kernel) hK | exact hF | with_reducible apply State.retryDone_only | with_reducible apply State.txFail_only | with_reducible apply Only.ite | dsimp only | split | (with_reducible refine Only.fst (by with_reducible assumption) ?_) | (with_reducible refine Only.snd (by with_reducible assumption) ?_)

theorem State.calLockTimeout_only {K : List Part} {F : FieldId → Prop} {P : PlotId → Prop} {s0 : State} (s : State) (f : FieldId) (n : PortId) (rx : Bool) (hK : Fits (([.events, .out, .reg Reg.HDL_CAL_STAT.ABORTED, .reg Reg.HDL_CAL_STAT.SLOTS, .reg Reg.HDL_PORT_STATUS.TX_MODE, .reg Reg.INJ_PT.ARM, .reg Reg.INJ_PT.DONE, .reg Reg.RTE_COMB_STAT.MERGED, .reg Reg.RTE_COMB_STAT.PEAK, .reg Reg.RTE_LINK_CNT.LOST, .reg Reg.RTE_LINK_CNT.NAKS, .reg Reg.RTE_LINK_CNT.REPLAYED, .reg Reg.RTE_LINK_CNT.RETRAINS, .reg Reg.RTE_LINK_CNT.TX_FLITS, .reg Reg.RTE_LINK_CREDIT.RES, .reg Reg.RTE_LINK_CREDIT.SHARED] : List Part) ++ ([.reg Reg.RTE_LINK_STATUS.PRESERVED, .reg Reg.RTE_LINK_STATUS.RESULT, .reg Reg.RTE_LINK_STATUS.STATE, .ports, .router, .health, .tally] : List Part)) K) (hF : F f)
    (ho : Only K F P s0 s) : Ends K F P s0 (State.calLockTimeout s f n rx) := by
  unfold State.calLockTimeout
  repeat' first | with_reducible assumption | exact Fits.trans (by decide +kernel) hK | exact hF | with_reducible apply State.laneSend_only | with_reducible apply State.calFailed_only | with_reducible apply Ends.finish | with_reducible apply Ends.next | with_reducible apply Only.ite | with_reducible apply Ends.ite | dsimp only | split | (with_reducible refine Only.fst (by with_reducible assumption) ?_) | (with_reducible refine Only.snd (by with_reducible assumption) ?_)

theorem State.hostCalLockTimeout_only {K : List Part} {F : FieldId → Prop} {P : PlotId → Prop} {s0 : State} (s : State) (hK : Fits ([.events, .out, .hubReg Reg.HUB_HOST_PHY_STATUS.RECOVERIES, .hubReg Reg.HUB_HOST_PHY_STATUS.STATE, .hubReg Reg.HUB_HOST_PHY_STATUS.WIDTH, .hostTx, .host] : List Part) K)
    (ho : Only K F P s0 s) : Ends K F P s0 (State.hostCalLockTimeout s) := by
  unfold State.hostCalLockTimeout
  repeat' first | with_reducible assumption | exact Fits.trans (by decide +kernel) hK | with_reducible apply State.hostActs_only | with_reducible apply State.setHostTx_only | with_reducible apply State.hostFail_only | with_reducible apply Ends.finish | with_reducible apply Ends.next | with_reducible apply Only.ite | with_reducible apply Ends.ite | dsimp only | split | (with_reducible refine Only.fst (by with_reducible assumption) ?_) | (with_reducible refine Only.snd (by with_reducible assumption) ?_)

theorem execCalLockTimeout_only {K : List Part} {F : FieldId → Prop} {P : PlotId → Prop} {s0 : State} (port : Option (FieldId × PortId)) (rx : Bool) (s : State) (hK : Fits (([.events, .out, .hubReg Reg.HUB_HOST_PHY_STATUS.RECOVERIES, .hubReg Reg.HUB_HOST_PHY_STATUS.STATE, .hubReg Reg.HUB_HOST_PHY_STATUS.WIDTH, .hostTx, .host, .reg Reg.HDL_CAL_STAT.ABORTED, .reg Reg.HDL_CAL_STAT.SLOTS, .reg Reg.HDL_PORT_STATUS.TX_MODE, .reg Reg.INJ_PT.ARM, .reg Reg.INJ_PT.DONE, .reg Reg.RTE_COMB_STAT.MERGED, .reg Reg.RTE_COMB_STAT.PEAK, .reg Reg.RTE_LINK_CNT.LOST, .reg Reg.RTE_LINK_CNT.NAKS] : List Part) ++ ([.reg Reg.RTE_LINK_CNT.REPLAYED, .reg Reg.RTE_LINK_CNT.RETRAINS, .reg Reg.RTE_LINK_CNT.TX_FLITS, .reg Reg.RTE_LINK_CREDIT.RES, .reg Reg.RTE_LINK_CREDIT.SHARED, .reg Reg.RTE_LINK_STATUS.PRESERVED, .reg Reg.RTE_LINK_STATUS.RESULT, .reg Reg.RTE_LINK_STATUS.STATE, .ports, .router, .health, .tally] : List Part)) K) (hF : ∀ f, F f)
    (ho : Only K F P s0 s) : Ends K F P s0 (execCalLockTimeout port rx s) := by
  unfold execCalLockTimeout
  repeat' first | with_reducible assumption | exact Fits.trans (by decide +kernel) hK | exact hF | exact hF _ | with_reducible apply Ends.inPort | with_reducible apply State.calLockTimeout_only | with_reducible apply State.hostCalLockTimeout_only | with_reducible apply Ends.finish | with_reducible apply Ends.next | with_reducible apply Only.ite | with_reducible apply Ends.ite | dsimp only | split | (with_reducible refine Only.fst (by with_reducible assumption) ?_) | (with_reducible refine Only.snd (by with_reducible assumption) ?_)

theorem State.wavelengthFail_only {K : List Part} {F : FieldId → Prop} {P : PlotId → Prop} {s0 : State} (s : State) (f : FieldId) (n : PortId) (rx : Bool) (w : Lambda) (reason : Fin 16) (hK : Fits (([.events, .out, .reg Reg.HDL_CAL_STAT.ABORTED, .reg Reg.HDL_PORT_STATUS.TX_MODE, .reg Reg.INJ_PT.ARM, .reg Reg.INJ_PT.DONE, .reg Reg.RTE_COMB_STAT.MERGED, .reg Reg.RTE_COMB_STAT.PEAK, .reg Reg.RTE_LINK_CNT.LOST, .reg Reg.RTE_LINK_CNT.NAKS, .reg Reg.RTE_LINK_CNT.REPLAYED, .reg Reg.RTE_LINK_CNT.RETRAINS, .reg Reg.RTE_LINK_CNT.TX_FLITS, .reg Reg.RTE_LINK_CREDIT.RES, .reg Reg.RTE_LINK_CREDIT.SHARED, .reg Reg.RTE_LINK_STATUS.PRESERVED] : List Part) ++ ([.reg Reg.RTE_LINK_STATUS.RESULT, .reg Reg.RTE_LINK_STATUS.STATE, .ports, .router, .health, .tally] : List Part)) K) (hF : F f)
    (ho : Only K F P s0 s) : Ends K F P s0 (State.wavelengthFail s f n rx w reason) := by
  unfold State.wavelengthFail
  repeat' first | with_reducible assumption | exact Fits.trans (by decide +kernel) hK | exact hF | with_reducible apply State.rxFail_only | with_reducible apply State.txFail_only | with_reducible apply Ends.finish | with_reducible apply Ends.next | with_reducible apply Only.ite | with_reducible apply Ends.ite | dsimp only | split | (with_reducible refine Only.fst (by with_reducible assumption) ?_) | (with_reducible refine Only.snd (by with_reducible assumption) ?_)

theorem State.hostWavelengthFail_only {K : List Part} {F : FieldId → Prop} {P : PlotId → Prop} {s0 : State} (s : State) (rx : Bool) (w : Lambda) (reason : Fin 16) (hK : Fits ([.events, .out, .hubReg Reg.HUB_HOST_PHY_STATUS.RECOVERIES, .hubReg Reg.HUB_HOST_PHY_STATUS.STATE, .hubReg Reg.HUB_HOST_PHY_STATUS.WIDTH, .hostTx, .host] : List Part) K)
    (ho : Only K F P s0 s) : Ends K F P s0 (State.hostWavelengthFail s rx w reason) := by
  unfold State.hostWavelengthFail
  repeat' first | with_reducible assumption | exact Fits.trans (by decide +kernel) hK | with_reducible apply State.hostFail_only | with_reducible apply Ends.finish | with_reducible apply Ends.next | with_reducible apply Only.ite | with_reducible apply Ends.ite | dsimp only | split | (with_reducible refine Only.fst (by with_reducible assumption) ?_) | (with_reducible refine Only.snd (by with_reducible assumption) ?_)

theorem execWavelengthFail_only {K : List Part} {F : FieldId → Prop} {P : PlotId → Prop} {s0 : State} (port : Option (FieldId × PortId)) (rx : Bool) (w : Lambda) (reason : Fin 16) (s : State) (hK : Fits (([.events, .out, .hubReg Reg.HUB_HOST_PHY_STATUS.RECOVERIES, .hubReg Reg.HUB_HOST_PHY_STATUS.STATE, .hubReg Reg.HUB_HOST_PHY_STATUS.WIDTH, .hostTx, .host, .reg Reg.HDL_CAL_STAT.ABORTED, .reg Reg.HDL_PORT_STATUS.TX_MODE, .reg Reg.INJ_PT.ARM, .reg Reg.INJ_PT.DONE, .reg Reg.RTE_COMB_STAT.MERGED, .reg Reg.RTE_COMB_STAT.PEAK, .reg Reg.RTE_LINK_CNT.LOST, .reg Reg.RTE_LINK_CNT.NAKS, .reg Reg.RTE_LINK_CNT.REPLAYED] : List Part) ++ ([.reg Reg.RTE_LINK_CNT.RETRAINS, .reg Reg.RTE_LINK_CNT.TX_FLITS, .reg Reg.RTE_LINK_CREDIT.RES, .reg Reg.RTE_LINK_CREDIT.SHARED, .reg Reg.RTE_LINK_STATUS.PRESERVED, .reg Reg.RTE_LINK_STATUS.RESULT, .reg Reg.RTE_LINK_STATUS.STATE, .ports, .router, .health, .tally] : List Part)) K) (hF : ∀ f, F f)
    (ho : Only K F P s0 s) : Ends K F P s0 (execWavelengthFail port rx w reason s) := by
  unfold execWavelengthFail
  repeat' first | with_reducible assumption | exact Fits.trans (by decide +kernel) hK | exact hF | exact hF _ | with_reducible apply Ends.inPort | with_reducible apply State.wavelengthFail_only | with_reducible apply State.hostWavelengthFail_only | with_reducible apply Ends.finish | with_reducible apply Ends.next | with_reducible apply Only.ite | with_reducible apply Ends.ite | dsimp only | split | (with_reducible refine Only.fst (by with_reducible assumption) ?_) | (with_reducible refine Only.snd (by with_reducible assumption) ?_)

theorem State.laneRetry_only {K : List Part} {F : FieldId → Prop} {P : PlotId → Prop} {s0 : State} (s : State) (f : FieldId) (n : PortId) (w : Lambda) (hK : Fits ([.events, .out, .reg Reg.INJ_PT.ARM, .reg Reg.INJ_PT.DONE, .reg Reg.RTE_COMB_STAT.MERGED, .reg Reg.RTE_COMB_STAT.PEAK, .reg Reg.RTE_LINK_CNT.NAKS, .reg Reg.RTE_LINK_CNT.REPLAYED, .reg Reg.RTE_LINK_CNT.TX_FLITS, .reg Reg.RTE_LINK_CREDIT.RES, .reg Reg.RTE_LINK_CREDIT.SHARED, .ports, .router, .tally] : List Part) K) (hF : F f)
    (ho : Only K F P s0 s) : Ends K F P s0 (State.laneRetry s f n w) := by
  unfold State.laneRetry
  repeat' first | with_reducible assumption | exact Fits.trans (by decide +kernel) hK | exact hF | with_reducible apply State.laneActs_only | with_reducible apply State.setTx_only | with_reducible apply Ends.finish | with_reducible apply Ends.next | with_reducible apply Only.ite | with_reducible apply Ends.ite | dsimp only | split | (with_reducible refine Only.fst (by with_reducible assumption) ?_) | (with_reducible refine Only.snd (by with_reducible assumption) ?_)

theorem State.hostLaneRetry_only {K : List Part} {F : FieldId → Prop} {P : PlotId → Prop} {s0 : State} (s : State) (w : Lambda) (hK : Fits ([.hostTx] : List Part) K)
    (ho : Only K F P s0 s) : Ends K F P s0 (State.hostLaneRetry s w) := by
  unfold State.hostLaneRetry
  repeat' first | with_reducible assumption | exact Fits.trans (by decide +kernel) hK | with_reducible apply State.setHostTx_only | with_reducible apply Ends.finish | with_reducible apply Ends.next | with_reducible apply Only.ite | with_reducible apply Ends.ite | dsimp only | split | (with_reducible refine Only.fst (by with_reducible assumption) ?_) | (with_reducible refine Only.snd (by with_reducible assumption) ?_)

theorem execLaneRetry_only {K : List Part} {F : FieldId → Prop} {P : PlotId → Prop} {s0 : State} (port : Option (FieldId × PortId)) (w : Lambda) (s : State) (hK : Fits ([.events, .out, .hostTx, .reg Reg.INJ_PT.ARM, .reg Reg.INJ_PT.DONE, .reg Reg.RTE_COMB_STAT.MERGED, .reg Reg.RTE_COMB_STAT.PEAK, .reg Reg.RTE_LINK_CNT.NAKS, .reg Reg.RTE_LINK_CNT.REPLAYED, .reg Reg.RTE_LINK_CNT.TX_FLITS, .reg Reg.RTE_LINK_CREDIT.RES, .reg Reg.RTE_LINK_CREDIT.SHARED, .ports, .router, .tally] : List Part) K) (hF : ∀ f, F f)
    (ho : Only K F P s0 s) : Ends K F P s0 (execLaneRetry port w s) := by
  unfold execLaneRetry
  repeat' first | with_reducible assumption | exact Fits.trans (by decide +kernel) hK | exact hF | exact hF _ | with_reducible apply Ends.inPort | with_reducible apply State.laneRetry_only | with_reducible apply State.hostLaneRetry_only | with_reducible apply Ends.finish | with_reducible apply Ends.next | with_reducible apply Only.ite | with_reducible apply Ends.ite | dsimp only | split | (with_reducible refine Only.fst (by with_reducible assumption) ?_) | (with_reducible refine Only.snd (by with_reducible assumption) ?_)

theorem State.laneRetryEnd_only {K : List Part} {F : FieldId → Prop} {P : PlotId → Prop} {s0 : State} (s : State) (f : FieldId) (n : PortId) (rx : Bool) (w : Lambda) (pass : Bool) (hK : Fits ([.events, .out, .reg Reg.HDL_CAL_STAT.SLOTS, .reg Reg.HDL_PORT_STATUS.TX_MODE, .reg Reg.INJ_PT.ARM, .reg Reg.INJ_PT.DONE, .reg Reg.RTE_COMB_STAT.MERGED, .reg Reg.RTE_COMB_STAT.PEAK, .reg Reg.RTE_LINK_CNT.NAKS, .reg Reg.RTE_LINK_CNT.REPLAYED, .reg Reg.RTE_LINK_CNT.TX_FLITS, .reg Reg.RTE_LINK_CREDIT.RES, .reg Reg.RTE_LINK_CREDIT.SHARED, .ports, .router, .tally] : List Part) K) (hF : F f)
    (ho : Only K F P s0 s) : Ends K F P s0 (State.laneRetryEnd s f n rx w pass) := by
  unfold State.laneRetryEnd
  repeat' first | with_reducible assumption | exact Fits.trans (by decide +kernel) hK | exact hF | with_reducible apply State.setRx_only | with_reducible apply State.laneSend_only | with_reducible apply State.raise_only | with_reducible apply State.retryDone_only | with_reducible apply Ends.finish | with_reducible apply Ends.next | with_reducible apply Only.ite | with_reducible apply Ends.ite | dsimp only | split | (with_reducible refine Only.fst (by with_reducible assumption) ?_) | (with_reducible refine Only.snd (by with_reducible assumption) ?_)

theorem State.hostLaneRetryEnd_only {K : List Part} {F : FieldId → Prop} {P : PlotId → Prop} {s0 : State} (s : State) (rx : Bool) (w : Lambda) (pass : Bool) (hK : Fits ([.events, .out, .hubReg Reg.HUB_HOST_PHY_STATUS.RECOVERIES, .hubReg Reg.HUB_HOST_PHY_STATUS.STATE, .hubReg Reg.HUB_HOST_PHY_STATUS.WIDTH, .hostTx, .host] : List Part) K)
    (ho : Only K F P s0 s) : Ends K F P s0 (State.hostLaneRetryEnd s rx w pass) := by
  unfold State.hostLaneRetryEnd
  repeat' first | with_reducible assumption | exact Fits.trans (by decide +kernel) hK | with_reducible apply State.setHostTx_only | with_reducible apply State.raiseHub_only | with_reducible apply State.hostActs_only | with_reducible apply Ends.finish | with_reducible apply Ends.next | with_reducible apply Only.ite | with_reducible apply Ends.ite | dsimp only | split | (with_reducible refine Only.fst (by with_reducible assumption) ?_) | (with_reducible refine Only.snd (by with_reducible assumption) ?_)

theorem execLaneRetryEnd_only {K : List Part} {F : FieldId → Prop} {P : PlotId → Prop} {s0 : State} (port : Option (FieldId × PortId)) (rx : Bool) (w : Lambda) (pass : Bool) (s : State) (hK : Fits (([.events, .out, .hubReg Reg.HUB_HOST_PHY_STATUS.RECOVERIES, .hubReg Reg.HUB_HOST_PHY_STATUS.STATE, .hubReg Reg.HUB_HOST_PHY_STATUS.WIDTH, .hostTx, .host, .reg Reg.HDL_CAL_STAT.SLOTS, .reg Reg.HDL_PORT_STATUS.TX_MODE, .reg Reg.INJ_PT.ARM, .reg Reg.INJ_PT.DONE, .reg Reg.RTE_COMB_STAT.MERGED, .reg Reg.RTE_COMB_STAT.PEAK, .reg Reg.RTE_LINK_CNT.NAKS, .reg Reg.RTE_LINK_CNT.REPLAYED, .reg Reg.RTE_LINK_CNT.TX_FLITS] : List Part) ++ ([.reg Reg.RTE_LINK_CREDIT.RES, .reg Reg.RTE_LINK_CREDIT.SHARED, .ports, .router, .tally] : List Part)) K) (hF : ∀ f, F f)
    (ho : Only K F P s0 s) : Ends K F P s0 (execLaneRetryEnd port rx w pass s) := by
  unfold execLaneRetryEnd
  repeat' first | with_reducible assumption | exact Fits.trans (by decide +kernel) hK | exact hF | exact hF _ | with_reducible apply Ends.inPort | with_reducible apply State.laneRetryEnd_only | with_reducible apply State.hostLaneRetryEnd_only | with_reducible apply Ends.finish | with_reducible apply Ends.next | with_reducible apply Only.ite | with_reducible apply Ends.ite | dsimp only | split | (with_reducible refine Only.fst (by with_reducible assumption) ?_) | (with_reducible refine Only.snd (by with_reducible assumption) ?_)

theorem execRxPowerMeasure_only {K : List Part} {F : FieldId → Prop} {P : PlotId → Prop} {s0 : State} (f : FieldId) (n : PortId) (powers : List Nat) (s : State) (hK : Fits ([.free, .reg Reg.HDL_LANE_POWER.RX_PWR, .reg Reg.INJ_PT.ARM, .reg Reg.INJ_PT.DONE, .ports, .health] : List Part) K) (hF : F f)
    (ho : Only K F P s0 s) : Ends K F P s0 (execRxPowerMeasure f n powers s) := by
  unfold execRxPowerMeasure
  repeat' first | with_reducible assumption | exact Fits.trans (by decide +kernel) hK | exact hF | with_reducible apply Ends.inRim | with_reducible apply State.healthInput_only | with_reducible apply State.injFire_only | with_reducible apply State.updPort_only | with_reducible apply State.fset_only | with_reducible apply State.draw_only | with_reducible apply Ends.finish | with_reducible apply Ends.next | with_reducible apply Only.ite | with_reducible apply Ends.ite | dsimp only | split | (with_reducible refine Only.foldl _ _ (fun t a ht => ?_) ?_) | (with_reducible refine Only.foldl_fst _ _ _ (fun t a ht => ?_) ?_) | (with_reducible refine Only.fst (by with_reducible assumption) ?_) | (with_reducible refine Only.snd (by with_reducible assumption) ?_)

theorem execPowerReport_only {K : List Part} {F : FieldId → Prop} {P : PlotId → Prop} {s0 : State} (f : FieldId) (n : PortId) (part : Fin 4) (powers : List Nat) (s : State) (hK : Fits ([.reg Reg.HDL_LANE_POWER.FAR_PWR] : List Part) K) (hF : F f)
    (ho : Only K F P s0 s) : Ends K F P s0 (execPowerReport f n part powers s) := by
  unfold execPowerReport
  repeat' first | with_reducible assumption | exact Fits.trans (by decide +kernel) hK | exact hF | with_reducible apply Ends.inRim | with_reducible apply State.fset_only | with_reducible apply Ends.finish | with_reducible apply Ends.next | with_reducible apply Only.ite | with_reducible apply Ends.ite | dsimp only | split | (with_reducible refine Only.foldl _ _ (fun t a ht => ?_) ?_) | (with_reducible refine Only.foldl_fst _ _ _ (fun t a ht => ?_) ?_) | (with_reducible refine Only.fst (by with_reducible assumption) ?_) | (with_reducible refine Only.snd (by with_reducible assumption) ?_)

theorem State.moduleEval_only {K : List Part} {F : FieldId → Prop} {P : PlotId → Prop} {s0 : State} (s : State) (m : Nat) (margin : Option Int) (inj : Bool) (hK : Fits ([.events, .out, .hubReg Reg.HDL_MODULE.FADE, .hubReg Reg.HDL_MODULE.MARGIN, .light] : List Part) K)
    (ho : Only K F P s0 s) : Only K F P s0 (State.moduleEval s m margin inj) := by
  unfold State.moduleEval
  repeat' first | with_reducible assumption | exact Fits.trans (by decide +kernel) hK | with_reducible apply State.hset_only | with_reducible apply State.updLight_only | with_reducible apply State.raiseHub_only | with_reducible apply State.i3cSend_only | with_reducible apply Only.ite | dsimp only | split | (with_reducible refine Only.fst (by with_reducible assumption) ?_) | (with_reducible refine Only.snd (by with_reducible assumption) ?_)

theorem State.fallbackAll_only {K : List Part} {F : FieldId → Prop} {P : PlotId → Prop} {s0 : State} (s : State) (hK : Fits ([.events, .out, .reg Reg.HDL_CAL_STAT.ABORTED, .reg Reg.HDL_PORT_STATUS.TX_MODE, .reg Reg.INJ_PT.ARM, .reg Reg.INJ_PT.DONE, .reg Reg.RTE_COMB_STAT.MERGED, .reg Reg.RTE_COMB_STAT.PEAK, .reg Reg.RTE_LINK_CNT.NAKS, .reg Reg.RTE_LINK_CNT.REPLAYED, .reg Reg.RTE_LINK_CNT.TX_FLITS, .reg Reg.RTE_LINK_CREDIT.RES, .reg Reg.RTE_LINK_CREDIT.SHARED, .ports, .router, .tally] : List Part) K) (hF : ∀ f, F f)
    (ho : Only K F P s0 s) : Only K F P s0 (State.fallbackAll s) := by
  unfold State.fallbackAll
  repeat' first | with_reducible assumption | exact Fits.trans (by decide +kernel) hK | exact hF | exact hF _ | with_reducible apply State.raise_only | with_reducible apply State.txModeUpdate_only | with_reducible apply State.updPort_only | with_reducible apply State.calAbort_only | with_reducible apply Only.ite | dsimp only | split | (with_reducible refine Only.foldl _ _ (fun t a ht => ?_) ?_) | (with_reducible refine Only.foldl_fst _ _ _ (fun t a ht => ?_) ?_) | (with_reducible refine Only.fst (by with_reducible assumption) ?_) | (with_reducible refine Only.snd (by with_reducible assumption) ?_)

theorem execMarginEval_only {K : List Part} {F : FieldId → Prop} {P : PlotId → Prop} {s0 : State} (inletA inletB : List Int) (s : State) (hK : Fits (([.events, .out, .hubReg Reg.HDL_MODULE.FADE, .hubReg Reg.HDL_MODULE.MARGIN, .hubReg Reg.INJ_HPT.ARM, .hubReg Reg.INJ_HPT.DONE, .light, .reg Reg.HDL_CAL_STAT.ABORTED, .reg Reg.HDL_PORT_STATUS.TX_MODE, .reg Reg.INJ_PT.ARM, .reg Reg.INJ_PT.DONE, .reg Reg.RTE_COMB_STAT.MERGED, .reg Reg.RTE_COMB_STAT.PEAK, .reg Reg.RTE_LINK_CNT.NAKS, .reg Reg.RTE_LINK_CNT.REPLAYED, .reg Reg.RTE_LINK_CNT.TX_FLITS] : List Part) ++ ([.reg Reg.RTE_LINK_CREDIT.RES, .reg Reg.RTE_LINK_CREDIT.SHARED, .ports, .router, .tally] : List Part)) K) (hF : ∀ f, F f)
    (ho : Only K F P s0 s) : Ends K F P s0 (execMarginEval inletA inletB s) := by
  unfold execMarginEval
  repeat' first | with_reducible assumption | exact Fits.trans (by decide +kernel) hK | exact hF | exact hF _ | with_reducible apply State.hset_only | with_reducible apply State.updLight_only | with_reducible apply State.moduleEval_only | with_reducible apply State.fallbackAll_only | with_reducible apply Ends.finish | with_reducible apply Ends.next | with_reducible apply Only.ite | with_reducible apply Ends.ite | dsimp only | split | (with_reducible refine Only.fst (by with_reducible assumption) ?_) | (with_reducible refine Only.snd (by with_reducible assumption) ?_)

theorem execTxModeReq_only {K : List Part} {F : FieldId → Prop} {P : PlotId → Prop} {s0 : State} (f : FieldId) (n : PortId) (mode : Fin 4) (s : State) (hK : Fits ([.events, .out, .reg Reg.HDL_PORT_CTL.TX_MODE_REQ, .reg Reg.HDL_PORT_STATUS.TX_MODE, .reg Reg.INJ_PT.ARM, .reg Reg.INJ_PT.DONE, .reg Reg.RTE_COMB_STAT.MERGED, .reg Reg.RTE_COMB_STAT.PEAK, .reg Reg.RTE_LINK_CNT.NAKS, .reg Reg.RTE_LINK_CNT.REPLAYED, .reg Reg.RTE_LINK_CNT.TX_FLITS, .reg Reg.RTE_LINK_CREDIT.RES, .reg Reg.RTE_LINK_CREDIT.SHARED, .ports, .router, .tally] : List Part) K) (hF : F f)
    (ho : Only K F P s0 s) : Ends K F P s0 (execTxModeReq f n mode s) := by
  unfold execTxModeReq
  repeat' first | with_reducible assumption | exact Fits.trans (by decide +kernel) hK | exact hF | with_reducible apply Ends.inRim | with_reducible apply State.txModeUpdate_only | with_reducible apply State.updPort_only | with_reducible apply State.fset_only | with_reducible apply Ends.finish | with_reducible apply Ends.next | with_reducible apply Only.ite | with_reducible apply Ends.ite | dsimp only | split | (with_reducible refine Only.fst (by with_reducible assumption) ?_) | (with_reducible refine Only.snd (by with_reducible assumption) ?_)

theorem State.switchRun_only {K : List Part} {F : FieldId → Prop} {P : PlotId → Prop} {s0 : State} (s : State) (mine : SwReq → Bool) (hK : Fits ([.light] : List Part) K)
    (ho : Only K F P s0 s) : Only K F P s0 (State.switchRun s mine) := by
  unfold State.switchRun
  repeat' first | with_reducible assumption | exact Fits.trans (by decide +kernel) hK | with_reducible apply State.updLight_only | with_reducible apply Only.ite | dsimp only | split | (with_reducible refine Only.fst (by with_reducible assumption) ?_) | (with_reducible refine Only.snd (by with_reducible assumption) ?_)

theorem execSwitchoverRunStart_only {K : List Part} {F : FieldId → Prop} {P : PlotId → Prop} {s0 : State} (atMark : Bool) (s : State) (hK : Fits ([.light, .tally] : List Part) K) (hF : ∀ f, F f)
    (ho : Only K F P s0 s) : Ends K F P s0 (execSwitchoverRunStart atMark s) := by
  unfold execSwitchoverRunStart
  repeat' first | with_reducible assumption | exact Fits.trans (by decide +kernel) hK | exact hF | exact hF _ | with_reducible apply State.markDid_only | with_reducible apply State.switchRun_only | with_reducible apply Ends.finish | with_reducible apply Ends.next | with_reducible apply Only.ite | with_reducible apply Ends.ite | dsimp only | split | (with_reducible refine Only.foldl _ _ (fun t a ht => ?_) ?_) | (with_reducible refine Only.foldl_fst _ _ _ (fun t a ht => ?_) ?_) | (with_reducible refine Only.fst (by with_reducible assumption) ?_) | (with_reducible refine Only.snd (by with_reducible assumption) ?_)

theorem execEngineSwitchover_only {K : List Part} {F : FieldId → Prop} {P : PlotId → Prop} {s0 : State} (s : State) (hK : Fits (([.events, .out, .hubReg Reg.HDL_HOST_ENGINE.SRC, .hubReg Reg.HDL_HOST_ENGINE.SWITCHING, .hubReg Reg.HUB_HOST_PHY_STATUS.PAUSE, .hubReg Reg.HUB_HOST_PHY_STATUS.RECOVERIES, .hubReg Reg.HUB_HOST_PHY_STATUS.STATE, .hubReg Reg.HUB_HOST_PHY_STATUS.WIDTH, .light, .hostTx, .host, .reg Reg.HDL_CAL_STAT.ABORTED, .reg Reg.HDL_ENGINE_CTL.NOW, .reg Reg.HDL_ENGINE_CTL.REQ, .reg Reg.HDL_ENGINE_STATUS.SRC, .reg Reg.HDL_ENGINE_STATUS.SWITCHING] : List Part) ++ ([.reg Reg.INJ_PT.ARM, .reg Reg.INJ_PT.DONE, .reg Reg.RTE_COMB_STAT.MERGED, .reg Reg.RTE_COMB_STAT.PEAK, .reg Reg.RTE_LINK_CNT.NAKS, .reg Reg.RTE_LINK_CNT.REPLAYED, .reg Reg.RTE_LINK_CNT.TX_FLITS, .reg Reg.RTE_LINK_CREDIT.RES, .reg Reg.RTE_LINK_CREDIT.SHARED, .ports, .router, .tally] : List Part)) K) (hF : ∀ f, F f)
    (ho : Only K F P s0 s) : Ends K F P s0 (execEngineSwitchover s) := by
  unfold execEngineSwitchover
  repeat' first | with_reducible assumption | exact Fits.trans (by decide +kernel) hK | exact hF | exact hF _ | with_reducible apply State.updLight_only | with_reducible apply State.switchTaken_only | with_reducible apply State.switchBegin_only | with_reducible apply State.switchEvent_only | with_reducible apply Ends.finish | with_reducible apply Ends.next | with_reducible apply Only.ite | with_reducible apply Ends.ite | dsimp only | split | (with_reducible refine Only.fst (by with_reducible assumption) ?_) | (with_reducible refine Only.snd (by with_reducible assumption) ?_)

theorem execEngineSwitchoverEnd_only {K : List Part} {F : FieldId → Prop} {P : PlotId → Prop} {s0 : State} (micros : Nat) (lost : List (Nat × Nat)) (s : State) (hK : Fits (([.events, .out, .hubReg Reg.HDL_HOST_ENGINE.SWITCHING, .hubReg Reg.HUB_HOST_PHY_STATUS.PAUSE, .hubReg Reg.HUB_HOST_PHY_STATUS.RECOVERIES, .hubReg Reg.HUB_HOST_PHY_STATUS.STATE, .hubReg Reg.HUB_HOST_PHY_STATUS.WIDTH, .light, .hostTx, .host, .reg Reg.HDL_CAL_STAT.ABORTED, .reg Reg.HDL_ENGINE_STATUS.SWITCHING, .reg Reg.HDL_PORT_STATUS.TX_MODE, .reg Reg.INJ_PT.ARM, .reg Reg.INJ_PT.DONE, .reg Reg.RTE_COMB_STAT.MERGED] : List Part) ++ ([.reg Reg.RTE_COMB_STAT.PEAK, .reg Reg.RTE_LINK_CNT.LOST, .reg Reg.RTE_LINK_CNT.NAKS, .reg Reg.RTE_LINK_CNT.REPLAYED, .reg Reg.RTE_LINK_CNT.RETRAINS, .reg Reg.RTE_LINK_CNT.TX_FLITS, .reg Reg.RTE_LINK_CREDIT.RES, .reg Reg.RTE_LINK_CREDIT.SHARED, .reg Reg.RTE_LINK_STATUS.PRESERVED, .reg Reg.RTE_LINK_STATUS.RESULT, .reg Reg.RTE_LINK_STATUS.STATE, .ports, .router, .health, .tally] : List Part)) K) (hF : ∀ f, F f)
    (ho : Only K F P s0 s) : Ends K F P s0 (execEngineSwitchoverEnd micros lost s) := by
  unfold execEngineSwitchoverEnd
  repeat' first | with_reducible assumption | exact Fits.trans (by decide +kernel) hK | exact hF | exact hF _ | with_reducible apply State.switchEnd_only | with_reducible apply Ends.finish | with_reducible apply Ends.next | with_reducible apply Only.ite | with_reducible apply Ends.ite | dsimp only | split | (with_reducible refine Only.fst (by with_reducible assumption) ?_) | (with_reducible refine Only.snd (by with_reducible assumption) ?_)

theorem State.switchQueue_only {K : List Part} {F : FieldId → Prop} {P : PlotId → Prop} {s0 : State} (s : State) (f : FieldId) (e : Fin 4) (target : Nat) (atMark : Bool) (hK : Fits ([.light, .reg Reg.HDL_ENGINE_CTL.NOW, .reg Reg.HDL_ENGINE_CTL.REQ, .reg Reg.HDL_ENGINE_CTL.TARGET] : List Part) K) (hF : F f)
    (ho : Only K F P s0 s) : Only K F P s0 (State.switchQueue s f e target atMark) := by
  unfold State.switchQueue
  repeat' first | with_reducible assumption | exact Fits.trans (by decide +kernel) hK | exact hF | with_reducible apply State.fset_only | with_reducible apply State.updLight_only | with_reducible apply Only.ite | dsimp only | split | (with_reducible refine Only.fst (by with_reducible assumption) ?_) | (with_reducible refine Only.snd (by with_reducible assumption) ?_)

theorem execEngineSwitchReq_only {K : List Part} {F : FieldId → Prop} {P : PlotId → Prop} {s0 : State} (f : FieldId) (e : Fin 4) (target : Fin 2) (s : State) (hK : Fits ([.light, .reg Reg.HDL_ENGINE_CTL.NOW, .reg Reg.HDL_ENGINE_CTL.REQ, .reg Reg.HDL_ENGINE_CTL.TARGET] : List Part) K) (hF : F f)
    (ho : Only K F P s0 s) : Ends K F P s0 (execEngineSwitchReq f e target s) := by
  unfold execEngineSwitchReq
  repeat' first | with_reducible assumption | exact Fits.trans (by decide +kernel) hK | exact hF | with_reducible apply Ends.inRim | with_reducible apply State.switchQueue_only | with_reducible apply Ends.finish | with_reducible apply Ends.next | with_reducible apply Only.ite | with_reducible apply Ends.ite | dsimp only | split | (with_reducible refine Only.fst (by with_reducible assumption) ?_) | (with_reducible refine Only.snd (by with_reducible assumption) ?_)

theorem execEngineSwitchNow_only {K : List Part} {F : FieldId → Prop} {P : PlotId → Prop} {s0 : State} (f : FieldId) (e : Fin 4) (target : Fin 2) (s : State) (hK : Fits ([.light, .reg Reg.HDL_ENGINE_CTL.NOW, .reg Reg.HDL_ENGINE_CTL.REQ, .reg Reg.HDL_ENGINE_CTL.TARGET] : List Part) K) (hF : F f)
    (ho : Only K F P s0 s) : Ends K F P s0 (execEngineSwitchNow f e target s) := by
  unfold execEngineSwitchNow
  repeat' first | with_reducible assumption | exact Fits.trans (by decide +kernel) hK | exact hF | with_reducible apply Ends.inRim | with_reducible apply State.switchQueue_only | with_reducible apply Ends.finish | with_reducible apply Ends.next | with_reducible apply Only.ite | with_reducible apply Ends.ite | dsimp only | split | (with_reducible refine Only.fst (by with_reducible assumption) ?_) | (with_reducible refine Only.snd (by with_reducible assumption) ?_)

theorem State.moduleRead_only {K : List Part} {F : FieldId → Prop} {P : PlotId → Prop} {s0 : State} (s : State) (m : Nat) (answered : Bool) (hK : Fits ([.events, .hubReg Reg.HDL_MODULE.FAULT, .light] : List Part) K)
    (ho : Only K F P s0 s) : Only K F P s0 (State.moduleRead s m answered) := by
  unfold State.moduleRead
  repeat' first | with_reducible assumption | exact Fits.trans (by decide +kernel) hK | with_reducible apply State.updLight_only | with_reducible apply State.moduleFault_only | with_reducible apply Only.ite | dsimp only | split | (with_reducible refine Only.fst (by with_reducible assumption) ?_) | (with_reducible refine Only.snd (by with_reducible assumption) ?_)

theorem State.moduleStatus_only {K : List Part} {F : FieldId → Prop} {P : PlotId → Prop} {s0 : State} (s : State) (m faults : Nat) (hK : Fits ([.events, .hubReg Reg.HDL_MODULE.FAULT, .hubReg Reg.INJ_HPT.ARM, .hubReg Reg.INJ_HPT.DONE, .light] : List Part) K)
    (ho : Only K F P s0 s) : Only K F P s0 (State.moduleStatus s m faults) := by
  unfold State.moduleStatus
  repeat' first | with_reducible assumption | exact Fits.trans (by decide +kernel) hK | with_reducible apply State.hset_only | with_reducible apply State.moduleFault_only | with_reducible apply Only.ite | dsimp only | split | (with_reducible refine Only.fst (by with_reducible assumption) ?_) | (with_reducible refine Only.snd (by with_reducible assumption) ?_)

theorem execModulePoll_only {K : List Part} {F : FieldId → Prop} {P : PlotId → Prop} {s0 : State} (m : Fin 2) (answer : Option Nat × Option Nat) (s : State) (hK : Fits ([.events, .out, .hubReg Reg.HDL_MODULE.BIAS, .hubReg Reg.HDL_MODULE.FAULT, .hubReg Reg.INJ_HPT.ARM, .hubReg Reg.INJ_HPT.DONE, .light] : List Part) K)
    (ho : Only K F P s0 s) : Ends K F P s0 (execModulePoll m answer s) := by
  unfold execModulePoll
  repeat' first | with_reducible assumption | exact Fits.trans (by decide +kernel) hK | with_reducible apply State.moduleRead_only | with_reducible apply State.emit_only | with_reducible apply State.moduleStatus_only | with_reducible apply State.hset_only | with_reducible apply Ends.finish | with_reducible apply Ends.next | with_reducible apply Only.ite | with_reducible apply Ends.ite | dsimp only | split | (with_reducible refine Only.fst (by with_reducible assumption) ?_) | (with_reducible refine Only.snd (by with_reducible assumption) ?_)

theorem execModuleIbi_only {K : List Part} {F : FieldId → Prop} {P : PlotId → Prop} {s0 : State} (m : Fin 2) (faults : Nat) (s : State) (hK : Fits ([.events, .hubReg Reg.HDL_MODULE.FAULT, .light] : List Part) K)
    (ho : Only K F P s0 s) : Ends K F P s0 (execModuleIbi m faults s) := by
  unfold execModuleIbi
  repeat' first | with_reducible assumption | exact Fits.trans (by decide +kernel) hK | with_reducible apply State.moduleFault_only | with_reducible apply Ends.finish | with_reducible apply Ends.next | with_reducible apply Only.ite | with_reducible apply Ends.ite | dsimp only | split | (with_reducible refine Only.fst (by with_reducible assumption) ?_) | (with_reducible refine Only.snd (by with_reducible assumption) ?_)

theorem execLaserEnDeassert_only {K : List Part} {F : FieldId → Prop} {P : PlotId → Prop} {s0 : State} (s : State) (hK : Fits (([.events, .out, .hubReg Reg.HDL_HOST_ENGINE.DARK, .hubReg Reg.HDL_HOST_ENGINE.INLET_A_OK, .hubReg Reg.HDL_HOST_ENGINE.INLET_B_OK, .hubReg Reg.HDL_HOST_ENGINE.SWITCHING, .hubReg Reg.HDL_LIGHT_STATUS.STATE, .hubReg Reg.HDL_MODULE.OUTPUT_ON, .hubReg Reg.HUB_HOST_PHY_STATUS.STATE, .hubReg Reg.HUB_HOST_PHY_STATUS.WIDTH, .light, .host, .reg Reg.HDL_ENGINE_STATUS.DARK, .reg Reg.HDL_ENGINE_STATUS.INLET_A_OK, .reg Reg.HDL_ENGINE_STATUS.INLET_B_OK, .reg Reg.HDL_ENGINE_STATUS.SWITCHING] : List Part) ++ ([.reg Reg.INJ_PT.ARM, .reg Reg.INJ_PT.DONE, .reg Reg.RTE_COMB_STAT.MERGED, .reg Reg.RTE_COMB_STAT.PEAK, .reg Reg.RTE_LINK_CNT.LOST, .reg Reg.RTE_LINK_CNT.NAKS, .reg Reg.RTE_LINK_CNT.REPLAYED, .reg Reg.RTE_LINK_CNT.TX_FLITS, .reg Reg.RTE_LINK_CREDIT.RES, .reg Reg.RTE_LINK_CREDIT.SHARED, .reg Reg.RTE_LINK_STATUS.PRESERVED, .reg Reg.RTE_LINK_STATUS.RESULT, .reg Reg.RTE_LINK_STATUS.STATE, .ports, .router, .tally] : List Part)) K) (hF : ∀ f, F f)
    (ho : Only K F P s0 s) : Ends K F P s0 (execLaserEnDeassert s) := by
  unfold execLaserEnDeassert
  repeat' first | with_reducible assumption | exact Fits.trans (by decide +kernel) hK | exact hF | exact hF _ | with_reducible apply State.updLight_only | with_reducible apply State.i3cSend_only | with_reducible apply State.lightSet_only | with_reducible apply State.darkAll_only | with_reducible apply Ends.finish | with_reducible apply Ends.next | with_reducible apply Only.ite | with_reducible apply Ends.ite | dsimp only | split | (with_reducible refine Only.fst (by with_reducible assumption) ?_) | (with_reducible refine Only.snd (by with_reducible assumption) ?_)

theorem State.inletLost_only {K : List Part} {F : FieldId → Prop} {P : PlotId → Prop} {s0 : State} (s : State) (e m : Nat) (inj : Bool) (hK : Fits (([.events, .out, .hubReg Reg.HDL_HOST_ENGINE.DARK, .hubReg Reg.HDL_HOST_ENGINE.INLET_A_OK, .hubReg Reg.HDL_HOST_ENGINE.INLET_B_OK, .hubReg Reg.HDL_HOST_ENGINE.SRC, .hubReg Reg.HDL_HOST_ENGINE.SWITCHING, .hubReg Reg.HDL_MODULE.OUTPUT_ON, .hubReg Reg.HDL_MODULE.PROBE_FAIL, .hubReg Reg.HUB_HOST_PHY_STATUS.STATE, .hubReg Reg.HUB_HOST_PHY_STATUS.WIDTH, .light, .host, .reg Reg.HDL_ENGINE_STATUS.DARK, .reg Reg.HDL_ENGINE_STATUS.INLET_A_OK, .reg Reg.HDL_ENGINE_STATUS.INLET_B_OK] : List Part) ++ ([.reg Reg.HDL_ENGINE_STATUS.SRC, .reg Reg.HDL_ENGINE_STATUS.SWITCHING, .reg Reg.INJ_PT.ARM, .reg Reg.INJ_PT.DONE, .reg Reg.RTE_COMB_STAT.MERGED, .reg Reg.RTE_COMB_STAT.PEAK, .reg Reg.RTE_LINK_CNT.LOST, .reg Reg.RTE_LINK_CNT.NAKS, .reg Reg.RTE_LINK_CNT.REPLAYED, .reg Reg.RTE_LINK_CNT.TX_FLITS, .reg Reg.RTE_LINK_CREDIT.RES, .reg Reg.RTE_LINK_CREDIT.SHARED, .reg Reg.RTE_LINK_STATUS.PRESERVED, .reg Reg.RTE_LINK_STATUS.RESULT, .reg Reg.RTE_LINK_STATUS.STATE, .ports] : List Part) ++ ([.router, .tally] : List Part)) K) (hF : ∀ f, F f)
    (ho : Only K F P s0 s) : Only K F P s0 (State.inletLost s e m inj) := by
  unfold State.inletLost
  repeat' first | with_reducible assumption | exact Fits.trans (by decide +kernel) hK | exact hF | exact hF _ | with_reducible apply State.raiseHub_only | with_reducible apply State.hset_only | with_reducible apply State.setInlet_only | with_reducible apply State.emit_only | with_reducible apply State.updLight_only | with_reducible apply State.engSetSrc_only | with_reducible apply State.engDarken_only | with_reducible apply Only.ite | dsimp only | split | (with_reducible refine Only.fst (by with_reducible assumption) ?_) | (with_reducible refine Only.snd (by with_reducible assumption) ?_)

theorem execInletLost_only {K : List Part} {F : FieldId → Prop} {P : PlotId → Prop} {s0 : State} (engine : Fin 17) (m : Fin 2) (s : State) (hK : Fits (([.events, .out, .hubReg Reg.HDL_HOST_ENGINE.DARK, .hubReg Reg.HDL_HOST_ENGINE.INLET_A_OK, .hubReg Reg.HDL_HOST_ENGINE.INLET_B_OK, .hubReg Reg.HDL_HOST_ENGINE.SRC, .hubReg Reg.HDL_HOST_ENGINE.SWITCHING, .hubReg Reg.HDL_MODULE.OUTPUT_ON, .hubReg Reg.HDL_MODULE.PROBE_FAIL, .hubReg Reg.HUB_HOST_PHY_STATUS.STATE, .hubReg Reg.HUB_HOST_PHY_STATUS.WIDTH, .light, .host, .reg Reg.HDL_ENGINE_STATUS.DARK, .reg Reg.HDL_ENGINE_STATUS.INLET_A_OK, .reg Reg.HDL_ENGINE_STATUS.INLET_B_OK] : List Part) ++ ([.reg Reg.HDL_ENGINE_STATUS.SRC, .reg Reg.HDL_ENGINE_STATUS.SWITCHING, .reg Reg.INJ_PT.ARM, .reg Reg.INJ_PT.DONE, .reg Reg.RTE_COMB_STAT.MERGED, .reg Reg.RTE_COMB_STAT.PEAK, .reg Reg.RTE_LINK_CNT.LOST, .reg Reg.RTE_LINK_CNT.NAKS, .reg Reg.RTE_LINK_CNT.REPLAYED, .reg Reg.RTE_LINK_CNT.TX_FLITS, .reg Reg.RTE_LINK_CREDIT.RES, .reg Reg.RTE_LINK_CREDIT.SHARED, .reg Reg.RTE_LINK_STATUS.PRESERVED, .reg Reg.RTE_LINK_STATUS.RESULT, .reg Reg.RTE_LINK_STATUS.STATE, .ports] : List Part) ++ ([.router, .tally] : List Part)) K) (hF : ∀ f, F f)
    (ho : Only K F P s0 s) : Ends K F P s0 (execInletLost engine m s) := by
  unfold execInletLost
  repeat' first | with_reducible assumption | exact Fits.trans (by decide +kernel) hK | exact hF | exact hF _ | with_reducible apply State.inletLost_only | with_reducible apply Ends.finish | with_reducible apply Ends.next | with_reducible apply Only.ite | with_reducible apply Ends.ite | dsimp only | split | (with_reducible refine Only.fst (by with_reducible assumption) ?_) | (with_reducible refine Only.snd (by with_reducible assumption) ?_)

theorem State.aprEnter_only {K : List Part} {F : FieldId → Prop} {P : PlotId → Prop} {s0 : State} (s : State) (f : FieldId) (n : PortId) (hK : Fits (([.events, .out, .reg Reg.HDL_PORT_STATUS.APR, .reg Reg.INJ_PT.ARM, .reg Reg.INJ_PT.DONE, .reg Reg.RTE_COMB_STAT.MERGED, .reg Reg.RTE_COMB_STAT.PEAK, .reg Reg.RTE_LINK_CNT.LOST, .reg Reg.RTE_LINK_CNT.NAKS, .reg Reg.RTE_LINK_CNT.REPLAYED, .reg Reg.RTE_LINK_CNT.TX_FLITS, .reg Reg.RTE_LINK_CREDIT.RES, .reg Reg.RTE_LINK_CREDIT.SHARED, .reg Reg.RTE_LINK_STATUS.PRESERVED, .reg Reg.RTE_LINK_STATUS.RESULT, .reg Reg.RTE_LINK_STATUS.STATE] : List Part) ++ ([.ports, .router, .tally] : List Part)) K) (hF : F f)
    (ho : Only K F P s0 s) : Ends K F P s0 (State.aprEnter s f n) := by
  unfold State.aprEnter
  repeat' first | with_reducible assumption | exact Fits.trans (by decide +kernel) hK | exact hF | with_reducible apply State.fset_only | with_reducible apply State.updPort_only | with_reducible apply State.linkDarken_only | with_reducible apply State.raise_only | with_reducible apply Ends.finish | with_reducible apply Ends.next | with_reducible apply Only.ite | with_reducible apply Ends.ite | dsimp only | split | (with_reducible refine Only.fst (by with_reducible assumption) ?_) | (with_reducible refine Only.snd (by with_reducible assumption) ?_)

theorem State.hostAprEnter_only {K : List Part} {F : FieldId → Prop} {P : PlotId → Prop} {s0 : State} (s : State) (hK : Fits ([.events, .hubReg Reg.HUB_HOST_PHY_STATUS.STATE, .hubReg Reg.HUB_HOST_PHY_STATUS.WIDTH, .light, .host] : List Part) K)
    (ho : Only K F P s0 s) : Ends K F P s0 (State.hostAprEnter s) := by
  unfold State.hostAprEnter
  repeat' first | with_reducible assumption | exact Fits.trans (by decide +kernel) hK | with_reducible apply State.updLight_only | with_reducible apply State.hostSet_only | with_reducible apply State.raiseHub_only | with_reducible apply Ends.finish | with_reducible apply Ends.next | with_reducible apply Only.ite | with_reducible apply Ends.ite | dsimp only | split | (with_reducible refine Only.fst (by with_reducible assumption) ?_) | (with_reducible refine Only.snd (by with_reducible assumption) ?_)

theorem execAprEnter_only {K : List Part} {F : FieldId → Prop} {P : PlotId → Prop} {s0 : State} (port : Option (FieldId × PortId)) (s : State) (hK : Fits (([.events, .out, .hubReg Reg.HUB_HOST_PHY_STATUS.STATE, .hubReg Reg.HUB_HOST_PHY_STATUS.WIDTH, .light, .host, .reg Reg.HDL_PORT_STATUS.APR, .reg Reg.INJ_PT.ARM, .reg Reg.INJ_PT.DONE, .reg Reg.RTE_COMB_STAT.MERGED, .reg Reg.RTE_COMB_STAT.PEAK, .reg Reg.RTE_LINK_CNT.LOST, .reg Reg.RTE_LINK_CNT.NAKS, .reg Reg.RTE_LINK_CNT.REPLAYED, .reg Reg.RTE_LINK_CNT.TX_FLITS, .reg Reg.RTE_LINK_CREDIT.RES] : List Part) ++ ([.reg Reg.RTE_LINK_CREDIT.SHARED, .reg Reg.RTE_LINK_STATUS.PRESERVED, .reg Reg.RTE_LINK_STATUS.RESULT, .reg Reg.RTE_LINK_STATUS.STATE, .ports, .router, .tally] : List Part)) K) (hF : ∀ f, F f)
    (ho : Only K F P s0 s) : Ends K F P s0 (execAprEnter port s) := by
  unfold execAprEnter
  repeat' first | with_reducible assumption | exact Fits.trans (by decide +kernel) hK | exact hF | exact hF _ | with_reducible apply Ends.inPort | with_reducible apply State.aprEnter_only | with_reducible apply State.hostAprEnter_only | with_reducible apply Ends.finish | with_reducible apply Ends.next | with_reducible apply Only.ite | with_reducible apply Ends.ite | dsimp only | split | (with_reducible refine Only.fst (by with_reducible assumption) ?_) | (with_reducible refine Only.snd (by with_reducible assumption) ?_)

theorem State.aprExit_only {K : List Part} {F : FieldId → Prop} {P : PlotId → Prop} {s0 : State} (s : State) (f : FieldId) (n : PortId) (hK : Fits (([.events, .out, .reg Reg.HDL_PORT_STATUS.APR, .reg Reg.INJ_PT.ARM, .reg Reg.INJ_PT.DONE, .reg Reg.RTE_COMB_STAT.MERGED, .reg Reg.RTE_COMB_STAT.PEAK, .reg Reg.RTE_LINK_CNT.NAKS, .reg Reg.RTE_LINK_CNT.REPLAYED, .reg Reg.RTE_LINK_CNT.TX_FLITS, .reg Reg.RTE_LINK_CREDIT.RES, .reg Reg.RTE_LINK_CREDIT.SHARED, .reg Reg.RTE_LINK_STATUS.RESULT, .reg Reg.RTE_LINK_STATUS.STATE, .ports, .router] : List Part) ++ ([.tally] : List Part)) K) (hF : F f)
    (ho : Only K F P s0 s) : Ends K F P s0 (State.aprExit s f n) := by
  unfold State.aprExit
  repeat' first | with_reducible assumption | exact Fits.trans (by decide +kernel) hK | exact hF | with_reducible apply State.fset_only | with_reducible apply State.updPort_only | with_reducible apply State.linkLocked_only | with_reducible apply State.linkStart_only | with_reducible apply State.raise_only | with_reducible apply Ends.finish | with_reducible apply Ends.next | with_reducible apply Only.ite | with_reducible apply Ends.ite | dsimp only | split | (with_reducible refine Only.fst (by with_reducible assumption) ?_) | (with_reducible refine Only.snd (by with_reducible assumption) ?_)

theorem State.hostAprExit_only {K : List Part} {F : FieldId → Prop} {P : PlotId → Prop} {s0 : State} (s : State) (hK : Fits ([.events, .hubReg Reg.HUB_HOST_PHY_STATUS.STATE, .hubReg Reg.HUB_HOST_PHY_STATUS.WIDTH, .light, .host] : List Part) K)
    (ho : Only K F P s0 s) : Ends K F P s0 (State.hostAprExit s) := by
  unfold State.hostAprExit
  repeat' first | with_reducible assumption | exact Fits.trans (by decide +kernel) hK | with_reducible apply State.raiseHub_only | with_reducible apply State.updLight_only | with_reducible apply State.hostSet_only | with_reducible apply Ends.finish | with_reducible apply Ends.next | with_reducible apply Only.ite | with_reducible apply Ends.ite | dsimp only | split | (with_reducible refine Only.fst (by with_reducible assumption) ?_) | (with_reducible refine Only.snd (by with_reducible assumption) ?_)

theorem execAprExit_only {K : List Part} {F : FieldId → Prop} {P : PlotId → Prop} {s0 : State} (port : Option (FieldId × PortId)) (s : State) (hK : Fits (([.events, .out, .hubReg Reg.HUB_HOST_PHY_STATUS.STATE, .hubReg Reg.HUB_HOST_PHY_STATUS.WIDTH, .light, .host, .reg Reg.HDL_PORT_STATUS.APR, .reg Reg.INJ_PT.ARM, .reg Reg.INJ_PT.DONE, .reg Reg.RTE_COMB_STAT.MERGED, .reg Reg.RTE_COMB_STAT.PEAK, .reg Reg.RTE_LINK_CNT.NAKS, .reg Reg.RTE_LINK_CNT.REPLAYED, .reg Reg.RTE_LINK_CNT.TX_FLITS, .reg Reg.RTE_LINK_CREDIT.RES, .reg Reg.RTE_LINK_CREDIT.SHARED] : List Part) ++ ([.reg Reg.RTE_LINK_STATUS.RESULT, .reg Reg.RTE_LINK_STATUS.STATE, .ports, .router, .tally] : List Part)) K) (hF : ∀ f, F f)
    (ho : Only K F P s0 s) : Ends K F P s0 (execAprExit port s) := by
  unfold execAprExit
  repeat' first | with_reducible assumption | exact Fits.trans (by decide +kernel) hK | exact hF | exact hF _ | with_reducible apply Ends.inPort | with_reducible apply State.aprExit_only | with_reducible apply State.hostAprExit_only | with_reducible apply Ends.finish | with_reducible apply Ends.next | with_reducible apply Only.ite | with_reducible apply Ends.ite | dsimp only | split | (with_reducible refine Only.fst (by with_reducible assumption) ?_) | (with_reducible refine Only.snd (by with_reducible assumption) ?_)

end Sys2Proof.Machine
end

