-- ==== Sys2Proof/Laws/Touch/Links.lean ====
section
/-! SUPPORT. What each operation of Machine/Links.lean can change: the parts named, and nothing else. -/

namespace Sys2Proof.Machine

set_option Elab.async false

open Sys2Proof

theorem execWavelengthLock_only {K : List Part} {F : FieldId → Prop} {P : PlotId → Prop} {s0 : State} (f : FieldId) (n : PortId) (w : Lambda) (s : State) (hK : Fits ([.events, .out, .reg Reg.INJ_PT.ARM, .reg Reg.INJ_PT.DONE, .reg Reg.RTE_COMB_STAT.MERGED, .reg Reg.RTE_COMB_STAT.PEAK, .reg Reg.RTE_LINK_CNT.NAKS, .reg Reg.RTE_LINK_CNT.REPLAYED, .reg Reg.RTE_LINK_CNT.TX_FLITS, .reg Reg.RTE_LINK_CREDIT.RES, .reg Reg.RTE_LINK_CREDIT.SHARED, .reg Reg.RTE_LINK_STATUS.RESULT, .reg Reg.RTE_LINK_STATUS.STATE, .ports, .router, .tally] : List Part) K) (hF : F f)
    (ho : Only K F P s0 s) : Ends K F P s0 (execWavelengthLock f n w s) := by
  unfold execWavelengthLock
  repeat' first | with_reducible assumption | exact Fits.trans (by decide +kernel) hK | exact hF | with_reducible apply Ends.inRim | with_reducible apply State.updPort_only | with_reducible apply State.linkLocked_only | with_reducible apply Ends.finish | with_reducible apply Ends.next | with_reducible apply Only.ite | with_reducible apply Ends.ite | dsimp only | split | (with_reducible refine Only.fst (by with_reducible assumption) ?_) | (with_reducible refine Only.snd (by with_reducible assumption) ?_)

theorem execWavelengthLockLoss_only {K : List Part} {F : FieldId → Prop} {P : PlotId → Prop} {s0 : State} (f : FieldId) (n : PortId) (w : Lambda) (s : State) (hK : Fits (([.events, .out, .reg Reg.INJ_PT.ARM, .reg Reg.INJ_PT.DONE, .reg Reg.RTE_COMB_STAT.MERGED, .reg Reg.RTE_COMB_STAT.PEAK, .reg Reg.RTE_LINK_CNT.LOST, .reg Reg.RTE_LINK_CNT.NAKS, .reg Reg.RTE_LINK_CNT.REPLAYED, .reg Reg.RTE_LINK_CNT.RETRAINS, .reg Reg.RTE_LINK_CNT.TX_FLITS, .reg Reg.RTE_LINK_CREDIT.RES, .reg Reg.RTE_LINK_CREDIT.SHARED, .reg Reg.RTE_LINK_STATUS.PRESERVED, .reg Reg.RTE_LINK_STATUS.RESULT, .reg Reg.RTE_LINK_STATUS.STATE] : List Part) ++ ([.ports, .router, .health, .tally] : List Part)) K) (hF : F f)
    (ho : Only K F P s0 s) : Ends K F P s0 (execWavelengthLockLoss f n w s) := by
  unfold execWavelengthLockLoss
  repeat' first | with_reducible assumption | exact Fits.trans (by decide +kernel) hK | exact hF | with_reducible apply Ends.inRim | with_reducible apply State.updPort_only | with_reducible apply State.laneCheck_only | with_reducible apply State.rxFail_only | with_reducible apply Ends.finish | with_reducible apply Ends.next | with_reducible apply Only.ite | with_reducible apply Ends.ite | dsimp only | split | (with_reducible refine Only.fst (by with_reducible assumption) ?_) | (with_reducible refine Only.snd (by with_reducible assumption) ?_)

theorem execLockTimeout_only {K : List Part} {F : FieldId → Prop} {P : PlotId → Prop} {s0 : State} (f : FieldId) (n : PortId) (s : State) (hK : Fits ([.events, .reg Reg.RTE_LINK_STATUS.RESULT, .ports] : List Part) K) (hF : F f)
    (ho : Only K F P s0 s) : Ends K F P s0 (execLockTimeout f n s) := by
  unfold execLockTimeout
  repeat' first | with_reducible assumption | exact Fits.trans (by decide +kernel) hK | exact hF | with_reducible apply Ends.inRim | with_reducible apply State.fset_only | with_reducible apply State.updPort_only | with_reducible apply State.raise_only | with_reducible apply Ends.finish | with_reducible apply Ends.next | with_reducible apply Only.ite | with_reducible apply Ends.ite | dsimp only | split | (with_reducible refine Only.fst (by with_reducible assumption) ?_) | (with_reducible refine Only.snd (by with_reducible assumption) ?_)

theorem execRxSilentTimeout_only {K : List Part} {F : FieldId → Prop} {P : PlotId → Prop} {s0 : State} (f : FieldId) (n : PortId) (s : State) (hK : Fits (([.events, .out, .reg Reg.INJ_PT.ARM, .reg Reg.INJ_PT.DONE, .reg Reg.RTE_COMB_STAT.MERGED, .reg Reg.RTE_COMB_STAT.PEAK, .reg Reg.RTE_LINK_CNT.LOST, .reg Reg.RTE_LINK_CNT.NAKS, .reg Reg.RTE_LINK_CNT.REPLAYED, .reg Reg.RTE_LINK_CNT.RETRAINS, .reg Reg.RTE_LINK_CNT.TX_FLITS, .reg Reg.RTE_LINK_CREDIT.RES, .reg Reg.RTE_LINK_CREDIT.SHARED, .reg Reg.RTE_LINK_STATUS.PRESERVED, .reg Reg.RTE_LINK_STATUS.RESULT, .reg Reg.RTE_LINK_STATUS.STATE] : List Part) ++ ([.ports, .router, .tally] : List Part)) K) (hF : F f)
    (ho : Only K F P s0 s) : Ends K F P s0 (execRxSilentTimeout f n s) := by
  unfold execRxSilentTimeout
  repeat' first | with_reducible assumption | exact Fits.trans (by decide +kernel) hK | exact hF | with_reducible apply Ends.inRim | with_reducible apply State.linkRetrain_only | with_reducible apply Ends.finish | with_reducible apply Ends.next | with_reducible apply Only.ite | with_reducible apply Ends.ite | dsimp only | split | (with_reducible refine Only.fst (by with_reducible assumption) ?_) | (with_reducible refine Only.snd (by with_reducible assumption) ?_)

theorem execHeaderMapDesync_only {K : List Part} {F : FieldId → Prop} {P : PlotId → Prop} {s0 : State} (f : FieldId) (n : PortId) (s : State) (hK : Fits (([.events, .out, .reg Reg.INJ_PT.ARM, .reg Reg.INJ_PT.DONE, .reg Reg.RTE_COMB_STAT.MERGED, .reg Reg.RTE_COMB_STAT.PEAK, .reg Reg.RTE_LINK_CNT.LOST, .reg Reg.RTE_LINK_CNT.NAKS, .reg Reg.RTE_LINK_CNT.PROTO_ERR, .reg Reg.RTE_LINK_CNT.REPLAYED, .reg Reg.RTE_LINK_CNT.RETRAINS, .reg Reg.RTE_LINK_CNT.TX_FLITS, .reg Reg.RTE_LINK_CREDIT.RES, .reg Reg.RTE_LINK_CREDIT.SHARED, .reg Reg.RTE_LINK_STATUS.PRESERVED, .reg Reg.RTE_LINK_STATUS.RESULT] : List Part) ++ ([.reg Reg.RTE_LINK_STATUS.STATE, .lastRaise, .ports, .router, .tally] : List Part)) K) (hF : F f)
    (ho : Only K F P s0 s) : Ends K F P s0 (execHeaderMapDesync f n s) := by
  unfold execHeaderMapDesync
  repeat' first | with_reducible assumption | exact Fits.trans (by decide +kernel) hK | exact hF | with_reducible apply Ends.inRim | with_reducible apply State.linkDesync_only | with_reducible apply Ends.finish | with_reducible apply Ends.next | with_reducible apply Only.ite | with_reducible apply Ends.ite | dsimp only | split | (with_reducible refine Only.fst (by with_reducible assumption) ?_) | (with_reducible refine Only.snd (by with_reducible assumption) ?_)

theorem execMapChange_only {K : List Part} {F : FieldId → Prop} {P : PlotId → Prop} {s0 : State} (f : FieldId) (n : PortId) (slot wave : Fin 16) (s : State) (hK : Fits ([.ports] : List Part) K) (hF : F f)
    (ho : Only K F P s0 s) : Ends K F P s0 (execMapChange f n slot wave s) := by
  unfold execMapChange
  repeat' first | with_reducible assumption | exact Fits.trans (by decide +kernel) hK | exact hF | with_reducible apply Ends.inRim | with_reducible apply State.updPort_only | with_reducible apply Ends.finish | with_reducible apply Ends.next | with_reducible apply Only.ite | with_reducible apply Ends.ite | dsimp only | split | (with_reducible refine Only.fst (by with_reducible assumption) ?_) | (with_reducible refine Only.snd (by with_reducible assumption) ?_)

theorem execModeChange_only {K : List Part} {F : FieldId → Prop} {P : PlotId → Prop} {s0 : State} (f : FieldId) (n : PortId) (mode : Fin 4) (s : State) (hK : Fits ([.ports] : List Part) K) (hF : F f)
    (ho : Only K F P s0 s) : Ends K F P s0 (execModeChange f n mode s) := by
  unfold execModeChange
  repeat' first | with_reducible assumption | exact Fits.trans (by decide +kernel) hK | exact hF | with_reducible apply Ends.inRim | with_reducible apply State.updPort_only | with_reducible apply Ends.finish | with_reducible apply Ends.next | with_reducible apply Only.ite | with_reducible apply Ends.ite | dsimp only | split | (with_reducible refine Only.fst (by with_reducible assumption) ?_) | (with_reducible refine Only.snd (by with_reducible assumption) ?_)

theorem execSwitchTimeout_only {K : List Part} {F : FieldId → Prop} {P : PlotId → Prop} {s0 : State} (f : FieldId) (n : PortId) (s : State) (hK : Fits (([.events, .out, .reg Reg.INJ_PT.ARM, .reg Reg.INJ_PT.DONE, .reg Reg.RTE_COMB_STAT.MERGED, .reg Reg.RTE_COMB_STAT.PEAK, .reg Reg.RTE_LINK_CNT.LOST, .reg Reg.RTE_LINK_CNT.NAKS, .reg Reg.RTE_LINK_CNT.PROTO_ERR, .reg Reg.RTE_LINK_CNT.REPLAYED, .reg Reg.RTE_LINK_CNT.RETRAINS, .reg Reg.RTE_LINK_CNT.TX_FLITS, .reg Reg.RTE_LINK_CREDIT.RES, .reg Reg.RTE_LINK_CREDIT.SHARED, .reg Reg.RTE_LINK_STATUS.PRESERVED, .reg Reg.RTE_LINK_STATUS.RESULT] : List Part) ++ ([.reg Reg.RTE_LINK_STATUS.STATE, .lastRaise, .ports, .router, .tally] : List Part)) K) (hF : F f)
    (ho : Only K F P s0 s) : Ends K F P s0 (execSwitchTimeout f n s) := by
  unfold execSwitchTimeout
  repeat' first | with_reducible assumption | exact Fits.trans (by decide +kernel) hK | exact hF | with_reducible apply Ends.inRim | with_reducible apply State.linkDesync_only | with_reducible apply Ends.finish | with_reducible apply Ends.next | with_reducible apply Only.ite | with_reducible apply Ends.ite | dsimp only | split | (with_reducible refine Only.fst (by with_reducible assumption) ?_) | (with_reducible refine Only.snd (by with_reducible assumption) ?_)

theorem execModeChangeResume_only {K : List Part} {F : FieldId → Prop} {P : PlotId → Prop} {s0 : State} (f : FieldId) (n : PortId) (flits : Bool) (s : State) (hK : Fits (([.events, .out, .reg Reg.HDL_PORT_STATUS.TX_MODE, .reg Reg.INJ_PT.ARM, .reg Reg.INJ_PT.DONE, .reg Reg.RTE_COMB_STAT.MERGED, .reg Reg.RTE_COMB_STAT.PEAK, .reg Reg.RTE_LINK_CNT.LOST, .reg Reg.RTE_LINK_CNT.NAKS, .reg Reg.RTE_LINK_CNT.REPLAYED, .reg Reg.RTE_LINK_CNT.RETRAINS, .reg Reg.RTE_LINK_CNT.TX_FLITS, .reg Reg.RTE_LINK_CREDIT.RES, .reg Reg.RTE_LINK_CREDIT.SHARED, .reg Reg.RTE_LINK_STATUS.PRESERVED, .reg Reg.RTE_LINK_STATUS.RESULT] : List Part) ++ ([.reg Reg.RTE_LINK_STATUS.STATE, .ports, .router, .tally] : List Part)) K) (hF : F f)
    (ho : Only K F P s0 s) : Ends K F P s0 (execModeChangeResume f n flits s) := by
  unfold execModeChangeResume
  repeat' first | with_reducible assumption | exact Fits.trans (by decide +kernel) hK | exact hF | with_reducible apply Ends.inRim | with_reducible apply State.txResume_only | with_reducible apply State.linkGo_only | with_reducible apply State.idleFor_only | with_reducible apply State.laneFlush_only | with_reducible apply State.updPort_only | with_reducible apply Ends.finish | with_reducible apply Ends.next | with_reducible apply Only.ite | with_reducible apply Ends.ite | dsimp only | split | (with_reducible refine Only.fst (by with_reducible assumption) ?_) | (with_reducible refine Only.snd (by with_reducible assumption) ?_)

theorem execCal_only {K : List Part} {F : FieldId → Prop} {P : PlotId → Prop} {s0 : State} (f : FieldId) (n : PortId) (w : Lambda) (ends : Bool) (s : State) (hK : Fits ([.ports] : List Part) K) (hF : F f)
    (ho : Only K F P s0 s) : Ends K F P s0 (execCal f n w ends s) := by
  unfold execCal
  repeat' first | with_reducible assumption | exact Fits.trans (by decide +kernel) hK | exact hF | with_reducible apply Ends.inRim | with_reducible apply State.setRx_only | with_reducible apply Ends.finish | with_reducible apply Ends.next | with_reducible apply Only.ite | with_reducible apply Ends.ite | dsimp only | split | (with_reducible refine Only.fst (by with_reducible assumption) ?_) | (with_reducible refine Only.snd (by with_reducible assumption) ?_)

theorem execCalDone_only {K : List Part} {F : FieldId → Prop} {P : PlotId → Prop} {s0 : State} (f : FieldId) (n : PortId) (w : Lambda) (confirmed : Bool) (s : State) (hK : Fits (([.events, .out, .reg Reg.HDL_CAL_STAT.ABORTED, .reg Reg.HDL_CAL_STAT.SLOTS, .reg Reg.HDL_PORT_STATUS.TX_MODE, .reg Reg.INJ_PT.ARM, .reg Reg.INJ_PT.DONE, .reg Reg.RTE_COMB_STAT.MERGED, .reg Reg.RTE_COMB_STAT.PEAK, .reg Reg.RTE_LINK_CNT.LOST, .reg Reg.RTE_LINK_CNT.NAKS, .reg Reg.RTE_LINK_CNT.REPLAYED, .reg Reg.RTE_LINK_CNT.RETRAINS, .reg Reg.RTE_LINK_CNT.TX_FLITS, .reg Reg.RTE_LINK_CREDIT.RES, .reg Reg.RTE_LINK_CREDIT.SHARED] : List Part) ++ ([.reg Reg.RTE_LINK_STATUS.PRESERVED, .reg Reg.RTE_LINK_STATUS.RESULT, .reg Reg.RTE_LINK_STATUS.STATE, .ports, .router, .health, .tally] : List Part)) K) (hF : F f)
    (ho : Only K F P s0 s) : Ends K F P s0 (execCalDone f n w confirmed s) := by
  unfold execCalDone
  repeat' first | with_reducible assumption | exact Fits.trans (by decide +kernel) hK | exact hF | with_reducible apply Ends.inRim | with_reducible apply State.retryDone_only | with_reducible apply State.calDone_only | with_reducible apply State.calFailed_only | with_reducible apply Ends.finish | with_reducible apply Ends.next | with_reducible apply Only.ite | with_reducible apply Ends.ite | dsimp only | split | (with_reducible refine Only.fst (by with_reducible assumption) ?_) | (with_reducible refine Only.snd (by with_reducible assumption) ?_)

theorem execLaneFailed_only {K : List Part} {F : FieldId → Prop} {P : PlotId → Prop} {s0 : State} (f : FieldId) (n : PortId) (w : Lambda) (reason : Fin 16) (s : State) (hK : Fits (([.events, .out, .reg Reg.HDL_CAL_STAT.ABORTED, .reg Reg.HDL_PORT_STATUS.TX_MODE, .reg Reg.INJ_PT.ARM, .reg Reg.INJ_PT.DONE, .reg Reg.RTE_COMB_STAT.MERGED, .reg Reg.RTE_COMB_STAT.PEAK, .reg Reg.RTE_LINK_CNT.LOST, .reg Reg.RTE_LINK_CNT.NAKS, .reg Reg.RTE_LINK_CNT.REPLAYED, .reg Reg.RTE_LINK_CNT.RETRAINS, .reg Reg.RTE_LINK_CNT.TX_FLITS, .reg Reg.RTE_LINK_CREDIT.RES, .reg Reg.RTE_LINK_CREDIT.SHARED, .reg Reg.RTE_LINK_STATUS.PRESERVED] : List Part) ++ ([.reg Reg.RTE_LINK_STATUS.RESULT, .reg Reg.RTE_LINK_STATUS.STATE, .ports, .router, .health, .tally] : List Part)) K) (hF : F f)
    (ho : Only K F P s0 s) : Ends K F P s0 (execLaneFailed f n w reason s) := by
  unfold execLaneFailed
  repeat' first | with_reducible assumption | exact Fits.trans (by decide +kernel) hK | exact hF | with_reducible apply Ends.inRim | with_reducible apply State.txFail_only | with_reducible apply Ends.finish | with_reducible apply Ends.next | with_reducible apply Only.ite | with_reducible apply Ends.ite | dsimp only | split | (with_reducible refine Only.fst (by with_reducible assumption) ?_) | (with_reducible refine Only.snd (by with_reducible assumption) ?_)

theorem State.lightPause_only {K : List Part} {F : FieldId → Prop} {P : PlotId → Prop} {s0 : State} (s : State) (f : FieldId) (n : PortId) (begins : Bool) (hK : Fits ([.reg Reg.HDL_PORT_STATUS.LIGHT_PAUSE, .ports] : List Part) K) (hF : F f)
    (ho : Only K F P s0 s) : Only K F P s0 (State.lightPause s f n begins) := by
  unfold State.lightPause
  repeat' first | with_reducible assumption | exact Fits.trans (by decide +kernel) hK | exact hF | with_reducible apply State.updPort_only | with_reducible apply State.fset_only | with_reducible apply Only.ite | dsimp only | split | (with_reducible refine Only.fst (by with_reducible assumption) ?_) | (with_reducible refine Only.snd (by with_reducible assumption) ?_)

theorem execLightPause_only {K : List Part} {F : FieldId → Prop} {P : PlotId → Prop} {s0 : State} (f : FieldId) (n : PortId) (begins : Bool) (s : State) (hK : Fits ([.reg Reg.HDL_PORT_STATUS.LIGHT_PAUSE, .ports] : List Part) K) (hF : F f)
    (ho : Only K F P s0 s) : Ends K F P s0 (execLightPause f n begins s) := by
  unfold execLightPause
  repeat' first | with_reducible assumption | exact Fits.trans (by decide +kernel) hK | exact hF | with_reducible apply Ends.inRim | with_reducible apply State.lightPause_only | with_reducible apply Ends.finish | with_reducible apply Ends.next | with_reducible apply Only.ite | with_reducible apply Ends.ite | dsimp only | split | (with_reducible refine Only.fst (by with_reducible assumption) ?_) | (with_reducible refine Only.snd (by with_reducible assumption) ?_)

theorem execLightPauseTimeout_only {K : List Part} {F : FieldId → Prop} {P : PlotId → Prop} {s0 : State} (f : FieldId) (n : PortId) (s : State) (hK : Fits ([.reg Reg.HDL_PORT_STATUS.LIGHT_PAUSE, .ports] : List Part) K) (hF : F f)
    (ho : Only K F P s0 s) : Ends K F P s0 (execLightPauseTimeout f n s) := by
  unfold execLightPauseTimeout
  repeat' first | with_reducible assumption | exact Fits.trans (by decide +kernel) hK | exact hF | with_reducible apply Ends.inRim | with_reducible apply State.lightPause_only | with_reducible apply Ends.finish | with_reducible apply Ends.next | with_reducible apply Only.ite | with_reducible apply Ends.ite | dsimp only | split | (with_reducible refine Only.fst (by with_reducible assumption) ?_) | (with_reducible refine Only.snd (by with_reducible assumption) ?_)

theorem State.powerReport_only {K : List Part} {F : FieldId → Prop} {P : PlotId → Prop} {s0 : State} (s : State) (f : FieldId) (n : PortId) (hK : Fits ([.events, .out, .reg Reg.INJ_PT.ARM, .reg Reg.INJ_PT.DONE, .reg Reg.RTE_COMB_STAT.MERGED, .reg Reg.RTE_COMB_STAT.PEAK, .reg Reg.RTE_LINK_CNT.NAKS, .reg Reg.RTE_LINK_CNT.REPLAYED, .reg Reg.RTE_LINK_CNT.TX_FLITS, .reg Reg.RTE_LINK_CREDIT.RES, .reg Reg.RTE_LINK_CREDIT.SHARED, .ports, .router, .tally] : List Part) K) (hF : F f)
    (ho : Only K F P s0 s) : Only K F P s0 (State.powerReport s f n) := by
  unfold State.powerReport
  repeat' first | with_reducible assumption | exact Fits.trans (by decide +kernel) hK | exact hF | with_reducible apply State.laneSend_only | with_reducible apply Only.ite | dsimp only | split | (with_reducible refine Only.foldl _ _ (fun t a ht => ?_) ?_) | (with_reducible refine Only.foldl_fst _ _ _ (fun t a ht => ?_) ?_) | (with_reducible refine Only.fst (by with_reducible assumption) ?_) | (with_reducible refine Only.snd (by with_reducible assumption) ?_)

theorem execLaneControlRepeat_only {K : List Part} {F : FieldId → Prop} {P : PlotId → Prop} {s0 : State} (f : FieldId) (n : PortId) (s : State) (hK : Fits ([.events, .out, .reg Reg.INJ_PT.ARM, .reg Reg.INJ_PT.DONE, .reg Reg.RTE_COMB_STAT.MERGED, .reg Reg.RTE_COMB_STAT.PEAK, .reg Reg.RTE_LINK_CNT.NAKS, .reg Reg.RTE_LINK_CNT.REPLAYED, .reg Reg.RTE_LINK_CNT.TX_FLITS, .reg Reg.RTE_LINK_CREDIT.RES, .reg Reg.RTE_LINK_CREDIT.SHARED, .ports, .router, .tally] : List Part) K) (hF : F f)
    (ho : Only K F P s0 s) : Ends K F P s0 (execLaneControlRepeat f n s) := by
  unfold execLaneControlRepeat
  repeat' first | with_reducible assumption | exact Fits.trans (by decide +kernel) hK | exact hF | with_reducible apply Ends.inRim | with_reducible apply State.laneSend_only | with_reducible apply State.powerReport_only | with_reducible apply Ends.finish | with_reducible apply Ends.next | with_reducible apply Only.ite | with_reducible apply Ends.ite | dsimp only | split | (with_reducible refine Only.foldl _ _ (fun t a ht => ?_) ?_) | (with_reducible refine Only.foldl_fst _ _ _ (fun t a ht => ?_) ?_) | (with_reducible refine Only.fst (by with_reducible assumption) ?_) | (with_reducible refine Only.snd (by with_reducible assumption) ?_)

theorem execBeacon_only {K : List Part} {F : FieldId → Prop} {P : PlotId → Prop} {s0 : State} (f : FieldId) (n : PortId) (part : Fin 4) (arg : Nat) (s : State) (hK : Fits (([.events, .out, .reg Reg.HDL_PORT_STATUS.RX_MODE, .reg Reg.HDL_PORT_STATUS.TX_MODE, .reg Reg.INJ_PT.ARM, .reg Reg.INJ_PT.DONE, .reg Reg.RTE_COMB_STAT.MERGED, .reg Reg.RTE_COMB_STAT.PEAK, .reg Reg.RTE_DISC_STATUS.OUTCOME, .reg Reg.RTE_DISC_STATUS.SEEN_NODE, .reg Reg.RTE_DISC_STATUS.SEEN_PORT, .reg Reg.RTE_DISC_STATUS.SEEN_SERIAL, .reg Reg.RTE_LINK_CNT.LOST, .reg Reg.RTE_LINK_CNT.NAKS, .reg Reg.RTE_LINK_CNT.REPLAYED, .reg Reg.RTE_LINK_CNT.RETRAINS] : List Part) ++ ([.reg Reg.RTE_LINK_CNT.TX_FLITS, .reg Reg.RTE_LINK_CREDIT.RES, .reg Reg.RTE_LINK_CREDIT.SHARED, .reg Reg.RTE_LINK_STATUS.PRESERVED, .reg Reg.RTE_LINK_STATUS.RESULT, .reg Reg.RTE_LINK_STATUS.STATE, .reg Reg.RTE_QUAL_RESULT.RX_PASS, .reg Reg.RTE_QUAL_RESULT.TX_PASS, .reg Reg.RTE_QUAL_RESULT.WORST, .reg Reg.RTE_QUAL_RESULT.WORST_E, .ports, .router, .tally] : List Part)) K) (hF : F f)
    (ho : Only K F P s0 s) : Ends K F P s0 (execBeacon f n part arg s) := by
  unfold execBeacon
  repeat' first | with_reducible assumption | exact Fits.trans (by decide +kernel) hK | exact hF | with_reducible apply Ends.inRim | with_reducible apply State.updPort_only | with_reducible apply State.beaconAccept_only | with_reducible apply Ends.finish | with_reducible apply Ends.next | with_reducible apply Only.ite | with_reducible apply Ends.ite | dsimp only | split | (with_reducible refine Only.fst (by with_reducible assumption) ?_) | (with_reducible refine Only.snd (by with_reducible assumption) ?_)

theorem execBeaconSend_only {K : List Part} {F : FieldId → Prop} {P : PlotId → Prop} {s0 : State} (f : FieldId) (n : PortId) (s : State) (hK : Fits ([.events, .out, .reg Reg.INJ_PT.ARM, .reg Reg.INJ_PT.DONE, .reg Reg.RTE_COMB_STAT.MERGED, .reg Reg.RTE_COMB_STAT.PEAK, .reg Reg.RTE_LINK_CNT.NAKS, .reg Reg.RTE_LINK_CNT.REPLAYED, .reg Reg.RTE_LINK_CNT.TX_FLITS, .reg Reg.RTE_LINK_CREDIT.RES, .reg Reg.RTE_LINK_CREDIT.SHARED, .ports, .router, .tally] : List Part) K) (hF : F f)
    (ho : Only K F P s0 s) : Ends K F P s0 (execBeaconSend f n s) := by
  unfold execBeaconSend
  repeat' first | with_reducible assumption | exact Fits.trans (by decide +kernel) hK | exact hF | with_reducible apply Ends.inRim | with_reducible apply State.injFire_only | with_reducible apply State.laneSend_only | with_reducible apply Ends.finish | with_reducible apply Ends.next | with_reducible apply Only.ite | with_reducible apply Ends.ite | dsimp only | split | (with_reducible refine Only.fst (by with_reducible assumption) ?_) | (with_reducible refine Only.snd (by with_reducible assumption) ?_)

theorem execTrain_only {K : List Part} {F : FieldId → Prop} {P : PlotId → Prop} {s0 : State} (f : FieldId) (n : PortId) (farState : Fin 16) (ready : Bool) (lastSeq : Nat) (s : State) (hK : Fits (([.events, .out, .reg Reg.HDL_PORT_STATUS.TX_MODE, .reg Reg.INJ_PT.ARM, .reg Reg.INJ_PT.DONE, .reg Reg.RTE_COMB_STAT.MERGED, .reg Reg.RTE_COMB_STAT.PEAK, .reg Reg.RTE_LINK_CNT.LOST, .reg Reg.RTE_LINK_CNT.NAKS, .reg Reg.RTE_LINK_CNT.REPLAYED, .reg Reg.RTE_LINK_CNT.RETRAINS, .reg Reg.RTE_LINK_CNT.TX_FLITS, .reg Reg.RTE_LINK_CREDIT.RES, .reg Reg.RTE_LINK_CREDIT.SHARED, .reg Reg.RTE_LINK_STATUS.FAR_READY, .reg Reg.RTE_LINK_STATUS.PRESERVED] : List Part) ++ ([.reg Reg.RTE_LINK_STATUS.RESULT, .reg Reg.RTE_LINK_STATUS.STATE, .ports, .router, .tally] : List Part)) K) (hF : F f)
    (ho : Only K F P s0 s) : Ends K F P s0 (execTrain f n farState ready lastSeq s) := by
  unfold execTrain
  repeat' first | with_reducible assumption | exact Fits.trans (by decide +kernel) hK | exact hF | with_reducible apply Ends.inRim | with_reducible apply State.updPort_only | with_reducible apply State.fset_only | with_reducible apply State.linkSet_only | with_reducible apply State.linkDown_only | with_reducible apply State.linkGo_only | with_reducible apply Ends.finish | with_reducible apply Ends.next | with_reducible apply Only.ite | with_reducible apply Ends.ite | dsimp only | split | (with_reducible refine Only.fst (by with_reducible assumption) ?_) | (with_reducible refine Only.snd (by with_reducible assumption) ?_)

theorem State.qualFail_only {K : List Part} {F : FieldId → Prop} {P : PlotId → Prop} {s0 : State} (s : State) (f : FieldId) (n : PortId) (rx : Bool) (w : Nat) (hK : Fits ([.events, .ports, .health] : List Part) K) (hF : F f)
    (ho : Only K F P s0 s) : Only K F P s0 (State.qualFail s f n rx w) := by
  unfold State.qualFail
  repeat' first | with_reducible assumption | exact Fits.trans (by decide +kernel) hK | exact hF | with_reducible apply State.setRx_only | with_reducible apply State.setTx_only | with_reducible apply State.laneInjected_only | with_reducible apply State.raise_only | with_reducible apply Only.ite | dsimp only | split | (with_reducible refine Only.fst (by with_reducible assumption) ?_) | (with_reducible refine Only.snd (by with_reducible assumption) ?_)

theorem State.fecCount_only {K : List Part} {F : FieldId → Prop} {P : PlotId → Prop} {s0 : State} (s : State) (f : FieldId) (n : PortId) (w corrected uncorrectable : Nat) (hK : Fits ([.reg Reg.RTE_LANE_FEC.CORR, .reg Reg.RTE_LANE_FEC.UNCORR] : List Part) K) (hF : F f)
    (ho : Only K F P s0 s) : Only K F P s0 (State.fecCount s f n w corrected uncorrectable) := by
  unfold State.fecCount
  repeat' first | with_reducible assumption | exact Fits.trans (by decide +kernel) hK | exact hF | with_reducible apply State.fcount_only | with_reducible apply State.fwrap_only | with_reducible apply Only.ite | dsimp only | split | (with_reducible refine Only.fst (by with_reducible assumption) ?_) | (with_reducible refine Only.snd (by with_reducible assumption) ?_)

theorem State.qualCount_only {K : List Part} {F : FieldId → Prop} {P : PlotId → Prop} {s0 : State} (s : State) (f : FieldId) (n : PortId) (w lineBits e u : Nat) (hK : Fits ([.ports] : List Part) K) (hF : F f)
    (ho : Only K F P s0 s) : Only K F P s0 (State.qualCount s f n w lineBits e u) := by
  unfold State.qualCount
  repeat' first | with_reducible assumption | exact Fits.trans (by decide +kernel) hK | exact hF | with_reducible apply State.updPort_only | with_reducible apply Only.ite | dsimp only | split | (with_reducible refine Only.fst (by with_reducible assumption) ?_) | (with_reducible refine Only.snd (by with_reducible assumption) ?_)

theorem State.qualWave_only {K : List Part} {F : FieldId → Prop} {P : PlotId → Prop} {s0 : State} (s : State) (f : FieldId) (n : PortId) (w : Nat) (hK : Fits (([.events, .out, .reg Reg.HDL_PORT_STATUS.TX_MODE, .reg Reg.INJ_PT.ARM, .reg Reg.INJ_PT.DONE, .reg Reg.RTE_COMB_STAT.MERGED, .reg Reg.RTE_COMB_STAT.PEAK, .reg Reg.RTE_LINK_CNT.LOST, .reg Reg.RTE_LINK_CNT.NAKS, .reg Reg.RTE_LINK_CNT.REPLAYED, .reg Reg.RTE_LINK_CNT.RETRAINS, .reg Reg.RTE_LINK_CNT.TX_FLITS, .reg Reg.RTE_LINK_CREDIT.RES, .reg Reg.RTE_LINK_CREDIT.SHARED, .reg Reg.RTE_LINK_STATUS.PRESERVED, .reg Reg.RTE_LINK_STATUS.RESULT] : List Part) ++ ([.reg Reg.RTE_LINK_STATUS.STATE, .reg Reg.RTE_QUAL_RESULT.RX_PASS, .reg Reg.RTE_QUAL_RESULT.TX_PASS, .reg Reg.RTE_QUAL_RESULT.WORST, .reg Reg.RTE_QUAL_RESULT.WORST_E, .ports, .router, .health, .tally] : List Part)) K) (hF : F f)
    (ho : Only K F P s0 s) : Only K F P s0 (State.qualWave s f n w) := by
  unfold State.qualWave
  repeat' first | with_reducible assumption | exact Fits.trans (by decide +kernel) hK | exact hF | with_reducible apply State.updPort_only | with_reducible apply State.qualFail_only | with_reducible apply State.qualReport_only | with_reducible apply Only.ite | dsimp only | split | (with_reducible refine Only.fst (by with_reducible assumption) ?_) | (with_reducible refine Only.snd (by with_reducible assumption) ?_)

theorem execQualifyEnd_only {K : List Part} {F : FieldId → Prop} {P : PlotId → Prop} {s0 : State} (f : FieldId) (n : PortId) (w : Lambda) (lineBits corrected uncorrectable : Nat) (s : State) (hK : Fits (([.events, .out, .reg Reg.HDL_PORT_STATUS.TX_MODE, .reg Reg.INJ_PT.ARM, .reg Reg.INJ_PT.DONE, .reg Reg.RTE_COMB_STAT.MERGED, .reg Reg.RTE_COMB_STAT.PEAK, .reg Reg.RTE_LANE_FEC.CORR, .reg Reg.RTE_LANE_FEC.UNCORR, .reg Reg.RTE_LINK_CNT.LOST, .reg Reg.RTE_LINK_CNT.NAKS, .reg Reg.RTE_LINK_CNT.REPLAYED, .reg Reg.RTE_LINK_CNT.RETRAINS, .reg Reg.RTE_LINK_CNT.TX_FLITS, .reg Reg.RTE_LINK_CREDIT.RES, .reg Reg.RTE_LINK_CREDIT.SHARED] : List Part) ++ ([.reg Reg.RTE_LINK_STATUS.PRESERVED, .reg Reg.RTE_LINK_STATUS.RESULT, .reg Reg.RTE_LINK_STATUS.STATE, .reg Reg.RTE_QUAL_RESULT.RX_PASS, .reg Reg.RTE_QUAL_RESULT.TX_PASS, .reg Reg.RTE_QUAL_RESULT.WORST, .reg Reg.RTE_QUAL_RESULT.WORST_E, .ports, .router, .health, .tally] : List Part)) K) (hF : F f)
    (ho : Only K F P s0 s) : Ends K F P s0 (execQualifyEnd f n w lineBits corrected uncorrectable s) := by
  unfold execQualifyEnd
  repeat' first | with_reducible assumption | exact Fits.trans (by decide +kernel) hK | exact hF | with_reducible apply Ends.inRim | with_reducible apply State.qualWave_only | with_reducible apply State.qualCount_only | with_reducible apply State.fecCount_only | with_reducible apply Ends.finish | with_reducible apply Ends.next | with_reducible apply Only.ite | with_reducible apply Ends.ite | dsimp only | split | (with_reducible refine Only.fst (by with_reducible assumption) ?_) | (with_reducible refine Only.snd (by with_reducible assumption) ?_)

theorem execQualResult_only {K : List Part} {F : FieldId → Prop} {P : PlotId → Prop} {s0 : State} (f : FieldId) (n : PortId) (mask : Nat) (s : State) (hK : Fits (([.events, .out, .reg Reg.HDL_PORT_STATUS.TX_MODE, .reg Reg.INJ_PT.ARM, .reg Reg.INJ_PT.DONE, .reg Reg.RTE_COMB_STAT.MERGED, .reg Reg.RTE_COMB_STAT.PEAK, .reg Reg.RTE_LINK_CNT.LOST, .reg Reg.RTE_LINK_CNT.NAKS, .reg Reg.RTE_LINK_CNT.REPLAYED, .reg Reg.RTE_LINK_CNT.RETRAINS, .reg Reg.RTE_LINK_CNT.TX_FLITS, .reg Reg.RTE_LINK_CREDIT.RES, .reg Reg.RTE_LINK_CREDIT.SHARED, .reg Reg.RTE_LINK_STATUS.PRESERVED, .reg Reg.RTE_LINK_STATUS.RESULT] : List Part) ++ ([.reg Reg.RTE_LINK_STATUS.STATE, .reg Reg.RTE_QUAL_RESULT.RX_PASS, .reg Reg.RTE_QUAL_RESULT.TX_PASS, .reg Reg.RTE_QUAL_RESULT.WORST, .reg Reg.RTE_QUAL_RESULT.WORST_E, .ports, .router, .health, .tally] : List Part)) K) (hF : F f)
    (ho : Only K F P s0 s) : Ends K F P s0 (execQualResult f n mask s) := by
  unfold execQualResult
  repeat' first | with_reducible assumption | exact Fits.trans (by decide +kernel) hK | exact hF | with_reducible apply Ends.inRim | with_reducible apply State.updPort_only | with_reducible apply State.qualFail_only | with_reducible apply State.qualDecide_only | with_reducible apply Ends.finish | with_reducible apply Ends.next | with_reducible apply Only.ite | with_reducible apply Ends.ite | dsimp only | split | (with_reducible refine Only.foldl _ _ (fun t a ht => ?_) ?_) | (with_reducible refine Only.foldl_fst _ _ _ (fun t a ht => ?_) ?_) | (with_reducible refine Only.fst (by with_reducible assumption) ?_) | (with_reducible refine Only.snd (by with_reducible assumption) ?_)

theorem execRetrain_only {K : List Part} {F : FieldId → Prop} {P : PlotId → Prop} {s0 : State} (f : FieldId) (n : PortId) (s : State) (hK : Fits (([.events, .out, .reg Reg.INJ_PT.ARM, .reg Reg.INJ_PT.DONE, .reg Reg.RTE_COMB_STAT.MERGED, .reg Reg.RTE_COMB_STAT.PEAK, .reg Reg.RTE_LINK_CNT.LOST, .reg Reg.RTE_LINK_CNT.NAKS, .reg Reg.RTE_LINK_CNT.REPLAYED, .reg Reg.RTE_LINK_CNT.RETRAINS, .reg Reg.RTE_LINK_CNT.TX_FLITS, .reg Reg.RTE_LINK_CREDIT.RES, .reg Reg.RTE_LINK_CREDIT.SHARED, .reg Reg.RTE_LINK_STATUS.PRESERVED, .reg Reg.RTE_LINK_STATUS.RESULT, .reg Reg.RTE_LINK_STATUS.STATE] : List Part) ++ ([.ports, .router, .tally] : List Part)) K) (hF : F f)
    (ho : Only K F P s0 s) : Ends K F P s0 (execRetrain f n s) := by
  unfold execRetrain
  repeat' first | with_reducible assumption | exact Fits.trans (by decide +kernel) hK | exact hF | with_reducible apply Ends.inRim | with_reducible apply State.linkRetrain_only | with_reducible apply Ends.finish | with_reducible apply Ends.next | with_reducible apply Only.ite | with_reducible apply Ends.ite | dsimp only | split | (with_reducible refine Only.fst (by with_reducible assumption) ?_) | (with_reducible refine Only.snd (by with_reducible assumption) ?_)

theorem execRetrainTimeout_only {K : List Part} {F : FieldId → Prop} {P : PlotId → Prop} {s0 : State} (f : FieldId) (n : PortId) (s : State) (hK : Fits (([.events, .out, .reg Reg.INJ_PT.ARM, .reg Reg.INJ_PT.DONE, .reg Reg.RTE_COMB_STAT.MERGED, .reg Reg.RTE_COMB_STAT.PEAK, .reg Reg.RTE_LINK_CNT.LOST, .reg Reg.RTE_LINK_CNT.NAKS, .reg Reg.RTE_LINK_CNT.REPLAYED, .reg Reg.RTE_LINK_CNT.TX_FLITS, .reg Reg.RTE_LINK_CREDIT.RES, .reg Reg.RTE_LINK_CREDIT.SHARED, .reg Reg.RTE_LINK_STATUS.PRESERVED, .reg Reg.RTE_LINK_STATUS.RESULT, .reg Reg.RTE_LINK_STATUS.STATE, .ports] : List Part) ++ ([.router, .tally] : List Part)) K) (hF : F f)
    (ho : Only K F P s0 s) : Ends K F P s0 (execRetrainTimeout f n s) := by
  unfold execRetrainTimeout
  repeat' first | with_reducible assumption | exact Fits.trans (by decide +kernel) hK | exact hF | with_reducible apply Ends.inRim | with_reducible apply State.linkSet_only | with_reducible apply State.updPort_only | with_reducible apply State.linkDown_only | with_reducible apply Ends.finish | with_reducible apply Ends.next | with_reducible apply Only.ite | with_reducible apply Ends.ite | dsimp only | split | (with_reducible refine Only.fst (by with_reducible assumption) ?_) | (with_reducible refine Only.snd (by with_reducible assumption) ?_)

theorem State.linkDisable_only {K : List Part} {F : FieldId → Prop} {P : PlotId → Prop} {s0 : State} (s : State) (f : FieldId) (n : PortId) (hK : Fits (([.events, .out, .reg Reg.INJ_PT.ARM, .reg Reg.INJ_PT.DONE, .reg Reg.RTE_COMB_STAT.MERGED, .reg Reg.RTE_COMB_STAT.PEAK, .reg Reg.RTE_LINK_CNT.LOST, .reg Reg.RTE_LINK_CNT.NAKS, .reg Reg.RTE_LINK_CNT.REPLAYED, .reg Reg.RTE_LINK_CNT.TX_FLITS, .reg Reg.RTE_LINK_CREDIT.RES, .reg Reg.RTE_LINK_CREDIT.SHARED, .reg Reg.RTE_LINK_CTL.ENABLE, .reg Reg.RTE_LINK_STATUS.PRESERVED, .reg Reg.RTE_LINK_STATUS.RESULT, .reg Reg.RTE_LINK_STATUS.STATE] : List Part) ++ ([.ports, .router, .tally] : List Part)) K) (hF : F f)
    (ho : Only K F P s0 s) : Only K F P s0 (State.linkDisable s f n) := by
  unfold State.linkDisable
  repeat' first | with_reducible assumption | exact Fits.trans (by decide +kernel) hK | exact hF | with_reducible apply State.fset_only | with_reducible apply State.linkDown_only | with_reducible apply State.linkSet_only | with_reducible apply State.updPort_only | with_reducible apply Only.ite | dsimp only | split | (with_reducible refine Only.fst (by with_reducible assumption) ?_) | (with_reducible refine Only.snd (by with_reducible assumption) ?_)

theorem execLinkEnableClear_only {K : List Part} {F : FieldId → Prop} {P : PlotId → Prop} {s0 : State} (f : FieldId) (n : PortId) (s : State) (hK : Fits (([.events, .out, .reg Reg.INJ_PT.ARM, .reg Reg.INJ_PT.DONE, .reg Reg.RTE_COMB_STAT.MERGED, .reg Reg.RTE_COMB_STAT.PEAK, .reg Reg.RTE_LINK_CNT.LOST, .reg Reg.RTE_LINK_CNT.NAKS, .reg Reg.RTE_LINK_CNT.REPLAYED, .reg Reg.RTE_LINK_CNT.TX_FLITS, .reg Reg.RTE_LINK_CREDIT.RES, .reg Reg.RTE_LINK_CREDIT.SHARED, .reg Reg.RTE_LINK_CTL.ENABLE, .reg Reg.RTE_LINK_STATUS.PRESERVED, .reg Reg.RTE_LINK_STATUS.RESULT, .reg Reg.RTE_LINK_STATUS.STATE] : List Part) ++ ([.ports, .router, .tally] : List Part)) K) (hF : F f)
    (ho : Only K F P s0 s) : Ends K F P s0 (execLinkEnableClear f n s) := by
  unfold execLinkEnableClear
  repeat' first | with_reducible assumption | exact Fits.trans (by decide +kernel) hK | exact hF | with_reducible apply Ends.inRim | with_reducible apply State.linkDisable_only | with_reducible apply Ends.finish | with_reducible apply Ends.next | with_reducible apply Only.ite | with_reducible apply Ends.ite | dsimp only | split | (with_reducible refine Only.fst (by with_reducible assumption) ?_) | (with_reducible refine Only.snd (by with_reducible assumption) ?_)

theorem State.linkRetry_only {K : List Part} {F : FieldId → Prop} {P : PlotId → Prop} {s0 : State} (s : State) (f : FieldId) (n : PortId) (hK : Fits (([.events, .out, .reg Reg.INJ_PT.ARM, .reg Reg.INJ_PT.DONE, .reg Reg.RTE_COMB_STAT.MERGED, .reg Reg.RTE_COMB_STAT.PEAK, .reg Reg.RTE_LINK_CNT.LOST, .reg Reg.RTE_LINK_CNT.NAKS, .reg Reg.RTE_LINK_CNT.REPLAYED, .reg Reg.RTE_LINK_CNT.RETRAINS, .reg Reg.RTE_LINK_CNT.TX_FLITS, .reg Reg.RTE_LINK_CREDIT.RES, .reg Reg.RTE_LINK_CREDIT.SHARED, .reg Reg.RTE_LINK_STATUS.PRESERVED, .reg Reg.RTE_LINK_STATUS.RESULT, .reg Reg.RTE_LINK_STATUS.STATE] : List Part) ++ ([.ports, .router, .tally] : List Part)) K) (hF : F f)
    (ho : Only K F P s0 s) : Only K F P s0 (State.linkRetry s f n) := by
  unfold State.linkRetry
  repeat' first | with_reducible assumption | exact Fits.trans (by decide +kernel) hK | exact hF | with_reducible apply State.linkLock_only | with_reducible apply State.linkRetrain_only | with_reducible apply Only.ite | dsimp only | split | (with_reducible refine Only.fst (by with_reducible assumption) ?_) | (with_reducible refine Only.snd (by with_reducible assumption) ?_)

theorem execLinkRetry_only {K : List Part} {F : FieldId → Prop} {P : PlotId → Prop} {s0 : State} (f : FieldId) (n : PortId) (s : State) (hK : Fits (([.events, .out, .reg Reg.INJ_PT.ARM, .reg Reg.INJ_PT.DONE, .reg Reg.RTE_COMB_STAT.MERGED, .reg Reg.RTE_COMB_STAT.PEAK, .reg Reg.RTE_LINK_CNT.LOST, .reg Reg.RTE_LINK_CNT.NAKS, .reg Reg.RTE_LINK_CNT.REPLAYED, .reg Reg.RTE_LINK_CNT.RETRAINS, .reg Reg.RTE_LINK_CNT.TX_FLITS, .reg Reg.RTE_LINK_CREDIT.RES, .reg Reg.RTE_LINK_CREDIT.SHARED, .reg Reg.RTE_LINK_STATUS.PRESERVED, .reg Reg.RTE_LINK_STATUS.RESULT, .reg Reg.RTE_LINK_STATUS.STATE] : List Part) ++ ([.ports, .router, .tally] : List Part)) K) (hF : F f)
    (ho : Only K F P s0 s) : Ends K F P s0 (execLinkRetry f n s) := by
  unfold execLinkRetry
  repeat' first | with_reducible assumption | exact Fits.trans (by decide +kernel) hK | exact hF | with_reducible apply Ends.inRim | with_reducible apply State.linkRetry_only | with_reducible apply Ends.finish | with_reducible apply Ends.next | with_reducible apply Only.ite | with_reducible apply Ends.ite | dsimp only | split | (with_reducible refine Only.fst (by with_reducible assumption) ?_) | (with_reducible refine Only.snd (by with_reducible assumption) ?_)

theorem State.creditIn_only {K : List Part} {F : FieldId → Prop} {P : PlotId → Prop} {s0 : State} (s : State) (f : FieldId) (n : PortId) (x : Flit) (hK : Fits ([.reg Reg.RTE_LINK_CREDIT.RES, .reg Reg.RTE_LINK_CREDIT.SHARED, .ports] : List Part) K) (hF : F f)
    (ho : Only K F P s0 s) : Only K F P s0 (State.creditIn s f n x) := by
  unfold State.creditIn
  repeat' first | with_reducible assumption | exact Fits.trans (by decide +kernel) hK | exact hF | with_reducible apply State.updPort_only | with_reducible apply State.fset_only | with_reducible apply Only.ite | dsimp only | split | (with_reducible refine Only.fst (by with_reducible assumption) ?_) | (with_reducible refine Only.snd (by with_reducible assumption) ?_)

theorem State.nakCall_only {K : List Part} {F : FieldId → Prop} {P : PlotId → Prop} {s0 : State} (s : State) (f : FieldId) (n : PortId) (hK : Fits ([.ports] : List Part) K) (hF : F f)
    (ho : Only K F P s0 s) : Only K F P s0 (State.nakCall s f n) := by
  unfold State.nakCall
  repeat' first | with_reducible assumption | exact Fits.trans (by decide +kernel) hK | exact hF | with_reducible apply State.updPort_only | with_reducible apply Only.ite | dsimp only | split | (with_reducible refine Only.fst (by with_reducible assumption) ?_) | (with_reducible refine Only.snd (by with_reducible assumption) ?_)

theorem State.flitControl_only {K : List Part} {F : FieldId → Prop} {P : PlotId → Prop} {s0 : State} (s : State) (f : FieldId) (n : PortId) (x : Flit) (hK : Fits ([.reg Reg.RTE_LINK_CREDIT.RES, .reg Reg.RTE_LINK_CREDIT.SHARED, .ports] : List Part) K) (hF : F f)
    (ho : Only K F P s0 s) : Only K F P s0 (State.flitControl s f n x) := by
  unfold State.flitControl
  repeat' first | with_reducible assumption | exact Fits.trans (by decide +kernel) hK | exact hF | with_reducible apply State.creditIn_only | with_reducible apply State.updPort_only | with_reducible apply Only.ite | dsimp only | split | (with_reducible refine Only.fst (by with_reducible assumption) ?_) | (with_reducible refine Only.snd (by with_reducible assumption) ?_)

theorem State.flitBad_only {K : List Part} {F : FieldId → Prop} {P : PlotId → Prop} {s0 : State} (s : State) (f : FieldId) (n : PortId) (hK : Fits ([.reg Reg.RTE_LINK_CNT.CRC_ERR, .ports] : List Part) K) (hF : F f)
    (ho : Only K F P s0 s) : Only K F P s0 (State.flitBad s f n) := by
  unfold State.flitBad
  repeat' first | with_reducible assumption | exact Fits.trans (by decide +kernel) hK | exact hF | with_reducible apply State.nakCall_only | with_reducible apply State.fwrap_only | with_reducible apply Only.ite | dsimp only | split | (with_reducible refine Only.fst (by with_reducible assumption) ?_) | (with_reducible refine Only.snd (by with_reducible assumption) ?_)

theorem State.flitAccept_only {K : List Part} {F : FieldId → Prop} {P : PlotId → Prop} {s0 : State} (s : State) (f : FieldId) (n : PortId) (x : Flit) (hK : Fits ([.reg Reg.RTE_LINK_CNT.RX_FLITS, .ports] : List Part) K) (hF : F f)
    (ho : Only K F P s0 s) : Only K F P s0 (State.flitAccept s f n x) := by
  unfold State.flitAccept
  repeat' first | with_reducible assumption | exact Fits.trans (by decide +kernel) hK | exact hF | with_reducible apply State.updPort_only | with_reducible apply State.fwrap_only | with_reducible apply Only.ite | dsimp only | split | (with_reducible refine Only.fst (by with_reducible assumption) ?_) | (with_reducible refine Only.snd (by with_reducible assumption) ?_)

theorem execDataFlit_only {K : List Part} {F : FieldId → Prop} {P : PlotId → Prop} {s0 : State} (f : FieldId) (n : PortId) (ty : Fin 8) (flit : Flit) (s : State) (hK : Fits ([.events, .reg Reg.RTE_LINK_CNT.CRC_ERR, .reg Reg.RTE_LINK_CNT.PROTO_ERR, .reg Reg.RTE_LINK_CNT.RX_FLITS, .reg Reg.RTE_LINK_CREDIT.RES, .reg Reg.RTE_LINK_CREDIT.SHARED, .lastRaise, .ports] : List Part) K) (hF : F f)
    (ho : Only K F P s0 s) : Ends K F P s0 (execDataFlit f n ty flit s) := by
  unfold execDataFlit
  repeat' first | with_reducible assumption | exact Fits.trans (by decide +kernel) hK | exact hF | with_reducible apply Ends.inRim | with_reducible apply State.flitBad_only | with_reducible apply State.nakCall_only | with_reducible apply State.protoErr_only | with_reducible apply State.flitAccept_only | with_reducible apply State.flitControl_only | with_reducible apply Ends.finish | with_reducible apply Ends.next | with_reducible apply Only.ite | with_reducible apply Ends.ite | dsimp only | split | (with_reducible refine Only.fst (by with_reducible assumption) ?_) | (with_reducible refine Only.snd (by with_reducible assumption) ?_)

theorem execIdleFlit_only {K : List Part} {F : FieldId → Prop} {P : PlotId → Prop} {s0 : State} (f : FieldId) (n : PortId) (flit : Flit) (s : State) (hK : Fits ([.events, .reg Reg.RTE_LINK_CNT.CRC_ERR, .reg Reg.RTE_LINK_CNT.PROTO_ERR, .reg Reg.RTE_LINK_CREDIT.RES, .reg Reg.RTE_LINK_CREDIT.SHARED, .lastRaise, .ports] : List Part) K) (hF : F f)
    (ho : Only K F P s0 s) : Ends K F P s0 (execIdleFlit f n flit s) := by
  unfold execIdleFlit
  repeat' first | with_reducible assumption | exact Fits.trans (by decide +kernel) hK | exact hF | with_reducible apply Ends.inRim | with_reducible apply State.flitBad_only | with_reducible apply State.nakCall_only | with_reducible apply State.protoErr_only | with_reducible apply State.flitControl_only | with_reducible apply Ends.finish | with_reducible apply Ends.next | with_reducible apply Only.ite | with_reducible apply Ends.ite | dsimp only | split | (with_reducible refine Only.fst (by with_reducible assumption) ?_) | (with_reducible refine Only.snd (by with_reducible assumption) ?_)

theorem execNakFlit_only {K : List Part} {F : FieldId → Prop} {P : PlotId → Prop} {s0 : State} (f : FieldId) (n : PortId) (flit : Flit) (s : State) (hK : Fits ([.events, .reg Reg.RTE_LINK_CNT.CRC_ERR, .reg Reg.RTE_LINK_CNT.PROTO_ERR, .reg Reg.RTE_LINK_CREDIT.RES, .reg Reg.RTE_LINK_CREDIT.SHARED, .lastRaise, .ports] : List Part) K) (hF : F f)
    (ho : Only K F P s0 s) : Ends K F P s0 (execNakFlit f n flit s) := by
  unfold execNakFlit
  repeat' first | with_reducible assumption | exact Fits.trans (by decide +kernel) hK | exact hF | with_reducible apply Ends.inRim | with_reducible apply State.flitBad_only | with_reducible apply State.nakCall_only | with_reducible apply State.protoErr_only | with_reducible apply State.updPort_only | with_reducible apply State.flitControl_only | with_reducible apply Ends.finish | with_reducible apply Ends.next | with_reducible apply Only.ite | with_reducible apply Ends.ite | dsimp only | split | (with_reducible refine Only.fst (by with_reducible assumption) ?_) | (with_reducible refine Only.snd (by with_reducible assumption) ?_)

theorem execReplayTimeout_only {K : List Part} {F : FieldId → Prop} {P : PlotId → Prop} {s0 : State} (f : FieldId) (n : PortId) (seq : Nat) (s : State) (hK : Fits ([.ports] : List Part) K) (hF : F f)
    (ho : Only K F P s0 s) : Ends K F P s0 (execReplayTimeout f n seq s) := by
  unfold execReplayTimeout
  repeat' first | with_reducible assumption | exact Fits.trans (by decide +kernel) hK | exact hF | with_reducible apply Ends.inRim | with_reducible apply State.updPort_only | with_reducible apply Ends.finish | with_reducible apply Ends.next | with_reducible apply Only.ite | with_reducible apply Ends.ite | dsimp only | split | (with_reducible refine Only.fst (by with_reducible assumption) ?_) | (with_reducible refine Only.snd (by with_reducible assumption) ?_)

theorem State.portFlit_only {K : List Part} {F : FieldId → Prop} {P : PlotId → Prop} {s0 : State} (s : State) (f : FieldId) (n : PortId) (hK : Fits (([.events, .out, .reg Reg.INJ_PT.ARM, .reg Reg.INJ_PT.DONE, .reg Reg.RTE_COMB_STAT.MERGED, .reg Reg.RTE_COMB_STAT.PEAK, .reg Reg.RTE_LINK_CNT.LOST, .reg Reg.RTE_LINK_CNT.NAKS, .reg Reg.RTE_LINK_CNT.REPLAYED, .reg Reg.RTE_LINK_CNT.RETRAINS, .reg Reg.RTE_LINK_CNT.TX_FLITS, .reg Reg.RTE_LINK_CREDIT.RES, .reg Reg.RTE_LINK_CREDIT.SHARED, .reg Reg.RTE_LINK_STATUS.PRESERVED, .reg Reg.RTE_LINK_STATUS.RESULT, .reg Reg.RTE_LINK_STATUS.STATE] : List Part) ++ ([.ports, .router, .tally] : List Part)) K) (hF : F f)
    (ho : Only K F P s0 s) : Only K F P s0 (State.portFlit s f n) := by
  unfold State.portFlit
  repeat' first | with_reducible assumption | exact Fits.trans (by decide +kernel) hK | exact hF | with_reducible apply State.linkRetrain_only | with_reducible apply State.flitOf_only | with_reducible apply State.streamFlit_only | with_reducible apply Only.ite | dsimp only | split | (with_reducible refine Only.fst (by with_reducible assumption) ?_) | (with_reducible refine Only.snd (by with_reducible assumption) ?_)

theorem execMissingTimeout_only {K : List Part} {F : FieldId → Prop} {P : PlotId → Prop} {s0 : State} (f : FieldId) (n : PortId) (s : State) (hK : Fits ([.events, .reg Reg.RTE_DISC_STATUS.OUTCOME] : List Part) K) (hF : F f)
    (ho : Only K F P s0 s) : Ends K F P s0 (execMissingTimeout f n s) := by
  unfold execMissingTimeout
  repeat' first | with_reducible assumption | exact Fits.trans (by decide +kernel) hK | exact hF | with_reducible apply Ends.inRim | with_reducible apply State.setOutcome_only | with_reducible apply Ends.finish | with_reducible apply Ends.next | with_reducible apply Only.ite | with_reducible apply Ends.ite | dsimp only | split | (with_reducible refine Only.fst (by with_reducible assumption) ?_) | (with_reducible refine Only.snd (by with_reducible assumption) ?_)

theorem State.discApprove_only {K : List Part} {F : FieldId → Prop} {P : PlotId → Prop} {s0 : State} (s : State) (f : FieldId) (n : PortId) (hK : Fits (([.events, .out, .reg Reg.HDL_PORT_STATUS.RX_MODE, .reg Reg.HDL_PORT_STATUS.TX_MODE, .reg Reg.INJ_PT.ARM, .reg Reg.INJ_PT.DONE, .reg Reg.RTE_COMB_STAT.MERGED, .reg Reg.RTE_COMB_STAT.PEAK, .reg Reg.RTE_DISC_STATUS.REFUSED, .reg Reg.RTE_LINK_CNT.LOST, .reg Reg.RTE_LINK_CNT.NAKS, .reg Reg.RTE_LINK_CNT.REPLAYED, .reg Reg.RTE_LINK_CNT.RETRAINS, .reg Reg.RTE_LINK_CNT.TX_FLITS, .reg Reg.RTE_LINK_CREDIT.RES, .reg Reg.RTE_LINK_CREDIT.SHARED] : List Part) ++ ([.reg Reg.RTE_LINK_STATUS.PRESERVED, .reg Reg.RTE_LINK_STATUS.RESULT, .reg Reg.RTE_LINK_STATUS.STATE, .reg Reg.RTE_QUAL_RESULT.RX_PASS, .reg Reg.RTE_QUAL_RESULT.TX_PASS, .reg Reg.RTE_QUAL_RESULT.WORST, .reg Reg.RTE_QUAL_RESULT.WORST_E, .ports, .router, .tally] : List Part)) K) (hF : F f)
    (ho : Only K F P s0 s) : Only K F P s0 (State.discApprove s f n) := by
  unfold State.discApprove
  repeat' first | with_reducible assumption | exact Fits.trans (by decide +kernel) hK | exact hF | with_reducible apply State.linkAdmit_only | with_reducible apply State.updPort_only | with_reducible apply State.fset_only | with_reducible apply Only.ite | dsimp only | split | (with_reducible refine Only.fst (by with_reducible assumption) ?_) | (with_reducible refine Only.snd (by with_reducible assumption) ?_)

theorem execDiscApprove_only {K : List Part} {F : FieldId → Prop} {P : PlotId → Prop} {s0 : State} (f : FieldId) (mask : Nat) (s : State) (hK : Fits (([.events, .out, .reg Reg.HDL_PORT_STATUS.RX_MODE, .reg Reg.HDL_PORT_STATUS.TX_MODE, .reg Reg.INJ_PT.ARM, .reg Reg.INJ_PT.DONE, .reg Reg.RTE_COMB_STAT.MERGED, .reg Reg.RTE_COMB_STAT.PEAK, .reg Reg.RTE_DISC_STATUS.REFUSED, .reg Reg.RTE_LINK_CNT.LOST, .reg Reg.RTE_LINK_CNT.NAKS, .reg Reg.RTE_LINK_CNT.REPLAYED, .reg Reg.RTE_LINK_CNT.RETRAINS, .reg Reg.RTE_LINK_CNT.TX_FLITS, .reg Reg.RTE_LINK_CREDIT.RES, .reg Reg.RTE_LINK_CREDIT.SHARED] : List Part) ++ ([.reg Reg.RTE_LINK_STATUS.PRESERVED, .reg Reg.RTE_LINK_STATUS.RESULT, .reg Reg.RTE_LINK_STATUS.STATE, .reg Reg.RTE_QUAL_RESULT.RX_PASS, .reg Reg.RTE_QUAL_RESULT.TX_PASS, .reg Reg.RTE_QUAL_RESULT.WORST, .reg Reg.RTE_QUAL_RESULT.WORST_E, .ports, .router, .tally] : List Part)) K) (hF : F f)
    (ho : Only K F P s0 s) : Ends K F P s0 (execDiscApprove f mask s) := by
  unfold execDiscApprove
  repeat' first | with_reducible assumption | exact Fits.trans (by decide +kernel) hK | exact hF | with_reducible apply Ends.inRim | with_reducible apply State.discApprove_only | with_reducible apply Ends.finish | with_reducible apply Ends.next | with_reducible apply Only.ite | with_reducible apply Ends.ite | dsimp only | split | (with_reducible refine Only.foldl _ _ (fun t a ht => ?_) ?_) | (with_reducible refine Only.foldl_fst _ _ _ (fun t a ht => ?_) ?_) | (with_reducible refine Only.fst (by with_reducible assumption) ?_) | (with_reducible refine Only.snd (by with_reducible assumption) ?_)

theorem execDiscApprovalWithdraw_only {K : List Part} {F : FieldId → Prop} {P : PlotId → Prop} {s0 : State} (f : FieldId) (n : PortId) (s : State) (hK : Fits ([.ports] : List Part) K) (hF : F f)
    (ho : Only K F P s0 s) : Ends K F P s0 (execDiscApprovalWithdraw f n s) := by
  unfold execDiscApprovalWithdraw
  repeat' first | with_reducible assumption | exact Fits.trans (by decide +kernel) hK | exact hF | with_reducible apply Ends.inRim | with_reducible apply State.updPort_only | with_reducible apply Ends.finish | with_reducible apply Ends.next | with_reducible apply Only.ite | with_reducible apply Ends.ite | dsimp only | split | (with_reducible refine Only.fst (by with_reducible assumption) ?_) | (with_reducible refine Only.snd (by with_reducible assumption) ?_)

end Sys2Proof.Machine
end

