-- ==== Sys2Proof/Laws/Touch/Router.lean ====
section
/-! SUPPORT. What each operation of Machine/Router.lean can change: the parts named, and nothing else. -/

namespace Sys2Proof.Machine

set_option Elab.async false

open Sys2Proof

theorem State.mcastDrop_only {K : List Part} {F : FieldId → Prop} {P : PlotId → Prop} {s0 : State} (s : State) (f : FieldId) (p : Packet) (hK : Fits ([.reg Reg.RTE_DROP_CNT.MCAST_DROP] : List Part) K) (hF : F f)
    (ho : Only K F P s0 s) : Only K F P s0 (State.mcastDrop s f p) := by
  unfold State.mcastDrop
  repeat' first | with_reducible assumption | exact Fits.trans (by decide +kernel) hK | exact hF | with_reducible apply State.fcount_only | with_reducible apply Only.ite | dsimp only | split | (with_reducible refine Only.fst (by with_reducible assumption) ?_) | (with_reducible refine Only.snd (by with_reducible assumption) ?_)

theorem State.dropNoroute_only {K : List Part} {F : FieldId → Prop} {P : PlotId → Prop} {s0 : State} (s : State) (f : FieldId) (p : Packet) (axis : Nat) (hK : Fits ([.events, .reg Reg.RTE_DROP_CNT.MCAST_DROP, .reg Reg.RTE_DROP_CNT.NOROUTE, .lastRaise] : List Part) K) (hF : F f)
    (ho : Only K F P s0 s) : Only K F P s0 (State.dropNoroute s f p axis) := by
  unfold State.dropNoroute
  repeat' first | with_reducible assumption | exact Fits.trans (by decide +kernel) hK | exact hF | with_reducible apply State.raiseLimited_only | with_reducible apply State.mcastDrop_only | with_reducible apply State.fcount_only | with_reducible apply Only.ite | dsimp only | split | (with_reducible refine Only.fst (by with_reducible assumption) ?_) | (with_reducible refine Only.snd (by with_reducible assumption) ?_)

theorem State.dropTransit_only {K : List Part} {F : FieldId → Prop} {P : PlotId → Prop} {s0 : State} (s : State) (f : FieldId) (p : Packet) (egress : Nat) (hK : Fits ([.events, .reg Reg.RTE_DROP_CNT.MCAST_DROP, .reg Reg.RTE_DROP_CNT.TRANSIT, .lastRaise] : List Part) K) (hF : F f)
    (ho : Only K F P s0 s) : Only K F P s0 (State.dropTransit s f p egress) := by
  unfold State.dropTransit
  repeat' first | with_reducible assumption | exact Fits.trans (by decide +kernel) hK | exact hF | with_reducible apply State.raiseLimited_only | with_reducible apply State.mcastDrop_only | with_reducible apply State.fcount_only | with_reducible apply Only.ite | dsimp only | split | (with_reducible refine Only.fst (by with_reducible assumption) ?_) | (with_reducible refine Only.snd (by with_reducible assumption) ?_)

theorem State.dropForeign_only {K : List Part} {F : FieldId → Prop} {P : PlotId → Prop} {s0 : State} (s : State) (f : FieldId) (p : Packet) (hK : Fits ([.events, .reg Reg.RTE_DROP_CNT.FOREIGN, .reg Reg.RTE_DROP_CNT.MCAST_DROP, .lastRaise] : List Part) K) (hF : F f)
    (ho : Only K F P s0 s) : Only K F P s0 (State.dropForeign s f p) := by
  unfold State.dropForeign
  repeat' first | with_reducible assumption | exact Fits.trans (by decide +kernel) hK | exact hF | with_reducible apply State.raiseLimited_only | with_reducible apply State.mcastDrop_only | with_reducible apply State.fcount_only | with_reducible apply Only.ite | dsimp only | split | (with_reducible refine Only.fst (by with_reducible assumption) ?_) | (with_reducible refine Only.snd (by with_reducible assumption) ?_)

theorem State.deliver_only {K : List Part} {F : FieldId → Prop} {P : PlotId → Prop} {s0 : State} (s : State) (f : FieldId) (p : Packet) (ingress : Option PortId) (hK : Fits ([.events, .reg Reg.RTE_DROP_CNT.FOREIGN, .reg Reg.RTE_DROP_CNT.MCAST_DROP, .reg Reg.RTE_LINK_CNT.PROTO_ERR, .reg Reg.SHF_STAT.PROTO_ERR, .lastRaise, .router] : List Part) K) (hF : F f)
    (ho : Only K F P s0 s) : Only K F P s0 (State.deliver s f p ingress) := by
  unfold State.deliver
  repeat' first | with_reducible assumption | exact Fits.trans (by decide +kernel) hK | exact hF | with_reducible apply State.dropForeign_only | with_reducible apply State.protoErr_only | with_reducible apply State.fcount_only | with_reducible apply State.updRouter_only | with_reducible apply Only.ite | dsimp only | split | (with_reducible refine Only.fst (by with_reducible assumption) ?_) | (with_reducible refine Only.snd (by with_reducible assumption) ?_)

theorem State.portQueue_only {K : List Part} {F : FieldId → Prop} {P : PlotId → Prop} {s0 : State} (s : State) (f : FieldId) (n : PortId) (vc : Nat) (p : Packet) (combined : Bool) (hK : Fits ([.ports] : List Part) K) (hF : F f)
    (ho : Only K F P s0 s) : Only K F P s0 (State.portQueue s f n vc p combined) := by
  unfold State.portQueue
  repeat' first | with_reducible assumption | exact Fits.trans (by decide +kernel) hK | exact hF | with_reducible apply State.updPort_only | with_reducible apply Only.ite | dsimp only | split | (with_reducible refine Only.fst (by with_reducible assumption) ?_) | (with_reducible refine Only.snd (by with_reducible assumption) ?_)

theorem State.d2dQueue_only {K : List Part} {F : FieldId → Prop} {P : PlotId → Prop} {s0 : State} (s : State) (f : FieldId) (side vc : Nat) (p : Packet) (combined : Bool) (hK : Fits ([.router] : List Part) K) (hF : F f)
    (ho : Only K F P s0 s) : Only K F P s0 (State.d2dQueue s f side vc p combined) := by
  unfold State.d2dQueue
  repeat' first | with_reducible assumption | exact Fits.trans (by decide +kernel) hK | exact hF | with_reducible apply State.updRouter_only | with_reducible apply Only.ite | dsimp only | split | (with_reducible refine Only.fst (by with_reducible assumption) ?_) | (with_reducible refine Only.snd (by with_reducible assumption) ?_)

theorem State.portSend_only {K : List Part} {F : FieldId → Prop} {P : PlotId → Prop} {s0 : State} (s : State) (f : FieldId) (n : PortId) (r : Routed) (hK : Fits ([.events, .reg Reg.RTE_DROP_CNT.MCAST_DROP, .reg Reg.RTE_DROP_CNT.TRANSIT, .lastRaise, .ports] : List Part) K) (hF : F f)
    (ho : Only K F P s0 s) : Only K F P s0 (State.portSend s f n r) := by
  unfold State.portSend
  repeat' first | with_reducible assumption | exact Fits.trans (by decide +kernel) hK | exact hF | with_reducible apply State.dropTransit_only | with_reducible apply State.portQueue_only | with_reducible apply Only.ite | dsimp only | split | (with_reducible refine Only.fst (by with_reducible assumption) ?_) | (with_reducible refine Only.snd (by with_reducible assumption) ?_)

theorem State.d2dSend_only {K : List Part} {F : FieldId → Prop} {P : PlotId → Prop} {s0 : State} (s : State) (f g : FieldId) (r : Routed) (hK : Fits ([.events, .reg Reg.RTE_DROP_CNT.MCAST_DROP, .reg Reg.RTE_DROP_CNT.TRANSIT, .lastRaise, .router] : List Part) K) (hF : F f)
    (ho : Only K F P s0 s) : Only K F P s0 (State.d2dSend s f g r) := by
  unfold State.d2dSend
  repeat' first | with_reducible assumption | exact Fits.trans (by decide +kernel) hK | exact hF | with_reducible apply State.dropTransit_only | with_reducible apply State.d2dQueue_only | with_reducible apply Only.ite | dsimp only | split | (with_reducible refine Only.fst (by with_reducible assumption) ?_) | (with_reducible refine Only.snd (by with_reducible assumption) ?_)

theorem State.route_only {K : List Part} {F : FieldId → Prop} {P : PlotId → Prop} {s0 : State} (s : State) (f : FieldId) (r : Routed) (ingress : Option PortId) (hK : Fits ([.events, .reg Reg.RTE_DROP_CNT.FOREIGN, .reg Reg.RTE_DROP_CNT.MCAST_DROP, .reg Reg.RTE_DROP_CNT.NOROUTE, .reg Reg.RTE_DROP_CNT.TRANSIT, .reg Reg.RTE_LINK_CNT.PROTO_ERR, .reg Reg.SHF_STAT.PROTO_ERR, .lastRaise, .ports, .router] : List Part) K) (hF : F f)
    (ho : Only K F P s0 s) : Only K F P s0 (State.route s f r ingress) := by
  unfold State.route
  repeat' first | with_reducible assumption | exact Fits.trans (by decide +kernel) hK | exact hF | with_reducible apply State.dropNoroute_only | with_reducible apply State.deliver_only | with_reducible apply State.portSend_only | with_reducible apply State.d2dSend_only | with_reducible apply Only.ite | dsimp only | split | (with_reducible refine Only.fst (by with_reducible assumption) ?_) | (with_reducible refine Only.snd (by with_reducible assumption) ?_)

theorem State.portSlot_only {K : List Part} {F : FieldId → Prop} {P : PlotId → Prop} {s0 : State} (s : State) (f : FieldId) (n : PortId) (hK : Fits (([.events, .out, .reg Reg.INJ_PT.ARM, .reg Reg.INJ_PT.DONE, .reg Reg.RTE_COMB_STAT.MERGED, .reg Reg.RTE_COMB_STAT.PEAK, .reg Reg.RTE_LINK_CNT.LOST, .reg Reg.RTE_LINK_CNT.NAKS, .reg Reg.RTE_LINK_CNT.REPLAYED, .reg Reg.RTE_LINK_CNT.RETRAINS, .reg Reg.RTE_LINK_CNT.TX_FLITS, .reg Reg.RTE_LINK_CREDIT.RES, .reg Reg.RTE_LINK_CREDIT.SHARED, .reg Reg.RTE_LINK_STATUS.PRESERVED, .reg Reg.RTE_LINK_STATUS.RESULT, .reg Reg.RTE_LINK_STATUS.STATE] : List Part) ++ ([.ports, .router, .tally] : List Part)) K) (hF : F f)
    (ho : Only K F P s0 s) : Only K F P s0 (State.portSlot s f n) := by
  unfold State.portSlot
  repeat' first | with_reducible assumption | exact Fits.trans (by decide +kernel) hK | exact hF | with_reducible apply State.portFlit_only | with_reducible apply State.slotGain_only | with_reducible apply Only.ite | dsimp only | split | (with_reducible refine Only.fst (by with_reducible assumption) ?_) | (with_reducible refine Only.snd (by with_reducible assumption) ?_)

theorem State.d2dStall_only {K : List Part} {F : FieldId → Prop} {P : PlotId → Prop} {s0 : State} (s : State) (f : FieldId) (side vc stage : Nat) (hK : Fits ([.events, .reg Reg.RTE_COMB_STAT.MERGED, .reg Reg.RTE_COMB_STAT.PEAK, .router] : List Part) K) (hF : F f)
    (ho : Only K F P s0 s) : Only K F P s0 (State.d2dStall s f side vc stage) := by
  unfold State.d2dStall
  repeat' first | with_reducible assumption | exact Fits.trans (by decide +kernel) hK | exact hF | with_reducible apply State.combWaiting_only | with_reducible apply State.updRouter_only | with_reducible apply Only.ite | dsimp only | split | (with_reducible refine Only.fst (by with_reducible assumption) ?_) | (with_reducible refine Only.snd (by with_reducible assumption) ?_)

theorem State.d2dFlit_only {K : List Part} {F : FieldId → Prop} {P : PlotId → Prop} {s0 : State} (s : State) (f : FieldId) (side vc stage : Nat) (hK : Fits ([.router, .tally, .far .router] : List Part) K) (hF : F f)
    (ho : Only K F P s0 s) : Only K F P s0 (State.d2dFlit s f side vc stage) := by
  unfold State.d2dFlit
  repeat' first | with_reducible assumption | exact Fits.trans (by decide +kernel) hK | exact hF | (with_reducible refine State.updRouter_only _ _ _ (Fits.trans (by decide +kernel) hK) hF ?_) | with_reducible apply State.updRouter_far | with_reducible apply State.beaconsSent_only | with_reducible apply Only.ite | dsimp only | split | (with_reducible refine Only.fst (by with_reducible assumption) ?_) | (with_reducible refine Only.snd (by with_reducible assumption) ?_)

theorem State.takeHead_only {K : List Part} {F : FieldId → Prop} {P : PlotId → Prop} {s0 : State} (s : State) (f : FieldId) (link vc stage : Nat) (hK : Fits ([.ports, .router] : List Part) K) (hF : F f)
    (ho : Only K F P s0 s) : ∀ t x, State.takeHead s f link vc stage = some (t, x) → Only K F P s0 t := by
  unfold State.takeHead; intro q y hq; revert hq
  repeat' first | with_reducible assumption | ((refine fun (hq : _ = some _) => ?_); cases hq) | exact Fits.trans (by decide +kernel) hK | exact hF | with_reducible apply State.updPort_only | with_reducible apply State.updRouter_only | with_reducible apply Only.ite | dsimp only | split | (with_reducible refine Only.fst (by with_reducible assumption) ?_) | (with_reducible refine Only.snd (by with_reducible assumption) ?_)

theorem execRoutePacket_only {K : List Part} {F : FieldId → Prop} {P : PlotId → Prop} {s0 : State} (f : FieldId) (link : Fin 19) (vc : Fin 8) (stage : Fin 9) (s : State) (hK : Fits ([.events, .reg Reg.RTE_DROP_CNT.FOREIGN, .reg Reg.RTE_DROP_CNT.MCAST_DROP, .reg Reg.RTE_DROP_CNT.NOROUTE, .reg Reg.RTE_DROP_CNT.TRANSIT, .reg Reg.RTE_LINK_CNT.PROTO_ERR, .reg Reg.SHF_STAT.PROTO_ERR, .lastRaise, .ports, .router, .tally] : List Part) K) (hF : F f)
    (ho : Only K F P s0 s) : Ends K F P s0 (execRoutePacket f link vc stage s) := by
  unfold execRoutePacket
  repeat' first | with_reducible assumption | exact Fits.trans (by decide +kernel) hK | exact hF | with_reducible apply Ends.inRim | with_reducible apply State.beaconCame_only | with_reducible apply State.updRouter_only | with_reducible apply State.route_only | with_reducible apply Ends.finish | with_reducible apply Ends.next | with_reducible apply Only.ite | with_reducible apply Ends.ite | dsimp only | split | (with_reducible refine Only.fst (by with_reducible assumption) ?_) | (with_reducible refine Only.snd (by with_reducible assumption) ?_) | (refine fun t p ht => ?_) | (refine State.takeHead_only _ _ _ _ _ ?_ ?_ ?_ _ _ (by with_reducible assumption))

theorem execMcastCopy_only {K : List Part} {F : FieldId → Prop} {P : PlotId → Prop} {s0 : State} (f : FieldId) (s : State) (hK : Fits ([.events, .reg Reg.RTE_DROP_CNT.FOREIGN, .reg Reg.RTE_DROP_CNT.MCAST_DROP, .reg Reg.RTE_DROP_CNT.NOROUTE, .reg Reg.RTE_DROP_CNT.TRANSIT, .reg Reg.RTE_LINK_CNT.PROTO_ERR, .reg Reg.SHF_STAT.PROTO_ERR, .lastRaise, .ports, .router] : List Part) K) (hF : F f)
    (ho : Only K F P s0 s) : Ends K F P s0 (execMcastCopy f s) := by
  unfold execMcastCopy
  repeat' first | with_reducible assumption | exact Fits.trans (by decide +kernel) hK | exact hF | with_reducible apply Ends.inRim | with_reducible apply State.updRouter_only | with_reducible apply State.route_only | with_reducible apply Ends.finish | with_reducible apply Ends.next | with_reducible apply Only.ite | with_reducible apply Ends.ite | dsimp only | split | (with_reducible refine Only.fst (by with_reducible assumption) ?_) | (with_reducible refine Only.snd (by with_reducible assumption) ?_)

theorem execCombSlotSend_only {K : List Part} {F : FieldId → Prop} {P : PlotId → Prop} {s0 : State} (f : FieldId) (slot : Nat) (aged : Bool) (s : State) (hK : Fits ([.reg Reg.RTE_COMB_STAT.AGED, .ports, .router] : List Part) K) (hF : F f)
    (ho : Only K F P s0 s) : Ends K F P s0 (execCombSlotSend f slot aged s) := by
  unfold execCombSlotSend
  repeat' first | with_reducible assumption | exact Fits.trans (by decide +kernel) hK | exact hF | with_reducible apply Ends.inRim | with_reducible apply State.updRouter_only | with_reducible apply State.fcount_only | with_reducible apply State.portQueue_only | with_reducible apply State.d2dQueue_only | with_reducible apply Ends.finish | with_reducible apply Ends.next | with_reducible apply Only.ite | with_reducible apply Ends.ite | dsimp only | split | (with_reducible refine Only.fst (by with_reducible assumption) ?_) | (with_reducible refine Only.snd (by with_reducible assumption) ?_)

theorem State.d2dRepath_only {K : List Part} {F : FieldId → Prop} {P : PlotId → Prop} {s0 : State} (s : State) (f : FieldId) (side : Nat) (hK : Fits ([.events, .reg Reg.RTE_DROP_CNT.FOREIGN, .reg Reg.RTE_DROP_CNT.MCAST_DROP, .reg Reg.RTE_DROP_CNT.NOROUTE, .reg Reg.RTE_DROP_CNT.TRANSIT, .reg Reg.RTE_LINK_CNT.PROTO_ERR, .reg Reg.SHF_STAT.PROTO_ERR, .lastRaise, .ports, .router, .far .router] : List Part) K) (hF : F f)
    (ho : Only K F P s0 s) : Only K F P s0 (State.d2dRepath s f side) := by
  unfold State.d2dRepath
  repeat' first | with_reducible assumption | exact Fits.trans (by decide +kernel) hK | exact hF | (with_reducible refine State.updRouter_only _ _ _ (Fits.trans (by decide +kernel) hK) hF ?_) | with_reducible apply State.updRouter_far | with_reducible apply State.route_only | with_reducible apply Only.ite | dsimp only | split | (with_reducible refine Only.foldl _ _ (fun t a ht => ?_) ?_) | (with_reducible refine Only.foldl_fst _ _ _ (fun t a ht => ?_) ?_) | (with_reducible refine Only.fst (by with_reducible assumption) ?_) | (with_reducible refine Only.snd (by with_reducible assumption) ?_)

theorem State.d2dSlot_only {K : List Part} {F : FieldId → Prop} {P : PlotId → Prop} {s0 : State} (s : State) (f : FieldId) (side : Nat) (hK : Fits ([.events, .reg Reg.RTE_COMB_STAT.MERGED, .reg Reg.RTE_COMB_STAT.PEAK, .reg Reg.RTE_DROP_CNT.FOREIGN, .reg Reg.RTE_DROP_CNT.MCAST_DROP, .reg Reg.RTE_DROP_CNT.NOROUTE, .reg Reg.RTE_DROP_CNT.TRANSIT, .reg Reg.RTE_LINK_CNT.PROTO_ERR, .reg Reg.SHF_STAT.PROTO_ERR, .lastRaise, .ports, .router, .tally, .far .router] : List Part) K) (hF : F f)
    (ho : Only K F P s0 s) : Only K F P s0 (State.d2dSlot s f side) := by
  unfold State.d2dSlot
  repeat' first | with_reducible assumption | exact Fits.trans (by decide +kernel) hK | exact hF | with_reducible apply State.d2dRepath_only | with_reducible apply State.d2dStall_only | with_reducible apply State.updRouter_only | with_reducible apply State.d2dFlit_only | with_reducible apply Only.ite | dsimp only | split | (with_reducible refine Only.foldl _ _ (fun t a ht => ?_) ?_) | (with_reducible refine Only.foldl_fst _ _ _ (fun t a ht => ?_) ?_) | (with_reducible refine Only.fst (by with_reducible assumption) ?_) | (with_reducible refine Only.snd (by with_reducible assumption) ?_)

theorem execFlitSlot_only {K : List Part} {F : FieldId → Prop} {P : PlotId → Prop} {s0 : State} (f : FieldId) (link : Fin 18) (s : State) (hK : Fits (([.events, .out, .reg Reg.INJ_PT.ARM, .reg Reg.INJ_PT.DONE, .reg Reg.RTE_COMB_STAT.MERGED, .reg Reg.RTE_COMB_STAT.PEAK, .reg Reg.RTE_DROP_CNT.FOREIGN, .reg Reg.RTE_DROP_CNT.MCAST_DROP, .reg Reg.RTE_DROP_CNT.NOROUTE, .reg Reg.RTE_DROP_CNT.TRANSIT, .reg Reg.RTE_LINK_CNT.LOST, .reg Reg.RTE_LINK_CNT.NAKS, .reg Reg.RTE_LINK_CNT.PROTO_ERR, .reg Reg.RTE_LINK_CNT.REPLAYED, .reg Reg.RTE_LINK_CNT.RETRAINS, .reg Reg.RTE_LINK_CNT.TX_FLITS] : List Part) ++ ([.reg Reg.RTE_LINK_CREDIT.RES, .reg Reg.RTE_LINK_CREDIT.SHARED, .reg Reg.RTE_LINK_STATUS.PRESERVED, .reg Reg.RTE_LINK_STATUS.RESULT, .reg Reg.RTE_LINK_STATUS.STATE, .reg Reg.SHF_STAT.PROTO_ERR, .lastRaise, .ports, .router, .tally, .far .router] : List Part)) K) (hF : F f)
    (ho : Only K F P s0 s) : Ends K F P s0 (execFlitSlot f link s) := by
  unfold execFlitSlot
  repeat' first | with_reducible assumption | exact Fits.trans (by decide +kernel) hK | exact hF | with_reducible apply Ends.inRim | with_reducible apply State.portSlot_only | with_reducible apply State.d2dSlot_only | with_reducible apply Ends.finish | with_reducible apply Ends.next | with_reducible apply Only.ite | with_reducible apply Ends.ite | dsimp only | split | (with_reducible refine Only.fst (by with_reducible assumption) ?_) | (with_reducible refine Only.snd (by with_reducible assumption) ?_)

theorem State.sealEvent_only {K : List Part} {F : FieldId → Prop} {P : PlotId → Prop} {s0 : State} (s : State) (f : FieldId) (result table index : Nat) (hK : Fits ([.events] : List Part) K)
    (ho : Only K F P s0 s) : Only K F P s0 (State.sealEvent s f result table index) := by
  unfold State.sealEvent
  repeat' first | with_reducible assumption | exact Fits.trans (by decide +kernel) hK | with_reducible apply State.raise_only | with_reducible apply Only.ite | dsimp only | split | (with_reducible refine Only.fst (by with_reducible assumption) ?_) | (with_reducible refine Only.snd (by with_reducible assumption) ?_)

theorem State.bankActivate_only {K : List Part} {F : FieldId → Prop} {P : PlotId → Prop} {s0 : State} (s : State) (f : FieldId) (bank : SMap Nat) (hK : Fits ([.events, .reg Reg.RTE_TABLE_STATUS.GEN, .reg Reg.RTE_TABLE_STATUS.PENDING, .router] : List Part) K) (hF : F f)
    (ho : Only K F P s0 s) : Only K F P s0 (State.bankActivate s f bank) := by
  unfold State.bankActivate
  repeat' first | with_reducible assumption | exact Fits.trans (by decide +kernel) hK | exact hF | with_reducible apply State.updRouter_only | with_reducible apply State.sealEvent_only | with_reducible apply State.fwrap_only | with_reducible apply State.fset_only | with_reducible apply Only.ite | dsimp only | split | (with_reducible refine Only.fst (by with_reducible assumption) ?_) | (with_reducible refine Only.snd (by with_reducible assumption) ?_)

theorem State.sealStatus_only {K : List Part} {F : FieldId → Prop} {P : PlotId → Prop} {s0 : State} (s : State) (f : FieldId) (result table index : Nat) (hK : Fits ([.reg Reg.RTE_TABLE_STATUS.INDEX, .reg Reg.RTE_TABLE_STATUS.RESULT, .reg Reg.RTE_TABLE_STATUS.TABLE] : List Part) K) (hF : F f)
    (ho : Only K F P s0 s) : Only K F P s0 (State.sealStatus s f result table index) := by
  unfold State.sealStatus
  repeat' first | with_reducible assumption | exact Fits.trans (by decide +kernel) hK | exact hF | with_reducible apply State.fset_only | with_reducible apply Only.ite | dsimp only | split | (with_reducible refine Only.fst (by with_reducible assumption) ?_) | (with_reducible refine Only.snd (by with_reducible assumption) ?_)

theorem State.seal_only {K : List Part} {F : FieldId → Prop} {P : PlotId → Prop} {s0 : State} (s : State) (f : FieldId) (hK : Fits ([.events, .reg Reg.RTE_TABLE_STATUS.GEN, .reg Reg.RTE_TABLE_STATUS.INDEX, .reg Reg.RTE_TABLE_STATUS.PENDING, .reg Reg.RTE_TABLE_STATUS.RESULT, .reg Reg.RTE_TABLE_STATUS.SEALED, .reg Reg.RTE_TABLE_STATUS.TABLE, .router] : List Part) K) (hF : F f)
    (ho : Only K F P s0 s) : Only K F P s0 (State.seal s f) := by
  unfold State.seal
  repeat' first | with_reducible assumption | exact Fits.trans (by decide +kernel) hK | exact hF | with_reducible apply State.fset_only | with_reducible apply State.sealEvent_only | with_reducible apply State.sealStatus_only | with_reducible apply State.updRouter_only | with_reducible apply State.bankActivate_only | with_reducible apply Only.ite | dsimp only | split | (with_reducible refine Only.fst (by with_reducible assumption) ?_) | (with_reducible refine Only.snd (by with_reducible assumption) ?_)

theorem execSeal_only {K : List Part} {F : FieldId → Prop} {P : PlotId → Prop} {s0 : State} (f : FieldId) (s : State) (hK : Fits ([.events, .reg Reg.RTE_TABLE_STATUS.GEN, .reg Reg.RTE_TABLE_STATUS.INDEX, .reg Reg.RTE_TABLE_STATUS.PENDING, .reg Reg.RTE_TABLE_STATUS.RESULT, .reg Reg.RTE_TABLE_STATUS.SEALED, .reg Reg.RTE_TABLE_STATUS.TABLE, .router] : List Part) K) (hF : F f)
    (ho : Only K F P s0 s) : Ends K F P s0 (execSeal f s) := by
  unfold execSeal
  repeat' first | with_reducible assumption | exact Fits.trans (by decide +kernel) hK | exact hF | with_reducible apply Ends.inRim | with_reducible apply State.seal_only | with_reducible apply Ends.finish | with_reducible apply Ends.next | with_reducible apply Only.ite | with_reducible apply Ends.ite | dsimp only | split | (with_reducible refine Only.fst (by with_reducible assumption) ?_) | (with_reducible refine Only.snd (by with_reducible assumption) ?_)

theorem State.congOne_only {K : List Part} {F : FieldId → Prop} {P : PlotId → Prop} {s0 : State} (s : State) (f : FieldId) (link vc : Nat) (hK : Fits ([.router] : List Part) K) (hF : F f)
    (ho : Only K F P s0 s) : Only K F P s0 (State.congOne s f link vc) := by
  unfold State.congOne
  repeat' first | with_reducible assumption | exact Fits.trans (by decide +kernel) hK | exact hF | with_reducible apply State.updRouter_only | with_reducible apply State.congCount_only | with_reducible apply Only.ite | dsimp only | split | (with_reducible refine Only.fst (by with_reducible assumption) ?_) | (with_reducible refine Only.snd (by with_reducible assumption) ?_)

theorem execCongSample_only {K : List Part} {F : FieldId → Prop} {P : PlotId → Prop} {s0 : State} (f : FieldId) (s : State) (hK : Fits ([.router] : List Part) K) (hF : F f)
    (ho : Only K F P s0 s) : Ends K F P s0 (execCongSample f s) := by
  unfold execCongSample
  repeat' first | with_reducible assumption | exact Fits.trans (by decide +kernel) hK | exact hF | with_reducible apply Ends.inRim | with_reducible apply State.congOne_only | with_reducible apply Ends.finish | with_reducible apply Ends.next | with_reducible apply Only.ite | with_reducible apply Ends.ite | dsimp only | split | (with_reducible refine Only.foldl _ _ (fun t a ht => ?_) ?_) | (with_reducible refine Only.foldl_fst _ _ _ (fun t a ht => ?_) ?_) | (with_reducible refine Only.fst (by with_reducible assumption) ?_) | (with_reducible refine Only.snd (by with_reducible assumption) ?_)

theorem execCongWindowEnd_only {K : List Part} {F : FieldId → Prop} {P : PlotId → Prop} {s0 : State} (f : FieldId) (s : State) (hK : Fits ([.router] : List Part) K) (hF : F f)
    (ho : Only K F P s0 s) : Ends K F P s0 (execCongWindowEnd f s) := by
  unfold execCongWindowEnd
  repeat' first | with_reducible assumption | exact Fits.trans (by decide +kernel) hK | exact hF | with_reducible apply Ends.inRim | with_reducible apply State.updRouter_only | with_reducible apply Ends.finish | with_reducible apply Ends.next | with_reducible apply Only.ite | with_reducible apply Ends.ite | dsimp only | split | (with_reducible refine Only.fst (by with_reducible assumption) ?_) | (with_reducible refine Only.snd (by with_reducible assumption) ?_)

end Sys2Proof.Machine
end

