-- ==== Sys2Proof/Laws/Touch/Gateway.lean ====
section
/-! SUPPORT. What each operation of Machine/Gateway.lean can change: the parts named, and nothing else. -/

namespace Sys2Proof.Machine

set_option Elab.async false

open Sys2Proof

theorem State.arrival_only {K : List Part} {F : FieldId → Prop} {P : PlotId → Prop} {s0 : State} (s : State) (f : FieldId) (kind : Nat) (p : Packet) (hK : Fits ([.events, .reg Reg.RTE_DROP_CNT.FOREIGN, .reg Reg.RTE_DROP_CNT.MCAST_DROP, .lastRaise, .router] : List Part) K) (hF : F f)
    (ho : Only K F P s0 s) : Only K F P s0 (State.arrival s f kind p).1 := by
  unfold State.arrival
  repeat' first | with_reducible assumption | exact Fits.trans (by decide +kernel) hK | exact hF | with_reducible apply State.updRouter_only | with_reducible apply State.dropForeign_only | with_reducible apply Only.ite | dsimp only | split | (with_reducible refine Only.fst (by with_reducible assumption) ?_) | (with_reducible refine Only.snd (by with_reducible assumption) ?_)

theorem State.respond_only {K : List Part} {F : FieldId → Prop} {P : PlotId → Prop} {s0 : State} (s : State) (f : FieldId) (dst key : Nat) (h : RHdr) (payload : List Byte) (hK : Fits ([.router] : List Part) K) (hF : F f)
    (ho : Only K F P s0 s) : Only K F P s0 (State.respond s f dst key h payload) := by
  unfold State.respond
  repeat' first | with_reducible assumption | exact Fits.trans (by decide +kernel) hK | exact hF | with_reducible apply State.issuePacket_only | with_reducible apply Only.ite | dsimp only | split | (with_reducible refine Only.fst (by with_reducible assumption) ?_) | (with_reducible refine Only.snd (by with_reducible assumption) ?_)

theorem State.sendAck_only {K : List Part} {F : FieldId → Prop} {P : PlotId → Prop} {s0 : State} (s : State) (f : FieldId) (src : Nat) (hK : Fits ([.router, .gateway] : List Part) K) (hF : F f)
    (ho : Only K F P s0 s) : Only K F P s0 (State.sendAck s f src) := by
  unfold State.sendAck
  repeat' first | with_reducible assumption | exact Fits.trans (by decide +kernel) hK | exact hF | with_reducible apply State.updGw_only | with_reducible apply State.respond_only | with_reducible apply Only.ite | dsimp only | split | (with_reducible refine Only.fst (by with_reducible assumption) ?_) | (with_reducible refine Only.snd (by with_reducible assumption) ?_)

theorem State.sendErrorAck_only {K : List Part} {F : FieldId → Prop} {P : PlotId → Prop} {s0 : State} (s : State) (f : FieldId) (p : Packet) (status : Nat) (hK : Fits ([.router] : List Part) K) (hF : F f)
    (ho : Only K F P s0 s) : Only K F P s0 (State.sendErrorAck s f p status) := by
  unfold State.sendErrorAck
  repeat' first | with_reducible assumption | exact Fits.trans (by decide +kernel) hK | exact hF | with_reducible apply State.respond_only | with_reducible apply Only.ite | dsimp only | split | (with_reducible refine Only.fst (by with_reducible assumption) ?_) | (with_reducible refine Only.snd (by with_reducible assumption) ?_)

theorem State.sendDeferTo_only {K : List Part} {F : FieldId → Prop} {P : PlotId → Prop} {s0 : State} (s : State) (f : FieldId) (src key typ fepoch seq txn age : Nat) (hK : Fits ([.reg Reg.GWY_STAT.DEFERS_SENT, .router] : List Part) K) (hF : F f)
    (ho : Only K F P s0 s) : Only K F P s0 (State.sendDeferTo s f src key typ fepoch seq txn age) := by
  unfold State.sendDeferTo
  repeat' first | with_reducible assumption | exact Fits.trans (by decide +kernel) hK | exact hF | with_reducible apply State.respond_only | with_reducible apply State.fwrap_only | with_reducible apply Only.ite | dsimp only | split | (with_reducible refine Only.fst (by with_reducible assumption) ?_) | (with_reducible refine Only.snd (by with_reducible assumption) ?_)

theorem State.sendDefer_only {K : List Part} {F : FieldId → Prop} {P : PlotId → Prop} {s0 : State} (s : State) (f : FieldId) (p : Packet) (age : Nat) (hK : Fits ([.reg Reg.GWY_STAT.DEFERS_SENT, .router] : List Part) K) (hF : F f)
    (ho : Only K F P s0 s) : Only K F P s0 (State.sendDefer s f p age) := by
  unfold State.sendDefer
  repeat' first | with_reducible assumption | exact Fits.trans (by decide +kernel) hK | exact hF | with_reducible apply State.sendDeferTo_only | with_reducible apply Only.ite | dsimp only | split | (with_reducible refine Only.fst (by with_reducible assumption) ?_) | (with_reducible refine Only.snd (by with_reducible assumption) ?_)

theorem State.putFlowRx_only {K : List Part} {F : FieldId → Prop} {P : PlotId → Prop} {s0 : State} (s : State) (f : FieldId) (src : Nat) (r : FlowRx) (hK : Fits ([.gateway] : List Part) K) (hF : F f)
    (ho : Only K F P s0 s) : Only K F P s0 (State.putFlowRx s f src r) := by
  unfold State.putFlowRx
  repeat' first | with_reducible assumption | exact Fits.trans (by decide +kernel) hK | exact hF | with_reducible apply State.updGw_only | with_reducible apply State.setFlowRx_only | with_reducible apply Only.ite | dsimp only | split | (with_reducible refine Only.fst (by with_reducible assumption) ?_) | (with_reducible refine Only.snd (by with_reducible assumption) ?_)

theorem State.redErase_only {K : List Part} {F : FieldId → Prop} {P : PlotId → Prop} {s0 : State} (s : State) (f : FieldId) (R : RedLine) (hK : Fits ([.gateway] : List Part) K) (hF : F f)
    (ho : Only K F P s0 s) : Only K F P s0 (State.redErase s f R) := by
  unfold State.redErase
  repeat' first | with_reducible assumption | exact Fits.trans (by decide +kernel) hK | exact hF | with_reducible apply State.updGw_only | with_reducible apply Only.ite | dsimp only | split | (with_reducible refine Only.fst (by with_reducible assumption) ?_) | (with_reducible refine Only.snd (by with_reducible assumption) ?_)

theorem State.placeAge_only {K : List Part} {F : FieldId → Prop} {P : PlotId → Prop} {s0 : State} (s : State) (f : FieldId) (src : Nat) (hK : Fits ([.gateway] : List Part) K) (hF : F f)
    (ho : Only K F P s0 s) : Only K F P s0 (State.placeAge s f src).1 := by
  unfold State.placeAge
  repeat' first | with_reducible assumption | exact Fits.trans (by decide +kernel) hK | exact hF | with_reducible apply State.updGw_only | with_reducible apply Only.ite | dsimp only | split | (with_reducible refine Only.fst (by with_reducible assumption) ?_) | (with_reducible refine Only.snd (by with_reducible assumption) ?_)

theorem State.queueEnter_only {K : List Part} {F : FieldId → Prop} {P : PlotId → Prop} {s0 : State} (s : State) (f : FieldId) (src seq need : Nat) (hK : Fits ([.gateway] : List Part) K) (hF : F f)
    (ho : Only K F P s0 s) : Only K F P s0 (State.queueEnter s f src seq need).1 := by
  unfold State.queueEnter
  repeat' first | with_reducible assumption | exact Fits.trans (by decide +kernel) hK | exact hF | with_reducible apply State.updGw_only | with_reducible apply State.placeAge_only | with_reducible apply Only.ite | dsimp only | split | (with_reducible refine Only.fst (by with_reducible assumption) ?_) | (with_reducible refine Only.snd (by with_reducible assumption) ?_)

theorem State.queueLeave_only {K : List Part} {F : FieldId → Prop} {P : PlotId → Prop} {s0 : State} (s : State) (f : FieldId) (src : Nat) (hK : Fits ([.gateway] : List Part) K) (hF : F f)
    (ho : Only K F P s0 s) : Only K F P s0 (State.queueLeave s f src) := by
  unfold State.queueLeave
  repeat' first | with_reducible assumption | exact Fits.trans (by decide +kernel) hK | exact hF | with_reducible apply State.updGw_only | with_reducible apply Only.ite | dsimp only | split | (with_reducible refine Only.fst (by with_reducible assumption) ?_) | (with_reducible refine Only.snd (by with_reducible assumption) ?_)

theorem State.queueServed_only {K : List Part} {F : FieldId → Prop} {P : PlotId → Prop} {s0 : State} (s : State) (f : FieldId) (src seq : Nat) (hK : Fits ([.gateway] : List Part) K) (hF : F f)
    (ho : Only K F P s0 s) : Only K F P s0 (State.queueServed s f src seq) := by
  unfold State.queueServed
  repeat' first | with_reducible assumption | exact Fits.trans (by decide +kernel) hK | exact hF | with_reducible apply State.updGw_only | with_reducible apply State.queueLeave_only | with_reducible apply Only.ite | dsimp only | split | (with_reducible refine Only.fst (by with_reducible assumption) ?_) | (with_reducible refine Only.snd (by with_reducible assumption) ?_)

theorem State.slotTake_only {K : List Part} {F : FieldId → Prop} {P : PlotId → Prop} {s0 : State} (s : State) (f : FieldId) (src seq : Nat) (hK : Fits ([.gateway] : List Part) K) (hF : F f)
    (ho : Only K F P s0 s) : Only K F P s0 (State.slotTake s f src seq).1 := by
  unfold State.slotTake
  repeat' first | with_reducible assumption | exact Fits.trans (by decide +kernel) hK | exact hF | with_reducible apply State.queueEnter_only | with_reducible apply State.updGw_only | with_reducible apply Only.ite | dsimp only | split | (with_reducible refine Only.fst (by with_reducible assumption) ?_) | (with_reducible refine Only.snd (by with_reducible assumption) ?_)

theorem State.redOverflow_only {K : List Part} {F : FieldId → Prop} {P : PlotId → Prop} {s0 : State} (s : State) (f : FieldId) (R : RedLine) (ovf : List Nat) (hK : Fits ([.events] : List Part) K)
    (ho : Only K F P s0 s) : Only K F P s0 (State.redOverflow s f R ovf) := by
  unfold State.redOverflow
  repeat' first | with_reducible assumption | exact Fits.trans (by decide +kernel) hK | with_reducible apply State.raise_only | with_reducible apply Only.ite | dsimp only | split | (with_reducible refine Only.foldl _ _ (fun t a ht => ?_) ?_) | (with_reducible refine Only.foldl_fst _ _ _ (fun t a ht => ?_) ?_) | (with_reducible refine Only.fst (by with_reducible assumption) ?_) | (with_reducible refine Only.snd (by with_reducible assumption) ?_)

theorem State.setRed_only {K : List Part} {F : FieldId → Prop} {P : PlotId → Prop} {s0 : State} (s : State) (f : FieldId) (R : RedLine) (hK : Fits ([.gateway] : List Part) K) (hF : F f)
    (ho : Only K F P s0 s) : Only K F P s0 (State.setRed s f R) := by
  unfold State.setRed
  repeat' first | with_reducible assumption | exact Fits.trans (by decide +kernel) hK | exact hF | with_reducible apply State.updGw_only | with_reducible apply Only.ite | dsimp only | split | (with_reducible refine Only.fst (by with_reducible assumption) ?_) | (with_reducible refine Only.snd (by with_reducible assumption) ?_)

theorem State.redCreate_only {K : List Part} {F : FieldId → Prop} {P : PlotId → Prop} {s0 : State} (s : State) (f : FieldId) (may : Bool) (line typ allot : Nat) (hK : Fits (([.events, .hbmErr, .reg Reg.INJ_PT.ARM, .reg Reg.INJ_PT.DONE, .reg Reg.MEM_ECC_STAT.CORRECTED, .reg Reg.MEM_ECC_STAT.LAST_ADDR, .reg Reg.MEM_ECC_STAT.UNCORRECTED, .reg Reg.MEM_REPAIR_ENTRY.BANK, .reg Reg.MEM_REPAIR_ENTRY.CHANNEL, .reg Reg.MEM_REPAIR_ENTRY.PCH, .reg Reg.MEM_REPAIR_ENTRY.REASON, .reg Reg.MEM_REPAIR_ENTRY.RESULT, .reg Reg.MEM_REPAIR_ENTRY.ROW, .reg Reg.MEM_REPAIR_ENTRY.STACK, .reg Reg.MEM_REPAIR_ENTRY.VALID, .memu] : List Part) ++ ([.gateway, .health] : List Part)) K) (hF : F f)
    (ho : Only K F P s0 s) : Only K F P s0 (State.redCreate s f may line typ allot).1 := by
  unfold State.redCreate
  repeat' first | with_reducible assumption | exact Fits.trans (by decide +kernel) hK | exact hF | with_reducible apply State.injFire_only | with_reducible apply State.lineRead_only | with_reducible apply State.redOverflow_only | with_reducible apply State.setRed_only | with_reducible apply Only.ite | dsimp only | split | (with_reducible refine Only.fst (by with_reducible assumption) ?_) | (with_reducible refine Only.snd (by with_reducible assumption) ?_)

theorem State.redDefer_only {K : List Part} {F : FieldId → Prop} {P : PlotId → Prop} {s0 : State} (s : State) (f : FieldId) (src seq need allot : Nat) (hK : Fits ([.events, .reg Reg.GWY_RED_STATUS.DEFERS, .gateway] : List Part) K) (hF : F f)
    (ho : Only K F P s0 s) : Only K F P s0 (State.redDefer s f src seq need allot).1 := by
  unfold State.redDefer
  repeat' first | with_reducible assumption | exact Fits.trans (by decide +kernel) hK | exact hF | with_reducible apply State.fwrap_only | with_reducible apply State.raise_only | with_reducible apply State.updGw_only | with_reducible apply State.queueEnter_only | with_reducible apply Only.ite | dsimp only | split | (with_reducible refine Only.fst (by with_reducible assumption) ?_) | (with_reducible refine Only.snd (by with_reducible assumption) ?_)

theorem State.redFlush_only {K : List Part} {F : FieldId → Prop} {P : PlotId → Prop} {s0 : State} (s : State) (f : FieldId) (R : RedLine) (hK : Fits (([.events, .hbm, .hbmErr, .reg Reg.GWY_STAT.ABSORBED, .reg Reg.GWY_STAT.FLUSHES, .reg Reg.INJ_PT.ARM, .reg Reg.INJ_PT.DONE, .reg Reg.MEM_ECC_STAT.CORRECTED, .reg Reg.MEM_ECC_STAT.LAST_ADDR, .reg Reg.MEM_ECC_STAT.POISON_WRITES, .reg Reg.MEM_ECC_STAT.UNCORRECTED, .reg Reg.MEM_REPAIR_ENTRY.BANK, .reg Reg.MEM_REPAIR_ENTRY.CHANNEL, .reg Reg.MEM_REPAIR_ENTRY.PCH, .reg Reg.MEM_REPAIR_ENTRY.REASON, .reg Reg.MEM_REPAIR_ENTRY.RESULT] : List Part) ++ ([.reg Reg.MEM_REPAIR_ENTRY.ROW, .reg Reg.MEM_REPAIR_ENTRY.STACK, .reg Reg.MEM_REPAIR_ENTRY.VALID, .memu, .gateway, .health] : List Part)) K) (hF : F f)
    (ho : Only K F P s0 s) : Only K F P s0 (State.redFlush s f R) := by
  unfold State.redFlush
  repeat' first | with_reducible assumption | exact Fits.trans (by decide +kernel) hK | exact hF | with_reducible apply State.lineWrite_only | with_reducible apply State.setRed_only | with_reducible apply State.fwrap_only | with_reducible apply Only.ite | dsimp only | split | (with_reducible refine Only.fst (by with_reducible assumption) ?_) | (with_reducible refine Only.snd (by with_reducible assumption) ?_)

theorem State.applyReduce_only {K : List Part} {F : FieldId → Prop} {P : PlotId → Prop} {s0 : State} (s : State) (f : FieldId) (p : Packet) (hK : Fits (([.events, .hbmErr, .reg Reg.INJ_PT.ARM, .reg Reg.INJ_PT.DONE, .reg Reg.MEM_ECC_STAT.CORRECTED, .reg Reg.MEM_ECC_STAT.LAST_ADDR, .reg Reg.MEM_ECC_STAT.UNCORRECTED, .reg Reg.MEM_REPAIR_ENTRY.BANK, .reg Reg.MEM_REPAIR_ENTRY.CHANNEL, .reg Reg.MEM_REPAIR_ENTRY.PCH, .reg Reg.MEM_REPAIR_ENTRY.REASON, .reg Reg.MEM_REPAIR_ENTRY.RESULT, .reg Reg.MEM_REPAIR_ENTRY.ROW, .reg Reg.MEM_REPAIR_ENTRY.STACK, .reg Reg.MEM_REPAIR_ENTRY.VALID, .memu] : List Part) ++ ([.gateway, .health] : List Part)) K) (hF : F f)
    (ho : Only K F P s0 s) : Only K F P s0 (State.applyReduce s f p).1 := by
  unfold State.applyReduce
  repeat' first | with_reducible assumption | exact Fits.trans (by decide +kernel) hK | exact hF | with_reducible apply State.redOverflow_only | with_reducible apply State.setRed_only | with_reducible apply State.redCreate_only | with_reducible apply Only.ite | dsimp only | split | (with_reducible refine Only.fst (by with_reducible assumption) ?_) | (with_reducible refine Only.snd (by with_reducible assumption) ?_)

theorem State.applyLine_only {K : List Part} {F : FieldId → Prop} {P : PlotId → Prop} {s0 : State} (s : State) (f : FieldId) (p : Packet) (hK : Fits (([.free, .events, .hbm, .store, .hbmErr, .storeErr, .reg Reg.GWY_STAT.ABSORBED, .reg Reg.INJ_PT.ARM, .reg Reg.INJ_PT.DONE, .reg Reg.MEM_ECC_STAT.CORRECTED, .reg Reg.MEM_ECC_STAT.LAST_ADDR, .reg Reg.MEM_ECC_STAT.POISON_WRITES, .reg Reg.MEM_ECC_STAT.UNCORRECTED, .reg Reg.MEM_REPAIR_ENTRY.BANK, .reg Reg.MEM_REPAIR_ENTRY.CHANNEL, .reg Reg.MEM_REPAIR_ENTRY.PCH] : List Part) ++ ([.reg Reg.MEM_REPAIR_ENTRY.REASON, .reg Reg.MEM_REPAIR_ENTRY.RESULT, .reg Reg.MEM_REPAIR_ENTRY.ROW, .reg Reg.MEM_REPAIR_ENTRY.STACK, .reg Reg.MEM_REPAIR_ENTRY.VALID, .reg Reg.MIR_LOAD_STATUS.DIGEST, .reg Reg.MIR_LOAD_STATUS.GRANULES, .reg Reg.MIR_LOAD_STATUS.RESULT, .reg Reg.MIR_LOAD_STATUS.STATE, .reg Reg.MIR_LOAD_STATUS.USING_SRC1, .reg Reg.MIR_PART_STATUS.BUF_USED, .reg Reg.MIR_PART_STATUS.COMMITTED, .reg Reg.MIR_PART_STATUS.DIGEST, .reg Reg.MIR_PART_STATUS.RESULT, .reg Reg.MIR_PART_STATUS.STATE, .reg Reg.MIR_PART_STATUS.VALID] : List Part) ++ ([.plotReg Reg.PLT_STORE_ECC.CORRECTED, .plotReg Reg.PLT_STORE_ECC.LAST_ADDR, .plotReg Reg.PLT_STORE_ECC.UNCORRECTED, .memu, .router, .gateway, .health, .mirror] : List Part)) K) (hF : F f) (hP : ∀ p, P p)
    (ho : Only K F P s0 s) : Only K F P s0 (State.applyLine s f p).1 := by
  unfold State.applyLine
  repeat' first | with_reducible assumption | exact Fits.trans (by decide +kernel) hK | exact hF | exact hP | exact hP _ | with_reducible apply State.bulkPut_only | with_reducible apply State.targetWrite_only | with_reducible apply State.applyReduce_only | with_reducible apply State.mirMarkApply_only | with_reducible apply State.mirLayoutApply_only | with_reducible apply State.mirPullApply_only | with_reducible apply State.mirDoneApply_only | with_reducible apply Only.ite | dsimp only | split | (with_reducible refine Only.fst (by with_reducible assumption) ?_) | (with_reducible refine Only.snd (by with_reducible assumption) ?_)

theorem State.lineApplied_only {K : List Part} {F : FieldId → Prop} {P : PlotId → Prop} {s0 : State} (s : State) (f : FieldId) (src : Nat) (p : Packet) (status : Nat) (hK : Fits ([.router, .gateway] : List Part) K) (hF : F f)
    (ho : Only K F P s0 s) : Only K F P s0 (State.lineApplied s f src p status) := by
  unfold State.lineApplied
  repeat' first | with_reducible assumption | exact Fits.trans (by decide +kernel) hK | exact hF | with_reducible apply State.putFlowRx_only | with_reducible apply State.sendErrorAck_only | with_reducible apply State.updGw_only | with_reducible apply Only.ite | dsimp only | split | (with_reducible refine Only.fst (by with_reducible assumption) ?_) | (with_reducible refine Only.snd (by with_reducible assumption) ?_)

theorem State.lineDone_only {K : List Part} {F : FieldId → Prop} {P : PlotId → Prop} {s0 : State} (s : State) (f : FieldId) (src : Nat) (hK : Fits ([.gateway] : List Part) K) (hF : F f)
    (ho : Only K F P s0 s) : Only K F P s0 (State.lineDone s f src) := by
  unfold State.lineDone
  repeat' first | with_reducible assumption | exact Fits.trans (by decide +kernel) hK | exact hF | with_reducible apply State.putFlowRx_only | with_reducible apply State.updGw_only | with_reducible apply Only.ite | dsimp only | split | (with_reducible refine Only.fst (by with_reducible assumption) ?_) | (with_reducible refine Only.snd (by with_reducible assumption) ?_)

theorem State.drainHeld_only {K : List Part} {F : FieldId → Prop} {P : PlotId → Prop} {s0 : State} (s : State) (f : FieldId) (src fuel : Nat) (hK : Fits (([.free, .events, .hbm, .store, .hbmErr, .storeErr, .reg Reg.GWY_RED_STATUS.DEFERS, .reg Reg.GWY_STAT.ABSORBED, .reg Reg.GWY_STAT.DEFERS_SENT, .reg Reg.INJ_PT.ARM, .reg Reg.INJ_PT.DONE, .reg Reg.MEM_ECC_STAT.CORRECTED, .reg Reg.MEM_ECC_STAT.LAST_ADDR, .reg Reg.MEM_ECC_STAT.POISON_WRITES, .reg Reg.MEM_ECC_STAT.UNCORRECTED, .reg Reg.MEM_REPAIR_ENTRY.BANK] : List Part) ++ ([.reg Reg.MEM_REPAIR_ENTRY.CHANNEL, .reg Reg.MEM_REPAIR_ENTRY.PCH, .reg Reg.MEM_REPAIR_ENTRY.REASON, .reg Reg.MEM_REPAIR_ENTRY.RESULT, .reg Reg.MEM_REPAIR_ENTRY.ROW, .reg Reg.MEM_REPAIR_ENTRY.STACK, .reg Reg.MEM_REPAIR_ENTRY.VALID, .reg Reg.MIR_LOAD_STATUS.DIGEST, .reg Reg.MIR_LOAD_STATUS.GRANULES, .reg Reg.MIR_LOAD_STATUS.RESULT, .reg Reg.MIR_LOAD_STATUS.STATE, .reg Reg.MIR_LOAD_STATUS.USING_SRC1, .reg Reg.MIR_PART_STATUS.BUF_USED, .reg Reg.MIR_PART_STATUS.COMMITTED, .reg Reg.MIR_PART_STATUS.DIGEST, .reg Reg.MIR_PART_STATUS.RESULT] : List Part) ++ ([.reg Reg.MIR_PART_STATUS.STATE, .reg Reg.MIR_PART_STATUS.VALID, .plotReg Reg.PLT_STORE_ECC.CORRECTED, .plotReg Reg.PLT_STORE_ECC.LAST_ADDR, .plotReg Reg.PLT_STORE_ECC.UNCORRECTED, .memu, .router, .gateway, .health, .mirror] : List Part)) K) (hF : F f) (hP : ∀ p, P p)
    (ho : Only K F P s0 s) : Only K F P s0 (State.drainHeld s f src fuel) := by
  induction fuel generalizing s src with
  | zero => simp only [State.drainHeld]; (repeat' first | with_reducible assumption | exact Fits.trans (by decide +kernel) hK | exact hF | exact hP | exact hP _ | with_reducible apply State.lineDone_only | with_reducible apply State.applyLine_only | with_reducible apply State.lineApplied_only | with_reducible apply State.putFlowRx_only | with_reducible apply State.redDefer_only | with_reducible apply State.sendDefer_only | with_reducible apply Only.ite | dsimp only | split | (with_reducible refine Only.fst (by with_reducible assumption) ?_) | (with_reducible refine Only.snd (by with_reducible assumption) ?_))
  | succ fuel ih => simp only [State.drainHeld]; (repeat' first | with_reducible assumption | with_reducible apply ih | with_reducible assumption | exact Fits.trans (by decide +kernel) hK | exact hF | exact hP | exact hP _ | with_reducible apply State.lineDone_only | with_reducible apply State.applyLine_only | with_reducible apply State.lineApplied_only | with_reducible apply State.putFlowRx_only | with_reducible apply State.redDefer_only | with_reducible apply State.sendDefer_only | with_reducible apply Only.ite | dsimp only | split | (with_reducible refine Only.fst (by with_reducible assumption) ?_) | (with_reducible refine Only.snd (by with_reducible assumption) ?_))

theorem State.drainFlow_only {K : List Part} {F : FieldId → Prop} {P : PlotId → Prop} {s0 : State} (s : State) (f : FieldId) (src : Nat) (hK : Fits (([.free, .events, .hbm, .store, .hbmErr, .storeErr, .reg Reg.GWY_RED_STATUS.DEFERS, .reg Reg.GWY_STAT.ABSORBED, .reg Reg.GWY_STAT.DEFERS_SENT, .reg Reg.INJ_PT.ARM, .reg Reg.INJ_PT.DONE, .reg Reg.MEM_ECC_STAT.CORRECTED, .reg Reg.MEM_ECC_STAT.LAST_ADDR, .reg Reg.MEM_ECC_STAT.POISON_WRITES, .reg Reg.MEM_ECC_STAT.UNCORRECTED, .reg Reg.MEM_REPAIR_ENTRY.BANK] : List Part) ++ ([.reg Reg.MEM_REPAIR_ENTRY.CHANNEL, .reg Reg.MEM_REPAIR_ENTRY.PCH, .reg Reg.MEM_REPAIR_ENTRY.REASON, .reg Reg.MEM_REPAIR_ENTRY.RESULT, .reg Reg.MEM_REPAIR_ENTRY.ROW, .reg Reg.MEM_REPAIR_ENTRY.STACK, .reg Reg.MEM_REPAIR_ENTRY.VALID, .reg Reg.MIR_LOAD_STATUS.DIGEST, .reg Reg.MIR_LOAD_STATUS.GRANULES, .reg Reg.MIR_LOAD_STATUS.RESULT, .reg Reg.MIR_LOAD_STATUS.STATE, .reg Reg.MIR_LOAD_STATUS.USING_SRC1, .reg Reg.MIR_PART_STATUS.BUF_USED, .reg Reg.MIR_PART_STATUS.COMMITTED, .reg Reg.MIR_PART_STATUS.DIGEST, .reg Reg.MIR_PART_STATUS.RESULT] : List Part) ++ ([.reg Reg.MIR_PART_STATUS.STATE, .reg Reg.MIR_PART_STATUS.VALID, .plotReg Reg.PLT_STORE_ECC.CORRECTED, .plotReg Reg.PLT_STORE_ECC.LAST_ADDR, .plotReg Reg.PLT_STORE_ECC.UNCORRECTED, .memu, .router, .gateway, .health, .mirror] : List Part)) K) (hF : F f) (hP : ∀ p, P p)
    (ho : Only K F P s0 s) : Only K F P s0 (State.drainFlow s f src) := by
  unfold State.drainFlow
  repeat' first | with_reducible assumption | exact Fits.trans (by decide +kernel) hK | exact hF | exact hP | exact hP _ | with_reducible apply State.drainHeld_only | with_reducible apply Only.ite | dsimp only | split | (with_reducible refine Only.fst (by with_reducible assumption) ?_) | (with_reducible refine Only.snd (by with_reducible assumption) ?_)

theorem State.takeOrdered_only {K : List Part} {F : FieldId → Prop} {P : PlotId → Prop} {s0 : State} (s : State) (f : FieldId) (p : Packet) (hK : Fits (([.free, .events, .hbm, .store, .hbmErr, .storeErr, .reg Reg.GWY_RED_STATUS.DEFERS, .reg Reg.GWY_STAT.ABSORBED, .reg Reg.GWY_STAT.DEFERS_SENT, .reg Reg.INJ_PT.ARM, .reg Reg.INJ_PT.DONE, .reg Reg.MEM_ECC_STAT.CORRECTED, .reg Reg.MEM_ECC_STAT.LAST_ADDR, .reg Reg.MEM_ECC_STAT.POISON_WRITES, .reg Reg.MEM_ECC_STAT.UNCORRECTED, .reg Reg.MEM_REPAIR_ENTRY.BANK] : List Part) ++ ([.reg Reg.MEM_REPAIR_ENTRY.CHANNEL, .reg Reg.MEM_REPAIR_ENTRY.PCH, .reg Reg.MEM_REPAIR_ENTRY.REASON, .reg Reg.MEM_REPAIR_ENTRY.RESULT, .reg Reg.MEM_REPAIR_ENTRY.ROW, .reg Reg.MEM_REPAIR_ENTRY.STACK, .reg Reg.MEM_REPAIR_ENTRY.VALID, .reg Reg.MIR_LOAD_STATUS.DIGEST, .reg Reg.MIR_LOAD_STATUS.GRANULES, .reg Reg.MIR_LOAD_STATUS.RESULT, .reg Reg.MIR_LOAD_STATUS.STATE, .reg Reg.MIR_LOAD_STATUS.USING_SRC1, .reg Reg.MIR_PART_STATUS.BUF_USED, .reg Reg.MIR_PART_STATUS.COMMITTED, .reg Reg.MIR_PART_STATUS.DIGEST, .reg Reg.MIR_PART_STATUS.RESULT] : List Part) ++ ([.reg Reg.MIR_PART_STATUS.STATE, .reg Reg.MIR_PART_STATUS.VALID, .plotReg Reg.PLT_STORE_ECC.CORRECTED, .plotReg Reg.PLT_STORE_ECC.LAST_ADDR, .plotReg Reg.PLT_STORE_ECC.UNCORRECTED, .memu, .router, .gateway, .health, .mirror] : List Part)) K) (hF : F f) (hP : ∀ p, P p)
    (ho : Only K F P s0 s) : Only K F P s0 (State.takeOrdered s f p) := by
  unfold State.takeOrdered
  repeat' first | with_reducible assumption | exact Fits.trans (by decide +kernel) hK | exact hF | exact hP | exact hP _ | with_reducible apply State.sendAck_only | with_reducible apply State.applyLine_only | with_reducible apply State.drainFlow_only | with_reducible apply State.lineApplied_only | with_reducible apply State.queueServed_only | with_reducible apply State.updGw_only | with_reducible apply State.redDefer_only | with_reducible apply State.sendDefer_only | with_reducible apply State.slotTake_only | with_reducible apply State.setFlowRx_only | with_reducible apply Only.ite | dsimp only | split | (with_reducible refine Only.fst (by with_reducible assumption) ?_) | (with_reducible refine Only.snd (by with_reducible assumption) ?_)

theorem State.lineSeen_only {K : List Part} {F : FieldId → Prop} {P : PlotId → Prop} {s0 : State} (s : State) (f : FieldId) (src : Nat) (hK : Fits ([.gateway] : List Part) K) (hF : F f)
    (ho : Only K F P s0 s) : Only K F P s0 (State.lineSeen s f src) := by
  unfold State.lineSeen
  repeat' first | with_reducible assumption | exact Fits.trans (by decide +kernel) hK | exact hF | with_reducible apply State.updGw_only | with_reducible apply Only.ite | dsimp only | split | (with_reducible refine Only.fst (by with_reducible assumption) ?_) | (with_reducible refine Only.snd (by with_reducible assumption) ?_)

theorem State.orderedArrive_only {K : List Part} {F : FieldId → Prop} {P : PlotId → Prop} {s0 : State} (s : State) (f : FieldId) (p : Packet) (hK : Fits (([.free, .events, .hbm, .store, .hbmErr, .storeErr, .reg Reg.GWY_RED_STATUS.DEFERS, .reg Reg.GWY_STAT.ABSORBED, .reg Reg.GWY_STAT.DEFERS_SENT, .reg Reg.INJ_PT.ARM, .reg Reg.INJ_PT.DONE, .reg Reg.MEM_ECC_STAT.CORRECTED, .reg Reg.MEM_ECC_STAT.LAST_ADDR, .reg Reg.MEM_ECC_STAT.POISON_WRITES, .reg Reg.MEM_ECC_STAT.UNCORRECTED, .reg Reg.MEM_REPAIR_ENTRY.BANK] : List Part) ++ ([.reg Reg.MEM_REPAIR_ENTRY.CHANNEL, .reg Reg.MEM_REPAIR_ENTRY.PCH, .reg Reg.MEM_REPAIR_ENTRY.REASON, .reg Reg.MEM_REPAIR_ENTRY.RESULT, .reg Reg.MEM_REPAIR_ENTRY.ROW, .reg Reg.MEM_REPAIR_ENTRY.STACK, .reg Reg.MEM_REPAIR_ENTRY.VALID, .reg Reg.MIR_LOAD_STATUS.DIGEST, .reg Reg.MIR_LOAD_STATUS.GRANULES, .reg Reg.MIR_LOAD_STATUS.RESULT, .reg Reg.MIR_LOAD_STATUS.STATE, .reg Reg.MIR_LOAD_STATUS.USING_SRC1, .reg Reg.MIR_PART_STATUS.BUF_USED, .reg Reg.MIR_PART_STATUS.COMMITTED, .reg Reg.MIR_PART_STATUS.DIGEST, .reg Reg.MIR_PART_STATUS.RESULT] : List Part) ++ ([.reg Reg.MIR_PART_STATUS.STATE, .reg Reg.MIR_PART_STATUS.VALID, .plotReg Reg.PLT_STORE_ECC.CORRECTED, .plotReg Reg.PLT_STORE_ECC.LAST_ADDR, .plotReg Reg.PLT_STORE_ECC.UNCORRECTED, .memu, .router, .gateway, .health, .mirror] : List Part)) K) (hF : F f) (hP : ∀ p, P p)
    (ho : Only K F P s0 s) : Only K F P s0 (State.orderedArrive s f p) := by
  unfold State.orderedArrive
  repeat' first | with_reducible assumption | exact Fits.trans (by decide +kernel) hK | exact hF | exact hP | exact hP _ | with_reducible apply State.sendDefer_only | with_reducible apply State.injFire_only | with_reducible apply State.lineSeen_only | with_reducible apply State.updGw_only | with_reducible apply State.queueLeave_only | with_reducible apply State.putFlowRx_only | with_reducible apply State.takeOrdered_only | with_reducible apply Only.ite | dsimp only | split | (with_reducible refine Only.fst (by with_reducible assumption) ?_) | (with_reducible refine Only.snd (by with_reducible assumption) ?_)

theorem State.orderedRow_only {K : List Part} {F : FieldId → Prop} {P : PlotId → Prop} {s0 : State} (s : State) (f : FieldId) (kind : Nat) (p : Packet) (hK : Fits (([.free, .events, .hbm, .store, .hbmErr, .storeErr, .reg Reg.GWY_RED_STATUS.DEFERS, .reg Reg.GWY_STAT.ABSORBED, .reg Reg.GWY_STAT.DEFERS_SENT, .reg Reg.INJ_PT.ARM, .reg Reg.INJ_PT.DONE, .reg Reg.MEM_ECC_STAT.CORRECTED, .reg Reg.MEM_ECC_STAT.LAST_ADDR, .reg Reg.MEM_ECC_STAT.POISON_WRITES, .reg Reg.MEM_ECC_STAT.UNCORRECTED, .reg Reg.MEM_REPAIR_ENTRY.BANK] : List Part) ++ ([.reg Reg.MEM_REPAIR_ENTRY.CHANNEL, .reg Reg.MEM_REPAIR_ENTRY.PCH, .reg Reg.MEM_REPAIR_ENTRY.REASON, .reg Reg.MEM_REPAIR_ENTRY.RESULT, .reg Reg.MEM_REPAIR_ENTRY.ROW, .reg Reg.MEM_REPAIR_ENTRY.STACK, .reg Reg.MEM_REPAIR_ENTRY.VALID, .reg Reg.MIR_LOAD_STATUS.DIGEST, .reg Reg.MIR_LOAD_STATUS.GRANULES, .reg Reg.MIR_LOAD_STATUS.RESULT, .reg Reg.MIR_LOAD_STATUS.STATE, .reg Reg.MIR_LOAD_STATUS.USING_SRC1, .reg Reg.MIR_PART.ENABLE, .reg Reg.MIR_PART_STATUS.BUF_USED, .reg Reg.MIR_PART_STATUS.COMMITTED, .reg Reg.MIR_PART_STATUS.DIGEST] : List Part) ++ ([.reg Reg.MIR_PART_STATUS.RESULT, .reg Reg.MIR_PART_STATUS.STATE, .reg Reg.MIR_PART_STATUS.VALID, .reg Reg.MIR_SRC_STATUS.ACKED0, .reg Reg.MIR_SRC_STATUS.ACKED1, .reg Reg.MIR_SRC_STATUS.BREAKS, .reg Reg.MIR_SRC_STATUS.STATE, .reg Reg.RTE_DROP_CNT.FOREIGN, .reg Reg.RTE_DROP_CNT.MCAST_DROP, .plotReg Reg.PLT_STORE_ECC.CORRECTED, .plotReg Reg.PLT_STORE_ECC.LAST_ADDR, .plotReg Reg.PLT_STORE_ECC.UNCORRECTED, .memu, .lastRaise, .router, .gateway] : List Part) ++ ([.health, .mirror] : List Part)) K) (hF : F f) (hP : ∀ p, P p)
    (ho : Only K F P s0 s) : Ends K F P s0 (State.orderedRow s f kind p) := by
  unfold State.orderedRow
  repeat' first | with_reducible assumption | exact Fits.trans (by decide +kernel) hK | exact hF | exact hP | exact hP _ | with_reducible apply State.arrival_only | with_reducible apply State.mirSettle_only | with_reducible apply State.orderedArrive_only | with_reducible apply Ends.finish | with_reducible apply Ends.next | with_reducible apply Only.ite | with_reducible apply Ends.ite | dsimp only | split | (with_reducible refine Only.fst (by with_reducible assumption) ?_) | (with_reducible refine Only.snd (by with_reducible assumption) ?_)

theorem execPut_only {K : List Part} {F : FieldId → Prop} {P : PlotId → Prop} {s0 : State} (f : FieldId) (pkt : Packet) (s : State) (hK : Fits (([.free, .events, .hbm, .store, .hbmErr, .storeErr, .reg Reg.GWY_RED_STATUS.DEFERS, .reg Reg.GWY_STAT.ABSORBED, .reg Reg.GWY_STAT.DEFERS_SENT, .reg Reg.INJ_PT.ARM, .reg Reg.INJ_PT.DONE, .reg Reg.MEM_ECC_STAT.CORRECTED, .reg Reg.MEM_ECC_STAT.LAST_ADDR, .reg Reg.MEM_ECC_STAT.POISON_WRITES, .reg Reg.MEM_ECC_STAT.UNCORRECTED, .reg Reg.MEM_REPAIR_ENTRY.BANK] : List Part) ++ ([.reg Reg.MEM_REPAIR_ENTRY.CHANNEL, .reg Reg.MEM_REPAIR_ENTRY.PCH, .reg Reg.MEM_REPAIR_ENTRY.REASON, .reg Reg.MEM_REPAIR_ENTRY.RESULT, .reg Reg.MEM_REPAIR_ENTRY.ROW, .reg Reg.MEM_REPAIR_ENTRY.STACK, .reg Reg.MEM_REPAIR_ENTRY.VALID, .reg Reg.MIR_LOAD_STATUS.DIGEST, .reg Reg.MIR_LOAD_STATUS.GRANULES, .reg Reg.MIR_LOAD_STATUS.RESULT, .reg Reg.MIR_LOAD_STATUS.STATE, .reg Reg.MIR_LOAD_STATUS.USING_SRC1, .reg Reg.MIR_PART.ENABLE, .reg Reg.MIR_PART_STATUS.BUF_USED, .reg Reg.MIR_PART_STATUS.COMMITTED, .reg Reg.MIR_PART_STATUS.DIGEST] : List Part) ++ ([.reg Reg.MIR_PART_STATUS.RESULT, .reg Reg.MIR_PART_STATUS.STATE, .reg Reg.MIR_PART_STATUS.VALID, .reg Reg.MIR_SRC_STATUS.ACKED0, .reg Reg.MIR_SRC_STATUS.ACKED1, .reg Reg.MIR_SRC_STATUS.BREAKS, .reg Reg.MIR_SRC_STATUS.STATE, .reg Reg.RTE_DROP_CNT.FOREIGN, .reg Reg.RTE_DROP_CNT.MCAST_DROP, .plotReg Reg.PLT_STORE_ECC.CORRECTED, .plotReg Reg.PLT_STORE_ECC.LAST_ADDR, .plotReg Reg.PLT_STORE_ECC.UNCORRECTED, .memu, .lastRaise, .router, .gateway] : List Part) ++ ([.health, .mirror] : List Part)) K) (hF : F f) (hP : ∀ p, P p)
    (ho : Only K F P s0 s) : Ends K F P s0 (execPut f pkt s) := by
  unfold execPut
  repeat' first | with_reducible assumption | exact Fits.trans (by decide +kernel) hK | exact hF | exact hP | exact hP _ | with_reducible apply Ends.inRim | with_reducible apply State.orderedRow_only | with_reducible apply Ends.finish | with_reducible apply Ends.next | with_reducible apply Only.ite | with_reducible apply Ends.ite | dsimp only | split | (with_reducible refine Only.fst (by with_reducible assumption) ?_) | (with_reducible refine Only.snd (by with_reducible assumption) ?_)

theorem execPutPartial_only {K : List Part} {F : FieldId → Prop} {P : PlotId → Prop} {s0 : State} (f : FieldId) (pkt : Packet) (s : State) (hK : Fits (([.free, .events, .hbm, .store, .hbmErr, .storeErr, .reg Reg.GWY_RED_STATUS.DEFERS, .reg Reg.GWY_STAT.ABSORBED, .reg Reg.GWY_STAT.DEFERS_SENT, .reg Reg.INJ_PT.ARM, .reg Reg.INJ_PT.DONE, .reg Reg.MEM_ECC_STAT.CORRECTED, .reg Reg.MEM_ECC_STAT.LAST_ADDR, .reg Reg.MEM_ECC_STAT.POISON_WRITES, .reg Reg.MEM_ECC_STAT.UNCORRECTED, .reg Reg.MEM_REPAIR_ENTRY.BANK] : List Part) ++ ([.reg Reg.MEM_REPAIR_ENTRY.CHANNEL, .reg Reg.MEM_REPAIR_ENTRY.PCH, .reg Reg.MEM_REPAIR_ENTRY.REASON, .reg Reg.MEM_REPAIR_ENTRY.RESULT, .reg Reg.MEM_REPAIR_ENTRY.ROW, .reg Reg.MEM_REPAIR_ENTRY.STACK, .reg Reg.MEM_REPAIR_ENTRY.VALID, .reg Reg.MIR_LOAD_STATUS.DIGEST, .reg Reg.MIR_LOAD_STATUS.GRANULES, .reg Reg.MIR_LOAD_STATUS.RESULT, .reg Reg.MIR_LOAD_STATUS.STATE, .reg Reg.MIR_LOAD_STATUS.USING_SRC1, .reg Reg.MIR_PART.ENABLE, .reg Reg.MIR_PART_STATUS.BUF_USED, .reg Reg.MIR_PART_STATUS.COMMITTED, .reg Reg.MIR_PART_STATUS.DIGEST] : List Part) ++ ([.reg Reg.MIR_PART_STATUS.RESULT, .reg Reg.MIR_PART_STATUS.STATE, .reg Reg.MIR_PART_STATUS.VALID, .reg Reg.MIR_SRC_STATUS.ACKED0, .reg Reg.MIR_SRC_STATUS.ACKED1, .reg Reg.MIR_SRC_STATUS.BREAKS, .reg Reg.MIR_SRC_STATUS.STATE, .reg Reg.RTE_DROP_CNT.FOREIGN, .reg Reg.RTE_DROP_CNT.MCAST_DROP, .plotReg Reg.PLT_STORE_ECC.CORRECTED, .plotReg Reg.PLT_STORE_ECC.LAST_ADDR, .plotReg Reg.PLT_STORE_ECC.UNCORRECTED, .memu, .lastRaise, .router, .gateway] : List Part) ++ ([.health, .mirror] : List Part)) K) (hF : F f) (hP : ∀ p, P p)
    (ho : Only K F P s0 s) : Ends K F P s0 (execPutPartial f pkt s) := by
  unfold execPutPartial
  repeat' first | with_reducible assumption | exact Fits.trans (by decide +kernel) hK | exact hF | exact hP | exact hP _ | with_reducible apply Ends.inRim | with_reducible apply State.orderedRow_only | with_reducible apply Ends.finish | with_reducible apply Ends.next | with_reducible apply Only.ite | with_reducible apply Ends.ite | dsimp only | split | (with_reducible refine Only.fst (by with_reducible assumption) ?_) | (with_reducible refine Only.snd (by with_reducible assumption) ?_)

theorem execPutReduce_only {K : List Part} {F : FieldId → Prop} {P : PlotId → Prop} {s0 : State} (f : FieldId) (pkt : Packet) (s : State) (hK : Fits (([.free, .events, .hbm, .store, .hbmErr, .storeErr, .reg Reg.GWY_RED_STATUS.DEFERS, .reg Reg.GWY_STAT.ABSORBED, .reg Reg.GWY_STAT.DEFERS_SENT, .reg Reg.INJ_PT.ARM, .reg Reg.INJ_PT.DONE, .reg Reg.MEM_ECC_STAT.CORRECTED, .reg Reg.MEM_ECC_STAT.LAST_ADDR, .reg Reg.MEM_ECC_STAT.POISON_WRITES, .reg Reg.MEM_ECC_STAT.UNCORRECTED, .reg Reg.MEM_REPAIR_ENTRY.BANK] : List Part) ++ ([.reg Reg.MEM_REPAIR_ENTRY.CHANNEL, .reg Reg.MEM_REPAIR_ENTRY.PCH, .reg Reg.MEM_REPAIR_ENTRY.REASON, .reg Reg.MEM_REPAIR_ENTRY.RESULT, .reg Reg.MEM_REPAIR_ENTRY.ROW, .reg Reg.MEM_REPAIR_ENTRY.STACK, .reg Reg.MEM_REPAIR_ENTRY.VALID, .reg Reg.MIR_LOAD_STATUS.DIGEST, .reg Reg.MIR_LOAD_STATUS.GRANULES, .reg Reg.MIR_LOAD_STATUS.RESULT, .reg Reg.MIR_LOAD_STATUS.STATE, .reg Reg.MIR_LOAD_STATUS.USING_SRC1, .reg Reg.MIR_PART.ENABLE, .reg Reg.MIR_PART_STATUS.BUF_USED, .reg Reg.MIR_PART_STATUS.COMMITTED, .reg Reg.MIR_PART_STATUS.DIGEST] : List Part) ++ ([.reg Reg.MIR_PART_STATUS.RESULT, .reg Reg.MIR_PART_STATUS.STATE, .reg Reg.MIR_PART_STATUS.VALID, .reg Reg.MIR_SRC_STATUS.ACKED0, .reg Reg.MIR_SRC_STATUS.ACKED1, .reg Reg.MIR_SRC_STATUS.BREAKS, .reg Reg.MIR_SRC_STATUS.STATE, .reg Reg.RTE_DROP_CNT.FOREIGN, .reg Reg.RTE_DROP_CNT.MCAST_DROP, .plotReg Reg.PLT_STORE_ECC.CORRECTED, .plotReg Reg.PLT_STORE_ECC.LAST_ADDR, .plotReg Reg.PLT_STORE_ECC.UNCORRECTED, .memu, .lastRaise, .router, .gateway] : List Part) ++ ([.health, .mirror] : List Part)) K) (hF : F f) (hP : ∀ p, P p)
    (ho : Only K F P s0 s) : Ends K F P s0 (execPutReduce f pkt s) := by
  unfold execPutReduce
  repeat' first | with_reducible assumption | exact Fits.trans (by decide +kernel) hK | exact hF | exact hP | exact hP _ | with_reducible apply Ends.inRim | with_reducible apply State.orderedRow_only | with_reducible apply Ends.finish | with_reducible apply Ends.next | with_reducible apply Only.ite | with_reducible apply Ends.ite | dsimp only | split | (with_reducible refine Only.fst (by with_reducible assumption) ?_) | (with_reducible refine Only.snd (by with_reducible assumption) ?_)

theorem State.combMark_only {K : List Part} {F : FieldId → Prop} {P : PlotId → Prop} {s0 : State} (s : State) (f : FieldId) (c : Nat × Nat × Nat) (hK : Fits ([.gateway] : List Part) K) (hF : F f)
    (ho : Only K F P s0 s) : Only K F P s0 (State.combMark s f c).1 := by
  unfold State.combMark
  repeat' first | with_reducible assumption | exact Fits.trans (by decide +kernel) hK | exact hF | with_reducible apply State.queueServed_only | with_reducible apply State.setFlowRx_only | with_reducible apply State.slotTake_only | with_reducible apply Only.ite | dsimp only | split | (with_reducible refine Only.fst (by with_reducible assumption) ?_) | (with_reducible refine Only.snd (by with_reducible assumption) ?_)

theorem State.combEntry_only {K : List Part} {F : FieldId → Prop} {P : PlotId → Prop} {s0 : State} (s : State) (f : FieldId) (may : Bool) (p : Packet) (hK : Fits (([.events, .hbmErr, .reg Reg.INJ_PT.ARM, .reg Reg.INJ_PT.DONE, .reg Reg.MEM_ECC_STAT.CORRECTED, .reg Reg.MEM_ECC_STAT.LAST_ADDR, .reg Reg.MEM_ECC_STAT.UNCORRECTED, .reg Reg.MEM_REPAIR_ENTRY.BANK, .reg Reg.MEM_REPAIR_ENTRY.CHANNEL, .reg Reg.MEM_REPAIR_ENTRY.PCH, .reg Reg.MEM_REPAIR_ENTRY.REASON, .reg Reg.MEM_REPAIR_ENTRY.RESULT, .reg Reg.MEM_REPAIR_ENTRY.ROW, .reg Reg.MEM_REPAIR_ENTRY.STACK, .reg Reg.MEM_REPAIR_ENTRY.VALID, .memu] : List Part) ++ ([.gateway, .health] : List Part)) K) (hF : F f)
    (ho : Only K F P s0 s) : Only K F P s0 (State.combEntry s f may p).1 := by
  unfold State.combEntry
  repeat' first | with_reducible assumption | exact Fits.trans (by decide +kernel) hK | exact hF | with_reducible apply State.redCreate_only | with_reducible apply Only.ite | dsimp only | split | (with_reducible refine Only.fst (by with_reducible assumption) ?_) | (with_reducible refine Only.snd (by with_reducible assumption) ?_)

theorem State.combRefuse_only {K : List Part} {F : FieldId → Prop} {P : PlotId → Prop} {s0 : State} (s : State) (f : FieldId) (p : Packet) (noEntry : Bool) (c : Nat × Nat × Nat) (hK : Fits ([.events, .reg Reg.GWY_RED_STATUS.DEFERS, .reg Reg.GWY_STAT.DEFERS_SENT, .router, .gateway] : List Part) K) (hF : F f)
    (ho : Only K F P s0 s) : Only K F P s0 (State.combRefuse s f p noEntry c) := by
  unfold State.combRefuse
  repeat' first | with_reducible assumption | exact Fits.trans (by decide +kernel) hK | exact hF | with_reducible apply State.sendAck_only | with_reducible apply State.redDefer_only | with_reducible apply State.placeAge_only | with_reducible apply State.slotTake_only | with_reducible apply State.sendDeferTo_only | with_reducible apply Only.ite | dsimp only | split | (with_reducible refine Only.fst (by with_reducible assumption) ?_) | (with_reducible refine Only.snd (by with_reducible assumption) ?_)

theorem State.combArrive_only {K : List Part} {F : FieldId → Prop} {P : PlotId → Prop} {s0 : State} (s0' : State) (f : FieldId) (p : Packet) (hK : Fits (([.free, .events, .hbm, .store, .hbmErr, .storeErr, .reg Reg.GWY_RED_STATUS.DEFERS, .reg Reg.GWY_STAT.ABSORBED, .reg Reg.GWY_STAT.COMB_APPLIED, .reg Reg.GWY_STAT.COMB_DISCARD, .reg Reg.GWY_STAT.DEFERS_SENT, .reg Reg.INJ_PT.ARM, .reg Reg.INJ_PT.DONE, .reg Reg.MEM_ECC_STAT.CORRECTED, .reg Reg.MEM_ECC_STAT.LAST_ADDR, .reg Reg.MEM_ECC_STAT.POISON_WRITES] : List Part) ++ ([.reg Reg.MEM_ECC_STAT.UNCORRECTED, .reg Reg.MEM_REPAIR_ENTRY.BANK, .reg Reg.MEM_REPAIR_ENTRY.CHANNEL, .reg Reg.MEM_REPAIR_ENTRY.PCH, .reg Reg.MEM_REPAIR_ENTRY.REASON, .reg Reg.MEM_REPAIR_ENTRY.RESULT, .reg Reg.MEM_REPAIR_ENTRY.ROW, .reg Reg.MEM_REPAIR_ENTRY.STACK, .reg Reg.MEM_REPAIR_ENTRY.VALID, .reg Reg.MIR_LOAD_STATUS.DIGEST, .reg Reg.MIR_LOAD_STATUS.GRANULES, .reg Reg.MIR_LOAD_STATUS.RESULT, .reg Reg.MIR_LOAD_STATUS.STATE, .reg Reg.MIR_LOAD_STATUS.USING_SRC1, .reg Reg.MIR_PART_STATUS.BUF_USED, .reg Reg.MIR_PART_STATUS.COMMITTED] : List Part) ++ ([.reg Reg.MIR_PART_STATUS.DIGEST, .reg Reg.MIR_PART_STATUS.RESULT, .reg Reg.MIR_PART_STATUS.STATE, .reg Reg.MIR_PART_STATUS.VALID, .plotReg Reg.PLT_STORE_ECC.CORRECTED, .plotReg Reg.PLT_STORE_ECC.LAST_ADDR, .plotReg Reg.PLT_STORE_ECC.UNCORRECTED, .memu, .router, .gateway, .health, .mirror] : List Part)) K) (hF : F f) (hP : ∀ p, P p)
    (ho : Only K F P s0 s0') : Only K F P s0 (State.combArrive s0' f p) := by
  unfold State.combArrive
  repeat' first | with_reducible assumption | exact Fits.trans (by decide +kernel) hK | exact hF | exact hP | exact hP _ | with_reducible apply State.lineSeen_only | with_reducible apply State.sendAck_only | with_reducible apply State.sendDeferTo_only | with_reducible apply State.fcount_only | with_reducible apply State.injFire_only | with_reducible apply State.combMark_only | with_reducible apply State.combEntry_only | with_reducible apply State.fwrap_only | with_reducible apply State.redOverflow_only | with_reducible apply State.setRed_only | with_reducible apply State.drainFlow_only | with_reducible apply State.combRefuse_only | with_reducible apply Only.ite | dsimp only | split | (with_reducible refine Only.foldl _ _ (fun t a ht => ?_) ?_) | (with_reducible refine Only.foldl_fst _ _ _ (fun t a ht => ?_) ?_) | (with_reducible refine Only.fst (by with_reducible assumption) ?_) | (with_reducible refine Only.snd (by with_reducible assumption) ?_)

theorem execPutReduceComb_only {K : List Part} {F : FieldId → Prop} {P : PlotId → Prop} {s0 : State} (f : FieldId) (pkt : Packet) (s : State) (hK : Fits (([.free, .events, .hbm, .store, .hbmErr, .storeErr, .reg Reg.GWY_RED_STATUS.DEFERS, .reg Reg.GWY_STAT.ABSORBED, .reg Reg.GWY_STAT.COMB_APPLIED, .reg Reg.GWY_STAT.COMB_DISCARD, .reg Reg.GWY_STAT.DEFERS_SENT, .reg Reg.INJ_PT.ARM, .reg Reg.INJ_PT.DONE, .reg Reg.MEM_ECC_STAT.CORRECTED, .reg Reg.MEM_ECC_STAT.LAST_ADDR, .reg Reg.MEM_ECC_STAT.POISON_WRITES] : List Part) ++ ([.reg Reg.MEM_ECC_STAT.UNCORRECTED, .reg Reg.MEM_REPAIR_ENTRY.BANK, .reg Reg.MEM_REPAIR_ENTRY.CHANNEL, .reg Reg.MEM_REPAIR_ENTRY.PCH, .reg Reg.MEM_REPAIR_ENTRY.REASON, .reg Reg.MEM_REPAIR_ENTRY.RESULT, .reg Reg.MEM_REPAIR_ENTRY.ROW, .reg Reg.MEM_REPAIR_ENTRY.STACK, .reg Reg.MEM_REPAIR_ENTRY.VALID, .reg Reg.MIR_LOAD_STATUS.DIGEST, .reg Reg.MIR_LOAD_STATUS.GRANULES, .reg Reg.MIR_LOAD_STATUS.RESULT, .reg Reg.MIR_LOAD_STATUS.STATE, .reg Reg.MIR_LOAD_STATUS.USING_SRC1, .reg Reg.MIR_PART_STATUS.BUF_USED, .reg Reg.MIR_PART_STATUS.COMMITTED] : List Part) ++ ([.reg Reg.MIR_PART_STATUS.DIGEST, .reg Reg.MIR_PART_STATUS.RESULT, .reg Reg.MIR_PART_STATUS.STATE, .reg Reg.MIR_PART_STATUS.VALID, .reg Reg.RTE_DROP_CNT.FOREIGN, .reg Reg.RTE_DROP_CNT.MCAST_DROP, .plotReg Reg.PLT_STORE_ECC.CORRECTED, .plotReg Reg.PLT_STORE_ECC.LAST_ADDR, .plotReg Reg.PLT_STORE_ECC.UNCORRECTED, .memu, .lastRaise, .router, .gateway, .health, .mirror] : List Part)) K) (hF : F f) (hP : ∀ p, P p)
    (ho : Only K F P s0 s) : Ends K F P s0 (execPutReduceComb f pkt s) := by
  unfold execPutReduceComb
  repeat' first | with_reducible assumption | exact Fits.trans (by decide +kernel) hK | exact hF | exact hP | exact hP _ | with_reducible apply Ends.inRim | with_reducible apply State.arrival_only | with_reducible apply State.combArrive_only | with_reducible apply Ends.finish | with_reducible apply Ends.next | with_reducible apply Only.ite | with_reducible apply Ends.ite | dsimp only | split | (with_reducible refine Only.fst (by with_reducible assumption) ?_) | (with_reducible refine Only.snd (by with_reducible assumption) ?_)

theorem execPutReduceResume_only {K : List Part} {F : FieldId → Prop} {P : PlotId → Prop} {s0 : State} (f : FieldId) (s : State) (hK : Fits (([.free, .events, .hbm, .store, .hbmErr, .storeErr, .reg Reg.GWY_RED_STATUS.DEFERS, .reg Reg.GWY_STAT.ABSORBED, .reg Reg.GWY_STAT.DEFERS_SENT, .reg Reg.INJ_PT.ARM, .reg Reg.INJ_PT.DONE, .reg Reg.MEM_ECC_STAT.CORRECTED, .reg Reg.MEM_ECC_STAT.LAST_ADDR, .reg Reg.MEM_ECC_STAT.POISON_WRITES, .reg Reg.MEM_ECC_STAT.UNCORRECTED, .reg Reg.MEM_REPAIR_ENTRY.BANK] : List Part) ++ ([.reg Reg.MEM_REPAIR_ENTRY.CHANNEL, .reg Reg.MEM_REPAIR_ENTRY.PCH, .reg Reg.MEM_REPAIR_ENTRY.REASON, .reg Reg.MEM_REPAIR_ENTRY.RESULT, .reg Reg.MEM_REPAIR_ENTRY.ROW, .reg Reg.MEM_REPAIR_ENTRY.STACK, .reg Reg.MEM_REPAIR_ENTRY.VALID, .reg Reg.MIR_LOAD_STATUS.DIGEST, .reg Reg.MIR_LOAD_STATUS.GRANULES, .reg Reg.MIR_LOAD_STATUS.RESULT, .reg Reg.MIR_LOAD_STATUS.STATE, .reg Reg.MIR_LOAD_STATUS.USING_SRC1, .reg Reg.MIR_PART_STATUS.BUF_USED, .reg Reg.MIR_PART_STATUS.COMMITTED, .reg Reg.MIR_PART_STATUS.DIGEST, .reg Reg.MIR_PART_STATUS.RESULT] : List Part) ++ ([.reg Reg.MIR_PART_STATUS.STATE, .reg Reg.MIR_PART_STATUS.VALID, .plotReg Reg.PLT_STORE_ECC.CORRECTED, .plotReg Reg.PLT_STORE_ECC.LAST_ADDR, .plotReg Reg.PLT_STORE_ECC.UNCORRECTED, .memu, .router, .gateway, .health, .mirror] : List Part)) K) (hF : F f) (hP : ∀ p, P p)
    (ho : Only K F P s0 s) : Ends K F P s0 (execPutReduceResume f s) := by
  unfold execPutReduceResume
  repeat' first | with_reducible assumption | exact Fits.trans (by decide +kernel) hK | exact hF | exact hP | exact hP _ | with_reducible apply Ends.inRim | with_reducible apply State.takeOrdered_only | with_reducible apply State.updGw_only | with_reducible apply State.drainFlow_only | with_reducible apply Ends.finish | with_reducible apply Ends.next | with_reducible apply Only.ite | with_reducible apply Ends.ite | dsimp only | split | (with_reducible refine Only.foldl _ _ (fun t a ht => ?_) ?_) | (with_reducible refine Only.foldl_fst _ _ _ (fun t a ht => ?_) ?_) | (with_reducible refine Only.fst (by with_reducible assumption) ?_) | (with_reducible refine Only.snd (by with_reducible assumption) ?_)

theorem execGet_only {K : List Part} {F : FieldId → Prop} {P : PlotId → Prop} {s0 : State} (f : FieldId) (pkt : Packet) (s : State) (hK : Fits (([.events, .hbmErr, .storeErr, .reg Reg.INJ_PT.ARM, .reg Reg.INJ_PT.DONE, .reg Reg.MEM_ECC_STAT.CORRECTED, .reg Reg.MEM_ECC_STAT.LAST_ADDR, .reg Reg.MEM_ECC_STAT.UNCORRECTED, .reg Reg.MEM_REPAIR_ENTRY.BANK, .reg Reg.MEM_REPAIR_ENTRY.CHANNEL, .reg Reg.MEM_REPAIR_ENTRY.PCH, .reg Reg.MEM_REPAIR_ENTRY.REASON, .reg Reg.MEM_REPAIR_ENTRY.RESULT, .reg Reg.MEM_REPAIR_ENTRY.ROW, .reg Reg.MEM_REPAIR_ENTRY.STACK, .reg Reg.MEM_REPAIR_ENTRY.VALID] : List Part) ++ ([.reg Reg.RTE_DROP_CNT.FOREIGN, .reg Reg.RTE_DROP_CNT.MCAST_DROP, .plotReg Reg.PLT_STORE_ECC.CORRECTED, .plotReg Reg.PLT_STORE_ECC.LAST_ADDR, .plotReg Reg.PLT_STORE_ECC.UNCORRECTED, .memu, .lastRaise, .router, .health] : List Part)) K) (hF : F f) (hP : ∀ p, P p)
    (ho : Only K F P s0 s) : Ends K F P s0 (execGet f pkt s) := by
  unfold execGet
  repeat' first | with_reducible assumption | exact Fits.trans (by decide +kernel) hK | exact hF | exact hP | exact hP _ | with_reducible apply Ends.inRim | with_reducible apply State.arrival_only | with_reducible apply State.targetRead_only | with_reducible apply State.respond_only | with_reducible apply Ends.finish | with_reducible apply Ends.next | with_reducible apply Only.ite | with_reducible apply Ends.ite | dsimp only | split | (with_reducible refine Only.fst (by with_reducible assumption) ?_) | (with_reducible refine Only.snd (by with_reducible assumption) ?_)

theorem execMcastPut_only {K : List Part} {F : FieldId → Prop} {P : PlotId → Prop} {s0 : State} (f : FieldId) (pkt : Packet) (s : State) (hK : Fits (([.events, .hbm, .store, .hbmErr, .storeErr, .reg Reg.GWY_STAT.ABSORBED, .reg Reg.INJ_PT.ARM, .reg Reg.INJ_PT.DONE, .reg Reg.MEM_ECC_STAT.CORRECTED, .reg Reg.MEM_ECC_STAT.LAST_ADDR, .reg Reg.MEM_ECC_STAT.POISON_WRITES, .reg Reg.MEM_ECC_STAT.UNCORRECTED, .reg Reg.MEM_REPAIR_ENTRY.BANK, .reg Reg.MEM_REPAIR_ENTRY.CHANNEL, .reg Reg.MEM_REPAIR_ENTRY.PCH, .reg Reg.MEM_REPAIR_ENTRY.REASON] : List Part) ++ ([.reg Reg.MEM_REPAIR_ENTRY.RESULT, .reg Reg.MEM_REPAIR_ENTRY.ROW, .reg Reg.MEM_REPAIR_ENTRY.STACK, .reg Reg.MEM_REPAIR_ENTRY.VALID, .reg Reg.RTE_DROP_CNT.FOREIGN, .reg Reg.RTE_DROP_CNT.MCAST_DROP, .plotReg Reg.PLT_STORE_ECC.CORRECTED, .plotReg Reg.PLT_STORE_ECC.LAST_ADDR, .plotReg Reg.PLT_STORE_ECC.UNCORRECTED, .memu, .lastRaise, .router, .health] : List Part)) K) (hF : F f) (hP : ∀ p, P p)
    (ho : Only K F P s0 s) : Ends K F P s0 (execMcastPut f pkt s) := by
  unfold execMcastPut
  repeat' first | with_reducible assumption | exact Fits.trans (by decide +kernel) hK | exact hF | exact hP | exact hP _ | with_reducible apply Ends.inRim | with_reducible apply State.arrival_only | with_reducible apply State.targetWrite_only | with_reducible apply State.respond_only | with_reducible apply Ends.finish | with_reducible apply Ends.next | with_reducible apply Only.ite | with_reducible apply Ends.ite | dsimp only | split | (with_reducible refine Only.fst (by with_reducible assumption) ?_) | (with_reducible refine Only.snd (by with_reducible assumption) ?_)

theorem State.atomicAnswer_only {K : List Part} {F : FieldId → Prop} {P : PlotId → Prop} {s0 : State} (s : State) (f : FieldId) (p : Packet) (a : AtomicResp) (hK : Fits ([.router] : List Part) K) (hF : F f)
    (ho : Only K F P s0 s) : Only K F P s0 (State.atomicAnswer s f p a) := by
  unfold State.atomicAnswer
  repeat' first | with_reducible assumption | exact Fits.trans (by decide +kernel) hK | exact hF | with_reducible apply State.respond_only | with_reducible apply Only.ite | dsimp only | split | (with_reducible refine Only.fst (by with_reducible assumption) ?_) | (with_reducible refine Only.snd (by with_reducible assumption) ?_)

theorem State.atomicPerform_only {K : List Part} {F : FieldId → Prop} {P : PlotId → Prop} {s0 : State} (s : State) (f : FieldId) (p : Packet) (hK : Fits (([.events, .hbm, .hbmErr, .reg Reg.GWY_STAT.ABSORBED, .reg Reg.INJ_PT.ARM, .reg Reg.INJ_PT.DONE, .reg Reg.MEM_ECC_STAT.CORRECTED, .reg Reg.MEM_ECC_STAT.LAST_ADDR, .reg Reg.MEM_ECC_STAT.POISON_WRITES, .reg Reg.MEM_ECC_STAT.UNCORRECTED, .reg Reg.MEM_REPAIR_ENTRY.BANK, .reg Reg.MEM_REPAIR_ENTRY.CHANNEL, .reg Reg.MEM_REPAIR_ENTRY.PCH, .reg Reg.MEM_REPAIR_ENTRY.REASON, .reg Reg.MEM_REPAIR_ENTRY.RESULT, .reg Reg.MEM_REPAIR_ENTRY.ROW] : List Part) ++ ([.reg Reg.MEM_REPAIR_ENTRY.STACK, .reg Reg.MEM_REPAIR_ENTRY.VALID, .memu, .health] : List Part)) K) (hF : F f)
    (ho : Only K F P s0 s) : Only K F P s0 (State.atomicPerform s f p).1 := by
  unfold State.atomicPerform
  repeat' first | with_reducible assumption | exact Fits.trans (by decide +kernel) hK | exact hF | with_reducible apply State.hbmRead_only | with_reducible apply State.hbmWrite_only | with_reducible apply Only.ite | dsimp only | split | (with_reducible refine Only.fst (by with_reducible assumption) ?_) | (with_reducible refine Only.snd (by with_reducible assumption) ?_)

theorem State.atomicArrive_only {K : List Part} {F : FieldId → Prop} {P : PlotId → Prop} {s0 : State} (s : State) (f : FieldId) (p : Packet) (hK : Fits (([.events, .hbm, .hbmErr, .reg Reg.GWY_STAT.ABSORBED, .reg Reg.GWY_STAT.DEFERS_SENT, .reg Reg.INJ_PT.ARM, .reg Reg.INJ_PT.DONE, .reg Reg.MEM_ECC_STAT.CORRECTED, .reg Reg.MEM_ECC_STAT.LAST_ADDR, .reg Reg.MEM_ECC_STAT.POISON_WRITES, .reg Reg.MEM_ECC_STAT.UNCORRECTED, .reg Reg.MEM_REPAIR_ENTRY.BANK, .reg Reg.MEM_REPAIR_ENTRY.CHANNEL, .reg Reg.MEM_REPAIR_ENTRY.PCH, .reg Reg.MEM_REPAIR_ENTRY.REASON, .reg Reg.MEM_REPAIR_ENTRY.RESULT] : List Part) ++ ([.reg Reg.MEM_REPAIR_ENTRY.ROW, .reg Reg.MEM_REPAIR_ENTRY.STACK, .reg Reg.MEM_REPAIR_ENTRY.VALID, .memu, .router, .gateway, .health] : List Part)) K) (hF : F f)
    (ho : Only K F P s0 s) : Only K F P s0 (State.atomicArrive s f p) := by
  unfold State.atomicArrive
  repeat' first | with_reducible assumption | exact Fits.trans (by decide +kernel) hK | exact hF | with_reducible apply State.atomicAnswer_only | with_reducible apply State.sendDefer_only | with_reducible apply State.atomicPerform_only | with_reducible apply State.updGw_only | with_reducible apply Only.ite | dsimp only | split | (with_reducible refine Only.fst (by with_reducible assumption) ?_) | (with_reducible refine Only.snd (by with_reducible assumption) ?_)

theorem execFetchAdd_only {K : List Part} {F : FieldId → Prop} {P : PlotId → Prop} {s0 : State} (f : FieldId) (pkt : Packet) (s : State) (hK : Fits (([.events, .hbm, .hbmErr, .reg Reg.GWY_STAT.ABSORBED, .reg Reg.GWY_STAT.DEFERS_SENT, .reg Reg.INJ_PT.ARM, .reg Reg.INJ_PT.DONE, .reg Reg.MEM_ECC_STAT.CORRECTED, .reg Reg.MEM_ECC_STAT.LAST_ADDR, .reg Reg.MEM_ECC_STAT.POISON_WRITES, .reg Reg.MEM_ECC_STAT.UNCORRECTED, .reg Reg.MEM_REPAIR_ENTRY.BANK, .reg Reg.MEM_REPAIR_ENTRY.CHANNEL, .reg Reg.MEM_REPAIR_ENTRY.PCH, .reg Reg.MEM_REPAIR_ENTRY.REASON, .reg Reg.MEM_REPAIR_ENTRY.RESULT] : List Part) ++ ([.reg Reg.MEM_REPAIR_ENTRY.ROW, .reg Reg.MEM_REPAIR_ENTRY.STACK, .reg Reg.MEM_REPAIR_ENTRY.VALID, .reg Reg.RTE_DROP_CNT.FOREIGN, .reg Reg.RTE_DROP_CNT.MCAST_DROP, .memu, .lastRaise, .router, .gateway, .health] : List Part)) K) (hF : F f)
    (ho : Only K F P s0 s) : Ends K F P s0 (execFetchAdd f pkt s) := by
  unfold execFetchAdd
  repeat' first | with_reducible assumption | exact Fits.trans (by decide +kernel) hK | exact hF | with_reducible apply Ends.inRim | with_reducible apply State.arrival_only | with_reducible apply State.atomicArrive_only | with_reducible apply Ends.finish | with_reducible apply Ends.next | with_reducible apply Only.ite | with_reducible apply Ends.ite | dsimp only | split | (with_reducible refine Only.fst (by with_reducible assumption) ?_) | (with_reducible refine Only.snd (by with_reducible assumption) ?_)

theorem execCompareSwap_only {K : List Part} {F : FieldId → Prop} {P : PlotId → Prop} {s0 : State} (f : FieldId) (pkt : Packet) (s : State) (hK : Fits (([.events, .hbm, .hbmErr, .reg Reg.GWY_STAT.ABSORBED, .reg Reg.GWY_STAT.DEFERS_SENT, .reg Reg.INJ_PT.ARM, .reg Reg.INJ_PT.DONE, .reg Reg.MEM_ECC_STAT.CORRECTED, .reg Reg.MEM_ECC_STAT.LAST_ADDR, .reg Reg.MEM_ECC_STAT.POISON_WRITES, .reg Reg.MEM_ECC_STAT.UNCORRECTED, .reg Reg.MEM_REPAIR_ENTRY.BANK, .reg Reg.MEM_REPAIR_ENTRY.CHANNEL, .reg Reg.MEM_REPAIR_ENTRY.PCH, .reg Reg.MEM_REPAIR_ENTRY.REASON, .reg Reg.MEM_REPAIR_ENTRY.RESULT] : List Part) ++ ([.reg Reg.MEM_REPAIR_ENTRY.ROW, .reg Reg.MEM_REPAIR_ENTRY.STACK, .reg Reg.MEM_REPAIR_ENTRY.VALID, .reg Reg.RTE_DROP_CNT.FOREIGN, .reg Reg.RTE_DROP_CNT.MCAST_DROP, .memu, .lastRaise, .router, .gateway, .health] : List Part)) K) (hF : F f)
    (ho : Only K F P s0 s) : Ends K F P s0 (execCompareSwap f pkt s) := by
  unfold execCompareSwap
  repeat' first | with_reducible assumption | exact Fits.trans (by decide +kernel) hK | exact hF | with_reducible apply Ends.inRim | with_reducible apply State.arrival_only | with_reducible apply State.atomicArrive_only | with_reducible apply Ends.finish | with_reducible apply Ends.next | with_reducible apply Only.ite | with_reducible apply Ends.ite | dsimp only | split | (with_reducible refine Only.fst (by with_reducible assumption) ?_) | (with_reducible refine Only.snd (by with_reducible assumption) ?_)

theorem execAtomicCacheExpiry_only {K : List Part} {F : FieldId → Prop} {P : PlotId → Prop} {s0 : State} (f : FieldId) (src txn : Nat) (s : State) (hK : Fits ([.gateway] : List Part) K) (hF : F f)
    (ho : Only K F P s0 s) : Ends K F P s0 (execAtomicCacheExpiry f src txn s) := by
  unfold execAtomicCacheExpiry
  repeat' first | with_reducible assumption | exact Fits.trans (by decide +kernel) hK | exact hF | with_reducible apply Ends.inRim | with_reducible apply State.updGw_only | with_reducible apply Ends.finish | with_reducible apply Ends.next | with_reducible apply Only.ite | with_reducible apply Ends.ite | dsimp only | split | (with_reducible refine Only.fst (by with_reducible assumption) ?_) | (with_reducible refine Only.snd (by with_reducible assumption) ?_)

theorem execFlushReq_only {K : List Part} {F : FieldId → Prop} {P : PlotId → Prop} {s0 : State} (f : FieldId) (pkt : Packet) (s : State) (hK : Fits (([.events, .hbm, .hbmErr, .reg Reg.GWY_STAT.ABSORBED, .reg Reg.GWY_STAT.FLUSHES, .reg Reg.INJ_PT.ARM, .reg Reg.INJ_PT.DONE, .reg Reg.MEM_ECC_STAT.CORRECTED, .reg Reg.MEM_ECC_STAT.LAST_ADDR, .reg Reg.MEM_ECC_STAT.POISON_WRITES, .reg Reg.MEM_ECC_STAT.UNCORRECTED, .reg Reg.MEM_REPAIR_ENTRY.BANK, .reg Reg.MEM_REPAIR_ENTRY.CHANNEL, .reg Reg.MEM_REPAIR_ENTRY.PCH, .reg Reg.MEM_REPAIR_ENTRY.REASON, .reg Reg.MEM_REPAIR_ENTRY.RESULT] : List Part) ++ ([.reg Reg.MEM_REPAIR_ENTRY.ROW, .reg Reg.MEM_REPAIR_ENTRY.STACK, .reg Reg.MEM_REPAIR_ENTRY.VALID, .reg Reg.RTE_DROP_CNT.FOREIGN, .reg Reg.RTE_DROP_CNT.MCAST_DROP, .memu, .lastRaise, .router, .gateway, .health] : List Part)) K) (hF : F f)
    (ho : Only K F P s0 s) : Ends K F P s0 (execFlushReq f pkt s) := by
  unfold execFlushReq
  repeat' first | with_reducible assumption | exact Fits.trans (by decide +kernel) hK | exact hF | with_reducible apply Ends.inRim | with_reducible apply State.arrival_only | with_reducible apply State.redFlush_only | with_reducible apply State.respond_only | with_reducible apply Ends.finish | with_reducible apply Ends.next | with_reducible apply Only.ite | with_reducible apply Ends.ite | dsimp only | split | (with_reducible refine Only.foldl _ _ (fun t a ht => ?_) ?_) | (with_reducible refine Only.foldl_fst _ _ _ (fun t a ht => ?_) ?_) | (with_reducible refine Only.fst (by with_reducible assumption) ?_) | (with_reducible refine Only.snd (by with_reducible assumption) ?_)

theorem State.redRelease_only {K : List Part} {F : FieldId → Prop} {P : PlotId → Prop} {s0 : State} (s : State) (f : FieldId) (id : Nat) (hK : Fits (([.events, .hbm, .hbmErr, .reg Reg.GWY_STAT.ABSORBED, .reg Reg.GWY_STAT.FLUSHES, .reg Reg.INJ_PT.ARM, .reg Reg.INJ_PT.DONE, .reg Reg.MEM_ECC_STAT.CORRECTED, .reg Reg.MEM_ECC_STAT.LAST_ADDR, .reg Reg.MEM_ECC_STAT.POISON_WRITES, .reg Reg.MEM_ECC_STAT.UNCORRECTED, .reg Reg.MEM_REPAIR_ENTRY.BANK, .reg Reg.MEM_REPAIR_ENTRY.CHANNEL, .reg Reg.MEM_REPAIR_ENTRY.PCH, .reg Reg.MEM_REPAIR_ENTRY.REASON, .reg Reg.MEM_REPAIR_ENTRY.RESULT] : List Part) ++ ([.reg Reg.MEM_REPAIR_ENTRY.ROW, .reg Reg.MEM_REPAIR_ENTRY.STACK, .reg Reg.MEM_REPAIR_ENTRY.VALID, .memu, .gateway, .health] : List Part)) K) (hF : F f)
    (ho : Only K F P s0 s) : Only K F P s0 (State.redRelease s f id) := by
  unfold State.redRelease
  repeat' first | with_reducible assumption | exact Fits.trans (by decide +kernel) hK | exact hF | with_reducible apply State.redErase_only | with_reducible apply State.redFlush_only | with_reducible apply Only.ite | dsimp only | split | (with_reducible refine Only.foldl _ _ (fun t a ht => ?_) ?_) | (with_reducible refine Only.foldl_fst _ _ _ (fun t a ht => ?_) ?_) | (with_reducible refine Only.fst (by with_reducible assumption) ?_) | (with_reducible refine Only.snd (by with_reducible assumption) ?_)

theorem execGwyRedRelease_only {K : List Part} {F : FieldId → Prop} {P : PlotId → Prop} {s0 : State} (f : FieldId) (id : Nat) (s : State) (hK : Fits (([.events, .hbm, .hbmErr, .reg Reg.GWY_STAT.ABSORBED, .reg Reg.GWY_STAT.FLUSHES, .reg Reg.INJ_PT.ARM, .reg Reg.INJ_PT.DONE, .reg Reg.MEM_ECC_STAT.CORRECTED, .reg Reg.MEM_ECC_STAT.LAST_ADDR, .reg Reg.MEM_ECC_STAT.POISON_WRITES, .reg Reg.MEM_ECC_STAT.UNCORRECTED, .reg Reg.MEM_REPAIR_ENTRY.BANK, .reg Reg.MEM_REPAIR_ENTRY.CHANNEL, .reg Reg.MEM_REPAIR_ENTRY.PCH, .reg Reg.MEM_REPAIR_ENTRY.REASON, .reg Reg.MEM_REPAIR_ENTRY.RESULT] : List Part) ++ ([.reg Reg.MEM_REPAIR_ENTRY.ROW, .reg Reg.MEM_REPAIR_ENTRY.STACK, .reg Reg.MEM_REPAIR_ENTRY.VALID, .memu, .gateway, .health] : List Part)) K) (hF : F f)
    (ho : Only K F P s0 s) : Ends K F P s0 (execGwyRedRelease f id s) := by
  unfold execGwyRedRelease
  repeat' first | with_reducible assumption | exact Fits.trans (by decide +kernel) hK | exact hF | with_reducible apply Ends.inRim | with_reducible apply State.redRelease_only | with_reducible apply Ends.finish | with_reducible apply Ends.next | with_reducible apply Only.ite | with_reducible apply Ends.ite | dsimp only | split | (with_reducible refine Only.fst (by with_reducible assumption) ?_) | (with_reducible refine Only.snd (by with_reducible assumption) ?_)

theorem execAckSend_only {K : List Part} {F : FieldId → Prop} {P : PlotId → Prop} {s0 : State} (f : FieldId) (src : Nat) (s : State) (hK : Fits ([.router, .gateway] : List Part) K) (hF : F f)
    (ho : Only K F P s0 s) : Ends K F P s0 (execAckSend f src s) := by
  unfold execAckSend
  repeat' first | with_reducible assumption | exact Fits.trans (by decide +kernel) hK | exact hF | with_reducible apply Ends.inRim | with_reducible apply State.sendAck_only | with_reducible apply Ends.finish | with_reducible apply Ends.next | with_reducible apply Only.ite | with_reducible apply Ends.ite | dsimp only | split | (with_reducible refine Only.fst (by with_reducible assumption) ?_) | (with_reducible refine Only.snd (by with_reducible assumption) ?_)

theorem execAgeTokenTimeout_only {K : List Part} {F : FieldId → Prop} {P : PlotId → Prop} {s0 : State} (f : FieldId) (src : Nat) (s : State) (hK : Fits ([.gateway] : List Part) K) (hF : F f)
    (ho : Only K F P s0 s) : Ends K F P s0 (execAgeTokenTimeout f src s) := by
  unfold execAgeTokenTimeout
  repeat' first | with_reducible assumption | exact Fits.trans (by decide +kernel) hK | exact hF | with_reducible apply Ends.inRim | with_reducible apply State.queueLeave_only | with_reducible apply Ends.finish | with_reducible apply Ends.next | with_reducible apply Only.ite | with_reducible apply Ends.ite | dsimp only | split | (with_reducible refine Only.fst (by with_reducible assumption) ?_) | (with_reducible refine Only.snd (by with_reducible assumption) ?_)

theorem execAbsorberWriteback_only {K : List Part} {F : FieldId → Prop} {P : PlotId → Prop} {s0 : State} (f : FieldId) (line : Nat) (s : State) (hK : Fits ([.hbm, .hbmErr, .memu] : List Part) K) (hF : F f)
    (ho : Only K F P s0 s) : Ends K F P s0 (execAbsorberWriteback f line s) := by
  unfold execAbsorberWriteback
  repeat' first | with_reducible assumption | exact Fits.trans (by decide +kernel) hK | exact hF | with_reducible apply Ends.inRim | with_reducible apply State.absorberFlush_only | with_reducible apply Ends.finish | with_reducible apply Ends.next | with_reducible apply Only.ite | with_reducible apply Ends.ite | dsimp only | split | (with_reducible refine Only.fst (by with_reducible assumption) ?_) | (with_reducible refine Only.snd (by with_reducible assumption) ?_)

theorem State.gwSettle_only {K : List Part} {F : FieldId → Prop} {P : PlotId → Prop} {s0 : State} (s : State) (f : FieldId) (hK : Fits (([.events, .reg Reg.INJ_PT.ARM, .reg Reg.INJ_PT.DONE, .reg Reg.MIR_LOAD_STATUS.DIGEST, .reg Reg.MIR_LOAD_STATUS.GRANULES, .reg Reg.MIR_LOAD_STATUS.RESULT, .reg Reg.MIR_LOAD_STATUS.STATE, .reg Reg.MIR_LOAD_STATUS.USING_SRC1, .reg Reg.MIR_PART.ENABLE, .reg Reg.MIR_PART_STATUS.RESULT, .reg Reg.MIR_PART_STATUS.STATE, .reg Reg.MIR_SRC_STATUS.ACKED0, .reg Reg.MIR_SRC_STATUS.ACKED1, .reg Reg.MIR_SRC_STATUS.BREAKS, .reg Reg.MIR_SRC_STATUS.STATE, .queue] : List Part) ++ ([.memu, .router, .gateway, .mirror] : List Part)) K) (hF : F f) (hP : ∀ p, P p)
    (ho : Only K F P s0 s) : Only K F P s0 (State.gwSettle s f) := by
  unfold State.gwSettle
  repeat' first | with_reducible assumption | exact Fits.trans (by decide +kernel) hK | exact hF | exact hP | exact hP _ | with_reducible apply State.mirSettle_only | with_reducible apply State.fencesStep_only | with_reducible apply Only.ite | dsimp only | split | (with_reducible refine Only.fst (by with_reducible assumption) ?_) | (with_reducible refine Only.snd (by with_reducible assumption) ?_)

theorem State.ackApply_only {K : List Part} {F : FieldId → Prop} {P : PlotId → Prop} {s0 : State} (s : State) (f : FieldId) (p : Packet) (hK : Fits ([.queue, .gateway] : List Part) K) (hF : F f) (hP : ∀ p, P p)
    (ho : Only K F P s0 s) : Only K F P s0 (State.ackApply s f p) := by
  unfold State.ackApply
  repeat' first | with_reducible assumption | exact Fits.trans (by decide +kernel) hK | exact hF | exact hP | exact hP _ | with_reducible apply State.setFlowTx_only | with_reducible apply State.lineFinish_only | with_reducible apply Only.ite | dsimp only | split | (with_reducible refine Only.foldl _ _ (fun t a ht => ?_) ?_) | (with_reducible refine Only.foldl_fst _ _ _ (fun t a ht => ?_) ?_) | (with_reducible refine Only.fst (by with_reducible assumption) ?_) | (with_reducible refine Only.snd (by with_reducible assumption) ?_)

theorem execAck_only {K : List Part} {F : FieldId → Prop} {P : PlotId → Prop} {s0 : State} (f : FieldId) (pkt : Packet) (s : State) (hK : Fits (([.events, .reg Reg.INJ_PT.ARM, .reg Reg.INJ_PT.DONE, .reg Reg.MIR_LOAD_STATUS.DIGEST, .reg Reg.MIR_LOAD_STATUS.GRANULES, .reg Reg.MIR_LOAD_STATUS.RESULT, .reg Reg.MIR_LOAD_STATUS.STATE, .reg Reg.MIR_LOAD_STATUS.USING_SRC1, .reg Reg.MIR_PART.ENABLE, .reg Reg.MIR_PART_STATUS.RESULT, .reg Reg.MIR_PART_STATUS.STATE, .reg Reg.MIR_SRC_STATUS.ACKED0, .reg Reg.MIR_SRC_STATUS.ACKED1, .reg Reg.MIR_SRC_STATUS.BREAKS, .reg Reg.MIR_SRC_STATUS.STATE, .reg Reg.RTE_DROP_CNT.FOREIGN] : List Part) ++ ([.reg Reg.RTE_DROP_CNT.MCAST_DROP, .queue, .memu, .lastRaise, .router, .gateway, .mirror] : List Part)) K) (hF : F f) (hP : ∀ p, P p)
    (ho : Only K F P s0 s) : Ends K F P s0 (execAck f pkt s) := by
  unfold execAck
  repeat' first | with_reducible assumption | exact Fits.trans (by decide +kernel) hK | exact hF | exact hP | exact hP _ | with_reducible apply Ends.inRim | with_reducible apply State.arrival_only | with_reducible apply State.gwSettle_only | with_reducible apply State.ackApply_only | with_reducible apply Ends.finish | with_reducible apply Ends.next | with_reducible apply Only.ite | with_reducible apply Ends.ite | dsimp only | split | (with_reducible refine Only.fst (by with_reducible assumption) ?_) | (with_reducible refine Only.snd (by with_reducible assumption) ?_)

theorem execDefer_only {K : List Part} {F : FieldId → Prop} {P : PlotId → Prop} {s0 : State} (f : FieldId) (pkt : Packet) (s : State) (hK : Fits ([.events, .reg Reg.GWY_STAT.DEFERS_RECV, .reg Reg.RTE_DROP_CNT.FOREIGN, .reg Reg.RTE_DROP_CNT.MCAST_DROP, .lastRaise, .router, .gateway] : List Part) K) (hF : F f)
    (ho : Only K F P s0 s) : Ends K F P s0 (execDefer f pkt s) := by
  unfold execDefer
  repeat' first | with_reducible assumption | exact Fits.trans (by decide +kernel) hK | exact hF | with_reducible apply Ends.inRim | with_reducible apply State.arrival_only | with_reducible apply State.updGw_only | with_reducible apply State.fwrap_only | with_reducible apply Ends.finish | with_reducible apply Ends.next | with_reducible apply Only.ite | with_reducible apply Ends.ite | dsimp only | split | (with_reducible refine Only.fst (by with_reducible assumption) ?_) | (with_reducible refine Only.snd (by with_reducible assumption) ?_)

theorem execGetResp_only {K : List Part} {F : FieldId → Prop} {P : PlotId → Prop} {s0 : State} (f : FieldId) (pkt : Packet) (s : State) (hK : Fits (([.events, .store, .bin, .storeErr, .binErr, .reg Reg.INJ_ARITH.ARM, .reg Reg.INJ_ARITH.DONE, .reg Reg.INJ_PT.ARM, .reg Reg.INJ_PT.DONE, .reg Reg.MIR_LOAD_STATUS.DIGEST, .reg Reg.MIR_LOAD_STATUS.GRANULES, .reg Reg.MIR_LOAD_STATUS.RESULT, .reg Reg.MIR_LOAD_STATUS.STATE, .reg Reg.MIR_LOAD_STATUS.USING_SRC1, .reg Reg.MIR_PART.ENABLE, .reg Reg.MIR_PART_STATUS.RESULT] : List Part) ++ ([.reg Reg.MIR_PART_STATUS.STATE, .reg Reg.MIR_SRC_STATUS.ACKED0, .reg Reg.MIR_SRC_STATUS.ACKED1, .reg Reg.MIR_SRC_STATUS.BREAKS, .reg Reg.MIR_SRC_STATUS.STATE, .reg Reg.RTE_DROP_CNT.FOREIGN, .reg Reg.RTE_DROP_CNT.MCAST_DROP, .queue, .plotReg Reg.PLT_STORE_ECC.CORRECTED, .plotReg Reg.PLT_STORE_ECC.LAST_ADDR, .plotReg Reg.PLT_STORE_ECC.UNCORRECTED, .memu, .lastRaise, .router, .gateway, .health] : List Part) ++ ([.mirror] : List Part)) K) (hF : F f) (hP : ∀ p, P p)
    (ho : Only K F P s0 s) : Ends K F P s0 (execGetResp f pkt s) := by
  unfold execGetResp
  repeat' first | with_reducible assumption | exact Fits.trans (by decide +kernel) hK | exact hF | exact hP | exact hP _ | with_reducible apply Ends.inRim | with_reducible apply State.arrival_only | with_reducible apply State.gwSettle_only | with_reducible apply State.lineFinish_only | with_reducible apply State.lineLocal_only | with_reducible apply Ends.finish | with_reducible apply Ends.next | with_reducible apply Only.ite | with_reducible apply Ends.ite | dsimp only | split | (with_reducible refine Only.fst (by with_reducible assumption) ?_) | (with_reducible refine Only.snd (by with_reducible assumption) ?_)

theorem execAtomicResp_only {K : List Part} {F : FieldId → Prop} {P : PlotId → Prop} {s0 : State} (f : FieldId) (pkt : Packet) (s : State) (hK : Fits (([.events, .store, .bin, .storeErr, .binErr, .reg Reg.INJ_ARITH.ARM, .reg Reg.INJ_ARITH.DONE, .reg Reg.INJ_PT.ARM, .reg Reg.INJ_PT.DONE, .reg Reg.MIR_LOAD_STATUS.DIGEST, .reg Reg.MIR_LOAD_STATUS.GRANULES, .reg Reg.MIR_LOAD_STATUS.RESULT, .reg Reg.MIR_LOAD_STATUS.STATE, .reg Reg.MIR_LOAD_STATUS.USING_SRC1, .reg Reg.MIR_PART.ENABLE, .reg Reg.MIR_PART_STATUS.RESULT] : List Part) ++ ([.reg Reg.MIR_PART_STATUS.STATE, .reg Reg.MIR_SRC_STATUS.ACKED0, .reg Reg.MIR_SRC_STATUS.ACKED1, .reg Reg.MIR_SRC_STATUS.BREAKS, .reg Reg.MIR_SRC_STATUS.STATE, .reg Reg.RTE_DROP_CNT.FOREIGN, .reg Reg.RTE_DROP_CNT.MCAST_DROP, .queue, .plotReg Reg.PLT_STORE_ECC.CORRECTED, .plotReg Reg.PLT_STORE_ECC.LAST_ADDR, .plotReg Reg.PLT_STORE_ECC.UNCORRECTED, .memu, .lastRaise, .router, .gateway, .health] : List Part) ++ ([.mirror] : List Part)) K) (hF : F f) (hP : ∀ p, P p)
    (ho : Only K F P s0 s) : Ends K F P s0 (execAtomicResp f pkt s) := by
  unfold execAtomicResp
  repeat' first | with_reducible assumption | exact Fits.trans (by decide +kernel) hK | exact hF | exact hP | exact hP _ | with_reducible apply Ends.inRim | with_reducible apply State.arrival_only | with_reducible apply State.gwSettle_only | with_reducible apply State.lineFinish_only | with_reducible apply State.lineLocal_only | with_reducible apply Ends.finish | with_reducible apply Ends.next | with_reducible apply Only.ite | with_reducible apply Ends.ite | dsimp only | split | (with_reducible refine Only.fst (by with_reducible assumption) ?_) | (with_reducible refine Only.snd (by with_reducible assumption) ?_)

theorem execFlushAck_only {K : List Part} {F : FieldId → Prop} {P : PlotId → Prop} {s0 : State} (f : FieldId) (pkt : Packet) (s : State) (hK : Fits (([.events, .reg Reg.INJ_PT.ARM, .reg Reg.INJ_PT.DONE, .reg Reg.MIR_LOAD_STATUS.DIGEST, .reg Reg.MIR_LOAD_STATUS.GRANULES, .reg Reg.MIR_LOAD_STATUS.RESULT, .reg Reg.MIR_LOAD_STATUS.STATE, .reg Reg.MIR_LOAD_STATUS.USING_SRC1, .reg Reg.MIR_PART.ENABLE, .reg Reg.MIR_PART_STATUS.RESULT, .reg Reg.MIR_PART_STATUS.STATE, .reg Reg.MIR_SRC_STATUS.ACKED0, .reg Reg.MIR_SRC_STATUS.ACKED1, .reg Reg.MIR_SRC_STATUS.BREAKS, .reg Reg.MIR_SRC_STATUS.STATE, .reg Reg.RTE_DROP_CNT.FOREIGN] : List Part) ++ ([.reg Reg.RTE_DROP_CNT.MCAST_DROP, .queue, .memu, .lastRaise, .router, .gateway, .mirror] : List Part)) K) (hF : F f) (hP : ∀ p, P p)
    (ho : Only K F P s0 s) : Ends K F P s0 (execFlushAck f pkt s) := by
  unfold execFlushAck
  repeat' first | with_reducible assumption | exact Fits.trans (by decide +kernel) hK | exact hF | exact hP | exact hP _ | with_reducible apply Ends.inRim | with_reducible apply State.arrival_only | with_reducible apply State.gwSettle_only | with_reducible apply State.lineFinish_only | with_reducible apply Ends.finish | with_reducible apply Ends.next | with_reducible apply Only.ite | with_reducible apply Ends.ite | dsimp only | split | (with_reducible refine Only.fst (by with_reducible assumption) ?_) | (with_reducible refine Only.snd (by with_reducible assumption) ?_)

theorem State.memberDone_only {K : List Part} {F : FieldId → Prop} {P : PlotId → Prop} {s0 : State} (s : State) (f : FieldId) (l : GwLine) (c status : Nat) (hK : Fits ([.queue, .gateway] : List Part) K) (hF : F f) (hP : ∀ p, P p)
    (ho : Only K F P s0 s) : Only K F P s0 (State.memberDone s f l c status) := by
  unfold State.memberDone
  repeat' first | with_reducible assumption | exact Fits.trans (by decide +kernel) hK | exact hF | exact hP | exact hP _ | with_reducible apply State.updGw_only | with_reducible apply State.lineFinish_only | with_reducible apply Only.ite | dsimp only | split | (with_reducible refine Only.fst (by with_reducible assumption) ?_) | (with_reducible refine Only.snd (by with_reducible assumption) ?_)

theorem execMcAck_only {K : List Part} {F : FieldId → Prop} {P : PlotId → Prop} {s0 : State} (f : FieldId) (pkt : Packet) (s : State) (hK : Fits (([.events, .reg Reg.INJ_PT.ARM, .reg Reg.INJ_PT.DONE, .reg Reg.MIR_LOAD_STATUS.DIGEST, .reg Reg.MIR_LOAD_STATUS.GRANULES, .reg Reg.MIR_LOAD_STATUS.RESULT, .reg Reg.MIR_LOAD_STATUS.STATE, .reg Reg.MIR_LOAD_STATUS.USING_SRC1, .reg Reg.MIR_PART.ENABLE, .reg Reg.MIR_PART_STATUS.RESULT, .reg Reg.MIR_PART_STATUS.STATE, .reg Reg.MIR_SRC_STATUS.ACKED0, .reg Reg.MIR_SRC_STATUS.ACKED1, .reg Reg.MIR_SRC_STATUS.BREAKS, .reg Reg.MIR_SRC_STATUS.STATE, .reg Reg.RTE_DROP_CNT.FOREIGN] : List Part) ++ ([.reg Reg.RTE_DROP_CNT.MCAST_DROP, .queue, .memu, .lastRaise, .router, .gateway, .mirror] : List Part)) K) (hF : F f) (hP : ∀ p, P p)
    (ho : Only K F P s0 s) : Ends K F P s0 (execMcAck f pkt s) := by
  unfold execMcAck
  repeat' first | with_reducible assumption | exact Fits.trans (by decide +kernel) hK | exact hF | exact hP | exact hP _ | with_reducible apply Ends.inRim | with_reducible apply State.arrival_only | with_reducible apply State.gwSettle_only | with_reducible apply State.memberDone_only | with_reducible apply Ends.finish | with_reducible apply Ends.next | with_reducible apply Only.ite | with_reducible apply Ends.ite | dsimp only | split | (with_reducible refine Only.fst (by with_reducible assumption) ?_) | (with_reducible refine Only.snd (by with_reducible assumption) ?_)

theorem State.fatalFail_only {K : List Part} {F : FieldId → Prop} {P : PlotId → Prop} {s0 : State} (s : State) (f : FieldId) (l : GwLine) (hK : Fits (([.events, .store, .bin, .storeErr, .binErr, .reg Reg.GWY_FATAL_LOG.ADDR, .reg Reg.GWY_FATAL_LOG.ALLOT, .reg Reg.GWY_FATAL_LOG.DST, .reg Reg.GWY_FATAL_LOG.OP, .reg Reg.GWY_FATAL_LOG.PLOT, .reg Reg.GWY_FATAL_LOG.VALID, .reg Reg.GWY_STAT.POISONED, .reg Reg.INJ_ARITH.ARM, .reg Reg.INJ_ARITH.DONE, .queue, .plotReg Reg.PLT_STORE_ECC.CORRECTED] : List Part) ++ ([.plotReg Reg.PLT_STORE_ECC.LAST_ADDR, .plotReg Reg.PLT_STORE_ECC.UNCORRECTED, .gateway, .health] : List Part)) K) (hF : F f) (hP : ∀ p, P p)
    (ho : Only K F P s0 s) : Only K F P s0 (State.fatalFail s f l) := by
  unfold State.fatalFail
  repeat' first | with_reducible assumption | exact Fits.trans (by decide +kernel) hK | exact hF | exact hP | exact hP _ | with_reducible apply State.fcount_only | with_reducible apply State.lineLocal_only | with_reducible apply State.raise_only | with_reducible apply State.fset_only | with_reducible apply State.lineFinish_only | with_reducible apply Only.ite | dsimp only | split | (with_reducible refine Only.fst (by with_reducible assumption) ?_) | (with_reducible refine Only.snd (by with_reducible assumption) ?_)

theorem State.requestFail_only {K : List Part} {F : FieldId → Prop} {P : PlotId → Prop} {s0 : State} (s : State) (f : FieldId) (l : GwLine) (member : Nat) (hK : Fits (([.events, .store, .bin, .storeErr, .binErr, .reg Reg.GWY_FATAL_LOG.ADDR, .reg Reg.GWY_FATAL_LOG.ALLOT, .reg Reg.GWY_FATAL_LOG.DST, .reg Reg.GWY_FATAL_LOG.OP, .reg Reg.GWY_FATAL_LOG.PLOT, .reg Reg.GWY_FATAL_LOG.VALID, .reg Reg.GWY_STAT.POISONED, .reg Reg.GWY_STAT.UNREACHABLE, .reg Reg.INJ_ARITH.ARM, .reg Reg.INJ_ARITH.DONE, .queue] : List Part) ++ ([.plotReg Reg.PLT_STORE_ECC.CORRECTED, .plotReg Reg.PLT_STORE_ECC.LAST_ADDR, .plotReg Reg.PLT_STORE_ECC.UNCORRECTED, .lastRaise, .gateway, .health] : List Part)) K) (hF : F f) (hP : ∀ p, P p)
    (ho : Only K F P s0 s) : Only K F P s0 (State.requestFail s f l member) := by
  unfold State.requestFail
  repeat' first | with_reducible assumption | exact Fits.trans (by decide +kernel) hK | exact hF | exact hP | exact hP _ | with_reducible apply State.flowBreak_only | with_reducible apply State.memberDone_only | with_reducible apply State.lineFinish_only | with_reducible apply State.fatalFail_only | with_reducible apply Only.ite | dsimp only | split | (with_reducible refine Only.fst (by with_reducible assumption) ?_) | (with_reducible refine Only.snd (by with_reducible assumption) ?_)

theorem execRetxTimeout_only {K : List Part} {F : FieldId → Prop} {P : PlotId → Prop} {s0 : State} (f : FieldId) (req member : Nat) (s : State) (hK : Fits (([.events, .store, .bin, .storeErr, .binErr, .reg Reg.GWY_FATAL_LOG.ADDR, .reg Reg.GWY_FATAL_LOG.ALLOT, .reg Reg.GWY_FATAL_LOG.DST, .reg Reg.GWY_FATAL_LOG.OP, .reg Reg.GWY_FATAL_LOG.PLOT, .reg Reg.GWY_FATAL_LOG.VALID, .reg Reg.GWY_STAT.POISONED, .reg Reg.GWY_STAT.RETX, .reg Reg.GWY_STAT.UNREACHABLE, .reg Reg.INJ_ARITH.ARM, .reg Reg.INJ_ARITH.DONE] : List Part) ++ ([.reg Reg.INJ_PT.ARM, .reg Reg.INJ_PT.DONE, .reg Reg.MIR_LOAD_STATUS.DIGEST, .reg Reg.MIR_LOAD_STATUS.GRANULES, .reg Reg.MIR_LOAD_STATUS.RESULT, .reg Reg.MIR_LOAD_STATUS.STATE, .reg Reg.MIR_LOAD_STATUS.USING_SRC1, .reg Reg.MIR_PART.ENABLE, .reg Reg.MIR_PART_STATUS.RESULT, .reg Reg.MIR_PART_STATUS.STATE, .reg Reg.MIR_SRC_STATUS.ACKED0, .reg Reg.MIR_SRC_STATUS.ACKED1, .reg Reg.MIR_SRC_STATUS.BREAKS, .reg Reg.MIR_SRC_STATUS.STATE, .queue, .plotReg Reg.PLT_STORE_ECC.CORRECTED] : List Part) ++ ([.plotReg Reg.PLT_STORE_ECC.LAST_ADDR, .plotReg Reg.PLT_STORE_ECC.UNCORRECTED, .memu, .lastRaise, .router, .gateway, .health, .mirror] : List Part)) K) (hF : F f) (hP : ∀ p, P p)
    (ho : Only K F P s0 s) : Ends K F P s0 (execRetxTimeout f req member s) := by
  unfold execRetxTimeout
  repeat' first | with_reducible assumption | exact Fits.trans (by decide +kernel) hK | exact hF | exact hP | exact hP _ | with_reducible apply Ends.inRim | with_reducible apply State.gwSettle_only | with_reducible apply State.requestFail_only | with_reducible apply State.updGw_only | with_reducible apply State.fwrap_only | with_reducible apply State.gwSend_only | with_reducible apply Ends.finish | with_reducible apply Ends.next | with_reducible apply Only.ite | with_reducible apply Ends.ite | dsimp only | split | (with_reducible refine Only.fst (by with_reducible assumption) ?_) | (with_reducible refine Only.snd (by with_reducible assumption) ?_)

theorem State.gwHalt_only {K : List Part} {F : FieldId → Prop} {P : PlotId → Prop} {s0 : State} (s : State) (f : FieldId) (id : Nat) (hK : Fits (([.events, .reg Reg.GWY_ALLOT_HALT.HALTED, .reg Reg.INJ_PT.ARM, .reg Reg.INJ_PT.DONE, .reg Reg.MIR_LOAD_STATUS.DIGEST, .reg Reg.MIR_LOAD_STATUS.GRANULES, .reg Reg.MIR_LOAD_STATUS.RESULT, .reg Reg.MIR_LOAD_STATUS.STATE, .reg Reg.MIR_LOAD_STATUS.USING_SRC1, .reg Reg.MIR_PART.ENABLE, .reg Reg.MIR_PART_STATUS.RESULT, .reg Reg.MIR_PART_STATUS.STATE, .reg Reg.MIR_SRC_STATUS.ACKED0, .reg Reg.MIR_SRC_STATUS.ACKED1, .reg Reg.MIR_SRC_STATUS.BREAKS, .reg Reg.MIR_SRC_STATUS.STATE] : List Part) ++ ([.drill, .queue, .boot, .plotReg Reg.PLT_BOOT.STATUS, .memu, .router, .gateway, .mirror] : List Part)) K) (hF : F f) (hP : ∀ p, P p)
    (ho : Only K F P s0 s) : Only K F P s0 (State.gwHalt s f id) := by
  unfold State.gwHalt
  repeat' first | with_reducible assumption | exact Fits.trans (by decide +kernel) hK | exact hF | exact hP | exact hP _ | with_reducible apply State.drillCtl_only | with_reducible apply State.fset_only | with_reducible apply State.lineFinish_only | with_reducible apply State.setFlowTx_only | with_reducible apply State.fenceAnswer_only | with_reducible apply State.updGw_only | with_reducible apply State.raise_only | with_reducible apply State.mirSettle_only | with_reducible apply Only.ite | dsimp only | split | (with_reducible refine Only.foldl _ _ (fun t a ht => ?_) ?_) | (with_reducible refine Only.foldl_fst _ _ _ (fun t a ht => ?_) ?_) | (with_reducible refine Only.fst (by with_reducible assumption) ?_) | (with_reducible refine Only.snd (by with_reducible assumption) ?_)

end Sys2Proof.Machine
end

