-- ==== Sys2Proof/Laws/Touch/Health.lean ====
section
/-! SUPPORT. What each operation of Machine/Health.lean can change: the parts named, and nothing else. -/

namespace Sys2Proof.Machine

set_option Elab.async false

open Sys2Proof

theorem State.healthReset_only {K : List Part} {F : FieldId → Prop} {P : PlotId → Prop} {s0 : State} (s : State) (f : FieldId) (hK : Fits ([.health] : List Part) K) (hF : F f)
    (ho : Only K F P s0 s) : Only K F P s0 (State.healthReset s f) := by
  unfold State.healthReset
  repeat' first | with_reducible assumption | exact Fits.trans (by decide +kernel) hK | exact hF | with_reducible apply State.updField_only | (refine fun (X : Field) => ?_) | with_reducible apply FieldOnly.setReg | with_reducible exact FieldOnly.refl _ _ _ | with_reducible apply FieldOnly.updPlot | with_reducible apply FieldOnly.ite | (refine FieldOnly.keep rfl rfl (fun k hk => ?_); cases k <;> first | exact trivial | exact rfl | exact ⟨rfl, rfl⟩ | exact ⟨rfl, rfl, rfl⟩ | exact (Fits.not hK hk rfl).elim) | with_reducible apply Only.ite | dsimp only | split | (with_reducible refine Only.fst (by with_reducible assumption) ?_) | (with_reducible refine Only.snd (by with_reducible assumption) ?_)

theorem State.expel_only {K : List Part} {F : FieldId → Prop} {P : PlotId → Prop} {s0 : State} (s : State) (f : FieldId) (injected : Bool) (hK : Fits ([.events, .reg Reg.HLT_SCORE.EXPEL] : List Part) K) (hF : F f)
    (ho : Only K F P s0 s) : Only K F P s0 (State.expel s f injected) := by
  unfold State.expel
  repeat' first | with_reducible assumption | exact Fits.trans (by decide +kernel) hK | exact hF | with_reducible apply State.raise_only | with_reducible apply State.fset_only | with_reducible apply Only.ite | dsimp only | split | (with_reducible refine Only.fst (by with_reducible assumption) ?_) | (with_reducible refine Only.snd (by with_reducible assumption) ?_)

theorem State.packageScore_only {K : List Part} {F : FieldId → Prop} {P : PlotId → Prop} {s0 : State} (s : State) (hK : Fits ([.hubReg Reg.HLT_PKG.OUT, .hubReg Reg.HLT_PKG.SCORE] : List Part) K)
    (ho : Only K F P s0 s) : Only K F P s0 (State.packageScore s) := by
  unfold State.packageScore
  repeat' first | with_reducible assumption | exact Fits.trans (by decide +kernel) hK | with_reducible apply State.hset_only | with_reducible apply Only.ite | dsimp only | split | (with_reducible refine Only.foldl _ _ (fun t a ht => ?_) ?_) | (with_reducible refine Only.foldl_fst _ _ _ (fun t a ht => ?_) ?_) | (with_reducible refine Only.fst (by with_reducible assumption) ?_) | (with_reducible refine Only.snd (by with_reducible assumption) ?_)

theorem State.healthWindow_only {K : List Part} {F : FieldId → Prop} {P : PlotId → Prop} {s0 : State} (s : State) (f : FieldId) (hK : Fits ([.events, .reg Reg.HLT_PEN.ATTR, .reg Reg.HLT_PEN.PEN, .reg Reg.HLT_SCORE.EXPEL, .reg Reg.HLT_SCORE.INJECTED, .reg Reg.HLT_SCORE.RUN, .reg Reg.HLT_SCORE.SCORE, .reg Reg.HLT_SCORE.SELF_PEN, .reg Reg.HLT_SCORE.WINDOW, .sheaf, .health] : List Part) K) (hF : F f)
    (ho : Only K F P s0 s) : Only K F P s0 (State.healthWindow s f) := by
  unfold State.healthWindow
  extract_lets cs hint comps total selfPen p run inj s1 s2 thr s3
  clear_value comps total selfPen p run inj cs
  have h1 : Only K F P s0 s1 := Only.foldl _ _ (fun t a ht => by
    obtain ⟨c, i⟩ := a
    exact State.fset_only _ _ _ _ _ (Fits.trans (by decide +kernel) hK) hF (State.fset_only _ _ _ _ _ (Fits.trans (by decide +kernel) hK) hF ht)) ho
  clear_value s1
  have h2 : Only K F P s0 s2 := State.fwrap_only _ _ _ _ _ (Fits.trans (by decide +kernel) hK) hF (State.fset_only _ _ _ _ _ (Fits.trans (by decide +kernel) hK) hF
    (State.fset_only _ _ _ _ _ (Fits.trans (by decide +kernel) hK) hF (State.fset_only _ _ _ _ _ (Fits.trans (by decide +kernel) hK) hF (State.fset_only _ _ _ _ _ (Fits.trans (by decide +kernel) hK) hF h1))))
  clear_value s2 thr
  have h3 : Only K F P s0 s3 := State.updField_only _ _ (fun X => by
    refine FieldOnly.keep rfl rfl (fun k hk => ?_)
    (cases k <;> first | exact trivial | exact rfl | exact ⟨rfl, rfl⟩ | exact ⟨rfl, rfl, rfl⟩ | exact (Fits.not hK hk rfl).elim)) hF h2
  exact Only.ite (State.expel_only _ _ _ (Fits.trans (by decide +kernel) hK) hF h3) h3

theorem State.windowEnd_only {K : List Part} {F : FieldId → Prop} {P : PlotId → Prop} {s0 : State} (s : State) (f : FieldId) (hK : Fits ([.events, .reg Reg.HLT_PEN.ATTR, .reg Reg.HLT_PEN.PEN, .reg Reg.HLT_SCORE.EXPEL, .reg Reg.HLT_SCORE.INJECTED, .reg Reg.HLT_SCORE.RUN, .reg Reg.HLT_SCORE.SCORE, .reg Reg.HLT_SCORE.SELF_PEN, .reg Reg.HLT_SCORE.WINDOW, .sheaf, .health] : List Part) K) (hF : F f)
    (ho : Only K F P s0 s) : Only K F P s0 (State.windowEnd s f) := by
  unfold State.windowEnd
  repeat' first | with_reducible assumption | exact Fits.trans (by decide +kernel) hK | exact hF | with_reducible apply State.healthWindow_only | with_reducible apply State.updField_only | (refine fun (X : Field) => ?_) | with_reducible apply FieldOnly.setReg | with_reducible exact FieldOnly.refl _ _ _ | with_reducible apply FieldOnly.updPlot | with_reducible apply FieldOnly.ite | (refine FieldOnly.keep rfl rfl (fun k hk => ?_); cases k <;> first | exact trivial | exact rfl | exact ⟨rfl, rfl⟩ | exact ⟨rfl, rfl, rfl⟩ | exact (Fits.not hK hk rfl).elim) | with_reducible apply Only.ite | dsimp only | split | (with_reducible refine Only.fst (by with_reducible assumption) ?_) | (with_reducible refine Only.snd (by with_reducible assumption) ?_)

theorem execHealthWindowClose_only {K : List Part} {F : FieldId → Prop} {P : PlotId → Prop} {s0 : State} (s : State) (hK : Fits ([.events, .hubReg Reg.HLT_PKG.OUT, .hubReg Reg.HLT_PKG.SCORE, .reg Reg.HLT_PEN.ATTR, .reg Reg.HLT_PEN.PEN, .reg Reg.HLT_SCORE.EXPEL, .reg Reg.HLT_SCORE.INJECTED, .reg Reg.HLT_SCORE.RUN, .reg Reg.HLT_SCORE.SCORE, .reg Reg.HLT_SCORE.SELF_PEN, .reg Reg.HLT_SCORE.WINDOW, .sheaf, .health] : List Part) K) (hF : ∀ f, F f)
    (ho : Only K F P s0 s) : Ends K F P s0 (execHealthWindowClose s) := by
  unfold execHealthWindowClose
  repeat' first | with_reducible assumption | exact Fits.trans (by decide +kernel) hK | exact hF | exact hF _ | with_reducible apply State.packageScore_only | with_reducible apply State.windowEnd_only | with_reducible apply Ends.finish | with_reducible apply Ends.next | with_reducible apply Only.ite | with_reducible apply Ends.ite | dsimp only | split | (with_reducible refine Only.foldl _ _ (fun t a ht => ?_) ?_) | (with_reducible refine Only.foldl_fst _ _ _ (fun t a ht => ?_) ?_) | (with_reducible refine Only.fst (by with_reducible assumption) ?_) | (with_reducible refine Only.snd (by with_reducible assumption) ?_)

theorem execHardEvent_only {K : List Part} {F : FieldId → Prop} {P : PlotId → Prop} {s0 : State} (f : FieldId) (s : State) (hK : Fits ([.events, .hubReg Reg.HLT_PKG.OUT, .hubReg Reg.HLT_PKG.SCORE, .reg Reg.HLT_SCORE.EXPEL, .reg Reg.HLT_SCORE.HARD, .reg Reg.HLT_SCORE.INJECTED, .reg Reg.HLT_SCORE.SCORE, .hard, .health] : List Part) K) (hF : F f)
    (ho : Only K F P s0 s) : Ends K F P s0 (execHardEvent f s) := by
  unfold execHardEvent
  repeat' first | with_reducible assumption | exact Fits.trans (by decide +kernel) hK | exact hF | with_reducible apply State.updField_only | with_reducible apply State.fset_only | with_reducible apply State.raise_only | with_reducible apply State.packageScore_only | with_reducible apply State.expel_only | with_reducible apply Ends.finish | with_reducible apply Ends.next | (refine fun (X : Field) => ?_) | with_reducible apply FieldOnly.setReg | with_reducible exact FieldOnly.refl _ _ _ | with_reducible apply FieldOnly.updPlot | with_reducible apply FieldOnly.ite | (refine FieldOnly.keep rfl rfl (fun k hk => ?_); cases k <;> first | exact trivial | exact rfl | exact ⟨rfl, rfl⟩ | exact ⟨rfl, rfl, rfl⟩ | exact (Fits.not hK hk rfl).elim) | with_reducible apply Only.ite | with_reducible apply Ends.ite | dsimp only | split | (with_reducible refine Only.fst (by with_reducible assumption) ?_) | (with_reducible refine Only.snd (by with_reducible assumption) ?_)

theorem State.expelClear_only {K : List Part} {F : FieldId → Prop} {P : PlotId → Prop} {s0 : State} (s : State) (f : FieldId) (hK : Fits ([.reg Reg.HLT_SCORE.EXPEL, .reg Reg.HLT_SCORE.HARD, .reg Reg.HLT_SCORE.RUN] : List Part) K) (hF : F f)
    (ho : Only K F P s0 s) : Only K F P s0 (State.expelClear s f) := by
  unfold State.expelClear
  repeat' first | with_reducible assumption | exact Fits.trans (by decide +kernel) hK | exact hF | with_reducible apply State.fset_only | with_reducible apply Only.ite | dsimp only | split | (with_reducible refine Only.fst (by with_reducible assumption) ?_) | (with_reducible refine Only.snd (by with_reducible assumption) ?_)

theorem execExpelClear_only {K : List Part} {F : FieldId → Prop} {P : PlotId → Prop} {s0 : State} (f : FieldId) (s : State) (hK : Fits ([.reg Reg.HLT_SCORE.EXPEL, .reg Reg.HLT_SCORE.HARD, .reg Reg.HLT_SCORE.RUN] : List Part) K) (hF : F f)
    (ho : Only K F P s0 s) : Ends K F P s0 (execExpelClear f s) := by
  unfold execExpelClear
  repeat' first | with_reducible assumption | exact Fits.trans (by decide +kernel) hK | exact hF | with_reducible apply Ends.inRim | with_reducible apply State.expelClear_only | with_reducible apply Ends.finish | with_reducible apply Ends.next | with_reducible apply Only.ite | with_reducible apply Ends.ite | dsimp only | split | (with_reducible refine Only.fst (by with_reducible assumption) ?_) | (with_reducible refine Only.snd (by with_reducible assumption) ?_)

end Sys2Proof.Machine
end

