-- ==== Sys2Proof/Laws/Touch/Package.lean ====
section
/-! SUPPORT. What each operation of Machine/Package.lean can change: the parts named, and nothing else. -/

namespace Sys2Proof.Machine

set_option Elab.async false

open Sys2Proof

theorem Memories.clearPlots_only {K : List Part} {F : FieldId → Prop} {m0 m : Memories} {f : FieldId}
    (hK : Fits [.store, .bin, .storeErr, .binErr] K) (hF : F f) (h : MemOnly K F m0 m) : MemOnly K F m0 (m.clearPlots f) :=
  h.trans ⟨fun w => by
      simp only [Memories.wf, Memories.clearPlots, Bool.and_eq_true] at w ⊢
      exact ⟨⟨⟨⟨⟨⟨⟨w.1.1.1.1.1.1.1, w.1.1.1.1.1.1.2⟩, Vector.all_set _ _ _ _ w.1.1.1.1.1.2 (by rfl)⟩,
        Vector.all_set _ _ _ _ w.1.1.1.1.2 (by rfl)⟩, Vector.all_set _ _ _ _ w.1.1.1.2 (by rfl)⟩,
        Vector.all_set _ _ _ _ w.1.1.2 (by rfl)⟩, Vector.all_set _ _ _ _ w.1.2 (by rfl)⟩, w.2⟩,
    fun k f' hk => by
      have hn : ∀ x : Part, Part.covered K x = true → k = x → f' ≠ f := fun x hx e =>
        fun e' => by subst e; subst e'; exact (hk.resolve_left (fun y => by rw [hx] at y; exact absurd y (by decide))).2 hF
      have h1 := hn .store (hK.mem (by decide))
      have h2 := hn .bin (hK.mem (by decide))
      have h3 := hn .storeErr (hK.mem (by decide))
      have h4 := hn .binErr (hK.mem (by decide))
      cases k <;> first
        | trivial
        | rfl
        | exact ⟨rfl, rfl⟩
        | exact Vector.set_ne _ _ _ _ (h1 rfl)
        | exact Vector.set_ne _ _ _ _ (h2 rfl)
        | exact Vector.set_ne _ _ _ _ (h3 rfl)
        | exact ⟨Vector.set_ne _ _ _ _ (h4 rfl), Vector.set_ne _ _ _ _ (h4 rfl)⟩⟩

theorem State.setSvc_only {K : List Part} {F : FieldId → Prop} {P : PlotId → Prop} {s0 : State} (s : State) (f : FieldId) (new : Nat) (injected : Bool) (hK : Fits ([.events, .hubReg Reg.HUB_FIELD_STATE.STATE, .hard] : List Part) K) (hF : F f)
    (ho : Only K F P s0 s) : Only K F P s0 (State.setSvc s f new injected) := by
  unfold State.setSvc
  repeat' first | with_reducible assumption | exact Fits.trans (by decide +kernel) hK | exact hF | with_reducible apply State.raiseHub_only | with_reducible apply State.hset_only | with_reducible apply State.hardEvent_only | with_reducible apply Only.ite | dsimp only | split | (with_reducible refine Only.fst (by with_reducible assumption) ?_) | (with_reducible refine Only.snd (by with_reducible assumption) ?_)

theorem State.resetPlots_only {K : List Part} {F : FieldId → Prop} {P : PlotId → Prop} {s0 : State} (s : State) (f : FieldId) (hK : Fits (([.hubReg Reg.MBX_HUB_IN_META.FULL, .hubReg Reg.MBX_HUB_OUT_ACK.CODE, .hubReg Reg.MBX_HUB_OUT_ACK.DONE, .hubReg Reg.MBX_HUB_OUT_META.PENDING, .hubSlots, .drill, .dr, .queue, .cq, .tine, .samples, .scrub, .notify, .xlines, .boot, .slot] : List Part) ++ ([.anyPlotReg, .far (.reg Reg.MBX_RIM_IN_META.FULL), .far (.reg Reg.MBX_RIM_OUT_ACK.CODE), .far (.reg Reg.MBX_RIM_OUT_ACK.DONE), .far (.reg Reg.MBX_RIM_OUT_META.PENDING), .far .slot, .far (.plotReg Reg.MBX_PLOT_IN_META.FULL), .far (.plotReg Reg.MBX_PLOT_OUT_ACK.CODE), .far (.plotReg Reg.MBX_PLOT_OUT_ACK.DONE), .far (.plotReg Reg.MBX_PLOT_OUT_META.PENDING), .far .rimSlots] : List Part)) K) (hF : F f) (hP : ∀ p, P p)
    (ho : Only K F P s0 s) : Only K F P s0 (State.resetPlots s f) := by
  unfold State.resetPlots
  repeat' first | with_reducible assumption | exact Fits.trans (by decide +kernel) hK | exact hF | exact hP | exact hP _ | with_reducible apply State.mbxReceiverReset_far | with_reducible apply State.mbxSenderReset_far | with_reducible apply State.updField_only | (refine fun (X : Field) => ?_) | with_reducible apply FieldOnly.setReg | with_reducible exact FieldOnly.refl _ _ _ | with_reducible apply FieldOnly.updPlot | with_reducible apply FieldOnly.ite | (refine FieldOnly.keep rfl rfl (fun k hk => ?_); cases k <;> first | exact trivial | exact rfl | exact ⟨rfl, rfl⟩ | exact ⟨rfl, rfl, rfl⟩ | exact (Fits.not hK hk rfl).elim) | with_reducible apply Only.ite | dsimp only | split | (with_reducible refine Only.foldl _ _ (fun t a ht => ?_) ?_) | (with_reducible refine Only.foldl_fst _ _ _ (fun t a ht => ?_) ?_) | (with_reducible refine Only.fst (by with_reducible assumption) ?_) | (with_reducible refine Only.snd (by with_reducible assumption) ?_) | exact Fits.anyPlot _ (Fits.trans (by decide +kernel) hK) | (refine FieldOnly.anyPlots rfl rfl ?_ ?_ ?_ ?_) | (intro k hk; cases k <;> first | exact trivial | exact rfl | exact ⟨rfl, rfl⟩ | exact ⟨rfl, rfl, rfl⟩ | exact (Fits.not hK hk rfl).elim)

theorem State.resetPartition_only {K : List Part} {F : FieldId → Prop} {P : PlotId → Prop} {s0 : State} (s : State) (f : FieldId) (hK : Fits (([.hubReg Reg.MBX_HUB_IN_META.FULL, .hubReg Reg.MBX_HUB_OUT_ACK.CODE, .hubReg Reg.MBX_HUB_OUT_ACK.DONE, .hubReg Reg.MBX_HUB_OUT_META.PENDING, .hubSlots, .store, .bin, .storeErr, .binErr, .drill, .dr, .queue, .cq, .tine, .samples, .scrub] : List Part) ++ ([.notify, .xlines, .boot, .slot, .anyPlotReg, .gateway, .far (.reg Reg.MBX_RIM_IN_META.FULL), .far (.reg Reg.MBX_RIM_OUT_ACK.CODE), .far (.reg Reg.MBX_RIM_OUT_ACK.DONE), .far (.reg Reg.MBX_RIM_OUT_META.PENDING), .far .slot, .far (.plotReg Reg.MBX_PLOT_IN_META.FULL), .far (.plotReg Reg.MBX_PLOT_OUT_ACK.CODE), .far (.plotReg Reg.MBX_PLOT_OUT_ACK.DONE), .far (.plotReg Reg.MBX_PLOT_OUT_META.PENDING), .far .rimSlots] : List Part)) K) (hF : F f) (hP : ∀ p, P p)
    (ho : Only K F P s0 s) : Only K F P s0 (State.resetPartition s f) := by
  unfold State.resetPartition
  repeat' first | with_reducible assumption | exact Fits.trans (by decide +kernel) hK | exact hF | exact hP | exact hP _ | with_reducible apply State.updField_only | with_reducible apply State.resetPlots_only | (refine fun (X : Field) => ?_) | with_reducible apply FieldOnly.setReg | with_reducible exact FieldOnly.refl _ _ _ | with_reducible apply FieldOnly.updPlot | with_reducible apply FieldOnly.ite | (refine FieldOnly.keep rfl rfl (fun k hk => ?_); cases k <;> first | exact trivial | exact rfl | exact ⟨rfl, rfl⟩ | exact ⟨rfl, rfl, rfl⟩ | exact (Fits.not hK hk rfl).elim) | with_reducible apply State.updMem_touch | exact MemOnly.refl _ _ _ | (refine fun m => (?_ : MemOnly _ _ _ _)) | with_reducible apply Only.ite | dsimp only | split | (with_reducible refine Only.fst (by with_reducible assumption) ?_) | (with_reducible refine Only.snd (by with_reducible assumption) ?_) | exact Fits.anyPlot _ (Fits.trans (by decide +kernel) hK) | apply Memories.clearPlots_only

theorem State.d2dModules_only {K : List Part} {F : FieldId → Prop} {P : PlotId → Prop} {s0 : State} (s : State) (k n : Nat) (hK : Fits ([.events, .hubReg Reg.HUB_D2D_STATUS.MODULES, .hubReg Reg.HUB_D2D_STATUS.UP] : List Part) K)
    (ho : Only K F P s0 s) : Only K F P s0 (State.d2dModules s k n) := by
  unfold State.d2dModules
  repeat' first | with_reducible assumption | exact Fits.trans (by decide +kernel) hK | with_reducible apply State.raiseHub_only | with_reducible apply State.hset_only | with_reducible apply Only.ite | dsimp only | split | (with_reducible refine Only.fst (by with_reducible assumption) ?_) | (with_reducible refine Only.snd (by with_reducible assumption) ?_)

theorem State.d2dFieldDown_only {K : List Part} {F : FieldId → Prop} {P : PlotId → Prop} {s0 : State} (s : State) (f : FieldId) (hK : Fits ([.events, .hubReg Reg.HUB_D2D_STATUS.MODULES, .hubReg Reg.HUB_D2D_STATUS.UP] : List Part) K)
    (ho : Only K F P s0 s) : Only K F P s0 (State.d2dFieldDown s f) := by
  unfold State.d2dFieldDown
  repeat' first | with_reducible assumption | exact Fits.trans (by decide +kernel) hK | with_reducible apply State.d2dModules_only | with_reducible apply Only.ite | dsimp only | split | (with_reducible refine Only.foldl _ _ (fun t a ht => ?_) ?_) | (with_reducible refine Only.foldl_fst _ _ _ (fun t a ht => ?_) ?_) | (with_reducible refine Only.fst (by with_reducible assumption) ?_) | (with_reducible refine Only.snd (by with_reducible assumption) ?_)

theorem execD2dModuleLoss_only {K : List Part} {F : FieldId → Prop} {P : PlotId → Prop} {s0 : State} (k : Fin 4) (s : State) (hK : Fits ([.events, .hubReg Reg.HUB_D2D_STATUS.MODULES, .hubReg Reg.HUB_D2D_STATUS.UP] : List Part) K)
    (ho : Only K F P s0 s) : Ends K F P s0 (execD2dModuleLoss k s) := by
  unfold execD2dModuleLoss
  repeat' first | with_reducible assumption | exact Fits.trans (by decide +kernel) hK | with_reducible apply State.d2dModules_only | with_reducible apply Ends.finish | with_reducible apply Ends.next | with_reducible apply Only.ite | with_reducible apply Ends.ite | dsimp only | split | (with_reducible refine Only.fst (by with_reducible assumption) ?_) | (with_reducible refine Only.snd (by with_reducible assumption) ?_)

end Sys2Proof.Machine
end

