-- ==== Sys2Proof/Laws/Touch/Memory.lean ====
section
/-! SUPPORT. What each operation of Machine/Memory.lean can change: the parts named, and nothing else. -/

namespace Sys2Proof.Machine

set_option Elab.async false

open Sys2Proof

theorem execHbmRead_only {K : List Part} {F : FieldId → Prop} {P : PlotId → Prop} {s0 : State} (f : FieldId) (half : Nat) (src : Fin 6) (s : State) (hK : Fits (([.events, .hbmErr, .reg Reg.INJ_PT.ARM, .reg Reg.INJ_PT.DONE, .reg Reg.MEM_ECC_STAT.CORRECTED, .reg Reg.MEM_ECC_STAT.LAST_ADDR, .reg Reg.MEM_ECC_STAT.UNCORRECTED, .reg Reg.MEM_REPAIR_ENTRY.BANK, .reg Reg.MEM_REPAIR_ENTRY.CHANNEL, .reg Reg.MEM_REPAIR_ENTRY.PCH, .reg Reg.MEM_REPAIR_ENTRY.REASON, .reg Reg.MEM_REPAIR_ENTRY.RESULT, .reg Reg.MEM_REPAIR_ENTRY.ROW, .reg Reg.MEM_REPAIR_ENTRY.STACK, .reg Reg.MEM_REPAIR_ENTRY.VALID, .memu] : List Part) ++ ([.health] : List Part)) K) (hF : F f)
    (ho : Only K F P s0 s) : Ends K F P s0 (execHbmRead f half src s) := by
  unfold execHbmRead
  repeat' first | with_reducible assumption | exact Fits.trans (by decide +kernel) hK | exact hF | with_reducible apply Ends.inRim | with_reducible apply State.absorberTouch_only | with_reducible apply State.ctrlReadHalf_only | with_reducible apply Ends.finish | with_reducible apply Ends.next | with_reducible apply Only.ite | with_reducible apply Ends.ite | dsimp only | split | (with_reducible refine Only.fst (by with_reducible assumption) ?_) | (with_reducible refine Only.snd (by with_reducible assumption) ?_)

theorem execHbmWrite_only {K : List Part} {F : FieldId → Prop} {P : PlotId → Prop} {s0 : State} (f : FieldId) (addr : Nat) (data : List Byte) (poisoned : Bool) (src : Fin 6) (s : State) (hK : Fits (([.events, .hbm, .hbmErr, .reg Reg.GWY_STAT.ABSORBED, .reg Reg.INJ_PT.ARM, .reg Reg.INJ_PT.DONE, .reg Reg.MEM_ECC_STAT.CORRECTED, .reg Reg.MEM_ECC_STAT.LAST_ADDR, .reg Reg.MEM_ECC_STAT.POISON_WRITES, .reg Reg.MEM_ECC_STAT.UNCORRECTED, .reg Reg.MEM_REPAIR_ENTRY.BANK, .reg Reg.MEM_REPAIR_ENTRY.CHANNEL, .reg Reg.MEM_REPAIR_ENTRY.PCH, .reg Reg.MEM_REPAIR_ENTRY.REASON, .reg Reg.MEM_REPAIR_ENTRY.RESULT, .reg Reg.MEM_REPAIR_ENTRY.ROW] : List Part) ++ ([.reg Reg.MEM_REPAIR_ENTRY.STACK, .reg Reg.MEM_REPAIR_ENTRY.VALID, .memu, .health] : List Part)) K) (hF : F f)
    (ho : Only K F P s0 s) : Ends K F P s0 (execHbmWrite f addr data poisoned src s) := by
  unfold execHbmWrite
  repeat' first | with_reducible assumption | exact Fits.trans (by decide +kernel) hK | exact hF | with_reducible apply Ends.inRim | with_reducible apply State.lineWrite_only | with_reducible apply Ends.finish | with_reducible apply Ends.next | with_reducible apply Only.ite | with_reducible apply Ends.ite | dsimp only | split | (with_reducible refine Only.fst (by with_reducible assumption) ?_) | (with_reducible refine Only.snd (by with_reducible assumption) ?_)

theorem State.stackLost_only {K : List Part} {F : FieldId → Prop} {P : PlotId → Prop} {s0 : State} (s : State) (f : FieldId) (stack : Nat) (injected : Bool) (hK : Fits (([.events, .hubReg Reg.HUB_FIELD_STATE.HBM0_OK, .hubReg Reg.HUB_FIELD_STATE.HBM1_OK, .hubReg Reg.HUB_FIELD_STATE.STATE, .hubReg Reg.MBX_HUB_IN_META.FULL, .hubReg Reg.MBX_HUB_OUT_ACK.CODE, .hubReg Reg.MBX_HUB_OUT_ACK.DONE, .hubReg Reg.MBX_HUB_OUT_META.PENDING, .hubSlots, .store, .bin, .storeErr, .binErr, .drill, .dr, .queue] : List Part) ++ ([.cq, .tine, .samples, .scrub, .notify, .xlines, .boot, .slot, .anyPlotReg, .memu, .hard, .gateway, .far (.reg Reg.MBX_RIM_IN_META.FULL), .far (.reg Reg.MBX_RIM_OUT_ACK.CODE), .far (.reg Reg.MBX_RIM_OUT_ACK.DONE), .far (.reg Reg.MBX_RIM_OUT_META.PENDING)] : List Part) ++ ([.far .slot, .far (.plotReg Reg.MBX_PLOT_IN_META.FULL), .far (.plotReg Reg.MBX_PLOT_OUT_ACK.CODE), .far (.plotReg Reg.MBX_PLOT_OUT_ACK.DONE), .far (.plotReg Reg.MBX_PLOT_OUT_META.PENDING), .far .rimSlots] : List Part)) K) (hF : F f) (hP : ∀ p, P p)
    (ho : Only K F P s0 s) : Only K F P s0 (State.stackLost s f stack injected) := by
  unfold State.stackLost
  repeat' first | with_reducible assumption | exact Fits.trans (by decide +kernel) hK | exact hF | exact hP | exact hP _ | with_reducible apply State.updMemu_only | with_reducible apply State.hardEvent_only | with_reducible apply State.raise_only | with_reducible apply State.hset_only | with_reducible apply State.resetPartition_only | with_reducible apply State.setSvc_only | with_reducible apply Only.ite | dsimp only | split | (with_reducible refine Only.fst (by with_reducible assumption) ?_) | (with_reducible refine Only.snd (by with_reducible assumption) ?_) | exact Fits.anyPlot _ (Fits.trans (by decide +kernel) hK)

theorem execHbmStackLost_only {K : List Part} {F : FieldId → Prop} {P : PlotId → Prop} {s0 : State} (f : FieldId) (stack : Fin 2) (s : State) (hK : Fits (([.events, .hubReg Reg.HUB_FIELD_STATE.HBM0_OK, .hubReg Reg.HUB_FIELD_STATE.HBM1_OK, .hubReg Reg.HUB_FIELD_STATE.STATE, .hubReg Reg.MBX_HUB_IN_META.FULL, .hubReg Reg.MBX_HUB_OUT_ACK.CODE, .hubReg Reg.MBX_HUB_OUT_ACK.DONE, .hubReg Reg.MBX_HUB_OUT_META.PENDING, .hubSlots, .store, .bin, .storeErr, .binErr, .drill, .dr, .queue] : List Part) ++ ([.cq, .tine, .samples, .scrub, .notify, .xlines, .boot, .slot, .anyPlotReg, .memu, .hard, .gateway, .far (.reg Reg.MBX_RIM_IN_META.FULL), .far (.reg Reg.MBX_RIM_OUT_ACK.CODE), .far (.reg Reg.MBX_RIM_OUT_ACK.DONE), .far (.reg Reg.MBX_RIM_OUT_META.PENDING)] : List Part) ++ ([.far .slot, .far (.plotReg Reg.MBX_PLOT_IN_META.FULL), .far (.plotReg Reg.MBX_PLOT_OUT_ACK.CODE), .far (.plotReg Reg.MBX_PLOT_OUT_ACK.DONE), .far (.plotReg Reg.MBX_PLOT_OUT_META.PENDING), .far .rimSlots] : List Part)) K) (hF : F f) (hP : ∀ p, P p)
    (ho : Only K F P s0 s) : Ends K F P s0 (execHbmStackLost f stack s) := by
  unfold execHbmStackLost
  repeat' first | with_reducible assumption | exact Fits.trans (by decide +kernel) hK | exact hF | exact hP | exact hP _ | with_reducible apply Ends.inRim | with_reducible apply State.stackLost_only | with_reducible apply Ends.finish | with_reducible apply Ends.next | with_reducible apply Only.ite | with_reducible apply Ends.ite | dsimp only | split | (with_reducible refine Only.fst (by with_reducible assumption) ?_) | (with_reducible refine Only.snd (by with_reducible assumption) ?_) | exact Fits.anyPlot _ (Fits.trans (by decide +kernel) hK)

theorem execEcsRead_only {K : List Part} {F : FieldId → Prop} {P : PlotId → Prop} {s0 : State} (f : FieldId) (count0 count1 : Nat) (s : State) (hK : Fits ([.reg Reg.MEM_ECC_STAT.ECS_0, .reg Reg.MEM_ECC_STAT.ECS_1] : List Part) K) (hF : F f)
    (ho : Only K F P s0 s) : Ends K F P s0 (execEcsRead f count0 count1 s) := by
  unfold execEcsRead
  repeat' first | with_reducible assumption | exact Fits.trans (by decide +kernel) hK | exact hF | with_reducible apply Ends.inRim | with_reducible apply State.fset_only | with_reducible apply Ends.finish | with_reducible apply Ends.next | with_reducible apply Only.ite | with_reducible apply Ends.ite | dsimp only | split | (with_reducible refine Only.fst (by with_reducible assumption) ?_) | (with_reducible refine Only.snd (by with_reducible assumption) ?_)

theorem State.patrol_only {K : List Part} {F : FieldId → Prop} {P : PlotId → Prop} {s0 : State} (s : State) (f : FieldId) (pc : Nat) (hK : Fits (([.events, .hbmErr, .reg Reg.INJ_PT.ARM, .reg Reg.INJ_PT.DONE, .reg Reg.MEM_ECC_STAT.CORRECTED, .reg Reg.MEM_ECC_STAT.LAST_ADDR, .reg Reg.MEM_ECC_STAT.UNCORRECTED, .reg Reg.MEM_REPAIR_ENTRY.BANK, .reg Reg.MEM_REPAIR_ENTRY.CHANNEL, .reg Reg.MEM_REPAIR_ENTRY.PCH, .reg Reg.MEM_REPAIR_ENTRY.REASON, .reg Reg.MEM_REPAIR_ENTRY.RESULT, .reg Reg.MEM_REPAIR_ENTRY.ROW, .reg Reg.MEM_REPAIR_ENTRY.STACK, .reg Reg.MEM_REPAIR_ENTRY.VALID, .reg Reg.MEM_SCRUB_CTL.PASSES] : List Part) ++ ([.memu, .health] : List Part)) K) (hF : F f)
    (ho : Only K F P s0 s) : Only K F P s0 (State.patrol s f pc) := by
  unfold State.patrol
  repeat' first | with_reducible assumption | exact Fits.trans (by decide +kernel) hK | exact hF | with_reducible apply State.ctrlReadHalf_only | with_reducible apply State.updMemu_only | with_reducible apply State.fcount_only | with_reducible apply Only.ite | dsimp only | split | (with_reducible refine Only.fst (by with_reducible assumption) ?_) | (with_reducible refine Only.snd (by with_reducible assumption) ?_)

theorem execHbmPatrolScrub_only {K : List Part} {F : FieldId → Prop} {P : PlotId → Prop} {s0 : State} (f : FieldId) (pc : Fin 128) (s : State) (hK : Fits (([.events, .hbmErr, .reg Reg.INJ_PT.ARM, .reg Reg.INJ_PT.DONE, .reg Reg.MEM_ECC_STAT.CORRECTED, .reg Reg.MEM_ECC_STAT.LAST_ADDR, .reg Reg.MEM_ECC_STAT.UNCORRECTED, .reg Reg.MEM_REPAIR_ENTRY.BANK, .reg Reg.MEM_REPAIR_ENTRY.CHANNEL, .reg Reg.MEM_REPAIR_ENTRY.PCH, .reg Reg.MEM_REPAIR_ENTRY.REASON, .reg Reg.MEM_REPAIR_ENTRY.RESULT, .reg Reg.MEM_REPAIR_ENTRY.ROW, .reg Reg.MEM_REPAIR_ENTRY.STACK, .reg Reg.MEM_REPAIR_ENTRY.VALID, .reg Reg.MEM_SCRUB_CTL.PASSES] : List Part) ++ ([.memu, .health] : List Part)) K) (hF : F f)
    (ho : Only K F P s0 s) : Ends K F P s0 (execHbmPatrolScrub f pc s) := by
  unfold execHbmPatrolScrub
  repeat' first | with_reducible assumption | exact Fits.trans (by decide +kernel) hK | exact hF | with_reducible apply Ends.inRim | with_reducible apply State.patrol_only | with_reducible apply Ends.finish | with_reducible apply Ends.next | with_reducible apply Only.ite | with_reducible apply Ends.ite | dsimp only | split | (with_reducible refine Only.fst (by with_reducible assumption) ?_) | (with_reducible refine Only.snd (by with_reducible assumption) ?_)

theorem State.releaseHeld_only {K : List Part} {F : FieldId → Prop} {P : PlotId → Prop} {s0 : State} (s : State) (f : FieldId) (hK : Fits (([.events, .hbm, .hbmErr, .reg Reg.GWY_STAT.ABSORBED, .reg Reg.INJ_PT.ARM, .reg Reg.INJ_PT.DONE, .reg Reg.MEM_ECC_STAT.CORRECTED, .reg Reg.MEM_ECC_STAT.LAST_ADDR, .reg Reg.MEM_ECC_STAT.POISON_WRITES, .reg Reg.MEM_ECC_STAT.UNCORRECTED, .reg Reg.MEM_REPAIR_ENTRY.BANK, .reg Reg.MEM_REPAIR_ENTRY.CHANNEL, .reg Reg.MEM_REPAIR_ENTRY.PCH, .reg Reg.MEM_REPAIR_ENTRY.REASON, .reg Reg.MEM_REPAIR_ENTRY.RESULT, .reg Reg.MEM_REPAIR_ENTRY.ROW] : List Part) ++ ([.reg Reg.MEM_REPAIR_ENTRY.STACK, .reg Reg.MEM_REPAIR_ENTRY.VALID, .memu, .health] : List Part)) K) (hF : F f)
    (ho : Only K F P s0 s) : Only K F P s0 (State.releaseHeld s f) := by
  unfold State.releaseHeld
  repeat' first | with_reducible assumption | exact Fits.trans (by decide +kernel) hK | exact hF | with_reducible apply State.lineApply_only | with_reducible apply State.updMemu_only | with_reducible apply Only.ite | dsimp only | split | (with_reducible refine Only.fst (by with_reducible assumption) ?_) | (with_reducible refine Only.snd (by with_reducible assumption) ?_)

theorem execMirrorWriteRelease_only {K : List Part} {F : FieldId → Prop} {P : PlotId → Prop} {s0 : State} (f : FieldId) (s : State) (hK : Fits (([.events, .hbm, .hbmErr, .reg Reg.GWY_STAT.ABSORBED, .reg Reg.INJ_PT.ARM, .reg Reg.INJ_PT.DONE, .reg Reg.MEM_ECC_STAT.CORRECTED, .reg Reg.MEM_ECC_STAT.LAST_ADDR, .reg Reg.MEM_ECC_STAT.POISON_WRITES, .reg Reg.MEM_ECC_STAT.UNCORRECTED, .reg Reg.MEM_REPAIR_ENTRY.BANK, .reg Reg.MEM_REPAIR_ENTRY.CHANNEL, .reg Reg.MEM_REPAIR_ENTRY.PCH, .reg Reg.MEM_REPAIR_ENTRY.REASON, .reg Reg.MEM_REPAIR_ENTRY.RESULT, .reg Reg.MEM_REPAIR_ENTRY.ROW] : List Part) ++ ([.reg Reg.MEM_REPAIR_ENTRY.STACK, .reg Reg.MEM_REPAIR_ENTRY.VALID, .memu, .health] : List Part)) K) (hF : F f)
    (ho : Only K F P s0 s) : Ends K F P s0 (execMirrorWriteRelease f s) := by
  unfold execMirrorWriteRelease
  repeat' first | with_reducible assumption | exact Fits.trans (by decide +kernel) hK | exact hF | with_reducible apply Ends.inRim | with_reducible apply State.releaseHeld_only | with_reducible apply Ends.finish | with_reducible apply Ends.next | with_reducible apply Only.ite | with_reducible apply Ends.ite | dsimp only | split | (with_reducible refine Only.fst (by with_reducible assumption) ?_) | (with_reducible refine Only.snd (by with_reducible assumption) ?_)

theorem State.injArithVacate_only {K : List Part} {F : FieldId → Prop} {P : PlotId → Prop} {s0 : State} (s : State) (f : FieldId) (i : Nat) (hK : Fits ([.reg Reg.INJ_ARITH.ARM, .reg Reg.INJ_ARITH.NOFIRE] : List Part) K) (hF : F f)
    (ho : Only K F P s0 s) : Only K F P s0 (State.injArithVacate s f i) := by
  unfold State.injArithVacate
  repeat' first | with_reducible assumption | exact Fits.trans (by decide +kernel) hK | exact hF | with_reducible apply State.fset_only | with_reducible apply Only.ite | dsimp only | split | (with_reducible refine Only.fst (by with_reducible assumption) ?_) | (with_reducible refine Only.snd (by with_reducible assumption) ?_)

theorem State.makeFallow_only {K : List Part} {F : FieldId → Prop} {P : PlotId → Prop} {s0 : State} (s : State) (f : FieldId) (q : Nat) (hK : Fits ([.events, .reg Reg.FLD_FALLOW_RUN.RUN, .reg Reg.INJ_ARITH.ARM, .reg Reg.INJ_ARITH.NOFIRE, .drill, .boot, .plotReg Reg.PLT_BOOT.STATUS] : List Part) K) (hF : F f) (hP : ∀ p, P p)
    (ho : Only K F P s0 s) : Only K F P s0 (State.makeFallow s f q) := by
  unfold State.makeFallow
  repeat' first | with_reducible assumption | exact Fits.trans (by decide +kernel) hK | exact hF | exact hP | exact hP _ | with_reducible apply State.updField_only | with_reducible apply State.raise_only | with_reducible apply State.injArithVacate_only | with_reducible apply State.drillCtl_only | (refine fun (X : Field) => ?_) | with_reducible apply FieldOnly.setReg | with_reducible exact FieldOnly.refl _ _ _ | with_reducible apply FieldOnly.updPlot | with_reducible apply FieldOnly.ite | (refine FieldOnly.keep rfl rfl (fun k hk => ?_); cases k <;> first | exact trivial | exact rfl | exact ⟨rfl, rfl⟩ | exact ⟨rfl, rfl, rfl⟩ | exact (Fits.not hK hk rfl).elim) | with_reducible apply Only.ite | dsimp only | split | (with_reducible refine Only.fst (by with_reducible assumption) ?_) | (with_reducible refine Only.snd (by with_reducible assumption) ?_)

theorem execPlotFallowSet_only {K : List Part} {F : FieldId → Prop} {P : PlotId → Prop} {s0 : State} (f : FieldId) (phys : Fin 272) (s : State) (hK : Fits ([.events, .reg Reg.FLD_FALLOW_RUN.RUN, .reg Reg.INJ_ARITH.ARM, .reg Reg.INJ_ARITH.NOFIRE, .drill, .boot, .plotReg Reg.PLT_BOOT.STATUS] : List Part) K) (hF : F f) (hP : ∀ p, P p)
    (ho : Only K F P s0 s) : Ends K F P s0 (execPlotFallowSet f phys s) := by
  unfold execPlotFallowSet
  repeat' first | with_reducible assumption | exact Fits.trans (by decide +kernel) hK | exact hF | exact hP | exact hP _ | with_reducible apply Ends.inRim | with_reducible apply State.makeFallow_only | with_reducible apply Ends.finish | with_reducible apply Ends.next | with_reducible apply Only.ite | with_reducible apply Ends.ite | dsimp only | split | (with_reducible refine Only.fst (by with_reducible assumption) ?_) | (with_reducible refine Only.snd (by with_reducible assumption) ?_)

theorem State.meshStoreWrite_only {K : List Part} {F : FieldId → Prop} {P : PlotId → Prop} {s0 : State} (s : State) (f : FieldId) (p : PlotId) (a : Nat) (data : List Byte) (poisoned : Bool) (hK : Fits ([.events, .store, .storeErr, .plotReg Reg.PLT_STORE_ECC.CORRECTED, .plotReg Reg.PLT_STORE_ECC.LAST_ADDR, .plotReg Reg.PLT_STORE_ECC.UNCORRECTED, .health] : List Part) K) (hF : F f) (hP : P p)
    (ho : Only K F P s0 s) : Only K F P s0 (State.meshStoreWrite s f p a data poisoned).1 := by
  unfold State.meshStoreWrite
  repeat' first | with_reducible assumption | exact Fits.trans (by decide +kernel) hK | exact hF | exact hP | with_reducible apply State.storePoison_only | with_reducible apply State.storeWrite_only | with_reducible apply Only.ite | dsimp only | split | (with_reducible refine Only.fst (by with_reducible assumption) ?_) | (with_reducible refine Only.snd (by with_reducible assumption) ?_)

theorem execPlotStoreMeshWrite_only {K : List Part} {F : FieldId → Prop} {P : PlotId → Prop} {s0 : State} (f : FieldId) (p : PlotId) (addr : Nat) (data : List Byte) (poisoned : Bool) (s : State) (hK : Fits ([.events, .store, .storeErr, .plotReg Reg.PLT_STORE_ECC.CORRECTED, .plotReg Reg.PLT_STORE_ECC.LAST_ADDR, .plotReg Reg.PLT_STORE_ECC.UNCORRECTED, .health] : List Part) K) (hF : F f) (hP : P p)
    (ho : Only K F P s0 s) : Ends K F P s0 (execPlotStoreMeshWrite f p addr data poisoned s) := by
  unfold execPlotStoreMeshWrite
  repeat' first | with_reducible assumption | exact Fits.trans (by decide +kernel) hK | exact hF | exact hP | with_reducible apply State.meshStoreWrite_only | with_reducible apply Ends.finish | with_reducible apply Ends.next | with_reducible apply Only.ite | with_reducible apply Ends.ite | dsimp only | split | (with_reducible refine Only.fst (by with_reducible assumption) ?_) | (with_reducible refine Only.snd (by with_reducible assumption) ?_)

theorem execPlotStoreScrub_only {K : List Part} {F : FieldId → Prop} {P : PlotId → Prop} {s0 : State} (f : FieldId) (p : PlotId) (s : State) (hK : Fits ([.events, .storeErr, .reg Reg.INJ_PT.ARM, .reg Reg.INJ_PT.DONE, .scrub, .plotReg Reg.PLT_STORE_ECC.CORRECTED, .plotReg Reg.PLT_STORE_ECC.LAST_ADDR, .plotReg Reg.PLT_STORE_ECC.UNCORRECTED, .health] : List Part) K) (hF : F f) (hP : P p)
    (ho : Only K F P s0 s) : Ends K F P s0 (execPlotStoreScrub f p s) := by
  unfold execPlotStoreScrub
  repeat' first | with_reducible assumption | exact Fits.trans (by decide +kernel) hK | exact hF | exact hP | with_reducible apply State.storeRead_only | with_reducible apply State.updPlot_only | with_reducible apply Ends.finish | with_reducible apply Ends.next | (refine fun (X : Plot) => ?_) | with_reducible apply PlotOnly.setReg | with_reducible exact PlotOnly.refl _ _ | with_reducible apply PlotOnly.ite | (refine PlotOnly.keep rfl (fun k hk => ?_); cases k <;> first | exact trivial | exact rfl | exact ⟨rfl, rfl⟩ | exact ⟨rfl, rfl, rfl⟩ | exact (Fits.not hK hk rfl).elim) | with_reducible apply Only.ite | with_reducible apply Ends.ite | dsimp only | split | (with_reducible refine Only.fst (by with_reducible assumption) ?_) | (with_reducible refine Only.snd (by with_reducible assumption) ?_)

theorem State.ringPlot_only {K : List Part} {F : FieldId → Prop} {P : PlotId → Prop} {s0 : State} (s : State) (f : FieldId) (p : PlotId) (v : Nat) (hK : Fits ([.plotReg Reg.PLT_DOORBELL.PENDING] : List Part) K) (hF : F f) (hP : P p)
    (ho : Only K F P s0 s) : Only K F P s0 (State.ringPlot s f p v) := by
  unfold State.ringPlot
  repeat' first | with_reducible assumption | exact Fits.trans (by decide +kernel) hK | exact hF | exact hP | with_reducible apply State.pset_only | with_reducible apply Only.ite | dsimp only | split | (with_reducible refine Only.fst (by with_reducible assumption) ?_) | (with_reducible refine Only.snd (by with_reducible assumption) ?_)

theorem State.mcast_only {K : List Part} {F : FieldId → Prop} {P : PlotId → Prop} {s0 : State} (s : State) (f : FieldId) (isRow : Bool) (index mask : Nat) (copy : State → PlotId → State) (hK : Fits ([.reg Reg.FLD_MESH_STAT.MCAST_SKIPPED, .memu] : List Part) K) (hF : F f) (hc : ∀ t p, Only K F P s0 t → Only K F P s0 (copy t p))
    (ho : Only K F P s0 s) : Only K F P s0 (State.mcast s f isRow index mask copy) := by
  unfold State.mcast
  repeat' first | with_reducible assumption | exact Fits.trans (by decide +kernel) hK | exact hF | with_reducible apply State.fcount_only | with_reducible apply State.updMemu_only | with_reducible apply Only.ite | dsimp only | split | (with_reducible refine Only.foldl _ _ (fun t a ht => ?_) ?_) | (with_reducible refine Only.foldl_fst _ _ _ (fun t a ht => ?_) ?_) | (with_reducible refine Only.fst (by with_reducible assumption) ?_) | (with_reducible refine Only.snd (by with_reducible assumption) ?_) | (apply hc)

theorem State.doorbellRing_only {K : List Part} {F : FieldId → Prop} {P : PlotId → Prop} {s0 : State} (s : State) (f : FieldId) (v target scope : Nat) (hK : Fits ([.reg Reg.FLD_MESH_STAT.MCAST_SKIPPED, .plotReg Reg.PLT_DOORBELL.PENDING, .memu] : List Part) K) (hF : F f) (hP : ∀ p, P p)
    (ho : Only K F P s0 s) : Only K F P s0 (State.doorbellRing s f v target scope) := by
  unfold State.doorbellRing
  repeat' first | with_reducible assumption | exact Fits.trans (by decide +kernel) hK | exact hF | exact hP | exact hP _ | with_reducible apply State.mcast_only | with_reducible apply State.ringPlot_only | with_reducible apply Only.ite | dsimp only | split | (with_reducible refine Only.foldl _ _ (fun t a ht => ?_) ?_) | (with_reducible refine Only.foldl_fst _ _ _ (fun t a ht => ?_) ?_) | (with_reducible refine Only.fst (by with_reducible assumption) ?_) | (with_reducible refine Only.snd (by with_reducible assumption) ?_) | (refine fun t p ht => ?_)

theorem execFldDoorbellRing_only {K : List Part} {F : FieldId → Prop} {P : PlotId → Prop} {s0 : State} (f : FieldId) (v : Nat) (target : PlotId) (scope : Fin 4) (s : State) (hK : Fits ([.reg Reg.FLD_MESH_STAT.MCAST_SKIPPED, .plotReg Reg.PLT_DOORBELL.PENDING, .memu] : List Part) K) (hF : F f) (hP : ∀ p, P p)
    (ho : Only K F P s0 s) : Ends K F P s0 (execFldDoorbellRing f v target scope s) := by
  unfold execFldDoorbellRing
  repeat' first | with_reducible assumption | exact Fits.trans (by decide +kernel) hK | exact hF | exact hP | exact hP _ | with_reducible apply State.doorbellRing_only | with_reducible apply Ends.finish | with_reducible apply Ends.next | with_reducible apply Only.ite | with_reducible apply Ends.ite | dsimp only | split | (with_reducible refine Only.fst (by with_reducible assumption) ?_) | (with_reducible refine Only.snd (by with_reducible assumption) ?_)

theorem execMeshMulticastComplete_only {K : List Part} {F : FieldId → Prop} {P : PlotId → Prop} {s0 : State} (f : FieldId) (s : State) (hK : Fits ([.out, .memu] : List Part) K) (hF : F f)
    (ho : Only K F P s0 s) : Ends K F P s0 (execMeshMulticastComplete f s) := by
  unfold execMeshMulticastComplete
  repeat' first | with_reducible assumption | exact Fits.trans (by decide +kernel) hK | exact hF | with_reducible apply Ends.inRim | with_reducible apply State.emit_only | with_reducible apply State.updMemu_only | with_reducible apply Ends.finish | with_reducible apply Ends.next | with_reducible apply Only.ite | with_reducible apply Ends.ite | dsimp only | split | (with_reducible refine Only.fst (by with_reducible assumption) ?_) | (with_reducible refine Only.snd (by with_reducible assumption) ?_)

end Sys2Proof.Machine
end

