-- ==== Sys2Proof/Laws/Touch/Tally.lean ====
section
/-! SUPPORT. What each operation of Machine/Tally.lean can change: the parts named, and nothing else. -/

namespace Sys2Proof.Machine

set_option Elab.async false

open Sys2Proof

theorem State.updTly_only {K : List Part} {F : FieldId → Prop} {P : PlotId → Prop} {s0 : State} (s : State) (f : FieldId) (g : TallyUnit → TallyUnit) (hK : Fits ([.tally] : List Part) K) (hF : F f)
    (ho : Only K F P s0 s) : Only K F P s0 (State.updTly s f g) := by
  unfold State.updTly
  repeat' first | with_reducible assumption | exact Fits.trans (by decide +kernel) hK | exact hF | with_reducible apply State.updField_only | (refine fun (X : Field) => ?_) | with_reducible apply FieldOnly.setReg | with_reducible exact FieldOnly.refl _ _ _ | with_reducible apply FieldOnly.updPlot | with_reducible apply FieldOnly.ite | (refine FieldOnly.keep rfl rfl (fun k hk => ?_); cases k <;> first | exact trivial | exact rfl | exact ⟨rfl, rfl⟩ | exact ⟨rfl, rfl, rfl⟩ | exact (Fits.not hK hk rfl).elim) | with_reducible apply Only.ite | dsimp only | split | (with_reducible refine Only.fst (by with_reducible assumption) ?_) | (with_reducible refine Only.snd (by with_reducible assumption) ?_)

theorem State.tickField_only {K : List Part} {F : FieldId → Prop} {P : PlotId → Prop} {s0 : State} (s : State) (f : FieldId) (hK : Fits ([.reg Reg.MEM_MIR_STATUS.HOLD_CYCLES, .tally] : List Part) K) (hF : F f)
    (ho : Only K F P s0 s) : Only K F P s0 (State.tickField s f) := by
  unfold State.tickField
  repeat' first | with_reducible assumption | exact Fits.trans (by decide +kernel) hK | exact hF | with_reducible apply State.updTly_only | with_reducible apply State.fwrap_only | with_reducible apply Only.ite | dsimp only | split | (with_reducible refine Only.fst (by with_reducible assumption) ?_) | (with_reducible refine Only.snd (by with_reducible assumption) ?_)

theorem State.hubTallyTo_only {K : List Part} {F : FieldId → Prop} {P : PlotId → Prop} {s0 : State} (s : State) (t : Nat) (hK : Fits ([.tallyHub] : List Part) K)
    (ho : Only K F P s0 s) : Only K F P s0 (State.hubTallyTo s t) := by
  unfold State.hubTallyTo
  repeat' first | with_reducible assumption | exact Fits.trans (by decide +kernel) hK | with_reducible apply State.updHub_only | (refine fun (X : Hub) => ?_) | with_reducible apply HubOnly.setReg | with_reducible exact HubOnly.refl _ _ | with_reducible apply HubOnly.ite | (refine HubOnly.keep rfl (fun k hk => ?_); cases k <;> first | exact trivial | exact rfl | exact ⟨rfl, rfl⟩ | exact ⟨rfl, rfl, rfl⟩ | exact ⟨rfl, rfl, rfl, rfl⟩ | exact (Fits.not hK hk rfl).elim) | with_reducible apply Only.ite | dsimp only | split | (with_reducible refine Only.fst (by with_reducible assumption) ?_) | (with_reducible refine Only.snd (by with_reducible assumption) ?_)

theorem State.tickHub_only {K : List Part} {F : FieldId → Prop} {P : PlotId → Prop} {s0 : State} (s : State) (hK : Fits ([.tallyHub] : List Part) K)
    (ho : Only K F P s0 s) : Only K F P s0 (State.tickHub s) := by
  unfold State.tickHub
  repeat' first | with_reducible assumption | exact Fits.trans (by decide +kernel) hK | with_reducible apply State.hubTallyTo_only | with_reducible apply State.updHub_only | (refine fun (X : Hub) => ?_) | with_reducible apply HubOnly.setReg | with_reducible exact HubOnly.refl _ _ | with_reducible apply HubOnly.ite | (refine HubOnly.keep rfl (fun k hk => ?_); cases k <;> first | exact trivial | exact rfl | exact ⟨rfl, rfl⟩ | exact ⟨rfl, rfl, rfl⟩ | exact ⟨rfl, rfl, rfl, rfl⟩ | exact (Fits.not hK hk rfl).elim) | with_reducible apply Only.ite | dsimp only | split | (with_reducible refine Only.fst (by with_reducible assumption) ?_) | (with_reducible refine Only.snd (by with_reducible assumption) ?_)

theorem State.calSet_only {K : List Part} {F : FieldId → Prop} {P : PlotId → Prop} {s0 : State} (s : State) (t : Nat) (hK : Fits ([.hubReg Reg.CAL_TIME.FRAC, .hubReg Reg.CAL_TIME.SEC] : List Part) K)
    (ho : Only K F P s0 s) : Only K F P s0 (State.calSet s t) := by
  unfold State.calSet
  repeat' first | with_reducible assumption | exact Fits.trans (by decide +kernel) hK | with_reducible apply State.hset_only | with_reducible apply Only.ite | dsimp only | split | (with_reducible refine Only.fst (by with_reducible assumption) ?_) | (with_reducible refine Only.snd (by with_reducible assumption) ?_)

theorem State.calCount_only {K : List Part} {F : FieldId → Prop} {P : PlotId → Prop} {s0 : State} (s : State) (ns : Nat) (hK : Fits ([.hubReg Reg.CAL_TIME.FRAC, .hubReg Reg.CAL_TIME.SEC, .calendar] : List Part) K)
    (ho : Only K F P s0 s) : Only K F P s0 (State.calCount s ns) := by
  unfold State.calCount
  repeat' first | with_reducible assumption | exact Fits.trans (by decide +kernel) hK | with_reducible apply State.updHub_only | with_reducible apply State.calSet_only | (refine fun (X : Hub) => ?_) | with_reducible apply HubOnly.setReg | with_reducible exact HubOnly.refl _ _ | with_reducible apply HubOnly.ite | (refine HubOnly.keep rfl (fun k hk => ?_); cases k <;> first | exact trivial | exact rfl | exact ⟨rfl, rfl⟩ | exact ⟨rfl, rfl, rfl⟩ | exact ⟨rfl, rfl, rfl, rfl⟩ | exact (Fits.not hK hk rfl).elim) | with_reducible apply Only.ite | dsimp only | split | (with_reducible refine Only.fst (by with_reducible assumption) ?_) | (with_reducible refine Only.snd (by with_reducible assumption) ?_)

theorem State.tick_only {K : List Part} {F : FieldId → Prop} {P : PlotId → Prop} {s0 : State} (s : State) (hK : Fits ([.now, .hubReg Reg.CAL_TIME.FRAC, .hubReg Reg.CAL_TIME.SEC, .tallyHub, .calendar, .reg Reg.MEM_MIR_STATUS.HOLD_CYCLES, .tally] : List Part) K) (hF : ∀ f, F f)
    (ho : Only K F P s0 s) : Only K F P s0 (State.tick s) := by
  unfold State.tick
  have h0 : Only K F P s0 { s with now := s.now + 2 } := only_now _ (Fits.trans (by decide +kernel) hK) ho
  generalize ({ s with now := s.now + 2 } : State) = s' at h0 ⊢
  repeat' first | with_reducible assumption | exact Fits.trans (by decide +kernel) hK | exact hF | exact hF _ | with_reducible apply State.tickField_only | with_reducible apply State.calCount_only | with_reducible apply State.tickHub_only | with_reducible apply Only.ite | dsimp only | split | (with_reducible refine Only.foldl _ _ (fun t a ht => ?_) ?_) | (with_reducible refine Only.foldl_fst _ _ _ (fun t a ht => ?_) ?_) | (with_reducible refine Only.fst (by with_reducible assumption) ?_) | (with_reducible refine Only.snd (by with_reducible assumption) ?_)

theorem State.tlySet_only {K : List Part} {F : FieldId → Prop} {P : PlotId → Prop} {s0 : State} (s : State) (f : FieldId) (new : Nat) (hK : Fits ([.events, .reg Reg.TLY_STATUS.STATE, .tally] : List Part) K) (hF : F f)
    (ho : Only K F P s0 s) : Only K F P s0 (State.tlySet s f new) := by
  unfold State.tlySet
  repeat' first | with_reducible assumption | exact Fits.trans (by decide +kernel) hK | exact hF | with_reducible apply State.updTly_only | with_reducible apply State.raise_only | with_reducible apply State.fset_only | with_reducible apply Only.ite | dsimp only | split | (with_reducible refine Only.fst (by with_reducible assumption) ?_) | (with_reducible refine Only.snd (by with_reducible assumption) ?_)

theorem State.rootSet_only {K : List Part} {F : FieldId → Prop} {P : PlotId → Prop} {s0 : State} (s : State) (f : FieldId) (root rank : Nat) (hK : Fits ([.events, .reg Reg.TLY_STATUS.ROOT, .reg Reg.TLY_STATUS.ROOT_RANK] : List Part) K) (hF : F f)
    (ho : Only K F P s0 s) : Only K F P s0 (State.rootSet s f root rank) := by
  unfold State.rootSet
  repeat' first | with_reducible assumption | exact Fits.trans (by decide +kernel) hK | exact hF | with_reducible apply State.raise_only | with_reducible apply State.fset_only | with_reducible apply Only.ite | dsimp only | split | (with_reducible refine Only.fst (by with_reducible assumption) ?_) | (with_reducible refine Only.snd (by with_reducible assumption) ?_)

theorem State.holdoverTrim_only {K : List Part} {F : FieldId → Prop} {P : PlotId → Prop} {s0 : State} (s : State) (f : FieldId) (hK : Fits ([.free, .reg Reg.TLY_STATUS.HOLD, .tally] : List Part) K) (hF : F f)
    (ho : Only K F P s0 s) : Only K F P s0 (State.holdoverTrim s f) := by
  unfold State.holdoverTrim
  repeat' first | with_reducible assumption | exact Fits.trans (by decide +kernel) hK | exact hF | with_reducible apply State.fset_only | with_reducible apply State.updTly_only | with_reducible apply State.draw_only | with_reducible apply Only.ite | dsimp only | split | (with_reducible refine Only.fst (by with_reducible assumption) ?_) | (with_reducible refine Only.snd (by with_reducible assumption) ?_)

theorem State.enterHoldover_only {K : List Part} {F : FieldId → Prop} {P : PlotId → Prop} {s0 : State} (s : State) (f : FieldId) (hK : Fits ([.free, .events, .reg Reg.TLY_STATUS.HOLD, .reg Reg.TLY_STATUS.STATE, .tally] : List Part) K) (hF : F f)
    (ho : Only K F P s0 s) : Only K F P s0 (State.enterHoldover s f) := by
  unfold State.enterHoldover
  repeat' first | with_reducible assumption | exact Fits.trans (by decide +kernel) hK | exact hF | with_reducible apply State.holdoverTrim_only | with_reducible apply State.tlySet_only | with_reducible apply Only.ite | dsimp only | split | (with_reducible refine Only.fst (by with_reducible assumption) ?_) | (with_reducible refine Only.snd (by with_reducible assumption) ?_)

theorem State.epochSet_only {K : List Part} {F : FieldId → Prop} {P : PlotId → Prop} {s0 : State} (s : State) (f : FieldId) (hK : Fits ([.reg Reg.TLY_EPOCH.FRAC, .reg Reg.TLY_EPOCH.SEC, .reg Reg.TLY_EPOCH.VALID] : List Part) K) (hF : F f)
    (ho : Only K F P s0 s) : Only K F P s0 (State.epochSet s f) := by
  unfold State.epochSet
  repeat' first | with_reducible assumption | exact Fits.trans (by decide +kernel) hK | exact hF | with_reducible apply State.fset_only | with_reducible apply Only.ite | dsimp only | split | (with_reducible refine Only.fst (by with_reducible assumption) ?_) | (with_reducible refine Only.snd (by with_reducible assumption) ?_)

theorem State.noParent_only {K : List Part} {F : FieldId → Prop} {P : PlotId → Prop} {s0 : State} (s : State) (f : FieldId) (hK : Fits ([.reg Reg.TLY_STATUS.DIST, .reg Reg.TLY_STATUS.PARENT, .reg Reg.TLY_STATUS.PARENT_LINK] : List Part) K) (hF : F f)
    (ho : Only K F P s0 s) : Only K F P s0 (State.noParent s f) := by
  unfold State.noParent
  repeat' first | with_reducible assumption | exact Fits.trans (by decide +kernel) hK | exact hF | with_reducible apply State.fset_only | with_reducible apply Only.ite | dsimp only | split | (with_reducible refine Only.fst (by with_reducible assumption) ?_) | (with_reducible refine Only.snd (by with_reducible assumption) ?_)

theorem State.becomeRoot_only {K : List Part} {F : FieldId → Prop} {P : PlotId → Prop} {s0 : State} (s : State) (f : FieldId) (rank : Nat) (hK : Fits ([.events, .reg Reg.TLY_EPOCH.FRAC, .reg Reg.TLY_EPOCH.SEC, .reg Reg.TLY_EPOCH.VALID, .reg Reg.TLY_STATUS.DIST, .reg Reg.TLY_STATUS.HOLD, .reg Reg.TLY_STATUS.PARENT, .reg Reg.TLY_STATUS.PARENT_LINK, .reg Reg.TLY_STATUS.ROOT, .reg Reg.TLY_STATUS.ROOT_RANK, .reg Reg.TLY_STATUS.STATE, .tally] : List Part) K) (hF : F f)
    (ho : Only K F P s0 s) : Only K F P s0 (State.becomeRoot s f rank) := by
  unfold State.becomeRoot
  repeat' first | with_reducible assumption | exact Fits.trans (by decide +kernel) hK | exact hF | with_reducible apply State.fset_only | with_reducible apply State.updTly_only | with_reducible apply State.tlySet_only | with_reducible apply State.noParent_only | with_reducible apply State.rootSet_only | with_reducible apply State.epochSet_only | with_reducible apply Only.ite | dsimp only | split | (with_reducible refine Only.fst (by with_reducible assumption) ?_) | (with_reducible refine Only.snd (by with_reducible assumption) ?_)

theorem State.tlyTemp_only {K : List Part} {F : FieldId → Prop} {P : PlotId → Prop} {s0 : State} (s : State) (f : FieldId) (hK : Fits ([.free, .reg Reg.TLY_STATUS.HOLD, .tally] : List Part) K) (hF : F f)
    (ho : Only K F P s0 s) : Only K F P s0 (State.tlyTemp s f) := by
  unfold State.tlyTemp
  repeat' first | with_reducible assumption | exact Fits.trans (by decide +kernel) hK | exact hF | with_reducible apply State.draw_only | with_reducible apply State.updTly_only | with_reducible apply State.holdoverTrim_only | with_reducible apply Only.ite | dsimp only | split | (with_reducible refine Only.fst (by with_reducible assumption) ?_) | (with_reducible refine Only.snd (by with_reducible assumption) ?_)

theorem State.followParent_only {K : List Part} {F : FieldId → Prop} {P : PlotId → Prop} {s0 : State} (s : State) (f : FieldId) (link : Nat) (x : TallyLink) (hK : Fits ([.events, .reg Reg.TLY_STATUS.DIST, .reg Reg.TLY_STATUS.PARENT, .reg Reg.TLY_STATUS.PARENT_LINK, .reg Reg.TLY_STATUS.ROOT, .reg Reg.TLY_STATUS.ROOT_RANK] : List Part) K) (hF : F f)
    (ho : Only K F P s0 s) : Only K F P s0 (State.followParent s f link x) := by
  unfold State.followParent
  repeat' first | with_reducible assumption | exact Fits.trans (by decide +kernel) hK | exact hF | with_reducible apply State.fset_only | with_reducible apply State.rootSet_only | with_reducible apply Only.ite | dsimp only | split | (with_reducible refine Only.fst (by with_reducible assumption) ?_) | (with_reducible refine Only.snd (by with_reducible assumption) ?_)

theorem State.parentSelect_only {K : List Part} {F : FieldId → Prop} {P : PlotId → Prop} {s0 : State} (s : State) (f : FieldId) (hK : Fits ([.free, .events, .reg Reg.TLY_SERVO_STAT.PARENT_CHANGES, .reg Reg.TLY_STATUS.DIST, .reg Reg.TLY_STATUS.HOLD, .reg Reg.TLY_STATUS.PARENT, .reg Reg.TLY_STATUS.PARENT_LINK, .reg Reg.TLY_STATUS.ROOT, .reg Reg.TLY_STATUS.ROOT_RANK, .reg Reg.TLY_STATUS.STATE, .tally] : List Part) K) (hF : F f)
    (ho : Only K F P s0 s) : Only K F P s0 (State.parentSelect s f) := by
  unfold State.parentSelect
  repeat' first | with_reducible assumption | exact Fits.trans (by decide +kernel) hK | exact hF | with_reducible apply State.noParent_only | with_reducible apply State.enterHoldover_only | with_reducible apply State.followParent_only | with_reducible apply State.fcount_only | with_reducible apply State.tlySet_only | with_reducible apply State.updTly_only | with_reducible apply Only.ite | dsimp only | split | (with_reducible refine Only.fst (by with_reducible assumption) ?_) | (with_reducible refine Only.snd (by with_reducible assumption) ?_)

theorem State.tallyForward_only {K : List Part} {F : FieldId → Prop} {P : PlotId → Prop} {s0 : State} (s : State) (f : FieldId) (n : Nat) (hK : Fits ([.tally] : List Part) K) (hF : F f)
    (ho : Only K F P s0 s) : Only K F P s0 (State.tallyForward s f n) := by
  unfold State.tallyForward
  repeat' first | with_reducible assumption | exact Fits.trans (by decide +kernel) hK | exact hF | with_reducible apply State.updTly_only | with_reducible apply Only.ite | dsimp only | split | (with_reducible refine Only.fst (by with_reducible assumption) ?_) | (with_reducible refine Only.snd (by with_reducible assumption) ?_)

theorem State.servoTrim_only {K : List Part} {F : FieldId → Prop} {P : PlotId → Prop} {s0 : State} (s : State) (f : FieldId) (e : Int) (c : Nat) (hK : Fits ([.events, .reg Reg.TLY_STATUS.STATE, .tally] : List Part) K) (hF : F f)
    (ho : Only K F P s0 s) : Only K F P s0 (State.servoTrim s f e c) := by
  unfold State.servoTrim
  repeat' first | with_reducible assumption | exact Fits.trans (by decide +kernel) hK | exact hF | with_reducible apply State.updTly_only | with_reducible apply State.tlySet_only | with_reducible apply Only.ite | dsimp only | split | (with_reducible refine Only.fst (by with_reducible assumption) ?_) | (with_reducible refine Only.snd (by with_reducible assumption) ?_)

theorem State.servo_only {K : List Part} {F : FieldId → Prop} {P : PlotId → Prop} {s0 : State} (s : State) (f : FieldId) (e : Int) (c : Nat) (hK : Fits ([.events, .reg Reg.TLY_SERVO_STAT.OUTLIERS, .reg Reg.TLY_STATUS.HOLD, .reg Reg.TLY_STATUS.STATE, .tally] : List Part) K) (hF : F f)
    (ho : Only K F P s0 s) : Only K F P s0 (State.servo s f e c) := by
  unfold State.servo
  repeat' first | with_reducible assumption | exact Fits.trans (by decide +kernel) hK | exact hF | with_reducible apply State.tallyForward_only | with_reducible apply State.fset_only | with_reducible apply State.servoTrim_only | with_reducible apply State.updTly_only | with_reducible apply State.fcount_only | with_reducible apply State.tlySet_only | with_reducible apply Only.ite | dsimp only | split | (with_reducible refine Only.fst (by with_reducible assumption) ?_) | (with_reducible refine Only.snd (by with_reducible assumption) ?_)

theorem State.cyclesSince_only {K : List Part} {F : FieldId → Prop} {P : PlotId → Prop} {s0 : State} (s : State) (last : Nat) (hK : Fits ([.free] : List Part) K)
    (ho : Only K F P s0 s) : Only K F P s0 (State.cyclesSince s last).2 := by
  unfold State.cyclesSince
  repeat' first | with_reducible assumption | exact Fits.trans (by decide +kernel) hK | with_reducible apply State.draw_only | with_reducible apply Only.ite | dsimp only | split | (with_reducible refine Only.fst (by with_reducible assumption) ?_) | (with_reducible refine Only.snd (by with_reducible assumption) ?_)

theorem State.sample_only {K : List Part} {F : FieldId → Prop} {P : PlotId → Prop} {s0 : State} (s : State) (f : FieldId) (t1 t2 t3 t4 : Nat) (hK : Fits ([.free, .events, .reg Reg.INJ_PT.ARM, .reg Reg.INJ_PT.DONE, .reg Reg.TLY_SERVO_STAT.DELAY, .reg Reg.TLY_SERVO_STAT.OFFSET, .reg Reg.TLY_SERVO_STAT.OUTLIERS, .reg Reg.TLY_STATUS.HOLD, .reg Reg.TLY_STATUS.STATE, .tally] : List Part) K) (hF : F f)
    (ho : Only K F P s0 s) : Only K F P s0 (State.sample s f t1 t2 t3 t4) := by
  unfold State.sample
  repeat' first | with_reducible assumption | exact Fits.trans (by decide +kernel) hK | exact hF | with_reducible apply State.injFire_only | with_reducible apply State.fset_only | with_reducible apply State.cyclesSince_only | with_reducible apply State.servo_only | with_reducible apply State.updTly_only | with_reducible apply Only.ite | dsimp only | split | (with_reducible refine Only.fst (by with_reducible assumption) ?_) | (with_reducible refine Only.snd (by with_reducible assumption) ?_)

theorem execTallyBeaconSend_only {K : List Part} {F : FieldId → Prop} {P : PlotId → Prop} {s0 : State} (f : FieldId) (link : Fin 18) (s : State) (hK : Fits ([.ports, .router, .tally] : List Part) K) (hF : F f)
    (ho : Only K F P s0 s) : Ends K F P s0 (execTallyBeaconSend f link s) := by
  unfold execTallyBeaconSend
  repeat' first | with_reducible assumption | exact Fits.trans (by decide +kernel) hK | exact hF | with_reducible apply State.updTly_only | with_reducible apply State.portQueue_only | with_reducible apply State.d2dQueue_only | with_reducible apply Ends.finish | with_reducible apply Ends.next | with_reducible apply Only.ite | with_reducible apply Ends.ite | dsimp only | split | (with_reducible refine Only.fst (by with_reducible assumption) ?_) | (with_reducible refine Only.snd (by with_reducible assumption) ?_)

theorem State.heardBeat_only {K : List Part} {F : FieldId → Prop} {P : PlotId → Prop} {s0 : State} (s : State) (f : FieldId) (root rank beat : Nat) (hK : Fits ([.tally] : List Part) K) (hF : F f)
    (ho : Only K F P s0 s) : Only K F P s0 (State.heardBeat s f root rank beat) := by
  unfold State.heardBeat
  repeat' first | with_reducible assumption | exact Fits.trans (by decide +kernel) hK | exact hF | with_reducible apply State.updTly_only | with_reducible apply Only.ite | dsimp only | split | (with_reducible refine Only.fst (by with_reducible assumption) ?_) | (with_reducible refine Only.snd (by with_reducible assumption) ?_)

theorem State.rootYield_only {K : List Part} {F : FieldId → Prop} {P : PlotId → Prop} {s0 : State} (s : State) (f : FieldId) (hK : Fits ([.events, .reg Reg.TLY_STATUS.DIST, .reg Reg.TLY_STATUS.PARENT, .reg Reg.TLY_STATUS.PARENT_LINK, .reg Reg.TLY_STATUS.STATE, .tally] : List Part) K) (hF : F f)
    (ho : Only K F P s0 s) : Only K F P s0 (State.rootYield s f) := by
  unfold State.rootYield
  repeat' first | with_reducible assumption | exact Fits.trans (by decide +kernel) hK | exact hF | with_reducible apply State.tlySet_only | with_reducible apply State.updTly_only | with_reducible apply State.noParent_only | with_reducible apply Only.ite | dsimp only | split | (with_reducible refine Only.fst (by with_reducible assumption) ?_) | (with_reducible refine Only.snd (by with_reducible assumption) ?_)

theorem State.fromParent_only {K : List Part} {F : FieldId → Prop} {P : PlotId → Prop} {s0 : State} (s : State) (f : FieldId) (p : Packet) (x : TallyLink) (same : Bool) (t4 : Nat) (hK : Fits ([.free, .events, .reg Reg.INJ_PT.ARM, .reg Reg.INJ_PT.DONE, .reg Reg.TLY_EPOCH.FRAC, .reg Reg.TLY_EPOCH.SEC, .reg Reg.TLY_EPOCH.VALID, .reg Reg.TLY_SERVO_STAT.DELAY, .reg Reg.TLY_SERVO_STAT.OFFSET, .reg Reg.TLY_SERVO_STAT.OUTLIERS, .reg Reg.TLY_STATUS.HOLD, .reg Reg.TLY_STATUS.STATE, .tally] : List Part) K) (hF : F f)
    (ho : Only K F P s0 s) : Only K F P s0 (State.fromParent s f p x same t4) := by
  unfold State.fromParent
  repeat' first | with_reducible assumption | exact Fits.trans (by decide +kernel) hK | exact hF | with_reducible apply State.fset_only | with_reducible apply State.updTly_only | with_reducible apply State.sample_only | with_reducible apply Only.ite | dsimp only | split | (with_reducible refine Only.fst (by with_reducible assumption) ?_) | (with_reducible refine Only.snd (by with_reducible assumption) ?_)

theorem State.beaconTake_only {K : List Part} {F : FieldId → Prop} {P : PlotId → Prop} {s0 : State} (s : State) (f : FieldId) (link : Nat) (p : Packet) (hK : Fits ([.router, .tally] : List Part) K) (hF : F f)
    (ho : Only K F P s0 s) : Only K F P s0 (State.beaconTake s f link p).1 := by
  unfold State.beaconTake
  repeat' first | with_reducible assumption | exact Fits.trans (by decide +kernel) hK | exact hF | with_reducible apply State.updTly_only | with_reducible apply State.updRouter_only | with_reducible apply Only.ite | dsimp only | split | (with_reducible refine Only.fst (by with_reducible assumption) ?_) | (with_reducible refine Only.snd (by with_reducible assumption) ?_)

theorem execTallyBeacon_only {K : List Part} {F : FieldId → Prop} {P : PlotId → Prop} {s0 : State} (f : FieldId) (link : Fin 18) (pkt : Packet) (s : State) (hK : Fits (([.free, .events, .reg Reg.INJ_PT.ARM, .reg Reg.INJ_PT.DONE, .reg Reg.TLY_EPOCH.FRAC, .reg Reg.TLY_EPOCH.SEC, .reg Reg.TLY_EPOCH.VALID, .reg Reg.TLY_SERVO_STAT.DELAY, .reg Reg.TLY_SERVO_STAT.OFFSET, .reg Reg.TLY_SERVO_STAT.OUTLIERS, .reg Reg.TLY_SERVO_STAT.PARENT_CHANGES, .reg Reg.TLY_STATUS.DIST, .reg Reg.TLY_STATUS.HOLD, .reg Reg.TLY_STATUS.PARENT, .reg Reg.TLY_STATUS.PARENT_LINK, .reg Reg.TLY_STATUS.ROOT] : List Part) ++ ([.reg Reg.TLY_STATUS.ROOT_RANK, .reg Reg.TLY_STATUS.STATE, .router, .tally] : List Part)) K) (hF : F f)
    (ho : Only K F P s0 s) : Ends K F P s0 (execTallyBeacon f link pkt s) := by
  unfold execTallyBeacon
  repeat' first | with_reducible assumption | exact Fits.trans (by decide +kernel) hK | exact hF | with_reducible apply State.beaconTake_only | with_reducible apply State.heardBeat_only | with_reducible apply State.updTly_only | with_reducible apply State.rootYield_only | with_reducible apply State.parentSelect_only | with_reducible apply State.fromParent_only | with_reducible apply Ends.finish | with_reducible apply Ends.next | with_reducible apply Only.ite | with_reducible apply Ends.ite | dsimp only | split | (with_reducible refine Only.fst (by with_reducible assumption) ?_) | (with_reducible refine Only.snd (by with_reducible assumption) ?_)

theorem execParentLoss_only {K : List Part} {F : FieldId → Prop} {P : PlotId → Prop} {s0 : State} (f : FieldId) (s : State) (hK : Fits ([.free, .events, .reg Reg.TLY_SERVO_STAT.PARENT_CHANGES, .reg Reg.TLY_STATUS.DIST, .reg Reg.TLY_STATUS.HOLD, .reg Reg.TLY_STATUS.PARENT, .reg Reg.TLY_STATUS.PARENT_LINK, .reg Reg.TLY_STATUS.ROOT, .reg Reg.TLY_STATUS.ROOT_RANK, .reg Reg.TLY_STATUS.STATE, .tally] : List Part) K) (hF : F f)
    (ho : Only K F P s0 s) : Ends K F P s0 (execParentLoss f s) := by
  unfold execParentLoss
  repeat' first | with_reducible assumption | exact Fits.trans (by decide +kernel) hK | exact hF | with_reducible apply Ends.inRim | with_reducible apply State.parentSelect_only | with_reducible apply State.updTly_only | with_reducible apply Ends.finish | with_reducible apply Ends.next | with_reducible apply Only.ite | with_reducible apply Ends.ite | dsimp only | split | (with_reducible refine Only.fst (by with_reducible assumption) ?_) | (with_reducible refine Only.snd (by with_reducible assumption) ?_)

theorem execRootLost_only {K : List Part} {F : FieldId → Prop} {P : PlotId → Prop} {s0 : State} (f : FieldId) (s : State) (hK : Fits ([.free, .events, .reg Reg.TLY_SERVO_STAT.PARENT_CHANGES, .reg Reg.TLY_STATUS.DIST, .reg Reg.TLY_STATUS.HOLD, .reg Reg.TLY_STATUS.PARENT, .reg Reg.TLY_STATUS.PARENT_LINK, .reg Reg.TLY_STATUS.ROOT, .reg Reg.TLY_STATUS.ROOT_RANK, .reg Reg.TLY_STATUS.STATE, .tally] : List Part) K) (hF : F f)
    (ho : Only K F P s0 s) : Ends K F P s0 (execRootLost f s) := by
  unfold execRootLost
  repeat' first | with_reducible assumption | exact Fits.trans (by decide +kernel) hK | exact hF | with_reducible apply Ends.inRim | with_reducible apply State.updTly_only | with_reducible apply State.parentSelect_only | with_reducible apply State.enterHoldover_only | with_reducible apply State.noParent_only | with_reducible apply Ends.finish | with_reducible apply Ends.next | with_reducible apply Only.ite | with_reducible apply Ends.ite | dsimp only | split | (with_reducible refine Only.fst (by with_reducible assumption) ?_) | (with_reducible refine Only.snd (by with_reducible assumption) ?_)

theorem execRootInitial_only {K : List Part} {F : FieldId → Prop} {P : PlotId → Prop} {s0 : State} (f : FieldId) (s : State) (hK : Fits ([.events, .reg Reg.TLY_EPOCH.FRAC, .reg Reg.TLY_EPOCH.SEC, .reg Reg.TLY_EPOCH.VALID, .reg Reg.TLY_STATUS.DIST, .reg Reg.TLY_STATUS.HOLD, .reg Reg.TLY_STATUS.PARENT, .reg Reg.TLY_STATUS.PARENT_LINK, .reg Reg.TLY_STATUS.ROOT, .reg Reg.TLY_STATUS.ROOT_RANK, .reg Reg.TLY_STATUS.STATE, .tally] : List Part) K) (hF : F f)
    (ho : Only K F P s0 s) : Ends K F P s0 (execRootInitial f s) := by
  unfold execRootInitial
  repeat' first | with_reducible assumption | exact Fits.trans (by decide +kernel) hK | exact hF | with_reducible apply Ends.inRim | with_reducible apply State.becomeRoot_only | with_reducible apply Ends.finish | with_reducible apply Ends.next | with_reducible apply Only.ite | with_reducible apply Ends.ite | dsimp only | split | (with_reducible refine Only.fst (by with_reducible assumption) ?_) | (with_reducible refine Only.snd (by with_reducible assumption) ?_)

theorem execRootTakeover_only {K : List Part} {F : FieldId → Prop} {P : PlotId → Prop} {s0 : State} (f : FieldId) (s : State) (hK : Fits ([.events, .reg Reg.TLY_EPOCH.FRAC, .reg Reg.TLY_EPOCH.SEC, .reg Reg.TLY_EPOCH.VALID, .reg Reg.TLY_STATUS.DIST, .reg Reg.TLY_STATUS.HOLD, .reg Reg.TLY_STATUS.PARENT, .reg Reg.TLY_STATUS.PARENT_LINK, .reg Reg.TLY_STATUS.ROOT, .reg Reg.TLY_STATUS.ROOT_RANK, .reg Reg.TLY_STATUS.STATE, .tally] : List Part) K) (hF : F f)
    (ho : Only K F P s0 s) : Ends K F P s0 (execRootTakeover f s) := by
  unfold execRootTakeover
  repeat' first | with_reducible assumption | exact Fits.trans (by decide +kernel) hK | exact hF | with_reducible apply Ends.inRim | with_reducible apply State.becomeRoot_only | with_reducible apply Ends.finish | with_reducible apply Ends.next | with_reducible apply Only.ite | with_reducible apply Ends.ite | dsimp only | split | (with_reducible refine Only.fst (by with_reducible assumption) ?_) | (with_reducible refine Only.snd (by with_reducible assumption) ?_)

theorem execTallyLockTimeout_only {K : List Part} {F : FieldId → Prop} {P : PlotId → Prop} {s0 : State} (f : FieldId) (s : State) (hK : Fits ([.reg Reg.TLY_STATUS.RESULT] : List Part) K) (hF : F f)
    (ho : Only K F P s0 s) : Ends K F P s0 (execTallyLockTimeout f s) := by
  unfold execTallyLockTimeout
  repeat' first | with_reducible assumption | exact Fits.trans (by decide +kernel) hK | exact hF | with_reducible apply Ends.inRim | with_reducible apply State.fset_only | with_reducible apply Ends.finish | with_reducible apply Ends.next | with_reducible apply Only.ite | with_reducible apply Ends.ite | dsimp only | split | (with_reducible refine Only.fst (by with_reducible assumption) ?_) | (with_reducible refine Only.snd (by with_reducible assumption) ?_)

theorem execHubTallyBeacon_only {K : List Part} {F : FieldId → Prop} {P : PlotId → Prop} {s0 : State} (s : State) (hK : Fits ([.free, .tallyHub] : List Part) K)
    (ho : Only K F P s0 s) : Ends K F P s0 (execHubTallyBeacon s) := by
  unfold execHubTallyBeacon
  repeat' first | with_reducible assumption | exact Fits.trans (by decide +kernel) hK | with_reducible apply State.cyclesSince_only | with_reducible apply State.hubTallyTo_only | with_reducible apply State.updHub_only | with_reducible apply Ends.finish | with_reducible apply Ends.next | (refine fun (X : Hub) => ?_) | with_reducible apply HubOnly.setReg | with_reducible exact HubOnly.refl _ _ | with_reducible apply HubOnly.ite | (refine HubOnly.keep rfl (fun k hk => ?_); cases k <;> first | exact trivial | exact rfl | exact ⟨rfl, rfl⟩ | exact ⟨rfl, rfl, rfl⟩ | exact ⟨rfl, rfl, rfl, rfl⟩ | exact (Fits.not hK hk rfl).elim) | with_reducible apply Only.ite | with_reducible apply Ends.ite | dsimp only | split | (with_reducible refine Only.fst (by with_reducible assumption) ?_) | (with_reducible refine Only.snd (by with_reducible assumption) ?_)

theorem execTallyMarkPulse_only {K : List Part} {F : FieldId → Prop} {P : PlotId → Prop} {s0 : State} (s : State) (hK : Fits ([.out, .tallyHub] : List Part) K)
    (ho : Only K F P s0 s) : Ends K F P s0 (execTallyMarkPulse s) := by
  unfold execTallyMarkPulse
  repeat' first | with_reducible assumption | exact Fits.trans (by decide +kernel) hK | with_reducible apply State.updHub_only | with_reducible apply State.emit_only | with_reducible apply Ends.finish | with_reducible apply Ends.next | (refine fun (X : Hub) => ?_) | with_reducible apply HubOnly.setReg | with_reducible exact HubOnly.refl _ _ | with_reducible apply HubOnly.ite | (refine HubOnly.keep rfl (fun k hk => ?_); cases k <;> first | exact trivial | exact rfl | exact ⟨rfl, rfl⟩ | exact ⟨rfl, rfl, rfl⟩ | exact ⟨rfl, rfl, rfl, rfl⟩ | exact (Fits.not hK hk rfl).elim) | with_reducible apply Only.ite | with_reducible apply Ends.ite | dsimp only | split | (with_reducible refine Only.fst (by with_reducible assumption) ?_) | (with_reducible refine Only.snd (by with_reducible assumption) ?_)

theorem execCalendarComp_only {K : List Part} {F : FieldId → Prop} {P : PlotId → Prop} {s0 : State} (temp : Option Int) (s : State) (hK : Fits ([.hubReg Reg.CAL_STATUS.TEMP, .hubReg Reg.CAL_TIME.FRAC, .hubReg Reg.CAL_TIME.SEC, .calendar] : List Part) K)
    (ho : Only K F P s0 s) : Ends K F P s0 (execCalendarComp temp s) := by
  unfold execCalendarComp
  repeat' first | with_reducible assumption | exact Fits.trans (by decide +kernel) hK | with_reducible apply State.hset_only | with_reducible apply State.updHub_only | with_reducible apply State.calSet_only | with_reducible apply Ends.finish | with_reducible apply Ends.next | (refine fun (X : Hub) => ?_) | with_reducible apply HubOnly.setReg | with_reducible exact HubOnly.refl _ _ | with_reducible apply HubOnly.ite | (refine HubOnly.keep rfl (fun k hk => ?_); cases k <;> first | exact trivial | exact rfl | exact ⟨rfl, rfl⟩ | exact ⟨rfl, rfl, rfl⟩ | exact ⟨rfl, rfl, rfl, rfl⟩ | exact (Fits.not hK hk rfl).elim) | with_reducible apply Only.ite | with_reducible apply Ends.ite | dsimp only | split | (with_reducible refine Only.fst (by with_reducible assumption) ?_) | (with_reducible refine Only.snd (by with_reducible assumption) ?_)

theorem execCalApply_only {K : List Part} {F : FieldId → Prop} {P : PlotId → Prop} {s0 : State} (s : State) (hK : Fits ([.hubReg Reg.CAL_SET.APPLY, .hubReg Reg.CAL_TIME.FRAC, .hubReg Reg.CAL_TIME.SEC, .hubReg Reg.CAL_TIME.VALID] : List Part) K)
    (ho : Only K F P s0 s) : Ends K F P s0 (execCalApply s) := by
  unfold execCalApply
  repeat' first | with_reducible assumption | exact Fits.trans (by decide +kernel) hK | with_reducible apply State.hset_only | with_reducible apply Ends.finish | with_reducible apply Ends.next | with_reducible apply Only.ite | with_reducible apply Ends.ite | dsimp only | split | (with_reducible refine Only.fst (by with_reducible assumption) ?_) | (with_reducible refine Only.snd (by with_reducible assumption) ?_)

theorem execVbatLow_only {K : List Part} {F : FieldId → Prop} {P : PlotId → Prop} {s0 : State} (s : State) (hK : Fits ([.events, .hubReg Reg.CAL_STATUS.VBAT_LOW] : List Part) K)
    (ho : Only K F P s0 s) : Ends K F P s0 (execVbatLow s) := by
  unfold execVbatLow
  repeat' first | with_reducible assumption | exact Fits.trans (by decide +kernel) hK | with_reducible apply State.raiseHub_only | with_reducible apply State.hset_only | with_reducible apply Ends.finish | with_reducible apply Ends.next | with_reducible apply Only.ite | with_reducible apply Ends.ite | dsimp only | split | (with_reducible refine Only.fst (by with_reducible assumption) ?_) | (with_reducible refine Only.snd (by with_reducible assumption) ?_)

theorem State.calLost_only {K : List Part} {F : FieldId → Prop} {P : PlotId → Prop} {s0 : State} (s : State) (hK : Fits ([.events, .hubReg Reg.CAL_STATUS.OSC_STOP, .hubReg Reg.CAL_TIME.FRAC, .hubReg Reg.CAL_TIME.SEC, .hubReg Reg.CAL_TIME.VALID] : List Part) K)
    (ho : Only K F P s0 s) : Only K F P s0 (State.calLost s) := by
  unfold State.calLost
  repeat' first | with_reducible assumption | exact Fits.trans (by decide +kernel) hK | with_reducible apply State.calSet_only | with_reducible apply State.hset_only | with_reducible apply State.raiseHub_only | with_reducible apply Only.ite | dsimp only | split | (with_reducible refine Only.fst (by with_reducible assumption) ?_) | (with_reducible refine Only.snd (by with_reducible assumption) ?_)

end Sys2Proof.Machine
end

