-- ==== Sys2Proof/Laws/Touch/Power.lean ====
section
/-! SUPPORT. What each operation of Machine/Power.lean can change: the parts named, and nothing else. -/

namespace Sys2Proof.Machine

set_option Elab.async false

open Sys2Proof

theorem State.updPwr_only {K : List Part} {F : FieldId → Prop} {P : PlotId → Prop} {s0 : State} (s : State) (g : PowerUnit → PowerUnit) (hK : Fits ([.power] : List Part) K)
    (ho : Only K F P s0 s) : Only K F P s0 (State.updPwr s g) := by
  unfold State.updPwr
  repeat' first | with_reducible assumption | exact Fits.trans (by decide +kernel) hK | with_reducible apply State.updHub_only | (refine fun (X : Hub) => ?_) | with_reducible apply HubOnly.setReg | with_reducible exact HubOnly.refl _ _ | with_reducible apply HubOnly.ite | (refine HubOnly.keep rfl (fun k hk => ?_); cases k <;> first | exact trivial | exact rfl | exact ⟨rfl, rfl⟩ | exact ⟨rfl, rfl, rfl⟩ | exact ⟨rfl, rfl, rfl, rfl⟩ | exact (Fits.not hK hk rfl).elim) | with_reducible apply Only.ite | dsimp only | split | (with_reducible refine Only.fst (by with_reducible assumption) ?_) | (with_reducible refine Only.snd (by with_reducible assumption) ?_)

theorem State.updThm_only {K : List Part} {F : FieldId → Prop} {P : PlotId → Prop} {s0 : State} (s : State) (f : FieldId) (g : ThermUnit → ThermUnit) (hK : Fits ([.thermal] : List Part) K) (hF : F f)
    (ho : Only K F P s0 s) : Only K F P s0 (State.updThm s f g) := by
  unfold State.updThm
  repeat' first | with_reducible assumption | exact Fits.trans (by decide +kernel) hK | exact hF | with_reducible apply State.updField_only | (refine fun (X : Field) => ?_) | with_reducible apply FieldOnly.setReg | with_reducible exact FieldOnly.refl _ _ _ | with_reducible apply FieldOnly.updPlot | with_reducible apply FieldOnly.ite | (refine FieldOnly.keep rfl rfl (fun k hk => ?_); cases k <;> first | exact trivial | exact rfl | exact ⟨rfl, rfl⟩ | exact ⟨rfl, rfl, rfl⟩ | exact (Fits.not hK hk rfl).elim) | with_reducible apply Only.ite | dsimp only | split | (with_reducible refine Only.fst (by with_reducible assumption) ?_) | (with_reducible refine Only.snd (by with_reducible assumption) ?_)

theorem State.limitChange_only {K : List Part} {F : FieldId → Prop} {P : PlotId → Prop} {s0 : State} (s : State) (hK : Fits ([.hubReg Reg.PWR_RAMP_STAT.GOVERNED, .hubReg Reg.PWR_RAMP_STAT.LIMIT] : List Part) K)
    (ho : Only K F P s0 s) : Only K F P s0 (State.limitChange s) := by
  unfold State.limitChange
  repeat' first | with_reducible assumption | exact Fits.trans (by decide +kernel) hK | with_reducible apply State.hset_only | with_reducible apply Only.ite | dsimp only | split | (with_reducible refine Only.fst (by with_reducible assumption) ?_) | (with_reducible refine Only.snd (by with_reducible assumption) ?_)

theorem pointReg_fits {K : List Part} (f : FieldId) (hK : Fits [.hubReg Reg.PWR_MODE_STATUS.POINT_0,
    .hubReg Reg.PWR_MODE_STATUS.POINT_1, .hubReg Reg.PWR_MODE_STATUS.POINT_2, .hubReg Reg.PWR_MODE_STATUS.POINT_3] K) :
    Fits [.hubReg (pointReg f)] K := by
  unfold pointReg; split <;> exact Fits.trans (by decide +kernel) hK

theorem State.setPoint_only {K : List Part} {F : FieldId → Prop} {P : PlotId → Prop} {s0 : State} (s : State) (f : FieldId) (hK : Fits ([.hubReg Reg.PWR_MODE_STATUS.POINT_0, .hubReg Reg.PWR_MODE_STATUS.POINT_1, .hubReg Reg.PWR_MODE_STATUS.POINT_2, .hubReg Reg.PWR_MODE_STATUS.POINT_3, .reg Reg.THM_FIELD_STATUS.POINT] : List Part) K) (hF : F f)
    (ho : Only K F P s0 s) : Only K F P s0 (State.setPoint s f) := by
  unfold State.setPoint
  repeat' first | with_reducible assumption | exact Fits.trans (by decide +kernel) hK | exact hF | with_reducible apply State.fset_only | with_reducible apply State.hset_only | apply pointReg_fits | with_reducible apply Only.ite | dsimp only | split | (with_reducible refine Only.fst (by with_reducible assumption) ?_) | (with_reducible refine Only.snd (by with_reducible assumption) ?_) | exact pointReg_fits _ (Fits.trans (by decide +kernel) hK)

theorem State.clocksTo_only {K : List Part} {F : FieldId → Prop} {P : PlotId → Prop} {s0 : State} (s : State) (m : Nat) (hK : Fits ([.hubReg Reg.PWR_MODE_STATUS.MODE, .hubReg Reg.PWR_MODE_STATUS.POINT_0, .hubReg Reg.PWR_MODE_STATUS.POINT_1, .hubReg Reg.PWR_MODE_STATUS.POINT_2, .hubReg Reg.PWR_MODE_STATUS.POINT_3, .hubReg Reg.PWR_RAMP_STAT.GOVERNED, .hubReg Reg.PWR_RAMP_STAT.LIMIT, .reg Reg.THM_FIELD_STATUS.POINT] : List Part) K) (hF : ∀ f, F f)
    (ho : Only K F P s0 s) : Only K F P s0 (State.clocksTo s m) := by
  unfold State.clocksTo
  repeat' first | with_reducible assumption | exact Fits.trans (by decide +kernel) hK | exact hF | exact hF _ | with_reducible apply State.limitChange_only | with_reducible apply State.setPoint_only | with_reducible apply State.hset_only | with_reducible apply Only.ite | dsimp only | split | (with_reducible refine Only.foldl _ _ (fun t a ht => ?_) ?_) | (with_reducible refine Only.foldl_fst _ _ _ (fun t a ht => ?_) ?_) | (with_reducible refine Only.fst (by with_reducible assumption) ?_) | (with_reducible refine Only.snd (by with_reducible assumption) ?_)

theorem State.setVsel_only {K : List Part} {F : FieldId → Prop} {P : PlotId → Prop} {s0 : State} (s : State) (v : Nat) (hK : Fits ([.hubReg Reg.PWR_MODE_STATUS.VSEL, .power] : List Part) K)
    (ho : Only K F P s0 s) : Only K F P s0 (State.setVsel s v) := by
  unfold State.setVsel
  repeat' first | with_reducible assumption | exact Fits.trans (by decide +kernel) hK | with_reducible apply State.updPwr_only | with_reducible apply State.hset_only | with_reducible apply Only.ite | dsimp only | split | (with_reducible refine Only.foldl _ _ (fun t a ht => ?_) ?_) | (with_reducible refine Only.foldl_fst _ _ _ (fun t a ht => ?_) ?_) | (with_reducible refine Only.fst (by with_reducible assumption) ?_) | (with_reducible refine Only.snd (by with_reducible assumption) ?_)

theorem State.modeStart_only {K : List Part} {F : FieldId → Prop} {P : PlotId → Prop} {s0 : State} (s : State) (hK : Fits ([.hubReg Reg.PWR_MODE_STATUS.CHANGING, .hubReg Reg.PWR_MODE_STATUS.MODE, .hubReg Reg.PWR_MODE_STATUS.PENDING, .hubReg Reg.PWR_MODE_STATUS.POINT_0, .hubReg Reg.PWR_MODE_STATUS.POINT_1, .hubReg Reg.PWR_MODE_STATUS.POINT_2, .hubReg Reg.PWR_MODE_STATUS.POINT_3, .hubReg Reg.PWR_MODE_STATUS.VSEL, .hubReg Reg.PWR_RAMP_STAT.GOVERNED, .hubReg Reg.PWR_RAMP_STAT.LIMIT, .power, .reg Reg.THM_FIELD_STATUS.POINT] : List Part) K) (hF : ∀ f, F f)
    (ho : Only K F P s0 s) : Only K F P s0 (State.modeStart s) := by
  unfold State.modeStart
  repeat' first | with_reducible assumption | exact Fits.trans (by decide +kernel) hK | exact hF | exact hF _ | with_reducible apply State.hset_only | with_reducible apply State.updPwr_only | with_reducible apply State.setVsel_only | with_reducible apply State.clocksTo_only | with_reducible apply Only.ite | dsimp only | split | (with_reducible refine Only.fst (by with_reducible assumption) ?_) | (with_reducible refine Only.snd (by with_reducible assumption) ?_)

theorem State.modeTry_only {K : List Part} {F : FieldId → Prop} {P : PlotId → Prop} {s0 : State} (s : State) (hK : Fits ([.hubReg Reg.PWR_MODE_STATUS.CHANGING, .hubReg Reg.PWR_MODE_STATUS.MODE, .hubReg Reg.PWR_MODE_STATUS.PENDING, .hubReg Reg.PWR_MODE_STATUS.POINT_0, .hubReg Reg.PWR_MODE_STATUS.POINT_1, .hubReg Reg.PWR_MODE_STATUS.POINT_2, .hubReg Reg.PWR_MODE_STATUS.POINT_3, .hubReg Reg.PWR_MODE_STATUS.VSEL, .hubReg Reg.PWR_RAMP_STAT.GOVERNED, .hubReg Reg.PWR_RAMP_STAT.LIMIT, .power, .reg Reg.THM_FIELD_STATUS.POINT] : List Part) K) (hF : ∀ f, F f)
    (ho : Only K F P s0 s) : Only K F P s0 (State.modeTry s) := by
  unfold State.modeTry
  repeat' first | with_reducible assumption | exact Fits.trans (by decide +kernel) hK | exact hF | exact hF _ | with_reducible apply State.modeStart_only | with_reducible apply Only.ite | dsimp only | split | (with_reducible refine Only.fst (by with_reducible assumption) ?_) | (with_reducible refine Only.snd (by with_reducible assumption) ?_)

theorem State.modeRequest_only {K : List Part} {F : FieldId → Prop} {P : PlotId → Prop} {s0 : State} (s : State) (m : Nat) (atMark : Bool) (hK : Fits ([.hubReg Reg.PWR_MODE_STATUS.CHANGING, .hubReg Reg.PWR_MODE_STATUS.MODE, .hubReg Reg.PWR_MODE_STATUS.PENDING, .hubReg Reg.PWR_MODE_STATUS.POINT_0, .hubReg Reg.PWR_MODE_STATUS.POINT_1, .hubReg Reg.PWR_MODE_STATUS.POINT_2, .hubReg Reg.PWR_MODE_STATUS.POINT_3, .hubReg Reg.PWR_MODE_STATUS.REQ, .hubReg Reg.PWR_MODE_STATUS.VSEL, .hubReg Reg.PWR_RAMP_STAT.GOVERNED, .hubReg Reg.PWR_RAMP_STAT.LIMIT, .power, .reg Reg.THM_FIELD_STATUS.POINT] : List Part) K) (hF : ∀ f, F f)
    (ho : Only K F P s0 s) : Only K F P s0 (State.modeRequest s m atMark) := by
  unfold State.modeRequest
  repeat' first | with_reducible assumption | exact Fits.trans (by decide +kernel) hK | exact hF | exact hF _ | with_reducible apply State.hset_only | with_reducible apply State.modeTry_only | with_reducible apply State.updPwr_only | with_reducible apply Only.ite | dsimp only | split | (with_reducible refine Only.fst (by with_reducible assumption) ?_) | (with_reducible refine Only.snd (by with_reducible assumption) ?_)

theorem State.modeFromReg_only {K : List Part} {F : FieldId → Prop} {P : PlotId → Prop} {s0 : State} (s : State) (hK : Fits ([.hubReg Reg.PWR_MODE_STATUS.CHANGING, .hubReg Reg.PWR_MODE_STATUS.MODE, .hubReg Reg.PWR_MODE_STATUS.PENDING, .hubReg Reg.PWR_MODE_STATUS.POINT_0, .hubReg Reg.PWR_MODE_STATUS.POINT_1, .hubReg Reg.PWR_MODE_STATUS.POINT_2, .hubReg Reg.PWR_MODE_STATUS.POINT_3, .hubReg Reg.PWR_MODE_STATUS.REQ, .hubReg Reg.PWR_MODE_STATUS.VSEL, .hubReg Reg.PWR_RAMP_STAT.GOVERNED, .hubReg Reg.PWR_RAMP_STAT.LIMIT, .power, .reg Reg.THM_FIELD_STATUS.POINT] : List Part) K) (hF : ∀ f, F f)
    (ho : Only K F P s0 s) : Only K F P s0 (State.modeFromReg s) := by
  unfold State.modeFromReg
  repeat' first | with_reducible assumption | exact Fits.trans (by decide +kernel) hK | exact hF | exact hF _ | with_reducible apply State.modeRequest_only | with_reducible apply Only.ite | dsimp only | split | (with_reducible refine Only.fst (by with_reducible assumption) ?_) | (with_reducible refine Only.snd (by with_reducible assumption) ?_)

theorem execPowerModeRequest_only {K : List Part} {F : FieldId → Prop} {P : PlotId → Prop} {s0 : State} (mode : Fin 4) (atMark : Bool) (limit : Nat) (s : State) (hK : Fits ([.hubReg Reg.PWR_MODE_CTL.AT_MARK, .hubReg Reg.PWR_MODE_CTL.LIMIT_W, .hubReg Reg.PWR_MODE_CTL.MODE, .hubReg Reg.PWR_MODE_STATUS.CHANGING, .hubReg Reg.PWR_MODE_STATUS.MODE, .hubReg Reg.PWR_MODE_STATUS.PENDING, .hubReg Reg.PWR_MODE_STATUS.POINT_0, .hubReg Reg.PWR_MODE_STATUS.POINT_1, .hubReg Reg.PWR_MODE_STATUS.POINT_2, .hubReg Reg.PWR_MODE_STATUS.POINT_3, .hubReg Reg.PWR_MODE_STATUS.REQ, .hubReg Reg.PWR_MODE_STATUS.VSEL, .hubReg Reg.PWR_RAMP_STAT.GOVERNED, .hubReg Reg.PWR_RAMP_STAT.LIMIT, .power, .reg Reg.THM_FIELD_STATUS.POINT] : List Part) K) (hF : ∀ f, F f)
    (ho : Only K F P s0 s) : Ends K F P s0 (execPowerModeRequest mode atMark limit s) := by
  unfold execPowerModeRequest
  repeat' first | with_reducible assumption | exact Fits.trans (by decide +kernel) hK | exact hF | exact hF _ | with_reducible apply State.hset_only | with_reducible apply State.modeFromReg_only | with_reducible apply State.limitChange_only | with_reducible apply Ends.finish | with_reducible apply Ends.next | with_reducible apply Only.ite | with_reducible apply Ends.ite | dsimp only | split | (with_reducible refine Only.fst (by with_reducible assumption) ?_) | (with_reducible refine Only.snd (by with_reducible assumption) ?_)

theorem execPowerModeChange_only {K : List Part} {F : FieldId → Prop} {P : PlotId → Prop} {s0 : State} (s : State) (hK : Fits ([.hubReg Reg.PWR_MODE_STATUS.CHANGING, .hubReg Reg.PWR_MODE_STATUS.MODE, .hubReg Reg.PWR_MODE_STATUS.PENDING, .hubReg Reg.PWR_MODE_STATUS.POINT_0, .hubReg Reg.PWR_MODE_STATUS.POINT_1, .hubReg Reg.PWR_MODE_STATUS.POINT_2, .hubReg Reg.PWR_MODE_STATUS.POINT_3, .hubReg Reg.PWR_MODE_STATUS.VSEL, .hubReg Reg.PWR_RAMP_STAT.GOVERNED, .hubReg Reg.PWR_RAMP_STAT.LIMIT, .power, .reg Reg.THM_FIELD_STATUS.POINT] : List Part) K) (hF : ∀ f, F f)
    (ho : Only K F P s0 s) : Ends K F P s0 (execPowerModeChange s) := by
  unfold execPowerModeChange
  repeat' first | with_reducible assumption | exact Fits.trans (by decide +kernel) hK | exact hF | exact hF _ | with_reducible apply State.modeTry_only | with_reducible apply Ends.finish | with_reducible apply Ends.next | with_reducible apply Only.ite | with_reducible apply Ends.ite | dsimp only | split | (with_reducible refine Only.fst (by with_reducible assumption) ?_) | (with_reducible refine Only.snd (by with_reducible assumption) ?_)

theorem execPowerModeChangeComplete_only {K : List Part} {F : FieldId → Prop} {P : PlotId → Prop} {s0 : State} (s : State) (hK : Fits ([.events, .hubReg Reg.PWR_MODE_STATUS.CHANGING, .hubReg Reg.PWR_MODE_STATUS.MODE, .hubReg Reg.PWR_MODE_STATUS.PENDING, .hubReg Reg.PWR_MODE_STATUS.POINT_0, .hubReg Reg.PWR_MODE_STATUS.POINT_1, .hubReg Reg.PWR_MODE_STATUS.POINT_2, .hubReg Reg.PWR_MODE_STATUS.POINT_3, .hubReg Reg.PWR_MODE_STATUS.VSEL, .hubReg Reg.PWR_RAMP_STAT.GOVERNED, .hubReg Reg.PWR_RAMP_STAT.LIMIT, .power, .reg Reg.THM_FIELD_STATUS.POINT] : List Part) K) (hF : ∀ f, F f)
    (ho : Only K F P s0 s) : Ends K F P s0 (execPowerModeChangeComplete s) := by
  unfold execPowerModeChangeComplete
  repeat' first | with_reducible assumption | exact Fits.trans (by decide +kernel) hK | exact hF | exact hF _ | with_reducible apply State.clocksTo_only | with_reducible apply State.hset_only | with_reducible apply State.setVsel_only | with_reducible apply State.modeTry_only | with_reducible apply State.raiseHub_only | with_reducible apply Ends.finish | with_reducible apply Ends.next | with_reducible apply Only.ite | with_reducible apply Ends.ite | dsimp only | split | (with_reducible refine Only.fst (by with_reducible assumption) ?_) | (with_reducible refine Only.snd (by with_reducible assumption) ?_)

theorem State.governMark_only {K : List Part} {F : FieldId → Prop} {P : PlotId → Prop} {s0 : State} (s : State) (hK : Fits ([.hubReg Reg.PWR_RAMP_STAT.RATE_MAX, .hubReg Reg.PWR_RAMP_STAT.RELEASED, .power] : List Part) K)
    (ho : Only K F P s0 s) : Only K F P s0 (State.governMark s) := by
  unfold State.governMark
  repeat' first | with_reducible assumption | exact Fits.trans (by decide +kernel) hK | with_reducible apply State.updPwr_only | with_reducible apply State.hset_only | with_reducible apply Only.ite | dsimp only | split | (with_reducible refine Only.fst (by with_reducible assumption) ?_) | (with_reducible refine Only.snd (by with_reducible assumption) ?_)

theorem State.hubMark_only {K : List Part} {F : FieldId → Prop} {P : PlotId → Prop} {s0 : State} (s : State) (f : FieldId) (hK : Fits ([.hubReg Reg.PWR_MODE_STATUS.CHANGING, .hubReg Reg.PWR_MODE_STATUS.MODE, .hubReg Reg.PWR_MODE_STATUS.PENDING, .hubReg Reg.PWR_MODE_STATUS.POINT_0, .hubReg Reg.PWR_MODE_STATUS.POINT_1, .hubReg Reg.PWR_MODE_STATUS.POINT_2, .hubReg Reg.PWR_MODE_STATUS.POINT_3, .hubReg Reg.PWR_MODE_STATUS.VSEL, .hubReg Reg.PWR_RAMP_STAT.GOVERNED, .hubReg Reg.PWR_RAMP_STAT.LIMIT, .hubReg Reg.PWR_RAMP_STAT.RATE_MAX, .hubReg Reg.PWR_RAMP_STAT.RELEASED, .power, .reg Reg.THM_FIELD_STATUS.POINT] : List Part) K) (hF : ∀ f, F f)
    (ho : Only K F P s0 s) : Only K F P s0 (State.hubMark s f) := by
  unfold State.hubMark
  repeat' first | with_reducible assumption | exact Fits.trans (by decide +kernel) hK | exact hF | exact hF _ | with_reducible apply State.governMark_only | with_reducible apply State.modeTry_only | with_reducible apply State.updPwr_only | with_reducible apply Only.ite | dsimp only | split | (with_reducible refine Only.fst (by with_reducible assumption) ?_) | (with_reducible refine Only.snd (by with_reducible assumption) ?_)

theorem State.hubMark_far {K : List Part} {F : FieldId → Prop} {P : PlotId → Prop} {s0 : State} (s : State) (f : FieldId) (hK : Fits (([.hubReg Reg.PWR_MODE_STATUS.CHANGING, .hubReg Reg.PWR_MODE_STATUS.MODE, .hubReg Reg.PWR_MODE_STATUS.PENDING, .hubReg Reg.PWR_MODE_STATUS.POINT_0, .hubReg Reg.PWR_MODE_STATUS.POINT_1, .hubReg Reg.PWR_MODE_STATUS.POINT_2, .hubReg Reg.PWR_MODE_STATUS.POINT_3, .hubReg Reg.PWR_MODE_STATUS.VSEL, .hubReg Reg.PWR_RAMP_STAT.GOVERNED, .hubReg Reg.PWR_RAMP_STAT.LIMIT, .hubReg Reg.PWR_RAMP_STAT.RATE_MAX, .hubReg Reg.PWR_RAMP_STAT.RELEASED, .power, .reg Reg.THM_FIELD_STATUS.POINT] : List Part).map Part.afar) K)
    (ho : Only K F P s0 s) : Only K F P s0 (State.hubMark s f) :=
  ho.trans (Only.far (l := ([.hubReg Reg.PWR_MODE_STATUS.CHANGING, .hubReg Reg.PWR_MODE_STATUS.MODE, .hubReg Reg.PWR_MODE_STATUS.PENDING, .hubReg Reg.PWR_MODE_STATUS.POINT_0, .hubReg Reg.PWR_MODE_STATUS.POINT_1, .hubReg Reg.PWR_MODE_STATUS.POINT_2, .hubReg Reg.PWR_MODE_STATUS.POINT_3, .hubReg Reg.PWR_MODE_STATUS.VSEL, .hubReg Reg.PWR_RAMP_STAT.GOVERNED, .hubReg Reg.PWR_RAMP_STAT.LIMIT, .hubReg Reg.PWR_RAMP_STAT.RATE_MAX, .hubReg Reg.PWR_RAMP_STAT.RELEASED, .power, .reg Reg.THM_FIELD_STATUS.POINT] : List Part)) (State.hubMark_only s f (Fits.refl _) (fun _ => trivial) (Only.refl _ _ _ _)) hK)

theorem State.governFields_only {K : List Part} {F : FieldId → Prop} {P : PlotId → Prop} {s0 : State} (s : State) (hK : Fits ([.thermal] : List Part) K) (hF : ∀ f, F f)
    (ho : Only K F P s0 s) : Only K F P s0 (State.governFields s) := by
  unfold State.governFields
  repeat' first | with_reducible assumption | exact Fits.trans (by decide +kernel) hK | exact hF | exact hF _ | with_reducible apply State.updThm_only | with_reducible apply Only.ite | dsimp only | split | (with_reducible refine Only.foldl _ _ (fun t a ht => ?_) ?_) | (with_reducible refine Only.foldl_fst _ _ _ (fun t a ht => ?_) ?_) | (with_reducible refine Only.fst (by with_reducible assumption) ?_) | (with_reducible refine Only.snd (by with_reducible assumption) ?_)

theorem State.rateMax_only {K : List Part} {F : FieldId → Prop} {P : PlotId → Prop} {s0 : State} (s : State) (p : Nat) (hK : Fits ([.hubReg Reg.PWR_RAMP_STAT.RATE_MAX, .power] : List Part) K)
    (ho : Only K F P s0 s) : Only K F P s0 (State.rateMax s p) := by
  unfold State.rateMax
  repeat' first | with_reducible assumption | exact Fits.trans (by decide +kernel) hK | with_reducible apply State.hset_only | with_reducible apply State.updPwr_only | with_reducible apply Only.ite | dsimp only | split | (with_reducible refine Only.fst (by with_reducible assumption) ?_) | (with_reducible refine Only.snd (by with_reducible assumption) ?_)

theorem State.powerExceed_only {K : List Part} {F : FieldId → Prop} {P : PlotId → Prop} {s0 : State} (s : State) (p : Nat) (hK : Fits ([.events, .hubReg Reg.PWR_RAMP_STAT.EXCEED, .power] : List Part) K)
    (ho : Only K F P s0 s) : Only K F P s0 (State.powerExceed s p) := by
  unfold State.powerExceed
  repeat' first | with_reducible assumption | exact Fits.trans (by decide +kernel) hK | with_reducible apply State.updPwr_only | with_reducible apply State.hset_only | with_reducible apply State.raiseHub_only | with_reducible apply Only.ite | dsimp only | split | (with_reducible refine Only.fst (by with_reducible assumption) ?_) | (with_reducible refine Only.snd (by with_reducible assumption) ?_)

theorem State.govern_only {K : List Part} {F : FieldId → Prop} {P : PlotId → Prop} {s0 : State} (s : State) (p pb : Nat) (wantUp : Bool) (hK : Fits ([.hubReg Reg.PWR_RAMP_STAT.BALLAST, .hubReg Reg.PWR_RAMP_STAT.DUTY, .hubReg Reg.PWR_RAMP_STAT.GOVERNED] : List Part) K)
    (ho : Only K F P s0 s) : Only K F P s0 (State.govern s p pb wantUp) := by
  unfold State.govern
  repeat' first | with_reducible assumption | exact Fits.trans (by decide +kernel) hK | with_reducible apply State.hset_only | with_reducible apply Only.ite | dsimp only | split | (with_reducible refine Only.fst (by with_reducible assumption) ?_) | (with_reducible refine Only.snd (by with_reducible assumption) ?_)

theorem State.governOff_only {K : List Part} {F : FieldId → Prop} {P : PlotId → Prop} {s0 : State} (s : State) (hK : Fits ([.hubReg Reg.PWR_RAMP_STAT.BALLAST, .hubReg Reg.PWR_RAMP_STAT.DUTY, .thermal] : List Part) K) (hF : ∀ f, F f)
    (ho : Only K F P s0 s) : Only K F P s0 (State.governOff s) := by
  unfold State.governOff
  repeat' first | with_reducible assumption | exact Fits.trans (by decide +kernel) hK | exact hF | exact hF _ | with_reducible apply State.governFields_only | with_reducible apply State.hset_only | with_reducible apply Only.ite | dsimp only | split | (with_reducible refine Only.fst (by with_reducible assumption) ?_) | (with_reducible refine Only.snd (by with_reducible assumption) ?_)

theorem execGovernorPeriod_only {K : List Part} {F : FieldId → Prop} {P : PlotId → Prop} {s0 : State} (p pb : Nat) (wantUp : Bool) (s : State) (hK : Fits ([.events, .hubReg Reg.PWR_RAMP_STAT.BALLAST, .hubReg Reg.PWR_RAMP_STAT.BALLAST_W, .hubReg Reg.PWR_RAMP_STAT.DUTY, .hubReg Reg.PWR_RAMP_STAT.EXCEED, .hubReg Reg.PWR_RAMP_STAT.GOVERNED, .hubReg Reg.PWR_RAMP_STAT.LIMIT, .hubReg Reg.PWR_RAMP_STAT.POWER, .hubReg Reg.PWR_RAMP_STAT.RATE_MAX, .power, .thermal] : List Part) K) (hF : ∀ f, F f)
    (ho : Only K F P s0 s) : Ends K F P s0 (execGovernorPeriod p pb wantUp s) := by
  unfold execGovernorPeriod
  repeat' first | with_reducible assumption | exact Fits.trans (by decide +kernel) hK | exact hF | exact hF _ | with_reducible apply State.hset_only | with_reducible apply State.powerExceed_only | with_reducible apply State.rateMax_only | with_reducible apply State.governFields_only | with_reducible apply State.govern_only | with_reducible apply State.governOff_only | with_reducible apply Ends.finish | with_reducible apply Ends.next | with_reducible apply Only.ite | with_reducible apply Ends.ite | dsimp only | split | (with_reducible refine Only.fst (by with_reducible assumption) ?_) | (with_reducible refine Only.snd (by with_reducible assumption) ?_)

theorem execRampRelease_only {K : List Part} {F : FieldId → Prop} {P : PlotId → Prop} {s0 : State} (s : State) (hK : Fits ([.hubReg Reg.PWR_RAMP_STAT.RELEASED, .power] : List Part) K)
    (ho : Only K F P s0 s) : Ends K F P s0 (execRampRelease s) := by
  unfold execRampRelease
  repeat' first | with_reducible assumption | exact Fits.trans (by decide +kernel) hK | with_reducible apply State.updPwr_only | with_reducible apply State.hset_only | with_reducible apply Ends.finish | with_reducible apply Ends.next | with_reducible apply Only.ite | with_reducible apply Ends.ite | dsimp only | split | (with_reducible refine Only.fst (by with_reducible assumption) ?_) | (with_reducible refine Only.snd (by with_reducible assumption) ?_)

theorem execStartTokenGrant_only {K : List Part} {F : FieldId → Prop} {P : PlotId → Prop} {s0 : State} (f : FieldId) (s : State) (hK : Fits ([.tine, .thermal] : List Part) K) (hF : F f) (hP : ∀ p, P p)
    (ho : Only K F P s0 s) : Ends K F P s0 (execStartTokenGrant f s) := by
  unfold execStartTokenGrant
  repeat' first | with_reducible assumption | exact Fits.trans (by decide +kernel) hK | exact hF | exact hP | exact hP _ | with_reducible apply Ends.inRim | with_reducible apply State.updThm_only | with_reducible apply State.updPlot_only | with_reducible apply Ends.finish | with_reducible apply Ends.next | (refine fun (X : Plot) => ?_) | with_reducible apply PlotOnly.setReg | with_reducible exact PlotOnly.refl _ _ | with_reducible apply PlotOnly.ite | (refine PlotOnly.keep rfl (fun k hk => ?_); cases k <;> first | exact trivial | exact rfl | exact ⟨rfl, rfl⟩ | exact ⟨rfl, rfl, rfl⟩ | exact (Fits.not hK hk rfl).elim) | with_reducible apply Only.ite | with_reducible apply Ends.ite | dsimp only | split | (with_reducible refine Only.fst (by with_reducible assumption) ?_) | (with_reducible refine Only.snd (by with_reducible assumption) ?_)

theorem execPlotDormant_only {K : List Part} {F : FieldId → Prop} {P : PlotId → Prop} {s0 : State} (f : FieldId) (p : PlotId) (s : State) (hK : Fits ([.tine, .thermal] : List Part) K) (hF : F f) (hP : P p)
    (ho : Only K F P s0 s) : Ends K F P s0 (execPlotDormant f p s) := by
  unfold execPlotDormant
  repeat' first | with_reducible assumption | exact Fits.trans (by decide +kernel) hK | exact hF | exact hP | with_reducible apply State.updPlot_only | with_reducible apply State.tokenAsk_only | with_reducible apply Ends.finish | with_reducible apply Ends.next | (refine fun (X : Plot) => ?_) | with_reducible apply PlotOnly.setReg | with_reducible exact PlotOnly.refl _ _ | with_reducible apply PlotOnly.ite | (refine PlotOnly.keep rfl (fun k hk => ?_); cases k <;> first | exact trivial | exact rfl | exact ⟨rfl, rfl⟩ | exact ⟨rfl, rfl, rfl⟩ | exact (Fits.not hK hk rfl).elim) | with_reducible apply Only.ite | with_reducible apply Ends.ite | dsimp only | split | (with_reducible refine Only.fst (by with_reducible assumption) ?_) | (with_reducible refine Only.snd (by with_reducible assumption) ?_)

theorem execBallastRow_only {K : List Part} {F : FieldId → Prop} {P : PlotId → Prop} {s0 : State} (f : FieldId) (p : PlotId) (_t : TineId) (s : State) (hK : Fits ([.tine, .thermal] : List Part) K) (hF : F f) (hP : P p)
    (ho : Only K F P s0 s) : Ends K F P s0 (execBallastRow f p _t s) := by
  unfold execBallastRow
  repeat' first | with_reducible assumption | exact Fits.trans (by decide +kernel) hK | exact hF | exact hP | with_reducible apply State.tokenAsk_only | with_reducible apply State.updPlot_only | with_reducible apply Ends.finish | with_reducible apply Ends.next | (refine fun (X : Plot) => ?_) | with_reducible apply PlotOnly.setReg | with_reducible exact PlotOnly.refl _ _ | with_reducible apply PlotOnly.ite | (refine PlotOnly.keep rfl (fun k hk => ?_); cases k <;> first | exact trivial | exact rfl | exact ⟨rfl, rfl⟩ | exact ⟨rfl, rfl, rfl⟩ | exact (Fits.not hK hk rfl).elim) | with_reducible apply Only.ite | with_reducible apply Ends.ite | dsimp only | split | (with_reducible refine Only.fst (by with_reducible assumption) ?_) | (with_reducible refine Only.snd (by with_reducible assumption) ?_)

theorem execDroopDetectorTrip_only {K : List Part} {F : FieldId → Prop} {P : PlotId → Prop} {s0 : State} (f : FieldId) (p : PlotId) (cycles : Nat) (s : State) (hK : Fits ([.plotReg Reg.PLT_CLOCK_STAT.DROOP_TRIPS, .plotReg Reg.PLT_CLOCK_STAT.STRETCHED] : List Part) K) (hF : F f) (hP : P p)
    (ho : Only K F P s0 s) : Ends K F P s0 (execDroopDetectorTrip f p cycles s) := by
  unfold execDroopDetectorTrip
  repeat' first | with_reducible assumption | exact Fits.trans (by decide +kernel) hK | exact hF | exact hP | with_reducible apply State.pwrap_only | with_reducible apply State.pcount_only | with_reducible apply Ends.finish | with_reducible apply Ends.next | with_reducible apply Only.ite | with_reducible apply Ends.ite | dsimp only | split | (with_reducible refine Only.fst (by with_reducible assumption) ?_) | (with_reducible refine Only.snd (by with_reducible assumption) ?_)

theorem State.holdEnter_only {K : List Part} {F : FieldId → Prop} {P : PlotId → Prop} {s0 : State} (s : State) (inj : Bool) (hK : Fits ([.events, .hubReg Reg.PWR_MODE_STATUS.HOLD, .hubReg Reg.PWR_MODE_STATUS.HOLD_COUNT, .hubReg Reg.PWR_RAMP_STAT.BALLAST, .hubReg Reg.PWR_RAMP_STAT.GOVERNED, .hubReg Reg.PWR_RAMP_STAT.LIMIT, .power, .thermal] : List Part) K) (hF : ∀ f, F f)
    (ho : Only K F P s0 s) : Only K F P s0 (State.holdEnter s inj) := by
  unfold State.holdEnter
  repeat' first | with_reducible assumption | exact Fits.trans (by decide +kernel) hK | exact hF | exact hF _ | with_reducible apply State.updThm_only | with_reducible apply State.updPwr_only | with_reducible apply State.hcount_only | with_reducible apply State.hset_only | with_reducible apply State.limitChange_only | with_reducible apply State.raiseHub_only | with_reducible apply Only.ite | dsimp only | split | (with_reducible refine Only.foldl _ _ (fun t a ht => ?_) ?_) | (with_reducible refine Only.foldl_fst _ _ _ (fun t a ht => ?_) ?_) | (with_reducible refine Only.fst (by with_reducible assumption) ?_) | (with_reducible refine Only.snd (by with_reducible assumption) ?_)

theorem State.warnSet_only {K : List Part} {F : FieldId → Prop} {P : PlotId → Prop} {s0 : State} (s : State) (pin inj : Bool) (hK : Fits ([.events, .hubReg Reg.PWR_MODE_STATUS.HOLD, .hubReg Reg.PWR_MODE_STATUS.HOLD_COUNT, .hubReg Reg.PWR_RAMP_STAT.BALLAST, .hubReg Reg.PWR_RAMP_STAT.GOVERNED, .hubReg Reg.PWR_RAMP_STAT.LIMIT, .power, .thermal] : List Part) K) (hF : ∀ f, F f)
    (ho : Only K F P s0 s) : Only K F P s0 (State.warnSet s pin inj) := by
  unfold State.warnSet
  repeat' first | with_reducible assumption | exact Fits.trans (by decide +kernel) hK | exact hF | exact hF _ | with_reducible apply State.updPwr_only | with_reducible apply State.holdEnter_only | with_reducible apply Only.ite | dsimp only | split | (with_reducible refine Only.fst (by with_reducible assumption) ?_) | (with_reducible refine Only.snd (by with_reducible assumption) ?_)

theorem execPwrWarnAssert_only {K : List Part} {F : FieldId → Prop} {P : PlotId → Prop} {s0 : State} (s : State) (hK : Fits ([.events, .hubReg Reg.PWR_MODE_STATUS.HOLD, .hubReg Reg.PWR_MODE_STATUS.HOLD_COUNT, .hubReg Reg.PWR_RAMP_STAT.BALLAST, .hubReg Reg.PWR_RAMP_STAT.GOVERNED, .hubReg Reg.PWR_RAMP_STAT.LIMIT, .power, .thermal] : List Part) K) (hF : ∀ f, F f)
    (ho : Only K F P s0 s) : Ends K F P s0 (execPwrWarnAssert s) := by
  unfold execPwrWarnAssert
  repeat' first | with_reducible assumption | exact Fits.trans (by decide +kernel) hK | exact hF | exact hF _ | with_reducible apply State.warnSet_only | with_reducible apply Ends.finish | with_reducible apply Ends.next | with_reducible apply Only.ite | with_reducible apply Ends.ite | dsimp only | split | (with_reducible refine Only.fst (by with_reducible assumption) ?_) | (with_reducible refine Only.snd (by with_reducible assumption) ?_)

theorem execPwrWarnDeassert_only {K : List Part} {F : FieldId → Prop} {P : PlotId → Prop} {s0 : State} (s : State) (hK : Fits ([.events, .hubReg Reg.PWR_MODE_STATUS.HOLD, .hubReg Reg.PWR_MODE_STATUS.HOLD_COUNT, .hubReg Reg.PWR_RAMP_STAT.BALLAST, .hubReg Reg.PWR_RAMP_STAT.GOVERNED, .hubReg Reg.PWR_RAMP_STAT.LIMIT, .power, .thermal] : List Part) K) (hF : ∀ f, F f)
    (ho : Only K F P s0 s) : Ends K F P s0 (execPwrWarnDeassert s) := by
  unfold execPwrWarnDeassert
  repeat' first | with_reducible assumption | exact Fits.trans (by decide +kernel) hK | exact hF | exact hF _ | with_reducible apply State.warnSet_only | with_reducible apply Ends.finish | with_reducible apply Ends.next | with_reducible apply Only.ite | with_reducible apply Ends.ite | dsimp only | split | (with_reducible refine Only.fst (by with_reducible assumption) ?_) | (with_reducible refine Only.snd (by with_reducible assumption) ?_)

theorem execHoldEnd_only {K : List Part} {F : FieldId → Prop} {P : PlotId → Prop} {s0 : State} (s : State) (hK : Fits ([.events, .hubReg Reg.PWR_MODE_STATUS.CHANGING, .hubReg Reg.PWR_MODE_STATUS.HOLD, .hubReg Reg.PWR_MODE_STATUS.MODE, .hubReg Reg.PWR_MODE_STATUS.PENDING, .hubReg Reg.PWR_MODE_STATUS.POINT_0, .hubReg Reg.PWR_MODE_STATUS.POINT_1, .hubReg Reg.PWR_MODE_STATUS.POINT_2, .hubReg Reg.PWR_MODE_STATUS.POINT_3, .hubReg Reg.PWR_MODE_STATUS.VSEL, .hubReg Reg.PWR_RAMP_STAT.GOVERNED, .hubReg Reg.PWR_RAMP_STAT.LIMIT, .power, .reg Reg.THM_FIELD_STATUS.POINT, .thermal] : List Part) K) (hF : ∀ f, F f)
    (ho : Only K F P s0 s) : Ends K F P s0 (execHoldEnd s) := by
  unfold execHoldEnd
  repeat' first | with_reducible assumption | exact Fits.trans (by decide +kernel) hK | exact hF | exact hF _ | with_reducible apply State.updThm_only | with_reducible apply State.updPwr_only | with_reducible apply State.hset_only | with_reducible apply State.limitChange_only | with_reducible apply State.modeTry_only | with_reducible apply State.raiseHub_only | with_reducible apply Ends.finish | with_reducible apply Ends.next | with_reducible apply Only.ite | with_reducible apply Ends.ite | dsimp only | split | (with_reducible refine Only.foldl _ _ (fun t a ht => ?_) ?_) | (with_reducible refine Only.foldl_fst _ _ _ (fun t a ht => ?_) ?_) | (with_reducible refine Only.fst (by with_reducible assumption) ?_) | (with_reducible refine Only.snd (by with_reducible assumption) ?_)

theorem State.fieldDark_only {K : List Part} {F : FieldId → Prop} {P : PlotId → Prop} {s0 : State} (s : State) (f : FieldId) (hK : Fits (([.events, .out, .hubReg Reg.HUB_D2D_STATUS.MODULES, .hubReg Reg.HUB_D2D_STATUS.UP, .hubReg Reg.HUB_FIELD_STATE.HBM0_OK, .hubReg Reg.HUB_FIELD_STATE.HBM1_OK, .hubReg Reg.HUB_FIELD_STATE.STATE, .hubReg Reg.MBX_HUB_IN_META.FULL, .hubReg Reg.MBX_HUB_OUT_ACK.CODE, .hubReg Reg.MBX_HUB_OUT_ACK.DONE, .hubReg Reg.MBX_HUB_OUT_META.PENDING, .hubSlots, .store, .bin, .storeErr, .binErr] : List Part) ++ ([.reg Reg.INJ_PT.ARM, .reg Reg.INJ_PT.DONE, .reg Reg.RTE_COMB_STAT.MERGED, .reg Reg.RTE_COMB_STAT.PEAK, .reg Reg.RTE_LINK_CNT.LOST, .reg Reg.RTE_LINK_CNT.NAKS, .reg Reg.RTE_LINK_CNT.REPLAYED, .reg Reg.RTE_LINK_CNT.TX_FLITS, .reg Reg.RTE_LINK_CREDIT.RES, .reg Reg.RTE_LINK_CREDIT.SHARED, .reg Reg.RTE_LINK_STATUS.PRESERVED, .reg Reg.RTE_LINK_STATUS.RESULT, .reg Reg.RTE_LINK_STATUS.STATE, .drill, .dr, .queue] : List Part) ++ ([.cq, .tine, .samples, .scrub, .notify, .xlines, .boot, .slot, .anyPlotReg, .hard, .ports, .router, .gateway, .tally, .far (.reg Reg.MBX_RIM_IN_META.FULL), .far (.reg Reg.MBX_RIM_OUT_ACK.CODE)] : List Part) ++ ([.far (.reg Reg.MBX_RIM_OUT_ACK.DONE), .far (.reg Reg.MBX_RIM_OUT_META.PENDING), .far .slot, .far (.plotReg Reg.MBX_PLOT_IN_META.FULL), .far (.plotReg Reg.MBX_PLOT_OUT_ACK.CODE), .far (.plotReg Reg.MBX_PLOT_OUT_ACK.DONE), .far (.plotReg Reg.MBX_PLOT_OUT_META.PENDING), .far .rimSlots] : List Part)) K) (hF : F f) (hP : ∀ p, P p)
    (ho : Only K F P s0 s) : Only K F P s0 (State.fieldDark s f) := by
  unfold State.fieldDark
  repeat' first | with_reducible assumption | exact Fits.trans (by decide +kernel) hK | exact hF | exact hP | exact hP _ | with_reducible apply State.updField_only | with_reducible apply State.hset_only | with_reducible apply State.setSvc_only | with_reducible apply State.resetPartition_only | with_reducible apply State.updPort_only | with_reducible apply State.linkDarken_only | with_reducible apply State.d2dFieldDown_only | (refine fun (X : Field) => ?_) | with_reducible apply FieldOnly.setReg | with_reducible exact FieldOnly.refl _ _ _ | with_reducible apply FieldOnly.updPlot | with_reducible apply FieldOnly.ite | (refine FieldOnly.keep rfl rfl (fun k hk => ?_); cases k <;> first | exact trivial | exact rfl | exact ⟨rfl, rfl⟩ | exact ⟨rfl, rfl, rfl⟩ | exact (Fits.not hK hk rfl).elim) | with_reducible apply Only.ite | dsimp only | split | (with_reducible refine Only.foldl _ _ (fun t a ht => ?_) ?_) | (with_reducible refine Only.foldl_fst _ _ _ (fun t a ht => ?_) ?_) | (with_reducible refine Only.fst (by with_reducible assumption) ?_) | (with_reducible refine Only.snd (by with_reducible assumption) ?_) | exact Fits.anyPlot _ (Fits.trans (by decide +kernel) hK)

theorem execRimFatalError_only {K : List Part} {F : FieldId → Prop} {P : PlotId → Prop} {s0 : State} (f : FieldId) (s : State) (hK : Fits (([.events, .out, .hubReg Reg.HUB_D2D_STATUS.MODULES, .hubReg Reg.HUB_D2D_STATUS.UP, .hubReg Reg.HUB_FIELD_STATE.HBM0_OK, .hubReg Reg.HUB_FIELD_STATE.HBM1_OK, .hubReg Reg.HUB_FIELD_STATE.STATE, .hubReg Reg.MBX_HUB_IN_META.FULL, .hubReg Reg.MBX_HUB_OUT_ACK.CODE, .hubReg Reg.MBX_HUB_OUT_ACK.DONE, .hubReg Reg.MBX_HUB_OUT_META.PENDING, .hubSlots, .store, .bin, .storeErr, .binErr] : List Part) ++ ([.reg Reg.INJ_PT.ARM, .reg Reg.INJ_PT.DONE, .reg Reg.RTE_COMB_STAT.MERGED, .reg Reg.RTE_COMB_STAT.PEAK, .reg Reg.RTE_LINK_CNT.LOST, .reg Reg.RTE_LINK_CNT.NAKS, .reg Reg.RTE_LINK_CNT.REPLAYED, .reg Reg.RTE_LINK_CNT.TX_FLITS, .reg Reg.RTE_LINK_CREDIT.RES, .reg Reg.RTE_LINK_CREDIT.SHARED, .reg Reg.RTE_LINK_STATUS.PRESERVED, .reg Reg.RTE_LINK_STATUS.RESULT, .reg Reg.RTE_LINK_STATUS.STATE, .drill, .dr, .queue] : List Part) ++ ([.cq, .tine, .samples, .scrub, .notify, .xlines, .boot, .slot, .anyPlotReg, .hard, .ports, .router, .gateway, .tally, .far (.reg Reg.MBX_RIM_IN_META.FULL), .far (.reg Reg.MBX_RIM_OUT_ACK.CODE)] : List Part) ++ ([.far (.reg Reg.MBX_RIM_OUT_ACK.DONE), .far (.reg Reg.MBX_RIM_OUT_META.PENDING), .far .slot, .far (.plotReg Reg.MBX_PLOT_IN_META.FULL), .far (.plotReg Reg.MBX_PLOT_OUT_ACK.CODE), .far (.plotReg Reg.MBX_PLOT_OUT_ACK.DONE), .far (.plotReg Reg.MBX_PLOT_OUT_META.PENDING), .far .rimSlots] : List Part)) K) (hF : F f) (hP : ∀ p, P p)
    (ho : Only K F P s0 s) : Ends K F P s0 (execRimFatalError f s) := by
  unfold execRimFatalError
  repeat' first | with_reducible assumption | exact Fits.trans (by decide +kernel) hK | exact hF | exact hP | exact hP _ | with_reducible apply State.fieldDark_only | with_reducible apply Ends.finish | with_reducible apply Ends.next | with_reducible apply Only.ite | with_reducible apply Ends.ite | dsimp only | split | (with_reducible refine Only.fst (by with_reducible assumption) ?_) | (with_reducible refine Only.snd (by with_reducible assumption) ?_) | exact Fits.anyPlot _ (Fits.trans (by decide +kernel) hK)

theorem State.setRail_only {K : List Part} {F : FieldId → Prop} {P : PlotId → Prop} {s0 : State} (s : State) (k : Nat) (up : Bool) (hK : Fits ([.power] : List Part) K)
    (ho : Only K F P s0 s) : Only K F P s0 (State.setRail s k up) := by
  unfold State.setRail
  repeat' first | with_reducible assumption | exact Fits.trans (by decide +kernel) hK | with_reducible apply State.updPwr_only | with_reducible apply Only.ite | dsimp only | split | (with_reducible refine Only.fst (by with_reducible assumption) ?_) | (with_reducible refine Only.snd (by with_reducible assumption) ?_)

theorem State.optUp_only {K : List Part} {F : FieldId → Prop} {P : PlotId → Prop} {s0 : State} (s : State) (hK : Fits ([.hubReg Reg.PWR_RAIL_STATUS.PGOOD_OPT, .power] : List Part) K)
    (ho : Only K F P s0 s) : Only K F P s0 (State.optUp s) := by
  unfold State.optUp
  repeat' first | with_reducible assumption | exact Fits.trans (by decide +kernel) hK | with_reducible apply State.setRail_only | with_reducible apply State.hset_only | with_reducible apply Only.ite | dsimp only | split | (with_reducible refine Only.fst (by with_reducible assumption) ?_) | (with_reducible refine Only.snd (by with_reducible assumption) ?_)

theorem State.pwrenDrop_only {K : List Part} {F : FieldId → Prop} {P : PlotId → Prop} {s0 : State} (s : State) (f : FieldId) (hK : Fits ([.hubReg Reg.PWR_RAIL_STATUS.PGOOD, .hubReg Reg.PWR_RAIL_STATUS.PWREN, .power] : List Part) K)
    (ho : Only K F P s0 s) : Only K F P s0 (State.pwrenDrop s f) := by
  unfold State.pwrenDrop
  repeat' first | with_reducible assumption | exact Fits.trans (by decide +kernel) hK | with_reducible apply State.hset_only | with_reducible apply State.setRail_only | with_reducible apply Only.ite | dsimp only | split | (with_reducible refine Only.fst (by with_reducible assumption) ?_) | (with_reducible refine Only.snd (by with_reducible assumption) ?_)

theorem State.pgoodFall_only {K : List Part} {F : FieldId → Prop} {P : PlotId → Prop} {s0 : State} (s : State) (f : FieldId) (hK : Fits (([.events, .out, .hubReg Reg.HUB_D2D_STATUS.MODULES, .hubReg Reg.HUB_D2D_STATUS.UP, .hubReg Reg.HUB_FIELD_STATE.HBM0_OK, .hubReg Reg.HUB_FIELD_STATE.HBM1_OK, .hubReg Reg.HUB_FIELD_STATE.STATE, .hubReg Reg.MBX_HUB_IN_META.FULL, .hubReg Reg.MBX_HUB_OUT_ACK.CODE, .hubReg Reg.MBX_HUB_OUT_ACK.DONE, .hubReg Reg.MBX_HUB_OUT_META.PENDING, .hubReg Reg.PWR_RAIL_STATUS.FAULTS, .hubReg Reg.PWR_RAIL_STATUS.PGOOD, .hubReg Reg.PWR_RAIL_STATUS.PWREN, .hubSlots, .power] : List Part) ++ ([.store, .bin, .storeErr, .binErr, .reg Reg.INJ_PT.ARM, .reg Reg.INJ_PT.DONE, .reg Reg.RTE_COMB_STAT.MERGED, .reg Reg.RTE_COMB_STAT.PEAK, .reg Reg.RTE_LINK_CNT.LOST, .reg Reg.RTE_LINK_CNT.NAKS, .reg Reg.RTE_LINK_CNT.REPLAYED, .reg Reg.RTE_LINK_CNT.TX_FLITS, .reg Reg.RTE_LINK_CREDIT.RES, .reg Reg.RTE_LINK_CREDIT.SHARED, .reg Reg.RTE_LINK_STATUS.PRESERVED, .reg Reg.RTE_LINK_STATUS.RESULT] : List Part) ++ ([.reg Reg.RTE_LINK_STATUS.STATE, .drill, .dr, .queue, .cq, .tine, .samples, .scrub, .notify, .xlines, .boot, .slot, .anyPlotReg, .hard, .ports, .router] : List Part) ++ ([.gateway, .tally, .far (.reg Reg.MBX_RIM_IN_META.FULL), .far (.reg Reg.MBX_RIM_OUT_ACK.CODE), .far (.reg Reg.MBX_RIM_OUT_ACK.DONE), .far (.reg Reg.MBX_RIM_OUT_META.PENDING), .far .slot, .far (.plotReg Reg.MBX_PLOT_IN_META.FULL), .far (.plotReg Reg.MBX_PLOT_OUT_ACK.CODE), .far (.plotReg Reg.MBX_PLOT_OUT_ACK.DONE), .far (.plotReg Reg.MBX_PLOT_OUT_META.PENDING), .far .rimSlots] : List Part)) K) (hF : F f) (hP : ∀ p, P p)
    (ho : Only K F P s0 s) : Ends K F P s0 (State.pgoodFall s f) := by
  unfold State.pgoodFall
  repeat' first | with_reducible assumption | exact Fits.trans (by decide +kernel) hK | exact hF | exact hP | exact hP _ | with_reducible apply State.fieldDark_only | with_reducible apply State.raiseHub_only | with_reducible apply State.hcount_only | with_reducible apply State.pwrenDrop_only | with_reducible apply Ends.finish | with_reducible apply Ends.next | with_reducible apply Only.ite | with_reducible apply Ends.ite | dsimp only | split | (with_reducible refine Only.fst (by with_reducible assumption) ?_) | (with_reducible refine Only.snd (by with_reducible assumption) ?_) | exact Fits.anyPlot _ (Fits.trans (by decide +kernel) hK)

theorem State.pgoodFall_all {K : List Part} {F : FieldId → Prop} {P : PlotId → Prop} {s0 : State} (s : State) (f : FieldId) (hK : Fits ((([.events, .out, .hubReg Reg.HUB_D2D_STATUS.MODULES, .hubReg Reg.HUB_D2D_STATUS.UP, .hubReg Reg.HUB_FIELD_STATE.HBM0_OK, .hubReg Reg.HUB_FIELD_STATE.HBM1_OK, .hubReg Reg.HUB_FIELD_STATE.STATE, .hubReg Reg.MBX_HUB_IN_META.FULL, .hubReg Reg.MBX_HUB_OUT_ACK.CODE, .hubReg Reg.MBX_HUB_OUT_ACK.DONE, .hubReg Reg.MBX_HUB_OUT_META.PENDING, .hubReg Reg.PWR_RAIL_STATUS.FAULTS, .hubReg Reg.PWR_RAIL_STATUS.PGOOD, .hubReg Reg.PWR_RAIL_STATUS.PWREN, .hubSlots, .power] : List Part) ++ ([.store, .bin, .storeErr, .binErr, .reg Reg.INJ_PT.ARM, .reg Reg.INJ_PT.DONE, .reg Reg.RTE_COMB_STAT.MERGED, .reg Reg.RTE_COMB_STAT.PEAK, .reg Reg.RTE_LINK_CNT.LOST, .reg Reg.RTE_LINK_CNT.NAKS, .reg Reg.RTE_LINK_CNT.REPLAYED, .reg Reg.RTE_LINK_CNT.TX_FLITS, .reg Reg.RTE_LINK_CREDIT.RES, .reg Reg.RTE_LINK_CREDIT.SHARED, .reg Reg.RTE_LINK_STATUS.PRESERVED, .reg Reg.RTE_LINK_STATUS.RESULT] : List Part) ++ ([.reg Reg.RTE_LINK_STATUS.STATE, .drill, .dr, .queue, .cq, .tine, .samples, .scrub, .notify, .xlines, .boot, .slot, .anyPlotReg, .hard, .ports, .router] : List Part) ++ ([.gateway, .tally, .far (.reg Reg.MBX_RIM_IN_META.FULL), .far (.reg Reg.MBX_RIM_OUT_ACK.CODE), .far (.reg Reg.MBX_RIM_OUT_ACK.DONE), .far (.reg Reg.MBX_RIM_OUT_META.PENDING), .far .slot, .far (.plotReg Reg.MBX_PLOT_IN_META.FULL), .far (.plotReg Reg.MBX_PLOT_OUT_ACK.CODE), .far (.plotReg Reg.MBX_PLOT_OUT_ACK.DONE), .far (.plotReg Reg.MBX_PLOT_OUT_META.PENDING), .far .rimSlots] : List Part)).map Part.anear) K) (hF : ∀ f, F f) (hP : ∀ p, P p)
    (ho : Only K F P s0 s) : Ends K F P s0 (State.pgoodFall s f) :=
  Ends.mono (State.pgoodFall_only s f (Fits.refl _) trivial (fun _ => trivial) (Only.refl _ _ _ _)) fun _ h => ho.trans (Only.near (l := (([.events, .out, .hubReg Reg.HUB_D2D_STATUS.MODULES, .hubReg Reg.HUB_D2D_STATUS.UP, .hubReg Reg.HUB_FIELD_STATE.HBM0_OK, .hubReg Reg.HUB_FIELD_STATE.HBM1_OK, .hubReg Reg.HUB_FIELD_STATE.STATE, .hubReg Reg.MBX_HUB_IN_META.FULL, .hubReg Reg.MBX_HUB_OUT_ACK.CODE, .hubReg Reg.MBX_HUB_OUT_ACK.DONE, .hubReg Reg.MBX_HUB_OUT_META.PENDING, .hubReg Reg.PWR_RAIL_STATUS.FAULTS, .hubReg Reg.PWR_RAIL_STATUS.PGOOD, .hubReg Reg.PWR_RAIL_STATUS.PWREN, .hubSlots, .power] : List Part) ++ ([.store, .bin, .storeErr, .binErr, .reg Reg.INJ_PT.ARM, .reg Reg.INJ_PT.DONE, .reg Reg.RTE_COMB_STAT.MERGED, .reg Reg.RTE_COMB_STAT.PEAK, .reg Reg.RTE_LINK_CNT.LOST, .reg Reg.RTE_LINK_CNT.NAKS, .reg Reg.RTE_LINK_CNT.REPLAYED, .reg Reg.RTE_LINK_CNT.TX_FLITS, .reg Reg.RTE_LINK_CREDIT.RES, .reg Reg.RTE_LINK_CREDIT.SHARED, .reg Reg.RTE_LINK_STATUS.PRESERVED, .reg Reg.RTE_LINK_STATUS.RESULT] : List Part) ++ ([.reg Reg.RTE_LINK_STATUS.STATE, .drill, .dr, .queue, .cq, .tine, .samples, .scrub, .notify, .xlines, .boot, .slot, .anyPlotReg, .hard, .ports, .router] : List Part) ++ ([.gateway, .tally, .far (.reg Reg.MBX_RIM_IN_META.FULL), .far (.reg Reg.MBX_RIM_OUT_ACK.CODE), .far (.reg Reg.MBX_RIM_OUT_ACK.DONE), .far (.reg Reg.MBX_RIM_OUT_META.PENDING), .far .slot, .far (.plotReg Reg.MBX_PLOT_IN_META.FULL), .far (.plotReg Reg.MBX_PLOT_OUT_ACK.CODE), .far (.plotReg Reg.MBX_PLOT_OUT_ACK.DONE), .far (.plotReg Reg.MBX_PLOT_OUT_META.PENDING), .far .rimSlots] : List Part))) h hK hF hP)

theorem State.optFall_only {K : List Part} {F : FieldId → Prop} {P : PlotId → Prop} {s0 : State} (s : State) (hK : Fits (([.events, .out, .hubReg Reg.HDL_HOST_ENGINE.DARK, .hubReg Reg.HDL_HOST_ENGINE.INLET_A_OK, .hubReg Reg.HDL_HOST_ENGINE.INLET_B_OK, .hubReg Reg.HDL_HOST_ENGINE.SWITCHING, .hubReg Reg.HDL_MODULE.OUTPUT_ON, .hubReg Reg.HUB_HOST_PHY_STATUS.STATE, .hubReg Reg.HUB_HOST_PHY_STATUS.WIDTH, .hubReg Reg.PWR_RAIL_STATUS.FAULTS, .hubReg Reg.PWR_RAIL_STATUS.PGOOD_OPT, .light, .host, .power, .reg Reg.HDL_ENGINE_STATUS.DARK, .reg Reg.HDL_ENGINE_STATUS.INLET_A_OK] : List Part) ++ ([.reg Reg.HDL_ENGINE_STATUS.INLET_B_OK, .reg Reg.HDL_ENGINE_STATUS.SWITCHING, .reg Reg.INJ_PT.ARM, .reg Reg.INJ_PT.DONE, .reg Reg.RTE_COMB_STAT.MERGED, .reg Reg.RTE_COMB_STAT.PEAK, .reg Reg.RTE_LINK_CNT.LOST, .reg Reg.RTE_LINK_CNT.NAKS, .reg Reg.RTE_LINK_CNT.REPLAYED, .reg Reg.RTE_LINK_CNT.TX_FLITS, .reg Reg.RTE_LINK_CREDIT.RES, .reg Reg.RTE_LINK_CREDIT.SHARED, .reg Reg.RTE_LINK_STATUS.PRESERVED, .reg Reg.RTE_LINK_STATUS.RESULT, .reg Reg.RTE_LINK_STATUS.STATE, .ports] : List Part) ++ ([.router, .tally] : List Part)) K) (hF : ∀ f, F f)
    (ho : Only K F P s0 s) : Ends K F P s0 (State.optFall s) := by
  unfold State.optFall
  repeat' first | with_reducible assumption | exact Fits.trans (by decide +kernel) hK | exact hF | exact hF _ | with_reducible apply State.allDark_only | with_reducible apply State.raiseHub_only | with_reducible apply State.hcount_only | with_reducible apply State.setRail_only | with_reducible apply State.hset_only | with_reducible apply Ends.finish | with_reducible apply Ends.next | with_reducible apply Only.ite | with_reducible apply Ends.ite | dsimp only | split | (with_reducible refine Only.fst (by with_reducible assumption) ?_) | (with_reducible refine Only.snd (by with_reducible assumption) ?_)

theorem execPgoodFall_only {K : List Part} {F : FieldId → Prop} {P : PlotId → Prop} {s0 : State} (rail : Option FieldId) (s : State) (hK : Fits (([.events, .out, .hubReg Reg.HDL_HOST_ENGINE.DARK, .hubReg Reg.HDL_HOST_ENGINE.INLET_A_OK, .hubReg Reg.HDL_HOST_ENGINE.INLET_B_OK, .hubReg Reg.HDL_HOST_ENGINE.SWITCHING, .hubReg Reg.HDL_MODULE.OUTPUT_ON, .hubReg Reg.HUB_D2D_STATUS.MODULES, .hubReg Reg.HUB_D2D_STATUS.UP, .hubReg Reg.HUB_FIELD_STATE.HBM0_OK, .hubReg Reg.HUB_FIELD_STATE.HBM1_OK, .hubReg Reg.HUB_FIELD_STATE.STATE, .hubReg Reg.HUB_HOST_PHY_STATUS.STATE, .hubReg Reg.HUB_HOST_PHY_STATUS.WIDTH, .hubReg Reg.MBX_HUB_IN_META.FULL, .hubReg Reg.MBX_HUB_OUT_ACK.CODE] : List Part) ++ ([.hubReg Reg.MBX_HUB_OUT_ACK.DONE, .hubReg Reg.MBX_HUB_OUT_META.PENDING, .hubReg Reg.PWR_RAIL_STATUS.FAULTS, .hubReg Reg.PWR_RAIL_STATUS.PGOOD, .hubReg Reg.PWR_RAIL_STATUS.PGOOD_OPT, .hubReg Reg.PWR_RAIL_STATUS.PWREN, .light, .host, .hubSlots, .power, .store, .bin, .storeErr, .binErr, .reg Reg.HDL_ENGINE_STATUS.DARK, .reg Reg.HDL_ENGINE_STATUS.INLET_A_OK] : List Part) ++ ([.reg Reg.HDL_ENGINE_STATUS.INLET_B_OK, .reg Reg.HDL_ENGINE_STATUS.SWITCHING, .reg Reg.INJ_PT.ARM, .reg Reg.INJ_PT.DONE, .reg Reg.MBX_RIM_IN_META.FULL, .reg Reg.MBX_RIM_OUT_ACK.CODE, .reg Reg.MBX_RIM_OUT_ACK.DONE, .reg Reg.MBX_RIM_OUT_META.PENDING, .reg Reg.RTE_COMB_STAT.MERGED, .reg Reg.RTE_COMB_STAT.PEAK, .reg Reg.RTE_LINK_CNT.LOST, .reg Reg.RTE_LINK_CNT.NAKS, .reg Reg.RTE_LINK_CNT.REPLAYED, .reg Reg.RTE_LINK_CNT.TX_FLITS, .reg Reg.RTE_LINK_CREDIT.RES, .reg Reg.RTE_LINK_CREDIT.SHARED] : List Part) ++ ([.reg Reg.RTE_LINK_STATUS.PRESERVED, .reg Reg.RTE_LINK_STATUS.RESULT, .reg Reg.RTE_LINK_STATUS.STATE, .drill, .dr, .queue, .cq, .tine, .samples, .scrub, .notify, .xlines, .boot, .slot, .anyPlotReg, .hard] : List Part) ++ ([.ports, .router, .gateway, .tally, .rimSlots] : List Part)) K) (hF : ∀ f, F f) (hP : ∀ p, P p)
    (ho : Only K F P s0 s) : Ends K F P s0 (execPgoodFall rail s) := by
  unfold execPgoodFall
  repeat' first | with_reducible assumption | exact Fits.trans (by decide +kernel) hK | exact hF | exact hP | exact hF _ | exact hP _ | with_reducible apply State.pgoodFall_all | with_reducible apply State.optFall_only | with_reducible apply Ends.finish | with_reducible apply Ends.next | with_reducible apply Only.ite | with_reducible apply Ends.ite | dsimp only | split | (with_reducible refine Only.fst (by with_reducible assumption) ?_) | (with_reducible refine Only.snd (by with_reducible assumption) ?_) | exact Fits.anyPlot _ (Fits.trans (by decide +kernel) hK)

theorem State.optTimeout_only {K : List Part} {F : FieldId → Prop} {P : PlotId → Prop} {s0 : State} (s : State) (hK : Fits (([.events, .out, .hubReg Reg.HDL_HOST_ENGINE.DARK, .hubReg Reg.HDL_HOST_ENGINE.INLET_A_OK, .hubReg Reg.HDL_HOST_ENGINE.INLET_B_OK, .hubReg Reg.HDL_HOST_ENGINE.SWITCHING, .hubReg Reg.HDL_MODULE.OUTPUT_ON, .hubReg Reg.HUB_HOST_PHY_STATUS.STATE, .hubReg Reg.HUB_HOST_PHY_STATUS.WIDTH, .hubReg Reg.PWR_RAIL_STATUS.PWREN_OPT, .light, .host, .reg Reg.HDL_ENGINE_STATUS.DARK, .reg Reg.HDL_ENGINE_STATUS.INLET_A_OK, .reg Reg.HDL_ENGINE_STATUS.INLET_B_OK, .reg Reg.HDL_ENGINE_STATUS.SWITCHING] : List Part) ++ ([.reg Reg.INJ_PT.ARM, .reg Reg.INJ_PT.DONE, .reg Reg.RTE_COMB_STAT.MERGED, .reg Reg.RTE_COMB_STAT.PEAK, .reg Reg.RTE_LINK_CNT.LOST, .reg Reg.RTE_LINK_CNT.NAKS, .reg Reg.RTE_LINK_CNT.REPLAYED, .reg Reg.RTE_LINK_CNT.TX_FLITS, .reg Reg.RTE_LINK_CREDIT.RES, .reg Reg.RTE_LINK_CREDIT.SHARED, .reg Reg.RTE_LINK_STATUS.PRESERVED, .reg Reg.RTE_LINK_STATUS.RESULT, .reg Reg.RTE_LINK_STATUS.STATE, .ports, .router, .tally] : List Part)) K) (hF : ∀ f, F f)
    (ho : Only K F P s0 s) : Only K F P s0 (State.optTimeout s) := by
  unfold State.optTimeout
  repeat' first | with_reducible assumption | exact Fits.trans (by decide +kernel) hK | exact hF | exact hF _ | with_reducible apply State.allDark_only | with_reducible apply State.raiseHub_only | with_reducible apply State.hset_only | with_reducible apply Only.ite | dsimp only | split | (with_reducible refine Only.fst (by with_reducible assumption) ?_) | (with_reducible refine Only.snd (by with_reducible assumption) ?_)

theorem execPgoodOptTimeout_only {K : List Part} {F : FieldId → Prop} {P : PlotId → Prop} {s0 : State} (s : State) (hK : Fits (([.events, .out, .hubReg Reg.HDL_HOST_ENGINE.DARK, .hubReg Reg.HDL_HOST_ENGINE.INLET_A_OK, .hubReg Reg.HDL_HOST_ENGINE.INLET_B_OK, .hubReg Reg.HDL_HOST_ENGINE.SWITCHING, .hubReg Reg.HDL_MODULE.OUTPUT_ON, .hubReg Reg.HUB_HOST_PHY_STATUS.STATE, .hubReg Reg.HUB_HOST_PHY_STATUS.WIDTH, .hubReg Reg.PWR_RAIL_STATUS.PWREN_OPT, .light, .host, .reg Reg.HDL_ENGINE_STATUS.DARK, .reg Reg.HDL_ENGINE_STATUS.INLET_A_OK, .reg Reg.HDL_ENGINE_STATUS.INLET_B_OK, .reg Reg.HDL_ENGINE_STATUS.SWITCHING] : List Part) ++ ([.reg Reg.INJ_PT.ARM, .reg Reg.INJ_PT.DONE, .reg Reg.RTE_COMB_STAT.MERGED, .reg Reg.RTE_COMB_STAT.PEAK, .reg Reg.RTE_LINK_CNT.LOST, .reg Reg.RTE_LINK_CNT.NAKS, .reg Reg.RTE_LINK_CNT.REPLAYED, .reg Reg.RTE_LINK_CNT.TX_FLITS, .reg Reg.RTE_LINK_CREDIT.RES, .reg Reg.RTE_LINK_CREDIT.SHARED, .reg Reg.RTE_LINK_STATUS.PRESERVED, .reg Reg.RTE_LINK_STATUS.RESULT, .reg Reg.RTE_LINK_STATUS.STATE, .ports, .router, .tally] : List Part)) K) (hF : ∀ f, F f)
    (ho : Only K F P s0 s) : Ends K F P s0 (execPgoodOptTimeout s) := by
  unfold execPgoodOptTimeout
  repeat' first | with_reducible assumption | exact Fits.trans (by decide +kernel) hK | exact hF | exact hF _ | with_reducible apply State.optTimeout_only | with_reducible apply Ends.finish | with_reducible apply Ends.next | with_reducible apply Only.ite | with_reducible apply Ends.ite | dsimp only | split | (with_reducible refine Only.fst (by with_reducible assumption) ?_) | (with_reducible refine Only.snd (by with_reducible assumption) ?_)

theorem State.thermtrip_only {K : List Part} {F : FieldId → Prop} {P : PlotId → Prop} {s0 : State} (s : State) (src : Option FieldId) (sensor temp : Nat) (inj : Bool) (hK : Fits ([.events, .out, .hubReg Reg.THM_TRIP_STATUS.FIELD, .hubReg Reg.THM_TRIP_STATUS.SENSOR, .hubReg Reg.THM_TRIP_STATUS.SOURCE, .hubReg Reg.THM_TRIP_STATUS.TEMP, .hubReg Reg.THM_TRIP_STATUS.TRIPPED, .power] : List Part) K)
    (ho : Only K F P s0 s) : Only K F P s0 (State.thermtrip s src sensor temp inj) := by
  unfold State.thermtrip
  repeat' first | with_reducible assumption | exact Fits.trans (by decide +kernel) hK | with_reducible apply State.hset_only | with_reducible apply State.updPwr_only | with_reducible apply State.i3cSend_only | with_reducible apply State.raiseHub_only | with_reducible apply Only.ite | dsimp only | split | (with_reducible refine Only.fst (by with_reducible assumption) ?_) | (with_reducible refine Only.snd (by with_reducible assumption) ?_)

theorem State.sensorBreak_only {K : List Part} {F : FieldId → Prop} {P : PlotId → Prop} {s0 : State} (s : State) (f : FieldId) (i reason : Nat) (inj : Bool) (hK : Fits ([.events, .reg Reg.THM_EVT_CNT.SENSORS, .reg Reg.THM_FIELD_STATUS.BROKEN, .health, .thermal] : List Part) K) (hF : F f)
    (ho : Only K F P s0 s) : Only K F P s0 (State.sensorBreak s f i reason inj) := by
  unfold State.sensorBreak
  repeat' first | with_reducible assumption | exact Fits.trans (by decide +kernel) hK | exact hF | with_reducible apply State.updThm_only | with_reducible apply State.fcount_only | with_reducible apply State.fset_only | with_reducible apply State.raise_only | with_reducible apply State.healthInput_only | with_reducible apply Only.ite | dsimp only | split | (with_reducible refine Only.fst (by with_reducible assumption) ?_) | (with_reducible refine Only.snd (by with_reducible assumption) ?_)

theorem State.sensorRead_only {K : List Part} {F : FieldId → Prop} {P : PlotId → Prop} {s0 : State} (s : State) (f : FieldId) (i : Nat) (t : Option Int) (inj : Bool) (hK : Fits ([.events, .reg Reg.THM_EVT_CNT.SENSORS, .reg Reg.THM_FIELD_STATUS.BROKEN, .health, .thermal] : List Part) K) (hF : F f)
    (ho : Only K F P s0 s) : Only K F P s0 (State.sensorRead s f i t inj) := by
  unfold State.sensorRead
  repeat' first | with_reducible assumption | exact Fits.trans (by decide +kernel) hK | exact hF | with_reducible apply State.sensorBreak_only | with_reducible apply State.updThm_only | with_reducible apply Only.ite | dsimp only | split | (with_reducible refine Only.fst (by with_reducible assumption) ?_) | (with_reducible refine Only.snd (by with_reducible assumption) ?_)

theorem State.thermSeen_only {K : List Part} {F : FieldId → Prop} {P : PlotId → Prop} {s0 : State} (s : State) (f : FieldId) (hK : Fits ([.health] : List Part) K) (hF : F f)
    (ho : Only K F P s0 s) : Only K F P s0 (State.thermSeen s f) := by
  unfold State.thermSeen
  repeat' first | with_reducible assumption | exact Fits.trans (by decide +kernel) hK | exact hF | with_reducible apply State.updField_only | (refine fun (X : Field) => ?_) | with_reducible apply FieldOnly.setReg | with_reducible exact FieldOnly.refl _ _ _ | with_reducible apply FieldOnly.updPlot | with_reducible apply FieldOnly.ite | (refine FieldOnly.keep rfl rfl (fun k hk => ?_); cases k <;> first | exact trivial | exact rfl | exact ⟨rfl, rfl⟩ | exact ⟨rfl, rfl, rfl⟩ | exact (Fits.not hK hk rfl).elim) | with_reducible apply Only.ite | dsimp only | split | (with_reducible refine Only.fst (by with_reducible assumption) ?_) | (with_reducible refine Only.snd (by with_reducible assumption) ?_)

theorem State.thermRise_only {K : List Part} {F : FieldId → Prop} {P : PlotId → Prop} {s0 : State} (s : State) (f : FieldId) (sensor : Nat) (r : Int) (inj : Bool) (hK : Fits ([.events, .reg Reg.THM_EVT_CNT.WARNINGS, .reg Reg.THM_FIELD_STATUS.WARN, .health, .thermal] : List Part) K) (hF : F f)
    (ho : Only K F P s0 s) : Only K F P s0 (State.thermRise s f sensor r inj) := by
  unfold State.thermRise
  repeat' first | with_reducible assumption | exact Fits.trans (by decide +kernel) hK | exact hF | with_reducible apply State.fset_only | with_reducible apply State.healthInput_only | with_reducible apply State.thermSeen_only | with_reducible apply State.raise_only | with_reducible apply State.fcount_only | with_reducible apply State.updThm_only | with_reducible apply Only.ite | dsimp only | split | (with_reducible refine Only.fst (by with_reducible assumption) ?_) | (with_reducible refine Only.snd (by with_reducible assumption) ?_)

theorem State.thermDrop_only {K : List Part} {F : FieldId → Prop} {P : PlotId → Prop} {s0 : State} (s : State) (f : FieldId) (r : Int) (inj : Bool) (hK : Fits ([.events, .hubReg Reg.PWR_MODE_STATUS.POINT_0, .hubReg Reg.PWR_MODE_STATUS.POINT_1, .hubReg Reg.PWR_MODE_STATUS.POINT_2, .hubReg Reg.PWR_MODE_STATUS.POINT_3, .reg Reg.THM_EVT_CNT.DROPS, .reg Reg.THM_FIELD_STATUS.DROPS, .reg Reg.THM_FIELD_STATUS.POINT, .health, .thermal] : List Part) K) (hF : F f)
    (ho : Only K F P s0 s) : Only K F P s0 (State.thermDrop s f r inj) := by
  unfold State.thermDrop
  repeat' first | with_reducible assumption | exact Fits.trans (by decide +kernel) hK | exact hF | with_reducible apply State.updThm_only | with_reducible apply State.setPoint_only | with_reducible apply State.fset_only | with_reducible apply State.healthInput_only | with_reducible apply State.thermSeen_only | with_reducible apply State.raise_only | with_reducible apply State.fcount_only | with_reducible apply Only.ite | dsimp only | split | (with_reducible refine Only.fst (by with_reducible assumption) ?_) | (with_reducible refine Only.snd (by with_reducible assumption) ?_)

theorem State.throttleEnter_only {K : List Part} {F : FieldId → Prop} {P : PlotId → Prop} {s0 : State} (s : State) (f : FieldId) (tmax cause : Nat) (inj : Bool) (hK : Fits ([.events, .reg Reg.THM_EVT_CNT.THROTTLES, .reg Reg.THM_FIELD_STATUS.TDUTY, .reg Reg.THM_FIELD_STATUS.THROTTLE, .health, .thermal] : List Part) K) (hF : F f)
    (ho : Only K F P s0 s) : Only K F P s0 (State.throttleEnter s f tmax cause inj) := by
  unfold State.throttleEnter
  repeat' first | with_reducible assumption | exact Fits.trans (by decide +kernel) hK | exact hF | with_reducible apply State.fcount_only | with_reducible apply State.fset_only | with_reducible apply State.updThm_only | with_reducible apply State.updField_only | with_reducible apply State.healthInput_only | with_reducible apply State.raise_only | (refine fun (X : Field) => ?_) | with_reducible apply FieldOnly.setReg | with_reducible exact FieldOnly.refl _ _ _ | with_reducible apply FieldOnly.updPlot | with_reducible apply FieldOnly.ite | (refine FieldOnly.keep rfl rfl (fun k hk => ?_); cases k <;> first | exact trivial | exact rfl | exact ⟨rfl, rfl⟩ | exact ⟨rfl, rfl, rfl⟩ | exact (Fits.not hK hk rfl).elim) | with_reducible apply Only.ite | dsimp only | split | (with_reducible refine Only.fst (by with_reducible assumption) ?_) | (with_reducible refine Only.snd (by with_reducible assumption) ?_)

theorem State.thermAct_only {K : List Part} {F : FieldId → Prop} {P : PlotId → Prop} {s0 : State} (s : State) (f : FieldId) (injAt : Option Nat) (truth : Option (Nat × Int)) (hK : Fits (([.events, .out, .hubReg Reg.HUB_FIELD_STATE.STATE, .hubReg Reg.MBX_HUB_IN_META.FULL, .hubReg Reg.MBX_HUB_OUT_ACK.CODE, .hubReg Reg.MBX_HUB_OUT_ACK.DONE, .hubReg Reg.MBX_HUB_OUT_META.PENDING, .hubReg Reg.PWR_MODE_STATUS.POINT_0, .hubReg Reg.PWR_MODE_STATUS.POINT_1, .hubReg Reg.PWR_MODE_STATUS.POINT_2, .hubReg Reg.PWR_MODE_STATUS.POINT_3, .hubReg Reg.THM_TRIP_STATUS.FIELD, .hubReg Reg.THM_TRIP_STATUS.SENSOR, .hubReg Reg.THM_TRIP_STATUS.SOURCE, .hubReg Reg.THM_TRIP_STATUS.TEMP, .hubReg Reg.THM_TRIP_STATUS.TRIPPED] : List Part) ++ ([.hubSlots, .power, .store, .bin, .storeErr, .binErr, .reg Reg.THM_EVT_CNT.DROPS, .reg Reg.THM_EVT_CNT.THROTTLES, .reg Reg.THM_EVT_CNT.WARNINGS, .reg Reg.THM_FIELD_STATUS.DROPS, .reg Reg.THM_FIELD_STATUS.HOT_SENSOR, .reg Reg.THM_FIELD_STATUS.POINT, .reg Reg.THM_FIELD_STATUS.RATE, .reg Reg.THM_FIELD_STATUS.TDUTY, .reg Reg.THM_FIELD_STATUS.THROTTLE, .reg Reg.THM_FIELD_STATUS.TMAX] : List Part) ++ ([.reg Reg.THM_FIELD_STATUS.WARN, .drill, .dr, .queue, .cq, .tine, .samples, .scrub, .notify, .xlines, .boot, .slot, .anyPlotReg, .hard, .gateway, .health] : List Part) ++ ([.thermal, .far (.reg Reg.MBX_RIM_IN_META.FULL), .far (.reg Reg.MBX_RIM_OUT_ACK.CODE), .far (.reg Reg.MBX_RIM_OUT_ACK.DONE), .far (.reg Reg.MBX_RIM_OUT_META.PENDING), .far .slot, .far (.plotReg Reg.MBX_PLOT_IN_META.FULL), .far (.plotReg Reg.MBX_PLOT_OUT_ACK.CODE), .far (.plotReg Reg.MBX_PLOT_OUT_ACK.DONE), .far (.plotReg Reg.MBX_PLOT_OUT_META.PENDING), .far .rimSlots] : List Part)) K) (hF : F f) (hP : ∀ p, P p)
    (ho : Only K F P s0 s) : Only K F P s0 (State.thermAct s f injAt truth) := by
  unfold State.thermAct
  repeat' first | with_reducible assumption | exact Fits.trans (by decide +kernel) hK | exact hF | exact hP | exact hP _ | with_reducible apply State.resetPartition_only | with_reducible apply State.setSvc_only | with_reducible apply State.fset_only | with_reducible apply State.thermtrip_only | with_reducible apply State.thermDrop_only | with_reducible apply State.thermRise_only | with_reducible apply State.throttleEnter_only | with_reducible apply Only.ite | dsimp only | split | (with_reducible refine Only.fst (by with_reducible assumption) ?_) | (with_reducible refine Only.snd (by with_reducible assumption) ?_) | exact Fits.anyPlot _ (Fits.trans (by decide +kernel) hK)

theorem State.sensorInjStep_only {K : List Part} {F : FieldId → Prop} {P : PlotId → Prop} {s0 : State} (s : State) (f : FieldId) (hK : Fits ([.reg Reg.INJ_PT.DONE, .thermal] : List Part) K) (hF : F f)
    (ho : Only K F P s0 s) : Only K F P s0 (State.sensorInjStep s f) := by
  unfold State.sensorInjStep
  repeat' first | with_reducible assumption | exact Fits.trans (by decide +kernel) hK | exact hF | with_reducible apply State.fset_only | with_reducible apply State.updThm_only | with_reducible apply Only.ite | dsimp only | split | (with_reducible refine Only.fst (by with_reducible assumption) ?_) | (with_reducible refine Only.snd (by with_reducible assumption) ?_)

theorem State.sensorSample_only {K : List Part} {F : FieldId → Prop} {P : PlotId → Prop} {s0 : State} (s : State) (f : FieldId) (readings : List (Option Int)) (hK : Fits (([.events, .out, .hubReg Reg.HUB_FIELD_STATE.STATE, .hubReg Reg.MBX_HUB_IN_META.FULL, .hubReg Reg.MBX_HUB_OUT_ACK.CODE, .hubReg Reg.MBX_HUB_OUT_ACK.DONE, .hubReg Reg.MBX_HUB_OUT_META.PENDING, .hubReg Reg.PWR_MODE_STATUS.POINT_0, .hubReg Reg.PWR_MODE_STATUS.POINT_1, .hubReg Reg.PWR_MODE_STATUS.POINT_2, .hubReg Reg.PWR_MODE_STATUS.POINT_3, .hubReg Reg.THM_TRIP_STATUS.FIELD, .hubReg Reg.THM_TRIP_STATUS.SENSOR, .hubReg Reg.THM_TRIP_STATUS.SOURCE, .hubReg Reg.THM_TRIP_STATUS.TEMP, .hubReg Reg.THM_TRIP_STATUS.TRIPPED] : List Part) ++ ([.hubSlots, .power, .store, .bin, .storeErr, .binErr, .reg Reg.INJ_PT.DONE, .reg Reg.THM_EVT_CNT.DROPS, .reg Reg.THM_EVT_CNT.SENSORS, .reg Reg.THM_EVT_CNT.THROTTLES, .reg Reg.THM_EVT_CNT.WARNINGS, .reg Reg.THM_FIELD_STATUS.BROKEN, .reg Reg.THM_FIELD_STATUS.DROPS, .reg Reg.THM_FIELD_STATUS.HOT_SENSOR, .reg Reg.THM_FIELD_STATUS.POINT, .reg Reg.THM_FIELD_STATUS.RATE] : List Part) ++ ([.reg Reg.THM_FIELD_STATUS.TDUTY, .reg Reg.THM_FIELD_STATUS.THROTTLE, .reg Reg.THM_FIELD_STATUS.TMAX, .reg Reg.THM_FIELD_STATUS.WARN, .drill, .dr, .queue, .cq, .tine, .samples, .scrub, .notify, .xlines, .boot, .slot, .anyPlotReg] : List Part) ++ ([.hard, .gateway, .health, .thermal, .far (.reg Reg.MBX_RIM_IN_META.FULL), .far (.reg Reg.MBX_RIM_OUT_ACK.CODE), .far (.reg Reg.MBX_RIM_OUT_ACK.DONE), .far (.reg Reg.MBX_RIM_OUT_META.PENDING), .far .slot, .far (.plotReg Reg.MBX_PLOT_IN_META.FULL), .far (.plotReg Reg.MBX_PLOT_OUT_ACK.CODE), .far (.plotReg Reg.MBX_PLOT_OUT_ACK.DONE), .far (.plotReg Reg.MBX_PLOT_OUT_META.PENDING), .far .rimSlots] : List Part)) K) (hF : F f) (hP : ∀ p, P p)
    (ho : Only K F P s0 s) : Only K F P s0 (State.sensorSample s f readings) := by
  unfold State.sensorSample
  repeat' first | with_reducible assumption | exact Fits.trans (by decide +kernel) hK | exact hF | exact hP | exact hP _ | with_reducible apply State.sensorRead_only | with_reducible apply State.sensorInjStep_only | with_reducible apply State.thermAct_only | with_reducible apply Only.ite | dsimp only | split | (with_reducible refine Only.foldl _ _ (fun t a ht => ?_) ?_) | (with_reducible refine Only.foldl_fst _ _ _ (fun t a ht => ?_) ?_) | (with_reducible refine Only.fst (by with_reducible assumption) ?_) | (with_reducible refine Only.snd (by with_reducible assumption) ?_) | exact Fits.anyPlot _ (Fits.trans (by decide +kernel) hK)

theorem State.hubSensor_only {K : List Part} {F : FieldId → Prop} {P : PlotId → Prop} {s0 : State} (s : State) (i : Nat) (t : Option Int) (hK : Fits ([.events, .out, .hubReg Reg.THM_TRIP_STATUS.FIELD, .hubReg Reg.THM_TRIP_STATUS.SENSOR, .hubReg Reg.THM_TRIP_STATUS.SOURCE, .hubReg Reg.THM_TRIP_STATUS.TEMP, .hubReg Reg.THM_TRIP_STATUS.TRIPPED, .power] : List Part) K)
    (ho : Only K F P s0 s) : Only K F P s0 (State.hubSensor s i t) := by
  unfold State.hubSensor
  repeat' first | with_reducible assumption | exact Fits.trans (by decide +kernel) hK | with_reducible apply State.updPwr_only | with_reducible apply State.thermtrip_only | with_reducible apply Only.ite | dsimp only | split | (with_reducible refine Only.fst (by with_reducible assumption) ?_) | (with_reducible refine Only.snd (by with_reducible assumption) ?_)

theorem State.fieldSensors_only {K : List Part} {F : FieldId → Prop} {P : PlotId → Prop} {s0 : State} (s : State) (f : FieldId) (readings : List (Option Int)) (hK : Fits (([.free, .events, .out, .hubReg Reg.HUB_FIELD_STATE.STATE, .hubReg Reg.MBX_HUB_IN_META.FULL, .hubReg Reg.MBX_HUB_OUT_ACK.CODE, .hubReg Reg.MBX_HUB_OUT_ACK.DONE, .hubReg Reg.MBX_HUB_OUT_META.PENDING, .hubReg Reg.PWR_MODE_STATUS.POINT_0, .hubReg Reg.PWR_MODE_STATUS.POINT_1, .hubReg Reg.PWR_MODE_STATUS.POINT_2, .hubReg Reg.PWR_MODE_STATUS.POINT_3, .hubReg Reg.THM_TRIP_STATUS.FIELD, .hubReg Reg.THM_TRIP_STATUS.SENSOR, .hubReg Reg.THM_TRIP_STATUS.SOURCE, .hubReg Reg.THM_TRIP_STATUS.TEMP] : List Part) ++ ([.hubReg Reg.THM_TRIP_STATUS.TRIPPED, .hubSlots, .power, .store, .bin, .storeErr, .binErr, .reg Reg.INJ_PT.DONE, .reg Reg.THM_EVT_CNT.DROPS, .reg Reg.THM_EVT_CNT.SENSORS, .reg Reg.THM_EVT_CNT.THROTTLES, .reg Reg.THM_EVT_CNT.WARNINGS, .reg Reg.THM_FIELD_STATUS.BROKEN, .reg Reg.THM_FIELD_STATUS.DROPS, .reg Reg.THM_FIELD_STATUS.HOT_SENSOR, .reg Reg.THM_FIELD_STATUS.POINT] : List Part) ++ ([.reg Reg.THM_FIELD_STATUS.RATE, .reg Reg.THM_FIELD_STATUS.TDUTY, .reg Reg.THM_FIELD_STATUS.THROTTLE, .reg Reg.THM_FIELD_STATUS.TMAX, .reg Reg.THM_FIELD_STATUS.WARN, .reg Reg.TLY_STATUS.HOLD, .drill, .dr, .queue, .cq, .tine, .samples, .scrub, .notify, .xlines, .boot] : List Part) ++ ([.slot, .anyPlotReg, .hard, .gateway, .health, .tally, .thermal, .far (.reg Reg.MBX_RIM_IN_META.FULL), .far (.reg Reg.MBX_RIM_OUT_ACK.CODE), .far (.reg Reg.MBX_RIM_OUT_ACK.DONE), .far (.reg Reg.MBX_RIM_OUT_META.PENDING), .far .slot, .far (.plotReg Reg.MBX_PLOT_IN_META.FULL), .far (.plotReg Reg.MBX_PLOT_OUT_ACK.CODE), .far (.plotReg Reg.MBX_PLOT_OUT_ACK.DONE), .far (.plotReg Reg.MBX_PLOT_OUT_META.PENDING)] : List Part) ++ ([.far .rimSlots] : List Part)) K) (hF : F f) (hP : ∀ p, P p)
    (ho : Only K F P s0 s) : Ends K F P s0 (State.fieldSensors s f readings) := by
  unfold State.fieldSensors
  repeat' first | with_reducible assumption | exact Fits.trans (by decide +kernel) hK | exact hF | exact hP | exact hP _ | with_reducible apply State.tlyTemp_only | with_reducible apply State.sensorSample_only | with_reducible apply Ends.finish | with_reducible apply Ends.next | with_reducible apply Only.ite | with_reducible apply Ends.ite | dsimp only | split | (with_reducible refine Only.fst (by with_reducible assumption) ?_) | (with_reducible refine Only.snd (by with_reducible assumption) ?_) | exact Fits.anyPlot _ (Fits.trans (by decide +kernel) hK)

theorem State.fieldSensors_all {K : List Part} {F : FieldId → Prop} {P : PlotId → Prop} {s0 : State} (s : State) (f : FieldId) (readings : List (Option Int)) (hK : Fits ((([.free, .events, .out, .hubReg Reg.HUB_FIELD_STATE.STATE, .hubReg Reg.MBX_HUB_IN_META.FULL, .hubReg Reg.MBX_HUB_OUT_ACK.CODE, .hubReg Reg.MBX_HUB_OUT_ACK.DONE, .hubReg Reg.MBX_HUB_OUT_META.PENDING, .hubReg Reg.PWR_MODE_STATUS.POINT_0, .hubReg Reg.PWR_MODE_STATUS.POINT_1, .hubReg Reg.PWR_MODE_STATUS.POINT_2, .hubReg Reg.PWR_MODE_STATUS.POINT_3, .hubReg Reg.THM_TRIP_STATUS.FIELD, .hubReg Reg.THM_TRIP_STATUS.SENSOR, .hubReg Reg.THM_TRIP_STATUS.SOURCE, .hubReg Reg.THM_TRIP_STATUS.TEMP] : List Part) ++ ([.hubReg Reg.THM_TRIP_STATUS.TRIPPED, .hubSlots, .power, .store, .bin, .storeErr, .binErr, .reg Reg.INJ_PT.DONE, .reg Reg.THM_EVT_CNT.DROPS, .reg Reg.THM_EVT_CNT.SENSORS, .reg Reg.THM_EVT_CNT.THROTTLES, .reg Reg.THM_EVT_CNT.WARNINGS, .reg Reg.THM_FIELD_STATUS.BROKEN, .reg Reg.THM_FIELD_STATUS.DROPS, .reg Reg.THM_FIELD_STATUS.HOT_SENSOR, .reg Reg.THM_FIELD_STATUS.POINT] : List Part) ++ ([.reg Reg.THM_FIELD_STATUS.RATE, .reg Reg.THM_FIELD_STATUS.TDUTY, .reg Reg.THM_FIELD_STATUS.THROTTLE, .reg Reg.THM_FIELD_STATUS.TMAX, .reg Reg.THM_FIELD_STATUS.WARN, .reg Reg.TLY_STATUS.HOLD, .drill, .dr, .queue, .cq, .tine, .samples, .scrub, .notify, .xlines, .boot] : List Part) ++ ([.slot, .anyPlotReg, .hard, .gateway, .health, .tally, .thermal, .far (.reg Reg.MBX_RIM_IN_META.FULL), .far (.reg Reg.MBX_RIM_OUT_ACK.CODE), .far (.reg Reg.MBX_RIM_OUT_ACK.DONE), .far (.reg Reg.MBX_RIM_OUT_META.PENDING), .far .slot, .far (.plotReg Reg.MBX_PLOT_IN_META.FULL), .far (.plotReg Reg.MBX_PLOT_OUT_ACK.CODE), .far (.plotReg Reg.MBX_PLOT_OUT_ACK.DONE), .far (.plotReg Reg.MBX_PLOT_OUT_META.PENDING)] : List Part) ++ ([.far .rimSlots] : List Part)).map Part.anear) K) (hF : ∀ f, F f) (hP : ∀ p, P p)
    (ho : Only K F P s0 s) : Ends K F P s0 (State.fieldSensors s f readings) :=
  Ends.mono (State.fieldSensors_only s f readings (Fits.refl _) trivial (fun _ => trivial) (Only.refl _ _ _ _)) fun _ h => ho.trans (Only.near (l := (([.free, .events, .out, .hubReg Reg.HUB_FIELD_STATE.STATE, .hubReg Reg.MBX_HUB_IN_META.FULL, .hubReg Reg.MBX_HUB_OUT_ACK.CODE, .hubReg Reg.MBX_HUB_OUT_ACK.DONE, .hubReg Reg.MBX_HUB_OUT_META.PENDING, .hubReg Reg.PWR_MODE_STATUS.POINT_0, .hubReg Reg.PWR_MODE_STATUS.POINT_1, .hubReg Reg.PWR_MODE_STATUS.POINT_2, .hubReg Reg.PWR_MODE_STATUS.POINT_3, .hubReg Reg.THM_TRIP_STATUS.FIELD, .hubReg Reg.THM_TRIP_STATUS.SENSOR, .hubReg Reg.THM_TRIP_STATUS.SOURCE, .hubReg Reg.THM_TRIP_STATUS.TEMP] : List Part) ++ ([.hubReg Reg.THM_TRIP_STATUS.TRIPPED, .hubSlots, .power, .store, .bin, .storeErr, .binErr, .reg Reg.INJ_PT.DONE, .reg Reg.THM_EVT_CNT.DROPS, .reg Reg.THM_EVT_CNT.SENSORS, .reg Reg.THM_EVT_CNT.THROTTLES, .reg Reg.THM_EVT_CNT.WARNINGS, .reg Reg.THM_FIELD_STATUS.BROKEN, .reg Reg.THM_FIELD_STATUS.DROPS, .reg Reg.THM_FIELD_STATUS.HOT_SENSOR, .reg Reg.THM_FIELD_STATUS.POINT] : List Part) ++ ([.reg Reg.THM_FIELD_STATUS.RATE, .reg Reg.THM_FIELD_STATUS.TDUTY, .reg Reg.THM_FIELD_STATUS.THROTTLE, .reg Reg.THM_FIELD_STATUS.TMAX, .reg Reg.THM_FIELD_STATUS.WARN, .reg Reg.TLY_STATUS.HOLD, .drill, .dr, .queue, .cq, .tine, .samples, .scrub, .notify, .xlines, .boot] : List Part) ++ ([.slot, .anyPlotReg, .hard, .gateway, .health, .tally, .thermal, .far (.reg Reg.MBX_RIM_IN_META.FULL), .far (.reg Reg.MBX_RIM_OUT_ACK.CODE), .far (.reg Reg.MBX_RIM_OUT_ACK.DONE), .far (.reg Reg.MBX_RIM_OUT_META.PENDING), .far .slot, .far (.plotReg Reg.MBX_PLOT_IN_META.FULL), .far (.plotReg Reg.MBX_PLOT_OUT_ACK.CODE), .far (.plotReg Reg.MBX_PLOT_OUT_ACK.DONE), .far (.plotReg Reg.MBX_PLOT_OUT_META.PENDING)] : List Part) ++ ([.far .rimSlots] : List Part))) h hK hF hP)

theorem State.hubSensors_only {K : List Part} {F : FieldId → Prop} {P : PlotId → Prop} {s0 : State} (s : State) (readings : List (Option Int)) (hK : Fits ([.events, .out, .hubReg Reg.THM_TRIP_STATUS.FIELD, .hubReg Reg.THM_TRIP_STATUS.SENSOR, .hubReg Reg.THM_TRIP_STATUS.SOURCE, .hubReg Reg.THM_TRIP_STATUS.TEMP, .hubReg Reg.THM_TRIP_STATUS.TRIPPED, .power] : List Part) K)
    (ho : Only K F P s0 s) : Ends K F P s0 (State.hubSensors s readings) := by
  unfold State.hubSensors
  repeat' first | with_reducible assumption | exact Fits.trans (by decide +kernel) hK | with_reducible apply State.hubSensor_only | with_reducible apply Ends.finish | with_reducible apply Ends.next | with_reducible apply Only.ite | with_reducible apply Ends.ite | dsimp only | split | (with_reducible refine Only.foldl _ _ (fun t a ht => ?_) ?_) | (with_reducible refine Only.foldl_fst _ _ _ (fun t a ht => ?_) ?_) | (with_reducible refine Only.fst (by with_reducible assumption) ?_) | (with_reducible refine Only.snd (by with_reducible assumption) ?_)

theorem execSensorSample_only {K : List Part} {F : FieldId → Prop} {P : PlotId → Prop} {s0 : State} (f : Option FieldId) (readings : List (Option Int)) (s : State) (hK : Fits (([.free, .events, .out, .hubReg Reg.HUB_FIELD_STATE.STATE, .hubReg Reg.MBX_HUB_IN_META.FULL, .hubReg Reg.MBX_HUB_OUT_ACK.CODE, .hubReg Reg.MBX_HUB_OUT_ACK.DONE, .hubReg Reg.MBX_HUB_OUT_META.PENDING, .hubReg Reg.PWR_MODE_STATUS.POINT_0, .hubReg Reg.PWR_MODE_STATUS.POINT_1, .hubReg Reg.PWR_MODE_STATUS.POINT_2, .hubReg Reg.PWR_MODE_STATUS.POINT_3, .hubReg Reg.THM_TRIP_STATUS.FIELD, .hubReg Reg.THM_TRIP_STATUS.SENSOR, .hubReg Reg.THM_TRIP_STATUS.SOURCE, .hubReg Reg.THM_TRIP_STATUS.TEMP] : List Part) ++ ([.hubReg Reg.THM_TRIP_STATUS.TRIPPED, .hubSlots, .power, .store, .bin, .storeErr, .binErr, .reg Reg.INJ_PT.DONE, .reg Reg.MBX_RIM_IN_META.FULL, .reg Reg.MBX_RIM_OUT_ACK.CODE, .reg Reg.MBX_RIM_OUT_ACK.DONE, .reg Reg.MBX_RIM_OUT_META.PENDING, .reg Reg.THM_EVT_CNT.DROPS, .reg Reg.THM_EVT_CNT.SENSORS, .reg Reg.THM_EVT_CNT.THROTTLES, .reg Reg.THM_EVT_CNT.WARNINGS] : List Part) ++ ([.reg Reg.THM_FIELD_STATUS.BROKEN, .reg Reg.THM_FIELD_STATUS.DROPS, .reg Reg.THM_FIELD_STATUS.HOT_SENSOR, .reg Reg.THM_FIELD_STATUS.POINT, .reg Reg.THM_FIELD_STATUS.RATE, .reg Reg.THM_FIELD_STATUS.TDUTY, .reg Reg.THM_FIELD_STATUS.THROTTLE, .reg Reg.THM_FIELD_STATUS.TMAX, .reg Reg.THM_FIELD_STATUS.WARN, .reg Reg.TLY_STATUS.HOLD, .drill, .dr, .queue, .cq, .tine, .samples] : List Part) ++ ([.scrub, .notify, .xlines, .boot, .slot, .anyPlotReg, .hard, .gateway, .health, .tally, .rimSlots, .thermal] : List Part)) K) (hF : ∀ f, F f) (hP : ∀ p, P p)
    (ho : Only K F P s0 s) : Ends K F P s0 (execSensorSample f readings s) := by
  unfold execSensorSample
  repeat' first | with_reducible assumption | exact Fits.trans (by decide +kernel) hK | exact hF | exact hP | exact hF _ | exact hP _ | with_reducible apply State.fieldSensors_all | with_reducible apply State.hubSensors_only | with_reducible apply Ends.finish | with_reducible apply Ends.next | with_reducible apply Only.ite | with_reducible apply Ends.ite | dsimp only | split | (with_reducible refine Only.fst (by with_reducible assumption) ?_) | (with_reducible refine Only.snd (by with_reducible assumption) ?_) | exact Fits.anyPlot _ (Fits.trans (by decide +kernel) hK)

theorem execDropRecover_only {K : List Part} {F : FieldId → Prop} {P : PlotId → Prop} {s0 : State} (f : FieldId) (s : State) (hK : Fits ([.hubReg Reg.PWR_MODE_STATUS.POINT_0, .hubReg Reg.PWR_MODE_STATUS.POINT_1, .hubReg Reg.PWR_MODE_STATUS.POINT_2, .hubReg Reg.PWR_MODE_STATUS.POINT_3, .reg Reg.THM_FIELD_STATUS.DROPS, .reg Reg.THM_FIELD_STATUS.POINT] : List Part) K) (hF : F f)
    (ho : Only K F P s0 s) : Ends K F P s0 (execDropRecover f s) := by
  unfold execDropRecover
  repeat' first | with_reducible assumption | exact Fits.trans (by decide +kernel) hK | exact hF | with_reducible apply Ends.inRim | with_reducible apply State.setPoint_only | with_reducible apply State.fset_only | with_reducible apply Ends.finish | with_reducible apply Ends.next | with_reducible apply Only.ite | with_reducible apply Ends.ite | dsimp only | split | (with_reducible refine Only.fst (by with_reducible assumption) ?_) | (with_reducible refine Only.snd (by with_reducible assumption) ?_)

theorem execTdutyStep_only {K : List Part} {F : FieldId → Prop} {P : PlotId → Prop} {s0 : State} (f : FieldId) (s : State) (hK : Fits ([.reg Reg.THM_FIELD_STATUS.TDUTY, .reg Reg.THM_FIELD_STATUS.THROTTLE] : List Part) K) (hF : F f)
    (ho : Only K F P s0 s) : Ends K F P s0 (execTdutyStep f s) := by
  unfold execTdutyStep
  repeat' first | with_reducible assumption | exact Fits.trans (by decide +kernel) hK | exact hF | with_reducible apply Ends.inRim | with_reducible apply State.fset_only | with_reducible apply Ends.finish | with_reducible apply Ends.next | with_reducible apply Only.ite | with_reducible apply Ends.ite | dsimp only | split | (with_reducible refine Only.fst (by with_reducible assumption) ?_) | (with_reducible refine Only.snd (by with_reducible assumption) ?_)

theorem State.pinTemp_only {K : List Part} {F : FieldId → Prop} {P : PlotId → Prop} {s0 : State} (s : State) (n : Nat) (r : PinReading) (hK : Fits ([.free] : List Part) K)
    (ho : Only K F P s0 s) : Only K F P s0 (State.pinTemp s n r).1 := by
  unfold State.pinTemp
  repeat' first | with_reducible assumption | exact Fits.trans (by decide +kernel) hK | with_reducible apply State.draw_only | with_reducible apply Only.ite | dsimp only | split | (with_reducible refine Only.fst (by with_reducible assumption) ?_) | (with_reducible refine Only.snd (by with_reducible assumption) ?_)

theorem State.pinEvent_only {K : List Part} {F : FieldId → Prop} {P : PlotId → Prop} {s0 : State} (s : State) (n kind : Nat) (set : Bool) (t : Int) (inj : Bool) (hK : Fits ([.events] : List Part) K)
    (ho : Only K F P s0 s) : Only K F P s0 (State.pinEvent s n kind set t inj) := by
  unfold State.pinEvent
  repeat' first | with_reducible assumption | exact Fits.trans (by decide +kernel) hK | with_reducible apply State.raiseHub_only | with_reducible apply Only.ite | dsimp only | split | (with_reducible refine Only.fst (by with_reducible assumption) ?_) | (with_reducible refine Only.snd (by with_reducible assumption) ?_)

theorem State.pinBit_only {K : List Part} {F : FieldId → Prop} {P : PlotId → Prop} {s0 : State} (s : State) (k : RegField) (n kind : Nat) (on : Bool) (t : Int) (inj : Bool) (hK : Fits ([.events, .hubReg k] : List Part) K)
    (ho : Only K F P s0 s) : Only K F P s0 (State.pinBit s k n kind on t inj) := by
  have h1 : Fits [.hubReg k] K := Fits.one_of hK (by simp)
  unfold State.pinBit
  refine Only.ite ho ?_
  apply State.pinEvent_only
  · exact Fits.one_of hK (by simp)
  · exact State.hset_only _ _ _ _ h1 ho

theorem State.critHold_only {K : List Part} {F : FieldId → Prop} {P : PlotId → Prop} {s0 : State} (s : State) (n : Nat) (hK : Fits ([.hubReg Reg.PWR_MODE_STATUS.CHANGING, .hubReg Reg.PWR_MODE_STATUS.MODE, .hubReg Reg.PWR_MODE_STATUS.PENDING, .hubReg Reg.PWR_MODE_STATUS.POINT_0, .hubReg Reg.PWR_MODE_STATUS.POINT_1, .hubReg Reg.PWR_MODE_STATUS.POINT_2, .hubReg Reg.PWR_MODE_STATUS.POINT_3, .hubReg Reg.PWR_MODE_STATUS.REQ, .hubReg Reg.PWR_MODE_STATUS.VSEL, .hubReg Reg.PWR_RAMP_STAT.GOVERNED, .hubReg Reg.PWR_RAMP_STAT.LIMIT, .power, .reg Reg.THM_FIELD_STATUS.POINT] : List Part) K) (hF : ∀ f, F f)
    (ho : Only K F P s0 s) : Only K F P s0 (State.critHold s n) := by
  unfold State.critHold
  repeat' first | with_reducible assumption | exact Fits.trans (by decide +kernel) hK | exact hF | exact hF _ | with_reducible apply State.updPwr_only | with_reducible apply State.modeRequest_only | with_reducible apply Only.ite | dsimp only | split | (with_reducible refine Only.fst (by with_reducible assumption) ?_) | (with_reducible refine Only.snd (by with_reducible assumption) ?_)

theorem State.pinAct_only {K : List Part} {F : FieldId → Prop} {P : PlotId → Prop} {s0 : State} (s : State) (n : Nat) (t : Int) (broken inj : Bool) (hK : Fits (([.events, .hubReg Reg.PWR_MODE_STATUS.CHANGING, .hubReg Reg.PWR_MODE_STATUS.MODE, .hubReg Reg.PWR_MODE_STATUS.PENDING, .hubReg Reg.PWR_MODE_STATUS.POINT_0, .hubReg Reg.PWR_MODE_STATUS.POINT_1, .hubReg Reg.PWR_MODE_STATUS.POINT_2, .hubReg Reg.PWR_MODE_STATUS.POINT_3, .hubReg Reg.PWR_MODE_STATUS.REQ, .hubReg Reg.PWR_MODE_STATUS.VSEL, .hubReg Reg.PWR_RAMP_STAT.GOVERNED, .hubReg Reg.PWR_RAMP_STAT.LIMIT, .hubReg Reg.THM_PIN_STATUS.BROKEN, .hubReg Reg.THM_PIN_STATUS.CRIT, .hubReg Reg.THM_PIN_STATUS.WARN, .hubReg Reg.THM_PIN_TEMP.TEMP] : List Part) ++ ([.power, .reg Reg.THM_FIELD_STATUS.POINT] : List Part)) K) (hF : ∀ f, F f)
    (ho : Only K F P s0 s) : Only K F P s0 (State.pinAct s n t broken inj) := by
  unfold State.pinAct
  repeat' first | with_reducible assumption | exact Fits.trans (by decide +kernel) hK | exact hF | exact hF _ | with_reducible apply State.pinBit_only | with_reducible apply State.hset_only | with_reducible apply State.critHold_only | with_reducible apply Only.ite | dsimp only | split | (with_reducible refine Only.fst (by with_reducible assumption) ?_) | (with_reducible refine Only.snd (by with_reducible assumption) ?_)

theorem State.critFree_only {K : List Part} {F : FieldId → Prop} {P : PlotId → Prop} {s0 : State} (s : State) (n : Nat) (hK : Fits ([.hubReg Reg.PWR_MODE_STATUS.CHANGING, .hubReg Reg.PWR_MODE_STATUS.MODE, .hubReg Reg.PWR_MODE_STATUS.PENDING, .hubReg Reg.PWR_MODE_STATUS.POINT_0, .hubReg Reg.PWR_MODE_STATUS.POINT_1, .hubReg Reg.PWR_MODE_STATUS.POINT_2, .hubReg Reg.PWR_MODE_STATUS.POINT_3, .hubReg Reg.PWR_MODE_STATUS.REQ, .hubReg Reg.PWR_MODE_STATUS.VSEL, .hubReg Reg.PWR_RAMP_STAT.GOVERNED, .hubReg Reg.PWR_RAMP_STAT.LIMIT, .power, .reg Reg.THM_FIELD_STATUS.POINT] : List Part) K) (hF : ∀ f, F f)
    (ho : Only K F P s0 s) : Only K F P s0 (State.critFree s n) := by
  unfold State.critFree
  repeat' first | with_reducible assumption | exact Fits.trans (by decide +kernel) hK | exact hF | exact hF _ | with_reducible apply State.updPwr_only | with_reducible apply State.modeFromReg_only | with_reducible apply Only.ite | dsimp only | split | (with_reducible refine Only.fst (by with_reducible assumption) ?_) | (with_reducible refine Only.snd (by with_reducible assumption) ?_)

theorem State.pinNone_only {K : List Part} {F : FieldId → Prop} {P : PlotId → Prop} {s0 : State} (s : State) (n : Nat) (hK : Fits ([.hubReg Reg.PWR_MODE_STATUS.CHANGING, .hubReg Reg.PWR_MODE_STATUS.MODE, .hubReg Reg.PWR_MODE_STATUS.PENDING, .hubReg Reg.PWR_MODE_STATUS.POINT_0, .hubReg Reg.PWR_MODE_STATUS.POINT_1, .hubReg Reg.PWR_MODE_STATUS.POINT_2, .hubReg Reg.PWR_MODE_STATUS.POINT_3, .hubReg Reg.PWR_MODE_STATUS.REQ, .hubReg Reg.PWR_MODE_STATUS.VSEL, .hubReg Reg.PWR_RAMP_STAT.GOVERNED, .hubReg Reg.PWR_RAMP_STAT.LIMIT, .hubReg Reg.THM_PIN_STATUS.CRIT, .hubReg Reg.THM_PIN_STATUS.WARN, .power, .reg Reg.THM_FIELD_STATUS.POINT] : List Part) K) (hF : ∀ f, F f)
    (ho : Only K F P s0 s) : Only K F P s0 (State.pinNone s n) := by
  unfold State.pinNone
  repeat' first | with_reducible assumption | exact Fits.trans (by decide +kernel) hK | exact hF | exact hF _ | with_reducible apply State.hset_only | with_reducible apply State.critFree_only | with_reducible apply State.updPwr_only | with_reducible apply Only.ite | dsimp only | split | (with_reducible refine Only.fst (by with_reducible assumption) ?_) | (with_reducible refine Only.snd (by with_reducible assumption) ?_)

theorem State.pinSample_only {K : List Part} {F : FieldId → Prop} {P : PlotId → Prop} {s0 : State} (s : State) (n : Nat) (r : PinReading) (hK : Fits (([.free, .events, .hubReg Reg.INJ_HPT.ARM, .hubReg Reg.INJ_HPT.DONE, .hubReg Reg.PWR_MODE_STATUS.CHANGING, .hubReg Reg.PWR_MODE_STATUS.MODE, .hubReg Reg.PWR_MODE_STATUS.PENDING, .hubReg Reg.PWR_MODE_STATUS.POINT_0, .hubReg Reg.PWR_MODE_STATUS.POINT_1, .hubReg Reg.PWR_MODE_STATUS.POINT_2, .hubReg Reg.PWR_MODE_STATUS.POINT_3, .hubReg Reg.PWR_MODE_STATUS.REQ, .hubReg Reg.PWR_MODE_STATUS.VSEL, .hubReg Reg.PWR_RAMP_STAT.GOVERNED, .hubReg Reg.PWR_RAMP_STAT.LIMIT, .hubReg Reg.THM_PIN_STATUS.BROKEN] : List Part) ++ ([.hubReg Reg.THM_PIN_STATUS.CRIT, .hubReg Reg.THM_PIN_STATUS.WARN, .hubReg Reg.THM_PIN_TEMP.TEMP, .power, .reg Reg.THM_FIELD_STATUS.POINT] : List Part)) K) (hF : ∀ f, F f)
    (ho : Only K F P s0 s) : Only K F P s0 (State.pinSample s n r) := by
  unfold State.pinSample
  repeat' first | with_reducible assumption | exact Fits.trans (by decide +kernel) hK | exact hF | exact hF _ | with_reducible apply State.pinNone_only | with_reducible apply State.pinAct_only | with_reducible apply State.hset_only | with_reducible apply State.pinTemp_only | with_reducible apply State.updPwr_only | with_reducible apply Only.ite | dsimp only | split | (with_reducible refine Only.fst (by with_reducible assumption) ?_) | (with_reducible refine Only.snd (by with_reducible assumption) ?_)

theorem execPinSample_only {K : List Part} {F : FieldId → Prop} {P : PlotId → Prop} {s0 : State} (readings : List PinReading) (s : State) (hK : Fits (([.free, .events, .hubReg Reg.INJ_HPT.ARM, .hubReg Reg.INJ_HPT.DONE, .hubReg Reg.PWR_MODE_STATUS.CHANGING, .hubReg Reg.PWR_MODE_STATUS.MODE, .hubReg Reg.PWR_MODE_STATUS.PENDING, .hubReg Reg.PWR_MODE_STATUS.POINT_0, .hubReg Reg.PWR_MODE_STATUS.POINT_1, .hubReg Reg.PWR_MODE_STATUS.POINT_2, .hubReg Reg.PWR_MODE_STATUS.POINT_3, .hubReg Reg.PWR_MODE_STATUS.REQ, .hubReg Reg.PWR_MODE_STATUS.VSEL, .hubReg Reg.PWR_RAMP_STAT.GOVERNED, .hubReg Reg.PWR_RAMP_STAT.LIMIT, .hubReg Reg.THM_PIN_STATUS.BROKEN] : List Part) ++ ([.hubReg Reg.THM_PIN_STATUS.CRIT, .hubReg Reg.THM_PIN_STATUS.WARN, .hubReg Reg.THM_PIN_TEMP.TEMP, .power, .reg Reg.THM_FIELD_STATUS.POINT] : List Part)) K) (hF : ∀ f, F f)
    (ho : Only K F P s0 s) : Ends K F P s0 (execPinSample readings s) := by
  unfold execPinSample
  repeat' first | with_reducible assumption | exact Fits.trans (by decide +kernel) hK | exact hF | exact hF _ | with_reducible apply State.pinSample_only | with_reducible apply Ends.finish | with_reducible apply Ends.next | with_reducible apply Only.ite | with_reducible apply Ends.ite | dsimp only | split | (with_reducible refine Only.foldl _ _ (fun t a ht => ?_) ?_) | (with_reducible refine Only.foldl_fst _ _ _ (fun t a ht => ?_) ?_) | (with_reducible refine Only.fst (by with_reducible assumption) ?_) | (with_reducible refine Only.snd (by with_reducible assumption) ?_)

theorem execPinCritClear_only {K : List Part} {F : FieldId → Prop} {P : PlotId → Prop} {s0 : State} (n : Fin 12) (s : State) (hK : Fits ([.hubReg Reg.PWR_MODE_STATUS.CHANGING, .hubReg Reg.PWR_MODE_STATUS.MODE, .hubReg Reg.PWR_MODE_STATUS.PENDING, .hubReg Reg.PWR_MODE_STATUS.POINT_0, .hubReg Reg.PWR_MODE_STATUS.POINT_1, .hubReg Reg.PWR_MODE_STATUS.POINT_2, .hubReg Reg.PWR_MODE_STATUS.POINT_3, .hubReg Reg.PWR_MODE_STATUS.REQ, .hubReg Reg.PWR_MODE_STATUS.VSEL, .hubReg Reg.PWR_RAMP_STAT.GOVERNED, .hubReg Reg.PWR_RAMP_STAT.LIMIT, .power, .reg Reg.THM_FIELD_STATUS.POINT] : List Part) K) (hF : ∀ f, F f)
    (ho : Only K F P s0 s) : Ends K F P s0 (execPinCritClear n s) := by
  unfold execPinCritClear
  repeat' first | with_reducible assumption | exact Fits.trans (by decide +kernel) hK | exact hF | exact hF _ | with_reducible apply State.critFree_only | with_reducible apply Ends.finish | with_reducible apply Ends.next | with_reducible apply Only.ite | with_reducible apply Ends.ite | dsimp only | split | (with_reducible refine Only.fst (by with_reducible assumption) ?_) | (with_reducible refine Only.snd (by with_reducible assumption) ?_)

end Sys2Proof.Machine
end

