-- ==== Sys2Proof/Laws/Touch/Inject.lean ====
section
/-! SUPPORT. What each operation of Machine/Inject.lean can change: the parts named, and nothing else. -/

namespace Sys2Proof.Machine

set_option Elab.async false

open Sys2Proof

theorem State.injDone_only {K : List Part} {F : FieldId → Prop} {P : PlotId → Prop} {s0 : State} (s : State) (f : FieldId) (r : Nat) (hK : Fits ([.reg Reg.INJ_PT.DONE] : List Part) K) (hF : F f)
    (ho : Only K F P s0 s) : Only K F P s0 (State.injDone s f r) := by
  unfold State.injDone
  repeat' first | with_reducible assumption | exact Fits.trans (by decide +kernel) hK | exact hF | with_reducible apply State.fset_only | with_reducible apply Only.ite | dsimp only | split | (with_reducible refine Only.fst (by with_reducible assumption) ?_) | (with_reducible refine Only.snd (by with_reducible assumption) ?_)

theorem State.fxEnd_only {K : List Part} {F : FieldId → Prop} {P : PlotId → Prop} {s0 : State} (s : State) (f : FieldId) (r : Nat) (hK : Fits ([.reg Reg.INJ_PT.DONE, .ports, .tally, .rimFx] : List Part) K) (hF : F f)
    (ho : Only K F P s0 s) : Only K F P s0 (State.fxEnd s f r) := by
  unfold State.fxEnd
  repeat' first | with_reducible assumption | exact Fits.trans (by decide +kernel) hK | exact hF | with_reducible apply State.injDone_only | with_reducible apply State.updField_only | with_reducible apply State.updPort_only | with_reducible apply State.updTly_only | (refine fun (X : Field) => ?_) | with_reducible apply FieldOnly.setReg | with_reducible exact FieldOnly.refl _ _ _ | with_reducible apply FieldOnly.updPlot | with_reducible apply FieldOnly.ite | (refine FieldOnly.keep rfl rfl (fun k hk => ?_); cases k <;> first | exact trivial | exact rfl | exact ⟨rfl, rfl⟩ | exact ⟨rfl, rfl, rfl⟩ | exact (Fits.not hK hk rfl).elim) | with_reducible apply Only.ite | dsimp only | split | (with_reducible refine Only.fst (by with_reducible assumption) ?_) | (with_reducible refine Only.snd (by with_reducible assumption) ?_)

theorem State.fxStart_only {K : List Part} {F : FieldId → Prop} {P : PlotId → Prop} {s0 : State} (s : State) (f : FieldId) (r point target arg : Nat) (hK : Fits ([.reg Reg.INJ_PT.ARM, .reg Reg.INJ_PT.DONE, .ports, .tally, .rimFx] : List Part) K) (hF : F f)
    (ho : Only K F P s0 s) : Only K F P s0 (State.fxStart s f r point target arg) := by
  unfold State.fxStart
  repeat' first | with_reducible assumption | exact Fits.trans (by decide +kernel) hK | exact hF | with_reducible apply State.fxEnd_only | with_reducible apply State.fset_only | with_reducible apply State.updField_only | (refine fun (X : Field) => ?_) | with_reducible apply FieldOnly.setReg | with_reducible exact FieldOnly.refl _ _ _ | with_reducible apply FieldOnly.updPlot | with_reducible apply FieldOnly.ite | (refine FieldOnly.keep rfl rfl (fun k hk => ?_); cases k <;> first | exact trivial | exact rfl | exact ⟨rfl, rfl⟩ | exact ⟨rfl, rfl, rfl⟩ | exact (Fits.not hK hk rfl).elim) | with_reducible apply Only.ite | dsimp only | split | (with_reducible refine Only.fst (by with_reducible assumption) ?_) | (with_reducible refine Only.snd (by with_reducible assumption) ?_)

theorem State.fxHubEnd_only {K : List Part} {F : FieldId → Prop} {P : PlotId → Prop} {s0 : State} (s : State) (r : Nat) (hK : Fits ([.events, .hubReg Reg.INJ_HPT.DONE, .hubReg Reg.PWR_MODE_STATUS.HOLD, .hubReg Reg.PWR_MODE_STATUS.HOLD_COUNT, .hubReg Reg.PWR_RAMP_STAT.BALLAST, .hubReg Reg.PWR_RAMP_STAT.GOVERNED, .hubReg Reg.PWR_RAMP_STAT.LIMIT, .power, .hubFx, .thermal] : List Part) K) (hF : ∀ f, F f)
    (ho : Only K F P s0 s) : Only K F P s0 (State.fxHubEnd s r) := by
  unfold State.fxHubEnd
  repeat' first | with_reducible assumption | exact Fits.trans (by decide +kernel) hK | exact hF | exact hF _ | with_reducible apply State.warnSet_only | with_reducible apply State.hset_only | with_reducible apply State.updHub_only | (refine fun (X : Hub) => ?_) | with_reducible apply HubOnly.setReg | with_reducible exact HubOnly.refl _ _ | with_reducible apply HubOnly.ite | (refine HubOnly.keep rfl (fun k hk => ?_); cases k <;> first | exact trivial | exact rfl | exact ⟨rfl, rfl⟩ | exact ⟨rfl, rfl, rfl⟩ | exact ⟨rfl, rfl, rfl, rfl⟩ | exact (Fits.not hK hk rfl).elim) | with_reducible apply Only.ite | dsimp only | split | (with_reducible refine Only.fst (by with_reducible assumption) ?_) | (with_reducible refine Only.snd (by with_reducible assumption) ?_)

theorem State.beginStackLost_only {K : List Part} {F : FieldId → Prop} {P : PlotId → Prop} {s0 : State} (s : State) (f : FieldId) (target : Nat) (hK : Fits (([.events, .hubReg Reg.HUB_FIELD_STATE.HBM0_OK, .hubReg Reg.HUB_FIELD_STATE.HBM1_OK, .hubReg Reg.HUB_FIELD_STATE.STATE, .hubReg Reg.MBX_HUB_IN_META.FULL, .hubReg Reg.MBX_HUB_OUT_ACK.CODE, .hubReg Reg.MBX_HUB_OUT_ACK.DONE, .hubReg Reg.MBX_HUB_OUT_META.PENDING, .hubSlots, .store, .bin, .storeErr, .binErr, .reg Reg.INJ_PT.ARM, .reg Reg.INJ_PT.DONE, .drill] : List Part) ++ ([.dr, .queue, .cq, .tine, .samples, .scrub, .notify, .xlines, .boot, .slot, .anyPlotReg, .memu, .hard, .gateway, .far (.reg Reg.MBX_RIM_IN_META.FULL), .far (.reg Reg.MBX_RIM_OUT_ACK.CODE)] : List Part) ++ ([.far (.reg Reg.MBX_RIM_OUT_ACK.DONE), .far (.reg Reg.MBX_RIM_OUT_META.PENDING), .far .slot, .far (.plotReg Reg.MBX_PLOT_IN_META.FULL), .far (.plotReg Reg.MBX_PLOT_OUT_ACK.CODE), .far (.plotReg Reg.MBX_PLOT_OUT_ACK.DONE), .far (.plotReg Reg.MBX_PLOT_OUT_META.PENDING), .far .rimSlots] : List Part)) K) (hF : F f) (hP : ∀ p, P p)
    (ho : Only K F P s0 s) : Only K F P s0 (State.beginStackLost s f target) := by
  unfold State.beginStackLost
  repeat' first | with_reducible assumption | exact Fits.trans (by decide +kernel) hK | exact hF | exact hP | exact hP _ | with_reducible apply State.stackLost_only | with_reducible apply State.injFire_only | with_reducible apply Only.ite | dsimp only | split | (with_reducible refine Only.fst (by with_reducible assumption) ?_) | (with_reducible refine Only.snd (by with_reducible assumption) ?_) | exact Fits.anyPlot _ (Fits.trans (by decide +kernel) hK)

theorem State.beginLaneFail_only {K : List Part} {F : FieldId → Prop} {P : PlotId → Prop} {s0 : State} (s : State) (f : FieldId) (target arg : Nat) (hK : Fits (([.events, .out, .reg Reg.INJ_PT.ARM, .reg Reg.INJ_PT.DONE, .reg Reg.RTE_COMB_STAT.MERGED, .reg Reg.RTE_COMB_STAT.PEAK, .reg Reg.RTE_LINK_CNT.LOST, .reg Reg.RTE_LINK_CNT.NAKS, .reg Reg.RTE_LINK_CNT.REPLAYED, .reg Reg.RTE_LINK_CNT.RETRAINS, .reg Reg.RTE_LINK_CNT.TX_FLITS, .reg Reg.RTE_LINK_CREDIT.RES, .reg Reg.RTE_LINK_CREDIT.SHARED, .reg Reg.RTE_LINK_STATUS.PRESERVED, .reg Reg.RTE_LINK_STATUS.RESULT, .reg Reg.RTE_LINK_STATUS.STATE] : List Part) ++ ([.ports, .router, .health, .tally] : List Part)) K) (hF : F f)
    (ho : Only K F P s0 s) : Only K F P s0 (State.beginLaneFail s f target arg) := by
  unfold State.beginLaneFail
  repeat' first | with_reducible assumption | exact Fits.trans (by decide +kernel) hK | exact hF | with_reducible apply State.rxFail_only | with_reducible apply State.injFire_only | with_reducible apply Only.ite | dsimp only | split | (with_reducible refine Only.fst (by with_reducible assumption) ?_) | (with_reducible refine Only.snd (by with_reducible assumption) ?_)

theorem State.beginRingUnlock_only {K : List Part} {F : FieldId → Prop} {P : PlotId → Prop} {s0 : State} (s : State) (f : FieldId) (target arg : Nat) (hK : Fits (([.events, .out, .reg Reg.HDL_CAL_STAT.ABORTED, .reg Reg.HDL_PORT_STATUS.TX_MODE, .reg Reg.INJ_PT.ARM, .reg Reg.INJ_PT.DONE, .reg Reg.RTE_COMB_STAT.MERGED, .reg Reg.RTE_COMB_STAT.PEAK, .reg Reg.RTE_LINK_CNT.LOST, .reg Reg.RTE_LINK_CNT.NAKS, .reg Reg.RTE_LINK_CNT.REPLAYED, .reg Reg.RTE_LINK_CNT.RETRAINS, .reg Reg.RTE_LINK_CNT.TX_FLITS, .reg Reg.RTE_LINK_CREDIT.RES, .reg Reg.RTE_LINK_CREDIT.SHARED, .reg Reg.RTE_LINK_STATUS.PRESERVED] : List Part) ++ ([.reg Reg.RTE_LINK_STATUS.RESULT, .reg Reg.RTE_LINK_STATUS.STATE, .ports, .router, .health, .tally, .rimFx] : List Part)) K) (hF : F f)
    (ho : Only K F P s0 s) : Only K F P s0 (State.beginRingUnlock s f target arg) := by
  unfold State.beginRingUnlock
  repeat' first | with_reducible assumption | exact Fits.trans (by decide +kernel) hK | exact hF | with_reducible apply State.fxStart_only | with_reducible apply State.txFail_only | with_reducible apply Only.ite | dsimp only | split | (with_reducible refine Only.fst (by with_reducible assumption) ?_) | (with_reducible refine Only.snd (by with_reducible assumption) ?_)

theorem State.beginRetrain_only {K : List Part} {F : FieldId → Prop} {P : PlotId → Prop} {s0 : State} (s : State) (f : FieldId) (target : Nat) (hK : Fits (([.events, .out, .reg Reg.INJ_PT.ARM, .reg Reg.INJ_PT.DONE, .reg Reg.RTE_COMB_STAT.MERGED, .reg Reg.RTE_COMB_STAT.PEAK, .reg Reg.RTE_LINK_CNT.LOST, .reg Reg.RTE_LINK_CNT.NAKS, .reg Reg.RTE_LINK_CNT.REPLAYED, .reg Reg.RTE_LINK_CNT.RETRAINS, .reg Reg.RTE_LINK_CNT.TX_FLITS, .reg Reg.RTE_LINK_CREDIT.RES, .reg Reg.RTE_LINK_CREDIT.SHARED, .reg Reg.RTE_LINK_STATUS.PRESERVED, .reg Reg.RTE_LINK_STATUS.RESULT, .reg Reg.RTE_LINK_STATUS.STATE] : List Part) ++ ([.ports, .router, .tally] : List Part)) K) (hF : F f)
    (ho : Only K F P s0 s) : Only K F P s0 (State.beginRetrain s f target) := by
  unfold State.beginRetrain
  repeat' first | with_reducible assumption | exact Fits.trans (by decide +kernel) hK | exact hF | with_reducible apply State.linkRetrain_only | with_reducible apply State.injFire_only | with_reducible apply Only.ite | dsimp only | split | (with_reducible refine Only.fst (by with_reducible assumption) ?_) | (with_reducible refine Only.snd (by with_reducible assumption) ?_)

theorem State.beginNoAck_only {K : List Part} {F : FieldId → Prop} {P : PlotId → Prop} {s0 : State} (s : State) (f : FieldId) (target arg : Nat) (hK : Fits ([.reg Reg.INJ_PT.ARM, .reg Reg.INJ_PT.DONE, .ports, .tally, .rimFx] : List Part) K) (hF : F f)
    (ho : Only K F P s0 s) : Only K F P s0 (State.beginNoAck s f target arg) := by
  unfold State.beginNoAck
  repeat' first | with_reducible assumption | exact Fits.trans (by decide +kernel) hK | exact hF | with_reducible apply State.updPort_only | with_reducible apply State.fxStart_only | with_reducible apply Only.ite | dsimp only | split | (with_reducible refine Only.fst (by with_reducible assumption) ?_) | (with_reducible refine Only.snd (by with_reducible assumption) ?_)

theorem State.beginBeatStop_only {K : List Part} {F : FieldId → Prop} {P : PlotId → Prop} {s0 : State} (s : State) (f : FieldId) (target arg : Nat) (hK : Fits ([.reg Reg.INJ_PT.ARM, .reg Reg.INJ_PT.DONE, .ports, .tally, .rimFx] : List Part) K) (hF : F f)
    (ho : Only K F P s0 s) : Only K F P s0 (State.beginBeatStop s f target arg) := by
  unfold State.beginBeatStop
  repeat' first | with_reducible assumption | exact Fits.trans (by decide +kernel) hK | exact hF | with_reducible apply State.updTly_only | with_reducible apply State.fxStart_only | with_reducible apply Only.ite | dsimp only | split | (with_reducible refine Only.fst (by with_reducible assumption) ?_) | (with_reducible refine Only.snd (by with_reducible assumption) ?_)

theorem State.beginBeaconMute_only {K : List Part} {F : FieldId → Prop} {P : PlotId → Prop} {s0 : State} (s : State) (f : FieldId) (target arg : Nat) (hK : Fits ([.reg Reg.INJ_PT.ARM, .reg Reg.INJ_PT.DONE, .ports, .tally, .rimFx] : List Part) K) (hF : F f)
    (ho : Only K F P s0 s) : Only K F P s0 (State.beginBeaconMute s f target arg) := by
  unfold State.beginBeaconMute
  repeat' first | with_reducible assumption | exact Fits.trans (by decide +kernel) hK | exact hF | with_reducible apply State.updTly_only | with_reducible apply State.fxStart_only | with_reducible apply Only.ite | dsimp only | split | (with_reducible refine Only.fst (by with_reducible assumption) ?_) | (with_reducible refine Only.snd (by with_reducible assumption) ?_)

theorem State.beginSensorBroken_only {K : List Part} {F : FieldId → Prop} {P : PlotId → Prop} {s0 : State} (s : State) (f : FieldId) (target : Nat) (hK : Fits ([.events, .reg Reg.INJ_PT.ARM, .reg Reg.INJ_PT.DONE, .reg Reg.THM_EVT_CNT.SENSORS, .reg Reg.THM_FIELD_STATUS.BROKEN, .health, .thermal] : List Part) K) (hF : F f)
    (ho : Only K F P s0 s) : Only K F P s0 (State.beginSensorBroken s f target) := by
  unfold State.beginSensorBroken
  repeat' first | with_reducible assumption | exact Fits.trans (by decide +kernel) hK | exact hF | with_reducible apply State.sensorBreak_only | with_reducible apply State.injFire_only | with_reducible apply Only.ite | dsimp only | split | (with_reducible refine Only.fst (by with_reducible assumption) ?_) | (with_reducible refine Only.snd (by with_reducible assumption) ?_)

theorem State.beginSensor_only {K : List Part} {F : FieldId → Prop} {P : PlotId → Prop} {s0 : State} (s : State) (f : FieldId) (ramp : Bool) (target arg : Nat) (hK : Fits ([.reg Reg.INJ_PT.ARM, .reg Reg.INJ_PT.DONE, .thermal] : List Part) K) (hF : F f)
    (ho : Only K F P s0 s) : Only K F P s0 (State.beginSensor s f ramp target arg) := by
  unfold State.beginSensor
  repeat' first | with_reducible assumption | exact Fits.trans (by decide +kernel) hK | exact hF | with_reducible apply State.injFire_only | with_reducible apply State.updThm_only | with_reducible apply State.fset_only | with_reducible apply Only.ite | dsimp only | split | (with_reducible refine Only.fst (by with_reducible assumption) ?_) | (with_reducible refine Only.snd (by with_reducible assumption) ?_)

theorem State.injBegin_only {K : List Part} {F : FieldId → Prop} {P : PlotId → Prop} {s0 : State} (s : State) (f : FieldId) (r point target arg : Nat) (hK : Fits (([.events, .out, .hubReg Reg.HUB_FIELD_STATE.HBM0_OK, .hubReg Reg.HUB_FIELD_STATE.HBM1_OK, .hubReg Reg.HUB_FIELD_STATE.STATE, .hubReg Reg.MBX_HUB_IN_META.FULL, .hubReg Reg.MBX_HUB_OUT_ACK.CODE, .hubReg Reg.MBX_HUB_OUT_ACK.DONE, .hubReg Reg.MBX_HUB_OUT_META.PENDING, .hubSlots, .store, .bin, .storeErr, .binErr, .reg Reg.HDL_CAL_STAT.ABORTED, .reg Reg.HDL_PORT_STATUS.TX_MODE] : List Part) ++ ([.reg Reg.INJ_PT.ARM, .reg Reg.INJ_PT.DONE, .reg Reg.RTE_COMB_STAT.MERGED, .reg Reg.RTE_COMB_STAT.PEAK, .reg Reg.RTE_LINK_CNT.LOST, .reg Reg.RTE_LINK_CNT.NAKS, .reg Reg.RTE_LINK_CNT.REPLAYED, .reg Reg.RTE_LINK_CNT.RETRAINS, .reg Reg.RTE_LINK_CNT.TX_FLITS, .reg Reg.RTE_LINK_CREDIT.RES, .reg Reg.RTE_LINK_CREDIT.SHARED, .reg Reg.RTE_LINK_STATUS.PRESERVED, .reg Reg.RTE_LINK_STATUS.RESULT, .reg Reg.RTE_LINK_STATUS.STATE, .reg Reg.THM_EVT_CNT.SENSORS, .reg Reg.THM_FIELD_STATUS.BROKEN] : List Part) ++ ([.drill, .dr, .queue, .cq, .tine, .samples, .scrub, .notify, .xlines, .boot, .slot, .anyPlotReg, .memu, .hard, .ports, .router] : List Part) ++ ([.gateway, .health, .tally, .thermal, .rimFx, .far (.reg Reg.MBX_RIM_IN_META.FULL), .far (.reg Reg.MBX_RIM_OUT_ACK.CODE), .far (.reg Reg.MBX_RIM_OUT_ACK.DONE), .far (.reg Reg.MBX_RIM_OUT_META.PENDING), .far .slot, .far (.plotReg Reg.MBX_PLOT_IN_META.FULL), .far (.plotReg Reg.MBX_PLOT_OUT_ACK.CODE), .far (.plotReg Reg.MBX_PLOT_OUT_ACK.DONE), .far (.plotReg Reg.MBX_PLOT_OUT_META.PENDING), .far .rimSlots] : List Part)) K) (hF : F f) (hP : ∀ p, P p)
    (ho : Only K F P s0 s) : Only K F P s0 (State.injBegin s f r point target arg) := by
  unfold State.injBegin
  repeat' first | with_reducible assumption | exact Fits.trans (by decide +kernel) hK | exact hF | exact hP | exact hP _ | with_reducible apply State.beginStackLost_only | with_reducible apply State.beginLaneFail_only | with_reducible apply State.beginRingUnlock_only | with_reducible apply State.beginRetrain_only | with_reducible apply State.beginNoAck_only | with_reducible apply State.beginBeatStop_only | with_reducible apply State.beginBeaconMute_only | with_reducible apply State.beginSensor_only | with_reducible apply State.beginSensorBroken_only | with_reducible apply Only.ite | dsimp only | split | (with_reducible refine Only.fst (by with_reducible assumption) ?_) | (with_reducible refine Only.snd (by with_reducible assumption) ?_) | exact Fits.anyPlot _ (Fits.trans (by decide +kernel) hK)

theorem State.injTry_only {K : List Part} {F : FieldId → Prop} {P : PlotId → Prop} {s0 : State} (s : State) (f : FieldId) (r : Nat) (valid : Bool) (begin_ : State → State) (hK : Fits ([.reg Reg.INJ_PT.ARM, .reg Reg.INJ_PT.NOFIRE] : List Part) K) (hF : F f) (hc : ∀ t, Only K F P s0 t → Only K F P s0 (begin_ t))
    (ho : Only K F P s0 s) : Only K F P s0 (State.injTry s f r valid begin_) := by
  unfold State.injTry
  repeat' first | with_reducible assumption | exact Fits.trans (by decide +kernel) hK | exact hF | with_reducible apply State.fset_only | with_reducible apply Only.ite | dsimp only | split | (with_reducible refine Only.fst (by with_reducible assumption) ?_) | (with_reducible refine Only.snd (by with_reducible assumption) ?_) | (apply hc)

theorem State.injArm_only {K : List Part} {F : FieldId → Prop} {P : PlotId → Prop} {s0 : State} (s : State) (f : FieldId) (r : Nat) (hK : Fits (([.events, .out, .hubReg Reg.HUB_FIELD_STATE.HBM0_OK, .hubReg Reg.HUB_FIELD_STATE.HBM1_OK, .hubReg Reg.HUB_FIELD_STATE.STATE, .hubReg Reg.MBX_HUB_IN_META.FULL, .hubReg Reg.MBX_HUB_OUT_ACK.CODE, .hubReg Reg.MBX_HUB_OUT_ACK.DONE, .hubReg Reg.MBX_HUB_OUT_META.PENDING, .hubSlots, .store, .bin, .storeErr, .binErr, .reg Reg.HDL_CAL_STAT.ABORTED, .reg Reg.HDL_PORT_STATUS.TX_MODE] : List Part) ++ ([.reg Reg.INJ_PT.ARM, .reg Reg.INJ_PT.DONE, .reg Reg.INJ_PT.NOFIRE, .reg Reg.RTE_COMB_STAT.MERGED, .reg Reg.RTE_COMB_STAT.PEAK, .reg Reg.RTE_LINK_CNT.LOST, .reg Reg.RTE_LINK_CNT.NAKS, .reg Reg.RTE_LINK_CNT.REPLAYED, .reg Reg.RTE_LINK_CNT.RETRAINS, .reg Reg.RTE_LINK_CNT.TX_FLITS, .reg Reg.RTE_LINK_CREDIT.RES, .reg Reg.RTE_LINK_CREDIT.SHARED, .reg Reg.RTE_LINK_STATUS.PRESERVED, .reg Reg.RTE_LINK_STATUS.RESULT, .reg Reg.RTE_LINK_STATUS.STATE, .reg Reg.THM_EVT_CNT.SENSORS] : List Part) ++ ([.reg Reg.THM_FIELD_STATUS.BROKEN, .drill, .dr, .queue, .cq, .tine, .samples, .scrub, .notify, .xlines, .boot, .slot, .anyPlotReg, .memu, .hard, .ports] : List Part) ++ ([.router, .gateway, .health, .tally, .thermal, .rimFx, .far (.reg Reg.MBX_RIM_IN_META.FULL), .far (.reg Reg.MBX_RIM_OUT_ACK.CODE), .far (.reg Reg.MBX_RIM_OUT_ACK.DONE), .far (.reg Reg.MBX_RIM_OUT_META.PENDING), .far .slot, .far (.plotReg Reg.MBX_PLOT_IN_META.FULL), .far (.plotReg Reg.MBX_PLOT_OUT_ACK.CODE), .far (.plotReg Reg.MBX_PLOT_OUT_ACK.DONE), .far (.plotReg Reg.MBX_PLOT_OUT_META.PENDING), .far .rimSlots] : List Part)) K) (hF : F f) (hP : ∀ p, P p)
    (ho : Only K F P s0 s) : Only K F P s0 (State.injArm s f r) := by
  unfold State.injArm
  repeat' first | with_reducible assumption | exact Fits.trans (by decide +kernel) hK | exact hF | exact hP | exact hP _ | with_reducible apply State.injTry_only | with_reducible apply State.injBegin_only | with_reducible apply Only.ite | dsimp only | split | (with_reducible refine Only.fst (by with_reducible assumption) ?_) | (with_reducible refine Only.snd (by with_reducible assumption) ?_) | exact Fits.anyPlot _ (Fits.trans (by decide +kernel) hK) | (refine fun t ht => ?_)

theorem State.injHubFire_only {K : List Part} {F : FieldId → Prop} {P : PlotId → Prop} {s0 : State} (s : State) (r : Nat) (hK : Fits ([.hubReg Reg.INJ_HPT.ARM, .hubReg Reg.INJ_HPT.DONE] : List Part) K)
    (ho : Only K F P s0 s) : Only K F P s0 (State.injHubFire s r) := by
  unfold State.injHubFire
  repeat' first | with_reducible assumption | exact Fits.trans (by decide +kernel) hK | with_reducible apply State.hset_only | with_reducible apply Only.ite | dsimp only | split | (with_reducible refine Only.fst (by with_reducible assumption) ?_) | (with_reducible refine Only.snd (by with_reducible assumption) ?_)

theorem State.beginPwrWarn_only {K : List Part} {F : FieldId → Prop} {P : PlotId → Prop} {s0 : State} (s : State) (target arg : Nat) (hK : Fits ([.events, .hubReg Reg.INJ_HPT.ARM, .hubReg Reg.INJ_HPT.DONE, .hubReg Reg.PWR_MODE_STATUS.HOLD, .hubReg Reg.PWR_MODE_STATUS.HOLD_COUNT, .hubReg Reg.PWR_RAMP_STAT.BALLAST, .hubReg Reg.PWR_RAMP_STAT.GOVERNED, .hubReg Reg.PWR_RAMP_STAT.LIMIT, .power, .hubFx, .thermal] : List Part) K) (hF : ∀ f, F f)
    (ho : Only K F P s0 s) : Only K F P s0 (State.beginPwrWarn s target arg) := by
  unfold State.beginPwrWarn
  repeat' first | with_reducible assumption | exact Fits.trans (by decide +kernel) hK | exact hF | exact hF _ | with_reducible apply State.hset_only | with_reducible apply State.fxHubEnd_only | with_reducible apply State.warnSet_only | with_reducible apply State.updHub_only | (refine fun (X : Hub) => ?_) | with_reducible apply HubOnly.setReg | with_reducible exact HubOnly.refl _ _ | with_reducible apply HubOnly.ite | (refine HubOnly.keep rfl (fun k hk => ?_); cases k <;> first | exact trivial | exact rfl | exact ⟨rfl, rfl⟩ | exact ⟨rfl, rfl, rfl⟩ | exact ⟨rfl, rfl, rfl, rfl⟩ | exact (Fits.not hK hk rfl).elim) | with_reducible apply Only.ite | dsimp only | split | (with_reducible refine Only.fst (by with_reducible assumption) ?_) | (with_reducible refine Only.snd (by with_reducible assumption) ?_)

theorem State.beginPinBroken_only {K : List Part} {F : FieldId → Prop} {P : PlotId → Prop} {s0 : State} (s : State) (target : Nat) (hK : Fits ([.hubReg Reg.INJ_HPT.ARM, .hubReg Reg.INJ_HPT.DONE, .power] : List Part) K)
    (ho : Only K F P s0 s) : Only K F P s0 (State.beginPinBroken s target) := by
  unfold State.beginPinBroken
  repeat' first | with_reducible assumption | exact Fits.trans (by decide +kernel) hK | with_reducible apply State.updPwr_only | with_reducible apply State.injHubFire_only | with_reducible apply Only.ite | dsimp only | split | (with_reducible refine Only.fst (by with_reducible assumption) ?_) | (with_reducible refine Only.snd (by with_reducible assumption) ?_)

theorem State.beginHeartbeatStop_only {K : List Part} {F : FieldId → Prop} {P : PlotId → Prop} {s0 : State} (s : State) (target : Nat) (hK : Fits ([.hubReg Reg.INJ_HPT.ARM, .hubReg Reg.INJ_HPT.DONE, .hubLost] : List Part) K) (hF : ∀ f, F f)
    (ho : Only K F P s0 s) : Only K F P s0 (State.beginHeartbeatStop s target) := by
  unfold State.beginHeartbeatStop
  repeat' first | with_reducible assumption | exact Fits.trans (by decide +kernel) hK | exact hF | exact hF _ | with_reducible apply State.updField_only | with_reducible apply State.injHubFire_only | (refine fun (X : Field) => ?_) | with_reducible apply FieldOnly.setReg | with_reducible exact FieldOnly.refl _ _ _ | with_reducible apply FieldOnly.updPlot | with_reducible apply FieldOnly.ite | (refine FieldOnly.keep rfl rfl (fun k hk => ?_); cases k <;> first | exact trivial | exact rfl | exact ⟨rfl, rfl⟩ | exact ⟨rfl, rfl, rfl⟩ | exact (Fits.not hK hk rfl).elim) | with_reducible apply Only.ite | dsimp only | split | (with_reducible refine Only.fst (by with_reducible assumption) ?_) | (with_reducible refine Only.snd (by with_reducible assumption) ?_)

theorem State.beginHostLaneFail_only {K : List Part} {F : FieldId → Prop} {P : PlotId → Prop} {s0 : State} (s : State) (target : Nat) (hK : Fits ([.free, .events, .out, .hubReg Reg.HUB_HOST_PHY_STATUS.RECOVERIES, .hubReg Reg.HUB_HOST_PHY_STATUS.STATE, .hubReg Reg.HUB_HOST_PHY_STATUS.WIDTH, .hubReg Reg.INJ_HPT.ARM, .hubReg Reg.INJ_HPT.DONE, .hostTx, .host] : List Part) K)
    (ho : Only K F P s0 s) : Only K F P s0 (State.beginHostLaneFail s target) := by
  unfold State.beginHostLaneFail
  repeat' first | with_reducible assumption | exact Fits.trans (by decide +kernel) hK | with_reducible apply State.draw_only | with_reducible apply State.hostFail_only | with_reducible apply State.injHubFire_only | with_reducible apply Only.ite | dsimp only | split | (with_reducible refine Only.fst (by with_reducible assumption) ?_) | (with_reducible refine Only.snd (by with_reducible assumption) ?_)

theorem State.beginInletDrop_only {K : List Part} {F : FieldId → Prop} {P : PlotId → Prop} {s0 : State} (s : State) (target arg : Nat) (hK : Fits (([.events, .out, .hubReg Reg.HDL_HOST_ENGINE.DARK, .hubReg Reg.HDL_HOST_ENGINE.INLET_A_OK, .hubReg Reg.HDL_HOST_ENGINE.INLET_B_OK, .hubReg Reg.HDL_HOST_ENGINE.SRC, .hubReg Reg.HDL_HOST_ENGINE.SWITCHING, .hubReg Reg.HDL_MODULE.OUTPUT_ON, .hubReg Reg.HDL_MODULE.PROBE_FAIL, .hubReg Reg.HUB_HOST_PHY_STATUS.STATE, .hubReg Reg.HUB_HOST_PHY_STATUS.WIDTH, .hubReg Reg.INJ_HPT.ARM, .hubReg Reg.INJ_HPT.DONE, .light, .host, .reg Reg.HDL_ENGINE_STATUS.DARK] : List Part) ++ ([.reg Reg.HDL_ENGINE_STATUS.INLET_A_OK, .reg Reg.HDL_ENGINE_STATUS.INLET_B_OK, .reg Reg.HDL_ENGINE_STATUS.SRC, .reg Reg.HDL_ENGINE_STATUS.SWITCHING, .reg Reg.INJ_PT.ARM, .reg Reg.INJ_PT.DONE, .reg Reg.RTE_COMB_STAT.MERGED, .reg Reg.RTE_COMB_STAT.PEAK, .reg Reg.RTE_LINK_CNT.LOST, .reg Reg.RTE_LINK_CNT.NAKS, .reg Reg.RTE_LINK_CNT.REPLAYED, .reg Reg.RTE_LINK_CNT.TX_FLITS, .reg Reg.RTE_LINK_CREDIT.RES, .reg Reg.RTE_LINK_CREDIT.SHARED, .reg Reg.RTE_LINK_STATUS.PRESERVED, .reg Reg.RTE_LINK_STATUS.RESULT] : List Part) ++ ([.reg Reg.RTE_LINK_STATUS.STATE, .ports, .router, .tally] : List Part)) K) (hF : ∀ f, F f)
    (ho : Only K F P s0 s) : Only K F P s0 (State.beginInletDrop s target arg) := by
  unfold State.beginInletDrop
  repeat' first | with_reducible assumption | exact Fits.trans (by decide +kernel) hK | exact hF | exact hF _ | with_reducible apply State.inletLost_only | with_reducible apply State.injHubFire_only | with_reducible apply Only.ite | dsimp only | split | (with_reducible refine Only.fst (by with_reducible assumption) ?_) | (with_reducible refine Only.snd (by with_reducible assumption) ?_)

theorem State.injHubBegin_only {K : List Part} {F : FieldId → Prop} {P : PlotId → Prop} {s0 : State} (s : State) (r point target arg : Nat) (hK : Fits (([.free, .events, .out, .hubReg Reg.HDL_HOST_ENGINE.DARK, .hubReg Reg.HDL_HOST_ENGINE.INLET_A_OK, .hubReg Reg.HDL_HOST_ENGINE.INLET_B_OK, .hubReg Reg.HDL_HOST_ENGINE.SRC, .hubReg Reg.HDL_HOST_ENGINE.SWITCHING, .hubReg Reg.HDL_MODULE.OUTPUT_ON, .hubReg Reg.HDL_MODULE.PROBE_FAIL, .hubReg Reg.HUB_HOST_PHY_STATUS.RECOVERIES, .hubReg Reg.HUB_HOST_PHY_STATUS.STATE, .hubReg Reg.HUB_HOST_PHY_STATUS.WIDTH, .hubReg Reg.INJ_HPT.ARM, .hubReg Reg.INJ_HPT.DONE, .hubReg Reg.PWR_MODE_STATUS.HOLD] : List Part) ++ ([.hubReg Reg.PWR_MODE_STATUS.HOLD_COUNT, .hubReg Reg.PWR_RAMP_STAT.BALLAST, .hubReg Reg.PWR_RAMP_STAT.GOVERNED, .hubReg Reg.PWR_RAMP_STAT.LIMIT, .light, .hostTx, .host, .power, .hubFx, .reg Reg.HDL_ENGINE_STATUS.DARK, .reg Reg.HDL_ENGINE_STATUS.INLET_A_OK, .reg Reg.HDL_ENGINE_STATUS.INLET_B_OK, .reg Reg.HDL_ENGINE_STATUS.SRC, .reg Reg.HDL_ENGINE_STATUS.SWITCHING, .reg Reg.INJ_PT.ARM, .reg Reg.INJ_PT.DONE] : List Part) ++ ([.reg Reg.RTE_COMB_STAT.MERGED, .reg Reg.RTE_COMB_STAT.PEAK, .reg Reg.RTE_LINK_CNT.LOST, .reg Reg.RTE_LINK_CNT.NAKS, .reg Reg.RTE_LINK_CNT.REPLAYED, .reg Reg.RTE_LINK_CNT.TX_FLITS, .reg Reg.RTE_LINK_CREDIT.RES, .reg Reg.RTE_LINK_CREDIT.SHARED, .reg Reg.RTE_LINK_STATUS.PRESERVED, .reg Reg.RTE_LINK_STATUS.RESULT, .reg Reg.RTE_LINK_STATUS.STATE, .ports, .router, .tally, .hubLost, .thermal] : List Part)) K) (hF : ∀ f, F f)
    (ho : Only K F P s0 s) : Only K F P s0 (State.injHubBegin s r point target arg) := by
  unfold State.injHubBegin
  repeat' first | with_reducible assumption | exact Fits.trans (by decide +kernel) hK | exact hF | exact hF _ | with_reducible apply State.beginPwrWarn_only | with_reducible apply State.beginPinBroken_only | with_reducible apply State.beginHeartbeatStop_only | with_reducible apply State.beginHostLaneFail_only | with_reducible apply State.beginInletDrop_only | with_reducible apply Only.ite | dsimp only | split | (with_reducible refine Only.fst (by with_reducible assumption) ?_) | (with_reducible refine Only.snd (by with_reducible assumption) ?_)

theorem State.injHubTry_only {K : List Part} {F : FieldId → Prop} {P : PlotId → Prop} {s0 : State} (s : State) (r : Nat) (valid : Bool) (begin_ : State → State) (hK : Fits ([.hubReg Reg.INJ_HPT.ARM, .hubReg Reg.INJ_HPT.NOFIRE] : List Part) K) (hc : ∀ t, Only K F P s0 t → Only K F P s0 (begin_ t))
    (ho : Only K F P s0 s) : Only K F P s0 (State.injHubTry s r valid begin_) := by
  unfold State.injHubTry
  repeat' first | with_reducible assumption | exact Fits.trans (by decide +kernel) hK | with_reducible apply State.hset_only | with_reducible apply Only.ite | dsimp only | split | (with_reducible refine Only.fst (by with_reducible assumption) ?_) | (with_reducible refine Only.snd (by with_reducible assumption) ?_) | (apply hc)

theorem State.injHubArm_only {K : List Part} {F : FieldId → Prop} {P : PlotId → Prop} {s0 : State} (s : State) (r : Nat) (hK : Fits (([.free, .events, .out, .hubReg Reg.HDL_HOST_ENGINE.DARK, .hubReg Reg.HDL_HOST_ENGINE.INLET_A_OK, .hubReg Reg.HDL_HOST_ENGINE.INLET_B_OK, .hubReg Reg.HDL_HOST_ENGINE.SRC, .hubReg Reg.HDL_HOST_ENGINE.SWITCHING, .hubReg Reg.HDL_MODULE.OUTPUT_ON, .hubReg Reg.HDL_MODULE.PROBE_FAIL, .hubReg Reg.HUB_HOST_PHY_STATUS.RECOVERIES, .hubReg Reg.HUB_HOST_PHY_STATUS.STATE, .hubReg Reg.HUB_HOST_PHY_STATUS.WIDTH, .hubReg Reg.INJ_HPT.ARM, .hubReg Reg.INJ_HPT.DONE, .hubReg Reg.INJ_HPT.NOFIRE] : List Part) ++ ([.hubReg Reg.PWR_MODE_STATUS.HOLD, .hubReg Reg.PWR_MODE_STATUS.HOLD_COUNT, .hubReg Reg.PWR_RAMP_STAT.BALLAST, .hubReg Reg.PWR_RAMP_STAT.GOVERNED, .hubReg Reg.PWR_RAMP_STAT.LIMIT, .light, .hostTx, .host, .power, .hubFx, .reg Reg.HDL_ENGINE_STATUS.DARK, .reg Reg.HDL_ENGINE_STATUS.INLET_A_OK, .reg Reg.HDL_ENGINE_STATUS.INLET_B_OK, .reg Reg.HDL_ENGINE_STATUS.SRC, .reg Reg.HDL_ENGINE_STATUS.SWITCHING, .reg Reg.INJ_PT.ARM] : List Part) ++ ([.reg Reg.INJ_PT.DONE, .reg Reg.RTE_COMB_STAT.MERGED, .reg Reg.RTE_COMB_STAT.PEAK, .reg Reg.RTE_LINK_CNT.LOST, .reg Reg.RTE_LINK_CNT.NAKS, .reg Reg.RTE_LINK_CNT.REPLAYED, .reg Reg.RTE_LINK_CNT.TX_FLITS, .reg Reg.RTE_LINK_CREDIT.RES, .reg Reg.RTE_LINK_CREDIT.SHARED, .reg Reg.RTE_LINK_STATUS.PRESERVED, .reg Reg.RTE_LINK_STATUS.RESULT, .reg Reg.RTE_LINK_STATUS.STATE, .ports, .router, .tally, .hubLost] : List Part) ++ ([.thermal] : List Part)) K) (hF : ∀ f, F f)
    (ho : Only K F P s0 s) : Only K F P s0 (State.injHubArm s r) := by
  unfold State.injHubArm
  repeat' first | with_reducible assumption | exact Fits.trans (by decide +kernel) hK | exact hF | exact hF _ | with_reducible apply State.injHubTry_only | with_reducible apply State.injHubBegin_only | with_reducible apply Only.ite | dsimp only | split | (with_reducible refine Only.fst (by with_reducible assumption) ?_) | (with_reducible refine Only.snd (by with_reducible assumption) ?_) | (refine fun t ht => ?_)

theorem State.injRow_only {K : List Part} {F : FieldId → Prop} {P : PlotId → Prop} {s0 : State} (s : State) (f : FieldId) (r point target arg : Nat) (begin_ : State → Nat → State) (hK : Fits ([.reg Reg.INJ_PT.ARG, .reg Reg.INJ_PT.ARM, .reg Reg.INJ_PT.NOFIRE, .reg Reg.INJ_PT.POINT, .reg Reg.INJ_PT.TARGET] : List Part) K) (hF : F f) (hc : ∀ t a, Only K F P s0 t → Only K F P s0 (begin_ t a))
    (ho : Only K F P s0 s) : Ends K F P s0 (State.injRow s f r point target arg begin_) := by
  unfold State.injRow
  repeat' first | with_reducible assumption | exact Fits.trans (by decide +kernel) hK | exact hF | with_reducible apply State.fset_only | with_reducible apply State.injTry_only | with_reducible apply Ends.finish | with_reducible apply Ends.next | with_reducible apply Only.ite | with_reducible apply Ends.ite | dsimp only | split | (with_reducible refine Only.fst (by with_reducible assumption) ?_) | (with_reducible refine Only.snd (by with_reducible assumption) ?_) | (apply hc) | (refine fun t ht => ?_)

theorem State.injHubRow_only {K : List Part} {F : FieldId → Prop} {P : PlotId → Prop} {s0 : State} (s : State) (r point target arg : Nat) (begin_ : State → Nat → State) (hK : Fits ([.hubReg Reg.INJ_HPT.ARG, .hubReg Reg.INJ_HPT.ARM, .hubReg Reg.INJ_HPT.NOFIRE, .hubReg Reg.INJ_HPT.POINT, .hubReg Reg.INJ_HPT.TARGET] : List Part) K) (hc : ∀ t a, Only K F P s0 t → Only K F P s0 (begin_ t a))
    (ho : Only K F P s0 s) : Ends K F P s0 (State.injHubRow s r point target arg begin_) := by
  unfold State.injHubRow
  repeat' first | with_reducible assumption | exact Fits.trans (by decide +kernel) hK | with_reducible apply State.hset_only | with_reducible apply State.injHubTry_only | with_reducible apply Ends.finish | with_reducible apply Ends.next | with_reducible apply Only.ite | with_reducible apply Ends.ite | dsimp only | split | (with_reducible refine Only.fst (by with_reducible assumption) ?_) | (with_reducible refine Only.snd (by with_reducible assumption) ?_) | (apply hc) | (refine fun t ht => ?_)

theorem State.injClear_only {K : List Part} {F : FieldId → Prop} {P : PlotId → Prop} {s0 : State} (s : State) (f : FieldId) (hK : Fits ([.reg Reg.INJ_ARITH.ARM, .reg Reg.INJ_PT.ARM, .reg Reg.INJ_PT.DONE, .ports, .gateway, .sheaf, .mirror, .tally, .thermal, .rimFx] : List Part) K) (hF : F f)
    (ho : Only K F P s0 s) : Only K F P s0 (State.injClear s f) := by
  unfold State.injClear
  repeat' first | with_reducible assumption | exact Fits.trans (by decide +kernel) hK | exact hF | with_reducible apply State.fset_only | with_reducible apply State.fxEnd_only | with_reducible apply State.injDone_only | with_reducible apply State.updThm_only | with_reducible apply State.updField_only | (refine fun (X : Field) => ?_) | with_reducible apply FieldOnly.setReg | with_reducible exact FieldOnly.refl _ _ _ | with_reducible apply FieldOnly.updPlot | with_reducible apply FieldOnly.ite | (refine FieldOnly.keep rfl rfl (fun k hk => ?_); cases k <;> first | exact trivial | exact rfl | exact ⟨rfl, rfl⟩ | exact ⟨rfl, rfl, rfl⟩ | exact (Fits.not hK hk rfl).elim) | with_reducible apply Only.ite | dsimp only | split | (with_reducible refine Only.foldl _ _ (fun t a ht => ?_) ?_) | (with_reducible refine Only.foldl_fst _ _ _ (fun t a ht => ?_) ?_) | (with_reducible refine Only.fst (by with_reducible assumption) ?_) | (with_reducible refine Only.snd (by with_reducible assumption) ?_)

theorem State.injLock_only {K : List Part} {F : FieldId → Prop} {P : PlotId → Prop} {s0 : State} (s : State) (hK : Fits (([.events, .hubReg Reg.HUB_INJ_STATUS.OPEN, .hubReg Reg.HUB_INJ_STATUS.PENDING, .hubReg Reg.INJ_HPT.ARM, .hubReg Reg.INJ_HPT.DONE, .hubReg Reg.PWR_MODE_STATUS.HOLD, .hubReg Reg.PWR_MODE_STATUS.HOLD_COUNT, .hubReg Reg.PWR_RAMP_STAT.BALLAST, .hubReg Reg.PWR_RAMP_STAT.GOVERNED, .hubReg Reg.PWR_RAMP_STAT.LIMIT, .power, .hubFx, .reg Reg.INJ_ARITH.ARM, .reg Reg.INJ_PT.ARM, .reg Reg.INJ_PT.DONE, .ports] : List Part) ++ ([.gateway, .sheaf, .mirror, .tally, .thermal, .rimFx] : List Part)) K) (hF : ∀ f, F f)
    (ho : Only K F P s0 s) : Only K F P s0 (State.injLock s) := by
  unfold State.injLock
  repeat' first | with_reducible assumption | exact Fits.trans (by decide +kernel) hK | exact hF | exact hF _ | with_reducible apply State.injClear_only | with_reducible apply State.hset_only | with_reducible apply State.fxHubEnd_only | with_reducible apply State.updPwr_only | with_reducible apply Only.ite | dsimp only | split | (with_reducible refine Only.foldl _ _ (fun t a ht => ?_) ?_) | (with_reducible refine Only.foldl_fst _ _ _ (fun t a ht => ?_) ?_) | (with_reducible refine Only.fst (by with_reducible assumption) ?_) | (with_reducible refine Only.snd (by with_reducible assumption) ?_)

theorem State.injRefuse_only {K : List Part} {F : FieldId → Prop} {P : PlotId → Prop} {s0 : State} (s : State) (reason : Nat) (hK : Fits ([.events, .hubReg Reg.HUB_INJ_STATUS.RESULT, .hubFx] : List Part) K)
    (ho : Only K F P s0 s) : Only K F P s0 (State.injRefuse s reason) := by
  unfold State.injRefuse
  repeat' first | with_reducible assumption | exact Fits.trans (by decide +kernel) hK | with_reducible apply State.raiseHub_only | with_reducible apply State.updHub_only | with_reducible apply State.hset_only | (refine fun (X : Hub) => ?_) | with_reducible apply HubOnly.setReg | with_reducible exact HubOnly.refl _ _ | with_reducible apply HubOnly.ite | (refine HubOnly.keep rfl (fun k hk => ?_); cases k <;> first | exact trivial | exact rfl | exact ⟨rfl, rfl⟩ | exact ⟨rfl, rfl, rfl⟩ | exact ⟨rfl, rfl, rfl, rfl⟩ | exact (Fits.not hK hk rfl).elim) | with_reducible apply Only.ite | dsimp only | split | (with_reducible refine Only.fst (by with_reducible assumption) ?_) | (with_reducible refine Only.snd (by with_reducible assumption) ?_)

theorem State.injReq_only {K : List Part} {F : FieldId → Prop} {P : PlotId → Prop} {s0 : State} (s : State) (hK : Fits ([.events, .hubReg Reg.HUB_INJ_STATUS.PENDING, .hubReg Reg.HUB_INJ_STATUS.RESULT, .hubFx] : List Part) K)
    (ho : Only K F P s0 s) : Only K F P s0 (State.injReq s) := by
  unfold State.injReq
  repeat' first | with_reducible assumption | exact Fits.trans (by decide +kernel) hK | with_reducible apply State.hset_only | with_reducible apply State.injRefuse_only | with_reducible apply Only.ite | dsimp only | split | (with_reducible refine Only.fst (by with_reducible assumption) ?_) | (with_reducible refine Only.snd (by with_reducible assumption) ?_)

theorem State.injValue_only {K : List Part} {F : FieldId → Prop} {P : PlotId → Prop} {s0 : State} (s : State) (v : Nat) (hK : Fits ([.events, .hubReg Reg.HUB_INJ_STATUS.OPEN, .hubReg Reg.HUB_INJ_STATUS.PENDING, .hubReg Reg.HUB_INJ_STATUS.RESULT, .hubFx, .health] : List Part) K) (hF : ∀ f, F f)
    (ho : Only K F P s0 s) : Only K F P s0 (State.injValue s v) := by
  unfold State.injValue
  repeat' first | with_reducible assumption | exact Fits.trans (by decide +kernel) hK | exact hF | exact hF _ | with_reducible apply State.injRefuse_only | with_reducible apply State.hset_only | with_reducible apply State.updField_only | with_reducible apply State.raiseHub_only | (refine fun (X : Field) => ?_) | with_reducible apply FieldOnly.setReg | with_reducible exact FieldOnly.refl _ _ _ | with_reducible apply FieldOnly.updPlot | with_reducible apply FieldOnly.ite | (refine FieldOnly.keep rfl rfl (fun k hk => ?_); cases k <;> first | exact trivial | exact rfl | exact ⟨rfl, rfl⟩ | exact ⟨rfl, rfl, rfl⟩ | exact (Fits.not hK hk rfl).elim) | with_reducible apply Only.ite | dsimp only | split | (with_reducible refine Only.foldl _ _ (fun t a ht => ?_) ?_) | (with_reducible refine Only.foldl_fst _ _ _ (fun t a ht => ?_) ?_) | (with_reducible refine Only.fst (by with_reducible assumption) ?_) | (with_reducible refine Only.snd (by with_reducible assumption) ?_)

theorem State.injUnlockWrite_only {K : List Part} {F : FieldId → Prop} {P : PlotId → Prop} {s0 : State} (s : State) (value : Nat) (req lock : Bool) (hK : Fits (([.events, .hubReg Reg.HUB_INJ_STATUS.OPEN, .hubReg Reg.HUB_INJ_STATUS.PENDING, .hubReg Reg.HUB_INJ_STATUS.RESULT, .hubReg Reg.INJ_HPT.ARM, .hubReg Reg.INJ_HPT.DONE, .hubReg Reg.PWR_MODE_STATUS.HOLD, .hubReg Reg.PWR_MODE_STATUS.HOLD_COUNT, .hubReg Reg.PWR_RAMP_STAT.BALLAST, .hubReg Reg.PWR_RAMP_STAT.GOVERNED, .hubReg Reg.PWR_RAMP_STAT.LIMIT, .power, .hubFx, .reg Reg.INJ_ARITH.ARM, .reg Reg.INJ_PT.ARM, .reg Reg.INJ_PT.DONE] : List Part) ++ ([.ports, .gateway, .sheaf, .health, .mirror, .tally, .thermal, .rimFx] : List Part)) K) (hF : ∀ f, F f)
    (ho : Only K F P s0 s) : Only K F P s0 (State.injUnlockWrite s value req lock) := by
  unfold State.injUnlockWrite
  repeat' first | with_reducible assumption | exact Fits.trans (by decide +kernel) hK | exact hF | exact hF _ | with_reducible apply State.injLock_only | with_reducible apply State.injReq_only | with_reducible apply State.injValue_only | with_reducible apply Only.ite | dsimp only | split | (with_reducible refine Only.fst (by with_reducible assumption) ?_) | (with_reducible refine Only.snd (by with_reducible assumption) ?_)

theorem execInjReq_only {K : List Part} {F : FieldId → Prop} {P : PlotId → Prop} {s0 : State} (s : State) (hK : Fits ([.events, .hubReg Reg.HUB_INJ_STATUS.PENDING, .hubReg Reg.HUB_INJ_STATUS.RESULT, .hubFx] : List Part) K)
    (ho : Only K F P s0 s) : Ends K F P s0 (execInjReq s) := by
  unfold execInjReq
  repeat' first | with_reducible assumption | exact Fits.trans (by decide +kernel) hK | with_reducible apply State.injReq_only | with_reducible apply Ends.finish | with_reducible apply Ends.next | with_reducible apply Only.ite | with_reducible apply Ends.ite | dsimp only | split | (with_reducible refine Only.fst (by with_reducible assumption) ?_) | (with_reducible refine Only.snd (by with_reducible assumption) ?_)

theorem execInjValue_only {K : List Part} {F : FieldId → Prop} {P : PlotId → Prop} {s0 : State} (value : Nat) (s : State) (hK : Fits ([.events, .hubReg Reg.HUB_INJ_STATUS.OPEN, .hubReg Reg.HUB_INJ_STATUS.PENDING, .hubReg Reg.HUB_INJ_STATUS.RESULT, .hubFx, .health] : List Part) K) (hF : ∀ f, F f)
    (ho : Only K F P s0 s) : Ends K F P s0 (execInjValue value s) := by
  unfold execInjValue
  repeat' first | with_reducible assumption | exact Fits.trans (by decide +kernel) hK | exact hF | exact hF _ | with_reducible apply State.injValue_only | with_reducible apply Ends.finish | with_reducible apply Ends.next | with_reducible apply Only.ite | with_reducible apply Ends.ite | dsimp only | split | (with_reducible refine Only.fst (by with_reducible assumption) ?_) | (with_reducible refine Only.snd (by with_reducible assumption) ?_)

theorem execInjLock_only {K : List Part} {F : FieldId → Prop} {P : PlotId → Prop} {s0 : State} (s : State) (hK : Fits (([.events, .hubReg Reg.HUB_INJ_STATUS.OPEN, .hubReg Reg.HUB_INJ_STATUS.PENDING, .hubReg Reg.INJ_HPT.ARM, .hubReg Reg.INJ_HPT.DONE, .hubReg Reg.PWR_MODE_STATUS.HOLD, .hubReg Reg.PWR_MODE_STATUS.HOLD_COUNT, .hubReg Reg.PWR_RAMP_STAT.BALLAST, .hubReg Reg.PWR_RAMP_STAT.GOVERNED, .hubReg Reg.PWR_RAMP_STAT.LIMIT, .power, .hubFx, .reg Reg.INJ_ARITH.ARM, .reg Reg.INJ_PT.ARM, .reg Reg.INJ_PT.DONE, .ports] : List Part) ++ ([.gateway, .sheaf, .mirror, .tally, .thermal, .rimFx] : List Part)) K) (hF : ∀ f, F f)
    (ho : Only K F P s0 s) : Ends K F P s0 (execInjLock s) := by
  unfold execInjLock
  repeat' first | with_reducible assumption | exact Fits.trans (by decide +kernel) hK | exact hF | exact hF _ | with_reducible apply State.injLock_only | with_reducible apply Ends.finish | with_reducible apply Ends.next | with_reducible apply Only.ite | with_reducible apply Ends.ite | dsimp only | split | (with_reducible refine Only.fst (by with_reducible assumption) ?_) | (with_reducible refine Only.snd (by with_reducible assumption) ?_)

theorem execInjWindowExpiry_only {K : List Part} {F : FieldId → Prop} {P : PlotId → Prop} {s0 : State} (s : State) (hK : Fits ([.hubReg Reg.HUB_INJ_STATUS.PENDING] : List Part) K)
    (ho : Only K F P s0 s) : Ends K F P s0 (execInjWindowExpiry s) := by
  unfold execInjWindowExpiry
  repeat' first | with_reducible assumption | exact Fits.trans (by decide +kernel) hK | with_reducible apply State.hset_only | with_reducible apply Ends.finish | with_reducible apply Ends.next | with_reducible apply Only.ite | with_reducible apply Ends.ite | dsimp only | split | (with_reducible refine Only.fst (by with_reducible assumption) ?_) | (with_reducible refine Only.snd (by with_reducible assumption) ?_)

theorem execInjHoldoffEnd_only {K : List Part} {F : FieldId → Prop} {P : PlotId → Prop} {s0 : State} (s : State) (hK : Fits ([.hubFx] : List Part) K)
    (ho : Only K F P s0 s) : Ends K F P s0 (execInjHoldoffEnd s) := by
  unfold execInjHoldoffEnd
  repeat' first | with_reducible assumption | exact Fits.trans (by decide +kernel) hK | with_reducible apply State.updHub_only | with_reducible apply Ends.finish | with_reducible apply Ends.next | (refine fun (X : Hub) => ?_) | with_reducible apply HubOnly.setReg | with_reducible exact HubOnly.refl _ _ | with_reducible apply HubOnly.ite | (refine HubOnly.keep rfl (fun k hk => ?_); cases k <;> first | exact trivial | exact rfl | exact ⟨rfl, rfl⟩ | exact ⟨rfl, rfl, rfl⟩ | exact ⟨rfl, rfl, rfl, rfl⟩ | exact (Fits.not hK hk rfl).elim) | with_reducible apply Only.ite | with_reducible apply Ends.ite | dsimp only | split | (with_reducible refine Only.fst (by with_reducible assumption) ?_) | (with_reducible refine Only.snd (by with_reducible assumption) ?_)

theorem execInjEffectEnd_only {K : List Part} {F : FieldId → Prop} {P : PlotId → Prop} {s0 : State} (f : Option FieldId) (r : Fin 7) (s : State) (hK : Fits ([.events, .hubReg Reg.INJ_HPT.DONE, .hubReg Reg.PWR_MODE_STATUS.HOLD, .hubReg Reg.PWR_MODE_STATUS.HOLD_COUNT, .hubReg Reg.PWR_RAMP_STAT.BALLAST, .hubReg Reg.PWR_RAMP_STAT.GOVERNED, .hubReg Reg.PWR_RAMP_STAT.LIMIT, .power, .hubFx, .reg Reg.INJ_PT.DONE, .ports, .tally, .thermal, .rimFx] : List Part) K) (hF : ∀ f, F f)
    (ho : Only K F P s0 s) : Ends K F P s0 (execInjEffectEnd f r s) := by
  unfold execInjEffectEnd
  repeat' first | with_reducible assumption | exact Fits.trans (by decide +kernel) hK | exact hF | exact hF _ | with_reducible apply State.fxEnd_only | with_reducible apply State.fxHubEnd_only | with_reducible apply Ends.finish | with_reducible apply Ends.next | with_reducible apply Only.ite | with_reducible apply Ends.ite | dsimp only | split | (with_reducible refine Only.fst (by with_reducible assumption) ?_) | (with_reducible refine Only.snd (by with_reducible assumption) ?_)

theorem State.hbMissed_only {K : List Part} {F : FieldId → Prop} {P : PlotId → Prop} {s0 : State} (s : State) (f : FieldId) (n : Nat) (hK : Fits ([.reg Reg.INJ_ARITH.ARM, .reg Reg.INJ_PT.ARM, .reg Reg.INJ_PT.DONE, .ports, .gateway, .sheaf, .mirror, .tally, .hubLost, .thermal, .rimFx] : List Part) K) (hF : F f)
    (ho : Only K F P s0 s) : Only K F P s0 (State.hbMissed s f n) := by
  unfold State.hbMissed
  repeat' first | with_reducible assumption | exact Fits.trans (by decide +kernel) hK | exact hF | with_reducible apply State.updField_only | with_reducible apply State.injClear_only | (refine fun (X : Field) => ?_) | with_reducible apply FieldOnly.setReg | with_reducible exact FieldOnly.refl _ _ _ | with_reducible apply FieldOnly.updPlot | with_reducible apply FieldOnly.ite | (refine FieldOnly.keep rfl rfl (fun k hk => ?_); cases k <;> first | exact trivial | exact rfl | exact ⟨rfl, rfl⟩ | exact ⟨rfl, rfl, rfl⟩ | exact (Fits.not hK hk rfl).elim) | with_reducible apply Only.ite | dsimp only | split | (with_reducible refine Only.fst (by with_reducible assumption) ?_) | (with_reducible refine Only.snd (by with_reducible assumption) ?_)

theorem State.hbSend_only {K : List Part} {F : FieldId → Prop} {P : PlotId → Prop} {s0 : State} (s : State) (f : FieldId) (hK : Fits ([.reg Reg.INJ_ARITH.ARM, .reg Reg.INJ_PT.ARM, .reg Reg.INJ_PT.DONE, .ports, .gateway, .sheaf, .mirror, .tally, .hubLost, .thermal, .rimFx] : List Part) K) (hF : F f)
    (ho : Only K F P s0 s) : Only K F P s0 (State.hbSend s f) := by
  unfold State.hbSend
  repeat' first | with_reducible assumption | exact Fits.trans (by decide +kernel) hK | exact hF | with_reducible apply State.hbMissed_only | with_reducible apply State.updField_only | (refine fun (X : Field) => ?_) | with_reducible apply FieldOnly.setReg | with_reducible exact FieldOnly.refl _ _ _ | with_reducible apply FieldOnly.updPlot | with_reducible apply FieldOnly.ite | (refine FieldOnly.keep rfl rfl (fun k hk => ?_); cases k <;> first | exact trivial | exact rfl | exact ⟨rfl, rfl⟩ | exact ⟨rfl, rfl, rfl⟩ | exact (Fits.not hK hk rfl).elim) | with_reducible apply Only.ite | dsimp only | split | (with_reducible refine Only.fst (by with_reducible assumption) ?_) | (with_reducible refine Only.snd (by with_reducible assumption) ?_)

theorem execHeartbeat_only {K : List Part} {F : FieldId → Prop} {P : PlotId → Prop} {s0 : State} (s : State) (hK : Fits ([.reg Reg.INJ_ARITH.ARM, .reg Reg.INJ_PT.ARM, .reg Reg.INJ_PT.DONE, .ports, .gateway, .sheaf, .mirror, .tally, .hubLost, .thermal, .rimFx] : List Part) K) (hF : ∀ f, F f)
    (ho : Only K F P s0 s) : Ends K F P s0 (execHeartbeat s) := by
  unfold execHeartbeat
  repeat' first | with_reducible assumption | exact Fits.trans (by decide +kernel) hK | exact hF | exact hF _ | with_reducible apply State.hbSend_only | with_reducible apply Ends.finish | with_reducible apply Ends.next | with_reducible apply Only.ite | with_reducible apply Ends.ite | dsimp only | split | (with_reducible refine Only.foldl _ _ (fun t a ht => ?_) ?_) | (with_reducible refine Only.foldl_fst _ _ _ (fun t a ht => ?_) ?_) | (with_reducible refine Only.fst (by with_reducible assumption) ?_) | (with_reducible refine Only.snd (by with_reducible assumption) ?_)

theorem execHubLostEntry_only {K : List Part} {F : FieldId → Prop} {P : PlotId → Prop} {s0 : State} (f : FieldId) (s : State) (hK : Fits ([.reg Reg.INJ_ARITH.ARM, .reg Reg.INJ_PT.ARM, .reg Reg.INJ_PT.DONE, .ports, .gateway, .sheaf, .mirror, .tally, .hubLost, .thermal, .rimFx] : List Part) K) (hF : F f)
    (ho : Only K F P s0 s) : Ends K F P s0 (execHubLostEntry f s) := by
  unfold execHubLostEntry
  repeat' first | with_reducible assumption | exact Fits.trans (by decide +kernel) hK | exact hF | with_reducible apply Ends.inRim | with_reducible apply State.hbMissed_only | with_reducible apply Ends.finish | with_reducible apply Ends.next | with_reducible apply Only.ite | with_reducible apply Ends.ite | dsimp only | split | (with_reducible refine Only.fst (by with_reducible assumption) ?_) | (with_reducible refine Only.snd (by with_reducible assumption) ?_)

theorem execInjHbmSymbol_only {K : List Part} {F : FieldId → Prop} {P : PlotId → Prop} {s0 : State} (f : FieldId) (target : Fin 256) (arg : Nat) (s : State) (hK : Fits ([.reg Reg.INJ_PT.ARG, .reg Reg.INJ_PT.ARM, .reg Reg.INJ_PT.NOFIRE, .reg Reg.INJ_PT.POINT, .reg Reg.INJ_PT.TARGET] : List Part) K) (hF : F f)
    (ho : Only K F P s0 s) : Ends K F P s0 (execInjHbmSymbol f target arg s) := by
  unfold execInjHbmSymbol
  repeat' first | with_reducible assumption | exact Fits.trans (by decide +kernel) hK | exact hF | with_reducible apply State.injRow_only | with_reducible apply Ends.finish | with_reducible apply Ends.next | with_reducible apply Only.ite | with_reducible apply Ends.ite | dsimp only | split | (with_reducible refine Only.fst (by with_reducible assumption) ?_) | (with_reducible refine Only.snd (by with_reducible assumption) ?_) | (refine fun t a ht => ?_)

theorem execInjHbmDouble_only {K : List Part} {F : FieldId → Prop} {P : PlotId → Prop} {s0 : State} (f : FieldId) (target : Fin 256) (arg : Nat) (s : State) (hK : Fits ([.reg Reg.INJ_PT.ARG, .reg Reg.INJ_PT.ARM, .reg Reg.INJ_PT.NOFIRE, .reg Reg.INJ_PT.POINT, .reg Reg.INJ_PT.TARGET] : List Part) K) (hF : F f)
    (ho : Only K F P s0 s) : Ends K F P s0 (execInjHbmDouble f target arg s) := by
  unfold execInjHbmDouble
  repeat' first | with_reducible assumption | exact Fits.trans (by decide +kernel) hK | exact hF | with_reducible apply State.injRow_only | with_reducible apply Ends.finish | with_reducible apply Ends.next | with_reducible apply Only.ite | with_reducible apply Ends.ite | dsimp only | split | (with_reducible refine Only.fst (by with_reducible assumption) ?_) | (with_reducible refine Only.snd (by with_reducible assumption) ?_) | (refine fun t a ht => ?_)

theorem execInjStackLost_only {K : List Part} {F : FieldId → Prop} {P : PlotId → Prop} {s0 : State} (f : FieldId) (target : Fin 256) (arg : Nat) (s : State) (hK : Fits (([.events, .hubReg Reg.HUB_FIELD_STATE.HBM0_OK, .hubReg Reg.HUB_FIELD_STATE.HBM1_OK, .hubReg Reg.HUB_FIELD_STATE.STATE, .hubReg Reg.MBX_HUB_IN_META.FULL, .hubReg Reg.MBX_HUB_OUT_ACK.CODE, .hubReg Reg.MBX_HUB_OUT_ACK.DONE, .hubReg Reg.MBX_HUB_OUT_META.PENDING, .hubSlots, .store, .bin, .storeErr, .binErr, .reg Reg.INJ_PT.ARG, .reg Reg.INJ_PT.ARM, .reg Reg.INJ_PT.DONE] : List Part) ++ ([.reg Reg.INJ_PT.NOFIRE, .reg Reg.INJ_PT.POINT, .reg Reg.INJ_PT.TARGET, .drill, .dr, .queue, .cq, .tine, .samples, .scrub, .notify, .xlines, .boot, .slot, .anyPlotReg, .memu] : List Part) ++ ([.hard, .gateway, .far (.reg Reg.MBX_RIM_IN_META.FULL), .far (.reg Reg.MBX_RIM_OUT_ACK.CODE), .far (.reg Reg.MBX_RIM_OUT_ACK.DONE), .far (.reg Reg.MBX_RIM_OUT_META.PENDING), .far .slot, .far (.plotReg Reg.MBX_PLOT_IN_META.FULL), .far (.plotReg Reg.MBX_PLOT_OUT_ACK.CODE), .far (.plotReg Reg.MBX_PLOT_OUT_ACK.DONE), .far (.plotReg Reg.MBX_PLOT_OUT_META.PENDING), .far .rimSlots] : List Part)) K) (hF : F f) (hP : ∀ p, P p)
    (ho : Only K F P s0 s) : Ends K F P s0 (execInjStackLost f target arg s) := by
  unfold execInjStackLost
  repeat' first | with_reducible assumption | exact Fits.trans (by decide +kernel) hK | exact hF | exact hP | exact hP _ | with_reducible apply State.injRow_only | with_reducible apply State.beginStackLost_only | with_reducible apply Ends.finish | with_reducible apply Ends.next | with_reducible apply Only.ite | with_reducible apply Ends.ite | dsimp only | split | (with_reducible refine Only.fst (by with_reducible assumption) ?_) | (with_reducible refine Only.snd (by with_reducible assumption) ?_) | exact Fits.anyPlot _ (Fits.trans (by decide +kernel) hK) | (refine fun t a ht => ?_)

theorem execInjStoreSingle_only {K : List Part} {F : FieldId → Prop} {P : PlotId → Prop} {s0 : State} (f : FieldId) (target : Fin 256) (arg : Nat) (s : State) (hK : Fits ([.reg Reg.INJ_PT.ARG, .reg Reg.INJ_PT.ARM, .reg Reg.INJ_PT.NOFIRE, .reg Reg.INJ_PT.POINT, .reg Reg.INJ_PT.TARGET] : List Part) K) (hF : F f)
    (ho : Only K F P s0 s) : Ends K F P s0 (execInjStoreSingle f target arg s) := by
  unfold execInjStoreSingle
  repeat' first | with_reducible assumption | exact Fits.trans (by decide +kernel) hK | exact hF | with_reducible apply State.injRow_only | with_reducible apply Ends.finish | with_reducible apply Ends.next | with_reducible apply Only.ite | with_reducible apply Ends.ite | dsimp only | split | (with_reducible refine Only.fst (by with_reducible assumption) ?_) | (with_reducible refine Only.snd (by with_reducible assumption) ?_) | (refine fun t a ht => ?_)

theorem execInjStoreDouble_only {K : List Part} {F : FieldId → Prop} {P : PlotId → Prop} {s0 : State} (f : FieldId) (target : Fin 256) (arg : Nat) (s : State) (hK : Fits ([.reg Reg.INJ_PT.ARG, .reg Reg.INJ_PT.ARM, .reg Reg.INJ_PT.NOFIRE, .reg Reg.INJ_PT.POINT, .reg Reg.INJ_PT.TARGET] : List Part) K) (hF : F f)
    (ho : Only K F P s0 s) : Ends K F P s0 (execInjStoreDouble f target arg s) := by
  unfold execInjStoreDouble
  repeat' first | with_reducible assumption | exact Fits.trans (by decide +kernel) hK | exact hF | with_reducible apply State.injRow_only | with_reducible apply Ends.finish | with_reducible apply Ends.next | with_reducible apply Only.ite | with_reducible apply Ends.ite | dsimp only | split | (with_reducible refine Only.fst (by with_reducible assumption) ?_) | (with_reducible refine Only.snd (by with_reducible assumption) ?_) | (refine fun t a ht => ?_)

theorem execInjFecSymbols_only {K : List Part} {F : FieldId → Prop} {P : PlotId → Prop} {s0 : State} (f : FieldId) (target : Fin 256) (arg : Nat) (s : State) (hK : Fits ([.reg Reg.INJ_PT.ARG, .reg Reg.INJ_PT.ARM, .reg Reg.INJ_PT.NOFIRE, .reg Reg.INJ_PT.POINT, .reg Reg.INJ_PT.TARGET] : List Part) K) (hF : F f)
    (ho : Only K F P s0 s) : Ends K F P s0 (execInjFecSymbols f target arg s) := by
  unfold execInjFecSymbols
  repeat' first | with_reducible assumption | exact Fits.trans (by decide +kernel) hK | exact hF | with_reducible apply State.injRow_only | with_reducible apply Ends.finish | with_reducible apply Ends.next | with_reducible apply Only.ite | with_reducible apply Ends.ite | dsimp only | split | (with_reducible refine Only.fst (by with_reducible assumption) ?_) | (with_reducible refine Only.snd (by with_reducible assumption) ?_) | (refine fun t a ht => ?_)

theorem execInjFlitCrc_only {K : List Part} {F : FieldId → Prop} {P : PlotId → Prop} {s0 : State} (f : FieldId) (target : Fin 256) (arg : Nat) (s : State) (hK : Fits ([.reg Reg.INJ_PT.ARG, .reg Reg.INJ_PT.ARM, .reg Reg.INJ_PT.NOFIRE, .reg Reg.INJ_PT.POINT, .reg Reg.INJ_PT.TARGET] : List Part) K) (hF : F f)
    (ho : Only K F P s0 s) : Ends K F P s0 (execInjFlitCrc f target arg s) := by
  unfold execInjFlitCrc
  repeat' first | with_reducible assumption | exact Fits.trans (by decide +kernel) hK | exact hF | with_reducible apply State.injRow_only | with_reducible apply Ends.finish | with_reducible apply Ends.next | with_reducible apply Only.ite | with_reducible apply Ends.ite | dsimp only | split | (with_reducible refine Only.fst (by with_reducible assumption) ?_) | (with_reducible refine Only.snd (by with_reducible assumption) ?_) | (refine fun t a ht => ?_)

theorem execInjLaneFail_only {K : List Part} {F : FieldId → Prop} {P : PlotId → Prop} {s0 : State} (f : FieldId) (target : Fin 256) (arg : Nat) (s : State) (hK : Fits (([.events, .out, .reg Reg.INJ_PT.ARG, .reg Reg.INJ_PT.ARM, .reg Reg.INJ_PT.DONE, .reg Reg.INJ_PT.NOFIRE, .reg Reg.INJ_PT.POINT, .reg Reg.INJ_PT.TARGET, .reg Reg.RTE_COMB_STAT.MERGED, .reg Reg.RTE_COMB_STAT.PEAK, .reg Reg.RTE_LINK_CNT.LOST, .reg Reg.RTE_LINK_CNT.NAKS, .reg Reg.RTE_LINK_CNT.REPLAYED, .reg Reg.RTE_LINK_CNT.RETRAINS, .reg Reg.RTE_LINK_CNT.TX_FLITS, .reg Reg.RTE_LINK_CREDIT.RES] : List Part) ++ ([.reg Reg.RTE_LINK_CREDIT.SHARED, .reg Reg.RTE_LINK_STATUS.PRESERVED, .reg Reg.RTE_LINK_STATUS.RESULT, .reg Reg.RTE_LINK_STATUS.STATE, .ports, .router, .health, .tally] : List Part)) K) (hF : F f)
    (ho : Only K F P s0 s) : Ends K F P s0 (execInjLaneFail f target arg s) := by
  unfold execInjLaneFail
  repeat' first | with_reducible assumption | exact Fits.trans (by decide +kernel) hK | exact hF | with_reducible apply State.injRow_only | with_reducible apply State.beginLaneFail_only | with_reducible apply Ends.finish | with_reducible apply Ends.next | with_reducible apply Only.ite | with_reducible apply Ends.ite | dsimp only | split | (with_reducible refine Only.fst (by with_reducible assumption) ?_) | (with_reducible refine Only.snd (by with_reducible assumption) ?_) | (refine fun t a ht => ?_)

theorem execInjRingUnlock_only {K : List Part} {F : FieldId → Prop} {P : PlotId → Prop} {s0 : State} (f : FieldId) (target : Fin 256) (arg : Nat) (s : State) (hK : Fits (([.events, .out, .reg Reg.HDL_CAL_STAT.ABORTED, .reg Reg.HDL_PORT_STATUS.TX_MODE, .reg Reg.INJ_PT.ARG, .reg Reg.INJ_PT.ARM, .reg Reg.INJ_PT.DONE, .reg Reg.INJ_PT.NOFIRE, .reg Reg.INJ_PT.POINT, .reg Reg.INJ_PT.TARGET, .reg Reg.RTE_COMB_STAT.MERGED, .reg Reg.RTE_COMB_STAT.PEAK, .reg Reg.RTE_LINK_CNT.LOST, .reg Reg.RTE_LINK_CNT.NAKS, .reg Reg.RTE_LINK_CNT.REPLAYED, .reg Reg.RTE_LINK_CNT.RETRAINS] : List Part) ++ ([.reg Reg.RTE_LINK_CNT.TX_FLITS, .reg Reg.RTE_LINK_CREDIT.RES, .reg Reg.RTE_LINK_CREDIT.SHARED, .reg Reg.RTE_LINK_STATUS.PRESERVED, .reg Reg.RTE_LINK_STATUS.RESULT, .reg Reg.RTE_LINK_STATUS.STATE, .ports, .router, .health, .tally, .rimFx] : List Part)) K) (hF : F f)
    (ho : Only K F P s0 s) : Ends K F P s0 (execInjRingUnlock f target arg s) := by
  unfold execInjRingUnlock
  repeat' first | with_reducible assumption | exact Fits.trans (by decide +kernel) hK | exact hF | with_reducible apply State.injRow_only | with_reducible apply State.beginRingUnlock_only | with_reducible apply Ends.finish | with_reducible apply Ends.next | with_reducible apply Only.ite | with_reducible apply Ends.ite | dsimp only | split | (with_reducible refine Only.fst (by with_reducible assumption) ?_) | (with_reducible refine Only.snd (by with_reducible assumption) ?_) | (refine fun t a ht => ?_)

theorem execInjRxPower_only {K : List Part} {F : FieldId → Prop} {P : PlotId → Prop} {s0 : State} (f : FieldId) (target : Fin 256) (arg : Nat) (s : State) (hK : Fits ([.reg Reg.INJ_PT.ARG, .reg Reg.INJ_PT.ARM, .reg Reg.INJ_PT.NOFIRE, .reg Reg.INJ_PT.POINT, .reg Reg.INJ_PT.TARGET] : List Part) K) (hF : F f)
    (ho : Only K F P s0 s) : Ends K F P s0 (execInjRxPower f target arg s) := by
  unfold execInjRxPower
  repeat' first | with_reducible assumption | exact Fits.trans (by decide +kernel) hK | exact hF | with_reducible apply State.injRow_only | with_reducible apply Ends.finish | with_reducible apply Ends.next | with_reducible apply Only.ite | with_reducible apply Ends.ite | dsimp only | split | (with_reducible refine Only.fst (by with_reducible assumption) ?_) | (with_reducible refine Only.snd (by with_reducible assumption) ?_) | (refine fun t a ht => ?_)

theorem execInjBeaconId_only {K : List Part} {F : FieldId → Prop} {P : PlotId → Prop} {s0 : State} (f : FieldId) (target : Fin 256) (arg : Nat) (s : State) (hK : Fits ([.reg Reg.INJ_PT.ARG, .reg Reg.INJ_PT.ARM, .reg Reg.INJ_PT.NOFIRE, .reg Reg.INJ_PT.POINT, .reg Reg.INJ_PT.TARGET] : List Part) K) (hF : F f)
    (ho : Only K F P s0 s) : Ends K F P s0 (execInjBeaconId f target arg s) := by
  unfold execInjBeaconId
  repeat' first | with_reducible assumption | exact Fits.trans (by decide +kernel) hK | exact hF | with_reducible apply State.injRow_only | with_reducible apply Ends.finish | with_reducible apply Ends.next | with_reducible apply Only.ite | with_reducible apply Ends.ite | dsimp only | split | (with_reducible refine Only.fst (by with_reducible assumption) ?_) | (with_reducible refine Only.snd (by with_reducible assumption) ?_) | (refine fun t a ht => ?_)

theorem execInjRetrain_only {K : List Part} {F : FieldId → Prop} {P : PlotId → Prop} {s0 : State} (f : FieldId) (target : Fin 256) (arg : Nat) (s : State) (hK : Fits (([.events, .out, .reg Reg.INJ_PT.ARG, .reg Reg.INJ_PT.ARM, .reg Reg.INJ_PT.DONE, .reg Reg.INJ_PT.NOFIRE, .reg Reg.INJ_PT.POINT, .reg Reg.INJ_PT.TARGET, .reg Reg.RTE_COMB_STAT.MERGED, .reg Reg.RTE_COMB_STAT.PEAK, .reg Reg.RTE_LINK_CNT.LOST, .reg Reg.RTE_LINK_CNT.NAKS, .reg Reg.RTE_LINK_CNT.REPLAYED, .reg Reg.RTE_LINK_CNT.RETRAINS, .reg Reg.RTE_LINK_CNT.TX_FLITS, .reg Reg.RTE_LINK_CREDIT.RES] : List Part) ++ ([.reg Reg.RTE_LINK_CREDIT.SHARED, .reg Reg.RTE_LINK_STATUS.PRESERVED, .reg Reg.RTE_LINK_STATUS.RESULT, .reg Reg.RTE_LINK_STATUS.STATE, .ports, .router, .tally] : List Part)) K) (hF : F f)
    (ho : Only K F P s0 s) : Ends K F P s0 (execInjRetrain f target arg s) := by
  unfold execInjRetrain
  repeat' first | with_reducible assumption | exact Fits.trans (by decide +kernel) hK | exact hF | with_reducible apply State.injRow_only | with_reducible apply State.beginRetrain_only | with_reducible apply Ends.finish | with_reducible apply Ends.next | with_reducible apply Only.ite | with_reducible apply Ends.ite | dsimp only | split | (with_reducible refine Only.fst (by with_reducible assumption) ?_) | (with_reducible refine Only.snd (by with_reducible assumption) ?_) | (refine fun t a ht => ?_)

theorem execInjNoAck_only {K : List Part} {F : FieldId → Prop} {P : PlotId → Prop} {s0 : State} (f : FieldId) (target : Fin 256) (arg : Nat) (s : State) (hK : Fits ([.reg Reg.INJ_PT.ARG, .reg Reg.INJ_PT.ARM, .reg Reg.INJ_PT.DONE, .reg Reg.INJ_PT.NOFIRE, .reg Reg.INJ_PT.POINT, .reg Reg.INJ_PT.TARGET, .ports, .tally, .rimFx] : List Part) K) (hF : F f)
    (ho : Only K F P s0 s) : Ends K F P s0 (execInjNoAck f target arg s) := by
  unfold execInjNoAck
  repeat' first | with_reducible assumption | exact Fits.trans (by decide +kernel) hK | exact hF | with_reducible apply State.injRow_only | with_reducible apply State.beginNoAck_only | with_reducible apply Ends.finish | with_reducible apply Ends.next | with_reducible apply Only.ite | with_reducible apply Ends.ite | dsimp only | split | (with_reducible refine Only.fst (by with_reducible assumption) ?_) | (with_reducible refine Only.snd (by with_reducible assumption) ?_) | (refine fun t a ht => ?_)

theorem execInjReqDrop_only {K : List Part} {F : FieldId → Prop} {P : PlotId → Prop} {s0 : State} (f : FieldId) (target : Fin 256) (arg : Nat) (s : State) (hK : Fits ([.reg Reg.INJ_PT.ARG, .reg Reg.INJ_PT.ARM, .reg Reg.INJ_PT.NOFIRE, .reg Reg.INJ_PT.POINT, .reg Reg.INJ_PT.TARGET] : List Part) K) (hF : F f)
    (ho : Only K F P s0 s) : Ends K F P s0 (execInjReqDrop f target arg s) := by
  unfold execInjReqDrop
  repeat' first | with_reducible assumption | exact Fits.trans (by decide +kernel) hK | exact hF | with_reducible apply State.injRow_only | with_reducible apply Ends.finish | with_reducible apply Ends.next | with_reducible apply Only.ite | with_reducible apply Ends.ite | dsimp only | split | (with_reducible refine Only.fst (by with_reducible assumption) ?_) | (with_reducible refine Only.snd (by with_reducible assumption) ?_) | (refine fun t a ht => ?_)

theorem execInjDefer_only {K : List Part} {F : FieldId → Prop} {P : PlotId → Prop} {s0 : State} (f : FieldId) (target : Fin 256) (arg : Nat) (s : State) (hK : Fits ([.reg Reg.INJ_PT.ARG, .reg Reg.INJ_PT.ARM, .reg Reg.INJ_PT.NOFIRE, .reg Reg.INJ_PT.POINT, .reg Reg.INJ_PT.TARGET] : List Part) K) (hF : F f)
    (ho : Only K F P s0 s) : Ends K F P s0 (execInjDefer f target arg s) := by
  unfold execInjDefer
  repeat' first | with_reducible assumption | exact Fits.trans (by decide +kernel) hK | exact hF | with_reducible apply State.injRow_only | with_reducible apply Ends.finish | with_reducible apply Ends.next | with_reducible apply Only.ite | with_reducible apply Ends.ite | dsimp only | split | (with_reducible refine Only.fst (by with_reducible assumption) ?_) | (with_reducible refine Only.snd (by with_reducible assumption) ?_) | (refine fun t a ht => ?_)

theorem execInjRedFull_only {K : List Part} {F : FieldId → Prop} {P : PlotId → Prop} {s0 : State} (f : FieldId) (target : Fin 256) (arg : Nat) (s : State) (hK : Fits ([.reg Reg.INJ_PT.ARG, .reg Reg.INJ_PT.ARM, .reg Reg.INJ_PT.NOFIRE, .reg Reg.INJ_PT.POINT, .reg Reg.INJ_PT.TARGET] : List Part) K) (hF : F f)
    (ho : Only K F P s0 s) : Ends K F P s0 (execInjRedFull f target arg s) := by
  unfold execInjRedFull
  repeat' first | with_reducible assumption | exact Fits.trans (by decide +kernel) hK | exact hF | with_reducible apply State.injRow_only | with_reducible apply Ends.finish | with_reducible apply Ends.next | with_reducible apply Only.ite | with_reducible apply Ends.ite | dsimp only | split | (with_reducible refine Only.fst (by with_reducible assumption) ?_) | (with_reducible refine Only.snd (by with_reducible assumption) ?_) | (refine fun t a ht => ?_)

theorem execInjCombRefuse_only {K : List Part} {F : FieldId → Prop} {P : PlotId → Prop} {s0 : State} (f : FieldId) (target : Fin 256) (arg : Nat) (s : State) (hK : Fits ([.reg Reg.INJ_PT.ARG, .reg Reg.INJ_PT.ARM, .reg Reg.INJ_PT.NOFIRE, .reg Reg.INJ_PT.POINT, .reg Reg.INJ_PT.TARGET] : List Part) K) (hF : F f)
    (ho : Only K F P s0 s) : Ends K F P s0 (execInjCombRefuse f target arg s) := by
  unfold execInjCombRefuse
  repeat' first | with_reducible assumption | exact Fits.trans (by decide +kernel) hK | exact hF | with_reducible apply State.injRow_only | with_reducible apply Ends.finish | with_reducible apply Ends.next | with_reducible apply Only.ite | with_reducible apply Ends.ite | dsimp only | split | (with_reducible refine Only.fst (by with_reducible assumption) ?_) | (with_reducible refine Only.snd (by with_reducible assumption) ?_) | (refine fun t a ht => ?_)

theorem execInjDigest_only {K : List Part} {F : FieldId → Prop} {P : PlotId → Prop} {s0 : State} (f : FieldId) (target : Fin 256) (arg : Nat) (s : State) (hK : Fits ([.reg Reg.INJ_PT.ARG, .reg Reg.INJ_PT.ARM, .reg Reg.INJ_PT.NOFIRE, .reg Reg.INJ_PT.POINT, .reg Reg.INJ_PT.TARGET] : List Part) K) (hF : F f)
    (ho : Only K F P s0 s) : Ends K F P s0 (execInjDigest f target arg s) := by
  unfold execInjDigest
  repeat' first | with_reducible assumption | exact Fits.trans (by decide +kernel) hK | exact hF | with_reducible apply State.injRow_only | with_reducible apply Ends.finish | with_reducible apply Ends.next | with_reducible apply Only.ite | with_reducible apply Ends.ite | dsimp only | split | (with_reducible refine Only.fst (by with_reducible assumption) ?_) | (with_reducible refine Only.snd (by with_reducible assumption) ?_) | (refine fun t a ht => ?_)

theorem execInjSilent_only {K : List Part} {F : FieldId → Prop} {P : PlotId → Prop} {s0 : State} (f : FieldId) (target : Fin 256) (arg : Nat) (s : State) (hK : Fits ([.reg Reg.INJ_PT.ARG, .reg Reg.INJ_PT.ARM, .reg Reg.INJ_PT.NOFIRE, .reg Reg.INJ_PT.POINT, .reg Reg.INJ_PT.TARGET] : List Part) K) (hF : F f)
    (ho : Only K F P s0 s) : Ends K F P s0 (execInjSilent f target arg s) := by
  unfold execInjSilent
  repeat' first | with_reducible assumption | exact Fits.trans (by decide +kernel) hK | exact hF | with_reducible apply State.injRow_only | with_reducible apply Ends.finish | with_reducible apply Ends.next | with_reducible apply Only.ite | with_reducible apply Ends.ite | dsimp only | split | (with_reducible refine Only.fst (by with_reducible assumption) ?_) | (with_reducible refine Only.snd (by with_reducible assumption) ?_) | (refine fun t a ht => ?_)

theorem execInjPieceDrop_only {K : List Part} {F : FieldId → Prop} {P : PlotId → Prop} {s0 : State} (f : FieldId) (target : Fin 256) (arg : Nat) (s : State) (hK : Fits ([.reg Reg.INJ_PT.ARG, .reg Reg.INJ_PT.ARM, .reg Reg.INJ_PT.NOFIRE, .reg Reg.INJ_PT.POINT, .reg Reg.INJ_PT.TARGET] : List Part) K) (hF : F f)
    (ho : Only K F P s0 s) : Ends K F P s0 (execInjPieceDrop f target arg s) := by
  unfold execInjPieceDrop
  repeat' first | with_reducible assumption | exact Fits.trans (by decide +kernel) hK | exact hF | with_reducible apply State.injRow_only | with_reducible apply Ends.finish | with_reducible apply Ends.next | with_reducible apply Only.ite | with_reducible apply Ends.ite | dsimp only | split | (with_reducible refine Only.fst (by with_reducible assumption) ?_) | (with_reducible refine Only.snd (by with_reducible assumption) ?_) | (refine fun t a ht => ?_)

theorem execInjDoneDigest_only {K : List Part} {F : FieldId → Prop} {P : PlotId → Prop} {s0 : State} (f : FieldId) (target : Fin 256) (arg : Nat) (s : State) (hK : Fits ([.reg Reg.INJ_PT.ARG, .reg Reg.INJ_PT.ARM, .reg Reg.INJ_PT.NOFIRE, .reg Reg.INJ_PT.POINT, .reg Reg.INJ_PT.TARGET] : List Part) K) (hF : F f)
    (ho : Only K F P s0 s) : Ends K F P s0 (execInjDoneDigest f target arg s) := by
  unfold execInjDoneDigest
  repeat' first | with_reducible assumption | exact Fits.trans (by decide +kernel) hK | exact hF | with_reducible apply State.injRow_only | with_reducible apply Ends.finish | with_reducible apply Ends.next | with_reducible apply Only.ite | with_reducible apply Ends.ite | dsimp only | split | (with_reducible refine Only.fst (by with_reducible assumption) ?_) | (with_reducible refine Only.snd (by with_reducible assumption) ?_) | (refine fun t a ht => ?_)

theorem execInjPushStall_only {K : List Part} {F : FieldId → Prop} {P : PlotId → Prop} {s0 : State} (f : FieldId) (target : Fin 256) (arg : Nat) (s : State) (hK : Fits ([.reg Reg.INJ_PT.ARG, .reg Reg.INJ_PT.ARM, .reg Reg.INJ_PT.NOFIRE, .reg Reg.INJ_PT.POINT, .reg Reg.INJ_PT.TARGET] : List Part) K) (hF : F f)
    (ho : Only K F P s0 s) : Ends K F P s0 (execInjPushStall f target arg s) := by
  unfold execInjPushStall
  repeat' first | with_reducible assumption | exact Fits.trans (by decide +kernel) hK | exact hF | with_reducible apply State.injRow_only | with_reducible apply Ends.finish | with_reducible apply Ends.next | with_reducible apply Only.ite | with_reducible apply Ends.ite | dsimp only | split | (with_reducible refine Only.fst (by with_reducible assumption) ?_) | (with_reducible refine Only.snd (by with_reducible assumption) ?_) | (refine fun t a ht => ?_)

theorem execInjBufFull_only {K : List Part} {F : FieldId → Prop} {P : PlotId → Prop} {s0 : State} (f : FieldId) (target : Fin 256) (arg : Nat) (s : State) (hK : Fits ([.reg Reg.INJ_PT.ARG, .reg Reg.INJ_PT.ARM, .reg Reg.INJ_PT.NOFIRE, .reg Reg.INJ_PT.POINT, .reg Reg.INJ_PT.TARGET] : List Part) K) (hF : F f)
    (ho : Only K F P s0 s) : Ends K F P s0 (execInjBufFull f target arg s) := by
  unfold execInjBufFull
  repeat' first | with_reducible assumption | exact Fits.trans (by decide +kernel) hK | exact hF | with_reducible apply State.injRow_only | with_reducible apply Ends.finish | with_reducible apply Ends.next | with_reducible apply Only.ite | with_reducible apply Ends.ite | dsimp only | split | (with_reducible refine Only.fst (by with_reducible assumption) ?_) | (with_reducible refine Only.snd (by with_reducible assumption) ?_) | (refine fun t a ht => ?_)

theorem execInjSkip_only {K : List Part} {F : FieldId → Prop} {P : PlotId → Prop} {s0 : State} (f : FieldId) (target : Fin 256) (arg : Nat) (s : State) (hK : Fits ([.reg Reg.INJ_PT.ARG, .reg Reg.INJ_PT.ARM, .reg Reg.INJ_PT.NOFIRE, .reg Reg.INJ_PT.POINT, .reg Reg.INJ_PT.TARGET] : List Part) K) (hF : F f)
    (ho : Only K F P s0 s) : Ends K F P s0 (execInjSkip f target arg s) := by
  unfold execInjSkip
  repeat' first | with_reducible assumption | exact Fits.trans (by decide +kernel) hK | exact hF | with_reducible apply State.injRow_only | with_reducible apply Ends.finish | with_reducible apply Ends.next | with_reducible apply Only.ite | with_reducible apply Ends.ite | dsimp only | split | (with_reducible refine Only.fst (by with_reducible assumption) ?_) | (with_reducible refine Only.snd (by with_reducible assumption) ?_) | (refine fun t a ht => ?_)

theorem execInjOffset_only {K : List Part} {F : FieldId → Prop} {P : PlotId → Prop} {s0 : State} (f : FieldId) (target : Fin 256) (arg : Nat) (s : State) (hK : Fits ([.reg Reg.INJ_PT.ARG, .reg Reg.INJ_PT.ARM, .reg Reg.INJ_PT.NOFIRE, .reg Reg.INJ_PT.POINT, .reg Reg.INJ_PT.TARGET] : List Part) K) (hF : F f)
    (ho : Only K F P s0 s) : Ends K F P s0 (execInjOffset f target arg s) := by
  unfold execInjOffset
  repeat' first | with_reducible assumption | exact Fits.trans (by decide +kernel) hK | exact hF | with_reducible apply State.injRow_only | with_reducible apply Ends.finish | with_reducible apply Ends.next | with_reducible apply Only.ite | with_reducible apply Ends.ite | dsimp only | split | (with_reducible refine Only.fst (by with_reducible assumption) ?_) | (with_reducible refine Only.snd (by with_reducible assumption) ?_) | (refine fun t a ht => ?_)

theorem execInjBeatStop_only {K : List Part} {F : FieldId → Prop} {P : PlotId → Prop} {s0 : State} (f : FieldId) (target : Fin 256) (arg : Nat) (s : State) (hK : Fits ([.reg Reg.INJ_PT.ARG, .reg Reg.INJ_PT.ARM, .reg Reg.INJ_PT.DONE, .reg Reg.INJ_PT.NOFIRE, .reg Reg.INJ_PT.POINT, .reg Reg.INJ_PT.TARGET, .ports, .tally, .rimFx] : List Part) K) (hF : F f)
    (ho : Only K F P s0 s) : Ends K F P s0 (execInjBeatStop f target arg s) := by
  unfold execInjBeatStop
  repeat' first | with_reducible assumption | exact Fits.trans (by decide +kernel) hK | exact hF | with_reducible apply State.injRow_only | with_reducible apply State.beginBeatStop_only | with_reducible apply Ends.finish | with_reducible apply Ends.next | with_reducible apply Only.ite | with_reducible apply Ends.ite | dsimp only | split | (with_reducible refine Only.fst (by with_reducible assumption) ?_) | (with_reducible refine Only.snd (by with_reducible assumption) ?_) | (refine fun t a ht => ?_)

theorem execInjBeaconMute_only {K : List Part} {F : FieldId → Prop} {P : PlotId → Prop} {s0 : State} (f : FieldId) (target : Fin 256) (arg : Nat) (s : State) (hK : Fits ([.reg Reg.INJ_PT.ARG, .reg Reg.INJ_PT.ARM, .reg Reg.INJ_PT.DONE, .reg Reg.INJ_PT.NOFIRE, .reg Reg.INJ_PT.POINT, .reg Reg.INJ_PT.TARGET, .ports, .tally, .rimFx] : List Part) K) (hF : F f)
    (ho : Only K F P s0 s) : Ends K F P s0 (execInjBeaconMute f target arg s) := by
  unfold execInjBeaconMute
  repeat' first | with_reducible assumption | exact Fits.trans (by decide +kernel) hK | exact hF | with_reducible apply State.injRow_only | with_reducible apply State.beginBeaconMute_only | with_reducible apply Ends.finish | with_reducible apply Ends.next | with_reducible apply Only.ite | with_reducible apply Ends.ite | dsimp only | split | (with_reducible refine Only.fst (by with_reducible assumption) ?_) | (with_reducible refine Only.snd (by with_reducible assumption) ?_) | (refine fun t a ht => ?_)

theorem execInjSensorOffset_only {K : List Part} {F : FieldId → Prop} {P : PlotId → Prop} {s0 : State} (f : FieldId) (target : Fin 256) (arg : Nat) (s : State) (hK : Fits ([.reg Reg.INJ_PT.ARG, .reg Reg.INJ_PT.ARM, .reg Reg.INJ_PT.DONE, .reg Reg.INJ_PT.NOFIRE, .reg Reg.INJ_PT.POINT, .reg Reg.INJ_PT.TARGET, .thermal] : List Part) K) (hF : F f)
    (ho : Only K F P s0 s) : Ends K F P s0 (execInjSensorOffset f target arg s) := by
  unfold execInjSensorOffset
  repeat' first | with_reducible assumption | exact Fits.trans (by decide +kernel) hK | exact hF | with_reducible apply State.injRow_only | with_reducible apply State.beginSensor_only | with_reducible apply Ends.finish | with_reducible apply Ends.next | with_reducible apply Only.ite | with_reducible apply Ends.ite | dsimp only | split | (with_reducible refine Only.fst (by with_reducible assumption) ?_) | (with_reducible refine Only.snd (by with_reducible assumption) ?_) | (refine fun t a ht => ?_)

theorem execInjSensorRamp_only {K : List Part} {F : FieldId → Prop} {P : PlotId → Prop} {s0 : State} (f : FieldId) (target : Fin 256) (arg : Nat) (s : State) (hK : Fits ([.reg Reg.INJ_PT.ARG, .reg Reg.INJ_PT.ARM, .reg Reg.INJ_PT.DONE, .reg Reg.INJ_PT.NOFIRE, .reg Reg.INJ_PT.POINT, .reg Reg.INJ_PT.TARGET, .thermal] : List Part) K) (hF : F f)
    (ho : Only K F P s0 s) : Ends K F P s0 (execInjSensorRamp f target arg s) := by
  unfold execInjSensorRamp
  repeat' first | with_reducible assumption | exact Fits.trans (by decide +kernel) hK | exact hF | with_reducible apply State.injRow_only | with_reducible apply State.beginSensor_only | with_reducible apply Ends.finish | with_reducible apply Ends.next | with_reducible apply Only.ite | with_reducible apply Ends.ite | dsimp only | split | (with_reducible refine Only.fst (by with_reducible assumption) ?_) | (with_reducible refine Only.snd (by with_reducible assumption) ?_) | (refine fun t a ht => ?_)

theorem execInjSensorBroken_only {K : List Part} {F : FieldId → Prop} {P : PlotId → Prop} {s0 : State} (f : FieldId) (target : Fin 256) (arg : Nat) (s : State) (hK : Fits ([.events, .reg Reg.INJ_PT.ARG, .reg Reg.INJ_PT.ARM, .reg Reg.INJ_PT.DONE, .reg Reg.INJ_PT.NOFIRE, .reg Reg.INJ_PT.POINT, .reg Reg.INJ_PT.TARGET, .reg Reg.THM_EVT_CNT.SENSORS, .reg Reg.THM_FIELD_STATUS.BROKEN, .health, .thermal] : List Part) K) (hF : F f)
    (ho : Only K F P s0 s) : Ends K F P s0 (execInjSensorBroken f target arg s) := by
  unfold execInjSensorBroken
  repeat' first | with_reducible assumption | exact Fits.trans (by decide +kernel) hK | exact hF | with_reducible apply State.injRow_only | with_reducible apply State.beginSensorBroken_only | with_reducible apply Ends.finish | with_reducible apply Ends.next | with_reducible apply Only.ite | with_reducible apply Ends.ite | dsimp only | split | (with_reducible refine Only.fst (by with_reducible assumption) ?_) | (with_reducible refine Only.snd (by with_reducible assumption) ?_) | (refine fun t a ht => ?_)

theorem execInjPwrWarn_only {K : List Part} {F : FieldId → Prop} {P : PlotId → Prop} {s0 : State} (target : Fin 256) (arg : Nat) (s : State) (hK : Fits ([.events, .hubReg Reg.INJ_HPT.ARG, .hubReg Reg.INJ_HPT.ARM, .hubReg Reg.INJ_HPT.DONE, .hubReg Reg.INJ_HPT.NOFIRE, .hubReg Reg.INJ_HPT.POINT, .hubReg Reg.INJ_HPT.TARGET, .hubReg Reg.PWR_MODE_STATUS.HOLD, .hubReg Reg.PWR_MODE_STATUS.HOLD_COUNT, .hubReg Reg.PWR_RAMP_STAT.BALLAST, .hubReg Reg.PWR_RAMP_STAT.GOVERNED, .hubReg Reg.PWR_RAMP_STAT.LIMIT, .power, .hubFx, .thermal] : List Part) K) (hF : ∀ f, F f)
    (ho : Only K F P s0 s) : Ends K F P s0 (execInjPwrWarn target arg s) := by
  unfold execInjPwrWarn
  repeat' first | with_reducible assumption | exact Fits.trans (by decide +kernel) hK | exact hF | exact hF _ | with_reducible apply State.injHubRow_only | with_reducible apply State.beginPwrWarn_only | with_reducible apply Ends.finish | with_reducible apply Ends.next | with_reducible apply Only.ite | with_reducible apply Ends.ite | dsimp only | split | (with_reducible refine Only.fst (by with_reducible assumption) ?_) | (with_reducible refine Only.snd (by with_reducible assumption) ?_) | (refine fun t a ht => ?_)

theorem execInjPinReading_only {K : List Part} {F : FieldId → Prop} {P : PlotId → Prop} {s0 : State} (target : Fin 256) (arg : Nat) (s : State) (hK : Fits ([.hubReg Reg.INJ_HPT.ARG, .hubReg Reg.INJ_HPT.ARM, .hubReg Reg.INJ_HPT.NOFIRE, .hubReg Reg.INJ_HPT.POINT, .hubReg Reg.INJ_HPT.TARGET] : List Part) K)
    (ho : Only K F P s0 s) : Ends K F P s0 (execInjPinReading target arg s) := by
  unfold execInjPinReading
  repeat' first | with_reducible assumption | exact Fits.trans (by decide +kernel) hK | with_reducible apply State.injHubRow_only | with_reducible apply Ends.finish | with_reducible apply Ends.next | with_reducible apply Only.ite | with_reducible apply Ends.ite | dsimp only | split | (with_reducible refine Only.fst (by with_reducible assumption) ?_) | (with_reducible refine Only.snd (by with_reducible assumption) ?_) | (refine fun t a ht => ?_)

theorem execInjPinBroken_only {K : List Part} {F : FieldId → Prop} {P : PlotId → Prop} {s0 : State} (target : Fin 256) (arg : Nat) (s : State) (hK : Fits ([.hubReg Reg.INJ_HPT.ARG, .hubReg Reg.INJ_HPT.ARM, .hubReg Reg.INJ_HPT.DONE, .hubReg Reg.INJ_HPT.NOFIRE, .hubReg Reg.INJ_HPT.POINT, .hubReg Reg.INJ_HPT.TARGET, .power] : List Part) K)
    (ho : Only K F P s0 s) : Ends K F P s0 (execInjPinBroken target arg s) := by
  unfold execInjPinBroken
  repeat' first | with_reducible assumption | exact Fits.trans (by decide +kernel) hK | with_reducible apply State.injHubRow_only | with_reducible apply State.beginPinBroken_only | with_reducible apply Ends.finish | with_reducible apply Ends.next | with_reducible apply Only.ite | with_reducible apply Ends.ite | dsimp only | split | (with_reducible refine Only.fst (by with_reducible assumption) ?_) | (with_reducible refine Only.snd (by with_reducible assumption) ?_) | (refine fun t a ht => ?_)

theorem execInjHeartbeatStop_only {K : List Part} {F : FieldId → Prop} {P : PlotId → Prop} {s0 : State} (target : Fin 256) (arg : Nat) (s : State) (hK : Fits ([.hubReg Reg.INJ_HPT.ARG, .hubReg Reg.INJ_HPT.ARM, .hubReg Reg.INJ_HPT.DONE, .hubReg Reg.INJ_HPT.NOFIRE, .hubReg Reg.INJ_HPT.POINT, .hubReg Reg.INJ_HPT.TARGET, .hubLost] : List Part) K) (hF : ∀ f, F f)
    (ho : Only K F P s0 s) : Ends K F P s0 (execInjHeartbeatStop target arg s) := by
  unfold execInjHeartbeatStop
  repeat' first | with_reducible assumption | exact Fits.trans (by decide +kernel) hK | exact hF | exact hF _ | with_reducible apply State.injHubRow_only | with_reducible apply State.beginHeartbeatStop_only | with_reducible apply Ends.finish | with_reducible apply Ends.next | with_reducible apply Only.ite | with_reducible apply Ends.ite | dsimp only | split | (with_reducible refine Only.fst (by with_reducible assumption) ?_) | (with_reducible refine Only.snd (by with_reducible assumption) ?_) | (refine fun t a ht => ?_)

theorem execInjHostLaneFail_only {K : List Part} {F : FieldId → Prop} {P : PlotId → Prop} {s0 : State} (target : Fin 256) (arg : Nat) (s : State) (hK : Fits ([.free, .events, .out, .hubReg Reg.HUB_HOST_PHY_STATUS.RECOVERIES, .hubReg Reg.HUB_HOST_PHY_STATUS.STATE, .hubReg Reg.HUB_HOST_PHY_STATUS.WIDTH, .hubReg Reg.INJ_HPT.ARG, .hubReg Reg.INJ_HPT.ARM, .hubReg Reg.INJ_HPT.DONE, .hubReg Reg.INJ_HPT.NOFIRE, .hubReg Reg.INJ_HPT.POINT, .hubReg Reg.INJ_HPT.TARGET, .hostTx, .host] : List Part) K)
    (ho : Only K F P s0 s) : Ends K F P s0 (execInjHostLaneFail target arg s) := by
  unfold execInjHostLaneFail
  repeat' first | with_reducible assumption | exact Fits.trans (by decide +kernel) hK | with_reducible apply State.injHubRow_only | with_reducible apply State.beginHostLaneFail_only | with_reducible apply Ends.finish | with_reducible apply Ends.next | with_reducible apply Only.ite | with_reducible apply Ends.ite | dsimp only | split | (with_reducible refine Only.fst (by with_reducible assumption) ?_) | (with_reducible refine Only.snd (by with_reducible assumption) ?_) | (refine fun t a ht => ?_)

theorem execInjModuleFault_only {K : List Part} {F : FieldId → Prop} {P : PlotId → Prop} {s0 : State} (target : Fin 256) (arg : Nat) (s : State) (hK : Fits ([.hubReg Reg.INJ_HPT.ARG, .hubReg Reg.INJ_HPT.ARM, .hubReg Reg.INJ_HPT.NOFIRE, .hubReg Reg.INJ_HPT.POINT, .hubReg Reg.INJ_HPT.TARGET] : List Part) K)
    (ho : Only K F P s0 s) : Ends K F P s0 (execInjModuleFault target arg s) := by
  unfold execInjModuleFault
  repeat' first | with_reducible assumption | exact Fits.trans (by decide +kernel) hK | with_reducible apply State.injHubRow_only | with_reducible apply Ends.finish | with_reducible apply Ends.next | with_reducible apply Only.ite | with_reducible apply Ends.ite | dsimp only | split | (with_reducible refine Only.fst (by with_reducible assumption) ?_) | (with_reducible refine Only.snd (by with_reducible assumption) ?_) | (refine fun t a ht => ?_)

theorem execInjMargin_only {K : List Part} {F : FieldId → Prop} {P : PlotId → Prop} {s0 : State} (target : Fin 256) (arg : Nat) (s : State) (hK : Fits ([.hubReg Reg.INJ_HPT.ARG, .hubReg Reg.INJ_HPT.ARM, .hubReg Reg.INJ_HPT.NOFIRE, .hubReg Reg.INJ_HPT.POINT, .hubReg Reg.INJ_HPT.TARGET] : List Part) K)
    (ho : Only K F P s0 s) : Ends K F P s0 (execInjMargin target arg s) := by
  unfold execInjMargin
  repeat' first | with_reducible assumption | exact Fits.trans (by decide +kernel) hK | with_reducible apply State.injHubRow_only | with_reducible apply Ends.finish | with_reducible apply Ends.next | with_reducible apply Only.ite | with_reducible apply Ends.ite | dsimp only | split | (with_reducible refine Only.fst (by with_reducible assumption) ?_) | (with_reducible refine Only.snd (by with_reducible assumption) ?_) | (refine fun t a ht => ?_)

theorem execInjInletDrop_only {K : List Part} {F : FieldId → Prop} {P : PlotId → Prop} {s0 : State} (target : Fin 256) (arg : Nat) (s : State) (hK : Fits (([.events, .out, .hubReg Reg.HDL_HOST_ENGINE.DARK, .hubReg Reg.HDL_HOST_ENGINE.INLET_A_OK, .hubReg Reg.HDL_HOST_ENGINE.INLET_B_OK, .hubReg Reg.HDL_HOST_ENGINE.SRC, .hubReg Reg.HDL_HOST_ENGINE.SWITCHING, .hubReg Reg.HDL_MODULE.OUTPUT_ON, .hubReg Reg.HDL_MODULE.PROBE_FAIL, .hubReg Reg.HUB_HOST_PHY_STATUS.STATE, .hubReg Reg.HUB_HOST_PHY_STATUS.WIDTH, .hubReg Reg.INJ_HPT.ARG, .hubReg Reg.INJ_HPT.ARM, .hubReg Reg.INJ_HPT.DONE, .hubReg Reg.INJ_HPT.NOFIRE, .hubReg Reg.INJ_HPT.POINT] : List Part) ++ ([.hubReg Reg.INJ_HPT.TARGET, .light, .host, .reg Reg.HDL_ENGINE_STATUS.DARK, .reg Reg.HDL_ENGINE_STATUS.INLET_A_OK, .reg Reg.HDL_ENGINE_STATUS.INLET_B_OK, .reg Reg.HDL_ENGINE_STATUS.SRC, .reg Reg.HDL_ENGINE_STATUS.SWITCHING, .reg Reg.INJ_PT.ARM, .reg Reg.INJ_PT.DONE, .reg Reg.RTE_COMB_STAT.MERGED, .reg Reg.RTE_COMB_STAT.PEAK, .reg Reg.RTE_LINK_CNT.LOST, .reg Reg.RTE_LINK_CNT.NAKS, .reg Reg.RTE_LINK_CNT.REPLAYED, .reg Reg.RTE_LINK_CNT.TX_FLITS] : List Part) ++ ([.reg Reg.RTE_LINK_CREDIT.RES, .reg Reg.RTE_LINK_CREDIT.SHARED, .reg Reg.RTE_LINK_STATUS.PRESERVED, .reg Reg.RTE_LINK_STATUS.RESULT, .reg Reg.RTE_LINK_STATUS.STATE, .ports, .router, .tally] : List Part)) K) (hF : ∀ f, F f)
    (ho : Only K F P s0 s) : Ends K F P s0 (execInjInletDrop target arg s) := by
  unfold execInjInletDrop
  repeat' first | with_reducible assumption | exact Fits.trans (by decide +kernel) hK | exact hF | exact hF _ | with_reducible apply State.injHubRow_only | with_reducible apply State.beginInletDrop_only | with_reducible apply Ends.finish | with_reducible apply Ends.next | with_reducible apply Only.ite | with_reducible apply Ends.ite | dsimp only | split | (with_reducible refine Only.fst (by with_reducible assumption) ?_) | (with_reducible refine Only.snd (by with_reducible assumption) ?_) | (refine fun t a ht => ?_)

end Sys2Proof.Machine
end

