-- ==== Sys2Proof/Laws/Touch/Mirror.lean ====
section
/-! SUPPORT. What each operation of Machine/Mirror.lean can change: the parts named, and nothing else. -/

namespace Sys2Proof.Machine

set_option Elab.async false

open Sys2Proof

theorem State.takeLine_only {K : List Part} {F : FieldId → Prop} {P : PlotId → Prop} {s0 : State} (s : State) (f : FieldId) (granule c i : Nat) (hK : Fits (([.events, .hbmErr, .reg Reg.INJ_PT.ARM, .reg Reg.INJ_PT.DONE, .reg Reg.MEM_ECC_STAT.CORRECTED, .reg Reg.MEM_ECC_STAT.LAST_ADDR, .reg Reg.MEM_ECC_STAT.UNCORRECTED, .reg Reg.MEM_REPAIR_ENTRY.BANK, .reg Reg.MEM_REPAIR_ENTRY.CHANNEL, .reg Reg.MEM_REPAIR_ENTRY.PCH, .reg Reg.MEM_REPAIR_ENTRY.REASON, .reg Reg.MEM_REPAIR_ENTRY.RESULT, .reg Reg.MEM_REPAIR_ENTRY.ROW, .reg Reg.MEM_REPAIR_ENTRY.STACK, .reg Reg.MEM_REPAIR_ENTRY.VALID, .memu] : List Part) ++ ([.router, .gateway, .health] : List Part)) K) (hF : F f)
    (ho : Only K F P s0 s) : Only K F P s0 (State.takeLine s f granule c i) := by
  unfold State.takeLine
  repeat' first | with_reducible assumption | exact Fits.trans (by decide +kernel) hK | exact hF | with_reducible apply State.rawLineRead_only | with_reducible apply State.gwEnqueue_only | with_reducible apply State.raise_only | with_reducible apply Only.ite | dsimp only | split | (with_reducible refine Only.foldl _ _ (fun t a ht => ?_) ?_) | (with_reducible refine Only.foldl_fst _ _ _ (fun t a ht => ?_) ?_) | (with_reducible refine Only.fst (by with_reducible assumption) ?_) | (with_reducible refine Only.snd (by with_reducible assumption) ?_)

theorem State.planeClear_only {K : List Part} {F : FieldId → Prop} {P : PlotId → Prop} {s0 : State} (s : State) (f : FieldId) (res : Bool) (granule : Nat) (hK : Fits ([.memu] : List Part) K) (hF : F f)
    (ho : Only K F P s0 s) : Only K F P s0 (State.planeClear s f res granule) := by
  unfold State.planeClear
  repeat' first | with_reducible assumption | exact Fits.trans (by decide +kernel) hK | exact hF | with_reducible apply State.updMemu_only | with_reducible apply Only.ite | dsimp only | split | (with_reducible refine Only.fst (by with_reducible assumption) ?_) | (with_reducible refine Only.snd (by with_reducible assumption) ?_)

theorem execGranuleTake_only {K : List Part} {F : FieldId → Prop} {P : PlotId → Prop} {s0 : State} (f : FieldId) (granule : Nat) (s : State) (hK : Fits (([.events, .hbmErr, .reg Reg.INJ_PT.ARM, .reg Reg.INJ_PT.DONE, .reg Reg.MEM_ECC_STAT.CORRECTED, .reg Reg.MEM_ECC_STAT.LAST_ADDR, .reg Reg.MEM_ECC_STAT.UNCORRECTED, .reg Reg.MEM_REPAIR_ENTRY.BANK, .reg Reg.MEM_REPAIR_ENTRY.CHANNEL, .reg Reg.MEM_REPAIR_ENTRY.PCH, .reg Reg.MEM_REPAIR_ENTRY.REASON, .reg Reg.MEM_REPAIR_ENTRY.RESULT, .reg Reg.MEM_REPAIR_ENTRY.ROW, .reg Reg.MEM_REPAIR_ENTRY.STACK, .reg Reg.MEM_REPAIR_ENTRY.VALID, .memu] : List Part) ++ ([.router, .gateway, .health] : List Part)) K) (hF : F f)
    (ho : Only K F P s0 s) : Ends K F P s0 (execGranuleTake f granule s) := by
  unfold execGranuleTake
  repeat' first | with_reducible assumption | exact Fits.trans (by decide +kernel) hK | exact hF | with_reducible apply Ends.inRim | with_reducible apply State.planeClear_only | with_reducible apply State.takeLine_only | with_reducible apply Ends.finish | with_reducible apply Ends.next | with_reducible apply Only.ite | with_reducible apply Ends.ite | dsimp only | split | (with_reducible refine Only.foldl _ _ (fun t a ht => ?_) ?_) | (with_reducible refine Only.foldl_fst _ _ _ (fun t a ht => ?_) ?_) | (with_reducible refine Only.fst (by with_reducible assumption) ?_) | (with_reducible refine Only.snd (by with_reducible assumption) ?_)

theorem State.mirCommit_only {K : List Part} {F : FieldId → Prop} {P : PlotId → Prop} {s0 : State} (s : State) (f : FieldId) (hK : Fits ([.reg Reg.INJ_PT.ARM, .reg Reg.INJ_PT.DONE, .reg Reg.RTE_VC_CTL.COMMIT_DUE, .router, .gateway, .mirror] : List Part) K) (hF : F f)
    (ho : Only K F P s0 s) : Only K F P s0 (State.mirCommit s f) := by
  unfold State.mirCommit
  repeat' first | with_reducible assumption | exact Fits.trans (by decide +kernel) hK | exact hF | with_reducible apply State.mirMarkSend_only | with_reducible apply State.fset_only | with_reducible apply State.updMirSrc_only | with_reducible apply Only.ite | dsimp only | split | (with_reducible refine Only.foldl _ _ (fun t a ht => ?_) ?_) | (with_reducible refine Only.foldl_fst _ _ _ (fun t a ht => ?_) ?_) | (with_reducible refine Only.fst (by with_reducible assumption) ?_) | (with_reducible refine Only.snd (by with_reducible assumption) ?_)

theorem execMirMarkSend_only {K : List Part} {F : FieldId → Prop} {P : PlotId → Prop} {s0 : State} (f : FieldId) (s : State) (hK : Fits ([.reg Reg.INJ_PT.ARM, .reg Reg.INJ_PT.DONE, .reg Reg.RTE_VC_CTL.COMMIT_DUE, .router, .gateway, .mirror] : List Part) K) (hF : F f)
    (ho : Only K F P s0 s) : Ends K F P s0 (execMirMarkSend f s) := by
  unfold execMirMarkSend
  repeat' first | with_reducible assumption | exact Fits.trans (by decide +kernel) hK | exact hF | with_reducible apply Ends.inRim | with_reducible apply State.mirCommit_only | with_reducible apply Ends.finish | with_reducible apply Ends.next | with_reducible apply Only.ite | with_reducible apply Ends.ite | dsimp only | split | (with_reducible refine Only.fst (by with_reducible assumption) ?_) | (with_reducible refine Only.snd (by with_reducible assumption) ?_)

theorem execMirMark_only {K : List Part} {F : FieldId → Prop} {P : PlotId → Prop} {s0 : State} (f : FieldId) (pkt : Packet) (s : State) (hK : Fits (([.free, .events, .hbm, .store, .hbmErr, .storeErr, .reg Reg.GWY_RED_STATUS.DEFERS, .reg Reg.GWY_STAT.ABSORBED, .reg Reg.GWY_STAT.DEFERS_SENT, .reg Reg.INJ_PT.ARM, .reg Reg.INJ_PT.DONE, .reg Reg.MEM_ECC_STAT.CORRECTED, .reg Reg.MEM_ECC_STAT.LAST_ADDR, .reg Reg.MEM_ECC_STAT.POISON_WRITES, .reg Reg.MEM_ECC_STAT.UNCORRECTED, .reg Reg.MEM_REPAIR_ENTRY.BANK] : List Part) ++ ([.reg Reg.MEM_REPAIR_ENTRY.CHANNEL, .reg Reg.MEM_REPAIR_ENTRY.PCH, .reg Reg.MEM_REPAIR_ENTRY.REASON, .reg Reg.MEM_REPAIR_ENTRY.RESULT, .reg Reg.MEM_REPAIR_ENTRY.ROW, .reg Reg.MEM_REPAIR_ENTRY.STACK, .reg Reg.MEM_REPAIR_ENTRY.VALID, .reg Reg.MIR_LOAD_STATUS.DIGEST, .reg Reg.MIR_LOAD_STATUS.GRANULES, .reg Reg.MIR_LOAD_STATUS.RESULT, .reg Reg.MIR_LOAD_STATUS.STATE, .reg Reg.MIR_LOAD_STATUS.USING_SRC1, .reg Reg.MIR_PART.ENABLE, .reg Reg.MIR_PART_STATUS.BUF_USED, .reg Reg.MIR_PART_STATUS.COMMITTED, .reg Reg.MIR_PART_STATUS.DIGEST] : List Part) ++ ([.reg Reg.MIR_PART_STATUS.RESULT, .reg Reg.MIR_PART_STATUS.STATE, .reg Reg.MIR_PART_STATUS.VALID, .reg Reg.MIR_SRC_STATUS.ACKED0, .reg Reg.MIR_SRC_STATUS.ACKED1, .reg Reg.MIR_SRC_STATUS.BREAKS, .reg Reg.MIR_SRC_STATUS.STATE, .reg Reg.RTE_DROP_CNT.FOREIGN, .reg Reg.RTE_DROP_CNT.MCAST_DROP, .plotReg Reg.PLT_STORE_ECC.CORRECTED, .plotReg Reg.PLT_STORE_ECC.LAST_ADDR, .plotReg Reg.PLT_STORE_ECC.UNCORRECTED, .memu, .lastRaise, .router, .gateway] : List Part) ++ ([.health, .mirror] : List Part)) K) (hF : F f) (hP : ∀ p, P p)
    (ho : Only K F P s0 s) : Ends K F P s0 (execMirMark f pkt s) := by
  unfold execMirMark
  repeat' first | with_reducible assumption | exact Fits.trans (by decide +kernel) hK | exact hF | exact hP | exact hP _ | with_reducible apply Ends.inRim | with_reducible apply State.orderedRow_only | with_reducible apply Ends.finish | with_reducible apply Ends.next | with_reducible apply Only.ite | with_reducible apply Ends.ite | dsimp only | split | (with_reducible refine Only.fst (by with_reducible assumption) ?_) | (with_reducible refine Only.snd (by with_reducible assumption) ?_)

theorem execMirLayout_only {K : List Part} {F : FieldId → Prop} {P : PlotId → Prop} {s0 : State} (f : FieldId) (pkt : Packet) (s : State) (hK : Fits (([.free, .events, .hbm, .store, .hbmErr, .storeErr, .reg Reg.GWY_RED_STATUS.DEFERS, .reg Reg.GWY_STAT.ABSORBED, .reg Reg.GWY_STAT.DEFERS_SENT, .reg Reg.INJ_PT.ARM, .reg Reg.INJ_PT.DONE, .reg Reg.MEM_ECC_STAT.CORRECTED, .reg Reg.MEM_ECC_STAT.LAST_ADDR, .reg Reg.MEM_ECC_STAT.POISON_WRITES, .reg Reg.MEM_ECC_STAT.UNCORRECTED, .reg Reg.MEM_REPAIR_ENTRY.BANK] : List Part) ++ ([.reg Reg.MEM_REPAIR_ENTRY.CHANNEL, .reg Reg.MEM_REPAIR_ENTRY.PCH, .reg Reg.MEM_REPAIR_ENTRY.REASON, .reg Reg.MEM_REPAIR_ENTRY.RESULT, .reg Reg.MEM_REPAIR_ENTRY.ROW, .reg Reg.MEM_REPAIR_ENTRY.STACK, .reg Reg.MEM_REPAIR_ENTRY.VALID, .reg Reg.MIR_LOAD_STATUS.DIGEST, .reg Reg.MIR_LOAD_STATUS.GRANULES, .reg Reg.MIR_LOAD_STATUS.RESULT, .reg Reg.MIR_LOAD_STATUS.STATE, .reg Reg.MIR_LOAD_STATUS.USING_SRC1, .reg Reg.MIR_PART.ENABLE, .reg Reg.MIR_PART_STATUS.BUF_USED, .reg Reg.MIR_PART_STATUS.COMMITTED, .reg Reg.MIR_PART_STATUS.DIGEST] : List Part) ++ ([.reg Reg.MIR_PART_STATUS.RESULT, .reg Reg.MIR_PART_STATUS.STATE, .reg Reg.MIR_PART_STATUS.VALID, .reg Reg.MIR_SRC_STATUS.ACKED0, .reg Reg.MIR_SRC_STATUS.ACKED1, .reg Reg.MIR_SRC_STATUS.BREAKS, .reg Reg.MIR_SRC_STATUS.STATE, .reg Reg.RTE_DROP_CNT.FOREIGN, .reg Reg.RTE_DROP_CNT.MCAST_DROP, .plotReg Reg.PLT_STORE_ECC.CORRECTED, .plotReg Reg.PLT_STORE_ECC.LAST_ADDR, .plotReg Reg.PLT_STORE_ECC.UNCORRECTED, .memu, .lastRaise, .router, .gateway] : List Part) ++ ([.health, .mirror] : List Part)) K) (hF : F f) (hP : ∀ p, P p)
    (ho : Only K F P s0 s) : Ends K F P s0 (execMirLayout f pkt s) := by
  unfold execMirLayout
  repeat' first | with_reducible assumption | exact Fits.trans (by decide +kernel) hK | exact hF | exact hP | exact hP _ | with_reducible apply Ends.inRim | with_reducible apply State.orderedRow_only | with_reducible apply Ends.finish | with_reducible apply Ends.next | with_reducible apply Only.ite | with_reducible apply Ends.ite | dsimp only | split | (with_reducible refine Only.fst (by with_reducible assumption) ?_) | (with_reducible refine Only.snd (by with_reducible assumption) ?_)

theorem execMirPull_only {K : List Part} {F : FieldId → Prop} {P : PlotId → Prop} {s0 : State} (f : FieldId) (pkt : Packet) (s : State) (hK : Fits (([.free, .events, .hbm, .store, .hbmErr, .storeErr, .reg Reg.GWY_RED_STATUS.DEFERS, .reg Reg.GWY_STAT.ABSORBED, .reg Reg.GWY_STAT.DEFERS_SENT, .reg Reg.INJ_PT.ARM, .reg Reg.INJ_PT.DONE, .reg Reg.MEM_ECC_STAT.CORRECTED, .reg Reg.MEM_ECC_STAT.LAST_ADDR, .reg Reg.MEM_ECC_STAT.POISON_WRITES, .reg Reg.MEM_ECC_STAT.UNCORRECTED, .reg Reg.MEM_REPAIR_ENTRY.BANK] : List Part) ++ ([.reg Reg.MEM_REPAIR_ENTRY.CHANNEL, .reg Reg.MEM_REPAIR_ENTRY.PCH, .reg Reg.MEM_REPAIR_ENTRY.REASON, .reg Reg.MEM_REPAIR_ENTRY.RESULT, .reg Reg.MEM_REPAIR_ENTRY.ROW, .reg Reg.MEM_REPAIR_ENTRY.STACK, .reg Reg.MEM_REPAIR_ENTRY.VALID, .reg Reg.MIR_LOAD_STATUS.DIGEST, .reg Reg.MIR_LOAD_STATUS.GRANULES, .reg Reg.MIR_LOAD_STATUS.RESULT, .reg Reg.MIR_LOAD_STATUS.STATE, .reg Reg.MIR_LOAD_STATUS.USING_SRC1, .reg Reg.MIR_PART.ENABLE, .reg Reg.MIR_PART_STATUS.BUF_USED, .reg Reg.MIR_PART_STATUS.COMMITTED, .reg Reg.MIR_PART_STATUS.DIGEST] : List Part) ++ ([.reg Reg.MIR_PART_STATUS.RESULT, .reg Reg.MIR_PART_STATUS.STATE, .reg Reg.MIR_PART_STATUS.VALID, .reg Reg.MIR_SRC_STATUS.ACKED0, .reg Reg.MIR_SRC_STATUS.ACKED1, .reg Reg.MIR_SRC_STATUS.BREAKS, .reg Reg.MIR_SRC_STATUS.STATE, .reg Reg.RTE_DROP_CNT.FOREIGN, .reg Reg.RTE_DROP_CNT.MCAST_DROP, .plotReg Reg.PLT_STORE_ECC.CORRECTED, .plotReg Reg.PLT_STORE_ECC.LAST_ADDR, .plotReg Reg.PLT_STORE_ECC.UNCORRECTED, .memu, .lastRaise, .router, .gateway] : List Part) ++ ([.health, .mirror] : List Part)) K) (hF : F f) (hP : ∀ p, P p)
    (ho : Only K F P s0 s) : Ends K F P s0 (execMirPull f pkt s) := by
  unfold execMirPull
  repeat' first | with_reducible assumption | exact Fits.trans (by decide +kernel) hK | exact hF | exact hP | exact hP _ | with_reducible apply Ends.inRim | with_reducible apply State.orderedRow_only | with_reducible apply Ends.finish | with_reducible apply Ends.next | with_reducible apply Only.ite | with_reducible apply Ends.ite | dsimp only | split | (with_reducible refine Only.fst (by with_reducible assumption) ?_) | (with_reducible refine Only.snd (by with_reducible assumption) ?_)

theorem execMirDone_only {K : List Part} {F : FieldId → Prop} {P : PlotId → Prop} {s0 : State} (f : FieldId) (pkt : Packet) (s : State) (hK : Fits (([.free, .events, .hbm, .store, .hbmErr, .storeErr, .reg Reg.GWY_RED_STATUS.DEFERS, .reg Reg.GWY_STAT.ABSORBED, .reg Reg.GWY_STAT.DEFERS_SENT, .reg Reg.INJ_PT.ARM, .reg Reg.INJ_PT.DONE, .reg Reg.MEM_ECC_STAT.CORRECTED, .reg Reg.MEM_ECC_STAT.LAST_ADDR, .reg Reg.MEM_ECC_STAT.POISON_WRITES, .reg Reg.MEM_ECC_STAT.UNCORRECTED, .reg Reg.MEM_REPAIR_ENTRY.BANK] : List Part) ++ ([.reg Reg.MEM_REPAIR_ENTRY.CHANNEL, .reg Reg.MEM_REPAIR_ENTRY.PCH, .reg Reg.MEM_REPAIR_ENTRY.REASON, .reg Reg.MEM_REPAIR_ENTRY.RESULT, .reg Reg.MEM_REPAIR_ENTRY.ROW, .reg Reg.MEM_REPAIR_ENTRY.STACK, .reg Reg.MEM_REPAIR_ENTRY.VALID, .reg Reg.MIR_LOAD_STATUS.DIGEST, .reg Reg.MIR_LOAD_STATUS.GRANULES, .reg Reg.MIR_LOAD_STATUS.RESULT, .reg Reg.MIR_LOAD_STATUS.STATE, .reg Reg.MIR_LOAD_STATUS.USING_SRC1, .reg Reg.MIR_PART.ENABLE, .reg Reg.MIR_PART_STATUS.BUF_USED, .reg Reg.MIR_PART_STATUS.COMMITTED, .reg Reg.MIR_PART_STATUS.DIGEST] : List Part) ++ ([.reg Reg.MIR_PART_STATUS.RESULT, .reg Reg.MIR_PART_STATUS.STATE, .reg Reg.MIR_PART_STATUS.VALID, .reg Reg.MIR_SRC_STATUS.ACKED0, .reg Reg.MIR_SRC_STATUS.ACKED1, .reg Reg.MIR_SRC_STATUS.BREAKS, .reg Reg.MIR_SRC_STATUS.STATE, .reg Reg.RTE_DROP_CNT.FOREIGN, .reg Reg.RTE_DROP_CNT.MCAST_DROP, .plotReg Reg.PLT_STORE_ECC.CORRECTED, .plotReg Reg.PLT_STORE_ECC.LAST_ADDR, .plotReg Reg.PLT_STORE_ECC.UNCORRECTED, .memu, .lastRaise, .router, .gateway] : List Part) ++ ([.health, .mirror] : List Part)) K) (hF : F f) (hP : ∀ p, P p)
    (ho : Only K F P s0 s) : Ends K F P s0 (execMirDone f pkt s) := by
  unfold execMirDone
  repeat' first | with_reducible assumption | exact Fits.trans (by decide +kernel) hK | exact hF | exact hP | exact hP _ | with_reducible apply Ends.inRim | with_reducible apply State.orderedRow_only | with_reducible apply Ends.finish | with_reducible apply Ends.next | with_reducible apply Only.ite | with_reducible apply Ends.ite | dsimp only | split | (with_reducible refine Only.fst (by with_reducible assumption) ?_) | (with_reducible refine Only.snd (by with_reducible assumption) ?_)

theorem execMirPartnerTimeout_only {K : List Part} {F : FieldId → Prop} {P : PlotId → Prop} {s0 : State} (f : FieldId) (n : Fin 2) (s : State) (hK : Fits ([.reg Reg.MIR_SRC_STATUS.STATE, .mirror] : List Part) K) (hF : F f)
    (ho : Only K F P s0 s) : Ends K F P s0 (execMirPartnerTimeout f n s) := by
  unfold execMirPartnerTimeout
  repeat' first | with_reducible assumption | exact Fits.trans (by decide +kernel) hK | exact hF | with_reducible apply Ends.inRim | with_reducible apply State.fset_only | with_reducible apply State.updMirSrc_only | with_reducible apply Ends.finish | with_reducible apply Ends.next | with_reducible apply Only.ite | with_reducible apply Ends.ite | dsimp only | split | (with_reducible refine Only.fst (by with_reducible assumption) ?_) | (with_reducible refine Only.snd (by with_reducible assumption) ?_)

theorem execMirLayoutRetry_only {K : List Part} {F : FieldId → Prop} {P : PlotId → Prop} {s0 : State} (f : FieldId) (n : Fin 2) (s : State) (hK : Fits (([.events, .reg Reg.INJ_PT.ARM, .reg Reg.INJ_PT.DONE, .reg Reg.MIR_LOAD_STATUS.DIGEST, .reg Reg.MIR_LOAD_STATUS.GRANULES, .reg Reg.MIR_LOAD_STATUS.RESULT, .reg Reg.MIR_LOAD_STATUS.STATE, .reg Reg.MIR_LOAD_STATUS.USING_SRC1, .reg Reg.MIR_PART.ENABLE, .reg Reg.MIR_PART_STATUS.RESULT, .reg Reg.MIR_PART_STATUS.STATE, .reg Reg.MIR_SRC_STATUS.ACKED0, .reg Reg.MIR_SRC_STATUS.ACKED1, .reg Reg.MIR_SRC_STATUS.BREAKS, .reg Reg.MIR_SRC_STATUS.STATE, .memu] : List Part) ++ ([.router, .gateway, .mirror] : List Part)) K) (hF : F f)
    (ho : Only K F P s0 s) : Ends K F P s0 (execMirLayoutRetry f n s) := by
  unfold execMirLayoutRetry
  repeat' first | with_reducible assumption | exact Fits.trans (by decide +kernel) hK | exact hF | with_reducible apply Ends.inRim | with_reducible apply State.mirSettle_only | with_reducible apply State.mirLayoutSend_only | with_reducible apply Ends.finish | with_reducible apply Ends.next | with_reducible apply Only.ite | with_reducible apply Ends.ite | dsimp only | split | (with_reducible refine Only.fst (by with_reducible assumption) ?_) | (with_reducible refine Only.snd (by with_reducible assumption) ?_)

theorem State.pushLine_only {K : List Part} {F : FieldId → Prop} {P : PlotId → Prop} {s0 : State} (s : State) (f : FieldId) (n c granule dst i : Nat) (hK : Fits (([.events, .hbmErr, .reg Reg.INJ_PT.ARM, .reg Reg.INJ_PT.DONE, .reg Reg.MEM_ECC_STAT.CORRECTED, .reg Reg.MEM_ECC_STAT.LAST_ADDR, .reg Reg.MEM_ECC_STAT.UNCORRECTED, .reg Reg.MEM_REPAIR_ENTRY.BANK, .reg Reg.MEM_REPAIR_ENTRY.CHANNEL, .reg Reg.MEM_REPAIR_ENTRY.PCH, .reg Reg.MEM_REPAIR_ENTRY.REASON, .reg Reg.MEM_REPAIR_ENTRY.RESULT, .reg Reg.MEM_REPAIR_ENTRY.ROW, .reg Reg.MEM_REPAIR_ENTRY.STACK, .reg Reg.MEM_REPAIR_ENTRY.VALID, .memu] : List Part) ++ ([.router, .gateway, .health] : List Part)) K) (hF : F f)
    (ho : Only K F P s0 s) : Only K F P s0 (State.pushLine s f n c granule dst i) := by
  unfold State.pushLine
  repeat' first | with_reducible assumption | exact Fits.trans (by decide +kernel) hK | exact hF | with_reducible apply State.lineRead_only | with_reducible apply State.gwAccept_only | with_reducible apply Only.ite | dsimp only | split | (with_reducible refine Only.fst (by with_reducible assumption) ?_) | (with_reducible refine Only.snd (by with_reducible assumption) ?_)

theorem State.pushDone_only {K : List Part} {F : FieldId → Prop} {P : PlotId → Prop} {s0 : State} (s : State) (f : FieldId) (n : Nat) (x : MirPush) (hK : Fits ([.reg Reg.INJ_PT.ARM, .reg Reg.INJ_PT.DONE, .reg Reg.MIR_PART.ENABLE, .reg Reg.MIR_PART_STATUS.RESULT, .reg Reg.MIR_PART_STATUS.STATE, .router, .gateway, .mirror] : List Part) K) (hF : F f)
    (ho : Only K F P s0 s) : Only K F P s0 (State.pushDone s f n x) := by
  unfold State.pushDone
  repeat' first | with_reducible assumption | exact Fits.trans (by decide +kernel) hK | exact hF | with_reducible apply State.gwAccept_only | with_reducible apply State.injFire_only | with_reducible apply State.pushEnd_only | with_reducible apply Only.ite | dsimp only | split | (with_reducible refine Only.fst (by with_reducible assumption) ?_) | (with_reducible refine Only.snd (by with_reducible assumption) ?_)

theorem execMirPush_only {K : List Part} {F : FieldId → Prop} {P : PlotId → Prop} {s0 : State} (f : FieldId) (n : Fin 2) (s : State) (hK : Fits (([.events, .hbmErr, .reg Reg.INJ_PT.ARM, .reg Reg.INJ_PT.DONE, .reg Reg.MEM_ECC_STAT.CORRECTED, .reg Reg.MEM_ECC_STAT.LAST_ADDR, .reg Reg.MEM_ECC_STAT.UNCORRECTED, .reg Reg.MEM_REPAIR_ENTRY.BANK, .reg Reg.MEM_REPAIR_ENTRY.CHANNEL, .reg Reg.MEM_REPAIR_ENTRY.PCH, .reg Reg.MEM_REPAIR_ENTRY.REASON, .reg Reg.MEM_REPAIR_ENTRY.RESULT, .reg Reg.MEM_REPAIR_ENTRY.ROW, .reg Reg.MEM_REPAIR_ENTRY.STACK, .reg Reg.MEM_REPAIR_ENTRY.VALID, .reg Reg.MIR_LOAD_STATUS.DIGEST] : List Part) ++ ([.reg Reg.MIR_LOAD_STATUS.GRANULES, .reg Reg.MIR_LOAD_STATUS.RESULT, .reg Reg.MIR_LOAD_STATUS.STATE, .reg Reg.MIR_LOAD_STATUS.USING_SRC1, .reg Reg.MIR_PART.ENABLE, .reg Reg.MIR_PART_STATUS.RESULT, .reg Reg.MIR_PART_STATUS.STATE, .reg Reg.MIR_SRC_STATUS.ACKED0, .reg Reg.MIR_SRC_STATUS.ACKED1, .reg Reg.MIR_SRC_STATUS.BREAKS, .reg Reg.MIR_SRC_STATUS.STATE, .memu, .router, .gateway, .health, .mirror] : List Part)) K) (hF : F f)
    (ho : Only K F P s0 s) : Ends K F P s0 (execMirPush f n s) := by
  unfold execMirPush
  repeat' first | with_reducible assumption | exact Fits.trans (by decide +kernel) hK | exact hF | with_reducible apply Ends.inRim | with_reducible apply State.updSlot_only | with_reducible apply State.injFire_only | with_reducible apply State.mirSettle_only | with_reducible apply State.pushDone_only | with_reducible apply State.pushLine_only | with_reducible apply Ends.finish | with_reducible apply Ends.next | with_reducible apply Only.ite | with_reducible apply Ends.ite | dsimp only | split | (with_reducible refine Only.foldl _ _ (fun t a ht => ?_) ?_) | (with_reducible refine Only.foldl_fst _ _ _ (fun t a ht => ?_) ?_) | (with_reducible refine Only.fst (by with_reducible assumption) ?_) | (with_reducible refine Only.snd (by with_reducible assumption) ?_)

theorem State.loadStart_only {K : List Part} {F : FieldId → Prop} {P : PlotId → Prop} {s0 : State} (s : State) (f : FieldId) (hK : Fits ([.reg Reg.INJ_PT.ARM, .reg Reg.INJ_PT.DONE, .reg Reg.MIR_LOAD_STATUS.DIGEST, .reg Reg.MIR_LOAD_STATUS.EPOCH, .reg Reg.MIR_LOAD_STATUS.GRANULES, .reg Reg.MIR_LOAD_STATUS.RESULT, .reg Reg.MIR_LOAD_STATUS.STATE, .reg Reg.MIR_LOAD_STATUS.USING_SRC1, .router, .gateway, .mirror] : List Part) K) (hF : F f)
    (ho : Only K F P s0 s) : Only K F P s0 (State.loadStart s f) := by
  unfold State.loadStart
  repeat' first | with_reducible assumption | exact Fits.trans (by decide +kernel) hK | exact hF | with_reducible apply State.fset_only | with_reducible apply State.loadPull_only | with_reducible apply Only.ite | dsimp only | split | (with_reducible refine Only.fst (by with_reducible assumption) ?_) | (with_reducible refine Only.snd (by with_reducible assumption) ?_)

theorem State.loadAbort_only {K : List Part} {F : FieldId → Prop} {P : PlotId → Prop} {s0 : State} (s : State) (f : FieldId) (hK : Fits ([.events, .reg Reg.MIR_LOAD_STATUS.RESULT, .reg Reg.MIR_LOAD_STATUS.STATE] : List Part) K) (hF : F f)
    (ho : Only K F P s0 s) : Only K F P s0 (State.loadAbort s f) := by
  unfold State.loadAbort
  repeat' first | with_reducible assumption | exact Fits.trans (by decide +kernel) hK | exact hF | with_reducible apply State.loadEnd_only | with_reducible apply Only.ite | dsimp only | split | (with_reducible refine Only.fst (by with_reducible assumption) ?_) | (with_reducible refine Only.snd (by with_reducible assumption) ?_)

theorem execMirLoadStart_only {K : List Part} {F : FieldId → Prop} {P : PlotId → Prop} {s0 : State} (f : FieldId) (s : State) (hK : Fits (([.events, .reg Reg.INJ_PT.ARM, .reg Reg.INJ_PT.DONE, .reg Reg.MIR_LOAD_STATUS.DIGEST, .reg Reg.MIR_LOAD_STATUS.EPOCH, .reg Reg.MIR_LOAD_STATUS.GRANULES, .reg Reg.MIR_LOAD_STATUS.RESULT, .reg Reg.MIR_LOAD_STATUS.STATE, .reg Reg.MIR_LOAD_STATUS.USING_SRC1, .reg Reg.MIR_PART.ENABLE, .reg Reg.MIR_PART_STATUS.RESULT, .reg Reg.MIR_PART_STATUS.STATE, .reg Reg.MIR_SRC_STATUS.ACKED0, .reg Reg.MIR_SRC_STATUS.ACKED1, .reg Reg.MIR_SRC_STATUS.BREAKS, .reg Reg.MIR_SRC_STATUS.STATE] : List Part) ++ ([.memu, .router, .gateway, .mirror] : List Part)) K) (hF : F f)
    (ho : Only K F P s0 s) : Ends K F P s0 (execMirLoadStart f s) := by
  unfold execMirLoadStart
  repeat' first | with_reducible assumption | exact Fits.trans (by decide +kernel) hK | exact hF | with_reducible apply Ends.inRim | with_reducible apply State.mirSettle_only | with_reducible apply State.loadStart_only | with_reducible apply Ends.finish | with_reducible apply Ends.next | with_reducible apply Only.ite | with_reducible apply Ends.ite | dsimp only | split | (with_reducible refine Only.fst (by with_reducible assumption) ?_) | (with_reducible refine Only.snd (by with_reducible assumption) ?_)

theorem execMirLoadAbort_only {K : List Part} {F : FieldId → Prop} {P : PlotId → Prop} {s0 : State} (f : FieldId) (s : State) (hK : Fits ([.events, .reg Reg.MIR_LOAD_STATUS.RESULT, .reg Reg.MIR_LOAD_STATUS.STATE] : List Part) K) (hF : F f)
    (ho : Only K F P s0 s) : Ends K F P s0 (execMirLoadAbort f s) := by
  unfold execMirLoadAbort
  repeat' first | with_reducible assumption | exact Fits.trans (by decide +kernel) hK | exact hF | with_reducible apply Ends.inRim | with_reducible apply State.loadAbort_only | with_reducible apply Ends.finish | with_reducible apply Ends.next | with_reducible apply Only.ite | with_reducible apply Ends.ite | dsimp only | split | (with_reducible refine Only.fst (by with_reducible assumption) ?_) | (with_reducible refine Only.snd (by with_reducible assumption) ?_)

theorem execMirLoadTimeout_only {K : List Part} {F : FieldId → Prop} {P : PlotId → Prop} {s0 : State} (f : FieldId) (s : State) (hK : Fits (([.events, .reg Reg.INJ_PT.ARM, .reg Reg.INJ_PT.DONE, .reg Reg.MIR_LOAD_STATUS.DIGEST, .reg Reg.MIR_LOAD_STATUS.GRANULES, .reg Reg.MIR_LOAD_STATUS.RESULT, .reg Reg.MIR_LOAD_STATUS.STATE, .reg Reg.MIR_LOAD_STATUS.USING_SRC1, .reg Reg.MIR_PART.ENABLE, .reg Reg.MIR_PART_STATUS.RESULT, .reg Reg.MIR_PART_STATUS.STATE, .reg Reg.MIR_SRC_STATUS.ACKED0, .reg Reg.MIR_SRC_STATUS.ACKED1, .reg Reg.MIR_SRC_STATUS.BREAKS, .reg Reg.MIR_SRC_STATUS.STATE, .memu] : List Part) ++ ([.router, .gateway, .mirror] : List Part)) K) (hF : F f)
    (ho : Only K F P s0 s) : Ends K F P s0 (execMirLoadTimeout f s) := by
  unfold execMirLoadTimeout
  repeat' first | with_reducible assumption | exact Fits.trans (by decide +kernel) hK | exact hF | with_reducible apply Ends.inRim | with_reducible apply State.mirSettle_only | with_reducible apply State.loadFail_only | with_reducible apply Ends.finish | with_reducible apply Ends.next | with_reducible apply Only.ite | with_reducible apply Ends.ite | dsimp only | split | (with_reducible refine Only.fst (by with_reducible assumption) ?_) | (with_reducible refine Only.snd (by with_reducible assumption) ?_)

theorem State.markPlanes_only {K : List Part} {F : FieldId → Prop} {P : PlotId → Prop} {s0 : State} (was : State) (f : FieldId) (hK : Fits ([.events, .reg Reg.INJ_PT.ARM, .reg Reg.INJ_PT.DONE, .reg Reg.MEM_MIR_STATUS.LATE, .reg Reg.MIR_SRC_STATUS.EPOCH, .reg Reg.MIR_SRC_STATUS.SKIPPED, .reg Reg.RTE_VC_CTL.COMMIT_DUE, .memu, .router, .gateway, .mirror] : List Part) K) (hF : F f)
    (ho : Only K F P s0 was) : Only K F P s0 (State.markPlanes was f).1 := by
  unfold State.markPlanes
  repeat' first | with_reducible assumption | exact Fits.trans (by decide +kernel) hK | exact hF | with_reducible apply State.mirCommit_only | with_reducible apply State.injFire_only | with_reducible apply State.fset_only | with_reducible apply State.raise_only | with_reducible apply State.updMemu_only | with_reducible apply State.fcount_only | with_reducible apply State.updMirSrc_only | with_reducible apply Only.ite | dsimp only | split | (with_reducible refine Only.fst (by with_reducible assumption) ?_) | (with_reducible refine Only.snd (by with_reducible assumption) ?_)

theorem State.markRegions_only {K : List Part} {F : FieldId → Prop} {P : PlotId → Prop} {s0 : State} (s : State) (f : FieldId) (hK : Fits ([.events, .reg Reg.INJ_PT.ARM, .reg Reg.INJ_PT.DONE, .memu, .router, .gateway, .mirror] : List Part) K) (hF : F f)
    (ho : Only K F P s0 s) : Only K F P s0 (State.markRegions s f) := by
  unfold State.markRegions
  repeat' first | with_reducible assumption | exact Fits.trans (by decide +kernel) hK | exact hF | with_reducible apply State.updMir_only | with_reducible apply State.raise_only | with_reducible apply State.updMemu_only | with_reducible apply State.mirLayoutSend_only | with_reducible apply Only.ite | dsimp only | split | (with_reducible refine Only.foldl _ _ (fun t a ht => ?_) ?_) | (with_reducible refine Only.foldl_fst _ _ _ (fun t a ht => ?_) ?_) | (with_reducible refine Only.fst (by with_reducible assumption) ?_) | (with_reducible refine Only.snd (by with_reducible assumption) ?_)

theorem State.allotDiffers_only {K : List Part} {F : FieldId → Prop} {P : PlotId → Prop} {s0 : State} (s : State) (hK : Fits ([.free] : List Part) K)
    (ho : Only K F P s0 s) : Only K F P s0 (State.allotDiffers s).1 := by
  unfold State.allotDiffers
  repeat' first | with_reducible assumption | exact Fits.trans (by decide +kernel) hK | with_reducible apply State.draw_only | with_reducible apply Only.ite | dsimp only | split | (with_reducible refine Only.fst (by with_reducible assumption) ?_) | (with_reducible refine Only.snd (by with_reducible assumption) ?_)

theorem State.markSource_only {K : List Part} {F : FieldId → Prop} {P : PlotId → Prop} {s0 : State} (s : State) (f : FieldId) (hK : Fits ([.free, .reg Reg.INJ_PT.ARM, .reg Reg.INJ_PT.DONE, .reg Reg.MIR_SRC_STATUS.EPOCH, .reg Reg.MIR_SRC_STATUS.RESULT, .reg Reg.MIR_SRC_STATUS.STATE, .reg Reg.RTE_VC_CTL.COMMIT_DUE, .memu, .router, .gateway, .mirror] : List Part) K) (hF : F f)
    (ho : Only K F P s0 s) : Only K F P s0 (State.markSource s f) := by
  unfold State.markSource
  repeat' first | with_reducible assumption | exact Fits.trans (by decide +kernel) hK | exact hF | with_reducible apply State.allotDiffers_only | with_reducible apply State.updMir_only | with_reducible apply State.fset_only | with_reducible apply State.updMirSrc_only | with_reducible apply State.curAll_only | with_reducible apply State.mirLayoutSend_only | with_reducible apply Only.ite | dsimp only | split | (with_reducible refine Only.foldl _ _ (fun t a ht => ?_) ?_) | (with_reducible refine Only.foldl_fst _ _ _ (fun t a ht => ?_) ?_) | (with_reducible refine Only.fst (by with_reducible assumption) ?_) | (with_reducible refine Only.snd (by with_reducible assumption) ?_)

theorem State.markPart_only {K : List Part} {F : FieldId → Prop} {P : PlotId → Prop} {s0 : State} (s : State) (f : FieldId) (n : Nat) (hK : Fits ([.free, .reg Reg.MIR_PART_STATUS.BUF_USED, .reg Reg.MIR_PART_STATUS.DIGEST, .reg Reg.MIR_PART_STATUS.RESULT, .reg Reg.MIR_PART_STATUS.STATE, .reg Reg.MIR_PART_STATUS.VALID, .mirror] : List Part) K) (hF : F f)
    (ho : Only K F P s0 s) : Only K F P s0 (State.markPart s f n) := by
  unfold State.markPart
  repeat' first | with_reducible assumption | exact Fits.trans (by decide +kernel) hK | exact hF | with_reducible apply State.allotDiffers_only | with_reducible apply State.updMir_only | with_reducible apply State.fset_only | with_reducible apply State.bufUsed_only | with_reducible apply State.updSlot_only | with_reducible apply Only.ite | dsimp only | split | (with_reducible refine Only.fst (by with_reducible assumption) ?_) | (with_reducible refine Only.snd (by with_reducible assumption) ?_)

theorem State.markPairings_only {K : List Part} {F : FieldId → Prop} {P : PlotId → Prop} {s0 : State} (s : State) (f : FieldId) (hK : Fits (([.free, .events, .reg Reg.INJ_PT.ARM, .reg Reg.INJ_PT.DONE, .reg Reg.MIR_PART_STATUS.BUF_USED, .reg Reg.MIR_PART_STATUS.DIGEST, .reg Reg.MIR_PART_STATUS.RESULT, .reg Reg.MIR_PART_STATUS.STATE, .reg Reg.MIR_PART_STATUS.VALID, .reg Reg.MIR_SRC_STATUS.EPOCH, .reg Reg.MIR_SRC_STATUS.RESULT, .reg Reg.MIR_SRC_STATUS.STATE, .reg Reg.RTE_VC_CTL.COMMIT_DUE, .memu, .router, .gateway] : List Part) ++ ([.mirror] : List Part)) K) (hF : F f)
    (ho : Only K F P s0 s) : Only K F P s0 (State.markPairings s f) := by
  unfold State.markPairings
  repeat' first | with_reducible assumption | exact Fits.trans (by decide +kernel) hK | exact hF | with_reducible apply State.markPart_only | with_reducible apply State.markSource_only | with_reducible apply State.markRegions_only | with_reducible apply Only.ite | dsimp only | split | (with_reducible refine Only.fst (by with_reducible assumption) ?_) | (with_reducible refine Only.snd (by with_reducible assumption) ?_)

end Sys2Proof.Machine
end

