-- ==== Sys2Proof/Laws/Touch/Sheaf.lean ====
section
/-! SUPPORT. What each operation of Machine/Sheaf.lean can change: the parts named, and nothing else. -/

namespace Sys2Proof.Machine

set_option Elab.async false

open Sys2Proof

theorem State.shfCheck_only {K : List Part} {F : FieldId → Prop} {P : PlotId → Prop} {s0 : State} (s : State) (f : FieldId) (k addr : Nat) (hK : Fits (([.events, .hbmErr, .reg Reg.INJ_PT.ARM, .reg Reg.INJ_PT.DONE, .reg Reg.MEM_ECC_STAT.CORRECTED, .reg Reg.MEM_ECC_STAT.LAST_ADDR, .reg Reg.MEM_ECC_STAT.UNCORRECTED, .reg Reg.MEM_REPAIR_ENTRY.BANK, .reg Reg.MEM_REPAIR_ENTRY.CHANNEL, .reg Reg.MEM_REPAIR_ENTRY.PCH, .reg Reg.MEM_REPAIR_ENTRY.REASON, .reg Reg.MEM_REPAIR_ENTRY.RESULT, .reg Reg.MEM_REPAIR_ENTRY.ROW, .reg Reg.MEM_REPAIR_ENTRY.STACK, .reg Reg.MEM_REPAIR_ENTRY.VALID, .memu] : List Part) ++ ([.health] : List Part)) K) (hF : F f)
    (ho : Only K F P s0 s) : Only K F P s0 (State.shfCheck s f k addr).1 := by
  unfold State.shfCheck
  repeat' first | with_reducible assumption | exact Fits.trans (by decide +kernel) hK | exact hF | with_reducible apply State.hbmRead_only | with_reducible apply Only.ite | dsimp only | split | (with_reducible refine Only.fst (by with_reducible assumption) ?_) | (with_reducible refine Only.snd (by with_reducible assumption) ?_)

theorem State.shfReadTail_only {K : List Part} {F : FieldId → Prop} {P : PlotId → Prop} {s0 : State} (s : State) (f : FieldId) (k : Nat) (hK : Fits (([.events, .hbmErr, .reg Reg.INJ_PT.ARM, .reg Reg.INJ_PT.DONE, .reg Reg.MEM_ECC_STAT.CORRECTED, .reg Reg.MEM_ECC_STAT.LAST_ADDR, .reg Reg.MEM_ECC_STAT.UNCORRECTED, .reg Reg.MEM_REPAIR_ENTRY.BANK, .reg Reg.MEM_REPAIR_ENTRY.CHANNEL, .reg Reg.MEM_REPAIR_ENTRY.PCH, .reg Reg.MEM_REPAIR_ENTRY.REASON, .reg Reg.MEM_REPAIR_ENTRY.RESULT, .reg Reg.MEM_REPAIR_ENTRY.ROW, .reg Reg.MEM_REPAIR_ENTRY.STACK, .reg Reg.MEM_REPAIR_ENTRY.VALID, .memu] : List Part) ++ ([.sheaf, .health] : List Part)) K) (hF : F f)
    (ho : Only K F P s0 s) : Only K F P s0 (State.shfReadTail s f k) := by
  unfold State.shfReadTail
  repeat' first | with_reducible assumption | exact Fits.trans (by decide +kernel) hK | exact hF | with_reducible apply State.hbmRead_only | with_reducible apply State.updSlotShf_only | with_reducible apply Only.ite | dsimp only | split | (with_reducible refine Only.fst (by with_reducible assumption) ?_) | (with_reducible refine Only.snd (by with_reducible assumption) ?_)

theorem State.shfStatus_only {K : List Part} {F : FieldId → Prop} {P : PlotId → Prop} {s0 : State} (s : State) (f : FieldId) (k st group epoch next done members hset req : Nat) (hK : Fits ([.reg Reg.SHF_GROUP_STATUS.DONE_SEQ, .reg Reg.SHF_GROUP_STATUS.EPOCH, .reg Reg.SHF_GROUP_STATUS.GROUP_ID, .reg Reg.SHF_GROUP_STATUS.HSET, .reg Reg.SHF_GROUP_STATUS.MEMBERS, .reg Reg.SHF_GROUP_STATUS.NEXT_SEQ, .reg Reg.SHF_GROUP_STATUS.SCRATCH_REQ, .reg Reg.SHF_GROUP_STATUS.STATE] : List Part) K) (hF : F f)
    (ho : Only K F P s0 s) : Only K F P s0 (State.shfStatus s f k st group epoch next done members hset req) := by
  unfold State.shfStatus
  repeat' first | with_reducible assumption | exact Fits.trans (by decide +kernel) hK | exact hF | with_reducible apply State.fset_only | with_reducible apply Only.ite | dsimp only | split | (with_reducible refine Only.fst (by with_reducible assumption) ?_) | (with_reducible refine Only.snd (by with_reducible assumption) ?_)

theorem State.shfInstall_only {K : List Part} {F : FieldId → Prop} {P : PlotId → Prop} {s0 : State} (s : State) (f : FieldId) (k : Nat) (x : ShfSlot) (hK : Fits (([.events, .hbmErr, .reg Reg.INJ_PT.ARM, .reg Reg.INJ_PT.DONE, .reg Reg.MEM_ECC_STAT.CORRECTED, .reg Reg.MEM_ECC_STAT.LAST_ADDR, .reg Reg.MEM_ECC_STAT.UNCORRECTED, .reg Reg.MEM_REPAIR_ENTRY.BANK, .reg Reg.MEM_REPAIR_ENTRY.CHANNEL, .reg Reg.MEM_REPAIR_ENTRY.PCH, .reg Reg.MEM_REPAIR_ENTRY.REASON, .reg Reg.MEM_REPAIR_ENTRY.RESULT, .reg Reg.MEM_REPAIR_ENTRY.ROW, .reg Reg.MEM_REPAIR_ENTRY.STACK, .reg Reg.MEM_REPAIR_ENTRY.VALID, .reg Reg.SHF_GROUP_STATUS.DONE_SEQ] : List Part) ++ ([.reg Reg.SHF_GROUP_STATUS.EPOCH, .reg Reg.SHF_GROUP_STATUS.GROUP_ID, .reg Reg.SHF_GROUP_STATUS.HSET, .reg Reg.SHF_GROUP_STATUS.MEMBERS, .reg Reg.SHF_GROUP_STATUS.NEXT_SEQ, .reg Reg.SHF_GROUP_STATUS.RESULT, .reg Reg.SHF_GROUP_STATUS.SCRATCH_REQ, .reg Reg.SHF_GROUP_STATUS.STATE, .memu, .sheaf, .health] : List Part)) K) (hF : F f)
    (ho : Only K F P s0 s) : Only K F P s0 (State.shfInstall s f k x) := by
  unfold State.shfInstall
  repeat' first | with_reducible assumption | exact Fits.trans (by decide +kernel) hK | exact hF | with_reducible apply State.updShf_only | with_reducible apply State.shfStatus_only | with_reducible apply State.shfEvent_only | with_reducible apply State.shfReadTail_only | with_reducible apply State.fset_only | with_reducible apply Only.ite | dsimp only | split | (with_reducible refine Only.fst (by with_reducible assumption) ?_) | (with_reducible refine Only.snd (by with_reducible assumption) ?_)

theorem State.shfRefuse_only {K : List Part} {F : FieldId → Prop} {P : PlotId → Prop} {s0 : State} (s : State) (f : FieldId) (k status : Nat) (hK : Fits ([.events, .reg Reg.SHF_GROUP_STATUS.RESULT] : List Part) K) (hF : F f)
    (ho : Only K F P s0 s) : Only K F P s0 (State.shfRefuse s f k status) := by
  unfold State.shfRefuse
  repeat' first | with_reducible assumption | exact Fits.trans (by decide +kernel) hK | exact hF | with_reducible apply State.shfEvent_only | with_reducible apply State.fset_only | with_reducible apply Only.ite | dsimp only | split | (with_reducible refine Only.fst (by with_reducible assumption) ?_) | (with_reducible refine Only.snd (by with_reducible assumption) ?_)

theorem State.shfRegister_only {K : List Part} {F : FieldId → Prop} {P : PlotId → Prop} {s0 : State} (s : State) (f : FieldId) (k addr : Nat) (hK : Fits ([.sheaf] : List Part) K) (hF : F f)
    (ho : Only K F P s0 s) : Only K F P s0 (State.shfRegister s f k addr) := by
  unfold State.shfRegister
  repeat' first | with_reducible assumption | exact Fits.trans (by decide +kernel) hK | exact hF | with_reducible apply State.updShf_only | with_reducible apply Only.ite | dsimp only | split | (with_reducible refine Only.fst (by with_reducible assumption) ?_) | (with_reducible refine Only.snd (by with_reducible assumption) ?_)

theorem execRegister_only {K : List Part} {F : FieldId → Prop} {P : PlotId → Prop} {s0 : State} (f : FieldId) (slot : Fin 64) (addr : Nat) (s : State) (hK : Fits ([.sheaf] : List Part) K) (hF : F f)
    (ho : Only K F P s0 s) : Ends K F P s0 (execRegister f slot addr s) := by
  unfold execRegister
  repeat' first | with_reducible assumption | exact Fits.trans (by decide +kernel) hK | exact hF | with_reducible apply Ends.inRim | with_reducible apply State.shfRegister_only | with_reducible apply Ends.finish | with_reducible apply Ends.next | with_reducible apply Only.ite | with_reducible apply Ends.ite | dsimp only | split | (with_reducible refine Only.fst (by with_reducible assumption) ?_) | (with_reducible refine Only.snd (by with_reducible assumption) ?_)

theorem execRegistrationComplete_only {K : List Part} {F : FieldId → Prop} {P : PlotId → Prop} {s0 : State} (f : FieldId) (slot : Fin 64) (s : State) (hK : Fits (([.events, .hbmErr, .reg Reg.INJ_PT.ARM, .reg Reg.INJ_PT.DONE, .reg Reg.MEM_ECC_STAT.CORRECTED, .reg Reg.MEM_ECC_STAT.LAST_ADDR, .reg Reg.MEM_ECC_STAT.UNCORRECTED, .reg Reg.MEM_REPAIR_ENTRY.BANK, .reg Reg.MEM_REPAIR_ENTRY.CHANNEL, .reg Reg.MEM_REPAIR_ENTRY.PCH, .reg Reg.MEM_REPAIR_ENTRY.REASON, .reg Reg.MEM_REPAIR_ENTRY.RESULT, .reg Reg.MEM_REPAIR_ENTRY.ROW, .reg Reg.MEM_REPAIR_ENTRY.STACK, .reg Reg.MEM_REPAIR_ENTRY.VALID, .reg Reg.SHF_GROUP_STATUS.DONE_SEQ] : List Part) ++ ([.reg Reg.SHF_GROUP_STATUS.EPOCH, .reg Reg.SHF_GROUP_STATUS.GROUP_ID, .reg Reg.SHF_GROUP_STATUS.HSET, .reg Reg.SHF_GROUP_STATUS.MEMBERS, .reg Reg.SHF_GROUP_STATUS.NEXT_SEQ, .reg Reg.SHF_GROUP_STATUS.RESULT, .reg Reg.SHF_GROUP_STATUS.SCRATCH_REQ, .reg Reg.SHF_GROUP_STATUS.STATE, .memu, .sheaf, .health] : List Part)) K) (hF : F f)
    (ho : Only K F P s0 s) : Ends K F P s0 (execRegistrationComplete f slot s) := by
  unfold execRegistrationComplete
  repeat' first | with_reducible assumption | exact Fits.trans (by decide +kernel) hK | exact hF | with_reducible apply Ends.inRim | with_reducible apply State.updShf_only | with_reducible apply State.shfRefuse_only | with_reducible apply State.shfCheck_only | with_reducible apply State.shfInstall_only | with_reducible apply Ends.finish | with_reducible apply Ends.next | with_reducible apply Only.ite | with_reducible apply Ends.ite | dsimp only | split | (with_reducible refine Only.fst (by with_reducible assumption) ?_) | (with_reducible refine Only.snd (by with_reducible assumption) ?_)

theorem State.shfReform_only {K : List Part} {F : FieldId → Prop} {P : PlotId → Prop} {s0 : State} (s : State) (f : FieldId) (k addr : Nat) (hK : Fits (([.events, .hbm, .hbmErr, .reg Reg.FLD_MESH_STAT.MCAST_SKIPPED, .reg Reg.GWY_STAT.ABSORBED, .reg Reg.INJ_PT.ARM, .reg Reg.INJ_PT.DONE, .reg Reg.MEM_ECC_STAT.CORRECTED, .reg Reg.MEM_ECC_STAT.LAST_ADDR, .reg Reg.MEM_ECC_STAT.POISON_WRITES, .reg Reg.MEM_ECC_STAT.UNCORRECTED, .reg Reg.MEM_REPAIR_ENTRY.BANK, .reg Reg.MEM_REPAIR_ENTRY.CHANNEL, .reg Reg.MEM_REPAIR_ENTRY.PCH, .reg Reg.MEM_REPAIR_ENTRY.REASON, .reg Reg.MEM_REPAIR_ENTRY.RESULT] : List Part) ++ ([.reg Reg.MEM_REPAIR_ENTRY.ROW, .reg Reg.MEM_REPAIR_ENTRY.STACK, .reg Reg.MEM_REPAIR_ENTRY.VALID, .reg Reg.SHF_GROUP_STATUS.DONE_SEQ, .reg Reg.SHF_GROUP_STATUS.EPOCH, .reg Reg.SHF_GROUP_STATUS.GROUP_ID, .reg Reg.SHF_GROUP_STATUS.HSET, .reg Reg.SHF_GROUP_STATUS.MEMBERS, .reg Reg.SHF_GROUP_STATUS.NEXT_SEQ, .reg Reg.SHF_GROUP_STATUS.RESULT, .reg Reg.SHF_GROUP_STATUS.SCRATCH_REQ, .reg Reg.SHF_GROUP_STATUS.STATE, .reg Reg.SHF_LATE_HIST.BUCKET, .reg Reg.SHF_STAT.DONE, .reg Reg.SHF_STAT.FAILED, .plotReg Reg.PLT_DOORBELL.PENDING] : List Part) ++ ([.memu, .router, .sheaf, .health] : List Part)) K) (hF : F f) (hP : ∀ p, P p)
    (ho : Only K F P s0 s) : Only K F P s0 (State.shfReform s f k addr) := by
  unfold State.shfReform
  repeat' first | with_reducible assumption | exact Fits.trans (by decide +kernel) hK | exact hF | exact hP | exact hP _ | with_reducible apply State.shfRefuse_only | with_reducible apply State.shfCheck_only | with_reducible apply State.shfInstall_only | with_reducible apply State.shfFail_only | with_reducible apply Only.ite | dsimp only | split | (with_reducible refine Only.fst (by with_reducible assumption) ?_) | (with_reducible refine Only.snd (by with_reducible assumption) ?_)

theorem execReform_only {K : List Part} {F : FieldId → Prop} {P : PlotId → Prop} {s0 : State} (f : FieldId) (slot : Fin 64) (addr : Nat) (s : State) (hK : Fits (([.events, .hbm, .hbmErr, .reg Reg.FLD_MESH_STAT.MCAST_SKIPPED, .reg Reg.GWY_STAT.ABSORBED, .reg Reg.INJ_PT.ARM, .reg Reg.INJ_PT.DONE, .reg Reg.MEM_ECC_STAT.CORRECTED, .reg Reg.MEM_ECC_STAT.LAST_ADDR, .reg Reg.MEM_ECC_STAT.POISON_WRITES, .reg Reg.MEM_ECC_STAT.UNCORRECTED, .reg Reg.MEM_REPAIR_ENTRY.BANK, .reg Reg.MEM_REPAIR_ENTRY.CHANNEL, .reg Reg.MEM_REPAIR_ENTRY.PCH, .reg Reg.MEM_REPAIR_ENTRY.REASON, .reg Reg.MEM_REPAIR_ENTRY.RESULT] : List Part) ++ ([.reg Reg.MEM_REPAIR_ENTRY.ROW, .reg Reg.MEM_REPAIR_ENTRY.STACK, .reg Reg.MEM_REPAIR_ENTRY.VALID, .reg Reg.SHF_GROUP_STATUS.DONE_SEQ, .reg Reg.SHF_GROUP_STATUS.EPOCH, .reg Reg.SHF_GROUP_STATUS.GROUP_ID, .reg Reg.SHF_GROUP_STATUS.HSET, .reg Reg.SHF_GROUP_STATUS.MEMBERS, .reg Reg.SHF_GROUP_STATUS.NEXT_SEQ, .reg Reg.SHF_GROUP_STATUS.RESULT, .reg Reg.SHF_GROUP_STATUS.SCRATCH_REQ, .reg Reg.SHF_GROUP_STATUS.STATE, .reg Reg.SHF_LATE_HIST.BUCKET, .reg Reg.SHF_STAT.DONE, .reg Reg.SHF_STAT.FAILED, .plotReg Reg.PLT_DOORBELL.PENDING] : List Part) ++ ([.memu, .router, .sheaf, .health] : List Part)) K) (hF : F f) (hP : ∀ p, P p)
    (ho : Only K F P s0 s) : Ends K F P s0 (execReform f slot addr s) := by
  unfold execReform
  repeat' first | with_reducible assumption | exact Fits.trans (by decide +kernel) hK | exact hF | exact hP | exact hP _ | with_reducible apply Ends.inRim | with_reducible apply State.shfReform_only | with_reducible apply Ends.finish | with_reducible apply Ends.next | with_reducible apply Only.ite | with_reducible apply Ends.ite | dsimp only | split | (with_reducible refine Only.fst (by with_reducible assumption) ?_) | (with_reducible refine Only.snd (by with_reducible assumption) ?_)

theorem State.shfRelease_only {K : List Part} {F : FieldId → Prop} {P : PlotId → Prop} {s0 : State} (s : State) (f : FieldId) (k : Nat) (hK : Fits (([.events, .hbm, .hbmErr, .reg Reg.FLD_MESH_STAT.MCAST_SKIPPED, .reg Reg.GWY_STAT.ABSORBED, .reg Reg.INJ_PT.ARM, .reg Reg.INJ_PT.DONE, .reg Reg.MEM_ECC_STAT.CORRECTED, .reg Reg.MEM_ECC_STAT.LAST_ADDR, .reg Reg.MEM_ECC_STAT.POISON_WRITES, .reg Reg.MEM_ECC_STAT.UNCORRECTED, .reg Reg.MEM_REPAIR_ENTRY.BANK, .reg Reg.MEM_REPAIR_ENTRY.CHANNEL, .reg Reg.MEM_REPAIR_ENTRY.PCH, .reg Reg.MEM_REPAIR_ENTRY.REASON, .reg Reg.MEM_REPAIR_ENTRY.RESULT] : List Part) ++ ([.reg Reg.MEM_REPAIR_ENTRY.ROW, .reg Reg.MEM_REPAIR_ENTRY.STACK, .reg Reg.MEM_REPAIR_ENTRY.VALID, .reg Reg.SHF_GROUP_STATUS.DONE_SEQ, .reg Reg.SHF_GROUP_STATUS.EPOCH, .reg Reg.SHF_GROUP_STATUS.GROUP_ID, .reg Reg.SHF_GROUP_STATUS.HSET, .reg Reg.SHF_GROUP_STATUS.MEMBERS, .reg Reg.SHF_GROUP_STATUS.NEXT_SEQ, .reg Reg.SHF_GROUP_STATUS.RESULT, .reg Reg.SHF_GROUP_STATUS.SCRATCH_REQ, .reg Reg.SHF_GROUP_STATUS.STATE, .reg Reg.SHF_LATE_HIST.BUCKET, .reg Reg.SHF_STAT.DONE, .reg Reg.SHF_STAT.FAILED, .plotReg Reg.PLT_DOORBELL.PENDING] : List Part) ++ ([.memu, .router, .sheaf, .health] : List Part)) K) (hF : F f) (hP : ∀ p, P p)
    (ho : Only K F P s0 s) : Only K F P s0 (State.shfRelease s f k) := by
  unfold State.shfRelease
  repeat' first | with_reducible assumption | exact Fits.trans (by decide +kernel) hK | exact hF | exact hP | exact hP _ | with_reducible apply State.updShf_only | with_reducible apply State.shfFail_only | with_reducible apply State.shfEvent_only | with_reducible apply State.fset_only | with_reducible apply State.shfStatus_only | with_reducible apply Only.ite | dsimp only | split | (with_reducible refine Only.fst (by with_reducible assumption) ?_) | (with_reducible refine Only.snd (by with_reducible assumption) ?_)

theorem execRelease_only {K : List Part} {F : FieldId → Prop} {P : PlotId → Prop} {s0 : State} (f : FieldId) (slot : Fin 64) (s : State) (hK : Fits (([.events, .hbm, .hbmErr, .reg Reg.FLD_MESH_STAT.MCAST_SKIPPED, .reg Reg.GWY_STAT.ABSORBED, .reg Reg.INJ_PT.ARM, .reg Reg.INJ_PT.DONE, .reg Reg.MEM_ECC_STAT.CORRECTED, .reg Reg.MEM_ECC_STAT.LAST_ADDR, .reg Reg.MEM_ECC_STAT.POISON_WRITES, .reg Reg.MEM_ECC_STAT.UNCORRECTED, .reg Reg.MEM_REPAIR_ENTRY.BANK, .reg Reg.MEM_REPAIR_ENTRY.CHANNEL, .reg Reg.MEM_REPAIR_ENTRY.PCH, .reg Reg.MEM_REPAIR_ENTRY.REASON, .reg Reg.MEM_REPAIR_ENTRY.RESULT] : List Part) ++ ([.reg Reg.MEM_REPAIR_ENTRY.ROW, .reg Reg.MEM_REPAIR_ENTRY.STACK, .reg Reg.MEM_REPAIR_ENTRY.VALID, .reg Reg.SHF_GROUP_STATUS.DONE_SEQ, .reg Reg.SHF_GROUP_STATUS.EPOCH, .reg Reg.SHF_GROUP_STATUS.GROUP_ID, .reg Reg.SHF_GROUP_STATUS.HSET, .reg Reg.SHF_GROUP_STATUS.MEMBERS, .reg Reg.SHF_GROUP_STATUS.NEXT_SEQ, .reg Reg.SHF_GROUP_STATUS.RESULT, .reg Reg.SHF_GROUP_STATUS.SCRATCH_REQ, .reg Reg.SHF_GROUP_STATUS.STATE, .reg Reg.SHF_LATE_HIST.BUCKET, .reg Reg.SHF_STAT.DONE, .reg Reg.SHF_STAT.FAILED, .plotReg Reg.PLT_DOORBELL.PENDING] : List Part) ++ ([.memu, .router, .sheaf, .health] : List Part)) K) (hF : F f) (hP : ∀ p, P p)
    (ho : Only K F P s0 s) : Ends K F P s0 (execRelease f slot s) := by
  unfold execRelease
  repeat' first | with_reducible assumption | exact Fits.trans (by decide +kernel) hK | exact hF | exact hP | exact hP _ | with_reducible apply Ends.inRim | with_reducible apply State.shfRelease_only | with_reducible apply Ends.finish | with_reducible apply Ends.next | with_reducible apply Only.ite | with_reducible apply Ends.ite | dsimp only | split | (with_reducible refine Only.fst (by with_reducible assumption) ?_) | (with_reducible refine Only.snd (by with_reducible assumption) ?_)

theorem execTailWrite_only {K : List Part} {F : FieldId → Prop} {P : PlotId → Prop} {s0 : State} (f : FieldId) (slot : Fin 64) (s : State) (hK : Fits (([.events, .hbmErr, .reg Reg.INJ_PT.ARM, .reg Reg.INJ_PT.DONE, .reg Reg.MEM_ECC_STAT.CORRECTED, .reg Reg.MEM_ECC_STAT.LAST_ADDR, .reg Reg.MEM_ECC_STAT.UNCORRECTED, .reg Reg.MEM_REPAIR_ENTRY.BANK, .reg Reg.MEM_REPAIR_ENTRY.CHANNEL, .reg Reg.MEM_REPAIR_ENTRY.PCH, .reg Reg.MEM_REPAIR_ENTRY.REASON, .reg Reg.MEM_REPAIR_ENTRY.RESULT, .reg Reg.MEM_REPAIR_ENTRY.ROW, .reg Reg.MEM_REPAIR_ENTRY.STACK, .reg Reg.MEM_REPAIR_ENTRY.VALID, .memu] : List Part) ++ ([.sheaf, .health] : List Part)) K) (hF : F f)
    (ho : Only K F P s0 s) : Ends K F P s0 (execTailWrite f slot s) := by
  unfold execTailWrite
  repeat' first | with_reducible assumption | exact Fits.trans (by decide +kernel) hK | exact hF | with_reducible apply Ends.inRim | with_reducible apply State.shfReadTail_only | with_reducible apply Ends.finish | with_reducible apply Ends.next | with_reducible apply Only.ite | with_reducible apply Ends.ite | dsimp only | split | (with_reducible refine Only.fst (by with_reducible assumption) ?_) | (with_reducible refine Only.snd (by with_reducible assumption) ?_)

theorem State.shfMismatch_only {K : List Part} {F : FieldId → Prop} {P : PlotId → Prop} {s0 : State} (s : State) (f : FieldId) (k : Nat) (c : ShfColl) (hK : Fits (([.events, .hbm, .hbmErr, .reg Reg.FLD_MESH_STAT.MCAST_SKIPPED, .reg Reg.GWY_STAT.ABSORBED, .reg Reg.INJ_PT.ARM, .reg Reg.INJ_PT.DONE, .reg Reg.MEM_ECC_STAT.CORRECTED, .reg Reg.MEM_ECC_STAT.LAST_ADDR, .reg Reg.MEM_ECC_STAT.POISON_WRITES, .reg Reg.MEM_ECC_STAT.UNCORRECTED, .reg Reg.MEM_REPAIR_ENTRY.BANK, .reg Reg.MEM_REPAIR_ENTRY.CHANNEL, .reg Reg.MEM_REPAIR_ENTRY.PCH, .reg Reg.MEM_REPAIR_ENTRY.REASON, .reg Reg.MEM_REPAIR_ENTRY.RESULT] : List Part) ++ ([.reg Reg.MEM_REPAIR_ENTRY.ROW, .reg Reg.MEM_REPAIR_ENTRY.STACK, .reg Reg.MEM_REPAIR_ENTRY.VALID, .reg Reg.SHF_GROUP_STATUS.DONE_SEQ, .reg Reg.SHF_GROUP_STATUS.STATE, .reg Reg.SHF_LATE_HIST.BUCKET, .reg Reg.SHF_STAT.DONE, .reg Reg.SHF_STAT.FAILED, .plotReg Reg.PLT_DOORBELL.PENDING, .memu, .router, .sheaf, .health] : List Part)) K) (hF : F f) (hP : ∀ p, P p)
    (ho : Only K F P s0 s) : Only K F P s0 (State.shfMismatch s f k c) := by
  unfold State.shfMismatch
  repeat' first | with_reducible assumption | exact Fits.trans (by decide +kernel) hK | exact hF | exact hP | exact hP _ | with_reducible apply State.shfFail_only | with_reducible apply Only.ite | dsimp only | split | (with_reducible refine Only.fst (by with_reducible assumption) ?_) | (with_reducible refine Only.snd (by with_reducible assumption) ?_)

theorem State.shfDecide_only {K : List Part} {F : FieldId → Prop} {P : PlotId → Prop} {s0 : State} (s : State) (f : FieldId) (k : Nat) (hK : Fits (([.events, .hbm, .hbmErr, .reg Reg.FLD_MESH_STAT.MCAST_SKIPPED, .reg Reg.GWY_STAT.ABSORBED, .reg Reg.INJ_PT.ARM, .reg Reg.INJ_PT.DONE, .reg Reg.MEM_ECC_STAT.CORRECTED, .reg Reg.MEM_ECC_STAT.LAST_ADDR, .reg Reg.MEM_ECC_STAT.POISON_WRITES, .reg Reg.MEM_ECC_STAT.UNCORRECTED, .reg Reg.MEM_REPAIR_ENTRY.BANK, .reg Reg.MEM_REPAIR_ENTRY.CHANNEL, .reg Reg.MEM_REPAIR_ENTRY.PCH, .reg Reg.MEM_REPAIR_ENTRY.REASON, .reg Reg.MEM_REPAIR_ENTRY.RESULT] : List Part) ++ ([.reg Reg.MEM_REPAIR_ENTRY.ROW, .reg Reg.MEM_REPAIR_ENTRY.STACK, .reg Reg.MEM_REPAIR_ENTRY.VALID, .reg Reg.SHF_GROUP_STATUS.DONE_SEQ, .reg Reg.SHF_GROUP_STATUS.STATE, .reg Reg.SHF_LATE_HIST.BUCKET, .reg Reg.SHF_STAT.DONE, .reg Reg.SHF_STAT.FAILED, .plotReg Reg.PLT_DOORBELL.PENDING, .memu, .router, .sheaf, .health] : List Part)) K) (hF : F f) (hP : ∀ p, P p)
    (ho : Only K F P s0 s) : Only K F P s0 (State.shfDecide s f k) := by
  unfold State.shfDecide
  repeat' first | with_reducible assumption | exact Fits.trans (by decide +kernel) hK | exact hF | exact hP | exact hP _ | with_reducible apply State.shfFinish_only | with_reducible apply State.updColl_only | with_reducible apply State.shfMismatch_only | with_reducible apply Only.ite | dsimp only | split | (with_reducible refine Only.fst (by with_reducible assumption) ?_) | (with_reducible refine Only.snd (by with_reducible assumption) ?_)

theorem State.shfReadReady_only {K : List Part} {F : FieldId → Prop} {P : PlotId → Prop} {s0 : State} (s : State) (f : FieldId) (k : Nat) (hK : Fits (([.events, .hbmErr, .reg Reg.INJ_PT.ARM, .reg Reg.INJ_PT.DONE, .reg Reg.MEM_ECC_STAT.CORRECTED, .reg Reg.MEM_ECC_STAT.LAST_ADDR, .reg Reg.MEM_ECC_STAT.UNCORRECTED, .reg Reg.MEM_REPAIR_ENTRY.BANK, .reg Reg.MEM_REPAIR_ENTRY.CHANNEL, .reg Reg.MEM_REPAIR_ENTRY.PCH, .reg Reg.MEM_REPAIR_ENTRY.REASON, .reg Reg.MEM_REPAIR_ENTRY.RESULT, .reg Reg.MEM_REPAIR_ENTRY.ROW, .reg Reg.MEM_REPAIR_ENTRY.STACK, .reg Reg.MEM_REPAIR_ENTRY.VALID, .memu] : List Part) ++ ([.sheaf, .health] : List Part)) K) (hF : F f)
    (ho : Only K F P s0 s) : Only K F P s0 (State.shfReadReady s f k) := by
  unfold State.shfReadReady
  repeat' first | with_reducible assumption | exact Fits.trans (by decide +kernel) hK | exact hF | with_reducible apply State.hbmRead_only | with_reducible apply State.updColl_only | with_reducible apply Only.ite | dsimp only | split | (with_reducible refine Only.fst (by with_reducible assumption) ?_) | (with_reducible refine Only.snd (by with_reducible assumption) ?_)

theorem State.shfStart_only {K : List Part} {F : FieldId → Prop} {P : PlotId → Prop} {s0 : State} (s : State) (f : FieldId) (k : Nat) (x : ShfSlot) (d : List Byte) (seq : Nat) (hK : Fits (([.events, .hbm, .hbmErr, .reg Reg.FLD_MESH_STAT.MCAST_SKIPPED, .reg Reg.GWY_STAT.ABSORBED, .reg Reg.INJ_PT.ARM, .reg Reg.INJ_PT.DONE, .reg Reg.MEM_ECC_STAT.CORRECTED, .reg Reg.MEM_ECC_STAT.LAST_ADDR, .reg Reg.MEM_ECC_STAT.POISON_WRITES, .reg Reg.MEM_ECC_STAT.UNCORRECTED, .reg Reg.MEM_REPAIR_ENTRY.BANK, .reg Reg.MEM_REPAIR_ENTRY.CHANNEL, .reg Reg.MEM_REPAIR_ENTRY.PCH, .reg Reg.MEM_REPAIR_ENTRY.REASON, .reg Reg.MEM_REPAIR_ENTRY.RESULT] : List Part) ++ ([.reg Reg.MEM_REPAIR_ENTRY.ROW, .reg Reg.MEM_REPAIR_ENTRY.STACK, .reg Reg.MEM_REPAIR_ENTRY.VALID, .reg Reg.SHF_GROUP_STATUS.DONE_SEQ, .reg Reg.SHF_GROUP_STATUS.STATE, .reg Reg.SHF_LATE_HIST.BUCKET, .reg Reg.SHF_STAT.DONE, .reg Reg.SHF_STAT.FAILED, .plotReg Reg.PLT_DOORBELL.PENDING, .memu, .router, .sheaf, .health] : List Part)) K) (hF : F f) (hP : ∀ p, P p)
    (ho : Only K F P s0 s) : Only K F P s0 (State.shfStart s f k x d seq) := by
  unfold State.shfStart
  repeat' first | with_reducible assumption | exact Fits.trans (by decide +kernel) hK | exact hF | exact hP | exact hP _ | with_reducible apply State.injFire_only | with_reducible apply State.updSlotShf_only | with_reducible apply State.shfFail_only | with_reducible apply State.shfSend_only | with_reducible apply State.shfDecide_only | with_reducible apply State.shfReadReady_only | with_reducible apply Only.ite | dsimp only | split | (with_reducible refine Only.foldl _ _ (fun t a ht => ?_) ?_) | (with_reducible refine Only.foldl_fst _ _ _ (fun t a ht => ?_) ?_) | (with_reducible refine Only.fst (by with_reducible assumption) ?_) | (with_reducible refine Only.snd (by with_reducible assumption) ?_)

theorem execCollectiveStart_only {K : List Part} {F : FieldId → Prop} {P : PlotId → Prop} {s0 : State} (f : FieldId) (slot : Fin 64) (s : State) (hK : Fits (([.events, .hbm, .hbmErr, .reg Reg.FLD_MESH_STAT.MCAST_SKIPPED, .reg Reg.GWY_STAT.ABSORBED, .reg Reg.INJ_PT.ARM, .reg Reg.INJ_PT.DONE, .reg Reg.MEM_ECC_STAT.CORRECTED, .reg Reg.MEM_ECC_STAT.LAST_ADDR, .reg Reg.MEM_ECC_STAT.POISON_WRITES, .reg Reg.MEM_ECC_STAT.UNCORRECTED, .reg Reg.MEM_REPAIR_ENTRY.BANK, .reg Reg.MEM_REPAIR_ENTRY.CHANNEL, .reg Reg.MEM_REPAIR_ENTRY.PCH, .reg Reg.MEM_REPAIR_ENTRY.REASON, .reg Reg.MEM_REPAIR_ENTRY.RESULT] : List Part) ++ ([.reg Reg.MEM_REPAIR_ENTRY.ROW, .reg Reg.MEM_REPAIR_ENTRY.STACK, .reg Reg.MEM_REPAIR_ENTRY.VALID, .reg Reg.SHF_GROUP_STATUS.DONE_SEQ, .reg Reg.SHF_GROUP_STATUS.NEXT_SEQ, .reg Reg.SHF_GROUP_STATUS.STATE, .reg Reg.SHF_LATE_HIST.BUCKET, .reg Reg.SHF_STAT.DONE, .reg Reg.SHF_STAT.FAILED, .plotReg Reg.PLT_DOORBELL.PENDING, .memu, .router, .sheaf, .health] : List Part)) K) (hF : F f) (hP : ∀ p, P p)
    (ho : Only K F P s0 s) : Ends K F P s0 (execCollectiveStart f slot s) := by
  unfold execCollectiveStart
  repeat' first | with_reducible assumption | exact Fits.trans (by decide +kernel) hK | exact hF | exact hP | exact hP _ | with_reducible apply Ends.inRim | with_reducible apply State.hbmRead_only | with_reducible apply State.fset_only | with_reducible apply State.updSlotShf_only | with_reducible apply State.shfRecord_only | with_reducible apply State.shfStart_only | with_reducible apply Ends.finish | with_reducible apply Ends.next | with_reducible apply Only.ite | with_reducible apply Ends.ite | dsimp only | split | (with_reducible refine Only.fst (by with_reducible assumption) ?_) | (with_reducible refine Only.snd (by with_reducible assumption) ?_)

theorem execReadyLineWrite_only {K : List Part} {F : FieldId → Prop} {P : PlotId → Prop} {s0 : State} (f : FieldId) (slot : Fin 64) (s : State) (hK : Fits (([.events, .hbmErr, .reg Reg.INJ_PT.ARM, .reg Reg.INJ_PT.DONE, .reg Reg.MEM_ECC_STAT.CORRECTED, .reg Reg.MEM_ECC_STAT.LAST_ADDR, .reg Reg.MEM_ECC_STAT.UNCORRECTED, .reg Reg.MEM_REPAIR_ENTRY.BANK, .reg Reg.MEM_REPAIR_ENTRY.CHANNEL, .reg Reg.MEM_REPAIR_ENTRY.PCH, .reg Reg.MEM_REPAIR_ENTRY.REASON, .reg Reg.MEM_REPAIR_ENTRY.RESULT, .reg Reg.MEM_REPAIR_ENTRY.ROW, .reg Reg.MEM_REPAIR_ENTRY.STACK, .reg Reg.MEM_REPAIR_ENTRY.VALID, .memu] : List Part) ++ ([.sheaf, .health] : List Part)) K) (hF : F f)
    (ho : Only K F P s0 s) : Ends K F P s0 (execReadyLineWrite f slot s) := by
  unfold execReadyLineWrite
  repeat' first | with_reducible assumption | exact Fits.trans (by decide +kernel) hK | exact hF | with_reducible apply Ends.inRim | with_reducible apply State.shfReadReady_only | with_reducible apply Ends.finish | with_reducible apply Ends.next | with_reducible apply Only.ite | with_reducible apply Ends.ite | dsimp only | split | (with_reducible refine Only.fst (by with_reducible assumption) ?_) | (with_reducible refine Only.snd (by with_reducible assumption) ?_)

theorem State.shfArrival_only {K : List Part} {F : FieldId → Prop} {P : PlotId → Prop} {s0 : State} (s : State) (f : FieldId) (kind : Nat) (p : Packet) (hK : Fits ([.events, .reg Reg.RTE_DROP_CNT.FOREIGN, .reg Reg.RTE_DROP_CNT.MCAST_DROP, .reg Reg.SHF_STAT.PROTO_ERR, .lastRaise, .router] : List Part) K) (hF : F f)
    (ho : Only K F P s0 s) : Only K F P s0 (State.shfArrival s f kind p).1 := by
  unfold State.shfArrival
  repeat' first | with_reducible assumption | exact Fits.trans (by decide +kernel) hK | exact hF | with_reducible apply State.updRouter_only | with_reducible apply State.dropForeign_only | with_reducible apply State.fcount_only | with_reducible apply Only.ite | dsimp only | split | (with_reducible refine Only.fst (by with_reducible assumption) ?_) | (with_reducible refine Only.snd (by with_reducible assumption) ?_)

theorem State.shfStale_only {K : List Part} {F : FieldId → Prop} {P : PlotId → Prop} {s0 : State} (s : State) (f : FieldId) (hK : Fits ([.reg Reg.SHF_STAT.STALE] : List Part) K) (hF : F f)
    (ho : Only K F P s0 s) : Only K F P s0 (State.shfStale s f) := by
  unfold State.shfStale
  repeat' first | with_reducible assumption | exact Fits.trans (by decide +kernel) hK | exact hF | with_reducible apply State.fcount_only | with_reducible apply Only.ite | dsimp only | split | (with_reducible refine Only.fst (by with_reducible assumption) ?_) | (with_reducible refine Only.snd (by with_reducible assumption) ?_)

theorem State.shfProto_only {K : List Part} {F : FieldId → Prop} {P : PlotId → Prop} {s0 : State} (s : State) (f : FieldId) (hK : Fits ([.reg Reg.SHF_STAT.PROTO_ERR] : List Part) K) (hF : F f)
    (ho : Only K F P s0 s) : Only K F P s0 (State.shfProto s f) := by
  unfold State.shfProto
  repeat' first | with_reducible assumption | exact Fits.trans (by decide +kernel) hK | exact hF | with_reducible apply State.fcount_only | with_reducible apply Only.ite | dsimp only | split | (with_reducible refine Only.fst (by with_reducible assumption) ?_) | (with_reducible refine Only.snd (by with_reducible assumption) ?_)

theorem State.shfTouch_only {K : List Part} {F : FieldId → Prop} {P : PlotId → Prop} {s0 : State} (s : State) (f : FieldId) (k src : Nat) (hK : Fits ([.sheaf] : List Part) K) (hF : F f)
    (ho : Only K F P s0 s) : Only K F P s0 (State.shfTouch s f k src) := by
  unfold State.shfTouch
  repeat' first | with_reducible assumption | exact Fits.trans (by decide +kernel) hK | exact hF | with_reducible apply State.updColl_only | with_reducible apply Only.ite | dsimp only | split | (with_reducible refine Only.fst (by with_reducible assumption) ?_) | (with_reducible refine Only.snd (by with_reducible assumption) ?_)

theorem execDigest_only {K : List Part} {F : FieldId → Prop} {P : PlotId → Prop} {s0 : State} (f : FieldId) (pkt : Packet) (s : State) (hK : Fits (([.events, .hbm, .hbmErr, .reg Reg.FLD_MESH_STAT.MCAST_SKIPPED, .reg Reg.GWY_STAT.ABSORBED, .reg Reg.INJ_PT.ARM, .reg Reg.INJ_PT.DONE, .reg Reg.MEM_ECC_STAT.CORRECTED, .reg Reg.MEM_ECC_STAT.LAST_ADDR, .reg Reg.MEM_ECC_STAT.POISON_WRITES, .reg Reg.MEM_ECC_STAT.UNCORRECTED, .reg Reg.MEM_REPAIR_ENTRY.BANK, .reg Reg.MEM_REPAIR_ENTRY.CHANNEL, .reg Reg.MEM_REPAIR_ENTRY.PCH, .reg Reg.MEM_REPAIR_ENTRY.REASON, .reg Reg.MEM_REPAIR_ENTRY.RESULT] : List Part) ++ ([.reg Reg.MEM_REPAIR_ENTRY.ROW, .reg Reg.MEM_REPAIR_ENTRY.STACK, .reg Reg.MEM_REPAIR_ENTRY.VALID, .reg Reg.RTE_DROP_CNT.FOREIGN, .reg Reg.RTE_DROP_CNT.MCAST_DROP, .reg Reg.SHF_GROUP_STATUS.DONE_SEQ, .reg Reg.SHF_GROUP_STATUS.STATE, .reg Reg.SHF_LATE_HIST.BUCKET, .reg Reg.SHF_STAT.DONE, .reg Reg.SHF_STAT.FAILED, .reg Reg.SHF_STAT.PROTO_ERR, .reg Reg.SHF_STAT.STALE, .plotReg Reg.PLT_DOORBELL.PENDING, .memu, .lastRaise, .router] : List Part) ++ ([.sheaf, .health] : List Part)) K) (hF : F f) (hP : ∀ p, P p)
    (ho : Only K F P s0 s) : Ends K F P s0 (execDigest f pkt s) := by
  unfold execDigest
  repeat' first | with_reducible assumption | exact Fits.trans (by decide +kernel) hK | exact hF | exact hP | exact hP _ | with_reducible apply Ends.inRim | with_reducible apply State.shfArrival_only | with_reducible apply State.shfStale_only | with_reducible apply State.shfFail_only | with_reducible apply State.shfDecide_only | with_reducible apply State.updColl_only | with_reducible apply State.updSlotShf_only | with_reducible apply Ends.finish | with_reducible apply Ends.next | with_reducible apply Only.ite | with_reducible apply Ends.ite | dsimp only | split | (with_reducible refine Only.fst (by with_reducible assumption) ?_) | (with_reducible refine Only.snd (by with_reducible assumption) ?_)

theorem State.shfInput_only {K : List Part} {F : FieldId → Prop} {P : PlotId → Prop} {s0 : State} (s : State) (f : FieldId) (c : ShfColl) (k : Nat) (hK : Fits (([.events, .hbmErr, .reg Reg.INJ_PT.ARM, .reg Reg.INJ_PT.DONE, .reg Reg.MEM_ECC_STAT.CORRECTED, .reg Reg.MEM_ECC_STAT.LAST_ADDR, .reg Reg.MEM_ECC_STAT.UNCORRECTED, .reg Reg.MEM_REPAIR_ENTRY.BANK, .reg Reg.MEM_REPAIR_ENTRY.CHANNEL, .reg Reg.MEM_REPAIR_ENTRY.PCH, .reg Reg.MEM_REPAIR_ENTRY.REASON, .reg Reg.MEM_REPAIR_ENTRY.RESULT, .reg Reg.MEM_REPAIR_ENTRY.ROW, .reg Reg.MEM_REPAIR_ENTRY.STACK, .reg Reg.MEM_REPAIR_ENTRY.VALID, .memu] : List Part) ++ ([.health] : List Part)) K) (hF : F f)
    (ho : Only K F P s0 s) : Only K F P s0 (State.shfInput s f c k).1 := by
  unfold State.shfInput
  repeat' first | with_reducible assumption | exact Fits.trans (by decide +kernel) hK | exact hF | with_reducible apply State.lineRead_only | with_reducible apply Only.ite | dsimp only | split | (with_reducible refine Only.foldl _ _ (fun t a ht => ?_) ?_) | (with_reducible refine Only.foldl_fst _ _ _ (fun t a ht => ?_) ?_) | (with_reducible refine Only.fst (by with_reducible assumption) ?_) | (with_reducible refine Only.snd (by with_reducible assumption) ?_)

theorem State.shfOut_only {K : List Part} {F : FieldId → Prop} {P : PlotId → Prop} {s0 : State} (s : State) (f : FieldId) (k : Nat) (x : ShfSlot) (seq : Nat) (o : ShfOut) (hK : Fits ([.reg Reg.INJ_PT.ARM, .reg Reg.INJ_PT.DONE, .router, .sheaf] : List Part) K) (hF : F f)
    (ho : Only K F P s0 s) : Only K F P s0 (State.shfOut s f k x seq o) := by
  unfold State.shfOut
  repeat' first | with_reducible assumption | exact Fits.trans (by decide +kernel) hK | exact hF | with_reducible apply State.updColl_only | with_reducible apply State.injFire_only | with_reducible apply State.sendPart_only | with_reducible apply Only.ite | dsimp only | split | (with_reducible refine Only.fst (by with_reducible assumption) ?_) | (with_reducible refine Only.snd (by with_reducible assumption) ?_)

theorem State.pieceSend_only {K : List Part} {F : FieldId → Prop} {P : PlotId → Prop} {s0 : State} (s : State) (f : FieldId) (k stage dst : Nat) (x : ShfSlot) (c : ShfColl) (chunk : Nat) (hK : Fits (([.events, .hbmErr, .reg Reg.INJ_PT.ARM, .reg Reg.INJ_PT.DONE, .reg Reg.MEM_ECC_STAT.CORRECTED, .reg Reg.MEM_ECC_STAT.LAST_ADDR, .reg Reg.MEM_ECC_STAT.UNCORRECTED, .reg Reg.MEM_REPAIR_ENTRY.BANK, .reg Reg.MEM_REPAIR_ENTRY.CHANNEL, .reg Reg.MEM_REPAIR_ENTRY.PCH, .reg Reg.MEM_REPAIR_ENTRY.REASON, .reg Reg.MEM_REPAIR_ENTRY.RESULT, .reg Reg.MEM_REPAIR_ENTRY.ROW, .reg Reg.MEM_REPAIR_ENTRY.STACK, .reg Reg.MEM_REPAIR_ENTRY.VALID, .memu] : List Part) ++ ([.router, .sheaf, .health] : List Part)) K) (hF : F f)
    (ho : Only K F P s0 s) : Only K F P s0 (State.pieceSend s f k stage dst x c chunk) := by
  unfold State.pieceSend
  repeat' first | with_reducible assumption | exact Fits.trans (by decide +kernel) hK | exact hF | exact hP | with_reducible apply State.shfInput_only | with_reducible apply State.updColl_only | with_reducible apply State.shfOut_only | with_reducible apply Only.ite | dsimp only | split | (with_reducible refine Only.foldl _ _ (fun t a ht => ?_) ?_) | (with_reducible refine Only.foldl_fst _ _ _ (fun t a ht => ?_) ?_) | (with_reducible refine Only.fst (by with_reducible assumption) ?_) | (with_reducible refine Only.snd (by with_reducible assumption) ?_)
  all_goals
    rename_i hq
    split at hq
    · split at hq
      case isFalse => cases hq
      split at hq <;> cases hq <;>
        (apply State.shfInput_only <;> first | exact (Fits.trans (by decide +kernel) hK) | exact hF | exact ho)
    · simp only [Option.map_eq_some_iff] at hq
      obtain ⟨_, _, hq⟩ := hq
      simp only [Prod.mk.injEq] at hq
      rw [← hq.1]
      exact ho

theorem execPieceSend_only {K : List Part} {F : FieldId → Prop} {P : PlotId → Prop} {s0 : State} (f : FieldId) (slot : Fin 64) (stage : Fin 4) (dst : Nat) (s : State) (hK : Fits (([.events, .hbmErr, .reg Reg.INJ_PT.ARM, .reg Reg.INJ_PT.DONE, .reg Reg.MEM_ECC_STAT.CORRECTED, .reg Reg.MEM_ECC_STAT.LAST_ADDR, .reg Reg.MEM_ECC_STAT.UNCORRECTED, .reg Reg.MEM_REPAIR_ENTRY.BANK, .reg Reg.MEM_REPAIR_ENTRY.CHANNEL, .reg Reg.MEM_REPAIR_ENTRY.PCH, .reg Reg.MEM_REPAIR_ENTRY.REASON, .reg Reg.MEM_REPAIR_ENTRY.RESULT, .reg Reg.MEM_REPAIR_ENTRY.ROW, .reg Reg.MEM_REPAIR_ENTRY.STACK, .reg Reg.MEM_REPAIR_ENTRY.VALID, .memu] : List Part) ++ ([.router, .sheaf, .health] : List Part)) K) (hF : F f)
    (ho : Only K F P s0 s) : Ends K F P s0 (execPieceSend f slot stage dst s) := by
  unfold execPieceSend
  repeat' first | with_reducible assumption | exact Fits.trans (by decide +kernel) hK | exact hF | with_reducible apply Ends.inRim | with_reducible apply State.pieceSend_only | with_reducible apply Ends.finish | with_reducible apply Ends.next | with_reducible apply Only.ite | with_reducible apply Ends.ite | dsimp only | split | (with_reducible refine Only.fst (by with_reducible assumption) ?_) | (with_reducible refine Only.snd (by with_reducible assumption) ?_)

theorem State.shfReceipt_only {K : List Part} {F : FieldId → Prop} {P : PlotId → Prop} {s0 : State} (s : State) (f : FieldId) (x : ShfSlot) (p : Packet) (hK : Fits ([.router] : List Part) K) (hF : F f)
    (ho : Only K F P s0 s) : Only K F P s0 (State.shfReceipt s f x p) := by
  unfold State.shfReceipt
  repeat' first | with_reducible assumption | exact Fits.trans (by decide +kernel) hK | exact hF | with_reducible apply State.shfSend_only | with_reducible apply Only.ite | dsimp only | split | (with_reducible refine Only.fst (by with_reducible assumption) ?_) | (with_reducible refine Only.snd (by with_reducible assumption) ?_)

theorem State.collReceipt_only {K : List Part} {F : FieldId → Prop} {P : PlotId → Prop} {s0 : State} (s : State) (f : FieldId) (x : ShfSlot) (c : ShfColl) (p : Packet) (hK : Fits ([.router] : List Part) K) (hF : F f)
    (ho : Only K F P s0 s) : Only K F P s0 (State.collReceipt s f x c p) := by
  unfold State.collReceipt
  repeat' first | with_reducible assumption | exact Fits.trans (by decide +kernel) hK | exact hF | with_reducible apply State.shfReceipt_only | with_reducible apply Only.ite | dsimp only | split | (with_reducible refine Only.fst (by with_reducible assumption) ?_) | (with_reducible refine Only.snd (by with_reducible assumption) ?_)

theorem State.partAstray_only {K : List Part} {F : FieldId → Prop} {P : PlotId → Prop} {s0 : State} (s : State) (f : FieldId) (x : ShfSlot) (p : Packet) (hK : Fits ([.reg Reg.SHF_STAT.STALE, .router] : List Part) K) (hF : F f)
    (ho : Only K F P s0 s) : Only K F P s0 (State.partAstray s f x p) := by
  unfold State.partAstray
  repeat' first | with_reducible assumption | exact Fits.trans (by decide +kernel) hK | exact hF | with_reducible apply State.shfStale_only | with_reducible apply State.shfReceipt_only | with_reducible apply Only.ite | dsimp only | split | (with_reducible refine Only.fst (by with_reducible assumption) ?_) | (with_reducible refine Only.snd (by with_reducible assumption) ?_)

theorem execPiece_only {K : List Part} {F : FieldId → Prop} {P : PlotId → Prop} {s0 : State} (f : FieldId) (pkt : Packet) (s : State) (hK : Fits (([.free, .events, .hbm, .hbmErr, .reg Reg.GWY_STAT.ABSORBED, .reg Reg.INJ_PT.ARM, .reg Reg.INJ_PT.DONE, .reg Reg.MEM_ECC_STAT.CORRECTED, .reg Reg.MEM_ECC_STAT.LAST_ADDR, .reg Reg.MEM_ECC_STAT.POISON_WRITES, .reg Reg.MEM_ECC_STAT.UNCORRECTED, .reg Reg.MEM_REPAIR_ENTRY.BANK, .reg Reg.MEM_REPAIR_ENTRY.CHANNEL, .reg Reg.MEM_REPAIR_ENTRY.PCH, .reg Reg.MEM_REPAIR_ENTRY.REASON, .reg Reg.MEM_REPAIR_ENTRY.RESULT] : List Part) ++ ([.reg Reg.MEM_REPAIR_ENTRY.ROW, .reg Reg.MEM_REPAIR_ENTRY.STACK, .reg Reg.MEM_REPAIR_ENTRY.VALID, .reg Reg.RTE_DROP_CNT.FOREIGN, .reg Reg.RTE_DROP_CNT.MCAST_DROP, .reg Reg.SHF_STAT.PROTO_ERR, .reg Reg.SHF_STAT.SCRATCH_BYTES, .reg Reg.SHF_STAT.STALE, .memu, .lastRaise, .router, .sheaf, .health] : List Part)) K) (hF : F f)
    (ho : Only K F P s0 s) : Ends K F P s0 (execPiece f pkt s) := by
  unfold execPiece
  repeat' first | with_reducible assumption | exact Fits.trans (by decide +kernel) hK | exact hF | with_reducible apply Ends.inRim | with_reducible apply State.shfArrival_only | with_reducible apply State.partAstray_only | with_reducible apply State.shfProto_only | with_reducible apply State.shfTouch_only | with_reducible apply State.collReceipt_only | with_reducible apply State.updColl_only | with_reducible apply State.scratchWrite_only | with_reducible apply Ends.finish | with_reducible apply Ends.next | with_reducible apply Only.ite | with_reducible apply Ends.ite | dsimp only | split | (with_reducible refine Only.foldl _ _ (fun t a ht => ?_) ?_) | (with_reducible refine Only.foldl_fst _ _ _ (fun t a ht => ?_) ?_) | (with_reducible refine Only.fst (by with_reducible assumption) ?_) | (with_reducible refine Only.snd (by with_reducible assumption) ?_)

theorem State.gatherDown_only {K : List Part} {F : FieldId → Prop} {P : PlotId → Prop} {s0 : State} (s : State) (f : FieldId) (k : Nat) (x : ShfSlot) (seq below chunk part n cls : Nat) (b : List Byte) (hK : Fits ([.reg Reg.INJ_PT.ARM, .reg Reg.INJ_PT.DONE, .router, .sheaf] : List Part) K) (hF : F f)
    (ho : Only K F P s0 s) : Only K F P s0 (State.gatherDown s f k x seq below chunk part n cls b) := by
  unfold State.gatherDown
  repeat' first | with_reducible assumption | exact Fits.trans (by decide +kernel) hK | exact hF | with_reducible apply State.shfOut_only | with_reducible apply Only.ite | dsimp only | split | (with_reducible refine Only.foldl _ _ (fun t a ht => ?_) ?_) | (with_reducible refine Only.foldl_fst _ _ _ (fun t a ht => ?_) ?_) | (with_reducible refine Only.fst (by with_reducible assumption) ?_) | (with_reducible refine Only.snd (by with_reducible assumption) ?_)

theorem State.shfWrite_only {K : List Part} {F : FieldId → Prop} {P : PlotId → Prop} {s0 : State} (s : State) (f : FieldId) (k : Nat) (c : ShfColl) (chunk part : Nat) (b : List Byte) (cls : Nat) (hK : Fits (([.events, .hbm, .hbmErr, .reg Reg.GWY_STAT.ABSORBED, .reg Reg.INJ_PT.ARM, .reg Reg.INJ_PT.DONE, .reg Reg.MEM_ECC_STAT.CORRECTED, .reg Reg.MEM_ECC_STAT.LAST_ADDR, .reg Reg.MEM_ECC_STAT.POISON_WRITES, .reg Reg.MEM_ECC_STAT.UNCORRECTED, .reg Reg.MEM_REPAIR_ENTRY.BANK, .reg Reg.MEM_REPAIR_ENTRY.CHANNEL, .reg Reg.MEM_REPAIR_ENTRY.PCH, .reg Reg.MEM_REPAIR_ENTRY.REASON, .reg Reg.MEM_REPAIR_ENTRY.RESULT, .reg Reg.MEM_REPAIR_ENTRY.ROW] : List Part) ++ ([.reg Reg.MEM_REPAIR_ENTRY.STACK, .reg Reg.MEM_REPAIR_ENTRY.VALID, .memu, .sheaf, .health] : List Part)) K) (hF : F f)
    (ho : Only K F P s0 s) : Only K F P s0 (State.shfWrite s f k c chunk part b cls) := by
  unfold State.shfWrite
  repeat' first | with_reducible assumption | exact Fits.trans (by decide +kernel) hK | exact hF | with_reducible apply State.hbmWrite_only | with_reducible apply State.updColl_only | with_reducible apply Only.ite | dsimp only | split | (with_reducible refine Only.fst (by with_reducible assumption) ?_) | (with_reducible refine Only.snd (by with_reducible assumption) ?_)

theorem State.ownerRound_only {K : List Part} {F : FieldId → Prop} {P : PlotId → Prop} {s0 : State} (s : State) (f : FieldId) (k : Nat) (x : ShfSlot) (c : ShfColl) (chunk : Nat) (accs : List LongAcc) (hK : Fits (([.events, .hbm, .hbmErr, .reg Reg.GWY_STAT.ABSORBED, .reg Reg.INJ_PT.ARM, .reg Reg.INJ_PT.DONE, .reg Reg.MEM_ECC_STAT.CORRECTED, .reg Reg.MEM_ECC_STAT.LAST_ADDR, .reg Reg.MEM_ECC_STAT.POISON_WRITES, .reg Reg.MEM_ECC_STAT.UNCORRECTED, .reg Reg.MEM_REPAIR_ENTRY.BANK, .reg Reg.MEM_REPAIR_ENTRY.CHANNEL, .reg Reg.MEM_REPAIR_ENTRY.PCH, .reg Reg.MEM_REPAIR_ENTRY.REASON, .reg Reg.MEM_REPAIR_ENTRY.RESULT, .reg Reg.MEM_REPAIR_ENTRY.ROW] : List Part) ++ ([.reg Reg.MEM_REPAIR_ENTRY.STACK, .reg Reg.MEM_REPAIR_ENTRY.VALID, .memu, .router, .sheaf, .health] : List Part)) K) (hF : F f)
    (ho : Only K F P s0 s) : Only K F P s0 (State.ownerRound s f k x c chunk accs) := by
  unfold State.ownerRound
  repeat' first | with_reducible assumption | exact Fits.trans (by decide +kernel) hK | exact hF | with_reducible apply State.shfWrite_only | with_reducible apply State.gatherDown_only | with_reducible apply Only.ite | dsimp only | split | (with_reducible refine Only.foldl _ _ (fun t a ht => ?_) ?_) | (with_reducible refine Only.foldl_fst _ _ _ (fun t a ht => ?_) ?_) | (with_reducible refine Only.fst (by with_reducible assumption) ?_) | (with_reducible refine Only.snd (by with_reducible assumption) ?_)

theorem State.chunkFold_only {K : List Part} {F : FieldId → Prop} {P : PlotId → Prop} {s0 : State} (s : State) (f : FieldId) (k stage chunk : Nat) (x : ShfSlot) (c : ShfColl) (senders : List Nat) (own : Option ShfResult) (hK : Fits (([.free, .events, .hbm, .hbmErr, .reg Reg.FLD_MESH_STAT.MCAST_SKIPPED, .reg Reg.GWY_STAT.ABSORBED, .reg Reg.INJ_PT.ARM, .reg Reg.INJ_PT.DONE, .reg Reg.MEM_ECC_STAT.CORRECTED, .reg Reg.MEM_ECC_STAT.LAST_ADDR, .reg Reg.MEM_ECC_STAT.POISON_WRITES, .reg Reg.MEM_ECC_STAT.UNCORRECTED, .reg Reg.MEM_REPAIR_ENTRY.BANK, .reg Reg.MEM_REPAIR_ENTRY.CHANNEL, .reg Reg.MEM_REPAIR_ENTRY.PCH, .reg Reg.MEM_REPAIR_ENTRY.REASON] : List Part) ++ ([.reg Reg.MEM_REPAIR_ENTRY.RESULT, .reg Reg.MEM_REPAIR_ENTRY.ROW, .reg Reg.MEM_REPAIR_ENTRY.STACK, .reg Reg.MEM_REPAIR_ENTRY.VALID, .reg Reg.SHF_GROUP_STATUS.DONE_SEQ, .reg Reg.SHF_LATE_HIST.BUCKET, .reg Reg.SHF_STAT.DONE, .reg Reg.SHF_STAT.FAILED, .reg Reg.SHF_STAT.FOLDED, .reg Reg.SHF_STAT.SCRATCH_BYTES, .plotReg Reg.PLT_DOORBELL.PENDING, .memu, .router, .sheaf, .health] : List Part)) K) (hF : F f) (hP : ∀ p, P p)
    (ho : Only K F P s0 s) : Only K F P s0 (State.chunkFold s f k stage chunk x c senders own) := by
  unfold State.chunkFold
  repeat' first | with_reducible assumption | exact Fits.trans (by decide +kernel) hK | exact hF | exact hP | exact hP _ | with_reducible apply State.shfInput_only | with_reducible apply State.updColl_only | with_reducible apply State.fwrap_only | with_reducible apply State.shfSend_only | with_reducible apply State.shfFinish_only | with_reducible apply State.ownerRound_only | with_reducible apply State.scratchWrite_only | with_reducible apply Only.ite | dsimp only | split | (with_reducible refine Only.foldl _ _ (fun t a ht => ?_) ?_) | (with_reducible refine Only.foldl_fst _ _ _ (fun t a ht => ?_) ?_) | (with_reducible refine Only.fst (by with_reducible assumption) ?_) | (with_reducible refine Only.snd (by with_reducible assumption) ?_)

theorem execChunkFold_only {K : List Part} {F : FieldId → Prop} {P : PlotId → Prop} {s0 : State} (f : FieldId) (slot : Fin 64) (stage : Fin 4) (chunk : Nat) (s : State) (hK : Fits (([.free, .events, .hbm, .hbmErr, .reg Reg.FLD_MESH_STAT.MCAST_SKIPPED, .reg Reg.GWY_STAT.ABSORBED, .reg Reg.INJ_PT.ARM, .reg Reg.INJ_PT.DONE, .reg Reg.MEM_ECC_STAT.CORRECTED, .reg Reg.MEM_ECC_STAT.LAST_ADDR, .reg Reg.MEM_ECC_STAT.POISON_WRITES, .reg Reg.MEM_ECC_STAT.UNCORRECTED, .reg Reg.MEM_REPAIR_ENTRY.BANK, .reg Reg.MEM_REPAIR_ENTRY.CHANNEL, .reg Reg.MEM_REPAIR_ENTRY.PCH, .reg Reg.MEM_REPAIR_ENTRY.REASON] : List Part) ++ ([.reg Reg.MEM_REPAIR_ENTRY.RESULT, .reg Reg.MEM_REPAIR_ENTRY.ROW, .reg Reg.MEM_REPAIR_ENTRY.STACK, .reg Reg.MEM_REPAIR_ENTRY.VALID, .reg Reg.SHF_GROUP_STATUS.DONE_SEQ, .reg Reg.SHF_LATE_HIST.BUCKET, .reg Reg.SHF_STAT.DONE, .reg Reg.SHF_STAT.FAILED, .reg Reg.SHF_STAT.FOLDED, .reg Reg.SHF_STAT.SCRATCH_BYTES, .plotReg Reg.PLT_DOORBELL.PENDING, .memu, .router, .sheaf, .health] : List Part)) K) (hF : F f) (hP : ∀ p, P p)
    (ho : Only K F P s0 s) : Ends K F P s0 (execChunkFold f slot stage chunk s) := by
  unfold execChunkFold
  repeat' first | with_reducible assumption | exact Fits.trans (by decide +kernel) hK | exact hF | exact hP | exact hP _ | with_reducible apply Ends.inRim | with_reducible apply State.chunkFold_only | with_reducible apply Ends.finish | with_reducible apply Ends.next | with_reducible apply Only.ite | with_reducible apply Ends.ite | dsimp only | split | (with_reducible refine Only.foldl _ _ (fun t a ht => ?_) ?_) | (with_reducible refine Only.foldl_fst _ _ _ (fun t a ht => ?_) ?_) | (with_reducible refine Only.fst (by with_reducible assumption) ?_) | (with_reducible refine Only.snd (by with_reducible assumption) ?_)

theorem execGather_only {K : List Part} {F : FieldId → Prop} {P : PlotId → Prop} {s0 : State} (f : FieldId) (pkt : Packet) (s : State) (hK : Fits (([.events, .hbm, .hbmErr, .reg Reg.FLD_MESH_STAT.MCAST_SKIPPED, .reg Reg.GWY_STAT.ABSORBED, .reg Reg.INJ_PT.ARM, .reg Reg.INJ_PT.DONE, .reg Reg.MEM_ECC_STAT.CORRECTED, .reg Reg.MEM_ECC_STAT.LAST_ADDR, .reg Reg.MEM_ECC_STAT.POISON_WRITES, .reg Reg.MEM_ECC_STAT.UNCORRECTED, .reg Reg.MEM_REPAIR_ENTRY.BANK, .reg Reg.MEM_REPAIR_ENTRY.CHANNEL, .reg Reg.MEM_REPAIR_ENTRY.PCH, .reg Reg.MEM_REPAIR_ENTRY.REASON, .reg Reg.MEM_REPAIR_ENTRY.RESULT] : List Part) ++ ([.reg Reg.MEM_REPAIR_ENTRY.ROW, .reg Reg.MEM_REPAIR_ENTRY.STACK, .reg Reg.MEM_REPAIR_ENTRY.VALID, .reg Reg.RTE_DROP_CNT.FOREIGN, .reg Reg.RTE_DROP_CNT.MCAST_DROP, .reg Reg.SHF_GROUP_STATUS.DONE_SEQ, .reg Reg.SHF_LATE_HIST.BUCKET, .reg Reg.SHF_STAT.DONE, .reg Reg.SHF_STAT.FAILED, .reg Reg.SHF_STAT.PROTO_ERR, .reg Reg.SHF_STAT.STALE, .plotReg Reg.PLT_DOORBELL.PENDING, .memu, .lastRaise, .router, .sheaf] : List Part) ++ ([.health] : List Part)) K) (hF : F f) (hP : ∀ p, P p)
    (ho : Only K F P s0 s) : Ends K F P s0 (execGather f pkt s) := by
  unfold execGather
  repeat' first | with_reducible assumption | exact Fits.trans (by decide +kernel) hK | exact hF | exact hP | exact hP _ | with_reducible apply Ends.inRim | with_reducible apply State.shfArrival_only | with_reducible apply State.partAstray_only | with_reducible apply State.shfProto_only | with_reducible apply State.shfTouch_only | with_reducible apply State.collReceipt_only | with_reducible apply State.updColl_only | with_reducible apply State.shfWrite_only | with_reducible apply State.gatherDown_only | with_reducible apply State.shfFinish_only | with_reducible apply Ends.finish | with_reducible apply Ends.next | with_reducible apply Only.ite | with_reducible apply Ends.ite | dsimp only | split | (with_reducible refine Only.fst (by with_reducible assumption) ?_) | (with_reducible refine Only.snd (by with_reducible assumption) ?_)

theorem execReceipt_only {K : List Part} {F : FieldId → Prop} {P : PlotId → Prop} {s0 : State} (f : FieldId) (pkt : Packet) (s : State) (hK : Fits (([.events, .hbm, .hbmErr, .reg Reg.FLD_MESH_STAT.MCAST_SKIPPED, .reg Reg.GWY_STAT.ABSORBED, .reg Reg.INJ_PT.ARM, .reg Reg.INJ_PT.DONE, .reg Reg.MEM_ECC_STAT.CORRECTED, .reg Reg.MEM_ECC_STAT.LAST_ADDR, .reg Reg.MEM_ECC_STAT.POISON_WRITES, .reg Reg.MEM_ECC_STAT.UNCORRECTED, .reg Reg.MEM_REPAIR_ENTRY.BANK, .reg Reg.MEM_REPAIR_ENTRY.CHANNEL, .reg Reg.MEM_REPAIR_ENTRY.PCH, .reg Reg.MEM_REPAIR_ENTRY.REASON, .reg Reg.MEM_REPAIR_ENTRY.RESULT] : List Part) ++ ([.reg Reg.MEM_REPAIR_ENTRY.ROW, .reg Reg.MEM_REPAIR_ENTRY.STACK, .reg Reg.MEM_REPAIR_ENTRY.VALID, .reg Reg.RTE_DROP_CNT.FOREIGN, .reg Reg.RTE_DROP_CNT.MCAST_DROP, .reg Reg.SHF_GROUP_STATUS.DONE_SEQ, .reg Reg.SHF_LATE_HIST.BUCKET, .reg Reg.SHF_STAT.DONE, .reg Reg.SHF_STAT.FAILED, .reg Reg.SHF_STAT.PROTO_ERR, .reg Reg.SHF_STAT.STALE, .plotReg Reg.PLT_DOORBELL.PENDING, .memu, .lastRaise, .router, .sheaf] : List Part) ++ ([.health] : List Part)) K) (hF : F f) (hP : ∀ p, P p)
    (ho : Only K F P s0 s) : Ends K F P s0 (execReceipt f pkt s) := by
  unfold execReceipt
  repeat' first | with_reducible assumption | exact Fits.trans (by decide +kernel) hK | exact hF | exact hP | exact hP _ | with_reducible apply Ends.inRim | with_reducible apply State.shfArrival_only | with_reducible apply State.shfStale_only | with_reducible apply State.shfFinish_only | with_reducible apply State.updColl_only | with_reducible apply State.shfTouch_only | with_reducible apply Ends.finish | with_reducible apply Ends.next | with_reducible apply Only.ite | with_reducible apply Ends.ite | dsimp only | split | (with_reducible refine Only.fst (by with_reducible assumption) ?_) | (with_reducible refine Only.snd (by with_reducible assumption) ?_)

theorem execCredit_only {K : List Part} {F : FieldId → Prop} {P : PlotId → Prop} {s0 : State} (f : FieldId) (pkt : Packet) (s : State) (hK : Fits ([.events, .reg Reg.RTE_DROP_CNT.FOREIGN, .reg Reg.RTE_DROP_CNT.MCAST_DROP, .reg Reg.SHF_STAT.PROTO_ERR, .reg Reg.SHF_STAT.STALE, .lastRaise, .router, .sheaf] : List Part) K) (hF : F f)
    (ho : Only K F P s0 s) : Ends K F P s0 (execCredit f pkt s) := by
  unfold execCredit
  repeat' first | with_reducible assumption | exact Fits.trans (by decide +kernel) hK | exact hF | with_reducible apply Ends.inRim | with_reducible apply State.shfArrival_only | with_reducible apply State.shfStale_only | with_reducible apply State.updColl_only | with_reducible apply State.shfTouch_only | with_reducible apply Ends.finish | with_reducible apply Ends.next | with_reducible apply Only.ite | with_reducible apply Ends.ite | dsimp only | split | (with_reducible refine Only.fst (by with_reducible assumption) ?_) | (with_reducible refine Only.snd (by with_reducible assumption) ?_)

theorem execPartResend_only {K : List Part} {F : FieldId → Prop} {P : PlotId → Prop} {s0 : State} (f : FieldId) (slot : Fin 64) (k : Nat) (s : State) (hK : Fits ([.reg Reg.SHF_STAT.RETX, .router, .sheaf] : List Part) K) (hF : F f)
    (ho : Only K F P s0 s) : Ends K F P s0 (execPartResend f slot k s) := by
  unfold execPartResend
  repeat' first | with_reducible assumption | exact Fits.trans (by decide +kernel) hK | exact hF | with_reducible apply Ends.inRim | with_reducible apply State.updColl_only | with_reducible apply State.sendPart_only | with_reducible apply State.fwrap_only | with_reducible apply Ends.finish | with_reducible apply Ends.next | with_reducible apply Only.ite | with_reducible apply Ends.ite | dsimp only | split | (with_reducible refine Only.fst (by with_reducible assumption) ?_) | (with_reducible refine Only.snd (by with_reducible assumption) ?_)

theorem execAbort_only {K : List Part} {F : FieldId → Prop} {P : PlotId → Prop} {s0 : State} (f : FieldId) (pkt : Packet) (s : State) (hK : Fits (([.events, .hbm, .hbmErr, .reg Reg.FLD_MESH_STAT.MCAST_SKIPPED, .reg Reg.GWY_STAT.ABSORBED, .reg Reg.INJ_PT.ARM, .reg Reg.INJ_PT.DONE, .reg Reg.MEM_ECC_STAT.CORRECTED, .reg Reg.MEM_ECC_STAT.LAST_ADDR, .reg Reg.MEM_ECC_STAT.POISON_WRITES, .reg Reg.MEM_ECC_STAT.UNCORRECTED, .reg Reg.MEM_REPAIR_ENTRY.BANK, .reg Reg.MEM_REPAIR_ENTRY.CHANNEL, .reg Reg.MEM_REPAIR_ENTRY.PCH, .reg Reg.MEM_REPAIR_ENTRY.REASON, .reg Reg.MEM_REPAIR_ENTRY.RESULT] : List Part) ++ ([.reg Reg.MEM_REPAIR_ENTRY.ROW, .reg Reg.MEM_REPAIR_ENTRY.STACK, .reg Reg.MEM_REPAIR_ENTRY.VALID, .reg Reg.RTE_DROP_CNT.FOREIGN, .reg Reg.RTE_DROP_CNT.MCAST_DROP, .reg Reg.SHF_GROUP_STATUS.DONE_SEQ, .reg Reg.SHF_GROUP_STATUS.STATE, .reg Reg.SHF_LATE_HIST.BUCKET, .reg Reg.SHF_STAT.DONE, .reg Reg.SHF_STAT.FAILED, .reg Reg.SHF_STAT.PROTO_ERR, .reg Reg.SHF_STAT.STALE, .plotReg Reg.PLT_DOORBELL.PENDING, .memu, .lastRaise, .router] : List Part) ++ ([.sheaf, .health] : List Part)) K) (hF : F f) (hP : ∀ p, P p)
    (ho : Only K F P s0 s) : Ends K F P s0 (execAbort f pkt s) := by
  unfold execAbort
  repeat' first | with_reducible assumption | exact Fits.trans (by decide +kernel) hK | exact hF | exact hP | exact hP _ | with_reducible apply Ends.inRim | with_reducible apply State.shfArrival_only | with_reducible apply State.shfFail_only | with_reducible apply State.updSlotShf_only | with_reducible apply State.shfStale_only | with_reducible apply Ends.finish | with_reducible apply Ends.next | with_reducible apply Only.ite | with_reducible apply Ends.ite | dsimp only | split | (with_reducible refine Only.fst (by with_reducible assumption) ?_) | (with_reducible refine Only.snd (by with_reducible assumption) ?_)

theorem execStageTimeout_only {K : List Part} {F : FieldId → Prop} {P : PlotId → Prop} {s0 : State} (f : FieldId) (slot : Fin 64) (s : State) (hK : Fits (([.events, .hbm, .hbmErr, .reg Reg.FLD_MESH_STAT.MCAST_SKIPPED, .reg Reg.GWY_STAT.ABSORBED, .reg Reg.INJ_PT.ARM, .reg Reg.INJ_PT.DONE, .reg Reg.MEM_ECC_STAT.CORRECTED, .reg Reg.MEM_ECC_STAT.LAST_ADDR, .reg Reg.MEM_ECC_STAT.POISON_WRITES, .reg Reg.MEM_ECC_STAT.UNCORRECTED, .reg Reg.MEM_REPAIR_ENTRY.BANK, .reg Reg.MEM_REPAIR_ENTRY.CHANNEL, .reg Reg.MEM_REPAIR_ENTRY.PCH, .reg Reg.MEM_REPAIR_ENTRY.REASON, .reg Reg.MEM_REPAIR_ENTRY.RESULT] : List Part) ++ ([.reg Reg.MEM_REPAIR_ENTRY.ROW, .reg Reg.MEM_REPAIR_ENTRY.STACK, .reg Reg.MEM_REPAIR_ENTRY.VALID, .reg Reg.SHF_GROUP_STATUS.DONE_SEQ, .reg Reg.SHF_GROUP_STATUS.STATE, .reg Reg.SHF_LATE_HIST.BUCKET, .reg Reg.SHF_STAT.DONE, .reg Reg.SHF_STAT.FAILED, .plotReg Reg.PLT_DOORBELL.PENDING, .memu, .router, .sheaf, .health] : List Part)) K) (hF : F f) (hP : ∀ p, P p)
    (ho : Only K F P s0 s) : Ends K F P s0 (execStageTimeout f slot s) := by
  unfold execStageTimeout
  repeat' first | with_reducible assumption | exact Fits.trans (by decide +kernel) hK | exact hF | exact hP | exact hP _ | with_reducible apply Ends.inRim | with_reducible apply State.shfMismatch_only | with_reducible apply State.shfFail_only | with_reducible apply Ends.finish | with_reducible apply Ends.next | with_reducible apply Only.ite | with_reducible apply Ends.ite | dsimp only | split | (with_reducible refine Only.fst (by with_reducible assumption) ?_) | (with_reducible refine Only.snd (by with_reducible assumption) ?_)

theorem State.shfReset_only {K : List Part} {F : FieldId → Prop} {P : PlotId → Prop} {s0 : State} (s : State) (f : FieldId) (hK : Fits (([.events, .hbm, .hbmErr, .reg Reg.FLD_MESH_STAT.MCAST_SKIPPED, .reg Reg.GWY_STAT.ABSORBED, .reg Reg.INJ_PT.ARM, .reg Reg.INJ_PT.DONE, .reg Reg.MEM_ECC_STAT.CORRECTED, .reg Reg.MEM_ECC_STAT.LAST_ADDR, .reg Reg.MEM_ECC_STAT.POISON_WRITES, .reg Reg.MEM_ECC_STAT.UNCORRECTED, .reg Reg.MEM_REPAIR_ENTRY.BANK, .reg Reg.MEM_REPAIR_ENTRY.CHANNEL, .reg Reg.MEM_REPAIR_ENTRY.PCH, .reg Reg.MEM_REPAIR_ENTRY.REASON, .reg Reg.MEM_REPAIR_ENTRY.RESULT] : List Part) ++ ([.reg Reg.MEM_REPAIR_ENTRY.ROW, .reg Reg.MEM_REPAIR_ENTRY.STACK, .reg Reg.MEM_REPAIR_ENTRY.VALID, .reg Reg.SHF_GROUP_STATUS.DONE_SEQ, .reg Reg.SHF_GROUP_STATUS.STATE, .reg Reg.SHF_LATE_HIST.BUCKET, .reg Reg.SHF_STAT.DONE, .reg Reg.SHF_STAT.FAILED, .plotReg Reg.PLT_DOORBELL.PENDING, .memu, .router, .sheaf, .health] : List Part)) K) (hF : F f) (hP : ∀ p, P p)
    (ho : Only K F P s0 s) : Only K F P s0 (State.shfReset s f) := by
  unfold State.shfReset
  repeat' first | with_reducible assumption | exact Fits.trans (by decide +kernel) hK | exact hF | exact hP | exact hP _ | with_reducible apply State.shfHaltSlot_only | with_reducible apply State.shfFail_only | with_reducible apply Only.ite | dsimp only | split | (with_reducible refine Only.foldl _ _ (fun t a ht => ?_) ?_) | (with_reducible refine Only.foldl_fst _ _ _ (fun t a ht => ?_) ?_) | (with_reducible refine Only.fst (by with_reducible assumption) ?_) | (with_reducible refine Only.snd (by with_reducible assumption) ?_)

theorem State.shfAllotHalt_only {K : List Part} {F : FieldId → Prop} {P : PlotId → Prop} {s0 : State} (s : State) (f : FieldId) (hK : Fits (([.events, .hbm, .hbmErr, .reg Reg.FLD_MESH_STAT.MCAST_SKIPPED, .reg Reg.GWY_STAT.ABSORBED, .reg Reg.INJ_PT.ARM, .reg Reg.INJ_PT.DONE, .reg Reg.MEM_ECC_STAT.CORRECTED, .reg Reg.MEM_ECC_STAT.LAST_ADDR, .reg Reg.MEM_ECC_STAT.POISON_WRITES, .reg Reg.MEM_ECC_STAT.UNCORRECTED, .reg Reg.MEM_REPAIR_ENTRY.BANK, .reg Reg.MEM_REPAIR_ENTRY.CHANNEL, .reg Reg.MEM_REPAIR_ENTRY.PCH, .reg Reg.MEM_REPAIR_ENTRY.REASON, .reg Reg.MEM_REPAIR_ENTRY.RESULT] : List Part) ++ ([.reg Reg.MEM_REPAIR_ENTRY.ROW, .reg Reg.MEM_REPAIR_ENTRY.STACK, .reg Reg.MEM_REPAIR_ENTRY.VALID, .reg Reg.SHF_GROUP_STATUS.DONE_SEQ, .reg Reg.SHF_GROUP_STATUS.STATE, .reg Reg.SHF_LATE_HIST.BUCKET, .reg Reg.SHF_STAT.DONE, .reg Reg.SHF_STAT.FAILED, .plotReg Reg.PLT_DOORBELL.PENDING, .memu, .router, .sheaf, .health] : List Part)) K) (hF : F f) (hP : ∀ p, P p)
    (ho : Only K F P s0 s) : Only K F P s0 (State.shfAllotHalt s f) := by
  unfold State.shfAllotHalt
  repeat' first | with_reducible assumption | exact Fits.trans (by decide +kernel) hK | exact hF | exact hP | exact hP _ | with_reducible apply State.shfFail_only | with_reducible apply Only.ite | dsimp only | split | (with_reducible refine Only.foldl _ _ (fun t a ht => ?_) ?_) | (with_reducible refine Only.foldl_fst _ _ _ (fun t a ht => ?_) ?_) | (with_reducible refine Only.fst (by with_reducible assumption) ?_) | (with_reducible refine Only.snd (by with_reducible assumption) ?_)

theorem State.allotHalt_only {K : List Part} {F : FieldId → Prop} {P : PlotId → Prop} {s0 : State} (s : State) (f : FieldId) (id : Nat) (hK : Fits (([.events, .hbm, .hbmErr, .reg Reg.FLD_MESH_STAT.MCAST_SKIPPED, .reg Reg.GWY_ALLOT_HALT.HALTED, .reg Reg.GWY_STAT.ABSORBED, .reg Reg.INJ_PT.ARM, .reg Reg.INJ_PT.DONE, .reg Reg.MEM_ECC_STAT.CORRECTED, .reg Reg.MEM_ECC_STAT.LAST_ADDR, .reg Reg.MEM_ECC_STAT.POISON_WRITES, .reg Reg.MEM_ECC_STAT.UNCORRECTED, .reg Reg.MEM_REPAIR_ENTRY.BANK, .reg Reg.MEM_REPAIR_ENTRY.CHANNEL, .reg Reg.MEM_REPAIR_ENTRY.PCH, .reg Reg.MEM_REPAIR_ENTRY.REASON] : List Part) ++ ([.reg Reg.MEM_REPAIR_ENTRY.RESULT, .reg Reg.MEM_REPAIR_ENTRY.ROW, .reg Reg.MEM_REPAIR_ENTRY.STACK, .reg Reg.MEM_REPAIR_ENTRY.VALID, .reg Reg.MIR_LOAD_STATUS.DIGEST, .reg Reg.MIR_LOAD_STATUS.GRANULES, .reg Reg.MIR_LOAD_STATUS.RESULT, .reg Reg.MIR_LOAD_STATUS.STATE, .reg Reg.MIR_LOAD_STATUS.USING_SRC1, .reg Reg.MIR_PART.ENABLE, .reg Reg.MIR_PART_STATUS.RESULT, .reg Reg.MIR_PART_STATUS.STATE, .reg Reg.MIR_SRC_STATUS.ACKED0, .reg Reg.MIR_SRC_STATUS.ACKED1, .reg Reg.MIR_SRC_STATUS.BREAKS, .reg Reg.MIR_SRC_STATUS.STATE] : List Part) ++ ([.reg Reg.SHF_GROUP_STATUS.DONE_SEQ, .reg Reg.SHF_GROUP_STATUS.STATE, .reg Reg.SHF_LATE_HIST.BUCKET, .reg Reg.SHF_STAT.DONE, .reg Reg.SHF_STAT.FAILED, .drill, .queue, .boot, .plotReg Reg.PLT_BOOT.STATUS, .plotReg Reg.PLT_DOORBELL.PENDING, .memu, .router, .gateway, .sheaf, .health, .mirror] : List Part)) K) (hF : F f) (hP : ∀ p, P p)
    (ho : Only K F P s0 s) : Only K F P s0 (State.allotHalt s f id) := by
  unfold State.allotHalt
  repeat' first | with_reducible assumption | exact Fits.trans (by decide +kernel) hK | exact hF | exact hP | exact hP _ | with_reducible apply State.shfAllotHalt_only | with_reducible apply State.gwHalt_only | with_reducible apply Only.ite | dsimp only | split | (with_reducible refine Only.fst (by with_reducible assumption) ?_) | (with_reducible refine Only.snd (by with_reducible assumption) ?_)

theorem execAllotHalt_only {K : List Part} {F : FieldId → Prop} {P : PlotId → Prop} {s0 : State} (f : FieldId) (id : Nat) (s : State) (hK : Fits (([.events, .hbm, .hbmErr, .reg Reg.FLD_MESH_STAT.MCAST_SKIPPED, .reg Reg.GWY_ALLOT_HALT.HALTED, .reg Reg.GWY_STAT.ABSORBED, .reg Reg.INJ_PT.ARM, .reg Reg.INJ_PT.DONE, .reg Reg.MEM_ECC_STAT.CORRECTED, .reg Reg.MEM_ECC_STAT.LAST_ADDR, .reg Reg.MEM_ECC_STAT.POISON_WRITES, .reg Reg.MEM_ECC_STAT.UNCORRECTED, .reg Reg.MEM_REPAIR_ENTRY.BANK, .reg Reg.MEM_REPAIR_ENTRY.CHANNEL, .reg Reg.MEM_REPAIR_ENTRY.PCH, .reg Reg.MEM_REPAIR_ENTRY.REASON] : List Part) ++ ([.reg Reg.MEM_REPAIR_ENTRY.RESULT, .reg Reg.MEM_REPAIR_ENTRY.ROW, .reg Reg.MEM_REPAIR_ENTRY.STACK, .reg Reg.MEM_REPAIR_ENTRY.VALID, .reg Reg.MIR_LOAD_STATUS.DIGEST, .reg Reg.MIR_LOAD_STATUS.GRANULES, .reg Reg.MIR_LOAD_STATUS.RESULT, .reg Reg.MIR_LOAD_STATUS.STATE, .reg Reg.MIR_LOAD_STATUS.USING_SRC1, .reg Reg.MIR_PART.ENABLE, .reg Reg.MIR_PART_STATUS.RESULT, .reg Reg.MIR_PART_STATUS.STATE, .reg Reg.MIR_SRC_STATUS.ACKED0, .reg Reg.MIR_SRC_STATUS.ACKED1, .reg Reg.MIR_SRC_STATUS.BREAKS, .reg Reg.MIR_SRC_STATUS.STATE] : List Part) ++ ([.reg Reg.SHF_GROUP_STATUS.DONE_SEQ, .reg Reg.SHF_GROUP_STATUS.STATE, .reg Reg.SHF_LATE_HIST.BUCKET, .reg Reg.SHF_STAT.DONE, .reg Reg.SHF_STAT.FAILED, .drill, .queue, .boot, .plotReg Reg.PLT_BOOT.STATUS, .plotReg Reg.PLT_DOORBELL.PENDING, .memu, .router, .gateway, .sheaf, .health, .mirror] : List Part)) K) (hF : F f) (hP : ∀ p, P p)
    (ho : Only K F P s0 s) : Ends K F P s0 (execAllotHalt f id s) := by
  unfold execAllotHalt
  repeat' first | with_reducible assumption | exact Fits.trans (by decide +kernel) hK | exact hF | exact hP | exact hP _ | with_reducible apply Ends.inRim | with_reducible apply State.allotHalt_only | with_reducible apply Ends.finish | with_reducible apply Ends.next | with_reducible apply Only.ite | with_reducible apply Ends.ite | dsimp only | split | (with_reducible refine Only.fst (by with_reducible assumption) ?_) | (with_reducible refine Only.snd (by with_reducible assumption) ?_)

theorem State.witnessForce_only {K : List Part} {F : FieldId → Prop} {P : PlotId → Prop} {s0 : State} (s : State) (f : FieldId) (hK : Fits ([.reg Reg.FLD_WITNESS_CTL.ACTIVE, .reg Reg.FLD_WITNESS_CTL.POISON_ACTIVE] : List Part) K) (hF : F f)
    (ho : Only K F P s0 s) : Only K F P s0 (State.witnessForce s f) := by
  unfold State.witnessForce
  repeat' first | with_reducible assumption | exact Fits.trans (by decide +kernel) hK | exact hF | with_reducible apply State.fset_only | with_reducible apply Only.ite | dsimp only | split | (with_reducible refine Only.fst (by with_reducible assumption) ?_) | (with_reducible refine Only.snd (by with_reducible assumption) ?_)

theorem State.allotWrite_only {K : List Part} {F : FieldId → Prop} {P : PlotId → Prop} {s0 : State} (s : State) (f : FieldId) (id : Nat) (hK : Fits ([.reg Reg.FLD_ALLOT.ID, .reg Reg.FLD_WITNESS_CTL.ACTIVE, .reg Reg.FLD_WITNESS_CTL.POISON_ACTIVE, .reg Reg.GWY_ALLOT_HALT.HALTED] : List Part) K) (hF : F f)
    (ho : Only K F P s0 s) : Only K F P s0 (State.allotWrite s f id) := by
  unfold State.allotWrite
  repeat' first | with_reducible assumption | exact Fits.trans (by decide +kernel) hK | exact hF | with_reducible apply State.witnessForce_only | with_reducible apply State.fset_only | with_reducible apply Only.ite | dsimp only | split | (with_reducible refine Only.fst (by with_reducible assumption) ?_) | (with_reducible refine Only.snd (by with_reducible assumption) ?_)

theorem execFldAllotWrite_only {K : List Part} {F : FieldId → Prop} {P : PlotId → Prop} {s0 : State} (f : FieldId) (id : Nat) (s : State) (hK : Fits ([.reg Reg.FLD_ALLOT.ID, .reg Reg.FLD_WITNESS_CTL.ACTIVE, .reg Reg.FLD_WITNESS_CTL.POISON_ACTIVE, .reg Reg.GWY_ALLOT_HALT.HALTED] : List Part) K) (hF : F f)
    (ho : Only K F P s0 s) : Ends K F P s0 (execFldAllotWrite f id s) := by
  unfold execFldAllotWrite
  repeat' first | with_reducible assumption | exact Fits.trans (by decide +kernel) hK | exact hF | with_reducible apply Ends.inRim | with_reducible apply State.allotWrite_only | with_reducible apply Ends.finish | with_reducible apply Ends.next | with_reducible apply Only.ite | with_reducible apply Ends.ite | dsimp only | split | (with_reducible refine Only.fst (by with_reducible assumption) ?_) | (with_reducible refine Only.snd (by with_reducible assumption) ?_)

end Sys2Proof.Machine
end

