-- ==== Sys2Proof/Laws/Touch/Marks.lean ====
section
/-! SUPPORT. What each operation of Machine/Marks.lean can change: the parts named, and nothing else. -/

namespace Sys2Proof.Machine

set_option Elab.async false

open Sys2Proof

theorem State.markNext_only {K : List Part} {F : FieldId → Prop} {P : PlotId → Prop} {s0 : State} (s : State) (f : FieldId) (v : Nat) (hK : Fits ([.reg Reg.TLY_MARK_NEXT.NEXT, .reg Reg.TLY_MARK_STAT.RESULT] : List Part) K) (hF : F f)
    (ho : Only K F P s0 s) : Only K F P s0 (State.markNext s f v) := by
  unfold State.markNext
  repeat' first | with_reducible assumption | exact Fits.trans (by decide +kernel) hK | exact hF | with_reducible apply State.fset_only | with_reducible apply Only.ite | dsimp only | split | (with_reducible refine Only.fst (by with_reducible assumption) ?_) | (with_reducible refine Only.snd (by with_reducible assumption) ?_)

theorem State.markCtl_only {K : List Part} {F : FieldId → Prop} {P : PlotId → Prop} {s0 : State} (s : State) (f : FieldId) (armed : Bool) (period : Nat) (hK : Fits ([.reg Reg.TLY_MARK_CTL.ARMED, .reg Reg.TLY_MARK_CTL.PERIOD, .reg Reg.TLY_MARK_STAT.RESULT] : List Part) K) (hF : F f)
    (ho : Only K F P s0 s) : Only K F P s0 (State.markCtl s f armed period) := by
  unfold State.markCtl
  repeat' first | with_reducible assumption | exact Fits.trans (by decide +kernel) hK | exact hF | with_reducible apply State.fset_only | with_reducible apply Only.ite | dsimp only | split | (with_reducible refine Only.fst (by with_reducible assumption) ?_) | (with_reducible refine Only.snd (by with_reducible assumption) ?_)

theorem execMarkArm_only {K : List Part} {F : FieldId → Prop} {P : PlotId → Prop} {s0 : State} (f : FieldId) (w : MarkWrite) (s : State) (hK : Fits ([.reg Reg.TLY_MARK_CTL.ARMED, .reg Reg.TLY_MARK_CTL.PERIOD, .reg Reg.TLY_MARK_NEXT.NEXT, .reg Reg.TLY_MARK_STAT.RESULT] : List Part) K) (hF : F f)
    (ho : Only K F P s0 s) : Ends K F P s0 (execMarkArm f w s) := by
  unfold execMarkArm
  repeat' first | with_reducible assumption | exact Fits.trans (by decide +kernel) hK | exact hF | with_reducible apply Ends.inRim | with_reducible apply State.markNext_only | with_reducible apply State.markCtl_only | with_reducible apply Ends.finish | with_reducible apply Ends.next | with_reducible apply Only.ite | with_reducible apply Ends.ite | dsimp only | split | (with_reducible refine Only.fst (by with_reducible assumption) ?_) | (with_reducible refine Only.snd (by with_reducible assumption) ?_)

theorem State.markFlush_only {K : List Part} {F : FieldId → Prop} {P : PlotId → Prop} {s0 : State} (s : State) (f : FieldId) (hK : Fits ([.reg Reg.GWY_STAT.FLUSHES, .gateway] : List Part) K) (hF : F f)
    (ho : Only K F P s0 s) : Only K F P s0 (State.markFlush s f) := by
  unfold State.markFlush
  repeat' first | with_reducible assumption | exact Fits.trans (by decide +kernel) hK | exact hF | with_reducible apply State.fwrap_only | with_reducible apply State.updGw_only | with_reducible apply Only.ite | dsimp only | split | (with_reducible refine Only.foldl _ _ (fun t a ht => ?_) ?_) | (with_reducible refine Only.foldl_fst _ _ _ (fun t a ht => ?_) ?_) | (with_reducible refine Only.fst (by with_reducible assumption) ?_) | (with_reducible refine Only.snd (by with_reducible assumption) ?_)

theorem State.markStep_only {K : List Part} {F : FieldId → Prop} {P : PlotId → Prop} {s0 : State} (s : State) (f : FieldId) (hK : Fits ([.reg Reg.FLD_SR_STEP.STEP] : List Part) K) (hF : F f)
    (ho : Only K F P s0 s) : Only K F P s0 (State.markStep s f) := by
  unfold State.markStep
  repeat' first | with_reducible assumption | exact Fits.trans (by decide +kernel) hK | exact hF | with_reducible apply State.fwrap_only | with_reducible apply Only.ite | dsimp only | split | (with_reducible refine Only.fst (by with_reducible assumption) ?_) | (with_reducible refine Only.snd (by with_reducible assumption) ?_)

theorem State.markSamples_only {K : List Part} {F : FieldId → Prop} {P : PlotId → Prop} {s0 : State} (s : State) (f : FieldId) (hK : Fits ([.events, .samples, .drift] : List Part) K) (hF : F f) (hP : ∀ p, P p)
    (ho : Only K F P s0 s) : Only K F P s0 (State.markSamples s f) := by
  unfold State.markSamples
  repeat' first | with_reducible assumption | exact Fits.trans (by decide +kernel) hK | exact hF | exact hP | exact hP _ | with_reducible apply State.driftReport_only | with_reducible apply State.updField_only | (refine fun (X : Field) => ?_) | with_reducible apply FieldOnly.setReg | with_reducible exact FieldOnly.refl _ _ _ | with_reducible apply FieldOnly.updPlot | with_reducible apply FieldOnly.ite | (refine FieldOnly.keep rfl rfl (fun k hk => ?_); cases k <;> first | exact trivial | exact rfl | exact ⟨rfl, rfl⟩ | exact ⟨rfl, rfl, rfl⟩ | exact (Fits.not hK hk rfl).elim) | (refine fun (X : Plot) => ?_) | with_reducible apply PlotOnly.setReg | with_reducible exact PlotOnly.refl _ _ | with_reducible apply PlotOnly.ite | (refine PlotOnly.keep rfl (fun k hk => ?_); cases k <;> first | exact trivial | exact rfl | exact ⟨rfl, rfl⟩ | exact ⟨rfl, rfl, rfl⟩ | exact (Fits.not hK hk rfl).elim) | with_reducible apply Only.ite | dsimp only | split | (with_reducible refine Only.foldl _ _ (fun t a ht => ?_) ?_) | (with_reducible refine Only.foldl_fst _ _ _ (fun t a ht => ?_) ?_) | (with_reducible refine Only.fst (by with_reducible assumption) ?_) | (with_reducible refine Only.snd (by with_reducible assumption) ?_) | with_reducible apply FieldOnly.updPlotAll

theorem State.markSnapshot_only {K : List Part} {F : FieldId → Prop} {P : PlotId → Prop} {s0 : State} (s : State) (f : FieldId) (tMark : Nat) (skipped : Bool) (hK : Fits ([.health, .tally] : List Part) K) (hF : F f)
    (ho : Only K F P s0 s) : Only K F P s0 (State.markSnapshot s f tMark skipped) := by
  unfold State.markSnapshot
  repeat' first | with_reducible assumption | exact Fits.trans (by decide +kernel) hK | exact hF | with_reducible apply State.updField_only | with_reducible apply State.updTly_only | (refine fun (X : Field) => ?_) | with_reducible apply FieldOnly.setReg | with_reducible exact FieldOnly.refl _ _ _ | with_reducible apply FieldOnly.updPlot | with_reducible apply FieldOnly.ite | (refine FieldOnly.keep rfl rfl (fun k hk => ?_); cases k <;> first | exact trivial | exact rfl | exact ⟨rfl, rfl⟩ | exact ⟨rfl, rfl, rfl⟩ | exact (Fits.not hK hk rfl).elim) | with_reducible apply Only.ite | dsimp only | split | (with_reducible refine Only.foldl _ _ (fun t a ht => ?_) ?_) | (with_reducible refine Only.foldl_fst _ _ _ (fun t a ht => ?_) ?_) | (with_reducible refine Only.fst (by with_reducible assumption) ?_) | (with_reducible refine Only.snd (by with_reducible assumption) ?_)

theorem State.markWitness_only {K : List Part} {F : FieldId → Prop} {P : PlotId → Prop} {s0 : State} (s : State) (f : FieldId) (hK : Fits ([.reg Reg.FLD_WITNESS_CTL.ACTIVE, .reg Reg.FLD_WITNESS_CTL.POISON_ACTIVE] : List Part) K) (hF : F f)
    (ho : Only K F P s0 s) : Only K F P s0 (State.markWitness s f) := by
  unfold State.markWitness
  repeat' first | with_reducible assumption | exact Fits.trans (by decide +kernel) hK | exact hF | with_reducible apply State.witnessForce_only | with_reducible apply State.fset_only | with_reducible apply Only.ite | dsimp only | split | (with_reducible refine Only.fst (by with_reducible assumption) ?_) | (with_reducible refine Only.snd (by with_reducible assumption) ?_)

theorem State.markBank_only {K : List Part} {F : FieldId → Prop} {P : PlotId → Prop} {s0 : State} (s : State) (f : FieldId) (hK : Fits ([.events, .reg Reg.RTE_TABLE_STATUS.GEN, .reg Reg.RTE_TABLE_STATUS.PENDING, .router] : List Part) K) (hF : F f)
    (ho : Only K F P s0 s) : Only K F P s0 (State.markBank s f) := by
  unfold State.markBank
  repeat' first | with_reducible assumption | exact Fits.trans (by decide +kernel) hK | exact hF | with_reducible apply State.bankActivate_only | with_reducible apply Only.ite | dsimp only | split | (with_reducible refine Only.fst (by with_reducible assumption) ?_) | (with_reducible refine Only.snd (by with_reducible assumption) ?_)

theorem State.markHold_only {K : List Part} {F : FieldId → Prop} {P : PlotId → Prop} {s0 : State} (s : State) (f : FieldId) (hK : Fits ([.sheaf, .held] : List Part) K) (hF : F f)
    (ho : Only K F P s0 s) : Only K F P s0 (State.markHold s f) := by
  unfold State.markHold
  repeat' first | with_reducible assumption | exact Fits.trans (by decide +kernel) hK | exact hF | with_reducible apply State.updShf_only | with_reducible apply State.updField_only | (refine fun (X : Field) => ?_) | with_reducible apply FieldOnly.setReg | with_reducible exact FieldOnly.refl _ _ _ | with_reducible apply FieldOnly.updPlot | with_reducible apply FieldOnly.ite | (refine FieldOnly.keep rfl rfl (fun k hk => ?_); cases k <;> first | exact trivial | exact rfl | exact ⟨rfl, rfl⟩ | exact ⟨rfl, rfl, rfl⟩ | exact (Fits.not hK hk rfl).elim) | with_reducible apply Only.ite | dsimp only | split | (with_reducible refine Only.fst (by with_reducible assumption) ?_) | (with_reducible refine Only.snd (by with_reducible assumption) ?_)

theorem State.markSwitch_only {K : List Part} {F : FieldId → Prop} {P : PlotId → Prop} {s0 : State} (s : State) (f : FieldId) (hK : Fits ([.light] : List Part) K)
    (ho : Only K F P s0 s) : Only K F P s0 (State.markSwitch s f) := by
  unfold State.markSwitch
  repeat' first | with_reducible assumption | exact Fits.trans (by decide +kernel) hK | with_reducible apply State.updLight_only | with_reducible apply Only.ite | dsimp only | split | (with_reducible refine Only.fst (by with_reducible assumption) ?_) | (with_reducible refine Only.snd (by with_reducible assumption) ?_)

theorem State.markActions_only {K : List Part} {F : FieldId → Prop} {P : PlotId → Prop} {s0 : State} (s : State) (f : FieldId) (tMark : Nat) (hK : Fits (([.free, .events, .hubReg Reg.PWR_MODE_STATUS.CHANGING, .hubReg Reg.PWR_MODE_STATUS.MODE, .hubReg Reg.PWR_MODE_STATUS.PENDING, .hubReg Reg.PWR_MODE_STATUS.POINT_0, .hubReg Reg.PWR_MODE_STATUS.POINT_1, .hubReg Reg.PWR_MODE_STATUS.POINT_2, .hubReg Reg.PWR_MODE_STATUS.POINT_3, .hubReg Reg.PWR_MODE_STATUS.VSEL, .hubReg Reg.PWR_RAMP_STAT.GOVERNED, .hubReg Reg.PWR_RAMP_STAT.LIMIT, .hubReg Reg.PWR_RAMP_STAT.RATE_MAX, .hubReg Reg.PWR_RAMP_STAT.RELEASED, .light, .power] : List Part) ++ ([.reg Reg.FLD_SR_STEP.STEP, .reg Reg.FLD_WITNESS_CTL.ACTIVE, .reg Reg.FLD_WITNESS_CTL.POISON_ACTIVE, .reg Reg.GWY_STAT.FLUSHES, .reg Reg.INJ_PT.ARM, .reg Reg.INJ_PT.DONE, .reg Reg.MEM_MIR_STATUS.LATE, .reg Reg.MIR_PART_STATUS.BUF_USED, .reg Reg.MIR_PART_STATUS.DIGEST, .reg Reg.MIR_PART_STATUS.RESULT, .reg Reg.MIR_PART_STATUS.STATE, .reg Reg.MIR_PART_STATUS.VALID, .reg Reg.MIR_SRC_STATUS.EPOCH, .reg Reg.MIR_SRC_STATUS.RESULT, .reg Reg.MIR_SRC_STATUS.SKIPPED, .reg Reg.MIR_SRC_STATUS.STATE] : List Part) ++ ([.reg Reg.RTE_TABLE_STATUS.GEN, .reg Reg.RTE_TABLE_STATUS.PENDING, .reg Reg.RTE_VC_CTL.COMMIT_DUE, .reg Reg.TLY_MARK_STAT.DONE, .reg Reg.TLY_MARK_STAT.LAST, .samples, .memu, .drift, .router, .gateway, .sheaf, .health, .mirror, .tally, .held, .far (.reg Reg.THM_FIELD_STATUS.POINT)] : List Part)) K) (hF : F f) (hP : ∀ p, P p)
    (ho : Only K F P s0 s) : Only K F P s0 (State.markActions s f tMark) := by
  unfold State.markActions
  repeat' first | with_reducible assumption | exact Fits.trans (by decide +kernel) hK | exact hF | exact hP | exact hP _ | with_reducible apply State.markStep_only | with_reducible apply State.markFlush_only | with_reducible apply State.markPlanes_only | with_reducible apply State.markSamples_only | with_reducible apply State.markPairings_only | with_reducible apply State.markHold_only | with_reducible apply State.markBank_only | with_reducible apply State.markWitness_only | with_reducible apply State.markSnapshot_only | with_reducible apply State.fset_only | with_reducible apply State.markSwitch_only | with_reducible apply State.hubMark_far | with_reducible apply State.updTly_only | with_reducible apply Only.ite | dsimp only | split | (with_reducible refine Only.fst (by with_reducible assumption) ?_) | (with_reducible refine Only.snd (by with_reducible assumption) ?_)

theorem State.markAdvance_only {K : List Part} {F : FieldId → Prop} {P : PlotId → Prop} {s0 : State} (s : State) (f : FieldId) (hK : Fits ([.reg Reg.TLY_MARK_CTL.ARMED, .reg Reg.TLY_MARK_NEXT.NEXT, .reg Reg.TLY_MARK_STAT.MISSED] : List Part) K) (hF : F f)
    (ho : Only K F P s0 s) : Only K F P s0 (State.markAdvance s f) := by
  unfold State.markAdvance
  repeat' first | with_reducible assumption | exact Fits.trans (by decide +kernel) hK | exact hF | with_reducible apply State.fset_only | with_reducible apply State.fcount_only | with_reducible apply Only.ite | dsimp only | split | (with_reducible refine Only.fst (by with_reducible assumption) ?_) | (with_reducible refine Only.snd (by with_reducible assumption) ?_)

theorem State.markPulse_only {K : List Part} {F : FieldId → Prop} {P : PlotId → Prop} {s0 : State} (s : State) (f : FieldId) (hK : Fits ([.tallyHub] : List Part) K)
    (ho : Only K F P s0 s) : Only K F P s0 (State.markPulse s f) := by
  unfold State.markPulse
  repeat' first | with_reducible assumption | exact Fits.trans (by decide +kernel) hK | with_reducible apply State.updHub_only | (refine fun (X : Hub) => ?_) | with_reducible apply HubOnly.setReg | with_reducible exact HubOnly.refl _ _ | with_reducible apply HubOnly.ite | (refine HubOnly.keep rfl (fun k hk => ?_); cases k <;> first | exact trivial | exact rfl | exact ⟨rfl, rfl⟩ | exact ⟨rfl, rfl, rfl⟩ | exact ⟨rfl, rfl, rfl, rfl⟩ | exact (Fits.not hK hk rfl).elim) | with_reducible apply Only.ite | dsimp only | split | (with_reducible refine Only.fst (by with_reducible assumption) ?_) | (with_reducible refine Only.snd (by with_reducible assumption) ?_)

theorem execBoundaryMark_only {K : List Part} {F : FieldId → Prop} {P : PlotId → Prop} {s0 : State} (f : FieldId) (s : State) (hK : Fits (([.free, .events, .hubReg Reg.PWR_MODE_STATUS.CHANGING, .hubReg Reg.PWR_MODE_STATUS.MODE, .hubReg Reg.PWR_MODE_STATUS.PENDING, .hubReg Reg.PWR_MODE_STATUS.POINT_0, .hubReg Reg.PWR_MODE_STATUS.POINT_1, .hubReg Reg.PWR_MODE_STATUS.POINT_2, .hubReg Reg.PWR_MODE_STATUS.POINT_3, .hubReg Reg.PWR_MODE_STATUS.VSEL, .hubReg Reg.PWR_RAMP_STAT.GOVERNED, .hubReg Reg.PWR_RAMP_STAT.LIMIT, .hubReg Reg.PWR_RAMP_STAT.RATE_MAX, .hubReg Reg.PWR_RAMP_STAT.RELEASED, .light, .tallyHub] : List Part) ++ ([.power, .reg Reg.FLD_SR_STEP.STEP, .reg Reg.FLD_WITNESS_CTL.ACTIVE, .reg Reg.FLD_WITNESS_CTL.POISON_ACTIVE, .reg Reg.GWY_STAT.FLUSHES, .reg Reg.INJ_PT.ARM, .reg Reg.INJ_PT.DONE, .reg Reg.MEM_MIR_STATUS.LATE, .reg Reg.MIR_PART_STATUS.BUF_USED, .reg Reg.MIR_PART_STATUS.DIGEST, .reg Reg.MIR_PART_STATUS.RESULT, .reg Reg.MIR_PART_STATUS.STATE, .reg Reg.MIR_PART_STATUS.VALID, .reg Reg.MIR_SRC_STATUS.EPOCH, .reg Reg.MIR_SRC_STATUS.RESULT, .reg Reg.MIR_SRC_STATUS.SKIPPED] : List Part) ++ ([.reg Reg.MIR_SRC_STATUS.STATE, .reg Reg.RTE_TABLE_STATUS.GEN, .reg Reg.RTE_TABLE_STATUS.PENDING, .reg Reg.RTE_VC_CTL.COMMIT_DUE, .reg Reg.TLY_MARK_CTL.ARMED, .reg Reg.TLY_MARK_NEXT.NEXT, .reg Reg.TLY_MARK_STAT.DONE, .reg Reg.TLY_MARK_STAT.LAST, .reg Reg.TLY_MARK_STAT.MISSED, .samples, .memu, .drift, .router, .gateway, .sheaf, .health] : List Part) ++ ([.mirror, .tally, .held, .far (.reg Reg.THM_FIELD_STATUS.POINT)] : List Part)) K) (hF : F f) (hP : ∀ p, P p)
    (ho : Only K F P s0 s) : Ends K F P s0 (execBoundaryMark f s) := by
  unfold execBoundaryMark
  repeat' first | with_reducible assumption | exact Fits.trans (by decide +kernel) hK | exact hF | exact hP | exact hP _ | with_reducible apply State.markPulse_only | with_reducible apply State.markAdvance_only | with_reducible apply State.markActions_only | with_reducible apply Ends.finish | with_reducible apply Ends.next | with_reducible apply Only.ite | with_reducible apply Ends.ite | dsimp only | split | (with_reducible refine Only.fst (by with_reducible assumption) ?_) | (with_reducible refine Only.snd (by with_reducible assumption) ?_)

theorem execHouseMark_only {K : List Part} {F : FieldId → Prop} {P : PlotId → Prop} {s0 : State} (f : FieldId) (s : State) (hK : Fits (([.free, .events, .hubReg Reg.PWR_MODE_STATUS.CHANGING, .hubReg Reg.PWR_MODE_STATUS.MODE, .hubReg Reg.PWR_MODE_STATUS.PENDING, .hubReg Reg.PWR_MODE_STATUS.POINT_0, .hubReg Reg.PWR_MODE_STATUS.POINT_1, .hubReg Reg.PWR_MODE_STATUS.POINT_2, .hubReg Reg.PWR_MODE_STATUS.POINT_3, .hubReg Reg.PWR_MODE_STATUS.VSEL, .hubReg Reg.PWR_RAMP_STAT.GOVERNED, .hubReg Reg.PWR_RAMP_STAT.LIMIT, .hubReg Reg.PWR_RAMP_STAT.RATE_MAX, .hubReg Reg.PWR_RAMP_STAT.RELEASED, .light, .power] : List Part) ++ ([.reg Reg.FLD_SR_STEP.STEP, .reg Reg.FLD_WITNESS_CTL.ACTIVE, .reg Reg.FLD_WITNESS_CTL.POISON_ACTIVE, .reg Reg.GWY_STAT.FLUSHES, .reg Reg.INJ_PT.ARM, .reg Reg.INJ_PT.DONE, .reg Reg.MEM_MIR_STATUS.LATE, .reg Reg.MIR_PART_STATUS.BUF_USED, .reg Reg.MIR_PART_STATUS.DIGEST, .reg Reg.MIR_PART_STATUS.RESULT, .reg Reg.MIR_PART_STATUS.STATE, .reg Reg.MIR_PART_STATUS.VALID, .reg Reg.MIR_SRC_STATUS.EPOCH, .reg Reg.MIR_SRC_STATUS.RESULT, .reg Reg.MIR_SRC_STATUS.SKIPPED, .reg Reg.MIR_SRC_STATUS.STATE] : List Part) ++ ([.reg Reg.RTE_TABLE_STATUS.GEN, .reg Reg.RTE_TABLE_STATUS.PENDING, .reg Reg.RTE_VC_CTL.COMMIT_DUE, .reg Reg.TLY_MARK_STAT.DONE, .reg Reg.TLY_MARK_STAT.LAST, .samples, .memu, .drift, .router, .gateway, .sheaf, .health, .mirror, .tally, .held, .far (.reg Reg.THM_FIELD_STATUS.POINT)] : List Part)) K) (hF : F f) (hP : ∀ p, P p)
    (ho : Only K F P s0 s) : Ends K F P s0 (execHouseMark f s) := by
  unfold execHouseMark
  repeat' first | with_reducible assumption | exact Fits.trans (by decide +kernel) hK | exact hF | exact hP | exact hP _ | with_reducible apply State.markActions_only | with_reducible apply Ends.finish | with_reducible apply Ends.next | with_reducible apply Only.ite | with_reducible apply Ends.ite | dsimp only | split | (with_reducible refine Only.fst (by with_reducible assumption) ?_) | (with_reducible refine Only.snd (by with_reducible assumption) ?_)

theorem execDriftReportWrite_only {K : List Part} {F : FieldId → Prop} {P : PlotId → Prop} {s0 : State} (f : FieldId) (s : State) (hK : Fits (([.events, .hbm, .hbmErr, .reg Reg.FLD_DRIFT_STATUS.SEQ, .reg Reg.GWY_STAT.ABSORBED, .reg Reg.INJ_PT.ARM, .reg Reg.INJ_PT.DONE, .reg Reg.MEM_ECC_STAT.CORRECTED, .reg Reg.MEM_ECC_STAT.LAST_ADDR, .reg Reg.MEM_ECC_STAT.POISON_WRITES, .reg Reg.MEM_ECC_STAT.UNCORRECTED, .reg Reg.MEM_REPAIR_ENTRY.BANK, .reg Reg.MEM_REPAIR_ENTRY.CHANNEL, .reg Reg.MEM_REPAIR_ENTRY.PCH, .reg Reg.MEM_REPAIR_ENTRY.REASON, .reg Reg.MEM_REPAIR_ENTRY.RESULT] : List Part) ++ ([.reg Reg.MEM_REPAIR_ENTRY.ROW, .reg Reg.MEM_REPAIR_ENTRY.STACK, .reg Reg.MEM_REPAIR_ENTRY.VALID, .memu, .drift, .health, .tally] : List Part)) K) (hF : F f)
    (ho : Only K F P s0 s) : Ends K F P s0 (execDriftReportWrite f s) := by
  unfold execDriftReportWrite
  repeat' first | with_reducible assumption | exact Fits.trans (by decide +kernel) hK | exact hF | with_reducible apply Ends.inRim | with_reducible apply State.raise_only | with_reducible apply State.hbmWrite_only | with_reducible apply State.updField_only | with_reducible apply State.markDid_only | with_reducible apply State.fwrap_only | with_reducible apply Ends.finish | with_reducible apply Ends.next | (refine fun (X : Field) => ?_) | with_reducible apply FieldOnly.setReg | with_reducible exact FieldOnly.refl _ _ _ | with_reducible apply FieldOnly.updPlot | with_reducible apply FieldOnly.ite | (refine FieldOnly.keep rfl rfl (fun k hk => ?_); cases k <;> first | exact trivial | exact rfl | exact ⟨rfl, rfl⟩ | exact ⟨rfl, rfl, rfl⟩ | exact (Fits.not hK hk rfl).elim) | with_reducible apply Only.ite | with_reducible apply Ends.ite | dsimp only | split | (with_reducible refine Only.fst (by with_reducible assumption) ?_) | (with_reducible refine Only.snd (by with_reducible assumption) ?_)

theorem State.lateClear_only {K : List Part} {F : FieldId → Prop} {P : PlotId → Prop} {s0 : State} (s : State) (f : FieldId) (hK : Fits ([.reg Reg.SHF_LATE_HIST.BUCKET, .sheaf] : List Part) K) (hF : F f)
    (ho : Only K F P s0 s) : Only K F P s0 (State.lateClear s f) := by
  unfold State.lateClear
  repeat' first | with_reducible assumption | exact Fits.trans (by decide +kernel) hK | exact hF | with_reducible apply State.updShf_only | with_reducible apply State.fset_only | with_reducible apply Only.ite | dsimp only | split | (with_reducible refine Only.foldl _ _ (fun t a ht => ?_) ?_) | (with_reducible refine Only.foldl_fst _ _ _ (fun t a ht => ?_) ?_) | (with_reducible refine Only.fst (by with_reducible assumption) ?_) | (with_reducible refine Only.snd (by with_reducible assumption) ?_)

theorem execStepTimingReportWrite_only {K : List Part} {F : FieldId → Prop} {P : PlotId → Prop} {s0 : State} (f : FieldId) (s : State) (hK : Fits (([.events, .hbm, .hbmErr, .reg Reg.GWY_STAT.ABSORBED, .reg Reg.INJ_PT.ARM, .reg Reg.INJ_PT.DONE, .reg Reg.MEM_ECC_STAT.CORRECTED, .reg Reg.MEM_ECC_STAT.LAST_ADDR, .reg Reg.MEM_ECC_STAT.POISON_WRITES, .reg Reg.MEM_ECC_STAT.UNCORRECTED, .reg Reg.MEM_REPAIR_ENTRY.BANK, .reg Reg.MEM_REPAIR_ENTRY.CHANNEL, .reg Reg.MEM_REPAIR_ENTRY.PCH, .reg Reg.MEM_REPAIR_ENTRY.REASON, .reg Reg.MEM_REPAIR_ENTRY.RESULT, .reg Reg.MEM_REPAIR_ENTRY.ROW] : List Part) ++ ([.reg Reg.MEM_REPAIR_ENTRY.STACK, .reg Reg.MEM_REPAIR_ENTRY.VALID, .reg Reg.SHF_LATE_HIST.BUCKET, .memu, .sheaf, .health, .tally] : List Part)) K) (hF : F f)
    (ho : Only K F P s0 s) : Ends K F P s0 (execStepTimingReportWrite f s) := by
  unfold execStepTimingReportWrite
  repeat' first | with_reducible assumption | exact Fits.trans (by decide +kernel) hK | exact hF | with_reducible apply Ends.inRim | with_reducible apply State.raise_only | with_reducible apply State.hbmWrite_only | with_reducible apply State.updField_only | with_reducible apply State.markDid_only | with_reducible apply State.lateClear_only | with_reducible apply Ends.finish | with_reducible apply Ends.next | (refine fun (X : Field) => ?_) | with_reducible apply FieldOnly.setReg | with_reducible exact FieldOnly.refl _ _ _ | with_reducible apply FieldOnly.updPlot | with_reducible apply FieldOnly.ite | (refine FieldOnly.keep rfl rfl (fun k hk => ?_); cases k <;> first | exact trivial | exact rfl | exact ⟨rfl, rfl⟩ | exact ⟨rfl, rfl, rfl⟩ | exact (Fits.not hK hk rfl).elim) | with_reducible apply Only.ite | with_reducible apply Ends.ite | dsimp only | split | (with_reducible refine Only.fst (by with_reducible assumption) ?_) | (with_reducible refine Only.snd (by with_reducible assumption) ?_)

theorem execRedEntryRelease_only {K : List Part} {F : FieldId → Prop} {P : PlotId → Prop} {s0 : State} (f : FieldId) (s : State) (hK : Fits (([.events, .hbm, .hbmErr, .reg Reg.GWY_STAT.ABSORBED, .reg Reg.INJ_PT.ARM, .reg Reg.INJ_PT.DONE, .reg Reg.MEM_ECC_STAT.CORRECTED, .reg Reg.MEM_ECC_STAT.LAST_ADDR, .reg Reg.MEM_ECC_STAT.POISON_WRITES, .reg Reg.MEM_ECC_STAT.UNCORRECTED, .reg Reg.MEM_REPAIR_ENTRY.BANK, .reg Reg.MEM_REPAIR_ENTRY.CHANNEL, .reg Reg.MEM_REPAIR_ENTRY.PCH, .reg Reg.MEM_REPAIR_ENTRY.REASON, .reg Reg.MEM_REPAIR_ENTRY.RESULT, .reg Reg.MEM_REPAIR_ENTRY.ROW] : List Part) ++ ([.reg Reg.MEM_REPAIR_ENTRY.STACK, .reg Reg.MEM_REPAIR_ENTRY.VALID, .memu, .gateway, .health, .tally] : List Part)) K) (hF : F f)
    (ho : Only K F P s0 s) : Ends K F P s0 (execRedEntryRelease f s) := by
  unfold execRedEntryRelease
  repeat' first | with_reducible assumption | exact Fits.trans (by decide +kernel) hK | exact hF | with_reducible apply Ends.inRim | with_reducible apply State.redErase_only | with_reducible apply State.lineWrite_only | with_reducible apply State.markDid_only | with_reducible apply Ends.finish | with_reducible apply Ends.next | with_reducible apply Only.ite | with_reducible apply Ends.ite | dsimp only | split | (with_reducible refine Only.foldl _ _ (fun t a ht => ?_) ?_) | (with_reducible refine Only.foldl_fst _ _ _ (fun t a ht => ?_) ?_) | (with_reducible refine Only.fst (by with_reducible assumption) ?_) | (with_reducible refine Only.snd (by with_reducible assumption) ?_)

theorem execMarkDone_only {K : List Part} {F : FieldId → Prop} {P : PlotId → Prop} {s0 : State} (f : FieldId) (s : State) (hK : Fits ([.events, .reg Reg.TLY_MARK_STAT.DONE, .reg Reg.TLY_MARK_STAT.DONE_NS, .tally] : List Part) K) (hF : F f)
    (ho : Only K F P s0 s) : Ends K F P s0 (execMarkDone f s) := by
  unfold execMarkDone
  repeat' first | with_reducible assumption | exact Fits.trans (by decide +kernel) hK | exact hF | with_reducible apply Ends.inRim | with_reducible apply State.markDid_only | with_reducible apply State.fset_only | with_reducible apply State.raise_only | with_reducible apply Ends.finish | with_reducible apply Ends.next | with_reducible apply Only.ite | with_reducible apply Ends.ite | dsimp only | split | (with_reducible refine Only.fst (by with_reducible assumption) ?_) | (with_reducible refine Only.snd (by with_reducible assumption) ?_)

end Sys2Proof.Machine
end

