-- ==== Sys2Proof/Laws/Touch/RegWrite.lean ====
section
/-! SUPPORT. What each operation of Machine/RegWrite.lean can change: the parts named, and nothing else. -/

namespace Sys2Proof.Machine

set_option Elab.async false

open Sys2Proof

theorem State.hubTake_only {K : List Part} {F : FieldId → Prop} {P : PlotId → Prop} {s0 : State} (s : State) (host : Bool) (k : RegField) (n i pos len v : Nat) (hK : Fits ([.anyHubReg] : List Part) K)
    (ho : Only K F P s0 s) : Only K F P s0 (State.hubTake s host k n i pos len v) := by
  unfold State.hubTake
  repeat' first | with_reducible assumption | exact Fits.trans (by decide +kernel) hK | with_reducible apply State.hset_only | with_reducible apply Only.ite | dsimp only | split | (with_reducible refine Only.fst (by with_reducible assumption) ?_) | (with_reducible refine Only.snd (by with_reducible assumption) ?_) | exact Fits.anyHub _ (Fits.trans (by decide +kernel) hK)

theorem State.hubMbxWrite_only {K : List Part} {F : FieldId → Prop} {P : PlotId → Prop} {s0 : State} (s : State) (host : Bool) (ep : MbxEp) (off bytes value : Nat) (hK : Fits (([.hubReg Reg.MBX_HUB_IN_META.FULL, .hubReg Reg.MBX_HUB_OUT_ACK.CODE, .hubReg Reg.MBX_HUB_OUT_ACK.DONE, .hubReg Reg.MBX_HUB_OUT_META.PENDING, .hubReg Reg.MBX_HUB_OUT_META.REFUSED, .hubSlots, .reg Reg.MBX_RIM_IN_META.FULL, .reg Reg.MBX_RIM_OUT_ACK.CODE, .reg Reg.MBX_RIM_OUT_ACK.DONE, .reg Reg.MBX_RIM_OUT_META.PENDING, .reg Reg.MBX_RIM_OUT_META.REFUSED, .slot, .plotReg Reg.MBX_PLOT_IN_META.FULL, .plotReg Reg.MBX_PLOT_OUT_ACK.CODE, .plotReg Reg.MBX_PLOT_OUT_ACK.DONE, .plotReg Reg.MBX_PLOT_OUT_META.PENDING] : List Part) ++ ([.plotReg Reg.MBX_PLOT_OUT_META.REFUSED, .rimSlots] : List Part)) K) (hF : ∀ f, F f) (hP : ∀ p, P p)
    (ho : Only K F P s0 s) : Only K F P s0 (State.hubMbxWrite s host ep off bytes value) := by
  unfold State.hubMbxWrite
  repeat' first | with_reducible assumption | exact Fits.trans (by decide +kernel) hK | exact hF | exact hP | exact hF _ | exact hP _ | with_reducible apply State.mbxInAck_only | with_reducible apply State.mbxSend_only | with_reducible apply Only.ite | dsimp only | split | (with_reducible refine Only.fst (by with_reducible assumption) ?_) | (with_reducible refine Only.snd (by with_reducible assumption) ?_)

theorem State.bootAsk_only {K : List Part} {F : FieldId → Prop} {P : PlotId → Prop} {s0 : State} (s : State) (r : BootReq) (hK : Fits ([.seed] : List Part) K)
    (ho : Only K F P s0 s) : Only K F P s0 (State.bootAsk s r) := by
  unfold State.bootAsk
  repeat' first | with_reducible assumption | exact Fits.trans (by decide +kernel) hK | with_reducible apply State.updSeed_only | with_reducible apply Only.ite | dsimp only | split | (with_reducible refine Only.fst (by with_reducible assumption) ?_) | (with_reducible refine Only.snd (by with_reducible assumption) ?_)

theorem State.hubBootWrite_only {K : List Part} {F : FieldId → Prop} {P : PlotId → Prop} {s0 : State} (s : State) (off bytes value : Nat) (hK : Fits ([.seed] : List Part) K)
    (ho : Only K F P s0 s) : Only K F P s0 (State.hubBootWrite s off bytes value) := by
  unfold State.hubBootWrite
  repeat' first | with_reducible assumption | exact Fits.trans (by decide +kernel) hK | with_reducible apply State.bootAsk_only | with_reducible apply Only.ite | dsimp only | split | (with_reducible refine Only.fst (by with_reducible assumption) ?_) | (with_reducible refine Only.snd (by with_reducible assumption) ?_)

theorem State.hubHostWrite_only {K : List Part} {F : FieldId → Prop} {P : PlotId → Prop} {s0 : State} (s : State) (off bytes value : Nat) (hK : Fits ([.hubReg Reg.HUB_EVT_IDX.CONS, .hubReg Reg.HUB_EVT_IDX.PROD, .hubReg Reg.HUB_EVT_RING.BASE, .hubReg Reg.HUB_EVT_RING.ENABLE, .hubReg Reg.HUB_EVT_RING.SIZE_LOG, .hubReg Reg.HUB_MGMT_STATUS.BUSY, .hubReg Reg.HUB_MGMT_STATUS.RESULT, .msix, .host, .reg Reg.FLD_EVT_IDX.CONS, .reg Reg.FLD_EVT_IDX.PROD, .reg Reg.FLD_EVT_RING.BASE, .reg Reg.FLD_EVT_RING.ENABLE, .reg Reg.FLD_EVT_RING.SIZE_LOG, .router] : List Part) K) (hF : ∀ f, F f)
    (ho : Only K F P s0 s) : Only K F P s0 (State.hubHostWrite s off bytes value) := by
  unfold State.hubHostWrite
  repeat' first | with_reducible assumption | exact Fits.trans (by decide +kernel) hK | exact hF | exact hF _ | with_reducible apply State.evtRing_only | with_reducible apply State.evtCons_only | with_reducible apply State.mgmtRead_only | with_reducible apply Only.ite | dsimp only | split | (with_reducible refine Only.fst (by with_reducible assumption) ?_) | (with_reducible refine Only.snd (by with_reducible assumption) ?_)

theorem State.hubInjWrite_only {K : List Part} {F : FieldId → Prop} {P : PlotId → Prop} {s0 : State} (s : State) (r off bytes value : Nat) (hK : Fits (([.free, .events, .out, .anyHubReg, .light, .hostTx, .host, .power, .hubFx, .reg Reg.HDL_ENGINE_STATUS.DARK, .reg Reg.HDL_ENGINE_STATUS.INLET_A_OK, .reg Reg.HDL_ENGINE_STATUS.INLET_B_OK, .reg Reg.HDL_ENGINE_STATUS.SRC, .reg Reg.HDL_ENGINE_STATUS.SWITCHING, .reg Reg.INJ_PT.ARM, .reg Reg.INJ_PT.DONE] : List Part) ++ ([.reg Reg.RTE_COMB_STAT.MERGED, .reg Reg.RTE_COMB_STAT.PEAK, .reg Reg.RTE_LINK_CNT.LOST, .reg Reg.RTE_LINK_CNT.NAKS, .reg Reg.RTE_LINK_CNT.REPLAYED, .reg Reg.RTE_LINK_CNT.TX_FLITS, .reg Reg.RTE_LINK_CREDIT.RES, .reg Reg.RTE_LINK_CREDIT.SHARED, .reg Reg.RTE_LINK_STATUS.PRESERVED, .reg Reg.RTE_LINK_STATUS.RESULT, .reg Reg.RTE_LINK_STATUS.STATE, .ports, .router, .tally, .hubLost, .thermal] : List Part)) K) (hF : ∀ f, F f)
    (ho : Only K F P s0 s) : Only K F P s0 (State.hubInjWrite s r off bytes value) := by
  unfold State.hubInjWrite
  repeat' first | with_reducible assumption | exact Fits.trans (by decide +kernel) hK | exact hF | exact hF _ | with_reducible apply State.hset_only | with_reducible apply State.injHubArm_only | with_reducible apply Only.ite | dsimp only | split | (with_reducible refine Only.fst (by with_reducible assumption) ?_) | (with_reducible refine Only.snd (by with_reducible assumption) ?_) | exact Fits.anyHub _ (Fits.trans (by decide +kernel) hK)

theorem State.hubEffects_only {K : List Part} {F : FieldId → Prop} {P : PlotId → Prop} {s0 : State} (s : State) (host : Bool) (govWas off bytes value : Nat) (hK : Fits (([.free, .events, .out, .anyHubReg, .msix, .light, .hostTx, .seed, .host, .hubSlots, .power, .hubFx, .reg Reg.FLD_EVT_IDX.CONS, .reg Reg.FLD_EVT_IDX.PROD, .reg Reg.FLD_EVT_RING.BASE, .reg Reg.FLD_EVT_RING.ENABLE] : List Part) ++ ([.reg Reg.FLD_EVT_RING.SIZE_LOG, .reg Reg.HDL_ENGINE_STATUS.DARK, .reg Reg.HDL_ENGINE_STATUS.INLET_A_OK, .reg Reg.HDL_ENGINE_STATUS.INLET_B_OK, .reg Reg.HDL_ENGINE_STATUS.SRC, .reg Reg.HDL_ENGINE_STATUS.SWITCHING, .reg Reg.INJ_ARITH.ARM, .reg Reg.INJ_PT.ARM, .reg Reg.INJ_PT.DONE, .reg Reg.MBX_RIM_IN_META.FULL, .reg Reg.MBX_RIM_OUT_ACK.CODE, .reg Reg.MBX_RIM_OUT_ACK.DONE, .reg Reg.MBX_RIM_OUT_META.PENDING, .reg Reg.MBX_RIM_OUT_META.REFUSED, .reg Reg.RTE_COMB_STAT.MERGED, .reg Reg.RTE_COMB_STAT.PEAK] : List Part) ++ ([.reg Reg.RTE_LINK_CNT.LOST, .reg Reg.RTE_LINK_CNT.NAKS, .reg Reg.RTE_LINK_CNT.REPLAYED, .reg Reg.RTE_LINK_CNT.TX_FLITS, .reg Reg.RTE_LINK_CREDIT.RES, .reg Reg.RTE_LINK_CREDIT.SHARED, .reg Reg.RTE_LINK_STATUS.PRESERVED, .reg Reg.RTE_LINK_STATUS.RESULT, .reg Reg.RTE_LINK_STATUS.STATE, .reg Reg.THM_FIELD_STATUS.POINT, .slot, .plotReg Reg.MBX_PLOT_IN_META.FULL, .plotReg Reg.MBX_PLOT_OUT_ACK.CODE, .plotReg Reg.MBX_PLOT_OUT_ACK.DONE, .plotReg Reg.MBX_PLOT_OUT_META.PENDING, .plotReg Reg.MBX_PLOT_OUT_META.REFUSED] : List Part) ++ ([.ports, .router, .gateway, .sheaf, .health, .mirror, .tally, .hubLost, .rimSlots, .thermal, .rimFx] : List Part)) K) (hF : ∀ f, F f) (hP : ∀ p, P p)
    (ho : Only K F P s0 s) : Only K F P s0 (State.hubEffects s host govWas off bytes value) := by
  unfold State.hubEffects
  repeat' first | with_reducible assumption | exact Fits.trans (by decide +kernel) hK | exact hF | exact hP | exact hF _ | exact hP _ | with_reducible apply State.hubMbxWrite_only | with_reducible apply State.hubBootWrite_only | with_reducible apply State.hubHostWrite_only | with_reducible apply State.hubInjWrite_only | with_reducible apply State.injUnlockWrite_only | with_reducible apply State.modeFromReg_only | with_reducible apply State.limitChange_only | with_reducible apply State.governOff_only | with_reducible apply State.retrainDo_only | with_reducible apply Only.ite | dsimp only | split | (with_reducible refine Only.foldl _ _ (fun t a ht => ?_) ?_) | (with_reducible refine Only.foldl_fst _ _ _ (fun t a ht => ?_) ?_) | (with_reducible refine Only.fst (by with_reducible assumption) ?_) | (with_reducible refine Only.snd (by with_reducible assumption) ?_) | exact Fits.anyHub _ (Fits.trans (by decide +kernel) hK)

theorem State.hubWrite_only {K : List Part} {F : FieldId → Prop} {P : PlotId → Prop} {s0 : State} (s : State) (host : Bool) (off bytes value : Nat) (hK : Fits (([.free, .events, .out, .anyHubReg, .msix, .light, .hostTx, .seed, .host, .hubSlots, .power, .hubFx, .reg Reg.FLD_EVT_IDX.CONS, .reg Reg.FLD_EVT_IDX.PROD, .reg Reg.FLD_EVT_RING.BASE, .reg Reg.FLD_EVT_RING.ENABLE] : List Part) ++ ([.reg Reg.FLD_EVT_RING.SIZE_LOG, .reg Reg.HDL_ENGINE_STATUS.DARK, .reg Reg.HDL_ENGINE_STATUS.INLET_A_OK, .reg Reg.HDL_ENGINE_STATUS.INLET_B_OK, .reg Reg.HDL_ENGINE_STATUS.SRC, .reg Reg.HDL_ENGINE_STATUS.SWITCHING, .reg Reg.INJ_ARITH.ARM, .reg Reg.INJ_PT.ARM, .reg Reg.INJ_PT.DONE, .reg Reg.MBX_RIM_IN_META.FULL, .reg Reg.MBX_RIM_OUT_ACK.CODE, .reg Reg.MBX_RIM_OUT_ACK.DONE, .reg Reg.MBX_RIM_OUT_META.PENDING, .reg Reg.MBX_RIM_OUT_META.REFUSED, .reg Reg.RTE_COMB_STAT.MERGED, .reg Reg.RTE_COMB_STAT.PEAK] : List Part) ++ ([.reg Reg.RTE_LINK_CNT.LOST, .reg Reg.RTE_LINK_CNT.NAKS, .reg Reg.RTE_LINK_CNT.REPLAYED, .reg Reg.RTE_LINK_CNT.TX_FLITS, .reg Reg.RTE_LINK_CREDIT.RES, .reg Reg.RTE_LINK_CREDIT.SHARED, .reg Reg.RTE_LINK_STATUS.PRESERVED, .reg Reg.RTE_LINK_STATUS.RESULT, .reg Reg.RTE_LINK_STATUS.STATE, .reg Reg.THM_FIELD_STATUS.POINT, .slot, .plotReg Reg.MBX_PLOT_IN_META.FULL, .plotReg Reg.MBX_PLOT_OUT_ACK.CODE, .plotReg Reg.MBX_PLOT_OUT_ACK.DONE, .plotReg Reg.MBX_PLOT_OUT_META.PENDING, .plotReg Reg.MBX_PLOT_OUT_META.REFUSED] : List Part) ++ ([.ports, .router, .gateway, .sheaf, .health, .mirror, .tally, .hubLost, .rimSlots, .thermal, .rimFx] : List Part)) K) (hF : ∀ f, F f) (hP : ∀ p, P p)
    (ho : Only K F P s0 s) : Only K F P s0 (State.hubWrite s host off bytes value) := by
  unfold State.hubWrite
  repeat' first | with_reducible assumption | exact Fits.trans (by decide +kernel) hK | exact hF | exact hP | exact hF _ | exact hP _ | with_reducible apply State.raiseHub_only | with_reducible apply State.hubTake_only | with_reducible apply State.hubEffects_only | with_reducible apply Only.ite | dsimp only | split | (with_reducible refine Only.foldl _ _ (fun t a ht => ?_) ?_) | (with_reducible refine Only.foldl_fst _ _ _ (fun t a ht => ?_) ?_) | (with_reducible refine Only.fst (by with_reducible assumption) ?_) | (with_reducible refine Only.snd (by with_reducible assumption) ?_) | exact Fits.anyHub _ (Fits.trans (by decide +kernel) hK)

theorem State.rimTake_only {K : List Part} {F : FieldId → Prop} {P : PlotId → Prop} {s0 : State} (s : State) (f : FieldId) (host : Bool) (k : RegField) (n i pos len v : Nat) (hK : Fits ([.anyReg] : List Part) K) (hF : F f)
    (ho : Only K F P s0 s) : Only K F P s0 (State.rimTake s f host k n i pos len v) := by
  unfold State.rimTake
  repeat' first | with_reducible assumption | exact Fits.trans (by decide +kernel) hK | exact hF | with_reducible apply State.fset_only | with_reducible apply Only.ite | dsimp only | split | (with_reducible refine Only.fst (by with_reducible assumption) ?_) | (with_reducible refine Only.snd (by with_reducible assumption) ?_) | exact Fits.anyRim _ (Fits.trans (by decide +kernel) hK)

theorem State.fldEffects_only {K : List Part} {F : FieldId → Prop} {P : PlotId → Prop} {s0 : State} (s : State) (f : FieldId) (host : Bool) (off bytes value : Nat) (hK : Fits (([.events, .hubReg Reg.HUB_EVT_IDX.CONS, .hubReg Reg.HUB_EVT_IDX.PROD, .hubReg Reg.HUB_EVT_RING.BASE, .hubReg Reg.HUB_EVT_RING.ENABLE, .hubReg Reg.HUB_EVT_RING.SIZE_LOG, .msix, .reg Reg.FLD_ALLOT.ID, .reg Reg.FLD_FALLOW_RUN.RUN, .reg Reg.FLD_MESH_STAT.MCAST_SKIPPED, .reg Reg.FLD_WITNESS_CTL.ACTIVE, .reg Reg.FLD_WITNESS_CTL.POISON_ACTIVE, .reg Reg.GWY_ALLOT_HALT.HALTED, .reg Reg.INJ_ARITH.ARM, .reg Reg.INJ_ARITH.NOFIRE, .drill] : List Part) ++ ([.boot, .plotReg Reg.PLT_BOOT.STATUS, .plotReg Reg.PLT_DOORBELL.PENDING, .memu, .far (.reg Reg.FLD_EVT_IDX.CONS), .far (.reg Reg.FLD_EVT_IDX.PROD), .far (.reg Reg.FLD_EVT_RING.BASE), .far (.reg Reg.FLD_EVT_RING.ENABLE), .far (.reg Reg.FLD_EVT_RING.SIZE_LOG)] : List Part)) K) (hF : F f) (hP : ∀ p, P p)
    (ho : Only K F P s0 s) : Only K F P s0 (State.fldEffects s f host off bytes value) := by
  unfold State.fldEffects
  repeat' first | with_reducible assumption | exact Fits.trans (by decide +kernel) hK | exact hF | exact hP | exact hP _ | with_reducible apply State.allotWrite_only | with_reducible apply State.evtRing_far | with_reducible apply State.evtCons_far | with_reducible apply State.doorbellRing_only | with_reducible apply State.makeFallow_only | with_reducible apply Only.ite | dsimp only | split | (with_reducible refine Only.foldl _ _ (fun t a ht => ?_) ?_) | (with_reducible refine Only.foldl_fst _ _ _ (fun t a ht => ?_) ?_) | (with_reducible refine Only.fst (by with_reducible assumption) ?_) | (with_reducible refine Only.snd (by with_reducible assumption) ?_)

theorem State.linkEffects_only {K : List Part} {F : FieldId → Prop} {P : PlotId → Prop} {s0 : State} (s : State) (f : FieldId) (off bytes value : Nat) (hK : Fits (([.events, .out, .light, .reg Reg.HDL_ENGINE_CTL.NOW, .reg Reg.HDL_ENGINE_CTL.REQ, .reg Reg.HDL_ENGINE_CTL.TARGET, .reg Reg.HDL_PORT_CTL.TX_MODE_REQ, .reg Reg.HDL_PORT_STATUS.TX_MODE, .reg Reg.INJ_PT.ARM, .reg Reg.INJ_PT.DONE, .reg Reg.RTE_COMB_STAT.MERGED, .reg Reg.RTE_COMB_STAT.PEAK, .reg Reg.RTE_LINK_CNT.LOST, .reg Reg.RTE_LINK_CNT.NAKS, .reg Reg.RTE_LINK_CNT.REPLAYED, .reg Reg.RTE_LINK_CNT.RETRAINS] : List Part) ++ ([.reg Reg.RTE_LINK_CNT.TX_FLITS, .reg Reg.RTE_LINK_CREDIT.RES, .reg Reg.RTE_LINK_CREDIT.SHARED, .reg Reg.RTE_LINK_CTL.ENABLE, .reg Reg.RTE_LINK_STATUS.PRESERVED, .reg Reg.RTE_LINK_STATUS.RESULT, .reg Reg.RTE_LINK_STATUS.STATE, .ports, .router, .tally] : List Part)) K) (hF : F f)
    (ho : Only K F P s0 s) : Only K F P s0 (State.linkEffects s f off bytes value) := by
  unfold State.linkEffects
  repeat' first | with_reducible assumption | exact Fits.trans (by decide +kernel) hK | exact hF | with_reducible apply State.fset_only | with_reducible apply State.switchQueue_only | with_reducible apply State.txModeUpdate_only | with_reducible apply State.updPort_only | with_reducible apply State.linkDisable_only | with_reducible apply State.linkStart_only | with_reducible apply State.linkRetry_only | with_reducible apply Only.ite | dsimp only | split | (with_reducible refine Only.foldl _ _ (fun t a ht => ?_) ?_) | (with_reducible refine Only.foldl_fst _ _ _ (fun t a ht => ?_) ?_) | (with_reducible refine Only.fst (by with_reducible assumption) ?_) | (with_reducible refine Only.snd (by with_reducible assumption) ?_)

theorem State.fabricEffects_only {K : List Part} {F : FieldId → Prop} {P : PlotId → Prop} {s0 : State} (s : State) (f : FieldId) (host : Bool) (off bytes value : Nat) (hK : Fits (([.events, .out, .hbm, .hbmErr, .reg Reg.FLD_MESH_STAT.MCAST_SKIPPED, .reg Reg.GWY_ALLOT_HALT.HALTED, .reg Reg.GWY_STAT.ABSORBED, .reg Reg.GWY_STAT.FLUSHES, .reg Reg.HDL_PORT_STATUS.RX_MODE, .reg Reg.HDL_PORT_STATUS.TX_MODE, .reg Reg.INJ_PT.ARM, .reg Reg.INJ_PT.DONE, .reg Reg.MEM_ECC_STAT.CORRECTED, .reg Reg.MEM_ECC_STAT.LAST_ADDR, .reg Reg.MEM_ECC_STAT.POISON_WRITES, .reg Reg.MEM_ECC_STAT.UNCORRECTED] : List Part) ++ ([.reg Reg.MEM_REPAIR_ENTRY.BANK, .reg Reg.MEM_REPAIR_ENTRY.CHANNEL, .reg Reg.MEM_REPAIR_ENTRY.PCH, .reg Reg.MEM_REPAIR_ENTRY.REASON, .reg Reg.MEM_REPAIR_ENTRY.RESULT, .reg Reg.MEM_REPAIR_ENTRY.ROW, .reg Reg.MEM_REPAIR_ENTRY.STACK, .reg Reg.MEM_REPAIR_ENTRY.VALID, .reg Reg.MIR_LOAD_STATUS.DIGEST, .reg Reg.MIR_LOAD_STATUS.GRANULES, .reg Reg.MIR_LOAD_STATUS.RESULT, .reg Reg.MIR_LOAD_STATUS.STATE, .reg Reg.MIR_LOAD_STATUS.USING_SRC1, .reg Reg.MIR_PART.ENABLE, .reg Reg.MIR_PART_STATUS.RESULT, .reg Reg.MIR_PART_STATUS.STATE] : List Part) ++ ([.reg Reg.MIR_SRC_STATUS.ACKED0, .reg Reg.MIR_SRC_STATUS.ACKED1, .reg Reg.MIR_SRC_STATUS.BREAKS, .reg Reg.MIR_SRC_STATUS.STATE, .reg Reg.RTE_COMB_STAT.MERGED, .reg Reg.RTE_COMB_STAT.PEAK, .reg Reg.RTE_DISC_STATUS.REFUSED, .reg Reg.RTE_LINK_CNT.LOST, .reg Reg.RTE_LINK_CNT.NAKS, .reg Reg.RTE_LINK_CNT.REPLAYED, .reg Reg.RTE_LINK_CNT.RETRAINS, .reg Reg.RTE_LINK_CNT.TX_FLITS, .reg Reg.RTE_LINK_CREDIT.RES, .reg Reg.RTE_LINK_CREDIT.SHARED, .reg Reg.RTE_LINK_STATUS.PRESERVED, .reg Reg.RTE_LINK_STATUS.RESULT] : List Part) ++ ([.reg Reg.RTE_LINK_STATUS.STATE, .reg Reg.RTE_QUAL_RESULT.RX_PASS, .reg Reg.RTE_QUAL_RESULT.TX_PASS, .reg Reg.RTE_QUAL_RESULT.WORST, .reg Reg.RTE_QUAL_RESULT.WORST_E, .reg Reg.RTE_TABLE_STATUS.GEN, .reg Reg.RTE_TABLE_STATUS.INDEX, .reg Reg.RTE_TABLE_STATUS.PENDING, .reg Reg.RTE_TABLE_STATUS.RESULT, .reg Reg.RTE_TABLE_STATUS.SEALED, .reg Reg.RTE_TABLE_STATUS.TABLE, .reg Reg.SHF_GROUP_STATUS.DONE_SEQ, .reg Reg.SHF_GROUP_STATUS.EPOCH, .reg Reg.SHF_GROUP_STATUS.GROUP_ID, .reg Reg.SHF_GROUP_STATUS.HSET, .reg Reg.SHF_GROUP_STATUS.MEMBERS] : List Part) ++ ([.reg Reg.SHF_GROUP_STATUS.NEXT_SEQ, .reg Reg.SHF_GROUP_STATUS.RESULT, .reg Reg.SHF_GROUP_STATUS.SCRATCH_REQ, .reg Reg.SHF_GROUP_STATUS.STATE, .reg Reg.SHF_LATE_HIST.BUCKET, .reg Reg.SHF_STAT.DONE, .reg Reg.SHF_STAT.FAILED, .drill, .queue, .boot, .plotReg Reg.PLT_BOOT.STATUS, .plotReg Reg.PLT_DOORBELL.PENDING, .memu, .ports, .router, .gateway] : List Part) ++ ([.sheaf, .health, .mirror, .tally] : List Part)) K) (hF : F f) (hP : ∀ p, P p)
    (ho : Only K F P s0 s) : Only K F P s0 (State.fabricEffects s f host off bytes value) := by
  unfold State.fabricEffects
  repeat' first | with_reducible assumption | exact Fits.trans (by decide +kernel) hK | exact hF | exact hP | exact hP _ | with_reducible apply State.discApprove_only | with_reducible apply State.seal_only | with_reducible apply State.allotHalt_only | with_reducible apply State.redRelease_only | with_reducible apply State.shfRegister_only | with_reducible apply State.shfReform_only | with_reducible apply State.shfRelease_only | with_reducible apply Only.ite | dsimp only | split | (with_reducible refine Only.foldl _ _ (fun t a ht => ?_) ?_) | (with_reducible refine Only.foldl_fst _ _ _ (fun t a ht => ?_) ?_) | (with_reducible refine Only.fst (by with_reducible assumption) ?_) | (with_reducible refine Only.snd (by with_reducible assumption) ?_)

theorem State.congTake_only {K : List Part} {F : FieldId → Prop} {P : PlotId → Prop} {s0 : State} (s old : State) (f : FieldId) (hK : Fits ([.router] : List Part) K) (hF : F f)
    (ho : Only K F P s0 s) : Only K F P s0 (State.congTake s old f) := by
  unfold State.congTake
  repeat' first | with_reducible assumption | exact Fits.trans (by decide +kernel) hK | exact hF | with_reducible apply State.updRouter_only | with_reducible apply Only.ite | dsimp only | split | (with_reducible refine Only.fst (by with_reducible assumption) ?_) | (with_reducible refine Only.snd (by with_reducible assumption) ?_)

theorem State.mirEffects_only {K : List Part} {F : FieldId → Prop} {P : PlotId → Prop} {s0 : State} (s : State) (f : FieldId) (host : Bool) (off bytes value : Nat) (hK : Fits ([.events, .reg Reg.INJ_PT.ARM, .reg Reg.INJ_PT.DONE, .reg Reg.MIR_LOAD_STATUS.DIGEST, .reg Reg.MIR_LOAD_STATUS.EPOCH, .reg Reg.MIR_LOAD_STATUS.GRANULES, .reg Reg.MIR_LOAD_STATUS.RESULT, .reg Reg.MIR_LOAD_STATUS.STATE, .reg Reg.MIR_LOAD_STATUS.USING_SRC1, .router, .gateway, .mirror] : List Part) K) (hF : F f)
    (ho : Only K F P s0 s) : Only K F P s0 (State.mirEffects s f host off bytes value) := by
  unfold State.mirEffects
  repeat' first | with_reducible assumption | exact Fits.trans (by decide +kernel) hK | exact hF | with_reducible apply State.updMir_only | with_reducible apply State.loadStart_only | with_reducible apply State.loadAbort_only | with_reducible apply Only.ite | dsimp only | split | (with_reducible refine Only.foldl _ _ (fun t a ht => ?_) ?_) | (with_reducible refine Only.foldl_fst _ _ _ (fun t a ht => ?_) ?_) | (with_reducible refine Only.fst (by with_reducible assumption) ?_) | (with_reducible refine Only.snd (by with_reducible assumption) ?_)

theorem State.rimOtherEffects_only {K : List Part} {F : FieldId → Prop} {P : PlotId → Prop} {s0 : State} (s : State) (f : FieldId) (host : Bool) (off bytes value : Nat) (hK : Fits (([.hubReg Reg.MBX_HUB_IN_META.FULL, .hubReg Reg.MBX_HUB_OUT_ACK.CODE, .hubReg Reg.MBX_HUB_OUT_ACK.DONE, .hubReg Reg.MBX_HUB_OUT_META.PENDING, .hubReg Reg.MBX_HUB_OUT_META.REFUSED, .hubSlots, .reg Reg.HLT_SCORE.EXPEL, .reg Reg.HLT_SCORE.HARD, .reg Reg.HLT_SCORE.RUN, .reg Reg.TLY_MARK_CTL.ARMED, .reg Reg.TLY_MARK_CTL.PERIOD, .reg Reg.TLY_MARK_NEXT.NEXT, .reg Reg.TLY_MARK_STAT.RESULT, .far (.reg Reg.MBX_RIM_IN_META.FULL), .far (.reg Reg.MBX_RIM_OUT_ACK.CODE), .far (.reg Reg.MBX_RIM_OUT_ACK.DONE)] : List Part) ++ ([.far (.reg Reg.MBX_RIM_OUT_META.PENDING), .far (.reg Reg.MBX_RIM_OUT_META.REFUSED), .far .slot, .far (.plotReg Reg.MBX_PLOT_IN_META.FULL), .far (.plotReg Reg.MBX_PLOT_OUT_ACK.CODE), .far (.plotReg Reg.MBX_PLOT_OUT_ACK.DONE), .far (.plotReg Reg.MBX_PLOT_OUT_META.PENDING), .far (.plotReg Reg.MBX_PLOT_OUT_META.REFUSED), .far .rimSlots] : List Part)) K) (hF : F f)
    (ho : Only K F P s0 s) : Only K F P s0 (State.rimOtherEffects s f host off bytes value) := by
  unfold State.rimOtherEffects
  repeat' first | with_reducible assumption | exact Fits.trans (by decide +kernel) hK | exact hF | with_reducible apply State.expelClear_only | with_reducible apply State.markNext_only | with_reducible apply State.markCtl_only | with_reducible apply State.mbxInAck_far | with_reducible apply State.mbxSend_far | with_reducible apply Only.ite | dsimp only | split | (with_reducible refine Only.foldl _ _ (fun t a ht => ?_) ?_) | (with_reducible refine Only.foldl_fst _ _ _ (fun t a ht => ?_) ?_) | (with_reducible refine Only.fst (by with_reducible assumption) ?_) | (with_reducible refine Only.snd (by with_reducible assumption) ?_)

theorem State.rimInjWrite_only {K : List Part} {F : FieldId → Prop} {P : PlotId → Prop} {s0 : State} (s : State) (f : FieldId) (off bytes value : Nat) (hK : Fits (([.events, .out, .hubReg Reg.HUB_FIELD_STATE.HBM0_OK, .hubReg Reg.HUB_FIELD_STATE.HBM1_OK, .hubReg Reg.HUB_FIELD_STATE.STATE, .hubReg Reg.MBX_HUB_IN_META.FULL, .hubReg Reg.MBX_HUB_OUT_ACK.CODE, .hubReg Reg.MBX_HUB_OUT_ACK.DONE, .hubReg Reg.MBX_HUB_OUT_META.PENDING, .hubSlots, .store, .bin, .storeErr, .binErr, .anyReg, .drill] : List Part) ++ ([.dr, .queue, .cq, .tine, .samples, .scrub, .notify, .xlines, .boot, .slot, .anyPlotReg, .memu, .hard, .ports, .router, .gateway] : List Part) ++ ([.health, .tally, .thermal, .rimFx, .far (.reg Reg.MBX_RIM_IN_META.FULL), .far (.reg Reg.MBX_RIM_OUT_ACK.CODE), .far (.reg Reg.MBX_RIM_OUT_ACK.DONE), .far (.reg Reg.MBX_RIM_OUT_META.PENDING), .far .slot, .far (.plotReg Reg.MBX_PLOT_IN_META.FULL), .far (.plotReg Reg.MBX_PLOT_OUT_ACK.CODE), .far (.plotReg Reg.MBX_PLOT_OUT_ACK.DONE), .far (.plotReg Reg.MBX_PLOT_OUT_META.PENDING), .far .rimSlots] : List Part)) K) (hF : F f) (hP : ∀ p, P p)
    (ho : Only K F P s0 s) : Only K F P s0 (State.rimInjWrite s f off bytes value) := by
  unfold State.rimInjWrite
  repeat' first | with_reducible assumption | exact Fits.trans (by decide +kernel) hK | exact hF | exact hP | exact hP _ | with_reducible apply State.fset_only | with_reducible apply State.injArithArm_only | with_reducible apply State.injArm_only | with_reducible apply Only.ite | dsimp only | split | (with_reducible refine Only.foldl _ _ (fun t a ht => ?_) ?_) | (with_reducible refine Only.foldl_fst _ _ _ (fun t a ht => ?_) ?_) | (with_reducible refine Only.fst (by with_reducible assumption) ?_) | (with_reducible refine Only.snd (by with_reducible assumption) ?_) | exact Fits.anyRim _ (Fits.trans (by decide +kernel) hK) | exact Fits.anyPlot _ (Fits.trans (by decide +kernel) hK)

theorem State.rimWrite_only {K : List Part} {F : FieldId → Prop} {P : PlotId → Prop} {s0 : State} (s : State) (f : FieldId) (host : Bool) (off bytes value : Nat) (hK : Fits (([.events, .out, .hubReg Reg.HUB_EVT_IDX.CONS, .hubReg Reg.HUB_EVT_IDX.PROD, .hubReg Reg.HUB_EVT_RING.BASE, .hubReg Reg.HUB_EVT_RING.ENABLE, .hubReg Reg.HUB_EVT_RING.SIZE_LOG, .hubReg Reg.HUB_FIELD_STATE.HBM0_OK, .hubReg Reg.HUB_FIELD_STATE.HBM1_OK, .hubReg Reg.HUB_FIELD_STATE.STATE, .hubReg Reg.MBX_HUB_IN_META.FULL, .hubReg Reg.MBX_HUB_OUT_ACK.CODE, .hubReg Reg.MBX_HUB_OUT_ACK.DONE, .hubReg Reg.MBX_HUB_OUT_META.PENDING, .hubReg Reg.MBX_HUB_OUT_META.REFUSED, .msix] : List Part) ++ ([.light, .hubSlots, .hbm, .store, .bin, .hbmErr, .storeErr, .binErr, .anyReg, .drill, .dr, .queue, .cq, .tine, .samples, .scrub] : List Part) ++ ([.notify, .xlines, .boot, .slot, .anyPlotReg, .memu, .hard, .ports, .router, .gateway, .sheaf, .health, .mirror, .tally, .thermal, .rimFx] : List Part) ++ ([.far (.reg Reg.FLD_EVT_IDX.CONS), .far (.reg Reg.FLD_EVT_IDX.PROD), .far (.reg Reg.FLD_EVT_RING.BASE), .far (.reg Reg.FLD_EVT_RING.ENABLE), .far (.reg Reg.FLD_EVT_RING.SIZE_LOG), .far (.reg Reg.MBX_RIM_IN_META.FULL), .far (.reg Reg.MBX_RIM_OUT_ACK.CODE), .far (.reg Reg.MBX_RIM_OUT_ACK.DONE), .far (.reg Reg.MBX_RIM_OUT_META.PENDING), .far (.reg Reg.MBX_RIM_OUT_META.REFUSED), .far .slot, .far (.plotReg Reg.MBX_PLOT_IN_META.FULL), .far (.plotReg Reg.MBX_PLOT_OUT_ACK.CODE), .far (.plotReg Reg.MBX_PLOT_OUT_ACK.DONE), .far (.plotReg Reg.MBX_PLOT_OUT_META.PENDING), .far (.plotReg Reg.MBX_PLOT_OUT_META.REFUSED)] : List Part) ++ ([.far .rimSlots] : List Part)) K) (hF : F f) (hP : ∀ p, P p)
    (ho : Only K F P s0 s) : Only K F P s0 (State.rimWrite s f host off bytes value) := by
  unfold State.rimWrite
  repeat' first | with_reducible assumption | exact Fits.trans (by decide +kernel) hK | exact hF | exact hP | exact hP _ | with_reducible apply State.raiseHub_only | with_reducible apply State.rimTake_only | with_reducible apply State.fldEffects_only | with_reducible apply State.congTake_only | with_reducible apply State.linkEffects_only | with_reducible apply State.rimInjWrite_only | with_reducible apply State.rimOtherEffects_only | with_reducible apply State.mirEffects_only | with_reducible apply State.fabricEffects_only | with_reducible apply Only.ite | dsimp only | split | (with_reducible refine Only.foldl _ _ (fun t a ht => ?_) ?_) | (with_reducible refine Only.foldl_fst _ _ _ (fun t a ht => ?_) ?_) | (with_reducible refine Only.fst (by with_reducible assumption) ?_) | (with_reducible refine Only.snd (by with_reducible assumption) ?_) | exact Fits.anyRim _ (Fits.trans (by decide +kernel) hK) | exact Fits.anyPlot _ (Fits.trans (by decide +kernel) hK)

theorem State.fieldWrite_only {K : List Part} {F : FieldId → Prop} {P : PlotId → Prop} {s0 : State} (s : State) (f : FieldId) (host : Bool) (off bytes value : Nat) (hK : Fits (([.events, .out, .hubReg Reg.HUB_EVT_IDX.CONS, .hubReg Reg.HUB_EVT_IDX.PROD, .hubReg Reg.HUB_EVT_RING.BASE, .hubReg Reg.HUB_EVT_RING.ENABLE, .hubReg Reg.HUB_EVT_RING.SIZE_LOG, .hubReg Reg.HUB_FIELD_STATE.HBM0_OK, .hubReg Reg.HUB_FIELD_STATE.HBM1_OK, .hubReg Reg.HUB_FIELD_STATE.STATE, .hubReg Reg.MBX_HUB_IN_META.FULL, .hubReg Reg.MBX_HUB_OUT_ACK.CODE, .hubReg Reg.MBX_HUB_OUT_ACK.DONE, .hubReg Reg.MBX_HUB_OUT_META.PENDING, .hubReg Reg.MBX_HUB_OUT_META.REFUSED, .msix] : List Part) ++ ([.light, .hubSlots, .hbm, .store, .bin, .hbmErr, .storeErr, .binErr, .anyReg, .drill, .dr, .queue, .cq, .tine, .samples, .scrub] : List Part) ++ ([.notify, .xlines, .boot, .slot, .anyPlotReg, .memu, .hard, .ports, .router, .gateway, .sheaf, .health, .mirror, .tally, .thermal, .rimFx] : List Part) ++ ([.far (.reg Reg.FLD_EVT_IDX.CONS), .far (.reg Reg.FLD_EVT_IDX.PROD), .far (.reg Reg.FLD_EVT_RING.BASE), .far (.reg Reg.FLD_EVT_RING.ENABLE), .far (.reg Reg.FLD_EVT_RING.SIZE_LOG), .far (.reg Reg.MBX_RIM_IN_META.FULL), .far (.reg Reg.MBX_RIM_OUT_ACK.CODE), .far (.reg Reg.MBX_RIM_OUT_ACK.DONE), .far (.reg Reg.MBX_RIM_OUT_META.PENDING), .far (.reg Reg.MBX_RIM_OUT_META.REFUSED), .far .slot, .far (.plotReg Reg.MBX_PLOT_IN_META.FULL), .far (.plotReg Reg.MBX_PLOT_OUT_ACK.CODE), .far (.plotReg Reg.MBX_PLOT_OUT_ACK.DONE), .far (.plotReg Reg.MBX_PLOT_OUT_META.PENDING), .far (.plotReg Reg.MBX_PLOT_OUT_META.REFUSED)] : List Part) ++ ([.far .rimSlots] : List Part)) K) (hF : F f) (hP : ∀ p, P p)
    (ho : Only K F P s0 s) : Only K F P s0 (State.fieldWrite s f host off bytes value) := by
  unfold State.fieldWrite
  repeat' first | with_reducible assumption | exact Fits.trans (by decide +kernel) hK | exact hF | exact hP | exact hP _ | with_reducible apply State.rimWrite_only | with_reducible apply State.plotWrite_only | with_reducible apply State.binWindowWrite_only | with_reducible apply Only.ite | dsimp only | split | (with_reducible refine Only.fst (by with_reducible assumption) ?_) | (with_reducible refine Only.snd (by with_reducible assumption) ?_) | exact Fits.anyRim _ (Fits.trans (by decide +kernel) hK) | exact Fits.anyPlot _ (Fits.trans (by decide +kernel) hK)

theorem State.fieldWrite_all {K : List Part} {F : FieldId → Prop} {P : PlotId → Prop} {s0 : State} (s : State) (f : FieldId) (host : Bool) (off bytes value : Nat) (hK : Fits ((([.events, .out, .hubReg Reg.HUB_EVT_IDX.CONS, .hubReg Reg.HUB_EVT_IDX.PROD, .hubReg Reg.HUB_EVT_RING.BASE, .hubReg Reg.HUB_EVT_RING.ENABLE, .hubReg Reg.HUB_EVT_RING.SIZE_LOG, .hubReg Reg.HUB_FIELD_STATE.HBM0_OK, .hubReg Reg.HUB_FIELD_STATE.HBM1_OK, .hubReg Reg.HUB_FIELD_STATE.STATE, .hubReg Reg.MBX_HUB_IN_META.FULL, .hubReg Reg.MBX_HUB_OUT_ACK.CODE, .hubReg Reg.MBX_HUB_OUT_ACK.DONE, .hubReg Reg.MBX_HUB_OUT_META.PENDING, .hubReg Reg.MBX_HUB_OUT_META.REFUSED, .msix] : List Part) ++ ([.light, .hubSlots, .hbm, .store, .bin, .hbmErr, .storeErr, .binErr, .anyReg, .drill, .dr, .queue, .cq, .tine, .samples, .scrub] : List Part) ++ ([.notify, .xlines, .boot, .slot, .anyPlotReg, .memu, .hard, .ports, .router, .gateway, .sheaf, .health, .mirror, .tally, .thermal, .rimFx] : List Part) ++ ([.far (.reg Reg.FLD_EVT_IDX.CONS), .far (.reg Reg.FLD_EVT_IDX.PROD), .far (.reg Reg.FLD_EVT_RING.BASE), .far (.reg Reg.FLD_EVT_RING.ENABLE), .far (.reg Reg.FLD_EVT_RING.SIZE_LOG), .far (.reg Reg.MBX_RIM_IN_META.FULL), .far (.reg Reg.MBX_RIM_OUT_ACK.CODE), .far (.reg Reg.MBX_RIM_OUT_ACK.DONE), .far (.reg Reg.MBX_RIM_OUT_META.PENDING), .far (.reg Reg.MBX_RIM_OUT_META.REFUSED), .far .slot, .far (.plotReg Reg.MBX_PLOT_IN_META.FULL), .far (.plotReg Reg.MBX_PLOT_OUT_ACK.CODE), .far (.plotReg Reg.MBX_PLOT_OUT_ACK.DONE), .far (.plotReg Reg.MBX_PLOT_OUT_META.PENDING), .far (.plotReg Reg.MBX_PLOT_OUT_META.REFUSED)] : List Part) ++ ([.far .rimSlots] : List Part)).map Part.anear) K) (hF : ∀ f, F f) (hP : ∀ p, P p)
    (ho : Only K F P s0 s) : Only K F P s0 (State.fieldWrite s f host off bytes value) :=
  ho.trans (Only.near (l := (([.events, .out, .hubReg Reg.HUB_EVT_IDX.CONS, .hubReg Reg.HUB_EVT_IDX.PROD, .hubReg Reg.HUB_EVT_RING.BASE, .hubReg Reg.HUB_EVT_RING.ENABLE, .hubReg Reg.HUB_EVT_RING.SIZE_LOG, .hubReg Reg.HUB_FIELD_STATE.HBM0_OK, .hubReg Reg.HUB_FIELD_STATE.HBM1_OK, .hubReg Reg.HUB_FIELD_STATE.STATE, .hubReg Reg.MBX_HUB_IN_META.FULL, .hubReg Reg.MBX_HUB_OUT_ACK.CODE, .hubReg Reg.MBX_HUB_OUT_ACK.DONE, .hubReg Reg.MBX_HUB_OUT_META.PENDING, .hubReg Reg.MBX_HUB_OUT_META.REFUSED, .msix] : List Part) ++ ([.light, .hubSlots, .hbm, .store, .bin, .hbmErr, .storeErr, .binErr, .anyReg, .drill, .dr, .queue, .cq, .tine, .samples, .scrub] : List Part) ++ ([.notify, .xlines, .boot, .slot, .anyPlotReg, .memu, .hard, .ports, .router, .gateway, .sheaf, .health, .mirror, .tally, .thermal, .rimFx] : List Part) ++ ([.far (.reg Reg.FLD_EVT_IDX.CONS), .far (.reg Reg.FLD_EVT_IDX.PROD), .far (.reg Reg.FLD_EVT_RING.BASE), .far (.reg Reg.FLD_EVT_RING.ENABLE), .far (.reg Reg.FLD_EVT_RING.SIZE_LOG), .far (.reg Reg.MBX_RIM_IN_META.FULL), .far (.reg Reg.MBX_RIM_OUT_ACK.CODE), .far (.reg Reg.MBX_RIM_OUT_ACK.DONE), .far (.reg Reg.MBX_RIM_OUT_META.PENDING), .far (.reg Reg.MBX_RIM_OUT_META.REFUSED), .far .slot, .far (.plotReg Reg.MBX_PLOT_IN_META.FULL), .far (.plotReg Reg.MBX_PLOT_OUT_ACK.CODE), .far (.plotReg Reg.MBX_PLOT_OUT_ACK.DONE), .far (.plotReg Reg.MBX_PLOT_OUT_META.PENDING), .far (.plotReg Reg.MBX_PLOT_OUT_META.REFUSED)] : List Part) ++ ([.far .rimSlots] : List Part))) (State.fieldWrite_only s f host off bytes value (Fits.refl _) trivial (fun _ => trivial) (Only.refl _ _ _ _)) hK hF hP)

theorem State.spaceWrite_only {K : List Part} {F : FieldId → Prop} {P : PlotId → Prop} {s0 : State} (s : State) (host : Bool) (sp : Space) (off bytes value : Nat) (hK : Fits (([.free, .events, .out, .anyHubReg, .msix, .light, .hostTx, .seed, .host, .hubSlots, .power, .hubFx, .hbm, .store, .bin, .hbmErr] : List Part) ++ ([.storeErr, .binErr, .anyReg, .drill, .dr, .queue, .cq, .tine, .samples, .scrub, .notify, .xlines, .boot, .slot, .anyPlotReg, .memu] : List Part) ++ ([.hard, .ports, .router, .gateway, .sheaf, .health, .mirror, .tally, .hubLost, .rimSlots, .thermal, .rimFx] : List Part)) K) (hF : ∀ f, F f) (hP : ∀ p, P p)
    (ho : Only K F P s0 s) : Only K F P s0 (State.spaceWrite s host sp off bytes value) := by
  unfold State.spaceWrite
  repeat' first | with_reducible assumption | exact Fits.trans (by decide +kernel) hK | exact hF | exact hP | exact hF _ | exact hP _ | with_reducible apply State.hubWrite_only | with_reducible apply State.fieldWrite_all | with_reducible apply Only.ite | dsimp only | split | (with_reducible refine Only.fst (by with_reducible assumption) ?_) | (with_reducible refine Only.snd (by with_reducible assumption) ?_) | exact Fits.anyHub _ (Fits.trans (by decide +kernel) hK) | exact Fits.anyRim _ (Fits.trans (by decide +kernel) hK) | exact Fits.anyPlot _ (Fits.trans (by decide +kernel) hK)

theorem State.agentWrite_only {K : List Part} {F : FieldId → Prop} {P : PlotId → Prop} {s0 : State} (s : State) (a : Agent) (sp : Space) (off bytes value : Nat) (hK : Fits (([.free, .events, .out, .anyHubReg, .msix, .light, .hostTx, .seed, .host, .hubSlots, .power, .hubFx, .hbm, .store, .bin, .hbmErr] : List Part) ++ ([.storeErr, .binErr, .anyReg, .drill, .dr, .queue, .cq, .tine, .samples, .scrub, .notify, .xlines, .boot, .slot, .anyPlotReg, .memu] : List Part) ++ ([.hard, .ports, .router, .gateway, .sheaf, .health, .mirror, .tally, .hubLost, .rimSlots, .thermal, .rimFx] : List Part)) K) (hF : ∀ f, F f) (hP : ∀ p, P p)
    (ho : Only K F P s0 s) : Only K F P s0 (State.agentWrite s a sp off bytes value) := by
  unfold State.agentWrite
  repeat' first | with_reducible assumption | exact Fits.trans (by decide +kernel) hK | exact hF | exact hP | exact hF _ | exact hP _ | with_reducible apply State.spaceWrite_only | with_reducible apply State.plotWrite_all | with_reducible apply Only.ite | dsimp only | split | (with_reducible refine Only.fst (by with_reducible assumption) ?_) | (with_reducible refine Only.snd (by with_reducible assumption) ?_) | exact Fits.anyHub _ (Fits.trans (by decide +kernel) hK) | exact Fits.anyRim _ (Fits.trans (by decide +kernel) hK) | exact Fits.anyPlot _ (Fits.trans (by decide +kernel) hK)

end Sys2Proof.Machine
end

