-- ==== Sys2Proof/Laws/Touch/Firmware.lean ====
section
/-! SUPPORT. What each operation of Machine/Firmware.lean can change: the parts named, and nothing else. -/

namespace Sys2Proof.Machine

set_option Elab.async false

open Sys2Proof

theorem State.plotFill_only {K : List Part} {F : FieldId → Prop} {P : PlotId → Prop} {s0 : State} (s : State) (f : FieldId) (p : PlotId) (hK : Fits ([.events, .store, .storeErr, .drill, .boot, .plotReg Reg.PLT_BOOT.FAIL_BLOCK, .plotReg Reg.PLT_BOOT.IMAGE, .plotReg Reg.PLT_BOOT.NONE, .plotReg Reg.PLT_BOOT.REPAIRS, .plotReg Reg.PLT_BOOT.SOW, .plotReg Reg.PLT_BOOT.STATUS, .plotReg Reg.PLT_STORE_ECC.CORRECTED, .plotReg Reg.PLT_STORE_ECC.LAST_ADDR, .plotReg Reg.PLT_STORE_ECC.UNCORRECTED, .health] : List Part) K) (hF : F f) (hP : P p)
    (ho : Only K F P s0 s) : Only K F P s0 (State.plotFill s f p) := by
  unfold State.plotFill
  repeat' first | with_reducible assumption | exact Fits.trans (by decide +kernel) hK | exact hF | exact hP | with_reducible apply State.updPlot_only | with_reducible apply State.drillCtl_only | with_reducible apply State.storeWrite_only | (refine fun (X : Plot) => ?_) | with_reducible apply PlotOnly.setReg | with_reducible exact PlotOnly.refl _ _ | with_reducible apply PlotOnly.ite | (refine PlotOnly.keep rfl (fun k hk => ?_); cases k <;> first | exact trivial | exact rfl | exact ⟨rfl, rfl⟩ | exact ⟨rfl, rfl, rfl⟩ | exact (Fits.not hK hk rfl).elim) | with_reducible apply Only.ite | dsimp only | split | (with_reducible refine Only.fst (by with_reducible assumption) ?_) | (with_reducible refine Only.snd (by with_reducible assumption) ?_)

theorem State.fillAll_only {K : List Part} {F : FieldId → Prop} {P : PlotId → Prop} {s0 : State} (s : State) (f : FieldId) (hK : Fits (([.events, .store, .storeErr, .reg Reg.FLD_BOOT_STATUS.FETCHED, .reg Reg.FLD_BOOT_STATUS.FW_FALLOW, .reg Reg.FLD_BOOT_STATUS.REPAIRS, .reg Reg.FLD_BOOT_STATUS.SOWN, .drill, .boot, .plotReg Reg.PLT_BOOT.FAIL_BLOCK, .plotReg Reg.PLT_BOOT.IMAGE, .plotReg Reg.PLT_BOOT.NONE, .plotReg Reg.PLT_BOOT.REPAIRS, .plotReg Reg.PLT_BOOT.SOW, .plotReg Reg.PLT_BOOT.STATUS, .plotReg Reg.PLT_STORE_ECC.CORRECTED] : List Part) ++ ([.plotReg Reg.PLT_STORE_ECC.LAST_ADDR, .plotReg Reg.PLT_STORE_ECC.UNCORRECTED, .health] : List Part)) K) (hF : F f) (hP : ∀ p, P p)
    (ho : Only K F P s0 s) : Only K F P s0 (State.fillAll s f) := by
  unfold State.fillAll
  simp only [List.foldl_cons, List.foldl_nil]
  repeat' first | with_reducible assumption | exact Fits.trans (by decide +kernel) hK | exact hF | exact hP | exact hP _ | with_reducible apply State.fset_only | with_reducible apply State.plotFill_only | with_reducible apply Only.ite | dsimp only | split | (with_reducible refine Only.foldl _ _ (fun t a ht => ?_) ?_) | (with_reducible refine Only.foldl_fst _ _ _ (fun t a ht => ?_) ?_) | (with_reducible refine Only.fst (by with_reducible assumption) ?_) | (with_reducible refine Only.snd (by with_reducible assumption) ?_)

theorem State.updBoot_only {K : List Part} {F : FieldId → Prop} {P : PlotId → Prop} {s0 : State} (s : State) (f : FieldId) (p : PlotId) (g : BootUnit → BootUnit) (hK : Fits ([.boot] : List Part) K) (hF : F f) (hP : P p)
    (ho : Only K F P s0 s) : Only K F P s0 (State.updBoot s f p g) := by
  unfold State.updBoot
  repeat' first | with_reducible assumption | exact Fits.trans (by decide +kernel) hK | exact hF | exact hP | with_reducible apply State.updPlot_only | (refine fun (X : Plot) => ?_) | with_reducible apply PlotOnly.setReg | with_reducible exact PlotOnly.refl _ _ | with_reducible apply PlotOnly.ite | (refine PlotOnly.keep rfl (fun k hk => ?_); cases k <;> first | exact trivial | exact rfl | exact ⟨rfl, rfl⟩ | exact ⟨rfl, rfl, rfl⟩ | exact (Fits.not hK hk rfl).elim) | with_reducible apply Only.ite | dsimp only | split | (with_reducible refine Only.fst (by with_reducible assumption) ?_) | (with_reducible refine Only.snd (by with_reducible assumption) ?_)

theorem State.blockGood_only {K : List Part} {F : FieldId → Prop} {P : PlotId → Prop} {s0 : State} (s : State) (f : FieldId) (p : PlotId) (v : List Byte) (k : Nat) (hK : Fits ([.events, .storeErr, .reg Reg.INJ_PT.ARM, .reg Reg.INJ_PT.DONE, .plotReg Reg.PLT_STORE_ECC.CORRECTED, .plotReg Reg.PLT_STORE_ECC.LAST_ADDR, .plotReg Reg.PLT_STORE_ECC.UNCORRECTED, .health] : List Part) K) (hF : F f) (hP : P p)
    (ho : Only K F P s0 s) : Only K F P s0 (State.blockGood s f p v k).1 := by
  unfold State.blockGood
  repeat' first | with_reducible assumption | exact Fits.trans (by decide +kernel) hK | exact hF | exact hP | with_reducible apply State.storeRead_only | with_reducible apply Only.ite | dsimp only | split | (with_reducible refine Only.fst (by with_reducible assumption) ?_) | (with_reducible refine Only.snd (by with_reducible assumption) ?_)

theorem State.fetchBlock_only {K : List Part} {F : FieldId → Prop} {P : PlotId → Prop} {s0 : State} (s : State) (f : FieldId) (p : PlotId) (v : List Byte) (k : Nat) (hK : Fits (([.events, .store, .bin, .hbmErr, .storeErr, .binErr, .reg Reg.INJ_ARITH.ARM, .reg Reg.INJ_ARITH.DONE, .reg Reg.INJ_PT.ARM, .reg Reg.INJ_PT.DONE, .reg Reg.MEM_ECC_STAT.CORRECTED, .reg Reg.MEM_ECC_STAT.LAST_ADDR, .reg Reg.MEM_ECC_STAT.UNCORRECTED, .reg Reg.MEM_REPAIR_ENTRY.BANK, .reg Reg.MEM_REPAIR_ENTRY.CHANNEL, .reg Reg.MEM_REPAIR_ENTRY.PCH] : List Part) ++ ([.reg Reg.MEM_REPAIR_ENTRY.REASON, .reg Reg.MEM_REPAIR_ENTRY.RESULT, .reg Reg.MEM_REPAIR_ENTRY.ROW, .reg Reg.MEM_REPAIR_ENTRY.STACK, .reg Reg.MEM_REPAIR_ENTRY.VALID, .plotReg Reg.PLT_STORE_ECC.CORRECTED, .plotReg Reg.PLT_STORE_ECC.LAST_ADDR, .plotReg Reg.PLT_STORE_ECC.UNCORRECTED, .memu, .health] : List Part)) K) (hF : F f) (hP : P p)
    (ho : Only K F P s0 s) : Only K F P s0 (State.fetchBlock s f p v k).1 := by
  unfold State.fetchBlock
  repeat' first | with_reducible assumption | exact Fits.trans (by decide +kernel) hK | exact hF | exact hP | with_reducible apply State.lineRead_only | with_reducible apply State.localWriteLine_only | with_reducible apply State.blockGood_only | with_reducible apply Only.ite | dsimp only | split | (with_reducible refine Only.foldl _ _ (fun t a ht => ?_) ?_) | (with_reducible refine Only.foldl_fst _ _ _ (fun t a ht => ?_) ?_) | (with_reducible refine Only.fst (by with_reducible assumption) ?_) | (with_reducible refine Only.snd (by with_reducible assumption) ?_)

theorem State.bootEnter_only {K : List Part} {F : FieldId → Prop} {P : PlotId → Prop} {s0 : State} (s : State) (f : FieldId) (p : PlotId) (v : List Byte) (hK : Fits ([.reg Reg.FLD_BOOT_STATUS.FETCHED, .reg Reg.FLD_BOOT_STATUS.SOWN, .drill, .boot, .plotReg Reg.PLT_BOOT.STATUS] : List Part) K) (hF : F f) (hP : P p)
    (ho : Only K F P s0 s) : Only K F P s0 (State.bootEnter s f p v) := by
  unfold State.bootEnter
  repeat' first | with_reducible assumption | exact Fits.trans (by decide +kernel) hK | exact hF | exact hP | with_reducible apply State.updPlot_only | with_reducible apply State.fcount_only | (refine fun (X : Plot) => ?_) | with_reducible apply PlotOnly.setReg | with_reducible exact PlotOnly.refl _ _ | with_reducible apply PlotOnly.ite | (refine PlotOnly.keep rfl (fun k hk => ?_); cases k <;> first | exact trivial | exact rfl | exact ⟨rfl, rfl⟩ | exact ⟨rfl, rfl, rfl⟩ | exact (Fits.not hK hk rfl).elim) | with_reducible apply Only.ite | dsimp only | split | (with_reducible refine Only.fst (by with_reducible assumption) ?_) | (with_reducible refine Only.snd (by with_reducible assumption) ?_) | (refine PlotOnly.trans (PlotOnly.setReg Reg.PLT_BOOT.STATUS pbLoaded 0 0 ?_ (PlotOnly.refl _ _)) (PlotOnly.keep rfl (fun k hk => ?_))) | (cases k <;> first | exact trivial | exact rfl | exact ⟨rfl, rfl⟩ | exact ⟨rfl, rfl, rfl⟩ | exact (Fits.not hK hk rfl).elim)

theorem State.bootFail_only {K : List Part} {F : FieldId → Prop} {P : PlotId → Prop} {s0 : State} (s : State) (f : FieldId) (p : PlotId) (k : Nat) (hK : Fits ([.events, .reg Reg.FLD_BOOT_STATUS.FW_FALLOW, .reg Reg.FLD_FALLOW_RUN.RUN, .reg Reg.INJ_ARITH.ARM, .reg Reg.INJ_ARITH.NOFIRE, .drill, .boot, .plotReg Reg.PLT_BOOT.FAIL_BLOCK, .plotReg Reg.PLT_BOOT.STATUS] : List Part) K) (hF : F f) (hP : ∀ p, P p)
    (ho : Only K F P s0 s) : Only K F P s0 (State.bootFail s f p k) := by
  unfold State.bootFail
  repeat' first | with_reducible assumption | exact Fits.trans (by decide +kernel) hK | exact hF | exact hP | exact hP _ | with_reducible apply State.updPlot_only | with_reducible apply State.fcount_only | with_reducible apply State.makeFallow_only | (refine fun (X : Plot) => ?_) | with_reducible apply PlotOnly.setReg | with_reducible exact PlotOnly.refl _ _ | with_reducible apply PlotOnly.ite | (refine PlotOnly.keep rfl (fun k hk => ?_); cases k <;> first | exact trivial | exact rfl | exact ⟨rfl, rfl⟩ | exact ⟨rfl, rfl, rfl⟩ | exact (Fits.not hK hk rfl).elim) | with_reducible apply Only.ite | dsimp only | split | (with_reducible refine Only.fst (by with_reducible assumption) ?_) | (with_reducible refine Only.snd (by with_reducible assumption) ?_) | (refine PlotOnly.trans (PlotOnly.setReg Reg.PLT_BOOT.FAIL_BLOCK k 0 0 ?_ (PlotOnly.setReg Reg.PLT_BOOT.STATUS pbFailed 0 0 ?_ (PlotOnly.refl _ _))) (PlotOnly.keep rfl (fun k hk => ?_))) | (cases k <;> first | exact trivial | exact rfl | exact ⟨rfl, rfl⟩ | exact ⟨rfl, rfl, rfl⟩ | exact (Fits.not hK hk rfl).elim)

theorem State.bootBlock_only {K : List Part} {F : FieldId → Prop} {P : PlotId → Prop} {s0 : State} (s : State) (f : FieldId) (p : PlotId) (v : List Byte) (hK : Fits (([.events, .store, .bin, .hbmErr, .storeErr, .binErr, .reg Reg.FLD_BOOT_STATUS.FETCHED, .reg Reg.FLD_BOOT_STATUS.FW_FALLOW, .reg Reg.FLD_BOOT_STATUS.REPAIRS, .reg Reg.FLD_BOOT_STATUS.SOWN, .reg Reg.FLD_FALLOW_RUN.RUN, .reg Reg.INJ_ARITH.ARM, .reg Reg.INJ_ARITH.DONE, .reg Reg.INJ_ARITH.NOFIRE, .reg Reg.INJ_PT.ARM, .reg Reg.INJ_PT.DONE] : List Part) ++ ([.reg Reg.MEM_ECC_STAT.CORRECTED, .reg Reg.MEM_ECC_STAT.LAST_ADDR, .reg Reg.MEM_ECC_STAT.UNCORRECTED, .reg Reg.MEM_REPAIR_ENTRY.BANK, .reg Reg.MEM_REPAIR_ENTRY.CHANNEL, .reg Reg.MEM_REPAIR_ENTRY.PCH, .reg Reg.MEM_REPAIR_ENTRY.REASON, .reg Reg.MEM_REPAIR_ENTRY.RESULT, .reg Reg.MEM_REPAIR_ENTRY.ROW, .reg Reg.MEM_REPAIR_ENTRY.STACK, .reg Reg.MEM_REPAIR_ENTRY.VALID, .drill, .boot, .plotReg Reg.PLT_BOOT.FAIL_BLOCK, .plotReg Reg.PLT_BOOT.REPAIRS, .plotReg Reg.PLT_BOOT.STATUS] : List Part) ++ ([.plotReg Reg.PLT_STORE_ECC.CORRECTED, .plotReg Reg.PLT_STORE_ECC.LAST_ADDR, .plotReg Reg.PLT_STORE_ECC.UNCORRECTED, .memu, .health] : List Part)) K) (hF : F f) (hP : ∀ p, P p)
    (ho : Only K F P s0 s) : Only K F P s0 (State.bootBlock s f p v) := by
  unfold State.bootBlock
  repeat' first | with_reducible assumption | exact Fits.trans (by decide +kernel) hK | exact hF | exact hP | exact hP _ | with_reducible apply State.bootEnter_only | with_reducible apply State.fcount_only | with_reducible apply State.pcount_only | with_reducible apply State.fetchBlock_only | with_reducible apply State.updBoot_only | with_reducible apply State.bootFail_only | with_reducible apply Only.ite | dsimp only | split | (with_reducible refine Only.fst (by with_reducible assumption) ?_) | (with_reducible refine Only.snd (by with_reducible assumption) ?_)

theorem State.bootStep_only {K : List Part} {F : FieldId → Prop} {P : PlotId → Prop} {s0 : State} (s : State) (f : FieldId) (p : PlotId) (hK : Fits (([.events, .store, .bin, .hbmErr, .storeErr, .binErr, .reg Reg.FLD_BOOT_STATUS.FETCHED, .reg Reg.FLD_BOOT_STATUS.FW_FALLOW, .reg Reg.FLD_BOOT_STATUS.REPAIRS, .reg Reg.FLD_BOOT_STATUS.SOWN, .reg Reg.FLD_FALLOW_RUN.RUN, .reg Reg.INJ_ARITH.ARM, .reg Reg.INJ_ARITH.DONE, .reg Reg.INJ_ARITH.NOFIRE, .reg Reg.INJ_PT.ARM, .reg Reg.INJ_PT.DONE] : List Part) ++ ([.reg Reg.MEM_ECC_STAT.CORRECTED, .reg Reg.MEM_ECC_STAT.LAST_ADDR, .reg Reg.MEM_ECC_STAT.UNCORRECTED, .reg Reg.MEM_REPAIR_ENTRY.BANK, .reg Reg.MEM_REPAIR_ENTRY.CHANNEL, .reg Reg.MEM_REPAIR_ENTRY.PCH, .reg Reg.MEM_REPAIR_ENTRY.REASON, .reg Reg.MEM_REPAIR_ENTRY.RESULT, .reg Reg.MEM_REPAIR_ENTRY.ROW, .reg Reg.MEM_REPAIR_ENTRY.STACK, .reg Reg.MEM_REPAIR_ENTRY.VALID, .drill, .boot, .plotReg Reg.PLT_BOOT.FAIL_BLOCK, .plotReg Reg.PLT_BOOT.REPAIRS, .plotReg Reg.PLT_BOOT.STATUS] : List Part) ++ ([.plotReg Reg.PLT_STORE_ECC.CORRECTED, .plotReg Reg.PLT_STORE_ECC.LAST_ADDR, .plotReg Reg.PLT_STORE_ECC.UNCORRECTED, .memu, .health] : List Part)) K) (hF : F f) (hP : ∀ p, P p)
    (ho : Only K F P s0 s) : Only K F P s0 (State.bootStep s f p) := by
  unfold State.bootStep
  repeat' first | with_reducible assumption | exact Fits.trans (by decide +kernel) hK | exact hF | exact hP | exact hP _ | with_reducible apply State.updBoot_only | with_reducible apply State.pset_only | with_reducible apply State.bootBlock_only | with_reducible apply Only.ite | dsimp only | split | (with_reducible refine Only.fst (by with_reducible assumption) ?_) | (with_reducible refine Only.snd (by with_reducible assumption) ?_)

theorem execBootFetch_only {K : List Part} {F : FieldId → Prop} {P : PlotId → Prop} {s0 : State} (f : FieldId) (p : PlotId) (s : State) (hK : Fits (([.events, .store, .bin, .hbmErr, .storeErr, .binErr, .reg Reg.FLD_BOOT_STATUS.FETCHED, .reg Reg.FLD_BOOT_STATUS.FW_FALLOW, .reg Reg.FLD_BOOT_STATUS.REPAIRS, .reg Reg.FLD_BOOT_STATUS.SOWN, .reg Reg.FLD_FALLOW_RUN.RUN, .reg Reg.INJ_ARITH.ARM, .reg Reg.INJ_ARITH.DONE, .reg Reg.INJ_ARITH.NOFIRE, .reg Reg.INJ_PT.ARM, .reg Reg.INJ_PT.DONE] : List Part) ++ ([.reg Reg.MEM_ECC_STAT.CORRECTED, .reg Reg.MEM_ECC_STAT.LAST_ADDR, .reg Reg.MEM_ECC_STAT.UNCORRECTED, .reg Reg.MEM_REPAIR_ENTRY.BANK, .reg Reg.MEM_REPAIR_ENTRY.CHANNEL, .reg Reg.MEM_REPAIR_ENTRY.PCH, .reg Reg.MEM_REPAIR_ENTRY.REASON, .reg Reg.MEM_REPAIR_ENTRY.RESULT, .reg Reg.MEM_REPAIR_ENTRY.ROW, .reg Reg.MEM_REPAIR_ENTRY.STACK, .reg Reg.MEM_REPAIR_ENTRY.VALID, .drill, .boot, .plotReg Reg.PLT_BOOT.FAIL_BLOCK, .plotReg Reg.PLT_BOOT.REPAIRS, .plotReg Reg.PLT_BOOT.STATUS] : List Part) ++ ([.plotReg Reg.PLT_STORE_ECC.CORRECTED, .plotReg Reg.PLT_STORE_ECC.LAST_ADDR, .plotReg Reg.PLT_STORE_ECC.UNCORRECTED, .memu, .health] : List Part)) K) (hF : F f) (hP : ∀ p, P p)
    (ho : Only K F P s0 s) : Ends K F P s0 (execBootFetch f p s) := by
  unfold execBootFetch
  repeat' first | with_reducible assumption | exact Fits.trans (by decide +kernel) hK | exact hF | exact hP | exact hP _ | with_reducible apply State.bootStep_only | with_reducible apply Ends.finish | with_reducible apply Ends.next | with_reducible apply Only.ite | with_reducible apply Ends.ite | dsimp only | split | (with_reducible refine Only.fst (by with_reducible assumption) ?_) | (with_reducible refine Only.snd (by with_reducible assumption) ?_)

theorem State.bootAll_only {K : List Part} {F : FieldId → Prop} {P : PlotId → Prop} {s0 : State} (s : State) (f : FieldId) (p : PlotId) (fuel : Nat) (hK : Fits (([.events, .store, .bin, .hbmErr, .storeErr, .binErr, .reg Reg.FLD_BOOT_STATUS.FETCHED, .reg Reg.FLD_BOOT_STATUS.FW_FALLOW, .reg Reg.FLD_BOOT_STATUS.REPAIRS, .reg Reg.FLD_BOOT_STATUS.SOWN, .reg Reg.FLD_FALLOW_RUN.RUN, .reg Reg.INJ_ARITH.ARM, .reg Reg.INJ_ARITH.DONE, .reg Reg.INJ_ARITH.NOFIRE, .reg Reg.INJ_PT.ARM, .reg Reg.INJ_PT.DONE] : List Part) ++ ([.reg Reg.MEM_ECC_STAT.CORRECTED, .reg Reg.MEM_ECC_STAT.LAST_ADDR, .reg Reg.MEM_ECC_STAT.UNCORRECTED, .reg Reg.MEM_REPAIR_ENTRY.BANK, .reg Reg.MEM_REPAIR_ENTRY.CHANNEL, .reg Reg.MEM_REPAIR_ENTRY.PCH, .reg Reg.MEM_REPAIR_ENTRY.REASON, .reg Reg.MEM_REPAIR_ENTRY.RESULT, .reg Reg.MEM_REPAIR_ENTRY.ROW, .reg Reg.MEM_REPAIR_ENTRY.STACK, .reg Reg.MEM_REPAIR_ENTRY.VALID, .drill, .boot, .plotReg Reg.PLT_BOOT.FAIL_BLOCK, .plotReg Reg.PLT_BOOT.REPAIRS, .plotReg Reg.PLT_BOOT.STATUS] : List Part) ++ ([.plotReg Reg.PLT_STORE_ECC.CORRECTED, .plotReg Reg.PLT_STORE_ECC.LAST_ADDR, .plotReg Reg.PLT_STORE_ECC.UNCORRECTED, .memu, .health] : List Part)) K) (hF : F f) (hP : ∀ p, P p)
    (ho : Only K F P s0 s) : Only K F P s0 (State.bootAll s f p fuel) := by
  induction fuel generalizing s with
  | zero => simp only [State.bootAll]; (repeat' first | with_reducible assumption | exact Fits.trans (by decide +kernel) hK | exact hF | exact hP | exact hP _ | with_reducible apply State.bootStep_only | with_reducible apply Only.ite | dsimp only | split | (with_reducible refine Only.fst (by with_reducible assumption) ?_) | (with_reducible refine Only.snd (by with_reducible assumption) ?_))
  | succ fuel ih => simp only [State.bootAll]; (repeat' first | with_reducible assumption | with_reducible apply ih | with_reducible assumption | exact Fits.trans (by decide +kernel) hK | exact hF | exact hP | exact hP _ | with_reducible apply State.bootStep_only | with_reducible apply Only.ite | dsimp only | split | (with_reducible refine Only.fst (by with_reducible assumption) ?_) | (with_reducible refine Only.snd (by with_reducible assumption) ?_))

theorem State.sowCopy_only {K : List Part} {F : FieldId → Prop} {P : PlotId → Prop} {s0 : State} (s : State) (f : FieldId) (i k : Nat) (data : List Byte) (poisoned : Bool) (p : PlotId) (hK : Fits ([.events, .store, .storeErr, .reg Reg.INJ_PT.ARM, .reg Reg.INJ_PT.DONE, .boot, .plotReg Reg.PLT_STORE_ECC.CORRECTED, .plotReg Reg.PLT_STORE_ECC.LAST_ADDR, .plotReg Reg.PLT_STORE_ECC.UNCORRECTED, .health] : List Part) K) (hF : F f) (hP : P p)
    (ho : Only K F P s0 s) : Only K F P s0 (State.sowCopy s f i k data poisoned p) := by
  unfold State.sowCopy
  repeat' first | with_reducible assumption | exact Fits.trans (by decide +kernel) hK | exact hF | exact hP | with_reducible apply State.storePoison_only | with_reducible apply State.storeWrite_only | with_reducible apply State.blockGood_only | with_reducible apply State.updBoot_only | with_reducible apply Only.ite | dsimp only | split | (with_reducible refine Only.fst (by with_reducible assumption) ?_) | (with_reducible refine Only.snd (by with_reducible assumption) ?_)

theorem State.sowBlock_only {K : List Part} {F : FieldId → Prop} {P : PlotId → Prop} {s0 : State} (s : State) (f : FieldId) (isRow : Bool) (index mask i k : Nat) (hK : Fits (([.events, .store, .hbmErr, .storeErr, .reg Reg.FLD_MESH_STAT.MCAST_SKIPPED, .reg Reg.INJ_PT.ARM, .reg Reg.INJ_PT.DONE, .reg Reg.MEM_ECC_STAT.CORRECTED, .reg Reg.MEM_ECC_STAT.LAST_ADDR, .reg Reg.MEM_ECC_STAT.UNCORRECTED, .reg Reg.MEM_REPAIR_ENTRY.BANK, .reg Reg.MEM_REPAIR_ENTRY.CHANNEL, .reg Reg.MEM_REPAIR_ENTRY.PCH, .reg Reg.MEM_REPAIR_ENTRY.REASON, .reg Reg.MEM_REPAIR_ENTRY.RESULT, .reg Reg.MEM_REPAIR_ENTRY.ROW] : List Part) ++ ([.reg Reg.MEM_REPAIR_ENTRY.STACK, .reg Reg.MEM_REPAIR_ENTRY.VALID, .boot, .plotReg Reg.PLT_STORE_ECC.CORRECTED, .plotReg Reg.PLT_STORE_ECC.LAST_ADDR, .plotReg Reg.PLT_STORE_ECC.UNCORRECTED, .memu, .health] : List Part)) K) (hF : F f) (hP : ∀ p, P p)
    (ho : Only K F P s0 s) : Only K F P s0 (State.sowBlock s f isRow index mask i k) := by
  unfold State.sowBlock
  repeat' first | with_reducible assumption | exact Fits.trans (by decide +kernel) hK | exact hF | exact hP | exact hP _ | with_reducible apply State.hbmRead_only | with_reducible apply State.mcast_only | with_reducible apply State.sowCopy_only | with_reducible apply Only.ite | dsimp only | split | (with_reducible refine Only.fst (by with_reducible assumption) ?_) | (with_reducible refine Only.snd (by with_reducible assumption) ?_) | (refine fun t p ht => ?_)

theorem State.sowRowEnd_only {K : List Part} {F : FieldId → Prop} {P : PlotId → Prop} {s0 : State} (s : State) (f : FieldId) (row mask : Nat) (hK : Fits ([.plotReg Reg.PLT_BOOT.STATUS] : List Part) K) (hF : F f) (hP : ∀ p, P p)
    (ho : Only K F P s0 s) : Only K F P s0 (State.sowRowEnd s f row mask) := by
  unfold State.sowRowEnd
  repeat' first | with_reducible assumption | exact Fits.trans (by decide +kernel) hK | exact hF | exact hP | exact hP _ | with_reducible apply State.pset_only | with_reducible apply Only.ite | dsimp only | split | (with_reducible refine Only.foldl _ _ (fun t a ht => ?_) ?_) | (with_reducible refine Only.foldl_fst _ _ _ (fun t a ht => ?_) ?_) | (with_reducible refine Only.fst (by with_reducible assumption) ?_) | (with_reducible refine Only.snd (by with_reducible assumption) ?_)

theorem execSowingRow_only {K : List Part} {F : FieldId → Prop} {P : PlotId → Prop} {s0 : State} (f : FieldId) (timeout : Bool) (s : State) (hK : Fits (([.events, .store, .hbmErr, .storeErr, .reg Reg.FLD_MESH_STAT.MCAST_SKIPPED, .reg Reg.INJ_PT.ARM, .reg Reg.INJ_PT.DONE, .reg Reg.MEM_ECC_STAT.CORRECTED, .reg Reg.MEM_ECC_STAT.LAST_ADDR, .reg Reg.MEM_ECC_STAT.UNCORRECTED, .reg Reg.MEM_REPAIR_ENTRY.BANK, .reg Reg.MEM_REPAIR_ENTRY.CHANNEL, .reg Reg.MEM_REPAIR_ENTRY.PCH, .reg Reg.MEM_REPAIR_ENTRY.REASON, .reg Reg.MEM_REPAIR_ENTRY.RESULT, .reg Reg.MEM_REPAIR_ENTRY.ROW] : List Part) ++ ([.reg Reg.MEM_REPAIR_ENTRY.STACK, .reg Reg.MEM_REPAIR_ENTRY.VALID, .boot, .plotReg Reg.PLT_BOOT.STATUS, .plotReg Reg.PLT_STORE_ECC.CORRECTED, .plotReg Reg.PLT_STORE_ECC.LAST_ADDR, .plotReg Reg.PLT_STORE_ECC.UNCORRECTED, .memu, .health, .sow] : List Part)) K) (hF : F f) (hP : ∀ p, P p)
    (ho : Only K F P s0 s) : Ends K F P s0 (execSowingRow f timeout s) := by
  unfold execSowingRow
  repeat' first | with_reducible assumption | exact Fits.trans (by decide +kernel) hK | exact hF | exact hP | exact hP _ | with_reducible apply Ends.inRim | with_reducible apply State.updField_only | with_reducible apply State.sowBlock_only | with_reducible apply State.sowRowEnd_only | with_reducible apply Ends.finish | with_reducible apply Ends.next | (refine fun (X : Field) => ?_) | with_reducible apply FieldOnly.setReg | with_reducible exact FieldOnly.refl _ _ _ | with_reducible apply FieldOnly.updPlot | with_reducible apply FieldOnly.ite | (refine FieldOnly.keep rfl rfl (fun k hk => ?_); cases k <;> first | exact trivial | exact rfl | exact ⟨rfl, rfl⟩ | exact ⟨rfl, rfl, rfl⟩ | exact (Fits.not hK hk rfl).elim) | with_reducible apply Only.ite | with_reducible apply Ends.ite | dsimp only | split | (with_reducible refine Only.foldl _ _ (fun t a ht => ?_) ?_) | (with_reducible refine Only.foldl_fst _ _ _ (fun t a ht => ?_) ?_) | (with_reducible refine Only.fst (by with_reducible assumption) ?_) | (with_reducible refine Only.snd (by with_reducible assumption) ?_)

theorem execMeshMulticast_only {K : List Part} {F : FieldId → Prop} {P : PlotId → Prop} {s0 : State} (f : FieldId) (isRow : Bool) (index : Fin 16) (mask : Nat) (load : McastLoad) (s : State) (hK : Fits (([.events, .store, .hbmErr, .storeErr, .reg Reg.FLD_MESH_STAT.MCAST_SKIPPED, .reg Reg.INJ_PT.ARM, .reg Reg.INJ_PT.DONE, .reg Reg.MEM_ECC_STAT.CORRECTED, .reg Reg.MEM_ECC_STAT.LAST_ADDR, .reg Reg.MEM_ECC_STAT.UNCORRECTED, .reg Reg.MEM_REPAIR_ENTRY.BANK, .reg Reg.MEM_REPAIR_ENTRY.CHANNEL, .reg Reg.MEM_REPAIR_ENTRY.PCH, .reg Reg.MEM_REPAIR_ENTRY.REASON, .reg Reg.MEM_REPAIR_ENTRY.RESULT, .reg Reg.MEM_REPAIR_ENTRY.ROW] : List Part) ++ ([.reg Reg.MEM_REPAIR_ENTRY.STACK, .reg Reg.MEM_REPAIR_ENTRY.VALID, .boot, .plotReg Reg.PLT_DOORBELL.PENDING, .plotReg Reg.PLT_STORE_ECC.CORRECTED, .plotReg Reg.PLT_STORE_ECC.LAST_ADDR, .plotReg Reg.PLT_STORE_ECC.UNCORRECTED, .memu, .health] : List Part)) K) (hF : F f) (hP : ∀ p, P p)
    (ho : Only K F P s0 s) : Ends K F P s0 (execMeshMulticast f isRow index mask load s) := by
  unfold execMeshMulticast
  repeat' first | with_reducible assumption | exact Fits.trans (by decide +kernel) hK | exact hF | exact hP | exact hP _ | with_reducible apply Ends.inRim | with_reducible apply State.mcast_only | with_reducible apply State.ringPlot_only | with_reducible apply State.sowBlock_only | with_reducible apply Ends.finish | with_reducible apply Ends.next | with_reducible apply Only.ite | with_reducible apply Ends.ite | dsimp only | split | (with_reducible refine Only.fst (by with_reducible assumption) ?_) | (with_reducible refine Only.snd (by with_reducible assumption) ?_) | (refine fun t p ht => ?_)

end Sys2Proof.Machine
end

