-- ==== Sys2Proof/Laws/Touch/Boot.lean ====
section
/-! SUPPORT. What each operation of Machine/Boot.lean can change: the parts named, and nothing else. -/

namespace Sys2Proof.Machine

set_option Elab.async false

open Sys2Proof

theorem State.setPhase_only {K : List Part} {F : FieldId → Prop} {P : PlotId → Prop} {s0 : State} (s : State) (p : Nat) (hK : Fits ([.hubReg Reg.SEED_STAGE.PHASE] : List Part) K)
    (ho : Only K F P s0 s) : Only K F P s0 (State.setPhase s p) := by
  unfold State.setPhase
  repeat' first | with_reducible assumption | exact Fits.trans (by decide +kernel) hK | with_reducible apply State.hset_only | with_reducible apply Only.ite | dsimp only | split | (with_reducible refine Only.fst (by with_reducible assumption) ?_) | (with_reducible refine Only.snd (by with_reducible assumption) ?_)

theorem State.begin_only {K : List Part} {F : FieldId → Prop} {P : PlotId → Prop} {s0 : State} (s : State) (hK : Fits ([.seed] : List Part) K)
    (ho : Only K F P s0 s) : Only K F P s0 (State.begin s) := by
  unfold State.begin
  repeat' first | with_reducible assumption | exact Fits.trans (by decide +kernel) hK | with_reducible apply State.updSeed_only | with_reducible apply Only.ite | dsimp only | split | (with_reducible refine Only.fst (by with_reducible assumption) ?_) | (with_reducible refine Only.snd (by with_reducible assumption) ?_)

theorem State.stageEvent_only {K : List Part} {F : FieldId → Prop} {P : PlotId → Prop} {s0 : State} (s : State) (phase result : Nat) (hK : Fits ([.events] : List Part) K)
    (ho : Only K F P s0 s) : Only K F P s0 (State.stageEvent s phase result) := by
  unfold State.stageEvent
  repeat' first | with_reducible assumption | exact Fits.trans (by decide +kernel) hK | with_reducible apply State.raiseHub_only | with_reducible apply Only.ite | dsimp only | split | (with_reducible refine Only.fst (by with_reducible assumption) ?_) | (with_reducible refine Only.snd (by with_reducible assumption) ?_)

theorem State.clockFlip_only {K : List Part} {F : FieldId → Prop} {P : PlotId → Prop} {s0 : State} (s : State) (hK : Fits ([.seed] : List Part) K)
    (ho : Only K F P s0 s) : Only K F P s0 (State.clockFlip s) := by
  unfold State.clockFlip
  repeat' first | with_reducible assumption | exact Fits.trans (by decide +kernel) hK | with_reducible apply State.updSeed_only | with_reducible apply Only.ite | dsimp only | split | (with_reducible refine Only.fst (by with_reducible assumption) ?_) | (with_reducible refine Only.snd (by with_reducible assumption) ?_)

theorem State.stageStart_only {K : List Part} {F : FieldId → Prop} {P : PlotId → Prop} {s0 : State} (s : State) (k : Nat) (hK : Fits ([.hubReg Reg.SEED_STAGE.PHASE, .hubReg Reg.SEED_STAGE.STAGE, .seed] : List Part) K)
    (ho : Only K F P s0 s) : Only K F P s0 (State.stageStart s k) := by
  unfold State.stageStart
  repeat' first | with_reducible assumption | exact Fits.trans (by decide +kernel) hK | with_reducible apply State.updSeed_only | with_reducible apply State.setPhase_only | with_reducible apply State.hset_only | with_reducible apply Only.ite | dsimp only | split | (with_reducible refine Only.fst (by with_reducible assumption) ?_) | (with_reducible refine Only.snd (by with_reducible assumption) ?_)

theorem State.stageFail_only {K : List Part} {F : FieldId → Prop} {P : PlotId → Prop} {s0 : State} (s : State) (result : Nat) (hK : Fits ([.events, .hubReg Reg.SEED_STAGE.PHASE, .hubReg Reg.SEED_STAGE.RESULT, .seed] : List Part) K)
    (ho : Only K F P s0 s) : Only K F P s0 (State.stageFail s result) := by
  unfold State.stageFail
  repeat' first | with_reducible assumption | exact Fits.trans (by decide +kernel) hK | with_reducible apply State.clockFlip_only | with_reducible apply State.stageEvent_only | with_reducible apply State.setPhase_only | with_reducible apply State.hset_only | with_reducible apply Only.ite | dsimp only | split | (with_reducible refine Only.fst (by with_reducible assumption) ?_) | (with_reducible refine Only.snd (by with_reducible assumption) ?_)

theorem State.stageWait_only {K : List Part} {F : FieldId → Prop} {P : PlotId → Prop} {s0 : State} (s : State) (hK : Fits ([.hubReg Reg.SEED_STAGE.PHASE, .seed] : List Part) K)
    (ho : Only K F P s0 s) : Only K F P s0 (State.stageWait s) := by
  unfold State.stageWait
  repeat' first | with_reducible assumption | exact Fits.trans (by decide +kernel) hK | with_reducible apply State.clockFlip_only | with_reducible apply State.setPhase_only | with_reducible apply Only.ite | dsimp only | split | (with_reducible refine Only.fst (by with_reducible assumption) ?_) | (with_reducible refine Only.snd (by with_reducible assumption) ?_)

theorem State.stageResume_only {K : List Part} {F : FieldId → Prop} {P : PlotId → Prop} {s0 : State} (s : State) (hK : Fits ([.hubReg Reg.SEED_STAGE.PHASE, .seed] : List Part) K)
    (ho : Only K F P s0 s) : Only K F P s0 (State.stageResume s) := by
  unfold State.stageResume
  repeat' first | with_reducible assumption | exact Fits.trans (by decide +kernel) hK | with_reducible apply State.clockFlip_only | with_reducible apply State.setPhase_only | with_reducible apply Only.ite | dsimp only | split | (with_reducible refine Only.fst (by with_reducible assumption) ?_) | (with_reducible refine Only.snd (by with_reducible assumption) ?_)

theorem State.applyWrites_only {K : List Part} {F : FieldId → Prop} {P : PlotId → Prop} {s0 : State} (s : State) (k : Nat) (hK : Fits (([.free, .events, .out, .anyHubReg, .msix, .light, .hostTx, .seed, .host, .hubSlots, .power, .hubFx, .hbm, .store, .bin, .hbmErr] : List Part) ++ ([.storeErr, .binErr, .anyReg, .drill, .dr, .queue, .cq, .tine, .samples, .scrub, .notify, .xlines, .boot, .slot, .anyPlotReg, .memu] : List Part) ++ ([.hard, .ports, .router, .gateway, .sheaf, .health, .mirror, .tally, .hubLost, .rimSlots, .thermal, .rimFx] : List Part)) K) (hF : ∀ f, F f) (hP : ∀ p, P p)
    (ho : Only K F P s0 s) : Only K F P s0 (State.applyWrites s k) := by
  unfold State.applyWrites
  repeat' first | with_reducible assumption | exact Fits.trans (by decide +kernel) hK | exact hF | exact hP | exact hF _ | exact hP _ | with_reducible apply State.spaceWrite_only | with_reducible apply Only.ite | dsimp only | split | (with_reducible refine Only.foldl _ _ (fun t a ht => ?_) ?_) | (with_reducible refine Only.foldl_fst _ _ _ (fun t a ht => ?_) ?_) | (with_reducible refine Only.fst (by with_reducible assumption) ?_) | (with_reducible refine Only.snd (by with_reducible assumption) ?_) | exact Fits.anyHub _ (Fits.trans (by decide +kernel) hK) | exact Fits.anyRim _ (Fits.trans (by decide +kernel) hK) | exact Fits.anyPlot _ (Fits.trans (by decide +kernel) hK)

theorem State.stageTime_only {K : List Part} {F : FieldId → Prop} {P : PlotId → Prop} {s0 : State} (s : State) (skipped : Bool) (hK : Fits ([.hubReg Reg.SEED_STAGE_TIME.TIME] : List Part) K)
    (ho : Only K F P s0 s) : Only K F P s0 (State.stageTime s skipped) := by
  unfold State.stageTime
  repeat' first | with_reducible assumption | exact Fits.trans (by decide +kernel) hK | with_reducible apply State.hset_only | with_reducible apply Only.ite | dsimp only | split | (with_reducible refine Only.fst (by with_reducible assumption) ?_) | (with_reducible refine Only.snd (by with_reducible assumption) ?_)

theorem State.stageClose_only {K : List Part} {F : FieldId → Prop} {P : PlotId → Prop} {s0 : State} (s : State) (result : Nat) (skipped : Bool) (hK : Fits (([.free, .events, .out, .anyHubReg, .msix, .light, .hostTx, .seed, .host, .hubSlots, .power, .hubFx, .hbm, .store, .bin, .hbmErr] : List Part) ++ ([.storeErr, .binErr, .anyReg, .drill, .dr, .queue, .cq, .tine, .samples, .scrub, .notify, .xlines, .boot, .slot, .anyPlotReg, .memu] : List Part) ++ ([.hard, .ports, .router, .gateway, .sheaf, .health, .mirror, .tally, .hubLost, .rimSlots, .thermal, .rimFx] : List Part)) K) (hF : ∀ f, F f) (hP : ∀ p, P p)
    (ho : Only K F P s0 s) : Only K F P s0 (State.stageClose s result skipped) := by
  unfold State.stageClose
  repeat' first | with_reducible assumption | exact Fits.trans (by decide +kernel) hK | exact hF | exact hP | exact hF _ | exact hP _ | with_reducible apply State.hset_only | with_reducible apply State.stageTime_only | with_reducible apply State.applyWrites_only | with_reducible apply State.stageFail_only | with_reducible apply State.stageStart_only | with_reducible apply State.stageEvent_only | with_reducible apply State.setPhase_only | with_reducible apply Only.ite | dsimp only | split | (with_reducible refine Only.fst (by with_reducible assumption) ?_) | (with_reducible refine Only.snd (by with_reducible assumption) ?_) | exact Fits.anyHub _ (Fits.trans (by decide +kernel) hK) | exact Fits.anyRim _ (Fits.trans (by decide +kernel) hK) | exact Fits.anyPlot _ (Fits.trans (by decide +kernel) hK)

theorem State.stageGo_only {K : List Part} {F : FieldId → Prop} {P : PlotId → Prop} {s0 : State} (s : State) (k : Nat) (hK : Fits ([.hubReg Reg.SEED_STAGE.GO_IGNORED, .hubReg Reg.SEED_STAGE.PHASE, .hubReg Reg.SEED_STAGE.STAGE, .seed] : List Part) K)
    (ho : Only K F P s0 s) : Only K F P s0 (State.stageGo s k) := by
  unfold State.stageGo
  repeat' first | with_reducible assumption | exact Fits.trans (by decide +kernel) hK | with_reducible apply State.hset_only | with_reducible apply State.updSeed_only | with_reducible apply State.setPhase_only | with_reducible apply State.stageStart_only | with_reducible apply Only.ite | dsimp only | split | (with_reducible refine Only.fst (by with_reducible assumption) ?_) | (with_reducible refine Only.snd (by with_reducible assumption) ?_)

theorem State.stageSkip_only {K : List Part} {F : FieldId → Prop} {P : PlotId → Prop} {s0 : State} (s : State) (k : Nat) (hK : Fits (([.free, .events, .out, .anyHubReg, .msix, .light, .hostTx, .seed, .host, .hubSlots, .power, .hubFx, .hbm, .store, .bin, .hbmErr] : List Part) ++ ([.storeErr, .binErr, .anyReg, .drill, .dr, .queue, .cq, .tine, .samples, .scrub, .notify, .xlines, .boot, .slot, .anyPlotReg, .memu] : List Part) ++ ([.hard, .ports, .router, .gateway, .sheaf, .health, .mirror, .tally, .hubLost, .rimSlots, .thermal, .rimFx] : List Part)) K) (hF : ∀ f, F f) (hP : ∀ p, P p)
    (ho : Only K F P s0 s) : Only K F P s0 (State.stageSkip s k) := by
  unfold State.stageSkip
  repeat' first | with_reducible assumption | exact Fits.trans (by decide +kernel) hK | exact hF | exact hP | exact hF _ | exact hP _ | with_reducible apply State.stageClose_only | with_reducible apply State.stageGo_only | with_reducible apply Only.ite | dsimp only | split | (with_reducible refine Only.fst (by with_reducible assumption) ?_) | (with_reducible refine Only.snd (by with_reducible assumption) ?_) | exact Fits.anyHub _ (Fits.trans (by decide +kernel) hK) | exact Fits.anyRim _ (Fits.trans (by decide +kernel) hK) | exact Fits.anyPlot _ (Fits.trans (by decide +kernel) hK)

theorem State.hostLightEnd_only {K : List Part} {F : FieldId → Prop} {P : PlotId → Prop} {s0 : State} (s : State) (code : Option Nat) (hK : Fits ([.hubReg Reg.HDL_LIGHT_STATUS.RESULT, .seed] : List Part) K)
    (ho : Only K F P s0 s) : Only K F P s0 (State.hostLightEnd s code) := by
  unfold State.hostLightEnd
  repeat' first | with_reducible assumption | exact Fits.trans (by decide +kernel) hK | with_reducible apply State.hset_only | with_reducible apply State.updSeed_only | with_reducible apply Only.ite | dsimp only | split | (with_reducible refine Only.fst (by with_reducible assumption) ?_) | (with_reducible refine Only.snd (by with_reducible assumption) ?_)

theorem State.hostLit_only {K : List Part} {F : FieldId → Prop} {P : PlotId → Prop} {s0 : State} (s0' : State) (tried pass : List Nat) (hK : Fits (([.events, .out, .hubReg Reg.HDL_HOST_ENGINE.DARK, .hubReg Reg.HDL_HOST_ENGINE.INLET_A_OK, .hubReg Reg.HDL_HOST_ENGINE.INLET_B_OK, .hubReg Reg.HDL_HOST_ENGINE.SRC, .hubReg Reg.HDL_LIGHT_STATUS.RESULT, .hubReg Reg.HDL_MODULE.OUTPUT_ON, .hubReg Reg.HDL_MODULE.PROBE_FAIL, .hubReg Reg.HUB_HOST_PHY_STATUS.STATE, .hubReg Reg.HUB_HOST_PHY_STATUS.WIDTH, .light, .hostTx, .seed, .host, .reg Reg.HDL_ENGINE_STATUS.DARK] : List Part) ++ ([.reg Reg.HDL_ENGINE_STATUS.INLET_A_OK, .reg Reg.HDL_ENGINE_STATUS.INLET_B_OK, .reg Reg.HDL_ENGINE_STATUS.SRC, .reg Reg.HDL_PORT_STATUS.APR, .reg Reg.INJ_PT.ARM, .reg Reg.INJ_PT.DONE, .reg Reg.RTE_COMB_STAT.MERGED, .reg Reg.RTE_COMB_STAT.PEAK, .reg Reg.RTE_LINK_CNT.NAKS, .reg Reg.RTE_LINK_CNT.REPLAYED, .reg Reg.RTE_LINK_CNT.TX_FLITS, .reg Reg.RTE_LINK_CREDIT.RES, .reg Reg.RTE_LINK_CREDIT.SHARED, .reg Reg.RTE_LINK_STATUS.RESULT, .reg Reg.RTE_LINK_STATUS.STATE, .ports] : List Part) ++ ([.router, .tally] : List Part)) K) (hF : ∀ f, F f)
    (ho : Only K F P s0 s0') : Only K F P s0 (State.hostLit s0' tried pass) := by
  unfold State.hostLit
  repeat' first | with_reducible assumption | exact Fits.trans (by decide +kernel) hK | exact hF | exact hF _ | with_reducible apply State.hset_only | with_reducible apply State.setInlet_only | with_reducible apply State.emit_only | with_reducible apply State.hostLightEnd_only | with_reducible apply State.engLight_only | with_reducible apply State.engCalibrate_only | with_reducible apply Only.ite | dsimp only | split | (with_reducible refine Only.foldl _ _ (fun t a ht => ?_) ?_) | (with_reducible refine Only.foldl_fst _ _ _ (fun t a ht => ?_) ?_) | (with_reducible refine Only.fst (by with_reducible assumption) ?_) | (with_reducible refine Only.snd (by with_reducible assumption) ?_)

theorem State.hostLightStep_only {K : List Part} {F : FieldId → Prop} {P : PlotId → Prop} {s0 : State} (s : State) (env : LightEnv) (hK : Fits (([.events, .out, .hubReg Reg.HDL_HOST_ENGINE.DARK, .hubReg Reg.HDL_HOST_ENGINE.INLET_A_OK, .hubReg Reg.HDL_HOST_ENGINE.INLET_B_OK, .hubReg Reg.HDL_HOST_ENGINE.SRC, .hubReg Reg.HDL_HOST_ENGINE.SWITCHING, .hubReg Reg.HDL_LIGHT_STATUS.RESULT, .hubReg Reg.HDL_MODULE.OUTPUT_ON, .hubReg Reg.HDL_MODULE.PRESENT, .hubReg Reg.HDL_MODULE.PROBE_FAIL, .hubReg Reg.HUB_HOST_PHY_STATUS.STATE, .hubReg Reg.HUB_HOST_PHY_STATUS.WIDTH, .hubReg Reg.PWR_RAIL_STATUS.PGOOD_OPT, .hubReg Reg.PWR_RAIL_STATUS.PWREN_OPT, .light] : List Part) ++ ([.hostTx, .seed, .host, .power, .reg Reg.HDL_ENGINE_STATUS.DARK, .reg Reg.HDL_ENGINE_STATUS.INLET_A_OK, .reg Reg.HDL_ENGINE_STATUS.INLET_B_OK, .reg Reg.HDL_ENGINE_STATUS.SRC, .reg Reg.HDL_ENGINE_STATUS.SWITCHING, .reg Reg.HDL_PORT_STATUS.APR, .reg Reg.INJ_PT.ARM, .reg Reg.INJ_PT.DONE, .reg Reg.RTE_COMB_STAT.MERGED, .reg Reg.RTE_COMB_STAT.PEAK, .reg Reg.RTE_LINK_CNT.LOST, .reg Reg.RTE_LINK_CNT.NAKS] : List Part) ++ ([.reg Reg.RTE_LINK_CNT.REPLAYED, .reg Reg.RTE_LINK_CNT.TX_FLITS, .reg Reg.RTE_LINK_CREDIT.RES, .reg Reg.RTE_LINK_CREDIT.SHARED, .reg Reg.RTE_LINK_STATUS.PRESERVED, .reg Reg.RTE_LINK_STATUS.RESULT, .reg Reg.RTE_LINK_STATUS.STATE, .ports, .router, .tally] : List Part)) K) (hF : ∀ f, F f)
    (ho : Only K F P s0 s) : Only K F P s0 (State.hostLightStep s env) := by
  unfold State.hostLightStep
  repeat' first | with_reducible assumption | exact Fits.trans (by decide +kernel) hK | exact hF | exact hF _ | with_reducible apply State.updSeed_only | with_reducible apply State.updLight_only | with_reducible apply State.hset_only | with_reducible apply State.hostLightEnd_only | with_reducible apply State.optTimeout_only | with_reducible apply State.optUp_only | with_reducible apply State.identRead_only | with_reducible apply State.emit_only | with_reducible apply State.hostLit_only | with_reducible apply Only.ite | dsimp only | split | (with_reducible refine Only.foldl _ _ (fun t a ht => ?_) ?_) | (with_reducible refine Only.foldl_fst _ _ _ (fun t a ht => ?_) ?_) | (with_reducible refine Only.fst (by with_reducible assumption) ?_) | (with_reducible refine Only.snd (by with_reducible assumption) ?_)

theorem execStagePower_only {K : List Part} {F : FieldId → Prop} {P : PlotId → Prop} {s0 : State} (env : LightEnv) (s : State) (hK : Fits (([.events, .out, .hubReg Reg.HDL_HOST_ENGINE.DARK, .hubReg Reg.HDL_HOST_ENGINE.INLET_A_OK, .hubReg Reg.HDL_HOST_ENGINE.INLET_B_OK, .hubReg Reg.HDL_HOST_ENGINE.SRC, .hubReg Reg.HDL_HOST_ENGINE.SWITCHING, .hubReg Reg.HDL_LIGHT_STATUS.RESULT, .hubReg Reg.HDL_MODULE.OUTPUT_ON, .hubReg Reg.HDL_MODULE.PRESENT, .hubReg Reg.HDL_MODULE.PROBE_FAIL, .hubReg Reg.HUB_HOST_PHY_STATUS.STATE, .hubReg Reg.HUB_HOST_PHY_STATUS.WIDTH, .hubReg Reg.HUB_INJ_STATUS.FUSE, .hubReg Reg.PWR_RAIL_STATUS.PGOOD_OPT, .hubReg Reg.PWR_RAIL_STATUS.PWREN_OPT] : List Part) ++ ([.light, .hostTx, .seed, .host, .power, .reg Reg.HDL_ENGINE_STATUS.DARK, .reg Reg.HDL_ENGINE_STATUS.INLET_A_OK, .reg Reg.HDL_ENGINE_STATUS.INLET_B_OK, .reg Reg.HDL_ENGINE_STATUS.SRC, .reg Reg.HDL_ENGINE_STATUS.SWITCHING, .reg Reg.HDL_PORT_STATUS.APR, .reg Reg.INJ_PT.ARM, .reg Reg.INJ_PT.DONE, .reg Reg.RTE_COMB_STAT.MERGED, .reg Reg.RTE_COMB_STAT.PEAK, .reg Reg.RTE_LINK_CNT.LOST] : List Part) ++ ([.reg Reg.RTE_LINK_CNT.NAKS, .reg Reg.RTE_LINK_CNT.REPLAYED, .reg Reg.RTE_LINK_CNT.TX_FLITS, .reg Reg.RTE_LINK_CREDIT.RES, .reg Reg.RTE_LINK_CREDIT.SHARED, .reg Reg.RTE_LINK_STATUS.PRESERVED, .reg Reg.RTE_LINK_STATUS.RESULT, .reg Reg.RTE_LINK_STATUS.STATE, .memu, .ports, .router, .tally] : List Part)) K) (hF : ∀ f, F f)
    (ho : Only K F P s0 s) : Ends K F P s0 (execStagePower env s) := by
  unfold execStagePower
  repeat' first | with_reducible assumption | exact Fits.trans (by decide +kernel) hK | exact hF | exact hF _ | with_reducible apply State.hset_only | with_reducible apply State.updMemu_only | with_reducible apply State.begin_only | with_reducible apply State.hostLightStep_only | with_reducible apply Ends.finish | with_reducible apply Ends.next | with_reducible apply Only.ite | with_reducible apply Ends.ite | dsimp only | split | (with_reducible refine Only.foldl _ _ (fun t a ht => ?_) ?_) | (with_reducible refine Only.foldl_fst _ _ _ (fun t a ht => ?_) ?_) | (with_reducible refine Only.fst (by with_reducible assumption) ?_) | (with_reducible refine Only.snd (by with_reducible assumption) ?_)

theorem State.imageTried_only {K : List Part} {F : FieldId → Prop} {P : PlotId → Prop} {s0 : State} (s : State) (slot code build : Nat) (hK : Fits ([.events, .hubReg Reg.SEED_IMAGE_STATUS.RESULT_A, .hubReg Reg.SEED_IMAGE_STATUS.RESULT_B, .hubReg Reg.SEED_IMAGE_STATUS.RESULT_HOST] : List Part) K)
    (ho : Only K F P s0 s) : Only K F P s0 (State.imageTried s slot code build) := by
  unfold State.imageTried
  repeat' first | with_reducible assumption | exact Fits.trans (by decide +kernel) hK | with_reducible apply State.raiseHub_only | with_reducible apply State.hset_only | with_reducible apply Only.ite | dsimp only | split | (with_reducible refine Only.fst (by with_reducible assumption) ?_) | (with_reducible refine Only.snd (by with_reducible assumption) ?_)

theorem State.seedMeasure_only {K : List Part} {F : FieldId → Prop} {P : PlotId → Prop} {s0 : State} (s : State) (slot : Nat) (b D : List Byte) (hK : Fits ([.hubReg Reg.SEED_MEASURE.M] : List Part) K)
    (ho : Only K F P s0 s) : Only K F P s0 (State.seedMeasure s slot b D) := by
  unfold State.seedMeasure
  repeat' first | with_reducible assumption | exact Fits.trans (by decide +kernel) hK | with_reducible apply State.hset_only | with_reducible apply Only.ite | dsimp only | split | (with_reducible refine Only.fst (by with_reducible assumption) ?_) | (with_reducible refine Only.snd (by with_reducible assumption) ?_)

theorem State.seedRecords_only {K : List Part} {F : FieldId → Prop} {P : PlotId → Prop} {s0 : State} (s : State) (b : List Byte) (hK : Fits ([.hubReg Reg.CAL_COMP.C0, .hubReg Reg.CAL_COMP.C1, .hubReg Reg.CAL_COMP.C2, .hubReg Reg.CAL_COMP.ENABLE, .hubReg Reg.CAL_COMP.T0, .hubReg Reg.HUB_INJ_STATUS.PROVING] : List Part) K)
    (ho : Only K F P s0 s) : Only K F P s0 (State.seedRecords s b) := by
  unfold State.seedRecords
  repeat' first | with_reducible assumption | exact Fits.trans (by decide +kernel) hK | with_reducible apply State.hset_only | with_reducible apply Only.ite | dsimp only | split | (with_reducible refine Only.fst (by with_reducible assumption) ?_) | (with_reducible refine Only.snd (by with_reducible assumption) ?_)

theorem State.imageAccept_only {K : List Part} {F : FieldId → Prop} {P : PlotId → Prop} {s0 : State} (s : State) (slot : Nat) (raw : List Byte) (hK : Fits ([.hubReg Reg.CAL_COMP.C0, .hubReg Reg.CAL_COMP.C1, .hubReg Reg.CAL_COMP.C2, .hubReg Reg.CAL_COMP.ENABLE, .hubReg Reg.CAL_COMP.T0, .hubReg Reg.HUB_INJ_STATUS.PROVING, .hubReg Reg.SEED_DIGEST.D, .hubReg Reg.SEED_IMAGE_STATUS.BUILD, .hubReg Reg.SEED_IMAGE_STATUS.LENGTH, .hubReg Reg.SEED_IMAGE_STATUS.SLOT, .hubReg Reg.SEED_IMAGE_STATUS.SVN, .hubReg Reg.SEED_IMAGE_STATUS.UNPROVISIONED, .hubReg Reg.SEED_MEASURE.M, .hubReg Reg.SEED_STAGE.AUTO, .hubReg Reg.SEED_STAGE.FAST_PATH, .seed] : List Part) K)
    (ho : Only K F P s0 s) : Only K F P s0 (State.imageAccept s slot raw) := by
  unfold State.imageAccept
  repeat' first | with_reducible assumption | exact Fits.trans (by decide +kernel) hK | with_reducible apply State.hset_only | with_reducible apply State.updSeed_only | with_reducible apply State.seedRecords_only | with_reducible apply State.seedMeasure_only | with_reducible apply Only.ite | dsimp only | split | (with_reducible refine Only.fst (by with_reducible assumption) ?_) | (with_reducible refine Only.snd (by with_reducible assumption) ?_)

theorem State.slotTry_only {K : List Part} {F : FieldId → Prop} {P : PlotId → Prop} {s0 : State} (s : State) (slot : Nat) (img : Option (List Byte)) (hK : Fits (([.events, .hubReg Reg.CAL_COMP.C0, .hubReg Reg.CAL_COMP.C1, .hubReg Reg.CAL_COMP.C2, .hubReg Reg.CAL_COMP.ENABLE, .hubReg Reg.CAL_COMP.T0, .hubReg Reg.HUB_INJ_STATUS.PROVING, .hubReg Reg.SEED_DIGEST.D, .hubReg Reg.SEED_IMAGE_STATUS.BUILD, .hubReg Reg.SEED_IMAGE_STATUS.LENGTH, .hubReg Reg.SEED_IMAGE_STATUS.RESULT_A, .hubReg Reg.SEED_IMAGE_STATUS.RESULT_B, .hubReg Reg.SEED_IMAGE_STATUS.RESULT_HOST, .hubReg Reg.SEED_IMAGE_STATUS.SLOT, .hubReg Reg.SEED_IMAGE_STATUS.SVN, .hubReg Reg.SEED_IMAGE_STATUS.UNPROVISIONED] : List Part) ++ ([.hubReg Reg.SEED_MEASURE.M, .hubReg Reg.SEED_STAGE.AUTO, .hubReg Reg.SEED_STAGE.FAST_PATH, .seed] : List Part)) K)
    (ho : Only K F P s0 s) : Only K F P s0 (State.slotTry s slot img).1 := by
  unfold State.slotTry
  repeat' first | with_reducible assumption | exact Fits.trans (by decide +kernel) hK | with_reducible apply State.imageTried_only | with_reducible apply State.imageAccept_only | with_reducible apply Only.ite | dsimp only | split | (with_reducible refine Only.fst (by with_reducible assumption) ?_) | (with_reducible refine Only.snd (by with_reducible assumption) ?_)

theorem State.hostImage_only {K : List Part} {F : FieldId → Prop} {P : PlotId → Prop} {s0 : State} (s : State) (hK : Fits (([.events, .hubReg Reg.CAL_COMP.C0, .hubReg Reg.CAL_COMP.C1, .hubReg Reg.CAL_COMP.C2, .hubReg Reg.CAL_COMP.ENABLE, .hubReg Reg.CAL_COMP.T0, .hubReg Reg.HUB_INJ_STATUS.PROVING, .hubReg Reg.SEED_CTL.HOST_IMAGE, .hubReg Reg.SEED_DIGEST.D, .hubReg Reg.SEED_IMAGE_STATUS.BUILD, .hubReg Reg.SEED_IMAGE_STATUS.LENGTH, .hubReg Reg.SEED_IMAGE_STATUS.RESULT_A, .hubReg Reg.SEED_IMAGE_STATUS.RESULT_B, .hubReg Reg.SEED_IMAGE_STATUS.RESULT_HOST, .hubReg Reg.SEED_IMAGE_STATUS.SLOT, .hubReg Reg.SEED_IMAGE_STATUS.SVN] : List Part) ++ ([.hubReg Reg.SEED_IMAGE_STATUS.UNPROVISIONED, .hubReg Reg.SEED_MEASURE.M, .hubReg Reg.SEED_STAGE.AUTO, .hubReg Reg.SEED_STAGE.FAST_PATH, .hubReg Reg.SEED_STAGE.PHASE, .seed] : List Part)) K)
    (ho : Only K F P s0 s) : Only K F P s0 (State.hostImage s) := by
  unfold State.hostImage
  repeat' first | with_reducible assumption | exact Fits.trans (by decide +kernel) hK | with_reducible apply State.hset_only | with_reducible apply State.imageTried_only | with_reducible apply State.stageResume_only | with_reducible apply State.imageAccept_only | with_reducible apply Only.ite | dsimp only | split | (with_reducible refine Only.fst (by with_reducible assumption) ?_) | (with_reducible refine Only.snd (by with_reducible assumption) ?_)

theorem State.hostImageDue_only {K : List Part} {F : FieldId → Prop} {P : PlotId → Prop} {s0 : State} (s : State) (hK : Fits (([.events, .hubReg Reg.CAL_COMP.C0, .hubReg Reg.CAL_COMP.C1, .hubReg Reg.CAL_COMP.C2, .hubReg Reg.CAL_COMP.ENABLE, .hubReg Reg.CAL_COMP.T0, .hubReg Reg.HUB_INJ_STATUS.PROVING, .hubReg Reg.SEED_CTL.HOST_IMAGE, .hubReg Reg.SEED_DIGEST.D, .hubReg Reg.SEED_IMAGE_STATUS.BUILD, .hubReg Reg.SEED_IMAGE_STATUS.LENGTH, .hubReg Reg.SEED_IMAGE_STATUS.RESULT_A, .hubReg Reg.SEED_IMAGE_STATUS.RESULT_B, .hubReg Reg.SEED_IMAGE_STATUS.RESULT_HOST, .hubReg Reg.SEED_IMAGE_STATUS.SLOT, .hubReg Reg.SEED_IMAGE_STATUS.SVN] : List Part) ++ ([.hubReg Reg.SEED_IMAGE_STATUS.UNPROVISIONED, .hubReg Reg.SEED_MEASURE.M, .hubReg Reg.SEED_STAGE.AUTO, .hubReg Reg.SEED_STAGE.FAST_PATH, .hubReg Reg.SEED_STAGE.PHASE, .seed] : List Part)) K)
    (ho : Only K F P s0 s) : Only K F P s0 (State.hostImageDue s) := by
  unfold State.hostImageDue
  repeat' first | with_reducible assumption | exact Fits.trans (by decide +kernel) hK | with_reducible apply State.hostImage_only | with_reducible apply Only.ite | dsimp only | split | (with_reducible refine Only.fst (by with_reducible assumption) ?_) | (with_reducible refine Only.snd (by with_reducible assumption) ?_)

theorem execStageSeed_only {K : List Part} {F : FieldId → Prop} {P : PlotId → Prop} {s0 : State} (env : LightEnv) (flash : Option Flash) (s : State) (hK : Fits (([.events, .out, .hubReg Reg.CAL_COMP.C0, .hubReg Reg.CAL_COMP.C1, .hubReg Reg.CAL_COMP.C2, .hubReg Reg.CAL_COMP.ENABLE, .hubReg Reg.CAL_COMP.T0, .hubReg Reg.HDL_HOST_ENGINE.DARK, .hubReg Reg.HDL_HOST_ENGINE.INLET_A_OK, .hubReg Reg.HDL_HOST_ENGINE.INLET_B_OK, .hubReg Reg.HDL_HOST_ENGINE.SRC, .hubReg Reg.HDL_HOST_ENGINE.SWITCHING, .hubReg Reg.HDL_LIGHT_STATUS.RESULT, .hubReg Reg.HDL_MODULE.OUTPUT_ON, .hubReg Reg.HDL_MODULE.PRESENT, .hubReg Reg.HDL_MODULE.PROBE_FAIL] : List Part) ++ ([.hubReg Reg.HUB_HOST_PHY_STATUS.STATE, .hubReg Reg.HUB_HOST_PHY_STATUS.WIDTH, .hubReg Reg.HUB_INJ_STATUS.PROVING, .hubReg Reg.PWR_RAIL_STATUS.PGOOD_OPT, .hubReg Reg.PWR_RAIL_STATUS.PWREN_OPT, .hubReg Reg.SEED_CTL.HOST_IMAGE, .hubReg Reg.SEED_DIGEST.D, .hubReg Reg.SEED_IMAGE_STATUS.BUILD, .hubReg Reg.SEED_IMAGE_STATUS.LENGTH, .hubReg Reg.SEED_IMAGE_STATUS.RESULT_A, .hubReg Reg.SEED_IMAGE_STATUS.RESULT_B, .hubReg Reg.SEED_IMAGE_STATUS.RESULT_HOST, .hubReg Reg.SEED_IMAGE_STATUS.SLOT, .hubReg Reg.SEED_IMAGE_STATUS.SVN, .hubReg Reg.SEED_IMAGE_STATUS.UNPROVISIONED, .hubReg Reg.SEED_MEASURE.M] : List Part) ++ ([.hubReg Reg.SEED_STAGE.AUTO, .hubReg Reg.SEED_STAGE.FAST_PATH, .hubReg Reg.SEED_STAGE.PHASE, .hubReg Reg.SEED_STAGE.RESULT, .light, .hostTx, .seed, .host, .power, .reg Reg.HDL_ENGINE_STATUS.DARK, .reg Reg.HDL_ENGINE_STATUS.INLET_A_OK, .reg Reg.HDL_ENGINE_STATUS.INLET_B_OK, .reg Reg.HDL_ENGINE_STATUS.SRC, .reg Reg.HDL_ENGINE_STATUS.SWITCHING, .reg Reg.HDL_PORT_STATUS.APR, .reg Reg.INJ_PT.ARM] : List Part) ++ ([.reg Reg.INJ_PT.DONE, .reg Reg.RTE_COMB_STAT.MERGED, .reg Reg.RTE_COMB_STAT.PEAK, .reg Reg.RTE_LINK_CNT.LOST, .reg Reg.RTE_LINK_CNT.NAKS, .reg Reg.RTE_LINK_CNT.REPLAYED, .reg Reg.RTE_LINK_CNT.TX_FLITS, .reg Reg.RTE_LINK_CREDIT.RES, .reg Reg.RTE_LINK_CREDIT.SHARED, .reg Reg.RTE_LINK_STATUS.PRESERVED, .reg Reg.RTE_LINK_STATUS.RESULT, .reg Reg.RTE_LINK_STATUS.STATE, .ports, .router, .tally] : List Part)) K) (hF : ∀ f, F f)
    (ho : Only K F P s0 s) : Ends K F P s0 (execStageSeed env flash s) := by
  unfold execStageSeed
  repeat' first | with_reducible assumption | exact Fits.trans (by decide +kernel) hK | exact hF | exact hF _ | with_reducible apply State.begin_only | with_reducible apply State.hostLightStep_only | with_reducible apply State.hostImageDue_only | with_reducible apply State.stageWait_only | with_reducible apply State.hset_only | with_reducible apply State.slotTry_only | with_reducible apply State.stageFail_only | with_reducible apply Ends.finish | with_reducible apply Ends.next | with_reducible apply Only.ite | with_reducible apply Ends.ite | dsimp only | split | (with_reducible refine Only.fst (by with_reducible assumption) ?_) | (with_reducible refine Only.snd (by with_reducible assumption) ?_)

theorem execHostImage_only {K : List Part} {F : FieldId → Prop} {P : PlotId → Prop} {s0 : State} (s : State) (hK : Fits (([.events, .hubReg Reg.CAL_COMP.C0, .hubReg Reg.CAL_COMP.C1, .hubReg Reg.CAL_COMP.C2, .hubReg Reg.CAL_COMP.ENABLE, .hubReg Reg.CAL_COMP.T0, .hubReg Reg.HUB_INJ_STATUS.PROVING, .hubReg Reg.SEED_CTL.HOST_IMAGE, .hubReg Reg.SEED_DIGEST.D, .hubReg Reg.SEED_IMAGE_STATUS.BUILD, .hubReg Reg.SEED_IMAGE_STATUS.LENGTH, .hubReg Reg.SEED_IMAGE_STATUS.RESULT_A, .hubReg Reg.SEED_IMAGE_STATUS.RESULT_B, .hubReg Reg.SEED_IMAGE_STATUS.RESULT_HOST, .hubReg Reg.SEED_IMAGE_STATUS.SLOT, .hubReg Reg.SEED_IMAGE_STATUS.SVN] : List Part) ++ ([.hubReg Reg.SEED_IMAGE_STATUS.UNPROVISIONED, .hubReg Reg.SEED_MEASURE.M, .hubReg Reg.SEED_STAGE.AUTO, .hubReg Reg.SEED_STAGE.FAST_PATH, .hubReg Reg.SEED_STAGE.PHASE, .seed] : List Part)) K)
    (ho : Only K F P s0 s) : Ends K F P s0 (execHostImage s) := by
  unfold execHostImage
  repeat' first | with_reducible assumption | exact Fits.trans (by decide +kernel) hK | with_reducible apply State.hostImage_only | with_reducible apply Ends.finish | with_reducible apply Ends.next | with_reducible apply Only.ite | with_reducible apply Ends.ite | dsimp only | split | (with_reducible refine Only.fst (by with_reducible assumption) ?_) | (with_reducible refine Only.snd (by with_reducible assumption) ?_)

theorem execHostLightRetry_only {K : List Part} {F : FieldId → Prop} {P : PlotId → Prop} {s0 : State} (env : LightEnv) (s : State) (hK : Fits (([.events, .out, .hubReg Reg.HDL_HOST_ENGINE.DARK, .hubReg Reg.HDL_HOST_ENGINE.INLET_A_OK, .hubReg Reg.HDL_HOST_ENGINE.INLET_B_OK, .hubReg Reg.HDL_HOST_ENGINE.SRC, .hubReg Reg.HDL_HOST_ENGINE.SWITCHING, .hubReg Reg.HDL_LIGHT_STATUS.RESULT, .hubReg Reg.HDL_MODULE.OUTPUT_ON, .hubReg Reg.HDL_MODULE.PRESENT, .hubReg Reg.HDL_MODULE.PROBE_FAIL, .hubReg Reg.HUB_HOST_PHY_STATUS.STATE, .hubReg Reg.HUB_HOST_PHY_STATUS.WIDTH, .hubReg Reg.PWR_RAIL_STATUS.PGOOD_OPT, .hubReg Reg.PWR_RAIL_STATUS.PWREN_OPT, .light] : List Part) ++ ([.hostTx, .seed, .host, .power, .reg Reg.HDL_ENGINE_STATUS.DARK, .reg Reg.HDL_ENGINE_STATUS.INLET_A_OK, .reg Reg.HDL_ENGINE_STATUS.INLET_B_OK, .reg Reg.HDL_ENGINE_STATUS.SRC, .reg Reg.HDL_ENGINE_STATUS.SWITCHING, .reg Reg.HDL_PORT_STATUS.APR, .reg Reg.INJ_PT.ARM, .reg Reg.INJ_PT.DONE, .reg Reg.RTE_COMB_STAT.MERGED, .reg Reg.RTE_COMB_STAT.PEAK, .reg Reg.RTE_LINK_CNT.LOST, .reg Reg.RTE_LINK_CNT.NAKS] : List Part) ++ ([.reg Reg.RTE_LINK_CNT.REPLAYED, .reg Reg.RTE_LINK_CNT.TX_FLITS, .reg Reg.RTE_LINK_CREDIT.RES, .reg Reg.RTE_LINK_CREDIT.SHARED, .reg Reg.RTE_LINK_STATUS.PRESERVED, .reg Reg.RTE_LINK_STATUS.RESULT, .reg Reg.RTE_LINK_STATUS.STATE, .ports, .router, .tally] : List Part)) K) (hF : ∀ f, F f)
    (ho : Only K F P s0 s) : Ends K F P s0 (execHostLightRetry env s) := by
  unfold execHostLightRetry
  repeat' first | with_reducible assumption | exact Fits.trans (by decide +kernel) hK | exact hF | exact hF _ | with_reducible apply State.hostLightStep_only | with_reducible apply Ends.finish | with_reducible apply Ends.next | with_reducible apply Only.ite | with_reducible apply Ends.ite | dsimp only | split | (with_reducible refine Only.fst (by with_reducible assumption) ?_) | (with_reducible refine Only.snd (by with_reducible assumption) ?_)

theorem State.d2dTrain_only {K : List Part} {F : FieldId → Prop} {P : PlotId → Prop} {s0 : State} (s : State) (k n : Nat) (hK : Fits ([.events, .hubReg Reg.HUB_D2D_STATUS.MODULES, .hubReg Reg.HUB_D2D_STATUS.UP] : List Part) K)
    (ho : Only K F P s0 s) : Only K F P s0 (State.d2dTrain s k n) := by
  unfold State.d2dTrain
  repeat' first | with_reducible assumption | exact Fits.trans (by decide +kernel) hK | with_reducible apply State.d2dModules_only | with_reducible apply State.hset_only | with_reducible apply Only.ite | dsimp only | split | (with_reducible refine Only.fst (by with_reducible assumption) ?_) | (with_reducible refine Only.snd (by with_reducible assumption) ?_)

theorem State.fieldUp_only {K : List Part} {F : FieldId → Prop} {P : PlotId → Prop} {s0 : State} (s : State) (f : FieldId) (rimOk : Bool) (hK : Fits (([.events, .out, .hubReg Reg.HUB_D2D_STATUS.MODULES, .hubReg Reg.HUB_D2D_STATUS.UP, .hubReg Reg.HUB_FIELD_STATE.HBM0_OK, .hubReg Reg.HUB_FIELD_STATE.HBM1_OK, .hubReg Reg.HUB_FIELD_STATE.STATE, .hubReg Reg.MBX_HUB_IN_META.FULL, .hubReg Reg.MBX_HUB_OUT_ACK.CODE, .hubReg Reg.MBX_HUB_OUT_ACK.DONE, .hubReg Reg.MBX_HUB_OUT_META.PENDING, .hubReg Reg.PWR_RAIL_STATUS.PGOOD, .hubSlots, .power, .store, .bin] : List Part) ++ ([.storeErr, .binErr, .reg Reg.INJ_PT.ARM, .reg Reg.INJ_PT.DONE, .reg Reg.RTE_COMB_STAT.MERGED, .reg Reg.RTE_COMB_STAT.PEAK, .reg Reg.RTE_LINK_CNT.LOST, .reg Reg.RTE_LINK_CNT.NAKS, .reg Reg.RTE_LINK_CNT.REPLAYED, .reg Reg.RTE_LINK_CNT.TX_FLITS, .reg Reg.RTE_LINK_CREDIT.RES, .reg Reg.RTE_LINK_CREDIT.SHARED, .reg Reg.RTE_LINK_STATUS.PRESERVED, .reg Reg.RTE_LINK_STATUS.RESULT, .reg Reg.RTE_LINK_STATUS.STATE, .drill] : List Part) ++ ([.dr, .queue, .cq, .tine, .samples, .scrub, .notify, .xlines, .boot, .slot, .anyPlotReg, .hard, .ports, .router, .gateway, .tally] : List Part) ++ ([.hubLost, .far (.reg Reg.MBX_RIM_IN_META.FULL), .far (.reg Reg.MBX_RIM_OUT_ACK.CODE), .far (.reg Reg.MBX_RIM_OUT_ACK.DONE), .far (.reg Reg.MBX_RIM_OUT_META.PENDING), .far .slot, .far (.plotReg Reg.MBX_PLOT_IN_META.FULL), .far (.plotReg Reg.MBX_PLOT_OUT_ACK.CODE), .far (.plotReg Reg.MBX_PLOT_OUT_ACK.DONE), .far (.plotReg Reg.MBX_PLOT_OUT_META.PENDING), .far .rimSlots] : List Part)) K) (hF : F f) (hP : ∀ p, P p)
    (ho : Only K F P s0 s) : Only K F P s0 (State.fieldUp s f rimOk) := by
  unfold State.fieldUp
  repeat' first | with_reducible assumption | exact Fits.trans (by decide +kernel) hK | exact hF | exact hP | exact hP _ | with_reducible apply State.setRail_only | with_reducible apply State.hset_only | with_reducible apply State.fieldDark_only | with_reducible apply State.updField_only | with_reducible apply State.setSvc_only | (refine fun (X : Field) => ?_) | with_reducible apply FieldOnly.setReg | with_reducible exact FieldOnly.refl _ _ _ | with_reducible apply FieldOnly.updPlot | with_reducible apply FieldOnly.ite | (refine FieldOnly.keep rfl rfl (fun k hk => ?_); cases k <;> first | exact trivial | exact rfl | exact ⟨rfl, rfl⟩ | exact ⟨rfl, rfl, rfl⟩ | exact (Fits.not hK hk rfl).elim) | with_reducible apply Only.ite | dsimp only | split | (with_reducible refine Only.fst (by with_reducible assumption) ?_) | (with_reducible refine Only.snd (by with_reducible assumption) ?_) | exact Fits.anyPlot _ (Fits.trans (by decide +kernel) hK)

theorem State.fieldUp_all {K : List Part} {F : FieldId → Prop} {P : PlotId → Prop} {s0 : State} (s : State) (f : FieldId) (rimOk : Bool) (hK : Fits ((([.events, .out, .hubReg Reg.HUB_D2D_STATUS.MODULES, .hubReg Reg.HUB_D2D_STATUS.UP, .hubReg Reg.HUB_FIELD_STATE.HBM0_OK, .hubReg Reg.HUB_FIELD_STATE.HBM1_OK, .hubReg Reg.HUB_FIELD_STATE.STATE, .hubReg Reg.MBX_HUB_IN_META.FULL, .hubReg Reg.MBX_HUB_OUT_ACK.CODE, .hubReg Reg.MBX_HUB_OUT_ACK.DONE, .hubReg Reg.MBX_HUB_OUT_META.PENDING, .hubReg Reg.PWR_RAIL_STATUS.PGOOD, .hubSlots, .power, .store, .bin] : List Part) ++ ([.storeErr, .binErr, .reg Reg.INJ_PT.ARM, .reg Reg.INJ_PT.DONE, .reg Reg.RTE_COMB_STAT.MERGED, .reg Reg.RTE_COMB_STAT.PEAK, .reg Reg.RTE_LINK_CNT.LOST, .reg Reg.RTE_LINK_CNT.NAKS, .reg Reg.RTE_LINK_CNT.REPLAYED, .reg Reg.RTE_LINK_CNT.TX_FLITS, .reg Reg.RTE_LINK_CREDIT.RES, .reg Reg.RTE_LINK_CREDIT.SHARED, .reg Reg.RTE_LINK_STATUS.PRESERVED, .reg Reg.RTE_LINK_STATUS.RESULT, .reg Reg.RTE_LINK_STATUS.STATE, .drill] : List Part) ++ ([.dr, .queue, .cq, .tine, .samples, .scrub, .notify, .xlines, .boot, .slot, .anyPlotReg, .hard, .ports, .router, .gateway, .tally] : List Part) ++ ([.hubLost, .far (.reg Reg.MBX_RIM_IN_META.FULL), .far (.reg Reg.MBX_RIM_OUT_ACK.CODE), .far (.reg Reg.MBX_RIM_OUT_ACK.DONE), .far (.reg Reg.MBX_RIM_OUT_META.PENDING), .far .slot, .far (.plotReg Reg.MBX_PLOT_IN_META.FULL), .far (.plotReg Reg.MBX_PLOT_OUT_ACK.CODE), .far (.plotReg Reg.MBX_PLOT_OUT_ACK.DONE), .far (.plotReg Reg.MBX_PLOT_OUT_META.PENDING), .far .rimSlots] : List Part)).map Part.anear) K) (hF : ∀ f, F f) (hP : ∀ p, P p)
    (ho : Only K F P s0 s) : Only K F P s0 (State.fieldUp s f rimOk) :=
  ho.trans (Only.near (l := (([.events, .out, .hubReg Reg.HUB_D2D_STATUS.MODULES, .hubReg Reg.HUB_D2D_STATUS.UP, .hubReg Reg.HUB_FIELD_STATE.HBM0_OK, .hubReg Reg.HUB_FIELD_STATE.HBM1_OK, .hubReg Reg.HUB_FIELD_STATE.STATE, .hubReg Reg.MBX_HUB_IN_META.FULL, .hubReg Reg.MBX_HUB_OUT_ACK.CODE, .hubReg Reg.MBX_HUB_OUT_ACK.DONE, .hubReg Reg.MBX_HUB_OUT_META.PENDING, .hubReg Reg.PWR_RAIL_STATUS.PGOOD, .hubSlots, .power, .store, .bin] : List Part) ++ ([.storeErr, .binErr, .reg Reg.INJ_PT.ARM, .reg Reg.INJ_PT.DONE, .reg Reg.RTE_COMB_STAT.MERGED, .reg Reg.RTE_COMB_STAT.PEAK, .reg Reg.RTE_LINK_CNT.LOST, .reg Reg.RTE_LINK_CNT.NAKS, .reg Reg.RTE_LINK_CNT.REPLAYED, .reg Reg.RTE_LINK_CNT.TX_FLITS, .reg Reg.RTE_LINK_CREDIT.RES, .reg Reg.RTE_LINK_CREDIT.SHARED, .reg Reg.RTE_LINK_STATUS.PRESERVED, .reg Reg.RTE_LINK_STATUS.RESULT, .reg Reg.RTE_LINK_STATUS.STATE, .drill] : List Part) ++ ([.dr, .queue, .cq, .tine, .samples, .scrub, .notify, .xlines, .boot, .slot, .anyPlotReg, .hard, .ports, .router, .gateway, .tally] : List Part) ++ ([.hubLost, .far (.reg Reg.MBX_RIM_IN_META.FULL), .far (.reg Reg.MBX_RIM_OUT_ACK.CODE), .far (.reg Reg.MBX_RIM_OUT_ACK.DONE), .far (.reg Reg.MBX_RIM_OUT_META.PENDING), .far .slot, .far (.plotReg Reg.MBX_PLOT_IN_META.FULL), .far (.plotReg Reg.MBX_PLOT_OUT_ACK.CODE), .far (.plotReg Reg.MBX_PLOT_OUT_ACK.DONE), .far (.plotReg Reg.MBX_PLOT_OUT_META.PENDING), .far .rimSlots] : List Part))) (State.fieldUp_only s f rimOk (Fits.refl _) trivial (fun _ => trivial) (Only.refl _ _ _ _)) hK hF hP)

theorem State.pkgCoord_only {K : List Part} {F : FieldId → Prop} {P : PlotId → Prop} {s0 : State} (s : State) (hK : Fits ([.hubReg Reg.HUB_PKG_COORD.U, .hubReg Reg.HUB_PKG_COORD.V, .hubReg Reg.HUB_PKG_COORD.VALID, .hubReg Reg.HUB_PKG_COORD.W] : List Part) K)
    (ho : Only K F P s0 s) : Only K F P s0 (State.pkgCoord s) := by
  unfold State.pkgCoord
  repeat' first | with_reducible assumption | exact Fits.trans (by decide +kernel) hK | with_reducible apply State.hset_only | with_reducible apply Only.ite | dsimp only | split | (with_reducible refine Only.fst (by with_reducible assumption) ?_) | (with_reducible refine Only.snd (by with_reducible assumption) ?_)

theorem execStageFieldPower_only {K : List Part} {F : FieldId → Prop} {P : PlotId → Prop} {s0 : State} (pgood rimOk : Fin 16) (modules : List Nat) (s : State) (hK : Fits (([.events, .out, .hubReg Reg.HUB_D2D_STATUS.MODULES, .hubReg Reg.HUB_D2D_STATUS.UP, .hubReg Reg.HUB_FIELD_STATE.HBM0_OK, .hubReg Reg.HUB_FIELD_STATE.HBM1_OK, .hubReg Reg.HUB_FIELD_STATE.STATE, .hubReg Reg.HUB_PKG_COORD.U, .hubReg Reg.HUB_PKG_COORD.V, .hubReg Reg.HUB_PKG_COORD.VALID, .hubReg Reg.HUB_PKG_COORD.W, .hubReg Reg.MBX_HUB_IN_META.FULL, .hubReg Reg.MBX_HUB_OUT_ACK.CODE, .hubReg Reg.MBX_HUB_OUT_ACK.DONE, .hubReg Reg.MBX_HUB_OUT_META.PENDING, .hubReg Reg.PWR_RAIL_STATUS.PGOOD] : List Part) ++ ([.hubReg Reg.PWR_RAIL_STATUS.PWREN, .seed, .hubSlots, .power, .store, .bin, .storeErr, .binErr, .reg Reg.INJ_PT.ARM, .reg Reg.INJ_PT.DONE, .reg Reg.MBX_RIM_IN_META.FULL, .reg Reg.MBX_RIM_OUT_ACK.CODE, .reg Reg.MBX_RIM_OUT_ACK.DONE, .reg Reg.MBX_RIM_OUT_META.PENDING, .reg Reg.RTE_COMB_STAT.MERGED, .reg Reg.RTE_COMB_STAT.PEAK] : List Part) ++ ([.reg Reg.RTE_LINK_CNT.LOST, .reg Reg.RTE_LINK_CNT.NAKS, .reg Reg.RTE_LINK_CNT.REPLAYED, .reg Reg.RTE_LINK_CNT.TX_FLITS, .reg Reg.RTE_LINK_CREDIT.RES, .reg Reg.RTE_LINK_CREDIT.SHARED, .reg Reg.RTE_LINK_STATUS.PRESERVED, .reg Reg.RTE_LINK_STATUS.RESULT, .reg Reg.RTE_LINK_STATUS.STATE, .drill, .dr, .queue, .cq, .tine, .samples, .scrub] : List Part) ++ ([.notify, .xlines, .boot, .slot, .anyPlotReg, .hard, .ports, .router, .gateway, .tally, .hubLost, .rimSlots] : List Part)) K) (hF : ∀ f, F f) (hP : ∀ p, P p)
    (ho : Only K F P s0 s) : Ends K F P s0 (execStageFieldPower pgood rimOk modules s) := by
  unfold execStageFieldPower
  repeat' first | with_reducible assumption | exact Fits.trans (by decide +kernel) hK | exact hF | exact hP | exact hF _ | exact hP _ | with_reducible apply State.begin_only | with_reducible apply State.hset_only | with_reducible apply State.fieldUp_all | with_reducible apply State.updSeed_only | with_reducible apply State.d2dTrain_only | with_reducible apply State.pkgCoord_only | with_reducible apply Ends.finish | with_reducible apply Ends.next | with_reducible apply Only.ite | with_reducible apply Ends.ite | dsimp only | split | (with_reducible refine Only.foldl _ _ (fun t a ht => ?_) ?_) | (with_reducible refine Only.foldl_fst _ _ _ (fun t a ht => ?_) ?_) | (with_reducible refine Only.fst (by with_reducible assumption) ?_) | (with_reducible refine Only.snd (by with_reducible assumption) ?_) | exact Fits.anyPlot _ (Fits.trans (by decide +kernel) hK)

theorem execPgoodTimeout_only {K : List Part} {F : FieldId → Prop} {P : PlotId → Prop} {s0 : State} (f : FieldId) (s : State) (hK : Fits (([.events, .out, .hubReg Reg.HUB_D2D_STATUS.MODULES, .hubReg Reg.HUB_D2D_STATUS.UP, .hubReg Reg.HUB_FIELD_STATE.HBM0_OK, .hubReg Reg.HUB_FIELD_STATE.HBM1_OK, .hubReg Reg.HUB_FIELD_STATE.STATE, .hubReg Reg.MBX_HUB_IN_META.FULL, .hubReg Reg.MBX_HUB_OUT_ACK.CODE, .hubReg Reg.MBX_HUB_OUT_ACK.DONE, .hubReg Reg.MBX_HUB_OUT_META.PENDING, .hubReg Reg.PWR_RAIL_STATUS.PGOOD, .hubReg Reg.PWR_RAIL_STATUS.PWREN, .seed, .hubSlots, .power] : List Part) ++ ([.store, .bin, .storeErr, .binErr, .reg Reg.INJ_PT.ARM, .reg Reg.INJ_PT.DONE, .reg Reg.RTE_COMB_STAT.MERGED, .reg Reg.RTE_COMB_STAT.PEAK, .reg Reg.RTE_LINK_CNT.LOST, .reg Reg.RTE_LINK_CNT.NAKS, .reg Reg.RTE_LINK_CNT.REPLAYED, .reg Reg.RTE_LINK_CNT.TX_FLITS, .reg Reg.RTE_LINK_CREDIT.RES, .reg Reg.RTE_LINK_CREDIT.SHARED, .reg Reg.RTE_LINK_STATUS.PRESERVED, .reg Reg.RTE_LINK_STATUS.RESULT] : List Part) ++ ([.reg Reg.RTE_LINK_STATUS.STATE, .drill, .dr, .queue, .cq, .tine, .samples, .scrub, .notify, .xlines, .boot, .slot, .anyPlotReg, .hard, .ports, .router] : List Part) ++ ([.gateway, .tally, .far (.reg Reg.MBX_RIM_IN_META.FULL), .far (.reg Reg.MBX_RIM_OUT_ACK.CODE), .far (.reg Reg.MBX_RIM_OUT_ACK.DONE), .far (.reg Reg.MBX_RIM_OUT_META.PENDING), .far .slot, .far (.plotReg Reg.MBX_PLOT_IN_META.FULL), .far (.plotReg Reg.MBX_PLOT_OUT_ACK.CODE), .far (.plotReg Reg.MBX_PLOT_OUT_ACK.DONE), .far (.plotReg Reg.MBX_PLOT_OUT_META.PENDING), .far .rimSlots] : List Part)) K) (hF : F f) (hP : ∀ p, P p)
    (ho : Only K F P s0 s) : Ends K F P s0 (execPgoodTimeout f s) := by
  unfold execPgoodTimeout
  repeat' first | with_reducible assumption | exact Fits.trans (by decide +kernel) hK | exact hF | exact hP | exact hP _ | with_reducible apply State.updSeed_only | with_reducible apply State.fieldDark_only | with_reducible apply State.pwrenDrop_only | with_reducible apply Ends.finish | with_reducible apply Ends.next | with_reducible apply Only.ite | with_reducible apply Ends.ite | dsimp only | split | (with_reducible refine Only.fst (by with_reducible assumption) ?_) | (with_reducible refine Only.snd (by with_reducible assumption) ?_) | exact Fits.anyPlot _ (Fits.trans (by decide +kernel) hK)

theorem State.remapTake_only {K : List Part} {F : FieldId → Prop} {P : PlotId → Prop} {s0 : State} (s : State) (f : FieldId) (hK : Fits ([.events, .hubReg Reg.HUB_FIELD_STATE.FALLOW, .hubReg Reg.HUB_FIELD_STATE.STATE, .memu, .hard] : List Part) K) (hF : F f)
    (ho : Only K F P s0 s) : Only K F P s0 (State.remapTake s f) := by
  unfold State.remapTake
  repeat' first | with_reducible assumption | exact Fits.trans (by decide +kernel) hK | exact hF | with_reducible apply State.hset_only | with_reducible apply State.updMemu_only | with_reducible apply State.setSvc_only | with_reducible apply Only.ite | dsimp only | split | (with_reducible refine Only.fst (by with_reducible assumption) ?_) | (with_reducible refine Only.snd (by with_reducible assumption) ?_)

theorem State.fallowMarks_only {K : List Part} {F : FieldId → Prop} {P : PlotId → Prop} {s0 : State} (s : State) (f : FieldId) (m : Nat) (hK : Fits ([.reg Reg.FLD_FALLOW_RUN.RUN] : List Part) K) (hF : F f)
    (ho : Only K F P s0 s) : Only K F P s0 (State.fallowMarks s f m) := by
  unfold State.fallowMarks
  repeat' first | with_reducible assumption | exact Fits.trans (by decide +kernel) hK | exact hF | with_reducible apply State.updField_only | (refine fun (X : Field) => ?_) | with_reducible apply FieldOnly.setReg | with_reducible exact FieldOnly.refl _ _ _ | with_reducible apply FieldOnly.updPlot | with_reducible apply FieldOnly.ite | (refine FieldOnly.keep rfl rfl (fun k hk => ?_); cases k <;> first | exact trivial | exact rfl | exact ⟨rfl, rfl⟩ | exact ⟨rfl, rfl, rfl⟩ | exact (Fits.not hK hk rfl).elim) | with_reducible apply Only.ite | dsimp only | split | (with_reducible refine Only.fst (by with_reducible assumption) ?_) | (with_reducible refine Only.snd (by with_reducible assumption) ?_)

theorem State.stackUnfit_only {K : List Part} {F : FieldId → Prop} {P : PlotId → Prop} {s0 : State} (s : State) (f : FieldId) (stack : Nat) (hK : Fits ([.events, .hubReg Reg.HUB_FIELD_STATE.HBM0_OK, .hubReg Reg.HUB_FIELD_STATE.HBM1_OK, .hubReg Reg.HUB_FIELD_STATE.STATE, .memu, .hard] : List Part) K) (hF : F f)
    (ho : Only K F P s0 s) : Only K F P s0 (State.stackUnfit s f stack) := by
  unfold State.stackUnfit
  repeat' first | with_reducible assumption | exact Fits.trans (by decide +kernel) hK | exact hF | with_reducible apply State.hset_only | with_reducible apply State.setSvc_only | with_reducible apply State.updMemu_only | with_reducible apply Only.ite | dsimp only | split | (with_reducible refine Only.fst (by with_reducible assumption) ?_) | (with_reducible refine Only.snd (by with_reducible assumption) ?_)

theorem State.hbmTrain_only {K : List Part} {F : FieldId → Prop} {P : PlotId → Prop} {s0 : State} (s : State) (f : FieldId) (trained : Nat) (hK : Fits ([.events, .hubReg Reg.HUB_FIELD_STATE.HBM0_OK, .hubReg Reg.HUB_FIELD_STATE.HBM1_OK, .hubReg Reg.HUB_FIELD_STATE.STATE, .memu, .hard] : List Part) K) (hF : F f)
    (ho : Only K F P s0 s) : Only K F P s0 (State.hbmTrain s f trained) := by
  unfold State.hbmTrain
  repeat' first | with_reducible assumption | exact Fits.trans (by decide +kernel) hK | exact hF | with_reducible apply State.updMemu_only | with_reducible apply State.stackUnfit_only | with_reducible apply State.hset_only | with_reducible apply Only.ite | dsimp only | split | (with_reducible refine Only.foldl _ _ (fun t a ht => ?_) ?_) | (with_reducible refine Only.foldl_fst _ _ _ (fun t a ht => ?_) ?_) | (with_reducible refine Only.fst (by with_reducible assumption) ?_) | (with_reducible refine Only.snd (by with_reducible assumption) ?_)

theorem State.carryLoad_only {K : List Part} {F : FieldId → Prop} {P : PlotId → Prop} {s0 : State} (s : State) (e : Nat) (hK : Fits ([.reg Reg.MEM_REPAIR_ENTRY.BANK, .reg Reg.MEM_REPAIR_ENTRY.CHANNEL, .reg Reg.MEM_REPAIR_ENTRY.PCH, .reg Reg.MEM_REPAIR_ENTRY.REASON, .reg Reg.MEM_REPAIR_ENTRY.RESULT, .reg Reg.MEM_REPAIR_ENTRY.ROW, .reg Reg.MEM_REPAIR_ENTRY.STACK, .reg Reg.MEM_REPAIR_ENTRY.VALID] : List Part) K) (hF : ∀ f, F f)
    (ho : Only K F P s0 s) : Only K F P s0 (State.carryLoad s e).1 := by
  unfold State.carryLoad 
  repeat' first | with_reducible assumption | exact Fits.trans (by decide +kernel) hK | exact hF | exact hF _ | with_reducible apply State.updField_only | (refine fun (X : Field) => ?_) | with_reducible apply FieldOnly.setReg | with_reducible exact FieldOnly.refl _ _ _ | with_reducible apply FieldOnly.updPlot | with_reducible apply FieldOnly.ite | (refine FieldOnly.keep rfl rfl (fun k hk => ?_); cases k <;> first | exact trivial | exact rfl | exact ⟨rfl, rfl⟩ | exact ⟨rfl, rfl, rfl⟩ | exact (Fits.not hK hk rfl).elim) | with_reducible apply Only.ite | dsimp only | split | (with_reducible refine Only.fst (by with_reducible assumption) ?_) | (with_reducible refine Only.snd (by with_reducible assumption) ?_) | unfold Field.repairWrite

theorem State.carryApply_only {K : List Part} {F : FieldId → Prop} {P : PlotId → Prop} {s0 : State} (s : State) (carry : Option (List Byte)) (hK : Fits ([.events, .hubReg Reg.SEED_IMAGE_STATUS.CARRY_APPLIED, .reg Reg.MEM_REPAIR_ENTRY.BANK, .reg Reg.MEM_REPAIR_ENTRY.CHANNEL, .reg Reg.MEM_REPAIR_ENTRY.PCH, .reg Reg.MEM_REPAIR_ENTRY.REASON, .reg Reg.MEM_REPAIR_ENTRY.RESULT, .reg Reg.MEM_REPAIR_ENTRY.ROW, .reg Reg.MEM_REPAIR_ENTRY.STACK, .reg Reg.MEM_REPAIR_ENTRY.VALID] : List Part) K) (hF : ∀ f, F f)
    (ho : Only K F P s0 s) : Only K F P s0 (State.carryApply s carry) := by
  unfold State.carryApply
  repeat' first | with_reducible assumption | exact Fits.trans (by decide +kernel) hK | exact hF | exact hF _ | with_reducible apply State.carryLoad_only | with_reducible apply State.raiseHub_only | with_reducible apply State.hset_only | with_reducible apply Only.ite | dsimp only | split | (with_reducible refine Only.foldl _ _ (fun t a ht => ?_) ?_) | (with_reducible refine Only.foldl_fst _ _ _ (fun t a ht => ?_) ?_) | (with_reducible refine Only.fst (by with_reducible assumption) ?_) | (with_reducible refine Only.snd (by with_reducible assumption) ?_)

theorem State.rowPoison_only {K : List Part} {F : FieldId → Prop} {P : PlotId → Prop} {s0 : State} (s : State) (f : FieldId) (r : HbmRow) (hK : Fits ([.hbmErr] : List Part) K) (hF : F f)
    (ho : Only K F P s0 s) : Only K F P s0 (State.rowPoison s f r) := by
  unfold State.rowPoison
  repeat' first | with_reducible assumption | exact Fits.trans (by decide +kernel) hK | exact hF | with_reducible apply State.updMem_touch | apply Memories.setHbmErr_only | exact MemOnly.refl _ _ _ | (refine fun m => (?_ : MemOnly _ _ _ _)) | with_reducible apply Only.ite | dsimp only | split | (with_reducible refine Only.foldl _ _ (fun t a ht => ?_) ?_) | (with_reducible refine Only.foldl_fst _ _ _ (fun t a ht => ?_) ?_) | (with_reducible refine Only.fst (by with_reducible assumption) ?_) | (with_reducible refine Only.snd (by with_reducible assumption) ?_)

theorem State.repairEntry_only {K : List Part} {F : FieldId → Prop} {P : PlotId → Prop} {s0 : State} (s : State) (f : FieldId) (n result : Nat) (hK : Fits ([.events, .hubReg Reg.HUB_FIELD_STATE.HBM0_OK, .hubReg Reg.HUB_FIELD_STATE.HBM1_OK, .hubReg Reg.HUB_FIELD_STATE.STATE, .hbmErr, .reg Reg.MEM_REPAIR_ENTRY.RESULT, .memu, .hard] : List Part) K) (hF : F f)
    (ho : Only K F P s0 s) : Only K F P s0 (State.repairEntry s f n result) := by
  unfold State.repairEntry
  repeat' first | with_reducible assumption | exact Fits.trans (by decide +kernel) hK | exact hF | with_reducible apply State.fset_only | with_reducible apply State.rowPoison_only | with_reducible apply State.stackUnfit_only | with_reducible apply Only.ite | dsimp only | split | (with_reducible refine Only.fst (by with_reducible assumption) ?_) | (with_reducible refine Only.snd (by with_reducible assumption) ?_)

theorem State.repairAll_only {K : List Part} {F : FieldId → Prop} {P : PlotId → Prop} {s0 : State} (s : State) (f : FieldId) (repairs : List Nat) (hK : Fits ([.events, .hubReg Reg.HUB_FIELD_STATE.HBM0_OK, .hubReg Reg.HUB_FIELD_STATE.HBM1_OK, .hubReg Reg.HUB_FIELD_STATE.STATE, .hbmErr, .reg Reg.MEM_REPAIR_ENTRY.RESULT, .memu, .hard] : List Part) K) (hF : F f)
    (ho : Only K F P s0 s) : Only K F P s0 (State.repairAll s f repairs).1 := by
  unfold State.repairAll
  repeat' first | with_reducible assumption | exact Fits.trans (by decide +kernel) hK | exact hF | with_reducible apply State.repairEntry_only | with_reducible apply Only.ite | dsimp only | split | (with_reducible refine Only.foldl _ _ (fun t a ht => ?_) ?_) | (with_reducible refine Only.foldl_fst _ _ _ (fun t a ht => ?_) ?_) | (with_reducible refine Only.fst (by with_reducible assumption) ?_) | (with_reducible refine Only.snd (by with_reducible assumption) ?_)

/-- A field's HBM and its error codes are emptied. -/
theorem Memories.emptyHbm_only {K : List Part} {F : FieldId → Prop} {m0 m : Memories} {f : FieldId}
    (hK : Fits [.hbm, .hbmErr] K) (hF : F f) (h : MemOnly K F m0 m) :
    MemOnly K F m0 { m with hbm := m.hbm.set f [], hbmErr := m.hbmErr.set f [] } :=
  h.trans ⟨fun w => by
      simp only [Memories.wf, Bool.and_eq_true] at w ⊢
      exact ⟨⟨⟨⟨⟨⟨⟨Vector.all_set _ _ _ _ w.1.1.1.1.1.1.1 (by rfl), Vector.all_set _ _ _ _ w.1.1.1.1.1.1.2 (by rfl)⟩,
        w.1.1.1.1.1.2⟩, w.1.1.1.1.2⟩, w.1.1.1.2⟩, w.1.1.2⟩, w.1.2⟩, w.2⟩,
    fun k f' hk => by
      have hn : ∀ x : Part, Part.covered K x = true → k = x → f' ≠ f := fun x hx e =>
        fun e' => by subst e; subst e'; exact (hk.resolve_left (fun y => by rw [hx] at y; exact absurd y (by decide))).2 hF
      have h1 := hn .hbm (hK.mem (by decide))
      have h2 := hn .hbmErr (hK.mem (by decide))
      cases k <;> first
        | trivial
        | rfl
        | exact ⟨rfl, rfl⟩
        | exact Vector.set_ne _ _ _ _ (h1 rfl)
        | exact Vector.set_ne _ _ _ _ (h2 rfl)⟩

theorem execStageMemory_only {K : List Part} {F : FieldId → Prop} {P : PlotId → Prop} {s0 : State} (trained : Fin 256) (march : List Nat) (carry : Option Flash) (repairs : List Nat) (s : State) (hK : Fits (([.events, .hubReg Reg.HUB_FIELD_STATE.FALLOW, .hubReg Reg.HUB_FIELD_STATE.HBM0_OK, .hubReg Reg.HUB_FIELD_STATE.HBM1_OK, .hubReg Reg.HUB_FIELD_STATE.STATE, .hubReg Reg.SEED_IMAGE_STATUS.CARRY_APPLIED, .seed, .hbm, .hbmErr, .reg Reg.FLD_FALLOW_RUN.RUN, .reg Reg.MEM_REPAIR_ENTRY.BANK, .reg Reg.MEM_REPAIR_ENTRY.CHANNEL, .reg Reg.MEM_REPAIR_ENTRY.PCH, .reg Reg.MEM_REPAIR_ENTRY.REASON, .reg Reg.MEM_REPAIR_ENTRY.RESULT, .reg Reg.MEM_REPAIR_ENTRY.ROW] : List Part) ++ ([.reg Reg.MEM_REPAIR_ENTRY.STACK, .reg Reg.MEM_REPAIR_ENTRY.VALID, .memu, .hard] : List Part)) K) (hF : ∀ f, F f)
    (ho : Only K F P s0 s) : Ends K F P s0 (execStageMemory trained march carry repairs s) := by
  unfold execStageMemory
  repeat' first | with_reducible assumption | exact Fits.trans (by decide +kernel) hK | exact hF | exact hF _ | with_reducible apply State.hbmTrain_only | with_reducible apply State.begin_only | with_reducible apply State.carryApply_only | with_reducible apply State.repairAll_only | with_reducible apply State.remapTake_only | with_reducible apply State.updMemu_only | with_reducible apply State.fallowMarks_only | with_reducible apply Ends.finish | with_reducible apply Ends.next | with_reducible apply State.updMem_touch | exact MemOnly.refl _ _ _ | (refine fun m => (?_ : MemOnly _ _ _ _)) | with_reducible apply Only.ite | with_reducible apply Ends.ite | dsimp only | split | (with_reducible refine Only.foldl _ _ (fun t a ht => ?_) ?_) | (with_reducible refine Only.foldl_fst _ _ _ (fun t a ht => ?_) ?_) | (with_reducible refine Only.fst (by with_reducible assumption) ?_) | (with_reducible refine Only.snd (by with_reducible assumption) ?_) | apply Memories.emptyHbm_only

theorem State.optShow_only {K : List Part} {F : FieldId → Prop} {P : PlotId → Prop} {s0 : State} (s : State) (hK : Fits ([.hubReg Reg.PWR_RAIL_STATUS.PGOOD_OPT, .hubReg Reg.PWR_RAIL_STATUS.PWREN_OPT] : List Part) K)
    (ho : Only K F P s0 s) : Only K F P s0 (State.optShow s) := by
  unfold State.optShow
  repeat' first | with_reducible assumption | exact Fits.trans (by decide +kernel) hK | with_reducible apply State.hset_only | with_reducible apply Only.ite | dsimp only | split | (with_reducible refine Only.fst (by with_reducible assumption) ?_) | (with_reducible refine Only.snd (by with_reducible assumption) ?_)

theorem execStageLight_only {K : List Part} {F : FieldId → Prop} {P : PlotId → Prop} {s0 : State} (env : LightEnv) (s : State) (hK : Fits (([.events, .out, .hubReg Reg.HDL_HOST_ENGINE.DARK, .hubReg Reg.HDL_HOST_ENGINE.INLET_A_OK, .hubReg Reg.HDL_HOST_ENGINE.INLET_B_OK, .hubReg Reg.HDL_HOST_ENGINE.SRC, .hubReg Reg.HDL_HOST_ENGINE.SWITCHING, .hubReg Reg.HDL_LIGHT_STATUS.RESULT, .hubReg Reg.HDL_LIGHT_STATUS.STATE, .hubReg Reg.HDL_MODULE.FAULT, .hubReg Reg.HDL_MODULE.OUTPUT_ON, .hubReg Reg.HDL_MODULE.PRESENT, .hubReg Reg.HDL_MODULE.PROBE_FAIL, .hubReg Reg.HUB_HOST_PHY_STATUS.STATE, .hubReg Reg.HUB_HOST_PHY_STATUS.WIDTH, .hubReg Reg.PWR_RAIL_STATUS.PGOOD_OPT] : List Part) ++ ([.hubReg Reg.PWR_RAIL_STATUS.PWREN_OPT, .light, .hostTx, .seed, .host, .reg Reg.HDL_ENGINE_STATUS.DARK, .reg Reg.HDL_ENGINE_STATUS.INLET_A_OK, .reg Reg.HDL_ENGINE_STATUS.INLET_B_OK, .reg Reg.HDL_ENGINE_STATUS.SRC, .reg Reg.HDL_ENGINE_STATUS.SWITCHING, .reg Reg.HDL_PORT_STATUS.APR, .reg Reg.INJ_PT.ARM, .reg Reg.INJ_PT.DONE, .reg Reg.RTE_COMB_STAT.MERGED, .reg Reg.RTE_COMB_STAT.PEAK, .reg Reg.RTE_LINK_CNT.LOST] : List Part) ++ ([.reg Reg.RTE_LINK_CNT.NAKS, .reg Reg.RTE_LINK_CNT.REPLAYED, .reg Reg.RTE_LINK_CNT.TX_FLITS, .reg Reg.RTE_LINK_CREDIT.RES, .reg Reg.RTE_LINK_CREDIT.SHARED, .reg Reg.RTE_LINK_STATUS.PRESERVED, .reg Reg.RTE_LINK_STATUS.RESULT, .reg Reg.RTE_LINK_STATUS.STATE, .ports, .router, .tally] : List Part)) K) (hF : ∀ f, F f)
    (ho : Only K F P s0 s) : Ends K F P s0 (execStageLight env s) := by
  unfold execStageLight
  repeat' first | with_reducible assumption | exact Fits.trans (by decide +kernel) hK | exact hF | exact hF _ | with_reducible apply State.begin_only | with_reducible apply State.lightSequence_only | with_reducible apply State.optShow_only | with_reducible apply Ends.finish | with_reducible apply Ends.next | with_reducible apply Only.ite | with_reducible apply Ends.ite | dsimp only | split | (with_reducible refine Only.fst (by with_reducible assumption) ?_) | (with_reducible refine Only.snd (by with_reducible assumption) ?_)

theorem execRelight_only {K : List Part} {F : FieldId → Prop} {P : PlotId → Prop} {s0 : State} (env : LightEnv) (s : State) (hK : Fits (([.events, .out, .hubReg Reg.HDL_HOST_ENGINE.DARK, .hubReg Reg.HDL_HOST_ENGINE.INLET_A_OK, .hubReg Reg.HDL_HOST_ENGINE.INLET_B_OK, .hubReg Reg.HDL_HOST_ENGINE.SRC, .hubReg Reg.HDL_HOST_ENGINE.SWITCHING, .hubReg Reg.HDL_LIGHT_CTL.RELIGHT, .hubReg Reg.HDL_LIGHT_STATUS.RESULT, .hubReg Reg.HDL_LIGHT_STATUS.STATE, .hubReg Reg.HDL_MODULE.FAULT, .hubReg Reg.HDL_MODULE.OUTPUT_ON, .hubReg Reg.HDL_MODULE.PRESENT, .hubReg Reg.HDL_MODULE.PROBE_FAIL, .hubReg Reg.HUB_HOST_PHY_STATUS.STATE, .hubReg Reg.HUB_HOST_PHY_STATUS.WIDTH] : List Part) ++ ([.hubReg Reg.PWR_RAIL_STATUS.PGOOD_OPT, .hubReg Reg.PWR_RAIL_STATUS.PWREN_OPT, .light, .hostTx, .host, .power, .reg Reg.HDL_ENGINE_STATUS.DARK, .reg Reg.HDL_ENGINE_STATUS.INLET_A_OK, .reg Reg.HDL_ENGINE_STATUS.INLET_B_OK, .reg Reg.HDL_ENGINE_STATUS.SRC, .reg Reg.HDL_ENGINE_STATUS.SWITCHING, .reg Reg.HDL_PORT_STATUS.APR, .reg Reg.INJ_PT.ARM, .reg Reg.INJ_PT.DONE, .reg Reg.RTE_COMB_STAT.MERGED, .reg Reg.RTE_COMB_STAT.PEAK] : List Part) ++ ([.reg Reg.RTE_LINK_CNT.LOST, .reg Reg.RTE_LINK_CNT.NAKS, .reg Reg.RTE_LINK_CNT.REPLAYED, .reg Reg.RTE_LINK_CNT.TX_FLITS, .reg Reg.RTE_LINK_CREDIT.RES, .reg Reg.RTE_LINK_CREDIT.SHARED, .reg Reg.RTE_LINK_STATUS.PRESERVED, .reg Reg.RTE_LINK_STATUS.RESULT, .reg Reg.RTE_LINK_STATUS.STATE, .ports, .router, .tally] : List Part)) K) (hF : ∀ f, F f)
    (ho : Only K F P s0 s) : Ends K F P s0 (execRelight env s) := by
  unfold execRelight
  repeat' first | with_reducible assumption | exact Fits.trans (by decide +kernel) hK | exact hF | exact hF _ | with_reducible apply State.hset_only | with_reducible apply State.optUp_only | with_reducible apply State.optTimeout_only | with_reducible apply State.lightSequence_only | with_reducible apply Ends.finish | with_reducible apply Ends.next | with_reducible apply Only.ite | with_reducible apply Ends.ite | dsimp only | split | (with_reducible refine Only.fst (by with_reducible assumption) ?_) | (with_reducible refine Only.snd (by with_reducible assumption) ?_)

theorem State.planWrite_only {K : List Part} {F : FieldId → Prop} {P : PlotId → Prop} {s0 : State} (s : State) (f : FieldId) (hK : Fits (([.events, .out, .hubReg Reg.HUB_EVT_IDX.CONS, .hubReg Reg.HUB_EVT_IDX.PROD, .hubReg Reg.HUB_EVT_RING.BASE, .hubReg Reg.HUB_EVT_RING.ENABLE, .hubReg Reg.HUB_EVT_RING.SIZE_LOG, .hubReg Reg.HUB_FIELD_STATE.HBM0_OK, .hubReg Reg.HUB_FIELD_STATE.HBM1_OK, .hubReg Reg.HUB_FIELD_STATE.STATE, .hubReg Reg.MBX_HUB_IN_META.FULL, .hubReg Reg.MBX_HUB_OUT_ACK.CODE, .hubReg Reg.MBX_HUB_OUT_ACK.DONE, .hubReg Reg.MBX_HUB_OUT_META.PENDING, .hubReg Reg.MBX_HUB_OUT_META.REFUSED, .msix] : List Part) ++ ([.light, .hubSlots, .hbm, .store, .bin, .hbmErr, .storeErr, .binErr, .anyReg, .drill, .dr, .queue, .cq, .tine, .samples, .scrub] : List Part) ++ ([.notify, .xlines, .boot, .slot, .anyPlotReg, .memu, .hard, .ports, .router, .gateway, .sheaf, .health, .mirror, .tally, .thermal, .rimFx] : List Part) ++ ([.far (.reg Reg.FLD_EVT_IDX.CONS), .far (.reg Reg.FLD_EVT_IDX.PROD), .far (.reg Reg.FLD_EVT_RING.BASE), .far (.reg Reg.FLD_EVT_RING.ENABLE), .far (.reg Reg.FLD_EVT_RING.SIZE_LOG), .far (.reg Reg.MBX_RIM_IN_META.FULL), .far (.reg Reg.MBX_RIM_OUT_ACK.CODE), .far (.reg Reg.MBX_RIM_OUT_ACK.DONE), .far (.reg Reg.MBX_RIM_OUT_META.PENDING), .far (.reg Reg.MBX_RIM_OUT_META.REFUSED), .far .slot, .far (.plotReg Reg.MBX_PLOT_IN_META.FULL), .far (.plotReg Reg.MBX_PLOT_OUT_ACK.CODE), .far (.plotReg Reg.MBX_PLOT_OUT_ACK.DONE), .far (.plotReg Reg.MBX_PLOT_OUT_META.PENDING), .far (.plotReg Reg.MBX_PLOT_OUT_META.REFUSED)] : List Part) ++ ([.far .rimSlots] : List Part)) K) (hF : F f) (hP : ∀ p, P p)
    (ho : Only K F P s0 s) : Only K F P s0 (State.planWrite s f) := by
  unfold State.planWrite
  repeat' first | with_reducible assumption | exact Fits.trans (by decide +kernel) hK | exact hF | exact hP | exact hP _ | with_reducible apply State.fieldWrite_only | with_reducible apply Only.ite | dsimp only | split | (with_reducible refine Only.foldl _ _ (fun t a ht => ?_) ?_) | (with_reducible refine Only.foldl_fst _ _ _ (fun t a ht => ?_) ?_) | (with_reducible refine Only.fst (by with_reducible assumption) ?_) | (with_reducible refine Only.snd (by with_reducible assumption) ?_) | exact Fits.anyRim _ (Fits.trans (by decide +kernel) hK) | exact Fits.anyPlot _ (Fits.trans (by decide +kernel) hK)

theorem State.planWrite_all {K : List Part} {F : FieldId → Prop} {P : PlotId → Prop} {s0 : State} (s : State) (f : FieldId) (hK : Fits ((([.events, .out, .hubReg Reg.HUB_EVT_IDX.CONS, .hubReg Reg.HUB_EVT_IDX.PROD, .hubReg Reg.HUB_EVT_RING.BASE, .hubReg Reg.HUB_EVT_RING.ENABLE, .hubReg Reg.HUB_EVT_RING.SIZE_LOG, .hubReg Reg.HUB_FIELD_STATE.HBM0_OK, .hubReg Reg.HUB_FIELD_STATE.HBM1_OK, .hubReg Reg.HUB_FIELD_STATE.STATE, .hubReg Reg.MBX_HUB_IN_META.FULL, .hubReg Reg.MBX_HUB_OUT_ACK.CODE, .hubReg Reg.MBX_HUB_OUT_ACK.DONE, .hubReg Reg.MBX_HUB_OUT_META.PENDING, .hubReg Reg.MBX_HUB_OUT_META.REFUSED, .msix] : List Part) ++ ([.light, .hubSlots, .hbm, .store, .bin, .hbmErr, .storeErr, .binErr, .anyReg, .drill, .dr, .queue, .cq, .tine, .samples, .scrub] : List Part) ++ ([.notify, .xlines, .boot, .slot, .anyPlotReg, .memu, .hard, .ports, .router, .gateway, .sheaf, .health, .mirror, .tally, .thermal, .rimFx] : List Part) ++ ([.far (.reg Reg.FLD_EVT_IDX.CONS), .far (.reg Reg.FLD_EVT_IDX.PROD), .far (.reg Reg.FLD_EVT_RING.BASE), .far (.reg Reg.FLD_EVT_RING.ENABLE), .far (.reg Reg.FLD_EVT_RING.SIZE_LOG), .far (.reg Reg.MBX_RIM_IN_META.FULL), .far (.reg Reg.MBX_RIM_OUT_ACK.CODE), .far (.reg Reg.MBX_RIM_OUT_ACK.DONE), .far (.reg Reg.MBX_RIM_OUT_META.PENDING), .far (.reg Reg.MBX_RIM_OUT_META.REFUSED), .far .slot, .far (.plotReg Reg.MBX_PLOT_IN_META.FULL), .far (.plotReg Reg.MBX_PLOT_OUT_ACK.CODE), .far (.plotReg Reg.MBX_PLOT_OUT_ACK.DONE), .far (.plotReg Reg.MBX_PLOT_OUT_META.PENDING), .far (.plotReg Reg.MBX_PLOT_OUT_META.REFUSED)] : List Part) ++ ([.far .rimSlots] : List Part)).map Part.anear) K) (hF : ∀ f, F f) (hP : ∀ p, P p)
    (ho : Only K F P s0 s) : Only K F P s0 (State.planWrite s f) :=
  ho.trans (Only.near (l := (([.events, .out, .hubReg Reg.HUB_EVT_IDX.CONS, .hubReg Reg.HUB_EVT_IDX.PROD, .hubReg Reg.HUB_EVT_RING.BASE, .hubReg Reg.HUB_EVT_RING.ENABLE, .hubReg Reg.HUB_EVT_RING.SIZE_LOG, .hubReg Reg.HUB_FIELD_STATE.HBM0_OK, .hubReg Reg.HUB_FIELD_STATE.HBM1_OK, .hubReg Reg.HUB_FIELD_STATE.STATE, .hubReg Reg.MBX_HUB_IN_META.FULL, .hubReg Reg.MBX_HUB_OUT_ACK.CODE, .hubReg Reg.MBX_HUB_OUT_ACK.DONE, .hubReg Reg.MBX_HUB_OUT_META.PENDING, .hubReg Reg.MBX_HUB_OUT_META.REFUSED, .msix] : List Part) ++ ([.light, .hubSlots, .hbm, .store, .bin, .hbmErr, .storeErr, .binErr, .anyReg, .drill, .dr, .queue, .cq, .tine, .samples, .scrub] : List Part) ++ ([.notify, .xlines, .boot, .slot, .anyPlotReg, .memu, .hard, .ports, .router, .gateway, .sheaf, .health, .mirror, .tally, .thermal, .rimFx] : List Part) ++ ([.far (.reg Reg.FLD_EVT_IDX.CONS), .far (.reg Reg.FLD_EVT_IDX.PROD), .far (.reg Reg.FLD_EVT_RING.BASE), .far (.reg Reg.FLD_EVT_RING.ENABLE), .far (.reg Reg.FLD_EVT_RING.SIZE_LOG), .far (.reg Reg.MBX_RIM_IN_META.FULL), .far (.reg Reg.MBX_RIM_OUT_ACK.CODE), .far (.reg Reg.MBX_RIM_OUT_ACK.DONE), .far (.reg Reg.MBX_RIM_OUT_META.PENDING), .far (.reg Reg.MBX_RIM_OUT_META.REFUSED), .far .slot, .far (.plotReg Reg.MBX_PLOT_IN_META.FULL), .far (.plotReg Reg.MBX_PLOT_OUT_ACK.CODE), .far (.plotReg Reg.MBX_PLOT_OUT_ACK.DONE), .far (.plotReg Reg.MBX_PLOT_OUT_META.PENDING), .far (.plotReg Reg.MBX_PLOT_OUT_META.REFUSED)] : List Part) ++ ([.far .rimSlots] : List Part))) (State.planWrite_only s f (Fits.refl _) trivial (fun _ => trivial) (Only.refl _ _ _ _)) hK hF hP)

theorem State.arbWrite_only {K : List Part} {F : FieldId → Prop} {P : PlotId → Prop} {s0 : State} (s : State) (f : FieldId) (hK : Fits (([.events, .out, .hubReg Reg.HUB_EVT_IDX.CONS, .hubReg Reg.HUB_EVT_IDX.PROD, .hubReg Reg.HUB_EVT_RING.BASE, .hubReg Reg.HUB_EVT_RING.ENABLE, .hubReg Reg.HUB_EVT_RING.SIZE_LOG, .hubReg Reg.HUB_FIELD_STATE.HBM0_OK, .hubReg Reg.HUB_FIELD_STATE.HBM1_OK, .hubReg Reg.HUB_FIELD_STATE.STATE, .hubReg Reg.MBX_HUB_IN_META.FULL, .hubReg Reg.MBX_HUB_OUT_ACK.CODE, .hubReg Reg.MBX_HUB_OUT_ACK.DONE, .hubReg Reg.MBX_HUB_OUT_META.PENDING, .hubReg Reg.MBX_HUB_OUT_META.REFUSED, .msix] : List Part) ++ ([.light, .hubSlots, .hbm, .store, .bin, .hbmErr, .storeErr, .binErr, .anyReg, .drill, .dr, .queue, .cq, .tine, .samples, .scrub] : List Part) ++ ([.notify, .xlines, .boot, .slot, .anyPlotReg, .memu, .hard, .ports, .router, .gateway, .sheaf, .health, .mirror, .tally, .thermal, .rimFx] : List Part) ++ ([.far (.reg Reg.FLD_EVT_IDX.CONS), .far (.reg Reg.FLD_EVT_IDX.PROD), .far (.reg Reg.FLD_EVT_RING.BASE), .far (.reg Reg.FLD_EVT_RING.ENABLE), .far (.reg Reg.FLD_EVT_RING.SIZE_LOG), .far (.reg Reg.MBX_RIM_IN_META.FULL), .far (.reg Reg.MBX_RIM_OUT_ACK.CODE), .far (.reg Reg.MBX_RIM_OUT_ACK.DONE), .far (.reg Reg.MBX_RIM_OUT_META.PENDING), .far (.reg Reg.MBX_RIM_OUT_META.REFUSED), .far .slot, .far (.plotReg Reg.MBX_PLOT_IN_META.FULL), .far (.plotReg Reg.MBX_PLOT_OUT_ACK.CODE), .far (.plotReg Reg.MBX_PLOT_OUT_ACK.DONE), .far (.plotReg Reg.MBX_PLOT_OUT_META.PENDING), .far (.plotReg Reg.MBX_PLOT_OUT_META.REFUSED)] : List Part) ++ ([.far .rimSlots] : List Part)) K) (hF : F f) (hP : ∀ p, P p)
    (ho : Only K F P s0 s) : Only K F P s0 (State.arbWrite s f) := by
  unfold State.arbWrite
  repeat' first | with_reducible assumption | exact Fits.trans (by decide +kernel) hK | exact hF | exact hP | exact hP _ | with_reducible apply State.fieldWrite_only | with_reducible apply Only.ite | dsimp only | split | (with_reducible refine Only.fst (by with_reducible assumption) ?_) | (with_reducible refine Only.snd (by with_reducible assumption) ?_) | exact Fits.anyRim _ (Fits.trans (by decide +kernel) hK) | exact Fits.anyPlot _ (Fits.trans (by decide +kernel) hK)

theorem State.arbWrite_all {K : List Part} {F : FieldId → Prop} {P : PlotId → Prop} {s0 : State} (s : State) (f : FieldId) (hK : Fits ((([.events, .out, .hubReg Reg.HUB_EVT_IDX.CONS, .hubReg Reg.HUB_EVT_IDX.PROD, .hubReg Reg.HUB_EVT_RING.BASE, .hubReg Reg.HUB_EVT_RING.ENABLE, .hubReg Reg.HUB_EVT_RING.SIZE_LOG, .hubReg Reg.HUB_FIELD_STATE.HBM0_OK, .hubReg Reg.HUB_FIELD_STATE.HBM1_OK, .hubReg Reg.HUB_FIELD_STATE.STATE, .hubReg Reg.MBX_HUB_IN_META.FULL, .hubReg Reg.MBX_HUB_OUT_ACK.CODE, .hubReg Reg.MBX_HUB_OUT_ACK.DONE, .hubReg Reg.MBX_HUB_OUT_META.PENDING, .hubReg Reg.MBX_HUB_OUT_META.REFUSED, .msix] : List Part) ++ ([.light, .hubSlots, .hbm, .store, .bin, .hbmErr, .storeErr, .binErr, .anyReg, .drill, .dr, .queue, .cq, .tine, .samples, .scrub] : List Part) ++ ([.notify, .xlines, .boot, .slot, .anyPlotReg, .memu, .hard, .ports, .router, .gateway, .sheaf, .health, .mirror, .tally, .thermal, .rimFx] : List Part) ++ ([.far (.reg Reg.FLD_EVT_IDX.CONS), .far (.reg Reg.FLD_EVT_IDX.PROD), .far (.reg Reg.FLD_EVT_RING.BASE), .far (.reg Reg.FLD_EVT_RING.ENABLE), .far (.reg Reg.FLD_EVT_RING.SIZE_LOG), .far (.reg Reg.MBX_RIM_IN_META.FULL), .far (.reg Reg.MBX_RIM_OUT_ACK.CODE), .far (.reg Reg.MBX_RIM_OUT_ACK.DONE), .far (.reg Reg.MBX_RIM_OUT_META.PENDING), .far (.reg Reg.MBX_RIM_OUT_META.REFUSED), .far .slot, .far (.plotReg Reg.MBX_PLOT_IN_META.FULL), .far (.plotReg Reg.MBX_PLOT_OUT_ACK.CODE), .far (.plotReg Reg.MBX_PLOT_OUT_ACK.DONE), .far (.plotReg Reg.MBX_PLOT_OUT_META.PENDING), .far (.plotReg Reg.MBX_PLOT_OUT_META.REFUSED)] : List Part) ++ ([.far .rimSlots] : List Part)).map Part.anear) K) (hF : ∀ f, F f) (hP : ∀ p, P p)
    (ho : Only K F P s0 s) : Only K F P s0 (State.arbWrite s f) :=
  ho.trans (Only.near (l := (([.events, .out, .hubReg Reg.HUB_EVT_IDX.CONS, .hubReg Reg.HUB_EVT_IDX.PROD, .hubReg Reg.HUB_EVT_RING.BASE, .hubReg Reg.HUB_EVT_RING.ENABLE, .hubReg Reg.HUB_EVT_RING.SIZE_LOG, .hubReg Reg.HUB_FIELD_STATE.HBM0_OK, .hubReg Reg.HUB_FIELD_STATE.HBM1_OK, .hubReg Reg.HUB_FIELD_STATE.STATE, .hubReg Reg.MBX_HUB_IN_META.FULL, .hubReg Reg.MBX_HUB_OUT_ACK.CODE, .hubReg Reg.MBX_HUB_OUT_ACK.DONE, .hubReg Reg.MBX_HUB_OUT_META.PENDING, .hubReg Reg.MBX_HUB_OUT_META.REFUSED, .msix] : List Part) ++ ([.light, .hubSlots, .hbm, .store, .bin, .hbmErr, .storeErr, .binErr, .anyReg, .drill, .dr, .queue, .cq, .tine, .samples, .scrub] : List Part) ++ ([.notify, .xlines, .boot, .slot, .anyPlotReg, .memu, .hard, .ports, .router, .gateway, .sheaf, .health, .mirror, .tally, .thermal, .rimFx] : List Part) ++ ([.far (.reg Reg.FLD_EVT_IDX.CONS), .far (.reg Reg.FLD_EVT_IDX.PROD), .far (.reg Reg.FLD_EVT_RING.BASE), .far (.reg Reg.FLD_EVT_RING.ENABLE), .far (.reg Reg.FLD_EVT_RING.SIZE_LOG), .far (.reg Reg.MBX_RIM_IN_META.FULL), .far (.reg Reg.MBX_RIM_OUT_ACK.CODE), .far (.reg Reg.MBX_RIM_OUT_ACK.DONE), .far (.reg Reg.MBX_RIM_OUT_META.PENDING), .far (.reg Reg.MBX_RIM_OUT_META.REFUSED), .far .slot, .far (.plotReg Reg.MBX_PLOT_IN_META.FULL), .far (.plotReg Reg.MBX_PLOT_OUT_ACK.CODE), .far (.plotReg Reg.MBX_PLOT_OUT_ACK.DONE), .far (.plotReg Reg.MBX_PLOT_OUT_META.PENDING), .far (.plotReg Reg.MBX_PLOT_OUT_META.REFUSED)] : List Part) ++ ([.far .rimSlots] : List Part))) (State.arbWrite_only s f (Fits.refl _) trivial (fun _ => trivial) (Only.refl _ _ _ _)) hK hF hP)

theorem execStageLinks_only {K : List Part} {F : FieldId → Prop} {P : PlotId → Prop} {s0 : State} (s : State) (hK : Fits (([.events, .out, .hubReg Reg.HUB_EVT_IDX.CONS, .hubReg Reg.HUB_EVT_IDX.PROD, .hubReg Reg.HUB_EVT_RING.BASE, .hubReg Reg.HUB_EVT_RING.ENABLE, .hubReg Reg.HUB_EVT_RING.SIZE_LOG, .hubReg Reg.HUB_FIELD_STATE.HBM0_OK, .hubReg Reg.HUB_FIELD_STATE.HBM1_OK, .hubReg Reg.HUB_FIELD_STATE.STATE, .hubReg Reg.MBX_HUB_IN_META.FULL, .hubReg Reg.MBX_HUB_OUT_ACK.CODE, .hubReg Reg.MBX_HUB_OUT_ACK.DONE, .hubReg Reg.MBX_HUB_OUT_META.PENDING, .hubReg Reg.MBX_HUB_OUT_META.REFUSED, .msix] : List Part) ++ ([.light, .links, .seed, .hubSlots, .hbm, .store, .bin, .hbmErr, .storeErr, .binErr, .anyReg, .drill, .dr, .queue, .cq, .tine] : List Part) ++ ([.samples, .scrub, .notify, .xlines, .boot, .slot, .anyPlotReg, .memu, .hard, .ports, .router, .gateway, .sheaf, .health, .mirror, .tally] : List Part) ++ ([.rimSlots, .thermal, .rimFx] : List Part)) K) (hF : ∀ f, F f) (hP : ∀ p, P p)
    (ho : Only K F P s0 s) : Ends K F P s0 (execStageLinks s) := by
  unfold execStageLinks
  repeat' first | with_reducible assumption | exact Fits.trans (by decide +kernel) hK | exact hF | exact hP | exact hF _ | exact hP _ | with_reducible apply State.arbWrite_all | with_reducible apply State.planWrite_all | with_reducible apply State.begin_only | with_reducible apply State.updHub_only | with_reducible apply State.linkStart_only | with_reducible apply Ends.finish | with_reducible apply Ends.next | (refine fun (X : Hub) => ?_) | with_reducible apply HubOnly.setReg | with_reducible exact HubOnly.refl _ _ | with_reducible apply HubOnly.ite | (refine HubOnly.keep rfl (fun k hk => ?_); cases k <;> first | exact trivial | exact rfl | exact ⟨rfl, rfl⟩ | exact ⟨rfl, rfl, rfl⟩ | exact ⟨rfl, rfl, rfl, rfl⟩ | exact (Fits.not hK hk rfl).elim) | with_reducible apply Only.ite | with_reducible apply Ends.ite | dsimp only | split | (with_reducible refine Only.foldl _ _ (fun t a ht => ?_) ?_) | (with_reducible refine Only.foldl_fst _ _ _ (fun t a ht => ?_) ?_) | (with_reducible refine Only.fst (by with_reducible assumption) ?_) | (with_reducible refine Only.snd (by with_reducible assumption) ?_) | exact Fits.anyRim _ (Fits.trans (by decide +kernel) hK) | exact Fits.anyPlot _ (Fits.trans (by decide +kernel) hK)

theorem State.katField_only {K : List Part} {F : FieldId → Prop} {P : PlotId → Prop} {s0 : State} (s : State) (f : FieldId) (bad : Nat) (rimBad : Bool) (hK : Fits (([.events, .out, .hubReg Reg.HUB_D2D_STATUS.MODULES, .hubReg Reg.HUB_D2D_STATUS.UP, .hubReg Reg.HUB_FIELD_STATE.FALLOW, .hubReg Reg.HUB_FIELD_STATE.HBM0_OK, .hubReg Reg.HUB_FIELD_STATE.HBM1_OK, .hubReg Reg.HUB_FIELD_STATE.STATE, .hubReg Reg.MBX_HUB_IN_META.FULL, .hubReg Reg.MBX_HUB_OUT_ACK.CODE, .hubReg Reg.MBX_HUB_OUT_ACK.DONE, .hubReg Reg.MBX_HUB_OUT_META.PENDING, .hubSlots, .store, .bin, .storeErr] : List Part) ++ ([.binErr, .reg Reg.FLD_BOOT_STATUS.KAT_FAILED, .reg Reg.FLD_BOOT_STATUS.RIM_KAT_FAIL, .reg Reg.FLD_FALLOW_RUN.RUN, .reg Reg.INJ_PT.ARM, .reg Reg.INJ_PT.DONE, .reg Reg.RTE_COMB_STAT.MERGED, .reg Reg.RTE_COMB_STAT.PEAK, .reg Reg.RTE_LINK_CNT.LOST, .reg Reg.RTE_LINK_CNT.NAKS, .reg Reg.RTE_LINK_CNT.REPLAYED, .reg Reg.RTE_LINK_CNT.TX_FLITS, .reg Reg.RTE_LINK_CREDIT.RES, .reg Reg.RTE_LINK_CREDIT.SHARED, .reg Reg.RTE_LINK_STATUS.PRESERVED, .reg Reg.RTE_LINK_STATUS.RESULT] : List Part) ++ ([.reg Reg.RTE_LINK_STATUS.STATE, .drill, .dr, .queue, .cq, .tine, .samples, .scrub, .notify, .xlines, .boot, .slot, .anyPlotReg, .memu, .drift, .hard] : List Part) ++ ([.ports, .router, .gateway, .tally, .far (.reg Reg.MBX_RIM_IN_META.FULL), .far (.reg Reg.MBX_RIM_OUT_ACK.CODE), .far (.reg Reg.MBX_RIM_OUT_ACK.DONE), .far (.reg Reg.MBX_RIM_OUT_META.PENDING), .far .slot, .far (.plotReg Reg.MBX_PLOT_IN_META.FULL), .far (.plotReg Reg.MBX_PLOT_OUT_ACK.CODE), .far (.plotReg Reg.MBX_PLOT_OUT_ACK.DONE), .far (.plotReg Reg.MBX_PLOT_OUT_META.PENDING), .far .rimSlots] : List Part)) K) (hF : F f) (hP : ∀ p, P p)
    (ho : Only K F P s0 s) : Only K F P s0 (State.katField s f bad rimBad) := by
  unfold State.katField
  repeat' first | with_reducible assumption | exact Fits.trans (by decide +kernel) hK | exact hF | exact hP | exact hP _ | with_reducible apply State.fallowMarks_only | with_reducible apply State.fset_only | with_reducible apply State.updField_only | with_reducible apply State.resetPartition_only | with_reducible apply State.fieldDark_only | with_reducible apply State.remapTake_only | (refine fun (X : Field) => ?_) | with_reducible apply FieldOnly.setReg | with_reducible exact FieldOnly.refl _ _ _ | with_reducible apply FieldOnly.updPlot | with_reducible apply FieldOnly.ite | (refine FieldOnly.keep rfl rfl (fun k hk => ?_); cases k <;> first | exact trivial | exact rfl | exact ⟨rfl, rfl⟩ | exact ⟨rfl, rfl, rfl⟩ | exact (Fits.not hK hk rfl).elim) | with_reducible apply Only.ite | dsimp only | split | (with_reducible refine Only.foldl _ _ (fun t a ht => ?_) ?_) | (with_reducible refine Only.foldl_fst _ _ _ (fun t a ht => ?_) ?_) | (with_reducible refine Only.fst (by with_reducible assumption) ?_) | (with_reducible refine Only.snd (by with_reducible assumption) ?_) | exact Fits.anyPlot _ (Fits.trans (by decide +kernel) hK)

theorem State.katField_all {K : List Part} {F : FieldId → Prop} {P : PlotId → Prop} {s0 : State} (s : State) (f : FieldId) (bad : Nat) (rimBad : Bool) (hK : Fits ((([.events, .out, .hubReg Reg.HUB_D2D_STATUS.MODULES, .hubReg Reg.HUB_D2D_STATUS.UP, .hubReg Reg.HUB_FIELD_STATE.FALLOW, .hubReg Reg.HUB_FIELD_STATE.HBM0_OK, .hubReg Reg.HUB_FIELD_STATE.HBM1_OK, .hubReg Reg.HUB_FIELD_STATE.STATE, .hubReg Reg.MBX_HUB_IN_META.FULL, .hubReg Reg.MBX_HUB_OUT_ACK.CODE, .hubReg Reg.MBX_HUB_OUT_ACK.DONE, .hubReg Reg.MBX_HUB_OUT_META.PENDING, .hubSlots, .store, .bin, .storeErr] : List Part) ++ ([.binErr, .reg Reg.FLD_BOOT_STATUS.KAT_FAILED, .reg Reg.FLD_BOOT_STATUS.RIM_KAT_FAIL, .reg Reg.FLD_FALLOW_RUN.RUN, .reg Reg.INJ_PT.ARM, .reg Reg.INJ_PT.DONE, .reg Reg.RTE_COMB_STAT.MERGED, .reg Reg.RTE_COMB_STAT.PEAK, .reg Reg.RTE_LINK_CNT.LOST, .reg Reg.RTE_LINK_CNT.NAKS, .reg Reg.RTE_LINK_CNT.REPLAYED, .reg Reg.RTE_LINK_CNT.TX_FLITS, .reg Reg.RTE_LINK_CREDIT.RES, .reg Reg.RTE_LINK_CREDIT.SHARED, .reg Reg.RTE_LINK_STATUS.PRESERVED, .reg Reg.RTE_LINK_STATUS.RESULT] : List Part) ++ ([.reg Reg.RTE_LINK_STATUS.STATE, .drill, .dr, .queue, .cq, .tine, .samples, .scrub, .notify, .xlines, .boot, .slot, .anyPlotReg, .memu, .drift, .hard] : List Part) ++ ([.ports, .router, .gateway, .tally, .far (.reg Reg.MBX_RIM_IN_META.FULL), .far (.reg Reg.MBX_RIM_OUT_ACK.CODE), .far (.reg Reg.MBX_RIM_OUT_ACK.DONE), .far (.reg Reg.MBX_RIM_OUT_META.PENDING), .far .slot, .far (.plotReg Reg.MBX_PLOT_IN_META.FULL), .far (.plotReg Reg.MBX_PLOT_OUT_ACK.CODE), .far (.plotReg Reg.MBX_PLOT_OUT_ACK.DONE), .far (.plotReg Reg.MBX_PLOT_OUT_META.PENDING), .far .rimSlots] : List Part)).map Part.anear) K) (hF : ∀ f, F f) (hP : ∀ p, P p)
    (ho : Only K F P s0 s) : Only K F P s0 (State.katField s f bad rimBad) :=
  ho.trans (Only.near (l := (([.events, .out, .hubReg Reg.HUB_D2D_STATUS.MODULES, .hubReg Reg.HUB_D2D_STATUS.UP, .hubReg Reg.HUB_FIELD_STATE.FALLOW, .hubReg Reg.HUB_FIELD_STATE.HBM0_OK, .hubReg Reg.HUB_FIELD_STATE.HBM1_OK, .hubReg Reg.HUB_FIELD_STATE.STATE, .hubReg Reg.MBX_HUB_IN_META.FULL, .hubReg Reg.MBX_HUB_OUT_ACK.CODE, .hubReg Reg.MBX_HUB_OUT_ACK.DONE, .hubReg Reg.MBX_HUB_OUT_META.PENDING, .hubSlots, .store, .bin, .storeErr] : List Part) ++ ([.binErr, .reg Reg.FLD_BOOT_STATUS.KAT_FAILED, .reg Reg.FLD_BOOT_STATUS.RIM_KAT_FAIL, .reg Reg.FLD_FALLOW_RUN.RUN, .reg Reg.INJ_PT.ARM, .reg Reg.INJ_PT.DONE, .reg Reg.RTE_COMB_STAT.MERGED, .reg Reg.RTE_COMB_STAT.PEAK, .reg Reg.RTE_LINK_CNT.LOST, .reg Reg.RTE_LINK_CNT.NAKS, .reg Reg.RTE_LINK_CNT.REPLAYED, .reg Reg.RTE_LINK_CNT.TX_FLITS, .reg Reg.RTE_LINK_CREDIT.RES, .reg Reg.RTE_LINK_CREDIT.SHARED, .reg Reg.RTE_LINK_STATUS.PRESERVED, .reg Reg.RTE_LINK_STATUS.RESULT] : List Part) ++ ([.reg Reg.RTE_LINK_STATUS.STATE, .drill, .dr, .queue, .cq, .tine, .samples, .scrub, .notify, .xlines, .boot, .slot, .anyPlotReg, .memu, .drift, .hard] : List Part) ++ ([.ports, .router, .gateway, .tally, .far (.reg Reg.MBX_RIM_IN_META.FULL), .far (.reg Reg.MBX_RIM_OUT_ACK.CODE), .far (.reg Reg.MBX_RIM_OUT_ACK.DONE), .far (.reg Reg.MBX_RIM_OUT_META.PENDING), .far .slot, .far (.plotReg Reg.MBX_PLOT_IN_META.FULL), .far (.plotReg Reg.MBX_PLOT_OUT_ACK.CODE), .far (.plotReg Reg.MBX_PLOT_OUT_ACK.DONE), .far (.plotReg Reg.MBX_PLOT_OUT_META.PENDING), .far .rimSlots] : List Part))) (State.katField_only s f bad rimBad (Fits.refl _) trivial (fun _ => trivial) (Only.refl _ _ _ _)) hK hF hP)

theorem execStageKnownAnswer_only {K : List Part} {F : FieldId → Prop} {P : PlotId → Prop} {s0 : State} (plots : List Nat) (rims : Fin 16) (s : State) (hK : Fits (([.free, .events, .out, .anyHubReg, .msix, .light, .hostTx, .seed, .host, .hubSlots, .power, .hubFx, .hbm, .store, .bin, .hbmErr] : List Part) ++ ([.storeErr, .binErr, .anyReg, .drill, .dr, .queue, .cq, .tine, .samples, .scrub, .notify, .xlines, .boot, .slot, .anyPlotReg, .memu] : List Part) ++ ([.drift, .hard, .ports, .router, .gateway, .sheaf, .health, .mirror, .tally, .hubLost, .rimSlots, .thermal, .rimFx] : List Part)) K) (hF : ∀ f, F f) (hP : ∀ p, P p)
    (ho : Only K F P s0 s) : Ends K F P s0 (execStageKnownAnswer plots rims s) := by
  unfold execStageKnownAnswer
  repeat' first | with_reducible assumption | exact Fits.trans (by decide +kernel) hK | exact hF | exact hP | exact hF _ | exact hP _ | with_reducible apply State.stageClose_only | with_reducible apply State.begin_only | with_reducible apply State.katField_all | with_reducible apply Ends.finish | with_reducible apply Ends.next | with_reducible apply Only.ite | with_reducible apply Ends.ite | dsimp only | split | (with_reducible refine Only.foldl _ _ (fun t a ht => ?_) ?_) | (with_reducible refine Only.foldl_fst _ _ _ (fun t a ht => ?_) ?_) | (with_reducible refine Only.fst (by with_reducible assumption) ?_) | (with_reducible refine Only.snd (by with_reducible assumption) ?_) | exact Fits.anyHub _ (Fits.trans (by decide +kernel) hK) | exact Fits.anyRim _ (Fits.trans (by decide +kernel) hK) | exact Fits.anyPlot _ (Fits.trans (by decide +kernel) hK)

theorem State.imageWrite_only {K : List Part} {F : FieldId → Prop} {P : PlotId → Prop} {s0 : State} (s : State) (f : FieldId) (hK : Fits (([.events, .hbm, .hbmErr, .reg Reg.GWY_STAT.ABSORBED, .reg Reg.INJ_PT.ARM, .reg Reg.INJ_PT.DONE, .reg Reg.MEM_ECC_STAT.CORRECTED, .reg Reg.MEM_ECC_STAT.LAST_ADDR, .reg Reg.MEM_ECC_STAT.POISON_WRITES, .reg Reg.MEM_ECC_STAT.UNCORRECTED, .reg Reg.MEM_REPAIR_ENTRY.BANK, .reg Reg.MEM_REPAIR_ENTRY.CHANNEL, .reg Reg.MEM_REPAIR_ENTRY.PCH, .reg Reg.MEM_REPAIR_ENTRY.REASON, .reg Reg.MEM_REPAIR_ENTRY.RESULT, .reg Reg.MEM_REPAIR_ENTRY.ROW] : List Part) ++ ([.reg Reg.MEM_REPAIR_ENTRY.STACK, .reg Reg.MEM_REPAIR_ENTRY.VALID, .memu, .health] : List Part)) K) (hF : F f)
    (ho : Only K F P s0 s) : Only K F P s0 (State.imageWrite s f) := by
  unfold State.imageWrite
  repeat' first | with_reducible assumption | exact Fits.trans (by decide +kernel) hK | exact hF | with_reducible apply State.hbmWrite_only | with_reducible apply Only.ite | dsimp only | split | (with_reducible refine Only.foldl _ _ (fun t a ht => ?_) ?_) | (with_reducible refine Only.foldl_fst _ _ _ (fun t a ht => ?_) ?_) | (with_reducible refine Only.fst (by with_reducible assumption) ?_) | (with_reducible refine Only.snd (by with_reducible assumption) ?_)

theorem State.deliverAll_only {K : List Part} {F : FieldId → Prop} {P : PlotId → Prop} {s0 : State} (s : State) (hK : Fits (([.events, .store, .storeErr, .reg Reg.FLD_BOOT_STATUS.FETCHED, .reg Reg.FLD_BOOT_STATUS.FW_FALLOW, .reg Reg.FLD_BOOT_STATUS.REPAIRS, .reg Reg.FLD_BOOT_STATUS.SOWN, .drill, .boot, .plotReg Reg.PLT_BOOT.FAIL_BLOCK, .plotReg Reg.PLT_BOOT.IMAGE, .plotReg Reg.PLT_BOOT.NONE, .plotReg Reg.PLT_BOOT.REPAIRS, .plotReg Reg.PLT_BOOT.SOW, .plotReg Reg.PLT_BOOT.STATUS, .plotReg Reg.PLT_STORE_ECC.CORRECTED] : List Part) ++ ([.plotReg Reg.PLT_STORE_ECC.LAST_ADDR, .plotReg Reg.PLT_STORE_ECC.UNCORRECTED, .health, .sow] : List Part)) K) (hF : ∀ f, F f) (hP : ∀ p, P p)
    (ho : Only K F P s0 s) : Only K F P s0 (State.deliverAll s) := by
  unfold State.deliverAll
  repeat' first | with_reducible assumption | exact Fits.trans (by decide +kernel) hK | exact hF | exact hP | exact hF _ | exact hP _ | with_reducible apply State.fillAll_only | with_reducible apply State.updField_only | (refine fun (X : Field) => ?_) | with_reducible apply FieldOnly.setReg | with_reducible exact FieldOnly.refl _ _ _ | with_reducible apply FieldOnly.updPlot | with_reducible apply FieldOnly.ite | (refine FieldOnly.keep rfl rfl (fun k hk => ?_); cases k <;> first | exact trivial | exact rfl | exact ⟨rfl, rfl⟩ | exact ⟨rfl, rfl, rfl⟩ | exact (Fits.not hK hk rfl).elim) | with_reducible apply Only.ite | dsimp only | split | (with_reducible refine Only.foldl _ _ (fun t a ht => ?_) ?_) | (with_reducible refine Only.foldl_fst _ _ _ (fun t a ht => ?_) ?_) | (with_reducible refine Only.fst (by with_reducible assumption) ?_) | (with_reducible refine Only.snd (by with_reducible assumption) ?_)

theorem execStageFirmware_only {K : List Part} {F : FieldId → Prop} {P : PlotId → Prop} {s0 : State} (s : State) (hK : Fits (([.events, .hubReg Reg.SEED_STAGE.PHASE, .seed, .hbm, .store, .hbmErr, .storeErr, .reg Reg.FLD_BOOT_STATUS.FETCHED, .reg Reg.FLD_BOOT_STATUS.FW_FALLOW, .reg Reg.FLD_BOOT_STATUS.REPAIRS, .reg Reg.FLD_BOOT_STATUS.SOWN, .reg Reg.GWY_STAT.ABSORBED, .reg Reg.INJ_PT.ARM, .reg Reg.INJ_PT.DONE, .reg Reg.MEM_ECC_STAT.CORRECTED, .reg Reg.MEM_ECC_STAT.LAST_ADDR] : List Part) ++ ([.reg Reg.MEM_ECC_STAT.POISON_WRITES, .reg Reg.MEM_ECC_STAT.UNCORRECTED, .reg Reg.MEM_REPAIR_ENTRY.BANK, .reg Reg.MEM_REPAIR_ENTRY.CHANNEL, .reg Reg.MEM_REPAIR_ENTRY.PCH, .reg Reg.MEM_REPAIR_ENTRY.REASON, .reg Reg.MEM_REPAIR_ENTRY.RESULT, .reg Reg.MEM_REPAIR_ENTRY.ROW, .reg Reg.MEM_REPAIR_ENTRY.STACK, .reg Reg.MEM_REPAIR_ENTRY.VALID, .drill, .boot, .plotReg Reg.PLT_BOOT.FAIL_BLOCK, .plotReg Reg.PLT_BOOT.IMAGE, .plotReg Reg.PLT_BOOT.NONE, .plotReg Reg.PLT_BOOT.REPAIRS] : List Part) ++ ([.plotReg Reg.PLT_BOOT.SOW, .plotReg Reg.PLT_BOOT.STATUS, .plotReg Reg.PLT_STORE_ECC.CORRECTED, .plotReg Reg.PLT_STORE_ECC.LAST_ADDR, .plotReg Reg.PLT_STORE_ECC.UNCORRECTED, .memu, .health, .sow] : List Part)) K) (hF : ∀ f, F f) (hP : ∀ p, P p)
    (ho : Only K F P s0 s) : Ends K F P s0 (execStageFirmware s) := by
  unfold execStageFirmware
  repeat' first | with_reducible assumption | exact Fits.trans (by decide +kernel) hK | exact hF | exact hP | exact hF _ | exact hP _ | with_reducible apply State.imageWrite_only | with_reducible apply State.begin_only | with_reducible apply State.stageWait_only | with_reducible apply State.deliverAll_only | with_reducible apply Ends.finish | with_reducible apply Ends.next | with_reducible apply Only.ite | with_reducible apply Ends.ite | dsimp only | split | (with_reducible refine Only.foldl _ _ (fun t a ht => ?_) ?_) | (with_reducible refine Only.foldl_fst _ _ _ (fun t a ht => ?_) ?_) | (with_reducible refine Only.fst (by with_reducible assumption) ?_) | (with_reducible refine Only.snd (by with_reducible assumption) ?_)

theorem State.imagesReady_only {K : List Part} {F : FieldId → Prop} {P : PlotId → Prop} {s0 : State} (s : State) (hK : Fits (([.events, .hubReg Reg.SEED_CTL.IMAGES_READY, .hubReg Reg.SEED_STAGE.PHASE, .seed, .store, .storeErr, .reg Reg.FLD_BOOT_STATUS.FETCHED, .reg Reg.FLD_BOOT_STATUS.FW_FALLOW, .reg Reg.FLD_BOOT_STATUS.REPAIRS, .reg Reg.FLD_BOOT_STATUS.SOWN, .drill, .boot, .plotReg Reg.PLT_BOOT.FAIL_BLOCK, .plotReg Reg.PLT_BOOT.IMAGE, .plotReg Reg.PLT_BOOT.NONE, .plotReg Reg.PLT_BOOT.REPAIRS] : List Part) ++ ([.plotReg Reg.PLT_BOOT.SOW, .plotReg Reg.PLT_BOOT.STATUS, .plotReg Reg.PLT_STORE_ECC.CORRECTED, .plotReg Reg.PLT_STORE_ECC.LAST_ADDR, .plotReg Reg.PLT_STORE_ECC.UNCORRECTED, .health, .sow] : List Part)) K) (hF : ∀ f, F f) (hP : ∀ p, P p)
    (ho : Only K F P s0 s) : Only K F P s0 (State.imagesReady s) := by
  unfold State.imagesReady
  repeat' first | with_reducible assumption | exact Fits.trans (by decide +kernel) hK | exact hF | exact hP | exact hF _ | exact hP _ | with_reducible apply State.hset_only | with_reducible apply State.deliverAll_only | with_reducible apply State.stageResume_only | with_reducible apply Only.ite | dsimp only | split | (with_reducible refine Only.fst (by with_reducible assumption) ?_) | (with_reducible refine Only.snd (by with_reducible assumption) ?_)

theorem execImagesReady_only {K : List Part} {F : FieldId → Prop} {P : PlotId → Prop} {s0 : State} (s : State) (hK : Fits (([.events, .hubReg Reg.SEED_CTL.IMAGES_READY, .hubReg Reg.SEED_STAGE.PHASE, .seed, .store, .storeErr, .reg Reg.FLD_BOOT_STATUS.FETCHED, .reg Reg.FLD_BOOT_STATUS.FW_FALLOW, .reg Reg.FLD_BOOT_STATUS.REPAIRS, .reg Reg.FLD_BOOT_STATUS.SOWN, .drill, .boot, .plotReg Reg.PLT_BOOT.FAIL_BLOCK, .plotReg Reg.PLT_BOOT.IMAGE, .plotReg Reg.PLT_BOOT.NONE, .plotReg Reg.PLT_BOOT.REPAIRS] : List Part) ++ ([.plotReg Reg.PLT_BOOT.SOW, .plotReg Reg.PLT_BOOT.STATUS, .plotReg Reg.PLT_STORE_ECC.CORRECTED, .plotReg Reg.PLT_STORE_ECC.LAST_ADDR, .plotReg Reg.PLT_STORE_ECC.UNCORRECTED, .health, .sow] : List Part)) K) (hF : ∀ f, F f) (hP : ∀ p, P p)
    (ho : Only K F P s0 s) : Ends K F P s0 (execImagesReady s) := by
  unfold execImagesReady
  repeat' first | with_reducible assumption | exact Fits.trans (by decide +kernel) hK | exact hF | exact hP | exact hF _ | exact hP _ | with_reducible apply State.imagesReady_only | with_reducible apply Ends.finish | with_reducible apply Ends.next | with_reducible apply Only.ite | with_reducible apply Ends.ite | dsimp only | split | (with_reducible refine Only.fst (by with_reducible assumption) ?_) | (with_reducible refine Only.snd (by with_reducible assumption) ?_)

theorem State.firmwareEvent_only {K : List Part} {F : FieldId → Prop} {P : PlotId → Prop} {s0 : State} (s : State) (f : FieldId) (hK : Fits ([.events] : List Part) K)
    (ho : Only K F P s0 s) : Only K F P s0 (State.firmwareEvent s f) := by
  unfold State.firmwareEvent
  repeat' first | with_reducible assumption | exact Fits.trans (by decide +kernel) hK | with_reducible apply State.raiseHub_only | with_reducible apply Only.ite | dsimp only | split | (with_reducible refine Only.fst (by with_reducible assumption) ?_) | (with_reducible refine Only.snd (by with_reducible assumption) ?_)

theorem State.firmwareEnd_only {K : List Part} {F : FieldId → Prop} {P : PlotId → Prop} {s0 : State} (s : State) (hK : Fits (([.free, .events, .out, .anyHubReg, .msix, .light, .hostTx, .seed, .host, .hubSlots, .power, .hubFx, .hbm, .store, .bin, .hbmErr] : List Part) ++ ([.storeErr, .binErr, .anyReg, .drill, .dr, .queue, .cq, .tine, .samples, .scrub, .notify, .xlines, .boot, .slot, .anyPlotReg, .memu] : List Part) ++ ([.hard, .ports, .router, .gateway, .sheaf, .health, .mirror, .tally, .hubLost, .rimSlots, .thermal, .rimFx] : List Part)) K) (hF : ∀ f, F f) (hP : ∀ p, P p)
    (ho : Only K F P s0 s) : Only K F P s0 (State.firmwareEnd s) := by
  unfold State.firmwareEnd
  repeat' first | with_reducible assumption | exact Fits.trans (by decide +kernel) hK | exact hF | exact hP | exact hF _ | exact hP _ | with_reducible apply State.firmwareEvent_only | with_reducible apply State.stageClose_only | with_reducible apply Only.ite | dsimp only | split | (with_reducible refine Only.foldl _ _ (fun t a ht => ?_) ?_) | (with_reducible refine Only.foldl_fst _ _ _ (fun t a ht => ?_) ?_) | (with_reducible refine Only.fst (by with_reducible assumption) ?_) | (with_reducible refine Only.snd (by with_reducible assumption) ?_) | exact Fits.anyHub _ (Fits.trans (by decide +kernel) hK) | exact Fits.anyRim _ (Fits.trans (by decide +kernel) hK) | exact Fits.anyPlot _ (Fits.trans (by decide +kernel) hK)

theorem State.fabricRecords_only {K : List Part} {F : FieldId → Prop} {P : PlotId → Prop} {s0 : State} (s : State) (f : FieldId) (hK : Fits (([.events, .out, .hubReg Reg.HUB_EVT_IDX.CONS, .hubReg Reg.HUB_EVT_IDX.PROD, .hubReg Reg.HUB_EVT_RING.BASE, .hubReg Reg.HUB_EVT_RING.ENABLE, .hubReg Reg.HUB_EVT_RING.SIZE_LOG, .hubReg Reg.HUB_FIELD_STATE.HBM0_OK, .hubReg Reg.HUB_FIELD_STATE.HBM1_OK, .hubReg Reg.HUB_FIELD_STATE.STATE, .hubReg Reg.MBX_HUB_IN_META.FULL, .hubReg Reg.MBX_HUB_OUT_ACK.CODE, .hubReg Reg.MBX_HUB_OUT_ACK.DONE, .hubReg Reg.MBX_HUB_OUT_META.PENDING, .hubReg Reg.MBX_HUB_OUT_META.REFUSED, .msix] : List Part) ++ ([.light, .hubSlots, .hbm, .store, .bin, .hbmErr, .storeErr, .binErr, .anyReg, .drill, .dr, .queue, .cq, .tine, .samples, .scrub] : List Part) ++ ([.notify, .xlines, .boot, .slot, .anyPlotReg, .memu, .hard, .ports, .router, .gateway, .sheaf, .health, .mirror, .tally, .thermal, .rimFx] : List Part) ++ ([.far (.reg Reg.FLD_EVT_IDX.CONS), .far (.reg Reg.FLD_EVT_IDX.PROD), .far (.reg Reg.FLD_EVT_RING.BASE), .far (.reg Reg.FLD_EVT_RING.ENABLE), .far (.reg Reg.FLD_EVT_RING.SIZE_LOG), .far (.reg Reg.MBX_RIM_IN_META.FULL), .far (.reg Reg.MBX_RIM_OUT_ACK.CODE), .far (.reg Reg.MBX_RIM_OUT_ACK.DONE), .far (.reg Reg.MBX_RIM_OUT_META.PENDING), .far (.reg Reg.MBX_RIM_OUT_META.REFUSED), .far .slot, .far (.plotReg Reg.MBX_PLOT_IN_META.FULL), .far (.plotReg Reg.MBX_PLOT_OUT_ACK.CODE), .far (.plotReg Reg.MBX_PLOT_OUT_ACK.DONE), .far (.plotReg Reg.MBX_PLOT_OUT_META.PENDING), .far (.plotReg Reg.MBX_PLOT_OUT_META.REFUSED)] : List Part) ++ ([.far .rimSlots] : List Part)) K) (hF : F f) (hP : ∀ p, P p)
    (ho : Only K F P s0 s) : Only K F P s0 (State.fabricRecords s f) := by
  unfold State.fabricRecords
  repeat' first | with_reducible assumption | exact Fits.trans (by decide +kernel) hK | exact hF | exact hP | exact hP _ | with_reducible apply State.fieldWrite_only | with_reducible apply Only.ite | dsimp only | split | (with_reducible refine Only.fst (by with_reducible assumption) ?_) | (with_reducible refine Only.snd (by with_reducible assumption) ?_) | exact Fits.anyRim _ (Fits.trans (by decide +kernel) hK) | exact Fits.anyPlot _ (Fits.trans (by decide +kernel) hK)

theorem State.fabricRecords_all {K : List Part} {F : FieldId → Prop} {P : PlotId → Prop} {s0 : State} (s : State) (f : FieldId) (hK : Fits ((([.events, .out, .hubReg Reg.HUB_EVT_IDX.CONS, .hubReg Reg.HUB_EVT_IDX.PROD, .hubReg Reg.HUB_EVT_RING.BASE, .hubReg Reg.HUB_EVT_RING.ENABLE, .hubReg Reg.HUB_EVT_RING.SIZE_LOG, .hubReg Reg.HUB_FIELD_STATE.HBM0_OK, .hubReg Reg.HUB_FIELD_STATE.HBM1_OK, .hubReg Reg.HUB_FIELD_STATE.STATE, .hubReg Reg.MBX_HUB_IN_META.FULL, .hubReg Reg.MBX_HUB_OUT_ACK.CODE, .hubReg Reg.MBX_HUB_OUT_ACK.DONE, .hubReg Reg.MBX_HUB_OUT_META.PENDING, .hubReg Reg.MBX_HUB_OUT_META.REFUSED, .msix] : List Part) ++ ([.light, .hubSlots, .hbm, .store, .bin, .hbmErr, .storeErr, .binErr, .anyReg, .drill, .dr, .queue, .cq, .tine, .samples, .scrub] : List Part) ++ ([.notify, .xlines, .boot, .slot, .anyPlotReg, .memu, .hard, .ports, .router, .gateway, .sheaf, .health, .mirror, .tally, .thermal, .rimFx] : List Part) ++ ([.far (.reg Reg.FLD_EVT_IDX.CONS), .far (.reg Reg.FLD_EVT_IDX.PROD), .far (.reg Reg.FLD_EVT_RING.BASE), .far (.reg Reg.FLD_EVT_RING.ENABLE), .far (.reg Reg.FLD_EVT_RING.SIZE_LOG), .far (.reg Reg.MBX_RIM_IN_META.FULL), .far (.reg Reg.MBX_RIM_OUT_ACK.CODE), .far (.reg Reg.MBX_RIM_OUT_ACK.DONE), .far (.reg Reg.MBX_RIM_OUT_META.PENDING), .far (.reg Reg.MBX_RIM_OUT_META.REFUSED), .far .slot, .far (.plotReg Reg.MBX_PLOT_IN_META.FULL), .far (.plotReg Reg.MBX_PLOT_OUT_ACK.CODE), .far (.plotReg Reg.MBX_PLOT_OUT_ACK.DONE), .far (.plotReg Reg.MBX_PLOT_OUT_META.PENDING), .far (.plotReg Reg.MBX_PLOT_OUT_META.REFUSED)] : List Part) ++ ([.far .rimSlots] : List Part)).map Part.anear) K) (hF : ∀ f, F f) (hP : ∀ p, P p)
    (ho : Only K F P s0 s) : Only K F P s0 (State.fabricRecords s f) :=
  ho.trans (Only.near (l := (([.events, .out, .hubReg Reg.HUB_EVT_IDX.CONS, .hubReg Reg.HUB_EVT_IDX.PROD, .hubReg Reg.HUB_EVT_RING.BASE, .hubReg Reg.HUB_EVT_RING.ENABLE, .hubReg Reg.HUB_EVT_RING.SIZE_LOG, .hubReg Reg.HUB_FIELD_STATE.HBM0_OK, .hubReg Reg.HUB_FIELD_STATE.HBM1_OK, .hubReg Reg.HUB_FIELD_STATE.STATE, .hubReg Reg.MBX_HUB_IN_META.FULL, .hubReg Reg.MBX_HUB_OUT_ACK.CODE, .hubReg Reg.MBX_HUB_OUT_ACK.DONE, .hubReg Reg.MBX_HUB_OUT_META.PENDING, .hubReg Reg.MBX_HUB_OUT_META.REFUSED, .msix] : List Part) ++ ([.light, .hubSlots, .hbm, .store, .bin, .hbmErr, .storeErr, .binErr, .anyReg, .drill, .dr, .queue, .cq, .tine, .samples, .scrub] : List Part) ++ ([.notify, .xlines, .boot, .slot, .anyPlotReg, .memu, .hard, .ports, .router, .gateway, .sheaf, .health, .mirror, .tally, .thermal, .rimFx] : List Part) ++ ([.far (.reg Reg.FLD_EVT_IDX.CONS), .far (.reg Reg.FLD_EVT_IDX.PROD), .far (.reg Reg.FLD_EVT_RING.BASE), .far (.reg Reg.FLD_EVT_RING.ENABLE), .far (.reg Reg.FLD_EVT_RING.SIZE_LOG), .far (.reg Reg.MBX_RIM_IN_META.FULL), .far (.reg Reg.MBX_RIM_OUT_ACK.CODE), .far (.reg Reg.MBX_RIM_OUT_ACK.DONE), .far (.reg Reg.MBX_RIM_OUT_META.PENDING), .far (.reg Reg.MBX_RIM_OUT_META.REFUSED), .far .slot, .far (.plotReg Reg.MBX_PLOT_IN_META.FULL), .far (.plotReg Reg.MBX_PLOT_OUT_ACK.CODE), .far (.plotReg Reg.MBX_PLOT_OUT_ACK.DONE), .far (.plotReg Reg.MBX_PLOT_OUT_META.PENDING), .far (.plotReg Reg.MBX_PLOT_OUT_META.REFUSED)] : List Part) ++ ([.far .rimSlots] : List Part))) (State.fabricRecords_only s f (Fits.refl _) trivial (fun _ => trivial) (Only.refl _ _ _ _)) hK hF hP)

theorem State.pinRecords_only {K : List Part} {F : FieldId → Prop} {P : PlotId → Prop} {s0 : State} (s : State) (hK : Fits (([.free, .events, .out, .anyHubReg, .msix, .light, .hostTx, .seed, .host, .hubSlots, .power, .hubFx, .reg Reg.FLD_EVT_IDX.CONS, .reg Reg.FLD_EVT_IDX.PROD, .reg Reg.FLD_EVT_RING.BASE, .reg Reg.FLD_EVT_RING.ENABLE] : List Part) ++ ([.reg Reg.FLD_EVT_RING.SIZE_LOG, .reg Reg.HDL_ENGINE_STATUS.DARK, .reg Reg.HDL_ENGINE_STATUS.INLET_A_OK, .reg Reg.HDL_ENGINE_STATUS.INLET_B_OK, .reg Reg.HDL_ENGINE_STATUS.SRC, .reg Reg.HDL_ENGINE_STATUS.SWITCHING, .reg Reg.INJ_ARITH.ARM, .reg Reg.INJ_PT.ARM, .reg Reg.INJ_PT.DONE, .reg Reg.MBX_RIM_IN_META.FULL, .reg Reg.MBX_RIM_OUT_ACK.CODE, .reg Reg.MBX_RIM_OUT_ACK.DONE, .reg Reg.MBX_RIM_OUT_META.PENDING, .reg Reg.MBX_RIM_OUT_META.REFUSED, .reg Reg.RTE_COMB_STAT.MERGED, .reg Reg.RTE_COMB_STAT.PEAK] : List Part) ++ ([.reg Reg.RTE_LINK_CNT.LOST, .reg Reg.RTE_LINK_CNT.NAKS, .reg Reg.RTE_LINK_CNT.REPLAYED, .reg Reg.RTE_LINK_CNT.TX_FLITS, .reg Reg.RTE_LINK_CREDIT.RES, .reg Reg.RTE_LINK_CREDIT.SHARED, .reg Reg.RTE_LINK_STATUS.PRESERVED, .reg Reg.RTE_LINK_STATUS.RESULT, .reg Reg.RTE_LINK_STATUS.STATE, .reg Reg.THM_FIELD_STATUS.POINT, .slot, .plotReg Reg.MBX_PLOT_IN_META.FULL, .plotReg Reg.MBX_PLOT_OUT_ACK.CODE, .plotReg Reg.MBX_PLOT_OUT_ACK.DONE, .plotReg Reg.MBX_PLOT_OUT_META.PENDING, .plotReg Reg.MBX_PLOT_OUT_META.REFUSED] : List Part) ++ ([.ports, .router, .gateway, .sheaf, .health, .mirror, .tally, .hubLost, .rimSlots, .thermal, .rimFx] : List Part)) K) (hF : ∀ f, F f) (hP : ∀ p, P p)
    (ho : Only K F P s0 s) : Only K F P s0 (State.pinRecords s) := by
  unfold State.pinRecords
  repeat' first | with_reducible assumption | exact Fits.trans (by decide +kernel) hK | exact hF | exact hP | exact hF _ | exact hP _ | with_reducible apply State.hubWrite_only | with_reducible apply Only.ite | dsimp only | split | (with_reducible refine Only.fst (by with_reducible assumption) ?_) | (with_reducible refine Only.snd (by with_reducible assumption) ?_) | exact Fits.anyHub _ (Fits.trans (by decide +kernel) hK)

theorem State.fabricStart_only {K : List Part} {F : FieldId → Prop} {P : PlotId → Prop} {s0 : State} (s : State) (hK : Fits (([.free, .events, .out, .anyHubReg, .msix, .light, .hostTx, .seed, .host, .hubSlots, .power, .hubFx, .hbm, .store, .bin, .hbmErr] : List Part) ++ ([.storeErr, .binErr, .anyReg, .drill, .dr, .queue, .cq, .tine, .samples, .scrub, .notify, .xlines, .boot, .slot, .anyPlotReg, .memu] : List Part) ++ ([.hard, .ports, .router, .gateway, .sheaf, .health, .mirror, .tally, .hubLost, .rimSlots, .thermal, .rimFx] : List Part)) K) (hF : ∀ f, F f) (hP : ∀ p, P p)
    (ho : Only K F P s0 s) : Only K F P s0 (State.fabricStart s) := by
  unfold State.fabricStart
  repeat' first | with_reducible assumption | exact Fits.trans (by decide +kernel) hK | exact hF | exact hP | exact hF _ | exact hP _ | with_reducible apply State.fabricRecords_all | with_reducible apply State.planWrite_all | with_reducible apply State.begin_only | with_reducible apply State.applyWrites_only | with_reducible apply State.pinRecords_only | with_reducible apply State.seal_only | with_reducible apply State.stageFail_only | with_reducible apply Only.ite | dsimp only | split | (with_reducible refine Only.foldl _ _ (fun t a ht => ?_) ?_) | (with_reducible refine Only.foldl_fst _ _ _ (fun t a ht => ?_) ?_) | (with_reducible refine Only.fst (by with_reducible assumption) ?_) | (with_reducible refine Only.snd (by with_reducible assumption) ?_) | exact Fits.anyHub _ (Fits.trans (by decide +kernel) hK) | exact Fits.anyRim _ (Fits.trans (by decide +kernel) hK) | exact Fits.anyPlot _ (Fits.trans (by decide +kernel) hK)

theorem execStageReady_only {K : List Part} {F : FieldId → Prop} {P : PlotId → Prop} {s0 : State} (s : State) (hK : Fits ([.events, .hubReg Reg.HUB_FIELD_STATE.STATE, .hubReg Reg.SEED_STAGE.PHASE, .hubReg Reg.SEED_STAGE.RESULT, .hubReg Reg.SEED_STAGE_TIME.TIME, .seed, .hard] : List Part) K) (hF : ∀ f, F f)
    (ho : Only K F P s0 s) : Ends K F P s0 (execStageReady s) := by
  unfold execStageReady
  repeat' first | with_reducible assumption | exact Fits.trans (by decide +kernel) hK | exact hF | exact hF _ | with_reducible apply State.setSvc_only | with_reducible apply State.begin_only | with_reducible apply State.stageEvent_only | with_reducible apply State.hset_only | with_reducible apply State.setPhase_only | with_reducible apply State.stageTime_only | with_reducible apply Ends.finish | with_reducible apply Ends.next | with_reducible apply Only.ite | with_reducible apply Ends.ite | dsimp only | split | (with_reducible refine Only.foldl _ _ (fun t a ht => ?_) ?_) | (with_reducible refine Only.foldl_fst _ _ _ (fun t a ht => ?_) ?_) | (with_reducible refine Only.fst (by with_reducible assumption) ?_) | (with_reducible refine Only.snd (by with_reducible assumption) ?_)

theorem State.stageEnd_only {K : List Part} {F : FieldId → Prop} {P : PlotId → Prop} {s0 : State} (s : State) (hK : Fits (([.free, .events, .out, .anyHubReg, .msix, .light, .hostTx, .seed, .host, .hubSlots, .power, .hubFx, .hbm, .store, .bin, .hbmErr] : List Part) ++ ([.storeErr, .binErr, .anyReg, .drill, .dr, .queue, .cq, .tine, .samples, .scrub, .notify, .xlines, .boot, .slot, .anyPlotReg, .memu] : List Part) ++ ([.hard, .ports, .router, .gateway, .sheaf, .health, .mirror, .tally, .hubLost, .rimSlots, .thermal, .rimFx] : List Part)) K) (hF : ∀ f, F f) (hP : ∀ p, P p)
    (ho : Only K F P s0 s) : Only K F P s0 (State.stageEnd s) := by
  unfold State.stageEnd
  repeat' first | with_reducible assumption | exact Fits.trans (by decide +kernel) hK | exact hF | exact hP | exact hF _ | exact hP _ | with_reducible apply State.stageClose_only | with_reducible apply State.stageResume_only | with_reducible apply State.stageFail_only | with_reducible apply State.firmwareEnd_only | with_reducible apply Only.ite | dsimp only | split | (with_reducible refine Only.fst (by with_reducible assumption) ?_) | (with_reducible refine Only.snd (by with_reducible assumption) ?_) | exact Fits.anyHub _ (Fits.trans (by decide +kernel) hK) | exact Fits.anyRim _ (Fits.trans (by decide +kernel) hK) | exact Fits.anyPlot _ (Fits.trans (by decide +kernel) hK)

end Sys2Proof.Machine
end

