-- ==== Sys2Proof/Laws/Touch/Reset.lean ====
section
/-! SUPPORT. What each operation of Machine/Reset.lean can change: the parts named, and nothing else. -/

namespace Sys2Proof.Machine

set_option Elab.async false

open Sys2Proof

theorem State.newNonce_only {K : List Part} {F : FieldId → Prop} {P : PlotId → Prop} {s0 : State} (s : State) (hK : Fits ([.free, .hubReg Reg.HUB_JTAG_CHAL.NONCE] : List Part) K)
    (ho : Only K F P s0 s) : Only K F P s0 (State.newNonce s) := by
  unfold State.newNonce
  repeat' first | with_reducible assumption | exact Fits.trans (by decide +kernel) hK | with_reducible apply State.draw_only | with_reducible apply State.hset_only | with_reducible apply Only.ite | dsimp only | split | (with_reducible refine Only.fst (by with_reducible assumption) ?_) | (with_reducible refine Only.snd (by with_reducible assumption) ?_)

theorem State.warmLight_only {K : List Part} {F : FieldId → Prop} {P : PlotId → Prop} {s0 : State} (s : State) (hK : Fits ([.out] : List Part) K)
    (ho : Only K F P s0 s) : Only K F P s0 (State.warmLight s) := by
  unfold State.warmLight
  repeat' first | with_reducible assumption | exact Fits.trans (by decide +kernel) hK | with_reducible apply State.emit_only | with_reducible apply Only.ite | dsimp only | split | (with_reducible refine Only.foldl _ _ (fun t a ht => ?_) ?_) | (with_reducible refine Only.foldl_fst _ _ _ (fun t a ht => ?_) ?_) | (with_reducible refine Only.fst (by with_reducible assumption) ?_) | (with_reducible refine Only.snd (by with_reducible assumption) ?_)

theorem Memories.clearAll_wf (l : List FieldId) (m : Memories) (w : m.wf = true) :
    (l.foldl (fun (m : Memories) (f : FieldId) => m.clearPlots f) m).wf = true := by
  induction l generalizing m with
  | nil => exact w
  | cons f l ih =>
    exact ih _ ((Memories.clearPlots_only (K := [.store, .bin, .storeErr, .binErr]) (F := fun _ => True) (f := f) (by decide) trivial
      (MemOnly.refl _ _ m)).canon w)

theorem State.warmAfter_only {K : List Part} {F : FieldId → Prop} {P : PlotId → Prop} {s0 : State} (s was : State) (hK : Fits ([.free, .events, .hubReg Reg.HDL_MODULE.OUTPUT_ON, .reg Reg.TLY_STATUS.HOLD, .reg Reg.TLY_STATUS.STATE, .health, .tally] : List Part) K) (hF : ∀ f, F f)
    (ho : Only K F P s0 s) : Only K F P s0 (State.warmAfter s was) := by
  unfold State.warmAfter
  refine Only.foldl _ _ (fun t f ht => ?_) (Only.foldl _ _ (fun t m ht => State.hset_only _ _ _ _ (Fits.trans (by decide +kernel) hK) ht) ho)
  extract_lets prev t1
  clear_value prev
  have h1 : Only K F P s0 t1 := State.updField_only _ _ (fun X => by
    refine FieldOnly.keep rfl rfl (fun k hk => ?_)
    cases k <;> first | exact trivial | rfl | exact ⟨rfl, rfl⟩ | exact ⟨rfl, rfl, rfl⟩ | exact (Fits.not hK hk rfl).elim)
    (hF _) ht
  exact Only.ite (State.enterHoldover_only _ _ (Fits.trans (by decide +kernel) hK) (hF _) h1) h1

theorem State.warmReset_only {K : List Part} {F : FieldId → Prop} {P : PlotId → Prop} {s0 : State} (s : State) (i3c : Bool) (hK : Fits allParts K) (hF : ∀ f, F f) (hP : ∀ p, P p)
    (ho : Only K F P s0 s) : Only K F P s0 (State.warmReset s i3c) := by
  unfold State.warmReset
  extract_lets cause digest sa sb s2 s3
  have ha : Only K F P s0 sa := State.warmLight_only _ (Fits.trans (by decide +kernel) hK) ho
  have hb : Only K F P s0 sb := ha.trans (Only.all hK hF hP rfl (fun w => Memories.clearAll_wf _ _ w))
  clear_value sb
  repeat' first | with_reducible assumption | exact Fits.trans (by decide +kernel) hK | exact hF | exact hP | exact hF _ | exact hP _ | with_reducible apply State.warmLight_only | with_reducible apply State.raiseHub_only | with_reducible apply State.hset_only | with_reducible apply State.warmAfter_only | with_reducible apply State.newNonce_only | with_reducible apply State.hcount_only | with_reducible apply State.stageStart_only | with_reducible apply State.warnSet_only | with_reducible apply Only.ite | dsimp only | split | (with_reducible refine Only.foldl _ _ (fun t a ht => ?_) ?_) | (with_reducible refine Only.foldl_fst _ _ _ (fun t a ht => ?_) ?_) | (with_reducible refine Only.fst (by with_reducible assumption) ?_) | (with_reducible refine Only.snd (by with_reducible assumption) ?_)

theorem State.newEpochs_only {K : List Part} {F : FieldId → Prop} {P : PlotId → Prop} {s0 : State} (s : State) (hK : Fits ([.free, .gateway] : List Part) K) (hF : ∀ f, F f)
    (ho : Only K F P s0 s) : Only K F P s0 (State.newEpochs s) := by
  unfold State.newEpochs
  repeat' first | with_reducible assumption | exact Fits.trans (by decide +kernel) hK | exact hF | exact hF _ | with_reducible apply State.draw_only | with_reducible apply State.updGw_only | with_reducible apply Only.ite | dsimp only | split | (with_reducible refine Only.foldl _ _ (fun t a ht => ?_) ?_) | (with_reducible refine Only.foldl_fst _ _ _ (fun t a ht => ?_) ?_) | (with_reducible refine Only.fst (by with_reducible assumption) ?_) | (with_reducible refine Only.snd (by with_reducible assumption) ?_)

theorem State.coldReset_only {K : List Part} {F : FieldId → Prop} {P : PlotId → Prop} {s0 : State} (s : State) (powerOn : Bool) (straps : Nat) (vbat : Vbat) (hK : Fits allParts K) (hF : ∀ f, F f) (hP : ∀ p, P p)
    (ho : Only K F P s0 s) : Only K F P s0 (State.coldReset s powerOn straps vbat) := by
  unfold State.coldReset
  have ha : Only K F P s0 ({ State.reset with pending := s.pending, free := s.free, out := s.out } : State) :=
    ho.trans (Only.all hK hF hP rfl (fun _ => (by decide : State.reset.mem.wf = true)))
  dsimp only
  generalize ({ State.reset with pending := s.pending, free := s.free, out := s.out } : State) = sa at ha ⊢
  repeat' first | with_reducible assumption | exact Fits.trans (by decide +kernel) hK | exact hF | exact hP | exact hF _ | exact hP _ | with_reducible apply State.updHub_only | with_reducible apply State.hset_only | with_reducible apply State.newNonce_only | with_reducible apply State.newEpochs_only | with_reducible apply State.calLost_only | with_reducible apply State.warnSet_only | (refine fun (X : Hub) => ?_) | with_reducible apply HubOnly.setReg | with_reducible exact HubOnly.refl _ _ | with_reducible apply HubOnly.ite | (refine HubOnly.keep rfl (fun k hk => ?_); cases k <;> first | exact trivial | exact rfl | exact ⟨rfl, rfl⟩ | exact ⟨rfl, rfl, rfl⟩ | exact ⟨rfl, rfl, rfl, rfl⟩ | exact (Fits.not hK hk rfl).elim) | with_reducible apply Only.ite | dsimp only | split | (with_reducible refine Only.fst (by with_reducible assumption) ?_) | (with_reducible refine Only.snd (by with_reducible assumption) ?_) | exact HubOnly.all hK

theorem execColdReset_only {K : List Part} {F : FieldId → Prop} {P : PlotId → Prop} {s0 : State} (powerOn : Bool) (straps : Fin 16) (vbat : Vbat) (s : State) (hK : Fits allParts K) (hF : ∀ f, F f) (hP : ∀ p, P p)
    (ho : Only K F P s0 s) : Ends K F P s0 (execColdReset powerOn straps vbat s) := by
  unfold execColdReset
  repeat' first | with_reducible assumption | exact Fits.trans (by decide +kernel) hK | exact hF | exact hP | exact hF _ | exact hP _ | with_reducible apply State.coldReset_only | with_reducible apply Ends.finish | with_reducible apply Ends.next | with_reducible apply Only.ite | with_reducible apply Ends.ite | dsimp only | split | (with_reducible refine Only.fst (by with_reducible assumption) ?_) | (with_reducible refine Only.snd (by with_reducible assumption) ?_)

theorem execWarmReset_only {K : List Part} {F : FieldId → Prop} {P : PlotId → Prop} {s0 : State} (i3c : Bool) (s : State) (hK : Fits allParts K) (hF : ∀ f, F f) (hP : ∀ p, P p)
    (ho : Only K F P s0 s) : Ends K F P s0 (execWarmReset i3c s) := by
  unfold execWarmReset
  repeat' first | with_reducible assumption | exact Fits.trans (by decide +kernel) hK | exact hF | exact hP | exact hF _ | exact hP _ | with_reducible apply State.warmReset_only | with_reducible apply Ends.finish | with_reducible apply Ends.next | with_reducible apply Only.ite | with_reducible apply Ends.ite | dsimp only | split | (with_reducible refine Only.fst (by with_reducible assumption) ?_) | (with_reducible refine Only.snd (by with_reducible assumption) ?_)

theorem State.partReset_only {K : List Part} {F : FieldId → Prop} {P : PlotId → Prop} {s0 : State} (s : State) (f : FieldId) (hK : Fits (([.events, .hubReg Reg.HUB_FIELD_STATE.STATE, .hubReg Reg.HUB_RESET_STATUS.PART_REFUSED, .hubReg Reg.MBX_HUB_IN_META.FULL, .hubReg Reg.MBX_HUB_OUT_ACK.CODE, .hubReg Reg.MBX_HUB_OUT_ACK.DONE, .hubReg Reg.MBX_HUB_OUT_META.PENDING, .hubSlots, .hbm, .store, .bin, .hbmErr, .storeErr, .binErr, .reg Reg.FLD_MESH_STAT.MCAST_SKIPPED, .reg Reg.GWY_STAT.ABSORBED] : List Part) ++ ([.reg Reg.INJ_PT.ARM, .reg Reg.INJ_PT.DONE, .reg Reg.MEM_ECC_STAT.CORRECTED, .reg Reg.MEM_ECC_STAT.LAST_ADDR, .reg Reg.MEM_ECC_STAT.POISON_WRITES, .reg Reg.MEM_ECC_STAT.UNCORRECTED, .reg Reg.MEM_REPAIR_ENTRY.BANK, .reg Reg.MEM_REPAIR_ENTRY.CHANNEL, .reg Reg.MEM_REPAIR_ENTRY.PCH, .reg Reg.MEM_REPAIR_ENTRY.REASON, .reg Reg.MEM_REPAIR_ENTRY.RESULT, .reg Reg.MEM_REPAIR_ENTRY.ROW, .reg Reg.MEM_REPAIR_ENTRY.STACK, .reg Reg.MEM_REPAIR_ENTRY.VALID, .reg Reg.SHF_GROUP_STATUS.DONE_SEQ, .reg Reg.SHF_GROUP_STATUS.STATE] : List Part) ++ ([.reg Reg.SHF_LATE_HIST.BUCKET, .reg Reg.SHF_STAT.DONE, .reg Reg.SHF_STAT.FAILED, .drill, .dr, .queue, .cq, .tine, .samples, .scrub, .notify, .xlines, .boot, .slot, .anyPlotReg, .memu] : List Part) ++ ([.hard, .router, .gateway, .sheaf, .health, .thermal, .far (.reg Reg.MBX_RIM_IN_META.FULL), .far (.reg Reg.MBX_RIM_OUT_ACK.CODE), .far (.reg Reg.MBX_RIM_OUT_ACK.DONE), .far (.reg Reg.MBX_RIM_OUT_META.PENDING), .far .slot, .far (.plotReg Reg.MBX_PLOT_IN_META.FULL), .far (.plotReg Reg.MBX_PLOT_OUT_ACK.CODE), .far (.plotReg Reg.MBX_PLOT_OUT_ACK.DONE), .far (.plotReg Reg.MBX_PLOT_OUT_META.PENDING), .far .rimSlots] : List Part)) K) (hF : F f) (hP : ∀ p, P p)
    (ho : Only K F P s0 s) : Only K F P s0 (State.partReset s f) := by
  unfold State.partReset
  repeat' first | with_reducible assumption | exact Fits.trans (by decide +kernel) hK | exact hF | exact hP | exact hP _ | with_reducible apply State.hset_only | with_reducible apply State.resetPartition_only | with_reducible apply State.setSvc_only | with_reducible apply State.healthReset_only | with_reducible apply State.shfReset_only | with_reducible apply State.updThm_only | with_reducible apply Only.ite | dsimp only | split | (with_reducible refine Only.fst (by with_reducible assumption) ?_) | (with_reducible refine Only.snd (by with_reducible assumption) ?_) | exact Fits.anyPlot _ (Fits.trans (by decide +kernel) hK)

theorem State.partReset_all {K : List Part} {F : FieldId → Prop} {P : PlotId → Prop} {s0 : State} (s : State) (f : FieldId) (hK : Fits ((([.events, .hubReg Reg.HUB_FIELD_STATE.STATE, .hubReg Reg.HUB_RESET_STATUS.PART_REFUSED, .hubReg Reg.MBX_HUB_IN_META.FULL, .hubReg Reg.MBX_HUB_OUT_ACK.CODE, .hubReg Reg.MBX_HUB_OUT_ACK.DONE, .hubReg Reg.MBX_HUB_OUT_META.PENDING, .hubSlots, .hbm, .store, .bin, .hbmErr, .storeErr, .binErr, .reg Reg.FLD_MESH_STAT.MCAST_SKIPPED, .reg Reg.GWY_STAT.ABSORBED] : List Part) ++ ([.reg Reg.INJ_PT.ARM, .reg Reg.INJ_PT.DONE, .reg Reg.MEM_ECC_STAT.CORRECTED, .reg Reg.MEM_ECC_STAT.LAST_ADDR, .reg Reg.MEM_ECC_STAT.POISON_WRITES, .reg Reg.MEM_ECC_STAT.UNCORRECTED, .reg Reg.MEM_REPAIR_ENTRY.BANK, .reg Reg.MEM_REPAIR_ENTRY.CHANNEL, .reg Reg.MEM_REPAIR_ENTRY.PCH, .reg Reg.MEM_REPAIR_ENTRY.REASON, .reg Reg.MEM_REPAIR_ENTRY.RESULT, .reg Reg.MEM_REPAIR_ENTRY.ROW, .reg Reg.MEM_REPAIR_ENTRY.STACK, .reg Reg.MEM_REPAIR_ENTRY.VALID, .reg Reg.SHF_GROUP_STATUS.DONE_SEQ, .reg Reg.SHF_GROUP_STATUS.STATE] : List Part) ++ ([.reg Reg.SHF_LATE_HIST.BUCKET, .reg Reg.SHF_STAT.DONE, .reg Reg.SHF_STAT.FAILED, .drill, .dr, .queue, .cq, .tine, .samples, .scrub, .notify, .xlines, .boot, .slot, .anyPlotReg, .memu] : List Part) ++ ([.hard, .router, .gateway, .sheaf, .health, .thermal, .far (.reg Reg.MBX_RIM_IN_META.FULL), .far (.reg Reg.MBX_RIM_OUT_ACK.CODE), .far (.reg Reg.MBX_RIM_OUT_ACK.DONE), .far (.reg Reg.MBX_RIM_OUT_META.PENDING), .far .slot, .far (.plotReg Reg.MBX_PLOT_IN_META.FULL), .far (.plotReg Reg.MBX_PLOT_OUT_ACK.CODE), .far (.plotReg Reg.MBX_PLOT_OUT_ACK.DONE), .far (.plotReg Reg.MBX_PLOT_OUT_META.PENDING), .far .rimSlots] : List Part)).map Part.anear) K) (hF : ∀ f, F f) (hP : ∀ p, P p)
    (ho : Only K F P s0 s) : Only K F P s0 (State.partReset s f) :=
  ho.trans (Only.near (l := (([.events, .hubReg Reg.HUB_FIELD_STATE.STATE, .hubReg Reg.HUB_RESET_STATUS.PART_REFUSED, .hubReg Reg.MBX_HUB_IN_META.FULL, .hubReg Reg.MBX_HUB_OUT_ACK.CODE, .hubReg Reg.MBX_HUB_OUT_ACK.DONE, .hubReg Reg.MBX_HUB_OUT_META.PENDING, .hubSlots, .hbm, .store, .bin, .hbmErr, .storeErr, .binErr, .reg Reg.FLD_MESH_STAT.MCAST_SKIPPED, .reg Reg.GWY_STAT.ABSORBED] : List Part) ++ ([.reg Reg.INJ_PT.ARM, .reg Reg.INJ_PT.DONE, .reg Reg.MEM_ECC_STAT.CORRECTED, .reg Reg.MEM_ECC_STAT.LAST_ADDR, .reg Reg.MEM_ECC_STAT.POISON_WRITES, .reg Reg.MEM_ECC_STAT.UNCORRECTED, .reg Reg.MEM_REPAIR_ENTRY.BANK, .reg Reg.MEM_REPAIR_ENTRY.CHANNEL, .reg Reg.MEM_REPAIR_ENTRY.PCH, .reg Reg.MEM_REPAIR_ENTRY.REASON, .reg Reg.MEM_REPAIR_ENTRY.RESULT, .reg Reg.MEM_REPAIR_ENTRY.ROW, .reg Reg.MEM_REPAIR_ENTRY.STACK, .reg Reg.MEM_REPAIR_ENTRY.VALID, .reg Reg.SHF_GROUP_STATUS.DONE_SEQ, .reg Reg.SHF_GROUP_STATUS.STATE] : List Part) ++ ([.reg Reg.SHF_LATE_HIST.BUCKET, .reg Reg.SHF_STAT.DONE, .reg Reg.SHF_STAT.FAILED, .drill, .dr, .queue, .cq, .tine, .samples, .scrub, .notify, .xlines, .boot, .slot, .anyPlotReg, .memu] : List Part) ++ ([.hard, .router, .gateway, .sheaf, .health, .thermal, .far (.reg Reg.MBX_RIM_IN_META.FULL), .far (.reg Reg.MBX_RIM_OUT_ACK.CODE), .far (.reg Reg.MBX_RIM_OUT_ACK.DONE), .far (.reg Reg.MBX_RIM_OUT_META.PENDING), .far .slot, .far (.plotReg Reg.MBX_PLOT_IN_META.FULL), .far (.plotReg Reg.MBX_PLOT_OUT_ACK.CODE), .far (.plotReg Reg.MBX_PLOT_OUT_ACK.DONE), .far (.plotReg Reg.MBX_PLOT_OUT_META.PENDING), .far .rimSlots] : List Part))) (State.partReset_only s f (Fits.refl _) trivial (fun _ => trivial) (Only.refl _ _ _ _)) hK hF hP)

theorem execPartitionReset_only {K : List Part} {F : FieldId → Prop} {P : PlotId → Prop} {s0 : State} (f : FieldId) (s : State) (hK : Fits (([.events, .hubReg Reg.HUB_FIELD_STATE.STATE, .hubReg Reg.HUB_RESET_STATUS.PART_REFUSED, .hubReg Reg.MBX_HUB_IN_META.FULL, .hubReg Reg.MBX_HUB_OUT_ACK.CODE, .hubReg Reg.MBX_HUB_OUT_ACK.DONE, .hubReg Reg.MBX_HUB_OUT_META.PENDING, .hubSlots, .hbm, .store, .bin, .hbmErr, .storeErr, .binErr, .reg Reg.FLD_MESH_STAT.MCAST_SKIPPED, .reg Reg.GWY_STAT.ABSORBED] : List Part) ++ ([.reg Reg.INJ_PT.ARM, .reg Reg.INJ_PT.DONE, .reg Reg.MEM_ECC_STAT.CORRECTED, .reg Reg.MEM_ECC_STAT.LAST_ADDR, .reg Reg.MEM_ECC_STAT.POISON_WRITES, .reg Reg.MEM_ECC_STAT.UNCORRECTED, .reg Reg.MEM_REPAIR_ENTRY.BANK, .reg Reg.MEM_REPAIR_ENTRY.CHANNEL, .reg Reg.MEM_REPAIR_ENTRY.PCH, .reg Reg.MEM_REPAIR_ENTRY.REASON, .reg Reg.MEM_REPAIR_ENTRY.RESULT, .reg Reg.MEM_REPAIR_ENTRY.ROW, .reg Reg.MEM_REPAIR_ENTRY.STACK, .reg Reg.MEM_REPAIR_ENTRY.VALID, .reg Reg.SHF_GROUP_STATUS.DONE_SEQ, .reg Reg.SHF_GROUP_STATUS.STATE] : List Part) ++ ([.reg Reg.SHF_LATE_HIST.BUCKET, .reg Reg.SHF_STAT.DONE, .reg Reg.SHF_STAT.FAILED, .drill, .dr, .queue, .cq, .tine, .samples, .scrub, .notify, .xlines, .boot, .slot, .anyPlotReg, .memu] : List Part) ++ ([.hard, .router, .gateway, .sheaf, .health, .thermal, .far (.reg Reg.MBX_RIM_IN_META.FULL), .far (.reg Reg.MBX_RIM_OUT_ACK.CODE), .far (.reg Reg.MBX_RIM_OUT_ACK.DONE), .far (.reg Reg.MBX_RIM_OUT_META.PENDING), .far .slot, .far (.plotReg Reg.MBX_PLOT_IN_META.FULL), .far (.plotReg Reg.MBX_PLOT_OUT_ACK.CODE), .far (.plotReg Reg.MBX_PLOT_OUT_ACK.DONE), .far (.plotReg Reg.MBX_PLOT_OUT_META.PENDING), .far .rimSlots] : List Part)) K) (hF : F f) (hP : ∀ p, P p)
    (ho : Only K F P s0 s) : Ends K F P s0 (execPartitionReset f s) := by
  unfold execPartitionReset
  repeat' first | with_reducible assumption | exact Fits.trans (by decide +kernel) hK | exact hF | exact hP | exact hP _ | with_reducible apply State.partReset_only | with_reducible apply Ends.finish | with_reducible apply Ends.next | with_reducible apply Only.ite | with_reducible apply Ends.ite | dsimp only | split | (with_reducible refine Only.fst (by with_reducible assumption) ?_) | (with_reducible refine Only.snd (by with_reducible assumption) ?_) | exact Fits.anyPlot _ (Fits.trans (by decide +kernel) hK)

theorem State.partDone_only {K : List Part} {F : FieldId → Prop} {P : PlotId → Prop} {s0 : State} (s : State) (f : FieldId) (march : Nat) (hK : Fits (([.events, .hubReg Reg.HUB_FIELD_STATE.FALLOW, .hubReg Reg.HUB_FIELD_STATE.STATE, .store, .bin, .hbmErr, .storeErr, .binErr, .reg Reg.FLD_BOOT_STATUS.FETCHED, .reg Reg.FLD_BOOT_STATUS.FW_FALLOW, .reg Reg.FLD_BOOT_STATUS.REPAIRS, .reg Reg.FLD_BOOT_STATUS.SOWN, .reg Reg.FLD_FALLOW_RUN.RUN, .reg Reg.INJ_ARITH.ARM, .reg Reg.INJ_ARITH.DONE, .reg Reg.INJ_ARITH.NOFIRE] : List Part) ++ ([.reg Reg.INJ_PT.ARM, .reg Reg.INJ_PT.DONE, .reg Reg.MEM_ECC_STAT.CORRECTED, .reg Reg.MEM_ECC_STAT.LAST_ADDR, .reg Reg.MEM_ECC_STAT.UNCORRECTED, .reg Reg.MEM_REPAIR_ENTRY.BANK, .reg Reg.MEM_REPAIR_ENTRY.CHANNEL, .reg Reg.MEM_REPAIR_ENTRY.PCH, .reg Reg.MEM_REPAIR_ENTRY.REASON, .reg Reg.MEM_REPAIR_ENTRY.RESULT, .reg Reg.MEM_REPAIR_ENTRY.ROW, .reg Reg.MEM_REPAIR_ENTRY.STACK, .reg Reg.MEM_REPAIR_ENTRY.VALID, .drill, .boot, .plotReg Reg.PLT_BOOT.FAIL_BLOCK] : List Part) ++ ([.plotReg Reg.PLT_BOOT.IMAGE, .plotReg Reg.PLT_BOOT.NONE, .plotReg Reg.PLT_BOOT.REPAIRS, .plotReg Reg.PLT_BOOT.SOW, .plotReg Reg.PLT_BOOT.STATUS, .plotReg Reg.PLT_STORE_ECC.CORRECTED, .plotReg Reg.PLT_STORE_ECC.LAST_ADDR, .plotReg Reg.PLT_STORE_ECC.UNCORRECTED, .memu, .hard, .health] : List Part)) K) (hF : F f) (hP : ∀ p, P p)
    (ho : Only K F P s0 s) : Only K F P s0 (State.partDone s f march) := by
  unfold State.partDone
  repeat' first | with_reducible assumption | exact Fits.trans (by decide +kernel) hK | exact hF | exact hP | exact hP _ | with_reducible apply State.remapTake_only | with_reducible apply State.fallowMarks_only | with_reducible apply State.fillAll_only | with_reducible apply State.bootAll_only | with_reducible apply State.firmwareEvent_only | with_reducible apply State.setSvc_only | with_reducible apply Only.ite | dsimp only | split | (with_reducible refine Only.foldl _ _ (fun t a ht => ?_) ?_) | (with_reducible refine Only.foldl_fst _ _ _ (fun t a ht => ?_) ?_) | (with_reducible refine Only.fst (by with_reducible assumption) ?_) | (with_reducible refine Only.snd (by with_reducible assumption) ?_)

theorem execPartitionResetDone_only {K : List Part} {F : FieldId → Prop} {P : PlotId → Prop} {s0 : State} (f : FieldId) (march : Nat) (s : State) (hK : Fits (([.events, .hubReg Reg.HUB_FIELD_STATE.FALLOW, .hubReg Reg.HUB_FIELD_STATE.STATE, .store, .bin, .hbmErr, .storeErr, .binErr, .reg Reg.FLD_BOOT_STATUS.FETCHED, .reg Reg.FLD_BOOT_STATUS.FW_FALLOW, .reg Reg.FLD_BOOT_STATUS.REPAIRS, .reg Reg.FLD_BOOT_STATUS.SOWN, .reg Reg.FLD_FALLOW_RUN.RUN, .reg Reg.INJ_ARITH.ARM, .reg Reg.INJ_ARITH.DONE, .reg Reg.INJ_ARITH.NOFIRE] : List Part) ++ ([.reg Reg.INJ_PT.ARM, .reg Reg.INJ_PT.DONE, .reg Reg.MEM_ECC_STAT.CORRECTED, .reg Reg.MEM_ECC_STAT.LAST_ADDR, .reg Reg.MEM_ECC_STAT.UNCORRECTED, .reg Reg.MEM_REPAIR_ENTRY.BANK, .reg Reg.MEM_REPAIR_ENTRY.CHANNEL, .reg Reg.MEM_REPAIR_ENTRY.PCH, .reg Reg.MEM_REPAIR_ENTRY.REASON, .reg Reg.MEM_REPAIR_ENTRY.RESULT, .reg Reg.MEM_REPAIR_ENTRY.ROW, .reg Reg.MEM_REPAIR_ENTRY.STACK, .reg Reg.MEM_REPAIR_ENTRY.VALID, .drill, .boot, .plotReg Reg.PLT_BOOT.FAIL_BLOCK] : List Part) ++ ([.plotReg Reg.PLT_BOOT.IMAGE, .plotReg Reg.PLT_BOOT.NONE, .plotReg Reg.PLT_BOOT.REPAIRS, .plotReg Reg.PLT_BOOT.SOW, .plotReg Reg.PLT_BOOT.STATUS, .plotReg Reg.PLT_STORE_ECC.CORRECTED, .plotReg Reg.PLT_STORE_ECC.LAST_ADDR, .plotReg Reg.PLT_STORE_ECC.UNCORRECTED, .memu, .hard, .health] : List Part)) K) (hF : F f) (hP : ∀ p, P p)
    (ho : Only K F P s0 s) : Ends K F P s0 (execPartitionResetDone f march s) := by
  unfold execPartitionResetDone
  repeat' first | with_reducible assumption | exact Fits.trans (by decide +kernel) hK | exact hF | exact hP | exact hP _ | with_reducible apply State.partDone_only | with_reducible apply Ends.finish | with_reducible apply Ends.next | with_reducible apply Only.ite | with_reducible apply Ends.ite | dsimp only | split | (with_reducible refine Only.fst (by with_reducible assumption) ?_) | (with_reducible refine Only.snd (by with_reducible assumption) ?_)

theorem State.jtagResponse_only {K : List Part} {F : FieldId → Prop} {P : PlotId → Prop} {s0 : State} (s : State) (r v : Nat) (hK : Fits ([.free, .events, .hubReg Reg.HUB_JTAG_CHAL.NONCE, .hubReg Reg.HUB_JTAG_STATUS.RESULT, .hubReg Reg.HUB_JTAG_STATUS.UNLOCKED, .seed] : List Part) K)
    (ho : Only K F P s0 s) : Only K F P s0 (State.jtagResponse s r v) := by
  unfold State.jtagResponse
  repeat' first | with_reducible assumption | exact Fits.trans (by decide +kernel) hK | with_reducible apply State.hset_only | with_reducible apply State.newNonce_only | with_reducible apply State.updSeed_only | with_reducible apply State.raiseHub_only | with_reducible apply Only.ite | dsimp only | split | (with_reducible refine Only.fst (by with_reducible assumption) ?_) | (with_reducible refine Only.snd (by with_reducible assumption) ?_)

theorem execJtagResponse_only {K : List Part} {F : FieldId → Prop} {P : PlotId → Prop} {s0 : State} (sigR sigS : Nat) (s : State) (hK : Fits ([.free, .events, .hubReg Reg.HUB_JTAG_CHAL.NONCE, .hubReg Reg.HUB_JTAG_RESP.SIG_R, .hubReg Reg.HUB_JTAG_RESP.SIG_S, .hubReg Reg.HUB_JTAG_STATUS.RESULT, .hubReg Reg.HUB_JTAG_STATUS.UNLOCKED, .seed] : List Part) K)
    (ho : Only K F P s0 s) : Ends K F P s0 (execJtagResponse sigR sigS s) := by
  unfold execJtagResponse
  repeat' first | with_reducible assumption | exact Fits.trans (by decide +kernel) hK | with_reducible apply State.hset_only | with_reducible apply State.jtagResponse_only | with_reducible apply Ends.finish | with_reducible apply Ends.next | with_reducible apply Only.ite | with_reducible apply Ends.ite | dsimp only | split | (with_reducible refine Only.fst (by with_reducible assumption) ?_) | (with_reducible refine Only.snd (by with_reducible assumption) ?_)

theorem execJtagHoldoffEnd_only {K : List Part} {F : FieldId → Prop} {P : PlotId → Prop} {s0 : State} (s : State) (hK : Fits ([.seed] : List Part) K)
    (ho : Only K F P s0 s) : Ends K F P s0 (execJtagHoldoffEnd s) := by
  unfold execJtagHoldoffEnd
  repeat' first | with_reducible assumption | exact Fits.trans (by decide +kernel) hK | with_reducible apply State.updSeed_only | with_reducible apply Ends.finish | with_reducible apply Ends.next | with_reducible apply Only.ite | with_reducible apply Ends.ite | dsimp only | split | (with_reducible refine Only.fst (by with_reducible assumption) ?_) | (with_reducible refine Only.snd (by with_reducible assumption) ?_)

theorem State.bootDo_only {K : List Part} {F : FieldId → Prop} {P : PlotId → Prop} {s0 : State} (s : State) (r : BootReq) (hK : Fits allParts K) (hF : ∀ f, F f) (hP : ∀ p, P p)
    (ho : Only K F P s0 s) : Only K F P s0 (State.bootDo s r) := by
  unfold State.bootDo
  repeat' first | with_reducible assumption | exact Fits.trans (by decide +kernel) hK | exact hF | exact hP | exact hF _ | exact hP _ | with_reducible apply State.stageGo_only | with_reducible apply State.stageSkip_only | with_reducible apply State.hostImage_only | with_reducible apply State.imagesReady_only | with_reducible apply State.warmReset_only | with_reducible apply State.partReset_all | with_reducible apply State.jtagResponse_only | with_reducible apply Only.ite | dsimp only | split | (with_reducible refine Only.foldl _ _ (fun t a ht => ?_) ?_) | (with_reducible refine Only.foldl_fst _ _ _ (fun t a ht => ?_) ?_) | (with_reducible refine Only.fst (by with_reducible assumption) ?_) | (with_reducible refine Only.snd (by with_reducible assumption) ?_)

theorem State.bootLoop_only {K : List Part} {F : FieldId → Prop} {P : PlotId → Prop} {s0 : State} (s : State) (fuel : Nat) (hK : Fits allParts K) (hF : ∀ f, F f) (hP : ∀ p, P p)
    (ho : Only K F P s0 s) : Only K F P s0 (State.bootLoop s fuel) := by
  induction fuel generalizing s with
  | zero => simp only [State.bootLoop]; (repeat' first | with_reducible assumption | exact Fits.trans (by decide +kernel) hK | exact hF | exact hP | exact hF _ | exact hP _ | with_reducible apply State.bootDo_only | with_reducible apply State.updSeed_only | with_reducible apply Only.ite | dsimp only | split | (with_reducible refine Only.fst (by with_reducible assumption) ?_) | (with_reducible refine Only.snd (by with_reducible assumption) ?_))
  | succ fuel ih => simp only [State.bootLoop]; (repeat' first | with_reducible assumption | with_reducible apply ih | with_reducible assumption | exact Fits.trans (by decide +kernel) hK | exact hF | exact hP | exact hF _ | exact hP _ | with_reducible apply State.bootDo_only | with_reducible apply State.updSeed_only | with_reducible apply Only.ite | dsimp only | split | (with_reducible refine Only.fst (by with_reducible assumption) ?_) | (with_reducible refine Only.snd (by with_reducible assumption) ?_))

theorem State.bootSettle_only {K : List Part} {F : FieldId → Prop} {P : PlotId → Prop} {s0 : State} (s : State) (hK : Fits allParts K) (hF : ∀ f, F f) (hP : ∀ p, P p)
    (ho : Only K F P s0 s) : Only K F P s0 (State.bootSettle s) := by
  unfold State.bootSettle
  repeat' first | with_reducible assumption | exact Fits.trans (by decide +kernel) hK | exact hF | exact hP | exact hF _ | exact hP _ | with_reducible apply State.bootLoop_only | with_reducible apply Only.ite | dsimp only | split | (with_reducible refine Only.fst (by with_reducible assumption) ?_) | (with_reducible refine Only.snd (by with_reducible assumption) ?_)

theorem execStageGo_only {K : List Part} {F : FieldId → Prop} {P : PlotId → Prop} {s0 : State} (stage : Fin 16) (s : State) (hK : Fits allParts K) (hF : ∀ f, F f) (hP : ∀ p, P p)
    (ho : Only K F P s0 s) : Ends K F P s0 (execStageGo stage s) := by
  unfold execStageGo
  repeat' first | with_reducible assumption | exact Fits.trans (by decide +kernel) hK | exact hF | exact hP | exact hF _ | exact hP _ | with_reducible apply State.bootSettle_only | with_reducible apply State.stageGo_only | with_reducible apply Ends.finish | with_reducible apply Ends.next | with_reducible apply Only.ite | with_reducible apply Ends.ite | dsimp only | split | (with_reducible refine Only.fst (by with_reducible assumption) ?_) | (with_reducible refine Only.snd (by with_reducible assumption) ?_)

theorem execStageSkip_only {K : List Part} {F : FieldId → Prop} {P : PlotId → Prop} {s0 : State} (stage : Fin 16) (s : State) (hK : Fits allParts K) (hF : ∀ f, F f) (hP : ∀ p, P p)
    (ho : Only K F P s0 s) : Ends K F P s0 (execStageSkip stage s) := by
  unfold execStageSkip
  repeat' first | with_reducible assumption | exact Fits.trans (by decide +kernel) hK | exact hF | exact hP | exact hF _ | exact hP _ | with_reducible apply State.bootSettle_only | with_reducible apply State.stageSkip_only | with_reducible apply Ends.finish | with_reducible apply Ends.next | with_reducible apply Only.ite | with_reducible apply Ends.ite | dsimp only | split | (with_reducible refine Only.fst (by with_reducible assumption) ?_) | (with_reducible refine Only.snd (by with_reducible assumption) ?_)

theorem execLinksStageTimeout_only {K : List Part} {F : FieldId → Prop} {P : PlotId → Prop} {s0 : State} (s : State) (hK : Fits allParts K) (hF : ∀ f, F f) (hP : ∀ p, P p)
    (ho : Only K F P s0 s) : Ends K F P s0 (execLinksStageTimeout s) := by
  unfold execLinksStageTimeout
  repeat' first | with_reducible assumption | exact Fits.trans (by decide +kernel) hK | exact hF | exact hP | exact hF _ | exact hP _ | with_reducible apply State.bootSettle_only | with_reducible apply State.stageClose_only | with_reducible apply Ends.finish | with_reducible apply Ends.next | with_reducible apply Only.ite | with_reducible apply Ends.ite | dsimp only | split | (with_reducible refine Only.fst (by with_reducible assumption) ?_) | (with_reducible refine Only.snd (by with_reducible assumption) ?_)

theorem execStageFabric_only {K : List Part} {F : FieldId → Prop} {P : PlotId → Prop} {s0 : State} (s : State) (hK : Fits allParts K) (hF : ∀ f, F f) (hP : ∀ p, P p)
    (ho : Only K F P s0 s) : Ends K F P s0 (execStageFabric s) := by
  unfold execStageFabric
  repeat' first | with_reducible assumption | exact Fits.trans (by decide +kernel) hK | exact hF | exact hP | exact hF _ | exact hP _ | with_reducible apply State.bootSettle_only | with_reducible apply State.fabricStart_only | with_reducible apply Ends.finish | with_reducible apply Ends.next | with_reducible apply Only.ite | with_reducible apply Ends.ite | dsimp only | split | (with_reducible refine Only.fst (by with_reducible assumption) ?_) | (with_reducible refine Only.snd (by with_reducible assumption) ?_)

theorem execFabricStageTimeout_only {K : List Part} {F : FieldId → Prop} {P : PlotId → Prop} {s0 : State} (s : State) (hK : Fits allParts K) (hF : ∀ f, F f) (hP : ∀ p, P p)
    (ho : Only K F P s0 s) : Ends K F P s0 (execFabricStageTimeout s) := by
  unfold execFabricStageTimeout
  repeat' first | with_reducible assumption | exact Fits.trans (by decide +kernel) hK | exact hF | exact hP | exact hF _ | exact hP _ | with_reducible apply State.bootSettle_only | with_reducible apply State.stageClose_only | with_reducible apply Ends.finish | with_reducible apply Ends.next | with_reducible apply Only.ite | with_reducible apply Ends.ite | dsimp only | split | (with_reducible refine Only.fst (by with_reducible assumption) ?_) | (with_reducible refine Only.snd (by with_reducible assumption) ?_)

theorem execStageEnd_only {K : List Part} {F : FieldId → Prop} {P : PlotId → Prop} {s0 : State} (s : State) (hK : Fits allParts K) (hF : ∀ f, F f) (hP : ∀ p, P p)
    (ho : Only K F P s0 s) : Ends K F P s0 (execStageEnd s) := by
  unfold execStageEnd
  repeat' first | with_reducible assumption | exact Fits.trans (by decide +kernel) hK | exact hF | exact hP | exact hF _ | exact hP _ | with_reducible apply State.bootSettle_only | with_reducible apply State.stageEnd_only | with_reducible apply Ends.finish | with_reducible apply Ends.next | with_reducible apply Only.ite | with_reducible apply Ends.ite | dsimp only | split | (with_reducible refine Only.fst (by with_reducible assumption) ?_) | (with_reducible refine Only.snd (by with_reducible assumption) ?_)

end Sys2Proof.Machine
end

