-- ==== Sys2Proof/Laws/Effects.lean ====
section
/-! SUPPORT. What the shared operations do, one lemma each: the value left in the part an operation is for. Frames are in
Laws/Touch. -/

namespace Sys2Proof.Machine

set_option Elab.async false

open Sys2Proof

/-! ### What each update leaves of what is read -/

@[simp] theorem State.raise_hreg (s : State) (g : FieldId) (e : EvKind) (l : List (Nat × Nat)) (b : Bool) (k' : RegField) (m j : Nat) :
    (s.raise g e l b).hreg k' m j = s.hreg k' m j := rfl

@[simp] theorem State.raise_freg (s : State) (g : FieldId) (e : EvKind) (l : List (Nat × Nat)) (b : Bool) (f : FieldId) (k' : RegField) (m j : Nat) :
    (s.raise g e l b).freg f k' m j = s.freg f k' m j := rfl

@[simp] theorem State.raise_preg (s : State) (g : FieldId) (e : EvKind) (l : List (Nat × Nat)) (b : Bool) (f : FieldId) (p : PlotId) (k' : RegField) :
    (s.raise g e l b).preg f p k' = s.preg f p k' := rfl

@[simp] theorem State.raise_plot (s : State) (g : FieldId) (e : EvKind) (l : List (Nat × Nat)) (b : Bool) (f : FieldId) (p : PlotId) :
    (s.raise g e l b).plot f p = s.plot f p := rfl

@[simp] theorem State.raise_svc (s : State) (g : FieldId) (e : EvKind) (l : List (Nat × Nat)) (b : Bool) (f : FieldId) :
    (s.raise g e l b).svc f = s.svc f := rfl

@[simp] theorem State.raiseHub_hreg (s : State) (e : EvKind) (l : List (Nat × Nat)) (b : Bool) (k' : RegField) (m j : Nat) :
    (s.raiseHub e l b).hreg k' m j = s.hreg k' m j := rfl

@[simp] theorem State.raiseHub_freg (s : State) (e : EvKind) (l : List (Nat × Nat)) (b : Bool) (f : FieldId) (k' : RegField) (m j : Nat) :
    (s.raiseHub e l b).freg f k' m j = s.freg f k' m j := rfl

@[simp] theorem State.raiseHub_preg (s : State) (e : EvKind) (l : List (Nat × Nat)) (b : Bool) (f : FieldId) (p : PlotId) (k' : RegField) :
    (s.raiseHub e l b).preg f p k' = s.preg f p k' := rfl

@[simp] theorem State.raiseHub_plot (s : State) (e : EvKind) (l : List (Nat × Nat)) (b : Bool) (f : FieldId) (p : PlotId) :
    (s.raiseHub e l b).plot f p = s.plot f p := rfl

@[simp] theorem State.raiseHub_svc (s : State) (e : EvKind) (l : List (Nat × Nat)) (b : Bool) (f : FieldId) :
    (s.raiseHub e l b).svc f = s.svc f := rfl

@[simp] theorem State.emit_hreg (s : State) (o : Output) (k' : RegField) (m j : Nat) :
    (s.emit o).hreg k' m j = s.hreg k' m j := rfl

@[simp] theorem State.emit_freg (s : State) (o : Output) (f : FieldId) (k' : RegField) (m j : Nat) :
    (s.emit o).freg f k' m j = s.freg f k' m j := rfl

@[simp] theorem State.emit_preg (s : State) (o : Output) (f : FieldId) (p : PlotId) (k' : RegField) :
    (s.emit o).preg f p k' = s.preg f p k' := rfl

@[simp] theorem State.emit_plot (s : State) (o : Output) (f : FieldId) (p : PlotId) :
    (s.emit o).plot f p = s.plot f p := rfl

@[simp] theorem State.emit_svc (s : State) (o : Output) (f : FieldId) :
    (s.emit o).svc f = s.svc f := rfl

@[simp] theorem State.updHub_freg (s : State) (g : Hub → Hub) (f : FieldId) (k' : RegField) (m j : Nat) :
    (s.updHub g).freg f k' m j = s.freg f k' m j := rfl

@[simp] theorem State.updHub_preg (s : State) (g : Hub → Hub) (f : FieldId) (p : PlotId) (k' : RegField) :
    (s.updHub g).preg f p k' = s.preg f p k' := rfl

@[simp] theorem State.updHub_plot (s : State) (g : Hub → Hub) (f : FieldId) (p : PlotId) :
    (s.updHub g).plot f p = s.plot f p := rfl

@[simp] theorem State.updMem_hreg (s : State) (g : Memories → Memories) (k' : RegField) (m j : Nat) :
    (s.updMem g).hreg k' m j = s.hreg k' m j := rfl

@[simp] theorem State.updMem_freg (s : State) (g : Memories → Memories) (f : FieldId) (k' : RegField) (m j : Nat) :
    (s.updMem g).freg f k' m j = s.freg f k' m j := rfl

@[simp] theorem State.updMem_preg (s : State) (g : Memories → Memories) (f : FieldId) (p : PlotId) (k' : RegField) :
    (s.updMem g).preg f p k' = s.preg f p k' := rfl

@[simp] theorem State.updMem_plot (s : State) (g : Memories → Memories) (f : FieldId) (p : PlotId) :
    (s.updMem g).plot f p = s.plot f p := rfl

@[simp] theorem State.updMem_svc (s : State) (g : Memories → Memories) (f : FieldId) :
    (s.updMem g).svc f = s.svc f := rfl

@[simp] theorem State.hset_freg (s : State) (k : RegField) (v n i : Nat) (f : FieldId) (k' : RegField) (m j : Nat) :
    (s.hset k v n i).freg f k' m j = s.freg f k' m j := rfl

@[simp] theorem State.hset_preg (s : State) (k : RegField) (v n i : Nat) (f : FieldId) (p : PlotId) (k' : RegField) :
    (s.hset k v n i).preg f p k' = s.preg f p k' := rfl

@[simp] theorem State.hset_plot (s : State) (k : RegField) (v n i : Nat) (f : FieldId) (p : PlotId) :
    (s.hset k v n i).plot f p = s.plot f p := rfl

@[simp] theorem State.updField_hreg (s : State) (h : FieldId) (g : Field → Field) (k' : RegField) (m j : Nat) :
    (s.updField h g).hreg k' m j = s.hreg k' m j := rfl

@[simp] theorem State.updField_svc (s : State) (h : FieldId) (g : Field → Field) (f : FieldId) :
    (s.updField h g).svc f = s.svc f := rfl

@[simp] theorem State.fset_hreg (s : State) (h : FieldId) (k : RegField) (v n i : Nat) (k' : RegField) (m j : Nat) :
    (s.fset h k v n i).hreg k' m j = s.hreg k' m j := rfl

@[simp] theorem State.fset_svc (s : State) (h : FieldId) (k : RegField) (v n i : Nat) (f : FieldId) :
    (s.fset h k v n i).svc f = s.svc f := rfl

@[simp] theorem State.updPlot_hreg (s : State) (h : FieldId) (q : PlotId) (g : Plot → Plot) (k' : RegField) (m j : Nat) :
    (s.updPlot h q g).hreg k' m j = s.hreg k' m j := rfl

@[simp] theorem State.updPlot_svc (s : State) (h : FieldId) (q : PlotId) (g : Plot → Plot) (f : FieldId) :
    (s.updPlot h q g).svc f = s.svc f := rfl

@[simp] theorem State.pset_hreg (s : State) (h : FieldId) (q : PlotId) (k : RegField) (v : Nat) (k' : RegField) (m j : Nat) :
    (s.pset h q k v).hreg k' m j = s.hreg k' m j := rfl

@[simp] theorem State.pset_svc (s : State) (h : FieldId) (q : PlotId) (k : RegField) (v : Nat) (f : FieldId) :
    (s.pset h q k v).svc f = s.svc f := rfl

@[simp] theorem State.updPlot_freg (s : State) (h : FieldId) (q : PlotId) (g : Plot → Plot) (f : FieldId)
    (k : RegField) (n i : Nat) : (s.updPlot h q g).freg f k n i = s.freg f k n i := by
  simp only [State.freg, State.updPlot, State.field_updField_if]
  split
  · subst_vars; rfl
  · rfl

@[simp] theorem State.pset_freg (s : State) (h : FieldId) (q : PlotId) (k' : RegField) (v : Nat) (f : FieldId)
    (k : RegField) (n i : Nat) : (s.pset h q k' v).freg f k n i = s.freg f k n i := State.updPlot_freg _ _ _ _ _ _ _ _

@[simp] theorem State.fset_plot (s : State) (h : FieldId) (k : RegField) (v n i : Nat) (f : FieldId) (p : PlotId) :
    (s.fset h k v n i).plot f p = s.plot f p := by
  simp only [State.plot, State.fset, State.field_updField_if]
  split
  · subst_vars; rfl
  · rfl

@[simp] theorem State.fset_preg (s : State) (h : FieldId) (k : RegField) (v n i : Nat) (f : FieldId) (p : PlotId)
    (k' : RegField) : (s.fset h k v n i).preg f p k' = s.preg f p k' := by
  simp only [State.preg, State.fset_plot]

theorem State.freg_updField (s : State) (f : FieldId) (g : Field → Field) (k : RegField) (n i : Nat) :
    (s.updField f g).freg f k n i = (g (s.field f)).reg k n i := by
  simp only [State.freg, State.field_updField]

theorem State.plot_updField (s : State) (f : FieldId) (g : Field → Field) (p : PlotId) :
    (s.updField f g).plot f p = (g (s.field f)).plot p := by
  simp only [State.plot, State.field_updField]

@[simp] theorem State.plot_updField_same (s : State) (f h : FieldId) (g : Field → Field) (p : PlotId)
    (hg : ∀ F, (g F).plots = F.plots) : (s.updField f g).plot h p = s.plot h p := by
  simp only [State.plot, State.field_updField_if]
  split
  · subst_vars; simp only [Field.plot, hg]
  · rfl

@[simp] theorem State.freg_updField_same (s : State) (f h : FieldId) (g : Field → Field) (k : RegField) (n i : Nat)
    (hg : ∀ F, (g F).regs = F.regs) : (s.updField f g).freg h k n i = s.freg h k n i := by
  simp only [State.freg, State.field_updField_if]
  split
  · subst_vars; simp only [Field.reg, hg]
  · rfl

@[simp] theorem State.preg_updField_same (s : State) (f h : FieldId) (g : Field → Field) (p : PlotId) (k : RegField)
    (hg : ∀ F, (g F).plots = F.plots) : (s.updField f g).preg h p k = s.preg h p k := by
  simp only [State.preg, State.plot_updField_same s f h g p hg]

@[simp] theorem State.hub_updHub (s : State) (g : Hub → Hub) : (s.updHub g).hub = g s.hub := rfl

@[simp] theorem State.hreg_updHub_same (s : State) (g : Hub → Hub) (k : RegField) (n i : Nat)
    (hg : ∀ H, (g H).regs = H.regs) : (s.updHub g).hreg k n i = s.hreg k n i := by
  simp only [State.hreg, State.updHub, Hub.reg, hg]

@[simp] theorem State.svc_updHub_same (s : State) (g : Hub → Hub) (f : FieldId)
    (hg : ∀ H, (g H).regs = H.regs) : (s.updHub g).svc f = s.svc f := State.hreg_updHub_same _ _ _ _ _ hg

theorem State.preg_updPlot (s : State) (f : FieldId) (p : PlotId) (g : Plot → Plot) (k : RegField) :
    (s.updPlot f p g).preg f p k = (g (s.plot f p)).reg k := by
  simp only [State.preg, State.plot_updPlot]

@[simp] theorem State.preg_updPlot_same (s : State) (f h : FieldId) (p q : PlotId) (g : Plot → Plot) (k : RegField)
    (hg : ∀ P, (g P).regs = P.regs) : (s.updPlot h q g).preg f p k = s.preg f p k := by
  by_cases e : h ≠ f ∨ q ≠ p
  · simp only [State.preg, State.plot_updPlot_ne _ _ _ _ _ _ e]
  · simp only [not_or, ne_eq, not_not] at e
    obtain ⟨rfl, rfl⟩ := e
    simp only [State.preg, State.plot_updPlot, Plot.reg, hg]

@[simp] theorem State.plot_pset (s : State) (f : FieldId) (p : PlotId) (k : RegField) (v : Nat) :
    (s.pset f p k v).plot f p = (s.plot f p).setReg k v := by
  simp only [State.pset, State.plot_updPlot]

@[simp] theorem Plot.reg_setReg (P : Plot) (k : RegField) (v n i : Nat) : (P.setReg k v n i).reg k n i = v % 2 ^ k.width :=
  RegField.get_set _ _ _ _ _

@[simp] theorem Field.reg_setReg (F : Field) (k : RegField) (v n i : Nat) : (F.setReg k v n i).reg k n i = v % 2 ^ k.width :=
  RegField.get_set _ _ _ _ _

/-- A saturating sum fits the counter. -/
theorem satAdd_mod (w x d : Nat) : satAdd w x d % 2 ^ w = satAdd w x d :=
  Nat.mod_eq_of_lt (Nat.lt_of_le_of_lt (Nat.min_le_right _ _) (Nat.sub_lt (Nat.two_pow_pos w) Nat.one_pos))

/-- A bit set reads as 1. -/
theorem bit_setBit (x i : Nat) : bit (setBit x i true) i = true := by
  have hp := Nat.two_pow_pos i
  simp only [bit, setBit, setBits, bits, b2n, Nat.testBit_eq_decide_div_mod_eq, Nat.shiftLeft_eq, Nat.shiftRight_eq_div_pow,
    if_true, decide_eq_true_eq, Nat.pow_one, Nat.one_mod, Nat.one_mul]
  rw [Nat.add_div_right _ hp, Nat.mul_comm, Nat.sub_mul_div]
  omega

/-- A bit below the width of a register field is kept by its store. -/
theorem bit_mod (x w i : Nat) (h : i < w) : bit (x % 2 ^ w) i = bit x i := by
  simp [bit, Nat.testBit_mod_two_pow, h]

@[simp] theorem State.preg_pwrap (s : State) (f : FieldId) (p : PlotId) (k : RegField) (d : Nat) :
    (s.pwrap f p k d).preg f p k = (s.preg f p k + d) % 2 ^ k.width := State.preg_pset _ _ _ _ _

@[simp] theorem State.preg_pcount (s : State) (f : FieldId) (p : PlotId) (k : RegField) (d : Nat) :
    (s.pcount f p k d).preg f p k = satAdd k.width (s.preg f p k) d := by
  rw [State.pcount, State.preg_pset, satAdd_mod]

@[simp] theorem State.freg_fcount (s : State) (f : FieldId) (k : RegField) (d n i : Nat) :
    (s.fcount f k d n i).freg f k n i = satAdd k.width (s.freg f k n i) d := by
  rw [State.fcount, State.freg_fset, satAdd_mod]

@[simp] theorem State.hreg_hcount (s : State) (k : RegField) (d n i : Nat) :
    (s.hcount k d n i).hreg k n i = satAdd k.width (s.hreg k n i) d := by
  rw [State.hcount, State.hreg_hset, satAdd_mod]

@[simp] theorem State.freg_fwrap (s : State) (f : FieldId) (k : RegField) (d n i : Nat) :
    (s.fwrap f k d n i).freg f k n i = (s.freg f k n i + d) % 2 ^ k.width := State.freg_fset _ _ _ _ _ _

@[simp] theorem State.updDrill_drill (s : State) (f : FieldId) (p : PlotId) (g : Drill → Drill) :
    ((s.updDrill f p g).plot f p).drill = g (s.plot f p).drill := by
  simp only [State.updDrill, State.plot_updPlot]

@[simp] theorem State.plot_updDrill (s : State) (f : FieldId) (p : PlotId) (g : Drill → Drill) :
    (s.updDrill f p g).plot f p = { s.plot f p with drill := g (s.plot f p).drill } := by
  simp only [State.updDrill, State.plot_updPlot]

@[simp] theorem State.vacant_updPlot (s : State) (h : FieldId) (q : PlotId) (g : Plot → Plot) (f : FieldId) (p : PlotId) :
    (s.updPlot h q g).vacant f p = s.vacant f p := by
  simp only [State.vacant, State.updPlot, State.field_updField_if]
  split
  · subst_vars; rfl
  · rfl

/-- A field's service state, once it is set, is the state set (R26). -/
theorem State.svc_setSvc (s : State) (f : FieldId) (v : Nat) (h : v < 16) : (s.setSvc f v).svc f = v := by
  unfold State.setSvc
  simp only
  split
  · assumption
  · split
    · rw [State.svc, (State.hardEvent_only (F := fun _ => True) (P := fun _ => True) _ f 2 false (Fits.refl _) trivial
        (Only.refl _ _ _ _)).hreg Reg.HUB_FIELD_STATE.STATE (by decide), State.raiseHub_hreg, State.hreg_hset]
      exact Nat.mod_eq_of_lt h
    · rw [State.svc, State.raiseHub_hreg, State.hreg_hset]
      exact Nat.mod_eq_of_lt h

/-! ### Plots -/

@[simp] theorem Drill.x_zero (d : Drill) : d.x 0 = 0 := rfl

/-- An integer register that is written reads as written, x0 as 0 (R148). -/
theorem Drill.x_setX (d : Drill) (r v : Nat) : (d.setX r v).x r = if r = 0 then 0 else v % 2 ^ 32 := by
  unfold Drill.x Drill.setX
  split
  · rfl
  · simp only [SMap.get_set, if_pos]

@[simp] theorem Drill.x_retire (d : Drill) (r len cost : Nat) : (d.retire len cost).x r = d.x r := rfl

@[simp] theorem Drill.pc_setX (d : Drill) (r v : Nat) : (d.setX r v).pc = d.pc := by
  unfold Drill.setX; split <;> rfl

/-- The register and the pc after an instruction that retires with a result. -/
theorem State.drillRd_x (s : State) (f : FieldId) (p : PlotId) (rd v len cost : Nat) :
    ((s.drillRd f p rd v len cost).plot f p).drill.x rd = if rd = 0 then 0 else v % 2 ^ 32 := by
  rw [State.drillRd, State.updDrill_drill, Drill.x_retire, Drill.x_setX]

theorem State.drillRd_pc (s : State) (f : FieldId) (p : PlotId) (rd v len cost : Nat) :
    ((s.drillRd f p rd v len cost).plot f p).drill.pc = ((s.plot f p).drill.pc + len) % 2 ^ 32 := by
  rw [State.drillRd, State.updDrill_drill]
  show ((Drill.setX _ rd v).pc + len) % 2 ^ 32 = _
  rw [Drill.pc_setX]

/-- A drill that executes is RUNNING. -/
theorem State.drillGo_running (s : State) (f : FieldId) (p : PlotId) (h : s.drillGo f p = true) :
    (s.plot f p).drill.st = .running := by
  simp only [State.drillGo, Bool.and_eq_true, decide_eq_true_eq] at h
  exact h.1.1.1.1

/-- What issue leaves of the drill, and the next QSN (R194). -/
theorem State.issue_drill (s : State) (f : FieldId) (p : PlotId) (op : QOp) (int : Bool) (c : List Claim) (r : Option Nat) :
    ((s.issue f p op int c r).plot f p).drill = (s.plot f p).drill :=
  (State.issue_only (F := fun _ => True) (P := fun _ => True) s f p op int c r (Fits.refl _) trivial trivial
    (Only.refl _ _ _ _)).plot .drill f p (by decide) (.inl (by decide))

theorem State.logCompletion_queue (s : State) (f : FieldId) (p : PlotId) (qsn tag status seen unit : Nat) (int : Bool) :
    ((s.logCompletion f p qsn tag status seen unit int).plot f p).queue = (s.plot f p).queue ∧
    ((s.logCompletion f p qsn tag status seen unit int).plot f p).nextQsn = (s.plot f p).nextQsn :=
  (State.logCompletion_only (F := fun _ => True) (P := fun _ => True) s f p qsn tag status seen unit int (Fits.refl _)
    trivial trivial (Only.refl _ _ _ _)).plot .queue f p (by decide) (.inl (by decide))

theorem State.injArithFire_queue (s : State) (f : FieldId) (p : PlotId) :
    ((s.injArithFire f).plot f p).queue = (s.plot f p).queue ∧
    ((s.injArithFire f).plot f p).nextQsn = (s.plot f p).nextQsn :=
  (State.injArithFire_only (F := fun _ => True) (P := fun _ => True) s f (Fits.refl _) trivial
    (Only.refl _ _ _ _)).plot .queue f p (by decide) (.inl (by decide))

theorem State.issue_nextQsn (s : State) (f : FieldId) (p : PlotId) (op : QOp) (int : Bool) (c : List Claim) (r : Option Nat) :
    ((s.issue f p op int c r).plot f p).nextQsn = ((s.plot f p).nextQsn + 1) % 2 ^ 16 := by
  unfold State.issue
  cases r with
  | none => simp only; split <;> simp [(State.injArithFire_queue _ f p).2]
  | some x => simp [(State.logCompletion_queue _ f p _ _ _ _ _ _).2]

/-- An instruction that is not refused enters the queue with the QSN (R194, R195). -/
theorem State.issue_enters (s : State) (f : FieldId) (p : PlotId) (op : QOp) (int : Bool) (c : List Claim) :
    ∃ e, ((s.issue f p op int c none).plot f p).queue = (s.plot f p).queue ++ [e] ∧ e.qsn = (s.plot f p).nextQsn ∧
      e.op = op ∧ e.phase = .waiting := by
  unfold State.issue
  simp only
  split <;> simp [(State.injArithFire_queue _ f p).1, State.newEntry]

/-- One that is refused does not. -/
theorem State.issue_refused (s : State) (f : FieldId) (p : PlotId) (op : QOp) (int : Bool) (c : List Claim) (r : Option Nat)
    (h : r ≠ none) : ((s.issue f p op int c r).plot f p).queue = (s.plot f p).queue := by
  cases r with
  | none => exact absurd rfl h
  | some x => unfold State.issue; simp [(State.logCompletion_queue _ f p _ _ _ _ _ _).1]

/-- A changed entry of a queue is the change of one with its QSN. -/
theorem State.updEntry_queue (s : State) (f : FieldId) (p : PlotId) (qsn : Nat) (g : QEntry → QEntry)
    (hg : ∀ x, (g x).qsn = x.qsn) (y : QEntry) (hy : y ∈ ((s.updEntry f p qsn g).plot f p).queue) (h : y.qsn = qsn) :
    ∃ x ∈ (s.plot f p).queue, y = g x := by
  simp only [State.updEntry, State.plot_updPlot, List.mem_map] at hy
  obtain ⟨x, hx, rfl⟩ := hy
  split at h
  · exact ⟨x, hx, by simp [*]⟩
  · exact absurd h (by assumption)

/-- A completed entry has left its queue (R196). -/
theorem State.complete_queue (s : State) (f : FieldId) (p : PlotId) (e : QEntry) (status seen : Nat) (y : QEntry)
    (hy : y ∈ ((s.complete f p e status seen).plot f p).queue) : y.qsn ≠ e.qsn := by
  have h := State.logCompletion_only (F := fun _ => True) (P := fun _ => True)
    (s.updPlot f p (fun P => { P with queue := P.queue.filter (fun x => x.qsn ≠ e.qsn) })) f p e.qsn e.op.tag status seen
    e.op.unit e.int (Fits.refl _) trivial trivial (Only.refl _ _ _ _)
  have hq := (h.plot .queue f p (by rfl) (.inl (by rfl))).1
  unfold State.complete at hy
  rw [hq] at hy
  simp only [State.plot_updPlot, List.mem_filter, decide_eq_true_eq] at hy
  exact hy.2

/-- A pass that runs is in flight, and holds no claim any more (R97, R104). -/
theorem State.passRun_queue (s : State) (f : FieldId) (p : PlotId) (e : QEntry) (d md : Nat)
    (h : (tmmPair (if tmmFresh d then none else (s.plot f p).tine.active.map (fun w => (w.sel, some w.cls))) d).isSome = true)
    (y : QEntry) (hy : y ∈ ((s.passRun f p e d md).plot f p).queue) (hq : y.qsn = e.qsn) :
    y.phase = .running ∧ y.claims = [] := by
  have key : ∃ (t : State) (g : QEntry → QEntry), s.passRun f p e d md = t.updEntry f p e.qsn g ∧
      ∀ x, (g x).qsn = x.qsn ∧ (g x).phase = .running ∧ (g x).claims = [] := by
    unfold State.passRun
    simp only
    split
    · simp_all
    · exact ⟨_, _, rfl, fun _ => ⟨rfl, rfl, rfl⟩⟩
  obtain ⟨t, g, ht, hg⟩ := key
  rw [ht] at hy
  obtain ⟨x, _, rfl⟩ := State.updEntry_queue _ _ _ _ _ (fun x => (hg x).1) _ hy hq
  exact (hg x).2

/-- A vector instruction that has run has its results written and holds no claim (R153, R196). -/
theorem State.tvecRun_queue (s : State) (f : FieldId) (p : PlotId) (e : QEntry) (d md : Nat) (y : QEntry)
    (hy : y ∈ ((s.tvecRun f p e d md).plot f p).queue) (hq : y.qsn = e.qsn) : y.phase = .done ∧ y.claims = [] := by
  unfold State.tvecRun at hy
  obtain ⟨x, _, rfl⟩ := State.updEntry_queue _ _ _ _ _ (fun _ => by dsimp only) _ hy hq
  exact ⟨rfl, rfl⟩

/-! ### The plot window's doorbell and notify registers (R183, R184) -/

theorem RegField.part_none (k : RegField) (n i off bytes v : Nat) (h : k.part n i off bytes 0 = none) :
    k.part n i off bytes v = none := by
  simp only [RegField.part] at *
  split at h
  · exact absurd h (by simp)
  · rename_i hn; simp only [hn, if_false]

theorem foldl_unmet (l : List RegField) (g : State → RegField → State) (s : State) (off bytes v : Nat)
    (hg : ∀ t k, k.part 0 0 off bytes v = none → g t k = t)
    (h : l.all (fun k => (k.part 0 0 off bytes 0).isNone) = true) : l.foldl g s = s := by
  induction l generalizing s with
  | nil => rfl
  | cons k l ih =>
    simp only [List.all_cons, Bool.and_eq_true, Option.isNone_iff_eq_none] at h
    rw [List.foldl_cons, hg s k (RegField.part_none k 0 0 off bytes v h.1)]
    exact ih s h.2

/-- A write of PLT_DOORBELL_SET sets bits of PLT_DOORBELL (R184). -/
theorem State.plotWrite_doorbellSet (s : State) (f : FieldId) (p : PlotId) (v : Nat) :
    s.plotWrite f p false 0x088 4 v =
      s.pset f p Reg.PLT_DOORBELL.PENDING (s.preg f p Reg.PLT_DOORBELL.PENDING ||| bits v 0 32) := by
  unfold State.plotWrite
  rw [foldl_unmet _ _ _ 0x088 4 v (fun t k hk => by simp only [hk]) (by decide +kernel)]
  have h : Reg.PLT_DOORBELL_SET.PENDING.part 0 0 0x088 4 v = some (0, 32, bits v 0 32) := by
    simp [RegField.part, Reg.PLT_DOORBELL_SET.PENDING]
  simp only [Option.map_none, Option.map_some, Nat.shiftLeft_zero, Bool.false_eq_true, if_false, if_true,
    RegField.part_none Reg.PLT_DRILL_CTL.HOLD 0 0 0x088 4 v (by decide),
    RegField.part_none Reg.PLT_NOTIFY.VALUE 0 0 0x088 4 v (by decide),
    RegField.part_none Reg.MBX_PLOT_IN_ACK.CODE 0 0 0x088 4 v (by decide),
    RegField.part_none Reg.MBX_PLOT_OUT_META.SEND 0 0 0x088 4 v (by decide),
    h]

/-- A write of PLT_NOTIFY by the drill: the value waits to leave (R183). -/
theorem State.plotWrite_notify (s : State) (f : FieldId) (p : PlotId) (v : Nat) :
    s.plotWrite f p true 0x078 4 v = s.plotNotify f p (bits v 0 32) := by
  unfold State.plotWrite
  rw [foldl_unmet _ _ _ 0x078 4 v (fun t k hk => by simp only [hk]) (by decide +kernel)]
  have h : Reg.PLT_NOTIFY.VALUE.part 0 0 0x078 4 v = some (0, 32, bits v 0 32) := by
    simp [RegField.part, Reg.PLT_NOTIFY.VALUE]
  simp only [Option.map_none, Option.map_some, Nat.shiftLeft_zero, Bool.false_eq_true, if_false, if_true,
    RegField.part_none Reg.PLT_DRILL_CTL.HOLD 0 0 0x078 4 v (by decide),
    RegField.part_none Reg.PLT_DOORBELL_SET.PENDING 0 0 0x078 4 v (by decide),
    RegField.part_none Reg.MBX_PLOT_IN_ACK.CODE 0 0 0x078 4 v (by decide),
    RegField.part_none Reg.MBX_PLOT_OUT_META.SEND 0 0 0x078 4 v (by decide),
    h]

/-- A write of PLT_DOORBELL by the drill clears the bits that are 1 in it (R184). -/
theorem State.plotWrite_doorbell (s : State) (f : FieldId) (p : PlotId) (v : Nat) :
    s.plotWrite f p true 0x080 4 v = s.pset f p Reg.PLT_DOORBELL.PENDING
      (Access.w1c.write (s.preg f p Reg.PLT_DOORBELL.PENDING) 0 32 (bits v 0 32)) := by
  have h : Reg.plotFields.filter plotPlain =
      (Reg.plotFields.filter plotPlain).takeWhile (fun k => decide (k ≠ Reg.PLT_DOORBELL.PENDING)) ++
      [Reg.PLT_DOORBELL.PENDING] ++
      ((Reg.plotFields.filter plotPlain).dropWhile (fun k => decide (k ≠ Reg.PLT_DOORBELL.PENDING))).tail := by
    decide +kernel
  unfold State.plotWrite
  rw [h, List.foldl_append, List.foldl_append,
    foldl_unmet (List.takeWhile _ _) _ s 0x080 4 v (fun t k hk => by simp only [hk]) (by decide +kernel),
    List.foldl_cons, List.foldl_nil,
    foldl_unmet (List.tail _) _ _ 0x080 4 v (fun t k hk => by simp only [hk]) (by decide +kernel)]
  have hd : Reg.PLT_DOORBELL.PENDING.part 0 0 0x080 4 v = some (0, 32, bits v 0 32) := by
    simp [RegField.part, Reg.PLT_DOORBELL.PENDING]
  simp only [hd, Option.map_none, Option.map_some, Nat.shiftLeft_zero, Bool.false_eq_true, if_false, if_true,
    RegField.part_none Reg.PLT_DRILL_CTL.HOLD 0 0 0x080 4 v (by decide),
    RegField.part_none Reg.PLT_NOTIFY.VALUE 0 0 0x080 4 v (by decide),
    RegField.part_none Reg.PLT_DOORBELL_SET.PENDING 0 0 0x080 4 v (by decide),
    RegField.part_none Reg.MBX_PLOT_IN_ACK.CODE 0 0 0x080 4 v (by decide),
    RegField.part_none Reg.MBX_PLOT_OUT_META.SEND 0 0 0x080 4 v (by decide)]
  rfl

/-! ### Mailboxes -/

/-- A flag of an endpoint reads as set. -/
theorem State.mbx_mbxSet (s : State) (ep : MbxEp) (k : MbxFld) (v : Nat) (h : v < 2) : (s.mbxSet ep k v).mbx ep k = v := by
  cases ep <;> simp only [State.mbx, State.mbxSet, State.freg_fset, State.preg_pset, State.hreg_hset] <;>
    cases k <;> exact Nat.mod_eq_of_lt (lt_of_lt_of_le h (by decide))

/-- Setting a field of an endpoint leaves its others. -/
theorem State.mbx_mbxSet_ne (s : State) (ep : MbxEp) (k j : MbxFld) (v : Nat) (h : k ≠ j) :
    (s.mbxSet ep k v).mbx ep j = s.mbx ep j := by
  cases ep <;> simp only [State.mbx, State.mbxSet]
  case rimp => cases k <;> cases j <;> first
    | exact absurd rfl h
    | exact State.freg_fset_other _ _ _ _ _ _ _ _ _ _ (by decide)
  case fld => cases k <;> cases j <;> first
    | exact absurd rfl h
    | exact State.freg_fset_other _ _ _ _ _ _ _ _ _ _ (by decide)
  case plot => cases k <;> cases j <;> first
    | exact absurd rfl h
    | exact State.preg_pset_other _ _ _ _ _ _ _ _ (by decide)
  all_goals cases k <;> cases j <;> first
    | exact absurd rfl h
    | exact State.hreg_hset_other _ _ _ _ _ _ _ _ (by decide)

@[simp] theorem State.slot_mbxSet (s : State) (ep e : MbxEp) (k : MbxFld) (v : Nat) : (s.mbxSet ep k v).slot e = s.slot e := by
  cases ep <;> cases e <;> simp only [State.slot, State.mbxSet, State.fset, State.hset, State.pset] <;> first
    | rfl
    | (simp only [State.field_updField_if, State.plot, State.updPlot]; split <;> [(subst_vars; rfl); rfl])
    | (simp only [State.plot, State.updPlot, State.field_updField_if, Field.updPlot, Field.plot]
       split
       · subst_vars
         simp only [SMap.get_set]
         split
         · rename_i e1; rw [← Fin.ext e1]; rfl
         · rfl
       · rfl)

@[simp] theorem State.slot_setSlot (s : State) (ep : MbxEp) (x : MbxSlot) : (s.setSlot ep x).slot ep = x := by
  cases ep <;> simp [State.slot, State.setSlot, SMap.get_set, State.updHub]

@[simp] theorem State.mbx_setSlot (s : State) (ep e : MbxEp) (x : MbxSlot) (k : MbxFld) :
    (s.setSlot e x).mbx ep k = s.mbx ep k := by
  cases e <;> cases ep <;> simp [State.mbx, State.setSlot] <;> first
    | rfl
    | (simp only [State.preg, State.plot, State.updPlot, State.field_updField_if, Field.updPlot, Field.plot]
       split
       · subst_vars
         simp only [SMap.get_set]
         split
         · rename_i e1; rw [← Fin.ext e1]; rfl
         · rfl
       · rfl)

/-- An acknowledgement ends the sender's notice (R174, R618). -/
theorem State.mbxAck_sender (s : State) (ep : MbxEp) (code : Nat) : (s.mbxAck ep true code).mbx ep .pending = 0 ∧
    (s.mbxAck ep true code).mbx ep .done = 1 := by
  simp only [State.mbxAck, if_true]
  exact ⟨State.mbx_mbxSet _ _ _ _ (by decide), by
    rw [State.mbx_mbxSet_ne _ _ _ _ _ (by decide), State.mbx_mbxSet _ _ _ _ (by decide)]⟩

/-! ### Descriptors -/

/-- Reading a descriptor leaves the drill and the queue (R191). -/
theorem State.descLoad_same (s : State) (f : FieldId) (p : PlotId) (a : Nat) (t : State) (v : Nat)
    (h : s.descLoad f p a = .ok t v) : (t.plot f p).drill = (s.plot f p).drill ∧
      (t.plot f p).queue = (s.plot f p).queue ∧ (t.plot f p).nextQsn = (s.plot f p).nextQsn := by
  unfold State.descLoad at h
  split at h
  · exact absurd h (by simp)
  · have hr := State.storeRead_only (F := fun _ => True) (P := fun _ => True) s f p a 64 rqDrill (Fits.refl _) trivial trivial
      (Only.refl _ _ _ _)
    simp only at h
    split at h
    · exact absurd h (by simp)
    · have e : (s.storeRead f p a 64 rqDrill).1 = t := by simpa using (BusRes.ok.inj h).1
      rw [e] at hr
      exact ⟨hr.plot .drill f p (by decide) (.inl (by decide)), hr.plot .queue f p (by decide) (.inl (by decide))⟩

/-- A port updated is the port as the update makes it. -/
@[simp] theorem State.port_updPort (s : State) (f : FieldId) (n : PortId) (g : Port → Port) :
    (s.updPort f n g).port f n = g (s.port f n) := by
  unfold State.updPort State.port
  rw [State.field_updField]
  simp [Field.port, SMap.get_set]

@[simp] theorem State.port_fset (s : State) (h : FieldId) (k : RegField) (v m j : Nat) (f : FieldId) (n : PortId) :
    (s.fset h k v m j).port f n = s.port f n := by
  unfold State.fset State.port Field.port
  rw [State.field_updField_if]
  split
  · subst_vars; rfl
  · rfl

@[simp] theorem State.freg_updPort (s : State) (h : FieldId) (n : PortId) (g : Port → Port) (f : FieldId) (k : RegField)
    (m j : Nat) : (s.updPort h n g).freg f k m j = s.freg f k m j :=
  State.freg_updField_same _ _ _ _ _ _ _ (fun _ => rfl)

/-- A link's state once it has entered one. -/
theorem State.link_linkSet (s : State) (f : FieldId) (n : PortId) (new r : Nat) (h : new < 16) :
    (s.linkSet f n new r).link f n = new := by
  unfold State.linkSet State.link
  dsimp only
  split
  · rename_i e
    rw [State.freg_fset_other _ _ _ _ _ _ _ _ _ _ (by decide), if_neg (fun h => h.2 (e ▸ h.1))]
    exact e
  · rw [State.raise_freg, State.freg_fset]
    exact Nat.mod_eq_of_lt h

/-! ### Bytes -/

/-- A byte after a write: the byte written there, or the byte before. -/
theorem Mem.byte_write (m : SMap Byte) (a : Nat) (bs : List Byte) (b : Nat) :
    Mem.byte (Mem.write m a bs) b = if a ≤ b ∧ b < a + bs.length then bs.getD (b - a) 0 else Mem.byte m b := by
  induction bs generalizing m a with
  | nil => rw [Mem.write, if_neg (by simp only [List.length_nil]; omega)]
  | cons x bs ih =>
    rw [Mem.write, ih, List.length_cons]
    by_cases h : a = b
    · subst h
      rw [if_neg (by omega), if_pos (by omega), Nat.sub_self, List.getD_cons_zero]
      unfold Mem.byte Mem.setByte
      rw [SMap.get_set, if_pos rfl]
    · by_cases h2 : a + 1 ≤ b ∧ b < a + 1 + bs.length
      · rw [if_pos h2, if_pos (by omega), show b - a = b - (a + 1) + 1 by omega, List.getD_cons_succ]
      · rw [if_neg h2, if_neg (by omega)]
        unfold Mem.byte Mem.setByte
        rw [SMap.get_set, if_neg h]

theorem Mem.read_length (m : SMap Byte) (a n : Nat) : (Mem.read m a n).length = n := by
  induction n generalizing a with
  | zero => rfl
  | succ n ih => simp [Mem.read, ih]

theorem Mem.read_getD (m : SMap Byte) (a n i : Nat) (h : i < n) : (Mem.read m a n).getD i 0 = Mem.byte m (a + i) := by
  induction n generalizing a i with
  | zero => omega
  | succ n ih =>
    rw [Mem.read]
    cases i with
    | zero => rfl
    | succ i => rw [List.getD_cons_succ, ih _ _ (by omega), show a + 1 + i = a + (i + 1) by omega]

/-- A run of bytes written back into the block it came from changes those bytes only. -/
theorem Mem.byte_splice (m : SMap Byte) (a n off : Nat) (new : List Byte) (h : off + new.length ≤ n) (b : Nat) :
    Mem.byte (Mem.write m a (spliceBytes (Mem.read m a n) off new)) b =
      if a + off ≤ b ∧ b < a + off + new.length then new.getD (b - (a + off)) 0 else Mem.byte m b := by
  have hl : (spliceBytes (Mem.read m a n) off new).length = n := by
    simp [spliceBytes, Mem.read_length]
    omega
  rw [Mem.byte_write, hl]
  by_cases hb : a ≤ b ∧ b < a + n
  · rw [if_pos hb]
    have e : (spliceBytes (Mem.read m a n) off new).getD (b - a) 0 =
        if b - a < off then (Mem.read m a n).getD (b - a) 0 else
          if b - a < off + new.length then new.getD (b - a - off) 0 else (Mem.read m a n).getD (b - a) 0 := by
      unfold spliceBytes
      simp only [List.getD_eq_getElem?_getD]
      by_cases h1 : b - a < off
      · rw [if_pos h1, List.append_assoc, List.getElem?_append_left (by simp [Mem.read_length]; omega), List.getElem?_take_of_lt h1]
      · rw [if_neg h1, List.append_assoc, List.getElem?_append_right (by simp [Mem.read_length]; omega)]
        have e2 : ((Mem.read m a n).take off).length = off := by simp [Mem.read_length]; omega
        rw [e2]
        by_cases h2 : b - a < off + new.length
        · rw [if_pos h2, List.getElem?_append_left (by omega)]
        · rw [if_neg h2, List.getElem?_append_right (by omega), List.getElem?_drop]
          rw [show off + new.length + (b - a - off - new.length) = b - a by omega]
    rw [e]
    split
    · rw [if_neg (by omega), Mem.read_getD _ _ _ _ (by omega), show a + (b - a) = b by omega]
    · split
      · rw [if_pos (by omega), show b - a - off = b - (a + off) by omega]
      · rw [if_neg (by omega), Mem.read_getD _ _ _ _ (by omega), show a + (b - a) = b by omega]
  · rw [if_neg hb, if_neg (by omega)]

theorem Memories.store_setStore (m : Memories) (f : FieldId) (x : SMap Byte) : (m.setStore f x).store[f] = x := by
  simp [Memories.setStore]

theorem Memories.store_setStoreErr (m : Memories) (f g : FieldId) (k v : Nat) : (m.setStoreErr f k v).store[g] = m.store[g] := rfl

theorem Memories.hbm_setHbm (m : Memories) (f : FieldId) (x : SMap Byte) : (m.setHbm f x).hbm[f] = x := by
  simp [Memories.setHbm]

/-- Whole words written to a plot store are its bytes from that address on; every other byte of the store is as before. -/
theorem State.storeWriteLoop_bytes (s : State) (f : FieldId) (p : PlotId) (a : Nat) (new : List Byte) (rq n : Nat) (ha : a % 8 = 0)
    (hl : new.length % 8 = 0) (hn : new.length ≤ 8 * n) (b : Nat) :
    Mem.byte (s.storeWriteLoop f p a new rq false n).mem.store[f] b =
      if storeKey p a ≤ b ∧ b < storeKey p a + new.length then new.getD (b - storeKey p a) 0 else Mem.byte s.mem.store[f] b := by
  induction n generalizing s a new with
  | zero =>
    have : new = [] := List.eq_nil_of_length_eq_zero (by omega)
    subst this
    rw [if_neg (by simp only [List.length_nil]; omega)]
    rfl
  | succ n ih =>
    rw [State.storeWriteLoop]
    by_cases h : new = []
    · subst h
      rw [if_pos rfl, if_neg (by simp only [List.length_nil]; omega)]
    · rw [if_neg h]
      have h8 : 8 ≤ new.length := by
        have : new.length ≠ 0 := fun e => h (List.eq_nil_of_length_eq_zero e)
        omega
      dsimp only
      rw [ha, Bool.false_and]
      rw [ih _ _ _ (by omega) (by simp; omega) (by simp; omega)]
      have ht : (new.take (8 - 0)).length = 8 := by simp; omega
      have e : (s.storeWriteWord f p a (new.take (8 - 0)) rq).mem.store[f] = Mem.write s.mem.store[f] (storeKey p a) (new.take 8) := by
        unfold State.storeWriteWord
        dsimp only
        rw [if_pos ⟨ht, rfl⟩, State.updMem_mem, Memories.store_setStoreErr, Memories.store_setStore]
      rw [e, Mem.byte_write]
      have hk : storeKey p (a + (8 - 0)) = storeKey p a + 8 := by unfold storeKey; omega
      rw [hk, List.length_drop, List.length_take]
      by_cases h1 : storeKey p a + 8 ≤ b ∧ b < storeKey p a + new.length
      · rw [if_pos (by omega), if_pos (by omega)]
        simp only [List.getD_eq_getElem?_getD, List.getElem?_drop]
        rw [show 8 - 0 + (b - (storeKey p a + 8)) = b - storeKey p a by omega]
      · rw [if_neg (by omega)]
        by_cases h2 : storeKey p a ≤ b ∧ b < storeKey p a + 8
        · rw [if_pos (by omega), if_pos (by omega)]
          simp only [List.getD_eq_getElem?_getD]
          rw [List.getElem?_take_of_lt (by omega)]
        · rw [if_neg (by omega), if_neg (by omega)]

end Sys2Proof.Machine
end

