-- ==== Sys2Proof/Laws/Touch/Groups.lean ====
section
/-! SUPPORT. What each operation of Machine/Groups.lean can change: the parts named, and nothing else. -/

namespace Sys2Proof.Machine

set_option Elab.async false

open Sys2Proof

theorem Ends.andThen {K : List Part} {F : FieldId → Prop} {P : PlotId → Prop} {s0 : State} {r : Result} {g : State → Result}
    (hK : Fits recordParts K) (hF : ∀ f, F f) (h : Ends K F P s0 r) (hg : ∀ t, Only K F P s0 t → Ends K F P s0 (g t)) :
    Ends K F P s0 (andThen r g) := by
  obtain ⟨u, e | e, hu⟩ := h
  · subst e; exact hg u hu
  · subst e; exact hg _ (State.drain_only u (Fits.trans (by decide +kernel) hK) hF hu)

theorem Ends.inTurn {K : List Part} {F : FieldId → Prop} {P : PlotId → Prop} {s0 : State} {α : Type} {g : State → α → Result} {l : List α} {s : State}
    (hK : Fits recordParts K) (hF : ∀ f, F f) (hg : ∀ t a, Only K F P s0 t → Ends K F P s0 (g t a)) (ho : Only K F P s0 s) :
    Ends K F P s0 (inTurn g l s) := by
  induction l generalizing s with
  | nil => exact .next ho
  | cons a l ih => exact .andThen hK hF (hg s a ho) (fun t ht => ih ht)

theorem State.drainFar {K : List Part} {F : FieldId → Prop} {P : PlotId → Prop} {s0 : State} (u : State) (hK : Fits (recordParts.map Part.afar) K) (h : Only K F P s0 u) :
    Only K F P s0 u.drain :=
  h.trans (Only.far (State.drain_only (K := recordParts) u (by decide +kernel) (fun _ => trivial) (Only.refl _ _ _ _)) hK)

theorem Ends.andThenFar {K : List Part} {F : FieldId → Prop} {P : PlotId → Prop} {s0 : State} {r : Result} {g : State → Result}
    (hK : Fits (recordParts.map Part.afar) K) (h : Ends K F P s0 r) (hg : ∀ t, Only K F P s0 t → Ends K F P s0 (g t)) :
    Ends K F P s0 (Sys2Proof.Machine.andThen r g) := by
  obtain ⟨u, e | e, hu⟩ := h
  · subst e; exact hg u hu
  · subst e; exact hg _ (State.drainFar u hK hu)

theorem Ends.inTurnFar {K : List Part} {F : FieldId → Prop} {P : PlotId → Prop} {s0 : State} {α : Type} {g : State → α → Result} {l : List α} {s : State}
    (hK : Fits (recordParts.map Part.afar) K) (hg : ∀ t a, Only K F P s0 t → Ends K F P s0 (g t a)) (ho : Only K F P s0 s) :
    Ends K F P s0 (Sys2Proof.Machine.inTurn g l s) := by
  induction l generalizing s with
  | nil => exact .next ho
  | cons a l ih => exact .andThenFar hK (hg s a ho) (fun t ht => ih ht)

theorem State.laneIn_only {K : List Part} {F : FieldId → Prop} {P : PlotId → Prop} {s0 : State} (s : State) (f : FieldId) (n : PortId) (ty arg : Nat) (hK : Fits (([.events, .out, .reg Reg.HDL_CAL_STAT.ABORTED, .reg Reg.HDL_CAL_STAT.SLOTS, .reg Reg.HDL_LANE_POWER.FAR_PWR, .reg Reg.HDL_PORT_STATUS.LIGHT_PAUSE, .reg Reg.HDL_PORT_STATUS.RX_MODE, .reg Reg.HDL_PORT_STATUS.TX_MODE, .reg Reg.INJ_PT.ARM, .reg Reg.INJ_PT.DONE, .reg Reg.RTE_COMB_STAT.MERGED, .reg Reg.RTE_COMB_STAT.PEAK, .reg Reg.RTE_DISC_STATUS.OUTCOME, .reg Reg.RTE_DISC_STATUS.SEEN_NODE, .reg Reg.RTE_DISC_STATUS.SEEN_PORT, .reg Reg.RTE_DISC_STATUS.SEEN_SERIAL] : List Part) ++ ([.reg Reg.RTE_LINK_CNT.LOST, .reg Reg.RTE_LINK_CNT.NAKS, .reg Reg.RTE_LINK_CNT.PROTO_ERR, .reg Reg.RTE_LINK_CNT.REPLAYED, .reg Reg.RTE_LINK_CNT.RETRAINS, .reg Reg.RTE_LINK_CNT.TX_FLITS, .reg Reg.RTE_LINK_CREDIT.RES, .reg Reg.RTE_LINK_CREDIT.SHARED, .reg Reg.RTE_LINK_STATUS.FAR_READY, .reg Reg.RTE_LINK_STATUS.PRESERVED, .reg Reg.RTE_LINK_STATUS.RESULT, .reg Reg.RTE_LINK_STATUS.STATE, .reg Reg.RTE_QUAL_RESULT.RX_PASS, .reg Reg.RTE_QUAL_RESULT.TX_PASS, .reg Reg.RTE_QUAL_RESULT.WORST, .reg Reg.RTE_QUAL_RESULT.WORST_E] : List Part) ++ ([.lastRaise, .ports, .router, .health, .tally] : List Part)) K) (hF : F f)
    (ho : Only K F P s0 s) : Ends K F P s0 (State.laneIn s f n ty arg) := by
  unfold State.laneIn
  repeat' first | with_reducible assumption | exact Fits.trans (by decide +kernel) hK | exact hF | with_reducible apply execMapChange_only | with_reducible apply execModeChange_only | with_reducible apply execCal_only | with_reducible apply execCalDone_only | with_reducible apply execLaneFailed_only | with_reducible apply execLightPause_only | with_reducible apply execPowerReport_only | with_reducible apply execBeacon_only | with_reducible apply execTrain_only | with_reducible apply execQualResult_only | with_reducible apply execRetrain_only | with_reducible apply State.protoErr_only | with_reducible apply Ends.finish | with_reducible apply Ends.next | with_reducible apply Only.ite | with_reducible apply Ends.ite | dsimp only | split | (with_reducible refine Only.fst (by with_reducible assumption) ?_) | (with_reducible refine Only.snd (by with_reducible assumption) ?_)

theorem State.fecPoint_only {K : List Part} {F : FieldId → Prop} {P : PlotId → Prop} {s0 : State} (s : State) (f : FieldId) (n : PortId) (codewords : List (Nat × List Nat)) (hK : Fits ([.free, .reg Reg.INJ_PT.ARM, .reg Reg.INJ_PT.DONE, .health] : List Part) K) (hF : F f)
    (ho : Only K F P s0 s) : Only K F P s0 (State.fecPoint s f n codewords).1 := by
  unfold State.fecPoint
  repeat' first | with_reducible assumption | exact Fits.trans (by decide +kernel) hK | exact hF | with_reducible apply State.draw_only | with_reducible apply State.healthInput_only | with_reducible apply State.injFire_only | with_reducible apply Only.ite | dsimp only | split | (with_reducible refine Only.fst (by with_reducible assumption) ?_) | (with_reducible refine Only.snd (by with_reducible assumption) ?_)

theorem State.heardCount_only {K : List Part} {F : FieldId → Prop} {P : PlotId → Prop} {s0 : State} (s : State) (f : FieldId) (n : PortId) (x : Heard) (hK : Fits (([.events, .out, .reg Reg.HDL_PORT_STATUS.TX_MODE, .reg Reg.INJ_PT.ARM, .reg Reg.INJ_PT.DONE, .reg Reg.RTE_COMB_STAT.MERGED, .reg Reg.RTE_COMB_STAT.PEAK, .reg Reg.RTE_LANE_FEC.CORR, .reg Reg.RTE_LANE_FEC.UNCORR, .reg Reg.RTE_LINK_CNT.LOST, .reg Reg.RTE_LINK_CNT.NAKS, .reg Reg.RTE_LINK_CNT.REPLAYED, .reg Reg.RTE_LINK_CNT.RETRAINS, .reg Reg.RTE_LINK_CNT.TX_FLITS, .reg Reg.RTE_LINK_CREDIT.RES, .reg Reg.RTE_LINK_CREDIT.SHARED] : List Part) ++ ([.reg Reg.RTE_LINK_STATUS.PRESERVED, .reg Reg.RTE_LINK_STATUS.RESULT, .reg Reg.RTE_LINK_STATUS.STATE, .reg Reg.RTE_QUAL_RESULT.RX_PASS, .reg Reg.RTE_QUAL_RESULT.TX_PASS, .reg Reg.RTE_QUAL_RESULT.WORST, .reg Reg.RTE_QUAL_RESULT.WORST_E, .ports, .router, .health, .tally] : List Part)) K) (hF : F f)
    (ho : Only K F P s0 s) : Only K F P s0 (State.heardCount s f n x) := by
  unfold State.heardCount
  repeat' first | with_reducible assumption | exact Fits.trans (by decide +kernel) hK | exact hF | with_reducible apply State.fecCount_only | with_reducible apply State.qualCount_only | with_reducible apply State.qualWave_only | with_reducible apply Only.ite | dsimp only | split | (with_reducible refine Only.fst (by with_reducible assumption) ?_) | (with_reducible refine Only.snd (by with_reducible assumption) ?_)

theorem State.flitIn_only {K : List Part} {F : FieldId → Prop} {P : PlotId → Prop} {s0 : State} (f : FieldId) (n : PortId) (s : State) (bs : List Byte) (hK : Fits ([.events, .reg Reg.RTE_LINK_CNT.CRC_ERR, .reg Reg.RTE_LINK_CNT.PROTO_ERR, .reg Reg.RTE_LINK_CNT.RX_FLITS, .reg Reg.RTE_LINK_CREDIT.RES, .reg Reg.RTE_LINK_CREDIT.SHARED, .lastRaise, .ports] : List Part) K) (hF : F f)
    (ho : Only K F P s0 s) : Ends K F P s0 (State.flitIn f n s bs) := by
  unfold State.flitIn
  repeat' first | with_reducible assumption | exact Fits.trans (by decide +kernel) hK | exact hF | with_reducible apply execIdleFlit_only | with_reducible apply execNakFlit_only | with_reducible apply execDataFlit_only | with_reducible apply Ends.finish | with_reducible apply Ends.next | with_reducible apply Only.ite | with_reducible apply Ends.ite | dsimp only | split | (with_reducible refine Only.fst (by with_reducible assumption) ?_) | (with_reducible refine Only.snd (by with_reducible assumption) ?_)

theorem State.switchIn_only {K : List Part} {F : FieldId → Prop} {P : PlotId → Prop} {s0 : State} (s : State) (f : FieldId) (n : PortId) (hK : Fits (([.events, .out, .reg Reg.HDL_PORT_STATUS.RX_MODE, .reg Reg.INJ_PT.ARM, .reg Reg.INJ_PT.DONE, .reg Reg.RTE_COMB_STAT.MERGED, .reg Reg.RTE_COMB_STAT.PEAK, .reg Reg.RTE_LINK_CNT.LOST, .reg Reg.RTE_LINK_CNT.NAKS, .reg Reg.RTE_LINK_CNT.PROTO_ERR, .reg Reg.RTE_LINK_CNT.REPLAYED, .reg Reg.RTE_LINK_CNT.RETRAINS, .reg Reg.RTE_LINK_CNT.TX_FLITS, .reg Reg.RTE_LINK_CREDIT.RES, .reg Reg.RTE_LINK_CREDIT.SHARED, .reg Reg.RTE_LINK_STATUS.PRESERVED] : List Part) ++ ([.reg Reg.RTE_LINK_STATUS.RESULT, .reg Reg.RTE_LINK_STATUS.STATE, .lastRaise, .ports, .router, .tally] : List Part)) K) (hF : F f)
    (ho : Only K F P s0 s) : Ends K F P s0 (State.switchIn s f n) := by
  unfold State.switchIn
  repeat' first | with_reducible assumption | exact Fits.trans (by decide +kernel) hK | exact hF | with_reducible apply State.linkDesync_only | with_reducible apply State.laneCheck_only | with_reducible apply State.setRx_only | with_reducible apply State.updPort_only | with_reducible apply State.fset_only | with_reducible apply Ends.finish | with_reducible apply Ends.next | with_reducible apply Only.ite | with_reducible apply Ends.ite | dsimp only | split | (with_reducible refine Only.fst (by with_reducible assumption) ?_) | (with_reducible refine Only.snd (by with_reducible assumption) ?_)

theorem State.groupIn_only {K : List Part} {F : FieldId → Prop} {P : PlotId → Prop} {s0 : State} (s0' : State) (f : FieldId) (n : PortId) (received : List (Nat × List Nat)) (hK : Fits (([.free, .events, .out, .sram, .hubReg Reg.HUB_EVT_IDX.LOST, .hubReg Reg.HUB_EVT_IDX.PROD, .msix, .yarzin, .reg Reg.HDL_CAL_STAT.ABORTED, .reg Reg.HDL_CAL_STAT.SLOTS, .reg Reg.HDL_LANE_POWER.FAR_PWR, .reg Reg.HDL_PORT_STATUS.LIGHT_PAUSE, .reg Reg.HDL_PORT_STATUS.RX_MODE, .reg Reg.HDL_PORT_STATUS.TX_MODE, .reg Reg.INJ_PT.ARM, .reg Reg.INJ_PT.DONE] : List Part) ++ ([.reg Reg.RTE_COMB_STAT.MERGED, .reg Reg.RTE_COMB_STAT.PEAK, .reg Reg.RTE_DISC_STATUS.OUTCOME, .reg Reg.RTE_DISC_STATUS.SEEN_NODE, .reg Reg.RTE_DISC_STATUS.SEEN_PORT, .reg Reg.RTE_DISC_STATUS.SEEN_SERIAL, .reg Reg.RTE_LANE_FEC.CORR, .reg Reg.RTE_LANE_FEC.UNCORR, .reg Reg.RTE_LINK_CNT.CRC_ERR, .reg Reg.RTE_LINK_CNT.LOST, .reg Reg.RTE_LINK_CNT.NAKS, .reg Reg.RTE_LINK_CNT.PROTO_ERR, .reg Reg.RTE_LINK_CNT.REPLAYED, .reg Reg.RTE_LINK_CNT.RETRAINS, .reg Reg.RTE_LINK_CNT.RX_FLITS, .reg Reg.RTE_LINK_CNT.TX_FLITS] : List Part) ++ ([.reg Reg.RTE_LINK_CREDIT.RES, .reg Reg.RTE_LINK_CREDIT.SHARED, .reg Reg.RTE_LINK_STATUS.FAR_READY, .reg Reg.RTE_LINK_STATUS.PRESERVED, .reg Reg.RTE_LINK_STATUS.RESULT, .reg Reg.RTE_LINK_STATUS.STATE, .reg Reg.RTE_QUAL_RESULT.RX_PASS, .reg Reg.RTE_QUAL_RESULT.TX_PASS, .reg Reg.RTE_QUAL_RESULT.WORST, .reg Reg.RTE_QUAL_RESULT.WORST_E, .lastRaise, .ports, .router, .health, .tally, .far .hbm] : List Part) ++ ([.far .hbmErr, .far (.reg Reg.FLD_EVT_IDX.LOST), .far (.reg Reg.FLD_EVT_IDX.PROD), .far (.reg Reg.GWY_STAT.ABSORBED), .far (.reg Reg.INJ_PT.ARM), .far (.reg Reg.INJ_PT.DONE), .far (.reg Reg.MEM_ECC_STAT.CORRECTED), .far (.reg Reg.MEM_ECC_STAT.LAST_ADDR), .far (.reg Reg.MEM_ECC_STAT.POISON_WRITES), .far (.reg Reg.MEM_ECC_STAT.UNCORRECTED), .far (.reg Reg.MEM_REPAIR_ENTRY.BANK), .far (.reg Reg.MEM_REPAIR_ENTRY.CHANNEL), .far (.reg Reg.MEM_REPAIR_ENTRY.PCH), .far (.reg Reg.MEM_REPAIR_ENTRY.REASON), .far (.reg Reg.MEM_REPAIR_ENTRY.RESULT), .far (.reg Reg.MEM_REPAIR_ENTRY.ROW)] : List Part) ++ ([.far (.reg Reg.MEM_REPAIR_ENTRY.STACK), .far (.reg Reg.MEM_REPAIR_ENTRY.VALID), .far .memu, .far .health, .far .forward] : List Part)) K) (hF : F f)
    (ho : Only K F P s0 s0') : Ends K F P s0 (State.groupIn s0' f n received) := by
  unfold State.groupIn
  repeat' first | with_reducible assumption | exact Fits.trans (by decide +kernel) hK | exact hF | with_reducible apply State.fecPoint_only | with_reducible apply State.updPort_only | with_reducible apply State.heardCount_only | with_reducible refine Ends.andThenFar ?_ ?_ (fun t ht => ?_) | with_reducible refine Ends.inTurnFar ?_ (fun t a ht => ?_) ?_ | with_reducible apply State.flitIn_only | with_reducible apply State.laneIn_only | with_reducible apply State.switchIn_only | with_reducible apply Ends.finish | with_reducible apply Ends.next | with_reducible apply Only.ite | with_reducible apply Ends.ite | dsimp only | split | (with_reducible refine Only.foldl _ _ (fun t a ht => ?_) ?_) | (with_reducible refine Only.foldl_fst _ _ _ (fun t a ht => ?_) ?_) | (with_reducible refine Only.fst (by with_reducible assumption) ?_) | (with_reducible refine Only.snd (by with_reducible assumption) ?_)

theorem execSwitchGroup_only {K : List Part} {F : FieldId → Prop} {P : PlotId → Prop} {s0 : State} (f : FieldId) (rx : PortId × List (Nat × List Nat)) (s : State) (hK : Fits (([.free, .events, .out, .sram, .hubReg Reg.HUB_EVT_IDX.LOST, .hubReg Reg.HUB_EVT_IDX.PROD, .msix, .yarzin, .reg Reg.HDL_CAL_STAT.ABORTED, .reg Reg.HDL_CAL_STAT.SLOTS, .reg Reg.HDL_LANE_POWER.FAR_PWR, .reg Reg.HDL_PORT_STATUS.LIGHT_PAUSE, .reg Reg.HDL_PORT_STATUS.RX_MODE, .reg Reg.HDL_PORT_STATUS.TX_MODE, .reg Reg.INJ_PT.ARM, .reg Reg.INJ_PT.DONE] : List Part) ++ ([.reg Reg.RTE_COMB_STAT.MERGED, .reg Reg.RTE_COMB_STAT.PEAK, .reg Reg.RTE_DISC_STATUS.OUTCOME, .reg Reg.RTE_DISC_STATUS.SEEN_NODE, .reg Reg.RTE_DISC_STATUS.SEEN_PORT, .reg Reg.RTE_DISC_STATUS.SEEN_SERIAL, .reg Reg.RTE_LANE_FEC.CORR, .reg Reg.RTE_LANE_FEC.UNCORR, .reg Reg.RTE_LINK_CNT.CRC_ERR, .reg Reg.RTE_LINK_CNT.LOST, .reg Reg.RTE_LINK_CNT.NAKS, .reg Reg.RTE_LINK_CNT.PROTO_ERR, .reg Reg.RTE_LINK_CNT.REPLAYED, .reg Reg.RTE_LINK_CNT.RETRAINS, .reg Reg.RTE_LINK_CNT.RX_FLITS, .reg Reg.RTE_LINK_CNT.TX_FLITS] : List Part) ++ ([.reg Reg.RTE_LINK_CREDIT.RES, .reg Reg.RTE_LINK_CREDIT.SHARED, .reg Reg.RTE_LINK_STATUS.FAR_READY, .reg Reg.RTE_LINK_STATUS.PRESERVED, .reg Reg.RTE_LINK_STATUS.RESULT, .reg Reg.RTE_LINK_STATUS.STATE, .reg Reg.RTE_QUAL_RESULT.RX_PASS, .reg Reg.RTE_QUAL_RESULT.TX_PASS, .reg Reg.RTE_QUAL_RESULT.WORST, .reg Reg.RTE_QUAL_RESULT.WORST_E, .lastRaise, .ports, .router, .health, .tally, .far .hbm] : List Part) ++ ([.far .hbmErr, .far (.reg Reg.FLD_EVT_IDX.LOST), .far (.reg Reg.FLD_EVT_IDX.PROD), .far (.reg Reg.GWY_STAT.ABSORBED), .far (.reg Reg.INJ_PT.ARM), .far (.reg Reg.INJ_PT.DONE), .far (.reg Reg.MEM_ECC_STAT.CORRECTED), .far (.reg Reg.MEM_ECC_STAT.LAST_ADDR), .far (.reg Reg.MEM_ECC_STAT.POISON_WRITES), .far (.reg Reg.MEM_ECC_STAT.UNCORRECTED), .far (.reg Reg.MEM_REPAIR_ENTRY.BANK), .far (.reg Reg.MEM_REPAIR_ENTRY.CHANNEL), .far (.reg Reg.MEM_REPAIR_ENTRY.PCH), .far (.reg Reg.MEM_REPAIR_ENTRY.REASON), .far (.reg Reg.MEM_REPAIR_ENTRY.RESULT), .far (.reg Reg.MEM_REPAIR_ENTRY.ROW)] : List Part) ++ ([.far (.reg Reg.MEM_REPAIR_ENTRY.STACK), .far (.reg Reg.MEM_REPAIR_ENTRY.VALID), .far .memu, .far .health, .far .forward] : List Part)) K) (hF : F f)
    (ho : Only K F P s0 s) : Ends K F P s0 (execSwitchGroup f rx s) := by
  unfold execSwitchGroup
  repeat' first | with_reducible assumption | exact Fits.trans (by decide +kernel) hK | exact hF | with_reducible apply Ends.inRim | with_reducible apply State.switchIn_only | with_reducible apply State.groupIn_only | with_reducible apply Ends.finish | with_reducible apply Ends.next | with_reducible apply Only.ite | with_reducible apply Ends.ite | dsimp only | split | (with_reducible refine Only.fst (by with_reducible assumption) ?_) | (with_reducible refine Only.snd (by with_reducible assumption) ?_)

end Sys2Proof.Machine
end

