-- ==== Sys2Proof/Tests/Slice0.lean ====
section
/-! SUPPORT. Tests: terms the well-formedness checks refuse, cases worked out by hand from the spec, and a witness for every
clause of the statements that has hypotheses. -/

namespace Sys2Proof.Tests

set_option Elab.async false

open Sys2Proof Sys2Proof.Machine

/-- An entry of a plot's queue. -/
def entry (qsn : Nat) (op : QOp) (ph : QPhase) : QEntry where
  qsn := qsn
  tag := 0
  int := false
  op := op
  seed := 0
  step := 0
  drift := 0
  claims := []
  phase := ph
  classSeen := 0
  uncorrected := false
  binPoisoned := false
  modeNA := false
  injClass := 0
  mism := []
  clean := []
  badRows := []
  mismInjected := false
  passNo := 0
  issued := 0
  outstanding := []
  fails := []
  fenceStatus := 0

/-- Field 0 in service, with a queue in plot 0, whose tines are awake. -/
def withQueue (l : List QEntry) : State :=
  (State.reset.hset Reg.HUB_FIELD_STATE.STATE svcReady 0 0).updPlot 0 0 (fun P => { P with queue := l, tine := { P.tine with dormant := false } })

/-- Descriptor of a FRESH pass of M = N = K = 1, both operands E4M3. -/
def tmmOne : Nat := 1 * 2 ^ 192 + 1 * 2 ^ 208 + 1 * 2 ^ 216 + 3 * 2 ^ 224 + 3 * 2 ^ 232 + 2 * 2 ^ 256
/-- Descriptor of a pass with no rows. -/
def tmmNone : Nat := 0

/-- Field 0 in service, the drill of its plot 0 running at pc a. -/
def running (a : Nat) : State :=
  (withQueue []).updPlot 0 0 (fun P => { P with drill := { P.drill with st := .running, pc := a } })

/-- The same, with a halfword h at pc 0 and at 2 in the fetch buffer. -/
def fetched (h : Nat) : State :=
  (running 0).updPlot 0 0 (fun P => { P with drill := { P.drill with fetchBase := 0, fetchBuf := [(0, h), (2, h)] } })

/-- A get of line 0 of field 0's own HBM, under way. -/
def ownLine : XLine where
  qsn := 0
  line := 0
  op := 1
  dst := 0
  addr := 0
  loc := 0
  typ := 0
  operand := 0
  mask := 0
  axis := 0
  data := []
  poisoned := false
  gone := false

/-- Descriptor of a get of one line. -/
def xferOne : Nat := 1 + 128 * 2 ^ 128 + 2 ^ 160

/-- Port 0 of field 0 lit and ACTIVE, calibration enabled; the host port open and in WIDTH 8. -/
def lit : State :=
  ((((((State.reset.fset 0 Reg.HDL_CAL_CTL.ENABLE 1).fset 0 Reg.HDL_PORT_CTL.CAL_EN 1).fset 0 Reg.RTE_LINK_STATUS.STATE lsActive).fset 0
    Reg.HDL_ENGINE_STATUS.DARK 0).updPort 0 0 (fun P => { P with shutter := true })).hset Reg.HUB_HOST_PHY_CTL.CAL_EN 1).updLight
    (fun L => { L with hostOpen := true })

/-- The same, with a calibration slot or a retry of wavelength 0 at both ends. -/
def slotOn (retry : Bool) : State :=
  ((lit.updPort 0 0 (fun P => { P with
    tx := { P.tx with cal := some ⟨0, none, none, retry⟩ }, rx := { P.rx with cal := some 0 } })).setHostTx
    { lit.hub.hostTx with cal := some ⟨0, none, none, retry⟩ })

/-- A flit of VC0 with SEQ 0 and no payload but len bytes of zero. -/
def flit0 (len : Nat) : Flit := ⟨0, 0x3FFF, 0, false, 0, false, 0, 0, len, [], 0⟩

/-- The same, with the CRC it should carry. -/
def flitGood (ty len : Nat) : Flit := { flit0 len with crc := flitCrc ty (flit0 len) }

theorem flitCrc_crc (ty : Nat) (x : Flit) (c : Nat) : flitCrc ty { x with crc := c } = flitCrc ty x := by
  simp only [flitCrc, flitBody, flitWord]

theorem flitGood_crc (ty len : Nat) : (flitGood ty len).crc = flitCrc ty (flitGood ty len) :=
  (flitCrc_crc ty (flit0 len) _).symm

/-- A flit whose CRC is not the one it should carry. -/
def flitWrong (ty : Nat) : Flit := { flit0 0 with crc := flitCrc ty (flit0 0) + 1 }

theorem flitWrong_crc (ty : Nat) : (flitWrong ty).crc ≠ flitCrc ty (flitWrong ty) := by
  rw [flitWrong, flitCrc_crc]
  exact Nat.succ_ne_self _

/-- A packet of a kind from node 1 to field 0, with TYPE 0, of so many bytes beyond the header. -/
def pktOf (kind len : Nat) : Packet where
  dst := State.reset.node 0
  src := 1
  allot := 0
  cls := 3
  stage := 0
  exit := 0
  exitV := false
  mcast := false
  maxis := 0
  key := 0
  body := rhBytes (rhKind kind) ++ List.replicate len 0

/-- The packet waits at field 0's router. -/
def recv (p : Packet) : State := State.reset.updRouter 0 (fun R => { R with inbox := [p] })

/-- A line of the gateway of a kind to node 1, sent, and answered by transaction 0. -/
def gwLine (kind : Nat) : GwLine where
  id := 0
  kind := kind
  cls := 3
  dst := 1
  addr := 0
  typ := 0
  operand := 0
  data := []
  poisoned := false
  maxis := 0
  mask := 0
  owner := .none
  seq := 0
  fepoch := 0
  opens := false
  sent := true
  resends := 0
  defers := 0
  deferred := false
  delay := 0
  lost := false
  due := []
  fails := []

theorem arrives {s : State} {f : FieldId} {k : Nat} {p : Packet} (h : (s.arrival f k p).2 = true) :
    s.arrival f k p = ((s.arrival f k p).1, true) := Prod.ext rfl h

/-- The same, with what is done next on the state after it. -/
theorem arrivesThen {s : State} {f : FieldId} {k : Nat} {p : Packet} (g : State → State × Nat)
    (h : (s.arrival f k p).2 = true) : ∃ t r st, s.arrival f k p = (t, true) ∧ g t = (r, st) :=
  ⟨_, _, _, arrives h, rfl⟩

/-- A pair from its second part. -/
theorem pairOf {α β : Type} {x : α × β} {b : β} (h : x.2 = b) : x = (x.1, b) := Prod.ext rfl h

/-- The same, with a line of the gateway. -/
def awaiting (kind : Nat) (p : Packet) : State := (recv p).updGw 0 (fun G => { G with lines := [gwLine kind] })

/-- A package alone on every axis, whose die-to-die routes are set in the staging bank of field 0. -/
def planned : State :=
  let s := (((State.reset.fset 0 Reg.RTE_PLAN_HDR.SIZE_U 1).fset 0 Reg.RTE_PLAN_HDR.SIZE_V 1).fset 0 Reg.RTE_PLAN_HDR.SIZE_W 1).hset
    Reg.HUB_PKG_COORD.VALID 1
  let t := ([1, 2, 3] : List FieldId).foldl (fun t g =>
    let hops := (d2dWalks 0 g).map (fun w => ((w[1]?).getD 0).val)
    ((t.fset 0 Reg.RTE_TBL_F.VALID 1 g).fset 0 Reg.RTE_TBL_F.NEXT (hops.getD 0 0) g).fset 0 Reg.RTE_TBL_F.ALT (hops.getD 1 0) g) s
  t.fset 0 Reg.RTE_VC_WEIGHT.VC0_DIV 25

/-- A sheaf packet of a kind to field 0 from node 1: group 1, part 0 of chunk 0 with n blocks. -/
def shfPkt (kind n : Nat) (payload : List Byte) : Packet :=
  { pktOf 0 0 with
    cls := 1,
    body := leBytes 2 1 ++ leBytes 2 0 ++ leBytes 4 0 ++ leBytes 1 kind ++ leBytes 1 0 ++ leBytes 2 0 ++ leBytes 4 0 ++
      leBytes 7 0 ++ leBytes 1 n ++ leBytes 8 0 ++ payload }

/-- The descriptor of a sum of 32 elements of one byte. -/
def sumOne : List Byte := leBytes 1 1 ++ leBytes 1 3 ++ leBytes 1 3 ++ leBytes 5 0 ++ leBytes 8 32 ++ leBytes 8 0 ++ leBytes 8 4096 ++ leBytes 32 0

/-- A collective in progress, its digests matched, with one part sent. -/
def collOne : ShfColl where
  seq := 0
  desc := sumOne
  seed := 0
  step := 0
  digest := 0
  tIssue := 0
  ready := 0
  matched := true
  silent := false
  digests := []
  last := []
  arrs := []
  ptr := []
  spent := []
  pieces := []
  results := []
  folded := []
  out := [⟨1, skPiece, 0, 0, 0, 0, 1, [], 0⟩]
  got := []
  written := 0
  cls := 0

/-- A group of nodes 0 and 1, with the collective c in progress or none. -/
def groupOne (c : Option ShfColl) (mem : List Nat) : ShfSlot where
  group := 1
  epoch := 0
  credits := 4
  ringLog := 4
  ring := 0
  tailAddr := 0
  scratch := 0
  scratchReq := 0
  timeout := 0
  members := mem
  hset := [1]
  mapDigest := 0
  halted := false
  tail := 1
  next := 0
  early := []
  aborts := []
  coll := c

/-- Field 0 has the group in slot 0, and the packet waits at its router. -/
def inGroup (c : Option ShfColl) (mem : List Nat) (p : Packet) : State :=
  (recv p).updShf 0 (fun U => { U with slots := [(0, groupOne c mem)] })

/-- The bytes in field 0's HBM from an address on. -/
def withHbm (s : State) (a : Nat) (b : List Byte) : State :=
  s.updMem (fun m => { m with hbm := m.hbm.set 0 (Mem.write m.hbm[0] a b) })

/-- A registration descriptor of group 1 with node 0 its only member, its member map at 4,096. -/
def regDesc : List Byte :=
  leBytes 2 1 ++ leBytes 2 0 ++ leBytes 2 4 ++ leBytes 1 4 ++ leBytes 1 0 ++ leBytes 8 4096 ++ leBytes 8 0 ++ leBytes 8 0 ++
    leBytes 8 0 ++ leBytes 8 1048576 ++ leBytes 4 1 ++ leBytes 12 0

/-- Field 0 has a registration of that group in slot 0 under way. -/
def registering : State := (withHbm (withHbm planned 0 regDesc) 4096 [1]).shfRegister 0 0 0

theorem registering_checks :
    ((registering.updShf 0 (fun U => { U with regs := U.regs.erase (0, 0) })).shfCheck 0 0 0).2.isSome = true := by decide +kernel

/-- The rim of field 0 in service. -/
def rimOn : State := State.reset.hset Reg.HUB_FIELD_STATE.STATE svcReady 0 0

/-- A beacon of a rank-0 root two links away, for field 0. -/
def beaconPkt : Packet :=
  { pktOf 0 0 with
    allot := mgmtAllot,
    cls := 0,
    body := leBytes 1 0x20 ++ leBytes 1 4 ++ leBytes 1 2 ++ List.replicate 61 0 }

/-- A seed image of one DRILL_IMAGE record, of image 0 without blocks, and a SIGNATURE record of zeros. -/
def smallImage : List Byte :=
  leBytes 4 0x36395447 ++ leBytes 2 1 ++ leBytes 2 0 ++ leBytes 4 280 ++ leBytes 4 2 ++ leBytes 48 0 ++
    leBytes 2 recDrillImage ++ leBytes 2 0 ++ leBytes 4 8 ++ leBytes 8 0 ++ leBytes 2 recSignature ++ leBytes 2 0 ++ leBytes 4 192 ++
    leBytes 192 0

/-- The injection lock is open. -/
def injOpened : State := State.reset.hset Reg.HUB_INJ_STATUS.OPEN 1

/-- The injection lock is open, and every point of field 0 and of the hub can fire at target 0. -/
def injectable : State :=
  (((((((((lit.hset Reg.HUB_INJ_STATUS.OPEN 1).hset Reg.HUB_FIELD_STATE.STATE svcReady 0 0).updPort 0 0 (fun P => { P with lock := 1 })).updShf 0
    (fun U => { U with slots := [(0, groupOne none [])] })).updSlot 0 0 (fun z => { z with on := true })).updMirSrc 0
    (fun m => { m with on := true })).fset 0 Reg.TLY_STATUS.STATE tsRoot).hset Reg.THM_PIN_CFG.ROLE 1 0).hset Reg.HDL_MODULE.PRESENT 1 0)
/-- An event without payload, of the hub or a field. -/
def event0 (src : Option FieldId) : RaisedEvent := ⟨src, Ev.HUB_RESET.num, Ev.HUB_RESET.hubCls, [], false⟩

/-- A state in which that event alone waits to be recorded. -/
def raised (s : State) (src : Option FieldId) : State := { s with events := [event0 src] }

/-- Line 0 of field 0's HBM is resident in the absorber. -/
def absorbed : State := rimOn.updMemu 0 (fun m => { m with absorber := [⟨0, List.replicate 128 7, false, false⟩] })

/-- Descriptor of the same pass as a KEEP pass. -/
def tmmKeep : Nat := tmmOne - 2 * 2 ^ 256

/-- Descriptor of an OVERWRITE pass with K = 0. -/
def tmmZero : Nat := 1 * 2 ^ 192 + 1 * 2 ^ 208 + 1 * 2 ^ 256

/-- A claim of bytes 0 to 63 to write. -/
def someClaim : Claim := ⟨true, 0, 0⟩

/-- A claim of the first line of bins to write. -/
def binClaim : Claim := ⟨true, 0x400000 / 128, 0x400000 / 128⟩

/-- A drift table of 1,024 records. -/
def fullTable : SMap DriftRec := (List.range driftSize).map (fun k => (k, DriftRec.zero))

/-- Descriptor of a transfer of one line with an operation. -/
def xferOp (op : Nat) : Nat := xferOne - 1 + op

/-- Field 0 dark, with a transfer under way. -/
def darkField : State := (withQueue [entry 1 (.txfer xferOne) .running]).hset Reg.HUB_FIELD_STATE.STATE svcDark 0 0

/-- Every slot of field 0 is fallow. -/
def vacantPlot : State := (withQueue []).fset 0 Reg.FLD_FALLOW_RUN.RUN (2 ^ 324 - 1)

/-- Field 0's mailbox slot holds a notice of Yarzin, claimed. -/
def claimedSlot : State := rimOn.setSlot (.fld 0) (.claimed (.yzr 0) true 4096 7 0)

/-- The same, delivered. -/
def deliveredSlot : State := (rimOn.setSlot (.fld 0) (.delivered (.yzr 0) true)).mbxSet (.fld 0) .inFull 1

/-- Half-line 0 of field 0's HBM has an error of a kind. -/
def hbmError (e : Nat) : State := rimOn.updMem (fun m => m.setHbmErr 0 0 e)

/-- A write of line 0 waits. -/
def heldOne : HeldWrite := ⟨0, [(3, [1, 2])], false, 0⟩

/-- Wavelength 0 of port 0 of field 0, and of the host port, failed and may be retried. -/
def failedLane : State :=
  ((lit.updPort 0 0 (fun P => { P with tx := { P.tx with failed := 1 }, rx := { P.rx with failed := 1 } })).setHostTx
    { lit.hub.hostTx with failed := 1 }).hset Reg.HUB_FIELD_STATE.STATE svcReady 0 0

/-- The same rim, dark. -/
def darkRim : State := lit.hset Reg.HUB_FIELD_STATE.STATE svcDark 0 0

/-- A slot of wavelength 0 that moved slot 0 onto wavelength 15. -/
def slot15 (r : Bool) : CalSlot := ⟨0, none, none, r⟩

/-- Every rim in service is in hub-lost operation. -/
def allLost : State := allFields.foldl (fun t f => t.updField f (fun F => { F with hubLost := true })) State.reset

/-- An injection point of the modules is armed for module 0. -/
def hubInjected (point arg : Nat) : State :=
  (((State.reset.hset Reg.INJ_HPT.ARM 1 1).hset Reg.INJ_HPT.POINT point 1).hset Reg.INJ_HPT.TARGET 0 1).hset Reg.INJ_HPT.ARG arg 1

/-- Port 0 is ACTIVE on inlets of both modules, and the far end receives little light. -/
def faint : State :=
  (((lit.fset 0 Reg.HDL_ENGINE_STATUS.INLET_A_OK 1).fset 0 Reg.HDL_ENGINE_STATUS.INLET_B_OK 1).hset Reg.HDL_LIGHT_CTL.FALLBACK_AUTO 1).fset 0
    Reg.HDL_LANE_POWER.FAR_PWR 0xB9 0 0

/-- A switchover of the host engine to module A. -/
def hostSwitch : SwReq := ⟨16, 0, false, false, false, false, false⟩

/-- It is next in the run, and module A lights the inlet. -/
def switching : State := (State.reset.hset Reg.HDL_HOST_ENGINE.INLET_A_OK 1).updLight (fun L => { L with run := [hostSwitch] })

/-- What the light sequence meets: both modules answer, no light reaches an inlet. -/
def envOne (laser pgood : Bool) : LightEnv := ⟨laser, pgood, [some 0, some 1], [], []⟩

/-- The host-light step is behind the hub. -/
def awake : State := State.reset.updLight (fun L => { L with awake := true })

/-- Field 0 is at action 13 of its mark, and a switchover of its engine 0 is due. -/
def atThirteen : State :=
  (State.reset.updLight (fun L => { L with queue := [⟨0, 1, true, false, false, false, true⟩, hostSwitch] })).updField 0
    (fun F => { F with tally := { F.tally with todo := [13, 14] } })

/-- Port 0 of field 0 lit, in a state of the link. -/
def linkIn (st : Nat) : State := lit.fset 0 Reg.RTE_LINK_STATUS.STATE st

/-- Three parts of a beacon of zeros received. -/
def parts3 (s : State) : State := s.updPort 0 0 (fun P => { P with parts := [(0, 0), (1, 1), (2, 2)] })

/-- The same beacon received whole before. -/
def wholeOnce (s : State) : State := (parts3 s).updPort 0 0 (fun P => { P with whole := [0, 1, 2, 3] })

/-- A port HELD whose far end is a package one step away on axis 1, not the one planned. -/
def heldPort : State :=
  ((linkIn lsHeld).fset 0 Reg.RTE_DISC_STATUS.OUTCOME dSwapOther).updPort 0 0 (fun P => { P with seen := some ⟨0, 0, State.reset.pkgNode + 4, State.reset.freg 0 Reg.RTE_PLAN_HDR.DIGEST⟩ })

/-- Eight retrains at the present time. -/
def eightRetrains : State := lit.updPort 0 0 (fun P => { P with retrains := List.replicate 8 lit.now })

/-- A flit with the CRC it should carry. -/
def fixed (ty : Nat) (x : Flit) : Flit := { x with crc := flitCrc ty x }

theorem fixed_crc (ty : Nat) (x : Flit) : (fixed ty x).crc = flitCrc ty (fixed ty x) := (flitCrc_crc ty x _).symm

/-- The same flit with a CRC off by one. -/
def broken (ty : Nat) (x : Flit) : Flit := { x with crc := flitCrc ty x + 1 }

theorem broken_crc (ty : Nat) (x : Flit) : (broken ty x).crc ≠ flitCrc ty (broken ty x) := by
  rw [broken, flitCrc_crc]
  exact Nat.succ_ne_self _

/-- A flit waits in port 0's replay buffer, sent so many times. -/
def replaying (k : Nat) : State :=
  lit.updPort 0 0 (fun P => { P with held := [⟨5, 0, false, 0, [1], k⟩], resend := some 5 })

/-- A packet's bytes wait at port 0's transmitter on VC0, and its link has credits. -/
def waitingFlit : State :=
  (lit.fset 0 Reg.RTE_LINK_CREDIT.RES 4 0 0).updPort 0 0 (fun P => { P with txq := [(0, [⟨true, false, [1, 2, 3]⟩])], arb := { P.arb with tok0 := 2 } })

/-- Field 0 and its neighbours are in service with their die-to-die links up. -/
def ringUp : State := (List.range 4).foldl (fun t k => t.hset Reg.HUB_D2D_STATUS.UP 1 0 k) rimOn

/-- A packet waits at field 0's transmitter to field 1 on VC0. -/
def ringWaiting : State :=
  ringUp.updRouter 0 (fun R => { R with d2dtx := [(d2dKey 16 0 0, [⟨true, false, [1, 2, 3]⟩])], d2darb := [(16, { Arb.reset with tok0 := 2 })] })

/-- Field 0 issues a packet on VC0. -/
def issuing (p : Packet) : State := rimOn.updRouter 0 (fun R => { R with issued := [(0, [p])] })

/-- The management tag makes a packet deliverable. -/
def mgmtPkt (dst : Nat) : Packet := { pktOf kGet 0 with allot := mgmtAllot, cls := 0, dst := dst }

/-- Router tables sealed, port 0 of field 0 ACTIVE and admitted on axis 1 to coordinate 1. -/
def routing : State :=
  ((((planned.fset 0 Reg.RTE_PLAN_PORT.AXIS 1 0).fset 0 Reg.RTE_PLAN_PORT.COORD 1 0).fset 0 Reg.RTE_DISC_STATUS.OUTCOME dMatch 0).fset 0
    Reg.RTE_LINK_STATUS.STATE lsActive 0).fset 0 Reg.RTE_TABLE_STATUS.SEALED 1

/-- The same with the table entry of that coordinate active. -/
def routed (p : Packet) : State :=
  let bank := ((routing.fset 0 Reg.RTE_TBL_U.PORT0 0 1).fset 0 Reg.RTE_TBL_U.COUNT 1 1).field 0
  (routing.updRouter 0 (fun R => { R with active := bank.staging, issued := [(0, [p])] })).hset Reg.HUB_FIELD_STATE.STATE svcReady 0 0

/-- A combining slot of one contributor at an egress. -/
def combOne (e : Nat) : CombSlot := ⟨[0], e, 0, pktOf kPutReduce 128, [], []⟩

/-- Field 0 with that slot. -/
def combining (e : Nat) : State := rimOn.updRouter 0 (fun R => { R with comb := [(0, combOne e)] })

/-- Field 0 in service, the packet at its router. -/
def recvOn (p : Packet) : State := rimOn.updRouter 0 (fun R => { R with inbox := [p] })

/-- The flow from node 1 is open and at sequence number 0. -/
def flowOpen (s : State) : State := s.setFlowRx 0 1 { FlowRx.init with valid := true, exp := 0, fepoch := 0 }

/-- Reduction entries of line 0. -/
def redZero : RedLine := ⟨0, [0], 0, 0, List.replicate 32 LongAcc.zero, false, none⟩

/-- Those entries in field 0. -/
def reducing (s : State) : State := s.setRed 0 redZero

/-- A combined put-reduce of one contributor, node 1. -/
def combPkt : Packet :=
  { pktOf kPutReduceComb 0 with body := rhBytes { rhKind kPutReduceComb with contrib := 1 } ++ combRecordBytes [(1, 0, 0)] ++ List.replicate 1536 0 }

/-- The atomic unit's cache is full. -/
def cacheFull (s : State) : State := s.updGw 0 (fun G => { G with atomics := List.replicate 4096 ⟨2, 9, 0, 0, false⟩ })

/-- Field 0 in service awaits the answer to a line of a kind, and the packet is at its router. -/
def awaitOn (kind : Nat) (p : Packet) : State := (recvOn p).updGw 0 (fun G => { G with lines := [gwLine kind] })

/-- An answer of a kind with a status. -/
def failOf (kind len : Nat) : Packet := { pktOf kind 0 with body := rhBytes { rhKind kind with status := St.ADDRESS_UNMAPPED } ++ List.replicate len 0 }

/-- A multicast line whose member still due is node 1. -/
def mcLine : GwLine := { gwLine kMcastPut with due := [(nodeCoord 1 0, 0)] }

/-- Field 0 in service, with a line of the gateway. -/
def sending (l : GwLine) : State := rimOn.updGw 0 (fun G => { G with lines := [l] })

/-- Field 0 in service, a line of plot 0 waiting for the gateway. -/
def lineWaits : State := rimOn.updPlot 0 0 (fun P => { P with xlines := [{ ownLine with dst := 1 }] })

/-- The deferred queue with node 1 told that it holds the age token. -/
def tokenHeld : State := rimOn.updGw 0 (fun G => { G with queue := [⟨1, 0, 0, some 0, true⟩] })

/-- Field 0 in service, with the group in slot 0 and the packet at its router. -/
def groupOn (c : Option ShfColl) (mem : List Nat) (p : Packet) : State :=
  (recvOn p).updShf 0 (fun U => { U with slots := [(0, groupOne c mem)] })

/-- A packet of group 1 with its epoch, SEQ and kind. -/
def shfOf (epoch seq kind : Nat) : Packet :=
  { shfPkt kind 0 [] with body := leBytes 2 1 ++ leBytes 2 epoch ++ leBytes 4 seq ++ leBytes 1 kind ++ leBytes 23 0 }

/-- One part of one block. -/
def partPkt (kind : Nat) : Packet := shfPkt kind 1 (List.replicate 32 0)

/-- That piece is folded. -/
def collFolded : ShfColl := { collOne with folded := [(0, true)] }

/-- That part is there. -/
def collGot : ShfColl := { collOne with got := [(0, true)] }

/-- The same with the point SILENT fired. -/
def collSilent : ShfColl := { collOne with silent := true }

/-- The slot is past SEQ 0. -/
def groupPast (p : Packet) : State := (groupOn none [0, 1] p).updSlotShf 0 0 (fun y => { y with next := 1 })

/-- As that slot. -/
def slotPast : ShfSlot := { groupOne none [0, 1] with next := 1 }

/-- Field 0 in service, the group in slot 0, no packet waiting. -/
def groupUp (c : Option ShfColl) (mem : List Nat) : State := rimOn.updShf 0 (fun U => { U with slots := [(0, groupOne c mem)] })

/-- What the check of the registration under way finds. -/
def checkedSlot (s : State) (a : Nat) : ShfSlot := (s.shfCheck 0 0 a).2.getD (groupOne none [])

/-- The registration under way is taken. -/
def regTaken : State := registering.updShf 0 (fun U => { U with regs := [] })

/-- Slot 0 holds group 1 of an epoch, and the registration descriptor lies at 0. -/
def reforming (g e : Nat) : State := regTaken.updShf 0 (fun U => { U with slots := [(0, { groupOne none [0, 1] with group := g, epoch := e })] })

/-- A collective whose ready line is at 4,096. -/
def readyDesc : List Byte := sumOne.take 40 ++ leBytes 8 4096 ++ leBytes 16 0

/-- A collective with that descriptor. -/
def collReady : ShfColl := { collOne with desc := readyDesc }

/-- A collective whose only piece is complete. -/
def collFull : ShfColl := { collOne with pieces := [⟨1, 0, 0, [(0, 1, false, List.replicate 32 0)]⟩] }

/-- A collective whose digest differs from one received. -/
def collOdd : ShfColl := { collOne with digests := [(1, 7)] }

/-- A part tried three times. -/
def collTried : ShfColl := { collOne with out := [⟨1, skPiece, 0, 0, 0, 0, 1, [], 3⟩] }

theorem regTaken_checks : ((regTaken.shfCheck 0 0 0).2.map (fun x => decide (x.group = 1 ∧ x.epoch = 0))).getD false = true := by decide +kernel
theorem reforming_checks (e : Nat) (he : e < 2) :
    (((reforming 1 e).shfCheck 0 0 0).2.map (fun x => decide (x.group = 1 ∧ x.epoch = 0))).getD false = true := by
  have h : ∀ e : Fin 2, (((reforming 1 e).shfCheck 0 0 0).2.map (fun x => decide (x.group = 1 ∧ x.epoch = 0))).getD false = true := by decide +kernel
  exact h ⟨e, he⟩

/-- A value found to have a property. -/
theorem foundOf {α : Type} {o : Option α} {p : α → Bool} (h : (o.map p).getD false = true) : ∃ x, o = some x ∧ p x = true := by
  cases o with
  | none => exact absurd h (by simp)
  | some x => exact ⟨x, rfl, h⟩

/-- Field 0 mirrors to partner 1, the planes and regions as given. -/
def mirroring (res cur : SMap Bool) (g : List MirRegion) : State :=
  (rimOn.updMirSrc 0 (fun m => { m with on := true, partners := [1] })).updMemu 0 (fun m => { m with res := res, cur := cur, regions := g })

/-- Slot 0 pushes to node 1. -/
def pushing (x : MirPush) (g : List MirRegion) : State := rimOn.updSlot 0 0 (fun z => { z with push := some x, layout := g })

/-- The same with the point STALL armed at slot 0. -/
def pushStall (x : MirPush) (arg : Nat) (g : List MirRegion) : State :=
  ((((pushing x g).fset 0 Reg.INJ_PT.POINT 2 injMir).fset 0 Reg.INJ_PT.ARM 1 injMir).fset 0 Reg.INJ_PT.TARGET 0 injMir).fset 0 Reg.INJ_PT.ARG arg injMir

/-- Field 0 in service in a tally state. -/
def tlyAt (st : Nat) : State := rimOn.fset 0 Reg.TLY_STATUS.STATE st

/-- Link 16 of field 0 is joined. -/
def beaconing : State := rimOn.hset Reg.HUB_D2D_STATUS.UP 1 0 0

/-- Port 0 of field 0 carries beacons. -/
def beaconPort : State :=
  ((((planned.fset 0 Reg.RTE_PLAN_PORT.AXIS 1 0).fset 0 Reg.RTE_LINK_STATUS.STATE lsActive 0).fset 0 Reg.RTE_DISC_STATUS.OUTCOME dMatch 0).fset 0 Reg.RTE_TABLE_STATUS.SEALED 1).hset
    Reg.HUB_FIELD_STATE.STATE svcReady 0 0

/-- Field 0 follows a root that is heard. -/
def rooted (st : Nat) : State :=
  (tlyAt st).updTly 0 (fun U => { U with roots := [((tlyAt st).freg 0 Reg.TLY_STATUS.ROOT, ⟨0, 0, true, 0⟩)] })

/-- The same root. -/
def rootHeard : TallyRoot := ⟨0, 0, true, 0⟩

/-- Compensation on, its constant term c. -/
def compensating (c : Int) : State := (State.reset.hset Reg.CAL_COMP.ENABLE 1).updHub (fun H => { H with cal := { H.cal with acc := c } })

/-- A mark of field 0 is armed at 0. -/
def armed : State := rimOn.fset 0 Reg.TLY_MARK_CTL.ARMED 1

/-- An action of a mark is to be done. -/
def markTodo (n : Nat) : State := rimOn.updTly 0 (fun U => { U with todo := [n] })

/-- A stage runs, its work not done. -/
def staged (k : Nat) : State := (State.reset.hset Reg.SEED_STAGE.STAGE k).hset Reg.SEED_STAGE.PHASE phRunning

/-- Modules that do not answer, in the dark. -/
def noLight : LightEnv := ⟨false, false, [], [], []⟩

/-- A seed image whose firmware image 0 comes from the host. -/
def hostDrill : List Byte :=
  leBytes 4 0x36395447 ++ leBytes 2 1 ++ leBytes 2 0 ++ leBytes 4 280 ++ leBytes 4 2 ++ leBytes 48 0 ++
    leBytes 2 recDrillImage ++ leBytes 2 0 ++ leBytes 4 8 ++ [0x00, 0x01] ++ leBytes 6 0 ++ leBytes 2 recSignature ++ leBytes 2 0 ++ leBytes 4 192 ++
    leBytes 192 0

/-- A flash of 32 MiB with nothing programmed. -/
def flashBlank : Flash := ⟨true, 2 ^ 25, []⟩

/-- A stage waits for the host. -/
def stageWaits (k : Nat) : State := (staged k).hset Reg.SEED_STAGE.PHASE phWait

/-- SEED waits for a host image. -/
def imageWaits : State := (stageWaits sgSeed).begin.hset Reg.SEED_IMAGE_STATUS.SLOT 3

/-- The boot ROM of plot 0 runs, with the image of an entry at 0. -/
def booting (st : Nat) : State :=
  (((running 0).updSeed (fun U => { U with image := smallImage })).updPlot 0 0 (fun P => { P with boot := { P.boot with active := true } })).pset 0 0
    Reg.PLT_BOOT.STATUS st

/-- The sowing of image 0 waits at row 0. -/
def sowing : State := (rimOn.updSeed (fun U => { U with image := smallImage })).updField 0 (fun F => { F with sow := [(0, 0)] })

/-- The host link in L0. -/
def linked : State := rimOn.hset Reg.HUB_HOST_PHY_STATUS.STATE hpL0

/-- The same with a pass of plot 0 that writes tine 0's first segment. -/
def linkedBusy : State :=
  ((withQueue [entry 0 (.tmm tmmOne 0) .waiting]).updPlot 0 0 (fun P => { P with nextQsn := 1 })).hset Reg.HUB_HOST_PHY_STATUS.STATE hpL0

/-- The host link in Recovery. -/
def recovering : State := rimOn.hset Reg.HUB_HOST_PHY_STATUS.STATE hpRecovery

/-- A message of PF0 of class 0 is due. -/
def msixDue : State := linked.updHub (fun H => { H with msixDue := [(0, 1)] })

/-- The same, the function's MSI-X enabled. -/
def msixOpen : State := msixDue.updHost (fun U => { U with msix := [(0, ⟨true, false, 0⟩)] })

/-- A management packet of a kind for field 0. -/
def mgmtOf (kind : Nat) : Packet := { pktOf 0 0 with allot := mgmtAllot, cls := 0, body := leBytes 1 kind ++ List.replicate 63 0 }

/-- Field 0 holds a record to forward. -/
def forwarding (s : State) : State := s.updField 0 (fun F => { F with fwdQueue := [[1, 2]] })

/-- Channel 0 holds the package, and reads below WARN. -/
def critHeld (n : Nat) : State := (State.reset.hset Reg.THM_PIN_CFG.WARN 80 0).updPwr (fun P => { P with crit := n })

/-- A change of mode in progress. -/
def changing : State := (State.reset.hset Reg.PWR_MODE_STATUS.CHANGING 1).updPwr (fun P => { P with clocks := true, target := 2 })

/-- A hold whose pin is released. -/
def holdOver : State := (rimOn.hset Reg.PWR_MODE_STATUS.HOLD 1).updPwr (fun P => { P with holdOff := true })

/-- Tokens asked for in field 0. -/
def tokensAsked (l : List (Nat × Bool)) : State := rimOn.updThm 0 (fun T => { T with tokens := l })

/-- A field with drops and a cool sensor. -/
def dropped (t : Int) : State := (rimOn.fset 0 Reg.THM_FIELD_STATUS.DROPS 1).updThm 0 (fun T => { T with hist := [(0, [t])] })

/-- Field 0 throttles, its sensor 0 at t. -/
def throttling (t : Int) : State := (rimOn.fset 0 Reg.THM_FIELD_STATUS.THROTTLE 1).updThm 0 (fun T => { T with hist := [(0, [t])] })

/-- The host link in training with n wavelengths. -/
def training (n : Nat) : State := (rimOn.hset Reg.HUB_HOST_PHY_STATUS.STATE hpTraining).updHub (fun H => { H with hostTx := { H.hostTx with out := 2 ^ 8 - 2 ^ n } })

/-- A packet of a kind for a field address, with a line of ones. -/
def onesPkt (kind mask key : Nat) : Packet :=
  { pktOf kind 0 with key := key, body := rhBytes { rhKind kind with operand := mask } ++ List.replicate 128 1 }

/-- The flow from node 1 is open with the packet held that is next but one. -/
def flowHolding (p : Packet) (s : State) : State :=
  s.setFlowRx 0 1 { FlowRx.init with valid := true, exp := 0, fepoch := 0, held := [⟨1, some p⟩] }

/-- Line 0 of field 0 is resident. -/
def lineIn (s : State) : State := s.updMemu 0 (fun m => { m with absorber := [⟨0, List.replicate 128 5, false, false⟩] })

/-- A group with its scratch area at 0. -/
def groupRoom (c : Option ShfColl) (mem : List Nat) : ShfSlot := { groupOne c mem with scratchReq := 41472 }

/-- It stands in slot 0 of field 0, which is in service. -/
def roomUp (s : State) (c : Option ShfColl) (mem : List Nat) : State := s.updShf 0 (fun U => { U with slots := [(0, groupRoom c mem)] })

/-- A piece complete, of the second stage. -/
def collAll : ShfColl := { collOne with pieces := [⟨1, 0, 0, [(0, 1, false, List.replicate 32 0x38)]⟩] }

/-- A sum of two FP32 elements at 64 and 128 to 16. -/
def vecTwo : Nat := 1 + 16 * 2 ^ 32 + 64 * 2 ^ 64 + 128 * 2 ^ 96 + 2 * 2 ^ 160

/-- Plot 0's store holds ones. -/
def onesStore (s : State) : State := s.updMem (fun m => m.setStore 0 (Mem.write m.store[(0 : FieldId)] 0 (List.replicate 200 0x3F)))

/-! ### Ill-formed commands: each check refuses one. -/

theorem test_access_of_two_bytes_refused : Instr.wf (.registerWrite .yarzin .hub 0 2 0) = false := by decide
theorem test_misaligned_access_refused : Instr.wf (.registerWrite .yarzin .hub 4 8 0) = false := by decide
theorem test_wide_value_refused : Instr.wf (.registerWrite .yarzin .hub 0 4 (2 ^ 32)) = false := by decide
theorem test_offset_beyond_hub_refused : Instr.wf (.registerWrite .yarzin .hub 0x1000000 4 0) = false := by decide
theorem test_offset_beyond_field_refused : Instr.wf (.registerWrite .yarzin (.field 3) 0x10000000 4 0) = false := by decide
theorem test_long_immediate_refused : Instr.wf (.drillLoad 0 0 .lw 1 2 2048 false) = false := by decide
theorem test_wide_doorbell_refused : Instr.wf (.pltDoorbellSet 0 0 (2 ^ 32)) = false := by decide
theorem test_chunk_past_its_line_refused : Instr.wf (.plotStoreMeshWrite 0 0 127 [0, 0] false) = false := by decide
theorem test_empty_write_refused : Instr.wf (.hbmWrite 0 0 [] false 0) = false := by decide
theorem test_granule_beyond_memory_refused : Instr.wf (.granuleTake 0 0x300000) = false := by decide
theorem test_fifteen_powers_refused : Instr.wf (.rxPowerMeasure 0 0 (List.replicate 15 0)) = false := by decide
theorem test_fifteen_inlets_refused : Instr.wf (.marginEval (List.replicate 15 0) (List.replicate 16 0)) = false := by decide
theorem test_unknown_image_refused : Instr.wf (.meshMulticast 0 true 0 1 (.sowing 4 0)) = false := by decide
theorem test_light_of_one_module_refused : Instr.wf (.relight ⟨true, true, [none], [], []⟩) = false := by decide
theorem test_long_period_refused : Instr.wf (.markArm 0 (.ctl true (2 ^ 40))) = false := by decide
theorem test_eleven_pins_refused : Instr.wf (.pinSample (List.replicate 11 .fault)) = false := by decide
theorem test_wide_resistance_refused : Instr.wf (.pinSample (List.replicate 12 (.ohms (2 ^ 32)))) = false := by decide
theorem test_packet_with_wide_allotment_refused : Instr.wf (.get 0 ⟨0, 0, 0x1000, 3, 0, 0, false, false, 0, 0, []⟩) = false := by decide
theorem test_flit_without_payload_refused : Instr.wf (.idleFlit 0 0 (flit0 0)) = false := by decide
theorem test_read_across_a_page_refused : Instr.wf (.memoryRead 0 false 4092 8) = false := by decide

/-! ### Number formats: the spec's worked examples. -/

/-- The example under R69: 0x3E99_999A into E4M3 to nearest, towards zero, and stochastically with its two draws. -/
theorem test_convert_to_e4m3 :
    (convert (fp32Val 0x3E99999A) fmtE4M3 rmRNE false 0).1 = 0x2A ∧ (convert (fp32Val 0x3E99999A) fmtE4M3 rmRTZ false 0).1 = 0x29 ∧
      (convert (fp32Val 0x3E99999A) fmtE4M3 rmSR false 0x717F940D).1 = 0x2A ∧
      (convert (fp32Val 0x3E99999A) fmtE4M3 rmSR false 0x251EF253).1 = 0x29 := by decide +kernel

/-- The first example under R80: the draw of seed, step, stream and index 0. -/
theorem test_stochastic_draw : srBits 0 0 0 0 = 0x717F940D := by decide +kernel

/-- The example under R141: 2^24 + 1 + 1 is exact in a long accumulator, and rounds to FP32 and to BF16. -/
theorem test_long_accumulator :
    let a := (((LongAcc.zero.addTerm (fp32Val 0x4B800000)).1.addTerm (fp32Val 0x3F800000)).1.addTerm (fp32Val 0x3F800000)).1
    (a.round fmtFP32 rmRNE false 0).1 = 0x4B800001 ∧ (a.round fmtBF16 rmRNE false 0).1 = 0x4B80 := by decide +kernel

/-- The example of the sum of two ones sent by a router (under R428): byte 18 of the image. -/
theorem test_image_byte :
    ((LongAcc.zero.addTerm (fp32Val 0x3F800000)).1.addTerm (fp32Val 0x3F800000)).1.image[18]? = some 0x40 := by decide +kernel

/-- R327: the CRC-64 of the nine digits. -/
theorem test_crc64 : crc64 [0x31, 0x32, 0x33, 0x34, 0x35, 0x36, 0x37, 0x38, 0x39] = 0x995DC9BBDF1939FA := by decide +kernel

/-! ### Field memory: the tables under R234 and R248. -/

theorem test_address_map :
    ([0, 0x2000, 0x4000, 0x120000000, 0x120000080].map (fun a => linePc (a / 128))) = [0, 64, 1, 18, 19] := by decide +kernel

theorem test_remap :
    physOf (2 ^ 3 + 2 ^ 90 + 2 ^ 256) 53 = some 54 ∧ physOf (2 ^ 3 + 2 ^ 90 + 2 ^ 256) 88 = some 89 ∧
      physOf (2 ^ 3 + 2 ^ 90 + 2 ^ 256) 89 = some 91 ∧ physOf (2 ^ 3 + 2 ^ 90 + 2 ^ 256) 255 = some 258 ∧
      logicalOf (2 ^ 3 + 2 ^ 90 + 2 ^ 256) 54 = some 53 := by decide +kernel

/-! ### Links: the example under R313. -/

/-- With 15 slots in service stream bit 2,048 is bit 8 of codeword symbol 17 of slot 9, and bit 0 bit 0 of symbol 4 of slot 0. -/
theorem test_stripe_place : stripePlace 15 0 2048 = some (9, 17, 8) ∧ stripePlace 15 0 0 = some (0, 4, 0) := by decide +kernel

/-! ### Drill: the encodings of RV32I and of R191 and R195, as the words under R196 and R195 spell them. -/

/-- tdld dr2, a1. -/
theorem test_decode_tdld : decode32 0x0005810B = .tdld 2 11 := by decide +kernel
/-- tmm a0, dr2, x0 with INT. -/
theorem test_decode_tmm : decode32 0x0201350B = .tmm 10 2 0 true := by decide +kernel
/-- addi x1, x0, 5. -/
theorem test_decode_addi : decode32 0x00500093 = .aluImm .add 1 0 5 := by decide +kernel

/-! ### Commands -/

/-- The state a command leaves. -/
def after (r : Result) : State :=
  match r with
  | .next s => s
  | _ => State.reset

/-- R622: a write of 0x81 to FLD_APERTURE stores 0x80. -/
theorem test_aperture_is_limited :
    (after (execRegisterWrite .yarzin (.field 2) 0x50 4 0x81 (State.reset.hset Reg.HUB_FIELD_STATE.STATE svcReady 0 2))).freg 2
      Reg.FLD_APERTURE.BASE = 0x80 := by decide +kernel

/-- R378: a write of 0xFFF to FLD_ALLOT stores 0. -/
theorem test_management_allotment_is_not_stored :
    (after (exec (.fldAllotWrite 2 0xFFF) (State.reset.hset Reg.HUB_FIELD_STATE.STATE svcReady 0 2))).freg 2 Reg.FLD_ALLOT.ID = 0 := by
  decide +kernel

/-- The first row of the example under R619: a plot's notice to a claimed slot is refused with BUSY, 0x0002. -/
theorem test_mailbox_busy :
    (after (exec (.mailboxSend (.plot 2 53)) (after (exec (.mailboxSend (.plot 2 17)) State.reset)))).mbx (.plot 2 53) .ackCode = 2 := by
  decide +kernel

/-- The last row of that example: a notice of another role epoch is answered STALE_ROLE, 0x0301. -/
theorem test_mailbox_stale_role :
    (after (exec (.mailboxDeliver (.rimp 2)) (after (exec (.mailboxSend (.plot 2 53))
      ((State.reset.hset Reg.HUB_FIELD_STATE.STATE svcReady 0 2).mbxSet (.rimp 2) .role 3))))).mbx (.plot 2 53) .ackCode = 0x301 := by
  decide +kernel

/-- R172: a write to PLT_DOORBELL clears the bits it names. -/
theorem test_doorbell_clear :
    (after (exec (.pltDoorbellClear 0 0 1) (after (exec (.pltDoorbellSet 0 0 3) rimOn)))).preg 0 0 Reg.PLT_DOORBELL.PENDING = 2 := by
  decide +kernel

/-- The example under R698: a request, then 0x5EED, open the injection lock of a part that may open it. -/
theorem test_injection_lock_opens :
    (after (exec (.injValue 0x5EED) (after (exec .injReq
      ((State.reset.hset Reg.HUB_INJ_STATUS.PROVING 1).hset Reg.HUB_INJ_STATUS.FUSE 1))))).hreg Reg.HUB_INJ_STATUS.OPEN = 1 := by
  decide +kernel

/-- R512: another value does not. -/
theorem test_injection_lock_stays_closed :
    (after (exec (.injValue 0x5EEC) (after (exec .injReq
      ((State.reset.hset Reg.HUB_INJ_STATUS.PROVING 1).hset Reg.HUB_INJ_STATUS.FUSE 1))))).hreg Reg.HUB_INJ_STATUS.OPEN = 0 := by
  decide +kernel

/-- The block has no word that spells a command. -/
theorem test_no_command_words : decodeTableWord 32 0x00500093 = none := by decide

/-- An idle step lets 2 ns pass (assumption log entry 1). -/
theorem test_idle_step : (after (step State.reset)).now = State.reset.now + 2 := by decide +kernel

/-! Witnesses of IdleStepPassesTime: a state and operands that meet the hypotheses of each clause. -/

theorem wit_IdleStepPassesTime_0_idle : ∃ (s : State), (s.pending = []) ∧ (s.hub.host.wait = []) ∧ (s.events = []) :=
  ⟨State.reset, by decide⟩

/-! Witnesses of ResetsZeroPlotStores: a state and operands that meet the hypotheses of each clause. -/

theorem wit_ResetsZeroPlotStores_2_partition : ∃ (s : State) (f : FieldId), ((s.field f).hubLost = false) ∧ (s.svc f = svcReady) :=
  ⟨rimOn, 0, by decide⟩

/-! Witnesses of NumberFormatRules: a state and operands that meet the hypotheses of each clause. -/

theorem wit_NumberFormatRules_0_ternRead : ∃ (c : Nat), (c % 4 = 3) :=
  ⟨3, by decide⟩

theorem wit_NumberFormatRules_2_blockValuea : ∃ (sel c shifts i code : Nat) (F : Fmt), fmtOf sel = some F ∧ F.block = true ∧ c < 0xFF ∧ F.gfp = true :=
  ⟨0x16, 127, 0, 0, 0, ⟨fmtE2M1, true, true⟩, by decide⟩
theorem wit_NumberFormatRules_2_blockValueb : ∃ (sel c shifts i code : Nat) (F : Fmt), fmtOf sel = some F ∧ F.block = true ∧ c < 0xFF ∧ F.gfp = false ∧ F.elem.kind = .float :=
  ⟨0x10, 0xFE, 0, 0, 0, ⟨fmtE4M3, true, false⟩, by decide⟩
theorem wit_NumberFormatRules_2_blockValuec : ∃ (sel c shifts i code : Nat) (F : Fmt), fmtOf sel = some F ∧ F.block = true ∧ c < 0xFF ∧ F.gfp = false ∧ F.elem.kind = .mxint :=
  ⟨0x15, 0, 0, 0, 0, ⟨fmtMXINT8, true, false⟩, by decide⟩

/-! Witnesses of RecordFrame: a state and operands that meet the hypotheses of each clause. -/

theorem wit_RecordFrame_1_noEvent : ∃ (s : State), (s.events = []) :=
  ⟨State.reset, by decide⟩

theorem wit_RecordFrame_2_offRings : ∃ (s : State), s.events ≠ [] ∧ ∀ e ∈ s.events, ∀ f : FieldId, e.src = some f → s.freg f Reg.FLD_EVT_RING.ENABLE = 0 :=
  ⟨raised State.reset (some 1), by decide +kernel⟩

/-! Witnesses of RecordsAreWritten: a state and operands that meet the hypotheses of each clause. -/

theorem wit_RecordsAreWritten_0_written : ∃ (s : State) (e : RaisedEvent), (s.events = [e]) ∧ (e.src = none) ∧ (s.hreg Reg.HUB_EVT_RING.ENABLE = 1) ∧ (ringFull (s.hreg Reg.HUB_EVT_IDX.PROD) (s.hreg Reg.HUB_EVT_IDX.CONS) (s.hreg Reg.HUB_EVT_RING.SIZE_LOG) = false) ∧ (s.hreg Reg.HUB_EVT_RING.BASE * 4096 + s.hreg Reg.HUB_EVT_IDX.PROD % 2 ^ s.hreg Reg.HUB_EVT_RING.SIZE_LOG * 32 + 32 ≤ sramSize) :=
  ⟨raised (State.reset.hset Reg.HUB_EVT_RING.ENABLE 1) none, event0 none, by decide +kernel⟩

theorem wit_RecordsAreWritten_1_full : ∃ (s : State) (e : RaisedEvent), (s.events = [e]) ∧ (e.src = none) ∧ (s.hreg Reg.HUB_EVT_RING.ENABLE = 1) ∧ (ringFull (s.hreg Reg.HUB_EVT_IDX.PROD) (s.hreg Reg.HUB_EVT_IDX.CONS) (s.hreg Reg.HUB_EVT_RING.SIZE_LOG) = true) :=
  ⟨raised ((State.reset.hset Reg.HUB_EVT_RING.ENABLE 1).hset Reg.HUB_EVT_IDX.PROD (2 ^ State.reset.hreg Reg.HUB_EVT_RING.SIZE_LOG)) none, event0 none, by decide +kernel⟩

theorem wit_RecordsAreWritten_2_off : ∃ (s : State) (e : RaisedEvent), (s.events = [e]) ∧ (e.src = none) ∧ (s.hreg Reg.HUB_EVT_RING.ENABLE = 0) :=
  ⟨raised State.reset none, event0 none, by decide +kernel⟩

theorem wit_RecordsAreWritten_3_fieldOff : ∃ (s : State) (e : RaisedEvent) (f : FieldId), (s.events = [e]) ∧ (e.src = some f) ∧ (s.freg f Reg.FLD_EVT_RING.ENABLE = 0) :=
  ⟨raised State.reset (some 1), event0 (some 1), 1, by decide +kernel⟩

theorem lineIn_bounded : (lineIn rimOn).Bounded where
  lines := by decide +kernel
  held := by decide +kernel
  absorber := by decide +kernel
  rows := by decide +kernel
  mgmt := by decide +kernel
  atomics := by decide +kernel
  flows := by decide +kernel
  queue := by decide +kernel
  log := by decide +kernel
  samples := by decide +kernel

/-! Witness of LinesStayWhole: a state that meets its hypotheses, with a line resident. -/

theorem wit_LinesStayWhole : ∃ s t : State, step s = .next t ∧ s.Bounded ∧ (s.memu 0).absorber ≠ [] :=
  ⟨lineIn rimOn, _, rfl, lineIn_bounded, by decide⟩

/-! Witnesses of OnlyResetsLeaveDarkOrUnfit: a DARK and an UNFIT field, and a command at the front. -/

theorem wit_OnlyResetsLeaveDarkOrUnfit : (∃ s t : State, step s = .next t ∧ s.svc 1 = svcDark) ∧
    (∃ s t : State, step s = .next t ∧ s.svc 1 = svcUnfit) :=
  ⟨⟨State.reset.hset Reg.HUB_FIELD_STATE.STATE svcDark 0 1, _, rfl, by decide +kernel⟩,
   ⟨State.reset.hset Reg.HUB_FIELD_STATE.STATE svcUnfit 0 1, _, rfl, by decide +kernel⟩⟩

theorem wit_RecordFrame_3_rings : ∃ s : State, ∀ f : FieldId,
    (s.hreg Reg.HUB_EVT_IDX.PROD + 0x10000 - s.hreg Reg.HUB_EVT_IDX.CONS) % 0x10000 ≤ 2 ^ s.hreg Reg.HUB_EVT_RING.SIZE_LOG ∧
    (s.freg f Reg.FLD_EVT_IDX.PROD + 0x10000 - s.freg f Reg.FLD_EVT_IDX.CONS) % 0x10000 ≤ 2 ^ s.freg f Reg.FLD_EVT_RING.SIZE_LOG :=
  ⟨State.reset.fset 2 Reg.FLD_EVT_IDX.PROD 5, by decide +kernel⟩

theorem wit_PackageFrame_accesses : ∃ s : State, s.hub.host.wait = [] ∧ s.hub.host.held = [] ∧ s.hub.seed.req = [] ∧
    fieldPlace 0x30 = .rim ∧ fieldPlace 0x1000080 = .plot 0 0x80 ∧ fieldPlace 0x2000000 = .bin 0 0 0 0 ∧ fieldPlace 0x200000 = .none ∧
    ∀ k ∈ ([Reg.SEED_STAGE_GO.STAGE, Reg.SEED_CTL.HOST_IMAGE, Reg.SEED_CTL.IMAGES_READY, Reg.HUB_JTAG_RESP.SIG_S,
      Reg.HUB_RESET_CTL.PART, Reg.HUB_RESET_CTL.WARM] : List RegField), k.hit 0 0 0x30000 8 = false :=
  ⟨rimOn, by decide +kernel⟩

theorem wit_BringUpFrame_stages : ∃ s : State, s.hub.seed.req = [] ∧ s.hub.seed.begun = true ∧ s.phase = phRunning ∧
    imgRegWrites s.image s.stage = [] ∧ imgRegWrites s.image sgFabric = [] :=
  ⟨rimOn.updSeed (fun U => { U with begun := true }), by decide +kernel⟩

/-! ### StoresWriteTheirBytes: states and operands that meet the hypotheses of each clause, in the clauses' order. -/

theorem wit_StoresWriteTheirBytes_0_to_8 :
    (∃ (s : State) (a be : Nat) (d : List Byte) (ep : Bool), (s.hostLink = hpL0) ∧ (s.hub.host.wait = []) ∧ (s.hub.host.held = []) ∧ (bit s.hub.host.d3 0 = false) ∧ (d.length ≤ maxPayload) ∧ (a + d.length ≤ 0x1000000)) ∧
    (∃ (s : State) (f : FieldId) (a : Nat) (d : List Byte) (src : Fin 6), (s.svc f ≠ svcDark) ∧ (a < hbmTop) ∧ (a % 64 + d.length ≤ 64) ∧ ((s.memu f).lost (lineStack (a / 128)) = false) ∧ ((s.memu f).holdsLine (a / 128) = false) ∧ ((s.memu f).resident (a / 128) = none) ∧ (errKind (SMap.get s.mem.hbmErr[f] 0 (a / 128 * 2)) = 0) ∧ (errKind (SMap.get s.mem.hbmErr[f] 0 (a / 128 * 2 + 1)) = 0) ∧ (s.injArmedAt f injMem 1 (lineStack (a / 128)) = false) ∧ (s.injArmedAt f injMem 2 (lineStack (a / 128)) = false) ∧ (s.linesWhole f)) ∧
    (∃ (s : State) (f : FieldId) (a : Nat) (d : List Byte) (src : Fin 6), (s.svc f ≠ svcDark) ∧ (a < hbmTop) ∧ (a % 64 + d.length ≤ 64) ∧ ((s.memu f).lost (lineStack (a / 128)) = false) ∧ ((s.memu f).holdsLine (a / 128) = false) ∧ ((s.memu f).resident (a / 128) = none) ∧ (errKind (SMap.get s.mem.hbmErr[f] 0 (a / 128 * 2)) = 0) ∧ (errKind (SMap.get s.mem.hbmErr[f] 0 (a / 128 * 2 + 1)) = 0) ∧ (s.injArmedAt f injMem 1 (lineStack (a / 128)) = false) ∧ (s.injArmedAt f injMem 2 (lineStack (a / 128)) = false) ∧ (s.linesWhole f)) ∧
    (∃ (s : State) (f : FieldId) (a : Nat) (d : List Byte) (src : Fin 6) (x : AbsLine), (s.svc f ≠ svcDark) ∧ (a < hbmTop) ∧ (a % 64 + d.length ≤ 64) ∧ ((s.memu f).lost (lineStack (a / 128)) = false) ∧ ((s.memu f).holdsLine (a / 128) = false) ∧ ((s.memu f).resident (a / 128) = some x) ∧ (x.poisonLo = false) ∧ (x.poisonHi = false) ∧ (s.linesWhole f)) ∧
    (∃ (s : State) (f : FieldId) (a : Nat) (d : List Byte) (src : Fin 6), (s.svc f ≠ svcDark) ∧ (a < hbmTop) ∧ ((s.memu f).lost (lineStack (a / 128)) = false) ∧ ((s.memu f).holdsLine (a / 128) = false)) ∧
    (∃ (s : State) (f : FieldId) (a : Nat) (d : List Byte) (x : Bool) (src : Fin 6), (s.svc f ≠ svcDark) ∧ (a < hbmTop) ∧ ((s.memu f).lost (lineStack (a / 128)) = false) ∧ ((s.memu f).holdsLine (a / 128) = true)) ∧
    (∃ (s : State) (f : FieldId) (a : Nat) (d : List Byte) (x : Bool) (src : Fin 6), (s.svc f = svcDark ∨ hbmTop ≤ a ∨ (s.memu f).lost (lineStack (a / 128)) = true)) ∧
    (∃ (s : State) (f : FieldId) (p : PlotId) (a : Nat) (d : List Byte), (a % 8 = 0) ∧ (d.length % 8 = 0) ∧ (a % 128 + d.length ≤ 128) ∧ (a + d.length ≤ storeSize) ∧ (a < storeSize) ∧ (s.partitionUp f = true) ∧ (s.vacant f p = false)) ∧
    (∃ (s : State) (f : FieldId) (p : PlotId) (a : Nat) (d : List Byte), (a < storeSize) ∧ (s.partitionUp f = true) ∧ (s.vacant f p = false)) ∧
    (∃ (s : State) (f : FieldId) (p : PlotId) (a : Nat) (d : List Byte) (x : Bool), (storeSize ≤ a ∨ s.partitionUp f = false ∨ s.vacant f p = true)) :=
  ⟨⟨State.reset.hset Reg.HUB_HOST_PHY_STATUS.STATE hpL0, 0, 1, [1], false, by decide +kernel⟩,
   ⟨rimOn, 0, 3, [1, 2], 0, by decide +kernel⟩,
   ⟨absorbed, 0, 135, [1, 2], 0, by decide +kernel⟩,
   ⟨absorbed, 0, 3, [1, 2], 0, ⟨0, List.replicate 128 7, false, false⟩, by decide +kernel⟩,
   ⟨absorbed, 0, 3, [1, 2], 0, by decide +kernel⟩,
   ⟨rimOn.updMemu 0 (fun m => { m with res := [(0, true)] }), 0, 3, [1, 2], false, 0, by decide +kernel⟩,
   ⟨absorbed.updMemu 0 (fun m => { m with lost0 := true, lost1 := true }), 0, 3, [1, 2], false, 0, by decide +kernel⟩,
   ⟨rimOn, 0, 0, 0, [1, 2, 3, 4, 5, 6, 7, 8], by decide +kernel⟩,
   ⟨rimOn, 0, 0, 0, [], by decide +kernel⟩,
   ⟨rimOn, 0, 0, storeSize, [], true, by decide +kernel⟩⟩

theorem wit_StoresWriteTheirBytes_9_to_9 : ∃ (s : State) (f : FieldId) (p : PlotId) (k : StoreKind) (rs2 rs1 : Fin 32) (imm : Int) (c : Bool), (s.drillGo f p = true) ∧ (effAddr ((s.plot f p).drill.x rs1) imm % storeBytes k = 0) ∧ (effAddr ((s.plot f p).drill.x rs1) imm < storeEnd) ∧ (claimFree (s.plot f p).queue (claimOf true (effAddr ((s.plot f p).drill.x rs1) imm) (effAddr ((s.plot f p).drill.x rs1) imm + storeBytes k - 1)) = true) ∧ (errKind (SMap.get s.mem.storeErr[f] 0 (storeKey p (effAddr ((s.plot f p).drill.x rs1) imm) / 8)) ≤ 1) :=
  ⟨(running 0).updDrill 0 0 (fun d => d.setX 1 77), 0, 0, .sw, 1, 0, 8, false, by decide +kernel⟩

/-! ### PackageCommandsComplete: states and operands that meet the hypotheses of each clause, in the clauses' order. -/

theorem wit_PackageCommandsComplete :
    (∃ (s : State) (f : FieldId), (s.svc f ≠ svcDark)) ∧
    (∃ (s : State) (f : FieldId), (s.svc f = svcDark)) ∧
    (∃ (s : State) (k : Fin 4), (0 < s.hreg Reg.HUB_D2D_STATUS.MODULES 0 k)) ∧
    (∃ (s : State) (k : Fin 4), (s.hreg Reg.HUB_D2D_STATUS.MODULES 0 k = 0)) :=
  ⟨⟨rimOn.updField 0 (fun F => { F with missed := 9 }), 0, by decide +kernel⟩,
   ⟨State.reset.hset Reg.HUB_FIELD_STATE.STATE svcDark 0 0, 0, by decide +kernel⟩,
   ⟨(State.reset.hset Reg.HUB_D2D_STATUS.MODULES 1 0 2).hset Reg.HUB_D2D_STATUS.UP 1 0 2, 2, by decide +kernel⟩,
   ⟨State.reset.hset Reg.HUB_D2D_STATUS.MODULES 0 0 1, 1, by decide +kernel⟩⟩

/-! ### TileCommandsComplete: states and operands that meet the hypotheses of each clause, in the clauses' order. -/

theorem wit_TileCommandsComplete_0_to_9 :
    (∃ (s : State) (f : FieldId) (p : PlotId) (e : QEntry) (d md : Nat), (s.hub.pwr.trip = false) ∧ (s.passGate f p = .ready e d md) ∧ ((s.plot f p).tine.dormant = false) ∧ (s.stopWaits f p = false) ∧ ((tmmPair (if tmmFresh d then none else (s.plot f p).tine.active.map (fun w => (w.sel, some w.cls))) d).isSome = true)) ∧
    (∃ (s : State) (f : FieldId) (p : PlotId) (e : QEntry) (d md : Nat), (s.hub.pwr.trip = false) ∧ (s.passGate f p = .ready e d md) ∧ ((s.plot f p).tine.dormant = true)) ∧
    (∃ (s : State) (f : FieldId) (p : PlotId) (e : QEntry) (d md : Nat), (s.passGate f p = .ready e d md) ∧ ((s.plot f p).tine.dormant = false) ∧ (s.stopWaits f p = true)) ∧
    (∃ (s : State) (f : FieldId) (p : PlotId), (s.hub.pwr.trip = false) ∧ (s.passGate f p = .claim)) ∧
    (∃ (s : State) (f : FieldId) (p : PlotId) (bin : Bool), (s.hub.pwr.trip = false) ∧ (s.passGate f p = .load bin)) ∧
    (∃ (s : State) (f : FieldId) (p : PlotId), (s.hub.pwr.trip = false) ∧ (s.passGate f p = .bin)) ∧
    (∃ (s : State) (f : FieldId) (p : PlotId), (s.passGate f p = .idle)) ∧
    (∃ (s : State) (f : FieldId) (p : PlotId) (e : QEntry) (d md : Nat), (s.hub.pwr.trip = false) ∧ ((s.plot f p).nextLoad = some e) ∧ (e.op = .tmm d md) ∧ ((s.plot f p).tine.shadow = none) ∧ (syncHeld (entriesBefore (s.plot f p).queue e.qsn) e.op = false) ∧ ((s.field f).held = false) ∧ (claimsFree (entriesBefore (s.plot f p).queue e.qsn) e = true) ∧ ((tmmPair none d).isSome = true)) ∧
    (∃ (s : State) (f : FieldId) (p : PlotId) (e : QEntry) (d md : Nat), (s.hub.pwr.trip = false) ∧ ((s.plot f p).nextLoad = some e) ∧ (e.op = .tmm d md) ∧ ((s.plot f p).tine.shadow = none) ∧ (syncHeld (entriesBefore (s.plot f p).queue e.qsn) e.op = false) ∧ ((s.field f).held = false) ∧ (claimsFree (entriesBefore (s.plot f p).queue e.qsn) e = false)) ∧
    (∃ (s : State) (f : FieldId) (p : PlotId), ((s.plot f p).nextLoad = none ∨ (s.plot f p).tine.shadow.isSome = true ∨ (s.field f).held = true)) :=
  ⟨⟨withQueue [entry 0 (.tmm tmmOne 0) .loaded], 0, 0, entry 0 (.tmm tmmOne 0) .loaded, tmmOne, 0, by decide +kernel⟩,
   ⟨(withQueue [entry 0 (.tmm tmmOne 0) .loaded]).updPlot 0 0 (fun P => { P with tine := { P.tine with dormant := true } }), 0, 0, entry 0 (.tmm tmmOne 0) .loaded, tmmOne, 0, by decide +kernel⟩,
   ⟨((withQueue [entry 0 (.tmm tmmOne 0) .loaded]).updField 0 (fun F => { F with thm := { F.thm with tokens := [(0, false)] } })), 0, 0, entry 0 (.tmm tmmOne 0) .loaded, tmmOne, 0, by decide +kernel⟩,
   ⟨withQueue [{ entry 0 (.tvec 0 0) .waiting with claims := [someClaim] }, { entry 1 (.tmm tmmOne 0) .waiting with claims := [someClaim] }], 0, 0, by decide +kernel⟩,
   ⟨withQueue [entry 0 (.tmm tmmOne 0) .waiting], 0, 0, false, by decide +kernel⟩,
   ⟨withQueue [{ entry 0 (.tvec 0 0) .waiting with claims := [binClaim] }, entry 1 (.tmm tmmKeep 0) .waiting], 0, 0, by decide +kernel⟩,
   ⟨withQueue [], 0, 0, by decide +kernel⟩,
   ⟨withQueue [entry 0 (.tmm tmmOne 0) .waiting], 0, 0, entry 0 (.tmm tmmOne 0) .waiting, tmmOne, 0, by decide +kernel⟩,
   ⟨withQueue [{ entry 0 (.tvec 0 0) .waiting with claims := [someClaim] }, { entry 1 (.tmm tmmOne 0) .waiting with claims := [someClaim] }], 0, 0, { entry 1 (.tmm tmmOne 0) .waiting with claims := [someClaim] }, tmmOne, 0, by decide +kernel⟩,
   ⟨withQueue [], 0, 0, by decide +kernel⟩⟩

theorem wit_TileCommandsComplete_10_to_18 :
    (∃ (s : State) (f : FieldId) (p : PlotId) (e : QEntry) (d md : Nat), (s.hub.pwr.trip = false) ∧ ((s.plot f p).oldestTmm = some e) ∧ (e.op = .tmm d md) ∧ (e.phase = .running)) ∧
    (∃ (s : State) (f : FieldId) (p : PlotId) (e : QEntry) (d md : Nat), ((s.plot f p).oldestTmm = some e) ∧ (e.op = .tmm d md) ∧ (e.phase ≠ .running)) ∧
    (∃ (s : State) (f : FieldId) (p : PlotId) (e : QEntry) (d md : Nat), (s.hub.pwr.trip = false) ∧ ((s.plot f p).oldestTmm = some e) ∧ (e.op = .tmm d md) ∧ (tmmDegenerate d = true) ∧ (syncHeld (entriesBefore (s.plot f p).queue e.qsn) e.op = false) ∧ ((s.field f).held = false) ∧ ((tmmZeroRows d = true → passSegsFree (entriesBefore (s.plot f p).queue e.qsn) d md = true ∧ s.hostHolds f p e.qsn d md = false))) ∧
    (∃ (s : State) (f : FieldId) (p : PlotId) (e : QEntry) (d md : Nat), (s.hub.pwr.trip = false) ∧ ((s.plot f p).oldestTmm = some e) ∧ (e.op = .tmm d md) ∧ (tmmDegenerate d = true) ∧ (syncHeld (entriesBefore (s.plot f p).queue e.qsn) e.op = false) ∧ ((s.field f).held = false) ∧ ((tmmZeroRows d = true → passSegsFree (entriesBefore (s.plot f p).queue e.qsn) d md = true ∧ s.hostHolds f p e.qsn d md = false))) ∧
    (∃ (s : State) (f : FieldId) (p : PlotId) (e : QEntry) (d md : Nat), (s.hub.pwr.trip = false) ∧ ((s.plot f p).oldestTmm = some e) ∧ (e.op = .tmm d md) ∧ (tmmZeroRows d = true) ∧ (syncHeld (entriesBefore (s.plot f p).queue e.qsn) e.op = false) ∧ ((s.field f).held = false) ∧ (passSegsFree (entriesBefore (s.plot f p).queue e.qsn) d md = false ∨ s.hostHolds f p e.qsn d md = true)) ∧
    (∃ (s : State) (f : FieldId) (p : PlotId) (t : TineId), (s.passGate f p ∈ [.idle, .claim, .load false, .load true, .bin] ∨ s.stopWaits f p = true) ∧ (s.ballastOk f p = true) ∧ (s.partitionUp f = true)) ∧
    (∃ (s : State) (f : FieldId) (p : PlotId) (t : TineId) (e : QEntry) (d md : Nat), ((s.passGate f p = .ready e d md ∧ s.stopWaits f p = false) ∨ s.ballastOk f p = false ∨ s.partitionUp f = false)) ∧
    (∃ (s : State) (f : FieldId) (p : PlotId) (x : Sample) (l : List Sample), (s.hub.pwr.trip = false) ∧ ((s.plot f p).queue.any (fun e => decide (e.op.unit = 1) && decide (e.phase ≠ .waiting)) = false) ∧ ((s.plot f p).samples = x :: l) ∧ ((SMap.find (s.field f).drift.recs x.tag).isSome = true ∨ (s.field f).drift.recs.length < driftSize)) ∧
    (∃ (s : State) (f : FieldId) (p : PlotId) (x : Sample) (l : List Sample), (s.hub.pwr.trip = false) ∧ ((s.plot f p).queue.any (fun e => decide (e.op.unit = 1) && decide (e.phase ≠ .waiting)) = false) ∧ ((s.plot f p).samples = x :: l) ∧ (SMap.find (s.field f).drift.recs x.tag = none) ∧ (driftSize ≤ (s.field f).drift.recs.length)) ∧
    (∃ (s : State) (f : FieldId) (p : PlotId), ((s.plot f p).queue.any (fun e => decide (e.op.unit = 1) && decide (e.phase ≠ .waiting)) = true ∨ (s.plot f p).samples = [])) :=
  ⟨⟨withQueue [entry 0 (.tmm tmmOne 0) .running], 0, 0, entry 0 (.tmm tmmOne 0) .running, tmmOne, 0, by decide +kernel⟩,
   ⟨withQueue [entry 0 (.tmm tmmOne 0) .loaded], 0, 0, entry 0 (.tmm tmmOne 0) .loaded, tmmOne, 0, by decide +kernel⟩,
   ⟨withQueue [entry 0 (.tmm tmmNone 0) .waiting], 0, 0, entry 0 (.tmm tmmNone 0) .waiting, tmmNone, 0, by decide +kernel⟩,
   ⟨withQueue [entry 0 (.tmm tmmZero 0) .waiting], 0, 0, entry 0 (.tmm tmmZero 0) .waiting, tmmZero, 0, by decide +kernel⟩,
   ⟨withQueue [{ entry 0 (.tvec 0 0) .waiting with claims := [binClaim] }, entry 1 (.tmm tmmZero 0) .waiting], 0, 0, entry 1 (.tmm tmmZero 0) .waiting, tmmZero, 0, by decide +kernel⟩,
   ⟨(withQueue []).updField 0 (fun F => { F with thm := { F.thm with tokens := [(0, false)] } }), 0, 0, 0, by decide +kernel⟩,
   ⟨withQueue [], 0, 0, 0, entry 0 .tfence .waiting, 0, 0, by decide +kernel⟩,
   ⟨(withQueue []).updPlot 0 0 (fun P => { P with samples := [⟨0, [], [], 0, 0, false⟩] }), 0, 0, ⟨0, [], [], 0, 0, false⟩, [], by decide +kernel⟩,
   ⟨((withQueue []).updPlot 0 0 (fun P => { P with samples := [⟨0, [], [], 2000, 0, false⟩] })).updField 0 (fun F => { F with drift := { F.drift with recs := fullTable } }), 0, 0, ⟨0, [], [], 2000, 0, false⟩, [], by decide +kernel⟩,
   ⟨withQueue [], 0, 0, by decide +kernel⟩⟩

theorem wit_TileCommandsComplete_19_to_21 :
    (∃ (s : State) (f : FieldId) (p : PlotId) (t : TineId) (c : Fin 32) (b : Fin 64) (lane : Bool), (s.injOpenAt f = true) ∧ (s.freg f Reg.INJ_ARITH.ARM ≠ 1)) ∧
    (∃ (s : State) (f : FieldId) (p : PlotId) (t : TineId) (c : Fin 32) (b : Fin 64) (lane : Bool), (s.injOpenAt f = true) ∧ (s.freg f Reg.INJ_ARITH.ARM ≠ 1)) ∧
    (∃ (s : State) (f : FieldId) (p : PlotId) (t : TineId) (c : Fin 32) (b : Fin 64) (lane : Bool), (s.injOpenAt f = false ∨ s.freg f Reg.INJ_ARITH.ARM = 1)) ∧
    (∃ (s : State) (f : FieldId) (p : PlotId), (s.hub.pwr.trip = true)) :=
  ⟨⟨(withQueue []).hset Reg.HUB_INJ_STATUS.OPEN 1, 0, 0, 0, 0, 0, false, by decide +kernel⟩,
   ⟨(withQueue []).hset Reg.HUB_INJ_STATUS.OPEN 1, 0, 0, 0, 0, 50, false, by decide +kernel⟩,
   ⟨withQueue [], 0, 0, 0, 0, 0, false, by decide +kernel⟩,
   ⟨{ (withQueue []) with hub := { (withQueue []).hub with pwr := { (withQueue []).hub.pwr with trip := true } } }, 0, 0, by decide +kernel⟩⟩

/-! ### DrillExecutionCompletes: states and operands that meet the hypotheses of each clause, in the clauses' order. -/

theorem wit_DrillExecutionCompletes_0_to_9 :
    (∃ (s : State) (f : FieldId) (p : PlotId), (s.drillGo f p = true)) ∧
    (∃ (s : State) (f : FieldId) (p : PlotId) (h : Nat), (s.drillGo f p = true) ∧ ((s.plot f p).drill.fetchBase = (s.plot f p).drill.pc / 64 * 64) ∧ (SMap.find (s.plot f p).drill.fetchBuf (s.plot f p).drill.pc = some h) ∧ (h % 4 ≠ 3)) ∧
    (∃ (s : State) (f : FieldId) (p : PlotId) (h g : Nat), (s.drillGo f p = true) ∧ ((s.plot f p).drill.fetchBase = (s.plot f p).drill.pc / 64 * 64) ∧ ((s.plot f p).drill.pc % 64 < 62) ∧ ((s.plot f p).drill.pc + 2 < 2 ^ 32) ∧ (SMap.find (s.plot f p).drill.fetchBuf (s.plot f p).drill.pc = some h) ∧ (h % 4 = 3) ∧ (SMap.find (s.plot f p).drill.fetchBuf ((s.plot f p).drill.pc + 2) = some g)) ∧
    (∃ (s : State) (f : FieldId) (p : PlotId) (h : Nat) (op : AluOp) (rd rs1 rs2 : Nat), (s.drillGo f p = true) ∧ ((s.plot f p).drill.fetchBase = (s.plot f p).drill.pc / 64 * 64) ∧ (SMap.find (s.plot f p).drill.fetchBuf (s.plot f p).drill.pc = some h) ∧ (h % 4 ≠ 3) ∧ (decode16 h = .alu op rd rs1 rs2)) ∧
    (∃ (s : State) (f : FieldId) (p : PlotId) (k : LoadKind) (rd rs1 : Fin 32) (imm : Int) (c : Bool) (a : Nat), (s.drillGo f p = true) ∧ (effAddr ((s.plot f p).drill.x rs1) imm = a) ∧ (a % loadBytes k = 0) ∧ (a < storeEnd) ∧ (claimFree (s.plot f p).queue (claimOf false a (a + loadBytes k - 1)) = true) ∧ (errKind (SMap.get s.mem.storeErr[f] 0 (storeKey p (a / 8 * 8) / 8)) ≤ 1) ∧ (s.injArmedAt f injMem 4 p = false) ∧ (s.injArmedAt f injMem 5 p = false)) ∧
    (∃ (s : State) (f : FieldId) (p : PlotId) (rd rs1 : Fin 32) (imm : Int) (c : Bool) (a : Nat), (s.drillGo f p = true) ∧ (effAddr ((s.plot f p).drill.x rs1) imm = a) ∧ (a % 4 = 0) ∧ (storeEnd ≤ a) ∧ (a < 0x440000) ∧ (claimFree (s.plot f p).queue (claimOf false a (a + 3)) = true) ∧ ((s.plot f p).binFree a = true) ∧ (s.binPoisoned f p ((a - 0x400000) / 0x10000) ((a - 0x400000) % 0x10000 / 128) = false) ∧ (errKind (SMap.get s.mem.binErr[f] 0 (binKey p ((a - 0x400000) / 0x10000) ((a - 0x400000) % 0x10000 / 128) (a % 128 / 4))) ≤ 1)) ∧
    (∃ (s : State) (f : FieldId) (p : PlotId) (k : LoadKind) (rd rs1 : Fin 32) (imm : Int) (c : Bool) (a : Nat), (s.drillGo f p = true) ∧ (effAddr ((s.plot f p).drill.x rs1) imm = a) ∧ (a % loadBytes k = 0) ∧ (0x800000 ≤ a) ∧ (a < 0x804000)) ∧
    (∃ (s : State) (f : FieldId) (p : PlotId) (rd rs1 : Fin 32) (imm : Int) (c : Bool) (a : Nat), (s.drillGo f p = true) ∧ (effAddr ((s.plot f p).drill.x rs1) imm = a) ∧ (a % 4 = 0) ∧ (0xC00000 ≤ a) ∧ (a < 0xC01000)) ∧
    (∃ (s : State) (f : FieldId) (p : PlotId) (k : StoreKind) (rs2 rs1 : Fin 32) (imm : Int) (c : Bool) (a : Nat), (s.drillGo f p = true) ∧ (effAddr ((s.plot f p).drill.x rs1) imm = a) ∧ (a % storeBytes k = 0) ∧ (a < storeEnd) ∧ (claimFree (s.plot f p).queue (claimOf true a (a + storeBytes k - 1)) = true)) ∧
    (∃ (s : State) (f : FieldId) (p : PlotId) (rs2 rs1 : Fin 32) (imm : Int) (c : Bool) (a : Nat), (s.drillGo f p = true) ∧ (effAddr ((s.plot f p).drill.x rs1) imm = a) ∧ (a % 4 = 0) ∧ (storeEnd ≤ a) ∧ (a < 0x440000) ∧ (claimFree (s.plot f p).queue (claimOf true a (a + 3)) = true) ∧ ((s.plot f p).binFree a = true)) :=
  ⟨⟨fetched 0x852E, 0, 0, by decide +kernel⟩,
   ⟨fetched 0x852E, 0, 0, 0x852E, by decide +kernel⟩,
   ⟨(fetched 0x0513).updPlot 0 0 (fun P => { P with drill := { P.drill with fetchBuf := [(0, 0x0513), (2, 0x0050)] } }), 0, 0, 0x0513, 0x0050, by decide +kernel⟩,
   ⟨(fetched 0x852E).updPlot 0 0 (fun P => { P with drill := P.drill.setX 11 77 }), 0, 0, 0x852E, .add, 10, 0, 11, by decide +kernel⟩,
   ⟨(running 0).updMem (fun m => m.setStore 0 (Mem.write [] 8 [0x80, 0x81, 0x82, 0x83])), 0, 0, .lh, 5, 0, 10, true, 10, by decide +kernel⟩,
   ⟨((running 0).updMem (fun m => m.setBin 0 (binKey 0 1 2 3) 0x1234)).updDrill 0 0 (fun d => d.setX 6 0x41010C), 0, 0, 5, 6, 0, false, 0x41010C, by decide +kernel⟩,
   ⟨(running 0).updDrill 0 0 (fun d => d.setX 6 0x800000), 0, 0, .lbu, 5, 6, 1, false, 0x800001, by decide +kernel⟩,
   ⟨(running 0).updDrill 0 0 (fun d => d.setX 6 0xC00000), 0, 0, 5, 6, 0x20, false, 0xC00020, by decide +kernel⟩,
   ⟨(running 0).updDrill 0 0 (fun d => d.setX 6 0x123456), 0, 0, .sh, 6, 0, 2, false, 2, by decide +kernel⟩,
   ⟨(running 0).updDrill 0 0 (fun d => d.setX 6 0x400000), 0, 0, 6, 6, 4, false, 0x400004, by decide +kernel⟩⟩

theorem wit_DrillExecutionCompletes_10_to_18 :
    (∃ (s : State) (f : FieldId) (p : PlotId) (rs2 rs1 : Fin 32) (imm : Int) (c : Bool) (a : Nat), (s.drillGo f p = true) ∧ (effAddr ((s.plot f p).drill.x rs1) imm = a) ∧ (a % 4 = 0) ∧ (0xC00000 ≤ a) ∧ (a < 0xC01000)) ∧
    (∃ (s : State) (f : FieldId) (p : PlotId) (c : Bool), (s.drillGo f p = true)) ∧
    (∃ (s : State) (f : FieldId) (p : PlotId), (s.drillGo f p = true)) ∧
    (∃ (s : State) (f : FieldId) (p : PlotId), (s.drillGo f p = true)) ∧
    (∃ (s : State) (f : FieldId) (p : PlotId), (s.drillGo f p = true)) ∧
    (∃ (s : State) (f : FieldId) (p : PlotId), (s.drillGo f p = true)) ∧
    (∃ (s : State) (f : FieldId) (p : PlotId), (s.drillGo f p = true)) ∧
    (∃ (s : State) (f : FieldId) (p : PlotId), (s.drillGo f p = true)) ∧
    (∃ (s : State) (f : FieldId) (p : PlotId) (rd rs1 : Fin 32) (imm : Int) (c : Bool), (s.drillGo f p = true) ∧ (effAddr ((s.plot f p).drill.x rs1) imm = 0xC000AC)) ∧
    (∃ (s : State) (f : FieldId) (p : PlotId) (rd rs1 : Fin 32) (imm : Int) (c : Bool), (s.drillGo f p = true) ∧ (effAddr ((s.plot f p).drill.x rs1) imm ≠ 0xC000AC)) :=
  ⟨⟨(running 0).updDrill 0 0 (fun d => d.setX 6 0xC00000), 0, 0, 6, 6, 0x80, false, 0xC00080, by decide +kernel⟩,
   ⟨running 8, 0, 0, true, by decide +kernel⟩,
   ⟨running 8, 0, 0, by decide +kernel⟩,
   ⟨(running 8).updDrill 0 0 (fun d => { d with inTrap := true }), 0, 0, by decide +kernel⟩,
   ⟨(running 8).updDrill 0 0 (fun d => { d with mepc := 0x100, mpie := true }), 0, 0, by decide +kernel⟩,
   ⟨running 8, 0, 0, by decide +kernel⟩,
   ⟨running 8, 0, 0, by decide +kernel⟩,
   ⟨fetched 0, 0, 0, by decide +kernel⟩,
   ⟨((running 0).updDrill 0 0 (fun d => d.setX 6 0xC00000)).updPlot 0 0 (fun P => { P with cq := [0x1122334455667788, 5] }), 0, 0, 5, 6, 0xAC, false, by decide +kernel⟩,
   ⟨running 0, 0, 0, 5, 6, 0, false, by decide +kernel⟩⟩

theorem wit_DrillExecutionCompletes_19_to_19 : ∃ (s : State) (f : FieldId) (p : PlotId) (k : LoadKind) (m : StoreKind) (rd rs1 : Fin 32) (imm : Int) (c : Bool), (s.drillGo f p = false) :=
  ⟨rimOn, 0, 0, .lb, .sb, 5, 6, 0, false, by decide +kernel⟩

/-! ### DrillControlCompletes: states and operands that meet the hypotheses of each clause, in the clauses' order. -/

theorem wit_DrillControlCompletes_1_to_10 :
    (∃ (s : State) (f : FieldId) (p : PlotId), (s.vacant f p = false) ∧ (s.partitionUp f = true) ∧ ((s.plot f p).drill.st = .held)) ∧
    (∃ (s : State) (f : FieldId) (p : PlotId), (s.vacant f p = true ∨ s.partitionUp f = false ∨ (s.plot f p).drill.st ≠ .held)) ∧
    (∃ (s : State) (f : FieldId) (p : PlotId), ((s.plot f p).drill.st = .running ∨ (s.plot f p).drill.st = .waiting)) ∧
    (∃ (s : State) (f : FieldId) (p : PlotId), ((s.plot f p).drill.st ≠ .running) ∧ ((s.plot f p).drill.st ≠ .waiting)) ∧
    (∃ (s : State) (f : FieldId) (p : PlotId), (s.hub.pwr.trip = false) ∧ ((s.plot f p).drill.haltReq = true) ∧ ((s.plot f p).drill.st = .running ∨ (s.plot f p).drill.st = .waiting)) ∧
    (∃ (s : State) (f : FieldId) (p : PlotId), ((s.plot f p).drill.haltReq = false)) ∧
    (∃ (s : State) (f : FieldId) (p : PlotId), ((s.plot f p).drill.st = .halted)) ∧
    (∃ (s : State) (f : FieldId) (p : PlotId), ((s.plot f p).drill.st ≠ .halted)) ∧
    (∃ (s : State) (f : FieldId) (p : PlotId), (s.hub.pwr.trip = false) ∧ ((s.plot f p).drill.st = .waiting) ∧ ((s.plot f p).drill.wait = .wfi) ∧ ((s.plot f p).pendingInts ≠ [])) ∧
    (∃ (s : State) (f : FieldId) (p : PlotId), ((s.plot f p).drill.st ≠ .waiting ∨ (s.plot f p).drill.wait ≠ .wfi ∨ (s.plot f p).pendingInts = [])) :=
  ⟨⟨withQueue [], 0, 0, by decide +kernel⟩,
   ⟨running 0, 0, 0, by decide +kernel⟩,
   ⟨running 0, 0, 0, by decide +kernel⟩,
   ⟨withQueue [], 0, 0, by decide +kernel⟩,
   ⟨(running 0).updDrill 0 0 (fun d => { d with haltReq := true }), 0, 0, by decide +kernel⟩,
   ⟨running 0, 0, 0, by decide +kernel⟩,
   ⟨(running 0).updDrill 0 0 (fun d => { d with st := .halted }), 0, 0, by decide +kernel⟩,
   ⟨running 0, 0, 0, by decide +kernel⟩,
   ⟨((running 0).updDrill 0 0 (fun d => { d with st := .waiting, wait := .wfi, mieReg := 2 ^ 16 })).pset 0 0 Reg.PLT_DOORBELL.PENDING 1, 0, 0, by decide +kernel⟩,
   ⟨running 0, 0, 0, by decide +kernel⟩⟩

theorem wit_DrillControlCompletes_11_to_15 :
    (∃ (s : State) (f : FieldId) (p : PlotId) (rd x : Nat), (s.hub.pwr.trip = false) ∧ ((s.plot f p).drill.st = .waiting) ∧ ((s.plot f p).drill.wait = .twait rd x) ∧ ((s.plot f p).waitOver x = true)) ∧
    (∃ (s : State) (f : FieldId) (p : PlotId), ((s.plot f p).drill.st ≠ .waiting)) ∧
    (∃ (s : State) (f : FieldId) (p : PlotId), (s.hub.pwr.trip = true)) ∧
    (∃ (s : State) (f : FieldId) (p : PlotId), ((s.plot f p).drill.st = .running ∨ (s.plot f p).drill.st = .waiting) ∧ ((s.plot f p).drill.mie = true) ∧ ((s.plot f p).drill.haltReq = false) ∧ ((s.field f).held = false) ∧ (s.partitionUp f = true) ∧ ((s.plot f p).pendingInts ≠ [])) ∧
    (∃ (s : State) (f : FieldId) (p : PlotId), ((s.plot f p).drill.mie = false ∨ (s.plot f p).pendingInts = [])) :=
  ⟨⟨(running 0).updDrill 0 0 (fun d => { d with st := .waiting, wait := .twait 1 0 }), 0, 0, 1, 0, by decide +kernel⟩,
   ⟨running 0, 0, 0, by decide +kernel⟩,
   ⟨(running 0).updPwr (fun P => { P with trip := true }), 0, 0, by decide +kernel⟩,
   ⟨((running 0).updDrill 0 0 (fun d => { d with mie := true, mieReg := 2 ^ 16 })).pset 0 0 Reg.PLT_DOORBELL.PENDING 1, 0, 0, by decide +kernel⟩,
   ⟨running 0, 0, 0, by decide +kernel⟩⟩

/-! ### TileIssueCompletes: states and operands that meet the hypotheses of each clause, in the clauses' order. -/

theorem wit_TileIssueCompletes_0_to_9 :
    (∃ (s : State) (f : FieldId) (p : PlotId) (dr : Fin 8) (rs1 : Fin 32) (a : Nat), (s.drillGo f p = true) ∧ ((s.plot f p).drill.x rs1 = a) ∧ (a % 64 = 0) ∧ (a < storeEnd) ∧ (claimFree (s.plot f p).queue (claimOf false a (a + 63)) = true) ∧ ((List.range 8).all (fun i => decide (errKind (SMap.get s.mem.storeErr[f] 0 (storeKey p a / 8 + i)) ≤ 1)) = true) ∧ (s.injArmedAt f injMem 4 p = false) ∧ (s.injArmedAt f injMem 5 p = false)) ∧
    (∃ (s : State) (f : FieldId) (p : PlotId) (dr : Fin 8) (rs1 : Fin 32) (w : Fin 16), (s.drillGo f p = true)) ∧
    (∃ (s : State) (f : FieldId) (p : PlotId) (rd : Fin 32) (dr : Fin 8) (w : Fin 16), (s.drillGo f p = true)) ∧
    (∃ (s : State) (f : FieldId) (p : PlotId) (rd : Fin 32) (dr : Fin 8) (rs2 : Fin 32) (int : Bool) (d md : Nat), (s.drillGo f p = true) ∧ ((s.plot f p).queue.length < queueSize) ∧ (SMap.get (s.plot f p).dr 0 dr = d) ∧ ((s.plot f p).drill.x rs2 = md) ∧ (tmmRefusal (s.plot f p).loadAtIssue d md = none)) ∧
    (∃ (s : State) (f : FieldId) (p : PlotId) (rd : Fin 32) (dr : Fin 8) (rs2 : Fin 32) (int : Bool) (d md c : Nat), (s.drillGo f p = true) ∧ ((s.plot f p).queue.length < queueSize) ∧ (SMap.get (s.plot f p).dr 0 dr = d) ∧ ((s.plot f p).drill.x rs2 = md) ∧ (tmmRefusal (s.plot f p).loadAtIssue d md = some c) ∧ ((s.plot f p).cq.length < cqSize)) ∧
    (∃ (s : State) (f : FieldId) (p : PlotId) (rd : Fin 32) (dr : Fin 8) (rs2 : Fin 32) (int : Bool) (d md : Nat), (s.drillGo f p = true) ∧ ((s.plot f p).queue.length < queueSize) ∧ (SMap.get (s.plot f p).dr 0 dr = d) ∧ ((s.plot f p).drill.x rs2 = md) ∧ (tvecRefusal d md = none)) ∧
    (∃ (s : State) (f : FieldId) (p : PlotId) (rd : Fin 32) (dr : Fin 8) (rs2 : Fin 32) (int : Bool) (d md c : Nat), (s.drillGo f p = true) ∧ ((s.plot f p).queue.length < queueSize) ∧ (SMap.get (s.plot f p).dr 0 dr = d) ∧ ((s.plot f p).drill.x rs2 = md) ∧ (tvecRefusal d md = some c) ∧ ((s.plot f p).cq.length < cqSize)) ∧
    (∃ (s : State) (f : FieldId) (p : PlotId) (rd : Fin 32) (int : Bool), (s.drillGo f p = true) ∧ ((s.plot f p).queue.length < queueSize)) ∧
    (∃ (s : State) (f : FieldId) (p : PlotId) (rd : Fin 32) (int : Bool), (s.drillGo f p = true) ∧ ((s.plot f p).queue.length < queueSize)) ∧
    (∃ (s : State) (f : FieldId) (p : PlotId) (rd rs1 : Fin 32) (int : Bool), (s.drillGo f p = true) ∧ ((s.plot f p).queue.length < queueSize)) :=
  ⟨⟨running 0, 0, 0, 0, 0, 0, by decide +kernel⟩,
   ⟨running 0, 0, 0, 0, 0, 0, by decide +kernel⟩,
   ⟨running 0, 0, 0, 1, 0, 0, by decide +kernel⟩,
   ⟨(running 0).updPlot 0 0 (fun P => { P with dr := [(1, tmmOne)] }), 0, 0, 1, 1, 0, true, tmmOne, 0, by decide +kernel⟩,
   ⟨running 0, 0, 0, 1, 1, 0, true, 0, 0, 1793, by decide +kernel⟩,
   ⟨running 0, 0, 0, 1, 1, 0, true, 0, 0, by decide +kernel⟩,
   ⟨(running 0).updPlot 0 0 (fun P => { P with dr := [(1, 0xFF)] }), 0, 0, 1, 1, 0, true, 0xFF, 0, 1799, by decide +kernel⟩,
   ⟨running 0, 0, 0, 1, 1, by decide +kernel⟩,
   ⟨running 0, 0, 0, 1, 1, by decide +kernel⟩,
   ⟨running 0, 0, 0, 1, 1, 1, by decide +kernel⟩⟩

theorem wit_TileIssueCompletes_10_to_14 :
    (∃ (s : State) (f : FieldId) (p : PlotId) (rd rs1 : Fin 32) (a d : Nat), (s.drillGo f p = true) ∧ ((s.plot f p).drill.x rs1 = a) ∧ (a % 64 = 0) ∧ (a < storeEnd) ∧ ((s.plot f p).queue.length < queueSize) ∧ (claimFree (s.plot f p).queue (claimOf false a (a + 63)) = true) ∧ ((List.range 8).all (fun i => decide (errKind (SMap.get s.mem.storeErr[f] 0 (storeKey p a / 8 + i)) ≤ 1)) = true) ∧ (s.injArmedAt f injMem 4 p = false) ∧ (s.injArmedAt f injMem 5 p = false) ∧ (leNat (Mem.read s.mem.store[f] (storeKey p a) 64) = d) ∧ (txferRefusal d = none)) ∧
    (∃ (s : State) (f : FieldId) (p : PlotId) (rd rs1 : Fin 32) (a d c : Nat), (s.drillGo f p = true) ∧ ((s.plot f p).drill.x rs1 = a) ∧ (a % 64 = 0) ∧ (a < storeEnd) ∧ ((s.plot f p).queue.length < queueSize) ∧ (claimFree (s.plot f p).queue (claimOf false a (a + 63)) = true) ∧ ((List.range 8).all (fun i => decide (errKind (SMap.get s.mem.storeErr[f] 0 (storeKey p a / 8 + i)) ≤ 1)) = true) ∧ (s.injArmedAt f injMem 4 p = false) ∧ (s.injArmedAt f injMem 5 p = false) ∧ (leNat (Mem.read s.mem.store[f] (storeKey p a) 64) = d) ∧ (txferRefusal d = some c) ∧ ((s.plot f p).cq.length < cqSize)) ∧
    (∃ (s : State) (f : FieldId) (p : PlotId) (rd rs1 : Fin 32), (s.drillGo f p = true)) ∧
    (∃ (s : State) (f : FieldId) (p : PlotId) (rd rs1 : Fin 32) (dr : Fin 8) (w : Fin 16) (int : Bool), (s.drillGo f p = true) ∧ (queueSize ≤ (s.plot f p).queue.length)) ∧
    (∃ (s : State) (f : FieldId) (p : PlotId) (rd rs1 : Fin 32) (dr : Fin 8) (w : Fin 16) (int : Bool), (s.drillGo f p = false)) :=
  ⟨⟨(running 0).updMem (fun m => m.setStore 0 (Mem.write [] 0 (leBytes 64 xferOne))), 0, 0, 1, 0, 0, xferOne, by decide +kernel⟩,
   ⟨(running 0).updMem (fun m => m.setStore 0 (Mem.write [] 0 (leBytes 64 0xFF))), 0, 0, 1, 0, 0, 0xFF, 516, by decide +kernel⟩,
   ⟨running 0, 0, 0, 1, 0, by decide +kernel⟩,
   ⟨(running 0).updPlot 0 0 (fun P => { P with queue := List.replicate 32 (entry 0 .tfence .waiting) }), 0, 0, 1, 0, 0, 0, false, by decide +kernel⟩,
   ⟨rimOn, 0, 0, 1, 0, 0, 0, false, by decide +kernel⟩⟩

/-! ### SyncCommandsComplete: states and operands that meet the hypotheses of each clause, in the clauses' order. -/

theorem wit_SyncCommandsComplete_0_to_9 :
    (∃ (s : State) (f : FieldId) (p : PlotId) (e : QEntry) (l : List QEntry), (s.hub.pwr.trip = false) ∧ ((s.plot f p).queue = e :: l) ∧ (e.op = .tfence)) ∧
    (∃ (s : State) (f : FieldId) (p : PlotId), ((s.plot f p).queue.head?.map QEntry.op ≠ some .tfence)) ∧
    (∃ (s : State) (f : FieldId) (p : PlotId) (e : QEntry), (s.hub.pwr.trip = false) ∧ ((s.plot f p).queue.find? (fun e => decide (e.op = .tscdrain) && decide (e.phase = .waiting)) = some e) ∧ ((entriesBefore (s.plot f p).queue e.qsn).all (fun x => decide (x.op.unit ≠ 0)) = true) ∧ (syncTurn (entriesBefore (s.plot f p).queue e.qsn) = true) ∧ (syncHeld (entriesBefore (s.plot f p).queue e.qsn) .tfence = false)) ∧
    (∃ (s : State) (f : FieldId) (p : PlotId) (e : QEntry), ((s.plot f p).queue.find? (fun e => decide (e.op = .tscdrain) && decide (e.phase = .waiting)) = some e) ∧ ((entriesBefore (s.plot f p).queue e.qsn).all (fun x => decide (x.op.unit ≠ 0)) = false ∨ syncTurn (entriesBefore (s.plot f p).queue e.qsn) = false ∨ syncHeld (entriesBefore (s.plot f p).queue e.qsn) .tfence = true)) ∧
    (∃ (s : State) (f : FieldId) (p : PlotId), ((s.plot f p).queue.find? (fun e => decide (e.op = .tscdrain) && decide (e.phase = .waiting)) = none)) ∧
    (∃ (s : State) (f : FieldId) (p : PlotId) (e : QEntry), (s.hub.pwr.trip = false) ∧ ((s.plot f p).queue.find? (fun e => decide (e.op = .tscdrain) && decide (e.phase = .running)) = some e) ∧ ((s.plot f p).samples = [])) ∧
    (∃ (s : State) (f : FieldId) (p : PlotId), ((s.plot f p).samples ≠ [] ∨ (s.plot f p).queue.find? (fun e => decide (e.op = .tscdrain) && decide (e.phase = .running)) = none)) ∧
    (∃ (s : State) (f : FieldId) (p : PlotId) (e : QEntry) (x : Nat), (s.hub.pwr.trip = false) ∧ ((s.plot f p).nextFence = some e) ∧ (e.op = .trfence x) ∧ (s.fenceReady f p e = true) ∧ (bit x 16 = false) ∧ (nodeNamed (bits x 0 16) = false)) ∧
    (∃ (s : State) (f : FieldId) (p : PlotId) (e : QEntry) (x : Nat), (s.hub.pwr.trip = false) ∧ ((s.plot f p).nextFence = some e) ∧ (e.op = .trfence x) ∧ (s.fenceReady f p e = true) ∧ (bit x 16 = true ∨ nodeNamed (bits x 0 16) = true) ∧ (s.halted f = true)) ∧
    (∃ (s : State) (f : FieldId) (p : PlotId) (e : QEntry) (x : Nat), (s.hub.pwr.trip = false) ∧ ((s.plot f p).nextFence = some e) ∧ (e.op = .trfence x) ∧ (s.fenceReady f p e = true) ∧ (bit x 16 = true ∨ nodeNamed (bits x 0 16) = true) ∧ (s.halted f = false)) :=
  ⟨⟨withQueue [entry 1 .tfence .waiting, entry 2 .tfence .waiting], 0, 0, entry 1 .tfence .waiting, [entry 2 .tfence .waiting], by decide +kernel⟩,
   ⟨withQueue [entry 2 .tscdrain .waiting, entry 1 .tfence .waiting], 0, 0, by decide +kernel⟩,
   ⟨withQueue [entry 2 (.txfer 1) .waiting, entry 1 .tscdrain .waiting], 0, 0, entry 1 .tscdrain .waiting, by decide +kernel⟩,
   ⟨withQueue [entry 2 .tfence .waiting, entry 1 .tscdrain .waiting], 0, 0, entry 1 .tscdrain .waiting, by decide +kernel⟩,
   ⟨withQueue [], 0, 0, by decide +kernel⟩,
   ⟨withQueue [entry 1 .tscdrain .running], 0, 0, entry 1 .tscdrain .running, by decide +kernel⟩,
   ⟨withQueue [], 0, 0, by decide +kernel⟩,
   ⟨withQueue [entry 1 (.trfence 0x2000) .waiting], 0, 0, entry 1 (.trfence 0x2000) .waiting, 0x2000, by decide +kernel⟩,
   ⟨(withQueue [entry 1 (.trfence 1) .waiting]).fset 0 Reg.GWY_ALLOT_HALT.HALTED 1, 0, 0, entry 1 (.trfence 1) .waiting, 1, by decide +kernel⟩,
   ⟨withQueue [entry 1 (.trfence 0x10000) .waiting], 0, 0, entry 1 (.trfence 0x10000) .waiting, 0x10000, by decide +kernel⟩⟩

theorem wit_SyncCommandsComplete_10_to_15 :
    (∃ (s : State) (f : FieldId) (p : PlotId) (e : QEntry) (x : Nat), (s.hub.pwr.trip = false) ∧ ((s.plot f p).nextFence = some e) ∧ (e.op = .trfence x) ∧ (s.fenceReady f p e = true) ∧ (bit x 16 = true ∨ nodeNamed (bits x 0 16) = true) ∧ (s.halted f = false) ∧ ((s.gw f).lines = []) ∧ ((s.gw f).fences = []) ∧ ((s.gw f).redSent.all (fun y => !y.2) = true)) ∧
    (∃ (s : State) (f : FieldId) (p : PlotId) (e : QEntry), ((s.plot f p).nextFence = some e) ∧ (s.fenceReady f p e = false)) ∧
    (∃ (s : State) (f : FieldId) (p : PlotId), ((s.plot f p).nextFence = none)) ∧
    (∃ (s : State) (f : FieldId) (p : PlotId) (e : QEntry), (s.hub.pwr.trip = false) ∧ ((s.plot f p).answeredFence = some e)) ∧
    (∃ (s : State) (f : FieldId) (p : PlotId), ((s.plot f p).answeredFence = none)) ∧
    (∃ (s : State) (f : FieldId) (p : PlotId), (s.hub.pwr.trip = true)) :=
  ⟨⟨withQueue [entry 1 (.trfence 0x1FFF) .waiting], 0, 0, entry 1 (.trfence 0x1FFF) .waiting, 0x1FFF, by decide +kernel⟩,
   ⟨withQueue [entry 2 (.txfer xferOne) .waiting, entry 1 (.trfence 0x1FFF) .waiting], 0, 0, entry 1 (.trfence 0x1FFF) .waiting, by decide +kernel⟩,
   ⟨withQueue [], 0, 0, by decide +kernel⟩,
   ⟨withQueue [entry 1 (.trfence 1) .done], 0, 0, entry 1 (.trfence 1) .done, by decide +kernel⟩,
   ⟨withQueue [entry 1 (.trfence 1) .running], 0, 0, by decide +kernel⟩,
   ⟨(withQueue []).updPwr (fun P => { P with trip := true }), 0, 0, by decide +kernel⟩⟩

/-! ### TransferCommandsComplete: states and operands that meet the hypotheses of each clause, in the clauses' order. -/

theorem wit_TransferCommandsComplete_0_to_6 :
    (∃ (s : State) (f : FieldId) (p : PlotId) (e : QEntry) (d : Nat) (before : List QEntry), (s.hub.pwr.trip = false) ∧ ((s.plot f p).xferNext = some (e, d, before)) ∧ ((s.field f).held = false) ∧ (e.claims.all (claimFree before) = true) ∧ (e.claims.any (claimBusySeg before) = false) ∧ (xfOp d = 0)) ∧
    (∃ (s : State) (f : FieldId) (p : PlotId) (e : QEntry) (d : Nat) (before : List QEntry), (s.hub.pwr.trip = false) ∧ ((s.plot f p).xferNext = some (e, d, before)) ∧ ((s.field f).held = false) ∧ (e.claims.all (claimFree before) = true) ∧ (e.claims.any (claimBusySeg before) = false) ∧ (∃ x ∈ ([(.xferGet f p, 1), (.xferPut f p, 2), (.xferPutPartial f p, 3), (.xferPutReduce f p, 4), (.xferMcastPut f p, 5),
    (.xferFetchAdd f p, 6), (.xferCompareSwap f p, 7)] : List (Instr × Nat)), (xfOp d = x.2))) ∧
    (∃ (s : State) (f : FieldId) (p : PlotId) (e : QEntry) (d : Nat) (before : List QEntry), (s.hub.pwr.trip = false) ∧ ((s.plot f p).xferNext = some (e, d, before)) ∧ ((s.field f).held = false) ∧ (e.claims.all (claimFree before) = true) ∧ (e.claims.any (claimBusySeg before) = false) ∧ (∃ x ∈ ([(.xferGet f p, 1), (.xferPut f p, 2), (.xferPutPartial f p, 3), (.xferPutReduce f p, 4), (.xferMcastPut f p, 5),
    (.xferFetchAdd f p, 6), (.xferCompareSwap f p, 7)] : List (Instr × Nat)), (xfOp d = x.2))) ∧
    (∃ (s : State) (f : FieldId) (p : PlotId) (e : QEntry) (d : Nat) (before : List QEntry), (s.hub.pwr.trip = false) ∧ ((s.plot f p).xferNext = some (e, d, before)) ∧ ((s.field f).held = false) ∧ (e.claims.all (claimFree before) = true) ∧ (e.claims.any (claimBusySeg before) = false) ∧ (∃ x ∈ ([(.xferGet f p, 1), (.xferPut f p, 2), (.xferPutPartial f p, 3), (.xferPutReduce f p, 4), (.xferMcastPut f p, 5),
    (.xferFetchAdd f p, 6), (.xferCompareSwap f p, 7)] : List (Instr × Nat)), (xfOp d = x.2))) ∧
    (∃ (s : State) (f : FieldId) (p : PlotId) (e : QEntry) (d : Nat) (before : List QEntry), (s.hub.pwr.trip = false) ∧ ((s.plot f p).xferNext = some (e, d, before)) ∧ ((s.field f).held = false) ∧ (e.claims.all (claimFree before) = false ∨ e.claims.any (claimBusySeg before) = true) ∧ (∃ x ∈ ([(.xferNop f p, 0), (.xferGet f p, 1), (.xferPut f p, 2), (.xferPutPartial f p, 3), (.xferPutReduce f p, 4), (.xferMcastPut f p, 5),
    (.xferFetchAdd f p, 6), (.xferCompareSwap f p, 7)] : List (Instr × Nat)), (xfOp d = x.2))) ∧
    (∃ (s : State) (f : FieldId) (p : PlotId) (e : QEntry) (d : Nat) (before : List QEntry), (s.hub.pwr.trip = false) ∧ ((s.plot f p).xferNext = some (e, d, before)) ∧ ((s.field f).held = false) ∧ (e.claims.all (claimFree before) = false ∨ e.claims.any (claimBusySeg before) = true) ∧ (∃ x ∈ ([(.xferNop f p, 0), (.xferGet f p, 1), (.xferPut f p, 2), (.xferPutPartial f p, 3), (.xferPutReduce f p, 4), (.xferMcastPut f p, 5),
    (.xferFetchAdd f p, 6), (.xferCompareSwap f p, 7)] : List (Instr × Nat)), (xfOp d = x.2))) ∧
    (∃ (s : State) (f : FieldId) (p : PlotId) (e : QEntry) (d : Nat), (s.hub.pwr.trip = false) ∧ (s.svc f ≠ svcDark) ∧ ((s.plot f p).xferOutstanding < xferLimit) ∧ ((s.plot f p).xferTurn = some (e, d))) ∧
    (∃ (s : State) (f : FieldId) (p : PlotId), (s.svc f = svcDark ∨ xferLimit ≤ (s.plot f p).xferOutstanding ∨ (s.plot f p).xferTurn = none)) ∧
    (∃ (s : State) (f : FieldId) (p : PlotId), (s.svc f = svcDark ∨ xferLimit ≤ (s.plot f p).xferOutstanding ∨ (s.plot f p).xferTurn = none)) ∧
    (∃ (s : State) (f : FieldId) (p : PlotId) (q n : Nat) (x : XLine), ((x.op = 1 → s.hub.pwr.trip = false)) ∧ (s.svc f ≠ svcDark) ∧ ((s.plot f p).xlines.find? (fun x => decide (x.qsn = q) && decide (x.line = n)) = some x) ∧ (s.xlineOwn f x = true) ∧ (((s.plot f p).xlines.takeWhile (fun y => decide (y ≠ x))).any (fun y => s.xlineOwn f y && decide (y.addr / 128 = x.addr / 128)) = false)) :=
  ⟨⟨withQueue [entry 1 (.txfer (xferOp 0)) .waiting], 0, 0, entry 1 (.txfer (xferOp 0)) .waiting, xferOp 0, [], by decide +kernel⟩,
   ⟨withQueue [entry 1 (.txfer (xferOp 1)) .waiting], 0, 0, entry 1 (.txfer (xferOp 1)) .waiting, xferOp 1, [], by decide +kernel⟩,
   ⟨withQueue [entry 1 (.txfer (xferOp 5)) .waiting], 0, 0, entry 1 (.txfer (xferOp 5)) .waiting, xferOp 5, [], by decide +kernel⟩,
   ⟨withQueue [entry 1 (.txfer (xferOp 7)) .waiting], 0, 0, entry 1 (.txfer (xferOp 7)) .waiting, xferOp 7, [], by decide +kernel⟩,
   ⟨withQueue [{ entry 1 (.tvec 0 0) .waiting with claims := [someClaim] }, { entry 2 (.txfer (xferOp 3)) .waiting with claims := [someClaim] }], 0, 0, { entry 2 (.txfer (xferOp 3)) .waiting with claims := [someClaim] }, xferOp 3, [{ entry 1 (.tvec 0 0) .waiting with claims := [someClaim] }], by decide +kernel⟩,
   ⟨withQueue [entry 1 (.tmm tmmOne 0) .waiting, { entry 2 (.txfer (xferOp 1)) .waiting with claims := [binClaim] }], 0, 0, { entry 2 (.txfer (xferOp 1)) .waiting with claims := [binClaim] }, xferOp 1, [entry 1 (.tmm tmmOne 0) .waiting], by decide +kernel⟩,
   ⟨withQueue [entry 1 (.txfer xferOne) .running], 0, 0, entry 1 (.txfer xferOne) .running, xferOne, by decide +kernel⟩,
   ⟨darkField, 0, 0, by decide +kernel⟩,
   ⟨withQueue [], 0, 0, by decide +kernel⟩,
   ⟨(withQueue [entry 1 (.txfer xferOne) .running]).updPlot 0 0 (fun P => { P with xlines := [{ ownLine with qsn := 1 }] }), 0, 0, 1, 0, { ownLine with qsn := 1 }, by decide +kernel⟩⟩

theorem wit_TransferCommandsComplete_7_to_12 :
    (∃ (s : State) (f : FieldId) (p : PlotId) (q n : Nat), (s.svc f = svcDark ∨ (s.plot f p).xlines.find? (fun x => decide (x.qsn = q) && decide (x.line = n)) = none)) ∧
    (∃ (s : State) (f : FieldId) (p : PlotId) (q n : Nat) (x : XLine), (s.svc f ≠ svcDark) ∧ ((s.plot f p).xlines.find? (fun x => decide (x.qsn = q) && decide (x.line = n)) = some x) ∧ (s.xlineOwn f x = false ∨ ((s.plot f p).xlines.takeWhile (fun y => decide (y ≠ x))).any (fun y => s.xlineOwn f y && decide (y.addr / 128 = x.addr / 128)) = true)) ∧
    (∃ (s : State) (f : FieldId) (p : PlotId) (q : Nat) (e : QEntry) (d : Nat), (s.hub.pwr.trip = false) ∧ ((s.plot f p).queue.find? (fun e => decide (e.qsn = q) && decide (e.phase = .running)) = some e) ∧ (e.op = .txfer d) ∧ (e.issued = xfLines d) ∧ (e.outstanding = [])) ∧
    (∃ (s : State) (f : FieldId) (p : PlotId) (q : Nat), ((s.plot f p).queue.find? (fun e => decide (e.qsn = q) && decide (e.phase = .running)) = none)) ∧
    (∃ (s : State) (f : FieldId) (p : PlotId) (q : Nat) (e : QEntry) (d : Nat), ((s.plot f p).queue.find? (fun e => decide (e.qsn = q) && decide (e.phase = .running)) = some e) ∧ (e.op = .txfer d) ∧ (e.issued ≠ xfLines d ∨ e.outstanding ≠ [])) ∧
    (∃ (s : State) (f : FieldId) (p : PlotId) (q : Nat), (s.hub.pwr.trip = true)) :=
  ⟨⟨withQueue [], 0, 0, 1, 0, by decide +kernel⟩,
   ⟨(withQueue [entry 1 (.txfer xferOne) .running]).updPlot 0 0 (fun P => { P with xlines := [{ ownLine with qsn := 1, dst := 9 }] }), 0, 0, 1, 0, { ownLine with qsn := 1, dst := 9 }, by decide +kernel⟩,
   ⟨withQueue [{ entry 1 (.txfer xferOne) .running with issued := 1 }], 0, 0, 1, { entry 1 (.txfer xferOne) .running with issued := 1 }, xferOne, by decide +kernel⟩,
   ⟨withQueue [], 0, 0, 1, by decide +kernel⟩,
   ⟨withQueue [entry 1 (.txfer xferOne) .running], 0, 0, 1, entry 1 (.txfer xferOne) .running, xferOne, by decide +kernel⟩,
   ⟨(withQueue []).updPwr (fun P => { P with trip := true }), 0, 0, 0, by decide +kernel⟩⟩

/-! ### DoorbellsAndMailboxesComplete: states and operands that meet the hypotheses of each clause, in the clauses' order. -/

theorem wit_DoorbellsAndMailboxesComplete_0_to_5 :
    (∃ (s : State) (f : FieldId) (p : PlotId) (v : Nat), (s.vacant f p = false) ∧ (s.partitionUp f = true)) ∧
    (∃ (s : State) (f : FieldId) (p : PlotId) (v : Nat), (s.vacant f p = false) ∧ (s.partitionUp f = true)) ∧
    (∃ (s : State) (f : FieldId) (p : PlotId) (v : Nat) (c : Fin 4), (s.partitionUp f = true)) ∧
    (∃ (s : State) (f : FieldId) (p : PlotId) (v : Nat) (c : Fin 4), (s.partitionUp f = true)) ∧
    (∃ (s : State) (f : FieldId) (p : PlotId) (v : Nat) (c : Fin 4), (s.partitionUp f = true)) ∧
    (∃ (s : State) (f : FieldId) (p : PlotId) (v : Nat) (c : Fin 4), (s.partitionUp f = true)) ∧
    (∃ (s : State) (f : FieldId) (p : PlotId) (v : Nat), (s.vacant f p = false) ∧ (s.partitionUp f = true)) ∧
    (∃ (s : State) (f : FieldId) (p : PlotId) (v : Nat), (s.vacant f p = false) ∧ (s.partitionUp f = true)) ∧
    (∃ (s : State) (f : FieldId) (p : PlotId) (v : Nat), (s.vacant f p = false) ∧ (s.partitionUp f = true)) ∧
    (∃ (s : State) (f : FieldId) (p : PlotId) (v : Nat) (c : Fin 4) (leaves : Bool), (s.partitionUp f = false)) :=
  ⟨⟨withQueue [], 0, 0, 5, by decide +kernel⟩,
   ⟨withQueue [], 0, 0, 5, by decide +kernel⟩,
   ⟨withQueue [], 0, 3, 5, 1, by decide +kernel⟩,
   ⟨withQueue [], 0, 3, 5, 3, by decide +kernel⟩,
   ⟨withQueue [], 0, 3, 5, 2, by decide +kernel⟩,
   ⟨(withQueue []).pset 0 3 Reg.PLT_DOORBELL.PENDING 8, 0, 3, 5, 0, by decide +kernel⟩,
   ⟨withQueue [], 0, 3, 5, by decide +kernel⟩,
   ⟨(withQueue []).updPlot 0 3 (fun P => { P with notify := some 9 }), 0, 3, 5, by decide +kernel⟩,
   ⟨withQueue [], 0, 3, 5, by decide +kernel⟩,
   ⟨darkField, 0, 3, 5, 2, true, by decide +kernel⟩⟩

theorem wit_DoorbellsAndMailboxesComplete_6_to_15 :
    (∃ (s : State) (f : FieldId) (p : PlotId) (v : Nat) (leaves : Bool), (s.vacant f p = true)) ∧
    (∃ (s : State) (ep : MbxEp), (s.mbx ep .pending ≠ 1) ∧ (s.slot (s.mbxPeer ep) = .free)) ∧
    (∃ (s : State) (ep : MbxEp), (s.mbx ep .pending ≠ 1) ∧ (s.slot (s.mbxPeer ep) ≠ .free)) ∧
    (∃ (s : State) (ep : MbxEp), (s.mbx ep .pending = 1)) ∧
    (∃ (s : State) (ep e : MbxEp) (live : Bool) (ptr tag epoch : Nat), (s.slot ep = .claimed e live ptr tag epoch) ∧ (s.mbxCanTake ep = true) ∧ (epoch = s.mbx ep .role)) ∧
    (∃ (s : State) (ep e : MbxEp) (live : Bool) (ptr tag epoch : Nat), (s.slot ep = .claimed e live ptr tag epoch) ∧ (s.mbxCanTake ep = true) ∧ (epoch ≠ s.mbx ep .role)) ∧
    (∃ (s : State) (ep e : MbxEp) (live : Bool) (ptr tag epoch : Nat), (s.slot ep = .claimed e live ptr tag epoch) ∧ (s.mbxCanTake ep = false)) ∧
    (∃ (s : State) (ep e : MbxEp) (live : Bool), (s.slot ep = .free ∨ s.slot ep = .delivered e live)) ∧
    (∃ (s : State) (ep e : MbxEp) (live : Bool) (code : Nat), (s.mbx ep .inFull ≠ 0) ∧ (s.slot ep = .delivered e live)) ∧
    (∃ (s : State) (ep : MbxEp) (code : Nat), (s.mbx ep .inFull = 0)) :=
  ⟨⟨vacantPlot, 0, 3, 5, true, by decide +kernel⟩,
   ⟨rimOn.mbxSet (.yzr 0) .outPtr 4096, .yzr 0, by decide +kernel⟩,
   ⟨claimedSlot, .yzr 0, by decide +kernel⟩,
   ⟨claimedSlot.mbxSet (.yzr 0) .pending 1, .yzr 0, by decide +kernel⟩,
   ⟨claimedSlot, .fld 0, .yzr 0, true, 4096, 7, 0, by decide +kernel⟩,
   ⟨claimedSlot.mbxSet (.fld 0) .role 3, .fld 0, .yzr 0, true, 4096, 7, 0, by decide +kernel⟩,
   ⟨claimedSlot.hset Reg.HUB_FIELD_STATE.STATE svcDark 0 0, .fld 0, .yzr 0, true, 4096, 7, 0, by decide +kernel⟩,
   ⟨deliveredSlot, .fld 0, .yzr 0, true, by decide +kernel⟩,
   ⟨deliveredSlot, .fld 0, .yzr 0, true, 0x1234, by decide +kernel⟩,
   ⟨claimedSlot, .fld 0, 0x1234, by decide +kernel⟩⟩

/-! ### WritesStayInTheirLines: states and operands that meet the hypotheses of each clause, in the clauses' order. -/

theorem wit_WritesStayInTheirLines_0_to_7 :
    (∃ (s : State) (f : FieldId) (p : Packet), (s.linesWhole f) ∧ ((rhOf p).kind = kPutPartial ∨ p.cls ≠ 5) ∧ ((∀ x ∈ (s.flowRx f p.src).held, ∀ y ∈ x.pkt, (rhOf y).kind = kPutPartial ∨ ((rhOf y).kind = kPut ∧ y.cls ≠ 5)))) ∧
    (∃ (s : State) (f : FieldId) (p : Packet), (s.linesWhole f) ∧ ((rhOf p).kind = kPutPartial ∨ p.cls ≠ 5) ∧ ((∀ x ∈ (s.flowRx f p.src).held, ∀ y ∈ x.pkt, (rhOf y).kind = kPutPartial ∨ ((rhOf y).kind = kPut ∧ y.cls ≠ 5)))) ∧
    (∃ (s : State) (f : FieldId) (p : Packet), (s.linesWhole f) ∧ ((rhOf p).kind = kPutPartial ∨ p.cls ≠ 5) ∧ ((∀ x ∈ (s.flowRx f p.src).held, ∀ y ∈ x.pkt, (rhOf y).kind = kPutPartial ∨ ((rhOf y).kind = kPut ∧ y.cls ≠ 5)))) ∧
    (∃ (s : State) (f : FieldId) (p : Packet), (s.linesWhole f)) ∧
    (∃ (s : State) (f : FieldId) (p : Packet), (s.linesWhole f)) ∧
    (∃ (s : State) (f : FieldId) (p : PlotId) (q n : Nat) (x : XLine), ((s.plot f p).xlines.find? (fun x => decide (x.qsn = q) && decide (x.line = n)) = some x) ∧ (x.op = 1)) ∧
    (∃ (s : State) (f : FieldId) (p : PlotId) (q n : Nat) (x : XLine), (s.linesWhole f) ∧ ((s.plot f p).xlines.find? (fun x => decide (x.qsn = q) && decide (x.line = n)) = some x) ∧ (x.op ≠ 1)) ∧
    (∃ (s : State) (f : FieldId) (p : PlotId) (e : QEntry) (l : List QEntry) (d md : Nat) (k : Fmt), ((s.plot f p).nextOf 1 [.waiting] = some (e, l)) ∧ (e.op = .tvec d md) ∧ (fmtOf (tvOut d) = some k)) ∧
    (∃ (s : State) (f : FieldId) (p : Packet), (s.linesWhole f) ∧ (p.body.length ≤ 4096) ∧ ((∀ e ∈ (s.shf f).slots, 41472 ≤ e.2.scratchReq))) ∧
    (∃ (s : State) (f : FieldId) (p : Packet), (s.linesWhole f)) :=
  ⟨⟨lineIn (flowOpen (recvOn (onesPkt kPut 0 128))), 0, onesPkt kPut 0 128, by decide +kernel⟩,
   ⟨flowOpen (recvOn (onesPkt kPutPartial 6 storesBase)), 0, onesPkt kPutPartial 6 storesBase, by decide +kernel⟩,
   ⟨lineIn (flowHolding (onesPkt kPut 0 0) (recvOn (onesPkt kPutPartial 6 128))), 0, onesPkt kPutPartial 6 128, by decide +kernel⟩,
   ⟨lineIn (recvOn (onesPkt kMcastPut 0 0)), 0, onesPkt kMcastPut 0 0, by decide +kernel⟩,
   ⟨lineIn (recvOn { onesPkt kFetchAdd 0x3F800000 124 with body := rhBytes { rhKind kFetchAdd with operand := 0x3F800000 } }), 0, { onesPkt kFetchAdd 0x3F800000 124 with body := rhBytes { rhKind kFetchAdd with operand := 0x3F800000 } }, by decide +kernel⟩,
   ⟨(lineIn (withQueue [entry 1 (.txfer xferOne) .running])).updPlot 0 0 (fun P => { P with xlines := [{ ownLine with qsn := 1, loc := 20 }] }), 0, 0, 1, 0, { ownLine with qsn := 1, loc := 20 }, by decide +kernel⟩,
   ⟨(lineIn (withQueue [entry 1 (.txfer xferOne) .running])).updPlot 0 0 (fun P => { P with xlines := [{ ownLine with qsn := 1, op := 2, addr := 128, data := List.replicate 128 3 }] }), 0, 0, 1, 0, { ownLine with qsn := 1, op := 2, addr := 128, data := List.replicate 128 3 }, by decide +kernel⟩,
   ⟨onesStore (withQueue [entry 1 (.tvec vecTwo 0) .waiting]), 0, 0, entry 1 (.tvec vecTwo 0) .waiting, [], vecTwo, 0, ⟨fmtFP32, false, false⟩, by decide +kernel⟩,
   ⟨roomUp (recvOn (shfPkt skPiece 1 (List.replicate 32 7))) (some collOne) [0, 1], 0, shfPkt skPiece 1 (List.replicate 32 7), by decide +kernel⟩,
   ⟨roomUp (recvOn (shfPkt skGather 1 (List.replicate 32 7))) (some { collOne with out := [] }) [1, 0], 0, shfPkt skGather 1 (List.replicate 32 7), by decide +kernel⟩⟩

theorem wit_WritesStayInTheirLines_8_to_11 :
    (∃ (s : State) (f : FieldId) (k : Fin 64) (st : Fin 4) (ch : Nat), (s.linesWhole f) ∧ ((∀ e ∈ (s.shf f).slots, 41472 ≤ e.2.scratchReq))) ∧
    (∃ (s : State) (f : FieldId), (s.linesWhole f)) ∧
    (∃ (s : State) (f : FieldId), (s.linesWhole f)) ∧
    (∃ (s : State) (fn : Fin 5) (a be : Nat) (d : List Byte) (ep : Bool), (s.linesWhole (fnField fn.val)) ∧ (s.hub.host.wait = []) ∧ (s.hub.host.held = []) ∧ (fn ≠ 0)) :=
  ⟨⟨roomUp rimOn (some collAll) [0, 1], 0, 0, 0, 0, by decide +kernel⟩,
   ⟨lineIn ((markTodo 10).fset 0 Reg.FLD_DRIFT_BASE.WRITE 1), 0, by decide +kernel⟩,
   ⟨lineIn ((markTodo 11).fset 0 Reg.HLT_REPORT_BASE.WRITE 1), 0, by decide +kernel⟩,
   ⟨(lineIn rimOn).hset Reg.HUB_HOST_PHY_STATUS.STATE hpL0, 1, 100, 0xFFFF, List.replicate 16 9, false, by decide +kernel⟩⟩

/-! ### VectorCommandsComplete: states and operands that meet the hypotheses of each clause, in the clauses' order. -/

theorem wit_VectorCommandsComplete :
    (∃ (s : State) (f : FieldId) (p : PlotId) (e : QEntry) (l : List QEntry) (d md : Nat), (s.hub.pwr.trip = false) ∧ ((s.plot f p).nextOf 1 [.waiting] = some (e, l)) ∧ (e.op = .tvec d md) ∧ (syncHeld l e.op = false) ∧ ((s.field f).held = false) ∧ (e.claims.all (fun c => claimFree l c) = true) ∧ (e.claims.any (fun c => claimBusySeg l c) = false) ∧ (∃ x ∈ ([(.tvecNop f p, 0x00), (.tvecAdd f p, 0x01), (.tvecSub f p, 0x02), (.tvecMul f p, 0x03), (.tvecFma f p, 0x04),
    (.tvecMin f p, 0x05), (.tvecMax f p, 0x06), (.tvecAbs f p, 0x07), (.tvecNeg f p, 0x08), (.tvecCmp f p, 0x09),
    (.tvecSelect f p, 0x0a), (.tvecExp2 f p, 0x10), (.tvecLog2 f p, 0x11), (.tvecRecip f p, 0x12), (.tvecRsqrt f p, 0x13),
    (.tvecIadd f p, 0x20)] : List (Instr × Nat)) ++
    [(.tvecIsub f p, 0x21), (.tvecImin f p, 0x22), (.tvecImax f p, 0x23), (.tvecAnd f p, 0x24), (.tvecOr f p, 0x25),
    (.tvecXor f p, 0x26), (.tvecSll f p, 0x27), (.tvecSra f p, 0x28), (.tvecSrl f p, 0x29), (.tvecIcmp f p, 0x2a),
    (.tvecCvt f p, 0x30), (.tvecBenc f p, 0x31), (.tvecBscale f p, 0x32), (.tvecBdec f p, 0x33), (.tvecAmax f p, 0x38),
    (.tvecSum f p, 0x39)], (tvVop d = x.2))) ∧
    (∃ (s : State) (f : FieldId) (p : PlotId) (e : QEntry) (l : List QEntry) (d md : Nat), (s.hub.pwr.trip = false) ∧ ((s.plot f p).nextOf 1 [.waiting] = some (e, l)) ∧ (e.op = .tvec d md) ∧ (syncHeld l e.op = false) ∧ ((s.field f).held = false) ∧ (e.claims.all (fun c => claimFree l c) = false ∨ e.claims.any (fun c => claimBusySeg l c) = true) ∧ (∃ x ∈ ([(.tvecNop f p, 0x00), (.tvecAdd f p, 0x01), (.tvecSub f p, 0x02), (.tvecMul f p, 0x03), (.tvecFma f p, 0x04),
    (.tvecMin f p, 0x05), (.tvecMax f p, 0x06), (.tvecAbs f p, 0x07), (.tvecNeg f p, 0x08), (.tvecCmp f p, 0x09),
    (.tvecSelect f p, 0x0a), (.tvecExp2 f p, 0x10), (.tvecLog2 f p, 0x11), (.tvecRecip f p, 0x12), (.tvecRsqrt f p, 0x13),
    (.tvecIadd f p, 0x20)] : List (Instr × Nat)) ++
    [(.tvecIsub f p, 0x21), (.tvecImin f p, 0x22), (.tvecImax f p, 0x23), (.tvecAnd f p, 0x24), (.tvecOr f p, 0x25),
    (.tvecXor f p, 0x26), (.tvecSll f p, 0x27), (.tvecSra f p, 0x28), (.tvecSrl f p, 0x29), (.tvecIcmp f p, 0x2a),
    (.tvecCvt f p, 0x30), (.tvecBenc f p, 0x31), (.tvecBscale f p, 0x32), (.tvecBdec f p, 0x33), (.tvecAmax f p, 0x38),
    (.tvecSum f p, 0x39)], (tvVop d = x.2))) ∧
    (∃ (s : State) (f : FieldId) (p : PlotId) (e : QEntry) (l : List QEntry) (d md : Nat), (s.hub.pwr.trip = false) ∧ ((s.plot f p).nextOf 1 [.waiting] = some (e, l)) ∧ (e.op = .tvec d md) ∧ (syncHeld l e.op = false) ∧ ((s.field f).held = false) ∧ (e.claims.all (fun c => claimFree l c) = false ∨ e.claims.any (fun c => claimBusySeg l c) = true) ∧ (∃ x ∈ ([(.tvecNop f p, 0x00), (.tvecAdd f p, 0x01), (.tvecSub f p, 0x02), (.tvecMul f p, 0x03), (.tvecFma f p, 0x04),
    (.tvecMin f p, 0x05), (.tvecMax f p, 0x06), (.tvecAbs f p, 0x07), (.tvecNeg f p, 0x08), (.tvecCmp f p, 0x09),
    (.tvecSelect f p, 0x0a), (.tvecExp2 f p, 0x10), (.tvecLog2 f p, 0x11), (.tvecRecip f p, 0x12), (.tvecRsqrt f p, 0x13),
    (.tvecIadd f p, 0x20)] : List (Instr × Nat)) ++
    [(.tvecIsub f p, 0x21), (.tvecImin f p, 0x22), (.tvecImax f p, 0x23), (.tvecAnd f p, 0x24), (.tvecOr f p, 0x25),
    (.tvecXor f p, 0x26), (.tvecSll f p, 0x27), (.tvecSra f p, 0x28), (.tvecSrl f p, 0x29), (.tvecIcmp f p, 0x2a),
    (.tvecCvt f p, 0x30), (.tvecBenc f p, 0x31), (.tvecBscale f p, 0x32), (.tvecBdec f p, 0x33), (.tvecAmax f p, 0x38),
    (.tvecSum f p, 0x39)], (tvVop d = x.2))) ∧
    (∃ (s : State) (f : FieldId) (p : PlotId) (e : QEntry), (s.hub.pwr.trip = false) ∧ ((s.plot f p).queue.find? (fun e => decide (e.op.unit = 1) && decide (e.phase = .done)) = some e)) ∧
    (∃ (s : State) (f : FieldId) (p : PlotId), ((s.plot f p).queue.find? (fun e => decide (e.op.unit = 1) && decide (e.phase = .done)) = none)) ∧
    (∃ (s : State) (f : FieldId) (p : PlotId), (s.hub.pwr.trip = true)) :=
  ⟨⟨withQueue [entry 1 (.tvec 0 0) .waiting], 0, 0, entry 1 (.tvec 0 0) .waiting, [], 0, 0, by decide +kernel⟩,
   ⟨withQueue [{ entry 1 (.txfer 1) .running with claims := [someClaim] }, { entry 2 (.tvec 0x39 0) .waiting with claims := [someClaim] }], 0, 0, { entry 2 (.tvec 0x39 0) .waiting with claims := [someClaim] }, [{ entry 1 (.txfer 1) .running with claims := [someClaim] }], 0x39, 0, by decide +kernel⟩,
   ⟨withQueue [entry 1 (.tmm tmmOne 0) .waiting, { entry 2 (.tvec 1 0) .waiting with claims := [binClaim] }], 0, 0, { entry 2 (.tvec 1 0) .waiting with claims := [binClaim] }, [entry 1 (.tmm tmmOne 0) .waiting], 1, 0, by decide +kernel⟩,
   ⟨withQueue [entry 1 (.tvec 0 0) .done], 0, 0, entry 1 (.tvec 0 0) .done, by decide +kernel⟩,
   ⟨withQueue [], 0, 0, by decide +kernel⟩,
   ⟨(withQueue []).updPwr (fun P => { P with trip := true }), 0, 0, by decide +kernel⟩⟩

/-! ### MemoryCommandsComplete: states and operands that meet the hypotheses of each clause, in the clauses' order. -/

theorem wit_MemoryCommandsComplete_0_to_8 :
    (∃ (s : State) (f : FieldId) (h : Nat) (src : Fin 6) (x : AbsLine), (s.svc f ≠ svcDark) ∧ (h < hbmHalves) ∧ ((s.memu f).resident (h / 2) = some x)) ∧
    (∃ (s : State) (f : FieldId) (h : Nat) (src : Fin 6), (s.svc f ≠ svcDark) ∧ (h < hbmHalves) ∧ ((s.memu f).resident (h / 2) = none) ∧ ((s.memu f).lost (lineStack (h / 2)) = false) ∧ (s.injArmedAt f injMem 1 (lineStack (h / 2)) = false) ∧ (s.injArmedAt f injMem 2 (lineStack (h / 2)) = false) ∧ (errKind (SMap.get s.mem.hbmErr[f] 0 h) = 0 ∨ errKind (SMap.get s.mem.hbmErr[f] 0 h) = 3)) ∧
    (∃ (s : State) (f : FieldId) (h : Nat) (src : Fin 6), (s.svc f ≠ svcDark) ∧ (h < hbmHalves) ∧ ((s.memu f).resident (h / 2) = none) ∧ ((s.memu f).lost (lineStack (h / 2)) = false) ∧ (s.injArmedAt f injMem 1 (lineStack (h / 2)) = false) ∧ (s.injArmedAt f injMem 2 (lineStack (h / 2)) = false) ∧ (errKind (SMap.get s.mem.hbmErr[f] 0 h) = 1)) ∧
    (∃ (s : State) (f : FieldId) (h : Nat) (src : Fin 6), (s.svc f ≠ svcDark) ∧ (h < hbmHalves) ∧ ((s.memu f).resident (h / 2) = none) ∧ ((s.memu f).lost (lineStack (h / 2)) = false) ∧ (s.injArmedAt f injMem 1 (lineStack (h / 2)) = false) ∧ (s.injArmedAt f injMem 2 (lineStack (h / 2)) = false) ∧ (errKind (SMap.get s.mem.hbmErr[f] 0 h) = 2)) ∧
    (∃ (s : State) (f : FieldId) (h : Nat) (src : Fin 6), (s.svc f ≠ svcDark) ∧ (h < hbmHalves) ∧ ((s.memu f).resident (h / 2) = none) ∧ ((s.memu f).lost (lineStack (h / 2)) = false) ∧ (s.injArmedAt f injMem 1 (lineStack (h / 2)) = true ∨ s.injArmedAt f injMem 2 (lineStack (h / 2)) = true)) ∧
    (∃ (s : State) (f : FieldId) (h : Nat) (src : Fin 6), (s.svc f = svcDark ∨ hbmHalves ≤ h ∨ ((s.memu f).resident (h / 2) = none ∧ (s.memu f).lost (lineStack (h / 2)) = true))) ∧
    (∃ (s : State) (f : FieldId) (k : Fin 2), (s.svc f ≠ svcDark) ∧ ((s.memu f).lost k = false)) ∧
    (∃ (s : State) (f : FieldId) (k : Fin 2), (s.svc f ≠ svcDark) ∧ ((s.memu f).lost k = false)) ∧
    (∃ (s : State) (f : FieldId) (k : Fin 2), (s.svc f = svcDark ∨ (s.memu f).lost k = true)) ∧
    (∃ (s : State) (f : FieldId) (a b : Nat), (s.svc f ≠ svcDark)) :=
  ⟨⟨absorbed, 0, 1, 0, ⟨0, List.replicate 128 7, false, false⟩, by decide +kernel⟩,
   ⟨hbmError 3, 0, 0, 0, by decide +kernel⟩,
   ⟨hbmError 1, 0, 0, 0, by decide +kernel⟩,
   ⟨hbmError 2, 0, 0, 0, by decide +kernel⟩,
   ⟨((rimOn.fset 0 Reg.INJ_PT.ARM 1 injMem).fset 0 Reg.INJ_PT.POINT 2 injMem).fset 0 Reg.INJ_PT.TARGET 0 injMem, 0, 0, 0, by decide +kernel⟩,
   ⟨rimOn, 0, hbmHalves, 0, by decide +kernel⟩,
   ⟨absorbed, 0, 0, by decide +kernel⟩,
   ⟨absorbed, 0, 1, by decide +kernel⟩,
   ⟨darkField, 0, 0, by decide +kernel⟩,
   ⟨rimOn, 0, 300, 7, by decide +kernel⟩⟩

theorem wit_MemoryCommandsComplete_9_to_17 :
    (∃ (s : State) (f : FieldId) (pc : Fin 128), (s.svc f ≠ svcDark) ∧ (s.freg f Reg.MEM_SCRUB_CTL.ENABLE = 1)) ∧
    (∃ (s : State) (f : FieldId) (pc : Fin 128), (s.svc f = svcDark ∨ s.freg f Reg.MEM_SCRUB_CTL.ENABLE ≠ 1)) ∧
    (∃ (s : State) (f : FieldId) (w : HeldWrite), (s.svc f ≠ svcDark) ∧ ((s.memu f).held.find? (fun w => !SMap.get (s.memu f).res false (granuleOf (w.line * 128))) = some w)) ∧
    (∃ (s : State) (f : FieldId), (s.svc f = svcDark ∨ (s.memu f).held.find? (fun w => !SMap.get (s.memu f).res false (granuleOf (w.line * 128))) = none)) ∧
    (∃ (s : State) (f : FieldId) (q : Fin 272) (i : Nat), (s.svc f ≠ svcDark) ∧ (logicalOf (s.memu f).remap q = some i) ∧ (bit (s.field f).fallowRun q = false)) ∧
    (∃ (s : State) (f : FieldId) (q : Fin 272), (s.svc f = svcDark ∨ logicalOf (s.memu f).remap q = none ∨ bit (s.field f).fallowRun q = true)) ∧
    (∃ (s : State) (f : FieldId) (p : PlotId), (s.vacant f p = false) ∧ (s.partitionUp f = true)) ∧
    (∃ (s : State) (f : FieldId) (p : PlotId), (s.vacant f p = true ∨ s.partitionUp f = false)) ∧
    (∃ (s : State) (f : FieldId) (r : Bool) (i : Fin 16) (m v : Nat), (s.partitionUp f = true)) ∧
    (∃ (s : State) (f : FieldId) (r : Bool) (i : Fin 16) (m v : Nat), (s.partitionUp f = true)) :=
  ⟨⟨rimOn.fset 0 Reg.MEM_SCRUB_CTL.ENABLE 1, 0, 0, by decide +kernel⟩,
   ⟨rimOn.fset 0 Reg.MEM_SCRUB_CTL.ENABLE 0, 0, 0, by decide +kernel⟩,
   ⟨rimOn.updMemu 0 (fun m => { m with held := [heldOne] }), 0, heldOne, by decide +kernel⟩,
   ⟨rimOn.updMemu 0 (fun m => { m with held := [heldOne], res := [(0, true)] }), 0, by decide +kernel⟩,
   ⟨rimOn, 0, 0, 0, by decide +kernel⟩,
   ⟨rimOn, 0, 271, by decide +kernel⟩,
   ⟨rimOn, 0, 0, by decide +kernel⟩,
   ⟨vacantPlot, 0, 0, by decide +kernel⟩,
   ⟨rimOn, 0, true, 1, 3, 5, by decide +kernel⟩,
   ⟨rimOn, 0, false, 1, 0x10003, 5, by decide +kernel⟩⟩

theorem wit_MemoryCommandsComplete_18_to_21 :
    (∃ (s : State) (f : FieldId) (r : Bool) (i : Fin 16) (m img k : Nat), (s.partitionUp f = true)) ∧
    (∃ (s : State) (f : FieldId) (r : Bool) (i : Fin 16) (m : Nat) (load : McastLoad), (s.partitionUp f = false)) ∧
    (∃ (s : State) (f : FieldId) (x : Multicast) (l : List Multicast), (s.svc f ≠ svcDark) ∧ ((s.memu f).mcasts = x :: l)) ∧
    (∃ (s : State) (f : FieldId), (s.svc f = svcDark ∨ (s.memu f).mcasts = [])) :=
  ⟨⟨rimOn, 0, true, 1, 3, 1, 2, by decide +kernel⟩,
   ⟨darkField, 0, true, 1, 3, .doorbell 4, by decide +kernel⟩,
   ⟨rimOn.updMemu 0 (fun m => { m with mcasts := [⟨true, 1, 3, 2⟩] }), 0, ⟨true, 1, 3, 2⟩, [], by decide +kernel⟩,
   ⟨rimOn, 0, by decide +kernel⟩⟩

/-! ### CalibrationCommandsComplete: states and operands that meet the hypotheses of each clause, in the clauses' order. -/

theorem wit_CalibrationCommandsComplete_0_to_8 :
    (∃ (s : State) (f : FieldId) (n : PortId) (w k x : Nat), (s.svc f ≠ svcDark) ∧ (s.calAllowed f n = true) ∧ ((s.port f n).tx.order.find? (fun w => ((s.port f n).tx.slotOf w).isSome && !bit (s.port f n).tx.failed w) = some w) ∧ ((s.port f n).tx.slotOf w = some k) ∧ ((s.port f n).tx.spare = some x)) ∧
    (∃ (s : State) (f : FieldId) (n : PortId) (w k : Nat), (s.svc f ≠ svcDark) ∧ (s.calAllowed f n = true) ∧ ((s.port f n).tx.order.find? (fun w => ((s.port f n).tx.slotOf w).isSome && !bit (s.port f n).tx.failed w) = some w) ∧ ((s.port f n).tx.slotOf w = some k) ∧ ((s.port f n).tx.spare = none)) ∧
    (∃ (s : State) (f : FieldId) (n : PortId), (s.svc f = svcDark ∨ s.calAllowed f n = false ∨ (s.port f n).tx.order.find? (fun w => ((s.port f n).tx.slotOf w).isSome && !bit (s.port f n).tx.failed w) = none)) ∧
    (∃ (s : State) (f : FieldId) (n : PortId), (s.svc f = svcDark ∨ s.calAllowed f n = false ∨ (s.port f n).tx.order.find? (fun w => ((s.port f n).tx.slotOf w).isSome && !bit (s.port f n).tx.failed w) = none)) ∧
    (∃ (s : State) (w k : Nat), (s.hostCalAllowed = true) ∧ (s.hub.hostTx.order.find? (fun w => (s.hub.hostTx.slotOf w).isSome && !bit s.hub.hostTx.failed w) = some w) ∧ (s.hub.hostTx.slotOf w = some k)) ∧
    (∃ (s : State), (s.hostCalAllowed = false ∨ s.hub.hostTx.order.find? (fun w => (s.hub.hostTx.slotOf w).isSome && !bit s.hub.hostTx.failed w) = none)) ∧
    (∃ (s : State) (f : FieldId) (n : PortId) (w : Nat), (s.svc f ≠ svcDark) ∧ ((s.port f n).rx.cal = some w)) ∧
    (∃ (s : State) (f : FieldId) (n : PortId) (c : CalSlot), (s.svc f ≠ svcDark) ∧ ((s.port f n).tx.cal = some c) ∧ (c.retry = false)) ∧
    (∃ (s : State) (f : FieldId) (n : PortId), (s.svc f = svcDark ∨ (s.port f n).rx.cal = none)) ∧
    (∃ (s : State) (f : FieldId) (n : PortId), (s.svc f = svcDark ∨ (s.port f n).tx.cal.all CalSlot.retry = true)) :=
  ⟨⟨lit, 0, 0, 0, 0, 15, by decide +kernel⟩,
   ⟨lit.updPort 0 0 (fun P => { P with tx := { P.tx with failed := 32768 } }), 0, 0, 0, 0, by decide +kernel⟩,
   ⟨darkRim, 0, 0, by decide +kernel⟩,
   ⟨slotOn false, 0, 0, by decide +kernel⟩,
   ⟨lit, 0, 0, by decide +kernel⟩,
   ⟨slotOn false, by decide +kernel⟩,
   ⟨slotOn false, 0, 0, 0, by decide +kernel⟩,
   ⟨slotOn false, 0, 0, slot15 false, by decide +kernel⟩,
   ⟨lit, 0, 0, by decide +kernel⟩,
   ⟨slotOn true, 0, 0, by decide +kernel⟩⟩

theorem wit_CalibrationCommandsComplete_9_to_18 :
    (∃ (s : State) (c : CalSlot) (rx : Bool), (s.hub.hostTx.cal = some c) ∧ (c.retry = false)) ∧
    (∃ (s : State) (rx : Bool), (s.hub.hostTx.cal.all CalSlot.retry = true)) ∧
    (∃ (s : State) (f : FieldId) (n : PortId) (w : Nat), (s.svc f ≠ svcDark) ∧ ((s.port f n).rx.cal = some w)) ∧
    (∃ (s : State) (f : FieldId) (n : PortId) (c : CalSlot), (s.svc f ≠ svcDark) ∧ ((s.port f n).tx.cal = some c) ∧ (c.retry = false)) ∧
    (∃ (s : State) (f : FieldId) (n : PortId) (c : CalSlot), (s.svc f ≠ svcDark) ∧ ((s.port f n).tx.cal = some c) ∧ (c.retry = true)) ∧
    (∃ (s : State) (f : FieldId) (n : PortId), (s.svc f = svcDark ∨ (s.port f n).rx.cal = none)) ∧
    (∃ (s : State) (f : FieldId) (n : PortId), (s.svc f = svcDark ∨ (s.port f n).tx.cal = none)) ∧
    (∃ (s : State) (c : CalSlot) (rx : Bool), (s.hub.hostTx.cal = some c) ∧ (c.retry = false)) ∧
    (∃ (s : State) (c : CalSlot) (rx : Bool), (s.hub.hostTx.cal = some c) ∧ (c.retry = true)) ∧
    (∃ (s : State) (rx : Bool), (s.hub.hostTx.cal = none)) :=
  ⟨⟨slotOn false, slot15 false, true, by decide +kernel⟩,
   ⟨slotOn true, true, by decide +kernel⟩,
   ⟨slotOn false, 0, 0, 0, by decide +kernel⟩,
   ⟨slotOn false, 0, 0, slot15 false, by decide +kernel⟩,
   ⟨slotOn true, 0, 0, slot15 true, by decide +kernel⟩,
   ⟨lit, 0, 0, by decide +kernel⟩,
   ⟨lit, 0, 0, by decide +kernel⟩,
   ⟨slotOn false, slot15 false, true, by decide +kernel⟩,
   ⟨slotOn true, slot15 true, true, by decide +kernel⟩,
   ⟨lit, true, by decide +kernel⟩⟩

theorem wit_CalibrationCommandsComplete_19_to_27 :
    (∃ (s : State) (f : FieldId) (n : PortId) (w : Lambda), (s.svc f ≠ svcDark) ∧ (s.calAllowed f n = true) ∧ ((s.port f n).tx.mayRetry w = true)) ∧
    (∃ (s : State) (f : FieldId) (n : PortId) (w : Lambda), (s.svc f = svcDark ∨ s.calAllowed f n = false ∨ (s.port f n).tx.mayRetry w = false)) ∧
    (∃ (s : State) (w : Lambda), (s.hostCalAllowed = true) ∧ (s.hub.hostTx.mayRetry w = true)) ∧
    (∃ (s : State) (w : Lambda), (s.hostCalAllowed = false ∨ s.hub.hostTx.mayRetry w = false)) ∧
    (∃ (s : State) (f : FieldId) (n : PortId) (w : Lambda) (c : CalSlot) (pass : Bool), (s.svc f ≠ svcDark) ∧ ((s.port f n).tx.cal = some c) ∧ (c.retry = true) ∧ (c.wave = w)) ∧
    (∃ (s : State) (f : FieldId) (n : PortId) (w : Lambda) (c : CalSlot) (pass : Bool), (s.svc f ≠ svcDark) ∧ ((s.port f n).tx.cal = some c) ∧ (c.retry = true) ∧ (c.wave = w)) ∧
    (∃ (s : State) (f : FieldId) (n : PortId) (w : Lambda) (pass : Bool), (s.svc f = svcDark ∨ (s.port f n).tx.cal.all (fun c => !c.retry || decide (c.wave ≠ w.val)) = true)) ∧
    (∃ (s : State) (f : FieldId) (n : PortId) (w : Lambda), (s.svc f ≠ svcDark) ∧ ((s.port f n).rx.cal = some w.val) ∧ (bit (s.port f n).rx.failed w = true)) ∧
    (∃ (s : State) (f : FieldId) (n : PortId) (w : Lambda) (pass : Bool), (s.svc f ≠ svcDark) ∧ ((s.port f n).rx.cal = some w.val) ∧ (pass = false ∨ bit (s.port f n).rx.failed w = false)) ∧
    (∃ (s : State) (f : FieldId) (n : PortId) (w : Lambda) (pass : Bool), (s.svc f = svcDark ∨ (s.port f n).rx.cal ≠ some w.val)) :=
  ⟨⟨failedLane, 0, 0, 0, by decide +kernel⟩,
   ⟨lit, 0, 0, 0, by decide +kernel⟩,
   ⟨failedLane, 0, by decide +kernel⟩,
   ⟨lit, 0, by decide +kernel⟩,
   ⟨slotOn true, 0, 0, 0, slot15 true, true, by decide +kernel⟩,
   ⟨slotOn true, 0, 0, 0, slot15 true, false, by decide +kernel⟩,
   ⟨slotOn false, 0, 0, 0, true, by decide +kernel⟩,
   ⟨(slotOn true).updPort 0 0 (fun P => { P with rx := { P.rx with failed := 1 } }), 0, 0, 0, by decide +kernel⟩,
   ⟨slotOn true, 0, 0, 0, true, by decide +kernel⟩,
   ⟨lit, 0, 0, 0, true, by decide +kernel⟩⟩

theorem wit_CalibrationCommandsComplete_28_to_34 :
    (∃ (s : State) (w : Lambda) (c : CalSlot) (rx pass : Bool), (s.hub.hostTx.cal = some c) ∧ (c.retry = true) ∧ (c.wave = w)) ∧
    (∃ (s : State) (w : Lambda) (c : CalSlot) (rx pass : Bool), (s.hub.hostTx.cal = some c) ∧ (c.retry = true) ∧ (c.wave = w)) ∧
    (∃ (s : State) (w : Lambda) (rx pass : Bool), (s.hub.hostTx.cal.all (fun c => !c.retry || decide (c.wave ≠ w.val)) = true)) ∧
    (∃ (s : State) (f : FieldId) (n : PortId) (w : Lambda), (s.svc f ≠ svcDark)) ∧
    (∃ (s : State) (f : FieldId) (n : PortId) (w : Lambda), (s.svc f ≠ svcDark)) ∧
    (∃ (s : State) (f : FieldId) (n : PortId) (w : Lambda), (s.svc f ≠ svcDark)) ∧
    (∃ (s : State) (f : FieldId) (n : PortId) (w : Lambda) (c : CalSlot), (s.svc f ≠ svcDark) ∧ ((s.port f n).tx.cal = some c) ∧ (c.wave = w) ∧ (c.retry = false)) ∧
    (∃ (s : State) (f : FieldId) (n : PortId) (w : Lambda) (c : CalSlot), (s.svc f ≠ svcDark) ∧ ((s.port f n).tx.cal = some c) ∧ (c.wave = w) ∧ (c.retry = false)) ∧
    (∃ (s : State) (f : FieldId) (n : PortId) (w : Lambda) (c : CalSlot) (ok : Bool), (s.svc f ≠ svcDark) ∧ ((s.port f n).tx.cal = some c) ∧ (c.wave = w) ∧ (c.retry = true)) ∧
    (∃ (s : State) (f : FieldId) (n : PortId) (w : Lambda) (c : CalSlot) (ok : Bool), (s.svc f ≠ svcDark) ∧ ((s.port f n).tx.cal = some c) ∧ (c.wave = w) ∧ (c.retry = true)) :=
  ⟨⟨slotOn true, 0, slot15 true, true, true, by decide +kernel⟩,
   ⟨slotOn true, 0, slot15 true, true, false, by decide +kernel⟩,
   ⟨slotOn false, 0, true, true, by decide +kernel⟩,
   ⟨lit, 0, 0, 3, by decide +kernel⟩,
   ⟨lit, 0, 0, 3, by decide +kernel⟩,
   ⟨lit, 0, 0, 15, by decide +kernel⟩,
   ⟨slotOn false, 0, 0, 0, slot15 false, by decide +kernel⟩,
   ⟨slotOn false, 0, 0, 0, slot15 false, by decide +kernel⟩,
   ⟨slotOn true, 0, 0, 0, slot15 true, true, by decide +kernel⟩,
   ⟨slotOn true, 0, 0, 0, slot15 true, false, by decide +kernel⟩⟩

theorem wit_CalibrationCommandsComplete_35_to_36 :
    (∃ (s : State) (f : FieldId) (n : PortId) (w : Lambda) (ok : Bool), (s.svc f = svcDark ∨ (s.port f n).tx.cal.all (fun c => decide (c.wave ≠ w.val)) = true)) ∧
    (∃ (s : State) (f : FieldId) (n : PortId) (w : Lambda) (b : Bool), (s.svc f = svcDark)) :=
  ⟨⟨lit, 0, 0, 0, true, by decide +kernel⟩,
   ⟨darkRim, 0, 0, 0, true, by decide +kernel⟩⟩

/-! ### LaneCommandsComplete: states and operands that meet the hypotheses of each clause, in the clauses' order. -/

theorem wit_LaneCommandsComplete_0_to_8 :
    (∃ (s : State) (f : FieldId) (n : PortId) (w : Lambda) (r : Fin 16), (s.svc f ≠ svcDark) ∧ (s.rxSuspended f n = false) ∧ (r.val < 4 ∨ 6 < r.val ∨ ((s.port f n).rx.cal ≠ some w.val ∧ s.link f n ≠ lsQualify))) ∧
    (∃ (s : State) (f : FieldId) (n : PortId) (w : Lambda) (r : Fin 16), (s.svc f ≠ svcDark) ∧ (s.rxSuspended f n = false) ∧ (r.val < 4 ∨ 6 < r.val ∨ ((s.port f n).rx.cal ≠ some w.val ∧ s.link f n ≠ lsQualify))) ∧
    (∃ (s : State) (f : FieldId) (n : PortId) (w : Lambda) (r : Fin 16), (s.svc f = svcDark ∨ s.rxSuspended f n = true ∨ (4 ≤ r.val ∧ r.val ≤ 6 ∧ ((s.port f n).rx.cal = some w.val ∨ s.link f n = lsQualify)))) ∧
    (∃ (s : State) (f : FieldId) (n : PortId) (w : Lambda) (r : Fin 16), (s.svc f ≠ svcDark)) ∧
    (∃ (s : State) (rx : Bool) (w : Lambda) (r : Fin 16), (w.val < 9)) ∧
    (∃ (s : State) (rx : Bool) (w : Lambda) (r : Fin 16), (9 ≤ w.val)) ∧
    (∃ (s : State) (f : FieldId) (n : PortId) (l : List Nat), (s.svc f ≠ svcDark) ∧ (s.injArmedAt f injLink 5 n = false)) ∧
    (∃ (s : State) (f : FieldId) (n : PortId) (l : List Nat), (s.svc f ≠ svcDark) ∧ (s.injArmedAt f injLink 5 n = true)) ∧
    (∃ (s : State) (f : FieldId) (n : PortId) (part : Fin 4) (l : List Nat) (i : Fin 6), (s.svc f ≠ svcDark) ∧ (6 * part.val + i.val < 16)) ∧
    (∃ (s : State) (f : FieldId) (n : PortId) (m : Fin 4), (s.svc f ≠ svcDark) ∧ (m.val ≠ 3)) :=
  ⟨⟨lit, 0, 0, 0, 1, by decide +kernel⟩,
   ⟨lit, 0, 0, 0, 5, by decide +kernel⟩,
   ⟨lit.updPort 0 0 (fun P => { P with relock := true }), 0, 0, 0, 1, by decide +kernel⟩,
   ⟨lit, 0, 0, 0, 1, by decide +kernel⟩,
   ⟨lit, true, 0, 1, by decide +kernel⟩,
   ⟨lit, true, 9, 1, by decide +kernel⟩,
   ⟨lit, 0, 0, [3, 200], by decide +kernel⟩,
   ⟨((lit.fset 0 Reg.INJ_PT.ARM 1 injLink).fset 0 Reg.INJ_PT.POINT 5 injLink).fset 0 Reg.INJ_PT.ARG 0x333 injLink, 0, 0, [3], by decide +kernel⟩,
   ⟨lit, 0, 0, 1, [3, 4], 1, by decide +kernel⟩,
   ⟨lit, 0, 0, 1, by decide +kernel⟩⟩

theorem wit_LaneCommandsComplete_9_to_19 :
    (∃ (s : State) (f : FieldId) (n : PortId) (m : Fin 4), (s.svc f = svcDark ∨ m.val = 3)) ∧
    (∃ (s : State) (f : FieldId) (n : PortId) (w : Lambda), (s.svc f ≠ svcDark)) ∧
    (∃ (s : State) (f : FieldId) (n : PortId) (w : Lambda), (s.svc f ≠ svcDark) ∧ (((s.port f n).rx.slotOf w) = none ∨ bit (s.port f n).lock w = false ∨ s.link f n = lsQualify ∨ s.rxSuspended f n = true ∨ (s.port f n).rx.cal = some w.val)) ∧
    (∃ (s : State) (f : FieldId) (n : PortId) (w : Lambda), (s.svc f ≠ svcDark) ∧ (((s.port f n).rx.slotOf w).isSome = true) ∧ (bit (s.port f n).lock w = true) ∧ (s.link f n ≠ lsQualify) ∧ (s.rxSuspended f n = false) ∧ ((s.port f n).rx.cal ≠ some w.val)) ∧
    (∃ (s : State) (f : FieldId) (n : PortId) (k w : Fin 16), (s.svc f ≠ svcDark) ∧ (k.val ≠ 15)) ∧
    (∃ (s : State) (f : FieldId) (n : PortId) (m : Fin 4), (s.svc f ≠ svcDark)) ∧
    (∃ (s : State) (f : FieldId) (n : PortId) (k w : Nat), (s.svc f ≠ svcDark) ∧ ((s.port f n).rx.pending = some (.map k w))) ∧
    (∃ (s : State) (f : FieldId) (n : PortId) (m : Nat), (s.svc f ≠ svcDark) ∧ ((s.port f n).rx.pending = some (.mode m))) ∧
    (∃ (s : State) (f : FieldId) (n : PortId), (s.svc f ≠ svcDark) ∧ ((s.port f n).rx.pending = none)) ∧
    (∃ (s : State) (f : FieldId) (n : PortId) (w : Lambda) (x : Nat × List Nat) (cw : List (Nat × List Nat)), (s.svc f ≠ svcDark) ∧ (bit (s.port f n).lock w = true) ∧ (s.injArmedAt f injLink 1 n = false) ∧ (cw.find? (fun x => decide (x.1 = w.val)) = some x)) :=
  ⟨⟨lit, 0, 0, 3, by decide +kernel⟩,
   ⟨(lit.fset 0 Reg.RTE_LINK_STATUS.STATE lsLock).updPort 0 0 (fun P => { P with lock := 254 }), 0, 0, 0, by decide +kernel⟩,
   ⟨lit, 0, 0, 0, by decide +kernel⟩,
   ⟨lit.updPort 0 0 (fun P => { P with lock := 255 }), 0, 0, 0, by decide +kernel⟩,
   ⟨lit, 0, 0, 0, 1, by decide +kernel⟩,
   ⟨lit, 0, 0, 1, by decide +kernel⟩,
   ⟨lit.updPort 0 0 (fun P => { P with rx := { P.rx with pending := some (.map 0 0) } }), 0, 0, 0, 0, by decide +kernel⟩,
   ⟨lit.updPort 0 0 (fun P => { P with rx := { P.rx with pending := some (.mode 1) } }), 0, 0, 1, by decide +kernel⟩,
   ⟨lit, 0, 0, by decide +kernel⟩,
   ⟨lit.updPort 0 0 (fun P => { P with lock := 1 }), 0, 0, 0, (0, [1, 2]), [(0, [1, 2])], by decide +kernel⟩⟩

theorem wit_LaneCommandsComplete_20_to_29 :
    (∃ (s : State) (f : FieldId) (n : PortId) (w : Lambda) (cw : List (Nat × List Nat)), (bit (s.port f n).lock w = false ∨ cw.find? (fun x => decide (x.1 = w.val)) = none)) ∧
    (∃ (s : State) (f : FieldId) (n : PortId) (cw : List (Nat × List Nat)), (s.svc f ≠ svcDark) ∧ (s.injArmedAt f injLink 1 n = true) ∧ (bit (s.port f n).lock (s.injArg f injLink % 16) = true) ∧ (cw.any (fun x => decide (x.1 = s.injArg f injLink % 16)) = true)) ∧
    (∃ (s : State) (f : FieldId) (n : PortId), (s.svc f ≠ svcDark) ∧ ((s.port f n).rx.pending.isSome = true)) ∧
    (∃ (s : State) (f : FieldId) (n : PortId), ((s.port f n).rx.pending = none)) ∧
    (∃ (s : State) (f : FieldId) (n : PortId), (s.svc f ≠ svcDark) ∧ ((s.port f n).stop = .relock ∨ (s.port f n).stop = .idle)) ∧
    (∃ (s : State) (f : FieldId) (n : PortId), (s.svc f ≠ svcDark) ∧ ((s.port f n).stop = .relock)) ∧
    (∃ (s : State) (f : FieldId) (n : PortId) (b : Bool), ((s.port f n).stop = .none ∨ (s.port f n).stop = .pause ∨ ((s.port f n).stop = .idle ∧ b = false))) ∧
    (∃ (s : State) (f : FieldId) (n : PortId) (b : Bool), (s.svc f ≠ svcDark)) ∧
    (∃ (s : State) (f : FieldId) (n : PortId), (s.svc f ≠ svcDark)) ∧
    (∃ (s : State) (f : FieldId) (n : PortId) (w : Lambda) (r k : Fin 16) (part m : Fin 4) (l : List Nat) (cw : List (Nat × List Nat)) (b : Bool), (s.svc f = svcDark)) :=
  ⟨⟨lit.updPort 0 0 (fun P => { P with lock := 1 }), 0, 0, 1, [(0, [1, 2])], by decide +kernel⟩,
   ⟨(((lit.fset 0 Reg.INJ_PT.ARM 1 injLink).fset 0 Reg.INJ_PT.POINT 1 injLink).fset 0 Reg.INJ_PT.ARG 0x10 injLink).updPort 0 0 (fun P => { P with lock := 1 }), 0, 0, [(0, List.replicate 544 0)], by decide +kernel⟩,
   ⟨lit.updPort 0 0 (fun P => { P with rx := { P.rx with pending := some (.mode 0) } }), 0, 0, by decide +kernel⟩,
   ⟨lit, 0, 0, by decide +kernel⟩,
   ⟨lit.updPort 0 0 (fun P => { P with stop := .relock, waiting := [(lmTrain, 3)] }), 0, 0, by decide +kernel⟩,
   ⟨lit.updPort 0 0 (fun P => { P with stop := .relock, waiting := [(lmTrain, 3)] }), 0, 0, by decide +kernel⟩,
   ⟨lit.updPort 0 0 (fun P => { P with stop := .pause }), 0, 0, true, by decide +kernel⟩,
   ⟨lit, 0, 0, true, by decide +kernel⟩,
   ⟨lit, 0, 0, by decide +kernel⟩,
   ⟨darkRim, 0, 0, 0, 1, 2, 3, 1, [], [], true, by decide +kernel⟩⟩

/-! ### LightCommandsComplete: states and operands that meet the hypotheses of each clause, in the clauses' order. -/

theorem wit_LightCommandsComplete_0_to_10 :
    (∃ (s : State) (a b : List Int), (s.hreg Reg.INJ_HPT.ARM 1 ≠ 1 ∨ s.hreg Reg.INJ_HPT.POINT 1 ≠ 2)) ∧
    (∃ (s : State) (a b : List Int) (x y : Int), (s.hreg Reg.INJ_HPT.ARM 1 ≠ 1 ∨ s.hreg Reg.INJ_HPT.POINT 1 ≠ 2) ∧ (s.moduleMargin 0 a b = some x) ∧ (s.moduleMargin 1 a b = some y) ∧ (x < 4) ∧ (y < 4) ∧ (s.hreg Reg.HDL_LIGHT_CTL.FALLBACK_AUTO = 1)) ∧
    (∃ (s : State) (a b : List Int) (m : Fin 2), (s.hreg Reg.INJ_HPT.ARM 1 = 1) ∧ (s.hreg Reg.INJ_HPT.POINT 1 = 2) ∧ (s.hreg Reg.INJ_HPT.TARGET 1 = m)) ∧
    (∃ (s : State), (s.hub.light.run = []) ∧ (s.hub.light.active = none)) ∧
    (∃ (s : State), (s.hub.light.run ≠ [] ∨ s.hub.light.active ≠ none)) ∧
    (∃ (s : State) (r : SwReq) (l : List SwReq), (s.hub.light.active = none) ∧ (s.hub.light.run = r :: l) ∧ (s.engHubLost r.engine = false) ∧ (s.canAnnounce r.engine = true) ∧ (s.switchOk r = true)) ∧
    (∃ (s : State) (r : SwReq) (l : List SwReq), (s.hub.light.active = none) ∧ (s.hub.light.run = r :: l) ∧ (s.engHubLost r.engine = false) ∧ (s.canAnnounce r.engine = true) ∧ (s.switchOk r = false)) ∧
    (∃ (s : State), (s.hub.light.active ≠ none ∨ s.hub.light.run = [] ∨ (s.hub.light.run.head?).any (fun r => !s.engHubLost r.engine && !s.canAnnounce r.engine) = true)) ∧
    (∃ (s : State) (r : SwReq) (l : List SwReq), (s.hub.light.active = none) ∧ (s.hub.light.run = r :: l) ∧ (s.engHubLost r.engine = true)) ∧
    (∃ (s : State) (r : SwReq) (t : Nat) (l : List (Nat × Nat)), (s.hub.light.active = some r)) :=
  ⟨⟨lit, [], [], by decide +kernel⟩,
   ⟨faint, [], [], 1, 1, by decide +kernel⟩,
   ⟨(((((faint.hset Reg.INJ_HPT.ARM 1 1).hset Reg.INJ_HPT.POINT 2 1).hset Reg.INJ_HPT.TARGET 0 1).hset Reg.INJ_HPT.ARG 2 1)), [], [], 0, by decide +kernel⟩,
   ⟨State.reset.updLight (fun L => { L with queue := [hostSwitch] }), by decide +kernel⟩,
   ⟨switching, by decide +kernel⟩,
   ⟨switching, hostSwitch, [], by decide +kernel⟩,
   ⟨switching.hset Reg.HDL_HOST_ENGINE.INLET_A_OK 0, hostSwitch, [], by decide +kernel⟩,
   ⟨switching.updLight (fun L => { L with run := [⟨0, 0, true, false, false, false, true⟩] }) |> fun s => s.updPort 0 0 (fun P => { P with stop := .relock }), by decide +kernel⟩,
   ⟨allLost.updLight (fun L => { L with run := [hostSwitch] }), hostSwitch, [], by decide +kernel⟩,
   ⟨State.reset.updLight (fun L => { L with active := some hostSwitch }), hostSwitch, 0, [(0, 1)], by decide +kernel⟩⟩

theorem wit_LightCommandsComplete_11_to_20 :
    (∃ (s : State) (t : Nat) (l : List (Nat × Nat)), (s.hub.light.active = none)) ∧
    (∃ (s : State) (f : FieldId) (e : Fin 4) (t : Fin 2), (s.svc f ≠ svcDark)) ∧
    (∃ (s : State) (f : FieldId) (e : Fin 4) (t : Fin 2), (s.svc f ≠ svcDark)) ∧
    (∃ (s : State) (m : Fin 2), (s.hubGone = false) ∧ (s.hub.light.awake = true)) ∧
    (∃ (s : State) (m : Fin 2) (st : Option Nat) (bias : Nat), (s.hubGone = false) ∧ (s.hub.light.awake = true)) ∧
    (∃ (s : State) (m : Fin 2) (b : Nat) (bias : Option Nat), (s.hubGone = false) ∧ (s.hub.light.awake = true) ∧ (s.hreg Reg.INJ_HPT.ARM 1 ≠ 1 ∨ s.hreg Reg.INJ_HPT.POINT 1 ≠ 1 ∨ s.hreg Reg.INJ_HPT.TARGET 1 ≠ m) ∧ (b % 256 ≠ 0)) ∧
    (∃ (s : State) (m : Fin 2) (b : Nat), (s.hubGone = false) ∧ (s.hub.light.awake = true)) ∧
    (∃ (s : State) (m : Fin 2) (b : Nat) (bias : Option Nat), (s.hubGone = false) ∧ (s.hub.light.awake = true) ∧ (s.hreg Reg.INJ_HPT.ARM 1 = 1) ∧ (s.hreg Reg.INJ_HPT.POINT 1 = 1) ∧ (s.hreg Reg.INJ_HPT.TARGET 1 = m)) ∧
    (∃ (s : State) (m : Fin 2) (x : Nat), (s.hubGone = false) ∧ (x % 256 ≠ 0)) ∧
    (∃ (s : State) (m : Fin 2) (x : Nat), (s.hubGone = true)) :=
  ⟨⟨State.reset, 0, [], by decide +kernel⟩,
   ⟨rimOn, 0, 1, 1, by decide +kernel⟩,
   ⟨rimOn, 0, 1, 1, by decide +kernel⟩,
   ⟨awake.updLight (fun L => { L with missed := [(0, 1)] }), 0, by decide +kernel⟩,
   ⟨awake, 0, some 0, 1030, by decide +kernel⟩,
   ⟨awake, 0, 4, none, by decide +kernel⟩,
   ⟨awake, 0, 0, by decide +kernel⟩,
   ⟨(hubInjected 1 3).updLight (fun L => { L with awake := true }), 0, 0, some 3, by decide +kernel⟩,
   ⟨State.reset, 0, 3, by decide +kernel⟩,
   ⟨allLost, 0, 3, by decide +kernel⟩⟩

theorem wit_LightCommandsComplete_21_to_26 :
    (∃ (s : State) (m : Fin 2) (st bias : Option Nat), (s.hubGone = true ∨ s.hub.light.awake = false)) ∧
    (∃ (s : State) (m : Fin 2) (st bias : Option Nat), (s.hubGone = true ∨ s.hub.light.awake = false)) ∧
    (∃ (s : State), (s.hubGone = false)) ∧
    (∃ (s : State), (s.hubGone = true)) ∧
    (∃ (s : State) (env : LightEnv), (s.hub.light.awake = true) ∧ (s.hreg Reg.HDL_LIGHT_STATUS.STATE = ltInterlock ∨ s.hreg Reg.HDL_LIGHT_STATUS.STATE = ltFault) ∧ (env.pgoodOpt = true ∨ s.railUp railOpt = true)) ∧
    (∃ (s : State) (env : LightEnv), (s.hub.light.awake = true) ∧ (s.hreg Reg.HDL_LIGHT_STATUS.STATE = ltInterlock ∨ s.hreg Reg.HDL_LIGHT_STATUS.STATE = ltFault) ∧ (env.pgoodOpt = true ∨ s.railUp railOpt = true)) ∧
    (∃ (s : State) (env : LightEnv), (s.hub.light.awake = true) ∧ (s.hreg Reg.HDL_LIGHT_STATUS.STATE = ltInterlock ∨ s.hreg Reg.HDL_LIGHT_STATUS.STATE = ltFault) ∧ (env.pgoodOpt = true ∨ s.railUp railOpt = true)) ∧
    (∃ (s : State) (env : LightEnv), (s.hub.light.awake = true) ∧ (s.hreg Reg.HDL_LIGHT_STATUS.STATE = ltInterlock ∨ s.hreg Reg.HDL_LIGHT_STATUS.STATE = ltFault) ∧ (env.pgoodOpt = false) ∧ (s.railUp railOpt = false)) ∧
    (∃ (s : State) (env : LightEnv), ((s.hreg Reg.HDL_LIGHT_STATUS.STATE ≠ ltInterlock ∧ s.hreg Reg.HDL_LIGHT_STATUS.STATE ≠ ltFault) ∨ s.hub.light.awake = false)) :=
  ⟨⟨allLost, 0, some 3, none, by decide +kernel⟩,
   ⟨State.reset, 0, some 3, none, by decide +kernel⟩,
   ⟨lit, by decide +kernel⟩,
   ⟨allLost, by decide +kernel⟩,
   ⟨awake.hset Reg.HDL_LIGHT_STATUS.STATE ltFault, envOne true true, by decide +kernel⟩,
   ⟨awake.hset Reg.HDL_LIGHT_STATUS.STATE ltFault, envOne false true, by decide +kernel⟩,
   ⟨awake.hset Reg.HDL_LIGHT_STATUS.STATE ltFault, { envOne true true with ident := [some 1, some 1] }, by decide +kernel⟩,
   ⟨awake.hset Reg.HDL_LIGHT_STATUS.STATE ltFault, envOne true false, by decide +kernel⟩,
   ⟨State.reset, envOne true true, by decide +kernel⟩⟩

theorem wit_LightCommandsComplete_27_to_34 :
    (∃ (s : State) (e : Fin 17) (m : Fin 2), (s.outputOn m e = true) ∧ (s.engHubLost e = false)) ∧
    (∃ (s : State) (e : Fin 17) (m : Fin 2), (s.outputOn m e = true) ∧ (s.engHubLost e = false)) ∧
    (∃ (s : State) (e : Fin 17) (m : Fin 2), (s.outputOn m e = false ∨ s.engHubLost e = true)) ∧
    (∃ (s : State) (f : FieldId) (n : PortId), (s.svc f ≠ svcDark) ∧ ((s.port f n).shutter = true) ∧ (s.freg f Reg.HDL_PORT_STATUS.LIGHT_PAUSE n = 0)) ∧
    (∃ (s : State) (f : FieldId) (n : PortId), (s.svc f = svcDark ∨ (s.port f n).shutter = false ∨ s.freg f Reg.HDL_PORT_STATUS.LIGHT_PAUSE n ≠ 0)) ∧
    (∃ (s : State), (s.hub.light.hostOpen = true)) ∧
    (∃ (s : State), (s.hub.light.hostOpen = false)) ∧
    (∃ (s : State) (f : FieldId) (n : PortId), (s.svc f ≠ svcDark) ∧ (s.freg f Reg.HDL_PORT_STATUS.APR n = 1)) ∧
    (∃ (s : State) (f : FieldId) (n : PortId), (s.svc f = svcDark ∨ s.freg f Reg.HDL_PORT_STATUS.APR n ≠ 1)) :=
  ⟨⟨State.reset.hset Reg.HDL_MODULE.OUTPUT_ON 1, 0, 0, by decide +kernel⟩,
   ⟨(((State.reset.hset Reg.HDL_MODULE.OUTPUT_ON 1).fset 0 Reg.HDL_ENGINE_STATUS.DARK 0).fset 0 Reg.HDL_ENGINE_STATUS.INLET_B_OK 1), 0, 0, by decide +kernel⟩,
   ⟨State.reset, 0, 0, by decide +kernel⟩,
   ⟨lit, 0, 0, by decide +kernel⟩,
   ⟨darkRim, 0, 0, by decide +kernel⟩,
   ⟨lit, by decide +kernel⟩,
   ⟨State.reset, by decide +kernel⟩,
   ⟨lit.fset 0 Reg.HDL_PORT_STATUS.APR 1, 0, 0, by decide +kernel⟩,
   ⟨lit, 0, 0, by decide +kernel⟩⟩

theorem wit_LightCommandsComplete_35_to_37 :
    (∃ (s : State), (s.hub.light.hostApr = true)) ∧
    (∃ (s : State), (s.hub.light.hostApr = true)) ∧
    (∃ (s : State), (s.hub.light.hostApr = false)) ∧
    (∃ (s : State) (f : FieldId) (e : Fin 4) (t : Fin 2), (s.svc f = svcDark)) :=
  ⟨⟨State.reset.updLight (fun L => { L with hostApr := true }), by decide +kernel⟩,
   ⟨(State.reset.updLight (fun L => { L with hostApr := true })).hset Reg.HDL_HOST_ENGINE.DARK 0, by decide +kernel⟩,
   ⟨State.reset, by decide +kernel⟩,
   ⟨darkRim, 0, 0, 1, by decide +kernel⟩⟩

/-! ### LinkStateCommandsComplete: states and operands that meet the hypotheses of each clause, in the clauses' order. -/

theorem wit_LinkStateCommandsComplete_0_to_8 :
    (∃ (s : State) (f : FieldId) (n : PortId), (s.svc f ≠ svcDark) ∧ (s.link f n = lsLock) ∧ ((s.port f n).lockLate = false)) ∧
    (∃ (s : State) (f : FieldId) (n : PortId), (s.link f n ≠ lsLock ∨ (s.port f n).lockLate = true)) ∧
    (∃ (s : State) (f : FieldId) (n : PortId) (p : Fin 4) (a : Nat), (s.svc f ≠ svcDark) ∧ ((SMap.insert (s.port f n).parts p (setBits (trunc 56 a) 0 2 p)).length < 4)) ∧
    (∃ (s : State) (f : FieldId) (n : PortId) (p : Fin 4) (a : Nat), (s.svc f ≠ svcDark) ∧ (4 ≤ (SMap.insert (s.port f n).parts p (setBits (trunc 56 a) 0 2 p)).length) ∧ ((s.port f n).whole ≠ ((SMap.insert (s.port f n).parts p (setBits (trunc 56 a) 0 2 p)).map (fun x => x.2)) ∨ (s.port f n).accepted = ((SMap.insert (s.port f n).parts p (setBits (trunc 56 a) 0 2 p)).map (fun x => x.2)) ∨ s.link f n = lsDisabled ∨ s.link f n = lsLock)) ∧
    (∃ (s : State) (f : FieldId) (n : PortId) (p : Fin 4) (a : Nat), (s.svc f ≠ svcDark) ∧ (4 ≤ (SMap.insert (s.port f n).parts p (setBits (trunc 56 a) 0 2 p)).length) ∧ ((s.port f n).whole ≠ ((SMap.insert (s.port f n).parts p (setBits (trunc 56 a) 0 2 p)).map (fun x => x.2)) ∨ (s.port f n).accepted = ((SMap.insert (s.port f n).parts p (setBits (trunc 56 a) 0 2 p)).map (fun x => x.2)) ∨ s.link f n = lsDisabled ∨ s.link f n = lsLock)) ∧
    (∃ (s : State) (f : FieldId) (n : PortId) (p : Fin 4) (a : Nat), (s.svc f ≠ svcDark) ∧ (4 ≤ (SMap.insert (s.port f n).parts p (setBits (trunc 56 a) 0 2 p)).length) ∧ ((s.port f n).whole = ((SMap.insert (s.port f n).parts p (setBits (trunc 56 a) 0 2 p)).map (fun x => x.2))) ∧ ((s.port f n).accepted ≠ ((SMap.insert (s.port f n).parts p (setBits (trunc 56 a) 0 2 p)).map (fun x => x.2))) ∧ (s.link f n ≠ lsDisabled) ∧ (s.link f n ≠ lsLock)) ∧
    (∃ (s : State) (f : FieldId) (n : PortId), (s.svc f ≠ svcDark) ∧ (s.link f n = lsBeacon ∨ s.link f n = lsHeld ∨ s.link f n = lsActive ∨ (s.link f n = lsRetrain ∧ 8 ≤ popcount 16 (s.port f n).lock)) ∧ (s.portLit f n = true) ∧ (s.injArmedAt f injLink 6 n = false)) ∧
    (∃ (s : State) (f : FieldId) (n : PortId), (s.svc f ≠ svcDark) ∧ (s.link f n = lsActive) ∧ (s.portLit f n = true) ∧ (s.injArmedAt f injLink 6 n = true) ∧ ((s.port f n).stop.silent = true)) ∧
    (∃ (s : State) (f : FieldId) (n : PortId), (s.portLit f n = false ∨ (s.link f n ≠ lsBeacon ∧ s.link f n ≠ lsHeld ∧ s.link f n ≠ lsActive ∧ (s.link f n ≠ lsRetrain ∨ popcount 16 (s.port f n).lock < 8)))) ∧
    (∃ (s : State) (f : FieldId) (n : PortId), (s.svc f ≠ svcDark) ∧ (s.portLit f n = true) ∧ (s.link f n = lsActive ∨ s.link f n = lsHeld)) :=
  ⟨⟨linkIn lsLock, 0, 0, by decide +kernel⟩,
   ⟨lit, 0, 0, by decide +kernel⟩,
   ⟨lit, 0, 0, 0, 0, by decide +kernel⟩,
   ⟨parts3 lit, 0, 0, 3, 0, by decide +kernel⟩,
   ⟨(wholeOnce lit).updPort 0 0 (fun P => { P with accepted := [0, 1, 2, 3] }), 0, 0, 3, 0, by decide +kernel⟩,
   ⟨wholeOnce lit, 0, 0, 3, 0, by decide +kernel⟩,
   ⟨lit, 0, 0, by decide +kernel⟩,
   ⟨((((lit.fset 0 Reg.INJ_PT.ARM 1 injLink).fset 0 Reg.INJ_PT.POINT 6 injLink).fset 0 Reg.INJ_PT.ARG 5 injLink)).updPort 0 0 (fun P => { P with stop := .relock }), 0, 0, by decide +kernel⟩,
   ⟨linkIn lsLock, 0, 0, by decide +kernel⟩,
   ⟨lit.updPort 0 0 (fun P => { P with rx := { P.rx with failed := 2 } }), 0, 0, by decide +kernel⟩⟩

theorem wit_LinkStateCommandsComplete_9_to_16 :
    (∃ (s : State) (f : FieldId) (n : PortId), (s.svc f ≠ svcDark) ∧ (s.portLit f n = true) ∧ (s.link f n ≠ lsActive) ∧ (s.link f n ≠ lsHeld) ∧ (s.link f n ≠ lsQualify)) ∧
    (∃ (s : State) (f : FieldId) (n : PortId), (s.svc f ≠ svcDark) ∧ (s.portLit f n = true) ∧ (s.link f n = lsQualify)) ∧
    (∃ (s : State) (f : FieldId) (n : PortId), (s.portLit f n = false)) ∧
    (∃ (s : State) (f : FieldId) (n : PortId) (st : Fin 16) (r : Bool) (q : Nat), (s.svc f ≠ svcDark) ∧ (s.link f n ≠ lsRetrain ∨ r = false ∨ st.val = lsRetrain ∨ st.val = lsActive) ∧ (r = false ∨ (s.port f n).ready = false ∨ (s.port f n).stop.silent = true)) ∧
    (∃ (s : State) (f : FieldId) (n : PortId) (st : Fin 16) (q : Nat), (s.svc f ≠ svcDark) ∧ (s.link f n ≠ lsRetrain ∨ st.val = lsRetrain ∨ st.val = lsActive) ∧ ((s.port f n).ready = true) ∧ ((s.port f n).stop.silent = false) ∧ (s.link f n = lsQualify ∨ (8 ≤ s.txLanes f n ∧ 8 ≤ s.rxLanes f n))) ∧
    (∃ (s : State) (f : FieldId) (n : PortId) (st : Fin 16) (q : Nat), (s.svc f ≠ svcDark) ∧ (s.link f n ≠ lsRetrain ∨ st.val = lsRetrain ∨ st.val = lsActive) ∧ ((s.port f n).ready = true) ∧ ((s.port f n).stop.silent = false) ∧ (s.link f n = lsQualify ∨ (8 ≤ s.txLanes f n ∧ 8 ≤ s.rxLanes f n))) ∧
    (∃ (s : State) (f : FieldId) (n : PortId) (st : Fin 16) (q : Nat), (s.svc f ≠ svcDark) ∧ (s.link f n = lsRetrain) ∧ (st.val ≠ lsRetrain) ∧ (st.val ≠ lsActive)) ∧
    (∃ (s : State) (f : FieldId) (n : PortId) (m : Nat), (s.svc f ≠ svcDark) ∧ (s.link f n = lsQualify) ∧ ((s.port f n).qualDone ≠ 0xFFFF)) ∧
    (∃ (s : State) (f : FieldId) (n : PortId) (m : Nat), (s.svc f ≠ svcDark) ∧ (s.link f n = lsQualify) ∧ ((s.port f n).qualDone = 0xFFFF)) ∧
    (∃ (s : State) (f : FieldId) (n : PortId) (m : Nat), (s.svc f ≠ svcDark) ∧ (s.link f n = lsQualify) ∧ ((s.port f n).qualDone = 0xFFFF)) :=
  ⟨⟨linkIn lsLock, 0, 0, by decide +kernel⟩,
   ⟨(linkIn lsQualify).updPort 0 0 (fun P => { P with qualDone := 0xFFFF, qualPass := 7, ready := true }), 0, 0, by decide +kernel⟩,
   ⟨State.reset, 0, 0, by decide +kernel⟩,
   ⟨lit, 0, 0, 0, true, 7, by decide +kernel⟩,
   ⟨(linkIn lsBeacon).updPort 0 0 (fun P => { P with ready := true, lock := 0x7FFF }), 0, 0, 0, 0, by decide +kernel⟩,
   ⟨(linkIn lsQualify).updPort 0 0 (fun P => { P with ready := true }), 0, 0, 0, 0, by decide +kernel⟩,
   ⟨linkIn lsRetrain, 0, 0, 2, 0, by decide +kernel⟩,
   ⟨linkIn lsQualify, 0, 0, 7, by decide +kernel⟩,
   ⟨(linkIn lsQualify).updPort 0 0 (fun P => { P with qualDone := 0xFFFF, qualPass := 0xFFF }), 0, 0, 0x1FF, by decide +kernel⟩,
   ⟨(linkIn lsQualify).updPort 0 0 (fun P => { P with qualDone := 0xFFFF, qualPass := 0xFFF }), 0, 0, 7, by decide +kernel⟩⟩

theorem wit_LinkStateCommandsComplete_17_to_25 :
    (∃ (s : State) (f : FieldId) (n : PortId) (w : Lambda) (l c x : Nat), (s.svc f ≠ svcDark) ∧ (s.link f n = lsQualify) ∧ (bit (s.port f n).qualDone w = false) ∧ (setBit (s.port f n).qualDone w true ≠ 0xFFFF ∨ (s.port f n).farPass = none)) ∧
    (∃ (s : State) (f : FieldId) (n : PortId) (w : Lambda) (l c x : Nat), (s.svc f ≠ svcDark) ∧ (s.link f n = lsQualify) ∧ (bit (s.port f n).qualDone w = false) ∧ (setBit (s.port f n).qualDone w true ≠ 0xFFFF ∨ (s.port f n).farPass = none)) ∧
    (∃ (s : State) (f : FieldId) (n : PortId) (w : Lambda) (l c x m : Nat), (s.svc f ≠ svcDark) ∧ (s.link f n = lsQualify) ∧ (bit (s.port f n).qualDone w = false) ∧ (setBit (s.port f n).qualDone w true = 0xFFFF) ∧ ((s.port f n).farPass = some m)) ∧
    (∃ (s : State) (f : FieldId) (n : PortId) (w : Lambda) (m l c x : Nat), (s.link f n ≠ lsQualify)) ∧
    (∃ (s : State) (f : FieldId) (n : PortId) (w : Lambda) (l c x : Nat), (bit (s.port f n).qualDone w = true)) ∧
    (∃ (s : State) (f : FieldId) (n : PortId), (s.svc f ≠ svcDark) ∧ (s.link f n = lsActive) ∧ (((s.port f n).retrains.filter (fun t => s.now < t + 10000 * oneMs)).length < 8) ∧ ((s.port f n).lock = 0) ∧ (s.rxSuspended f n = false)) ∧
    (∃ (s : State) (f : FieldId) (n : PortId), (s.svc f ≠ svcDark) ∧ (s.link f n = lsActive) ∧ (((s.port f n).retrains.filter (fun t => s.now < t + 10000 * oneMs)).length < 8)) ∧
    (∃ (s : State) (f : FieldId) (n : PortId), (s.svc f ≠ svcDark) ∧ (s.link f n = lsActive) ∧ (8 ≤ ((s.port f n).retrains.filter (fun t => s.now < t + 10000 * oneMs)).length)) ∧
    (∃ (s : State) (f : FieldId) (n : PortId), (s.svc f ≠ svcDark) ∧ (s.link f n = lsActive) ∧ (8 ≤ ((s.port f n).retrains.filter (fun t => s.now < t + 10000 * oneMs)).length) ∧ ((s.port f n).lock = 0) ∧ (s.rxSuspended f n = false)) ∧
    (∃ (s : State) (f : FieldId) (n : PortId), (s.link f n ≠ lsActive)) :=
  ⟨⟨linkIn lsQualify, 0, 0, 0, 10 ^ 12, 0, 0, by decide +kernel⟩,
   ⟨(linkIn lsQualify).updPort 0 0 (fun P => { P with qualDone := 0xFFFE }), 0, 0, 0, 10 ^ 12, 5, 1, by decide +kernel⟩,
   ⟨(linkIn lsQualify).updPort 0 0 (fun P => { P with qualDone := 0xFFFE, qualPass := 0x1FE, farPass := some 0x1FF }), 0, 0, 0, 10 ^ 12, 0, 0, 0x1FF, by decide +kernel⟩,
   ⟨lit, 0, 0, 0, 1, 2, 3, 4, by decide +kernel⟩,
   ⟨(linkIn lsQualify).updPort 0 0 (fun P => { P with qualDone := 1 }), 0, 0, 0, 1, 2, 3, by decide +kernel⟩,
   ⟨lit, 0, 0, by decide +kernel⟩,
   ⟨lit.updPort 0 0 (fun P => { P with lock := 3 }), 0, 0, by decide +kernel⟩,
   ⟨eightRetrains, 0, 0, by decide +kernel⟩,
   ⟨eightRetrains, 0, 0, by decide +kernel⟩,
   ⟨linkIn lsLock, 0, 0, by decide +kernel⟩⟩

theorem wit_LinkStateCommandsComplete_26_to_35 :
    (∃ (s : State) (f : FieldId) (n : PortId), ((s.port f n).lock ≠ 0 ∨ s.rxSuspended f n = true)) ∧
    (∃ (s : State) (f : FieldId) (n : PortId), (s.svc f ≠ svcDark) ∧ (s.link f n = lsFailed)) ∧
    (∃ (s : State) (f : FieldId) (n : PortId), (s.link f n ≠ lsFailed) ∧ (s.link f n ≠ lsActive)) ∧
    (∃ (s : State) (f : FieldId) (n : PortId), (s.svc f ≠ svcDark) ∧ (s.link f n = lsRetrain)) ∧
    (∃ (s : State) (f : FieldId) (n : PortId), (s.link f n ≠ lsRetrain)) ∧
    (∃ (s : State) (f : FieldId) (n : PortId) (q : Nat), (s.svc f ≠ svcDark) ∧ ((s.port f n).stop = .none) ∧ (s.freg f Reg.HDL_PORT_STATUS.LIGHT_PAUSE n ≠ 1) ∧ ((s.port f n).pauseOver = 0 ∨ (s.port f n).pauseOver - 1 + 10000 ≤ s.now) ∧ (s.link f n = lsActive) ∧ ((s.port f n).held.any (fun h => h.seq = q) = true)) ∧
    (∃ (s : State) (f : FieldId) (n : PortId) (q : Nat), ((s.port f n).stop ≠ .none ∨ s.freg f Reg.HDL_PORT_STATUS.LIGHT_PAUSE n = 1 ∨ ((s.port f n).pauseOver ≠ 0 ∧ s.now < (s.port f n).pauseOver - 1 + 10000) ∨ s.link f n ≠ lsActive ∨ (s.port f n).held.any (fun h => h.seq = q) = false)) ∧
    (∃ (s : State) (f : FieldId) (n : PortId), (s.svc f ≠ svcDark)) ∧
    (∃ (s : State) (f : FieldId) (n : PortId), (s.svc f ≠ svcDark) ∧ (s.freg f Reg.RTE_PLAN_PORT.AXIS n ≠ 0) ∧ (s.link f n = lsLock ∨ s.link f n = lsBeacon) ∧ ((s.port f n).heard = false)) ∧
    (∃ (s : State) (f : FieldId) (n : PortId), (s.freg f Reg.RTE_PLAN_PORT.AXIS n = 0 ∨ (s.link f n ≠ lsLock ∧ s.link f n ≠ lsBeacon) ∨ (s.port f n).heard = true)) :=
  ⟨⟨lit.updPort 0 0 (fun P => { P with lock := 3 }), 0, 0, by decide +kernel⟩,
   ⟨linkIn lsFailed, 0, 0, by decide +kernel⟩,
   ⟨linkIn lsLock, 0, 0, by decide +kernel⟩,
   ⟨linkIn lsRetrain, 0, 0, by decide +kernel⟩,
   ⟨lit, 0, 0, by decide +kernel⟩,
   ⟨lit.updPort 0 0 (fun P => { P with held := [⟨0, 0, false, 0, [], 1⟩] }), 0, 0, 0, by decide +kernel⟩,
   ⟨lit, 0, 0, 0, by decide +kernel⟩,
   ⟨lit, 0, 0, by decide +kernel⟩,
   ⟨(linkIn lsLock).fset 0 Reg.RTE_PLAN_PORT.AXIS 1, 0, 0, by decide +kernel⟩,
   ⟨lit, 0, 0, by decide +kernel⟩⟩

theorem wit_LinkStateCommandsComplete_36_to_40 :
    (∃ (s : State) (f : FieldId) (n : PortId), (s.svc f ≠ svcDark)) ∧
    (∃ (s : State) (f : FieldId) (n : PortId) (m : Nat) (b : BeaconId), (s.svc f ≠ svcDark) ∧ ((s.field f).hubLost = false) ∧ (bit m n = true) ∧ (s.link f n = lsHeld) ∧ (s.freg f Reg.RTE_DISC_STATUS.OUTCOME n = dSwapOther ∨ s.freg f Reg.RTE_DISC_STATUS.OUTCOME n = dUnplanned ∨ s.freg f Reg.RTE_DISC_STATUS.OUTCOME n = dForeign) ∧ ((s.port f n).seen = some b) ∧ (b.digest = s.freg f Reg.RTE_PLAN_HDR.DIGEST) ∧ ((axesDiffer (nodePkg b.node) s.pkgNode).length = 1) ∧ (s.axisSize f ((axesDiffer (nodePkg b.node) s.pkgNode).headD 0) ≠ 1)) ∧
    (∃ (s : State) (f : FieldId) (n : PortId) (m : Nat), (s.svc f ≠ svcDark) ∧ ((s.field f).hubLost = false) ∧ (bit m n = true) ∧ (s.link f n ≠ lsHeld ∨ (s.port f n).seen = none ∨ (s.port f n).seen.all (fun b => decide (b.digest ≠ s.freg f Reg.RTE_PLAN_HDR.DIGEST)) = true ∨ s.freg f Reg.RTE_DISC_STATUS.OUTCOME n = dMatch)) ∧
    (∃ (s : State) (f : FieldId) (m : Nat), ((s.field f).hubLost = true ∨ m % 2 ^ 16 = 0)) ∧
    (∃ (s : State) (f : FieldId) (n : PortId) (w : Lambda) (p : Fin 4) (st : Fin 16) (a l c x : Nat) (r : Bool), (s.svc f = svcDark)) :=
  ⟨⟨lit, 0, 0, by decide +kernel⟩,
   ⟨heldPort.fset 0 Reg.RTE_PLAN_HDR.SIZE_U 2, 0, 0, 1, ⟨0, 0, State.reset.pkgNode + 4, State.reset.freg 0 Reg.RTE_PLAN_HDR.DIGEST⟩, by decide +kernel⟩,
   ⟨lit, 0, 0, 1, by decide +kernel⟩,
   ⟨lit, 0, 0x10000, by decide +kernel⟩,
   ⟨darkRim, 0, 0, 0, 1, 2, 3, 4, 5, 6, true, by decide +kernel⟩⟩

/-! ### FlitCommandsComplete: states and operands that meet the hypotheses of each clause, in the clauses' order. -/

theorem wit_FlitCommandsComplete_0_to_8 :
    (∃ (s : State) (f : FieldId) (n : PortId) (x : Flit), (s.svc f ≠ svcDark) ∧ (s.flitsTaken f n = true) ∧ (x.crc = flitCrc flitData x) ∧ (trunc 3 x.vc ≠ 7) ∧ (1 ≤ x.len ∧ x.len ≤ 240) ∧ (trunc 14 x.seq = (s.port f n).exp) ∧ ((s.port f n).hasBuffer x.vc x.pool = true)) ∧
    (∃ (s : State) (f : FieldId) (n : PortId) (x : Flit), (s.svc f ≠ svcDark) ∧ (s.flitsTaken f n = true) ∧ (x.crc = flitCrc flitData x) ∧ (trunc 3 x.vc ≠ 7) ∧ (1 ≤ x.len ∧ x.len ≤ 240) ∧ (trunc 14 x.seq ≠ (s.port f n).exp) ∧ (((s.port f n).exp + 0x4000 - trunc 14 x.seq) % 0x4000 ≤ 8192)) ∧
    (∃ (s : State) (f : FieldId) (n : PortId) (x : Flit), (s.svc f ≠ svcDark) ∧ (s.flitsTaken f n = true) ∧ (x.crc = flitCrc flitData x) ∧ (trunc 3 x.vc ≠ 7) ∧ (1 ≤ x.len ∧ x.len ≤ 240) ∧ (trunc 14 x.seq ≠ (s.port f n).exp) ∧ (8192 < ((s.port f n).exp + 0x4000 - trunc 14 x.seq) % 0x4000)) ∧
    (∃ (s : State) (f : FieldId) (n : PortId) (x : Flit), (s.svc f ≠ svcDark) ∧ (s.flitsTaken f n = true) ∧ (x.crc = flitCrc flitData x) ∧ (trunc 3 x.vc = 7)) ∧
    (∃ (s : State) (f : FieldId) (n : PortId) (x : Flit), (s.svc f ≠ svcDark) ∧ (s.flitsTaken f n = true) ∧ (x.crc = flitCrc flitData x) ∧ (trunc 3 x.vc ≠ 7) ∧ (x.len = 0 ∨ 240 < x.len)) ∧
    (∃ (s : State) (f : FieldId) (n : PortId) (x : Flit), (s.svc f ≠ svcDark) ∧ (s.flitsTaken f n = true) ∧ (x.crc = flitCrc flitData x) ∧ (trunc 3 x.vc ≠ 7) ∧ (x.len = 0 ∨ 240 < x.len)) ∧
    (∃ (s : State) (f : FieldId) (n : PortId) (x : Flit), (s.svc f ≠ svcDark) ∧ (s.flitsTaken f n = true) ∧ (x.crc = flitCrc flitData x) ∧ (trunc 3 x.vc ≠ 7) ∧ (1 ≤ x.len ∧ x.len ≤ 240) ∧ (trunc 14 x.seq = (s.port f n).exp) ∧ ((s.port f n).hasBuffer x.vc x.pool = false)) ∧
    (∃ (s : State) (f : FieldId) (n : PortId) (x : Flit) (ty : Fin 8), (s.svc f ≠ svcDark) ∧ (s.flitsTaken f n = true) ∧ (ty ≠ 0) ∧ (x.crc = flitCrc ty x)) ∧
    (∃ (s : State) (f : FieldId) (n : PortId) (x : Flit) (ty : Fin 8), (s.svc f ≠ svcDark) ∧ (s.flitsTaken f n = true) ∧ (x.crc ≠ flitCrc ty x)) ∧
    (∃ (s : State) (f : FieldId) (n : PortId) (x : Flit), (s.svc f ≠ svcDark) ∧ (s.flitsTaken f n = true) ∧ (∃ y ∈ ([(.idleFlit f n x, flitIdle), (.nakFlit f n x, flitNak)] : List (Instr × Nat)), (x.crc ≠ flitCrc y.2 x))) :=
  ⟨⟨lit, 0, 0, flitGood flitData 1, by decide +kernel, by decide +kernel, flitGood_crc _ _, by decide +kernel⟩,
   ⟨lit, 0, 0, fixed flitData { flit0 1 with seq := 0x3FFF }, by decide +kernel, by decide +kernel, fixed_crc _ _, by decide +kernel⟩,
   ⟨lit, 0, 0, fixed flitData { flit0 1 with seq := 9 }, by decide +kernel, by decide +kernel, fixed_crc _ _, by decide +kernel⟩,
   ⟨lit, 0, 0, fixed flitData { flit0 1 with vc := 7 }, by decide +kernel, by decide +kernel, fixed_crc _ _, by decide +kernel⟩,
   ⟨lit, 0, 0, fixed flitData (flit0 0), by decide +kernel, by decide +kernel, fixed_crc _ _, by decide +kernel⟩,
   ⟨lit, 0, 0, fixed flitData (flit0 241), by decide +kernel, by decide +kernel, fixed_crc _ _, by decide +kernel⟩,
   ⟨lit.updPort 0 0 (fun P => { P with rxq := [(0, List.replicate 256 ⟨false, [], 0⟩)] }), 0, 0, flitGood flitData 1, by decide +kernel, by decide +kernel, flitGood_crc _ _, by decide +kernel⟩,
   ⟨lit, 0, 0, fixed 5 (flit0 1), 5, by decide +kernel, by decide +kernel, by decide, fixed_crc _ _⟩,
   ⟨lit, 0, 0, broken 0 (flit0 1), 0, by decide +kernel, by decide +kernel, broken_crc _ _⟩,
   ⟨lit, 0, 0, broken flitIdle (flit0 0), by decide +kernel, by decide +kernel, (.idleFlit 0 0 (broken flitIdle (flit0 0)), flitIdle), by simp, broken_crc _ _⟩⟩

theorem wit_FlitCommandsComplete_9_to_18 :
    (∃ (s : State) (f : FieldId) (n : PortId) (x : Flit), (s.svc f ≠ svcDark) ∧ (s.flitsTaken f n = true) ∧ (∃ y ∈ ([(.idleFlit f n x, flitIdle), (.nakFlit f n x, flitNak)] : List (Instr × Nat)), (x.crc = flitCrc y.2 x) ∧ (trunc 3 x.vc = 7))) ∧
    (∃ (s : State) (f : FieldId) (n : PortId) (x : Flit), (s.svc f ≠ svcDark) ∧ (s.flitsTaken f n = true) ∧ (x.crc = flitCrc flitIdle x) ∧ (trunc 3 x.vc ≠ 7)) ∧
    (∃ (s : State) (f : FieldId) (n : PortId) (x : Flit), (s.svc f ≠ svcDark) ∧ (s.flitsTaken f n = true) ∧ (x.crc = flitCrc flitNak x) ∧ (trunc 3 x.vc ≠ 7)) ∧
    (∃ (s : State) (f : FieldId) (n : PortId) (x : Flit) (ty : Fin 8), (s.svc f = svcDark ∨ s.flitsTaken f n = false)) ∧
    (∃ (s : State) (f : FieldId) (n : PortId) (k : Fin 18), (k.val = n.val) ∧ (s.svc f ≠ svcDark) ∧ (s.link f n = lsActive) ∧ ((s.port f n).stop = .none) ∧ (s.portLit f n = true) ∧ ((s.port f n).nakDue = true) ∧ ((s.port f n).withheld = none)) ∧
    (∃ (s : State) (f : FieldId) (n : PortId) (k : Fin 18) (r : Nat) (h : HeldFlit), (k.val = n.val) ∧ (s.svc f ≠ svcDark) ∧ (s.link f n = lsActive) ∧ ((s.port f n).stop = .none) ∧ (s.portLit f n = true) ∧ ((s.port f n).nakDue = false ∨ (s.port f n).withheld ≠ none) ∧ ((s.port f n).resend = some r) ∧ ((s.port f n).held.find? (fun h => decide (h.seq = r)) = some h) ∧ (h.sends < 8)) ∧
    (∃ (s : State) (f : FieldId) (n : PortId) (k : Fin 18) (r : Nat) (h : HeldFlit), (k.val = n.val) ∧ (s.svc f ≠ svcDark) ∧ (s.link f n = lsActive) ∧ ((s.port f n).stop = .none) ∧ (s.portLit f n = true) ∧ ((s.port f n).nakDue = false ∨ (s.port f n).withheld ≠ none) ∧ ((s.port f n).resend = some r) ∧ ((s.port f n).held.find? (fun h => decide (h.seq = r)) = some h) ∧ (8 ≤ h.sends)) ∧
    (∃ (s : State) (f : FieldId) (n : PortId) (k : Fin 18) (v : Nat), (k.val = n.val) ∧ (s.svc f ≠ svcDark) ∧ (s.link f n = lsActive) ∧ ((s.port f n).stop = .none) ∧ (s.portLit f n = true) ∧ ((s.port f n).nakDue = false ∨ (s.port f n).withheld ≠ none) ∧ ((s.port f n).resend = none) ∧ ((s.port f n).held.length < 8192) ∧ ((((s.port f n).arb.tokens (s.arbCtl f)).pick (s.arbCtl f) (s.elig f n)).2 = some v)) ∧
    (∃ (s : State) (f : FieldId) (n : PortId) (k : Fin 18), (k.val = n.val) ∧ (s.svc f ≠ svcDark) ∧ (s.link f n = lsActive) ∧ ((s.port f n).stop = .none) ∧ (s.portLit f n = true) ∧ ((s.port f n).nakDue = false ∨ (s.port f n).withheld ≠ none) ∧ ((s.port f n).resend = none) ∧ (8192 ≤ (s.port f n).held.length ∨ (((s.port f n).arb.tokens (s.arbCtl f)).pick (s.arbCtl f) (s.elig f n)).2 = none)) ∧
    (∃ (s : State) (f : FieldId) (n : PortId) (k : Fin 18), (k.val = n.val) ∧ (s.link f n ≠ lsActive ∨ (s.port f n).stop ≠ .none ∨ s.portLit f n = false)) :=
  ⟨⟨lit, 0, 0, fixed flitNak { flit0 0 with vc := 7 }, by decide +kernel, by decide +kernel, (.nakFlit 0 0 (fixed flitNak { flit0 0 with vc := 7 }), flitNak), by simp, fixed_crc _ _, by decide +kernel⟩,
   ⟨lit, 0, 0, flitGood flitIdle 0, by decide +kernel, by decide +kernel, flitGood_crc _ _, by decide +kernel⟩,
   ⟨lit, 0, 0, flitGood flitNak 0, by decide +kernel, by decide +kernel, flitGood_crc _ _, by decide +kernel⟩,
   ⟨State.reset, 0, 0, flit0 0, 1, by decide +kernel⟩,
   ⟨lit.updPort 0 0 (fun P => { P with nakDue := true }), 0, 0, 0, by decide +kernel⟩,
   ⟨replaying 1, 0, 0, 0, 5, ⟨5, 0, false, 0, [1], 1⟩, by decide +kernel⟩,
   ⟨replaying 8, 0, 0, 0, 5, ⟨5, 0, false, 0, [1], 8⟩, by decide +kernel⟩,
   ⟨waitingFlit, 0, 0, 0, 0, by decide +kernel⟩,
   ⟨lit, 0, 0, 0, by decide +kernel⟩,
   ⟨State.reset, 0, 0, 0, by decide +kernel⟩⟩

theorem wit_FlitCommandsComplete_19_to_22 :
    (∃ (s : State) (f : FieldId) (k : Fin 18) (v st : Nat), (s.svc f ≠ svcDark) ∧ (16 ≤ k.val) ∧ (s.d2dJoined f (d2dNext f k) = true) ∧ ((((SMap.get (s.field f).router.d2darb Arb.reset k).tokens (s.arbCtl f)).pick (s.arbCtl f) (fun v => (s.d2dClass f k v).isSome)).2 = some v) ∧ (s.d2dClass f k v = some st)) ∧
    (∃ (s : State) (f : FieldId) (k : Fin 18), (s.svc f ≠ svcDark) ∧ (16 ≤ k.val) ∧ (s.d2dJoined f (d2dNext f k) = true) ∧ ((((SMap.get (s.field f).router.d2darb Arb.reset k).tokens (s.arbCtl f)).pick (s.arbCtl f) (fun v => (s.d2dClass f k v).isSome)).2 = none)) ∧
    (∃ (s : State) (f : FieldId) (k : Fin 18), (s.svc f ≠ svcDark) ∧ (16 ≤ k.val) ∧ (s.d2dJoined f (d2dNext f k) = false)) ∧
    (∃ (s : State) (f : FieldId) (k : Fin 18), (s.svc f = svcDark)) :=
  ⟨⟨ringWaiting, 0, 16, 0, 0, by decide +kernel⟩,
   ⟨ringUp, 0, 17, by decide +kernel⟩,
   ⟨rimOn.hset Reg.HUB_D2D_STATUS.UP 0, 0, 16, by decide +kernel⟩,
   ⟨darkRim, 0, 16, by decide +kernel⟩⟩

/-! ### RoutingCommandsComplete: states and operands that meet the hypotheses of each clause, in the clauses' order. -/

theorem wit_RoutingCommandsComplete_0_to_9 :
    (∃ (s : State) (f : FieldId) (l : Fin 19) (vc : Fin 8) (g : Fin 9) (t : State) (p : Packet), (s.svc f ≠ svcDark) ∧ (s.takeHead f l vc g = some (t, p)) ∧ (l.val ≠ 18 ∨ p.mcast = false)) ∧
    (∃ (s : State) (f : FieldId) (l : Fin 19) (vc : Fin 8) (g : Fin 9) (p : Packet), (s.svc f ≠ svcDark) ∧ ((s.takeHead f l vc g).map Prod.snd = some p) ∧ (l.val ≠ 18 ∨ p.mcast = false) ∧ (p.dst = s.node f) ∧ (p.dst < 0x2000) ∧ (s.deliverOk f p = true) ∧ (pktRemote p = false ∨ p.allot = mgmtAllot ∨ rhWellFormed p = true) ∧ (p.cls ≠ 1 ∨ shfKnown p = true)) ∧
    (∃ (s : State) (f : FieldId) (l : Fin 19) (vc : Fin 8) (g : Fin 9) (p : Packet), (s.svc f ≠ svcDark) ∧ ((s.takeHead f l vc g).map Prod.snd = some p) ∧ (l.val ≠ 18 ∨ p.mcast = false) ∧ (p.dst = s.node f) ∧ (p.dst < 0x2000) ∧ (s.deliverOk f p = false)) ∧
    (∃ (s : State) (f : FieldId) (l : Fin 19) (vc : Fin 8) (g : Fin 9) (p : Packet), (s.svc f ≠ svcDark) ∧ ((s.takeHead f l vc g).map Prod.snd = some p) ∧ (l.val ≠ 18 ∨ p.mcast = false) ∧ (0x2000 ≤ p.dst)) ∧
    (∃ (s : State) (f : FieldId) (l : Fin 19) (vc : Fin 8) (g : Fin 9) (p : Packet) (r : Routed) (n : PortId), (s.svc f ≠ svcDark) ∧ ((s.takeHead f l vc g).map Prod.snd = some p) ∧ (l.val ≠ 18 ∨ p.mcast = false) ∧ (s.freg f Reg.RTE_TABLE_STATUS.SEALED = 1) ∧ (s.nextHop f { pkt := p, vc := vc } = (r, .port n)) ∧ (s.transitOk f r n = true)) ∧
    (∃ (s : State) (f : FieldId) (l : Fin 19) (vc : Fin 8) (g : Fin 9) (p : Packet) (r : Routed) (n : PortId), (s.svc f ≠ svcDark) ∧ ((s.takeHead f l vc g).map Prod.snd = some p) ∧ (l.val ≠ 18 ∨ p.mcast = false) ∧ (s.freg f Reg.RTE_TABLE_STATUS.SEALED = 1) ∧ (s.nextHop f { pkt := p, vc := vc } = (r, .port n)) ∧ (s.transitOk f r n = false)) ∧
    (∃ (s : State) (f : FieldId) (vc : Fin 8) (g : Fin 9) (p : Packet) (ps : List Packet), (s.svc f ≠ svcDark) ∧ (SMap.get (s.field f).router.issued [] vc = p :: ps) ∧ (p.mcast = true)) ∧
    (∃ (s : State) (f : FieldId) (l : Fin 19) (vc : Fin 8) (g : Fin 9), (s.svc f = svcDark ∨ s.takeHead f l vc g = none)) ∧
    (∃ (s : State) (f : FieldId) (p : Packet) (c : Nat) (cs : List Nat) (l : List (Packet × List Nat)), (s.svc f ≠ svcDark) ∧ ((s.field f).router.mcasts = (p, c :: cs) :: l)) ∧
    (∃ (s : State) (f : FieldId) (p : Packet) (l : List (Packet × List Nat)), (s.svc f ≠ svcDark) ∧ ((s.field f).router.mcasts = (p, []) :: l)) :=
  ⟨⟨issuing (mgmtPkt 0), 0, 18, 0, 0, (((issuing (mgmtPkt 0)).takeHead 0 18 0 0).map Prod.fst).getD rimOn, mgmtPkt 0, by decide +kernel⟩,
   ⟨issuing (mgmtPkt (State.reset.node 0)), 0, 18, 0, 0, mgmtPkt (State.reset.node 0), by decide +kernel⟩,
   ⟨issuing { mgmtPkt (State.reset.node 0) with cls := 2 }, 0, 18, 0, 0, { mgmtPkt (State.reset.node 0) with cls := 2 }, by decide +kernel⟩,
   ⟨issuing (mgmtPkt 0x2000), 0, 18, 0, 0, mgmtPkt 0x2000, by decide +kernel⟩,
   ⟨routed (mgmtPkt (State.reset.node 0 + 4)), 0, 18, 0, 0, mgmtPkt (State.reset.node 0 + 4), (((routed (mgmtPkt (State.reset.node 0 + 4)))).nextHop 0 ⟨mgmtPkt (State.reset.node 0 + 4), 0⟩).1, 0, by decide +kernel⟩,
   ⟨routed { mgmtPkt (State.reset.node 0 + 4) with allot := 9, cls := 2 }, 0, 18, 0, 0, { mgmtPkt (State.reset.node 0 + 4) with allot := 9, cls := 2 }, (((routed { mgmtPkt (State.reset.node 0 + 4) with allot := 9, cls := 2 })).nextHop 0 ⟨{ mgmtPkt (State.reset.node 0 + 4) with allot := 9, cls := 2 }, 0⟩).1, 0, by decide +kernel⟩,
   ⟨issuing { pktOf kMcastPut 0 with mcast := true }, 0, 0, 0, { pktOf kMcastPut 0 with mcast := true }, [], by decide +kernel⟩,
   ⟨State.reset, 0, 3, 0, 0, by decide +kernel⟩,
   ⟨rimOn.updRouter 0 (fun R => { R with mcasts := [(pktOf kGet 0, [0])] }), 0, pktOf kGet 0, 0, [], [], by decide +kernel⟩,
   ⟨rimOn.updRouter 0 (fun R => { R with mcasts := [(pktOf kGet 0, [])] }), 0, pktOf kGet 0, [], by decide +kernel⟩⟩

theorem wit_RoutingCommandsComplete_10_to_19 :
    (∃ (s : State) (f : FieldId), (s.svc f = svcDark ∨ (s.field f).router.mcasts = [])) ∧
    (∃ (s : State) (f : FieldId), (s.svc f ≠ svcDark) ∧ ((s.field f).hubLost = false) ∧ (s.freg f Reg.RTE_TABLE_STATUS.PENDING = 1)) ∧
    (∃ (s : State) (f : FieldId) (code t i : Nat), (s.svc f ≠ svcDark) ∧ ((s.field f).hubLost = false) ∧ (s.freg f Reg.RTE_TABLE_STATUS.PENDING ≠ 1) ∧ (s.sealCheck f (s.field f).staging = some (code, t, i))) ∧
    (∃ (s : State) (f : FieldId), (s.svc f ≠ svcDark) ∧ ((s.field f).hubLost = false) ∧ (s.freg f Reg.RTE_TABLE_STATUS.PENDING ≠ 1) ∧ (s.sealCheck f (s.field f).staging = none) ∧ (s.freg f Reg.RTE_TABLE_CTL.AT_MARK = 1)) ∧
    (∃ (s : State) (f : FieldId), (s.svc f ≠ svcDark) ∧ ((s.field f).hubLost = false) ∧ (s.freg f Reg.RTE_TABLE_STATUS.PENDING ≠ 1) ∧ (s.sealCheck f (s.field f).staging = none) ∧ (s.freg f Reg.RTE_TABLE_CTL.AT_MARK ≠ 1)) ∧
    (∃ (s : State) (f : FieldId), (s.svc f = svcDark ∨ (s.field f).hubLost = true)) ∧
    (∃ (s : State) (f : FieldId), (s.svc f ≠ svcDark) ∧ (s.freg f Reg.RTE_CONG_CTL.ENABLE ≠ 0)) ∧
    (∃ (s : State) (f : FieldId), (s.svc f ≠ svcDark) ∧ (s.freg f Reg.RTE_CONG_CTL.ENABLE ≠ 0) ∧ ((s.field f).tally.tInt / 2 ^ s.freg f Reg.RTE_CONG_CTL.WINDOW_LOG ≠ (s.field f).router.congSeen / 2 ^ s.freg f Reg.RTE_CONG_CTL.WINDOW_LOG)) ∧
    (∃ (s : State) (f : FieldId), (s.svc f = svcDark ∨ s.freg f Reg.RTE_CONG_CTL.ENABLE = 0)) ∧
    (∃ (s : State) (f : FieldId), ((s.field f).tally.tInt / 2 ^ s.freg f Reg.RTE_CONG_CTL.WINDOW_LOG = (s.field f).router.congSeen / 2 ^ s.freg f Reg.RTE_CONG_CTL.WINDOW_LOG)) :=
  ⟨⟨State.reset, 0, by decide +kernel⟩,
   ⟨rimOn.fset 0 Reg.RTE_TABLE_STATUS.PENDING 1, 0, by decide +kernel⟩,
   ⟨rimOn, 0, St.PLAN_INVALID, 4, 0, by decide +kernel⟩,
   ⟨(planned.fset 0 Reg.RTE_TABLE_CTL.AT_MARK 1).hset Reg.HUB_FIELD_STATE.STATE svcReady 0 0, 0, by decide +kernel⟩,
   ⟨planned.fset 0 Reg.RTE_TABLE_CTL.AT_MARK 0, 0, by decide +kernel⟩,
   ⟨darkRim, 0, by decide +kernel⟩,
   ⟨rimOn.fset 0 Reg.RTE_CONG_CTL.ENABLE 1, 0, by decide +kernel⟩,
   ⟨(rimOn.fset 0 Reg.RTE_CONG_CTL.ENABLE 1).updField 0 (fun F => { F with tally := { F.tally with tInt := 2 ^ 40 } }), 0, by decide +kernel⟩,
   ⟨rimOn.fset 0 Reg.RTE_CONG_CTL.ENABLE 0, 0, by decide +kernel⟩,
   ⟨rimOn, 0, by decide +kernel⟩⟩

theorem wit_RoutingCommandsComplete_20_to_23 :
    (∃ (s : State) (f : FieldId) (k : Nat) (x : CombSlot) (aged : Bool), (s.svc f ≠ svcDark) ∧ (SMap.find (s.field f).router.comb k = some x) ∧ (x.egress < 16) ∧ (s.vcCredit f (BitVec.ofNat 4 x.egress).toFin x.vc = true ∨ x.contribs.length = 8 ∨ aged = true)) ∧
    (∃ (s : State) (f : FieldId) (k : Nat) (x : CombSlot) (aged : Bool), (s.svc f ≠ svcDark) ∧ (SMap.find (s.field f).router.comb k = some x) ∧ (16 ≤ x.egress) ∧ (d2dRoom (SMap.get (s.field (d2dNext f x.egress)).router.d2dq [] (d2dKey (d2dSide (d2dNext f x.egress) f) x.vc x.pkt.stage)) = true ∨ x.contribs.length = 8 ∨ aged = true)) ∧
    (∃ (s : State) (f : FieldId) (k : Nat) (x : CombSlot), (SMap.find (s.field f).router.comb k = some x) ∧ ((if x.egress < 16 then s.vcCredit f (BitVec.ofNat 4 x.egress).toFin x.vc else d2dRoom (SMap.get (s.field (d2dNext f x.egress)).router.d2dq [] (d2dKey (d2dSide (d2dNext f x.egress) f) x.vc x.pkt.stage))) = false) ∧ (x.contribs.length ≠ 8)) ∧
    (∃ (s : State) (f : FieldId) (k : Nat) (aged : Bool), (s.svc f = svcDark ∨ SMap.find (s.field f).router.comb k = none)) :=
  ⟨⟨combining 0, 0, 0, combOne 0, true, by decide +kernel⟩,
   ⟨combining 16, 0, 0, combOne 16, false, by decide +kernel⟩,
   ⟨combining 0, 0, 0, combOne 0, by decide +kernel⟩,
   ⟨rimOn, 0, 0, true, by decide +kernel⟩⟩

/-! ### GatewayRequestsComplete: states and operands that meet the hypotheses of each clause, in the clauses' order. -/

theorem wit_GatewayRequestsComplete_0_to_9 :
    (∃ (s : State) (f : FieldId) (p : Packet), (s.svc f = svcDark)) ∧
    (∃ (s : State) (f : FieldId) (p : Packet), (s.svc f ≠ svcDark)) ∧
    (∃ (s : State) (f : FieldId) (p : Packet), (s.svc f ≠ svcDark) ∧ ((rhOf p).kind = kGet) ∧ (pktRemote p = true) ∧ (rhWellFormed p = true) ∧ (p.dst = s.node f) ∧ ((s.field f).router.inbox.contains p = true ∨ s.deliverOk f p = true) ∧ (s.halted f = false ∨ p.allot ≠ s.allot f)) ∧
    (∃ (s : State) (f : FieldId) (p : Packet), (s.svc f ≠ svcDark) ∧ ((rhOf p).kind = kPut) ∧ (pktRemote p = true) ∧ (rhWellFormed p = true) ∧ (p.dst = s.node f) ∧ ((s.field f).router.inbox.contains p = true ∨ s.deliverOk f p = true) ∧ (s.halted f = false ∨ p.allot ≠ s.allot f)) ∧
    (∃ (s : State) (f : FieldId) (p : Packet), (s.svc f ≠ svcDark) ∧ ((rhOf p).kind = kPutPartial) ∧ (pktRemote p = true) ∧ (rhWellFormed p = true) ∧ (p.dst = s.node f) ∧ ((s.field f).router.inbox.contains p = true ∨ s.deliverOk f p = true) ∧ (s.halted f = false ∨ p.allot ≠ s.allot f)) ∧
    (∃ (s : State) (f : FieldId) (p : Packet), (s.svc f ≠ svcDark) ∧ ((rhOf p).kind = kPutReduce) ∧ (pktRemote p = true) ∧ (rhWellFormed p = true) ∧ (p.dst = s.node f) ∧ ((s.field f).router.inbox.contains p = true ∨ s.deliverOk f p = true) ∧ (s.halted f = false ∨ p.allot ≠ s.allot f)) ∧
    (∃ (s : State) (f : FieldId) (p : Packet), (s.svc f ≠ svcDark) ∧ ((rhOf p).kind = kPut) ∧ (pktRemote p = true) ∧ (rhWellFormed p = true) ∧ (p.dst = s.node f) ∧ ((s.field f).router.inbox.contains p = true ∨ s.deliverOk f p = true) ∧ (s.halted f = false ∨ p.allot ≠ s.allot f) ∧ (s.injArmed f injGwy 2 = false) ∧ ((s.flowRx f p.src).valid = true) ∧ ((s.flowRx f p.src).fepoch = (rhOf p).fepoch) ∧ ((s.flowRx f p.src).exp = (rhOf p).seq) ∧ ((s.flowRx f p.src).held.any (fun x => decide (x.seq = (rhOf p).seq)) = false) ∧ ((s.gw f).redWait.any (fun q => decide (q.src = p.src) && decide ((rhOf q).seq = (rhOf p).seq)) = false) ∧ (p.cls ≠ 5)) ∧
    (∃ (s : State) (f : FieldId) (p : Packet), (s.svc f ≠ svcDark) ∧ ((rhOf p).kind = kPutPartial) ∧ (pktRemote p = true) ∧ (rhWellFormed p = true) ∧ (p.dst = s.node f) ∧ ((s.field f).router.inbox.contains p = true ∨ s.deliverOk f p = true) ∧ (s.halted f = false ∨ p.allot ≠ s.allot f) ∧ (s.injArmed f injGwy 2 = false) ∧ ((s.flowRx f p.src).valid = true) ∧ ((s.flowRx f p.src).fepoch = (rhOf p).fepoch) ∧ ((s.flowRx f p.src).exp = (rhOf p).seq) ∧ ((s.flowRx f p.src).held.any (fun x => decide (x.seq = (rhOf p).seq)) = false) ∧ ((s.gw f).redWait.any (fun q => decide (q.src = p.src) && decide ((rhOf q).seq = (rhOf p).seq)) = false)) ∧
    (∃ (s : State) (f : FieldId) (p : Packet), (s.svc f ≠ svcDark) ∧ ((rhOf p).kind = kPut) ∧ (pktRemote p = true) ∧ (rhWellFormed p = true) ∧ (p.dst = s.node f) ∧ ((s.field f).router.inbox.contains p = true ∨ s.deliverOk f p = true) ∧ (s.halted f = false ∨ p.allot ≠ s.allot f) ∧ (s.injArmed f injGwy 2 = false) ∧ ((s.flowRx f p.src).valid = true) ∧ ((s.flowRx f p.src).fepoch = (rhOf p).fepoch) ∧ ((s.flowRx f p.src).exp = (rhOf p).seq) ∧ ((s.flowRx f p.src).held.any (fun x => decide (x.seq = (rhOf p).seq)) = false) ∧ ((s.gw f).redWait.any (fun q => decide (q.src = p.src) && decide ((rhOf q).seq = (rhOf p).seq)) = false) ∧ (p.cls = 5)) ∧
    (∃ (s : State) (f : FieldId) (p : Packet) (R : RedLine), (s.svc f ≠ svcDark) ∧ ((rhOf p).kind = kPutReduce) ∧ (pktRemote p = true) ∧ (rhWellFormed p = true) ∧ (p.dst = s.node f) ∧ ((s.field f).router.inbox.contains p = true ∨ s.deliverOk f p = true) ∧ (s.halted f = false ∨ p.allot ≠ s.allot f) ∧ (s.injArmed f injGwy 2 = false) ∧ ((s.flowRx f p.src).valid = true) ∧ ((s.flowRx f p.src).fepoch = (rhOf p).fepoch) ∧ ((s.flowRx f p.src).exp = (rhOf p).seq) ∧ ((s.flowRx f p.src).held.any (fun x => decide (x.seq = (rhOf p).seq)) = false) ∧ ((s.gw f).redWait.any (fun q => decide (q.src = p.src) && decide ((rhOf q).seq = (rhOf p).seq)) = false) ∧ (targetOf p.key = .hbm) ∧ (SMap.find (s.gw f).red (p.key / 128) = some R) ∧ (R.flushed = none) ∧ (R.typ = (rhOf p).typ) ∧ (R.allot = p.allot)) :=
  ⟨⟨State.reset.hset Reg.HUB_FIELD_STATE.STATE svcDark 0 0, 0, pktOf kGet 0, by decide +kernel⟩,
   ⟨rimOn, 0, pktOf 0x7F 0, by decide +kernel⟩,
   ⟨recvOn (pktOf kGet 0), 0, pktOf kGet 0, by decide +kernel⟩,
   ⟨recvOn (pktOf kPut 128), 0, pktOf kPut 128, by decide +kernel⟩,
   ⟨recvOn (pktOf kPutPartial 128), 0, pktOf kPutPartial 128, by decide +kernel⟩,
   ⟨recvOn (pktOf kPutReduce 128), 0, pktOf kPutReduce 128, by decide +kernel⟩,
   ⟨flowOpen (recvOn (pktOf kPut 128)), 0, pktOf kPut 128, by decide +kernel⟩,
   ⟨flowOpen (recvOn (pktOf kPutPartial 128)), 0, pktOf kPutPartial 128, by decide +kernel⟩,
   ⟨flowOpen (recvOn { pktOf kPut 128 with cls := 5 }), 0, { pktOf kPut 128 with cls := 5 }, by decide +kernel⟩,
   ⟨reducing (flowOpen (recvOn (pktOf kPutReduce 128))), 0, pktOf kPutReduce 128, redZero, by decide +kernel⟩⟩

theorem wit_GatewayRequestsComplete_10_to_19 :
    (∃ (s : State) (f : FieldId) (p : Packet), (s.svc f ≠ svcDark) ∧ ((rhOf p).kind = kPutReduceComb) ∧ (pktRemote p = true) ∧ (rhWellFormed p = true) ∧ (p.dst = s.node f) ∧ ((s.field f).router.inbox.contains p = true ∨ s.deliverOk f p = true) ∧ (s.halted f = false ∨ p.allot ≠ s.allot f)) ∧
    (∃ (s : State) (f : FieldId) (p : Packet) (R : RedLine) (c : Nat × Nat × Nat), (s.svc f ≠ svcDark) ∧ ((rhOf p).kind = kPutReduceComb) ∧ (pktRemote p = true) ∧ (rhWellFormed p = true) ∧ (p.dst = s.node f) ∧ ((s.field f).router.inbox.contains p = true ∨ s.deliverOk f p = true) ∧ (s.halted f = false ∨ p.allot ≠ s.allot f) ∧ (s.injArmed f injGwy 4 = false) ∧ (combRecords p = [c]) ∧ ((s.flowRx f c.1).valid = true) ∧ ((s.flowRx f c.1).fepoch = c.2.1) ∧ (s.combDup f c = false) ∧ ((s.flowRx f c.1).exp = c.2.2) ∧ (targetOf p.key = .hbm) ∧ (SMap.find (s.gw f).red (p.key / 128) = some R) ∧ (R.flushed = none) ∧ (R.typ = (rhOf p).typ) ∧ (R.allot = p.allot)) ∧
    (∃ (s : State) (f : FieldId) (p : Packet), (s.svc f ≠ svcDark) ∧ ((rhOf p).kind = kMcastPut) ∧ (pktRemote p = true) ∧ (rhWellFormed p = true) ∧ (p.dst = s.node f) ∧ ((s.field f).router.inbox.contains p = true ∨ s.deliverOk f p = true) ∧ (s.halted f = false ∨ p.allot ≠ s.allot f)) ∧
    (∃ (s : State) (f : FieldId) (p : Packet) (a : AtomicResp), (s.svc f ≠ svcDark) ∧ ((rhOf p).kind = kFetchAdd) ∧ (pktRemote p = true) ∧ (rhWellFormed p = true) ∧ (p.dst = s.node f) ∧ ((s.field f).router.inbox.contains p = true ∨ s.deliverOk f p = true) ∧ (s.halted f = false ∨ p.allot ≠ s.allot f) ∧ ((s.gw f).atomics.find? (fun a => decide ((rhOf p).flags &&& fRetx ≠ 0) && decide (a.src = p.src) && decide (a.txn = (rhOf p).txn)) = some a)) ∧
    (∃ (s : State) (f : FieldId) (p : Packet), (s.svc f ≠ svcDark) ∧ ((rhOf p).kind = kFetchAdd) ∧ (pktRemote p = true) ∧ (rhWellFormed p = true) ∧ (p.dst = s.node f) ∧ ((s.field f).router.inbox.contains p = true ∨ s.deliverOk f p = true) ∧ (s.halted f = false ∨ p.allot ≠ s.allot f) ∧ ((s.gw f).atomics.find? (fun a => decide ((rhOf p).flags &&& fRetx ≠ 0) && decide (a.src = p.src) && decide (a.txn = (rhOf p).txn)) = none) ∧ ((s.gw f).atomics.length < atomicCache)) ∧
    (∃ (s : State) (f : FieldId) (p : Packet), (s.svc f ≠ svcDark) ∧ ((rhOf p).kind = kFetchAdd) ∧ (pktRemote p = true) ∧ (rhWellFormed p = true) ∧ (p.dst = s.node f) ∧ ((s.field f).router.inbox.contains p = true ∨ s.deliverOk f p = true) ∧ (s.halted f = false ∨ p.allot ≠ s.allot f) ∧ ((s.gw f).atomics.find? (fun a => decide ((rhOf p).flags &&& fRetx ≠ 0) && decide (a.src = p.src) && decide (a.txn = (rhOf p).txn)) = none) ∧ (atomicCache ≤ (s.gw f).atomics.length)) ∧
    (∃ (s : State) (f : FieldId) (p : Packet) (a : AtomicResp), (s.svc f ≠ svcDark) ∧ ((rhOf p).kind = kCompareSwap) ∧ (pktRemote p = true) ∧ (rhWellFormed p = true) ∧ (p.dst = s.node f) ∧ ((s.field f).router.inbox.contains p = true ∨ s.deliverOk f p = true) ∧ (s.halted f = false ∨ p.allot ≠ s.allot f) ∧ ((s.gw f).atomics.find? (fun a => decide ((rhOf p).flags &&& fRetx ≠ 0) && decide (a.src = p.src) && decide (a.txn = (rhOf p).txn)) = some a)) ∧
    (∃ (s : State) (f : FieldId) (p : Packet), (s.svc f ≠ svcDark) ∧ ((rhOf p).kind = kCompareSwap) ∧ (pktRemote p = true) ∧ (rhWellFormed p = true) ∧ (p.dst = s.node f) ∧ ((s.field f).router.inbox.contains p = true ∨ s.deliverOk f p = true) ∧ (s.halted f = false ∨ p.allot ≠ s.allot f) ∧ ((s.gw f).atomics.find? (fun a => decide ((rhOf p).flags &&& fRetx ≠ 0) && decide (a.src = p.src) && decide (a.txn = (rhOf p).txn)) = none) ∧ ((s.gw f).atomics.length < atomicCache)) ∧
    (∃ (s : State) (f : FieldId) (p : Packet), (s.svc f ≠ svcDark) ∧ ((rhOf p).kind = kCompareSwap) ∧ (pktRemote p = true) ∧ (rhWellFormed p = true) ∧ (p.dst = s.node f) ∧ ((s.field f).router.inbox.contains p = true ∨ s.deliverOk f p = true) ∧ (s.halted f = false ∨ p.allot ≠ s.allot f) ∧ ((s.gw f).atomics.find? (fun a => decide ((rhOf p).flags &&& fRetx ≠ 0) && decide (a.src = p.src) && decide (a.txn = (rhOf p).txn)) = none) ∧ (atomicCache ≤ (s.gw f).atomics.length)) ∧
    (∃ (s : State) (f : FieldId) (p : Packet), (s.svc f ≠ svcDark) ∧ ((rhOf p).kind = kFlushReq) ∧ (pktRemote p = true) ∧ (rhWellFormed p = true) ∧ (p.dst = s.node f) ∧ ((s.field f).router.inbox.contains p = true ∨ s.deliverOk f p = true) ∧ (s.halted f = false ∨ p.allot ≠ s.allot f)) :=
  ⟨⟨recvOn combPkt, 0, combPkt, by decide +kernel⟩,
   ⟨reducing (flowOpen (recvOn combPkt)), 0, combPkt, redZero, (1, 0, 0), by decide +kernel⟩,
   ⟨recvOn (pktOf kMcastPut 128), 0, pktOf kMcastPut 128, by decide +kernel⟩,
   ⟨(recvOn { pktOf kFetchAdd 0 with body := rhBytes { rhKind kFetchAdd with flags := fRetx } }).updGw 0 (fun G => { G with atomics := [⟨1, 0, 0, 5, false⟩] }), 0, { pktOf kFetchAdd 0 with body := rhBytes { rhKind kFetchAdd with flags := fRetx } }, ⟨1, 0, 0, 5, false⟩, by decide +kernel⟩,
   ⟨recvOn (pktOf kFetchAdd 0), 0, pktOf kFetchAdd 0, by decide +kernel⟩,
   ⟨cacheFull (recvOn (pktOf kFetchAdd 0)), 0, pktOf kFetchAdd 0, by decide +kernel⟩,
   ⟨(recvOn { pktOf kCompareSwap 0 with body := rhBytes { rhKind kCompareSwap with flags := fRetx } }).updGw 0 (fun G => { G with atomics := [⟨1, 0, 0, 5, false⟩] }), 0, { pktOf kCompareSwap 0 with body := rhBytes { rhKind kCompareSwap with flags := fRetx } }, ⟨1, 0, 0, 5, false⟩, by decide +kernel⟩,
   ⟨recvOn (pktOf kCompareSwap 0), 0, pktOf kCompareSwap 0, by decide +kernel⟩,
   ⟨cacheFull (recvOn (pktOf kCompareSwap 0)), 0, pktOf kCompareSwap 0, by decide +kernel⟩,
   ⟨recvOn (pktOf kFlushReq 0), 0, pktOf kFlushReq 0, by decide +kernel⟩⟩

/-! ### GatewayResponsesComplete: states and operands that meet the hypotheses of each clause, in the clauses' order. -/

theorem wit_GatewayResponsesComplete_0_to_9 :
    (∃ (s : State) (f : FieldId) (p : Packet), (s.svc f = svcDark)) ∧
    (∃ (s : State) (f : FieldId) (p : Packet), (s.svc f ≠ svcDark)) ∧
    (∃ (s : State) (f : FieldId) (p : Packet), (s.svc f ≠ svcDark) ∧ (s.answered f p [kGet] = none)) ∧
    (∃ (s : State) (f : FieldId) (p : Packet), (s.svc f ≠ svcDark) ∧ (s.answered f p [kFetchAdd, kCompareSwap] = none)) ∧
    (∃ (s : State) (f : FieldId) (p : Packet), (s.svc f ≠ svcDark) ∧ (s.answered f p [kFlushReq] = none)) ∧
    (∃ (s : State) (f : FieldId) (p : Packet), (s.svc f ≠ svcDark) ∧ (s.answered f p [kMcastPut] = none)) ∧
    (∃ (s : State) (f : FieldId) (p : Packet) (l : GwLine), (s.svc f ≠ svcDark) ∧ ((rhOf p).kind = kGetResp) ∧ (pktRemote p = true) ∧ (rhWellFormed p = true) ∧ (p.dst = s.node f) ∧ ((s.field f).router.inbox.contains p = true ∨ s.deliverOk f p = true) ∧ (s.answered f p [kGet] = some l) ∧ ((rhOf p).status = St.OK)) ∧
    (∃ (s : State) (f : FieldId) (p : Packet) (l : GwLine), (s.svc f ≠ svcDark) ∧ ((rhOf p).kind = kGetResp) ∧ (pktRemote p = true) ∧ (rhWellFormed p = true) ∧ (p.dst = s.node f) ∧ ((s.field f).router.inbox.contains p = true ∨ s.deliverOk f p = true) ∧ (s.answered f p [kGet] = some l) ∧ ((rhOf p).status ≠ St.OK)) ∧
    (∃ (s : State) (f : FieldId) (p : Packet) (l : GwLine), (s.svc f ≠ svcDark) ∧ ((rhOf p).kind = kAtomicResp) ∧ (pktRemote p = true) ∧ (rhWellFormed p = true) ∧ (p.dst = s.node f) ∧ ((s.field f).router.inbox.contains p = true ∨ s.deliverOk f p = true) ∧ (s.answered f p [kFetchAdd, kCompareSwap] = some l) ∧ ((rhOf p).status = St.OK)) ∧
    (∃ (s : State) (f : FieldId) (p : Packet) (l : GwLine), (s.svc f ≠ svcDark) ∧ ((rhOf p).kind = kAtomicResp) ∧ (pktRemote p = true) ∧ (rhWellFormed p = true) ∧ (p.dst = s.node f) ∧ ((s.field f).router.inbox.contains p = true ∨ s.deliverOk f p = true) ∧ (s.answered f p [kFetchAdd, kCompareSwap] = some l) ∧ ((rhOf p).status ≠ St.OK)) :=
  ⟨⟨State.reset.hset Reg.HUB_FIELD_STATE.STATE svcDark 0 0, 0, pktOf kAck 0, by decide +kernel⟩,
   ⟨rimOn, 0, pktOf 0x7F 0, by decide +kernel⟩,
   ⟨recvOn (pktOf kGetResp 128), 0, pktOf kGetResp 128, by decide +kernel⟩,
   ⟨recvOn (pktOf kAtomicResp 0), 0, pktOf kAtomicResp 0, by decide +kernel⟩,
   ⟨recvOn (pktOf kFlushAck 0), 0, pktOf kFlushAck 0, by decide +kernel⟩,
   ⟨recvOn (pktOf kMcAck 0), 0, pktOf kMcAck 0, by decide +kernel⟩,
   ⟨awaitOn kGet (pktOf kGetResp 128), 0, pktOf kGetResp 128, gwLine kGet, by decide +kernel⟩,
   ⟨awaitOn kGet (failOf kGetResp 128), 0, failOf kGetResp 128, gwLine kGet, by decide +kernel⟩,
   ⟨awaitOn kFetchAdd (pktOf kAtomicResp 0), 0, pktOf kAtomicResp 0, gwLine kFetchAdd, by decide +kernel⟩,
   ⟨awaitOn kFetchAdd (failOf kAtomicResp 0), 0, failOf kAtomicResp 0, gwLine kFetchAdd, by decide +kernel⟩⟩

theorem wit_GatewayResponsesComplete_10_to_15 :
    (∃ (s : State) (f : FieldId) (p : Packet) (l : GwLine), (s.svc f ≠ svcDark) ∧ ((rhOf p).kind = kFlushAck) ∧ (pktRemote p = true) ∧ (rhWellFormed p = true) ∧ (p.dst = s.node f) ∧ ((s.field f).router.inbox.contains p = true ∨ s.deliverOk f p = true) ∧ (s.answered f p [kFlushReq] = some l)) ∧
    (∃ (s : State) (f : FieldId) (p : Packet) (l : GwLine), (s.svc f ≠ svcDark) ∧ ((rhOf p).kind = kMcAck) ∧ (pktRemote p = true) ∧ (rhWellFormed p = true) ∧ (p.dst = s.node f) ∧ ((s.field f).router.inbox.contains p = true ∨ s.deliverOk f p = true) ∧ (s.answered f p [kMcastPut] = some l) ∧ (p.src = nodeWith l.dst l.maxis (nodeCoord p.src l.maxis)) ∧ (l.due.any (fun d => decide (d.1 = nodeCoord p.src l.maxis)) = true)) ∧
    (∃ (s : State) (f : FieldId) (p : Packet) (l : GwLine), (s.svc f ≠ svcDark) ∧ (s.answered f p [kMcastPut] = some l) ∧ (p.src ≠ nodeWith l.dst l.maxis (nodeCoord p.src l.maxis) ∨ l.due.any (fun d => decide (d.1 = nodeCoord p.src l.maxis)) = false)) ∧
    (∃ (s : State) (f : FieldId) (p : Packet), (s.svc f ≠ svcDark) ∧ ((rhOf p).kind = kAck) ∧ (pktRemote p = true) ∧ (rhWellFormed p = true) ∧ (p.dst = s.node f) ∧ ((s.field f).router.inbox.contains p = true ∨ s.deliverOk f p = true) ∧ ((rhOf p).fepoch = s.flowEpoch f p.src)) ∧
    (∃ (s : State) (f : FieldId) (p : Packet), (s.svc f ≠ svcDark) ∧ ((rhOf p).kind = kAck) ∧ (pktRemote p = true) ∧ (rhWellFormed p = true) ∧ (p.dst = s.node f) ∧ ((s.field f).router.inbox.contains p = true ∨ s.deliverOk f p = true) ∧ ((rhOf p).fepoch ≠ s.flowEpoch f p.src)) ∧
    (∃ (s : State) (f : FieldId) (p : Packet), (s.svc f ≠ svcDark) ∧ ((rhOf p).kind = kDefer) ∧ (pktRemote p = true) ∧ (rhWellFormed p = true) ∧ (p.dst = s.node f) ∧ ((s.field f).router.inbox.contains p = true ∨ s.deliverOk f p = true)) :=
  ⟨⟨awaitOn kFlushReq (pktOf kFlushAck 0), 0, pktOf kFlushAck 0, gwLine kFlushReq, by decide +kernel⟩,
   ⟨(recvOn (pktOf kMcAck 0)).updGw 0 (fun G => { G with lines := [mcLine] }), 0, pktOf kMcAck 0, mcLine, by decide +kernel⟩,
   ⟨awaitOn kMcastPut (pktOf kMcAck 0), 0, pktOf kMcAck 0, gwLine kMcastPut, by decide +kernel⟩,
   ⟨awaitOn kPut (pktOf kAck 0), 0, pktOf kAck 0, by decide +kernel⟩,
   ⟨(awaitOn kPut (pktOf kAck 0)).setFlowTx 0 1 { FlowTx.init with fepoch := 3 }, 0, pktOf kAck 0, by decide +kernel⟩,
   ⟨awaitOn kPut (pktOf kDefer 0), 0, pktOf kDefer 0, by decide +kernel⟩⟩

/-! ### GatewayUpkeepComplete: states and operands that meet the hypotheses of each clause, in the clauses' order. -/

theorem wit_GatewayUpkeepComplete_0_to_8 :
    (∃ (s : State) (f : FieldId) (p : PlotId) (a b : Nat), (s.svc f = svcDark)) ∧
    (∃ (s : State) (f : FieldId) (a : Nat), (s.svc f ≠ svcDark)) ∧
    (∃ (s : State) (f : FieldId) (a : Nat), (s.svc f ≠ svcDark)) ∧
    (∃ (s : State) (f : FieldId) (p : PlotId) (x : XLine), (s.svc f ≠ svcDark) ∧ ((s.plot f p).xlines.find? (fun x => !s.xlineOwn f x) = some x) ∧ (s.lineRefusal f x = none)) ∧
    (∃ (s : State) (f : FieldId) (p : PlotId) (x : XLine) (st : Nat), (s.svc f ≠ svcDark) ∧ ((s.plot f p).xlines.find? (fun x => !s.xlineOwn f x) = some x) ∧ (s.lineRefusal f x = some st)) ∧
    (∃ (s : State) (f : FieldId) (p : PlotId), ((s.plot f p).xlines.find? (fun x => !s.xlineOwn f x) = none)) ∧
    (∃ (s : State) (f : FieldId) (k : Nat) (l : GwLine), (s.svc f ≠ svcDark) ∧ ((s.gw f).lines.find? (fun l => decide (l.id = k) && !l.sent) = some l) ∧ ((s.gw f).stored < retransmitStore) ∧ (l.ordered = false ∨ (l.seq + 2 ^ 32 - (s.flowTx f l.dst).acked - 1) % 2 ^ 32 < s.freg f Reg.GWY_SOU_CTL.WINDOW) ∧ (l.multicast = false ∨ l.due ≠ [])) ∧
    (∃ (s : State) (f : FieldId) (k : Nat) (l : GwLine), (s.svc f ≠ svcDark) ∧ ((s.gw f).lines.find? (fun l => decide (l.id = k) && !l.sent) = some l) ∧ ((s.gw f).stored < retransmitStore) ∧ (l.ordered = false ∨ (l.seq + 2 ^ 32 - (s.flowTx f l.dst).acked - 1) % 2 ^ 32 < s.freg f Reg.GWY_SOU_CTL.WINDOW) ∧ (l.multicast = true) ∧ (l.due = [])) ∧
    (∃ (s : State) (f : FieldId) (k : Nat) (l : GwLine), ((s.gw f).lines.find? (fun l => decide (l.id = k) && !l.sent) = some l) ∧ (retransmitStore ≤ (s.gw f).stored ∨ (l.ordered = true ∧ s.freg f Reg.GWY_SOU_CTL.WINDOW ≤ (l.seq + 2 ^ 32 - (s.flowTx f l.dst).acked - 1) % 2 ^ 32))) ∧
    (∃ (s : State) (f : FieldId) (k : Nat), ((s.gw f).lines.find? (fun l => decide (l.id = k) && !l.sent) = none)) :=
  ⟨⟨State.reset.hset Reg.HUB_FIELD_STATE.STATE svcDark 0 0, 0, 0, 0, 0, by decide +kernel⟩,
   ⟨rimOn, 0, 5, by decide +kernel⟩,
   ⟨rimOn, 0, 4095, by decide +kernel⟩,
   ⟨lineWaits.fset 0 Reg.GWY_CLASS_CTL.NEAR_SCOPE 3, 0, 0, { ownLine with dst := 1 }, by decide +kernel⟩,
   ⟨lineWaits.fset 0 Reg.GWY_ALLOT_HALT.HALTED 1, 0, 0, { ownLine with dst := 1 }, St.ALLOT_HALTED, by decide +kernel⟩,
   ⟨rimOn, 0, 0, by decide +kernel⟩,
   ⟨(sending { gwLine kPut with sent := false }).fset 0 Reg.GWY_SOU_CTL.WINDOW 64, 0, 0, { gwLine kPut with sent := false }, by decide +kernel⟩,
   ⟨(sending { gwLine kMcastPut with sent := false }).fset 0 Reg.GWY_SOU_CTL.WINDOW 64, 0, 0, { gwLine kMcastPut with sent := false }, by decide +kernel⟩,
   ⟨(sending { gwLine kPut with sent := false }).fset 0 Reg.GWY_SOU_CTL.WINDOW 0, 0, 0, { gwLine kPut with sent := false }, by decide +kernel⟩,
   ⟨rimOn, 0, 0, by decide +kernel⟩⟩

theorem wit_GatewayUpkeepComplete_9_to_18 :
    (∃ (s : State) (f : FieldId) (n : Nat), (s.svc f ≠ svcDark) ∧ ((s.gw f).ackDue.contains n = true)) ∧
    (∃ (s : State) (f : FieldId) (n : Nat), ((s.gw f).ackDue.contains n = false)) ∧
    (∃ (s : State) (f : FieldId) (k : Nat) (l : GwLine), (s.svc f ≠ svcDark) ∧ ((s.gw f).lines.find? (fun l => decide (l.id = k) && l.deferred) = some l)) ∧
    (∃ (s : State) (f : FieldId) (k : Nat), ((s.gw f).lines.find? (fun l => decide (l.id = k) && l.deferred) = none)) ∧
    (∃ (s : State) (f : FieldId) (q : QPlace), (s.svc f ≠ svcDark) ∧ ((s.gw f).queue.head? = some q) ∧ (q.told = true)) ∧
    (∃ (s : State) (f : FieldId) (n : Nat), (((s.gw f).queue.head?).all (fun q => decide (q.src ≠ n) || !q.told) = true)) ∧
    (∃ (s : State) (f : FieldId) (k : Nat) (l : GwLine) (m : Nat), (s.svc f ≠ svcDark) ∧ ((s.gw f).lines.find? (fun l => decide (l.id = k) && l.sent && !l.deferred && (!l.multicast || l.due.any (fun d => decide (d.1 = m)))) = some l) ∧ (l.multicast = false) ∧ (l.resends < s.freg f Reg.GWY_RETX_CTL.LIMIT)) ∧
    (∃ (s : State) (f : FieldId) (k : Nat) (l : GwLine) (m : Nat), (s.svc f ≠ svcDark) ∧ ((s.gw f).lines.find? (fun l => decide (l.id = k) && l.sent && !l.deferred && (!l.multicast || l.due.any (fun d => decide (d.1 = m)))) = some l) ∧ (l.multicast = true) ∧ (((l.due.find? (fun d => decide (d.1 = m))).map Prod.snd).getD 0 < s.freg f Reg.GWY_RETX_CTL.LIMIT)) ∧
    (∃ (s : State) (f : FieldId) (k : Nat) (l : GwLine) (m : Nat), (s.svc f ≠ svcDark) ∧ ((s.gw f).lines.find? (fun l => decide (l.id = k) && l.sent && !l.deferred && (!l.multicast || l.due.any (fun d => decide (d.1 = m)))) = some l) ∧ (s.freg f Reg.GWY_RETX_CTL.LIMIT ≤ (if l.multicast then ((l.due.find? (fun d => decide (d.1 = m))).map Prod.snd).getD 0 else l.resends))) ∧
    (∃ (s : State) (f : FieldId) (k m : Nat), ((s.gw f).lines.find? (fun l => decide (l.id = k) && l.sent && !l.deferred && (!l.multicast || l.due.any (fun d => decide (d.1 = m)))) = none)) :=
  ⟨⟨rimOn.updGw 0 (fun G => { G with ackDue := [1] }), 0, 1, by decide +kernel⟩,
   ⟨rimOn, 0, 1, by decide +kernel⟩,
   ⟨sending { gwLine kPut with deferred := true }, 0, 0, { gwLine kPut with deferred := true }, by decide +kernel⟩,
   ⟨rimOn, 0, 0, by decide +kernel⟩,
   ⟨tokenHeld, 0, ⟨1, 0, 0, some 0, true⟩, by decide +kernel⟩,
   ⟨tokenHeld, 0, 2, by decide +kernel⟩,
   ⟨(sending (gwLine kPut)).fset 0 Reg.GWY_RETX_CTL.LIMIT 1, 0, 0, gwLine kPut, 0, by decide +kernel⟩,
   ⟨(sending mcLine).fset 0 Reg.GWY_RETX_CTL.LIMIT 1, 0, 0, mcLine, nodeCoord 1 0, by decide +kernel⟩,
   ⟨(sending (gwLine kPut)).fset 0 Reg.GWY_RETX_CTL.LIMIT 0, 0, 0, gwLine kPut, 0, by decide +kernel⟩,
   ⟨rimOn, 0, 0, 0, by decide +kernel⟩⟩

theorem wit_GatewayUpkeepComplete_19_to_25 :
    (∃ (s : State) (f : FieldId) (a : Nat), (s.svc f ≠ svcDark) ∧ (a % 4096 = s.allot f) ∧ (a % 4096 ≠ 0)) ∧
    (∃ (s : State) (f : FieldId) (a : Nat), (a % 4096 ≠ s.allot f ∨ a % 4096 = 0)) ∧
    (∃ (s : State) (f : FieldId) (l : Nat) (x : AbsLine), (s.svc f ≠ svcDark) ∧ ((s.memu f).resident l = some x)) ∧
    (∃ (s : State) (f : FieldId) (l : Nat), ((s.memu f).resident l = none)) ∧
    (∃ (s : State) (f : FieldId) (n x : Nat), (s.svc f ≠ svcDark)) ∧
    (∃ (s : State) (f : FieldId) (a : Nat), (s.svc f ≠ svcDark)) ∧
    (∃ (s : State) (f : FieldId), (s.svc f ≠ svcDark)) :=
  ⟨⟨rimOn.fset 0 Reg.FLD_ALLOT.ID 1, 0, 4097, by decide +kernel⟩,
   ⟨rimOn, 0, 0, by decide +kernel⟩,
   ⟨rimOn.updMemu 0 (fun m => { m with absorber := [⟨0, [], false, false⟩] }), 0, 0, ⟨0, [], false, false⟩, by decide +kernel⟩,
   ⟨rimOn, 0, 0, by decide +kernel⟩,
   ⟨rimOn, 0, 0, 0, by decide +kernel⟩,
   ⟨rimOn, 0, 0, by decide +kernel⟩,
   ⟨rimOn, 0, by decide +kernel⟩⟩

/-! ### SheafPacketsComplete: states and operands that meet the hypotheses of each clause, in the clauses' order. -/

theorem wit_SheafPacketsComplete_0_to_9 :
    (∃ (s : State) (f : FieldId) (p : Packet), (s.svc f = svcDark)) ∧
    (∃ (s : State) (f : FieldId) (p : Packet), (s.svc f ≠ svcDark)) ∧
    (∃ (s : State) (f : FieldId) (p : Packet) (k : Nat) (x : ShfSlot) (c : ShfColl), (s.svc f ≠ svcDark) ∧ (p.cls = 1) ∧ (p.dst = s.node f) ∧ ((s.shf f).stopped = false) ∧ ((s.field f).router.inbox.contains p = true ∨ s.deliverOk f p = true) ∧ (s.halted f = false ∨ p.allot ≠ s.allot f) ∧ (shfKnown p = true) ∧ (pktField p 24 1 = skDigest) ∧ (shfWellFormed p = true) ∧ ((s.shf f).slots.find? (fun e => decide (e.2.group = pktField p 16 2)) = some (k, x)) ∧ (x.collOf p = some c) ∧ (x.hset.contains p.src = true)) ∧
    (∃ (s : State) (f : FieldId) (p : Packet) (k : Nat) (x : ShfSlot) (c : ShfColl), (s.svc f ≠ svcDark) ∧ (p.cls = 1) ∧ (p.dst = s.node f) ∧ ((s.shf f).stopped = false) ∧ ((s.field f).router.inbox.contains p = true ∨ s.deliverOk f p = true) ∧ (s.halted f = false ∨ p.allot ≠ s.allot f) ∧ (shfKnown p = true) ∧ (pktField p 24 1 = skDigest) ∧ (shfWellFormed p = true) ∧ ((s.shf f).slots.find? (fun e => decide (e.2.group = pktField p 16 2)) = some (k, x)) ∧ (x.collOf p = some c) ∧ (x.hset.contains p.src = false)) ∧
    (∃ (s : State) (f : FieldId) (p : Packet) (k : Nat) (x : ShfSlot), (s.svc f ≠ svcDark) ∧ (p.cls = 1) ∧ (p.dst = s.node f) ∧ ((s.shf f).stopped = false) ∧ ((s.field f).router.inbox.contains p = true ∨ s.deliverOk f p = true) ∧ (s.halted f = false ∨ p.allot ≠ s.allot f) ∧ (shfKnown p = true) ∧ (pktField p 24 1 = skDigest) ∧ (shfWellFormed p = true) ∧ ((s.shf f).slots.find? (fun e => decide (e.2.group = pktField p 16 2)) = some (k, x)) ∧ (pktField p 18 2 = x.epoch) ∧ (x.collOf p = none) ∧ (x.ahead p = true) ∧ (x.hset.contains p.src = true)) ∧
    (∃ (s : State) (f : FieldId) (p : Packet) (k : Nat) (x : ShfSlot), (s.svc f ≠ svcDark) ∧ (p.cls = 1) ∧ (p.dst = s.node f) ∧ ((s.shf f).stopped = false) ∧ ((s.field f).router.inbox.contains p = true ∨ s.deliverOk f p = true) ∧ (s.halted f = false ∨ p.allot ≠ s.allot f) ∧ (shfKnown p = true) ∧ (pktField p 24 1 = skDigest) ∧ (shfWellFormed p = true) ∧ ((s.shf f).slots.find? (fun e => decide (e.2.group = pktField p 16 2)) = some (k, x)) ∧ (pktField p 18 2 = x.epoch) ∧ (x.collOf p = none) ∧ (x.ahead p = false ∨ x.hset.contains p.src = false)) ∧
    (∃ (s : State) (f : FieldId) (p : Packet) (k : Nat) (x : ShfSlot), (s.svc f ≠ svcDark) ∧ (p.cls = 1) ∧ (p.dst = s.node f) ∧ ((s.shf f).stopped = false) ∧ ((s.field f).router.inbox.contains p = true ∨ s.deliverOk f p = true) ∧ (s.halted f = false ∨ p.allot ≠ s.allot f) ∧ (shfKnown p = true) ∧ (pktField p 24 1 = skDigest) ∧ (shfWellFormed p = true) ∧ ((s.shf f).slots.find? (fun e => decide (e.2.group = pktField p 16 2)) = some (k, x)) ∧ (pktField p 18 2 ≠ x.epoch) ∧ ((pktField p 18 2 + 0x10000 - x.epoch) % 0x10000 < 0x8000) ∧ (x.coll.isSome = true)) ∧
    (∃ (s : State) (f : FieldId) (p : Packet) (k : Nat) (x : ShfSlot), (s.svc f ≠ svcDark) ∧ (p.cls = 1) ∧ (p.dst = s.node f) ∧ ((s.shf f).stopped = false) ∧ ((s.field f).router.inbox.contains p = true ∨ s.deliverOk f p = true) ∧ (s.halted f = false ∨ p.allot ≠ s.allot f) ∧ (shfKnown p = true) ∧ (pktField p 24 1 = skDigest) ∧ (shfWellFormed p = true) ∧ ((s.shf f).slots.find? (fun e => decide (e.2.group = pktField p 16 2)) = some (k, x)) ∧ (pktField p 18 2 ≠ x.epoch) ∧ (0x8000 ≤ (pktField p 18 2 + 0x10000 - x.epoch) % 0x10000 ∨ x.coll = none)) ∧
    (∃ (s : State) (f : FieldId) (p : Packet) (k : Nat) (x : ShfSlot), (s.svc f ≠ svcDark) ∧ (p.cls = 1) ∧ (p.dst = s.node f) ∧ ((s.shf f).stopped = false) ∧ ((s.field f).router.inbox.contains p = true ∨ s.deliverOk f p = true) ∧ (s.halted f = false ∨ p.allot ≠ s.allot f) ∧ (shfKnown p = true) ∧ (pktField p 24 1 = skPiece) ∧ (shfWellFormed p = true) ∧ ((s.shf f).slots.find? (fun e => decide (e.2.group = pktField p 16 2)) = some (k, x)) ∧ (x.collOf p = none) ∧ (pktField p 18 2 = x.epoch) ∧ (seqBefore (pktField p 20 4) (x.next % 2 ^ 32) = true)) ∧
    (∃ (s : State) (f : FieldId) (p : Packet) (k : Nat) (x : ShfSlot), (s.svc f ≠ svcDark) ∧ (p.cls = 1) ∧ (p.dst = s.node f) ∧ ((s.shf f).stopped = false) ∧ ((s.field f).router.inbox.contains p = true ∨ s.deliverOk f p = true) ∧ (s.halted f = false ∨ p.allot ≠ s.allot f) ∧ (shfKnown p = true) ∧ (pktField p 24 1 = skPiece) ∧ (shfWellFormed p = true) ∧ ((s.shf f).slots.find? (fun e => decide (e.2.group = pktField p 16 2)) = some (k, x)) ∧ (x.collOf p = none) ∧ (pktField p 18 2 ≠ x.epoch ∨ seqBefore (pktField p 20 4) (x.next % 2 ^ 32) = false)) :=
  ⟨⟨State.reset.hset Reg.HUB_FIELD_STATE.STATE svcDark 0 0, 0, shfPkt skDigest 0 [], by decide +kernel⟩,
   ⟨rimOn, 0, pktOf kGet 0, by decide +kernel⟩,
   ⟨groupOn (some collOne) [0, 1] (shfPkt skDigest 0 []), 0, shfPkt skDigest 0 [], 0, groupOne (some collOne) [0, 1], collOne, by decide +kernel⟩,
   ⟨groupOn (some collOne) [0, 1] { shfPkt skDigest 0 [] with src := 2 }, 0, { shfPkt skDigest 0 [] with src := 2 }, 0, groupOne (some collOne) [0, 1], collOne, by decide +kernel⟩,
   ⟨groupOn none [0, 1] (shfPkt skDigest 0 []), 0, shfPkt skDigest 0 [], 0, groupOne none [0, 1], by decide +kernel⟩,
   ⟨groupPast (shfPkt skDigest 0 []), 0, shfPkt skDigest 0 [], 0, slotPast, by decide +kernel⟩,
   ⟨groupOn (some collOne) [0, 1] (shfOf 1 0 skDigest), 0, shfOf 1 0 skDigest, 0, groupOne (some collOne) [0, 1], by decide +kernel⟩,
   ⟨groupOn none [0, 1] (shfOf 1 0 skDigest), 0, shfOf 1 0 skDigest, 0, groupOne none [0, 1], by decide +kernel⟩,
   ⟨groupPast (partPkt skPiece), 0, partPkt skPiece, 0, slotPast, by decide +kernel⟩,
   ⟨groupOn none [0, 1] (partPkt skPiece), 0, partPkt skPiece, 0, groupOne none [0, 1], by decide +kernel⟩⟩

theorem wit_SheafPacketsComplete_10_to_19 :
    (∃ (s : State) (f : FieldId) (p : Packet) (k : Nat) (x : ShfSlot), (s.svc f ≠ svcDark) ∧ (p.cls = 1) ∧ (p.dst = s.node f) ∧ ((s.shf f).stopped = false) ∧ ((s.field f).router.inbox.contains p = true ∨ s.deliverOk f p = true) ∧ (s.halted f = false ∨ p.allot ≠ s.allot f) ∧ (shfKnown p = true) ∧ (pktField p 24 1 = skGather) ∧ (shfWellFormed p = true) ∧ ((s.shf f).slots.find? (fun e => decide (e.2.group = pktField p 16 2)) = some (k, x)) ∧ (x.collOf p = none) ∧ (pktField p 18 2 = x.epoch) ∧ (seqBefore (pktField p 20 4) (x.next % 2 ^ 32) = true)) ∧
    (∃ (s : State) (f : FieldId) (p : Packet) (k : Nat) (x : ShfSlot), (s.svc f ≠ svcDark) ∧ (p.cls = 1) ∧ (p.dst = s.node f) ∧ ((s.shf f).stopped = false) ∧ ((s.field f).router.inbox.contains p = true ∨ s.deliverOk f p = true) ∧ (s.halted f = false ∨ p.allot ≠ s.allot f) ∧ (shfKnown p = true) ∧ (pktField p 24 1 = skGather) ∧ (shfWellFormed p = true) ∧ ((s.shf f).slots.find? (fun e => decide (e.2.group = pktField p 16 2)) = some (k, x)) ∧ (x.collOf p = none) ∧ (pktField p 18 2 ≠ x.epoch ∨ seqBefore (pktField p 20 4) (x.next % 2 ^ 32) = false)) ∧
    (∃ (s : State) (f : FieldId) (p : Packet) (k : Nat) (x : ShfSlot) (c : ShfColl), (s.svc f ≠ svcDark) ∧ (p.cls = 1) ∧ (p.dst = s.node f) ∧ ((s.shf f).stopped = false) ∧ ((s.field f).router.inbox.contains p = true ∨ s.deliverOk f p = true) ∧ (s.halted f = false ∨ p.allot ≠ s.allot f) ∧ (shfKnown p = true) ∧ (pktField p 24 1 = skPiece) ∧ (shfWellFormed p = true) ∧ ((s.shf f).slots.find? (fun e => decide (e.2.group = pktField p 16 2)) = some (k, x)) ∧ (x.collOf p = some c) ∧ ((shfSenders x.members (pktField p 25 1) (pktField p 28 4) (s.node f)).contains p.src = false ∨ pieceOk c p = false)) ∧
    (∃ (s : State) (f : FieldId) (p : Packet) (k : Nat) (x : ShfSlot) (c : ShfColl), (s.svc f ≠ svcDark) ∧ (p.cls = 1) ∧ (p.dst = s.node f) ∧ ((s.shf f).stopped = false) ∧ ((s.field f).router.inbox.contains p = true ∨ s.deliverOk f p = true) ∧ (s.halted f = false ∨ p.allot ≠ s.allot f) ∧ (shfKnown p = true) ∧ (pktField p 24 1 = skPiece) ∧ (shfWellFormed p = true) ∧ ((s.shf f).slots.find? (fun e => decide (e.2.group = pktField p 16 2)) = some (k, x)) ∧ (x.collOf p = some c) ∧ ((shfSenders x.members (pktField p 25 1) (pktField p 28 4) (s.node f)).contains p.src = true) ∧ (pieceOk c p = true) ∧ ((SMap.get c.folded false (pktField p 28 4 * 4 + pktField p 25 1) || c.pieces.any (fun q => decide (q.src = p.src) && decide (q.stage = pktField p 25 1) && decide (q.chunk = pktField p 28 4) && q.parts.any (fun e => decide (e.1 = pktField p 26 2)))) = true)) ∧
    (∃ (s : State) (f : FieldId) (p : Packet) (k : Nat) (x : ShfSlot) (c : ShfColl), (s.svc f ≠ svcDark) ∧ (p.cls = 1) ∧ (p.dst = s.node f) ∧ ((s.shf f).stopped = false) ∧ ((s.field f).router.inbox.contains p = true ∨ s.deliverOk f p = true) ∧ (s.halted f = false ∨ p.allot ≠ s.allot f) ∧ (shfKnown p = true) ∧ (pktField p 24 1 = skPiece) ∧ (shfWellFormed p = true) ∧ ((s.shf f).slots.find? (fun e => decide (e.2.group = pktField p 16 2)) = some (k, x)) ∧ (x.collOf p = some c) ∧ ((shfSenders x.members (pktField p 25 1) (pktField p 28 4) (s.node f)).contains p.src = true) ∧ (pieceOk c p = true) ∧ ((SMap.get c.folded false (pktField p 28 4 * 4 + pktField p 25 1) || c.pieces.any (fun q => decide (q.src = p.src) && decide (q.stage = pktField p 25 1) && decide (q.chunk = pktField p 28 4) && q.parts.any (fun e => decide (e.1 = pktField p 26 2)))) = false)) ∧
    (∃ (s : State) (f : FieldId) (p : Packet) (k : Nat) (x : ShfSlot) (c : ShfColl), (s.svc f ≠ svcDark) ∧ (p.cls = 1) ∧ (p.dst = s.node f) ∧ ((s.shf f).stopped = false) ∧ ((s.field f).router.inbox.contains p = true ∨ s.deliverOk f p = true) ∧ (s.halted f = false ∨ p.allot ≠ s.allot f) ∧ (shfKnown p = true) ∧ (pktField p 24 1 = skGather) ∧ (shfWellFormed p = true) ∧ ((s.shf f).slots.find? (fun e => decide (e.2.group = pktField p 16 2)) = some (k, x)) ∧ (x.collOf p = some c) ∧ (shfTarget x.members (pktField p 25 1) (pktField p 28 4) (s.node f) ≠ some p.src ∨ pktField p 39 1 = 0 ∨ chunkBlocks c.count (pktField p 28 4) < pktField p 26 2 + pktField p 39 1 ∨ (p.body.drop 32).length ≠ min (32 * pktField p 39 1) (chunkSize c.count (pktField p 28 4) - 32 * pktField p 26 2) * shfSize c.outType)) ∧
    (∃ (s : State) (f : FieldId) (p : Packet) (k : Nat) (x : ShfSlot) (c : ShfColl), (s.svc f ≠ svcDark) ∧ (p.cls = 1) ∧ (p.dst = s.node f) ∧ ((s.shf f).stopped = false) ∧ ((s.field f).router.inbox.contains p = true ∨ s.deliverOk f p = true) ∧ (s.halted f = false ∨ p.allot ≠ s.allot f) ∧ (shfKnown p = true) ∧ (pktField p 24 1 = skGather) ∧ (shfWellFormed p = true) ∧ ((s.shf f).slots.find? (fun e => decide (e.2.group = pktField p 16 2)) = some (k, x)) ∧ (x.collOf p = some c) ∧ (¬(shfTarget x.members (pktField p 25 1) (pktField p 28 4) (s.node f) ≠ some p.src ∨ pktField p 39 1 = 0 ∨ chunkBlocks c.count (pktField p 28 4) < pktField p 26 2 + pktField p 39 1 ∨ (p.body.drop 32).length ≠ min (32 * pktField p 39 1) (chunkSize c.count (pktField p 28 4) - 32 * pktField p 26 2) * shfSize c.outType)) ∧ (SMap.get c.got false (pktField p 28 4 * 64 + pktField p 26 2) = true)) ∧
    (∃ (s : State) (f : FieldId) (p : Packet) (k : Nat) (x : ShfSlot) (c : ShfColl), (s.svc f ≠ svcDark) ∧ (p.cls = 1) ∧ (p.dst = s.node f) ∧ ((s.shf f).stopped = false) ∧ ((s.field f).router.inbox.contains p = true ∨ s.deliverOk f p = true) ∧ (s.halted f = false ∨ p.allot ≠ s.allot f) ∧ (shfKnown p = true) ∧ (pktField p 24 1 = skGather) ∧ (shfWellFormed p = true) ∧ ((s.shf f).slots.find? (fun e => decide (e.2.group = pktField p 16 2)) = some (k, x)) ∧ (x.collOf p = some c) ∧ (¬(shfTarget x.members (pktField p 25 1) (pktField p 28 4) (s.node f) ≠ some p.src ∨ pktField p 39 1 = 0 ∨ chunkBlocks c.count (pktField p 28 4) < pktField p 26 2 + pktField p 39 1 ∨ (p.body.drop 32).length ≠ min (32 * pktField p 39 1) (chunkSize c.count (pktField p 28 4) - 32 * pktField p 26 2) * shfSize c.outType)) ∧ (SMap.get c.got false (pktField p 28 4 * 64 + pktField p 26 2) = false) ∧ (c.silent = false)) ∧
    (∃ (s : State) (f : FieldId) (p : Packet) (k : Nat) (x : ShfSlot) (c : ShfColl), (s.svc f ≠ svcDark) ∧ (p.cls = 1) ∧ (p.dst = s.node f) ∧ ((s.shf f).stopped = false) ∧ ((s.field f).router.inbox.contains p = true ∨ s.deliverOk f p = true) ∧ (s.halted f = false ∨ p.allot ≠ s.allot f) ∧ (shfKnown p = true) ∧ (pktField p 24 1 = skGather) ∧ (shfWellFormed p = true) ∧ ((s.shf f).slots.find? (fun e => decide (e.2.group = pktField p 16 2)) = some (k, x)) ∧ (x.collOf p = some c) ∧ (¬(shfTarget x.members (pktField p 25 1) (pktField p 28 4) (s.node f) ≠ some p.src ∨ pktField p 39 1 = 0 ∨ chunkBlocks c.count (pktField p 28 4) < pktField p 26 2 + pktField p 39 1 ∨ (p.body.drop 32).length ≠ min (32 * pktField p 39 1) (chunkSize c.count (pktField p 28 4) - 32 * pktField p 26 2) * shfSize c.outType)) ∧ (SMap.get c.got false (pktField p 28 4 * 64 + pktField p 26 2) = false) ∧ (c.silent = true)) ∧
    (∃ (s : State) (f : FieldId) (p : Packet) (k : Nat) (x : ShfSlot) (c : ShfColl), (s.svc f ≠ svcDark) ∧ (p.cls = 1) ∧ (p.dst = s.node f) ∧ ((s.shf f).stopped = false) ∧ ((s.field f).router.inbox.contains p = true ∨ s.deliverOk f p = true) ∧ (s.halted f = false ∨ p.allot ≠ s.allot f) ∧ (shfKnown p = true) ∧ (pktField p 24 1 = skReceipt) ∧ (shfWellFormed p = true) ∧ ((s.shf f).slots.find? (fun e => decide (e.2.group = pktField p 16 2)) = some (k, x)) ∧ (x.collOf p = some c)) :=
  ⟨⟨groupPast (partPkt skGather), 0, partPkt skGather, 0, slotPast, by decide +kernel⟩,
   ⟨groupOn none [0, 1] (partPkt skGather), 0, partPkt skGather, 0, groupOne none [0, 1], by decide +kernel⟩,
   ⟨groupOn (some collOne) [1, 0] (partPkt skPiece), 0, partPkt skPiece, 0, groupOne (some collOne) [1, 0], collOne, by decide +kernel⟩,
   ⟨groupOn (some collFolded) [0, 1] (partPkt skPiece), 0, partPkt skPiece, 0, groupOne (some collFolded) [0, 1], collFolded, by decide +kernel⟩,
   ⟨groupOn (some collOne) [0, 1] (partPkt skPiece), 0, partPkt skPiece, 0, groupOne (some collOne) [0, 1], collOne, by decide +kernel⟩,
   ⟨groupOn (some collOne) [0, 1] (partPkt skGather), 0, partPkt skGather, 0, groupOne (some collOne) [0, 1], collOne, by decide +kernel⟩,
   ⟨groupOn (some collGot) [1, 0] (partPkt skGather), 0, partPkt skGather, 0, groupOne (some collGot) [1, 0], collGot, by decide +kernel⟩,
   ⟨groupOn (some collOne) [1, 0] (partPkt skGather), 0, partPkt skGather, 0, groupOne (some collOne) [1, 0], collOne, by decide +kernel⟩,
   ⟨groupOn (some collSilent) [1, 0] (partPkt skGather), 0, partPkt skGather, 0, groupOne (some collSilent) [1, 0], collSilent, by decide +kernel⟩,
   ⟨groupOn (some collOne) [0, 1] (shfPkt skReceipt 0 []), 0, shfPkt skReceipt 0 [], 0, groupOne (some collOne) [0, 1], collOne, by decide +kernel⟩⟩

theorem wit_SheafPacketsComplete_20_to_25 :
    (∃ (s : State) (f : FieldId) (p : Packet) (k : Nat) (x : ShfSlot), (s.svc f ≠ svcDark) ∧ (p.cls = 1) ∧ (p.dst = s.node f) ∧ ((s.shf f).stopped = false) ∧ ((s.field f).router.inbox.contains p = true ∨ s.deliverOk f p = true) ∧ (s.halted f = false ∨ p.allot ≠ s.allot f) ∧ (shfKnown p = true) ∧ (pktField p 24 1 = skReceipt) ∧ (shfWellFormed p = true) ∧ ((s.shf f).slots.find? (fun e => decide (e.2.group = pktField p 16 2)) = some (k, x)) ∧ (x.collOf p = none)) ∧
    (∃ (s : State) (f : FieldId) (p : Packet) (k : Nat) (x : ShfSlot) (c : ShfColl), (s.svc f ≠ svcDark) ∧ (p.cls = 1) ∧ (p.dst = s.node f) ∧ ((s.shf f).stopped = false) ∧ ((s.field f).router.inbox.contains p = true ∨ s.deliverOk f p = true) ∧ (s.halted f = false ∨ p.allot ≠ s.allot f) ∧ (shfKnown p = true) ∧ (pktField p 24 1 = skCredit) ∧ (shfWellFormed p = true) ∧ ((s.shf f).slots.find? (fun e => decide (e.2.group = pktField p 16 2)) = some (k, x)) ∧ (x.collOf p = some c)) ∧
    (∃ (s : State) (f : FieldId) (p : Packet) (k : Nat) (x : ShfSlot), (s.svc f ≠ svcDark) ∧ (p.cls = 1) ∧ (p.dst = s.node f) ∧ ((s.shf f).stopped = false) ∧ ((s.field f).router.inbox.contains p = true ∨ s.deliverOk f p = true) ∧ (s.halted f = false ∨ p.allot ≠ s.allot f) ∧ (shfKnown p = true) ∧ (pktField p 24 1 = skCredit) ∧ (shfWellFormed p = true) ∧ ((s.shf f).slots.find? (fun e => decide (e.2.group = pktField p 16 2)) = some (k, x)) ∧ (x.collOf p = none)) ∧
    (∃ (s : State) (f : FieldId) (p : Packet) (k : Nat) (x : ShfSlot) (c : ShfColl), (s.svc f ≠ svcDark) ∧ (p.cls = 1) ∧ (p.dst = s.node f) ∧ ((s.shf f).stopped = false) ∧ ((s.field f).router.inbox.contains p = true ∨ s.deliverOk f p = true) ∧ (s.halted f = false ∨ p.allot ≠ s.allot f) ∧ (shfKnown p = true) ∧ (pktField p 24 1 = skAbort) ∧ (shfWellFormed p = true) ∧ ((s.shf f).slots.find? (fun e => decide (e.2.group = pktField p 16 2)) = some (k, x)) ∧ (x.collOf p = some c)) ∧
    (∃ (s : State) (f : FieldId) (p : Packet) (k : Nat) (x : ShfSlot), (s.svc f ≠ svcDark) ∧ (p.cls = 1) ∧ (p.dst = s.node f) ∧ ((s.shf f).stopped = false) ∧ ((s.field f).router.inbox.contains p = true ∨ s.deliverOk f p = true) ∧ (s.halted f = false ∨ p.allot ≠ s.allot f) ∧ (shfKnown p = true) ∧ (pktField p 24 1 = skAbort) ∧ (shfWellFormed p = true) ∧ ((s.shf f).slots.find? (fun e => decide (e.2.group = pktField p 16 2)) = some (k, x)) ∧ (x.collOf p = none) ∧ (x.ahead p = true)) ∧
    (∃ (s : State) (f : FieldId) (p : Packet) (k : Nat) (x : ShfSlot), (s.svc f ≠ svcDark) ∧ (p.cls = 1) ∧ (p.dst = s.node f) ∧ ((s.shf f).stopped = false) ∧ ((s.field f).router.inbox.contains p = true ∨ s.deliverOk f p = true) ∧ (s.halted f = false ∨ p.allot ≠ s.allot f) ∧ (shfKnown p = true) ∧ (pktField p 24 1 = skAbort) ∧ (shfWellFormed p = true) ∧ ((s.shf f).slots.find? (fun e => decide (e.2.group = pktField p 16 2)) = some (k, x)) ∧ (x.collOf p = none) ∧ (x.ahead p = false)) :=
  ⟨⟨groupOn none [0, 1] (shfPkt skReceipt 0 []), 0, shfPkt skReceipt 0 [], 0, groupOne none [0, 1], by decide +kernel⟩,
   ⟨groupOn (some collOne) [0, 1] (shfPkt skCredit 0 []), 0, shfPkt skCredit 0 [], 0, groupOne (some collOne) [0, 1], collOne, by decide +kernel⟩,
   ⟨groupOn none [0, 1] (shfPkt skCredit 0 []), 0, shfPkt skCredit 0 [], 0, groupOne none [0, 1], by decide +kernel⟩,
   ⟨groupOn (some collOne) [0, 1] (shfPkt skAbort 0 []), 0, shfPkt skAbort 0 [], 0, groupOne (some collOne) [0, 1], collOne, by decide +kernel⟩,
   ⟨groupOn none [0, 1] (shfPkt skAbort 0 []), 0, shfPkt skAbort 0 [], 0, groupOne none [0, 1], by decide +kernel⟩,
   ⟨groupPast (shfPkt skAbort 0 []), 0, shfPkt skAbort 0 [], 0, slotPast, by decide +kernel⟩⟩

/-! ### SheafCommandsComplete: states and operands that meet the hypotheses of each clause, in the clauses' order. -/

theorem wit_SheafCommandsComplete_0_to_9 :
    (∃ (s : State) (f : FieldId) (k : Fin 64) (g : Fin 4) (a : Nat), (s.svc f = svcDark)) ∧
    (∃ (s : State) (f : FieldId) (k : Fin 64) (a : Nat), (s.svc f ≠ svcDark)) ∧
    (∃ (s : State) (f : FieldId) (k : Fin 64) (e : Nat × Nat), (s.svc f ≠ svcDark) ∧ ((s.shf f).regs.find? (fun e => decide (e.1 = k.val)) = some e) ∧ ((s.shfSlot f k).isSome = true)) ∧
    (∃ (s : State) (f : FieldId) (k : Fin 64) (e : Nat × Nat) (x : ShfSlot), (s.svc f ≠ svcDark) ∧ ((s.shf f).regs.find? (fun e => decide (e.1 = k.val)) = some e) ∧ (s.shfSlot f k = none) ∧ (((s.updShf f (fun U => { U with regs := U.regs.erase e })).shfCheck f k e.2).2 = some x)) ∧
    (∃ (s : State) (f : FieldId) (k : Fin 64) (e : Nat × Nat), (s.svc f ≠ svcDark) ∧ ((s.shf f).regs.find? (fun e => decide (e.1 = k.val)) = some e) ∧ (s.shfSlot f k = none) ∧ (((s.updShf f (fun U => { U with regs := U.regs.erase e })).shfCheck f k e.2).2 = none)) ∧
    (∃ (s : State) (f : FieldId) (k : Fin 64), ((s.shf f).regs.find? (fun e => decide (e.1 = k.val)) = none)) ∧
    (∃ (s : State) (f : FieldId) (k : Fin 64) (a : Nat) (x y : ShfSlot), (s.svc f ≠ svcDark) ∧ (s.shfSlot f k = some y) ∧ ((s.shfCheck f k a).2 = some x) ∧ (x.group = y.group) ∧ (x.epoch ≠ y.epoch)) ∧
    (∃ (s : State) (f : FieldId) (k : Fin 64) (a : Nat) (x y : ShfSlot), (s.svc f ≠ svcDark) ∧ (s.shfSlot f k = some y) ∧ ((s.shfCheck f k a).2 = some x) ∧ (x.group ≠ y.group ∨ x.epoch = y.epoch)) ∧
    (∃ (s : State) (f : FieldId) (k : Fin 64) (a : Nat) (y : ShfSlot), (s.svc f ≠ svcDark) ∧ (s.shfSlot f k = some y) ∧ ((s.shfCheck f k a).2 = none)) ∧
    (∃ (s : State) (f : FieldId) (k : Fin 64) (a : Nat), (s.svc f ≠ svcDark) ∧ (s.shfSlot f k = none)) :=
  ⟨⟨State.reset.hset Reg.HUB_FIELD_STATE.STATE svcDark 0 0, 0, 0, 0, 0, by decide +kernel⟩,
   ⟨rimOn, 0, 0, 128, by decide +kernel⟩,
   ⟨(groupUp none [0, 1]).shfRegister 0 0 0, 0, 0, (0, 0), by decide +kernel⟩,
   let ⟨x, h⟩ := Option.isSome_iff_exists.mp registering_checks; ⟨registering, 0, 0, (0, 0), x, by decide +kernel, by decide +kernel, by decide +kernel, h⟩,
   ⟨rimOn.shfRegister 0 0 0, 0, 0, (0, 0), by decide +kernel⟩,
   ⟨rimOn, 0, 0, by decide +kernel⟩,
   let ⟨x, h, q⟩ := foundOf (reforming_checks 1 (by decide)); ⟨reforming 1 1, 0, 0, 0, x, { groupOne none [0, 1] with group := 1, epoch := 1 }, by decide +kernel, rfl, h, (of_decide_eq_true q).1, by rw [(of_decide_eq_true q).2]; decide⟩,
   let ⟨x, h, q⟩ := foundOf (reforming_checks 0 (by decide)); ⟨reforming 1 0, 0, 0, 0, x, { groupOne none [0, 1] with group := 1, epoch := 0 }, by decide +kernel, rfl, h, Or.inr (of_decide_eq_true q).2⟩,
   ⟨groupUp none [0, 1], 0, 0, 4096, groupOne none [0, 1], by decide +kernel⟩,
   ⟨rimOn, 0, 0, 0, by decide +kernel⟩⟩

theorem wit_SheafCommandsComplete_10_to_19 :
    (∃ (s : State) (f : FieldId) (k : Fin 64), (s.svc f ≠ svcDark)) ∧
    (∃ (s : State) (f : FieldId) (k : Fin 64) (x : ShfSlot), (s.svc f ≠ svcDark) ∧ (s.shfSlot f k = some x)) ∧
    (∃ (s : State) (f : FieldId) (k : Fin 64) (x : ShfSlot) (c : ShfColl), (s.svc f ≠ svcDark) ∧ (s.shfSlot f k = some x) ∧ (x.coll = some c) ∧ (c.fld 40 8 ≠ 0) ∧ (inHbm (c.fld 40 8) 8 = true)) ∧
    (∃ (s : State) (f : FieldId) (k : Fin 64) (x : ShfSlot) (c : ShfColl), (s.shfSlot f k = some x) ∧ (x.coll = some c) ∧ (c.fld 40 8 = 0 ∨ inHbm (c.fld 40 8) 8 = false)) ∧
    (∃ (s : State) (f : FieldId) (k : Fin 64), (s.shfSlot f k = none)) ∧
    (∃ (s : State) (f : FieldId) (k : Fin 64), ((s.shfSlot f k).bind (fun x => x.coll) = none)) ∧
    (∃ (s : State) (f : FieldId) (k : Fin 64) (x : ShfSlot), (s.svc f ≠ svcDark) ∧ (s.shfSlot f k = some x) ∧ (x.coll = none) ∧ (x.next < x.tail) ∧ ((s.shf f).stopped = false) ∧ (s.shfRefusal f x (s.hbmRead f (x.ring + x.next % 2 ^ x.ringLog * 64) 64 srcSheaf).2.1 = St.OK)) ∧
    (∃ (s : State) (f : FieldId) (k : Fin 64) (x : ShfSlot), (s.svc f ≠ svcDark) ∧ (s.shfSlot f k = some x) ∧ (x.coll = none) ∧ (x.next < x.tail) ∧ ((s.shf f).stopped = false) ∧ (s.shfRefusal f x (s.hbmRead f (x.ring + x.next % 2 ^ x.ringLog * 64) 64 srcSheaf).2.1 ≠ St.OK)) ∧
    (∃ (s : State) (f : FieldId) (k : Fin 64) (x : ShfSlot), (s.shfSlot f k = some x) ∧ (x.coll.isSome = true ∨ x.tail ≤ x.next ∨ (s.shf f).stopped = true)) ∧
    (∃ (s : State) (f : FieldId) (k : Fin 64) (x : ShfSlot) (c : ShfColl) (g : Fin 4) (n ch : Nat), (s.svc f ≠ svcDark) ∧ (s.shfSlot f k = some x) ∧ (x.coll = some c) ∧ (c.matched = true) ∧ (c.silent = false) ∧ ((s.shf f).stopped = false) ∧ (SMap.get c.spent 0 (n % 8192) < x.credits) ∧ (nextToSend x.members (s.node f) g (SMap.get c.ptr 0 g) (chunkCount c.count) = some ch) ∧ (shfTarget x.members g ch (s.node f) = some n)) :=
  ⟨⟨groupUp (some collOne) [0, 1], 0, 0, by decide +kernel⟩,
   ⟨groupUp none [0, 1], 0, 0, groupOne none [0, 1], by decide +kernel⟩,
   ⟨groupUp (some collReady) [0, 1], 0, 0, groupOne (some collReady) [0, 1], collReady, by decide +kernel⟩,
   ⟨groupUp (some collOne) [0, 1], 0, 0, groupOne (some collOne) [0, 1], collOne, by decide +kernel⟩,
   ⟨rimOn, 0, 0, by decide +kernel⟩,
   ⟨rimOn, 0, 0, by decide +kernel⟩,
   ⟨withHbm (groupUp none [0, 1]) 0 sumOne, 0, 0, groupOne none [0, 1], by decide +kernel⟩,
   ⟨groupUp none [0, 1], 0, 0, groupOne none [0, 1], by decide +kernel⟩,
   ⟨groupUp (some collOne) [0, 1], 0, 0, groupOne (some collOne) [0, 1], by decide +kernel⟩,
   ⟨groupUp (some collOne) [1, 0], 0, 0, groupOne (some collOne) [1, 0], collOne, 0, 1, 0, by decide +kernel⟩⟩

theorem wit_SheafCommandsComplete_20_to_29 :
    (∃ (s : State) (f : FieldId) (k : Fin 64) (x : ShfSlot) (c : ShfColl) (g : Fin 4) (n : Nat), (s.shfSlot f k = some x) ∧ (x.coll = some c) ∧ (c.matched = false ∨ c.silent = true ∨ (s.shf f).stopped = true ∨ x.credits ≤ SMap.get c.spent 0 (n % 8192) ∨ (nextToSend x.members (s.node f) g (SMap.get c.ptr 0 g) (chunkCount c.count)).all (fun ch => decide (shfTarget x.members g ch (s.node f) ≠ some n)) = true)) ∧
    (∃ (s : State) (f : FieldId) (k : Fin 64) (x : ShfSlot) (c : ShfColl) (g : Fin 4) (ch : Nat), (s.svc f ≠ svcDark) ∧ (s.shfSlot f k = some x) ∧ (x.coll = some c) ∧ ((c.matched && !(s.shf f).stopped && decide (ch < chunkCount c.count) && decide (shfCarrier x.members g ch (s.node f) = s.node f) && !SMap.get c.folded false (ch * 4 + g) && (shfSenders x.members g ch (s.node f)).all (c.pieceFull g ch) && (if g.val = 0 then c.chunkReady ch else (c.results.find? (fun r => decide (r.stage + 1 = g.val) && decide (r.chunk = ch))).isSome)) = true)) ∧
    (∃ (s : State) (f : FieldId) (k : Fin 64) (x : ShfSlot) (c : ShfColl) (g : Fin 4) (ch : Nat), (s.shfSlot f k = some x) ∧ (x.coll = some c) ∧ ((c.matched && !(s.shf f).stopped && decide (ch < chunkCount c.count) && decide (shfCarrier x.members g ch (s.node f) = s.node f) && !SMap.get c.folded false (ch * 4 + g) && (shfSenders x.members g ch (s.node f)).all (c.pieceFull g ch) && (if g.val = 0 then c.chunkReady ch else (c.results.find? (fun r => decide (r.stage + 1 = g.val) && decide (r.chunk = ch))).isSome)) = false)) ∧
    (∃ (s : State) (f : FieldId) (k : Fin 64) (x : ShfSlot) (c : ShfColl) (i : Nat) (o : ShfOut), (s.svc f ≠ svcDark) ∧ (s.shfSlot f k = some x) ∧ (x.coll = some c) ∧ (c.out[i]? = some o) ∧ (o.tries < 3) ∧ ((s.shf f).stopped = false)) ∧
    (∃ (s : State) (f : FieldId) (k : Fin 64) (x : ShfSlot) (c : ShfColl) (i : Nat), (s.shfSlot f k = some x) ∧ (x.coll = some c) ∧ ((c.out[i]?).all (fun o => decide (3 ≤ o.tries) || (s.shf f).stopped) = true)) ∧
    (∃ (s : State) (f : FieldId) (k : Fin 64) (x : ShfSlot) (c : ShfColl), (s.svc f ≠ svcDark) ∧ (s.shfSlot f k = some x) ∧ (x.coll = some c) ∧ (c.silent = false) ∧ ((s.shf f).stopped = false) ∧ (x.hset.filter (fun n => decide (max c.tIssue (SMap.get c.last 0 (n % 8192)) + x.timeout ≤ s.tallyOf f) && c.awaits x.members (s.node f) n) ≠ []) ∧ (c.digests.any (fun e => decide (e.2 ≠ c.digest)) = false)) ∧
    (∃ (s : State) (f : FieldId) (k : Fin 64) (x : ShfSlot) (c : ShfColl), (s.svc f ≠ svcDark) ∧ (s.shfSlot f k = some x) ∧ (x.coll = some c) ∧ (c.silent = false) ∧ ((s.shf f).stopped = false) ∧ (x.hset.filter (fun n => decide (max c.tIssue (SMap.get c.last 0 (n % 8192)) + x.timeout ≤ s.tallyOf f) && c.awaits x.members (s.node f) n) ≠ []) ∧ (c.digests.any (fun e => decide (e.2 ≠ c.digest)) = true)) ∧
    (∃ (s : State) (f : FieldId) (k : Fin 64) (x : ShfSlot) (c : ShfColl), (s.shfSlot f k = some x) ∧ (x.coll = some c) ∧ (x.hset.filter (fun n => decide (max c.tIssue (SMap.get c.last 0 (n % 8192)) + x.timeout ≤ s.tallyOf f) && c.awaits x.members (s.node f) n) = [] ∨ (s.shf f).stopped = true ∨ c.silent = true)) ∧
    (∃ (s : State) (f : FieldId) (k : Fin 64) (g : Fin 4) (a : Nat), ((s.shfSlot f k).bind (fun x => x.coll) = none)) ∧
    (∃ (s : State) (f : FieldId) (k : Fin 64), (s.shfSlot f k = none)) :=
  ⟨⟨groupUp (some collSilent) [1, 0], 0, 0, groupOne (some collSilent) [1, 0], collSilent, 0, 1, by decide +kernel⟩,
   ⟨groupUp (some collFull) [0, 1], 0, 0, groupOne (some collFull) [0, 1], collFull, 0, 0, by decide +kernel⟩,
   ⟨groupUp (some collOne) [0, 1], 0, 0, groupOne (some collOne) [0, 1], collOne, 0, 0, by decide +kernel⟩,
   ⟨groupUp (some collOne) [0, 1], 0, 0, groupOne (some collOne) [0, 1], collOne, 0, ⟨1, skPiece, 0, 0, 0, 0, 1, [], 0⟩, by decide +kernel⟩,
   ⟨groupUp (some collTried) [0, 1], 0, 0, groupOne (some collTried) [0, 1], collTried, 0, by decide +kernel⟩,
   ⟨groupUp (some collOne) [0, 1], 0, 0, groupOne (some collOne) [0, 1], collOne, by decide +kernel⟩,
   ⟨groupUp (some collOdd) [0, 1], 0, 0, groupOne (some collOdd) [0, 1], collOdd, by decide +kernel⟩,
   ⟨groupUp (some collSilent) [0, 1], 0, 0, groupOne (some collSilent) [0, 1], collSilent, by decide +kernel⟩,
   ⟨rimOn, 0, 0, 0, 0, by decide +kernel⟩,
   ⟨rimOn, 0, 0, by decide +kernel⟩⟩

/-! ### HealthAndMirrorCommandsComplete: states and operands that meet the hypotheses of each clause, in the clauses' order. -/

theorem wit_HealthAndMirrorCommandsComplete_0_to_8 :
    (∃ (s : State) (f : FieldId) (p : Packet) (n : Fin 2) (a : Nat), (s.svc f = svcDark)) ∧
    (∃ (s : State) (f : FieldId) (g : Nat), (s.svc f ≠ svcDark) ∧ ((s.mir f).src.on = true) ∧ (s.halted f = false) ∧ (s.mirLive f ≠ []) ∧ ((SMap.get (s.memu f).res false g = true ∨ ((s.memu f).res.isEmpty = true ∧ (s.mir f).src.commit = false ∧ SMap.get (s.memu f).cur false g = true))) ∧ (copyIndex (s.memu f).regions g = none)) ∧
    (∃ (s : State) (f : FieldId) (g : Nat), (s.svc f ≠ svcDark) ∧ ((s.mir f).src.on = true) ∧ (s.halted f = false) ∧ (s.mirLive f ≠ []) ∧ ((SMap.get (s.memu f).res false g = true ∨ ((s.memu f).res.isEmpty = true ∧ (s.mir f).src.commit = false ∧ SMap.get (s.memu f).cur false g = true))) ∧ (copyIndex (s.memu f).regions g = none)) ∧
    (∃ (s : State) (f : FieldId) (g k : Nat), (s.svc f ≠ svcDark) ∧ ((s.mir f).src.on = true) ∧ (s.halted f = false) ∧ (s.mirLive f ≠ []) ∧ ((SMap.get (s.memu f).res false g = true ∨ ((s.memu f).res.isEmpty = true ∧ (s.mir f).src.commit = false ∧ SMap.get (s.memu f).cur false g = true))) ∧ (copyIndex (s.memu f).regions g = some k)) ∧
    (∃ (s : State) (f : FieldId) (g : Nat), ((s.mir f).src.on = false ∨ s.halted f = true ∨ s.mirLive f = [] ∨ ¬(SMap.get (s.memu f).res false g = true ∨ ((s.memu f).res.isEmpty = true ∧ (s.mir f).src.commit = false ∧ SMap.get (s.memu f).cur false g = true)))) ∧
    (∃ (s : State) (f : FieldId), (s.svc f ≠ svcDark) ∧ ((s.mir f).src.on = true) ∧ ((s.mir f).src.commit = true) ∧ ((s.memu f).res.isEmpty = true) ∧ (s.halted f = false)) ∧
    (∃ (s : State) (f : FieldId), ((s.mir f).src.on = false ∨ (s.mir f).src.commit = false ∨ (s.memu f).res.isEmpty = false ∨ s.halted f = true)) ∧
    (∃ (s : State) (f : FieldId) (p : Packet), (s.svc f ≠ svcDark)) ∧
    (∃ (s : State) (f : FieldId) (p : Packet), (s.svc f ≠ svcDark) ∧ ((rhOf p).kind = kMirMark) ∧ (pktRemote p = true) ∧ (rhWellFormed p = true) ∧ (p.dst = s.node f) ∧ ((s.field f).router.inbox.contains p = true ∨ s.deliverOk f p = true) ∧ (s.halted f = false ∨ p.allot ≠ s.allot f)) ∧
    (∃ (s : State) (f : FieldId) (p : Packet), (s.svc f ≠ svcDark) ∧ ((rhOf p).kind = kMirMark) ∧ (pktRemote p = true) ∧ (rhWellFormed p = true) ∧ (p.dst = s.node f) ∧ ((s.field f).router.inbox.contains p = true ∨ s.deliverOk f p = true) ∧ (s.halted f = false ∨ p.allot ≠ s.allot f) ∧ (s.injArmed f injGwy 2 = false) ∧ ((s.flowRx f p.src).valid = true) ∧ ((s.flowRx f p.src).fepoch = (rhOf p).fepoch) ∧ ((s.flowRx f p.src).exp = (rhOf p).seq) ∧ ((s.flowRx f p.src).held.any (fun x => decide (x.seq = (rhOf p).seq)) = false) ∧ ((s.gw f).redWait.any (fun q => decide (q.src = p.src) && decide ((rhOf q).seq = (rhOf p).seq)) = false)) :=
  ⟨⟨darkRim, 0, pktOf kGet 0, 0, 0, by decide +kernel⟩,
   ⟨mirroring [(5, true)] [] [], 0, 5, by decide +kernel⟩,
   ⟨mirroring [] [(5, true)] [], 0, 5, by decide +kernel⟩,
   ⟨mirroring [(0, true)] [] [⟨true, 0, 1⟩], 0, 0, 0, by decide +kernel⟩,
   ⟨mirroring [(0, true)] [(5, true)] [], 0, 5, by decide +kernel⟩,
   ⟨(mirroring [] [] []).updMirSrc 0 (fun m => { m with commit := true }), 0, by decide +kernel⟩,
   ⟨mirroring [] [] [], 0, by decide +kernel⟩,
   ⟨rimOn, 0, pktOf 0x7F 0, by decide +kernel⟩,
   ⟨recvOn (pktOf kMirMark 0), 0, pktOf kMirMark 0, by decide +kernel⟩,
   ⟨flowOpen (recvOn (pktOf kMirMark 0)), 0, pktOf kMirMark 0, by decide +kernel⟩⟩

theorem wit_HealthAndMirrorCommandsComplete_9_to_18 :
    (∃ (s : State) (f : FieldId) (p : Packet), (s.svc f ≠ svcDark) ∧ ((rhOf p).kind = kMirLayout) ∧ (pktRemote p = true) ∧ (rhWellFormed p = true) ∧ (p.dst = s.node f) ∧ ((s.field f).router.inbox.contains p = true ∨ s.deliverOk f p = true) ∧ (s.halted f = false ∨ p.allot ≠ s.allot f)) ∧
    (∃ (s : State) (f : FieldId) (p : Packet), (s.svc f ≠ svcDark) ∧ ((rhOf p).kind = kMirLayout) ∧ (pktRemote p = true) ∧ (rhWellFormed p = true) ∧ (p.dst = s.node f) ∧ ((s.field f).router.inbox.contains p = true ∨ s.deliverOk f p = true) ∧ (s.halted f = false ∨ p.allot ≠ s.allot f) ∧ (s.injArmed f injGwy 2 = false) ∧ ((s.flowRx f p.src).valid = true) ∧ ((s.flowRx f p.src).fepoch = (rhOf p).fepoch) ∧ ((s.flowRx f p.src).exp = (rhOf p).seq) ∧ ((s.flowRx f p.src).held.any (fun x => decide (x.seq = (rhOf p).seq)) = false) ∧ ((s.gw f).redWait.any (fun q => decide (q.src = p.src) && decide ((rhOf q).seq = (rhOf p).seq)) = false)) ∧
    (∃ (s : State) (f : FieldId) (p : Packet), (s.svc f ≠ svcDark) ∧ ((rhOf p).kind = kMirPull) ∧ (pktRemote p = true) ∧ (rhWellFormed p = true) ∧ (p.dst = s.node f) ∧ ((s.field f).router.inbox.contains p = true ∨ s.deliverOk f p = true) ∧ (s.halted f = false ∨ p.allot ≠ s.allot f)) ∧
    (∃ (s : State) (f : FieldId) (p : Packet), (s.svc f ≠ svcDark) ∧ ((rhOf p).kind = kMirPull) ∧ (pktRemote p = true) ∧ (rhWellFormed p = true) ∧ (p.dst = s.node f) ∧ ((s.field f).router.inbox.contains p = true ∨ s.deliverOk f p = true) ∧ (s.halted f = false ∨ p.allot ≠ s.allot f) ∧ (s.injArmed f injGwy 2 = false) ∧ ((s.flowRx f p.src).valid = true) ∧ ((s.flowRx f p.src).fepoch = (rhOf p).fepoch) ∧ ((s.flowRx f p.src).exp = (rhOf p).seq) ∧ ((s.flowRx f p.src).held.any (fun x => decide (x.seq = (rhOf p).seq)) = false) ∧ ((s.gw f).redWait.any (fun q => decide (q.src = p.src) && decide ((rhOf q).seq = (rhOf p).seq)) = false)) ∧
    (∃ (s : State) (f : FieldId) (p : Packet), (s.svc f ≠ svcDark) ∧ ((rhOf p).kind = kMirDone) ∧ (pktRemote p = true) ∧ (rhWellFormed p = true) ∧ (p.dst = s.node f) ∧ ((s.field f).router.inbox.contains p = true ∨ s.deliverOk f p = true) ∧ (s.halted f = false ∨ p.allot ≠ s.allot f)) ∧
    (∃ (s : State) (f : FieldId) (p : Packet), (s.svc f ≠ svcDark) ∧ ((rhOf p).kind = kMirDone) ∧ (pktRemote p = true) ∧ (rhWellFormed p = true) ∧ (p.dst = s.node f) ∧ ((s.field f).router.inbox.contains p = true ∨ s.deliverOk f p = true) ∧ (s.halted f = false ∨ p.allot ≠ s.allot f) ∧ (s.injArmed f injGwy 2 = false) ∧ ((s.flowRx f p.src).valid = true) ∧ ((s.flowRx f p.src).fepoch = (rhOf p).fepoch) ∧ ((s.flowRx f p.src).exp = (rhOf p).seq) ∧ ((s.flowRx f p.src).held.any (fun x => decide (x.seq = (rhOf p).seq)) = false) ∧ ((s.gw f).redWait.any (fun q => decide (q.src = p.src) && decide ((rhOf q).seq = (rhOf p).seq)) = false)) ∧
    (∃ (s : State) (f : FieldId) (n : Fin 2) (x : MirPush) (g : Nat), (s.svc f ≠ svcDark) ∧ ((s.mirSlot f n).push = some x) ∧ (s.injArmedAt f injMir 2 n = false) ∧ (x.stall.any (fun k => decide (k ≤ x.next)) = false) ∧ (copyGranule (s.mirSlot f n).layout x.next = some g)) ∧
    (∃ (s : State) (f : FieldId) (n : Fin 2) (x : MirPush), (s.svc f ≠ svcDark) ∧ ((s.mirSlot f n).push = some x) ∧ (s.injArmedAt f injMir 2 n = false) ∧ (x.stall.any (fun k => decide (k ≤ x.next)) = false) ∧ (copyGranule (s.mirSlot f n).layout x.next = none)) ∧
    (∃ (s : State) (f : FieldId) (n : Fin 2) (x : MirPush), (s.svc f ≠ svcDark) ∧ ((s.mirSlot f n).push = some x) ∧ (s.injArmedAt f injMir 2 n = false) ∧ (x.stall.any (fun k => decide (k ≤ x.next)) = true)) ∧
    (∃ (s : State) (f : FieldId) (n : Fin 2) (x : MirPush), (s.svc f ≠ svcDark) ∧ ((s.mirSlot f n).push = some x) ∧ (s.injArmedAt f injMir 2 n = true) ∧ (s.injArg f injMir ≤ x.next)) :=
  ⟨⟨recvOn (pktOf kMirLayout 128), 0, pktOf kMirLayout 128, by decide +kernel⟩,
   ⟨flowOpen (recvOn (pktOf kMirLayout 128)), 0, pktOf kMirLayout 128, by decide +kernel⟩,
   ⟨recvOn (pktOf kMirPull 0), 0, pktOf kMirPull 0, by decide +kernel⟩,
   ⟨flowOpen (recvOn (pktOf kMirPull 0)), 0, pktOf kMirPull 0, by decide +kernel⟩,
   ⟨recvOn (pktOf kMirDone 0), 0, pktOf kMirDone 0, by decide +kernel⟩,
   ⟨flowOpen (recvOn (pktOf kMirDone 0)), 0, pktOf kMirDone 0, by decide +kernel⟩,
   ⟨pushing ⟨1, 0, 0, none⟩ [⟨true, 0, 1⟩], 0, 0, ⟨1, 0, 0, none⟩, 0, by decide +kernel⟩,
   ⟨pushing ⟨1, 0, 0, none⟩ [], 0, 0, ⟨1, 0, 0, none⟩, by decide +kernel⟩,
   ⟨pushing ⟨1, 0, 0, some 0⟩ [], 0, 0, ⟨1, 0, 0, some 0⟩, by decide +kernel⟩,
   ⟨pushStall ⟨1, 0, 0, none⟩ 0 [], 0, 0, ⟨1, 0, 0, none⟩, by decide +kernel⟩⟩

theorem wit_HealthAndMirrorCommandsComplete_19_to_28 :
    (∃ (s : State) (f : FieldId) (n : Fin 2) (x : MirPush) (g : Nat), (s.svc f ≠ svcDark) ∧ ((s.mirSlot f n).push = some x) ∧ (s.injArmedAt f injMir 2 n = true) ∧ (x.next < s.injArg f injMir) ∧ (copyGranule (s.mirSlot f n).layout x.next = some g)) ∧
    (∃ (s : State) (f : FieldId) (n : Fin 2) (x : MirPush), (s.svc f ≠ svcDark) ∧ ((s.mirSlot f n).push = some x) ∧ (s.injArmedAt f injMir 2 n = true) ∧ (x.next < s.injArg f injMir) ∧ (copyGranule (s.mirSlot f n).layout x.next = none)) ∧
    (∃ (s : State) (f : FieldId) (n : Fin 2), ((s.mirSlot f n).push = none)) ∧
    (∃ (s : State) (f : FieldId) (n : Fin 2), (s.svc f ≠ svcDark) ∧ ((s.mir f).src.on = true) ∧ ((s.mirLive f).contains n.val = true) ∧ ((s.gw f).lines.any (fun l => decide (l.owner = .mirror n)) = true)) ∧
    (∃ (s : State) (f : FieldId) (n : Fin 2), ((s.mir f).src.on = false ∨ (s.mirLive f).contains n.val = false ∨ (s.gw f).lines.any (fun l => decide (l.owner = .mirror n)) = false)) ∧
    (∃ (s : State) (f : FieldId) (n : Fin 2), (s.svc f ≠ svcDark) ∧ ((s.mir f).src.on = true) ∧ (n.val < (s.mir f).src.partners.length) ∧ (bit (s.mir f).src.lost n = true)) ∧
    (∃ (s : State) (f : FieldId) (n : Fin 2), ((s.mir f).src.on = false ∨ (s.mir f).src.partners.length ≤ n.val ∨ bit (s.mir f).src.lost n = false)) ∧
    (∃ (s : State) (f : FieldId), (s.svc f ≠ svcDark) ∧ (s.loading f = false)) ∧
    (∃ (s : State) (f : FieldId), (s.svc f ≠ svcDark) ∧ (s.loading f = true)) ∧
    (∃ (s : State) (f : FieldId), (s.svc f ≠ svcDark) ∧ (s.loading f = true)) :=
  ⟨⟨pushStall ⟨1, 0, 0, none⟩ 3 [⟨true, 0, 1⟩], 0, 0, ⟨1, 0, 0, none⟩, 0, by decide +kernel⟩,
   ⟨pushStall ⟨1, 0, 0, none⟩ 3 [], 0, 0, ⟨1, 0, 0, none⟩, by decide +kernel⟩,
   ⟨rimOn, 0, 0, by decide +kernel⟩,
   ⟨(mirroring [] [] []).updGw 0 (fun G => { G with lines := [{ gwLine kPut with owner := .mirror 0 }] }), 0, 0, by decide +kernel⟩,
   ⟨mirroring [] [] [], 0, 0, by decide +kernel⟩,
   ⟨(mirroring [] [] []).updMirSrc 0 (fun m => { m with lost := 1 }), 0, 0, by decide +kernel⟩,
   ⟨mirroring [] [] [], 0, 0, by decide +kernel⟩,
   ⟨rimOn, 0, by decide +kernel⟩,
   ⟨rimOn.fset 0 Reg.MIR_LOAD_STATUS.STATE mlLoading, 0, by decide +kernel⟩,
   ⟨rimOn.fset 0 Reg.MIR_LOAD_STATUS.STATE mlLoading, 0, by decide +kernel⟩⟩

theorem wit_HealthAndMirrorCommandsComplete_29_to_37 :
    (∃ (s : State) (f : FieldId), (s.loading f = false)) ∧
    (∃ (s : State) (f : FieldId), (s.svc f ≠ svcDark) ∧ (s.loading f = true) ∧ (s.freg f Reg.MIR_LOAD_STATUS.USING_SRC1 = 0) ∧ (s.freg f Reg.MIR_LOAD_CTL.SRC1 ≠ 0xFFFF)) ∧
    (∃ (s : State) (f : FieldId), (s.svc f ≠ svcDark) ∧ (s.loading f = true) ∧ (s.freg f Reg.MIR_LOAD_STATUS.USING_SRC1 ≠ 0 ∨ s.freg f Reg.MIR_LOAD_CTL.SRC1 = 0xFFFF)) ∧
    (∃ (s : State) (f : FieldId), (s.svc f ≠ svcDark) ∧ (s.loading f = false)) ∧
    (∃ (s : State), (allFields.any s.windowOver = true)) ∧
    (∃ (s : State), (allFields.any s.windowOver = false)) ∧
    (∃ (s : State) (f : FieldId) (kd : Nat) (inj : Bool) (l : List (Nat × Bool)), ((s.field f).hardDue = (kd, inj) :: l)) ∧
    (∃ (s : State) (f : FieldId) (kd : Nat) (inj : Bool) (l : List (Nat × Bool)), ((s.field f).hardDue = (kd, inj) :: l)) ∧
    (∃ (s : State) (f : FieldId), ((s.field f).hardDue = [])) ∧
    (∃ (s : State) (f : FieldId), (s.svc f ≠ svcDark)) :=
  ⟨⟨rimOn, 0, by decide +kernel⟩,
   ⟨(rimOn.fset 0 Reg.MIR_LOAD_STATUS.STATE mlLoading).fset 0 Reg.MIR_LOAD_CTL.SRC1 1, 0, by decide +kernel⟩,
   ⟨(rimOn.fset 0 Reg.MIR_LOAD_STATUS.STATE mlLoading).fset 0 Reg.MIR_LOAD_STATUS.USING_SRC1 1, 0, by decide +kernel⟩,
   ⟨rimOn, 0, by decide +kernel⟩,
   ⟨rimOn.updHub (fun H => { H with tally := 1000000000 }), by decide +kernel⟩,
   ⟨rimOn, by decide +kernel⟩,
   ⟨(rimOn.updField 0 (fun F => { F with hardDue := [(0, false)] })).fset 0 Reg.HLT_SCORE.SCORE 900, 0, 0, false, [], by decide +kernel⟩,
   ⟨rimOn.updField 0 (fun F => { F with hardDue := [(2, true), (0, false)] }), 0, 2, true, [(0, false)], by decide +kernel⟩,
   ⟨rimOn, 0, by decide +kernel⟩,
   ⟨(rimOn.fset 0 Reg.HLT_SCORE.EXPEL 1).fset 0 Reg.HLT_SCORE.RUN 3, 0, by decide +kernel⟩⟩

theorem wit_HealthAndMirrorCommandsComplete_38_to_38 : ∃ (s : State) (f : FieldId), (s.svc f = svcDark) :=
  ⟨darkRim, 0, by decide +kernel⟩

/-! ### TallyCommandsComplete: states and operands that meet the hypotheses of each clause, in the clauses' order. -/

theorem wit_TallyCommandsComplete_0_to_9 :
    (∃ (s : State) (f : FieldId) (l : Fin 18) (d : Nat), (s.rimUp f = true) ∧ (bit (s.tly f).muted l = false) ∧ (s.beaconTo f l = some d) ∧ (l.val < 16)) ∧
    (∃ (s : State) (f : FieldId) (l : Fin 18) (d : Nat), (s.rimUp f = true) ∧ (bit (s.tly f).muted l = false) ∧ (s.beaconTo f l = some d) ∧ (16 ≤ l.val)) ∧
    (∃ (s : State) (f : FieldId) (l : Fin 18), (s.rimUp f = false ∨ bit (s.tly f).muted l = true ∨ s.beaconTo f l = none)) ∧
    (∃ (s : State) (f : FieldId) (l : Fin 18) (p : Packet), (s.rimUp f = false ∨ s.beaconOk f p = false)) ∧
    (∃ (s : State) (f : FieldId) (l : Fin 18) (p : Packet), (s.rimUp f = true) ∧ (s.beaconOk f p = true)) ∧
    (∃ (s : State) (f : FieldId), (s.svc f ≠ svcDark) ∧ (s.freg f Reg.TLY_STATUS.PARENT_LINK ≠ 0x1F) ∧ (s.tlyState f ≠ tsRoot)) ∧
    (∃ (s : State) (f : FieldId), (s.freg f Reg.TLY_STATUS.PARENT_LINK = 0x1F ∨ s.tlyState f = tsRoot ∨ s.svc f = svcDark)) ∧
    (∃ (s : State) (f : FieldId) (r : TallyRoot), (s.svc f ≠ svcDark) ∧ (SMap.find (s.tly f).roots (s.freg f Reg.TLY_STATUS.ROOT) = some r) ∧ (s.tlyState f ≠ tsRoot) ∧ (s.tlyState f ≠ tsLocked) ∧ (s.tlyState f ≠ tsAcquire)) ∧
    (∃ (s : State) (f : FieldId) (r : TallyRoot), (s.svc f ≠ svcDark) ∧ (SMap.find (s.tly f).roots (s.freg f Reg.TLY_STATUS.ROOT) = some r) ∧ (s.tlyState f ≠ tsRoot) ∧ (s.tlyState f = tsLocked ∨ s.tlyState f = tsAcquire)) ∧
    (∃ (s : State) (f : FieldId), (SMap.find (s.tly f).roots (s.freg f Reg.TLY_STATUS.ROOT) = none ∨ s.tlyState f = tsRoot ∨ s.svc f = svcDark)) :=
  ⟨⟨beaconPort, 0, 0, (beaconPort.beaconTo 0 0).getD 0, by decide +kernel⟩,
   ⟨beaconing, 0, 16, (beaconing.beaconTo 0 16).getD 0, by decide +kernel⟩,
   ⟨rimOn, 0, 0, by decide +kernel⟩,
   ⟨rimOn, 0, 0, pktOf kGet 0, by decide +kernel⟩,
   ⟨rimOn, 0, 16, beaconPkt, by decide +kernel⟩,
   ⟨(tlyAt tsLocked).fset 0 Reg.TLY_STATUS.PARENT_LINK 3, 0, by decide +kernel⟩,
   ⟨(tlyAt tsRoot).fset 0 Reg.TLY_STATUS.PARENT_LINK 3, 0, by decide +kernel⟩,
   ⟨rooted tsFree, 0, rootHeard, by decide +kernel⟩,
   ⟨rooted tsLocked, 0, rootHeard, by decide +kernel⟩,
   ⟨rimOn, 0, by decide +kernel⟩⟩

theorem wit_TallyCommandsComplete_10_to_19 :
    (∃ (s : State) (f : FieldId), (s.svc f ≠ svcDark) ∧ (s.tlyState f ≠ tsRoot) ∧ (s.anyAlive f = false) ∧ (s.rootRank f = some 0) ∧ (8 ≤ s.hreg Reg.SEED_STAGE.STAGE)) ∧
    (∃ (s : State) (f : FieldId), (s.tlyState f = tsRoot ∨ s.anyAlive f = true ∨ s.rootRank f ≠ some 0 ∨ s.hreg Reg.SEED_STAGE.STAGE < 8 ∨ s.svc f = svcDark)) ∧
    (∃ (s : State) (f : FieldId) (k : Nat), (s.svc f ≠ svcDark) ∧ (s.rootRank f = some k) ∧ (s.tlyState f ≠ tsRoot) ∧ (s.anyAlive f = false) ∧ (k ≠ 0) ∧ (s.rootGone f k = true)) ∧
    (∃ (s : State) (f : FieldId), (s.rootRank f = none ∨ s.rootRank f = some 0 ∨ s.tlyState f = tsRoot ∨ s.anyAlive f = true ∨ s.rootGone f ((s.rootRank f).getD 0) = false ∨ s.svc f = svcDark)) ∧
    (∃ (s : State) (f : FieldId), (s.svc f ≠ svcDark) ∧ (s.tlyState f ≠ tsLocked) ∧ (s.tlyState f ≠ tsRoot) ∧ ((s.tly f).reached = false)) ∧
    (∃ (s : State) (f : FieldId), (s.tlyState f = tsLocked ∨ s.tlyState f = tsRoot ∨ (s.tly f).reached = true ∨ s.svc f = svcDark)) ∧
    (∃ (s : State) (f : FieldId), (s.lowRim = some f)) ∧
    (∃ (s : State), (s.lowRim = none)) ∧
    (∃ (s : State), (s.hub.pulseDue = true) ∧ (s.hreg Reg.TLY_PIN_CTL.ENABLE = 1) ∧ (s.hubSealed = true)) ∧
    (∃ (s : State), (s.hub.pulseDue = false ∨ s.hreg Reg.TLY_PIN_CTL.ENABLE ≠ 1 ∨ s.hubSealed = false)) :=
  ⟨⟨(rimOn.fset 0 Reg.TLY_ROOTS.VALID 1).hset Reg.SEED_STAGE.STAGE 8, 0, by decide +kernel⟩,
   ⟨rimOn, 0, by decide +kernel⟩,
   ⟨{ (rimOn.fset 0 Reg.TLY_ROOTS.VALID 2).updTly 0 (fun U => { U with roots := [(5, ⟨0, 0, false, 0⟩)] }) with now := 2000000 }, 0, 1, by decide +kernel⟩,
   ⟨rimOn, 0, by decide +kernel⟩,
   ⟨rimOn, 0, by decide +kernel⟩,
   ⟨tlyAt tsLocked, 0, by decide +kernel⟩,
   ⟨rimOn, 0, by decide +kernel⟩,
   ⟨State.reset, by decide +kernel⟩,
   ⟨((rimOn.updHub (fun H => { H with pulseDue := true })).hset Reg.TLY_PIN_CTL.ENABLE 1).fset 0 Reg.RTE_TABLE_STATUS.SEALED 1, by decide +kernel⟩,
   ⟨rimOn.updHub (fun H => { H with pulseDue := true }), by decide +kernel⟩⟩

theorem wit_TallyCommandsComplete_20_to_27 :
    (∃ (s : State) (t : Option Int), (s.hreg Reg.CAL_COMP.ENABLE = 0)) ∧
    (∃ (s : State) (t : Option Int) (a : Int), (s.hreg Reg.CAL_COMP.ENABLE ≠ 0) ∧ (a = (s.hub.cal.acc + toSigned Reg.CAL_COMP.C0.width (s.hreg Reg.CAL_COMP.C0) + toSigned Reg.CAL_COMP.C1.width (s.hreg Reg.CAL_COMP.C1) * (toSigned 8 ((match t with | none => s | some v => s.hset Reg.CAL_STATUS.TEMP (ofSigned 8 v)).hreg Reg.CAL_STATUS.TEMP) - toSigned Reg.CAL_COMP.T0.width (s.hreg Reg.CAL_COMP.T0)) + toSigned Reg.CAL_COMP.C2.width (s.hreg Reg.CAL_COMP.C2) * (toSigned 8 ((match t with | none => s | some v => s.hset Reg.CAL_STATUS.TEMP (ofSigned 8 v)).hreg Reg.CAL_STATUS.TEMP) - toSigned Reg.CAL_COMP.T0.width (s.hreg Reg.CAL_COMP.T0)) * (toSigned 8 ((match t with | none => s | some v => s.hset Reg.CAL_STATUS.TEMP (ofSigned 8 v)).hreg Reg.CAL_STATUS.TEMP) - toSigned Reg.CAL_COMP.T0.width (s.hreg Reg.CAL_COMP.T0)))) ∧ (a < 125000) ∧ (-125000 < a)) ∧
    (∃ (s : State) (t : Option Int) (a : Int), (s.hreg Reg.CAL_COMP.ENABLE ≠ 0) ∧ (a = (s.hub.cal.acc + toSigned Reg.CAL_COMP.C0.width (s.hreg Reg.CAL_COMP.C0) + toSigned Reg.CAL_COMP.C1.width (s.hreg Reg.CAL_COMP.C1) * (toSigned 8 ((match t with | none => s | some v => s.hset Reg.CAL_STATUS.TEMP (ofSigned 8 v)).hreg Reg.CAL_STATUS.TEMP) - toSigned Reg.CAL_COMP.T0.width (s.hreg Reg.CAL_COMP.T0)) + toSigned Reg.CAL_COMP.C2.width (s.hreg Reg.CAL_COMP.C2) * (toSigned 8 ((match t with | none => s | some v => s.hset Reg.CAL_STATUS.TEMP (ofSigned 8 v)).hreg Reg.CAL_STATUS.TEMP) - toSigned Reg.CAL_COMP.T0.width (s.hreg Reg.CAL_COMP.T0)) * (toSigned 8 ((match t with | none => s | some v => s.hset Reg.CAL_STATUS.TEMP (ofSigned 8 v)).hreg Reg.CAL_STATUS.TEMP) - toSigned Reg.CAL_COMP.T0.width (s.hreg Reg.CAL_COMP.T0)))) ∧ (125000 ≤ a)) ∧
    (∃ (s : State) (t : Option Int) (a : Int), (s.hreg Reg.CAL_COMP.ENABLE ≠ 0) ∧ (a = (s.hub.cal.acc + toSigned Reg.CAL_COMP.C0.width (s.hreg Reg.CAL_COMP.C0) + toSigned Reg.CAL_COMP.C1.width (s.hreg Reg.CAL_COMP.C1) * (toSigned 8 ((match t with | none => s | some v => s.hset Reg.CAL_STATUS.TEMP (ofSigned 8 v)).hreg Reg.CAL_STATUS.TEMP) - toSigned Reg.CAL_COMP.T0.width (s.hreg Reg.CAL_COMP.T0)) + toSigned Reg.CAL_COMP.C2.width (s.hreg Reg.CAL_COMP.C2) * (toSigned 8 ((match t with | none => s | some v => s.hset Reg.CAL_STATUS.TEMP (ofSigned 8 v)).hreg Reg.CAL_STATUS.TEMP) - toSigned Reg.CAL_COMP.T0.width (s.hreg Reg.CAL_COMP.T0)) * (toSigned 8 ((match t with | none => s | some v => s.hset Reg.CAL_STATUS.TEMP (ofSigned 8 v)).hreg Reg.CAL_STATUS.TEMP) - toSigned Reg.CAL_COMP.T0.width (s.hreg Reg.CAL_COMP.T0)))) ∧ (a ≤ -125000)) ∧
    (∃ (s : State), (s.hreg Reg.CAL_SET.APPLY ≠ 0)) ∧
    (∃ (s : State), (s.hreg Reg.CAL_SET.APPLY = 0)) ∧
    (∃ (s : State), (s.hreg Reg.CAL_STATUS.VBAT_LOW ≠ 1)) ∧
    (∃ (s : State), (s.hreg Reg.CAL_STATUS.VBAT_LOW = 1)) :=
  ⟨⟨State.reset.hset Reg.CAL_COMP.ENABLE 0, none, by decide +kernel⟩,
   ⟨compensating 0, some 25, (compensating 0).hub.cal.acc, by decide +kernel⟩,
   ⟨compensating 130000, none, 130000, by decide +kernel⟩,
   ⟨compensating (-130000), none, -130000, by decide +kernel⟩,
   ⟨State.reset.hset Reg.CAL_SET.APPLY 1, by decide +kernel⟩,
   ⟨State.reset.hset Reg.CAL_SET.APPLY 0, by decide +kernel⟩,
   ⟨State.reset, by decide +kernel⟩,
   ⟨State.reset.hset Reg.CAL_STATUS.VBAT_LOW 1, by decide +kernel⟩⟩

/-! ### MarkCommandsComplete: states and operands that meet the hypotheses of each clause, in the clauses' order. -/

theorem wit_MarkCommandsComplete_0_to_7 :
    (∃ (s : State) (f : FieldId) (v : Nat), (s.svc f ≠ svcDark) ∧ (s.markArmed f = false ∨ (s.tly f).tInt + 100000 ≤ v % 2 ^ 64)) ∧
    (∃ (s : State) (f : FieldId) (v : Nat), (s.svc f ≠ svcDark) ∧ (s.markArmed f = false ∨ (s.tly f).tInt + 100000 ≤ v % 2 ^ 64)) ∧
    (∃ (s : State) (f : FieldId) (v : Nat), (s.svc f ≠ svcDark) ∧ (s.markArmed f = true) ∧ (v % 2 ^ 64 < (s.tly f).tInt + 100000)) ∧
    (∃ (s : State) (f : FieldId) (a : Bool) (p : Nat), (s.svc f ≠ svcDark) ∧ (a = false ∨ s.markArmed f = true ∨ (s.tly f).tInt + 100000 ≤ s.freg f Reg.TLY_MARK_NEXT.NEXT)) ∧
    (∃ (s : State) (f : FieldId) (a : Bool) (p : Nat), (s.svc f ≠ svcDark) ∧ (a = false ∨ s.markArmed f = true ∨ (s.tly f).tInt + 100000 ≤ s.freg f Reg.TLY_MARK_NEXT.NEXT)) ∧
    (∃ (s : State) (f : FieldId) (p : Nat), (s.svc f ≠ svcDark) ∧ (s.markArmed f = false) ∧ (s.freg f Reg.TLY_MARK_NEXT.NEXT < (s.tly f).tInt + 100000)) ∧
    (∃ (s : State) (f : FieldId) (w : MarkWrite), (s.svc f = svcDark)) ∧
    (∃ (s : State) (f : FieldId), (s.rimUp f = true) ∧ (s.markArmed f = true) ∧ (s.freg f Reg.TLY_MARK_NEXT.NEXT ≤ (s.tly f).tInt) ∧ ((s.tly f).todo = [])) ∧
    (∃ (s : State) (f : FieldId), (s.rimUp f = false ∨ s.markArmed f = false ∨ (s.tly f).tInt < s.freg f Reg.TLY_MARK_NEXT.NEXT ∨ (s.tly f).todo ≠ [])) ∧
    (∃ (s : State) (f : FieldId), (s.rimUp f = true) ∧ (s.markArmed f = false) ∧ ((s.tly f).houseDue = true) ∧ ((s.tly f).todo = [])) :=
  ⟨⟨rimOn, 0, 5, by decide +kernel⟩,
   ⟨armed, 0, 100000, by decide +kernel⟩,
   ⟨armed, 0, 99999, by decide +kernel⟩,
   ⟨armed, 0, true, 7, by decide +kernel⟩,
   ⟨rimOn, 0, false, 0, by decide +kernel⟩,
   ⟨rimOn, 0, 0, by decide +kernel⟩,
   ⟨darkRim, 0, .next 0, by decide +kernel⟩,
   ⟨armed, 0, by decide +kernel⟩,
   ⟨rimOn, 0, by decide +kernel⟩,
   ⟨rimOn.updTly 0 (fun U => { U with houseDue := true }), 0, by decide +kernel⟩⟩

theorem wit_MarkCommandsComplete_8_to_17 :
    (∃ (s : State) (f : FieldId), (s.rimUp f = false ∨ s.markArmed f = true ∨ (s.tly f).houseDue = false ∨ (s.tly f).todo ≠ [])) ∧
    (∃ (s : State) (f : FieldId), (s.svc f ≠ svcDark) ∧ ((s.tly f).todo.head? = some 10) ∧ (s.freg f Reg.FLD_DRIFT_BASE.WRITE ≠ 0) ∧ (s.freg f Reg.FLD_DRIFT_BASE.ADDR * 128 + 0x42000 ≤ hbmTop)) ∧
    (∃ (s : State) (f : FieldId), (s.svc f ≠ svcDark) ∧ ((s.tly f).todo.head? = some 10) ∧ (s.freg f Reg.FLD_DRIFT_BASE.WRITE ≠ 0) ∧ (hbmTop < s.freg f Reg.FLD_DRIFT_BASE.ADDR * 128 + 0x42000)) ∧
    (∃ (s : State) (f : FieldId), (s.svc f ≠ svcDark) ∧ ((s.tly f).todo.head? = some 10) ∧ (s.freg f Reg.FLD_DRIFT_BASE.WRITE = 0)) ∧
    (∃ (s : State) (f : FieldId), (s.svc f ≠ svcDark) ∧ ((s.tly f).todo.head? = some 10)) ∧
    (∃ (s : State) (f : FieldId), (s.svc f ≠ svcDark) ∧ ((s.tly f).todo.head? = some 11) ∧ (s.freg f Reg.HLT_REPORT_BASE.WRITE = 1) ∧ ((s.field f).hubLost = false) ∧ (s.freg f Reg.HLT_REPORT_BASE.ADDR * 128 + 0x10200 ≤ hbmTop)) ∧
    (∃ (s : State) (f : FieldId), (s.svc f ≠ svcDark) ∧ ((s.tly f).todo.head? = some 11) ∧ (s.freg f Reg.HLT_REPORT_BASE.WRITE = 1) ∧ ((s.field f).hubLost = false) ∧ (hbmTop < s.freg f Reg.HLT_REPORT_BASE.ADDR * 128 + 0x10200)) ∧
    (∃ (s : State) (f : FieldId), (s.svc f ≠ svcDark) ∧ ((s.tly f).todo.head? = some 11) ∧ (s.freg f Reg.HLT_REPORT_BASE.WRITE ≠ 1 ∨ (s.field f).hubLost = true)) ∧
    (∃ (s : State) (f : FieldId), (s.svc f ≠ svcDark) ∧ ((s.tly f).todo.head? = some 12)) ∧
    (∃ (s : State) (f : FieldId), (s.svc f ≠ svcDark) ∧ ((s.tly f).todo = [14])) :=
  ⟨⟨rimOn, 0, by decide +kernel⟩,
   ⟨(markTodo 10).fset 0 Reg.FLD_DRIFT_BASE.WRITE 1, 0, by decide +kernel⟩,
   ⟨((markTodo 10).fset 0 Reg.FLD_DRIFT_BASE.WRITE 1).fset 0 Reg.FLD_DRIFT_BASE.ADDR (2 ^ 33 - 1), 0, by decide +kernel⟩,
   ⟨markTodo 10, 0, by decide +kernel⟩,
   ⟨markTodo 10, 0, by decide +kernel⟩,
   ⟨(markTodo 11).fset 0 Reg.HLT_REPORT_BASE.WRITE 1, 0, by decide +kernel⟩,
   ⟨((markTodo 11).fset 0 Reg.HLT_REPORT_BASE.WRITE 1).fset 0 Reg.HLT_REPORT_BASE.ADDR (2 ^ 33 - 1), 0, by decide +kernel⟩,
   ⟨markTodo 11, 0, by decide +kernel⟩,
   ⟨(markTodo 12).updGw 0 (fun G => { G with red := [(0, { redZero with flushed := some (List.replicate 128 1) })] }), 0, by decide +kernel⟩,
   ⟨markTodo 14, 0, by decide +kernel⟩⟩

theorem wit_MarkCommandsComplete_18_to_21 :
    (∃ (s : State) (f : FieldId), (s.svc f = svcDark ∨ (s.tly f).todo.head? ≠ some 10)) ∧
    (∃ (s : State) (f : FieldId), (s.svc f = svcDark ∨ (s.tly f).todo.head? ≠ some 11)) ∧
    (∃ (s : State) (f : FieldId), (s.svc f = svcDark ∨ (s.tly f).todo.head? ≠ some 12)) ∧
    (∃ (s : State) (f : FieldId), (s.svc f = svcDark ∨ (s.tly f).todo ≠ [14])) :=
  ⟨⟨rimOn, 0, by decide +kernel⟩,
   ⟨rimOn, 0, by decide +kernel⟩,
   ⟨rimOn, 0, by decide +kernel⟩,
   ⟨rimOn, 0, by decide +kernel⟩⟩

/-! ### ResetCommandsComplete: states and operands that meet the hypotheses of each clause, in the clauses' order. -/

theorem wit_ResetCommandsComplete :
    (∃ (s : State) (po : Bool) (st : Fin 16) (vbat : Vbat) (f : FieldId), (s.hub.pwr.warnPin = false)) ∧
    (∃ (s : State) (po : Bool) (st : Fin 16), (s.hub.pwr.warnPin = false)) ∧
    (∃ (s : State) (po : Bool) (st : Fin 16) (vbat : Vbat), (s.hub.pwr.warnPin = false) ∧ (vbat ≠ .kept)) ∧
    (∃ (s : State) (f : FieldId), ((s.field f).hubLost = false) ∧ (s.svc f = svcReady)) ∧
    (∃ (s : State) (f : FieldId), ((s.field f).hubLost = false) ∧ (s.svc f ≠ svcReady)) ∧
    (∃ (s : State) (f : FieldId), ((s.field f).hubLost = true)) ∧
    (∃ (s : State) (f : FieldId) (m : Nat), (s.svc f = svcPartitionReset)) ∧
    (∃ (s : State) (f : FieldId) (m : Nat), (s.svc f ≠ svcPartitionReset)) ∧
    (∃ (s : State) (r v : Nat) (ok : Bool), (s.hub.seed.jtagHold = false) ∧ (ok = (decide (s.hreg Reg.SEED_IMAGE_STATUS.SLOT ≠ 3) && ecdsaOk (imgKey s.image) (beNat (sha384 s.jtagMessage)) (r % 2 ^ 384) (v % 2 ^ 384)))) ∧
    (∃ (s : State) (r v : Nat), (s.hub.seed.jtagHold = true)) :=
  ⟨⟨rimOn, true, 5, .stopped, 2, by decide +kernel⟩,
   ⟨rimOn.updHub (fun H => { H with cal := { H.cal with acc := 9 } }), true, 5, by decide +kernel⟩,
   ⟨rimOn, true, 5, .stopped, by decide +kernel⟩,
   ⟨rimOn, 0, by decide +kernel⟩,
   ⟨State.reset, 0, by decide +kernel⟩,
   ⟨State.reset.updField 0 (fun F => { F with hubLost := true }), 0, by decide +kernel⟩,
   ⟨State.reset.hset Reg.HUB_FIELD_STATE.STATE svcPartitionReset 0 0, 0, 0, by decide +kernel⟩,
   ⟨State.reset, 0, 0, by decide +kernel⟩,
   ⟨State.reset, 0, 0, false, by decide +kernel⟩,
   ⟨State.reset.updSeed (fun U => { U with jtagHold := true }), 0, 0, by decide +kernel⟩⟩

/-! ### BringUpStagesComplete: states and operands that meet the hypotheses of each clause, in the clauses' order. -/

theorem wit_BringUpStagesComplete_0_to_8 :
    (∃ (s : State) (env : LightEnv) (fl : Option Flash) (pg ro : Fin 16) (tr : Fin 256) (ms ml rp : List Nat) (ca : Option Flash), (∃ x ∈ ([(.stagePower env, sgPower), (.stageSeed env fl, sgSeed), (.stageFieldPower pg ro ms, sgFieldPower), (.stageMemory tr ml ca rp, sgMemory), (.stageLight env, sgLight), (.stageLinks, sgLinks), (.stageKnownAnswer ms ro, sgKnownAnswer), (.stageFirmware, sgFirmware), (.stageFabric, sgFabric), (.stageReady, sgReady)] : List (Instr × Nat)), (s.due x.2 = false))) ∧
    (∃ (s : State) (env : LightEnv), (s.due sgPower = true)) ∧
    (∃ (s : State) (env : LightEnv) (fl : Option Flash), (s.due sgSeed = true)) ∧
    (∃ (s : State) (env : LightEnv) (fl : Option Flash), (s.due sgSeed = true)) ∧
    (∃ (s : State) (env : LightEnv) (fl : Option Flash), (s.due sgSeed = true) ∧ (s.hub.seed.warm = false) ∧ (s.hreg Reg.SEED_STRAPS.BOOT_SRC = 2) ∧ (s.hreg Reg.SEED_CTL.HOST_IMAGE = 0)) ∧
    (∃ (s : State) (env : LightEnv), (s.due sgSeed = true) ∧ (s.hub.seed.warm = false) ∧ (s.hreg Reg.SEED_STRAPS.BOOT_SRC = 0)) ∧
    (∃ (s : State) (pg ro : Fin 16) (ms : List Nat), (s.due sgFieldPower = true)) ∧
    (∃ (s : State) (tr : Fin 256) (ml : List Nat) (ca : Option Flash) (rp : List Nat), (s.due sgMemory = true)) ∧
    (∃ (s : State) (env : LightEnv), (s.due sgLight = true)) ∧
    (∃ (s : State), (s.due sgLinks = true)) :=
  ⟨⟨State.reset.hset Reg.SEED_STAGE.PHASE phWait, noLight, none, 15, 15, 0, [], [], [], none, by decide +kernel⟩,
   ⟨State.reset, noLight, by decide +kernel⟩,
   ⟨staged sgSeed, noLight, none, by decide +kernel⟩,
   ⟨(staged sgSeed).hset Reg.SEED_STRAPS.BOOT_SRC 2, noLight, some flashBlank, by decide +kernel⟩,
   ⟨(staged sgSeed).hset Reg.SEED_STRAPS.BOOT_SRC 2, noLight, none, by decide +kernel⟩,
   ⟨staged sgSeed, noLight, by decide +kernel⟩,
   ⟨staged sgFieldPower, 7, 15, [16, 16], by decide +kernel⟩,
   ⟨staged sgMemory, 255, [1], none, [], by decide +kernel⟩,
   ⟨staged sgLight, noLight, by decide +kernel⟩,
   ⟨staged sgLinks, by decide +kernel⟩⟩

theorem wit_BringUpStagesComplete_9_to_14 :
    (∃ (s : State) (l : List Nat) (r : Fin 16), (s.due sgKnownAnswer = true) ∧ (s.fastPath = true)) ∧
    (∃ (s : State) (l : List Nat) (r : Fin 16), (s.due sgKnownAnswer = true) ∧ (s.fastPath = false)) ∧
    (∃ (s : State), (s.due sgFirmware = true) ∧ (s.hreg Reg.SEED_CTL.IMAGES_READY ≠ 0 ∨ ((List.range 4).any (fun i => match imgDrill s.image i with | some v => diHost v | none => false)) = false)) ∧
    (∃ (s : State), (s.due sgFirmware = true) ∧ (s.hreg Reg.SEED_CTL.IMAGES_READY = 0) ∧ (((List.range 4).any (fun i => match imgDrill s.image i with | some v => diHost v | none => false)) = true)) ∧
    (∃ (s : State), (s.due sgFabric = true)) ∧
    (∃ (s : State), (s.due sgReady = true)) :=
  ⟨⟨(staged sgKnownAnswer).hset Reg.SEED_STAGE.FAST_PATH 1, [], 0, by decide +kernel⟩,
   ⟨staged sgKnownAnswer, [], 0, by decide +kernel⟩,
   ⟨(staged sgFirmware).hset Reg.SEED_CTL.IMAGES_READY 1, by decide +kernel⟩,
   ⟨(staged sgFirmware).updSeed (fun U => { U with image := hostDrill }), by decide +kernel⟩,
   ⟨staged sgFabric, by decide +kernel⟩,
   ⟨(staged sgReady).hset Reg.HUB_FIELD_STATE.STATE svcStarting 0 0, by decide +kernel⟩⟩

/-! ### BringUpControlCompletes: states and operands that meet the hypotheses of each clause, in the clauses' order. -/

theorem wit_BringUpControlCompletes_0_to_7 :
    (∃ (s : State), (s.hub.seed.begun = true)) ∧
    (∃ (s : State), (s.stage = sgSeed ∨ s.stage = sgMemory ∨ s.stage = sgKnownAnswer) ∧ (s.phase = phRunning) ∧ (s.hub.seed.begun = true)) ∧
    (∃ (s : State), (s.stage = sgSeed ∨ s.stage = sgMemory ∨ s.stage = sgKnownAnswer) ∧ (s.phase = phRunning) ∧ (s.hub.seed.begun = true)) ∧
    (∃ (s : State), (s.stage = sgPower) ∧ (s.phase = phRunning) ∧ (s.hub.seed.begun = true) ∧ (s.hub.seed.lightDone = true)) ∧
    (∃ (s : State), (s.hub.seed.begun = false)) ∧
    (∃ (s : State) (k : Fin 16), (k ≠ s.stage)) ∧
    (∃ (s : State) (k : Fin 16), (k = s.stage) ∧ (s.phase = phWait) ∧ (s.hub.seed.begun = false)) ∧
    (∃ (s : State) (k : Fin 16), (k = s.stage) ∧ (s.phase = phGated)) ∧
    (∃ (s : State) (k : Fin 16), (k = s.stage) ∧ (s.phase ≠ phGated) ∧ (s.phase ≠ phWait ∨ s.hub.seed.begun = true)) :=
  ⟨⟨(staged sgLinks).begin, by decide +kernel⟩,
   ⟨(staged sgSeed).begin, by decide +kernel⟩,
   ⟨(staged sgKnownAnswer).begin, by decide +kernel⟩,
   ⟨State.reset.begin.updSeed (fun U => { U with lightDone := true }), by decide +kernel⟩,
   ⟨State.reset, by decide +kernel⟩,
   ⟨State.reset, 3, by decide +kernel⟩,
   ⟨stageWaits sgSeed, 1, by decide +kernel⟩,
   ⟨(staged sgLight).hset Reg.SEED_STAGE.PHASE phGated, 4, by decide +kernel⟩,
   ⟨State.reset, 0, by decide +kernel⟩⟩

theorem wit_BringUpControlCompletes_8_to_16 :
    (∃ (s : State) (k : Fin 16), (s.hostStepped = true) ∧ (skippable k = true) ∧ (k = s.stage) ∧ (((s.phase = phWait ∧ s.hub.seed.begun = false) ∨ (s.stage = sgLight ∧ s.phase = phFailed ∧ s.hreg Reg.SEED_STAGE.RESULT ≠ St.NO_FIELD)))) ∧
    (∃ (s : State) (k : Fin 16), (s.hostStepped = true) ∧ (skippable k = true) ∧ (k = s.stage) ∧ (((s.phase = phWait ∧ s.hub.seed.begun = false) ∨ (s.stage = sgLight ∧ s.phase = phFailed ∧ s.hreg Reg.SEED_STAGE.RESULT ≠ St.NO_FIELD)))) ∧
    (∃ (s : State) (k : Fin 16), (s.hostStepped = false ∨ skippable k = false ∨ k ≠ s.stage ∨ ¬((s.phase = phWait ∧ s.hub.seed.begun = false) ∨ (s.stage = sgLight ∧ s.phase = phFailed ∧ s.hreg Reg.SEED_STAGE.RESULT ≠ St.NO_FIELD)))) ∧
    (∃ (s : State), (s.seedWaits = false)) ∧
    (∃ (s : State) (b : List Byte), (s.seedWaits = true) ∧ (b = s.sramRead 0 (max imgHeader (min imgMax (imgLength (s.sramRead 0 imgHeader))))) ∧ (imgCheck b s.hostStepped ≠ St.OK)) ∧
    (∃ (s : State), (s.seedWaits = true)) ∧
    (∃ (s : State), (s.stage ≠ sgFirmware ∨ s.phase ≠ phWait ∨ s.hub.seed.begun = false)) ∧
    (∃ (s : State), (s.stage = sgFirmware) ∧ (s.phase = phWait) ∧ (s.hub.seed.begun = true)) ∧
    (∃ (s : State) (env : LightEnv), (s.seedWaits = true) ∧ (s.engIsDark 16 = true)) ∧
    (∃ (s : State) (env : LightEnv), (s.seedWaits = false ∨ s.engIsDark 16 = false)) :=
  ⟨⟨(stageWaits sgLight).hset Reg.SEED_STRAPS.STEP 1, 4, by decide +kernel⟩,
   ⟨((staged sgLight).hset Reg.SEED_STAGE.PHASE phFailed).hset Reg.SEED_STRAPS.STEP 1, 4, by decide +kernel⟩,
   ⟨State.reset, 0, by decide +kernel⟩,
   ⟨State.reset, by decide +kernel⟩,
   ⟨imageWaits, imageWaits.sramRead 0 (max imgHeader (min imgMax (imgLength (imageWaits.sramRead 0 imgHeader)))), by decide +kernel⟩,
   ⟨imageWaits, by decide +kernel⟩,
   ⟨State.reset, by decide +kernel⟩,
   ⟨(stageWaits sgFirmware).begin, by decide +kernel⟩,
   ⟨imageWaits, noLight, by decide +kernel⟩,
   ⟨State.reset, noLight, by decide +kernel⟩⟩

theorem wit_BringUpControlCompletes_17_to_26 :
    (∃ (s : State) (f : FieldId), (s.working sgFieldPower = true) ∧ (bit s.hub.seed.waits f.val = true)) ∧
    (∃ (s : State) (f : FieldId), (s.working sgFieldPower = false ∨ bit s.hub.seed.waits f.val = false)) ∧
    (∃ (s : State), (s.working sgLinks = true)) ∧
    (∃ (s : State), (s.working sgLinks = false)) ∧
    (∃ (s : State), (s.working sgFabric = true) ∧ (s.sealFailed = none) ∧ (s.talliesLocked = false)) ∧
    (∃ (s : State), (s.working sgFabric = false ∨ s.sealFailed.isSome = true ∨ s.talliesLocked = true)) ∧
    (∃ (s : State) (f : FieldId) (p : PlotId) (v : List Byte), (s.bootRuns f p = true) ∧ (s.partitionUp f = true) ∧ (imgDrill s.image (s.preg f p Reg.PLT_BOOT.IMAGE) = some v) ∧ (s.preg f p Reg.PLT_BOOT.STATUS = pbWait)) ∧
    (∃ (s : State) (f : FieldId) (p : PlotId) (v : List Byte), (s.bootRuns f p = true) ∧ (s.partitionUp f = true) ∧ (imgDrill s.image (s.preg f p Reg.PLT_BOOT.IMAGE) = some v) ∧ (s.preg f p Reg.PLT_BOOT.STATUS = pbFetching)) ∧
    (∃ (s : State) (f : FieldId) (p : PlotId) (v : List Byte), (s.bootRuns f p = true) ∧ (s.partitionUp f = true) ∧ (imgDrill s.image (s.preg f p Reg.PLT_BOOT.IMAGE) = some v) ∧ (s.preg f p Reg.PLT_BOOT.STATUS = pbFetching) ∧ ((s.plot f p).boot.todo = [])) ∧
    (∃ (s : State) (f : FieldId) (p : PlotId), (s.bootRuns f p = false ∨ s.partitionUp f = false ∨ imgDrill s.image (s.preg f p Reg.PLT_BOOT.IMAGE) = none ∨ (s.preg f p Reg.PLT_BOOT.STATUS ≠ pbWait ∧ s.preg f p Reg.PLT_BOOT.STATUS ≠ pbFetching))) :=
  ⟨⟨(staged sgFieldPower).begin.updSeed (fun U => { U with waits := 1 }), 0, by decide +kernel⟩,
   ⟨State.reset, 0, by decide +kernel⟩,
   ⟨(staged sgLinks).begin, by decide +kernel⟩,
   ⟨State.reset, by decide +kernel⟩,
   ⟨((staged sgFabric).begin.hset Reg.HUB_FIELD_STATE.STATE svcStarting 0 0).fset 0 Reg.RTE_TABLE_STATUS.SEALED 1, by decide +kernel⟩,
   ⟨State.reset, by decide +kernel⟩,
   ⟨booting pbWait, 0, 0, leBytes 8 0, by decide +kernel⟩,
   ⟨booting pbFetching, 0, 0, leBytes 8 0, by decide +kernel⟩,
   ⟨booting pbFetching, 0, 0, leBytes 8 0, by decide +kernel⟩,
   ⟨State.reset, 0, 0, by decide +kernel⟩⟩

theorem wit_BringUpControlCompletes_27_to_30 :
    (∃ (s : State) (f : FieldId) (i row : Nat) (rest : List (Nat × Nat)) (v : List Byte) (t : Bool), (s.svc f ≠ svcDark) ∧ ((s.field f).sow = (i, row) :: rest) ∧ (imgDrill s.image i = some v) ∧ ((mcastPlots true row (s.sowMask f i row)).all (fun p => decide (s.preg f p Reg.PLT_BOOT.STATUS = pbReceive)) = true ∨ t = true) ∧ (s.partitionUp f = true)) ∧
    (∃ (s : State) (f : FieldId) (i row : Nat) (rest : List (Nat × Nat)) (v : List Byte) (t : Bool), (s.svc f ≠ svcDark) ∧ ((s.field f).sow = (i, row) :: rest) ∧ (imgDrill s.image i = some v) ∧ (((mcastPlots true row (s.sowMask f i row)).all (fun p => decide (s.preg f p Reg.PLT_BOOT.STATUS = pbReceive)) = false ∧ t = false) ∨ s.partitionUp f = false)) ∧
    (∃ (s : State) (f : FieldId) (i row : Nat) (rest : List (Nat × Nat)) (t : Bool), (s.svc f ≠ svcDark) ∧ ((s.field f).sow = (i, row) :: rest) ∧ (imgDrill s.image i = none)) ∧
    (∃ (s : State) (f : FieldId) (t : Bool), (s.svc f = svcDark ∨ (s.field f).sow = [])) :=
  ⟨⟨sowing, 0, 0, 0, [], leBytes 8 0, true, by decide +kernel⟩,
   ⟨sowing.hset Reg.HUB_FIELD_STATE.STATE svcPartitionReset 0 0, 0, 0, 0, [], leBytes 8 0, false, by decide +kernel⟩,
   ⟨rimOn.updField 0 (fun F => { F with sow := [(0, 0)] }), 0, 0, 0, [], true, by decide +kernel⟩,
   ⟨rimOn, 0, true, by decide +kernel⟩⟩

/-! ### HostAccessesComplete: states and operands that meet the hypotheses of each clause, in the clauses' order. -/

theorem wit_HostAccessesComplete_0_to_9 :
    (∃ (s : State) (fn : Fin 5) (b2 : Bool) (a n : Nat), (s.hostUp = true) ∧ (n ≤ maxRead)) ∧
    (∃ (s : State) (a n : Nat), (s.hostLink = hpL0) ∧ (s.hub.host.held = []) ∧ (s.hub.host.wait = []) ∧ (bit s.hub.host.d3 0 = false) ∧ (n ≤ maxRead) ∧ (a + n ≤ 0x1000000)) ∧
    (∃ (s : State) (fn : Fin 5) (b2 : Bool) (a n : Nat), (s.hostLink = hpL0) ∧ (s.hub.host.held = []) ∧ (s.hub.host.wait = []) ∧ (n ≤ maxRead) ∧ (s.reqWaits (.read fn.val b2 a n) (s.reqQsn (.read fn.val b2 a n)) = false) ∧ (s.barStatus fn.val b2 a n = cplOk)) ∧
    (∃ (s : State) (fn : Fin 5) (b2 : Bool) (a n : Nat), (s.hostLink = hpL0) ∧ (s.hub.host.held = []) ∧ (s.hub.host.wait = []) ∧ (n ≤ maxRead) ∧ (s.reqWaits (.read fn.val b2 a n) (s.reqQsn (.read fn.val b2 a n)) = false) ∧ (s.barStatus fn.val b2 a n ≠ cplOk)) ∧
    (∃ (s : State) (fn : Fin 5) (b2 : Bool) (a n : Nat), (s.hostLink = hpL0) ∧ (s.hub.host.held = []) ∧ (s.hub.host.wait = []) ∧ (n ≤ maxRead) ∧ (s.reqWaits (.read fn.val b2 a n) (s.reqQsn (.read fn.val b2 a n)) = true)) ∧
    (∃ (s : State) (fn : Fin 5) (b2 : Bool) (a n : Nat), ((s.hostUp = false ∧ s.hostLink ≠ hpRecovery) ∨ maxRead < n)) ∧
    (∃ (s : State) (fn : Fin 5) (b2 : Bool) (a n : Nat), (s.hostLink = hpRecovery) ∧ (n ≤ maxRead)) ∧
    (∃ (s : State) (fn : Fin 5) (b2 : Bool) (a be : Nat) (d : List Byte) (ep : Bool), (s.hostUp = true) ∧ (d.length ≤ maxPayload)) ∧
    (∃ (s : State) (a be : Nat) (d : List Byte) (ep : Bool), (s.hostLink = hpL0) ∧ (s.hub.host.held = []) ∧ (s.hub.host.wait = []) ∧ (bit s.hub.host.d3 0 = false) ∧ (d.length ≤ maxPayload) ∧ (a + d.length ≤ 0x1000000)) ∧
    (∃ (s : State) (fn : Fin 5) (b2 : Bool) (a be : Nat) (d : List Byte) (ep : Bool), (s.hostLink = hpL0) ∧ (s.hub.host.held = []) ∧ (s.hub.host.wait = []) ∧ (d.length ≤ maxPayload) ∧ (s.reqWaits (.write fn.val b2 a d be ep) (s.reqQsn (.write fn.val b2 a d be ep)) = false) ∧ (s.barStatus fn.val b2 a d.length = cplOk) ∧ (b2 = true) ∧ (fn ≠ 0)) :=
  ⟨⟨rimOn.hset Reg.HUB_HOST_PHY_STATUS.STATE hpL1, 1, false, 0, 4, by decide +kernel⟩,
   ⟨linked, 0, 4, by decide +kernel⟩,
   ⟨linked, 1, true, 256, 4, by decide +kernel⟩,
   ⟨linked, 1, false, 0, 15, by decide +kernel⟩,
   ⟨linkedBusy, 1, false, 0x2000000, 4, by decide +kernel⟩,
   ⟨State.reset, 0, true, 0, 5000, by decide +kernel⟩,
   ⟨recovering, 0, true, 0, 4, by decide +kernel⟩,
   ⟨rimOn.hset Reg.HUB_HOST_PHY_STATUS.STATE hpL1, 1, false, 0, 15, [1, 2, 3, 4], false, by decide +kernel⟩,
   ⟨linked, 0, 1, [1], false, by decide +kernel⟩,
   ⟨linked, 1, true, 120, 0xFFFF, List.replicate 16 7, false, by decide +kernel⟩⟩

theorem wit_HostAccessesComplete_10_to_19 :
    (∃ (s : State) (fn : Fin 5) (b2 : Bool) (a be : Nat) (d : List Byte) (ep : Bool), (s.hostLink = hpL0) ∧ (s.hub.host.held = []) ∧ (s.hub.host.wait = []) ∧ (d.length ≤ maxPayload) ∧ (s.reqWaits (.write fn.val b2 a d be ep) (s.reqQsn (.write fn.val b2 a d be ep)) = false) ∧ (s.barStatus fn.val b2 a d.length = cplOk) ∧ (b2 = false) ∧ (be % 2 ^ d.length = 2 ^ d.length - 1) ∧ (ep = false)) ∧
    (∃ (s : State) (fn : Fin 5) (b2 : Bool) (a be : Nat) (d : List Byte) (ep : Bool), (s.hostLink = hpL0) ∧ (s.hub.host.held = []) ∧ (s.hub.host.wait = []) ∧ (d.length ≤ maxPayload) ∧ (s.reqWaits (.write fn.val b2 a d be ep) (s.reqQsn (.write fn.val b2 a d be ep)) = false) ∧ (s.barStatus fn.val b2 a d.length = cplOk) ∧ (b2 = false) ∧ (be % 2 ^ d.length = 2 ^ d.length - 1) ∧ (ep = true)) ∧
    (∃ (s : State) (fn : Fin 5) (b2 : Bool) (a be : Nat) (d : List Byte) (ep : Bool), (s.hostLink = hpL0) ∧ (s.hub.host.held = []) ∧ (s.hub.host.wait = []) ∧ (d.length ≤ maxPayload) ∧ (s.reqWaits (.write fn.val b2 a d be ep) (s.reqQsn (.write fn.val b2 a d be ep)) = false) ∧ (s.barStatus fn.val b2 a d.length = cplOk) ∧ (b2 = false) ∧ (be % 2 ^ d.length ≠ 2 ^ d.length - 1)) ∧
    (∃ (s : State) (fn : Fin 5) (b2 : Bool) (a be : Nat) (d : List Byte) (ep : Bool), (s.hostLink = hpL0) ∧ (s.hub.host.held = []) ∧ (s.hub.host.wait = []) ∧ (d.length ≤ maxPayload) ∧ (s.reqWaits (.write fn.val b2 a d be ep) (s.reqQsn (.write fn.val b2 a d be ep)) = false) ∧ (s.barStatus fn.val b2 a d.length ≠ cplOk)) ∧
    (∃ (s : State) (fn : Fin 5) (b2 : Bool) (a be : Nat) (d : List Byte) (ep : Bool), (s.hostLink = hpL0) ∧ (s.hub.host.held = []) ∧ (s.hub.host.wait = []) ∧ (d.length ≤ maxPayload) ∧ (s.reqWaits (.write fn.val b2 a d be ep) (s.reqQsn (.write fn.val b2 a d be ep)) = true)) ∧
    (∃ (s : State) (fn : Fin 5) (b2 : Bool) (a be : Nat) (d : List Byte) (ep : Bool), ((s.hostUp = false ∧ s.hostLink ≠ hpRecovery) ∨ maxPayload < d.length)) ∧
    (∃ (s : State) (fn : Fin 5) (b2 : Bool) (a be : Nat) (d : List Byte) (ep : Bool), (s.hostLink = hpRecovery) ∧ (d.length ≤ maxPayload)) ∧
    (∃ (s : State) (fn : Fin 5) (a n v : Nat), (s.hostUp = true) ∧ (accessOk a n = true)) ∧
    (∃ (s : State) (fn : Fin 5) (a n v : Nat), (s.hostLink = hpL0) ∧ (s.hub.host.held = []) ∧ (s.hub.host.wait = []) ∧ (accessOk a n = true) ∧ (s.reqWaits (.write fn.val false a (leBytes n v) (2 ^ n - 1) false) (s.reqQsn (.write fn.val false a (leBytes n v) (2 ^ n - 1) false)) = false) ∧ (s.barStatus fn.val false a n = cplOk)) ∧
    (∃ (s : State) (fn : Fin 5) (sp : Space) (a n v : Nat), (sp ≠ fnSpace fn.val ∨ (s.hostUp = false ∧ s.hostLink ≠ hpRecovery))) :=
  ⟨⟨linked, 1, false, 0x28, 15, [1, 0, 0, 0], false, by decide +kernel⟩,
   ⟨linked, 1, false, 0x28, 15, [1, 0, 0, 0], true, by decide +kernel⟩,
   ⟨linked, 1, false, 0x28, 7, [1, 0, 0, 0], false, by decide +kernel⟩,
   ⟨linked, 1, false, 0x29, 15, [1, 0, 0, 0], false, by decide +kernel⟩,
   ⟨linkedBusy, 1, false, 0x2000000, 15, [1, 0, 0, 0], false, by decide +kernel⟩,
   ⟨State.reset, 0, true, 0, 0, [], false, by decide +kernel⟩,
   ⟨recovering, 0, true, 0, 15, [1, 2, 3, 4], false, by decide +kernel⟩,
   ⟨linked, 1, 0x28, 4, 5, by decide +kernel⟩,
   ⟨linked, 1, 0x28, 4, 5, by decide +kernel⟩,
   ⟨linked, 1, .hub, 0, 4, 0, by decide +kernel⟩⟩

theorem wit_HostAccessesComplete_20_to_27 :
    (∃ (s : State) (fn : Fin 5) (a n v : Nat), (s.hostLink = hpRecovery) ∧ (accessOk a n = true)) ∧
    (∃ (s : State) (sp : Space) (a n v : Nat), (accessOk a n = true)) ∧
    (∃ (s : State) (sp : Space) (a n v : Nat), (s.hub.host.wait = []) ∧ (accessOk a n = true) ∧ (s.reqWaits (.reg sp a n (v % 2 ^ (8 * n))) (s.reqQsn (.reg sp a n (v % 2 ^ (8 * n)))) = false)) ∧
    (∃ (s : State) (sp : Space) (a n v : Nat), (s.hub.host.wait = []) ∧ (accessOk a n = true) ∧ (s.reqWaits (.reg sp a n (v % 2 ^ (8 * n))) (s.reqQsn (.reg sp a n (v % 2 ^ (8 * n)))) = true)) ∧
    (∃ (s : State) (f : FieldId) (p : PlotId) (sp : Space) (a v : Nat), (accessOk a 4 = true)) ∧
    (∃ (s : State) (f : FieldId) (p : PlotId) (sp : Space) (a n v : Nat), (n ≠ 4)) ∧
    (∃ (s : State) (ag : Agent) (sp : Space) (a n v : Nat), (accessOk a n = false)) ∧
    (∃ (s : State) (sp : Space) (a n v : Nat), (accessOk a n = true)) :=
  ⟨⟨recovering, 0, 0, 4, 5, by decide +kernel⟩,
   ⟨linked, .hub, 0, 4, 0, by decide +kernel⟩,
   ⟨linked, .field 0, 0x28, 4, 5, by decide +kernel⟩,
   ⟨linkedBusy, .field 0, 0x2000000, 4, 5, by decide +kernel⟩,
   ⟨linked, 0, 0, .field 0, 0, 0, by decide +kernel⟩,
   ⟨linked, 0, 0, .field 0, 0, 8, 0, by decide +kernel⟩,
   ⟨State.reset, .yarzin, .hub, 1, 4, 0, by decide +kernel⟩,
   ⟨State.reset, .hub, 0x180, 4, 5, by decide +kernel⟩⟩

/-! ### HostFunctionCommandsComplete: states and operands that meet the hypotheses of each clause, in the clauses' order. -/

theorem wit_HostFunctionCommandsComplete_1_to_11 :
    (∃ (s : State) (fn : Fin 5), (fn ≠ 0)) ∧
    (∃ (s : State), (s.hostLink = hpRecovery) ∧ (s.hreg Reg.HUB_HOST_PHY_STATUS.PAUSE ≠ 1) ∧ (s.hostLanes < 4)) ∧
    (∃ (s : State), (s.hostLink = hpRecovery) ∧ (s.hreg Reg.HUB_HOST_PHY_STATUS.PAUSE ≠ 1) ∧ (4 ≤ s.hostLanes)) ∧
    (∃ (s : State), (s.hostLink = hpRecovery) ∧ (s.hreg Reg.HUB_HOST_PHY_STATUS.PAUSE ≠ 1) ∧ (4 ≤ s.hostLanes) ∧ (s.hreg Reg.HUB_HOST_PHY_CTL.RETRAIN ≠ 1)) ∧
    (∃ (s : State), (s.hostLink ≠ hpRecovery ∨ s.hreg Reg.HUB_HOST_PHY_STATUS.PAUSE = 1)) ∧
    (∃ (s : State), (s.hostLink ≠ hpL0) ∧ (s.hostLink ≠ hpL1)) ∧
    (∃ (s : State), (s.hostLink = hpL0 ∨ s.hostLink = hpL1)) ∧
    (∃ (s : State) (fn : Fin 5) (c : Fin 12), (bit (SMap.get s.hub.msixDue 0 fn) c = true) ∧ (msixLets (s.msixOf fn) c = true) ∧ (s.hostUp = true) ∧ (s.fnReaches fn = true)) ∧
    (∃ (s : State) (fn : Fin 5) (c : Fin 12) (g : MsixConfig), (bit (SMap.get s.hub.msixDue 0 fn) c = true) ∧ (msixLets g c = true) ∧ (s.hostLink = hpL0) ∧ (s.fnReaches fn = true)) ∧
    (∃ (s : State) (fn : Fin 5) (c : Fin 12), (bit (SMap.get s.hub.msixDue 0 fn) c = false ∨ msixLets (s.msixOf fn) c = false ∨ s.hostUp = false ∨ s.fnReaches fn = false)) :=
  ⟨⟨linked, 1, by decide +kernel⟩,
   ⟨recovering.setHostTx { State.reset.hub.hostTx with out := 0x3F }, by decide +kernel⟩,
   ⟨recovering, by decide +kernel⟩,
   ⟨recovering, by decide +kernel⟩,
   ⟨State.reset, by decide +kernel⟩,
   ⟨State.reset, by decide +kernel⟩,
   ⟨linked, by decide +kernel⟩,
   ⟨msixOpen, 0, 0, by decide +kernel⟩,
   ⟨msixDue, 0, 0, ⟨true, false, 0⟩, by decide +kernel⟩,
   ⟨msixDue, 0, 0, by decide +kernel⟩⟩

theorem wit_HostFunctionCommandsComplete_12_to_18 :
    (∃ (s : State) (fn : Fin 5) (c : Fin 12) (g : MsixConfig), (bit (SMap.get s.hub.msixDue 0 fn) c = false ∨ msixLets g c = false ∨ s.hostUp = false ∨ s.fnReaches fn = false)) ∧
    (∃ (s : State) (e : Bool) (z b : Nat), (s.hreg Reg.HUB_EVT_RING.SIZE_LOG ≠ max 6 (min 15 (z % 16)) ∨ s.hreg Reg.HUB_EVT_RING.BASE ≠ b % 2 ^ 36)) ∧
    (∃ (s : State) (e : Bool) (z b : Nat), (s.hreg Reg.HUB_EVT_RING.SIZE_LOG = max 6 (min 15 (z % 16))) ∧ (s.hreg Reg.HUB_EVT_RING.BASE = b % 2 ^ 36)) ∧
    (∃ (s : State) (f : FieldId) (e : Bool) (z b : Nat), (s.freg f Reg.FLD_EVT_RING.SIZE_LOG ≠ max 6 (min 15 (z % 16)) ∨ s.freg f Reg.FLD_EVT_RING.BASE ≠ b % 2 ^ 36)) ∧
    (∃ (s : State) (f : FieldId) (e : Bool) (z b : Nat), (s.freg f Reg.FLD_EVT_RING.SIZE_LOG = max 6 (min 15 (z % 16))) ∧ (s.freg f Reg.FLD_EVT_RING.BASE = b % 2 ^ 36)) :=
  ⟨⟨msixDue, 0, 0, ⟨true, false, 1⟩, by decide +kernel⟩,
   ⟨State.reset, true, 0, 1, by decide +kernel⟩,
   ⟨State.reset, true, 6, 0, by decide +kernel⟩,
   ⟨State.reset, 0, true, 0, 1, by decide +kernel⟩,
   ⟨State.reset, 0, true, 6, 0, by decide +kernel⟩⟩

/-! ### ManagementCommandsComplete: states and operands that meet the hypotheses of each clause, in the clauses' order. -/

theorem wit_ManagementCommandsComplete_0_to_9 :
    (∃ (s : State) (n o w : Nat), (s.hreg Reg.HUB_MGMT_STATUS.BUSY = 1)) ∧
    (∃ (s : State) (n o w : Nat), (s.hreg Reg.HUB_MGMT_STATUS.BUSY ≠ 1) ∧ ((s.hreg Reg.HUB_MGMT_CTL.ENABLE = 0 ∨ w % 2 ^ 5 = 0 ∨ 16 < w % 2 ^ 5 ∨ o % 2 ^ 28 % 8 ≠ 0))) ∧
    (∃ (s : State) (n o w : Nat) (g : FieldId), (s.hreg Reg.HUB_MGMT_STATUS.BUSY ≠ 1) ∧ (¬(s.hreg Reg.HUB_MGMT_CTL.ENABLE = 0 ∨ w % 2 ^ 5 = 0 ∨ 16 < w % 2 ^ 5 ∨ o % 2 ^ 28 % 8 ≠ 0)) ∧ (s.lowRim = some g)) ∧
    (∃ (s : State) (n o w : Nat), (s.hreg Reg.HUB_MGMT_STATUS.BUSY ≠ 1) ∧ (¬(s.hreg Reg.HUB_MGMT_CTL.ENABLE = 0 ∨ w % 2 ^ 5 = 0 ∨ 16 < w % 2 ^ 5 ∨ o % 2 ^ 28 % 8 ≠ 0))) ∧
    (∃ (s : State) (f : FieldId) (m : MgmtWait) (l : List MgmtWait), (s.rimUp f = true) ∧ ((s.field f).mgmtq = m :: l) ∧ (m.words.any (fun w => s.readWaits f w.1 w.2) = false)) ∧
    (∃ (s : State) (f : FieldId) (m : MgmtWait) (l : List MgmtWait) (w : Nat × Nat), (s.rimUp f = true) ∧ ((s.field f).mgmtq = m :: l) ∧ (m.words.find? (fun w => s.readWaits f w.1 w.2) = some w)) ∧
    (∃ (s : State) (f : FieldId), (s.rimUp f = false ∨ (s.field f).mgmtq = [])) ∧
    (∃ (s : State) (f : FieldId) (p : Packet), (s.rimUp f = true) ∧ (s.mgmtOk f kMgmtRead p = true) ∧ ((s.field f).mgmtq.length < mgmtQueue)) ∧
    (∃ (s : State) (f : FieldId) (p : Packet), (s.rimUp f = true) ∧ (s.mgmtOk f kMgmtRead p = true) ∧ (mgmtQueue ≤ (s.field f).mgmtq.length)) ∧
    (∃ (s : State) (f : FieldId) (p : Packet), (s.rimUp f = false ∨ s.mgmtOk f kMgmtRead p = false)) :=
  ⟨⟨rimOn.hset Reg.HUB_MGMT_STATUS.BUSY 1, 0, 0, 1, by decide +kernel⟩,
   ⟨rimOn, 0, 0, 0, by decide +kernel⟩,
   ⟨rimOn.hset Reg.HUB_MGMT_CTL.ENABLE 1, 4, 8, 1, 0, by decide +kernel⟩,
   ⟨rimOn.hset Reg.HUB_MGMT_CTL.ENABLE 1, 4, 8, 16, by decide +kernel⟩,
   ⟨rimOn.updField 0 (fun F => { F with mgmtq := [rimOn.mgmtArrive 0 (pktOf 0 64)] }), 0, rimOn.mgmtArrive 0 (pktOf 0 64), [], by decide +kernel⟩,
   ⟨linkedBusy.updField 0 (fun F => { F with mgmtq := [⟨mgmtOf kMgmtRead, [(0x2000000, 1)]⟩] }), 0, ⟨mgmtOf kMgmtRead, [(0x2000000, 1)]⟩, [], (0x2000000, 1), by decide +kernel⟩,
   ⟨rimOn, 0, by decide +kernel⟩,
   ⟨rimOn, 0, mgmtOf kMgmtRead, by decide +kernel⟩,
   ⟨rimOn.updField 0 (fun F => { F with mgmtq := List.replicate 16 ⟨mgmtOf kMgmtRead, []⟩ }), 0, mgmtOf kMgmtRead, by decide +kernel⟩,
   ⟨rimOn, 0, pktOf 0 0, by decide +kernel⟩⟩

theorem wit_ManagementCommandsComplete_10_to_19 :
    (∃ (s : State) (p : Packet) (w : Nat), (s.hub.host.mgmt = some (p.src, w)) ∧ (allFields.any (fun (f : FieldId) => s.mgmtOk f kMgmtReply p) = true) ∧ (pktField p 17 1 = w)) ∧
    (∃ (s : State) (p : Packet), (allFields.any (fun (f : FieldId) => s.mgmtOk f kMgmtReply p) = false ∨ s.hub.host.mgmt ≠ some (p.src, pktField p 17 1))) ∧
    (∃ (s : State), (s.hub.host.mgmt.isSome = true)) ∧
    (∃ (s : State), (s.hub.host.mgmt = none)) ∧
    (∃ (s : State) (f : FieldId) (r : List Byte) (l : List (List Byte)), (s.svc f ≠ svcDark) ∧ ((s.field f).fwdQueue = r :: l) ∧ ((s.updField f (fun F => { F with fwdQueue := l })).routable f ((s.updField f (fun F => { F with fwdQueue := l })).newPacket f ((s.updField f (fun F => { F with fwdQueue := l })).freg f Reg.FLD_EVT_FWD.COLLECTOR) 0 0 (mgmtBody kMgmtRecord 4 0 r)) = true)) ∧
    (∃ (s : State) (f : FieldId) (r : List Byte) (l : List (List Byte)), (s.svc f ≠ svcDark) ∧ ((s.field f).fwdQueue = r :: l) ∧ ((s.updField f (fun F => { F with fwdQueue := l })).routable f ((s.updField f (fun F => { F with fwdQueue := l })).newPacket f ((s.updField f (fun F => { F with fwdQueue := l })).freg f Reg.FLD_EVT_FWD.COLLECTOR) 0 0 (mgmtBody kMgmtRecord 4 0 r)) = false)) ∧
    (∃ (s : State) (f : FieldId) (r : List Byte) (l : List (List Byte)), (s.svc f ≠ svcDark) ∧ ((s.field f).fwdQueue = r :: l)) ∧
    (∃ (s : State) (f : FieldId), (s.svc f = svcDark ∨ (s.field f).fwdQueue = [])) ∧
    (∃ (s : State) (f : FieldId) (p : Packet), (s.rimUp f = true) ∧ (s.mgmtOk f kMgmtRecord p = true)) ∧
    (∃ (s : State) (f : FieldId) (p : Packet), (s.rimUp f = false ∨ s.mgmtOk f kMgmtRecord p = false)) :=
  ⟨⟨rimOn.updHost (fun U => { U with mgmt := some (1, 0) }), mgmtOf kMgmtReply, 0, by decide +kernel⟩,
   ⟨rimOn, pktOf 0 0, by decide +kernel⟩,
   ⟨rimOn.updHost (fun U => { U with mgmt := some (1, 1) }), by decide +kernel⟩,
   ⟨rimOn, by decide +kernel⟩,
   ⟨(forwarding (routed (mgmtPkt 0))).fset 0 Reg.FLD_EVT_FWD.COLLECTOR (State.reset.node 0 + 4), 0, [1, 2], [], by decide +kernel⟩,
   ⟨(forwarding rimOn).fset 0 Reg.FLD_EVT_FWD.COLLECTOR 0x3FFF, 0, [1, 2], [], by decide +kernel⟩,
   ⟨forwarding rimOn, 0, [1, 2], [], by decide +kernel⟩,
   ⟨rimOn, 0, by decide +kernel⟩,
   ⟨rimOn, 0, mgmtOf kMgmtRecord, by decide +kernel⟩,
   ⟨rimOn, 0, pktOf 0 0, by decide +kernel⟩⟩

/-! ### PowerCommandsComplete: states and operands that meet the hypotheses of each clause, in the clauses' order. -/

theorem wit_PowerCommandsComplete_1_to_7 :
    (∃ (s : State) (m : Fin 4) (a : Bool) (l : Nat), (s.hub.pwr.crit = 0)) ∧
    (∃ (s : State) (m : Fin 4) (l : Nat), (s.hub.pwr.crit = 0) ∧ (s.lowRim.isSome = true)) ∧
    (∃ (s : State) (m : Fin 4) (l : Nat), (s.hub.pwr.crit = 0) ∧ (s.inHold = false) ∧ (s.hreg Reg.PWR_MODE_STATUS.CHANGING = 0)) ∧
    (∃ (s : State) (m : Fin 4) (l : Nat), (s.hub.pwr.crit = 0) ∧ (s.inHold = false) ∧ (s.hreg Reg.PWR_MODE_STATUS.CHANGING = 0)) ∧
    (∃ (s : State), (s.hreg Reg.PWR_MODE_STATUS.PENDING = 1) ∧ (s.hub.pwr.markDue = false ∨ s.lowRim = none) ∧ (s.inHold = false) ∧ (s.hreg Reg.PWR_MODE_STATUS.CHANGING = 0)) ∧
    (∃ (s : State), (s.hreg Reg.PWR_MODE_STATUS.PENDING = 1) ∧ (s.hub.pwr.markDue = false ∨ s.lowRim = none) ∧ (s.inHold = false) ∧ (s.hreg Reg.PWR_MODE_STATUS.CHANGING = 0)) ∧
    (∃ (s : State), (s.hreg Reg.PWR_MODE_STATUS.PENDING ≠ 1 ∨ s.hub.pwr.markDue = true ∧ s.lowRim ≠ none ∨ s.inHold = true ∨ s.hreg Reg.PWR_MODE_STATUS.CHANGING ≠ 0)) ∧
    (∃ (s : State), (s.hreg Reg.PWR_MODE_STATUS.PENDING ≠ 1 ∨ s.hub.pwr.markDue = true ∧ s.lowRim ≠ none ∨ s.inHold = true ∨ s.hreg Reg.PWR_MODE_STATUS.CHANGING ≠ 0)) ∧
    (∃ (s : State), (s.hreg Reg.PWR_MODE_STATUS.CHANGING ≠ 0)) ∧
    (∃ (s : State), (s.hreg Reg.PWR_MODE_STATUS.CHANGING ≠ 0) ∧ (s.hreg Reg.PWR_MODE_STATUS.PENDING ≠ 1)) :=
  ⟨⟨State.reset, 3, false, 0, by decide +kernel⟩,
   ⟨rimOn, 2, 1000, by decide +kernel⟩,
   ⟨rimOn, 2, 1000, by decide +kernel⟩,
   ⟨rimOn, 0, 1000, by decide +kernel⟩,
   ⟨rimOn.hset Reg.PWR_MODE_STATUS.PENDING 1, by decide +kernel⟩,
   ⟨(State.reset.hset Reg.PWR_MODE_STATUS.PENDING 1).updPwr (fun P => { P with markDue := true }), by decide +kernel⟩,
   ⟨rimOn, by decide +kernel⟩,
   ⟨(rimOn.hset Reg.PWR_MODE_STATUS.PENDING 1).updPwr (fun P => { P with markDue := true }), by decide +kernel⟩,
   ⟨changing.hset Reg.PWR_MODE_STATUS.PENDING 1, by decide +kernel⟩,
   ⟨changing, by decide +kernel⟩⟩

theorem wit_PowerCommandsComplete_8_to_17 :
    (∃ (s : State), (s.hreg Reg.PWR_MODE_STATUS.CHANGING = 0)) ∧
    (∃ (s : State) (p b : Nat) (w : Bool), (s.govOn = true)) ∧
    (∃ (s : State) (p b : Nat) (w : Bool), (s.govOn = false)) ∧
    (∃ (s : State), (s.hub.pwr.releaseAt ≠ 0) ∧ (s.hub.pwr.releaseAt ≤ s.now + 1)) ∧
    (∃ (s : State), (s.hub.pwr.releaseAt = 0 ∨ s.now + 1 < s.hub.pwr.releaseAt)) ∧
    (∃ (s : State), (s.hub.pwr.releaseAt = 0 ∨ s.now + 1 < s.hub.pwr.releaseAt)) ∧
    (∃ (s : State) (f : FieldId) (p : Nat) (l : List (Nat × Bool)), (s.svc f ≠ svcDark) ∧ ((s.thm f).tokens = (p, true) :: l)) ∧
    (∃ (s : State) (f : FieldId) (p : Nat) (l : List (Nat × Bool)), (s.svc f ≠ svcDark) ∧ ((s.thm f).tokens = (p, false) :: l)) ∧
    (∃ (s : State) (f : FieldId), (s.svc f = svcDark ∨ (s.thm f).tokens = [])) ∧
    (∃ (s : State), (s.hub.pwr.warn = false)) :=
  ⟨⟨State.reset, by decide +kernel⟩,
   ⟨rimOn.hset Reg.PWR_GOV_CTL.GOV_EN 1, 2900, 10, true, by decide +kernel⟩,
   ⟨rimOn.hset Reg.PWR_GOV_CTL.GOV_EN 0, 2900, 10, false, by decide +kernel⟩,
   ⟨rimOn.updPwr (fun P => { P with releaseAt := 1 }), by decide +kernel⟩,
   ⟨rimOn, by decide +kernel⟩,
   ⟨rimOn.updPwr (fun P => { P with releaseAt := 10 ^ 12 }), by decide +kernel⟩,
   ⟨tokensAsked [(0, true), (1, false)], 0, 0, [(1, false)], by decide +kernel⟩,
   ⟨tokensAsked [(1, false)], 0, 1, [], by decide +kernel⟩,
   ⟨rimOn, 0, by decide +kernel⟩,
   ⟨rimOn, by decide +kernel⟩⟩

theorem wit_PowerCommandsComplete_18_to_27 :
    (∃ (s : State), (s.hub.pwr.warn = true)) ∧
    (∃ (s : State), (s.inHold = true) ∧ (s.hub.pwr.holdOff = true)) ∧
    (∃ (s : State), (s.inHold = true) ∧ (s.hub.pwr.holdOff = true)) ∧
    (∃ (s : State), (s.inHold = false ∨ s.hub.pwr.holdOff = false)) ∧
    (∃ (s : State) (f : FieldId), (s.railUp f = true)) ∧
    (∃ (s : State) (f : FieldId), (s.railUp f = false)) ∧
    (∃ (s : State), (s.railUp railOpt = true)) ∧
    (∃ (s : State), (s.railUp railOpt = false)) ∧
    (∃ (s : State), (s.hreg Reg.PWR_RAIL_STATUS.PWREN_OPT = 1) ∧ (s.railUp railOpt = false)) ∧
    (∃ (s : State), (s.hreg Reg.PWR_RAIL_STATUS.PWREN_OPT ≠ 1 ∨ s.railUp railOpt = true)) :=
  ⟨⟨rimOn.updPwr (fun P => { P with warnInj := true }), by decide +kernel⟩,
   ⟨holdOver, by decide +kernel⟩,
   ⟨holdOver, by decide +kernel⟩,
   ⟨rimOn, by decide +kernel⟩,
   ⟨(rimOn.hset Reg.PWR_RAIL_STATUS.PGOOD 15).updPwr (fun P => { P with rails := 15 }), 0, by decide +kernel⟩,
   ⟨rimOn, 0, by decide +kernel⟩,
   ⟨(rimOn.hset Reg.PWR_RAIL_STATUS.PGOOD_OPT 1).updPwr (fun P => { P with rails := 16 }), by decide +kernel⟩,
   ⟨State.reset, by decide +kernel⟩,
   ⟨rimOn.hset Reg.PWR_RAIL_STATUS.PWREN_OPT 1, by decide +kernel⟩,
   ⟨State.reset, by decide +kernel⟩⟩

theorem wit_PowerCommandsComplete_28_to_36 :
    (∃ (s : State) (f : FieldId) (l : List (Option Int)), (s.rimUp f = true)) ∧
    (∃ (s : State) (f : FieldId) (l : List (Option Int)), (s.rimUp f = false)) ∧
    (∃ (s : State) (n : Fin 12), (bit s.hub.pwr.crit n = true) ∧ (bit (s.hreg Reg.THM_PIN_STATUS.BROKEN) n = false) ∧ (toSigned 16 (s.hreg Reg.THM_PIN_TEMP.TEMP 0 n) < toSigned 8 (s.hreg Reg.THM_PIN_CFG.WARN n) * 16) ∧ (setBit s.hub.pwr.crit n false ≠ 0)) ∧
    (∃ (s : State) (n : Fin 12), (bit s.hub.pwr.crit n = true) ∧ (bit (s.hreg Reg.THM_PIN_STATUS.BROKEN) n = false) ∧ (toSigned 16 (s.hreg Reg.THM_PIN_TEMP.TEMP 0 n) < toSigned 8 (s.hreg Reg.THM_PIN_CFG.WARN n) * 16) ∧ (setBit s.hub.pwr.crit n false = 0)) ∧
    (∃ (s : State) (n : Fin 12), (bit s.hub.pwr.crit n = false ∨ bit (s.hreg Reg.THM_PIN_STATUS.BROKEN) n = true ∨ toSigned 8 (s.hreg Reg.THM_PIN_CFG.WARN n) * 16 ≤ toSigned 16 (s.hreg Reg.THM_PIN_TEMP.TEMP 0 n))) ∧
    (∃ (s : State) (f : FieldId) (i : Nat) (x : Int), (s.svc f ≠ svcDark) ∧ (s.freg f Reg.THM_FIELD_STATUS.DROPS ≠ 0) ∧ ((s.thm f).tmax = some (i, x)) ∧ (x < 360) ∧ ((∀ y ∈ (s.thm f).rmax, y.2 < 20))) ∧
    (∃ (s : State) (f : FieldId), (s.svc f = svcDark ∨ s.freg f Reg.THM_FIELD_STATUS.DROPS = 0 ∨ (∀ y ∈ (s.thm f).tmax, 360 ≤ y.2) ∨ (∃ y ∈ (s.thm f).rmax, 20 ≤ y.2))) ∧
    (∃ (s : State) (f : FieldId), (s.svc f = svcDark ∨ s.freg f Reg.THM_FIELD_STATUS.DROPS = 0 ∨ (∀ y ∈ (s.thm f).tmax, 360 ≤ y.2) ∨ (∃ y ∈ (s.thm f).rmax, 20 ≤ y.2))) ∧
    (∃ (s : State) (f : FieldId), (s.svc f = svcDark ∨ s.freg f Reg.THM_FIELD_STATUS.DROPS = 0 ∨ (∀ y ∈ (s.thm f).tmax, 360 ≤ y.2) ∨ (∃ y ∈ (s.thm f).rmax, 20 ≤ y.2))) :=
  ⟨⟨rimOn, 0, [some 100], by decide +kernel⟩,
   ⟨State.reset, 0, [], by decide +kernel⟩,
   ⟨critHeld 3, 0, by decide +kernel⟩,
   ⟨critHeld 1, 0, by decide +kernel⟩,
   ⟨State.reset, 0, by decide +kernel⟩,
   ⟨dropped 200, 0, 0, 200, by decide +kernel⟩,
   ⟨rimOn, 0, by decide +kernel⟩,
   ⟨dropped 370, 0, by decide +kernel⟩,
   ⟨rimOn.fset 0 Reg.THM_FIELD_STATUS.DROPS 1, 0, by decide +kernel⟩⟩

/-! ### InjectionCommandsComplete: states and operands that meet the hypotheses of each clause, in the clauses' order. -/

theorem wit_InjectionCommandsComplete_0_to_9 :
    (∃ (s : State) (f : FieldId) (t : Fin 256) (a : Nat), (∃ x ∈ ([(.injStackLost f t a, 0, 3), (.injFecSymbols f t a, 1, 1), (.injLaneFail f t a, 1, 3), (.injRingUnlock f t a, 1, 4),
      (.injRetrain f t a, 1, 7), (.injNoAck f t a, 1, 8), (.injBeatStop f t a, 5, 2), (.injBeaconMute f t a, 5, 3),
      (.injSensorOffset f t a, 6, 1), (.injSensorRamp f t a, 6, 2), (.injSensorBroken f t a, 6, 3), (.injHbmSymbol f t a, 0, 1),
      (.injHbmDouble f t a, 0, 2), (.injStoreSingle f t a, 0, 4), (.injStoreDouble f t a, 0, 5), (.injFlitCrc f t a, 1, 2),
      (.injRxPower f t a, 1, 5), (.injBeaconId f t a, 1, 6), (.injReqDrop f t a, 2, 1), (.injDefer f t a, 2, 2),
      (.injRedFull f t a, 2, 3), (.injCombRefuse f t a, 2, 4), (.injDigest f t a, 3, 1), (.injSilent f t a, 3, 2),
      (.injPieceDrop f t a, 3, 3), (.injDoneDigest f t a, 4, 1), (.injPushStall f t a, 4, 2), (.injBufFull f t a, 4, 3),
      (.injSkip f t a, 4, 4), (.injOffset f t a, 5, 1)] : List (Instr × Nat × Nat)), (s.injOpenAt f = false ∨ s.freg f Reg.INJ_PT.ARM x.2.1 = 1))) ∧
    (∃ (s : State) (f : FieldId) (t : Fin 256) (a : Nat), (∃ x ∈ ([(.injStackLost f t a, 0, 3), (.injFecSymbols f t a, 1, 1), (.injLaneFail f t a, 1, 3), (.injRingUnlock f t a, 1, 4),
      (.injRetrain f t a, 1, 7), (.injNoAck f t a, 1, 8), (.injBeatStop f t a, 5, 2), (.injBeaconMute f t a, 5, 3),
      (.injSensorOffset f t a, 6, 1), (.injSensorRamp f t a, 6, 2), (.injSensorBroken f t a, 6, 3), (.injHbmSymbol f t a, 0, 1),
      (.injHbmDouble f t a, 0, 2), (.injStoreSingle f t a, 0, 4), (.injStoreDouble f t a, 0, 5), (.injFlitCrc f t a, 1, 2),
      (.injRxPower f t a, 1, 5), (.injBeaconId f t a, 1, 6), (.injReqDrop f t a, 2, 1), (.injDefer f t a, 2, 2),
      (.injRedFull f t a, 2, 3), (.injCombRefuse f t a, 2, 4), (.injDigest f t a, 3, 1), (.injSilent f t a, 3, 2),
      (.injPieceDrop f t a, 3, 3), (.injDoneDigest f t a, 4, 1), (.injPushStall f t a, 4, 2), (.injBufFull f t a, 4, 3),
      (.injSkip f t a, 4, 4), (.injOffset f t a, 5, 1)] : List (Instr × Nat × Nat)), (s.injOpenAt f = true) ∧ (s.freg f Reg.INJ_PT.ARM x.2.1 ≠ 1) ∧ (State.injValid (((s.fset f Reg.INJ_PT.POINT x.2.2 x.2.1).fset f Reg.INJ_PT.TARGET t x.2.1).fset f Reg.INJ_PT.ARG a x.2.1) f x.2.1 x.2.2 t (a % 2 ^ 32) = false))) ∧
    (∃ (s : State) (f : FieldId) (t : Fin 256) (a : Nat), (∃ x ∈ ([(.injStackLost f t a, 0, 3), (.injLaneFail f t a, 1, 3), (.injRingUnlock f t a, 1, 4),
      (.injRetrain f t a, 1, 7), (.injNoAck f t a, 1, 8), (.injBeatStop f t a, 5, 2), (.injBeaconMute f t a, 5, 3),
      (.injSensorOffset f t a, 6, 1), (.injSensorRamp f t a, 6, 2), (.injSensorBroken f t a, 6, 3)] : List (Instr × Nat × Nat)), (s.injOpenAt f = true) ∧ (s.freg f Reg.INJ_PT.ARM x.2.1 ≠ 1) ∧ (State.injValid (((s.fset f Reg.INJ_PT.POINT x.2.2 x.2.1).fset f Reg.INJ_PT.TARGET t x.2.1).fset f Reg.INJ_PT.ARG a x.2.1) f x.2.1 x.2.2 t (a % 2 ^ 32) = true))) ∧
    (∃ (s : State) (f : FieldId) (t : Fin 256) (a : Nat), (∃ x ∈ ([(.injFecSymbols f t a, 1, 1), (.injHbmSymbol f t a, 0, 1), (.injHbmDouble f t a, 0, 2), (.injStoreSingle f t a, 0, 4), (.injStoreDouble f t a, 0, 5),
      (.injFlitCrc f t a, 1, 2), (.injRxPower f t a, 1, 5), (.injBeaconId f t a, 1, 6), (.injReqDrop f t a, 2, 1),
      (.injDefer f t a, 2, 2), (.injRedFull f t a, 2, 3), (.injCombRefuse f t a, 2, 4), (.injDigest f t a, 3, 1),
      (.injSilent f t a, 3, 2), (.injPieceDrop f t a, 3, 3), (.injDoneDigest f t a, 4, 1), (.injPushStall f t a, 4, 2),
      (.injBufFull f t a, 4, 3), (.injSkip f t a, 4, 4), (.injOffset f t a, 5, 1)] : List (Instr × Nat × Nat)), (s.injOpenAt f = true) ∧ (s.freg f Reg.INJ_PT.ARM x.2.1 ≠ 1) ∧ (State.injValid (((s.fset f Reg.INJ_PT.POINT x.2.2 x.2.1).fset f Reg.INJ_PT.TARGET t x.2.1).fset f Reg.INJ_PT.ARG a x.2.1) f x.2.1 x.2.2 t (a % 2 ^ 32) = true))) ∧
    (∃ (s : State) (t : Fin 256) (a : Nat), (∃ x ∈ ([(.injPwrWarn t a, 0, 1), (.injPinBroken t a, 0, 3), (.injHeartbeatStop t a, 0, 4), (.injHostLaneFail t a, 0, 5),
      (.injInletDrop t a, 1, 3), (.injPinReading t a, 0, 2), (.injModuleFault t a, 1, 1), (.injMargin t a, 1, 2)] : List (Instr × Nat × Nat)), (s.injOpen = false ∨ s.hreg Reg.INJ_HPT.ARM x.2.1 = 1))) ∧
    (∃ (s : State) (t : Fin 256) (a : Nat), (∃ x ∈ ([(.injPinBroken t a, 0, 3), (.injHeartbeatStop t a, 0, 4), (.injHostLaneFail t a, 0, 5), (.injInletDrop t a, 1, 3),
      (.injPinReading t a, 0, 2), (.injModuleFault t a, 1, 1), (.injMargin t a, 1, 2)] : List (Instr × Nat × Nat)), (s.injOpen = true) ∧ (s.hreg Reg.INJ_HPT.ARM x.2.1 ≠ 1) ∧ (State.injHubValid (((s.hset Reg.INJ_HPT.POINT x.2.2 x.2.1).hset Reg.INJ_HPT.TARGET t x.2.1).hset Reg.INJ_HPT.ARG a x.2.1) x.2.1 x.2.2 t (a % 2 ^ 32) = false))) ∧
    (∃ (s : State) (t : Fin 256) (a : Nat), (∃ x ∈ ([(.injPwrWarn t a, 0, 1), (.injPinBroken t a, 0, 3), (.injHeartbeatStop t a, 0, 4), (.injHostLaneFail t a, 0, 5),
      (.injInletDrop t a, 1, 3)] : List (Instr × Nat × Nat)), (s.injOpen = true) ∧ (s.hreg Reg.INJ_HPT.ARM x.2.1 ≠ 1) ∧ (State.injHubValid (((s.hset Reg.INJ_HPT.POINT x.2.2 x.2.1).hset Reg.INJ_HPT.TARGET t x.2.1).hset Reg.INJ_HPT.ARG a x.2.1) x.2.1 x.2.2 t (a % 2 ^ 32) = true))) ∧
    (∃ (s : State) (t : Fin 256) (a : Nat), (∃ x ∈ ([(.injPinReading t a, 0, 2), (.injModuleFault t a, 1, 1), (.injMargin t a, 1, 2)] : List (Instr × Nat × Nat)), (s.injOpen = true) ∧ (s.hreg Reg.INJ_HPT.ARM x.2.1 ≠ 1) ∧ (State.injHubValid (((s.hset Reg.INJ_HPT.POINT x.2.2 x.2.1).hset Reg.INJ_HPT.TARGET t x.2.1).hset Reg.INJ_HPT.ARG a x.2.1) x.2.1 x.2.2 t (a % 2 ^ 32) = true))) ∧
    (∃ (s : State) (f : FieldId) (r : Fin 7) (e : Nat × Nat × Nat), (SMap.find (s.field f).fx r = some e)) ∧
    (∃ (s : State) (f : FieldId) (r : Fin 7), (SMap.find (s.field f).fx r = none)) :=
  ⟨⟨State.reset, 0, 0, 0, by decide +kernel⟩,
   ⟨injOpened, 0, 3, 2 ^ 32 + 16, by decide +kernel⟩,
   ⟨injectable, 0, 0, 16, by decide +kernel⟩,
   ⟨injectable, 0, 0, 16, by decide +kernel⟩,
   ⟨State.reset, 0, 0, by decide +kernel⟩,
   ⟨injOpened, 255, 16, by decide +kernel⟩,
   ⟨injectable, 0, 16, by decide +kernel⟩,
   ⟨injectable, 0, 16, by decide +kernel⟩,
   ⟨State.reset.updField 0 (fun F => { F with fx := [(1, (8, 3, 0))] }), 0, 1, (8, 3, 0), by decide +kernel⟩,
   ⟨State.reset, 0, 0, by decide +kernel⟩⟩

theorem wit_InjectionCommandsComplete_10_to_17 :
    (∃ (s : State) (r : Fin 7) (e : Nat × Nat × Nat), (SMap.find s.hub.fx r = some e)) ∧
    (∃ (s : State) (r : Fin 7), (SMap.find s.hub.fx r = none)) ∧
    (∃ (s : State), (s.injOpen = false) ∧ (s.hub.injHold = false) ∧ (s.injConditions = true)) ∧
    (∃ (s : State), (s.injOpen = false) ∧ (s.hub.injHold = false) ∧ (s.injConditions = false)) ∧
    (∃ (s : State), (s.injOpen = true ∨ s.hub.injHold = true)) ∧
    (∃ (s : State), (s.injOpen = true ∨ s.hub.injHold = true)) ∧
    (∃ (s : State) (v : Nat), (s.injOpen = false) ∧ (s.hreg Reg.HUB_INJ_STATUS.PENDING ≠ 0) ∧ (v % 65536 = 0x5EED)) ∧
    (∃ (s : State) (v : Nat), (s.injOpen = false) ∧ (s.hreg Reg.HUB_INJ_STATUS.PENDING = 0 ∨ v % 65536 ≠ 0x5EED)) ∧
    (∃ (s : State) (v : Nat), (s.injOpen = false) ∧ (s.hreg Reg.HUB_INJ_STATUS.PENDING = 0 ∨ v % 65536 ≠ 0x5EED)) ∧
    (∃ (s : State) (v : Nat), (s.injOpen = true)) :=
  ⟨⟨(State.reset.updHub (fun H => { H with fx := [(0, (1, 0, 0))] })).updPwr (fun P => { P with warnInj := true }), 0, (1, 0, 0), by decide +kernel⟩,
   ⟨State.reset, 0, by decide +kernel⟩,
   ⟨(State.reset.hset Reg.HUB_INJ_STATUS.PROVING 1).hset Reg.HUB_INJ_STATUS.FUSE 1, by decide +kernel⟩,
   ⟨State.reset, by decide +kernel⟩,
   ⟨injOpened, by decide +kernel⟩,
   ⟨State.reset.updHub (fun H => { H with injHold := true }), by decide +kernel⟩,
   ⟨State.reset.hset Reg.HUB_INJ_STATUS.PENDING 1, 0x5EED, by decide +kernel⟩,
   ⟨State.reset, 0, by decide +kernel⟩,
   ⟨State.reset.hset Reg.HUB_INJ_STATUS.PENDING 1, 0, by decide +kernel⟩,
   ⟨injOpened, 0, by decide +kernel⟩⟩

/-! ### RemainingCommandsComplete: states and operands that meet the hypotheses of each clause, in the clauses' order. -/

theorem wit_RemainingCommandsComplete_1_to_8 :
    (∃ (s : State), (s.hub.pwr.warn = true) ∧ (s.hub.pwr.warnInj = false)) ∧
    (∃ (s : State), (s.hub.pwr.warn = false ∨ s.hub.pwr.warnInj = true)) ∧
    (∃ (s : State), (s.hub.pwr.warn = false ∨ s.hub.pwr.warnInj = true)) ∧
    (∃ (s : State) (f : FieldId), (s.svc f = svcDark ∨ s.freg f Reg.TLY_STATUS.PARENT_LINK = 0x1F ∨ s.tlyState f = tsRoot)) ∧
    (∃ (s : State) (f : FieldId), (s.svc f = svcDark ∨ s.freg f Reg.TLY_STATUS.PARENT_LINK = 0x1F ∨ s.tlyState f = tsRoot)) ∧
    (∃ (s : State) (f : FieldId), (s.svc f ≠ svcDark) ∧ (s.freg f Reg.TLY_STATUS.PARENT_LINK ≠ 0x1F) ∧ (s.tlyState f ≠ tsRoot)) ∧
    (∃ (s : State) (f : FieldId) (n : PortId), (s.svc f ≠ svcDark)) ∧
    (∃ (s : State) (f : FieldId) (n : PortId), (s.svc f = svcDark)) ∧
    (∃ (s : State), (s.hostLink = hpL0)) ∧
    (∃ (s : State), (s.hostLink ≠ hpL0)) :=
  ⟨⟨rimOn.updPwr (fun P => { P with warnPin := true }), by decide +kernel⟩,
   ⟨rimOn, by decide +kernel⟩,
   ⟨rimOn.updPwr (fun P => { P with warnPin := true, warnInj := true }), by decide +kernel⟩,
   ⟨State.reset, 0, by decide +kernel⟩,
   ⟨rimOn.fset 0 Reg.TLY_STATUS.STATE tsRoot, 0, by decide +kernel⟩,
   ⟨rimOn.fset 0 Reg.TLY_STATUS.PARENT_LINK 1, 0, by decide +kernel⟩,
   ⟨rimOn, 0, 3, by decide +kernel⟩,
   ⟨rimOn.hset Reg.HUB_FIELD_STATE.STATE svcDark 0 0, 0, 3, by decide +kernel⟩,
   ⟨linked, by decide +kernel⟩,
   ⟨rimOn, by decide +kernel⟩⟩

theorem wit_RemainingCommandsComplete_9_to_16 :
    (∃ (s : State), (s.hostLink = hpTraining) ∧ (4 ≤ s.hostLanes)) ∧
    (∃ (s : State), (s.hostLink = hpTraining) ∧ (4 ≤ s.hostLanes) ∧ (s.hreg Reg.HUB_HOST_PHY_CTL.RETRAIN ≠ 1)) ∧
    (∃ (s : State) (ok : Bool), (s.hostLink = hpTraining) ∧ (ok = false ∨ s.hostLanes < 4)) ∧
    (∃ (s : State) (ok : Bool), (s.hostLink = hpTraining) ∧ (ok = false ∨ s.hostLanes < 4)) ∧
    (∃ (s : State) (ok : Bool), (s.hostLink ≠ hpTraining)) ∧
    (∃ (s : State) (f : FieldId), (s.svc f = svcDark ∨ s.freg f Reg.THM_FIELD_STATUS.THROTTLE = 0)) ∧
    (∃ (s : State) (f : FieldId), (s.svc f ≠ svcDark) ∧ (s.freg f Reg.THM_FIELD_STATUS.THROTTLE ≠ 0) ∧ ((s.thm f).broken ≠ 0 ∨ (∀ y ∈ (s.thm f).tmax, 380 ≤ y.2))) ∧
    (∃ (s : State) (f : FieldId), (s.svc f ≠ svcDark) ∧ (s.freg f Reg.THM_FIELD_STATUS.THROTTLE ≠ 0) ∧ ((s.thm f).broken ≠ 0 ∨ (∀ y ∈ (s.thm f).tmax, 380 ≤ y.2))) ∧
    (∃ (s : State) (f : FieldId) (i : Nat) (t : Int), (s.svc f ≠ svcDark) ∧ (s.freg f Reg.THM_FIELD_STATUS.THROTTLE ≠ 0) ∧ ((s.thm f).broken = 0) ∧ ((s.thm f).tmax = some (i, t)) ∧ (t < 372)) ∧
    (∃ (s : State) (f : FieldId) (i : Nat) (t : Int), (s.svc f ≠ svcDark) ∧ (s.freg f Reg.THM_FIELD_STATUS.THROTTLE ≠ 0) ∧ ((s.thm f).broken = 0) ∧ ((s.thm f).tmax = some (i, t)) ∧ (t < 372)) :=
  ⟨⟨(training 8).hset Reg.HUB_HOST_PHY_CTL.RETRAIN 1, by decide +kernel⟩,
   ⟨training 8, by decide +kernel⟩,
   ⟨training 8, false, by decide +kernel⟩,
   ⟨training 3, true, by decide +kernel⟩,
   ⟨rimOn, true, by decide +kernel⟩,
   ⟨rimOn, 0, by decide +kernel⟩,
   ⟨throttling 380, 0, by decide +kernel⟩,
   ⟨rimOn.fset 0 Reg.THM_FIELD_STATUS.THROTTLE 1, 0, by decide +kernel⟩,
   ⟨(throttling 371).fset 0 Reg.THM_FIELD_STATUS.TDUTY 62, 0, 0, 371, by decide +kernel⟩,
   ⟨throttling 371, 0, 0, 371, by decide +kernel⟩⟩

theorem wit_RemainingCommandsComplete_17_to_20 :
    (∃ (s : State) (f : FieldId) (i : Nat) (t : Int), ((s.thm f).broken = 0) ∧ ((s.thm f).tmax = some (i, t)) ∧ (372 ≤ t) ∧ (t < 380)) ∧
    (∃ (s : State) (f : FieldId) (p : PlotId), ((s.plot f p).tine.dormant = false) ∧ ((s.plot f p).tine.stopTok = true)) ∧
    (∃ (s : State) (f : FieldId) (p : PlotId), ((s.plot f p).tine.dormant = false) ∧ ((s.plot f p).tine.stopTok = false)) ∧
    (∃ (s : State) (f : FieldId) (p : PlotId), ((s.plot f p).tine.dormant = true)) :=
  ⟨⟨throttling 372, 0, 0, 372, by decide +kernel⟩,
   ⟨rimOn.updPlot 0 0 (fun P => { P with tine := { P.tine with dormant := false, stopTok := true } }), 0, 0, by decide +kernel⟩,
   ⟨rimOn.updPlot 0 0 (fun P => { P with tine := { P.tine with dormant := false } }), 0, 0, by decide +kernel⟩,
   ⟨rimOn, 0, 0, by decide +kernel⟩⟩

end Sys2Proof.Tests
end

section
/-! The bus with nothing waiting and nothing held (R597, R606, R692): what its shared operations come to. -/

namespace Sys2Proof.Machine

open Sys2Proof

variable {s : State} {src q : Nat} {r : HostReq}

theorem State.serveHost_of_wait_nil (h : s.hub.host.wait = []) : s.serveHost = s := by
  rw [State.serveHost, h, List.foldl_nil]

theorem State.updHost_held_nil (h : s.hub.host.held = []) : s.updHost (fun U => { U with held := [] }) = s := by
  unfold State.updHost State.updHub
  rw [← h]

theorem State.heldServe_of_held_nil (h : s.hub.host.held = []) : s.heldServe = s := by
  unfold State.heldServe
  split
  · rw [h, State.heldLoop, State.updHost_held_nil h]
  · rfl

theorem State.hostUp_of_L0 (h : s.hostLink = hpL0) : s.hostUp = true := by
  simp [State.hostUp, h]

theorem State.hostUp_of_recovery (h : s.hostLink = hpRecovery) : s.hostUp = false := by
  simp [State.hostUp, h, hpL0, hpL1, hpRecovery]

theorem State.hostWake_of_L0 (h : s.hostLink = hpL0) : s.hostWake = s := by
  simp [State.hostWake, h, hpL0, hpL1]

/-- Waking the link leaves the host unit as it was. -/
theorem State.hostWake_host : s.hostWake.hub.host = s.hub.host := by
  have up : ¬ (hpL0 = hpDown ∨ hpL0 = hpDark) := by decide
  unfold State.hostWake State.hostSet
  simp only [up, if_false]
  split
  · split <;> rfl
  · rfl

theorem State.request_of_ready (hw : s.hub.host.wait = []) (hr : s.reqWaits r (s.reqQsn r) = false) :
    s.request src r = s.reqDo r := by
  simp only [State.request, State.serveHost_of_wait_nil hw, hw, hr, List.any_nil, Bool.or_self, Bool.false_eq_true, if_false]

theorem State.request_of_waits (hw : s.hub.host.wait = []) (hr : s.reqWaits r (s.reqQsn r) = true) :
    s.request src r =
      (s.updHost (fun U => { U with wait := U.wait ++ [⟨src, r, s.reqQsn r⟩] })).reqWaited r (s.reqQsn r) := by
  simp only [State.request, State.serveHost_of_wait_nil hw, hr, Bool.or_true, if_true]

/-- A request that goes on waiting counts a cycle of a plot, and leaves the hub, the outputs and the memories alone. -/
theorem State.reqWaited_same (s : State) (r : HostReq) (q : Nat) :
    (s.reqWaited r q).hub = s.hub ∧ (s.reqWaited r q).out = s.out ∧ (s.reqWaited r q).mem = s.mem := by
  unfold State.reqWaited
  split
  · split <;> exact ⟨rfl, rfl, rfl⟩
  · exact ⟨rfl, rfl, rfl⟩

/-- A request held back joins the waiting ones, and no output and no memory changes. -/
theorem State.request_waits_effect (hw : s.hub.host.wait = []) (hr : s.reqWaits r (s.reqQsn r) = true) :
    (s.request src r).hub.host.wait = [⟨src, r, s.reqQsn r⟩] ∧ (s.request src r).out = s.out ∧
      (s.request src r).mem = s.mem := by
  rw [State.request_of_waits hw hr]
  obtain ⟨hhub, hout, hmem⟩ := State.reqWaited_same
    (s.updHost (fun U => { U with wait := U.wait ++ [⟨src, r, s.reqQsn r⟩] })) r (s.reqQsn r)
  refine ⟨?_, hout, hmem⟩
  rw [hhub]
  show s.hub.host.wait ++ _ = _
  rw [hw, List.nil_append]

/-! ### A TLP by the state of the link (R597) -/

theorem State.tlp_of_up (h : s.hostUp = true) : s.tlp src r = finish (s.heldServe.hostWake.request src r) := by
  simp only [State.tlp, h, if_true, State.tlpDo]

theorem State.tlp_of_L0 (hl : s.hostLink = hpL0) (hh : s.hub.host.held = []) :
    s.tlp src r = finish (s.request src r) := by
  rw [State.tlp_of_up (State.hostUp_of_L0 hl), State.heldServe_of_held_nil hh, State.hostWake_of_L0 hl]

theorem State.tlp_of_recovery (h : s.hostLink = hpRecovery) : s.tlp src r = .next (s.hold src r) := by
  simp only [State.tlp, State.hostUp_of_recovery h, Bool.false_eq_true, if_false, h, if_true]

theorem State.tlp_of_off (h : s.hostUp = false) (hr : s.hostLink ≠ hpRecovery) : s.tlp src r = .next s := by
  simp only [State.tlp, h, Bool.false_eq_true, if_false, hr]

theorem State.tlp_of_ready (hl : s.hostLink = hpL0) (hh : s.hub.host.held = []) (hw : s.hub.host.wait = [])
    (hr : s.reqWaits r (s.reqQsn r) = false) : s.tlp src r = finish (s.reqDo r) := by
  rw [State.tlp_of_L0 hl hh, State.request_of_ready hw hr]

/-! ### The sequencer with nothing asked (R552) -/

theorem State.bootSettle_of_req_nil (h : s.hub.seed.req = []) : s.bootSettle = s := by
  simp only [State.bootSettle, bootReqs, State.bootLoop, h]

/-! ### What a request that counts, waits or takes effect can change -/

section Frame

variable {K : List Part} {F : FieldId → Prop} {P : PlotId → Prop} {s0 t : State}

/-- The sequencer is not asked by anything that leaves bring-up alone. -/
theorem Only.settled (hr : s0.hub.seed.req = []) (hc : Part.covered K .seed = false) (hf : Part.covered K (.far .seed) = false)
    (h : Only K F P s0 t) : Only K F P s0 t.bootSettle := by
  have hs : t.hub.seed = s0.hub.seed := (h.same .seed 0 hf (.inl hc)).1
  rw [State.bootSettle_of_req_nil (by rw [hs, hr])]
  exact h

/-- The parts and the plot a request counts BIN_WAIT in are among those named. -/
abbrev BinFits (K : List Part) (F : FieldId → Prop) (P : PlotId → Prop) (r : HostReq) : Prop :=
  ∀ f p t g, r.bin = some (f, p, t, g) → Fits [.plotReg Reg.PLT_TINE_STALL.BIN_WAIT] K ∧ F f ∧ P p

theorem State.reqWaited_frame (hb : BinFits K F P r) (ho : Only K F P s0 s) : Only K F P s0 (s.reqWaited r q) := by
  unfold State.reqWaited
  split
  next f p t g h =>
    obtain ⟨hK, hF, hP⟩ := hb f p t g h
    exact .ite (State.pwrap_only f p _ _ hK hF hP ho) ho
  next => exact ho

theorem State.request_frame (hw : s.hub.host.wait = []) (hK : Fits [.host] K) (hb : BinFits K F P r)
    (hdo : Only K F P s0 (s.reqDo r)) (ho : Only K F P s0 s) : Only K F P s0 (s.request src r) := by
  unfold State.request
  rw [State.serveHost_of_wait_nil hw]
  exact .ite (State.reqWaited_frame hb (State.updHost_only _ _ hK ho)) hdo

/-- What a TLP changes: the link as it wakes or holds the TLP, and what the request itself can. -/
theorem State.tlp_frame (hw : s.hub.host.wait = []) (hh : s.hub.host.held = [])
    (hK : Fits [.events, .hubReg Reg.HUB_HOST_PHY_STATUS.STATE, .hubReg Reg.HUB_HOST_PHY_STATUS.WIDTH, .host] K)
    (hb : BinFits K F P r) (hdo : ∀ u, Only K F P s0 u → Only K F P s0 (u.reqDo r)) (ho : Only K F P s0 s) :
    Ends K F P s0 (s.tlp src r) := by
  have hhost : Fits [.host] K := hK.one_of (by simp)
  have hwake : Only K F P s0 s.hostWake := State.hostWake_only _ hK ho
  unfold State.tlp State.tlpDo
  rw [State.heldServe_of_held_nil hh]
  exact .ite (.finish (State.request_frame (by rw [State.hostWake_host, hw]) hhost hb (hdo _ hwake) hwake))
    (.ite (.next (State.hold_only _ _ _ hhost ho)) (.next ho))

end Frame

end Sys2Proof.Machine
end

section
/-! Every command answers, and so does every step: from the frame of each command (Laws/Touch). -/

namespace Sys2Proof.Machine

open Sys2Proof

variable {K : List Part} {s : State} {r : Result}

/-- From s the result r is a next state, with the queue that s has and with memories in canonical form where those of s are. -/
def Answers (s : State) (r : Result) : Prop :=
  ∃ t, r = .next t ∧ t.pending = s.pending ∧ (s.canonical → t.canonical)

/-- Recording the events of a command keeps the queue and the canonical form, so a command that has a frame answers. -/
theorem answers_of_frame (h : Only K (fun _ => True) (fun _ => True) s s → Ends K (fun _ => True) (fun _ => True) s r) :
    Answers s r := by
  obtain ⟨u, hr, hu⟩ := h (.refl _ _ _ s)
  have hd : Only recordParts (fun _ => True) (fun _ => True) u u.drain :=
    State.drain_only u (Fits.refl _) (fun _ => trivial) (.refl _ _ _ u)
  rcases hr with rfl | rfl
  · exact ⟨u, rfl, hu.pending, hu.canon⟩
  · exact ⟨u.drain, rfl, hd.pending.trans hu.pending, fun w => hd.canon (hu.canon w)⟩

/-- Every command of the operation table answers, from every state. -/
theorem exec_answers (i : Instr) (s : State) : Answers s (exec i s) := by
  cases i with
  | registerWrite a sp off bytes value =>
    exact answers_of_frame (execRegisterWrite_only a sp off bytes value s (Fits.refl _) (fun _ => trivial) (fun _ => trivial))
  | heartbeat => exact answers_of_frame (execHeartbeat_only s (Fits.refl _) (fun _ => trivial))
  | hubLostEntry f => exact answers_of_frame (execHubLostEntry_only f s (Fits.refl _) trivial)
  | d2dModuleLoss k => exact answers_of_frame (execD2dModuleLoss_only k s (Fits.refl _))
  | rimFatalError f => exact answers_of_frame (execRimFatalError_only f s (Fits.refl _) trivial (fun _ => trivial))
  | tinePassStart f p => exact answers_of_frame (execTinePassStart_only f p s (Fits.refl _) trivial trivial)
  | weightLoad f p => exact answers_of_frame (execWeightLoad_only f p s (Fits.refl _) trivial trivial)
  | tinePassRetire f p => exact answers_of_frame (execTinePassRetire_only f p s (Fits.refl _) trivial trivial)
  | degenerateRetire f p => exact answers_of_frame (execDegenerateRetire_only f p s (Fits.refl _) trivial trivial)
  | ballastRow f p t => exact answers_of_frame (execBallastRow_only f p t s (Fits.refl _) trivial trivial)
  | sampleProcess f p => exact answers_of_frame (execSampleProcess_only f p s (Fits.refl _) trivial trivial)
  | injWitnessLane f plot tine column b lane =>
    exact answers_of_frame (execInjWitnessLane_only f plot tine column b lane s (Fits.refl _) trivial)
  | injWitnessWeight f plot tine column b lane =>
    exact answers_of_frame (execInjWitnessWeight_only f plot tine column b lane s (Fits.refl _) trivial)
  | injScarecrowBias f plot tine column b lane =>
    exact answers_of_frame (execInjScarecrowBias_only f plot tine column b lane s (Fits.refl _) trivial)
  | injBinSingle f plot tine column b lane =>
    exact answers_of_frame (execInjBinSingle_only f plot tine column b lane s (Fits.refl _) trivial)
  | injBinDouble f plot tine column b lane =>
    exact answers_of_frame (execInjBinDouble_only f plot tine column b lane s (Fits.refl _) trivial)
  | injClassReport f plot tine column b lane =>
    exact answers_of_frame (execInjClassReport_only f plot tine column b lane s (Fits.refl _) trivial)
  | drillInstruction f p => exact answers_of_frame (execDrillInstruction_only f p s (Fits.refl _) trivial trivial)
  | drillLoad f p k rd rs1 imm compressed =>
    exact answers_of_frame (execDrillLoad_only f p k rd rs1 imm compressed s (Fits.refl _) trivial trivial)
  | drillStore f p k rs2 rs1 imm compressed =>
    exact answers_of_frame (execDrillStore_only f p k rs2 rs1 imm compressed s (Fits.refl _) trivial trivial)
  | ebreak f p compressed => exact answers_of_frame (execEbreak_only f p compressed s (Fits.refl _) trivial trivial)
  | ecall f p => exact answers_of_frame (execEcall_only f p s (Fits.refl _) trivial trivial)
  | mret f p => exact answers_of_frame (execMret_only f p s (Fits.refl _) trivial trivial)
  | wfi f p => exact answers_of_frame (execWfi_only f p s (Fits.refl _) trivial trivial)
  | wfiWake f p => exact answers_of_frame (execWfiWake_only f p s (Fits.refl _) trivial trivial)
  | fence f p => exact answers_of_frame (execFence_only f p s (Fits.refl _) trivial trivial)
  | fenceI f p => exact answers_of_frame (execFenceI_only f p s (Fits.refl _) trivial trivial)
  | drillInterrupt f p => exact answers_of_frame (execDrillInterrupt_only f p s (Fits.refl _) trivial trivial)
  | drillHoldSet f p => exact answers_of_frame (execDrillHoldSet_only f p s (Fits.refl _) trivial trivial)
  | drillHoldClear f p => exact answers_of_frame (execDrillHoldClear_only f p s (Fits.refl _) trivial trivial)
  | haltReq f p => exact answers_of_frame (execHaltReq_only f p s (Fits.refl _) trivial trivial)
  | haltReqHonour f p => exact answers_of_frame (execHaltReqHonour_only f p s (Fits.refl _) trivial trivial)
  | resume f p => exact answers_of_frame (execResume_only f p s (Fits.refl _) trivial trivial)
  | plotStoreScrub f p => exact answers_of_frame (execPlotStoreScrub_only f p s (Fits.refl _) trivial trivial)
  | plotStoreMeshWrite f p addr data poisoned =>
    exact answers_of_frame (execPlotStoreMeshWrite_only f p addr data poisoned s (Fits.refl _) trivial trivial)
  | xferNop f p => exact answers_of_frame (execXferNop_only f p s (Fits.refl _) trivial trivial)
  | xferGet f p => exact answers_of_frame (execXferGet_only f p s (Fits.refl _) trivial trivial)
  | xferPut f p => exact answers_of_frame (execXferPut_only f p s (Fits.refl _) trivial trivial)
  | xferPutPartial f p => exact answers_of_frame (execXferPutPartial_only f p s (Fits.refl _) trivial trivial)
  | xferPutReduce f p => exact answers_of_frame (execXferPutReduce_only f p s (Fits.refl _) trivial trivial)
  | xferMcastPut f p => exact answers_of_frame (execXferMcastPut_only f p s (Fits.refl _) trivial trivial)
  | xferFetchAdd f p => exact answers_of_frame (execXferFetchAdd_only f p s (Fits.refl _) trivial trivial)
  | xferCompareSwap f p => exact answers_of_frame (execXferCompareSwap_only f p s (Fits.refl _) trivial trivial)
  | xferLineIssue f p => exact answers_of_frame (execXferLineIssue_only f p s (Fits.refl _) trivial trivial)
  | xferLineDone f p qsn line =>
    exact answers_of_frame (execXferLineDone_only f p qsn line s (Fits.refl _) trivial (fun _ => trivial))
  | xferDescriptorComplete f p qsn =>
    exact answers_of_frame (execXferDescriptorComplete_only f p qsn s (Fits.refl _) trivial trivial)
  | pltDoorbellSet f p v => exact answers_of_frame (execPltDoorbellSet_only f p v s (Fits.refl _) trivial trivial)
  | pltDoorbellClear f p v => exact answers_of_frame (execPltDoorbellClear_only f p v s (Fits.refl _) trivial trivial)
  | fldDoorbellRing f v target scope =>
    exact answers_of_frame (execFldDoorbellRing_only f v target scope s (Fits.refl _) trivial (fun _ => trivial))
  | pltNotify f p v leaves => exact answers_of_frame (execPltNotify_only f p v leaves s (Fits.refl _) trivial trivial)
  | mailboxSend ep => exact answers_of_frame (execMailboxSend_only ep s (Fits.refl _) (fun _ => trivial) (fun _ => trivial))
  | mailboxDeliver ep =>
    exact answers_of_frame (execMailboxDeliver_only ep s (Fits.refl _) (fun _ => trivial) (fun _ => trivial))
  | mailboxInAck ep code =>
    exact answers_of_frame (execMailboxInAck_only ep code s (Fits.refl _) (fun _ => trivial) (fun _ => trivial))
  | tdld f p dr rs1 => exact answers_of_frame (execTdld_only f p dr rs1 s (Fits.refl _) trivial trivial)
  | tdset f p dr rs1 w => exact answers_of_frame (execTdset_only f p dr rs1 w s (Fits.refl _) trivial trivial)
  | tdget f p rd dr w => exact answers_of_frame (execTdget_only f p rd dr w s (Fits.refl _) trivial trivial)
  | tmm f p rd dr rs2 int => exact answers_of_frame (execTmm_only f p rd dr rs2 int s (Fits.refl _) trivial trivial)
  | tvec f p rd dr rs2 int => exact answers_of_frame (execTvec_only f p rd dr rs2 int s (Fits.refl _) trivial trivial)
  | txfer f p rd rs1 => exact answers_of_frame (execTxfer_only f p rd rs1 s (Fits.refl _) trivial trivial)
  | tfence f p rd int => exact answers_of_frame (execTfence_only f p rd int s (Fits.refl _) trivial trivial)
  | tfenceStart f p => exact answers_of_frame (execTfenceStart_only f p s (Fits.refl _) trivial trivial)
  | tscdrain f p rd int => exact answers_of_frame (execTscdrain_only f p rd int s (Fits.refl _) trivial trivial)
  | tscdrainStart f p => exact answers_of_frame (execTscdrainStart_only f p s (Fits.refl _) trivial trivial)
  | tscdrainComplete f p => exact answers_of_frame (execTscdrainComplete_only f p s (Fits.refl _) trivial trivial)
  | trfence f p rd rs1 int => exact answers_of_frame (execTrfence_only f p rd rs1 int s (Fits.refl _) trivial trivial)
  | trfenceStart f p => exact answers_of_frame (execTrfenceStart_only f p s (Fits.refl _) trivial (fun _ => trivial))
  | trfenceComplete f p => exact answers_of_frame (execTrfenceComplete_only f p s (Fits.refl _) trivial trivial)
  | twait f p rd rs1 => exact answers_of_frame (execTwait_only f p rd rs1 s (Fits.refl _) trivial trivial)
  | twaitEnd f p => exact answers_of_frame (execTwaitEnd_only f p s (Fits.refl _) trivial trivial)
  | tvecNop f p => exact answers_of_frame (execTvecNop_only f p s (Fits.refl _) trivial trivial)
  | tvecAdd f p => exact answers_of_frame (execTvecAdd_only f p s (Fits.refl _) trivial trivial)
  | tvecSub f p => exact answers_of_frame (execTvecSub_only f p s (Fits.refl _) trivial trivial)
  | tvecMul f p => exact answers_of_frame (execTvecMul_only f p s (Fits.refl _) trivial trivial)
  | tvecFma f p => exact answers_of_frame (execTvecFma_only f p s (Fits.refl _) trivial trivial)
  | tvecMin f p => exact answers_of_frame (execTvecMin_only f p s (Fits.refl _) trivial trivial)
  | tvecMax f p => exact answers_of_frame (execTvecMax_only f p s (Fits.refl _) trivial trivial)
  | tvecAbs f p => exact answers_of_frame (execTvecAbs_only f p s (Fits.refl _) trivial trivial)
  | tvecNeg f p => exact answers_of_frame (execTvecNeg_only f p s (Fits.refl _) trivial trivial)
  | tvecCmp f p => exact answers_of_frame (execTvecCmp_only f p s (Fits.refl _) trivial trivial)
  | tvecSelect f p => exact answers_of_frame (execTvecSelect_only f p s (Fits.refl _) trivial trivial)
  | tvecExp2 f p => exact answers_of_frame (execTvecExp2_only f p s (Fits.refl _) trivial trivial)
  | tvecLog2 f p => exact answers_of_frame (execTvecLog2_only f p s (Fits.refl _) trivial trivial)
  | tvecRecip f p => exact answers_of_frame (execTvecRecip_only f p s (Fits.refl _) trivial trivial)
  | tvecRsqrt f p => exact answers_of_frame (execTvecRsqrt_only f p s (Fits.refl _) trivial trivial)
  | tvecIadd f p => exact answers_of_frame (execTvecIadd_only f p s (Fits.refl _) trivial trivial)
  | tvecIsub f p => exact answers_of_frame (execTvecIsub_only f p s (Fits.refl _) trivial trivial)
  | tvecImin f p => exact answers_of_frame (execTvecImin_only f p s (Fits.refl _) trivial trivial)
  | tvecImax f p => exact answers_of_frame (execTvecImax_only f p s (Fits.refl _) trivial trivial)
  | tvecAnd f p => exact answers_of_frame (execTvecAnd_only f p s (Fits.refl _) trivial trivial)
  | tvecOr f p => exact answers_of_frame (execTvecOr_only f p s (Fits.refl _) trivial trivial)
  | tvecXor f p => exact answers_of_frame (execTvecXor_only f p s (Fits.refl _) trivial trivial)
  | tvecSll f p => exact answers_of_frame (execTvecSll_only f p s (Fits.refl _) trivial trivial)
  | tvecSra f p => exact answers_of_frame (execTvecSra_only f p s (Fits.refl _) trivial trivial)
  | tvecSrl f p => exact answers_of_frame (execTvecSrl_only f p s (Fits.refl _) trivial trivial)
  | tvecIcmp f p => exact answers_of_frame (execTvecIcmp_only f p s (Fits.refl _) trivial trivial)
  | tvecCvt f p => exact answers_of_frame (execTvecCvt_only f p s (Fits.refl _) trivial trivial)
  | tvecBenc f p => exact answers_of_frame (execTvecBenc_only f p s (Fits.refl _) trivial trivial)
  | tvecBscale f p => exact answers_of_frame (execTvecBscale_only f p s (Fits.refl _) trivial trivial)
  | tvecBdec f p => exact answers_of_frame (execTvecBdec_only f p s (Fits.refl _) trivial trivial)
  | tvecAmax f p => exact answers_of_frame (execTvecAmax_only f p s (Fits.refl _) trivial trivial)
  | tvecSum f p => exact answers_of_frame (execTvecSum_only f p s (Fits.refl _) trivial trivial)
  | tvecComplete f p => exact answers_of_frame (execTvecComplete_only f p s (Fits.refl _) trivial trivial)
  | cqPop f p rd rs1 imm compressed =>
    exact answers_of_frame (execCqPop_only f p rd rs1 imm compressed s (Fits.refl _) trivial trivial)
  | hbmRead f half src => exact answers_of_frame (execHbmRead_only f half src s (Fits.refl _) trivial)
  | hbmWrite f addr data poisoned src =>
    exact answers_of_frame (execHbmWrite_only f addr data poisoned src s (Fits.refl _) trivial)
  | hbmStackLost f stack => exact answers_of_frame (execHbmStackLost_only f stack s (Fits.refl _) trivial (fun _ => trivial))
  | ecsRead f count0 count1 => exact answers_of_frame (execEcsRead_only f count0 count1 s (Fits.refl _) trivial)
  | hbmPatrolScrub f pc => exact answers_of_frame (execHbmPatrolScrub_only f pc s (Fits.refl _) trivial)
  | mirrorWriteRelease f => exact answers_of_frame (execMirrorWriteRelease_only f s (Fits.refl _) trivial)
  | plotFallowSet f phys => exact answers_of_frame (execPlotFallowSet_only f phys s (Fits.refl _) trivial (fun _ => trivial))
  | meshMulticast f isRow index mask load =>
    exact answers_of_frame (execMeshMulticast_only f isRow index mask load s (Fits.refl _) trivial (fun _ => trivial))
  | meshMulticastComplete f => exact answers_of_frame (execMeshMulticastComplete_only f s (Fits.refl _) trivial)
  | calSlotStart port => exact answers_of_frame (execCalSlotStart_only port s (Fits.refl _) (fun _ => trivial))
  | calSlotEnd port rx => exact answers_of_frame (execCalSlotEnd_only port rx s (Fits.refl _) (fun _ => trivial))
  | calLockTimeout port rx => exact answers_of_frame (execCalLockTimeout_only port rx s (Fits.refl _) (fun _ => trivial))
  | wavelengthFail port rx w reason =>
    exact answers_of_frame (execWavelengthFail_only port rx w reason s (Fits.refl _) (fun _ => trivial))
  | laneRetry port w => exact answers_of_frame (execLaneRetry_only port w s (Fits.refl _) (fun _ => trivial))
  | laneRetryEnd port rx w pass =>
    exact answers_of_frame (execLaneRetryEnd_only port rx w pass s (Fits.refl _) (fun _ => trivial))
  | rxPowerMeasure f n powers => exact answers_of_frame (execRxPowerMeasure_only f n powers s (Fits.refl _) trivial)
  | marginEval inletA inletB => exact answers_of_frame (execMarginEval_only inletA inletB s (Fits.refl _) (fun _ => trivial))
  | switchoverRunStart atMark =>
    exact answers_of_frame (execSwitchoverRunStart_only atMark s (Fits.refl _) (fun _ => trivial))
  | engineSwitchover => exact answers_of_frame (execEngineSwitchover_only s (Fits.refl _) (fun _ => trivial))
  | engineSwitchoverEnd micros lost =>
    exact answers_of_frame (execEngineSwitchoverEnd_only micros lost s (Fits.refl _) (fun _ => trivial))
  | engineSwitchReq f e target => exact answers_of_frame (execEngineSwitchReq_only f e target s (Fits.refl _) trivial)
  | engineSwitchNow f e target => exact answers_of_frame (execEngineSwitchNow_only f e target s (Fits.refl _) trivial)
  | modulePoll m answer => exact answers_of_frame (execModulePoll_only m answer s (Fits.refl _))
  | moduleIbi m faults => exact answers_of_frame (execModuleIbi_only m faults s (Fits.refl _))
  | laserEnDeassert => exact answers_of_frame (execLaserEnDeassert_only s (Fits.refl _) (fun _ => trivial))
  | relight env => exact answers_of_frame (execRelight_only env s (Fits.refl _) (fun _ => trivial))
  | inletLost engine m => exact answers_of_frame (execInletLost_only engine m s (Fits.refl _) (fun _ => trivial))
  | aprEnter port => exact answers_of_frame (execAprEnter_only port s (Fits.refl _) (fun _ => trivial))
  | aprExit port => exact answers_of_frame (execAprExit_only port s (Fits.refl _) (fun _ => trivial))
  | txModeReq f n mode => exact answers_of_frame (execTxModeReq_only f n mode s (Fits.refl _) trivial)
  | wavelengthLock f n w => exact answers_of_frame (execWavelengthLock_only f n w s (Fits.refl _) trivial)
  | wavelengthLockLoss f n w => exact answers_of_frame (execWavelengthLockLoss_only f n w s (Fits.refl _) trivial)
  | mapChange f n slot wave => exact answers_of_frame (execMapChange_only f n slot wave s (Fits.refl _) trivial)
  | modeChange f n mode => exact answers_of_frame (execModeChange_only f n mode s (Fits.refl _) trivial)
  | cal f n w ends => exact answers_of_frame (execCal_only f n w ends s (Fits.refl _) trivial)
  | calDone f n w confirmed => exact answers_of_frame (execCalDone_only f n w confirmed s (Fits.refl _) trivial)
  | laneFailed f n w reason => exact answers_of_frame (execLaneFailed_only f n w reason s (Fits.refl _) trivial)
  | lightPause f n begins => exact answers_of_frame (execLightPause_only f n begins s (Fits.refl _) trivial)
  | powerReport f n part powers => exact answers_of_frame (execPowerReport_only f n part powers s (Fits.refl _) trivial)
  | beacon f n part arg => exact answers_of_frame (execBeacon_only f n part arg s (Fits.refl _) trivial)
  | train f n farState ready lastSeq =>
    exact answers_of_frame (execTrain_only f n farState ready lastSeq s (Fits.refl _) trivial)
  | qualResult f n mask => exact answers_of_frame (execQualResult_only f n mask s (Fits.refl _) trivial)
  | retrain f n => exact answers_of_frame (execRetrain_only f n s (Fits.refl _) trivial)
  | switchGroup f rx => exact answers_of_frame (execSwitchGroup_only f rx s (Fits.refl _) trivial)
  | switchTimeout f n => exact answers_of_frame (execSwitchTimeout_only f n s (Fits.refl _) trivial)
  | modeChangeResume f n flits => exact answers_of_frame (execModeChangeResume_only f n flits s (Fits.refl _) trivial)
  | lightPauseTimeout f n => exact answers_of_frame (execLightPauseTimeout_only f n s (Fits.refl _) trivial)
  | dataFlit f n ty flit => exact answers_of_frame (execDataFlit_only f n ty flit s (Fits.refl _) trivial)
  | idleFlit f n flit => exact answers_of_frame (execIdleFlit_only f n flit s (Fits.refl _) trivial)
  | nakFlit f n flit => exact answers_of_frame (execNakFlit_only f n flit s (Fits.refl _) trivial)
  | flitSlot f link => exact answers_of_frame (execFlitSlot_only f link s (Fits.refl _) trivial)
  | replayTimeout f n seq => exact answers_of_frame (execReplayTimeout_only f n seq s (Fits.refl _) trivial)
  | lockTimeout f n => exact answers_of_frame (execLockTimeout_only f n s (Fits.refl _) trivial)
  | qualifyEnd f n w lineBits corrected uncorrectable =>
    exact answers_of_frame (execQualifyEnd_only f n w lineBits corrected uncorrectable s (Fits.refl _) trivial)
  | rxSilentTimeout f n => exact answers_of_frame (execRxSilentTimeout_only f n s (Fits.refl _) trivial)
  | retrainTimeout f n => exact answers_of_frame (execRetrainTimeout_only f n s (Fits.refl _) trivial)
  | linkEnableClear f n => exact answers_of_frame (execLinkEnableClear_only f n s (Fits.refl _) trivial)
  | linkRetry f n => exact answers_of_frame (execLinkRetry_only f n s (Fits.refl _) trivial)
  | beaconSend f n => exact answers_of_frame (execBeaconSend_only f n s (Fits.refl _) trivial)
  | laneControlRepeat f n => exact answers_of_frame (execLaneControlRepeat_only f n s (Fits.refl _) trivial)
  | missingTimeout f n => exact answers_of_frame (execMissingTimeout_only f n s (Fits.refl _) trivial)
  | discApprove f mask => exact answers_of_frame (execDiscApprove_only f mask s (Fits.refl _) trivial)
  | discApprovalWithdraw f n => exact answers_of_frame (execDiscApprovalWithdraw_only f n s (Fits.refl _) trivial)
  | routePacket f link vc stage => exact answers_of_frame (execRoutePacket_only f link vc stage s (Fits.refl _) trivial)
  | mcastCopy f => exact answers_of_frame (execMcastCopy_only f s (Fits.refl _) trivial)
  | sealTables f => exact answers_of_frame (execSeal_only f s (Fits.refl _) trivial)
  | congSample f => exact answers_of_frame (execCongSample_only f s (Fits.refl _) trivial)
  | congWindowEnd f => exact answers_of_frame (execCongWindowEnd_only f s (Fits.refl _) trivial)
  | fldAllotWrite f id => exact answers_of_frame (execFldAllotWrite_only f id s (Fits.refl _) trivial)
  | gatewayLineAccept f p => exact answers_of_frame (execGatewayLineAccept_only f p s (Fits.refl _) trivial trivial)
  | orderedLineSend f req =>
    exact answers_of_frame (execOrderedLineSend_only f req s (Fits.refl _) trivial (fun _ => trivial))
  | get f pkt => exact answers_of_frame (execGet_only f pkt s (Fits.refl _) trivial (fun _ => trivial))
  | put f pkt => exact answers_of_frame (execPut_only f pkt s (Fits.refl _) trivial (fun _ => trivial))
  | putPartial f pkt => exact answers_of_frame (execPutPartial_only f pkt s (Fits.refl _) trivial (fun _ => trivial))
  | putReduce f pkt => exact answers_of_frame (execPutReduce_only f pkt s (Fits.refl _) trivial (fun _ => trivial))
  | putReduceComb f pkt => exact answers_of_frame (execPutReduceComb_only f pkt s (Fits.refl _) trivial (fun _ => trivial))
  | mcastPut f pkt => exact answers_of_frame (execMcastPut_only f pkt s (Fits.refl _) trivial (fun _ => trivial))
  | fetchAdd f pkt => exact answers_of_frame (execFetchAdd_only f pkt s (Fits.refl _) trivial)
  | compareSwap f pkt => exact answers_of_frame (execCompareSwap_only f pkt s (Fits.refl _) trivial)
  | flushReq f pkt => exact answers_of_frame (execFlushReq_only f pkt s (Fits.refl _) trivial)
  | getResp f pkt => exact answers_of_frame (execGetResp_only f pkt s (Fits.refl _) trivial (fun _ => trivial))
  | ack f pkt => exact answers_of_frame (execAck_only f pkt s (Fits.refl _) trivial (fun _ => trivial))
  | defer f pkt => exact answers_of_frame (execDefer_only f pkt s (Fits.refl _) trivial)
  | atomicResp f pkt => exact answers_of_frame (execAtomicResp_only f pkt s (Fits.refl _) trivial (fun _ => trivial))
  | mcAck f pkt => exact answers_of_frame (execMcAck_only f pkt s (Fits.refl _) trivial (fun _ => trivial))
  | flushAck f pkt => exact answers_of_frame (execFlushAck_only f pkt s (Fits.refl _) trivial (fun _ => trivial))
  | ackSend f src => exact answers_of_frame (execAckSend_only f src s (Fits.refl _) trivial)
  | deferResend f req => exact answers_of_frame (execDeferResend_only f req s (Fits.refl _) trivial)
  | ageTokenTimeout f src => exact answers_of_frame (execAgeTokenTimeout_only f src s (Fits.refl _) trivial)
  | retxTimeout f req member =>
    exact answers_of_frame (execRetxTimeout_only f req member s (Fits.refl _) trivial (fun _ => trivial))
  | allotHalt f id => exact answers_of_frame (execAllotHalt_only f id s (Fits.refl _) trivial (fun _ => trivial))
  | absorberWriteback f line => exact answers_of_frame (execAbsorberWriteback_only f line s (Fits.refl _) trivial)
  | atomicCacheExpiry f src txn => exact answers_of_frame (execAtomicCacheExpiry_only f src txn s (Fits.refl _) trivial)
  | gwyRedRelease f id => exact answers_of_frame (execGwyRedRelease_only f id s (Fits.refl _) trivial)
  | combSlotSend f slot aged => exact answers_of_frame (execCombSlotSend_only f slot aged s (Fits.refl _) trivial)
  | putReduceResume f => exact answers_of_frame (execPutReduceResume_only f s (Fits.refl _) trivial (fun _ => trivial))
  | register f slot addr => exact answers_of_frame (execRegister_only f slot addr s (Fits.refl _) trivial)
  | registrationComplete f slot => exact answers_of_frame (execRegistrationComplete_only f slot s (Fits.refl _) trivial)
  | reform f slot addr => exact answers_of_frame (execReform_only f slot addr s (Fits.refl _) trivial (fun _ => trivial))
  | release f slot => exact answers_of_frame (execRelease_only f slot s (Fits.refl _) trivial (fun _ => trivial))
  | tailWrite f slot => exact answers_of_frame (execTailWrite_only f slot s (Fits.refl _) trivial)
  | collectiveStart f slot =>
    exact answers_of_frame (execCollectiveStart_only f slot s (Fits.refl _) trivial (fun _ => trivial))
  | readyLineWrite f slot => exact answers_of_frame (execReadyLineWrite_only f slot s (Fits.refl _) trivial)
  | digest f pkt => exact answers_of_frame (execDigest_only f pkt s (Fits.refl _) trivial (fun _ => trivial))
  | piece f pkt => exact answers_of_frame (execPiece_only f pkt s (Fits.refl _) trivial)
  | pieceSend f slot stage dst => exact answers_of_frame (execPieceSend_only f slot stage dst s (Fits.refl _) trivial)
  | chunkFold f slot stage chunk =>
    exact answers_of_frame (execChunkFold_only f slot stage chunk s (Fits.refl _) trivial (fun _ => trivial))
  | gather f pkt => exact answers_of_frame (execGather_only f pkt s (Fits.refl _) trivial (fun _ => trivial))
  | receipt f pkt => exact answers_of_frame (execReceipt_only f pkt s (Fits.refl _) trivial (fun _ => trivial))
  | credit f pkt => exact answers_of_frame (execCredit_only f pkt s (Fits.refl _) trivial)
  | abort f pkt => exact answers_of_frame (execAbort_only f pkt s (Fits.refl _) trivial (fun _ => trivial))
  | partResend f slot k => exact answers_of_frame (execPartResend_only f slot k s (Fits.refl _) trivial)
  | stageTimeout f slot => exact answers_of_frame (execStageTimeout_only f slot s (Fits.refl _) trivial (fun _ => trivial))
  | healthWindowClose => exact answers_of_frame (execHealthWindowClose_only s (Fits.refl _) (fun _ => trivial))
  | hardEvent f => exact answers_of_frame (execHardEvent_only f s (Fits.refl _) trivial)
  | expelClear f => exact answers_of_frame (execExpelClear_only f s (Fits.refl _) trivial)
  | granuleTake f granule => exact answers_of_frame (execGranuleTake_only f granule s (Fits.refl _) trivial)
  | mirMarkSend f => exact answers_of_frame (execMirMarkSend_only f s (Fits.refl _) trivial)
  | mirMark f pkt => exact answers_of_frame (execMirMark_only f pkt s (Fits.refl _) trivial (fun _ => trivial))
  | mirLayout f pkt => exact answers_of_frame (execMirLayout_only f pkt s (Fits.refl _) trivial (fun _ => trivial))
  | mirPull f pkt => exact answers_of_frame (execMirPull_only f pkt s (Fits.refl _) trivial (fun _ => trivial))
  | mirPush f n => exact answers_of_frame (execMirPush_only f n s (Fits.refl _) trivial)
  | mirDone f pkt => exact answers_of_frame (execMirDone_only f pkt s (Fits.refl _) trivial (fun _ => trivial))
  | mirPartnerTimeout f n => exact answers_of_frame (execMirPartnerTimeout_only f n s (Fits.refl _) trivial)
  | mirLayoutRetry f n => exact answers_of_frame (execMirLayoutRetry_only f n s (Fits.refl _) trivial)
  | mirLoadStart f => exact answers_of_frame (execMirLoadStart_only f s (Fits.refl _) trivial)
  | mirLoadAbort f => exact answers_of_frame (execMirLoadAbort_only f s (Fits.refl _) trivial)
  | mirLoadTimeout f => exact answers_of_frame (execMirLoadTimeout_only f s (Fits.refl _) trivial)
  | injReq => exact answers_of_frame (execInjReq_only s (Fits.refl _))
  | injValue value => exact answers_of_frame (execInjValue_only value s (Fits.refl _) (fun _ => trivial))
  | injLock => exact answers_of_frame (execInjLock_only s (Fits.refl _) (fun _ => trivial))
  | injWindowExpiry => exact answers_of_frame (execInjWindowExpiry_only s (Fits.refl _))
  | injHoldoffEnd => exact answers_of_frame (execInjHoldoffEnd_only s (Fits.refl _))
  | tallyBeaconSend f link => exact answers_of_frame (execTallyBeaconSend_only f link s (Fits.refl _) trivial)
  | tallyBeacon f link pkt => exact answers_of_frame (execTallyBeacon_only f link pkt s (Fits.refl _) trivial)
  | hubTallyBeacon => exact answers_of_frame (execHubTallyBeacon_only s (Fits.refl _))
  | rootLost f => exact answers_of_frame (execRootLost_only f s (Fits.refl _) trivial)
  | rootInitial f => exact answers_of_frame (execRootInitial_only f s (Fits.refl _) trivial)
  | rootTakeover f => exact answers_of_frame (execRootTakeover_only f s (Fits.refl _) trivial)
  | tallyLockTimeout f => exact answers_of_frame (execTallyLockTimeout_only f s (Fits.refl _) trivial)
  | markArm f w => exact answers_of_frame (execMarkArm_only f w s (Fits.refl _) trivial)
  | boundaryMark f => exact answers_of_frame (execBoundaryMark_only f s (Fits.refl _) trivial (fun _ => trivial))
  | houseMark f => exact answers_of_frame (execHouseMark_only f s (Fits.refl _) trivial (fun _ => trivial))
  | driftReportWrite f => exact answers_of_frame (execDriftReportWrite_only f s (Fits.refl _) trivial)
  | stepTimingReportWrite f => exact answers_of_frame (execStepTimingReportWrite_only f s (Fits.refl _) trivial)
  | redEntryRelease f => exact answers_of_frame (execRedEntryRelease_only f s (Fits.refl _) trivial)
  | markDone f => exact answers_of_frame (execMarkDone_only f s (Fits.refl _) trivial)
  | tallyMarkPulse => exact answers_of_frame (execTallyMarkPulse_only s (Fits.refl _))
  | calendarComp temp => exact answers_of_frame (execCalendarComp_only temp s (Fits.refl _))
  | calApply => exact answers_of_frame (execCalApply_only s (Fits.refl _))
  | vbatLow => exact answers_of_frame (execVbatLow_only s (Fits.refl _))
  | coldReset powerOn straps vbat =>
    exact answers_of_frame (execColdReset_only powerOn straps vbat s (Fits.refl _) (fun _ => trivial) (fun _ => trivial))
  | warmReset i3c => exact answers_of_frame (execWarmReset_only i3c s (Fits.refl _) (fun _ => trivial) (fun _ => trivial))
  | partitionReset f => exact answers_of_frame (execPartitionReset_only f s (Fits.refl _) trivial (fun _ => trivial))
  | partitionResetDone f march =>
    exact answers_of_frame (execPartitionResetDone_only f march s (Fits.refl _) trivial (fun _ => trivial))
  | stagePower env => exact answers_of_frame (execStagePower_only env s (Fits.refl _) (fun _ => trivial))
  | stageSeed env flash => exact answers_of_frame (execStageSeed_only env flash s (Fits.refl _) (fun _ => trivial))
  | stageFieldPower pgood rimOk modules =>
    exact answers_of_frame (execStageFieldPower_only pgood rimOk modules s (Fits.refl _) (fun _ => trivial) (fun _ => trivial))
  | stageMemory trained march carry repairs =>
    exact answers_of_frame (execStageMemory_only trained march carry repairs s (Fits.refl _) (fun _ => trivial))
  | stageLight env => exact answers_of_frame (execStageLight_only env s (Fits.refl _) (fun _ => trivial))
  | stageLinks => exact answers_of_frame (execStageLinks_only s (Fits.refl _) (fun _ => trivial) (fun _ => trivial))
  | stageKnownAnswer plots rims =>
    exact answers_of_frame (execStageKnownAnswer_only plots rims s (Fits.refl _) (fun _ => trivial) (fun _ => trivial))
  | stageFirmware => exact answers_of_frame (execStageFirmware_only s (Fits.refl _) (fun _ => trivial) (fun _ => trivial))
  | stageFabric => exact answers_of_frame (execStageFabric_only s (Fits.refl _) (fun _ => trivial) (fun _ => trivial))
  | stageReady => exact answers_of_frame (execStageReady_only s (Fits.refl _) (fun _ => trivial))
  | stageEnd => exact answers_of_frame (execStageEnd_only s (Fits.refl _) (fun _ => trivial) (fun _ => trivial))
  | stageGo stage => exact answers_of_frame (execStageGo_only stage s (Fits.refl _) (fun _ => trivial) (fun _ => trivial))
  | stageSkip stage => exact answers_of_frame (execStageSkip_only stage s (Fits.refl _) (fun _ => trivial) (fun _ => trivial))
  | hostImage => exact answers_of_frame (execHostImage_only s (Fits.refl _))
  | imagesReady => exact answers_of_frame (execImagesReady_only s (Fits.refl _) (fun _ => trivial) (fun _ => trivial))
  | hostLightRetry env => exact answers_of_frame (execHostLightRetry_only env s (Fits.refl _) (fun _ => trivial))
  | pgoodTimeout f => exact answers_of_frame (execPgoodTimeout_only f s (Fits.refl _) trivial (fun _ => trivial))
  | linksStageTimeout =>
    exact answers_of_frame (execLinksStageTimeout_only s (Fits.refl _) (fun _ => trivial) (fun _ => trivial))
  | fabricStageTimeout =>
    exact answers_of_frame (execFabricStageTimeout_only s (Fits.refl _) (fun _ => trivial) (fun _ => trivial))
  | bootFetch f p => exact answers_of_frame (execBootFetch_only f p s (Fits.refl _) trivial (fun _ => trivial))
  | sowingRow f timeout => exact answers_of_frame (execSowingRow_only f timeout s (Fits.refl _) trivial (fun _ => trivial))
  | jtagResponse sigR sigS => exact answers_of_frame (execJtagResponse_only sigR sigS s (Fits.refl _))
  | jtagHoldoffEnd => exact answers_of_frame (execJtagHoldoffEnd_only s (Fits.refl _))
  | memoryRead fn bar2 addr len =>
    exact answers_of_frame (execMemoryRead_only fn bar2 addr len s (Fits.refl _) (fun _ => trivial) (fun _ => trivial))
  | memoryWrite fn bar2 addr data be ep =>
    exact answers_of_frame (execMemoryWrite_only fn bar2 addr data be ep s (Fits.refl _) (fun _ => trivial) (fun _ => trivial))
  | functionLevelReset fn =>
    exact answers_of_frame (execFunctionLevelReset_only fn s (Fits.refl _) (fun _ => trivial) (fun _ => trivial))
  | powerStateChange fn d3 => exact answers_of_frame (execPowerStateChange_only fn d3 s (Fits.refl _))
  | hostLinkRecovery => exact answers_of_frame (execHostLinkRecovery_only s (Fits.refl _))
  | hostRetrain => exact answers_of_frame (execHostRetrain_only s (Fits.refl _))
  | msixMessage fn cls cfg => exact answers_of_frame (execMsixMessage_only fn cls cfg s (Fits.refl _))
  | evtConsWrite sp v => exact answers_of_frame (execEvtConsWrite_only sp v s (Fits.refl _) (fun _ => trivial))
  | evtRingConfig sp enable sizeLog base =>
    exact answers_of_frame (execEvtRingConfig_only sp enable sizeLog base s (Fits.refl _) (fun _ => trivial))
  | mgmtRead node off words => exact answers_of_frame (execMgmtRead_only node off words s (Fits.refl _) (fun _ => trivial))
  | mgmtReadServe f arrive =>
    exact answers_of_frame (execMgmtReadServe_only f arrive s (Fits.refl _) trivial (fun _ => trivial))
  | mgmtReply pkt => exact answers_of_frame (execMgmtReply_only pkt s (Fits.refl _) (fun _ => trivial))
  | mgmtTimeoutExpiry => exact answers_of_frame (execMgmtTimeoutExpiry_only s (Fits.refl _))
  | eventForward f => exact answers_of_frame (execEventForward_only f s (Fits.refl _) trivial)
  | forwardedEvent f pkt => exact answers_of_frame (execForwardedEvent_only f pkt s (Fits.refl _) trivial)
  | fwdDiscardTimeout f => exact answers_of_frame (execFwdDiscardTimeout_only f s (Fits.refl _) trivial)
  | powerModeRequest mode atMark limit =>
    exact answers_of_frame (execPowerModeRequest_only mode atMark limit s (Fits.refl _) (fun _ => trivial))
  | powerModeChange => exact answers_of_frame (execPowerModeChange_only s (Fits.refl _) (fun _ => trivial))
  | powerModeChangeComplete => exact answers_of_frame (execPowerModeChangeComplete_only s (Fits.refl _) (fun _ => trivial))
  | governorPeriod p pb wantUp =>
    exact answers_of_frame (execGovernorPeriod_only p pb wantUp s (Fits.refl _) (fun _ => trivial))
  | rampRelease => exact answers_of_frame (execRampRelease_only s (Fits.refl _))
  | startTokenGrant f => exact answers_of_frame (execStartTokenGrant_only f s (Fits.refl _) trivial (fun _ => trivial))
  | pwrWarnAssert => exact answers_of_frame (execPwrWarnAssert_only s (Fits.refl _) (fun _ => trivial))
  | holdEnd => exact answers_of_frame (execHoldEnd_only s (Fits.refl _) (fun _ => trivial))
  | pgoodFall rail => exact answers_of_frame (execPgoodFall_only rail s (Fits.refl _) (fun _ => trivial) (fun _ => trivial))
  | pgoodOptTimeout => exact answers_of_frame (execPgoodOptTimeout_only s (Fits.refl _) (fun _ => trivial))
  | sensorSample f readings =>
    exact answers_of_frame (execSensorSample_only f readings s (Fits.refl _) (fun _ => trivial) (fun _ => trivial))
  | pinSample readings => exact answers_of_frame (execPinSample_only readings s (Fits.refl _) (fun _ => trivial))
  | pinCritClear n => exact answers_of_frame (execPinCritClear_only n s (Fits.refl _) (fun _ => trivial))
  | dropRecover f => exact answers_of_frame (execDropRecover_only f s (Fits.refl _) trivial)
  | tdutyStep f => exact answers_of_frame (execTdutyStep_only f s (Fits.refl _) trivial)
  | injHbmSymbol f target arg => exact answers_of_frame (execInjHbmSymbol_only f target arg s (Fits.refl _) trivial)
  | injHbmDouble f target arg => exact answers_of_frame (execInjHbmDouble_only f target arg s (Fits.refl _) trivial)
  | injStackLost f target arg =>
    exact answers_of_frame (execInjStackLost_only f target arg s (Fits.refl _) trivial (fun _ => trivial))
  | injStoreSingle f target arg => exact answers_of_frame (execInjStoreSingle_only f target arg s (Fits.refl _) trivial)
  | injStoreDouble f target arg => exact answers_of_frame (execInjStoreDouble_only f target arg s (Fits.refl _) trivial)
  | injFecSymbols f target arg => exact answers_of_frame (execInjFecSymbols_only f target arg s (Fits.refl _) trivial)
  | injFlitCrc f target arg => exact answers_of_frame (execInjFlitCrc_only f target arg s (Fits.refl _) trivial)
  | injLaneFail f target arg => exact answers_of_frame (execInjLaneFail_only f target arg s (Fits.refl _) trivial)
  | injRingUnlock f target arg => exact answers_of_frame (execInjRingUnlock_only f target arg s (Fits.refl _) trivial)
  | injRxPower f target arg => exact answers_of_frame (execInjRxPower_only f target arg s (Fits.refl _) trivial)
  | injBeaconId f target arg => exact answers_of_frame (execInjBeaconId_only f target arg s (Fits.refl _) trivial)
  | injRetrain f target arg => exact answers_of_frame (execInjRetrain_only f target arg s (Fits.refl _) trivial)
  | injNoAck f target arg => exact answers_of_frame (execInjNoAck_only f target arg s (Fits.refl _) trivial)
  | injReqDrop f target arg => exact answers_of_frame (execInjReqDrop_only f target arg s (Fits.refl _) trivial)
  | injDefer f target arg => exact answers_of_frame (execInjDefer_only f target arg s (Fits.refl _) trivial)
  | injRedFull f target arg => exact answers_of_frame (execInjRedFull_only f target arg s (Fits.refl _) trivial)
  | injCombRefuse f target arg => exact answers_of_frame (execInjCombRefuse_only f target arg s (Fits.refl _) trivial)
  | injDigest f target arg => exact answers_of_frame (execInjDigest_only f target arg s (Fits.refl _) trivial)
  | injSilent f target arg => exact answers_of_frame (execInjSilent_only f target arg s (Fits.refl _) trivial)
  | injPieceDrop f target arg => exact answers_of_frame (execInjPieceDrop_only f target arg s (Fits.refl _) trivial)
  | injDoneDigest f target arg => exact answers_of_frame (execInjDoneDigest_only f target arg s (Fits.refl _) trivial)
  | injPushStall f target arg => exact answers_of_frame (execInjPushStall_only f target arg s (Fits.refl _) trivial)
  | injBufFull f target arg => exact answers_of_frame (execInjBufFull_only f target arg s (Fits.refl _) trivial)
  | injSkip f target arg => exact answers_of_frame (execInjSkip_only f target arg s (Fits.refl _) trivial)
  | injOffset f target arg => exact answers_of_frame (execInjOffset_only f target arg s (Fits.refl _) trivial)
  | injBeatStop f target arg => exact answers_of_frame (execInjBeatStop_only f target arg s (Fits.refl _) trivial)
  | injBeaconMute f target arg => exact answers_of_frame (execInjBeaconMute_only f target arg s (Fits.refl _) trivial)
  | injSensorOffset f target arg => exact answers_of_frame (execInjSensorOffset_only f target arg s (Fits.refl _) trivial)
  | injSensorRamp f target arg => exact answers_of_frame (execInjSensorRamp_only f target arg s (Fits.refl _) trivial)
  | injSensorBroken f target arg => exact answers_of_frame (execInjSensorBroken_only f target arg s (Fits.refl _) trivial)
  | injPwrWarn target arg => exact answers_of_frame (execInjPwrWarn_only target arg s (Fits.refl _) (fun _ => trivial))
  | injPinReading target arg => exact answers_of_frame (execInjPinReading_only target arg s (Fits.refl _))
  | injPinBroken target arg => exact answers_of_frame (execInjPinBroken_only target arg s (Fits.refl _))
  | injHeartbeatStop target arg =>
    exact answers_of_frame (execInjHeartbeatStop_only target arg s (Fits.refl _) (fun _ => trivial))
  | injHostLaneFail target arg => exact answers_of_frame (execInjHostLaneFail_only target arg s (Fits.refl _))
  | injModuleFault target arg => exact answers_of_frame (execInjModuleFault_only target arg s (Fits.refl _))
  | injMargin target arg => exact answers_of_frame (execInjMargin_only target arg s (Fits.refl _))
  | injInletDrop target arg => exact answers_of_frame (execInjInletDrop_only target arg s (Fits.refl _) (fun _ => trivial))
  | injEffectEnd f r => exact answers_of_frame (execInjEffectEnd_only f r s (Fits.refl _) (fun _ => trivial))
  | droopDetectorTrip f p cycles =>
    exact answers_of_frame (execDroopDetectorTrip_only f p cycles s (Fits.refl _) trivial trivial)
  | pwrWarnDeassert => exact answers_of_frame (execPwrWarnDeassert_only s (Fits.refl _) (fun _ => trivial))
  | parentLoss f => exact answers_of_frame (execParentLoss_only f s (Fits.refl _) trivial)
  | headerMapDesync f n => exact answers_of_frame (execHeaderMapDesync_only f n s (Fits.refl _) trivial)
  | aspmL1Entry => exact answers_of_frame (execAspmL1Entry_only s (Fits.refl _))
  | hostLinkTrained ok => exact answers_of_frame (execHostLinkTrained_only ok s (Fits.refl _))
  | plotDormant f p => exact answers_of_frame (execPlotDormant_only f p s (Fits.refl _) trivial trivial)

theorem State.idle_answers (s : State) : Answers s s.idle :=
  answers_of_frame (State.idle_only s (Fits.refl _) (fun _ => trivial) (fun _ => trivial))

theorem step_of_pending_nil (h : s.pending = []) : step s = s.idle := by
  unfold step
  rw [h]

/-- Settles O1: a step takes the front command off the queue and runs it, by the definition of `step`. -/
theorem stepRunsTheFrontCommand : Obligations.StepRunsTheFrontCommand :=
  fun _ _ _ => rfl

/-- Settles O2: an idle step answers, and a step with a command at the front is that command on the rest of the queue. -/
theorem everyStepAnswers : Obligations.EveryStepAnswers := by
  intro s
  cases hq : s.pending with
  | nil =>
    obtain ⟨t, ht, hpending, hcanon⟩ := s.idle_answers
    exact ⟨t, (step_of_pending_nil hq).trans ht, by rw [hpending, hq, List.tail_nil], hcanon⟩
  | cons c rest =>
    obtain ⟨t, ht, hpending, hcanon⟩ := exec_answers c { s with pending := rest }
    have hs : s = { s with pending := c :: rest } := by rw [← hq]
    exact ⟨t, by rw [hs]; exact (stepRunsTheFrontCommand s c rest).trans ht, hpending, hcanon⟩

end Sys2Proof.Machine
end

section
/-! Accesses of the host, of Yarzin, of a drill and of the tester (R13, R15, R597, R604, R606): what each command comes to. -/

namespace Sys2Proof.Machine

open Sys2Proof

variable {s u : State} {src fn a n v be : Nat} {b2 ep : Bool} {d : List Byte} {r : Result} {Q : State → Prop}

theorem Leaves.next (h : r = .next u) (q : Q u) : Leaves r Q := ⟨u, .inl h, q⟩

theorem Leaves.finish (h : r = finish u) (q : Q u) : Leaves r Q := ⟨u, .inr h, q⟩

/-! ### The bytes of a register write (R13) -/

theorem leBytes_length (n x : Nat) : (leBytes n x).length = n := by
  induction n generalizing x with
  | zero => rfl
  | succ n ih => rw [leBytes, List.length_cons, ih]

/-- A register write of the host has all its bytes enabled. -/
theorem allOnes_mod (n : Nat) : (2 ^ n - 1) % 2 ^ n = 2 ^ n - 1 :=
  Nat.mod_eq_of_lt (Nat.sub_lt (Nat.two_pow_pos n) Nat.one_pos)

/-! ### Reads (R604, R606) -/

theorem State.readDo_of_ok (h : s.barStatus fn b2 a n = cplOk) :
    s.readDo fn b2 a n = (cplPieces a n).foldl (fun (t : State) x =>
      (t.readData fn b2 x.1 x.2).1.emit (.completion fn cplOk (t.readData fn b2 x.1 x.2).2.1 (t.readData fn b2 x.1 x.2).2.2)) s := by
  simp only [State.readDo, h, ne_eq, not_true_eq_false, if_false]

theorem State.readDo_of_refused (h : s.barStatus fn b2 a n ≠ cplOk) :
    s.readDo fn b2 a n = s.emit (.completion fn (s.barStatus fn b2 a n) false []) := by
  simp only [State.readDo, ne_eq, h, not_false_eq_true, if_true]

/-- PF0's BAR2 serves what lies in its 16 MiB, outside D3hot. -/
theorem State.barStatus_sram (hd : bit s.hub.host.d3 0 = false) (h : a + n ≤ 0x1000000) : s.barStatus 0 true a n = cplOk := by
  have hsize : ¬ (barSize 0 true < a + n) := Nat.not_lt.mpr h
  simp [State.barStatus, hd, hsize, State.windowOpen]

/-! ### Writes (R604, R606) -/

theorem State.writeDo_of_refused (h : s.barStatus fn b2 a d.length ≠ cplOk) : s.writeDo fn b2 a d be ep = s.aerDrop fn := by
  simp only [State.writeDo, ne_eq, h, not_false_eq_true, if_true]

theorem State.writeDo_sram (h : s.barStatus 0 true a d.length = cplOk) : s.writeDo 0 true a d be ep = s.sramPost a d be := by
  simp only [State.writeDo, h, ne_eq, not_true_eq_false, if_false, if_true]

theorem State.writeDo_aperture (h : s.barStatus fn true a d.length = cplOk) (hf : fn ≠ 0) :
    s.writeDo fn true a d be ep = s.apertureWrite fn (s.freg (fnField fn) Reg.FLD_APERTURE.BASE * 2 ^ 30 + a) d be ep := by
  simp only [State.writeDo, h, ne_eq, not_true_eq_false, if_false, if_true, hf]

theorem State.writeDo_partial (h : s.barStatus fn false a d.length = cplOk) (hb : be % 2 ^ d.length ≠ 2 ^ d.length - 1) :
    s.writeDo fn false a d be ep = s.aerDrop fn := by
  simp only [State.writeDo, h, ne_eq, not_true_eq_false, if_false, Bool.false_eq_true, hb, not_false_eq_true, if_true]

theorem State.writeDo_poisoned (h : s.barStatus fn false a d.length = cplOk) (hb : be % 2 ^ d.length = 2 ^ d.length - 1) :
    s.writeDo fn false a d be true = s.aerPoison fn := by
  simp only [State.writeDo, h, ne_eq, not_true_eq_false, if_false, Bool.false_eq_true, hb, if_true]

theorem State.writeDo_register (h : s.barStatus fn false a d.length = cplOk) (hb : be % 2 ^ d.length = 2 ^ d.length - 1) :
    s.writeDo fn false a d be false = (s.spaceWrite true (fnSpace fn) a d.length (leNat d)).bootSettle := by
  simp only [State.writeDo, h, ne_eq, not_true_eq_false, if_false, Bool.false_eq_true, hb]

/-! ### The three commands, by their operands -/

section Commands

variable {fn : Fin 5} {sp : Space}

theorem execMemoryRead_of_le (hn : n ≤ maxRead) : execMemoryRead fn b2 a n s = s.tlp fn.val (.read fn.val b2 a n) :=
  if_neg (Nat.not_lt.mpr hn)

theorem execMemoryRead_of_lt (hn : maxRead < n) : execMemoryRead fn b2 a n s = .next s := if_pos hn

theorem execMemoryWrite_of_le (hn : d.length ≤ maxPayload) :
    execMemoryWrite fn b2 a d be ep s = s.tlp fn.val (.write fn.val b2 a d be ep) :=
  if_neg (Nat.not_lt.mpr hn)

theorem execMemoryWrite_of_lt (hn : maxPayload < d.length) : execMemoryWrite fn b2 a d be ep s = .next s := if_pos hn

theorem execRegisterWrite_of_not_ok {ag : Agent} (h : accessOk a n = false) : execRegisterWrite ag sp a n v s = .next s := by
  simp only [execRegisterWrite, h, Bool.not_false, if_true]

theorem execRegisterWrite_host (h : accessOk a n = true) :
    execRegisterWrite (.host fn) (fnSpace fn.val) a n v s =
      s.tlp fn.val (.write fn.val false a (leBytes n v) (2 ^ n - 1) false) := by
  simp only [execRegisterWrite, h, Bool.not_true, Bool.false_eq_true, if_false, if_true]

/-- A host's register write of a space that is not its function's, or with the link down, does nothing. -/
theorem execRegisterWrite_host_off (h : sp ≠ fnSpace fn.val ∨ (s.hostUp = false ∧ s.hostLink ≠ hpRecovery)) :
    execRegisterWrite (.host fn) sp a n v s = .next s := by
  by_cases hok : accessOk a n = true
  · by_cases hsp : sp = fnSpace fn.val
    · obtain ⟨hup, hlink⟩ := h.resolve_left (not_not.mpr hsp)
      rw [hsp, execRegisterWrite_host hok, State.tlp_of_off hup hlink]
    · simp only [execRegisterWrite, hok, Bool.not_true, Bool.false_eq_true, if_false, hsp]
  · exact execRegisterWrite_of_not_ok (Bool.not_eq_true _ ▸ hok)

theorem execRegisterWrite_yarzin (h : accessOk a n = true) :
    execRegisterWrite .yarzin sp a n v s = finish (s.request 5 (.reg sp a n (v % 2 ^ (8 * n)))) := by
  simp only [execRegisterWrite, h, Bool.not_true, Bool.false_eq_true, if_false]

theorem execRegisterWrite_jtag (h : accessOk a n = true) :
    execRegisterWrite .jtag sp a n v s = finish (s.agentWrite .jtag sp a n (v % 2 ^ (8 * n))).bootSettle := by
  simp only [execRegisterWrite, h, Bool.not_true, Bool.false_eq_true, if_false]

theorem execRegisterWrite_drill {f : FieldId} {p : PlotId} (h : accessOk a 4 = true) :
    execRegisterWrite (.drill f p) sp a 4 v s = finish (s.agentWrite (.drill f p) sp a 4 (v % 2 ^ 32)) := by
  simp only [execRegisterWrite, h, Bool.not_true, Bool.false_eq_true, if_false, if_true]

/-- A drill writes words only. -/
theorem execRegisterWrite_drill_length {f : FieldId} {p : PlotId} (h : n ≠ 4) :
    execRegisterWrite (.drill f p) sp a n v s = .next s := by
  simp only [execRegisterWrite, h, if_false, ite_self]

end Commands

/-- Settles O40: each clause is the command by its operands, the link by its state, and the request by whether it waits and
how its window meets it. -/
theorem hostAccessesComplete : Obligations.HostAccessesComplete := by
  unfold Obligations.HostAccessesComplete
  refine ⟨?_, ?_, ?_, ?_, ?_, ?_, ?_, ?_, ?_, ?_, ?_, ?_, ?_, ?_, ?_, ?_, ?_, ?_, ?_, ?_, ?_, ?_, ?_, ?_, ?_, ?_, ?_, ?_⟩
  -- MEMORY_READ
  · intro s fn b2 a n hup hn
    exact .finish ((execMemoryRead_of_le hn).trans (State.tlp_of_up hup)) rfl
  · intro s a n hl hh hw hd hn ha
    refine .finish ((execMemoryRead_of_le hn).trans (State.tlp_of_ready hl hh hw rfl)) ?_
    exact State.readDo_of_ok (State.barStatus_sram hd ha)
  · intro s fn b2 a n hl hh hw hn hr hok
    exact .finish ((execMemoryRead_of_le hn).trans (State.tlp_of_ready hl hh hw hr)) (State.readDo_of_ok hok)
  · intro s fn b2 a n hl hh hw hn hr hno
    exact .finish ((execMemoryRead_of_le hn).trans (State.tlp_of_ready hl hh hw hr)) (State.readDo_of_refused hno)
  · intro s fn b2 a n hl hh hw hn hr
    obtain ⟨hwait, hout, -⟩ := State.request_waits_effect (src := fn.val) hw hr
    exact .finish ((execMemoryRead_of_le hn).trans (State.tlp_of_L0 hl hh)) ⟨hwait, hout⟩
  · rintro s fn b2 a n (⟨hup, hlink⟩ | hn)
    · by_cases hn : n ≤ maxRead
      · exact .next ((execMemoryRead_of_le hn).trans (State.tlp_of_off hup hlink)) rfl
      · exact .next (execMemoryRead_of_lt (Nat.lt_of_not_le hn)) rfl
    · exact .next (execMemoryRead_of_lt hn) rfl
  · intro s fn b2 a n hl hn
    exact .next ((execMemoryRead_of_le hn).trans (State.tlp_of_recovery hl)) rfl
  -- MEMORY_WRITE
  · intro s fn b2 a be d ep hup hn
    exact .finish ((execMemoryWrite_of_le hn).trans (State.tlp_of_up hup)) rfl
  · intro s a be d ep hl hh hw hd hn ha
    refine .finish ((execMemoryWrite_of_le hn).trans (State.tlp_of_ready hl hh hw rfl)) ?_
    exact State.writeDo_sram (State.barStatus_sram hd ha)
  · rintro s fn b2 a be d ep hl hh hw hn hr hok rfl hf
    refine .finish ((execMemoryWrite_of_le hn).trans (State.tlp_of_ready hl hh hw hr)) ?_
    exact State.writeDo_aperture hok (Fin.val_ne_iff.mpr hf)
  · rintro s fn b2 a be d ep hl hh hw hn hr hok rfl hb rfl
    exact .finish ((execMemoryWrite_of_le hn).trans (State.tlp_of_ready hl hh hw hr)) (State.writeDo_register hok hb)
  · rintro s fn b2 a be d ep hl hh hw hn hr hok rfl hb rfl
    exact .finish ((execMemoryWrite_of_le hn).trans (State.tlp_of_ready hl hh hw hr)) (State.writeDo_poisoned hok hb)
  · rintro s fn b2 a be d ep hl hh hw hn hr hok rfl hb
    exact .finish ((execMemoryWrite_of_le hn).trans (State.tlp_of_ready hl hh hw hr)) (State.writeDo_partial hok hb)
  · intro s fn b2 a be d ep hl hh hw hn hr hno
    have hdrop : s.reqDo (.write fn.val b2 a d be ep) = s.aerDrop fn := State.writeDo_of_refused hno
    refine .finish ((execMemoryWrite_of_le hn).trans (State.tlp_of_ready hl hh hw hr)) ⟨?_, hdrop⟩
    rw [hdrop]
    exact bit_setBit _ _
  · intro s fn b2 a be d ep hl hh hw hn hr
    obtain ⟨hwait, -, hmem⟩ := State.request_waits_effect (src := fn.val) hw hr
    exact .finish ((execMemoryWrite_of_le hn).trans (State.tlp_of_L0 hl hh)) ⟨hwait, hmem⟩
  · rintro s fn b2 a be d ep (⟨hup, hlink⟩ | hn)
    · by_cases hn : d.length ≤ maxPayload
      · exact .next ((execMemoryWrite_of_le hn).trans (State.tlp_of_off hup hlink)) rfl
      · exact .next (execMemoryWrite_of_lt (Nat.lt_of_not_le hn)) rfl
    · exact .next (execMemoryWrite_of_lt hn) rfl
  · intro s fn b2 a be d ep hl hn
    exact .next ((execMemoryWrite_of_le hn).trans (State.tlp_of_recovery hl)) rfl
  -- REGISTER_WRITE of the host
  · intro s fn a n v hup hok
    exact .finish ((execRegisterWrite_host hok).trans (State.tlp_of_up hup)) rfl
  · intro s fn a n v hl hh hw hok hr hbar
    refine .finish ((execRegisterWrite_host hok).trans (State.tlp_of_ready hl hh hw hr)) ?_
    have hlen := leBytes_length n v
    have hdo := State.writeDo_register (s := s) (fn := fn.val) (a := a) (d := leBytes n v) (be := 2 ^ n - 1)
      (by rw [hlen, hbar]) (by rw [hlen]; exact allOnes_mod n)
    rw [hlen] at hdo
    exact hdo
  · intro s fn sp a n v h
    exact .next (execRegisterWrite_host_off h) rfl
  · intro s fn a n v hl hok
    exact .next ((execRegisterWrite_host hok).trans (State.tlp_of_recovery hl)) rfl
  -- REGISTER_WRITE of Yarzin, of a drill, of the tester
  · intro s sp a n v hok
    exact .finish (execRegisterWrite_yarzin hok) rfl
  · intro s sp a n v hw hok hr
    exact .finish (execRegisterWrite_yarzin hok) (State.request_of_ready hw hr)
  · intro s sp a n v hw hok hr
    exact .finish (execRegisterWrite_yarzin hok) (State.request_waits_effect hw hr).1
  · intro s f p sp a v hok
    exact .finish (execRegisterWrite_drill hok) rfl
  · intro s f p sp a n v hn
    exact .next (execRegisterWrite_drill_length hn) rfl
  · intro s ag sp a n v hok
    exact .next (execRegisterWrite_of_not_ok hok) rfl
  · intro s sp a n v hok
    exact .finish (execRegisterWrite_jtag hok) rfl

end Sys2Proof.Machine
end

section
/-! An idle step (R9, assumption log entry 1): with nothing waiting it is a tick of the clock, and nothing else. -/

namespace Sys2Proof.Machine

open Sys2Proof

variable {s : State} {f : FieldId}

/-! ### What a tick leaves -/

@[simp] theorem State.updTly_plots (s : State) (f : FieldId) (g : TallyUnit → TallyUnit) (h : FieldId) :
    ((s.updTly f g).field h).plots = (s.field h).plots := by
  unfold State.updTly
  rw [State.field_updField_if]
  split
  · subst h; rfl
  · rfl

@[simp] theorem State.fwrap_plots (s : State) (f : FieldId) (k : RegField) (d n i : Nat) (h : FieldId) :
    ((s.fwrap f k d n i).field h).plots = (s.field h).plots := by
  unfold State.fwrap State.fset
  rw [State.field_updField_if]
  split
  · subst h; rfl
  · rfl

theorem State.tickField_plots (s : State) (f h : FieldId) : ((s.tickField f).field h).plots = (s.field h).plots := by
  unfold State.tickField
  split
  · rfl
  · dsimp only
    split
    · rw [State.updTly_plots]
    · rw [State.fwrap_plots, State.updTly_plots]

theorem State.calCount_fields (s : State) (ns : Nat) : (s.calCount ns).fields = s.fields := by
  unfold State.calCount State.calSet State.hset
  dsimp only
  split <;> simp only [State.updHub_fields]

theorem State.tickHub_fields (s : State) : s.tickHub.fields = s.fields := rfl

theorem State.tickHub_now (s : State) : s.tickHub.now = s.now := rfl

theorem State.tickHub_tally (s : State) :
    s.tickHub.hub.tally = trunc 64
      (s.hub.tally + (s.hub.servo.tFrac + 3 * tallyInc s.hub.servo.hold s.hub.servo.fTrim s.hub.servo.pTrim) / 2 ^ 32) := rfl

/-- The fields after their part of a tick. -/
def State.tickFields (s : State) : State := allFields.foldl (fun t f => t.tickField f) { s with now := s.now + 2 }

theorem State.tick_eq (s : State) : s.tick = s.tickFields.tickHub.calCount 2 := rfl

theorem State.tickFields_plots (s : State) (h : FieldId) : (s.tickFields.field h).plots = (s.field h).plots := by
  unfold State.tickFields
  simp only [allFields, List.foldl_cons, List.foldl_nil, State.tickField_plots]
  rfl

/-- A tick leaves the plots of every field as they were. -/
theorem State.tick_plots (s : State) (h : FieldId) : (s.tick.field h).plots = (s.field h).plots := by
  rw [State.tick_eq, State.field, State.calCount_fields, State.tickHub_fields]
  exact s.tickFields_plots h

/-- The fields' part of a tick changes their tallies and the count of held cycles, once 2 ns have passed. -/
theorem State.tickFields_only (s : State) :
    Only [.reg Reg.MEM_MIR_STATUS.HOLD_CYCLES, .tally] (fun _ => True) (fun _ => False) { s with now := s.now + 2 }
      s.tickFields :=
  Only.foldl _ _ (fun _ _ h => State.tickField_only _ _ (Fits.refl _) trivial h) (Only.refl _ _ _ _)

theorem State.tick_frame (s : State) :
    Only [.now, .hubReg Reg.CAL_TIME.FRAC, .hubReg Reg.CAL_TIME.SEC, .tallyHub, .calendar,
      .reg Reg.MEM_MIR_STATUS.HOLD_CYCLES, .tally] (fun _ => True) (fun _ => False) s s.tick :=
  State.tick_only s (Fits.refl _) (fun _ => trivial) (Only.refl _ _ _ s)

/-- The calendar's part of a tick changes the calendar alone. -/
theorem State.tick_calendar_only (s : State) :
    Only [.hubReg Reg.CAL_TIME.FRAC, .hubReg Reg.CAL_TIME.SEC, .calendar] (fun _ => True) (fun _ => False)
      s.tickFields.tickHub s.tick :=
  State.calCount_only _ 2 (Fits.refl _) (Only.refl _ _ _ _)

theorem State.tick_host (s : State) : s.tick.hub.host = s.hub.host :=
  (s.tick_frame.same .host 0 (by decide +kernel) (.inl (by decide +kernel))).1

theorem State.tick_events (s : State) : s.tick.events = s.events :=
  s.tick_frame.same .events 0 (by decide +kernel) (.inl (by decide +kernel))

theorem State.tickFields_now (s : State) : s.tickFields.now = s.now + 2 := by
  have hsame := s.tickFields_only.same .now 0 (by decide +kernel) (.inl (by decide +kernel))
  simpa only [Part.same] using hsame

theorem State.tick_now (s : State) : s.tick.now = s.now + 2 := by
  have hcal : s.tick.now = s.tickFields.tickHub.now :=
    s.tick_calendar_only.same .now 0 (by decide +kernel) (.inl (by decide +kernel))
  rw [hcal, State.tickHub_now, State.tickFields_now]

theorem State.tick_tally (s : State) :
    s.tick.hub.tally =
      (s.hub.tally + (s.hub.servo.tFrac + 3 * tallyInc s.hub.servo.hold s.hub.servo.fTrim s.hub.servo.pTrim) / 2 ^ 32) % 2 ^ 64 := by
  obtain ⟨⟨htally, hservo, -, -⟩, -, -⟩ := s.tickFields_only.same .tallyHub 0 (by decide +kernel) (.inl (by decide +kernel))
  obtain ⟨⟨hkept, -, -, -⟩, -, -⟩ := s.tick_calendar_only.same .tallyHub 0 (by decide +kernel) (.inl (by decide +kernel))
  rw [hkept, State.tickHub_tally, htally, hservo, trunc]

/-! ### What an idle step adds to a tick -/

/-- Where no plot of a field has a value to notify, none leaves. -/
theorem State.notifyField_of_none (h : ∀ e ∈ (s.field f).plots, e.2.notify = none) : s.notifyField f = s := by
  have hnone : (s.field f).plots.filter (fun e => e.2.notify.isSome) = [] :=
    List.filter_eq_nil_iff.mpr fun e he => by simp [h e he]
  unfold State.notifyField
  rw [hnone, List.map_nil, List.foldl_nil, ite_self]

theorem State.drain_of_events_nil (h : s.events = []) : s.drain = s := by
  simp only [State.drain, h, List.length_nil, State.drainLoop]

theorem State.idle_eq_tick (hw : s.hub.host.wait = []) (hh : s.hub.host.held = []) (he : s.events = [])
    (hn : ∀ f, ∀ e ∈ (s.field f).plots, e.2.notify = none) : s.idle = .next s.tick := by
  have hhost := s.tick_host
  have hevents := s.tick_events.trans he
  have hnotify : ∀ f, s.tick.notifyField f = s.tick := fun f =>
    State.notifyField_of_none (by rw [State.tick_plots]; exact hn f)
  have hfold : allFields.foldl (fun (t : State) f => t.notifyField f) s.tick = s.tick := by
    simp only [allFields, List.foldl_cons, List.foldl_nil, hnotify]
  unfold State.idle finish
  rw [State.serveHost_of_wait_nil (by rw [hhost, hw]), State.heldServe_of_held_nil (by rw [hhost, hh]), hfold,
    State.drain_of_events_nil hevents]

/-- Settles O3: the step is a tick, whose frame and clock the lemmas above give. -/
theorem idleStepPassesTime : Obligations.IdleStepPassesTime := by
  intro s hp hw hh he hn
  exact ⟨s.tick, (step_of_pending_nil hp).trans (State.idle_eq_tick hw hh he hn), s.tick_now, s.tick_tally, s.tick_frame⟩

end Sys2Proof.Machine
end

section
/-! The frames of accesses that meet an idle bus (R13, R604, R606, R692): what a read, a write of each window and a write of
each part of field register space can change, and nothing else. -/

namespace Sys2Proof.Machine

open Sys2Proof

variable {K : List Part} {F : FieldId → Prop} {P : PlotId → Prop} {s0 s : State}

/-! ### Which bin a request reaches (R687, R692) -/

theorem fieldPlace_of_binPlace {a x t row : Nat} (h : binPlace a = some (x, t, row)) :
    ∃ col, fieldPlace a = .bin (plotIx x) t row col := by
  unfold binPlace at h
  split at h
  next hin =>
    simp only [Option.some.injEq, Prod.mk.injEq] at h
    obtain ⟨rfl, rfl, rfl⟩ := h
    have hrim : ¬ a < 0x100000 := by omega
    have hplot : ¬ (0x1000000 ≤ a ∧ a < 0x1100000) := by omega
    exact ⟨(a - 0x2000000) % 128 / 4, by simp only [fieldPlace, hrim, hplot, hin, if_false, and_self, if_true]⟩
  next => exact absurd h (by simp)

theorem HostReq.bin_some {r : HostReq} {f : FieldId} {p : PlotId} {t g : Nat} (h : r.bin = some (f, p, t, g)) :
    r.field = some f ∧ ∃ x row, r.binPlace f = some (x, t, row) ∧ p = plotIx x := by
  simp only [HostReq.bin, Option.bind_eq_some_iff, Option.map_eq_some_iff, Prod.mk.injEq, Prod.exists] at h
  obtain ⟨f', hf, x, t', row, hb, rfl, rfl, rfl, -⟩ := h
  exact ⟨hf, x, row, hb, rfl⟩

theorem BinFits.of_none {r : HostReq} (h : r.bin = none) : BinFits K F P r := fun _ _ _ _ e => by
  rw [h] at e; exact absurd e (by simp)

/-- Where an offset of field f lies in a bin, BIN_WAIT of the bin's plot is among the parts named. -/
abbrev PlaceFits (K : List Part) (F : FieldId → Prop) (P : PlotId → Prop) (f : FieldId) (a : Nat) : Prop :=
  ∀ p t row col, fieldPlace a = .bin p t row col → Fits [.plotReg Reg.PLT_TINE_STALL.BIN_WAIT] K ∧ F f ∧ P p

theorem PlaceFits.of_place {f : FieldId} {a : Nat} {pl : FieldPlace} (h : fieldPlace a = pl)
    (hp : ∀ p t row col, pl ≠ .bin p t row col) : PlaceFits K F P f a :=
  fun p t row col e => absurd (h.symm.trans e) (hp p t row col)

theorem BinFits.write {fn a be : Nat} {d : List Byte} {ep : Bool} (hb : PlaceFits K F P (fnField fn) a) :
    BinFits K F P (.write fn false a d be ep) := by
  intro f p t g h
  obtain ⟨hf, x, row, hx, rfl⟩ := HostReq.bin_some h
  simp only [HostReq.field, Option.ite_none_left_eq_some, Option.some.injEq] at hf
  simp only [HostReq.binPlace, Option.ite_none_right_eq_some] at hx
  obtain ⟨col, hcol⟩ := fieldPlace_of_binPlace hx.2
  exact hf.2 ▸ hb _ _ _ _ hcol

theorem BinFits.reg {f : FieldId} {a n v : Nat} (hb : PlaceFits K F P f a) : BinFits K F P (.reg (.field f) a n v) := by
  intro f' p t g h
  obtain ⟨hf, x, row, hx, rfl⟩ := HostReq.bin_some h
  simp only [HostReq.field, Option.some.injEq] at hf
  simp only [HostReq.binPlace, Option.ite_none_right_eq_some] at hx
  obtain ⟨col, hcol⟩ := fieldPlace_of_binPlace hx.2
  exact hf ▸ hb _ _ _ _ hcol

/-- A read counts BIN_WAIT in the plot its own bin is of. -/
theorem BinFits.read {fn a n : Nat} (hK : Fits [.plotReg Reg.PLT_TINE_STALL.BIN_WAIT] K) (hF : F (fnField fn)) :
    BinFits K F (fun p => (HostReq.bin (.read fn false a n)).map (fun x => x.2.1) = some p) (.read fn false a n) := by
  intro f p t g h
  obtain ⟨hf, -⟩ := HostReq.bin_some h
  simp only [HostReq.field, Option.ite_none_left_eq_some, Option.some.injEq] at hf
  exact ⟨hK, hf.2 ▸ hF, by rw [h, Option.map_some]⟩

/-! ### Reads -/

theorem State.readData_hub_frame (b2 : Bool) (a n : Nat) (hK : Fits [.free] K) (ho : Only K F P s0 s) :
    Only K F P s0 (s.readData 0 b2 a n).1 := by
  cases b2 with
  | true => exact ho
  | false =>
    simp only [State.readData, Bool.false_eq_true, if_false]
    exact .ite (State.draw_only _ hK ho) ho

theorem State.readData_aperture_frame {fn : Nat} (a n : Nat) (hfn : fn ≠ 0) (hK : Fits [.host] K)
    (hread : ∀ x, Only K F P s0 (s.hbmRead (fnField fn) x n srcHost).1) : Only K F P s0 (s.readData fn true a n).1 := by
  simp only [State.readData, if_true, hfn, if_false]
  split
  · exact State.aerPoison_only _ _ hK (hread _)
  · exact hread _

theorem State.readData_register_frame {fn : Nat} (a n : Nat) (hfn : fn ≠ 0) (hK : Fits [.events, .binErr, .counts, .health] K)
    (hF : F (fnField fn)) (ho : Only K F P s0 s) : Only K F P s0 (s.readData fn false a n).1 := by
  simp only [State.readData, Bool.false_eq_true, if_false, hfn, false_and, fnSpace]
  exact State.fieldRead_only _ _ _ _ hK hF ho

theorem State.readDo_frame {fn : Nat} {b2 : Bool} {a n : Nat} (hK : Fits [.out] K)
    (hdata : ∀ t x m, Only K F P s0 t → Only K F P s0 (t.readData fn b2 x m).1) (ho : Only K F P s0 s) :
    Only K F P s0 (s.readDo fn b2 a n) := by
  unfold State.readDo
  exact .ite (State.emit_only _ _ hK ho) (.foldl _ _ (fun _ _ ht => State.emit_only _ _ hK (hdata _ _ _ ht)) ho)

/-- What MEMORY_READ changes on an idle bus: what its reads of data do, the completions, and the link. -/
theorem memoryRead_ends {fn : Fin 5} {b2 : Bool} {a n : Nat} (hw : s.hub.host.wait = []) (hh : s.hub.host.held = [])
    (hK : Fits [.events, .hubReg Reg.HUB_HOST_PHY_STATUS.STATE, .hubReg Reg.HUB_HOST_PHY_STATUS.WIDTH, .host] K)
    (hout : Fits [.out] K) (hb : BinFits K F P (.read fn.val b2 a n))
    (hdata : ∀ t x m, Only K F P s t → Only K F P s (t.readData fn.val b2 x m).1) :
    Ends K F P s (exec (.memoryRead fn b2 a n) s) :=
  .ite (.next (.refl _ _ _ s))
    (State.tlp_frame hw hh hK hb (fun _ hu => State.readDo_frame hout hdata hu) (.refl _ _ _ s))

/-! ### Writes of the windows -/

theorem State.apertureLine_frame {fn a l be : Nat} {d : List Byte} {ep : Bool} (hK : Fits [.host] K)
    (hline : ∀ t m x, Only K F P s0 t → Only K F P s0 (t.lineWriteMask (fnField fn) l m x ep srcHost).1)
    (ho : Only K F P s0 s) : Only K F P s0 (s.apertureLine fn a l d be ep) := by
  unfold State.apertureLine
  refine .ite ho ?_
  have hs := hline s ((List.range 128).foldl (fun (m : Nat) (j : Nat) => m + b2n (decide (a ≤ 128 * l + j) &&
    decide (128 * l + j < a + d.length) && bit be (128 * l + j - a)) * 2 ^ j) 0)
    ((List.range 128).map (fun j => if decide (a ≤ 128 * l + j) && decide (128 * l + j < a + d.length) &&
      bit be (128 * l + j - a) then (d[128 * l + j - a]?).getD 0 else 0)) ho
  exact .ite hs (State.aerDrop_only _ _ hK hs)

theorem State.apertureWrite_frame {fn a be : Nat} {d : List Byte} {ep : Bool} (hK : Fits [.host] K)
    (hline : ∀ t l m x, Only K F P s0 t → Only K F P s0 (t.lineWriteMask (fnField fn) l m x ep srcHost).1)
    (ho : Only K F P s0 s) : Only K F P s0 (s.apertureWrite fn a d be ep) :=
  .foldl _ _ (fun _ _ ht => State.apertureLine_frame hK (fun t => hline t _) ht) ho

/-- A posted write leaves an AER bit, or what the window it goes to leaves. -/
theorem State.writeDo_frame {fn a be : Nat} {b2 ep : Bool} {d : List Byte} (hK : Fits [.host] K)
    (hsram : b2 = true → fn = 0 → Only K F P s0 (s.sramPost a d be))
    (haperture : ∀ x, b2 = true → fn ≠ 0 → Only K F P s0 (s.apertureWrite fn x d be ep))
    (hregister : b2 = false → Only K F P s0 (s.spaceWrite true (fnSpace fn) a d.length (leNat d)).bootSettle)
    (ho : Only K F P s0 s) : Only K F P s0 (s.writeDo fn b2 a d be ep) := by
  have hdrop := State.aerDrop_only s fn hK ho
  have hpoison := State.aerPoison_only s fn hK ho
  unfold State.writeDo
  refine .ite hdrop ?_
  cases b2 with
  | true =>
    rw [if_pos rfl]
    by_cases hfn : fn = 0
    · rw [if_pos hfn]; exact hsram rfl hfn
    · rw [if_neg hfn]; exact haperture _ rfl hfn
  | false =>
    rw [if_neg (by decide)]
    exact .ite hdrop (.ite hpoison (hregister rfl))

/-- What MEMORY_WRITE changes on an idle bus: what its window does, AER, and the link. -/
theorem memoryWrite_ends {fn : Fin 5} {b2 ep : Bool} {a be : Nat} {d : List Byte} (hw : s.hub.host.wait = [])
    (hh : s.hub.host.held = [])
    (hK : Fits [.events, .hubReg Reg.HUB_HOST_PHY_STATUS.STATE, .hubReg Reg.HUB_HOST_PHY_STATUS.WIDTH, .host] K)
    (hb : BinFits K F P (.write fn.val b2 a d be ep))
    (hdo : ∀ u, Only K F P s u → Only K F P s (u.writeDo fn.val b2 a d be ep)) :
    Ends K F P s (exec (.memoryWrite fn b2 a d be ep) s) :=
  .ite (.next (.refl _ _ _ s)) (State.tlp_frame hw hh hK hb hdo (.refl _ _ _ s))

/-! ### Writes of registers, where the sequencer is asked nothing -/

section Registers

variable {fn : Fin 5} {a be n v : Nat} {ep : Bool} {d : List Byte}

/-- The parts of an access's own path: the link, AER and the waiting requests; bring-up is not among the parts. -/
structure PathFits (K : List Part) : Prop where
  link : Fits [.events, .hubReg Reg.HUB_HOST_PHY_STATUS.STATE, .hubReg Reg.HUB_HOST_PHY_STATUS.WIDTH, .host] K
  seed : Part.covered K .seed = false
  farSeed : Part.covered K (.far .seed) = false

/-- No access waits, none is held, and the sequencer is asked nothing. -/
structure State.BusIdle (s : State) : Prop where
  wait : s.hub.host.wait = []
  held : s.hub.host.held = []
  req : s.hub.seed.req = []

/-- A write of a register space has a frame, whoever makes it and whatever it leaves. -/
abbrev WriteFits (K : List Part) (F : FieldId → Prop) (P : PlotId → Prop) (s : State) (sp : Space) (a n : Nat) : Prop :=
  ∀ u host x, Only K F P s u → Only K F P s (u.spaceWrite host sp a n x)

theorem WriteFits.settled {sp : Space} {u : State} {host : Bool} {x : Nat} (h : WriteFits K F P s sp a n)
    (hi : s.BusIdle) (hK : PathFits K) (hu : Only K F P s u) : Only K F P s (u.spaceWrite host sp a n x).bootSettle :=
  (h u host x hu).settled hi.req hK.seed hK.farSeed

theorem State.writeDo_register_frame {u : State} (hi : s.BusIdle) (hK : PathFits K)
    (h : WriteFits K F P s (fnSpace fn.val) a d.length) (hu : Only K F P s u) :
    Only K F P s (u.writeDo fn.val false a d be ep) :=
  State.writeDo_frame (hK.link.one_of (by simp)) (fun e => absurd e (by decide)) (fun _ e => absurd e (by decide))
    (fun _ => h.settled hi hK hu) hu

theorem memoryWrite_register_ends (hi : s.BusIdle) (hK : PathFits K) (hb : BinFits K F P (.write fn.val false a d be ep))
    (h : WriteFits K F P s (fnSpace fn.val) a d.length) : Ends K F P s (exec (.memoryWrite fn false a d be ep) s) :=
  memoryWrite_ends hi.wait hi.held hK.link hb (fun _ hu => State.writeDo_register_frame hi hK h hu)

theorem registerWrite_host_ends (hi : s.BusIdle) (hK : PathFits K)
    (hb : BinFits K F P (.write fn.val false a (leBytes n v) (2 ^ n - 1) false))
    (h : WriteFits K F P s (fnSpace fn.val) a n) : Ends K F P s (exec (.registerWrite (.host fn) (fnSpace fn.val) a n v) s) := by
  by_cases hok : accessOk a n = true
  · have hlen : WriteFits K F P s (fnSpace fn.val) a (leBytes n v).length := by rw [leBytes_length]; exact h
    have htlp := State.tlp_frame (r := .write fn.val false a (leBytes n v) (2 ^ n - 1) false) (src := fn.val) hi.wait hi.held
      hK.link hb (fun _ hu => State.writeDo_register_frame hi hK hlen hu) (.refl _ _ _ s)
    rw [← execRegisterWrite_host hok] at htlp
    exact htlp
  · have hnone := execRegisterWrite_of_not_ok (s := s) (v := v) (ag := .host fn) (sp := fnSpace fn.val)
      (Bool.eq_false_of_not_eq_true hok)
    exact ⟨s, .inl hnone, .refl _ _ _ s⟩

theorem registerWrite_yarzin_ends {sp : Space} (hi : s.BusIdle) (hK : PathFits K)
    (hb : ∀ x, BinFits K F P (.reg sp a n x)) (h : WriteFits K F P s sp a n) :
    Ends K F P s (exec (.registerWrite .yarzin sp a n v) s) :=
  .ite (.next (.refl _ _ _ s)) (.finish (State.request_frame hi.wait (hK.link.one_of (by simp)) (hb _)
    (h.settled hi hK (.refl _ _ _ s)) (.refl _ _ _ s)))

/-- The three commands by which the host and Yarzin write a register of a field, from the frame of the write itself. -/
theorem fieldRegisterWrites_end (hi : s.BusIdle) (hfn : fn ≠ 0) (hK : PathFits K)
    (hb : PlaceFits K F P (fnField fn.val) a)
    (h : ∀ u host m x, Only K F P s u → Only K F P s (u.fieldWrite (fnField fn.val) host a m x)) :
    ∀ x ∈ ([.memoryWrite fn false a d be ep, .registerWrite (.host fn) (fnSpace fn.val) a n v,
      .registerWrite .yarzin (fnSpace fn.val) a n v] : List Instr), Ends K F P s (exec x s) := by
  have hsp : fnSpace fn.val = .field (fnField fn.val) := if_neg (Fin.val_ne_iff.mpr hfn)
  have hwrite : ∀ m, WriteFits K F P s (fnSpace fn.val) a m := fun m u host x hu => by
    rw [hsp]; exact h u host m x hu
  have hreg : ∀ x, BinFits K F P (.reg (fnSpace fn.val) a n x) := fun x => by rw [hsp]; exact .reg hb
  exact List.forall_mem_cons.mpr ⟨memoryWrite_register_ends hi hK (.write hb) (hwrite _),
    List.forall_mem_cons.mpr ⟨registerWrite_host_ends hi hK (.write hb) (hwrite n),
      List.forall_mem_singleton.mpr (registerWrite_yarzin_ends hi hK hreg (hwrite n))⟩⟩

end Registers

/-! ### Writes of hub register space that ask nothing of the sequencer (R552, R554, R573, R578, R581) -/

/-- An access touches none of the fields that ask something of the bring-up sequencer. -/
abbrev AsksNothing (a n : Nat) : Prop :=
  ∀ k ∈ ([Reg.SEED_STAGE_GO.STAGE, Reg.SEED_CTL.HOST_IMAGE, Reg.SEED_CTL.IMAGES_READY, Reg.HUB_JTAG_RESP.SIG_S,
    Reg.HUB_RESET_CTL.PART, Reg.HUB_RESET_CTL.WARM] : List RegField), k.hit 0 0 a n = false

theorem RegField.wrote_of_not_hit {k : RegField} {n i off bytes value : Nat} (h : k.hit n i off bytes = false) :
    k.wrote n i off bytes value = none := by
  simp only [RegField.hit, RegField.part, Option.isSome_eq_false_iff, Option.isNone_iff_eq_none,
    ite_eq_right_iff, reduceCtorEq, imp_false] at h
  simp only [RegField.wrote, RegField.part, h, if_false, Option.map_none]

theorem RegField.one_of_not_hit {k : RegField} {n i off bytes value : Nat} (h : k.hit n i off bytes = false) :
    k.one n i off bytes value = false := by
  simp [RegField.one, RegField.wrote_of_not_hit h]

theorem State.hubBootWrite_of_asksNothing {a n v : Nat} (h : AsksNothing a n) : s.hubBootWrite a n v = s := by
  simp only [AsksNothing, List.forall_mem_cons, List.not_mem_nil, false_imp_iff, implies_true, and_true] at h
  obtain ⟨hstage, himage, hready, hsig, hpart, hwarm⟩ := h
  simp only [State.hubBootWrite, RegField.wrote_of_not_hit hstage, RegField.one_of_not_hit himage,
    RegField.one_of_not_hit hready, hsig, RegField.wrote_of_not_hit hpart, RegField.one_of_not_hit hwarm, Bool.false_and,
    Bool.false_eq_true, if_false]

/-- The parts a write of hub register space can change where it asks nothing of the sequencer. -/
def hubWriteParts : List Part :=
  ([.free, .events, .out, .anyHubReg, .msix, .light, .hostTx, .host, .hubSlots, .power, .hubFx,
    .reg Reg.FLD_EVT_IDX.CONS, .reg Reg.FLD_EVT_IDX.PROD, .reg Reg.FLD_EVT_RING.BASE, .reg Reg.FLD_EVT_RING.ENABLE,
    .reg Reg.FLD_EVT_RING.SIZE_LOG] : List Part) ++
  ([.reg Reg.HDL_ENGINE_STATUS.DARK, .reg Reg.HDL_ENGINE_STATUS.INLET_A_OK, .reg Reg.HDL_ENGINE_STATUS.INLET_B_OK,
    .reg Reg.HDL_ENGINE_STATUS.SRC, .reg Reg.HDL_ENGINE_STATUS.SWITCHING, .reg Reg.INJ_ARITH.ARM,
    .reg Reg.INJ_PT.ARM, .reg Reg.INJ_PT.DONE, .reg Reg.MBX_RIM_IN_META.FULL, .reg Reg.MBX_RIM_OUT_ACK.CODE,
    .reg Reg.MBX_RIM_OUT_ACK.DONE, .reg Reg.MBX_RIM_OUT_META.PENDING, .reg Reg.MBX_RIM_OUT_META.REFUSED,
    .reg Reg.RTE_COMB_STAT.MERGED, .reg Reg.RTE_COMB_STAT.PEAK, .reg Reg.RTE_LINK_CNT.LOST] : List Part) ++
  ([.reg Reg.RTE_LINK_CNT.NAKS, .reg Reg.RTE_LINK_CNT.REPLAYED, .reg Reg.RTE_LINK_CNT.TX_FLITS,
    .reg Reg.RTE_LINK_CREDIT.RES, .reg Reg.RTE_LINK_CREDIT.SHARED, .reg Reg.RTE_LINK_STATUS.PRESERVED,
    .reg Reg.RTE_LINK_STATUS.RESULT, .reg Reg.RTE_LINK_STATUS.STATE, .reg Reg.THM_FIELD_STATUS.POINT, .slot,
    .plotReg Reg.MBX_PLOT_IN_META.FULL, .plotReg Reg.MBX_PLOT_OUT_ACK.CODE, .plotReg Reg.MBX_PLOT_OUT_ACK.DONE,
    .plotReg Reg.MBX_PLOT_OUT_META.PENDING, .plotReg Reg.MBX_PLOT_OUT_META.REFUSED, .ports] : List Part) ++
  ([.router, .gateway, .sheaf, .health, .mirror, .tally, .hubLost, .rimSlots, .thermal, .rimFx] : List Part)

theorem State.hubEffects_frame {host : Bool} {gov a n v : Nat} (hq : AsksNothing a n) (hK : Fits hubWriteParts K)
    (hF : ∀ f, F f) (hP : ∀ p, P p) (ho : Only K F P s0 s) : Only K F P s0 (s.hubEffects host gov a n v) := by
  unfold State.hubEffects
  extract_lets s1 s2 s3 s4 s5 s6
  have h1 : Only K F P s0 s1 :=
    .foldl _ _ (fun _ _ ht => State.hubMbxWrite_only _ _ _ _ _ _ (Fits.trans (by decide +kernel) hK) hF hP ht) ho
  have h2 : Only K F P s0 s2 := by
    show Only K F P s0 ((s1.hubHostWrite a n v).hubBootWrite a n v)
    rw [State.hubBootWrite_of_asksNothing hq]
    exact State.hubHostWrite_only _ _ _ _ (Fits.trans (by decide +kernel) hK) hF h1
  have h3 : Only K F P s0 s3 :=
    State.hubInjWrite_only _ _ _ _ _ (Fits.trans (by decide +kernel) hK) hF
      (State.hubInjWrite_only _ _ _ _ _ (Fits.trans (by decide +kernel) hK) hF h2)
  have h4 : Only K F P s0 s4 := .ite (State.injUnlockWrite_only _ _ _ _ (Fits.trans (by decide +kernel) hK) hF h3) h3
  have h5 : Only K F P s0 s5 :=
    .ite (State.modeFromReg_only _ (Fits.trans (by decide +kernel) hK) hF
      (State.limitChange_only _ (Fits.trans (by decide +kernel) hK) h4)) h4
  have h6 : Only K F P s0 s6 := .ite (State.governOff_only _ (Fits.trans (by decide +kernel) hK) hF h5) h5
  exact State.retrainDo_only _ (Fits.trans (by decide +kernel) hK) h6

theorem State.hubWrite_frame {host : Bool} {a n v : Nat} (hq : AsksNothing a n) (hK : Fits hubWriteParts K)
    (hF : ∀ f, F f) (hP : ∀ p, P p) (ho : Only K F P s0 s) : Only K F P s0 (s.hubWrite host a n v) := by
  have hevents : Fits [.events] K := Fits.trans (by decide +kernel) hK
  have hregs : Fits [.anyHubReg] K := Fits.trans (by decide +kernel) hK
  unfold State.hubWrite
  refine State.hubEffects_frame hq hK hF hP (.foldl _ _ (fun t k ht => .foldl _ _ (fun u x hu => ?_) ht) ?_)
  · dsimp only
    split
    · exact State.hubTake_only _ _ _ _ _ _ _ _ hregs hu
    · exact hu
  · split
    · exact State.raiseHub_only _ _ _ _ hevents ho
    · exact ho

end Sys2Proof.Machine
end

section
/-! The frame of the package, mailbox, register, host-port and management commands (O46). -/

namespace Sys2Proof.Machine

open Sys2Proof

variable {K : List Part} {F : FieldId → Prop} {P : PlotId → Prop} {s : State}

/-- The four ways a register of the hub is written, where the sequencer is asked nothing: each is `hubWrite` or nothing. -/
theorem hubRegisterWrites_end {a n v be : Nat} {d : List Byte} {ep : Bool} (hi : s.BusIdle) (hK : PathFits K)
    (hparts : Fits hubWriteParts K) (hF : ∀ f, F f) (hP : ∀ p, P p) (hn : AsksNothing a n) (hd : AsksNothing a d.length) :
    ∀ x ∈ ([.memoryWrite 0 false a d be ep, .registerWrite (.host 0) .hub a n v, .registerWrite .yarzin .hub a n v,
      .registerWrite .jtag .hub a n v] : List Instr), Ends K F P s (exec x s) := by
  have hwrite : ∀ m, AsksNothing a m → WriteFits K F P s .hub a m := fun m hm u host x hu =>
    State.hubWrite_frame hm hparts hF hP hu
  have htester : Ends K F P s (exec (.registerWrite .jtag .hub a n v) s) :=
    .ite (.next (.refl _ _ _ s)) (.finish (Only.settled hi.req hK.seed hK.farSeed
      (.ite (hwrite n hn s true _ (.refl _ _ _ s)) (.refl _ _ _ s))))
  exact List.forall_mem_cons.mpr ⟨memoryWrite_register_ends (fn := 0) hi hK (.of_none rfl) (hwrite _ hd),
    List.forall_mem_cons.mpr ⟨registerWrite_host_ends (fn := 0) hi hK (.of_none rfl) (hwrite n hn),
      List.forall_mem_cons.mpr ⟨registerWrite_yarzin_ends hi hK (fun _ => .of_none rfl) (hwrite n hn),
        List.forall_mem_singleton.mpr htester⟩⟩⟩

/-- A drill reaches the registers of its own plot's window, and nothing else. -/
theorem State.agentWrite_drill_frame {f : FieldId} {p : PlotId} {sp : Space} {a n v : Nat}
    (hwrite : ∀ o x, Only K F P s (s.plotWrite f p true o n x)) : Only K F P s (s.agentWrite (.drill f p) sp a n v) := by
  cases sp with
  | hub => exact .refl _ _ _ s
  | field g => exact .ite (hwrite _ _) (.refl _ _ _ s)

/-- Settles O46: the frame of each command's meaning, and for accesses on an idle bus the frame of what the address reaches. -/
theorem packageFrame : Obligations.PackageFrame := by
  unfold Obligations.PackageFrame
  refine ⟨?_, ?_, ?_, ?_, ?_, ?_, ?_, ?_, ?_, ?_, ?_, ?_, ?_, ?_, ?_, ?_, ?_, ?_, ?_, ?_, ?_, ?_, ?_, ?_, ?_, ?_, ?_, ?_, ?_,
    ?_, ?_, ?_, ?_, ?_⟩
  -- the commands by their own meanings
  · exact fun s a sp off bytes value => execRegisterWrite_only a sp off bytes value s (by decide +kernel) (fun _ => trivial)
      (fun _ => trivial) (.refl _ _ _ s)
  · exact fun s => execHeartbeat_only s (by decide +kernel) (fun _ => trivial) (.refl _ _ _ s)
  · exact fun s k => execD2dModuleLoss_only k s (by decide +kernel) (.refl _ _ _ s)
  · exact fun s ep => execMailboxSend_only ep s (by decide +kernel) (fun _ => trivial) (fun _ => trivial) (.refl _ _ _ s)
  · exact fun s ep => execMailboxDeliver_only ep s (by decide +kernel) (fun _ => trivial) (fun _ => trivial) (.refl _ _ _ s)
  · exact fun s ep code => execMailboxInAck_only ep code s (by decide +kernel) (fun _ => trivial) (fun _ => trivial)
      (.refl _ _ _ s)
  · exact fun s fn b2 a n => execMemoryRead_only fn b2 a n s (by decide +kernel) (fun _ => trivial) (fun _ => trivial)
      (.refl _ _ _ s)
  · exact fun s fn b2 a d be ep => execMemoryWrite_only fn b2 a d be ep s (by decide +kernel) (fun _ => trivial)
      (fun _ => trivial) (.refl _ _ _ s)
  · exact fun s fn => execFunctionLevelReset_only fn s (by decide +kernel) (fun _ => trivial) (fun _ => trivial) (.refl _ _ _ s)
  · exact fun s fn d3 => execPowerStateChange_only fn d3 s (by decide +kernel) (.refl _ _ _ s)
  · exact fun s fn cls cfg => execMsixMessage_only fn cls cfg s (by decide +kernel) (.refl _ _ _ s)
  · exact fun s sp v => execEvtConsWrite_only sp v s (by decide +kernel) (fun _ => trivial) (.refl _ _ _ s)
  · exact fun s sp enable sizeLog base => execEvtRingConfig_only sp enable sizeLog base s (by decide +kernel)
      (fun _ => trivial) (.refl _ _ _ s)
  · exact fun s node off words => execMgmtRead_only node off words s (by decide +kernel) (fun _ => trivial) (.refl _ _ _ s)
  · exact fun s f arrive => execMgmtReadServe_only f arrive s (by decide +kernel) rfl (fun _ => trivial) (.refl _ _ _ s)
  · exact fun s pkt => execMgmtReply_only pkt s (by decide +kernel) (fun _ => trivial) (.refl _ _ _ s)
  · exact fun s => execMgmtTimeoutExpiry_only s (by decide +kernel) (.refl _ _ _ s)
  · exact fun s f => execEventForward_only f s (by decide +kernel) rfl (.refl _ _ _ s)
  · exact fun s f pkt => execForwardedEvent_only f pkt s (by decide +kernel) rfl (.refl _ _ _ s)
  · exact fun s f => execFwdDiscardTimeout_only f s (by decide +kernel) rfl (.refl _ _ _ s)
  · exact fun s => execAspmL1Entry_only s (by decide +kernel) (.refl _ _ _ s)
  · exact fun s ok => execHostLinkTrained_only ok s (by decide +kernel) (.refl _ _ _ s)
  · exact fun s => List.forall_mem_cons.mpr ⟨execHostLinkRecovery_only s (by decide +kernel) (.refl _ _ _ s),
      List.forall_mem_singleton.mpr (execHostRetrain_only s (by decide +kernel) (.refl _ _ _ s))⟩
  -- reads on an idle bus: of the hub, of HBM through an aperture, of a field's registers
  · exact fun s a n b2 hw hh => memoryRead_ends hw hh (by decide +kernel) (by decide +kernel) (.of_none (by cases b2 <;> rfl))
      (fun _ _ _ ht => State.readData_hub_frame _ _ _ (by decide +kernel) ht)
  · exact fun s fn a n hw hh hfn => memoryRead_ends hw hh (by decide +kernel) (by decide +kernel) (.of_none rfl)
      (fun _ _ _ ht => State.readData_aperture_frame _ _ (Fin.val_ne_iff.mpr hfn) (by decide +kernel)
        (fun _ => State.hbmRead_only _ _ _ _ _ (by decide +kernel) rfl ht))
  · exact fun s fn a n hw hh hfn => memoryRead_ends hw hh (by decide +kernel) (by decide +kernel) (.read (by decide +kernel) rfl)
      (fun _ _ _ ht => State.readData_register_frame _ _ (Fin.val_ne_iff.mpr hfn) (by decide +kernel) rfl ht)
  -- writes of memory on an idle bus: of hub SRAM, of HBM through an aperture
  · exact fun s a be d ep hw hh => memoryWrite_ends hw hh (by decide +kernel) (.of_none rfl) (fun u hu =>
      State.writeDo_frame (by decide +kernel) (fun _ _ => State.sramPost_only _ _ _ _ (by decide +kernel) hu)
        (fun _ _ h => absurd rfl h) (fun h => absurd h (by decide)) hu)
  · exact fun s fn a be d ep hw hh hfn => memoryWrite_ends hw hh (by decide +kernel) (.of_none rfl) (fun u hu =>
      State.writeDo_frame (by decide +kernel) (fun _ h => absurd h (Fin.val_ne_iff.mpr hfn))
        (fun _ _ _ => State.apertureWrite_frame (by decide +kernel)
          (fun _ _ _ _ ht => State.lineWriteMask_only _ _ _ _ _ _ _ (by decide +kernel) rfl ht) hu)
        (fun h => absurd h (by decide)) hu)
  -- writes of a field's registers on an idle bus, by the part of field register space
  · exact fun s fn a n v be d ep hw hh hr hfn hpl =>
      fieldRegisterWrites_end ⟨hw, hh, hr⟩ hfn ⟨by decide +kernel, by decide +kernel, by decide +kernel⟩
        (.of_place hpl (by simp))
        (fun _ _ _ _ hu => State.fieldWrite_only _ _ _ _ _ _ (by decide +kernel) rfl (fun _ => trivial) hu)
  · exact fun s fn a n v be d ep p o hw hh hr hfn hpl =>
      fieldRegisterWrites_end ⟨hw, hh, hr⟩ hfn ⟨by decide +kernel, by decide +kernel, by decide +kernel⟩
        (.of_place hpl (by simp))
        (fun _ _ _ _ hu => by
          rw [State.fieldWrite, hpl]
          exact .ite hu (State.plotWrite_only _ _ _ _ _ _ _ (by decide +kernel) rfl rfl hu))
  · exact fun s fn a n v be d ep p t r c hw hh hr hfn hpl =>
      fieldRegisterWrites_end ⟨hw, hh, hr⟩ hfn ⟨by decide +kernel, by decide +kernel, by decide +kernel⟩
        (fun p' _ _ _ e => ⟨by decide +kernel, rfl, by rw [hpl] at e; injection e with e; exact e.symm⟩)
        (fun _ _ _ _ hu => by
          rw [State.fieldWrite, hpl]
          exact .ite (State.binWindowWrite_only _ _ _ _ _ _ _ _ (by decide +kernel) rfl hu) hu)
  · exact fun s fn a n v be d ep hw hh hr hfn hpl =>
      fieldRegisterWrites_end ⟨hw, hh, hr⟩ hfn ⟨by decide +kernel, by decide +kernel, by decide +kernel⟩
        (.of_place hpl (by simp))
        (fun _ _ _ _ hu => by rw [State.fieldWrite, hpl]; exact hu)
  -- writes of the hub's registers, and of a drill
  · exact fun s a n v be d ep hw hh hr hq =>
      hubRegisterWrites_end ⟨hw, hh, hr⟩ ⟨by decide +kernel, by decide +kernel, by decide +kernel⟩ (by decide +kernel)
        (fun _ => trivial) (fun _ => trivial) (fun k hk => (hq k hk).1) (fun k hk => (hq k hk).2)
  · exact fun s f p sp a n v => .ite (.next (.refl _ _ _ s)) (.ite (.finish (State.agentWrite_drill_frame (fun o x =>
      State.plotWrite_only _ _ _ _ _ _ _ (by decide +kernel) rfl rfl (.refl _ _ _ s)))) (.next (.refl _ _ _ s)))

end Sys2Proof.Machine
end


section
/-! What every command keeps of the fields' service states (R29): until a reset of the package is counted, a DARK field is DARK and
an UNFIT one UNFIT or DARK. -/

namespace Sys2Proof.Machine

set_option Elab.async false

open Sys2Proof

/-! ### Service states that last -/

/-- A service state b may follow a without a reset of the package: DARK stays, UNFIT stays or becomes DARK. -/
def SvcLasts (a b : Nat) : Prop := (a = svcDark → b = svcDark) ∧ (a = svcUnfit → b = svcUnfit ∨ b = svcDark)

theorem SvcLasts.refl (a : Nat) : SvcLasts a a := ⟨id, .inl⟩

theorem SvcLasts.trans {a b c : Nat} (h : SvcLasts a b) (h' : SvcLasts b c) : SvcLasts a c :=
  ⟨fun e => h'.1 (h.1 e), fun e => (h.2 e).elim h'.2 (fun d => .inr (h'.1 d))⟩

theorem SvcLasts.of_not {a : Nat} (b : Nat) (hd : a ≠ svcDark) (hu : a ≠ svcUnfit) : SvcLasts a b :=
  ⟨fun e => absurd e hd, fun e => absurd e hu⟩

theorem SvcLasts.dark (a : Nat) : SvcLasts a svcDark := ⟨fun _ => rfl, fun _ => .inr rfl⟩

theorem SvcLasts.unfit {a : Nat} (hd : a ≠ svcDark) : SvcLasts a svcUnfit := ⟨fun e => absurd e hd, fun _ => .inl rfl⟩

/-- From s to t no reset of the package is forgotten, and where none is counted the service states of all fields but those of F
last. -/
structure Lasting (F : FieldId → Prop) (s t : State) : Prop where
  resets : s.hub.seed.resets ≤ t.hub.seed.resets
  svc : t.hub.seed.resets = s.hub.seed.resets → ∀ f, ¬ F f → SvcLasts (s.svc f) (t.svc f)

/-- The fields whose service states need not last: none. -/
abbrev NoField : FieldId → Prop := fun _ => False

variable {K : List Part} {F : FieldId → Prop} {s0 s t u : State} {f : FieldId}

/-! ### How it composes -/

theorem Lasting.of_same (hr : t.hub.seed.resets = s.hub.seed.resets) (hv : ∀ f, t.svc f = s.svc f) : Lasting F s t :=
  ⟨Nat.le_of_eq hr.symm, fun _ f _ => by rw [hv f]; exact .refl _⟩

theorem Lasting.refl (F : FieldId → Prop) (s : State) : Lasting F s s := .of_same rfl (fun _ => rfl)

theorem Lasting.trans (h : Lasting F s t) (h' : Lasting F t u) : Lasting F s u :=
  ⟨Nat.le_trans h.resets h'.resets, fun e f hf => by
    have hs := h.resets
    have ht := h'.resets
    exact (h.svc (by omega) f hf).trans (h'.svc (by omega) f hf)⟩

/-- Fields that are neither DARK nor UNFIT need no exemption. -/
theorem Lasting.exempt (h : Lasting F s t) (hF : ∀ f, F f → s.svc f ≠ svcDark ∧ s.svc f ≠ svcUnfit) : Lasting NoField s t :=
  ⟨h.resets, fun e f _ => by
    by_cases hf : F f
    · exact .of_not _ (hF f hf).1 (hF f hf).2
    · exact h.svc e f hf⟩

/-- Neither the service states nor the count of resets is among the parts. -/
def apart (K : List Part) : Bool :=
  spares K .anyHubReg Reg.HUB_FIELD_STATE.STATE && !Part.covered K .seed && !Part.covered K (.far .seed)

theorem Only.svc_of_apart {G : FieldId → Prop} {P : PlotId → Prop} (ho : Only K G P s t) (hK : apart K = true) (f : FieldId) :
    t.svc f = s.svc f := by
  simp only [apart, Bool.and_eq_true] at hK
  obtain ⟨⟨hs, -⟩, -⟩ := hK
  exact ho.hreg _ hs 0 f

theorem Only.seed_same {G : FieldId → Prop} {P : PlotId → Prop} (ho : Only K G P s t) (hseed : Part.covered K .seed = false)
    (hfar : Part.covered K (.far .seed) = false) : t.hub.seed = s.hub.seed :=
  (ho.same .seed 0 hfar (.inl hseed)).1

theorem Lasting.of_only (ho : Only K (fun _ => True) (fun _ => True) s t) (hK : apart K = true) : Lasting F s t := by
  have hsvc := ho.svc_of_apart hK
  simp only [apart, Bool.and_eq_true, Bool.not_eq_true'] at hK
  obtain ⟨⟨-, hseed⟩, hfar⟩ := hK
  exact .of_same (by rw [ho.seed_same hseed hfar]) hsvc

/-- An operation whose frame names neither part. -/
theorem Lasting.only (h : Lasting F s0 s) (ho : Only K (fun _ => True) (fun _ => True) s s → Only K (fun _ => True) (fun _ => True) s t)
    (hK : apart K = true := by decide +kernel) : Lasting F s0 t :=
  h.trans (.of_only (ho (.refl _ _ _ s)) hK)

theorem Lasting.ite {c : Prop} [Decidable c] (ha : c → Lasting F s0 s) (hb : ¬ c → Lasting F s0 t) :
    Lasting F s0 (if c then s else t) := by
  split
  · exact ha ‹_›
  · exact hb ‹_›

theorem Lasting.foldl {α : Type} (l : List α) (g : State → α → State)
    (hg : ∀ t, ∀ a ∈ l, Lasting F s0 t → Lasting F s0 (g t a)) (h : Lasting F s0 s) : Lasting F s0 (l.foldl g s) := by
  induction l generalizing s with
  | nil => exact h
  | cons a l ih => exact ih (fun t b hb => hg t b (List.mem_cons_of_mem a hb)) (hg s a List.mem_cons_self h)

theorem Lasting.foldl_fst {α β : Type} (l : List α) (g : State × β → α → State × β) (i : State × β)
    (hg : ∀ t, ∀ a ∈ l, Lasting F s0 t.1 → Lasting F s0 (g t a).1) (h : Lasting F s0 i.1) :
    Lasting F s0 (l.foldl g i).1 := by
  induction l generalizing i with
  | nil => exact h
  | cons a l ih => exact ih _ (fun t b hb => hg t b (List.mem_cons_of_mem a hb)) (hg i a List.mem_cons_self h)

/-! ### Primitive updates -/

theorem Lasting.updSeed (g : SeedUnit → SeedUnit) (h : Lasting F s0 s)
    (hg : (g s.hub.seed).resets = s.hub.seed.resets := by rfl) : Lasting F s0 (s.updSeed g) :=
  h.trans (.of_same hg (fun _ => rfl))

theorem Lasting.updHub (g : Hub → Hub) (h : Lasting F s0 s) (hr : (g s.hub).regs = s.hub.regs := by rfl)
    (hg : (g s.hub).seed = s.hub.seed := by rfl) : Lasting F s0 (s.updHub g) :=
  h.trans (.of_same (congrArg SeedUnit.resets hg) (fun f => by
    simp only [State.svc, State.hreg, State.updHub, Hub.reg, hr]))

theorem Lasting.updField (g : Field → Field) (h : Lasting F s0 s) : Lasting F s0 (s.updField f g) :=
  h.trans (.of_same rfl (fun _ => rfl))

theorem Lasting.updMem (g : Memories → Memories) (h : Lasting F s0 s) : Lasting F s0 (s.updMem g) :=
  h.trans (.of_same rfl (fun _ => rfl))

/-- A register of the hub at another place than the service state. -/
theorem Lasting.hset (k : RegField) (v n i : Nat) (h : Lasting F s0 s)
    (hk : apart [.hubReg k] = true := by decide +kernel) : Lasting F s0 (s.hset k v n i) :=
  h.only (State.hset_only k v n i (Fits.refl _)) hk

theorem Lasting.raiseHub (e : EvKind) (l : List (Nat × Nat)) (b : Bool) (h : Lasting F s0 s) : Lasting F s0 (s.raiseHub e l b) :=
  h.trans (.of_same rfl (fun _ => rfl))

theorem State.svc_setSvc_other {g : FieldId} (v : Nat) (b : Bool) (hg : g ≠ f) : (s.setSvc f v b).svc g = s.svc g := by
  have hkey : Reg.HUB_FIELD_STATE.STATE.key 0 f ≠ Reg.HUB_FIELD_STATE.STATE.key 0 g := by
    have hne : f.val ≠ g.val := fun e => hg (Fin.ext e.symm)
    simp only [RegField.key, Reg.HUB_FIELD_STATE.STATE]
    omega
  have hset : ∀ w, ((s.hset Reg.HUB_FIELD_STATE.STATE w 0 f).raiseHub Ev.HUB_FIELD_STATE [(1, f), (1, s.svc f), (1, w)] b).svc g = s.svc g :=
    fun w => State.hreg_hset_ne _ _ _ _ _ _ _ _ hkey
  unfold State.setSvc
  simp only
  split
  · rfl
  · split
    · exact ((State.hardEvent_only (F := fun _ => True) (P := fun _ => True) _ f 2 b (Fits.refl _) trivial
        (Only.refl _ _ _ _)).svc_of_apart (by decide +kernel) g).trans (hset v)
    · exact hset v

theorem State.svc_setSvc_injected (v : Nat) (b : Bool) (h : v < 16) : (s.setSvc f v b).svc f = v := by
  have hset : ((s.hset Reg.HUB_FIELD_STATE.STATE v 0 f).raiseHub Ev.HUB_FIELD_STATE [(1, f), (1, s.svc f), (1, v)] b).svc f = v := by
    rw [State.raiseHub_svc, State.svc, State.hreg_hset]
    exact Nat.mod_eq_of_lt h
  unfold State.setSvc
  simp only
  split
  · assumption
  · split
    · exact ((State.hardEvent_only (F := fun _ => True) (P := fun _ => True) _ f 2 b (Fits.refl _) trivial
        (Only.refl _ _ _ _)).svc_of_apart (by decide +kernel) f).trans hset
    · exact hset

theorem State.setSvc_seed (v : Nat) (b : Bool) : (s.setSvc f v b).hub.seed = s.hub.seed :=
  (State.setSvc_only (F := fun _ => True) (P := fun _ => True) s f v b (Fits.refl _) trivial (Only.refl _ _ _ s)).seed_same
    (by decide +kernel) (by decide +kernel)

/-- A service state is set: where it lasts, or of an exempt field. -/
theorem Lasting.setSvc (v : Nat) (b : Bool) (hv : v < 16) (hf : F f ∨ SvcLasts (s.svc f) v) (h : Lasting F s0 s) :
    Lasting F s0 (s.setSvc f v b) :=
  h.trans ⟨Nat.le_of_eq (by rw [State.setSvc_seed]), fun _ g hg => by
    by_cases e : g = f
    · subst e
      rw [State.svc_setSvc_injected v b hv]
      exact hf.resolve_left hg
    · rw [State.svc_setSvc_other v b e]
      exact .refl _⟩

theorem Lasting.setSvc_exempt (v : Nat) (b : Bool) (hv : v < 16) (hf : F f) (h : Lasting F s0 s) :
    Lasting F s0 (s.setSvc f v b) :=
  h.setSvc v b hv (.inl hf)

/-! ### Fields that fail (R27, R30, R235, R248) -/

theorem State.fieldDark_lasting (f : FieldId) (h : Lasting F s0 s) : Lasting F s0 (s.fieldDark f) := by
  unfold State.fieldDark
  refine .ite (fun _ => h) (fun _ => ?_)
  have hdark : Lasting F s0 (s.setSvc f svcDark) := h.setSvc _ _ (by decide) (.inr (.dark _))
  have hreset := ((((hdark.hset Reg.HUB_FIELD_STATE.HBM0_OK 0 0 f).hset Reg.HUB_FIELD_STATE.HBM1_OK 0 0 f).updField (f := f)
    (fun F => { F with router := { F.router with d2dq := [], d2dtx := [], issued := [], mcasts := [], inbox := [], comb := [] } })).only
    (State.resetPartition_only _ f (Fits.refl _) trivial (fun _ => trivial)))
  exact (Lasting.foldl _ _ (fun t k _ ht => (ht.only (State.linkDarken_only _ f _ _ (Fits.refl _) trivial)).only
    (State.updPort_only _ f _ _ (Fits.refl _) trivial)) hreset).only (State.d2dFieldDown_only _ f (Fits.refl _))

theorem State.stackLost_lasting (f : FieldId) (stack : Nat) (b : Bool) (h : Lasting F s0 s) :
    Lasting F s0 (s.stackLost f stack b) := by
  unfold State.stackLost
  refine .ite (fun _ => h) (fun _ => ?_)
  have hhard := ((h.only (State.updMemu_only _ f (fun m => m.loseStack stack) (Fits.refl _) trivial)).only
    (State.raise_only _ f Ev.MEM_STACK_LOST [(1, stack)] b (Fits.refl _))).only
    (State.hardEvent_only _ f 1 b (Fits.refl _) trivial)
  have hok : apart [.hubReg (if stack = 0 then Reg.HUB_FIELD_STATE.HBM0_OK else Reg.HUB_FIELD_STATE.HBM1_OK)] = true := by
    split <;> decide +kernel
  have hset := hhard.hset _ 0 0 f hok
  exact .ite (fun _ => hset) (fun hd => (hset.setSvc _ _ (by decide) (.inr (.unfit hd))).only
    (State.resetPartition_only _ f (Fits.refl _) trivial (fun _ => trivial)))

theorem State.stackUnfit_lasting (f : FieldId) (stack : Nat) (hf : F f) (h : Lasting F s0 s) :
    Lasting F s0 (s.stackUnfit f stack) := by
  have hok : apart [.hubReg (if stack = 0 then Reg.HUB_FIELD_STATE.HBM0_OK else Reg.HUB_FIELD_STATE.HBM1_OK)] = true := by
    split <;> decide +kernel
  exact (((h.hset _ 0 0 f hok).only (State.updMemu_only _ f (fun m => m.loseStack stack) (Fits.refl _) trivial)).setSvc_exempt
    _ _ (by decide) hf)

theorem State.remapTake_lasting (f : FieldId) (hf : F f) (h : Lasting F s0 s) : Lasting F s0 (s.remapTake f) := by
  unfold State.remapTake
  have hset := (h.only (State.updMemu_only _ f (fun M => { M with remap :=
    (s.memu f).fuse ||| (s.memu f).overlay ||| (s.field f).fallowRun }) (Fits.refl _) trivial)).hset Reg.HUB_FIELD_STATE.FALLOW
    (min (popcount 272 ((s.memu f).fuse ||| (s.memu f).overlay ||| (s.field f).fallowRun)) 31) 0 f
  exact .ite (fun _ => hset.setSvc_exempt _ _ (by decide) hf) (fun _ => hset)

end Sys2Proof.Machine
end

section
/-! What the bring-up of a field, its sensors, its injections and register writes keep of the service states (R29). -/

namespace Sys2Proof.Machine

set_option Elab.async false

open Sys2Proof

variable {K : List Part} {F : FieldId → Prop} {s0 s t u : State} {f : FieldId}

/-! ### Bring-up of a field (R553, R555, R556, R571, R579) -/

theorem State.hbmTrain_lasting (f : FieldId) (trained : Nat) (hf : F f) (h : Lasting F s0 s) :
    Lasting F s0 (s.hbmTrain f trained) := by
  unfold State.hbmTrain
  refine .foldl _ _ (fun t stack _ ht => ?_) h
  have hok : apart [.hubReg (if stack = 0 then Reg.HUB_FIELD_STATE.HBM0_OK else Reg.HUB_FIELD_STATE.HBM1_OK)] = true := by
    split <;> decide +kernel
  refine .ite (fun _ => ?_) (fun _ => State.stackUnfit_lasting f stack hf ht)
  have hkept : Lasting F s0 (if t.fastPath then t else
      t.updMemu f (fun m => if stack = 0 then { m with lost0 := false } else { m with lost1 := false })) :=
    .ite (fun _ => ht) (fun _ => ht.only (State.updMemu_only _ f _ (Fits.refl _) trivial))
  exact .ite (fun _ => State.stackUnfit_lasting f stack hf hkept) (fun _ => hkept.hset _ 1 0 f hok)

theorem State.repairEntry_lasting (f : FieldId) (n result : Nat) (hf : F f) (h : Lasting F s0 s) :
    Lasting F s0 (s.repairEntry f n result) := by
  unfold State.repairEntry
  have hset := h.only (State.fset_only f Reg.MEM_REPAIR_ENTRY.RESULT result n 0 (Fits.refl _) trivial)
  dsimp only
  split
  · exact hset.only (State.rowPoison_only _ f _ (Fits.refl _) trivial)
  · exact State.stackUnfit_lasting f _ hf hset
  · exact hset

theorem State.repairAll_lasting (f : FieldId) (repairs : List Nat) (hf : F f) (h : Lasting F s0 s) :
    Lasting F s0 (s.repairAll f repairs).1 := by
  unfold State.repairAll
  refine .foldl_fst _ _ _ (fun t n _ ht => ?_) h
  split
  · exact State.repairEntry_lasting f n _ hf ht
  · exact ht

theorem State.katField_lasting (f : FieldId) (bad : Nat) (rimBad : Bool) (hf : F f) (h : Lasting F s0 s) :
    Lasting F s0 (s.katField f bad rimBad) := by
  unfold State.katField
  extract_lets fails marks s1 s2
  have h1 : Lasting F s0 s1 := (h.only (State.fset_only f Reg.FLD_BOOT_STATUS.KAT_FAILED fails.length 0 0 (Fits.refl _) trivial)).only
    (State.fallowMarks_only _ f marks (Fits.refl _) trivial)
  have h2 : Lasting F s0 s2 := (h1.only (State.resetPartition_only _ f (Fits.refl _) trivial (fun _ => trivial))).updField _
  exact .ite
    (fun _ => State.fieldDark_lasting f (h2.only (State.fset_only f Reg.FLD_BOOT_STATUS.RIM_KAT_FAIL 1 0 0 (Fits.refl _) trivial)))
    (fun _ => State.remapTake_lasting f hf h2)

theorem State.fieldUp_lasting (f : FieldId) (rimOk : Bool) (h : Lasting F s0 s) : Lasting F s0 (s.fieldUp f rimOk) := by
  unfold State.fieldUp
  extract_lets s1
  have h1 : Lasting F s0 s1 := (h.hset Reg.PWR_RAIL_STATUS.PGOOD _ 0 0).only (State.setRail_only _ f true (Fits.refl _))
  refine .ite (fun _ => State.fieldDark_lasting f h1) (fun _ => .ite (fun _ => h1) (fun hsvc => ?_))
  obtain ⟨hdark, hunfit⟩ := not_or.mp hsvc
  exact (h1.setSvc _ _ (by decide) (.inr (.of_not _ hdark hunfit))).updField _

/-- A partition reset takes a field that is READY. -/
theorem State.partReset_lasting (f : FieldId) (h : Lasting F s0 s) : Lasting F s0 (s.partReset f) := by
  unfold State.partReset
  refine .ite (fun _ => h) (fun _ => .ite (fun _ => h.hset _ _ _ _) (fun hready => ?_))
  have hhealth : (s.healthReset f).svc f = s.svc f :=
    (State.healthReset_only (F := fun _ => True) (P := fun _ => True) s f (Fits.refl _) trivial (.refl _ _ _ s)).svc_of_apart
      (by decide +kernel) f
  have hsvc : (s.healthReset f).svc f = svcReady := hhealth.trans (not_not.mp hready)
  have hset : Lasting F s0 ((s.healthReset f).setSvc f svcPartitionReset) :=
    (h.only (State.healthReset_only _ f (Fits.refl _) trivial)).setSvc _ _ (by decide)
      (.inr (.of_not _ (by rw [hsvc]; decide) (by rw [hsvc]; decide)))
  exact ((hset.only (State.resetPartition_only _ f (Fits.refl _) trivial (fun _ => trivial))).only
    (State.updThm_only _ f _ (Fits.refl _) trivial)).only (State.shfReset_only _ f (Fits.refl _) trivial (fun _ => trivial))

theorem State.partDone_lasting (f : FieldId) (march : Nat) (hf : F f) (h : Lasting F s0 s) : Lasting F s0 (s.partDone f march) := by
  unfold State.partDone
  extract_lets s1 s2 s3
  have h1 : Lasting F s0 s1 := State.remapTake_lasting f hf (h.only (State.fallowMarks_only _ f march (Fits.refl _) trivial))
  refine .ite (fun _ => h1) (fun _ => ?_)
  have h3 : Lasting F s0 s3 := .foldl _ _ (fun t p _ ht => ht.only (State.bootAll_only _ f p _ (Fits.refl _) trivial (fun _ => trivial)))
    (h1.only (State.fillAll_only _ f (Fits.refl _) trivial (fun _ => trivial)))
  exact (h3.setSvc_exempt _ _ (by decide) hf).only (State.firmwareEvent_only _ f (Fits.refl _))

/-! ### Sensors (R651 to R655) -/

/-- Five broken sensors make a field that is not DARK UNFIT. -/
theorem State.thermAct_lasting (f : FieldId) (injAt : Option Nat) (truth : Option (Nat × Int)) (hd : s.svc f ≠ svcDark)
    (h : Lasting F s0 s) : Lasting F s0 (s.thermAct f injAt truth) := by
  unfold State.thermAct
  extract_lets T by_ nBroken s0'
  have h0 : Lasting F s0 s0' :=
    .ite (fun _ => (h.setSvc _ _ (by decide) (.inr (.unfit hd))).only
      (State.resetPartition_only _ f (Fits.refl _) trivial (fun _ => trivial))) (fun _ => h)
  split
  extract_lets s1 s2 s3 hotNow
  have h1 : Lasting F s0 s1 := (h0.only (State.fset_only f _ _ 0 0 (Fits.refl _) trivial)).only
    (State.fset_only f _ _ 0 0 (Fits.refl _) trivial)
  have h2 : Lasting F s0 s2 := by
    dsimp only [s2]
    split
    · exact .ite (fun _ => h1.only (State.thermtrip_only _ _ _ _ _ (Fits.refl _))) (fun _ => h1)
    · exact h1
  have h3 : Lasting F s0 s3 := by
    dsimp only [s3]
    split
    · exact h2
    · exact ((h2.only (State.fset_only f _ _ 0 0 (Fits.refl _) trivial)).only
        (State.thermRise_only _ f _ _ _ (Fits.refl _) trivial)).only (State.thermDrop_only _ f _ _ (Fits.refl _) trivial)
  have hthrottle : ∀ x c b, Lasting F s0 (s3.throttleEnter f x c b) := fun x c b =>
    h3.only (State.throttleEnter_only _ f x c b (Fits.refl _) trivial)
  exact .ite (fun _ => h3) (fun _ => .ite (fun _ => hthrottle _ _ _) (fun _ => .ite (fun _ => hthrottle _ _ _) (fun _ => h3)))

theorem State.sensorSample_lasting (f : FieldId) (readings : List (Option Int)) (hd : s.svc f ≠ svcDark) (h : Lasting F s0 s) :
    Lasting F s0 (s.sensorSample f readings) := by
  unfold State.sensorSample
  extract_lets injAt add s1 truth
  have hread : ∀ K, Only K (fun _ => True) (fun _ => True) s s1 → apart K = true → Lasting F s0 s1 := fun _ ho hK =>
    h.only (fun _ => ho) hK
  have hs1 : Only _ (fun _ => True) (fun _ => True) s s1 :=
    .foldl _ _ (fun t i ht => State.sensorRead_only t f i _ _ (Fits.refl _) trivial ht) (.refl _ _ _ s)
  have hsvc : s1.svc f = s.svc f := hs1.svc_of_apart (by decide +kernel) f
  exact (State.thermAct_lasting f _ _ (by rw [hsvc]; exact hd) (hread _ hs1 (by decide +kernel))).only
    (State.sensorInjStep_only _ f (Fits.refl _) trivial)

/-! ### Injections (R697) -/

theorem State.beginStackLost_lasting (f : FieldId) (target : Nat) (h : Lasting F s0 s) :
    Lasting F s0 (s.beginStackLost f target) :=
  State.stackLost_lasting f target true (h.only (State.injFire_only _ f injMem (Fits.refl _) trivial))

theorem State.injBegin_lasting (f : FieldId) (r point target arg : Nat) (h : Lasting F s0 s) :
    Lasting F s0 (s.injBegin f r point target arg) := by
  unfold State.injBegin
  split
  · exact State.beginStackLost_lasting f target h
  · exact h.only (State.beginLaneFail_only _ f _ _ (Fits.refl _) trivial)
  · exact h.only (State.beginRingUnlock_only _ f _ _ (Fits.refl _) trivial)
  · exact h.only (State.beginRetrain_only _ f _ (Fits.refl _) trivial)
  · exact h.only (State.beginNoAck_only _ f _ _ (Fits.refl _) trivial)
  · exact h.only (State.beginBeatStop_only _ f _ _ (Fits.refl _) trivial)
  · exact h.only (State.beginBeaconMute_only _ f _ _ (Fits.refl _) trivial)
  · exact h.only (State.beginSensor_only _ f _ _ _ (Fits.refl _) trivial)
  · exact h.only (State.beginSensor_only _ f _ _ _ (Fits.refl _) trivial)
  · exact h.only (State.beginSensorBroken_only _ f _ (Fits.refl _) trivial)
  · exact h

theorem State.injTry_lasting (f : FieldId) (r : Nat) (valid : Bool) (g : State → State)
    (hg : ∀ t, Lasting F s0 t → Lasting F s0 (g t)) (h : Lasting F s0 s) : Lasting F s0 (s.injTry f r valid g) := by
  unfold State.injTry
  have hset : ∀ t k v, Lasting F s0 t → apart [.reg k] = true → Lasting F s0 (t.fset f k v r) := fun t k v ht hk =>
    ht.only (State.fset_only f k v r 0 (Fits.refl _) trivial) hk
  have harm := hset s Reg.INJ_PT.ARM 1 h (by decide +kernel)
  exact .ite (fun _ => hg _ harm) (fun _ => hset _ _ _ (hset _ _ _ harm (by decide +kernel)) (by decide +kernel))

theorem State.injArm_lasting (f : FieldId) (r : Nat) (h : Lasting F s0 s) : Lasting F s0 (s.injArm f r) :=
  State.injTry_lasting f r _ _ (fun _ ht => State.injBegin_lasting f r _ _ _ ht) h

/-! ### Writes of field registers (R691, R696) -/

theorem State.fset_lasting (f : FieldId) (k : RegField) (v n i : Nat) (h : Lasting F s0 s) : Lasting F s0 (s.fset f k v n i) :=
  h.updField _

theorem State.rimInjWrite_lasting (f : FieldId) (off bytes value : Nat) (h : Lasting F s0 s) :
    Lasting F s0 (s.rimInjWrite f off bytes value) := by
  unfold State.rimInjWrite
  refine .ite (fun _ => h) (fun _ => ?_)
  extract_lets keepA putA s1 s2
  have h1 : Lasting F s0 s1 := .foldl _ _ (fun t k _ ht => .ite (fun _ => ht) (fun _ => State.fset_lasting f k _ _ _ ht)) h
  have h2 : Lasting F s0 s2 := .ite (fun _ => h1.only (State.injArithArm_only _ f (Fits.refl _) trivial)) (fun _ => h1)
  refine .foldl _ _ (fun t r _ ht => ?_) h2
  extract_lets keep put t1
  have ht1 : Lasting F s0 t1 := .foldl _ _ (fun u k _ hu => .ite (fun _ => hu) (fun _ => State.fset_lasting f k _ _ _ hu)) ht
  exact .ite (fun _ => State.injArm_lasting f r ht1) (fun _ => ht1)

theorem State.rimWrite_lasting (f : FieldId) (host : Bool) (off bytes value : Nat) (h : Lasting F s0 s) :
    Lasting F s0 (s.rimWrite f host off bytes value) := by
  unfold State.rimWrite
  extract_lets a0 a1 a2 a3
  have h0 : Lasting F s0 a0 := by
    dsimp only [a0]
    split
    · exact h.raiseHub _ _ _
    · exact h
  have h1 : Lasting F s0 a1 := .foldl _ _ (fun t k _ ht => .foldl _ _ (fun v x _ hv => by
    dsimp only
    split
    · exact hv.only (State.rimTake_only _ f _ _ _ _ _ _ _ (Fits.refl _) trivial)
    · exact hv) ht) h0
  have h2 : Lasting F s0 a2 := (h1.only (State.congTake_only _ _ f (Fits.refl _) trivial)).only
    (State.fldEffects_only _ f _ _ _ _ (Fits.refl _) trivial (fun _ => trivial))
  have h3 : Lasting F s0 a3 := .ite (fun _ => h2) (fun _ => h2.only (State.linkEffects_only _ f _ _ _ (Fits.refl _) trivial))
  exact State.rimInjWrite_lasting f _ _ _ (((h3.only (State.fabricEffects_only _ f _ _ _ _ (Fits.refl _) trivial (fun _ => trivial))).only
    (State.mirEffects_only _ f _ _ _ _ (Fits.refl _) trivial)).only (State.rimOtherEffects_only _ f _ _ _ _ (Fits.refl _) trivial))

theorem State.fieldWrite_lasting (f : FieldId) (host : Bool) (off bytes value : Nat) (h : Lasting F s0 s) :
    Lasting F s0 (s.fieldWrite f host off bytes value) := by
  unfold State.fieldWrite
  split
  · exact .ite (fun _ => State.rimWrite_lasting f _ _ _ _ h) (fun _ => h)
  · exact .ite (fun _ => h) (fun _ => h.only (State.plotWrite_only _ f _ _ _ _ _ (Fits.refl _) trivial trivial))
  · exact .ite (fun _ => h.only (State.binWindowWrite_only _ f _ _ _ _ _ _ (Fits.refl _) trivial)) (fun _ => h)
  · exact h

/-! ### Writes of hub registers: the service states are read-only (R13, R30) -/

/-- The register fields of the hub stand at places of their own. -/
theorem hubField_apart {k : RegField} (hk : k ∈ Reg.hubFields) :
    k = Reg.HUB_FIELD_STATE.STATE ∨ k.place % 0x10000000000 ≠ Reg.HUB_FIELD_STATE.STATE.place % 0x10000000000 := by
  have hall : Reg.hubFields.all (fun k => decide (k = Reg.HUB_FIELD_STATE.STATE) ||
      decide (k.place % 0x10000000000 ≠ Reg.HUB_FIELD_STATE.STATE.place % 0x10000000000)) = true := by decide +kernel
  simpa using List.all_eq_true.mp hall k hk

/-- Software writes no service state. -/
theorem State.hubTake_lasting {k : RegField} (hk : k ∈ Reg.hubFields) (host : Bool) (n i pos len v : Nat) (h : Lasting F s0 s) :
    Lasting F s0 (s.hubTake host k n i pos len v) := by
  unfold State.hubTake
  refine .ite (fun _ => h) (fun _ => ?_)
  rcases hubField_apart hk with rfl | hplace
  · refine h.trans ⟨Nat.le_refl _, fun _ g _ => ?_⟩
    by_cases e : Reg.HUB_FIELD_STATE.STATE.key n i = Reg.HUB_FIELD_STATE.STATE.key 0 g
    · have hold : s.hreg Reg.HUB_FIELD_STATE.STATE n i = s.svc g := by
        simp only [State.svc, State.hreg, Hub.reg, RegField.get, e]
      have hnew : ∀ w, (s.hset Reg.HUB_FIELD_STATE.STATE w n i).svc g = w % 16 := fun w => by
        have hread := State.hreg_hset s Reg.HUB_FIELD_STATE.STATE w n i
        simp only [State.hreg, Hub.reg, RegField.get, e] at hread
        exact hread
      have hkept : (s.hset Reg.HUB_FIELD_STATE.STATE (hubClamp Reg.HUB_FIELD_STATE.STATE (Reg.HUB_FIELD_STATE.STATE.taken
          (s.hreg Reg.HUB_FIELD_STATE.STATE n i) pos len v)) n i).svc g = s.svc g % 16 := by rw [hnew, ← hold]; rfl
      rw [hkept]
      exact ⟨fun d => by rw [d]; rfl, fun d => .inl (by rw [d]; rfl)⟩
    · have hsame : ∀ w, (s.hset Reg.HUB_FIELD_STATE.STATE w n i).svc g = s.svc g := fun w => State.hreg_hset_ne _ _ _ _ _ _ _ _ e
      rw [hsame]
      exact .refl _
  · exact h.trans (.of_same rfl (fun g => State.hreg_hset_other _ _ _ _ _ _ _ _ hplace))

theorem State.bootAsk_lasting (r : BootReq) (h : Lasting F s0 s) : Lasting F s0 (s.bootAsk r) := h.updSeed _

theorem State.hubBootWrite_lasting (off bytes value : Nat) (h : Lasting F s0 s) : Lasting F s0 (s.hubBootWrite off bytes value) := by
  unfold State.hubBootWrite
  extract_lets s1 s2 s3 s4 s5
  have ask : ∀ {t} r, Lasting F s0 t → Lasting F s0 (t.bootAsk r) := fun r ht => State.bootAsk_lasting r ht
  have h1 : Lasting F s0 s1 := by
    dsimp only [s1]
    split
    · exact .ite (fun _ => ask _ h) (fun _ => ask _ h)
    · exact h
  have h2 : Lasting F s0 s2 := .ite (fun _ => ask _ h1) (fun _ => h1)
  have h3 : Lasting F s0 s3 := .ite (fun _ => ask _ h2) (fun _ => h2)
  have h4 : Lasting F s0 s4 := .ite (fun _ => ask _ h3) (fun _ => h3)
  have h5 : Lasting F s0 s5 := by
    dsimp only [s5]
    split
    · exact .ite (fun _ => h4) (fun _ => ask _ h4)
    · exact h4
  exact .ite (fun _ => ask _ h5) (fun _ => h5)

theorem State.hubInjWrite_lasting (r off bytes value : Nat) (h : Lasting F s0 s) :
    Lasting F s0 (s.hubInjWrite r off bytes value) := by
  unfold State.hubInjWrite
  refine .ite (fun _ => h) (fun _ => ?_)
  extract_lets keep put s1
  have hput : ∀ {t} k, apart [.hubReg k] = true → Lasting F s0 t → Lasting F s0 (put t k) := fun k hk ht => by
    dsimp only [put]
    split
    · exact .ite (fun _ => ht) (fun _ => ht.hset k _ _ _ hk)
    · exact ht
  have h1 : Lasting F s0 s1 := hput _ (by decide +kernel) (hput _ (by decide +kernel) (hput _ (by decide +kernel) h))
  exact .ite (fun _ => h1.only (State.injHubArm_only _ r (Fits.refl _) (fun _ => trivial))) (fun _ => h1)

theorem State.hubEffects_lasting (host : Bool) (govWas off bytes value : Nat) (h : Lasting F s0 s) :
    Lasting F s0 (s.hubEffects host govWas off bytes value) := by
  unfold State.hubEffects
  extract_lets s1 s2 s3 s4 s5 s6
  have h1 : Lasting F s0 s1 := .foldl _ _ (fun t ep _ ht =>
    ht.only (State.hubMbxWrite_only _ _ ep _ _ _ (Fits.refl _) (fun _ => trivial) (fun _ => trivial))) h
  have h2 : Lasting F s0 s2 := State.hubBootWrite_lasting _ _ _ (h1.only (State.hubHostWrite_only _ _ _ _ (Fits.refl _) (fun _ => trivial)))
  have h3 : Lasting F s0 s3 := State.hubInjWrite_lasting _ _ _ _ (State.hubInjWrite_lasting _ _ _ _ h2)
  have h4 : Lasting F s0 s4 := .ite (fun _ => h3.only (State.injUnlockWrite_only _ _ _ _ (Fits.refl _) (fun _ => trivial))) (fun _ => h3)
  have h5 : Lasting F s0 s5 := .ite (fun _ => (h4.only (State.limitChange_only _ (Fits.refl _))).only
    (State.modeFromReg_only _ (Fits.refl _) (fun _ => trivial))) (fun _ => h4)
  have h6 : Lasting F s0 s6 := .ite (fun _ => h5.only (State.governOff_only _ (Fits.refl _) (fun _ => trivial))) (fun _ => h5)
  exact h6.only (State.retrainDo_only _ (Fits.refl _))

theorem State.hubWrite_lasting (host : Bool) (off bytes value : Nat) (h : Lasting F s0 s) :
    Lasting F s0 (s.hubWrite host off bytes value) := by
  unfold State.hubWrite
  refine State.hubEffects_lasting _ _ _ _ _ (.foldl _ _ (fun t k hk ht => .foldl _ _ (fun u x _ hu => ?_) ht) ?_)
  · dsimp only
    split
    · exact State.hubTake_lasting hk _ _ _ _ _ _ hu
    · exact hu
  · split
    · exact h.raiseHub _ _ _
    · exact h

theorem State.spaceWrite_lasting (host : Bool) (sp : Space) (off bytes value : Nat) (h : Lasting F s0 s) :
    Lasting F s0 (s.spaceWrite host sp off bytes value) := by
  cases sp with
  | hub => exact State.hubWrite_lasting _ _ _ _ h
  | field f => exact State.fieldWrite_lasting f _ _ _ _ h

theorem State.agentWrite_lasting (a : Agent) (sp : Space) (off bytes value : Nat) (h : Lasting F s0 s) :
    Lasting F s0 (s.agentWrite a sp off bytes value) := by
  have hspace : ∀ host sp, Lasting F s0 (s.spaceWrite host sp off bytes value) := fun _ _ => State.spaceWrite_lasting _ _ _ _ _ h
  unfold State.agentWrite
  split
  · exact hspace _ _
  · exact .ite (fun _ => hspace _ _) (fun _ => h)
  · exact .ite (fun _ => hspace _ _) (fun _ => h)
  · exact .ite (fun _ => h.only (State.plotWrite_only _ _ _ _ _ _ _ (Fits.refl _) trivial trivial)) (fun _ => h)
  · exact h
  · exact .ite (fun _ => hspace _ _) (fun _ => h)
  · exact h

end Sys2Proof.Machine
end

section
/-! What the bring-up sequencer, the resets and the accesses from outside keep of the service states (R29, R578). -/

namespace Sys2Proof.Machine

set_option Elab.async false

open Sys2Proof

variable {K : List Part} {F : FieldId → Prop} {s0 s t u : State} {f : FieldId}

/-! ### The bring-up sequencer (R550 to R568, R600) -/

theorem State.begin_lasting (h : Lasting F s0 s) : Lasting F s0 s.begin := h.updSeed _

theorem State.clockFlip_lasting (h : Lasting F s0 s) : Lasting F s0 s.clockFlip := h.updSeed _

theorem State.setPhase_lasting (p : Nat) (h : Lasting F s0 s) : Lasting F s0 (s.setPhase p) := h.hset _ _ _ _

theorem State.stageStart_lasting (k : Nat) (h : Lasting F s0 s) : Lasting F s0 (s.stageStart k) :=
  (State.setPhase_lasting _ (h.hset Reg.SEED_STAGE.STAGE k 0 0)).updSeed _

theorem State.stageFail_lasting (result : Nat) (h : Lasting F s0 s) : Lasting F s0 (s.stageFail result) :=
  State.clockFlip_lasting ((State.setPhase_lasting _ (h.hset Reg.SEED_STAGE.RESULT result 0 0)).raiseHub _ _ _)

theorem State.stageWait_lasting (h : Lasting F s0 s) : Lasting F s0 s.stageWait :=
  State.clockFlip_lasting (State.setPhase_lasting _ h)

theorem State.stageResume_lasting (h : Lasting F s0 s) : Lasting F s0 s.stageResume :=
  State.clockFlip_lasting (State.setPhase_lasting _ h)

theorem State.applyWrites_lasting (k : Nat) (h : Lasting F s0 s) : Lasting F s0 (s.applyWrites k) := by
  unfold State.applyWrites
  refine .foldl _ _ (fun t w _ ht => ?_) h
  obtain ⟨target, off, v⟩ := w
  have hfields : Lasting F s0 (allFields.foldl (fun (u : State) (f : FieldId) =>
      if bit target f.val && decide (u.svc f ≠ svcDark) then u.spaceWrite false (.field f) off 8 v else u) t) :=
    .foldl _ _ (fun u f _ hu => .ite (fun _ => State.spaceWrite_lasting _ _ _ _ _ hu) (fun _ => hu)) ht
  exact .ite (fun _ => State.spaceWrite_lasting _ _ _ _ _ hfields) (fun _ => hfields)

theorem State.stageClose_lasting (result : Nat) (skipped : Bool) (h : Lasting F s0 s) :
    Lasting F s0 (s.stageClose result skipped) := by
  unfold State.stageClose
  extract_lets k a0 a1 a2 a3 a4
  have h0 : Lasting F s0 a0 := .ite (fun _ => h.hset _ _ _ _) (fun _ => h)
  have h1 : Lasting F s0 a1 := h0.only (State.stageTime_only _ _ (Fits.refl _))
  have h2 : Lasting F s0 a2 := .ite (fun _ => h1) (fun _ => State.applyWrites_lasting _ h1)
  have h3 : Lasting F s0 a3 := h2.hset _ _ _ _
  have h4 : Lasting F s0 a4 := (State.setPhase_lasting _ h3).raiseHub _ _ _
  exact .ite (fun _ => State.stageFail_lasting _ h2) (fun _ => .ite
    (fun _ => State.stageStart_lasting _ (h3.raiseHub _ _ _))
    (fun _ => .ite (fun _ => State.stageStart_lasting _ h4) (fun _ => h4)))

theorem State.stageGo_lasting (k : Nat) (h : Lasting F s0 s) : Lasting F s0 (s.stageGo k) :=
  .ite (fun _ => h.hset _ _ _ _) (fun _ => .ite (fun _ => (State.setPhase_lasting _ h).updSeed _)
    (fun _ => .ite (fun _ => State.stageStart_lasting _ h) (fun _ => h.updSeed _)))

theorem State.stageSkip_lasting (k : Nat) (h : Lasting F s0 s) : Lasting F s0 (s.stageSkip k) :=
  .ite (fun _ => State.stageClose_lasting _ _ h) (fun _ => State.stageGo_lasting _ h)

theorem State.hostLightEnd_lasting (code : Option Nat) (h : Lasting F s0 s) : Lasting F s0 (s.hostLightEnd code) := by
  unfold State.hostLightEnd
  cases code with
  | some c => exact (h.hset Reg.HDL_LIGHT_STATUS.RESULT c 0 0).updSeed _
  | none => exact h.updSeed _

theorem State.hostLit_lasting (tried pass : List Nat) (h : Lasting F s0 s) : Lasting F s0 (s.hostLit tried pass) := by
  unfold State.hostLit
  extract_lets a0 a1
  have h0 : Lasting F s0 a0 := .foldl _ _ (fun t m _ ht => ht.hset _ _ _ _) h
  have h1 : Lasting F s0 a1 := .foldl _ _ (fun t m _ ht => (((ht.only (State.emit_only _ _ (Fits.refl _))).only
    (State.emit_only _ _ (Fits.refl _))).hset Reg.HDL_MODULE.OUTPUT_ON _ _ _).only
    (State.setInlet_only _ _ _ _ (Fits.refl _) (fun _ => trivial))) h0
  cases pass with
  | nil => exact State.hostLightEnd_lasting _ h1
  | cons m l =>
    exact (h1.only (State.engCalibrate_only _ _ (Fits.refl _) (fun _ => trivial))).only
      (State.engLight_only _ _ _ (Fits.refl _) (fun _ => trivial))

theorem State.hostLightStep_lasting (env : LightEnv) (h : Lasting F s0 s) : Lasting F s0 (s.hostLightStep env) := by
  unfold State.hostLightStep
  extract_lets a0 a1 a2 a3
  have h1 : Lasting F s0 a1 := ((h.only (State.updLight_only _ _ (Fits.refl _))).updSeed _).hset _ _ _ _
  have h2 : Lasting F s0 a2 := h1.only (State.optUp_only _ (Fits.refl _))
  have h3 : Lasting F s0 a3 := h2.only (State.identRead_only _ _ (Fits.refl _))
  refine .ite (fun _ => State.hostLightEnd_lasting _ (h1.only (State.optTimeout_only _ (Fits.refl _) (fun _ => trivial))))
    (fun _ => .ite (fun _ => State.hostLightEnd_lasting _ h2) (fun _ => ?_))
  have hprobe : ∀ ms : List Nat, Lasting F s0 (ms.foldl (fun (t : State) m => t.emit (.i3c m i3cProbe (2 ^ 16))) a3) := fun ms =>
    .foldl _ _ (fun t m _ ht => ht.only (State.emit_only _ _ (Fits.refl _))) h3
  split
  split
  · exact State.hostLightEnd_lasting _ (hprobe _)
  · exact State.hostLit_lasting _ _ (hprobe _)

theorem State.imageTried_lasting (slot code build : Nat) (h : Lasting F s0 s) : Lasting F s0 (s.imageTried slot code build) :=
  h.only (State.imageTried_only _ _ _ _ (Fits.refl _))

theorem State.imageAccept_lasting (slot : Nat) (raw : List Byte) (h : Lasting F s0 s) : Lasting F s0 (s.imageAccept slot raw) := by
  unfold State.imageAccept
  exact ((((((((((h.hset Reg.SEED_IMAGE_STATUS.SLOT _ _ _).hset Reg.SEED_IMAGE_STATUS.SVN _ _ _).hset Reg.SEED_IMAGE_STATUS.LENGTH
    _ _ _).hset Reg.SEED_IMAGE_STATUS.BUILD _ _ _).hset Reg.SEED_IMAGE_STATUS.UNPROVISIONED _ _ _).hset Reg.SEED_DIGEST.D _ _ _).hset
    Reg.SEED_STAGE.FAST_PATH _ _ _).hset Reg.SEED_STAGE.AUTO _ _ _).only (State.seedMeasure_only _ _ _ _ (Fits.refl _))).only
    (State.seedRecords_only _ _ (Fits.refl _))).updSeed _

theorem State.slotTry_lasting (slot : Nat) (img : Option (List Byte)) (h : Lasting F s0 s) :
    Lasting F s0 (s.slotTry slot img).1 := by
  cases img with
  | none => exact State.imageTried_lasting _ _ _ h
  | some b =>
    have htried := State.imageTried_lasting slot (imgCheck b s.hostStepped) (leAt b 16 8) h
    exact .ite (fun _ => State.imageAccept_lasting _ _ htried) (fun _ => htried)

theorem State.hostImage_lasting (h : Lasting F s0 s) : Lasting F s0 s.hostImage := by
  unfold State.hostImage
  extract_lets a0 a1 n b c a2
  have h0 : Lasting F s0 a0 := h.hset _ _ _ _
  have h2 : Lasting F s0 a2 := State.imageTried_lasting _ _ _ (h0.hset Reg.SEED_CTL.HOST_IMAGE 0 0 0)
  exact .ite (fun _ => h0) (fun _ => .ite (fun _ => State.stageResume_lasting (State.imageAccept_lasting _ _ h2)) (fun _ => h2))

theorem State.hostImageDue_lasting (h : Lasting F s0 s) : Lasting F s0 s.hostImageDue :=
  .ite (fun _ => State.hostImage_lasting h) (fun _ => h)

theorem State.imagesReady_lasting (h : Lasting F s0 s) : Lasting F s0 s.imagesReady := by
  have h1 : Lasting F s0 (s.hset Reg.SEED_CTL.IMAGES_READY 1) := h.hset _ _ _ _
  exact .ite (fun _ => (State.stageResume_lasting h1).only (State.deliverAll_only _ (Fits.refl _) (fun _ => trivial) (fun _ => trivial)))
    (fun _ => h1)

theorem State.planWrite_lasting (f : FieldId) (h : Lasting F s0 s) : Lasting F s0 (s.planWrite f) :=
  .foldl _ _ (fun _ _ _ ht => State.fieldWrite_lasting f _ _ _ _ ht)
    (State.fieldWrite_lasting f _ _ _ _ (State.fieldWrite_lasting f _ _ _ _ h))

theorem State.arbWrite_lasting (f : FieldId) (h : Lasting F s0 s) : Lasting F s0 (s.arbWrite f) := by
  unfold State.arbWrite
  exact State.fieldWrite_lasting f _ _ _ _ (State.fieldWrite_lasting f _ _ _ _ h)

theorem State.fabricRecords_lasting (f : FieldId) (h : Lasting F s0 s) : Lasting F s0 (s.fabricRecords f) := by
  unfold State.fabricRecords
  exact State.fieldWrite_lasting f _ _ _ _ (State.fieldWrite_lasting f _ _ _ _ h)

theorem State.pinRecords_lasting (h : Lasting F s0 s) : Lasting F s0 s.pinRecords :=
  State.hubWrite_lasting _ _ _ _ (State.hubWrite_lasting _ _ _ _ h)

theorem State.fabricStart_lasting (h : Lasting F s0 s) : Lasting F s0 s.fabricStart := by
  unfold State.fabricStart
  extract_lets a1 a2 a3
  have h1 : Lasting F s0 a1 := .foldl _ _ (fun _ f _ ht => State.fabricRecords_lasting f (State.planWrite_lasting f ht))
    (State.begin_lasting h)
  have h2 : Lasting F s0 a2 := State.applyWrites_lasting _ (State.pinRecords_lasting h1)
  have h3 : Lasting F s0 a3 := .foldl _ _ (fun _ f _ ht => ht.only (State.seal_only _ f (Fits.refl _) trivial)) h2
  split
  · exact State.stageFail_lasting _ h3
  · exact h3

theorem State.firmwareEvent_lasting (f : FieldId) (h : Lasting F s0 s) : Lasting F s0 (s.firmwareEvent f) := h.raiseHub _ _ _

theorem State.firmwareEnd_lasting (h : Lasting F s0 s) : Lasting F s0 s.firmwareEnd :=
  State.stageClose_lasting _ _ (.foldl _ _ (fun _ f _ ht => State.firmwareEvent_lasting f ht) h)

theorem State.stageEnd_lasting (h : Lasting F s0 s) : Lasting F s0 s.stageEnd := by
  unfold State.stageEnd
  extract_lets stuck failed runs close
  have hclose : ∀ result, Lasting F s0 (close s result) := fun result =>
    State.stageClose_lasting _ _ (.ite (fun _ => h) (fun _ => State.stageResume_lasting h))
  split
  · exact .ite (fun _ => hclose _) (fun _ => h)
  · exact .ite (fun _ => hclose _) (fun _ => h)
  · exact .ite (fun _ => hclose _) (fun _ => h)
  · exact .ite (fun _ => hclose _) (fun _ => h)
  · exact .ite (fun _ => .ite (fun _ => hclose _) (fun _ => h)) (fun _ => .ite (fun _ => State.stageFail_lasting _ h) (fun _ => h))
  · exact .ite (fun _ => hclose _) (fun _ => h)
  · exact .ite (fun _ => hclose _) (fun _ => h)
  · exact .ite (fun _ => State.firmwareEnd_lasting h) (fun _ => h)
  · exact .ite (fun _ => .ite (fun _ => hclose _) (fun _ => .ite (fun _ => h) (fun _ => State.stageResume_lasting h))) (fun _ => h)
  · exact h

theorem State.jtagResponse_lasting (r v : Nat) (h : Lasting F s0 s) : Lasting F s0 (s.jtagResponse r v) := by
  unfold State.jtagResponse
  extract_lets ok result a1 a2
  have h1 : Lasting F s0 a1 := (h.only (State.newNonce_only _ (Fits.refl _))).hset _ _ _ _
  have h2 : Lasting F s0 a2 := .ite (fun _ => h1.hset _ _ _ _) (fun _ => h1.updSeed _)
  exact .ite (fun _ => h) (fun _ => h2.raiseHub _ _ _)

/-! ### Cold and warm resets count (R578, R580) -/

/-- What counts one reset of the package leaves every service state free. -/
theorem Lasting.of_counted (h : t.hub.seed.resets = s.hub.seed.resets + 1) : Lasting F s t :=
  ⟨by omega, fun e => absurd e (by omega)⟩

/-- The count of resets does not change where only other parts may. -/
theorem Only.resets_same {G : FieldId → Prop} {P : PlotId → Prop} (ho : Only K G P s s → Only K G P s t)
    (hK : (!Part.covered K .seed && !Part.covered K (.far .seed)) = true := by decide +kernel) :
    t.hub.seed.resets = s.hub.seed.resets := by
  simp only [Bool.and_eq_true, Bool.not_eq_true'] at hK
  exact congrArg SeedUnit.resets ((ho (.refl _ _ _ s)).seed_same hK.1 hK.2)

theorem State.hset_seed (s : State) (k : RegField) (v n i : Nat) : (s.hset k v n i).hub.seed = s.hub.seed := rfl

theorem State.warnSet_resets (s : State) (pin inj : Bool) : (s.warnSet pin inj).hub.seed.resets = s.hub.seed.resets :=
  Only.resets_same (G := fun _ => True) (P := fun _ => True) (State.warnSet_only _ _ _ (Fits.refl _) (fun _ => trivial))

theorem State.newNonce_resets (s : State) : s.newNonce.hub.seed.resets = s.hub.seed.resets :=
  Only.resets_same (G := fun _ => True) (P := fun _ => True) (State.newNonce_only _ (Fits.refl _))

theorem State.warmReset_resets (s : State) (i3c : Bool) : (s.warmReset i3c).hub.seed.resets = s.hub.seed.resets + 1 := by
  unfold State.warmReset
  extract_lets cause digest a0 a1 a1' a2 a3
  have h0 : a0.hub.seed.resets = s.hub.seed.resets :=
    Only.resets_same (G := fun _ => True) (P := fun _ => True) (State.warmLight_only _ (Fits.refl _))
  have h1 : a1.hub.seed.resets = s.hub.seed.resets + 1 := congrArg (· + 1) h0
  have h1' : a1'.hub.seed.resets = a1.hub.seed.resets :=
    Only.resets_same (G := fun _ => True) (P := fun _ => True) (fun ho => Only.foldl allFields _
      (fun t f ht => Only.ite ht (State.raiseHub_only _ _ _ _ (Fits.refl _) ht)) ho)
  have h2 : (a1'.warmAfter s).hub.seed.resets = a1'.hub.seed.resets :=
    Only.resets_same (G := fun _ => True) (P := fun _ => True) (State.warmAfter_only _ s (Fits.refl _) (fun _ => trivial))
  have h3 : a3.hub.seed.resets = (a2.hcount Reg.HUB_RESET_STATUS.WARM_COUNT).newNonce.hub.seed.resets := rfl
  have h2' : (a2.hcount Reg.HUB_RESET_STATUS.WARM_COUNT).hub.seed.resets = (a1'.warmAfter s).hub.seed.resets := by
    rw [State.hcount, State.hset_seed, State.hset_seed]
  have hwarn : (if s.hub.pwr.warnPin then a3.warnSet true false else a3).hub.seed.resets = a3.hub.seed.resets := by
    split
    · exact State.warnSet_resets _ _ _
    · rfl
  calc _ = (if s.hub.pwr.warnPin then a3.warnSet true false else a3).hub.seed.resets := rfl
    _ = s.hub.seed.resets + 1 := by rw [hwarn, h3, State.newNonce_resets, h2', h2, h1', h1]

theorem State.coldReset_resets (s : State) (powerOn : Bool) (straps : Nat) (vbat : Vbat) :
    (s.coldReset powerOn straps vbat).hub.seed.resets = s.hub.seed.resets + 1 := by
  unfold State.coldReset
  extract_lets cold a1 a2 a3 a4 a5
  have h4 : a4.hub.seed.resets = s.hub.seed.resets + 1 :=
    State.newNonce_resets (a3.hset Reg.HUB_RESET_STATUS.CAUSE (b2n !powerOn))
  have hcal : (if vbat = .kept then a4 else a4.calLost).hub.seed.resets = a4.hub.seed.resets := by
    split
    · rfl
    · exact Only.resets_same (G := fun _ => True) (P := fun _ => True) (State.calLost_only _ (Fits.refl _))
  have h5 : a5.hub.seed.resets = s.hub.seed.resets + 1 := by
    rw [← h4, ← hcal]
    exact Only.resets_same (G := fun _ => True) (P := fun _ => True) (State.newEpochs_only _ (Fits.refl _) (fun _ => trivial))
  split
  · rw [State.warnSet_resets, h5]
  · exact h5

theorem State.warmReset_lasting (i3c : Bool) (h : Lasting F s0 s) : Lasting F s0 (s.warmReset i3c) :=
  h.trans (.of_counted (State.warmReset_resets s i3c))

/-! ### What register writes ask of the sequencer -/

theorem State.bootDo_lasting (r : BootReq) (h : Lasting F s0 s) : Lasting F s0 (s.bootDo r) := by
  cases r with
  | go k => exact State.stageGo_lasting k h
  | skip k => exact State.stageSkip_lasting k h
  | hostImage => exact State.hostImage_lasting h
  | imagesReady => exact State.imagesReady_lasting h
  | warm => exact State.warmReset_lasting false h
  | part m => exact .foldl _ _ (fun _ f _ ht => .ite (fun _ => State.partReset_lasting f ht) (fun _ => ht)) h
  | jtag => exact State.jtagResponse_lasting _ _ h

theorem State.bootLoop_lasting (n : Nat) (h : Lasting F s0 s) : Lasting F s0 (s.bootLoop n) := by
  induction n generalizing s with
  | zero => exact h
  | succ n ih =>
    unfold State.bootLoop
    split
    · exact h
    · exact ih (State.bootDo_lasting _ (h.updSeed _))

theorem State.bootSettle_lasting (h : Lasting F s0 s) : Lasting F s0 s.bootSettle := State.bootLoop_lasting _ h

/-! ### Accesses from outside (R597, R606, R692) -/

theorem State.writeDo_lasting (fn : Nat) (bar2 : Bool) (addr : Nat) (data : List Byte) (be : Nat) (ep : Bool) (h : Lasting F s0 s) :
    Lasting F s0 (s.writeDo fn bar2 addr data be ep) := by
  have hdrop : Lasting F s0 (s.aerDrop fn) := h.only (State.aerDrop_only _ _ (Fits.refl _))
  exact .ite (fun _ => hdrop) (fun _ => .ite
    (fun _ => .ite (fun _ => h.only (State.sramPost_only _ _ _ _ (Fits.refl _)))
      (fun _ => h.only (State.apertureWrite_only _ _ _ _ _ _ (Fits.refl _) (fun _ => trivial))))
    (fun _ => .ite (fun _ => hdrop) (fun _ => .ite (fun _ => h.only (State.aerPoison_only _ _ (Fits.refl _)))
      (fun _ => State.bootSettle_lasting (State.spaceWrite_lasting _ _ _ _ _ h)))))

theorem State.reqDo_lasting (r : HostReq) (h : Lasting F s0 s) : Lasting F s0 (s.reqDo r) := by
  cases r with
  | read fn bar2 addr n => exact h.only (State.readDo_only _ _ _ _ _ (Fits.refl _) (fun _ => trivial))
  | write fn bar2 addr data be ep => exact State.writeDo_lasting _ _ _ _ _ _ h
  | reg sp off bytes value => exact State.bootSettle_lasting (State.agentWrite_lasting _ _ _ _ _ h)

theorem State.updHost_lasting (g : HostUnit → HostUnit) (h : Lasting F s0 s) : Lasting F s0 (s.updHost g) :=
  h.only (State.updHost_only _ _ (Fits.refl _))

theorem State.reqWaited_lasting (r : HostReq) (q : Nat) (h : Lasting F s0 s) : Lasting F s0 (s.reqWaited r q) :=
  h.only (State.reqWaited_only _ _ _ (Fits.refl _) (fun _ => trivial) (fun _ => trivial))

theorem State.serveOne_lasting (a : HostAcc) (h : Lasting F s0 s) : Lasting F s0 (s.serveOne a) :=
  .ite (fun _ => .ite (fun _ => State.reqWaited_lasting _ _ h) (fun _ => State.reqDo_lasting _ (State.updHost_lasting _ h))) (fun _ => h)

theorem State.serveHost_lasting (h : Lasting F s0 s) : Lasting F s0 s.serveHost :=
  .foldl _ _ (fun _ a _ ht => State.serveOne_lasting a ht) h

theorem State.request_lasting (src : Nat) (r : HostReq) (h : Lasting F s0 s) : Lasting F s0 (s.request src r) := by
  have h1 := State.serveHost_lasting h
  exact .ite (fun _ => State.reqWaited_lasting _ _ (State.updHost_lasting _ h1)) (fun _ => State.reqDo_lasting _ h1)

theorem State.tlpDo_lasting (src : Nat) (r : HostReq) (h : Lasting F s0 s) : Lasting F s0 (s.tlpDo src r) :=
  State.request_lasting _ _ (h.only (State.hostWake_only _ (Fits.refl _)))

theorem State.heldLoop_lasting (l : List (Nat × HostReq)) (h : Lasting F s0 s) : Lasting F s0 (s.heldLoop l) := by
  induction l generalizing s with
  | nil => exact h
  | cons x l ih =>
    exact .ite (fun _ => ih (State.tlpDo_lasting _ _ h)) (fun _ => .ite (fun _ => ih (State.updHost_lasting _ h)) (fun _ => h))

theorem State.heldServe_lasting (h : Lasting F s0 s) : Lasting F s0 s.heldServe :=
  .ite (fun _ => State.heldLoop_lasting _ (State.updHost_lasting _ h)) (fun _ => h)

end Sys2Proof.Machine
end

section
/-! The commands that set a service state or act on the sequencer: the service states last until a reset is counted (R29). -/

namespace Sys2Proof.Machine

set_option Elab.async false

open Sys2Proof

variable {K : List Part} {F : FieldId → Prop} {s0 s t u : State} {f : FieldId} {r : Result}

/-! ### The commands that set a service state or act on the sequencer -/

/-- What a command leaves, where the service states last. -/
abbrev LeavesLasting (s : State) (r : Result) : Prop := Leaves r (Lasting NoField s)

theorem lasting_finish (h : Lasting NoField s t) : LeavesLasting s (finish t) := Leaves.finish rfl h

theorem lasting_next (h : Lasting NoField s t) : LeavesLasting s (.next t) := Leaves.next rfl h

theorem lasting_same (s : State) : LeavesLasting s (.next s) := lasting_next (.refl _ _)

theorem LeavesLasting.ite {c : Prop} [Decidable c] {a b : Result} (ha : c → LeavesLasting s a) (hb : ¬ c → LeavesLasting s b) :
    LeavesLasting s (if c then a else b) := by
  split
  · exact ha ‹_›
  · exact hb ‹_›

theorem lasting_of_frame (h : Only K (fun _ => True) (fun _ => True) s s → Ends K (fun _ => True) (fun _ => True) s r)
    (hK : apart K = true := by decide +kernel) : LeavesLasting s r := by
  obtain ⟨u, hr, hu⟩ := h (.refl _ _ _ s)
  exact ⟨u, hr, .of_only hu hK⟩

/-- The fields that are STARTING may take any service state. -/
def starting (s : State) : FieldId → Prop := fun f => s.svc f = svcStarting

theorem Lasting.exempt_starting (h : Lasting (starting s) s t) : Lasting NoField s t :=
  h.exempt (fun f hf => by
    have hsvc : s.svc f = svcStarting := hf
    rw [hsvc]
    exact ⟨by decide, by decide⟩)

theorem starting_of_mem {fs : List FieldId} (hf : f ∈ fs.filter (fun (g : FieldId) => decide (s.svc g = svcStarting))) : starting s f :=
  by simpa [starting] using (List.mem_filter.mp hf).2

theorem State.tlp_lasting (src : Nat) (req : HostReq) (s : State) : LeavesLasting s (s.tlp src req) :=
  .ite (fun _ => lasting_finish (State.tlpDo_lasting _ _ (State.heldServe_lasting (.refl _ _))))
    (fun _ => .ite (fun _ => lasting_next (State.updHost_lasting _ (.refl _ _))) (fun _ => lasting_same s))

theorem execRegisterWrite_lasting (a : Agent) (sp : Space) (off bytes value : Nat) (s : State) :
    LeavesLasting s (execRegisterWrite a sp off bytes value s) := by
  unfold execRegisterWrite
  refine .ite (fun _ => lasting_same s) (fun _ => ?_)
  split
  · exact .ite (fun _ => State.tlp_lasting _ _ s) (fun _ => lasting_same s)
  · exact lasting_finish (State.request_lasting _ _ (.refl _ _))
  · exact lasting_finish (State.bootSettle_lasting (State.agentWrite_lasting _ _ _ _ _ (.refl _ _)))
  · exact .ite (fun _ => lasting_finish (State.agentWrite_lasting _ _ _ _ _ (.refl _ _))) (fun _ => lasting_same s)

theorem execMemoryRead_lasting (fn : Fin 5) (bar2 : Bool) (addr len : Nat) (s : State) :
    LeavesLasting s (execMemoryRead fn bar2 addr len s) :=
  .ite (fun _ => lasting_same s) (fun _ => State.tlp_lasting _ _ s)

theorem execMemoryWrite_lasting (fn : Fin 5) (bar2 : Bool) (addr : Nat) (data : List Byte) (be : Nat) (ep : Bool) (s : State) :
    LeavesLasting s (execMemoryWrite fn bar2 addr data be ep s) :=
  .ite (fun _ => lasting_same s) (fun _ => State.tlp_lasting _ _ s)

theorem execRimFatalError_lasting (f : FieldId) (s : State) : LeavesLasting s (execRimFatalError f s) :=
  lasting_finish (State.fieldDark_lasting f (.refl _ _))

theorem execHbmStackLost_lasting (f : FieldId) (stack : Fin 2) (s : State) : LeavesLasting s (execHbmStackLost f stack s) :=
  .ite (fun _ => lasting_same s) (fun _ => lasting_finish (State.stackLost_lasting f _ _ (.refl _ _)))

theorem execInjStackLost_lasting (f : FieldId) (target : Fin 256) (arg : Nat) (s : State) :
    LeavesLasting s (execInjStackLost f target arg s) :=
  .ite (fun _ => lasting_same s) (fun _ => lasting_finish (State.injTry_lasting f _ _ _
    (fun _ ht => State.beginStackLost_lasting f _ ht)
    (State.fset_lasting f _ _ _ _ (State.fset_lasting f _ _ _ _ (State.fset_lasting f _ _ _ _ (.refl _ _))))))

theorem execPgoodFall_lasting (rail : Option FieldId) (s : State) : LeavesLasting s (execPgoodFall rail s) := by
  cases rail with
  | some f =>
    exact .ite (fun _ => lasting_finish (State.fieldDark_lasting f
      ((((Lasting.refl _ s).only (State.pwrenDrop_only _ f (Fits.refl _))).only (State.hcount_only _ _ _ _ (Fits.refl _))).raiseHub _ _ _)))
      (fun _ => lasting_same s)
  | none => exact lasting_of_frame (State.optFall_only s (Fits.refl _) (fun _ => trivial))

theorem execSensorSample_lasting (f : Option FieldId) (readings : List (Option Int)) (s : State) :
    LeavesLasting s (execSensorSample f readings s) := by
  cases f with
  | some f =>
    refine .ite (fun hup => ?_) (fun _ => lasting_same s)
    have hd : s.svc f ≠ svcDark := by
      simp only [State.rimUp, Bool.and_eq_true, decide_eq_true_eq] at hup
      exact hup.2
    exact lasting_finish ((State.sensorSample_lasting f readings hd (.refl _ _)).only (State.tlyTemp_only _ f (Fits.refl _) trivial))
  | none => exact lasting_of_frame (State.hubSensors_only s readings (Fits.refl _))

theorem execHostLinkTrained_lasting (ok : Bool) (s : State) : LeavesLasting s (execHostLinkTrained ok s) :=
  .ite (fun _ => lasting_same s) (fun _ => lasting_finish
    ((((Lasting.refl _ s).only (State.hostSet_only _ _ _ (Fits.refl _))).updSeed _).only (State.retrainDo_only _ (Fits.refl _))))

/-! ### The stages of bring-up -/

theorem execStagePower_lasting (env : LightEnv) (s : State) : LeavesLasting s (execStagePower env s) := by
  refine .ite (fun _ => lasting_same s) (fun _ => lasting_finish (State.begin_lasting (State.hostLightStep_lasting env ?_)))
  exact .foldl _ _ (fun t f _ ht => ht.only (State.updMemu_only _ f _ (Fits.refl _) trivial)) ((Lasting.refl _ s).hset _ _ _ _)

theorem execStageSeed_lasting (env : LightEnv) (flash : Option Flash) (s : State) : LeavesLasting s (execStageSeed env flash s) := by
  unfold execStageSeed
  refine .ite (fun _ => lasting_same s) (fun _ => ?_)
  extract_lets a0 img first
  have h0 : Lasting NoField s a0 :=
    State.begin_lasting (.ite (fun _ => State.hostLightStep_lasting env (.refl _ _)) (fun _ => .refl _ _))
  refine .ite (fun _ => lasting_finish (State.hostImageDue_lasting (State.stageWait_lasting (h0.hset _ _ _ _)))) (fun _ => ?_)
  have h1 : Lasting NoField s (a0.slotTry first (img first)).1 := State.slotTry_lasting _ _ h0
  refine .ite (fun _ => lasting_finish h1) (fun _ => ?_)
  have h2 := State.slotTry_lasting (1 - first) (img (1 - first)) h1
  exact .ite (fun _ => lasting_finish h2) (fun _ => lasting_finish (State.hostImageDue_lasting (State.stageFail_lasting _ h2)))

theorem execHostImage_lasting (s : State) : LeavesLasting s (execHostImage s) := lasting_finish (State.hostImage_lasting (.refl _ _))

theorem execHostLightRetry_lasting (env : LightEnv) (s : State) : LeavesLasting s (execHostLightRetry env s) :=
  .ite (fun _ => lasting_finish (State.hostLightStep_lasting env (.refl _ _))) (fun _ => lasting_same s)

theorem execStageFieldPower_lasting (pgood rimOk : Fin 16) (modules : List Nat) (s : State) :
    LeavesLasting s (execStageFieldPower pgood rimOk modules s) := by
  unfold execStageFieldPower
  refine .ite (fun _ => lasting_same s) (fun _ => ?_)
  extract_lets a1 a2 a3
  have h2 : Lasting NoField s a2 := .foldl _ _
    (fun t f _ ht => .ite (fun _ => State.fieldUp_lasting f _ ht) (fun _ => ht.updSeed _))
    (State.begin_lasting ((Lasting.refl _ s).hset Reg.PWR_RAIL_STATUS.PWREN 15 0 0))
  have h3 : Lasting NoField s a3 := .foldl _ _ (fun t k _ ht => ht.only (State.d2dTrain_only _ _ _ (Fits.refl _))) h2
  clear_value a3
  exact lasting_finish ((h3.updSeed _).only (State.pkgCoord_only _ (Fits.refl _)))

theorem execPgoodTimeout_lasting (f : FieldId) (s : State) : LeavesLasting s (execPgoodTimeout f s) :=
  .ite (fun _ => lasting_finish ((State.fieldDark_lasting f
    ((Lasting.refl _ s).only (State.pwrenDrop_only _ f (Fits.refl _)))).updSeed _)) (fun _ => lasting_same s)

theorem execStageMemory_lasting (trained : Fin 256) (march : List Nat) (carry : Option Flash) (repairs : List Nat) (s : State) :
    LeavesLasting s (execStageMemory trained march carry repairs s) := by
  unfold execStageMemory
  refine .ite (fun _ => lasting_same s) (fun _ => ?_)
  extract_lets fs a1 a2
  split
  next a3 _ hfold =>
  extract_lets a4
  have hF : ∀ f ∈ fs, starting s f := fun f hf => starting_of_mem hf
  have h1 : Lasting (starting s) s a1 := .foldl _ _ (fun t f hf ht => State.hbmTrain_lasting f _ (hF f hf) ht)
    (State.begin_lasting (.refl _ _))
  have h2 : Lasting (starting s) s a2 := .ite (fun _ => h1) (fun _ =>
    (Lasting.foldl fs _ (fun t f _ ht => ht.updMem _) h1).only (State.carryApply_only _ _ (Fits.refl _) (fun _ => trivial)))
  have h3 : Lasting (starting s) s a3 := by
    have hall := Lasting.foldl_fst fs (fun (t : State × List Nat) f => t.1.repairAll f t.2) (a2, repairs)
      (fun t f hf ht => State.repairAll_lasting f t.2 (hF f hf) ht) h2
    rw [hfold] at hall
    exact hall
  have h4 : Lasting (starting s) s a4 := .foldl _ _ (fun t f hf ht => State.remapTake_lasting f (hF f hf)
    ((ht.only (State.fallowMarks_only _ f _ (Fits.refl _) trivial)).only (State.updMemu_only _ f _ (Fits.refl _) trivial))) h3
  exact lasting_finish h4.exempt_starting

theorem execStageLight_lasting (env : LightEnv) (s : State) : LeavesLasting s (execStageLight env s) :=
  .ite (fun _ => lasting_same s) (fun _ => lasting_finish (State.begin_lasting
    (((Lasting.refl _ s).only (State.optShow_only _ (Fits.refl _))).only (State.lightSequence_only _ _ (Fits.refl _) (fun _ => trivial)))))

theorem execStageLinks_lasting (s : State) : LeavesLasting s (execStageLinks s) := by
  unfold execStageLinks
  refine .ite (fun _ => lasting_same s) (fun _ => ?_)
  extract_lets a1 a2
  have h1 : Lasting NoField s a1 := .foldl _ _ (fun t f _ ht => State.arbWrite_lasting f (State.planWrite_lasting f ht))
    (State.begin_lasting (.refl _ _))
  have h2 : Lasting NoField s a2 := h1.updHub _
  exact lasting_finish (.foldl _ _ (fun t f _ ht => .foldl _ _
    (fun u k _ hu => hu.only (State.linkStart_only _ f _ (Fits.refl _) trivial)) ht) h2)

theorem execLinksStageTimeout_lasting (s : State) : LeavesLasting s (execLinksStageTimeout s) :=
  .ite (fun _ => lasting_finish (State.bootSettle_lasting (State.stageClose_lasting _ _ (.refl _ _)))) (fun _ => lasting_same s)

theorem execStageKnownAnswer_lasting (plots : List Nat) (rims : Fin 16) (s : State) :
    LeavesLasting s (execStageKnownAnswer plots rims s) := by
  have hbegin : ∀ G, Lasting G s s.begin := fun G => State.begin_lasting (.refl _ _)
  exact .ite (fun _ => lasting_same s) (fun _ => .ite (fun _ => lasting_finish (State.stageClose_lasting _ _ (hbegin _)))
    (fun _ => lasting_finish (Lasting.exempt_starting
      (.foldl _ _ (fun t f hf ht => State.katField_lasting f _ _ (starting_of_mem hf) ht) (hbegin _)))))

theorem execStageFirmware_lasting (s : State) : LeavesLasting s (execStageFirmware s) := by
  unfold execStageFirmware
  refine .ite (fun _ => lasting_same s) (fun _ => ?_)
  extract_lets a1 host
  have h1 : Lasting NoField s a1 := .foldl _ _ (fun t f _ ht => ht.only (State.imageWrite_only _ f (Fits.refl _) trivial))
    (State.begin_lasting (.refl _ _))
  exact .ite (fun _ => lasting_finish (State.stageWait_lasting h1))
    (fun _ => lasting_finish (h1.only (State.deliverAll_only _ (Fits.refl _) (fun _ => trivial) (fun _ => trivial))))

theorem execImagesReady_lasting (s : State) : LeavesLasting s (execImagesReady s) :=
  lasting_finish (State.imagesReady_lasting (.refl _ _))

theorem execStageFabric_lasting (s : State) : LeavesLasting s (execStageFabric s) :=
  .ite (fun _ => lasting_finish (State.bootSettle_lasting (State.fabricStart_lasting (.refl _ _)))) (fun _ => lasting_same s)

theorem execFabricStageTimeout_lasting (s : State) : LeavesLasting s (execFabricStageTimeout s) :=
  .ite (fun _ => lasting_finish (State.bootSettle_lasting (State.stageClose_lasting _ _ (.refl _ _)))) (fun _ => lasting_same s)

theorem execStageReady_lasting (s : State) : LeavesLasting s (execStageReady s) := by
  unfold execStageReady
  refine .ite (fun _ => lasting_same s) (fun _ => ?_)
  extract_lets a1
  have h1 : Lasting (starting s) s a1 := .foldl _ _
    (fun t f hf ht => ht.setSvc_exempt _ _ (by decide) (starting_of_mem hf)) (State.begin_lasting (.refl _ _))
  exact lasting_finish (((State.setPhase_lasting _
    (h1.only (State.stageTime_only _ _ (Fits.refl _)))).hset Reg.SEED_STAGE.RESULT _ _ _).raiseHub _ _ _).exempt_starting

theorem execStageEnd_lasting (s : State) : LeavesLasting s (execStageEnd s) :=
  .ite (fun _ => lasting_finish (State.bootSettle_lasting (State.stageEnd_lasting (.refl _ _)))) (fun _ => lasting_same s)

theorem execStageGo_lasting (stage : Fin 16) (s : State) : LeavesLasting s (execStageGo stage s) :=
  lasting_finish (State.bootSettle_lasting (State.stageGo_lasting _ (.refl _ _)))

theorem execStageSkip_lasting (stage : Fin 16) (s : State) : LeavesLasting s (execStageSkip stage s) :=
  lasting_finish (State.bootSettle_lasting (State.stageSkip_lasting _ (.refl _ _)))

/-! ### Resets and debug access -/

theorem execColdReset_lasting (powerOn : Bool) (straps : Fin 16) (vbat : Vbat) (s : State) :
    LeavesLasting s (execColdReset powerOn straps vbat s) :=
  lasting_finish (.of_counted (State.coldReset_resets s powerOn straps.val vbat))

theorem execWarmReset_lasting (i3c : Bool) (s : State) : LeavesLasting s (execWarmReset i3c s) :=
  lasting_finish (.of_counted (State.warmReset_resets s i3c))

theorem execPartitionReset_lasting (f : FieldId) (s : State) : LeavesLasting s (execPartitionReset f s) :=
  lasting_finish (State.partReset_lasting f (.refl _ _))

theorem execPartitionResetDone_lasting (f : FieldId) (march : Nat) (s : State) :
    LeavesLasting s (execPartitionResetDone f march s) :=
  .ite (fun hsvc => lasting_finish ((State.partDone_lasting (F := (· = f)) f march rfl (.refl _ _)).exempt
      (fun g hg => by rw [hg, hsvc]; exact ⟨by decide, by decide⟩)))
    (fun _ => lasting_same s)

theorem execJtagResponse_lasting (sigR sigS : Nat) (s : State) : LeavesLasting s (execJtagResponse sigR sigS s) :=
  lasting_finish (State.jtagResponse_lasting _ _ (((Lasting.refl _ s).hset Reg.HUB_JTAG_RESP.SIG_R _ _ _).hset Reg.HUB_JTAG_RESP.SIG_S _ _ _))

theorem execJtagHoldoffEnd_lasting (s : State) : LeavesLasting s (execJtagHoldoffEnd s) := lasting_next ((Lasting.refl _ s).updSeed _)

theorem State.idle_lasting (s : State) : LeavesLasting s s.idle :=
  lasting_finish (.foldl _ _ (fun t f _ ht => ht.only (State.notifyField_only _ f (Fits.refl _) trivial (fun _ => trivial)))
    (State.heldServe_lasting (State.serveHost_lasting ((Lasting.refl _ s).only (State.tick_only _ (Fits.refl _) (fun _ => trivial))))))

end Sys2Proof.Machine
end

section
/-! From every command the service states last, so from every step (R29). -/

namespace Sys2Proof.Machine

set_option Elab.async false

open Sys2Proof

/-- Every command of the operation table: by its frame where neither the service states nor the sequencer are among its parts. -/
theorem exec_lasting (i : Instr) (s : State) : LeavesLasting s (exec i s) := by
  cases i with
  | registerWrite a sp off bytes value => exact execRegisterWrite_lasting a sp off bytes value s
  | heartbeat => exact lasting_of_frame (execHeartbeat_only s (Fits.refl _) (fun _ => trivial))
  | hubLostEntry f => exact lasting_of_frame (execHubLostEntry_only f s (Fits.refl _) trivial)
  | d2dModuleLoss k => exact lasting_of_frame (execD2dModuleLoss_only k s (Fits.refl _))
  | rimFatalError f => exact execRimFatalError_lasting f s
  | tinePassStart f p => exact lasting_of_frame (execTinePassStart_only f p s (Fits.refl _) trivial trivial)
  | weightLoad f p => exact lasting_of_frame (execWeightLoad_only f p s (Fits.refl _) trivial trivial)
  | tinePassRetire f p => exact lasting_of_frame (execTinePassRetire_only f p s (Fits.refl _) trivial trivial)
  | degenerateRetire f p => exact lasting_of_frame (execDegenerateRetire_only f p s (Fits.refl _) trivial trivial)
  | ballastRow f p t => exact lasting_of_frame (execBallastRow_only f p t s (Fits.refl _) trivial trivial)
  | sampleProcess f p => exact lasting_of_frame (execSampleProcess_only f p s (Fits.refl _) trivial trivial)
  | injWitnessLane f plot tine column b lane =>
    exact lasting_of_frame (execInjWitnessLane_only f plot tine column b lane s (Fits.refl _) trivial)
  | injWitnessWeight f plot tine column b lane =>
    exact lasting_of_frame (execInjWitnessWeight_only f plot tine column b lane s (Fits.refl _) trivial)
  | injScarecrowBias f plot tine column b lane =>
    exact lasting_of_frame (execInjScarecrowBias_only f plot tine column b lane s (Fits.refl _) trivial)
  | injBinSingle f plot tine column b lane =>
    exact lasting_of_frame (execInjBinSingle_only f plot tine column b lane s (Fits.refl _) trivial)
  | injBinDouble f plot tine column b lane =>
    exact lasting_of_frame (execInjBinDouble_only f plot tine column b lane s (Fits.refl _) trivial)
  | injClassReport f plot tine column b lane =>
    exact lasting_of_frame (execInjClassReport_only f plot tine column b lane s (Fits.refl _) trivial)
  | drillInstruction f p => exact lasting_of_frame (execDrillInstruction_only f p s (Fits.refl _) trivial trivial)
  | drillLoad f p k rd rs1 imm compressed =>
    exact lasting_of_frame (execDrillLoad_only f p k rd rs1 imm compressed s (Fits.refl _) trivial trivial)
  | drillStore f p k rs2 rs1 imm compressed =>
    exact lasting_of_frame (execDrillStore_only f p k rs2 rs1 imm compressed s (Fits.refl _) trivial trivial)
  | ebreak f p compressed => exact lasting_of_frame (execEbreak_only f p compressed s (Fits.refl _) trivial trivial)
  | ecall f p => exact lasting_of_frame (execEcall_only f p s (Fits.refl _) trivial trivial)
  | mret f p => exact lasting_of_frame (execMret_only f p s (Fits.refl _) trivial trivial)
  | wfi f p => exact lasting_of_frame (execWfi_only f p s (Fits.refl _) trivial trivial)
  | wfiWake f p => exact lasting_of_frame (execWfiWake_only f p s (Fits.refl _) trivial trivial)
  | fence f p => exact lasting_of_frame (execFence_only f p s (Fits.refl _) trivial trivial)
  | fenceI f p => exact lasting_of_frame (execFenceI_only f p s (Fits.refl _) trivial trivial)
  | drillInterrupt f p => exact lasting_of_frame (execDrillInterrupt_only f p s (Fits.refl _) trivial trivial)
  | drillHoldSet f p => exact lasting_of_frame (execDrillHoldSet_only f p s (Fits.refl _) trivial trivial)
  | drillHoldClear f p => exact lasting_of_frame (execDrillHoldClear_only f p s (Fits.refl _) trivial trivial)
  | haltReq f p => exact lasting_of_frame (execHaltReq_only f p s (Fits.refl _) trivial trivial)
  | haltReqHonour f p => exact lasting_of_frame (execHaltReqHonour_only f p s (Fits.refl _) trivial trivial)
  | resume f p => exact lasting_of_frame (execResume_only f p s (Fits.refl _) trivial trivial)
  | plotStoreScrub f p => exact lasting_of_frame (execPlotStoreScrub_only f p s (Fits.refl _) trivial trivial)
  | plotStoreMeshWrite f p addr data poisoned =>
    exact lasting_of_frame (execPlotStoreMeshWrite_only f p addr data poisoned s (Fits.refl _) trivial trivial)
  | xferNop f p => exact lasting_of_frame (execXferNop_only f p s (Fits.refl _) trivial trivial)
  | xferGet f p => exact lasting_of_frame (execXferGet_only f p s (Fits.refl _) trivial trivial)
  | xferPut f p => exact lasting_of_frame (execXferPut_only f p s (Fits.refl _) trivial trivial)
  | xferPutPartial f p => exact lasting_of_frame (execXferPutPartial_only f p s (Fits.refl _) trivial trivial)
  | xferPutReduce f p => exact lasting_of_frame (execXferPutReduce_only f p s (Fits.refl _) trivial trivial)
  | xferMcastPut f p => exact lasting_of_frame (execXferMcastPut_only f p s (Fits.refl _) trivial trivial)
  | xferFetchAdd f p => exact lasting_of_frame (execXferFetchAdd_only f p s (Fits.refl _) trivial trivial)
  | xferCompareSwap f p => exact lasting_of_frame (execXferCompareSwap_only f p s (Fits.refl _) trivial trivial)
  | xferLineIssue f p => exact lasting_of_frame (execXferLineIssue_only f p s (Fits.refl _) trivial trivial)
  | xferLineDone f p qsn line => exact lasting_of_frame (execXferLineDone_only f p qsn line s (Fits.refl _) trivial (fun _ => trivial))
  | xferDescriptorComplete f p qsn => exact lasting_of_frame (execXferDescriptorComplete_only f p qsn s (Fits.refl _) trivial trivial)
  | pltDoorbellSet f p v => exact lasting_of_frame (execPltDoorbellSet_only f p v s (Fits.refl _) trivial trivial)
  | pltDoorbellClear f p v => exact lasting_of_frame (execPltDoorbellClear_only f p v s (Fits.refl _) trivial trivial)
  | fldDoorbellRing f v target scope =>
    exact lasting_of_frame (execFldDoorbellRing_only f v target scope s (Fits.refl _) trivial (fun _ => trivial))
  | pltNotify f p v leaves => exact lasting_of_frame (execPltNotify_only f p v leaves s (Fits.refl _) trivial trivial)
  | mailboxSend ep => exact lasting_of_frame (execMailboxSend_only ep s (Fits.refl _) (fun _ => trivial) (fun _ => trivial))
  | mailboxDeliver ep => exact lasting_of_frame (execMailboxDeliver_only ep s (Fits.refl _) (fun _ => trivial) (fun _ => trivial))
  | mailboxInAck ep code =>
    exact lasting_of_frame (execMailboxInAck_only ep code s (Fits.refl _) (fun _ => trivial) (fun _ => trivial))
  | tdld f p dr rs1 => exact lasting_of_frame (execTdld_only f p dr rs1 s (Fits.refl _) trivial trivial)
  | tdset f p dr rs1 w => exact lasting_of_frame (execTdset_only f p dr rs1 w s (Fits.refl _) trivial trivial)
  | tdget f p rd dr w => exact lasting_of_frame (execTdget_only f p rd dr w s (Fits.refl _) trivial trivial)
  | tmm f p rd dr rs2 int => exact lasting_of_frame (execTmm_only f p rd dr rs2 int s (Fits.refl _) trivial trivial)
  | tvec f p rd dr rs2 int => exact lasting_of_frame (execTvec_only f p rd dr rs2 int s (Fits.refl _) trivial trivial)
  | txfer f p rd rs1 => exact lasting_of_frame (execTxfer_only f p rd rs1 s (Fits.refl _) trivial trivial)
  | tfence f p rd int => exact lasting_of_frame (execTfence_only f p rd int s (Fits.refl _) trivial trivial)
  | tfenceStart f p => exact lasting_of_frame (execTfenceStart_only f p s (Fits.refl _) trivial trivial)
  | tscdrain f p rd int => exact lasting_of_frame (execTscdrain_only f p rd int s (Fits.refl _) trivial trivial)
  | tscdrainStart f p => exact lasting_of_frame (execTscdrainStart_only f p s (Fits.refl _) trivial trivial)
  | tscdrainComplete f p => exact lasting_of_frame (execTscdrainComplete_only f p s (Fits.refl _) trivial trivial)
  | trfence f p rd rs1 int => exact lasting_of_frame (execTrfence_only f p rd rs1 int s (Fits.refl _) trivial trivial)
  | trfenceStart f p => exact lasting_of_frame (execTrfenceStart_only f p s (Fits.refl _) trivial (fun _ => trivial))
  | trfenceComplete f p => exact lasting_of_frame (execTrfenceComplete_only f p s (Fits.refl _) trivial trivial)
  | twait f p rd rs1 => exact lasting_of_frame (execTwait_only f p rd rs1 s (Fits.refl _) trivial trivial)
  | twaitEnd f p => exact lasting_of_frame (execTwaitEnd_only f p s (Fits.refl _) trivial trivial)
  | tvecNop f p => exact lasting_of_frame (execTvecNop_only f p s (Fits.refl _) trivial trivial)
  | tvecAdd f p => exact lasting_of_frame (execTvecAdd_only f p s (Fits.refl _) trivial trivial)
  | tvecSub f p => exact lasting_of_frame (execTvecSub_only f p s (Fits.refl _) trivial trivial)
  | tvecMul f p => exact lasting_of_frame (execTvecMul_only f p s (Fits.refl _) trivial trivial)
  | tvecFma f p => exact lasting_of_frame (execTvecFma_only f p s (Fits.refl _) trivial trivial)
  | tvecMin f p => exact lasting_of_frame (execTvecMin_only f p s (Fits.refl _) trivial trivial)
  | tvecMax f p => exact lasting_of_frame (execTvecMax_only f p s (Fits.refl _) trivial trivial)
  | tvecAbs f p => exact lasting_of_frame (execTvecAbs_only f p s (Fits.refl _) trivial trivial)
  | tvecNeg f p => exact lasting_of_frame (execTvecNeg_only f p s (Fits.refl _) trivial trivial)
  | tvecCmp f p => exact lasting_of_frame (execTvecCmp_only f p s (Fits.refl _) trivial trivial)
  | tvecSelect f p => exact lasting_of_frame (execTvecSelect_only f p s (Fits.refl _) trivial trivial)
  | tvecExp2 f p => exact lasting_of_frame (execTvecExp2_only f p s (Fits.refl _) trivial trivial)
  | tvecLog2 f p => exact lasting_of_frame (execTvecLog2_only f p s (Fits.refl _) trivial trivial)
  | tvecRecip f p => exact lasting_of_frame (execTvecRecip_only f p s (Fits.refl _) trivial trivial)
  | tvecRsqrt f p => exact lasting_of_frame (execTvecRsqrt_only f p s (Fits.refl _) trivial trivial)
  | tvecIadd f p => exact lasting_of_frame (execTvecIadd_only f p s (Fits.refl _) trivial trivial)
  | tvecIsub f p => exact lasting_of_frame (execTvecIsub_only f p s (Fits.refl _) trivial trivial)
  | tvecImin f p => exact lasting_of_frame (execTvecImin_only f p s (Fits.refl _) trivial trivial)
  | tvecImax f p => exact lasting_of_frame (execTvecImax_only f p s (Fits.refl _) trivial trivial)
  | tvecAnd f p => exact lasting_of_frame (execTvecAnd_only f p s (Fits.refl _) trivial trivial)
  | tvecOr f p => exact lasting_of_frame (execTvecOr_only f p s (Fits.refl _) trivial trivial)
  | tvecXor f p => exact lasting_of_frame (execTvecXor_only f p s (Fits.refl _) trivial trivial)
  | tvecSll f p => exact lasting_of_frame (execTvecSll_only f p s (Fits.refl _) trivial trivial)
  | tvecSra f p => exact lasting_of_frame (execTvecSra_only f p s (Fits.refl _) trivial trivial)
  | tvecSrl f p => exact lasting_of_frame (execTvecSrl_only f p s (Fits.refl _) trivial trivial)
  | tvecIcmp f p => exact lasting_of_frame (execTvecIcmp_only f p s (Fits.refl _) trivial trivial)
  | tvecCvt f p => exact lasting_of_frame (execTvecCvt_only f p s (Fits.refl _) trivial trivial)
  | tvecBenc f p => exact lasting_of_frame (execTvecBenc_only f p s (Fits.refl _) trivial trivial)
  | tvecBscale f p => exact lasting_of_frame (execTvecBscale_only f p s (Fits.refl _) trivial trivial)
  | tvecBdec f p => exact lasting_of_frame (execTvecBdec_only f p s (Fits.refl _) trivial trivial)
  | tvecAmax f p => exact lasting_of_frame (execTvecAmax_only f p s (Fits.refl _) trivial trivial)
  | tvecSum f p => exact lasting_of_frame (execTvecSum_only f p s (Fits.refl _) trivial trivial)
  | tvecComplete f p => exact lasting_of_frame (execTvecComplete_only f p s (Fits.refl _) trivial trivial)
  | cqPop f p rd rs1 imm compressed =>
    exact lasting_of_frame (execCqPop_only f p rd rs1 imm compressed s (Fits.refl _) trivial trivial)
  | hbmRead f half src => exact lasting_of_frame (execHbmRead_only f half src s (Fits.refl _) trivial)
  | hbmWrite f addr data poisoned src => exact lasting_of_frame (execHbmWrite_only f addr data poisoned src s (Fits.refl _) trivial)
  | hbmStackLost f stack => exact execHbmStackLost_lasting f stack s
  | ecsRead f count0 count1 => exact lasting_of_frame (execEcsRead_only f count0 count1 s (Fits.refl _) trivial)
  | hbmPatrolScrub f pc => exact lasting_of_frame (execHbmPatrolScrub_only f pc s (Fits.refl _) trivial)
  | mirrorWriteRelease f => exact lasting_of_frame (execMirrorWriteRelease_only f s (Fits.refl _) trivial)
  | plotFallowSet f phys => exact lasting_of_frame (execPlotFallowSet_only f phys s (Fits.refl _) trivial (fun _ => trivial))
  | meshMulticast f isRow index mask load =>
    exact lasting_of_frame (execMeshMulticast_only f isRow index mask load s (Fits.refl _) trivial (fun _ => trivial))
  | meshMulticastComplete f => exact lasting_of_frame (execMeshMulticastComplete_only f s (Fits.refl _) trivial)
  | calSlotStart port => exact lasting_of_frame (execCalSlotStart_only port s (Fits.refl _) (fun _ => trivial))
  | calSlotEnd port rx => exact lasting_of_frame (execCalSlotEnd_only port rx s (Fits.refl _) (fun _ => trivial))
  | calLockTimeout port rx => exact lasting_of_frame (execCalLockTimeout_only port rx s (Fits.refl _) (fun _ => trivial))
  | wavelengthFail port rx w reason =>
    exact lasting_of_frame (execWavelengthFail_only port rx w reason s (Fits.refl _) (fun _ => trivial))
  | laneRetry port w => exact lasting_of_frame (execLaneRetry_only port w s (Fits.refl _) (fun _ => trivial))
  | laneRetryEnd port rx w pass => exact lasting_of_frame (execLaneRetryEnd_only port rx w pass s (Fits.refl _) (fun _ => trivial))
  | rxPowerMeasure f n powers => exact lasting_of_frame (execRxPowerMeasure_only f n powers s (Fits.refl _) trivial)
  | marginEval inletA inletB => exact lasting_of_frame (execMarginEval_only inletA inletB s (Fits.refl _) (fun _ => trivial))
  | switchoverRunStart atMark => exact lasting_of_frame (execSwitchoverRunStart_only atMark s (Fits.refl _) (fun _ => trivial))
  | engineSwitchover => exact lasting_of_frame (execEngineSwitchover_only s (Fits.refl _) (fun _ => trivial))
  | engineSwitchoverEnd micros lost =>
    exact lasting_of_frame (execEngineSwitchoverEnd_only micros lost s (Fits.refl _) (fun _ => trivial))
  | engineSwitchReq f e target => exact lasting_of_frame (execEngineSwitchReq_only f e target s (Fits.refl _) trivial)
  | engineSwitchNow f e target => exact lasting_of_frame (execEngineSwitchNow_only f e target s (Fits.refl _) trivial)
  | modulePoll m answer => exact lasting_of_frame (execModulePoll_only m answer s (Fits.refl _))
  | moduleIbi m faults => exact lasting_of_frame (execModuleIbi_only m faults s (Fits.refl _))
  | laserEnDeassert => exact lasting_of_frame (execLaserEnDeassert_only s (Fits.refl _) (fun _ => trivial))
  | relight env => exact lasting_of_frame (execRelight_only env s (Fits.refl _) (fun _ => trivial))
  | inletLost engine m => exact lasting_of_frame (execInletLost_only engine m s (Fits.refl _) (fun _ => trivial))
  | aprEnter port => exact lasting_of_frame (execAprEnter_only port s (Fits.refl _) (fun _ => trivial))
  | aprExit port => exact lasting_of_frame (execAprExit_only port s (Fits.refl _) (fun _ => trivial))
  | txModeReq f n mode => exact lasting_of_frame (execTxModeReq_only f n mode s (Fits.refl _) trivial)
  | wavelengthLock f n w => exact lasting_of_frame (execWavelengthLock_only f n w s (Fits.refl _) trivial)
  | wavelengthLockLoss f n w => exact lasting_of_frame (execWavelengthLockLoss_only f n w s (Fits.refl _) trivial)
  | mapChange f n slot wave => exact lasting_of_frame (execMapChange_only f n slot wave s (Fits.refl _) trivial)
  | modeChange f n mode => exact lasting_of_frame (execModeChange_only f n mode s (Fits.refl _) trivial)
  | cal f n w ends => exact lasting_of_frame (execCal_only f n w ends s (Fits.refl _) trivial)
  | calDone f n w confirmed => exact lasting_of_frame (execCalDone_only f n w confirmed s (Fits.refl _) trivial)
  | laneFailed f n w reason => exact lasting_of_frame (execLaneFailed_only f n w reason s (Fits.refl _) trivial)
  | lightPause f n begins => exact lasting_of_frame (execLightPause_only f n begins s (Fits.refl _) trivial)
  | powerReport f n part powers => exact lasting_of_frame (execPowerReport_only f n part powers s (Fits.refl _) trivial)
  | beacon f n part arg => exact lasting_of_frame (execBeacon_only f n part arg s (Fits.refl _) trivial)
  | train f n farState ready lastSeq => exact lasting_of_frame (execTrain_only f n farState ready lastSeq s (Fits.refl _) trivial)
  | qualResult f n mask => exact lasting_of_frame (execQualResult_only f n mask s (Fits.refl _) trivial)
  | retrain f n => exact lasting_of_frame (execRetrain_only f n s (Fits.refl _) trivial)
  | switchGroup f rx => exact lasting_of_frame (execSwitchGroup_only f rx s (Fits.refl _) trivial)
  | switchTimeout f n => exact lasting_of_frame (execSwitchTimeout_only f n s (Fits.refl _) trivial)
  | modeChangeResume f n flits => exact lasting_of_frame (execModeChangeResume_only f n flits s (Fits.refl _) trivial)
  | lightPauseTimeout f n => exact lasting_of_frame (execLightPauseTimeout_only f n s (Fits.refl _) trivial)
  | dataFlit f n ty flit => exact lasting_of_frame (execDataFlit_only f n ty flit s (Fits.refl _) trivial)
  | idleFlit f n flit => exact lasting_of_frame (execIdleFlit_only f n flit s (Fits.refl _) trivial)
  | nakFlit f n flit => exact lasting_of_frame (execNakFlit_only f n flit s (Fits.refl _) trivial)
  | flitSlot f link => exact lasting_of_frame (execFlitSlot_only f link s (Fits.refl _) trivial)
  | replayTimeout f n seq => exact lasting_of_frame (execReplayTimeout_only f n seq s (Fits.refl _) trivial)
  | lockTimeout f n => exact lasting_of_frame (execLockTimeout_only f n s (Fits.refl _) trivial)
  | qualifyEnd f n w lineBits corrected uncorrectable =>
    exact lasting_of_frame (execQualifyEnd_only f n w lineBits corrected uncorrectable s (Fits.refl _) trivial)
  | rxSilentTimeout f n => exact lasting_of_frame (execRxSilentTimeout_only f n s (Fits.refl _) trivial)
  | retrainTimeout f n => exact lasting_of_frame (execRetrainTimeout_only f n s (Fits.refl _) trivial)
  | linkEnableClear f n => exact lasting_of_frame (execLinkEnableClear_only f n s (Fits.refl _) trivial)
  | linkRetry f n => exact lasting_of_frame (execLinkRetry_only f n s (Fits.refl _) trivial)
  | beaconSend f n => exact lasting_of_frame (execBeaconSend_only f n s (Fits.refl _) trivial)
  | laneControlRepeat f n => exact lasting_of_frame (execLaneControlRepeat_only f n s (Fits.refl _) trivial)
  | missingTimeout f n => exact lasting_of_frame (execMissingTimeout_only f n s (Fits.refl _) trivial)
  | discApprove f mask => exact lasting_of_frame (execDiscApprove_only f mask s (Fits.refl _) trivial)
  | discApprovalWithdraw f n => exact lasting_of_frame (execDiscApprovalWithdraw_only f n s (Fits.refl _) trivial)
  | routePacket f link vc stage => exact lasting_of_frame (execRoutePacket_only f link vc stage s (Fits.refl _) trivial)
  | mcastCopy f => exact lasting_of_frame (execMcastCopy_only f s (Fits.refl _) trivial)
  | sealTables f => exact lasting_of_frame (execSeal_only f s (Fits.refl _) trivial)
  | congSample f => exact lasting_of_frame (execCongSample_only f s (Fits.refl _) trivial)
  | congWindowEnd f => exact lasting_of_frame (execCongWindowEnd_only f s (Fits.refl _) trivial)
  | fldAllotWrite f id => exact lasting_of_frame (execFldAllotWrite_only f id s (Fits.refl _) trivial)
  | gatewayLineAccept f p => exact lasting_of_frame (execGatewayLineAccept_only f p s (Fits.refl _) trivial trivial)
  | orderedLineSend f req => exact lasting_of_frame (execOrderedLineSend_only f req s (Fits.refl _) trivial (fun _ => trivial))
  | get f pkt => exact lasting_of_frame (execGet_only f pkt s (Fits.refl _) trivial (fun _ => trivial))
  | put f pkt => exact lasting_of_frame (execPut_only f pkt s (Fits.refl _) trivial (fun _ => trivial))
  | putPartial f pkt => exact lasting_of_frame (execPutPartial_only f pkt s (Fits.refl _) trivial (fun _ => trivial))
  | putReduce f pkt => exact lasting_of_frame (execPutReduce_only f pkt s (Fits.refl _) trivial (fun _ => trivial))
  | putReduceComb f pkt => exact lasting_of_frame (execPutReduceComb_only f pkt s (Fits.refl _) trivial (fun _ => trivial))
  | mcastPut f pkt => exact lasting_of_frame (execMcastPut_only f pkt s (Fits.refl _) trivial (fun _ => trivial))
  | fetchAdd f pkt => exact lasting_of_frame (execFetchAdd_only f pkt s (Fits.refl _) trivial)
  | compareSwap f pkt => exact lasting_of_frame (execCompareSwap_only f pkt s (Fits.refl _) trivial)
  | flushReq f pkt => exact lasting_of_frame (execFlushReq_only f pkt s (Fits.refl _) trivial)
  | getResp f pkt => exact lasting_of_frame (execGetResp_only f pkt s (Fits.refl _) trivial (fun _ => trivial))
  | ack f pkt => exact lasting_of_frame (execAck_only f pkt s (Fits.refl _) trivial (fun _ => trivial))
  | defer f pkt => exact lasting_of_frame (execDefer_only f pkt s (Fits.refl _) trivial)
  | atomicResp f pkt => exact lasting_of_frame (execAtomicResp_only f pkt s (Fits.refl _) trivial (fun _ => trivial))
  | mcAck f pkt => exact lasting_of_frame (execMcAck_only f pkt s (Fits.refl _) trivial (fun _ => trivial))
  | flushAck f pkt => exact lasting_of_frame (execFlushAck_only f pkt s (Fits.refl _) trivial (fun _ => trivial))
  | ackSend f src => exact lasting_of_frame (execAckSend_only f src s (Fits.refl _) trivial)
  | deferResend f req => exact lasting_of_frame (execDeferResend_only f req s (Fits.refl _) trivial)
  | ageTokenTimeout f src => exact lasting_of_frame (execAgeTokenTimeout_only f src s (Fits.refl _) trivial)
  | retxTimeout f req member => exact lasting_of_frame (execRetxTimeout_only f req member s (Fits.refl _) trivial (fun _ => trivial))
  | allotHalt f id => exact lasting_of_frame (execAllotHalt_only f id s (Fits.refl _) trivial (fun _ => trivial))
  | absorberWriteback f line => exact lasting_of_frame (execAbsorberWriteback_only f line s (Fits.refl _) trivial)
  | atomicCacheExpiry f src txn => exact lasting_of_frame (execAtomicCacheExpiry_only f src txn s (Fits.refl _) trivial)
  | gwyRedRelease f id => exact lasting_of_frame (execGwyRedRelease_only f id s (Fits.refl _) trivial)
  | combSlotSend f slot aged => exact lasting_of_frame (execCombSlotSend_only f slot aged s (Fits.refl _) trivial)
  | putReduceResume f => exact lasting_of_frame (execPutReduceResume_only f s (Fits.refl _) trivial (fun _ => trivial))
  | register f slot addr => exact lasting_of_frame (execRegister_only f slot addr s (Fits.refl _) trivial)
  | registrationComplete f slot => exact lasting_of_frame (execRegistrationComplete_only f slot s (Fits.refl _) trivial)
  | reform f slot addr => exact lasting_of_frame (execReform_only f slot addr s (Fits.refl _) trivial (fun _ => trivial))
  | release f slot => exact lasting_of_frame (execRelease_only f slot s (Fits.refl _) trivial (fun _ => trivial))
  | tailWrite f slot => exact lasting_of_frame (execTailWrite_only f slot s (Fits.refl _) trivial)
  | collectiveStart f slot => exact lasting_of_frame (execCollectiveStart_only f slot s (Fits.refl _) trivial (fun _ => trivial))
  | readyLineWrite f slot => exact lasting_of_frame (execReadyLineWrite_only f slot s (Fits.refl _) trivial)
  | digest f pkt => exact lasting_of_frame (execDigest_only f pkt s (Fits.refl _) trivial (fun _ => trivial))
  | piece f pkt => exact lasting_of_frame (execPiece_only f pkt s (Fits.refl _) trivial)
  | pieceSend f slot stage dst => exact lasting_of_frame (execPieceSend_only f slot stage dst s (Fits.refl _) trivial)
  | chunkFold f slot stage chunk =>
    exact lasting_of_frame (execChunkFold_only f slot stage chunk s (Fits.refl _) trivial (fun _ => trivial))
  | gather f pkt => exact lasting_of_frame (execGather_only f pkt s (Fits.refl _) trivial (fun _ => trivial))
  | receipt f pkt => exact lasting_of_frame (execReceipt_only f pkt s (Fits.refl _) trivial (fun _ => trivial))
  | credit f pkt => exact lasting_of_frame (execCredit_only f pkt s (Fits.refl _) trivial)
  | abort f pkt => exact lasting_of_frame (execAbort_only f pkt s (Fits.refl _) trivial (fun _ => trivial))
  | partResend f slot k => exact lasting_of_frame (execPartResend_only f slot k s (Fits.refl _) trivial)
  | stageTimeout f slot => exact lasting_of_frame (execStageTimeout_only f slot s (Fits.refl _) trivial (fun _ => trivial))
  | healthWindowClose => exact lasting_of_frame (execHealthWindowClose_only s (Fits.refl _) (fun _ => trivial))
  | hardEvent f => exact lasting_of_frame (execHardEvent_only f s (Fits.refl _) trivial)
  | expelClear f => exact lasting_of_frame (execExpelClear_only f s (Fits.refl _) trivial)
  | granuleTake f granule => exact lasting_of_frame (execGranuleTake_only f granule s (Fits.refl _) trivial)
  | mirMarkSend f => exact lasting_of_frame (execMirMarkSend_only f s (Fits.refl _) trivial)
  | mirMark f pkt => exact lasting_of_frame (execMirMark_only f pkt s (Fits.refl _) trivial (fun _ => trivial))
  | mirLayout f pkt => exact lasting_of_frame (execMirLayout_only f pkt s (Fits.refl _) trivial (fun _ => trivial))
  | mirPull f pkt => exact lasting_of_frame (execMirPull_only f pkt s (Fits.refl _) trivial (fun _ => trivial))
  | mirPush f n => exact lasting_of_frame (execMirPush_only f n s (Fits.refl _) trivial)
  | mirDone f pkt => exact lasting_of_frame (execMirDone_only f pkt s (Fits.refl _) trivial (fun _ => trivial))
  | mirPartnerTimeout f n => exact lasting_of_frame (execMirPartnerTimeout_only f n s (Fits.refl _) trivial)
  | mirLayoutRetry f n => exact lasting_of_frame (execMirLayoutRetry_only f n s (Fits.refl _) trivial)
  | mirLoadStart f => exact lasting_of_frame (execMirLoadStart_only f s (Fits.refl _) trivial)
  | mirLoadAbort f => exact lasting_of_frame (execMirLoadAbort_only f s (Fits.refl _) trivial)
  | mirLoadTimeout f => exact lasting_of_frame (execMirLoadTimeout_only f s (Fits.refl _) trivial)
  | injReq => exact lasting_of_frame (execInjReq_only s (Fits.refl _))
  | injValue value => exact lasting_of_frame (execInjValue_only value s (Fits.refl _) (fun _ => trivial))
  | injLock => exact lasting_of_frame (execInjLock_only s (Fits.refl _) (fun _ => trivial))
  | injWindowExpiry => exact lasting_of_frame (execInjWindowExpiry_only s (Fits.refl _))
  | injHoldoffEnd => exact lasting_of_frame (execInjHoldoffEnd_only s (Fits.refl _))
  | tallyBeaconSend f link => exact lasting_of_frame (execTallyBeaconSend_only f link s (Fits.refl _) trivial)
  | tallyBeacon f link pkt => exact lasting_of_frame (execTallyBeacon_only f link pkt s (Fits.refl _) trivial)
  | hubTallyBeacon => exact lasting_of_frame (execHubTallyBeacon_only s (Fits.refl _))
  | rootLost f => exact lasting_of_frame (execRootLost_only f s (Fits.refl _) trivial)
  | rootInitial f => exact lasting_of_frame (execRootInitial_only f s (Fits.refl _) trivial)
  | rootTakeover f => exact lasting_of_frame (execRootTakeover_only f s (Fits.refl _) trivial)
  | tallyLockTimeout f => exact lasting_of_frame (execTallyLockTimeout_only f s (Fits.refl _) trivial)
  | markArm f w => exact lasting_of_frame (execMarkArm_only f w s (Fits.refl _) trivial)
  | boundaryMark f => exact lasting_of_frame (execBoundaryMark_only f s (Fits.refl _) trivial (fun _ => trivial))
  | houseMark f => exact lasting_of_frame (execHouseMark_only f s (Fits.refl _) trivial (fun _ => trivial))
  | driftReportWrite f => exact lasting_of_frame (execDriftReportWrite_only f s (Fits.refl _) trivial)
  | stepTimingReportWrite f => exact lasting_of_frame (execStepTimingReportWrite_only f s (Fits.refl _) trivial)
  | redEntryRelease f => exact lasting_of_frame (execRedEntryRelease_only f s (Fits.refl _) trivial)
  | markDone f => exact lasting_of_frame (execMarkDone_only f s (Fits.refl _) trivial)
  | tallyMarkPulse => exact lasting_of_frame (execTallyMarkPulse_only s (Fits.refl _))
  | calendarComp temp => exact lasting_of_frame (execCalendarComp_only temp s (Fits.refl _))
  | calApply => exact lasting_of_frame (execCalApply_only s (Fits.refl _))
  | vbatLow => exact lasting_of_frame (execVbatLow_only s (Fits.refl _))
  | coldReset powerOn straps vbat => exact execColdReset_lasting powerOn straps vbat s
  | warmReset i3c => exact execWarmReset_lasting i3c s
  | partitionReset f => exact execPartitionReset_lasting f s
  | partitionResetDone f march => exact execPartitionResetDone_lasting f march s
  | stagePower env => exact execStagePower_lasting env s
  | stageSeed env flash => exact execStageSeed_lasting env flash s
  | stageFieldPower pgood rimOk modules => exact execStageFieldPower_lasting pgood rimOk modules s
  | stageMemory trained march carry repairs => exact execStageMemory_lasting trained march carry repairs s
  | stageLight env => exact execStageLight_lasting env s
  | stageLinks => exact execStageLinks_lasting s
  | stageKnownAnswer plots rims => exact execStageKnownAnswer_lasting plots rims s
  | stageFirmware => exact execStageFirmware_lasting s
  | stageFabric => exact execStageFabric_lasting s
  | stageReady => exact execStageReady_lasting s
  | stageEnd => exact execStageEnd_lasting s
  | stageGo stage => exact execStageGo_lasting stage s
  | stageSkip stage => exact execStageSkip_lasting stage s
  | hostImage => exact execHostImage_lasting s
  | imagesReady => exact execImagesReady_lasting s
  | hostLightRetry env => exact execHostLightRetry_lasting env s
  | pgoodTimeout f => exact execPgoodTimeout_lasting f s
  | linksStageTimeout => exact execLinksStageTimeout_lasting s
  | fabricStageTimeout => exact execFabricStageTimeout_lasting s
  | bootFetch f p => exact lasting_of_frame (execBootFetch_only f p s (Fits.refl _) trivial (fun _ => trivial))
  | sowingRow f timeout => exact lasting_of_frame (execSowingRow_only f timeout s (Fits.refl _) trivial (fun _ => trivial))
  | jtagResponse sigR sigS => exact execJtagResponse_lasting sigR sigS s
  | jtagHoldoffEnd => exact execJtagHoldoffEnd_lasting s
  | memoryRead fn bar2 addr len => exact execMemoryRead_lasting fn bar2 addr len s
  | memoryWrite fn bar2 addr data be ep => exact execMemoryWrite_lasting fn bar2 addr data be ep s
  | functionLevelReset fn =>
    exact lasting_of_frame (execFunctionLevelReset_only fn s (Fits.refl _) (fun _ => trivial) (fun _ => trivial))
  | powerStateChange fn d3 => exact lasting_of_frame (execPowerStateChange_only fn d3 s (Fits.refl _))
  | hostLinkRecovery => exact lasting_of_frame (execHostLinkRecovery_only s (Fits.refl _))
  | hostRetrain => exact lasting_of_frame (execHostRetrain_only s (Fits.refl _))
  | msixMessage fn cls cfg => exact lasting_of_frame (execMsixMessage_only fn cls cfg s (Fits.refl _))
  | evtConsWrite sp v => exact lasting_of_frame (execEvtConsWrite_only sp v s (Fits.refl _) (fun _ => trivial))
  | evtRingConfig sp enable sizeLog base =>
    exact lasting_of_frame (execEvtRingConfig_only sp enable sizeLog base s (Fits.refl _) (fun _ => trivial))
  | mgmtRead node off words => exact lasting_of_frame (execMgmtRead_only node off words s (Fits.refl _) (fun _ => trivial))
  | mgmtReadServe f arrive => exact lasting_of_frame (execMgmtReadServe_only f arrive s (Fits.refl _) trivial (fun _ => trivial))
  | mgmtReply pkt => exact lasting_of_frame (execMgmtReply_only pkt s (Fits.refl _) (fun _ => trivial))
  | mgmtTimeoutExpiry => exact lasting_of_frame (execMgmtTimeoutExpiry_only s (Fits.refl _))
  | eventForward f => exact lasting_of_frame (execEventForward_only f s (Fits.refl _) trivial)
  | forwardedEvent f pkt => exact lasting_of_frame (execForwardedEvent_only f pkt s (Fits.refl _) trivial)
  | fwdDiscardTimeout f => exact lasting_of_frame (execFwdDiscardTimeout_only f s (Fits.refl _) trivial)
  | powerModeRequest mode atMark limit =>
    exact lasting_of_frame (execPowerModeRequest_only mode atMark limit s (Fits.refl _) (fun _ => trivial))
  | powerModeChange => exact lasting_of_frame (execPowerModeChange_only s (Fits.refl _) (fun _ => trivial))
  | powerModeChangeComplete => exact lasting_of_frame (execPowerModeChangeComplete_only s (Fits.refl _) (fun _ => trivial))
  | governorPeriod p pb wantUp => exact lasting_of_frame (execGovernorPeriod_only p pb wantUp s (Fits.refl _) (fun _ => trivial))
  | rampRelease => exact lasting_of_frame (execRampRelease_only s (Fits.refl _))
  | startTokenGrant f => exact lasting_of_frame (execStartTokenGrant_only f s (Fits.refl _) trivial (fun _ => trivial))
  | pwrWarnAssert => exact lasting_of_frame (execPwrWarnAssert_only s (Fits.refl _) (fun _ => trivial))
  | holdEnd => exact lasting_of_frame (execHoldEnd_only s (Fits.refl _) (fun _ => trivial))
  | pgoodFall rail => exact execPgoodFall_lasting rail s
  | pgoodOptTimeout => exact lasting_of_frame (execPgoodOptTimeout_only s (Fits.refl _) (fun _ => trivial))
  | sensorSample f readings => exact execSensorSample_lasting f readings s
  | pinSample readings => exact lasting_of_frame (execPinSample_only readings s (Fits.refl _) (fun _ => trivial))
  | pinCritClear n => exact lasting_of_frame (execPinCritClear_only n s (Fits.refl _) (fun _ => trivial))
  | dropRecover f => exact lasting_of_frame (execDropRecover_only f s (Fits.refl _) trivial)
  | tdutyStep f => exact lasting_of_frame (execTdutyStep_only f s (Fits.refl _) trivial)
  | injHbmSymbol f target arg => exact lasting_of_frame (execInjHbmSymbol_only f target arg s (Fits.refl _) trivial)
  | injHbmDouble f target arg => exact lasting_of_frame (execInjHbmDouble_only f target arg s (Fits.refl _) trivial)
  | injStackLost f target arg => exact execInjStackLost_lasting f target arg s
  | injStoreSingle f target arg => exact lasting_of_frame (execInjStoreSingle_only f target arg s (Fits.refl _) trivial)
  | injStoreDouble f target arg => exact lasting_of_frame (execInjStoreDouble_only f target arg s (Fits.refl _) trivial)
  | injFecSymbols f target arg => exact lasting_of_frame (execInjFecSymbols_only f target arg s (Fits.refl _) trivial)
  | injFlitCrc f target arg => exact lasting_of_frame (execInjFlitCrc_only f target arg s (Fits.refl _) trivial)
  | injLaneFail f target arg => exact lasting_of_frame (execInjLaneFail_only f target arg s (Fits.refl _) trivial)
  | injRingUnlock f target arg => exact lasting_of_frame (execInjRingUnlock_only f target arg s (Fits.refl _) trivial)
  | injRxPower f target arg => exact lasting_of_frame (execInjRxPower_only f target arg s (Fits.refl _) trivial)
  | injBeaconId f target arg => exact lasting_of_frame (execInjBeaconId_only f target arg s (Fits.refl _) trivial)
  | injRetrain f target arg => exact lasting_of_frame (execInjRetrain_only f target arg s (Fits.refl _) trivial)
  | injNoAck f target arg => exact lasting_of_frame (execInjNoAck_only f target arg s (Fits.refl _) trivial)
  | injReqDrop f target arg => exact lasting_of_frame (execInjReqDrop_only f target arg s (Fits.refl _) trivial)
  | injDefer f target arg => exact lasting_of_frame (execInjDefer_only f target arg s (Fits.refl _) trivial)
  | injRedFull f target arg => exact lasting_of_frame (execInjRedFull_only f target arg s (Fits.refl _) trivial)
  | injCombRefuse f target arg => exact lasting_of_frame (execInjCombRefuse_only f target arg s (Fits.refl _) trivial)
  | injDigest f target arg => exact lasting_of_frame (execInjDigest_only f target arg s (Fits.refl _) trivial)
  | injSilent f target arg => exact lasting_of_frame (execInjSilent_only f target arg s (Fits.refl _) trivial)
  | injPieceDrop f target arg => exact lasting_of_frame (execInjPieceDrop_only f target arg s (Fits.refl _) trivial)
  | injDoneDigest f target arg => exact lasting_of_frame (execInjDoneDigest_only f target arg s (Fits.refl _) trivial)
  | injPushStall f target arg => exact lasting_of_frame (execInjPushStall_only f target arg s (Fits.refl _) trivial)
  | injBufFull f target arg => exact lasting_of_frame (execInjBufFull_only f target arg s (Fits.refl _) trivial)
  | injSkip f target arg => exact lasting_of_frame (execInjSkip_only f target arg s (Fits.refl _) trivial)
  | injOffset f target arg => exact lasting_of_frame (execInjOffset_only f target arg s (Fits.refl _) trivial)
  | injBeatStop f target arg => exact lasting_of_frame (execInjBeatStop_only f target arg s (Fits.refl _) trivial)
  | injBeaconMute f target arg => exact lasting_of_frame (execInjBeaconMute_only f target arg s (Fits.refl _) trivial)
  | injSensorOffset f target arg => exact lasting_of_frame (execInjSensorOffset_only f target arg s (Fits.refl _) trivial)
  | injSensorRamp f target arg => exact lasting_of_frame (execInjSensorRamp_only f target arg s (Fits.refl _) trivial)
  | injSensorBroken f target arg => exact lasting_of_frame (execInjSensorBroken_only f target arg s (Fits.refl _) trivial)
  | injPwrWarn target arg => exact lasting_of_frame (execInjPwrWarn_only target arg s (Fits.refl _) (fun _ => trivial))
  | injPinReading target arg => exact lasting_of_frame (execInjPinReading_only target arg s (Fits.refl _))
  | injPinBroken target arg => exact lasting_of_frame (execInjPinBroken_only target arg s (Fits.refl _))
  | injHeartbeatStop target arg => exact lasting_of_frame (execInjHeartbeatStop_only target arg s (Fits.refl _) (fun _ => trivial))
  | injHostLaneFail target arg => exact lasting_of_frame (execInjHostLaneFail_only target arg s (Fits.refl _))
  | injModuleFault target arg => exact lasting_of_frame (execInjModuleFault_only target arg s (Fits.refl _))
  | injMargin target arg => exact lasting_of_frame (execInjMargin_only target arg s (Fits.refl _))
  | injInletDrop target arg => exact lasting_of_frame (execInjInletDrop_only target arg s (Fits.refl _) (fun _ => trivial))
  | injEffectEnd f r => exact lasting_of_frame (execInjEffectEnd_only f r s (Fits.refl _) (fun _ => trivial))
  | droopDetectorTrip f p cycles => exact lasting_of_frame (execDroopDetectorTrip_only f p cycles s (Fits.refl _) trivial trivial)
  | pwrWarnDeassert => exact lasting_of_frame (execPwrWarnDeassert_only s (Fits.refl _) (fun _ => trivial))
  | parentLoss f => exact lasting_of_frame (execParentLoss_only f s (Fits.refl _) trivial)
  | headerMapDesync f n => exact lasting_of_frame (execHeaderMapDesync_only f n s (Fits.refl _) trivial)
  | aspmL1Entry => exact lasting_of_frame (execAspmL1Entry_only s (Fits.refl _))
  | hostLinkTrained ok => exact execHostLinkTrained_lasting ok s
  | plotDormant f p => exact lasting_of_frame (execPlotDormant_only f p s (Fits.refl _) trivial trivial)

/-- A step of the machine, whatever command is at the front. -/
theorem step_lasting {s t : State} (h : step s = .next t) : Lasting NoField s t := by
  have hresult : LeavesLasting s (step s) := by
    cases hq : s.pending with
    | nil =>
      rw [step_of_pending_nil hq]
      exact s.idle_lasting
    | cons c rest =>
      have hs : s = { s with pending := c :: rest } := by rw [← hq]
      have hstep : step s = exec c { s with pending := rest } := by
        rw [hs]
        exact stepRunsTheFrontCommand s c rest
      obtain ⟨u, hu, hlast⟩ := exec_lasting c { s with pending := rest }
      exact ⟨u, hstep ▸ hu, ⟨hlast.resets, hlast.svc⟩⟩
  obtain ⟨u, hu, hlast⟩ := hresult
  rw [h] at hu
  rcases hu with hu | hu
  · cases hu
    exact hlast
  · cases hu
    exact hlast.only (State.drain_only u (Fits.refl _) (fun _ => trivial))

/-- Where no reset is counted a service state has lasted. -/
theorem Lasting.svc_or_counted {s t : State} (h : Lasting NoField s t) (f : FieldId) :
    SvcLasts (s.svc f) (t.svc f) ∨ s.hub.seed.resets < t.hub.seed.resets := by
  rcases Nat.eq_or_lt_of_le h.resets with e | hlt
  · exact .inl (h.svc e.symm f not_false)
  · exact .inr hlt

/-- A partition reset and its end count no reset of the package. -/
theorem leaves_resets_of_frame {K : List Part} {s : State} {r : Result}
    (h : Only K (fun _ => True) (fun _ => True) s s → Ends K (fun _ => True) (fun _ => True) s r)
    (hK : (!Part.covered K .seed && !Part.covered K (.far .seed)) = true := by decide +kernel) :
    Leaves r (fun u => u.hub.seed.resets = s.hub.seed.resets) := by
  obtain ⟨u, hr, hu⟩ := h (.refl _ _ _ s)
  exact ⟨u, hr, Only.resets_same (fun _ => hu) hK⟩

/-- Settles O33: every operation lets the service states last (`Lasting`) up to the next reset of the package, command by command; the
two resets count one, and the frames of the commands of a partition reset spare the count. -/
theorem onlyResetsLeaveDarkOrUnfit : Obligations.OnlyResetsLeaveDarkOrUnfit := by
  refine ⟨fun s t f h hd => ?_, fun s t f h hu => ?_, fun s po st vbat => ?_, fun s i3c => ?_, fun s f m x hx => ?_⟩
  · exact ((step_lasting h).svc_or_counted f).imp (fun hl => hl.1 hd) id
  · exact or_assoc.mp (((step_lasting h).svc_or_counted f).imp (fun hl => hl.2 hu) id)
  · exact Leaves.finish rfl (State.coldReset_resets s po st.val vbat)
  · exact Leaves.finish rfl (State.warmReset_resets s i3c)
  · simp only [List.mem_cons, List.not_mem_nil, or_false] at hx
    rcases hx with rfl | rfl
    · exact leaves_resets_of_frame (execPartitionReset_only f s (Fits.refl _) trivial (fun _ => trivial))
    · exact leaves_resets_of_frame (execPartitionResetDone_only f m s (Fits.refl _) trivial (fun _ => trivial))

end Sys2Proof.Machine
end


section
/-! Bytes of the memories: what a read of HBM sees after a write that lands in the absorber (R240, R422), plot stores (R153, R158),
hub SRAM (R603). -/

namespace Sys2Proof.Machine

set_option Elab.async false

open Sys2Proof

variable {s : State} {f : FieldId} {p : PlotId} {x y : AbsLine} {l a b : Nat}

/-! ### Lines of the absorber -/

@[simp] theorem State.memu_updMemu (s : State) (f : FieldId) (g : FieldMem → FieldMem) : (s.updMemu f g).memu f = g (s.memu f) := by
  simp only [State.memu, State.updMemu, State.field_updField]

@[simp] theorem State.memu_updMem (s : State) (f : FieldId) (g : Memories → Memories) : (s.updMem g).memu f = s.memu f := rfl

theorem State.memu_fset (s : State) (f : FieldId) (k : RegField) (v n i : Nat) : (s.fset f k v n i).memu f = s.memu f := by
  simp only [State.memu, State.fset, State.field_updField, Field.setReg]

theorem FieldMem.line_of_resident {m : FieldMem} (h : m.resident l = some x) : x.line = l := by
  simpa using List.find?_some h

theorem FieldMem.mem_of_resident {m : FieldMem} (h : m.resident l = some x) : x ∈ m.absorber := List.mem_of_find?_eq_some h

/-- Where the copies of one line are replaced, those of the other lines stay. -/
theorem FieldMem.resident_replaced {m m' : FieldMem} {k l : Nat} {new : List AbsLine}
    (h : m'.absorber = m.absorber.filter (fun y => y.line ≠ k) ++ new) (hnew : ∀ y ∈ new, y.line = k) (hl : l ≠ k) :
    m'.resident l = m.resident l := by
  have hnone : new.find? (fun y => decide (y.line = l)) = none :=
    List.find?_eq_none.mpr (fun y hy => by simp [hnew y hy, Ne.symm hl])
  have hfilter : (m.absorber.filter (fun y => decide (y.line ≠ k))).find? (fun y => decide (y.line = l)) =
      m.absorber.find? (fun y => decide (y.line = l)) := by
    rw [List.find?_filter]
    congr 1
    funext y
    by_cases e : y.line = l
    · simp [e, hl]
    · simp [e]
  rw [FieldMem.resident, h, List.find?_append, hfilter, hnone, Option.or_none]
  rfl

theorem find_line_filtered (A : List AbsLine) (l : Nat) :
    (A.filter (fun y => y.line ≠ l)).find? (fun y => decide (y.line = l)) = none := by
  simp [List.find?_eq_none]

theorem FieldMem.resident_filtered {m m' : FieldMem} (h : m'.absorber = m.absorber.filter (fun y => y.line ≠ l)) :
    m'.resident l = none := by
  rw [FieldMem.resident, h, find_line_filtered]

theorem FieldMem.resident_put {m m' : FieldMem} (h : m'.absorber = m.absorber.filter (fun y => y.line ≠ x.line) ++ [x]) :
    m'.resident x.line = some x := by
  rw [FieldMem.resident, h, List.find?_append, find_line_filtered]
  simp

/-! ### Bytes as a read sees them (R422) -/

theorem State.hbmByte_of_resident (h : (s.memu f).resident (b / 128) = some x) : s.hbmByte f b = x.data.getD (b % 128) 0 := by
  simp only [State.hbmByte, h]

theorem State.hbmByte_of_absent (h : (s.memu f).resident (b / 128) = none) : s.hbmByte f b = Mem.byte s.mem.hbm[f] b := by
  simp only [State.hbmByte, h]

theorem State.ctrlWriteHalf_memu (s : State) (f : FieldId) (h : Nat) (d : List Byte) (bad : Bool) :
    (s.ctrlWriteHalf f h d bad).memu f = s.memu f := by
  unfold State.ctrlWriteHalf
  split <;> rfl

theorem State.ctrlWriteHalf_hbm (h : Nat) (d : List Byte) (bad : Bool) (hl : (s.memu f).lost (lineStack (h / 2)) = false) :
    (s.ctrlWriteHalf f h d bad).mem.hbm[f] = Mem.write s.mem.hbm[f] (h * 64) (d.take 64) := by
  simp only [State.ctrlWriteHalf, hl, Bool.false_eq_true, if_false, State.updMem_mem]
  exact Memories.hbm_setHbm _ _ _

/-- A line flushed has its bytes in HBM, so a read sees the same. -/
theorem State.absorberFlush_hbmByte (hw : s.linesWhole f) (l b : Nat) : (s.absorberFlush f l).hbmByte f b = s.hbmByte f b := by
  cases hr : (s.memu f).resident l with
  | none => simp only [State.absorberFlush, hr]
  | some x =>
    obtain ⟨hlen, hstack⟩ := hw x (FieldMem.mem_of_resident hr)
    rw [FieldMem.line_of_resident hr] at hstack
    have hflush : s.absorberFlush f l = ((s.updMemu f (fun m => { m with absorber := m.absorber.filter (fun y => y.line ≠ l) })).ctrlWriteHalf
        f (2 * l) (x.data.take 64) x.poisonLo).ctrlWriteHalf f (2 * l + 1) (x.data.drop 64) x.poisonHi := by
      simp only [State.absorberFlush, hr]
    have hmemu : (s.absorberFlush f l).memu f =
        ((s.updMemu f (fun m => { m with absorber := m.absorber.filter (fun y => y.line ≠ l) })).memu f) := by
      rw [hflush, State.ctrlWriteHalf_memu, State.ctrlWriteHalf_memu]
    have habs : ((s.absorberFlush f l).memu f).absorber = (s.memu f).absorber.filter (fun y => y.line ≠ l) := by
      rw [hmemu, State.memu_updMemu]
    have hlost : ∀ h, h / 2 = l → ((s.updMemu f (fun m => { m with absorber := m.absorber.filter (fun y => y.line ≠ l) })).memu f).lost
        (lineStack (h / 2)) = false := fun h e => by
      rw [e, State.memu_updMemu]
      exact hstack
    have hhbm : (s.absorberFlush f l).mem.hbm[f] =
        Mem.write (Mem.write s.mem.hbm[f] (2 * l * 64) (x.data.take 64)) ((2 * l + 1) * 64) (x.data.drop 64) := by
      have hdrop : (x.data.drop 64).take 64 = x.data.drop 64 := List.take_of_length_le (by rw [List.length_drop, hlen])
      rw [hflush, State.ctrlWriteHalf_hbm _ _ _ (by rw [State.ctrlWriteHalf_memu]; exact hlost _ (by omega)),
        State.ctrlWriteHalf_hbm _ _ _ (hlost _ (by omega)), State.updMemu_mem, hdrop, List.take_take, Nat.min_self]
    by_cases hb : b / 128 = l
    · rw [State.hbmByte_of_absent (by rw [hb]; exact FieldMem.resident_filtered habs), hhbm,
        State.hbmByte_of_resident (hb ▸ hr), Mem.byte_write, Mem.byte_write]
      simp only [List.length_drop, List.length_take, hlen, List.getD_eq_getElem?_getD]
      by_cases hhi : 64 ≤ b % 128
      · rw [if_pos (by omega), List.getElem?_drop, show 64 + (b - (2 * l + 1) * 64) = b % 128 by omega]
      · rw [if_neg (by omega), if_pos (by omega), show b - 2 * l * 64 = b % 128 by omega, List.getElem?_take_of_lt (by omega)]
    · have hres : ((s.absorberFlush f l).memu f).resident (b / 128) = (s.memu f).resident (b / 128) :=
        FieldMem.resident_replaced (new := []) (by rw [habs, List.append_nil]) (fun _ h => absurd h List.not_mem_nil) hb
      have hbyte : Mem.byte (s.absorberFlush f l).mem.hbm[f] b = Mem.byte s.mem.hbm[f] b := by
        rw [hhbm, Mem.byte_write, Mem.byte_write]
        simp only [List.length_drop, List.length_take, hlen]
        rw [if_neg (by omega), if_neg (by omega)]
      simp only [State.hbmByte, hres, hbyte]

/-- A line put into the absorber is what a read of it sees; no other byte changes, whatever line is evicted for it. -/
theorem State.absorberPut_hbmByte (hw : s.linesWhole f) (x : AbsLine) (b : Nat) :
    (s.absorberPut f x).hbmByte f b = if b / 128 = x.line then x.data.getD (b % 128) 0 else s.hbmByte f b := by
  have hput : ∀ t : State, t.hbmByte f b = s.hbmByte f b →
      (t.updMemu f (fun m => { m with absorber := m.absorber.filter (fun y => y.line ≠ x.line) ++ [x] })).hbmByte f b =
        if b / 128 = x.line then x.data.getD (b % 128) 0 else s.hbmByte f b := fun t ht => by
    have habs : ((t.updMemu f (fun m => { m with absorber := m.absorber.filter (fun y => y.line ≠ x.line) ++ [x] })).memu f).absorber =
        (t.memu f).absorber.filter (fun y => y.line ≠ x.line) ++ [x] := by rw [State.memu_updMemu]
    split
    next e => exact State.hbmByte_of_resident (by rw [e]; exact FieldMem.resident_put habs)
    next e => rw [← ht, State.hbmByte, FieldMem.resident_replaced habs (by simp) e]; rfl
  unfold State.absorberPut
  apply hput
  split
  · split
    · rfl
    · exact State.absorberFlush_hbmByte hw _ b
  · rfl

theorem State.absorberPut_resident (s : State) (f : FieldId) (x : AbsLine) : ((s.absorberPut f x).memu f).resident x.line = some x := by
  exact FieldMem.resident_put (by rw [State.absorberPut, State.memu_updMemu])

/-- The mark of a granule is no part of the absorber. -/
theorem State.markCur_resident (s : State) (f : FieldId) (a l : Nat) : ((s.markCur f a).memu f).resident l = (s.memu f).resident l := by
  unfold State.markCur
  rw [State.memu_updMemu]
  split <;> rfl

theorem State.markCur_hbmByte (s : State) (f : FieldId) (a b : Nat) : (s.markCur f a).hbmByte f b = s.hbmByte f b := by
  simp only [State.hbmByte, State.markCur_resident]
  rfl

/-! ### A write within a line (R240) -/

theorem AbsLine.merge_line (x : AbsLine) (off : Nat) (new : List Byte) (bad : Bool) : (x.merge off new bad).line = x.line := by
  unfold AbsLine.merge
  split <;> rfl

theorem AbsLine.mergeRuns_one (x : AbsLine) (off : Nat) (new : List Byte) : x.mergeRuns [(off, new)] false = x.merge off new false := rfl

/-- A byte of a block with a run replaced. -/
theorem spliceBytes_getD (old new : List Byte) (off i : Nat) (h : off + new.length ≤ old.length) :
    (spliceBytes old off new).getD i 0 = if off ≤ i ∧ i < off + new.length then new.getD (i - off) 0 else old.getD i 0 := by
  have htake : (old.take off).length = off := by simp; omega
  unfold spliceBytes
  simp only [List.getD_eq_getElem?_getD, List.append_assoc]
  by_cases h1 : i < off
  · rw [if_neg (by omega), List.getElem?_append_left (by omega), List.getElem?_take_of_lt h1]
  · rw [List.getElem?_append_right (by omega), htake]
    by_cases h2 : i - off < new.length
    · rw [if_pos (by omega), List.getElem?_append_left h2]
    · rw [if_neg (by omega), List.getElem?_append_right (by omega), List.getElem?_drop]
      rw [show off + new.length + (i - off - new.length) = i by omega]

/-- A run merged into a line without poison replaces the bytes there. -/
theorem AbsLine.merge_getD {off : Nat} {new : List Byte} (hlo : x.poisonLo = false) (hhi : x.poisonHi = false) (hlen : x.data.length = 128)
    (h : off + new.length ≤ 128) (i : Nat) :
    (x.merge off new false).data.getD i 0 = if off ≤ i ∧ i < off + new.length then new.getD (i - off) 0 else x.data.getD i 0 := by
  have hsplice : (spliceBytes x.data off new).length = 128 := by
    simp [spliceBytes, hlen]
    omega
  have hdata : (x.merge off new false).data = spliceBytes x.data off new := by
    simp only [AbsLine.merge, hlo, hhi, Bool.false_and, Bool.false_eq_true, if_false, List.take_append_drop]
    exact List.take_of_length_le (Nat.le_of_eq hsplice)
  rw [hdata, spliceBytes_getD _ _ _ _ (by omega)]

/-- A half-line without an error reads as it stands, and nothing changes (R238). -/
theorem State.ctrlReadHalf_clean {h src : Nat} (hl : (s.memu f).lost (lineStack (h / 2)) = false)
    (h1 : s.injArmedAt f injMem 1 (lineStack (h / 2)) = false) (h2 : s.injArmedAt f injMem 2 (lineStack (h / 2)) = false)
    (he : errKind (SMap.get s.mem.hbmErr[f] 0 h) = 0) :
    s.ctrlReadHalf f h src = (s, Mem.read s.mem.hbm[f] (h * 64) 64, false) := by
  simp only [State.ctrlReadHalf, hl, h1, h2, Bool.false_eq_true, if_false, he]

/-- A line that is not resident, read without an error. -/
theorem State.rawLineRead_clean {src : Nat} (hr : (s.memu f).resident l = none) (hl : (s.memu f).lost (lineStack l) = false)
    (h1 : s.injArmedAt f injMem 1 (lineStack l) = false) (h2 : s.injArmedAt f injMem 2 (lineStack l) = false)
    (he : errKind (SMap.get s.mem.hbmErr[f] 0 (l * 2)) = 0) (he' : errKind (SMap.get s.mem.hbmErr[f] 0 (l * 2 + 1)) = 0) :
    s.rawLineRead f l src =
      (s, ⟨l, Mem.read s.mem.hbm[f] (2 * l * 64) 64 ++ Mem.read s.mem.hbm[f] ((2 * l + 1) * 64) 64, false, false⟩) := by
  have hlo : 2 * l / 2 = l := by omega
  have hhi : (2 * l + 1) / 2 = l := by omega
  rw [Nat.mul_comm] at he he'
  have hread0 : s.ctrlReadHalf f (2 * l) src = (s, Mem.read s.mem.hbm[f] (2 * l * 64) 64, false) :=
    State.ctrlReadHalf_clean (by rw [hlo]; exact hl) (by rw [hlo]; exact h1) (by rw [hlo]; exact h2) he
  have hread1 : s.ctrlReadHalf f (2 * l + 1) src = (s, Mem.read s.mem.hbm[f] ((2 * l + 1) * 64) 64, false) :=
    State.ctrlReadHalf_clean (by rw [hhi]; exact hl) (by rw [hhi]; exact h1) (by rw [hhi]; exact h2) he'
  simp only [State.rawLineRead, hr, hread0, hread1]

/-- The two halves of a line in HBM are its 128 bytes. -/
theorem Mem.halves_getD (m : SMap Byte) (l i : Nat) (h : i < 128) :
    (Mem.read m (2 * l * 64) 64 ++ Mem.read m ((2 * l + 1) * 64) 64).getD i 0 = Mem.byte m (128 * l + i) := by
  have hlen := Mem.read_length m (2 * l * 64) 64
  by_cases hi : i < 64
  · rw [List.getD_append _ _ _ _ (by omega), Mem.read_getD _ _ _ _ hi, show 2 * l * 64 + i = 128 * l + i by omega]
  · rw [List.getD_append_right _ _ _ _ (by omega), hlen, Mem.read_getD _ _ _ _ (by omega),
      show (2 * l + 1) * 64 + (i - 64) = 128 * l + i by omega]

/-- Where a line put into the absorber is the present bytes of its line with a run replaced from address a, a read sees the run there
and the bytes as before elsewhere. -/
theorem State.absorberPut_run {t : State} {d : List Byte} (hw : t.linesWhole f) (hline : x.line = a / 128) (hfit : a % 128 + d.length ≤ 128)
    (hbyte : ∀ i, i < 128 → x.data.getD i 0 = if a % 128 ≤ i ∧ i < a % 128 + d.length then d.getD (i - a % 128) 0
      else t.hbmByte f (128 * (a / 128) + i)) (b : Nat) :
    (t.absorberPut f x).hbmByte f b = if a ≤ b ∧ b < a + d.length then d.getD (b - a) 0 else t.hbmByte f b := by
  rw [State.absorberPut_hbmByte hw, hline]
  by_cases hb : b / 128 = a / 128
  · rw [if_pos hb, hbyte _ (by omega)]
    by_cases hin : a ≤ b ∧ b < a + d.length
    · rw [if_pos (by omega), if_pos hin, show b % 128 - a % 128 = b - a by omega]
    · rw [if_neg (by omega), if_neg hin, show 128 * (a / 128) + b % 128 = b by omega]
  · rw [if_neg hb, if_neg (by omega)]

end Sys2Proof.Machine
end


section
/-! Writes of HBM, of a plot store and of hub SRAM change the bytes they name (R153, R156, R240, R422, R603). -/

namespace Sys2Proof.Machine

set_option Elab.async false

open Sys2Proof

variable {s : State} {f : FieldId} {p : PlotId} {x : AbsLine} {a b : Nat} {d : List Byte} {src : Nat}

/-! ### HBM_WRITE -/

theorem execHbmWrite_eq (src : Fin 6) (poisoned : Bool) (hd : s.svc f ≠ svcDark) (ha : a < hbmTop) :
    execHbmWrite f a d poisoned src s =
      finish (s.lineRuns f (a / 128) [(a % 128, if poisoned then [] else d.take (64 - a % 64))] poisoned src).1 := by
  unfold execHbmWrite State.inRim
  rw [if_neg hd, if_neg (Nat.not_le.mpr ha)]
  rfl

theorem State.lineRuns_applied {l : Nat} {runs : List (Nat × List Byte)} {bad : Bool} (hl : (s.memu f).lost (lineStack l) = false)
    (hh : (s.memu f).holdsLine l = false) : (s.lineRuns f l runs bad src).1 = s.lineApply f l runs bad src := by
  simp only [State.lineRuns, hl, hh, Bool.false_eq_true, if_false]

/-- A write of a run to a line that is resident and not poisoned. -/
theorem State.lineApply_resident_hbmByte (hw : s.linesWhole f) (hr : (s.memu f).resident (a / 128) = some x) (hlo : x.poisonLo = false)
    (hhi : x.poisonHi = false) (hfit : a % 128 + d.length ≤ 128) (b : Nat) :
    (s.lineApply f (a / 128) [(a % 128, d)] false src).hbmByte f b =
      if a ≤ b ∧ b < a + d.length then d.getD (b - a) 0 else s.hbmByte f b := by
  obtain ⟨hlen, -⟩ := hw x (FieldMem.mem_of_resident hr)
  have hmemu : (s.fwrap f Reg.GWY_STAT.ABSORBED).memu f = s.memu f := State.memu_fset _ _ _ _ _ _
  have hsame : ∀ b, (s.fwrap f Reg.GWY_STAT.ABSORBED).hbmByte f b = s.hbmByte f b := fun b => by
    simp only [State.hbmByte, hmemu]
    rfl
  have happly : s.lineApply f (a / 128) [(a % 128, d)] false src =
      ((s.fwrap f Reg.GWY_STAT.ABSORBED).absorberPut f (x.merge (a % 128) d false)).markCur f (a / 128 * 128) := by
    simp only [State.lineApply, hr, Bool.false_eq_true, if_false, AbsLine.mergeRuns_one]
  rw [happly, State.markCur_hbmByte, ← hsame]
  refine State.absorberPut_run (by intro y hy; rw [hmemu] at hy ⊢; exact hw y hy)
    (by rw [AbsLine.merge_line, FieldMem.line_of_resident hr]) hfit (fun i hi => ?_) b
  have hline : (128 * (a / 128) + i) / 128 = a / 128 := by omega
  have hoff : (128 * (a / 128) + i) % 128 = i := by omega
  rw [AbsLine.merge_getD hlo hhi hlen hfit, hsame, State.hbmByte_of_resident (b := 128 * (a / 128) + i) (by rw [hline]; exact hr), hoff]

/-- A write of a run to a line that is not resident, and reads without an error. -/
theorem State.lineApply_fetched_hbmByte (hw : s.linesWhole f) (hr : (s.memu f).resident (a / 128) = none)
    (hl : (s.memu f).lost (lineStack (a / 128)) = false) (h1 : s.injArmedAt f injMem 1 (lineStack (a / 128)) = false)
    (h2 : s.injArmedAt f injMem 2 (lineStack (a / 128)) = false)
    (he : errKind (SMap.get s.mem.hbmErr[f] 0 (a / 128 * 2)) = 0) (he' : errKind (SMap.get s.mem.hbmErr[f] 0 (a / 128 * 2 + 1)) = 0)
    (hfit : a % 64 + d.length ≤ 64) (b : Nat) :
    (s.lineApply f (a / 128) [(a % 128, d)] false src).hbmByte f b =
      if a ≤ b ∧ b < a + d.length then d.getD (b - a) 0 else s.hbmByte f b := by
  have hpart : ([(a % 128, d)].any (fun r => decide (r.1 = 0) && decide (128 ≤ r.2.length))) = false := by
    simp only [List.any_cons, List.any_nil, Bool.or_false, Bool.and_eq_false_iff, decide_eq_false_iff_not]
    omega
  have happly : s.lineApply f (a / 128) [(a % 128, d)] false src =
      (s.absorberPut f (AbsLine.merge ⟨a / 128, Mem.read s.mem.hbm[f] (2 * (a / 128) * 64) 64 ++
        Mem.read s.mem.hbm[f] ((2 * (a / 128) + 1) * 64) 64, false, false⟩ (a % 128) d false)).markCur f (a / 128 * 128) := by
    simp only [State.lineApply, hr, hpart, Bool.or_self, Bool.false_eq_true, if_false, State.rawLineRead_clean hr hl h1 h2 he he',
      AbsLine.mergeRuns_one]
  rw [happly, State.markCur_hbmByte]
  refine State.absorberPut_run hw (by rw [AbsLine.merge_line]) (by omega) (fun i hi => ?_) b
  have hline : (128 * (a / 128) + i) / 128 = a / 128 := by omega
  rw [AbsLine.merge_getD rfl rfl (by rw [List.length_append, Mem.read_length, Mem.read_length]) (by omega),
    State.hbmByte_of_absent (b := 128 * (a / 128) + i) (by rw [hline]; exact hr), Mem.halves_getD _ _ _ hi]

/-- A write marked poisoned leaves its line resident with both halves poisoned. -/
theorem State.lineApply_poisoned (l : Nat) (runs : List (Nat × List Byte)) :
    (((s.lineApply f l runs true src).memu f).resident l).map (fun x => (x.poisonLo, x.poisonHi)) = some (true, true) := by
  have hput : ∀ (t : State) (x : AbsLine), x.line = l →
      ((((t.absorberPut f (x.mergeRuns runs true)).markCur f (l * 128)).memu f).resident l).map (fun x => (x.poisonLo, x.poisonHi)) =
        some (true, true) := fun t x hx => by
    have hline : (x.mergeRuns runs true).line = l := by rw [AbsLine.mergeRuns, if_pos rfl, AbsLine.merge_line, hx]
    have hres := State.absorberPut_resident t f (x.mergeRuns runs true)
    rw [hline] at hres
    rw [State.markCur_resident, hres]
    rfl
  unfold State.lineApply
  cases hr : (s.memu f).resident l with
  | some x => exact hput _ x (FieldMem.line_of_resident hr)
  | none => exact hput _ _ rfl

/-! ### PLOT_STORE_MESH_WRITE and DRILL_STORE -/

theorem execPlotStoreMeshWrite_eq (poisoned : Bool) (ha : a < storeSize) (hup : s.partitionUp f = true) :
    execPlotStoreMeshWrite f p a d poisoned s = finish (s.meshStoreWrite f p a (d.take (128 - a % 128)) poisoned).1 := by
  simp [execPlotStoreMeshWrite, Nat.not_le.mpr ha, hup]

/-- A write within one word of a plot store, where the word has no uncorrected error (R158). -/
theorem State.storeWrite_word_bytes {new : List Byte} (hnew : new ≠ []) (hshort : new.length < 8) (hfit : a % 8 + new.length ≤ 8)
    (he : errKind (SMap.get s.mem.storeErr[f] 0 (storeKey p a / 8)) ≤ 1) (rq b : Nat) :
    Mem.byte (s.storeWrite f p a new rq).mem.store[f] b =
      if storeKey p a ≤ b ∧ b < storeKey p a + new.length then new.getD (b - storeKey p a) 0 else Mem.byte s.mem.store[f] b := by
  have hword : storeKey p (a / 8 * 8) / 8 = storeKey p a / 8 := by
    unfold storeKey storeSize
    omega
  have hread : ∃ t data, s.storeReadWord f p (a / 8) rq = (t, data, false) ∧ t.mem.store[f] = s.mem.store[f] := by
    have hkind : errKind (SMap.get s.mem.storeErr[f] 0 (storeKey p a / 8)) = 0 ∨
        errKind (SMap.get s.mem.storeErr[f] 0 (storeKey p a / 8)) = 1 := by omega
    unfold State.storeReadWord
    rcases hkind with e | e
    · simp only [hword, e]
      exact ⟨_, _, rfl, rfl⟩
    · simp only [hword, e]
      exact ⟨_, _, rfl, by unfold State.healthInput; split <;> rfl⟩
  obtain ⟨t, data, hword, hstore⟩ := hread
  have hone : s.storeWriteWord f p a new rq = t.updMem (fun m =>
      (m.setStore f (Mem.write m.store[f] (storeKey p a) new)).setStoreErr f (storeKey p a / 8) 0) := by
    simp only [State.storeWriteWord, hword, Nat.ne_of_lt hshort, false_and, if_false, Bool.false_eq_true]
  have htake : new.take (8 - a % 8) = new := List.take_of_length_le (by omega)
  have hdrop : new.drop (8 - a % 8) = [] := List.drop_of_length_le (by omega)
  have hwrite : s.storeWrite f p a new rq = s.storeWriteWord f p a new rq := by
    simp only [State.storeWrite, State.storeWriteLoop, hnew, if_false, Bool.false_and, htake, hdrop]
    exact if_pos trivial
  rw [hwrite, hone, State.updMem_mem, Memories.store_setStoreErr, Memories.store_setStore, hstore, Mem.byte_write]

theorem storeBytes_cases (k : StoreKind) : storeBytes k = 1 ∨ storeBytes k = 2 ∨ storeBytes k = 4 := by
  cases k <;> simp [storeBytes]

/-- A store of a drill into its plot store, where nothing holds it back. -/
theorem State.drillStore_eq {k : StoreKind} {rs2 rs1 len : Nat} {imm : Int}
    (hal : effAddr ((s.plot f p).drill.x rs1) imm % storeBytes k = 0) (hin : effAddr ((s.plot f p).drill.x rs1) imm < storeEnd)
    (hfree : claimFree (s.plot f p).queue (claimOf true (effAddr ((s.plot f p).drill.x rs1) imm)
      (effAddr ((s.plot f p).drill.x rs1) imm + storeBytes k - 1)) = true) :
    s.drillStore f p k rs2 rs1 imm len = (s.storeWrite f p (effAddr ((s.plot f p).drill.x rs1) imm)
      (leBytes (storeBytes k) ((s.plot f p).drill.x rs2 % 2 ^ (8 * storeBytes k))) rqDrill).updDrill f p (fun d => d.retire len 1) := by
  simp only [State.drillStore, State.busStore, hal, ne_eq, not_true_eq_false, if_false, hin, if_true, hfree, Bool.not_true,
    Bool.false_eq_true]

/-! ### MEMORY_WRITE to hub SRAM -/

/-- The enabled bytes of a posted write that lie outside the private part are in hub SRAM. -/
theorem State.sramPost_byte (s : State) (a be : Nat) (d : List Byte) (b : Nat) :
    Mem.byte (s.sramPost a d be).mem.sram b =
      if a ≤ b ∧ b < a + d.length ∧ bit be (b - a) = true ∧ b < sramPrivate then d.getD (b - a) 0 else Mem.byte s.mem.sram b := by
  have hprefix : ∀ n, n ≤ d.length → Mem.byte ((List.range n).foldl (fun (t : State) i =>
      if bit be i && decide (a + i < sramPrivate) then t.sramWrite (a + i) ((d.drop i).take 1) else t) s).mem.sram b =
      if a ≤ b ∧ b < a + n ∧ bit be (b - a) = true ∧ b < sramPrivate then d.getD (b - a) 0 else Mem.byte s.mem.sram b := by
    intro n hn
    induction n with
    | zero => rw [if_neg (by omega)]; rfl
    | succ n ih =>
      specialize ih (by omega)
      rw [List.range_succ, List.foldl_append, List.foldl_cons, List.foldl_nil]
      split
      next hen =>
        rw [Bool.and_eq_true, decide_eq_true_eq] at hen
        obtain ⟨hbit, hlow⟩ := hen
        have hone : ((d.drop n).take 1).take (sramSize - (a + n)) = [d.getD n 0] := by
          have hpos : 1 ≤ sramSize - (a + n) := by unfold sramSize; unfold sramPrivate at hlow; omega
          rw [List.take_take, Nat.min_eq_right hpos, List.take_one, List.head?_drop, List.getD_eq_getElem?_getD,
            List.getElem?_eq_getElem (by omega)]
          rfl
        rw [State.sramWrite, State.updMem_mem]
        show Mem.byte (Mem.write _ (a + n) (((d.drop n).take 1).take (sramSize - (a + n)))) b = _
        rw [hone, Mem.byte_write, ih]
        by_cases hb : b = a + n
        · subst hb
          rw [if_pos ⟨Nat.le_refl _, Nat.lt_succ_self _⟩, if_pos ⟨by omega, by omega, by rw [Nat.add_sub_cancel_left]; exact hbit, hlow⟩,
            Nat.sub_self, Nat.add_sub_cancel_left, List.getD_cons_zero]
        · rw [if_neg (by simp only [List.length_singleton]; omega)]
          have hiff : (a ≤ b ∧ b < a + n ∧ bit be (b - a) = true ∧ b < sramPrivate) ↔
              (a ≤ b ∧ b < a + (n + 1) ∧ bit be (b - a) = true ∧ b < sramPrivate) := by
            constructor
            · rintro ⟨h1, h2, h3⟩; exact ⟨h1, by omega, h3⟩
            · rintro ⟨h1, h2, h3⟩; exact ⟨h1, by omega, h3⟩
          simp only [hiff]
      next hen =>
        rw [ih]
        have hiff : (a ≤ b ∧ b < a + n ∧ bit be (b - a) = true ∧ b < sramPrivate) ↔
            (a ≤ b ∧ b < a + (n + 1) ∧ bit be (b - a) = true ∧ b < sramPrivate) := by
          constructor
          · rintro ⟨h1, h2, h3⟩; exact ⟨h1, by omega, h3⟩
          · rintro ⟨h1, h2, h3, h4⟩
            refine ⟨h1, ?_, h3, h4⟩
            by_contra hge
            have hb : b = a + n := by omega
            rw [hb, Nat.add_sub_cancel_left] at h3
            rw [hb] at h4
            exact hen (by simp [h3, h4])
        simp only [hiff]
  exact hprefix d.length (Nat.le_refl _)

/-! ### The statement -/

/-- Settles O9: HBM by the absorber's copy of the line (`absorberPut_run`), plot stores word by word, hub SRAM byte by byte. -/
theorem storesWriteTheirBytes : Obligations.StoresWriteTheirBytes := by
  refine ⟨?_, ?_, ?_, ?_, ?_, ?_, ?_, ?_, ?_, ?_⟩
  case _ =>
    intro s a be d ep hlink hwait hheld hd3 hlen htop
    have hexec : exec (.memoryWrite 0 true a d be ep) s = finish (s.sramPost a d be) :=
      calc exec (.memoryWrite 0 true a d be ep) s = s.tlp 0 (.write 0 true a d be ep) := execMemoryWrite_of_le hlen
        _ = finish (s.reqDo (.write 0 true a d be ep)) := State.tlp_of_ready hlink hheld hwait rfl
        _ = finish (s.sramPost a d be) := congrArg finish (State.writeDo_sram (State.barStatus_sram hd3 htop))
    exact Leaves.finish hexec (fun b => State.sramPost_byte s a be d b)
  case _ =>
    intro s f a d src hd ha hfit hl hh hr he he' h1 h2 hw
    refine Leaves.finish (execHbmWrite_eq src false hd ha) (fun b => ?_)
    rw [State.lineRuns_applied hl hh, if_neg Bool.false_ne_true, List.take_of_length_le (by omega)]
    exact State.lineApply_fetched_hbmByte hw hr hl h1 h2 he he' hfit b
  case _ =>
    intro s f a d src x hd ha hfit hl hh hr hlo hhi hw
    refine Leaves.finish (execHbmWrite_eq src false hd ha) (fun b => ?_)
    rw [State.lineRuns_applied hl hh, if_neg Bool.false_ne_true, List.take_of_length_le (by omega)]
    exact State.lineApply_resident_hbmByte hw hr hlo hhi (by omega) b
  case _ =>
    intro s f a d src hd ha hl hh
    refine Leaves.finish (execHbmWrite_eq src true hd ha) ?_
    rw [State.lineRuns_applied hl hh]
    exact State.lineApply_poisoned _ _
  case _ =>
    intro s f a d x src hd ha hl hh
    refine Leaves.finish (execHbmWrite_eq src x hd ha) ?_
    simp only [State.lineRuns, hl, hh, Bool.false_eq_true, if_false, if_true, State.memu_updMemu, State.updMemu_mem, and_self]
  case _ =>
    intro s f a d x src h
    by_cases hd : s.svc f = svcDark
    · exact Leaves.next (if_pos hd) rfl
    · by_cases ha : hbmTop ≤ a
      · exact Leaves.next ((if_neg hd).trans (if_pos ha)) rfl
      · refine Leaves.finish (execHbmWrite_eq src x hd (Nat.not_le.mp ha)) ?_
        have hl : (s.memu f).lost (lineStack (a / 128)) = true := (h.resolve_left hd).resolve_left ha
        simp only [State.lineRuns, hl, if_true]
  case _ =>
    intro s f p a d ha hd hfit hend hin hup hv
    refine Leaves.finish (execPlotStoreMeshWrite_eq false hin hup) (fun b => ?_)
    have hwrite : (s.meshStoreWrite f p a d false).1 = s.storeWrite f p a (d.take (storeSize - a)) rqMesh := by
      simp only [State.meshStoreWrite, hv, Bool.false_eq_true, if_false]
    rw [List.take_of_length_le (by omega : d.length ≤ 128 - a % 128), hwrite, List.take_of_length_le (by omega)]
    exact State.storeWriteLoop_bytes s f p a d rqMesh _ ha hd (by omega) b
  case _ =>
    intro s f p a d hin hup hv
    refine Leaves.finish (execPlotStoreMeshWrite_eq true hin hup) ?_
    simp only [State.meshStoreWrite, hv, Bool.false_eq_true, if_false, if_true]
  case _ =>
    intro s f p a d x h
    by_cases ho : storeSize ≤ a ∨ s.partitionUp f = false
    · have hout : (decide (storeSize ≤ a) || !s.partitionUp f) = true := by simpa using ho
      exact Leaves.next (if_pos hout) rfl
    · obtain ⟨hin, hup⟩ := not_or.mp ho
      refine Leaves.finish (execPlotStoreMeshWrite_eq x (Nat.not_le.mp hin) (by simpa using hup)) ?_
      have hv : s.vacant f p = true := ((or_assoc.mpr h).resolve_left ho)
      simp only [State.meshStoreWrite, hv, if_true]
  case _ =>
    intro s f p k rs2 rs1 imm c hgo hal hin hfree he
    have hexec : exec (.drillStore f p k rs2 rs1 imm c) s = finish (s.drillStore f p k rs2 rs1 imm (insLen c)) := if_pos hgo
    refine Leaves.finish hexec (fun b => ?_)
    have hk := storeBytes_cases k
    have hlen := leBytes_length (storeBytes k) ((s.plot f p).drill.x rs2 % 2 ^ (8 * storeBytes k))
    have hbytes := State.storeWrite_word_bytes (s := s) (f := f) (p := p)
      (new := leBytes (storeBytes k) ((s.plot f p).drill.x rs2 % 2 ^ (8 * storeBytes k)))
      (fun e => by rw [e, List.length_nil] at hlen; omega) (by omega)
      (by rw [hlen]; rcases hk with hk | hk | hk <;> rw [hk] at hal ⊢ <;> omega) he rqDrill b
    rw [hlen] at hbytes
    rw [State.drillStore_eq hal hin hfree]
    exact hbytes

end Sys2Proof.Machine
end


section
/-! Droop, duty, dormancy, the end of a power warning, a parent lost, a map lost, L1 and training of the host link, command by command
(R181, R314, R523, R581, R597, R600, R634, R646, R654). -/

namespace Sys2Proof.Machine

set_option Elab.async false

open Sys2Proof

variable {s : State} {f : FieldId} {p : PlotId} {r : Result} {n : Nat}

/-! ### Commands of a field that is not DARK (R27) -/

theorem State.inRim_of_dark (h : s.svc f = svcDark) : s.inRim f r = .next s := if_pos h

theorem State.inRim_of_ne (h : s.svc f ≠ svcDark) : s.inRim f r = r := if_neg h

/-! ### The host link (R597) -/

/-- A state of the host link, once it is set. -/
theorem State.hostLink_hostSet (s : State) (new : Nat) (injected : Bool) (h : new < 2 ^ Reg.HUB_HOST_PHY_STATUS.STATE.width) :
    (s.hostSet new injected).hostLink = new := by
  unfold State.hostSet
  extract_lets old w s0 s1
  have h0 : s0.hostLink = s.hostLink := by
    dsimp only [s0]
    split
    · exact State.hreg_updHub_same _ _ _ _ _ (fun _ => rfl)
    · rfl
  have h1 : s1.hostLink = s.hostLink := (State.hreg_hset_other _ _ _ _ _ _ _ _ (by decide)).trans h0
  split
  next e => exact h1.trans e
  next => exact (State.hreg_hset _ _ _ _ _).trans (Nat.mod_eq_of_lt h)

theorem State.retrainDo_of_not (h : ¬ (s.hreg Reg.HUB_HOST_PHY_CTL.RETRAIN = 1 ∧ (s.hostLink = hpL0 ∨ s.hostLink = hpL1))) :
    s.retrainDo = s := if_neg h

/-- Whether a retrain is asked for is no part of the link's state. -/
theorem State.hostSet_retrain (s : State) (new : Nat) (injected : Bool) :
    (s.hostSet new injected).hreg Reg.HUB_HOST_PHY_CTL.RETRAIN = s.hreg Reg.HUB_HOST_PHY_CTL.RETRAIN :=
  (State.hostSet_only (F := fun _ => True) (P := fun _ => True) s new injected (Fits.refl _) (.refl _ _ _ s)).hreg
    Reg.HUB_HOST_PHY_CTL.RETRAIN (by decide +kernel) 0 0

theorem execHostLinkTrained_of_lanes (hl : s.hostLink = hpTraining) (hn : 4 ≤ s.hostLanes) :
    execHostLinkTrained true s = finish ((s.hostSet hpL0).updSeed (fun U => { U with lightDone := true })).retrainDo := by
  simp [execHostLinkTrained, hl, hn]

theorem execHostLinkTrained_of_few {ok : Bool} (hl : s.hostLink = hpTraining) (hn : ok = false ∨ s.hostLanes < 4) :
    execHostLinkTrained ok s = finish ((s.hostSet hpDown).updSeed (fun U => { U with lightDone := true })) := by
  have hcond : (ok && decide (4 ≤ s.hostLanes)) = false := by
    rcases hn with h | h
    · rw [h]; rfl
    · rw [decide_eq_false (Nat.not_le.mpr h), Bool.and_false]
  have hdown : ((s.hostSet hpDown).updSeed (fun U => { U with lightDone := true })).hostLink = hpDown :=
    State.hostLink_hostSet s hpDown false (by decide)
  have hidle : ((s.hostSet hpDown).updSeed (fun U => { U with lightDone := true })).retrainDo =
      (s.hostSet hpDown).updSeed (fun U => { U with lightDone := true }) :=
    State.retrainDo_of_not (by rw [hdown]; rintro ⟨-, h | h⟩ <;> exact absurd h (by decide))
  unfold execHostLinkTrained
  rw [if_neg (not_not.mpr hl)]
  simp only [hcond, Bool.false_eq_true, if_false]
  exact congrArg finish hidle

/-! ### The end of a power warning (R643, R646) -/

theorem State.warnSet_deassert_last (hw : s.hub.pwr.warn = true) (hi : s.hub.pwr.warnInj = false) :
    s.warnSet false s.hub.pwr.warnInj = s.updPwr (fun P => { P with warnPin := false, holdOff := true }) := by
  have hrise : (!s.hub.pwr.warn && (false || s.hub.pwr.warnInj)) = false := by rw [hw]; rfl
  have hfall : (s.hub.pwr.warn && !(false || s.hub.pwr.warnInj)) = true := by rw [hw, hi]; rfl
  simp only [State.warnSet, hrise, hfall, Bool.false_eq_true, if_false, if_true, Bool.not_false, Bool.and_true]
  rfl

theorem State.warnSet_deassert_stays (h : s.hub.pwr.warn = false ∨ s.hub.pwr.warnInj = true) :
    s.warnSet false s.hub.pwr.warnInj = s.updPwr (fun P => { P with warnPin := false }) := by
  have hrise : (!s.hub.pwr.warn && (false || s.hub.pwr.warnInj)) = false := by
    rcases h with h | h
    · have hinj : s.hub.pwr.warnInj = false := (Bool.or_eq_false_iff.mp h).2
      rw [hinj, Bool.or_false, Bool.and_false]
    · rw [PowerUnit.warn, h, Bool.or_true]; rfl
  have hfall : (s.hub.pwr.warn && !(false || s.hub.pwr.warnInj)) = false := by
    rcases h with h | h
    · rw [h, Bool.false_and]
    · rw [h, Bool.or_true, Bool.not_true, Bool.and_false]
  simp only [State.warnSet, hrise, hfall, Bool.false_eq_true, if_false, Bool.not_false, Bool.and_true]
  rfl

/-! ### Duty (R654) -/

theorem execTdutyStep_of_throttle (hd : s.svc f ≠ svcDark) (ht : s.freg f Reg.THM_FIELD_STATUS.THROTTLE ≠ 0) :
    execTdutyStep f s =
      (if 380 ≤ (match (s.thm f).tmax with | some (_, t) => t | none => 508) ∨ decide ((s.thm f).broken ≠ 0) = true then
        .next (s.fset f Reg.THM_FIELD_STATUS.TDUTY (max 1 (s.freg f Reg.THM_FIELD_STATUS.TDUTY - 4)))
      else if (match (s.thm f).tmax with | some (_, t) => t | none => 508) < 372 then
        .next (if min 64 (s.freg f Reg.THM_FIELD_STATUS.TDUTY + 1) = 64 then
          (s.fset f Reg.THM_FIELD_STATUS.TDUTY (min 64 (s.freg f Reg.THM_FIELD_STATUS.TDUTY + 1))).fset f Reg.THM_FIELD_STATUS.THROTTLE 0
        else s.fset f Reg.THM_FIELD_STATUS.TDUTY (min 64 (s.freg f Reg.THM_FIELD_STATUS.TDUTY + 1)))
      else .next s) :=
  (State.inRim_of_ne hd).trans (if_neg ht)

/-! ### Dormancy (R181) -/

theorem State.mem_tokens_tokenAsk (s : State) (f : FieldId) (p : PlotId) (start : Bool) :
    (p.val, start) ∈ ((s.tokenAsk f p start).thm f).tokens := by
  unfold State.tokenAsk
  split
  next h => exact List.contains_iff_mem.mp h
  next =>
    simp only [State.thm, State.field_updField]
    exact List.mem_append_right _ List.mem_cons_self

/-! ### The statement -/

/-- Settles O45: each command by its own branch; L1 and the training of the link by `hostLink_hostSet`. -/
theorem remainingCommandsComplete : Obligations.RemainingCommandsComplete := by
  refine ⟨?_, ?_, ?_, ?_, ?_, ?_, ?_, ?_, ?_, ?_, ?_, ?_, ?_, ?_, ?_, ?_, ?_, ?_, ?_, ?_, ?_⟩
  case _ =>
    intro s f p n
    refine Leaves.next rfl ⟨?_, ?_, rfl⟩
    · exact (State.preg_pset_other _ _ _ _ _ _ _ _ (by decide)).trans (State.preg_pcount _ _ _ _ _)
    · rw [State.preg_pwrap]
      exact congrArg (fun v => (v + n) % _) (State.preg_pset_other _ _ _ _ _ _ _ _ (by decide))
  case _ =>
    intro s hw hi
    exact Leaves.finish rfl (State.warnSet_deassert_last hw hi)
  case _ =>
    intro s h
    exact Leaves.finish rfl (State.warnSet_deassert_stays h)
  case _ =>
    intro s f h
    by_cases hd : s.svc f = svcDark
    · exact Leaves.next (State.inRim_of_dark hd) rfl
    · exact Leaves.next ((State.inRim_of_ne hd).trans (if_pos (h.resolve_left hd))) rfl
  case _ =>
    intro s f hd hlink hroot
    exact Leaves.finish ((State.inRim_of_ne hd).trans (if_neg (not_or.mpr ⟨hlink, hroot⟩))) rfl
  case _ =>
    intro s f n hd
    exact Leaves.finish (State.inRim_of_ne hd) rfl
  case _ =>
    intro s f n hd
    exact Leaves.next (State.inRim_of_dark hd) rfl
  case _ =>
    intro s hl
    exact Leaves.finish (if_pos hl) ⟨rfl, State.hostLink_hostSet s hpL1 false (by decide)⟩
  case _ =>
    intro s hl
    exact Leaves.next (if_neg hl) rfl
  case _ =>
    intro s hl hn
    refine Leaves.finish (execHostLinkTrained_of_lanes hl hn) ⟨rfl, ?_⟩
    have hseed := (State.retrainDo_only (F := fun _ => True) (P := fun _ => True)
      ((s.hostSet hpL0).updSeed (fun U => { U with lightDone := true })) (Fits.refl _) (.refl _ _ _ _)).seed_same
      (by decide +kernel) (by decide +kernel)
    rw [hseed]
    rfl
  case _ =>
    intro s hl hn hr
    refine Leaves.finish (execHostLinkTrained_of_lanes hl hn) ?_
    have hidle : ((s.hostSet hpL0).updSeed (fun U => { U with lightDone := true })).retrainDo =
        (s.hostSet hpL0).updSeed (fun U => { U with lightDone := true }) :=
      State.retrainDo_of_not (fun h => hr ((State.hostSet_retrain s hpL0 false).symm.trans h.1))
    rw [hidle]
    exact State.hostLink_hostSet s hpL0 false (by decide)
  case _ =>
    intro s ok hl hn
    exact Leaves.finish (execHostLinkTrained_of_few hl hn) ⟨rfl, State.hostLink_hostSet s hpDown false (by decide)⟩
  case _ =>
    intro s ok hl
    exact Leaves.next (if_pos hl) rfl
  case _ =>
    intro s
    exact Leaves.next rfl rfl
  case _ =>
    intro s f h
    by_cases hd : s.svc f = svcDark
    · exact Leaves.next (State.inRim_of_dark hd) rfl
    · exact Leaves.next ((State.inRim_of_ne hd).trans (if_pos (h.resolve_left hd))) rfl
  case _ =>
    intro s f hd ht hhot
    refine Leaves.next ((execTdutyStep_of_throttle hd ht).trans (if_pos ?_)) rfl
    rcases hhot with hb | hmax
    · exact .inr (decide_eq_true hb)
    · refine .inl ?_
      cases hm : (s.thm f).tmax with
      | none => exact (by decide : (380 : Int) ≤ 508)
      | some y => exact hmax y hm
  case _ =>
    intro s f i t hd ht hb hm hcool
    have hbroken : decide ((s.thm f).broken ≠ 0) = false := by rw [hb]; rfl
    have hexec := execTdutyStep_of_throttle hd ht
    simp only [hm, hbroken, Bool.false_eq_true, or_false, if_neg (show ¬ (380 ≤ t) by omega), if_pos hcool] at hexec
    have hfull : (min 64 (s.freg f Reg.THM_FIELD_STATUS.TDUTY + 1) = 64) = (63 ≤ s.freg f Reg.THM_FIELD_STATUS.TDUTY) := by
      apply propext; omega
    have hduty : min 64 (s.freg f Reg.THM_FIELD_STATUS.TDUTY + 1) % 2 ^ Reg.THM_FIELD_STATUS.TDUTY.width =
        min 64 (s.freg f Reg.THM_FIELD_STATUS.TDUTY + 1) :=
      Nat.mod_eq_of_lt (Nat.lt_of_le_of_lt (Nat.min_le_left _ _) (by decide))
    have hkept : (s.fset f Reg.THM_FIELD_STATUS.TDUTY (min 64 (s.freg f Reg.THM_FIELD_STATUS.TDUTY + 1))).freg f
        Reg.THM_FIELD_STATUS.THROTTLE = s.freg f Reg.THM_FIELD_STATUS.THROTTLE :=
      State.freg_fset_other _ _ _ _ _ _ _ _ _ _ (by decide)
    simp only [hfull] at hexec
    refine Leaves.next hexec ⟨?_, ?_, rfl⟩
    · split
      · rw [State.freg_fset_other _ _ _ _ _ _ _ _ _ _ (by decide), State.freg_fset, hduty]
      · rw [State.freg_fset, hduty]
    · split
      · rw [State.freg_fset]; rfl
      · exact hkept
  case _ =>
    intro s f i t hb hm hlo hhi
    by_cases hd : s.svc f = svcDark
    · exact Leaves.next (State.inRim_of_dark hd) rfl
    · by_cases ht : s.freg f Reg.THM_FIELD_STATUS.THROTTLE = 0
      · exact Leaves.next ((State.inRim_of_ne hd).trans (if_pos ht)) rfl
      · have hbroken : decide ((s.thm f).broken ≠ 0) = false := by rw [hb]; rfl
        have hexec := execTdutyStep_of_throttle hd ht
        simp only [hm, hbroken, Bool.false_eq_true, or_false, if_neg (show ¬ (380 ≤ t) by omega),
          if_neg (show ¬ (t < 372) by omega)] at hexec
        exact Leaves.next hexec rfl
  case _ =>
    intro s f p hd hs
    exact Leaves.next ((if_neg (by rw [hd]; exact Bool.false_ne_true)).trans (if_pos hs)) rfl
  case _ =>
    intro s f p hd hs
    exact Leaves.next ((if_neg (by rw [hd]; exact Bool.false_ne_true)).trans (if_neg (by rw [hs]; exact Bool.false_ne_true)))
      ⟨rfl, State.mem_tokens_tokenAsk s f p false⟩
  case _ =>
    intro s f p hd
    exact Leaves.next (if_pos hd) rfl

end Sys2Proof.Machine
end


section
/-! Heartbeats, module losses and rims that fail (R27, R30, R32, R34, R35). -/

namespace Sys2Proof.Machine

set_option Elab.async false

open Sys2Proof

variable {K : List Part} {s t : State} {f : FieldId}

/-! ### Folds over the fields -/

/-- What no step of a fold changes, the fold does not change. -/
theorem foldl_same {α β : Type} (φ : State → β) (l : List α) (g : State → α → State) (hg : ∀ t, ∀ a ∈ l, φ (g t a) = φ t) (s : State) :
    φ (l.foldl g s) = φ s := by
  induction l generalizing s with
  | nil => rfl
  | cons a l ih => exact (ih (fun t b hb => hg t b (List.mem_cons_of_mem a hb)) (g s a)).trans (hg s a List.mem_cons_self)

theorem mem_allFields : ∀ f : FieldId, f ∈ allFields := by decide

/-- What only the step of one field changes, a fold over all fields changes as that step does. -/
theorem foldl_allFields {β : Type} (φ : State → β) (R : β → β → Prop) (g : State → FieldId → State) (f : FieldId)
    (hother : ∀ t h, h ≠ f → φ (g t h) = φ t) (hself : ∀ t, R (φ t) (φ (g t f))) (s : State) :
    R (φ s) (φ (allFields.foldl g s)) := by
  have hnodup : allFields.Nodup := by decide
  obtain ⟨l, l', hl⟩ := List.append_of_mem (mem_allFields f)
  rw [hl] at hnodup ⊢
  rw [List.nodup_append] at hnodup
  obtain ⟨-, hright, hapart⟩ := hnodup
  have hbefore : φ (l.foldl g s) = φ s := foldl_same φ l g (fun t a ha => hother t a (hapart a ha f List.mem_cons_self)) s
  have hafter : ∀ t, φ (l'.foldl g t) = φ t :=
    foldl_same φ l' g (fun t a ha => hother t a (fun e => (List.nodup_cons.mp hright).1 (e ▸ ha)))
  rw [List.foldl_append, List.foldl_cons, hafter, ← hbefore]
  exact hself _

/-! ### Heartbeats (R32, R35) -/

/-- What hub-lost operation rests on. -/
def beatView (f : FieldId) (s : State) : Nat × Bool × Bool := ((s.field f).missed, (s.field f).hubLost, (s.field f).hbStopped)

theorem State.hbMissed_view (s : State) (f : FieldId) (n : Nat) :
    beatView f (s.hbMissed f n) = (n, (s.field f).hubLost || decide (8 ≤ n), (s.field f).hbStopped) := by
  have hclear : beatView f ((s.updField f (fun F => { F with missed := n })).injClear f) =
      beatView f (s.updField f (fun F => { F with missed := n })) := by
    obtain ⟨-, ⟨hlost, hmissed, hstopped⟩, -⟩ := (State.injClear_only (F := fun _ => True) (P := fun _ => True)
      (s.updField f (fun F => { F with missed := n })) f (Fits.refl _) trivial (.refl _ _ _ _)).same .hubLost f (by decide)
      (.inl (by decide))
    rw [beatView, hlost, hmissed, hstopped, ← beatView]
  unfold State.hbMissed
  extract_lets s1
  split
  next h =>
    obtain ⟨hn, hlost⟩ := h
    have hview : beatView f (s1.injClear f) = (n, (s.field f).hubLost, (s.field f).hbStopped) := by
      rw [hclear, beatView, State.field_updField]
    have hlast : ∀ t : State, beatView f (t.updField f (fun F => { F with hubLost := true })) =
        ((beatView f t).1, true, (beatView f t).2.2) := fun t => by rw [beatView, State.field_updField]; rfl
    rw [hlast, hview, decide_eq_true (show 8 ≤ n from hn), Bool.or_true]
  next h =>
    have hkept : ((s.field f).hubLost || decide (8 ≤ n)) = (s.field f).hubLost := by
      cases hl : (s.field f).hubLost with
      | true => rfl
      | false =>
        have hn : ¬ 8 ≤ n := fun hn => h ⟨hn, hl⟩
        rw [decide_eq_false hn, Bool.or_self]
    rw [hkept]
    simp only [beatView, s1, State.field_updField]

theorem State.hbSend_view_other (s : State) (h f : FieldId) (hf : h ≠ f) : beatView f (s.hbSend h) = beatView f s := by
  obtain ⟨-, ⟨hlost, hmissed, hstopped⟩, -⟩ := (State.hbSend_only (F := (· = h)) (P := fun _ => True) s h (Fits.refl _) rfl
    (.refl _ _ _ s)).same .hubLost f (by decide) (.inr ⟨rfl, hf.symm⟩)
  rw [beatView, hlost, hmissed, hstopped, ← beatView]

theorem State.hbSend_view (s : State) (f : FieldId) : beatView f (s.hbSend f) =
    if (s.field f).hbStopped then
      ((s.field f).missed + 1, (s.field f).hubLost || decide (8 ≤ (s.field f).missed + 1), (s.field f).hbStopped)
    else (0, (s.field f).hubLost, (s.field f).hbStopped) := by
  unfold State.hbSend
  split
  · exact State.hbMissed_view _ _ _
  · simp only [beatView, State.field_updField]

/-- A heartbeat of the hub reaches every rim, or is missed there. -/
theorem heartbeat_view (s : State) (f : FieldId) : beatView f (allFields.foldl State.hbSend s) =
    if (s.field f).hbStopped then
      ((s.field f).missed + 1, (s.field f).hubLost || decide (8 ≤ (s.field f).missed + 1), (s.field f).hbStopped)
    else (0, (s.field f).hubLost, (s.field f).hbStopped) :=
  foldl_allFields (beatView f) (fun a b => b = if a.2.2 then (a.1 + 1, a.2.1 || decide (8 ≤ a.1 + 1), a.2.2) else (0, a.2.1, a.2.2))
    State.hbSend f (fun t h hf => t.hbSend_view_other h f hf) (fun t => t.hbSend_view f) s

/-! ### Die-to-die modules (R34) -/

theorem State.d2dModules_of_le {k n : Nat} (h : s.hreg Reg.HUB_D2D_STATUS.MODULES 0 k ≤ n) : s.d2dModules k n = s := if_pos h

/-- Fewer healthy modules than before: their count, and the link down where none is left. -/
theorem State.d2dModules_of_lt {k n : Nat} (h : n < s.hreg Reg.HUB_D2D_STATUS.MODULES 0 k) :
    (s.d2dModules k n).hreg Reg.HUB_D2D_STATUS.MODULES 0 k = n % 2 ^ 5 ∧ (n = 0 → (s.d2dModules k n).d2dUp k = false) := by
  unfold State.d2dModules
  extract_lets old s1
  rw [if_neg (Nat.not_le.mpr h)]
  have hcount : s1.hreg Reg.HUB_D2D_STATUS.MODULES 0 k = n % 2 ^ 5 := State.hreg_hset _ _ _ _ _
  split
  · exact ⟨(State.hreg_hset_other _ _ _ _ _ _ _ _ (by decide)).trans hcount, fun _ => by
      rw [State.d2dUp, State.raiseHub_hreg, State.hreg_hset]; rfl⟩
  next hup => exact ⟨hcount, fun hn => decide_eq_false (fun e => hup ⟨hn, e⟩)⟩

/-! ### A rim that fails (R27, R30, R160) -/

/-- What R27, R30 and R160 say of a field that fails. -/
def darkView (f : FieldId) (s : State) : Nat × Nat × Nat × SMap Byte :=
  (s.svc f, s.hreg Reg.HUB_FIELD_STATE.HBM0_OK 0 f, s.hreg Reg.HUB_FIELD_STATE.HBM1_OK 0 f, s.mem.store[f])

theorem Only.hub_darkView {G : FieldId → Prop} {P : PlotId → Prop} (ho : Only K G P s t)
    (hK : (spares K .anyHubReg Reg.HUB_FIELD_STATE.STATE && spares K .anyHubReg Reg.HUB_FIELD_STATE.HBM0_OK &&
      spares K .anyHubReg Reg.HUB_FIELD_STATE.HBM1_OK) = true) :
    t.svc f = s.svc f ∧ t.hreg Reg.HUB_FIELD_STATE.HBM0_OK 0 f = s.hreg Reg.HUB_FIELD_STATE.HBM0_OK 0 f ∧
      t.hreg Reg.HUB_FIELD_STATE.HBM1_OK 0 f = s.hreg Reg.HUB_FIELD_STATE.HBM1_OK 0 f := by
  simp only [Bool.and_eq_true] at hK
  obtain ⟨⟨hsvc, h0⟩, h1⟩ := hK
  exact ⟨ho.hreg _ hsvc 0 f, ho.hreg _ h0 0 f, ho.hreg _ h1 0 f⟩

theorem Only.darkView_same {P : PlotId → Prop} (ho : Only K (fun _ => True) P s s → Only K (fun _ => True) P s t)
    (hK : (spares K .anyHubReg Reg.HUB_FIELD_STATE.STATE && spares K .anyHubReg Reg.HUB_FIELD_STATE.HBM0_OK &&
      spares K .anyHubReg Reg.HUB_FIELD_STATE.HBM1_OK && !Part.covered K (.far .store) && !Part.covered K .store) = true := by
        decide +kernel) : darkView f t = darkView f s := by
  have hst := ho (.refl _ _ _ s)
  rw [Bool.and_eq_true, Bool.and_eq_true, Bool.not_eq_true', Bool.not_eq_true'] at hK
  obtain ⟨⟨hregs, hfar⟩, hstore⟩ := hK
  obtain ⟨hsvc, h0, h1⟩ := hst.hub_darkView (f := f) hregs
  obtain ⟨-, -, hmem⟩ := hst.same .store f hfar (.inl hstore)
  simp only [darkView, hsvc, h0, h1]
  exact congrArg _ (congrArg _ (congrArg _ hmem))

theorem State.resetPartition_store (s : State) (f : FieldId) : (s.resetPartition f).mem.store[f] = [] := by
  simp only [State.resetPartition, State.updMem_mem, Memories.clearPlots, Fin.getElem_fin, Vector.getElem_set_self]

/-- A field that fails is DARK, has its HBM out of service and its plot stores at zero. -/
theorem State.fieldDark_view (h : s.svc f ≠ svcDark) : darkView f (s.fieldDark f) = (svcDark, 0, 0, []) := by
  unfold State.fieldDark
  rw [if_neg h]
  extract_lets s0 s1 s2
  have hlinks : darkView f s2 = darkView f s1 := foldl_same (darkView f) _ _ (fun t k _ =>
    (Only.darkView_same (P := fun _ => True) (fun ho => State.updPort_only _ f _ _ (Fits.refl _) trivial ho)).trans
      (Only.darkView_same (P := fun _ => True) (fun ho => State.linkDarken_only t f _ _ (Fits.refl _) trivial ho))) s1
  have hd2d : darkView f (s2.d2dFieldDown f) = darkView f s2 :=
    Only.darkView_same (P := fun _ => True) (fun ho => State.d2dFieldDown_only s2 f (Fits.refl _) ho)
  have hset : s0.svc f = svcDark ∧ s0.hreg Reg.HUB_FIELD_STATE.HBM0_OK 0 f = 0 ∧ s0.hreg Reg.HUB_FIELD_STATE.HBM1_OK 0 f = 0 := by
    refine ⟨?_, ?_, ?_⟩
    · simp only [s0, State.updField_svc]
      rw [State.svc, State.hreg_hset_other _ _ _ _ _ _ _ _ (by decide), State.hreg_hset_other _ _ _ _ _ _ _ _ (by decide)]
      exact State.svc_setSvc s f svcDark (by decide)
    · simp only [s0, State.updField_hreg]
      rw [State.hreg_hset_other _ _ _ _ _ _ _ _ (by decide), State.hreg_hset]
      rfl
    · simp only [s0, State.updField_hreg, State.hreg_hset]
      rfl
  obtain ⟨hsvc, h0, h1⟩ := (State.resetPartition_only (F := fun _ => True) (P := fun _ => True) s0 f (Fits.refl _) trivial
    (fun _ => trivial) (.refl _ _ _ s0)).hub_darkView (f := f) (by decide +kernel)
  rw [hd2d, hlinks]
  simp only [darkView, s1, hsvc, h0, h1, hset, State.resetPartition_store]

theorem State.fieldDark_svc (s : State) (f : FieldId) : (s.fieldDark f).svc f = svcDark := by
  by_cases h : s.svc f = svcDark
  · rw [State.fieldDark, if_pos h, h]
  · exact congrArg Prod.fst (State.fieldDark_view h)

/-! ### The statement -/

/-- Settles O10: heartbeats field by field (`heartbeat_view`), module losses, and a rim's failure (`fieldDark_view`). -/
theorem packageCommandsComplete : Obligations.PackageCommandsComplete := by
  refine ⟨?_, ?_, ?_, ?_, ?_, ?_⟩
  case _ =>
    intro s f
    have hview := heartbeat_view s f
    refine Leaves.finish (u := allFields.foldl State.hbSend s) rfl ?_
    cases hs : (s.field f).hbStopped <;> simp_all [beatView]
  case _ =>
    intro s f hd
    have hview := State.hbMissed_view s f (max (s.field f).missed 8)
    rw [decide_eq_true (Nat.le_max_right _ _), Bool.or_true] at hview
    exact Leaves.finish (State.inRim_of_ne hd) ⟨congrArg Prod.fst hview, congrArg (fun x => x.2.1) hview⟩
  case _ =>
    intro s f hd
    exact Leaves.next (State.inRim_of_dark hd) rfl
  case _ =>
    intro s k hpos
    obtain ⟨hcount, hup⟩ := State.d2dModules_of_lt (Nat.sub_lt hpos Nat.one_pos)
    exact Leaves.finish rfl ⟨hcount, fun e => hup (by omega)⟩
  case _ =>
    intro s k hnone
    exact Leaves.finish rfl (State.d2dModules_of_le (by rw [hnone]))
  case _ =>
    intro s f
    refine Leaves.finish rfl ⟨State.fieldDark_svc s f, fun hd => ?_⟩
    have hview := State.fieldDark_view hd
    simp only [darkView, Prod.mk.injEq] at hview
    obtain ⟨-, h0, h1, hstore⟩ := hview
    exact ⟨h0, h1, fun a => by rw [hstore]; rfl⟩

end Sys2Proof.Machine
end


section
/-! Cold and warm resets, partition resets and the JTAG unlock: the state each leaves (R533, R578, R580, R581). -/

namespace Sys2Proof.Machine

set_option Elab.async false

open Sys2Proof

variable {K : List Part} {s t u : State} {f : FieldId}

/-! ### Memories outside a frame -/

theorem vector_eq_of_fields {α : Type} {u v : Vector α 4} (h : ∀ f : FieldId, u[f] = v[f]) : u = v :=
  Vector.ext (fun i hi => h ⟨i, hi⟩)

/-- The parts of the memories. -/
def memParts : List Part := [.sram, .hbm, .hbmErr, .store, .storeErr, .bin, .binErr]

/-- Where none of the memories is among the parts, the memories are as they were. -/
theorem Only.mem_same {G : FieldId → Prop} {P : PlotId → Prop} (ho : Only K G P s t)
    (hK : memParts.all (fun k => !Part.covered K k && !Part.covered K (.far k)) = true) : t.mem = s.mem := by
  simp only [memParts, List.all_cons, List.all_nil, Bool.and_true, Bool.and_eq_true, Bool.not_eq_true'] at hK
  obtain ⟨⟨hs, hs'⟩, ⟨hh, hh'⟩, ⟨he, he'⟩, ⟨ht, ht'⟩, ⟨hte, hte'⟩, ⟨hb, hb'⟩, hbe, hbe'⟩ := hK
  have hsram : t.mem.sram = s.mem.sram := (ho.same .sram 0 hs' (.inl hs)).2.2
  have hhbm : t.mem.hbm = s.mem.hbm := vector_eq_of_fields (fun f => (ho.same .hbm f hh' (.inl hh)).2.2)
  have hhbmErr : t.mem.hbmErr = s.mem.hbmErr := vector_eq_of_fields (fun f => (ho.same .hbmErr f he' (.inl he)).2.2)
  have hstore : t.mem.store = s.mem.store := vector_eq_of_fields (fun f => (ho.same .store f ht' (.inl ht)).2.2)
  have hstoreErr : t.mem.storeErr = s.mem.storeErr := vector_eq_of_fields (fun f => (ho.same .storeErr f hte' (.inl hte)).2.2)
  have hbin : t.mem.bin = s.mem.bin := vector_eq_of_fields (fun f => (ho.same .bin f hb' (.inl hb)).2.2)
  have hbinErr : t.mem.binErr = s.mem.binErr := vector_eq_of_fields (fun f => (ho.same .binErr f hbe' (.inl hbe)).2.2.1)
  have hpoison : t.mem.binPoison = s.mem.binPoison := vector_eq_of_fields (fun f => (ho.same .binErr f hbe' (.inl hbe)).2.2.2)
  calc t.mem = ⟨t.mem.hbm, t.mem.hbmErr, t.mem.store, t.mem.storeErr, t.mem.bin, t.mem.binErr, t.mem.binPoison, t.mem.sram⟩ := rfl
    _ = s.mem := by rw [hsram, hhbm, hhbmErr, hstore, hstoreErr, hbin, hbinErr, hpoison]

/-! ### Register files at a reset (R16, R671) -/

/-- A field that none of those kept lies on reads as in the new register file. -/
theorem keepRegs_get (ks : List RegField) (old new : SMap Nat) (k : RegField) (n i : Nat)
    (h : ks.all (fun j => decide (j.place % 0x10000000000 ≠ k.place % 0x10000000000)) = true) :
    k.get (keepRegs ks old new) n i = k.get new n i := by
  induction ks generalizing new with
  | nil => rfl
  | cons j ks ih =>
    rw [List.all_cons, Bool.and_eq_true, decide_eq_true_eq] at h
    obtain ⟨hj, hks⟩ := h
    have hone : ∀ (l : List (Nat × Nat)) (m : SMap Nat),
        k.get (l.foldl (fun (m : SMap Nat) x => j.set m x.1 x.2 (j.get old x.1 x.2)) m) n i = k.get m n i := fun l => by
      induction l with
      | nil => exact fun m => rfl
      | cons x l ihl => exact fun m => (ihl _).trans (RegField.get_set_ne _ _ _ _ _ _ _ _ (RegField.key_ne _ _ _ _ _ _ hj))
    exact (ih _ hks).trans (hone _ _)

/-- A field that a warm reset keeps reads as before. -/
theorem warmRegs_get (ks : List RegField) (m : SMap Nat) (k : RegField) (n i : Nat)
    (h : ks.all (fun j => j.warm.isNone || decide (j.place % 0x10000000000 ≠ k.place % 0x10000000000)) = true) :
    k.get (warmRegs ks m) n i = k.get m n i := by
  induction ks generalizing m with
  | nil => rfl
  | cons j ks ih =>
    rw [List.all_cons, Bool.and_eq_true] at h
    obtain ⟨hj, hks⟩ := h
    refine (ih _ hks).trans ?_
    dsimp only
    cases hw : j.warm with
    | none => rfl
    | some w =>
      have hne : j.place % 0x10000000000 ≠ k.place % 0x10000000000 := by simpa [hw] using hj
      have hone : ∀ (l : List (Nat × Nat)) (m : SMap Nat),
          k.get (l.foldl (fun (m : SMap Nat) x => j.set m x.1 x.2 w) m) n i = k.get m n i := fun l => by
        induction l with
        | nil => exact fun m => rfl
        | cons x l ihl => exact fun m => (ihl _).trans (RegField.get_set_ne _ _ _ _ _ _ _ _ (RegField.key_ne _ _ _ _ _ _ hne))
      exact hone _ _

/-! ### COLD_RESET (R578, R580) -/

/-- The state of a cold reset before the gateways' epochs: the straps, the cause and the nonce. -/
def coldStart (s : State) (powerOn : Bool) (straps : Nat) (vbat : Vbat) : State :=
  ((((({ State.reset with pending := s.pending, free := s.free, out := s.out } : State).updHub (fun H => { H with
    regs := if vbat = .lost then H.regs else keepRegs vbatKept s.hub.regs H.regs
    cal := if vbat = .lost then H.cal else s.hub.cal
    light := { H.light with laserEn := s.hub.light.laserEn }
    seed := { H.seed with resets := s.hub.seed.resets + 1 }
    pwr := { H.pwr with trip := s.hub.pwr.trip && !powerOn } })).hset Reg.SEED_STRAPS.STEP (bits straps 0 1)).hset
    Reg.SEED_STRAPS.BOOT_SRC (bits straps 1 2)).hset Reg.SEED_STRAPS.FLASH_IO (bits straps 3 1)).hset
    Reg.HUB_RESET_STATUS.CAUSE (b2n (!powerOn))

theorem State.coldReset_eq (s : State) (powerOn : Bool) (straps : Nat) (vbat : Vbat) :
    s.coldReset powerOn straps vbat =
      if s.hub.pwr.warnPin then ((if vbat = .kept then (coldStart s powerOn straps vbat).newNonce else
        (coldStart s powerOn straps vbat).newNonce.calLost).newEpochs).warnSet true false
      else (if vbat = .kept then (coldStart s powerOn straps vbat).newNonce else
        (coldStart s powerOn straps vbat).newNonce.calLost).newEpochs := rfl

/-- What a cold reset changes after the straps and the cause. -/
def coldParts : List Part :=
  [.hubReg Reg.HUB_JTAG_CHAL.NONCE, .free, .gateway, .events, .hubReg Reg.CAL_STATUS.OSC_STOP, .hubReg Reg.CAL_TIME.FRAC,
    .hubReg Reg.CAL_TIME.SEC, .hubReg Reg.CAL_TIME.VALID, .hubReg Reg.PWR_MODE_STATUS.HOLD, .hubReg Reg.PWR_MODE_STATUS.HOLD_COUNT,
    .hubReg Reg.PWR_RAMP_STAT.BALLAST, .hubReg Reg.PWR_RAMP_STAT.GOVERNED, .hubReg Reg.PWR_RAMP_STAT.LIMIT, .power, .thermal]

theorem State.coldReset_frame (s : State) (powerOn : Bool) (straps : Nat) (vbat : Vbat) :
    Only coldParts (fun _ => True) (fun _ => True) (coldStart s powerOn straps vbat) (s.coldReset powerOn straps vbat) := by
  have hnonce := State.newNonce_only (K := coldParts) (F := fun _ => True) (P := fun _ => True) (coldStart s powerOn straps vbat)
    (by decide +kernel) (.refl _ _ _ _)
  have hcal := Only.ite (c := vbat = .kept) hnonce (State.calLost_only _ (by decide +kernel) hnonce)
  have hepochs := State.newEpochs_only _ (by decide +kernel) (fun _ => trivial) hcal
  rw [State.coldReset_eq]
  exact .ite (State.warnSet_only _ true false (by decide +kernel) (fun _ => trivial) hepochs) hepochs

theorem coldStart_straps (s : State) (powerOn : Bool) (straps : Nat) (vbat : Vbat) :
    (coldStart s powerOn straps vbat).hreg Reg.HUB_RESET_STATUS.CAUSE = b2n (!powerOn) ∧
    (coldStart s powerOn straps vbat).hreg Reg.SEED_STRAPS.STEP = bits straps 0 1 ∧
    (coldStart s powerOn straps vbat).hreg Reg.SEED_STRAPS.BOOT_SRC = bits straps 1 2 ∧
    (coldStart s powerOn straps vbat).hreg Reg.SEED_STRAPS.FLASH_IO = bits straps 3 1 := by
  have hbits : ∀ i n, bits straps i n % 2 ^ n = bits straps i n := fun i n => by
    unfold bits
    exact Nat.mod_mod _ _
  have hcause : b2n (!powerOn) % 2 ^ Reg.HUB_RESET_STATUS.CAUSE.width = b2n (!powerOn) := by cases powerOn <;> rfl
  unfold coldStart
  refine ⟨?_, ?_, ?_, ?_⟩
  · rw [State.hreg_hset, hcause]
  · rw [State.hreg_hset_other _ _ _ _ _ _ _ _ (by decide), State.hreg_hset_other _ _ _ _ _ _ _ _ (by decide),
      State.hreg_hset_other _ _ _ _ _ _ _ _ (by decide), State.hreg_hset]
    exact hbits 0 1
  · rw [State.hreg_hset_other _ _ _ _ _ _ _ _ (by decide), State.hreg_hset_other _ _ _ _ _ _ _ _ (by decide), State.hreg_hset]
    exact hbits 1 2
  · rw [State.hreg_hset_other _ _ _ _ _ _ _ _ (by decide), State.hreg_hset]
    exact hbits 3 1

theorem coldStart_stage (s : State) (powerOn : Bool) (straps : Nat) (vbat : Vbat) :
    (coldStart s powerOn straps vbat).stage = sgPower := by
  unfold coldStart State.stage
  rw [State.hreg_hset_other _ _ _ _ _ _ _ _ (by decide), State.hreg_hset_other _ _ _ _ _ _ _ _ (by decide),
    State.hreg_hset_other _ _ _ _ _ _ _ _ (by decide), State.hreg_hset_other _ _ _ _ _ _ _ _ (by decide)]
  show Reg.SEED_STAGE.STAGE.get (if vbat = .lost then [] else keepRegs vbatKept s.hub.regs []) 0 0 = sgPower
  split
  · rfl
  · rw [keepRegs_get _ _ _ _ _ _ (by decide +kernel)]
    rfl

theorem State.newEpochs_regs (s : State) (f : FieldId) : (s.newEpochs.field f).regs = (s.field f).regs :=
  foldl_same (fun t => (t.field f).regs) allFields _ (fun t g _ => by
    simp only [State.updGw, State.field_updField_if]
    split
    next e => subst e; rfl
    next => rfl) s

theorem State.coldReset_regs (powerOn : Bool) (straps : Nat) (vbat : Vbat) (f : FieldId) (h : s.hub.pwr.warnPin = false) :
    ((s.coldReset powerOn straps vbat).field f).regs = (State.reset.field f).regs := by
  rw [State.coldReset_eq, if_neg (by rw [h]; exact Bool.false_ne_true), State.newEpochs_regs]
  split <;> rfl

/-- A calendar lost stands at 0 with OSC_STOP set (R533). -/
theorem State.calLost_regs (s : State) :
    s.calLost.hreg Reg.CAL_STATUS.OSC_STOP = 1 ∧ s.calLost.hreg Reg.CAL_TIME.VALID = 0 ∧ s.calLost.hreg Reg.CAL_TIME.SEC = 0 ∧
      s.calLost.hreg Reg.CAL_TIME.FRAC = 0 := by
  unfold State.calLost State.calSet
  simp only [State.raiseHub_hreg]
  refine ⟨?_, ?_, ?_, ?_⟩
  · rw [State.hreg_hset_other _ _ _ _ _ _ _ _ (by decide), State.hreg_hset_other _ _ _ _ _ _ _ _ (by decide),
      State.hreg_hset_other _ _ _ _ _ _ _ _ (by decide), State.hreg_hset]
    rfl
  · rw [State.hreg_hset_other _ _ _ _ _ _ _ _ (by decide), State.hreg_hset_other _ _ _ _ _ _ _ _ (by decide), State.hreg_hset]
    rfl
  · rw [State.hreg_hset_other _ _ _ _ _ _ _ _ (by decide), State.hreg_hset]
    rfl
  · rw [State.hreg_hset]
    rfl

/-- The frame of the new epochs spares every register of the hub. -/
theorem State.newEpochs_hreg (s : State) (k : RegField) (hk : spares [.free, .gateway] .anyHubReg k = true) (n i : Nat) :
    s.newEpochs.hreg k n i = s.hreg k n i :=
  (State.newEpochs_only (F := fun _ => True) (P := fun _ => True) s (Fits.refl _) (fun _ => trivial) (.refl _ _ _ s)).hreg k hk n i

/-! ### WARM_RESET (R578, R580) -/

/-- The state of a warm reset with the memories cleared and the registers at their Warm values, as the fields become STARTING. -/
def warmStart (s : State) : State :=
  allFields.foldl (fun (t : State) (f : FieldId) =>
    if s.svc f = svcStarting then t else t.raiseHub Ev.HUB_FIELD_STATE [(1, f), (1, s.svc f), (1, svcStarting)])
    { s.warmLight with
      hub := s.warmLight.hub.warm (if s.hreg Reg.SEED_IMAGE_STATUS.SLOT = 3 then 0 else s.hreg Reg.SEED_DIGEST.D)
        (s.hreg Reg.PWR_MODE_STATUS.MODE)
      fields := #v[(s.warmLight.field 0).warm 0, (s.warmLight.field 1).warm 1, (s.warmLight.field 2).warm 2, (s.warmLight.field 3).warm 3]
      mem := allFields.foldl (fun (m : Memories) (f : FieldId) => m.clearPlots f) s.warmLight.mem
      events := [] }

/-- The state of a warm reset with its cause and its count. -/
def warmCounted (s : State) (i3c : Bool) : State :=
  (((warmStart s).warmAfter s).hset Reg.HUB_RESET_STATUS.CAUSE (if i3c then 3 else 2)).hcount Reg.HUB_RESET_STATUS.WARM_COUNT

theorem State.warmReset_eq (s : State) (i3c : Bool) : s.warmReset i3c =
    (if s.hub.pwr.warnPin then ((warmCounted s i3c).newNonce.raiseHub Ev.HUB_RESET [(1, if i3c then 3 else 2)]).warnSet true false
    else (warmCounted s i3c).newNonce.raiseHub Ev.HUB_RESET [(1, if i3c then 3 else 2)]).stageStart sgSeed := rfl

/-- What a warm reset changes after its count. -/
def warmParts : List Part :=
  [.hubReg Reg.HUB_JTAG_CHAL.NONCE, .free, .events, .hubReg Reg.PWR_MODE_STATUS.HOLD, .hubReg Reg.PWR_MODE_STATUS.HOLD_COUNT,
    .hubReg Reg.PWR_RAMP_STAT.BALLAST, .hubReg Reg.PWR_RAMP_STAT.GOVERNED, .hubReg Reg.PWR_RAMP_STAT.LIMIT, .power, .thermal,
    .hubReg Reg.SEED_STAGE.PHASE, .hubReg Reg.SEED_STAGE.STAGE, .seed]

theorem State.warmReset_frame (s : State) (i3c : Bool) :
    Only warmParts (fun _ => True) (fun _ => True) (warmCounted s i3c) (s.warmReset i3c) := by
  have hnonce := State.newNonce_only (K := warmParts) (F := fun _ => True) (P := fun _ => True) (warmCounted s i3c)
    (by decide +kernel) (.refl _ _ _ _)
  have hevent := State.raiseHub_only _ Ev.HUB_RESET [(1, if i3c then 3 else 2)] false (by decide +kernel) hnonce
  rw [State.warmReset_eq]
  exact State.stageStart_only _ _ (by decide +kernel)
    (.ite (State.warnSet_only _ true false (by decide +kernel) (fun _ => trivial) hevent) hevent)

theorem State.stageStart_stage (s : State) (k : Nat) (h : k < 2 ^ Reg.SEED_STAGE.STAGE.width) : (s.stageStart k).stage = k := by
  unfold State.stageStart State.setPhase
  have hset : ∀ (v p : Nat) (g : SeedUnit → SeedUnit),
      (((s.hset Reg.SEED_STAGE.STAGE v).hset Reg.SEED_STAGE.PHASE p).updSeed g).stage = v % 2 ^ Reg.SEED_STAGE.STAGE.width := fun v p g => by
    show ((s.hset Reg.SEED_STAGE.STAGE v).hset Reg.SEED_STAGE.PHASE p).hreg Reg.SEED_STAGE.STAGE = _
    rw [State.hreg_hset_other _ _ _ _ _ _ _ _ (by decide), State.hreg_hset]
  rw [hset, Nat.mod_eq_of_lt h]

theorem vector_setAll {α : Type} (v : Vector α 4) (x : α) :
    (((v.set (0 : FieldId) x).set (1 : FieldId) x).set (2 : FieldId) x).set (3 : FieldId) x = #v[x, x, x, x] := by
  refine vector_eq_of_fields (fun f => ?_)
  fin_cases f <;> simp

/-- The memories of a warm reset: plot stores and bins at zero, HBM as it was. -/
theorem warmStart_mem (s : State) : (warmStart s).mem = { s.mem with
    store := #v[[], [], [], []], storeErr := #v[[], [], [], []], bin := #v[[], [], [], []], binErr := #v[[], [], [], []],
    binPoison := #v[[], [], [], []] } := by
  have hlight : s.warmLight.mem = s.mem :=
    (State.warmLight_only (F := fun _ => True) (P := fun _ => True) s (Fits.refl _) (.refl _ _ _ s)).mem_same (by decide +kernel)
  have hclear : ∀ m : Memories, allFields.foldl (fun (m : Memories) (f : FieldId) => m.clearPlots f) m = { m with
      store := #v[[], [], [], []], storeErr := #v[[], [], [], []], bin := #v[[], [], [], []], binErr := #v[[], [], [], []],
      binPoison := #v[[], [], [], []] } := fun m => by
    simp only [allFields, List.foldl_cons, List.foldl_nil, Memories.clearPlots]
    rw [vector_setAll, vector_setAll, vector_setAll, vector_setAll, vector_setAll]
  unfold warmStart
  rw [foldl_same State.mem allFields _ (fun t f _ => by split <;> rfl)]
  show allFields.foldl (fun (m : Memories) (f : FieldId) => m.clearPlots f) s.warmLight.mem = _
  rw [hclear, hlight]

theorem warmCounted_mem (s : State) (i3c : Bool) : (warmCounted s i3c).mem = (warmStart s).mem := by
  rw [warmCounted, State.hcount, State.hset_mem, State.hset_mem]
  exact (State.warmAfter_only (F := fun _ => True) (P := fun _ => True) (warmStart s) s (Fits.refl _) (fun _ => trivial)
    (.refl _ _ _ _)).mem_same (by decide +kernel)

/-- The count of warm resets is kept by one, and then counts it (R580). -/
theorem warmCounted_count (s : State) (i3c : Bool) : (warmCounted s i3c).hreg Reg.HUB_RESET_STATUS.WARM_COUNT =
    satAdd Reg.HUB_RESET_STATUS.WARM_COUNT.width (s.hreg Reg.HUB_RESET_STATUS.WARM_COUNT) 1 := by
  have hlight : s.warmLight.hreg Reg.HUB_RESET_STATUS.WARM_COUNT = s.hreg Reg.HUB_RESET_STATUS.WARM_COUNT :=
    (State.warmLight_only (F := fun _ => True) (P := fun _ => True) s (Fits.refl _) (.refl _ _ _ s)).hreg
      Reg.HUB_RESET_STATUS.WARM_COUNT (by decide +kernel) 0 0
  have hstart : (warmStart s).hreg Reg.HUB_RESET_STATUS.WARM_COUNT = s.hreg Reg.HUB_RESET_STATUS.WARM_COUNT := by
    unfold warmStart
    rw [foldl_same (fun t => t.hreg Reg.HUB_RESET_STATUS.WARM_COUNT) allFields _ (fun t f _ => by split <;> rfl)]
    show Reg.HUB_RESET_STATUS.WARM_COUNT.get (keepRegs warmKeptHub s.warmLight.hub.regs (warmRegs Reg.hubFields s.warmLight.hub.regs)) 0 0 = _
    rw [keepRegs_get _ _ _ _ _ _ (by decide +kernel), warmRegs_get _ _ _ _ _ (by decide +kernel)]
    exact hlight
  have hafter : ((warmStart s).warmAfter s).hreg Reg.HUB_RESET_STATUS.WARM_COUNT = (warmStart s).hreg Reg.HUB_RESET_STATUS.WARM_COUNT :=
    (State.warmAfter_only (F := fun _ => True) (P := fun _ => True) (warmStart s) s (Fits.refl _) (fun _ => trivial)
      (.refl _ _ _ _)).hreg Reg.HUB_RESET_STATUS.WARM_COUNT (by decide +kernel) 0 0
  unfold warmCounted
  rw [State.hreg_hcount, State.hreg_hset_other _ _ _ _ _ _ _ _ (by decide), hafter, hstart]

theorem warmCounted_cause (s : State) (i3c : Bool) :
    (warmCounted s i3c).hreg Reg.HUB_RESET_STATUS.CAUSE = if i3c then 3 else 2 := by
  unfold warmCounted
  rw [State.hcount, State.hreg_hset_other _ _ _ _ _ _ _ _ (by decide), State.hreg_hset]
  cases i3c <;> rfl

/-! ### PARTITION_RESET (R578, R579) -/

theorem State.partReset_of_ready (hl : (s.field f).hubLost = false) (hr : s.svc f = svcReady) : s.partReset f =
    ((((s.healthReset f).setSvc f svcPartitionReset).resetPartition f).updThm f (fun T => { T with tokens := [] })).shfReset f := by
  rw [State.partReset, hl, if_neg Bool.false_ne_true, if_neg (not_not.mpr hr)]

theorem State.partReset_of_other (hl : (s.field f).hubLost = false) (hr : s.svc f ≠ svcReady) :
    s.partReset f = s.hset Reg.HUB_RESET_STATUS.PART_REFUSED 1 := by
  rw [State.partReset, hl, if_neg Bool.false_ne_true, if_pos hr]

theorem State.partReset_of_hubLost (hl : (s.field f).hubLost = true) : s.partReset f = s := if_pos hl

/-- A partition that is reset is in PARTITION_RESET, and the collector has no token of its plots. -/
theorem State.partReset_effect (s : State) (f : FieldId) :
    (((((s.healthReset f).setSvc f svcPartitionReset).resetPartition f).updThm f (fun T => { T with tokens := [] })).shfReset f).svc f =
      svcPartitionReset ∧
    ((((((s.healthReset f).setSvc f svcPartitionReset).resetPartition f).updThm f (fun T => { T with tokens := [] })).shfReset f).thm f).tokens =
      [] := by
  have hplots := State.resetPartition_only (F := fun _ => True) (P := fun _ => True) ((s.healthReset f).setSvc f svcPartitionReset) f
    (Fits.refl _) trivial (fun _ => trivial) (.refl _ _ _ _)
  generalize hq : ((s.healthReset f).setSvc f svcPartitionReset).resetPartition f = q at hplots
  have hshf := State.shfReset_only (F := fun _ => True) (P := fun _ => True) (q.updThm f (fun T => { T with tokens := [] })) f
    (Fits.refl _) trivial (fun _ => trivial) (.refl _ _ _ _)
  constructor
  · rw [hshf.svc_of_apart (by decide +kernel), State.updThm, State.updField_svc, hplots.svc_of_apart (by decide +kernel)]
    exact State.svc_setSvc _ _ _ (by decide)
  · obtain ⟨-, hthm, -⟩ := hshf.same .thermal f (by decide +kernel) (.inl (by decide +kernel))
    rw [State.thm, hthm, State.updThm, State.field_updField]

theorem State.partDone_eq (s : State) (f : FieldId) (m : Nat) : s.partDone f m =
    if ((s.fallowMarks f m).remapTake f).svc f = svcUnfit then (s.fallowMarks f m).remapTake f
    else ((((((s.fallowMarks f m).remapTake f).fillAll f).livePlots f).foldl (fun (t : State) p => t.bootAll f p bootFuel)
      (((s.fallowMarks f m).remapTake f).fillAll f)).setSvc f svcReady).firmwareEvent f := rfl

/-- A partition reset that is done leaves its field READY or UNFIT. -/
theorem State.partDone_svc (s : State) (f : FieldId) (m : Nat) :
    (s.partDone f m).svc f = svcReady ∨ (s.partDone f m).svc f = svcUnfit := by
  rw [State.partDone_eq]
  split
  next h => exact .inr h
  next => exact .inl (State.svc_setSvc _ _ _ (by decide))

/-! ### The JTAG unlock (R581) -/

theorem State.newNonce_nonce (s : State) : s.newNonce.hreg Reg.HUB_JTAG_CHAL.NONCE = Config.freeValue s.free % 2 ^ 384 := by
  have hset : s.newNonce.hreg Reg.HUB_JTAG_CHAL.NONCE = Config.freeValue s.free % 2 ^ 384 % 2 ^ 384 := State.hreg_hset _ _ _ _ _
  rw [hset, Nat.mod_mod]

theorem State.newNonce_hreg (s : State) (k : RegField) (hk : k.place % 0x10000000000 ≠ Reg.HUB_JTAG_CHAL.NONCE.place % 0x10000000000) :
    s.newNonce.hreg k = s.hreg k := State.hreg_hset_other s.draw.2 _ _ _ _ _ _ _ hk.symm

/-- A response that is checked: a new nonce, the result, and what the result opens or holds. -/
theorem State.jtagResponse_of_free {r v : Nat} {ok : Bool} (h : s.hub.seed.jtagHold = false)
    (hok : ok = (decide (s.hreg Reg.SEED_IMAGE_STATUS.SLOT ≠ 3) && ecdsaOk (imgKey s.image) (beNat (sha384 s.jtagMessage)) r v)) :
    s.jtagResponse r v =
      (if ok then (s.newNonce.hset Reg.HUB_JTAG_STATUS.RESULT (if ok then St.OK else St.JTAG_REFUSED)).hset Reg.HUB_JTAG_STATUS.UNLOCKED 1
      else (s.newNonce.hset Reg.HUB_JTAG_STATUS.RESULT (if ok then St.OK else St.JTAG_REFUSED)).updSeed
        (fun U => { U with jtagHold := true })).raiseHub Ev.HUB_JTAG [(2, if ok then St.OK else St.JTAG_REFUSED)] := by
  unfold State.jtagResponse
  rw [h, if_neg Bool.false_ne_true, hok]

/-- The registers and the hold-off after a response that is checked. -/
theorem State.jtagResponse_effect {r v : Nat} {ok : Bool} (h : s.hub.seed.jtagHold = false)
    (hok : ok = (decide (s.hreg Reg.SEED_IMAGE_STATUS.SLOT ≠ 3) && ecdsaOk (imgKey s.image) (beNat (sha384 s.jtagMessage)) r v)) :
    (s.jtagResponse r v).hreg Reg.HUB_JTAG_RESP.SIG_R = s.hreg Reg.HUB_JTAG_RESP.SIG_R ∧
    (s.jtagResponse r v).hreg Reg.HUB_JTAG_RESP.SIG_S = s.hreg Reg.HUB_JTAG_RESP.SIG_S ∧
    (s.jtagResponse r v).hreg Reg.HUB_JTAG_CHAL.NONCE = Config.freeValue s.free % 2 ^ 384 ∧
    (s.jtagResponse r v).hreg Reg.HUB_JTAG_STATUS.RESULT = (if ok then St.OK else St.JTAG_REFUSED) ∧
    (s.jtagResponse r v).hub.seed.jtagHold = !ok ∧
    (s.jtagResponse r v).hreg Reg.HUB_JTAG_STATUS.UNLOCKED = (if ok then 1 else s.hreg Reg.HUB_JTAG_STATUS.UNLOCKED) := by
  rw [State.jtagResponse_of_free h hok]
  have hresult : ∀ k : RegField, k.place % 0x10000000000 ≠ Reg.HUB_JTAG_STATUS.RESULT.place % 0x10000000000 →
      ∀ w, (s.newNonce.hset Reg.HUB_JTAG_STATUS.RESULT w).hreg k = s.newNonce.hreg k := fun k hk w =>
    State.hreg_hset_other _ _ _ _ _ _ _ _ hk.symm
  have hseed : ∀ (t : State) (g : SeedUnit → SeedUnit) (k : RegField), (t.updSeed g).hreg k = t.hreg k := fun _ _ _ => rfl
  cases ok with
  | true =>
    simp only [if_true, State.raiseHub_hreg]
    refine ⟨?_, ?_, ?_, ?_, h, ?_⟩
    · rw [State.hreg_hset_other _ _ _ _ _ _ _ _ (by decide), hresult _ (by decide), State.newNonce_hreg _ _ (by decide)]
    · rw [State.hreg_hset_other _ _ _ _ _ _ _ _ (by decide), hresult _ (by decide), State.newNonce_hreg _ _ (by decide)]
    · rw [State.hreg_hset_other _ _ _ _ _ _ _ _ (by decide), hresult _ (by decide), State.newNonce_nonce]
    · rw [State.hreg_hset_other _ _ _ _ _ _ _ _ (by decide), State.hreg_hset]; rfl
    · rw [State.hreg_hset]; rfl
  | false =>
    simp only [Bool.false_eq_true, if_false, State.raiseHub_hreg, hseed]
    refine ⟨?_, ?_, ?_, ?_, rfl, ?_⟩
    · rw [hresult _ (by decide), State.newNonce_hreg _ _ (by decide)]
    · rw [hresult _ (by decide), State.newNonce_hreg _ _ (by decide)]
    · rw [hresult _ (by decide), State.newNonce_nonce]
    · rw [State.hreg_hset]; rfl
    · rw [hresult _ (by decide), State.newNonce_hreg _ _ (by decide)]

/-- The signature written by a response (R594). -/
def jtagWritten (s : State) (r v : Nat) : State :=
  (s.hset Reg.HUB_JTAG_RESP.SIG_R (r % 2 ^ 384)).hset Reg.HUB_JTAG_RESP.SIG_S (v % 2 ^ 384)

theorem jtagWritten_hreg (s : State) (r v : Nat) (k : RegField)
    (hr : k.place % 0x10000000000 ≠ Reg.HUB_JTAG_RESP.SIG_R.place % 0x10000000000)
    (hs : k.place % 0x10000000000 ≠ Reg.HUB_JTAG_RESP.SIG_S.place % 0x10000000000) : (jtagWritten s r v).hreg k = s.hreg k := by
  unfold jtagWritten
  rw [State.hreg_hset_other _ _ _ _ _ _ _ _ hs.symm, State.hreg_hset_other _ _ _ _ _ _ _ _ hr.symm]

theorem jtagWritten_sig (s : State) (r v : Nat) : (jtagWritten s r v).hreg Reg.HUB_JTAG_RESP.SIG_R = r % 2 ^ 384 ∧
    (jtagWritten s r v).hreg Reg.HUB_JTAG_RESP.SIG_S = v % 2 ^ 384 := by
  unfold jtagWritten
  constructor
  · rw [State.hreg_hset_other _ _ _ _ _ _ _ _ (by decide), State.hreg_hset]
    exact Nat.mod_mod _ _
  · rw [State.hreg_hset]
    exact Nat.mod_mod _ _

/-- What a response signs, and under which key, is no part of what it writes. -/
theorem jtagWritten_check (s : State) (r v a b : Nat) :
    (decide ((jtagWritten s r v).hreg Reg.SEED_IMAGE_STATUS.SLOT ≠ 3) &&
      ecdsaOk (imgKey (jtagWritten s r v).image) (beNat (sha384 (jtagWritten s r v).jtagMessage)) a b) =
    (decide (s.hreg Reg.SEED_IMAGE_STATUS.SLOT ≠ 3) && ecdsaOk (imgKey s.image) (beNat (sha384 s.jtagMessage)) a b) := by
  have hmessage : (jtagWritten s r v).jtagMessage = s.jtagMessage := by
    unfold State.jtagMessage
    rw [jtagWritten_hreg _ _ _ _ (by decide) (by decide)]
  have himage : (jtagWritten s r v).image = s.image := rfl
  rw [hmessage, himage, jtagWritten_hreg _ _ _ _ (by decide) (by decide)]

/-! ### The statement -/

/-- Settles O37: cold and warm resets by the frames of what follows their registers (`coldReset_frame`, `warmReset_frame`), partition
resets by their branches, a JTAG response by `jtagResponse_effect`. -/
theorem resetCommandsComplete : Obligations.ResetCommandsComplete := by
  refine ⟨?_, ?_, ?_, ?_, ?_, ?_, ?_, ?_, ?_, ?_, ?_, ?_⟩
  case _ =>
    intro s po st vbat
    have hframe := State.coldReset_frame s po st vbat
    obtain ⟨hcause, hstep, hsrc, hio⟩ := coldStart_straps s po st vbat
    have hmem : (s.coldReset po st vbat).mem = State.reset.mem := hframe.mem_same (by decide +kernel)
    refine Leaves.finish rfl ⟨?_, ?_, ?_, ?_, ?_, ?_, ?_, rfl⟩
    · exact (hframe.hreg Reg.SEED_STAGE.STAGE (by decide +kernel) 0 0).trans (coldStart_stage s po st vbat)
    · exact (hframe.hreg Reg.HUB_RESET_STATUS.CAUSE (by decide +kernel) 0 0).trans hcause
    · exact (hframe.hreg Reg.SEED_STRAPS.STEP (by decide +kernel) 0 0).trans hstep
    · exact (hframe.hreg Reg.SEED_STRAPS.BOOT_SRC (by decide +kernel) 0 0).trans hsrc
    · exact (hframe.hreg Reg.SEED_STRAPS.FLASH_IO (by decide +kernel) 0 0).trans hio
    · rw [hmem]
    · rw [hmem]
  case _ =>
    intro s po st vbat f hpin
    exact Leaves.finish rfl (State.coldReset_regs po st vbat f hpin)
  case _ =>
    intro s po st _
    refine Leaves.finish rfl ?_
    obtain ⟨hcal, -, -⟩ := (State.coldReset_frame s po st .kept).same .calendar 0 (by decide +kernel) (.inl (by decide +kernel))
    exact hcal
  case _ =>
    intro s po st vbat hpin hv
    refine Leaves.finish (u := s.coldReset po st vbat) rfl ?_
    rw [State.coldReset_eq, if_neg (by rw [hpin]; exact Bool.false_ne_true), if_neg hv]
    rw [State.newEpochs_hreg _ _ (by decide +kernel), State.newEpochs_hreg _ _ (by decide +kernel),
      State.newEpochs_hreg _ _ (by decide +kernel), State.newEpochs_hreg _ _ (by decide +kernel)]
    exact State.calLost_regs _
  case _ =>
    intro s i3c
    have hframe := State.warmReset_frame s i3c
    have hmem : (s.warmReset i3c).mem = _ :=
      (hframe.mem_same (by decide +kernel)).trans ((warmCounted_mem s i3c).trans (warmStart_mem s))
    refine Leaves.finish rfl ⟨?_, ?_, ?_, ?_, ?_, ?_, ?_, ?_, ?_, ?_, rfl⟩
    · rw [State.warmReset_eq]
      exact State.stageStart_stage _ _ (by decide)
    · exact (hframe.hreg Reg.HUB_RESET_STATUS.CAUSE (by decide +kernel) 0 0).trans (warmCounted_cause s i3c)
    · rw [satAdd_mod]
      exact (hframe.hreg Reg.HUB_RESET_STATUS.WARM_COUNT (by decide +kernel) 0 0).trans (warmCounted_count s i3c)
    all_goals rw [hmem]
  case _ =>
    intro s f hl hr
    obtain ⟨hsvc, htokens⟩ := State.partReset_effect s f
    exact Leaves.finish (congrArg finish (State.partReset_of_ready hl hr)) ⟨hsvc, htokens, rfl⟩
  case _ =>
    intro s f hl hr
    exact Leaves.finish (congrArg finish (State.partReset_of_other hl hr)) rfl
  case _ =>
    intro s f hl
    exact Leaves.finish (congrArg finish (State.partReset_of_hubLost hl)) rfl
  case _ =>
    intro s f m hr
    exact Leaves.finish (u := s.partDone f m) (if_pos hr) ⟨State.partDone_svc s f m, State.partDone_eq s f m⟩
  case _ =>
    intro s f m hr
    exact Leaves.next (if_neg hr) rfl
  case _ =>
    intro s r v ok hhold hok
    have hexec : exec (.jtagResponse r v) s = finish ((jtagWritten s r v).jtagResponse (r % 2 ^ 384) (v % 2 ^ 384)) := rfl
    obtain ⟨hsigR, hsigS, hnonce, hresult, hheld, hunlocked⟩ :=
      State.jtagResponse_effect (s := jtagWritten s r v) hhold (hok.trans (jtagWritten_check s r v _ _).symm)
    obtain ⟨hr, hs⟩ := jtagWritten_sig s r v
    exact Leaves.finish hexec ⟨hsigR.trans hr, hsigS.trans hs, hnonce, hresult, hheld,
      hunlocked.trans (by rw [jtagWritten_hreg _ _ _ _ (by decide) (by decide)])⟩
  case _ =>
    intro s r v hhold
    have hheld : (jtagWritten s r v).jtagResponse (r % 2 ^ 384) (v % 2 ^ 384) = jtagWritten s r v := if_pos hhold
    exact Leaves.finish (congrArg finish hheld) rfl

end Sys2Proof.Machine
end


section
/-! Marks: arming, the actions that are commands of their own, and the end (R35, R132, R425, R486, R526 to R528). -/

namespace Sys2Proof.Machine

set_option Elab.async false

open Sys2Proof

variable {s : State} {f : FieldId}

/-! ### Turns (R528) -/

theorem State.markTurn_of_head {n : Nat} (h : (s.tly f).todo.head? = some n) : ¬ (!s.markTurn f n) = true := by
  rw [State.markTurn, decide_eq_true h]
  exact Bool.false_ne_true

theorem State.markTurn_of_other {n : Nat} (h : (s.tly f).todo.head? ≠ some n) : (!s.markTurn f n) = true := by
  rw [State.markTurn, decide_eq_false h]
  rfl

/-- A command of a mark out of its turn, or of a DARK field. -/
theorem leaves_markTurn {n : Nat} {r : Result} (h : s.svc f = svcDark ∨ (s.tly f).todo.head? ≠ some n) :
    Leaves (s.inRim f (if !s.markTurn f n then .next s else r)) (fun u => u = s) := by
  by_cases hd : s.svc f = svcDark
  · exact Leaves.next (State.inRim_of_dark hd) rfl
  · exact Leaves.next ((State.inRim_of_ne hd).trans (if_pos (State.markTurn_of_other (h.resolve_left hd)))) rfl

/-! ### Reports (R132, R486) -/

theorem execDriftReportWrite_of_turn (hd : s.svc f ≠ svcDark) (ht : (s.tly f).todo.head? = some 10) :
    execDriftReportWrite f s = finish ((((if s.freg f Reg.FLD_DRIFT_BASE.WRITE = 0 then s
      else if hbmTop < s.freg f Reg.FLD_DRIFT_BASE.ADDR * 128 + 0x42000 then s.raise f Ev.FLD_DRIFT_REPORT_LOST []
      else (s.hbmWrite f (s.freg f Reg.FLD_DRIFT_BASE.ADDR * 128 + s.freg f Reg.FLD_DRIFT_STATUS.SEQ % 2 * 0x21000)
        (s.driftReportBytes f) false srcRim).1).updField f
          (fun F => { F with drift := { recs := [], unrecorded := 0, fullEvent := false } })).fwrap f Reg.FLD_DRIFT_STATUS.SEQ).markDid f 10) :=
  (State.inRim_of_ne hd).trans (if_neg (State.markTurn_of_head ht))

theorem execStepTimingReportWrite_of_turn {on : Bool} (hd : s.svc f ≠ svcDark) (ht : (s.tly f).todo.head? = some 11)
    (hon : on = (decide (s.freg f Reg.HLT_REPORT_BASE.WRITE = 1) && !(s.field f).hubLost)) :
    execStepTimingReportWrite f s = finish ((State.lateClear (if on then (if !on then s
        else if hbmTop < s.freg f Reg.HLT_REPORT_BASE.ADDR * 128 + 0x10200 then s.raise f Ev.HLT_REPORT_LOST [(1, f), (4, (s.field f).hlt.seq)]
        else (s.hbmWrite f (s.freg f Reg.HLT_REPORT_BASE.ADDR * 128 + (s.field f).hlt.seq % 2 * 0x8100) (s.stepReportBytes f) false srcRim).1).updField f
          (fun F => { F with hlt := { F.hlt with seq := (F.hlt.seq + 1) % 2 ^ 32 } })
      else (if !on then s
        else if hbmTop < s.freg f Reg.HLT_REPORT_BASE.ADDR * 128 + 0x10200 then s.raise f Ev.HLT_REPORT_LOST [(1, f), (4, (s.field f).hlt.seq)]
        else (s.hbmWrite f (s.freg f Reg.HLT_REPORT_BASE.ADDR * 128 + (s.field f).hlt.seq % 2 * 0x8100) (s.stepReportBytes f) false srcRim).1))
      f).markDid f 11) := by
  subst hon
  exact (State.inRim_of_ne hd).trans (if_neg (State.markTurn_of_head ht))

/-- A mark done is no part of the registers. -/
theorem State.markDid_freg (s : State) (f : FieldId) (n : Nat) (k : RegField) : (s.markDid f n).freg f k = s.freg f k :=
  State.freg_updField_same _ _ _ _ _ _ _ (fun _ => rfl)

theorem State.markDid_todo (s : State) (f : FieldId) (n : Nat) :
    ((s.markDid f n).tly f).todo = (s.tly f).todo.filter (fun x => x ≠ n) := by
  rw [State.tly, State.markDid, State.field_updField]
  rfl

theorem State.tly_fset (s : State) (f : FieldId) (k : RegField) (v : Nat) : (s.fset f k v).tly f = s.tly f := by
  rw [State.tly, State.fset, State.field_updField]
  rfl

/-- The table of drifts is no part of the registers. -/
theorem State.freg_driftCleared (s : State) (f : FieldId) (d : DriftTable) (k : RegField) :
    (s.updField f (fun F => { F with drift := d })).freg f k = s.freg f k :=
  State.freg_updField_same _ _ _ _ _ _ _ (fun _ => rfl)

/-- Where the report goes, SEQ and the table are left alone. -/
theorem driftReport_seq (s : State) (f : FieldId) : (if s.freg f Reg.FLD_DRIFT_BASE.WRITE = 0 then s
      else if hbmTop < s.freg f Reg.FLD_DRIFT_BASE.ADDR * 128 + 0x42000 then s.raise f Ev.FLD_DRIFT_REPORT_LOST []
      else (s.hbmWrite f (s.freg f Reg.FLD_DRIFT_BASE.ADDR * 128 + s.freg f Reg.FLD_DRIFT_STATUS.SEQ % 2 * 0x21000)
        (s.driftReportBytes f) false srcRim).1).freg f Reg.FLD_DRIFT_STATUS.SEQ = s.freg f Reg.FLD_DRIFT_STATUS.SEQ := by
  split
  · rfl
  · split
    · rfl
    · exact (State.hbmWrite_only (F := fun _ => True) (P := fun _ => True) s f _ _ _ _ (Fits.refl _) trivial (.refl _ _ _ s)).freg
        Reg.FLD_DRIFT_STATUS.SEQ (by decide +kernel) f 0 0

/-! ### The statement -/

/-- Settles O36: each command by its branches; the registers a mark leaves by the rules for a register written. -/
theorem markCommandsComplete : Obligations.MarkCommandsComplete := by
  refine ⟨?_, ?_, ?_, ?_, ?_, ?_, ?_, ?_, ?_, ?_, ?_, ?_, ?_, ?_, ?_, ?_, ?_, ?_, ?_, ?_, ?_, ?_⟩
  case _ =>
    intro s f v hd h
    have hfree : ¬ (s.markArmed f = true ∧ trunc 64 v < (s.tly f).tInt + 100000) := by
      rintro ⟨harm, hlt⟩
      rcases h with h | h
      · exact absurd (h.symm.trans harm) Bool.false_ne_true
      · exact absurd hlt (Nat.not_lt.mpr h)
    refine Leaves.next ((State.inRim_of_ne hd).trans (congrArg Host.Outcome.next (if_neg hfree))) ⟨?_, ?_⟩
    · rw [State.freg_fset_other _ _ _ _ _ _ _ _ _ _ (by decide), State.freg_fset]
      rfl
    · rw [State.freg_fset]
      rfl
  case _ =>
    intro s f v hd harm hlt
    exact Leaves.next ((State.inRim_of_ne hd).trans (congrArg Host.Outcome.next (if_pos ⟨harm, hlt⟩))) rfl
  case _ =>
    intro s f a p hd h
    have hfree : ¬ (a && !s.markArmed f && decide (s.freg f Reg.TLY_MARK_NEXT.NEXT < (s.tly f).tInt + 100000)) = true := by
      rw [Bool.and_eq_true, Bool.and_eq_true, Bool.not_eq_true', decide_eq_true_eq]
      rintro ⟨⟨ha, harm⟩, hlt⟩
      rcases h with h | h | h
      · exact absurd (h.symm.trans ha) Bool.false_ne_true
      · exact absurd (harm.symm.trans h) Bool.false_ne_true
      · exact absurd hlt (Nat.not_lt.mpr h)
    refine Leaves.next ((State.inRim_of_ne hd).trans (congrArg Host.Outcome.next (if_neg hfree))) ⟨?_, ?_, ?_⟩
    · rw [State.freg_fset_other _ _ _ _ _ _ _ _ _ _ (by decide), State.freg_fset_other _ _ _ _ _ _ _ _ _ _ (by decide), State.freg_fset]
      cases a <;> rfl
    · rw [State.freg_fset_other _ _ _ _ _ _ _ _ _ _ (by decide), State.freg_fset]
      have hwidth : Reg.TLY_MARK_CTL.PERIOD.width = 40 := rfl
      have hsmall := Nat.mod_lt p (Nat.two_pow_pos 40)
      rw [hwidth]
      refine Nat.mod_eq_of_lt ?_
      rw [markPeriod, trunc]
      split
      · omega
      · omega
    · rw [State.freg_fset]
      rfl
  case _ =>
    intro s f p hd harm hlt
    exact Leaves.next ((State.inRim_of_ne hd).trans (congrArg Host.Outcome.next
      (if_pos (by rw [harm, decide_eq_true hlt]; rfl)))) rfl
  case _ =>
    intro s f w hd
    exact Leaves.next (State.inRim_of_dark hd) rfl
  case _ =>
    intro s f hup harm hdue htodo
    refine Leaves.finish (if_neg ?_) rfl
    rw [hup, harm, htodo, decide_eq_false (Nat.not_lt.mpr hdue)]
    exact Bool.false_ne_true
  case _ =>
    intro s f h
    refine Leaves.next (if_pos ?_) rfl
    rcases h with h | h | h | h
    · rw [h]; rfl
    · rw [h, Bool.not_false, Bool.or_true]; rfl
    · rw [decide_eq_true h, Bool.or_true]; rfl
    · rw [List.isEmpty_eq_false_iff.mpr h, Bool.not_false, Bool.or_true]
  case _ =>
    intro s f hup harm hdue htodo
    refine Leaves.finish (if_neg ?_) rfl
    rw [hup, harm, hdue, htodo]
    exact Bool.false_ne_true
  case _ =>
    intro s f h
    refine Leaves.next (if_pos ?_) rfl
    rcases h with h | h | h | h
    · rw [h]; rfl
    · rw [h, Bool.or_true]; rfl
    · rw [h, Bool.not_false, Bool.or_true]; rfl
    · rw [List.isEmpty_eq_false_iff.mpr h, Bool.not_false, Bool.or_true]
  case _ =>
    intro s f hd ht hw hfit
    have hexec := execDriftReportWrite_of_turn hd ht
    rw [if_neg hw, if_neg (Nat.not_lt.mpr hfit)] at hexec
    exact Leaves.finish hexec rfl
  case _ =>
    intro s f hd ht hw hlost
    have hexec := execDriftReportWrite_of_turn hd ht
    rw [if_neg hw, if_pos hlost] at hexec
    exact Leaves.finish hexec rfl
  case _ =>
    intro s f hd ht hw
    have hexec := execDriftReportWrite_of_turn hd ht
    rw [if_pos hw] at hexec
    exact Leaves.finish hexec rfl
  case _ =>
    intro s f hd ht
    refine Leaves.finish (execDriftReportWrite_of_turn hd ht) ⟨?_, ?_⟩
    · rw [State.markDid_freg, State.freg_fwrap, State.freg_driftCleared, driftReport_seq]
      rfl
    · simp only [State.markDid, State.fwrap, State.fset, State.field_updField]
      rfl
  case _ =>
    intro s f hd ht hw hl hfit
    have hexec := execStepTimingReportWrite_of_turn (on := true) hd ht (by rw [hw, hl]; rfl)
    rw [if_pos rfl, Bool.not_true, if_neg Bool.false_ne_true, if_neg (Nat.not_lt.mpr hfit)] at hexec
    exact Leaves.finish hexec rfl
  case _ =>
    intro s f hd ht hw hl hlost
    have hexec := execStepTimingReportWrite_of_turn (on := true) hd ht (by rw [hw, hl]; rfl)
    rw [if_pos rfl, Bool.not_true, if_neg Bool.false_ne_true, if_pos hlost] at hexec
    exact Leaves.finish hexec rfl
  case _ =>
    intro s f hd ht h
    have hoff : false = (decide (s.freg f Reg.HLT_REPORT_BASE.WRITE = 1) && !(s.field f).hubLost) := by
      rcases h with h | h
      · rw [decide_eq_false h, Bool.false_and]
      · rw [h, Bool.not_true, Bool.and_false]
    have hexec := execStepTimingReportWrite_of_turn hd ht hoff
    rw [if_neg Bool.false_ne_true, Bool.not_false, if_pos rfl] at hexec
    exact Leaves.finish hexec rfl
  case _ =>
    intro s f hd ht
    exact Leaves.finish ((State.inRim_of_ne hd).trans (if_neg (State.markTurn_of_head ht))) rfl
  case _ =>
    intro s f hd ht
    refine Leaves.finish ((State.inRim_of_ne hd).trans (if_neg (not_not.mpr ht))) ⟨?_, ?_, ?_⟩
    · rw [State.raise_freg, State.markDid_freg, State.freg_fset_other _ _ _ _ _ _ _ _ _ _ (by decide), State.freg_fset]
      rfl
    · rw [State.raise_freg, State.markDid_freg, State.freg_fset]
      exact Nat.mod_eq_of_lt (Nat.lt_of_le_of_lt (Nat.min_le_left _ _) (by decide))
    · show ((((s.fset f Reg.TLY_MARK_STAT.DONE 1).fset f Reg.TLY_MARK_STAT.DONE_NS _).markDid f 14).tly f).todo = []
      rw [State.markDid_todo, State.tly_fset, State.tly_fset, ht]
      rfl
  case _ =>
    intro s f h
    exact leaves_markTurn h
  case _ =>
    intro s f h
    exact leaves_markTurn h
  case _ =>
    intro s f h
    exact leaves_markTurn h
  case _ =>
    intro s f h
    by_cases hd : s.svc f = svcDark
    · exact Leaves.next (State.inRim_of_dark hd) rfl
    · exact Leaves.next ((State.inRim_of_ne hd).trans (if_pos (h.resolve_left hd))) rfl

end Sys2Proof.Machine
end


section
/-! Support: what the operations of a port leave of the port. A flit slot, a group, a message or an event leaves a port but for
what the replay layer, arbitration and the code hold; a change of the link's state leaves its lanes. -/

namespace Sys2Proof.Machine

set_option Elab.async false

open Sys2Proof

variable (s : State) (f : FieldId) (n : PortId)

/-! ### A port that nothing writes -/

theorem State.port_updField_same (h : FieldId) (g : Field → Field) (hg : ∀ F, (g F).ports = F.ports) :
    (s.updField h g).port f n = s.port f n := by
  rw [State.port, State.field_updField_if]
  split
  · subst_vars
    rw [Field.port, hg]
    rfl
  · rfl

@[simp] theorem State.port_raise (h : FieldId) (e : EvKind) (l : List (Nat × Nat)) (b : Bool) :
    (s.raise h e l b).port f n = s.port f n := rfl

@[simp] theorem State.port_emit (o : Output) : (s.emit o).port f n = s.port f n := rfl

@[simp] theorem State.port_fcount (h : FieldId) (k : RegField) (d m j : Nat) : (s.fcount h k d m j).port f n = s.port f n :=
  State.port_fset _ _ _ _ _ _ _ _

@[simp] theorem State.port_fwrap (h : FieldId) (k : RegField) (d m j : Nat) : (s.fwrap h k d m j).port f n = s.port f n :=
  State.port_fset _ _ _ _ _ _ _ _

@[simp] theorem State.port_updRouter (h : FieldId) (g : RouterUnit → RouterUnit) : (s.updRouter h g).port f n = s.port f n :=
  State.port_updField_same _ _ _ _ _ (fun _ => rfl)

@[simp] theorem State.port_congCount (h : FieldId) (l v i d : Nat) : (s.congCount h l v i d).port f n = s.port f n :=
  State.port_updField_same _ _ _ _ _ (fun _ => rfl)

@[simp] theorem State.port_injFire (h : FieldId) (p : Nat) : (s.injFire h p).port f n = s.port f n := by
  simp only [State.injFire, State.port_fset]

@[simp] theorem State.port_raiseLimited (h : FieldId) (key : Nat) (e : EvKind) (l : List (Nat × Nat)) (b : Bool) :
    (s.raiseLimited h key e l b).port f n = s.port f n := by
  rw [State.raiseLimited]
  split
  · rfl
  · rw [State.port_raise]
    exact State.port_updField_same _ _ _ _ _ (fun _ => rfl)

@[simp] theorem State.port_protoErr (kind : Nat) : (s.protoErr f n kind).port f n = s.port f n := by
  rw [State.protoErr, State.port_raiseLimited, State.port_fcount]

@[simp] theorem State.port_setTx (d : LaneTx) : (s.setTx f n d).port f n = { s.port f n with tx := d } :=
  State.port_updPort _ _ _ _

@[simp] theorem State.port_setRx (d : LaneRx) : (s.setRx f n d).port f n = { s.port f n with rx := d } :=
  State.port_updPort _ _ _ _

/-! ### Flit slots and groups -/

/-- A port but for what flits and groups leave: the replay layer, credits freed, arbitration, its stream and what waits to be
sent. -/
def Port.still (P : Port) : Port :=
  { P with
    seq := 0, held := [], resend := none, nakDue := false, freeing := [], freed := [], reported := [], waited := [],
    code := CodeTx.init [] 0, arb := Arb.reset, txq := [] }

theorem Port.still_code (P : Port) (T : CodeTx) : ({ P with code := T } : Port).still = P.still := rfl

theorem State.still_updPort {s : State} {f : FieldId} {n : PortId} {g : Port → Port} (hg : ∀ P, (g P).still = P.still) :
    ((s.updPort f n g).port f n).still = (s.port f n).still := by
  rw [State.port_updPort, hg]

theorem State.port_combEnter {t : State} {egress vc : Nat} {p : Packet} (h : s.combEnter f egress vc p = some t) :
    t.port f n = s.port f n := by
  unfold State.combEnter at h
  dsimp only at h
  split at h
  · obtain rfl := Option.some.inj h
    refine Eq.trans (foldl_same (fun t : State => t.port f n) _ _ ?_ _) ?_
    · intro t a _
      rfl
    · rw [State.port_fwrap, State.port_updRouter]
  · split at h
    · exact absurd h (by simp)
    · obtain rfl := Option.some.inj h
      simp only [State.port_fset, State.port_updRouter]

theorem State.port_combWaiting (egress vc : Nat) (q : List TxPacket) : (s.combWaiting f egress vc q).1.port f n = s.port f n := by
  induction q generalizing s with
  | nil => rfl
  | cons x xs ih =>
    rw [State.combWaiting]
    dsimp only
    split
    · rename_i t ht
      rw [ih]
      split at ht
      · exact absurd ht (by simp)
      · obtain ⟨y, _, hy⟩ := Option.bind_eq_some_iff.mp ht
        split at hy
        · exact State.port_combEnter _ _ _ hy
        · exact absurd hy (by simp)
    · exact ih s

theorem State.still_portStall (v : Nat) : ((s.portStall f n v).port f n).still = (s.port f n).still := by
  rw [State.portStall]
  split
  · rw [State.port_congCount, State.port_updPort, State.port_combWaiting]
    rfl
  · rfl

theorem State.still_slotGain : ((s.slotGain f n).port f n).still = (s.port f n).still := by
  rw [State.slotGain]
  dsimp only
  refine (foldl_same (fun t : State => (t.port f n).still) _ _ (fun t v _ => State.still_portStall t f n v) _).trans ?_
  rw [State.port_updPort]
  rfl

theorem State.still_flitMake (ty : Nat) (x : Flit) (b : Bool) :
    ((s.flitMake f n ty x b).1.port f n).still = (s.port f n).still := by
  rw [State.flitMake]
  dsimp only
  rw [State.port_emit]
  exact State.still_updPort (fun _ => rfl)

theorem State.port_crcPoint : (s.crcPoint f n).1.port f n = s.port f n := by
  rw [State.crcPoint]
  split
  · exact State.port_injFire _ _ _ _ _
  · rfl

theorem State.still_flitReplay (h : HeldFlit) : ((s.flitReplay f n h).1.port f n).still = (s.port f n).still := by
  rw [State.flitReplay]
  dsimp only
  rw [State.still_flitMake, State.port_fwrap, State.port_crcPoint]
  exact State.still_updPort (fun _ => rfl)

theorem State.port_beaconsSent (link : Nat) (q r : List TxPacket) : (s.beaconsSent f link q r).port f n = s.port f n := by
  rw [State.beaconsSent]
  split
  · rfl
  · exact State.port_updField_same _ _ _ _ _ (fun _ => rfl)

theorem State.still_flitNew (v : Nat) : ((s.flitNew f n v).1.port f n).still = (s.port f n).still := by
  rw [State.flitNew]
  dsimp only
  rw [State.still_flitMake, State.port_crcPoint, State.port_beaconsSent, State.port_congCount, State.port_fwrap]
  refine Eq.trans (State.still_updPort ?_) ?_
  · intro P
    rfl
  · split
    · rw [State.port_fset]
    · rw [State.port_fset]

theorem State.still_idleFlit : ((s.idleFlit f n).1.port f n).still = (s.port f n).still := State.still_flitMake _ _ _ _ _ _

theorem State.still_flitOf : ((s.flitOf f n).1.port f n).still = (s.port f n).still := by
  have hresend : ((s.updPort f n (fun P => { P with resend := none })).port f n).still = (s.port f n).still :=
    State.still_updPort (fun _ => rfl)
  rw [State.flitOf]
  dsimp only
  split
  · rw [State.still_flitMake, State.port_fcount]
    exact State.still_updPort (fun _ => rfl)
  · split
    · split
      · exact State.still_idleFlit _ _ _
      · exact State.still_flitReplay _ _ _ _
    · split
      · exact (State.still_idleFlit _ _ _).trans hresend
      · split
        · rw [State.still_flitNew]
          exact Eq.trans (State.still_updPort (fun _ => rfl)) hresend
        · rw [State.still_idleFlit]
          exact Eq.trans (State.still_updPort (fun _ => rfl)) hresend

theorem State.still_slots (k : Nat) : ((s.slots f n k).1.port f n).still = (s.port f n).still := by
  induction k generalizing s with
  | zero => rfl
  | succ k ih =>
    rw [State.slots]
    dsimp only
    rw [ih, State.still_flitOf, State.still_slotGain]

@[simp] theorem State.still_groupOut (a b : Bool) : ((s.groupOut f n a b).port f n).still = (s.port f n).still := by
  rw [State.groupOut]
  split
  · rfl
  · rw [State.port_emit]
    exact Eq.trans (State.still_updPort (fun _ => rfl)) (State.still_slots _ _ _ _)

theorem State.still_streamFlit (bs : List Byte) : ((s.streamFlit f n bs).port f n).still = (s.port f n).still := by
  rw [State.streamFlit]
  dsimp only
  split
  · rw [State.still_groupOut]
    exact State.still_updPort (fun _ => rfl)
  · exact State.still_updPort (fun _ => rfl)

theorem State.still_flitsCut : ((s.flitsCut f n).port f n).still = (s.port f n).still := by
  rw [State.flitsCut]
  refine Eq.trans (State.still_updPort (fun _ => rfl)) ?_
  split
  · exact State.still_groupOut _ _ _ _ _
  · rfl

theorem State.still_flitsEnd : ((s.flitsEnd f n).port f n).still = (s.port f n).still := by
  rw [State.flitsEnd]
  split
  · rfl
  · exact State.still_flitsCut _ _ _

/-- Some groups in a row. -/
theorem State.still_groups (k : Nat) :
    (((List.range k).foldl (fun (t : State) _ => t.groupOut f n false false) s).port f n).still = (s.port f n).still :=
  foldl_same (fun t : State => (t.port f n).still) _ _ (fun t _ _ => State.still_groupOut t f n _ _) _

/-! ### Messages -/

theorem State.still_laneOut (m : Nat × Nat) : ((s.laneOut f n m).port f n).still = (s.port f n).still := by
  rw [State.laneOut]
  split
  · exact Eq.trans (State.still_updPort (fun _ => rfl)) (State.still_groupOut _ _ _ _ _)
  · split
    · rfl
    · dsimp only
      split
      · exact State.still_updPort (fun _ => rfl)
      · exact Eq.trans (State.still_groups _ _ _ _) (State.still_updPort (fun _ => rfl))

theorem State.still_idleFor (ns : Nat) : ((s.idleFor f n ns).port f n).still = (s.port f n).still := by
  rw [State.idleFor, State.port_emit]
  exact Eq.trans (State.still_updPort (fun P => Port.still_code P _)) (State.still_groups _ _ _ _)

/-- A message of a transmitter that is not silent leaves at once. -/
theorem State.still_laneSend_of_loud (ty arg : Nat) (h : (s.port f n).stop.silent = false) :
    ((s.laneSend f n ty arg).port f n).still = (s.port f n).still := by
  rw [State.laneSend, if_neg (by rw [h]; exact Bool.false_ne_true)]
  exact State.still_laneOut _ _ _ _

/-- A port but for what flits, groups and messages leave. -/
def Port.mute (P : Port) : Port := { P.still with waiting := [] }

theorem State.mute_updPort {s : State} {f : FieldId} {n : PortId} {g : Port → Port} (hg : ∀ P, (g P).mute = P.mute) :
    ((s.updPort f n g).port f n).mute = (s.port f n).mute := by
  rw [State.port_updPort, hg]

theorem Port.mute_of_still {P Q : Port} (h : P.still = Q.still) : P.mute = Q.mute := by
  rw [Port.mute, Port.mute, h]

theorem State.mute_laneSend (ty arg : Nat) : ((s.laneSend f n ty arg).port f n).mute = (s.port f n).mute := by
  rw [State.laneSend]
  split
  · exact State.mute_updPort (fun _ => rfl)
  · exact Port.mute_of_still (State.still_laneOut _ _ _ _)

theorem State.mute_changeSend (ty arg : Nat) : ((s.changeSend f n ty arg).port f n).mute = (s.port f n).mute := by
  rw [State.changeSend]
  split
  · exact State.mute_laneSend _ _ _ _ _
  · rw [State.mute_laneSend, State.mute_laneSend]

theorem State.mute_laneActs (acts : List LaneAct) (b : Bool) : ((s.laneActs f n acts b).port f n).mute = (s.port f n).mute := by
  refine foldl_same (fun t : State => (t.port f n).mute) _ _ (fun t a _ => ?_) s
  cases a with
  | change k w => exact State.mute_changeSend _ _ _ _ _
  | drop k => exact State.mute_changeSend _ _ _ _ _
  | msg ty arg => exact State.mute_laneSend _ _ _ _ _

theorem State.still_laneFlush : ((s.laneFlush f n).port f n).still = { (s.port f n).still with waiting := [] } := by
  rw [State.laneFlush]
  dsimp only
  refine (foldl_same (fun t : State => (t.port f n).still) _ _ (fun t m _ => State.still_laneOut t f n m) _).trans ?_
  rw [State.port_updPort]
  rfl

/-! ### Lanes -/

/-- The lanes of a port, in both directions. -/
def Port.lanes (P : Port) : LaneTx × LaneRx := (P.tx, P.rx)

theorem Port.lanes_of_mute {P Q : Port} (h : P.mute = Q.mute) : P.lanes = Q.lanes := by
  have hl : P.mute.lanes = Q.mute.lanes := by rw [h]
  exact hl

theorem Port.lanes_of_still {P Q : Port} (h : P.still = Q.still) : P.lanes = Q.lanes :=
  Port.lanes_of_mute (Port.mute_of_still h)

theorem State.lanes_updPort {s : State} {f : FieldId} {n : PortId} {g : Port → Port} (hg : ∀ P, (g P).lanes = P.lanes) :
    ((s.updPort f n g).port f n).lanes = (s.port f n).lanes := by
  rw [State.port_updPort, hg]

@[simp] theorem State.lanes_laneSend (ty arg : Nat) : ((s.laneSend f n ty arg).port f n).lanes = (s.port f n).lanes :=
  Port.lanes_of_mute (State.mute_laneSend _ _ _ _ _)

@[simp] theorem State.lanes_laneActs (acts : List LaneAct) (b : Bool) :
    ((s.laneActs f n acts b).port f n).lanes = (s.port f n).lanes := Port.lanes_of_mute (State.mute_laneActs _ _ _ _ _)

theorem State.still_linkSet (new r : Nat) (b : Bool) : ((s.linkSet f n new r b).port f n).still = (s.port f n).still := by
  have hend : ((if s.link f n = lsActive ∧ new ≠ lsActive then s.flitsEnd f n else s).port f n).still = (s.port f n).still := by
    split
    · exact State.still_flitsEnd _ _ _
    · rfl
  rw [State.linkSet]
  split
  · rw [State.port_fset, hend]
  · rw [State.port_raise, State.port_fset, State.port_fset, hend]

@[simp] theorem State.lanes_linkSet (new r : Nat) (b : Bool) : ((s.linkSet f n new r b).port f n).lanes = (s.port f n).lanes :=
  Port.lanes_of_still (State.still_linkSet _ _ _ _ _ _)

theorem State.lanes_linkZero : ((s.linkZero f n).port f n).lanes = (s.port f n).lanes := by
  rw [State.linkZero]
  refine Eq.trans (State.lanes_updPort (fun _ => rfl)) ?_
  rw [State.port_fset]
  exact congrArg Port.lanes (foldl_same (fun t : State => t.port f n) _ _ (fun t _ _ => State.port_fset t _ _ _ _ _ _ _) _)

theorem State.lanes_linkDown (b : Bool) : ((s.linkDown f n b).port f n).lanes = (s.port f n).lanes := by
  have hend : ((if s.link f n = lsActive then s.flitsEnd f n else s).port f n).lanes = (s.port f n).lanes := by
    split
    · exact Port.lanes_of_still (State.still_flitsEnd _ _ _)
    · rfl
  rw [State.linkDown, State.port_raise]
  refine Eq.trans (State.lanes_updPort (fun _ => rfl)) ?_
  split
  · rw [State.port_fset, State.lanes_linkZero, State.port_fcount, hend]
  · rw [State.lanes_linkZero, State.port_fcount, hend]

@[simp] theorem State.lanes_linkRetrain (b : Bool) : ((s.linkRetrain f n b).port f n).lanes = (s.port f n).lanes := by
  have hcount (l : List Nat) : (((s.fcount f Reg.RTE_LINK_CNT.RETRAINS 1 n).updPort f n
      (fun P => { P with retrains := l })).port f n).lanes = (s.port f n).lanes := by
    refine Eq.trans (State.lanes_updPort (fun _ => rfl)) ?_
    rw [State.port_fcount]
  rw [State.linkRetrain]
  split
  · rfl
  · dsimp only
    split
    · rw [State.lanes_linkSet, State.lanes_linkDown, State.port_fset, State.lanes_laneSend, hcount]
    · rw [State.lanes_laneSend]
      refine Eq.trans (State.lanes_updPort (fun _ => rfl)) ?_
      rw [State.lanes_linkSet, hcount]

@[simp] theorem State.lanes_laneCheck (rx : Bool) (before : Nat) (b : Bool) :
    ((s.laneCheck f n rx before b).port f n).lanes = (s.port f n).lanes := by
  have hfew (after : Nat) : ((if 12 ≤ before then s.laneFew f n rx after b else s).port f n).lanes = (s.port f n).lanes := by
    split
    · rw [State.laneFew]
      split
      · rfl
      · rfl
    · rfl
  rw [State.laneCheck]
  generalize (if rx then s.rxLanes f n else s.txLanes f n) = after
  split
  · rw [State.lanes_linkRetrain, hfew]
  · rw [hfew]

@[simp] theorem State.lanes_txModeUpdate : ((s.txModeUpdate f n).port f n).lanes = (s.port f n).lanes := by
  rw [State.txModeUpdate]
  split
  · rfl
  · refine Eq.trans (State.lanes_updPort (fun _ => rfl)) ?_
    rw [State.port_fset, State.port_emit]
    exact Port.lanes_of_mute (State.mute_changeSend _ _ _ _ _)

theorem Port.tx_of_lanes {P Q : Port} (h : P.lanes = Q.lanes) : P.tx = Q.tx := congrArg Prod.fst h

theorem Port.rx_of_lanes {P Q : Port} (h : P.lanes = Q.lanes) : P.rx = Q.rx := congrArg Prod.snd h

/-! ### Bits -/

/-- A bit cleared reads as 0. -/
theorem bit_setBit_false (x i : Nat) : bit (setBit x i false) i = false := by
  have hp := Nat.two_pow_pos i
  simp only [bit, setBit, setBits, bits, b2n, Nat.testBit_eq_decide_div_mod_eq, Nat.shiftLeft_eq, Nat.shiftRight_eq_div_pow,
    Bool.false_eq_true, if_false, decide_eq_false_iff_not, Nat.pow_one, Nat.zero_mod, Nat.zero_mul, Nat.add_zero]
  rw [Nat.mul_comm, Nat.sub_mul_div]
  omega

end Sys2Proof.Machine
end


section
/-! Calibration slots and retries of lanes (R271 to R274, R278, R320, R597). -/

namespace Sys2Proof.Machine

set_option Elab.async false

open Sys2Proof

variable {s : State} {f : FieldId} {n : PortId}

/-! ### Lanes of a transmit direction -/

/-- The lanes of a transmit direction but for the map and the fallow lane. -/
def LaneTx.record (d : LaneTx) : LaneTx := { d with map := [], out := 0, fallow := 0 }

theorem LaneTx.record_put (d : LaneTx) (k : Nat) (w : Option Nat) : (d.put k w).record = d.record := by
  cases w with
  | none => rfl
  | some w => rfl

theorem LaneTx.record_free (d : LaneTx) (w : Nat) : (d.free w).1.record = d.record := by
  rw [LaneTx.free]
  split
  · exact LaneTx.record_put _ _ _
  · rfl

/-- A slot that ends leaves no slot in progress, and the rest of the record. -/
theorem LaneTx.record_abort (d : LaneTx) : d.abort.1.record = { d.record with cal := none } := by
  rw [LaneTx.abort]
  cases hc : d.cal with
  | none =>
    show d.record = _
    rw [LaneTx.record, ← hc]
  | some c =>
    dsimp only
    split
    · rfl
    · split
      · exact LaneTx.record_put _ _ _
      · exact LaneTx.record_free _ _

theorem LaneTx.cal_of_record {d e : LaneTx} (h : d.record = e.record) : d.cal = e.cal := by
  have hc : d.record.cal = e.record.cal := by rw [h]
  exact hc

theorem LaneTx.failed_of_record {d e : LaneTx} (h : d.record = e.record) : d.failed = e.failed := by
  have hc : d.record.failed = e.record.failed := by rw [h]
  exact hc

theorem LaneTx.abort_cal (d : LaneTx) : d.abort.1.cal = none := by
  have h : d.abort.1.record.cal = none := by rw [LaneTx.record_abort]
  exact h

theorem LaneTx.abort_order (d : LaneTx) : d.abort.1.order = d.order := by
  have h : d.abort.1.record.order = d.order := by
    rw [LaneTx.record_abort]
    rfl
  exact h

theorem LaneTx.abort_failed (d : LaneTx) : d.abort.1.failed = d.failed := by
  have h : d.abort.1.record.failed = d.failed := by
    rw [LaneTx.record_abort]
    rfl
  exact h

theorem LaneTx.calFinish_of_some {d : LaneTx} {c : CalSlot} (h : d.cal = some c) :
    d.calFinish = (d.calibrated c.wave).abort := by
  rw [LaneTx.calFinish, h]

theorem LaneTx.calFinish_cal {d : LaneTx} {c : CalSlot} (h : d.cal = some c) : d.calFinish.1.cal = none := by
  rw [LaneTx.calFinish_of_some h, LaneTx.abort_cal]

theorem LaneTx.calFinish_order {d : LaneTx} {c : CalSlot} (h : d.cal = some c) :
    d.calFinish.1.order.getLast? = some c.wave := by
  rw [LaneTx.calFinish_of_some h, LaneTx.abort_order]
  exact List.getLast?_concat

theorem LaneTx.fail_failed (d : LaneTx) (w : Nat) : bit (d.fail w).1.failed w = true := by
  have hset : bit (setBit d.failed w true) w = true := bit_setBit _ _
  have hput (k : Nat) : (LaneTx.put { d with failed := setBit d.failed w true } k none).failed = setBit d.failed w true := rfl
  rw [LaneTx.fail]
  dsimp only
  split
  · split
    · exact hset
    · split
      · split
        · rw [LaneTx.abort_failed, hput]
          exact hset
        · exact hset
      · exact hset
  · split
    · exact hset
    · exact hset

theorem LaneTx.retryFinish_cal (d : LaneTx) (w : Nat) (pass : Bool) : (d.retryFinish w pass).1.cal = none := by
  cases pass with
  | false => rfl
  | true => exact (LaneTx.cal_of_record (LaneTx.record_free _ _)).trans rfl

theorem LaneTx.retryFinish_failed (d : LaneTx) (w : Nat) (pass : Bool) :
    bit (d.retryFinish w pass).1.failed w = (!pass && bit d.failed w) := by
  cases pass with
  | false => rfl
  | true =>
    have h : (d.retryFinish w true).1.failed = setBit d.failed w false :=
      (LaneTx.failed_of_record (LaneTx.record_free _ _)).trans rfl
    rw [h, bit_setBit_false]
    rfl

theorem LaneTx.retryFinish_retries (d : LaneTx) (w : Nat) :
    SMap.get (d.retryFinish w false).1.retries 0 w = SMap.get d.retries 0 w + 1 := by
  have h : (d.retryFinish w false).1.retries = SMap.set d.retries 0 w (SMap.get d.retries 0 w + 1) := rfl
  rw [h, SMap.get_set, if_pos rfl]

/-- The slots in which a direction packs do not change what slot is in progress on which wavelength, nor which have failed. -/
def LaneTx.slots (d : LaneTx) : Option (Nat × Option Nat × Bool) × List Nat × Nat × SMap Nat :=
  (d.cal.map (fun c => (c.wave, c.spare, c.retry)), d.order, d.failed, d.retries)

theorem LaneTx.slots_swap (d : LaneTx) (k j : Nat) : (d.swap k j).slots = d.slots := by
  rw [LaneTx.slots, LaneTx.swap]
  dsimp only
  have hcal : (d.cal.map (fun c => if c.slot = some k then { c with slot := some j } else c)).map
      (fun c => (c.wave, c.spare, c.retry)) = d.cal.map (fun c => (c.wave, c.spare, c.retry)) := by
    cases d.cal with
    | none => rfl
    | some c =>
      simp only [Option.map_some]
      split
      · rfl
      · rfl
  rw [hcal]
  rfl

theorem LaneTx.slots_pack (d : LaneTx) : d.pack.slots = d.slots := by
  have hstep (d : LaneTx) (k : Nat) : (if bit d.out k then
      match [4, 5, 6, 7].find? (fun j => !bit d.out j) with
      | some j => d.swap k j
      | none => d
    else d).slots = d.slots := by
    split
    · split
      · exact LaneTx.slots_swap _ _ _
      · rfl
    · rfl
  have hfold (l : List Nat) (d : LaneTx) : (l.foldl (fun (d : LaneTx) k => if bit d.out k then
      match [4, 5, 6, 7].find? (fun j => !bit d.out j) with
      | some j => d.swap k j
      | none => d
    else d) d).slots = d.slots := by
    induction l generalizing d with
    | nil => rfl
    | cons k l ih => rw [List.foldl_cons, ih, hstep]
  exact hfold _ d

theorem LaneTx.cal_none_of_slots {d e : LaneTx} (h : d.slots = e.slots) (he : e.cal = none) : d.cal = none := by
  have hc : d.cal.map (fun c => (c.wave, c.spare, c.retry)) = e.cal.map (fun c => (c.wave, c.spare, c.retry)) :=
    congrArg Prod.fst h
  rw [he] at hc
  exact Option.map_eq_none_iff.mp hc

theorem LaneTx.order_of_slots {d e : LaneTx} (h : d.slots = e.slots) : d.order = e.order :=
  congrArg (fun x => x.2.1) h

theorem LaneTx.failed_of_slots {d e : LaneTx} (h : d.slots = e.slots) : d.failed = e.failed :=
  congrArg (fun x => x.2.2.1) h

/-! ### The host port -/

theorem State.hub_setHostTx (d : LaneTx) : (s.setHostTx d).hub = { s.hub with hostTx := d } := rfl

theorem State.hostTx_hostSet (new : Nat) (b : Bool) : (s.hostSet new b).hub.hostTx = s.hub.hostTx := by
  have h0 : (if new = hpDown ∨ new = hpDark then s.updHub (fun H => { H with host := { H.host with held := [] } }) else s).hub.hostTx =
      s.hub.hostTx := by
    split
    · rfl
    · rfl
  rw [State.hostSet]
  dsimp only
  split
  · rw [State.hset_hub_hostTx, h0]
  · rw [State.raiseHub_hub, State.hset_hub_hostTx, State.hset_hub_hostTx, h0]

theorem State.hostTx_hostRecover (b : Bool) : (s.hostRecover b).hub.hostTx = s.hub.hostTx := by
  rw [State.hostRecover]
  split
  · split
    · exact State.hostTx_hostSet _ _
    · rw [State.hostTx_hostSet]
      exact State.hset_hub_hostTx _ _ _ _ _
  · split
    · exact State.hostTx_hostSet _ _
    · rfl

theorem State.hostTx_hostReturn : s.hostReturn.hub.hostTx = s.hub.hostTx := by
  rw [State.hostReturn]
  split
  · exact State.hostTx_hostSet _ _
  · rfl

/-- The lanes of the host port after a decision: as they were, or packed (R597). -/
theorem State.hostTx_hostActs (acts : List LaneAct) (b : Bool) :
    (s.hostActs acts b).hub.hostTx = s.hub.hostTx ∨ (s.hostActs acts b).hub.hostTx = s.hub.hostTx.pack := by
  rw [State.hostActs]
  split
  · right
    have h : (((s.setHostTx s.hub.hostTx.pack).hostRecover b).hostReturn).hub.hostTx = s.hub.hostTx.pack := by
      rw [State.hostTx_hostReturn, State.hostTx_hostRecover]
      rfl
    dsimp only
    split
    · exact h
    · exact h
  · exact .inl rfl

theorem State.slots_hostActs (acts : List LaneAct) (b : Bool) : (s.hostActs acts b).hub.hostTx.slots = s.hub.hostTx.slots := by
  rcases State.hostTx_hostActs (s := s) acts b with h | h
  · rw [h]
  · rw [h, LaneTx.slots_pack]

/-! ### Ports -/

theorem State.inPort_of_dark {s : State} {f : FieldId} (n : PortId) {r : Result} (hd : s.svc f = svcDark) : s.inPort (some (f, n)) r = .next s :=
  State.inRim_of_dark hd

theorem State.inPort_of_ne {s : State} {f : FieldId} (n : PortId) {r : Result} (hd : s.svc f ≠ svcDark) : s.inPort (some (f, n)) r = r :=
  State.inRim_of_ne hd

end Sys2Proof.Machine
end


section
/-! The calibration commands of ports and of the host port (R271 to R274, R278, R320, R597). -/

namespace Sys2Proof.Machine

set_option Elab.async false

open Sys2Proof

variable {s : State} {f : FieldId} {n : PortId}

/-! ### What the engine counts -/

theorem State.laneActs_slots (acts : List LaneAct) :
    (s.laneActs f n acts).freg f Reg.HDL_CAL_STAT.SLOTS = s.freg f Reg.HDL_CAL_STAT.SLOTS :=
  (State.laneActs_only (F := fun _ => True) (P := fun _ => True) s f n acts false (Fits.refl _) trivial (.refl _ _ _ s)).freg
    Reg.HDL_CAL_STAT.SLOTS (by decide +kernel) f 0 0

theorem State.laneActs_degraded (acts : List LaneAct) :
    (s.laneActs f n acts).freg f Reg.HDL_CAL_STAT.DEGRADED = s.freg f Reg.HDL_CAL_STAT.DEGRADED :=
  (State.laneActs_only (F := fun _ => True) (P := fun _ => True) s f n acts false (Fits.refl _) trivial (.refl _ _ _ s)).freg
    Reg.HDL_CAL_STAT.DEGRADED (by decide +kernel) f 0 0

theorem State.laneCheck_degraded (rx : Bool) (before : Nat) :
    (s.laneCheck f n rx before).freg f Reg.HDL_CAL_STAT.DEGRADED = s.freg f Reg.HDL_CAL_STAT.DEGRADED :=
  (State.laneCheck_only (F := fun _ => True) (P := fun _ => True) s f n rx before false (Fits.refl _) trivial (.refl _ _ _ s)).freg
    Reg.HDL_CAL_STAT.DEGRADED (by decide +kernel) f 0 0

theorem State.txModeUpdate_slots :
    (s.txModeUpdate f n).freg f Reg.HDL_CAL_STAT.SLOTS = s.freg f Reg.HDL_CAL_STAT.SLOTS :=
  (State.txModeUpdate_only (F := fun _ => True) (P := fun _ => True) s f n (Fits.refl _) trivial (.refl _ _ _ s)).freg
    Reg.HDL_CAL_STAT.SLOTS (by decide +kernel) f 0 0

/-! ### A slot, a retry and a failure of a port -/

theorem State.calDone_of_slot {c : CalSlot} (h : (s.port f n).tx.cal = some c) (hr : c.retry = false) :
    s.calDone f n = (((s.setTx f n (s.port f n).tx.calFinish.1).fwrap f Reg.HDL_CAL_STAT.SLOTS).laneActs f n
      (s.port f n).tx.calFinish.2).txModeUpdate f n := by
  rw [State.calDone, h]
  exact if_neg (by rw [hr]; exact Bool.false_ne_true)

theorem State.calDone_of_none (h : (s.port f n).tx.cal.all CalSlot.retry = true) : s.calDone f n = s := by
  rw [State.calDone]
  split
  · rfl
  · rename_i c hc
    rw [hc] at h
    exact if_pos h

theorem State.tx_calDone {c : CalSlot} (h : (s.port f n).tx.cal = some c) (hr : c.retry = false) :
    ((s.calDone f n).port f n).tx = (s.port f n).tx.calFinish.1 := by
  have hl : ((s.calDone f n).port f n).lanes = ((s.setTx f n (s.port f n).tx.calFinish.1).port f n).lanes := by
    rw [State.calDone_of_slot h hr, State.lanes_txModeUpdate, State.lanes_laneActs, State.port_fwrap]
  rw [Port.tx_of_lanes hl, State.port_setTx]

theorem State.slots_calDone {c : CalSlot} (h : (s.port f n).tx.cal = some c) (hr : c.retry = false) :
    (s.calDone f n).freg f Reg.HDL_CAL_STAT.SLOTS = (s.freg f Reg.HDL_CAL_STAT.SLOTS + 1) % 2 ^ 32 := by
  rw [State.calDone_of_slot h hr, State.txModeUpdate_slots, State.laneActs_slots, State.freg_fwrap, State.setTx, State.freg_updPort]
  rfl

/-- The end of a retry, as its restoring is counted and its lanes are told. -/
theorem State.retryDone_eq (w : Nat) (pass : Bool) : s.retryDone f n w pass =
    ((if pass then ((s.setTx f n ((s.port f n).tx.retryFinish w pass).1).fwrap f Reg.HDL_CAL_STAT.SLOTS).raise f Ev.HDL_LANE_RESTORED
        [(1, portNo f n), (1, 0), (1, w)]
      else s.setTx f n ((s.port f n).tx.retryFinish w pass).1).laneActs f n ((s.port f n).tx.retryFinish w pass).2).txModeUpdate f n :=
  rfl

theorem State.tx_retryDone (w : Nat) (pass : Bool) :
    ((s.retryDone f n w pass).port f n).tx = ((s.port f n).tx.retryFinish w pass).1 := by
  have hl : ((s.retryDone f n w pass).port f n).lanes = ((s.setTx f n ((s.port f n).tx.retryFinish w pass).1).port f n).lanes := by
    rw [State.retryDone_eq, State.lanes_txModeUpdate, State.lanes_laneActs]
    cases pass with
    | false => rfl
    | true => rw [if_pos rfl, State.port_raise, State.port_fwrap]
  rw [Port.tx_of_lanes hl, State.port_setTx]

theorem State.slots_retryDone (w : Nat) (pass : Bool) : (s.retryDone f n w pass).freg f Reg.HDL_CAL_STAT.SLOTS =
    if pass then (s.freg f Reg.HDL_CAL_STAT.SLOTS + 1) % 2 ^ 32 else s.freg f Reg.HDL_CAL_STAT.SLOTS := by
  have hwidth : Reg.HDL_CAL_STAT.SLOTS.width = 32 := rfl
  rw [State.retryDone_eq, State.txModeUpdate_slots, State.laneActs_slots]
  split
  · rw [State.raise_freg, State.freg_fwrap, State.setTx, State.freg_updPort, hwidth]
  · rw [State.setTx, State.freg_updPort]

@[simp] theorem State.port_laneInjected (rx : Bool) (w : Nat) (b : Bool) : (s.laneInjected f n rx w b).port f n = s.port f n :=
  State.port_updField_same _ _ _ _ _ (fun _ => rfl)

@[simp] theorem State.port_ringLost (w : Nat) : (s.ringLost f n w).port f n = s.port f n :=
  State.port_updField_same _ _ _ _ _ (fun _ => rfl)

/-- A wavelength that fails at the transmitter has failed. -/
theorem State.failed_txFail (w r : Nat) (b : Bool) : bit ((s.txFail f n w r b).port f n).tx.failed w = true := by
  rw [State.txFail]
  split
  · assumption
  · dsimp only
    have hring (t : State) : ((if r = 0 then t.ringLost f n w else t.updField f (fun F => { F with
        hlt := { F.hlt with ringEnv := SMap.erase F.hlt.ringEnv (16 * n.val + w) } })).port f n) = t.port f n := by
      split
      · exact State.port_ringLost _
      · exact State.port_updField_same _ _ _ _ _ (fun _ => rfl)
    have hcount (t : State) (c : Bool) : ((if c then t.fcount f Reg.HDL_CAL_STAT.ABORTED else t).port f n) = t.port f n := by
      split
      · exact State.port_fcount _ _ _ _ _ _ _ _
      · rfl
    have hl : ∀ P Q : Port, P.lanes = Q.lanes → Q.tx = ((s.port f n).tx.fail w).1 → bit P.tx.failed w = true := by
      intro P Q h hq
      rw [Port.tx_of_lanes h, hq]
      exact LaneTx.fail_failed _ _
    refine hl _ ((s.setTx f n ((s.port f n).tx.fail w).1).port f n) ?_ (by rw [State.port_setTx])
    rw [State.lanes_txModeUpdate, State.lanes_laneCheck, State.lanes_laneActs, hring, hcount, State.port_laneInjected,
      State.port_raise]

theorem State.calFailed_of_slot {c : CalSlot} (h : (s.port f n).tx.cal = some c) (hr : c.retry = false) :
    s.calFailed f n = s.txFail f n c.wave 2 := by
  rw [State.calFailed, h]
  exact if_neg (by rw [hr]; exact Bool.false_ne_true)

theorem State.calFailed_of_retry {c : CalSlot} (h : (s.port f n).tx.cal = some c) (hr : c.retry = true) :
    s.calFailed f n = s.retryDone f n c.wave false := by
  rw [State.calFailed, h]
  exact if_pos hr

theorem State.calFailed_of_none (h : (s.port f n).tx.cal = none) : s.calFailed f n = s := by
  rw [State.calFailed, h]

/-! ### The start of a slot -/

/-- The wavelength in service calibrated longest ago (R271). -/
def LaneTx.nextCal (d : LaneTx) : Option Nat := d.order.find? (fun w => (d.slotOf w).isSome && !bit d.failed w)

theorem LaneTx.slotOf_lt {d : LaneTx} {w k : Nat} (h : d.slotOf w = some k) : k < d.map.length :=
  List.mem_range.mp (List.mem_of_find?_eq_some h)

theorem LaneTx.calStart_of_none {d : LaneTx} (h : d.nextCal = none) : d.calStart = none := by
  rw [LaneTx.nextCal] at h
  rw [LaneTx.calStart, h]

/-- The lanes that count one more slot started. -/
def LaneTx.begun (d : LaneTx) : LaneTx :=
  { d with run := (d.run + 1) % 16, degr := if d.run = 0 then false else d.degr, sinceRetry := d.sinceRetry + 1 }

theorem LaneTx.calStart_of_spare {d : LaneTx} {w k x : Nat} (h : d.nextCal = some w) (hk : d.slotOf w = some k)
    (hx : d.spare = some x) : d.calStart =
      some ({ d.begun.put k (some x) with cal := some ⟨w, some k, some x, false⟩ }, [.change k x, .msg lmCal w], w, false, false) := by
  rw [LaneTx.nextCal] at h
  rw [LaneTx.calStart, h]
  dsimp only
  rw [hk, hx]
  rfl

theorem LaneTx.calStart_of_full {d : LaneTx} {w k : Nat} (h : d.nextCal = some w) (hk : d.slotOf w = some k)
    (hx : d.spare = none) : d.calStart =
      some ({ d.begun.put k none with cal := some ⟨w, some k, none, false⟩, degr := true }, [.drop k, .msg lmCal w], w, true,
        !(if d.run = 0 then false else d.degr)) := by
  rw [LaneTx.nextCal] at h
  rw [LaneTx.calStart, h]
  dsimp only
  rw [hk, hx]
  rfl

theorem State.lanes_calSlotStart (d : LaneTx) (acts : List LaneAct) (before : Nat) :
    ((((s.setTx f n d).laneActs f n acts).laneCheck f n false before).port f n).tx = d := by
  have hl : ((((s.setTx f n d).laneActs f n acts).laneCheck f n false before).port f n).lanes = ((s.setTx f n d).port f n).lanes := by
    rw [State.lanes_laneCheck, State.lanes_laneActs]
  rw [Port.tx_of_lanes hl, State.port_setTx]

/-- The start of a slot without a spare wavelength. -/
def State.degradedStart (s : State) (f : FieldId) (n : PortId) (d : LaneTx) (acts : List LaneAct) (w : Nat) (first : Bool)
    (before : Nat) : State :=
  (if first then (((s.setTx f n d).laneActs f n acts).fcount f Reg.HDL_CAL_STAT.DEGRADED).raise f Ev.HDL_CAL_DEGRADED
      [(1, portNo f n), (1, w)]
    else ((s.setTx f n d).laneActs f n acts).fcount f Reg.HDL_CAL_STAT.DEGRADED).laneCheck f n false before

theorem State.tx_degradedStart (s : State) (f : FieldId) (n : PortId) (d : LaneTx) (acts : List LaneAct) (w : Nat) (first : Bool)
    (before : Nat) : ((s.degradedStart f n d acts w first before).port f n).tx = d := by
  have hl : ((s.degradedStart f n d acts w first before).port f n).lanes = ((s.setTx f n d).port f n).lanes := by
    rw [State.degradedStart, State.lanes_laneCheck]
    split
    · rw [State.port_raise, State.port_fcount, State.lanes_laneActs]
    · rw [State.port_fcount, State.lanes_laneActs]
  rw [Port.tx_of_lanes hl, State.port_setTx]

theorem State.degraded_degradedStart (s : State) (f : FieldId) (n : PortId) (d : LaneTx) (acts : List LaneAct) (w : Nat)
    (first : Bool) (before : Nat) : (s.degradedStart f n d acts w first before).freg f Reg.HDL_CAL_STAT.DEGRADED =
      satAdd 16 (s.freg f Reg.HDL_CAL_STAT.DEGRADED) 1 := by
  have hwidth : Reg.HDL_CAL_STAT.DEGRADED.width = 16 := rfl
  have hacts : ((s.setTx f n d).laneActs f n acts).freg f Reg.HDL_CAL_STAT.DEGRADED = s.freg f Reg.HDL_CAL_STAT.DEGRADED := by
    rw [State.laneActs_degraded, State.setTx, State.freg_updPort]
  rw [State.degradedStart, State.laneCheck_degraded]
  split
  · rw [State.raise_freg, State.freg_fcount, hacts, hwidth]
  · rw [State.freg_fcount, hacts, hwidth]

/-- A slot that starts is of the wavelength calibrated longest ago, on the spare one where there is one. -/
theorem LaneTx.calStart_slot {d : LaneTx} {w k : Nat} (h : d.nextCal = some w) (hk : d.slotOf w = some k) :
    ∃ e acts x y z, d.calStart = some (e, acts, x, y, z) ∧
      e.cal.map (fun c => (c.wave, c.spare, c.retry)) = some (w, d.spare, false) := by
  cases hx : d.spare with
  | none => exact ⟨_, _, _, _, _, LaneTx.calStart_of_full h hk hx, rfl⟩
  | some x => exact ⟨_, _, _, _, _, LaneTx.calStart_of_spare h hk hx, rfl⟩

end Sys2Proof.Machine
end


section
/-! What the calibration commands leave (R271 to R274, R278, R320, R597). -/

namespace Sys2Proof.Machine

set_option Elab.async false

open Sys2Proof

/-- A slot in progress is no retry of a wavelength where none is. -/
theorem noRetry_of_all {o : Option CalSlot} {c : CalSlot} {w : Nat} (h : o.all (fun c => !c.retry || decide (c.wave ≠ w)) = true)
    (hc : o = some c) : ¬ (c.retry && decide (c.wave = w)) = true := by
  rw [hc, Option.all_some, Bool.or_eq_true, Bool.not_eq_true', decide_eq_true_eq] at h
  rcases h with h | h
  · rw [h]
    exact Bool.false_ne_true
  · rw [decide_eq_false h, Bool.and_false]
    exact Bool.false_ne_true

/-- Settles O21: each command by the branch its slot and wavelength are in; the lanes it leaves by what a slot's start and end,
a retry and a failure leave of them. -/
theorem calibrationCommandsComplete : Obligations.CalibrationCommandsComplete := by
  refine ⟨?_, ?_, ?_, ?_, ?_, ?_, ?_, ?_, ?_, ?_, ?_, ?_, ?_, ?_, ?_, ?_, ?_, ?_, ?_, ?_, ?_, ?_, ?_, ?_, ?_, ?_, ?_, ?_, ?_, ?_, ?_,
    ?_, ?_, ?_, ?_, ?_, ?_⟩
  case _ =>
    intro s f n w k x hd hok hw hk hx
    have hstart := LaneTx.calStart_of_spare hw hk hx
    have hexec : s.calSlotStart f n = finish (((s.setTx f n { (s.port f n).tx.begun.put k (some x) with
        cal := some ⟨w, some k, some x, false⟩ }).laneActs f n [.change k x, .msg lmCal w]).laneCheck f n false (s.txLanes f n)) := by
      rw [State.calSlotStart, if_pos hok, hstart]
      rfl
    refine Leaves.finish ((State.inPort_of_ne n hd).trans hexec) ⟨?_, ?_, ?_⟩
    · rw [State.lanes_calSlotStart]
    · rw [State.lanes_calSlotStart]
      show ((s.port f n).tx.map.set k x).getD k 0 = x
      rw [List.getD_eq_getElem?_getD, List.getElem?_set_self (LaneTx.slotOf_lt hk)]
      rfl
    · rw [State.lanes_calSlotStart]
  case _ =>
    intro s f n w k hd hok hw hk hx
    have hstart := LaneTx.calStart_of_full hw hk hx
    have hexec : s.calSlotStart f n = finish (s.degradedStart f n { (s.port f n).tx.begun.put k none with
        cal := some ⟨w, some k, none, false⟩, degr := true } [.drop k, .msg lmCal w] w
        (!(if (s.port f n).tx.run = 0 then false else (s.port f n).tx.degr)) (s.txLanes f n)) := by
      rw [State.calSlotStart, if_pos hok, hstart]
      rfl
    refine Leaves.finish ((State.inPort_of_ne n hd).trans hexec) ⟨?_, ?_, ?_⟩
    · rw [State.tx_degradedStart]
    · rw [State.tx_degradedStart]
      exact bit_setBit _ _
    · exact State.degraded_degradedStart _ _ _ _ _ _ _ _
  case _ =>
    intro s f n h
    by_cases hd : s.svc f = svcDark
    · exact Leaves.next (State.inPort_of_dark n hd) rfl
    · refine Leaves.next ((State.inPort_of_ne n hd).trans ?_) rfl
      rw [State.calSlotStart]
      rcases h.resolve_left hd with h | h
      · rw [h]
        rfl
      · rw [LaneTx.calStart_of_none h, ite_self]
  case _ =>
    intro s w k hok hw hk
    obtain ⟨d, acts, first, x, y, hstart, hcal⟩ := LaneTx.calStart_slot hw hk
    have hexec : execCalSlotStart none s = finish ((s.setHostTx d).hostActs acts) := by
      rw [execCalSlotStart, State.inPort, State.hostCalSlotStart, if_pos hok, hstart]
    refine Leaves.finish hexec ⟨?_, ?_⟩
    · exact (congrArg Prod.fst (State.slots_hostActs (s := s.setHostTx d) acts false)).trans hcal
    · rw [hstart]
  case _ =>
    intro s h
    refine Leaves.next ?_ rfl
    show s.hostCalSlotStart = .next s
    rw [State.hostCalSlotStart]
    rcases h with h | h
    · rw [h]
      rfl
    · rw [LaneTx.calStart_of_none h, ite_self]
  case _ =>
    intro s f n w hd hw
    refine Leaves.finish ((State.inPort_of_ne n hd).trans ?_) rfl
    rw [State.calSlotEnd, if_pos rfl, hw]
  case _ =>
    intro s f n c hd hc hr
    exact Leaves.finish (State.inPort_of_ne n hd) ⟨by rw [State.tx_calDone hc hr, LaneTx.calFinish_cal hc],
      by rw [State.tx_calDone hc hr, LaneTx.calFinish_order hc], State.slots_calDone hc hr, State.calDone_of_slot hc hr⟩
  case _ =>
    intro s f n h
    by_cases hd : s.svc f = svcDark
    · exact Leaves.next (State.inPort_of_dark n hd) rfl
    · refine Leaves.next ((State.inPort_of_ne n hd).trans ?_) rfl
      rw [State.calSlotEnd, if_pos rfl, h.resolve_left hd]
  case _ =>
    intro s f n h
    by_cases hd : s.svc f = svcDark
    · exact Leaves.next (State.inPort_of_dark n hd) rfl
    · exact Leaves.finish (State.inPort_of_ne n hd) (State.calDone_of_none (h.resolve_left hd))
  case _ =>
    intro s c rx hc hr
    have hexec : s.hostCalSlotEnd = finish ((s.setHostTx s.hub.hostTx.calFinish.1).hostActs s.hub.hostTx.calFinish.2) := by
      rw [State.hostCalSlotEnd, hc]
      exact if_neg (by rw [hr]; exact Bool.false_ne_true)
    have hslots := State.slots_hostActs (s := s.setHostTx s.hub.hostTx.calFinish.1) s.hub.hostTx.calFinish.2 false
    refine Leaves.finish hexec ⟨LaneTx.cal_none_of_slots hslots (LaneTx.calFinish_cal hc), ?_, rfl⟩
    rw [LaneTx.order_of_slots hslots]
    exact LaneTx.calFinish_order hc
  case _ =>
    intro s rx h
    refine Leaves.next ?_ rfl
    show s.hostCalSlotEnd = .next s
    rw [State.hostCalSlotEnd]
    split
    · rename_i c hc
      rw [hc] at h
      exact if_pos h
    · rfl
  case _ =>
    intro s f n w hd hw
    refine Leaves.finish ((State.inPort_of_ne n hd).trans ?_) rfl
    rw [State.calLockTimeout, if_pos rfl, hw]
  case _ =>
    intro s f n c hd hc hr
    exact Leaves.finish (State.inPort_of_ne n hd) ⟨State.calFailed_of_slot hc hr,
      by rw [State.calFailed_of_slot hc hr]; exact State.failed_txFail _ _ _⟩
  case _ =>
    intro s f n c hd hc hr
    have hdone := State.calFailed_of_retry (f := f) (n := n) hc hr
    exact Leaves.finish (State.inPort_of_ne n hd) ⟨hdone, by rw [hdone, State.tx_retryDone, LaneTx.retryFinish_cal],
      by rw [hdone, State.tx_retryDone, LaneTx.retryFinish_retries]⟩
  case _ =>
    intro s f n h
    by_cases hd : s.svc f = svcDark
    · exact Leaves.next (State.inPort_of_dark n hd) rfl
    · refine Leaves.next ((State.inPort_of_ne n hd).trans ?_) rfl
      rw [State.calLockTimeout, if_pos rfl, h.resolve_left hd]
  case _ =>
    intro s f n h
    by_cases hd : s.svc f = svcDark
    · exact Leaves.next (State.inPort_of_dark n hd) rfl
    · exact Leaves.finish (State.inPort_of_ne n hd) (State.calFailed_of_none (h.resolve_left hd))
  case _ =>
    intro s c rx hc hr
    refine Leaves.finish ?_ rfl
    show s.hostCalLockTimeout = _
    rw [State.hostCalLockTimeout, hc]
    exact if_neg (by rw [hr]; exact Bool.false_ne_true)
  case _ =>
    intro s c rx hc hr
    have hexec : s.hostCalLockTimeout = finish ((s.setHostTx (s.hub.hostTx.retryFinish c.wave false).1).hostActs []) := by
      rw [State.hostCalLockTimeout, hc]
      exact if_pos hr
    exact Leaves.finish hexec ⟨rfl, LaneTx.retryFinish_retries _ _⟩
  case _ =>
    intro s rx h
    refine Leaves.next ?_ rfl
    show s.hostCalLockTimeout = .next s
    rw [State.hostCalLockTimeout, h]
  case _ =>
    intro s f n w hd hok hmay
    refine Leaves.finish ((State.inPort_of_ne n hd).trans (if_pos (by rw [hok, hmay]; rfl))) ⟨rfl, ?_, ?_⟩
    · rw [Port.tx_of_lanes (State.lanes_laneActs _ _ _ _ _), State.port_setTx]
    · rw [Port.tx_of_lanes (State.lanes_laneActs _ _ _ _ _), State.port_setTx]
  case _ =>
    intro s f n w h
    by_cases hd : s.svc f = svcDark
    · exact Leaves.next (State.inPort_of_dark n hd) rfl
    · refine Leaves.next ((State.inPort_of_ne n hd).trans (if_neg ?_)) rfl
      rcases h.resolve_left hd with h | h
      · rw [h]
        exact Bool.false_ne_true
      · rw [h, Bool.and_false]
        exact Bool.false_ne_true
  case _ =>
    intro s w hok hmay
    exact Leaves.next (if_pos (by rw [hok, hmay]; rfl)) ⟨rfl, rfl⟩
  case _ =>
    intro s w h
    refine Leaves.next (if_neg ?_) rfl
    rcases h with h | h
    · rw [h]
      exact Bool.false_ne_true
    · rw [h, Bool.and_false]
      exact Bool.false_ne_true
  case _ =>
    intro s f n w c pass hd hc hr hw
    refine Leaves.finish ((State.inPort_of_ne n hd).trans ?_) ⟨rfl, ?_, ?_, State.slots_retryDone _ _⟩
    · show (if _ = true then _ else _) = _
      refine if_pos ?_
      dsimp only
      rw [hc]
      dsimp only
      rw [hr, decide_eq_true hw]
      rfl
    · rw [State.tx_retryDone, LaneTx.retryFinish_cal]
    · rw [State.tx_retryDone, LaneTx.retryFinish_failed]
  case _ =>
    intro s f n w pass h
    by_cases hd : s.svc f = svcDark
    · exact Leaves.next (State.inPort_of_dark n hd) rfl
    · refine Leaves.next ((State.inPort_of_ne n hd).trans (if_neg ?_)) rfl
      dsimp only
      split
      · rename_i c hc
        exact noRetry_of_all (h.resolve_left hd) hc
      · exact Bool.false_ne_true
  case _ =>
    intro s f n w hd hc hfail
    refine Leaves.finish ((State.inPort_of_ne n hd).trans ?_) ⟨rfl, ?_⟩
    · exact (if_neg (not_not.mpr hc)).trans (if_pos (by rw [hfail]; rfl))
    · rw [Port.rx_of_lanes (State.lanes_laneSend _ _ _ _ _), State.port_raise, State.port_setRx]
      exact bit_setBit_false _ _
  case _ =>
    intro s f n w pass hd hc h
    have hno : ¬ (pass && bit (s.port f n).rx.failed w) = true := by
      rcases h with h | h
      · rw [h]
        exact Bool.false_ne_true
      · rw [h, Bool.and_false]
        exact Bool.false_ne_true
    refine Leaves.finish ((State.inPort_of_ne n hd).trans ((if_neg (not_not.mpr hc)).trans (if_neg hno))) ?_
    cases pass with
    | false => rfl
    | true => rfl
  case _ =>
    intro s f n w pass h
    by_cases hd : s.svc f = svcDark
    · exact Leaves.next (State.inPort_of_dark n hd) rfl
    · exact Leaves.next ((State.inPort_of_ne n hd).trans (if_pos (h.resolve_left hd))) rfl
  case _ =>
    intro s w c rx pass hc hr hw
    have hexec : s.hostLaneRetryEnd rx w pass = finish (State.hostActs (if pass then (s.setHostTx
        (s.hub.hostTx.retryFinish w pass).1).raiseHub Ev.HDL_LANE_RESTORED [(1, hostPortNo), (1, b2n rx), (1, w.val)]
        else s.setHostTx (s.hub.hostTx.retryFinish w pass).1) (s.hub.hostTx.retryFinish w pass).2) := by
      refine if_pos ?_
      dsimp only
      rw [hc]
      dsimp only
      rw [hr, decide_eq_true hw]
      rfl
    have htx : (if pass then (s.setHostTx (s.hub.hostTx.retryFinish w pass).1).raiseHub Ev.HDL_LANE_RESTORED
        [(1, hostPortNo), (1, b2n rx), (1, w.val)] else s.setHostTx (s.hub.hostTx.retryFinish w pass).1).hub.hostTx =
        (s.hub.hostTx.retryFinish w pass).1 := by
      split
      · rfl
      · rfl
    have hacts := State.hostTx_hostActs (s := if pass then (s.setHostTx (s.hub.hostTx.retryFinish w pass).1).raiseHub
        Ev.HDL_LANE_RESTORED [(1, hostPortNo), (1, b2n rx), (1, w.val)] else s.setHostTx (s.hub.hostTx.retryFinish w pass).1)
      (s.hub.hostTx.retryFinish w pass).2 false
    rw [htx] at hacts
    refine Leaves.finish hexec ⟨hacts, ?_, ?_⟩
    · exact LaneTx.cal_none_of_slots (State.slots_hostActs _ _) (by rw [htx, LaneTx.retryFinish_cal])
    · rw [LaneTx.failed_of_slots (State.slots_hostActs _ _), htx, LaneTx.retryFinish_failed]
  case _ =>
    intro s w rx pass h
    refine Leaves.next (if_neg ?_) rfl
    dsimp only
    split
    · rename_i c hc
      exact noRetry_of_all h hc
    · exact Bool.false_ne_true
  case _ =>
    intro s f n w hd
    exact Leaves.next (State.inRim_of_ne hd) rfl
  case _ =>
    intro s f n w hd
    refine Leaves.next (State.inRim_of_ne hd) ⟨?_, ?_⟩
    · rw [State.port_setRx]
    · rw [State.port_setRx]
  case _ =>
    intro s f n w c hd hc hw hr
    refine Leaves.finish ((State.inRim_of_ne hd).trans ?_) ⟨rfl, ?_, ?_⟩
    · rw [hc]
      dsimp only
      rw [if_neg (not_not.mpr hw), hr, if_neg Bool.false_ne_true, if_pos rfl]
    · rw [State.tx_calDone hc hr, LaneTx.calFinish_cal hc]
    · rw [State.tx_calDone hc hr, LaneTx.calFinish_order hc, hw]
  case _ =>
    intro s f n w c hd hc hw hr
    have hfail : s.calFailed f n = s.txFail f n w 2 := by
      rw [State.calFailed_of_slot hc hr, hw]
    refine Leaves.finish ((State.inRim_of_ne hd).trans ?_) ⟨hfail, ?_⟩
    · rw [hc]
      dsimp only
      rw [if_neg (not_not.mpr hw), hr, if_neg Bool.false_ne_true, if_neg Bool.false_ne_true]
    · rw [hfail]
      exact State.failed_txFail _ _ _
  case _ =>
    intro s f n w c ok hd hc hw hr
    refine Leaves.finish ((State.inRim_of_ne hd).trans ?_) ⟨rfl, ?_, ?_⟩
    · rw [hc]
      dsimp only
      rw [if_neg (not_not.mpr hw), if_pos hr]
    · rw [State.tx_retryDone, LaneTx.retryFinish_cal]
    · rw [State.tx_retryDone, LaneTx.retryFinish_failed]
  case _ =>
    intro s f n w ok h
    by_cases hd : s.svc f = svcDark
    · exact Leaves.next (State.inRim_of_dark hd) rfl
    · refine Leaves.next ((State.inRim_of_ne hd).trans ?_) rfl
      have h := h.resolve_left hd
      split
      · rfl
      · rename_i c hc
        rw [hc, Option.all_some, decide_eq_true_eq] at h
        exact if_pos h
  case _ =>
    intro s f n w b hd
    exact Leaves.next (State.inRim_of_dark hd) rfl

end Sys2Proof.Machine
end


section
/-! Support: the injection registers. No operation of a link, and no record of an event, arms a point or takes back that one has
fired (R697). -/

namespace Sys2Proof.Machine

set_option Elab.async false

open Sys2Proof

/-- From s to t each injection row is as it was, or has fired: disarmed and DONE. -/
def Fires (s t : State) : Prop := ∀ f r,
  (t.freg f Reg.INJ_PT.ARM r = s.freg f Reg.INJ_PT.ARM r ∧ t.freg f Reg.INJ_PT.DONE r = s.freg f Reg.INJ_PT.DONE r) ∨
    (t.freg f Reg.INJ_PT.ARM r = 0 ∧ t.freg f Reg.INJ_PT.DONE r = 1)

variable {K : List Part} {s0 s t u : State}

theorem Fires.refl (s : State) : Fires s s := fun _ _ => .inl ⟨rfl, rfl⟩

theorem Fires.trans (h : Fires s t) (h' : Fires t u) : Fires s u := fun f r => by
  rcases h' f r with ⟨ha, hd⟩ | hf
  · rcases h f r with ⟨ha', hd'⟩ | ⟨ha', hd'⟩
    · exact .inl ⟨ha.trans ha', hd.trans hd'⟩
    · exact .inr ⟨ha.trans ha', hd.trans hd'⟩
  · exact .inr hf

/-- A row that has fired stays so. -/
theorem Fires.fired (h : Fires s t) {f : FieldId} {r : Nat} (ha : s.freg f Reg.INJ_PT.ARM r = 0)
    (hd : s.freg f Reg.INJ_PT.DONE r = 1) : t.freg f Reg.INJ_PT.ARM r = 0 ∧ t.freg f Reg.INJ_PT.DONE r = 1 := by
  rcases h f r with ⟨ha', hd'⟩ | hf
  · exact ⟨ha'.trans ha, hd'.trans hd⟩
  · exact hf

/-- A frame that spares the injection rows. -/
def calm (K : List Part) : Bool := spares K .anyReg Reg.INJ_PT.ARM && spares K .anyReg Reg.INJ_PT.DONE

theorem Fires.of_only {G : FieldId → Prop} {P : PlotId → Prop} (ho : Only K G P s t) (hK : calm K = true) : Fires s t := by
  rw [calm, Bool.and_eq_true] at hK
  exact fun f r => .inl ⟨ho.freg _ hK.1 f r 0, ho.freg _ hK.2 f r 0⟩

/-- An operation whose frame spares the injection rows. -/
theorem Fires.only (h : Fires s0 s) (ho : Only K (fun _ => True) (fun _ => True) s s → Only K (fun _ => True) (fun _ => True) s t)
    (hK : calm K = true := by decide +kernel) : Fires s0 t := h.trans (.of_only (ho (.refl _ _ _ s)) hK)

/-- A register of another field. -/
theorem State.freg_fset_far (s : State) {f g : FieldId} (k k' : RegField) (v n i n' i' : Nat) (h : f ≠ g) :
    (s.fset f k v n i).freg g k' n' i' = s.freg g k' n' i' := by
  rw [State.freg, State.fset, State.field_updField_ne _ _ _ _ h]
  rfl

theorem Fires.injFire (f : FieldId) (r : Nat) (h : Fires s0 s) : Fires s0 (s.injFire f r) := by
  refine h.trans (fun g q => ?_)
  by_cases he : f = g ∧ Reg.INJ_PT.ARM.key r 0 = Reg.INJ_PT.ARM.key q 0
  · obtain ⟨rfl, hk⟩ := he
    have hq : r = q := by
      simp only [RegField.key, Reg.INJ_PT.ARM] at hk
      omega
    subst hq
    refine .inr ⟨?_, ?_⟩
    · rw [State.injFire, State.freg_fset_other _ _ _ _ _ _ _ _ _ _ (by decide), State.freg_fset]
      rfl
    · rw [State.injFire, State.freg_fset]
      rfl
  · have hk : f = g → Reg.INJ_PT.ARM.key r 0 ≠ Reg.INJ_PT.ARM.key q 0 ∧ Reg.INJ_PT.DONE.key r 0 ≠ Reg.INJ_PT.DONE.key q 0 := by
      intro hf
      have hne : Reg.INJ_PT.ARM.key r 0 ≠ Reg.INJ_PT.ARM.key q 0 := fun e => he ⟨hf, e⟩
      refine ⟨hne, fun e => hne ?_⟩
      simp only [RegField.key, Reg.INJ_PT.ARM, Reg.INJ_PT.DONE] at e ⊢
      omega
    refine .inl ⟨?_, ?_⟩
    · by_cases hf : f = g
      · subst hf
        rw [State.injFire, State.freg_fset_other _ _ _ _ _ _ _ _ _ _ (by decide), State.freg_fset_ne _ _ _ _ _ _ _ _ _ (hk rfl).1]
      · rw [State.injFire, State.freg_fset_far _ _ _ _ _ _ _ _ hf, State.freg_fset_far _ _ _ _ _ _ _ _ hf]
    · by_cases hf : f = g
      · subst hf
        rw [State.injFire, State.freg_fset_ne _ _ _ _ _ _ _ _ _ (hk rfl).2, State.freg_fset_other _ _ _ _ _ _ _ _ _ _ (by decide)]
      · rw [State.injFire, State.freg_fset_far _ _ _ _ _ _ _ _ hf, State.freg_fset_far _ _ _ _ _ _ _ _ hf]

theorem Fires.ite {c : Prop} [Decidable c] (ha : c → Fires s0 s) (hb : ¬ c → Fires s0 t) : Fires s0 (if c then s else t) := by
  split
  · exact ha ‹_›
  · exact hb ‹_›

theorem Fires.foldl {α : Type} (l : List α) (g : State → α → State) (hg : ∀ t a, Fires s0 t → Fires s0 (g t a)) (h : Fires s0 s) :
    Fires s0 (l.foldl g s) := by
  induction l generalizing s with
  | nil => exact h
  | cons a l ih => exact ih (hg s a h)

theorem Fires.updField (f : FieldId) (g : Field → Field) (hg : ∀ F, (g F).regs = F.regs) (h : Fires s0 s) :
    Fires s0 (s.updField f g) :=
  h.trans (fun _ _ => .inl ⟨State.freg_updField_same _ _ _ _ _ _ _ hg, State.freg_updField_same _ _ _ _ _ _ _ hg⟩)

theorem Fires.updPort (f : FieldId) (n : PortId) (g : Port → Port) (h : Fires s0 s) : Fires s0 (s.updPort f n g) :=
  h.updField f _ (fun _ => rfl)

theorem Fires.updMem (g : Memories → Memories) (h : Fires s0 s) : Fires s0 (s.updMem g) := h.trans (fun _ _ => .inl ⟨rfl, rfl⟩)

theorem Fires.updHub (g : Hub → Hub) (h : Fires s0 s) : Fires s0 (s.updHub g) := h.trans (fun _ _ => .inl ⟨rfl, rfl⟩)

theorem Fires.raise (f : FieldId) (e : EvKind) (l : List (Nat × Nat)) (b : Bool) (h : Fires s0 s) : Fires s0 (s.raise f e l b) :=
  h.trans (fun _ _ => .inl ⟨rfl, rfl⟩)

theorem Fires.emit (o : Output) (h : Fires s0 s) : Fires s0 (s.emit o) := h.trans (fun _ _ => .inl ⟨rfl, rfl⟩)

/-- A register at another place than the injection rows. -/
theorem Fires.fset (f : FieldId) (k : RegField) (v n i : Nat) (h : Fires s0 s) (hk : calm [.reg k] = true := by decide +kernel) :
    Fires s0 (s.fset f k v n i) :=
  h.only (State.fset_only f k v n i (Fits.refl _) trivial) hk

theorem Fires.fcount (f : FieldId) (k : RegField) (d n i : Nat) (h : Fires s0 s) (hk : calm [.reg k] = true := by decide +kernel) :
    Fires s0 (s.fcount f k d n i) := h.fset f k _ n i hk

theorem Fires.fwrap (f : FieldId) (k : RegField) (d n i : Nat) (h : Fires s0 s) (hk : calm [.reg k] = true := by decide +kernel) :
    Fires s0 (s.fwrap f k d n i) := h.fset f k _ n i hk

/-! ### Reads and writes of HBM -/

theorem Fires.ctrlReadHalf (f : FieldId) (m src : Nat) (h : Fires s0 s) : Fires s0 (s.ctrlReadHalf f m src).1 := by
  rw [State.ctrlReadHalf]
  dsimp only
  split
  · exact h
  · have hp : Fires s0 (if s.injArmedAt f injMem 1 (lineStack (m / 2)) then
        (s.injFire f injMem).updMem (fun e => e.setHbmErr f m (max (e.hbmErr[f].get 0 m % 4) 1 + 4))
      else if s.injArmedAt f injMem 2 (lineStack (m / 2)) then
        (s.injFire f injMem).updMem (fun e => e.setHbmErr f m (max (e.hbmErr[f].get 0 m % 4) 2 + 4))
      else s) :=
      .ite (fun _ => (h.injFire f injMem).updMem _) (fun _ => .ite (fun _ => (h.injFire f injMem).updMem _) (fun _ => h))
    generalize (if s.injArmedAt f injMem 1 (lineStack (m / 2)) = true then (_ : State) else _) = t at hp ⊢
    split
    · exact hp
    · exact (Fires.only ((hp.updMem _).fcount f _ _ _ _) (State.healthInput_only _ f _ (Fits.refl _) trivial)).only
        (State.rowCorrected_only _ f _ _ (Fits.refl _) trivial)
    · exact Fires.only (Fires.only (Fires.raise f _ _ _ (Fires.fset f _ _ _ _ (Fires.only ((hp.updMem _).fcount f _ _ _ _)
        (State.healthInput_only _ f _ (Fits.refl _) trivial)))) (State.repairLog_only _ f _ _ _ (Fits.refl _) trivial))
        (State.markCur_only _ f _ (Fits.refl _) trivial)
    · exact hp

theorem Fires.rawLineRead (f : FieldId) (l src : Nat) (h : Fires s0 s) : Fires s0 (s.rawLineRead f l src).1 := by
  rw [State.rawLineRead]
  split
  · exact h.only (State.absorberTouch_only _ f _ (Fits.refl _) trivial)
  · exact (h.ctrlReadHalf f _ src).ctrlReadHalf f _ src

theorem Fires.lineApply (f : FieldId) (l : Nat) (runs : List (Nat × List Byte)) (bad : Bool) (src : Nat) (h : Fires s0 s) :
    Fires s0 (s.lineApply f l runs bad src) := by
  have hput (t : State) (x : AbsLine) (ht : Fires s0 t) : Fires s0 (((if bad then t.fcount f Reg.MEM_ECC_STAT.POISON_WRITES
      else t).absorberPut f (x.mergeRuns runs bad)).markCur f (l * 128)) :=
    Fires.only (Fires.only (.ite (fun _ => ht.fcount f _ _ _ _) (fun _ => ht))
      (State.absorberPut_only _ f _ (Fits.refl _) trivial)) (State.markCur_only _ f _ (Fits.refl _) trivial)
  rw [State.lineApply]
  refine hput _ _ ?_
  split
  · exact h.fwrap f _ _ _ _
  · split
    · exact h
    · exact h.rawLineRead f l src

theorem Fires.updMemu (f : FieldId) (g : FieldMem → FieldMem) (h : Fires s0 s) : Fires s0 (s.updMemu f g) :=
  h.only (State.updMemu_only _ f _ (Fits.refl _) trivial)

theorem Fires.lineWrite (f : FieldId) (a : Nat) (new : List Byte) (bad : Bool) (src : Nat) (h : Fires s0 s) :
    Fires s0 (s.lineWrite f a new bad src).1 := by
  rw [State.lineWrite, State.lineRuns]
  split
  · exact h
  · split
    · exact h.updMemu f _
    · exact Fires.lineApply f _ _ _ _ h

theorem Fires.hbmWrite (f : FieldId) (a : Nat) (new : List Byte) (bad : Bool) (src : Nat) (h : Fires s0 s) :
    Fires s0 (s.hbmWrite f a new bad src).1 := by
  rw [State.hbmWrite]
  generalize new.length / 128 + 2 = fuel
  induction fuel generalizing s a new with
  | zero => exact h
  | succ fuel ih =>
    rw [State.hbmWriteLoop]
    split
    · exact h
    · exact ih _ _ (h.lineWrite f a _ bad src)

/-! ### Records -/

theorem Fires.msixCall (fn c : Nat) (h : Fires s0 s) : Fires s0 (s.msixCall fn c) := by
  rw [State.msixCall]
  exact .ite (fun _ => h) (fun _ => h.updHub _)

theorem Fires.fieldRing (f : FieldId) (rcd : List Byte) (c : Nat) (h : Fires s0 s) : Fires s0 (s.fieldRing f rcd c) := by
  rw [State.fieldRing]
  refine .ite (fun _ => h) (fun _ => ?_)
  refine .ite (fun _ => h.fcount f _ _ _ _) (fun _ => ?_)
  exact (Fires.fset f _ _ _ _ (.ite (fun _ => h.hbmWrite f _ _ _ _) (fun _ => h))).msixCall _ _

theorem Fires.record (e : RaisedEvent) (h : Fires s0 s) : Fires s0 (s.record e) := by
  rw [State.record]
  split
  · exact (h.updHub _).only (State.hubRing_only _ _ _ (Fits.refl _))
  · rename_i f _
    exact ((h.updHub _).fieldRing f _ _).only (State.forward_only _ f _ _ (Fits.refl _) trivial)

/-- Recording the events raised re-arms no point. -/
theorem Fires.drain (h : Fires s0 s) : Fires s0 s.drain := by
  rw [State.drain]
  generalize 64 + 8 * s.events.length = fuel
  induction fuel generalizing s with
  | zero => exact h
  | succ fuel ih =>
    rw [State.drainLoop]
    split
    · exact h
    · exact ih (Fires.record _ (h.trans (fun _ _ => .inl ⟨rfl, rfl⟩)))

/-! ### Flit slots and groups -/

theorem Fires.crcPoint (f : FieldId) (n : PortId) (h : Fires s0 s) : Fires s0 (s.crcPoint f n).1 := by
  rw [State.crcPoint]
  split
  · exact h.injFire f _
  · exact h

theorem Fires.flitMake (f : FieldId) (n : PortId) (ty : Nat) (x : Flit) (b : Bool) (h : Fires s0 s) :
    Fires s0 (s.flitMake f n ty x b).1 := (h.updPort f n _).emit _

theorem Fires.flitReplay (f : FieldId) (n : PortId) (x : HeldFlit) (h : Fires s0 s) : Fires s0 (s.flitReplay f n x).1 :=
  (Fires.fwrap f _ _ _ _ ((h.updPort f n _).crcPoint f n)).flitMake f n _ _ _

theorem Fires.flitNew (f : FieldId) (n : PortId) (v : Nat) (h : Fires s0 s) : Fires s0 (s.flitNew f n v).1 := by
  rw [State.flitNew]
  refine Fires.flitMake f n _ _ _ (Fires.crcPoint f n ?_)
  refine Fires.only ?_ (State.beaconsSent_only _ f _ _ _ (Fits.refl _) trivial)
  refine Fires.only ?_ (State.congCount_only _ f _ _ _ _ (Fits.refl _) trivial)
  refine Fires.fwrap f _ _ _ _ (Fires.updPort f n _ ?_)
  exact .ite (fun _ => h.fset f _ _ _ _) (fun _ => h.fset f _ _ _ _)

theorem Fires.flitOf (f : FieldId) (n : PortId) (h : Fires s0 s) : Fires s0 (s.flitOf f n).1 := by
  rw [State.flitOf]
  dsimp only
  split
  · exact Fires.flitMake f n _ _ _ (Fires.fcount f _ _ _ _ (h.updPort f n _))
  · split
    · split
      · exact h.flitMake f n _ _ _
      · exact h.flitReplay f n _
    · split
      · exact (h.updPort f n _).flitMake f n _ _ _
      · split
        · exact ((h.updPort f n _).updPort f n _).flitNew f n _
        · exact ((h.updPort f n _).updPort f n _).flitMake f n _ _ _

theorem Fires.slots (f : FieldId) (n : PortId) (k : Nat) (h : Fires s0 s) : Fires s0 (s.slots f n k).1 := by
  induction k generalizing s with
  | zero => exact h
  | succ k ih =>
    rw [State.slots]
    dsimp only
    exact ih (Fires.flitOf f n (h.only (State.slotGain_only _ f n (Fits.refl _) trivial)))

theorem Fires.groupOut (f : FieldId) (n : PortId) (a b : Bool) (h : Fires s0 s) : Fires s0 (s.groupOut f n a b) := by
  rw [State.groupOut]
  split
  · exact h
  · exact Fires.emit _ (Fires.updPort f n _ (h.slots f n _))

theorem Fires.flitsCut (f : FieldId) (n : PortId) (h : Fires s0 s) : Fires s0 (s.flitsCut f n) :=
  Fires.updPort f n _ (.ite (fun _ => h.groupOut f n _ _) (fun _ => h))

theorem Fires.flitsEnd (f : FieldId) (n : PortId) (h : Fires s0 s) : Fires s0 (s.flitsEnd f n) :=
  .ite (fun _ => h) (fun _ => h.flitsCut f n)

/-! ### Messages -/

theorem Fires.laneOut (f : FieldId) (n : PortId) (m : Nat × Nat) (h : Fires s0 s) : Fires s0 (s.laneOut f n m) := by
  rw [State.laneOut]
  split
  · exact Fires.updPort f n _ (Fires.groupOut f n _ _ (h.emit _))
  · split
    · exact h.emit _
    · dsimp only
      split
      · exact Fires.updPort f n _ (h.emit _)
      · exact Fires.foldl _ _ (fun t _ ht => ht.groupOut f n _ _) (Fires.updPort f n _ (h.emit _))

theorem Fires.laneSend (f : FieldId) (n : PortId) (ty arg : Nat) (h : Fires s0 s) : Fires s0 (s.laneSend f n ty arg) :=
  .ite (fun _ => h.updPort f n _) (fun _ => h.laneOut f n _)

theorem Fires.changeSend (f : FieldId) (n : PortId) (ty arg : Nat) (h : Fires s0 s) : Fires s0 (s.changeSend f n ty arg) :=
  .ite (fun _ => h.laneSend f n _ _) (fun _ => (h.laneSend f n _ _).laneSend f n _ _)

theorem Fires.laneActs (f : FieldId) (n : PortId) (acts : List LaneAct) (b : Bool) (h : Fires s0 s) :
    Fires s0 (s.laneActs f n acts b) := by
  refine Fires.foldl _ _ (fun t a ht => ?_) h
  cases a with
  | change k w => exact ht.changeSend f n _ _
  | drop k => exact ht.changeSend f n _ _
  | msg ty arg => exact ht.laneSend f n _ _

/-! ### Changes of the link's state -/

theorem Fires.linkSet (f : FieldId) (n : PortId) (new r : Nat) (b : Bool) (h : Fires s0 s) : Fires s0 (s.linkSet f n new r b) := by
  rw [State.linkSet]
  have hres := Fires.fset f Reg.RTE_LINK_STATUS.RESULT r n 0
    (Fires.ite (c := s.link f n = lsActive ∧ new ≠ lsActive) (fun _ => h.flitsEnd f n) (fun _ => h))
  exact .ite (fun _ => hres) (fun _ => (hres.fset f _ _ _ _).raise f _ _ _)

theorem Fires.linkDown (f : FieldId) (n : PortId) (b : Bool) (h : Fires s0 s) : Fires s0 (s.linkDown f n b) := by
  rw [State.linkDown]
  have hzero := Fires.only (Fires.fcount f Reg.RTE_LINK_CNT.LOST (s.port f n).held.length n 0
    (Fires.ite (c := s.link f n = lsActive) (fun _ => h.flitsEnd f n) (fun _ => h)))
    (State.linkZero_only _ f n (Fits.refl _) trivial)
  exact Fires.raise f _ _ _ (Fires.updPort f n _ (.ite (fun _ => hzero.fset f _ _ _ _) (fun _ => hzero)))

theorem Fires.linkRetrain (f : FieldId) (n : PortId) (b : Bool) (h : Fires s0 s) : Fires s0 (s.linkRetrain f n b) := by
  rw [State.linkRetrain]
  refine .ite (fun _ => h) (fun _ => ?_)
  have hcount (l : List Nat) : Fires s0 ((s.fcount f Reg.RTE_LINK_CNT.RETRAINS 1 n).updPort f n (fun P => { P with retrains := l })) :=
    (h.fcount f _ _ _ _).updPort f n _
  exact .ite (fun _ => (Fires.linkDown f n b (Fires.fset f _ _ _ _ ((hcount _).laneSend f n _ _))).linkSet f n _ _ b)
    (fun _ => (Fires.updPort f n _ ((hcount _).linkSet f n _ _ b)).laneSend f n _ _)

theorem Fires.protoErr (f : FieldId) (n : PortId) (kind : Nat) (h : Fires s0 s) : Fires s0 (s.protoErr f n kind) :=
  h.only (State.protoErr_only _ f n _ (Fits.refl _) trivial)

theorem Fires.linkDesync (f : FieldId) (n : PortId) (h : Fires s0 s) : Fires s0 (s.linkDesync f n) :=
  ((h.updPort f n _).protoErr f n _).linkRetrain f n _

theorem Fires.txModeUpdate (f : FieldId) (n : PortId) (h : Fires s0 s) : Fires s0 (s.txModeUpdate f n) :=
  .ite (fun _ => h) (fun _ => Fires.updPort f n _ (Fires.fset f _ _ _ _ ((h.changeSend f n _ _).emit _)))

theorem Fires.laneFew (f : FieldId) (n : PortId) (rx : Bool) (after : Nat) (b : Bool) (h : Fires s0 s) :
    Fires s0 (s.laneFew f n rx after b) := .ite (fun _ => h.raise f _ _ _) (fun _ => h)

theorem Fires.laneCheck (f : FieldId) (n : PortId) (rx : Bool) (before : Nat) (b : Bool) (h : Fires s0 s) :
    Fires s0 (s.laneCheck f n rx before b) := by
  rw [State.laneCheck]
  have hfew (after : Nat) : Fires s0 (if 12 ≤ before then s.laneFew f n rx after b else s) :=
    .ite (fun _ => h.laneFew f n rx _ b) (fun _ => h)
  exact .ite (fun _ => (hfew _).linkRetrain f n b) (fun _ => hfew _)

theorem Fires.laneKept (f : FieldId) (n : PortId) (h : Fires s0 s) : Fires s0 (s.laneKept f n) :=
  have hfew := (h.laneFew f n false (s.txLanes f n) false).laneFew f n true (s.rxLanes f n) false
  .ite (fun _ => hfew.linkRetrain f n false) (fun _ => hfew)

theorem Fires.linkActivate (f : FieldId) (n : PortId) (h : Fires s0 s) : Fires s0 (s.linkActivate f n) := by
  rw [State.linkActivate]
  have hset := Fires.linkSet f n lsActive St.OK false (Fires.updPort f n Port.begin
    (Fires.ite (c := s.link f n = lsRetrain) (fun _ => (h.fset f Reg.RTE_LINK_STATUS.PRESERVED 1 n 0).updPort f n (fun P =>
        { P.acked P.farAck with resend := ((P.acked P.farAck).held.head?).map (fun x => x.seq) }))
      (fun _ => h.only (State.linkZero_only _ f n (Fits.refl _) trivial))))
  exact Fires.txModeUpdate f n (.ite (fun _ => hset) (fun _ => hset.laneKept f n))

theorem Fires.linkGo (f : FieldId) (n : PortId) (h : Fires s0 s) : Fires s0 (s.linkGo f n) :=
  .ite (fun _ => h.linkActivate f n) (fun _ => h)

theorem Fires.linkReady (f : FieldId) (n : PortId) (h : Fires s0 s) : Fires s0 (s.linkReady f n) :=
  ((h.updPort f n _).laneSend f n _ _).linkGo f n

end Sys2Proof.Machine
end


section
/-! Support: what a group received leaves of the injection rows, and that it is answered by a next state (R309 to R319). -/

namespace Sys2Proof.Machine

set_option Elab.async false

open Sys2Proof

variable {K : List Part} {s0 s t : State} {r : Result}

/-! ### Lanes that fail, slots and retries -/

theorem Fires.txFail (f : FieldId) (n : PortId) (w reason : Nat) (b : Bool) (h : Fires s0 s) : Fires s0 (s.txFail f n w reason b) := by
  rw [State.txFail]
  refine .ite (fun _ => h) (fun _ => ?_)
  have hset := Fires.only (Fires.raise f Ev.HDL_LANE_FAILED [(1, portNo f n), (1, 0), (1, w), (1, reason)] b
    (h.updPort f n (fun P => { P with tx := ((s.port f n).tx.fail w).1 }))) (State.laneInjected_only _ f n false w b (Fits.refl _) trivial)
  have hcount := Fires.ite (c := ((s.port f n).tx.fail w).2.2 = true) (fun _ => hset.fcount f Reg.HDL_CAL_STAT.ABORTED 1 0 0) (fun _ => hset)
  refine Fires.txModeUpdate f n (Fires.laneCheck f n false _ b (Fires.laneActs f n _ true ?_))
  exact .ite (fun _ => hcount.only (State.ringLost_only _ f n w (Fits.refl _) trivial)) (fun _ => hcount.updField f _ (fun _ => rfl))

theorem Fires.calDone (f : FieldId) (n : PortId) (h : Fires s0 s) : Fires s0 (s.calDone f n) := by
  rw [State.calDone]
  split
  · exact h
  · refine .ite (fun _ => h) (fun _ => ?_)
    exact Fires.txModeUpdate f n (Fires.laneActs f n _ false (Fires.fwrap f _ _ _ _ (h.updPort f n _)))

theorem Fires.retryDone (f : FieldId) (n : PortId) (w : Nat) (pass : Bool) (h : Fires s0 s) : Fires s0 (s.retryDone f n w pass) := by
  have hset := h.updPort f n (fun P => { P with tx := ((s.port f n).tx.retryFinish w pass).1 })
  exact Fires.txModeUpdate f n (Fires.laneActs f n _ false (.ite (fun _ => (hset.fwrap f _ _ _ _).raise f _ _ _) (fun _ => hset)))

theorem Fires.calFailed (f : FieldId) (n : PortId) (h : Fires s0 s) : Fires s0 (s.calFailed f n) := by
  rw [State.calFailed]
  split
  · exact h
  · exact .ite (fun _ => h.retryDone f n _ _) (fun _ => h.txFail f n _ _ _)

/-! ### Qualification and discovery -/

theorem Fires.qualDecide (f : FieldId) (n : PortId) (h : Fires s0 s) : Fires s0 (s.qualDecide f n) := by
  rw [State.qualDecide]
  split
  · exact h
  · rename_i far _
    have hrec := h.only (State.qualRecord_only s f n far (Fits.refl _) trivial)
    refine .ite (fun _ => h) (fun _ => .ite (fun _ => hrec.linkSet f n _ _ _) (fun _ => ?_))
    exact Fires.linkReady f n (Fires.laneCheck f n true _ false (Fires.laneCheck f n false _ false
      (((hrec.updPort f n _).updPort f n _).updPort f n _)))

theorem Fires.qualReport (f : FieldId) (n : PortId) (h : Fires s0 s) : Fires s0 (s.qualReport f n) :=
  (h.laneSend f n _ _).qualDecide f n

theorem Fires.linkQualify (f : FieldId) (n : PortId) (h : Fires s0 s) : Fires s0 (s.linkQualify f n) := by
  rw [State.linkQualify]
  have hset := Fires.linkSet f n lsQualify St.OK false (Fires.updPort f n (fun P => { P with
    qualDone := 0, qualPass := 0, qualN := [], qualE := [], qualU := [], farPass := none })
    (Fires.fset f Reg.HDL_PORT_STATUS.RX_MODE 0 n 0 (h.fset f Reg.HDL_PORT_STATUS.TX_MODE 0 n 0)))
  exact .ite (fun _ => (hset.updPort f n _).qualReport f n) (fun _ => hset)

theorem Fires.linkAdmit (f : FieldId) (n : PortId) (h : Fires s0 s) : Fires s0 (s.linkAdmit f n) :=
  .ite (fun _ => h.linkReady f n) (fun _ => h.linkQualify f n)

/-- A beacon is noted, with the outcome discovery decides for it (R362, R364). -/
def State.beaconNoted (s : State) (f : FieldId) (n : PortId) (b : BeaconId) : State :=
  let P := s.port f n
  let s1 := (((s.updPort f n (fun Q => { Q with
    seen := some b
    approved := if P.approved = some b then P.approved else none
    farPort := if P.seen = some b then P.farPort else none })).fset f Reg.RTE_DISC_STATUS.SEEN_NODE b.node n).fset f
    Reg.RTE_DISC_STATUS.SEEN_PORT b.port n).fset f Reg.RTE_DISC_STATUS.SEEN_SERIAL b.serial n
  let s2 := s1.setOutcome f n (s1.discover f n b) b.node b.port
  if s1.discover f n b = dSwapSame then s2.updPort f n (fun Q => { Q with farPort := some b.port }) else s2

/-- What a beacon noted leads to in the link's state (R338, R343, R345). -/
theorem State.beaconAccept_eq (s : State) (f : FieldId) (n : PortId) (b : BeaconId) : s.beaconAccept f n b =
    let t := s.beaconNoted f n b
    if t.link f n = lsBeacon ∨ (t.link f n = lsHeld ∧ (s.field f).hubLost = false) then
      if t.portAdmitted f n then t.linkAdmit f n else t.linkSet f n lsHeld St.LINK_HELD
    else if t.link f n = lsRetrain then
      if (s.port f n).admitted = some b then t.linkReady f n
      else ((t.linkDown f n).updPort f n (fun Q => { Q with accepted := [] })).linkSet f n lsBeacon St.OK
    else if t.link f n = lsActive ∧ (s.port f n).admitted ≠ some b then
      ((t.linkDown f n).updPort f n (fun Q => { Q with accepted := [], parts := [], whole := [] })).linkSet f n lsBeacon St.OK
    else t := rfl

theorem Fires.beaconNoted (f : FieldId) (n : PortId) (b : BeaconId) (h : Fires s0 s) : Fires s0 (s.beaconNoted f n b) := by
  have hseen := Fires.fset f Reg.RTE_DISC_STATUS.SEEN_SERIAL b.serial n 0 (Fires.fset f Reg.RTE_DISC_STATUS.SEEN_PORT b.port n 0
    (Fires.fset f Reg.RTE_DISC_STATUS.SEEN_NODE b.node n 0 (h.updPort f n (fun Q => { Q with
      seen := some b
      approved := if (s.port f n).approved = some b then (s.port f n).approved else none
      farPort := if (s.port f n).seen = some b then (s.port f n).farPort else none }))))
  have hout (o : Nat) := hseen.only (State.setOutcome_only _ f n o b.node b.port (Fits.refl _) trivial)
  exact .ite (fun _ => (hout _).updPort f n _) (fun _ => hout _)

theorem Fires.beaconAccept (f : FieldId) (n : PortId) (b : BeaconId) (h : Fires s0 s) : Fires s0 (s.beaconAccept f n b) := by
  have ht := h.beaconNoted f n b
  rw [State.beaconAccept_eq]
  refine .ite (fun _ => .ite (fun _ => ht.linkAdmit f n) (fun _ => ht.linkSet f n _ _ _)) (fun _ => ?_)
  refine .ite (fun _ => .ite (fun _ => ht.linkReady f n) (fun _ => ?_)) (fun _ => .ite (fun _ => ?_) (fun _ => ht))
  · exact Fires.linkSet f n _ _ _ ((ht.linkDown f n _).updPort f n _)
  · exact Fires.linkSet f n _ _ _ ((ht.linkDown f n _).updPort f n _)

/-! ### Commands in turn -/

/-- A command answers a next state in which no injection row is armed anew, nor one taken back that has fired. -/
def FiresTo (s : State) (r : Result) : Prop := ∃ u, r = .next u ∧ Fires s u

theorem FiresTo.next (h : Fires s0 s) : FiresTo s0 (.next s) := ⟨s, rfl, h⟩

theorem FiresTo.finish (h : Fires s0 s) : FiresTo s0 (finish s) := ⟨s.drain, rfl, h.drain⟩

theorem FiresTo.ite {c : Prop} [Decidable c] {r r' : Result} (ha : c → FiresTo s0 r) (hb : ¬ c → FiresTo s0 r') :
    FiresTo s0 (if c then r else r') := by
  split
  · exact ha ‹_›
  · exact hb ‹_›

theorem FiresTo.inRim (f : FieldId) (h : Fires s0 s) (hr : FiresTo s0 r) : FiresTo s0 (s.inRim f r) := by
  by_cases hd : s.svc f = svcDark
  · rw [State.inRim_of_dark hd]
    exact .next h
  · rw [State.inRim_of_ne hd]
    exact hr

theorem FiresTo.andThen {g : State → Result} (hr : FiresTo s0 r) (hg : ∀ t, Fires s0 t → FiresTo s0 (g t)) :
    FiresTo s0 (andThen r g) := by
  obtain ⟨u, rfl, hu⟩ := hr
  exact hg u hu

theorem FiresTo.inTurn {α : Type} {g : State → α → Result} (l : List α) (hg : ∀ t a, Fires s0 t → FiresTo s0 (g t a))
    (h : Fires s0 s) : FiresTo s0 (inTurn g l s) := by
  induction l generalizing s with
  | nil => exact .next h
  | cons a l ih => exact .andThen (hg s a h) (fun t ht => ih ht)

/-- A command whose frame spares the injection rows. -/
theorem FiresTo.of_ends (h : Fires s0 s) (he : Ends K (fun _ => True) (fun _ => True) s r) (hK : calm K = true := by decide +kernel) :
    FiresTo s0 r := by
  obtain ⟨u, rfl | rfl, ho⟩ := he
  · exact .next (h.trans (.of_only ho hK))
  · exact .finish (h.trans (.of_only ho hK))

theorem FiresTo.flitIn (f : FieldId) (n : PortId) (bs : List Byte) (h : Fires s0 s) : FiresTo s0 (s.flitIn f n bs) :=
  .of_ends h (State.flitIn_only f n s bs (Fits.refl _) trivial (.refl _ _ _ s))

/-! ### Lane control received -/

theorem FiresTo.calDone (f : FieldId) (n : PortId) (w : Lambda) (b : Bool) (h : Fires s0 s) : FiresTo s0 (execCalDone f n w b s) := by
  refine .inRim f h ?_
  split
  · exact .next h
  · refine .ite (fun _ => .next h) (fun _ => .ite (fun _ => .finish (h.retryDone f n _ _)) (fun _ => ?_))
    exact .ite (fun _ => .finish (h.calDone f n)) (fun _ => .finish (h.calFailed f n))

theorem FiresTo.beacon (f : FieldId) (n : PortId) (part : Fin 4) (arg : Nat) (h : Fires s0 s) :
    FiresTo s0 (execBeacon f n part arg s) := by
  have hpart := h.updPort f n (fun P => { P with parts := SMap.insert P.parts part (setBits (trunc 56 arg) 0 2 part) })
  have hwhole (l : List Nat) := hpart.updPort f n (fun P => { P with parts := [], whole := l })
  refine .inRim f h (.ite (fun _ => .next hpart) (fun _ => .ite (fun _ => .next (hwhole _)) (fun _ => .finish ?_)))
  exact ((hwhole _).updPort f n _).beaconAccept f n _

theorem FiresTo.train (f : FieldId) (n : PortId) (far : Fin 16) (ready : Bool) (seq : Nat) (h : Fires s0 s) :
    FiresTo s0 (execTrain f n far ready seq s) := by
  have hfar := (h.fset f Reg.RTE_LINK_STATUS.FAR_READY (b2n ready) n 0).updPort f n (fun P =>
    { P with farReady := ready, farAck := trunc 14 seq })
  exact .inRim f h (.ite (fun _ => .finish (Fires.linkSet f n _ _ _ ((hfar.linkDown f n _).updPort f n _)))
    (fun _ => .finish (hfar.linkGo f n)))

theorem FiresTo.qualResult (f : FieldId) (n : PortId) (mask : Nat) (h : Fires s0 s) : FiresTo s0 (execQualResult f n mask s) := by
  refine .inRim f h (.ite (fun _ => .next h) (fun _ => .finish (Fires.qualDecide f n ?_)))
  exact Fires.foldl _ _ (fun t w ht => .ite (fun _ => ht) (fun _ => ht.only (State.qualFail_only t f n false w (Fits.refl _) trivial)))
    (h.updPort f n _)

theorem FiresTo.laneIn (f : FieldId) (n : PortId) (ty arg : Nat) (h : Fires s0 s) : FiresTo s0 (s.laneIn f n ty arg) := by
  unfold State.laneIn
  dsimp only
  split
  · exact .next h
  · exact .of_ends h (execMapChange_only f n _ _ s (Fits.refl _) trivial (.refl _ _ _ s))
  · exact .of_ends h (execModeChange_only f n _ s (Fits.refl _) trivial (.refl _ _ _ s))
  · exact .of_ends h (execCal_only f n _ _ s (Fits.refl _) trivial (.refl _ _ _ s))
  · exact .calDone f n _ _ h
  · exact .inRim f h (.finish (h.txFail f n _ _ _))
  · exact .of_ends h (execLightPause_only f n _ s (Fits.refl _) trivial (.refl _ _ _ s))
  · exact .of_ends h (execPowerReport_only f n _ _ s (Fits.refl _) trivial (.refl _ _ _ s))
  · exact .beacon f n _ _ h
  · exact .train f n _ _ _ h
  · exact .qualResult f n _ h
  · exact .inRim f h (.finish (h.linkRetrain f n _))
  · exact .finish (h.protoErr f n _)

theorem FiresTo.switchIn (f : FieldId) (n : PortId) (h : Fires s0 s) : FiresTo s0 (s.switchIn f n) := by
  rw [State.switchIn]
  dsimp only
  split
  · exact .finish (h.linkDesync f n)
  · exact .finish (Fires.laneCheck f n true _ false (h.updPort f n _))
  · exact .next ((h.fset f _ _ _ _).updPort f n _)

/-! ### Codewords received -/

theorem Fires.qualWave (f : FieldId) (n : PortId) (w : Nat) (h : Fires s0 s) : Fires s0 (s.qualWave f n w) := by
  rw [State.qualWave]
  have hdone (ok : Bool) := h.updPort f n (fun P => { P with
    qualDone := setBit P.qualDone w true, qualPass := setBit P.qualPass w ok })
  have hfail (ok : Bool) := Fires.ite (c := ok = true) (fun _ => hdone ok)
    (fun _ => (hdone ok).only (State.qualFail_only _ f n true w (Fits.refl _) trivial))
  exact .ite (fun _ => (hfail _).qualReport f n) (fun _ => hfail _)

theorem Fires.heardCount (f : FieldId) (n : PortId) (x : Heard) (h : Fires s0 s) : Fires s0 (s.heardCount f n x) := by
  rw [State.heardCount]
  have hfec := h.only (State.fecCount_only s f n x.wave x.corrected (b2n (!x.good)) (Fits.refl _) trivial)
  have hqual := hfec.updPort f n (fun P => { P with
    qualN := SMap.set P.qualN 0 x.wave (SMap.get P.qualN 0 x.wave + 5440)
    qualE := SMap.set P.qualE 0 x.wave (SMap.get P.qualE 0 x.wave + x.corrected)
    qualU := SMap.set P.qualU 0 x.wave (SMap.get P.qualU 0 x.wave + b2n (!x.good)) })
  exact .ite (fun _ => .ite (fun _ => hqual.qualWave f n _) (fun _ => hqual)) (fun _ => hfec)

end Sys2Proof.Machine
end


section
/-! Groups received: the codewords counted on the locked wavelengths, and the message, flits and mark that follow (R309 to R319,
R352). -/

namespace Sys2Proof.Machine

set_option Elab.async false

open Sys2Proof

variable {K : List Part} {s s0 t u : State} {f : FieldId} {n : PortId} {r : Result} {ks : List RegField}

/-! ### Register fields of a family -/

/-- Two places of a family of registers have no key in common. -/
theorem RegField.key_index_ne (k : RegField) (n : Nat) {i j : Nat} (hk : 0 < k.bitStride) (h : i ≠ j) : k.key n i ≠ k.key n j := by
  intro e
  rw [RegField.key, RegField.key] at e
  have hmul : i * k.bitStride = j * k.bitStride := by omega
  exact h (Nat.eq_of_mul_eq_mul_right hk hmul)

/-- The registers listed read as before, in every field. -/
def Keeps (ks : List RegField) (s t : State) : Prop := ∀ k ∈ ks, ∀ f n i, t.freg f k n i = s.freg f k n i

/-- A frame that spares each of some registers. -/
def sparesAll (K : List Part) (ks : List RegField) : Bool := ks.all (spares K .anyReg)

theorem Keeps.refl (ks : List RegField) (s : State) : Keeps ks s s := fun _ _ _ _ _ => rfl

theorem Keeps.trans (h : Keeps ks s t) (h' : Keeps ks t u) : Keeps ks s u :=
  fun k hk f n i => (h' k hk f n i).trans (h k hk f n i)

theorem Keeps.of_only {F : FieldId → Prop} {P : PlotId → Prop} (ho : Only K F P s t) (hK : sparesAll K ks = true) : Keeps ks s t :=
  fun k hk f n i => ho.freg k (List.all_eq_true.mp hK k hk) f n i

/-- A command answers a next state with the registers as before. -/
def KeepsTo (ks : List RegField) (s : State) (r : Result) : Prop := ∃ u, r = .next u ∧ Keeps ks s u

theorem KeepsTo.next (s : State) : KeepsTo ks s (.next s) := ⟨s, rfl, .refl ks s⟩

theorem State.drain_keeps (s : State) (hk : sparesAll recordParts ks = true) : Keeps ks s s.drain :=
  .of_only (K := recordParts) (F := fun _ => True) (P := fun _ => True)
    (State.drain_only s (by decide +kernel) (fun _ => trivial) (.refl _ _ _ s)) hk

theorem KeepsTo.finish (s : State) (hk : sparesAll recordParts ks = true) : KeepsTo ks s (finish s) :=
  ⟨s.drain, rfl, s.drain_keeps hk⟩

theorem KeepsTo.of_ends (he : Ends K (fun _ => True) (fun _ => True) s r) (hK : sparesAll K ks = true)
    (hk : sparesAll recordParts ks = true) : KeepsTo ks s r := by
  obtain ⟨u, rfl | rfl, ho⟩ := he
  · exact ⟨u, rfl, .of_only ho hK⟩
  · exact ⟨_, rfl, (Keeps.of_only ho hK).trans (u.drain_keeps hk)⟩

theorem KeepsTo.andThen {g : State → Result} (hr : KeepsTo ks s r) (hg : ∀ t, KeepsTo ks t (g t)) : KeepsTo ks s (andThen r g) := by
  obtain ⟨u, rfl, hu⟩ := hr
  obtain ⟨v, hv, hkeep⟩ := hg u
  exact ⟨v, hv, hu.trans hkeep⟩

theorem KeepsTo.inTurn {α : Type} {g : State → α → Result} (l : List α) (hg : ∀ t a, KeepsTo ks t (g t a)) (s : State) :
    KeepsTo ks s (inTurn g l s) := by
  induction l generalizing s with
  | nil => exact .next s
  | cons a l ih => exact .andThen (hg s a) ih

/-! ### A fold in which one element acts -/

/-- Where one element of a list without repeats changes what is seen, and the others leave it, the fold changes it once. -/
theorem foldl_once {σ α β : Type} (φ : σ → β) (l : List α) (g : σ → α → σ) (F : β → β) (a : α) (ha : a ∈ l) (hl : l.Nodup)
    (hact : ∀ t, φ (g t a) = F (φ t)) (hkeep : ∀ t b, b ≠ a → φ (g t b) = φ t) (s : σ) : φ (l.foldl g s) = F (φ s) := by
  induction l generalizing s with
  | nil => exact absurd ha List.not_mem_nil
  | cons b l ih =>
    obtain ⟨hb, hl'⟩ := List.nodup_cons.mp hl
    rw [List.foldl_cons]
    by_cases hba : b = a
    · subst hba
      have hrest : ∀ t, φ (l.foldl g t) = φ t := by
        intro t
        clear ih ha hl hl'
        induction l generalizing t with
        | nil => rfl
        | cons c l ih =>
          rw [List.foldl_cons, ih (fun h => hb (List.mem_cons_of_mem c h)), hkeep t c (fun h => hb (h ▸ List.mem_cons_self))]
      rw [hrest, hact]
    · rw [ih ((List.mem_cons.mp ha).resolve_left (fun h => hba h.symm)) hl', hkeep _ _ hba]

/-! ### The shape of a group -/

/-- The codewords heard on the locked wavelengths (R309). -/
def heardOn (lock : Nat) (cw : List (Nat × List Nat)) : List Heard :=
  ((List.range 16).filter (bit lock)).filterMap (fun w => (cw.find? (fun x => x.1 = w)).map (fun x => hear w x.2))

/-- What follows the counting of a group: its flits, its message and its mark. -/
def groupRest (f : FieldId) (n : PortId) (flits : List (List Byte)) (message : Option Nat) (mark : Prop) [Decidable mark] (s : State) : Result :=
  andThen (inTurn (State.flitIn f n) flits s) fun s3 =>
    andThen (match message with | some m => s3.laneIn f n (bits m 0 8) (bits m 8 56) | none => .next s3) fun s4 =>
      if mark then s4.switchIn f n else finish s4

theorem State.groupIn_shape (s : State) (f : FieldId) (n : PortId) (cw : List (Nat × List Nat)) : ∃ g flits message mark, ∃ _ : Decidable mark,
    s.groupIn f n cw = groupRest f n flits message mark ((heardOn ((s.fecPoint f n cw).1.port f n).lock (s.fecPoint f n cw).2).foldl
      (fun t x => t.heardCount f n x) ((s.fecPoint f n cw).1.updPort f n g)) :=
  ⟨_, _, _, _, _, rfl⟩

theorem groupRest_fires (flits : List (List Byte)) (message : Option Nat) (mark : Prop) [Decidable mark] (h : Fires s0 s) :
    FiresTo s0 (groupRest f n flits message mark s) := by
  refine .andThen (.inTurn _ (fun t bs ht => .flitIn f n bs ht) h) (fun t ht => .andThen ?_ (fun v hv => ?_))
  · split
    · exact .laneIn f n _ _ ht
    · exact .next ht
  · exact .ite (fun _ => .switchIn f n hv) (fun _ => .finish hv)

/-- The registers that count corrections (R352). -/
def fecRegs : List RegField := [Reg.RTE_LANE_FEC.CORR, Reg.RTE_LANE_FEC.UNCORR]

theorem groupRest_keeps (flits : List (List Byte)) (message : Option Nat) (mark : Prop) [Decidable mark] :
    KeepsTo fecRegs s (groupRest f n flits message mark s) := by
  refine .andThen (.inTurn _ (fun t bs => ?_) s) (fun t => .andThen ?_ (fun v => ?_))
  · exact .of_ends (State.flitIn_only f n t bs (Fits.refl _) trivial (.refl _ _ _ t)) (by decide +kernel) (by decide +kernel)
  · split
    · exact .of_ends (State.laneIn_only t f n _ _ (Fits.refl _) trivial (.refl _ _ _ t)) (by decide +kernel) (by decide +kernel)
    · exact .next t
  · split
    · exact .of_ends (State.switchIn_only v f n (Fits.refl _) trivial (.refl _ _ _ v)) (by decide +kernel) (by decide +kernel)
    · exact .finish v (by decide +kernel)

end Sys2Proof.Machine
end


section
/-! The counting of a group's codewords, wavelength by wavelength, and the point FEC_SYMBOLS (R352, R697). -/

namespace Sys2Proof.Machine

set_option Elab.async false

open Sys2Proof

variable {s s0 t u : State} {f : FieldId} {n : PortId}

/-! ### A codeword counted -/

/-- The corrections counted of a wavelength, and its uncorrectable codewords (R352). -/
def State.fec (s : State) (f : FieldId) (n : PortId) (w : Nat) : Nat × Nat :=
  (s.freg f Reg.RTE_LANE_FEC.CORR n w, s.freg f Reg.RTE_LANE_FEC.UNCORR n w)

theorem Keeps.fec (h : Keeps fecRegs s t) (f : FieldId) (n : PortId) (w : Nat) : t.fec f n w = s.fec f n w := by
  rw [State.fec, State.fec, h _ List.mem_cons_self, h _ (List.mem_cons_of_mem _ List.mem_cons_self)]

theorem State.fec_fecCount (s : State) (f : FieldId) (n : PortId) (w c e : Nat) : (s.fecCount f n w c e).fec f n w =
    (((s.fec f n w).1 + c) % 2 ^ 24, satAdd 8 (s.fec f n w).2 e) := by
  have hc : Reg.RTE_LANE_FEC.CORR.width = 24 := rfl
  have hu : Reg.RTE_LANE_FEC.UNCORR.width = 8 := rfl
  rw [State.fec, State.fecCount, State.freg_fcount, State.fcount, State.freg_fset_other _ _ _ _ _ _ _ _ _ _ (by decide),
    State.freg_fwrap, State.fwrap, State.freg_fset_other _ _ _ _ _ _ _ _ _ _ (by decide), hc, hu]
  rfl

theorem State.fec_fecCount_ne (s : State) (f : FieldId) (n : PortId) {v w : Nat} (c e : Nat) (h : v ≠ w) :
    (s.fecCount f n v c e).fec f n w = s.fec f n w := by
  rw [State.fec, State.fecCount, State.fcount, State.fwrap, State.freg_fset_other _ _ _ _ _ _ _ _ _ _ (by decide),
    State.freg_fset_ne _ _ _ _ _ _ _ _ _ (RegField.key_index_ne _ _ (by decide) h),
    State.freg_fset_ne _ _ _ _ _ _ _ _ _ (RegField.key_index_ne _ _ (by decide) h),
    State.freg_fset_other _ _ _ _ _ _ _ _ _ _ (by decide)]
  rfl

/-- What qualification makes of a codeword leaves its counts. -/
theorem State.fec_heardCount (s : State) (f : FieldId) (n : PortId) (x : Heard) (w : Nat) :
    (s.heardCount f n x).fec f n w = (s.fecCount f n x.wave x.corrected (b2n (!x.good))).fec f n w := by
  have hqual (t : State) (a b c : Nat) : (t.qualCount f n x.wave a b c).fec f n w = t.fec f n w :=
    Keeps.fec (.of_only (State.qualCount_only (F := fun _ => True) (P := fun _ => True) t f n _ _ _ _ (Fits.refl _) trivial
      (.refl _ _ _ t)) (by decide +kernel)) f n w
  have hwave (t : State) : (t.qualWave f n x.wave).fec f n w = t.fec f n w :=
    Keeps.fec (.of_only (State.qualWave_only (F := fun _ => True) (P := fun _ => True) t f n _ (Fits.refl _) trivial
      (.refl _ _ _ t)) (by decide +kernel)) f n w
  rw [State.heardCount]
  dsimp only
  split
  · split
    · rw [hwave, hqual]
    · rw [hqual]
  · rfl

/-! ### The codewords of a group -/

/-- A step over the wavelengths of a group: a wavelength with a codeword counts it. -/
def State.heardStep (f : FieldId) (n : PortId) (cw : List (Nat × List Nat)) (t : State) (w : Nat) : State :=
  match (cw.find? (fun x => x.1 = w)).map (fun x => hear w x.2) with
  | some x => t.heardCount f n x
  | none => t

theorem heardOn_foldl (lock : Nat) (cw : List (Nat × List Nat)) (s : State) :
    (heardOn lock cw).foldl (fun t x => t.heardCount f n x) s =
      ((List.range 16).filter (bit lock)).foldl (State.heardStep f n cw) s := by
  rw [heardOn, List.foldl_filterMap]
  refine congrArg (fun g : State → Nat → State => List.foldl g s _) (funext fun t => funext fun w => ?_)
  rw [State.heardStep]
  cases cw.find? (fun x => x.1 = w) with
  | none => rfl
  | some x => rfl

theorem State.fec_heardStep (cw : List (Nat × List Nat)) (t : State) {w : Nat} {x : Nat × List Nat}
    (h : cw.find? (fun x => x.1 = w) = some x) : (t.heardStep f n cw w).fec f n w =
      (((t.fec f n w).1 + (hear w x.2).corrected) % 2 ^ 24, satAdd 8 (t.fec f n w).2 (b2n (!(hear w x.2).good))) := by
  rw [State.heardStep, h]
  exact (State.fec_heardCount _ _ _ _ _).trans (State.fec_fecCount _ _ _ _ _ _)

theorem State.fec_heardStep_ne (cw : List (Nat × List Nat)) (t : State) {v w : Nat} (h : v ≠ w) :
    (t.heardStep f n cw v).fec f n w = t.fec f n w := by
  rw [State.heardStep]
  cases cw.find? (fun x => x.1 = v) with
  | none => rfl
  | some x => exact (State.fec_heardCount _ _ _ _ _).trans (State.fec_fecCount_ne _ _ _ _ _ h)

/-- A locked wavelength with a codeword counts it once. -/
theorem State.fec_heard {lock : Nat} {cw : List (Nat × List Nat)} {w : Lambda} {x : Nat × List Nat} (hlock : bit lock w = true)
    (h : cw.find? (fun x => x.1 = w.val) = some x) (s : State) :
    ((heardOn lock cw).foldl (fun t x => t.heardCount f n x) s).fec f n w =
      (((s.fec f n w).1 + (hear w x.2).corrected) % 2 ^ 24, satAdd 8 (s.fec f n w).2 (b2n (!(hear w x.2).good))) := by
  rw [heardOn_foldl]
  exact foldl_once (fun t : State => t.fec f n w) _ _
    (fun p => ((p.1 + (hear w x.2).corrected) % 2 ^ 24, satAdd 8 p.2 (b2n (!(hear w x.2).good)))) w.val
    (List.mem_filter.mpr ⟨List.mem_range.mpr w.isLt, hlock⟩) (List.nodup_range.filter _)
    (fun t => State.fec_heardStep cw t h) (fun t v hv => State.fec_heardStep_ne cw t hv) s

/-- One that is not locked, or has none, counts nothing. -/
theorem State.fec_unheard {lock : Nat} {cw : List (Nat × List Nat)} {w : Lambda}
    (h : bit lock w = false ∨ cw.find? (fun x => x.1 = w.val) = none) (s : State) :
    ((heardOn lock cw).foldl (fun t x => t.heardCount f n x) s).fec f n w = s.fec f n w := by
  rw [heardOn_foldl]
  refine foldl_same (fun t : State => t.fec f n w) _ _ (fun t v hv => ?_) s
  by_cases hw : v = w.val
  · subst hw
    rcases h with h | h
    · rw [(List.mem_filter.mp hv).2] at h
      exact absurd h (by decide)
    · rw [State.heardStep, h]
      rfl
  · exact State.fec_heardStep_ne cw t hw

/-! ### The point FEC_SYMBOLS -/

theorem State.fecPoint_of_unarmed (cw : List (Nat × List Nat)) (h : s.injArmedAt f injLink 1 n = false) : s.fecPoint f n cw = (s, cw) := by
  rw [State.fecPoint]
  exact if_neg (by rw [h]; exact Bool.false_ne_true)

theorem State.port_healthInput (b : Bool) : (s.healthInput f b).port f n = s.port f n := by
  rw [State.healthInput]
  split
  · exact State.port_updField_same _ _ _ _ _ (fun _ => rfl)
  · rfl

theorem State.freg_healthInput (b : Bool) (k : RegField) (m j : Nat) : (s.healthInput f b).freg f k m j = s.freg f k m j := by
  rw [State.healthInput]
  split
  · exact State.freg_updField_same _ _ _ _ _ _ _ (fun _ => rfl)
  · rfl

theorem State.port_fecPoint (cw : List (Nat × List Nat)) : (s.fecPoint f n cw).1.port f n = s.port f n := by
  rw [State.fecPoint]
  dsimp only
  split
  · dsimp only
    rw [State.port_healthInput]
    exact State.port_injFire _ _ _ _ _
  · rfl

/-- A point that fires leaves no wavelength a codeword that had none. -/
theorem State.find_fecPoint {cw : List (Nat × List Nat)} {w : Nat} (h : cw.find? (fun x => x.1 = w) = none) :
    (s.fecPoint f n cw).2.find? (fun x => x.1 = w) = none := by
  rw [State.fecPoint]
  dsimp only
  split
  · rw [List.find?_map, Option.map_eq_none_iff, List.find?_eq_none]
    intro x hx
    have hne := List.find?_eq_none.mp h x hx
    rw [Function.comp_apply]
    split
    · exact hne
    · exact hne
  · exact h

/-- The point fires where its wavelength is locked and has a codeword (R697). -/
theorem State.fired_fecPoint {cw : List (Nat × List Nat)} (h : s.injArmedAt f injLink 1 n = true)
    (hlock : bit (s.port f n).lock (s.injArg f injLink % 16) = true)
    (hcw : cw.any (fun x => decide (x.1 = s.injArg f injLink % 16)) = true) :
    (s.fecPoint f n cw).1.freg f Reg.INJ_PT.ARM injLink = 0 ∧ (s.fecPoint f n cw).1.freg f Reg.INJ_PT.DONE injLink = 1 := by
  rw [State.fecPoint]
  dsimp only
  rw [if_pos (by rw [h, hlock, hcw]; rfl)]
  refine ⟨?_, ?_⟩
  · rw [State.freg_healthInput, State.injFire,
      State.freg_fset_other _ _ _ _ _ _ _ _ _ _ (by decide), State.freg_fset]
    rfl
  · rw [State.freg_healthInput, State.injFire, State.freg_fset]
    rfl

/-! ### A group with its codewords -/

/-- A group leaves a wavelength's counts as its codewords do. -/
theorem State.fec_groupIn (cw : List (Nat × List Nat)) (w : Nat) : ∃ v u : State, s.groupIn f n cw = .next u ∧ v.fec f n w = s.fec f n w ∧
    u.fec f n w = ((heardOn (s.port f n).lock (s.fecPoint f n cw).2).foldl (fun t x => t.heardCount f n x) v).fec f n w := by
  obtain ⟨g, flits, message, mark, hmark, hshape⟩ := State.groupIn_shape s f n cw
  obtain ⟨u, hu, hkeep⟩ := groupRest_keeps (f := f) (n := n) flits message mark
    (s := (heardOn ((s.fecPoint f n cw).1.port f n).lock (s.fecPoint f n cw).2).foldl
      (fun t x => t.heardCount f n x) ((s.fecPoint f n cw).1.updPort f n g))
  refine ⟨(s.fecPoint f n cw).1.updPort f n g, u, hshape.trans hu, ?_, ?_⟩
  · have hpoint : (s.fecPoint f n cw).1.fec f n w = s.fec f n w :=
      Keeps.fec (.of_only (State.fecPoint_only (F := fun _ => True) (P := fun _ => True) s f n cw (Fits.refl _) trivial
        (.refl _ _ _ s)) (by decide +kernel)) f n w
    rw [← hpoint, State.fec, State.freg_updPort, State.freg_updPort]
    rfl
  · rw [hkeep.fec f n w, State.port_fecPoint]

theorem State.fired_groupIn (cw : List (Nat × List Nat)) : FiresTo (s.fecPoint f n cw).1 (s.groupIn f n cw) := by
  obtain ⟨g, flits, message, mark, hmark, hshape⟩ := State.groupIn_shape s f n cw
  rw [hshape]
  exact groupRest_fires _ _ _ (.foldl _ _ (fun t x ht => ht.heardCount f n x) ((Fires.refl _).updPort f n g))

end Sys2Proof.Machine
end


section
/-! Support: a transmitter that stops and what waits for it, through the changes of its link (R317 to R321, R336 to R343). -/

namespace Sys2Proof.Machine

set_option Elab.async false

open Sys2Proof

variable {s t : State} {f : FieldId} {n : PortId}

/-- Whether a port's transmitter has stopped, and the messages that wait for it. -/
def Port.voice (P : Port) : TxStop × List (Nat × Nat) := (P.stop, P.waiting)

theorem Port.voice_of_still {P Q : Port} (h : P.still = Q.still) : P.voice = Q.voice := by
  have hv : P.still.voice = Q.still.voice := by rw [h]
  exact hv

theorem Port.stop_of_voice {P Q : Port} (h : P.voice = Q.voice) : P.stop = Q.stop := congrArg Prod.fst h

theorem Port.waiting_of_voice {P Q : Port} (h : P.voice = Q.voice) : P.waiting = Q.waiting := congrArg Prod.snd h

theorem Port.stop_of_voice_eq {P : Port} {x : TxStop} {l : List (Nat × Nat)} (h : P.voice = (x, l)) : P.stop = x :=
  congrArg Prod.fst h

theorem Port.waiting_of_voice_eq {P : Port} {x : TxStop} {l : List (Nat × Nat)} (h : P.voice = (x, l)) : P.waiting = l :=
  congrArg Prod.snd h

theorem State.voice_updPort {g : Port → Port} (hg : ∀ P, (g P).voice = P.voice) :
    ((s.updPort f n g).port f n).voice = (s.port f n).voice := by
  rw [State.port_updPort, hg]

theorem State.voice_laneSend (ty arg : Nat) (h : (s.port f n).stop.silent = false) :
    ((s.laneSend f n ty arg).port f n).voice = (s.port f n).voice :=
  Port.voice_of_still (State.still_laneSend_of_loud _ _ _ _ _ h)

theorem State.voice_changeSend (ty arg : Nat) (h : (s.port f n).stop.silent = false) :
    ((s.changeSend f n ty arg).port f n).voice = (s.port f n).voice := by
  have hfirst := State.voice_laneSend (s := s) (f := f) (n := n) ty arg h
  rw [State.changeSend]
  split
  · exact hfirst
  · rw [State.voice_laneSend _ _ (by rw [Port.stop_of_voice hfirst]; exact h), hfirst]

theorem State.voice_linkSet (new r : Nat) (b : Bool) : ((s.linkSet f n new r b).port f n).voice = (s.port f n).voice :=
  Port.voice_of_still (State.still_linkSet _ _ _ _ _ _)

theorem State.voice_linkZero : ((s.linkZero f n).port f n).voice = (s.port f n).voice := by
  rw [State.linkZero]
  refine Eq.trans (State.voice_updPort (fun _ => rfl)) ?_
  rw [State.port_fset]
  exact congrArg Port.voice (foldl_same (fun t : State => t.port f n) _ _ (fun t _ _ => State.port_fset t _ _ _ _ _ _ _) _)

theorem State.voice_linkDown (b : Bool) : ((s.linkDown f n b).port f n).voice = (s.port f n).voice := by
  have hend : ((if s.link f n = lsActive then s.flitsEnd f n else s).port f n).voice = (s.port f n).voice := by
    split
    · exact Port.voice_of_still (State.still_flitsEnd _ _ _)
    · rfl
  rw [State.linkDown, State.port_raise]
  refine Eq.trans (State.voice_updPort (fun _ => rfl)) ?_
  split
  · rw [State.port_fset, State.voice_linkZero, State.port_fcount, hend]
  · rw [State.voice_linkZero, State.port_fcount, hend]

theorem State.voice_linkRetrain (b : Bool) (h : (s.port f n).stop.silent = false) :
    ((s.linkRetrain f n b).port f n).voice = (s.port f n).voice := by
  have hcount (l : List Nat) : (((s.fcount f Reg.RTE_LINK_CNT.RETRAINS 1 n).updPort f n
      (fun P => { P with retrains := l })).port f n).voice = (s.port f n).voice := by
    refine Eq.trans (State.voice_updPort (fun _ => rfl)) ?_
    rw [State.port_fcount]
  have hloud {u : State} (hu : (u.port f n).voice = (s.port f n).voice) : (u.port f n).stop.silent = false := by
    rw [Port.stop_of_voice hu]
    exact h
  rw [State.linkRetrain]
  split
  · rfl
  · dsimp only
    split
    · rw [State.voice_linkSet, State.voice_linkDown, State.port_fset, State.voice_laneSend _ _ (hloud (hcount _)), hcount]
    · have hset (l : List Nat) : (((((s.fcount f Reg.RTE_LINK_CNT.RETRAINS 1 n).updPort f n
          (fun P => { P with retrains := l })).linkSet f n lsRetrain St.OK b).updPort f n Port.unlock).port f n).voice =
          (s.port f n).voice := by
        refine Eq.trans (State.voice_updPort (fun _ => rfl)) ?_
        rw [State.voice_linkSet, hcount]
      rw [State.voice_laneSend _ _ (hloud (hset _)), hset]

theorem State.port_laneFew (rx : Bool) (after : Nat) (b : Bool) : (s.laneFew f n rx after b).port f n = s.port f n := by
  rw [State.laneFew]
  split
  · rfl
  · rfl

theorem State.voice_laneKept (h : (s.port f n).stop.silent = false) : ((s.laneKept f n).port f n).voice = (s.port f n).voice := by
  rw [State.laneKept]
  split
  · rw [State.voice_linkRetrain _ (by rw [State.port_laneFew, State.port_laneFew]; exact h), State.port_laneFew, State.port_laneFew]
  · rw [State.port_laneFew, State.port_laneFew]

/-- A mode change starts only at a transmitter that has not stopped. -/
theorem State.txModeUpdate_of_stopped (h : (s.port f n).stop ≠ .none) : s.txModeUpdate f n = s := if_pos (.inr (.inl h))

theorem State.waiting_txModeUpdate : ((s.txModeUpdate f n).port f n).waiting = (s.port f n).waiting := by
  by_cases hs : (s.port f n).stop = .none
  · rw [State.txModeUpdate]
    split
    · rfl
    · have hv := Port.waiting_of_voice (State.voice_changeSend (s := s) (f := f) (n := n) lmMode (s.txModeWanted f n) (by rw [hs]; rfl))
      rw [State.port_updPort, State.port_fset, State.port_emit]
      exact hv
  · rw [State.txModeUpdate_of_stopped hs]

/-- The state in which a link that becomes ACTIVE looks at its mode. -/
theorem State.linkActivate_voice (h : (s.port f n).stop.silent = false) : ∃ t : State, s.linkActivate f n = t.txModeUpdate f n ∧
    (t.port f n).voice = (s.port f n).voice := by
  have hstart : ((if s.link f n = lsRetrain then
      (s.fset f Reg.RTE_LINK_STATUS.PRESERVED 1 n).updPort f n (fun P =>
        let Q := P.acked P.farAck
        { Q with resend := (Q.held.head?).map (fun h => h.seq) })
    else s.linkZero f n).port f n).voice = (s.port f n).voice := by
    split
    · refine Eq.trans (State.voice_updPort (fun _ => rfl)) ?_
      rw [State.port_fset]
    · exact State.voice_linkZero
  refine ⟨_, rfl, ?_⟩
  have hset {u : State} (hu : (u.port f n).voice = (s.port f n).voice) :
      (((u.updPort f n Port.begin).linkSet f n lsActive St.OK).port f n).voice = (s.port f n).voice := by
    rw [State.voice_linkSet]
    exact Eq.trans (State.voice_updPort (fun _ => rfl)) hu
  split
  · exact hset hstart
  · rw [State.voice_laneKept (by rw [Port.stop_of_voice (hset hstart)]; exact h)]
    exact hset hstart

theorem State.waiting_linkGo : ((s.linkGo f n).port f n).waiting = (s.port f n).waiting := by
  rw [State.linkGo]
  split
  · rename_i hgo
    have hloud : (s.port f n).stop.silent = false := by
      rw [Bool.and_eq_true, Bool.not_eq_true'] at hgo
      exact hgo.2
    obtain ⟨t, ht, hv⟩ := State.linkActivate_voice (f := f) (n := n) hloud
    rw [ht, State.waiting_txModeUpdate, Port.waiting_of_voice hv]
  · rfl

/-- A transmitter that has stopped is not started by its link. -/
theorem State.stop_linkGo (h : (s.port f n).stop ≠ .none) : ((s.linkGo f n).port f n).stop = (s.port f n).stop := by
  rw [State.linkGo]
  split
  · rename_i hgo
    have hloud : (s.port f n).stop.silent = false := by
      rw [Bool.and_eq_true, Bool.not_eq_true'] at hgo
      exact hgo.2
    obtain ⟨t, ht, hv⟩ := State.linkActivate_voice (f := f) (n := n) hloud
    rw [ht, State.txModeUpdate_of_stopped (by rw [Port.stop_of_voice hv]; exact h), Port.stop_of_voice hv]
  · rfl

theorem Port.voice_still (P : Port) : P.still.voice = P.voice := rfl

theorem Port.voice_emptied (P : Port) : ({ P.still with waiting := [] } : Port).voice = (P.stop, []) := rfl

theorem State.voice_laneFlush : ((s.laneFlush f n).port f n).voice = ((s.port f n).stop, []) := by
  rw [← Port.voice_still, State.still_laneFlush, Port.voice_emptied]

/-- Nothing waits for a transmitter that resumes (R319, R321). -/
theorem State.waiting_txResume : ((s.txResume f n).port f n).waiting = [] := by
  rw [State.txResume]
  have hflush := congrArg Prod.snd (State.voice_laneFlush (s := s.updPort f n (fun P => { P with stop := .idle })) (f := f) (n := n))
  rw [State.waiting_linkGo, State.waiting_txModeUpdate, State.port_emit, State.port_updPort]
  exact hflush

/-- IDLE groups after a pause: the transmitter is idle, and nothing waits (R319). -/
theorem State.voice_idleBegin (ns : Nat) :
    (((((s.updPort f n (fun P => { P with stop := .idle })).laneFlush f n).idleFor f n ns).linkGo f n).port f n).voice = (.idle, []) := by
  have hidle : ((((s.updPort f n (fun P => { P with stop := .idle })).laneFlush f n).idleFor f n ns).port f n).voice = (.idle, []) := by
    rw [Port.voice_of_still (State.still_idleFor _ _ _ _), State.voice_laneFlush, State.port_updPort]
  rw [Port.voice, State.waiting_linkGo, State.stop_linkGo]
  · exact hidle
  · rw [show ∀ P : Port, P.stop = P.voice.1 from fun _ => rfl, hidle]
    decide

theorem State.stop_idleBegin (ns : Nat) :
    (((((s.updPort f n (fun P => { P with stop := .idle })).laneFlush f n).idleFor f n ns).linkGo f n).port f n).stop = .idle :=
  Port.stop_of_voice_eq (State.voice_idleBegin ns)

theorem State.waiting_idleBegin (ns : Nat) :
    (((((s.updPort f n (fun P => { P with stop := .idle })).laneFlush f n).idleFor f n ns).linkGo f n).port f n).waiting = [] :=
  Port.waiting_of_voice_eq (State.voice_idleBegin ns)

end Sys2Proof.Machine
end


section
/-! The commands of lanes: failures, power, modes, locks and changes (R269, R275 to R279, R303 to R323). -/

namespace Sys2Proof.Machine

set_option Elab.async false

open Sys2Proof

variable {s t : State} {f : FieldId} {n : PortId}

/-! ### Failures -/

theorem State.failed_rxFail (w r : Nat) (b : Bool) : bit ((s.rxFail f n w r b).port f n).rx.failed w = true := by
  rw [State.rxFail]
  split
  · assumption
  · have hring (t : State) : ((if r = 0 then t.ringLost f n (w + 256) else t.updField f (fun F => { F with
        hlt := { F.hlt with ringEnv := SMap.erase F.hlt.ringEnv (16 * n.val + w + 256) } })).port f n) = t.port f n := by
      split
      · exact State.port_ringLost _
      · exact State.port_updField_same _ _ _ _ _ (fun _ => rfl)
    dsimp only
    rw [Port.rx_of_lanes (State.lanes_laneCheck _ _ _ _ _ _), Port.rx_of_lanes (State.lanes_laneSend _ _ _ _ _), hring,
      State.port_laneInjected, State.port_raise, State.port_setRx]
    exact bit_setBit _ _

theorem State.failed_hostFail (rx : Bool) {w r : Nat} (b : Bool) (hw : w < 9) : bit (s.hostFail rx w r b).hub.hostTx.failed w = true := by
  rw [State.hostFail]
  split
  · rename_i h
    exact h.resolve_right (by omega)
  · rw [LaneTx.failed_of_slots (State.slots_hostActs _ _)]
    exact LaneTx.fail_failed _ _

/-! ### Link states -/

theorem State.link_laneSend (ty arg : Nat) : (s.laneSend f n ty arg).link f n = s.link f n :=
  (State.laneSend_only (F := fun _ => True) (P := fun _ => True) s f n ty arg (Fits.refl _) trivial (.refl _ _ _ s)).freg
    Reg.RTE_LINK_STATUS.STATE (by decide +kernel) f n 0

/-- A link that retrains is not ACTIVE after. -/
theorem State.link_linkRetrain : (s.linkRetrain f n).link f n ≠ lsActive := by
  rw [State.linkRetrain]
  split
  · assumption
  · dsimp only
    split
    · rw [State.link_linkSet _ _ _ _ _ (by decide)]
      decide
    · rw [State.link_laneSend, State.link, State.freg_updPort]
      show State.link _ f n ≠ lsActive
      rw [State.link_linkSet _ _ _ _ _ (by decide)]
      decide

theorem State.pending_linkDesync : ((s.linkDesync f n).port f n).rx.pending = none := by
  rw [State.linkDesync, Port.rx_of_lanes (State.lanes_linkRetrain _ _ _ _), State.port_protoErr, State.port_updPort]

/-- Whether a port has light is not changed by what is locked on it. -/
theorem State.portLit_updPort {g : Port → Port} (hg : ∀ P, (g P).shutter = P.shutter) :
    (s.updPort f n g).portLit f n = s.portLit f n := by
  rw [State.portLit, State.port_updPort, hg, State.engineDark, State.freg_updPort]
  rfl

theorem State.link_updPort (g : Port → Port) : (s.updPort f n g).link f n = s.link f n := State.freg_updPort _ _ _ _ _ _ _ _

/-! ### Power -/

theorem ofSigned_toSigned {c : Nat} (h : c < 256) : ofSigned 8 (toSigned 8 c) = c := by
  rw [ofSigned, toSigned]
  split
  · omega
  · omega

/-- The mean of one measurement is that measurement. -/
theorem powerMean_one {c : Nat} (pick : Nat) (h : c < 256) : (powerMean [c] pick).1 = c := by
  by_cases hc : c = 0x80
  · subst hc
    rfl
  · have hfilter : [c].filter (fun c => c ≠ 0x80) = [c] := List.filter_eq_self.mpr (fun x hx => by
      rw [List.mem_singleton] at hx
      rw [hx]
      exact decide_eq_true hc)
    rw [powerMean, hfilter]
    simp [ofSigned_toSigned h]

/-- What one element of a list sets, and the others leave, is as it set it. -/
theorem foldl_set {σ α β : Type} (φ : σ → β) (l : List α) (g : σ → α → σ) (v : β) (a : α) (ha : a ∈ l)
    (hset : ∀ t, φ (g t a) = v) (hkeep : ∀ t b, b ≠ a → φ (g t b) = φ t) (s : σ) : φ (l.foldl g s) = v := by
  have hv : ∀ (l : List α) (t : σ), φ t = v → φ (l.foldl g t) = v := by
    intro l
    induction l with
    | nil => exact fun t h => h
    | cons b l ih =>
      intro t h
      refine ih _ ?_
      by_cases hb : b = a
      · rw [hb, hset]
      · rw [hkeep t b hb, h]
  induction l generalizing s with
  | nil => exact absurd ha List.not_mem_nil
  | cons b l ih =>
    by_cases hb : b = a
    · exact hv l _ (by rw [hb, hset])
    · exact ih ((List.mem_cons.mp ha).resolve_left (fun h => hb h.symm)) _

/-- The measurements taken: those told, but for the one the point RX_POWER puts in (R279, R697). -/
def State.powersRead (s : State) (f : FieldId) (n : PortId) (l : List Nat) : List Nat :=
  (List.range 16).map (fun w =>
    if s.injArmedAt f injLink 5 n && decide (bits (s.injArg f injLink) 0 4 = w) then bits (s.injArg f injLink) 4 8
    else l.getD w 0x80 % 256)

/-- One wavelength's mean is shown. -/
def State.powerShow (f : FieldId) (n : PortId) (hist : List (List Nat)) (t : State) (w : Nat) : State :=
  (if (powerMean (hist.map (fun r => nth r w)) (Config.freeValue t.free)).2 then t.draw.2 else t).fset f
    Reg.HDL_LANE_POWER.RX_PWR (powerMean (hist.map (fun r => nth r w)) (Config.freeValue t.free)).1 n w

/-- The state whose port the measurements enter. -/
def State.powerAt (s : State) (f : FieldId) (n : PortId) : State :=
  if s.injArmedAt f injLink 5 n then (s.injFire f injLink).healthInput f true else s

theorem execRxPowerMeasure_eq (l : List Nat) (hd : s.svc f ≠ svcDark) : execRxPowerMeasure f n l s =
    finish ((List.range 16).foldl (State.powerShow f n ((s.powersRead f n l :: ((s.powerAt f n).port f n).rx.power).take 10))
      ((s.powerAt f n).updPort f n (fun P => { P with rx := { P.rx with
        power := (s.powersRead f n l :: ((s.powerAt f n).port f n).rx.power).take 10 } }))) :=
  State.inRim_of_ne hd

theorem State.powersRead_of_unarmed (l : List Nat) (h : s.injArmedAt f injLink 5 n = false) :
    s.powersRead f n l = (List.range 16).map (fun w => l.getD w 0x80 % 256) := by
  rw [State.powersRead, h]
  rfl

theorem State.port_powerAt : (s.powerAt f n).port f n = s.port f n := by
  rw [State.powerAt]
  split
  · rw [State.port_healthInput, State.port_injFire]
  · rfl

theorem State.port_powerShow (hist : List (List Nat)) (t : State) (w : Nat) : (t.powerShow f n hist w).port f n = t.port f n := by
  rw [State.powerShow, State.port_fset]
  split
  · rfl
  · rfl

theorem State.freg_powerShow (hist : List (List Nat)) (t : State) (w : Nat) (k : RegField) (m j : Nat)
    (h : Reg.HDL_LANE_POWER.RX_PWR.key n w ≠ k.key m j) : (t.powerShow f n hist w).freg f k m j = t.freg f k m j := by
  rw [State.powerShow, State.freg_fset_ne _ _ _ _ _ _ _ _ _ h]
  split
  · rfl
  · rfl

/-- The history of a port once measurements have entered it. -/
theorem State.power_foldl (hist : List (List Nat)) (t : State) :
    (((List.range 16).foldl (State.powerShow f n hist) t).port f n).rx.power = (t.port f n).rx.power :=
  congrArg (fun P : Port => P.rx.power) (foldl_same (fun t : State => t.port f n) _ _ (fun t w _ => State.port_powerShow hist t w) t)

/-- The mean shown of a wavelength measured once. -/
theorem State.power_foldl_one (ms : List Nat) (t : State) {w : Nat} (hw : w < 16) (hm : nth ms w < 256) :
    ((List.range 16).foldl (State.powerShow f n [ms]) t).freg f Reg.HDL_LANE_POWER.RX_PWR n w = nth ms w := by
  refine foldl_set (fun t : State => t.freg f Reg.HDL_LANE_POWER.RX_PWR n w) _ _ _ w (List.mem_range.mpr hw) (fun t => ?_) (fun t v hv => ?_) t
  · rw [State.powerShow, State.freg_fset]
    exact (Nat.mod_eq_of_lt (by rw [List.map_cons, List.map_nil, powerMean_one _ hm]; exact hm)).trans (powerMean_one _ hm)
  · exact State.freg_powerShow _ _ _ _ _ _ (RegField.key_index_ne _ _ (by decide) hv)

end Sys2Proof.Machine
end


section
/-! What the commands of lanes leave (R269, R275 to R279, R303 to R323). -/

namespace Sys2Proof.Machine

set_option Elab.async false

open Sys2Proof

variable {s t : State} {f : FieldId} {n : PortId}

theorem nth_map_range {k w : Nat} (g : Nat → Nat) (h : w < k) : nth ((List.range k).map g) w = g w := by
  rw [nth, List.getD_eq_getElem?_getD, List.getElem?_map, List.getElem?_range h]
  rfl

theorem bits_lt (x i k : Nat) : bits x i k < 2 ^ k := Nat.mod_lt _ (Nat.two_pow_pos k)

/-- A far end's report shows each of its powers (R279, R316). -/
theorem freg_powerReport (part : Fin 4) (l : List Nat) (i : Fin 6) (h : 6 * part.val + i.val < 16) :
    ((List.range 6).foldl (fun (t : State) i => if 6 * part.val + i < 16 then
      t.fset f Reg.HDL_LANE_POWER.FAR_PWR (l.getD i 0x80) n (6 * part.val + i) else t) s).freg f Reg.HDL_LANE_POWER.FAR_PWR n
        (6 * part.val + i) = l.getD i 0x80 % 256 := by
  refine foldl_set (fun t : State => t.freg f Reg.HDL_LANE_POWER.FAR_PWR n (6 * part.val + i)) _ _ _ i.val
    (List.mem_range.mpr i.isLt) (fun t => ?_) (fun t j hj => ?_) s
  · rw [if_pos h, State.freg_fset]
    rfl
  · split
    · exact State.freg_fset_ne _ _ _ _ _ _ _ _ _ (RegField.key_index_ne _ _ (by decide) (by omega))
    · rfl

/-- A port's lock counts where its link locks (R336). -/
theorem State.link_linkLocked : (s.linkLocked f n).link f n =
    if s.link f n = lsLock ∧ 8 ≤ popcount 16 (s.port f n).lock ∧ s.portLit f n = true then lsBeacon else s.link f n := by
  rw [State.linkLocked]
  split
  · exact State.link_linkSet _ _ _ _ _ (by decide)
  · rfl

theorem Port.lock_of_still {P Q : Port} (h : P.still = Q.still) : P.lock = Q.lock := by
  have hl : P.still.lock = Q.still.lock := by rw [h]
  exact hl

theorem State.lock_linkLocked : ((s.linkLocked f n).port f n).lock = (s.port f n).lock := by
  rw [State.linkLocked]
  split
  · exact Port.lock_of_still (State.still_linkSet _ _ _ _ _ _)
  · rfl

theorem Port.fallback_of_mute {P Q : Port} (h : P.mute = Q.mute) : P.fallback = Q.fallback := by
  have hl : P.mute.fallback = Q.mute.fallback := by rw [h]
  exact hl

theorem State.fallback_txModeUpdate : ((s.txModeUpdate f n).port f n).fallback = (s.port f n).fallback := by
  rw [State.txModeUpdate]
  split
  · rfl
  · have h := Port.fallback_of_mute (State.mute_changeSend s f n lmMode (s.txModeWanted f n))
    rw [State.port_updPort, State.port_fset, State.port_emit]
    exact h

theorem State.modeReq_txModeUpdate :
    (s.txModeUpdate f n).freg f Reg.HDL_PORT_CTL.TX_MODE_REQ n = s.freg f Reg.HDL_PORT_CTL.TX_MODE_REQ n :=
  (State.txModeUpdate_only (F := fun _ => True) (P := fun _ => True) s f n (Fits.refl _) trivial (.refl _ _ _ s)).freg
    Reg.HDL_PORT_CTL.TX_MODE_REQ (by decide +kernel) f n 0

theorem b2n_eq (b : Bool) : b2n b = if b then 1 else 0 := rfl

/-- IDLE groups follow a SWITCH group (R319). -/
theorem leaves_modeChangeResume_idle (hd : s.svc f ≠ svcDark) (h : (s.port f n).stop = .relock) :
    Leaves (exec (.modeChangeResume f n false) s) (fun u =>
      u = (((s.updPort f n (fun P => { P with stop := .idle })).laneFlush f n).idleFor f n 10000).linkGo f n ∧
      (u.port f n).stop = .idle ∧ (u.port f n).waiting = []) := by
  have hexec : execModeChangeResume f n false s = finish ((((s.updPort f n (fun P => { P with stop := .idle })).laneFlush f n).idleFor
      f n 10000).linkGo f n) := by
    refine (State.inRim_of_ne hd).trans ?_
    rw [h]
    exact if_neg Bool.false_ne_true
  exact Leaves.finish hexec ⟨rfl, State.stop_idleBegin 10000, State.waiting_idleBegin 10000⟩

/-- Settles O22: each command by its branches; what is left of lanes, stops and links by the rules for each operation of a port;
the codewords of a group by the fold that counts them. -/
theorem laneCommandsComplete : Obligations.LaneCommandsComplete := by
  refine ⟨?_, ?_, ?_, ?_, ?_, ?_, ?_, ?_, ?_, ?_, ?_, ?_, ?_, ?_, ?_, ?_, ?_, ?_, ?_, ?_, ?_, ?_, ?_, ?_, ?_, ?_, ?_, ?_, ?_, ?_⟩
  case _ =>
    intro s f n w r hd hsus h
    have hrule : (s.rxSuspended f n || (decide (4 ≤ r.val ∧ r.val ≤ 6) &&
        ((s.port f n).rx.cal = some w.val || decide (s.link f n = lsQualify)))) = false := by
      rw [hsus, Bool.false_or, Bool.and_eq_false_iff]
      rcases h with h | h | ⟨hcal, hq⟩
      · exact .inl (decide_eq_false (by omega))
      · exact .inl (decide_eq_false (by omega))
      · exact .inr (by rw [decide_eq_false hcal, decide_eq_false hq]; rfl)
    have hexec : s.wavelengthFail f n true w r = finish (s.rxFail f n w r) := by
      rw [State.wavelengthFail, if_pos rfl]
      exact if_neg (by rw [hrule]; exact Bool.false_ne_true)
    exact Leaves.finish ((State.inPort_of_ne n hd).trans hexec) ⟨rfl, State.failed_rxFail _ _ _⟩
  case _ =>
    intro s f n w r h
    by_cases hd : s.svc f = svcDark
    · exact Leaves.next (State.inPort_of_dark n hd) rfl
    · refine Leaves.next ((State.inPort_of_ne n hd).trans ?_) rfl
      rw [State.wavelengthFail, if_pos rfl]
      refine if_pos ?_
      rcases h.resolve_left hd with h | ⟨hlo, hhi, hcal | hq⟩
      · rw [h, Bool.true_or]
      · rw [decide_eq_true ⟨hlo, hhi⟩, decide_eq_true hcal, Bool.true_or, Bool.and_true, Bool.or_true]
      · rw [decide_eq_true ⟨hlo, hhi⟩, decide_eq_true hq, Bool.or_true, Bool.and_true, Bool.or_true]
  case _ =>
    intro s f n w r hd x hx
    rw [List.mem_cons, List.mem_singleton] at hx
    have hfailed := State.failed_txFail (s := s) (f := f) (n := n) w r false
    rcases hx with rfl | rfl
    · have hexec : s.wavelengthFail f n false w r = finish (s.txFail f n w r) := if_neg Bool.false_ne_true
      exact Leaves.finish ((State.inPort_of_ne n hd).trans hexec) ⟨rfl, hfailed⟩
    · exact Leaves.finish (State.inRim_of_ne hd) ⟨rfl, hfailed⟩
  case _ =>
    intro s rx w r hw
    have hexec : exec (.wavelengthFail none rx w r) s = finish (s.hostFail rx w r) := rfl
    exact Leaves.finish hexec ⟨rfl, State.failed_hostFail _ _ hw⟩
  case _ =>
    intro s rx w r hw
    have hexec : exec (.wavelengthFail none rx w r) s = finish (s.hostFail rx w r) := rfl
    exact Leaves.finish hexec (if_pos (.inr hw))
  case _ =>
    intro s f n l hd hinj
    have hread := State.powersRead_of_unarmed l hinj
    refine Leaves.finish (execRxPowerMeasure_eq l hd) ⟨?_, fun w hp => ?_⟩
    · rw [State.power_foldl, State.port_updPort, State.port_powerAt, hread]
    · have hone : (s.powersRead f n l :: ((s.powerAt f n).port f n).rx.power).take 10 = [s.powersRead f n l] := by
        rw [State.port_powerAt, hp]
        rfl
      have hval : nth (s.powersRead f n l) w = l.getD w 0x80 % 256 := by
        rw [hread, nth_map_range _ w.isLt]
      rw [hone, State.power_foldl_one _ _ w.isLt (by rw [hval]; exact Nat.mod_lt _ (by decide)), hval]
  case _ =>
    intro s f n l hd hinj
    have hkeep (hist : List (List Nat)) (t : State) (k : RegField) (m : Nat)
        (hk : Reg.HDL_LANE_POWER.RX_PWR.place % 0x10000000000 ≠ k.place % 0x10000000000) :
        ((List.range 16).foldl (State.powerShow f n hist) t).freg f k m = t.freg f k m :=
      foldl_same (fun t : State => t.freg f k m) _ _ (fun t w _ => State.freg_powerShow _ _ _ _ _ _ (RegField.key_ne _ _ _ _ _ _ hk)) t
    have hat : s.powerAt f n = (s.injFire f injLink).healthInput f true := by
      rw [State.powerAt, if_pos hinj]
    refine Leaves.finish (execRxPowerMeasure_eq l hd) ⟨?_, ?_, ?_⟩
    · rw [hkeep _ _ _ _ (by decide), State.freg_updPort, hat, State.freg_healthInput, State.injFire,
        State.freg_fset_other _ _ _ _ _ _ _ _ _ _ (by decide), State.freg_fset]
      rfl
    · rw [hkeep _ _ _ _ (by decide), State.freg_updPort, hat, State.freg_healthInput, State.injFire, State.freg_fset]
      rfl
    · rw [State.power_foldl, State.port_updPort]
      show some (nth (s.powersRead f n l) _) = _
      rw [State.powersRead, nth_map_range (k := 16) _ (bits_lt _ 0 4), hinj, decide_eq_true rfl]
      rfl
  case _ =>
    intro s f n part l i hd h
    exact Leaves.next (State.inRim_of_ne hd) (freg_powerReport part l i h)
  case _ =>
    intro s f n m hd hm
    refine Leaves.finish ((State.inRim_of_ne hd).trans (if_neg hm)) ⟨?_, ?_, rfl⟩
    · rw [State.modeReq_txModeUpdate, State.freg_updPort, State.freg_fset]
      exact Nat.mod_eq_of_lt m.isLt
    · rw [State.fallback_txModeUpdate, State.port_updPort]
  case _ =>
    intro s f n m h
    by_cases hd : s.svc f = svcDark
    · exact Leaves.next (State.inRim_of_dark hd) rfl
    · exact Leaves.next ((State.inRim_of_ne hd).trans (if_pos (h.resolve_left hd))) rfl
  case _ =>
    intro s f n w hd
    refine Leaves.finish (State.inRim_of_ne hd) ⟨?_, ?_⟩
    · rw [State.lock_linkLocked, State.port_updPort]
    · rw [State.link_linkLocked, State.link_updPort, State.port_updPort]
      refine if_congr (and_congr Iff.rfl (and_congr Iff.rfl (iff_of_eq (congrArg (fun b => b = true)
        (State.portLit_updPort ?_))))) rfl rfl
      exact fun _ => rfl
  case _ =>
    intro s f n w hd h
    refine Leaves.next ((State.inRim_of_ne hd).trans (if_neg ?_)) rfl
    simp only [Bool.and_eq_true, Bool.not_eq_true', decide_eq_true_eq, Option.isSome_iff_ne_none, not_and_or, not_not,
      Bool.not_eq_true, Bool.not_eq_false]
    rcases h with h | h | h | h | h
    · exact .inl (.inl (.inl (.inl h)))
    · exact .inl (.inl (.inl (.inr h)))
    · exact .inl (.inl (.inr h))
    · exact .inl (.inr h)
    · exact .inr h
  case _ =>
    intro s f n w hd hslot hlock hq hsus hcal
    refine Leaves.finish ((State.inRim_of_ne hd).trans (if_pos ?_)) ⟨rfl, ?_⟩
    · rw [hslot, hlock, decide_eq_true hq, hsus, decide_eq_true hcal]
      rfl
    · rw [Port.rx_of_lanes (State.lanes_laneCheck _ _ _ _ _ _)]
      exact State.failed_rxFail _ _ _
  case _ =>
    intro s f n k w hd hk
    refine Leaves.next ((State.inRim_of_ne hd).trans (if_neg hk)) ?_
    rw [State.port_updPort]
  case _ =>
    intro s f n w
    by_cases hd : s.svc f = svcDark
    · exact Leaves.next (State.inRim_of_dark hd) rfl
    · exact Leaves.next ((State.inRim_of_ne hd).trans (if_pos rfl)) rfl
  case _ =>
    intro s f n m hd
    refine Leaves.next (State.inRim_of_ne hd) ?_
    rw [State.port_updPort]
  case _ =>
    intro s f n k w hd hp
    refine Leaves.finish (((State.inRim_of_ne hd).trans (if_pos rfl)).trans ?_) ⟨rfl, ?_⟩
    · rw [State.switchIn]
      dsimp only
      rw [hp]
    · rw [Port.rx_of_lanes (State.lanes_laneCheck _ _ _ _ _ _), State.port_setRx]
  case _ =>
    intro s f n m hd hp
    have hexec : s.switchIn f n = .next ((s.fset f Reg.HDL_PORT_STATUS.RX_MODE m n).updPort f n (fun Q =>
        { Q with rx := { Q.rx with pending := none }, lock := 0, relock := true })) := by
      rw [State.switchIn]
      dsimp only
      rw [hp]
    refine Leaves.next (((State.inRim_of_ne hd).trans (if_pos rfl)).trans hexec) ⟨?_, ?_, ?_, ?_⟩
    · rw [State.freg_updPort, State.freg_fset]
      rfl
    · rw [State.port_updPort]
    · rw [State.port_updPort]
    · rw [State.port_updPort]
  case _ =>
    intro s f n hd hp
    refine Leaves.finish (((State.inRim_of_ne hd).trans (if_pos rfl)).trans ?_) ⟨rfl, State.link_linkRetrain⟩
    rw [State.switchIn]
    dsimp only
    rw [hp]
  case _ =>
    intro s f n w x cw hd hlock hinj hfind
    have hcw : cw ≠ [] := by
      rintro rfl
      exact absurd hfind (by simp)
    obtain ⟨v, u, hu, hv, hfec⟩ := State.fec_groupIn (s := s) (f := f) (n := n) cw w
    rw [State.fecPoint_of_unarmed cw hinj, State.fec_heard hlock hfind, hv] at hfec
    exact Leaves.next (((State.inRim_of_ne hd).trans (if_neg hcw)).trans hu) ⟨congrArg Prod.fst hfec, congrArg Prod.snd hfec⟩
  case _ =>
    intro s f n w cw h
    by_cases hd : s.svc f = svcDark
    · exact Leaves.next (State.inRim_of_dark hd) ⟨rfl, rfl⟩
    · by_cases hcw : cw = []
      · obtain ⟨u, hu, hkeep⟩ := KeepsTo.of_ends (ks := fecRegs) (State.switchIn_only s f n (Fits.refl _) trivial (.refl _ _ _ s))
          (by decide +kernel) (by decide +kernel)
        have hfec := hkeep.fec f n w
        exact Leaves.next (((State.inRim_of_ne hd).trans (if_pos hcw)).trans hu) ⟨congrArg Prod.fst hfec, congrArg Prod.snd hfec⟩
      · obtain ⟨v, u, hu, hv, hfec⟩ := State.fec_groupIn (s := s) (f := f) (n := n) cw w
        rw [State.fec_unheard (h.imp_right State.find_fecPoint), hv] at hfec
        exact Leaves.next (((State.inRim_of_ne hd).trans (if_neg hcw)).trans hu) ⟨congrArg Prod.fst hfec, congrArg Prod.snd hfec⟩
  case _ =>
    intro s f n cw hd hinj hlock hany
    have hcw : cw ≠ [] := by
      rintro rfl
      exact absurd hany Bool.false_ne_true
    obtain ⟨hA, hD⟩ := State.fired_fecPoint hinj hlock hany
    obtain ⟨u, hu, hfires⟩ := State.fired_groupIn (s := s) (f := f) (n := n) cw
    exact Leaves.next (((State.inRim_of_ne hd).trans (if_neg hcw)).trans hu) (hfires.fired hA hD)
  case _ =>
    intro s f n hd hp
    exact Leaves.finish ((State.inRim_of_ne hd).trans (if_pos hp)) ⟨rfl, State.pending_linkDesync, State.link_linkRetrain⟩
  case _ =>
    intro s f n hp
    by_cases hd : s.svc f = svcDark
    · exact Leaves.next (State.inRim_of_dark hd) rfl
    · refine Leaves.next ((State.inRim_of_ne hd).trans (if_neg ?_)) rfl
      rw [hp]
      exact Bool.false_ne_true
  case _ =>
    intro s f n hd h
    refine Leaves.finish ((State.inRim_of_ne hd).trans ?_) ⟨rfl, State.waiting_txResume⟩
    rcases h with h | h
    · rw [h]
      rfl
    · rw [h]
      rfl
  case _ =>
    intro s f n hd h
    exact leaves_modeChangeResume_idle hd h
  case _ =>
    intro s f n b h
    by_cases hd : s.svc f = svcDark
    · exact Leaves.next (State.inRim_of_dark hd) rfl
    · refine Leaves.next ((State.inRim_of_ne hd).trans ?_) rfl
      rcases h with h | h | ⟨h, rfl⟩
      · rw [h]
      · rw [h]
      · rw [h]
        rfl
  case _ =>
    intro s f n b hd
    refine Leaves.next (State.inRim_of_ne hd) ?_
    rw [State.lightPause, State.freg_updPort, State.freg_fset]
    cases b with
    | false => rfl
    | true => rfl
  case _ =>
    intro s f n hd
    refine Leaves.next (State.inRim_of_ne hd) ?_
    rw [State.lightPause, State.freg_updPort, State.freg_fset]
    rfl
  case _ =>
    intro s f n w r k part m l cw b hd x hx
    simp only [List.mem_cons, List.not_mem_nil, or_false] at hx
    rcases hx with rfl | rfl | rfl | rfl | rfl | rfl | rfl | rfl | rfl | rfl | rfl | rfl | rfl
    case inl => exact Leaves.next (State.inPort_of_dark n hd) rfl
    all_goals exact Leaves.next (State.inRim_of_dark hd) rfl

end Sys2Proof.Machine
end


section
/-! An approved link of a fast path whose far end is not READY stays HELD (R339 to R343). -/

namespace Sys2Proof.Machine

set_option Elab.async false

open Sys2Proof

variable {s : State} {f : FieldId} {n : PortId}

/-- A port that gets READY before its far end keeps its link's state. -/
theorem State.link_linkReady_of_far (h : (s.port f n).farReady = false) : (s.linkReady f n).link f n = s.link f n := by
  have hview (t : State) : (t.port f n).mute.farReady = (t.port f n).farReady := rfl
  rw [State.linkReady, State.linkGo]
  split
  next hgo =>
    rw [← hview, State.mute_laneSend, hview, State.port_updPort, h] at hgo
    simp at hgo
  · rw [State.link_laneSend, State.link_updPort]

/-- An approval with a fast path admits the port with no qualification (R343). -/
theorem State.link_linkAdmit_fast (hfast : s.fastPath = true) (h : (s.port f n).farReady = false) :
    (s.linkAdmit f n).link f n = s.link f n := by
  rw [State.linkAdmit, if_pos (.inr hfast), State.link_linkReady_of_far h]

/-- The beacon that port 0 of field 0 has seen: that of a package one step away on U. -/
def swappedBeacon : BeaconId := { port := 0, serial := 0, node := 4, digest := 0 }

/-- Port 0 of field 0 is HELD for a swap, its far end silent so far, and the package skips qualification. -/
def heldOnFastPath : State :=
  (((((State.reset.hset Reg.HUB_FIELD_STATE.STATE svcReady 0 0).hset Reg.SEED_STAGE.FAST_PATH 1).fset 0
    Reg.RTE_LINK_STATUS.STATE lsHeld).fset 0 Reg.RTE_DISC_STATUS.OUTCOME dSwapOther).fset 0
    Reg.RTE_PLAN_HDR.SIZE_U 2).updPort 0 0 (fun P => { P with seen := some swappedBeacon })

/-- The approval of that port leaves its link HELD. -/
theorem exec_discApprove_heldOnFastPath :
    ∃ u, exec (.discApprove 0 1) heldOnFastPath = .next u ∧ u.link 0 0 = lsHeld := by
  have hheld : heldOnFastPath.link 0 0 = lsHeld := by decide +kernel
  have hexec : exec (.discApprove 0 1) heldOnFastPath =
      finish ((heldOnFastPath.updPort 0 0 (fun P => { P with approved := some swappedBeacon })).linkAdmit 0 0) := by
    have happrove : heldOnFastPath.discApprove 0 0 =
        (heldOnFastPath.updPort 0 0 (fun P => { P with approved := some swappedBeacon })).linkAdmit 0 0 := by
      have hseen : (heldOnFastPath.port 0 0).seen = some swappedBeacon := by decide +kernel
      rw [State.discApprove, if_neg (by decide +kernel)]
      dsimp only
      rw [hseen]
      exact if_pos (by decide +kernel)
    have hsvc : heldOnFastPath.svc 0 ≠ svcDark := by decide +kernel
    refine (State.inRim_of_ne hsvc).trans ?_
    rw [if_neg (by decide +kernel), ← happrove]
    rfl
  refine ⟨_, hexec, ?_⟩
  have hkeep := State.drain_keeps (ks := [Reg.RTE_LINK_STATUS.STATE])
    ((heldOnFastPath.updPort 0 0 (fun P => { P with approved := some swappedBeacon })).linkAdmit 0 0) (by decide +kernel)
  refine (hkeep _ (List.mem_singleton_self _) 0 0 0).trans ?_
  refine (State.link_linkAdmit_fast (by decide +kernel) (by decide +kernel)).trans ?_
  rw [State.link_updPort, hheld]

/-- Refutes O24: a port that is approved while the fast path skips its qualification, and whose far end has not yet
reported READY, only reports its own READY: its link stays HELD. -/
theorem not_linkStateCommandsComplete : ¬ Obligations.LinkStateCommandsComplete := by
  unfold Obligations.LinkStateCommandsComplete
  intro h
  obtain ⟨-, -, -, -, -, -, -, -, -, -, -, -, -, -, -, -, -, -, -, -, -, -, -, -, -, -, -, -, -, -, -, -, -, -, -, -, -, h, -⟩ := h
  have hleft := h heldOnFastPath 0 0 1 swappedBeacon (by decide +kernel) (by decide +kernel) (by decide +kernel)
    (by decide +kernel) (.inl (by decide +kernel)) (by decide +kernel) (by decide +kernel) (by decide +kernel) (by decide +kernel)
  obtain ⟨u, hu, hlink⟩ := exec_discApprove_heldOnFastPath
  obtain ⟨v, hv, -, hne⟩ := hleft
  have hkeep : u.link 0 0 = v.link 0 0 := by
    rcases hv with hv | hv
    · rw [Host.Outcome.next.inj (hu.symm.trans hv)]
    · rw [Host.Outcome.next.inj (hu.symm.trans hv)]
      exact State.drain_keeps (ks := [Reg.RTE_LINK_STATUS.STATE]) v (by decide +kernel) _ (List.mem_singleton_self _) 0 0 0
  exact hne (hkeep.symm.trans hlink)

end Sys2Proof.Machine

end


section
/-! What flits leave at a port: those received, and the flit of a flit slot (R326 to R334). -/

namespace Sys2Proof.Machine

set_option Elab.async false

open Sys2Proof

variable {s t : State} {f : FieldId} {n : PortId}

/-! ### Flits received -/

@[simp] theorem State.freg_nakCall (h : FieldId) (k : RegField) (m i : Nat) : (s.nakCall f n).freg h k m i = s.freg h k m i := by
  rw [State.nakCall]
  split
  · rfl
  · exact State.freg_updPort _ _ _ _ _ _ _ _

/-- A protocol error counts (R348). -/
theorem State.freg_protoErr (kind : Nat) :
    (s.protoErr f n kind).freg f Reg.RTE_LINK_CNT.PROTO_ERR n = satAdd 16 (s.freg f Reg.RTE_LINK_CNT.PROTO_ERR n) 1 :=
  ((State.raiseLimited_only (F := fun _ => True) (P := fun _ => True) _ f _ _ _ _ (Fits.refl _) trivial (.refl _ _ _ _)).freg
    Reg.RTE_LINK_CNT.PROTO_ERR (by decide) f n 0).trans (State.freg_fcount _ _ _ _ _ _)

/-- Acknowledgements and credits leave the SEQ expected (R325, R332). -/
theorem State.exp_flitControl (x : Flit) : ((s.flitControl f n x).port f n).exp = (s.port f n).exp := by
  have hacked (P : Port) (a : Nat) : (P.acked a).exp = P.exp := rfl
  rw [State.flitControl, State.creditIn]
  split
  · rw [State.port_fset, State.port_updPort, State.port_updPort, hacked]
  · rw [State.port_fset, State.port_updPort, State.port_updPort, hacked]

/-- A flit accepted moves EXP on and counts (R326). -/
theorem State.exp_flitAccept (x : Flit) :
    (((s.flitControl f n x).flitAccept f n x).port f n).exp = ((s.port f n).exp + 1) % 0x4000 := by
  rw [State.flitAccept, State.port_fwrap, State.port_updPort]
  exact congrArg (fun e => (e + 1) % 0x4000) (State.exp_flitControl x)

theorem State.rxFlits_flitAccept (x : Flit) : ((s.flitControl f n x).flitAccept f n x).freg f Reg.RTE_LINK_CNT.RX_FLITS n =
    (s.freg f Reg.RTE_LINK_CNT.RX_FLITS n + 1) % 2 ^ 48 := by
  have hkeep := (State.flitControl_only (F := fun _ => True) (P := fun _ => True) s f n x (Fits.refl _) trivial
    (.refl _ _ _ s)).freg Reg.RTE_LINK_CNT.RX_FLITS (by decide) f n 0
  rw [State.flitAccept, State.freg_fwrap, State.freg_updPort, hkeep]
  rfl

theorem State.crcErr_flitBad :
    (s.flitBad f n).freg f Reg.RTE_LINK_CNT.CRC_ERR n = (s.freg f Reg.RTE_LINK_CNT.CRC_ERR n + 1) % 2 ^ 32 := by
  rw [State.flitBad, State.freg_nakCall, State.freg_fwrap]
  rfl

/-! ### Groups that carry no flit more (R313) -/

/-- A port but for its credits, its arbitration, its stream and what waits to be sent: the replay layer stands in it. -/
def Port.line (P : Port) : Port :=
  { P with
    freeing := [], freed := [], reported := [], waited := [], code := CodeTx.init [] 0, arb := Arb.reset, txq := [] }

theorem State.line_updPort {g : Port → Port} (hg : ∀ P, (g P).line = P.line) :
    ((s.updPort f n g).port f n).line = (s.port f n).line := by
  rw [State.port_updPort, hg]

/-- From s to t a port's stream moves on, messages leave, and nothing else of port and registers changes. -/
structure Streams (f : FieldId) (n : PortId) (s t : State) : Prop where
  line : (t.port f n).line = (s.port f n).line
  freg : ∀ h k m i, t.freg h k m i = s.freg h k m i
  out : ∃ l, t.out = s.out ++ l

theorem Streams.refl (s : State) : Streams f n s s := ⟨rfl, fun _ _ _ _ => rfl, [], (List.append_nil _).symm⟩

theorem Streams.trans {u : State} (h : Streams f n s t) (h' : Streams f n t u) : Streams f n s u := by
  obtain ⟨hport, hfreg, l, hout⟩ := h
  obtain ⟨hport', hfreg', l', hout'⟩ := h'
  refine ⟨hport'.trans hport, fun h k m i => (hfreg' h k m i).trans (hfreg h k m i), l ++ l', ?_⟩
  rw [hout', hout, List.append_assoc]

theorem Streams.updPort {g : Port → Port} (hg : ∀ P, (g P).line = P.line) : Streams f n s (s.updPort f n g) :=
  ⟨State.line_updPort hg, fun _ _ _ _ => State.freg_updPort _ _ _ _ _ _ _ _, [], (List.append_nil _).symm⟩

theorem Streams.emit (o : Output) : Streams f n s (s.emit o) := ⟨rfl, fun _ _ _ _ => rfl, [o], rfl⟩

/-- A group that its stream fills carries no flit more (R313). -/
theorem Streams.groupOut (b : Bool)
    (hfull : groupBits (slotsIn 15 (s.port f n).code.out).length ≤ 8 * (s.port f n).code.stream.length - (s.port f n).code.skip) :
    Streams f n s (s.groupOut f n false b) := by
  have hnone (c : Bool) : (if !c then 0 else if false then
        (groupBits (slotsIn 15 (s.port f n).code.out).length - (8 * (s.port f n).code.stream.length - (s.port f n).code.skip)) / 2048
      else (groupBits (slotsIn 15 (s.port f n).code.out).length -
        (8 * (s.port f n).code.stream.length - (s.port f n).code.skip) + 2047) / 2048) = 0 := by
    rw [Nat.sub_eq_zero_of_le hfull]
    cases c <;> rfl
  rw [State.groupOut]
  split
  · exact .refl s
  · dsimp only
    rw [hnone]
    refine Streams.trans ?_ (Streams.emit _)
    exact Streams.updPort (s := s) (fun _ => rfl)

theorem Streams.streamFlit (bs : List Byte) : Streams f n s (s.streamFlit f n bs) := by
  have hjoin : Streams f n s (s.updPort f n (fun P => { P with code := { P.code with stream := P.code.stream ++ bs } })) :=
    .updPort fun _ => rfl
  rw [State.streamFlit]
  split
  next h => exact hjoin.trans (.groupOut false h)
  · exact hjoin

/-! ### What a slot brings before its flit (R332, R334, R427) -/

theorem State.line_portStall (v : Nat) : ((s.portStall f n v).port f n).line = (s.port f n).line := by
  rw [State.portStall]
  split
  · rw [State.port_congCount, State.port_updPort, State.port_combWaiting]
    rfl
  · rfl

theorem State.line_slotGain : ((s.slotGain f n).port f n).line = (s.port f n).line := by
  rw [State.slotGain]
  refine (foldl_same (fun t : State => (t.port f n).line) _ _ (fun t v _ => State.line_portStall v) _).trans ?_
  rw [State.port_updPort]
  rfl

theorem State.freg_slotGain (k : RegField) (hk : spares [.events, .reg Reg.RTE_COMB_STAT.MERGED, .reg Reg.RTE_COMB_STAT.PEAK, .ports, .router]
    .anyReg k = true) (h : FieldId) (m i : Nat) : (s.slotGain f n).freg h k m i = s.freg h k m i :=
  (State.slotGain_only (F := fun _ => True) (P := fun _ => True) s f n (Fits.refl _) trivial (.refl _ _ _ s)).freg k hk h m i

theorem State.arb_portStall (v : Nat) : ((s.portStall f n v).port f n).arb = (s.port f n).arb := by
  rw [State.portStall]
  split
  · rw [State.port_congCount, State.port_updPort, State.port_combWaiting]
  · rfl

theorem State.arb_slotGain : ((s.slotGain f n).port f n).arb = (s.port f n).arb.tokens (s.arbCtl f) := by
  rw [State.slotGain]
  refine (foldl_same (fun t : State => (t.port f n).arb) _ _ (fun t v _ => State.arb_portStall v) _).trans ?_
  rw [State.port_updPort]

theorem State.arbCtl_slotGain : (s.slotGain f n).arbCtl f = s.arbCtl f := by
  have hkeep (k : RegField) (hk : spares _ .anyReg k = true) := State.freg_slotGain (s := s) (f := f) (n := n) k hk f 0 0
  have hweight : (s.slotGain f n).vcWeight f = s.vcWeight f := by
    funext v
    simp only [State.vcWeight, hkeep Reg.RTE_VC_WEIGHT.W1 (by decide), hkeep Reg.RTE_VC_WEIGHT.W2 (by decide),
      hkeep Reg.RTE_VC_WEIGHT.W3 (by decide), hkeep Reg.RTE_VC_WEIGHT.W4 (by decide), hkeep Reg.RTE_VC_WEIGHT.W5 (by decide),
      hkeep Reg.RTE_VC_WEIGHT.W6 (by decide)]
  rw [State.arbCtl, State.arbCtl, hweight, hkeep Reg.RTE_VC_CTL.FLOOR_EN (by decide), hkeep Reg.RTE_VC_CTL.COMMIT_DUE (by decide),
    hkeep Reg.RTE_VC_WEIGHT.VC0_DIV (by decide), hkeep Reg.RTE_VC_CTL.VC5_FLOOR_DIV (by decide)]

theorem State.vcCredit_portStall (v w : Nat) : (s.portStall f n v).vcCredit f n w = s.vcCredit f n w := by
  have hkeep (k : RegField) (hk : spares _ .anyReg k = true) (i : Nat) := (State.portStall_only (F := fun _ => True) (P := fun _ => True)
    s f n v (Fits.refl _) trivial (.refl _ _ _ s)).freg k hk f n i
  rw [State.vcCredit, State.vcCredit, hkeep Reg.RTE_LINK_CREDIT.RES (by decide), hkeep Reg.RTE_LINK_CREDIT.SHARED (by decide)]

/-- A channel that stalls had no credit and has none: which channels may be sent stays. -/
theorem State.elig_portStall (v : Nat) : (s.portStall f n v).elig f n = s.elig f n := by
  funext w
  have hcredit := State.vcCredit_portStall (s := s) (f := f) (n := n) v w
  rw [State.elig, State.elig, hcredit]
  by_cases h : (s.vcWaits f n v && !s.vcCredit f n v) = true
  · by_cases hw : w = v
    · subst hw
      simp only [Bool.and_eq_true, Bool.not_eq_true'] at h
      rw [h.2, Bool.and_false, Bool.and_false]
    · congr 1
      rw [State.vcWaits, State.vcWaits, State.portStall, if_pos h]
      rw [State.port_congCount, State.port_updPort, State.port_combWaiting]
      dsimp only
      rw [SMap.get_set, if_neg (Ne.symm hw)]
  · rw [State.portStall, if_neg h]

theorem State.elig_slotGain : (s.slotGain f n).elig f n = s.elig f n := by
  rw [State.slotGain]
  refine (foldl_same (fun t : State => t.elig f n) _ _ (fun t v _ => State.elig_portStall v) _).trans ?_
  funext w
  rw [State.elig, State.elig, State.vcWaits, State.vcWaits, State.vcCredit, State.vcCredit, State.port_updPort, State.freg_updPort,
    State.freg_updPort]
  rfl

/-! ### The flit of a slot (R326, R328, R329, R331) -/

/-- What the flit made shows of the flit it is made of. -/
def flitShows (f : FieldId) (n : PortId) (ty : Nat) (x : Flit) (o : Output) : Prop :=
  ∃ z : Flit, z.seq = x.seq ∧ z.payload = x.payload ∧ o = .flit f n ty z

theorem State.out_flitMake (ty : Nat) (x : Flit) (b : Bool) :
    ∃ o, flitShows f n ty x o ∧ (s.flitMake f n ty x b).1.out = s.out ++ [o] := by
  rw [State.flitMake]
  refine ⟨_, ?_, rfl⟩
  refine ⟨_, ?_, ?_, rfl⟩
  · rfl
  · rfl

theorem State.line_flitMake (ty : Nat) (x : Flit) (b : Bool) :
    ((s.flitMake f n ty x b).1.port f n).line = (s.port f n).line := by
  rw [State.flitMake]
  dsimp only
  rw [State.port_emit, State.port_updPort]
  rfl

theorem State.freg_flitMake (ty : Nat) (x : Flit) (b : Bool) (h : FieldId) (k : RegField) (m i : Nat) :
    (s.flitMake f n ty x b).1.freg h k m i = s.freg h k m i := by
  have hemit (t : State) (o : Output) : (t.emit o).freg h k m i = t.freg h k m i := rfl
  rw [State.flitMake]
  dsimp only
  rw [hemit, State.freg_updPort]

/-- A flit that leaves stands among the messages when its bytes have joined the stream. -/
theorem Streams.any_out {ty : Nat} {x : Flit} {o : Output} {q : Output → Bool} (hs : Streams f n s t) (hout : ∃ l, s.out = l ++ [o])
    (ho : flitShows f n ty x o) (hq : ∀ z : Flit, z.seq = x.seq → z.payload = x.payload → q (.flit f n ty z) = true) :
    t.out.any q = true := by
  obtain ⟨-, -, l, hl⟩ := hs
  obtain ⟨l', hl'⟩ := hout
  obtain ⟨z, hseq, hpayload, rfl⟩ := ho
  rw [hl, hl', List.any_append, List.any_append, List.any_cons, hq z hseq hpayload]
  simp

end Sys2Proof.Machine

end


section
/-! The flit that a slot of a port sends (R326, R328, R329, R331, R334, R342). -/

namespace Sys2Proof.Machine

set_option Elab.async false

open Sys2Proof

variable {s t : State} {f : FieldId} {n : PortId}

theorem Port.replayNext_of_line {P Q : Port} (h : P.line = Q.line) : P.replayNext = Q.replayNext :=
  (congrArg Port.replayNext h : P.line.replayNext = Q.line.replayNext)

theorem Port.nakDue_of_line {P Q : Port} (h : P.line = Q.line) : P.nakDue = Q.nakDue :=
  (congrArg Port.nakDue h : P.line.nakDue = Q.line.nakDue)

theorem Port.withheld_of_line {P Q : Port} (h : P.line = Q.line) : P.withheld = Q.withheld :=
  (congrArg Port.withheld h : P.line.withheld = Q.line.withheld)

theorem Port.held_of_line {P Q : Port} (h : P.line = Q.line) : P.held = Q.held :=
  (congrArg Port.held h : P.line.held = Q.line.held)

theorem Port.seq_of_line {P Q : Port} (h : P.line = Q.line) : P.seq = Q.seq :=
  (congrArg Port.seq h : P.line.seq = Q.line.seq)

theorem Port.retrains_of_line {P Q : Port} (h : P.line = Q.line) : P.retrains = Q.retrains :=
  (congrArg Port.retrains h : P.line.retrains = Q.line.retrains)

/-! ### Which flit -/

/-- Whether a NAK goes first (R328). -/
def Port.naks (P : Port) : Bool := P.nakDue && P.withheld.isNone

theorem Port.naks_of_line {P Q : Port} (h : P.line = Q.line) : P.naks = Q.naks :=
  (congrArg Port.naks h : P.line.naks = Q.line.naks)

theorem Port.naks_false {P : Port} (h : P.nakDue = false ∨ P.withheld ≠ none) : P.naks = false := by
  rcases h with h | h
  · rw [Port.naks, h, Bool.false_and]
  · rw [Port.naks, Option.isNone_eq_false_iff.mpr (Option.isSome_iff_ne_none.mpr h), Bool.and_false]

theorem State.flitOf_nak (h : (s.port f n).naks = true) : s.flitOf f n =
    ((s.updPort f n (fun P => { P with nakDue := false })).fcount f Reg.RTE_LINK_CNT.NAKS 1 n).flitMake f n flitNak
      (s.port f n).control false := if_pos h

theorem State.flitOf_replay {h : HeldFlit} (hnak : (s.port f n).naks = false) (hnext : (s.port f n).replayNext = some h)
    (hsends : h.sends < 8) : s.flitOf f n = s.flitReplay f n h := by
  refine (if_neg (Bool.eq_false_iff.mp hnak)).trans ?_
  rw [hnext]
  exact if_neg (Nat.not_le.mpr hsends)

/-- A port that sends no flit again, before its flit is chosen (R334). -/
def State.fresh (s : State) (f : FieldId) (n : PortId) : State :=
  (s.updPort f n (fun P => { P with resend := none })).updPort f n (fun P => { P with
    arb := ((s.port f n).arb.pick (s.arbCtl f) (s.elig f n)).1 })

theorem State.flitOf_new {v : Nat} (hnak : (s.port f n).naks = false) (hnext : (s.port f n).replayNext = none)
    (hroom : (s.port f n).held.length < 8192) (hpick : ((s.port f n).arb.pick (s.arbCtl f) (s.elig f n)).2 = some v) :
    s.flitOf f n = (s.fresh f n).flitNew f n v := by
  refine (if_neg (Bool.eq_false_iff.mp hnak)).trans ?_
  rw [hnext]
  refine (if_neg (Nat.not_le.mpr hroom)).trans ?_
  dsimp only
  rw [hpick]
  rfl

theorem State.flitOf_idle (hnak : (s.port f n).naks = false) (hnext : (s.port f n).replayNext = none)
    (hno : 8192 ≤ (s.port f n).held.length ∨ ((s.port f n).arb.pick (s.arbCtl f) (s.elig f n)).2 = none) :
    s.flitOf f n = (s.updPort f n (fun P => { P with resend := none })).idleFlit f n ∨ s.flitOf f n = (s.fresh f n).idleFlit f n := by
  by_cases hfull : 8192 ≤ (s.port f n).held.length
  · refine .inl ((if_neg (Bool.eq_false_iff.mp hnak)).trans ?_)
    rw [hnext]
    exact if_pos hfull
  · refine .inr ((if_neg (Bool.eq_false_iff.mp hnak)).trans ?_)
    rw [hnext]
    refine (if_neg hfull).trans ?_
    dsimp only
    rw [hno.resolve_left hfull]
    rfl

/-! ### A slot's flit leaves -/

theorem State.portSlot_eq (hlink : s.link f n = lsActive) (hstop : (s.port f n).stop = .none) (hlit : s.portLit f n = true) :
    s.portSlot f n = (s.slotGain f n).portFlit f n := by
  refine if_neg ?_
  rw [hlink, hstop, hlit]
  simp

theorem State.portFlit_eq (h : (s.port f n).spent = false ∨ (s.port f n).naks = true) :
    s.portFlit f n = (s.flitOf f n).1.streamFlit f n (s.flitOf f n).2 := by
  refine if_neg ?_
  change ¬ ((s.port f n).spent && !(s.port f n).naks) = true
  rcases h with h | h
  · rw [h]
    simp
  · rw [h]
    simp

theorem State.portFlit_spent (h : (s.port f n).spent = true) (hnak : (s.port f n).naks = false) :
    s.portFlit f n = s.linkRetrain f n := by
  refine if_pos ?_
  change ((s.port f n).spent && !(s.port f n).naks) = true
  rw [h, hnak]
  rfl

theorem State.freg_crcPoint (k : RegField) (hk : spares [.reg Reg.INJ_PT.ARM, .reg Reg.INJ_PT.DONE] .anyReg k = true) (h : FieldId)
    (m i : Nat) : (s.crcPoint f n).1.freg h k m i = s.freg h k m i :=
  (State.crcPoint_only (F := fun _ => True) (P := fun _ => True) s f n (Fits.refl _) trivial (.refl _ _ _ s)).freg k hk h m i

theorem State.replayed_flitReplay (h : HeldFlit) : (s.flitReplay f n h).1.freg f Reg.RTE_LINK_CNT.REPLAYED n =
    (s.freg f Reg.RTE_LINK_CNT.REPLAYED n + 1) % 2 ^ 32 := by
  rw [State.flitReplay]
  dsimp only
  rw [State.freg_flitMake, State.freg_fwrap, State.freg_crcPoint _ (by decide), State.freg_updPort]
  rfl

theorem State.held_flitReplay (h : HeldFlit) : ((s.flitReplay f n h).1.port f n).held =
    (s.port f n).held.map (fun x => if x.seq = h.seq then { x with sends := x.sends + 1 } else x) := by
  rw [State.flitReplay]
  dsimp only
  rw [Port.held_of_line (State.line_flitMake _ _ _), State.port_fwrap, State.port_crcPoint, State.port_updPort]

theorem State.out_flitReplay (h : HeldFlit) :
    ∃ o l, flitShows f n flitData h.flit o ∧ (s.flitReplay f n h).1.out = l ++ [o] := by
  rw [State.flitReplay]
  dsimp only
  exact (State.out_flitMake _ _ _).imp (fun _ ho => ⟨_, ho⟩)

theorem State.txFlits_flitNew (v : Nat) : (s.flitNew f n v).1.freg f Reg.RTE_LINK_CNT.TX_FLITS n =
    (s.freg f Reg.RTE_LINK_CNT.TX_FLITS n + 1) % 2 ^ 48 := by
  have hbeacons (t : State) (l : Nat) (q r : List TxPacket) : (t.beaconsSent f l q r).freg f Reg.RTE_LINK_CNT.TX_FLITS n =
      t.freg f Reg.RTE_LINK_CNT.TX_FLITS n :=
    (State.beaconsSent_only (F := fun _ => True) (P := fun _ => True) t f l q r (Fits.refl _) trivial (.refl _ _ _ t)).freg _
      (by decide) f n 0
  have hcong (t : State) (l v i d : Nat) : (t.congCount f l v i d).freg f Reg.RTE_LINK_CNT.TX_FLITS n =
      t.freg f Reg.RTE_LINK_CNT.TX_FLITS n := State.freg_updField_same _ _ _ _ _ _ _ (fun _ => rfl)
  rw [State.flitNew]
  dsimp only
  rw [State.freg_flitMake, State.freg_crcPoint _ (by decide), hbeacons, hcong, State.freg_fwrap, State.freg_updPort]
  split
  · rw [State.freg_fset_other _ _ _ _ _ _ _ _ _ _ (by decide)]
    rfl
  · rw [State.freg_fset_other _ _ _ _ _ _ _ _ _ _ (by decide)]
    rfl

theorem State.line_flitNew (v : Nat) :
    ((s.flitNew f n v).1.port f n).seq = ((s.port f n).seq + 1) % 0x4000 ∧
    ((s.flitNew f n v).1.port f n).held.map HeldFlit.seq = (s.port f n).held.map HeldFlit.seq ++ [(s.port f n).seq] := by
  rw [State.flitNew]
  dsimp only
  rw [Port.seq_of_line (State.line_flitMake _ _ _), Port.held_of_line (State.line_flitMake _ _ _), State.port_crcPoint,
    State.port_beaconsSent, State.port_congCount, State.port_fwrap, State.port_updPort]
  dsimp only
  rw [List.map_append]
  split
  · rw [State.port_fset]
    exact ⟨rfl, rfl⟩
  · rw [State.port_fset]
    exact ⟨rfl, rfl⟩

end Sys2Proof.Machine

end


section
/-! What the slots of a port and of a die-to-die link leave (R326, R329, R334, R342, R374, R674). -/

namespace Sys2Proof.Machine

set_option Elab.async false

open Sys2Proof

variable {s t : State} {f : FieldId} {n : PortId}

/-! ### A slot of a port -/

/-- A slot whose port sends a flit leaves that flit, and its bytes in the stream. -/
theorem State.portSlot_streams (hlink : s.link f n = lsActive) (hstop : (s.port f n).stop = .none) (hlit : s.portLit f n = true)
    (h : (s.port f n).spent = false ∨ (s.port f n).naks = true) :
    Streams f n ((s.slotGain f n).flitOf f n).1 (s.portSlot f n) := by
  have hline := State.line_slotGain (s := s) (f := f) (n := n)
  have hspent : ((s.slotGain f n).port f n).spent = (s.port f n).spent := by
    rw [Port.spent, Port.spent, Port.replayNext_of_line hline]
  rw [State.portSlot_eq hlink hstop hlit, State.portFlit_eq (by rwa [hspent, Port.naks_of_line hline])]
  exact .streamFlit _

theorem State.portSlot_naks (hlink : s.link f n = lsActive) (hstop : (s.port f n).stop = .none) (hlit : s.portLit f n = true)
    (hnak : (s.port f n).naks = true) :
    (s.portSlot f n).freg f Reg.RTE_LINK_CNT.NAKS n = satAdd 16 (s.freg f Reg.RTE_LINK_CNT.NAKS n) 1 ∧
    ((s.portSlot f n).port f n).nakDue = false ∧
    (s.portSlot f n).out.any (fun o => match o with | .flit g m ty _ => decide (g = f ∧ m = n ∧ ty = flitNak) | _ => false) = true := by
  have hstream := State.portSlot_streams hlink hstop hlit (.inr hnak)
  rw [State.flitOf_nak (by rwa [Port.naks_of_line State.line_slotGain])] at hstream
  refine ⟨?_, ?_, ?_⟩
  · rw [hstream.freg, State.freg_flitMake, State.freg_fcount, State.freg_updPort, State.freg_slotGain _ (by decide)]
    rfl
  · rw [Port.nakDue_of_line hstream.line, Port.nakDue_of_line (State.line_flitMake _ _ _), State.port_fcount, State.port_updPort]
  · obtain ⟨o, ho, hout⟩ := State.out_flitMake (s := ((s.slotGain f n).updPort f n (fun P => { P with nakDue := false })).fcount f
      Reg.RTE_LINK_CNT.NAKS 1 n) (f := f) (n := n) flitNak ((s.slotGain f n).port f n).control false
    exact hstream.any_out ⟨_, hout⟩ ho (fun z _ _ => decide_eq_true ⟨rfl, rfl, rfl⟩)

theorem Port.replayNext_some {P : Port} {r : Nat} (h : P.resend = some r) : P.replayNext = P.held.find? (fun h => decide (h.seq = r)) := by
  rw [Port.replayNext, h]
  rfl

theorem State.portSlot_replays {r : Nat} {h : HeldFlit} (hlink : s.link f n = lsActive) (hstop : (s.port f n).stop = .none)
    (hlit : s.portLit f n = true) (hnak : (s.port f n).naks = false) (hresend : (s.port f n).resend = some r)
    (hfind : (s.port f n).held.find? (fun h => decide (h.seq = r)) = some h) (hsends : h.sends < 8) :
    (s.portSlot f n).freg f Reg.RTE_LINK_CNT.REPLAYED n = (s.freg f Reg.RTE_LINK_CNT.REPLAYED n + 1) % 2 ^ 32 ∧
    ((s.portSlot f n).port f n).held = (s.port f n).held.map (fun x => if x.seq = r then { x with sends := x.sends + 1 } else x) ∧
    (s.portSlot f n).out.any (fun o => match o with
      | .flit g m ty x => decide (g = f ∧ m = n ∧ ty = flitData ∧ x.seq = r ∧ x.payload = h.payload) | _ => false) = true := by
  have hline := State.line_slotGain (s := s) (f := f) (n := n)
  have hnext := (Port.replayNext_some hresend).trans hfind
  have hseq : h.seq = r := by simpa using List.find?_some hfind
  have hspent : (s.port f n).spent = false := by
    rw [Port.spent, hnext, Option.any_some, decide_eq_false (Nat.not_le.mpr hsends)]
  have hstream := State.portSlot_streams hlink hstop hlit (.inl hspent)
  rw [State.flitOf_replay (by rwa [Port.naks_of_line hline]) (by rwa [Port.replayNext_of_line hline]) hsends] at hstream
  refine ⟨?_, ?_, ?_⟩
  · rw [hstream.freg, State.replayed_flitReplay, State.freg_slotGain _ (by decide)]
  · rw [Port.held_of_line hstream.line, State.held_flitReplay, Port.held_of_line hline, hseq]
  · obtain ⟨o, l, ho, hout⟩ := State.out_flitReplay (s := s.slotGain f n) (f := f) (n := n) h
    exact hstream.any_out ⟨l, hout⟩ ho (fun z hz hp => decide_eq_true ⟨rfl, rfl, rfl, hz.trans hseq, hp⟩)

theorem Port.replayNext_none {P : Port} (h : P.resend = none) : P.replayNext = none := by
  rw [Port.replayNext, h]
  rfl

theorem Port.spent_none {P : Port} (h : P.resend = none) : P.spent = false := by
  rw [Port.spent, Port.replayNext_none h]
  rfl

theorem State.pick_slotGain : (((s.slotGain f n).port f n).arb.pick ((s.slotGain f n).arbCtl f) ((s.slotGain f n).elig f n)).2 =
    (((s.port f n).arb.tokens (s.arbCtl f)).pick (s.arbCtl f) (s.elig f n)).2 := by
  rw [State.arb_slotGain, State.arbCtl_slotGain, State.elig_slotGain]

/-- A port's replay layer with no replay under way. -/
def Port.settled (P : Port) : Port := { P.line with resend := none }

theorem Port.seq_of_settled {P Q : Port} (h : P.settled = Q.settled) : P.seq = Q.seq :=
  (congrArg Port.seq h : P.settled.seq = Q.settled.seq)

theorem Port.held_of_settled {P Q : Port} (h : P.settled = Q.settled) : P.held = Q.held :=
  (congrArg Port.held h : P.settled.held = Q.settled.held)

theorem Port.settled_of_line {P Q : Port} (h : P.line = Q.line) : P.settled = Q.settled := by
  rw [Port.settled, Port.settled, h]

theorem State.settled_updPort {g : Port → Port} (hg : ∀ P, (g P).settled = P.settled) :
    ((s.updPort f n g).port f n).settled = (s.port f n).settled := by
  rw [State.port_updPort, hg]

theorem State.settled_fresh : ((s.fresh f n).port f n).settled = (s.port f n).settled := by
  rw [State.fresh, State.port_updPort, State.port_updPort]
  rfl

theorem State.portSlot_new {v : Nat} (hlink : s.link f n = lsActive) (hstop : (s.port f n).stop = .none)
    (hlit : s.portLit f n = true) (hnak : (s.port f n).naks = false) (hresend : (s.port f n).resend = none)
    (hroom : (s.port f n).held.length < 8192)
    (hpick : (((s.port f n).arb.tokens (s.arbCtl f)).pick (s.arbCtl f) (s.elig f n)).2 = some v) :
    ((s.portSlot f n).port f n).seq = ((s.port f n).seq + 1) % 0x4000 ∧
    ((s.portSlot f n).port f n).held.map HeldFlit.seq = (s.port f n).held.map HeldFlit.seq ++ [(s.port f n).seq] ∧
    (s.portSlot f n).freg f Reg.RTE_LINK_CNT.TX_FLITS n = (s.freg f Reg.RTE_LINK_CNT.TX_FLITS n + 1) % 2 ^ 48 := by
  have hline := State.line_slotGain (s := s) (f := f) (n := n)
  have hfresh := (State.settled_fresh (s := s.slotGain f n) (f := f) (n := n)).trans (Port.settled_of_line hline)
  have hseq := Port.seq_of_settled hfresh
  have hheld := Port.held_of_settled hfresh
  have hstream := State.portSlot_streams hlink hstop hlit (.inl (Port.spent_none hresend))
  have hnaks := (Port.naks_of_line hline).trans hnak
  have hnext := (Port.replayNext_of_line hline).trans (Port.replayNext_none hresend)
  have hroomy : ((s.slotGain f n).port f n).held.length < 8192 := by rwa [Port.held_of_line hline]
  rw [State.flitOf_new hnaks hnext hroomy (State.pick_slotGain.trans hpick)] at hstream
  obtain ⟨hnewSeq, hnewHeld⟩ := State.line_flitNew (s := (s.slotGain f n).fresh f n) (f := f) (n := n) v
  refine ⟨?_, ?_, ?_⟩
  · rw [Port.seq_of_line hstream.line, hnewSeq, hseq]
  · rw [Port.held_of_line hstream.line, hnewHeld, hseq, hheld]
  · rw [hstream.freg, State.txFlits_flitNew, State.fresh, State.freg_updPort, State.freg_updPort,
      State.freg_slotGain _ (by decide)]

theorem State.portSlot_idle (hlink : s.link f n = lsActive) (hstop : (s.port f n).stop = .none)
    (hlit : s.portLit f n = true) (hnak : (s.port f n).naks = false) (hresend : (s.port f n).resend = none)
    (hno : 8192 ≤ (s.port f n).held.length ∨ (((s.port f n).arb.tokens (s.arbCtl f)).pick (s.arbCtl f) (s.elig f n)).2 = none) :
    ((s.portSlot f n).port f n).seq = (s.port f n).seq ∧ ((s.portSlot f n).port f n).held = (s.port f n).held ∧
    (s.portSlot f n).out.any (fun o => match o with | .flit g m ty _ => decide (g = f ∧ m = n ∧ ty = flitIdle) | _ => false) = true := by
  have hline := State.line_slotGain (s := s) (f := f) (n := n)
  have hstream := State.portSlot_streams hlink hstop hlit (.inl (Port.spent_none hresend))
  have hidle (a : State) (ha : (a.port f n).settled = (s.port f n).settled)
      (h : Streams f n (a.idleFlit f n).1 (s.portSlot f n)) :
      ((s.portSlot f n).port f n).seq = (s.port f n).seq ∧ ((s.portSlot f n).port f n).held = (s.port f n).held ∧
      (s.portSlot f n).out.any (fun o => match o with | .flit g m ty _ => decide (g = f ∧ m = n ∧ ty = flitIdle) | _ => false) =
        true := by
    have hmade : ((a.idleFlit f n).1.port f n).line = (a.port f n).line := State.line_flitMake _ _ _
    have hleft := (Port.settled_of_line (h.line.trans hmade)).trans ha
    obtain ⟨o, ho, hout⟩ := State.out_flitMake (s := a) (f := f) (n := n) flitIdle (a.port f n).control false
    exact ⟨Port.seq_of_settled hleft, Port.held_of_settled hleft,
      h.any_out ⟨_, hout⟩ ho (fun z _ _ => decide_eq_true ⟨rfl, rfl, rfl⟩)⟩
  have hnaks := (Port.naks_of_line hline).trans hnak
  have hnext := (Port.replayNext_of_line hline).trans (Port.replayNext_none hresend)
  have hsame := Port.settled_of_line hline
  rw [← Port.held_of_line hline, ← State.pick_slotGain] at hno
  rcases State.flitOf_idle hnaks hnext hno with hflit | hflit
  · rw [hflit] at hstream
    refine hidle _ (Eq.trans (State.settled_updPort ?_) hsame) hstream
    intro P
    rfl
  · rw [hflit] at hstream
    exact hidle _ (State.settled_fresh.trans hsame) hstream

/-- The ninth retrain within 10 s fails the link (R342). -/
theorem State.link_linkRetrain_active (hlink : s.link f n = lsActive) : (s.linkRetrain f n).link f n =
    (if 8 ≤ ((s.port f n).retrains.filter (fun t => s.now < t + 10000 * oneMs)).length then lsFailed else lsRetrain) := by
  rw [State.linkRetrain, if_neg (not_not_intro hlink)]
  simp only [List.length_append, List.length_singleton]
  by_cases h : 8 ≤ ((s.port f n).retrains.filter (fun t => s.now < t + 10000 * oneMs)).length
  · rw [if_pos h, if_pos (Nat.succ_le_succ h), State.link_linkSet _ _ _ _ _ (by decide)]
  · rw [if_neg h, if_neg (fun h9 => h (Nat.le_of_succ_le_succ h9)), State.link_laneSend, State.link_updPort,
      State.link_linkSet _ _ _ _ _ (by decide)]

theorem State.portSlot_spent {r : Nat} {h : HeldFlit} (hlink : s.link f n = lsActive) (hstop : (s.port f n).stop = .none)
    (hlit : s.portLit f n = true) (hnak : (s.port f n).naks = false) (hresend : (s.port f n).resend = some r)
    (hfind : (s.port f n).held.find? (fun h => decide (h.seq = r)) = some h) (hsends : 8 ≤ h.sends) :
    (s.portSlot f n).link f n =
      (if 8 ≤ ((s.port f n).retrains.filter (fun t => s.now < t + 10000 * oneMs)).length then lsFailed else lsRetrain) := by
  have hline := State.line_slotGain (s := s) (f := f) (n := n)
  have hspent : ((s.slotGain f n).port f n).spent = true := by
    rw [Port.spent, Port.replayNext_of_line hline, Port.replayNext_some hresend, hfind, Option.any_some, decide_eq_true hsends]
  have hlinked : (s.slotGain f n).link f n = lsActive := (State.freg_slotGain _ (by decide) _ _ _).trans hlink
  have hnow : (s.slotGain f n).now = s.now :=
    (State.slotGain_only (F := fun _ => True) (P := fun _ => True) s f n (Fits.refl _) trivial (.refl _ _ _ s)).same .now f
      (by decide) (.inl (by decide))
  rw [State.portSlot_eq hlink hstop hlit, State.portFlit_spent hspent ((Port.naks_of_line hline).trans hnak),
    State.link_linkRetrain_active hlinked, Port.retrains_of_line hline, hnow]

end Sys2Proof.Machine

end


section
/-! The slots of a die-to-die link, and the commands of flits (R326 to R334, R374, R674). -/

namespace Sys2Proof.Machine

set_option Elab.async false

open Sys2Proof

variable {s t : State} {f : FieldId} {n : PortId}

/-! ### A router's links to its neighbours -/

/-- A router's transmitters to its neighbours: what waits, their arbitration and their rounds. -/
def RouterUnit.ring (R : RouterUnit) : SMap (List TxPacket) × SMap Arb × SMap Nat := (R.d2dtx, R.d2darb, R.d2dlast)

theorem State.router_updField_same (h : FieldId) (g : Field → Field) (hg : ∀ F, (g F).router = F.router) :
    ((s.updField h g).field f).router = (s.field f).router := by
  rw [State.field_updField_if]
  split
  · rename_i e
    rw [hg, e]
  · rfl

theorem State.router_fset (h : FieldId) (k : RegField) (v m i : Nat) : ((s.fset h k v m i).field f).router = (s.field f).router :=
  State.router_updField_same _ _ (fun _ => rfl)

theorem State.router_updRouter (g : RouterUnit → RouterUnit) : ((s.updRouter f g).field f).router = g (s.field f).router := by
  rw [State.updRouter, State.field_updField]

theorem State.router_updRouter_ne {h : FieldId} (g : RouterUnit → RouterUnit) (hne : f ≠ h) :
    ((s.updRouter f g).field h).router = (s.field h).router := by
  rw [State.updRouter, State.field_updField_ne _ _ _ _ hne]

theorem State.ring_updRouter {g : RouterUnit → RouterUnit} (hg : ∀ R, (g R).ring = R.ring) :
    ((s.updRouter f g).field f).router.ring = (s.field f).router.ring := by
  rw [State.router_updRouter, hg]

theorem State.ring_combEnter {egress vc : Nat} {p : Packet} (h : s.combEnter f egress vc p = some t) :
    (t.field f).router.ring = (s.field f).router.ring := by
  unfold State.combEnter at h
  dsimp only at h
  split at h
  · obtain rfl := Option.some.inj h
    refine Eq.trans (foldl_same (fun t : State => (t.field f).router.ring) _ _ ?_ _) ?_
    · intro t a _
      rfl
    · rw [State.fwrap, State.router_fset, State.router_updRouter]
      rfl
  · split at h
    · exact absurd h (by simp)
    · obtain rfl := Option.some.inj h
      rw [State.router_fset, State.router_updRouter]
      rfl

theorem State.ring_combWaiting (egress vc : Nat) (q : List TxPacket) :
    ((s.combWaiting f egress vc q).1.field f).router.ring = (s.field f).router.ring := by
  induction q generalizing s with
  | nil => rfl
  | cons x xs ih =>
    rw [State.combWaiting]
    dsimp only
    split
    · rename_i t ht
      rw [ih]
      split at ht
      · exact absurd ht (by simp)
      · obtain ⟨y, _, hy⟩ := Option.bind_eq_some_iff.mp ht
        split at hy
        · exact State.ring_combEnter hy
        · exact absurd hy (by simp)
    · exact ih

/-- A stalled class keeps the arbitration and the rounds, and what waits in every other class. -/
theorem State.ring_d2dStall (side v st : Nat) :
    ((s.d2dStall f side v st).field f).router.d2darb = (s.field f).router.d2darb ∧
    ((s.d2dStall f side v st).field f).router.d2dlast = (s.field f).router.d2dlast ∧
    ∀ k, s.d2dElig f side v st = true ∨ k ≠ d2dKey side v st →
      SMap.get ((s.d2dStall f side v st).field f).router.d2dtx [] k = SMap.get (s.field f).router.d2dtx [] k := by
  have hring := State.ring_combWaiting (s := s) (f := f) side v (SMap.get (s.field f).router.d2dtx [] (d2dKey side v st))
  obtain ⟨htx, harb, hlast⟩ : _ ∧ _ ∧ _ := ⟨congrArg Prod.fst hring, congrArg (fun x => x.2.1) hring, congrArg (fun x => x.2.2) hring⟩
  rw [State.d2dStall]
  dsimp only
  split
  next h =>
    rw [State.router_updRouter]
    refine ⟨harb, hlast, fun k hk => ?_⟩
    rw [Bool.and_eq_true, Bool.not_eq_true'] at h
    rw [SMap.get_set, if_neg (Ne.symm (hk.resolve_left (by rw [h.2]; decide)))]
    exact congrArg (fun m => SMap.get m [] k) htx
  · exact ⟨rfl, rfl, fun _ _ => rfl⟩

theorem State.router_d2dStall_ne {h : FieldId} (side v st : Nat) (hne : h ≠ f) :
    ((s.d2dStall f side v st).field h).router = (s.field h).router := by
  obtain ⟨-, hsame, -⟩ := (State.d2dStall_only (F := fun g => g = f) (P := fun _ => True) s f side v st (Fits.refl _) rfl
    (.refl _ _ _ s)).same .router h (by decide) (.inr ⟨rfl, hne⟩)
  exact hsame

theorem d2dNext_ne (side : Nat) : d2dNext f side ≠ f := by
  rw [d2dNext]
  split
  · revert f
    decide
  · revert f
    decide

theorem d2dKey_inj {side v st v' st' : Nat} (hst : st < 16) (hst' : st' < 16) (h : d2dKey side v st = d2dKey side v' st') :
    v = v' ∧ st = st' := by
  unfold d2dKey at h
  omega

theorem stagesOf_lt (v : Nat) : stagesOf v < 16 := by
  rw [stagesOf]
  split <;> decide

/-- A stall leaves each class of its link as it was: with payload and room, or without. -/
theorem State.d2dElig_d2dStall {side v st v' st' : Nat} (hst : st < 16) (hst' : st' < 16) :
    (s.d2dStall f side v st).d2dElig f side v' st' = s.d2dElig f side v' st' := by
  obtain ⟨-, -, htx⟩ := State.ring_d2dStall (s := s) (f := f) side v st
  have hroom := State.router_d2dStall_ne (s := s) side v st (d2dNext_ne (f := f) side)
  by_cases hsame : v' = v ∧ st' = st
  · obtain ⟨rfl, rfl⟩ := hsame
    by_cases h : s.d2dElig f side v' st' = true
    · rw [State.d2dElig, State.d2dElig, htx _ (.inl h), hroom]
    · cases hfree : d2dRoom (SMap.get (s.field (d2dNext f side)).router.d2dq [] (d2dKey (d2dSide (d2dNext f side) f) v' st')) with
      | false => rw [State.d2dElig, State.d2dElig, hroom, hfree, Bool.and_false, Bool.and_false]
      | true =>
        rw [State.d2dElig, hfree, Bool.and_true] at h
        rw [State.d2dStall, if_neg (fun hstall => h (Bool.and_elim_left hstall))]
  · rw [State.d2dElig, State.d2dElig, htx _ (.inr fun e => hsame (d2dKey_inj hst' hst e)), hroom]

theorem State.d2dClass_d2dStall {side v st : Nat} (hst : st < 16) (w : Nat) :
    (s.d2dStall f side v st).d2dClass f side w = s.d2dClass f side w := by
  obtain ⟨-, hlast, -⟩ := State.ring_d2dStall (s := s) (f := f) side v st
  rw [State.d2dClass, State.d2dClass, hlast]
  refine List.find?_congr fun k hk => ?_
  obtain ⟨i, hi, rfl⟩ := List.mem_map.mp hk
  have hlt := Nat.lt_trans (Nat.mod_lt (SMap.get (s.field f).router.d2dlast (stagesOf w - 1) (side * 8 + w) + 1 + i)
    (Nat.lt_of_le_of_lt (Nat.zero_le i) (List.mem_range.mp hi))) (stagesOf_lt w)
  exact State.d2dElig_d2dStall hst hlt

/-- What may combine has left the classes of a link that stall (R427). -/
def State.d2dGain (s : State) (f : FieldId) (side : Nat) : State :=
  (List.range 7).foldl (fun t v => (List.range (stagesOf v)).foldl (fun t st => t.d2dStall f side v st) t) s

theorem State.d2dGain_same {β : Type} (φ : State → β) (side : Nat)
    (h : ∀ (t : State) (v st : Nat), st < 16 → φ (t.d2dStall f side v st) = φ t) : φ (s.d2dGain f side) = φ s :=
  foldl_same φ _ _ (fun t v _ => foldl_same φ _ _
    (fun u st hst => h u v st (Nat.lt_trans (List.mem_range.mp hst) (stagesOf_lt v))) t) s

theorem State.d2dClass_d2dGain (side : Nat) : (s.d2dGain f side).d2dClass f side = s.d2dClass f side :=
  State.d2dGain_same (fun t => t.d2dClass f side) side (fun _ _ _ hst => funext (State.d2dClass_d2dStall hst))

theorem State.router_d2dGain_ne {h : FieldId} (side : Nat) (hne : h ≠ f) :
    ((s.d2dGain f side).field h).router = (s.field h).router :=
  State.d2dGain_same (fun t => (t.field h).router) side (fun _ v st _ => State.router_d2dStall_ne side v st hne)

theorem State.d2dGain_eq (side : Nat) : (List.range 7).foldl (fun t v => (List.range (stagesOf v)).foldl (fun t st =>
    t.d2dStall f side v st) t) s = s.d2dGain f side := rfl

/-- What the arbitration of a link chooses (R674). -/
def State.d2dPick (s : State) (f : FieldId) (side : Nat) : Arb × Option Nat :=
  ((SMap.get (s.field f).router.d2darb Arb.reset side).tokens (s.arbCtl f)).pick (s.arbCtl f) (fun v => (s.d2dClass f side v).isSome)

/-- A link's slot, its arbitration served. -/
def State.d2dServed (s : State) (f : FieldId) (side : Nat) : State :=
  (s.d2dGain f side).updRouter f (fun R => { R with d2darb := SMap.insert R.d2darb side (s.d2dPick f side).1 })

theorem State.d2dSlot_up {side : Nat} (hup : s.d2dJoined f (d2dNext f side) = true) : s.d2dSlot f side =
    match (s.d2dPick f side).2.bind (fun v => (s.d2dClass f side v).map (fun st => (v, st))) with
    | some (v, st) => (s.d2dServed f side).d2dFlit f side v st
    | none => s.d2dServed f side := by
  rw [State.d2dSlot, hup, if_neg (by decide), State.d2dGain_eq]
  dsimp only
  rw [State.d2dClass_d2dGain]
  rfl

theorem State.d2dSlot_idle {side : Nat} (hup : s.d2dJoined f (d2dNext f side) = true) (hnone : (s.d2dPick f side).2 = none) :
    s.d2dSlot f side = s.d2dServed f side := by
  rw [State.d2dSlot_up hup, hnone]
  rfl

theorem State.d2dSlot_flit {side v st : Nat} (hup : s.d2dJoined f (d2dNext f side) = true) (hsome : (s.d2dPick f side).2 = some v)
    (hclass : s.d2dClass f side v = some st) : s.d2dSlot f side = (s.d2dServed f side).d2dFlit f side v st := by
  rw [State.d2dSlot_up hup, hsome, Option.bind_some, hclass]
  rfl

theorem State.router_d2dServed_ne {h : FieldId} (side : Nat) (hne : h ≠ f) :
    ((s.d2dServed f side).field h).router = (s.field h).router := by
  rw [State.d2dServed, State.router_updRouter_ne _ (Ne.symm hne), State.router_d2dGain_ne _ hne]

theorem SMap.get_insert {α : Type} (m : SMap α) (d : α) (j : Nat) (v : α) : SMap.get (SMap.insert m j v) d j = v := by
  rw [SMap.get, SMap.find_insert, if_pos rfl]
  rfl

/-- A flit of a class crosses to the neighbour (R674). -/
theorem State.d2dFlit_crosses (side v st : Nat) :
    (SMap.get ((s.d2dFlit f side v st).field (d2dNext f side)).router.d2dq [] (d2dKey (d2dSide (d2dNext f side) f) v st)).length =
      (SMap.get (s.field (d2dNext f side)).router.d2dq [] (d2dKey (d2dSide (d2dNext f side) f) v st)).length + 1 ∧
    SMap.get ((s.d2dFlit f side v st).field f).router.d2dlast (stagesOf v - 1) (side * 8 + v) = st := by
  have hne := d2dNext_ne (f := f) side
  have hbeacons (h : FieldId) (l : Nat) (q r : List TxPacket) : ((s.beaconsSent f l q r).field h).router = (s.field h).router := by
    rw [State.beaconsSent]
    split
    · rfl
    · exact State.router_updField_same _ _ (fun _ => rfl)
  rw [State.d2dFlit]
  dsimp only
  constructor
  · rw [State.router_updRouter]
    dsimp only
    rw [SMap.get_set, if_pos rfl, State.router_updRouter_ne _ (Ne.symm hne), hbeacons, List.length_append, List.length_singleton]
  · rw [State.router_updRouter_ne _ hne, State.router_updRouter]
    exact SMap.get_insert _ _ _ _

theorem State.d2dSlot_crosses {side v st : Nat} (hup : s.d2dJoined f (d2dNext f side) = true) (hsome : (s.d2dPick f side).2 = some v)
    (hclass : s.d2dClass f side v = some st) :
    (SMap.get ((s.d2dSlot f side).field (d2dNext f side)).router.d2dq [] (d2dKey (d2dSide (d2dNext f side) f) v st)).length =
      (SMap.get (s.field (d2dNext f side)).router.d2dq [] (d2dKey (d2dSide (d2dNext f side) f) v st)).length + 1 ∧
    SMap.get ((s.d2dSlot f side).field f).router.d2dlast (stagesOf v - 1) (side * 8 + v) = st := by
  have hcross := State.d2dFlit_crosses (s := s.d2dServed f side) (f := f) side v st
  rw [State.router_d2dServed_ne _ (d2dNext_ne (f := f) side)] at hcross
  rw [State.d2dSlot_flit hup hsome hclass]
  exact hcross

theorem State.d2dSlot_rests {side : Nat} (hup : s.d2dJoined f (d2dNext f side) = true) (hnone : (s.d2dPick f side).2 = none) :
    ((s.d2dSlot f side).field (d2dNext f side)).router.d2dq = (s.field (d2dNext f side)).router.d2dq ∧
    SMap.get ((s.d2dSlot f side).field f).router.d2darb Arb.reset side = (s.d2dPick f side).1 := by
  rw [State.d2dSlot_idle hup hnone, State.router_d2dServed_ne _ (d2dNext_ne (f := f) side), State.d2dServed, State.router_updRouter]
  refine ⟨rfl, ?_⟩
  dsimp only
  rw [SMap.get_insert]

/-! ### The commands -/

theorem State.portSlot_of (k : Fin 18) (hk : k.val = n.val) (hd : s.svc f ≠ svcDark) :
    exec (.flitSlot f k) s = finish (s.portSlot f n) := by
  have hport : (BitVec.ofNat 4 k).toFin = n := by
    rw [hk]
    exact Fin.ext (Nat.mod_eq_of_lt n.isLt)
  refine (State.inRim_of_ne hd).trans ?_
  rw [if_pos (hk ▸ n.isLt), hport]

theorem State.d2dSlot_of (k : Fin 18) (hk : 16 ≤ k.val) (hd : s.svc f ≠ svcDark) :
    exec (.flitSlot f k) s = finish (s.d2dSlot f k) := by
  refine (State.inRim_of_ne hd).trans ?_
  rw [if_neg (Nat.not_lt.mpr hk)]

theorem State.flitsTaken_not (h : s.flitsTaken f n = true) : ¬ (!s.flitsTaken f n) = true := by
  rw [h]
  decide

/-- A DATA flit with a good CRC that a port takes is looked at (R326 to R329). -/
theorem State.dataFlit_good {x : Flit} {r : Result} (hd : s.svc f ≠ svcDark) (htaken : s.flitsTaken f n = true)
    (hcrc : x.crc = flitCrc flitData x) (h : (if trunc 3 x.vc = 7 then finish ((s.protoErr f n 1).nakCall f n)
      else if x.len = 0 ∨ 240 < x.len then finish ((s.protoErr f n 2).nakCall f n)
      else if trunc 14 x.seq = (s.port f n).exp then
        if (s.port f n).hasBuffer x.vc x.pool then finish ((s.flitControl f n x).flitAccept f n x)
        else finish ((s.protoErr f n 3).nakCall f n)
      else if decide (((s.port f n).exp + 0x4000 - trunc 14 x.seq) % 0x4000 ≤ 8192) then finish (s.flitControl f n x)
      else finish ((s.flitControl f n x).nakCall f n)) = r) : exec (.dataFlit f n 0 x) s = r :=
  (State.inRim_of_ne hd).trans ((if_neg (State.flitsTaken_not htaken)).trans ((if_neg (not_not_intro hcrc)).trans
    ((if_neg (by decide)).trans h)))

/-- Settles O25: each arriving flit by the branch its CRC, SEQ and TYPE select, each slot by what the port or the die-to-die link has to send. -/
theorem flitCommandsComplete : Obligations.FlitCommandsComplete := by
  unfold Obligations.FlitCommandsComplete
  refine ⟨?_, ?_, ?_, ?_, ?_, ?_, ?_, ?_, ?_, ?_, ?_, ?_, ?_, ?_, ?_, ?_, ?_, ?_, ?_, ?_, ?_, ?_, ?_⟩
  · intro s f n x hd htaken hcrc hvc hlen hseq hroom
    refine Leaves.finish (State.dataFlit_good hd htaken hcrc ?_) ⟨rfl, State.exp_flitAccept x, State.rxFlits_flitAccept x⟩
    rw [if_neg hvc, if_neg (by omega),
      if_pos hseq, if_pos hroom]
  · intro s f n x hd htaken hcrc hvc hlen hseq hbehind
    refine Leaves.finish (State.dataFlit_good hd htaken hcrc ?_) rfl
    rw [if_neg hvc, if_neg (by omega),
      if_neg hseq, if_pos (decide_eq_true hbehind)]
  · intro s f n x hd htaken hcrc hvc hlen hseq hahead
    refine Leaves.finish (State.dataFlit_good hd htaken hcrc ?_) rfl
    rw [if_neg hvc, if_neg (by omega),
      if_neg hseq, if_neg (fun h => Nat.not_le.mpr hahead (of_decide_eq_true h))]
  · intro s f n x hd htaken hcrc hvc
    refine Leaves.finish (State.dataFlit_good hd htaken hcrc ?_) ⟨rfl, (State.freg_nakCall _ _ _ _).trans (State.freg_protoErr 1)⟩
    rw [if_pos hvc]
  · intro s f n x hd htaken hcrc hvc hlen
    refine Leaves.finish (State.dataFlit_good hd htaken hcrc ?_) ⟨rfl, (State.freg_nakCall _ _ _ _).trans (State.freg_protoErr 2)⟩
    rw [if_neg hvc, if_pos hlen]
  · intro s f n x hd htaken hcrc hvc hlen hseq hroom
    refine Leaves.finish (State.dataFlit_good hd htaken hcrc ?_) ⟨rfl, (State.freg_nakCall _ _ _ _).trans (State.freg_protoErr 3)⟩
    rw [if_neg hvc, if_neg (by omega),
      if_pos hseq, if_neg (Bool.eq_false_iff.mp hroom)]
  · intro s f n x ty hd htaken hty hcrc
    have hne : ty.val ≠ flitData := fun h => hty (Fin.ext h)
    refine Leaves.finish ((State.inRim_of_ne hd).trans ?_) ⟨rfl, (State.freg_nakCall _ _ _ _).trans (State.freg_protoErr 0)⟩
    rw [if_neg (State.flitsTaken_not htaken), if_neg (not_not_intro hcrc), if_pos hne]
  · intro s f n x ty hd htaken hcrc
    refine Leaves.finish ((State.inRim_of_ne hd).trans ?_) ⟨rfl, State.crcErr_flitBad⟩
    rw [if_neg (State.flitsTaken_not htaken), if_pos hcrc]
  · intro s f n x hd htaken y hy hcrc
    simp only [List.mem_cons, List.not_mem_nil, or_false] at hy
    rcases hy with rfl | rfl
    · refine Leaves.finish ((State.inRim_of_ne hd).trans ?_) ⟨rfl, State.crcErr_flitBad⟩
      rw [if_neg (State.flitsTaken_not htaken), if_pos hcrc]
    · refine Leaves.finish ((State.inRim_of_ne hd).trans ?_) ⟨rfl, State.crcErr_flitBad⟩
      rw [if_neg (State.flitsTaken_not htaken), if_pos hcrc]
  · intro s f n x hd htaken y hy hcrc hvc
    simp only [List.mem_cons, List.not_mem_nil, or_false] at hy
    rcases hy with rfl | rfl
    · refine Leaves.finish ((State.inRim_of_ne hd).trans ?_) ⟨rfl, (State.freg_nakCall _ _ _ _).trans (State.freg_protoErr 1)⟩
      rw [if_neg (State.flitsTaken_not htaken), if_neg (not_not_intro hcrc), if_pos hvc]
    · refine Leaves.finish ((State.inRim_of_ne hd).trans ?_) ⟨rfl, (State.freg_nakCall _ _ _ _).trans (State.freg_protoErr 1)⟩
      rw [if_neg (State.flitsTaken_not htaken), if_neg (not_not_intro hcrc), if_pos hvc]
  · intro s f n x hd htaken hcrc hvc
    refine Leaves.next ((State.inRim_of_ne hd).trans ?_) rfl
    rw [if_neg (State.flitsTaken_not htaken), if_neg (not_not_intro hcrc), if_neg hvc]
  · intro s f n x hd htaken hcrc hvc
    refine Leaves.next ((State.inRim_of_ne hd).trans ?_) rfl
    rw [if_neg (State.flitsTaken_not htaken), if_neg (not_not_intro hcrc), if_neg hvc]
  · intro s f n x ty h y hy
    have hno (hd : s.svc f ≠ svcDark) : (!s.flitsTaken f n) = true := by
      rw [h.resolve_left hd]
      rfl
    simp only [List.mem_cons, List.not_mem_nil, or_false] at hy
    by_cases hd : s.svc f = svcDark
    · rcases hy with rfl | rfl | rfl
      all_goals exact Leaves.next (State.inRim_of_dark hd) rfl
    · rcases hy with rfl | rfl | rfl
      all_goals exact Leaves.next ((State.inRim_of_ne hd).trans (if_pos (hno hd))) rfl
  · intro s f n k hk hd hlink hstop hlit hdue hheld
    have hnak : (s.port f n).naks = true := by
      rw [Port.naks, hdue, hheld]
      rfl
    exact Leaves.finish (State.portSlot_of k hk hd) (State.portSlot_naks hlink hstop hlit hnak)
  · intro s f n k r h hk hd hlink hstop hlit hnak hresend hfind hsends
    exact Leaves.finish (State.portSlot_of k hk hd)
      (State.portSlot_replays hlink hstop hlit (Port.naks_false hnak) hresend hfind hsends)
  · intro s f n k r h hk hd hlink hstop hlit hnak hresend hfind hsends
    exact Leaves.finish (State.portSlot_of k hk hd)
      (State.portSlot_spent hlink hstop hlit (Port.naks_false hnak) hresend hfind hsends)
  · intro s f n k v hk hd hlink hstop hlit hnak hresend hroom hpick
    exact Leaves.finish (State.portSlot_of k hk hd)
      (State.portSlot_new hlink hstop hlit (Port.naks_false hnak) hresend hroom hpick)
  · intro s f n k hk hd hlink hstop hlit hnak hresend hno
    exact Leaves.finish (State.portSlot_of k hk hd) (State.portSlot_idle hlink hstop hlit (Port.naks_false hnak) hresend hno)
  · intro s f n k hk h
    by_cases hd : s.svc f = svcDark
    · exact Leaves.next (State.inRim_of_dark hd) rfl
    · exact Leaves.finish (State.portSlot_of k hk hd) (if_pos h)
  · intro s f k v st hd hk hup hpick hclass
    exact Leaves.finish (State.d2dSlot_of k hk hd) (State.d2dSlot_crosses hup hpick hclass)
  · intro s f k hd hk hup hpick
    exact Leaves.finish (State.d2dSlot_of k hk hd) (State.d2dSlot_rests hup hpick)
  · intro s f k hd hk hdown
    refine Leaves.finish (State.d2dSlot_of k hk hd) (if_pos ?_)
    rw [hdown]
    rfl
  · intro s f k hd
    exact Leaves.next (State.inRim_of_dark hd) rfl

end Sys2Proof.Machine

end


section
/-! What a router reads of the state, and what taking a packet from an input leaves of it (R363 to R382). -/

namespace Sys2Proof.Machine

set_option Elab.async false

open Sys2Proof

variable {s t : State} {f : FieldId} {n : PortId}

/-! ### A packet taken from an input -/

/-- A port but for the flits it holds and the buffers it frees. -/
def Port.unread (P : Port) : Port := { P with rxq := [], freeing := [] }

/-- A router but for the packets that wait at its inputs. -/
def RouterUnit.unread (R : RouterUnit) : RouterUnit := { R with d2dq := [], issued := [] }

/-- From s to t packets have been taken from inputs, and their beacons noted. -/
structure Fetched (s t : State) : Prop where
  freg : ∀ h k m i, t.freg h k m i = s.freg h k m i
  hub : t.hub = s.hub
  port : ∀ h m, (t.port h m).unread = (s.port h m).unread
  router : ∀ h, (t.field h).router.unread = (s.field h).router.unread

theorem Fetched.refl (s : State) : Fetched s s := ⟨fun _ _ _ _ => rfl, rfl, fun _ _ => rfl, fun _ => rfl⟩

theorem Fetched.trans {u : State} (h : Fetched s t) (h' : Fetched t u) : Fetched s u :=
  ⟨fun a b c d => (h'.freg a b c d).trans (h.freg a b c d), h'.hub.trans h.hub, fun a b => (h'.port a b).trans (h.port a b),
    fun a => (h'.router a).trans (h.router a)⟩

theorem State.port_updPort_ne {h : FieldId} {m : PortId} (g : Port → Port) (hne : ¬ (f = h ∧ n = m)) :
    (s.updPort f n g).port h m = s.port h m := by
  unfold State.updPort State.port
  rw [State.field_updField_if]
  split
  next e =>
    subst e
    have hkey : n.val ≠ m.val := fun e => hne ⟨rfl, Fin.ext e⟩
    simp [Field.port, SMap.get_set, hkey]
  · rfl

theorem Fetched.updPort (g : Port → Port) (hg : ∀ P, (g P).unread = P.unread) : Fetched s (s.updPort f n g) := by
  refine ⟨fun _ _ _ _ => State.freg_updPort _ _ _ _ _ _ _ _, rfl, fun h m => ?_, fun h => ?_⟩
  · by_cases hsame : h = f ∧ m = n
    · obtain ⟨rfl, rfl⟩ := hsame
      rw [State.port_updPort, hg]
    · rw [State.port_updPort_ne _ (fun e => hsame ⟨e.1.symm, e.2.symm⟩)]
  · exact congrArg RouterUnit.unread (State.router_updField_same f _ (fun _ => rfl))

theorem Fetched.updRouter (g : RouterUnit → RouterUnit) (hg : ∀ R, (g R).unread = R.unread) : Fetched s (s.updRouter f g) := by
  refine ⟨fun _ _ _ _ => State.freg_updField_same _ _ _ _ _ _ _ (fun _ => rfl), rfl, fun h m => ?_, fun h => ?_⟩
  · rw [State.port_updRouter]
  · by_cases hsame : f = h
    · subst hsame
      rw [State.router_updRouter, hg]
    · rw [State.router_updRouter_ne _ hsame]

theorem Fetched.takeHead {link vc stage : Nat} {p : Packet} (h : s.takeHead f link vc stage = some (t, p)) : Fetched s t := by
  unfold State.takeHead at h
  dsimp only at h
  split at h
  · split at h
    · exact absurd h (by simp)
    · obtain ⟨rfl, -⟩ := Prod.mk.inj (Option.some.inj h)
      exact .updPort _ (fun _ => rfl)
  · split at h
    · split at h
      · exact absurd h (by simp)
      · obtain ⟨rfl, -⟩ := Prod.mk.inj (Option.some.inj h)
        exact .updRouter _ (fun _ => rfl)
    · split at h
      · exact absurd h (by simp)
      · obtain ⟨rfl, -⟩ := Prod.mk.inj (Option.some.inj h)
        exact .updRouter _ (fun _ => rfl)

theorem Fetched.beaconCame (link : Nat) (p : Packet) (at_ : Nat) : Fetched s (s.beaconCame f link p at_) := by
  rw [State.beaconCame]
  split
  · exact ⟨fun _ _ _ _ => State.freg_updField_same _ _ _ _ _ _ _ (fun _ => rfl), rfl,
      fun _ _ => congrArg Port.unread (State.port_updField_same _ _ _ _ _ (fun _ => rfl)),
      fun _ => congrArg RouterUnit.unread (State.router_updField_same f _ (fun _ => rfl))⟩
  · exact .refl s

/-! ### What a router reads -/

theorem State.hreg_of_hub (h : t.hub = s.hub) (k : RegField) (m i : Nat) : t.hreg k m i = s.hreg k m i := by
  rw [State.hreg, State.hreg, h]

theorem State.pkgNode_of_hub (h : t.hub = s.hub) : t.pkgNode = s.pkgNode := by
  simp only [State.pkgNode, State.hreg_of_hub h]

theorem State.node_of_hub (h : t.hub = s.hub) : t.node = s.node := by
  funext f
  rw [State.node, State.node, State.pkgNode_of_hub h]

theorem State.d2dJoined_of_hub (h : t.hub = s.hub) : t.d2dJoined = s.d2dJoined := by
  funext a b
  simp only [State.d2dJoined, State.d2dUp, State.hreg_of_hub h]

theorem State.d2dWalk_of_hub (h : t.hub = s.hub) : t.d2dWalk = s.d2dWalk := by
  funext l
  induction l with
  | nil => rfl
  | cons a l ih =>
    cases l with
    | nil => rfl
    | cons b l => rw [State.d2dWalk, State.d2dWalk, State.d2dJoined_of_hub h, ih]

theorem State.d2dHop_of_hub (h : t.hub = s.hub) : t.d2dHop = s.d2dHop := by
  funext a b
  rw [State.d2dHop, State.d2dHop, State.d2dWalk_of_hub h]

namespace Fetched

variable (h : Fetched s t)

include h

theorem bank : t.bank = s.bank := by
  funext f
  exact (congrArg RouterUnit.active (h.router f) : (t.field f).router.unread.active = (s.field f).router.unread.active)

theorem link : t.link = s.link := funext fun f => funext fun n => h.freg f _ n 0

theorem approved (f : FieldId) (n : PortId) : (t.port f n).approved = (s.port f n).approved :=
  (congrArg Port.approved (h.port f n) : (t.port f n).unread.approved = (s.port f n).unread.approved)

theorem farPort (f : FieldId) (n : PortId) : (t.port f n).farPort = (s.port f n).farPort :=
  (congrArg Port.farPort (h.port f n) : (t.port f n).unread.farPort = (s.port f n).unread.farPort)

theorem txq (f : FieldId) (n : PortId) : (t.port f n).txq = (s.port f n).txq :=
  (congrArg Port.txq (h.port f n) : (t.port f n).unread.txq = (s.port f n).unread.txq)

theorem inbox (f : FieldId) : (t.field f).router.inbox = (s.field f).router.inbox :=
  (congrArg RouterUnit.inbox (h.router f) : (t.field f).router.unread.inbox = (s.field f).router.unread.inbox)

theorem effective : t.effective = s.effective := by
  funext f n
  simp only [State.effective, h.approved, h.farPort, h.freg, State.pkgNode_of_hub h.hub]

theorem portAdmitted : t.portAdmitted = s.portAdmitted := by
  funext f n
  simp only [State.portAdmitted, h.approved, h.freg]

theorem usablePorts : t.usablePorts = s.usablePorts := by
  funext f a c
  have husable : t.portUsable = s.portUsable := by
    funext f a c p
    simp only [State.portUsable, h.effective, h.link, h.portAdmitted, State.d2dHop_of_hub h.hub]
  rw [State.usablePorts, State.usablePorts, h.bank, husable]

theorem routeVia : t.routeVia = s.routeVia := by
  funext f r p st
  simp only [State.routeVia, State.d2dHop_of_hub h.hub]

/-- The tables send a packet the same way (R370). -/
theorem nextHop : t.nextHop = s.nextHop := by
  have hfield : t.routeToField = s.routeToField := by
    funext f g r
    simp only [State.routeToField, h.bank, h.usablePorts, h.routeVia, State.d2dHop_of_hub h.hub]
  have hfar : t.farField = s.farField := by
    funext p
    simp only [State.farField, h.effective]
  funext f r
  simp only [State.nextHop, hfield, hfar, h.bank, h.usablePorts, h.routeVia, State.node_of_hub h.hub]

theorem allot : t.allot = s.allot := funext fun f => h.freg f _ 0 0

theorem transitOk (f : FieldId) (r : Routed) (l : Nat) : t.transitOk f r l = s.transitOk f r l := by
  unfold State.transitOk
  rw [h.allot]
  simp only [h.freg]

theorem deliverOk (f : FieldId) (p : Packet) : t.deliverOk f p = s.deliverOk f p := by
  unfold State.deliverOk
  rw [h.allot]

theorem mcastMembers (f : FieldId) (a m : Nat) : t.mcastMembers f a m = s.mcastMembers f a m := by
  simp only [State.mcastMembers, State.axisSize, h.freg]

end Fetched

end Sys2Proof.Machine

end


section
/-! What routing, sealing, sampling and combining leave (R370 to R385, R427). -/

namespace Sys2Proof.Machine

set_option Elab.async false

open Sys2Proof

variable {s t : State} {f : FieldId} {n : PortId}

/-! ### Routing -/

theorem State.hop_deliver {r : Routed} (hdst : r.pkt.dst = s.node f) (hlt : r.pkt.dst < 0x2000) : s.hop f r = (r, .deliver) := by
  rw [State.hop]
  split
  · rw [State.nextHop, if_neg (Nat.not_le.mpr hlt), if_pos hdst]
  · rw [State.unsealedHop, if_neg (Nat.not_le.mpr hlt), if_pos hdst]

theorem State.hop_beyond {r : Routed} (h : 0x2000 ≤ r.pkt.dst) : s.hop f r = (r, .drop 0) := by
  rw [State.hop]
  split
  · rw [State.nextHop, if_pos h]
  · rw [State.unsealedHop, if_pos h]

section

variable {r r' : Routed} {i : Option PortId}

theorem State.route_drop {a : Nat} (h : s.hop f r = (r', .drop a)) : s.route f r i = s.dropNoroute f r.pkt a := by
  rw [State.route, h]

theorem State.route_deliver (h : s.hop f r = (r', .deliver)) : s.route f r i = s.deliver f r'.pkt i := by
  rw [State.route, h]

theorem State.route_port (h : s.hop f r = (r', .port n)) : s.route f r i = s.portSend f n r' := by
  rw [State.route, h]

theorem State.route_d2d {g : FieldId} (h : s.hop f r = (r', .d2d g)) : s.route f r i = s.d2dSend f g r' := by
  rw [State.route, h]

end

theorem State.deliver_ok {p : Packet} {i : Option PortId} (hok : s.deliverOk f p = true)
    (hform : pktRemote p = false ∨ p.allot = mgmtAllot ∨ rhWellFormed p = true) (hkind : p.cls ≠ 1 ∨ shfKnown p = true) :
    s.deliver f p i = s.updRouter f (fun R => { R with inbox := R.inbox ++ [p] }) := by
  have hformed : ¬ (pktRemote p && decide (p.allot ≠ mgmtAllot) && !rhWellFormed p) = true := by
    rcases hform with h | h | h <;> simp [h]
  have hknown : ¬ (p.cls = 1 ∧ shfKnown p = false) := by
    rintro ⟨hcls, hshf⟩
    rcases hkind with h | h
    · exact h hcls
    · exact absurd (h.symm.trans hshf) (by decide)
  unfold State.deliver
  rw [hok, if_neg (by decide), if_neg hformed, if_neg hknown]

/-- A drop's event and its count of multicasts leave the other counts. -/
theorem State.freg_dropped (key : Nat) (e : EvKind) (l : List (Nat × Nat)) (p : Packet) (k : RegField)
    (hk : spares [.events, .lastRaise, .reg Reg.RTE_DROP_CNT.MCAST_DROP] .anyReg k = true) (m i : Nat) :
    ((s.mcastDrop f p).raiseLimited f key e l).freg f k m i = s.freg f k m i :=
  (State.raiseLimited_only (F := fun _ => True) (P := fun _ => True) _ f key e l false (by decide) trivial
    (State.mcastDrop_only s f p (by decide) trivial (.refl _ _ _ s))).freg k hk f m i

theorem State.foreign_dropForeign (p : Packet) : (s.dropForeign f p).freg f Reg.RTE_DROP_CNT.FOREIGN =
    satAdd 16 (s.freg f Reg.RTE_DROP_CNT.FOREIGN) 1 :=
  (State.freg_dropped _ _ _ _ _ (by decide) 0 0).trans (State.freg_fcount _ _ _ _ _ _)

theorem State.noroute_dropNoroute (p : Packet) (a : Nat) : (s.dropNoroute f p a).freg f Reg.RTE_DROP_CNT.NOROUTE =
    satAdd 16 (s.freg f Reg.RTE_DROP_CNT.NOROUTE) 1 :=
  (State.freg_dropped _ _ _ _ _ (by decide) 0 0).trans (State.freg_fcount _ _ _ _ _ _)

theorem State.transit_dropTransit (p : Packet) (l : Nat) : (s.dropTransit f p l).freg f Reg.RTE_DROP_CNT.TRANSIT =
    satAdd 16 (s.freg f Reg.RTE_DROP_CNT.TRANSIT) 1 :=
  (State.freg_dropped _ _ _ _ _ (by decide) 0 0).trans (State.freg_fcount _ _ _ _ _ _)

theorem State.router_dropForeign (p : Packet) : ((s.dropForeign f p).field f).router = (s.field f).router := by
  obtain ⟨-, hsame, -⟩ := (State.dropForeign_only (F := fun _ => True) (P := fun _ => True) s f p (Fits.refl _) trivial
    (.refl _ _ _ s)).same .router f (by decide) (.inl (by decide))
  exact hsame

theorem State.router_dropNoroute (p : Packet) (a : Nat) : ((s.dropNoroute f p a).field f).router = (s.field f).router := by
  obtain ⟨-, hsame, -⟩ := (State.dropNoroute_only (F := fun _ => True) (P := fun _ => True) s f p a (Fits.refl _) trivial
    (.refl _ _ _ s)).same .router f (by decide) (.inl (by decide))
  exact hsame

theorem State.router_dropTransit (p : Packet) (l : Nat) : ((s.dropTransit f p l).field f).router = (s.field f).router := by
  obtain ⟨-, hsame, -⟩ := (State.dropTransit_only (F := fun _ => True) (P := fun _ => True) s f p l (Fits.refl _) trivial
    (.refl _ _ _ s)).same .router f (by decide) (.inl (by decide))
  exact hsame

theorem State.router_protoErr (kind : Nat) : ((s.protoErr f n kind).field f).router = (s.field f).router := by
  obtain ⟨-, hsame, -⟩ := (State.protoErr_only (F := fun _ => True) (P := fun _ => True) s f n kind (Fits.refl _) trivial
    (.refl _ _ _ s)).same .router f (by decide) (.inl (by decide))
  exact hsame

theorem State.mcasts_updRouter {g : RouterUnit → RouterUnit} (hg : ∀ R, (g R).mcasts = R.mcasts) :
    ((s.updRouter f g).field f).router.mcasts = (s.field f).router.mcasts := by
  rw [State.router_updRouter, hg]

/-- What a router does with a packet leaves the multicasts that wait to be copied. -/
theorem State.mcasts_route (r : Routed) (i : Option PortId) : ((s.route f r i).field f).router.mcasts = (s.field f).router.mcasts := by
  rcases hhop : s.hop f r with ⟨r', a | _ | n | g⟩
  · rw [State.route_drop hhop, State.router_dropNoroute]
  · rw [State.route_deliver hhop]
    unfold State.deliver
    split
    · rw [State.router_dropForeign]
    · split
      · split
        · rw [State.router_protoErr]
        · rfl
      · split
        · exact congrArg RouterUnit.mcasts (State.router_fset _ _ _ _ _)
        · exact State.mcasts_updRouter fun _ => rfl
  · rw [State.route_port hhop, State.portSend]
    split
    · rw [State.router_dropTransit]
    · exact congrArg RouterUnit.mcasts (State.router_updField_same f _ (fun _ => rfl))
  · rw [State.route_d2d hhop, State.d2dSend]
    split
    · rw [State.router_dropTransit]
    · exact State.mcasts_updRouter fun _ => rfl

/-- A packet joins those that wait at a port. -/
theorem State.txq_portQueue (vc : Nat) (p : Packet) (b : Bool) : SMap.get ((s.portQueue f n vc p b).port f n).txq [] vc =
    SMap.get (s.port f n).txq [] vc ++ [⟨true, b, pktBytes p⟩] := by
  rw [State.portQueue, State.port_updPort]
  dsimp only
  rw [SMap.get_set, if_pos rfl]

theorem State.d2dtx_d2dQueue (side vc : Nat) (p : Packet) (b : Bool) :
    SMap.get ((s.d2dQueue f side vc p b).field f).router.d2dtx [] (d2dKey side vc p.stage) =
      SMap.get (s.field f).router.d2dtx [] (d2dKey side vc p.stage) ++ [⟨true, b, pktBytes p⟩] := by
  rw [State.d2dQueue, State.router_updRouter]
  dsimp only
  rw [SMap.get_set, if_pos rfl]

/-- ROUTE_PACKET routes the packet it takes. -/
theorem State.routePacket_of {l : Fin 19} {vc : Fin 8} {g : Fin 9} {p : Packet} (hd : s.svc f ≠ svcDark)
    (hhead : (s.takeHead f l vc g).map Prod.snd = some p) (hone : l.val ≠ 18 ∨ p.mcast = false) :
    ∃ u i, Fetched s u ∧ exec (.routePacket f l vc g) s = finish (u.route f { pkt := p, vc := vc } i) := by
  obtain ⟨⟨t, q⟩, htake, rfl⟩ := Option.map_eq_some_iff.mp hhead
  refine ⟨_, if l.val < 16 then some (BitVec.ofNat 4 l).toFin else none,
    (Fetched.takeHead htake).trans (.beaconCame (f := f) l q (s.headStamp f l vc g)), (State.inRim_of_ne hd).trans ?_⟩
  rw [htake]
  refine if_neg ?_
  rintro ⟨hl, hm⟩
  rcases hone with h | h
  · exact h hl
  · exact absurd (h.symm.trans hm) (by decide)

end Sys2Proof.Machine

end


section
/-! Seals, samples and combining slots, and the commands of routing (R379 to R385, R427). -/

namespace Sys2Proof.Machine

set_option Elab.async false

open Sys2Proof

variable {s t : State} {f : FieldId} {n : PortId}

theorem State.freg_updRouter (h : FieldId) (g : RouterUnit → RouterUnit) (e : FieldId) (k : RegField) (m i : Nat) :
    (s.updRouter h g).freg e k m i = s.freg e k m i := State.freg_updField_same _ _ _ _ _ _ _ (fun _ => rfl)

/-! ### Seals (R382, R383) -/

theorem State.freg_sealEvent (r a i : Nat) (k : RegField) (m j : Nat) : (s.sealEvent f r a i).freg f k m j = s.freg f k m j := rfl

theorem State.result_sealStatus (r a i : Nat) :
    (s.sealStatus f r a i).freg f Reg.RTE_TABLE_STATUS.RESULT = r % 2 ^ 16 := by
  rw [State.sealStatus, State.freg_fset_other _ _ _ _ _ _ _ _ _ _ (by decide), State.freg_fset_other _ _ _ _ _ _ _ _ _ _ (by decide),
    State.freg_fset]
  rfl

theorem State.freg_sealStatus (r a i : Nat) (k : RegField) (hk : spares [.reg Reg.RTE_TABLE_STATUS.RESULT, .reg Reg.RTE_TABLE_STATUS.TABLE,
    .reg Reg.RTE_TABLE_STATUS.INDEX] .anyReg k = true) (m j : Nat) : (s.sealStatus f r a i).freg f k m j = s.freg f k m j :=
  (State.sealStatus_only (F := fun _ => True) (P := fun _ => True) s f r a i (by decide) trivial (.refl _ _ _ s)).freg k hk f m j

theorem State.router_sealStatus (r a i : Nat) : ((s.sealStatus f r a i).field f).router = (s.field f).router := by
  rw [State.sealStatus, State.router_fset, State.router_fset, State.router_fset]

theorem State.seal_refused {code a i : Nat} (hlost : (s.field f).hubLost = false) (hpend : s.freg f Reg.RTE_TABLE_STATUS.PENDING ≠ 1)
    (hcheck : s.sealCheck f (s.field f).staging = some (code, a, i)) : s.seal f = (s.sealStatus f code a i).sealEvent f code a i := by
  rw [State.seal, hlost, if_neg (by decide), if_neg hpend]
  dsimp only
  rw [hcheck]

/-- A seal whose tables pass, before it takes effect. -/
def State.sealPassed (s : State) (f : FieldId) : State := (s.sealStatus f St.OK 0 0).fset f Reg.RTE_TABLE_STATUS.SEALED 1

theorem State.freg_sealPassed (k : RegField) (hk : spares [.reg Reg.RTE_TABLE_STATUS.RESULT, .reg Reg.RTE_TABLE_STATUS.TABLE,
    .reg Reg.RTE_TABLE_STATUS.INDEX, .reg Reg.RTE_TABLE_STATUS.SEALED] .anyReg k = true) (m j : Nat) :
    (s.sealPassed f).freg f k m j = s.freg f k m j :=
  (State.fset_only (F := fun _ => True) (P := fun _ => True) f _ _ _ _ (by decide) trivial
    (State.sealStatus_only s f St.OK 0 0 (by decide) trivial (.refl _ _ _ s))).freg k hk f m j

theorem State.result_sealPassed : (s.sealPassed f).freg f Reg.RTE_TABLE_STATUS.RESULT = St.OK := by
  rw [State.sealPassed, State.freg_fset_other _ _ _ _ _ _ _ _ _ _ (by decide), State.result_sealStatus]
  rfl

theorem State.sealed_sealPassed : (s.sealPassed f).freg f Reg.RTE_TABLE_STATUS.SEALED = 1 := State.freg_fset _ _ _ _ _ _

theorem State.router_sealPassed : ((s.sealPassed f).field f).router = (s.field f).router := by
  rw [State.sealPassed, State.router_fset, State.router_sealStatus]

theorem State.seal_passed (hlost : (s.field f).hubLost = false) (hpend : s.freg f Reg.RTE_TABLE_STATUS.PENDING ≠ 1)
    (hcheck : s.sealCheck f (s.field f).staging = none) : s.seal f =
    if s.freg f Reg.RTE_TABLE_CTL.AT_MARK = 1 then
      ((s.sealPassed f).updRouter f (fun R => { R with pendingBank := some (s.field f).staging })).fset f Reg.RTE_TABLE_STATUS.PENDING 1
    else (s.sealPassed f).bankActivate f (s.field f).staging := by
  rw [State.seal, hlost, if_neg (by decide), if_neg hpend]
  have hmark := State.freg_sealPassed (s := s) (f := f) Reg.RTE_TABLE_CTL.AT_MARK (by decide) 0 0
  rw [State.sealPassed] at hmark ⊢
  dsimp only
  rw [hcheck]
  dsimp only
  rw [hmark]

theorem State.router_sealEvent (r a i : Nat) : ((s.sealEvent f r a i).field f).router = (s.field f).router := rfl

theorem State.active_bankActivate (bank : SMap Nat) : ((s.bankActivate f bank).field f).router.active = bank := by
  rw [State.bankActivate, State.router_sealEvent, State.fwrap, State.router_fset, State.router_fset, State.router_updRouter]

theorem State.freg_bankActivate (bank : SMap Nat) (k : RegField) (hk : spares [.reg Reg.RTE_TABLE_STATUS.PENDING,
    .reg Reg.RTE_TABLE_STATUS.GEN] .anyReg k = true) (m i : Nat) : (s.bankActivate f bank).freg f k m i = s.freg f k m i := by
  rw [State.bankActivate, State.freg_sealEvent]
  exact ((State.fwrap_only (F := fun _ => True) (P := fun _ => True) f _ _ _ _ (by decide) trivial
    (State.fset_only f _ _ _ _ (by decide) trivial (.refl _ _ _ _))).freg k hk f m i).trans (State.freg_updRouter _ _ _ _ _ _)

theorem State.pending_bankActivate (bank : SMap Nat) : (s.bankActivate f bank).freg f Reg.RTE_TABLE_STATUS.PENDING = 0 := by
  rw [State.bankActivate, State.freg_sealEvent, State.fwrap, State.freg_fset_other _ _ _ _ _ _ _ _ _ _ (by decide), State.freg_fset]
  rfl

/-! ### The congestion map (R384, R385) -/

/-- The counts of the map of a link's channel after a sample: n flits waited (R384). -/
def congSampled (C : SMap Nat) (base n : Nat) : SMap Nat :=
  let D := SMap.set C 0 (base + congBucket n) (satAdd 32 (SMap.get C 0 (base + congBucket n)) 1)
  SMap.set D 0 (base + 10) (max (SMap.get D 0 (base + 10)) (min n 65535))

theorem congBucket_lt (n : Nat) : congBucket n < 8 := by
  unfold congBucket
  split_ifs <;> decide

theorem congSampled_other {base n k : Nat} (C : SMap Nat) (h : k / 16 ≠ base / 16) (hbase : base % 16 = 0) :
    SMap.get (congSampled C base n) 0 k = SMap.get C 0 k := by
  have hlt := congBucket_lt n
  rw [congSampled, SMap.get_set, if_neg (by omega), SMap.get_set, if_neg (by omega)]

theorem congSampled_bucket (C : SMap Nat) (base n : Nat) : SMap.get (congSampled C base n) 0 (base + congBucket n) =
    satAdd 32 (SMap.get C 0 (base + congBucket n)) 1 := by
  have hlt := congBucket_lt n
  rw [congSampled, SMap.get_set, if_neg (by omega), SMap.get_set, if_pos rfl]

theorem congSampled_peak (C : SMap Nat) (base n : Nat) : SMap.get (congSampled C base n) 0 (base + 10) =
    max (SMap.get C 0 (base + 10)) (min n 65535) := by
  have hlt := congBucket_lt n
  rw [congSampled, SMap.get_set, if_pos rfl, SMap.get_set, if_neg (by omega)]

theorem State.cong_congOne (l v : Nat) : ((s.congOne f l v).field f).router.cong =
    congSampled (s.field f).router.cong ((l * 8 + v) * 16) (s.occupancy f l v) := by
  rw [State.congOne, State.router_updRouter, State.congCount, State.field_updField]
  rfl

theorem State.occupancy_congOne (l v l' v' : Nat) : (s.congOne f l v).occupancy f l' v' = s.occupancy f l' v' := by
  have hq : ((s.congOne f l v).field f).router.d2dq = (s.field f).router.d2dq := by
    rw [State.congOne, State.router_updRouter, State.congCount, State.field_updField]
  rw [State.occupancy, State.occupancy, hq, State.congOne, State.port_updRouter, State.port_congCount]

/-- What a sample of one channel of a link rests on: the flits that wait, the count of their bucket, and the most that waited. -/
def congView (f : FieldId) (l v : Nat) (t : State) : Nat × Nat × Nat :=
  (t.occupancy f l v, SMap.get (t.field f).router.cong 0 ((l * 8 + v) * 16 + congBucket (t.occupancy f l v)),
    SMap.get (t.field f).router.cong 0 ((l * 8 + v) * 16 + 10))

/-- What the sample makes of it. -/
def congStep (x : Nat × Nat × Nat) : Nat × Nat × Nat := (x.1, satAdd 32 x.2.1 1, max x.2.2 (min x.1 65535))

theorem congView_congOne (l v : Nat) : congView f l v (s.congOne f l v) = congStep (congView f l v s) := by
  simp only [congView, congStep]
  rw [State.occupancy_congOne, State.cong_congOne, congSampled_bucket, congSampled_peak]

theorem congView_other {l v l' v' : Nat} (hne : l' * 8 + v' ≠ l * 8 + v) : congView f l v (s.congOne f l' v') = congView f l v s := by
  have hlt := congBucket_lt (s.occupancy f l v)
  simp only [congView]
  rw [State.occupancy_congOne, State.cong_congOne, congSampled_other _ (by omega) (by omega), congSampled_other _ (by omega) (by omega)]

/-- A sample takes each channel of each link once (R384). -/
theorem State.cong_sample (l : Fin 18) (v : Fin 8) :
    let u := (List.range 18).foldl (fun t l => (List.range 8).foldl (fun u v => u.congOne f l v) t) s
    SMap.get (u.field f).router.cong 0 ((l * 8 + v) * 16 + congBucket (s.occupancy f l v)) =
      satAdd 32 (SMap.get (s.field f).router.cong 0 ((l * 8 + v) * 16 + congBucket (s.occupancy f l v))) 1 ∧
    SMap.get (u.field f).router.cong 0 ((l * 8 + v) * 16 + 10) =
      max (SMap.get (s.field f).router.cong 0 ((l * 8 + v) * 16 + 10)) (min (s.occupancy f l v) 65535) := by
  have hlink (t : State) : congView f l v ((List.range 8).foldl (fun u v => u.congOne f l v) t) = congStep (congView f l v t) :=
    foldl_once (congView f l v) _ (fun (u : State) (v : Nat) => u.congOne f l v) congStep v.val (List.mem_range.mpr v.isLt)
      List.nodup_range (fun u => congView_congOne l v) (fun u v' hv' => congView_other (by omega)) t
  have hall : congView f l v ((List.range 18).foldl (fun t l => (List.range 8).foldl (fun u v => u.congOne f l v) t) s) =
      congStep (congView f l v s) :=
    foldl_once (congView f l v) _ (fun (t : State) (l : Nat) => (List.range 8).foldl (fun u v => u.congOne f l v) t) congStep l.val
      (List.mem_range.mpr l.isLt) List.nodup_range hlink
      (fun t l' hl' => foldl_same (congView f l v) _ (fun (u : State) (v : Nat) => u.congOne f l' v) (fun u v' hv' =>
        congView_other (by have := List.mem_range.mp hv'; omega)) t) s
  obtain ⟨hocc, hrest⟩ := Prod.mk.inj hall
  obtain ⟨hbucket, hpeak⟩ := Prod.mk.inj hrest
  rw [hocc] at hbucket
  exact ⟨hbucket, hpeak⟩

/-! ### Combining slots (R427) -/

theorem State.router_portQueue (vc : Nat) (p : Packet) (b : Bool) :
    ((s.portQueue f n vc p b).field f).router = (s.field f).router := State.router_updField_same f _ (fun _ => rfl)

/-- A slot is free, and counts if it waited. -/
def State.combFreed (s : State) (f : FieldId) (k : Nat) (x : CombSlot) (aged : Bool) : State :=
  if aged && decide (2 ≤ x.contribs.length) then
    (s.updRouter f (fun R => { R with comb := SMap.erase R.comb k })).fcount f Reg.RTE_COMB_STAT.AGED
  else s.updRouter f (fun R => { R with comb := SMap.erase R.comb k })

theorem State.aged_combFreed (k : Nat) (x : CombSlot) (aged : Bool) : (s.combFreed f k x aged).freg f Reg.RTE_COMB_STAT.AGED =
    (if aged = true ∧ 2 ≤ x.contribs.length then satAdd 16 (s.freg f Reg.RTE_COMB_STAT.AGED) 1
      else s.freg f Reg.RTE_COMB_STAT.AGED) := by
  have hfreed : (s.updRouter f (fun R => { R with comb := SMap.erase R.comb k })).freg f Reg.RTE_COMB_STAT.AGED =
      s.freg f Reg.RTE_COMB_STAT.AGED := State.freg_updField_same _ _ _ _ _ _ _ (fun _ => rfl)
  rw [State.combFreed]
  by_cases h : aged = true ∧ 2 ≤ x.contribs.length
  · rw [if_pos (by simp [h]), if_pos h, State.freg_fcount, hfreed]
    rfl
  · rw [if_neg (by simpa using h), if_neg h, hfreed]

theorem State.router_combFreed (k : Nat) (x : CombSlot) (aged : Bool) : ((s.combFreed f k x aged).field f).router =
    { (s.field f).router with comb := SMap.erase (s.field f).router.comb k } := by
  rw [State.combFreed]
  split
  · rw [State.fcount, State.router_fset, State.router_updRouter]
  · rw [State.router_updRouter]

theorem State.port_combFreed (k : Nat) (x : CombSlot) (aged : Bool) : (s.combFreed f k x aged).port f n = s.port f n := by
  rw [State.combFreed]
  split
  · rw [State.port_fcount, State.port_updRouter]
  · rw [State.port_updRouter]

theorem State.comb_combFreed (k : Nat) (x : CombSlot) (aged : Bool) :
    SMap.find ((s.combFreed f k x aged).field f).router.comb k = none := by
  rw [State.router_combFreed]
  dsimp only
  rw [SMap.find_erase, if_pos rfl]

theorem State.combSlotSend_port {k : Nat} {x : CombSlot} {aged : Bool} (hd : s.svc f ≠ svcDark)
    (hslot : SMap.find (s.field f).router.comb k = some x) (hport : x.egress < 16)
    (hgo : s.vcCredit f (BitVec.ofNat 4 x.egress).toFin x.vc = true ∨ x.contribs.length = 8 ∨ aged = true) :
    exec (.combSlotSend f k aged) s =
      .next ((s.combFreed f k x aged).portQueue f (BitVec.ofNat 4 x.egress).toFin x.vc x.leave true) := by
  refine (State.inRim_of_ne hd).trans ?_
  rw [hslot]
  dsimp only
  rw [if_pos hport, if_pos hport, if_pos (by simpa only [Bool.or_eq_true, decide_eq_true_eq, or_assoc] using hgo)]
  rfl

theorem State.combSlotSend_d2d {k : Nat} {x : CombSlot} {aged : Bool} (hd : s.svc f ≠ svcDark)
    (hslot : SMap.find (s.field f).router.comb k = some x) (hlink : 16 ≤ x.egress)
    (hgo : d2dRoom (SMap.get (s.field (d2dNext f x.egress)).router.d2dq []
      (d2dKey (d2dSide (d2dNext f x.egress) f) x.vc x.pkt.stage)) = true ∨ x.contribs.length = 8 ∨ aged = true) :
    exec (.combSlotSend f k aged) s = .next ((s.combFreed f k x aged).d2dQueue f x.egress x.vc x.leave true) := by
  refine (State.inRim_of_ne hd).trans ?_
  rw [hslot]
  dsimp only
  rw [if_neg (Nat.not_lt.mpr hlink), if_neg (Nat.not_lt.mpr hlink), if_pos (by simpa only [Bool.or_eq_true, decide_eq_true_eq, or_assoc] using hgo)]
  rfl

/-! ### The commands -/

/-- Settles O26: the routed packet by its next hop (`routePacket_of`), seals and windows by the branches of their commands. -/
theorem routingCommandsComplete : Obligations.RoutingCommandsComplete := by
  unfold Obligations.RoutingCommandsComplete
  refine ⟨?_, ?_, ?_, ?_, ?_, ?_, ?_, ?_, ?_, ?_, ?_, ?_, ?_, ?_, ?_, ?_, ?_, ?_, ?_, ?_, ?_, ?_, ?_, ?_⟩
  · intro s f l vc g t p hd htake hone
    refine Leaves.finish ((State.inRim_of_ne hd).trans ?_) rfl
    rw [htake]
    refine if_neg ?_
    rintro ⟨hl, hm⟩
    rcases hone with h | h
    · exact h hl
    · exact absurd (h.symm.trans hm) (by decide)
  · intro s f l vc g p hd hhead hone hdst hlt hok hform hkind
    obtain ⟨t, i, hfetch, hexec⟩ := State.routePacket_of hd hhead hone
    refine Leaves.finish hexec ?_
    rw [State.route_deliver (State.hop_deliver (hdst.trans (congrFun (State.node_of_hub hfetch.hub) f).symm) hlt),
      State.deliver_ok ((hfetch.deliverOk f p).trans hok) hform hkind, State.router_updRouter]
    exact congrArg (· ++ [p]) (hfetch.inbox f)
  · intro s f l vc g p hd hhead hone hdst hlt hok
    obtain ⟨t, i, hfetch, hexec⟩ := State.routePacket_of hd hhead hone
    have hroute : t.route f { pkt := p, vc := vc } i = t.dropForeign f p := by
      rw [State.route_deliver (State.hop_deliver (hdst.trans (congrFun (State.node_of_hub hfetch.hub) f).symm) hlt)]
      unfold State.deliver
      rw [if_pos (by rw [hfetch.deliverOk, hok]; rfl)]
    refine Leaves.finish hexec ?_
    rw [hroute, State.foreign_dropForeign, hfetch.freg, State.router_dropForeign]
    exact ⟨rfl, hfetch.inbox f⟩
  · intro s f l vc g p hd hhead hone hbeyond
    obtain ⟨t, i, hfetch, hexec⟩ := State.routePacket_of hd hhead hone
    refine Leaves.finish hexec ?_
    rw [State.route_drop (State.hop_beyond hbeyond), State.noroute_dropNoroute, hfetch.freg]
  · intro s f l vc g p r n hd hhead hone hsealed hnext hok
    obtain ⟨t, i, hfetch, hexec⟩ := State.routePacket_of hd hhead hone
    have hhop : t.hop f { pkt := p, vc := vc } = (r, .port n) := by
      rw [State.hop, hfetch.freg, if_pos hsealed, hfetch.nextHop, hnext]
    refine Leaves.finish hexec ?_
    rw [State.route_port hhop, State.portSend, hfetch.transitOk, hok, if_neg (by decide), State.txq_portQueue, hfetch.txq]
  · intro s f l vc g p r n hd hhead hone hsealed hnext hok
    obtain ⟨t, i, hfetch, hexec⟩ := State.routePacket_of hd hhead hone
    have hhop : t.hop f { pkt := p, vc := vc } = (r, .port n) := by
      rw [State.hop, hfetch.freg, if_pos hsealed, hfetch.nextHop, hnext]
    refine Leaves.finish hexec ?_
    rw [State.route_port hhop, State.portSend, hfetch.transitOk, hok, if_pos (by decide), State.transit_dropTransit, hfetch.freg]
  · intro s f vc g p ps hd hissued hm
    have htake : s.takeHead f (18 : Fin 19) vc g = some (s.updRouter f (fun R => { R with issued := SMap.set R.issued [] vc ps }), p) := by
      unfold State.takeHead
      dsimp only
      rw [if_neg (by decide), if_neg (by decide), hissued]
    have hfetch := Fetched.takeHead htake
    have hcame (t : State) : t.beaconCame f (18 : Fin 19) p (s.headStamp f (18 : Fin 19) vc g) = t :=
      if_neg (fun h => absurd h.1 (by decide))
    refine Leaves.next (u := (s.updRouter f (fun R => { R with issued := SMap.set R.issued [] vc ps })).updRouter f (fun R =>
      { R with mcasts := R.mcasts ++ [(p, s.mcastMembers f p.maxis (rhOf p).mask)] })) ((State.inRim_of_ne hd).trans ?_) ?_
    · rw [htake]
      refine (if_pos ⟨rfl, hm⟩).trans ?_
      rw [hcame, hfetch.mcastMembers]
    · rw [State.router_updRouter, State.router_updRouter]
      refine ⟨rfl, ?_⟩
      dsimp only
      rw [SMap.get_set, if_pos rfl]
  · intro s f l vc g h
    by_cases hd : s.svc f = svcDark
    · exact Leaves.next (State.inRim_of_dark hd) rfl
    · refine Leaves.next ((State.inRim_of_ne hd).trans ?_) rfl
      rw [h.resolve_left hd]
  · intro s f p c cs l hd hm
    refine Leaves.finish ((State.inRim_of_ne hd).trans ?_) ⟨rfl, ?_⟩
    · rw [hm]
    · rw [State.mcasts_route, State.router_updRouter]
  · intro s f p l hd hm
    refine Leaves.next ((State.inRim_of_ne hd).trans ?_) rfl
    rw [hm]
  · intro s f h
    by_cases hd : s.svc f = svcDark
    · exact Leaves.next (State.inRim_of_dark hd) rfl
    · refine Leaves.next ((State.inRim_of_ne hd).trans ?_) rfl
      rw [h.resolve_left hd]
  · intro s f hd hlost hpend
    refine Leaves.finish (State.inRim_of_ne hd) ?_
    rw [State.seal, hlost, if_neg (by decide), if_pos hpend, State.freg_fset]
    rfl
  · intro s f code a i hd hlost hpend hcheck
    refine Leaves.finish (State.inRim_of_ne hd) ?_
    rw [State.seal_refused hlost hpend hcheck, State.freg_sealEvent, State.result_sealStatus]
    exact ⟨rfl, congrArg RouterUnit.active (State.router_sealStatus code a i)⟩
  · intro s f hd hlost hpend hcheck hmark
    refine Leaves.finish (State.inRim_of_ne hd) ?_
    rw [State.seal_passed hlost hpend hcheck, if_pos hmark]
    refine ⟨?_, ?_, State.freg_fset _ _ _ _ _ _, ?_, ?_⟩
    · rw [State.freg_fset_other _ _ _ _ _ _ _ _ _ _ (by decide), State.freg_updRouter, State.result_sealPassed]
    · rw [State.freg_fset_other _ _ _ _ _ _ _ _ _ _ (by decide), State.freg_updRouter, State.sealed_sealPassed]
    · rw [State.router_fset, State.router_updRouter]
    · rw [State.router_fset, State.router_updRouter, State.router_sealPassed]
  · intro s f hd hlost hpend hcheck hmark
    refine Leaves.finish (State.inRim_of_ne hd) ?_
    rw [State.seal_passed hlost hpend hcheck, if_neg hmark, State.freg_bankActivate _ _ (by decide),
      State.freg_bankActivate _ _ (by decide)]
    exact ⟨State.result_sealPassed, State.sealed_sealPassed, State.pending_bankActivate _, State.active_bankActivate _⟩
  · intro s f h
    by_cases hd : s.svc f = svcDark
    · exact Leaves.next (State.inRim_of_dark hd) rfl
    · refine Leaves.finish (State.inRim_of_ne hd) ?_
      rw [State.seal, if_pos (h.resolve_left hd)]
  · intro s f hd hon
    refine Leaves.next ((State.inRim_of_ne hd).trans (if_neg hon)) ?_
    exact State.cong_sample
  · intro s f hd hon hend
    refine Leaves.next ((State.inRim_of_ne hd).trans (if_neg ?_)) ?_
    · rintro (h | h)
      · exact hon h
      · exact hend h
    · rw [State.router_updRouter]
      exact ⟨rfl, rfl, rfl, rfl, rfl⟩
  · intro s f h x hx
    simp only [List.mem_cons, List.not_mem_nil, or_false] at hx
    by_cases hd : s.svc f = svcDark
    · rcases hx with rfl | rfl
      all_goals exact Leaves.next (State.inRim_of_dark hd) rfl
    · rcases hx with rfl | rfl
      · exact Leaves.next ((State.inRim_of_ne hd).trans (if_pos (h.resolve_left hd))) rfl
      · exact Leaves.next ((State.inRim_of_ne hd).trans (if_pos (.inl (h.resolve_left hd)))) rfl
  · intro s f h
    by_cases hd : s.svc f = svcDark
    · exact Leaves.next (State.inRim_of_dark hd) rfl
    · exact Leaves.next ((State.inRim_of_ne hd).trans (if_pos (.inr h))) rfl
  · intro s f k x aged hd hslot hport hgo
    refine Leaves.next (State.combSlotSend_port hd hslot hport hgo) ⟨?_, ?_, ?_⟩
    · rw [State.portQueue, State.freg_updPort, State.aged_combFreed]
    · rw [State.router_portQueue, State.comb_combFreed]
    · rw [State.txq_portQueue, State.port_combFreed]
  · intro s f k x aged hd hslot hlink hgo
    refine Leaves.next (State.combSlotSend_d2d hd hslot hlink hgo) ⟨?_, ?_, ?_⟩
    · rw [State.d2dQueue, State.freg_updRouter, State.aged_combFreed]
    · rw [State.d2dQueue, State.router_updRouter]
      exact State.comb_combFreed k x aged
    · rw [State.d2dtx_d2dQueue, State.router_combFreed]
  · intro s f k x hslot hno hcount
    by_cases hd : s.svc f = svcDark
    · exact Leaves.next (State.inRim_of_dark hd) rfl
    · refine Leaves.next ((State.inRim_of_ne hd).trans ?_) rfl
      rw [hslot]
      refine if_neg ?_
      simp only [Bool.or_eq_true, decide_eq_true_eq, not_or]
      exact ⟨⟨Bool.eq_false_iff.mp hno, hcount⟩, by decide⟩
  · intro s f k aged h
    by_cases hd : s.svc f = svcDark
    · exact Leaves.next (State.inRim_of_dark hd) rfl
    · refine Leaves.next ((State.inRim_of_ne hd).trans ?_) rfl
      rw [h.resolve_left hd]

end Sys2Proof.Machine

end


section
/-! What reaches a gateway, and a line at its turn (R404, R409, R416). -/

namespace Sys2Proof.Machine

set_option Elab.async false

open Sys2Proof

variable {s t : State} {f : FieldId} {k : Nat} {p : Packet}

/-! ### Arrival -/

/-- A packet that a gateway acts on: of its kind, well formed, for this field, waiting at the router or delivered now, of no
halted allotment. -/
structure Acted (s : State) (f : FieldId) (k : Nat) (p : Packet) : Prop where
  kind : (rhOf p).kind = k
  remote : pktRemote p = true
  formed : rhWellFormed p = true
  dst : p.dst = s.node f
  here : (s.field f).router.inbox.contains p = true ∨ s.deliverOk f p = true
  running : 0x40 ≤ k ∨ s.halted f = false ∨ p.allot ≠ s.allot f

theorem Acted.arrival (h : Acted s f k p) : s.arrival f k p =
    (if (s.field f).router.inbox.contains p then s.updRouter f (fun R => { R with inbox := R.inbox.erase p }) else s, true) := by
  obtain ⟨hkind, hremote, hformed, hdst, hhere, hrun⟩ := h
  have hno : ¬ ((rhOf p).kind ≠ k ∨ pktRemote p = false ∨ rhWellFormed p = false ∨ p.dst ≠ s.node f) := by
    simp [hkind, hremote, hformed, hdst]
  have hwait : ¬ (!(s.field f).router.inbox.contains p && !s.deliverOk f p) = true := by
    rcases hhere with h | h <;> simp only [h, Bool.not_true, Bool.false_and, Bool.and_false, Bool.false_eq_true, not_false_eq_true]
  have hacts : (decide (0x40 ≤ k) || !(s.halted f && decide (p.allot = s.allot f))) = true := by
    rcases hrun with h | h | h
    · rw [decide_eq_true h, Bool.true_or]
    · rw [h, Bool.false_and, Bool.not_false, Bool.or_true]
    · rw [decide_eq_false h, Bool.and_false, Bool.not_false, Bool.or_true]
  rw [State.arrival, if_neg hno]
  dsimp only
  rw [if_neg hwait, hacts]

theorem Acted.acts (h : Acted s f k p) : (s.arrival f k p).2 = true := by
  rw [h.arrival]

/-- An arrival leaves the gateway and every register. -/
theorem Acted.gw (h : Acted s f k p) : (s.arrival f k p).1.gw f = s.gw f := by
  rw [h.arrival]
  dsimp only
  split
  · rw [State.gw, State.updRouter, State.field_updField, State.gw]
  · rfl

theorem Acted.freg (h : Acted s f k p) (r : RegField) (m i : Nat) : (s.arrival f k p).1.freg f r m i = s.freg f r m i := by
  rw [h.arrival]
  dsimp only
  split
  · exact State.freg_updRouter _ _ _ _ _ _
  · rfl

theorem Acted.flowRx (h : Acted s f k p) (n : Nat) : (s.arrival f k p).1.flowRx f n = s.flowRx f n := by
  rw [State.flowRx, State.flowRx, h.gw]

theorem State.injArmed_of_freg (h : ∀ r m i, t.freg f r m i = s.freg f r m i) (r point : Nat) :
    t.injArmed f r point = s.injArmed f r point := by
  simp only [State.injArmed, h]

/-- A command on a packet, as the gateway's commands begin. -/
theorem acted_of_halt (hkind : (rhOf p).kind = k) (hremote : pktRemote p = true) (hformed : rhWellFormed p = true)
    (hdst : p.dst = s.node f) (hhere : (s.field f).router.inbox.contains p = true ∨ s.deliverOk f p = true)
    (hrun : s.halted f = false ∨ p.allot ≠ s.allot f) : Acted s f k p :=
  ⟨hkind, hremote, hformed, hdst, hhere, .inr hrun⟩

/-! ### Ordered lines (R409) -/

theorem State.orderedRow_not (h : (s.arrival f k p).2 = false) : s.orderedRow f k p = finish (s.arrival f k p).1 :=
  if_neg (Bool.eq_false_iff.mp h)

theorem Acted.orderedRow (h : Acted s f k p) :
    s.orderedRow f k p = finish (((s.arrival f k p).1.orderedArrive f p).mirSettle f) := if_pos h.acts

/-- A line of a flow that is open and at its turn. -/
structure AtTurn (s : State) (f : FieldId) (p : Packet) : Prop where
  calm : s.injArmed f injGwy 2 = false
  valid : (s.flowRx f p.src).valid = true
  epoch : (s.flowRx f p.src).fepoch = (rhOf p).fepoch
  next : (s.flowRx f p.src).exp = (rhOf p).seq
  unheld : (s.flowRx f p.src).held.any (fun x => decide (x.seq = (rhOf p).seq)) = false
  unwaited : (s.gw f).redWait.any (fun q => decide (q.src = p.src) && decide ((rhOf q).seq = (rhOf p).seq)) = false

theorem seqBefore_self (n : Nat) : seqBefore n n = false := by
  have hzero : (n + 2 ^ 32 - n) % 2 ^ 32 = 0 := by omega
  rw [seqBefore, hzero]
  rfl

theorem State.flowRx_lineSeen (m n : Nat) : (s.lineSeen f m).flowRx f n = s.flowRx f n := by
  rw [State.flowRx, State.gw, State.lineSeen, State.updGw, State.field_updField]
  rfl

theorem State.redWait_lineSeen (m : Nat) : ((s.lineSeen f m).gw f).redWait = (s.gw f).redWait := by
  rw [State.gw, State.lineSeen, State.updGw, State.field_updField]
  rfl

/-- A line at its turn is applied, and the lines held behind it after it. -/
theorem AtTurn.orderedArrive {u : State} {st : Nat} (h : AtTurn s f p) (happly : (s.lineSeen f p.src).applyLine f p = (u, .done st)) :
    s.orderedArrive f p = ((u.queueServed f p.src (rhOf p).seq).lineApplied f p.src p st).drainFlow f p.src := by
  obtain ⟨hcalm, hvalid, hepoch, hnext, hunheld, hunwaited⟩ := h
  have hbefore : ¬ (seqBefore (rhOf p).seq (s.flowRx f p.src).exp || (s.flowRx f p.src).held.any (fun x => decide (x.seq = (rhOf p).seq)) ||
      (s.gw f).redWait.any (fun q => decide (q.src = p.src) && decide ((rhOf q).seq = (rhOf p).seq))) = true := by
    rw [hnext, seqBefore_self, hunheld, hunwaited]
    decide
  have hopen : ¬ (!decide ((rhOf p).flags &&& fOpen ≠ 0) && (!(s.flowRx f p.src).valid ||
      decide ((s.flowRx f p.src).fepoch ≠ (rhOf p).fepoch))) = true := by
    rw [hvalid, decide_eq_false (not_not_intro hepoch), Bool.not_true, Bool.or_false, Bool.and_false]
    decide
  have hsame : ¬ (decide ((rhOf p).flags &&& fOpen ≠ 0) && !((s.flowRx f p.src).valid &&
      decide ((s.flowRx f p.src).fepoch = (rhOf p).fepoch))) = true := by
    rw [hvalid, decide_eq_true hepoch, Bool.and_self, Bool.not_true, Bool.and_false]
    decide
  rw [State.orderedArrive, hcalm, if_neg (by decide), if_neg hopen]
  dsimp only
  rw [if_neg hsame, State.takeOrdered]
  dsimp only
  rw [State.flowRx_lineSeen, State.redWait_lineSeen, if_neg hbefore, if_pos hnext.symm, happly]

theorem Acted.atTurn (ha : Acted s f k p) (h : AtTurn s f p) : AtTurn (s.arrival f k p).1 f p := by
  obtain ⟨hcalm, hvalid, hepoch, hnext, hunheld, hunwaited⟩ := h
  refine ⟨?_, ?_, ?_, ?_, ?_, ?_⟩
  · rwa [State.injArmed_of_freg ha.freg]
  · rwa [ha.flowRx]
  · rwa [ha.flowRx]
  · rwa [ha.flowRx]
  · rwa [ha.flowRx]
  · rwa [ha.gw]

/-- A command's line that is acted on at its turn (R409). -/
theorem Acted.orderedTurn {u : State} {st : Nat} (ha : Acted s f k p) (h : AtTurn s f p)
    (happly : ((s.arrival f k p).1.lineSeen f p.src).applyLine f p = (u, .done st)) : s.orderedRow f k p =
      finish ((((u.queueServed f p.src (rhOf p).seq).lineApplied f p.src p st).drainFlow f p.src).mirSettle f) := by
  rw [ha.orderedRow, (ha.atTurn h).orderedArrive happly]

/-! ### What a line does, by its kind (R409, R491) -/

theorem State.applyLine_mirMark (h : (rhOf p).kind = kMirMark) :
    s.applyLine f p = ((s.mirMarkApply f p.src (rhOf p).operand).1, .done (s.mirMarkApply f p.src (rhOf p).operand).2) := by
  rw [State.applyLine, h]
  rfl

theorem State.applyLine_mirLayout (h : (rhOf p).kind = kMirLayout) : s.applyLine f p =
    ((s.mirLayoutApply f p.src (rhOf p).operand (rhPayload p)).1, .done (s.mirLayoutApply f p.src (rhOf p).operand (rhPayload p)).2) := by
  rw [State.applyLine, h]
  rfl

theorem State.applyLine_mirPull (h : (rhOf p).kind = kMirPull) :
    s.applyLine f p = ((s.mirPullApply f p.src (rhOf p).operand).1, .done (s.mirPullApply f p.src (rhOf p).operand).2) := by
  rw [State.applyLine, h]
  rfl

theorem State.applyLine_mirDone (h : (rhOf p).kind = kMirDone) :
    s.applyLine f p = ((s.mirDoneApply f p.src (rhOf p).operand).1, .done (s.mirDoneApply f p.src (rhOf p).operand).2) := by
  rw [State.applyLine, h]
  rfl

end Sys2Proof.Machine

end


section
/-! Mirroring and health (R245, R475 to R510). -/

namespace Sys2Proof.Machine

set_option Elab.async false

open Sys2Proof

variable {s t : State} {f : FieldId} {k : Nat} {p : Packet}

/-- A control packet of the mirror protocol that is acted on at its turn. -/
theorem Acted.mirTurn {r : Result} {g : State → State × Nat} (hr : r = s.orderedRow f k p) (ha : Acted s f k p) (ht : AtTurn s f p)
    (happly : ∀ t : State, t.applyLine f p = ((g t).1, .done (g t).2)) :
    Leaves r (fun u => u = (((((g ((s.arrival f k p).1.lineSeen f p.src)).1.queueServed f p.src (rhOf p).seq).lineApplied f p.src p
      (g ((s.arrival f k p).1.lineSeen f p.src)).2).drainFlow f p.src).mirSettle f)) :=
  Leaves.finish (hr.trans (ha.orderedTurn ht (happly _))) rfl

/-! ### Takes (R245, R492) -/

theorem State.takes_of {g : Nat} (hon : (s.mir f).src.on = true) (hhalt : s.halted f = false) (hlive : s.mirLive f ≠ [])
    (hin : SMap.get (s.memu f).res false g = true ∨
      ((s.memu f).res.isEmpty = true ∧ (s.mir f).src.commit = false ∧ SMap.get (s.memu f).cur false g = true)) :
    ¬ (!(s.mir f).src.on || s.halted f || decide (s.mirLive f = []) || !(SMap.get (s.memu f).res false g ||
      ((s.memu f).res.isEmpty && !(s.mir f).src.commit && SMap.get (s.memu f).cur false g))) = true := by
  rcases hin with h | ⟨hres, hcommit, hcur⟩
  · simp [hon, hhalt, hlive, h]
  · simp [hon, hhalt, hlive, hres, hcommit, hcur]

/-! ### Pushes (R507) -/

theorem State.mirPush_of {n : Fin 2} {x y : MirPush} {s1 : State} (hd : s.svc f ≠ svcDark) (hpush : (s.mirSlot f n).push = some x)
    (hy : (if s.injArmedAt f injMir 2 n then { x with stall := some (s.injArg f injMir) } else x) = y)
    (hs1 : (if s.injArmedAt f injMir 2 n then s.injFire f injMir else s).updSlot f n (fun z => { z with push := some y }) = s1) :
    exec (.mirPush f n) s = if y.stall.any (fun k => decide (k ≤ y.next)) then finish s1
      else match copyGranule (s.mirSlot f n).layout y.next with
        | none => finish ((s1.pushDone f n y).mirSettle f)
        | some g => finish ((((List.range granLines).foldl (fun t i => t.pushLine f n y.next g y.dst i) s1).updSlot f n
            (fun z => { z with push := some { y with next := y.next + 1 } })).mirSettle f) := by
  refine (State.inRim_of_ne hd).trans ?_
  subst hy hs1
  rw [hpush] <;> rfl

/-! ### Hard events (R475, R478) -/

/-- A field's oldest hard event is noted in its score (R478). -/
def State.hardNoted (s : State) (f : FieldId) (kd : Nat) (inj : Bool) (l : List (Nat × Bool)) : State :=
  let s2 := (s.updField f (fun F => { F with hardDue := l, hlt := { F.hlt with injected := F.hlt.injected || inj } })).fset f
    Reg.HLT_SCORE.SCORE (if kd = 0 then s.freg f Reg.HLT_SCORE.SCORE - 400 else s.freg f Reg.HLT_SCORE.SCORE)
  ((if inj then s2.fset f Reg.HLT_SCORE.INJECTED 1 else s2).fset f Reg.HLT_SCORE.HARD 1).raise f Ev.HLT_HARD [(1, f), (1, kd)] inj

theorem State.field_fset (f : FieldId) (r : RegField) (v m i : Nat) : (s.fset f r v m i).field f = (s.field f).setReg r v m i :=
  State.field_updField _ _ _

theorem State.hardDue_hardNoted (kd : Nat) (inj : Bool) (l : List (Nat × Bool)) : ((s.hardNoted f kd inj l).field f).hardDue = l := by
  have hraise (t : State) (e : EvKind) (i : List (Nat × Nat)) (b : Bool) : (t.raise f e i b).field f = t.field f := rfl
  rw [State.hardNoted, hraise, State.field_fset]
  split
  · rw [State.field_fset, State.field_fset, State.field_updField]
    rfl
  · rw [State.field_fset, State.field_updField]
    rfl

theorem State.score_hardNoted (kd : Nat) (inj : Bool) (l : List (Nat × Bool)) :
    (s.hardNoted f kd inj l).freg f Reg.HLT_SCORE.SCORE = (if kd = 0 then (s.freg f Reg.HLT_SCORE.SCORE - 400) % 2 ^ 10
      else s.freg f Reg.HLT_SCORE.SCORE % 2 ^ 10) := by
  have hraise (t : State) (e : EvKind) (i : List (Nat × Nat)) (b : Bool) : (t.raise f e i b).freg f Reg.HLT_SCORE.SCORE =
      t.freg f Reg.HLT_SCORE.SCORE := rfl
  have hset (t : State) (v : Nat) : (t.fset f Reg.HLT_SCORE.SCORE v).freg f Reg.HLT_SCORE.SCORE = v % 2 ^ 10 := State.freg_fset _ _ _ _ _ _
  rw [State.hardNoted, hraise, State.freg_fset_other _ _ _ _ _ _ _ _ _ _ (by decide)]
  split
  · rw [State.freg_fset_other _ _ _ _ _ _ _ _ _ _ (by decide), hset]
    split <;> rfl
  · rw [hset]
    split <;> rfl

theorem State.hard_hardNoted (kd : Nat) (inj : Bool) (l : List (Nat × Bool)) : (s.hardNoted f kd inj l).freg f Reg.HLT_SCORE.HARD = 1 :=
  State.freg_fset _ _ _ _ _ _

theorem State.expel_expel (inj : Bool) : (s.expel f inj).freg f Reg.HLT_SCORE.EXPEL = 1 := by
  rw [State.expel]
  split
  next h => exact h
  · exact State.freg_fset _ _ _ _ _ _

/-- What an expulsion and the package's score leave (R475, R479). -/
theorem State.expel_package_only (inj : Bool) : Only [.events, .reg Reg.HLT_SCORE.EXPEL, .hubReg Reg.HLT_PKG.OUT, .hubReg Reg.HLT_PKG.SCORE]
    (fun _ => True) (fun _ => True) s ((s.expel f inj).packageScore) :=
  State.packageScore_only _ (by decide) (State.expel_only _ f inj (by decide) trivial (.refl _ _ _ s))

theorem State.hard_of {kd : Nat} {inj : Bool} {l : List (Nat × Bool)} (hdue : (s.field f).hardDue = (kd, inj) :: l) :
    exec (.hardEvent f) s = finish (((s.hardNoted f kd inj l).expel f inj).packageScore) := by
  change execHardEvent f s = _
  rw [execHardEvent, hdue]
  rfl

/-- Settles O34: mirror lines as lines of an ordered flow at their turn (`Acted.orderedTurn`), the rest by the branch of each command. -/
theorem healthAndMirrorCommandsComplete : Obligations.HealthAndMirrorCommandsComplete := by
  unfold Obligations.HealthAndMirrorCommandsComplete
  refine ⟨?_, ?_, ?_, ?_, ?_, ?_, ?_, ?_, ?_, ?_, ?_, ?_, ?_, ?_, ?_, ?_, ?_, ?_, ?_, ?_, ?_, ?_, ?_, ?_, ?_, ?_, ?_, ?_, ?_, ?_,
    ?_, ?_, ?_, ?_, ?_, ?_, ?_, ?_, ?_⟩
  · intro s f p n a hd x hx
    simp only [List.mem_cons, List.not_mem_nil, or_false] at hx
    rcases hx with rfl | rfl | rfl | rfl | rfl | rfl | rfl | rfl | rfl | rfl | rfl | rfl
    all_goals exact Leaves.next (State.inRim_of_dark hd) rfl
  · intro s f g hd hon hhalt hlive hin hindex
    refine Leaves.finish ((State.inRim_of_ne hd).trans ?_) rfl
    rw [if_neg (State.takes_of hon hhalt hlive hin), hindex]
  · intro s f g c hd hon hhalt hlive hin hindex
    refine Leaves.finish ((State.inRim_of_ne hd).trans ?_) rfl
    rw [if_neg (State.takes_of hon hhalt hlive hin), hindex]
  · intro s f g h
    by_cases hd : s.svc f = svcDark
    · exact Leaves.next (State.inRim_of_dark hd) rfl
    · refine Leaves.next ((State.inRim_of_ne hd).trans (if_pos ?_)) rfl
      simp only [Bool.or_eq_true, Bool.not_eq_true', decide_eq_true_eq]
      rcases h with h | h | h | h
      · exact .inl (.inl (.inl h))
      · exact .inl (.inl (.inr h))
      · exact .inl (.inr h)
      · refine .inr (Bool.eq_false_iff.mpr (fun e => h ?_))
        simpa [and_assoc] using e
  · intro s f hd hon hcommit hres hhalt
    refine Leaves.finish (State.inRim_of_ne hd) ?_
    rw [State.mirCommit, if_pos (by simp [hon, hcommit, hres, hhalt])]
    exact ⟨rfl, State.freg_fset _ _ _ _ _ _⟩
  · intro s f h
    by_cases hd : s.svc f = svcDark
    · exact Leaves.next (State.inRim_of_dark hd) rfl
    · refine Leaves.finish (State.inRim_of_ne hd) ?_
      rw [State.mirCommit, if_neg (by rcases h with h | h | h | h <;> simp [h])]
  · intro s f p hd x hx hno
    simp only [List.mem_cons, List.not_mem_nil, or_false] at hx
    rcases hx with rfl | rfl | rfl | rfl
    all_goals exact Leaves.finish ((State.inRim_of_ne hd).trans (State.orderedRow_not hno)) rfl
  · intro s f p hd hkind hremote hformed hdst hhere hrun
    exact Leaves.finish ((State.inRim_of_ne hd).trans (acted_of_halt hkind hremote hformed hdst hhere hrun).orderedRow) rfl
  · intro s f p hd hkind hremote hformed hdst hhere hrun hcalm hvalid hepoch hnext hunheld hunwaited
    exact Acted.mirTurn (g := fun t => t.mirMarkApply f p.src (rhOf p).operand) (State.inRim_of_ne hd)
      (acted_of_halt hkind hremote hformed hdst hhere hrun) ⟨hcalm, hvalid, hepoch, hnext, hunheld, hunwaited⟩
      (fun t => State.applyLine_mirMark hkind)
  · intro s f p hd hkind hremote hformed hdst hhere hrun
    exact Leaves.finish ((State.inRim_of_ne hd).trans (acted_of_halt hkind hremote hformed hdst hhere hrun).orderedRow) rfl
  · intro s f p hd hkind hremote hformed hdst hhere hrun hcalm hvalid hepoch hnext hunheld hunwaited
    exact Acted.mirTurn (g := fun t => t.mirLayoutApply f p.src (rhOf p).operand (rhPayload p)) (State.inRim_of_ne hd)
      (acted_of_halt hkind hremote hformed hdst hhere hrun) ⟨hcalm, hvalid, hepoch, hnext, hunheld, hunwaited⟩
      (fun t => State.applyLine_mirLayout hkind)
  · intro s f p hd hkind hremote hformed hdst hhere hrun
    exact Leaves.finish ((State.inRim_of_ne hd).trans (acted_of_halt hkind hremote hformed hdst hhere hrun).orderedRow) rfl
  · intro s f p hd hkind hremote hformed hdst hhere hrun hcalm hvalid hepoch hnext hunheld hunwaited
    exact Acted.mirTurn (g := fun t => t.mirPullApply f p.src (rhOf p).operand) (State.inRim_of_ne hd)
      (acted_of_halt hkind hremote hformed hdst hhere hrun) ⟨hcalm, hvalid, hepoch, hnext, hunheld, hunwaited⟩
      (fun t => State.applyLine_mirPull hkind)
  · intro s f p hd hkind hremote hformed hdst hhere hrun
    exact Leaves.finish ((State.inRim_of_ne hd).trans (acted_of_halt hkind hremote hformed hdst hhere hrun).orderedRow) rfl
  · intro s f p hd hkind hremote hformed hdst hhere hrun hcalm hvalid hepoch hnext hunheld hunwaited
    exact Acted.mirTurn (g := fun t => t.mirDoneApply f p.src (rhOf p).operand) (State.inRim_of_ne hd)
      (acted_of_halt hkind hremote hformed hdst hhere hrun) ⟨hcalm, hvalid, hepoch, hnext, hunheld, hunwaited⟩
      (fun t => State.applyLine_mirDone hkind)
  · intro s f n x g hd hpush hcalm hstall hgran
    refine Leaves.finish ((State.mirPush_of hd hpush (by rw [hcalm, if_neg (by decide)]) (by rw [hcalm, if_neg (by decide)])).trans ?_) rfl
    rw [hstall, if_neg (by decide), hgran]
  · intro s f n x hd hpush hcalm hstall hgran
    refine Leaves.finish ((State.mirPush_of hd hpush (by rw [hcalm, if_neg (by decide)]) (by rw [hcalm, if_neg (by decide)])).trans ?_) rfl
    rw [hstall, if_neg (by decide), hgran]
  · intro s f n x hd hpush hcalm hstall
    refine Leaves.finish ((State.mirPush_of hd hpush (by rw [hcalm, if_neg (by decide)]) (by rw [hcalm, if_neg (by decide)])).trans ?_) rfl
    rw [if_pos hstall]
  · intro s f n x hd hpush harmed hle
    refine Leaves.finish ((State.mirPush_of hd hpush (if_pos harmed) (by rw [if_pos harmed])).trans ?_) rfl
    exact if_pos (decide_eq_true hle)
  · intro s f n x g hd hpush harmed hlt hgran
    refine Leaves.finish ((State.mirPush_of hd hpush (if_pos harmed) (by rw [if_pos harmed])).trans ?_) rfl
    refine (if_neg (fun h => Nat.not_le.mpr hlt (of_decide_eq_true h))).trans ?_
    dsimp only
    rw [hgran]
  · intro s f n x hd hpush harmed hlt hgran
    refine Leaves.finish ((State.mirPush_of hd hpush (if_pos harmed) (by rw [if_pos harmed])).trans ?_) rfl
    refine (if_neg (fun h => Nat.not_le.mpr hlt (of_decide_eq_true h))).trans ?_
    dsimp only
    rw [hgran]
  · intro s f n hpush
    by_cases hd : s.svc f = svcDark
    · exact Leaves.next (State.inRim_of_dark hd) rfl
    · refine Leaves.next ((State.inRim_of_ne hd).trans ?_) rfl
      rw [hpush]
  · intro s f n hd hon hlive hline
    refine Leaves.finish ((State.inRim_of_ne hd).trans (if_pos ?_)) ⟨?_, State.freg_fset _ _ _ _ _ _⟩
    · rw [hon, hlive, hline]
      rfl
    · rw [State.mir, State.field_fset, State.updMirSrc, State.updMir, State.field_updField]
      exact bit_setBit _ _
  · intro s f n h
    by_cases hd : s.svc f = svcDark
    · exact Leaves.next (State.inRim_of_dark hd) rfl
    · refine Leaves.next ((State.inRim_of_ne hd).trans (if_neg ?_)) rfl
      rcases h with h | h | h
      · rw [h, Bool.false_and, Bool.false_and]
        decide
      · rw [h, Bool.and_false, Bool.false_and]
        decide
      · rw [h, Bool.and_false]
        decide
  · intro s f n hd hon hlt hlost
    refine Leaves.finish ((State.inRim_of_ne hd).trans (if_pos ?_)) rfl
    rw [hon, hlost, decide_eq_true hlt]
    rfl
  · intro s f n h
    by_cases hd : s.svc f = svcDark
    · exact Leaves.next (State.inRim_of_dark hd) rfl
    · refine Leaves.next ((State.inRim_of_ne hd).trans (if_neg ?_)) rfl
      rcases h with h | h | h
      · rw [h, Bool.false_and, Bool.false_and]
        decide
      · rw [decide_eq_false (Nat.not_lt.mpr h), Bool.and_false, Bool.false_and]
        decide
      · rw [h, Bool.and_false]
        decide
  · intro s f hd hload
    refine Leaves.finish (State.inRim_of_ne hd) ?_
    rw [State.loadStart, if_neg (Bool.eq_false_iff.mp hload)]
  · intro s f hd hload
    refine Leaves.finish (State.inRim_of_ne hd) ?_
    rw [State.loadStart, if_pos hload]
  · intro s f hd hload
    refine Leaves.finish (State.inRim_of_ne hd) ?_
    have hraise (t : State) (e : EvKind) (i : List (Nat × Nat)) (r : RegField) : (t.raise f e i).freg f r = t.freg f r := rfl
    rw [State.loadAbort, if_pos hload, State.loadEnd, hraise, hraise, State.freg_fset_other _ _ _ _ _ _ _ _ _ _ (by decide),
      State.freg_fset, State.freg_fset]
    exact ⟨rfl, rfl⟩
  · intro s f hload
    by_cases hd : s.svc f = svcDark
    · exact Leaves.next (State.inRim_of_dark hd) rfl
    · exact Leaves.finish (State.inRim_of_ne hd) (if_neg (Bool.eq_false_iff.mp hload))
  · intro s f hd hload hfirst hsecond
    refine Leaves.finish (State.inRim_of_ne hd) ?_
    rw [State.loadFail, hload, if_neg (by decide), if_pos ⟨hfirst, hsecond⟩]
  · intro s f hd hload hno
    refine Leaves.finish (State.inRim_of_ne hd) ?_
    rw [State.loadFail, hload, if_neg (by decide), if_neg (fun h => hno.elim (fun e => e h.1) h.2)]
  · intro s f hd hload
    refine Leaves.finish (State.inRim_of_ne hd) ?_
    rw [State.loadFail, hload, if_pos (by decide)]
  · intro s h
    exact Leaves.finish (if_pos h) rfl
  · intro s h
    exact Leaves.next (if_neg (Bool.eq_false_iff.mp h)) rfl
  · intro s f kd inj l hdue
    have honly := State.expel_package_only (s := s.hardNoted f kd inj l) (f := f) inj
    obtain ⟨-, hhard, -⟩ := honly.same .hard f (by decide) (.inl (by decide))
    refine Leaves.finish (State.hard_of hdue) ⟨?_, ?_, ?_, ?_⟩
    · exact Eq.trans hhard (State.hardDue_hardNoted kd inj l)
    · rw [honly.freg _ (by decide), State.score_hardNoted]
    · rw [honly.freg _ (by decide), State.hard_hardNoted]
    · exact ((State.packageScore_only (F := fun _ => True) (P := fun _ => True) _ (Fits.refl _) (.refl _ _ _ _)).freg _ (by decide) f 0
        0).trans (State.expel_expel inj)
  · intro s f hdue
    refine Leaves.next ?_ rfl
    change execHardEvent f s = _
    rw [execHardEvent, hdue]
  · intro s f hd
    refine Leaves.next (State.inRim_of_ne hd) ?_
    rw [State.expelClear, State.freg_fset_other _ _ _ _ _ _ _ _ _ _ (by decide),
      State.freg_fset_other _ _ _ _ _ _ _ _ _ _ (by decide), State.freg_fset, State.freg_fset_other _ _ _ _ _ _ _ _ _ _ (by decide),
      State.freg_fset, State.freg_fset]
    exact ⟨rfl, rfl, rfl⟩
  · intro s f hd
    exact Leaves.next (State.inRim_of_dark hd) rfl

end Sys2Proof.Machine

end


section
/-! The gateway's upkeep (R403 to R425). -/

namespace Sys2Proof.Machine

set_option Elab.async false

open Sys2Proof

variable {s t : State} {f : FieldId}

theorem State.gw_updGw (g : GatewayUnit → GatewayUnit) : (s.updGw f g).gw f = g (s.gw f) := by
  rw [State.gw, State.updGw, State.field_updField, State.gw]

/-- A flow that leaves the queue has no place in it (R410). -/
theorem GatewayUnit.queue_leave (G : GatewayUnit) (src n : Nat) : (G.leave src n).queue = G.queue.filter (fun x => x.src ≠ src) := by
  have hreserve (H : GatewayUnit) : H.reserve.queue = H.queue := by
    rw [GatewayUnit.reserve]
    split <;> rfl
  rw [GatewayUnit.leave]
  split
  · rw [hreserve]
  · rfl

theorem State.sends_of {l : GwLine} (hstore : (s.gw f).stored < retransmitStore) (hwindow : l.ordered = false ∨
    (l.seq + 2 ^ 32 - (s.flowTx f l.dst).acked - 1) % 2 ^ 32 < s.freg f Reg.GWY_SOU_CTL.WINDOW) :
    ¬ (retransmitStore ≤ (s.gw f).stored ∨ (l.ordered = true ∧ s.freg f Reg.GWY_SOU_CTL.WINDOW ≤
      (l.seq + 2 ^ 32 - (s.flowTx f l.dst).acked - 1) % 2 ^ 32)) := by
  rintro (h | ⟨hordered, h⟩)
  · exact Nat.not_le.mpr hstore h
  · rcases hwindow with hw | hw
    · exact absurd (hw.symm.trans hordered) (by decide)
    · exact Nat.not_le.mpr hw h

/-! ### FLD_ALLOT (R124, R403) -/

theorem State.freg_witnessForce (k : RegField) (hk : spares [.reg Reg.FLD_WITNESS_CTL.ACTIVE, .reg Reg.FLD_WITNESS_CTL.POISON_ACTIVE]
    .anyReg k = true) (m i : Nat) : (s.witnessForce f).freg f k m i = s.freg f k m i :=
  (State.witnessForce_only (F := fun _ => True) (P := fun _ => True) s f (Fits.refl _) trivial (.refl _ _ _ s)).freg k hk f m i

/-- A field without an allotment runs its witness with poison on (R124). -/
theorem State.witness_forced (h : s.allot f = 0) : (s.witnessForce f).freg f Reg.FLD_WITNESS_CTL.ACTIVE = 1 ∧
    (s.witnessForce f).freg f Reg.FLD_WITNESS_CTL.POISON_ACTIVE = 1 := by
  rw [State.witnessForce, if_pos h, State.freg_fset_other _ _ _ _ _ _ _ _ _ _ (by decide), State.freg_fset, State.freg_fset]
  exact ⟨rfl, rfl⟩

/-- The allotment is written, and a halt ends. -/
def State.alloted (s : State) (f : FieldId) (a : Nat) : State :=
  (s.fset f Reg.FLD_ALLOT.ID (if trunc 12 a = mgmtAllot then 0 else trunc 12 a)).fset f Reg.GWY_ALLOT_HALT.HALTED 0

theorem State.allotWrite_eq (a : Nat) : s.allotWrite f a = (s.alloted f a).witnessForce f := rfl

theorem State.allot_alloted (a : Nat) :
    (s.alloted f a).freg f Reg.FLD_ALLOT.ID = (if a % 4096 = 4095 then 0 else a % 4096) := by
  have hset (t : State) (v : Nat) : (t.fset f Reg.FLD_ALLOT.ID v).freg f Reg.FLD_ALLOT.ID = v % 4096 := State.freg_fset _ _ _ _ _ _
  rw [State.alloted, State.freg_fset_other _ _ _ _ _ _ _ _ _ _ (by decide), hset]
  have htrunc : trunc 12 a = a % 4096 := rfl
  have hmgmt : mgmtAllot = 4095 := rfl
  rw [htrunc, hmgmt]
  by_cases h : a % 4096 = 4095
  · rw [if_pos h]
  · rw [if_neg h]
    exact Nat.mod_mod _ _

theorem State.halted_alloted (a : Nat) : (s.alloted f a).freg f Reg.GWY_ALLOT_HALT.HALTED = 0 := State.freg_fset _ _ _ _ _ _

/-- Settles O29: each command by its own branch; what the gateway keeps by the rules for its records. -/
theorem gatewayUpkeepComplete : Obligations.GatewayUpkeepComplete := by
  unfold Obligations.GatewayUpkeepComplete
  refine ⟨?_, ?_, ?_, ?_, ?_, ?_, ?_, ?_, ?_, ?_, ?_, ?_, ?_, ?_, ?_, ?_, ?_, ?_, ?_, ?_, ?_, ?_, ?_, ?_, ?_, ?_⟩
  · intro s f p a b hd x hx
    simp only [List.mem_cons, List.not_mem_nil, or_false] at hx
    rcases hx with rfl | rfl | rfl | rfl | rfl | rfl | rfl | rfl | rfl | rfl | rfl | rfl
    all_goals exact Leaves.next (State.inRim_of_dark hd) rfl
  · intro s f a hd
    refine Leaves.next (State.inRim_of_ne hd) ?_
    rw [State.allotWrite_eq, State.freg_witnessForce _ (by decide), State.freg_witnessForce _ (by decide), State.halted_alloted]
    exact ⟨State.allot_alloted a, rfl, fun h => State.witness_forced ((State.allot_alloted a).trans (by
      rcases h with h | h <;> rw [h] <;> rfl))⟩
  · intro s f p x hd hline hok
    refine Leaves.finish ((State.inRim_of_ne hd).trans ?_) rfl
    rw [hline]
    dsimp only
    rw [hok]
  · intro s f p x st hd hline hrefused
    refine Leaves.finish ((State.inRim_of_ne hd).trans ?_) rfl
    rw [hline]
    dsimp only
    rw [hrefused]
  · intro s f p hline
    by_cases hd : s.svc f = svcDark
    · exact Leaves.next (State.inRim_of_dark hd) rfl
    · refine Leaves.next ((State.inRim_of_ne hd).trans ?_) rfl
      rw [hline]
  · intro s f k l hd hline hstore hwindow hdue
    refine Leaves.next ((State.inRim_of_ne hd).trans ?_) rfl
    rw [hline]
    dsimp only
    rw [if_neg (State.sends_of hstore hwindow), if_neg (by rcases hdue with h | h <;> simp [h])]
  · intro s f k l hd hline hstore hwindow hmulti hdue
    refine Leaves.finish ((State.inRim_of_ne hd).trans ?_) rfl
    rw [hline]
    dsimp only
    rw [if_neg (State.sends_of hstore hwindow), if_pos (by rw [hmulti, decide_eq_true hdue]; rfl)]
  · intro s f k l hline hfull
    by_cases hd : s.svc f = svcDark
    · exact Leaves.next (State.inRim_of_dark hd) rfl
    · refine Leaves.next ((State.inRim_of_ne hd).trans ?_) rfl
      rw [hline]
      exact if_pos hfull
  · intro s f k hline
    by_cases hd : s.svc f = svcDark
    · exact Leaves.next (State.inRim_of_dark hd) rfl
    · refine Leaves.next ((State.inRim_of_ne hd).trans ?_) rfl
      rw [hline]
  · intro s f n hd hdue
    exact Leaves.next ((State.inRim_of_ne hd).trans (if_pos hdue)) rfl
  · intro s f n hdue
    by_cases hd : s.svc f = svcDark
    · exact Leaves.next (State.inRim_of_dark hd) rfl
    · exact Leaves.next ((State.inRim_of_ne hd).trans (if_neg (Bool.eq_false_iff.mp hdue))) rfl
  · intro s f k l hd hline
    refine Leaves.next ((State.inRim_of_ne hd).trans ?_) rfl
    rw [hline]
  · intro s f k hline
    by_cases hd : s.svc f = svcDark
    · exact Leaves.next (State.inRim_of_dark hd) rfl
    · refine Leaves.next ((State.inRim_of_ne hd).trans ?_) rfl
      rw [hline]
  · intro s f q hd hhead htold
    refine Leaves.next (u := s.queueLeave f q.src) ((State.inRim_of_ne hd).trans ?_) (fun x hx => ?_)
    · rw [hhead]
      exact if_pos ⟨rfl, htold⟩
    · rw [State.queueLeave, State.gw_updGw, GatewayUnit.queue_leave] at hx
      simpa using (List.mem_filter.mp hx).2
  · intro s f n hhead
    by_cases hd : s.svc f = svcDark
    · exact Leaves.next (State.inRim_of_dark hd) rfl
    · refine Leaves.next ((State.inRim_of_ne hd).trans ?_) rfl
      cases hq : (s.gw f).queue.head? with
      | none => rfl
      | some q =>
        rw [hq] at hhead
        refine if_neg (fun h => ?_)
        rw [Option.all_some, decide_eq_false (not_not_intro h.1), h.2] at hhead
        exact absurd hhead (by decide)
  · intro s f k l m hd hline hmulti hlimit
    refine Leaves.next ((State.inRim_of_ne hd).trans ?_) rfl
    rw [hline]
    simp only [hmulti, Bool.false_eq_true, if_false]
    rw [if_neg (Nat.not_le.mpr hlimit)]
  · intro s f k l m hd hline hmulti hlimit
    refine Leaves.next ((State.inRim_of_ne hd).trans ?_) rfl
    rw [hline]
    simp only [hmulti, if_true]
    rw [if_neg (Nat.not_le.mpr hlimit)]
  · intro s f k l m hd hline hlimit
    refine Leaves.finish ((State.inRim_of_ne hd).trans ?_) rfl
    rw [hline]
    exact if_pos hlimit
  · intro s f k m hline
    by_cases hd : s.svc f = svcDark
    · exact Leaves.next (State.inRim_of_dark hd) rfl
    · refine Leaves.next ((State.inRim_of_ne hd).trans ?_) rfl
      rw [hline]
  · intro s f a hd hmine hsome
    exact Leaves.finish (State.inRim_of_ne hd) (if_pos ⟨hmine, hsome⟩)
  · intro s f a h
    by_cases hd : s.svc f = svcDark
    · exact Leaves.next (State.inRim_of_dark hd) rfl
    · exact Leaves.finish (State.inRim_of_ne hd) (if_neg (fun e => h.elim (fun hne => hne e.1) e.2))
  · intro s f l x hd hline
    refine Leaves.finish ((State.inRim_of_ne hd).trans (if_pos ?_)) ?_
    · rw [hline]
      rfl
    · rw [State.absorberFlush, hline]
  · intro s f l hline
    by_cases hd : s.svc f = svcDark
    · exact Leaves.next (State.inRim_of_dark hd) rfl
    · refine Leaves.next ((State.inRim_of_ne hd).trans (if_neg ?_)) rfl
      rw [hline]
      decide
  · intro s f n x hd
    refine Leaves.next (State.inRim_of_ne hd) ?_
    rw [State.gw_updGw]
  · intro s f a hd
    exact Leaves.finish (State.inRim_of_ne hd) rfl
  · intro s f hd
    exact Leaves.finish (State.inRim_of_ne hd) rfl

end Sys2Proof.Machine

end


section
/-! Requests and answers that reach a gateway (R404 to R428). -/

namespace Sys2Proof.Machine

set_option Elab.async false

open Sys2Proof

variable {s t : State} {f : FieldId} {k : Nat} {p : Packet}

theorem Acted.not_refused (h : Acted s f k p) : ¬ (!(s.arrival f k p).2) = true := by
  rw [h.acts]
  decide

theorem State.refused_of (h : (s.arrival f k p).2 = false) : (!(s.arrival f k p).2) = true := by
  rw [h]
  rfl

/-! ### Requests -/

theorem State.applyLine_put (h : (rhOf p).kind = kPut) (hcls : p.cls ≠ 5) : s.applyLine f p =
    ((s.targetWrite f p.key wholeMask (rhPayload p) (decide ((rhOf p).flags &&& fPoison ≠ 0)) srcGateway).1,
      .done (s.targetWrite f p.key wholeMask (rhPayload p) (decide ((rhOf p).flags &&& fPoison ≠ 0)) srcGateway).2) := by
  rw [State.applyLine, h]
  dsimp only
  rw [if_pos rfl, if_neg hcls]

theorem State.applyLine_bulk (h : (rhOf p).kind = kPut) (hcls : p.cls = 5) : s.applyLine f p =
    ((s.bulkPut f p.src p.key (rhPayload p) (decide ((rhOf p).flags &&& fPoison ≠ 0))).1,
      .done (s.bulkPut f p.src p.key (rhPayload p) (decide ((rhOf p).flags &&& fPoison ≠ 0))).2) := by
  rw [State.applyLine, h]
  dsimp only
  rw [if_pos rfl, if_pos hcls]

theorem State.applyLine_putPartial (h : (rhOf p).kind = kPutPartial) : s.applyLine f p =
    ((s.targetWrite f p.key (rhOf p).operand (rhPayload p) (decide ((rhOf p).flags &&& fPoison ≠ 0)) srcGateway).1,
      .done (s.targetWrite f p.key (rhOf p).operand (rhPayload p) (decide ((rhOf p).flags &&& fPoison ≠ 0)) srcGateway).2) := by
  rw [State.applyLine, h]
  rfl

theorem State.red_lineSeen (m : Nat) : ((s.lineSeen f m).gw f).red = (s.gw f).red := by
  rw [State.lineSeen, State.gw_updGw]

/-- A put-reduce finds the entries of its line, and adds to them (R423). -/
theorem State.applyLine_reduce {R : RedLine} (h : (rhOf p).kind = kPutReduce) (htarget : targetOf p.key = .hbm)
    (hred : SMap.find (s.gw f).red (p.key / 128) = some R) (hflushed : R.flushed = none) (htyp : R.typ = (rhOf p).typ)
    (hallot : R.allot = p.allot) : s.applyLine f p =
    ((s.setRed f { R with
        accs := (accsAdd R.accs (lineTerms (rhOf p).typ (decide ((rhOf p).flags &&& fPoison ≠ 0)) (rhPayload p))).1,
        changed := true }).redOverflow f R
      (accsAdd R.accs (lineTerms (rhOf p).typ (decide ((rhOf p).flags &&& fPoison ≠ 0)) (rhPayload p))).2, .done St.OK) := by
  have happly : s.applyLine f p = s.applyReduce f p := by
    rw [State.applyLine, h]
    rfl
  rw [happly, State.applyReduce, if_neg (not_not_intro htarget), hred]
  dsimp only
  rw [hflushed, if_neg (by decide), if_neg (by simp [htyp, hallot])]

/-- An ordered request that is acted on at its turn. -/
theorem Acted.putTurn {r : Result} {a : State} {st : Nat} (hr : r = s.orderedRow f k p) (ha : Acted s f k p) (ht : AtTurn s f p)
    (happly : ((s.arrival f k p).1.lineSeen f p.src).applyLine f p = (a, .done st)) :
    Leaves r (fun u => u = ((((a.queueServed f p.src (rhOf p).seq).lineApplied f p.src p st).drainFlow f p.src).mirSettle f)) :=
  Leaves.finish (hr.trans (ha.orderedTurn ht happly)) rfl

theorem State.atomicArrive_again {a : AtomicResp} (h : (s.gw f).atomics.find? (fun a => decide ((rhOf p).flags &&& fRetx ≠ 0) &&
    decide (a.src = p.src) && decide (a.txn = (rhOf p).txn)) = some a) : s.atomicArrive f p = s.atomicAnswer f p a := by
  rw [State.atomicArrive]
  dsimp only
  rw [h]

theorem State.atomicArrive_full (h : (s.gw f).atomics.find? (fun a => decide ((rhOf p).flags &&& fRetx ≠ 0) &&
    decide (a.src = p.src) && decide (a.txn = (rhOf p).txn)) = none) (hfull : atomicCache ≤ (s.gw f).atomics.length) :
    s.atomicArrive f p = s.sendDefer f p noPlace := by
  rw [State.atomicArrive]
  dsimp only
  rw [h]
  exact if_pos hfull

theorem State.atomicArrive_new (h : (s.gw f).atomics.find? (fun a => decide ((rhOf p).flags &&& fRetx ≠ 0) &&
    decide (a.src = p.src) && decide (a.txn = (rhOf p).txn)) = none) (hroom : (s.gw f).atomics.length < atomicCache) :
    s.atomicArrive f p = ((s.atomicPerform f p).1.updGw f (fun G => { G with atomics := G.atomics.filter (fun b =>
      decide (b.src ≠ (s.atomicPerform f p).2.src) || decide (b.txn ≠ (s.atomicPerform f p).2.txn)) ++
        [(s.atomicPerform f p).2] })).atomicAnswer f p (s.atomicPerform f p).2 := by
  rw [State.atomicArrive]
  dsimp only
  rw [h]
  exact if_neg (Nat.not_le.mpr hroom)

/-! ### A combined put-reduce of one contributor (R428) -/

theorem GatewayUnit.red_reserve (G : GatewayUnit) : G.reserve.red = G.red := by
  rw [GatewayUnit.reserve]
  split <;> rfl

theorem State.red_queueServed (src seq : Nat) : ((s.queueServed f src seq).gw f).red = (s.gw f).red := by
  have hleave (G : GatewayUnit) : (G.leave src 0).red = G.red := by
    rw [GatewayUnit.leave]
    split
    · rw [GatewayUnit.red_reserve]
    · rfl
  rw [State.queueServed]
  split
  · rw [State.queueLeave, State.gw_updGw, hleave, State.gw_updGw, GatewayUnit.red_reserve]
  · rw [State.gw_updGw, GatewayUnit.red_reserve]

theorem State.red_setFlowRx (n : Nat) (r : FlowRx) : ((s.setFlowRx f n r).gw f).red = (s.gw f).red := by
  rw [State.setFlowRx, State.gw_updGw]

theorem State.combDup_lineSeen (m : Nat) (c : Nat × Nat × Nat) : (s.lineSeen f m).combDup f c = s.combDup f c := by
  rw [State.combDup, State.combDup, State.flowRx_lineSeen, State.redWait_lineSeen]

/-- A contributor's line is marked as done (R428). -/
def State.combMarked (s : State) (f : FieldId) (c : Nat × Nat × Nat) : State :=
  (s.queueServed f c.1 c.2.2).setFlowRx f c.1 { (s.queueServed f c.1 c.2.2).flowRx f c.1 with
    held := ((s.queueServed f c.1 c.2.2).flowRx f c.1).held ++ [⟨c.2.2, none⟩] }

theorem State.combMark_turn {c : Nat × Nat × Nat} (hvalid : (s.flowRx f c.1).valid = true) (hepoch : (s.flowRx f c.1).fepoch = c.2.1)
    (hdup : s.combDup f c = false) (hnext : (s.flowRx f c.1).exp = c.2.2) : s.combMark f c = (s.combMarked f c, none) := by
  rw [State.combMark, hvalid, hdup, decide_eq_false (not_not_intro hepoch), if_neg (by decide), if_pos hnext.symm]
  rfl

theorem State.combEntry_found {R : RedLine} (may : Bool) (htarget : targetOf p.key = .hbm)
    (hred : SMap.find (s.gw f).red (p.key / 128) = some R) (hflushed : R.flushed = none) (htyp : R.typ = (rhOf p).typ)
    (hallot : R.allot = p.allot) : s.combEntry f may p = (s, some R) := by
  rw [State.combEntry, if_neg (not_not_intro htarget), hred]
  refine if_neg ?_
  simp [hflushed, htyp, hallot]

theorem State.combArrive_one {R : RedLine} {c : Nat × Nat × Nat} (hcalm : s.injArmed f injGwy 4 = false) (hone : combRecords p = [c])
    (hvalid : (s.flowRx f c.1).valid = true) (hepoch : (s.flowRx f c.1).fepoch = c.2.1) (hdup : s.combDup f c = false)
    (hnext : (s.flowRx f c.1).exp = c.2.2) (htarget : targetOf p.key = .hbm) (hred : SMap.find (s.gw f).red (p.key / 128) = some R)
    (hflushed : R.flushed = none) (htyp : R.typ = (rhOf p).typ) (hallot : R.allot = p.allot) : s.combArrive f p =
    (((((fun (t : State) => t.setFlowRx f c.1 { t.flowRx f c.1 with held := (t.flowRx f c.1).held ++ [⟨c.2.2, none⟩] })
      ((s.lineSeen f c.1).queueServed f c.1 c.2.2)).setRed f { R with accs := (accsMerge R.accs (combImages p)).1, changed := true }).redOverflow
        f R (accsMerge R.accs (combImages p)).2).fwrap f Reg.GWY_STAT.COMB_APPLIED).drainFlow f c.1 := by
  have hmark : (s.lineSeen f c.1).combMark f c = ((s.lineSeen f c.1).combMarked f c, none) :=
    State.combMark_turn (by rwa [State.flowRx_lineSeen]) (by rwa [State.flowRx_lineSeen]) (by rwa [State.combDup_lineSeen])
      (by rwa [State.flowRx_lineSeen])
  have hentry (may : Bool) : ((s.lineSeen f c.1).combMarked f c).combEntry f may p = ((s.lineSeen f c.1).combMarked f c, some R) :=
    State.combEntry_found may htarget (by rwa [State.combMarked, State.red_setFlowRx, State.red_queueServed, State.red_lineSeen])
      hflushed htyp hallot
  have hstill : (s.lineSeen f c.1).injArmed f injGwy 4 = false := by
    refine (State.injArmed_of_freg (s := s) ?_ _ _).trans hcalm
    exact fun _ _ _ => State.freg_updField_same _ _ _ _ _ _ _ (fun _ => rfl)
  rw [State.combArrive, hone]
  simp only [List.foldl_cons, List.foldl_nil]
  rw [hstill, if_neg (by decide), hmark]
  simp only [if_true, Option.isNone_none]
  rw [hentry]
  rfl

/-! ### The requests' commands -/

theorem Acted.fetchAdd (ha : Acted s f kFetchAdd p) (hd : s.svc f ≠ svcDark) :
    exec (.fetchAdd f p) s = finish ((s.arrival f kFetchAdd p).1.atomicArrive f p) :=
  (State.inRim_of_ne hd).trans (if_pos ha.acts)

theorem Acted.compareSwap (ha : Acted s f kCompareSwap p) (hd : s.svc f ≠ svcDark) :
    exec (.compareSwap f p) s = finish ((s.arrival f kCompareSwap p).1.atomicArrive f p) :=
  (State.inRim_of_ne hd).trans (if_pos ha.acts)

/-- Settles O27: a request that is acted on (`Acted`) is at its turn in its flow, or is answered, by the kind it has. -/
theorem gatewayRequestsComplete : Obligations.GatewayRequestsComplete := by
  unfold Obligations.GatewayRequestsComplete
  refine ⟨?_, ?_, ?_, ?_, ?_, ?_, ?_, ?_, ?_, ?_, ?_, ?_, ?_, ?_, ?_, ?_, ?_, ?_, ?_, ?_⟩
  · intro s f p hd x hx
    simp only [List.mem_cons, List.not_mem_nil, or_false] at hx
    rcases hx with rfl | rfl | rfl | rfl | rfl | rfl | rfl | rfl | rfl
    all_goals exact Leaves.next (State.inRim_of_dark hd) rfl
  · intro s f p hd x hx hno
    simp only [List.mem_cons, List.not_mem_nil, or_false] at hx
    rcases hx with rfl | rfl | rfl | rfl | rfl | rfl | rfl | rfl | rfl
    · exact Leaves.finish ((State.inRim_of_ne hd).trans (if_pos (State.refused_of hno))) rfl
    · exact Leaves.finish ((State.inRim_of_ne hd).trans (State.orderedRow_not hno)) rfl
    · exact Leaves.finish ((State.inRim_of_ne hd).trans (State.orderedRow_not hno)) rfl
    · exact Leaves.finish ((State.inRim_of_ne hd).trans (State.orderedRow_not hno)) rfl
    · exact Leaves.finish ((State.inRim_of_ne hd).trans (if_neg (Bool.eq_false_iff.mp hno))) rfl
    · exact Leaves.finish ((State.inRim_of_ne hd).trans (if_pos (State.refused_of hno))) rfl
    · exact Leaves.finish ((State.inRim_of_ne hd).trans (if_neg (Bool.eq_false_iff.mp hno))) rfl
    · exact Leaves.finish ((State.inRim_of_ne hd).trans (if_neg (Bool.eq_false_iff.mp hno))) rfl
    · exact Leaves.finish ((State.inRim_of_ne hd).trans (if_pos (State.refused_of hno))) rfl
  · intro s f p hd hkind hremote hformed hdst hhere hrun
    have ha := acted_of_halt hkind hremote hformed hdst hhere hrun
    exact Leaves.finish ((State.inRim_of_ne hd).trans (if_neg ha.not_refused)) rfl
  · intro s f p hd hkind hremote hformed hdst hhere hrun
    exact Leaves.finish ((State.inRim_of_ne hd).trans (acted_of_halt hkind hremote hformed hdst hhere hrun).orderedRow) rfl
  · intro s f p hd hkind hremote hformed hdst hhere hrun
    exact Leaves.finish ((State.inRim_of_ne hd).trans (acted_of_halt hkind hremote hformed hdst hhere hrun).orderedRow) rfl
  · intro s f p hd hkind hremote hformed hdst hhere hrun
    exact Leaves.finish ((State.inRim_of_ne hd).trans (acted_of_halt hkind hremote hformed hdst hhere hrun).orderedRow) rfl
  · intro s f p hd hkind hremote hformed hdst hhere hrun hcalm hvalid hepoch hnext hunheld hunwaited hcls
    exact Acted.putTurn (State.inRim_of_ne hd) (acted_of_halt hkind hremote hformed hdst hhere hrun)
      ⟨hcalm, hvalid, hepoch, hnext, hunheld, hunwaited⟩ (State.applyLine_put hkind hcls)
  · intro s f p hd hkind hremote hformed hdst hhere hrun hcalm hvalid hepoch hnext hunheld hunwaited
    exact Acted.putTurn (State.inRim_of_ne hd) (acted_of_halt hkind hremote hformed hdst hhere hrun)
      ⟨hcalm, hvalid, hepoch, hnext, hunheld, hunwaited⟩ (State.applyLine_putPartial hkind)
  · intro s f p hd hkind hremote hformed hdst hhere hrun hcalm hvalid hepoch hnext hunheld hunwaited hcls
    exact Acted.putTurn (State.inRim_of_ne hd) (acted_of_halt hkind hremote hformed hdst hhere hrun)
      ⟨hcalm, hvalid, hepoch, hnext, hunheld, hunwaited⟩ (State.applyLine_bulk hkind hcls)
  · intro s f p R hd hkind hremote hformed hdst hhere hrun hcalm hvalid hepoch hnext hunheld hunwaited htarget hred hflushed htyp hallot
    have ha := acted_of_halt hkind hremote hformed hdst hhere hrun
    exact Acted.putTurn (State.inRim_of_ne hd) ha ⟨hcalm, hvalid, hepoch, hnext, hunheld, hunwaited⟩
      (State.applyLine_reduce hkind htarget (by rwa [State.red_lineSeen, ha.gw]) hflushed htyp hallot)
  · intro s f p hd hkind hremote hformed hdst hhere hrun
    have ha := acted_of_halt hkind hremote hformed hdst hhere hrun
    exact Leaves.finish ((State.inRim_of_ne hd).trans (if_pos ha.acts)) rfl
  · intro s f p R c hd hkind hremote hformed hdst hhere hrun hcalm hone hvalid hepoch hdup hnext htarget hred hflushed htyp hallot
    have ha := acted_of_halt hkind hremote hformed hdst hhere hrun
    refine Leaves.finish (u := (s.arrival f kPutReduceComb p).1.combArrive f p) ((State.inRim_of_ne hd).trans (if_pos ha.acts)) ?_
    refine State.combArrive_one ((State.injArmed_of_freg ha.freg _ _).trans hcalm) hone ?_ ?_ ?_ ?_ htarget ?_ hflushed htyp hallot
    · rwa [ha.flowRx]
    · rwa [ha.flowRx]
    · rwa [State.combDup, ha.flowRx, ha.gw]
    · rwa [ha.flowRx]
    · rwa [ha.gw]
  · intro s f p hd hkind hremote hformed hdst hhere hrun
    have ha := acted_of_halt hkind hremote hformed hdst hhere hrun
    exact Leaves.finish ((State.inRim_of_ne hd).trans (if_neg ha.not_refused)) rfl
  · intro s f p a hd hkind hremote hformed hdst hhere hrun hfind
    have ha := acted_of_halt hkind hremote hformed hdst hhere hrun
    exact Leaves.finish (ha.fetchAdd hd) (State.atomicArrive_again (by rwa [ha.gw]))
  · intro s f p hd hkind hremote hformed hdst hhere hrun hfind hroom
    have ha := acted_of_halt hkind hremote hformed hdst hhere hrun
    exact Leaves.finish (ha.fetchAdd hd) (State.atomicArrive_new (by rwa [ha.gw]) (by rwa [ha.gw]))
  · intro s f p hd hkind hremote hformed hdst hhere hrun hfind hfull
    have ha := acted_of_halt hkind hremote hformed hdst hhere hrun
    exact Leaves.finish (ha.fetchAdd hd) (State.atomicArrive_full (by rwa [ha.gw]) (by rwa [ha.gw]))
  · intro s f p a hd hkind hremote hformed hdst hhere hrun hfind
    have ha := acted_of_halt hkind hremote hformed hdst hhere hrun
    exact Leaves.finish (ha.compareSwap hd) (State.atomicArrive_again (by rwa [ha.gw]))
  · intro s f p hd hkind hremote hformed hdst hhere hrun hfind hroom
    have ha := acted_of_halt hkind hremote hformed hdst hhere hrun
    exact Leaves.finish (ha.compareSwap hd) (State.atomicArrive_new (by rwa [ha.gw]) (by rwa [ha.gw]))
  · intro s f p hd hkind hremote hformed hdst hhere hrun hfind hfull
    have ha := acted_of_halt hkind hremote hformed hdst hhere hrun
    exact Leaves.finish (ha.compareSwap hd) (State.atomicArrive_full (by rwa [ha.gw]) (by rwa [ha.gw]))
  · intro s f p hd hkind hremote hformed hdst hhere hrun
    have ha := acted_of_halt hkind hremote hformed hdst hhere hrun
    exact Leaves.finish ((State.inRim_of_ne hd).trans (if_neg ha.not_refused)) rfl

end Sys2Proof.Machine

end


section
/-! Answers that reach a gateway (R411 to R421). -/

namespace Sys2Proof.Machine

set_option Elab.async false

open Sys2Proof

variable {s t : State} {f : FieldId} {k : Nat} {p : Packet}

/-- Whatever becomes of a packet that arrives, the gateway's records stay. -/
theorem State.gw_arrival : (s.arrival f k p).1.gw f = s.gw f := by
  have hdrop : (s.dropForeign f p).gw f = s.gw f := by
    obtain ⟨-, hsame, -⟩ := (State.dropForeign_only (F := fun _ => True) (P := fun _ => True) s f p (Fits.refl _) trivial
      (.refl _ _ _ s)).same .gateway f (by decide) (.inl (by decide))
    exact hsame
  rw [State.arrival]
  split
  · rfl
  · dsimp only
    split
    · exact hdrop
    · dsimp only
      split
      · rw [State.gw, State.updRouter, State.field_updField, State.gw]
      · rfl

theorem State.answered_arrival (kinds : List Nat) : (s.arrival f k p).1.answered f p kinds = s.answered f p kinds := by
  rw [State.answered, State.answered, State.gw_arrival]

theorem State.flowTx_arrival (n : Nat) : (s.arrival f k p).1.flowTx f n = s.flowTx f n := by
  rw [State.flowTx, State.flowTx, State.gw_arrival]

theorem State.flowEpoch_arrival (n : Nat) : (s.arrival f k p).1.flowEpoch f n = s.flowEpoch f n := by
  rw [State.flowEpoch, State.flowEpoch, State.gw_arrival, State.flowTx_arrival]

/-- An answer that a gateway acts on: an allotment's halt does not hold it back (R416). -/
theorem acted_answer (hk : 0x40 ≤ k) (hkind : (rhOf p).kind = k) (hremote : pktRemote p = true) (hformed : rhWellFormed p = true)
    (hdst : p.dst = s.node f) (hhere : (s.field f).router.inbox.contains p = true ∨ s.deliverOk f p = true) : Acted s f k p :=
  ⟨hkind, hremote, hformed, hdst, hhere, .inl hk⟩

/-! ### Each answer's command: no request waits, or one does -/

theorem State.getResp_none (hd : s.svc f ≠ svcDark) (h : s.answered f p [kGet] = none) :
    exec (.getResp f p) s = finish (s.arrival f kGetResp p).1 := by
  rw [← State.answered_arrival (k := kGetResp)] at h
  change execGetResp f p s = _
  rw [execGetResp, State.inRim_of_ne hd]
  generalize s.arrival f kGetResp p = a at h ⊢
  obtain ⟨s1, here⟩ := a
  dsimp only at h ⊢
  rw [h]

theorem State.getResp_some {l : GwLine} (hd : s.svc f ≠ svcDark) (h : s.answered f p [kGet] = some l) :
    exec (.getResp f p) s = if !(s.arrival f kGetResp p).2 then finish (s.arrival f kGetResp p).1
      else if (rhOf p).status = St.OK then
        finish ((((s.arrival f kGetResp p).1.lineLocal f l (rhPayload p) 0 (decide ((rhOf p).flags &&& fPoison ≠ 0))).lineFinish f l
          (if decide ((rhOf p).flags &&& fPoison ≠ 0) then St.UNCORRECTED else St.OK)).gwSettle f)
      else finish (((s.arrival f kGetResp p).1.lineFinish f l (rhOf p).status).gwSettle f) := by
  rw [← State.answered_arrival (k := kGetResp)] at h
  change execGetResp f p s = _
  rw [execGetResp, State.inRim_of_ne hd]
  generalize s.arrival f kGetResp p = a at h ⊢
  obtain ⟨s1, here⟩ := a
  dsimp only at h ⊢
  rw [h]

theorem State.atomicResp_none (hd : s.svc f ≠ svcDark) (h : s.answered f p [kFetchAdd, kCompareSwap] = none) :
    exec (.atomicResp f p) s = finish (s.arrival f kAtomicResp p).1 := by
  rw [← State.answered_arrival (k := kAtomicResp)] at h
  change execAtomicResp f p s = _
  rw [execAtomicResp, State.inRim_of_ne hd]
  generalize s.arrival f kAtomicResp p = a at h ⊢
  obtain ⟨s1, here⟩ := a
  dsimp only at h ⊢
  rw [h]

theorem State.atomicResp_some {l : GwLine} (hd : s.svc f ≠ svcDark) (h : s.answered f p [kFetchAdd, kCompareSwap] = some l) :
    exec (.atomicResp f p) s = if !(s.arrival f kAtomicResp p).2 then finish (s.arrival f kAtomicResp p).1
      else if (rhOf p).status = St.OK then
        finish ((((s.arrival f kAtomicResp p).1.lineLocal f l [] (trunc (8 * atomicBytes l.typ) (rhOf p).operand)
          (decide ((rhOf p).flags &&& fPoison ≠ 0))).lineFinish f l
          (if decide ((rhOf p).flags &&& fPoison ≠ 0) then St.UNCORRECTED else St.OK)).gwSettle f)
      else finish (((s.arrival f kAtomicResp p).1.lineFinish f l (rhOf p).status).gwSettle f) := by
  rw [← State.answered_arrival (k := kAtomicResp)] at h
  change execAtomicResp f p s = _
  rw [execAtomicResp, State.inRim_of_ne hd]
  generalize s.arrival f kAtomicResp p = a at h ⊢
  obtain ⟨s1, here⟩ := a
  dsimp only at h ⊢
  rw [h]

theorem State.flushAck_none (hd : s.svc f ≠ svcDark) (h : s.answered f p [kFlushReq] = none) :
    exec (.flushAck f p) s = finish (s.arrival f kFlushAck p).1 := by
  rw [← State.answered_arrival (k := kFlushAck)] at h
  change execFlushAck f p s = _
  rw [execFlushAck, State.inRim_of_ne hd]
  generalize s.arrival f kFlushAck p = a at h ⊢
  obtain ⟨s1, here⟩ := a
  dsimp only at h ⊢
  rw [h]

theorem State.flushAck_some {l : GwLine} (hd : s.svc f ≠ svcDark) (h : s.answered f p [kFlushReq] = some l) :
    exec (.flushAck f p) s = if (s.arrival f kFlushAck p).2 then finish (((s.arrival f kFlushAck p).1.lineFinish f l St.OK).gwSettle f)
      else finish (s.arrival f kFlushAck p).1 := by
  rw [← State.answered_arrival (k := kFlushAck)] at h
  change execFlushAck f p s = _
  rw [execFlushAck, State.inRim_of_ne hd]
  generalize s.arrival f kFlushAck p = a at h ⊢
  obtain ⟨s1, here⟩ := a
  dsimp only at h ⊢
  rw [h]

theorem State.mcAck_none (hd : s.svc f ≠ svcDark) (h : s.answered f p [kMcastPut] = none) :
    exec (.mcAck f p) s = finish (s.arrival f kMcAck p).1 := by
  rw [← State.answered_arrival (k := kMcAck)] at h
  change execMcAck f p s = _
  rw [execMcAck, State.inRim_of_ne hd]
  generalize s.arrival f kMcAck p = a at h ⊢
  obtain ⟨s1, here⟩ := a
  dsimp only at h ⊢
  rw [h]

theorem State.mcAck_some {l : GwLine} (hd : s.svc f ≠ svcDark) (h : s.answered f p [kMcastPut] = some l) :
    exec (.mcAck f p) s = if (s.arrival f kMcAck p).2 && decide (p.src = nodeWith l.dst l.maxis (nodeCoord p.src l.maxis)) &&
        l.due.any (fun d => decide (d.1 = nodeCoord p.src l.maxis)) then
        finish (((s.arrival f kMcAck p).1.memberDone f l (nodeCoord p.src l.maxis) (rhOf p).status).gwSettle f)
      else finish (s.arrival f kMcAck p).1 := by
  rw [← State.answered_arrival (k := kMcAck)] at h
  change execMcAck f p s = _
  rw [execMcAck, State.inRim_of_ne hd]
  generalize s.arrival f kMcAck p = a at h ⊢
  obtain ⟨s1, here⟩ := a
  dsimp only at h ⊢
  rw [h]

/-- An acknowledgement of the flow's epoch covers its lines up to the newer of the two positions (R411). -/
theorem State.ackApply_current (hepoch : (rhOf p).fepoch = s.flowEpoch f p.src) : s.ackApply f p =
    ((s.gw f).lines.filter (fun l => l.ordered && decide (flowKey l.dst = flowKey p.src) && seqReached l.seq
        (if seqBefore (s.flowTx f p.src).acked (rhOf p).seq then (rhOf p).seq else (s.flowTx f p.src).acked))).foldl
      (fun t l => t.lineFinish f l
        (if decide ((rhOf p).flags &&& fError ≠ 0) && decide (l.seq = (rhOf p).seq) then (rhOf p).status else St.OK))
      (s.setFlowTx f p.src { s.flowTx f p.src with
        acked := if seqBefore (s.flowTx f p.src).acked (rhOf p).seq then (rhOf p).seq else (s.flowTx f p.src).acked }) :=
  if_neg (not_not_intro hepoch)

theorem State.ackApply_old (hepoch : (rhOf p).fepoch ≠ s.flowEpoch f p.src) : s.ackApply f p = s := if_pos hepoch

/-- What a DEFER does to a line of the gateway: the one it answers starts its resends again (R412). -/
def GwLine.deferBy (p : Packet) (node now : Nat) (l : GwLine) : GwLine :=
  if l.sent && decide (l.dst = p.src) &&
      (if (rhOf p).txn ≠ 0 then !l.ordered && decide (l.id % 2 ^ 32 = (rhOf p).txn)
       else l.ordered && decide (l.seq = (rhOf p).seq) && decide (l.fepoch = (rhOf p).fepoch)) then
    { l with deferred := true, resends := 0, defers := min (l.defers + 1) 255,
             delay := if (rhOf p).age = 0 then 500 else backoff node l.dst (min (l.defers + 1) 255) now }
  else l

theorem Acted.defer (ha : Acted s f kDefer p) (hd : s.svc f ≠ svcDark) : exec (.defer f p) s =
    .next (((s.arrival f kDefer p).1.fwrap f Reg.GWY_STAT.DEFERS_RECV).updGw f
      (fun G => { G with lines := G.lines.map (GwLine.deferBy p (s.node f) (s.field f).tally.tInt) })) :=
  (State.inRim_of_ne hd).trans (if_neg ha.not_refused)

theorem State.gw_fwrap {r : RegField} {d : Nat} : (s.fwrap f r d).gw f = s.gw f := by
  rw [State.gw, State.gw, State.fwrap, State.field_fset]
  rfl

theorem State.freg_updGw (g : GatewayUnit → GatewayUnit) (r : RegField) (m i : Nat) : (s.updGw f g).freg f r m i = s.freg f r m i :=
  State.freg_updField_same s f f _ r m i (fun _ => rfl)

/-- Settles O28: an answer by the request that waits for it; an arrival leaves the gateway's records, so that request is the one the state held. -/
theorem gatewayResponsesComplete : Obligations.GatewayResponsesComplete := by
  unfold Obligations.GatewayResponsesComplete
  refine ⟨?_, ?_, ?_, ?_, ?_, ?_, ?_, ?_, ?_, ?_, ?_, ?_, ?_, ?_, ?_, ?_⟩
  · intro s f p hd x hx
    simp only [List.mem_cons, List.not_mem_nil, or_false] at hx
    rcases hx with rfl | rfl | rfl | rfl | rfl | rfl
    all_goals exact Leaves.next (State.inRim_of_dark hd) rfl
  · intro s f p hd x hx hno
    simp only [List.mem_cons, List.not_mem_nil, or_false] at hx
    rcases hx with rfl | rfl | rfl | rfl | rfl | rfl
    · cases h : s.answered f p [kGet] with
      | none => exact .finish (State.getResp_none hd h) rfl
      | some l => exact .finish ((State.getResp_some hd h).trans (if_pos (State.refused_of hno))) rfl
    · cases h : s.answered f p [kFetchAdd, kCompareSwap] with
      | none => exact .finish (State.atomicResp_none hd h) rfl
      | some l => exact .finish ((State.atomicResp_some hd h).trans (if_pos (State.refused_of hno))) rfl
    · cases h : s.answered f p [kFlushReq] with
      | none => exact .finish (State.flushAck_none hd h) rfl
      | some l => exact .finish ((State.flushAck_some hd h).trans (if_neg (Bool.eq_false_iff.mp hno))) rfl
    · cases h : s.answered f p [kMcastPut] with
      | none => exact .finish (State.mcAck_none hd h) rfl
      | some l => exact .finish ((State.mcAck_some hd h).trans (if_neg (by simp [hno]))) rfl
    · exact Leaves.finish ((State.inRim_of_ne hd).trans (if_neg (Bool.eq_false_iff.mp hno))) rfl
    · exact Leaves.finish ((State.inRim_of_ne hd).trans (if_pos (State.refused_of hno))) rfl
  · intro s f p hd h
    exact .finish (State.getResp_none hd h) rfl
  · intro s f p hd h
    exact .finish (State.atomicResp_none hd h) rfl
  · intro s f p hd h
    exact .finish (State.flushAck_none hd h) rfl
  · intro s f p hd h
    exact .finish (State.mcAck_none hd h) rfl
  · intro s f p l hd hkind hremote hformed hdst hhere h hok
    have ha := acted_answer (by decide) hkind hremote hformed hdst hhere
    refine .finish ((State.getResp_some hd h).trans ((if_neg ha.not_refused).trans (if_pos hok))) ?_
    simp only [decide_eq_true_eq]
  · intro s f p l hd hkind hremote hformed hdst hhere h hbad
    have ha := acted_answer (by decide) hkind hremote hformed hdst hhere
    exact .finish ((State.getResp_some hd h).trans ((if_neg ha.not_refused).trans (if_neg hbad))) rfl
  · intro s f p l hd hkind hremote hformed hdst hhere h hok
    have ha := acted_answer (by decide) hkind hremote hformed hdst hhere
    refine .finish ((State.atomicResp_some hd h).trans ((if_neg ha.not_refused).trans (if_pos hok))) ?_
    simp only [decide_eq_true_eq]
  · intro s f p l hd hkind hremote hformed hdst hhere h hbad
    have ha := acted_answer (by decide) hkind hremote hformed hdst hhere
    exact .finish ((State.atomicResp_some hd h).trans ((if_neg ha.not_refused).trans (if_neg hbad))) rfl
  · intro s f p l hd hkind hremote hformed hdst hhere h
    have ha := acted_answer (by decide) hkind hremote hformed hdst hhere
    exact .finish ((State.flushAck_some hd h).trans (if_pos ha.acts)) rfl
  · intro s f p l hd hkind hremote hformed hdst hhere h hsrc hdue
    have ha := acted_answer (by decide) hkind hremote hformed hdst hhere
    exact .finish ((State.mcAck_some hd h).trans (if_pos (by simp [ha.acts, ← hsrc, hdue]))) rfl
  · intro s f p l hd h hno
    refine .finish ((State.mcAck_some hd h).trans (if_neg ?_)) rfl
    rcases hno with hsrc | hdue
    · simp [hsrc]
    · simp [hdue]
  · intro s f p hd hkind hremote hformed hdst hhere hepoch
    have ha := acted_answer (by decide) hkind hremote hformed hdst hhere
    refine Leaves.finish (u := ((s.arrival f kAck p).1.ackApply f p).gwSettle f) ((State.inRim_of_ne hd).trans (if_pos ha.acts)) ?_
    rw [State.ackApply_current (hepoch.trans (State.flowEpoch_arrival _).symm), State.flowTx_arrival, ha.gw]
  · intro s f p hd hkind hremote hformed hdst hhere hepoch
    have ha := acted_answer (by decide) hkind hremote hformed hdst hhere
    refine Leaves.finish (u := ((s.arrival f kAck p).1.ackApply f p).gwSettle f) ((State.inRim_of_ne hd).trans (if_pos ha.acts)) ?_
    rw [State.ackApply_old (fun h => hepoch (h.trans (State.flowEpoch_arrival _)))]
  · intro s f p hd hkind hremote hformed hdst hhere
    have ha := acted_answer (by decide) hkind hremote hformed hdst hhere
    refine Leaves.next (ha.defer hd) ⟨?_, ?_⟩
    · rw [State.freg_updGw, State.freg_fwrap, ha.freg]
      rfl
    · rw [State.gw_updGw, State.gw_fwrap, ha.gw]
      rfl

end Sys2Proof.Machine

end


section
/-! Groups of the all-reduce and their collectives (R445 to R465). -/

namespace Sys2Proof.Machine

set_option Elab.async false

open Sys2Proof

variable {s : State} {f : FieldId} {k : Nat} {x : ShfSlot} {c : ShfColl}

/-! ### Groups -/

theorem State.shf_updShf (g : SheafUnit → SheafUnit) : (s.updShf f g).shf f = g (s.shf f) := by
  rw [State.shf, State.updShf, State.field_updField, State.shf]

theorem State.shfSlot_fset (r : RegField) (v m i n : Nat) : (s.fset f r v m i).shfSlot f n = s.shfSlot f n := by
  rw [State.shfSlot, State.shfSlot, State.shf, State.shf, State.field_fset]
  rfl

theorem State.shfSlot_shfStatus (st group epoch next done members hset req n : Nat) :
    (s.shfStatus f k st group epoch next done members hset req).shfSlot f n = s.shfSlot f n := by
  simp only [State.shfStatus, State.shfSlot_fset]

theorem State.shfSlot_shfEvent (group epoch st result n : Nat) :
    (s.shfEvent f k group epoch st result).shfSlot f n = s.shfSlot f n := by
  obtain ⟨-, hshf, -⟩ := (State.shfEvent_only (F := fun _ => True) (P := fun _ => True) s f k group epoch st result (Fits.refl _)
    (.refl _ _ _ s)).same .sheaf f (by decide) (.inl (by decide))
  exact congrArg (fun U : SheafUnit => SMap.find U.slots n) hshf

/-- A status register of a slot that an event follows. -/
theorem State.freg_shfEvent (group epoch st result : Nat) {r : RegField} (hr : spares [.events] .anyReg r = true) (n i : Nat) :
    (s.shfEvent f k group epoch st result).freg f r n i = s.freg f r n i :=
  (State.shfEvent_only (F := fun _ => True) (P := fun _ => True) s f k group epoch st result (Fits.refl _)
    (.refl _ _ _ s)).freg r hr f n i

/-- A released slot is free, and its status registers are those of a slot without a group (R448). -/
theorem State.shfRelease_free : (s.shfRelease f k).freg f Reg.SHF_GROUP_STATUS.STATE k = 0 ∧
    (s.shfRelease f k).freg f Reg.SHF_GROUP_STATUS.DONE_SEQ k = 0xFFFFFFFF ∧
    (s.shfRelease f k).freg f Reg.SHF_GROUP_STATUS.RESULT k = St.OK ∧ (s.shfRelease f k).shfSlot f k = none := by
  rw [State.shfRelease]
  refine ⟨?_, ?_, ?_, ?_⟩
  · rw [State.freg_shfEvent _ _ _ _ (by decide), State.shfStatus]
    simp (disch := decide) only [State.freg_fset_other, State.freg_fset]
    rfl
  · rw [State.freg_shfEvent _ _ _ _ (by decide), State.shfStatus]
    simp (disch := decide) only [State.freg_fset_other, State.freg_fset]
    rfl
  · rw [State.freg_shfEvent _ _ _ _ (by decide), State.freg_fset]
    rfl
  · rw [State.shfSlot_shfEvent, State.shfSlot_fset, State.shfSlot_shfStatus, State.shfSlot, State.shf_updShf]
    exact (SMap.find_erase _ _ _).trans (if_pos rfl)

theorem State.shfReadTail_of (h : s.shfSlot f k = some x) : s.shfReadTail f k =
    (s.hbmRead f x.tailAddr 8 srcSheaf).1.updSlotShf f k
      (fun y => { y with tail := leNat (s.hbmRead f x.tailAddr 8 srcSheaf).2.1 }) := by
  rw [State.shfReadTail, h]

theorem State.shfReadTail_none (h : s.shfSlot f k = none) : s.shfReadTail f k = s := by
  rw [State.shfReadTail, h]

/-- The slot of a reform stays its group's, in another epoch (R465). -/
theorem State.shfReform_install {a : Nat} {y : ShfSlot} (hy : s.shfSlot f k = some y) (hx : (s.shfCheck f k a).2 = some x)
    (hgroup : x.group = y.group) (hepoch : x.epoch ≠ y.epoch) :
    s.shfReform f k a = ((s.shfCheck f k a).1.shfFail f k St.ABORTED_EPOCH [] true).shfInstall f k x := by
  rw [State.shfReform, hy]
  generalize s.shfCheck f k a = e at hx ⊢
  obtain ⟨t, o⟩ := e
  dsimp only at hx ⊢
  subst hx
  exact if_neg (by simp [hgroup, hepoch])

theorem State.shfReform_other {a : Nat} {y : ShfSlot} (hy : s.shfSlot f k = some y) (hx : (s.shfCheck f k a).2 = some x)
    (hno : x.group ≠ y.group ∨ x.epoch = y.epoch) :
    s.shfReform f k a = (s.shfCheck f k a).1.shfRefuse f k St.GROUP_INVALID := by
  rw [State.shfReform, hy]
  generalize s.shfCheck f k a = e at hx ⊢
  obtain ⟨t, o⟩ := e
  dsimp only at hx ⊢
  subst hx
  exact if_pos hno

theorem State.shfReform_invalid {a : Nat} {y : ShfSlot} (hy : s.shfSlot f k = some y) (hx : (s.shfCheck f k a).2 = none) :
    s.shfReform f k a = (s.shfCheck f k a).1.shfRefuse f k St.GROUP_INVALID := by
  rw [State.shfReform, hy]
  generalize s.shfCheck f k a = e at hx ⊢
  obtain ⟨t, o⟩ := e
  dsimp only at hx ⊢
  subst hx
  rfl

theorem State.shfReform_free {a : Nat} (h : s.shfSlot f k = none) : s.shfReform f k a = s.shfRefuse f k St.GROUP_INVALID := by
  rw [State.shfReform, h]

/-! ### The ready line (R452) -/

theorem State.shfReadReady_of (hx : s.shfSlot f k = some x) (hc : x.coll = some c) (ha : c.fld 40 8 ≠ 0)
    (hin : inHbm (c.fld 40 8) 8 = true) : s.shfReadReady f k = (s.hbmRead f (c.fld 40 8) 8 srcSheaf).1.updColl f k
      (fun d => { d with ready := leNat (s.hbmRead f (c.fld 40 8) 8 srcSheaf).2.1 }) := by
  rw [State.shfReadReady, hx, Option.bind_some, hc]
  exact if_neg (by simp [ha, hin])

theorem State.shfReadReady_unset (hx : s.shfSlot f k = some x) (hc : x.coll = some c)
    (hno : c.fld 40 8 = 0 ∨ inHbm (c.fld 40 8) 8 = false) : s.shfReadReady f k = s := by
  rw [State.shfReadReady, hx, Option.bind_some, hc]
  exact if_pos hno

theorem State.shfReadReady_idle (h : (s.shfSlot f k).bind (fun x => x.coll) = none) : s.shfReadReady f k = s := by
  rw [State.shfReadReady, h]

end Sys2Proof.Machine

end


section
/-! The commands that register groups and run their collectives (R445 to R465). -/

namespace Sys2Proof.Machine

set_option Elab.async false

open Sys2Proof

variable {s : State} {f : FieldId} {k : Fin 64} {x : ShfSlot} {c : ShfColl}

/-! ### Commands of a field in service or not that find nothing -/

/-- A command with nothing to act on leaves the state, in a field that is DARK as in any other. -/
theorem State.inRim_idle {r : Result} (h : r = .next s) : s.inRim f r = .next s := by
  rw [h, State.inRim, ite_self]

theorem State.inRim_leaves {t : State} (ht : t = s) : Leaves (s.inRim f (finish t)) (fun u => u = s) := by
  rw [State.inRim]
  split
  · exact .next rfl rfl
  · exact .finish rfl ht

/-! ### Registration (R447) -/

theorem State.registration_taken {e : Nat × Nat} (hd : s.svc f ≠ svcDark)
    (he : (s.shf f).regs.find? (fun e => decide (e.1 = k.val)) = some e) (hslot : (s.shfSlot f k).isSome = true) :
    exec (.registrationComplete f k) s =
      finish ((s.updShf f (fun U => { U with regs := U.regs.erase e })).shfRefuse f k St.NO_SLOT) := by
  change execRegistrationComplete f k s = _
  rw [execRegistrationComplete, State.inRim_of_ne hd, he]
  exact if_pos hslot

theorem State.registration_valid {e : Nat × Nat} (hd : s.svc f ≠ svcDark)
    (he : (s.shf f).regs.find? (fun e => decide (e.1 = k.val)) = some e) (hslot : s.shfSlot f k = none)
    (hx : ((s.updShf f (fun U => { U with regs := U.regs.erase e })).shfCheck f k e.2).2 = some x) :
    exec (.registrationComplete f k) s =
      finish (((s.updShf f (fun U => { U with regs := U.regs.erase e })).shfCheck f k e.2).1.shfInstall f k x) := by
  change execRegistrationComplete f k s = _
  rw [execRegistrationComplete, State.inRim_of_ne hd, he]
  refine (if_neg (by simp [hslot])).trans ?_
  generalize (s.updShf f (fun U => { U with regs := U.regs.erase e })).shfCheck f k e.2 = b at hx ⊢
  obtain ⟨t, o⟩ := b
  dsimp only at hx ⊢
  rw [hx]

theorem State.registration_invalid {e : Nat × Nat} (hd : s.svc f ≠ svcDark)
    (he : (s.shf f).regs.find? (fun e => decide (e.1 = k.val)) = some e) (hslot : s.shfSlot f k = none)
    (hx : ((s.updShf f (fun U => { U with regs := U.regs.erase e })).shfCheck f k e.2).2 = none) :
    exec (.registrationComplete f k) s =
      finish (((s.updShf f (fun U => { U with regs := U.regs.erase e })).shfCheck f k e.2).1.shfRefuse f k St.GROUP_INVALID) := by
  change execRegistrationComplete f k s = _
  rw [execRegistrationComplete, State.inRim_of_ne hd, he]
  refine (if_neg (by simp [hslot])).trans ?_
  generalize (s.updShf f (fun U => { U with regs := U.regs.erase e })).shfCheck f k e.2 = b at hx ⊢
  obtain ⟨t, o⟩ := b
  dsimp only at hx ⊢
  rw [hx]

theorem State.registration_none (he : (s.shf f).regs.find? (fun e => decide (e.1 = k.val)) = none) :
    exec (.registrationComplete f k) s = .next s := by
  change execRegistrationComplete f k s = _
  rw [execRegistrationComplete, he]
  exact State.inRim_idle rfl

/-! ### The start of a collective (R450, R453) -/

/-- The bytes of the next descriptor of a slot, with the state that reading it leaves. -/
def State.nextDesc (s : State) (f : FieldId) (x : ShfSlot) : State × List Byte × Bool :=
  s.hbmRead f (x.ring + x.next % 2 ^ x.ringLog * 64) 64 srcSheaf

/-- The descriptor is counted as read. -/
def State.descRead (s : State) (f : FieldId) (k : Nat) (x : ShfSlot) : State :=
  ((s.nextDesc f x).1.updSlotShf f k (fun y => { y with next := y.next + 1 })).fset f Reg.SHF_GROUP_STATUS.NEXT_SEQ
    ((x.next + 1) % 2 ^ 32) k

theorem State.collectiveStart_of (hd : s.svc f ≠ svcDark) (hx : s.shfSlot f k = some x) (hc : x.coll = none) (htail : x.next < x.tail)
    (hrun : (s.shf f).stopped = false) : exec (.collectiveStart f k) s =
    if s.shfRefusal f x (s.nextDesc f x).2.1 ≠ St.OK then
      finish ((s.descRead f k x).shfRecord f k (s.nextDesc f x).2.1 (x.next % 2 ^ 32) (s.shfRefusal f x (s.nextDesc f x).2.1)
        (s.tallyOf f) 0 [])
    else finish ((s.descRead f k x).shfStart f k x (s.nextDesc f x).2.1 (x.next % 2 ^ 32)) := by
  have hgo : ¬ (x.coll.isSome = true ∨ x.tail ≤ x.next ∨ (s.shf f).stopped = true) := by
    simp [hc, hrun, htail]
  change execCollectiveStart f k s = _
  rw [execCollectiveStart, State.inRim_of_ne hd, hx]
  refine (if_neg hgo).trans ?_
  rw [State.descRead, State.nextDesc]

theorem State.collectiveStart_idle (hx : s.shfSlot f k = some x)
    (hno : x.coll.isSome = true ∨ x.tail ≤ x.next ∨ (s.shf f).stopped = true) : exec (.collectiveStart f k) s = .next s := by
  change execCollectiveStart f k s = _
  rw [execCollectiveStart, hx]
  exact State.inRim_idle (if_pos hno)

theorem State.collectiveStart_free (hx : s.shfSlot f k = none) : exec (.collectiveStart f k) s = .next s := by
  change execCollectiveStart f k s = _
  rw [execCollectiveStart, hx]
  exact State.inRim_idle rfl

/-! ### Pieces and folds (R457, R461) -/

theorem State.pieceSend_of {g : Fin 4} {n ch : Nat} (hd : s.svc f ≠ svcDark) (hx : s.shfSlot f k = some x) (hc : x.coll = some c)
    (hmatch : c.matched = true) (hsilent : c.silent = false) (hrun : (s.shf f).stopped = false)
    (hcredit : SMap.get c.spent 0 (n % 8192) < x.credits)
    (hnext : nextToSend x.members (s.node f) g (SMap.get c.ptr 0 g) (chunkCount c.count) = some ch)
    (htarget : shfTarget x.members g ch (s.node f) = some n) :
    exec (.pieceSend f k g n) s = finish (s.pieceSend f k g n x c ch) := by
  change execPieceSend f k g n s = _
  rw [execPieceSend, State.inRim_of_ne hd, hx]
  dsimp only
  rw [hc]
  dsimp only
  rw [if_neg (by simp [hmatch, hsilent, hrun, hcredit]), hnext]
  exact if_pos htarget

theorem State.pieceSend_idle {g : Fin 4} {n : Nat} (hx : s.shfSlot f k = some x) (hc : x.coll = some c)
    (hno : c.matched = false ∨ c.silent = true ∨ (s.shf f).stopped = true ∨ x.credits ≤ SMap.get c.spent 0 (n % 8192) ∨
      (nextToSend x.members (s.node f) g (SMap.get c.ptr 0 g) (chunkCount c.count)).all
        (fun ch => decide (shfTarget x.members g ch (s.node f) ≠ some n)) = true) :
    exec (.pieceSend f k g n) s = .next s := by
  change execPieceSend f k g n s = _
  rw [execPieceSend, hx]
  dsimp only
  rw [hc]
  refine State.inRim_idle ?_
  dsimp only
  split
  · rfl
  · next hgo =>
    have hall : (nextToSend x.members (s.node f) g (SMap.get c.ptr 0 g) (chunkCount c.count)).all
        (fun ch => decide (shfTarget x.members g ch (s.node f) ≠ some n)) = true := by
      simp only [Bool.or_eq_true, Bool.not_eq_true', decide_eq_true_eq, not_or] at hgo
      obtain ⟨⟨⟨hmatch, hsilent⟩, hrun⟩, hcredit⟩ := hgo
      simpa [hmatch, hsilent, hrun, hcredit] using hno
    split
    · rfl
    · next ch hnext =>
      rw [hnext, Option.all_some, decide_eq_true_eq] at hall
      exact if_neg hall

/-- Whether a chunk of a stage may be folded now: its stage is this member's, every piece is there, and so is the member's own
part. -/
def State.foldReady (s : State) (f : FieldId) (x : ShfSlot) (c : ShfColl) (g : Fin 4) (ch : Nat) : Bool :=
  c.matched && !(s.shf f).stopped && decide (ch < chunkCount c.count) && decide (shfCarrier x.members g ch (s.node f) = s.node f) &&
    !SMap.get c.folded false (ch * 4 + g) && (shfSenders x.members g ch (s.node f)).all (c.pieceFull g ch) &&
    (if g.val = 0 then c.chunkReady ch else (c.results.find? (fun r => decide (r.stage + 1 = g.val) && decide (r.chunk = ch))).isSome)

theorem State.chunkFold_of {g : Fin 4} {ch : Nat} (hd : s.svc f ≠ svcDark) (hx : s.shfSlot f k = some x) (hc : x.coll = some c)
    (h : s.foldReady f x c g ch = true) : exec (.chunkFold f k g ch) s =
    finish (s.chunkFold f k g ch x c (shfSenders x.members g ch (s.node f))
      (c.results.find? (fun r => decide (r.stage + 1 = g.val) && decide (r.chunk = ch)))) := by
  change execChunkFold f k g ch s = _
  rw [execChunkFold, State.inRim_of_ne hd, hx]
  dsimp only
  rw [hc]
  exact if_pos h

theorem State.chunkFold_idle {g : Fin 4} {ch : Nat} (hx : s.shfSlot f k = some x) (hc : x.coll = some c)
    (h : s.foldReady f x c g ch = false) : exec (.chunkFold f k g ch) s = .next s := by
  change execChunkFold f k g ch s = _
  rw [execChunkFold, hx]
  dsimp only
  rw [hc]
  exact State.inRim_idle (if_neg (Bool.eq_false_iff.mp h))

/-! ### Resends and timeouts (R461, R462) -/

theorem State.partResend_of {i : Nat} {o : ShfOut} (hd : s.svc f ≠ svcDark) (hx : s.shfSlot f k = some x) (hc : x.coll = some c)
    (ho : c.out[i]? = some o) (htries : o.tries < 3) (hrun : (s.shf f).stopped = false) : exec (.partResend f k i) s =
    .next (((s.updColl f k (fun c => { c with out := c.out.set i { o with tries := o.tries + 1 } })).fwrap f
      Reg.SHF_STAT.RETX).sendPart f x c.seq o) := by
  change execPartResend f k i s = _
  rw [execPartResend, State.inRim_of_ne hd, hx]
  dsimp only
  rw [hc, Option.bind_some, ho]
  exact if_neg (by simp [htries, hrun])

theorem State.partResend_idle {i : Nat} (hx : s.shfSlot f k = some x) (hc : x.coll = some c)
    (hno : (c.out[i]?).all (fun o => decide (3 ≤ o.tries) || (s.shf f).stopped) = true) : exec (.partResend f k i) s = .next s := by
  change execPartResend f k i s = _
  rw [execPartResend, hx]
  dsimp only
  rw [hc, Option.bind_some]
  cases ho : c.out[i]? with
  | none => exact State.inRim_idle rfl
  | some o =>
    rw [ho] at hno
    exact State.inRim_idle (if_pos (by simpa using hno))

/-- The members of the handshake set from which something is awaited and nothing has come for the timeout. -/
def State.mute (s : State) (f : FieldId) (x : ShfSlot) (c : ShfColl) : List Nat :=
  x.hset.filter (fun n => decide (max c.tIssue (SMap.get c.last 0 (n % 8192)) + x.timeout ≤ s.tallyOf f) &&
    c.awaits x.members (s.node f) n)

theorem State.stageTimeout_of (hd : s.svc f ≠ svcDark) (hx : s.shfSlot f k = some x) (hc : x.coll = some c) (hsilent : c.silent = false)
    (hrun : (s.shf f).stopped = false) (hmute : s.mute f x c ≠ []) : exec (.stageTimeout f k) s =
    if c.digests.any (fun e => decide (e.2 ≠ c.digest)) then finish (s.shfMismatch f k c)
    else finish (s.shfFail f k St.MEMBER_SILENT (s.mute f x c) true) := by
  change execStageTimeout f k s = _
  rw [execStageTimeout, State.inRim_of_ne hd, hx]
  dsimp only
  rw [hc]
  have hgo : ¬ (s.mute f x c = [] ∨ (s.shf f).stopped = true ∨ c.silent = true) := by
    simp [hmute, hrun, hsilent]
  exact if_neg hgo

theorem State.stageTimeout_idle (hx : s.shfSlot f k = some x) (hc : x.coll = some c)
    (hno : s.mute f x c = [] ∨ (s.shf f).stopped = true ∨ c.silent = true) : exec (.stageTimeout f k) s = .next s := by
  change execStageTimeout f k s = _
  rw [execStageTimeout, hx]
  dsimp only
  rw [hc]
  exact State.inRim_idle (if_pos hno)

/-! ### A slot without a collective -/

/-- A slot without a collective is not registered, or has none in progress. -/
theorem coll_none (h : (s.shfSlot f k).bind (fun x => x.coll) = none) : s.shfSlot f k = none ∨ ∃ x, s.shfSlot f k = some x ∧ x.coll = none := by
  cases hx : s.shfSlot f k with
  | none => exact .inl rfl
  | some x => exact .inr ⟨x, rfl, by rwa [hx] at h⟩

theorem State.exec_of_coll_none {g : Fin 4} {a : Nat} (h : (s.shfSlot f k).bind (fun x => x.coll) = none) {i : Instr}
    (hi : i ∈ ([.pieceSend f k g a, .chunkFold f k g a, .partResend f k a, .stageTimeout f k] : List Instr)) :
    exec i s = .next s := by
  simp only [List.mem_cons, List.not_mem_nil, or_false] at hi
  rcases coll_none h with hx | ⟨x, hx, hc⟩
  · rcases hi with rfl | rfl | rfl | rfl
    all_goals
      refine State.inRim_idle ?_
      simp only [hx]
  · rcases hi with rfl | rfl | rfl | rfl
    all_goals
      refine State.inRim_idle ?_
      simp only [hx, hc, Option.bind_none]

/-- Settles O31: each command by whether its slot has a group and a collective, and by the branch of its own. -/
theorem sheafCommandsComplete : Obligations.SheafCommandsComplete := by
  unfold Obligations.SheafCommandsComplete
  refine ⟨?_, ?_, ?_, ?_, ?_, ?_, ?_, ?_, ?_, ?_, ?_, ?_, ?_, ?_, ?_, ?_, ?_, ?_, ?_, ?_, ?_, ?_, ?_, ?_, ?_, ?_, ?_, ?_, ?_, ?_⟩
  · intro s f k g a hd x hx
    simp only [List.mem_cons, List.not_mem_nil, or_false] at hx
    rcases hx with rfl | rfl | rfl | rfl | rfl | rfl | rfl | rfl | rfl | rfl | rfl
    all_goals exact Leaves.next (State.inRim_of_dark hd) rfl
  · intro s f k a hd
    refine Leaves.next (u := s.shfRegister f k a) (State.inRim_of_ne hd) ?_
    rw [State.shfRegister, State.shf_updShf]
  · intro s f k e hd he hslot
    exact .finish (State.registration_taken hd he hslot) rfl
  · intro s f k e x hd he hslot hx
    exact .finish (State.registration_valid hd he hslot hx) rfl
  · intro s f k e hd he hslot hx
    exact .finish (State.registration_invalid hd he hslot hx) rfl
  · intro s f k he
    exact .next (State.registration_none he) rfl
  · intro s f k a x y hd hy hx hgroup hepoch
    exact .finish (State.inRim_of_ne hd) (State.shfReform_install hy hx hgroup hepoch)
  · intro s f k a x y hd hy hx hno
    exact .finish (State.inRim_of_ne hd) (State.shfReform_other hy hx hno)
  · intro s f k a y hd hy hx
    exact .finish (State.inRim_of_ne hd) (State.shfReform_invalid hy hx)
  · intro s f k a hd h
    exact .finish (State.inRim_of_ne hd) (State.shfReform_free h)
  · intro s f k hd
    exact .finish (State.inRim_of_ne hd) State.shfRelease_free
  · intro s f k x hd hx
    exact .finish (State.inRim_of_ne hd) (State.shfReadTail_of hx)
  · intro s f k x c hd hx hc ha hin
    exact .finish (State.inRim_of_ne hd) (State.shfReadReady_of hx hc ha hin)
  · intro s f k x c hx hc hno
    change Leaves (execReadyLineWrite f k s) _
    exact State.inRim_leaves (State.shfReadReady_unset hx hc hno)
  · intro s f k h
    change Leaves (execTailWrite f k s) _
    exact State.inRim_leaves (State.shfReadTail_none h)
  · intro s f k h
    change Leaves (execReadyLineWrite f k s) _
    exact State.inRim_leaves (State.shfReadReady_idle h)
  · intro s f k x hd hx hc htail hrun hok
    exact .finish ((State.collectiveStart_of hd hx hc htail hrun).trans (if_neg (not_not_intro hok))) rfl
  · intro s f k x hd hx hc htail hrun hbad
    exact .finish ((State.collectiveStart_of hd hx hc htail hrun).trans (if_pos hbad)) rfl
  · intro s f k x hx hno
    exact .next (State.collectiveStart_idle hx hno) rfl
  · intro s f k x c g n ch hd hx hc hmatch hsilent hrun hcredit hnext htarget
    exact .finish (State.pieceSend_of hd hx hc hmatch hsilent hrun hcredit hnext htarget) rfl
  · intro s f k x c g n hx hc hno
    exact .next (State.pieceSend_idle hx hc hno) rfl
  · intro s f k x c g ch hd hx hc h
    exact .finish (State.chunkFold_of hd hx hc h) rfl
  · intro s f k x c g ch hx hc h
    exact .next (State.chunkFold_idle hx hc h) rfl
  · intro s f k x c i o hd hx hc ho htries hrun
    exact .next (State.partResend_of hd hx hc ho htries hrun) rfl
  · intro s f k x c i hx hc hno
    exact .next (State.partResend_idle hx hc hno) rfl
  · intro s f k x c hd hx hc hsilent hrun hmute hsame
    exact .finish ((State.stageTimeout_of hd hx hc hsilent hrun hmute).trans (if_neg (Bool.eq_false_iff.mp hsame))) rfl
  · intro s f k x c hd hx hc hsilent hrun hmute hdiff
    exact .finish ((State.stageTimeout_of hd hx hc hsilent hrun hmute).trans (if_pos hdiff)) rfl
  · intro s f k x c hx hc hno
    exact .next (State.stageTimeout_idle hx hc hno) rfl
  · intro s f k g a h x hx
    exact .next (State.exec_of_coll_none h hx) rfl
  · intro s f k hx
    exact .next (State.collectiveStart_free hx) rfl

end Sys2Proof.Machine

end


section
/-! Packets of the all-reduce (R455 to R467). -/

namespace Sys2Proof.Machine

set_option Elab.async false

open Sys2Proof

variable {s : State} {f : FieldId} {kind : Nat} {p : Packet} {k : Nat} {x : ShfSlot} {c : ShfColl}

/-- A packet of its kind that the engine takes in for a slot. -/
structure Taken (s : State) (f : FieldId) (kind : Nat) (p : Packet) (k : Nat) (x : ShfSlot) : Prop where
  cls : p.cls = 1
  dst : p.dst = s.node f
  running : (s.shf f).stopped = false
  here : (s.field f).router.inbox.contains p = true ∨ s.deliverOk f p = true
  open_ : s.halted f = false ∨ p.allot ≠ s.allot f
  known : shfKnown p = true
  kind : pktField p 24 1 = kind
  formed : shfWellFormed p = true
  slot : (s.shf f).slots.find? (fun e => decide (e.2.group = pktField p 16 2)) = some (k, x)

theorem Taken.eq (h : Taken s f kind p k x) : s.shfArrival f kind p = ((s.shfArrival f kind p).1, some (k, x)) := by
  obtain ⟨hcls, hdst, hrun, hhere, hopen, hknown, hkind, hformed, hslot⟩ := h
  have hsome : (s.shfArrival f kind p).2 = some (k, x) := by
    have hmine : ¬ (p.cls ≠ 1 ∨ (pktField p 24 1 ≠ kind ∧ shfKnown p = true) ∨ p.dst ≠ s.node f ∨ (s.shf f).stopped = true) := by
      simp [hcls, hkind, hdst, hrun]
    have hwait : ¬ (!(s.field f).router.inbox.contains p && !s.deliverOk f p) = true := by
      rcases hhere with h | h
      · rw [h, Bool.not_true, Bool.false_and]
        exact Bool.false_ne_true
      · rw [h, Bool.not_true, Bool.and_false]
        exact Bool.false_ne_true
    have hlive : ¬ (s.halted f && decide (p.allot = s.allot f)) = true := by
      rcases hopen with h | h
      · simp [h]
      · simp [h]
    rw [State.shfArrival, if_neg hmine]
    dsimp only
    rw [if_neg hwait, if_neg hlive, if_neg (by simp [hknown, hformed]), hslot]
  exact Prod.ext rfl hsome

/-- A packet that the engine does not take leaves its discard. -/
theorem not_taken (h : (s.shfArrival f kind p).2 = none) : s.shfArrival f kind p = ((s.shfArrival f kind p).1, none) := Prod.ext rfl h

/-! ### Digests (R455, R465) -/

theorem Taken.digest_current (h : Taken s f skDigest p k x) (hd : s.svc f ≠ svcDark) (hep : pktField p 18 2 = x.epoch)
    (hc : x.collOf p = some c) : exec (.digest f p) s =
    if x.hset.contains p.src then finish (((s.shfArrival f skDigest p).1.updColl f k
      (fun c => c.takeDigest p.src (pktField p 32 8) (s.tallyOf f))).shfDecide f k)
    else finish ((s.shfArrival f skDigest p).1.shfStale f) := by
  change execDigest f p s = _
  rw [execDigest, State.inRim_of_ne hd, h.eq]
  dsimp only
  rw [if_neg (not_not_intro hep), hc]

theorem Taken.digest_early (h : Taken s f skDigest p k x) (hd : s.svc f ≠ svcDark) (hep : pktField p 18 2 = x.epoch)
    (hc : x.collOf p = none) : exec (.digest f p) s =
    if x.ahead p && x.hset.contains p.src then finish ((s.shfArrival f skDigest p).1.updSlotShf f k (fun y => { y with
      early := y.early ++ [(pktField p 20 4, p.src, pktField p 32 8, s.tallyOf f)] }))
    else finish ((s.shfArrival f skDigest p).1.shfStale f) := by
  change execDigest f p s = _
  rw [execDigest, State.inRim_of_ne hd, h.eq]
  dsimp only
  rw [if_neg (not_not_intro hep), hc]

theorem Taken.digest_other (h : Taken s f skDigest p k x) (hd : s.svc f ≠ svcDark) (hep : pktField p 18 2 ≠ x.epoch) :
    exec (.digest f p) s =
    if (pktField p 18 2 + 0x10000 - x.epoch) % 0x10000 < 0x8000 ∧ x.coll.isSome = true then
      finish (((s.shfArrival f skDigest p).1.shfFail f k St.ABORTED_EPOCH [] true).shfStale f)
    else finish ((s.shfArrival f skDigest p).1.shfStale f) := by
  change execDigest f p s = _
  rw [execDigest, State.inRim_of_ne hd, h.eq]
  dsimp only
  rw [if_pos hep]

/-- A packet of the collective in progress is of the slot's epoch. -/
theorem ShfSlot.epoch_of_collOf (h : x.collOf p = some c) : pktField p 18 2 = x.epoch := by
  rw [ShfSlot.collOf] at h
  split at h
  · assumption
  · cases h

/-! ### Parts (R457, R461) -/

theorem Taken.piece_astray (h : Taken s f skPiece p k x) (hd : s.svc f ≠ svcDark) (hc : x.collOf p = none) :
    exec (.piece f p) s = finish ((s.shfArrival f skPiece p).1.partAstray f x p) := by
  change execPiece f p s = _
  rw [execPiece, State.inRim_of_ne hd, h.eq]
  dsimp only
  rw [hc]

theorem Taken.gather_astray (h : Taken s f skGather p k x) (hd : s.svc f ≠ svcDark) (hc : x.collOf p = none) :
    exec (.gather f p) s = finish ((s.shfArrival f skGather p).1.partAstray f x p) := by
  change execGather f p s = _
  rw [execGather, State.inRim_of_ne hd, h.eq]
  dsimp only
  rw [hc]

theorem State.partAstray_done (hep : pktField p 18 2 = x.epoch) (hseq : seqBefore (pktField p 20 4) (x.next % 2 ^ 32) = true) :
    s.partAstray f x p = (s.fcount f Reg.SHF_STAT.STALE).shfReceipt f x p := if_pos ⟨hep, hseq⟩

theorem State.partAstray_stale (hno : pktField p 18 2 ≠ x.epoch ∨ seqBefore (pktField p 20 4) (x.next % 2 ^ 32) = false) :
    s.partAstray f x p = s.fcount f Reg.SHF_STAT.STALE :=
  if_neg (fun ⟨hep, hseq⟩ => hno.elim (fun h => h hep) (fun h => Bool.false_ne_true (h.symm.trans hseq)))

/-! ### Receipts, credits and aborts (R461, R462) -/

theorem Taken.receipt_stale (h : Taken s f skReceipt p k x) (hd : s.svc f ≠ svcDark) (hc : x.collOf p = none) :
    exec (.receipt f p) s = finish ((s.shfArrival f skReceipt p).1.shfStale f) := by
  change execReceipt f p s = _
  rw [execReceipt, State.inRim_of_ne hd, h.eq]
  dsimp only
  rw [hc]

theorem Taken.credit_stale (h : Taken s f skCredit p k x) (hd : s.svc f ≠ svcDark) (hc : x.collOf p = none) :
    exec (.credit f p) s = finish ((s.shfArrival f skCredit p).1.shfStale f) := by
  change execCredit f p s = _
  rw [execCredit, State.inRim_of_ne hd, h.eq]
  dsimp only
  rw [hc]

theorem Taken.abort_current (h : Taken s f skAbort p k x) (hd : s.svc f ≠ svcDark) (hc : x.collOf p = some c) :
    exec (.abort f p) s = finish ((s.shfArrival f skAbort p).1.shfFail f k (pktField p 32 2) (abortNames p) true) := by
  change execAbort f p s = _
  rw [execAbort, State.inRim_of_ne hd, h.eq]
  dsimp only
  rw [hc]

theorem Taken.abort_other (h : Taken s f skAbort p k x) (hd : s.svc f ≠ svcDark) (hc : x.collOf p = none) :
    exec (.abort f p) s = if x.ahead p then finish ((s.shfArrival f skAbort p).1.updSlotShf f k (fun y => { y with
      aborts := y.aborts ++ [(pktField p 20 4, pktField p 32 2, abortNames p)] }))
    else finish ((s.shfArrival f skAbort p).1.shfStale f) := by
  change execAbort f p s = _
  rw [execAbort, State.inRim_of_ne hd, h.eq]
  dsimp only
  rw [hc]

/-- Settles O30: a packet that is taken in (`Taken`) by its kind and the collective it belongs to; any other leaves its discard. -/
theorem sheafPacketsComplete : Obligations.SheafPacketsComplete := by
  unfold Obligations.SheafPacketsComplete
  refine ⟨?_, ?_, ?_, ?_, ?_, ?_, ?_, ?_, ?_, ?_, ?_, ?_, ?_, ?_, ?_, ?_, ?_, ?_, ?_, ?_, ?_, ?_, ?_, ?_, ?_, ?_⟩
  · intro s f p hd x hx
    simp only [List.mem_cons, List.not_mem_nil, or_false] at hx
    rcases hx with rfl | rfl | rfl | rfl | rfl | rfl
    all_goals exact Leaves.next (State.inRim_of_dark hd) rfl
  · intro s f p hd x hx hno
    simp only [List.mem_cons, List.not_mem_nil, or_false] at hx
    rcases hx with rfl | rfl | rfl | rfl | rfl | rfl
    · change Leaves (execDigest f p s) _
      rw [execDigest, State.inRim_of_ne hd, not_taken hno]
      exact .finish rfl rfl
    · change Leaves (execPiece f p s) _
      rw [execPiece, State.inRim_of_ne hd, not_taken hno]
      exact .finish rfl rfl
    · change Leaves (execGather f p s) _
      rw [execGather, State.inRim_of_ne hd, not_taken hno]
      exact .finish rfl rfl
    · change Leaves (execReceipt f p s) _
      rw [execReceipt, State.inRim_of_ne hd, not_taken hno]
      exact .finish rfl rfl
    · change Leaves (execCredit f p s) _
      rw [execCredit, State.inRim_of_ne hd, not_taken hno]
      exact .finish rfl rfl
    · change Leaves (execAbort f p s) _
      rw [execAbort, State.inRim_of_ne hd, not_taken hno]
      exact .finish rfl rfl
  · intro s f p k x c hd hcls hdst hrun hhere hopen hknown hkind hformed hslot hc hmem
    have ht : Taken s f _ p k x := ⟨hcls, hdst, hrun, hhere, hopen, hknown, hkind, hformed, hslot⟩
    exact .finish ((ht.digest_current hd (ShfSlot.epoch_of_collOf hc) hc).trans (if_pos hmem)) rfl
  · intro s f p k x c hd hcls hdst hrun hhere hopen hknown hkind hformed hslot hc hmem
    have ht : Taken s f _ p k x := ⟨hcls, hdst, hrun, hhere, hopen, hknown, hkind, hformed, hslot⟩
    exact .finish ((ht.digest_current hd (ShfSlot.epoch_of_collOf hc) hc).trans (if_neg (Bool.eq_false_iff.mp hmem))) rfl
  · intro s f p k x hd hcls hdst hrun hhere hopen hknown hkind hformed hslot hep hc hahead hmem
    have ht : Taken s f _ p k x := ⟨hcls, hdst, hrun, hhere, hopen, hknown, hkind, hformed, hslot⟩
    exact .finish ((ht.digest_early hd hep hc).trans (if_pos (by rw [hahead, hmem]; rfl))) rfl
  · intro s f p k x hd hcls hdst hrun hhere hopen hknown hkind hformed hslot hep hc hno
    have ht : Taken s f _ p k x := ⟨hcls, hdst, hrun, hhere, hopen, hknown, hkind, hformed, hslot⟩
    refine .finish ((ht.digest_early hd hep hc).trans (if_neg ?_)) rfl
    rcases hno with h | h
    · rw [h, Bool.false_and]
      exact Bool.false_ne_true
    · rw [h, Bool.and_false]
      exact Bool.false_ne_true
  · intro s f p k x hd hcls hdst hrun hhere hopen hknown hkind hformed hslot hep hlater hcoll
    have ht : Taken s f _ p k x := ⟨hcls, hdst, hrun, hhere, hopen, hknown, hkind, hformed, hslot⟩
    exact .finish ((ht.digest_other hd hep).trans (if_pos ⟨hlater, hcoll⟩)) rfl
  · intro s f p k x hd hcls hdst hrun hhere hopen hknown hkind hformed hslot hep hno
    have ht : Taken s f _ p k x := ⟨hcls, hdst, hrun, hhere, hopen, hknown, hkind, hformed, hslot⟩
    refine .finish ((ht.digest_other hd hep).trans (if_neg ?_)) rfl
    rintro ⟨hlater, hcoll⟩
    rcases hno with h | h
    · omega
    · simp [h] at hcoll
  · intro s f p k x hd hcls hdst hrun hhere hopen hknown hkind hformed hslot hc hep hseq
    have ht : Taken s f _ p k x := ⟨hcls, hdst, hrun, hhere, hopen, hknown, hkind, hformed, hslot⟩
    exact .finish (ht.piece_astray hd hc) (State.partAstray_done hep hseq)
  · intro s f p k x hd hcls hdst hrun hhere hopen hknown hkind hformed hslot hc hno
    have ht : Taken s f _ p k x := ⟨hcls, hdst, hrun, hhere, hopen, hknown, hkind, hformed, hslot⟩
    exact .finish (ht.piece_astray hd hc) (State.partAstray_stale hno)
  · intro s f p k x hd hcls hdst hrun hhere hopen hknown hkind hformed hslot hc hep hseq
    have ht : Taken s f _ p k x := ⟨hcls, hdst, hrun, hhere, hopen, hknown, hkind, hformed, hslot⟩
    exact .finish (ht.gather_astray hd hc) (State.partAstray_done hep hseq)
  · intro s f p k x hd hcls hdst hrun hhere hopen hknown hkind hformed hslot hc hno
    have ht : Taken s f _ p k x := ⟨hcls, hdst, hrun, hhere, hopen, hknown, hkind, hformed, hslot⟩
    exact .finish (ht.gather_astray hd hc) (State.partAstray_stale hno)
  · intro s f p k x c hd hcls hdst hrun hhere hopen hknown hkind hformed hslot hc hno
    have ht : Taken s f _ p k x := ⟨hcls, hdst, hrun, hhere, hopen, hknown, hkind, hformed, hslot⟩
    refine .finish (r := execPiece f p s) ?_ rfl
    rw [execPiece, State.inRim_of_ne hd, ht.eq]
    dsimp only
    rw [hc]
    dsimp only
    refine if_pos ?_
    rcases hno with h | h
    · simp only [h, Bool.not_false, Bool.true_or]
    · simp only [h, Bool.not_false, Bool.or_true]
  · intro s f p k x c hd hcls hdst hrun hhere hopen hknown hkind hformed hslot hc hsender hok hheld
    have ht : Taken s f _ p k x := ⟨hcls, hdst, hrun, hhere, hopen, hknown, hkind, hformed, hslot⟩
    refine .finish (r := execPiece f p s) ?_ rfl
    rw [execPiece, State.inRim_of_ne hd, ht.eq]
    dsimp only
    rw [hc]
    dsimp only
    rw [if_neg (by rw [hsender, hok]; decide)]
    exact if_pos hheld
  · intro s f p k x c hd hcls hdst hrun hhere hopen hknown hkind hformed hslot hc hsender hok hnew
    have ht : Taken s f _ p k x := ⟨hcls, hdst, hrun, hhere, hopen, hknown, hkind, hformed, hslot⟩
    refine .finish (r := execPiece f p s) ?_ rfl
    rw [execPiece, State.inRim_of_ne hd, ht.eq]
    dsimp only
    rw [hc]
    dsimp only
    rw [if_neg (by rw [hsender, hok]; decide)]
    exact if_neg (Bool.eq_false_iff.mp hnew)
  · intro s f p k x c hd hcls hdst hrun hhere hopen hknown hkind hformed hslot hc hbad
    have ht : Taken s f _ p k x := ⟨hcls, hdst, hrun, hhere, hopen, hknown, hkind, hformed, hslot⟩
    refine .finish (r := execGather f p s) ?_ rfl
    rw [execGather, State.inRim_of_ne hd, ht.eq]
    dsimp only
    rw [hc]
    dsimp only
    exact if_pos hbad
  · intro s f p k x c hd hcls hdst hrun hhere hopen hknown hkind hformed hslot hc hok hgot
    have ht : Taken s f _ p k x := ⟨hcls, hdst, hrun, hhere, hopen, hknown, hkind, hformed, hslot⟩
    refine .finish (r := execGather f p s) ?_ rfl
    rw [execGather, State.inRim_of_ne hd, ht.eq]
    dsimp only
    rw [hc]
    dsimp only
    rw [if_neg hok]
    exact if_pos hgot
  · intro s f p k x c hd hcls hdst hrun hhere hopen hknown hkind hformed hslot hc hok hnew hsilent
    have ht : Taken s f _ p k x := ⟨hcls, hdst, hrun, hhere, hopen, hknown, hkind, hformed, hslot⟩
    refine .finish (r := execGather f p s) ?_ rfl
    rw [execGather, State.inRim_of_ne hd, ht.eq]
    dsimp only
    rw [hc]
    dsimp only
    rw [if_neg hok, if_neg (Bool.eq_false_iff.mp hnew), if_neg (Bool.eq_false_iff.mp hsilent)]
  · intro s f p k x c hd hcls hdst hrun hhere hopen hknown hkind hformed hslot hc hok hnew hsilent
    have ht : Taken s f _ p k x := ⟨hcls, hdst, hrun, hhere, hopen, hknown, hkind, hformed, hslot⟩
    refine .finish (r := execGather f p s) ?_ rfl
    rw [execGather, State.inRim_of_ne hd, ht.eq]
    dsimp only
    rw [hc]
    dsimp only
    rw [if_neg hok, if_neg (Bool.eq_false_iff.mp hnew), if_pos hsilent, State.collReceipt, if_pos hsilent]
  · intro s f p k x c hd hcls hdst hrun hhere hopen hknown hkind hformed hslot hc
    have ht : Taken s f _ p k x := ⟨hcls, hdst, hrun, hhere, hopen, hknown, hkind, hformed, hslot⟩
    refine .finish (r := execReceipt f p s) ?_ rfl
    rw [execReceipt, State.inRim_of_ne hd, ht.eq]
    dsimp only
    rw [hc]
  · intro s f p k x hd hcls hdst hrun hhere hopen hknown hkind hformed hslot hc
    have ht : Taken s f _ p k x := ⟨hcls, hdst, hrun, hhere, hopen, hknown, hkind, hformed, hslot⟩
    exact .finish (ht.receipt_stale hd hc) rfl
  · intro s f p k x c hd hcls hdst hrun hhere hopen hknown hkind hformed hslot hc
    have ht : Taken s f _ p k x := ⟨hcls, hdst, hrun, hhere, hopen, hknown, hkind, hformed, hslot⟩
    refine .finish (r := execCredit f p s) ?_ rfl
    rw [execCredit, State.inRim_of_ne hd, ht.eq]
    dsimp only
    rw [hc]
  · intro s f p k x hd hcls hdst hrun hhere hopen hknown hkind hformed hslot hc
    have ht : Taken s f _ p k x := ⟨hcls, hdst, hrun, hhere, hopen, hknown, hkind, hformed, hslot⟩
    exact .finish (ht.credit_stale hd hc) rfl
  · intro s f p k x c hd hcls hdst hrun hhere hopen hknown hkind hformed hslot hc
    have ht : Taken s f _ p k x := ⟨hcls, hdst, hrun, hhere, hopen, hknown, hkind, hformed, hslot⟩
    exact .finish (ht.abort_current hd hc) rfl
  · intro s f p k x hd hcls hdst hrun hhere hopen hknown hkind hformed hslot hc hahead
    have ht : Taken s f _ p k x := ⟨hcls, hdst, hrun, hhere, hopen, hknown, hkind, hformed, hslot⟩
    exact .finish ((ht.abort_other hd hc).trans (if_pos hahead)) rfl
  · intro s f p k x hd hcls hdst hrun hhere hopen hknown hkind hformed hslot hc hbehind
    have ht : Taken s f _ p k x := ⟨hcls, hdst, hrun, hhere, hopen, hknown, hkind, hformed, hslot⟩
    exact .finish ((ht.abort_other hd hc).trans (if_neg (Bool.eq_false_iff.mp hbehind))) rfl

end Sys2Proof.Machine

end


section
/-! The number formats, and what a cold reset leaves (R49 to R71, R77, R99, R160). -/

namespace Sys2Proof.Machine

set_option Elab.async false

open Sys2Proof

/-! ### TERN (R55, R56) -/

/-- The reserved code stands for 0 (R56). -/
theorem ternVal_reserved {c : Nat} (hc : c % 4 = 3) : ternVal c = 0 := by
  rw [ternVal, if_neg (by omega), if_neg (by omega)]

theorem decodeElem_tern_reserved {c : Nat} (hc : c % 4 = 3) :
    decodeElem fmtTERN c = (.fin false 0 0, clsTernReserved) := by
  change (Val.ofInt (ternVal c) 0, if c % 4 = 3 then clsTernReserved else clsNone) = _
  rw [ternVal_reserved hc, if_pos hc]
  rfl

/-- An integer has one of the codes 00, 01 and 10, by its sign (R55). -/
theorem encodeInt_tern_ne_reserved (i : Int) : encodeInt fmtTERN i ≠ 3 := by
  change (if i = 0 then 0 else if 0 < i then 1 else 2) ≠ 3
  split_ifs <;> decide

theorem convert_tern_ne_reserved (v : Val) (mode : Nat) (nonsat : Bool) (r : Nat) :
    (convert v fmtTERN mode nonsat r).1 ≠ 3 := by
  cases v with
  | nan => exact (by decide : (0 : Nat) ≠ 3)
  | inf s => exact encodeInt_tern_ne_reserved _
  | fin s m e => exact encodeInt_tern_ne_reserved _

/-! ### Elements of blocks (R60) -/

/-- A block whose scale code is a number scales each of its elements' values (R60). -/
theorem decodeBlockElem_value {F : Fmt} {c : Nat} (hc : c ≠ 0xFF) (shifts i code : Nat) :
    (decodeBlockElem F c shifts i code).1 = (decodeElem F.elem code).1.scale
      ((c : Int) - 127 - (if F.gfp then bits shifts (2 * (i / 8)) 2 else 0 : Nat)) := by
  rw [decodeBlockElem, if_neg hc]

theorem decodeBlockElem_gfp {F : Fmt} {c : Nat} (hc : c ≠ 0xFF) (hg : F.gfp = true) (shifts i code : Nat) :
    (decodeBlockElem F c shifts i code).1 =
      (decodeElem F.elem code).1.scale ((c : Int) - 127 - bits shifts (2 * (i / 8)) 2) := by
  rw [decodeBlockElem_value hc, if_pos hg]

theorem decodeBlockElem_mx {F : Fmt} {c : Nat} (hc : c ≠ 0xFF) (hg : F.gfp = false) (shifts i code : Nat) :
    (decodeBlockElem F c shifts i code).1 = (decodeElem F.elem code).1.scale ((c : Int) - 127) := by
  rw [decodeBlockElem_value hc, if_neg (Bool.eq_false_iff.mp hg), Int.natCast_zero, Int.sub_zero]

theorem decodeElem_mxint {E : ElemFmt} (hk : E.kind = .mxint) (code : Nat) :
    decodeElem E code = (Val.ofInt (toSigned 8 code) (-6), clsNone) := by
  rw [decodeElem, hk]

/-- Settles O6: TERN by the three codes an integer can have, block elements by the scale, less a sub-shift only in GFP4. -/
theorem numberFormatRules : Obligations.NumberFormatRules := by
  unfold Obligations.NumberFormatRules
  refine ⟨fun c => decodeElem_tern_reserved, fun v mode r nonsat => convert_tern_ne_reserved v mode nonsat r, ?_⟩
  intro sel c shifts i code F _ _ hlt
  have hc : c ≠ 0xFF := Nat.ne_of_lt hlt
  refine ⟨fun hg => decodeBlockElem_gfp hc hg shifts i code, fun hg _ => decodeBlockElem_mx hc hg shifts i code, ?_⟩
  intro hg hk
  rw [decodeBlockElem_mx hc hg, decodeElem_mxint hk]

/-! ### The parts of the reset state -/

@[simp] theorem SMap.get_nil {α : Type} (d : α) (j : Nat) : SMap.get [] d j = d := rfl

@[simp] theorem RegField.get_nil (k : RegField) (n i : Nat) : k.get [] n i = k.cold := rfl

@[simp] theorem State.reset_field (f : FieldId) : State.reset.field f = Field.reset f := by
  fin_cases f <;> rfl

@[simp] theorem State.reset_plot (f : FieldId) (p : PlotId) : State.reset.plot f p = Plot.reset := by
  rw [State.plot, State.reset_field]
  exact SMap.get_nil _ _

@[simp] theorem State.reset_memu (f : FieldId) : State.reset.memu f = FieldMem.reset := by
  rw [State.memu, State.reset_field]
  rfl

@[simp] theorem State.reset_gw (f : FieldId) : State.reset.gw f = GatewayUnit.reset := by
  rw [State.gw, State.reset_field]
  rfl

@[simp] theorem State.reset_store (f : FieldId) : State.reset.mem.store[f] = [] := by
  fin_cases f <;> rfl

@[simp] theorem State.reset_storeErr (f : FieldId) : State.reset.mem.storeErr[f] = [] := by
  fin_cases f <;> rfl

@[simp] theorem State.reset_bin (f : FieldId) : State.reset.mem.bin[f] = [] := by
  fin_cases f <;> rfl

/-! ### Registers read their Cold values -/

@[simp] theorem State.reset_hreg (k : RegField) (n i : Nat) : State.reset.hreg k n i = k.cold :=
  RegField.get_nil k n i

@[simp] theorem State.reset_freg (f : FieldId) (k : RegField) (n i : Nat) : State.reset.freg f k n i = k.cold := by
  rw [State.freg, State.reset_field]
  exact RegField.get_nil k n i

@[simp] theorem State.reset_preg (f : FieldId) (p : PlotId) (k : RegField) : State.reset.preg f p k = k.cold := by
  rw [State.preg, State.reset_plot]
  exact RegField.get_nil k 0 0

/-! ### Lists and memories -/

theorem State.reset_canonical : State.reset.canonical := by
  rw [State.canonical]
  decide

/-- Every list that a bound speaks of is empty. -/
theorem State.reset_bounded : State.reset.Bounded where
  lines f := by simp [State.linesWhole, FieldMem.reset]
  held f := by simp [FieldMem.reset]
  absorber f := by simp [FieldMem.reset]
  rows f := by simp [FieldMem.reset]
  mgmt f := by simp [Field.reset]
  atomics f := by simp [GatewayUnit.reset]
  flows f := by simp [GatewayUnit.reset]
  queue f p := by simp [Plot.reset]
  log f p := by simp [Plot.reset]
  samples f p := by simp [Plot.reset]

theorem State.reset_store_byte (f : FieldId) (b : Nat) : Mem.byte State.reset.mem.store[f] b = 0 := by
  rw [State.reset_store]
  exact SMap.get_nil 0 b

theorem State.reset_bin_word (f : FieldId) (b : Nat) : SMap.get State.reset.mem.bin[f] 0 b = 0 := by
  rw [State.reset_bin]
  exact SMap.get_nil 0 b

theorem State.reset_storeErr_word (f : FieldId) (b : Nat) : SMap.get State.reset.mem.storeErr[f] 0 b = 0 := by
  rw [State.reset_storeErr]
  exact SMap.get_nil 0 b

theorem State.reset_drill_held (f : FieldId) (p : PlotId) : (State.reset.plot f p).drill.st = .held := by
  rw [State.reset_plot]
  rfl

/-- Settles O4: no memory, list or register file of the reset state has an entry, so each reads as its default or Cold value. -/
theorem resetState : Obligations.ResetState := by
  unfold Obligations.ResetState
  refine ⟨⟨rfl, rfl, State.reset_canonical, State.reset_bounded⟩, ?memories, State.reset_drill_held, ?hub, ?rims, ?cold⟩
  case memories => exact fun f b => ⟨State.reset_store_byte f b, State.reset_bin_word f b, State.reset_storeErr_word f b⟩
  case hub => exact ⟨State.reset_hreg _ _ _, State.reset_hreg _ _ _, State.reset_hreg _ _ _⟩
  case rims =>
    exact fun f => ⟨State.reset_freg f _ _ _, State.reset_freg f _ _ _, State.reset_freg f _ _ _, State.reset_freg f _ _ _,
      State.reset_freg f _ _ _⟩
  case cold => exact fun k n i => ⟨State.reset_hreg k n i, fun f => ⟨State.reset_freg f k n i, fun p => State.reset_preg f p k⟩⟩

end Sys2Proof.Machine

end

section
/-! The frame of the tile-pass commands (O47). -/

namespace Sys2Proof.Machine

open Sys2Proof

/-- Settles O47: each command's own frame, with the field and the plot it names. -/
theorem tileFrame : Obligations.TileFrame := by
  unfold Obligations.TileFrame
  refine ⟨?_, ?_, ?_, ?_, ?_, ?_, ?_, ?_, ?_⟩
  · exact fun s f p => execTinePassStart_only f p s (by decide +kernel) rfl rfl (.refl _ _ _ s)
  · exact fun s f p => execWeightLoad_only f p s (by decide +kernel) rfl rfl (.refl _ _ _ s)
  · exact fun s f p => execTinePassRetire_only f p s (by decide +kernel) rfl rfl (.refl _ _ _ s)
  · exact fun s f p => execDegenerateRetire_only f p s (by decide +kernel) rfl rfl (.refl _ _ _ s)
  · exact fun s f p => execSampleProcess_only f p s (by decide +kernel) rfl rfl (.refl _ _ _ s)
  · exact fun s f p => execTscdrainStart_only f p s (by decide +kernel) rfl rfl (.refl _ _ _ s)
  · exact fun s f p => execTwaitEnd_only f p s (by decide +kernel) rfl rfl (.refl _ _ _ s)
  · intro s f plot t c b lane
    have hwrite : ∀ point, Ends _ (· = f) (fun _ => False) s (.next (s.injArithWrite f point plot t c b (b2n lane))) := fun point =>
      .next (State.injArithWrite_only s f point plot t c b (b2n lane) (Fits.refl _) rfl (.refl _ _ _ s))
    exact List.forall_mem_cons.mpr ⟨hwrite 1, List.forall_mem_cons.mpr ⟨hwrite 2, List.forall_mem_cons.mpr ⟨hwrite 3,
      List.forall_mem_cons.mpr ⟨hwrite 4, List.forall_mem_cons.mpr ⟨hwrite 5, List.forall_mem_singleton.mpr (hwrite 6)⟩⟩⟩⟩⟩
  · exact fun s f p => List.forall_mem_cons.mpr ⟨execTfenceStart_only f p s (by decide +kernel) rfl rfl (.refl _ _ _ s),
      List.forall_mem_singleton.mpr (execTscdrainComplete_only f p s (by decide +kernel) rfl rfl (.refl _ _ _ s))⟩

end Sys2Proof.Machine
end

section
/-! Plots on stopped clocks, and what their queues and line requests keep: the rules that the commands of the tines, of the vector unit
and of the transfer engine share (R196, R655). -/

namespace Sys2Proof.Machine

open Sys2Proof

variable {s t : State} {f : FieldId} {p : PlotId} {e y : QEntry} {l : List QEntry} {r : Result} {K : List Part} {F : FieldId → Prop}
  {P : PlotId → Prop}

/-! ### The plot clocks (R655) -/

theorem State.clocked_of_tripped (h : s.hub.pwr.trip = true) : s.clocked r = .next s := if_pos h

theorem State.clocked_of_live (h : s.hub.pwr.trip = false) : s.clocked r = r := if_neg (Bool.eq_false_iff.mp h)

/-- A unit that finds nothing to do leaves the state, whether its clock runs or not. -/
theorem State.clocked_idle (h : r = .next s) : s.clocked r = .next s := by
  rw [h, State.clocked, ite_self]

/-! ### Queues and line requests through a frame -/

/-- Every part of the state but one. -/
def allBut (k : Part) : List Part := allParts.filter (fun x => x ≠ k)

theorem Only.queue_same (h : Only K F P s t) (hK : Part.covered K .queue = false) (hfar : Part.covered K (.far .queue) = false) :
    (t.plot f p).queue = (s.plot f p).queue :=
  (h.plot .queue f p hfar (.inl hK)).1

theorem Only.xlines_same (h : Only K F P s t) (hK : Part.covered K .xlines = false) (hfar : Part.covered K (.far .xlines) = false) :
    (t.plot f p).xlines = (s.plot f p).xlines :=
  (h.plot .xlines f p hfar (.inl hK)).1

/-! ### Entries of a queue (R196) -/

theorem State.queue_updEntry (s : State) (f : FieldId) (p : PlotId) (q : Nat) (g : QEntry → QEntry) :
    ((s.updEntry f p q g).plot f p).queue = (s.plot f p).queue.map (fun x => if x.qsn = q then g x else x) := by
  rw [State.updEntry, State.plot_updPlot]

/-- An entry with the QSN stands changed in the queue. -/
theorem State.mem_updEntry {g : QEntry → QEntry} (he : e ∈ (s.plot f p).queue) : g e ∈ ((s.updEntry f p e.qsn g).plot f p).queue := by
  rw [State.queue_updEntry]
  exact List.mem_map.mpr ⟨e, he, if_pos rfl⟩

theorem State.queue_complete (s : State) (f : FieldId) (p : PlotId) (e : QEntry) (status seen : Nat) :
    ((s.complete f p e status seen).plot f p).queue = (s.plot f p).queue.filter (fun x => decide (x.qsn ≠ e.qsn)) := by
  rw [State.complete, (State.logCompletion_queue _ _ _ _ _ _ _ _ _).1, State.plot_updPlot]

theorem State.queue_injClassReport (s : State) (f : FieldId) (p : PlotId) (e : QEntry) :
    ((s.injClassReport f p e).1.plot f p).queue = (s.plot f p).queue :=
  (State.injClassReport_only (F := (· = f)) (P := (· = p)) s f p e (Fits.refl _) rfl rfl (.refl _ _ _ s)).queue_same (by decide) (by decide)

/-- The next entry of a unit stands in the queue, is of that unit, and comes with the entries before it. -/
theorem Plot.nextOf_some {X : Plot} {unit : Nat} {phases : List QPhase} (h : X.nextOf unit phases = some (e, l)) :
    e ∈ X.queue ∧ e.op.unit = unit ∧ l = entriesBefore X.queue e.qsn := by
  unfold Plot.nextOf at h
  split at h
  next x hx =>
    obtain ⟨rfl, rfl⟩ := Prod.mk.inj (Option.some.inj h)
    have hsel := List.find?_some hx
    simp only [Bool.and_eq_true, decide_eq_true_eq] at hsel
    exact ⟨List.mem_of_find?_eq_some hx, hsel.1, rfl⟩
  next => exact absurd h (by simp)

theorem QOp.tvec_of_unit {op : QOp} (h : op.unit = 1) : ∃ d md, op = .tvec d md := by
  cases op with
  | tvec d md => exact ⟨d, md, rfl⟩
  | _ => simp [QOp.unit] at h

theorem QOp.tmm_of_unit {op : QOp} (h : op.unit = 0) : ∃ d md, op = .tmm d md := by
  cases op with
  | tmm d md => exact ⟨d, md, rfl⟩
  | _ => simp [QOp.unit] at h

end Sys2Proof.Machine
end

section
/-! The vector instructions (R153, R162, R196, R213): the row of each VOP starts the oldest that has not, and completion frees its entry. -/

namespace Sys2Proof.Machine

open Sys2Proof

variable {s : State} {f : FieldId} {p : PlotId} {e : QEntry} {l : List QEntry} {d md vop : Nat}

/-- The rows of the vector unit, each with the VOP it names (R213). -/
def vectorRows (f : FieldId) (p : PlotId) : List (Instr × Nat) :=
  [(.tvecNop f p, 0x00), (.tvecAdd f p, 0x01), (.tvecSub f p, 0x02), (.tvecMul f p, 0x03), (.tvecFma f p, 0x04),
    (.tvecMin f p, 0x05), (.tvecMax f p, 0x06), (.tvecAbs f p, 0x07), (.tvecNeg f p, 0x08), (.tvecCmp f p, 0x09),
    (.tvecSelect f p, 0x0a), (.tvecExp2 f p, 0x10), (.tvecLog2 f p, 0x11), (.tvecRecip f p, 0x12), (.tvecRsqrt f p, 0x13),
    (.tvecIadd f p, 0x20)] ++
  [(.tvecIsub f p, 0x21), (.tvecImin f p, 0x22), (.tvecImax f p, 0x23), (.tvecAnd f p, 0x24), (.tvecOr f p, 0x25),
    (.tvecXor f p, 0x26), (.tvecSll f p, 0x27), (.tvecSra f p, 0x28), (.tvecSrl f p, 0x29), (.tvecIcmp f p, 0x2a),
    (.tvecCvt f p, 0x30), (.tvecBenc f p, 0x31), (.tvecBscale f p, 0x32), (.tvecBdec f p, 0x33), (.tvecAmax f p, 0x38),
    (.tvecSum f p, 0x39)]

theorem exec_vectorRow (s : State) (f : FieldId) (p : PlotId) : ∀ x ∈ vectorRows f p, exec x.1 s = s.tvecStart f p x.2 :=
  List.map_inj_left.mp rfl

/-! ### Starting -/

section Next

variable (ht : s.hub.pwr.trip = false) (hnext : (s.plot f p).nextOf 1 [.waiting] = some (e, l)) (hop : e.op = .tvec d md)
  (hsync : syncHeld l e.op = false) (hheld : (s.field f).held = false)

include ht hnext hop hsync hheld

/-- A vector instruction that no fence and no held partition stops waits for its claims, then for its segments, and else runs. -/
theorem State.tvecStart_of_next :
    s.tvecStart f p (tvVop d) =
      if (!e.claims.all (fun c => claimFree l c)) = true then .next (s.pwrap f p Reg.PLT_QUEUE_STALL.CLAIM)
      else if e.claims.any (fun c => claimBusySeg l c) = true then .next (s.pwrap f p Reg.PLT_TINE_STALL.BIN_WAIT)
      else finish (s.tvecRun f p e d md) := by
  have hgo : ¬ (decide (tvVop d ≠ tvVop d) || syncHeld l (.tvec d md) || (s.field f).held) = true := by
    simp [← hop, hsync, hheld]
  simp only [State.tvecStart, State.clocked_of_live ht, hnext, hop]
  exact if_neg (by simpa using hgo)

theorem State.tvecStart_runs (hfree : e.claims.all (fun c => claimFree l c) = true)
    (hseg : e.claims.any (fun c => claimBusySeg l c) = false) :
    s.tvecStart f p (tvVop d) = finish (s.tvecRun f p e d md) := by
  rw [State.tvecStart_of_next ht hnext hop hsync hheld, if_neg (by simp [hfree]), if_neg (Bool.eq_false_iff.mp hseg)]

/-- Claims not free are counted before segments kept busy (R97, R114, R155). -/
theorem State.tvecStart_waits
    (hwait : e.claims.all (fun c => claimFree l c) = false ∨ e.claims.any (fun c => claimBusySeg l c) = true) :
    s.tvecStart f p (tvVop d) = .next (s.pwrap f p
      (if e.claims.all (fun c => claimFree l c) = true then Reg.PLT_TINE_STALL.BIN_WAIT else Reg.PLT_QUEUE_STALL.CLAIM)) := by
  rw [State.tvecStart_of_next ht hnext hop hsync hheld]
  cases hfree : e.claims.all (fun c => claimFree l c) with
  | false => rfl
  | true =>
    have hbusy := hwait.resolve_left (by simp [hfree])
    rw [if_neg (by decide), if_pos hbusy, if_pos rfl]

end Next

theorem State.tvecStart_idle (h : (s.field f).held = true ∨ ((s.plot f p).nextOf 1 [.waiting]).all (fun y => syncHeld y.2 y.1.op ||
      (match y.1.op with | .tvec d _ => decide (tvVop d ≠ vop) | _ => false)) = true) :
    s.tvecStart f p vop = .next s := by
  refine State.clocked_idle ?_
  cases hnext : (s.plot f p).nextOf 1 [.waiting] with
  | none => rfl
  | some x =>
    obtain ⟨e, l⟩ := x
    obtain ⟨d, md, hop⟩ := QOp.tvec_of_unit (Plot.nextOf_some hnext).2.1
    simp only [hnext, hop, Option.all_some] at h ⊢
    refine if_pos ?_
    rcases h with h | h
    · rw [h, Bool.or_true]
    · simp only [Bool.or_eq_true, decide_eq_true_eq] at h ⊢
      exact .inl h.symm

/-! ### A run and its completion -/

theorem State.queue_tvecWork (s : State) (f : FieldId) (p : PlotId) (e : QEntry) (d md : Nat) :
    ((s.tvecWork f p e d md).1.plot f p).queue = (s.plot f p).queue :=
  (State.tvecWork_only (F := (· = f)) (P := (· = p)) s f p e d md (Fits.refl _) rfl rfl (.refl _ _ _ s)).queue_same (by decide) (by decide)

/-- An instruction that has run stands in the queue with its results written and its claims released (R153, R196). -/
theorem State.tvecRun_entry (d md : Nat) (he : e ∈ (s.plot f p).queue) :
    ∃ y ∈ ((s.tvecRun f p e d md).plot f p).queue, y.qsn = e.qsn ∧ y.phase = .done ∧ y.claims = [] :=
  ⟨_, State.mem_updEntry ((State.queue_tvecWork s f p e d md).symm ▸ he), rfl, rfl, rfl⟩

theorem execTvecComplete_of_done (ht : s.hub.pwr.trip = false)
    (h : (s.plot f p).queue.find? (fun e => decide (e.op.unit = 1) && decide (e.phase = .done)) = some e) :
    execTvecComplete f p s = finish ((s.injClassReport f p e).1.complete f p e (opStatus e.uncorrected e.binPoisoned e.modeNA)
      (s.injClassReport f p e).2) := by
  simp only [execTvecComplete, State.clocked_of_live ht, h]

theorem execTvecComplete_of_none (h : (s.plot f p).queue.find? (fun e => decide (e.op.unit = 1) && decide (e.phase = .done)) = none) :
    execTvecComplete f p s = .next s :=
  State.clocked_idle (by simp only [h])

/-- Settles O19: every row of the unit is `tvecStart` at its VOP, which runs, waits or finds nothing. -/
theorem vectorCommandsComplete : Obligations.VectorCommandsComplete := by
  unfold Obligations.VectorCommandsComplete
  refine ⟨?_, ?_, ?_, ?_, ?_, ?_⟩
  · intro s f p e l d md ht hnext hop hsync hheld hfree hseg x hx hvop
    have hrow := exec_vectorRow s f p x hx
    rw [← hvop, State.tvecStart_runs ht hnext hop hsync hheld hfree hseg] at hrow
    exact .finish hrow ⟨rfl, State.tvecRun_entry d md (Plot.nextOf_some hnext).1⟩
  · intro s f p e l d md ht hnext hop hsync hheld hwait x hx hvop
    have hrow := exec_vectorRow s f p x hx
    rw [← hvop, State.tvecStart_waits ht hnext hop hsync hheld hwait] at hrow
    exact .next hrow rfl
  · intro s f p x hx h
    exact .next ((exec_vectorRow s f p x hx).trans (State.tvecStart_idle h)) rfl
  · intro s f p e ht h
    refine .finish (execTvecComplete_of_done ht h) ?_
    rw [State.queue_complete, State.queue_injClassReport]
  · intro s f p h
    exact .next (execTvecComplete_of_none h) rfl
  · intro s f p ht
    change ∀ x ∈ (vectorRows f p).map Prod.fst ++ [.tvecComplete f p], _
    refine List.forall_mem_append.mpr ⟨List.forall_mem_map.mpr fun x hx => ?_, List.forall_mem_singleton.mpr ?_⟩
    · exact .next ((exec_vectorRow s f p x hx).trans (State.clocked_of_tripped ht)) rfl
    · exact .next (State.clocked_of_tripped ht) rfl

end Sys2Proof.Machine
end

section
/-! Transfers and their lines (R97, R114, R153, R155, R166 to R170, R233): what each command of the transfer engine leaves. -/

namespace Sys2Proof.Machine

open Sys2Proof

variable {s t : State} {f : FieldId} {p : PlotId} {e : QEntry} {before : List QEntry} {d q n : Nat} {x : XLine}

/-- The rows that start a transfer, each with its operation (R166). -/
def xferRows (f : FieldId) (p : PlotId) : List (Instr × Nat) :=
  [(.xferNop f p, 0), (.xferGet f p, 1), (.xferPut f p, 2), (.xferPutPartial f p, 3), (.xferPutReduce f p, 4), (.xferMcastPut f p, 5),
    (.xferFetchAdd f p, 6), (.xferCompareSwap f p, 7)]

theorem exec_xferRow (s : State) (f : FieldId) (p : PlotId) : ∀ x ∈ xferRows f p, exec x.1 s = s.xferStart f p x.2 :=
  List.map_inj_left.mp rfl

/-- Every row but the first moves lines. -/
theorem xferRows_tail_ne_zero (f : FieldId) (p : PlotId) : ∀ x ∈ (xferRows f p).tail, x.2 ≠ 0 :=
  (List.forall_mem_map (P := fun n => n ≠ 0)).mp (show ∀ n ∈ [1, 2, 3, 4, 5, 6, 7], n ≠ 0 by decide)

/-! ### Starting (R166, R167, R169) -/

section Next

variable (ht : s.hub.pwr.trip = false) (hnext : (s.plot f p).xferNext = some (e, d, before)) (hheld : (s.field f).held = false)

include ht hnext hheld

/-- A transfer that is ready waits for its claims, then for its segments, and else starts. -/
theorem State.xferStart_of_next : s.xferStart f p (xfOp d) =
    if (!e.claims.all (claimFree before)) = true then .next (s.pwrap f p Reg.PLT_QUEUE_STALL.CLAIM)
    else if e.claims.any (claimBusySeg before) = true then .next (s.pwrap f p Reg.PLT_TINE_STALL.BIN_WAIT)
    else if xfOp d = 0 then finish (s.complete f p e St.OK 0)
    else .next (s.updEntry f p e.qsn (fun x => { x with phase := .running })) := by
  simp only [State.xferStart, State.clocked_of_live ht, hnext]
  exact if_neg (by simp [hheld])

theorem State.xferStart_starts (hfree : e.claims.all (claimFree before) = true) (hseg : e.claims.any (claimBusySeg before) = false) :
    s.xferStart f p (xfOp d) = if xfOp d = 0 then finish (s.complete f p e St.OK 0)
      else .next (s.updEntry f p e.qsn (fun x => { x with phase := .running })) := by
  rw [State.xferStart_of_next ht hnext hheld, if_neg (by simp [hfree]), if_neg (Bool.eq_false_iff.mp hseg)]

/-- Claims not free are counted before segments kept busy (R97, R114, R155). -/
theorem State.xferStart_waits (hwait : e.claims.all (claimFree before) = false ∨ e.claims.any (claimBusySeg before) = true) :
    s.xferStart f p (xfOp d) = .next (s.pwrap f p
      (if e.claims.all (claimFree before) = true then Reg.PLT_TINE_STALL.BIN_WAIT else Reg.PLT_QUEUE_STALL.CLAIM)) := by
  rw [State.xferStart_of_next ht hnext hheld]
  cases hfree : e.claims.all (claimFree before) with
  | false => rfl
  | true =>
    have hbusy := hwait.resolve_left (by simp [hfree])
    rw [if_neg (by decide), if_pos hbusy, if_pos rfl]

end Next

theorem State.xferStart_idle {op : Nat}
    (h : (s.field f).held = true ∨ (s.plot f p).xferNext.all (fun y => decide (xfOp y.2.1 ≠ op)) = true) :
    s.xferStart f p op = .next s := by
  refine State.clocked_idle ?_
  cases hnext : (s.plot f p).xferNext with
  | none => rfl
  | some y =>
    rw [hnext, Option.all_some, decide_eq_true_eq] at h
    exact if_pos h.symm

/-! ### Lines issued (R169) -/

/-- The transfer whose turn it is stands in the queue. -/
theorem Plot.mem_of_xferTurn {X : Plot} (h : X.xferTurn = some (e, d)) : e ∈ X.queue := by
  have hmem : ∀ y, X.xferTurn = some y → y ∈ X.xferIssuing := by
    unfold Plot.xferTurn
    refine List.foldlRecOn (motive := fun o => ∀ y, o = some y → y ∈ X.xferIssuing) _ _ (fun y hy => nomatch hy)
      (fun best ih a ha y hy => ?_)
    split at hy
    · exact Option.some.inj hy ▸ ha
    · split at hy
      · exact Option.some.inj hy ▸ ha
      · exact ih y hy
  obtain ⟨a, ha, hsome⟩ := List.mem_filterMap.mp (hmem _ h)
  split at hsome
  · split at hsome
    · exact (Prod.mk.inj (Option.some.inj hsome)).1 ▸ ha
    · simp at hsome
  · simp at hsome

/-- The line that stands for line k of a transfer, less what it carries. -/
def XLine.place (x : XLine) : Nat × Nat × Nat × Nat × Nat := (x.qsn, x.line, x.op, x.dst, x.addr)

/-- What the issue of a transfer's next line reads: the local line of a put, and nothing else (R158, R169). -/
def State.lineSource (s : State) (f : FieldId) (p : PlotId) (e : QEntry) (d : Nat) : State × List Byte × Bool × Nat :=
  if xfReadsLocal (xfOp d) then s.localReadLine f p (xfLineLocal d e.issued) else (s, [], false, 0)

theorem State.lineSource_plot (s : State) (f : FieldId) (p : PlotId) (e : QEntry) (d : Nat) :
    ((s.lineSource f p e d).1.plot f p).queue = (s.plot f p).queue ∧
    ((s.lineSource f p e d).1.plot f p).xlines = (s.plot f p).xlines := by
  have hread : Only _ (· = f) (· = p) s (s.localReadLine f p (xfLineLocal d e.issued)).1 :=
    State.localReadLine_only s f p _ (Fits.refl _) rfl rfl (.refl _ _ _ s)
  unfold State.lineSource
  split
  · exact ⟨hread.queue_same (by decide) (by decide), hread.xlines_same (by decide) (by decide)⟩
  · exact ⟨rfl, rfl⟩

/-- Issue adds the line to those under way, and counts it in the entry. -/
theorem State.xferIssue_shape (s : State) (f : FieldId) (p : PlotId) (e : QEntry) (d : Nat) :
    ∃ (x : XLine) (g : QEntry → QEntry) (k : Nat),
      s.xferIssue f p e d = (((s.lineSource f p e d).1.updPlot f p (fun P => { P with xlines := P.xlines ++ [x], xlast := e.qsn })).updEntry
        f p e.qsn g).classReport f p none clsNaNIn k ∧
      x.place = (e.qsn, e.issued, xfOp d, xfNode d, xfLineRemote d e.issued) ∧ (g e).qsn = e.qsn ∧ (g e).issued = e.issued + 1 :=
  ⟨_, _, _, rfl, rfl, rfl, rfl⟩

theorem State.classReport_plot (s : State) (f : FieldId) (p : PlotId) (tag : Option Nat) (c k : Nat) (inj : Bool) :
    ((s.classReport f p tag c k inj).plot f p).queue = (s.plot f p).queue ∧
    ((s.classReport f p tag c k inj).plot f p).xlines = (s.plot f p).xlines := by
  have h : Only _ (· = f) (· = p) s (s.classReport f p tag c k inj) :=
    State.classReport_only s f p tag c k inj (Fits.refl _) rfl rfl (.refl _ _ _ s)
  exact ⟨h.queue_same (by decide) (by decide), h.xlines_same (by decide) (by decide)⟩

theorem State.xlines_updEntry (s : State) (f : FieldId) (p : PlotId) (q : Nat) (g : QEntry → QEntry) :
    ((s.updEntry f p q g).plot f p).xlines = (s.plot f p).xlines := by
  rw [State.updEntry, State.plot_updPlot]

/-- A transfer's next line is under way, after those that were, and its entry counts it. -/
theorem State.xferIssue_effect (s : State) (f : FieldId) (p : PlotId) (d : Nat) (he : e ∈ (s.plot f p).queue) :
    (∃ x, ((s.xferIssue f p e d).plot f p).xlines = (s.plot f p).xlines ++ [x] ∧
      x.place = (e.qsn, e.issued, xfOp d, xfNode d, xfLineRemote d e.issued)) ∧
    ∃ y ∈ ((s.xferIssue f p e d).plot f p).queue, y.qsn = e.qsn ∧ y.issued = e.issued + 1 := by
  obtain ⟨x, g, k, heq, hplace, hqsn, hissued⟩ := s.xferIssue_shape f p e d
  rw [heq, (State.classReport_plot _ _ _ _ _ _ _).1, (State.classReport_plot _ _ _ _ _ _ _).2]
  refine ⟨⟨x, ?_, hplace⟩, g e, State.mem_updEntry ?_, hqsn, hissued⟩
  · rw [State.xlines_updEntry, State.plot_updPlot, (s.lineSource_plot f p e d).2]
  · rw [State.plot_updPlot, (s.lineSource_plot f p e d).1]
    exact he

theorem execXferLineIssue_issues (ht : s.hub.pwr.trip = false) (hd : s.svc f ≠ svcDark) (hroom : (s.plot f p).xferOutstanding < xferLimit)
    (hturn : (s.plot f p).xferTurn = some (e, d)) : execXferLineIssue f p s = finish (s.xferIssue f p e d) := by
  simp only [execXferLineIssue, State.inRim_of_ne hd, State.clocked_of_live ht, hturn]
  exact if_neg (Nat.not_le.mpr hroom)

theorem execXferLineIssue_idle (h : s.svc f = svcDark ∨ xferLimit ≤ (s.plot f p).xferOutstanding ∨ (s.plot f p).xferTurn = none) :
    execXferLineIssue f p s = .next s := by
  rcases h with hdark | hlimit | hnone
  · exact State.inRim_of_dark hdark
  · exact State.inRim_idle (State.clocked_idle (if_pos hlimit))
  · refine State.inRim_idle (State.clocked_idle ?_)
    simp only [hnone, ite_self]

/-! ### Lines over the mesh (R170, R233, R655) -/

/-- Once a line is off the list, its reads, writes and end leave the lines under way as they are. -/
theorem State.xlineOwnDone_allBut_xlines (s : State) (f : FieldId) (p : PlotId) (x : XLine) :
    Only (allBut .xlines) (fun _ => True) (fun _ => True) (s.updPlot f p (fun P => { P with xlines := P.xlines.erase x }))
      (s.xlineOwnDone f p x) := by
  have hread := State.targetRead_only (s.updPlot f p (fun P => { P with xlines := P.xlines.erase x })) f x.addr srcXfer (K := allBut .xlines)
    (F := fun _ => True) (P := fun _ => True) (by decide +kernel) trivial (fun _ => trivial) (.refl _ _ _ _)
  unfold State.xlineOwnDone
  refine .ite (.ite ?_ ?_) ?_
  · exact State.xlineEnd_only _ f p x _ (by decide +kernel) trivial trivial
      (State.localWriteLine_only _ f p _ _ _ (by decide +kernel) trivial trivial hread)
  · exact State.xlineEnd_only _ f p x _ (by decide +kernel) trivial trivial hread
  · exact State.xlineEnd_only _ f p x _ (by decide +kernel) trivial trivial
      (State.targetWrite_only _ f _ _ _ _ _ (by decide +kernel) trivial (fun _ => trivial) (.refl _ _ _ _))

/-- A line performed leaves the lines under way; what it reads and writes adds none. -/
theorem State.xlines_xlineOwnDone (s : State) (f : FieldId) (p : PlotId) (x : XLine) :
    ((s.xlineOwnDone f p x).plot f p).xlines = (s.plot f p).xlines.erase x := by
  rw [(s.xlineOwnDone_allBut_xlines f p x).xlines_same (by decide +kernel) (by decide +kernel), State.plot_updPlot]

/-- The line of a transfer that XFER_LINE_DONE names. -/
abbrev Plot.xlineAt (X : Plot) (q n : Nat) : Option XLine := X.xlines.find? (fun x => decide (x.qsn = q) && decide (x.line = n))

/-- No earlier line of the engine to the same line of the own field is under way (R233). -/
abbrev State.xlineFirst (s : State) (f : FieldId) (p : PlotId) (x : XLine) : Prop :=
  (((s.plot f p).xlines.takeWhile (fun y => decide (y ≠ x))).any (fun y => s.xlineOwn f y && decide (y.addr / 128 = x.addr / 128))) = false

theorem execXferLineDone_performs (ht : x.op = 1 → s.hub.pwr.trip = false) (hd : s.svc f ≠ svcDark)
    (hx : (s.plot f p).xlineAt q n = some x) (hown : s.xlineOwn f x = true) (hfirst : s.xlineFirst f p x) :
    execXferLineDone f p q n s = finish (s.xlineOwnDone f p x) := by
  have hlive : ¬ (s.hub.pwr.trip && decide (x.op = 1)) = true := by
    rw [Bool.and_eq_true, decide_eq_true_eq]
    exact fun h => Bool.eq_false_iff.mp (ht h.2) h.1
  simp only [execXferLineDone, State.inRim_of_ne hd, hx]
  rw [if_neg hlive]
  exact if_pos (by rw [hown, hfirst]; rfl)

theorem execXferLineDone_none (h : s.svc f = svcDark ∨ (s.plot f p).xlineAt q n = none) : execXferLineDone f p q n s = .next s := by
  rcases h with hdark | hnone
  · exact State.inRim_of_dark hdark
  · exact State.inRim_idle (by simp only [hnone])

/-- A line to the gateway, or behind another to its line, is not the mesh's to perform. -/
theorem execXferLineDone_held (hx : (s.plot f p).xlineAt q n = some x) (h : s.xlineOwn f x = false ∨ ¬ s.xlineFirst f p x) :
    execXferLineDone f p q n s = .next s := by
  refine State.inRim_idle ?_
  have hno : ¬ (s.xlineOwn f x && !((s.plot f p).xlines.takeWhile (fun y => decide (y ≠ x))).any (fun y => s.xlineOwn f y &&
      decide (y.addr / 128 = x.addr / 128))) = true := by
    rw [Bool.and_eq_true, Bool.not_eq_true']
    rintro ⟨hown, hfirst⟩
    exact h.elim (fun hno => Bool.eq_false_iff.mp hno hown) (fun hno => hno hfirst)
  simp only [hx]
  rw [if_neg hno, ite_self]

/-! ### Descriptors completed (R170) -/

/-- The entry in progress that XFER_DESCRIPTOR_COMPLETE names. -/
abbrev Plot.runningAt (X : Plot) (q : Nat) : Option QEntry :=
  X.queue.find? (fun e => decide (e.qsn = q) && decide (e.phase = .running))

theorem execXferDescriptorComplete_completes (ht : s.hub.pwr.trip = false) (he : (s.plot f p).runningAt q = some e)
    (hop : e.op = .txfer d) (hissued : e.issued = xfLines d) (hanswered : e.outstanding = []) :
    execXferDescriptorComplete f p q s = finish (s.complete f p e (xferStatus e.fails) e.classSeen) := by
  simp only [execXferDescriptorComplete, State.clocked_of_live ht, he, hop]
  exact if_pos ⟨hissued, hanswered⟩

theorem execXferDescriptorComplete_none (he : (s.plot f p).runningAt q = none) : execXferDescriptorComplete f p q s = .next s :=
  State.clocked_idle (by simp only [he])

theorem execXferDescriptorComplete_waits (he : (s.plot f p).runningAt q = some e) (hop : e.op = .txfer d)
    (h : e.issued ≠ xfLines d ∨ e.outstanding ≠ []) : execXferDescriptorComplete f p q s = .next s := by
  refine State.clocked_idle ?_
  simp only [he, hop]
  exact if_neg (not_and_or.mpr h)

/-- Settles O16: each row that starts a transfer is `xferStart` at its operation; then lines, by their issue and their end. -/
theorem transferCommandsComplete : Obligations.TransferCommandsComplete := by
  unfold Obligations.TransferCommandsComplete
  refine ⟨?_, ?_, ?_, ?_, ?_, ?_, ?_, ?_, ?_, ?_, ?_, ?_, ?_⟩
  · intro s f p e d before ht hnext hheld hfree hseg hop
    have hstart := State.xferStart_starts ht hnext hheld hfree hseg
    rw [if_pos hop, hop] at hstart
    exact .finish hstart ⟨rfl, State.queue_complete _ _ _ _ _ _⟩
  · intro s f p e d before ht hnext hheld hfree hseg x hx hop
    have hstart := State.xferStart_starts ht hnext hheld hfree hseg
    rw [if_neg (hop ▸ xferRows_tail_ne_zero f p x hx), hop] at hstart
    exact .next ((exec_xferRow s f p x (List.mem_cons_of_mem _ hx)).trans hstart) (State.queue_updEntry _ _ _ _ _)
  · intro s f p e d before ht hnext hheld hwait x hx hop
    have hstart := State.xferStart_waits ht hnext hheld hwait
    rw [hop] at hstart
    exact .next ((exec_xferRow s f p x hx).trans hstart) rfl
  · intro s f p x hx h
    exact .next ((exec_xferRow s f p x hx).trans (State.xferStart_idle h)) rfl
  · intro s f p e d ht hd hroom hturn
    refine .finish (execXferLineIssue_issues ht hd hroom hturn) ?_
    obtain ⟨⟨x, hlines, hplace⟩, hentry⟩ := State.xferIssue_effect s f p d (Plot.mem_of_xferTurn hturn)
    refine ⟨?_, ?_, hentry⟩
    · rw [hlines, List.dropLast_concat]
    · rw [hlines, List.getLast?_concat]
      exact congrArg some hplace
  · intro s f p h
    exact .next (execXferLineIssue_idle h) rfl
  · intro s f p q n x ht hd hx hown hfirst
    exact .finish (execXferLineDone_performs ht hd hx hown hfirst) ⟨rfl, State.xlines_xlineOwnDone s f p x⟩
  · intro s f p q n h
    exact .next (execXferLineDone_none h) rfl
  · intro s f p q n x _ hx h
    exact .next (execXferLineDone_held hx (h.imp_right (fun hbusy => Bool.eq_false_iff.not.mpr (not_not_intro hbusy)))) rfl
  · intro s f p q e d ht he hop hissued hanswered
    exact .finish (execXferDescriptorComplete_completes ht he hop hissued hanswered) ⟨rfl, State.queue_complete _ _ _ _ _ _⟩
  · intro s f p q he
    exact .next (execXferDescriptorComplete_none he) rfl
  · intro s f p q e d he hop h
    exact .next (execXferDescriptorComplete_waits he hop h) rfl
  · intro s f p q ht
    have hline : execXferLineIssue f p s = .next s := State.inRim_idle (State.clocked_of_tripped ht)
    change ∀ x ∈ (xferRows f p).map Prod.fst ++ [.xferLineIssue f p, .xferDescriptorComplete f p q], _
    refine List.forall_mem_append.mpr ⟨List.forall_mem_map.mpr fun x hx => ?_, List.forall_mem_cons.mpr ⟨?_, List.forall_mem_singleton.mpr ?_⟩⟩
    · exact .next ((exec_xferRow s f p x hx).trans (State.clocked_of_tripped ht)) rfl
    · exact .next hline rfl
    · exact .next (State.clocked_of_tripped ht) rfl

end Sys2Proof.Machine
end

section
/-! Passes that enter, and the waits before them (R96, R97, R103 to R105, R112, R153, R634, R673, R692); ballast rows (R111). -/

namespace Sys2Proof.Machine

open Sys2Proof

variable {s : State} {f : FieldId} {p : PlotId} {e : QEntry} {d md : Nat}

/-! ### What a pass waits for -/

/-- A pass that is ready stands in the queue. -/
theorem State.mem_of_passGate_ready (h : s.passGate f p = .ready e d md) : e ∈ (s.plot f p).queue := by
  unfold State.passGate at h
  cases hnext : (s.plot f p).nextTmm with
  | none => simp only [hnext, reduceCtorEq] at h
  | some x =>
    obtain ⟨e', before⟩ := x
    obtain ⟨hmem, hunit, -⟩ := Plot.nextOf_some hnext
    obtain ⟨d', md', hop⟩ := QOp.tmm_of_unit hunit
    simp only [hnext, hop] at h
    split_ifs at h
    obtain ⟨rfl, -, -⟩ := PassGate.ready.inj h
    exact hmem

/-! ### The rows of a pass (R86 to R94) -/

/-- What the rows of a pass can change besides the count of rows, the tines' busy cycles and the pass's entry. -/
def rowParts : List Part :=
  [.events, .bin, .storeErr, .binErr, .reg Reg.INJ_ARITH.ARM, .reg Reg.INJ_ARITH.DONE, .reg Reg.INJ_PT.ARM, .reg Reg.INJ_PT.DONE, .tine,
    .samples, .plotReg Reg.PLT_CLASS_HI.TERN_RESERVED, .plotReg Reg.PLT_CLASS_HI.UNDERFLOW, .plotReg Reg.PLT_CLASS_LO.INF_IN,
    .plotReg Reg.PLT_CLASS_LO.NAN_IN, .plotReg Reg.PLT_CLASS_LO.SAT_BLOCK, .plotReg Reg.PLT_CLASS_LO.SAT_RANGE] ++
  [.plotReg Reg.PLT_STORE_ECC.CORRECTED, .plotReg Reg.PLT_STORE_ECC.LAST_ADDR, .plotReg Reg.PLT_STORE_ECC.UNCORRECTED,
    .plotReg Reg.PLT_WITNESS_LOG.BIN_ROW, .plotReg Reg.PLT_WITNESS_LOG.BOUNDED, .plotReg Reg.PLT_WITNESS_LOG.COUNT,
    .plotReg Reg.PLT_WITNESS_LOG.INJECTED, .plotReg Reg.PLT_WITNESS_LOG.LAYER_TAG, .plotReg Reg.PLT_WITNESS_LOG.SKIPPED,
    .plotReg Reg.PLT_WITNESS_LOG.TINE, .plotReg Reg.PLT_WITNESS_LOG.VALID, .plotReg Reg.PLT_WITNESS_PASS.PASS, .drift, .counts, .health]

/-- The formats and class that a tile operation runs with. -/
abbrev State.passPair (s : State) (f : FieldId) (p : PlotId) (d : Nat) : Option (Fmt × Nat × Fmt × PassClass) :=
  tmmPair (if tmmFresh d then none else (s.plot f p).tine.active.map (fun w => (w.sel, some w.cls))) d

/-- A change of the tines is a change of that part of a plot. -/
theorem tine_only {K : List Part} (hK : Fits [.tine] K) (X : Plot) (T : TineUnit) : PlotOnly K X { X with tine := T } := by
  refine PlotOnly.keep rfl (fun k hk => ?_)
  cases k with
  | tine => exact (Fits.not hK hk rfl).elim
  | _ => simp [Part.samePlot]

/-- A pass of a pair that is not refused runs its rows, counts them, and leaves its entry in flight with no claim (R97, R104). -/
theorem State.passRun_shape (h : (s.passPair f p d).isSome = true) : ∃ (t : State) (g : TineUnit → TineUnit) (k : QEntry → QEntry),
    s.passRun f p e d md = ((t.pwrap f p Reg.PLT_TINE_COUNT.ROWS (tmmM d)).updPlot f p (fun P => { P with tine := g P.tine })).updEntry
      f p e.qsn k ∧
    Only rowParts (· = f) (· = p) s t ∧ (k e).qsn = e.qsn ∧ (k e).phase = .running ∧ (k e).claims = [] := by
  unfold State.passRun
  simp only
  split
  next hnone => rw [State.passPair, hnone] at h; exact absurd h (by decide)
  next =>
    refine ⟨_, fun T => { T with busy := T.busy + (tmmM d + 3) / 4 }, _, rfl, ?_, rfl, rfl, rfl⟩
    refine State.classReports_only _ f p _ _ _ (by decide +kernel) rfl rfl (State.classReports_only _ f p _ _ _ (by decide +kernel) rfl rfl
      (foldl_passRowStep_only _ _ _ (by decide +kernel) rfl rfl ?_))
    have hlane : ∀ c : Prop, [Decidable c] → Only rowParts (· = f) (· = p) s (if c then s.injArithFire f else s) := fun c _ =>
      .ite (State.injArithFire_only s f (by decide +kernel) rfl (.refl _ _ _ s)) (.refl _ _ _ s)
    exact .ite (State.updPlot_only f p _ (fun X => tine_only (K := rowParts) (by decide +kernel) X _) rfl rfl (hlane _)) (hlane _)

/-- Once a row has entered, the tines hold no stop token; all else of the plot is as it was. -/
theorem State.plot_rowEntered (s : State) (f : FieldId) (p : PlotId) :
    (s.rowEntered f p).plot f p = { s.plot f p with tine := { (s.plot f p).tine with stopTok := false } } := by
  unfold State.rowEntered
  rw [State.plot_updField_same, State.plot_updPlot]
  exact fun _ => rfl

theorem State.preg_updEntry (s : State) (f : FieldId) (p : PlotId) (q : Nat) (g : QEntry → QEntry) (k : RegField) :
    (s.updEntry f p q g).preg f p k = s.preg f p k :=
  State.preg_updPlot_same _ _ _ _ _ _ _ (fun _ => rfl)

theorem State.preg_updTine (s : State) (f : FieldId) (p : PlotId) (g : TineUnit → TineUnit) (k : RegField) :
    (s.updPlot f p (fun P => { P with tine := g P.tine })).preg f p k = s.preg f p k :=
  State.preg_updPlot_same _ _ _ _ _ _ _ (fun _ => rfl)

/-- A pass that enters: its entry is in flight and holds no claim, and ROWS counts its rows. -/
theorem State.pass_enters (md : Nat) (he : e ∈ (s.plot f p).queue) (hpair : (s.passPair f p d).isSome = true) :
    (∃ y ∈ ((((s.rowEntered f p).passRun f p e d md).plot f p).queue), y.qsn = e.qsn ∧ y.phase = .running ∧ y.claims = []) ∧
    ((s.rowEntered f p).passRun f p e d md).preg f p Reg.PLT_TINE_COUNT.ROWS =
      (s.preg f p Reg.PLT_TINE_COUNT.ROWS + tmmM d) % 2 ^ 32 := by
  have hplot := s.plot_rowEntered f p
  obtain ⟨t, g, k, heq, hframe, hqsn, hphase, hclaims⟩ := State.passRun_shape (s := s.rowEntered f p) (e := e) (md := md)
    (show ((s.rowEntered f p).passPair f p d).isSome = true by rw [State.passPair, hplot]; exact hpair)
  rw [heq]
  refine ⟨⟨k e, State.mem_updEntry ?_, hqsn, hphase, hclaims⟩, ?_⟩
  · rw [State.plot_updPlot, State.pwrap, State.plot_pset, Plot.setReg_queue, hframe.queue_same (by decide +kernel) (by decide +kernel), hplot]
    exact he
  · rw [State.preg_updEntry, State.preg_updTine, State.preg_pwrap, hframe.preg _ (by decide +kernel), State.preg, hplot]
    rfl

/-! ### TINE_PASS_START -/

theorem execTinePassStart_enters (ht : s.hub.pwr.trip = false) (h : s.passGate f p = .ready e d md)
    (hawake : (s.plot f p).tine.dormant = false) (hstop : s.stopWaits f p = false) :
    execTinePassStart f p s = finish ((s.rowEntered f p).passRun f p e d md) := by
  simp only [execTinePassStart, State.clocked_of_live ht, h]
  rw [if_neg (Bool.eq_false_iff.mp hawake), if_neg (Bool.eq_false_iff.mp hstop)]

theorem execTinePassStart_dormant (ht : s.hub.pwr.trip = false) (h : s.passGate f p = .ready e d md)
    (hdormant : (s.plot f p).tine.dormant = true) :
    execTinePassStart f p s = .next ((s.pwrap f p Reg.PLT_TINE_STALL.LOAD_STALL).tokenAsk f p true) := by
  simp only [execTinePassStart, State.clocked_of_live ht, h]
  exact if_pos hdormant

theorem execTinePassStart_stopped (h : s.passGate f p = .ready e d md) (hawake : (s.plot f p).tine.dormant = false)
    (hstop : s.stopWaits f p = true) : execTinePassStart f p s = .next s := by
  refine State.clocked_idle ?_
  simp only [h]
  rw [if_neg (Bool.eq_false_iff.mp hawake), if_pos hstop]

theorem execTinePassStart_claim (ht : s.hub.pwr.trip = false) (h : s.passGate f p = .claim) :
    execTinePassStart f p s = .next (s.pwrap f p Reg.PLT_QUEUE_STALL.CLAIM) := by
  rw [execTinePassStart, State.clocked_of_live ht, h]

theorem execTinePassStart_load {bin : Bool} (ht : s.hub.pwr.trip = false) (h : s.passGate f p = .load bin) :
    execTinePassStart f p s = .next (if bin then (s.pwrap f p Reg.PLT_TINE_STALL.LOAD_STALL).pwrap f p Reg.PLT_TINE_STALL.BIN_WAIT
      else s.pwrap f p Reg.PLT_TINE_STALL.LOAD_STALL) := by
  rw [execTinePassStart, State.clocked_of_live ht, h]

theorem execTinePassStart_bin (ht : s.hub.pwr.trip = false) (h : s.passGate f p = .bin) :
    execTinePassStart f p s = .next (s.pwrap f p Reg.PLT_TINE_STALL.BIN_WAIT) := by
  rw [execTinePassStart, State.clocked_of_live ht, h]

theorem execTinePassStart_idle (h : s.passGate f p = .idle) : execTinePassStart f p s = .next s :=
  State.clocked_idle (by rw [h])

theorem State.preg_tokenAsk (s : State) (f : FieldId) (p : PlotId) (start : Bool) (k : RegField) (hk : spares [.thermal] .anyPlotReg k = true) :
    (s.tokenAsk f p start).preg f p k = s.preg f p k :=
  (State.tokenAsk_only (F := (· = f)) (P := (· = p)) s f p start (Fits.refl _) rfl (.refl _ _ _ s)).preg k hk f p

/-! ### BALLAST_ROW (R111, R634, R673) -/

/-- Whether the next pass waits for nothing. -/
def PassGate.isReady : PassGate → Bool
  | .ready _ _ _ => true
  | _ => false

theorem execBallastRow_eq (s : State) (f : FieldId) (p : PlotId) (t : TineId) : execBallastRow f p t s =
    if ((s.passGate f p).isReady && !s.stopWaits f p || !s.ballastOk f p || !s.partitionUp f) = true then .next s
    else if (s.plot f p).tine.dormant = true then .next (s.tokenAsk f p true)
    else .next (s.updPlot f p (fun P => { P with tine := { P.tine with ballast := P.tine.ballast + 1 } })) := rfl

theorem execBallastRow_enters {t : TineId} (h : (s.passGate f p).isReady = false ∨ s.stopWaits f p = true) (hok : s.ballastOk f p = true)
    (hup : s.partitionUp f = true) : execBallastRow f p t s =
      if (s.plot f p).tine.dormant = true then .next (s.tokenAsk f p true)
      else .next (s.updPlot f p (fun P => { P with tine := { P.tine with ballast := P.tine.ballast + 1 } })) := by
  rw [execBallastRow_eq]
  refine if_neg ?_
  rcases h with h | h <;> simp [h, hok, hup]

theorem execBallastRow_idle {t : TineId} (h : ((s.passGate f p).isReady = true ∧ s.stopWaits f p = false) ∨ s.ballastOk f p = false ∨
    s.partitionUp f = false) : execBallastRow f p t s = .next s := by
  rw [execBallastRow_eq]
  refine if_pos ?_
  rcases h with ⟨hready, hstop⟩ | h | h
  · simp [hready, hstop]
  · simp [h]
  · simp [h]

/-- The waits are the gates that are not ready. -/
theorem PassGate.isReady_of_mem {g : PassGate} (h : g ∈ [PassGate.idle, .claim, .load false, .load true, .bin]) : g.isReady = false :=
  (show ∀ g ∈ [PassGate.idle, .claim, .load false, .load true, .bin], g.isReady = false by decide) g h

end Sys2Proof.Machine
end

section
/-! Weights that enter the shadow registers (R100, R103), and tile operations that retire (R96, R104, R107). -/

namespace Sys2Proof.Machine

open Sys2Proof

variable {s t u : State} {f : FieldId} {p : PlotId} {e : QEntry} {d md : Nat}

/-! ### WEIGHT_LOAD -/

/-- What a load can change before its entry is marked: reads of the plot store, an injection that fires, class reports. -/
def loadParts : List Part :=
  [.events, .storeErr, .reg Reg.INJ_ARITH.ARM, .reg Reg.INJ_ARITH.DONE, .reg Reg.INJ_PT.ARM, .reg Reg.INJ_PT.DONE,
    .plotReg Reg.PLT_CLASS_HI.TERN_RESERVED, .plotReg Reg.PLT_CLASS_HI.UNDERFLOW, .plotReg Reg.PLT_CLASS_LO.INF_IN,
    .plotReg Reg.PLT_CLASS_LO.NAN_IN, .plotReg Reg.PLT_CLASS_LO.SAT_BLOCK, .plotReg Reg.PLT_CLASS_LO.SAT_RANGE,
    .plotReg Reg.PLT_STORE_ECC.CORRECTED, .plotReg Reg.PLT_STORE_ECC.LAST_ADDR, .plotReg Reg.PLT_STORE_ECC.UNCORRECTED, .drift, .health]

/-- With no load before it a pass takes its own weight format (R719). -/
theorem tmmPair_none_sel {a w : Fmt} {sel : Nat} {c : PassClass} (h : tmmPair none d = some (a, sel, w, c)) :
    sel = dfield d 29 1 % 32 := by
  unfold tmmPair at h
  simp only [Option.map_none, Option.getD_none, ite_self] at h
  split at h
  · split at h
    · exact absurd h (by simp)
    · split at h <;> simp_all
  · exact absurd h (by simp)

/-- The entry of the next load stands in the queue. -/
theorem Plot.mem_of_nextLoad {X : Plot} (h : X.nextLoad = some e) : e ∈ X.queue := List.mem_of_find?_eq_some h

section Load

variable (ht : s.hub.pwr.trip = false) (hload : (s.plot f p).nextLoad = some e) (hop : e.op = .tmm d md)
  (hshadow : (s.plot f p).tine.shadow = none) (hsync : syncHeld (entriesBefore (s.plot f p).queue e.qsn) e.op = false)
  (hheld : (s.field f).held = false)

include ht hload hop hshadow hsync hheld

/-- A load whose claims are free: columns are read, and the shadow registers take weights of the pass's own size and format. -/
theorem execWeightLoad_loads (hfree : claimsFree (entriesBefore (s.plot f p).queue e.qsn) e = true) (hpair : (tmmPair none d).isSome = true) :
    ∃ (t : State) (w : WLoad) (k : QEntry → QEntry),
      execWeightLoad f p s = finish ((t.updEntry f p e.qsn k).updPlot f p
        (fun P => { P with tine := { P.tine with shadow := some w, shadowFor := e.qsn } })) ∧
      Only loadParts (· = f) (· = p) s t ∧ (w.sel, w.k, w.n) = (dfield d 29 1 % 32, tmmK d, tmmN d) ∧ (k e).qsn = e.qsn ∧
      (k e).phase = .loaded := by
  obtain ⟨⟨a, sel, w, c⟩, hpair⟩ := Option.isSome_iff_exists.mp hpair
  have hgo : ((s.plot f p).tine.shadow.isSome || syncHeld (entriesBefore (s.plot f p).queue e.qsn) (.tmm d md) ||
      (s.field f).held) = false := by
    rw [hshadow, ← hop, hsync, hheld]; rfl
  rw [execWeightLoad, State.clocked_of_live ht]
  simp only [hload, hop, hgo, hfree, hpair, Bool.not_true, Bool.false_eq_true, if_false]
  refine ⟨_, _, _, rfl, ?_, ?_, rfl, rfl⟩
  · have hread := State.readColumns_only (K := loadParts) (F := (· = f)) (P := (· = p)) s f p d e.seed e.step w 0 (tmmN d)
      (by decide +kernel) rfl rfl (.refl _ _ _ s)
    exact State.classReports_only _ f p _ _ _ (by decide +kernel) rfl rfl
      (.ite (State.injArithFire_only _ f (by decide +kernel) rfl hread) hread)
  · rw [tmmPair_none_sel hpair]
    split <;> rfl

theorem execWeightLoad_waits (hfree : claimsFree (entriesBefore (s.plot f p).queue e.qsn) e = false) :
    execWeightLoad f p s = .next (s.pwrap f p Reg.PLT_QUEUE_STALL.CLAIM) := by
  have hgo : ((s.plot f p).tine.shadow.isSome || syncHeld (entriesBefore (s.plot f p).queue e.qsn) (.tmm d md) ||
      (s.field f).held) = false := by
    rw [hshadow, ← hop, hsync, hheld]; rfl
  rw [execWeightLoad, State.clocked_of_live ht]
  simp only [hload, hop, hgo, hfree, Bool.not_false, Bool.false_eq_true, if_false, if_true]

end Load

theorem execWeightLoad_idle (h : (s.plot f p).nextLoad = none ∨ (s.plot f p).tine.shadow.isSome = true ∨ (s.field f).held = true) :
    execWeightLoad f p s = .next s := by
  refine State.clocked_idle ?_
  cases hload : (s.plot f p).nextLoad with
  | none => simp only [hload]
  | some e =>
    cases hop : e.op with
    | tmm d md =>
      simp only [hload, hop]
      refine if_pos ?_
      rcases h.resolve_left (by simp [hload]) with h | h
      · simp [h]
      · simp [h]
    | _ => simp only [hload, hop]

/-- The marked entry, and what the shadow registers hold. -/
theorem State.load_entry {w : WLoad} {k : QEntry → QEntry} (he : e ∈ (s.plot f p).queue) (hframe : Only loadParts (· = f) (· = p) s t)
    (hu : u = (t.updEntry f p e.qsn k).updPlot f p (fun P => { P with tine := { P.tine with shadow := some w, shadowFor := e.qsn } })) :
    k e ∈ (u.plot f p).queue ∧ (u.plot f p).tine.shadowFor = e.qsn ∧ (u.plot f p).tine.shadow = some w := by
  rw [hu, State.plot_updPlot]
  exact ⟨State.mem_updEntry ((hframe.queue_same (by decide +kernel) (by decide +kernel)).symm ▸ he), rfl, rfl⟩

/-! ### Retirement -/

/-- What a tile operation can change as it retires, besides the count of passes, its entry and the completion log. -/
def retireParts : List Part :=
  [.events, .bin, .binErr, .reg Reg.INJ_ARITH.ARM, .reg Reg.INJ_ARITH.DONE, .plotReg Reg.PLT_CLASS_HI.TERN_RESERVED,
    .plotReg Reg.PLT_CLASS_HI.UNDERFLOW, .plotReg Reg.PLT_CLASS_LO.INF_IN, .plotReg Reg.PLT_CLASS_LO.NAN_IN,
    .plotReg Reg.PLT_CLASS_LO.SAT_BLOCK, .plotReg Reg.PLT_CLASS_LO.SAT_RANGE, .drift, .counts, .hard]

/-- An operation that retires: its entry leaves the queue, and PASSES counts it (R107, R196). -/
theorem State.retires {status seen : Nat} (hbefore : Only retireParts (· = f) (· = p) s t)
    (hafter : Only retireParts (· = f) (· = p) (t.pwrap f p Reg.PLT_TINE_COUNT.PASSES) u) :
    ((u.complete f p e status seen).plot f p).queue = (s.plot f p).queue.filter (fun y => decide (y.qsn ≠ e.qsn)) ∧
    (u.complete f p e status seen).preg f p Reg.PLT_TINE_COUNT.PASSES = (s.preg f p Reg.PLT_TINE_COUNT.PASSES + 1) % 2 ^ 32 := by
  constructor
  · rw [State.queue_complete, hafter.queue_same (by decide +kernel) (by decide +kernel), State.pwrap, State.plot_pset, Plot.setReg_queue,
      hbefore.queue_same (by decide +kernel) (by decide +kernel)]
  · have hcomplete := State.complete_only (F := (· = f)) (P := (· = p)) u f p e status seen (Fits.refl _) rfl rfl (.refl _ _ _ u)
    rw [hcomplete.preg _ (by decide +kernel), hafter.preg _ (by decide +kernel), State.preg_pwrap, hbefore.preg _ (by decide +kernel)]
    rfl

theorem State.injClassReport_retires (h : Only retireParts (· = f) (· = p) s t) (e : QEntry) :
    Only retireParts (· = f) (· = p) s (t.injClassReport f p e).1 :=
  State.injClassReport_only t f p e (by decide +kernel) rfl rfl h

theorem execTinePassRetire_retires (ht : s.hub.pwr.trip = false) (hold : (s.plot f p).oldestTmm = some e) (hop : e.op = .tmm d md)
    (hrun : e.phase = .running) : ∃ t u status seen, execTinePassRetire f p s = finish (u.complete f p e status seen) ∧
      Only retireParts (· = f) (· = p) s t ∧ Only retireParts (· = f) (· = p) (t.pwrap f p Reg.PLT_TINE_COUNT.PASSES) u := by
  rw [execTinePassRetire, State.clocked_of_live ht]
  simp only [hold, hop]
  exact ⟨_, _, _, _, if_neg (not_not_intro hrun), State.retirePoison_only s f p e _ (by decide +kernel) rfl (.refl _ _ _ s),
    State.injClassReport_retires (State.mismatchEvent_only _ f p e d (tmmIsW16 d) (by decide +kernel) rfl (.refl _ _ _ _)) e⟩

theorem execTinePassRetire_idle (hold : (s.plot f p).oldestTmm = some e) (hop : e.op = .tmm d md) (hrun : e.phase ≠ .running) :
    execTinePassRetire f p s = .next s := by
  refine State.clocked_idle ?_
  simp only [hold, hop]
  exact if_pos hrun

section Degenerate

variable (ht : s.hub.pwr.trip = false) (hold : (s.plot f p).oldestTmm = some e) (hop : e.op = .tmm d md)
  (hdeg : tmmDegenerate d = true) (hsync : syncHeld (entriesBefore (s.plot f p).queue e.qsn) e.op = false)
  (hheld : (s.field f).held = false)

include ht hold hop hdeg hsync hheld

/-- A degenerate operation that no fence and no held partition stops waits only where it writes +0 rows. -/
theorem execDegenerateRetire_of_oldest : execDegenerateRetire f p s =
    if (tmmZeroRows d && (!passSegsFree (entriesBefore (s.plot f p).queue e.qsn) d md || s.hostHolds f p e.qsn d md)) = true then
      .next (s.pwrap f p Reg.PLT_TINE_STALL.BIN_WAIT)
    else finish ((((if tmmZeroRows d then s.zeroRows f p d md else s).pwrap f p Reg.PLT_TINE_COUNT.PASSES).injClassReport f p e).1.complete
      f p e St.OK (((if tmmZeroRows d then s.zeroRows f p d md else s).pwrap f p Reg.PLT_TINE_COUNT.PASSES).injClassReport f p e).2) := by
  have hgo : (!tmmDegenerate d || syncHeld (entriesBefore (s.plot f p).queue e.qsn) (.tmm d md) || (s.field f).held) = false := by
    rw [hdeg, ← hop, hsync, hheld]; rfl
  rw [execDegenerateRetire, State.clocked_of_live ht]
  simp only [hold, hop]
  exact if_neg (Bool.eq_false_iff.mp hgo)

theorem execDegenerateRetire_retires (hseg : tmmZeroRows d = true →
      passSegsFree (entriesBefore (s.plot f p).queue e.qsn) d md = true ∧ s.hostHolds f p e.qsn d md = false) :
    ∃ t u status seen, execDegenerateRetire f p s = finish (u.complete f p e status seen) ∧
      Only retireParts (· = f) (· = p) s t ∧ Only retireParts (· = f) (· = p) (t.pwrap f p Reg.PLT_TINE_COUNT.PASSES) u := by
  have hgo : ¬ (tmmZeroRows d && (!passSegsFree (entriesBefore (s.plot f p).queue e.qsn) d md || s.hostHolds f p e.qsn d md)) = true := by
    intro hwait
    obtain ⟨hzero, hbusy⟩ := Bool.and_eq_true_iff.mp hwait
    obtain ⟨hfree, hhost⟩ := hseg hzero
    simp [hfree, hhost] at hbusy
  rw [execDegenerateRetire_of_oldest ht hold hop hdeg hsync hheld]
  exact ⟨_, _, _, _, if_neg hgo, .ite (State.zeroRows_only s f p d md (by decide +kernel) rfl (.refl _ _ _ s)) (.refl _ _ _ s),
    State.injClassReport_retires (.refl _ _ _ _) e⟩

theorem execDegenerateRetire_waits (hzero : tmmZeroRows d = true)
    (hbusy : passSegsFree (entriesBefore (s.plot f p).queue e.qsn) d md = false ∨ s.hostHolds f p e.qsn d md = true) :
    execDegenerateRetire f p s = .next (s.pwrap f p Reg.PLT_TINE_STALL.BIN_WAIT) := by
  rw [execDegenerateRetire_of_oldest ht hold hop hdeg hsync hheld]
  refine if_pos ?_
  rcases hbusy with h | h
  · simp [hzero, h]
  · simp [hzero, h]

end Degenerate

/-- An operation that writes +0 rows is degenerate (R107). -/
theorem tmmDegenerate_of_zeroRows (h : tmmZeroRows d = true) : tmmDegenerate d = true := by
  simp only [tmmZeroRows, tmmDegenerate, Bool.and_eq_true, Bool.or_eq_true] at h ⊢
  exact .inr h.1.2

end Sys2Proof.Machine
end

section
/-! Samples counted into the drift table (R130, R131), and the arming of INJ_ARITH (R144). -/

namespace Sys2Proof.Machine

open Sys2Proof

variable {s : State} {f : FieldId} {p : PlotId} {x : Sample} {l : List Sample} {tag n point b : Nat} {g : DriftRec → DriftRec}
  {inj : Bool}

/-! ### Reports to the drift table -/

/-- A tag with a record, or with room for one, has its record changed. -/
theorem State.find_driftReport (h : (SMap.find (s.field f).drift.recs tag).isSome = true ∨ (s.field f).drift.recs.length < driftSize) :
    SMap.find ((s.driftReport f tag n g inj).field f).drift.recs tag =
      some (g ((SMap.find (s.field f).drift.recs tag).getD DriftRec.zero)) := by
  unfold State.driftReport
  cases hfind : SMap.find (s.field f).drift.recs tag with
  | some r => simp only [hfind, State.field_updField, SMap.find_insert, if_true, Option.getD_some]
  | none =>
    have hroom := h.resolve_left (by simp [hfind])
    simp only [hfind, if_pos hroom, State.field_updField, SMap.find_insert, if_true, Option.getD_none]

/-- With the table full a new tag's report is only counted. -/
theorem State.driftReport_full (hnew : SMap.find (s.field f).drift.recs tag = none) (hfull : driftSize ≤ (s.field f).drift.recs.length) :
    ((s.driftReport f tag n g inj).field f).drift.recs = (s.field f).drift.recs ∧
    ((s.driftReport f tag n g inj).field f).drift.unrecorded = satAdd 32 (s.field f).drift.unrecorded n := by
  unfold State.driftReport
  simp only [hnew, if_neg (Nat.not_lt.mpr hfull)]
  split <;> simp only [State.raise_field, State.field_updField, and_self]

/-! ### SAMPLE_PROCESS -/

/-- A sample with a record, or with room for one, is counted into it; the drift event leaves the count as it is. -/
theorem State.samples_sampleCount
    (h : (SMap.find (s.field f).drift.recs x.tag).isSome = true ∨ (s.field f).drift.recs.length < driftSize) :
    (SMap.find ((s.sampleCount f x).field f).drift.recs x.tag).map DriftRec.samples =
      some (satAdd 32 (((SMap.find (s.field f).drift.recs x.tag).map DriftRec.samples).getD 0) 1) := by
  have hcount : ((SMap.find (s.field f).drift.recs x.tag).getD DriftRec.zero).samples =
      ((SMap.find (s.field f).drift.recs x.tag).map DriftRec.samples).getD 0 := by
    cases SMap.find (s.field f).drift.recs x.tag <;> rfl
  unfold State.sampleCount
  simp only [State.find_driftReport h, hcount]
  split_ifs
  · rw [State.raise_field, State.find_driftReport (.inl (by rw [State.find_driftReport h]; rfl)), State.find_driftReport h]
    simp only [Option.getD_some, Option.map_some, hcount]
  · simp only [State.find_driftReport h, Option.map_some, hcount]

theorem State.unrecorded_sampleCount (hnew : SMap.find (s.field f).drift.recs x.tag = none)
    (hfull : driftSize ≤ (s.field f).drift.recs.length) :
    ((s.sampleCount f x).field f).drift.unrecorded = satAdd 32 (s.field f).drift.unrecorded 1 := by
  unfold State.sampleCount
  simp only [(State.driftReport_full hnew hfull).1, hnew]
  exact (State.driftReport_full hnew hfull).2

theorem State.samples_of_sampleCount (s : State) (f : FieldId) (p : PlotId) (x : Sample) :
    ((s.sampleCount f x).plot f p).samples = (s.plot f p).samples :=
  ((State.sampleCount_only (F := (· = f)) (P := (· = p)) s f x (Fits.refl _) rfl (.refl _ _ _ s)).plot .samples f p (by decide)
    (.inl (by decide))).1

theorem execSampleProcess_counts (ht : s.hub.pwr.trip = false)
    (hvec : (s.plot f p).queue.any (fun e => decide (e.op.unit = 1) && decide (e.phase ≠ .waiting)) = false)
    (hx : (s.plot f p).samples = x :: l) :
    execSampleProcess f p s = finish ((s.updPlot f p (fun P => { P with samples := l })).sampleCount f x) := by
  rw [execSampleProcess, State.clocked_of_live ht]
  simp only [hx]
  exact if_neg (Bool.eq_false_iff.mp hvec)

theorem execSampleProcess_idle (h : (s.plot f p).queue.any (fun e => decide (e.op.unit = 1) && decide (e.phase ≠ .waiting)) = true ∨
    (s.plot f p).samples = []) : execSampleProcess f p s = .next s := by
  refine State.clocked_idle ?_
  simp only
  rcases h with h | h
  · exact if_pos h
  · simp only [h, ite_self]

theorem State.drift_updPlot (s : State) (f : FieldId) (p : PlotId) (g : Plot → Plot) :
    ((s.updPlot f p g).field f).drift = (s.field f).drift := by
  simp only [State.updPlot, State.field_updField]
  rfl

/-! ### INJ_ARITH -/

/-- The operands of an injection in its register. -/
def State.injFilled (s : State) (f : FieldId) (point : Nat) (p : PlotId) (t : TineId) (c : Fin 32) (b : Fin 64) (lane : Bool) : State :=
  (((((s.fset f Reg.INJ_ARITH.POINT point).fset f Reg.INJ_ARITH.PLOT p).fset f Reg.INJ_ARITH.TINE t).fset f Reg.INJ_ARITH.COLUMN
    c).fset f Reg.INJ_ARITH.BIT b).fset f Reg.INJ_ARITH.LANE (b2n lane)

variable {t : TineId} {c : Fin 32} {lane : Bool} {q : PlotId}

theorem State.injArithWrite_open {b : Fin 64} (hopen : s.injOpenAt f = true) (harm : s.freg f Reg.INJ_ARITH.ARM ≠ 1) :
    s.injArithWrite f point p t c b (b2n lane) = (s.injFilled f point p t c b lane).injArithArm f := by
  rw [State.injArithWrite, if_neg (by simp [hopen, harm])]
  rfl

theorem State.injArithWrite_closed {plot tine column b lane : Nat} (h : s.injOpenAt f = false ∨ s.freg f Reg.INJ_ARITH.ARM = 1) :
    s.injArithWrite f point plot tine column b lane = s := by
  rw [State.injArithWrite]
  refine if_pos ?_
  rcases h with h | h
  · simp [h]
  · simp [h]

/-- Each operand stands in its own field. -/
theorem State.freg_injFilled (s : State) (f : FieldId) (hpoint : point < 8) (p : PlotId) (t : TineId) (c : Fin 32) (b : Fin 64) (lane : Bool) :
    (s.injFilled f point p t c b lane).freg f Reg.INJ_ARITH.POINT = point ∧ (s.injFilled f point p t c b lane).freg f Reg.INJ_ARITH.PLOT = p ∧
    (s.injFilled f point p t c b lane).freg f Reg.INJ_ARITH.TINE = t ∧ (s.injFilled f point p t c b lane).freg f Reg.INJ_ARITH.COLUMN = c ∧
    (s.injFilled f point p t c b lane).freg f Reg.INJ_ARITH.BIT = b ∧
    (s.injFilled f point p t c b lane).freg f Reg.INJ_ARITH.LANE = b2n lane := by
  unfold State.injFilled
  refine ⟨?_, ?_, ?_, ?_, ?_, ?_⟩ <;> simp (disch := decide) only [State.freg_fset_other, State.freg_fset]
  · exact Nat.mod_eq_of_lt hpoint
  · exact Nat.mod_eq_of_lt p.isLt
  · exact Nat.mod_eq_of_lt t.isLt
  · exact Nat.mod_eq_of_lt c.isLt
  · exact Nat.mod_eq_of_lt b.isLt
  · cases lane <;> rfl

/-- A write of a register other than FLD_FALLOW_RUN leaves which slots are vacant. -/
theorem State.vacant_fset (s : State) (f : FieldId) (k : RegField) (v : Nat) (q : PlotId)
    (hk : k.place % 0x10000000000 ≠ Reg.FLD_FALLOW_RUN.RUN.place % 0x10000000000) : (s.fset f k v).vacant f q = s.vacant f q := by
  have hrun : ((s.fset f k v).field f).fallowRun = (s.field f).fallowRun := State.freg_fset_other s f f k Reg.FLD_FALLOW_RUN.RUN v 0 0 0 0 hk
  have hremap : ((s.fset f k v).field f).memu = (s.field f).memu := State.memu_fset s f k v 0 0
  rw [State.vacant, Field.vacant, hrun, hremap]
  rfl

theorem State.vacant_injFilled (s : State) (f : FieldId) (point : Nat) (p : PlotId) (t : TineId) (c : Fin 32) (b : Fin 64) (lane : Bool)
    (q : PlotId) : (s.injFilled f point p t c b lane).vacant f q = s.vacant f q := by
  unfold State.injFilled
  simp (disch := decide) only [State.vacant_fset]

/-- Arming tells by ARM whether the injection can fire, and by NOFIRE that it cannot. -/
theorem State.freg_injArithArm (hpoint : s.freg f Reg.INJ_ARITH.POINT = point) (hbit : s.freg f Reg.INJ_ARITH.BIT = b)
    (hplot : s.freg f Reg.INJ_ARITH.PLOT = p) :
    if injArithRange point b = true ∧ s.vacant f p = false then (s.injArithArm f).freg f Reg.INJ_ARITH.ARM = 1
    else (s.injArithArm f).freg f Reg.INJ_ARITH.ARM = 0 ∧ (s.injArithArm f).freg f Reg.INJ_ARITH.NOFIRE = 1 := by
  have hfires : (injArithRange point b && !(s.field f).vacant p) = true ↔ injArithRange point b = true ∧ s.vacant f p = false := by
    rw [Bool.and_eq_true, Bool.not_eq_true']; rfl
  simp only [State.injArithArm, hpoint, hbit, hplot, hfires]
  split
  · rw [State.freg_fset]; rfl
  · rw [State.freg_fset_other _ _ _ _ _ _ _ _ _ _ (by decide), State.freg_fset, State.freg_fset]
    exact ⟨rfl, rfl⟩

/-- A write of INJ_ARITH with the lock open keeps the operands, and arms the point where it can fire (R144). -/
theorem State.injArithWrite_arms {b : Fin 64} (hpoint : point < 8) (hopen : s.injOpenAt f = true) (harm : s.freg f Reg.INJ_ARITH.ARM ≠ 1)
    {u : State} (hu : u = s.injArithWrite f point p t c b (b2n lane)) :
    u.freg f Reg.INJ_ARITH.POINT = point ∧ u.freg f Reg.INJ_ARITH.PLOT = p ∧ u.freg f Reg.INJ_ARITH.TINE = t ∧
    u.freg f Reg.INJ_ARITH.COLUMN = c ∧ u.freg f Reg.INJ_ARITH.BIT = b ∧ u.freg f Reg.INJ_ARITH.LANE = b2n lane ∧
    (if injArithRange point b = true ∧ s.vacant f p = false then u.freg f Reg.INJ_ARITH.ARM = 1
      else u.freg f Reg.INJ_ARITH.ARM = 0 ∧ u.freg f Reg.INJ_ARITH.NOFIRE = 1) := by
  rw [State.injArithWrite_open hopen harm] at hu
  obtain ⟨hp, hplot, ht, hc, hb, hlane⟩ := State.freg_injFilled s f hpoint p t c b lane
  have hkeep := State.injArithArm_only (F := (· = f)) (P := fun _ => False) (s.injFilled f point p t c b lane) f (Fits.refl _) rfl (.refl _ _ _ _)
  have harms := State.freg_injArithArm hp hb hplot
  rw [State.vacant_injFilled] at harms
  rw [hu]
  exact ⟨(hkeep.freg _ (by decide) f 0 0).trans hp, (hkeep.freg _ (by decide) f 0 0).trans hplot, (hkeep.freg _ (by decide) f 0 0).trans ht,
    (hkeep.freg _ (by decide) f 0 0).trans hc, (hkeep.freg _ (by decide) f 0 0).trans hb, (hkeep.freg _ (by decide) f 0 0).trans hlane, harms⟩

/-- The six injections, each with the point it arms. -/
def arithInjections (f : FieldId) (p : PlotId) (t : TineId) (c : Fin 32) (b : Fin 64) (lane : Bool) : List (Instr × Nat) :=
  [(Instr.injWitnessLane f p t c b lane, 1), (Instr.injWitnessWeight f p t c b lane, 2), (Instr.injScarecrowBias f p t c b lane, 3),
    (Instr.injBinSingle f p t c b lane, 4), (Instr.injBinDouble f p t c b lane, 5), (Instr.injClassReport f p t c b lane, 6)]

theorem exec_arithInjection (s : State) (f : FieldId) (p : PlotId) (t : TineId) (c : Fin 32) (b : Fin 64) (lane : Bool) :
    ∀ x ∈ arithInjections f p t c b lane, exec x.1 s = .next (s.injArithWrite f x.2 p t c b (b2n lane)) :=
  List.map_inj_left.mp rfl

theorem arithInjection_point (f : FieldId) (p : PlotId) (t : TineId) (c : Fin 32) (b : Fin 64) (lane : Bool) :
    ∀ x ∈ arithInjections f p t c b lane, x.2 < 8 :=
  List.forall_mem_map.mp (show ∀ n ∈ (arithInjections f p t c b lane).map Prod.snd, n < 8 from
    (show ∀ n ∈ [1, 2, 3, 4, 5, 6], n < 8 by decide))

end Sys2Proof.Machine
end

section
/-! Passes, ballast rows, samples and arithmetic injections complete (O11). -/

namespace Sys2Proof.Machine

open Sys2Proof

/-- Settles O11: each command's equation in the case at hand, and what it then left in the queue, the counts and the drift table. -/
theorem tileCommandsComplete : Obligations.TileCommandsComplete := by
  unfold Obligations.TileCommandsComplete
  refine ⟨?_, ?_, ?_, ?_, ?_, ?_, ?_, ?_, ?_, ?_, ?_, ?_, ?_, ?_, ?_, ?_, ?_, ?_, ?_, ?_, ?_, ?_⟩
  · intro s f p e d md ht hgate hawake hstop hpair
    exact .finish (execTinePassStart_enters ht hgate hawake hstop) ⟨rfl, State.pass_enters md (State.mem_of_passGate_ready hgate) hpair⟩
  · intro s f p e d md ht hgate hdormant
    refine .next (execTinePassStart_dormant ht hgate hdormant) ⟨State.mem_tokens_tokenAsk _ _ _ _, ?_⟩
    rw [State.preg_tokenAsk _ _ _ _ _ (by decide), State.preg_pwrap]
    rfl
  · intro s f p e d md hgate hawake hstop
    exact .next (execTinePassStart_stopped hgate hawake hstop) rfl
  · exact fun s f p ht hgate => .next (execTinePassStart_claim ht hgate) rfl
  · exact fun s f p bin ht hgate => .next (execTinePassStart_load ht hgate) rfl
  · exact fun s f p ht hgate => .next (execTinePassStart_bin ht hgate) rfl
  · exact fun s f p hgate => .next (execTinePassStart_idle hgate) rfl
  · intro s f p e d md ht hload hop hshadow hsync hheld hfree hpair
    obtain ⟨t, w, k, hexec, hframe, hw, hqsn, hphase⟩ := execWeightLoad_loads ht hload hop hshadow hsync hheld hfree hpair
    obtain ⟨hmem, hfor, hweights⟩ := State.load_entry (Plot.mem_of_nextLoad hload) hframe rfl
    exact .finish hexec ⟨⟨k e, hmem, hqsn, hphase⟩, hfor, by rw [hweights, Option.map_some, hw]⟩
  · intro s f p e d md ht hload hop hshadow hsync hheld hfree
    exact .next (execWeightLoad_waits ht hload hop hshadow hsync hheld hfree) rfl
  · exact fun s f p h => .next (execWeightLoad_idle h) rfl
  · intro s f p e d md ht hold hop hrun
    obtain ⟨t, u, status, seen, hexec, hbefore, hafter⟩ := execTinePassRetire_retires ht hold hop hrun
    exact .finish hexec (State.retires hbefore hafter)
  · exact fun s f p e d md hold hop hrun => .next (execTinePassRetire_idle hold hop hrun) rfl
  · intro s f p e d md ht hold hop hdeg hsync hheld hseg
    obtain ⟨t, u, status, seen, hexec, hbefore, hafter⟩ := execDegenerateRetire_retires ht hold hop hdeg hsync hheld hseg
    exact .finish hexec (State.retires hbefore hafter)
  · intro s f p e d md ht hold hop hzero hsync hheld hbusy
    exact .next (execDegenerateRetire_waits ht hold hop (tmmDegenerate_of_zeroRows hzero) hsync hheld hzero hbusy) rfl
  · intro s f p t h hok hup
    have hexec := execBallastRow_enters (t := t) (h.imp_left PassGate.isReady_of_mem) hok hup
    cases hdormant : (s.plot f p).tine.dormant with
    | true =>
      rw [if_pos hdormant] at hexec
      exact .next hexec (State.mem_tokens_tokenAsk _ _ _ _)
    | false =>
      rw [if_neg (by simp [hdormant])] at hexec
      exact .next hexec rfl
  · intro s f p t e d md h
    refine .next (execBallastRow_idle (t := t) (h.imp_left fun ⟨hgate, hstop⟩ => ⟨?_, hstop⟩)) rfl
    rw [hgate]
    rfl
  · intro s f p x l ht hvec hx hroom
    refine .finish (execSampleProcess_counts ht hvec hx) ⟨?_, ?_⟩
    · rw [State.samples_of_sampleCount, State.plot_updPlot]
    · rw [State.samples_sampleCount (by rw [State.drift_updPlot]; exact hroom), State.drift_updPlot]
  · intro s f p x l ht hvec hx hnew hfull
    refine .finish (execSampleProcess_counts ht hvec hx) ⟨?_, ?_⟩
    · rw [State.samples_of_sampleCount, State.plot_updPlot]
    · rw [State.unrecorded_sampleCount (by rw [State.drift_updPlot]; exact hnew) (by rw [State.drift_updPlot]; exact hfull),
        State.drift_updPlot]
  · exact fun s f p h => .next (execSampleProcess_idle h) rfl
  · intro s f p t c b lane hopen harm x hx
    exact .next (exec_arithInjection s f p t c b lane x hx)
      (State.injArithWrite_arms (arithInjection_point f p t c b lane x hx) hopen harm rfl)
  · intro s f p t c b lane h
    change ∀ x ∈ (arithInjections f p t c b lane).map Prod.fst, _
    refine List.forall_mem_map.mpr fun x hx => ?_
    exact .next ((exec_arithInjection s f p t c b lane x hx).trans (congrArg _ (State.injArithWrite_closed h))) rfl
  · intro s f p ht
    have hclocked : ∀ x ∈ [Instr.weightLoad f p, .tinePassStart f p, .tinePassRetire f p, .degenerateRetire f p, .sampleProcess f p],
        ∃ r, exec x s = s.clocked r :=
      List.forall_mem_cons.mpr ⟨⟨_, rfl⟩, List.forall_mem_cons.mpr ⟨⟨_, rfl⟩, List.forall_mem_cons.mpr ⟨⟨_, rfl⟩,
        List.forall_mem_cons.mpr ⟨⟨_, rfl⟩, List.forall_mem_singleton.mpr ⟨_, rfl⟩⟩⟩⟩⟩
    intro x hx
    obtain ⟨r, hexec⟩ := hclocked x hx
    exact .next (hexec.trans (State.clocked_of_tripped ht)) rfl

end Sys2Proof.Machine
end

section
/-! The frame of the injection commands (O60). -/

namespace Sys2Proof.Machine

open Sys2Proof

variable {s : State} {f : FieldId}

/-- A point that waits for its moment once it is armed changes its own register alone (R696). -/
theorem State.injRow_waits_ends (r point : Nat) (target : Fin 256) (arg : Nat) :
    Ends [.reg Reg.INJ_PT.ARG, .reg Reg.INJ_PT.ARM, .reg Reg.INJ_PT.NOFIRE, .reg Reg.INJ_PT.POINT, .reg Reg.INJ_PT.TARGET]
      (· = f) (fun _ => False) s (s.injRow f r point target arg (fun t _ => t)) :=
  State.injRow_only s f r point target arg _ (by decide +kernel) rfl (fun _ _ ht => ht) (.refl _ _ _ s)

/-- Settles O60: each command's own frame, with the field it names; the points that only arm share one row, and the end of an
effect is a field's or the hub's. -/
theorem injectionFrame : Obligations.InjectionFrame := by
  unfold Obligations.InjectionFrame
  refine ⟨?_, ?_, ?_, ?_, ?_, ?_, ?_, ?_, ?_, ?_, ?_, ?_, ?_, ?_, ?_, ?_, ?_, ?_, ?_, ?_, ?_, ?_⟩
  -- the rim that loses its hub, and the lock
  · exact fun s f => execHubLostEntry_only f s (by decide +kernel) rfl (.refl _ _ _ s)
  · exact fun s => execInjReq_only s (by decide +kernel) (.refl _ _ _ s)
  · exact fun s value => execInjValue_only value s (by decide +kernel) (fun _ => trivial) (.refl _ _ _ s)
  · exact fun s => execInjLock_only s (by decide +kernel) (fun _ => trivial) (.refl _ _ _ s)
  · exact fun s => execInjWindowExpiry_only s (by decide +kernel) (.refl _ _ _ s)
  · exact fun s => execInjHoldoffEnd_only s (by decide +kernel) (.refl _ _ _ s)
  -- the end of an effect
  · exact fun s f r => .finish (State.fxEnd_only s f r (by decide +kernel) rfl (.refl _ _ _ s))
  · exact fun s r => .finish (State.fxHubEnd_only s r (by decide +kernel) (fun _ => trivial) (.refl _ _ _ s))
  -- the points of a rim
  · intro s f target arg c hc
    simp only [List.mem_append, List.mem_cons, List.not_mem_nil, or_false] at hc
    rcases hc with (rfl | rfl | rfl | rfl | rfl | rfl | rfl | rfl | rfl | rfl | rfl | rfl) |
      (rfl | rfl | rfl | rfl | rfl | rfl | rfl | rfl)
    all_goals exact State.injRow_waits_ends _ _ target arg
  · exact fun s f target arg => execInjStackLost_only f target arg s (by decide +kernel) rfl (fun _ => trivial) (.refl _ _ _ s)
  · exact fun s f target arg => execInjLaneFail_only f target arg s (by decide +kernel) rfl (.refl _ _ _ s)
  · exact fun s f target arg => execInjRingUnlock_only f target arg s (by decide +kernel) rfl (.refl _ _ _ s)
  · exact fun s f target arg => execInjRetrain_only f target arg s (by decide +kernel) rfl (.refl _ _ _ s)
  · exact fun s f target arg => List.forall_mem_cons.mpr ⟨execInjNoAck_only f target arg s (by decide +kernel) rfl (.refl _ _ _ s),
      List.forall_mem_cons.mpr ⟨execInjBeatStop_only f target arg s (by decide +kernel) rfl (.refl _ _ _ s),
        List.forall_mem_singleton.mpr (execInjBeaconMute_only f target arg s (by decide +kernel) rfl (.refl _ _ _ s))⟩⟩
  · exact fun s f target arg => List.forall_mem_cons.mpr
      ⟨execInjSensorOffset_only f target arg s (by decide +kernel) rfl (.refl _ _ _ s),
        List.forall_mem_singleton.mpr (execInjSensorRamp_only f target arg s (by decide +kernel) rfl (.refl _ _ _ s))⟩
  · exact fun s f target arg => execInjSensorBroken_only f target arg s (by decide +kernel) rfl (.refl _ _ _ s)
  -- the points of the hub
  · exact fun s target arg => execInjPwrWarn_only target arg s (by decide +kernel) (fun _ => trivial) (.refl _ _ _ s)
  · exact fun s target arg => List.forall_mem_cons.mpr ⟨execInjPinReading_only target arg s (by decide +kernel) (.refl _ _ _ s),
      List.forall_mem_cons.mpr ⟨execInjModuleFault_only target arg s (by decide +kernel) (.refl _ _ _ s),
        List.forall_mem_singleton.mpr (execInjMargin_only target arg s (by decide +kernel) (.refl _ _ _ s))⟩⟩
  · exact fun s target arg => execInjPinBroken_only target arg s (by decide +kernel) (.refl _ _ _ s)
  · exact fun s target arg => execInjHeartbeatStop_only target arg s (by decide +kernel) (fun _ => trivial) (.refl _ _ _ s)
  · exact fun s target arg => execInjHostLaneFail_only target arg s (by decide +kernel) (.refl _ _ _ s)
  · exact fun s target arg => execInjInletDrop_only target arg s (by decide +kernel) (fun _ => trivial) (.refl _ _ _ s)

end Sys2Proof.Machine
end

section
/-! The lists that keep within their unit's places (R129, R155, R199, R235, R242, R410, R421, R422, R678): what a state must keep of them,
and the updates that do. -/

namespace Sys2Proof.Machine

set_option Elab.async false

open Sys2Proof

variable {K : List Part} {s t : State} {f : FieldId} {p : PlotId}

/-! ### The lists of a field's memory unit -/

/-- The lists of a memory unit are as `State.Bounded` has them. -/
structure FieldMem.Sound (m : FieldMem) : Prop where
  lines : ∀ x ∈ m.absorber, x.data.length = 128 ∧ m.lost (lineStack x.line) = false
  held : ∀ w ∈ m.held, m.lost (lineStack w.line) = false
  absorber : m.absorber.length ≤ absorberLines
  rows : m.rowTab.length ≤ 256

/-- The lists of a gateway are. -/
structure GatewayUnit.Sound (G : GatewayUnit) : Prop where
  atomics : G.atomics.length ≤ atomicCache
  flows : G.queue.length ≤ queuePlaces

/-- The lists of a plot are. -/
structure Plot.Sound (P : Plot) : Prop where
  queue : P.queue.length ≤ queueSize
  log : P.cq.length ≤ cqSize
  samples : P.samples.length ≤ 16

/-- The lists of a field are. -/
structure Field.Sound (F : Field) : Prop where
  memu : F.memu.Sound
  mgmt : F.mgmtq.length ≤ mgmtQueue
  gw : F.gw.Sound
  plots : ∀ p : PlotId, (F.plot p).Sound

theorem State.bounded_iff : s.Bounded ↔ ∀ f, (s.field f).Sound :=
  ⟨fun h f => ⟨⟨h.lines f, h.held f, h.absorber f, h.rows f⟩, h.mgmt f, ⟨h.atomics f, h.flows f⟩,
      fun p => ⟨h.queue f p, h.log f p, h.samples f p⟩⟩,
    fun h => ⟨fun f => (h f).memu.lines, fun f => (h f).memu.held, fun f => (h f).memu.absorber, fun f => (h f).memu.rows,
      fun f => (h f).mgmt, fun f => (h f).gw.atomics, fun f => (h f).gw.flows, fun f p => ((h f).plots p).queue,
      fun f p => ((h f).plots p).log, fun f p => ((h f).plots p).samples⟩⟩

theorem State.Bounded.field (h : s.Bounded) (f : FieldId) : (s.field f).Sound := State.bounded_iff.mp h f

theorem State.Bounded.memu (h : s.Bounded) (f : FieldId) : (s.memu f).Sound := (h.field f).memu

theorem State.Bounded.gw (h : s.Bounded) (f : FieldId) : (s.gw f).Sound := (h.field f).gw

theorem State.Bounded.plot (h : s.Bounded) (f : FieldId) (p : PlotId) : (s.plot f p).Sound := (h.field f).plots p

/-- The same lines are resident, the same writes held and the same stacks lost. -/
structure FieldMem.SameLines (m n : FieldMem) : Prop where
  absorber : n.absorber = m.absorber
  held : n.held = m.held
  lost : n.lost = m.lost

theorem FieldMem.SameLines.refl (m : FieldMem) : m.SameLines m := ⟨rfl, rfl, rfl⟩

theorem FieldMem.SameLines.trans {m n o : FieldMem} (h : m.SameLines n) (h' : n.SameLines o) : m.SameLines o :=
  ⟨h'.absorber.trans h.absorber, h'.held.trans h.held, h'.lost.trans h.lost⟩

theorem FieldMem.SameLines.resident {m n : FieldMem} (h : m.SameLines n) (l : Nat) : n.resident l = m.resident l := by
  rw [FieldMem.resident, h.absorber]
  rfl

theorem FieldMem.lost_of {m n : FieldMem} (h0 : n.lost0 = m.lost0) (h1 : n.lost1 = m.lost1) : n.lost = m.lost := by
  funext stack
  rw [FieldMem.lost, FieldMem.lost, h0, h1]

/-- A memory unit with the same lines and another table of rows. -/
theorem FieldMem.Sound.of_lines {m n : FieldMem} (h : m.Sound) (hs : m.SameLines n) (hr : n.rowTab.length ≤ 256) : n.Sound :=
  ⟨by rw [hs.absorber, hs.lost]; exact h.lines, by rw [hs.held, hs.lost]; exact h.held, by rw [hs.absorber]; exact h.absorber, hr⟩

/-- A memory unit of which other parts change. -/
theorem FieldMem.Sound.other {m n : FieldMem} (h : m.Sound) (ha : n.absorber = m.absorber := by rfl) (hh : n.held = m.held := by rfl)
    (h0 : n.lost0 = m.lost0 := by rfl) (h1 : n.lost1 = m.lost1 := by rfl) (hr : n.rowTab = m.rowTab := by rfl) : n.Sound :=
  h.of_lines ⟨ha, hh, FieldMem.lost_of h0 h1⟩ (hr ▸ h.rows)

/-! ### How it composes -/

/-- None of the parts that hold the lists is among the parts. -/
def sparesLists (K : List Part) : Bool :=
  [Part.memu, .mgmt, .gateway, .queue, .cq, .samples].all (fun k => !Part.covered K k && !Part.covered K (.far k))

/-- A frame whose parts hold none of the lists. -/
theorem State.Bounded.of_only (h : s.Bounded) (ho : Only K (fun _ => True) (fun _ => True) s t) (hK : sparesLists K = true) :
    t.Bounded := by
  simp only [sparesLists, List.all_cons, List.all_nil, Bool.and_true, Bool.and_eq_true, Bool.not_eq_true'] at hK
  obtain ⟨⟨hmemu, hmemu'⟩, ⟨hmgmt, hmgmt'⟩, ⟨hgw, hgw'⟩, ⟨hqueue, hqueue'⟩, ⟨hcq, hcq'⟩, hsamples, hsamples'⟩ := hK
  refine State.bounded_iff.mpr fun f => ?_
  have hm : (t.field f).memu = (s.field f).memu := (ho.same .memu f hmemu' (.inl hmemu)).2.1
  have hq : (t.field f).mgmtq = (s.field f).mgmtq := (ho.same .mgmt f hmgmt' (.inl hmgmt)).2.1
  have hg : (t.field f).gw = (s.field f).gw := (ho.same .gateway f hgw' (.inl hgw)).2.1
  refine ⟨hm ▸ (h.field f).memu, hq ▸ (h.field f).mgmt, hg ▸ (h.field f).gw, fun p => ?_⟩
  have hqueue : (t.plot f p).queue = (s.plot f p).queue := (ho.plot .queue f p hqueue' (.inl hqueue)).1
  have hcq : (t.plot f p).cq = (s.plot f p).cq := ho.plot .cq f p hcq' (.inl hcq)
  have hsamples : (t.plot f p).samples = (s.plot f p).samples := (ho.plot .samples f p hsamples' (.inl hsamples)).1
  exact ⟨hqueue ▸ h.queue f p, hcq ▸ h.log f p, hsamples ▸ h.samples f p⟩

/-- An operation whose frame holds none of the lists. -/
theorem State.Bounded.only (h : s.Bounded)
    (ho : Only K (fun _ => True) (fun _ => True) s s → Only K (fun _ => True) (fun _ => True) s t)
    (hK : sparesLists K = true := by decide +kernel) : t.Bounded :=
  h.of_only (ho (.refl _ _ _ s)) hK

theorem State.Bounded.ite {c : Prop} [Decidable c] (ha : c → s.Bounded) (hb : ¬ c → t.Bounded) :
    State.Bounded (if c then s else t) := by
  split
  · exact ha ‹_›
  · exact hb ‹_›

theorem State.Bounded.fst_ite {α : Type} {c : Prop} [Decidable c] {a b : State × α} (ha : c → a.1.Bounded) (hb : ¬ c → b.1.Bounded) :
    (if c then a else b).1.Bounded := by
  split
  · exact ha ‹_›
  · exact hb ‹_›

theorem State.Bounded.foldl {α : Type} (l : List α) (g : State → α → State)
    (hg : ∀ t, ∀ a ∈ l, t.Bounded → (g t a).Bounded) (h : s.Bounded) : (l.foldl g s).Bounded := by
  induction l generalizing s with
  | nil => exact h
  | cons a l ih => exact ih (fun t b hb => hg t b (List.mem_cons_of_mem a hb)) (hg s a List.mem_cons_self h)

theorem State.Bounded.foldl_fst {α β : Type} (l : List α) (g : State × β → α → State × β) (i : State × β)
    (hg : ∀ t, ∀ a ∈ l, t.1.Bounded → (g t a).1.Bounded) (h : i.1.Bounded) : (l.foldl g i).1.Bounded := by
  induction l generalizing i with
  | nil => exact h
  | cons a l ih => exact ih _ (fun t b hb => hg t b (List.mem_cons_of_mem a hb)) (hg i a List.mem_cons_self h)

/-! ### Updates -/

/-- Field f changes, and its lists still keep. -/
theorem State.Bounded.updField_sound (h : s.Bounded) {g : Field → Field} (hg : (g (s.field f)).Sound) : (s.updField f g).Bounded := by
  refine State.bounded_iff.mpr fun k => ?_
  by_cases e : f = k
  · subst e
    rw [State.field_updField]
    exact hg
  · rw [State.field_updField_ne _ _ _ _ e]
    exact h.field k

/-- Other parts of field f change. -/
theorem State.Bounded.updField (h : s.Bounded) {g : Field → Field} (hm : (g (s.field f)).memu = (s.field f).memu := by rfl)
    (hq : (g (s.field f)).mgmtq = (s.field f).mgmtq := by rfl) (hg : (g (s.field f)).gw = (s.field f).gw := by rfl)
    (hp : (g (s.field f)).plots = (s.field f).plots := by rfl) : (s.updField f g).Bounded :=
  h.updField_sound ⟨hm ▸ h.memu f, hq ▸ h.mgmt f, hg ▸ h.gw f, fun p => by
    rw [Field.plot, hp]
    exact h.plot f p⟩

theorem State.Bounded.updMemu_sound (h : s.Bounded) {g : FieldMem → FieldMem} (hg : (g (s.memu f)).Sound) : (s.updMemu f g).Bounded :=
  h.updField_sound ⟨hg, h.mgmt f, h.gw f, h.plot f⟩

/-- Other parts of a memory unit change. -/
theorem State.Bounded.updMemu (h : s.Bounded) {g : FieldMem → FieldMem} (ha : (g (s.memu f)).absorber = (s.memu f).absorber := by rfl)
    (hh : (g (s.memu f)).held = (s.memu f).held := by rfl) (h0 : (g (s.memu f)).lost0 = (s.memu f).lost0 := by rfl)
    (h1 : (g (s.memu f)).lost1 = (s.memu f).lost1 := by rfl) (hr : (g (s.memu f)).rowTab = (s.memu f).rowTab := by rfl) : (s.updMemu f g).Bounded :=
  h.updMemu_sound ((h.memu f).other ha hh h0 h1 hr)

/-- A gateway changes, and holds no more answers and no more places. -/
theorem State.Bounded.updGw (h : s.Bounded) {g : GatewayUnit → GatewayUnit}
    (ha : (g (s.gw f)).atomics.length ≤ (s.gw f).atomics.length := by exact Nat.le_refl _)
    (hq : (g (s.gw f)).queue.length ≤ (s.gw f).queue.length := by exact Nat.le_refl _) : (s.updGw f g).Bounded :=
  h.updField_sound ⟨h.memu f, h.mgmt f, ⟨ha.trans (h.atomics f), hq.trans (h.flows f)⟩, h.plot f⟩

theorem State.Bounded.updPlot_sound (h : s.Bounded) {g : Plot → Plot} (hg : (g (s.plot f p)).Sound) : (s.updPlot f p g).Bounded := by
  refine h.updField_sound ⟨h.memu f, h.mgmt f, h.gw f, fun q => ?_⟩
  by_cases e : p = q
  · subst e
    rw [Field.plot_updPlot]
    exact hg
  · rw [Field.plot_updPlot_ne _ _ _ _ (Fin.val_ne_iff.mpr e)]
    exact h.plot f q

/-- A plot changes, and holds no more entries, completions and samples. -/
theorem State.Bounded.updPlot (h : s.Bounded) {g : Plot → Plot}
    (hq : (g (s.plot f p)).queue.length ≤ (s.plot f p).queue.length := by exact Nat.le_refl _)
    (hc : (g (s.plot f p)).cq.length ≤ (s.plot f p).cq.length := by exact Nat.le_refl _)
    (hs : (g (s.plot f p)).samples.length ≤ (s.plot f p).samples.length := by exact Nat.le_refl _) : (s.updPlot f p g).Bounded :=
  h.updPlot_sound ⟨hq.trans (h.queue f p), hc.trans (h.log f p), hs.trans (h.samples f p)⟩

theorem State.Bounded.updHub (h : s.Bounded) {g : Hub → Hub} : (s.updHub g).Bounded := State.bounded_iff.mpr h.field

theorem State.Bounded.updMem (h : s.Bounded) {g : Memories → Memories} : (s.updMem g).Bounded := State.bounded_iff.mpr h.field

/-! ### What a command leaves -/

/-- The command answers a next state, and what it leaves before the records of its events are written keeps the lists. -/
def LeavesBounded (r : Result) : Prop := Leaves r State.Bounded

theorem LeavesBounded.next (h : s.Bounded) : LeavesBounded (.next s) := ⟨s, .inl rfl, h⟩

theorem LeavesBounded.finish (h : s.Bounded) : LeavesBounded (finish s) := ⟨s, .inr rfl, h⟩

theorem LeavesBounded.ite {c : Prop} [Decidable c] {a b : Result} (ha : c → LeavesBounded a) (hb : ¬ c → LeavesBounded b) :
    LeavesBounded (if c then a else b) := by
  split
  · exact ha ‹_›
  · exact hb ‹_›

theorem LeavesBounded.inRim {r : Result} (h : s.Bounded) (hr : LeavesBounded r) : LeavesBounded (s.inRim f r) :=
  .ite (fun _ => .next h) (fun _ => hr)

theorem LeavesBounded.clocked {r : Result} (h : s.Bounded) (hr : LeavesBounded r) : LeavesBounded (s.clocked r) :=
  .ite (fun _ => .next h) (fun _ => hr)

/-- A command whose frame holds none of the lists. -/
theorem bounded_of_frame {r : Result} (h : s.Bounded)
    (ho : Only K (fun _ => True) (fun _ => True) s s → Ends K (fun _ => True) (fun _ => True) s r)
    (hK : sparesLists K = true := by decide +kernel) : LeavesBounded r := by
  obtain ⟨u, hr, hu⟩ := ho (.refl _ _ _ s)
  exact ⟨u, hr, h.of_only hu hK⟩

end Sys2Proof.Machine
end

section
/-! What a read of HBM leaves: the lines of the absorber, the writes held, and every byte of HBM and of the plot stores (R237 to R242). -/

namespace Sys2Proof.Machine

set_option Elab.async false

open Sys2Proof

variable {K : List Part} {s t u : State} {f : FieldId}

/-! ### Operations that store nothing -/

/-- From s to t the memory unit of field f has the same lines, and its HBM and plot stores the same bytes. -/
structure SameBytes (f : FieldId) (s t : State) : Prop where
  lines : (s.memu f).SameLines (t.memu f)
  hbm : t.mem.hbm[f] = s.mem.hbm[f]
  store : t.mem.store[f] = s.mem.store[f]

theorem SameBytes.refl (f : FieldId) (s : State) : SameBytes f s s := ⟨.refl _, rfl, rfl⟩

theorem SameBytes.trans (h : SameBytes f s t) (h' : SameBytes f t u) : SameBytes f s u :=
  ⟨h.lines.trans h'.lines, h'.hbm.trans h.hbm, h'.store.trans h.store⟩

/-- None of the parts that hold lines and bytes is among the parts. -/
def sparesBytes (K : List Part) : Bool :=
  [Part.memu, .hbm, .store].all (fun k => !Part.covered K k && !Part.covered K (.far k))

/-- An operation whose frame holds none of them. -/
theorem SameBytes.only (h : SameBytes f s t)
    (ho : Only K (fun _ => True) (fun _ => True) t t → Only K (fun _ => True) (fun _ => True) t u)
    (hK : sparesBytes K = true := by decide +kernel) : SameBytes f s u := by
  simp only [sparesBytes, List.all_cons, List.all_nil, Bool.and_true, Bool.and_eq_true, Bool.not_eq_true'] at hK
  obtain ⟨⟨hmemu, hmemu'⟩, ⟨hhbm, hhbm'⟩, hstore, hstore'⟩ := hK
  have hsame := (ho (.refl _ _ _ t)).same
  have hm : u.memu f = t.memu f := (hsame .memu f hmemu' (.inl hmemu)).2.1
  exact h.trans ⟨hm ▸ .refl _, (hsame .hbm f hhbm' (.inl hhbm)).2.2, (hsame .store f hstore' (.inl hstore)).2.2⟩

/-- Other memories change. -/
theorem SameBytes.updMem (h : SameBytes f s t) {g : Memories → Memories} (hh : (g t.mem).hbm = t.mem.hbm := by rfl)
    (hs : (g t.mem).store = t.mem.store := by rfl) : SameBytes f s (t.updMem g) :=
  h.trans ⟨.refl _, by rw [State.updMem_mem, hh], by rw [State.updMem_mem, hs]⟩

/-- Another part of the memory unit changes. -/
theorem SameBytes.updMemu (h : SameBytes f s t) {g : FieldMem → FieldMem} (hg : (t.memu f).SameLines (g (t.memu f))) :
    SameBytes f s (t.updMemu f g) :=
  h.trans ⟨by rw [State.memu_updMemu]; exact hg, rfl, rfl⟩

theorem SameBytes.ite {c : Prop} [Decidable c] (ha : c → SameBytes f s t) (hb : ¬ c → SameBytes f s u) :
    SameBytes f s (if c then t else u) := by
  split
  · exact ha ‹_›
  · exact hb ‹_›

theorem SameBytes.hbmByte (h : SameBytes f s t) (b : Nat) : t.hbmByte f b = s.hbmByte f b := by
  rw [State.hbmByte, h.lines.resident, h.hbm]
  rfl

theorem SameBytes.linesWhole (h : SameBytes f s t) (hw : s.linesWhole f) : t.linesWhole f := by
  unfold State.linesWhole
  rw [h.lines.absorber, h.lines.lost]
  exact hw

/-! ### Half-lines -/

theorem State.markCur_sameBytes (a : Nat) (h : SameBytes f s t) : SameBytes f s (t.markCur f a) :=
  h.updMemu (by split <;> exact ⟨rfl, rfl, rfl⟩)

theorem State.rowCorrected_sameBytes (r : HbmRow) (inj : Bool) (h : SameBytes f s t) : SameBytes f s (t.rowCorrected f r inj) := by
  unfold State.rowCorrected
  extract_lets tab c rest tab' tab'' t1
  have h1 : SameBytes f s t1 := h.updMemu ⟨rfl, rfl, FieldMem.lost_of rfl rfl⟩
  exact .ite (fun _ => h1.only (State.repairLog_only _ f r 1 inj (Fits.refl _) trivial)) (fun _ => h1)

/-- A read of a half-line, whatever error it finds (R238, R242). -/
theorem State.ctrlReadHalf_sameBytes (k src : Nat) (h : SameBytes f s t) : SameBytes f s (t.ctrlReadHalf f k src).1 := by
  unfold State.ctrlReadHalf
  extract_lets l st t0 e data
  split
  · exact h
  have h0 : SameBytes f s t0 := by
    have hfire := h.only (State.injFire_only _ f injMem (Fits.refl _) trivial)
    exact .ite (fun _ => hfire.updMem) (fun _ => .ite (fun _ => hfire.updMem) (fun _ => h))
  have hcount : ∀ c r, SameBytes f s (((t0.updMem (fun m => m.setHbmErr f k c)).fcount f r).healthInput f (errInjected e)) := fun c r =>
    (h0.updMem.only (State.fcount_only f r _ _ _ (Fits.refl _) trivial) rfl).only
      (State.healthInput_only _ f _ (Fits.refl _) trivial)
  split
  · exact h0
  · exact State.rowCorrected_sameBytes _ _ (hcount 0 _)
  · exact State.markCur_sameBytes _ ((((hcount 3 _).only (State.fset_only f _ _ _ _ (Fits.refl _) trivial)).only
      (State.raise_only _ f _ _ _ (Fits.refl _))).only (State.repairLog_only _ f _ _ _ (Fits.refl _) trivial))
  · exact h0

theorem State.ctrlReadHalf_length (s : State) (f : FieldId) (k src : Nat) : (s.ctrlReadHalf f k src).2.1.length = 64 := by
  unfold State.ctrlReadHalf
  extract_lets l st s0 e data
  have hdata : data.length = 64 := Mem.read_length _ _ _
  split
  · exact List.length_replicate
  split
  · exact hdata
  · exact hdata
  · exact List.length_replicate
  · exact List.length_replicate

end Sys2Proof.Machine
end

section
/-! Lines that come into the absorber and leave it (R240, R422): which lines are resident after, and that they are whole. -/

namespace Sys2Proof.Machine

set_option Elab.async false

open Sys2Proof

variable {s t : State} {f : FieldId} {l a n src : Nat} {x y : AbsLine}

/-! ### A line and the runs merged into it -/

theorem AbsLine.merge_length (off : Nat) (new : List Byte) (bad : Bool) (h : x.data.length = 128) :
    (x.merge off new bad).data.length = 128 := by
  unfold AbsLine.merge
  split
  · exact h
  extract_lets e wholeLo wholeHi pLo pHi d
  have hd : 128 ≤ d.length := by
    simp only [d, spliceBytes, List.length_append, List.length_take, List.length_drop]
    omega
  have hlo : (if pLo then x.data.take 64 else d.take 64).length = 64 := by
    split
    · rw [List.length_take]; omega
    · rw [List.length_take]; omega
  have hhi : 64 ≤ (if pHi then x.data.drop 64 else d.drop 64).length := by
    split
    · rw [List.length_drop]; omega
    · rw [List.length_drop]; omega
  rw [List.length_take, List.length_append]
  omega

theorem AbsLine.foldl_merge_whole (runs : List (Nat × List Byte)) (h : x.data.length = 128) :
    (runs.foldl (fun y r => y.merge r.1 r.2 false) x).data.length = 128 ∧ (runs.foldl (fun y r => y.merge r.1 r.2 false) x).line = x.line := by
  induction runs generalizing x with
  | nil => exact ⟨h, rfl⟩
  | cons r runs ih =>
    obtain ⟨hlen, hline⟩ := ih (AbsLine.merge_length r.1 r.2 false h)
    exact ⟨hlen, hline.trans (AbsLine.merge_line _ _ _ _)⟩

theorem AbsLine.mergeRuns_length (runs : List (Nat × List Byte)) (bad : Bool) (h : x.data.length = 128) :
    (x.mergeRuns runs bad).data.length = 128 := by
  unfold AbsLine.mergeRuns
  split
  · exact AbsLine.merge_length _ _ _ h
  · exact (AbsLine.foldl_merge_whole runs h).1

theorem AbsLine.mergeRuns_line (runs : List (Nat × List Byte)) (bad : Bool) (h : x.data.length = 128) :
    (x.mergeRuns runs bad).line = x.line := by
  unfold AbsLine.mergeRuns
  split
  · exact AbsLine.merge_line _ _ _ _
  · exact (AbsLine.foldl_merge_whole runs h).2

/-! ### The absorber -/

theorem State.absorberFlush_memu (s : State) (f : FieldId) (l : Nat) :
    (s.absorberFlush f l).memu f = { s.memu f with absorber := (s.memu f).absorber.filter (fun y => y.line ≠ l) } := by
  unfold State.absorberFlush
  split
  next hr =>
    have hnone : (s.memu f).absorber.filter (fun y => y.line ≠ l) = (s.memu f).absorber :=
      List.filter_eq_self.mpr (fun y hy => by simpa using List.find?_eq_none.mp hr y hy)
    rw [hnone]
  next x hr => rw [State.ctrlWriteHalf_memu, State.ctrlWriteHalf_memu, State.memu_updMemu]

/-- The lines that make room for line x. -/
def FieldMem.kept (m : FieldMem) (x : AbsLine) : List AbsLine :=
  if (m.resident x.line).isNone && decide (absorberLines ≤ m.absorber.length) then
    match m.absorber with
    | [] => []
    | y :: _ => m.absorber.filter (fun z => z.line ≠ y.line)
  else m.absorber

theorem State.absorberPut_memu (s : State) (f : FieldId) (x : AbsLine) :
    (s.absorberPut f x).memu f =
      { s.memu f with absorber := ((s.memu f).kept x).filter (fun y => y.line ≠ x.line) ++ [x] } := by
  unfold State.absorberPut FieldMem.kept
  extract_lets m s1
  rw [State.memu_updMemu]
  dsimp only [s1, m]
  split
  · cases hm : (s.memu f).absorber with
    | nil => simp only [hm]
    | cons y ys => simp only [State.absorberFlush_memu, hm]
  · rfl

theorem FieldMem.kept_subset (m : FieldMem) (x : AbsLine) : m.kept x ⊆ m.absorber := by
  unfold FieldMem.kept
  split
  · cases hm : m.absorber with
    | nil => exact fun _ h => h
    | cons y ys => exact fun _ h => (List.mem_filter.mp h).1
  · exact fun _ h => h

/-- A place is free for a line once another is evicted, or it is resident itself (R422). -/
theorem FieldMem.kept_room {m : FieldMem} (h : m.absorber.length ≤ absorberLines) (x : AbsLine) :
    ((m.kept x).filter (fun y => y.line ≠ x.line)).length < absorberLines := by
  unfold FieldMem.kept
  split
  next hfull =>
    cases hm : m.absorber with
    | nil => exact Nat.zero_lt_succ _
    | cons y ys =>
      have hy : ((y :: ys).filter (fun z => z.line ≠ y.line)).length ≤ ys.length := by
        rw [List.filter_cons_of_neg (by simp)]
        exact List.length_filter_le _ _
      have hle := List.length_filter_le (fun z : AbsLine => decide (z.line ≠ x.line)) ((y :: ys).filter (fun z => z.line ≠ y.line))
      rw [hm, List.length_cons] at h
      dsimp only
      omega
  next hroom =>
    rcases Nat.lt_or_ge m.absorber.length absorberLines with hlt | hge
    · exact Nat.lt_of_le_of_lt (List.length_filter_le _ _) hlt
    · have hres : (m.resident x.line).isSome := by
        cases hr : m.resident x.line with
        | some y => rfl
        | none => exact absurd (by simp [hr, hge]) hroom
      obtain ⟨y, hy⟩ := Option.isSome_iff_exists.mp hres
      have hlt := (List.length_filter_lt_length_iff_exists (p := fun z : AbsLine => decide (z.line ≠ x.line))).mpr
        ⟨y, FieldMem.mem_of_resident hy, by simp [FieldMem.line_of_resident hy]⟩
      exact Nat.lt_of_lt_of_le hlt h

/-- What line x put into the absorber leaves resident. -/
theorem State.mem_absorberPut (h : y ∈ ((s.absorberPut f x).memu f).absorber) : y = x ∨ y ∈ (s.memu f).absorber := by
  rw [State.absorberPut_memu] at h
  simp only [List.mem_append, List.mem_filter, List.mem_singleton] at h
  exact h.symm.imp id (fun h' => FieldMem.kept_subset _ _ h'.1)

theorem State.absorberPut_lost (s : State) (f : FieldId) (x : AbsLine) : ((s.absorberPut f x).memu f).lost = (s.memu f).lost := by
  rw [State.absorberPut_memu]
  exact FieldMem.lost_of rfl rfl

/-- A whole line of a stack that responds leaves the lines whole. -/
theorem State.linesWhole.absorberPut (hw : s.linesWhole f) (hlen : x.data.length = 128) (hlost : (s.memu f).lost (lineStack x.line) = false) :
    (s.absorberPut f x).linesWhole f := fun y hy => by
  rw [State.absorberPut_lost]
  rcases State.mem_absorberPut hy with rfl | hy
  · exact ⟨hlen, hlost⟩
  · exact hw y hy

theorem FieldMem.Sound.put {m : FieldMem} (h : m.Sound) (hlen : x.data.length = 128) (hlost : m.lost (lineStack x.line) = false) :
    FieldMem.Sound { m with absorber := (m.kept x).filter (fun y => y.line ≠ x.line) ++ [x] } where
  lines y hy := by
    simp only [List.mem_append, List.mem_filter, List.mem_singleton] at hy
    rcases hy with ⟨hy, -⟩ | rfl
    · exact h.lines y (FieldMem.kept_subset _ _ hy)
    · exact ⟨hlen, hlost⟩
  held := h.held
  absorber := by
    rw [List.length_append]
    exact FieldMem.kept_room h.absorber x
  rows := h.rows

/-! ### A line as it is read -/

/-- A line read past the absorber stands for itself, and whole (R422). -/
theorem State.rawLineRead_whole (hw : s.linesWhole f) (l src : Nat) :
    (s.rawLineRead f l src).2.line = l ∧ (s.rawLineRead f l src).2.data.length = 128 := by
  unfold State.rawLineRead
  split
  next x hr => exact ⟨FieldMem.line_of_resident hr, (hw x (FieldMem.mem_of_resident hr)).1⟩
  next =>
    exact ⟨rfl, by
      dsimp only
      rw [List.length_append, State.ctrlReadHalf_length, State.ctrlReadHalf_length]⟩

theorem FieldMem.mem_touched {m : FieldMem} (hx : x ∈ m.absorber) : y ∈ m.absorber.filter (fun z => z.line ≠ x.line) ++ [x] → y ∈ m.absorber := by
  simp only [List.mem_append, List.mem_filter, List.mem_singleton]
  rintro (⟨hy, -⟩ | rfl)
  · exact hy
  · exact hx

theorem State.linesWhole.rawLineRead (hw : s.linesWhole f) (l src : Nat) : (s.rawLineRead f l src).1.linesWhole f := by
  unfold State.rawLineRead
  split
  next x hr =>
    intro y hy
    rw [State.absorberTouch, State.memu_updMemu] at hy ⊢
    exact hw y (FieldMem.mem_touched (FieldMem.mem_of_resident hr) hy)
  next => exact (State.ctrlReadHalf_sameBytes _ _ (State.ctrlReadHalf_sameBytes _ _ (.refl f s))).linesWhole hw

theorem State.rawLineRead_lost (s : State) (f : FieldId) (l src : Nat) :
    ((s.rawLineRead f l src).1.memu f).lost = (s.memu f).lost := by
  unfold State.rawLineRead
  split
  next x hr =>
    rw [State.absorberTouch, State.memu_updMemu]
    exact FieldMem.lost_of rfl rfl
  next => exact (State.ctrlReadHalf_sameBytes _ _ (State.ctrlReadHalf_sameBytes _ _ (.refl f s))).lines.lost

end Sys2Proof.Machine
end

section
/-! Reads and writes of HBM keep the lists of a memory unit (R235, R237 to R246, R422). -/

namespace Sys2Proof.Machine

set_option Elab.async false

open Sys2Proof

variable {s t : State} {f : FieldId} {l a n src : Nat} {x y : AbsLine} {runs : List (Nat × List Byte)} {bad : Bool}

/-! ### Lines stay whole -/

/-- A write that takes effect on a stack that responds (R235, R240). -/
theorem State.linesWhole.lineApply (hw : s.linesWhole f) (hlost : (s.memu f).lost (lineStack l) = false) :
    (s.lineApply f l runs bad src).linesWhole f := by
  unfold State.lineApply
  extract_lets whole
  split
  next s1 x hsrc =>
    extract_lets s2
    have hline : s1.linesWhole f ∧ (s1.memu f).lost = (s.memu f).lost ∧ x.line = l ∧ x.data.length = 128 := by
      split at hsrc
      next y hr =>
        cases hsrc
        have hsame : SameBytes f s (s.fwrap f Reg.GWY_STAT.ABSORBED) :=
          (SameBytes.refl f s).only (State.fwrap_only f _ _ _ _ (Fits.refl _) trivial)
        exact ⟨hsame.linesWhole hw, hsame.lines.lost, FieldMem.line_of_resident hr, (hw x (FieldMem.mem_of_resident hr)).1⟩
      next hr =>
        split at hsrc
        · cases hsrc
          exact ⟨hw, rfl, rfl, List.length_replicate⟩
        · obtain ⟨rfl, rfl⟩ := Prod.ext_iff.mp hsrc
          exact ⟨hw.rawLineRead l src, State.rawLineRead_lost s f l src, State.rawLineRead_whole hw l src⟩
    obtain ⟨hw1, hlost1, hl, hlen⟩ := hline
    have hs2 : SameBytes f s1 s2 :=
      .ite (fun _ => (SameBytes.refl f s1).only (State.fcount_only f _ _ _ _ (Fits.refl _) trivial)) (fun _ => .refl f s1)
    have hput : (s2.absorberPut f (x.mergeRuns runs bad)).linesWhole f :=
      (hs2.linesWhole hw1).absorberPut (AbsLine.mergeRuns_length runs bad hlen)
        (by rw [AbsLine.mergeRuns_line runs bad hlen, hl, hs2.lines.lost, hlost1]; exact hlost)
    exact (State.markCur_sameBytes _ (.refl f _)).linesWhole hput

theorem State.linesWhole.lineRuns (hw : s.linesWhole f) : (s.lineRuns f l runs bad src).1.linesWhole f := by
  unfold State.lineRuns
  extract_lets m
  split
  · exact hw
  next hlost =>
    split
    · intro y hy
      rw [State.memu_updMemu] at hy ⊢
      exact hw y hy
    · exact hw.lineApply (Bool.eq_false_of_not_eq_true hlost)

theorem State.linesWhole.hbmWriteLoop {new : List Byte} (hw : s.linesWhole f) : (s.hbmWriteLoop f a new bad src n).1.linesWhole f := by
  induction n generalizing s a new with
  | zero => exact hw
  | succ n ih =>
    unfold State.hbmWriteLoop
    split
    · exact hw
    · exact ih hw.lineRuns

/-! ### The lists keep within their places -/

theorem State.Bounded.fcount {r : RegField} {d i j : Nat} (h : s.Bounded) : (s.fcount f r d i j).Bounded :=
  h.only (State.fcount_only f r d i j (Fits.refl _) trivial) rfl

theorem State.Bounded.fwrap {r : RegField} {d i j : Nat} (h : s.Bounded) : (s.fwrap f r d i j).Bounded :=
  h.only (State.fwrap_only f r d i j (Fits.refl _) trivial) rfl

theorem State.Bounded.fset {r : RegField} {v i j : Nat} (h : s.Bounded) : (s.fset f r v i j).Bounded :=
  h.only (State.fset_only f r v i j (Fits.refl _) trivial) rfl

theorem State.Bounded.raise {e : EvKind} {items : List (Nat × Nat)} {inj : Bool} (h : s.Bounded) : (s.raise f e items inj).Bounded :=
  h.only (State.raise_only s f e items inj (Fits.refl _))

theorem State.Bounded.injFire {r : Nat} (h : s.Bounded) : (s.injFire f r).Bounded :=
  h.only (State.injFire_only s f r (Fits.refl _) trivial)

theorem State.Bounded.healthInput {inj : Bool} (h : s.Bounded) : (s.healthInput f inj).Bounded :=
  h.only (State.healthInput_only s f inj (Fits.refl _) trivial)

theorem State.Bounded.repairLog {r : HbmRow} {reason : Nat} {inj : Bool} (h : s.Bounded) : (s.repairLog f r reason inj).Bounded :=
  h.only (State.repairLog_only s f r reason inj (Fits.refl _) trivial)

/-- The row-error table drops its oldest row past 256 (R242). -/
theorem State.Bounded.rowCorrected {r : HbmRow} {inj : Bool} (h : s.Bounded) : (s.rowCorrected f r inj).Bounded := by
  unfold State.rowCorrected
  extract_lets tab c rest tab' tab'' s1
  have hrows : tab''.length ≤ 256 := by
    dsimp only [tab'']
    rw [List.length_drop]
    omega
  have h1 : s1.Bounded := h.updMemu_sound (g := fun m => { m with rowTab := tab'' }) ((h.memu f).of_lines ⟨rfl, rfl, FieldMem.lost_of rfl rfl⟩ (by
    dsimp only
    exact hrows))
  exact .ite (fun _ => h1.repairLog) (fun _ => h1)

theorem State.Bounded.markCur (h : s.Bounded) : (s.markCur f a).Bounded :=
  h.updMemu_sound (by split <;> exact (h.memu f).other)

theorem State.Bounded.ctrlReadHalf (h : s.Bounded) : (s.ctrlReadHalf f a src).1.Bounded := by
  unfold State.ctrlReadHalf
  extract_lets l st s0 e data
  split
  · exact h
  have h0 : s0.Bounded := .ite (fun _ => h.injFire.updMem) (fun _ => .ite (fun _ => h.injFire.updMem) (fun _ => h))
  split <;> dsimp only
  · exact h0
  · exact h0.updMem.fcount.healthInput.rowCorrected
  · exact h0.updMem.fcount.healthInput.fset.raise.repairLog.markCur
  · exact h0

theorem State.Bounded.ctrlWriteHalf {d : List Byte} (h : s.Bounded) : (s.ctrlWriteHalf f a d bad).Bounded :=
  .ite (fun _ => h) (fun _ => h.updMem)

theorem State.Bounded.absorberFlush (h : s.Bounded) : (s.absorberFlush f l).Bounded := by
  unfold State.absorberFlush
  have hm := h.memu f
  split
  · exact h
  · refine State.Bounded.ctrlWriteHalf (.ctrlWriteHalf (h.updMemu_sound ⟨fun y hy => hm.lines y (List.mem_filter.mp hy).1, hm.held, ?_, hm.rows⟩))
    exact (List.length_filter_le _ _).trans hm.absorber

/-- A whole line of a stack that responds finds its place (R422). -/
theorem State.Bounded.absorberPut (h : s.Bounded) (hlen : x.data.length = 128) (hlost : (s.memu f).lost (lineStack x.line) = false) :
    (s.absorberPut f x).Bounded := by
  have hsound : ((s.absorberPut f x).memu f).Sound := by
    rw [State.absorberPut_memu]
    exact (h.memu f).put hlen hlost
  have hrest : ∀ t : State, t.Bounded → (t.updMemu f (fun m => { m with absorber := m.absorber.filter (fun y => y.line ≠ x.line) ++ [x] })) =
      s.absorberPut f x → (s.absorberPut f x).Bounded := fun t ht e => by
    rw [← e] at hsound ⊢
    rw [State.memu_updMemu] at hsound
    exact ht.updMemu_sound hsound
  refine hrest _ (.ite (fun _ => ?_) (fun _ => h)) rfl
  split
  · exact h
  · exact h.absorberFlush

theorem State.Bounded.absorberTouch (h : s.Bounded) (hx : x ∈ (s.memu f).absorber) : (s.absorberTouch f x).Bounded := by
  have hm := h.memu f
  refine h.updMemu_sound ⟨fun y hy => hm.lines y (FieldMem.mem_touched hx hy), hm.held, ?_, hm.rows⟩
  have hlt := (List.length_filter_lt_length_iff_exists (p := fun z : AbsLine => decide (z.line ≠ x.line))).mpr ⟨x, hx, by simp⟩
  rw [List.length_append]
  exact Nat.le_trans hlt hm.absorber

theorem State.Bounded.rawLineRead (h : s.Bounded) : (s.rawLineRead f l src).1.Bounded := by
  unfold State.rawLineRead
  split
  next hr => exact h.absorberTouch (FieldMem.mem_of_resident hr)
  next => exact h.ctrlReadHalf.ctrlReadHalf

theorem State.Bounded.lineApply (h : s.Bounded) (hlost : (s.memu f).lost (lineStack l) = false) :
    (s.lineApply f l runs bad src).Bounded := by
  unfold State.lineApply
  extract_lets whole
  split
  next s1 x hsrc =>
    extract_lets s2
    have hline : s1.Bounded ∧ (s1.memu f).lost = (s.memu f).lost ∧ x.line = l ∧ x.data.length = 128 := by
      split at hsrc
      next y hr =>
        cases hsrc
        exact ⟨h.fwrap, ((SameBytes.refl f s).only (State.fwrap_only f _ _ _ _ (Fits.refl _) trivial)).lines.lost,
          FieldMem.line_of_resident hr, (h.lines f x (FieldMem.mem_of_resident hr)).1⟩
      next hr =>
        split at hsrc
        · cases hsrc
          exact ⟨h, rfl, rfl, List.length_replicate⟩
        · obtain ⟨rfl, rfl⟩ := Prod.ext_iff.mp hsrc
          exact ⟨h.rawLineRead, State.rawLineRead_lost s f l src, State.rawLineRead_whole (h.lines f) l src⟩
    obtain ⟨h1, hlost1, hl, hlen⟩ := hline
    have hs2 : SameBytes f s1 s2 :=
      .ite (fun _ => (SameBytes.refl f s1).only (State.fcount_only f _ _ _ _ (Fits.refl _) trivial)) (fun _ => .refl f s1)
    have h2 : s2.Bounded := .ite (fun _ => h1.fcount) (fun _ => h1)
    exact (h2.absorberPut (AbsLine.mergeRuns_length runs bad hlen)
      (by rw [AbsLine.mergeRuns_line runs bad hlen, hl, hs2.lines.lost, hlost1]; exact hlost)).markCur

/-- A write to a line of a lost stack is neither applied nor held back (R235). -/
theorem State.Bounded.lineRuns (h : s.Bounded) : (s.lineRuns f l runs bad src).1.Bounded := by
  unfold State.lineRuns
  extract_lets m
  have hm := h.memu f
  split
  · exact h
  next hlost =>
    split
    · refine h.updMemu_sound (g := fun m => { m with held := m.held ++ [⟨l, runs, bad, src⟩] }) ⟨hm.lines, fun w hw => ?_, hm.absorber, hm.rows⟩
      rcases List.mem_append.mp hw with hw | hw
      · exact hm.held w hw
      · rw [List.mem_singleton.mp hw]
        exact Bool.eq_false_of_not_eq_true hlost
    · exact h.lineApply (Bool.eq_false_of_not_eq_true hlost)

theorem State.Bounded.lineWrite {new : List Byte} (h : s.Bounded) : (s.lineWrite f a new bad src).1.Bounded := h.lineRuns

theorem State.Bounded.lineRead (h : s.Bounded) : (s.lineRead f l src).1.Bounded := h.rawLineRead

theorem State.Bounded.hbmReadLoop (h : s.Bounded) {m : Nat} : (s.hbmReadLoop f a m src n).1.Bounded := by
  induction n generalizing s a m with
  | zero => exact h
  | succ n ih =>
    unfold State.hbmReadLoop
    split
    · exact h
    · exact ih h.lineRead

theorem State.Bounded.hbmRead {m : Nat} (h : s.Bounded) : (s.hbmRead f a m src).1.Bounded := h.hbmReadLoop

theorem State.Bounded.hbmWriteLoop {new : List Byte} (h : s.Bounded) : (s.hbmWriteLoop f a new bad src n).1.Bounded := by
  induction n generalizing s a new with
  | zero => exact h
  | succ n ih =>
    unfold State.hbmWriteLoop
    split
    · exact h
    · exact ih h.lineWrite

theorem State.Bounded.hbmWrite {new : List Byte} (h : s.Bounded) : (s.hbmWrite f a new bad src).1.Bounded := h.hbmWriteLoop

end Sys2Proof.Machine
end

section
/-! Plots keep the lists: the queue of tile operations, the completion log and the samples (R129, R155, R194 to R199). -/

namespace Sys2Proof.Machine

set_option Elab.async false

open Sys2Proof

variable {s t : State} {f : FieldId} {p : PlotId}

/-- What a read or a write of the memories answers beside its state is no matter. -/
theorem State.Bounded.fst_of {α : Type} {a : State × α} {b : α} (h : a.1.Bounded) (e : a = (s, b)) : s.Bounded := by
  subst e
  exact h

/-! ### Records of events (R607, R608) -/

theorem State.Bounded.msixCall {fn c : Nat} (h : s.Bounded) : (s.msixCall fn c).Bounded :=
  h.only (State.msixCall_only s fn c (Fits.refl _))

theorem State.Bounded.fieldRing {rcd : List Byte} {c : Nat} (h : s.Bounded) : (s.fieldRing f rcd c).Bounded := by
  unfold State.fieldRing
  exact .ite (fun _ => h) (fun _ => .ite (fun _ => h.fcount) (fun _ => (State.Bounded.ite (fun _ => h.hbmWrite) (fun _ => h)).fset.msixCall))

theorem State.Bounded.hubRing {rcd : List Byte} {c : Nat} (h : s.Bounded) : (s.hubRing rcd c).Bounded :=
  h.only (State.hubRing_only s rcd c (Fits.refl _))

theorem State.Bounded.forward {rcd : List Byte} {c : Nat} (h : s.Bounded) : (s.forward f rcd c).Bounded :=
  h.only (State.forward_only s f rcd c (Fits.refl _) trivial)

theorem State.Bounded.record {e : RaisedEvent} (h : s.Bounded) : (s.record e).Bounded := by
  unfold State.record
  split
  · exact h.updHub.hubRing
  · exact h.updHub.fieldRing.forward

theorem State.Bounded.drainLoop {n : Nat} (h : s.Bounded) : (s.drainLoop n).Bounded := by
  induction n generalizing s with
  | zero => exact h
  | succ n ih =>
    unfold State.drainLoop
    split
    · exact h
    · exact ih (State.Bounded.record (State.bounded_iff.mpr h.field))

/-- The records of the events raised leave the lists within their places. -/
theorem State.Bounded.drain (h : s.Bounded) : s.drain.Bounded := h.drainLoop

/-! ### The queue and the completion log (R194 to R199) -/

theorem State.Bounded.pset {k : RegField} {v : Nat} (h : s.Bounded) : (s.pset f p k v).Bounded :=
  h.only (State.pset_only f p k v (Fits.refl _) trivial trivial) rfl

theorem State.Bounded.pcount {k : RegField} {d : Nat} (h : s.Bounded) : (s.pcount f p k d).Bounded :=
  h.only (State.pcount_only f p k d (Fits.refl _) trivial trivial) rfl

/-- A completion that finds no place in the log is lost (R199). -/
theorem State.Bounded.logCompletion {qsn tag status seen unit : Nat} {int : Bool} (h : s.Bounded) : (s.logCompletion f p qsn tag status seen unit int).Bounded := by
  unfold State.logCompletion
  extract_lets s1 s2
  have hs2 : s2.Bounded := .ite (fun _ => h.pset) (fun _ => h.pset.pset.pset.pset)
  refine .ite (fun _ => hs2) (fun _ => .ite (fun hroom => ?_) (fun _ => hs2.pcount.pset))
  refine hs2.updPlot_sound ⟨hs2.queue f p, ?_, hs2.samples f p⟩
  rw [List.length_append]
  exact hroom

theorem State.Bounded.complete {e : QEntry} {status seen : Nat} (h : s.Bounded) : (s.complete f p e status seen).Bounded := by
  unfold State.complete
  exact (h.updPlot (List.length_filter_le _ _)).logCompletion

theorem State.Bounded.updEntry {qsn : Nat} {g : QEntry → QEntry} (h : s.Bounded) : (s.updEntry f p qsn g).Bounded := by
  unfold State.updEntry
  exact h.updPlot (Nat.le_of_eq (List.length_map _))

theorem State.Bounded.cqPop (h : s.Bounded) : (s.cqPop f p).Bounded := by
  unfold State.cqPop
  exact h.updPlot (hc := by simp)

theorem State.Bounded.injArithFire (h : s.Bounded) : (s.injArithFire f).Bounded :=
  h.only (State.injArithFire_only s f (Fits.refl _) trivial)

/-- An instruction that issues takes a place that is free (R155). -/
theorem State.Bounded.issue {op : QOp} {int : Bool} {claims : List Claim} {refusal : Option Nat} (h : s.Bounded) (hroom : (s.plot f p).queue.length < queueSize) : (s.issue f p op int claims refusal).Bounded := by
  unfold State.issue
  extract_lets e s1
  have h1 : s1.Bounded := h.updPlot
  split
  · exact h1.logCompletion
  next c s2 _ =>
    have hs2 : s2.Bounded := by
      refine h1.updPlot_sound ⟨?_, h1.log f p, h1.samples f p⟩
      dsimp only
      rw [List.length_append, State.plot_updPlot]
      exact hroom
    exact .ite (fun _ => hs2) (fun _ => hs2.injArithFire)

theorem State.Bounded.issueTmm {d md : Nat} {int : Bool} (h : s.Bounded)
    (hroom : (s.plot f p).queue.length < queueSize) : (s.issueTmm f p d md int).Bounded :=
  h.issue hroom

theorem State.Bounded.issueTvec {d md : Nat} {int : Bool} (h : s.Bounded)
    (hroom : (s.plot f p).queue.length < queueSize) : (s.issueTvec f p d md int).Bounded :=
  h.issue hroom

theorem State.Bounded.issueTxfer {d : Nat} (h : s.Bounded)
    (hroom : (s.plot f p).queue.length < queueSize) : (s.issueTxfer f p d).Bounded :=
  h.issue hroom

/-! ### Synchronisation and loads (R103, R221, R222) -/

theorem execTfenceStart_bounded (h : s.Bounded) : LeavesBounded (execTfenceStart f p s) := by
  unfold execTfenceStart
  refine .clocked h ?_
  split
  · exact .ite (fun _ => .finish h.complete) (fun _ => .next h)
  · exact .next h

theorem execTscdrainStart_bounded (h : s.Bounded) : LeavesBounded (execTscdrainStart f p s) := by
  unfold execTscdrainStart
  refine .clocked h ?_
  extract_lets P
  split
  · extract_lets before
    exact .ite (fun _ => .next h.updEntry) (fun _ => .next h)
  · exact .next h

theorem execTscdrainComplete_bounded (h : s.Bounded) : LeavesBounded (execTscdrainComplete f p s) := by
  unfold execTscdrainComplete
  refine .clocked h ?_
  extract_lets P
  split
  · exact .ite (fun _ => .finish h.complete) (fun _ => .next h)
  · exact .next h

theorem State.Bounded.pwrap {k : RegField} {d : Nat} (h : s.Bounded) : (s.pwrap f p k d).Bounded :=
  h.only (State.pwrap_only f p k d (Fits.refl _) trivial trivial) rfl

theorem State.Bounded.readColumns {d seed step : Nat} {w : Fmt} {c fuel : Nat} (h : s.Bounded) : (s.readColumns f p d seed step w c fuel).1.Bounded :=
  h.only (State.readColumns_only s f p d seed step w c fuel (Fits.refl _) trivial trivial)

theorem State.Bounded.classReports {tag : Option Nat} {cc : ClsCounts} {inj : Bool} (h : s.Bounded) : (s.classReports f p tag cc inj).Bounded :=
  h.only (State.classReports_only s f p tag cc inj (Fits.refl _) trivial trivial)

theorem execWeightLoad_bounded (h : s.Bounded) : LeavesBounded (execWeightLoad f p s) := by
  unfold execWeightLoad
  refine .clocked h ?_
  extract_lets P
  split
  · exact .next h
  · split
    · extract_lets before
      refine .ite (fun _ => .next h) (fun _ => ?_)
      refine .ite (fun _ => .next h.pwrap) (fun _ => ?_)
      split
      · exact .next h
      · dsimp only
        exact .finish (((State.Bounded.ite (fun _ => h.readColumns.injArithFire) (fun _ => h.readColumns)).classReports.updEntry).updPlot)
    · exact .next h

/-! ### Passes and samples (R86 to R97, R129, R130) -/

theorem State.Bounded.driftReport {tag n : Nat} {g : DriftRec → DriftRec} {inj : Bool} (h : s.Bounded) : (s.driftReport f tag n g inj).Bounded :=
  h.only (State.driftReport_only s f tag n g inj (Fits.refl _) trivial)

/-- A sample that finds 16 waiting is dropped (R129). -/
theorem State.Bounded.sampleOffer {x : Sample} (h : s.Bounded) : (s.sampleOffer f p x).Bounded := by
  unfold State.sampleOffer
  refine .ite (fun _ => h.driftReport) (fun hroom => ?_)
  extract_lets inj y s1
  have hs1 : s1.Bounded := .ite (fun _ => h.injArithFire) (fun _ => h)
  have hsame : (s1.plot f p).samples = (s.plot f p).samples := by
    dsimp only [s1]
    split
    · exact ((State.injArithFire_only (F := fun _ => True) (P := fun _ => True) s f (Fits.refl _) trivial (.refl _ _ _ s)).plot .samples f p
        (by decide +kernel) (.inl (by decide +kernel))).1
    · rfl
  refine hs1.updPlot_sound ⟨hs1.queue f p, hs1.log f p, ?_⟩
  dsimp only
  rw [List.length_append, hsame]
  exact Nat.lt_of_not_le hroom

theorem State.Bounded.sampleVisit {k : Nat} {x : Sample} (h : s.Bounded) : (s.sampleVisit f p k x).Bounded := by
  unfold State.sampleVisit
  exact .ite (fun _ => h.updPlot.sampleOffer) (fun _ => h.updPlot)

theorem State.Bounded.passColumn {t row c res : Nat} {ow nonsat : Bool} (h : s.Bounded) : (s.passColumn f p t row c ow nonsat res).1.Bounded :=
  h.only (State.passColumn_only s f p t row c ow nonsat res (Fits.refl _) trivial)

theorem State.Bounded.rowOutcome {t row tag passNo : Nat} {w : WitOutcome} {injected bounded : Bool} (h : s.Bounded) :
    (s.rowOutcome f p t row tag passNo w injected bounded).Bounded :=
  h.only (State.rowOutcome_only s f p t row tag passNo w injected bounded (Fits.refl _) trivial trivial)

theorem State.Bounded.passColumns {x : PassCtx} {row c n : Nat} {am : List Nat} {hit : Option Nat} {a : PassAcc} {l : List (Nat × Cls)}
    (h : a.s.Bounded) : (passColumns x n row am hit a c l).s.Bounded := by
  induction l generalizing a c with
  | nil => exact h
  | cons e rest ih =>
    obtain ⟨res, k⟩ := e
    rw [Machine.passColumns]
    split
    next s1 kb e =>
      have h1 : s1.Bounded := h.passColumn.fst_of e
      have h2 : State.Bounded (if x.eligible then s1.sampleVisit x.f x.p (x.drift % 32)
          { p := res, am := am, wm := x.wm.getD c [], tag := tmmTag x.d, th := x.drift, injected := decide (hit = some c) } else s1) :=
        .ite (fun _ => h1.sampleVisit) (fun _ => h1)
      refine ih ?_
      split
      · exact h2
      · exact h2

theorem State.Bounded.passRowStep {x : PassCtx} {a : PassAcc} {i : Nat} (h : a.s.Bounded) : (passRowStep x a i).s.Bounded := by
  unfold Machine.passRowStep
  extract_lets d n row j
  split
  next s1 o bad e =>
    have h1 : s1.Bounded := State.Bounded.fst_of (b := (o, bad))
      (h.only (State.readOperand_only _ _ _ _ _ _ _ _ _ _ _ _ _ (Fits.refl _) trivial trivial)) e
    exact State.Bounded.rowOutcome (State.Bounded.passColumns h1)

theorem State.Bounded.passRun {e : QEntry} {d md : Nat} (h : s.Bounded) : (s.passRun f p e d md).Bounded := by
  unfold State.passRun
  extract_lets P fresh passNo
  split
  · exact h
  · extract_lets load eligible laneOn lane s0 wm x s1 a reported s2 s3
    have hs0 : s0.Bounded := .ite (fun _ => h.injArithFire) (fun _ => h)
    have hreported : reported.Bounded := by
      refine State.Bounded.classReports ?_
      refine State.Bounded.classReports ?_
      have hs1 : s1.Bounded := .ite (fun _ => hs0.updPlot) (fun _ => hs0)
      exact List.foldlRecOn (motive := fun a : PassAcc => a.s.Bounded) _ _ hs1 (fun _ ha _ _ => State.Bounded.passRowStep ha)
    exact hreported.pwrap.updPlot.updEntry

theorem State.Bounded.tokenAsk {start : Bool} (h : s.Bounded) : (s.tokenAsk f p start).Bounded :=
  h.only (State.tokenAsk_only s f p start (Fits.refl _) trivial)

theorem State.Bounded.rowEntered (h : s.Bounded) : (s.rowEntered f p).Bounded :=
  h.only (State.rowEntered_only s f p (Fits.refl _) trivial trivial)

theorem execTinePassStart_bounded (h : s.Bounded) : LeavesBounded (execTinePassStart f p s) := by
  unfold execTinePassStart
  refine .clocked h ?_
  split
  · exact .next h
  · exact .next h.pwrap
  · extract_lets s1
    exact .next (.ite (fun _ => h.pwrap.pwrap) (fun _ => h.pwrap))
  · exact .next h.pwrap
  · exact .ite (fun _ => .next h.pwrap.tokenAsk) (fun _ => .ite (fun _ => .next h) (fun _ => .finish h.rowEntered.passRun))

theorem State.Bounded.retirePoison {e : QEntry} {clears : Bool} (h : s.Bounded) : (s.retirePoison f p e clears).Bounded :=
  h.only (State.retirePoison_only s f p e clears (Fits.refl _) trivial)

theorem State.Bounded.mismatchEvent {e : QEntry} {d : Nat} {bounded : Bool} (h : s.Bounded) : (s.mismatchEvent f p e d bounded).Bounded :=
  h.only (State.mismatchEvent_only s f p e d bounded (Fits.refl _) trivial)

theorem State.Bounded.injClassReport {e : QEntry} (h : s.Bounded) : (s.injClassReport f p e).1.Bounded :=
  h.only (State.injClassReport_only s f p e (Fits.refl _) trivial trivial)

theorem execTinePassRetire_bounded (h : s.Bounded) : LeavesBounded (execTinePassRetire f p s) := by
  unfold execTinePassRetire
  refine .clocked h ?_
  extract_lets P
  split
  · exact .next h
  · split
    · refine .ite (fun _ => .next h) (fun _ => ?_)
      extract_lets w16 s1 s2 s3
      dsimp only
      exact .finish h.retirePoison.pwrap.mismatchEvent.injClassReport.complete
    · exact .next h

theorem State.Bounded.zeroRows {d md : Nat} (h : s.Bounded) : (s.zeroRows f p d md).Bounded :=
  h.only (State.zeroRows_only s f p d md (Fits.refl _) trivial)

theorem execDegenerateRetire_bounded (h : s.Bounded) : LeavesBounded (execDegenerateRetire f p s) := by
  unfold execDegenerateRetire
  refine .clocked h ?_
  extract_lets P
  split
  · exact .next h
  · split
    · extract_lets before
      refine .ite (fun _ => .next h) (fun _ => ?_)
      refine .ite (fun _ => .next h.pwrap) (fun _ => ?_)
      dsimp only
      exact .finish (((State.Bounded.ite (fun _ => h.zeroRows) (fun _ => h)).pwrap.injClassReport).complete)
    · exact .next h

theorem State.Bounded.sampleCount {x : Sample} (h : s.Bounded) : (s.sampleCount f x).Bounded :=
  h.only (State.sampleCount_only s f x (Fits.refl _) trivial)

theorem execSampleProcess_bounded (h : s.Bounded) : LeavesBounded (execSampleProcess f p s) := by
  unfold execSampleProcess
  refine .clocked h ?_
  extract_lets P
  refine .ite (fun _ => .next h) (fun _ => ?_)
  split
  · exact .next h
  next x xs hx => exact .finish (h.updPlot (hs := by
    rw [show (s.plot f p).samples = x :: xs from hx]
    exact Nat.le_succ _)).sampleCount

/-! ### Vector instructions (R213) -/

theorem State.Bounded.tvecWork {e : QEntry} {d md : Nat} (h : s.Bounded) : (s.tvecWork f p e d md).1.Bounded :=
  h.only (State.tvecWork_only s f p e d md (Fits.refl _) trivial trivial)

theorem State.Bounded.tvecRun {e : QEntry} {d md : Nat} (h : s.Bounded) : (s.tvecRun f p e d md).Bounded := by
  unfold State.tvecRun
  exact h.tvecWork.updEntry

theorem State.tvecStart_bounded {vop : Nat} (h : s.Bounded) : LeavesBounded (s.tvecStart f p vop) := by
  unfold State.tvecStart
  refine .clocked h ?_
  split
  · exact .next h
  · split
    · exact .ite (fun _ => .next h) (fun _ => .ite (fun _ => .next h.pwrap) (fun _ => .ite (fun _ => .next h.pwrap) (fun _ => .finish h.tvecRun)))
    · exact .next h

theorem execTvecComplete_bounded (h : s.Bounded) : LeavesBounded (execTvecComplete f p s) := by
  unfold execTvecComplete
  refine .clocked h ?_
  split
  · exact .next h
  · dsimp only
    exact .finish h.injClassReport.complete

end Sys2Proof.Machine
end

section
/-! What gateways, mirrors and ports share keeps the lists (R404 to R428, R475 to R490, R678). -/

namespace Sys2Proof.Machine

set_option Elab.async false

open Sys2Proof

variable {s t : State} {f : FieldId} {p : PlotId}

theorem State.Bounded.lineWriteMask {l mask : Nat} {data : List Byte} {poisoned : Bool} {src : Nat} (h : s.Bounded) : (s.lineWriteMask f l mask data poisoned src).1.Bounded := by
  unfold State.lineWriteMask
  exact h.lineRuns

theorem State.Bounded.storePoison {w fuel : Nat} (h : s.Bounded) : (s.storePoison f p w fuel).Bounded :=
  h.only (State.storePoison_only s f p w fuel (Fits.refl _) trivial)

theorem State.Bounded.storeWrite {a : Nat} {new : List Byte} {rq : Nat} {part : Bool} (h : s.Bounded) : (s.storeWrite f p a new rq part).Bounded :=
  h.only (State.storeWrite_only s f p a new rq part (Fits.refl _) trivial trivial)

theorem State.Bounded.targetWrite {a mask : Nat} {data : List Byte} {poisoned : Bool} {src : Nat} (h : s.Bounded) : (s.targetWrite f a mask data poisoned src).1.Bounded := by
  unfold State.targetWrite
  split
  · dsimp only
    exact h
  · exact h.lineWriteMask
  · exact .fst_ite (fun _ => h) (fun _ => .fst_ite (fun _ => h) (fun _ => .fst_ite (fun _ => h.storePoison) (fun _ => .foldl _ _ (fun _ _ _ h1 => h1.storeWrite) h)))

theorem State.Bounded.storeRead {a n rq : Nat} (h : s.Bounded) : (s.storeRead f p a n rq).1.Bounded :=
  h.only (State.storeRead_only s f p a n rq (Fits.refl _) trivial trivial)

theorem State.Bounded.targetRead {a src : Nat} (h : s.Bounded) : (s.targetRead f a src).1.Bounded := by
  unfold State.targetRead
  split
  · dsimp only
    exact h
  · exact h.lineRead
  · exact .fst_ite (fun _ => h) (fun _ => .fst_ite (fun _ => h) (fun _ => h.storeRead))

theorem State.Bounded.setFlowTx {node : Nat} {r : FlowTx} (h : s.Bounded) : (s.setFlowTx f node r).Bounded := by
  unfold State.setFlowTx
  exact h.updGw

theorem State.Bounded.setFlowRx {node : Nat} {r : FlowRx} (h : s.Bounded) : (s.setFlowRx f node r).Bounded := by
  unfold State.setFlowRx
  exact h.updGw

theorem State.Bounded.issuePacket {vc : Nat} {p : Packet} (h : s.Bounded) : (s.issuePacket f vc p).Bounded :=
  h.only (State.issuePacket_only s f vc p (Fits.refl _) trivial)

theorem State.Bounded.gwSend {l : GwLine} {p : Packet} (h : s.Bounded) : (s.gwSend f l p).Bounded := by
  unfold State.gwSend
  exact .ite (fun _ => (State.Bounded.ite (fun _ => h.injFire) (fun _ => h)).updGw) (fun _ => (State.Bounded.ite (fun _ => h.injFire) (fun _ => h)).updGw.issuePacket)

theorem State.Bounded.gwEnqueue {l : GwLine} (h : s.Bounded) : (s.gwEnqueue f l).Bounded := by
  unfold State.gwEnqueue
  exact .ite (fun _ => h.updGw.setFlowTx) (fun _ => .ite (fun _ => h.updGw) (fun _ => h.updGw.gwSend))

theorem State.Bounded.gwAccept {l : GwLine} (h : s.Bounded) : (s.gwAccept f l).Bounded := by
  unfold State.gwAccept
  exact .ite (fun _ => h.updGw) (fun _ => h.gwEnqueue)

theorem State.Bounded.xferDone {qsn line status : Nat} (h : s.Bounded) : (s.xferDone f p qsn line status).Bounded := by
  unfold State.xferDone
  exact h.updEntry

theorem State.Bounded.lineFinish {l : GwLine} {status : Nat} (h : s.Bounded) : (s.lineFinish f l status).Bounded := by
  unfold State.lineFinish
  extract_lets s1
  have h1 : s1.Bounded := h.updGw
  generalize l.owner = o
  cases o with
  | plot => exact h1.xferDone
  | gone => exact h1
  | none => exact h1
  | _ => exact h1.updGw

theorem State.Bounded.fenceAnswer {x : Fence} (h : s.Bounded) : (s.fenceAnswer f x).Bounded := by
  unfold State.fenceAnswer
  exact h.updGw.updEntry

theorem State.Bounded.fenceFlush {x : Fence} (h : s.Bounded) : (s.fenceFlush f x).Bounded := by
  unfold State.fenceFlush
  dsimp only
  exact (State.Bounded.foldl_fst _ _ _ (fun t d _ h1 => by
    dsimp only
    exact h1.gwEnqueue.updGw) h).updGw

theorem State.Bounded.fenceStep {qsn : Nat} (h : s.Bounded) : (s.fenceStep f p qsn).Bounded := by
  unfold State.fenceStep
  split
  · exact h
  · refine .ite (fun _ => ?_) (fun _ => .ite (fun _ => h.fenceAnswer) (fun _ => h))
    refine .ite (fun _ => ?_) (fun _ => h)
    extract_lets s1
    split
    · exact .ite (fun _ => h.fenceFlush.fenceAnswer) (fun _ => h.fenceFlush)
    · exact h.fenceFlush

theorem State.Bounded.fencesStep (h : s.Bounded) : (s.fencesStep f).Bounded := by
  unfold State.fencesStep
  exact .foldl _ _ (fun _ _ _ h1 => h1.fenceStep) h

theorem State.Bounded.raiseLimited {key : Nat} {e : EvKind} {items : List (Nat × Nat)} {injected : Bool} (h : s.Bounded) : (s.raiseLimited f key e items injected).Bounded :=
  h.only (State.raiseLimited_only s f key e items injected (Fits.refl _) trivial)

theorem State.Bounded.flowBreak {node firstSeq : Nat} (h : s.Bounded) : (s.flowBreak f node firstSeq).Bounded := by
  unfold State.flowBreak
  exact (State.Bounded.foldl _ _ (fun _ _ _ h1 => h1.lineFinish) h.setFlowTx).fcount.updGw.raiseLimited

theorem State.Bounded.readWaited {off : Nat} (h : s.Bounded) : (s.readWaited f off).Bounded :=
  h.only (State.readWaited_only s f off (Fits.refl _) trivial (fun _ => trivial))

theorem State.Bounded.fieldReads {off fuel : Nat} (h : s.Bounded) : (s.fieldReads f off fuel).1.Bounded :=
  h.only (State.fieldReads_only s f off fuel (Fits.refl _) trivial)

theorem State.Bounded.mgmtServe (h : s.Bounded) : (s.mgmtServe f).Bounded := by
  unfold State.mgmtServe
  split
  · exact h
  next m rest hq =>
    have hrest : rest.length ≤ mgmtQueue := by
      have hm := h.mgmt f
      rw [hq] at hm
      exact Nat.le_of_succ_le hm
    have hs := h.field f
    split
    · exact h.readWaited
    · exact (h.updField_sound (g := fun F => { F with mgmtq := rest }) ⟨hs.memu, hrest, hs.gw, hs.plots⟩).fieldReads.issuePacket

theorem State.Bounded.takeInbox {p : Packet} (h : s.Bounded) : (s.takeInbox f p).Bounded :=
  h.only (State.takeInbox_only s f p (Fits.refl _) trivial)

theorem execMgmtReadServe_bounded {arrive : Option Packet} (h : s.Bounded) : LeavesBounded (execMgmtReadServe f arrive s) := by
  unfold execMgmtReadServe
  refine .ite (fun _ => .next h) (fun _ => ?_)
  split
  · exact .finish h.mgmtServe
  · refine .ite (fun _ => .next h) (fun _ => ?_)
    extract_lets s1
    have h1 : s1.Bounded := h.takeInbox
    refine .ite (fun hroom => .next (h1.updField_sound ⟨h1.memu f, ?_, h1.gw f, h1.plot f⟩)) (fun _ => .next h1)
    rw [List.length_append]
    exact hroom

theorem State.Bounded.curAll (h : s.Bounded) : (s.curAll f).Bounded := by
  unfold State.curAll
  exact h.updMemu

theorem State.Bounded.mirLayoutSend {n : Nat} {restart : Bool} (h : s.Bounded) : (s.mirLayoutSend f n restart).Bounded := by
  unfold State.mirLayoutSend
  exact h.gwAccept

theorem State.Bounded.mirMarkSend {n epoch : Nat} (h : s.Bounded) : (s.mirMarkSend f n epoch).Bounded := by
  unfold State.mirMarkSend
  exact h.gwAccept

theorem State.Bounded.updMirSrc {g : MirSource → MirSource} (h : s.Bounded) : (s.updMirSrc f g).Bounded :=
  h.only (State.updMirSrc_only s f g (Fits.refl _) trivial)

theorem State.Bounded.mirFound {n : Nat} (h : s.Bounded) : (s.mirFound f n).Bounded := by
  unfold State.mirFound
  exact .ite (fun _ => (State.Bounded.ite (fun _ => h.updMirSrc.fset) (fun _ => h.updMirSrc)).curAll) (fun _ => h)

theorem State.Bounded.mirBreak {n : Nat} (h : s.Bounded) : (s.mirBreak f n).Bounded := by
  unfold State.mirBreak
  exact .ite (fun _ => h.raise.fcount.curAll) (fun _ => h.raise.fcount.curAll.mirLayoutSend)

theorem State.Bounded.granHash {granule addr : Nat} (h : s.Bounded) : (s.granHash f granule addr).1.Bounded := by
  unfold State.granHash
  generalize List.range granLines = ls
  generalize crcStart granule = c
  split
  next s1 c1 e =>
    refine State.Bounded.fst_of ?_ e
    exact State.Bounded.foldl_fst ls _ (s, c) (fun t a _ h1 => h1.lineRead) h

theorem State.Bounded.mirStore {a : Nat} {bs : List Byte} {poisoned : Bool} (h : s.Bounded) : (s.mirStore f a bs poisoned).1.Bounded := by
  unfold State.mirStore
  exact .fst_ite (fun _ => h.hbmWrite) (fun _ => h)

theorem State.Bounded.mirWrite {a : Nat} {bs : List Byte} {poisoned : Bool} (h : s.Bounded) : (s.mirWrite f a bs poisoned).Bounded := by
  unfold State.mirWrite
  exact h.mirStore

theorem State.Bounded.draw (h : s.Bounded) : s.draw.2.Bounded :=
  h.only (State.draw_only s (Fits.refl _))

theorem State.Bounded.journalHeader {n : Nat} (h : s.Bounded) : (s.journalHeader f n).Bounded := by
  unfold State.journalHeader
  exact h.draw.mirWrite

theorem State.Bounded.updSlot {n : Nat} {g : MirSlot → MirSlot} (h : s.Bounded) : (s.updSlot f n g).Bounded :=
  h.only (State.updSlot_only s f n g (Fits.refl _) trivial)

theorem State.Bounded.copyHash {n c : Nat} (h : s.Bounded) : (s.copyHash f n c).Bounded := by
  unfold State.copyHash
  extract_lets x
  split
  · exact h
  · dsimp only
    exact h.granHash.fset.updSlot.mirWrite.journalHeader

theorem State.Bounded.bufUsed {n : Nat} (h : s.Bounded) : (s.bufUsed f n).Bounded :=
  h.only (State.bufUsed_only s f n (Fits.refl _) trivial)

theorem State.Bounded.copyLine {n c off : Nat} {data : List Byte} {poisoned : Bool} (h : s.Bounded) : (s.copyLine f n c off data poisoned).1.Bounded := by
  unfold State.copyLine
  dsimp only
  exact h.updSlot.bufUsed.mirStore.copyHash

theorem State.Bounded.bufSlot {n : Nat} (h : s.Bounded) : (s.bufSlot f n).1.Bounded :=
  h.only (State.bufSlot_only s f n (Fits.refl _) trivial)

theorem State.Bounded.stageLine {n c off : Nat} {data : List Byte} {poisoned : Bool} (h : s.Bounded) : (s.stageLine f n c off data poisoned).1.Bounded := by
  unfold State.stageLine
  extract_lets x put
  split
  · exact h.mirStore
  · split
    next e =>
      dsimp only
      exact (h.bufSlot.fst_of e).updSlot.bufUsed.mirStore.mirWrite
    next e =>
      exact (h.bufSlot.fst_of e).fset.fset.raise.copyLine

theorem State.Bounded.mirPut {src addr : Nat} {data : List Byte} {poisoned : Bool} (h : s.Bounded) : (s.mirPut f src addr data poisoned).1.Bounded := by
  unfold State.mirPut
  split
  · dsimp only
    exact h
  · exact .fst_ite (fun _ => h) (fun _ => .fst_ite (fun _ => h) (fun _ => .fst_ite (fun _ => h.copyLine) (fun _ => .fst_ite (fun _ => h.stageLine) (fun _ => h))))

theorem State.Bounded.mirLayoutApply {src operand : Nat} {payload : List Byte} (h : s.Bounded) : (s.mirLayoutApply f src operand payload).1.Bounded := by
  unfold State.mirLayoutApply
  split
  · dsimp only
    exact h
  · extract_lets x st layout
    refine .fst_ite (fun _ => ?_) (fun _ => ?_)
    · exact h
    · refine .fst_ite (fun _ => h.fset.fset) (fun _ => ?_)
      dsimp only
      exact (State.Bounded.ite (fun _ => .ite (fun _ => h.updSlot.bufUsed) (fun _ => h.updSlot.bufUsed.fset.fset)) (fun _ => (State.Bounded.ite (fun _ => h.updSlot.bufUsed) (fun _ => h.updSlot.bufUsed.fset.fset)).fset)).journalHeader

theorem State.Bounded.applyStaged {n c b : Nat} (h : s.Bounded) : (s.applyStaged f n c b).Bounded := by
  unfold State.applyStaged
  dsimp only
  refine State.Bounded.copyHash (.foldl _ _ (fun _ _ _ h1 => ?_) h)
  exact h1.lineRead.mirWrite

theorem State.Bounded.mirMarkApply {src operand : Nat} (h : s.Bounded) : (s.mirMarkApply f src operand).1.Bounded := by
  unfold State.mirMarkApply
  extract_lets epoch
  split
  · dsimp only
    exact h
  · exact .fst_ite (fun _ => h) (fun _ => .fst_ite (fun _ => h) (fun _ => (State.Bounded.foldl _ _ (fun _ _ _ h1 => h1.applyStaged) h.fset.journalHeader).updSlot.bufUsed.fset.fset))

theorem State.Bounded.updMir {g : MirUnit → MirUnit} (h : s.Bounded) : (s.updMir f g).Bounded :=
  h.only (State.updMir_only s f g (Fits.refl _) trivial)

theorem State.Bounded.loadPull {src : Nat} (h : s.Bounded) : (s.loadPull f src).Bounded := by
  unfold State.loadPull
  exact h.fset.fset.updMir.gwAccept

theorem State.Bounded.loadEnd {state result : Nat} (h : s.Bounded) : (s.loadEnd f state result).Bounded :=
  h.only (State.loadEnd_only s f state result (Fits.refl _) trivial)

theorem State.Bounded.loadFail {code : Nat} (h : s.Bounded) : (s.loadFail f code).Bounded := by
  unfold State.loadFail
  exact .ite (fun _ => h) (fun _ => .ite (fun _ => h.fset.loadPull) (fun _ => h.loadEnd))

theorem State.Bounded.loadPut {addr : Nat} {data : List Byte} {poisoned : Bool} (h : s.Bounded) : (s.loadPut f addr data poisoned).1.Bounded := by
  unfold State.loadPut
  have h1 : (s.targetWrite f addr wholeMask data poisoned srcGateway).1.Bounded := h.targetWrite
  dsimp only
  exact .fst_ite (fun _ => h1) (fun _ => .fst_ite (fun _ => h1.updMir.fset.fset) (fun _ => by
    dsimp only
    exact h1.updMir))

theorem State.Bounded.mirDoneApply {src operand : Nat} (h : s.Bounded) : (s.mirDoneApply f src operand).1.Bounded := by
  unfold State.mirDoneApply
  exact .fst_ite (fun _ => h) (fun _ => .fst_ite (fun _ => h.loadEnd) (fun _ => h.loadFail))

theorem State.Bounded.bulkPut {src addr : Nat} {data : List Byte} {poisoned : Bool} (h : s.Bounded) : (s.bulkPut f src addr data poisoned).1.Bounded := by
  unfold State.bulkPut
  exact .fst_ite (fun _ => h.loadPut) (fun _ => h.mirPut)

theorem State.Bounded.pushEnd {n result : Nat} (h : s.Bounded) : (s.pushEnd f n result).Bounded :=
  h.only (State.pushEnd_only s f n result (Fits.refl _) trivial)

theorem State.Bounded.mirSettleOne {x : GwLine × Nat} (h : s.Bounded) : (s.mirSettleOne f x).Bounded := by
  unfold State.mirSettleOne
  dsimp only
  split
  · exact .ite (fun _ => .ite (fun _ => (State.Bounded.ite (fun _ => h) (fun _ => h.mirFound)).fset.fset) (fun _ => (State.Bounded.ite (fun _ => h) (fun _ => h.mirFound)).fset)) (fun _ => .ite (fun _ => h) (fun _ => h.mirFound))
  · exact .ite (fun _ => h) (fun _ => .ite (fun _ => h.pushEnd) (fun _ => h))
  · exact .ite (fun _ => h) (fun _ => h.loadFail)
  · exact h

theorem State.Bounded.mirBroken {key : Nat} (h : s.Bounded) : (s.mirBroken f key).Bounded := by
  unfold State.mirBroken
  extract_lets s1 s2
  have hs2 : s2.Bounded := .foldl _ _ (fun _ _ _ h1 => .ite (fun _ => h1.pushEnd) (fun _ => h1)) (.foldl _ _ (fun _ _ _ h1 => .ite (fun _ => h1.mirBreak) (fun _ => h1)) h)
  exact .ite (fun _ => hs2.loadFail) (fun _ => hs2)

theorem State.Bounded.mirSettle (h : s.Bounded) : (s.mirSettle f).Bounded := by
  unfold State.mirSettle
  exact .foldl _ _ (fun _ _ _ h1 => h1.mirBroken) (.foldl _ _ (fun _ _ _ h1 => h1.mirSettleOne) h.updGw)

end Sys2Proof.Machine
end

section
/-! Gateways keep the lists (R404 to R428). -/

namespace Sys2Proof.Machine

set_option Elab.async false

open Sys2Proof

variable {s t : State} {f : FieldId} {p : PlotId}

/-! ### What the queue of a gateway's flows holds (R410, R421) -/

theorem GatewayUnit.reserve_atomics (G : GatewayUnit) : G.reserve.atomics = G.atomics := by
  unfold GatewayUnit.reserve
  split <;> rfl

theorem GatewayUnit.reserve_queue (G : GatewayUnit) : G.reserve.queue = G.queue := by
  unfold GatewayUnit.reserve
  split <;> rfl

theorem GatewayUnit.leave_atomics (G : GatewayUnit) (src taken : Nat) : (G.leave src taken).atomics = G.atomics := by
  unfold GatewayUnit.leave
  extract_lets q
  split
  · exact GatewayUnit.reserve_atomics _
  · rfl

theorem GatewayUnit.leave_queue (G : GatewayUnit) (src taken : Nat) : (G.leave src taken).queue = G.queue.filter (fun x => x.src ≠ src) := by
  unfold GatewayUnit.leave
  extract_lets q
  split
  · exact GatewayUnit.reserve_queue _
  · rfl

theorem GatewayUnit.takeIn_atomics (G : GatewayUnit) (src : Nat) : (G.takeIn src).atomics = G.atomics := by
  unfold GatewayUnit.takeIn
  extract_lets q
  split
  · exact GatewayUnit.leave_atomics _ _ _
  · exact GatewayUnit.reserve_atomics _

theorem GatewayUnit.takeIn_queue_le (G : GatewayUnit) (src : Nat) : (G.takeIn src).queue.length ≤ G.queue.length := by
  unfold GatewayUnit.takeIn
  extract_lets q
  split
  · rw [GatewayUnit.leave_queue]
    exact List.length_filter_le _ _
  · rw [GatewayUnit.reserve_queue]
    exact Nat.le_of_eq (List.length_map _)

/-- The frame of an operation that leaves the gateways alone. -/
theorem State.gw_of_only {K : List Part} (ho : Only K (fun _ => True) (fun _ => True) s t) (hK : Part.covered K .gateway = false)
    (hK' : Part.covered K (.far .gateway) = false) (f : FieldId) : t.gw f = s.gw f :=
  (ho.same .gateway f hK' (.inl hK)).2.1

/-- The places of the queue change, and are no more. -/
theorem State.Bounded.updQueue {q : List QPlace} (h : s.Bounded) (hq : q.length ≤ queuePlaces) :
    (s.updGw f (fun G => { G with queue := q })).Bounded :=
  h.updField_sound (g := fun F => { F with gw := { F.gw with queue := q } }) ⟨h.memu f, h.mgmt f, ⟨h.atomics f, hq⟩, h.plot f⟩

theorem State.Bounded.respond {dst key : Nat} {hdr : RHdr} {payload : List Byte} (h : s.Bounded) : (s.respond f dst key hdr payload).Bounded :=
  h.only (State.respond_only s f dst key hdr payload (Fits.refl _) trivial)

theorem State.Bounded.sendAck {src : Nat} (h : s.Bounded) : (s.sendAck f src).Bounded := by
  unfold State.sendAck
  dsimp only
  exact h.updGw.respond

theorem State.Bounded.putFlowRx {src : Nat} {r : FlowRx} (h : s.Bounded) : (s.putFlowRx f src r).Bounded := by
  unfold State.putFlowRx
  exact h.setFlowRx.updGw (Nat.le_of_eq (congrArg List.length (GatewayUnit.reserve_atomics _)))
    (Nat.le_of_eq (congrArg List.length (GatewayUnit.reserve_queue _)))

theorem State.Bounded.redErase {R : RedLine} (h : s.Bounded) : (s.redErase f R).Bounded := by
  unfold State.redErase
  exact h.updGw (Nat.le_of_eq (congrArg List.length (GatewayUnit.reserve_atomics _)))
    (Nat.le_of_eq (congrArg List.length (GatewayUnit.reserve_queue _)))

theorem State.Bounded.placeAge {src : Nat} (h : s.Bounded) : (s.placeAge f src).1.Bounded := by
  unfold State.placeAge
  extract_lets q
  split
  · dsimp only
    exact h
  · refine h.updQueue ?_
    rw [List.length_map]
    exact h.flows f

theorem State.Bounded.queueEnter {src seq need : Nat} (h : s.Bounded) : (s.queueEnter f src seq need).1.Bounded := by
  unfold State.queueEnter
  extract_lets q s1
  have h1 : s1.Bounded := by
    refine .ite (fun _ => h.updQueue ?_) (fun _ => .ite (fun _ => h) (fun hroom => h.updQueue ?_))
    · rw [List.length_map]
      exact h.flows f
    · rw [List.length_append]
      exact Nat.lt_of_not_le hroom
  exact h1.placeAge

theorem State.Bounded.queueLeave {src : Nat} (h : s.Bounded) : (s.queueLeave f src).Bounded := by
  refine h.updGw (Nat.le_of_eq (congrArg List.length (GatewayUnit.leave_atomics _ _ _))) ?_
  rw [GatewayUnit.leave_queue]
  exact List.length_filter_le _ _

theorem State.Bounded.queueServed {src seq : Nat} (h : s.Bounded) : (s.queueServed f src seq).Bounded := by
  unfold State.queueServed
  extract_lets s1
  have h1 : s1.Bounded := by
    refine h.updGw (Nat.le_of_eq (congrArg List.length (GatewayUnit.reserve_atomics _))) ?_
    rw [GatewayUnit.reserve_queue, List.length_map]
  exact .ite (fun _ => h1.queueLeave) (fun _ => h1)

theorem State.Bounded.slotTake {src seq : Nat} (h : s.Bounded) : (s.slotTake f src seq).1.Bounded := by
  unfold State.slotTake
  extract_lets G r refuse
  have hrefuse : refuse.1.Bounded := h.queueEnter
  refine .fst_ite (fun _ => .fst_ite (fun _ => h) (fun _ => h)) (fun _ => ?_)
  split
  · exact .fst_ite (fun _ => h) (fun _ => hrefuse)
  · refine .fst_ite (fun _ => hrefuse) (fun _ => .fst_ite (fun _ => .fst_ite (fun _ => ?_) (fun _ => hrefuse)) (fun _ => .fst_ite (fun _ => h) (fun _ => hrefuse)))
    exact h.updGw (g := fun G => G.takeIn src) (Nat.le_of_eq (congrArg List.length (GatewayUnit.takeIn_atomics _ _)))
      (GatewayUnit.takeIn_queue_le _ _)

theorem State.Bounded.setRed {R : RedLine} (h : s.Bounded) : (s.setRed f R).Bounded := by
  unfold State.setRed
  exact h.updGw

theorem State.Bounded.redOverflow {R : RedLine} {ovf : List Nat} (h : s.Bounded) : (s.redOverflow f R ovf).Bounded :=
  h.only (State.redOverflow_only s f R ovf (Fits.refl _))

theorem State.Bounded.redCreate {may : Bool} {line typ allot : Nat} (h : s.Bounded) : (s.redCreate f may line typ allot).1.Bounded := by
  unfold State.redCreate
  exact .fst_ite (fun _ => h.injFire) (fun _ => .fst_ite (fun _ => h) (fun _ => h.lineRead.setRed.redOverflow))

theorem State.Bounded.redDefer {src seq need allot : Nat} (h : s.Bounded) : (s.redDefer f src seq need allot).1.Bounded := by
  unfold State.redDefer
  exact (State.Bounded.ite (fun _ => h.fwrap) (fun _ => h.fwrap.updGw.raise)).queueEnter

theorem State.Bounded.redFlush {R : RedLine} (h : s.Bounded) : (s.redFlush f R).Bounded := by
  unfold State.redFlush
  exact h.lineWrite.fwrap.setRed

theorem State.Bounded.applyReduce {p : Packet} (h : s.Bounded) : (s.applyReduce f p).1.Bounded := by
  unfold State.applyReduce
  extract_lets hdr line
  refine .fst_ite (fun _ => h) (fun _ => ?_)
  extract_lets
  split
  · exact .fst_ite (fun _ => h) (fun _ => .fst_ite (fun _ => h) (fun _ => h.setRed.redOverflow))
  · split
    next e =>
      exact (h.redCreate.fst_of e).setRed.redOverflow
    next e =>
      dsimp only
      exact (h.redCreate.fst_of e)

theorem State.Bounded.mirPullApply {src operand : Nat} (h : s.Bounded) : (s.mirPullApply f src operand).1.Bounded :=
  h.only (State.mirPullApply_only s f src operand (Fits.refl _) trivial)

theorem State.Bounded.applyLine {p : Packet} (h : s.Bounded) : (s.applyLine f p).1.Bounded := by
  unfold State.applyLine
  extract_lets hdr poisoned ofStatus
  refine .fst_ite (fun _ => ?_) (fun _ => ?_)
  · exact .fst_ite (fun _ => h.bulkPut) (fun _ => h.targetWrite)
  · exact .fst_ite (fun _ => h.targetWrite) (fun _ => .fst_ite (fun _ => h.applyReduce) (fun _ => .fst_ite (fun _ => h.mirMarkApply) (fun _ => .fst_ite (fun _ => h.mirLayoutApply) (fun _ => .fst_ite (fun _ => h.mirPullApply) (fun _ => h.mirDoneApply)))))

theorem State.Bounded.sendErrorAck {p : Packet} {status : Nat} (h : s.Bounded) : (s.sendErrorAck f p status).Bounded :=
  h.only (State.sendErrorAck_only s f p status (Fits.refl _) trivial)

theorem State.Bounded.lineApplied {src : Nat} {p : Packet} {status : Nat} (h : s.Bounded) : (s.lineApplied f src p status).Bounded := by
  unfold State.lineApplied
  exact .ite (fun _ => h.putFlowRx.sendErrorAck) (fun _ => h.putFlowRx.updGw)

theorem State.Bounded.lineDone {src : Nat} (h : s.Bounded) : (s.lineDone f src).Bounded := by
  unfold State.lineDone
  exact h.putFlowRx.updGw

theorem State.Bounded.sendDefer {p : Packet} {age : Nat} (h : s.Bounded) : (s.sendDefer f p age).Bounded :=
  h.only (State.sendDefer_only s f p age (Fits.refl _) trivial)

theorem State.Bounded.drainHeld {src n : Nat} (h : s.Bounded) : (s.drainHeld f src n).Bounded := by
  induction n generalizing s with
  | zero => exact h
  | succ n ih =>
    unfold State.drainHeld
    extract_lets r
    split
    · exact h
    · split
      · exact ih h.lineDone
      · split
        next e => exact ih (h.applyLine.fst_of e).lineApplied
        next e => exact h.applyLine.fst_of e
        next e => exact (h.applyLine.fst_of e).putFlowRx.redDefer.sendDefer

theorem State.Bounded.drainFlow {src : Nat} (h : s.Bounded) : (s.drainFlow f src).Bounded := by
  unfold State.drainFlow
  exact h.drainHeld

theorem State.Bounded.takeOrdered {p : Packet} (h : s.Bounded) : (s.takeOrdered f p).Bounded := by
  unfold State.takeOrdered
  extract_lets hdr r
  refine .ite (fun _ => h.sendAck) (fun _ => ?_)
  refine .ite (fun _ => ?_) (fun _ => ?_)
  · split
    next e =>
      exact (h.applyLine.fst_of e).queueServed.lineApplied.drainFlow
    next e =>
      exact (h.applyLine.fst_of e).queueServed.updGw
    next e =>
      exact (h.applyLine.fst_of e).redDefer.sendDefer
  · split
    next e =>
      exact (h.slotTake.fst_of e).setFlowRx
    next e =>
      exact (h.slotTake.fst_of e).sendDefer

theorem State.Bounded.lineSeen {src : Nat} (h : s.Bounded) : (s.lineSeen f src).Bounded := by
  unfold State.lineSeen
  exact h.updGw (hq := Nat.le_of_eq (List.length_map _))

theorem State.Bounded.orderedArrive {p : Packet} (h : s.Bounded) : (s.orderedArrive f p).Bounded := by
  unfold State.orderedArrive
  exact .ite (fun _ => h.injFire.sendDefer) (fun _ => .ite (fun _ => h) (fun _ => (State.Bounded.ite (fun _ => h.lineSeen.putFlowRx.queueLeave.updGw) (fun _ => h.lineSeen)).takeOrdered))

theorem State.Bounded.arrival {kind : Nat} {p : Packet} (h : s.Bounded) : (s.arrival f kind p).1.Bounded :=
  h.only (State.arrival_only s f kind p (Fits.refl _) trivial)

theorem State.orderedRow_bounded {kind : Nat} {p : Packet} (h : s.Bounded) : LeavesBounded (s.orderedRow f kind p) := by
  unfold State.orderedRow
  dsimp only
  exact .ite (fun _ => .finish h.arrival.orderedArrive.mirSettle) (fun _ => .finish h.arrival)

theorem State.Bounded.combMark {c : Nat × Nat × Nat} (h : s.Bounded) : (s.combMark f c).1.Bounded := by
  unfold State.combMark
  extract_lets r
  refine .fst_ite (fun _ => h) (fun _ => ?_)
  extract_lets
  refine .fst_ite (fun _ => h.queueServed.setFlowRx) (fun _ => ?_)
  split
  next e =>
    dsimp only
    exact (h.slotTake.fst_of e).queueServed.setFlowRx
  next e =>
    dsimp only
    exact (h.slotTake.fst_of e)

theorem State.Bounded.combEntry {may : Bool} {p : Packet} (h : s.Bounded) : (s.combEntry f may p).1.Bounded := by
  unfold State.combEntry
  extract_lets hdr
  refine .fst_ite (fun _ => h) (fun _ => ?_)
  split
  · exact .fst_ite (fun _ => h) (fun _ => h)
  · exact h.redCreate

theorem State.Bounded.sendDeferTo {src key typ fepoch seq txn age : Nat} (h : s.Bounded) : (s.sendDeferTo f src key typ fepoch seq txn age).Bounded :=
  h.only (State.sendDeferTo_only s f src key typ fepoch seq txn age (Fits.refl _) trivial)

theorem State.Bounded.combRefuse {p : Packet} {noEntry : Bool} {c : Nat × Nat × Nat} (h : s.Bounded) : (s.combRefuse f p noEntry c).Bounded := by
  unfold State.combRefuse
  extract_lets hdr
  refine .ite (fun _ => h.sendAck) (fun _ => ?_)
  extract_lets
  dsimp only
  refine State.Bounded.sendDeferTo ?_
  refine .fst_ite (fun _ => h) (fun _ => ?_)
  refine .fst_ite (fun _ => .fst_ite (fun _ => h.redDefer) (fun _ => h.placeAge)) (fun _ => ?_)
  split
  next e =>
    dsimp only
    exact (h.slotTake.fst_of e)
  · exact h.placeAge

theorem State.Bounded.combArrive {p : Packet} (h : s.Bounded) : (s.combArrive f p).Bounded := by
  unfold State.combArrive
  extract_lets cs s0
  have hs : s0.Bounded := .foldl _ _ (fun _ _ _ h1 => h1.lineSeen) h
  refine .ite (fun _ => .foldl _ _ (fun _ _ _ h1 => .ite (fun _ => h1.sendAck) (fun _ => h1.sendDeferTo)) hs.injFire.fcount) (fun _ => ?_)
  split
  next s1 ok he =>
    have h1 : s1.Bounded := by
      refine State.Bounded.fst_of (.foldl_fst _ _ _ (fun _ _ _ h1 => .fst_ite (fun _ => ?_) (fun _ => h1)) hs) he
      exact h1.combMark
    extract_lets noEntry s3
    split
    next s2 e he =>
      have h2 : s2.Bounded := State.Bounded.fst_of (.fst_ite (fun _ => h1.combEntry) (fun _ => hs)) he
      split
      · exact .foldl _ _ (fun _ _ _ h1 => h1.drainFlow) h2.setRed.redOverflow.fwrap
      next s3 _ _ =>
        have h3 : s3.Bounded := .ite (fun _ => hs.injFire) (fun _ => hs)
        exact .foldl _ _ (fun _ _ _ h1 => h1.combRefuse) h3.fcount

theorem execPutReduceComb_bounded {pkt : Packet} (h : s.Bounded) : LeavesBounded (execPutReduceComb f pkt s) := by
  unfold execPutReduceComb
  refine .inRim h ?_
  dsimp only
  exact .ite (fun _ => .finish h.arrival.combArrive) (fun _ => .finish h.arrival)

theorem execPutReduceResume_bounded (h : s.Bounded) : LeavesBounded (execPutReduceResume f s) := by
  unfold execPutReduceResume
  refine .inRim h ?_
  extract_lets G ws s1
  refine .finish ?_
  refine .foldl _ _ (fun t a _ h1 => ?_) (.foldl _ _ (fun _ _ _ h1 => h1.takeOrdered) h.updGw)
  split
  · exact h1.drainFlow
  · exact h1

theorem execGet_bounded {pkt : Packet} (h : s.Bounded) : LeavesBounded (execGet f pkt s) := by
  unfold execGet
  refine .inRim h ?_
  dsimp only
  refine .ite (fun _ => .finish h.arrival) (fun _ => ?_)
  exact .finish h.arrival.targetRead.respond

theorem execMcastPut_bounded {pkt : Packet} (h : s.Bounded) : LeavesBounded (execMcastPut f pkt s) := by
  unfold execMcastPut
  refine .inRim h ?_
  dsimp only
  refine .ite (fun _ => .finish h.arrival) (fun _ => ?_)
  exact .finish h.arrival.targetWrite.respond

theorem State.Bounded.atomicPerform {p : Packet} (h : s.Bounded) : (s.atomicPerform f p).1.Bounded := by
  unfold State.atomicPerform
  exact .fst_ite (fun _ => h) (fun _ => .fst_ite (fun _ => h.hbmRead) (fun _ => h.hbmRead.hbmWrite))

theorem State.Bounded.atomicAnswer {p : Packet} {a : AtomicResp} (h : s.Bounded) : (s.atomicAnswer f p a).Bounded :=
  h.only (State.atomicAnswer_only s f p a (Fits.refl _) trivial)

theorem State.Bounded.atomicArrive {p : Packet} (h : s.Bounded) : (s.atomicArrive f p).Bounded := by
  unfold State.atomicArrive
  extract_lets hdr G
  split
  · exact h.atomicAnswer
  · refine .ite (fun _ => h.sendDefer) (fun hroom => ?_)
    have hsame : (s.atomicPerform f p).1.gw f = s.gw f :=
      State.gw_of_only (State.atomicPerform_only s f p (Fits.refl _) trivial (.refl _ _ _ s)) (by decide +kernel) (by decide +kernel) f
    have h1 : (s.atomicPerform f p).1.Bounded := h.atomicPerform
    generalize s.atomicPerform f p = r at hsame h1 ⊢
    obtain ⟨s1, a⟩ := r
    refine State.Bounded.atomicAnswer (h1.updField_sound ⟨h1.memu f, h1.mgmt f, ⟨?_, h1.flows f⟩, h1.plot f⟩)
    rw [List.length_append]
    refine Nat.lt_of_le_of_lt (List.length_filter_le _ _) ?_
    rw [show (s1.field f).gw = s.gw f from hsame]
    exact Nat.lt_of_not_le hroom

theorem execFetchAdd_bounded {pkt : Packet} (h : s.Bounded) : LeavesBounded (execFetchAdd f pkt s) := by
  unfold execFetchAdd
  refine .inRim h ?_
  dsimp only
  exact .ite (fun _ => .finish h.arrival.atomicArrive) (fun _ => .finish h.arrival)

theorem execCompareSwap_bounded {pkt : Packet} (h : s.Bounded) : LeavesBounded (execCompareSwap f pkt s) := by
  unfold execCompareSwap
  refine .inRim h ?_
  dsimp only
  exact .ite (fun _ => .finish h.arrival.atomicArrive) (fun _ => .finish h.arrival)

theorem execFlushReq_bounded {pkt : Packet} (h : s.Bounded) : LeavesBounded (execFlushReq f pkt s) := by
  unfold execFlushReq
  refine .inRim h ?_
  dsimp only
  exact .ite (fun _ => .finish h.arrival) (fun _ => .finish ((State.Bounded.foldl _ _ (fun _ _ _ h1 => h1.redFlush) h.arrival).respond))

theorem State.Bounded.redRelease {id : Nat} (h : s.Bounded) : (s.redRelease f id).Bounded := by
  unfold State.redRelease
  exact .foldl _ _ (fun _ _ _ h1 => h1.redFlush.redErase) h

theorem execAgeTokenTimeout_bounded {src : Nat} (h : s.Bounded) : LeavesBounded (execAgeTokenTimeout f src s) := by
  unfold execAgeTokenTimeout
  refine .inRim h ?_
  split
  · exact .ite (fun _ => .next h.queueLeave) (fun _ => .next h)
  · exact .next h

theorem State.Bounded.gwSettle (h : s.Bounded) : (s.gwSettle f).Bounded := by
  unfold State.gwSettle
  exact h.fencesStep.mirSettle

theorem State.Bounded.ackApply {p : Packet} (h : s.Bounded) : (s.ackApply f p).Bounded := by
  unfold State.ackApply
  exact .ite (fun _ => h) (fun _ => .foldl _ _ (fun _ _ _ h1 => h1.lineFinish) h.setFlowTx)

theorem execAck_bounded {pkt : Packet} (h : s.Bounded) : LeavesBounded (execAck f pkt s) := by
  unfold execAck
  refine .inRim h ?_
  dsimp only
  exact .ite (fun _ => .finish h.arrival.ackApply.gwSettle) (fun _ => .finish h.arrival)

theorem execDefer_bounded {pkt : Packet} (h : s.Bounded) : LeavesBounded (execDefer f pkt s) := by
  unfold execDefer
  refine .inRim h ?_
  dsimp only
  exact .ite (fun _ => .finish h.arrival) (fun _ => .next h.arrival.fwrap.updGw)

theorem State.Bounded.lineLocal {l : GwLine} {data : List Byte} {old : Nat} {poisoned : Bool} (h : s.Bounded) : (s.lineLocal f l data old poisoned).Bounded :=
  h.only (State.lineLocal_only s f l data old poisoned (Fits.refl _) trivial (fun _ => trivial))

theorem execGetResp_bounded {pkt : Packet} (h : s.Bounded) : LeavesBounded (execGetResp f pkt s) := by
  unfold execGetResp
  refine .inRim h ?_
  dsimp only
  split
  · exact .ite (fun _ => .finish h.arrival) (fun _ => .ite (fun _ => .finish h.arrival.lineLocal.lineFinish.gwSettle) (fun _ => .finish h.arrival.lineFinish.gwSettle))
  · exact .finish h.arrival

theorem execAtomicResp_bounded {pkt : Packet} (h : s.Bounded) : LeavesBounded (execAtomicResp f pkt s) := by
  unfold execAtomicResp
  refine .inRim h ?_
  dsimp only
  split
  · exact .ite (fun _ => .finish h.arrival) (fun _ => .ite (fun _ => .finish h.arrival.lineLocal.lineFinish.gwSettle) (fun _ => .finish h.arrival.lineFinish.gwSettle))
  · exact .finish h.arrival

theorem execFlushAck_bounded {pkt : Packet} (h : s.Bounded) : LeavesBounded (execFlushAck f pkt s) := by
  unfold execFlushAck
  refine .inRim h ?_
  dsimp only
  split
  · exact .ite (fun _ => .finish h.arrival.lineFinish.gwSettle) (fun _ => .finish h.arrival)
  · exact .finish h.arrival

theorem State.Bounded.memberDone {l : GwLine} {c status : Nat} (h : s.Bounded) : (s.memberDone f l c status).Bounded := by
  unfold State.memberDone
  exact .ite (fun _ => h.updGw.lineFinish) (fun _ => h.updGw)

theorem execMcAck_bounded {pkt : Packet} (h : s.Bounded) : LeavesBounded (execMcAck f pkt s) := by
  unfold execMcAck
  refine .inRim h ?_
  dsimp only
  split
  · exact .ite (fun _ => .finish h.arrival.memberDone.gwSettle) (fun _ => .finish h.arrival)
  · exact .finish h.arrival

theorem State.Bounded.fatalFail {l : GwLine} (h : s.Bounded) : (s.fatalFail f l).Bounded := by
  unfold State.fatalFail
  exact (State.Bounded.ite (fun _ => h.lineLocal.fcount.raise) (fun _ => h.lineLocal.fcount.raise.fset.fset.fset.fset.fset.fset)).lineFinish

theorem State.Bounded.requestFail {l : GwLine} {member : Nat} (h : s.Bounded) : (s.requestFail f l member).Bounded := by
  unfold State.requestFail
  exact .ite (fun _ => h.flowBreak) (fun _ => .ite (fun _ => h.memberDone) (fun _ => .ite (fun _ => h.lineFinish) (fun _ => h.fatalFail)))

theorem execRetxTimeout_bounded {req member : Nat} (h : s.Bounded) : LeavesBounded (execRetxTimeout f req member s) := by
  unfold execRetxTimeout
  refine .inRim h ?_
  split
  · exact .next h
  · extract_lets n
    refine .ite (fun _ => .finish h.requestFail.gwSettle) (fun _ => ?_)
    exact .next h.fwrap.updGw.gwSend

theorem State.Bounded.drillCtl {hold haltReq resume : Bool} (h : s.Bounded) : (s.drillCtl f p hold haltReq resume).Bounded :=
  h.only (State.drillCtl_only s f p hold haltReq resume (Fits.refl _) trivial trivial)

theorem State.Bounded.gwHalt {id : Nat} (h : s.Bounded) : (s.gwHalt f id).Bounded := by
  unfold State.gwHalt
  extract_lets s1 s2 keys s3 s4 mine s5
  have h1 : s1.Bounded := .foldl _ _ (fun _ _ _ h1 => h1.drillCtl) h.fset
  have h2 : s2.Bounded := .foldl _ _ (fun _ _ _ h1 => h1.lineFinish) h1
  have h3 : s3.Bounded := .foldl _ _ (fun _ _ _ h1 => h1.setFlowTx) h2
  have h4 : s4.Bounded := .foldl _ _ (fun _ _ _ h1 => h1.fenceAnswer) h3
  clear_value s4
  have h5 : s5.Bounded := h4.updGw (hq := Nat.zero_le _)
  exact h5.mirSettle.raise

end Sys2Proof.Machine
end

section
/-! Memory, health, tally, power and injection commands keep the lists (R235 to R253, R490 to R535, R631 to R661, R696). -/

namespace Sys2Proof.Machine

set_option Elab.async false

open Sys2Proof

variable {s t : State} {f : FieldId} {p : PlotId}

theorem State.Bounded.mbxReceiverReset {ep : MbxEp} (h : s.Bounded) : (s.mbxReceiverReset ep).Bounded :=
  h.only (State.mbxReceiverReset_only s ep (Fits.refl _) (fun _ => trivial) (fun _ => trivial))

theorem State.Bounded.mbxSenderReset {ep : MbxEp} (h : s.Bounded) : (s.mbxSenderReset ep).Bounded :=
  h.only (State.mbxSenderReset_only s ep (Fits.refl _) (fun _ => trivial) (fun _ => trivial))

/-- A plot without entries, completions and samples. -/
theorem Plot.Sound.empty {P : Plot} (hq : P.queue = []) (hc : P.cq = []) (hs : P.samples = []) : P.Sound :=
  ⟨hq ▸ Nat.zero_le _, hc ▸ Nat.zero_le _, hs ▸ Nat.zero_le _⟩

theorem SMap.mem_of_find {α : Type} {m : SMap α} {k : Nat} {v : α} (h : SMap.find m k = some v) : ∃ j, (j, v) ∈ m := by
  induction m with
  | nil => cases h
  | cons e m ih =>
    obtain ⟨i, x⟩ := e
    rw [SMap.find] at h
    split at h
    · cases h
      exact ⟨i, List.mem_cons_self⟩
    · obtain ⟨j, hj⟩ := ih h
      exact ⟨j, List.mem_cons_of_mem _ hj⟩

/-- What a plot of a field is, when every one listed keeps its lists. -/
theorem Plot.Sound.get {m : SMap Plot} {k : Nat} (h : ∀ e ∈ m, Plot.Sound e.2) : (SMap.get m Plot.reset k).Sound := by
  rw [SMap.get]
  cases hf : SMap.find m k with
  | none => exact .empty rfl rfl rfl
  | some P =>
    obtain ⟨j, hj⟩ := SMap.mem_of_find hf
    exact h _ hj

theorem State.Bounded.resetPlots (h : s.Bounded) : (s.resetPlots f).Bounded := by
  unfold State.resetPlots
  extract_lets keys s1 s2
  have h1 : s1.Bounded := .foldl _ _ (fun _ _ _ h1 => h1.mbxReceiverReset) h
  have h2 : s2.Bounded := .foldl _ _ (fun _ _ _ h1 => h1.mbxSenderReset) h1
  refine h2.updField_sound ⟨h2.memu f, h2.mgmt f, h2.gw f, fun p => Plot.Sound.get (fun e he => ?_)⟩
  obtain ⟨⟨k, P⟩, -, rfl⟩ := List.mem_map.mp (List.mem_filter.mp he).1
  exact .empty rfl rfl rfl

theorem State.Bounded.resetPartition (h : s.Bounded) : (s.resetPartition f).Bounded := by
  unfold State.resetPartition
  have h1 : (s.updGw f (fun G => { G with lines := G.lines.map GwLine.abandon, fences := [] })).Bounded := h.updGw
  exact (State.Bounded.resetPlots h1).updMem

theorem execHbmRead_bounded {half : Nat} {src : Fin 6} (h : s.Bounded) : LeavesBounded (execHbmRead f half src s) := by
  unfold execHbmRead
  refine .inRim h ?_
  refine .ite (fun _ => ?_) (fun _ => .next h)
  split
  next hr => exact .next (h.absorberTouch (FieldMem.mem_of_resident hr))
  · exact .finish h.ctrlReadHalf

theorem State.Bounded.hardEvent {kind : Nat} {injected : Bool} (h : s.Bounded) : (s.hardEvent f kind injected).Bounded :=
  h.only (State.hardEvent_only s f kind injected (Fits.refl _) trivial)

theorem State.Bounded.hset {k : RegField} {v n i : Nat} (h : s.Bounded) : (s.hset k v n i).Bounded :=
  h.only (State.hset_only k v n i (Fits.refl _)) rfl

theorem State.Bounded.setSvc {new : Nat} {injected : Bool} (h : s.Bounded) : (s.setSvc f new injected).Bounded :=
  h.only (State.setSvc_only s f new injected (Fits.refl _) trivial)

theorem FieldMem.Sound.dropLost {m n : FieldMem} (h : m.Sound) (ha : n.absorber = m.absorber) (hr : n.rowTab = m.rowTab) : n.dropLost.Sound := by
  refine ⟨fun x hx => ?_, fun w hw => ?_, (List.length_filter_le _ _).trans (ha ▸ h.absorber), hr ▸ h.rows⟩
  · obtain ⟨hmem, hlost⟩ := List.mem_filter.mp hx
    exact ⟨(h.lines x (ha ▸ hmem)).1, (Bool.not_eq_true' _).mp hlost⟩
  · exact (Bool.not_eq_true' _).mp (List.mem_filter.mp hw).2

/-- Nothing stays resident or held back for the stack (R235). -/
theorem State.Bounded.loseStack {stack : Nat} (h : s.Bounded) : (s.updMemu f (fun m => m.loseStack stack)).Bounded :=
  h.updMemu_sound ((h.memu f).dropLost rfl rfl)

theorem State.Bounded.stackLost {stack : Nat} {injected : Bool} (h : s.Bounded) : (s.stackLost f stack injected).Bounded := by
  unfold State.stackLost
  exact .ite (fun _ => h) (fun _ => .ite (fun _ => h.loseStack.raise.hardEvent.hset) (fun _ => h.loseStack.raise.hardEvent.hset.setSvc.resetPartition))

theorem State.Bounded.patrol {pc : Nat} (h : s.Bounded) : (s.patrol f pc).Bounded := by
  unfold State.patrol
  extract_lets k l s1 s2 scrub s3
  have h1 : s1.Bounded := h.ctrlReadHalf
  have h2 : s2.Bounded := h1.ctrlReadHalf
  have h3 : s3.Bounded := h2.updMemu
  exact .ite (fun _ => (h3.updMemu_sound (g := fun m => { m with rowTab := [] })
    ((h3.memu f).of_lines ⟨rfl, rfl, FieldMem.lost_of rfl rfl⟩ (Nat.zero_le _))).fcount) (fun _ => h3)

theorem State.Bounded.releaseHeld (h : s.Bounded) : (s.releaseHeld f).Bounded := by
  unfold State.releaseHeld
  extract_lets m
  split
  · exact h
  next w hw =>
    have hm := h.memu f
    have h1 : (s.updMemu f (fun m => { m with held := m.held.erase w })).Bounded :=
      h.updMemu_sound ⟨hm.lines, fun v hv => hm.held v (List.mem_of_mem_erase hv), hm.absorber, hm.rows⟩
    refine h1.lineApply ?_
    rw [State.memu_updMemu]
    exact hm.held w (List.mem_of_find?_eq_some hw)

theorem State.Bounded.mcast {isRow : Bool} {index mask : Nat} {copy : State → PlotId → State} (h : s.Bounded)
    (hcopy : ∀ t p, t.Bounded → (copy t p).Bounded) : (s.mcast f isRow index mask copy).Bounded := by
  unfold State.mcast
  extract_lets ps live s1 s2
  have h1 : s1.Bounded := .foldl _ _ (fun t p _ => hcopy t p) h
  exact h1.fcount.updMemu

theorem State.Bounded.ringPlot {v : Nat} (h : s.Bounded) : (s.ringPlot f p v).Bounded :=
  h.only (State.ringPlot_only s f p v (Fits.refl _) trivial trivial)

theorem State.Bounded.doorbellRing {v target scope : Nat} (h : s.Bounded) : (s.doorbellRing f v target scope).Bounded := by
  unfold State.doorbellRing
  refine .ite (fun _ => h) (fun _ => ?_)
  extract_lets row
  have hrow : ∀ t y, t.Bounded → (row t y).Bounded := fun t y h1 => h1.mcast (fun _ _ h2 => h2.ringPlot)
  split
  · exact h.ringPlot
  · exact hrow _ _ h
  · exact h.mcast (fun _ _ h2 => h2.ringPlot)
  · exact .foldl _ _ (fun t y _ => hrow t y) h

theorem State.Bounded.emit {o : Output} (h : s.Bounded) : (s.emit o).Bounded :=
  h.only (State.emit_only s o (Fits.refl _))

theorem execMeshMulticastComplete_bounded (h : s.Bounded) : LeavesBounded (execMeshMulticastComplete f s) := by
  unfold execMeshMulticastComplete
  refine .inRim h ?_
  split
  · exact .next h
  · exact .next h.updMemu.emit

theorem State.Bounded.linkDarken {n : PortId} {injected : Bool} (h : s.Bounded) : (s.linkDarken f n injected).Bounded :=
  h.only (State.linkDarken_only s f n injected (Fits.refl _) trivial)

theorem State.Bounded.updPort {n : PortId} {g : Port → Port} (h : s.Bounded) : (s.updPort f n g).Bounded :=
  h.only (State.updPort_only s f n g (Fits.refl _) trivial)

theorem State.Bounded.d2dFieldDown (h : s.Bounded) : (s.d2dFieldDown f).Bounded :=
  h.only (State.d2dFieldDown_only s f (Fits.refl _))

theorem State.Bounded.fieldDark (h : s.Bounded) : (s.fieldDark f).Bounded := by
  unfold State.fieldDark
  exact .ite (fun _ => h) (fun _ => (State.Bounded.foldl _ _ (fun _ _ _ h1 => h1.linkDarken.updPort) h.setSvc.hset.hset.updField.resetPartition).d2dFieldDown)

theorem State.Bounded.pwrenDrop (h : s.Bounded) : (s.pwrenDrop f).Bounded :=
  h.only (State.pwrenDrop_only s f (Fits.refl _))

theorem State.Bounded.hcount {k : RegField} {d n i : Nat} (h : s.Bounded) : (s.hcount k d n i).Bounded :=
  h.only (State.hcount_only k d n i (Fits.refl _)) rfl

theorem State.Bounded.raiseHub {e : EvKind} {items : List (Nat × Nat)} {injected : Bool} (h : s.Bounded) : (s.raiseHub e items injected).Bounded :=
  h.only (State.raiseHub_only s e items injected (Fits.refl _))

theorem State.pgoodFall_bounded (h : s.Bounded) : LeavesBounded (s.pgoodFall f) := by
  unfold State.pgoodFall
  exact .ite (fun _ => .finish h.pwrenDrop.hcount.raiseHub.fieldDark) (fun _ => .next h)

theorem execPgoodFall_bounded {rail : Option FieldId} (h : s.Bounded) : LeavesBounded (execPgoodFall rail s) := by
  unfold execPgoodFall
  split
  · exact State.pgoodFall_bounded h
  · exact bounded_of_frame h (State.optFall_only _ (Fits.refl _) (fun _ => trivial))

theorem State.Bounded.thermtrip {src : Option FieldId} {sensor temp : Nat} {inj : Bool} (h : s.Bounded) : (s.thermtrip src sensor temp inj).Bounded :=
  h.only (State.thermtrip_only s src sensor temp inj (Fits.refl _))

theorem State.Bounded.thermDrop {r : ℤ} {inj : Bool} (h : s.Bounded) : (s.thermDrop f r inj).Bounded :=
  h.only (State.thermDrop_only s f r inj (Fits.refl _) trivial)

theorem State.Bounded.thermRise {sensor : Nat} {r : ℤ} {inj : Bool} (h : s.Bounded) : (s.thermRise f sensor r inj).Bounded :=
  h.only (State.thermRise_only s f sensor r inj (Fits.refl _) trivial)

theorem State.Bounded.throttleEnter {tmax cause : Nat} {inj : Bool} (h : s.Bounded) : (s.throttleEnter f tmax cause inj).Bounded :=
  h.only (State.throttleEnter_only s f tmax cause inj (Fits.refl _) trivial)

theorem State.Bounded.thermAct {injAt : Option Nat} {truth : Option (Nat × ℤ)} (h : s.Bounded) : (s.thermAct f injAt truth).Bounded := by
  unfold State.thermAct
  extract_lets T by_ nBroken s0
  have h0 : s0.Bounded := .ite (fun _ => h.setSvc.resetPartition) (fun _ => h)
  split
  extract_lets s1 s2 s3 hotNow
  have h1 : s1.Bounded := h0.fset.fset
  have h2 : s2.Bounded := by
    dsimp only [s2]
    split
    · exact .ite (fun _ => h1.thermtrip) (fun _ => h1)
    · exact h1
  have h3 : s3.Bounded := by
    dsimp only [s3]
    split
    · exact h2
    · exact h2.fset.thermRise.thermDrop
  exact .ite (fun _ => h3) (fun _ => .ite (fun _ => h3.throttleEnter) (fun _ => .ite (fun _ => h3.throttleEnter) (fun _ => h3)))

theorem State.Bounded.sensorRead {i : Nat} {t : Option ℤ} {inj : Bool} (h : s.Bounded) : (s.sensorRead f i t inj).Bounded :=
  h.only (State.sensorRead_only s f i t inj (Fits.refl _) trivial)

theorem State.Bounded.sensorInjStep (h : s.Bounded) : (s.sensorInjStep f).Bounded :=
  h.only (State.sensorInjStep_only s f (Fits.refl _) trivial)

theorem State.Bounded.sensorSample {readings : List (Option ℤ)} (h : s.Bounded) : (s.sensorSample f readings).Bounded := by
  unfold State.sensorSample
  exact (State.Bounded.foldl _ _ (fun _ _ _ h1 => h1.sensorRead) h).thermAct.sensorInjStep

theorem State.Bounded.tlyTemp (h : s.Bounded) : (s.tlyTemp f).Bounded :=
  h.only (State.tlyTemp_only s f (Fits.refl _) trivial)

theorem State.fieldSensors_bounded {readings : List (Option ℤ)} (h : s.Bounded) : LeavesBounded (s.fieldSensors f readings) := by
  unfold State.fieldSensors
  exact .ite (fun _ => .finish h.sensorSample.tlyTemp) (fun _ => .next h)

theorem execSensorSample_bounded {f : Option FieldId} {readings : List (Option ℤ)} (h : s.Bounded) : LeavesBounded (execSensorSample f readings s) := by
  unfold execSensorSample
  split
  · exact State.fieldSensors_bounded h
  · exact bounded_of_frame h (State.hubSensors_only _ _ (Fits.refl _))

theorem State.Bounded.beginStackLost {target : Nat} (h : s.Bounded) : (s.beginStackLost f target).Bounded := by
  unfold State.beginStackLost
  exact h.injFire.stackLost

theorem State.Bounded.beginLaneFail {target arg : Nat} (h : s.Bounded) : (s.beginLaneFail f target arg).Bounded :=
  h.only (State.beginLaneFail_only s f target arg (Fits.refl _) trivial)

theorem State.Bounded.beginRingUnlock {target arg : Nat} (h : s.Bounded) : (s.beginRingUnlock f target arg).Bounded :=
  h.only (State.beginRingUnlock_only s f target arg (Fits.refl _) trivial)

theorem State.Bounded.beginRetrain {target : Nat} (h : s.Bounded) : (s.beginRetrain f target).Bounded :=
  h.only (State.beginRetrain_only s f target (Fits.refl _) trivial)

theorem State.Bounded.beginNoAck {target arg : Nat} (h : s.Bounded) : (s.beginNoAck f target arg).Bounded :=
  h.only (State.beginNoAck_only s f target arg (Fits.refl _) trivial)

theorem State.Bounded.beginBeatStop {target arg : Nat} (h : s.Bounded) : (s.beginBeatStop f target arg).Bounded :=
  h.only (State.beginBeatStop_only s f target arg (Fits.refl _) trivial)

theorem State.Bounded.beginBeaconMute {target arg : Nat} (h : s.Bounded) : (s.beginBeaconMute f target arg).Bounded :=
  h.only (State.beginBeaconMute_only s f target arg (Fits.refl _) trivial)

theorem State.Bounded.beginSensor {ramp : Bool} {target arg : Nat} (h : s.Bounded) : (s.beginSensor f ramp target arg).Bounded :=
  h.only (State.beginSensor_only s f ramp target arg (Fits.refl _) trivial)

theorem State.Bounded.beginSensorBroken {target : Nat} (h : s.Bounded) : (s.beginSensorBroken f target).Bounded :=
  h.only (State.beginSensorBroken_only s f target (Fits.refl _) trivial)

theorem State.Bounded.injBegin {r point target arg : Nat} (h : s.Bounded) : (s.injBegin f r point target arg).Bounded := by
  unfold State.injBegin
  split
  · exact h.beginStackLost
  · exact h.beginLaneFail
  · exact h.beginRingUnlock
  · exact h.beginRetrain
  · exact h.beginNoAck
  · exact h.beginBeatStop
  · exact h.beginBeaconMute
  · exact h.beginSensor
  · exact h.beginSensor
  · exact h.beginSensorBroken
  · exact h

theorem State.Bounded.injTry {r : Nat} {valid : Bool} {g : State → State} (h : s.Bounded) (hg : ∀ t, t.Bounded → (g t).Bounded) :
    (s.injTry f r valid g).Bounded :=
  .ite (fun _ => hg _ h.fset) (fun _ => h.fset.fset.fset)

theorem State.Bounded.injArm {r : Nat} (h : s.Bounded) : (s.injArm f r).Bounded :=
  h.injTry (fun _ h1 => h1.injBegin)

theorem State.Bounded.fxEnd {r : Nat} (h : s.Bounded) : (s.fxEnd f r).Bounded :=
  h.only (State.fxEnd_only s f r (Fits.refl _) trivial)

theorem State.Bounded.updThm {g : ThermUnit → ThermUnit} (h : s.Bounded) : (s.updThm f g).Bounded :=
  h.only (State.updThm_only s f g (Fits.refl _) trivial)

theorem State.Bounded.injDone {r : Nat} (h : s.Bounded) : (s.injDone f r).Bounded :=
  h.only (State.injDone_only s f r (Fits.refl _) trivial)

theorem State.Bounded.injClear (h : s.Bounded) : (s.injClear f).Bounded := by
  unfold State.injClear
  extract_lets s1 s2
  have h1 : s1.Bounded := .foldl _ _ (fun _ _ _ h1 => h1.fxEnd.fset) h.fset
  clear_value s1
  have h2 : s2.Bounded := .ite (fun _ => h1.updThm.injDone) (fun _ => h1)
  clear_value s2
  exact h2.updField_sound ⟨h2.memu f, h2.mgmt f, ⟨h2.atomics f, h2.flows f⟩, h2.plot f⟩

theorem State.Bounded.fxHubEnd {r : Nat} (h : s.Bounded) : (s.fxHubEnd r).Bounded :=
  h.only (State.fxHubEnd_only s r (Fits.refl _) (fun _ => trivial))

theorem State.Bounded.updPwr {g : PowerUnit → PowerUnit} (h : s.Bounded) : (s.updPwr g).Bounded :=
  h.only (State.updPwr_only s g (Fits.refl _))

theorem State.Bounded.injLock (h : s.Bounded) : s.injLock.Bounded := by
  unfold State.injLock
  exact (State.Bounded.foldl _ _ (fun _ _ _ h1 => h1.fxHubEnd.hset) (.foldl _ _ (fun _ _ _ h1 => h1.injClear) h)).updPwr.hset.hset

theorem State.Bounded.injReq (h : s.Bounded) : s.injReq.Bounded :=
  h.only (State.injReq_only s (Fits.refl _))

theorem State.Bounded.injValue {v : Nat} (h : s.Bounded) : (s.injValue v).Bounded :=
  h.only (State.injValue_only s v (Fits.refl _) (fun _ => trivial))

theorem State.Bounded.injUnlockWrite {value : Nat} {req lock : Bool} (h : s.Bounded) : (s.injUnlockWrite value req lock).Bounded := by
  unfold State.injUnlockWrite
  exact .ite (fun _ => h.injLock) (fun _ => .ite (fun _ => h.injReq) (fun _ => h.injValue))

theorem State.Bounded.hbMissed {n : Nat} (h : s.Bounded) : (s.hbMissed f n).Bounded := by
  unfold State.hbMissed
  extract_lets s1
  have h1 : s1.Bounded := h.updField
  clear_value s1
  have h2 : (s1.injClear f).Bounded := h1.injClear
  generalize s1.injClear f = s2 at h2 ⊢
  exact .ite (fun _ => h2.updField) (fun _ => h1)

theorem State.Bounded.hbSend (h : s.Bounded) : (s.hbSend f).Bounded := by
  unfold State.hbSend
  exact .ite (fun _ => h.hbMissed) (fun _ => h.updField)

theorem execHeartbeat_bounded (h : s.Bounded) : LeavesBounded (execHeartbeat s) := by
  unfold execHeartbeat
  exact .finish (.foldl _ _ (fun _ _ _ h1 => h1.hbSend) h)

end Sys2Proof.Machine
end

section
/-! Mirrors and sheafs keep the lists (R440 to R490). -/

namespace Sys2Proof.Machine

set_option Elab.async false

open Sys2Proof

variable {s t : State} {f : FieldId} {p : PlotId}

theorem State.Bounded.takeLine {granule c i : Nat} (h : s.Bounded) : (s.takeLine f granule c i).Bounded := by
  unfold State.takeLine
  extract_lets a
  split
  next s1 x e =>
    extract_lets bad s2
    have h1 : s1.Bounded := h.rawLineRead.fst_of e
    have h2 : s2.Bounded := .foldl _ _ (fun _ _ _ h1 => h1.gwEnqueue) h1
    exact .ite (fun _ => h2.raise) (fun _ => h2)

theorem State.Bounded.planeClear {res : Bool} {granule : Nat} (h : s.Bounded) : (s.planeClear f res granule).Bounded := by
  refine h.updMemu_sound ?_
  split <;> exact (h.memu f).other

theorem execGranuleTake_bounded {granule : Nat} (h : s.Bounded) : LeavesBounded (execGranuleTake f granule s) := by
  unfold execGranuleTake
  refine .inRim h ?_
  extract_lets m inRes s1
  refine .ite (fun _ => .next h) (fun _ => ?_)
  have h1 : s1.Bounded := h.planeClear
  split
  · exact .finish h1
  · exact .finish (.foldl _ _ (fun _ _ _ h1 => h1.takeLine) h1)

theorem State.Bounded.mirCommit (h : s.Bounded) : (s.mirCommit f).Bounded := by
  unfold State.mirCommit
  exact .ite (fun _ => (State.Bounded.foldl _ _ (fun _ _ _ h1 => h1.mirMarkSend) h).updMirSrc.fset) (fun _ => h)

theorem execMirLayoutRetry_bounded {n : Fin 2} (h : s.Bounded) : LeavesBounded (execMirLayoutRetry f n s) := by
  unfold execMirLayoutRetry
  refine .inRim h ?_
  extract_lets m
  exact .ite (fun _ => .finish h.mirLayoutSend.mirSettle) (fun _ => .next h)

theorem State.Bounded.pushLine {n c granule dst i : Nat} (h : s.Bounded) : (s.pushLine f n c granule dst i).Bounded := by
  unfold State.pushLine
  exact h.lineRead.gwAccept

theorem State.Bounded.pushDone {n : Nat} {x : MirPush} (h : s.Bounded) : (s.pushDone f n x).Bounded := by
  unfold State.pushDone
  exact (State.Bounded.ite (fun _ => h.injFire) (fun _ => h)).gwAccept.pushEnd

theorem execMirPush_bounded {n : Fin 2} (h : s.Bounded) : LeavesBounded (execMirPush f n s) := by
  unfold execMirPush
  refine .inRim h ?_
  extract_lets y hit
  split
  · exact .next h
  next x0 _ =>
    have h0 : (if hit then s.injFire f injMir else s).Bounded := .ite (fun _ => h.injFire) (fun _ => h)
    extract_lets x s1
    have h1 : s1.Bounded := h0.updSlot
    refine .ite (fun _ => .finish h1) (fun _ => ?_)
    split
    · exact .finish h1.pushDone.mirSettle
    · exact .finish (State.Bounded.mirSettle (State.Bounded.updSlot (.foldl _ _ (fun _ _ _ h2 => h2.pushLine) h1)))

theorem State.Bounded.loadStart (h : s.Bounded) : (s.loadStart f).Bounded := by
  unfold State.loadStart
  exact .ite (fun _ => h) (fun _ => h.fset.fset.fset.fset.loadPull)

theorem State.Bounded.markPlanes (h : s.Bounded) : (s.markPlanes f).1.Bounded := by
  unfold State.markPlanes
  extract_lets a on inj full s0 s1 s2
  have ha : a.Bounded := h.mirCommit
  have hs0 : s0.Bounded := .ite (fun _ => ha.injFire) (fun _ => ha)
  have hs2 : s2.Bounded := (State.Bounded.ite (fun _ => hs0.raise.fset) (fun _ => hs0)).updMemu
  refine .fst_ite (fun _ => hs2) (fun _ => ?_)
  dsimp only
  refine State.Bounded.updMirSrc (State.Bounded.fset (State.Bounded.fset (.ite (fun _ => ?_) (fun _ => hs2))))
  exact hs2.fcount.raise

theorem State.Bounded.markRegions (h : s.Bounded) : (s.markRegions f).Bounded := by
  unfold State.markRegions
  refine .ite (fun _ => h) (fun _ => ?_)
  extract_lets s0 rs
  split
  · exact h.updMir.raise
  · exact .ite (fun _ => .foldl _ _ (fun _ _ _ h1 => h1.mirLayoutSend) h.updMir.updMemu) (fun _ => h.updMir.updMemu)

theorem State.Bounded.allotDiffers (h : s.Bounded) : s.allotDiffers.1.Bounded :=
  h.only (State.allotDiffers_only s (Fits.refl _))

theorem State.Bounded.markSource (h : s.Bounded) : (s.markSource f).Bounded := by
  unfold State.markSource
  refine .ite (fun _ => ?_) (fun _ => ?_)
  · exact h
  · exact .ite (fun _ => h.allotDiffers.updMir.updMirSrc.fset.fset) (fun _ => .ite (fun _ => h.allotDiffers.updMir.updMirSrc.fset.fset.fset) (fun _ => .foldl _ _ (fun _ _ _ h1 => h1.mirLayoutSend) h.allotDiffers.updMir.updMirSrc.fset.fset.updMirSrc.fset.fset.curAll))

theorem State.Bounded.markPart {n : Nat} (h : s.Bounded) : (s.markPart f n).Bounded :=
  h.only (State.markPart_only s f n (Fits.refl _) trivial)

theorem State.Bounded.markPairings (h : s.Bounded) : (s.markPairings f).Bounded := by
  unfold State.markPairings
  exact h.markRegions.markSource.markPart.markPart

theorem State.Bounded.scratchWrite {x : ShfSlot} {b : List Byte} (h : s.Bounded) : (s.scratchWrite f x b).Bounded := by
  unfold State.scratchWrite
  exact h.draw.hbmWrite.fwrap

theorem State.Bounded.shfRecord {k : Nat} {desc : List Byte} {seq status tIssue cls : Nat} {named : List Nat} (h : s.Bounded) : (s.shfRecord f k desc seq status tIssue cls named).Bounded := by
  unfold State.shfRecord
  extract_lets first n rcd a s1 fl s2 s3
  have hs1 : s1.Bounded := .ite (fun _ => h.hbmWrite) (fun _ => h)
  have hs3 : s3.Bounded := (State.Bounded.ite (fun _ => hs1.doorbellRing) (fun _ => hs1)).fset
  exact .ite (fun _ => hs3.fwrap) (fun _ => hs3.fcount.raise)

theorem State.Bounded.updSlotShf {k : Nat} {g : ShfSlot → ShfSlot} (h : s.Bounded) : (s.updSlotShf f k g).Bounded :=
  h.only (State.updSlotShf_only s f k g (Fits.refl _) trivial)

theorem State.Bounded.lateRecord {c : ShfColl} (h : s.Bounded) : (s.lateRecord f c).Bounded :=
  h.only (State.lateRecord_only s f c (Fits.refl _) trivial)

theorem State.Bounded.updShf {g : SheafUnit → SheafUnit} (h : s.Bounded) : (s.updShf f g).Bounded :=
  h.only (State.updShf_only s f g (Fits.refl _) trivial)

theorem State.Bounded.shfFlood {x : ShfSlot} {seq status : Nat} {named : List Nat} (h : s.Bounded) : (s.shfFlood f x seq status named).Bounded :=
  h.only (State.shfFlood_only s f x seq status named (Fits.refl _) trivial)

theorem State.Bounded.shfHaltSlot {k result : Nat} (h : s.Bounded) : (s.shfHaltSlot f k result).Bounded :=
  h.only (State.shfHaltSlot_only s f k result (Fits.refl _) trivial)

theorem State.Bounded.shfFail {k status : Nat} {named : List Nat} {flood : Bool} (h : s.Bounded) : (s.shfFail f k status named flood).Bounded := by
  unfold State.shfFail
  split
  · exact h
  · split
    · exact h
    · extract_lets ns s1 s2 s3 s4
      have hs3 : s3.Bounded := h.updSlotShf.lateRecord.shfRecord.updShf
      have hs4 : s4.Bounded := .ite (fun _ => hs3.shfFlood) (fun _ => hs3)
      exact .ite (fun _ => hs4) (fun _ => hs4.shfHaltSlot)

theorem State.Bounded.shfFinish {k : Nat} (h : s.Bounded) : (s.shfFinish f k).Bounded := by
  unfold State.shfFinish
  split
  · exact h
  · exact .ite (fun _ => h.updSlotShf.lateRecord.shfRecord) (fun _ => h)

theorem State.Bounded.shfCheck {k addr : Nat} (h : s.Bounded) : (s.shfCheck f k addr).1.Bounded := by
  unfold State.shfCheck
  refine .fst_ite (fun _ => h) (fun _ => ?_)
  split
  next s1 d _ e =>
    have h1 : s1.Bounded := h.hbmRead.fst_of e
    refine .fst_ite (fun _ => h1) (fun _ => ?_)
    split
    next s2 m _ e =>
      have h2 : s2.Bounded := h1.hbmRead.fst_of e
      exact .fst_ite (fun _ => h2) (fun _ => h2)

theorem State.Bounded.shfReadTail {k : Nat} (h : s.Bounded) : (s.shfReadTail f k).Bounded := by
  unfold State.shfReadTail
  split
  · exact h
  · split
    next e => exact (h.hbmRead.fst_of e).updSlotShf

theorem State.Bounded.shfStatus {k st group epoch next done members hset req : Nat} (h : s.Bounded) : (s.shfStatus f k st group epoch next done members hset req).Bounded :=
  h.only (State.shfStatus_only s f k st group epoch next done members hset req (Fits.refl _) trivial)

theorem State.Bounded.shfEvent {k group epoch st result : Nat} (h : s.Bounded) : (s.shfEvent f k group epoch st result).Bounded :=
  h.only (State.shfEvent_only s f k group epoch st result (Fits.refl _))

theorem State.Bounded.shfInstall {k : Nat} {x : ShfSlot} (h : s.Bounded) : (s.shfInstall f k x).Bounded := by
  unfold State.shfInstall
  exact h.updShf.shfStatus.fset.shfReadTail.shfEvent

theorem State.Bounded.shfRefuse {k status : Nat} (h : s.Bounded) : (s.shfRefuse f k status).Bounded :=
  h.only (State.shfRefuse_only s f k status (Fits.refl _) trivial)

theorem execRegistrationComplete_bounded {slot : Fin 64} (h : s.Bounded) : LeavesBounded (execRegistrationComplete f slot s) := by
  unfold execRegistrationComplete
  refine .inRim h ?_
  split
  · exact .next h
  · extract_lets s1
    refine .ite (fun _ => .finish h.updShf.shfRefuse) (fun _ => ?_)
    split
    next e =>
      exact .finish ((h.updShf.shfCheck.fst_of e).shfRefuse)
    next e =>
      exact .finish ((h.updShf.shfCheck.fst_of e).shfInstall)

theorem State.Bounded.shfReform {k addr : Nat} (h : s.Bounded) : (s.shfReform f k addr).Bounded := by
  unfold State.shfReform
  split
  · exact h.shfRefuse
  · split
    next e =>
      exact (h.shfCheck.fst_of e).shfRefuse
    next e =>
      exact .ite (fun _ => (h.shfCheck.fst_of e).shfRefuse) (fun _ => (h.shfCheck.fst_of e).shfFail.shfInstall)

theorem State.Bounded.shfRelease {k : Nat} (h : s.Bounded) : (s.shfRelease f k).Bounded := by
  unfold State.shfRelease
  exact h.shfFail.updShf.shfStatus.fset.shfEvent

theorem State.Bounded.shfMismatch {k : Nat} {c : ShfColl} (h : s.Bounded) : (s.shfMismatch f k c).Bounded := by
  unfold State.shfMismatch
  exact h.shfFail

theorem State.Bounded.updColl {k : Nat} {g : ShfColl → ShfColl} (h : s.Bounded) : (s.updColl f k g).Bounded :=
  h.only (State.updColl_only s f k g (Fits.refl _) trivial)

theorem State.Bounded.shfDecide {k : Nat} (h : s.Bounded) : (s.shfDecide f k).Bounded := by
  unfold State.shfDecide
  split
  · exact h
  · split
    · exact h
    · exact .ite (fun _ => h) (fun _ => .ite (fun _ => h.updColl.shfFinish) (fun _ => h.shfMismatch))

theorem State.Bounded.shfReadReady {k : Nat} (h : s.Bounded) : (s.shfReadReady f k).Bounded := by
  unfold State.shfReadReady
  split
  · exact h
  · refine .ite (fun _ => h) (fun _ => ?_)
    split
    next e => exact (h.hbmRead.fst_of e).updColl

theorem State.Bounded.shfSend {x : ShfSlot} {seq dst kind stage part chunk arg : Nat} {payload : List Byte} (h : s.Bounded) : (s.shfSend f x seq dst kind stage part chunk arg payload).Bounded :=
  h.only (State.shfSend_only s f x seq dst kind stage part chunk arg payload (Fits.refl _) trivial)

theorem State.Bounded.shfStart {k : Nat} {x : ShfSlot} {d : List Byte} {seq : Nat} (h : s.Bounded) : (s.shfStart f k x d seq).Bounded := by
  unfold State.shfStart
  extract_lets sr seed step hitS s0 hitD mask s1 c0 c s2 kept
  have hs0 : s0.Bounded := .ite (fun _ => h.injFire) (fun _ => h)
  have hs1 : s1.Bounded := .ite (fun _ => hs0.injFire) (fun _ => hs0)
  clear_value s1
  have hs2 : s2.Bounded := hs1.updSlotShf
  clear_value s2 kept
  cases kept with
  | cons => exact hs2.shfFail
  | nil =>
    refine State.Bounded.shfDecide (State.Bounded.shfReadReady (.ite (fun _ => hs2) (fun _ => ?_)))
    exact .foldl _ _ (fun _ _ _ h1 => h1.shfSend) hs2

theorem execCollectiveStart_bounded {slot : Fin 64} (h : s.Bounded) : LeavesBounded (execCollectiveStart f slot s) := by
  unfold execCollectiveStart
  refine .inRim h ?_
  split
  · exact .next h
  · refine .ite (fun _ => .next h) (fun _ => ?_)
    split
    next e =>
      have h1 := h.hbmRead.fst_of e
      exact .ite (fun _ => .finish h1.updSlotShf.fset.shfRecord) (fun _ => .finish h1.updSlotShf.fset.shfStart)

theorem State.Bounded.shfArrival {kind : Nat} {p : Packet} (h : s.Bounded) : (s.shfArrival f kind p).1.Bounded :=
  h.only (State.shfArrival_only s f kind p (Fits.refl _) trivial)

theorem State.Bounded.shfStale (h : s.Bounded) : (s.shfStale f).Bounded :=
  h.only (State.shfStale_only s f (Fits.refl _) trivial)

theorem execDigest_bounded {pkt : Packet} (h : s.Bounded) : LeavesBounded (execDigest f pkt s) := by
  unfold execDigest
  refine .inRim h ?_
  split
  next e =>
    exact .finish (h.shfArrival.fst_of e)
  next e =>
    extract_lets ep d
    refine .ite (fun _ => .ite (fun _ => .finish (((h.shfArrival.fst_of e).shfFail).shfStale)) (fun _ => .finish ((h.shfArrival.fst_of e).shfStale))) (fun _ => ?_)
    split
    · exact .ite (fun _ => .finish (((h.shfArrival.fst_of e).updColl).shfDecide)) (fun _ => .finish ((h.shfArrival.fst_of e).shfStale))
    · exact .ite (fun _ => .finish ((h.shfArrival.fst_of e).updSlotShf)) (fun _ => .finish ((h.shfArrival.fst_of e).shfStale))

theorem State.Bounded.shfInput {c : ShfColl} {k : Nat} (h : s.Bounded) : (s.shfInput f c k).1.Bounded := by
  unfold State.shfInput
  refine .foldl_fst _ _ _ (fun acc i _ h1 => ?_) h
  split
  next t b bad =>
    exact .fst_ite (fun _ => State.Bounded.lineRead h1) (fun _ => State.Bounded.lineRead h1)

theorem State.Bounded.shfOut {k : Nat} {x : ShfSlot} {seq : Nat} {o : ShfOut} (h : s.Bounded) : (s.shfOut f k x seq o).Bounded :=
  h.only (State.shfOut_only s f k x seq o (Fits.refl _) trivial)

theorem State.Bounded.pieceSend {k stage dst : Nat} {x : ShfSlot} {c : ShfColl} {chunk : Nat} (h : s.Bounded) : (s.pieceSend f k stage dst x c chunk).Bounded := by
  unfold State.pieceSend
  extract_lets blocks data
  have hdata : ∀ y ∈ data, y.1.Bounded := by
    intro y hy
    dsimp only [data] at hy
    split at hy
    · split at hy
      · split at hy <;> cases hy <;> exact h.shfInput
      · cases hy
    · obtain ⟨r, -, rfl⟩ := Option.map_eq_some_iff.mp hy
      exact h
  clear_value data
  cases data with
  | none => exact h
  | some y =>
    have h1 : y.1.Bounded := hdata _ rfl
    exact .foldl _ _ (fun _ _ _ h1 => h1.shfOut) h1.updColl

theorem execPieceSend_bounded {slot : Fin 64} {stage : Fin 4} {dst : Nat} (h : s.Bounded) : LeavesBounded (execPieceSend f slot stage dst s) := by
  unfold execPieceSend
  refine .inRim h ?_
  split
  · exact .next h
  · split
    · exact .next h
    · refine .ite (fun _ => .next h) (fun _ => ?_)
      split
      · exact .next h
      · exact .ite (fun _ => .finish h.pieceSend) (fun _ => .next h)

theorem State.Bounded.partAstray {x : ShfSlot} {p : Packet} (h : s.Bounded) : (s.partAstray f x p).Bounded :=
  h.only (State.partAstray_only s f x p (Fits.refl _) trivial)

theorem State.Bounded.shfProto (h : s.Bounded) : (s.shfProto f).Bounded :=
  h.only (State.shfProto_only s f (Fits.refl _) trivial)

theorem State.Bounded.shfTouch {k src : Nat} (h : s.Bounded) : (s.shfTouch f k src).Bounded :=
  h.only (State.shfTouch_only s f k src (Fits.refl _) trivial)

theorem State.Bounded.collReceipt {x : ShfSlot} {c : ShfColl} {p : Packet} (h : s.Bounded) : (s.collReceipt f x c p).Bounded :=
  h.only (State.collReceipt_only s f x c p (Fits.refl _) trivial)

theorem execPiece_bounded {pkt : Packet} (h : s.Bounded) : LeavesBounded (execPiece f pkt s) := by
  unfold execPiece
  refine .inRim h ?_
  split
  next e =>
    exact .finish (h.shfArrival.fst_of e)
  next e =>
    split
    · exact .finish ((h.shfArrival.fst_of e).partAstray)
    · have h1 := h.shfArrival.fst_of e
      refine .ite (fun _ => .finish h1.shfProto) (fun _ => ?_)
      exact .ite (fun _ => .finish h1.shfTouch.collReceipt) (fun _ => .finish h1.shfTouch.updColl.scratchWrite.collReceipt)

theorem State.Bounded.shfWrite {k : Nat} {c : ShfColl} {chunk part : Nat} {b : List Byte} {cls : Nat} (h : s.Bounded) : (s.shfWrite f k c chunk part b cls).Bounded := by
  unfold State.shfWrite
  exact h.hbmWrite.updColl

theorem State.Bounded.gatherDown {k : Nat} {x : ShfSlot} {seq below chunk part n cls : Nat} {b : List Byte} (h : s.Bounded) : (s.gatherDown f k x seq below chunk part n cls b).Bounded :=
  h.only (State.gatherDown_only s f k x seq below chunk part n cls b (Fits.refl _) trivial)

theorem State.Bounded.ownerRound {k : Nat} {x : ShfSlot} {c : ShfColl} {chunk : Nat} {accs : List LongAcc} (h : s.Bounded) : (s.ownerRound f k x c chunk accs).Bounded := by
  unfold State.ownerRound
  exact .foldl _ _ (fun _ _ _ h1 => h1.gatherDown) h.shfWrite

theorem State.Bounded.chunkFold {k stage chunk : Nat} {x : ShfSlot} {c : ShfColl} {senders : List Nat} {own : Option ShfResult} (h : s.Bounded) : (s.chunkFold f k stage chunk x c senders own).Bounded := by
  unfold State.chunkFold
  extract_lets zero qs
  split
  next s1 base e =>
    have h1 : s1.Bounded := by
      refine State.Bounded.fst_of ?_ e
      split
      · exact h
      · exact h.shfInput
    extract_lets accs s2 s3 s4
    have h3 : s3.Bounded := h1.updColl.fwrap
    have h4 : s4.Bounded := .ite (fun _ => h3) (fun _ => .foldl _ _ (fun _ _ _ h1 => h1.shfSend) h3)
    exact .ite (fun _ => h4.ownerRound.shfFinish) (fun _ => h4.updColl.scratchWrite)

theorem execChunkFold_bounded {slot : Fin 64} {stage : Fin 4} {chunk : Nat} (h : s.Bounded) : LeavesBounded (execChunkFold f slot stage chunk s) := by
  unfold execChunkFold
  refine .inRim h ?_
  split
  · exact .next h
  · split
    · exact .next h
    · extract_lets me senders own
      exact .ite (fun _ => .finish h.chunkFold) (fun _ => .next h)

theorem execGather_bounded {pkt : Packet} (h : s.Bounded) : LeavesBounded (execGather f pkt s) := by
  unfold execGather
  refine .inRim h ?_
  split
  next e =>
    exact .finish (h.shfArrival.fst_of e)
  next e =>
    split
    · exact .finish ((h.shfArrival.fst_of e).partAstray)
    · have h1 := h.shfArrival.fst_of e
      refine .ite (fun _ => .finish h1.shfProto) (fun _ => .ite (fun _ => .finish h1.shfTouch.collReceipt) (fun _ => ?_))
      refine .finish (State.Bounded.shfFinish (.ite (fun _ => ?_) (fun _ => State.Bounded.gatherDown ?_)))
      · exact h1.shfTouch.shfWrite.updColl.collReceipt
      · exact h1.shfTouch.shfWrite.updColl.collReceipt

theorem execReceipt_bounded {pkt : Packet} (h : s.Bounded) : LeavesBounded (execReceipt f pkt s) := by
  unfold execReceipt
  refine .inRim h ?_
  split
  next e =>
    exact .finish (h.shfArrival.fst_of e)
  next e =>
    split
    · exact .finish ((h.shfArrival.fst_of e).shfStale)
    · extract_lets hit
      exact .finish (((h.shfArrival.fst_of e).shfTouch.updColl).shfFinish)

theorem execAbort_bounded {pkt : Packet} (h : s.Bounded) : LeavesBounded (execAbort f pkt s) := by
  unfold execAbort
  refine .inRim h ?_
  split
  next e =>
    exact .finish (h.shfArrival.fst_of e)
  next e =>
    extract_lets status
    split
    · exact .finish ((h.shfArrival.fst_of e).shfFail)
    · exact .ite (fun _ => .finish ((h.shfArrival.fst_of e).updSlotShf)) (fun _ => .finish ((h.shfArrival.fst_of e).shfStale))

theorem execStageTimeout_bounded {slot : Fin 64} (h : s.Bounded) : LeavesBounded (execStageTimeout f slot s) := by
  unfold execStageTimeout
  refine .inRim h ?_
  split
  · exact .next h
  · split
    · exact .next h
    · extract_lets t mute
      exact .ite (fun _ => .next h) (fun _ => .ite (fun _ => .finish h.shfMismatch) (fun _ => .finish h.shfFail))

theorem State.Bounded.shfReset (h : s.Bounded) : (s.shfReset f).Bounded := by
  unfold State.shfReset
  exact .foldl _ _ (fun _ _ _ h1 => h1.shfFail.shfHaltSlot) h

theorem State.Bounded.shfAllotHalt (h : s.Bounded) : (s.shfAllotHalt f).Bounded := by
  unfold State.shfAllotHalt
  exact .foldl _ _ (fun _ _ _ h1 => h1.shfFail) h

theorem State.Bounded.allotHalt {id : Nat} (h : s.Bounded) : (s.allotHalt f id).Bounded := by
  unfold State.allotHalt
  exact .ite (fun _ => h.gwHalt.shfAllotHalt) (fun _ => h)

end Sys2Proof.Machine
end

section
/-! Marks and register writes keep the lists (R132, R486, R526 to R528). -/

namespace Sys2Proof.Machine

set_option Elab.async false

open Sys2Proof

variable {s t : State} {f : FieldId} {p : PlotId}

theorem State.Bounded.markFlush (h : s.Bounded) : (s.markFlush f).Bounded := by
  unfold State.markFlush
  exact h.updGw.fwrap

theorem State.Bounded.markSamples (h : s.Bounded) : (s.markSamples f).Bounded := by
  unfold State.markSamples
  extract_lets tags s1
  have h1 : s1.Bounded := .foldl _ _ (fun _ _ _ h1 => h1.driftReport) h
  refine .foldl _ _ (fun t k _ h2 => ?_) h1
  refine h2.updField_sound ⟨h2.memu f, h2.mgmt f, h2.gw f, fun p => ?_⟩
  rcases eq_or_ne k p.val with rfl | e
  · rw [Field.plot_updPlot]
    exact ⟨h2.queue f p, h2.log f p, Nat.zero_le _⟩
  · rw [Field.plot_updPlot_ne _ _ _ _ e]
    exact h2.plot f p

theorem State.Bounded.markStep (h : s.Bounded) : (s.markStep f).Bounded :=
  h.only (State.markStep_only s f (Fits.refl _) trivial)

theorem State.Bounded.markSnapshot {tMark : Nat} {skipped : Bool} (h : s.Bounded) : (s.markSnapshot f tMark skipped).Bounded :=
  h.only (State.markSnapshot_only s f tMark skipped (Fits.refl _) trivial)

theorem State.Bounded.markWitness (h : s.Bounded) : (s.markWitness f).Bounded :=
  h.only (State.markWitness_only s f (Fits.refl _) trivial)

theorem State.Bounded.markBank (h : s.Bounded) : (s.markBank f).Bounded :=
  h.only (State.markBank_only s f (Fits.refl _) trivial)

theorem State.Bounded.markHold (h : s.Bounded) : (s.markHold f).Bounded :=
  h.only (State.markHold_only s f (Fits.refl _) trivial)

theorem State.Bounded.markSwitch (h : s.Bounded) : (s.markSwitch f).Bounded :=
  h.only (State.markSwitch_only s f (Fits.refl _))

theorem State.Bounded.updTly {g : TallyUnit → TallyUnit} (h : s.Bounded) : (s.updTly f g).Bounded :=
  h.only (State.updTly_only s f g (Fits.refl _) trivial)

theorem State.Bounded.hubMark (h : s.Bounded) : (s.hubMark f).Bounded :=
  h.only (State.hubMark_only s f (Fits.refl _) (fun _ => trivial))

theorem State.Bounded.markActions {tMark : Nat} (h : s.Bounded) : (s.markActions f tMark).Bounded := by
  unfold State.markActions
  exact h.markFlush.markStep.markPlanes.markPairings.markSamples.markSnapshot.markWitness.markBank.markHold.fset.fset.markSwitch.updTly.hubMark

theorem State.Bounded.markAdvance (h : s.Bounded) : (s.markAdvance f).Bounded :=
  h.only (State.markAdvance_only s f (Fits.refl _) trivial)

theorem State.Bounded.markPulse (h : s.Bounded) : (s.markPulse f).Bounded :=
  h.only (State.markPulse_only s f (Fits.refl _))

theorem execBoundaryMark_bounded (h : s.Bounded) : LeavesBounded (execBoundaryMark f s) := by
  unfold execBoundaryMark
  extract_lets n
  exact .ite (fun _ => .next h) (fun _ => .finish h.markActions.markAdvance.markPulse)

theorem State.Bounded.markDid {n : Nat} (h : s.Bounded) : (s.markDid f n).Bounded :=
  h.only (State.markDid_only s f n (Fits.refl _) trivial)

theorem execDriftReportWrite_bounded (h : s.Bounded) : LeavesBounded (execDriftReportWrite f s) := by
  unfold execDriftReportWrite
  refine .inRim h ?_
  refine .ite (fun _ => .next h) (fun _ => ?_)
  extract_lets a n s1 s2
  exact .finish (((State.Bounded.ite (fun _ => h) (fun _ => .ite (fun _ => h.raise) (fun _ => h.hbmWrite))).updField.fwrap).markDid)

theorem State.Bounded.lateClear (h : s.Bounded) : (s.lateClear f).Bounded :=
  h.only (State.lateClear_only s f (Fits.refl _) trivial)

theorem execStepTimingReportWrite_bounded (h : s.Bounded) : LeavesBounded (execStepTimingReportWrite f s) := by
  unfold execStepTimingReportWrite
  refine .inRim h ?_
  refine .ite (fun _ => .next h) (fun _ => ?_)
  extract_lets a n on s1 s2
  have hs1 : s1.Bounded := .ite (fun _ => h) (fun _ => .ite (fun _ => h.raise) (fun _ => h.hbmWrite))
  exact .finish (((State.Bounded.ite (fun _ => hs1.updField) (fun _ => hs1)).lateClear).markDid)

theorem execRedEntryRelease_bounded (h : s.Bounded) : LeavesBounded (execRedEntryRelease f s) := by
  unfold execRedEntryRelease
  refine .inRim h ?_
  refine .ite (fun _ => .next h) (fun _ => ?_)
  extract_lets s1
  have hs1 : s1.Bounded := by
    refine .foldl _ _ (fun t a _ h1 => ?_) h
    split
    · exact h1
    · exact h1.lineWrite.redErase
  exact .finish hs1.markDid

theorem State.Bounded.hubMbxWrite {host : Bool} {ep : MbxEp} {off bytes value : Nat} (h : s.Bounded) : (s.hubMbxWrite host ep off bytes value).Bounded :=
  h.only (State.hubMbxWrite_only s host ep off bytes value (Fits.refl _) (fun _ => trivial) (fun _ => trivial))

theorem State.Bounded.hubHostWrite {off bytes value : Nat} (h : s.Bounded) : (s.hubHostWrite off bytes value).Bounded :=
  h.only (State.hubHostWrite_only s off bytes value (Fits.refl _) (fun _ => trivial))

theorem State.Bounded.hubBootWrite {off bytes value : Nat} (h : s.Bounded) : (s.hubBootWrite off bytes value).Bounded :=
  h.only (State.hubBootWrite_only s off bytes value (Fits.refl _))

theorem State.Bounded.hubInjWrite {r off bytes value : Nat} (h : s.Bounded) : (s.hubInjWrite r off bytes value).Bounded :=
  h.only (State.hubInjWrite_only s r off bytes value (Fits.refl _) (fun _ => trivial))

theorem State.Bounded.limitChange (h : s.Bounded) : s.limitChange.Bounded :=
  h.only (State.limitChange_only s (Fits.refl _))

theorem State.Bounded.modeFromReg (h : s.Bounded) : s.modeFromReg.Bounded :=
  h.only (State.modeFromReg_only s (Fits.refl _) (fun _ => trivial))

theorem State.Bounded.governOff (h : s.Bounded) : s.governOff.Bounded :=
  h.only (State.governOff_only s (Fits.refl _) (fun _ => trivial))

theorem State.Bounded.retrainDo (h : s.Bounded) : s.retrainDo.Bounded :=
  h.only (State.retrainDo_only s (Fits.refl _))

theorem State.Bounded.hubEffects {host : Bool} {govWas off bytes value : Nat} (h : s.Bounded) : (s.hubEffects host govWas off bytes value).Bounded := by
  unfold State.hubEffects
  extract_lets s1 s2 s3 s4 s5 s6
  have hs3 : s3.Bounded := (State.Bounded.foldl _ _ (fun _ _ _ h1 => h1.hubMbxWrite) h).hubHostWrite.hubBootWrite.hubInjWrite.hubInjWrite
  have hs4 : s4.Bounded := .ite (fun _ => hs3.injUnlockWrite) (fun _ => hs3)
  have hs5 : s5.Bounded := .ite (fun _ => hs4.limitChange.modeFromReg) (fun _ => hs4)
  exact (State.Bounded.ite (fun _ => hs5.governOff) (fun _ => hs5)).retrainDo

theorem State.Bounded.hubTake {host : Bool} {k : RegField} {n i pos len v : Nat} (h : s.Bounded) : (s.hubTake host k n i pos len v).Bounded :=
  h.only (State.hubTake_only s host k n i pos len v (Fits.refl _))

theorem State.Bounded.hubWrite {host : Bool} {off bytes value : Nat} (h : s.Bounded) : (s.hubWrite host off bytes value).Bounded := by
  unfold State.hubWrite
  extract_lets s0 s1
  have hs0 : s0.Bounded := by
    dsimp only [s0]
    split
    · exact h.raiseHub
    · exact h
  have hs1 : s1.Bounded := by
    refine .foldl _ _ (fun t a _ h1 => ?_) hs0
    refine .foldl _ _ (fun t a _ h2 => ?_) h1
    dsimp only
    split
    · exact h2.hubTake
    · exact h2
  exact hs1.hubEffects

theorem State.Bounded.allotWrite {id : Nat} (h : s.Bounded) : (s.allotWrite f id).Bounded :=
  h.only (State.allotWrite_only s f id (Fits.refl _) trivial)

theorem State.Bounded.evtRing {sp : Space} {enable : Bool} {sizeLog base : Nat} (h : s.Bounded) : (s.evtRing sp enable sizeLog base).Bounded :=
  h.only (State.evtRing_only s sp enable sizeLog base (Fits.refl _) (fun _ => trivial))

theorem State.Bounded.evtCons {sp : Space} {v : Nat} (h : s.Bounded) : (s.evtCons sp v).Bounded :=
  h.only (State.evtCons_only s sp v (Fits.refl _) (fun _ => trivial))

theorem State.Bounded.makeFallow {q : Nat} (h : s.Bounded) : (s.makeFallow f q).Bounded :=
  h.only (State.makeFallow_only s f q (Fits.refl _) trivial (fun _ => trivial))

theorem State.Bounded.fldEffects {host : Bool} {off bytes value : Nat} (h : s.Bounded) : (s.fldEffects f host off bytes value).Bounded := by
  unfold State.fldEffects
  extract_lets s1 s2 s3 s4
  have hs1 : s1.Bounded := by
    dsimp only [s1]
    split
    · exact .ite (fun _ => h) (fun _ => h.allotWrite)
    · exact h
  have hs2 : s2.Bounded := .ite (fun _ => hs1.evtRing) (fun _ => hs1)
  have hs3 : s3.Bounded := .ite (fun _ => hs2.evtCons) (fun _ => hs2)
  have hs4 : s4.Bounded := by
    dsimp only [s4]
    split
    · exact hs3.doorbellRing
    · exact hs3
  split
  · exact .ite (fun _ => hs4) (fun _ => .foldl _ _ (fun _ _ _ h1 => h1.makeFallow) hs4)
  · exact hs4

theorem State.Bounded.discApprove {n : PortId} (h : s.Bounded) : (s.discApprove f n).Bounded :=
  h.only (State.discApprove_only s f n (Fits.refl _) trivial)

theorem State.Bounded.seal (h : s.Bounded) : (s.seal f).Bounded :=
  h.only (State.seal_only s f (Fits.refl _) trivial)

theorem State.Bounded.shfRegister {k addr : Nat} (h : s.Bounded) : (s.shfRegister f k addr).Bounded :=
  h.only (State.shfRegister_only s f k addr (Fits.refl _) trivial)

theorem State.Bounded.fabricEffects {host : Bool} {off bytes value : Nat} (h : s.Bounded) : (s.fabricEffects f host off bytes value).Bounded := by
  unfold State.fabricEffects
  extract_lets a b s1 s2 slot addr
  have ha : a.Bounded := by
    dsimp only [a]
    split
    · exact .foldl _ _ (fun _ _ _ h1 => .ite (fun _ => h1.discApprove) (fun _ => h1)) h
    · exact h
  clear_value a
  have hb : b.Bounded := .ite (fun _ => ha.seal) (fun _ => ha)
  clear_value b
  have h1 : s1.Bounded := by
    refine .ite (fun _ => h) (fun _ => ?_)
    split
    · exact hb.allotHalt
    · exact hb
  clear_value s1
  have h2 : s2.Bounded := by
    dsimp only [s2]
    split
    · exact h1.redRelease
    · exact h1
  clear_value s2
  refine .ite (fun _ => ?_) (fun _ => h2)
  split
  · exact h2.shfRegister
  · exact h2.shfReform
  · exact h2.shfRelease
  · exact h2

theorem State.Bounded.loadAbort (h : s.Bounded) : (s.loadAbort f).Bounded :=
  h.only (State.loadAbort_only s f (Fits.refl _) trivial)

theorem State.Bounded.mirEffects {host : Bool} {off bytes value : Nat} (h : s.Bounded) : (s.mirEffects f host off bytes value).Bounded := by
  unfold State.mirEffects
  extract_lets regions s1 s2 s3 s4
  have h1 : s1.Bounded := by
    refine .ite (fun _ => ?_) (fun _ => h)
    exact h.updMir
  clear_value s1
  have h2 : s2.Bounded := by
    refine .ite (fun _ => ?_) (fun _ => h1)
    exact h1.updMir
  clear_value s2
  have h3 : s3.Bounded := by
    refine .ite (fun _ => h1) (fun _ => .foldl _ _ (fun t n _ ht => .ite (fun _ => ?_) (fun _ => ht)) h2)
    exact ht.updMir
  clear_value s3
  have h4 : s4.Bounded := .ite (fun _ => h3.loadStart) (fun _ => h3)
  exact .ite (fun _ => h4.loadAbort) (fun _ => h4)

theorem State.Bounded.injArithArm (h : s.Bounded) : (s.injArithArm f).Bounded :=
  h.only (State.injArithArm_only s f (Fits.refl _) trivial)

theorem State.Bounded.rimInjWrite {off bytes value : Nat} (h : s.Bounded) : (s.rimInjWrite f off bytes value).Bounded := by
  unfold State.rimInjWrite
  refine .ite (fun _ => h) (fun _ => ?_)
  extract_lets keepA putA s1 s2
  have h1 : s1.Bounded := .foldl _ _ (fun _ _ _ h1 => .ite (fun _ => h1) (fun _ => h1.fset)) h
  have h2 : s2.Bounded := .ite (fun _ => h1.injArithArm) (fun _ => h1)
  refine .foldl _ _ (fun t r _ h3 => ?_) h2
  extract_lets keep put t1
  have h4 : t1.Bounded := .foldl _ _ (fun _ _ _ h4 => .ite (fun _ => h4) (fun _ => h4.fset)) h3
  exact .ite (fun _ => h4.injArm) (fun _ => h4)

theorem State.Bounded.rimTake {host : Bool} {k : RegField} {n i pos len v : Nat} (h : s.Bounded) : (s.rimTake f host k n i pos len v).Bounded :=
  h.only (State.rimTake_only s f host k n i pos len v (Fits.refl _) trivial)

theorem State.Bounded.congTake {old : State} (h : s.Bounded) : (s.congTake old f).Bounded :=
  h.only (State.congTake_only s old f (Fits.refl _) trivial)

theorem State.Bounded.linkEffects {off bytes value : Nat} (h : s.Bounded) : (s.linkEffects f off bytes value).Bounded :=
  h.only (State.linkEffects_only s f off bytes value (Fits.refl _) trivial)

theorem State.Bounded.rimOtherEffects {host : Bool} {off bytes value : Nat} (h : s.Bounded) : (s.rimOtherEffects f host off bytes value).Bounded :=
  h.only (State.rimOtherEffects_only s f host off bytes value (Fits.refl _) trivial)

theorem State.Bounded.rimWrite {host : Bool} {off bytes value : Nat} (h : s.Bounded) : (s.rimWrite f host off bytes value).Bounded := by
  unfold State.rimWrite
  extract_lets s0 s1 s2 s3
  have hs0 : s0.Bounded := by
    dsimp only [s0]
    split
    · exact h.raiseHub
    · exact h
  have hs1 : s1.Bounded := by
    refine .foldl _ _ (fun t a _ h1 => ?_) hs0
    refine .foldl _ _ (fun t a _ h2 => ?_) h1
    dsimp only
    split
    · exact h2.rimTake
    · exact h2
  have hs2 : s2.Bounded := hs1.congTake.fldEffects
  have hs3 : s3.Bounded := .ite (fun _ => hs2) (fun _ => hs2.linkEffects)
  exact hs3.fabricEffects.mirEffects.rimOtherEffects.rimInjWrite

theorem State.Bounded.plotWrite {byDrill : Bool} {off bytes value : Nat} (h : s.Bounded) : (s.plotWrite f p byDrill off bytes value).Bounded :=
  h.only (State.plotWrite_only s f p byDrill off bytes value (Fits.refl _) trivial trivial)

theorem State.Bounded.binWindowWrite {t row col v fuel : Nat} (h : s.Bounded) : (s.binWindowWrite f p t row col v fuel).Bounded :=
  h.only (State.binWindowWrite_only s f p t row col v fuel (Fits.refl _) trivial)

theorem State.Bounded.fieldWrite {host : Bool} {off bytes value : Nat} (h : s.Bounded) : (s.fieldWrite f host off bytes value).Bounded := by
  unfold State.fieldWrite
  split
  · exact .ite (fun _ => h.rimWrite) (fun _ => h)
  · exact .ite (fun _ => h) (fun _ => h.plotWrite)
  · exact .ite (fun _ => h.binWindowWrite) (fun _ => h)
  · exact h

theorem State.Bounded.spaceWrite {host : Bool} {sp : Space} {off bytes value : Nat} (h : s.Bounded) : (s.spaceWrite host sp off bytes value).Bounded := by
  unfold State.spaceWrite
  split
  · exact h.hubWrite
  · exact h.fieldWrite

theorem State.Bounded.agentWrite {a : Agent} {sp : Space} {off bytes value : Nat} (h : s.Bounded) : (s.agentWrite a sp off bytes value).Bounded := by
  unfold State.agentWrite
  split
  · exact h.spaceWrite
  · exact .ite (fun _ => h.spaceWrite) (fun _ => h)
  · exact .ite (fun _ => h.spaceWrite) (fun _ => h)
  · exact .ite (fun _ => h.plotWrite) (fun _ => h)
  · exact h
  · exact .ite (fun _ => h.spaceWrite) (fun _ => h)
  · exact h

end Sys2Proof.Machine
end

section
/-! Boot, resets and the package bus keep the lists (R550 to R581). -/

namespace Sys2Proof.Machine

set_option Elab.async false

open Sys2Proof

variable {s t : State} {f : FieldId} {p : PlotId}

theorem State.Bounded.localWriteLine {a : Nat} {data : List Byte} {poisoned : Bool} (h : s.Bounded) : (s.localWriteLine f p a data poisoned).Bounded :=
  h.only (State.localWriteLine_only s f p a data poisoned (Fits.refl _) trivial trivial)

theorem State.Bounded.blockGood {v : List Byte} {k : Nat} (h : s.Bounded) : (s.blockGood f p v k).1.Bounded :=
  h.only (State.blockGood_only s f p v k (Fits.refl _) trivial trivial)

theorem State.Bounded.fetchBlock {v : List Byte} {k : Nat} (h : s.Bounded) : (s.fetchBlock f p v k).1.Bounded := by
  unfold State.fetchBlock
  exact (State.Bounded.foldl _ _ (fun _ _ _ h1 => h1.lineRead.localWriteLine) h).blockGood

theorem State.Bounded.bootEnter {v : List Byte} (h : s.Bounded) : (s.bootEnter f p v).Bounded :=
  h.only (State.bootEnter_only s f p v (Fits.refl _) trivial trivial)

theorem State.Bounded.updBoot {g : BootUnit → BootUnit} (h : s.Bounded) : (s.updBoot f p g).Bounded :=
  h.only (State.updBoot_only s f p g (Fits.refl _) trivial trivial)

theorem State.Bounded.bootFail {k : Nat} (h : s.Bounded) : (s.bootFail f p k).Bounded :=
  h.only (State.bootFail_only s f p k (Fits.refl _) trivial (fun _ => trivial))

theorem State.Bounded.bootBlock {v : List Byte} (h : s.Bounded) : (s.bootBlock f p v).Bounded := by
  unfold State.bootBlock
  extract_lets B s0
  have h0 : s0.Bounded := .ite (fun _ => h.pcount.fcount) (fun _ => h)
  clear_value s0
  split
  · exact h.bootEnter
  · split
    next e =>
      have h1 := h0.fetchBlock.fst_of e
      exact .ite (fun _ => .ite (fun _ => h1.updBoot.bootEnter) (fun _ => h1.updBoot))
        (fun _ => .ite (fun _ => h1.bootFail) (fun _ => h1.updBoot))

theorem State.Bounded.bootStep (h : s.Bounded) : (s.bootStep f p).Bounded := by
  unfold State.bootStep
  extract_lets i sow
  split
  · exact h
  · exact .ite (fun _ => h.updBoot.pset) (fun _ => .ite (fun _ => h.bootBlock) (fun _ => h))

theorem execBootFetch_bounded (h : s.Bounded) : LeavesBounded (execBootFetch f p s) := by
  unfold execBootFetch
  exact .ite (fun _ => .finish h.bootStep) (fun _ => .next h)

theorem State.Bounded.bootAll {n : Nat} (h : s.Bounded) : (s.bootAll f p n).Bounded := by
  induction n generalizing s with
  | zero => exact h
  | succ n ih => exact .ite (fun _ => ih h.bootStep) (fun _ => h)

theorem State.Bounded.sowCopy {i k : Nat} {b : List Byte} {bad : Bool} (h : s.Bounded) : (s.sowCopy f i k b bad p).Bounded :=
  h.only (State.sowCopy_only s f i k b bad p (Fits.refl _) trivial trivial)

theorem State.Bounded.sowBlock {isRow : Bool} {index mask i k : Nat} (h : s.Bounded) : (s.sowBlock f isRow index mask i k).Bounded := by
  unfold State.sowBlock
  exact h.hbmRead.mcast (fun _ _ h1 => h1.sowCopy)

theorem State.Bounded.sowRowEnd {row mask : Nat} (h : s.Bounded) : (s.sowRowEnd f row mask).Bounded :=
  h.only (State.sowRowEnd_only s f row mask (Fits.refl _) trivial (fun _ => trivial))

theorem execSowingRow_bounded {timeout : Bool} (h : s.Bounded) : LeavesBounded (execSowingRow f timeout s) := by
  unfold execSowingRow
  refine .inRim h ?_
  split
  · exact .next h
  · extract_lets mask ready
    split
    · exact .next h.updField
    · refine .ite (fun _ => .next h) (fun _ => ?_)
      exact .finish (State.Bounded.updField (State.Bounded.sowRowEnd (.foldl _ _ (fun _ _ _ h1 => h1.sowBlock) h)))

theorem execMeshMulticast_bounded {isRow : Bool} {index : Fin 16} {mask : Nat} {load : McastLoad} (h : s.Bounded) : LeavesBounded (execMeshMulticast f isRow index mask load s) := by
  unfold execMeshMulticast
  refine .inRim h ?_
  refine .ite (fun _ => .next h) (fun _ => ?_)
  split
  · exact .next (h.mcast (fun _ _ h1 => h1.ringPlot))
  · exact .finish h.sowBlock

theorem State.Bounded.applyWrites {k : Nat} (h : s.Bounded) : (s.applyWrites k).Bounded := by
  unfold State.applyWrites
  exact .foldl _ _ (fun _ _ _ h1 => .ite (fun _ => (State.Bounded.foldl _ _ (fun _ _ _ h2 => .ite (fun _ => h2.spaceWrite) (fun _ => h2)) h1).spaceWrite) (fun _ => .foldl _ _ (fun _ _ _ h2 => .ite (fun _ => h2.spaceWrite) (fun _ => h2)) h1)) h

theorem State.Bounded.stageTime {skipped : Bool} (h : s.Bounded) : (s.stageTime skipped).Bounded :=
  h.only (State.stageTime_only s skipped (Fits.refl _))

theorem State.Bounded.stageFail {result : Nat} (h : s.Bounded) : (s.stageFail result).Bounded :=
  h.only (State.stageFail_only s result (Fits.refl _))

theorem State.Bounded.stageEvent {phase result : Nat} (h : s.Bounded) : (s.stageEvent phase result).Bounded :=
  h.only (State.stageEvent_only s phase result (Fits.refl _))

theorem State.Bounded.stageStart {k : Nat} (h : s.Bounded) : (s.stageStart k).Bounded :=
  h.only (State.stageStart_only s k (Fits.refl _))

theorem State.Bounded.setPhase {p : Nat} (h : s.Bounded) : (s.setPhase p).Bounded :=
  h.only (State.setPhase_only s p (Fits.refl _))

theorem State.Bounded.stageClose {result : Nat} {skipped : Bool} (h : s.Bounded) : (s.stageClose result skipped).Bounded := by
  unfold State.stageClose
  extract_lets k s0 s1 s2
  have hs1 : s1.Bounded := (State.Bounded.ite (fun _ => h.hset) (fun _ => h)).stageTime
  have hs2 : s2.Bounded := .ite (fun _ => hs1) (fun _ => hs1.applyWrites)
  exact .ite (fun _ => hs2.stageFail) (fun _ => .ite (fun _ => hs2.hset.stageEvent.stageStart) (fun _ => .ite (fun _ => hs2.hset.setPhase.stageEvent.stageStart) (fun _ => hs2.hset.setPhase.stageEvent)))

theorem State.Bounded.stageGo {k : Nat} (h : s.Bounded) : (s.stageGo k).Bounded :=
  h.only (State.stageGo_only s k (Fits.refl _))

theorem State.Bounded.stageSkip {k : Nat} (h : s.Bounded) : (s.stageSkip k).Bounded := by
  unfold State.stageSkip
  exact .ite (fun _ => h.stageClose) (fun _ => h.stageGo)

theorem State.Bounded.hostLightStep {env : LightEnv} (h : s.Bounded) : (s.hostLightStep env).Bounded :=
  h.only (State.hostLightStep_only s env (Fits.refl _) (fun _ => trivial))

theorem State.Bounded.begin (h : s.Bounded) : s.begin.Bounded :=
  h.only (State.begin_only s (Fits.refl _))

theorem execStagePower_bounded {env : LightEnv} (h : s.Bounded) : LeavesBounded (execStagePower env s) := by
  unfold execStagePower
  refine .ite (fun _ => .next h) (fun _ => ?_)
  extract_lets s1 s2
  exact .finish (((State.Bounded.foldl _ _ (fun _ _ _ h1 => h1.updMemu) h.hset).hostLightStep).begin)

theorem State.Bounded.setRail {k : Nat} {up : Bool} (h : s.Bounded) : (s.setRail k up).Bounded :=
  h.only (State.setRail_only s k up (Fits.refl _))

theorem State.Bounded.fieldUp {rimOk : Bool} (h : s.Bounded) : (s.fieldUp f rimOk).Bounded := by
  unfold State.fieldUp
  exact .ite (fun _ => h.hset.setRail.fieldDark) (fun _ => .ite (fun _ => h.hset.setRail) (fun _ => h.hset.setRail.setSvc.updField))

theorem State.Bounded.updSeed {g : SeedUnit → SeedUnit} (h : s.Bounded) : (s.updSeed g).Bounded :=
  h.only (State.updSeed_only s g (Fits.refl _))

theorem State.Bounded.d2dTrain {k n : Nat} (h : s.Bounded) : (s.d2dTrain k n).Bounded :=
  h.only (State.d2dTrain_only s k n (Fits.refl _))

theorem State.Bounded.pkgCoord (h : s.Bounded) : s.pkgCoord.Bounded :=
  h.only (State.pkgCoord_only s (Fits.refl _))

theorem execStageFieldPower_bounded {pgood rimOk : Fin 16} {modules : List Nat} (h : s.Bounded) : LeavesBounded (execStageFieldPower pgood rimOk modules s) := by
  unfold execStageFieldPower
  refine .ite (fun _ => .next h) (fun _ => ?_)
  extract_lets s1 s2 s3
  exact .finish (((State.Bounded.foldl _ _ (fun _ _ _ h1 => h1.d2dTrain) (.foldl _ _ (fun _ _ _ h1 => .ite (fun _ => h1.fieldUp) (fun _ => h1.updSeed)) h.hset.begin)).updSeed).pkgCoord)

theorem State.Bounded.remapTake (h : s.Bounded) : (s.remapTake f).Bounded := by
  unfold State.remapTake
  exact .ite (fun _ => h.updMemu.hset.setSvc) (fun _ => h.updMemu.hset)

theorem State.Bounded.stackUnfit {stack : Nat} (h : s.Bounded) : (s.stackUnfit f stack).Bounded := by
  unfold State.stackUnfit
  exact h.hset.loseStack.setSvc

/-- A stack trained again responds; nothing of it stands in the lists while it was lost (R235). -/
theorem State.Bounded.stackAnswers {stack : Nat} (h : s.Bounded) :
    (s.updMemu f (fun m => if stack = 0 then { m with lost0 := false } else { m with lost1 := false })).Bounded := by
  have hm := h.memu f
  have hlost : ∀ m : FieldMem, ∀ k, m.lost k = false →
      FieldMem.lost (if stack = 0 then { m with lost0 := false } else { m with lost1 := false }) k = false := by
    intro m k hk
    simp only [FieldMem.lost] at hk ⊢
    by_cases hstack : stack = 0 <;> by_cases hzero : k = 0 <;> simp_all
  refine h.updMemu_sound ⟨fun x hx => ?_, fun w hw => ?_, ?_, ?_⟩
  · have hmem : x ∈ (s.memu f).absorber := by
      split at hx <;> exact hx
    exact ⟨(hm.lines x hmem).1, hlost _ _ (hm.lines x hmem).2⟩
  · have hmem : w ∈ (s.memu f).held := by
      split at hw <;> exact hw
    exact hlost _ _ (hm.held w hmem)
  · split <;> exact hm.absorber
  · split <;> exact hm.rows

theorem State.Bounded.hbmTrain {trained : Nat} (h : s.Bounded) : (s.hbmTrain f trained).Bounded := by
  unfold State.hbmTrain
  refine .foldl _ _ (fun t stack _ ht => .ite (fun _ => ?_) (fun _ => ht.stackUnfit)) h
  extract_lets t1
  have h1 : t1.Bounded := .ite (fun _ => ht) (fun _ => ht.stackAnswers)
  exact .ite (fun _ => h1.stackUnfit) (fun _ => h1.hset)

theorem State.Bounded.rowPoison {r : HbmRow} (h : s.Bounded) : (s.rowPoison f r).Bounded :=
  h.only (State.rowPoison_only s f r (Fits.refl _) trivial)

theorem State.Bounded.repairEntry {n result : Nat} (h : s.Bounded) : (s.repairEntry f n result).Bounded := by
  unfold State.repairEntry
  extract_lets F r s1
  split
  · exact h.fset.rowPoison
  · exact h.fset.stackUnfit
  · exact h.fset

theorem State.Bounded.repairAll {repairs : List Nat} (h : s.Bounded) : (s.repairAll f repairs).1.Bounded := by
  unfold State.repairAll
  exact .foldl_fst _ _ _ (fun _ _ _ h1 => .fst_ite (fun _ => h1.repairEntry) (fun _ => h1)) h

theorem State.Bounded.carryApply {carry : Option (List Byte)} (h : s.Bounded) : (s.carryApply carry).Bounded :=
  h.only (State.carryApply_only s carry (Fits.refl _) (fun _ => trivial))

theorem State.Bounded.fallowMarks {m : Nat} (h : s.Bounded) : (s.fallowMarks f m).Bounded :=
  h.only (State.fallowMarks_only s f m (Fits.refl _) trivial)

theorem execStageMemory_bounded {trained : Fin 256} {march : List Nat} {carry : Option Flash} {repairs : List Nat} (h : s.Bounded) : LeavesBounded (execStageMemory trained march carry repairs s) := by
  unfold execStageMemory
  refine .ite (fun _ => .next h) (fun _ => ?_)
  extract_lets fs s1 s2
  have hs1 : s1.Bounded := .foldl _ _ (fun _ _ _ h1 => h1.hbmTrain) h.begin
  dsimp only
  exact .finish (.foldl _ _ (fun _ _ _ h1 => h1.fallowMarks.updMemu.remapTake) (.foldl_fst _ _ _ (fun _ _ _ h1 => h1.repairAll) (.ite (fun _ => .foldl _ _ (fun _ _ _ h1 => h1.hbmTrain) h.begin) (fun _ => (State.Bounded.foldl _ _ (fun _ _ _ h1 => h1.updMem) (.foldl _ _ (fun _ _ _ h1 => h1.hbmTrain) h.begin)).carryApply))))

theorem State.Bounded.planWrite (h : s.Bounded) : (s.planWrite f).Bounded := by
  unfold State.planWrite
  exact .foldl _ _ (fun _ _ _ h1 => h1.fieldWrite) h.fieldWrite.fieldWrite

theorem State.Bounded.arbWrite (h : s.Bounded) : (s.arbWrite f).Bounded := by
  unfold State.arbWrite
  exact h.fieldWrite.fieldWrite

theorem State.Bounded.linkStart {n : PortId} (h : s.Bounded) : (s.linkStart f n).Bounded :=
  h.only (State.linkStart_only s f n (Fits.refl _) trivial)

theorem execStageLinks_bounded (h : s.Bounded) : LeavesBounded (execStageLinks s) := by
  unfold execStageLinks
  refine .ite (fun _ => .next h) (fun _ => ?_)
  extract_lets s1 s2
  exact .finish (.foldl _ _ (fun _ _ _ h1 => .foldl _ _ (fun _ _ _ h2 => h2.linkStart) h1) ((State.Bounded.foldl _ _ (fun _ _ _ h1 => h1.planWrite.arbWrite) h.begin).updHub))

theorem State.Bounded.katField {bad : Nat} {rimBad : Bool} (h : s.Bounded) : (s.katField f bad rimBad).Bounded := by
  unfold State.katField
  exact .ite (fun _ => h.fset.fallowMarks.resetPartition.updField.fset.fieldDark) (fun _ => h.fset.fallowMarks.resetPartition.updField.remapTake)

theorem State.Bounded.imageWrite (h : s.Bounded) : (s.imageWrite f).Bounded := by
  unfold State.imageWrite
  refine .foldl _ _ (fun t a _ h1 => ?_) h
  split
  · exact .ite (fun _ => h1) (fun _ => h1.hbmWrite)
  · exact h1

theorem State.Bounded.stageWait (h : s.Bounded) : s.stageWait.Bounded :=
  h.only (State.stageWait_only s (Fits.refl _))

theorem State.Bounded.deliverAll (h : s.Bounded) : s.deliverAll.Bounded :=
  h.only (State.deliverAll_only s (Fits.refl _) (fun _ => trivial) (fun _ => trivial))

theorem execStageFirmware_bounded (h : s.Bounded) : LeavesBounded (execStageFirmware s) := by
  unfold execStageFirmware
  refine .ite (fun _ => .next h) (fun _ => ?_)
  extract_lets s1 host
  have hs1 : s1.Bounded := .foldl _ _ (fun _ _ _ h1 => h1.imageWrite) h.begin
  exact .ite (fun _ => .finish hs1.stageWait) (fun _ => .finish hs1.deliverAll)

theorem State.Bounded.firmwareEvent (h : s.Bounded) : (s.firmwareEvent f).Bounded :=
  h.only (State.firmwareEvent_only s f (Fits.refl _))

theorem State.Bounded.firmwareEnd (h : s.Bounded) : s.firmwareEnd.Bounded := by
  unfold State.firmwareEnd
  exact (State.Bounded.foldl _ _ (fun _ _ _ h1 => h1.firmwareEvent) h).stageClose

theorem State.Bounded.fabricRecords (h : s.Bounded) : (s.fabricRecords f).Bounded := by
  unfold State.fabricRecords
  exact h.fieldWrite.fieldWrite

theorem State.Bounded.pinRecords (h : s.Bounded) : s.pinRecords.Bounded := by
  unfold State.pinRecords
  exact h.hubWrite.hubWrite

theorem State.Bounded.fabricStart (h : s.Bounded) : s.fabricStart.Bounded := by
  unfold State.fabricStart
  extract_lets s1 s2 s3
  have hs3 : s3.Bounded := .foldl _ _ (fun _ _ _ h1 => h1.seal) (((State.Bounded.foldl _ _ (fun _ _ _ h1 => h1.planWrite.fabricRecords) h.begin).pinRecords).applyWrites)
  split
  · exact hs3.stageFail
  · exact hs3

theorem State.Bounded.stageResume (h : s.Bounded) : s.stageResume.Bounded :=
  h.only (State.stageResume_only s (Fits.refl _))

theorem State.Bounded.stageEnd (h : s.Bounded) : s.stageEnd.Bounded := by
  unfold State.stageEnd
  extract_lets stuck failed runs close
  split
  · exact .ite (fun _ => (State.Bounded.ite (fun _ => h) (fun _ => h.stageResume)).stageClose) (fun _ => h)
  · exact .ite (fun _ => (State.Bounded.ite (fun _ => h) (fun _ => h.stageResume)).stageClose) (fun _ => h)
  · exact .ite (fun _ => (State.Bounded.ite (fun _ => h) (fun _ => h.stageResume)).stageClose) (fun _ => h)
  · exact .ite (fun _ => (State.Bounded.ite (fun _ => h) (fun _ => h.stageResume)).stageClose) (fun _ => h)
  · exact .ite (fun _ => .ite (fun _ => (State.Bounded.ite (fun _ => h) (fun _ => h.stageResume)).stageClose) (fun _ => h)) (fun _ => .ite (fun _ => h.stageFail) (fun _ => h))
  · exact .ite (fun _ => (State.Bounded.ite (fun _ => h) (fun _ => h.stageResume)).stageClose) (fun _ => h)
  · exact .ite (fun _ => (State.Bounded.ite (fun _ => h) (fun _ => h.stageResume)).stageClose) (fun _ => h)
  · exact .ite (fun _ => h.firmwareEnd) (fun _ => h)
  · exact .ite (fun _ => .ite (fun _ => (State.Bounded.ite (fun _ => h) (fun _ => h.stageResume)).stageClose) (fun _ => .ite (fun _ => h) (fun _ => h.stageResume))) (fun _ => h)
  · exact h

theorem State.Bounded.newEpochs (h : s.Bounded) : s.newEpochs.Bounded := by
  unfold State.newEpochs
  exact .foldl _ _ (fun _ _ _ h1 => h1.draw.updGw) h

theorem State.Bounded.healthReset (h : s.Bounded) : (s.healthReset f).Bounded :=
  h.only (State.healthReset_only s f (Fits.refl _) trivial)

theorem State.Bounded.partReset (h : s.Bounded) : (s.partReset f).Bounded := by
  unfold State.partReset
  exact .ite (fun _ => h) (fun _ => .ite (fun _ => h.hset) (fun _ => h.healthReset.setSvc.resetPartition.updThm.shfReset))

theorem State.Bounded.fillAll (h : s.Bounded) : (s.fillAll f).Bounded :=
  h.only (State.fillAll_only s f (Fits.refl _) trivial (fun _ => trivial))

theorem State.Bounded.partDone {march : Nat} (h : s.Bounded) : (s.partDone f march).Bounded := by
  unfold State.partDone
  exact .ite (fun _ => h.fallowMarks.remapTake) (fun _ => (State.Bounded.foldl _ _ (fun _ _ _ h1 => h1.bootAll) h.fallowMarks.remapTake.fillAll).setSvc.firmwareEvent)

theorem State.Bounded.aerPoison {fn : Nat} (h : s.Bounded) : (s.aerPoison fn).Bounded :=
  h.only (State.aerPoison_only s fn (Fits.refl _))

theorem State.Bounded.spaceRead {sp : Space} {off bytes : Nat} (h : s.Bounded) : (s.spaceRead sp off bytes).1.Bounded :=
  h.only (State.spaceRead_only s sp off bytes (Fits.refl _) (fun _ => trivial))

theorem State.Bounded.readData {fn : Nat} {bar2 : Bool} {addr n : Nat} (h : s.Bounded) : (s.readData fn bar2 addr n).1.Bounded := by
  unfold State.readData
  exact .fst_ite (fun _ => .fst_ite (fun _ => h) (fun _ => .fst_ite (fun _ => h.hbmRead.aerPoison) (fun _ => h.hbmRead))) (fun _ => .ite (fun _ => h.spaceRead.draw) (fun _ => h.spaceRead))

theorem State.Bounded.readDo {fn : Nat} {bar2 : Bool} {addr n : Nat} (h : s.Bounded) : (s.readDo fn bar2 addr n).Bounded := by
  unfold State.readDo
  exact .ite (fun _ => h.emit) (fun _ => .foldl _ _ (fun _ _ _ h1 => h1.readData.emit) h)

theorem State.Bounded.aerDrop {fn : Nat} (h : s.Bounded) : (s.aerDrop fn).Bounded :=
  h.only (State.aerDrop_only s fn (Fits.refl _))

theorem State.Bounded.apertureLine {fn a l : Nat} {data : List Byte} {be : Nat} {ep : Bool} (h : s.Bounded) : (s.apertureLine fn a l data be ep).Bounded := by
  unfold State.apertureLine
  exact .ite (fun _ => h) (fun _ => .ite (fun _ => h.lineWriteMask) (fun _ => h.lineWriteMask.aerDrop))

theorem State.Bounded.apertureWrite {fn a : Nat} {data : List Byte} {be : Nat} {ep : Bool} (h : s.Bounded) : (s.apertureWrite fn a data be ep).Bounded := by
  unfold State.apertureWrite
  exact .foldl _ _ (fun _ _ _ h1 => h1.apertureLine) h

end Sys2Proof.Machine
end

section
/-! Resets of the package and accesses from outside keep the lists (R578 to R581, R597, R606, R692). -/

namespace Sys2Proof.Machine

set_option Elab.async false

open Sys2Proof

variable {s t : State} {f : FieldId}

/-! ### Resets -/

/-- Nothing is resident, held or listed after a warm reset; lost stacks stay lost (R580). -/
theorem FieldMem.warm_sound (m : FieldMem) : m.warm.Sound :=
  ⟨fun _ h => absurd h List.not_mem_nil, fun _ h => absurd h List.not_mem_nil, Nat.zero_le _, Nat.zero_le _⟩

theorem Field.warm_sound (f : FieldId) (F : Field) : (Field.warm f F).Sound := by
  refine ⟨FieldMem.warm_sound _, Nat.zero_le _, ⟨Nat.zero_le _, Nat.zero_le _⟩, fun p => Plot.Sound.get fun e he => ?_⟩
  obtain ⟨⟨k, P⟩, -, rfl⟩ := List.mem_map.mp (List.mem_filter.mp he).1
  exact .empty rfl rfl rfl

theorem warmStart_bounded (s : State) : (warmStart s).Bounded := by
  unfold warmStart
  refine .foldl _ _ (fun t f _ h => .ite (fun _ => h) (fun _ => h.raiseHub)) (State.bounded_iff.mpr fun f => ?_)
  fin_cases f <;> exact Field.warm_sound _ _

theorem State.warmReset_bounded (s : State) (i3c : Bool) : (s.warmReset i3c).Bounded := by
  have hafter : ((warmStart s).warmAfter s).Bounded :=
    (warmStart_bounded s).only (State.warmAfter_only _ s (Fits.refl _) (fun _ => trivial))
  have hcounted : (warmCounted s i3c).Bounded := hafter.hset.hcount
  exact hcounted.of_only (State.warmReset_frame s i3c) (by decide +kernel)

theorem State.Bounded.warnSet {pin inj : Bool} (h : s.Bounded) : (s.warnSet pin inj).Bounded :=
  h.only (State.warnSet_only s pin inj (Fits.refl _) (fun _ => trivial))

theorem coldStart_bounded (s : State) (powerOn : Bool) (straps : Nat) (vbat : Vbat) : (coldStart s powerOn straps vbat).Bounded := by
  unfold coldStart
  refine State.Bounded.hset (State.Bounded.hset (State.Bounded.hset (State.Bounded.hset (State.Bounded.updHub ?_))))
  exact State.bounded_iff.mpr State.reset_bounded.field

theorem State.Bounded.newNonce (h : s.Bounded) : s.newNonce.Bounded := h.only (State.newNonce_only s (Fits.refl _))

theorem State.Bounded.calLost (h : s.Bounded) : s.calLost.Bounded := h.only (State.calLost_only s (Fits.refl _))

theorem State.coldReset_bounded (s : State) (powerOn : Bool) (straps : Nat) (vbat : Vbat) : (s.coldReset powerOn straps vbat).Bounded := by
  rw [State.coldReset_eq]
  have h := (coldStart_bounded s powerOn straps vbat).newNonce
  have hepochs : (if vbat = .kept then (coldStart s powerOn straps vbat).newNonce else
      (coldStart s powerOn straps vbat).newNonce.calLost).newEpochs.Bounded :=
    State.Bounded.newEpochs (.ite (fun _ => h) (fun _ => h.calLost))
  exact .ite (fun _ => hepochs.warnSet) (fun _ => hepochs)

/-! ### What the sequencer is asked for (R564, R578, R581) -/

theorem State.Bounded.bootDo {r : BootReq} (h : s.Bounded) : (s.bootDo r).Bounded := by
  cases r with
  | go k => exact h.stageGo
  | skip k => exact h.stageSkip
  | hostImage => exact h.only (State.hostImage_only s (Fits.refl _))
  | imagesReady => exact h.only (State.imagesReady_only s (Fits.refl _) (fun _ => trivial) (fun _ => trivial))
  | warm => exact State.warmReset_bounded s false
  | part m => exact .foldl _ _ (fun _ _ _ ht => .ite (fun _ => ht.partReset) (fun _ => ht)) h
  | jtag => exact h.only (State.jtagResponse_only s _ _ (Fits.refl _))

theorem State.Bounded.bootLoop {n : Nat} (h : s.Bounded) : (s.bootLoop n).Bounded := by
  induction n generalizing s with
  | zero => exact h
  | succ n ih =>
    unfold State.bootLoop
    split
    · exact h
    · exact ih h.updSeed.bootDo

theorem State.Bounded.bootSettle (h : s.Bounded) : s.bootSettle.Bounded := h.bootLoop

/-! ### Accesses from outside -/

theorem State.Bounded.writeDo {fn : Nat} {bar2 : Bool} {addr : Nat} {data : List Byte} {be : Nat} {ep : Bool} (h : s.Bounded) :
    (s.writeDo fn bar2 addr data be ep).Bounded :=
  .ite (fun _ => h.aerDrop) (fun _ => .ite
    (fun _ => .ite (fun _ => h.only (State.sramPost_only s _ _ _ (Fits.refl _))) (fun _ => h.apertureWrite))
    (fun _ => .ite (fun _ => h.aerDrop) (fun _ => .ite (fun _ => h.aerPoison) (fun _ => h.spaceWrite.bootSettle))))

theorem State.Bounded.reqDo {r : HostReq} (h : s.Bounded) : (s.reqDo r).Bounded := by
  cases r with
  | read => exact h.readDo
  | write => exact h.writeDo
  | reg => exact h.agentWrite.bootSettle

theorem State.Bounded.updHost {g : HostUnit → HostUnit} (h : s.Bounded) : (s.updHost g).Bounded :=
  h.only (State.updHost_only s g (Fits.refl _))

theorem State.Bounded.reqWaited {r : HostReq} {q : Nat} (h : s.Bounded) : (s.reqWaited r q).Bounded :=
  h.only (State.reqWaited_only s r q (Fits.refl _) (fun _ => trivial) (fun _ => trivial))

theorem State.Bounded.serveOne {a : HostAcc} (h : s.Bounded) : (s.serveOne a).Bounded :=
  .ite (fun _ => .ite (fun _ => h.reqWaited) (fun _ => h.updHost.reqDo)) (fun _ => h)

theorem State.Bounded.serveHost (h : s.Bounded) : s.serveHost.Bounded := .foldl _ _ (fun _ _ _ ht => ht.serveOne) h

theorem State.Bounded.request {src : Nat} {r : HostReq} (h : s.Bounded) : (s.request src r).Bounded :=
  .ite (fun _ => h.serveHost.updHost.reqWaited) (fun _ => h.serveHost.reqDo)

theorem State.Bounded.tlpDo {src : Nat} {r : HostReq} (h : s.Bounded) : (s.tlpDo src r).Bounded :=
  State.Bounded.request (h.only (State.hostWake_only s (Fits.refl _)))

theorem State.Bounded.heldLoop {l : List (Nat × HostReq)} (h : s.Bounded) : (s.heldLoop l).Bounded := by
  induction l generalizing s with
  | nil => exact h
  | cons x l ih => exact .ite (fun _ => ih h.tlpDo) (fun _ => .ite (fun _ => ih h.updHost) (fun _ => h))

theorem State.Bounded.heldServe (h : s.Bounded) : s.heldServe.Bounded := .ite (fun _ => h.updHost.heldLoop) (fun _ => h)

theorem State.tlp_bounded {src : Nat} {r : HostReq} (h : s.Bounded) : LeavesBounded (s.tlp src r) :=
  .ite (fun _ => .finish h.heldServe.tlpDo) (fun _ => .ite (fun _ => .next h.updHost) (fun _ => .next h))

theorem execRegisterWrite_bounded {a : Agent} {sp : Space} {off bytes value : Nat} (h : s.Bounded) :
    LeavesBounded (execRegisterWrite a sp off bytes value s) := by
  unfold execRegisterWrite
  refine .ite (fun _ => .next h) (fun _ => ?_)
  split
  · exact .ite (fun _ => State.tlp_bounded h) (fun _ => .next h)
  · exact .finish h.request
  · exact .finish h.agentWrite.bootSettle
  · exact .ite (fun _ => .finish h.agentWrite) (fun _ => .next h)

theorem State.idle_bounded (h : s.Bounded) : LeavesBounded s.idle := by
  have htick : s.tick.Bounded := h.only (State.tick_only s (Fits.refl _) (fun _ => trivial))
  exact .finish (.foldl _ _ (fun t f _ ht => ht.only (State.notifyField_only t f (Fits.refl _) trivial (fun _ => trivial)))
    htick.serveHost.heldServe)

end Sys2Proof.Machine
end

section
/-! Drills, groups and transfers keep the lists (R148 to R177, R200 to R223). -/

namespace Sys2Proof.Machine

set_option Elab.async false

open Sys2Proof

variable {s t : State} {f : FieldId} {p : PlotId}

/-! ### Drills -/

theorem State.Bounded.busLoad {a n : Nat} (h : s.Bounded) : (s.busLoad f p a n).st.Bounded := by
  unfold State.busLoad
  extract_lets P t row col v
  split
  · split
    · exact h.pwrap
    · split
      next e =>
        have h1 := h.storeRead.fst_of e
        split <;> exact h1
  · split
    · split
      · exact h
      · split
        · exact h.pwrap
        · split
          · exact h.pwrap
          · split
            · exact h
            · split
              next e => exact State.Bounded.fst_of (h.only (State.binReadRaw_only s f p _ _ _ (Fits.refl _) trivial)) e
    · split
      · exact h
      · split
        · split
          · exact h
          · exact .ite (fun _ => h.cqPop) (fun _ => h)
        · exact h

theorem State.Bounded.descLoad {a : Nat} (h : s.Bounded) : (s.descLoad f p a).st.Bounded :=
  h.only (State.descLoad_only s f p a (Fits.refl _) trivial trivial)

theorem State.Bounded.fetchHalf {a : Nat} (h : s.Bounded) : (s.fetchHalf f p a).st.Bounded :=
  h.only (State.fetchHalf_only s f p a (Fits.refl _) trivial trivial)

theorem State.Bounded.of_res {r : BusRes} (h : r.st.Bounded) (e : r.st = s) : s.Bounded := e ▸ h

theorem State.Bounded.drillExc {cause tval : Nat} (h : s.Bounded) : (s.drillExc f p cause tval).Bounded :=
  h.only (State.drillExc_only s f p cause tval (Fits.refl _) trivial trivial)

theorem State.Bounded.drillRd {rd v len cost : Nat} (h : s.Bounded) : (s.drillRd f p rd v len cost).Bounded :=
  h.only (State.drillRd_only s f p rd v len cost (Fits.refl _) trivial trivial)

theorem State.Bounded.drillLoad {k : LoadKind} {rd rs1 : Nat} {imm : ℤ} {len : Nat} (h : s.Bounded) : (s.drillLoad f p k rd rs1 imm len).Bounded := by
  unfold State.drillLoad
  extract_lets a
  refine .ite (fun _ => h.drillExc) (fun _ => ?_)
  have hload : (s.busLoad f p a (loadBytes k)).st.Bounded := h.busLoad
  split
  next e => exact (hload.of_res (congrArg BusRes.st e)).drillRd
  next e => exact (hload.of_res (congrArg BusRes.st e)).drillExc
  next e => exact hload.of_res (congrArg BusRes.st e)

/-- An instruction that issues does so where the queue has a place (R155). -/
theorem State.Bounded.drillIssue {rd cost : Nat} {go : State → State} (h : s.Bounded)
    (hgo : (s.plot f p).queue.length < queueSize → (go s).Bounded) : (s.drillIssue f p rd cost go).Bounded :=
  .ite (fun _ => h.pwrap) (fun hroom => (hgo (Nat.lt_of_not_le hroom)).drillRd)

theorem State.Bounded.drillTmm {rd dr rs2 : Nat} {int : Bool} (h : s.Bounded) : (s.drillTmm f p rd dr rs2 int).Bounded := by
  unfold State.drillTmm
  exact h.drillIssue (fun hroom => h.issueTmm hroom)

theorem State.Bounded.drillTvec {rd dr rs2 : Nat} {int : Bool} (h : s.Bounded) : (s.drillTvec f p rd dr rs2 int).Bounded := by
  unfold State.drillTvec
  exact h.drillIssue (fun hroom => h.issueTvec hroom)

theorem State.Bounded.drillTxfer {rd rs1 : Nat} (h : s.Bounded) : (s.drillTxfer f p rd rs1).Bounded := by
  unfold State.drillTxfer
  extract_lets a
  refine .ite (fun _ => h.drillExc) (fun _ => .ite (fun _ => h.drillExc) (fun _ => .ite (fun _ => h.pwrap) (fun _ => ?_)))
  have hload : (s.descLoad f p a).st.Bounded := h.descLoad
  split
  next e =>
    have h1 := hload.of_res (congrArg BusRes.st e)
    exact h1.drillIssue (fun hroom => h1.issueTxfer hroom)
  next e => exact (hload.of_res (congrArg BusRes.st e)).drillExc
  next e => exact hload.of_res (congrArg BusRes.st e)

theorem State.Bounded.drillSync {rd : Nat} {op : QOp} {int : Bool} (h : s.Bounded) : (s.drillSync f p rd op int).Bounded :=
  h.drillIssue (fun hroom => h.issue hroom)

theorem State.Bounded.updDrill {g : Drill → Drill} (h : s.Bounded) : (s.updDrill f p g).Bounded :=
  h.only (State.updDrill_only s f p g (Fits.refl _) trivial trivial)

theorem State.Bounded.drillStore {k : StoreKind} {rs2 rs1 : Nat} {imm : ℤ} {len : Nat} (h : s.Bounded) : (s.drillStore f p k rs2 rs1 imm len).Bounded :=
  h.only (State.drillStore_only s f p k rs2 rs1 imm len (Fits.refl _) trivial trivial)

theorem State.Bounded.drillHalt {haltPc resumePc : Nat} (h : s.Bounded) : (s.drillHalt f p haltPc resumePc).Bounded :=
  h.only (State.drillHalt_only s f p haltPc resumePc (Fits.refl _) trivial trivial)

theorem State.Bounded.drillWfi (h : s.Bounded) : (s.drillWfi f p).Bounded :=
  h.only (State.drillWfi_only s f p (Fits.refl _) trivial trivial)

theorem State.Bounded.drillCsr {op : CsrOp} {rd : Nat} {imm : Bool} {src c w : Nat} (h : s.Bounded) : (s.drillCsr f p op rd imm src c w).Bounded :=
  h.only (State.drillCsr_only s f p op rd imm src c w (Fits.refl _) trivial trivial)

theorem State.Bounded.drillTdld {dr rs1 : Nat} (h : s.Bounded) : (s.drillTdld f p dr rs1).Bounded :=
  h.only (State.drillTdld_only s f p dr rs1 (Fits.refl _) trivial trivial)

theorem State.Bounded.drillTdset {dr rs1 w : Nat} (h : s.Bounded) : (s.drillTdset f p dr rs1 w).Bounded :=
  h.only (State.drillTdset_only s f p dr rs1 w (Fits.refl _) trivial trivial)

theorem State.Bounded.drillTdget {rd dr w : Nat} (h : s.Bounded) : (s.drillTdget f p rd dr w).Bounded :=
  h.only (State.drillTdget_only s f p rd dr w (Fits.refl _) trivial trivial)

theorem State.Bounded.drillTwait {rd rs1 : Nat} (h : s.Bounded) : (s.drillTwait f p rd rs1).Bounded :=
  h.only (State.drillTwait_only s f p rd rs1 (Fits.refl _) trivial trivial)

theorem State.Bounded.drillExec {i : DInstr} {len w : Nat} (h : s.Bounded) : (s.drillExec f p i len w).Bounded := by
  unfold State.drillExec
  extract_lets d
  split
  · exact h.drillRd
  · exact h.drillRd
  · exact h.updDrill
  · exact h.updDrill
  · exact .ite (fun _ => h.updDrill) (fun _ => h.updDrill)
  · exact h.drillLoad
  · exact h.drillStore
  · exact h.drillRd
  · exact h.drillRd
  · exact h.updDrill
  · exact h.updDrill
  · exact h.drillExc
  · exact h.drillHalt
  · exact h.updDrill
  · exact h.drillWfi
  · exact h.drillCsr
  · exact h.drillTdld
  · exact h.drillTdset
  · exact h.drillTdget
  · exact h.drillTmm
  · exact h.drillTvec
  · exact h.drillTxfer
  · exact h.drillSync
  · exact h.drillSync
  · exact h.drillSync
  · exact h.drillTwait
  · exact h.drillExc

theorem State.Bounded.drillStep (h : s.Bounded) : (s.drillStep f p).Bounded := by
  unfold State.drillStep
  extract_lets pc
  have hfetch : (s.fetchHalf f p pc).st.Bounded := h.fetchHalf
  split
  next e => exact (hfetch.of_res (congrArg BusRes.st e)).drillExc
  next e => exact hfetch.of_res (congrArg BusRes.st e)
  next s1 w e =>
    have h1 : s1.Bounded := hfetch.of_res (congrArg BusRes.st e)
    refine .ite (fun _ => h1.drillExec) (fun _ => ?_)
    have hnext : (s1.fetchHalf f p ((pc + 2) % 2 ^ 32)).st.Bounded := h1.fetchHalf
    split
    next e => exact (hnext.of_res (congrArg BusRes.st e)).drillExc
    next e => exact hnext.of_res (congrArg BusRes.st e)
    next e => exact (hnext.of_res (congrArg BusRes.st e)).drillExec

theorem State.drillDo_bounded {i : DInstr} {len : Nat} (h : s.Bounded) : LeavesBounded (s.drillDo f p i len) := by
  unfold State.drillDo
  exact .ite (fun _ => .finish h.drillExec) (fun _ => .next h)

/-! ### Groups of codewords (R276, R298, R311) -/

/-- What a command leaves, with the records of its events written, keeps the lists: the next command starts from it. -/
theorem LeavesBounded.andThen {r : Result} {g : State → Result} (hr : LeavesBounded r) (hg : ∀ t, t.Bounded → LeavesBounded (g t)) :
    LeavesBounded (andThen r g) := by
  obtain ⟨u, rfl | rfl, hu⟩ := hr
  · exact hg u hu
  · exact hg _ hu.drain

theorem LeavesBounded.inTurn {α : Type} {g : State → α → Result} (l : List α) (hg : ∀ t a, t.Bounded → LeavesBounded (g t a))
    (h : s.Bounded) : LeavesBounded (inTurn g l s) := by
  induction l generalizing s with
  | nil => exact .next h
  | cons a l ih => exact .andThen (hg s a h) (fun t ht => ih ht)

theorem State.switchIn_bounded {n : PortId} (h : s.Bounded) : LeavesBounded (s.switchIn f n) :=
  bounded_of_frame h (State.switchIn_only s f n (Fits.refl _) trivial)

theorem State.Bounded.fecPoint {n : PortId} {codewords : List (Nat × List Nat)} (h : s.Bounded) : (s.fecPoint f n codewords).1.Bounded :=
  h.only (State.fecPoint_only s f n codewords (Fits.refl _) trivial)

theorem State.Bounded.heardCount {n : PortId} {x : Heard} (h : s.Bounded) : (s.heardCount f n x).Bounded :=
  h.only (State.heardCount_only s f n x (Fits.refl _) trivial)

theorem State.groupIn_bounded {n : PortId} {received : List (Nat × List Nat)} (h : s.Bounded) : LeavesBounded (s.groupIn f n received) := by
  unfold State.groupIn
  split
  next s0 codewords e =>
    extract_lets P hs hd group marked ctl message L value total k cut s1 s2
    have h1 : s1.Bounded := (h.fecPoint.fst_of e).updPort
    clear_value s1 k message
    have h2 : s2.Bounded := .foldl _ _ (fun _ _ _ h1 => h1.heardCount) h1
    refine .andThen (.inTurn _ (fun t bs ht => ?_) h2) (fun t ht => .andThen ?_ (fun u hu => .ite (fun _ => State.switchIn_bounded hu) (fun _ => .finish hu)))
    · exact bounded_of_frame ht (State.flitIn_only f n t bs (Fits.refl _) trivial)
    · cases message with
      | some m => exact bounded_of_frame ht (State.laneIn_only t f n _ _ (Fits.refl _) trivial)
      | none => exact .next ht

/-! ### Transfers -/

theorem State.xferStart_bounded {op : Nat} (h : s.Bounded) : LeavesBounded (s.xferStart f p op) := by
  unfold State.xferStart
  refine .clocked h ?_
  split
  · exact .next h
  · exact .ite (fun _ => .next h) (fun _ => .ite (fun _ => .next h.pwrap) (fun _ => .ite (fun _ => .next h.pwrap) (fun _ => .ite (fun _ => .finish h.complete) (fun _ => .next h.updEntry))))

theorem State.Bounded.localReadLine {a : Nat} (h : s.Bounded) : (s.localReadLine f p a).1.Bounded :=
  h.only (State.localReadLine_only s f p a (Fits.refl _) trivial trivial)

theorem State.Bounded.classReport {tag : Option Nat} {c n : Nat} {inj : Bool} (h : s.Bounded) : (s.classReport f p tag c n inj).Bounded :=
  h.only (State.classReport_only s f p tag c n inj (Fits.refl _) trivial trivial)

theorem State.Bounded.xferIssue {e : QEntry} {d : Nat} (h : s.Bounded) : (s.xferIssue f p e d).Bounded := by
  unfold State.xferIssue
  exact (State.Bounded.fst_ite (fun _ => h.localReadLine) (fun _ => h)).updPlot.updEntry.classReport

theorem execXferLineIssue_bounded (h : s.Bounded) : LeavesBounded (execXferLineIssue f p s) := by
  unfold execXferLineIssue
  refine .inRim h ?_
  refine .clocked h ?_
  extract_lets P
  refine .ite (fun _ => .next h) (fun _ => ?_)
  split
  · exact .next h
  · exact .finish h.xferIssue

theorem State.Bounded.xlineEnd {x : XLine} {status : Nat} (h : s.Bounded) : (s.xlineEnd f p x status).Bounded := by
  unfold State.xlineEnd
  exact .ite (fun _ => h) (fun _ => h.xferDone)

theorem State.Bounded.xlineOwnDone {x : XLine} (h : s.Bounded) : (s.xlineOwnDone f p x).Bounded := by
  unfold State.xlineOwnDone
  exact .ite (fun _ => .ite (fun _ => h.updPlot.targetRead.localWriteLine.xlineEnd) (fun _ => h.updPlot.targetRead.xlineEnd)) (fun _ => h.updPlot.targetWrite.xlineEnd)

theorem execXferLineDone_bounded {qsn line : Nat} (h : s.Bounded) : LeavesBounded (execXferLineDone f p qsn line s) := by
  unfold execXferLineDone
  refine .inRim h ?_
  extract_lets P
  split
  · exact .next h
  · extract_lets earlier
    exact .ite (fun _ => .next h) (fun _ => .ite (fun _ => .finish h.xlineOwnDone) (fun _ => .next h))

theorem execXferDescriptorComplete_bounded {qsn : Nat} (h : s.Bounded) : LeavesBounded (execXferDescriptorComplete f p qsn s) := by
  unfold execXferDescriptorComplete
  refine .clocked h ?_
  split
  · split
    · exact .ite (fun _ => .finish h.complete) (fun _ => .next h)
    · exact .next h
  · exact .next h

theorem execGatewayLineAccept_bounded (h : s.Bounded) : LeavesBounded (execGatewayLineAccept f p s) := by
  unfold execGatewayLineAccept
  refine .inRim h ?_
  split
  · exact .next h
  · extract_lets s1
    have h1 : s1.Bounded := h.updPlot
    split
    · exact .finish h1.xlineEnd
    · exact .finish h1.gwEnqueue

theorem execOrderedLineSend_bounded {req : Nat} (h : s.Bounded) : LeavesBounded (execOrderedLineSend f req s) := by
  unfold execOrderedLineSend
  refine .inRim h ?_
  split
  · exact .next h
  · extract_lets ahead
    refine .ite (fun _ => .next h) (fun _ => ?_)
    exact .ite (fun _ => .finish h.gwSend.lineFinish) (fun _ => .next h.gwSend)

theorem execDeferResend_bounded {req : Nat} (h : s.Bounded) : LeavesBounded (execDeferResend f req s) := by
  unfold execDeferResend
  refine .inRim h ?_
  split
  · exact .next h
  · exact .next h.gwSend

theorem execTrfenceStart_bounded (h : s.Bounded) : LeavesBounded (execTrfenceStart f p s) := by
  unfold execTrfenceStart
  refine .clocked h ?_
  extract_lets P
  split
  · exact .next h
  · split
    · extract_lets before issued accepted
      refine .ite (fun _ => .next h) (fun _ => ?_)
      refine .ite (fun _ => .finish h.complete) (fun _ => ?_)
      refine .ite (fun _ => .next h.updEntry) (fun _ => ?_)
      exact .finish h.updEntry.updGw.fenceStep
    · exact .next h

theorem execTrfenceComplete_bounded (h : s.Bounded) : LeavesBounded (execTrfenceComplete f p s) := by
  unfold execTrfenceComplete
  refine .clocked h ?_
  split
  · exact .finish h.complete
  · exact .next h

end Sys2Proof.Machine
end

section
/-! Every step keeps the lists within their unit's places (R129, R155, R199, R242, R410, R421, R422, R678). -/

namespace Sys2Proof.Machine

set_option Elab.async false

open Sys2Proof

variable {s t : State} {f : FieldId}

theorem State.injRow_bounded {r point target arg : Nat} {g : State → Nat → State} (h : s.Bounded)
    (hg : ∀ t a, t.Bounded → (g t a).Bounded) : LeavesBounded (s.injRow f r point target arg g) :=
  .ite (fun _ => .next h) (fun _ => .finish (h.fset.fset.fset.injTry (fun t => hg t _)))

/-- Every command of the operation table: by its frame where that holds none of the lists. -/
theorem exec_bounded (i : Instr) (h : s.Bounded) : LeavesBounded (exec i s) := by
  cases i with
  | registerWrite => exact execRegisterWrite_bounded h
  | heartbeat => exact execHeartbeat_bounded h
  | hubLostEntry => exact .inRim h (.finish h.hbMissed)
  | d2dModuleLoss k => exact bounded_of_frame h (execD2dModuleLoss_only k s (Fits.refl _))
  | rimFatalError => exact .finish h.fieldDark
  | tinePassStart => exact execTinePassStart_bounded h
  | weightLoad => exact execWeightLoad_bounded h
  | tinePassRetire => exact execTinePassRetire_bounded h
  | degenerateRetire => exact execDegenerateRetire_bounded h
  | ballastRow f p t => exact bounded_of_frame h (execBallastRow_only f p t s (Fits.refl _) trivial trivial)
  | sampleProcess => exact execSampleProcess_bounded h
  | injWitnessLane f plot tine column b lane => exact bounded_of_frame h (execInjWitnessLane_only f plot tine column b lane s (Fits.refl _) trivial)
  | injWitnessWeight f plot tine column b lane => exact bounded_of_frame h (execInjWitnessWeight_only f plot tine column b lane s (Fits.refl _) trivial)
  | injScarecrowBias f plot tine column b lane => exact bounded_of_frame h (execInjScarecrowBias_only f plot tine column b lane s (Fits.refl _) trivial)
  | injBinSingle f plot tine column b lane => exact bounded_of_frame h (execInjBinSingle_only f plot tine column b lane s (Fits.refl _) trivial)
  | injBinDouble f plot tine column b lane => exact bounded_of_frame h (execInjBinDouble_only f plot tine column b lane s (Fits.refl _) trivial)
  | injClassReport f plot tine column b lane => exact bounded_of_frame h (execInjClassReport_only f plot tine column b lane s (Fits.refl _) trivial)
  | drillInstruction => exact .ite (fun _ => .finish h.drillStep) (fun _ => .next h)
  | drillLoad => exact State.drillDo_bounded h
  | drillStore f p k rs2 rs1 imm compressed => exact bounded_of_frame h (execDrillStore_only f p k rs2 rs1 imm compressed s (Fits.refl _) trivial trivial)
  | ebreak f p compressed => exact bounded_of_frame h (execEbreak_only f p compressed s (Fits.refl _) trivial trivial)
  | ecall f p => exact bounded_of_frame h (execEcall_only f p s (Fits.refl _) trivial trivial)
  | mret f p => exact bounded_of_frame h (execMret_only f p s (Fits.refl _) trivial trivial)
  | wfi f p => exact bounded_of_frame h (execWfi_only f p s (Fits.refl _) trivial trivial)
  | wfiWake f p => exact bounded_of_frame h (execWfiWake_only f p s (Fits.refl _) trivial trivial)
  | fence f p => exact bounded_of_frame h (execFence_only f p s (Fits.refl _) trivial trivial)
  | fenceI f p => exact bounded_of_frame h (execFenceI_only f p s (Fits.refl _) trivial trivial)
  | drillInterrupt f p => exact bounded_of_frame h (execDrillInterrupt_only f p s (Fits.refl _) trivial trivial)
  | drillHoldSet f p => exact bounded_of_frame h (execDrillHoldSet_only f p s (Fits.refl _) trivial trivial)
  | drillHoldClear f p => exact bounded_of_frame h (execDrillHoldClear_only f p s (Fits.refl _) trivial trivial)
  | haltReq f p => exact bounded_of_frame h (execHaltReq_only f p s (Fits.refl _) trivial trivial)
  | haltReqHonour f p => exact bounded_of_frame h (execHaltReqHonour_only f p s (Fits.refl _) trivial trivial)
  | resume f p => exact bounded_of_frame h (execResume_only f p s (Fits.refl _) trivial trivial)
  | plotStoreScrub f p => exact bounded_of_frame h (execPlotStoreScrub_only f p s (Fits.refl _) trivial trivial)
  | plotStoreMeshWrite f p addr data poisoned => exact bounded_of_frame h (execPlotStoreMeshWrite_only f p addr data poisoned s (Fits.refl _) trivial trivial)
  | xferNop => exact State.xferStart_bounded h
  | xferGet => exact State.xferStart_bounded h
  | xferPut => exact State.xferStart_bounded h
  | xferPutPartial => exact State.xferStart_bounded h
  | xferPutReduce => exact State.xferStart_bounded h
  | xferMcastPut => exact State.xferStart_bounded h
  | xferFetchAdd => exact State.xferStart_bounded h
  | xferCompareSwap => exact State.xferStart_bounded h
  | xferLineIssue => exact execXferLineIssue_bounded h
  | xferLineDone => exact execXferLineDone_bounded h
  | xferDescriptorComplete => exact execXferDescriptorComplete_bounded h
  | pltDoorbellSet f p v => exact bounded_of_frame h (execPltDoorbellSet_only f p v s (Fits.refl _) trivial trivial)
  | pltDoorbellClear f p v => exact bounded_of_frame h (execPltDoorbellClear_only f p v s (Fits.refl _) trivial trivial)
  | fldDoorbellRing => exact .next h.doorbellRing
  | pltNotify f p v leaves => exact bounded_of_frame h (execPltNotify_only f p v leaves s (Fits.refl _) trivial trivial)
  | mailboxSend ep => exact bounded_of_frame h (execMailboxSend_only ep s (Fits.refl _) (fun _ => trivial) (fun _ => trivial))
  | mailboxDeliver ep => exact bounded_of_frame h (execMailboxDeliver_only ep s (Fits.refl _) (fun _ => trivial) (fun _ => trivial))
  | mailboxInAck ep code => exact bounded_of_frame h (execMailboxInAck_only ep code s (Fits.refl _) (fun _ => trivial) (fun _ => trivial))
  | tdld f p dr rs1 => exact bounded_of_frame h (execTdld_only f p dr rs1 s (Fits.refl _) trivial trivial)
  | tdset f p dr rs1 w => exact bounded_of_frame h (execTdset_only f p dr rs1 w s (Fits.refl _) trivial trivial)
  | tdget f p rd dr w => exact bounded_of_frame h (execTdget_only f p rd dr w s (Fits.refl _) trivial trivial)
  | tmm => exact State.drillDo_bounded h
  | tvec => exact State.drillDo_bounded h
  | txfer => exact State.drillDo_bounded h
  | tfence => exact State.drillDo_bounded h
  | tfenceStart => exact execTfenceStart_bounded h
  | tscdrain => exact State.drillDo_bounded h
  | tscdrainStart => exact execTscdrainStart_bounded h
  | tscdrainComplete => exact execTscdrainComplete_bounded h
  | trfence => exact State.drillDo_bounded h
  | trfenceStart => exact execTrfenceStart_bounded h
  | trfenceComplete => exact execTrfenceComplete_bounded h
  | twait f p rd rs1 => exact bounded_of_frame h (execTwait_only f p rd rs1 s (Fits.refl _) trivial trivial)
  | twaitEnd f p => exact bounded_of_frame h (execTwaitEnd_only f p s (Fits.refl _) trivial trivial)
  | tvecNop => exact State.tvecStart_bounded h
  | tvecAdd => exact State.tvecStart_bounded h
  | tvecSub => exact State.tvecStart_bounded h
  | tvecMul => exact State.tvecStart_bounded h
  | tvecFma => exact State.tvecStart_bounded h
  | tvecMin => exact State.tvecStart_bounded h
  | tvecMax => exact State.tvecStart_bounded h
  | tvecAbs => exact State.tvecStart_bounded h
  | tvecNeg => exact State.tvecStart_bounded h
  | tvecCmp => exact State.tvecStart_bounded h
  | tvecSelect => exact State.tvecStart_bounded h
  | tvecExp2 => exact State.tvecStart_bounded h
  | tvecLog2 => exact State.tvecStart_bounded h
  | tvecRecip => exact State.tvecStart_bounded h
  | tvecRsqrt => exact State.tvecStart_bounded h
  | tvecIadd => exact State.tvecStart_bounded h
  | tvecIsub => exact State.tvecStart_bounded h
  | tvecImin => exact State.tvecStart_bounded h
  | tvecImax => exact State.tvecStart_bounded h
  | tvecAnd => exact State.tvecStart_bounded h
  | tvecOr => exact State.tvecStart_bounded h
  | tvecXor => exact State.tvecStart_bounded h
  | tvecSll => exact State.tvecStart_bounded h
  | tvecSra => exact State.tvecStart_bounded h
  | tvecSrl => exact State.tvecStart_bounded h
  | tvecIcmp => exact State.tvecStart_bounded h
  | tvecCvt => exact State.tvecStart_bounded h
  | tvecBenc => exact State.tvecStart_bounded h
  | tvecBscale => exact State.tvecStart_bounded h
  | tvecBdec => exact State.tvecStart_bounded h
  | tvecAmax => exact State.tvecStart_bounded h
  | tvecSum => exact State.tvecStart_bounded h
  | tvecComplete => exact execTvecComplete_bounded h
  | cqPop => exact State.drillDo_bounded h
  | hbmRead => exact execHbmRead_bounded h
  | hbmWrite => exact .inRim h (.ite (fun _ => .next h) (fun _ => .finish h.lineWrite))
  | hbmStackLost => exact .inRim h (.finish h.stackLost)
  | ecsRead f count0 count1 => exact bounded_of_frame h (execEcsRead_only f count0 count1 s (Fits.refl _) trivial)
  | hbmPatrolScrub => exact .inRim h (.ite (fun _ => .finish h.patrol) (fun _ => .next h))
  | mirrorWriteRelease => exact .inRim h (.finish h.releaseHeld)
  | plotFallowSet f phys => exact bounded_of_frame h (execPlotFallowSet_only f phys s (Fits.refl _) trivial (fun _ => trivial))
  | meshMulticast => exact execMeshMulticast_bounded h
  | meshMulticastComplete => exact execMeshMulticastComplete_bounded h
  | calSlotStart port => exact bounded_of_frame h (execCalSlotStart_only port s (Fits.refl _) (fun _ => trivial))
  | calSlotEnd port rx => exact bounded_of_frame h (execCalSlotEnd_only port rx s (Fits.refl _) (fun _ => trivial))
  | calLockTimeout port rx => exact bounded_of_frame h (execCalLockTimeout_only port rx s (Fits.refl _) (fun _ => trivial))
  | wavelengthFail port rx w reason => exact bounded_of_frame h (execWavelengthFail_only port rx w reason s (Fits.refl _) (fun _ => trivial))
  | laneRetry port w => exact bounded_of_frame h (execLaneRetry_only port w s (Fits.refl _) (fun _ => trivial))
  | laneRetryEnd port rx w pass => exact bounded_of_frame h (execLaneRetryEnd_only port rx w pass s (Fits.refl _) (fun _ => trivial))
  | rxPowerMeasure f n powers => exact bounded_of_frame h (execRxPowerMeasure_only f n powers s (Fits.refl _) trivial)
  | marginEval inletA inletB => exact bounded_of_frame h (execMarginEval_only inletA inletB s (Fits.refl _) (fun _ => trivial))
  | switchoverRunStart atMark => exact bounded_of_frame h (execSwitchoverRunStart_only atMark s (Fits.refl _) (fun _ => trivial))
  | engineSwitchover => exact bounded_of_frame h (execEngineSwitchover_only s (Fits.refl _) (fun _ => trivial))
  | engineSwitchoverEnd micros lost => exact bounded_of_frame h (execEngineSwitchoverEnd_only micros lost s (Fits.refl _) (fun _ => trivial))
  | engineSwitchReq f e target => exact bounded_of_frame h (execEngineSwitchReq_only f e target s (Fits.refl _) trivial)
  | engineSwitchNow f e target => exact bounded_of_frame h (execEngineSwitchNow_only f e target s (Fits.refl _) trivial)
  | modulePoll m answer => exact bounded_of_frame h (execModulePoll_only m answer s (Fits.refl _))
  | moduleIbi m faults => exact bounded_of_frame h (execModuleIbi_only m faults s (Fits.refl _))
  | laserEnDeassert => exact bounded_of_frame h (execLaserEnDeassert_only s (Fits.refl _) (fun _ => trivial))
  | relight env => exact bounded_of_frame h (execRelight_only env s (Fits.refl _) (fun _ => trivial))
  | inletLost engine m => exact bounded_of_frame h (execInletLost_only engine m s (Fits.refl _) (fun _ => trivial))
  | aprEnter port => exact bounded_of_frame h (execAprEnter_only port s (Fits.refl _) (fun _ => trivial))
  | aprExit port => exact bounded_of_frame h (execAprExit_only port s (Fits.refl _) (fun _ => trivial))
  | txModeReq f n mode => exact bounded_of_frame h (execTxModeReq_only f n mode s (Fits.refl _) trivial)
  | wavelengthLock f n w => exact bounded_of_frame h (execWavelengthLock_only f n w s (Fits.refl _) trivial)
  | wavelengthLockLoss f n w => exact bounded_of_frame h (execWavelengthLockLoss_only f n w s (Fits.refl _) trivial)
  | mapChange f n slot wave => exact bounded_of_frame h (execMapChange_only f n slot wave s (Fits.refl _) trivial)
  | modeChange f n mode => exact bounded_of_frame h (execModeChange_only f n mode s (Fits.refl _) trivial)
  | cal f n w ends => exact bounded_of_frame h (execCal_only f n w ends s (Fits.refl _) trivial)
  | calDone f n w confirmed => exact bounded_of_frame h (execCalDone_only f n w confirmed s (Fits.refl _) trivial)
  | laneFailed f n w reason => exact bounded_of_frame h (execLaneFailed_only f n w reason s (Fits.refl _) trivial)
  | lightPause f n begins => exact bounded_of_frame h (execLightPause_only f n begins s (Fits.refl _) trivial)
  | powerReport f n part powers => exact bounded_of_frame h (execPowerReport_only f n part powers s (Fits.refl _) trivial)
  | beacon f n part arg => exact bounded_of_frame h (execBeacon_only f n part arg s (Fits.refl _) trivial)
  | train f n farState ready lastSeq => exact bounded_of_frame h (execTrain_only f n farState ready lastSeq s (Fits.refl _) trivial)
  | qualResult f n mask => exact bounded_of_frame h (execQualResult_only f n mask s (Fits.refl _) trivial)
  | retrain f n => exact bounded_of_frame h (execRetrain_only f n s (Fits.refl _) trivial)
  | switchGroup => exact .inRim h (.ite (fun _ => State.switchIn_bounded h) (fun _ => State.groupIn_bounded h))
  | switchTimeout f n => exact bounded_of_frame h (execSwitchTimeout_only f n s (Fits.refl _) trivial)
  | modeChangeResume f n flits => exact bounded_of_frame h (execModeChangeResume_only f n flits s (Fits.refl _) trivial)
  | lightPauseTimeout f n => exact bounded_of_frame h (execLightPauseTimeout_only f n s (Fits.refl _) trivial)
  | dataFlit f n ty flit => exact bounded_of_frame h (execDataFlit_only f n ty flit s (Fits.refl _) trivial)
  | idleFlit f n flit => exact bounded_of_frame h (execIdleFlit_only f n flit s (Fits.refl _) trivial)
  | nakFlit f n flit => exact bounded_of_frame h (execNakFlit_only f n flit s (Fits.refl _) trivial)
  | flitSlot f link => exact bounded_of_frame h (execFlitSlot_only f link s (Fits.refl _) trivial)
  | replayTimeout f n seq => exact bounded_of_frame h (execReplayTimeout_only f n seq s (Fits.refl _) trivial)
  | lockTimeout f n => exact bounded_of_frame h (execLockTimeout_only f n s (Fits.refl _) trivial)
  | qualifyEnd f n w lineBits corrected uncorrectable => exact bounded_of_frame h (execQualifyEnd_only f n w lineBits corrected uncorrectable s (Fits.refl _) trivial)
  | rxSilentTimeout f n => exact bounded_of_frame h (execRxSilentTimeout_only f n s (Fits.refl _) trivial)
  | retrainTimeout f n => exact bounded_of_frame h (execRetrainTimeout_only f n s (Fits.refl _) trivial)
  | linkEnableClear f n => exact bounded_of_frame h (execLinkEnableClear_only f n s (Fits.refl _) trivial)
  | linkRetry f n => exact bounded_of_frame h (execLinkRetry_only f n s (Fits.refl _) trivial)
  | beaconSend f n => exact bounded_of_frame h (execBeaconSend_only f n s (Fits.refl _) trivial)
  | laneControlRepeat f n => exact bounded_of_frame h (execLaneControlRepeat_only f n s (Fits.refl _) trivial)
  | missingTimeout f n => exact bounded_of_frame h (execMissingTimeout_only f n s (Fits.refl _) trivial)
  | discApprove f mask => exact bounded_of_frame h (execDiscApprove_only f mask s (Fits.refl _) trivial)
  | discApprovalWithdraw f n => exact bounded_of_frame h (execDiscApprovalWithdraw_only f n s (Fits.refl _) trivial)
  | routePacket f link vc stage => exact bounded_of_frame h (execRoutePacket_only f link vc stage s (Fits.refl _) trivial)
  | mcastCopy f => exact bounded_of_frame h (execMcastCopy_only f s (Fits.refl _) trivial)
  | sealTables f => exact bounded_of_frame h (execSeal_only f s (Fits.refl _) trivial)
  | congSample f => exact bounded_of_frame h (execCongSample_only f s (Fits.refl _) trivial)
  | congWindowEnd f => exact bounded_of_frame h (execCongWindowEnd_only f s (Fits.refl _) trivial)
  | fldAllotWrite f id => exact bounded_of_frame h (execFldAllotWrite_only f id s (Fits.refl _) trivial)
  | gatewayLineAccept => exact execGatewayLineAccept_bounded h
  | orderedLineSend => exact execOrderedLineSend_bounded h
  | get => exact execGet_bounded h
  | put => exact .inRim h (State.orderedRow_bounded h)
  | putPartial => exact .inRim h (State.orderedRow_bounded h)
  | putReduce => exact .inRim h (State.orderedRow_bounded h)
  | putReduceComb => exact execPutReduceComb_bounded h
  | mcastPut => exact execMcastPut_bounded h
  | fetchAdd => exact execFetchAdd_bounded h
  | compareSwap => exact execCompareSwap_bounded h
  | flushReq => exact execFlushReq_bounded h
  | getResp => exact execGetResp_bounded h
  | ack => exact execAck_bounded h
  | defer => exact execDefer_bounded h
  | atomicResp => exact execAtomicResp_bounded h
  | mcAck => exact execMcAck_bounded h
  | flushAck => exact execFlushAck_bounded h
  | ackSend => exact .inRim h (.ite (fun _ => .next h.sendAck) (fun _ => .next h))
  | deferResend => exact execDeferResend_bounded h
  | ageTokenTimeout => exact execAgeTokenTimeout_bounded h
  | retxTimeout => exact execRetxTimeout_bounded h
  | allotHalt => exact .inRim h (.finish h.allotHalt)
  | absorberWriteback => exact .inRim h (.ite (fun _ => .finish h.absorberFlush) (fun _ => .next h))
  | atomicCacheExpiry => exact .inRim h (.next (h.updGw (ha := List.length_filter_le _ _)))
  | gwyRedRelease => exact .inRim h (.finish h.redRelease)
  | combSlotSend f slot aged => exact bounded_of_frame h (execCombSlotSend_only f slot aged s (Fits.refl _) trivial)
  | putReduceResume => exact execPutReduceResume_bounded h
  | register f slot addr => exact bounded_of_frame h (execRegister_only f slot addr s (Fits.refl _) trivial)
  | registrationComplete => exact execRegistrationComplete_bounded h
  | reform => exact .inRim h (.finish h.shfReform)
  | release => exact .inRim h (.finish h.shfRelease)
  | tailWrite => exact .inRim h (.finish h.shfReadTail)
  | collectiveStart => exact execCollectiveStart_bounded h
  | readyLineWrite => exact .inRim h (.finish h.shfReadReady)
  | digest => exact execDigest_bounded h
  | piece => exact execPiece_bounded h
  | pieceSend => exact execPieceSend_bounded h
  | chunkFold => exact execChunkFold_bounded h
  | gather => exact execGather_bounded h
  | receipt => exact execReceipt_bounded h
  | credit f pkt => exact bounded_of_frame h (execCredit_only f pkt s (Fits.refl _) trivial)
  | abort => exact execAbort_bounded h
  | partResend f slot k => exact bounded_of_frame h (execPartResend_only f slot k s (Fits.refl _) trivial)
  | stageTimeout => exact execStageTimeout_bounded h
  | healthWindowClose => exact bounded_of_frame h (execHealthWindowClose_only s (Fits.refl _) (fun _ => trivial))
  | hardEvent f => exact bounded_of_frame h (execHardEvent_only f s (Fits.refl _) trivial)
  | expelClear f => exact bounded_of_frame h (execExpelClear_only f s (Fits.refl _) trivial)
  | granuleTake => exact execGranuleTake_bounded h
  | mirMarkSend => exact .inRim h (.finish h.mirCommit)
  | mirMark => exact .inRim h (State.orderedRow_bounded h)
  | mirLayout => exact .inRim h (State.orderedRow_bounded h)
  | mirPull => exact .inRim h (State.orderedRow_bounded h)
  | mirPush => exact execMirPush_bounded h
  | mirDone => exact .inRim h (State.orderedRow_bounded h)
  | mirPartnerTimeout f n => exact bounded_of_frame h (execMirPartnerTimeout_only f n s (Fits.refl _) trivial)
  | mirLayoutRetry => exact execMirLayoutRetry_bounded h
  | mirLoadStart => exact .inRim h (.finish h.loadStart.mirSettle)
  | mirLoadAbort f => exact bounded_of_frame h (execMirLoadAbort_only f s (Fits.refl _) trivial)
  | mirLoadTimeout => exact .inRim h (.finish h.loadFail.mirSettle)
  | injReq => exact bounded_of_frame h (execInjReq_only s (Fits.refl _))
  | injValue value => exact bounded_of_frame h (execInjValue_only value s (Fits.refl _) (fun _ => trivial))
  | injLock => exact .finish h.injLock
  | injWindowExpiry => exact bounded_of_frame h (execInjWindowExpiry_only s (Fits.refl _))
  | injHoldoffEnd => exact bounded_of_frame h (execInjHoldoffEnd_only s (Fits.refl _))
  | tallyBeaconSend f link => exact bounded_of_frame h (execTallyBeaconSend_only f link s (Fits.refl _) trivial)
  | tallyBeacon f link pkt => exact bounded_of_frame h (execTallyBeacon_only f link pkt s (Fits.refl _) trivial)
  | hubTallyBeacon => exact bounded_of_frame h (execHubTallyBeacon_only s (Fits.refl _))
  | rootLost f => exact bounded_of_frame h (execRootLost_only f s (Fits.refl _) trivial)
  | rootInitial f => exact bounded_of_frame h (execRootInitial_only f s (Fits.refl _) trivial)
  | rootTakeover f => exact bounded_of_frame h (execRootTakeover_only f s (Fits.refl _) trivial)
  | tallyLockTimeout f => exact bounded_of_frame h (execTallyLockTimeout_only f s (Fits.refl _) trivial)
  | markArm f w => exact bounded_of_frame h (execMarkArm_only f w s (Fits.refl _) trivial)
  | boundaryMark => exact execBoundaryMark_bounded h
  | houseMark => exact .ite (fun _ => .next h) (fun _ => .finish h.markActions)
  | driftReportWrite => exact execDriftReportWrite_bounded h
  | stepTimingReportWrite => exact execStepTimingReportWrite_bounded h
  | redEntryRelease => exact execRedEntryRelease_bounded h
  | markDone f => exact bounded_of_frame h (execMarkDone_only f s (Fits.refl _) trivial)
  | tallyMarkPulse => exact bounded_of_frame h (execTallyMarkPulse_only s (Fits.refl _))
  | calendarComp temp => exact bounded_of_frame h (execCalendarComp_only temp s (Fits.refl _))
  | calApply => exact bounded_of_frame h (execCalApply_only s (Fits.refl _))
  | vbatLow => exact bounded_of_frame h (execVbatLow_only s (Fits.refl _))
  | coldReset => exact .finish (State.coldReset_bounded s _ _ _)
  | warmReset i3c => exact .finish (State.warmReset_bounded s i3c)
  | partitionReset => exact .finish h.partReset
  | partitionResetDone => exact .ite (fun _ => .finish h.partDone) (fun _ => .next h)
  | stagePower => exact execStagePower_bounded h
  | stageSeed env flash => exact bounded_of_frame h (execStageSeed_only env flash s (Fits.refl _) (fun _ => trivial))
  | stageFieldPower => exact execStageFieldPower_bounded h
  | stageMemory => exact execStageMemory_bounded h
  | stageLight env => exact bounded_of_frame h (execStageLight_only env s (Fits.refl _) (fun _ => trivial))
  | stageLinks => exact execStageLinks_bounded h
  | stageKnownAnswer => exact .ite (fun _ => .next h) (fun _ => .ite (fun _ => .finish h.begin.stageClose) (fun _ => .finish (.foldl _ _ (fun _ _ _ h1 => h1.katField) h.begin)))
  | stageFirmware => exact execStageFirmware_bounded h
  | stageFabric => exact .ite (fun _ => .finish h.fabricStart.bootSettle) (fun _ => .next h)
  | stageReady => exact bounded_of_frame h (execStageReady_only s (Fits.refl _) (fun _ => trivial))
  | stageEnd => exact .ite (fun _ => .finish h.stageEnd.bootSettle) (fun _ => .next h)
  | stageGo => exact .finish h.stageGo.bootSettle
  | stageSkip => exact .finish h.stageSkip.bootSettle
  | hostImage => exact bounded_of_frame h (execHostImage_only s (Fits.refl _))
  | imagesReady => exact bounded_of_frame h (execImagesReady_only s (Fits.refl _) (fun _ => trivial) (fun _ => trivial))
  | hostLightRetry env => exact bounded_of_frame h (execHostLightRetry_only env s (Fits.refl _) (fun _ => trivial))
  | pgoodTimeout => exact .ite (fun _ => .finish h.pwrenDrop.fieldDark.updSeed) (fun _ => .next h)
  | linksStageTimeout => exact .ite (fun _ => .finish h.stageClose.bootSettle) (fun _ => .next h)
  | fabricStageTimeout => exact .ite (fun _ => .finish h.stageClose.bootSettle) (fun _ => .next h)
  | bootFetch => exact execBootFetch_bounded h
  | sowingRow => exact execSowingRow_bounded h
  | jtagResponse sigR sigS => exact bounded_of_frame h (execJtagResponse_only sigR sigS s (Fits.refl _))
  | jtagHoldoffEnd => exact bounded_of_frame h (execJtagHoldoffEnd_only s (Fits.refl _))
  | memoryRead => exact .ite (fun _ => .next h) (fun _ => State.tlp_bounded h)
  | memoryWrite => exact .ite (fun _ => .next h) (fun _ => State.tlp_bounded h)
  | functionLevelReset fn => exact bounded_of_frame h (execFunctionLevelReset_only fn s (Fits.refl _) (fun _ => trivial) (fun _ => trivial))
  | powerStateChange fn d3 => exact bounded_of_frame h (execPowerStateChange_only fn d3 s (Fits.refl _))
  | hostLinkRecovery => exact bounded_of_frame h (execHostLinkRecovery_only s (Fits.refl _))
  | hostRetrain => exact bounded_of_frame h (execHostRetrain_only s (Fits.refl _))
  | msixMessage fn cls cfg => exact bounded_of_frame h (execMsixMessage_only fn cls cfg s (Fits.refl _))
  | evtConsWrite sp v => exact bounded_of_frame h (execEvtConsWrite_only sp v s (Fits.refl _) (fun _ => trivial))
  | evtRingConfig sp enable sizeLog base => exact bounded_of_frame h (execEvtRingConfig_only sp enable sizeLog base s (Fits.refl _) (fun _ => trivial))
  | mgmtRead node off words => exact bounded_of_frame h (execMgmtRead_only node off words s (Fits.refl _) (fun _ => trivial))
  | mgmtReadServe => exact execMgmtReadServe_bounded h
  | mgmtReply pkt => exact bounded_of_frame h (execMgmtReply_only pkt s (Fits.refl _) (fun _ => trivial))
  | mgmtTimeoutExpiry => exact bounded_of_frame h (execMgmtTimeoutExpiry_only s (Fits.refl _))
  | eventForward f => exact bounded_of_frame h (execEventForward_only f s (Fits.refl _) trivial)
  | forwardedEvent f pkt => exact bounded_of_frame h (execForwardedEvent_only f pkt s (Fits.refl _) trivial)
  | fwdDiscardTimeout f => exact bounded_of_frame h (execFwdDiscardTimeout_only f s (Fits.refl _) trivial)
  | powerModeRequest mode atMark limit => exact bounded_of_frame h (execPowerModeRequest_only mode atMark limit s (Fits.refl _) (fun _ => trivial))
  | powerModeChange => exact bounded_of_frame h (execPowerModeChange_only s (Fits.refl _) (fun _ => trivial))
  | powerModeChangeComplete => exact bounded_of_frame h (execPowerModeChangeComplete_only s (Fits.refl _) (fun _ => trivial))
  | governorPeriod p pb wantUp => exact bounded_of_frame h (execGovernorPeriod_only p pb wantUp s (Fits.refl _) (fun _ => trivial))
  | rampRelease => exact bounded_of_frame h (execRampRelease_only s (Fits.refl _))
  | startTokenGrant f => exact bounded_of_frame h (execStartTokenGrant_only f s (Fits.refl _) trivial (fun _ => trivial))
  | pwrWarnAssert => exact bounded_of_frame h (execPwrWarnAssert_only s (Fits.refl _) (fun _ => trivial))
  | holdEnd => exact bounded_of_frame h (execHoldEnd_only s (Fits.refl _) (fun _ => trivial))
  | pgoodFall => exact execPgoodFall_bounded h
  | pgoodOptTimeout => exact bounded_of_frame h (execPgoodOptTimeout_only s (Fits.refl _) (fun _ => trivial))
  | sensorSample => exact execSensorSample_bounded h
  | pinSample readings => exact bounded_of_frame h (execPinSample_only readings s (Fits.refl _) (fun _ => trivial))
  | pinCritClear n => exact bounded_of_frame h (execPinCritClear_only n s (Fits.refl _) (fun _ => trivial))
  | dropRecover f => exact bounded_of_frame h (execDropRecover_only f s (Fits.refl _) trivial)
  | tdutyStep f => exact bounded_of_frame h (execTdutyStep_only f s (Fits.refl _) trivial)
  | injHbmSymbol f target arg => exact bounded_of_frame h (execInjHbmSymbol_only f target arg s (Fits.refl _) trivial)
  | injHbmDouble f target arg => exact bounded_of_frame h (execInjHbmDouble_only f target arg s (Fits.refl _) trivial)
  | injStackLost => exact State.injRow_bounded h (fun _ _ ht => ht.beginStackLost)
  | injStoreSingle f target arg => exact bounded_of_frame h (execInjStoreSingle_only f target arg s (Fits.refl _) trivial)
  | injStoreDouble f target arg => exact bounded_of_frame h (execInjStoreDouble_only f target arg s (Fits.refl _) trivial)
  | injFecSymbols f target arg => exact bounded_of_frame h (execInjFecSymbols_only f target arg s (Fits.refl _) trivial)
  | injFlitCrc f target arg => exact bounded_of_frame h (execInjFlitCrc_only f target arg s (Fits.refl _) trivial)
  | injLaneFail f target arg => exact bounded_of_frame h (execInjLaneFail_only f target arg s (Fits.refl _) trivial)
  | injRingUnlock f target arg => exact bounded_of_frame h (execInjRingUnlock_only f target arg s (Fits.refl _) trivial)
  | injRxPower f target arg => exact bounded_of_frame h (execInjRxPower_only f target arg s (Fits.refl _) trivial)
  | injBeaconId f target arg => exact bounded_of_frame h (execInjBeaconId_only f target arg s (Fits.refl _) trivial)
  | injRetrain f target arg => exact bounded_of_frame h (execInjRetrain_only f target arg s (Fits.refl _) trivial)
  | injNoAck f target arg => exact bounded_of_frame h (execInjNoAck_only f target arg s (Fits.refl _) trivial)
  | injReqDrop f target arg => exact bounded_of_frame h (execInjReqDrop_only f target arg s (Fits.refl _) trivial)
  | injDefer f target arg => exact bounded_of_frame h (execInjDefer_only f target arg s (Fits.refl _) trivial)
  | injRedFull f target arg => exact bounded_of_frame h (execInjRedFull_only f target arg s (Fits.refl _) trivial)
  | injCombRefuse f target arg => exact bounded_of_frame h (execInjCombRefuse_only f target arg s (Fits.refl _) trivial)
  | injDigest f target arg => exact bounded_of_frame h (execInjDigest_only f target arg s (Fits.refl _) trivial)
  | injSilent f target arg => exact bounded_of_frame h (execInjSilent_only f target arg s (Fits.refl _) trivial)
  | injPieceDrop f target arg => exact bounded_of_frame h (execInjPieceDrop_only f target arg s (Fits.refl _) trivial)
  | injDoneDigest f target arg => exact bounded_of_frame h (execInjDoneDigest_only f target arg s (Fits.refl _) trivial)
  | injPushStall f target arg => exact bounded_of_frame h (execInjPushStall_only f target arg s (Fits.refl _) trivial)
  | injBufFull f target arg => exact bounded_of_frame h (execInjBufFull_only f target arg s (Fits.refl _) trivial)
  | injSkip f target arg => exact bounded_of_frame h (execInjSkip_only f target arg s (Fits.refl _) trivial)
  | injOffset f target arg => exact bounded_of_frame h (execInjOffset_only f target arg s (Fits.refl _) trivial)
  | injBeatStop f target arg => exact bounded_of_frame h (execInjBeatStop_only f target arg s (Fits.refl _) trivial)
  | injBeaconMute f target arg => exact bounded_of_frame h (execInjBeaconMute_only f target arg s (Fits.refl _) trivial)
  | injSensorOffset f target arg => exact bounded_of_frame h (execInjSensorOffset_only f target arg s (Fits.refl _) trivial)
  | injSensorRamp f target arg => exact bounded_of_frame h (execInjSensorRamp_only f target arg s (Fits.refl _) trivial)
  | injSensorBroken f target arg => exact bounded_of_frame h (execInjSensorBroken_only f target arg s (Fits.refl _) trivial)
  | injPwrWarn target arg => exact bounded_of_frame h (execInjPwrWarn_only target arg s (Fits.refl _) (fun _ => trivial))
  | injPinReading target arg => exact bounded_of_frame h (execInjPinReading_only target arg s (Fits.refl _))
  | injPinBroken target arg => exact bounded_of_frame h (execInjPinBroken_only target arg s (Fits.refl _))
  | injHeartbeatStop target arg => exact bounded_of_frame h (execInjHeartbeatStop_only target arg s (Fits.refl _) (fun _ => trivial))
  | injHostLaneFail target arg => exact bounded_of_frame h (execInjHostLaneFail_only target arg s (Fits.refl _))
  | injModuleFault target arg => exact bounded_of_frame h (execInjModuleFault_only target arg s (Fits.refl _))
  | injMargin target arg => exact bounded_of_frame h (execInjMargin_only target arg s (Fits.refl _))
  | injInletDrop target arg => exact bounded_of_frame h (execInjInletDrop_only target arg s (Fits.refl _) (fun _ => trivial))
  | injEffectEnd f r => exact bounded_of_frame h (execInjEffectEnd_only f r s (Fits.refl _) (fun _ => trivial))
  | droopDetectorTrip f p cycles => exact bounded_of_frame h (execDroopDetectorTrip_only f p cycles s (Fits.refl _) trivial trivial)
  | pwrWarnDeassert => exact bounded_of_frame h (execPwrWarnDeassert_only s (Fits.refl _) (fun _ => trivial))
  | parentLoss f => exact bounded_of_frame h (execParentLoss_only f s (Fits.refl _) trivial)
  | headerMapDesync f n => exact bounded_of_frame h (execHeaderMapDesync_only f n s (Fits.refl _) trivial)
  | aspmL1Entry => exact bounded_of_frame h (execAspmL1Entry_only s (Fits.refl _))
  | hostLinkTrained ok => exact bounded_of_frame h (execHostLinkTrained_only ok s (Fits.refl _))
  | plotDormant f p => exact bounded_of_frame h (execPlotDormant_only f p s (Fits.refl _) trivial trivial)

/-- Whatever command is at the front. -/
theorem step_bounded (h : s.Bounded) (hstep : step s = .next t) : t.Bounded := by
  have hresult : LeavesBounded (step s) := by
    cases hq : s.pending with
    | nil =>
      rw [step_of_pending_nil hq]
      exact State.idle_bounded h
    | cons c rest =>
      have hs : s = { s with pending := c :: rest } := by rw [← hq]
      rw [hs, stepRunsTheFrontCommand s c rest]
      exact exec_bounded c (State.bounded_iff.mpr h.field)
  obtain ⟨u, hu, hbounded⟩ := hresult
  rw [hstep] at hu
  rcases hu with hu | hu
  · cases hu
    exact hbounded
  · cases hu
    exact hbounded.drain

/-- Settles O32: command by command; a command that adds to a list finds a place free, and the writes that do nothing to the lists are
passed over by their frames. -/
theorem linesStayWhole : Obligations.LinesStayWhole := by
  unfold Obligations.LinesStayWhole
  exact fun s t hstep h => step_bounded h hstep

end Sys2Proof.Machine
end

section
/-! A get whose line stands in the absorber with more than 128 bytes (R170, R232, R422). -/

namespace Sys2Proof.Machine

set_option Elab.async false

open Sys2Proof

/-- The one line of a get in field 0: line 0 of its HBM to address 0 of the store of plot 0. -/
def lineGot : XLine :=
  { qsn := 0, line := 0, op := 1, dst := State.reset.node 0, addr := 0, loc := 0, typ := 0, operand := 0, mask := 0, axis := 0, data := [],
    poisoned := false, gone := false }

/-- That line is due, and line 0 of HBM is resident with a byte more than a line has. -/
def gotOverlong : State :=
  ((State.reset.hset Reg.HUB_FIELD_STATE.STATE svcReady 0 0).updMemu 0
    (fun m => { m with absorber := [⟨0, List.replicate 129 7, false, false⟩] })).updPlot 0 0 (fun P => { P with xlines := [lineGot] })

theorem execXferLineDone_gotOverlong :
    execXferLineDone 0 0 0 0 gotOverlong = finish (gotOverlong.xlineOwnDone 0 0 lineGot) :=
  execXferLineDone_performs (s := gotOverlong) (x := lineGot) (fun _ => by decide +kernel) (by decide +kernel) (by decide +kernel)
    (by decide +kernel) (by decide +kernel)

/-- The byte past the place of the line takes the byte too many. -/
theorem gotOverlong_byte_after : Mem.byte (gotOverlong.xlineOwnDone 0 0 lineGot).mem.store[(0 : FieldId)] 128 = 7 := by decide +kernel

/-- Records of events lie in no plot store. -/
theorem State.drain_store (s : State) (f : FieldId) : s.drain.mem.store[f] = s.mem.store[f] :=
  ((State.drain_only (K := recordParts) (F := fun _ => True) (P := fun _ => True) s (by decide +kernel) (fun _ => trivial)
    (.refl _ _ _ s)).same .store f (by decide +kernel) (.inl (by decide +kernel))).2.2

/-- Refutes O18: its clause on the line of a get does not ask that the absorber's lines be whole, as the other clauses that touch HBM
do. Where the line read is resident with 129 bytes, all of them are written at LOCAL, and the byte past its line there changes. No
step leads to such a line from a state that has none (LinesStayWhole). -/
theorem not_writesStayInTheirLines : ¬ Obligations.WritesStayInTheirLines := by
  unfold Obligations.WritesStayInTheirLines
  rintro ⟨-, -, -, hget, -⟩
  obtain ⟨u, hu, -, hstore⟩ := hget gotOverlong 0 0 0 0 lineGot (by decide +kernel) rfl
  have hbyte : Mem.byte u.mem.store[(0 : FieldId)] 128 = Mem.byte gotOverlong.mem.store[(0 : FieldId)] 128 := hstore 128 (by decide +kernel)
  have hleft : u.mem.store[(0 : FieldId)] = (gotOverlong.xlineOwnDone 0 0 lineGot).mem.store[(0 : FieldId)] := by
    replace hu := hu.imp execXferLineDone_gotOverlong.symm.trans execXferLineDone_gotOverlong.symm.trans
    rcases hu with hu | hu
    · rw [← Host.Outcome.next.inj hu, State.drain_store]
    · rw [← u.drain_store, ← Host.Outcome.next.inj hu, State.drain_store]
  rw [hleft, gotOverlong_byte_after] at hbyte
  exact absurd hbyte (by decide +kernel)

end Sys2Proof.Machine
end
